-- ==== Sys2Proof/Word.lean ====
section
/-! DEFINITION. The register word and the byte (R4), and the sparse table that holds
registers, banks and memory in one canonical form. -/

namespace Sys2Proof

/-- Every register is 32 bits wide and bit 0 is its least significant bit (R4). -/
abbrev Word := BitVec 32

abbrev Byte := BitVec 8

/-- A sparse table: pairs of a key and a value, keys rising, no value equal to the one an
unlisted key reads as. -/
abbrev Tbl (α : Type) := List (Nat × α)

namespace Tbl

/-- The value at key `k`; `d` is what an unlisted key reads as. -/
def get {α : Type} (d : α) (k : Nat) : Tbl α → α
  | [] => d
  | (k', v) :: t => if k' = k then v else get d k t

/-- The table without key `k`. -/
def del {α : Type} (k : Nat) : Tbl α → Tbl α
  | [] => []
  | (k', v) :: t => if k' = k then del k t else (k', v) :: del k t

/-- Put `v` at `k` before the first larger key. -/
def ins {α : Type} (k : Nat) (v : α) : Tbl α → Tbl α
  | [] => [(k, v)]
  | (k', v') :: t => if k < k' then (k, v) :: (k', v') :: t else (k', v') :: ins k v t

/-- Write `v` at `k`; writing what an unlisted key reads as removes the entry. -/
def set {α : Type} [DecidableEq α] (d : α) (k : Nat) (v : α) (t : Tbl α) : Tbl α :=
  if v = d then del k t else ins k v (del k t)

/-- Keys strictly rising from `lo`. -/
def rising {α : Type} (lo : Nat) : Tbl α → Bool
  | [] => true
  | (k, _) :: t => decide (lo ≤ k) && rising (k + 1) t

/-- The canonical form: keys strictly rising, no entry equal to what its key reads as unlisted. -/
def canonical {α : Type} [DecidableEq α] (d : Nat → α) (t : Tbl α) : Bool :=
  rising 0 t && t.all (fun e => decide (e.2 ≠ d e.1))

end Tbl

end Sys2Proof
end

