-- ==== Sys2Proof/Syntax.lean ====
section
/-! DEFINITION. The commands and events of the part: one constructor of `Instr` for each row of
spec/opcode_table.json, with the operands the row's rule gives it.  Operands that the outside
supplies (a sampled level, data of a read the host answers, a frame's bytes) are the row's too. -/

namespace Sys2Proof

/-- The two requesters of the register fabric (R12); an access through a VF is the host's (R130). -/
inductive Req where
  | host
  | gkp
  deriving DecidableEq, Repr

/-- The board rails with a detector (R418). -/
inductive Rail where
  | vddCore
  | vddPll
  | vddaSer
  | vddhSer
  | vddio12
  | vddqDram
  | vddio18
  | vddaAdc
  deriving DecidableEq, Repr

/-- The registers of Advanced Error Reporting that R328 supports: the status, mask and severity of
uncorrectable errors, the status and mask of correctable ones. -/
inductive AerReg where
  | uncor
  | uncorMask
  | uncorSev
  | cor
  | corMask
  deriving DecidableEq, Repr

/-- What a configuration read asks for (R328). -/
inductive CfgReg where
  | totalVfs
  | numVfs
  | msixEnable (fn : Fin 5)
  | power (fn : Fin 5)
  /-- Max_Payload_Size, and Max_Read_Request_Size shifted by 3, as PCI Express encodes them -/
  | sizes
  | bar (vf : Bool) (n : Fin 5)
  | aer (fn : Fin 5) (x : AerReg)
  deriving DecidableEq, Repr

/-- What a PCIe configuration request asks (R73, R328, R334). -/
inductive CfgOp where
  | read (x : CfgReg)
  /-- the host sets NumVFs -/
  | numVfs (n : BitVec 3)
  /-- the host writes the mask bit of a vector: function 0 the PF, 1–4 the VFs -/
  | msixMask (fn : Fin 5) (vec : BitVec 6) (masked : Bool)
  /-- the address and data of a vector's entry in the MSI-X table -/
  | msixEntry (fn : Fin 5) (vec : BitVec 6) (addr : BitVec 64) (data : Word)
  /-- MSI-X Enable of a function -/
  | msixEnable (fn : Fin 5) (on : Bool)
  /-- a function enters D3hot, or returns to D0 -/
  | power (fn : Fin 5) (d3hot : Bool)
  /-- Max_Payload_Size and Max_Read_Request_Size, as PCI Express encodes them -/
  | sizes (payload request : BitVec 3)
  /-- a base address register: of the PF, or of the VFs -/
  | bar (vf : Bool) (n : Fin 5) (addr : BitVec 64)
  /-- a register of a function's error reporting -/
  | aer (fn : Fin 5) (x : AerReg) (v : Word)
  deriving DecidableEq, Repr

/-- Whose host read received no completion (R330). -/
inductive DmaClient where
  /-- a descriptor or tile read of stream `s` -/
  | ring (s : Fin 4)
  /-- a descriptor or frame read of the virtual interface's transmit ring -/
  | vniTx
  /-- a descriptor read of the virtual interface's receive ring -/
  | vniRx
  deriving DecidableEq, Repr

/-- A word of the on-die SRAM that a read finds in error, by its offset: one bad bit, or two (R300, R365). -/
structure SramErr where
  ofs : BitVec 26
  two : Bool
  deriving DecidableEq, Repr

/-- One codeword of a DRAM read found in error (R293): subchannel, beat, and its bad bit, or none for more than one. -/
structure BeatErr where
  addr : BitVec 40
  sub : Bool
  beat : BitVec 4
  bit : Option (BitVec 6)
  deriving DecidableEq, Repr

/-- A frame as it reaches a port (R308, R326). -/
structure RxFrame where
  /-- bytes, without FCS -/
  bytes : List Byte
  /-- at which byte an FCS or parity error shows, if one does -/
  badAt : Option (BitVec 14)
  /-- bytes that wait in the port's receive queue as it arrives, and are taken before it -/
  fill : BitVec 21
  /-- ns since its message timestamp point passed the balls (R323) -/
  age : BitVec 16
  /-- RS-FEC codewords corrected, and not correctable, since the last frame -/
  fecCorr : BitVec 16
  fecUncorr : BitVec 16
  deriving DecidableEq, Repr

/-- Which loss R311 declares. -/
inductive LossCause where
  | los
  | pcs
  | keepalive
  | disabled
  deriving DecidableEq, Repr

/-- One row of spec/opcode_table.json. -/
inductive Instr where
  -- power-on, rails, crystal, host link, safety inputs
  | vbusPor (rise : Bool)
  | railGood (rail : Rail)
  | railLoss (rail : Rail)
  | resetIn (low : Bool)
  | deviceResetHold
  | xtalQualified
  | xtalStop
  | perstAssert
  | perstDeassert
  | pcieHotReset
  | pcieLinkDown
  /-- the rate, 1–4 for 2.5, 5, 8 and 16 GT/s, and the number of lanes -/
  | pcieLinkUp (speed width : BitVec 3) (degraded : Bool)
  | pcieConfigRequest (op : CfgOp)
  | estopFall
  | estopRise
  /-- the qualified level: high is the row's event, low is its end, log 67 -/
  | webBreakQualified (high : Bool)
  -- start-up
  | sramInitDone (exhausted : Bool)
  | verifyFwDone (slot : Fin 2)
  /-- whether every record of configuration A, and of configuration B, is accepted and committed -/
  | configDone (okA okB : Bool)
  | dramTrainDone (ok0 ok1 : Bool) (temp0 temp1 : BitVec 16)
  -- clocks
  | pllLock (n : Fin 15)
  | pllSwitchBack (n : Fin 15)
  | bypassHold (n : Fin 15)
  | pllUnlock (n : Fin 15)
  | refLoss (n : Fin 15) (lost : Bool)
  | freqMeasure (n : Fin 15) (khz : Word)
  | relock (r : Req) (arg : BitVec 16)
  | deviceReset (r : Req) (arg : BitVec 16)
  -- register fabric
  | registerWrite (r : Req) (page off : BitVec 12) (be : BitVec 4) (v : Word)
  | snapshotLoRead (r : Req) (page off : BitVec 12)
  | snapshotHiRead (r : Req) (page off : BitVec 12)
  | commitCancel (r : Req) (page : BitVec 12)
  | commitNow (r : Req) (page : BitVec 12)
  | commitNextLine (r : Req) (page : BitVec 12)
  | commitNextPage (r : Req) (page : BitVec 12)
  | commitAtPosition (r : Req) (page : BitVec 12)
  | commitBadWhen (r : Req) (page : BitVec 12) (mode : BitVec 4)
  | commitTakesEffect (page : BitVec 12)
  | unitLockWrite (r : Req) (page : BitVec 12)
  | follyArm (r : Req) (page : BitVec 12) (key : BitVec 16)
  | follyDisarm (r : Req) (page : BitVec 12)
  | follyWindowEnd (page : BitVec 12)
  | follyMarkEnd (page : BitVec 12)
  -- power
  | voteWrite (r : Req) (client : Fin 7) (level : BitVec 14)
  | domainQuiesced (d : Fin 7)
  | domainSupplyGood (d : Fin 7)
  | railTimeout
  | memDropRetry
  | holdRegate (d : Fin 7)
  | patrolCycle (codes : List (BitVec 12))
  | wakeComparatorTrip (c : Fin 4)
  | wakeComparatorReset (c : Fin 4)
  | adcConversion (code : BitVec 12)
  -- Sundial
  | encoderEdge (n : Fin 3) (a b agree : Bool)
  | encoderSample (n : Fin 3) (sin cos : BitVec 14)
  | indexEdge (n : Fin 3)
  | indexMissing (n : Fin 3)
  | wireFault (n : Fin 3)
  | wireQualified (n : Fin 3)
  | standstill
  | standstillEnd
  | reverseEnter
  | reverseExit
  | speedCollapse
  | indexCorrection
  | calibrate (r : Req) (n : Fin 3) (arg : BitVec 16)
  | calibrationFitEnd (n : Fin 3) (complete : Bool)
  | clearDrift (r : Req) (n : Fin 3) (arg : BitVec 16)
  | loadPosition (r : Req) (arg : BitVec 16)
  | sdlResume (r : Req) (arg : BitVec 16)
  | alignCheck (r : Req) (arg : BitVec 16)
  | releaseHalt (r : Req) (arg : BitVec 16)
  | sdlEnable (r : Req)
  | sdlDisable (r : Req)
  | encEnable (r : Req) (n : Fin 3)
  | encDisable (r : Req) (n : Fin 3)
  | hscStart (r : Req) (h : Fin 32) (arg : BitVec 16)
  | hscStop (r : Req) (h : Fin 32) (arg : BitVec 16)
  | trgStart (r : Req) (arg : BitVec 16)
  | trgStop (r : Req) (arg : BitVec 16)
  /-- head `h`, or TRG for none -/
  | scheduleDisable (r : Req) (h : Option (Fin 32))
  | tileDeadline (h : Fin 32)
  | sendDeadline (h : Fin 32)
  | lineHit (h : Fin 32)
  | triggerHit
  | triggerPulseEnd (k : Fin 6)
  -- streams and kiosks
  | tileFragment (port : Fin 2) (udpPort : BitVec 16) (src datagram : List Byte)
  | keepalive (port : Fin 2) (udpPort : BitVec 16) (src datagram : List Byte)
  | ackInterval (s : Fin 4)
  | gapWaitExpiry (s : Fin 4)
  | tileEligible (s : Fin 4) (tile : Nat)
  | ringDoorbell (r : Req) (s : Fin 4) (tail : BitVec 16)
  | descriptorRead (s : Fin 4) (desc tile : List Byte) (poisoned : Bool)
  | loopPass (s : Fin 4)
  | kioskTakeTile (k : Fin 96)
  | kioskBlockEnd (k : Fin 96) (errs : List SramErr)
  | tileDecoded (k : Fin 96) (errs : List SramErr)
  | admissionCheck
  | lookaheadCheck
  | applyRibbons (r : Req) (arg : BitVec 16)
  | stmStart (r : Req) (s : Fin 4) (arg : BitVec 16)
  | stmReset (r : Req) (s : Fin 4) (arg : BitVec 16)
  | ringReset (r : Req) (s : Fin 4) (arg : BitVec 16)
  | streamResetDone (s : Fin 4)
  | stmDisable (r : Req) (s : Fin 4)
  | vfFlr (s : Fin 4)
  | pfFlr
  | dmaTimeout (c : DmaClient)
  | kioskWithdraw (r : Req) (page : BitVec 12) (arg : BitVec 16)
  | kioskReturn (r : Req) (page : BitVec 12) (arg : BitVec 16)
  | starveLogReadLo (r : Req)
  | starveLogReadHi (r : Req)
  -- Trellis
  /-- poisoned ribbon groups as (plane, group), poisoned table entries as nozzle numbers, and the words of
  SRAM, by their offsets, in which the mapping's reads corrected a single-bit error -/
  | trellisHandover (h : Fin 32) (groups : List (Fin 4 × Fin 128)) (entries : List (BitVec 13))
      (ces : List (BitVec 26))
  | bankSyncDone (page : BitVec 12)
  | trlTblAccess (r : Req) (h : Fin 32) (w : Fin 4) (write : Option Word)
  | trlLoadDefault (r : Req) (h : Fin 32) (arg : BitVec 16)
  | trlLoadDefaultDone (h : Fin 32)
  | trlRevert (r : Req) (h : Fin 32) (arg : BitVec 16)
  | setOut (r : Req) (arg : BitVec 16)
  -- firing
  | trainDeferredStart (h : Fin 32)
  /-- the sample in mV, or none where the channel cannot be read -/
  | railSample (c : Fin 4) (mv : Option (BitVec 16))
  | stuckStrobeCut (h : Fin 32)
  | dutyJudge (h : Fin 32)
  | rearm (r : Req) (arg : BitVec 16)
  -- Onlek
  | onkNak (h : Fin 32) (tag : Byte)
  | trainReport (h : Fin 32) (tag expect : Byte) (empty unsynced : Bool)
  | trainReportTimeout (h : Fin 32)
  | tempBlock (h : Fin 32) (temp : BitVec 16)
  | returnTimeout (h : Fin 32)
  | statusBlock (h : Fin 32) (status : BitVec 16)
  | stageAck (h : Fin 32) (table result : Byte)
  | stageAckTimeout (h : Fin 32)
  | commitAck (h : Fin 32) (table result : Byte)
  | readResp (h : Fin 32) (num result : Byte) (data : List Word)
  | readTimeout (h : Fin 32)
  | laneUp (h : Fin 32)
  | laneLos (h : Fin 32)
  | laneLol (h : Fin 32)
  | onkEnable (r : Req) (h : Fin 32)
  | onkRead (r : Req) (h : Fin 32) (arg : BitVec 16)
  | onkFlush (r : Req) (h : Fin 32) (arg : BitVec 16)
  | headLoop (r : Req) (h : Fin 32) (arg : BitVec 16)
  | stage (r : Req) (arg : BitVec 16)
  | onkAbort (r : Req) (arg : BitVec 16)
  | unmaskAlert (r : Req) (arg : BitVec 16)
  /-- whether SDA is low at the check before the transfer, and high after the nine clocks -/
  | mbusXfer (r : Req) (arg : BitVec 16) (sdaLow sdaHigh : Bool)
  | mbusXferDone (m : Fin 4) (nak : Bool) (data : List Byte)
  /-- whether SDA is low at the check after the transfer, and high after the nine clocks -/
  | mbusSclTimeout (m : Fin 4) (sdaLow sdaHigh : Bool)
  | mbusRecover (r : Req) (arg : BitVec 16) (sdaHigh : Bool)
  | hdAlertFall (j : Fin 8)
  | alertRepeat (j : Fin 8)
  | alertStuck (j : Fin 8)
  -- Belvedere
  | camLvalRise (k : Fin 6)
  /-- the port's data at the rising and at the falling edges of the pixel clock while LVAL was high, whether
  samples were dropped, and the indices of samples with a parity error -/
  | camLvalFall (k : Fin 6) (rise fall : List (BitVec 24)) (overflow : Bool) (parity : List (BitVec 13))
  | camTriggerMissed (k : Fin 6)
  | fvalRise (k : Fin 6)
  | fvalFall (k : Fin 6)
  | frameLinesReached (k : Fin 6)
  /-- the same of a line in progress, up to the last edge -/
  | pclkLoss (k : Fin 6) (rise fall : List (BitVec 24)) (overflow : Bool) (parity : List (BitVec 13))
  /-- sample indices read with a poison tag, and how many words of the queue were corrected -/
  | camLineDelivered (k : Fin 6) (poisoned : List (BitVec 13)) (ces : Nat)
  | storeHeaderWrite (k : Fin 6)
  | camEnable (r : Req) (k : Fin 6)
  | camDisable (r : Req) (k : Fin 6)
  | camTblAccess (r : Req) (k : Fin 6) (write : Option Word)
  | camLoadDefault (r : Req) (k : Fin 6) (arg : BitVec 16)
  | camRevert (r : Req) (k : Fin 6) (arg : BitVec 16)
  -- quality loop
  | qlpRowWrite (h : Fin 32)
  /-- whether the row holds a poisoned word -/
  | qlpCompare (k : Fin 6) (poisoned : Bool) (ces : List (BitVec 26))
  | qlpEnable (r : Req)
  | qlpModeWrite (r : Req) (mode : Bool)
  | proposalRead (r : Req) (auto : Bool)
  | usedBinRoll
  | align (r : Req) (arg : BitVec 16)
  | alignDone
  | alignTimeout
  | qlpClear (r : Req) (arg : BitVec 16)
  | archive (r : Req) (arg : BitVec 16)
  | archiveTileVerified
  | archiveDone
  | arcAbort (r : Req) (arg : BitVec 16)
  -- memory
  | dramRequest (port : Fin 5) (addr : BitVec 40) (len : BitVec 13) (write : Option (List Byte))
      (poison : Bool) (errs : List BeatErr)
  | refreshDue (c : Fin 2) (hot : Bool)
  | scrubRead (c : Fin 2) (errs : List BeatErr)
  /-- whether every lane shows an eye of at least 0.2 UI, used at the end of a sweep; the PHY temperature -/
  | trainingSlice (c : Fin 2) (eyes : Bool) (temp : BitVec 16)
  | forcedSweepTrigger (c : Fin 2)
  | panicLong (p : Fin 5)
  /-- the words of SRAM, by their offsets, in which the read corrects a single-bit error -/
  | hostWindowAccess (r : Req) (off : BitVec 28) (len : BitVec 13) (write : Option (List Byte))
      (poison : Bool) (errs : List SramErr)
  | hostFenceRead (r : Req)
  | copy (r : Req) (arg : BitVec 16)
  | copyDone (errs : List SramErr)
  | copyCancel (r : Req) (arg : BitVec 16) (errs : List SramErr)
  | retrain (r : Req) (c : Fin 2) (arg : BitVec 16)
  | clearErrs (r : Req) (c : Fin 2) (arg : BitVec 16)
  | channelEnable (r : Req) (c : Fin 2) (v : Bool)
  | channelTrainDone (c : Fin 2) (ok : Bool) (temp : BitVec 16)
  -- network and time
  | pathCheck
  | pathLoss (cause : LossCause)
  | autoReturn
  | overlapEnd
  | returnWaitReset
  | switch (r : Req) (arg : BitVec 16)
  | vniReset (r : Req) (arg : BitVec 16)
  | netFrameRx (p : Fin 2) (f : RxFrame)
  | vniTxDoorbell (r : Req) (tail : BitVec 16)
  /-- the descriptor and frame read from host memory, whether parity failed while leaving, the ns since its
  message timestamp point passed the balls, and the bytes that wait behind it -/
  | vniTxDone (desc frame : List Byte) (parity : Bool) (age : BitVec 16) (fill : BitVec 13)
  | netPortEnable (r : Req) (p : Fin 2)
  | portLinkUp (p : Fin 2)
  | portLinkDown (p : Fin 2) (los : Bool)
  /-- the frame that the listening port has received -/
  | wakeFrameMatch (frame : List Byte)
  | msixMessage (v : Fin 40)
  | tbWrap (i : Fin 4)
  | tbStep (r : Req) (i : Fin 4) (arg : BitVec 16)
  | tbSet (r : Req) (i : Fin 4) (arg : BitVec 16)
  | pcieRecovery
  -- mechanics and Fountain
  | move (r : Req) (a : Fin 4) (arg : BitVec 16)
  | runTable (r : Req) (a : Fin 4) (arg : BitVec 16)
  | axisStop (r : Req) (a : Fin 4) (arg : BitVec 16)
  | home (r : Req) (a : Fin 4) (arg : BitVec 16)
  | servo (r : Req) (a : Fin 4) (arg : BitVec 16)
  | setPosition (r : Req) (a : Fin 4) (arg : BitVec 16)
  /-- whether a sensed current stands above `I_TRIP` -/
  | clearFault (r : Req) (a : Fin 4) (arg : BitVec 16) (above : Bool)
  | axisLoadDefault (r : Req) (a : Fin 4) (arg : BitVec 16)
  | moveEnd (a : Fin 4)
  | servoPeriod (a : Fin 4)
  | homeSwitchActive (a : Fin 4)
  | homeSwitchRelease (a : Fin 4)
  | homeRangeExceeded (a : Fin 4)
  /-- the LIM switch or the home switch, and its qualified level: active is the row's event, log 67 -/
  | limitSwitch (a : Fin 4) (lim active : Bool)
  | stall (a : Fin 4)
  | bridgeTrip (a : Fin 4)
  | retractDone (a : Fin 4)
  | holdCurrent (a : Fin 4)
  | axisEnable (r : Req) (a : Fin 4)
  | axisDisable (r : Req) (a : Fin 4)
  | mechClockChange
  | fountainSample
  | fountainSensorFault
  | fountainSat
  | fountainDeviation
  | fntEnable (r : Req)
  | fntResume (r : Req) (arg : BitVec 16)
  -- dependability
  | wrdKick (r : Req) (v : BitVec 16)
  | heartbeatMiss
  | lockstepDivergence
  | tcmUe
  | release (r : Req) (arg : BitVec 16)
  | assertFault (r : Req) (arg : BitVec 16)
  | checkerDisagree (page : BitVec 12)
  | paritySweep (page off : BitVec 12) (bad : Bool)
  | sliceStart
  /-- whether a kiosk's or a port's slice failed; the failing cells of an SRAM slice, each by whether a spare
  column is taken for it before a spare row -/
  | sliceEnd (failed : Bool) (cells : List Bool)
  | bistLate
  | kioskParityError (k : Fin 96)
  | sliceNow (r : Req) (arg : BitVec 16)
  | retire (r : Req) (arg : BitVec 16)
  | gbkWrite (r : Req) (arg : BitVec 16)
  | gbkReadSeqWrite (r : Req) (v : Word)
  | gbkWindowSelect (r : Req) (v : Word)
  | gkpWfiHalt
  | tcmCorrectedError
  -- flash, update, configuration, Gatehouse
  | fshRead (r : Req) (arg : BitVec 16)
  /-- whether the issuing instruction's fetch address lies in the flash window -/
  | fshProgram (r : Req) (arg : BitVec 16) (fromWindow : Bool)
  | fshErase (r : Req) (arg : BitVec 16) (fromWindow : Bool)
  | fshVerify (r : Req) (arg : BitVec 16)
  | flashStepDone
  | flashStepTimeout
  /-- the offset in the flash window, and how many bytes -/
  | flashFetch (addr : BitVec 25) (n : BitVec 8)
  | flashReadDone
  | update (r : Req) (arg : BitVec 16)
  | updateTimeout
  | actSwap (r : Req)
  | actTakenOver (r : Req)
  | actFallback (r : Req) (code : BitVec 4)
  | actCfgResult (r : Req) (code : BitVec 4)
  | cfgApply (r : Req) (arg : BitVec 16)
  | cfgRevert (r : Req) (arg : BitVec 16)
  | loadKey (r : Req) (arg : BitVec 16)
  | clearKey (r : Req) (arg : BitVec 16)
  | challenge (r : Req) (arg : BitVec 16)
  | unlock (r : Req) (arg : BitVec 16)
  | zeroizeDone
  | nonceExpiry
  | unlockLockoutEnd
  | gthWithdraw (r : Req) (arg : BitVec 16)
  | raiseSvn (r : Req) (arg : BitVec 16)
  | pclkDetected (k : Fin 6)
  /-- a block: 2-bit sync header and payload -/
  | onkRxBlock (h : Fin 32) (hdr : BitVec 2) (payload : BitVec 64)
  deriving DecidableEq, Repr

end Sys2Proof
end

