-- ==== Sys2Proof/Decode.lean ====
section
/-! DEFINITION. Commands as words of the opcode table: no row of spec/opcode_table.json gives bits, so no
word spells a command. -/

namespace Sys2Proof

/-- The command that a table word spells: none, since no row gives bits. -/
def decodeTableWord (_nbits _w : Nat) : Option Instr := none

end Sys2Proof
end

