-- ==== Sys2Proof/Machine/Fields.lean ====
section
/-! DEFINITION. The register fields of the spec's field tables: where each stands in its word
(R39 and the block tables of the chapters), and how a field is read from and put into a word. -/

namespace Sys2Proof.Machine

/-- A field: the offset of its register in the page and its bits, high and low. -/
structure Fld where
  off : Nat
  hi : Nat
  lo : Nat
  deriving DecidableEq, Repr

/-- The bits `hi:lo` of a word. -/
def getBits (hi lo : Nat) (w : Word) : Nat := w.toNat / 2 ^ lo % 2 ^ (hi - lo + 1)

/-- The word with `v` in bits `hi:lo`, cut to the field's width. -/
def putBits (hi lo v : Nat) (w : Word) : Word :=
  BitVec.ofNat 32
    (w.toNat - getBits hi lo w * 2 ^ lo + v % 2 ^ (hi - lo + 1) * 2 ^ lo)

def Fld.get (f : Fld) (w : Word) : Nat := getBits f.hi f.lo w

def Fld.put (f : Fld) (v : Nat) (w : Word) : Word := putBits f.hi f.lo v w

/-- How many bits the field has. -/
def Fld.width (f : Fld) : Nat := f.hi - f.lo + 1

def UNIT_ID_KIND : Fld := ⟨0x000, 31, 16⟩
def UNIT_ID_MAJOR : Fld := ⟨0x000, 15, 8⟩
def UNIT_ID_MINOR : Fld := ⟨0x000, 7, 0⟩
def UNIT_CAP_CAP : Fld := ⟨0x004, 31, 0⟩
def UNIT_LINK_PARENT : Fld := ⟨0x008, 31, 20⟩
def UNIT_LINK_FIRST_CHILD : Fld := ⟨0x008, 19, 8⟩
def UNIT_LINK_CHILD_COUNT : Fld := ⟨0x008, 7, 0⟩
def UNIT_CTRL_ENABLE : Fld := ⟨0x00C, 0, 0⟩
def UNIT_STATUS_CMD_REFUSED : Fld := ⟨0x010, 0, 0⟩
def UNIT_STATUS_LOCK_VIOL : Fld := ⟨0x010, 1, 1⟩
def UNIT_STATUS_COMMIT_ERR : Fld := ⟨0x010, 2, 2⟩
def UNIT_STATUS_POISON_SEEN : Fld := ⟨0x010, 3, 3⟩
def UNIT_STATUS_SNAP_STALE : Fld := ⟨0x010, 4, 4⟩
def UNIT_STATUS_CMD_BUSY : Fld := ⟨0x010, 8, 8⟩
def UNIT_STATUS_COMMIT_PENDING : Fld := ⟨0x010, 9, 9⟩
def UNIT_STATUS_STATE : Fld := ⟨0x010, 23, 16⟩
def UNIT_EVENT_BITS : Fld := ⟨0x014, 31, 0⟩
def UNIT_EVENT_EN_BITS : Fld := ⟨0x018, 31, 0⟩
def UNIT_CMD_CODE : Fld := ⟨0x01C, 15, 0⟩
def UNIT_CMD_ARG : Fld := ⟨0x01C, 31, 16⟩
def UNIT_CMD_RESULT_CMD : Fld := ⟨0x020, 15, 0⟩
def UNIT_CMD_RESULT_STATE : Fld := ⟨0x020, 23, 16⟩
def UNIT_CMD_RESULT_REFUSE : Fld := ⟨0x020, 31, 24⟩
def UNIT_COMMIT_WHEN : Fld := ⟨0x024, 3, 0⟩
def UNIT_COMMIT_STAT_PENDING : Fld := ⟨0x028, 0, 0⟩
def UNIT_COMMIT_STAT_DONE : Fld := ⟨0x028, 1, 1⟩
def UNIT_COMMIT_STAT_ERR : Fld := ⟨0x028, 15, 8⟩
def UNIT_COMMIT_STAT_PAIR : Fld := ⟨0x028, 23, 16⟩
def UNIT_COMMIT_STAT_COUNT : Fld := ⟨0x028, 31, 24⟩
def UNIT_LOCK_LOCK : Fld := ⟨0x02C, 0, 0⟩
def UNIT_LOCK_OWNER : Fld := ⟨0x02C, 8, 8⟩
def UNIT_INJECT_FOLLY : Fld := ⟨0x030, 7, 0⟩
def UNIT_INJECT_SHOTS : Fld := ⟨0x030, 15, 8⟩
def UNIT_INJECT_PARAM : Fld := ⟨0x030, 31, 16⟩
def UNIT_INJECT_ARM_KEY : Fld := ⟨0x034, 15, 0⟩
def UNIT_INJECT_ARM_DISARM : Fld := ⟨0x034, 16, 16⟩
def UNIT_COMMIT_POS_LO_POS : Fld := ⟨0x038, 31, 0⟩
def UNIT_COMMIT_POS_HI_POS : Fld := ⟨0x03C, 15, 0⟩
def TOP_DIR_COUNT_COUNT : Fld := ⟨0x040, 7, 0⟩
def TOP_DIR_FIRST (i : Nat) : Fld := ⟨0x044 + 4 * i, 19, 8⟩
def TOP_DIR_COUNT (i : Nat) : Fld := ⟨0x044 + 4 * i, 7, 0⟩
def CLK_XTAL_STAT_XTAL_OK : Fld := ⟨0x040, 0, 0⟩
def CLK_XTAL_STAT_ON_RC : Fld := ⟨0x040, 1, 1⟩
def CLK_PLL_CFG_TARGET (i : Nat) : Fld := ⟨0x100 + 16 * i, 15, 0⟩
def CLK_PLL_STAT_LOCKED (i : Nat) : Fld := ⟨0x104 + 16 * i, 0, 0⟩
def CLK_PLL_STAT_BYPASS (i : Nat) : Fld := ⟨0x104 + 16 * i, 1, 1⟩
def CLK_PLL_STAT_REF_OK (i : Nat) : Fld := ⟨0x104 + 16 * i, 2, 2⟩
def CLK_PLL_STAT_UNLOCKS (i : Nat) : Fld := ⟨0x104 + 16 * i, 15, 8⟩
def CLK_PLL_FREQ_KHZ (i : Nat) : Fld := ⟨0x108 + 16 * i, 31, 0⟩
def TOP_BOOT_STAGE : Fld := ⟨0x080, 3, 0⟩
def TOP_BOOT_FW_SLOT : Fld := ⟨0x080, 4, 4⟩
def TOP_BOOT_CFG_SLOT : Fld := ⟨0x080, 5, 5⟩
def TOP_BOOT_FAIL : Fld := ⟨0x080, 23, 16⟩
def TOP_RESET_CAUSE_POR : Fld := ⟨0x084, 0, 0⟩
def TOP_RESET_CAUSE_RESET_IN : Fld := ⟨0x084, 1, 1⟩
def TOP_RESET_CAUSE_CMD : Fld := ⟨0x084, 2, 2⟩
def TOP_RESET_CAUSE_RAIL_LOSS : Fld := ⟨0x084, 3, 3⟩
def TOP_RESET_CAUSE_PLL_FAULT : Fld := ⟨0x084, 4, 4⟩
def PWR_VOTE_LEVEL (i : Nat) : Fld := ⟨0x40 + 4 * i, 13, 0⟩
def PWR_EFFECTIVE_LEVEL : Fld := ⟨0x060, 13, 0⟩
def PWR_DOMAIN_STAT_UP : Fld := ⟨0x064, 6, 0⟩
def PWR_DOMAIN_STAT_ISOLATED : Fld := ⟨0x064, 14, 8⟩
def PWR_DOMAIN_STAT_PRESENT : Fld := ⟨0x064, 22, 16⟩
def PWR_WAKE_VOTE_LEVEL : Fld := ⟨0x068, 13, 0⟩
def PWR_WAKE_CAUSE_COMP : Fld := ⟨0x06C, 3, 0⟩
def PWR_WAKE_CAUSE_WINDOW : Fld := ⟨0x06C, 4, 4⟩
def PWR_WAKE_CAUSE_WIN_NUM : Fld := ⟨0x06C, 7, 5⟩
def PWR_WAKE_CAUSE_PERST : Fld := ⟨0x06C, 8, 8⟩
def PWR_WAKE_CAUSE_WAKE_FRAME : Fld := ⟨0x06C, 9, 9⟩
def PWR_WAKE_CAUSE_RAIL_TIMEOUT : Fld := ⟨0x06C, 10, 10⟩
def PWR_PATROL_CTRL_ENABLE : Fld := ⟨0x070, 0, 0⟩
def PWR_PATROL_CTRL_PERIOD : Fld := ⟨0x070, 17, 8⟩
def PWR_PATROL_CTRL_CONFIRM : Fld := ⟨0x070, 27, 24⟩
def PWR_PATROL_STAT_CYCLES : Fld := ⟨0x074, 31, 0⟩
def PWR_SR_ABORTS_COUNT : Fld := ⟨0x078, 15, 0⟩
def PWR_WIN_CFG_CHANNEL (i : Nat) : Fld := ⟨0x080 + 8 * i, 4, 0⟩
def PWR_WIN_CFG_EN (i : Nat) : Fld := ⟨0x080 + 8 * i, 31, 31⟩
def PWR_WIN_LIM_LOW (i : Nat) : Fld := ⟨0x084 + 8 * i, 11, 0⟩
def PWR_WIN_LIM_HIGH (i : Nat) : Fld := ⟨0x084 + 8 * i, 27, 16⟩
def PWR_COMP_THR_THRESH (i : Nat) : Fld := ⟨0x0C0 + 8 * i, 9, 0⟩
def PWR_COMP_THR_HYST (i : Nat) : Fld := ⟨0x0C0 + 8 * i, 19, 16⟩
def PWR_COMP_CTRL_EN (i : Nat) : Fld := ⟨0x0C4 + 8 * i, 0, 0⟩
def PWR_COMP_CTRL_FALLING (i : Nat) : Fld := ⟨0x0C4 + 8 * i, 1, 1⟩
def PWR_COMP_CTRL_WAKE (i : Nat) : Fld := ⟨0x0C4 + 8 * i, 2, 2⟩
def PWR_COMP_STAT_TRIPPED : Fld := ⟨0x0E0, 3, 0⟩
def ENC_STATUS_COASTING : Fld := ⟨0x010, 24, 24⟩
def ENC_STATUS_INDEXED : Fld := ⟨0x010, 25, 25⟩
def ENC_STATUS_FAULT : Fld := ⟨0x010, 26, 26⟩
def ENC_CFG_MODE : Fld := ⟨0x040, 1, 0⟩
def ENC_CFG_DIR : Fld := ⟨0x040, 2, 2⟩
def ENC_CFG_INDEX_EN : Fld := ⟨0x040, 3, 3⟩
def ENC_CFG_FILTER : Fld := ⟨0x040, 7, 4⟩
def ENC_CFG_CORRECT : Fld := ⟨0x040, 8, 8⟩
def ENC_WIRE_WIRE_TIME : Fld := ⟨0x044, 15, 0⟩
def ENC_RADIUS_MIN : Fld := ⟨0x048, 13, 0⟩
def ENC_RADIUS_MAX : Fld := ⟨0x048, 29, 16⟩
def ENC_OFS_SIN : Fld := ⟨0x04C, 15, 0⟩
def ENC_OFS_COS : Fld := ⟨0x04C, 31, 16⟩
def ENC_GAIN_SIN : Fld := ⟨0x050, 15, 0⟩
def ENC_GAIN_COS : Fld := ⟨0x050, 31, 16⟩
def ENC_PHASE_PHI : Fld := ⟨0x054, 15, 0⟩
def ENC_SKEW_PS : Fld := ⟨0x058, 15, 0⟩
def ENC_CAL_STAT_COUNT : Fld := ⟨0x05C, 15, 0⟩
def ENC_CAL_STAT_VALID : Fld := ⟨0x05C, 16, 16⟩
def ENC_CAL_STAT_ABANDONED : Fld := ⟨0x05C, 17, 17⟩
def ENC_INDEX_EXPECT_PU : Fld := ⟨0x060, 31, 0⟩
def ENC_INDEX_TOL_PU : Fld := ⟨0x064, 23, 0⟩
def ENC_COUNT_LO_POS : Fld := ⟨0x068, 31, 0⟩
def ENC_COUNT_HI_POS : Fld := ⟨0x06C, 15, 0⟩
def ENC_INDEX_LATCH_LO_POS : Fld := ⟨0x070, 31, 0⟩
def ENC_INDEX_LATCH_HI_POS : Fld := ⟨0x074, 15, 0⟩
def ENC_INDEX_DIFF_D : Fld := ⟨0x078, 31, 0⟩
def ENC_INDEX_DRIFT_SUM : Fld := ⟨0x07C, 31, 0⟩
def SDL_STATUS_ACTIVE : Fld := ⟨0x010, 25, 24⟩
def SDL_STATUS_HALT_LATCHED : Fld := ⟨0x010, 26, 26⟩
def SDL_CFG_SOURCE : Fld := ⟨0x040, 1, 0⟩
def SDL_CFG_CHECK : Fld := ⟨0x040, 3, 2⟩
def SDL_CFG_FAILOVER : Fld := ⟨0x040, 4, 4⟩
def SDL_CFG_REF_HEAD : Fld := ⟨0x040, 12, 8⟩
def SDL_RATIO_R : Fld := ⟨0x044, 31, 0⟩
def SDL_CHECK_LIMIT_PU : Fld := ⟨0x048, 23, 0⟩
def SDL_HYST_PU : Fld := ⟨0x04C, 15, 0⟩
def SDL_POS_LO_POS : Fld := ⟨0x050, 31, 0⟩
def SDL_POS_HI_POS : Fld := ⟨0x054, 15, 0⟩
def SDL_HWM_LO_POS : Fld := ⟨0x058, 31, 0⟩
def SDL_HWM_HI_POS : Fld := ⟨0x05C, 15, 0⟩
def SDL_POS_LOAD_LO_POS : Fld := ⟨0x060, 31, 0⟩
def SDL_POS_LOAD_HI_POS : Fld := ⟨0x064, 15, 0⟩
def SDL_STANDSTILL_TIMEOUT : Fld := ⟨0x068, 23, 0⟩
def SDL_REV_BAND_PU : Fld := ⟨0x06C, 15, 0⟩
def SDL_CHECK_DIFF_PU : Fld := ⟨0x070, 31, 0⟩
def SDL_FF_PS : Fld := ⟨0x074, 31, 0⟩
def SDL_FF_TRIM_PS : Fld := ⟨0x078, 15, 0⟩
def SDL_HALT_ON_BREAK : Fld := ⟨0x07C, 0, 0⟩
def SDL_HALT_ON_COLLAPSE : Fld := ⟨0x07C, 1, 1⟩
def SPD_SPEED_V : Fld := ⟨0x040, 31, 0⟩
def SPD_SPEED_AVG_V : Fld := ⟨0x044, 31, 0⟩
def SPD_ACCEL_A : Fld := ⟨0x048, 31, 0⟩
def SPD_WINDOW_SAMPLES : Fld := ⟨0x04C, 5, 0⟩
def SPD_COLLAPSE_CFG_PCT : Fld := ⟨0x050, 7, 0⟩
def SPD_COLLAPSE_CFG_EN : Fld := ⟨0x050, 8, 8⟩
def SPD_COLLAPSE_MIN_V : Fld := ⟨0x054, 31, 0⟩
def TRG_ORIGIN_LO_POS : Fld := ⟨0x040, 31, 0⟩
def TRG_ORIGIN_HI_POS : Fld := ⟨0x044, 15, 0⟩
def TRG_PITCH_INT_PU : Fld := ⟨0x048, 31, 0⟩
def TRG_PITCH_FRAC_FRAC : Fld := ⟨0x04C, 15, 0⟩
def TRG_WIDTH_NS : Fld := ⟨0x050, 15, 0⟩
def TRG_HALVE_SPEED_V : Fld := ⟨0x054, 31, 0⟩
def TRG_COUNT_LO_N : Fld := ⟨0x058, 31, 0⟩
def TRG_COUNT_HI_N : Fld := ⟨0x05C, 31, 0⟩
def TRG_CH_OFFSET (i : Nat) : Fld := ⟨0x060 + 4 * i, 23, 0⟩
def TRG_CH_POL (i : Nat) : Fld := ⟨0x060 + 4 * i, 30, 30⟩
def TRG_CH_EN (i : Nat) : Fld := ⟨0x060 + 4 * i, 31, 31⟩
def HSC_ORIGIN_LO_POS : Fld := ⟨0x040, 31, 0⟩
def HSC_ORIGIN_HI_POS : Fld := ⟨0x044, 15, 0⟩
def HSC_START_LINE_N : Fld := ⟨0x048, 31, 0⟩
def HSC_PP_LINES_N : Fld := ⟨0x04C, 23, 0⟩
def HSC_PITCH_INT_PU : Fld := ⟨0x050, 31, 0⟩
def HSC_PITCH_FRAC_FRAC : Fld := ⟨0x054, 15, 0⟩
def HSC_ROW_OFFSET_LO_PU : Fld := ⟨0x058, 31, 0⟩
def HSC_ROW_OFFSET_HI_PU : Fld := ⟨0x05C, 15, 0⟩
def HSC_TRIM_STEPS : Fld := ⟨0x060, 7, 0⟩
def HSC_MIN_PERIOD_NS : Fld := ⟨0x064, 15, 0⟩
def HSC_LINE_LO_N : Fld := ⟨0x070, 31, 0⟩
def HSC_LINE_HI_N : Fld := ⟨0x074, 31, 0⟩
def HSC_NEXT_FIRE_LO_POS : Fld := ⟨0x078, 31, 0⟩
def HSC_NEXT_FIRE_HI_POS : Fld := ⟨0x07C, 15, 0⟩
def HSC_PP_STAT_LINE_IN_PP : Fld := ⟨0x080, 23, 0⟩
def HSC_PP_NUM_N : Fld := ⟨0x084, 31, 0⟩
def HSC_LATE_LINES_N : Fld := ⟨0x088, 31, 0⟩
def HSC_TAG_TAG : Fld := ⟨0x08C, 7, 0⟩
def ING_LIVE_CAP_CYCLES : Fld := ⟨0x040, 31, 0⟩
def ING_ADMIT_WINDOW_PU : Fld := ⟨0x044, 31, 0⟩
def ING_ADMIT_CFG_PCT : Fld := ⟨0x048, 7, 0⟩
def ING_DEMAND_PERMILLE : Fld := ⟨0x04C, 15, 0⟩
def ING_LOOKAHEAD_LOW_PU : Fld := ⟨0x050, 31, 0⟩
def ING_ENVELOPE_ERRS_N : Fld := ⟨0x054, 31, 0⟩
def ING_STARVE_LO_PP : Fld := ⟨0x058, 31, 0⟩
def ING_STARVE_HI_HEAD : Fld := ⟨0x05C, 4, 0⟩
def ING_STARVE_HI_PLANES : Fld := ⟨0x05C, 11, 8⟩
def ING_STARVE_HI_VALID : Fld := ⟨0x05C, 31, 31⟩
def ING_STARVE_LOST_N : Fld := ⟨0x060, 15, 0⟩
def ING_QUEUE_USED_N : Fld := ⟨0x064, 12, 0⟩
def ING_RIB_BASE_BASE (i : Nat) : Fld := ⟨0x100 + 16 * i, 19, 0⟩
def ING_RIB_SIZE_LINES (i : Nat) : Fld := ⟨0x104 + 16 * i, 9, 0⟩
def ING_RIB_SIZE_WIDTH (i : Nat) : Fld := ⟨0x104 + 16 * i, 23, 16⟩
def ING_RIB_SIZE_LAYERS (i : Nat) : Fld := ⟨0x104 + 16 * i, 27, 24⟩
def ING_HEAD_CFG_ALLOW (i : Nat) : Fld := ⟨0x108 + 16 * i, 7, 0⟩
def ING_HEAD_CFG_OWNER (i : Nat) : Fld := ⟨0x108 + 16 * i, 19, 8⟩
def ING_RIB_STAT_READY (i : Nat) : Fld := ⟨0x10C + 16 * i, 9, 0⟩
def ING_RIB_STAT_LATE (i : Nat) : Fld := ⟨0x10C + 16 * i, 31, 16⟩
def STM_CFG_SRC : Fld := ⟨0x040, 1, 0⟩
def STM_CFG_ENCRYPTED : Fld := ⟨0x040, 2, 2⟩
def STM_UDP_PORT : Fld := ⟨0x044, 15, 0⟩
def STM_STAGE_BASE_MIB : Fld := ⟨0x048, 19, 0⟩
def STM_STAGE_SIZE_MIB : Fld := ⟨0x04C, 19, 0⟩
def STM_ACK_INTERVAL : Fld := ⟨0x050, 15, 0⟩
def STM_ACK_GAP_WAIT : Fld := ⟨0x050, 31, 16⟩
def STM_GAP_RETRIES : Fld := ⟨0x054, 3, 0⟩
def STM_RING_LO_ADDR : Fld := ⟨0x058, 31, 0⟩
def STM_RING_HI_ADDR : Fld := ⟨0x05C, 31, 0⟩
def STM_RING_SIZE_N : Fld := ⟨0x060, 15, 0⟩
def STM_RING_TAIL_TAIL : Fld := ⟨0x064, 15, 0⟩
def STM_RING_HEAD_HEAD : Fld := ⟨0x068, 15, 0⟩
def STM_LOOP_ADDR_ADDR : Fld := ⟨0x070, 31, 0⟩
def STM_LOOP_BYTES_N : Fld := ⟨0x074, 31, 0⟩
def STM_LOOP_LINES_N : Fld := ⟨0x078, 31, 0⟩
def STM_CUM_SEQ_SEQ : Fld := ⟨0x080, 31, 0⟩
def STM_WINDOW_BYTES : Fld := ⟨0x084, 31, 0⟩
def STM_STAGED_KIB : Fld := ⟨0x088, 31, 0⟩
def STM_TILES_LO_N : Fld := ⟨0x090, 31, 0⟩
def STM_TILES_HI_N : Fld := ⟨0x094, 31, 0⟩
def STM_AUTH_FAILS_N : Fld := ⟨0x098, 31, 0⟩
def STM_DROPS_N : Fld := ⟨0x09C, 31, 0⟩
def STM_GAPS_N : Fld := ⟨0x0A0, 31, 0⟩
def STM_LOST_N : Fld := ⟨0x0A4, 31, 0⟩
def STM_REJECT_REASON : Fld := ⟨0x0A8, 3, 0⟩
def STM_REJECT_HEAD : Fld := ⟨0x0A8, 12, 8⟩
def STM_REJECT_COUNT : Fld := ⟨0x0A8, 31, 16⟩
def STM_OVERRUNS_N : Fld := ⟨0x0AC, 31, 0⟩
def STM_LOOP_PASS_N : Fld := ⟨0x0B0, 31, 0⟩
def WK_STAT_IN_POOL : Fld := ⟨0x040, 15, 0⟩
def WK_CAP_LIVE_CYCLES : Fld := ⟨0x044, 31, 0⟩
def WK_CYCLES_LO_N : Fld := ⟨0x048, 31, 0⟩
def WK_CYCLES_HI_N : Fld := ⟨0x04C, 31, 0⟩
def WK_TILES_LO_N : Fld := ⟨0x050, 31, 0⟩
def WK_TILES_HI_N : Fld := ⟨0x054, 31, 0⟩
def WK_OVERRUNS_N : Fld := ⟨0x058, 31, 0⟩
def WK_OUT_HOST : Fld := ⟨0x05C, 0, 0⟩
def WK_OUT_BIST : Fld := ⟨0x05C, 1, 1⟩
def WK_OUT_RELOCK : Fld := ⟨0x05C, 2, 2⟩
def WK_OUT_RETIRED : Fld := ⟨0x05C, 3, 3⟩
def WK_HORIZON_PU : Fld := ⟨0x060, 31, 0⟩
def WK_QUEUE_ENTRIES : Fld := ⟨0x064, 12, 0⟩
def TRL_MERGE_MODE : Fld := ⟨0x040, 1, 0⟩
def TRL_MERGE_ORDER : Fld := ⟨0x040, 15, 8⟩
def TRL_GEOM_NOZZLES : Fld := ⟨0x044, 12, 0⟩
def TRL_GEOM_MASK_PERIOD : Fld := ⟨0x044, 21, 16⟩
def TRL_GEOM_MASK_PHASE : Fld := ⟨0x044, 28, 24⟩
def TRL_TBL_ADDR_ADDR : Fld := ⟨0x048, 31, 0⟩
def TRL_TBL_INDEX_NOZZLE : Fld := ⟨0x04C, 12, 0⟩
def TRL_TBL_INDEX_ACTIVE : Fld := ⟨0x04C, 16, 16⟩
def TRL_TBL_DATA_WORD (i : Nat) : Fld := ⟨0x050 + 4 * i, 31, 0⟩
def TRL_LINES_LO_N : Fld := ⟨0x060, 31, 0⟩
def TRL_LINES_HI_N : Fld := ⟨0x064, 31, 0⟩
def TRL_OUT_ACTIVE_N : Fld := ⟨0x068, 12, 0⟩
def TRL_POISON_COUNT : Fld := ⟨0x06C, 31, 0⟩
def TRL_POISON_LAST_WHERE : Fld := ⟨0x070, 12, 0⟩
def TRL_POISON_LAST_KIND : Fld := ⟨0x070, 16, 16⟩
def TRL_POISON_LAST_PLANE : Fld := ⟨0x070, 19, 18⟩
def TRL_OUT_REQ_NOZZLE : Fld := ⟨0x040, 17, 0⟩
def TRL_OUT_REQ_VALUE : Fld := ⟨0x040, 24, 24⟩
def TRL_OUT_LAST_PARTNER : Fld := ⟨0x044, 17, 0⟩
def TRL_OUT_LAST_PAIRED : Fld := ⟨0x044, 31, 31⟩
def FIR_CFG_RAIL : Fld := ⟨0x040, 1, 0⟩
def FIR_CFG_CORR_EN : Fld := ⟨0x040, 8, 8⟩
def FIR_VREF_VREF : Fld := ⟨0x044, 15, 0⟩
def FIR_VREF_VMIN : Fld := ⟨0x044, 31, 16⟩
def FIR_TREF_TREF : Fld := ⟨0x048, 15, 0⟩
def FIR_TREF_TCO : Fld := ⟨0x048, 31, 16⟩
def FIR_CLAMP_LO : Fld := ⟨0x04C, 15, 0⟩
def FIR_CLAMP_HI : Fld := ⟨0x04C, 31, 16⟩
def FIR_TRAIN_MAX_NS : Fld := ⟨0x050, 15, 0⟩
def FIR_WAVE_WIDTH (i : Nat) : Fld := ⟨0x060 + 4 * i, 13, 0⟩
def FIR_WAVE_GAP (i : Nat) : Fld := ⟨0x060 + 4 * i, 29, 16⟩
def FIR_FACTOR_F : Fld := ⟨0x07C, 15, 0⟩
def FIR_FACTOR_CLAMPED : Fld := ⟨0x07C, 16, 16⟩
def FIR_TEMP_TEMP : Fld := ⟨0x080, 15, 0⟩
def FIR_TEMP_AGE : Fld := ⟨0x080, 31, 16⟩
def FIR_TRAINS_LO_N : Fld := ⟨0x084, 31, 0⟩
def FIR_TRAINS_HI_N : Fld := ⟨0x088, 31, 0⟩
def FIR_CLAMP_LINES_N : Fld := ⟨0x08C, 31, 0⟩
def FIR_MISS_COUNT : Fld := ⟨0x090, 15, 0⟩
def FIR_MISS_TAG : Fld := ⟨0x090, 23, 16⟩
def FIR_MISS_CAUSE : Fld := ⟨0x090, 25, 24⟩
def FIR_CUT_STAT_CUT : Fld := ⟨0x094, 0, 0⟩
def FIR_CUT_STAT_CAUSE : Fld := ⟨0x094, 2, 1⟩
def FIR_CUT_STAT_COUNT : Fld := ⟨0x094, 15, 8⟩
def FIR_CUT_LINES_N : Fld := ⟨0x098, 31, 0⟩
def FIR_DUTY_PERMILLE : Fld := ⟨0x09C, 9, 0⟩
def FIR_WD_CEIL_CEIL : Fld := ⟨0x040, 7, 0⟩
def FIR_ESTOP_LEVEL : Fld := ⟨0x044, 0, 0⟩
def FIR_ESTOP_LATCHED : Fld := ⟨0x044, 1, 1⟩
def FIR_ESTOP_COUNT : Fld := ⟨0x044, 15, 8⟩
def FIR_CUT_MASK_HEADS : Fld := ⟨0x048, 31, 0⟩
def FIR_RAIL_MV (i : Nat) : Fld := ⟨0x050 + 4 * i, 15, 0⟩
def FIR_RAIL_VALID (i : Nat) : Fld := ⟨0x050 + 4 * i, 16, 16⟩
def FIR_WD_CFG_MAX_HIGH (i : Nat) : Fld := ⟨0x080 + 4 * i, 7, 0⟩
def FIR_WD_CFG_DUTY_PCT (i : Nat) : Fld := ⟨0x080 + 4 * i, 23, 16⟩
def ONK_STATUS_LOS_NOW : Fld := ⟨0x010, 24, 24⟩
def ONK_STATUS_SYNCED : Fld := ⟨0x010, 25, 25⟩
def ONK_STATUS_RET_LATE : Fld := ⟨0x010, 26, 26⟩
def ONK_CFG_LEAD : Fld := ⟨0x040, 1, 0⟩
def ONK_CFG_LOOP : Fld := ⟨0x040, 5, 4⟩
def ONK_CFG_TEST : Fld := ⟨0x040, 6, 6⟩
def ONK_CFG_RET_MS : Fld := ⟨0x040, 15, 8⟩
def ONK_EQ_PRE : Fld := ⟨0x044, 3, 0⟩
def ONK_EQ_POST : Fld := ⟨0x044, 8, 4⟩
def ONK_EQ_SWING : Fld := ⟨0x044, 13, 12⟩
def ONK_EQ_CTLE : Fld := ⟨0x044, 19, 16⟩
def ONK_LINES_LO_N : Fld := ⟨0x048, 31, 0⟩
def ONK_LINES_HI_N : Fld := ⟨0x04C, 31, 0⟩
def ONK_UNDELIV_N : Fld := ⟨0x050, 31, 0⟩
def ONK_EMPTY_N : Fld := ⟨0x054, 15, 0⟩
def ONK_EMPTY_RETRIES : Fld := ⟨0x054, 31, 16⟩
def ONK_TAG_SENT : Fld := ⟨0x058, 7, 0⟩
def ONK_TAG_FIRED : Fld := ⟨0x058, 15, 8⟩
def ONK_TAG_EXPECT : Fld := ⟨0x058, 23, 16⟩
def ONK_MISMATCH_N : Fld := ⟨0x05C, 31, 0⟩
def ONK_ERRS_BLOCK : Fld := ⟨0x060, 15, 0⟩
def ONK_ERRS_CRC : Fld := ⟨0x060, 31, 16⟩
def ONK_LINK_DOWNS : Fld := ⟨0x064, 15, 0⟩
def ONK_TEST_ERRS_N : Fld := ⟨0x068, 31, 0⟩
def ONK_HEAD_STAT_STATUS : Fld := ⟨0x06C, 15, 0⟩
def ONK_HEAD_STAT_AGE : Fld := ⟨0x06C, 31, 16⟩
def ONK_TBL_ADDR_ADDR : Fld := ⟨0x070, 12, 0⟩
def ONK_TBL_LEN_LEN : Fld := ⟨0x074, 11, 0⟩
def ONK_STAGE_RESULT : Fld := ⟨0x078, 2, 0⟩
def ONK_RD_ADDR_ADDR : Fld := ⟨0x07C, 31, 0⟩
def ONK_RD_STAT_DONE : Fld := ⟨0x080, 0, 0⟩
def ONK_RD_STAT_FAIL : Fld := ⟨0x080, 1, 1⟩
def ONK_RET_DATA_DATA (i : Nat) : Fld := ⟨0x800 + 4 * i, 31, 0⟩
def ONK_TX_MASK_HEADS : Fld := ⟨0x040, 31, 0⟩
def ONK_TX_CFG_TABLE : Fld := ⟨0x044, 7, 0⟩
def ONK_TX_CFG_AT_PAGE : Fld := ⟨0x044, 8, 8⟩
def ONK_TX_CFG_ACK_MS : Fld := ⟨0x044, 31, 16⟩
def ONK_TX_OK_HEADS : Fld := ⟨0x048, 31, 0⟩
def ONK_TX_FAIL_HEADS : Fld := ⟨0x04C, 31, 0⟩
def ONK_TX_LATE_HEADS : Fld := ⟨0x050, 31, 0⟩
def ONK_TX_LINE_LO_N : Fld := ⟨0x054, 31, 0⟩
def ONK_TX_LINE_HI_N : Fld := ⟨0x058, 31, 0⟩
def ONK_STAGE_BASE_ADDR : Fld := ⟨0x05C, 31, 0⟩
def ONK_ALERT_LOW : Fld := ⟨0x060, 7, 0⟩
def ONK_ALERT_MASKED : Fld := ⟨0x060, 15, 8⟩
def ONK_MBUS_XFER_DEV (i : Nat) : Fld := ⟨0x080 + 16 * i, 6, 0⟩
def ONK_MBUS_XFER_RD (i : Nat) : Fld := ⟨0x080 + 16 * i, 7, 7⟩
def ONK_MBUS_XFER_LEN (i : Nat) : Fld := ⟨0x080 + 16 * i, 11, 8⟩
def ONK_MBUS_DATA0_DATA (i : Nat) : Fld := ⟨0x084 + 16 * i, 31, 0⟩
def ONK_MBUS_DATA1_DATA (i : Nat) : Fld := ⟨0x088 + 16 * i, 31, 0⟩
def ONK_MBUS_STAT_BUSY (i : Nat) : Fld := ⟨0x08C + 16 * i, 0, 0⟩
def ONK_MBUS_STAT_NAK (i : Nat) : Fld := ⟨0x08C + 16 * i, 1, 1⟩
def ONK_MBUS_STAT_DEAD (i : Nat) : Fld := ⟨0x08C + 16 * i, 2, 2⟩
def CAM_STATUS_PCLK_OK : Fld := ⟨0x010, 24, 24⟩
def CAM_STATUS_IN_FRAME : Fld := ⟨0x010, 25, 25⟩
def CAM_STATUS_BANK : Fld := ⟨0x010, 27, 26⟩
def CAM_CFG_FORMAT : Fld := ⟨0x040, 0, 0⟩
def CAM_CFG_FVAL_EN : Fld := ⟨0x040, 1, 1⟩
def CAM_CFG_PCLK_FALL : Fld := ⟨0x040, 2, 2⟩
def CAM_CFG_STORE : Fld := ⟨0x040, 5, 4⟩
def CAM_LINE_LINE_SAMPLES : Fld := ⟨0x044, 13, 0⟩
def CAM_LINE_PAD : Fld := ⟨0x044, 27, 16⟩
def CAM_FRAME_FRAME_LINES : Fld := ⟨0x048, 15, 0⟩
def CAM_LAT_LAT_MIN : Fld := ⟨0x04C, 15, 0⟩
def CAM_LAT_LAT_MAX : Fld := ⟨0x04C, 31, 16⟩
def CAM_QUEUE_CUT_THRU : Fld := ⟨0x050, 13, 0⟩
def CAM_BLACK01_BLACK0 : Fld := ⟨0x054, 11, 0⟩
def CAM_BLACK01_BLACK1 : Fld := ⟨0x054, 27, 16⟩
def CAM_BLACK2_BLACK2 : Fld := ⟨0x058, 11, 0⟩
def CAM_WB01_WB0 : Fld := ⟨0x05C, 15, 0⟩
def CAM_WB01_WB1 : Fld := ⟨0x05C, 31, 16⟩
def CAM_WB2_WB2 : Fld := ⟨0x060, 15, 0⟩
def CAM_CCM_MLO (i : Nat) : Fld := ⟨0x064 + 4 * i, 15, 0⟩
def CAM_CCM_MHI (i : Nat) : Fld := ⟨0x064 + 4 * i, 31, 16⟩
def CAM_DENS_W01_W0 : Fld := ⟨0x078, 15, 0⟩
def CAM_DENS_W01_W1 : Fld := ⟨0x078, 31, 16⟩
def CAM_DENS_W2_W2 : Fld := ⟨0x07C, 15, 0⟩
def CAM_DRAM_BASE_MIB : Fld := ⟨0x080, 19, 0⟩
def CAM_DRAM_SIZE_MIB : Fld := ⟨0x084, 19, 0⟩
def CAM_STORE_LAST_OFS : Fld := ⟨0x088, 31, 0⟩
def CAM_FRAMES_LO_N : Fld := ⟨0x090, 31, 0⟩
def CAM_FRAMES_HI_N : Fld := ⟨0x094, 31, 0⟩
def CAM_LINES_LO_N : Fld := ⟨0x098, 31, 0⟩
def CAM_LINES_HI_N : Fld := ⟨0x09C, 31, 0⟩
def CAM_SHORT_N : Fld := ⟨0x0A0, 31, 0⟩
def CAM_LONG_N : Fld := ⟨0x0A4, 31, 0⟩
def CAM_MISSED_N : Fld := ⟨0x0A8, 31, 0⟩
def CAM_UNTRIG_N : Fld := ⟨0x0AC, 31, 0⟩
def CAM_OVERFLOW_N : Fld := ⟨0x0B0, 31, 0⟩
def CAM_FRAME_ERR_CAUSE : Fld := ⟨0x0B4, 2, 0⟩
def CAM_FRAME_ERR_COUNT : Fld := ⟨0x0B4, 31, 16⟩
def CAM_QUEUE_PEAK_KIB : Fld := ⟨0x0B8, 8, 0⟩
def CAM_TBL_ADDR_ADDR : Fld := ⟨0x0C0, 31, 0⟩
def CAM_TBL_INDEX_ENTRY : Fld := ⟨0x0C4, 13, 0⟩
def CAM_TBL_INDEX_ACTIVE : Fld := ⟨0x0C4, 16, 16⟩
def CAM_TBL_DATA_WORD : Fld := ⟨0x0C8, 31, 0⟩
def CAM_STAT_SEL_SEL : Fld := ⟨0x0D0, 2, 0⟩
def CAM_STAT_SEL_HOLD : Fld := ⟨0x0D0, 8, 8⟩
def CAM_STAT_FRAME_N : Fld := ⟨0x0D4, 31, 0⟩
def CAM_STAT_LOST_N : Fld := ⟨0x0D8, 15, 0⟩
def CAM_STAT_DATA_DATA (i : Nat) : Fld := ⟨0x800 + 4 * i, 31, 0⟩
def BLV_RUNNING_CAMS : Fld := ⟨0x040, 5, 0⟩
def BLV_RATE_SAMPLES : Fld := ⟨0x044, 31, 0⟩
def QLP_STATUS_WARMING : Fld := ⟨0x010, 24, 24⟩
def QLP_CFG_MODE : Fld := ⟨0x040, 0, 0⟩
def QLP_CFG_CROSS : Fld := ⟨0x040, 11, 8⟩
def QLP_CFG_ALONG : Fld := ⟨0x040, 14, 12⟩
def QLP_CFG_PHASE : Fld := ⟨0x040, 18, 16⟩
def QLP_CFG_KCENTER : Fld := ⟨0x040, 28, 24⟩
def QLP_HEADS_HEADS : Fld := ⟨0x044, 31, 0⟩
def QLP_DELAY_LO_PU : Fld := ⟨0x048, 31, 0⟩
def QLP_DELAY_HI_PU : Fld := ⟨0x04C, 15, 0⟩
def QLP_RING_BASE : Fld := ⟨0x050, 19, 0⟩
def QLP_RING_LOG2 : Fld := ⟨0x050, 27, 24⟩
def QLP_JUDGE_WEAK : Fld := ⟨0x054, 11, 0⟩
def QLP_JUDGE_MISS : Fld := ⟨0x054, 27, 16⟩
def QLP_CONFIRM_M : Fld := ⟨0x058, 7, 0⟩
def QLP_CONFIRM_MIN_N : Fld := ⟨0x058, 23, 8⟩
def QLP_AUTO_PER_HOUR : Fld := ⟨0x05C, 15, 0⟩
def QLP_AUTO_STAT_USED : Fld := ⟨0x060, 15, 0⟩
def QLP_AUTO_STAT_APPLIED : Fld := ⟨0x060, 31, 16⟩
def QLP_SEARCH_PIX : Fld := ⟨0x064, 7, 0⟩
def QLP_ALIGN_STAT_RESULT : Fld := ⟨0x068, 1, 0⟩
def QLP_ALIGN_STAT_CAM : Fld := ⟨0x068, 10, 8⟩
def QLP_ALIGN_STAT_COUNT : Fld := ⟨0x068, 31, 16⟩
def QLP_PROP_COUNT_HOST : Fld := ⟨0x06C, 6, 0⟩
def QLP_PROP_COUNT_AUTO : Fld := ⟨0x06C, 12, 8⟩
def QLP_PROP_COUNT_LOST : Fld := ⟨0x06C, 31, 16⟩
def QLP_PROP_LO_NOZZLE : Fld := ⟨0x070, 17, 0⟩
def QLP_PROP_LO_KIND : Fld := ⟨0x070, 21, 20⟩
def QLP_PROP_LO_VALID : Fld := ⟨0x070, 31, 31⟩
def QLP_PROP_HI_MEAN : Fld := ⟨0x074, 15, 0⟩
def QLP_PROP_HI_CAM : Fld := ⟨0x074, 18, 16⟩
def QLP_AUTOQ_LO_NOZZLE : Fld := ⟨0x078, 17, 0⟩
def QLP_AUTOQ_LO_KIND : Fld := ⟨0x078, 21, 20⟩
def QLP_AUTOQ_LO_VALID : Fld := ⟨0x078, 31, 31⟩
def QLP_AUTOQ_HI_MEAN : Fld := ⟨0x07C, 15, 0⟩
def QLP_AUTOQ_HI_CAM : Fld := ⟨0x07C, 18, 16⟩
def QLP_CMP_LO_N : Fld := ⟨0x080, 31, 0⟩
def QLP_CMP_HI_N : Fld := ⟨0x084, 31, 0⟩
def QLP_UNCOMPARED_N : Fld := ⟨0x088, 31, 0⟩
def QLP_UNSEEN_N : Fld := ⟨0x08C, 31, 0⟩
def QLP_KW_W (i : Nat) : Fld := ⟨0x0A0 + 4 * i, 15, 0⟩
def QLP_COVER_C (i : Nat) : Fld := ⟨0x120 + 4 * i, 11, 0⟩
def QLP_HEAD_X_COL (i : Nat) : Fld := ⟨0x140 + 4 * i, 17, 0⟩
def QLP_CAM_OFS_OFS (i : Nat) : Fld := ⟨0x1C0 + 8 * i, 31, 0⟩
def QLP_CAM_SCALE_SCALE (i : Nat) : Fld := ⟨0x1C4 + 8 * i, 31, 0⟩
def ARC_SRC_CAM : Fld := ⟨0x200, 2, 0⟩
def ARC_SRC_THREE : Fld := ⟨0x200, 4, 4⟩
def ARC_SRC_T : Fld := ⟨0x200, 31, 16⟩
def ARC_OFS_OFS : Fld := ⟨0x204, 31, 0⟩
def ARC_COUNT_N : Fld := ⟨0x208, 15, 0⟩
def ARC_DST_LO_ADDR : Fld := ⟨0x20C, 31, 0⟩
def ARC_DST_HI_ADDR : Fld := ⟨0x210, 31, 0⟩
def ARC_SPACE_BYTES : Fld := ⟨0x214, 31, 0⟩
def ARC_STAT_DONE : Fld := ⟨0x218, 0, 0⟩
def ARC_STAT_FAIL : Fld := ⟨0x218, 1, 1⟩
def ARC_STAT_BUSY : Fld := ⟨0x218, 2, 2⟩
def ARC_STAT_REASON : Fld := ⟨0x218, 7, 4⟩
def ARC_STAT_FRAMES : Fld := ⟨0x218, 31, 16⟩
def ARC_BYTES_N : Fld := ⟨0x21C, 31, 0⟩
def ARC_TILES_N : Fld := ⟨0x220, 31, 0⟩
def QLP_DLUT_E0 (i : Nat) : Fld := ⟨0x800 + 4 * i, 11, 0⟩
def QLP_DLUT_E1 (i : Nat) : Fld := ⟨0x800 + 4 * i, 27, 16⟩
def DRC_GEOM_X16 : Fld := ⟨0x040, 0, 0⟩
def DRC_GEOM_D32 : Fld := ⟨0x040, 1, 1⟩
def DRC_GEOM_RANKS2 : Fld := ⟨0x040, 2, 2⟩
def DRC_GEOM_ORDER : Fld := ⟨0x040, 5, 4⟩
def DRC_SIZE_MIB : Fld := ⟨0x044, 19, 0⟩
def DRC_HOST_WIN_BASE : Fld := ⟨0x048, 8, 0⟩
def DRC_PANIC_RIB_LINES : Fld := ⟨0x04C, 9, 0⟩
def DRC_PANIC_PANIC_US : Fld := ⟨0x04C, 31, 16⟩
def DRC_BULK_MIN_PCT : Fld := ⟨0x050, 6, 0⟩
def DRC_PORT_CFG_WEIGHT (i : Nat) : Fld := ⟨0x060 + 4 * i, 7, 0⟩
def DRC_PORT_CFG_PAGE (i : Nat) : Fld := ⟨0x060 + 4 * i, 9, 8⟩
def DRC_PORT_STAT_PANIC (i : Nat) : Fld := ⟨0x080 + 4 * i, 0, 0⟩
def DRC_PORT_STAT_PANICS (i : Nat) : Fld := ⟨0x080 + 4 * i, 31, 16⟩
def DRC_REQ_ERR_LO_ADDR : Fld := ⟨0x0A0, 31, 0⟩
def DRC_REQ_ERR_HI_ADDR : Fld := ⟨0x0A4, 7, 0⟩
def DRC_REQ_ERR_N : Fld := ⟨0x0A8, 31, 0⟩
def DRC_HOST_FENCE_DONE : Fld := ⟨0x0AC, 0, 0⟩
def DRC_CH_TEMP_TEMP : Fld := ⟨0x040, 15, 0⟩
def DRC_CAL_STAT_COUNT : Fld := ⟨0x044, 15, 0⟩
def DRC_CAL_STAT_TEMP : Fld := ⟨0x044, 31, 16⟩
def DRC_CAL_TIME_LO_NS : Fld := ⟨0x048, 31, 0⟩
def DRC_CAL_TIME_HI_WRAPS : Fld := ⟨0x04C, 15, 0⟩
def DRC_SLICE_PERIOD_MS : Fld := ⟨0x050, 15, 0⟩
def DRC_SLICE_LOAD_PCT : Fld := ⟨0x050, 23, 16⟩
def DRC_SLICE_STAT_POS : Fld := ⟨0x054, 9, 0⟩
def DRC_SLICE_STAT_SKIPPED : Fld := ⟨0x054, 31, 16⟩
def DRC_SCRUB_NS : Fld := ⟨0x058, 15, 0⟩
def DRC_SCRUB_EN : Fld := ⟨0x058, 31, 31⟩
def DRC_SCRUB_PASS_N : Fld := ⟨0x05C, 31, 0⟩
def DRC_CE_N : Fld := ⟨0x060, 31, 0⟩
def DRC_UE_N : Fld := ⟨0x064, 31, 0⟩
def DRC_ERR_ADDR_LO_ADDR : Fld := ⟨0x068, 31, 0⟩
def DRC_ERR_ADDR_HI_ADDR : Fld := ⟨0x06C, 7, 0⟩
def DRC_ERR_INFO_UE : Fld := ⟨0x070, 0, 0⟩
def DRC_ERR_INFO_SUB : Fld := ⟨0x070, 1, 1⟩
def DRC_ERR_INFO_BEAT : Fld := ⟨0x070, 5, 2⟩
def DRC_ERR_INFO_BIT : Fld := ⟨0x070, 11, 6⟩
def DRC_ERR_INFO_SCRUB : Fld := ⟨0x070, 16, 16⟩
def DRC_REF_STAT_OWED : Fld := ⟨0x074, 2, 0⟩
def DRC_REF_STAT_MAX_HITS : Fld := ⟨0x074, 15, 8⟩
def DRC_REF_STAT_HOT : Fld := ⟨0x074, 16, 16⟩
def DRC_BYTES_LO_N : Fld := ⟨0x078, 31, 0⟩
def DRC_BYTES_HI_N : Fld := ⟨0x07C, 31, 0⟩
def CPY_SRC_LO_ADDR : Fld := ⟨0x040, 31, 0⟩
def CPY_SRC_HI_ADDR : Fld := ⟨0x044, 7, 0⟩
def CPY_DST_LO_ADDR : Fld := ⟨0x048, 31, 0⟩
def CPY_DST_HI_ADDR : Fld := ⟨0x04C, 7, 0⟩
def CPY_SIZE_WIDTH : Fld := ⟨0x050, 15, 0⟩
def CPY_SIZE_HEIGHT : Fld := ⟨0x050, 31, 16⟩
def CPY_SRC_STRIDE_BYTES : Fld := ⟨0x054, 27, 0⟩
def CPY_DST_STRIDE_BYTES : Fld := ⟨0x058, 27, 0⟩
def CPY_CTRL_FILL : Fld := ⟨0x05C, 0, 0⟩
def CPY_FILL_PATTERN : Fld := ⟨0x060, 31, 0⟩
def CPY_STAT_DONE : Fld := ⟨0x064, 0, 0⟩
def CPY_STAT_POISON : Fld := ⟨0x064, 1, 1⟩
def CPY_STAT_CANCELLED : Fld := ⟨0x064, 2, 2⟩
def CPY_STAT_ROWS : Fld := ⟨0x064, 31, 16⟩
def NET_MAC_LO_ADDR : Fld := ⟨0x040, 31, 0⟩
def NET_MAC_HI_ADDR : Fld := ⟨0x044, 15, 0⟩
def NET_IPV4_ADDR : Fld := ⟨0x048, 31, 0⟩
def NET_IPV6_ADDR (i : Nat) : Fld := ⟨0x04C + 4 * i, 31, 0⟩
def NET_VLAN_VID : Fld := ⟨0x05C, 11, 0⟩
def NET_VLAN_TAGGED : Fld := ⟨0x05C, 15, 15⟩
def NET_PATH_CFG_PRIMARY : Fld := ⟨0x060, 0, 0⟩
def NET_PATH_CFG_AUTO_RETURN : Fld := ⟨0x060, 1, 1⟩
def NET_PATH_CFG_KEEPALIVE_US : Fld := ⟨0x060, 15, 8⟩
def NET_PATH_CFG_OVERLAP_US : Fld := ⟨0x060, 31, 16⟩
def NET_RETURN_S : Fld := ⟨0x064, 9, 0⟩
def NET_PATH_STAT_ACTIVE : Fld := ⟨0x068, 0, 0⟩
def NET_PATH_STAT_NO_PATH : Fld := ⟨0x068, 1, 1⟩
def NET_PATH_STAT_RIP_SILENT : Fld := ⟨0x068, 2, 2⟩
def NET_PATH_STAT_OVERLAP : Fld := ⟨0x068, 3, 3⟩
def NET_PATH_STAT_WAIT_S : Fld := ⟨0x068, 25, 16⟩
def NET_SWITCHES_N : Fld := ⟨0x06C, 31, 0⟩
def NET_WAKE_EN : Fld := ⟨0x070, 0, 0⟩
def NET_WAKE_PORT : Fld := ⟨0x070, 1, 1⟩
def NET_WAKE_SEEN : Fld := ⟨0x070, 8, 8⟩
def VNI_MAC_LO_ADDR : Fld := ⟨0x080, 31, 0⟩
def VNI_MAC_HI_ADDR : Fld := ⟨0x084, 15, 0⟩
def VNI_CTRL_EN : Fld := ⟨0x088, 0, 0⟩
def VNI_TX_RING_LO_ADDR : Fld := ⟨0x090, 31, 0⟩
def VNI_TX_RING_HI_ADDR : Fld := ⟨0x094, 31, 0⟩
def VNI_TX_SIZE_N : Fld := ⟨0x098, 15, 0⟩
def VNI_TX_TAIL_TAIL : Fld := ⟨0x09C, 15, 0⟩
def VNI_TX_HEAD_HEAD : Fld := ⟨0x0A0, 15, 0⟩
def VNI_RX_RING_LO_ADDR : Fld := ⟨0x0A4, 31, 0⟩
def VNI_RX_RING_HI_ADDR : Fld := ⟨0x0A8, 31, 0⟩
def VNI_RX_SIZE_N : Fld := ⟨0x0AC, 15, 0⟩
def VNI_RX_TAIL_TAIL : Fld := ⟨0x0B0, 15, 0⟩
def VNI_RX_HEAD_HEAD : Fld := ⟨0x0B4, 15, 0⟩
def VNI_DROPS_N : Fld := ⟨0x0B8, 31, 0⟩
def NET_STATUS_LOS_NOW : Fld := ⟨0x010, 24, 24⟩
def NET_STATUS_PCS_UP : Fld := ⟨0x010, 25, 25⟩
def NET_PORT_CFG_MODE : Fld := ⟨0x040, 1, 0⟩
def NET_EQ_PRE (i : Nat) : Fld := ⟨0x044 + 4 * i, 3, 0⟩
def NET_EQ_POST (i : Nat) : Fld := ⟨0x044 + 4 * i, 8, 4⟩
def NET_EQ_SWING (i : Nat) : Fld := ⟨0x044 + 4 * i, 13, 12⟩
def NET_EQ_CTLE (i : Nat) : Fld := ⟨0x044 + 4 * i, 19, 16⟩
def NET_TS_LAT_TX_NS : Fld := ⟨0x054, 15, 0⟩
def NET_TS_LAT_RX_NS : Fld := ⟨0x054, 31, 16⟩
def NET_CUT_THRU_BYTES : Fld := ⟨0x058, 15, 0⟩
def NET_RXQ_FILL_BYTES : Fld := ⟨0x05C, 20, 0⟩
def NET_TXQ_FILL_BYTES : Fld := ⟨0x060, 12, 0⟩
def NET_RX_FRAMES_LO_N : Fld := ⟨0x064, 31, 0⟩
def NET_RX_FRAMES_HI_N : Fld := ⟨0x068, 31, 0⟩
def NET_TX_FRAMES_LO_N : Fld := ⟨0x06C, 31, 0⟩
def NET_TX_FRAMES_HI_N : Fld := ⟨0x070, 31, 0⟩
def NET_RX_ERRS_BAD : Fld := ⟨0x074, 15, 0⟩
def NET_RX_ERRS_OTHER : Fld := ⟨0x074, 31, 16⟩
def NET_RX_OVF_N : Fld := ⟨0x078, 31, 0⟩
def NET_TX_BAD_N : Fld := ⟨0x07C, 31, 0⟩
def NET_FEC_CORR_N : Fld := ⟨0x080, 31, 0⟩
def NET_FEC_UNCORR_N : Fld := ⟨0x084, 31, 0⟩
def NET_PATH_CAUSE : Fld := ⟨0x088, 2, 0⟩
def NET_PATH_LOSSES : Fld := ⟨0x088, 31, 16⟩
def NET_LAST_RX_US : Fld := ⟨0x08C, 31, 0⟩
def NET_LINK_DOWNS : Fld := ⟨0x090, 15, 0⟩
def PTP_WRAP_STAT_WRAP : Fld := ⟨0x040, 3, 0⟩
def PTP_WRAP_STAT_UNWRAP : Fld := ⟨0x040, 7, 4⟩
def PTP_MAX_RES_NS : Fld := ⟨0x044, 31, 0⟩
def PTP_CORRECTED_N : Fld := ⟨0x048, 31, 0⟩
def PTP_CORR_SKIPS_N : Fld := ⟨0x04C, 31, 0⟩
def PTP_STAMPED_N : Fld := ⟨0x050, 31, 0⟩
def TB_STATUS_STALE : Fld := ⟨0x010, 24, 24⟩
def TB_NS_NS : Fld := ⟨0x040, 31, 0⟩
def TB_RATE_RATE : Fld := ⟨0x044, 31, 0⟩
def TB_CFG_DOMAIN : Fld := ⟨0x048, 7, 0⟩
def TB_STEP_NS : Fld := ⟨0x04C, 31, 0⟩
def TB_SET_NS : Fld := ⟨0x050, 31, 0⟩
def PCIE_LINK_SPEED : Fld := ⟨0x040, 2, 0⟩
def PCIE_LINK_WIDTH : Fld := ⟨0x040, 6, 4⟩
def PCIE_LINK_UP : Fld := ⟨0x040, 8, 8⟩
def PCIE_VF_NUM_VFS : Fld := ⟨0x044, 2, 0⟩
def PCIE_FLR_COUNT : Fld := ⟨0x048, 15, 0⟩
def PCIE_FLR_LAST : Fld := ⟨0x048, 18, 16⟩
def PCIE_RECOVERIES_N : Fld := ⟨0x04C, 31, 0⟩
def PCIE_CPL_TIMEOUTS_N : Fld := ⟨0x050, 31, 0⟩
def AXIS_STATUS_HOMED : Fld := ⟨0x010, 24, 24⟩
def AXIS_STATUS_RETRACTED : Fld := ⟨0x010, 25, 25⟩
def AXIS_STATUS_END : Fld := ⟨0x010, 27, 26⟩
def AXIS_STATUS_CAUSE : Fld := ⟨0x010, 30, 28⟩
def MOT_CHOP_DEAD_NS : Fld := ⟨0x040, 7, 0⟩
def MOT_CHOP_BLANK_NS : Fld := ⟨0x040, 15, 8⟩
def MOT_CHOP_FAST_NS : Fld := ⟨0x040, 23, 16⟩
def MOT_CHOP_TOFF_MIN_NS : Fld := ⟨0x040, 31, 24⟩
def MOT_HYST_HYST : Fld := ⟨0x044, 11, 0⟩
def MOT_HYST_OFS_MAX : Fld := ⟨0x044, 27, 16⟩
def MOT_SHUNT_SHUNT_MOHM : Fld := ⟨0x048, 15, 0⟩
def MOT_I_HR_I_HOLD : Fld := ⟨0x04C, 15, 0⟩
def MOT_I_HR_I_RUN : Fld := ⟨0x04C, 31, 16⟩
def MOT_I_MT_I_MAX : Fld := ⟨0x050, 15, 0⟩
def MOT_I_MT_I_TRIP : Fld := ⟨0x050, 31, 16⟩
def MOT_LOAD_K_LOAD : Fld := ⟨0x054, 7, 0⟩
def MOT_LOAD_I_SLEW : Fld := ⟨0x054, 23, 8⟩
def MOT_LOAD_HOLD_MS : Fld := ⟨0x054, 31, 24⟩
def MOT_STALL_FE_LIMIT : Fld := ⟨0x058, 15, 0⟩
def MOT_STALL_FE_MS : Fld := ⟨0x058, 31, 16⟩
def MOT_V_EST_V : Fld := ⟨0x05C, 23, 0⟩
def MOT_TARGET_POS : Fld := ⟨0x060, 31, 0⟩
def MOT_V_START_V : Fld := ⟨0x064, 23, 0⟩
def MOT_V1_V : Fld := ⟨0x068, 23, 0⟩
def MOT_V_MAX_V : Fld := ⟨0x06C, 23, 0⟩
def MOT_V_STOP_V : Fld := ⟨0x070, 23, 0⟩
def MOT_ACC_A1 : Fld := ⟨0x074, 15, 0⟩
def MOT_ACC_A2 : Fld := ⟨0x074, 31, 16⟩
def MOT_DEC_D1 : Fld := ⟨0x078, 15, 0⟩
def MOT_DEC_D2 : Fld := ⟨0x078, 31, 16⟩
def MOT_HOME_HOME_DIR : Fld := ⟨0x07C, 0, 0⟩
def MOT_HOME_V_HOME : Fld := ⟨0x07C, 31, 8⟩
def MOT_HOME_POS_POS : Fld := ⟨0x080, 31, 0⟩
def MOT_HOME_RANGE_N : Fld := ⟨0x084, 31, 0⟩
def MOT_SERVO_SP_POS : Fld := ⟨0x088, 31, 0⟩
def MOT_RET_POS_POS : Fld := ⟨0x08C, 31, 0⟩
def MOT_RET_V_V : Fld := ⟨0x090, 23, 0⟩
def MOT_RET_A_A : Fld := ⟨0x094, 15, 0⟩
def MOT_POS_POS : Fld := ⟨0x098, 31, 0⟩
def MOT_SPEED_V : Fld := ⟨0x09C, 31, 0⟩
def MOT_FE_FE : Fld := ⟨0x0A0, 15, 0⟩
def MOT_FE_IACT : Fld := ⟨0x0A0, 31, 16⟩
def MOT_SW_HOME : Fld := ⟨0x0A4, 0, 0⟩
def MOT_SW_LIM : Fld := ⟨0x0A4, 1, 1⟩
def MOT_COUNTS_STALLS : Fld := ⟨0x0A8, 15, 0⟩
def MOT_COUNTS_SP_LIMITED : Fld := ⟨0x0A8, 31, 16⟩
def MOT_SEG_T (i : Nat) : Fld := ⟨0x400 + 16 * i, 31, 0⟩
def MOT_SEG_POS (i : Nat) : Fld := ⟨0x404 + 16 * i, 31, 0⟩
def MOT_SEG_VEL (i : Nat) : Fld := ⟨0x408 + 16 * i, 31, 0⟩
def MOT_USTEP_CA (i : Nat) : Fld := ⟨0x800 + 4 * i, 15, 0⟩
def MOT_USTEP_CB (i : Nat) : Fld := ⟨0x800 + 4 * i, 31, 16⟩
def FNT_STATUS_SAT : Fld := ⟨0x010, 24, 24⟩
def FNT_STATUS_CAUSE : Fld := ⟨0x010, 26, 25⟩
def FNT_CFG_CHANNEL : Fld := ⟨0x040, 4, 0⟩
def FNT_CFG_POL : Fld := ⟨0x040, 8, 8⟩
def FNT_CFG_PWM_KHZ : Fld := ⟨0x040, 23, 16⟩
def FNT_SCALE_ZERO : Fld := ⟨0x044, 11, 0⟩
def FNT_SCALE_GAIN : Fld := ⟨0x044, 31, 16⟩
def FNT_KP_KP : Fld := ⟨0x048, 31, 0⟩
def FNT_KI_KI : Fld := ⟨0x04C, 31, 0⟩
def FNT_KD_KD : Fld := ⟨0x050, 31, 0⟩
def FNT_OUT_OUT_MIN : Fld := ⟨0x054, 15, 0⟩
def FNT_OUT_OUT_MAX : Fld := ⟨0x054, 31, 16⟩
def FNT_BIAS_BIAS : Fld := ⟨0x058, 15, 0⟩
def FNT_BIAS_OUT_SAFE : Fld := ⟨0x058, 31, 16⟩
def FNT_SP_TARGET_P : Fld := ⟨0x05C, 31, 0⟩
def FNT_SP_LIM_SP_VMAX : Fld := ⟨0x060, 15, 0⟩
def FNT_SP_LIM_SP_AMAX : Fld := ⟨0x060, 31, 16⟩
def FNT_SP_JMAX_J : Fld := ⟨0x064, 15, 0⟩
def FNT_P_RANGE_P_LOW : Fld := ⟨0x068, 15, 0⟩
def FNT_P_RANGE_P_HIGH : Fld := ⟨0x068, 31, 16⟩
def FNT_DEV_DEV_BAND : Fld := ⟨0x06C, 15, 0⟩
def FNT_DEV_DEV_MS : Fld := ⟨0x06C, 31, 16⟩
def FNT_TIMES_SENS_MS : Fld := ⟨0x070, 15, 0⟩
def FNT_TIMES_SAT_MS : Fld := ⟨0x070, 31, 16⟩
def FNT_P_P : Fld := ⟨0x074, 31, 0⟩
def FNT_SP_P : Fld := ⟨0x078, 31, 0⟩
def FNT_OUTPUT_DUTY : Fld := ⟨0x07C, 15, 0⟩
def FNT_INTEG_I : Fld := ⟨0x080, 31, 0⟩
def MON_CH_EN_EN : Fld := ⟨0x040, 23, 0⟩
def MON_HOT_HOT_C : Fld := ⟨0x044, 7, 0⟩
def MON_LAST_RANGE_CH : Fld := ⟨0x048, 4, 0⟩
def MON_RESULT_CODE (i : Nat) : Fld := ⟨0x100 + 4 * i, 11, 0⟩
def MON_RESULT_MEAN (i : Nat) : Fld := ⟨0x100 + 4 * i, 27, 16⟩
def MON_RESULT_VALID (i : Nat) : Fld := ⟨0x100 + 4 * i, 31, 31⟩
def GKP_EVT_MASK_MASK (i : Nat) : Fld := ⟨0x040 + 4 * i, 31, 0⟩
def GKP_TCM_CE_N : Fld := ⟨0x090, 31, 0⟩
def WRD_KICK_VALUE : Fld := ⟨0x040, 15, 0⟩
def WRD_FAULT_BOOT : Fld := ⟨0x044, 0, 0⟩
def WRD_FAULT_GKP : Fld := ⟨0x044, 1, 1⟩
def WRD_FAULT_HELD : Fld := ⟨0x044, 2, 2⟩
def WRD_FAULT_XTAL : Fld := ⟨0x044, 3, 3⟩
def WRD_FAULT_RAIL : Fld := ⟨0x044, 4, 4⟩
def WRD_FAULT_SOFTWARE : Fld := ⟨0x044, 5, 5⟩
def WRD_FAULT_CHECKER : Fld := ⟨0x044, 6, 6⟩
def WRD_GKP_RECENT : Fld := ⟨0x048, 1, 0⟩
def WRD_GKP_CAUSE : Fld := ⟨0x048, 10, 8⟩
def WRD_GKP_TOTAL : Fld := ⟨0x048, 31, 16⟩
def WRD_LAST_KICK_US10 : Fld := ⟨0x04C, 15, 0⟩
def BST_CFG_SLICE_US : Fld := ⟨0x040, 15, 0⟩
def BST_CFG_KIOSKS : Fld := ⟨0x040, 16, 16⟩
def BST_CFG_SRAM : Fld := ⟨0x040, 17, 17⟩
def BST_CFG_PORT : Fld := ⟨0x040, 18, 18⟩
def BST_POS_NEXT : Fld := ⟨0x044, 12, 0⟩
def BST_POS_DEFERRED : Fld := ⟨0x044, 31, 16⟩
def BST_ROT_LAST_MS : Fld := ⟨0x048, 31, 0⟩
def BST_ROT_COUNT_N : Fld := ⟨0x04C, 31, 0⟩
def BST_FAIL_SLICE : Fld := ⟨0x050, 12, 0⟩
def BST_FAIL_KIND : Fld := ⟨0x050, 17, 16⟩
def BST_FAIL_EXHAUSTED : Fld := ⟨0x050, 24, 24⟩
def BST_REPAIRS_SOFT : Fld := ⟨0x054, 15, 0⟩
def BST_REPAIRS_FUSED : Fld := ⟨0x054, 31, 16⟩
def BST_STAT_PAUSED : Fld := ⟨0x058, 0, 0⟩
def BST_STAT_LATE : Fld := ⟨0x058, 1, 1⟩
def BST_CHECKER_PAGE : Fld := ⟨0x05C, 11, 0⟩
def BST_CHECKER_COUNT : Fld := ⟨0x05C, 31, 16⟩
def BST_SRAM_CE_N (i : Nat) : Fld := ⟨0x080 + 4 * i, 31, 0⟩
def GBK_WRITE_SEQ_SEQ : Fld := ⟨0x040, 31, 0⟩
def GBK_READ_SEQ_SEQ : Fld := ⟨0x044, 31, 0⟩
def GBK_CFG_THRESH : Fld := ⟨0x048, 13, 0⟩
def GBK_OVERWRITTEN_N : Fld := ⟨0x04C, 31, 0⟩
def GBK_DROPPED_N : Fld := ⟨0x050, 31, 0⟩
def GBK_WIN_SEQ_SEQ : Fld := ⟨0x054, 31, 0⟩
def GBK_WIN_WORD (i : Nat) : Fld := ⟨0x060 + 4 * i, 31, 0⟩
def GBK_USER_NUM_EVENT : Fld := ⟨0x080, 15, 0⟩
def GBK_USER_DET_LO_DETAIL : Fld := ⟨0x084, 31, 0⟩
def GBK_USER_DET_HI_DETAIL : Fld := ⟨0x088, 31, 0⟩
def TOP_EVT_SUM_PENDING (i : Nat) : Fld := ⟨0x100 + 4 * i, 31, 0⟩
def FSH_ADDR_ADDR : Fld := ⟨0x040, 24, 0⟩
def FSH_LEN_LEN : Fld := ⟨0x044, 24, 0⟩
def FSH_BUF_LO_ADDR : Fld := ⟨0x048, 31, 0⟩
def FSH_BUF_HI_ADDR : Fld := ⟨0x04C, 7, 0⟩
def FSH_OP_STAT_DONE : Fld := ⟨0x050, 0, 0⟩
def FSH_OP_STAT_FAIL : Fld := ⟨0x050, 1, 1⟩
def FSH_OP_STAT_REASON : Fld := ⟨0x050, 7, 4⟩
def FSH_SLOT_STAT_VERIFIED : Fld := ⟨0x054, 3, 0⟩
def FSH_FW_STAT_FALLBACK : Fld := ⟨0x058, 0, 0⟩
def FSH_FW_STAT_REASON : Fld := ⟨0x058, 7, 4⟩
def FSH_FW_STAT_REQUESTED : Fld := ⟨0x058, 8, 8⟩
def FSH_FW_STAT_RESULT : Fld := ⟨0x058, 11, 9⟩
def FSH_CFG_STAT_RESULT : Fld := ⟨0x05C, 2, 0⟩
def FSH_CFG_STAT_ACTIVE : Fld := ⟨0x05C, 4, 4⟩
def FSH_CFG_STAT_SCHEMA : Fld := ⟨0x05C, 31, 16⟩
def FSH_GKP_ACT_ACT : Fld := ⟨0x060, 3, 0⟩
def FSH_GKP_ACT_CODE : Fld := ⟨0x060, 11, 8⟩
def FSH_TIMING_SECTOR_MS : Fld := ⟨0x064, 15, 0⟩
def FSH_TIMING_PAGE_US : Fld := ⟨0x064, 31, 16⟩
def FSH_SVC_REQ_KIND : Fld := ⟨0x068, 1, 0⟩
def FSH_SVC_REQ_SLOT : Fld := ⟨0x068, 4, 4⟩
def FSH_CAL_COUNT (i : Nat) : Fld := ⟨0x080 + 12 * i, 15, 0⟩
def FSH_CAL_NS_NS (i : Nat) : Fld := ⟨0x084 + 12 * i, 31, 0⟩
def FSH_CAL_WRAPS_WRAPS (i : Nat) : Fld := ⟨0x088 + 12 * i, 15, 0⟩
def GTH_DEV_ID_ID (i : Nat) : Fld := ⟨0x040 + 4 * i, 31, 0⟩
def GTH_DEV_PUB_KEY (i : Nat) : Fld := ⟨0x050 + 4 * i, 31, 0⟩
def GTH_BLOB_DATA (i : Nat) : Fld := ⟨0x0C0 + 4 * i, 31, 0⟩
def GTH_KEY_STAT_LOADED : Fld := ⟨0x160, 7, 0⟩
def GTH_KEY_STAT_RESULT : Fld := ⟨0x160, 11, 8⟩
def GTH_PERMIT_INJECT : Fld := ⟨0x164, 0, 0⟩
def GTH_PERMIT_SCAN : Fld := ⟨0x164, 1, 1⟩
def GTH_SVN_FLOOR : Fld := ⟨0x168, 7, 0⟩
def GTH_NONCE_NONCE (i : Nat) : Fld := ⟨0x170 + 4 * i, 31, 0⟩
def GTH_RESP_SIG (i : Nat) : Fld := ⟨0x1A0 + 4 * i, 31, 0⟩
def GTH_UNLOCK_FAILS_N : Fld := ⟨0x200, 15, 0⟩
def MOT_ROOT_CFG_GANG : Fld := ⟨0x040, 0, 0⟩
def MOT_ROOT_CFG_ON_BREAK : Fld := ⟨0x040, 1, 1⟩
def MOT_ROOT_CFG_ON_COLLAPSE : Fld := ⟨0x040, 2, 2⟩
def MOT_RETRACTS_N : Fld := ⟨0x044, 15, 0⟩

end Sys2Proof.Machine
end

