-- ==== Sys2Proof/Machine/RegMap.lean ====
section
/-! DEFINITION. The register map: parts, units and kind codes (R2, R40), the page each unit stands
at (R429), the unit tree (R41), and every field of every page with its access code and reset value
(R5, R39 and the chapters' field tables). -/

namespace Sys2Proof.Machine

/-- The three parts of the family (R2). -/
inductive Part where
  | tq8632
  | tq8624
  | tq8616
  deriving DecidableEq, Repr

/-- The kinds of unit (R40). -/
inductive Kind where
  | top | gkp | wrd | gth | gbk | pwr | clk | bst | fsh | mon | cpy
  | sdl | enc | spd | trg | hsc | ing | stm | pav | ksk
  | trlRoot | trl | firRoot | fir | onkRoot | onk | blvRoot | cam | qlp
  | drcRoot | dram | netRoot | net | ptp | tb | pcie | motRoot | axis | fnt
  deriving DecidableEq, Repr

/-- `UNIT_ID.KIND` (R40). -/
def Kind.code : Kind → Nat
  | .top => 0x0001 | .gkp => 0x0002 | .wrd => 0x0003 | .gth => 0x0004 | .gbk => 0x0005
  | .pwr => 0x0006 | .clk => 0x0007 | .bst => 0x0008 | .fsh => 0x0009 | .mon => 0x000A
  | .cpy => 0x000B | .sdl => 0x0010 | .enc => 0x0011 | .spd => 0x0012 | .trg => 0x0013
  | .hsc => 0x0014 | .ing => 0x0020 | .stm => 0x0021 | .pav => 0x0030 | .ksk => 0x0031
  | .trlRoot => 0x0040 | .trl => 0x0041 | .firRoot => 0x0048 | .fir => 0x0049
  | .onkRoot => 0x0050 | .onk => 0x0051 | .blvRoot => 0x0060 | .cam => 0x0061 | .qlp => 0x0062
  | .drcRoot => 0x0070 | .dram => 0x0071 | .netRoot => 0x0078 | .net => 0x0079 | .ptp => 0x007A
  | .tb => 0x007B | .pcie => 0x007C | .motRoot => 0x0080 | .axis => 0x0081 | .fnt => 0x0088

/-- A switchable power domain (R74), in the order of its number. -/
inductive Dom where
  | sys | host | mem | net | print | cam | mech
  deriving DecidableEq, Repr

def Dom.num : Dom → Fin 7
  | .sys => 0 | .host => 1 | .mem => 2 | .net => 3 | .print => 4 | .cam => 5 | .mech => 6

def Dom.ofNum (d : Fin 7) : Dom :=
  match d with
  | 0 => .sys | 1 => .host | 2 => .mem | 3 => .net | 4 => .print | 5 => .cam | 6 => .mech

/-- The domain that powers a unit's page (R429). -/
def Kind.domain : Kind → Dom
  | .top | .gkp | .wrd | .gth | .gbk | .pwr | .clk | .bst | .fsh | .mon | .cpy => .sys
  | .sdl | .enc | .spd | .trg | .hsc | .ing | .stm | .pav | .ksk
  | .trlRoot | .trl | .firRoot | .fir | .onkRoot | .onk => .print
  | .blvRoot | .cam | .qlp => .cam
  | .drcRoot | .dram => .mem
  | .netRoot | .net | .ptp | .tb => .net
  | .pcie => .host
  | .motRoot | .axis | .fnt => .mech

/-- Heads of a part (R2). -/
def Part.heads : Part → Nat
  | .tq8632 => 32 | .tq8624 => 24 | .tq8616 => 16

/-- Kiosks of a part (R2). -/
def Part.kiosks : Part → Nat
  | .tq8632 => 96 | .tq8624 => 72 | .tq8616 => 48

/-- Camera ports of a part (R2). -/
def Part.cams : Part → Nat
  | .tq8632 => 6 | .tq8624 => 4 | .tq8616 => 0

/-- Motion axes of a part (R2). -/
def Part.axes : Part → Nat
  | .tq8632 => 4 | .tq8624 => 4 | .tq8616 => 0

/-- First-level pavilions of a part (R14). -/
def Part.clusters : Part → Nat
  | .tq8632 => 4 | .tq8624 => 3 | .tq8616 => 2

/-- 1 where the part has Belvedere and motion, else 0 (R2). -/
def Part.belvedere : Part → Nat
  | .tq8632 => 1 | .tq8624 => 1 | .tq8616 => 0

def pgTOP : Nat := 0x000
def pgGKP : Nat := 0x001
def pgWRD : Nat := 0x002
def pgGTH : Nat := 0x003
def pgGBK : Nat := 0x004
def pgPWR : Nat := 0x005
def pgCLK : Nat := 0x006
def pgBST : Nat := 0x007
def pgFSH : Nat := 0x008
def pgMON : Nat := 0x009
def pgCPY : Nat := 0x00A
def pgSDL : Nat := 0x010
def pgENC (n : Nat) : Nat := 0x011 + n
def pgSPD : Nat := 0x014
def pgTRG : Nat := 0x015
def pgHSC (h : Nat) : Nat := 0x020 + h
def pgING : Nat := 0x040
def pgSTM (s : Nat) : Nat := 0x041 + s
/-- A page of the kiosk tree by its place: 0 the root pavilion, 1–4 P0–P3, 5–16 Q0–Q11 (R13). -/
def pgPAV (j : Nat) : Nat := 0x080 + j
def pgKSK (k : Nat) : Nat := 0x091 + k
def pgTRL (h : Nat) : Nat := 0x100 + h
def pgTRLroot : Nat := 0x120
def pgFIR (h : Nat) : Nat := 0x140 + h
def pgFIRroot : Nat := 0x160
def pgONK (h : Nat) : Nat := 0x180 + h
def pgONKroot : Nat := 0x1A0
def pgBLV : Nat := 0x1C0
def pgCAM (k : Nat) : Nat := 0x1C1 + k
def pgQLP : Nat := 0x1C8
def pgDRC : Nat := 0x200
def pgDRAM (c : Nat) : Nat := 0x201 + c
def pgNETroot : Nat := 0x210
def pgNET (p : Nat) : Nat := 0x211 + p
def pgPTP : Nat := 0x218
def pgTB (i : Nat) : Nat := 0x219 + i
def pgPCIE : Nat := 0x220
def pgMOT : Nat := 0x240
def pgAXIS (a : Nat) : Nat := 0x241 + a
def pgFNT : Nat := 0x250

/-- A run of the register page map: first page, its kind, and how many pages the part has. -/
structure Run where
  first : Nat
  kind : Kind
  count : Part → Nat

/-- The register page map (R429), run by run; the pavilions stand as their three levels. -/
def pageRuns : List Run :=
  [ ⟨0x000, .top, fun _ => 1⟩, ⟨0x001, .gkp, fun _ => 1⟩, ⟨0x002, .wrd, fun _ => 1⟩,
    ⟨0x003, .gth, fun _ => 1⟩, ⟨0x004, .gbk, fun _ => 1⟩, ⟨0x005, .pwr, fun _ => 1⟩,
    ⟨0x006, .clk, fun _ => 1⟩, ⟨0x007, .bst, fun _ => 1⟩, ⟨0x008, .fsh, fun _ => 1⟩,
    ⟨0x009, .mon, fun _ => 1⟩, ⟨0x00A, .cpy, fun _ => 1⟩, ⟨0x010, .sdl, fun _ => 1⟩,
    ⟨0x011, .enc, fun _ => 3⟩, ⟨0x014, .spd, fun _ => 1⟩, ⟨0x015, .trg, Part.belvedere⟩,
    ⟨0x020, .hsc, Part.heads⟩, ⟨0x040, .ing, fun _ => 1⟩, ⟨0x041, .stm, fun _ => 4⟩,
    ⟨0x080, .pav, fun _ => 1⟩, ⟨0x081, .pav, Part.clusters⟩,
    ⟨0x085, .pav, fun p => 3 * p.clusters⟩, ⟨0x091, .ksk, Part.kiosks⟩,
    ⟨0x100, .trl, Part.heads⟩, ⟨0x120, .trlRoot, fun _ => 1⟩, ⟨0x140, .fir, Part.heads⟩,
    ⟨0x160, .firRoot, fun _ => 1⟩, ⟨0x180, .onk, Part.heads⟩, ⟨0x1A0, .onkRoot, fun _ => 1⟩,
    ⟨0x1C0, .blvRoot, Part.belvedere⟩, ⟨0x1C1, .cam, Part.cams⟩, ⟨0x1C8, .qlp, Part.belvedere⟩,
    ⟨0x200, .drcRoot, fun _ => 1⟩, ⟨0x201, .dram, fun _ => 2⟩, ⟨0x210, .netRoot, fun _ => 1⟩,
    ⟨0x211, .net, fun _ => 2⟩, ⟨0x218, .ptp, fun _ => 1⟩, ⟨0x219, .tb, fun _ => 4⟩,
    ⟨0x220, .pcie, fun _ => 1⟩, ⟨0x240, .motRoot, Part.belvedere⟩, ⟨0x241, .axis, Part.axes⟩,
    ⟨0x250, .fnt, fun _ => 1⟩ ]

/-- The unit at a page of a part: its kind and its place in its run; none where the page is
absent or no unit uses it (R42, R429). -/
def unitOf (part : Part) (page : Nat) : Option (Kind × Nat) :=
  (pageRuns.find? (fun r => decide (r.first ≤ page) && decide (page < r.first + r.count part))).map
    (fun r => (r.kind, page - r.first))

def kindOf (part : Part) (page : Nat) : Option Kind := (unitOf part page).map Prod.fst

/-- The head a page serves, where it is one of HSC, TRL, FIR or ONK (R10). -/
def headOfPage (part : Part) (page : Nat) : Option Nat :=
  match unitOf part page with
  | some (.hsc, h) => some h
  | some (.trl, h) => some h
  | some (.fir, h) => some h
  | some (.onk, h) => some h
  | _ => none

/-- Access codes (R5); `rwl` is lockable, `rws` shadowed, `wo1` write-once. -/
inductive Acc where
  | rw | ro | w1c | wo | wo1 | rws | rwl
  deriving DecidableEq, Repr

/-- One field of a field table: register and field name, offset, stride and count of an array,
bits, access code, and the reset value by part, unit number and array index. -/
structure Row where
  reg : String
  field : String
  off : Nat
  stride : Nat
  count : Nat
  hi : Nat
  lo : Nat
  acc : Acc
  rst : Part → Nat → Nat → Nat

/-- A reset value that no unit number or index changes. -/
def k (v : Nat) : Part → Nat → Nat → Nat := fun _ _ _ => v

/-- `CLK_PLL_CFG.TARGET` at reset: the spec says "boot value" (R60); the values R58 allows that its
own examples use.  DESIGN CHOICE, log 21. -/
def bootTarget (n : Nat) : Nat :=
  if n = 0 then 1000 else if n = 1 then 500 else if n < 6 then 1000 else if n < 8 then 800
  else if n < 12 then 2 else 0

def hdrRows0 : List Row :=
  [ ⟨"UNIT_ID", "KIND", 0x000, 0, 1, 31, 16, .ro, (k 0)⟩,
    ⟨"UNIT_ID", "MAJOR", 0x000, 0, 1, 15, 8, .ro, (k 1)⟩,
    ⟨"UNIT_ID", "MINOR", 0x000, 0, 1, 7, 0, .ro, (k 0)⟩,
    ⟨"UNIT_CAP", "CAP", 0x004, 0, 1, 31, 0, .ro, (k 0)⟩,
    ⟨"UNIT_LINK", "PARENT", 0x008, 0, 1, 31, 20, .ro, (k 0)⟩,
    ⟨"UNIT_LINK", "FIRST_CHILD", 0x008, 0, 1, 19, 8, .ro, (k 0)⟩,
    ⟨"UNIT_LINK", "CHILD_COUNT", 0x008, 0, 1, 7, 0, .ro, (k 0)⟩,
    ⟨"UNIT_CTRL", "ENABLE", 0x00C, 0, 1, 0, 0, .rw, (k 0)⟩,
    ⟨"UNIT_STATUS", "CMD_REFUSED", 0x010, 0, 1, 0, 0, .w1c, (k 0)⟩,
    ⟨"UNIT_STATUS", "LOCK_VIOL", 0x010, 0, 1, 1, 1, .w1c, (k 0)⟩,
    ⟨"UNIT_STATUS", "COMMIT_ERR", 0x010, 0, 1, 2, 2, .w1c, (k 0)⟩,
    ⟨"UNIT_STATUS", "POISON_SEEN", 0x010, 0, 1, 3, 3, .w1c, (k 0)⟩,
    ⟨"UNIT_STATUS", "SNAP_STALE", 0x010, 0, 1, 4, 4, .w1c, (k 0)⟩,
    ⟨"UNIT_STATUS", "CMD_BUSY", 0x010, 0, 1, 8, 8, .ro, (k 0)⟩,
    ⟨"UNIT_STATUS", "COMMIT_PENDING", 0x010, 0, 1, 9, 9, .ro, (k 0)⟩,
    ⟨"UNIT_STATUS", "STATE", 0x010, 0, 1, 23, 16, .ro, (k 0)⟩,
    ⟨"UNIT_EVENT", "BITS", 0x014, 0, 1, 31, 0, .w1c, (k 0)⟩,
    ⟨"UNIT_EVENT_EN", "BITS", 0x018, 0, 1, 31, 0, .rw, (k 0)⟩,
    ⟨"UNIT_CMD", "CODE", 0x01C, 0, 1, 15, 0, .wo, (k 0)⟩,
    ⟨"UNIT_CMD", "ARG", 0x01C, 0, 1, 31, 16, .wo, (k 0)⟩ ]
def hdrRows1 : List Row :=
  [ ⟨"UNIT_CMD_RESULT", "CMD", 0x020, 0, 1, 15, 0, .ro, (k 0)⟩,
    ⟨"UNIT_CMD_RESULT", "STATE", 0x020, 0, 1, 23, 16, .ro, (k 0)⟩,
    ⟨"UNIT_CMD_RESULT", "REFUSE", 0x020, 0, 1, 31, 24, .ro, (k 0)⟩,
    ⟨"UNIT_COMMIT", "WHEN", 0x024, 0, 1, 3, 0, .rw, (k 0)⟩,
    ⟨"UNIT_COMMIT_STAT", "PENDING", 0x028, 0, 1, 0, 0, .ro, (k 0)⟩,
    ⟨"UNIT_COMMIT_STAT", "DONE", 0x028, 0, 1, 1, 1, .w1c, (k 0)⟩,
    ⟨"UNIT_COMMIT_STAT", "ERR", 0x028, 0, 1, 15, 8, .ro, (k 0)⟩,
    ⟨"UNIT_COMMIT_STAT", "PAIR", 0x028, 0, 1, 23, 16, .ro, (k 0)⟩,
    ⟨"UNIT_COMMIT_STAT", "COUNT", 0x028, 0, 1, 31, 24, .ro, (k 0)⟩,
    ⟨"UNIT_LOCK", "LOCK", 0x02C, 0, 1, 0, 0, .wo1, (k 0)⟩,
    ⟨"UNIT_LOCK", "OWNER", 0x02C, 0, 1, 8, 8, .ro, (k 0)⟩,
    ⟨"UNIT_INJECT", "FOLLY", 0x030, 0, 1, 7, 0, .rw, (k 0)⟩,
    ⟨"UNIT_INJECT", "SHOTS", 0x030, 0, 1, 15, 8, .rw, (k 0)⟩,
    ⟨"UNIT_INJECT", "PARAM", 0x030, 0, 1, 31, 16, .rw, (k 0)⟩,
    ⟨"UNIT_INJECT_ARM", "KEY", 0x034, 0, 1, 15, 0, .wo, (k 0)⟩,
    ⟨"UNIT_INJECT_ARM", "DISARM", 0x034, 0, 1, 16, 16, .wo, (k 0)⟩,
    ⟨"UNIT_COMMIT_POS_LO", "POS", 0x038, 0, 1, 31, 0, .rw, (k 0)⟩,
    ⟨"UNIT_COMMIT_POS_HI", "POS", 0x03C, 0, 1, 15, 0, .rw, (k 0)⟩ ]
def hdrRows : List Row := hdrRows0 ++ hdrRows1

def topRows0 : List Row :=
  [ ⟨"TOP_DIR_COUNT", "COUNT", 0x040, 0, 1, 7, 0, .ro, (k 15)⟩,
    ⟨"TOP_DIR", "FIRST", 0x044, 4, 15, 19, 8, .ro, (k 0)⟩,
    ⟨"TOP_DIR", "COUNT", 0x044, 4, 15, 7, 0, .ro, (k 0)⟩,
    ⟨"TOP_BOOT", "STAGE", 0x080, 0, 1, 3, 0, .ro, (k 0)⟩,
    ⟨"TOP_BOOT", "FW_SLOT", 0x080, 0, 1, 4, 4, .ro, (k 0)⟩,
    ⟨"TOP_BOOT", "CFG_SLOT", 0x080, 0, 1, 5, 5, .ro, (k 0)⟩,
    ⟨"TOP_BOOT", "FAIL", 0x080, 0, 1, 23, 16, .ro, (k 0)⟩,
    ⟨"TOP_RESET_CAUSE", "POR", 0x084, 0, 1, 0, 0, .w1c, (k 1)⟩,
    ⟨"TOP_RESET_CAUSE", "RESET_IN", 0x084, 0, 1, 1, 1, .w1c, (k 0)⟩,
    ⟨"TOP_RESET_CAUSE", "CMD", 0x084, 0, 1, 2, 2, .w1c, (k 0)⟩,
    ⟨"TOP_RESET_CAUSE", "RAIL_LOSS", 0x084, 0, 1, 3, 3, .w1c, (k 0)⟩,
    ⟨"TOP_RESET_CAUSE", "PLL_FAULT", 0x084, 0, 1, 4, 4, .w1c, (k 0)⟩,
    ⟨"TOP_EVT_SUM", "PENDING", 0x100, 4, 20, 31, 0, .ro, (k 0)⟩ ]
def topRows : List Row := topRows0

def clkRows0 : List Row :=
  [ ⟨"CLK_XTAL_STAT", "XTAL_OK", 0x040, 0, 1, 0, 0, .ro, (k 0)⟩,
    ⟨"CLK_XTAL_STAT", "ON_RC", 0x040, 0, 1, 1, 1, .ro, (k 0)⟩,
    ⟨"CLK_PLL_CFG", "TARGET", 0x100, 16, 15, 15, 0, .rw, (fun _ _ i => bootTarget i)⟩,
    ⟨"CLK_PLL_STAT", "LOCKED", 0x104, 16, 15, 0, 0, .ro, (k 0)⟩,
    ⟨"CLK_PLL_STAT", "BYPASS", 0x104, 16, 15, 1, 1, .ro, (k 1)⟩,
    ⟨"CLK_PLL_STAT", "REF_OK", 0x104, 16, 15, 2, 2, .ro, (k 0)⟩,
    ⟨"CLK_PLL_STAT", "UNLOCKS", 0x104, 16, 15, 15, 8, .ro, (k 0)⟩,
    ⟨"CLK_PLL_FREQ", "KHZ", 0x108, 16, 15, 31, 0, .ro, (k 0)⟩ ]
def clkRows : List Row := clkRows0

def pwrRows0 : List Row :=
  [ ⟨"PWR_VOTE", "LEVEL", 0x040, 4, 1, 13, 0, .rw, (k 10922)⟩,
    ⟨"PWR_VOTE", "LEVEL", 0x044, 4, 1, 13, 0, .rw, (k 10922)⟩,
    ⟨"PWR_VOTE", "LEVEL", 0x048, 4, 5, 13, 0, .ro, (k 0)⟩,
    ⟨"PWR_EFFECTIVE", "LEVEL", 0x060, 0, 1, 13, 0, .ro, (k 10922)⟩,
    ⟨"PWR_DOMAIN_STAT", "UP", 0x064, 0, 1, 6, 0, .ro, (k 0)⟩,
    ⟨"PWR_DOMAIN_STAT", "ISOLATED", 0x064, 0, 1, 14, 8, .ro, (k 0)⟩,
    ⟨"PWR_DOMAIN_STAT", "PRESENT", 0x064, 0, 1, 22, 16, .ro, (k 0)⟩,
    ⟨"PWR_WAKE_VOTE", "LEVEL", 0x068, 0, 1, 13, 0, .rw, (k 10922)⟩,
    ⟨"PWR_WAKE_CAUSE", "COMP", 0x06C, 0, 1, 3, 0, .w1c, (k 0)⟩,
    ⟨"PWR_WAKE_CAUSE", "WINDOW", 0x06C, 0, 1, 4, 4, .w1c, (k 0)⟩,
    ⟨"PWR_WAKE_CAUSE", "WIN_NUM", 0x06C, 0, 1, 7, 5, .ro, (k 0)⟩,
    ⟨"PWR_WAKE_CAUSE", "PERST", 0x06C, 0, 1, 8, 8, .w1c, (k 0)⟩,
    ⟨"PWR_WAKE_CAUSE", "WAKE_FRAME", 0x06C, 0, 1, 9, 9, .w1c, (k 0)⟩,
    ⟨"PWR_WAKE_CAUSE", "RAIL_TIMEOUT", 0x06C, 0, 1, 10, 10, .w1c, (k 0)⟩,
    ⟨"PWR_PATROL_CTRL", "ENABLE", 0x070, 0, 1, 0, 0, .rw, (k 0)⟩,
    ⟨"PWR_PATROL_CTRL", "PERIOD", 0x070, 0, 1, 17, 8, .rw, (k 100)⟩,
    ⟨"PWR_PATROL_CTRL", "CONFIRM", 0x070, 0, 1, 27, 24, .rw, (k 3)⟩,
    ⟨"PWR_PATROL_STAT", "CYCLES", 0x074, 0, 1, 31, 0, .ro, (k 0)⟩,
    ⟨"PWR_SR_ABORTS", "COUNT", 0x078, 0, 1, 15, 0, .ro, (k 0)⟩,
    ⟨"PWR_WIN_CFG", "CHANNEL", 0x080, 8, 8, 4, 0, .rw, (k 0)⟩ ]
def pwrRows1 : List Row :=
  [ ⟨"PWR_WIN_CFG", "EN", 0x080, 8, 8, 31, 31, .rw, (k 0)⟩,
    ⟨"PWR_WIN_LIM", "LOW", 0x084, 8, 8, 11, 0, .rws, (k 0)⟩,
    ⟨"PWR_WIN_LIM", "HIGH", 0x084, 8, 8, 27, 16, .rws, (k 4095)⟩,
    ⟨"PWR_COMP_THR", "THRESH", 0x0C0, 8, 4, 9, 0, .rws, (k 1021)⟩,
    ⟨"PWR_COMP_THR", "HYST", 0x0C0, 8, 4, 19, 16, .rws, (k 2)⟩,
    ⟨"PWR_COMP_CTRL", "EN", 0x0C4, 8, 4, 0, 0, .rw, (k 0)⟩,
    ⟨"PWR_COMP_CTRL", "FALLING", 0x0C4, 8, 4, 1, 1, .rw, (k 0)⟩,
    ⟨"PWR_COMP_CTRL", "WAKE", 0x0C4, 8, 4, 2, 2, .rw, (k 0)⟩,
    ⟨"PWR_COMP_STAT", "TRIPPED", 0x0E0, 0, 1, 3, 0, .ro, (k 0)⟩ ]
def pwrRows : List Row := pwrRows0 ++ pwrRows1

def encRows0 : List Row :=
  [ ⟨"UNIT_CTRL", "ENABLE", 0x00C, 0, 1, 0, 0, .rw, (k 0)⟩,
    ⟨"UNIT_STATUS", "COASTING", 0x010, 0, 1, 24, 24, .ro, (k 0)⟩,
    ⟨"UNIT_STATUS", "INDEXED", 0x010, 0, 1, 25, 25, .ro, (k 0)⟩,
    ⟨"UNIT_STATUS", "FAULT", 0x010, 0, 1, 26, 26, .ro, (k 0)⟩,
    ⟨"ENC_CFG", "MODE", 0x040, 0, 1, 1, 0, .rw, (k 0)⟩,
    ⟨"ENC_CFG", "DIR", 0x040, 0, 1, 2, 2, .rw, (k 0)⟩,
    ⟨"ENC_CFG", "INDEX_EN", 0x040, 0, 1, 3, 3, .rw, (k 0)⟩,
    ⟨"ENC_CFG", "FILTER", 0x040, 0, 1, 7, 4, .rw, (k 4)⟩,
    ⟨"ENC_CFG", "CORRECT", 0x040, 0, 1, 8, 8, .rw, (k 0)⟩,
    ⟨"ENC_WIRE", "WIRE_TIME", 0x044, 0, 1, 15, 0, .rw, (k 100)⟩,
    ⟨"ENC_RADIUS", "MIN", 0x048, 0, 1, 13, 0, .rws, (k 2730)⟩,
    ⟨"ENC_RADIUS", "MAX", 0x048, 0, 1, 29, 16, .rws, (k 8000)⟩,
    ⟨"ENC_OFS", "SIN", 0x04C, 0, 1, 15, 0, .rws, (k 0)⟩,
    ⟨"ENC_OFS", "COS", 0x04C, 0, 1, 31, 16, .rws, (k 0)⟩,
    ⟨"ENC_GAIN", "SIN", 0x050, 0, 1, 15, 0, .rws, (k 16384)⟩,
    ⟨"ENC_GAIN", "COS", 0x050, 0, 1, 31, 16, .rws, (k 16384)⟩,
    ⟨"ENC_PHASE", "PHI", 0x054, 0, 1, 15, 0, .rws, (k 0)⟩,
    ⟨"ENC_SKEW", "PS", 0x058, 0, 1, 15, 0, .rws, (k 0)⟩,
    ⟨"ENC_CAL_STAT", "COUNT", 0x05C, 0, 1, 15, 0, .ro, (k 0)⟩,
    ⟨"ENC_CAL_STAT", "VALID", 0x05C, 0, 1, 16, 16, .ro, (k 0)⟩ ]
def encRows1 : List Row :=
  [ ⟨"ENC_CAL_STAT", "ABANDONED", 0x05C, 0, 1, 17, 17, .ro, (k 0)⟩,
    ⟨"ENC_INDEX_EXPECT", "PU", 0x060, 0, 1, 31, 0, .rws, (k 0)⟩,
    ⟨"ENC_INDEX_TOL", "PU", 0x064, 0, 1, 23, 0, .rws, (k 1024)⟩,
    ⟨"ENC_COUNT_LO", "POS", 0x068, 0, 1, 31, 0, .ro, (k 0)⟩,
    ⟨"ENC_COUNT_HI", "POS", 0x06C, 0, 1, 15, 0, .ro, (k 0)⟩,
    ⟨"ENC_INDEX_LATCH_LO", "POS", 0x070, 0, 1, 31, 0, .ro, (k 0)⟩,
    ⟨"ENC_INDEX_LATCH_HI", "POS", 0x074, 0, 1, 15, 0, .ro, (k 0)⟩,
    ⟨"ENC_INDEX_DIFF", "D", 0x078, 0, 1, 31, 0, .ro, (k 0)⟩,
    ⟨"ENC_INDEX_DRIFT", "SUM", 0x07C, 0, 1, 31, 0, .ro, (k 0)⟩ ]
def encRows : List Row := encRows0 ++ encRows1

def sdlRows0 : List Row :=
  [ ⟨"UNIT_STATUS", "ACTIVE", 0x010, 0, 1, 25, 24, .ro, (k 0)⟩,
    ⟨"UNIT_STATUS", "HALT_LATCHED", 0x010, 0, 1, 26, 26, .ro, (k 0)⟩,
    ⟨"SDL_CFG", "SOURCE", 0x040, 0, 1, 1, 0, .rws, (k 0)⟩,
    ⟨"SDL_CFG", "CHECK", 0x040, 0, 1, 3, 2, .rws, (k 3)⟩,
    ⟨"SDL_CFG", "FAILOVER", 0x040, 0, 1, 4, 4, .rws, (k 0)⟩,
    ⟨"SDL_CFG", "REF_HEAD", 0x040, 0, 1, 12, 8, .rws, (k 0)⟩,
    ⟨"SDL_RATIO", "R", 0x044, 0, 1, 31, 0, .rws, (k 16777216)⟩,
    ⟨"SDL_CHECK_LIMIT", "PU", 0x048, 0, 1, 23, 0, .rw, (k 40960)⟩,
    ⟨"SDL_HYST", "PU", 0x04C, 0, 1, 15, 0, .rw, (k 256)⟩,
    ⟨"SDL_POS_LO", "POS", 0x050, 0, 1, 31, 0, .ro, (k 0)⟩,
    ⟨"SDL_POS_HI", "POS", 0x054, 0, 1, 15, 0, .ro, (k 0)⟩,
    ⟨"SDL_HWM_LO", "POS", 0x058, 0, 1, 31, 0, .ro, (k 0)⟩,
    ⟨"SDL_HWM_HI", "POS", 0x05C, 0, 1, 15, 0, .ro, (k 0)⟩,
    ⟨"SDL_POS_LOAD_LO", "POS", 0x060, 0, 1, 31, 0, .rw, (k 0)⟩,
    ⟨"SDL_POS_LOAD_HI", "POS", 0x064, 0, 1, 15, 0, .rw, (k 0)⟩,
    ⟨"SDL_STANDSTILL", "TIMEOUT", 0x068, 0, 1, 23, 0, .rw, (k 10000)⟩,
    ⟨"SDL_REV_BAND", "PU", 0x06C, 0, 1, 15, 0, .rw, (k 64)⟩,
    ⟨"SDL_CHECK_DIFF", "PU", 0x070, 0, 1, 31, 0, .ro, (k 0)⟩,
    ⟨"SDL_FF", "PS", 0x074, 0, 1, 31, 0, .ro, (k 0)⟩,
    ⟨"SDL_FF_TRIM", "PS", 0x078, 0, 1, 15, 0, .rw, (k 0)⟩ ]
def sdlRows1 : List Row :=
  [ ⟨"SDL_HALT", "ON_BREAK", 0x07C, 0, 1, 0, 0, .rwl, (k 1)⟩,
    ⟨"SDL_HALT", "ON_COLLAPSE", 0x07C, 0, 1, 1, 1, .rwl, (k 1)⟩ ]
def sdlRows : List Row := sdlRows0 ++ sdlRows1

def spdRows0 : List Row :=
  [ ⟨"SPD_SPEED", "V", 0x040, 0, 1, 31, 0, .ro, (k 0)⟩,
    ⟨"SPD_SPEED_AVG", "V", 0x044, 0, 1, 31, 0, .ro, (k 0)⟩,
    ⟨"SPD_ACCEL", "A", 0x048, 0, 1, 31, 0, .ro, (k 0)⟩,
    ⟨"SPD_WINDOW", "SAMPLES", 0x04C, 0, 1, 5, 0, .rw, (k 16)⟩,
    ⟨"SPD_COLLAPSE_CFG", "PCT", 0x050, 0, 1, 7, 0, .rw, (k 30)⟩,
    ⟨"SPD_COLLAPSE_CFG", "EN", 0x050, 0, 1, 8, 8, .rw, (k 1)⟩,
    ⟨"SPD_COLLAPSE_MIN", "V", 0x054, 0, 1, 31, 0, .rw, (k 6553600)⟩ ]
def spdRows : List Row := spdRows0

def trgRows0 : List Row :=
  [ ⟨"UNIT_CAP", "CHANNELS", 0x004, 0, 1, 2, 0, .ro, (k 0)⟩,
    ⟨"TRG_ORIGIN_LO", "POS", 0x040, 0, 1, 31, 0, .rw, (k 0)⟩,
    ⟨"TRG_ORIGIN_HI", "POS", 0x044, 0, 1, 15, 0, .rw, (k 0)⟩,
    ⟨"TRG_PITCH_INT", "PU", 0x048, 0, 1, 31, 0, .rws, (k 0)⟩,
    ⟨"TRG_PITCH_FRAC", "FRAC", 0x04C, 0, 1, 15, 0, .rws, (k 0)⟩,
    ⟨"TRG_WIDTH", "NS", 0x050, 0, 1, 15, 0, .rw, (k 100)⟩,
    ⟨"TRG_HALVE_SPEED", "V", 0x054, 0, 1, 31, 0, .rws, (k 0)⟩,
    ⟨"TRG_COUNT_LO", "N", 0x058, 0, 1, 31, 0, .ro, (k 0)⟩,
    ⟨"TRG_COUNT_HI", "N", 0x05C, 0, 1, 31, 0, .ro, (k 0)⟩,
    ⟨"TRG_CH", "OFFSET", 0x060, 4, 6, 23, 0, .rws, (k 0)⟩,
    ⟨"TRG_CH", "POL", 0x060, 4, 6, 30, 30, .rw, (k 0)⟩,
    ⟨"TRG_CH", "EN", 0x060, 4, 6, 31, 31, .rw, (k 0)⟩ ]
def trgRows : List Row := trgRows0

def hscRows0 : List Row :=
  [ ⟨"HSC_ORIGIN_LO", "POS", 0x040, 0, 1, 31, 0, .rw, (k 0)⟩,
    ⟨"HSC_ORIGIN_HI", "POS", 0x044, 0, 1, 15, 0, .rw, (k 0)⟩,
    ⟨"HSC_START_LINE", "N", 0x048, 0, 1, 31, 0, .rw, (k 0)⟩,
    ⟨"HSC_PP_LINES", "N", 0x04C, 0, 1, 23, 0, .rws, (k 1)⟩,
    ⟨"HSC_PITCH_INT", "PU", 0x050, 0, 1, 31, 0, .rws, (k 0)⟩,
    ⟨"HSC_PITCH_FRAC", "FRAC", 0x054, 0, 1, 15, 0, .rws, (k 0)⟩,
    ⟨"HSC_ROW_OFFSET_LO", "PU", 0x058, 0, 1, 31, 0, .rws, (k 0)⟩,
    ⟨"HSC_ROW_OFFSET_HI", "PU", 0x05C, 0, 1, 15, 0, .rws, (k 0)⟩,
    ⟨"HSC_TRIM", "STEPS", 0x060, 0, 1, 7, 0, .rws, (k 0)⟩,
    ⟨"HSC_MIN_PERIOD", "NS", 0x064, 0, 1, 15, 0, .rw, (k 2500)⟩,
    ⟨"HSC_LINE_LO", "N", 0x070, 0, 1, 31, 0, .ro, (k 0)⟩,
    ⟨"HSC_LINE_HI", "N", 0x074, 0, 1, 31, 0, .ro, (k 0)⟩,
    ⟨"HSC_NEXT_FIRE_LO", "POS", 0x078, 0, 1, 31, 0, .ro, (k 0)⟩,
    ⟨"HSC_NEXT_FIRE_HI", "POS", 0x07C, 0, 1, 15, 0, .ro, (k 0)⟩,
    ⟨"HSC_PP_STAT", "LINE_IN_PP", 0x080, 0, 1, 23, 0, .ro, (k 0)⟩,
    ⟨"HSC_PP_NUM", "N", 0x084, 0, 1, 31, 0, .ro, (k 0)⟩,
    ⟨"HSC_LATE_LINES", "N", 0x088, 0, 1, 31, 0, .ro, (k 0)⟩,
    ⟨"HSC_TAG", "TAG", 0x08C, 0, 1, 7, 0, .ro, (k 0)⟩ ]
def hscRows : List Row := hscRows0

def ingRows0 : List Row :=
  [ ⟨"ING_LIVE_CAP", "CYCLES", 0x040, 0, 1, 31, 0, .ro, (fun p _ _ => 1000 * p.kiosks)⟩,
    ⟨"ING_ADMIT_WINDOW", "PU", 0x044, 0, 1, 31, 0, .rw, (k 262144)⟩,
    ⟨"ING_ADMIT_CFG", "PCT", 0x048, 0, 1, 7, 0, .rw, (k 90)⟩,
    ⟨"ING_DEMAND", "PERMILLE", 0x04C, 0, 1, 15, 0, .ro, (k 0)⟩,
    ⟨"ING_LOOKAHEAD_LOW", "PU", 0x050, 0, 1, 31, 0, .rw, (k 0)⟩,
    ⟨"ING_ENVELOPE_ERRS", "N", 0x054, 0, 1, 31, 0, .ro, (k 0)⟩,
    ⟨"ING_STARVE_LO", "PP", 0x058, 0, 1, 31, 0, .ro, (k 0)⟩,
    ⟨"ING_STARVE_HI", "HEAD", 0x05C, 0, 1, 4, 0, .ro, (k 0)⟩,
    ⟨"ING_STARVE_HI", "PLANES", 0x05C, 0, 1, 11, 8, .ro, (k 0)⟩,
    ⟨"ING_STARVE_HI", "VALID", 0x05C, 0, 1, 31, 31, .ro, (k 0)⟩,
    ⟨"ING_STARVE_LOST", "N", 0x060, 0, 1, 15, 0, .ro, (k 0)⟩,
    ⟨"ING_QUEUE_USED", "N", 0x064, 0, 1, 12, 0, .ro, (k 0)⟩,
    ⟨"ING_RIB_BASE", "BASE", 0x100, 16, 32, 19, 0, .rw, (fun _ _ i => 20460 * i)⟩,
    ⟨"ING_RIB_SIZE", "LINES", 0x104, 16, 32, 9, 0, .rw, (k 682)⟩,
    ⟨"ING_RIB_SIZE", "WIDTH", 0x104, 16, 32, 23, 16, .rw, (k 80)⟩,
    ⟨"ING_RIB_SIZE", "LAYERS", 0x104, 16, 32, 27, 24, .rw, (k 1)⟩,
    ⟨"ING_HEAD_CFG", "ALLOW", 0x108, 16, 32, 7, 0, .rws, (k 16)⟩,
    ⟨"ING_HEAD_CFG", "OWNER", 0x108, 16, 32, 19, 8, .rws, (k 128)⟩,
    ⟨"ING_RIB_STAT", "READY", 0x10C, 16, 32, 9, 0, .ro, (k 0)⟩,
    ⟨"ING_RIB_STAT", "LATE", 0x10C, 16, 32, 31, 16, .ro, (k 0)⟩ ]
def ingRows : List Row := ingRows0

def stmRows0 : List Row :=
  [ ⟨"STM_CFG", "SRC", 0x040, 0, 1, 1, 0, .rw, (k 0)⟩,
    ⟨"STM_CFG", "ENCRYPTED", 0x040, 0, 1, 2, 2, .rw, (k 0)⟩,
    ⟨"STM_UDP", "PORT", 0x044, 0, 1, 15, 0, .rw, (fun _ u _ => 23000 + u)⟩,
    ⟨"STM_STAGE_BASE", "MIB", 0x048, 0, 1, 19, 0, .rw, (k 0)⟩,
    ⟨"STM_STAGE_SIZE", "MIB", 0x04C, 0, 1, 19, 0, .rw, (k 0)⟩,
    ⟨"STM_ACK", "INTERVAL", 0x050, 0, 1, 15, 0, .rw, (k 50)⟩,
    ⟨"STM_ACK", "GAP_WAIT", 0x050, 0, 1, 31, 16, .rw, (k 100)⟩,
    ⟨"STM_GAP", "RETRIES", 0x054, 0, 1, 3, 0, .rw, (k 3)⟩,
    ⟨"STM_RING_LO", "ADDR", 0x058, 0, 1, 31, 0, .rw, (k 0)⟩,
    ⟨"STM_RING_HI", "ADDR", 0x05C, 0, 1, 31, 0, .rw, (k 0)⟩,
    ⟨"STM_RING_SIZE", "N", 0x060, 0, 1, 15, 0, .rw, (k 0)⟩,
    ⟨"STM_RING_TAIL", "TAIL", 0x064, 0, 1, 15, 0, .rw, (k 0)⟩,
    ⟨"STM_RING_HEAD", "HEAD", 0x068, 0, 1, 15, 0, .ro, (k 0)⟩,
    ⟨"STM_LOOP_ADDR", "ADDR", 0x070, 0, 1, 31, 0, .rw, (k 0)⟩,
    ⟨"STM_LOOP_BYTES", "N", 0x074, 0, 1, 31, 0, .rw, (k 0)⟩,
    ⟨"STM_LOOP_LINES", "N", 0x078, 0, 1, 31, 0, .rw, (k 0)⟩,
    ⟨"STM_CUM_SEQ", "SEQ", 0x080, 0, 1, 31, 0, .ro, (k 0)⟩,
    ⟨"STM_WINDOW", "BYTES", 0x084, 0, 1, 31, 0, .ro, (k 0)⟩,
    ⟨"STM_STAGED", "KIB", 0x088, 0, 1, 31, 0, .ro, (k 0)⟩,
    ⟨"STM_TILES_LO", "N", 0x090, 0, 1, 31, 0, .ro, (k 0)⟩ ]
def stmRows1 : List Row :=
  [ ⟨"STM_TILES_HI", "N", 0x094, 0, 1, 31, 0, .ro, (k 0)⟩,
    ⟨"STM_AUTH_FAILS", "N", 0x098, 0, 1, 31, 0, .ro, (k 0)⟩,
    ⟨"STM_DROPS", "N", 0x09C, 0, 1, 31, 0, .ro, (k 0)⟩,
    ⟨"STM_GAPS", "N", 0x0A0, 0, 1, 31, 0, .ro, (k 0)⟩,
    ⟨"STM_LOST", "N", 0x0A4, 0, 1, 31, 0, .ro, (k 0)⟩,
    ⟨"STM_REJECT", "REASON", 0x0A8, 0, 1, 3, 0, .ro, (k 0)⟩,
    ⟨"STM_REJECT", "HEAD", 0x0A8, 0, 1, 12, 8, .ro, (k 0)⟩,
    ⟨"STM_REJECT", "COUNT", 0x0A8, 0, 1, 31, 16, .ro, (k 0)⟩,
    ⟨"STM_OVERRUNS", "N", 0x0AC, 0, 1, 31, 0, .ro, (k 0)⟩,
    ⟨"STM_LOOP_PASS", "N", 0x0B0, 0, 1, 31, 0, .ro, (k 0)⟩ ]
def stmRows : List Row := stmRows0 ++ stmRows1

def wkRows0 : List Row :=
  [ ⟨"WK_STAT", "IN_POOL", 0x040, 0, 1, 15, 0, .ro, (k 0)⟩,
    ⟨"WK_CAP_LIVE", "CYCLES", 0x044, 0, 1, 31, 0, .ro, (k 0)⟩,
    ⟨"WK_CYCLES_LO", "N", 0x048, 0, 1, 31, 0, .ro, (k 0)⟩,
    ⟨"WK_CYCLES_HI", "N", 0x04C, 0, 1, 31, 0, .ro, (k 0)⟩,
    ⟨"WK_TILES_LO", "N", 0x050, 0, 1, 31, 0, .ro, (k 0)⟩,
    ⟨"WK_TILES_HI", "N", 0x054, 0, 1, 31, 0, .ro, (k 0)⟩,
    ⟨"WK_OVERRUNS", "N", 0x058, 0, 1, 31, 0, .ro, (k 0)⟩,
    ⟨"WK_OUT", "HOST", 0x05C, 0, 1, 0, 0, .ro, (k 0)⟩,
    ⟨"WK_OUT", "BIST", 0x05C, 0, 1, 1, 1, .ro, (k 0)⟩,
    ⟨"WK_OUT", "RELOCK", 0x05C, 0, 1, 2, 2, .ro, (k 0)⟩,
    ⟨"WK_OUT", "RETIRED", 0x05C, 0, 1, 3, 3, .ro, (k 0)⟩,
    ⟨"WK_HORIZON", "PU", 0x060, 0, 1, 31, 0, .rw, (k 1048576)⟩,
    ⟨"WK_QUEUE", "ENTRIES", 0x064, 0, 1, 12, 0, .ro, (k 0)⟩ ]
def wkRows : List Row := wkRows0

def trlRows0 : List Row :=
  [ ⟨"UNIT_CTRL", "ENABLE", 0x00C, 0, 1, 0, 0, .rw, (k 0)⟩,
    ⟨"TRL_MERGE", "MODE", 0x040, 0, 1, 1, 0, .rws, (k 0)⟩,
    ⟨"TRL_MERGE", "ORDER", 0x040, 0, 1, 15, 8, .rws, (k 228)⟩,
    ⟨"TRL_GEOM", "NOZZLES", 0x044, 0, 1, 12, 0, .rws, (k 5120)⟩,
    ⟨"TRL_GEOM", "MASK_PERIOD", 0x044, 0, 1, 21, 16, .rws, (k 32)⟩,
    ⟨"TRL_GEOM", "MASK_PHASE", 0x044, 0, 1, 28, 24, .rws, (k 0)⟩,
    ⟨"TRL_TBL_ADDR", "ADDR", 0x048, 0, 1, 31, 0, .ro, (k 0)⟩,
    ⟨"TRL_TBL_INDEX", "NOZZLE", 0x04C, 0, 1, 12, 0, .rw, (k 0)⟩,
    ⟨"TRL_TBL_INDEX", "ACTIVE", 0x04C, 0, 1, 16, 16, .rw, (k 0)⟩,
    ⟨"TRL_TBL_DATA", "WORD", 0x050, 4, 4, 31, 0, .rws, (k 0)⟩,
    ⟨"TRL_LINES_LO", "N", 0x060, 0, 1, 31, 0, .ro, (k 0)⟩,
    ⟨"TRL_LINES_HI", "N", 0x064, 0, 1, 31, 0, .ro, (k 0)⟩,
    ⟨"TRL_OUT_ACTIVE", "N", 0x068, 0, 1, 12, 0, .ro, (k 0)⟩,
    ⟨"TRL_POISON", "COUNT", 0x06C, 0, 1, 31, 0, .ro, (k 0)⟩,
    ⟨"TRL_POISON_LAST", "WHERE", 0x070, 0, 1, 12, 0, .ro, (k 0)⟩,
    ⟨"TRL_POISON_LAST", "KIND", 0x070, 0, 1, 16, 16, .ro, (k 0)⟩,
    ⟨"TRL_POISON_LAST", "PLANE", 0x070, 0, 1, 19, 18, .ro, (k 0)⟩ ]
def trlRows : List Row := trlRows0

def trlRootRows0 : List Row :=
  [ ⟨"TRL_OUT_REQ", "NOZZLE", 0x040, 0, 1, 17, 0, .rw, (k 0)⟩,
    ⟨"TRL_OUT_REQ", "VALUE", 0x040, 0, 1, 24, 24, .rw, (k 0)⟩,
    ⟨"TRL_OUT_LAST", "PARTNER", 0x044, 0, 1, 17, 0, .ro, (k 0)⟩,
    ⟨"TRL_OUT_LAST", "PAIRED", 0x044, 0, 1, 31, 31, .ro, (k 0)⟩ ]
def trlRootRows : List Row := trlRootRows0

def firRows0 : List Row :=
  [ ⟨"UNIT_CTRL", "ENABLE", 0x00C, 0, 1, 0, 0, .rw, (k 0)⟩,
    ⟨"FIR_CFG", "RAIL", 0x040, 0, 1, 1, 0, .rw, (fun _ u _ => u / 8)⟩,
    ⟨"FIR_CFG", "CORR_EN", 0x040, 0, 1, 8, 8, .rws, (k 1)⟩,
    ⟨"FIR_VREF", "VREF", 0x044, 0, 1, 15, 0, .rws, (k 30000)⟩,
    ⟨"FIR_VREF", "VMIN", 0x044, 0, 1, 31, 16, .rws, (k 10000)⟩,
    ⟨"FIR_TREF", "TREF", 0x048, 0, 1, 15, 0, .rws, (k 640)⟩,
    ⟨"FIR_TREF", "TCO", 0x048, 0, 1, 31, 16, .rws, (k 0)⟩,
    ⟨"FIR_CLAMP", "LO", 0x04C, 0, 1, 15, 0, .rws, (k 13107)⟩,
    ⟨"FIR_CLAMP", "HI", 0x04C, 0, 1, 31, 16, .rws, (k 19661)⟩,
    ⟨"FIR_TRAIN_MAX", "NS", 0x050, 0, 1, 15, 0, .rws, (k 2400)⟩,
    ⟨"FIR_WAVE", "WIDTH", 0x060, 4, 7, 13, 0, .rws, (k 0)⟩,
    ⟨"FIR_WAVE", "GAP", 0x060, 4, 7, 29, 16, .rws, (k 0)⟩,
    ⟨"FIR_FACTOR", "F", 0x07C, 0, 1, 15, 0, .ro, (k 16384)⟩,
    ⟨"FIR_FACTOR", "CLAMPED", 0x07C, 0, 1, 16, 16, .ro, (k 0)⟩,
    ⟨"FIR_TEMP", "TEMP", 0x080, 0, 1, 15, 0, .ro, (k 0)⟩,
    ⟨"FIR_TEMP", "AGE", 0x080, 0, 1, 31, 16, .ro, (k 65535)⟩,
    ⟨"FIR_TRAINS_LO", "N", 0x084, 0, 1, 31, 0, .ro, (k 0)⟩,
    ⟨"FIR_TRAINS_HI", "N", 0x088, 0, 1, 31, 0, .ro, (k 0)⟩,
    ⟨"FIR_CLAMP_LINES", "N", 0x08C, 0, 1, 31, 0, .ro, (k 0)⟩,
    ⟨"FIR_MISS", "COUNT", 0x090, 0, 1, 15, 0, .ro, (k 0)⟩ ]
def firRows1 : List Row :=
  [ ⟨"FIR_MISS", "TAG", 0x090, 0, 1, 23, 16, .ro, (k 0)⟩,
    ⟨"FIR_MISS", "CAUSE", 0x090, 0, 1, 25, 24, .ro, (k 0)⟩,
    ⟨"FIR_CUT_STAT", "CUT", 0x094, 0, 1, 0, 0, .ro, (k 0)⟩,
    ⟨"FIR_CUT_STAT", "CAUSE", 0x094, 0, 1, 2, 1, .ro, (k 0)⟩,
    ⟨"FIR_CUT_STAT", "COUNT", 0x094, 0, 1, 15, 8, .ro, (k 0)⟩,
    ⟨"FIR_CUT_LINES", "N", 0x098, 0, 1, 31, 0, .ro, (k 0)⟩,
    ⟨"FIR_DUTY", "PERMILLE", 0x09C, 0, 1, 9, 0, .ro, (k 0)⟩ ]
def firRows : List Row := firRows0 ++ firRows1

def firRootRows0 : List Row :=
  [ ⟨"FIR_WD_CEIL", "CEIL", 0x040, 0, 1, 7, 0, .ro, (k 100)⟩,
    ⟨"FIR_ESTOP", "LEVEL", 0x044, 0, 1, 0, 0, .ro, (k 0)⟩,
    ⟨"FIR_ESTOP", "LATCHED", 0x044, 0, 1, 1, 1, .ro, (k 0)⟩,
    ⟨"FIR_ESTOP", "COUNT", 0x044, 0, 1, 15, 8, .ro, (k 0)⟩,
    ⟨"FIR_CUT_MASK", "HEADS", 0x048, 0, 1, 31, 0, .ro, (k 0)⟩,
    ⟨"FIR_RAIL", "MV", 0x050, 4, 4, 15, 0, .ro, (k 0)⟩,
    ⟨"FIR_RAIL", "VALID", 0x050, 4, 4, 16, 16, .ro, (k 0)⟩,
    ⟨"FIR_WD_CFG", "MAX_HIGH", 0x080, 4, 32, 7, 0, .rwl, (k 30)⟩,
    ⟨"FIR_WD_CFG", "DUTY_PCT", 0x080, 4, 32, 23, 16, .rwl, (k 40)⟩ ]
def firRootRows : List Row := firRootRows0

def onkRows0 : List Row :=
  [ ⟨"UNIT_CTRL", "ENABLE", 0x00C, 0, 1, 0, 0, .rw, (k 0)⟩,
    ⟨"UNIT_STATUS", "LOS_NOW", 0x010, 0, 1, 24, 24, .ro, (k 0)⟩,
    ⟨"UNIT_STATUS", "SYNCED", 0x010, 0, 1, 25, 25, .ro, (k 0)⟩,
    ⟨"UNIT_STATUS", "RET_LATE", 0x010, 0, 1, 26, 26, .ro, (k 0)⟩,
    ⟨"ONK_CFG", "LEAD", 0x040, 0, 1, 1, 0, .rw, (k 2)⟩,
    ⟨"ONK_CFG", "LOOP", 0x040, 0, 1, 5, 4, .rw, (k 0)⟩,
    ⟨"ONK_CFG", "TEST", 0x040, 0, 1, 6, 6, .rw, (k 0)⟩,
    ⟨"ONK_CFG", "RET_MS", 0x040, 0, 1, 15, 8, .rw, (k 3)⟩,
    ⟨"ONK_EQ", "PRE", 0x044, 0, 1, 3, 0, .rws, (k 0)⟩,
    ⟨"ONK_EQ", "POST", 0x044, 0, 1, 8, 4, .rws, (k 6)⟩,
    ⟨"ONK_EQ", "SWING", 0x044, 0, 1, 13, 12, .rws, (k 2)⟩,
    ⟨"ONK_EQ", "CTLE", 0x044, 0, 1, 19, 16, .rws, (k 4)⟩,
    ⟨"ONK_LINES_LO", "N", 0x048, 0, 1, 31, 0, .ro, (k 0)⟩,
    ⟨"ONK_LINES_HI", "N", 0x04C, 0, 1, 31, 0, .ro, (k 0)⟩,
    ⟨"ONK_UNDELIV", "N", 0x050, 0, 1, 31, 0, .ro, (k 0)⟩,
    ⟨"ONK_EMPTY", "N", 0x054, 0, 1, 15, 0, .ro, (k 0)⟩,
    ⟨"ONK_EMPTY", "RETRIES", 0x054, 0, 1, 31, 16, .ro, (k 0)⟩,
    ⟨"ONK_TAG", "SENT", 0x058, 0, 1, 7, 0, .ro, (k 0)⟩,
    ⟨"ONK_TAG", "FIRED", 0x058, 0, 1, 15, 8, .ro, (k 0)⟩,
    ⟨"ONK_TAG", "EXPECT", 0x058, 0, 1, 23, 16, .ro, (k 0)⟩ ]
def onkRows1 : List Row :=
  [ ⟨"ONK_MISMATCH", "N", 0x05C, 0, 1, 31, 0, .ro, (k 0)⟩,
    ⟨"ONK_ERRS", "BLOCK", 0x060, 0, 1, 15, 0, .ro, (k 0)⟩,
    ⟨"ONK_ERRS", "CRC", 0x060, 0, 1, 31, 16, .ro, (k 0)⟩,
    ⟨"ONK_LINK", "DOWNS", 0x064, 0, 1, 15, 0, .ro, (k 0)⟩,
    ⟨"ONK_TEST_ERRS", "N", 0x068, 0, 1, 31, 0, .ro, (k 0)⟩,
    ⟨"ONK_HEAD_STAT", "STATUS", 0x06C, 0, 1, 15, 0, .ro, (k 0)⟩,
    ⟨"ONK_HEAD_STAT", "AGE", 0x06C, 0, 1, 31, 16, .ro, (k 65535)⟩,
    ⟨"ONK_TBL_ADDR", "ADDR", 0x070, 0, 1, 12, 0, .rw, (k 0)⟩,
    ⟨"ONK_TBL_LEN", "LEN", 0x074, 0, 1, 11, 0, .rw, (k 0)⟩,
    ⟨"ONK_STAGE", "RESULT", 0x078, 0, 1, 2, 0, .ro, (k 0)⟩,
    ⟨"ONK_RD_ADDR", "ADDR", 0x07C, 0, 1, 31, 0, .rw, (k 0)⟩,
    ⟨"ONK_RD_STAT", "DONE", 0x080, 0, 1, 0, 0, .w1c, (k 0)⟩,
    ⟨"ONK_RD_STAT", "FAIL", 0x080, 0, 1, 1, 1, .w1c, (k 0)⟩,
    ⟨"ONK_RET_DATA", "DATA", 0x800, 4, 512, 31, 0, .ro, (k 0)⟩ ]
def onkRows : List Row := onkRows0 ++ onkRows1

def onkRootRows0 : List Row :=
  [ ⟨"ONK_TX_MASK", "HEADS", 0x040, 0, 1, 31, 0, .rw, (k 0)⟩,
    ⟨"ONK_TX_CFG", "TABLE", 0x044, 0, 1, 7, 0, .rw, (k 0)⟩,
    ⟨"ONK_TX_CFG", "AT_PAGE", 0x044, 0, 1, 8, 8, .rw, (k 0)⟩,
    ⟨"ONK_TX_CFG", "ACK_MS", 0x044, 0, 1, 31, 16, .rw, (k 10)⟩,
    ⟨"ONK_TX_OK", "HEADS", 0x048, 0, 1, 31, 0, .ro, (k 0)⟩,
    ⟨"ONK_TX_FAIL", "HEADS", 0x04C, 0, 1, 31, 0, .ro, (k 0)⟩,
    ⟨"ONK_TX_LATE", "HEADS", 0x050, 0, 1, 31, 0, .ro, (k 0)⟩,
    ⟨"ONK_TX_LINE_LO", "N", 0x054, 0, 1, 31, 0, .ro, (k 0)⟩,
    ⟨"ONK_TX_LINE_HI", "N", 0x058, 0, 1, 31, 0, .ro, (k 0)⟩,
    ⟨"ONK_STAGE_BASE", "ADDR", 0x05C, 0, 1, 31, 0, .ro, (k 0)⟩,
    ⟨"ONK_ALERT", "LOW", 0x060, 0, 1, 7, 0, .ro, (k 0)⟩,
    ⟨"ONK_ALERT", "MASKED", 0x060, 0, 1, 15, 8, .ro, (k 0)⟩,
    ⟨"ONK_MBUS_XFER", "DEV", 0x080, 16, 4, 6, 0, .rw, (k 0)⟩,
    ⟨"ONK_MBUS_XFER", "RD", 0x080, 16, 4, 7, 7, .rw, (k 0)⟩,
    ⟨"ONK_MBUS_XFER", "LEN", 0x080, 16, 4, 11, 8, .rw, (k 1)⟩,
    ⟨"ONK_MBUS_DATA0", "DATA", 0x084, 16, 4, 31, 0, .rw, (k 0)⟩,
    ⟨"ONK_MBUS_DATA1", "DATA", 0x088, 16, 4, 31, 0, .rw, (k 0)⟩,
    ⟨"ONK_MBUS_STAT", "BUSY", 0x08C, 16, 4, 0, 0, .ro, (k 0)⟩,
    ⟨"ONK_MBUS_STAT", "NAK", 0x08C, 16, 4, 1, 1, .ro, (k 0)⟩,
    ⟨"ONK_MBUS_STAT", "DEAD", 0x08C, 16, 4, 2, 2, .ro, (k 0)⟩ ]
def onkRootRows : List Row := onkRootRows0

def camRows0 : List Row :=
  [ ⟨"UNIT_CTRL", "ENABLE", 0x00C, 0, 1, 0, 0, .rw, (k 0)⟩,
    ⟨"UNIT_STATUS", "PCLK_OK", 0x010, 0, 1, 24, 24, .ro, (k 0)⟩,
    ⟨"UNIT_STATUS", "IN_FRAME", 0x010, 0, 1, 25, 25, .ro, (k 0)⟩,
    ⟨"UNIT_STATUS", "BANK", 0x010, 0, 1, 27, 26, .ro, (k 1)⟩,
    ⟨"CAM_CFG", "FORMAT", 0x040, 0, 1, 0, 0, .rws, (k 0)⟩,
    ⟨"CAM_CFG", "FVAL_EN", 0x040, 0, 1, 1, 1, .rws, (k 0)⟩,
    ⟨"CAM_CFG", "PCLK_FALL", 0x040, 0, 1, 2, 2, .rw, (k 0)⟩,
    ⟨"CAM_CFG", "STORE", 0x040, 0, 1, 5, 4, .rws, (k 0)⟩,
    ⟨"CAM_LINE", "LINE_SAMPLES", 0x044, 0, 1, 13, 0, .rws, (k 2048)⟩,
    ⟨"CAM_LINE", "PAD", 0x044, 0, 1, 27, 16, .rws, (k 0)⟩,
    ⟨"CAM_FRAME", "FRAME_LINES", 0x048, 0, 1, 15, 0, .rws, (k 1024)⟩,
    ⟨"CAM_LAT", "LAT_MIN", 0x04C, 0, 1, 15, 0, .rws, (k 0)⟩,
    ⟨"CAM_LAT", "LAT_MAX", 0x04C, 0, 1, 31, 16, .rws, (k 50000)⟩,
    ⟨"CAM_QUEUE", "CUT_THRU", 0x050, 0, 1, 13, 0, .rws, (k 0)⟩,
    ⟨"CAM_BLACK01", "BLACK0", 0x054, 0, 1, 11, 0, .rws, (k 0)⟩,
    ⟨"CAM_BLACK01", "BLACK1", 0x054, 0, 1, 27, 16, .rws, (k 0)⟩,
    ⟨"CAM_BLACK2", "BLACK2", 0x058, 0, 1, 11, 0, .rws, (k 0)⟩,
    ⟨"CAM_WB01", "WB0", 0x05C, 0, 1, 15, 0, .rws, (k 4096)⟩,
    ⟨"CAM_WB01", "WB1", 0x05C, 0, 1, 31, 16, .rws, (k 4096)⟩,
    ⟨"CAM_WB2", "WB2", 0x060, 0, 1, 15, 0, .rws, (k 4096)⟩ ]
def camRows1 : List Row :=
  [ ⟨"CAM_CCM", "MLO", 0x064, 4, 5, 15, 0, .rws, (fun _ _ i => if i = 1 ∨ i = 3 then 0 else 0x1000)⟩,
    ⟨"CAM_CCM", "MHI", 0x064, 4, 4, 31, 16, .rws, (k 0)⟩,
    ⟨"CAM_DENS_W01", "W0", 0x078, 0, 1, 15, 0, .rws, (k 4096)⟩,
    ⟨"CAM_DENS_W01", "W1", 0x078, 0, 1, 31, 16, .rws, (k 0)⟩,
    ⟨"CAM_DENS_W2", "W2", 0x07C, 0, 1, 15, 0, .rws, (k 0)⟩,
    ⟨"CAM_DRAM_BASE", "MIB", 0x080, 0, 1, 19, 0, .rw, (k 0)⟩,
    ⟨"CAM_DRAM_SIZE", "MIB", 0x084, 0, 1, 19, 0, .rw, (k 0)⟩,
    ⟨"CAM_STORE_LAST", "OFS", 0x088, 0, 1, 31, 0, .ro, (k 0)⟩,
    ⟨"CAM_FRAMES_LO", "N", 0x090, 0, 1, 31, 0, .ro, (k 0)⟩,
    ⟨"CAM_FRAMES_HI", "N", 0x094, 0, 1, 31, 0, .ro, (k 0)⟩,
    ⟨"CAM_LINES_LO", "N", 0x098, 0, 1, 31, 0, .ro, (k 0)⟩,
    ⟨"CAM_LINES_HI", "N", 0x09C, 0, 1, 31, 0, .ro, (k 0)⟩,
    ⟨"CAM_SHORT", "N", 0x0A0, 0, 1, 31, 0, .ro, (k 0)⟩,
    ⟨"CAM_LONG", "N", 0x0A4, 0, 1, 31, 0, .ro, (k 0)⟩,
    ⟨"CAM_MISSED", "N", 0x0A8, 0, 1, 31, 0, .ro, (k 0)⟩,
    ⟨"CAM_UNTRIG", "N", 0x0AC, 0, 1, 31, 0, .ro, (k 0)⟩,
    ⟨"CAM_OVERFLOW", "N", 0x0B0, 0, 1, 31, 0, .ro, (k 0)⟩,
    ⟨"CAM_FRAME_ERR", "CAUSE", 0x0B4, 0, 1, 2, 0, .ro, (k 0)⟩,
    ⟨"CAM_FRAME_ERR", "COUNT", 0x0B4, 0, 1, 31, 16, .ro, (k 0)⟩,
    ⟨"CAM_QUEUE_PEAK", "KIB", 0x0B8, 0, 1, 8, 0, .ro, (k 0)⟩ ]
def camRows2 : List Row :=
  [ ⟨"CAM_TBL_ADDR", "ADDR", 0x0C0, 0, 1, 31, 0, .ro, (k 0)⟩,
    ⟨"CAM_TBL_INDEX", "ENTRY", 0x0C4, 0, 1, 13, 0, .rw, (k 0)⟩,
    ⟨"CAM_TBL_INDEX", "ACTIVE", 0x0C4, 0, 1, 16, 16, .rw, (k 0)⟩,
    ⟨"CAM_TBL_DATA", "WORD", 0x0C8, 0, 1, 31, 0, .rws, (k 0)⟩,
    ⟨"CAM_STAT_SEL", "SEL", 0x0D0, 0, 1, 2, 0, .rw, (k 0)⟩,
    ⟨"CAM_STAT_SEL", "HOLD", 0x0D0, 0, 1, 8, 8, .rw, (k 0)⟩,
    ⟨"CAM_STAT_FRAME", "N", 0x0D4, 0, 1, 31, 0, .ro, (k 0)⟩,
    ⟨"CAM_STAT_LOST", "N", 0x0D8, 0, 1, 15, 0, .ro, (k 0)⟩,
    ⟨"CAM_STAT_DATA", "DATA", 0x800, 4, 256, 31, 0, .ro, (k 0)⟩ ]
def camRows : List Row := camRows0 ++ camRows1 ++ camRows2

def blvRootRows0 : List Row :=
  [ ⟨"BLV_RUNNING", "CAMS", 0x040, 0, 1, 5, 0, .ro, (k 0)⟩,
    ⟨"BLV_RATE", "SAMPLES", 0x044, 0, 1, 31, 0, .ro, (k 0)⟩ ]
def blvRootRows : List Row := blvRootRows0

def qlpRows0 : List Row :=
  [ ⟨"UNIT_CTRL", "ENABLE", 0x00C, 0, 1, 0, 0, .rw, (k 0)⟩,
    ⟨"UNIT_STATUS", "WARMING", 0x010, 0, 1, 24, 24, .ro, (k 0)⟩,
    ⟨"QLP_CFG", "MODE", 0x040, 0, 1, 0, 0, .rw, (k 0)⟩,
    ⟨"QLP_CFG", "CROSS", 0x040, 0, 1, 11, 8, .rws, (k 8)⟩,
    ⟨"QLP_CFG", "ALONG", 0x040, 0, 1, 14, 12, .rws, (k 4)⟩,
    ⟨"QLP_CFG", "PHASE", 0x040, 0, 1, 18, 16, .rws, (k 3)⟩,
    ⟨"QLP_CFG", "KCENTER", 0x040, 0, 1, 28, 24, .rws, (k 12)⟩,
    ⟨"QLP_HEADS", "HEADS", 0x044, 0, 1, 31, 0, .rw, (k 0)⟩,
    ⟨"QLP_DELAY_LO", "PU", 0x048, 0, 1, 31, 0, .rws, (k 0)⟩,
    ⟨"QLP_DELAY_HI", "PU", 0x04C, 0, 1, 15, 0, .rws, (k 0)⟩,
    ⟨"QLP_RING", "BASE", 0x050, 0, 1, 19, 0, .rw, (k 0)⟩,
    ⟨"QLP_RING", "LOG2", 0x050, 0, 1, 27, 24, .rw, (k 13)⟩,
    ⟨"QLP_JUDGE", "WEAK", 0x054, 0, 1, 11, 0, .rw, (k 100)⟩,
    ⟨"QLP_JUDGE", "MISS", 0x054, 0, 1, 27, 16, .rw, (k 250)⟩,
    ⟨"QLP_CONFIRM", "M", 0x058, 0, 1, 7, 0, .rw, (k 3)⟩,
    ⟨"QLP_CONFIRM", "MIN_N", 0x058, 0, 1, 23, 8, .rw, (k 64)⟩,
    ⟨"QLP_AUTO", "PER_HOUR", 0x05C, 0, 1, 15, 0, .rw, (k 4)⟩,
    ⟨"QLP_AUTO_STAT", "USED", 0x060, 0, 1, 15, 0, .ro, (k 0)⟩,
    ⟨"QLP_AUTO_STAT", "APPLIED", 0x060, 0, 1, 31, 16, .ro, (k 0)⟩,
    ⟨"QLP_SEARCH", "PIX", 0x064, 0, 1, 7, 0, .rw, (k 32)⟩ ]
def qlpRows1 : List Row :=
  [ ⟨"QLP_ALIGN_STAT", "RESULT", 0x068, 0, 1, 1, 0, .ro, (k 0)⟩,
    ⟨"QLP_ALIGN_STAT", "CAM", 0x068, 0, 1, 10, 8, .ro, (k 0)⟩,
    ⟨"QLP_ALIGN_STAT", "COUNT", 0x068, 0, 1, 31, 16, .ro, (k 0)⟩,
    ⟨"QLP_PROP_COUNT", "HOST", 0x06C, 0, 1, 6, 0, .ro, (k 0)⟩,
    ⟨"QLP_PROP_COUNT", "AUTO", 0x06C, 0, 1, 12, 8, .ro, (k 0)⟩,
    ⟨"QLP_PROP_COUNT", "LOST", 0x06C, 0, 1, 31, 16, .ro, (k 0)⟩,
    ⟨"QLP_PROP_LO", "NOZZLE", 0x070, 0, 1, 17, 0, .ro, (k 0)⟩,
    ⟨"QLP_PROP_LO", "KIND", 0x070, 0, 1, 21, 20, .ro, (k 0)⟩,
    ⟨"QLP_PROP_LO", "VALID", 0x070, 0, 1, 31, 31, .ro, (k 0)⟩,
    ⟨"QLP_PROP_HI", "MEAN", 0x074, 0, 1, 15, 0, .ro, (k 0)⟩,
    ⟨"QLP_PROP_HI", "CAM", 0x074, 0, 1, 18, 16, .ro, (k 0)⟩,
    ⟨"QLP_AUTOQ_LO", "NOZZLE", 0x078, 0, 1, 17, 0, .ro, (k 0)⟩,
    ⟨"QLP_AUTOQ_LO", "KIND", 0x078, 0, 1, 21, 20, .ro, (k 0)⟩,
    ⟨"QLP_AUTOQ_LO", "VALID", 0x078, 0, 1, 31, 31, .ro, (k 0)⟩,
    ⟨"QLP_AUTOQ_HI", "MEAN", 0x07C, 0, 1, 15, 0, .ro, (k 0)⟩,
    ⟨"QLP_AUTOQ_HI", "CAM", 0x07C, 0, 1, 18, 16, .ro, (k 0)⟩,
    ⟨"QLP_CMP_LO", "N", 0x080, 0, 1, 31, 0, .ro, (k 0)⟩,
    ⟨"QLP_CMP_HI", "N", 0x084, 0, 1, 31, 0, .ro, (k 0)⟩,
    ⟨"QLP_UNCOMPARED", "N", 0x088, 0, 1, 31, 0, .ro, (k 0)⟩,
    ⟨"QLP_UNSEEN", "N", 0x08C, 0, 1, 31, 0, .ro, (k 0)⟩ ]
def qlpRows2 : List Row :=
  [ ⟨"QLP_KW", "W", 0x0A0, 4, 32, 15, 0, .rws, (k 0)⟩,
    ⟨"QLP_COVER", "C", 0x120, 4, 8, 11, 0, .rws, (fun _ _ i => 585 * i)⟩,
    ⟨"QLP_HEAD_X", "COL", 0x140, 4, 32, 17, 0, .rws, (fun _ _ i => 5120 * i)⟩,
    ⟨"QLP_CAM_OFS", "OFS", 0x1C0, 8, 6, 31, 0, .rws, (k 0)⟩,
    ⟨"QLP_CAM_SCALE", "SCALE", 0x1C4, 8, 6, 31, 0, .rws, (k 65536)⟩,
    ⟨"ARC_SRC", "CAM", 0x200, 0, 1, 2, 0, .rw, (k 0)⟩,
    ⟨"ARC_SRC", "THREE", 0x200, 0, 1, 4, 4, .rw, (k 0)⟩,
    ⟨"ARC_SRC", "T", 0x200, 0, 1, 31, 16, .rw, (k 16)⟩,
    ⟨"ARC_OFS", "OFS", 0x204, 0, 1, 31, 0, .rw, (k 0)⟩,
    ⟨"ARC_COUNT", "N", 0x208, 0, 1, 15, 0, .rw, (k 1)⟩,
    ⟨"ARC_DST_LO", "ADDR", 0x20C, 0, 1, 31, 0, .rw, (k 0)⟩,
    ⟨"ARC_DST_HI", "ADDR", 0x210, 0, 1, 31, 0, .rw, (k 0)⟩,
    ⟨"ARC_SPACE", "BYTES", 0x214, 0, 1, 31, 0, .rw, (k 0)⟩,
    ⟨"ARC_STAT", "DONE", 0x218, 0, 1, 0, 0, .w1c, (k 0)⟩,
    ⟨"ARC_STAT", "FAIL", 0x218, 0, 1, 1, 1, .w1c, (k 0)⟩,
    ⟨"ARC_STAT", "BUSY", 0x218, 0, 1, 2, 2, .ro, (k 0)⟩,
    ⟨"ARC_STAT", "REASON", 0x218, 0, 1, 7, 4, .ro, (k 0)⟩,
    ⟨"ARC_STAT", "FRAMES", 0x218, 0, 1, 31, 16, .ro, (k 0)⟩,
    ⟨"ARC_BYTES", "N", 0x21C, 0, 1, 31, 0, .ro, (k 0)⟩,
    ⟨"ARC_TILES", "N", 0x220, 0, 1, 31, 0, .ro, (k 0)⟩ ]
def qlpRows3 : List Row :=
  [ ⟨"QLP_DLUT", "E0", 0x800, 4, 512, 11, 0, .rws, (k 0)⟩,
    ⟨"QLP_DLUT", "E1", 0x800, 4, 512, 27, 16, .rws, (k 0)⟩ ]
def qlpRows : List Row := qlpRows0 ++ qlpRows1 ++ qlpRows2 ++ qlpRows3

def drcRootRows0 : List Row :=
  [ ⟨"DRC_GEOM", "X16", 0x040, 0, 1, 0, 0, .rw, (k 0)⟩,
    ⟨"DRC_GEOM", "D32", 0x040, 0, 1, 1, 1, .rw, (k 0)⟩,
    ⟨"DRC_GEOM", "RANKS2", 0x040, 0, 1, 2, 2, .rw, (k 0)⟩,
    ⟨"DRC_GEOM", "ORDER", 0x040, 0, 1, 5, 4, .rw, (k 0)⟩,
    ⟨"DRC_SIZE", "MIB", 0x044, 0, 1, 19, 0, .ro, (k 0)⟩,
    ⟨"DRC_HOST_WIN", "BASE", 0x048, 0, 1, 8, 0, .rw, (k 0)⟩,
    ⟨"DRC_PANIC", "RIB_LINES", 0x04C, 0, 1, 9, 0, .rw, (k 16)⟩,
    ⟨"DRC_PANIC", "PANIC_US", 0x04C, 0, 1, 31, 16, .rw, (k 20)⟩,
    ⟨"DRC_BULK", "MIN_PCT", 0x050, 0, 1, 6, 0, .rw, (k 10)⟩,
    ⟨"DRC_PORT_CFG", "WEIGHT", 0x060, 4, 5, 7, 0, .rw, (k 1)⟩,
    ⟨"DRC_PORT_CFG", "PAGE", 0x060, 4, 5, 9, 8, .rw, (k 0)⟩,
    ⟨"DRC_PORT_STAT", "PANIC", 0x080, 4, 5, 0, 0, .ro, (k 0)⟩,
    ⟨"DRC_PORT_STAT", "PANICS", 0x080, 4, 5, 31, 16, .ro, (k 0)⟩,
    ⟨"DRC_REQ_ERR_LO", "ADDR", 0x0A0, 0, 1, 31, 0, .ro, (k 0)⟩,
    ⟨"DRC_REQ_ERR_HI", "ADDR", 0x0A4, 0, 1, 7, 0, .ro, (k 0)⟩,
    ⟨"DRC_REQ_ERR", "N", 0x0A8, 0, 1, 31, 0, .ro, (k 0)⟩,
    ⟨"DRC_HOST_FENCE", "DONE", 0x0AC, 0, 1, 0, 0, .ro, (k 1)⟩ ]
def drcRootRows : List Row := drcRootRows0

def dramRows0 : List Row :=
  [ ⟨"UNIT_CTRL", "ENABLE", 0x00C, 0, 1, 0, 0, .rw, (k 0)⟩,
    ⟨"DRC_CH_TEMP", "TEMP", 0x040, 0, 1, 15, 0, .ro, (k 0)⟩,
    ⟨"DRC_CAL_STAT", "COUNT", 0x044, 0, 1, 15, 0, .ro, (k 0)⟩,
    ⟨"DRC_CAL_STAT", "TEMP", 0x044, 0, 1, 31, 16, .ro, (k 0)⟩,
    ⟨"DRC_CAL_TIME_LO", "NS", 0x048, 0, 1, 31, 0, .ro, (k 0)⟩,
    ⟨"DRC_CAL_TIME_HI", "WRAPS", 0x04C, 0, 1, 15, 0, .ro, (k 0)⟩,
    ⟨"DRC_SLICE", "PERIOD_MS", 0x050, 0, 1, 15, 0, .rw, (k 100)⟩,
    ⟨"DRC_SLICE", "LOAD_PCT", 0x050, 0, 1, 23, 16, .rw, (k 10)⟩,
    ⟨"DRC_SLICE_STAT", "POS", 0x054, 0, 1, 9, 0, .ro, (k 0)⟩,
    ⟨"DRC_SLICE_STAT", "SKIPPED", 0x054, 0, 1, 31, 16, .ro, (k 0)⟩,
    ⟨"DRC_SCRUB", "NS", 0x058, 0, 1, 15, 0, .rw, (k 1000)⟩,
    ⟨"DRC_SCRUB", "EN", 0x058, 0, 1, 31, 31, .rw, (k 1)⟩,
    ⟨"DRC_SCRUB_PASS", "N", 0x05C, 0, 1, 31, 0, .ro, (k 0)⟩,
    ⟨"DRC_CE", "N", 0x060, 0, 1, 31, 0, .ro, (k 0)⟩,
    ⟨"DRC_UE", "N", 0x064, 0, 1, 31, 0, .ro, (k 0)⟩,
    ⟨"DRC_ERR_ADDR_LO", "ADDR", 0x068, 0, 1, 31, 0, .ro, (k 0)⟩,
    ⟨"DRC_ERR_ADDR_HI", "ADDR", 0x06C, 0, 1, 7, 0, .ro, (k 0)⟩,
    ⟨"DRC_ERR_INFO", "UE", 0x070, 0, 1, 0, 0, .ro, (k 0)⟩,
    ⟨"DRC_ERR_INFO", "SUB", 0x070, 0, 1, 1, 1, .ro, (k 0)⟩,
    ⟨"DRC_ERR_INFO", "BEAT", 0x070, 0, 1, 5, 2, .ro, (k 0)⟩ ]
def dramRows1 : List Row :=
  [ ⟨"DRC_ERR_INFO", "BIT", 0x070, 0, 1, 11, 6, .ro, (k 0)⟩,
    ⟨"DRC_ERR_INFO", "SCRUB", 0x070, 0, 1, 16, 16, .ro, (k 0)⟩,
    ⟨"DRC_REF_STAT", "OWED", 0x074, 0, 1, 2, 0, .ro, (k 0)⟩,
    ⟨"DRC_REF_STAT", "MAX_HITS", 0x074, 0, 1, 15, 8, .ro, (k 0)⟩,
    ⟨"DRC_REF_STAT", "HOT", 0x074, 0, 1, 16, 16, .ro, (k 0)⟩,
    ⟨"DRC_BYTES_LO", "N", 0x078, 0, 1, 31, 0, .ro, (k 0)⟩,
    ⟨"DRC_BYTES_HI", "N", 0x07C, 0, 1, 31, 0, .ro, (k 0)⟩ ]
def dramRows : List Row := dramRows0 ++ dramRows1

def cpyRows0 : List Row :=
  [ ⟨"CPY_SRC_LO", "ADDR", 0x040, 0, 1, 31, 0, .rw, (k 0)⟩,
    ⟨"CPY_SRC_HI", "ADDR", 0x044, 0, 1, 7, 0, .rw, (k 0)⟩,
    ⟨"CPY_DST_LO", "ADDR", 0x048, 0, 1, 31, 0, .rw, (k 0)⟩,
    ⟨"CPY_DST_HI", "ADDR", 0x04C, 0, 1, 7, 0, .rw, (k 0)⟩,
    ⟨"CPY_SIZE", "WIDTH", 0x050, 0, 1, 15, 0, .rw, (k 0)⟩,
    ⟨"CPY_SIZE", "HEIGHT", 0x050, 0, 1, 31, 16, .rw, (k 0)⟩,
    ⟨"CPY_SRC_STRIDE", "BYTES", 0x054, 0, 1, 27, 0, .rw, (k 0)⟩,
    ⟨"CPY_DST_STRIDE", "BYTES", 0x058, 0, 1, 27, 0, .rw, (k 0)⟩,
    ⟨"CPY_CTRL", "FILL", 0x05C, 0, 1, 0, 0, .rw, (k 0)⟩,
    ⟨"CPY_FILL", "PATTERN", 0x060, 0, 1, 31, 0, .rw, (k 0)⟩,
    ⟨"CPY_STAT", "DONE", 0x064, 0, 1, 0, 0, .w1c, (k 0)⟩,
    ⟨"CPY_STAT", "POISON", 0x064, 0, 1, 1, 1, .w1c, (k 0)⟩,
    ⟨"CPY_STAT", "CANCELLED", 0x064, 0, 1, 2, 2, .w1c, (k 0)⟩,
    ⟨"CPY_STAT", "ROWS", 0x064, 0, 1, 31, 16, .ro, (k 0)⟩ ]
def cpyRows : List Row := cpyRows0

def netRootRows0 : List Row :=
  [ ⟨"NET_MAC_LO", "ADDR", 0x040, 0, 1, 31, 0, .rws, (k 0)⟩,
    ⟨"NET_MAC_HI", "ADDR", 0x044, 0, 1, 15, 0, .rws, (k 0)⟩,
    ⟨"NET_IPV4", "ADDR", 0x048, 0, 1, 31, 0, .rws, (k 0)⟩,
    ⟨"NET_IPV6", "ADDR", 0x04C, 4, 4, 31, 0, .rws, (k 0)⟩,
    ⟨"NET_VLAN", "VID", 0x05C, 0, 1, 11, 0, .rws, (k 0)⟩,
    ⟨"NET_VLAN", "TAGGED", 0x05C, 0, 1, 15, 15, .rws, (k 0)⟩,
    ⟨"NET_PATH_CFG", "PRIMARY", 0x060, 0, 1, 0, 0, .rw, (k 0)⟩,
    ⟨"NET_PATH_CFG", "AUTO_RETURN", 0x060, 0, 1, 1, 1, .rw, (k 1)⟩,
    ⟨"NET_PATH_CFG", "KEEPALIVE_US", 0x060, 0, 1, 15, 8, .rw, (k 200)⟩,
    ⟨"NET_PATH_CFG", "OVERLAP_US", 0x060, 0, 1, 31, 16, .rw, (k 1000)⟩,
    ⟨"NET_RETURN", "S", 0x064, 0, 1, 9, 0, .rw, (k 10)⟩,
    ⟨"NET_PATH_STAT", "ACTIVE", 0x068, 0, 1, 0, 0, .ro, (k 0)⟩,
    ⟨"NET_PATH_STAT", "NO_PATH", 0x068, 0, 1, 1, 1, .ro, (k 1)⟩,
    ⟨"NET_PATH_STAT", "RIP_SILENT", 0x068, 0, 1, 2, 2, .ro, (k 0)⟩,
    ⟨"NET_PATH_STAT", "OVERLAP", 0x068, 0, 1, 3, 3, .ro, (k 0)⟩,
    ⟨"NET_PATH_STAT", "WAIT_S", 0x068, 0, 1, 25, 16, .ro, (k 10)⟩,
    ⟨"NET_SWITCHES", "N", 0x06C, 0, 1, 31, 0, .ro, (k 0)⟩,
    ⟨"NET_WAKE", "EN", 0x070, 0, 1, 0, 0, .rw, (k 0)⟩,
    ⟨"NET_WAKE", "PORT", 0x070, 0, 1, 1, 1, .rw, (k 0)⟩,
    ⟨"NET_WAKE", "SEEN", 0x070, 0, 1, 8, 8, .w1c, (k 0)⟩ ]
def netRootRows1 : List Row :=
  [ ⟨"VNI_MAC_LO", "ADDR", 0x080, 0, 1, 31, 0, .rws, (k 0)⟩,
    ⟨"VNI_MAC_HI", "ADDR", 0x084, 0, 1, 15, 0, .rws, (k 0)⟩,
    ⟨"VNI_CTRL", "EN", 0x088, 0, 1, 0, 0, .rw, (k 0)⟩,
    ⟨"VNI_TX_RING_LO", "ADDR", 0x090, 0, 1, 31, 0, .rw, (k 0)⟩,
    ⟨"VNI_TX_RING_HI", "ADDR", 0x094, 0, 1, 31, 0, .rw, (k 0)⟩,
    ⟨"VNI_TX_SIZE", "N", 0x098, 0, 1, 15, 0, .rw, (k 0)⟩,
    ⟨"VNI_TX_TAIL", "TAIL", 0x09C, 0, 1, 15, 0, .rw, (k 0)⟩,
    ⟨"VNI_TX_HEAD", "HEAD", 0x0A0, 0, 1, 15, 0, .ro, (k 0)⟩,
    ⟨"VNI_RX_RING_LO", "ADDR", 0x0A4, 0, 1, 31, 0, .rw, (k 0)⟩,
    ⟨"VNI_RX_RING_HI", "ADDR", 0x0A8, 0, 1, 31, 0, .rw, (k 0)⟩,
    ⟨"VNI_RX_SIZE", "N", 0x0AC, 0, 1, 15, 0, .rw, (k 0)⟩,
    ⟨"VNI_RX_TAIL", "TAIL", 0x0B0, 0, 1, 15, 0, .rw, (k 0)⟩,
    ⟨"VNI_RX_HEAD", "HEAD", 0x0B4, 0, 1, 15, 0, .ro, (k 0)⟩,
    ⟨"VNI_DROPS", "N", 0x0B8, 0, 1, 31, 0, .ro, (k 0)⟩ ]
def netRootRows : List Row := netRootRows0 ++ netRootRows1

def netRows0 : List Row :=
  [ ⟨"UNIT_CTRL", "ENABLE", 0x00C, 0, 1, 0, 0, .rw, (k 0)⟩,
    ⟨"UNIT_STATUS", "LOS_NOW", 0x010, 0, 1, 24, 24, .ro, (k 0)⟩,
    ⟨"UNIT_STATUS", "PCS_UP", 0x010, 0, 1, 25, 25, .ro, (k 0)⟩,
    ⟨"NET_PORT_CFG", "MODE", 0x040, 0, 1, 1, 0, .rw, (k 0)⟩,
    ⟨"NET_EQ", "PRE", 0x044, 4, 4, 3, 0, .rws, (k 0)⟩,
    ⟨"NET_EQ", "POST", 0x044, 4, 4, 8, 4, .rws, (k 6)⟩,
    ⟨"NET_EQ", "SWING", 0x044, 4, 4, 13, 12, .rws, (k 2)⟩,
    ⟨"NET_EQ", "CTLE", 0x044, 4, 4, 19, 16, .rws, (k 4)⟩,
    ⟨"NET_TS_LAT", "TX_NS", 0x054, 0, 1, 15, 0, .rw, (k 0)⟩,
    ⟨"NET_TS_LAT", "RX_NS", 0x054, 0, 1, 31, 16, .rw, (k 0)⟩,
    ⟨"NET_CUT_THRU", "BYTES", 0x058, 0, 1, 15, 0, .rw, (k 2048)⟩,
    ⟨"NET_RXQ_FILL", "BYTES", 0x05C, 0, 1, 20, 0, .ro, (k 0)⟩,
    ⟨"NET_TXQ_FILL", "BYTES", 0x060, 0, 1, 12, 0, .ro, (k 0)⟩,
    ⟨"NET_RX_FRAMES_LO", "N", 0x064, 0, 1, 31, 0, .ro, (k 0)⟩,
    ⟨"NET_RX_FRAMES_HI", "N", 0x068, 0, 1, 31, 0, .ro, (k 0)⟩,
    ⟨"NET_TX_FRAMES_LO", "N", 0x06C, 0, 1, 31, 0, .ro, (k 0)⟩,
    ⟨"NET_TX_FRAMES_HI", "N", 0x070, 0, 1, 31, 0, .ro, (k 0)⟩,
    ⟨"NET_RX_ERRS", "BAD", 0x074, 0, 1, 15, 0, .ro, (k 0)⟩,
    ⟨"NET_RX_ERRS", "OTHER", 0x074, 0, 1, 31, 16, .ro, (k 0)⟩,
    ⟨"NET_RX_OVF", "N", 0x078, 0, 1, 31, 0, .ro, (k 0)⟩ ]
def netRows1 : List Row :=
  [ ⟨"NET_TX_BAD", "N", 0x07C, 0, 1, 31, 0, .ro, (k 0)⟩,
    ⟨"NET_FEC_CORR", "N", 0x080, 0, 1, 31, 0, .ro, (k 0)⟩,
    ⟨"NET_FEC_UNCORR", "N", 0x084, 0, 1, 31, 0, .ro, (k 0)⟩,
    ⟨"NET_PATH", "CAUSE", 0x088, 0, 1, 2, 0, .ro, (k 0)⟩,
    ⟨"NET_PATH", "LOSSES", 0x088, 0, 1, 31, 16, .ro, (k 0)⟩,
    ⟨"NET_LAST_RX", "US", 0x08C, 0, 1, 31, 0, .ro, (k 4294967295)⟩,
    ⟨"NET_LINK", "DOWNS", 0x090, 0, 1, 15, 0, .ro, (k 0)⟩ ]
def netRows : List Row := netRows0 ++ netRows1

def ptpRows0 : List Row :=
  [ ⟨"PTP_WRAP_STAT", "WRAP", 0x040, 0, 1, 3, 0, .w1c, (k 0)⟩,
    ⟨"PTP_WRAP_STAT", "UNWRAP", 0x040, 0, 1, 7, 4, .w1c, (k 0)⟩,
    ⟨"PTP_MAX_RES", "NS", 0x044, 0, 1, 31, 0, .rw, (k 10000000)⟩,
    ⟨"PTP_CORRECTED", "N", 0x048, 0, 1, 31, 0, .ro, (k 0)⟩,
    ⟨"PTP_CORR_SKIPS", "N", 0x04C, 0, 1, 31, 0, .ro, (k 0)⟩,
    ⟨"PTP_STAMPED", "N", 0x050, 0, 1, 31, 0, .ro, (k 0)⟩ ]
def ptpRows : List Row := ptpRows0

def tbRows0 : List Row :=
  [ ⟨"UNIT_CTRL", "ENABLE", 0x00C, 0, 1, 0, 0, .rw, (k 0)⟩,
    ⟨"UNIT_STATUS", "STALE", 0x010, 0, 1, 24, 24, .ro, (k 0)⟩,
    ⟨"TB_NS", "NS", 0x040, 0, 1, 31, 0, .ro, (k 0)⟩,
    ⟨"TB_RATE", "RATE", 0x044, 0, 1, 31, 0, .rw, (k 0)⟩,
    ⟨"TB_CFG", "DOMAIN", 0x048, 0, 1, 7, 0, .rw, (fun _ u _ => u)⟩,
    ⟨"TB_STEP", "NS", 0x04C, 0, 1, 31, 0, .rw, (k 0)⟩,
    ⟨"TB_SET", "NS", 0x050, 0, 1, 31, 0, .rw, (k 0)⟩ ]
def tbRows : List Row := tbRows0

def pcieRows0 : List Row :=
  [ ⟨"PCIE_LINK", "SPEED", 0x040, 0, 1, 2, 0, .ro, (k 0)⟩,
    ⟨"PCIE_LINK", "WIDTH", 0x040, 0, 1, 6, 4, .ro, (k 0)⟩,
    ⟨"PCIE_LINK", "UP", 0x040, 0, 1, 8, 8, .ro, (k 0)⟩,
    ⟨"PCIE_VF", "NUM_VFS", 0x044, 0, 1, 2, 0, .ro, (k 0)⟩,
    ⟨"PCIE_FLR", "COUNT", 0x048, 0, 1, 15, 0, .ro, (k 0)⟩,
    ⟨"PCIE_FLR", "LAST", 0x048, 0, 1, 18, 16, .ro, (k 0)⟩,
    ⟨"PCIE_RECOVERIES", "N", 0x04C, 0, 1, 31, 0, .ro, (k 0)⟩,
    ⟨"PCIE_CPL_TIMEOUTS", "N", 0x050, 0, 1, 31, 0, .ro, (k 0)⟩ ]
def pcieRows : List Row := pcieRows0

def axisRows0 : List Row :=
  [ ⟨"UNIT_CTRL", "ENABLE", 0x00C, 0, 1, 0, 0, .rw, (k 0)⟩,
    ⟨"UNIT_STATUS", "HOMED", 0x010, 0, 1, 24, 24, .ro, (k 0)⟩,
    ⟨"UNIT_STATUS", "RETRACTED", 0x010, 0, 1, 25, 25, .ro, (k 0)⟩,
    ⟨"UNIT_STATUS", "END", 0x010, 0, 1, 27, 26, .ro, (k 0)⟩,
    ⟨"UNIT_STATUS", "CAUSE", 0x010, 0, 1, 30, 28, .ro, (k 0)⟩,
    ⟨"MOT_CHOP", "DEAD_NS", 0x040, 0, 1, 7, 0, .rws, (k 100)⟩,
    ⟨"MOT_CHOP", "BLANK_NS", 0x040, 0, 1, 15, 8, .rws, (k 50)⟩,
    ⟨"MOT_CHOP", "FAST_NS", 0x040, 0, 1, 23, 16, .rws, (k 30)⟩,
    ⟨"MOT_CHOP", "TOFF_MIN_NS", 0x040, 0, 1, 31, 24, .rws, (k 100)⟩,
    ⟨"MOT_HYST", "HYST", 0x044, 0, 1, 11, 0, .rws, (k 100)⟩,
    ⟨"MOT_HYST", "OFS_MAX", 0x044, 0, 1, 27, 16, .rws, (k 200)⟩,
    ⟨"MOT_SHUNT", "SHUNT_MOHM", 0x048, 0, 1, 15, 0, .rws, (k 100)⟩,
    ⟨"MOT_I_HR", "I_HOLD", 0x04C, 0, 1, 15, 0, .rws, (k 300)⟩,
    ⟨"MOT_I_HR", "I_RUN", 0x04C, 0, 1, 31, 16, .rws, (k 1000)⟩,
    ⟨"MOT_I_MT", "I_MAX", 0x050, 0, 1, 15, 0, .rws, (k 1500)⟩,
    ⟨"MOT_I_MT", "I_TRIP", 0x050, 0, 1, 31, 16, .rws, (k 2500)⟩,
    ⟨"MOT_LOAD", "K_LOAD", 0x054, 0, 1, 7, 0, .rws, (k 16)⟩,
    ⟨"MOT_LOAD", "I_SLEW", 0x054, 0, 1, 23, 8, .rws, (k 500)⟩,
    ⟨"MOT_LOAD", "HOLD_MS", 0x054, 0, 1, 31, 24, .rws, (k 100)⟩,
    ⟨"MOT_STALL", "FE_LIMIT", 0x058, 0, 1, 15, 0, .rws, (k 512)⟩ ]
def axisRows1 : List Row :=
  [ ⟨"MOT_STALL", "FE_MS", 0x058, 0, 1, 31, 16, .rws, (k 20)⟩,
    ⟨"MOT_V_EST", "V", 0x05C, 0, 1, 23, 0, .rws, (k 25600)⟩,
    ⟨"MOT_TARGET", "POS", 0x060, 0, 1, 31, 0, .rw, (k 0)⟩,
    ⟨"MOT_V_START", "V", 0x064, 0, 1, 23, 0, .rw, (k 0)⟩,
    ⟨"MOT_V1", "V", 0x068, 0, 1, 23, 0, .rw, (k 0)⟩,
    ⟨"MOT_V_MAX", "V", 0x06C, 0, 1, 23, 0, .rw, (k 0)⟩,
    ⟨"MOT_V_STOP", "V", 0x070, 0, 1, 23, 0, .rw, (k 0)⟩,
    ⟨"MOT_ACC", "A1", 0x074, 0, 1, 15, 0, .rw, (k 0)⟩,
    ⟨"MOT_ACC", "A2", 0x074, 0, 1, 31, 16, .rw, (k 0)⟩,
    ⟨"MOT_DEC", "D1", 0x078, 0, 1, 15, 0, .rw, (k 0)⟩,
    ⟨"MOT_DEC", "D2", 0x078, 0, 1, 31, 16, .rw, (k 0)⟩,
    ⟨"MOT_HOME", "HOME_DIR", 0x07C, 0, 1, 0, 0, .rw, (k 0)⟩,
    ⟨"MOT_HOME", "V_HOME", 0x07C, 0, 1, 31, 8, .rw, (k 0)⟩,
    ⟨"MOT_HOME_POS", "POS", 0x080, 0, 1, 31, 0, .rw, (k 0)⟩,
    ⟨"MOT_HOME_RANGE", "N", 0x084, 0, 1, 31, 0, .rw, (k 2147483647)⟩,
    ⟨"MOT_SERVO_SP", "POS", 0x088, 0, 1, 31, 0, .rw, (k 0)⟩,
    ⟨"MOT_RET_POS", "POS", 0x08C, 0, 1, 31, 0, .rwl, (k 0)⟩,
    ⟨"MOT_RET_V", "V", 0x090, 0, 1, 23, 0, .rwl, (k 0)⟩,
    ⟨"MOT_RET_A", "A", 0x094, 0, 1, 15, 0, .rwl, (k 0)⟩,
    ⟨"MOT_POS", "POS", 0x098, 0, 1, 31, 0, .ro, (k 0)⟩ ]
def axisRows2 : List Row :=
  [ ⟨"MOT_SPEED", "V", 0x09C, 0, 1, 31, 0, .ro, (k 0)⟩,
    ⟨"MOT_FE", "FE", 0x0A0, 0, 1, 15, 0, .ro, (k 0)⟩,
    ⟨"MOT_FE", "IACT", 0x0A0, 0, 1, 31, 16, .ro, (k 0)⟩,
    ⟨"MOT_SW", "HOME", 0x0A4, 0, 1, 0, 0, .ro, (k 0)⟩,
    ⟨"MOT_SW", "LIM", 0x0A4, 0, 1, 1, 1, .ro, (k 0)⟩,
    ⟨"MOT_COUNTS", "STALLS", 0x0A8, 0, 1, 15, 0, .ro, (k 0)⟩,
    ⟨"MOT_COUNTS", "SP_LIMITED", 0x0A8, 0, 1, 31, 16, .ro, (k 0)⟩,
    ⟨"MOT_SEG", "T", 0x400, 16, 64, 31, 0, .rw, (k 0)⟩,
    ⟨"MOT_SEG", "POS", 0x404, 16, 64, 31, 0, .rw, (k 0)⟩,
    ⟨"MOT_SEG", "VEL", 0x408, 16, 64, 31, 0, .rw, (k 0)⟩,
    ⟨"MOT_USTEP", "CA", 0x800, 4, 256, 15, 0, .rws, (k 0)⟩,
    ⟨"MOT_USTEP", "CB", 0x800, 4, 256, 31, 16, .rws, (k 0)⟩ ]
def axisRows : List Row := axisRows0 ++ axisRows1 ++ axisRows2

def fntRows0 : List Row :=
  [ ⟨"UNIT_CTRL", "ENABLE", 0x00C, 0, 1, 0, 0, .rw, (k 0)⟩,
    ⟨"UNIT_STATUS", "SAT", 0x010, 0, 1, 24, 24, .ro, (k 0)⟩,
    ⟨"UNIT_STATUS", "CAUSE", 0x010, 0, 1, 26, 25, .ro, (k 0)⟩,
    ⟨"FNT_CFG", "CHANNEL", 0x040, 0, 1, 4, 0, .rw, (k 12)⟩,
    ⟨"FNT_CFG", "POL", 0x040, 0, 1, 8, 8, .rws, (k 0)⟩,
    ⟨"FNT_CFG", "PWM_KHZ", 0x040, 0, 1, 23, 16, .rw, (k 20)⟩,
    ⟨"FNT_SCALE", "ZERO", 0x044, 0, 1, 11, 0, .rws, (k 2048)⟩,
    ⟨"FNT_SCALE", "GAIN", 0x044, 0, 1, 31, 16, .rws, (k 0)⟩,
    ⟨"FNT_KP", "KP", 0x048, 0, 1, 31, 0, .rws, (k 0)⟩,
    ⟨"FNT_KI", "KI", 0x04C, 0, 1, 31, 0, .rws, (k 0)⟩,
    ⟨"FNT_KD", "KD", 0x050, 0, 1, 31, 0, .rws, (k 0)⟩,
    ⟨"FNT_OUT", "OUT_MIN", 0x054, 0, 1, 15, 0, .rws, (k 0)⟩,
    ⟨"FNT_OUT", "OUT_MAX", 0x054, 0, 1, 31, 16, .rws, (k 65535)⟩,
    ⟨"FNT_BIAS", "BIAS", 0x058, 0, 1, 15, 0, .rws, (k 0)⟩,
    ⟨"FNT_BIAS", "OUT_SAFE", 0x058, 0, 1, 31, 16, .rws, (k 0)⟩,
    ⟨"FNT_SP_TARGET", "P", 0x05C, 0, 1, 31, 0, .rws, (k 0)⟩,
    ⟨"FNT_SP_LIM", "SP_VMAX", 0x060, 0, 1, 15, 0, .rws, (k 1000)⟩,
    ⟨"FNT_SP_LIM", "SP_AMAX", 0x060, 0, 1, 31, 16, .rws, (k 1000)⟩,
    ⟨"FNT_SP_JMAX", "J", 0x064, 0, 1, 15, 0, .rws, (k 1000)⟩,
    ⟨"FNT_P_RANGE", "P_LOW", 0x068, 0, 1, 15, 0, .rws, (k 0x8000)⟩ ]
def fntRows1 : List Row :=
  [ ⟨"FNT_P_RANGE", "P_HIGH", 0x068, 0, 1, 31, 16, .rws, (k 0x7FFF)⟩,
    ⟨"FNT_DEV", "DEV_BAND", 0x06C, 0, 1, 15, 0, .rw, (k 500)⟩,
    ⟨"FNT_DEV", "DEV_MS", 0x06C, 0, 1, 31, 16, .rw, (k 50)⟩,
    ⟨"FNT_TIMES", "SENS_MS", 0x070, 0, 1, 15, 0, .rw, (k 5)⟩,
    ⟨"FNT_TIMES", "SAT_MS", 0x070, 0, 1, 31, 16, .rw, (k 1000)⟩,
    ⟨"FNT_P", "P", 0x074, 0, 1, 31, 0, .ro, (k 0)⟩,
    ⟨"FNT_SP", "P", 0x078, 0, 1, 31, 0, .ro, (k 0)⟩,
    ⟨"FNT_OUTPUT", "DUTY", 0x07C, 0, 1, 15, 0, .ro, (k 0)⟩,
    ⟨"FNT_INTEG", "I", 0x080, 0, 1, 31, 0, .ro, (k 0)⟩ ]
def fntRows : List Row := fntRows0 ++ fntRows1

def monRows0 : List Row :=
  [ ⟨"MON_CH_EN", "EN", 0x040, 0, 1, 23, 0, .rw, (k 4095)⟩,
    ⟨"MON_HOT", "HOT_C", 0x044, 0, 1, 7, 0, .rw, (k 95)⟩,
    ⟨"MON_LAST_RANGE", "CH", 0x048, 0, 1, 4, 0, .ro, (k 0)⟩,
    ⟨"MON_RESULT", "CODE", 0x100, 4, 24, 11, 0, .ro, (k 0)⟩,
    ⟨"MON_RESULT", "MEAN", 0x100, 4, 24, 27, 16, .ro, (k 0)⟩,
    ⟨"MON_RESULT", "VALID", 0x100, 4, 24, 31, 31, .ro, (k 0)⟩ ]
def monRows : List Row := monRows0

def gkpRows0 : List Row :=
  [ ⟨"GKP_EVT_MASK", "MASK", 0x040, 4, 20, 31, 0, .rw, (k 0)⟩,
    ⟨"GKP_TCM_CE", "N", 0x090, 0, 1, 31, 0, .ro, (k 0)⟩ ]
def gkpRows : List Row := gkpRows0

def wrdRows0 : List Row :=
  [ ⟨"WRD_KICK", "VALUE", 0x040, 0, 1, 15, 0, .wo, (k 0)⟩,
    ⟨"WRD_FAULT", "BOOT", 0x044, 0, 1, 0, 0, .ro, (k 1)⟩,
    ⟨"WRD_FAULT", "GKP", 0x044, 0, 1, 1, 1, .w1c, (k 0)⟩,
    ⟨"WRD_FAULT", "HELD", 0x044, 0, 1, 2, 2, .ro, (k 0)⟩,
    ⟨"WRD_FAULT", "XTAL", 0x044, 0, 1, 3, 3, .ro, (k 0)⟩,
    ⟨"WRD_FAULT", "RAIL", 0x044, 0, 1, 4, 4, .w1c, (k 0)⟩,
    ⟨"WRD_FAULT", "SOFTWARE", 0x044, 0, 1, 5, 5, .w1c, (k 0)⟩,
    ⟨"WRD_FAULT", "CHECKER", 0x044, 0, 1, 6, 6, .w1c, (k 0)⟩,
    ⟨"WRD_GKP", "RECENT", 0x048, 0, 1, 1, 0, .ro, (k 0)⟩,
    ⟨"WRD_GKP", "CAUSE", 0x048, 0, 1, 10, 8, .ro, (k 0)⟩,
    ⟨"WRD_GKP", "TOTAL", 0x048, 0, 1, 31, 16, .ro, (k 0)⟩,
    ⟨"WRD_LAST_KICK", "US10", 0x04C, 0, 1, 15, 0, .ro, (k 65535)⟩ ]
def wrdRows : List Row := wrdRows0

def bstRows0 : List Row :=
  [ ⟨"UNIT_CTRL", "ENABLE", 0x00C, 0, 1, 0, 0, .rw, (k 0)⟩,
    ⟨"BST_CFG", "SLICE_US", 0x040, 0, 1, 15, 0, .rw, (k 2000)⟩,
    ⟨"BST_CFG", "KIOSKS", 0x040, 0, 1, 16, 16, .rw, (k 1)⟩,
    ⟨"BST_CFG", "SRAM", 0x040, 0, 1, 17, 17, .rw, (k 1)⟩,
    ⟨"BST_CFG", "PORT", 0x040, 0, 1, 18, 18, .rw, (k 1)⟩,
    ⟨"BST_POS", "NEXT", 0x044, 0, 1, 12, 0, .ro, (k 0)⟩,
    ⟨"BST_POS", "DEFERRED", 0x044, 0, 1, 31, 16, .ro, (k 0)⟩,
    ⟨"BST_ROT_LAST", "MS", 0x048, 0, 1, 31, 0, .ro, (k 0)⟩,
    ⟨"BST_ROT_COUNT", "N", 0x04C, 0, 1, 31, 0, .ro, (k 0)⟩,
    ⟨"BST_FAIL", "SLICE", 0x050, 0, 1, 12, 0, .ro, (k 0)⟩,
    ⟨"BST_FAIL", "KIND", 0x050, 0, 1, 17, 16, .ro, (k 0)⟩,
    ⟨"BST_FAIL", "EXHAUSTED", 0x050, 0, 1, 24, 24, .ro, (k 0)⟩,
    ⟨"BST_REPAIRS", "SOFT", 0x054, 0, 1, 15, 0, .ro, (k 0)⟩,
    ⟨"BST_REPAIRS", "FUSED", 0x054, 0, 1, 31, 16, .ro, (k 0)⟩,
    ⟨"BST_STAT", "PAUSED", 0x058, 0, 1, 0, 0, .ro, (k 0)⟩,
    ⟨"BST_STAT", "LATE", 0x058, 0, 1, 1, 1, .ro, (k 0)⟩,
    ⟨"BST_CHECKER", "PAGE", 0x05C, 0, 1, 11, 0, .ro, (k 0)⟩,
    ⟨"BST_CHECKER", "COUNT", 0x05C, 0, 1, 31, 16, .ro, (k 0)⟩,
    ⟨"BST_SRAM_CE", "N", 0x080, 4, 9, 31, 0, .ro, (k 0)⟩ ]
def bstRows : List Row := bstRows0

def gbkRows0 : List Row :=
  [ ⟨"GBK_WRITE_SEQ", "SEQ", 0x040, 0, 1, 31, 0, .ro, (k 0)⟩,
    ⟨"GBK_READ_SEQ", "SEQ", 0x044, 0, 1, 31, 0, .rw, (k 0)⟩,
    ⟨"GBK_CFG", "THRESH", 0x048, 0, 1, 13, 0, .rw, (k 6144)⟩,
    ⟨"GBK_OVERWRITTEN", "N", 0x04C, 0, 1, 31, 0, .ro, (k 0)⟩,
    ⟨"GBK_DROPPED", "N", 0x050, 0, 1, 31, 0, .ro, (k 0)⟩,
    ⟨"GBK_WIN_SEQ", "SEQ", 0x054, 0, 1, 31, 0, .rw, (k 0)⟩,
    ⟨"GBK_WIN", "WORD", 0x060, 4, 8, 31, 0, .ro, (k 0)⟩,
    ⟨"GBK_USER_NUM", "EVENT", 0x080, 0, 1, 15, 0, .rw, (k 0)⟩,
    ⟨"GBK_USER_DET_LO", "DETAIL", 0x084, 0, 1, 31, 0, .rw, (k 0)⟩,
    ⟨"GBK_USER_DET_HI", "DETAIL", 0x088, 0, 1, 31, 0, .rw, (k 0)⟩ ]
def gbkRows : List Row := gbkRows0

def fshRows0 : List Row :=
  [ ⟨"FSH_ADDR", "ADDR", 0x040, 0, 1, 24, 0, .rw, (k 0)⟩,
    ⟨"FSH_LEN", "LEN", 0x044, 0, 1, 24, 0, .rw, (k 0)⟩,
    ⟨"FSH_BUF_LO", "ADDR", 0x048, 0, 1, 31, 0, .rw, (k 0)⟩,
    ⟨"FSH_BUF_HI", "ADDR", 0x04C, 0, 1, 7, 0, .rw, (k 0)⟩,
    ⟨"FSH_OP_STAT", "DONE", 0x050, 0, 1, 0, 0, .w1c, (k 0)⟩,
    ⟨"FSH_OP_STAT", "FAIL", 0x050, 0, 1, 1, 1, .w1c, (k 0)⟩,
    ⟨"FSH_OP_STAT", "REASON", 0x050, 0, 1, 7, 4, .ro, (k 0)⟩,
    ⟨"FSH_SLOT_STAT", "VERIFIED", 0x054, 0, 1, 3, 0, .ro, (k 0)⟩,
    ⟨"FSH_FW_STAT", "FALLBACK", 0x058, 0, 1, 0, 0, .w1c, (k 0)⟩,
    ⟨"FSH_FW_STAT", "REASON", 0x058, 0, 1, 7, 4, .ro, (k 0)⟩,
    ⟨"FSH_FW_STAT", "REQUESTED", 0x058, 0, 1, 8, 8, .ro, (k 0)⟩,
    ⟨"FSH_FW_STAT", "RESULT", 0x058, 0, 1, 11, 9, .ro, (k 0)⟩,
    ⟨"FSH_CFG_STAT", "RESULT", 0x05C, 0, 1, 2, 0, .ro, (k 0)⟩,
    ⟨"FSH_CFG_STAT", "ACTIVE", 0x05C, 0, 1, 4, 4, .ro, (k 0)⟩,
    ⟨"FSH_CFG_STAT", "SCHEMA", 0x05C, 0, 1, 31, 16, .ro, (k 0)⟩,
    ⟨"FSH_GKP_ACT", "ACT", 0x060, 0, 1, 3, 0, .wo, (k 0)⟩,
    ⟨"FSH_GKP_ACT", "CODE", 0x060, 0, 1, 11, 8, .wo, (k 0)⟩,
    ⟨"FSH_TIMING", "SECTOR_MS", 0x064, 0, 1, 15, 0, .rw, (k 400)⟩,
    ⟨"FSH_TIMING", "PAGE_US", 0x064, 0, 1, 31, 16, .rw, (k 3000)⟩,
    ⟨"FSH_SVC_REQ", "KIND", 0x068, 0, 1, 1, 0, .ro, (k 0)⟩ ]
def fshRows1 : List Row :=
  [ ⟨"FSH_SVC_REQ", "SLOT", 0x068, 0, 1, 4, 4, .ro, (k 0)⟩,
    ⟨"FSH_CAL", "COUNT", 0x080, 12, 8, 15, 0, .ro, (k 0)⟩,
    ⟨"FSH_CAL_NS", "NS", 0x084, 12, 8, 31, 0, .ro, (k 0)⟩,
    ⟨"FSH_CAL_WRAPS", "WRAPS", 0x088, 12, 8, 15, 0, .ro, (k 0)⟩ ]
def fshRows : List Row := fshRows0 ++ fshRows1

def gthRows0 : List Row :=
  [ ⟨"GTH_DEV_ID", "ID", 0x040, 4, 4, 31, 0, .ro, (k 0)⟩,
    ⟨"GTH_DEV_PUB", "KEY", 0x050, 4, 25, 31, 0, .ro, (k 0)⟩,
    ⟨"GTH_BLOB", "DATA", 0x0C0, 4, 38, 31, 0, .wo, (k 0)⟩,
    ⟨"GTH_KEY_STAT", "LOADED", 0x160, 0, 1, 7, 0, .ro, (k 0)⟩,
    ⟨"GTH_KEY_STAT", "RESULT", 0x160, 0, 1, 11, 8, .ro, (k 0)⟩,
    ⟨"GTH_PERMIT", "INJECT", 0x164, 0, 1, 0, 0, .ro, (k 0)⟩,
    ⟨"GTH_PERMIT", "SCAN", 0x164, 0, 1, 1, 1, .ro, (k 0)⟩,
    ⟨"GTH_SVN", "FLOOR", 0x168, 0, 1, 7, 0, .ro, (k 0)⟩,
    ⟨"GTH_NONCE", "NONCE", 0x170, 4, 12, 31, 0, .ro, (k 0)⟩,
    ⟨"GTH_RESP", "SIG", 0x1A0, 4, 24, 31, 0, .wo, (k 0)⟩,
    ⟨"GTH_UNLOCK_FAILS", "N", 0x200, 0, 1, 15, 0, .ro, (k 0)⟩ ]
def gthRows : List Row := gthRows0

def motRootRows0 : List Row :=
  [ ⟨"MOT_ROOT_CFG", "GANG", 0x040, 0, 1, 0, 0, .rw, (k 0)⟩,
    ⟨"MOT_ROOT_CFG", "ON_BREAK", 0x040, 0, 1, 1, 1, .rwl, (k 1)⟩,
    ⟨"MOT_ROOT_CFG", "ON_COLLAPSE", 0x040, 0, 1, 2, 2, .rwl, (k 1)⟩,
    ⟨"MOT_RETRACTS", "N", 0x044, 0, 1, 15, 0, .ro, (k 0)⟩ ]
def motRootRows : List Row := motRootRows0
/-- The block rows of a kind. -/
def rowsOf : Kind → List Row
  | .top => topRows | .gkp => gkpRows | .wrd => wrdRows | .gth => gthRows | .gbk => gbkRows
  | .pwr => pwrRows | .clk => clkRows | .bst => bstRows | .fsh => fshRows | .mon => monRows
  | .cpy => cpyRows | .sdl => sdlRows | .enc => encRows | .spd => spdRows | .trg => trgRows
  | .hsc => hscRows | .ing => ingRows | .stm => stmRows | .pav => wkRows | .ksk => wkRows
  | .trlRoot => trlRootRows | .trl => trlRows | .firRoot => firRootRows | .fir => firRows
  | .onkRoot => onkRootRows | .onk => onkRows | .blvRoot => blvRootRows | .cam => camRows
  | .qlp => qlpRows | .drcRoot => drcRootRows | .dram => dramRows | .netRoot => netRootRows
  | .net => netRows | .ptp => ptpRows | .tb => tbRows | .pcie => pcieRows
  | .motRoot => motRootRows | .axis => axisRows | .fnt => fntRows

/-- The index at which `off` falls in an array's row, or 0 for a plain register; none if elsewhere. -/
def Row.index (r : Row) (off : Nat) : Option Nat :=
  if r.stride = 0 then (if off = r.off then some 0 else none)
  else if r.off ≤ off ∧ (off - r.off) % r.stride = 0 ∧ (off - r.off) / r.stride < r.count then
    some ((off - r.off) / r.stride)
  else none

/-- The fields of the word at `off`, header and block, of a kind. -/
def fieldsAt (kd : Kind) (off : Nat) : List Row :=
  (hdrRows ++ rowsOf kd).filter (fun r => (r.index off).isSome)

/-- The state code a unit whose machine is held in its `STATUS.STATE` starts from: idle (R163, R306,
R414), CLEAN (R191), LOCKED (R415), and the Groundskeeper, in reset until GKP_START, as RESTARTING
(log 22). -/
def Kind.state0 : Kind → Nat
  | .cpy | .fsh | .gth | .ksk | .trl => 1
  | .gkp => 2
  | _ => 0

/-- The word's value at reset: each field at the reset value its table gives. -/
def resetWordOf (part : Part) (kd : Kind) (u off : Nat) : Word :=
  let w := (fieldsAt kd off).foldl
    (fun w r => putBits r.hi r.lo (r.rst part u ((r.index off).getD 0)) w) 0
  if off = 0x010 then putBits 23 16 kd.state0 w else w

/-- The word at reset of a page's offset; an absent page holds 0 (R42). -/
def resetWord (part : Part) (page off : Nat) : Word :=
  match unitOf part page with
  | none => 0
  | some (kd, u) => resetWordOf part kd u off

/-- Units that cannot be disabled: `ENABLE` reads 1 and ignores writes (R39, R72, R387, R388, R390,
R359 and the chapters). -/
def Kind.alwaysOn : Kind → Bool
  | .top | .gkp | .wrd | .gth | .gbk | .pwr | .clk | .fsh | .spd | .ing | .ksk
  | .trlRoot | .firRoot | .onkRoot | .blvRoot | .drcRoot | .netRoot
  | .pcie | .motRoot | .cpy | .mon | .ptp => true
  | _ => false

end Sys2Proof.Machine
end

