-- ==== Sys2Proof/Machine/State.lean ====
section
/-! DEFINITION. The state of the part as plain data: every register (one table of words and one of
the active copies of shadowed words), the machines behind the registers, the memories, and the queue
of waiting commands; the reasons to stop; and the state after reset. -/

namespace Sys2Proof.Machine

/-- A 48-bit position or position difference in pu (R7, R8). -/
abbrev Pos := BitVec 48

/-- A commit armed on a page (R47, R48). -/
structure Commit where
  /-- the mode 1–4 written to `UNIT_COMMIT.WHEN` -/
  mode : Nat
  /-- on a head page, the first line to which it applies (R48) -/
  line : Option Nat
  /-- the position of mode 4 -/
  pos : Option Pos
  /-- for modes 2 to 4 on other pages, the high-water mark beyond which the moment lies (R49) -/
  mark : Option Pos
  /-- that moment was reached before the marks moved or the reference channel restarted: what is left to
  wait for is a frame start (R252) -/
  reached : Bool
  /-- armed by the unit itself, such as a finished calibration (R99) -/
  own : Bool
  /-- who armed it -/
  by_ : Req
  deriving DecidableEq, Repr

/-- A folly of a page that is armed, or disarmed with its marked time running (R379, R380). -/
structure Folly where
  num : Nat
  param : Nat
  armed : Bool
  /-- when it last injected, in ns; none before its first injection -/
  lastInj : Option Nat
  /-- whether its present occasion is a window of `PARAM` (R379) -/
  window : Bool
  /-- parts of the present occasion done, where an occasion is `PARAM` of them -/
  parts : Nat
  deriving DecidableEq, Repr

/-- Where a requester's live reads stand (R44, R55): the host's and the Groundskeeper's copies. -/
structure ReqSide where
  /-- `UNIT_CMD_RESULT` of each page -/
  results : Tbl Word
  /-- the snapshot slot of each page: offsets of the stored words and their values -/
  slots : Tbl (List (Nat × Word))
  /-- `SNAP_STALE` of each page -/
  stale : Tbl Bool
  deriving DecidableEq, Repr

/-- The state of a PLL (R58, R59, R62). -/
inductive PllPhase where
  /-- stopped: with its domain, or because nothing needs it (R59) -/
  | off
  /-- a relock waits until every kiosk of its cluster has left the pool (R63) -/
  | draining
  /-- locking, its domains on the bypass clock -/
  | locking
  /-- locked, its domains not yet switched back -/
  | locked
  /-- its domains run from its output -/
  | out
  /-- not locked 1 ms after the relock began: held in bypass -/
  | held
  deriving DecidableEq, Repr

structure Pll where
  phase : PllPhase
  /-- the target it is programmed to, as `CLK_PLL_CFG.TARGET` codes it -/
  target : Nat
  /-- the target it locks to next -/
  next : Nat
  /-- a RELOCK command waits for it -/
  byCmd : Bool
  deriving DecidableEq, Repr

/-- Where a switchable domain stands in its drop or its rise (R83). -/
inductive DomPhase where
  | up
  /-- step 1 of its drop -/
  | quiescing
  /-- steps 2 and 3: its state is saved and its clamps are engaged; for MEM, self-refresh has begun -/
  | saved
  /-- steps 4 and 5: its PLLs stop and its switch opens, past the point of no return (R84); whether
  `DROP_ABORT` has been raised for a level that rose meanwhile -/
  | opening (told : Bool)
  | down
  /-- waiting for the board rails and its supply -/
  | supplying
  /-- its supply is good, its PLLs lock -/
  | locking
  deriving DecidableEq, Repr

/-- What the always-on island and its neighbours hold (R66): kept through a DEVICE-level reset. -/
structure Aon where
  vbus : Bool
  /-- each board rail's detector reports good (R418), in the order of `Rail` -/
  rails : Vector Bool 8
  railEn : Bool
  /-- levels of the safety and host balls -/
  perst : Bool
  estop : Bool
  webBreak : Bool
  pcieWakeLow : Bool
  /-- the crystal is qualified -/
  xtal : Bool
  onRc : Bool
  /-- the crystal has stopped and not qualified again (R216) -/
  xtalCut : Bool
  /-- a DEVICE-level reset has been triggered and has not taken hold -/
  rstPending : Bool
  /-- RESET_IN# is low -/
  resetLow : Bool
  /-- the reference of each PLL is present at its ball; that of PLLs 0 to 7 is the crystal (R60) -/
  refs : Vector Bool 15
  /-- the retention keepers of the DDR balls hold the DRAM in self-refresh (R23) -/
  ddrKept : Bool
  /-- comparators of the HV die tripped now (R90) -/
  compTripped : Vector Bool 4
  /-- R85 occurred; the event waits for SYS -/
  railTimeout : Bool
  /-- a wake waits for SYS to write its entry and raise `WAKE` (R91) -/
  wakePending : Bool
  deriving DecidableEq, Repr

/-- The power sequencer (R75–R91). -/
structure Pwr where
  doms : Vector DomPhase 7
  /-- the Groundskeeper's vote on SYS that still counts (R80) -/
  gkpSys : Nat
  /-- both Groundskeeper cores are halted waiting for an interrupt (R80) -/
  gkpHalted : Bool
  /-- SYS stood below level 2 when the sequencer last looked: what waits for its return has yet to happen -/
  sysLow : Bool
  /-- consecutive violations of each window (R88, R89) -/
  winCount : Vector Nat 8
  /-- an aborted MEM drop waits for its retry (R86) -/
  memRetry : Bool
  /-- domains at level 1 whose clocks run for an access (R81) -/
  ungated : Vector Bool 7
  /-- PRINT's quiesce keeps every kiosk out of the pool; the kiosks have yet to follow a change of it (R83) -/
  poolOut : Bool
  poolMove : Bool
  deriving DecidableEq, Repr

/-- Where the Groundskeeper stands (R368–R372). -/
inductive GkpPhase where
  /-- in reset until GKP_START -/
  | reset
  | running
  | restarting
  | held
  deriving DecidableEq, Repr

/-- The warden (R369–R373); kept through a DEVICE-level reset. -/
structure Warden where
  gkp : GkpPhase
  /-- the value of the last valid kick -/
  lastKick : Option Nat
  /-- when the last valid kick came, or the watch began -/
  kickAt : Nat
  /-- when the last valid kick came -/
  validAt : Option Nat
  /-- 0x3C3C was accepted: the next valid kick may take 250 ms, of either value -/
  swap : Bool
  /-- when 0x3C3C was last accepted -/
  swapAt : Option Nat
  /-- times of the restarts within the last 60 s -/
  restarts : List Nat
  /-- what the last GKP_START copied into TCM, and the entry offset at which the cores began there (R393) -/
  tcm : List Byte
  entry : Nat
  deriving DecidableEq, Repr

/-- A repair of the on-die SRAM (R376, R408): the 1 MiB bank, whether its spare is a column, and the spare's
index: one of 8 rows or of 4 columns. -/
structure Repair where
  bank : Nat
  column : Bool
  index : Nat
  deriving DecidableEq, Repr

/-- Slice BIST and repairs (R374–R378). -/
structure Bist where
  /-- the slice that is running -/
  slice : Option Nat
  /-- the slice SLICE_NOW asked for -/
  forced : Option Nat
  /-- waits of the present SRAM slice for a port in panic -/
  waits : Nat
  /-- when the rotation began -/
  rotFrom : Nat
  /-- soft repairs awaiting fuses; in the always-on island (R377) -/
  repairs : List Repair
  /-- repairs fused since manufacture (R377) -/
  fused : List Repair
  /-- a POR has lost the list, and SRAM_INIT takes it from the repair record in flash (R377, R408) -/
  lost : Bool
  /-- when the last corrected TCM error came (R387) -/
  tcmAt : Option Nat
  /-- segments in which a read found a correctable error, whose next slice moves (R376) -/
  moved : List Nat
  deriving DecidableEq, Repr

/-- One entry for the Guestbook (R384) before its number is given. -/
structure GbkEntry where
  /-- the cycle it was raised in, whose entries are written in event-number order (R383) -/
  cycle : Nat
  time : Word
  wraps : BitVec 16
  pos : Pos
  event : BitVec 16
  page : BitVec 16
  detail : BitVec 64
  flags : Byte
  source : Byte
  deriving DecidableEq, Repr

/-- An event raised while SYS is below level 2, whose entry waits (R386). -/
structure LateEvent where
  num : Nat
  page : Nat
  /-- `DETAIL` as at the raise (R385) -/
  detail : Nat
  injected : Bool
  deriving DecidableEq, Repr

/-- The Guestbook's queue and warnings (R383, R386, R390). -/
structure Gbk where
  /-- entries waiting for the writer, oldest first; at most 64 -/
  queue : List GbkEntry
  /-- event number, page, detail and `INJECTED` of each event raised while SYS is below 2 (R386) -/
  late : List LateEvent
  /-- `UNREAD_HIGH` has been raised and the difference has not fallen below half of `THRESH` -/
  high : Bool
  deriving DecidableEq, Repr

/-- Where a CALIBRATE stands (R99). -/
inductive CalPhase where
  | idle
  /-- the fit gathers its 256 lines, from the count at which it began -/
  | gathering (start : Pos)
  /-- the fit has ended; its results wait for the page's pending commit -/
  | holding (ofs gain : Word) (phi : BitVec 16)
  /-- the self-commit is armed -/
  | armed
  deriving DecidableEq, Repr

/-- One encoder input behind its page (R96–R104); its count and latch stand in its registers. -/
structure Enc where
  /-- `MODE`, `DIR` and `FILTER` as read when `ENABLE` went to 1 (R104) -/
  mode : Nat
  dir : Bool
  filter : Nat
  /-- the levels of A and B last seen -/
  a : Bool
  b : Bool
  /-- the fraction within the line last seen in sine/cosine mode; none until a first sample, or
  after coasting (R101) -/
  frac : Option (BitVec 12)
  /-- the encoder's own high-water mark (R102) -/
  hwm : Pos
  /-- a qualifying index has been latched since `ENABLE`, a source switch or `WIRE_FAULT` -/
  latched : Bool
  /-- how often `INDEX_MISSING` was raised since the last index -/
  missed : Nat
  /-- times in ns and counts of the last samples or edges, newest first (R109) -/
  pts : List (Nat × Pos)
  /-- sample time of sine/cosine mode, 50 ns a sample pair -/
  clk : Nat
  /-- the last measured speed, 16.16 pu/µs -/
  speed : Int
  /-- how far the source's position is extrapolated beyond the count (R109), or the part of a pu left
  over while the count coasts (R101), in units of 2⁻¹⁶/1000 pu -/
  ext : Int
  cal : CalPhase
  deriving DecidableEq, Repr

/-- Sundial's position and motion (R105–R115); position and mark stand in SDL's registers. -/
structure Sdl where
  /-- the alignment offset, applied corrections included -/
  ofs : Pos
  /-- SDL has been enabled since the last POR- or DEVICE-level reset -/
  once : Bool
  noSource : Bool
  reverse : Bool
  still : Bool
  /-- the source's count where standstill was declared -/
  stillAt : Pos
  /-- the last speed while in FORWARD, 16.16 pu/µs (R234) -/
  fwdSpeed : Int
  /-- the pending index correction (R102, R103), and the mark beyond which its boundary lies -/
  corr : Int
  corrMark : Pos
  /-- the check encoder's scaled count, in 2⁻²⁴ pu, aligned to the position (R106) -/
  chk : Int
  /-- each encoder is eligible for failover as the check encoder; the difference stands past the limit -/
  chkOk : Vector Bool 3
  chkOver : Bool
  /-- a check encoder has been committed and aligned -/
  chkSet : Bool
  /-- sum, number and start of the speeds of the present millisecond (SPD_SPEED_AVG) -/
  avgSum : Int
  avgN : Nat
  avgFrom : Nat
  /-- measured speeds of the judgements of R114 by their times, newest first, one where the speed changed;
  the judgement's condition now, since when it has been false, and whether the present fall was declared -/
  speeds : List (Nat × Int)
  falls : Bool
  calmFrom : Nat
  declared : Bool
  deriving DecidableEq, Repr

/-- The geometry of a schedule from one line on (R116, R120, R121). -/
structure Geo where
  frm : Nat
  /-- 48.16 -/
  pitch : Nat
  row : Pos
  pp : Nat
  trim : Int
  deriving DecidableEq, Repr

/-- The next line whose send deadline, or whose hit, has not issued (R117). -/
structure Cursor where
  line : Nat
  /-- its compare value, 48.16 modulo 2⁶⁴ -/
  cmp : BitVec 64
  /-- the compare value of the line before it -/
  prev : BitVec 64
  /-- its print page's number and its place in it -/
  num : BitVec 32
  place : Nat
  deriving DecidableEq, Repr

/-- Where a schedule that has not started stands. -/
def Cursor.zero : Cursor := { line := 0, cmp := 0, prev := 0, num := 0, place := 0 }

/-- The reference channel while the schedule it copies runs (R122): the next line whose boundary the
mark has not passed, and the last line and print-page boundaries passed. -/
structure RefChan where
  head : Nat
  cur : Cursor
  line : Option Pos
  page : Option Pos
  deriving DecidableEq, Repr

/-- One compare channel (R116–R121). -/
structure Hsc where
  running : Bool
  /-- geometries by first line, newest first -/
  geo : List Geo
  /-- the next line whose tile deadline has not issued -/
  tile : Nat
  send : Cursor
  hit : Cursor
  /-- when the last hit issued, in ns (R119) -/
  lastHit : Option Nat
  deriving DecidableEq, Repr

/-- A trigger that has not fallen on a channel yet (R125): the schedule's compare value, and whether the
pitch was doubled at it. -/
structure TrigDue where
  cmp : BitVec 64
  doubled : Bool
  deriving DecidableEq, Repr

/-- The trigger schedule (R125, R126, R129). -/
structure Trg where
  running : Bool
  cmp : BitVec 64
  /-- twice the pitch is in force -/
  halved : Bool
  /-- the triggers that each channel has yet to place, oldest first -/
  due : Vector (List TrigDue) 6
  /-- where the pulse that stands on the channel began, in steps of 250 ps -/
  pulse : Vector (Option Nat) 6
  deriving DecidableEq, Repr

/-- What follows the dots of a chunk that are being filled (R176). -/
inductive RunAfter where
  | more
  | interrupt
  | lineEnd
  deriving DecidableEq, Repr

/-- A run in progress (R176). -/
inductive RunPhase where
  | idle
  /-- in a run, the next chunk's bit not yet read -/
  | more
  | fill (left : Nat) (after : RunAfter)
  | interrupt
  deriving DecidableEq, Repr

/-- The decoder's state at a block boundary (R167). -/
structure Dec where
  line : Nat
  col : Nat
  /-- A and N of the 63 contexts (R174) -/
  ctx : List (Nat × Nat)
  rk : Nat
  bitPos : Nat
  run : RunPhase
  /-- dots the present run has filled -/
  filled : Nat
  /-- the line before and the present line so far -/
  prev : List Nat
  cur : List Nat
  deriving DecidableEq, Repr

/-- Where an accepted tile stands. -/
inductive TilePlace where
  /-- staged, not yet eligible -/
  | staged
  /-- eligible, every queue entry in use (R146) -/
  | waiting
  /-- in the queue of its head's owner -/
  | queued
  | kiosk (k : Nat)
  deriving DecidableEq, Repr

/-- A tile that passed its staging checks (R139, R166). -/
structure Tile where
  /-- staging number: earlier staged, lower -/
  id : Nat
  stream : Nat
  /-- where its first byte stands in DRAM, and the ring it wraps in -/
  addr : Nat
  ringBase : Nat
  ringSize : Nat
  len : Nat
  head : Nat
  /-- first image line, with the offset of its pass added -/
  first : Nat
  lines : Nat
  width : Nat
  cost : Nat
  /-- a loop tile by its offset in the loop area and its pass: never freed (R142) -/
  loopOfs : Option (Nat × Nat)
  place : TilePlace
  dec : Dec
  /-- cycles counted so far (R153) -/
  counted : Nat
  overran : Bool
  /-- its kiosk failed: the lines it has written are to be written again (R148) -/
  rewrite : Bool
  deriving DecidableEq, Repr

/-- A fragment that has been received and authenticated (R134, R139). -/
structure Frag where
  seq : BitVec 32
  tileId : BitVec 32
  index : Nat
  last : Bool
  keyId : Nat
  payload : List Byte
  deriving DecidableEq, Repr

/-- A hole: `count` missing sequence numbers from `first` on, when it opened and how often it was
asked for (R137). -/
structure Hole where
  first : BitVec 32
  count : Nat
  opened : Nat
  asked : Nat
  deriving DecidableEq, Repr

/-- A tile of a loop area as the first pass found it (R142). -/
structure LoopTile where
  ofs : Nat
  len : Nat
  /-- rejected on the first pass for a reason that is not judged again -/
  out : Bool
  deriving DecidableEq, Repr

/-- A job stream behind its page (R130–R162). -/
structure Stream where
  /-- `STM_CFG`, staging, ring and loop registers as read at START (R161) -/
  src : Nat
  encrypted : Bool
  base : Nat
  size : Nat
  ringAddr : BitVec 64
  ringSize : Nat
  loopAddr : Nat
  loopBytes : Nat
  loopLines : Nat
  /-- its ring DMA is fenced until RING_RESET or START (R157, R159) -/
  fenced : Bool
  /-- a fragment has been authenticated since START -/
  started : Bool
  highest : BitVec 32
  holes : List Hole
  frags : List Frag
  epoch : BitVec 32
  /-- source address and port of the last authenticated fragment -/
  peer : List Byte
  /-- datagrams staged since the last acknowledgement that 64 of them brought about -/
  sinceAck : Nat
  /-- staging bytes in use and the next free offset -/
  used : Nat
  wr : Nat
  /-- next expected line of each head -/
  expected : List (Nat × Nat)
  loop : List LoopTile
  /-- a RESET or function-level reset has completed since the last START (R158) -/
  wasReset : Bool
  /-- when it last left RUNNING (R144) -/
  leftAt : Option Nat
  deriving DecidableEq, Repr

/-- What a kiosk holds. -/
inductive Holding where
  | nothing
  | tile (id : Nat)
  /-- a verification tile of the archive compressor (R278) -/
  | verif
  deriving DecidableEq, Repr

/-- One head's ribbon: the table entry in force and the planes of the lines its ring holds
(R143, R144). -/
structure Ribbon where
  base : Nat
  lines : Nat
  width : Nat
  layers : Nat
  /-- masks of planes written by tiles, by line -/
  written : Tbl Nat
  /-- masks of planes marked blank, by line -/
  blank : Tbl Nat
  /-- masks of planes a tile is writing now, by line -/
  busy : Tbl Nat
  /-- when a plane last became done, and the masks of those that did at that time, by line (R144) -/
  freshAt : Option Nat
  fresh : Tbl Nat
  /-- per layer, the lines [from, to) whose plane a stream reset or START left blank (R157, R158) -/
  blankFrom : Vector Nat 4
  blankTo : Vector Nat 4
  deriving DecidableEq, Repr

/-- An entry of the starvation log (R154). -/
structure Starved where
  head : Nat
  planes : Nat
  num : BitVec 32
  deriving DecidableEq, Repr

/-- Ingest and the kiosk tree behind their pages. -/
structure Ingest where
  ribs : Vector Ribbon 32
  tiles : List Tile
  nextTile : Nat
  kiosks : Vector Holding 96
  /-- kiosks that wait for their tile's data from DRAM (R288) -/
  waits : List Nat
  /-- the starvation log, oldest first, at most 16 -/
  starved : List Starved
  /-- when the last `R131` drop came -/
  envAt : Option Nat
  /-- `ADMIT_EXCEEDED` may be raised again; `LOOKAHEAD_LOW` may be raised again -/
  admitArmed : Bool
  lookArmed : Bool
  deriving DecidableEq, Repr

/-- A line that Trellis has begun to map, with everything it fixed at its send deadline (R193). -/
structure Mapping where
  line : Nat
  /-- its print page's number (R121) -/
  num : BitVec 32
  /-- the four planes' dots, column by column -/
  planes : List (List Nat)
  /-- the bank it maps from -/
  bank : Bool
  merge : Word
  geom : Word
  deriving DecidableEq, Repr

/-- An access that the fabric holds while a bank is SYNCING (R192, R253, R285). -/
inductive Held where
  /-- of a table window's data word -/
  | window (r : Req) (w : Nat) (write : Option Word)
  /-- of the host window, at an offset in the shadow bank -/
  | store (r : Req) (ofs : Nat) (bytes : List Byte) (bad : Bool)
  /-- a write of the window's index, or of another of the page's words that came behind one of these (R12) -/
  | word (r : Req) (off : Nat) (v : Word)
  /-- a read of the window's index -/
  | index (r : Req)
  deriving DecidableEq, Repr

/-- One head of Trellis behind its page (R191–R193). -/
structure Trl where
  /-- the active bank -/
  bank : Bool
  maps : List Mapping
  /-- the copies of the engine disagree on the line in hand-over (R367) -/
  differs : Bool
  held : List Held
  /-- a commit took effect while the copy of the last one still waited for its lines (R191) -/
  again : Bool
  deriving DecidableEq, Repr

/-- A strobe train: high and low times in steps of 250 ps from the placed line edge (R202). -/
structure Train where
  line : Nat
  tag : Byte
  /-- the tick's edge phase and trim, in steps of 250 ps (R123) -/
  edge : Int
  /-- rise and fall of each sub-pulse -/
  pulses : List (Nat × Nat)
  deriving DecidableEq, Repr

/-- One head's firing block and watchdog behind its page (R200–R214). -/
structure Fir where
  /-- when its latest train ends, in ns -/
  trainEnd : Nat
  /-- the latest train, and the start in ns of the tick its line edge was placed in -/
  train : Option (Nat × Train)
  /-- trains that wait for the one before them (R209) -/
  deferred : List Train
  missed : Bool
  clamped : Bool
  /-- a temperature has been reported since `ENABLE`; when the last one came -/
  tValid : Bool
  tempAt : Option Nat
  /-- the rail channel whose latest sample folly 3 replaced, and the value it put in its place, in mV -/
  sample : Option (Nat × Nat)
  /-- from when and until when the generator's output is high, in steps of 250 ps: the latest train's
  pulses; folly 1 lets one of them stand (R202, R379) -/
  gen : List (Nat × Nat)
  /-- from when and until when the pad drives "fire", in steps of 250 ps, as far as R212 and R214 look back -/
  fires : List (Nat × Nat)
  /-- REARM waits for its hit (R214) -/
  rearm : Bool
  /-- pad fire time of the last bins of 1 µs, newest first, in steps of 250 ps, and when the last of them
  ended (R212) -/
  bins : List Nat
  judgedAt : Option Nat
  deriving DecidableEq, Repr

/-- A line between its send deadline and its hit (R222–R224). -/
structure Flight where
  line : Nat
  /-- levels once Trellis has handed them over -/
  levels : Option (List Nat)
  /-- its frame has gone out, and with which `SYNC` -/
  framed : Bool
  sync : Bool
  /-- when its `LINE_END` leaves the pad, in ns (R223) -/
  due : Nat
  /-- nothing of R223 has failed so far -/
  ok : Bool
  /-- a NAK arrived and no retry made it good -/
  naked : Bool
  retried : Bool
  deriving DecidableEq, Repr

/-- One Onlek lane behind its page (R222–R236). -/
structure Onk where
  /-- `LEAD` as read when `ENABLE` last went to 1 (R241) -/
  lead : Nat
  up : Bool
  flight : List Flight
  /-- until when line frames occupy the lane, in ns (R222) -/
  wire : Nat
  /-- the next line goes out with `SYNC` = 1 (R227) -/
  resync : Bool
  /-- lines whose TRAIN report is awaited, oldest first (R228) -/
  reports : List Nat
  /-- when the last status word arrived -/
  statAt : Option Nat
  /-- when the last block error, NAK or lost line came (R241) -/
  errAt : Option Nat
  /-- the READ that runs: its request number and length in 8-byte units -/
  read : Option (Byte × Nat)
  nextReq : Byte
  /-- a table's COMMIT that goes out before a line's LINE_START, or at lane up (R234, R236) -/
  commit : Option (Nat × Option Nat)
  /-- the table whose COMMIT_ACK is awaited -/
  acking : Option Nat
  /-- the last 31 bits of the checked test sequence, and of the one sent (R231) -/
  prbs : Option (BitVec 31)
  txPrbs : BitVec 31
  /-- up to when the lane's own IDLE or test blocks have gone out, in steps of 10 ps (R221, R231) -/
  txAt : Nat
  deriving DecidableEq, Repr

/-- The open head-table transaction (R234–R236). -/
structure TableTx where
  mask : Nat
  table : Nat
  atPage : Bool
  /-- heads to which the content has gone out -/
  told : List Nat
  /-- heads that have acknowledged staging with result 0 -/
  acked : List Nat
  /-- heads that still owe a COMMIT_ACK and are not late -/
  owing : List Nat
  deriving DecidableEq, Repr

/-- An alert line (R238). -/
structure Alert where
  /-- heads whose status word it waits for while it is low -/
  waits : List Nat
  /-- since when it has been high -/
  highAt : Option Nat
  deriving DecidableEq, Repr

/-- A trigger whose line has not come yet: its position, whether the pitch was doubled, when its
edge was placed (R246). -/
structure CamTrig where
  pos : Pos
  doubled : Bool
  /-- when its edge was placed, in steps of 250 ps -/
  placed : Nat
  deriving DecidableEq, Repr

/-- What becomes of the line between two edges of LVAL (R246, R248). -/
inductive LvalLine where
  /-- it took a trigger and belongs to an open frame -/
  | taken (trig : CamTrig) (frame : Nat)
  /-- untriggered, stray, or beyond `FRAME_LINES` -/
  | dropped
  deriving DecidableEq, Repr

/-- A line visible to the pipeline and not delivered yet (R258). -/
structure CamLine where
  frame : Nat
  pos : Pos
  /-- the flags of the line record (R260) -/
  flags : Nat
  /-- values before the padding -/
  valid : Nat
  samples : List Nat
  /-- samples it holds in the queue -/
  queued : Nat
  /-- indices of samples queued with a parity error after the line became visible (R258) -/
  bad : List Nat
  deriving DecidableEq, Repr

/-- A frame that is open, with what it keeps through commits (R248–R257). -/
structure CamFrame where
  num : Nat
  /-- the page's active words as its frame start found them (R252) -/
  words : Tbl Word
  bank : Bool
  taken : Nat
  delivered : Nat
  first : Option Pos
  short : Bool
  long : Bool
  flagged : Bool
  /-- the cause of its first fault, or 0 (R249) -/
  fault : Nat
  /-- a short line, a long line has been reported in it (R245) -/
  shortLine : Bool
  longLine : Bool
  /-- histogram counts by 256 × channel + bin, zone sums and counts by 64 × channel + zone (R257) -/
  hist : Tbl Nat
  sums : Tbl Nat
  counts : Tbl Nat
  /-- offset of its header in the store area, where it is stored (R260) -/
  storeAt : Option Nat
  /-- FVAL has fallen, or a clock was lost: no line joins it any more -/
  ended : Bool
  deriving DecidableEq, Repr

/-- One camera port behind its page (R244–R261). -/
structure Cam where
  /-- as read when `ENABLE` last went to 1 (R244, R260) -/
  pclkFall : Bool
  storeBase : Nat
  storeSize : Nat
  storeNext : Nat
  fval : Bool
  wait : List CamTrig
  cur : Option LvalLine
  queue : List CamLine
  /-- open frames, oldest first -/
  frames : List CamFrame
  /-- the copies of the pipeline disagree on the line being delivered (R367) -/
  differs : Bool
  nextFrame : Nat
  /-- headers not written yet: their offset and bytes -/
  headers : List (Nat × List Byte)
  /-- the held statistics: histograms, zone means -/
  heldHist : Tbl Nat
  heldZones : Tbl Nat
  /-- the active bank of its table -/
  bank : Bool
  held : List Held
  /-- a commit took effect while the copy of the last one still waited for its frames (R253) -/
  again : Bool
  deriving DecidableEq, Repr

/-- A line of a head as Trellis delivered it to the quality loop; `void` is none until its hit (R263). -/
structure QLine where
  line : Nat
  levels : List Nat
  void : Option Bool
  /-- the schedule stopped at it: the rest of its group does not fire (R120, R265) -/
  ends : Bool
  deriving DecidableEq, Repr

/-- A row of the ring: its group and generation, the heads that have written it, and by head the mask of
nozzles that fired above level 0 (R265, R270). -/
structure QRow where
  group : Nat
  gen : Nat
  heads : List Nat
  /-- the lines it was rendered from: head, line, and how many nozzles it has (R183) -/
  lines : List (Nat × Nat × Nat)
  /-- its void lines: head, and how many nozzles the line has (R263) -/
  voids : List (Nat × Nat)
  fired : List (Nat × Nat)
  compared : Bool
  deriving DecidableEq, Repr

/-- A camera line delivered to the loop: densities and valid pixels (R256). -/
structure QCamLine where
  pos : Pos
  flags : Nat
  dens : List Nat
  valid : List Bool
  deriving DecidableEq, Repr

/-- A nozzle's accumulator (R270). -/
structure QAcc where
  nozzle : Nat
  cam : Nat
  sum : Int
  n : Nat
  deriving DecidableEq, Repr

/-- A proposal (R272): 1 weak, 2 missing. -/
structure Proposal where
  nozzle : Nat
  kind : Nat
  mean : Int
  cam : Nat
  deriving DecidableEq, Repr

/-- An archive job (R276–R279). -/
structure Arc where
  cam : Nat
  planes : Nat
  t : Nat
  dst : BitVec 64
  space : Nat
  count : Nat
  /-- the camera's store area, in bytes -/
  base : Nat
  size : Nat
  /-- offset of the present frame's header, its number, its lines, values and stride -/
  hdrAt : Nat
  frame : Nat
  /-- the present frame's header as it was read (R279) -/
  hdr : List Byte
  lines : Nat
  values : Nat
  stride : Nat
  /-- the next line of each plane -/
  next : List Nat
  /-- frames encoded whole -/
  done : Nat
  /-- bytes written, and the CRC register over bytes 64 on -/
  out : Nat
  crc : Word
  /-- a tile waits for a kiosk or is with one: its bytes, and the CRC of its source samples (R278) -/
  waiting : Bool
  tile : List Byte
  sum : Word
  /-- every tile has been verified; or why the job fails -/
  ready : Bool
  failed : Nat
  deriving DecidableEq, Repr

/-- ALIGN's camera, how many lines it has gathered, and the sums of their densities by camera pixel and of
the expected densities by expected pixel (R269). -/
structure Align where
  cam : Nat
  lines : Nat
  dens : List Nat
  exp : List Int
  deriving DecidableEq, Repr

/-- The quality loop behind its page (R263–R280). -/
structure Qlp where
  /-- as read when `ENABLE` last went to 1 (R265) -/
  heads : Nat
  ring : Nat
  rows2 : Nat
  gen : Nat
  lines : Vector (List QLine) 32
  rows : List (Nat × QRow)
  /-- camera lines that wait for their row, oldest first -/
  cams : Vector (List QCamLine) 6
  /-- positions and valid pixels of the lines that have met their rows since `ENABLE` (R268) -/
  seen : Vector (List (Pos × List Bool)) 6
  accs : List QAcc
  /-- confirmation counters by global nozzle number -/
  confirm : Tbl Nat
  auto : List Proposal
  host : List Proposal
  /-- SET_OUTs counted in each of the last 60 minutes, the present one first (R272) -/
  used : List Nat
  align : Option Align
  arc : Option Arc
  deriving DecidableEq, Repr

/-- A row that an open hint leaves open, and when a request last hit it (R292). -/
structure OpenRow where
  sub : Nat
  rank : Nat
  bank : Nat
  row : Nat
  hitAt : Nat
  deriving DecidableEq, Repr

/-- A DRAM channel behind its page (R286–R298). -/
structure Chan where
  rows : List OpenRow
  /-- `DRC_GEOM` as read when `ENABLE` last went to 1 (R304) -/
  geom : Nat
  /-- when the last slice ran or was skipped (R296) -/
  sliceAt : Nat
  /-- the scrubber's next burst, counted along the channel (R295) -/
  scrub : Nat
  /-- when the last correctable error came (R293) -/
  ceAt : Option Nat
  deriving DecidableEq, Repr

/-- A copy in progress, with the operands it read (R301–R303, R306). -/
structure Copy where
  src : Nat
  dst : Nat
  width : Nat
  height : Nat
  srcStride : Nat
  dstStride : Nat
  fill : Option Word
  /-- modes written to `WHEN` of a page whose shadow bank it writes: who, page, mode (R192) -/
  whens : List (Req × Nat × Nat)
  deriving DecidableEq, Repr

/-- A request that waits at its port for the channels (R287, R291). -/
structure DramReq where
  port : Nat
  addr : Nat
  len : Nat
  write : Option (List Byte)
  poison : Bool
  errs : List BeatErr
  deriving DecidableEq, Repr

/-- A request that the arbiter served: when, for a bulk port or not, and its 64-byte units (R291). -/
structure Grant where
  time : Nat
  bulk : Bool
  units : Nat
  deriving DecidableEq, Repr

/-- Memory behind the DRC and CPY pages. -/
structure Drc where
  chans : Vector Chan 2
  /-- `PANIC_LONG` has been raised since the port last entered panic (R288) -/
  told : Vector Bool 5
  copy : Option Copy
  /-- requests that wait, in order of arrival; what the last 10 µs served, newest first (R291) -/
  queue : List DramReq
  grants : List Grant
  /-- the bulk port whose turn it is, and the deficits of the bulk ports, in 64-byte units (R291) -/
  turn : Fin 3
  deficit : Vector Nat 3
  /-- fence reads that wait for host writes the fabric holds (R290) -/
  fences : List Req
  deriving DecidableEq, Repr

/-- What a PTP time base holds beside its registers (R320–R322). -/
structure TimeBase where
  /-- the count's part of a ns, in 2⁻³² ns -/
  frac : Nat
  /-- half a 4 ns step: one Sundial tick has passed since the last one -/
  half : Bool
  wraps : BitVec 16
  deriving DecidableEq, Repr

/-- The error reporting of a function (R328). -/
structure Aer where
  uncor : Word
  uncorMask : Word
  uncorSev : Word
  cor : Word
  corMask : Word
  deriving DecidableEq, Repr

/-- Error reporting with the values PCI Express gives it at reset (PRESUMED, log 101). -/
def Aer.fresh : Aer :=
  { uncor := 0, uncorMask := 0x00400000, uncorSev := 0x00462030, cor := 0, corMask := 0x0000E000 }

/-- What the PCIe endpoint holds beside its page (R328–R334). -/
structure Pcie where
  /-- a training may end in link-up: PERST# is high (R73) -/
  training : Bool
  /-- vectors with an event that became pending and no message since (R382) -/
  due : List Nat
  /-- vectors whose mask bit is 0, by function (0 the PF, 1–4 the VFs) -/
  unmasked : List (Nat × Nat)
  /-- functions whose MSI-X Enable is 1 -/
  msixOn : List Nat
  /-- address and data of vectors, by function and vector -/
  entries : List ((Nat × Nat) × (BitVec 64 × Word))
  /-- vectors with a pending bit: signalled while masked -/
  pba : List (Nat × Nat)
  /-- functions in D3hot -/
  d3hot : List Nat
  /-- Max_Payload_Size and Max_Read_Request_Size, in bytes -/
  payload : Nat
  readReq : Nat
  /-- base addresses: whether of the VFs, which, and where -/
  bars : List ((Bool × Nat) × BitVec 64)
  /-- error reporting, by function -/
  aer : Vector Aer 5
  deriving DecidableEq, Repr

/-- The endpoint's configuration after a reset (R328; log 101). -/
def Pcie.fresh (training : Bool) : Pcie :=
  { training := training, due := [], unmasked := [], msixOn := [], entries := [], pba := [], d3hot := [],
    payload := 128, readReq := 512, bars := [],
    aer := Vector.replicate 5 Aer.fresh }

/-- A port behind its page (R307–R314, R326). -/
structure Port where
  /-- `MODE` as read when `ENABLE` last went to 1 (R332) -/
  mode : Nat
  /-- when the last valid datagram of a running stream arrived (R311) -/
  lastRx : Option Nat
  /-- when the last bad packet was found (R326) -/
  badAt : Option Nat
  /-- since when link and PCS have stayed up (R314) -/
  upAt : Option Nat
  deriving DecidableEq, Repr

/-- The virtual interface's rings as it read them (R317, R318). -/
structure Vni where
  txAddr : BitVec 64
  txSize : Nat
  rxAddr : BitVec 64
  rxSize : Nat
  /-- its DMA is fenced until it is enabled again or VNI_RESET (R330, R331) -/
  fenced : Bool
  deriving DecidableEq, Repr

/-- A return or a SWITCH that waits until the frames queued on the old port have left (R314). -/
structure RoleMove where
  /-- the port that takes the role -/
  target : Fin 2
  /-- frames still to leave on the old port -/
  left : Nat
  /-- whether `AUTO_RETURN` moves it -/
  auto : Bool
  deriving DecidableEq, Repr

/-- The paths behind the NET root (R310–R315). -/
structure Net where
  ports : Vector Port 2
  /-- streams that have received a valid datagram since their START (R311) -/
  heard : Vector Bool 4
  /-- when the active role last returned to the primary port (R314) -/
  returnedAt : Option Nat
  /-- `WAIT_S` has been doubled and has not returned (R314) -/
  doubled : Bool
  move : Option RoleMove
  vni : Vni
  deriving DecidableEq, Repr

/-- The profile registers as a motion command read them (R341, R52): speeds in µsteps/s,
accelerations in 256 µsteps/s². -/
structure Profile where
  vStart : Nat
  v1 : Nat
  vMax : Nat
  vStop : Nat
  a1 : Nat
  a2 : Nat
  d1 : Nat
  d2 : Nat
  deriving DecidableEq, Repr

/-- A homing search (R344): its direction, `V_HOME`, `HOME_POS`, `HOME_RANGE` and where it began, in
µsteps. -/
structure Homing where
  prof : Profile
  up : Bool
  v : Nat
  home : Int
  range : Nat
  start : Int
  deriving DecidableEq, Repr

/-- A segment of a table run (R342): duration in µs, end position, end velocity. -/
structure Seg where
  t : Nat
  pos : Int
  vel : Int
  deriving DecidableEq, Repr

/-- What an axis's generator does (R341–R349). -/
inductive Motion where
  | rest
  | move (p : Profile) (target : Int) (braking : Bool)
  /-- a ramp to rest that ends with `END` = `code` -/
  | stop (p : Profile) (code : Nat)
  /-- the segments left, µs into the first, and the position and velocity it began from -/
  | table (p : Profile) (segs : List Seg) (t : Nat) (pos vel : Int)
  | servo (p : Profile)
  | search (m : Homing)
  | homeStop (m : Homing)
  | homeBack (m : Homing)
  /-- the position of the released edge, in 10⁻¹² µsteps -/
  | homeEnd (m : Homing) (latch : Int)
  | retract (target : Int) (v a : Nat)
  deriving DecidableEq, Repr

/-- What a coil's chopper does (R337). -/
inductive ChopPhase where
  /-- the diagonal that pushes the current towards its target -/
  | drive
  /-- the other diagonal, since the decay began -/
  | fast
  /-- both low sides -/
  | slow
  deriving DecidableEq, Repr

/-- A coil's chopper (R336, R337). -/
structure Chop where
  phase : ChopPhase
  /-- the sign of the target for which its gates are on -/
  neg : Bool
  /-- when its gates last switched, in ns -/
  since : Nat
  /-- when each gate last went off, in ns, by its bit of R336 -/
  offAt : Vector Nat 4
  /-- when its decay began, in ns -/
  decayAt : Nat
  /-- the adapted offset, and the extreme currents of the cycle, in mA -/
  ofs : Int
  peak : Int
  valley : Int
  deriving DecidableEq, Repr

/-- A chopper that has not run. -/
def Chop.idle : Chop :=
  { phase := .slow, neg := false, since := 0, offAt := Vector.replicate 4 0, decayAt := 0, ofs := 0, peak := 0,
    valley := 0 }

/-- One axis behind its page (R335–R350). -/
structure Axis where
  /-- issued position in 10⁻¹² µsteps -/
  pos : Int
  /-- speed in 10⁻⁶ µsteps/s -/
  vel : Int
  motion : Motion
  /-- in FAULT, or on the ramp to it -/
  fault : Bool
  /-- the axis disables when it comes to rest (R346) -/
  offAtRest : Bool
  /-- at rest for `HOLD_MS`: the active current is `I_HOLD` (R340) -/
  held : Bool
  /-- active current, µA -/
  iact : Nat
  /-- following error, µsteps -/
  fe : Int
  /-- since when the current has been `I_MAX` and |fe| above `FE_LIMIT`, in ns (R340) -/
  stallAt : Option Nat
  /-- the sign of its last travel (R346) -/
  lastDir : Int
  /-- how its last move ended; 4 does not fit `END` (R347, log 108) -/
  ended : Nat
  /-- with `GANG`, this axis's position less axis 0's when the command began, in µsteps (R347) -/
  off : Int
  chopA : Chop
  chopB : Chop
  deriving DecidableEq, Repr

/-- A phase of the set-point profile (R355): jerk in 0.1 Pa per cube of a sample, samples left. -/
structure SpPhase where
  jerk : Rat
  left : Nat
  deriving DecidableEq, Repr

/-- The Fountain behind its page (R354–R357). -/
structure Fnt where
  /-- `CHANNEL` and `PWM_KHZ` as read when `ENABLE` last went to 1 (R360) -/
  chan : Nat
  khz : Nat
  integ : Int
  pLast : Int
  /-- the set-point in 0.1 Pa, with its rates per sample, and what is left of its profile -/
  sp : Rat
  spVel : Rat
  spAcc : Rat
  prof : List SpPhase
  /-- samples in a row with the input in range (R356) -/
  inRange : Nat
  /-- samples in a row within `DEV_BAND`; `DEVIATION` has been raised since -/
  devIn : Nat
  devTold : Bool
  deriving DecidableEq, Repr

/-- The monitor ADC behind its page (R352, R353). -/
structure Mon where
  /-- the last channel converted -/
  last : Nat
  /-- when each channel was last converted, and its filter, 16 times the mean -/
  convAt : Vector (Option Nat) 24
  acc : Vector (Option Nat) 24
  /-- when the condition of each event was last found -/
  badAt : Vector (Option Nat) 4
  deriving DecidableEq, Repr

/-- A stream key with its salt (R132, R410). -/
structure StreamKey where
  key : List Byte
  salt : List Byte
  deriving DecidableEq, Repr

/-- The Gatehouse behind its page (R408–R413). -/
structure Gth where
  /-- the key in slot `2 * stream + slot` -/
  keys : Vector (Option StreamKey) 8
  /-- when each slot last authenticated a fragment (R410) -/
  usedAt : Vector (Option Nat) 8
  /-- the nonce of the last CHALLENGE is valid (R411) -/
  nonce : Bool
  /-- failed unlocks in a row -/
  failed : Nat
  /-- CHALLENGE is refused after three of them -/
  locked : Bool
  /-- the fused device private key is blocked (R412) -/
  blocked : Bool
  deriving DecidableEq, Repr

/-- What the flash controller does (R397). -/
inductive FlashKind where
  | read
  | program
  | erase
  | verify (slot : Nat)
  deriving DecidableEq, Repr

/-- A flash operation with the operands it read, and the bytes done (R397). -/
structure FlashOp where
  kind : FlashKind
  addr : Nat
  len : Nat
  buf : Nat
  done : Nat
  /-- the page being programmed -/
  page : List Byte
  deriving DecidableEq, Repr

/-- Flash, update and configuration behind FSH's page (R392–R409). -/
structure Fsh where
  op : Option FlashOp
  /-- fetches held, by flash address and bytes, and since when (R399) -/
  fetches : List (Nat × Nat)
  heldAt : Nat
  /-- the firmware slot that ran before a swap -/
  prev : Nat
  /-- from the 0x3C3C kick of a swap until `SWAP_DONE` or `FW_FALLBACK` (R405) -/
  swapping : Bool
  /-- FALLBACK has reset the Groundskeeper; `FW_FALLBACK` comes at its start (R404) -/
  falling : Bool
  /-- firmware slots that have been tried since start-up began (R396) -/
  tried : List Nat
  deriving DecidableEq, Repr

/-- How the device answers a frame (R309). -/
inductive Answer where
  | arp
  | neighbour
  | echo
  deriving DecidableEq, Repr

/-- What leaves the part in one command. -/
inductive Emission where
  /-- the answer to a read -/
  | readData (r : Req) (v : Word)
  /-- bytes of the flash window that the Groundskeeper has fetched (R392, R399) -/
  | fetched (addr : Nat) (bytes : List Byte)
  /-- a DMA write to host memory -/
  | hostWrite (addr : BitVec 64) (bytes : List Byte)
  /-- an MSI-X message: function (0 the PF, 1–4 the VFs), vector, and the address and data of its entry -/
  | msix (fn v : Nat) (entry : Option (BitVec 64 × Word))
  /-- the answer to a read of the host window, with its poison tag -/
  | windowData (r : Req) (bytes : List Byte) (poison : Bool)
  /-- the answer to a read of a DRAM port, with the poison tag of each byte -/
  | dramData (port : Nat) (bytes : List Byte) (poison : List Bool)
  /-- a burst that a channel serves for a port: subchannel, rank, bank field, row, column; whether its row
  stood open, and whether it is issued with auto-precharge (R292) -/
  | burst (port ch sub rank bank row col : Nat) (write hit auto : Bool)
  /-- a frame that answers one received, with the VLAN it is tagged with (R309) -/
  | answer (port : Nat) (vlan : Option Nat) (kind : Answer) (request : List Byte)
  /-- the announcements of R312 step 3 on a port: ARP, neighbour advertisement, learning frame -/
  | announce (port : Nat) (vlan : Option Nat) (arp neighbour : Bool)
  /-- a frame of the virtual interface, and whether its FCS is inverted -/
  | frame (port : Nat) (bytes : List Byte) (badFcs : Bool)
  /-- a received frame delivered to the host buffer that the descriptor at `desc` names -/
  | vniRx (desc : BitVec 64) (bytes : List Byte)
  /-- a PCIe configuration request's completion: with Retry Status, or normal -/
  | cfgDone (retry : Bool) (data : Nat)
  /-- a UDP datagram from a port to an address and port, as the RIP's fragment named them -/
  | datagram (port : Nat) (vlan : Option Nat) (dst bytes : List Byte)
  /-- an Onlek control block of a lane with its bytes 0–7, and the data blocks that follow it -/
  | onk (h : Nat) (ctrl data : List Byte)
  /-- a data block of a lane's test sequence (R231) -/
  | onkData (h : Nat) (payload : BitVec 64)
  /-- a block that a lane sends back in far-end loopback -/
  | onkEcho (h : Nat) (hdr : BitVec 2) (payload : BitVec 64)
  /-- a strobe train at a head's pad -/
  | train (h : Nat) (t : Train)
  /-- an I²C transfer: bus, target, direction, bytes written, length -/
  | i2c (bus dev : Nat) (read : Bool) (bytes : List Byte) (len : Nat)
  /-- nine clocks and a STOP on a management bus -/
  | i2cClocks (bus : Nat)
  /-- a trigger pulse begins or ends on a camera's ball: when, in steps of 250 ps -/
  | trigger (k : Nat) (level : Bool) (at_ : Nat)
  deriving DecidableEq, Repr


/-- The whole part. -/
structure State where
  /-- which of the three parts this is (R2); no step changes it -/
  part : Part
  /-- nanoseconds since the model's start; the model's own field, log 1 -/
  now : Nat
  /-- register words by `page * 4096 + offset`; an unlisted word stands at its reset value -/
  regs : Tbl Word
  /-- the active copies of words that hold shadowed fields (R47) -/
  act : Tbl Word
  aon : Aon
  host : ReqSide
  gkpSide : ReqSide
  /-- armed commits by page -/
  commits : List (Nat × Commit)
  /-- armed or marked follies by page -/
  follies : List (Nat × Folly)
  plls : Vector Pll 15
  pwr : Pwr
  wrd : Warden
  bist : Bist
  gbk : Gbk
  enc : Vector Enc 3
  sdl : Sdl
  hsc : Vector Hsc 32
  trg : Trg
  /-- the reference channel; none while it does not run -/
  ref : Option RefChan
  stm : Vector Stream 4
  ing : Ingest
  trl : Vector Trl 32
  fir : Vector Fir 32
  /-- when each head rail sense channel was last sampled (R206) -/
  railAt : Vector (Option Nat) 4
  onk : Vector Onk 32
  tx : Option TableTx
  alerts : Vector Alert 8
  cam : Vector Cam 6
  /-- when samples were captured in the last ms, by all ports, and how many (`BLV_RATE`) -/
  blv : List (Nat × Nat)
  qlp : Qlp
  /-- DRAM from device address 0 and SRAM from 0x10_0000_0000, by byte; unlisted bytes read 0 -/
  mem : List Host.Cell
  /-- codewords that are stored poisoned, by the address of their first byte -/
  poison : List Nat
  drc : Drc
  net : Net
  tb : Vector TimeBase 4
  pcie : Pcie
  axes : Vector Axis 4
  fnt : Fnt
  mon : Mon
  /-- MECH runs from the crystal (R351) -/
  mechXtal : Bool
  gth : Gth
  fsh : Fsh
  /-- the flash outside, by byte; unlisted bytes read 0xFF, log 66 -/
  flash : List Host.Cell
  /-- `FLOOR` as RAISE_SVN last fused it, over the factory's (R413) -/
  svnFloor : Option Nat
  /-- what left the part during the last command: the model's own record, log 2 -/
  emitted : List Emission
  /-- how many free values have been drawn; the model's own field, log 3 -/
  free : Nat
  /-- the commands waiting, first in first out; the model's own field -/
  pending : List Instr
  deriving DecidableEq, Repr

/-- Reasons to stop with a fault: there are none, every command answers a next state. -/
inductive Fault where
  deriving DecidableEq, Repr

/-- Reasons to refuse a command. -/
inductive Refusal where
  /-- raised by no meaning: it names a command that has no meaning yet; safe -/
  | notModelled (mnemonic : String)
  deriving DecidableEq, Repr

/-- A part right after its power-on reset (R66, R70): stage RAILS, every register at its reset
value, nothing listed in memory, no command waiting. -/
def State.resetOf (part : Part) : State where
  part := part
  now := 0
  regs := []
  act := []
  aon := { vbus := true, rails := Vector.replicate 8 false, railEn := true, perst := false,
           estop := false, webBreak := true, pcieWakeLow := false,
           xtal := false, onRc := false, xtalCut := false, rstPending := false, resetLow := false,
           refs := Vector.replicate 15 true, ddrKept := false,
           compTripped := Vector.replicate 4 false, railTimeout := false, wakePending := false }
  host := { results := [], slots := [], stale := [] }
  gkpSide := { results := [], slots := [], stale := [] }
  commits := []
  follies := []
  plls := Vector.ofFn (fun i => { phase := .off, target := bootTarget i.val, next := bootTarget i.val,
                                   byCmd := false })
  pwr := { doms := Vector.ofFn (fun d =>
             if part.belvedere = 0 ∧ d.val = 5 then .down else .supplying),
           gkpSys := 2, gkpHalted := false, sysLow := false, winCount := Vector.replicate 8 0,
           memRetry := false,
           ungated := Vector.replicate 7 false, poolOut := false, poolMove := false }
  wrd := { gkp := .reset, lastKick := none, kickAt := 0, validAt := none, swap := false, swapAt := none,
           restarts := [], tcm := [], entry := 0 }
  bist := { slice := none, forced := none, waits := 0, rotFrom := 0, repairs := [], fused := [], lost := true,
            tcmAt := none, moved := [] }
  gbk := { queue := [], late := [], high := false }
  enc := Vector.replicate 3
    { mode := 0, dir := false, filter := 4, a := false, b := false, frac := none, hwm := 0,
      latched := false, missed := 0, pts := [], clk := 0, speed := 0, ext := 0, cal := .idle }
  sdl := { ofs := 0, once := false, noSource := false, reverse := false, still := false,
           stillAt := 0, fwdSpeed := 0, corr := 0, corrMark := 0, chk := 0,
           chkOk := Vector.replicate 3 true, chkOver := false, chkSet := false, avgSum := 0, avgN := 0,
           avgFrom := 0, speeds := [], falls := false, calmFrom := 0, declared := false }
  hsc := Vector.replicate 32
    { running := false, geo := [], tile := 0, send := Cursor.zero, hit := Cursor.zero,
      lastHit := none }
  trg := { running := false, cmp := 0, halved := false, due := Vector.replicate 6 [],
           pulse := Vector.replicate 6 none }
  ref := none
  stm := Vector.replicate 4
    { src := 0, encrypted := false, base := 0, size := 0, ringAddr := 0, ringSize := 0,
      loopAddr := 0, loopBytes := 0, loopLines := 0, fenced := false, started := false,
      highest := 0, holes := [], frags := [], epoch := 0, peer := [], sinceAck := 0,
      used := 0, wr := 0, expected := [], loop := [], wasReset := false, leftAt := none }
  ing := { ribs := Vector.ofFn (fun h =>
             { base := if h.val < part.heads then 20460 * h.val else 0,
               lines := if h.val < part.heads then 682 else 0,
               width := if h.val < part.heads then 80 else 0,
               layers := if h.val < part.heads then 1 else 0,
               written := [], blank := [], busy := [], freshAt := none, fresh := [],
               blankFrom := Vector.replicate 4 0,
               blankTo := Vector.replicate 4 0 }),
           tiles := [], nextTile := 0, kiosks := Vector.replicate 96 .nothing, waits := [], starved := [],
           envAt := none, admitArmed := true, lookArmed := true }
  trl := Vector.replicate 32 { bank := false, maps := [], differs := false, held := [],
                                again := false }
  fir := Vector.replicate 32
    { trainEnd := 0, train := none, deferred := [], missed := false, clamped := false, tValid := false,
      tempAt := none, sample := none, gen := [], fires := [], rearm := false, bins := [],
      judgedAt := none }
  railAt := Vector.replicate 4 none
  onk := Vector.replicate 32
    { lead := 2, up := false, flight := [], wire := 0, resync := true, reports := [], statAt := none,
      errAt := none, read := none, nextReq := 0, commit := none, acking := none, prbs := none,
      txPrbs := 0x7FFFFFFF, txAt := 0 }
  tx := none
  alerts := Vector.replicate 8 { waits := [], highAt := some 0 }
  cam := Vector.replicate 6
    { pclkFall := false, storeBase := 0, storeSize := 0, storeNext := 0, fval := false, wait := [],
      cur := none, queue := [], frames := [], differs := false, nextFrame := 0, headers := [],
      heldHist := [], heldZones := [], bank := false, held := [], again := false }
  blv := []
  qlp := { heads := 0, ring := 0, rows2 := 13, gen := 0, lines := Vector.replicate 32 [],
           rows := [], cams := Vector.replicate 6 [], seen := Vector.replicate 6 [], accs := [],
           confirm := [], auto := [], host := [], used := [0], align := none, arc := none }
  mem := []
  poison := []
  drc := { chans := Vector.replicate 2 { rows := [], geom := 0, sliceAt := 0, scrub := 0, ceAt := none },
           told := Vector.replicate 5 false, copy := none, queue := [], grants := [], turn := 0,
           deficit := Vector.replicate 3 0, fences := [] }
  net := { ports := Vector.replicate 2 { mode := 0, lastRx := none, badAt := none, upAt := none },
           heard := Vector.replicate 4 false, returnedAt := none, doubled := false, move := none,
           vni := { txAddr := 0, txSize := 0, rxAddr := 0, rxSize := 0, fenced := false } }
  tb := Vector.replicate 4 { frac := 0, half := false, wraps := 0 }
  pcie := Pcie.fresh false
  axes := Vector.replicate 4
    { pos := 0, vel := 0, motion := .rest, fault := false, offAtRest := false, held := true, iact := 0,
      fe := 0, stallAt := none, lastDir := 0, ended := 0, off := 0, chopA := Chop.idle, chopB := Chop.idle }
  fnt := { chan := 12, khz := 20, integ := 0, pLast := 0, sp := 0, spVel := 0, spAcc := 0, prof := [],
           inRange := 0, devIn := 0, devTold := false }
  mon := { last := 23, convAt := Vector.replicate 24 none, acc := Vector.replicate 24 none,
           badAt := Vector.replicate 4 none }
  mechXtal := true
  gth := { keys := Vector.replicate 8 none, usedAt := Vector.replicate 8 none, nonce := false,
           failed := 0, locked := false, blocked := false }
  fsh := { op := none, fetches := [], heldAt := 0, prev := 0, swapping := false,
           falling := false, tried := [] }
  flash := []
  svnFloor := none
  emitted := []
  free := 0
  pending := []

/-- The machine right after reset: the flagship part (R2), log 4. -/
def State.reset : State := State.resetOf .tq8632

end Sys2Proof.Machine
end

