-- ==== Sys2Proof/Machine/Baunino.lean ====
section
/-! DEFINITION. The Baunino tile: its header, CRC-32C, decoder and encoder (R164–R182). -/

namespace Sys2Proof.Machine

/-! ### CRC-32C (R165) -/

/-- One bit of the reflected Castagnoli polynomial. -/
def crcBit (c : Word) : Word := if c.getLsbD 0 then (c >>> 1) ^^^ 0x82F63B78 else c >>> 1

def crcByte (c : Word) (b : Byte) : Word :=
  let x := c ^^^ BitVec.zeroExtend 32 b
  crcBit (crcBit (crcBit (crcBit (crcBit (crcBit (crcBit (crcBit x)))))))

/-- CRC-32C of a string of bytes: reflected, initial value and final XOR all ones. -/
def crc32c (bs : List Byte) : Word := bs.foldl crcByte 0xFFFFFFFF ^^^ 0xFFFFFFFF

/-! ### Parameters of the two variants (R181) -/

/-- Sample depth, gradient threshold and escape limit. -/
structure Coding where
  d : Nat
  t : Nat
  limit : Nat
  deriving DecidableEq, Repr

def dotCoding : Coding := { d := 3, t := 2, limit := 4 }

def greyCoding (depth t : Nat) : Coding := { d := depth, t := t, limit := 2 * depth }

/-- Run chunk exponents (R175). -/
def runJ (rk : Nat) : Nat :=
  if rk < 16 then rk / 4 else if rk < 20 then rk / 2 - 4 else rk - 14

/-- Initial counters of every context (R174). -/
def freshCtx (c : Coding) : List (Nat × Nat) := List.replicate 63 (max 2 (2 ^ c.d / 32), 1)

/-- A decoder at the start of a tile. -/
def Dec.start (c : Coding) : Dec :=
  { line := 0, col := 0, ctx := freshCtx c, rk := 0, bitPos := 0, run := .idle, filled := 0,
    prev := [], cur := [] }

/-- The decoder at the start of a dot tile, whose bits begin after the header (R164). -/
def tileStart : Dec := { Dec.start dotCoding with bitPos := 256 }

/-- Quantise a gradient (R169). -/
def quant (t : Nat) (g : Int) : Int :=
  if g = 0 then 0
  else if g.natAbs < t then (if 0 < g then 1 else -1) else (if 0 < g then 2 else -2)

/-- Context and sign of three quantised gradients (R169). -/
def contextOf (q1 q2 q3 : Int) : Nat × Bool :=
  let neg := q1 < 0 || (q1 == 0 && (q2 < 0 || (q2 == 0 && q3 < 0)))
  let f (q : Int) : Int := if neg then -q else q
  ((25 * (f q1 + 2) + 5 * (f q2 + 2) + (f q3 + 2) - 63).toNat, neg)

/-- The median prediction (R170). -/
def predict (a b c : Nat) : Int :=
  if max a b ≤ c then (min a b : Nat) else if c ≤ min a b then (max a b : Nat)
  else (a : Int) + b - c

/-- The code value of a dot (R171). -/
def mapResidue (c : Coding) (p : Int) (neg : Bool) (v : Nat) : Nat :=
  let e0 : Int := (v : Int) - p
  let e1 := if neg then -e0 else e0
  let half : Int := 2 ^ (c.d - 1)
  let e := (e1 + half) % (2 ^ c.d) - half
  if 0 ≤ e then (2 * e).toNat else (-2 * e - 1).toNat

/-- The dot of a code value (R171). -/
def unmapResidue (c : Coding) (p : Int) (neg : Bool) (m : Nat) : Nat :=
  let e0 : Int := if m % 2 = 0 then (m / 2 : Nat) else -((m + 1) / 2 : Nat)
  let e := if neg then -e0 else e0
  ((p + e) % (2 ^ c.d)).toNat

/-- The Golomb parameter of a context (R174): from `k` upwards while `n << k` is below `a`. -/
def golombK (a n : Nat) : Nat → Nat → Nat
  | 0, k => k
  | fuel + 1, k => if n * 2 ^ k < a then golombK a n fuel (k + 1) else k

/-- A context after coding `m` (R174). -/
def adapt (an : Nat × Nat) (m : Nat) : Nat × Nat :=
  if an.2 + 1 = 32 then ((an.1 + m) / 2, 16) else (an.1 + m, an.2 + 1)

/-! ### Reading bits -/

/-- Why a bitstream does not decode further (R178). -/
inductive DecStop where
  /-- a bit at or beyond the limit was to be read -/
  | past
  /-- another rule was broken -/
  | rule
  deriving DecidableEq, Repr

/-- `n` bits from position `p`, most significant first, below `lim`. -/
def readBits (bit : Nat → Bool) (lim : Nat) : Nat → Nat → Nat → Except DecStop (Nat × Nat)
  | 0, p, acc => .ok (acc, p)
  | n + 1, p, acc =>
    if p < lim then readBits bit lim n (p + 1) (2 * acc + b2nat (bit p)) else .error .past
where
  b2nat (b : Bool) : Nat := if b then 1 else 0

/-- One-bits in a row, at most `n`: how many, and the position after them and after the zero-bit that
ends them below `n`. -/
def readOnes (bit : Nat → Bool) (lim : Nat) : Nat → Nat → Nat → Except DecStop (Nat × Nat)
  | 0, p, q => .ok (q, p)
  | n + 1, p, q =>
    if p < lim then (if bit p then readOnes bit lim n (p + 1) (q + 1) else .ok (q, p + 1))
    else .error .past

/-- A coded value (R172): `inl M` from a Golomb code, `inr v` from an escape, and the position after. -/
def readGolomb (c : Coding) (bit : Nat → Bool) (lim k p : Nat) : Except DecStop ((Nat ⊕ Nat) × Nat) :=
  match readOnes bit lim c.limit p 0 with
  | .error e => .error e
  | .ok (q, p1) =>
    if q = c.limit then (readBits bit lim c.d p1 0).map (fun r => (.inr r.1, r.2))
    else (readBits bit lim k p1 0).map (fun r => (.inl (q * 2 ^ k + r.1), r.2))

/-! ### Decoding one dot -/

/-- A dot decoded in a context: its value, the decoder after it, and its cycles (R171–R174, R177,
R179); `interrupt` codes it as a run's interruption. -/
def decodeValue (c : Coding) (bit : Nat → Bool) (lim : Nat) (s : Dec) (ctx : Nat) (p : Int)
    (neg interrupt : Bool) : Except DecStop (Nat × Dec × Nat) :=
  let an := (s.ctx[ctx]?).getD (2, 1)
  let k := golombK an.1 an.2 (c.d - 1) 0
  let top := if interrupt then 2 ^ c.d - 2 else 2 ^ c.d - 1
  let finish (v m pos cyc : Nat) : Nat × Dec × Nat :=
    (v, { s with ctx := s.ctx.set ctx (adapt an m), bitPos := pos }, cyc)
  match readGolomb c bit lim k s.bitPos with
  | .error e => .error e
  | .ok (.inl m, pos) =>
    if top < m then .error .rule
    else .ok (finish (unmapResidue c p neg (if interrupt then m + 1 else m)) m pos 1)
  | .ok (.inr v, pos) =>
    let m := mapResidue c p neg v
    if interrupt then (if m = 0 then .error .rule else .ok (finish v (m - 1) pos 2))
    else .ok (finish v m pos 2)

/-- Put a dot at the present column; `filled` counts the run's dots. -/
def Dec.put (s : Dec) (width v : Nat) (run : RunPhase) (filled : Nat) : Dec :=
  let cur := s.cur ++ [v]
  if s.col + 1 = width then
    { s with line := s.line + 1, col := 0, prev := cur, cur := [], run := .idle, filled := filled }
  else { s with col := s.col + 1, cur := cur, run := run, filled := filled }

/-- Fill one dot of a run with `a`, one cycle at the first of each group of four (R153). -/
def Dec.fillDot (s : Dec) (width a left : Nat) (after : RunAfter) : Nat × Dec × Nat :=
  let next : RunPhase :=
    if 1 < left then .fill (left - 1) after
    else match after with
      | .more => .more
      | .interrupt => .interrupt
      | .lineEnd => .idle
  (a, s.put width a next (s.filled + 1), if s.filled % 4 = 0 then 1 else 0)

/-- The interruption dot of a run (R177). -/
def Dec.interruptDot (c : Coding) (bit : Nat → Bool) (lim : Nat) (s : Dec) (width a : Nat) :
    Except DecStop (Nat × Dec × Nat) :=
  (decodeValue c bit lim s 62 a false true).map
    (fun r => (r.1, ({ r.2.1 with rk := r.2.1.rk - 1 }).put width r.1 .idle 0, r.2.2))

/-- In a run: read the next chunk's bit and fill or interrupt (R176). -/
def Dec.runDot (c : Coding) (bit : Nat → Bool) (lim : Nat) (s : Dec) (width a : Nat) :
    Except DecStop (Nat × Dec × Nat) :=
  let rem := width - s.col
  match readBits bit lim 1 s.bitPos 0 with
  | .error e => .error e
  | .ok (b, p) =>
    if b = 1 then
      let n := 2 ^ runJ s.rk
      let rk := min (s.rk + 1) 23
      if n < rem then .ok ({ s with bitPos := p, rk := rk }.fillDot width a n .more)
      else if n = rem then .ok ({ s with bitPos := p, rk := rk }.fillDot width a rem .lineEnd)
      else .ok ({ s with bitPos := p }.fillDot width a rem .lineEnd)
    else
      match readBits bit lim (runJ s.rk) p 0 with
      | .error e => .error e
      | .ok (r, p1) =>
        if rem ≤ r then .error .rule
        else if r = 0 then ({ s with bitPos := p1 }).interruptDot c bit lim width a
        else .ok ({ s with bitPos := p1 }.fillDot width a r .interrupt)

/-- Decode the dot at the present place (R168–R177): its value, the decoder after it, its cycles. -/
def decodeDot (c : Coding) (bit : Nat → Bool) (lim width : Nat) (s : Dec) :
    Except DecStop (Nat × Dec × Nat) :=
  let a := if s.col = 0 then 0 else (s.cur[s.col - 1]?).getD 0
  match s.run with
  | .fill left after => .ok (s.fillDot width a left after)
  | .interrupt => s.interruptDot c bit lim width a
  | .more => s.runDot c bit lim width a
  | .idle =>
    let b := (s.prev[s.col]?).getD 0
    let cc := if s.col = 0 then 0 else (s.prev[s.col - 1]?).getD 0
    let d := if s.col + 1 = width then 0 else (s.prev[s.col + 1]?).getD 0
    let g1 : Int := (d : Int) - b
    let g2 : Int := (b : Int) - cc
    let g3 : Int := (cc : Int) - a
    if g1 = 0 ∧ g2 = 0 ∧ g3 = 0 then ({ s with filled := 0 }).runDot c bit lim width a
    else
      let (ctx, neg) := contextOf (quant c.t g1) (quant c.t g2) (quant c.t g3)
      (decodeValue c bit lim s ctx (predict a b cc) neg false).map
        (fun r => (r.1, r.2.1.put width r.1 .idle 0, r.2.2))

/-- Decode up to `n` dots of the present line: the dots, the decoder and the cycles (R153, R167). -/
def decodeDots (c : Coding) (bit : Nat → Bool) (lim width : Nat) :
    Nat → Dec → List Nat → Nat → Except DecStop (List Nat × Dec × Nat)
  | 0, s, out, cyc => .ok (out, s, cyc)
  | n + 1, s, out, cyc =>
    match decodeDot c bit lim width s with
    | .error e => .error e
    | .ok (v, s', k) => decodeDots c bit lim width n s' (out ++ [v]) (cyc + k)

/-- Cycles of up to `n` dots of the present line, up to the first that breaks a rule (R153). -/
def spentDots (c : Coding) (bit : Nat → Bool) (lim width : Nat) : Nat → Dec → Nat → Nat
  | 0, _, cyc => cyc
  | n + 1, s, cyc =>
    match decodeDot c bit lim width s with
    | .error _ => cyc
    | .ok (_, s', k) => spentDots c bit lim width n s' (cyc + k)

/-- How many dots the block at the present place holds: to the next multiple of 256 or the line's
end (R167). -/
def blockDots (width : Nat) (s : Dec) : Nat := min (256 - s.col % 256) (width - s.col)

/-- The end of a tile is right (R178): zero pad bits to byte `LENGTH` − 2, then the terminator. -/
def tileEndOk (bit : Nat → Bool) (byteAt : Nat → Byte) (len bitPos : Nat) : Bool :=
  let stop := 8 * (len - 2)
  decide (bitPos ≤ stop) && decide (stop < bitPos + 8) &&
    (List.range (stop - bitPos)).all (fun i => !bit (bitPos + i)) &&
    byteAt (len - 2) == 0xBA && byteAt (len - 1) == 0x0E

/-- Bit `p` of a tile's bitstream counted from bit 7 of byte 0 of the tile (R164). -/
def tileBit (byteAt : Nat → Byte) (p : Nat) : Bool := (byteAt (p / 8)).getLsbD (7 - p % 8)

/-! ### Headers (R165, R166) -/

def leAt (byteAt : Nat → Byte) (i n : Nat) : Nat :=
  (List.range n).foldr (fun j acc => (byteAt (i + j)).toNat + 256 * acc) 0

/-- A tile's header. -/
structure TileHdr where
  stream : Nat
  head : Nat
  key : Nat
  lines : Nat
  first : Nat
  width : Nat
  length : Nat
  cost : Nat
  params : Nat
  deriving DecidableEq, Repr

def readHdr (byteAt : Nat → Byte) : TileHdr :=
  { stream := leAt byteAt 4 1, head := leAt byteAt 5 1, key := leAt byteAt 6 1,
    lines := leAt byteAt 7 1, first := leAt byteAt 8 6, width := leAt byteAt 14 2,
    length := leAt byteAt 16 4, cost := leAt byteAt 20 4, params := leAt byteAt 24 4 }

/-- Checks 1–4 of R166 for a dot tile of stream `st`: the reject code of the first that fails, or 0. -/
def hdrChecks (byteAt : Nat → Byte) (len st : Nat) : Nat :=
  let h := readHdr byteAt
  let crcOk := crc32c ((List.range 28).map byteAt) == BitVec.ofNat 32 (leAt byteAt 28 4)
  if len < 34 ∨ !crcOk then 1
  else if h.length ≠ len then 1
  else if 65536 < h.length then 4
  else if leAt byteAt 0 2 ≠ 0xB1A0 ∨ leAt byteAt 2 1 ≠ 1 ∨ leAt byteAt 3 1 ≠ 0 ∨ 4 ≤ h.stream ∨
      32 ≤ h.head ∨ h.lines = 0 ∨ 64 < h.lines ∨ h.width = 0 ∨ 8192 < h.width ∨ h.params ≠ 0 ∨
      h.stream ≠ st then 9
  else 0

/-! ### The encoder of the archive compressor (R171–R181) -/

/-- `n` bits of `v`, most significant first. -/
def bitsOf (n v : Nat) : List Bool := (List.range n).map (fun i => v / 2 ^ (n - 1 - i) % 2 == 1)

/-- The code of a value (R172); `v` is what an escape carries. -/
def encodeGolomb (c : Coding) (k m v : Nat) : List Bool × Nat :=
  let q := m / 2 ^ k
  if q < c.limit then (List.replicate q true ++ [false] ++ bitsOf k (m % 2 ^ k), 1)
  else (List.replicate c.limit true ++ bitsOf c.d v, 2)

/-- An encoder: bits so far, cost, contexts and run index. -/
structure Enc8 where
  bits : List Bool
  cost : Nat
  ctx : List (Nat × Nat)
  rk : Nat
  deriving DecidableEq, Repr

def Enc8.value (c : Coding) (s : Enc8) (ctx : Nat) (m v : Nat) : Enc8 :=
  let an := (s.ctx[ctx]?).getD (2, 1)
  let k := golombK an.1 an.2 (c.d - 1) 0
  let (bs, cyc) := encodeGolomb c k m v
  { s with bits := s.bits ++ bs, cost := s.cost + cyc, ctx := s.ctx.set ctx (adapt an m) }

/-- Write a run's whole chunks (R176): what is left of the run and of the line. -/
def Enc8.chunks : Nat → Enc8 → Nat → Nat → Enc8 × Nat × Nat
  | 0, s, r, rem => (s, r, rem)
  | fuel + 1, s, r, rem =>
    let n := 2 ^ runJ s.rk
    if n ≤ r ∧ 0 < r then
      Enc8.chunks fuel { s with bits := s.bits ++ [true], rk := min (s.rk + 1) 23 } (r - n) (rem - n)
    else (s, r, rem)

/-- Encode one line from column `x` on (R168–R177). -/
def encodeLine (c : Coding) (prev line : List Nat) (width : Nat) : Nat → Nat → Enc8 → Enc8
  | 0, _, s => s
  | fuel + 1, x, s =>
    if width ≤ x then s
    else
      let at' (l : List Nat) (i : Nat) : Nat := (l[i]?).getD 0
      let a := if x = 0 then 0 else at' line (x - 1)
      let b := at' prev x
      let cc := if x = 0 then 0 else at' prev (x - 1)
      let d := if x + 1 = width then 0 else at' prev (x + 1)
      let v := at' line x
      let g1 : Int := (d : Int) - b
      let g2 : Int := (b : Int) - cc
      let g3 : Int := (cc : Int) - a
      if g1 = 0 ∧ g2 = 0 ∧ g3 = 0 then
        let r := ((line.drop x).takeWhile (· == a)).length
        let cost := s.cost + (r + 3) / 4
        let (s1, left, rem) := Enc8.chunks (r + 1) { s with cost := cost } r (width - x)
        if rem = 0 then s1
        else if left = rem then { s1 with bits := s1.bits ++ [true] }
        else
          let s2 := { s1 with bits := s1.bits ++ [false] ++ bitsOf (runJ s1.rk) left }
          let w := at' line (x + r)
          let m := mapResidue c a false w
          let s3 := s2.value c 62 (m - 1) w
          encodeLine c prev line width fuel (x + r + 1) { s3 with rk := s3.rk - 1 }
      else
        let (ctx, neg) := contextOf (quant c.t g1) (quant c.t g2) (quant c.t g3)
        let p := predict a b cc
        encodeLine c prev line width fuel (x + 1) (s.value c ctx (mapResidue c p neg v) v)

/-- Encode lines in raster order. -/
def encodeLines (c : Coding) (width : Nat) : List Nat → List (List Nat) → Enc8 → Enc8
  | _, [], s => s
  | prev, l :: t, s => encodeLines c width l t (encodeLine c prev l width (width + 1) 0 s)

/-- Bits packed most significant first, padded with zeros to a whole byte (R164). -/
def packBits (bs : List Bool) : List Byte :=
  (List.range ((bs.length + 7) / 8)).map (fun i =>
    BitVec.ofNat 8 ((List.range 8).foldl
      (fun acc j => 2 * acc + (if ((bs[8 * i + j]?).getD false) then 1 else 0)) 0))

end Sys2Proof.Machine
end

