-- ==== Sys2Proof/Config.lean ====
section
/-! DEFINITION. The free values: what the spec leaves open. Each is opaque, so that nothing can be
proved of its value; one that depends on operands takes them, one that is fresh each time takes the
number of the draw. -/

namespace Sys2Proof.Config

/-- The channel skew τ_die of an encoder's converter, fused at manufacture, in ps (R98).
DESIGN CHOICE, log 31. -/
opaque tauDie : Nat → Int

/-- Whether the interpolated fraction of R98 is rounded up, by the number of the draw: the formula gives no
rounding to pu; the model limits the value to 0 or 1.  DESIGN CHOICE, log 31. -/
opaque sampleRound : Nat → Int

/-- What a completed calibration learns (R99): offsets, gains and phase.  DESIGN CHOICE, log 32. -/
opaque calOffset : Nat → Word
opaque calGain : Nat → Word
opaque calPhase : Nat → BitVec 16

/-- The reject code in the status word of a host-ring descriptor whose envelope is dropped (R132,
R141): the spec states none.  DESIGN CHOICE, log 43. -/
opaque dropCode : Nat → BitVec 4

/-- `r` of R205 for a valid sample of 0 mV, which `VMIN` = 0 admits: the division has no result.
DESIGN CHOICE, log 52: free, by `VREF`. -/
opaque railRatio : Nat → Nat

/-- The virtual interface's frames that stand in a transmit queue when its port loses its role: the `CORR` bit
of each descriptor (R312 step 2).  The spec gives the queue's size, and not how far ahead it is filled.
DESIGN CHOICE, log 102. -/
opaque txQueued : Nat → List Bool

/-- The voltage across a coil's shunt at a sample, in µV: the table has no row that brings it, and the motor
stands outside the part.  DESIGN CHOICE, log 103. -/
opaque coilSense : Nat → Int

/-- How many blocks, at most 33, a control block or a table chunk on the wire delays the LINE_START of a
line that is handed over (R222): the spec bounds the delay.  DESIGN CHOICE, log 54. -/
opaque lineDelay : Nat → Fin 34

/-- The rotor's lag, from which the following error comes (R340): the estimate from back-EMF is no
function of the state.  DESIGN CHOICE, log 68. -/
opaque rotorLag : Nat → Int

/-- Where an axis comes to rest on a ramp whose programmed deceleration is 0 (R345): the spec states
no result; µsteps.  DESIGN CHOICE, log 69. -/
opaque endlessRamp : Nat → Int

/-- The row boundary at which CANCEL finds a copy (R303), by the number of the draw: the model keeps no
time within a copy.  DESIGN CHOICE, log 80. -/
opaque copyRows : Nat → Nat

/-- A fresh word of a nonce (R411), by the number of the draw.  DESIGN CHOICE, log 34. -/
opaque nonce : Nat → Word

/-- What is fused (R394, R408, R410, R411, R413, R415): the boot-verification key and the unlock-authority
key as uncompressed points, the device's identity by word and its private key, the factory's floor of
firmware versions.  DESIGN CHOICE, log 34. -/
opaque bootKey : List Byte
opaque unlockKey : List Byte
opaque devId : Nat → Word
opaque devPriv : Nat
opaque svnFloor : Byte

/-- Whether the factory has fused a spare of a 1 MiB bank: a column or a row, by its index (R376).  DESIGN CHOICE,
log 34. -/
opaque spareFused (bank : Nat) (column : Bool) (index : Nat) : Bool

/-- What the device finds on its wires, or in the fetches under way, as a command begins that a register
write spells.  DESIGN CHOICE, log 12. -/
opaque wireBit : Nat → Bool

/-- A byte of a sector or page whose step did not end (R399): the spec states no result.
DESIGN CHOICE, log 81. -/
opaque tornByte : Nat → Byte

end Sys2Proof.Config
end

