-- ==== Sys2Proof/Machine/Ops.lean ====
section
/-! DEFINITION. The named operations over registers, memory, events and the Guestbook, that every
command's meaning is written over. -/

namespace Sys2Proof.Machine

abbrev Out := Host.Outcome State Fault Refusal

/-- A command's answer: the record of what left the part starts afresh, then the effect. -/
def run (f : State → State) (s : State) : Out := .next (f { s with emitted := [] })

/-- The effect where a condition of the State holds; the event does not come about where it fails
(log 5). -/
def State.onlyIf (s : State) (c : Bool) (f : State → State) : State := if c then f s else s

/-! ### Registers -/

def regKey (page off : Nat) : Nat := page * 4096 + off

/-- A register word as stored: a plain, latched or shadow word. -/
def State.word (s : State) (page off : Nat) : Word :=
  Tbl.get (resetWord s.part page off) (regKey page off) s.regs

def State.setWord (s : State) (page off : Nat) (w : Word) : State :=
  { s with regs := Tbl.set (resetWord s.part page off) (regKey page off) w s.regs }

/-- The active copy of a word with shadowed fields (R47). -/
def State.actWord (s : State) (page off : Nat) : Word :=
  Tbl.get (resetWord s.part page off) (regKey page off) s.act

def State.setActWord (s : State) (page off : Nat) (w : Word) : State :=
  { s with act := Tbl.set (resetWord s.part page off) (regKey page off) w s.act }

/-- Read a field. -/
def State.rd (s : State) (page : Nat) (f : Fld) : Nat := f.get (s.word page f.off)

/-- Write a field, cut to its width. -/
def State.wr (s : State) (page : Nat) (f : Fld) (v : Nat) : State :=
  s.setWord page f.off (f.put v (s.word page f.off))

/-- Read a field's active copy. -/
def State.ac (s : State) (page : Nat) (f : Fld) : Nat := f.get (s.actWord page f.off)

/-- Write a field's active copy. -/
def State.wrAc (s : State) (page : Nat) (f : Fld) (v : Nat) : State :=
  s.setActWord page f.off (f.put v (s.actWord page f.off))

def State.bit (s : State) (page : Nat) (f : Fld) : Bool := decide (s.rd page f ≠ 0)

def b2n (b : Bool) : Nat := if b then 1 else 0

def State.wrBit (s : State) (page : Nat) (f : Fld) (b : Bool) : State := s.wr page f (b2n b)

/-- A value of two words, low and high. -/
def State.rd2 (s : State) (page : Nat) (lo hi : Fld) : Nat :=
  s.rd page lo + 2 ^ lo.width * s.rd page hi

def State.wr2 (s : State) (page : Nat) (lo hi : Fld) (v : Nat) : State :=
  (s.wr page lo v).wr page hi (v / 2 ^ lo.width)

def State.ac2 (s : State) (page : Nat) (lo hi : Fld) : Nat :=
  s.ac page lo + 2 ^ lo.width * s.ac page hi

/-- Count one, wrapping at the field's width. -/
def State.inc (s : State) (page : Nat) (f : Fld) : State := s.wr page f (s.rd page f + 1)

/-- Count `n`, saturating at the field's largest value. -/
def State.addSat (s : State) (page : Nat) (f : Fld) (n : Nat) : State :=
  s.wr page f (min (s.rd page f + n) (2 ^ f.width - 1))

def State.incSat (s : State) (page : Nat) (f : Fld) : State := s.addSat page f 1

/-- Count `n` in a value of two words, wrapping. -/
def State.add2 (s : State) (page : Nat) (lo hi : Fld) (n : Nat) : State :=
  s.wr2 page lo hi (s.rd2 page lo hi + n)

/-- A field's value as a two's-complement number of `w` bits. -/
def sint (w v : Nat) : Int := if v < 2 ^ (w - 1) then (v : Int) else (v : Int) - 2 ^ w

/-- A number as a two's-complement field of `w` bits. -/
def unsint (w : Nat) (v : Int) : Nat := (v % (2 ^ w : Int)).toNat

/-- A number limited to `w` signed bits. -/
def satInt (w : Nat) (v : Int) : Int := max (-(2 ^ (w - 1) : Int)) (min v (2 ^ (w - 1) - 1))

/-- A field read as a signed number of its width. -/
def State.rdS (s : State) (page : Nat) (f : Fld) : Int := sint f.width (s.rd page f)

def State.acS (s : State) (page : Nat) (f : Fld) : Int := sint f.width (s.ac page f)

def State.wrS (s : State) (page : Nat) (f : Fld) (v : Int) : State :=
  s.wr page f (unsint f.width v)

def State.emit (s : State) (e : Emission) : State := { s with emitted := s.emitted ++ [e] }

/-- Draw the number of a fresh free value (log 3). -/
def State.draw (s : State) : State := { s with free := s.free + 1 }

/-! ### Positions (R8) -/

/-- How far `p` lies ahead of `q`, signed. -/
def posDiff (p q : Pos) : Int := (p - q).toInt

def ahead (p q : Pos) : Bool := decide (0 < posDiff p q)

def State.pos (s : State) : Pos := BitVec.ofNat 48 (s.rd2 pgSDL SDL_POS_LO_POS SDL_POS_HI_POS)

def State.setPos (s : State) (p : Pos) : State := s.wr2 pgSDL SDL_POS_LO_POS SDL_POS_HI_POS p.toNat

def State.hwm (s : State) : Pos := BitVec.ofNat 48 (s.rd2 pgSDL SDL_HWM_LO_POS SDL_HWM_HI_POS)

def State.setHwm (s : State) (p : Pos) : State := s.wr2 pgSDL SDL_HWM_LO_POS SDL_HWM_HI_POS p.toNat

/-! ### Units, domains and what a requester reaches -/

def State.unit (s : State) (page : Nat) : Option (Kind × Nat) := unitOf s.part page

def State.kind (s : State) (page : Nat) : Option Kind := kindOf s.part page

def State.has (s : State) (page : Nat) : Bool := (unitOf s.part page).isSome

/-- `UNIT_CTRL.ENABLE`; a unit that cannot be disabled reads 1 (R39). -/
def State.enabled (s : State) (page : Nat) : Bool :=
  match s.kind page with
  | none => false
  | some k => k.alwaysOn || s.bit page UNIT_CTRL_ENABLE

def State.stage (s : State) : Nat := s.rd pgTOP TOP_BOOT_STAGE

/-- `TOP_BOOT.STAGE` reads READY. -/
def State.ready (s : State) : Bool := decide (s.stage = 7)

/-- A vote field of 3 acts as 2 (R76). -/
def voteOf (levels d : Nat) : Nat := min (levels / 4 ^ d % 4) 2

def Part.hasDom (p : Part) (d : Nat) : Bool := !(p.belvedere == 0 && d == 5)

/-- The level that one client's vote asks of a domain (R76, R80); clients 2–6 are hardware. -/
def State.vote (s : State) (client d : Nat) : Nat :=
  let on (b : Bool) (dom lv : Nat) : Nat := if b && d == dom then lv else 0
  match client with
  | 0 => voteOf (s.rd pgPWR (PWR_VOTE_LEVEL 0)) d
  | 1 =>
    let v := voteOf (s.rd pgPWR (PWR_VOTE_LEVEL 1)) d
    if d = 0 ∧ !s.pwr.gkpHalted then max v s.pwr.gkpSys else v
  | 2 => on (s.bit pgFNT UNIT_CTRL_ENABLE) 6 2
  | 3 => on ((List.range s.part.axes).any (fun a => s.bit (pgAXIS a) UNIT_CTRL_ENABLE)) 6 2
  | 4 =>
    if s.bit (pgNET 0) UNIT_CTRL_ENABLE || s.bit (pgNET 1) UNIT_CTRL_ENABLE then on true 3 2
    else on (s.bit pgNETroot NET_WAKE_EN) 3 1
  | 5 => on ((List.range s.part.cams).any (fun k => s.bit (pgCAM k) UNIT_CTRL_ENABLE)) 5 2
  | 6 => on (s.bit pgSDL UNIT_CTRL_ENABLE) 4 2
  | _ => 0

/-- The requested level: the highest of the seven votes (R76). -/
def State.requested (s : State) (d : Nat) : Nat :=
  if s.part.hasDom d then (List.range 7).foldl (fun m c => max m (s.vote c d)) 0 else 0

/-- The effective level (R77). -/
def State.eff (s : State) (d : Nat) : Nat :=
  let netRun := if s.requested 3 = 2 then 2 else 0
  let host := max (s.requested 1) (if s.aon.perst then 2 else 0)
  match d with
  | 0 => max (s.requested 0) (max host (max (s.requested 4) (max (s.requested 5) netRun)))
  | 1 => host
  | 2 => max (s.requested 2) (max (s.requested 4) (max (s.requested 5) netRun))
  | _ => s.requested d

/-- The level a domain stands at: its effective level while it is powered, else 0.  A page of a domain that
still rises answers as one at level 0 does (R82; DESIGN CHOICE, log 106). -/
def State.level (s : State) (d : Fin 7) : Nat :=
  if s.pwr.doms.get d = .up then s.eff d.val else 0

def State.levelOf (s : State) (d : Dom) : Nat := s.level d.num

/-- The level of the domain that powers a page; an absent page has none. -/
def State.pageLevel (s : State) (page : Nat) : Nat :=
  match s.kind page with
  | none => 0
  | some k => s.levelOf k.domain

/-- R85: the board rails did not come up, and every domain stays at 0 until the next wake source. -/
def State.railsOut (s : State) : Bool := s.aon.railTimeout && !s.aon.railEn

/-- The listening port of R327, where no port is enabled. -/
def State.listening (s : State) (p : Nat) : Bool :=
  s.bit pgNETroot NET_WAKE_EN && !s.bit (pgNET 0) UNIT_CTRL_ENABLE &&
    !s.bit (pgNET 1) UNIT_CTRL_ENABLE && s.rd pgNETroot NET_WAKE_PORT == p

/-- What the part calls its state (R78): 0 Off, 1 Run, 2 Hold, 3 Retain, 4 Patrol. -/
def State.powerState (s : State) : Nat :=
  let lv := (List.range 7).map s.eff
  let hears := s.listening 0 || s.listening 1
  if !s.aon.vbus then 0
  else if s.railsOut then (if s.bit pgPWR PWR_PATROL_CTRL_ENABLE then 4 else 3)
  else if lv.any (· == 2) then 1
  else if (List.range 7).any (fun d => s.eff d == 1 && !(d == 3 && hears)) then 2
  else if s.bit pgPWR PWR_PATROL_CTRL_ENABLE then 4 else 3

/-- No client needs any domain but a listening NET: Retain or Patrol (R78). -/
def State.asleep (s : State) : Bool := decide (3 ≤ s.powerState)

/-- A domain's clocks run: at level 2, and while it finishes its work before a drop (R75, R83). -/
def State.runs (s : State) (d : Dom) : Bool := s.levelOf d == 2 || s.pwr.doms.get d.num == .quiescing

def State.printRuns (s : State) : Bool := s.runs .print

def State.camRuns (s : State) : Bool := s.runs .cam

/-- A domain is isolated: its clamps are engaged, and what leaves it reads 0 (R83, R87). -/
def State.isolated (s : State) (d : Dom) : Bool :=
  let p := s.pwr.doms.get d.num
  p != .up && p != .quiescing

/-- A domain is on and not in reset: its balls are live (R21).  A reset takes hold of them with
DEVICE_RESET_HOLD and not before (R68). -/
def State.padsOn (s : State) (d : Dom) : Bool := s.aon.vbus && !s.isolated d

/-- Whether the requester can reach the register window: the host from GKP_START on and at FAILED
(R73), the Groundskeeper while its cores run; with SYS isolated no request leaves the fabric, and with HOST
isolated none of the host's reaches it (R87). -/
def State.served (s : State) (r : Req) : Bool :=
  !s.isolated .sys &&
    match r with
    | .host => !s.isolated .host && decide (4 ≤ s.stage)
    | .gkp => decide (s.wrd.gkp = .running)

/-- An access that the Groundskeeper makes: its cores are not halted (R80). -/
def State.active (s : State) (r : Req) : State :=
  if r = .gkp ∧ s.served r then { s with pwr := { s.pwr with gkpHalted := false } } else s

/-- The requester reaches the page: served, present, and its domain above level 0. -/
def State.open (s : State) (r : Req) (page : Nat) : Bool :=
  s.served r && s.has page && decide ((s.active r).pageLevel page ≠ 0)

/-! ### State codes and the status word -/

/-- SDL's state code (R112). -/
def State.sdlState (s : State) : Nat :=
  if !s.bit pgSDL UNIT_CTRL_ENABLE then 0
  else if s.bit pgSDL SDL_STATUS_HALT_LATCHED then 5
  else if s.sdl.noSource then 4
  else if s.sdl.still then 3
  else if s.sdl.reverse then 2
  else 1

/-- Line events and triggers issue only in FORWARD (R112). -/
def State.forward (s : State) : Bool := decide (s.sdlState = 1)

def schedState (s : State) (running : Bool) : Nat :=
  if running then (if s.forward then 1 else 2) else 0

/-- Heads below a page of the kiosk tree by its place: which kiosks it holds (R13). -/
def kiosksBelow (j : Nat) : List Nat :=
  if j = 0 then List.range 96
  else if j < 5 then (List.range 24).map (fun i => 24 * (j - 1) + i)
  else (List.range 8).map (fun i => 8 * (j - 5) + i)

/-- A kiosk's own state code (R163), held in its page. -/
def State.kioskState (s : State) (k : Nat) : Nat := s.rd (pgKSK k) UNIT_STATUS_STATE

/-- A pavilion shows the first of DECODING, IDLE, OUT and RETIRED that any kiosk beneath shows. -/
def State.pavState (s : State) (j : Nat) : Nat :=
  let ks := ((kiosksBelow j).filter (fun k => decide (k < s.part.kiosks))).map s.kioskState
  if ks.any (· == 2) then 2 else if ks.any (· == 1) then 1 else if ks.any (· == 0) then 0 else 3

/-- `STATUS.STATE` of a page: computed where it follows from other state, else as its unit's
machine keeps it in the page; SPD, for which the spec gives no code, reads 0 (R127; DESIGN CHOICE,
log 97). -/
def State.stateCode (s : State) (page : Nat) : Nat :=
  match s.unit page with
  | none => 0
  | some (kd, u) =>
    match kd with
    | .gbk | .mon | .trlRoot | .blvRoot | .drcRoot | .netRoot | .ptp | .motRoot => 1
    | .pwr => s.powerState
    | .clk =>
      if !s.ready && !decide (s.stage = 15) then 1
      else if s.bit pgCLK UNIT_STATUS_CMD_BUSY then 3 else 2
    | .sdl => s.sdlState
    | .hsc => if h : u < 32 then schedState s (s.hsc.get ⟨u, h⟩).running else 0
    | .trg => schedState s s.trg.running
    | .ing =>
      if (List.range 4).any (fun t => s.rd (pgSTM t) UNIT_STATUS_STATE == 2) then 1 else 0
    | .pav => s.pavState (page - 0x080)
    | .fir =>
      if !s.bit page UNIT_CTRL_ENABLE then 0 else if s.bit page FIR_CUT_STAT_CUT then 2 else 1
    | .onk =>
      if !s.bit page UNIT_CTRL_ENABLE then 0
      else if s.rd page ONK_CFG_LOOP ≠ 0 || s.bit page ONK_CFG_TEST then 3
      else if h : u < 32 then (if (s.onk.get ⟨u, h⟩).up then 2 else 1) else 0
    | .firRoot => if !s.aon.estop || s.bit pgFIRroot FIR_ESTOP_LATCHED then 2 else 1
    | .net => if s.listening u then 5 else s.rd page UNIT_STATUS_STATE
    | .tb => b2n (s.bit page UNIT_CTRL_ENABLE)
    | .pcie => b2n (s.bit pgPCIE PCIE_LINK_UP)
    | .gkp =>
      match s.wrd.gkp with
      | .running => 1
      | .held => 3
      | _ => 2
    | .wrd =>
      match s.wrd.gkp with
      | .reset => 0
      | .running => if s.levelOf .sys = 2 then 1 else 2
      | .restarting => 3
      | .held => 4
    | .bst =>
      if s.bist.slice.isSome then 2
      else if !s.bit page UNIT_CTRL_ENABLE then 0
      else if s.wrd.gkp = .running then 1 else 3
    | _ => s.rd page UNIT_STATUS_STATE

def State.commitOf (s : State) (page : Nat) : Option Commit := s.commits.lookup page

/-- `UNIT_STATUS` with `SNAP_STALE`, which stands per requester, reading 0 (R385). -/
def State.statusWord (s : State) (page : Nat) : Word :=
  putBits 23 16 (s.stateCode page)
    (putBits 9 9 (b2n (s.commitOf page).isSome)
      (putBits 4 4 0 (s.word page 0x010)))

/-! ### Memory -/

/-- First address of the on-die SRAM (R283). -/
def sramBase : Nat := 0x1000000000

/-- Read one byte of DRAM or SRAM; an unlisted byte reads 0 (log 6). -/
def State.byte (s : State) (a : Nat) : Byte := Tbl.get 0 a s.mem

def State.setByte (s : State) (a : Nat) (b : Byte) : State :=
  { s with mem := Tbl.set 0 a b s.mem }

/-- Read `n` bytes from `a` on. -/
def State.bytes (s : State) (a n : Nat) : List Byte :=
  (List.range n).map (fun i => s.byte (a + i))

/-- Write bytes from `a` on. -/
def State.setBytes (s : State) (a : Nat) (bs : List Byte) : State :=
  match bs with
  | [] => s
  | b :: t => (s.setByte a b).setBytes (a + 1) t

/-- `n` bytes of a number, lowest first (R4). -/
def leBytes (n v : Nat) : List Byte := (List.range n).map (fun i => BitVec.ofNat 8 (v / 256 ^ i))

/-- A number from its bytes, lowest first. -/
def ofLe (bs : List Byte) : Nat := bs.foldr (fun b n => b.toNat + 256 * n) 0

/-- A number from its bytes, highest first. -/
def ofBe (bs : List Byte) : Nat := bs.foldl (fun n b => 256 * n + b.toNat) 0

def State.mem32 (s : State) (a : Nat) : Nat := ofLe (s.bytes a 4)

def State.setMem32 (s : State) (a v : Nat) : State := s.setBytes a (leBytes 4 v)

/-! ### Events (R381, R382) -/

/-- The number of an event source: base, step per unit, and how many bits the unit raises. -/
def evBase : Kind → Option (Nat × Nat × Nat)
  | .fir => some (0, 4, 4) | .onk => some (128, 6, 6) | .hsc => some (320, 2, 2)
  | .trl => some (384, 1, 1) | .ksk => some (416, 1, 1) | .gkp => some (512, 4, 4)
  | .wrd => some (516, 4, 4) | .gth => some (520, 4, 4) | .gbk => some (524, 2, 2)
  | .pwr => some (526, 6, 6) | .clk => some (532, 6, 6) | .bst => some (538, 4, 4)
  | .fsh => some (542, 4, 4) | .mon => some (546, 6, 6) | .cpy => some (552, 2, 2)
  | .enc => some (554, 5, 5) | .sdl => some (569, 3, 3) | .stm => some (572, 3, 3)
  | .ing => some (584, 4, 4) | .cam => some (588, 3, 3) | .qlp => some (606, 4, 4)
  | .drcRoot => some (610, 2, 2) | .dram => some (612, 3, 3) | .net => some (618, 4, 4)
  | .ptp => some (626, 2, 2) | .pcie => some (628, 2, 2) | .axis => some (630, 2, 2)
  | .fnt => some (638, 2, 2)
  | _ => none

/-- The number of a page's event bit (R381); none where the page raises no such event. -/
def evNum (part : Part) (page bit : Nat) : Option Nat :=
  match unitOf part page with
  | none => none
  | some (kd, u) =>
    match evBase kd with
    | none => none
    | some (base, step, bits) => if bit < bits then some (base + step * u + bit) else none

/-- The page and bit of an event number; none for a number without a present source. -/
def evOf (part : Part) (n : Nat) : Option (Nat × Nat) :=
  let hit (r : Run) : Option (Nat × Nat) :=
    match evBase r.kind with
    | none => none
    | some (base, step, _) =>
      if base ≤ n ∧ n < base + step * r.count part then
        some (r.first + (n - base) / step, (n - base) % step)
      else none
  pageRuns.findSome? hit

/-- Whether an event is pending: its bit and its enable are 1 (R382). -/
def State.eventPending (s : State) (n : Nat) : Bool :=
  match evOf s.part n with
  | none => false
  | some (page, bit) =>
    (s.word page 0x014).getLsbD bit && (s.word page 0x018).getLsbD bit

/-- The events that a folly's "Detected as" entry names (R380). -/
def detectedAs (kd : Kind) (num : Nat) : List (Kind × Nat) :=
  match kd, num with
  | .fir, 1 => [(.fir, 0)]
  | .fir, 2 => [(.fir, 1)]
  | .fir, 3 => [(.fir, 2)]
  | .fir, 4 => [(.fir, 3)]
  | .onk, 1 => [(.onk, 0)]
  | .onk, 2 => [(.onk, 2), (.onk, 1)]
  | .onk, 3 => [(.onk, 2)]
  | .onk, 4 => [(.onk, 3)]
  | .onk, 5 => [(.onk, 4)]
  | .onk, 6 => [(.onk, 5)]
  | .hsc, 1 => [(.hsc, 0)]
  | .hsc, 2 => [(.hsc, 1)]
  | .trl, 1 => [(.trl, 0)]
  | .ksk, 1 => [(.ksk, 0)]
  | .ksk, 2 => [(.bst, 0), (.bst, 2)]
  | .ksk, 3 => [(.bst, 2)]
  | .enc, 1 => [(.enc, 0)]
  | .enc, 2 => [(.enc, 1)]
  | .enc, 3 => [(.enc, 2)]
  | .stm, 1 => [(.stm, 0)]
  | .cam, 1 => [(.cam, 0)]
  | .cam, 2 => [(.cam, 2)]
  | .cam, 3 => [(.cam, 2)]
  | .dram, 1 => [(.dram, 0)]
  | .dram, 2 => [(.dram, 1)]
  | .dram, 3 => [(.dram, 2)]
  | .net, 1 => [(.net, 0), (.net, 1)]
  | .net, 2 => [(.net, 3)]
  | .net, 3 => [(.net, 1)]
  | .clk, 1 => [(.clk, 3)]
  | .pwr, 1 => [(.pwr, 5), (.pwr, 1)]
  | .mon, 1 => [(.mon, 0)]
  | .gkp, 1 => [(.wrd, 1)]
  | .gkp, 2 => [(.gkp, 2)]
  | .wrd, 1 => [(.wrd, 0)]
  | .bst, 1 => [(.bst, 1)]
  | .bst, 2 => [(.trl, 0), (.cam, 2), (.cpy, 1)]
  | .bst, 3 => [(.bst, 3)]
  | .axis, 1 => [(.axis, 1)]
  | .axis, 2 => [(.axis, 1)]
  | .fnt, 1 => [(.fnt, 1)]
  | .gth, 1 => [(.gth, 1)]
  | .fsh, 1 => [(.fsh, 1)]
  | .fsh, 2 => [(.fsh, 1)]
  | _, _ => []

def State.follyDetects (s : State) (fp : Nat) (f : Folly) (page bit : Nat) : Bool :=
  match s.kind fp, s.kind page with
  | some kd, some ke => (detectedAs kd f.num).contains (ke, bit)
  | _, _ => false

/-- Whether an entry of this event carries `INJECTED`: a folly's marked time runs and the event is
on its page or among those that detect it (R380). -/
def State.injected (s : State) (page bit : Nat) : Bool :=
  s.follies.any (fun e => e.1 == page || s.follyDetects e.1 e.2 page bit)

/-- The first detecting event after a disarmed folly's last injection ends its marked time. -/
def State.endMarks (s : State) (page bit : Nat) : State :=
  let keep := s.follies.filter (fun e => e.2.armed || !s.follyDetects e.1 e.2 page bit)
  { s with follies := keep }

/-- Late events stand in the order of their numbers; equal numbers keep their order (R386). -/
def insLate (x : LateEvent) : List LateEvent → List LateEvent
  | [] => [x]
  | y :: t => if x.num < y.num then x :: y :: t else y :: insLate x t

/-- The flags every entry takes from the state at its writing (R384). -/
def State.gbkFlags (s : State) (late injected : Bool) : Byte :=
  let noPos := !s.bit pgSDL UNIT_CTRL_ENABLE
  let stale := !s.bit (pgTB 0) UNIT_CTRL_ENABLE || decide (s.levelOf .net ≠ 2)
    || s.bit (pgTB 0) TB_STATUS_STALE
  BitVec.ofNat 8 (b2n late + 2 * b2n noPos + 4 * b2n stale + 8 * b2n injected)

/-- An entry of the Guestbook as it stands at the raise (R384, R385). -/
def State.mkEntry (s : State) (event page detail : Nat) (late injected : Bool) (source : Nat) :
    GbkEntry :=
  { cycle := s.now, time := s.word (pgTB 0) 0x040, wraps := (s.tb.get 0).wraps,
    pos := if s.bit pgSDL UNIT_CTRL_ENABLE then s.pos else 0,
    event := BitVec.ofNat 16 event, page := BitVec.ofNat 16 page,
    detail := BitVec.ofNat 64 detail, flags := s.gbkFlags late injected,
    source := BitVec.ofNat 8 source }

/-- A vector's mask bit; vectors are masked at reset (log 47). -/
def State.vecMasked (s : State) (fn v : Nat) : Bool := !s.pcie.unmasked.contains (fn, v)

/-- A function may send messages: the link is up, it exists, its MSI-X is enabled, and it is in D0
(R328). -/
def State.mayMessage (s : State) (fn : Nat) : Bool :=
  s.bit pgPCIE PCIE_LINK_UP && s.pcie.msixOn.contains fn && !s.pcie.d3hot.contains fn &&
    decide (fn ≤ s.rd pgPCIE PCIE_VF_NUM_VFS)

/-- Send a vector's message with what its entry holds. -/
def State.message (s : State) (fn v : Nat) : State :=
  s.emit (.msix fn v (s.pcie.entries.lookup (fn, v)))

/-- Signal on a vector: a message, or, while the vector is masked, its pending bit (R328, R329). -/
def State.signal (s : State) (fn v : Nat) : State :=
  if !s.mayMessage fn then s
  else if s.vecMasked fn v then
    if s.pcie.pba.contains (fn, v) then s
    else { s with pcie := { s.pcie with pba := s.pcie.pba ++ [(fn, v)] } }
  else s.message fn v

/-- An enabled event of a page has become pending: its message is due on the PF, and a stream's goes out
on its VF's vector 0 (R328, R382). -/
def State.eventDue (s : State) (page bit : Nat) : State :=
  let s1 :=
    match evNum s.part page bit with
    | none => s
    | some n =>
      let due := if s.pcie.due.contains (n / 16) then s.pcie.due else s.pcie.due ++ [n / 16]
      { s with pcie := { s.pcie with due := due } }
  match unitOf s.part page with
  | some (.stm, i) => s1.signal (i + 1) 0
  | _ => s1

def State.setEventBit (s : State) (page bit : Nat) : State :=
  let was := (s.word page 0x014).getLsbD bit
  let s1 := s.setWord page 0x014 (s.word page 0x014 ||| BitVec.ofNat 32 (2 ^ bit))
  if was || !(s.word page 0x018).getLsbD bit then s1 else s1.eventDue page bit

/-- An entry comes last, but before those of its own cycle with larger event numbers (R383). -/
def insEntry (e : GbkEntry) : List GbkEntry → List GbkEntry
  | [] => [e]
  | y :: t => if e.cycle = y.cycle ∧ e.event < y.event then e :: y :: t else y :: insEntry e t

/-- Put an entry into the writer's queue of 64; none for a full queue. -/
def State.gbkPush (s : State) (e : GbkEntry) : Option State :=
  if s.gbk.queue.length < 64 then
    some { s with gbk := { s.gbk with queue := insEntry e s.gbk.queue } }
  else none

/-- Write an entry, or drop it and raise `DROPPED` when the queue is full; the entry of that
`DROPPED` finds the queue full too and is counted only (R383). -/
def State.gbkEntry (s : State) (e : GbkEntry) : State :=
  match s.gbkPush e with
  | some s' => s'
  | none => (((s.incSat pgGBK GBK_DROPPED_N).setEventBit pgGBK 1).incSat pgGBK GBK_DROPPED_N)

/-- The event lines of a page's domain are clamped: PRINT, CAM and MECH while they are isolated (R87). -/
def State.clamped (s : State) (page : Nat) : Bool :=
  match s.kind page with
  | none => false
  | some k => (k.domain == .print || k.domain == .cam || k.domain == .mech) && s.isolated k.domain

/-- Raise an event with its detail: the bit, and the Guestbook entry, which waits while SYS is
below level 2 (R383, R386); the event lines of an isolated domain are clamped (R87). -/
def State.raiseD (s : State) (page bit detail : Nat) : State :=
  match evNum s.part page bit with
  | none => s
  | some n =>
    if s.clamped page then s else
    let inj := s.injected page bit
    let s1 := (s.setEventBit page bit).endMarks page bit
    if s.levelOf .sys = 2 then s1.gbkEntry (s.mkEntry n page detail false inj 0)
    else { s1 with gbk := { s1.gbk with late := insLate ⟨n, page, detail, inj⟩ s1.gbk.late } }

/-- Raise an event whose detail is the page's `UNIT_STATUS` (R385). -/
def State.raise (s : State) (page bit : Nat) : State :=
  s.raiseD page bit (s.statusWord page).toNat

/-- A device record (R383, table *Device records*). -/
def State.record (s : State) (event page detail : Nat) : State :=
  s.gbkEntry (s.mkEntry event page detail false false 0)

/-- A requester as the event details and `OWNER` number it: 0 host, 1 Groundskeeper. -/
def reqNum : Req → Nat
  | .host => 0 | .gkp => 1

/-- `REG_ALERT` (R46): page index, offset, requester, code, and what happened: 1 refused, 2 write
dropped, 3 commit rejected, 4 parity. -/
def State.regAlert (s : State) (page off : Nat) (r : Req) (code what : Nat) : State :=
  s.raiseD pgGKP 0
    (page + off * 2 ^ 12 + reqNum r * 2 ^ 24 + code * 2 ^ 32 + what * 2 ^ 40)

/-- Drop a write: `LOCK_VIOL` on the page and `REG_ALERT` (R54). -/
def State.dropWrite (s : State) (r : Req) (page off : Nat) : State :=
  (s.wr page UNIT_STATUS_LOCK_VIOL 1).regAlert page off r 0 2

/-! ### The Guestbook's writer -/

/-- `UNREAD_HIGH` at the threshold, again only after the difference has fallen below half (R390). -/
def State.gbkCheck (s : State) : State :=
  let diff := (s.word pgGBK 0x040 - s.word pgGBK 0x044).toNat
  let th := max (s.rd pgGBK GBK_CFG_THRESH) 1
  if s.gbk.high then
    if 2 * diff < th then { s with gbk := { s.gbk with high := false } } else s
  else if th ≤ diff then ({ s with gbk := { s.gbk with high := true } }).raise pgGBK 0 else s

/-- Where entry `n` stands (R386). -/
def gbkSlot (n : Nat) : Nat := 0x1003B40000 + 32 * (n % 8192)

/-- The 32 bytes of an entry (R384). -/
def GbkEntry.bytes (e : GbkEntry) (seq : Nat) : List Byte :=
  leBytes 4 e.time.toNat ++ leBytes 2 e.wraps.toNat ++ leBytes 6 e.pos.toNat ++
  leBytes 2 e.event.toNat ++ leBytes 2 e.page.toNat ++ leBytes 8 e.detail.toNat ++
  leBytes 4 seq ++ [e.flags, e.source, 0, 0]

/-- The writer takes the oldest entry, gives it its number and writes it whole (R383). -/
def State.gbkDrain (s : State) : State :=
  match s.gbk.queue with
  | [] => s
  | e :: rest =>
    let n := s.rd pgGBK GBK_WRITE_SEQ_SEQ
    let unread := (BitVec.ofNat 32 n - s.word pgGBK 0x044).toNat
    let s1 := { s with gbk := { s.gbk with queue := rest } }
    let s2 := if 8192 ≤ unread then s1.incSat pgGBK GBK_OVERWRITTEN_N else s1
    ((s2.setBytes (gbkSlot n) (e.bytes n)).inc pgGBK GBK_WRITE_SEQ_SEQ).gbkCheck

/-- Entries held back while SYS was below 2 are written in event-number order, with the details of their raises
(R385, R386). -/
def State.gbkFlushLate (s : State) : State :=
  let s0 := { s with gbk := { s.gbk with late := [] } }
  s.gbk.late.foldl
    (fun t x => t.gbkEntry
      (t.mkEntry x.num x.page x.detail true x.injected 0)) s0

/-! ### What each requester holds of its own (R44, R55) -/

def State.side (s : State) (r : Req) : ReqSide :=
  match r with
  | .host => s.host
  | .gkp => s.gkpSide

def State.setSide (s : State) (r : Req) (x : ReqSide) : State :=
  match r with
  | .host => { s with host := x }
  | .gkp => { s with gkpSide := x }

def State.cmdResult (s : State) (r : Req) (page : Nat) : Word := Tbl.get 0 page (s.side r).results

def State.setResult (s : State) (r : Req) (page code state refuse : Nat) : State :=
  let w := BitVec.ofNat 32 (code + state * 2 ^ 16 + refuse * 2 ^ 24)
  s.setSide r { s.side r with results := Tbl.set 0 page w (s.side r).results }

def State.snapSlot (s : State) (r : Req) (page : Nat) : List (Nat × Word) :=
  Tbl.get [] page (s.side r).slots

def State.setSlot (s : State) (r : Req) (page : Nat) (x : List (Nat × Word)) : State :=
  s.setSide r { s.side r with slots := Tbl.set [] page x (s.side r).slots }

def State.snapStale (s : State) (r : Req) (page : Nat) : Bool :=
  Tbl.get false page (s.side r).stale

def State.setStale (s : State) (r : Req) (page : Nat) (b : Bool) : State :=
  s.setSide r { s.side r with stale := Tbl.set false page b (s.side r).stale }

/-! ### Commands (R43) -/

def rcWRONG_STATE : Nat := 1
def rcBUSY : Nat := 2
def rcUNKNOWN : Nat := 3
def rcBAD_ARG : Nat := 4
def rcDISABLED : Nat := 5
def rcLOCKED : Nat := 6
def rcNOT_PERMITTED : Nat := 7
def rcOVERLAP_STRIDE : Nat := 8
def rcSELF_BUSY : Nat := 9
def rcNO_RESOURCE : Nat := 0xA
def rcCOMMIT_HELD : Nat := 0xB

/-- The first cause whose condition holds, or 0 for none. -/
def firstCause : List (Bool × Nat) → Nat
  | [] => 0
  | (c, code) :: t => if c then code else firstCause t

/-- An access to a page whose domain stands at level 1 ungates its clocks (R81). -/
def State.touch (s : State) (page : Nat) : State :=
  match s.kind page with
  | none => s
  | some k =>
    if s.levelOf k.domain = 1 then
      { s with pwr := { s.pwr with ungated := s.pwr.ungated.set k.domain.num.val true } }
    else s

/-- Refuse a command: `CMD_REFUSED`, the requester's result, and `REG_ALERT` (R43). -/
def State.refuse (s : State) (r : Req) (page off code refuse : Nat) : State :=
  ((s.setResult r page code (s.stateCode page) refuse).wr page UNIT_STATUS_CMD_REFUSED 1).regAlert
    page off r refuse 1

/-- A write that reaches a page whose domain stands at level 0 is dropped (R82). -/
def State.denyDown (s : State) (r : Req) (page off : Nat) : State :=
  (s.wr pgPWR UNIT_STATUS_LOCK_VIOL 1).regAlert page off r 0 2

/-- A write as it reaches a page: lost where the requester is not served, ignored on an absent page
(R42), dropped where the page's domain is at level 0 (R82), else applied. -/
def State.access (s : State) (r : Req) (page off : Nat) (f : State → State) : State :=
  if !s.served r then s
  else if !s.has page then s.active r
  else if (s.active r).pageLevel page = 0 then (s.active r).denyDown r page off
  else f ((s.active r).touch page)

/-- Judge a command (R43): BUSY, DISABLED, BAD_ARG for a nonzero argument to a command whose
argument is 0, then the causes listed for it in their order; else accept it and apply its effect. -/
def State.judge (s : State) (r : Req) (page code : Nat) (arg : BitVec 16) (zeroArg whenOff : Bool)
    (causes : List (Bool × Nat)) (effect : State → State) : State :=
  let cause := firstCause
    ((s.bit page UNIT_STATUS_CMD_BUSY, rcBUSY) ::
     (!whenOff && !s.enabled page, rcDISABLED) ::
     (zeroArg && arg != 0, rcBAD_ARG) :: causes)
  if cause = 0 then effect (s.setResult r page code (s.stateCode page) 0)
  else s.refuse r page 0x01C code cause

/-- A command written to `UNIT_CMD`: reach, then judgement on the state it finds. -/
def command (r : Req) (page code : Nat) (arg : BitVec 16) (zeroArg whenOff : Bool)
    (causes : State → List (Bool × Nat)) (effect : State → State) : State → State :=
  fun s => s.access r page 0x01C
    (fun t => t.judge r page code arg zeroArg whenOff (causes t) effect)

/-- The page's `LOCK` is set (R53). -/
def State.locked (s : State) (page : Nat) : Bool := s.bit page UNIT_LOCK_LOCK

def State.setBusy (s : State) (page : Nat) (b : Bool) : State := s.wrBit page UNIT_STATUS_CMD_BUSY b

def State.setState (s : State) (page code : Nat) : State := s.wr page UNIT_STATUS_STATE code

/-- A calibration of the record has completed (R409): its count, and TB0's time and wraps. -/
def State.calDone (s : State) (i : Nat) : State :=
  ((s.incSat pgFSH (FSH_CAL_COUNT i)).wr pgFSH (FSH_CAL_NS_NS i) (s.word (pgTB 0) 0x040).toNat).wr
    pgFSH (FSH_CAL_WRAPS_WRAPS i) (s.tb.get 0).wraps.toNat

/-! ### Follies (R379, R380) -/

/-- The folly armed on a page. -/
def State.armedFolly (s : State) (page : Nat) : Option Folly :=
  (s.follies.find? (fun e => e.1 == page && e.2.armed)).map Prod.snd

/-- Whether this folly is armed on the page. -/
def State.follyOn (s : State) (page num : Nat) : Bool :=
  match s.armedFolly page with
  | some f => f.num == num
  | none => false

def State.follyParam (s : State) (page : Nat) : Nat :=
  match s.armedFolly page with
  | some f => f.param
  | none => 0

def State.updFolly (s : State) (page : Nat) (g : Folly → Folly) : State :=
  { s with follies := s.follies.map (fun e => if e.1 == page && e.2.armed then (e.1, g e.2) else e) }

/-- The armed folly disarms; one that never injected leaves no marked time (R380). -/
def State.disarm (s : State) (page : Nat) : State :=
  let kept := s.follies.filter (fun e => !(e.1 == page && e.2.armed && e.2.lastInj.isNone))
  let off := fun (e : Nat × Folly) =>
    if e.1 == page then
      (e.1, { e.2 with armed := false, window := false,
                       lastInj := if e.2.window then some s.now else e.2.lastInj })
    else e
  { s with follies := kept.map off }

/-- The folly injects once: a nonzero `SHOTS` falls by 1, and at 0 the folly disarms (R379). -/
def State.inject (s : State) (page : Nat) : State :=
  let s1 := s.updFolly page (fun f => { f with lastInj := some s.now })
  let n := s.rd page UNIT_INJECT_SHOTS
  if n = 0 then s1
  else
    let s2 := s1.wr page UNIT_INJECT_SHOTS (n - 1)
    if n = 1 then s2.disarm page else s2

/-- One of the `PARAM` parts that make an occasion of the folly; the last one ends the occasion (R379). -/
def State.injectPart (s : State) (page : Nat) : State :=
  match s.armedFolly page with
  | none => s
  | some f =>
    if f.parts + 1 < f.param then
      s.updFolly page (fun g => { g with lastInj := some s.now, parts := g.parts + 1 })
    else (s.updFolly page (fun g => { g with parts := 0 })).inject page

/-- At an occasion of folly `num`: inject and take the first branch, or the second. -/
def State.atFolly (s : State) (page num : Nat) (hit miss : State → State) : State :=
  if s.follyOn page num then hit (s.inject page) else miss s

end Sys2Proof.Machine
end

