-- ==== Sys2Proof/Machine/Sched.lean ====
section
/-! DEFINITION. The arithmetic of line schedules: compare values, geometries, print pages, deadlines
and the selection of a commit's line (R9, R48, R116–R122, R145). -/

namespace Sys2Proof.Machine

/-- A compare value in 48.16 rounded up to a whole pu: the fire position (R116). -/
def fireOf (c : BitVec 64) : Pos := BitVec.truncate 48 ((c + 0xFFFF) >>> 16)

/-- A position as 48.16. -/
def fixOf (p : Pos) : BitVec 64 := BitVec.zeroExtend 64 p <<< 16

/-- The geometry in a head schedule's active fields, from line `n` on; `PP_LINES` 0 acts as 1. -/
def State.geoActive (s : State) (h n : Nat) : Geo :=
  let p := pgHSC h
  { frm := n, pitch := s.ac p HSC_PITCH_INT_PU * 65536 + s.ac p HSC_PITCH_FRAC_FRAC,
    row := BitVec.ofNat 48 (s.ac2 p HSC_ROW_OFFSET_LO_PU HSC_ROW_OFFSET_HI_PU),
    pp := max 1 (s.ac p HSC_PP_LINES_N), trim := s.acS p HSC_TRIM_STEPS }

/-- The geometry in its shadow fields. -/
def State.geoShadow (s : State) (h n : Nat) : Geo :=
  let p := pgHSC h
  { frm := n, pitch := s.rd p HSC_PITCH_INT_PU * 65536 + s.rd p HSC_PITCH_FRAC_FRAC,
    row := BitVec.ofNat 48 (s.rd2 p HSC_ROW_OFFSET_LO_PU HSC_ROW_OFFSET_HI_PU),
    pp := max 1 (s.rd p HSC_PP_LINES_N), trim := s.rdS p HSC_TRIM_STEPS }

def State.hscOf (s : State) (h : Nat) : Hsc := (s.hsc.toList[h]?).getD
  { running := false, geo := [], tile := 0, send := Cursor.zero, hit := Cursor.zero, lastHit := none }

def State.setHsc (s : State) (h : Nat) (x : Hsc) : State :=
  if hh : h < 32 then { s with hsc := s.hsc.set h x } else s

def State.updHsc (s : State) (h : Nat) (g : Hsc → Hsc) : State := s.setHsc h (g (s.hscOf h))

/-- The geometries in force, newest first; a pending commit's new values stand for its line and
every later one (R48, R120). -/
def State.geos (s : State) (h : Nat) : List Geo :=
  match s.commitOf (pgHSC h) with
  | some c =>
    match c.line with
    | some n => s.geoShadow h n :: (s.hscOf h).geo
    | none => (s.hscOf h).geo
  | none => (s.hscOf h).geo

/-- The geometry of a line: the newest that begins at or before it. -/
def geoAt (gs : List Geo) (n : Nat) : Geo :=
  (gs.find? (fun g => decide (g.frm ≤ n))).getD { frm := 0, pitch := 0, row := 0, pp := 1, trim := 0 }

/-- The cursor of the next line: the compare value grows by the pitch and by a change of the row
offset (R120), the print page goes on or ends (R121). -/
def Cursor.next (c : Cursor) (gs : List Geo) : Cursor :=
  let g0 := geoAt gs c.line
  let g := geoAt gs (c.line + 1)
  let shift : BitVec 64 := if g.frm = c.line + 1 then fixOf (g.row - g0.row) else 0
  let newPage := decide (g0.pp ≤ c.place + 1) || decide (g.pp ≤ c.place + 1)
  { line := c.line + 1, cmp := c.cmp + BitVec.ofNat 64 g.pitch + shift, prev := c.cmp,
    num := if newPage then c.num + 1 else c.num, place := if newPage then 0 else c.place + 1 }

/-- A cursor at the very line that a geometry begins at: its compare value is the line before's plus
the new pitch plus the change of the row offset (R120), and a print page that already holds the new
number of lines has ended (R121). -/
def Cursor.rebase (gs : List Geo) (c : Cursor) : Cursor :=
  let g := geoAt gs c.line
  if g.frm = c.line then
    let g0 := ((gs.find? (fun x => decide (x.frm < c.line))).or gs.getLast?).getD g
    let turn := decide (c.place ≠ 0) && decide (g.pp ≤ c.place)
    { c with cmp := c.prev + BitVec.ofNat 64 g.pitch + fixOf (g.row - g0.row),
             num := if turn then c.num + 1 else c.num, place := if turn then 0 else c.place }
  else c

/-- A cursor moved on by `n` lines. -/
def Cursor.forth (gs : List Geo) : Nat → Cursor → Cursor
  | 0, c => c
  | n + 1, c => Cursor.forth gs n (c.next gs)

/-- The compare value of a line before `line`, whose own is `cmp`, by the geometries newest first:
back by each one's pitch, and by the shift where it began (R116, R120). -/
def backCmp (n : Nat) : List Geo → Nat → BitVec 64 → BitVec 64
  | [], _, cmp => cmp
  | g :: gs, line, cmp =>
    if line < g.frm then backCmp n gs line cmp
    else if g.frm ≤ n then cmp - BitVec.ofNat 64 ((line - n) * g.pitch)
    else
      match gs with
      | [] => cmp - BitVec.ofNat 64 ((line - n) * g.pitch)
      | g0 :: _ =>
        let first := cmp - BitVec.ofNat 64 ((line - g.frm) * g.pitch)
        backCmp n gs (g.frm - 1) (first - BitVec.ofNat 64 g.pitch - fixOf (g.row - g0.row))

/-- The next line to send, as a pending commit leaves it (R48, R120). -/
def State.sendCur (s : State) (h : Nat) : Cursor := (s.hscOf h).send.rebase (s.geos h)

/-- The compare value of a line: forth or back from the next one to send by the geometries. -/
def State.cmpOf (s : State) (h n : Nat) : BitVec 64 :=
  let c := s.sendCur h
  if c.line ≤ n then (Cursor.forth (s.geos h) (n - c.line) c).cmp
  else backCmp n (s.geos h) c.line c.cmp

/-- The link lead of a head, in pitches (R145, R241). -/
def State.lead (s : State) (h : Nat) : Nat :=
  match s.onk.toList[h]? with
  | some o => o.lead
  | none => 2

/-- The decode allowance of a head, in pitches (R145). -/
def State.allow (s : State) (h : Nat) : Nat := s.ac pgING (ING_HEAD_CFG_ALLOW h)

/-- A deadline `n` pitches before a line's compare value, rounded up to a whole pu (R145). -/
def deadline (c : BitVec 64) (n pitch : Nat) : Pos := fireOf (c - BitVec.ofNat 64 (n * pitch))

/-- The tile deadline of a line (R117, R145). -/
def State.tileDeadline (s : State) (h n : Nat) : Pos :=
  deadline (s.cmpOf h n) (s.lead h + s.allow h) (geoAt (s.geos h) n).pitch

/-- The send deadline of a line (R117, R145). -/
def State.sendDeadlineOf (s : State) (h n : Nat) : Pos :=
  deadline (s.cmpOf h n) (s.lead h) (geoAt (s.geos h) n).pitch

/-- How many whole pitches to add to `c` until it lies beyond `q`. -/
def pitchesPast (c : BitVec 64) (pitch : Nat) (q : Pos) : Nat :=
  if pitch = 0 then 0 else (fixOf q - c).toNat / pitch + 1

/-- How many whole pitches to add to `c` until its position, rounded up, lies ahead of `q` (R8, R118). -/
def passed (c : BitVec 64) (pitch : Nat) (q : Pos) : Nat :=
  if ahead (fireOf c) q then 0 else pitchesPast c pitch q

/-- How many whole pitches to add to `c` until its position, rounded up, is no longer behind `p` (R8). -/
def pitchesTo (c : BitVec 64) (pitch : Nat) (p : Pos) : Nat :=
  if posDiff (fireOf c) p < 0 then pitchesPast c pitch (p - 1) else 0

/-- The first line that a schedule has issued or will issue, that of its START. -/
def Hsc.startLine (x : Hsc) : Nat := (x.geo.getLast?.map Geo.frm).getD x.send.line

/-- The schedule's registers show its next line (R127). -/
def State.showNext (s : State) (h : Nat) : State :=
  let p := pgHSC h
  let c := (s.hscOf h).hit.rebase (s.geos h)
  (((s.wr2 p HSC_LINE_LO_N HSC_LINE_HI_N c.line).wr2 p HSC_NEXT_FIRE_LO_POS HSC_NEXT_FIRE_HI_POS
    (fireOf c.cmp).toNat).wr p HSC_PP_STAT_LINE_IN_PP c.place).wr p HSC_TAG_TAG c.line

/-- The line that a commit on a head page applies to (R48), judged on the active values; an error code of
R50 where none. -/
def State.selectLine (s : State) (h mode : Nat) (p : Pos) : Nat ⊕ Nat :=
  let hs := s.hscOf h
  let c0 := hs.send
  let g0 := geoAt hs.geo c0.line
  let lead := BitVec.ofNat 64 (s.lead h * g0.pitch)
  let c := Cursor.forth hs.geo (passed (c0.cmp - lead) g0.pitch s.pos) c0
  let g := geoAt hs.geo c.line
  if !hs.running then .inr 4
  else if mode = 2 then .inl c.line
  else if mode = 3 then .inl (if c.place = 0 ∨ g.pp ≤ c.place then c.line else c.line + (g.pp - c.place))
  else
    let n := c0.line + pitchesTo c0.cmp g0.pitch p
    let before := decide (hs.startLine < c0.line) && decide (0 ≤ posDiff (fireOf c0.prev) p)
    if before || decide (n < c.line) then .inr 3 else .inl n

/-- The schedule that the reference channel copies runs (R122). -/
def State.refRunning (s : State) : Bool :=
  let h := s.ac pgSDL SDL_CFG_REF_HEAD
  decide (h < s.part.heads) && (s.hscOf h).running

/-! ### The reference channel (R10, R122) -/

/-- The position of a cursor's line in the reference frame, where the row offset is 0. -/
def refPos (gs : List Geo) (c : Cursor) : Pos := fireOf (c.cmp - fixOf (geoAt gs c.line).row)

/-- The cursor of the line before: its place counted back by the print page's length in force. -/
def Cursor.back (gs : List Geo) (c : Cursor) : Cursor :=
  let g := geoAt gs (c.line - 1)
  { line := c.line - 1, cmp := c.prev, prev := backCmp (c.line - 2) gs (c.line - 1) c.prev,
    num := if c.place = 0 then c.num - 1 else c.num,
    place := if c.place = 0 then g.pp - 1 else c.place - 1 }

/-- Back while the line before still lies ahead of `p`; a schedule has no line before `first`. -/
def refBack (gs : List Geo) (first : Nat) (p : Pos) : Nat → Cursor → Cursor
  | 0, c => c
  | n + 1, c =>
    if c.line ≤ first then c
    else if ahead (refPos gs (c.back gs)) p then refBack gs first p n (c.back gs) else c

/-- On to the first line ahead of `p`. -/
def refSkip (gs : List Geo) (p : Pos) : Nat → Cursor → Cursor
  | 0, c => c
  | n + 1, c => if ahead (refPos gs c) p then c else refSkip gs p n (c.next gs)

/-- On over the lines that the mark has passed. -/
def RefChan.walk (gs : List Geo) (m : Pos) : Nat → RefChan → RefChan
  | 0, r => r
  | n + 1, r =>
    let p := refPos gs r.cur
    if ahead p m then r
    else
      RefChan.walk gs m n
        { r with cur := r.cur.next gs, line := some p, page := if r.cur.place = 0 then some p else r.page }

/-- How many lines may lie between two positions: no pitch is below 256 pu. -/
def linesWithin (p q : Pos) : Nat := (posDiff p q).toNat / 256 + 2

/-- The reference channel moved on over what the high-water mark has passed. -/
def State.refNow (s : State) : Option RefChan :=
  s.ref.map (fun r =>
    let gs := s.geos r.head
    let c := s.sendCur r.head
    let cur := if c.line ≤ r.cur.line then Cursor.forth gs (r.cur.line - c.line) c else r.cur
    RefChan.walk gs s.hwm (linesWithin s.hwm (refPos gs cur)) { r with cur := cur })

def State.refAdvance (s : State) : State := { s with ref := s.refNow }

/-- A boundary passed since a mark. -/
def since (b : Option Pos) (mark : Pos) : Bool :=
  match b with
  | some p => ahead p mark
  | none => false

/-- A commit on a page that serves no head has reached its moment: the mark has passed beyond where it stood
at the arming, over the position of mode 4 or a boundary of modes 2 and 3 (R47, R49, R122). -/
def State.commitDue (s : State) (c : Commit) : Bool :=
  c.reached ||
    match c.mark with
    | none => true
    | some m =>
      match c.pos with
      | some p => decide (0 ≤ posDiff s.hwm p) && ahead s.hwm m
      | none =>
        match s.refNow with
        | none => false
        | some r => since (if c.mode = 2 then r.line else r.page) m

/-- Commits that have reached their moment, and for which `f` holds, keep that. -/
def State.keepDue (s : State) (f : Commit → Bool) : State :=
  { s with commits := s.commits.map (fun e =>
      (e.1, { e.2 with reached := e.2.reached || (e.2.line.isNone && s.commitDue e.2 && f e.2) })) }

/-- Commits whose moment has been reached keep that over what moves the marks or restarts the reference
channel. -/
def State.keepReached (s : State) : State := s.keepDue (fun _ => true)

/-- The reference channel starts to copy the schedule of its head, from a cursor of it: from the first
line that lies ahead of `p` in the reference frame; with `back`, one before the cursor where such a
line is (R122). -/
def State.refCopy (s0 : State) (h : Nat) (back : Bool) : State :=
  let s := s0.keepReached
  if (s.hscOf h).running then
    let gs := s.geos h
    let c0 := (s.hscOf h).hit.rebase gs
    let p := s.pos
    let c1 := if back then refBack gs (s.hscOf h).startLine p (2 ^ 40) c0 else c0
    let c2 := refSkip gs p (linesWithin p (refPos gs c1)) c1
    { s with ref := some { head := h, cur := c2, line := none, page := none } }
  else { s with ref := none }

/-- The reference channel stops with the schedule that it copies (R122). -/
def State.refStop (s0 : State) (h : Nat) : State :=
  let s := s0.keepReached
  match s.ref with
  | some c => if c.head = h then { s with ref := none } else s
  | none => s

/-- Every HSC and TRG is STOPPED. -/
def State.schedulesStopped (s : State) : Bool :=
  !s.trg.running && (List.range 32).all (fun h => !(s.hscOf h).running)

end Sys2Proof.Machine
end

