-- ==== Sys2Proof/Machine/MemOps.lean ====
section
/-! DEFINITION. Memory behind its addresses: what is fitted and in service, poison and DRAM errors
(R283–R300). -/

namespace Sys2Proof.Machine

/-! ### Poison (R293, R294, R300) -/

/-- Bytes of a codeword's data: a beat of DRAM, a word of SRAM. -/
def cwSize (a : Nat) : Nat := if a < sramBase then 4 else 8

/-- The first byte of the codeword that holds `a`. -/
def cwOf (a : Nat) : Nat := a / cwSize a * cwSize a

/-- Whether any of `n` bytes from `a` on stands in a poisoned codeword. -/
def State.poisonedIn (s : State) (a n : Nat) : Bool :=
  s.poison.any (fun c => decide (c < a + n) && decide (a < c + cwSize c))

/-- The codeword that folly 2 of the BIST page spoils in a read of SRAM (R380): the first of its
segment that the read covers. -/
def State.follyWord (s : State) (a n : Nat) : Option Nat :=
  let seg := sramBase + 16384 * s.follyParam pgBST
  let lo := max a seg
  if s.follyOn pgBST 2 && decide (lo < min (a + n) (seg + 16384)) then some (cwOf lo) else none

/-- Poison after a write of `n` bytes: poisoned data poisons every codeword it touches, clean data
clears every codeword it covers whole (R294; log 41). -/
def poisonAfter (old : List Nat) (a n : Nat) (bad : Bool) : List Nat :=
  let kept := old.filter (fun c => decide (a + n ≤ c) || decide (c + cwSize c ≤ a) ||
    decide (c < a) || decide (a + n < c + cwSize c))
  if bad then
    let step := cwSize a
    let first := cwOf a
    let fresh := ((List.range ((a + n + step - 1 - first) / step)).map (fun i => first + i * step)).filter
      (fun c => !kept.contains c)
    if n = 0 then kept else kept ++ fresh
  else kept

/-- Write bytes from `a` on, with their poison tag. -/
def State.store (s : State) (a : Nat) (bs : List Byte) (bad : Bool) : State :=
  let p := poisonAfter s.poison a bs.length bad
  { s.setBytes a bs with poison := p }

/-- Poison the codewords that a piece of poisoned data touches. -/
def State.taint (s : State) (a n : Nat) : State :=
  let step := cwSize a
  let first := cwOf a
  let ws := (List.range ((a + n + step - 1 - first) / step)).map (fun i => first + i * step)
  let fresh := ws.filter (fun w => !s.poison.contains w)
  { s with poison := s.poison ++ fresh }

/-- Write bytes with a poison tag for each: a tagged byte poisons its codeword (R294, R303). -/
def State.storeTagged (s : State) (a : Nat) (bs : List Byte) (tags : List Bool) : State :=
  let words := (((tags.mapIdx (fun i b => (i, b))).filter (fun e => e.2)).map
    (fun e => cwOf (a + e.1))).eraseDups
  words.foldl (fun t w => t.taint w 1) (s.store a bs false)

/-- Copy `n` bytes with their poison from `src` to `dst`, two ranges that do not meet: a bank over its
other bank (R191, R197). -/
def State.copyMem (s : State) (src dst n : Nat) : State :=
  let inside := fun (a x : Nat) => decide (a ≤ x) && decide (x < a + n)
  let moved := (s.mem.filter (fun e => inside src e.1)).map (fun e => (e.1 - src + dst, e.2))
  let below := s.mem.filter (fun e => decide (e.1 < dst))
  let above := s.mem.filter (fun e => decide (dst + n ≤ e.1))
  let marks := (s.poison.filter (inside src)).map (fun a => a - src + dst)
  let other := s.poison.filter (fun a => !inside dst a)
  { s with mem := below ++ moved ++ above, poison := other ++ marks }

/-! ### SRAM (R300) -/

/-- The first addresses of the nine SRAM regions of R283. -/
def sramStarts : List Nat :=
  [0x1000000000, 0x1002800000, 0x1002E00000, 0x1003300000, 0x1003500000, 0x1003680000, 0x1003A80000,
   0x1003B40000, 0x1003B80000]

/-- The region of an SRAM address, in the order of R283. -/
def regionOf (a : Nat) : Nat := (sramStarts.filter (fun x => decide (x ≤ a))).length - 1

/-- Words of SRAM whose single-bit errors a read corrected, by their offsets in the SRAM: each is counted
by its region, and its segment's slice moves to the next period (R300, R376, R389). -/
def State.sramCes (s : State) (offs : List (BitVec 26)) : State :=
  offs.foldl
    (fun t o =>
      let u := t.incSat pgBST (BST_SRAM_CE_N (regionOf (sramBase + o.toNat)))
      { u with bist := { u.bist with moved := (u.bist.moved ++ [o.toNat / 16384]).eraseDups } }) s

/-- Errors that a read finds in the SRAM words of a range: a single bit is corrected and counted, two bits
leave the word uncorrectable (R300, R365). -/
def State.sramErrs (s : State) (a n : Nat) (errs : List SramErr) : State :=
  let mine := errs.filter (fun e => decide (cwOf (sramBase + e.ofs.toNat) < a + n) &&
    decide (a < cwOf (sramBase + e.ofs.toNat) + 8))
  let s1 := s.sramCes ((mine.filter (fun e => !e.two)).map (fun e => e.ofs))
  (mine.filter (fun e => e.two)).foldl (fun t e => t.taint (sramBase + e.ofs.toNat) 1) s1

/-- A read of SRAM: bytes, and the poison tag of each, by its word; folly 2 of the BIST page spoils the
first word of its segment (R300, R380). -/
def State.sramRead (s : State) (a n : Nat) : State × List Byte × List Bool :=
  let hit := s.follyWord a n
  let bad := (s.poison.filter (fun c => decide (c < a + n) && decide (a < c + 8))) ++ hit.toList
  (if hit.isSome then s.inject pgBST else s, s.bytes a n,
   (List.range n).map (fun i => bad.contains (cwOf (a + i))))

/-! ### What is fitted and in service (R283, R284, R305) -/

/-- DRAM fitted, in bytes. -/
def State.fitted (s : State) : Nat := s.rd pgDRC DRC_SIZE_MIB * 2 ^ 20

/-- The channel and the subchannel of a DRAM address (R286). -/
def chanOf (a : Nat) : Nat := a / 128 % 2

def subOf (a : Nat) : Nat := a / 64 % 2

/-- The channel serves requests: its page reads RUN or RETRAINING. -/
def State.chanLive (s : State) (c : Nat) : Bool :=
  let st := s.rd (pgDRAM c) UNIT_STATUS_STATE
  st == 2 || st == 3

/-- The byte exists and its channel serves requests. -/
def State.byteOk (s : State) (a : Nat) : Bool :=
  if a < sramBase then decide (a < s.fitted) && s.chanLive (chanOf a)
  else decide (a < sramBase + 2 ^ 26)

/-- An access that is handled as invalid is counted and recorded (R284). -/
def State.reqErr (s : State) (a : Nat) : State :=
  ((s.incSat pgDRC DRC_REQ_ERR_N).wr2 pgDRC DRC_REQ_ERR_LO_ADDR DRC_REQ_ERR_HI_ADDR a).raise pgDRC 1

/-- Bytes from `a` on in pieces that do not cross a 64-byte boundary: each piece exists whole or not at
all (R286, R432). -/
def pieces : Nat → Nat → List Byte → List (Nat × List Byte)
  | 0, _, _ => []
  | fuel + 1, a, bs =>
    if bs.isEmpty then []
    else
      let n := 64 - a % 64
      (a, bs.take n) :: pieces fuel (a + n) (bs.drop n)

/-- MEM's supply and clocks are gone, or not back yet (R83, R299). -/
def State.memGone (s : State) : Bool :=
  let p := s.pwr.doms.get 2
  p != .up && p != .quiescing && p != .saved

/-- A request reaches DRAM: before the SRE command it aborts the self-refresh entry; after it, it is held
while MEM exits self-refresh, and then served, with no abort counted (R86, R299).  At level 1 it ungates
MEM's clocks (R81). -/
def State.memWake (s : State) : State :=
  if s.pwr.doms.get 2 = .saved then
    { s with pwr := { s.pwr with doms := s.pwr.doms.set 2 .up }, aon := { s.aon with ddrKept := false } }
  else if s.pwr.doms.get 2 = .quiescing then
    let p : Pwr := { s.pwr with doms := s.pwr.doms.set 2 .up, memRetry := true }
    (({ s with pwr := p }).incSat pgPWR PWR_SR_ABORTS_COUNT).raise pgPWR 2
  else if s.eff 2 = 1 then
    { s with pwr := { s.pwr with ungated := s.pwr.ungated.set 2 true } }
  else s

/-- Where a DRAM address lies in its channel (R286): rank, bank field, row and column. -/
def decodeAddr (geom a : Nat) : Nat × Nat × Nat × Nat :=
  let b := if geom % 2 = 1 then 4 else 5
  let r := if geom / 2 % 2 = 1 then 17 else 16
  let order := min (geom / 16 % 4) 2
  let col := a / 256 % 64
  let u := a / 256 / 64
  let row := if order = 1 then u % 2 ^ r else u / 2 ^ b % 2 ^ r
  let bank :=
    if order = 0 then u % 2 ^ b
    else if order = 1 then u / 2 ^ r % 2 ^ b
    else (u % 2 ^ b) ^^^ (row % 2 ^ b)
  (u / 2 ^ (b + r), bank, row, col)

/-- The geometry is one of the table of R281: with two ranks only x8 devices of 16 Gb. -/
def geomOk (geom : Nat) : Bool :=
  let x16 := geom % 2
  let d32 := geom / 2 % 2
  let ranks := geom / 4 % 2
  ranks == 0 || (x16 == 0 && d32 == 0)

/-- A channel's capacity in MiB by its geometry (R281, R286). -/
def geomMib (geom : Nat) : Nat :=
  let x16 := geom % 2
  let d32 := geom / 2 % 2
  let ranks := geom / 4 % 2
  (if x16 = 1 then 8192 else 16384) * (d32 + 1) * (ranks + 1)

/-! ### DRAM errors (R293, R295) -/

def State.chan (s : State) (c : Fin 2) : Chan := s.drc.chans.get c

def State.updChan (s : State) (c : Fin 2) (g : Chan → Chan) : State :=
  { s with drc := { s.drc with chans := s.drc.chans.set c.val (g (s.drc.chans.get c)) } }

/-- The channel number of an address as an index. -/
def chanFin (a : Nat) : Fin 2 := if chanOf a = 0 then 0 else 1

/-- Record an error (`DRC_ERR_ADDR`, `DRC_ERR_INFO`). -/
def State.errRecord (s : State) (a sub beat bit : Nat) (ue scrub : Bool) : State :=
  let p := pgDRAM (chanOf a)
  let s1 := s.wr2 p DRC_ERR_ADDR_LO_ADDR DRC_ERR_ADDR_HI_ADDR a
  let s2 := (s1.wrBit p DRC_ERR_INFO_UE ue).wr p DRC_ERR_INFO_SUB sub
  ((s2.wr p DRC_ERR_INFO_BEAT beat).wr p DRC_ERR_INFO_BIT bit).wrBit p DRC_ERR_INFO_SCRUB scrub

/-- A codeword read with one bad bit: corrected, counted, and raised after 1 s without one. -/
def State.dramCe (s : State) (a sub beat bit : Nat) (scrub : Bool) : State :=
  let c := chanFin a
  let p := pgDRAM c.val
  let s1 := (s.incSat p DRC_CE_N).errRecord a sub beat bit false scrub
  let quiet := match (s.chan c).ceAt with
    | none => true
    | some t => decide (t + 1000000000 ≤ s.now)
  let s2 := s1.updChan c (fun x => { x with ceAt := some s.now })
  if quiet then s2.raise p 0 else s2

/-- A codeword read that cannot be corrected. -/
def State.dramUe (s : State) (a sub beat : Nat) (scrub : Bool) : State :=
  let p := pgDRAM (chanOf a)
  ((s.incSat p DRC_UE_N).errRecord a sub beat 63 true scrub).raise p 1

/-- One codeword found in error, as the operand gives it. -/
def State.beatErr (s : State) (e : BeatErr) (scrub : Bool) : State :=
  match e.bit with
  | some b => s.dramCe e.addr.toNat (b2n e.sub) e.beat.toNat b.toNat scrub
  | none => s.dramUe e.addr.toNat (b2n e.sub) e.beat.toNat scrub

/-- Codewords of a range that are stored poisoned and that a channel in service reads: they decode as
uncorrectable (R294). -/
def State.storedBad (s : State) (a n : Nat) : List Nat :=
  s.poison.filter (fun c => decide (c < a + n) && decide (a < c + 4) && s.byteOk c && decide (c < sramBase))

def State.storedErrs (s : State) (a n : Nat) (scrub : Bool) : State :=
  (s.storedBad a n).foldl (fun t c => t.dramUe c (subOf c) (c % 64 / 4) scrub) s

/-! ### What a port serves (R286, R287, R292, R293) -/

/-- A range of DRAM in pieces that do not cross a 64-byte boundary: address and length. -/
def granules : Nat → Nat → Nat → List (Nat × Nat)
  | 0, _, _ => []
  | fuel + 1, a, n =>
    if n = 0 then []
    else
      let k := min n (64 - a % 64)
      (a, k) :: granules fuel (a + k) (n - k)

/-- A port's requests leave their rows open: as `PAGE` says, or by the port's hint (R287, R292). -/
def State.hintOpen (s : State) (port : Nat) : Bool :=
  let page := s.rd pgDRC (DRC_PORT_CFG_PAGE port)
  if page = 1 then true else if page = 2 then false else decide (port < 2)

/-- Rows that a hit in the last 200 ns keeps open (R292). -/
def Chan.openRows (c : Chan) (now : Nat) : List OpenRow :=
  c.rows.filter (fun r => decide (now < r.hitAt + 200))

/-- A piece is transferred for a port: its burst, the row it leaves open, and the bytes counted on its
channel. -/
def State.burst (s : State) (port : Nat) (write : Bool) (x : Nat × Nat) : State :=
  if s.byteOk x.1 then
    let c := chanFin x.1
    let d := decodeAddr (s.chan c).geom x.1
    let sub := subOf x.1
    let stands := (s.chan c).openRows s.now
    let same (r : OpenRow) : Bool := r.sub == sub && r.rank == d.1 && r.bank == d.2.1
    let hit := stands.any (fun r => same r && r.row == d.2.2.1)
    let kept := stands.filter (fun r => !same r)
    let stay : List OpenRow :=
      if s.hintOpen port then
        [{ sub := sub, rank := d.1, bank := d.2.1, row := d.2.2.1, hitAt := s.now }]
      else []
    ((s.updChan c (fun y => { y with rows := kept ++ stay })).add2 (pgDRAM c.val) DRC_BYTES_LO_N
      DRC_BYTES_HI_N x.2).emit
      (.burst port c.val sub d.1 d.2.1 d.2.2.1 d.2.2.2 write hit (!s.hintOpen port))
  else s

def State.bursts (s : State) (port a n : Nat) (write : Bool) : State :=
  (granules (n / 64 + 2) a n).foldl (fun t x => t.burst port write x) s

/-- Where a channel's armed folly 1 or 2 finds its beat in a read: the codeword's address. -/
def State.follyBeat (s : State) (c : Fin 2) (a n : Nat) : Option Nat :=
  let p := pgDRAM c.val
  if s.follyOn p 1 || s.follyOn p 2 then
    let v := s.follyParam p
    (((granules (n / 64 + 2) a n).filter (fun x =>
        s.byteOk x.1 && chanOf x.1 == c.val && subOf x.1 == v / 1024 % 2)).map
      (fun x => (x, x.1 / 64 * 64 + 4 * (v / 64 % 16)))).findSome?
      (fun x => if x.2 < x.1.1 + x.1.2 ∧ x.1.1 < x.2 + 4 then some x.2 else none)
  else none

/-- The channel's folly spoils one beat on its way; the address it leaves uncorrectable, if so. -/
def State.follyRead (s : State) (c : Fin 2) (a n : Nat) (scrub : Bool) : State × List Nat :=
  match s.follyBeat c a n with
  | none => (s, [])
  | some w =>
    let p := pgDRAM c.val
    let v := s.follyParam p
    let beat := v / 64 % 16
    let s1 := s.inject p
    if s.follyOn p 1 then (s1.dramCe w (subOf w) beat (v % 64) scrub, [])
    else (s1.dramUe w (subOf w) beat scrub, [w])

/-- Errors found in reading a range: those of the operand, those stored, those a folly makes. The second
answer holds the codewords that cannot be corrected (R293). -/
def State.readErrs (s : State) (a n : Nat) (errs : List BeatErr) (scrub : Bool) : State × List Nat :=
  let mine := errs.filter (fun e =>
    decide (a ≤ e.addr.toNat) && decide (e.addr.toNat < a + n) && s.byteOk e.addr.toNat)
  let s1 := mine.foldl (fun t e => t.beatErr e scrub) s
  let s2 := s1.storedErrs a n scrub
  let (s3, u0) := s2.follyRead 0 a n scrub
  let (s4, u1) := s3.follyRead 1 a n scrub
  let lost := (mine.filter (fun e => e.bit.isNone)).map (fun e => e.addr.toNat / 4 * 4)
  (s4, s.storedBad a n ++ lost ++ u0 ++ u1)

/-- The poison tag of byte `i` of a read, by the uncorrectable codewords (R293). -/
def tagged (a n : Nat) (bad : List Nat) (i : Nat) : Bool :=
  if n ≤ 256 then !bad.isEmpty else bad.any (fun w => w / 256 == (a + i) / 256)

/-- A byte of DRAM as a request reads it: 0 where no memory in service holds it (R284, R305). -/
def State.devByte (s : State) (a : Nat) : Byte := if s.byteOk a then s.byte a else 0

def State.devBytes (s : State) (a n : Nat) : List Byte :=
  (List.range n).map (fun i => s.devByte (a + i))

/-- A transfer joins those of the last 10 µs (R291). -/
def State.granted (s : State) (port units : Nat) : State :=
  let g : Grant := { time := s.now, bulk := decide (2 ≤ port), units := units }
  let past := s.drc.grants.filter (fun x => decide (s.now < x.time + 10000))
  { s with drc := { s.drc with grants := g :: past } }

/-- 64-byte units of a range. -/
def unitsOf (a n : Nat) : Nat := (a % 64 + n + 63) / 64

/-- DRAM is read for a port: data and poison tags; zeros where nothing serves it (R284, R293, R299). -/
def State.dramRead (s : State) (port a n : Nat) (errs : List BeatErr) : State × List Byte × List Bool :=
  if s.memGone then
    (s.wr pgPWR UNIT_STATUS_LOCK_VIOL 1, List.replicate n 0, List.replicate n true)
  else
    let (s1, bad) := s.readErrs a n errs false
    let s2 := (s1.bursts port a n false).granted port (unitsOf a n)
    let s3 := match (granules (n / 64 + 2) a n).find? (fun x => !s.byteOk x.1) with
      | some x => s2.reqErr x.1
      | none => s2
    (s3, s.devBytes a n, (List.range n).map (tagged a n bad))

/-- DRAM is written for a port: what meets no memory in service is dropped (R284, R299, R305). -/
def State.dramWrite (s : State) (port a : Nat) (bs : List Byte) (tags : List Bool) : State :=
  if s.memGone then s.wr pgPWR UNIT_STATUS_LOCK_VIOL 1
  else
    let ps := pieces (bs.length / 64 + 2) a bs
    let s1 := ps.foldl
      (fun t x =>
        if t.byteOk x.1 then t.storeTagged x.1 x.2 ((tags.drop (x.1 - a)).take x.2.length) else t) s
    let s2 := match ps.find? (fun x => !s.byteOk x.1) with
      | some x => s1.reqErr x.1
      | none => s1
    (s2.bursts port a bs.length true).granted port (unitsOf a bs.length)

/-- A request is served at its port (R284, R286, R287, R293, R294, R299). -/
def State.serveReq (s : State) (q : DramReq) : State :=
  match q.write with
  | some bs =>
    s.dramWrite q.port q.addr (bs.take q.len) (List.replicate (min q.len bs.length) q.poison)
  | none =>
    let (s1, data, tags) := s.dramRead q.port q.addr q.len q.errs
    s1.emit (.dramData q.port data tags)

/-- The requests that wait at a port; they leave it in order of arrival. -/
def State.waitingAt (s : State) (p : Nat) : List DramReq := s.drc.queue.filter (fun q => q.port == p)

/-- What waits at a port goes before a request that arrives: each leaves in order of arrival, and a read
finds what an earlier write of its port wrote (R287, R289). -/
def State.serveAll (s : State) (port : Nat) : State :=
  (s.waitingAt port).foldl State.serveReq
    { s with drc := { s.drc with queue := s.drc.queue.filter (fun q => q.port != port) } }

/-- A request of one of the device's units, of the window or of the copy engine arrives at a port. -/
def State.arrive (s : State) (port : Nat) : State := if s.memGone then s else s.memWake.serveAll port

/-- A read of DRAM through a port. -/
def State.portRead (s : State) (port a n : Nat) (errs : List BeatErr) :
    State × List Byte × List Bool :=
  (s.arrive port).dramRead port a n errs

/-- A write to DRAM through a port. -/
def State.portWrite (s : State) (port a : Nat) (bs : List Byte) (tags : List Bool) : State :=
  (s.arrive port).dramWrite port a bs tags

/-- A read by one of the device's units, of DRAM through its port or of SRAM. -/
def State.readMem (s : State) (port a n : Nat) : State × List Byte × List Bool :=
  if a < sramBase then s.portRead port a n [] else s.sramRead a n

/-- A write by one of the device's units, of clean data. -/
def State.writeMem (s : State) (port a : Nat) (bs : List Byte) : State :=
  if a < sramBase then s.portWrite port a bs (List.replicate bs.length false) else s.store a bs false

end Sys2Proof.Machine
end

