-- ==== Sys2Proof/Machine/CutOps.lean ====
section
/-! DEFINITION. The strobe pads behind the firing pages: the generator's output, cuts and ESTOP
(R211–R217). -/

namespace Sys2Proof.Machine

def firNone : Fir :=
  { trainEnd := 0, train := none, deferred := [], missed := false, clamped := false, tValid := false,
    tempAt := none, sample := none, gen := [], fires := [], rearm := false, bins := [],
    judgedAt := none }

def State.firOf (s : State) (h : Nat) : Fir := (s.fir.toList[h]?).getD firNone

def State.updFir (s : State) (h : Nat) (g : Fir → Fir) : State :=
  if hh : h < 32 then { s with fir := s.fir.set h (g (s.fir.get ⟨h, hh⟩)) } else s

/-- Spans that end at the latest at `t`. -/
def clipAt (t : Nat) (l : List (Nat × Nat)) : List (Nat × Nat) :=
  (l.filter (fun p => decide (p.1 < t))).map (fun p => (p.1, min p.2 t))

/-- What is left of spans from `t` on. -/
def restFrom (t : Nat) (l : List (Nat × Nat)) : List (Nat × Nat) :=
  (l.filter (fun p => decide (t < p.2))).map (fun p => (max p.1 t, p.2))

/-- The pad stops driving "fire" now. -/
def State.padStops (s : State) (h : Nat) : State :=
  s.updFir h (fun f => { f with fires := clipAt (4 * s.now) f.fires })

/-- A train runs at the head's generator. -/
def State.trainRuns (s : State) (h : Nat) : Bool :=
  let f := s.firOf h
  f.gen.any (fun p => decide (4 * s.now < p.2)) || (f.train.isSome && decide (s.now < f.trainEnd))

/-- The generator's output is high now. -/
def State.genHigh (s : State) (h : Nat) : Bool :=
  (s.firOf h).gen.any (fun p => decide (p.1 ≤ 4 * s.now) && decide (4 * s.now < p.2))

/-- The pad has not driven "fire" for 5 µs (R214). -/
def State.padQuiet (s : State) (h : Nat) : Bool :=
  (s.firOf h).fires.all (fun p =>
    decide (4 * s.now ≤ p.1) || decide (min p.2 (4 * s.now) + 20000 ≤ 4 * s.now))

/-- How long the pad drove "fire" from `a` to `b` ns, in steps of 250 ps. -/
def State.fireSteps (s : State) (h a b : Nat) : Nat :=
  ((s.firOf h).fires.map (fun p => min p.2 (4 * b) - max p.1 (4 * a))).sum

/-- The head's strobe watchdog has cut it. -/
def State.isCut (s : State) (h : Nat) : Bool := s.bit (pgFIR h) FIR_CUT_STAT_CUT

/-- A cut (R213): the pad drives "no fire" at once. Cause 1 stuck strobe, 2 duty, 3 ESTOP. -/
def State.cutHead (s : State) (h cause : Nat) : State :=
  let p := pgFIR h
  let was := s.isCut h
  let s1 := s.padStops h
  let mask := s1.rd pgFIRroot FIR_CUT_MASK_HEADS
  let s2 := (s1.wr p FIR_CUT_STAT_CUT 1).wr pgFIRroot FIR_CUT_MASK_HEADS (mask ||| 2 ^ h)
  let s3 := if was && cause != 3 then s2 else s2.wr p FIR_CUT_STAT_CAUSE cause
  (s3.incSat p FIR_CUT_STAT_COUNT).raise p (if cause = 2 then 1 else 0)

/-- The falling edge of ESTOP_IN# (R217): cuts on every present head, re-arms cancelled, and the
record of the heads whose strobe was active: an uncut head whose train runs, between two of its sub-pulses
as well (DESIGN CHOICE, log 109). -/
def State.estopEdge (s : State) : State :=
  let hs := List.range s.part.heads
  let active := hs.foldl
    (fun m h => if s.trainRuns h && !s.isCut h then m + 2 ^ h else m) 0
  let s1 := hs.foldl
    (fun t h => (t.updFir h (fun f => { f with rearm := false })).cutHead h 3) s
  let s2 := (s1.wr pgFIRroot FIR_ESTOP_LATCHED 1).incSat pgFIRroot FIR_ESTOP_COUNT
  if s2.levelOf .sys = 2 then s2.record 0x3002 pgFIRroot active else s2

/-- PRINT has risen to level 2: with ESTOP_IN# low that counts as a falling edge (R217). -/
def State.printBack (before s : State) : State :=
  if before.levelOf .print ≠ 2 ∧ s.levelOf .print = 2 ∧ !s.aon.estop then s.estopEdge else s

/-- The stuck limit in use, in ns (R211). -/
def State.maxHighNs (s : State) (h : Nat) : Nat :=
  40 * min (max (s.rd pgFIRroot (FIR_WD_CFG_MAX_HIGH h)) 1) (s.rd pgFIRroot FIR_WD_CEIL_CEIL)

/-- The duty limit in use, in ns of the last 1,000 µs (R212). -/
def State.dutyNs (s : State) (h : Nat) : Nat :=
  10000 * min (max (s.rd pgFIRroot (FIR_WD_CFG_DUTY_PCT h)) 1) 100

/-- The pad's fire time of the last 1,000 bins, in steps of 250 ps. -/
def Fir.duty (f : Fir) : Nat := f.bins.sum

/-- Release a head: what the generator still issues reaches the pad (R214). -/
def State.releaseHead (s : State) (h : Nat) : State :=
  let p := pgFIR h
  let mask := s.rd pgFIRroot FIR_CUT_MASK_HEADS
  let s1 := (s.updFir h (fun f =>
    { f with rearm := false, fires := f.fires ++ restFrom (4 * s.now) f.gen })).wr p FIR_CUT_STAT_CUT 0
  let s2 := s1.wr pgFIRroot FIR_CUT_MASK_HEADS (if mask / 2 ^ h % 2 = 1 then mask - 2 ^ h else mask)
  if (List.range s2.part.heads).any
      (fun g => s2.isCut g && decide (s2.rd (pgFIR g) FIR_CUT_STAT_CAUSE = 3)) then s2
  else s2.wr pgFIRroot FIR_ESTOP_LATCHED 0

end Sys2Proof.Machine
end

