-- ==== Sys2Proof/Machine/Commit.lean ====
section
/-! DEFINITION. Arming, cancelling, rejecting and applying a commit (R47–R52), without what each
unit does when its new values become active. -/

namespace Sys2Proof.Machine

/-- Whether a word of a kind holds a shadowed field. -/
def hasShadow (kd : Kind) (off : Nat) : Bool := (fieldsAt kd off).any (fun r => r.acc == .rws)

def onPage (page key : Nat) : Bool := decide (key / 4096 = page)

/-- Every shadowed word of the page becomes active, in one step (R47). -/
def State.copyShadow (s : State) (page : Nat) : State :=
  match s.kind page with
  | none => s
  | some kd =>
    let fresh := s.regs.filter (fun e => onPage page e.1 && hasShadow kd (e.1 % 4096))
    let below := s.act.filter (fun e => decide (e.1 / 4096 < page))
    let above := s.act.filter (fun e => decide (page < e.1 / 4096))
    { s with act := below ++ fresh ++ above }

/-- No commit is pending on the page any more, and `WHEN` reads 0. -/
def State.clearCommit (s : State) (page : Nat) : State :=
  let rest := s.commits.filter (fun e => e.1 != page)
  ({ s with commits := rest }).wr page UNIT_COMMIT_WHEN 0

/-- Reject a commit whole (R50). -/
def State.rejectCommit (s : State) (r : Req) (page err pair : Nat) : State :=
  let s1 := (s.clearCommit page).wr page UNIT_COMMIT_STAT_ERR err
  let s2 := if err = 1 then s1.wr page UNIT_COMMIT_STAT_PAIR pair else s1
  (s2.wr page UNIT_STATUS_COMMIT_ERR 1).regAlert page 0x024 r err 3

/-- A commit takes effect: the shadow becomes active, `DONE` is set, `COUNT` grows (R47). -/
def State.applyShadow (s : State) (page : Nat) : State :=
  (((s.copyShadow page).clearCommit page).wr page UNIT_COMMIT_STAT_DONE 1).inc page
    UNIT_COMMIT_STAT_COUNT

/-- Record an armed commit. -/
def State.armAs (s : State) (page : Nat) (c : Commit) : State :=
  ({ s with commits := (page, c) :: s.commits }).wr page UNIT_COMMIT_WHEN c.mode

def State.commitPos (s : State) (page : Nat) : Pos :=
  BitVec.ofNat 48 (s.rd2 page UNIT_COMMIT_POS_LO_POS UNIT_COMMIT_POS_HI_POS)

/-- Arm a commit of mode 1–4, or reject it (R47, R48, R50). -/
def State.armCommit (s : State) (r : Req) (page mode : Nat) (own : Bool) : State :=
  let p := s.commitPos page
  match headOfPage s.part page with
  | some h =>
    if mode = 1 then s.armAs page 
      { mode := 1, line := none, pos := none, mark := none, reached := false, own := own, by_ := r }
    else
      match s.selectLine h mode p with
      | .inl n => s.armAs page
          { mode := mode, line := some n, pos := if mode = 4 then some p else none, mark := none,
            reached := false, own := own, by_ := r }
      | .inr err => s.rejectCommit r page err 0
  | none =>
    if mode = 4 then
      if ahead p s.pos then
        s.armAs page
          { mode := 4, line := none, pos := some p, mark := some s.hwm, reached := false, own := own,
            by_ := r }
      else s.rejectCommit r page 3 0
    else
      s.armAs page
        { mode := mode, line := none, pos := none, mark := if mode = 1 then none else some s.hwm,
          reached := false, own := own, by_ := r }

/-- A calibration that ends without success (R99): its learned values may stay in the shadow. -/
def State.encAbandon (s : State) (n : Fin 3) : State :=
  let e := s.enc.get n
  let st := s.rd (pgENC n) UNIT_STATUS_STATE
  let s1 := { s with enc := s.enc.set n.val { e with cal := .idle } }
  let s2 := (s1.wr (pgENC n) ENC_CAL_STAT_ABANDONED 1).setBusy (pgENC n) false
  if st = 2 then s2.setState (pgENC n) 1 else s2

/-- The encoder whose page this is. -/
def encOfPage (page : Nat) : Option (Fin 3) :=
  if page = pgENC 0 then some 0 else if page = pgENC 1 then some 1
  else if page = pgENC 2 then some 2 else none

/-- The results of a fit go to the shadow and the self-commit is armed: at the next print page of
the reference channel, or at once where that channel does not run (R99). -/
def State.encSelfCommit (s : State) (n : Fin 3) (ofs gain : Word) (phi : BitVec 16) : State :=
  let p := pgENC n
  let e := s.enc.get n
  let s1 := ((s.setWord p 0x04C ofs).setWord p 0x050 gain).wr p ENC_PHASE_PHI phi.toNat
  let s2 := { s1 with enc := s1.enc.set n.val { e with cal := .armed } }
  s2.armCommit .host p (if s.refRunning then 3 else 1) true

/-- After a commit on an encoder's page has taken effect, been rejected or been cancelled: a fit
whose self-commit it was is abandoned unless it took effect, one that was held back is armed. -/
def State.encAfter (s : State) (page : Nat) (own tookEffect : Bool) : State :=
  match encOfPage page with
  | none => s
  | some n =>
    match (s.enc.get n).cal with
    | .armed => if own && !tookEffect then s.encAbandon n else s
    | .holding ofs gain phi => s.encSelfCommit n ofs gain phi
    | _ => s

/-- ALIGN ends with a result (R269). -/
def State.alignEnd (s : State) (k result : Nat) : State :=
  let s1 := ({ s with qlp := { s.qlp with align := none } }).setBusy pgQLP false
  (s1.wr pgQLP QLP_ALIGN_STAT_RESULT result).wr pgQLP QLP_ALIGN_STAT_CAM k

/-- After ALIGN's own commit: the result stands with its effect; rejected or cancelled, no peak was
committed (R269; log 61). -/
def State.alignAfter (s : State) (page : Nat) (own tookEffect : Bool) : State :=
  match s.qlp.align with
  | none => s
  | some a =>
    if page ≠ pgQLP ∨ !own then s
    else if tookEffect then ((s.alignEnd a.cam 1).incSat pgQLP QLP_ALIGN_STAT_COUNT).calDone 5
    else (s.alignEnd a.cam 2).raise pgQLP 2

/-- After a commit on a page ended without effect: who armed it for itself learns of it. -/
def State.selfAfter (s : State) (page : Nat) (own : Bool) : State :=
  (s.encAfter page own false).alignAfter page own false

/-- A commit that ends without effect: rejected with `err`. -/
def State.dropCommit (s : State) (page err pair : Nat) : State :=
  match s.commitOf page with
  | none => s
  | some c => (s.rejectCommit c.by_ page err pair).selfAfter page c.own

/-- Writing `WHEN` = 0 cancels a pending commit and keeps the shadow (R47). -/
def State.cancelCommit (s : State) (page : Nat) : State :=
  match s.commitOf page with
  | none => s
  | some c => (s.clearCommit page).selfAfter page c.own

/-- A nonzero `WHEN` as the page takes it: dropped while a commit is pending (R49), rejected for 5
to 15 (R50), else armed. -/
def State.writeWhen (s : State) (r : Req) (page mode : Nat) : State :=
  if mode = 0 then s.cancelCommit page
  else if (s.commitOf page).isSome then s.dropWrite r page 0x024
  else if 5 ≤ mode then s.rejectCommit r page 2 0
  else s.armCommit r page mode false

/-- A write of `UNIT_COMMIT.WHEN` that reaches its page. -/
def writeCommit (r : Req) (page mode : Nat) (s : State) : State :=
  s.access r page 0x024 (fun t => t.writeWhen r page mode)

/-- STOP of a head's schedule rejects every commit of modes 2 to 4 on the head's pages (R50, R120). -/
def State.dropHeadCommits (s : State) (h : Nat) : State :=
  [pgHSC h, pgTRL h, pgFIR h, pgONK h].foldl
    (fun t p =>
      match t.commitOf p with
      | some c => if c.mode = 1 then t else t.dropCommit p 4 0
      | none => t) s

end Sys2Proof.Machine
end

