-- ==== Sys2Proof/Machine/PowerOps.lean ====
section
/-! DEFINITION. PLLs, power domains, reset levels and the stages of start-up, as operations that the
commands share (R58–R72, R75–R91). -/

namespace Sys2Proof.Machine

/-! ### PLLs (R58, R59, R62) -/

def Pll.none : Pll := { phase := .off, target := 0, next := 0, byCmd := false }

def State.pll (s : State) (n : Nat) : Pll := (s.plls.toList[n]?).getD Pll.none

def State.setPll (s : State) (n : Nat) (p : Pll) : State :=
  if h : n < 15 then { s with plls := s.plls.set n p } else s

/-- The domain with which a PLL stops (R74). -/
def pllDom (n : Nat) : Dom :=
  if n = 0 then .sys else if n < 6 then .print else if n < 8 then .mem
  else if n < 12 then .print else if n < 14 then .net else .host

/-- Whether the part runs a PLL while its domain is up (R57, R59). -/
def State.pllWanted (s : State) (n : Nat) : Bool :=
  if n < 2 then true
  else if n < 6 then decide (n - 2 < s.part.clusters)
  else if n < 8 then true
  else if n < 12 then (List.range 8).any (fun i => s.bit (pgONK (8 * (n - 8) + i)) UNIT_CTRL_ENABLE)
  else if n < 14 then s.bit (pgNET (n - 12)) UNIT_CTRL_ENABLE || s.listening (n - 12)
  else true

/-- A PLL stops: not locked, its domains on the bypass clock (R59).  A RELOCK under way completes only once
its domains are back on its output (R61; log 25). -/
def State.stopPll (s : State) (n : Nat) : State :=
  ((s.setPll n { s.pll n with phase := .off }).wr pgCLK (CLK_PLL_STAT_LOCKED n) 0).wr
    pgCLK (CLK_PLL_STAT_BYPASS n) 1

/-- A PLL begins to lock, its domains on the bypass clock (R62): to the target of its last RELOCK, or that
of start-up, whatever `TARGET` has been written since (log 25). -/
def State.startPll (s : State) (n : Nat) : State :=
  ((s.setPll n { s.pll n with phase := .locking, target := (s.pll n).next }).wr pgCLK (CLK_PLL_STAT_LOCKED n) 0).wr
    pgCLK (CLK_PLL_STAT_BYPASS n) 1

/-- A PLL is locked (R62). -/
def State.pllLocked (s : State) (n : Nat) : Bool :=
  (s.pll n).phase == .locked || (s.pll n).phase == .out

/-- The part has the balls of a PLL's reference: REFCLK_ONK*g* only with heads of its group (R34). -/
def refPresent (p : Part) (n : Nat) : Bool := !(8 ≤ n && n < 12 && p.heads ≤ 8 * (n - 8))

/-- A PLL's reference is sensed: the crystal always, one outside while its domain has its supply (R21, R34). -/
def State.refSensed (s : State) (n : Nat) : Bool :=
  decide (n < 8) ||
    (refPresent s.part n &&
      match s.pwr.doms.get (pllDom n).num with
      | .down | .supplying | .opening _ => false
      | _ => true)

/-- `REF_OK` shows the reference where it is sensed; where its input is off it reads 0 (R60; log 25). -/
def State.showRef (s : State) (n : Nat) : State :=
  s.wrBit pgCLK (CLK_PLL_STAT_REF_OK n) (s.refSensed n && (s.aon.refs.toList[n]?).getD true &&
    (decide (8 ≤ n) || s.aon.xtal))

/-- Start or stop the PLLs of Onlek groups and ports as their lanes and ports come and go (R59). -/
def State.laneClocks (s : State) : State :=
  [8, 9, 10, 11, 12, 13].foldl
    (fun t n =>
      let up := decide (t.levelOf (pllDom n) ≠ 0)
      if t.pllWanted n && up && (t.pll n).phase == .off then t.startPll n
      else if !t.pllWanted n && (t.pll n).phase != .off then t.stopPll n
      else t) s

/-- The targets R58 allows a PLL; for PLL_PCIE the table lists none, so that any is BAD_ARG
(DESIGN CHOICE, log 25). -/
def targetAllowed (n v : Nat) : Bool :=
  if n = 0 then v == 1000 else if n = 1 then v == 500
  else if n < 6 then decide (250 ≤ v) && decide (v ≤ 1000) && v % 50 == 0
  else if n < 8 then v == 400 || v == 600 || v == 700 || v == 800
  else if n < 12 then decide (v ≤ 2)
  else if n < 14 then decide (v ≤ 1)
  else false

/-- Whether R58 permits a relock of the PLL now. -/
def State.relockPermitted (s : State) (n : Nat) : Bool :=
  if n < 2 then false
  else if n < 6 then true
  else if n < 8 then !s.bit (pgDRAM (n - 6)) UNIT_CTRL_ENABLE
  else if n < 12 then
    (List.range 8).all (fun i => !s.bit (pgONK (8 * (n - 8) + i)) UNIT_CTRL_ENABLE)
  else if n < 14 then !s.bit (pgNET (n - 12)) UNIT_CTRL_ENABLE
  else false

/-- The nominal output of a PLL at a target, in kHz (R57, R58): the lane rate over 66 for Onlek and
receive clocks, the data rate over 8 for DRAM. -/
def pllKhz (n target : Nat) : Nat :=
  if n < 8 then target * 1000
  else if n < 12 then (if target = 0 then 47348 else if target = 1 then 94697 else 189394)
  else if n < 14 then (if target = 0 then 390625 else 156250)
  else 500000

/-! ### Domains (R75–R86) -/

/-- The order in which domains drop; they rise in the reverse order (R83). -/
def dropOrder : List (Fin 7) := [5, 4, 3, 6, 1, 2, 0]

def State.phase (s : State) (d : Fin 7) : DomPhase := s.pwr.doms.get d

def State.setPhase (s : State) (d : Fin 7) (p : DomPhase) : State :=
  { s with pwr := { s.pwr with doms := s.pwr.doms.set d.val p } }

def State.pllsOf (d : Fin 7) : List Nat := (List.range 15).filter (fun n => (pllDom n).num == d)

/-- NET is back at level 2: every time base that is enabled holds a stale count (R320). -/
def State.netBack (before s : State) : State :=
  if before.levelOf .net ≠ 2 ∧ s.levelOf .net = 2 then
    [0, 1, 2, 3].foldl
      (fun t i => if t.bit (pgTB i) UNIT_CTRL_ENABLE then t.wr (pgTB i) TB_STATUS_STALE 1 else t) s
  else s

/-- SYS is back at level 2: the watch of the Groundskeeper begins afresh (R80), entries held back are
written (R386), and `STATE_CHANGE`, a rail timeout and a wake that waited for it are raised (R78, R85,
R91). -/
def State.sysBack (s : State) : State :=
  let s2 := { s with wrd := { s.wrd with kickAt := s.now } }
  let s3 := s2.gbkFlushLate
  let s4 := s3.raise pgPWR 0
  let s5 := if s4.aon.wakePending then
      ({ s4 with aon := { s4.aon with wakePending := false } }).raiseD pgPWR 1
        ((s4.statusWord pgPWR).toNat + 2 ^ 32 * (s4.word pgPWR 0x06C).toNat)
    else s4
  if s5.aon.railTimeout then
    ({ s5 with aon := { s5.aon with railTimeout := false } }).raise pgPWR 3 else s5

/-- SYS came back to level 2, by a vote, a rise, or an access of the Groundskeeper's (R80). -/
def State.sysReturns (s : State) : Bool := s.pwr.sysLow && s.levelOf .sys == 2

/-- The sequencer looks at SYS, and brings about what waited for its return. -/
def State.sysFollow (s : State) : State :=
  if s.sysReturns then ({ s with pwr := { s.pwr with sysLow := false } }).sysBack
  else { s with pwr := { s.pwr with sysLow := decide (s.levelOf .sys ≠ 2) } }

/-- A domain is up, for the first time or again: kiosks rejoin the pool with PRINT, and MEM's own pads
take over from the keepers of R23. -/
def State.backUp (s : State) (d : Fin 7) : State :=
  let s1 := s.setPhase d .up
  if d = 4 then { s1 with pwr := { s1.pwr with poolOut := false, poolMove := true } }
  else if d = 2 then { s1 with aon := { s1.aon with ddrKept := false } }
  else s1

/-- A domain with its clocks running again: its state is restored, its clamps release (R83), and
what waits for its level 2 happens. -/
def State.domainUp (s : State) (d : Fin 7) : State :=
  let s1 := s.backUp d
  (s.printBack (s.netBack s1)).sysFollow

def State.rising (s : State) : Bool :=
  s.pwr.doms.toList.any (fun p => p == .supplying || p == .locking)

/-- A domain is in its drop. -/
def DomPhase.dropping : DomPhase → Bool
  | .quiescing | .saved | .opening _ => true
  | _ => false

/-- A domain whose level rises during its drop: before its switch opens the steps are reversed, after
that the drop goes on to its end; `DROP_ABORT` in either case (R84). -/
def State.abortDrop (s : State) (d : Fin 7) : State :=
  if s.eff d.val = 0 then s
  else
    match s.phase d with
    | .quiescing => (s.backUp d).raise pgPWR 2
    | .saved => (s.backUp d).raise pgPWR 2
    | .opening false => (s.setPhase d (.opening true)).raise pgPWR 2
    | _ => s

/-- Step 1 of a drop begins: with PRINT, every kiosk is to leave the pool (R83). -/
def State.beginDrop (s : State) (d : Fin 7) : State :=
  let s1 := s.setPhase d .quiescing
  if d = 4 then { s1 with pwr := { s1.pwr with poolOut := true, poolMove := true } } else s1

/-- The next domain that its level asks to rise, or to drop, begins to, once no other rises or drops
(R83); a MEM that waits for its retry keeps those after it (R86). -/
def State.react (s0 : State) : State :=
  let s := dropOrder.foldl State.abortDrop s0
  if s.rising || s.railsOut || dropOrder.any (fun d => (s.phase d).dropping) then s
  else
    match dropOrder.reverse.find? (fun d => s.phase d == .down && decide (s.eff d.val ≠ 0)) with
    | some d => { s.setPhase d .supplying with aon := { s.aon with railEn := true } }
    | none =>
      match dropOrder.find? (fun d => s.phase d == .up && decide (s.eff d.val = 0)) with
      | some d => if d = 2 ∧ s.pwr.memRetry then s else s.beginDrop d
      | none => s

/-- Patrol begins: its cycles and violations count afresh (R88, R92). -/
def State.patrolEntry (s : State) : State :=
  let w := { s with pwr := { s.pwr with winCount := Vector.replicate 8 0 } }
  w.wr pgPWR PWR_PATROL_STAT_CYCLES 0

/-- Whatever changes a vote or a dependence: the domains react once start-up has ended, and a change
between Run and Hold raises `STATE_CHANGE`; Patrol may begin (R78, R88). -/
def State.revote (s : State) (f : State → State) : State :=
  let before := s.powerState
  let s1 := f s
  let s2 := s.printBack (s.netBack (if s1.ready then s1.react else s1))
  let after := s2.powerState
  let s3 := if !s2.sysReturns && decide (after ≠ before ∧ after ≤ 2 ∧ before ≤ 2) then s2.raise pgPWR 0 else s2
  let s4 := if s3.ready then s3.sysFollow else s3
  if after = 4 ∧ before ≠ 4 then s4.patrolEntry else s4

/-- A wake (R91), with what brought it about: the votes are loaded, the domains rise, and SYS will raise
`WAKE`; after a rail timeout it is a new attempt (R85). -/
def State.wakeBy (s : State) (f : State → State) : State :=
  s.revote (fun t0 =>
    let t := f t0
    let t1 := t.wr pgPWR (PWR_VOTE_LEVEL 0) (t.rd pgPWR PWR_WAKE_VOTE_LEVEL)
    let t2 := t1.wr pgPWR (PWR_VOTE_LEVEL 1) 0x2AAA
    { t2 with
      aon := { t2.aon with wakePending := true, railEn := t2.aon.railEn || t2.aon.railTimeout,
                           pcieWakeLow := t2.aon.pcieWakeLow || !t2.aon.perst }
      pwr := { t2.pwr with gkpSys := 2 } })

def State.wake (s : State) : State := s.wakeBy id

/-! ### The warden's fault bits (R373) -/

/-- FAULT_OUT# is driven low while any bit of `WRD_FAULT` is 1 (R28, R373). -/
def State.faultOutLow (s : State) : Bool := decide (s.word pgWRD 0x044 ≠ 0)

/-! ### Start-up (R69–R72) -/

def State.setStage (s : State) (n : Nat) : State :=
  (s.wr pgTOP TOP_BOOT_STAGE n).wrBit pgWRD WRD_FAULT_BOOT (n != 7)

/-- Start-up ends at FAILED with its reason (R72). -/
def State.failStage (s : State) (reason : Nat) : State :=
  (s.setStage 15).wr pgTOP TOP_BOOT_FAIL reason

def State.railsGood (s : State) : Bool := s.aon.rails.toList.all id

/-- CLOCKS: every domain of the part is up and its balls are live (R19, R21; DESIGN CHOICE, log 106), the
references outside are sensed and PLL_PCIE starts with HOST (R57, R73); with a qualified crystal PLL_SYS and
PLL_SDL start to lock (R70). -/
def State.enterClocks (s : State) : State :=
  let doms : Vector DomPhase 7 := Vector.ofFn (fun d => if s.part.hasDom d.val then .up else .down)
  let s0 := ({ s with pwr := { s.pwr with doms := doms } }).setStage 1
  let s1 := ([8, 9, 10, 11, 12, 13, 14].foldl State.showRef s0).startPll 14
  if s1.aon.xtal then (s1.startPll 0).startPll 1 else s1

/-! ### Reset levels (R66–R68) -/

/-- A trigger of a DEVICE-level reset, with its cause in `TOP_RESET_CAUSE` (R66, R69). -/
def State.trigger (s : State) (cause : Fld) : State :=
  ({ s with aon := { s.aon with rstPending := true } }).wr pgTOP cause 1

/-- Registers without the entries of a page. -/
def dropPage (page : Nat) (t : Tbl Word) : Tbl Word := t.filter (fun e => !onPage page e.1)

/-- Back to reset: one page's registers, its commit and its follies. -/
def State.resetPage (s : State) (page : Nat) : State :=
  let regs := dropPage page s.regs
  let act := dropPage page s.act
  let commits := s.commits.filter (fun e => e.1 != page)
  let follies := s.follies.filter (fun e => e.1 != page)
  { s with regs := regs, act := act, commits := commits, follies := follies }

/-- A GKP-level reset (R66): the GKP register page, and the Groundskeeper's own copies; its cores are not
halted (R80). -/
def State.gkpReset (s : State) : State :=
  let s1 := s.resetPage pgGKP
  { s1 with gkpSide := { results := [], slots := [], stale := [] }, fsh := { s1.fsh with fetches := [] },
            wrd := { s1.wrd with tcm := [] }, pwr := { s1.pwr with gkpHalted := false } }

end Sys2Proof.Machine
end

