-- ==== Sys2Proof/Machine/SundialOps.lean ====
section
/-! DEFINITION. Sundial's shared operations: an encoder's count moves and the position follows, the
source switches or is lost, speed is measured, an index is judged (R96–R115). -/

namespace Sys2Proof.Machine

def State.encOf (s : State) (n : Fin 3) : Enc := s.enc.get n

def State.updEnc (s : State) (n : Fin 3) (g : Enc → Enc) : State :=
  { s with enc := s.enc.set n.val (g (s.enc.get n)) }

def State.updSdl (s : State) (g : Sdl → Sdl) : State := { s with sdl := g s.sdl }

def State.encCount (s : State) (n : Fin 3) : Pos :=
  BitVec.ofNat 48 (s.rd2 (pgENC n.val) ENC_COUNT_LO_POS ENC_COUNT_HI_POS)

def State.encState (s : State) (n : Fin 3) : Nat := s.rd (pgENC n.val) UNIT_STATUS_STATE

/-- TRACKING for failover and RESUME; a fit goes on tracking (R99, R107). -/
def State.tracking (s : State) (n : Fin 3) : Bool := s.encState n == 1 || s.encState n == 2

/-- An encoder number as a field gives it; 3 acts as 0 for `SOURCE`. -/
def encNum (v : Nat) : Fin 3 := if v = 1 then 1 else if v = 2 then 2 else 0

def State.source (s : State) : Fin 3 := encNum (s.rd pgSDL SDL_STATUS_ACTIVE)

def State.sdlOn (s : State) : Bool := s.bit pgSDL UNIT_CTRL_ENABLE

/-- The check encoder, if one is named (R105). -/
def State.checkEnc (s : State) : Option (Fin 3) :=
  let c := s.ac pgSDL SDL_CFG_CHECK
  if c = 3 then none else some (encNum c)

/-- The check encoder's aligned count less the position (R106; the sign is DESIGN CHOICE, log 97). -/
def State.checkDiff (s : State) : Int :=
  posDiff (BitVec.ofInt 48 (s.sdl.chk.fdiv (2 ^ 24))) s.pos

/-- An encoder is no longer eligible for failover as the check encoder (R106, R128). -/
def State.checkBad (s : State) (n : Fin 3) : State :=
  s.updSdl (fun x => { x with chkOk := x.chkOk.set n.val false })

/-- ALIGN_CHECK makes the check encoder eligible again (R106). -/
def State.checkOk (s : State) : State :=
  match s.checkEnc with
  | none => s
  | some n => s.updSdl (fun x => { x with chkOk := x.chkOk.set n.val true })

/-- Show the difference; past the limit the check encoder is no longer eligible, and `CHECK_DIFF` is
raised once for each time it goes past (R106, log 97). -/
def State.checkShow (s : State) : State :=
  match s.checkEnc with
  | none => s
  | some n =>
    if !s.sdl.chkSet || !s.sdlOn then s
    else
      let d := s.checkDiff
      let past := decide (s.rd pgSDL SDL_CHECK_LIMIT_PU < d.natAbs)
      let s1 := (s.wrS pgSDL SDL_CHECK_DIFF_PU (satInt 32 d)).updSdl
        (fun x => { x with chkOver := past })
      if past then (if s.sdl.chkOver then s1.checkBad n else (s1.checkBad n).raise pgSDL 1) else s1

/-- Align the check encoder to the position (R106). -/
def State.checkAlign (s : State) : State :=
  let s1 := s.updSdl (fun x =>
    { x with chk := (s.pos.toNat : Int) * 2 ^ 24, chkSet := true, chkOver := false })
  if s.checkEnc.isNone then s1 else s1.wrS pgSDL SDL_CHECK_DIFF_PU 0

/-- The position moves with its source; the mark follows it forward unless Sundial is in reverse
(R105, R111). -/
def State.posMove (s : State) (d : Int) : State :=
  let p := s.pos + BitVec.ofInt 48 d
  let s1 := s.setPos p
  if !s.sdl.reverse && ahead p s.hwm then s1.setHwm p else s1

/-- Whole pu in a travel of units of 2⁻¹⁶/1000 pu. -/
def wholePu (x : Int) : Int := x.fdiv 65536000

/-- The encoder supplies the position (R105, R107). -/
def State.supplies (s : State) (n : Fin 3) : Bool :=
  s.sdlOn && s.source == n && !s.sdl.noSource

/-- An encoder's count moves by `d`: its own mark, the position where it is the source, less what it
was extrapolated since, and the check difference (R96, R102, R105, R106, R109). -/
def State.encMove (s : State) (n : Fin 3) (d : Int) : State :=
  let c := s.encCount n + BitVec.ofInt 48 d
  let s1 := s.wr2 (pgENC n.val) ENC_COUNT_LO_POS ENC_COUNT_HI_POS c.toNat
  let s2 := s1.updEnc n (fun e => { e with ext := 0, hwm := if ahead c e.hwm then c else e.hwm })
  if !s2.sdlOn then s2
  else
    let s3 := if s2.supplies n then s2.posMove (d - wholePu (s.encOf n).ext) else s2
    let s4 := if s3.checkEnc = some n then
        s3.updSdl (fun x => { x with chk := x.chk + d * (s3.ac pgSDL SDL_RATIO_R : Int) }) else s3
    s4.checkShow

/-- The speed shown: forced to 0 at standstill and without a source (R107, R110). -/
def State.showSpeed (s : State) : State :=
  let v := if s.sdl.still || s.sdl.noSource then 0 else (s.encOf s.source).speed
  let s1 := s.wrS pgSPD SPD_SPEED_V (satInt 32 v)
  if s.forward then s1.updSdl (fun x => { x with fwdSpeed := satInt 32 v }) else s1

/-- The mean of the speed shown over the ticks of the last millisecond, and its change from one
millisecond to the next (SPD_SPEED_AVG, SPD_ACCEL; log 97). -/
def State.avgSpeed (s : State) : State :=
  let v := s.rdS pgSPD SPD_SPEED_V
  let x := s.sdl
  if s.now < x.avgFrom + 1000000 then
    s.updSdl (fun y => { y with avgSum := y.avgSum + v, avgN := y.avgN + 1 })
  else
    let mean := if x.avgN = 0 then v else x.avgSum.fdiv x.avgN
    let old := s.rdS pgSPD SPD_SPEED_AVG_V
    ((s.wrS pgSPD SPD_SPEED_AVG_V mean).wrS pgSPD SPD_ACCEL_A (satInt 32 (mean - old))).updSdl
      (fun y => { y with avgSum := v, avgN := 1, avgFrom := s.now })

/-- Speed over a full window of `n` points, 16.16 pu/µs: travel over time (R109); with no time
between them, or fewer points, the speed stays. -/
def windowSpeed (n : Nat) (pts : List (Nat × Pos)) (old : Int) : Int :=
  match pts.head?, pts.getLast? with
  | some (t1, p1), some (t0, p0) =>
    if pts.length = n ∧ t0 < t1 then (posDiff p1 p0 * 65536 * 1000).fdiv ((t1 - t0 : Nat) : Int) else old
  | _, _ => old

/-- Measure speed after a sample or an edge at time `t` (R109). -/
def State.measure (s : State) (n : Fin 3) (t : Nat) : State :=
  let samples := min (max (s.rd pgSPD SPD_WINDOW_SAMPLES) 4) 63
  let e := s.encOf n
  let pts := ((t, s.encCount n) :: e.pts).take (samples + 1)
  let s1 := s.updEnc n (fun x => { x with pts := pts, speed := windowSpeed (samples + 1) pts x.speed })
  let full := decide (pts.length = samples + 1)
  if s1.sdlOn && s1.source == n && full then s1.showSpeed else s1

/-- The measured speed 10 ms before: the newest entry no younger (R114). -/
def Sdl.before (x : Sdl) (now : Nat) : Option Int :=
  (x.speeds.find? (fun e => decide (e.1 + 10000000 ≤ now))).map Prod.snd

/-- The judgements that one 10 ms later can still ask for: none older than the newest that is 10 ms old. -/
def trimSpeeds (now : Nat) : List (Nat × Int) → List (Nat × Int)
  | [] => []
  | e :: t => if e.1 + 10000000 ≤ now then [e] else e :: trimSpeeds now t

/-- The judgement of every µs while `EN` = 1 (R114): the measured speed, whatever standstill forces it
to, against that of 10 ms before; a fall that was declared ends once the condition has been false for
10 ms. -/
def State.judgeSpeed (s : State) : State :=
  if !s.bit pgSPD SPD_COLLAPSE_CFG_EN then
    s.updSdl (fun x => { x with speeds := [], falls := false, declared := false, calmFrom := s.now })
  else
    let v := (s.encOf s.source).speed
    let pct : Int := min (s.rd pgSPD SPD_COLLAPSE_CFG_PCT) 100
    let falls := match s.sdl.before s.now with
      | none => false
      | some old =>
        decide (100 * v < (100 - pct) * old) && decide ((s.rd pgSPD SPD_COLLAPSE_MIN_V : Int) < old)
    let calm := if falls then s.now else s.sdl.calmFrom
    let same := match s.sdl.speeds with
      | [] => false
      | e :: _ => e.2 == v
    s.updSdl (fun x =>
      { x with speeds := trimSpeeds s.now (if same then x.speeds else (s.now, v) :: x.speeds),
               falls := falls, calmFrom := calm,
               declared := x.declared && decide (s.now < calm + 10000000) })

/-- Sundial has no source: the position freezes and the speed reads 0 (R107). -/
def State.loseSource (s : State) : State :=
  (s.updSdl (fun x => { x with noSource := true })).showSpeed

/-- The position continues from encoder `m` (R105, R107). -/
def State.follow (s : State) (m : Fin 3) : State :=
  let s0 := s.updEnc m (fun e => { e with ext := 0 })
  let s1 := (s0.updSdl (fun x => { x with ofs := s.pos - s.encCount m })).wr pgSDL SDL_STATUS_ACTIVE
    m.val
  if s.sdl.still then s1.updSdl (fun x => { x with stillAt := s.encCount m }) else s1

/-- A source switch to encoder `m` (R107); its next qualifying index is latched only (R102, log 97). -/
def State.switchSource (s : State) (m : Fin 3) : State :=
  let s0 := (s.follow m).updEnc m (fun e => { e with latched := false })
  let s1 := (s0.checkAlign).raise pgSDL 0
  if s1.tracking m then s1.showSpeed else s1.loseSource

/-- The source has entered FAULT: failover, or NO_SOURCE (R107). -/
def State.sourceFails (s : State) : State :=
  match s.checkEnc with
  | none => s.loseSource
  | some m =>
    if s.ac pgSDL SDL_CFG_FAILOVER = 1 ∧ s.tracking m ∧ s.sdl.chkOk.get m ∧ m ≠ s.source then
      s.switchSource m
    else s.loseSource

/-- An encoder stops supplying counts: a fit under way is abandoned (R99), the source fails over
(R107), the check encoder loses its eligibility where it is switched off, also as the source (R128). -/
def State.encLost (s : State) (n : Fin 3) (off : Bool) : State :=
  let e := s.encOf n
  let s1 := match e.cal with
    | .gathering _ => s.encAbandon n
    | _ => s
  let s2 := if off && s1.checkEnc == some n then s1.checkBad n else s1
  if s2.sdlOn && s2.source == n && !s2.sdl.noSource then s2.sourceFails else s2

/-- Sundial halts (R115): only while SDL is enabled; the halt is latched. -/
def State.halt (s : State) : State :=
  if s.sdlOn then s.wr pgSDL SDL_STATUS_HALT_LATCHED 1 else s

/-- The feed-forward time τ in ps (R123): the source's latency, 20 ns, and the trim.  While the source is off its
mode and filter are those it was last enabled with, quadrature and 4 from reset (DESIGN CHOICE, log 97). -/
def State.feedForward (s : State) : Int :=
  let e := s.encOf s.source
  let lat : Int := if e.mode = 2 then 96000 else 16000 + 2000 * e.filter
  lat + 20000 + s.rdS pgSDL SDL_FF_TRIM_PS

/-- The predicted position at the start of a tick, 48.16 (R123). -/
def State.predicted (s : State) : BitVec 64 :=
  let ext := (s.encOf s.source).ext
  let part := (ext - wholePu ext * 65536000).fdiv 1000
  fixOf s.pos + BitVec.ofInt 64 (part + (s.rdS pgSPD SPD_SPEED_V * s.feedForward).fdiv 1000000)

/-- The edge phase of a hit: how far through the tick's travel the compare value lies, in eighths,
0 to 7 (R123). -/
def State.edgePhase (s : State) (c : BitVec 64) : Nat :=
  let v := s.rdS pgSPD SPD_SPEED_V
  let travel := v * 2
  let into := (c - s.predicted).toInt * 1000
  if travel ≤ 0 then 0 else (min (max ((8 * into).fdiv travel) 0) 7).toNat

/-- An index edge seen in forward travel at or beyond the encoder's own mark (R102). -/
def State.indexLatch (s : State) (n : Fin 3) (c : Pos) : State :=
  let p := pgENC n.val
  let e := s.encOf n
  let last := BitVec.ofNat 48 (s.rd2 p ENC_INDEX_LATCH_LO_POS ENC_INDEX_LATCH_HI_POS)
  let s1 := ((s.wr2 p ENC_INDEX_LATCH_LO_POS ENC_INDEX_LATCH_HI_POS c.toNat).wr p
    ENC_STATUS_INDEXED 1).updEnc n (fun x => { x with latched := true, missed := 0 })
  if !e.latched then s1
  else
    let expect := s.ac p ENC_INDEX_EXPECT_PU
    let d := posDiff c last - expect
    let s2 := s1.wrS p ENC_INDEX_DIFF_D d
    if expect = 0 then s2
    else if d.natAbs ≤ s.ac p ENC_INDEX_TOL_PU then
      let s3 := s2.wrS p ENC_INDEX_DRIFT_SUM (satInt 32 (s2.rdS p ENC_INDEX_DRIFT_SUM + d))
      if s3.sdlOn && s3.source == n && s3.bit p ENC_CFG_CORRECT then
        s3.updSdl (fun x =>
          { x with corr := x.corr + d, corrMark := if x.corr = 0 then s.hwm else x.corrMark })
      else s3
    else s2.raise p 1

/-- The product of two numbers in 2⁻⁴⁰. -/
def mul40 (a b : Int) : Int := (a * b).fdiv (2 ^ 40)

/-- The sine of an angle of at most half a radian, both in 2⁻⁴⁰, by its series. -/
def sin40 (x : Int) : Int :=
  let q := mul40 x x
  mul40 x (2 ^ 40 - mul40 q (2 ^ 40 - mul40 q (2 ^ 40 - mul40 q (2 ^ 40 - q / 72) / 42) / 20) / 6)

/-- Its cosine. -/
def cos40 (x : Int) : Int :=
  let q := mul40 x x
  2 ^ 40 - mul40 q (2 ^ 40 - mul40 q (2 ^ 40 - mul40 q (2 ^ 40 - mul40 q (2 ^ 40 - q / 90) / 56) / 30)
    / 12) / 2

/-- The series of the arctangent from the term `k` on, for a ratio whose square is `q`. -/
def atanSum (q : Int) : Nat → Nat → Int
  | 0, _ => 0
  | n + 1, k => 2 ^ 40 / (2 * k + 1 : Nat) - mul40 q (atanSum q n (k + 1))

/-- The arctangent of a ratio from 0 to 1, both in 2⁻⁴⁰; a ratio above 1/4 is taken from arctan 1/2. -/
def atan40 (t : Int) : Int :=
  if 4 * t ≤ 2 ^ 40 then mul40 t (atanSum (mul40 t t) 20 0)
  else
    let u := ((t - 2 ^ 39) * 2 ^ 40).fdiv (2 ^ 40 + t / 2)
    509785937287 + mul40 u (atanSum (mul40 u u) 20 0)

/-- An eighth of a turn at most, `a` over `b`, in 2⁻²⁰ pu, 4,096 pu to the turn. -/
def octantPu (a b : Int) : Int := (atan40 ((a * 2 ^ 40).fdiv b) * 683565276).fdiv (2 ^ 40)

/-- `atan2 s c` in 2⁻²⁰ pu, from 0 up to a turn of 4,096 pu. -/
def atan2Pu (s c : Int) : Int :=
  let a : Int := s.natAbs
  let b : Int := c.natAbs
  let q := if a ≤ b then octantPu a b else 1024 * 2 ^ 20 - octantPu b a
  if 0 ≤ c then (if 0 ≤ s then q else 4096 * 2 ^ 20 - q)
  else if 0 ≤ s then 2048 * 2 ^ 20 - q
  else 2048 * 2 ^ 20 + q

/-- s1 and c2 of a sample pair in 2⁻¹⁴ codes (R98). -/
def State.corrected (s : State) (n : Fin 3) (sn cs : BitVec 14) : Int × Int :=
  let p := pgENC n.val
  let s1 := (sn.toInt - s.acS p ENC_OFS_SIN) * (s.ac p ENC_GAIN_SIN : Int)
  let c1 := (cs.toInt - s.acS p ENC_OFS_COS) * (s.ac p ENC_GAIN_COS : Int)
  let phi := s.acS p ENC_PHASE_PHI * 2 ^ 24
  (s1, (c1 * 2 ^ 40 - s1 * sin40 phi).fdiv (cos40 phi))

/-- The angle of a sample pair in whole pu, rounded down (R98): with the skew's share at the line
frequency. -/
def State.sampleAngle (s : State) (n : Fin 3) (sn cs : BitVec 14) : Int :=
  let v := s.corrected n sn cs
  let skew := Config.tauDie n.val + s.acS (pgENC n.val) ENC_SKEW_PS
  let angle := atan2Pu v.1 v.2 + ((s.encOf n).speed * skew * 16).fdiv 1000000
  angle.fdiv (2 ^ 20)

/-- The fraction of the line of a sample pair, in pu (R98): its angle, rounded down or up (log 31). -/
def State.sampleFraction (s : State) (n : Fin 3) (sn cs : BitVec 14) : BitVec 12 :=
  BitVec.ofInt 12 (s.sampleAngle n sn cs + max 0 (min 1 (Config.sampleRound s.free)))

/-- Whether a sample pair's radius lies within [`MIN`, `MAX`] (R98, R101): s1 and c2 in 2⁻¹⁴ codes. -/
def State.radiusOk (s : State) (n : Fin 3) (sn cs : BitVec 14) : Bool :=
  let p := pgENC n.val
  let v := s.corrected n sn cs
  let r2 := v.1 * v.1 + v.2 * v.2
  let lo : Int := (s.ac p ENC_RADIUS_MIN : Int) * 16384
  let hi : Int := (s.ac p ENC_RADIUS_MAX : Int) * 16384
  decide (lo * lo ≤ r2) && decide (r2 ≤ hi * hi)

/-- The quadrature step from the levels (A, B): +1 where A leads B, −1 where B leads A, 0 where
neither or both changed. -/
def quadStep (a b a' b' : Bool) : Int :=
  if (a != a') && (b == b') then (if a' != b then 1 else -1)
  else if (a == a') && (b != b') then (if b' == a then 1 else -1)
  else 0

/-- An encoder's coasting begins, or its samples are qualified again (R101). -/
def State.setCoast (s : State) (n : Fin 3) (on : Bool) : State :=
  s.wrBit (pgENC n.val) ENC_STATUS_COASTING on

def State.printUp (s : State) : Bool := s.levelOf .print == 2

/-- The line frequency lies from 1 to 20 kHz, forward: speed is in 16.16 pu/µs, a line 4,096 pu (R99). -/
def calBand (speed : Int) : Bool :=
  decide (4096 * 65536 ≤ speed * 1000) && decide (speed * 1000 ≤ 20 * 4096 * 65536)

/-- A fit is abandoned at once where the speed leaves its band (R99). -/
def State.calWatch (s : State) (n : Fin 3) : State :=
  match (s.encOf n).cal with
  | .gathering _ => if calBand (s.encOf n).speed then s else s.encAbandon n
  | _ => s

/-! ### Index corrections (R103) -/

/-- The marks from which commits wait for a boundary of the reference channel, changed by `g`. -/
def State.marks (s : State) (g : Option Pos → Option Pos) : State :=
  { s with commits := s.commits.map (fun e => (e.1, { e.2 with mark := g e.2.mark })) }

/-- The boundaries that the reference channel has passed, and the marks that wait for one, move with the
position. -/
def State.shiftPassed (s : State) (d : Pos) : State :=
  let back := fun (p : Option Pos) => p.map (fun x => x - d)
  let s1 : State :=
    { s with ref := s.ref.map (fun r => { r with line := back r.line, page := back r.page }) }
  s1.marks back

/-- A correction is pending, and a print-page boundary of the reference channel has been passed since. -/
def State.corrDue (s : State) : Bool :=
  s.printUp && s.sdlOn && s.forward && decide (s.sdl.corr ≠ 0) &&
    match s.refNow with
    | none => false
    | some r => since r.page s.sdl.corrMark

/-- A position commit whose position lies behind the boundary at which a correction falls was reached before
it; any other is judged against the corrected position (R49). -/
def State.keepBefore (s : State) : State :=
  s.keepDue (fun c => (c.pos.map (fun p => since ((s.ref.bind RefChan.page)) p)).getD false)

/-- A correction that is due is taken from the position and the mark in one tick. -/
def State.correct (s : State) : State :=
  if s.corrDue then
    let d := BitVec.ofInt 48 s.sdl.corr
    let s1 := ((s.refAdvance.keepBefore.shiftPassed d).setPos (s.pos - d)).setHwm (s.hwm - d)
    (s1.updSdl (fun x => { x with ofs := x.ofs - d, corr := 0 })).checkShow
  else s

/-- The encoder's input is powered and counts (R104). -/
def State.encLive (s : State) (n : Fin 3) : Bool :=
  s.printUp && s.bit (pgENC n.val) UNIT_CTRL_ENABLE && decide (s.encState n ≠ 0)

/-- One 2 ns tick of an encoder: a coasting count goes on at its last measured speed (R101), and the
source's position is extrapolated from the last measurement by the speed in use (R109). -/
def State.travelTick (s : State) (n : Fin 3) : State :=
  let e := s.encOf n
  if !s.encLive n then s
  else if s.bit (pgENC n.val) ENC_STATUS_COASTING then
    let total := e.ext + e.speed * 2
    (s.encMove n (wholePu total)).updEnc n
      (fun x => { x with ext := total - wholePu total * 65536000 })
  else if s.supplies n then
    let total := e.ext + s.rdS pgSPD SPD_SPEED_V * 2
    (s.updEnc n (fun x => { x with ext := total })).posMove (wholePu total - wholePu e.ext)
  else s

end Sys2Proof.Machine
end

