-- ==== Sys2Proof/Machine/FiringOps.lean ====
section
/-! DEFINITION. The firing block: the energy factor, the strobe train, and what a hit comes to
(R200–R210, R214). -/

namespace Sys2Proof.Machine

/-! ### Energy correction (R205–R207) -/

/-- Whether a rail channel's sample is no older than 40 µs (R206). -/
def State.railFresh (s : State) (c : Nat) : Bool :=
  match (s.railAt.toList[c]?).getD none with
  | some t => decide (s.now ≤ t + 40000)
  | none => false

/-- The rail voltage that the head's correction takes, in mV; none where it is not valid. -/
def State.railIn (s : State) (h : Nat) : Option Nat :=
  let c := s.rd (pgFIR h) FIR_CFG_RAIL
  if s.railFresh c then
    match (s.firOf h).sample with
    | some (d, mv) => some (if d = c then mv else s.rd pgFIRroot (FIR_RAIL_MV c))
    | none => some (s.rd pgFIRroot (FIR_RAIL_MV c))
  else none

/-- The voltage term of R205 and whether it clamps. -/
def railTerm (v : Option Nat) (vref vmin : Nat) : Nat × Bool :=
  match v with
  | none => (16384, true)
  | some mv =>
    if mv < vmin then (16384, true)
    else
      let r := if mv = 0 then Config.railRatio vref else vref * 16384 / mv
      (r * r / 16384, false)

/-- The factor and whether the line is clamped (R205). -/
def State.energy (s : State) (h : Nat) : Nat × Bool :=
  let p := pgFIR h
  if s.ac p FIR_CFG_CORR_EN = 0 then (16384, false)
  else
    let (r2, c0) := railTerm (s.railIn h) (s.ac p FIR_VREF_VREF) (s.ac p FIR_VREF_VMIN)
    let dt := s.rdS p FIR_TEMP_TEMP - s.acS p FIR_TREF_TREF
    let t : Int :=
      if (s.firOf h).tValid then 16384 - (s.acS p FIR_TREF_TCO * dt).fdiv 64 else 16384
    let f : Int := ((r2 : Int) * t).fdiv 16384
    let lo : Int := s.ac p FIR_CLAMP_LO
    let hi : Int := s.ac p FIR_CLAMP_HI
    let f1 := if f < lo then lo else f
    let f2 := if hi < f1 then hi else f1
    (f2.toNat, c0 || decide (f < lo) || decide (hi < f1))

/-- Nominal width and acting gap of sub-pulse `k` + 1 from a `FIR_WAVE` word (R202). -/
def waveOf (k : Nat) (w : Word) : Nat × Nat :=
  let wd := (FIR_WAVE_WIDTH 0).get w
  let gp := (FIR_WAVE_GAP 0).get w
  (if wd = 0 then 4 else wd, if k = 0 then gp else max gp 160)

/-- A width under the factor (R205). -/
def scaled (width f : Nat) : Nat := (width * f + 8192) / 16384

/-- The edges of a train's sub-pulses in steps from the line edge (R202). -/
def placePulses (f : Nat) : Nat → Nat → List Word → List (Nat × Nat)
  | _, _, [] => []
  | k, t, w :: ws =>
    let (wd, gp) := waveOf k w
    let rise := t + gp
    let fall := rise + scaled wd f
    (rise, fall) :: placePulses f (k + 1) fall ws

/-- How many sub-pulses a line takes (R200). -/
def subPulses (levels : List Nat) : Nat := min 7 (levels.foldl max 1)

/-- The train of a line: `edge` is its edge's place in the tick, in steps. -/
def State.trainOf (s : State) (h line : Nat) (levels : List Nat) (f : Nat) (edge : Int) : Train :=
  let words := (List.range (subPulses levels)).map (fun k => s.actWord (pgFIR h) (0x060 + 4 * k))
  { line := line, tag := BitVec.ofNat 8 line, edge := edge, pulses := placePulses f 0 0 words }

/-- The train's last falling edge in steps from the start of its tick. -/
def Train.last (t : Train) : Int := t.edge + (t.pulses.foldl (fun m p => max m p.2) 0 : Nat)

/-- When a train whose tick starts at `t0` ns ends. -/
def Train.endsAt (t : Train) (t0 : Nat) : Nat := ((4 * (t0 : Int) + t.last + 3).fdiv 4).toNat

/-- Its pulses in steps of 250 ps of the block's time, its tick starting at `t0` ns. -/
def Train.spans (t : Train) (t0 : Nat) : List (Nat × Nat) :=
  let base : Int := 4 * (t0 : Int) + t.edge
  t.pulses.map (fun p => ((base + p.1).toNat, (base + p.2).toNat))

/-- The last falling edge of a head's latest train, in steps of 250 ps. -/
def Fir.lastFall (f : Fir) : Int :=
  match f.train with
  | none => 0
  | some (t0, t) => 4 * (t0 : Int) + t.last

/-! ### The hit (R200, R207–R210, R213) -/

/-- The factor of a line is latched and its clamp reported (R205, R207). -/
def State.latchFactor (s : State) (h : Nat) (e : Nat × Bool) : State :=
  let p := pgFIR h
  let was := (s.firOf h).clamped
  let s1 := ((s.wr p FIR_FACTOR_F e.1).wrBit p FIR_FACTOR_CLAMPED e.2).updFir h
    (fun x => { x with clamped := e.2 })
  if e.2 then
    let s2 := s1.incSat p FIR_CLAMP_LINES_N
    if was then s2 else s2.raise p 2
  else s1

/-- Record a line in `FIR_MISS`: cause 1 not delivered, 2 overlap (R208, R209). -/
def State.missLine (s : State) (h : Nat) (tag : Byte) (cause : Nat) : State :=
  let p := pgFIR h
  let was := (s.firOf h).missed
  let s1 := ((s.wr p FIR_MISS_TAG tag.toNat).wr p FIR_MISS_CAUSE cause).incSat p FIR_MISS_COUNT
  let s2 := s1.updFir h (fun x => { x with missed := true })
  if was then s2 else s2.raise p 3

/-- How long a pulse that folly 1 lets stand would last: longer than any run. -/
def stuckFor : Nat := 2 ^ 80

/-- The generator's output for a train: with folly 1 it stays high from the rise of the sub-pulse that the
folly names, where the train has it (R379).  An output that an earlier train left so stays high while the
folly is armed; after its last shot it falls at the next train (log 37). -/
def State.genSpans (s : State) (h t0 : Nat) (t : Train) : State × List (Nat × Nat) :=
  let p := pgFIR h
  let all := t.spans t0
  let k := s.follyParam p
  let held := (s.firOf h).gen.filter (fun e => e.2 == e.1 + stuckFor)
  if s.follyOn p 1 then
    if k ≤ t.pulses.length then
      (s.inject p, if held.isEmpty then
          all.take (k - 1) ++ ((all[k - 1]?).toList.map (fun e => (e.1, e.1 + stuckFor)))
        else held)
    else (s, if held.isEmpty then all else held)
  else (s, all)

/-- A train starts at the generator; a cut holds it at "no fire" (R213), and so does the loss of the
crystal (R216). -/
def State.startTrain (s : State) (h t0 : Nat) (t : Train) : State :=
  let p := pgFIR h
  let out := (s.add2 p FIR_TRAINS_LO_N FIR_TRAINS_HI_N 1).genSpans h t0 t
  let base := (4 * (t0 : Int) + t.edge).toNat
  let s1 := out.1.updFir h (fun x =>
    { x with train := some (t0, t), trainEnd := t.endsAt t0, gen := out.2,
             fires := (clipAt base x.fires).filter (fun e => decide (4 * s.now < e.2 + 4004000)) })
  if s1.isCut h then s1.incSat p FIR_CUT_LINES_N
  else if s1.aon.xtalCut || s1.aon.onRc then s1
  else (s1.updFir h (fun x => { x with fires := x.fires ++ restFrom base out.2 })).emit (.train h t)

/-- A waiting re-arm is fulfilled at a hit at least 5 µs after the pad last drove "fire" (R214). -/
def State.rearmAtHit (s : State) (h : Nat) : State :=
  if (s.firOf h).rearm && s.isCut h && s.padQuiet h then s.releaseHead h else s

/-- A hit whose line edge lies `edge` steps into its tick comes while the train before it runs, or while
another waits for it (R209). -/
def State.overlaps (s : State) (h : Nat) (edge : Int) : Bool :=
  let f := s.firOf h
  decide (4 * (s.now : Int) + edge < f.lastFall) || !f.deferred.isEmpty

/-- The hit of a line at the firing block.  One that comes while `ENABLE` = 0 leaves as it was whether the last
line was missed (DESIGN CHOICE, log 109). -/
def State.fireLine (s0 : State) (h line : Nat) (levels : List Nat) (sent : Bool) (edge : Int) :
    State :=
  let p := pgFIR h
  let tag : Byte := BitVec.ofNat 8 line
  let s := s0.rearmAtHit h
  if !s.enabled p then s
  else
    let e := s.energy h
    let s1 := s.latchFactor h e
    if !sent then s1.missLine h tag 1
    else
      let t := s1.trainOf h line levels e.1 edge
      if s1.overlaps h edge then
        (s1.missLine h tag 2).updFir h (fun x => { x with deferred := x.deferred ++ [t] })
      else (s1.updFir h (fun x => { x with missed := false })).startTrain h s1.now t

/-- Whether a line's train reaches the pad whole at its hit, as the firing block stands (R227, R263). -/
def State.reaches (s : State) (h : Nat) (sent : Bool) : Bool :=
  s.enabled (pgFIR h) && sent && !s.isCut h && s.aon.estop && !s.aon.xtalCut && !s.aon.onRc

end Sys2Proof.Machine
end

