-- ==== Sys2Proof/Machine/StreamOps.lean ====
section
/-! DEFINITION. The job streams' shared operations: sequence numbers and holes, acknowledgements,
the staging ring, the staging checks of a tile, rejects and the deadline queue (R130–R146). -/

namespace Sys2Proof.Machine

def State.stmOf (s : State) (i : Fin 4) : Stream := s.stm.get i

def State.updStm (s : State) (i : Fin 4) (g : Stream → Stream) : State :=
  { s with stm := s.stm.set i.val (g (s.stm.get i)) }

def State.stmState (s : State) (i : Nat) : Nat := s.rd (pgSTM i) UNIT_STATUS_STATE

def State.stmRunning (s : State) (i : Nat) : Bool := s.stmState i == 2

def State.updIng (s : State) (g : Ingest → Ingest) : State := { s with ing := g s.ing }

def ribNone : Ribbon :=
  { base := 0, lines := 0, width := 0, layers := 0, written := [], blank := [], busy := [],
    freshAt := none, fresh := [], blankFrom := Vector.replicate 4 0, blankTo := Vector.replicate 4 0 }

def State.ribOf (s : State) (h : Nat) : Ribbon := (s.ing.ribs.toList[h]?).getD ribNone

def State.updRib (s : State) (h : Nat) (g : Ribbon → Ribbon) : State :=
  if hh : h < 32 then s.updIng (fun x => { x with ribs := x.ribs.set h (g (x.ribs.get ⟨h, hh⟩)) })
  else s

/-! ### Staging in use (R135, R161) -/

def Stream.free (x : Stream) : Nat := x.size - x.used

def Stream.window (x : Stream) : Nat := x.free - 65536

/-- `STM_WINDOW` and `STM_STAGED` follow what is staged. -/
def State.showStaging (s : State) (i : Fin 4) : State :=
  let x := s.stmOf i
  (s.wr (pgSTM i.val) STM_WINDOW_BYTES (min x.window (2 ^ 32 - 1))).wr (pgSTM i.val) STM_STAGED_KIB
    (x.used / 1024)

/-! ### Acknowledgements and gap requests (R131, R136, R137) -/

/-- The active port, where one is (R310). -/
def State.activePort (s : State) : Option Nat :=
  if s.bit pgNETroot NET_PATH_STAT_NO_PATH || decide (s.levelOf .net ≠ 2) then none
  else some (s.rd pgNETroot NET_PATH_STAT_ACTIVE)

/-- A header of the tile transport (R131). -/
def udpHeader (type stream len : Nat) (seq epoch : BitVec 32) : List Byte :=
  leBytes 2 0x5AC3 ++ [1, BitVec.ofNat 8 type, BitVec.ofNat 8 stream, 0] ++ leBytes 2 len ++
  leBytes 4 seq.toNat ++ leBytes 4 epoch.toNat ++ leBytes 8 0

/-- The tag of the device's own frames (R309). -/
def State.ownVlan (s : State) : Option Nat :=
  if s.ac pgNETroot NET_VLAN_TAGGED = 1 then some (s.ac pgNETroot NET_VLAN_VID) else none

/-- Frames of the device's own have left a port (R332). -/
def State.ownSent (s : State) (p n : Nat) : State :=
  s.add2 (pgNET p) NET_TX_FRAMES_LO_N NET_TX_FRAMES_HI_N n

def State.sendDatagram (s : State) (i : Fin 4) (bs : List Byte) : State :=
  match s.activePort with
  | some p => (s.ownSent p 1).emit (.datagram p s.ownVlan (s.stmOf i).peer bs)
  | none => s

/-- Send an acknowledgement, where the stream runs and has received a fragment (R136). -/
def State.sendAck (s : State) (i : Fin 4) : State :=
  let x := s.stmOf i
  let p := pgSTM i.val
  if s.stmRunning i.val && x.started && x.src == 0 then
    let cum : BitVec 32 := s.word p 0x080
    let body := leBytes 4 (s.rd p STM_WINDOW_BYTES) ++ leBytes 4 (s.rd pgING ING_LIVE_CAP_CYCLES) ++
      leBytes 4 (s.rd p STM_OVERRUNS_N)
    s.sendDatagram i (udpHeader 3 i.val 12 cum x.epoch ++ body)
  else s

/-- Ranges of at most 65,535 numbers, as a gap request lists them. -/
def holeRanges (hs : List Hole) : List (BitVec 32 × Nat) :=
  hs.flatMap (fun h =>
    (List.range ((h.count + 65534) / 65535)).map (fun j =>
      (h.first + BitVec.ofNat 32 (65535 * j), min 65535 (h.count - 65535 * j))))

def gapPayload (hs : List Hole) : List Byte :=
  ((holeRanges hs).take 16).flatMap (fun r => leBytes 4 r.1.toNat ++ leBytes 2 r.2 ++ [0, 0])

/-! ### Sequence numbers (R134, R137) -/

/-- `a` comes after `b`: the sign of the difference modulo 2³². -/
def seqAfter (a b : BitVec 32) : Bool := decide (0 < (a - b).toInt)

def Hole.has (h : Hole) (q : BitVec 32) : Bool := decide ((q - h.first).toNat < h.count)

/-- `STM_CUM_SEQ` of a stream: just before its oldest hole, or the highest number. -/
def Stream.cum (x : Stream) : BitVec 32 :=
  match x.holes with
  | h :: _ => h.first - 1
  | [] => x.highest

def State.showCum (s : State) (i : Fin 4) : State :=
  if (s.stmOf i).started then s.wr (pgSTM i.val) STM_CUM_SEQ_SEQ (s.stmOf i).cum.toNat else s

/-- Fill one missing number: its hole shrinks, or splits in two. -/
def fillHole (q : BitVec 32) (hs : List Hole) : List Hole :=
  hs.flatMap (fun h =>
    if h.has q then
      let k := (q - h.first).toNat
      (if k = 0 then [] else [{ h with count := k }]) ++
      (if k + 1 = h.count then [] else [{ h with first := q + 1, count := h.count - k - 1 }])
    else [h])

/-- Numbers up to `q` are known to have been sent: those beyond the highest received are missing. -/
def Stream.openHole (x : Stream) (now : Nat) (q : BitVec 32) (received : Bool) : Stream :=
  if seqAfter q x.highest then
    let n := (q - x.highest).toNat - (if received then 1 else 0)
    let fresh : List Hole :=
      if n = 0 then [] else [{ first := x.highest + 1, count := n, opened := now, asked := 0 }]
    { x with holes := x.holes ++ fresh, highest := q }
  else if received then { x with holes := fillHole q x.holes }
  else x

/-- The number is neither received nor missing: it was abandoned, or its fragment discarded. -/
def Stream.gone (x : Stream) (tile : BitVec 32) (q : BitVec 32) : Bool :=
  !seqAfter q x.highest && !x.holes.any (fun h => h.has q) &&
    !x.frags.any (fun f => f.seq == q && f.tileId == tile)

/-- Fragments of the same tile before `f` that can no longer come. -/
def Stream.deadBefore (x : Stream) (f : Frag) : Bool :=
  (List.range f.index).any (fun j => x.gone f.tileId (f.seq - BitVec.ofNat 32 (j + 1)))

/-- Walk forward from `f` to the fragment marked `LAST`: whether one before it can no longer come. -/
def Stream.deadAfter (x : Stream) (tile : BitVec 32) : Nat → BitVec 32 → Bool
  | 0, _ => false
  | fuel + 1, q =>
    match x.frags.find? (fun f => f.seq == q && f.tileId == tile) with
    | some f => if f.last then false else x.deadAfter tile fuel (q + 1)
    | none => x.gone tile q

/-- Fragments of tiles that can never be whole give their space back (R137; log 44). -/
def Stream.prune (x : Stream) : Stream :=
  let dead := x.frags.filter (fun f =>
    x.deadBefore f || (!f.last && x.deadAfter f.tileId (x.frags.length + 1) (f.seq + 1)))
  { x with frags := x.frags.filter (fun f => !dead.contains f),
           used := x.used - (dead.map (fun f => f.payload.length)).sum }

/-- The fragments of the tile that `f` completes, in order; none while one is missing (R139). -/
def Stream.gather (x : Stream) (tile : BitVec 32) : Nat → Nat → BitVec 32 → Option (List Frag)
  | 0, _, _ => none
  | fuel + 1, idx, q =>
    match x.frags.find? (fun f => f.seq == q && f.tileId == tile && f.index == idx) with
    | some f =>
      if f.last then some [f] else (x.gather tile fuel (idx + 1) (q + 1)).map (fun t => f :: t)
    | none => none

/-! ### Tiles in staging (R139–R142, R146) -/

/-- A kiosk's tile buffer of 64 KiB in SRAM (R15, R283). -/
def kioskBuf (k : Nat) : Nat := 0x1002800000 + 65536 * k

/-- A tile's byte `i` in the buffer of the kiosk that holds it. -/
def State.tileByte (s : State) (t : Tile) (i : Nat) : Byte :=
  match t.place with
  | .kiosk k => s.byte (kioskBuf k + i)
  | _ => 0

/-- A kiosk reads its tile from staging or a loop area into its buffer, through RT-ribbon (R287). -/
def State.fetchTile (s : State) (k : Nat) (t : Tile) : State :=
  let n := if t.ringSize = 0 then t.len else min t.len (t.ringSize - (t.addr - t.ringBase))
  let r1 := s.readMem 0 t.addr n
  let r2 := if n < t.len then r1.1.readMem 0 t.ringBase (t.len - n) else (r1.1, [], [])
  let pad := List.replicate (7 - (t.len + 7) % 8) 0
  r2.1.storeTagged (kioskBuf k) (r1.2.1 ++ r2.2.1 ++ pad) (r1.2.2 ++ r2.2.2)

def State.tile? (s : State) (id : Nat) : Option Tile := s.ing.tiles.find? (fun t => t.id == id)

def State.updTile (s : State) (id : Nat) (g : Tile → Tile) : State :=
  s.updIng (fun x => { x with tiles := x.tiles.map (fun t => if t.id == id then g t else t) })

/-- The line number of a head whose bits [47:0] are those of `n` (R166): its upper bits are those of the
next line to send. -/
def State.lineUp (s : State) (h n : Nat) : Nat :=
  (s.hscOf h).send.line / 2 ^ 48 * 2 ^ 48 + n % 2 ^ 48

/-- A tile's first line as its head numbers lines (R166). -/
def State.firstOf (s : State) (t : Tile) : Nat := s.lineUp t.head t.first

/-- A tile's deadline: the tile deadline of its first line (R145). -/
def State.deadlineOf (s : State) (t : Tile) : Pos := s.tileDeadline t.head (s.firstOf t)

/-- Count a reject and raise `TILE_REJECT` (R139). -/
def State.reject (s : State) (i : Fin 4) (code head : Nat) : State :=
  let p := pgSTM i.val
  (((s.wr p STM_REJECT_REASON code).wr p STM_REJECT_HEAD head).incSat p STM_REJECT_COUNT).raise p 2

def TilePlace.inQueue : TilePlace → Bool
  | .queued => true
  | .kiosk _ => true
  | _ => false

/-- Queue entries in use, of 4,096 (R146); a tile that a kiosk holds keeps its entry (DESIGN CHOICE, log 96). -/
def State.queueUsed (s : State) : Nat := (s.ing.tiles.filter (fun t => t.place.inQueue)).length

/-- The first of two tiles by deadline, stream, head and staging (R147). -/
def State.sooner (s : State) (a b : Tile) : Bool :=
  let d := posDiff (s.deadlineOf a) (s.deadlineOf b)
  decide (d < 0) || (d == 0 && (decide (a.stream < b.stream) || (a.stream == b.stream &&
    (decide (a.head < b.head) || (a.head == b.head && decide (a.id < b.id))))))

/-- The first tile of a list by the order of R147. -/
def State.first (s : State) : List Tile → Option Tile
  | [] => none
  | t :: ts =>
    match s.first ts with
    | none => some t
    | some u => some (if s.sooner t u then t else u)

/-- Tiles that wait for queue entries enter in deadline order while entries are free (R146). -/
def State.fillQueue : Nat → State → State
  | 0, s => s
  | n + 1, s =>
    if s.queueUsed < 4096 then
      match s.first (s.ing.tiles.filter (fun t => t.place == .waiting)) with
      | some t => State.fillQueue n (s.updTile t.id (fun u => { u with place := .queued }))
      | none => s
    else s

/-- `ING_QUEUE_USED` after tiles moved. -/
def State.showQueue (s : State) : State :=
  let s1 := State.fillQueue s.ing.tiles.length s
  s1.wr pgING ING_QUEUE_USED_N s1.queueUsed

/-- A tile is gone: its staging space is free again, unless it is a loop tile (R139, R142). -/
def State.freeTile (s : State) (id : Nat) : State :=
  match s.tile? id with
  | none => s
  | some t =>
    let s1 := s.updIng (fun x => { x with tiles := x.tiles.filter (fun u => !(u.id == id)) })
    if h : t.stream < 4 then
      let s2 := if t.loopOfs.isNone then
          s1.updStm ⟨t.stream, h⟩ (fun x => { x with used := x.used - t.len }) else s1
      (s2.showStaging ⟨t.stream, h⟩).showQueue
    else s1.showQueue

/-- Checks 5–7 of R166 and the ORDER check of R140, after checks 1–4: the reject code, or 0. -/
def State.stagingCode (s : State) (i : Fin 4) (byteAt : Nat → Byte) (len key first : Nat)
    (loopAgain : Bool) : Nat :=
  let h := readHdr byteAt
  let rib := s.ribOf h.head
  let early := if loopAgain then 0 else hdrChecks byteAt len i.val
  if early ≠ 0 then early
  else if !loopAgain && h.key ≠ key then 7
  else if !loopAgain && (s.part.heads ≤ h.head || rib.layers / 2 ^ i.val % 2 = 0) then 2
  else if !loopAgain && rib.width * 64 < h.width then 3
  else if first < ((s.stmOf i).expected.lookup h.head).getD 0 then 5
  else 0

/-- The tile is staged: it takes its number, the next expected line moves on, it is counted. -/
def State.addTile (s : State) (i : Fin 4) (byteAt : Nat → Byte) (addr ringBase ringSize len first : Nat)
    (loopOfs : Option (Nat × Nat)) : State :=
  let h := readHdr byteAt
  let t : Tile :=
    { id := s.ing.nextTile, stream := i.val, addr := addr, ringBase := ringBase, ringSize := ringSize,
      len := len, head := h.head, first := first, lines := h.lines, width := h.width, cost := h.cost,
      loopOfs := loopOfs, place := .staged, dec := tileStart, counted := 0, overran := false,
      rewrite := false }
  let s1 := s.updIng (fun x => { x with tiles := x.tiles ++ [t], nextTile := x.nextTile + 1 })
  let s2 := s1.updStm i (fun x =>
    { x with expected := (h.head, first + h.lines) :: x.expected.filter (fun e => e.1 != h.head) })
  s2.add2 (pgSTM i.val) STM_TILES_LO_N STM_TILES_HI_N 1

/-- Bytes `[a, a+n)` and `[b, b+m)` of a ring of `size` bytes share a byte. -/
def ringMeets (size a n b m : Nat) : Bool :=
  decide (0 < n) && decide (0 < m) &&
    (decide ((b + size - a) % size < n) || decide ((a + size - b) % size < m))

/-- Where the next `len` bytes go in the staging ring: on from the last tile, or past the first
staged tile that leaves room (log 45). -/
def State.place (s : State) (i : Fin 4) (len : Nat) : Nat :=
  let x := s.stmOf i
  let live := s.ing.tiles.filter (fun t => t.stream == i.val && t.loopOfs.isNone)
  let starts := x.wr :: live.map (fun t => (t.addr - x.base + t.len) % x.size)
  (starts.find? (fun c => !live.any (fun t => ringMeets x.size c len (t.addr - x.base) t.len))).getD x.wr

/-- Stage a whole tile whose `used` bytes of space are already counted: write it to DRAM, check it,
keep it or reject it (R139, R166); the second answer is the reject code, or 0. -/
def State.stageTile (s : State) (i : Fin 4) (bs : List Byte) (key : Nat) : State × Nat :=
  let byteAt := fun n => (bs[n]?).getD 0
  let len := bs.length
  let hdr := readHdr byteAt
  let code := s.stagingCode i byteAt len key hdr.first false
  if code ≠ 0 then
    let s1 := s.updStm i (fun x => { x with used := x.used - len })
    (((s1.reject i code hdr.head).showStaging i), code)
  else
    let x := s.stmOf i
    let ofs := s.place i len
    let n1 := min len (x.size - ofs)
    let s0 := s.writeMem 2 (x.base + ofs) (bs.take n1)
    let s1 := if n1 < len then s0.writeMem 2 x.base (bs.drop n1) else s0
    let s2 := s1.updStm i (fun y => { y with wr := (ofs + len) % x.size })
    ((s2.addTile i byteAt (x.base + ofs) x.base x.size len hdr.first none).showStaging i, 0)

/-- A copy of a loop tile for a later pass that no kiosk holds. -/
def Tile.laterCopy (t : Tile) (i ofs : Nat) : Bool :=
  let held := match t.place with
    | .kiosk _ => true
    | _ => false
  t.stream == i && !held &&
    match t.loopOfs with
    | some (o, p) => o == ofs && decide (0 < p)
    | none => false

/-- A loop tile that its first pass rejects DECODE is left out of every later pass, also of one that has
been walked (R142). -/
def State.loopOut (s : State) (i : Fin 4) (t : Tile) (code : Nat) : State :=
  match t.loopOfs with
  | some (ofs, 0) =>
    if code = 9 then
      let s1 := s.updStm i (fun x =>
        { x with loop := x.loop.map (fun l => if l.ofs = ofs then { l with out := true } else l) })
      (s1.updIng (fun x => { x with tiles := x.tiles.filter (fun u => !u.laterCopy i.val ofs) })).showQueue
    else s
  | _ => s

/-- A tile that has been staged and is to be rejected later: LATE, POISON or DECODE (R139, R156). -/
def State.rejectTile (s : State) (id code : Nat) : State :=
  match s.tile? id with
  | none => s
  | some t =>
    if h : t.stream < 4 then
      ((s.freeTile id).loopOut ⟨t.stream, h⟩ t code).reject ⟨t.stream, h⟩ code t.head
    else s.freeTile id

/-! ### The loop area (R142) -/

/-- The header of the loop tile at an offset, read through RT-ribbon, and whether a word of it was poisoned
(R142, R287; log 98). -/
def State.loopHead (s : State) (i : Fin 4) (ofs : Nat) : State × (Nat → Byte) × Bool :=
  let r := s.readMem 0 ((s.stmOf i).loopAddr + ofs) 32
  (r.1, fun n => (r.2.1[n]?).getD 0, r.2.2.any id)

/-- Judge a loop tile in pass `k` and stage it, or reject it (R139, R142); the second answer is the code. -/
def State.offerLoop (s : State) (i : Fin 4) (k ofs len : Nat) (byteAt : Nat → Byte) (bad : Bool) :
    State × Nat :=
  let x := s.stmOf i
  let first := (readHdr byteAt).first + k * x.loopLines
  let code := if bad then 8 else s.stagingCode i byteAt len 0xFF first (decide (k ≠ 0))
  if code ≠ 0 then (s.reject i code (readHdr byteAt).head, code)
  else (s.addTile i byteAt (x.loopAddr + ofs) x.loopAddr 0 len first (some (ofs, k)), 0)

/-- The first pass finds the tiles of the area from an offset on; one whose length is wrong ends it. -/
def State.loopWalk (i : Fin 4) : Nat → Nat → State → State
  | 0, _, s => s
  | fuel + 1, ofs, s =>
    let x := s.stmOf i
    if x.loopBytes ≤ ofs then s
    else
      let (s1, byteAt, bad) := s.loopHead i ofs
      let len := leAt byteAt 16 4
      if len < 34 ∨ x.loopBytes < ofs + len then s1.reject i 1 (leAt byteAt 5 1)
      else
        let (s2, code) := s1.offerLoop i 0 ofs len byteAt bad
        let l : LoopTile := { ofs := ofs, len := len, out := code != 0 && code != 5 && code != 8 }
        State.loopWalk i fuel ((ofs + len + 63) / 64 * 64) (s2.updStm i (fun y => { y with loop := y.loop ++ [l] }))

/-- Walk one pass. -/
def State.walkPass (s : State) (i : Fin 4) (k : Nat) : State :=
  let x := s.stmOf i
  if k = 0 then State.loopWalk i (x.loopBytes / 64 + 1) 0 (s.updStm i (fun y => { y with loop := [] }))
  else
    (x.loop.filter (fun l => !l.out)).foldl
      (fun t l =>
        let (t1, byteAt, bad) := t.loopHead i l.ofs
        (t1.offerLoop i k l.ofs l.len byteAt bad).1) s

end Sys2Proof.Machine
end

