-- ==== Sys2Proof/Machine/KioskOps.lean ====
section
/-! DEFINITION. Ribbons and the kiosk tree: planes done and blank, the pool and live capacity, one
block of decoding, leaving and rejoining, stream resets (R143–R158, R163). -/

namespace Sys2Proof.Machine

/-! ### Ribbon planes (R143, R144) -/

/-- The planes a ribbon holds, lowest layer first. -/
def planesOf (layers : Nat) : List Nat := (List.range 4).filter (fun l => layers / 2 ^ l % 2 == 1)

def hasBit (m l : Nat) : Bool := m / 2 ^ l % 2 == 1

def orBit (m l : Nat) : Nat := m ||| 2 ^ l

def clearBit (m l : Nat) : Nat := if hasBit m l then m - 2 ^ l else m

/-- A plane becomes done now. -/
def Ribbon.renew (r : Ribbon) (now l n : Nat) : Ribbon :=
  { r with freshAt := some now,
           fresh := Tbl.set 0 n (orBit (Tbl.get 0 n (if r.freshAt = some now then r.fresh else [])) l)
             (if r.freshAt = some now then r.fresh else []) }

/-- A plane became done in this tick. -/
def Ribbon.isFresh (r : Ribbon) (now l n : Nat) : Bool :=
  r.freshAt == some now && hasBit (Tbl.get 0 n r.fresh) l

/-- The stream is RUNNING, or left it in this tick (R144). -/
def State.stmRan (s : State) (i : Nat) : Bool :=
  s.stmRunning i || (match s.stm.toList[i]? with
    | some x => x.leftAt == some s.now
    | none => false)

/-- A plane of a line is done (R144). -/
def Ribbon.done (r : Ribbon) (running : Bool) (l n : Nat) : Bool :=
  !running ||
  (!hasBit (Tbl.get 0 n r.busy) l &&
    (hasBit (Tbl.get 0 n r.written) l || hasBit (Tbl.get 0 n r.blank) l ||
      (decide ((r.blankFrom.toList[l]?).getD 0 ≤ n) && decide (n < (r.blankTo.toList[l]?).getD 0))))

def State.planeDone (s : State) (h l n : Nat) : Bool := (s.ribOf h).done (s.stmRan l) l n

/-- The mask of planes of a line that are not done. -/
def State.notDone (s : State) (h n : Nat) : Nat :=
  ((planesOf (s.ribOf h).layers).filter (fun l => !s.planeDone h l n)).foldl orBit 0

def State.lineComplete (s : State) (h n : Nat) : Bool := s.notDone h n == 0

/-- The line is complete for its send deadline now: its planes were done before this tick (R144). -/
def State.lacksNow (s : State) (h n : Nat) : Nat :=
  let r := s.ribOf h
  ((planesOf r.layers).filter (fun l => !(r.done (s.stmRan l) l n && !r.isFresh s.now l n))).foldl orBit 0

/-- Consecutive complete lines from the next unsent line on (`READY`); a head whose schedule has never
started has none (log 96). -/
def State.readyLines (s : State) (h : Nat) : Nat :=
  if (s.hscOf h).geo.isEmpty then 0 else
  ((List.range (s.ribOf h).lines).takeWhile
    (fun i => s.lineComplete h ((s.hscOf h).send.line + i))).length

def setMask (n : Nat) (f : Nat → Nat) (t : Tbl Nat) : Tbl Nat := Tbl.set 0 n (f (Tbl.get 0 n t)) t

/-- Mark a plane blank: it reads as no drops and is done. A line that the ring no longer holds keeps
no mark (R155). -/
def State.markBlank (s : State) (h l n : Nat) : State :=
  if n < (s.hscOf h).send.line then s else s.updRib h (fun r =>
    { r.renew s.now l n with blank := setMask n (orBit · l) r.blank,
                             written := setMask n (clearBit · l) r.written,
                             busy := setMask n (clearBit · l) r.busy })

/-- A tile's write of a plane begins: from here to its end the plane is not done. -/
def State.beginPlane (s : State) (h l n : Nat) : State :=
  if n < (s.hscOf h).send.line then s else s.updRib h (fun r => { r with busy := setMask n (orBit · l) r.busy })

/-- A tile's write of a plane ends. -/
def State.endPlane (s : State) (h l n : Nat) : State :=
  s.updRib h (fun r =>
    { r.renew s.now l n with busy := setMask n (clearBit · l) r.busy,
                             written := setMask n (orBit · l) r.written,
                             blank := setMask n (clearBit · l) r.blank })

/-- The line has been sent: its marks go. -/
def State.dropLine (s : State) (h n : Nat) : State :=
  s.updRib h (fun r =>
    { r with written := Tbl.del n r.written, blank := Tbl.del n r.blank, busy := Tbl.del n r.busy,
             fresh := Tbl.del n r.fresh })

/-- An emptied ribbon. -/
def Ribbon.clear (r : Ribbon) : Ribbon :=
  { r with written := [], blank := [], busy := [], freshAt := none, fresh := [],
           blankFrom := Vector.replicate 4 0, blankTo := Vector.replicate 4 0 }

/-- Every line that any head's ring holds now has the stream's plane blank (R157, R158); the ring of a
head whose schedule has never started holds no lines. -/
def State.blankRings (s : State) (l : Fin 4) : State :=
  (List.range 32).foldl
    (fun t h =>
      let from' := (t.hscOf h).send.line
      if (t.hscOf h).geo.isEmpty then t else t.updRib h (fun r =>
        let strip := fun (m : Tbl Nat) => m.foldl (fun a e => setMask e.1 (clearBit · l.val) a) m
        { r with written := strip r.written, blank := strip r.blank, busy := strip r.busy,
                 blankFrom := r.blankFrom.set l.val from',
                 blankTo := r.blankTo.set l.val (from' + r.lines) })) s

/-- Where a plane of a ribbon line stands in SRAM (R15, R143; log 46). -/
def Ribbon.planeAddr (r : Ribbon) (l n : Nat) : Nat :=
  let ps := planesOf r.layers
  let bytes := r.width * 24
  sramBase + r.base * 64 + (n % max r.lines 1) * (ps.length * bytes) +
    ((ps.takeWhile (· < l)).length) * bytes

/-- Three bits a dot, dot `x` at bits 3`x` and up. -/
def packDots (ds : List Nat) : List Byte :=
  let v := ds.foldr (fun d acc => d % 8 + 8 * acc) 0
  leBytes ((3 * ds.length + 7) / 8) v

/-- Write dots from column `col`, a multiple of 256, of a plane. -/
def State.putDots (s : State) (h l n col : Nat) (ds : List Nat) : State :=
  let r := s.ribOf h
  s.store (r.planeAddr l n + col * 3 / 8) (packDots (ds.take (r.width * 64 - col))) false

/-- A dot of a ribbon line as Trellis reads it: 0 in a plane that no tile has written, or that is blank
because its stream does not run (R144, R184). -/
def State.ribbonDot (s : State) (h l n x : Nat) : Nat :=
  let r := s.ribOf h
  if hasBit (Tbl.get 0 n r.written) l && s.stmRan l then
    let a := r.planeAddr l n + 3 * x / 8
    (s.byte a).toNat + 256 * (s.byte (a + 1)).toNat |>.shiftRight (3 * x % 8) |> (· % 8)
  else 0

/-! ### The pool and live capacity (R63, R148, R150, R163) -/

/-- The bits of `WK_OUT`. -/
def State.wkOut (s : State) (k : Nat) : Nat := s.rd (pgKSK k) ⟨0x05C, 3, 0⟩

def State.inPool (s : State) (k : Nat) : Bool := s.kioskState k == 1 || s.kioskState k == 2

/-- A kiosk's cycles per µs: its cluster's frequency in MHz. -/
def State.kioskMhz (s : State) (k : Nat) : Nat := (s.pll (2 + k / 24)).target

/-- Live capacity of a list of kiosks. -/
def State.capacityOf (s : State) (ks : List Nat) : Nat :=
  ((ks.filter (fun k => decide (k < s.part.kiosks) && s.inPool k)).map s.kioskMhz).sum

/-- Publish live capacity where it has changed (R136, R150). -/
def State.publish (s : State) : State :=
  let c := s.capacityOf (List.range 96)
  if c = s.rd pgING ING_LIVE_CAP_CYCLES then s
  else
    let s1 := (s.wr pgING ING_LIVE_CAP_CYCLES c).raise pgING 0
    [0, 1, 2, 3].foldl (fun t i => t.sendAck i) s1

def State.holding (s : State) (k : Nat) : Holding := (s.ing.kiosks.toList[k]?).getD .nothing

def State.setHolding (s : State) (k : Nat) (x : Holding) : State :=
  if hk : k < 96 then
    s.updIng (fun g => { g with kiosks := g.kiosks.set k x, waits := g.waits.filter (· != k) })
  else s

/-- Once every kiosk of a cluster has left the pool, its PLL relocks (R63). -/
def State.drainCheck (s : State) (c : Nat) : State :=
  if (s.pll (2 + c)).phase = .draining ∧
      (List.range 24).all (fun i => !s.inPool (24 * c + i)) then s.startPll (2 + c)
  else s

/-- Something keeps the kiosk out of the pool: a reason of `WK_OUT`, or PRINT's quiesce (R83, R148). -/
def State.keptOut (s : State) (k : Nat) : Bool := s.wkOut k != 0 || s.pwr.poolOut

/-- A kiosk leaves the pool; its tile goes back to its queue (R148). -/
def State.kioskAway (s : State) (k : Nat) : State :=
  let s1 := match s.holding k with
    | .tile id => s.updTile id (fun t => { t with place := .queued })
    | _ => s
  let s2 := (s1.setHolding k .nothing).setState (pgKSK k)
    (if s.bit (pgKSK k) WK_OUT_RETIRED then 3 else 0)
  s2.drainCheck (k / 24)

/-- A kiosk that something keeps out leaves the pool, which changes live capacity (R148, R150). -/
def State.kioskLeave (s : State) (k : Nat) : State := (s.kioskAway k).publish

/-- A kiosk follows what keeps it out: an idle one leaves at once, a decoding one at its block's end, and
one that nothing keeps out rejoins. -/
def State.kioskMove (s : State) (k : Nat) : State :=
  if s.keptOut k then (if s.kioskState k = 1 then s.kioskAway k else s)
  else if s.kioskState k = 0 then s.setState (pgKSK k) 1
  else s

/-- One kiosk follows, and live capacity with it. -/
def State.kioskSettle (s : State) (k : Nat) : State := (s.kioskMove k).publish

/-- A reason to leave begins or ends on some kiosks; live capacity follows once they all have moved
(R150). -/
def State.setOuts (s : State) (ks : List Nat) (f : Fld) (b : Bool) : State :=
  (ks.foldl (fun t k => (t.wrBit (pgKSK k) f b).kioskMove k) s).publish

def State.setOut (s : State) (k : Nat) (f : Fld) (b : Bool) : State := s.setOuts [k] f b

/-- The tile that a kiosk holds loses what it wrote: the lines are to be written again (R148). -/
def State.distrust (s : State) (k : Nat) : State :=
  match s.holding k with
  | .tile id => s.updTile id (fun t => { t with rewrite := true })
  | _ => s

/-- A kiosk is retired (R148, R375): after a failure at once, without its block's end. -/
def State.retireKiosk (s : State) (k : Nat) (failed : Bool) : State :=
  let s1 := s.wrBit (pgKSK k) WK_OUT_RETIRED true
  if failed then (s1.distrust k).kioskLeave k
  else if s1.kioskState k ≠ 2 then s1.kioskLeave k else s1

/-- Every kiosk of a cluster leaves for a relock of its PLL, or rejoins after it (R63). -/
def State.relockOut (s : State) (c : Nat) (out : Bool) : State :=
  s.setOuts ((kiosksBelow (1 + c)).filter (fun k => decide (k < s.part.kiosks))) WK_OUT_RELOCK out

/-- A kiosk has nothing to decode: it searches again, or leaves. -/
def State.kioskFree (s : State) (k : Nat) : State :=
  ((s.setHolding k .nothing).setState (pgKSK k) 1).kioskSettle k

/-! ### Queues and stealing (R146, R147) -/

/-- The pavilion place (R13) that owns a head's tiles. -/
def State.ownerOf (s : State) (h : Nat) : Nat :=
  let o := s.ac pgING (ING_HEAD_CFG_OWNER h)
  match s.kind o with
  | some .pav => o - 0x080
  | _ => 0

/-- The level at which kiosk `k` finds the queue of a pavilion (R147). -/
def levelOfQueue (k place : Nat) : Nat :=
  let q := 5 + k / 8
  let p := 1 + k / 24
  if place = q ∨ place = p ∨ place = 0 then 1
  else if 5 ≤ place ∧ (place - 5) / 3 + 1 = p then 2
  else 3

/-- The tiles a level offers: beyond level 1 only those due within the kiosk's horizon. -/
def State.offered (s : State) (k lv : Nat) : List Tile :=
  s.ing.tiles.filter (fun t =>
    t.place == .queued && levelOfQueue k (s.ownerOf t.head) == lv &&
    (lv == 1 || decide (posDiff (s.deadlineOf t) s.pos < s.rd (pgKSK k) WK_HORIZON_PU)))

/-- The tile an idle kiosk takes: of the first level that offers one (R147). -/
def State.choose (s : State) (k : Nat) : Option Tile :=
  match s.first (s.offered k 1) with
  | some t => some t
  | none =>
    match s.first (s.offered k 2) with
    | some t => some t
    | none => s.first (s.offered k 3)

/-! ### Decoding (R148, R153, R155, R156, R167, R178) -/

/-- Count decode cycles, and the overrun where they pass the stamp (R153). -/
def State.countCycles (s : State) (k id cyc : Nat) : State :=
  match s.tile? id with
  | none => s
  | some t =>
    let p := pgKSK k
    let n := t.counted + cyc
    let s1 := (s.add2 p WK_CYCLES_LO_N WK_CYCLES_HI_N cyc).updTile id (fun u => { u with counted := n })
    if t.cost < n ∧ !t.overran then
      let s2 := (s1.updTile id (fun u => { u with overran := true })).raise p 0
      (s2.incSat p WK_OVERRUNS_N).incSat (pgSTM t.stream) STM_OVERRUNS_N
    else s1

/-- The stream's plane is marked blank in every line of the tile that is not completed, and the tile
is rejected (R156). -/
def State.stopTile (s : State) (k : Nat) (t : Tile) (code : Nat) : State :=
  let s1 := (List.range (t.lines - t.dec.line)).foldl
    (fun u i => u.markBlank t.head t.stream (s.firstOf t + t.dec.line + i)) s
  (s1.rejectTile t.id code).kioskFree k

/-- The tile's plane writes end unfinished and the tile goes (R155, R157). -/
def State.abandonTile (s : State) (k : Nat) (t : Tile) : State := (s.freeTile t.id).kioskFree k

/-- What a kiosk's block came to. -/
structure BlockOut where
  dots : List Nat
  dec : Dec
  cycles : Nat
  deriving DecidableEq, Repr

/-- A tile's next block, of the bits before `lim`. -/
def State.blockUpTo (s : State) (t : Tile) (lim : Nat) : Except DecStop BlockOut :=
  (decodeDots dotCoding (tileBit (s.tileByte t)) lim t.width (blockDots t.width t.dec) t.dec [] 0).map
    (fun r => { dots := r.1, dec := r.2.1, cycles := r.2.2 })

/-- The next block of a tile; none is a decode error. -/
def State.nextBlock (s : State) (t : Tile) : Option BlockOut := (s.blockUpTo t (8 * (t.len - 2))).toOption

/-- The cycles of a block that breaks a rule: those of the dots before the break (R153; log 96). -/
def State.spent (s : State) (t : Tile) : Nat :=
  spentDots dotCoding (tileBit (s.tileByte t)) (8 * (t.len - 2)) t.width (blockDots t.width t.dec) t.dec 0

/-- The block at the tile's present place is its last. -/
def Tile.lastBlock (t : Tile) : Bool :=
  decide (t.dec.line + 1 = t.lines) && decide (t.dec.col + blockDots t.width t.dec = t.width)

/-- Write a block's dots, unless the line's send deadline has passed (R155); the last block of a line
fills the rest of the ribbon's width with no drops (R167). -/
def State.writeBlock (s : State) (t : Tile) (b : BlockOut) : State :=
  let n := s.firstOf t + t.dec.line
  if n < (s.hscOf t.head).send.line then s
  else
    let ended := decide (b.dec.line ≠ t.dec.line)
    let pad := if ended then List.replicate ((s.ribOf t.head).width * 64 - t.width) 0 else []
    s.putDots t.head t.stream n t.dec.col (b.dots ++ pad)

/-- After a block that ended a line other than the last: the line is completed and the next one's
write begins (R167). -/
def State.lineDone (s : State) (t : Tile) (ended more : Bool) : State :=
  let n := s.firstOf t + t.dec.line
  if !ended then s
  else
    let s1 := if n < (s.hscOf t.head).send.line then s else s.endPlane t.head t.stream n
    if more then s1.beginPlane t.head t.stream (n + 1) else s1

/-- At a block boundary: a tile of a stream that is being reset is abandoned (R157), one whose last
line has passed is abandoned (R155), a kiosk that is kept out leaves (R148). -/
def State.atBoundary (s : State) (k id : Nat) : State :=
  match s.tile? id with
  | none => s.kioskFree k
  | some t =>
    if !s.stmRunning t.stream then s.abandonTile k t
    else if s.firstOf t + t.lines ≤ (s.hscOf t.head).send.line then s.abandonTile k t
    else if s.keptOut k then s.kioskLeave k
    else s

/-- The tile's present block breaks the bitstream's rules: the cycles it took count, and the tile is
stopped (R153, R156). -/
def State.breakTile (s : State) (k : Nat) (t : Tile) : State :=
  (s.countCycles k t.id (s.spent t)).stopTile k t 9

/-- The lines that a tile had written before its kiosk failed are written again, and each is done from the
end of its write (R144, R148; log 96): `u` walks the tile from its start to its stored state. -/
def State.replay (s : State) (t : Tile) : Nat → Tile → State
  | 0, _ => s
  | n + 1, u =>
    if u.dec.line = t.dec.line ∧ u.dec.col = t.dec.col then s
    else
      match s.nextBlock u with
      | none => s
      | some b =>
        let s1 := (s.writeBlock u b).lineDone u (decide (b.dec.line ≠ u.dec.line)) true
        State.replay s1 t n { u with dec := b.dec }

/-- A kiosk begins or resumes a tile, and waits for its data from DRAM. -/
def State.takeTile (s : State) (k : Nat) (t : Tile) : State :=
  let s1 := s.updTile t.id (fun u => { u with place := .kiosk k })
  let s2 := (s1.setHolding k (.tile t.id)).setState (pgKSK k) 2
  let s3 := s2.updIng (fun g => { g with waits := g.waits ++ [k] })
  s3.beginPlane t.head t.stream (s.firstOf t + t.dec.line)

/-- The data that a kiosk waits for have come by the end of its first block (log 42): they stand in its
buffer, and lines that are to be written again are. -/
def State.fetched (s : State) (k : Nat) (t : Tile) : State :=
  if !s.ing.waits.contains k then s
  else
    let s1 := s.updIng (fun g => { g with waits := g.waits.filter (· != k) })
    let s2 := s1.fetchTile k t
    if t.rewrite then
      (s2.updTile t.id (fun u => { u with rewrite := false })).replay t (33 * t.lines)
        { t with dec := tileStart }
    else s2

/-- Offsets in the tile of the words that a kiosk reads poisoned from its buffer (R156, R293, R300), from
its present word on; at its start it reads the header too.  Folly 2 of the BIST page spoils one. -/
def State.badWords (s : State) (k : Nat) (t : Tile) : List Nat :=
  let buf := kioskBuf k
  let from' := if t.dec.line = 0 ∧ t.dec.col = 0 then 0 else t.dec.bitPos / 64 * 8
  ((s.poison ++ (s.follyWord buf t.len).toList).filter
    (fun c => decide (buf + from' ≤ c) && decide (c < buf + t.len))).map (fun c => c - buf)

/-- The tile's present block reads a poisoned word: in its bits, or behind them in the tile's end (R156). -/
def State.tileBad (s : State) (k : Nat) (t : Tile) : Bool :=
  match s.badWords k t with
  | [] => false
  | o :: os =>
    let first := os.foldl min o
    let stop := 8 * (t.len - 2)
    if first < 32 then true
    else
      match s.blockUpTo t (min stop (8 * first)) with
      | .ok _ => t.lastBlock
      | .error .past => decide (8 * first < stop)
      | .error .rule => false

/-- The tile's word is poisoned: the kiosk says so and stops it (R156). -/
def State.poisonTile (s : State) (k : Nat) (t : Tile) : State :=
  let s1 := if (s.follyWord (kioskBuf k) t.len).isSome then s.inject pgBST else s
  (s1.wr (pgKSK k) UNIT_STATUS_POISON_SEEN 1).stopTile k t 8

/-- At a block's end the tile's data have come, errors of the buffer's words are found, and folly 1 adds its
cycles (R153, R300, R380). -/
def State.atBlock (s : State) (k : Nat) (t : Tile) (errs : List SramErr) : State :=
  ((s.fetched k t).sramErrs (kioskBuf k) t.len errs).atFolly (pgKSK k) 1
    (fun v => v.countCycles k t.id (s.follyParam (pgKSK k))) id

/-- A kiosk works one block of its tile that is not the last (R148, R156, R167). -/
def State.workBlock (s : State) (k : Nat) (t : Tile) : State :=
  if s.tileBad k t then s.poisonTile k t
  else
    match s.nextBlock t with
    | none => s.breakTile k t
    | some b =>
      let s1 := s.writeBlock t b
      let s2 := (s1.countCycles k t.id b.cycles).updTile t.id (fun u => { u with dec := b.dec })
      (s2.lineDone t (decide (b.dec.line ≠ t.dec.line)) true).atBoundary k t.id

/-- A kiosk works the last block of its tile and checks the tile's end (R167, R178). -/
def State.workLast (s : State) (k : Nat) (t : Tile) : State :=
  if s.tileBad k t then s.poisonTile k t
  else
    match s.nextBlock t with
    | none => s.breakTile k t
    | some b =>
      let s1 := (s.writeBlock t b).countCycles k t.id b.cycles
      if tileEndOk (tileBit (s.tileByte t)) (s.tileByte t) t.len b.dec.bitPos then
        let s2 := s1.lineDone t true false
        let s3 := s2.add2 (pgKSK k) WK_TILES_LO_N WK_TILES_HI_N 1
        (s3.freeTile t.id).kioskFree k
      else s1.stopTile k t 9

/-! ### Stream resets (R157, R162) -/

/-- A reset of a running stream begins: its DMA is fenced, its datagrams are dropped, and its tiles
that no kiosk holds leave every queue and staging. -/
def State.resetStream (s : State) (i : Fin 4) : State :=
  let p := pgSTM i.val
  let n := (s.stmOf i).frags.length
  let s1 := ((s.setState p 3).setBusy p true).addSat p STM_DROPS_N n
  let left := fun (x : Stream) => if s.stmRunning i.val then some s.now else x.leftAt
  let s2 := s1.updStm i (fun x => { x with fenced := true, frags := [], leftAt := left x })
  let held : Tile → Bool := fun t =>
    match t.place with
    | .kiosk _ => true
    | _ => false
  (s2.updIng (fun g => { g with tiles := g.tiles.filter (fun t => t.stream != i.val || held t) })).showQueue

/-- A reset completes: what is left of the stream goes, its planes are blank in every ring, its
sequence state is cleared, and it reads IDLE or DISABLED as `ENABLE` gives. -/
def State.resetDone (s : State) (i : Fin 4) : State :=
  let p := pgSTM i.val
  let mine := s.ing.tiles.filter (fun t => t.stream == i.val)
  let s1 := mine.foldl
    (fun u t =>
      match t.place with
      | .kiosk k => u.abandonTile k t
      | _ => u.freeTile t.id) s
  let s2 := s1.blankRings i
  let s3 := s2.updStm i (fun x =>
    { x with started := false, highest := 0, holes := [], frags := [], epoch := 0, peer := [],
             sinceAck := 0, used := 0, wr := 0, expected := [], loop := [], wasReset := true })
  let s4 := (s3.wr p STM_CUM_SEQ_SEQ 0).showStaging i
  (s4.setBusy p false).setState p (if s4.bit p UNIT_CTRL_ENABLE then 1 else 0)

end Sys2Proof.Machine
end

