-- ==== Sys2Proof/Machine/TrellisOps.lean ====
section
/-! DEFINITION. Trellis: the nozzle table and its banks, the mapping of one line, poison, nozzle-out
across heads (R183–R199). -/

namespace Sys2Proof.Machine

def State.trlOf (s : State) (h : Nat) : Trl :=
  (s.trl.toList[h]?).getD { bank := false, maps := [], differs := false, held := [], again := false }

def State.updTrl (s : State) (h : Nat) (g : Trl → Trl) : State :=
  if hh : h < 32 then { s with trl := s.trl.set h (g (s.trl.get ⟨h, hh⟩)) } else s

/-! ### The nozzle table (R185, R191, R192) -/

/-- Bytes of one bank, and where a head's bank stands in the Trellis region (R15; log 50). -/
def trlBankBytes : Nat := 81920

def trlBank (h : Nat) (bank : Bool) : Nat := 0x1002E00000 + (2 * h + b2n bank) * trlBankBytes

def trlEntry (h : Nat) (bank : Bool) (i : Nat) : Nat := trlBank h bank + 16 * i

/-- Bits of an entry's word that are no reserved bits. -/
def trlMask (w : Nat) : Word :=
  if w = 0 then 0x07FF7FFF else if w = 2 then 0x8003FFFF else if w = 3 then 0x001FFFFF
  else 0xFFFFFFFF

/-- An entry's four words. -/
structure Nozzle where
  w0 : Word
  mask : Word
  w2 : Word
  lut : Word
  deriving DecidableEq, Repr

def State.nozzleAt (s : State) (h : Nat) (bank : Bool) (i : Nat) : Nozzle :=
  let word := fun (w : Nat) => BitVec.ofNat 32 (s.mem32 (trlEntry h bank i + 4 * w)) &&& trlMask w
  { w0 := word 0, mask := word 1, w2 := word 2, lut := word 3 }

def Nozzle.column (e : Nozzle) : Nat := getBits 12 0 e.w0
def Nozzle.out (e : Nozzle) : Bool := e.w0.getLsbD 13
def Nozzle.partnerOut (e : Nozzle) : Bool := e.w0.getLsbD 14
def Nozzle.compL (e : Nozzle) : Nat := min (getBits 19 16 e.w0) 8
def Nozzle.compR (e : Nozzle) : Nat := min (getBits 23 20 e.w0) 8
def Nozzle.max (e : Nozzle) : Nat := getBits 26 24 e.w0
def Nozzle.partner (e : Nozzle) : Nat := getBits 17 0 e.w2
def Nozzle.partnered (e : Nozzle) : Bool := e.w2.getLsbD 31

/-- `NOZZLES` of a geometry word; 0 and values above 5,120 act as 5,120. -/
def nozzlesOf (geom : Word) : Nat :=
  let n := TRL_GEOM_NOZZLES.get geom
  if n = 0 ∨ 5120 < n then 5120 else n

def periodOf (geom : Word) : Nat :=
  let n := TRL_GEOM_MASK_PERIOD.get geom
  if n = 0 ∨ 32 < n then 32 else n

/-! ### The mapping of one line (R183–R190) -/

/-- One column's merged dot from the dots of layers 0 to 3 (R184). -/
def mergeDots (mode order : Nat) (dots : Nat → Nat) : Nat :=
  if mode = 1 then dots 0 ||| dots 1 ||| dots 2 ||| dots 3
  else if mode = 2 then max (max (dots 0) (dots 1)) (max (dots 2) (dots 3))
  else
    (([0, 1, 2, 3].map (fun i => dots (order / 4 ^ i % 4))).find? (fun d => decide (d ≠ 0))).getD 0

/-- The merged dot of a column, with the groups that were read poisoned as 0 in their plane (R196). -/
def Mapping.merged (m : Mapping) (bad : List (Nat × Nat)) (col : Nat) : Nat :=
  let dot := fun (l : Nat) =>
    if bad.contains (l, col / 64) then 0 else (((m.planes[l]?).getD [])[col]?).getD 0
  mergeDots (TRL_MERGE_MODE.get m.merge) (TRL_MERGE_ORDER.get m.merge) dot

/-- The level for a dot (R188). -/
def lutLevel (lut : Word) (v : Nat) : Nat := if v = 0 then 0 else getBits (3 * v - 1) (3 * v - 3) lut

/-- A nozzle's own level: select, mask, density (R186–R188). -/
def ownLevel (e : Nozzle) (phase dot : Nat) : Nat :=
  let free := !e.out && e.partnerOut
  if free || e.mask.getLsbD phase then lutLevel e.lut dot else 0

/-- What an out nozzle passes to one side (R189). -/
def passed8 (e : Nozzle) (own comp : Nat) : Nat :=
  if e.out && (!e.partnered || e.partnerOut) then (own * comp + 4) / 8 else 0

/-- What each nozzle is with its own level: none where its entry was read poisoned (R197). -/
abbrev Cell := Option (Nozzle × Nat)

def cellPass (left : Bool) : Cell → Nat
  | none => 0
  | some (e, own) => passed8 e own (if left then e.compL else e.compR)

/-- Compensation and clamp (R189): the nozzle, and those beside it. -/
def fireLevel (before here after : Cell) : Nat :=
  match here with
  | none => 0
  | some (e, own) =>
    if e.out then 0 else min e.max (own + cellPass false before + cellPass true after)

/-- Levels of a row of nozzles. -/
def fireLevels : Cell → List Cell → List Nat
  | _, [] => []
  | before, here :: rest => fireLevel before here (rest.head?.getD none) :: fireLevels here rest

/-- Mapping is enabled, as it stands when a line is delivered (R194). -/
def State.maps (s : State) (h : Nat) : Bool := s.bit (pgTRL h) UNIT_CTRL_ENABLE

/-- The levels of a mapped line (R183, R194). -/
def State.mapLevels (s : State) (h : Nat) (m : Mapping) (groups : List (Nat × Nat))
    (entries : List Nat) : List Nat :=
  let n := nozzlesOf m.geom
  if !s.maps h then List.replicate n 0
  else
    let phase := (m.line + TRL_GEOM_MASK_PHASE.get m.geom) % periodOf m.geom
    let cell := fun (i : Nat) =>
      if entries.contains i then none
      else
        let e := s.nozzleAt h m.bank i
        some (e, ownLevel e phase (m.merged groups e.column))
    fireLevels none ((List.range n).map cell)

/-- Groups of the line's planes that stand poisoned (R196). -/
def State.badGroups (s : State) (h : Nat) (m : Mapping) : List (Nat × Nat) :=
  let r := s.ribOf h
  (planesOf r.layers).flatMap (fun l =>
    ((List.range r.width).filter
      (fun g => s.poisonedIn (r.planeAddr l m.line + 24 * g) 24)).map (fun g => (l, g)))

/-- Entries of the line's bank that stand poisoned (R197). -/
def State.badEntries (s : State) (h : Nat) (m : Mapping) : List Nat :=
  (List.range (nozzlesOf m.geom)).filter (fun i => s.poisonedIn (trlEntry h m.bank i) 16)

/-- Report a poisoned group or entry (R196, R197). -/
def State.trlPoison (s : State) (h line place kind plane : Nat) : State :=
  let p := pgTRL h
  let s1 := ((s.wr p UNIT_STATUS_POISON_SEEN 1).incSat p TRL_POISON_COUNT).wr p TRL_POISON_LAST_WHERE
    place
  ((s1.wr p TRL_POISON_LAST_KIND kind).wr p TRL_POISON_LAST_PLANE plane).raiseD p 0
    (line % 2 ^ 48 + 2 ^ 48 * place + 2 ^ 61 * plane)

/-- What a line's mapping read poisoned: the operand's groups and entries, and those that stand so. -/
def State.mapPoison (s : State) (h : Nat) (m : Mapping) (groups : List (Fin 4 × Fin 128))
    (entries : List (BitVec 13)) : List (Nat × Nat) × List Nat :=
  if !s.maps h then ([], [])
  else
    let r := s.ribOf h
    let g1 := (groups.map (fun g => (g.1.val, g.2.val))).filter
      (fun g => (planesOf r.layers).contains g.1 && decide (g.2 < r.width))
    let e1 := (entries.map BitVec.toNat).filter (fun i => decide (i < nozzlesOf m.geom))
    ((g1 ++ s.badGroups h m).eraseDups, (e1 ++ s.badEntries h m).eraseDups)

/-- What Trellis fixes of a line at its send deadline (R193). -/
def State.mapping (s : State) (h n : Nat) (num : BitVec 32) : Mapping :=
  let r := s.ribOf h
  let p := pgTRL h
  let plane := fun (l : Nat) =>
    if (planesOf r.layers).contains l then
      (List.range (r.width * 64)).map (fun x => s.ribbonDot h l n x)
    else []
  { line := n, num := num, planes := [plane 0, plane 1, plane 2, plane 3], bank := (s.trlOf h).bank,
    merge := s.actWord p 0x040, geom := s.actWord p 0x044 }

/-! ### Banks (R191, R192) -/

/-- Bank states. -/
def bkCLEAN : Nat := 1
def bkDIRTY : Nat := 2
def bkSYNCING : Nat := 3

def State.trlState (s : State) (h : Nat) : Nat := s.rd (pgTRL h) UNIT_STATUS_STATE

/-- How many entries of the active bank have `OUT` = 1. -/
def State.outActive (s : State) (h : Nat) : Nat :=
  ((List.range 5120).filter
    (fun i => (s.byte (trlEntry h (s.trlOf h).bank i + 1)).getLsbD 5)).length

/-- The new active bank overwrites the shadow bank, and the page reads CLEAN. -/
def State.trlSync (s : State) (h : Nat) : State :=
  let b := (s.trlOf h).bank
  let s1 := (s.copyMem (trlBank h b) (trlBank h !b) trlBankBytes).setState (pgTRL h) bkCLEAN
  s1.wr (pgTRL h) TRL_OUT_ACTIVE_N (s1.outActive h)

/-- No line is being mapped from the old bank (R191). -/
def State.trlIdle (s : State) (h : Nat) : Bool :=
  (s.trlOf h).maps.all (fun m => m.bank == (s.trlOf h).bank)

/-- A commit on a TRL page swaps the banks (R191).  One that finds the last one's copy still to be made
swaps once that copy has been made, which keeps to its own lines (log 51). -/
def State.trlSwap (s : State) (h : Nat) : State :=
  let swap (t : State) : State :=
    (t.updTrl h (fun x => { x with bank := !x.bank })).setState (pgTRL h) bkSYNCING
  if s.trlState h ≠ bkSYNCING then swap s
  else if s.trlIdle h then swap (s.trlSync h)
  else s.updTrl h (fun x => { x with again := true })

/-- The copy ends; a swap that waited for it follows, and its own copy begins. -/
def State.trlCopied (s : State) (h : Nat) : State :=
  let s1 := s.trlSync h
  if (s.trlOf h).again then (s1.updTrl h (fun x => { x with again := false })).trlSwap h else s1

/-- An access to a word of the window (R192). -/
def State.trlWindow (s : State) (r : Req) (h w : Nat) (write : Option Word) : State :=
  let p := pgTRL h
  let i := min (s.rd p TRL_TBL_INDEX_NOZZLE) 5119
  let active := s.bit p TRL_TBL_INDEX_ACTIVE
  let b := (s.trlOf h).bank
  let a := trlEntry h (if active then b else !b) i + 4 * w
  let s1 := match write with
    | none => s.emit (.readData r (BitVec.ofNat 32 (s.mem32 a) &&& trlMask w))
    | some v =>
      if active || (s.commitOf p).isSome then s.dropWrite r p (0x050 + 4 * w)
      else
        -- the written word is encoded afresh, so that its codeword's tag goes (R197, log 50)
        let t := s.store (a / 8 * 8) (s.bytes (a / 8 * 8) 8) false
        (t.store a (leBytes 4 (v &&& trlMask w).toNat) false).setState p bkDIRTY
  if w = 3 then s1.wr p TRL_TBL_INDEX_NOZZLE (if i = 5119 then 0 else i + 1) else s1

/-- An access to the window: the fabric holds it while the banks are copied (R192). -/
def State.trlAccess (s : State) (r : Req) (h w : Nat) (write : Option Word) : State :=
  if s.trlState h = bkSYNCING then
    s.updTrl h (fun x => { x with held := x.held ++ [.window r w write] })
  else s.trlWindow r h w write

/-- A write of the host window at an offset of the shadow bank, judged as one through the window (R285);
its bytes have the entries' reserved bits at 0. -/
def State.trlStore (s : State) (r : Req) (h ofs : Nat) (bs : List Byte) (bad : Bool) : State :=
  if (s.commitOf (pgTRL h)).isSome then s.dropWrite r (pgTRL h) (0x050 + ofs % 16 / 4 * 4)
  else if s.trlState h = bkSYNCING then
    s.updTrl h (fun t => { t with held := t.held ++ [.store r ofs bs bad] })
  else (s.store (trlBank h (!(s.trlOf h).bank) + ofs) bs bad).setState (pgTRL h) bkDIRTY

/-- LOAD_DEFAULT's entry of nozzle `i` (R198). -/
def trlDefault (i : Nat) : List Byte :=
  leBytes 4 (0x07440000 + i) ++ leBytes 4 0xFFFFFFFF ++ leBytes 4 0 ++ leBytes 4 0x001F58D1

/-! ### Nozzle-out across heads (R195) -/

/-- Set a bit of a shadow entry's first word. -/
def State.setShadowBit (s : State) (h i bit : Nat) (v : Bool) : State :=
  let a := trlEntry h (!(s.trlOf h).bank) i
  let w := BitVec.ofNat 32 (s.mem32 a)
  (s.store a (leBytes 4 (putBits bit bit (b2n v) w).toNat) false).setState (pgTRL h) bkDIRTY

/-- The shadow entry of a global nozzle number. -/
def State.shadowNozzle (s : State) (g : Nat) : Nozzle :=
  s.nozzleAt (g / 5120) (!(s.trlOf (g / 5120)).bank) (g % 5120)

/-- A global nozzle number lies on a present head, below its `NOZZLES`. -/
def State.nozzleOk (s : State) (g : Nat) : Bool :=
  decide (g / 5120 < s.part.heads) &&
    decide (g % 5120 < nozzlesOf (s.actWord (pgTRL (g / 5120)) 0x044))

/-- The pages a SET_OUT of nozzle `g` concerns: its head, and its partner's. -/
def State.outHeads (s : State) (g : Nat) : List Nat :=
  let e := s.shadowNozzle g
  if e.partnered then [g / 5120, e.partner / 5120].eraseDups else [g / 5120]

def State.outBad (s : State) (g : Nat) : Bool :=
  let e := s.shadowNozzle g
  !s.nozzleOk g || (e.partnered && (!s.nozzleOk e.partner ||
    !(s.shadowNozzle e.partner).partnered || (s.shadowNozzle e.partner).partner != g))

/-- SET_OUT's effect on the tables and their commits.  Where it acts on no partner, `TRL_OUT_LAST.PARTNER` keeps
the one before (DESIGN CHOICE, log 78). -/
def State.setOutPages (s : State) (r : Req) (g : Nat) (v : Bool) : State :=
  let e := s.shadowNozzle g
  let hs := s.outHeads g
  let s1 := s.setShadowBit (g / 5120) (g % 5120) 13 v
  let s2 := if e.partnered then s1.setShadowBit (e.partner / 5120) (e.partner % 5120) 14 v else s1
  let s3 := hs.foldl
    (fun t h => t.armCommit r (pgTRL h) (if (t.hscOf h).running then 3 else 1) false) s2
  let s4 := s3.wrBit pgTRLroot TRL_OUT_LAST_PAIRED e.partnered
  if e.partnered then s4.wr pgTRLroot TRL_OUT_LAST_PARTNER e.partner else s4

end Sys2Proof.Machine
end

