-- ==== Sys2Proof/Machine/Pairs.lean ====
section
/-! DEFINITION. The pairs of shadowed fields that each register page checks when a commit would take
effect (R51), judged on the shadow. -/

namespace Sys2Proof.Machine

/-- The number of the first pair that fails, counted from `n`; 0 where all hold. -/
def firstFail : Nat → List Bool → Nat
  | _, [] => 0
  | n, ok :: rest => if ok then firstFail (n + 1) rest else n

/-- R104. -/
def State.encPairs (s : State) (p : Nat) : List Bool :=
  [decide (s.rd p ENC_RADIUS_MIN < s.rd p ENC_RADIUS_MAX),
   s.rd p ENC_INDEX_EXPECT_PU == 0 ||
     decide (8 * s.rd p ENC_INDEX_TOL_PU ≤ s.rd p ENC_INDEX_EXPECT_PU)]

/-- SDL's pair (R112): the check encoder differs from the source. -/
def State.sdlPairs (s : State) : List Bool :=
  let c := s.rd pgSDL SDL_CFG_CHECK
  let src := s.rd pgSDL SDL_CFG_SOURCE
  [c == 3 || c != (if src = 3 then 0 else src)]

/-- R198. -/
def State.trlPairs (s : State) (p : Nat) : List Bool :=
  let ord := s.rd p TRL_MERGE_ORDER
  let all := ([0, 1, 2, 3] : List Nat).all (fun l =>
    (([0, 1, 2, 3] : List Nat).map (fun i => ord / 4 ^ i % 4)).contains l)
  let mode := s.rd p TRL_MERGE_MODE
  let g := s.word p 0x044
  [mode == 1 || mode == 2 || all,
   decide (TRL_GEOM_MASK_PHASE.get g < periodOf g)]

/-- The longest train of R203 in steps of 250 ps, from the shadow. -/
def State.longestTrain (s : State) (p : Nat) : Nat :=
  let hi := s.rd p FIR_CLAMP_HI
  ((List.range 7).map (fun k =>
    let w := waveOf k (s.word p (0x060 + 4 * k))
    w.2 + scaled w.1 hi)).sum

/-- R203. -/
def State.firPairs (s : State) (p : Nat) : List Bool :=
  [decide (s.rd p FIR_CLAMP_LO ≤ 0x4000) && decide (0x4000 ≤ s.rd p FIR_CLAMP_HI),
   decide (s.rd p FIR_VREF_VMIN < s.rd p FIR_VREF_VREF),
   decide (s.longestTrain p ≤ 4 * s.rd p FIR_TRAIN_MAX_NS)]

/-- R261; `LINE_SAMPLES` outside 2 to 8,192 acts as the nearest limit. -/
def State.camPairs (s : State) (p : Nat) : List Bool :=
  let n := min (max (s.rd p CAM_LINE_LINE_SAMPLES) 2) 8192
  let cut := s.rd p CAM_QUEUE_CUT_THRU
  [n % 2 == 0 && (s.rd p CAM_CFG_FORMAT == 0 || n % 6 == 0),
   decide (s.rd p CAM_LAT_LAT_MIN < s.rd p CAM_LAT_LAT_MAX),
   cut == 0 || decide (cut < n)]

/-- R275; `ALONG` = 0 acts as 1. -/
def State.qlpPairs (s : State) : List Bool :=
  let along := max 1 (s.rd pgQLP QLP_CFG_ALONG)
  let kw := ((List.range 32).map (fun t => s.rd pgQLP (QLP_KW_W t))).sum
  [decide (kw * along ≤ 65536), decide (s.rd pgQLP QLP_CFG_PHASE < along)]

/-- R93. -/
def State.pwrPairs (s : State) : List Bool :=
  (List.range 8).map (fun w =>
    decide (s.rd pgPWR (PWR_WIN_LIM_LOW w) ≤ s.rd pgPWR (PWR_WIN_LIM_HIGH w))) ++
  (List.range 4).map (fun c =>
    let h := s.rd pgPWR (PWR_COMP_THR_HYST c)
    let t := s.rd pgPWR (PWR_COMP_THR_THRESH c)
    decide (h ≤ t) && decide (t + h ≤ 1023))

/-- R358. -/
def State.axisPairs (s : State) (p : Nat) : List Bool :=
  [decide (s.rd p MOT_I_HR_I_HOLD ≤ s.rd p MOT_I_HR_I_RUN) &&
   decide (s.rd p MOT_I_HR_I_RUN ≤ s.rd p MOT_I_MT_I_MAX) &&
   decide (s.rd p MOT_I_MT_I_MAX < s.rd p MOT_I_MT_I_TRIP)]

/-- R360. -/
def State.fntPairs (s : State) : List Bool :=
  let p := pgFNT
  let t := s.rdS p FNT_SP_TARGET_P
  [decide (s.rd p FNT_OUT_OUT_MIN < s.rd p FNT_OUT_OUT_MAX),
   s.rd p FNT_SP_LIM_SP_VMAX != 0 && s.rd p FNT_SP_LIM_SP_AMAX != 0 && s.rd p FNT_SP_JMAX_J != 0 &&
     decide (4 * s.rdS p FNT_P_RANGE_P_LOW ≤ t) && decide (t ≤ 4 * s.rdS p FNT_P_RANGE_P_HIGH)]

/-- The NET root's pair (R331): the two addresses differ and neither is multicast. The multicast bit of a
48-bit value is its bit 40, the lowest of the byte that goes first on the wire (DESIGN CHOICE, log 88). -/
def State.netPairs (s : State) : List Bool :=
  let p := pgNETroot
  let m := s.rd2 p NET_MAC_LO_ADDR NET_MAC_HI_ADDR
  let v := s.rd2 p VNI_MAC_LO_ADDR VNI_MAC_HI_ADDR
  [m != v && m / 2 ^ 40 % 2 == 0 && v / 2 ^ 40 % 2 == 0]

/-- The pairs of a page, in the order of their numbers. -/
def State.pairsOf (s : State) (page : Nat) : List Bool :=
  match s.unit page with
  | some (.enc, _) => s.encPairs page
  | some (.sdl, _) => s.sdlPairs
  | some (.hsc, _) => [decide (256 ≤ s.rd page HSC_PITCH_INT_PU)]
  | some (.trg, _) => [decide (256 ≤ s.rd page TRG_PITCH_INT_PU)]
  | some (.trl, _) => s.trlPairs page
  | some (.fir, _) => s.firPairs page
  | some (.onk, _) => [decide (s.rd page ONK_EQ_PRE + s.rd page ONK_EQ_POST ≤ 24)]
  | some (.cam, _) => s.camPairs page
  | some (.qlp, _) => s.qlpPairs
  | some (.pwr, _) => s.pwrPairs
  | some (.axis, _) => s.axisPairs page
  | some (.fnt, _) => s.fntPairs
  | some (.netRoot, _) => s.netPairs
  | some (.net, _) => (List.range 4).map (fun l =>
      decide (s.rd page (NET_EQ_PRE l) + s.rd page (NET_EQ_POST l) ≤ 24))
  | _ => []

/-- The number of the first pair of the page that fails, or 0. -/
def State.badPair (s : State) (page : Nat) : Nat := firstFail 1 (s.pairsOf page)

end Sys2Proof.Machine
end

