-- ==== Sys2Proof/Machine/CamOps.lean ====
section
/-! DEFINITION. A camera port: its table and banks, the pending triggers, lines and frames, the
pipeline, statistics and the DRAM store (R244–R261), without what the quality loop does with a line. -/

namespace Sys2Proof.Machine

def camNone : Cam :=
  { pclkFall := false, storeBase := 0, storeSize := 0, storeNext := 0, fval := false, wait := [],
    cur := none, queue := [], frames := [], differs := false, nextFrame := 0, headers := [], heldHist := [],
    heldZones := [], bank := false, held := [], again := false }

def State.camOf (s : State) (k : Nat) : Cam := (s.cam.toList[k]?).getD camNone

def State.updCam (s : State) (k : Nat) (g : Cam → Cam) : State :=
  if hk : k < 6 then { s with cam := s.cam.set k (g (s.cam.get ⟨k, hk⟩)) } else s

/-- The port is present and enabled. -/
def State.camOn (s : State) (k : Nat) : Bool :=
  decide (k < s.part.cams) && s.bit (pgCAM k) UNIT_CTRL_ENABLE

/-! ### The table (R253) -/

/-- Words of a bank, and where a bank stands in the Belvedere region (R15; log 50). -/
def camEntries : Nat := 11264

def camBank (k : Nat) (bank : Bool) : Nat := 0x1003680000 + (2 * k + b2n bank) * (4 * camEntries)

/-- Bits of an entry that are no reserved bits. -/
def camMask (i : Nat) : Word := if i < 8192 then 0xFFFFFFFF else 0x00000FFF

def State.camEntry (s : State) (k : Nat) (bank : Bool) (i : Nat) : Word :=
  BitVec.ofNat 32 (s.mem32 (camBank k bank + 4 * i)) &&& camMask i

def State.camBankState (s : State) (k : Nat) : Nat := s.rd (pgCAM k) CAM_STATUS_BANK

def State.setCamBank (s : State) (k code : Nat) : State := s.wr (pgCAM k) CAM_STATUS_BANK code

/-- The new active bank overwrites the shadow bank, and `BANK` reads CLEAN. -/
def State.camSync (s : State) (k : Nat) : State :=
  let b := (s.camOf k).bank
  (s.copyMem (camBank k b) (camBank k !b) (4 * camEntries)).setCamBank k bkCLEAN

/-- No frame is open that began with the old bank (R253). -/
def State.camIdle (s : State) (k : Nat) : Bool :=
  (s.camOf k).frames.all (fun f => f.bank == (s.camOf k).bank)

/-- A commit on a CAM page swaps the banks as one on a TRL page does (R253; log 51). -/
def State.camSwap (s : State) (k : Nat) : State :=
  let swap (t : State) : State :=
    (t.updCam k (fun x => { x with bank := !x.bank })).setCamBank k bkSYNCING
  if s.camBankState k ≠ bkSYNCING then swap s
  else if s.camIdle k then swap (s.camSync k)
  else s.updCam k (fun x => { x with again := true })

/-- The copy ends; a swap that waited for it follows, and its own copy begins. -/
def State.camCopied (s : State) (k : Nat) : State :=
  let s1 := s.camSync k
  if (s.camOf k).again then (s1.updCam k (fun x => { x with again := false })).camSwap k else s1

/-- An access to the window's data word (R192, R253). -/
def State.camWindow (s : State) (r : Req) (k : Nat) (write : Option Word) : State :=
  let p := pgCAM k
  let i := min (s.rd p CAM_TBL_INDEX_ENTRY) (camEntries - 1)
  let active := s.bit p CAM_TBL_INDEX_ACTIVE
  let b := (s.camOf k).bank
  let bank := if active then b else !b
  let s1 := match write with
    | none => s.emit (.readData r (s.camEntry k bank i))
    | some v =>
      if active || (s.commitOf p).isSome then s.dropWrite r p 0x0C8
      else
        let a := camBank k bank + 4 * i
        let t := s.store (a / 8 * 8) (s.bytes (a / 8 * 8) 8) false
        (t.store a (leBytes 4 (v &&& camMask i).toNat) false).setCamBank k bkDIRTY
  s1.wr p CAM_TBL_INDEX_ENTRY (if i = camEntries - 1 then 0 else i + 1)

/-- An access to the window: the fabric holds it while the banks are copied (R192, R253). -/
def State.camAccess (s : State) (r : Req) (k : Nat) (write : Option Word) : State :=
  if s.camBankState k = bkSYNCING then
    s.updCam k (fun c => { c with held := c.held ++ [.window r 0 write] })
  else s.camWindow r k write

/-- A write of the host window at an offset of the shadow bank, judged as one through the window (R285). -/
def State.camStore (s : State) (r : Req) (k ofs : Nat) (bs : List Byte) (bad : Bool) : State :=
  if (s.commitOf (pgCAM k)).isSome then s.dropWrite r (pgCAM k) 0x0C8
  else if s.camBankState k = bkSYNCING then
    s.updCam k (fun c => { c with held := c.held ++ [.store r ofs bs bad] })
  else (s.store (camBank k (!(s.camOf k).bank) + ofs) bs bad).setCamBank k bkDIRTY

/-- LOAD_DEFAULT's entry `i` (R261). -/
def camDefault (i : Nat) : List Byte :=
  leBytes 4 (if i < 8192 then 0x10000000 else 4 * (i % 1024))

/-! ### A frame's own parameters (R252) -/

/-- A field as the frame's start found it. -/
def CamFrame.fld (fr : CamFrame) (part : Part) (k : Nat) (f : Fld) : Nat :=
  f.get (Tbl.get (resetWord part (pgCAM k) f.off) (regKey (pgCAM k) f.off) fr.words)

def CamFrame.fldS (fr : CamFrame) (part : Part) (k : Nat) (f : Fld) : Int :=
  sint f.width (fr.fld part k f)

def CamFrame.rgb (fr : CamFrame) (part : Part) (k : Nat) : Bool := fr.fld part k CAM_CFG_FORMAT == 1

def CamFrame.byFval (fr : CamFrame) (part : Part) (k : Nat) : Bool :=
  fr.fld part k CAM_CFG_FVAL_EN == 1

def CamFrame.samples (fr : CamFrame) (part : Part) (k : Nat) : Nat :=
  min (max (fr.fld part k CAM_LINE_LINE_SAMPLES) 2) 8192

def CamFrame.pixels (fr : CamFrame) (part : Part) (k : Nat) : Nat :=
  if fr.rgb part k then fr.samples part k / 3 else fr.samples part k

def CamFrame.lines (fr : CamFrame) (part : Part) (k : Nat) : Nat :=
  max 1 (fr.fld part k CAM_FRAME_FRAME_LINES)

def CamFrame.store (fr : CamFrame) (part : Part) (k : Nat) : Nat := fr.fld part k CAM_CFG_STORE

/-- Values of a line record, and its stride (R260). -/
def CamFrame.values (fr : CamFrame) (part : Part) (k : Nat) : Nat :=
  if fr.store part k = 2 then fr.pixels part k else fr.samples part k

def CamFrame.stride (fr : CamFrame) (part : Part) (k : Nat) : Nat :=
  (16 + 2 * fr.values part k + 63) / 64 * 64

/-! ### The pipeline (R254, R255) -/

/-- Flat field and white balance of sample `x` of channel `c`. -/
def State.pipeline3 (s : State) (k : Nat) (fr : CamFrame) (c x : Nat) (v : Nat) : Int :=
  let black : Int :=
    if c = 0 then fr.fld s.part k CAM_BLACK01_BLACK0
    else if c = 1 then fr.fld s.part k CAM_BLACK01_BLACK1 else fr.fld s.part k CAM_BLACK2_BLACK2
  let wb : Int :=
    if c = 0 then fr.fld s.part k CAM_WB01_WB0
    else if c = 1 then fr.fld s.part k CAM_WB01_WB1 else fr.fld s.part k CAM_WB2_WB2
  let w := s.camEntry k fr.bank x
  let ofs := sint 16 (getBits 15 0 w)
  let gain : Int := getBits 31 16 w
  let s2 := (((v : Int) - black - ofs) * gain + 2048).fdiv 4096
  (s2 * wb + 2048).fdiv 4096

/-- Entry `j` of the colour matrix. -/
def CamFrame.ccm (fr : CamFrame) (part : Part) (k j : Nat) : Int :=
  fr.fldS part k (if j % 2 = 0 then CAM_CCM_MLO (j / 2) else CAM_CCM_MHI (j / 2))

/-- The tone curve of channel `c`. -/
def State.tone (s : State) (k : Nat) (fr : CamFrame) (c : Nat) (s4 : Int) : Nat :=
  let v := (min (max s4 0) 4095).toNat
  let i := v / 4
  let f : Int := v % 4
  let e := fun (n : Nat) => ((s.camEntry k fr.bank (8192 + 1024 * c + n)).toNat : Int)
  (e i + ((e (min (i + 1) 1023) - e i) * f).fdiv 4).toNat

/-- The processed values of a line's samples. -/
def State.processed (s : State) (k : Nat) (fr : CamFrame) (raw : List Nat) : List Nat :=
  if fr.rgb s.part k then
    let s3 := raw.mapIdx (fun x v => s.pipeline3 k fr (x % 3) x v)
    let at3 := fun (x : Nat) => (s3[x]?).getD 0
    (List.range raw.length).map (fun x =>
      let c := x % 3
      let b := x - c
      let sum := fr.ccm s.part k (3 * c) * at3 b + fr.ccm s.part k (3 * c + 1) * at3 (b + 1) +
        fr.ccm s.part k (3 * c + 2) * at3 (b + 2)
      s.tone k fr c ((sum + 2048).fdiv 4096))
  else raw.mapIdx (fun x v => s.tone k fr 0 (s.pipeline3 k fr 0 x v))

/-- Whether 1365 × log10(4095 ÷ y) + 0.5 reaches `d`, as powers of whole numbers. -/
def densityReaches (y d : Nat) : Bool :=
  d == 0 || decide (10 ^ (2 * d - 1) * y ^ 2730 ≤ 4095 ^ 2730)

/-- The density conversion table of R255. -/
def densityOf (y : Nat) : Nat :=
  [11, 10, 9, 8, 7, 6, 5, 4, 3, 2, 1, 0].foldl
    (fun d b => if densityReaches (max y 1) (d + 2 ^ b) then d + 2 ^ b else d) 0

/-- The density of each pixel. -/
def CamFrame.density (fr : CamFrame) (part : Part) (k : Nat) (t : List Nat) : List Nat :=
  let w0 := fr.fldS part k CAM_DENS_W01_W0
  let w1 := fr.fldS part k CAM_DENS_W01_W1
  let w2 := fr.fldS part k CAM_DENS_W2_W2
  let v := fun (x : Nat) => (((t[x]?).getD 0 : Nat) : Int)
  (List.range (fr.pixels part k)).map (fun p =>
    let y :=
      if fr.rgb part k then (w0 * v (3 * p) + w1 * v (3 * p + 1) + w2 * v (3 * p + 2) + 2048).fdiv 4096
      else (w0 * v p + 2048).fdiv 4096
    densityOf (min (max y 0) 4095).toNat)

/-! ### Statistics (R257) -/

/-- The zone of pixel `p` of `n`. -/
def zoneOf (p n : Nat) : Nat := (64 * (p + 1) - 1) / n

def bump (key n : Nat) (t : Tbl Nat) : Tbl Nat := Tbl.set 0 key (Tbl.get 0 key t + n) t

def bumpSat (key : Nat) (t : Tbl Nat) : Tbl Nat :=
  Tbl.set 0 key (min (Tbl.get 0 key t + 1) (2 ^ 32 - 1)) t

/-- Count one value of a channel at pixel `p` of `n`. -/
def CamFrame.count (fr : CamFrame) (c p n v : Nat) : CamFrame :=
  let z := 64 * c + zoneOf p n
  { fr with hist := bumpSat (256 * c + v / 16) fr.hist, sums := bump z v fr.sums,
            counts := bump z 1 fr.counts }

/-- A line's valid samples and pixels enter the frame's statistics. -/
def CamFrame.statLine (fr : CamFrame) (part : Part) (k : Nat) (t d : List Nat) (ok : Nat → Bool)
    (okPix : Nat → Bool) : CamFrame :=
  let n := fr.pixels part k
  let rgb := fr.rgb part k
  let f1 := (List.range t.length).foldl
    (fun f x =>
      if ok x then
        f.count (if rgb then x % 3 else 0) (if rgb then x / 3 else x) n ((t[x]?).getD 0) else f) fr
  (List.range n).foldl (fun f p => if okPix p then f.count 3 p n ((d[p]?).getD 0) else f) f1

/-- The zone means, by 64 × channel + zone. -/
def CamFrame.means (fr : CamFrame) : Tbl Nat :=
  (List.range 256).foldl
    (fun m i =>
      let n := Tbl.get 0 i fr.counts
      Tbl.set 0 i (if n = 0 then 0 else 16 * Tbl.get 0 i fr.sums / n) m) []

/-! ### Frames and lines (R246–R249) -/

/-- The frame with a number. -/
def Cam.frame (c : Cam) (num : Nat) : Option CamFrame := c.frames.find? (fun f => f.num == num)

def State.updFrame (s : State) (k num : Nat) (g : CamFrame → CamFrame) : State :=
  s.updCam k (fun c => { c with frames := c.frames.map (fun f => if f.num == num then g f else f) })

/-- The frame that lines join now: the newest, unless it has ended or, without FVAL, is full. -/
def State.camCurrent (s : State) (k : Nat) : Option CamFrame :=
  match (s.camOf k).frames.getLast? with
  | none => none
  | some f =>
    if f.ended || (!f.byFval s.part k && decide (f.lines s.part k ≤ f.taken)) then none else some f

/-- The first fault of a frame is kept (R249). -/
def CamFrame.blame (f : CamFrame) (cause : Nat) : CamFrame :=
  if f.fault = 0 then { f with fault := cause } else f

/-- A fault of a line that joins no frame is the newest open frame's. -/
def State.camFault (s : State) (k cause : Nat) : State :=
  match (s.camOf k).frames.getLast? with
  | some f => if f.ended then s else s.updFrame k f.num (fun x => x.blame cause)
  | none => s

/-- A commit that waits for a frame start and has reached its moment, in forward travel unless it takes
effect at once, does so, or is rejected (R112, R252). -/
def State.camCommit (s0 : State) (k : Nat) : State :=
  let p := pgCAM k
  let s := s0.correct
  match s.commitOf p with
  | none => s
  | some c =>
    if !(s.commitDue c && (c.mode == 1 || s.forward)) then s
    else
      let bad := s.badPair p
      if bad ≠ 0 then s.dropCommit p 1 bad else (s.applyShadow p).camSwap k

/-- Where a frame goes in the store area, and the next free offset (R260); none where it stores
nothing, or is larger than the area (log 60). -/
def storePlace (f : CamFrame) (part : Part) (k next size : Nat) : Option Nat × Nat :=
  let n := 64 + f.lines part k * f.stride part k
  if f.store part k = 0 ∨ size < n then (none, next)
  else if next + n ≤ size then (some next, next + n) else (some 0, n)

/-- A frame starts: a commit takes effect first, and the frame keeps what is active then. -/
def State.camStart (s0 : State) (k : Nat) : State :=
  let p := pgCAM k
  let s := s0.camCommit k
  let c := s.camOf k
  let f0 : CamFrame :=
    { num := c.nextFrame, words := s.act.filter (fun e => onPage p e.1), bank := c.bank, taken := 0,
      delivered := 0, first := none, short := false, long := false, flagged := false, fault := 0,
      shortLine := false, longLine := false, hist := [], sums := [], counts := [], storeAt := none,
      ended := false }
  let at' := storePlace f0 s.part k c.storeNext c.storeSize
  let s1 := s.updCam k (fun c =>
    { c with frames := c.frames ++ [{ f0 with storeAt := at'.1 }], nextFrame := c.nextFrame + 1,
             storeNext := at'.2 })
  (s1.setState p 2).wr p CAM_STATUS_IN_FRAME 1

/-- The frame that the next line joins, started if FVAL does not decide (R248); the number of the
frame, or none where the line joins no frame: beyond `FRAME_LINES`, which makes the frame long, or
outside a frame. -/
def State.camJoin (s : State) (k : Nat) : State × Option Nat :=
  let s1 :=
    if (s.camCurrent k).isNone && s.ac (pgCAM k) CAM_CFG_FVAL_EN == 0 then s.camStart k else s
  match s1.camCurrent k with
  | none => (s1, none)
  | some f =>
    if f.lines s1.part k ≤ f.taken then
      (s1.updFrame k f.num (fun x => ({ x with long := true } : CamFrame).blame 2), none)
    else (s1.updFrame k f.num (fun x => { x with taken := x.taken + 1 }), some f.num)

/-- The port takes part in no frame now: FVAL decides and is low (R248). -/
def State.camOutside (s : State) (k : Nat) : Bool :=
  let byFval := match s.camCurrent k with
    | some f => f.byFval s.part k
    | none => s.ac (pgCAM k) CAM_CFG_FVAL_EN == 1
  byFval && !(s.camOf k).fval

/-- Samples in the port's queue, and its highest fill in KiB. -/
def State.camFill (s : State) (k : Nat) : Nat := ((s.camOf k).queue.map (fun l => l.queued)).sum

/-- A line becomes visible to the pipeline (R258, R259). -/
def State.camPush (s : State) (k : Nat) (l : CamLine) : State :=
  let s1 := s.updCam k (fun c => { c with queue := c.queue ++ [l] })
  let kib := (2 * s1.camFill k + 1023) / 1024
  s1.wr (pgCAM k) CAM_QUEUE_PEAK_KIB (max (s1.rd (pgCAM k) CAM_QUEUE_PEAK_KIB) (min kib 511))

def doubledFlag (t : CamTrig) : Nat := if t.doubled then 16 else 0

/-- A pad line of a trigger (R246): flag bit 0, with `more` flags. -/
def State.camPad (s : State) (k frame : Nat) (t : CamTrig) (more : Nat) : State :=
  match (s.camOf k).frame frame with
  | none => s
  | some f =>
    s.camPush k
      { frame := frame, pos := t.pos, flags := 1 + more + doubledFlag t, valid := 0,
        samples := List.replicate (f.samples s.part k) (f.fld s.part k CAM_LINE_PAD), queued := 0, bad := [] }

/-- A missed trigger: its pad line, or nothing while FVAL is low (R246, R248). -/
def State.camMiss (s : State) (k : Nat) (t : CamTrig) : State :=
  let s1 := s.incSat (pgCAM k) CAM_MISSED_N
  if s1.camOutside k then s1.camFault k 3
  else
    let j := s1.camJoin k
    match j.2 with
    | none => j.1.camFault k 3
    | some n => (j.1.updFrame k n (fun f => f.blame 3)).camPad k n t 0

/-- Entries older than `LAT_MAX` are missed triggers, oldest first. -/
def State.camExpire (s : State) (k : Nat) : State :=
  let late := s.ac (pgCAM k) CAM_LAT_LAT_MAX
  let old := (s.camOf k).wait.takeWhile (fun t => decide (t.placed + 4 * late < 4 * s.now))
  let s1 := s.updCam k (fun c => { c with wait := c.wait.drop old.length })
  old.foldl (fun u t => u.camMiss k t) s1

/-- A trigger on channel `k` joins the pending list; a 33rd drops the oldest (R246). -/
def State.camTrigger (s : State) (k : Nat) (t : CamTrig) : State :=
  if !s.camOn k then s
  else
    match (s.camOf k).wait with
    | [] => s.updCam k (fun c => { c with wait := [t] })
    | old :: rest =>
      if rest.length < 31 then s.updCam k (fun c => { c with wait := c.wait ++ [t] })
      else (s.updCam k (fun c => { c with wait := rest ++ [t] })).camMiss k old

/-- The samples that a port takes from its data ball's levels: two for each edge it samples at, D[11:0]
first (R244). -/
def State.camSamples (s : State) (k : Nat) (rise fall : List (BitVec 24)) : List Nat :=
  (if (s.camOf k).pclkFall then fall else rise).flatMap (fun d =>
    [d.toNat % 4096, d.toNat / 4096])

/-- Samples that a port's queue holds at the most (R258). -/
def camQueueMax : Nat := 131072

/-- The samples of the line between the edges of LVAL have arrived; `bad` are the indices with a parity
error (R245, R258, R259; log 100). -/
def State.camLineEnd (s : State) (k : Nat) (raw : List Nat) (overflow : Bool) (bad : List Nat) : State :=
  let p := pgCAM k
  match (s.camOf k).cur with
  | none => s
  | some .dropped => s.updCam k (fun c => { c with cur := none })
  | some (.taken t frame) =>
    let s0 := s.updCam k (fun c => { c with cur := none })
    match (s0.camOf k).frame frame with
    | none => s0
    | some f =>
      let n := f.samples s.part k
      let pad := f.fld s.part k CAM_LINE_PAD
      let cut := f.fld s.part k CAM_QUEUE_CUT_THRU
      let got := raw.take (min n (camQueueMax - s.camFill k))
      let errs := bad.filter (fun i => decide (i < got.length))
      let caught := (s0.now, raw.length)
      let s1 : State := { s0 with blv := s0.blv ++ [caught] }
      if errs.any (fun i => decide (cut = 0 ∨ i < cut)) then
        (s1.updFrame k frame (fun x => x.blame 6)).camPad k frame t 8
      else
        let lost := overflow || decide (got.length < min n raw.length)
        let short := !lost && decide (raw.length < n)
        let long := decide (n < raw.length)
        let s2 := if short then s1.incSat p CAM_SHORT_N else s1
        let s3 := if short && !f.shortLine then s2.raise p 0 else s2
        let s4 := if long then s3.incSat p CAM_LONG_N else s3
        let s5 := if long && !f.longLine then s4.raise p 1 else s4
        let s6 := if lost then (s5.incSat p CAM_OVERFLOW_N).updFrame k frame (fun x => x.blame 5)
          else s5
        let s7 := s6.updFrame k frame (fun x =>
          { x with shortLine := x.shortLine || short, longLine := x.longLine || long })
        s7.camPush k
          { frame := frame, pos := t.pos,
            flags := 2 * b2n short + 4 * b2n long + doubledFlag t + 32 * b2n lost,
            valid := got.length,
            samples := got ++ List.replicate (n - got.length) pad, queued := got.length, bad := errs }

/-! ### The DRAM store (R260) -/

/-- Bytes of a line record. -/
def lineRecord (pos : Pos) (flags valid : Nat) (vals : List Nat) (stride : Nat) : List Byte :=
  let body := leBytes 6 pos.toNat ++ [BitVec.ofNat 8 flags, 0] ++ leBytes 2 valid ++
    List.replicate 6 0 ++ vals.flatMap (leBytes 2)
  body ++ List.replicate (stride - body.length) 0

/-- Bytes of a frame header. -/
def CamFrame.header (f : CamFrame) (part : Part) (k : Nat) (aborted : Bool) : List Byte :=
  let flags := b2n f.short + 2 * b2n f.long + 4 * b2n aborted + 8 * b2n f.flagged
  leBytes 8 f.num ++ leBytes 6 (f.first.getD 0).toNat ++
    [BitVec.ofNat 8 (k + 16 * f.store part k), 0] ++ leBytes 2 f.delivered ++
    leBytes 2 (f.values part k) ++ leBytes 4 flags ++ leBytes 4 (f.stride part k) ++
    List.replicate 36 0

/-- What the pipeline makes of a line: processed values, densities, and which samples and pixels are
valid (R254–R256). -/
structure LineOut where
  flags : Nat
  t : List Nat
  d : List Nat
  okPix : List Bool
  deriving DecidableEq, Repr

/-- Deliver a line to the statistics and the store (R257, R258, R260); `bad` are the indices read with
a poison tag. -/
def State.camDeliver (s : State) (k : Nat) (f : CamFrame) (l : CamLine) (bad : List Nat) :
    State × LineOut :=
  let p := pgCAM k
  let n := f.samples s.part k
  let hit := (l.bad ++ bad).filter (fun i => decide (i < n))
  let pad := f.fld s.part k CAM_LINE_PAD
  let raw := l.samples.mapIdx (fun i v => if hit.contains i then pad else v)
  let marked := if (s.camOf k).differs then l.flags ||| 8 else l.flags
  let flags := if hit.isEmpty then marked else marked ||| 8
  let ok := fun (i : Nat) => decide (i < l.valid) && !hit.contains i
  let okPix := fun (q : Nat) =>
    if f.rgb s.part k then ok (3 * q) && ok (3 * q + 1) && ok (3 * q + 2) else ok q
  let t := s.processed k f raw
  let d := f.density s.part k t
  let s1 := if hit.isEmpty then s else s.wr p UNIT_STATUS_POISON_SEEN 1
  let vals := if f.store s.part k = 1 then t else if f.store s.part k = 2 then d else raw
  let valid := if f.store s.part k = 2 && f.rgb s.part k then l.valid / 3 else l.valid
  let s2 := match f.storeAt with
    | none => s1
    | some o =>
      s1.writeMem 1 ((s1.camOf k).storeBase + o + 64 + f.delivered * f.stride s.part k)
        (lineRecord l.pos flags valid vals (f.stride s.part k))
  let hasPos := decide (flags / 64 % 2 = 0)
  let s3 := s2.updFrame k f.num (fun x =>
    let y := x.statLine s.part k t d ok okPix
    let z := if hit.isEmpty then y else y.blame 6
    { z with delivered := z.delivered + 1, flagged := z.flagged || decide (flags ≠ 0),
             first := match z.first with
               | some q => some q
               | none => if hasPos then some l.pos else none })
  let s4 := s3.updCam k (fun c => { c with differs := false })
  (s4.add2 p CAM_LINES_LO_N CAM_LINES_HI_N 1,
   { flags := flags, t := t, d := d, okPix := (List.range (f.pixels s.part k)).map okPix })

/-- A frame's end, once its lines and its padding are delivered: its fault, its statistics, its header
(R248, R249, R257, R260). -/
def State.camClose (s : State) (k num : Nat) (aborted : Bool) : State :=
  let p := pgCAM k
  match (s.camOf k).frame num with
  | none => s
  | some f =>
    let s1 :=
      if aborted then s
      else if s.bit p CAM_STAT_SEL_HOLD then s.incSat p CAM_STAT_LOST_N
      else (s.updCam k (fun c => { c with heldHist := f.hist, heldZones := f.means })).wr p
        CAM_STAT_FRAME_N f.num
    let s2 := s1.add2 p CAM_FRAMES_LO_N CAM_FRAMES_HI_N 1
    let s3 :=
      if f.fault = 0 then s2
      else ((s2.wr p CAM_FRAME_ERR_CAUSE f.fault).incSat p CAM_FRAME_ERR_COUNT).raise p 2
    let s4 := s3.updCam k (fun c =>
      { c with
        frames := c.frames.filter (fun x => x.num != num)
        headers := match f.storeAt with
          | some o => c.headers ++ [(o, f.header s.part k aborted)]
          | none => c.headers })
    if (s4.camOf k).frames.isEmpty then s4.wr p CAM_STATUS_IN_FRAME 0 else s4

/-- The port's queue is more than half full: RT-camera is in panic (R259, R288). -/
def State.camPanic (s : State) : Bool :=
  (List.range s.part.cams).any (fun k => decide (65536 < s.camFill k))

/-- `ENABLE` goes to 1 (R244, R260). -/
def State.camEnable (s : State) (k : Nat) : State :=
  let p := pgCAM k
  s.revote (fun t =>
    let t1 := ((t.wr p UNIT_CTRL_ENABLE 1).setState p 1).wr p CAM_QUEUE_PEAK_KIB 0
    t1.updCam k (fun c =>
      { c with pclkFall := t.bit p CAM_CFG_PCLK_FALL
               storeBase := t.rd p CAM_DRAM_BASE_MIB * 2 ^ 20
               storeSize := t.rd p CAM_DRAM_SIZE_MIB * 2 ^ 20
               storeNext := 0
               fval := false
               wait := []
               cur := none
               queue := []
               frames := []
               nextFrame := 0 }))

end Sys2Proof.Machine
end

