-- ==== Sys2Proof/Machine/OnlekOps.lean ====
section
/-! DEFINITION. The Onlek lanes: frames, flights, flushes, the head-table transaction, alert lines
and management buses (R220–R242). -/

namespace Sys2Proof.Machine

def onkNone : Onk :=
  { lead := 2, up := false, flight := [], wire := 0, resync := true, reports := [], statAt := none,
    errAt := none, read := none, nextReq := 0, commit := none, acking := none, prbs := none,
    txPrbs := 0x7FFFFFFF, txAt := 0 }

def State.onkOf (s : State) (h : Nat) : Onk := (s.onk.toList[h]?).getD onkNone

def State.updOnk (s : State) (h : Nat) (g : Onk → Onk) : State :=
  if hh : h < 32 then { s with onk := s.onk.set h (g (s.onk.get ⟨h, hh⟩)) } else s

/-- The lane reads UP: enabled, up, no loopback and no test (R241). -/
def State.laneUp (s : State) (h : Nat) : Bool := s.stateCode (pgONK h) == 2

/-- A present lane is up and its receiver listens to the head: no near-end loopback (R231). -/
def State.laneHears (s : State) (h : Nat) : Bool :=
  let loop := s.rd (pgONK h) ONK_CFG_LOOP
  decide (h < s.part.heads) && s.enabled (pgONK h) && (s.onkOf h).up && loop != 1 && loop != 2

/-- A control block: its type and bytes 1 to 7. -/
def ctrlBlock (type : Nat) (rest : List Byte) : List Byte :=
  (BitVec.ofNat 8 type :: rest ++ List.replicate 7 0).take 8

/-- Send a control block and the data blocks that follow it. -/
def State.sendBlock (s : State) (h : Nat) (type : Nat) (rest data : List Byte) : State :=
  s.emit (.onk h (ctrlBlock type rest) data)

/-- Bytes padded with zeros to whole 8-byte blocks. -/
def padBlocks (bs : List Byte) : List Byte :=
  bs ++ List.replicate ((8 - bs.length % 8) % 8) 0

/-- A line's payload: three bits a nozzle (R222's frame). -/
def linePayload (levels : List Nat) : List Byte := padBlocks (packDots levels)

/-! ### Errors (R241) -/

/-- A block error, NAK or lost line: `BLOCK_ERR` at the first after 1 ms without one. -/
def State.blockErr (s : State) (h : Nat) : State :=
  let quiet := match (s.onkOf h).errAt with
    | none => true
    | some t => decide (t + 1000000 ≤ s.now)
  let s1 := s.updOnk h (fun x => { x with errAt := some s.now })
  if quiet then s1.raise (pgONK h) 2 else s1

/-! ### Frames (R222–R224, R227) -/

/-- Send a line's frame.  Follies 3 and 4 spoil one payload bit, or the tag. -/
def State.sendLine (s : State) (h line : Nat) (levels : List Nat) (sync : Bool) : State :=
  let p := pgONK h
  let body := linePayload levels
  let crc := leBytes 4 (crc32c body).toNat
  let flip := s.follyOn p 3
  let off := s.follyOn p 4
  let s1 := if flip || off then s.inject p else s
  let sent := if flip then body.modifyHead (· ^^^ 1) else body
  let tag : Byte := BitVec.ofNat 8 (if off then line + 1 else line)
  let s2 := s1.sendBlock h 0x10
    ([tag, if sync then 1 else 0] ++ leBytes 2 levels.length) sent
  s2.sendBlock h 0x11 ([tag, 0, 0] ++ crc) []

/-- How long a line's frame of two control blocks and the payload takes at the lane's rate, after a
delay of `wait` blocks, in ns (R58, R222, R224). -/
def State.frameNs (s : State) (h n wait : Nat) : Nat :=
  let blocks := (3 * n + 63) / 64 + 2 + wait
  let unit := 100 * 2 ^ min 2 (s.pll (8 + h / 8)).target
  (blocks * 2112 + unit - 1) / unit

/-- When the `LINE_END` of a frame that is to start now leaves the pad: after the frames in progress and
the delay (R222, R223; log 54). -/
def State.frameEnd (s : State) (h n wait : Nat) : Nat :=
  max s.now (s.onkOf h).wire + s.frameNs h n wait

/-- How long it takes until the position predicted for now comes to a compare value at the speed of
`SPD_SPEED`, in ns; none where it does not come to it (R224; log 53). -/
def State.nsTo (s : State) (c : BitVec 64) : Option Nat :=
  let v := s.rdS pgSPD SPD_SPEED_V
  let d := (c - s.predicted).toInt
  if d ≤ 0 then some 0 else if v ≤ 0 then none else some ((d * 1000).fdiv v).toNat

/-- A `LINE_END` that leaves the pad at `fin` does so 200 ns before the line's hit (R223). -/
def State.clearOfHit (s : State) (h line fin : Nat) : Bool :=
  match s.nsTo (s.cmpOf h line) with
  | none => true
  | some t => decide (fin + 200 ≤ s.now + t)

/-- When the next line's `LINE_END` leaves the pad behind a retry that ends at `fin`: as it has been sent
already, or after its hand-over, at the latest 320 ns after its send deadline, and the longest delay
(R193, R222). -/
def State.nextEnd (s : State) (h line n fin : Nat) : Option Nat :=
  match (s.onkOf h).flight.find? (fun f => f.line == line && f.framed) with
  | some f => some f.due
  | none =>
    (s.nsTo (fixOf (s.sendDeadlineOf h line))).map
      (fun t => max fin (s.now + t + 320) + s.frameNs h n 33)

/-- A retry of a line and the next line's frame both meet the margin of R223 (R224). -/
def State.retryFits (s : State) (h : Nat) (f : Flight) : Bool :=
  let n := (f.levels.getD []).length
  let fin := s.frameEnd h n 0
  s.clearOfHit h f.line fin &&
    match s.nextEnd h (f.line + 1) n fin with
    | none => true
    | some e => s.clearOfHit h (f.line + 1) e

/-- A head table's COMMIT goes out (R234, R236). -/
def State.sendCommit (s : State) (h table : Nat) : State :=
  (s.sendBlock h 0x22 [BitVec.ofNat 8 table] []).updOnk h
    (fun x => { x with commit := none, acking := some table })

/-- The commit that goes out directly before a line's LINE_START, if it is due. -/
def State.commitBefore (s : State) (h line : Nat) : State :=
  match (s.onkOf h).commit with
  | some (t, some l) => if l ≤ line then s.sendCommit h t else s
  | _ => s

/-- Trellis hands a line's levels over: its frame goes out where the lane has been UP since its send
deadline (R222). -/
def State.frameLine (s : State) (h line : Nat) (levels : List Nat) : State :=
  let x := s.onkOf h
  match x.flight.find? (fun f => f.line == line && !f.framed) with
  | none => s
  | some f =>
    let put := fun (t : State) (g : Flight) =>
      t.updOnk h (fun y => { y with flight := y.flight.map (fun e => if e.line == line then g else e) })
    if f.ok && s.laneUp h then
      let p := pgONK h
      let u := s.draw
      let fin := u.frameEnd h levels.length (Config.lineDelay u.free)
      let s1 := (put u { f with levels := some levels, framed := true, sync := x.resync,
                                due := fin }).updOnk h (fun y => { y with wire := fin })
      let s2 := (s1.commitBefore h line).sendLine h line levels x.resync
      let s3 := ((s2.updOnk h (fun y => { y with resync := false })).add2 p ONK_LINES_LO_N
        ONK_LINES_HI_N 1).wr p ONK_TAG_SENT line
      if x.resync then s3.wr p ONK_STATUS_SYNCED 1 else s3
    else put s { f with levels := some levels, ok := false }

/-- A line's send deadline on its lane: it is on its way (R222); a head-table commit whose line it is
finds the lane not UP, or waits for the LINE_START (R236). -/
def State.flightBegin (s : State) (h line : Nat) : State :=
  s.updOnk h (fun x =>
    { x with flight := x.flight ++ [{ line := line, levels := none, framed := false, sync := false,
                                      due := 0, ok := s.laneUp h, naked := false, retried := false }] })

/-- Lines on their way fail: those framed already, or all of them. -/
def State.failFlights (s : State) (h : Nat) (all : Bool) : State :=
  s.updOnk h (fun x =>
    { x with flight := x.flight.map (fun f => if all || f.framed then { f with ok := false } else f) })

/-- Lines whose `LINE_END` has not left the pad fail: the lane has left UP (R222, R223). -/
def State.failUnframed (s : State) (h : Nat) : State :=
  s.updOnk h (fun x =>
    let left := fun (f : Flight) => f.framed && decide (f.due ≤ s.now)
    { x with flight := x.flight.map (fun f => if left f then f else { f with ok := false }) })

/-- The hit takes its line out of flight: whether it counts as sent, its `LINE_END` at least 200 ns
earlier (R223). -/
def State.takeFlight (s : State) (h line : Nat) : State × Bool :=
  let fl := (s.onkOf h).flight
  let sent := match fl.find? (fun f => f.line == line) with
    | none => false
    | some f => f.ok && f.framed && !f.naked && s.enabled (pgONK h) && decide (f.due + 200 ≤ s.now)
  let s1 := s.updOnk h (fun x => { x with flight := fl.filter (fun f => decide (line < f.line)) })
  (if sent then s1 else s1.incSat (pgONK h) ONK_UNDELIV_N, sent)

/-- FLUSH goes out (R228): framed lines become not sent, the next line goes out with `SYNC` = 1. -/
def State.flush (s : State) (h : Nat) : State :=
  let s1 := ((s.failFlights h false).updOnk h (fun x => { x with resync := true })).wr (pgONK h)
    ONK_STATUS_SYNCED 0
  if s.laneUp h then s1.sendBlock h 0x13 [] [] else s1

/-- A mismatch of a TRAIN report (R228). -/
def State.tagMismatch (s : State) (h : Nat) : State :=
  ((s.raise (pgONK h) 3).incSat (pgONK h) ONK_MISMATCH_N).flush h

/-- After the hit of a line whose train does not reach the pad (R227). -/
def State.skipLine (s : State) (h line : Nat) : State :=
  if s.laneUp h && s.bit (pgONK h) ONK_STATUS_SYNCED then
    s.sendBlock h 0x12 [BitVec.ofNat 8 line] []
  else s

/-! ### Head tables (R234–R237) -/

/-- The Onlek staging area: 512 KiB of SRAM (R15, R234; log 55). -/
def onkStageBase : Nat := 0x1003A80000

def onkStageSize : Nat := 524288

/-- Heads named by a mask. -/
def headsOf (m : Nat) : List Nat := (List.range 32).filter (fun h => m / 2 ^ h % 2 = 1)

/-- Where a head's content stands, and its length in bytes. -/
def State.stageSpan (s : State) (h : Nat) : Nat × Nat :=
  (s.rd (pgONK h) ONK_TBL_ADDR_ADDR * 64, s.rd (pgONK h) ONK_TBL_LEN_LEN * 8)

/-- Why STAGE finds its transaction wrong (R242). -/
def State.stageBad (s : State) : Bool :=
  let hs := headsOf (s.rd pgONKroot ONK_TX_MASK_HEADS)
  hs.isEmpty || hs.any (fun h =>
    let (a, n) := s.stageSpan h
    decide (s.part.heads ≤ h) || !s.bit (pgONK h) UNIT_CTRL_ENABLE || n == 0 ||
      decide (2048 * 8 < n) || decide (onkStageSize < a + n))

/-- A head's content goes out as TABLE_WRITE chunks of up to 32 blocks, then STAGE. -/
def State.sendTable (s : State) (h table : Nat) : State :=
  let (a, n) := s.stageSpan h
  let body := s.bytes (onkStageBase + a) n
  let blocks := n / 8
  let s1 := (List.range ((blocks + 31) / 32)).foldl
    (fun t i =>
      let data := (body.drop (256 * i)).take 256
      t.sendBlock h 0x21
        ([BitVec.ofNat 8 table] ++ leBytes 2 (32 * i) ++ [BitVec.ofNat 8 (data.length / 8)]) data) s
  s1.sendBlock h 0x20
    ([BitVec.ofNat 8 table] ++ leBytes 2 blocks ++ leBytes 4 (crc32c body).toNat) []

def State.stageResult (s : State) (h code : Nat) : State := s.wr (pgONK h) ONK_STAGE_RESULT code

/-- Set a head's bit in a mask register of the root. -/
def State.txMark (s : State) (f : Fld) (h : Nat) : State :=
  s.wr pgONKroot f (s.rd pgONKroot f ||| 2 ^ h)

/-- A head fails with a result of 2 to 6: its mark, and `STAGE_FAIL` (R235, R236). -/
def State.stageFail (s : State) (h code : Nat) : State :=
  ((s.stageResult h code).txMark ONK_TX_FAIL_HEADS h).raise (pgONK h) 5

/-- The transaction ends. -/
def State.txEnd (s : State) : State := ({ s with tx := none }).setState pgONKroot 0

/-- An abort (R235): ABORT to every head, whose lane transmits from `ENABLE` = 1 whether it is UP or not (R229),
the results, and `STAGE_FAIL` on those that failed. -/
def State.txAbort (s : State) (failing : List (Nat × Nat)) : State :=
  match s.tx with
  | none => s
  | some t =>
    let hs := headsOf t.mask
    let s1 := hs.foldl
      (fun u h =>
        let u1 := if u.enabled (pgONK h) then u.sendBlock h 0x23 [BitVec.ofNat 8 t.table] [] else u
        match failing.lookup h with
        | some code => u1.stageFail h code
        | none => u1.stageResult h 7) s
    s1.txEnd

/-- A lane leaves UP before the point of no return (R235). -/
def State.txLaneDown (s : State) (h : Nat) : State :=
  match s.tx with
  | none => s
  | some t =>
    if s.rd pgONKroot UNIT_STATUS_STATE = 1 ∧ (headsOf t.mask).contains h then s.txAbort [(h, 5)]
    else s

/-- A head no longer owes a COMMIT_ACK; with none left the transaction ends (R236). -/
def State.txOwed (s : State) (h : Nat) : State :=
  match s.tx with
  | none => s
  | some t =>
    let rest := t.owing.filter (· != h)
    let s1 := { s with tx := some { t with owing := rest } }
    if rest.isEmpty && s1.rd pgONKroot UNIT_STATUS_STATE == 2 then s1.txEnd else s1

/-- *D* of R234, in pu. -/
def State.txMargin (s : State) : Int :=
  let h := s.ac pgSDL SDL_CFG_REF_HEAD
  let pitch := (geoAt ((s.hscOf h).geo ++ [s.geoActive h 0]) (s.hscOf h).send.line).pitch
  let v := if s.forward then s.rdS pgSPD SPD_SPEED_V else s.sdl.fwdSpeed
  max ((pitch + 65535) / 65536 : Nat) (-((-(10 * v)).fdiv 65536))

/-- The line's send deadline lies ahead by the margin on every running head of the list. -/
def State.txClear (s : State) (hs : List Nat) (n : Nat) : Bool :=
  hs.all (fun h => !(s.hscOf h).running ||
    (decide ((s.hscOf h).send.line ≤ n) && decide (s.txMargin ≤ posDiff (s.sendDeadlineOf h n) s.pos)))

/-- The first line from `n` on that is clear. -/
def State.txNext (s : State) (hs : List Nat) : Nat → Nat → Nat
  | 0, n => n
  | fuel + 1, n => if s.txClear hs n then n else s.txNext hs fuel (n + 1)

/-- The first line of a print page from the cursor on that is clear. -/
def State.txPage (s : State) (hs : List Nat) (gs : List Geo) : Nat → Cursor → Nat
  | 0, c => c.line
  | fuel + 1, c =>
    if c.place = 0 ∧ s.txClear hs c.line then c.line else s.txPage hs gs fuel (c.next gs)

/-- Line *L* (R234): with `AT_PAGE` the first line of a print page that the reference channel has still to
begin, where it runs. -/
def State.txLine (s : State) (t : TableTx) : Nat :=
  let hs := headsOf t.mask
  let from' := hs.foldl (fun m h => if (s.hscOf h).running then max m (s.hscOf h).send.line else m) 0
  match (if t.atPage then s.refNow else none) with
  | some r => s.txPage hs (s.geos r.head) (2 ^ 24) r.cur
  | none => s.txNext hs 65536 from'

/-- The point of no return (R234). -/
def State.txGo (s : State) (t : TableTx) : State :=
  let l := s.txLine t
  let hs := headsOf t.mask
  let s1 := ({ s with tx := some { t with owing := hs } }).setState pgONKroot 2
  let s2 := s1.wr2 pgONKroot ONK_TX_LINE_LO_N ONK_TX_LINE_HI_N l
  hs.foldl
    (fun u h =>
      if (u.hscOf h).running then u.updOnk h (fun x => { x with commit := some (t.table, some l) })
      else u.sendCommit h t.table) s2

/-- The lane has come UP: a COMMIT that waits for it is its first block, and a table's content that has
not gone out to the head goes out now (R234, R236). -/
def State.sendOwed (s : State) (h : Nat) : State :=
  if !s.laneUp h then s
  else
    let s1 := match (s.onkOf h).commit with
      | some (table, none) => s.sendCommit h table
      | _ => s
    match s1.tx with
    | none => s1
    | some t =>
      if s1.rd pgONKroot UNIT_STATUS_STATE = 1 ∧ (headsOf t.mask).contains h ∧ !t.told.contains h then
        let t1 := { t with told := t.told ++ [h] }
        ({ s1 with tx := some t1 } : State).sendTable h t.table
      else s1

/-- At the send deadline of *L* on a lane that is not UP: COMMIT waits for the lane, and the head is
late (R236). -/
def State.txLate (s : State) (h line : Nat) : State :=
  match (s.onkOf h).commit with
  | some (t, some l) =>
    if l ≤ line ∧ !s.laneUp h then
      ((s.updOnk h (fun x => { x with commit := some (t, none) })).txMark ONK_TX_LATE_HEADS h).txOwed h
    else s
  | _ => s

/-- STOP of a head's schedule: a COMMIT that waits for a line goes out at once (R234; log 56). -/
def State.txStopped (s : State) (h : Nat) : State :=
  match (s.onkOf h).commit with
  | some (t, some _) =>
    if s.laneUp h then s.sendCommit h t
    else ((s.updOnk h (fun x => { x with commit := some (t, none) })).txMark ONK_TX_LATE_HEADS h).txOwed h
  | _ => s

/-! ### Bring-up and its end (R229, R233, R241) -/

/-- READ ends. -/
def State.readEnd (s : State) (h : Nat) (f : Fld) : State :=
  ((s.updOnk h (fun x => { x with read := none })).wr (pgONK h) f 1).setBusy (pgONK h) false

/-- The lane has left UP, or is switched off. -/
def State.laneGone (s : State) (h : Nat) : State :=
  let s1 := (s.updOnk h (fun x => { x with up := false })).failUnframed h
  let s2 := if (s.onkOf h).read.isSome then s1.readEnd h ONK_RD_STAT_FAIL else s1
  s2.txLaneDown h

/-- A departure from UP (R229): event bit 0 `LOS`, 1 `LOL`. -/
def State.laneLost (s : State) (h bit : Nat) : State :=
  ((s.incSat (pgONK h) ONK_LINK_DOWNS).raise (pgONK h) bit).laneGone h

/-! ### Alert lines and management buses (R238, R239) -/

def State.alertOf (s : State) (j : Fin 8) : Alert := s.alerts.get j

def State.updAlert (s : State) (j : Fin 8) (g : Alert → Alert) : State :=
  { s with alerts := s.alerts.set j.val (g (s.alerts.get j)) }

/-- Heads of an alert line. -/
def State.alertHeads (s : State) (j : Nat) : List Nat :=
  ([4 * j, 4 * j + 1, 4 * j + 2, 4 * j + 3]).filter (fun h => decide (h < s.part.heads))

def State.alertBit (s : State) (f : Fld) (j : Nat) : Bool := s.rd pgONKroot f / 2 ^ j % 2 == 1

def State.setAlertBit (s : State) (f : Fld) (j : Nat) (b : Bool) : State :=
  let m := s.rd pgONKroot f
  let off := if m / 2 ^ j % 2 = 1 then m - 2 ^ j else m
  s.wr pgONKroot f (if b then off + 2 ^ j else off)

/-- STATUS_REQ to each head of the line whose lane is UP. -/
def State.statusReqs (s : State) (j : Fin 8) : State :=
  let hs := (s.alertHeads j.val).filter s.laneUp
  (hs.foldl (fun t h => t.sendBlock h 0x25 [] []) s).updAlert j (fun a => { a with waits := hs })

/-- A head has returned its status: its line rises once all that it waits for have (log 57). -/
def State.statusBack (s : State) (h : Nat) : State :=
  let j : Fin 8 := Fin.ofNat 8 (h / 4)
  let rest := (s.alertOf j).waits.filter (· != h)
  let s1 := s.updAlert j (fun a => { a with waits := rest })
  if (s.alertOf j).waits.contains h && rest.isEmpty && s1.alertBit ONK_ALERT_LOW j.val then
    (s1.setAlertBit ONK_ALERT_LOW j.val false).updAlert j (fun a => { a with highAt := some s.now })
  else s1

/-- A management bus serves a present head. -/
def State.busServes (s : State) (m : Nat) : Bool := decide (m < 4) && decide (8 * m < s.part.heads)

/-- The bus is declared dead (R239, R240). -/
def State.busDead (s : State) (m : Nat) : State :=
  (s.wr pgONKroot (ONK_MBUS_STAT_DEAD m) 1).raiseD pgMON 5 m

/-- The check of SDA: nine clocks and a STOP where it is low; whether the bus is alive. -/
def State.sdaCheck (s : State) (m : Nat) (sdaLow sdaHigh : Bool) : State × Bool :=
  if !sdaLow then (s, true)
  else
    let s1 := s.emit (.i2cClocks m)
    if sdaHigh then (s1, true) else (s1.busDead m, false)

/-! ### The test sequence (R231) -/

/-- The next bit of PRBS31 after the last 31, newest lowest. -/
def prbsNext (r : BitVec 31) : Bool := r.getLsbD 30 != r.getLsbD 27

/-- Check bits against the sequence: how many differ, and the register after them. -/
def prbsCheck : List Bool → BitVec 31 → Nat → Nat × BitVec 31
  | [], r, n => (n, r)
  | b :: t, r, n =>
    let e := prbsNext r
    prbsCheck t ((r <<< 1) ||| (if e then 1 else 0)) (if b == e then n else n + 1)

/-- The bits of a payload in the order of transmission. -/
def payloadBits (p : BitVec 64) : List Bool := (List.range 64).map p.getLsbD

/-- The register after the last 31 bits. -/
def prbsSeed (bits : List Bool) : BitVec 31 :=
  bits.foldl (fun r b => (r <<< 1) ||| (if b then 1 else 0)) 0

/-- A payload whose bits follow the sequence, and the register after them. -/
def prbsPayload (r : BitVec 31) : BitVec 64 × BitVec 31 :=
  (List.range 64).foldl
    (fun (x : BitVec 64 × BitVec 31) i =>
      let b := prbsNext x.2
      (if b then x.1 ||| (1#64 <<< i) else x.1, (x.2 <<< 1) ||| (if b then 1 else 0))) (0, r)

/-- A received data block is checked against PRBS31, which the first one seeds (R231). -/
def State.prbsBlock (s : State) (h : Nat) (payload : BitVec 64) : State :=
  let bits := payloadBits payload
  match (s.onkOf h).prbs with
  | none => s.updOnk h (fun x => { x with prbs := some (prbsSeed bits) })
  | some r =>
    let out := prbsCheck bits r 0
    (s.addSat (pgONK h) ONK_TEST_ERRS_N out.1).updOnk h (fun x => { x with prbs := some out.2 })

/-- How long a block takes on a lane, in steps of 10 ps (R220). -/
def State.blockTime (s : State) (h : Nat) : Nat := 2112 / 2 ^ min 2 (s.pll (8 + h / 8)).target

/-- A block of the test sequence goes out; a near-end loopback returns it to the receiver (R231). -/
def State.testBlock (s : State) (h : Nat) : State :=
  let out := prbsPayload (s.onkOf h).txPrbs
  let s1 := (s.updOnk h (fun x => { x with txPrbs := out.2 })).emit (.onkData h out.1)
  let loop := s1.rd (pgONK h) ONK_CFG_LOOP
  if (s1.onkOf h).up && (loop == 1 || loop == 2) then s1.prbsBlock h out.1 else s1

/-- What a lane sends of its own in a tick: under `TEST` block after block of the test sequence, else an
IDLE block every 2,048 block times, with no line's frame on the wire, and nothing in far-end loopback
(R221, R229, R231; log 99). -/
def State.laneTick (s : State) (h : Nat) : State :=
  let p := pgONK h
  if !s.enabled p || !s.printUp || !s.pllLocked (8 + h / 8) || s.rd p ONK_CFG_LOOP == 3 then s
  else
    let test := s.bit p ONK_CFG_TEST
    let due := (s.onkOf h).txAt + (if test then 1 else 2048) * s.blockTime h
    if 100 * s.now < due then s
    else if test then
      (s.testBlock h).updOnk h (fun x =>
        { x with txAt := max due (100 * s.now - s.blockTime h) })
    else if s.now < (s.onkOf h).wire then s
    else (s.sendBlock h 0x00 [] []).updOnk h (fun x => { x with txAt := 100 * s.now })

end Sys2Proof.Machine
end

