-- ==== Sys2Proof/Machine/QlpOps.lean ====
section
/-! DEFINITION. The print-quality loop: expected rows, the meeting with a camera line, signatures,
judgement and proposals, alignment (R263–R275). -/

namespace Sys2Proof.Machine

def State.updQlp (s : State) (g : Qlp → Qlp) : State := { s with qlp := g s.qlp }

def State.qlpOn (s : State) : Bool := s.has pgQLP && s.bit pgQLP UNIT_CTRL_ENABLE

/-! ### The grid (R263, R264) -/

def State.qlpCross (s : State) : Nat := max 4 (s.ac pgQLP QLP_CFG_CROSS)
def State.qlpAlong (s : State) : Nat := max 1 (s.ac pgQLP QLP_CFG_ALONG)
def State.qlpPhase (s : State) : Nat := s.ac pgQLP QLP_CFG_PHASE
def State.qlpCenter (s : State) : Nat := s.ac pgQLP QLP_CFG_KCENTER
def State.headX (s : State) (h : Nat) : Nat := s.ac pgQLP (QLP_HEAD_X_COL h)

/-- The group of an image line, and a group's last line. -/
def State.groupOf (s : State) (n : Nat) : Nat := (n + s.qlpPhase) / s.qlpAlong

def State.groupLast (s : State) (g : Nat) : Nat := s.qlpAlong * (g + 1) - 1 - s.qlpPhase

/-- Heads rendered, as read at `ENABLE`. -/
def State.qlpHeads (s : State) : List Nat :=
  (headsOf s.qlp.heads).filter (fun h => decide (h < s.part.heads))

/-- The first expected pixel that head `h` can touch, and how many it can touch: a slot holds the
partial values of these (R265; log 62). -/
def State.slotFrom (s : State) (h : Nat) : Nat :=
  (s.headX h + s.qlpCenter + s.qlpCross - 1 - min 31 (s.headX h + s.qlpCenter)) / s.qlpCross

def State.slotPixels (s : State) (h : Nat) : Nat :=
  min 2048 ((s.headX h + 5119 + s.qlpCenter) / s.qlpCross + 1 - s.slotFrom h)

/-- The head's slot covers pixel `x`. -/
def State.inSlot (s : State) (h x : Nat) : Bool :=
  decide (s.slotFrom h ≤ x) && decide (x < s.slotFrom h + s.slotPixels h)

/-- A line of `n` nozzles of head `h` contributes to pixel `x`: a tap of nonzero weight falls on one of its
nozzles (R263, R264). -/
def State.touches (s : State) (h n x : Nat) : Bool :=
  (List.range 32).any (fun t =>
    let c := x * s.qlpCross + t
    s.ac pgQLP (QLP_KW_W t) != 0 && decide (s.headX h + s.qlpCenter ≤ c) &&
      decide (c < s.headX h + s.qlpCenter + n))

/-- A head's partial value of pixel `x` from the lines of a group (R264). -/
def State.partialOf (s : State) (h x : Nat) (lines : List (List Nat)) : Nat :=
  let cross := s.qlpCross
  let taps := (List.range 32).filterMap (fun t =>
    let c := x * cross + t
    if s.headX h + s.qlpCenter ≤ c then some (c - s.headX h - s.qlpCenter, s.ac pgQLP (QLP_KW_W t))
    else none)
  let acc := (lines.map (fun ls =>
    (taps.map (fun e =>
      match ls[e.1]? with
      | some lv => e.2 * s.ac pgQLP (QLP_COVER_C lv)
      | none => 0)).sum)).sum
  min ((acc + 32768) / 65536) 65535

/-! ### The ring (R265) -/

/-- Rows of the ring. -/
def State.ringRows (s : State) : Nat := 2 ^ s.qlp.rows2

/-- Where head `h`'s slot of a group stands. -/
def State.slotAddr (s : State) (g h : Nat) : Nat :=
  let hs := s.qlpHeads
  s.qlp.ring * 2 ^ 20 + (g % s.ringRows * hs.length + (hs.takeWhile (· != h)).length) * 4096

def State.rowAt (s : State) (g : Nat) : Option QRow :=
  (s.qlp.rows.lookup (g % s.ringRows)).filter (fun r => r.group == g && r.gen == s.qlp.gen)

def State.setRow (s : State) (g : Nat) (r : QRow) : State :=
  let i := g % s.ringRows
  s.updQlp (fun q => { q with rows := (i, r) :: q.rows.filter (fun e => e.1 != i) })

/-- The row holds every head's slot under the present generation. -/
def State.rowComplete (s : State) (g : Nat) : Bool :=
  match s.rowAt g with
  | none => false
  | some r => s.qlpHeads.all (fun h => r.heads.contains h)

/-- A row to write in: the one that stands, or a fresh one over another group's, which counts as unseen
where it was never compared. -/
def State.rowFor (s : State) (g : Nat) : State × QRow :=
  match s.rowAt g with
  | some r => (s, r)
  | none =>
    let fresh : QRow :=
      { group := g, gen := s.qlp.gen, heads := [], lines := [], voids := [], fired := [], compared := false }
    match s.qlp.rows.lookup (g % s.ringRows) with
    | some old =>
      if old.group ≠ g ∧ !old.compared then (s.incSat pgQLP QLP_UNSEEN_N, fresh) else (s, fresh)
    | none => (s, fresh)

def State.qlines (s : State) (h : Nat) : List QLine := (s.qlp.lines.toList[h]?).getD []

def State.setQlines (s : State) (h : Nat) (x : List QLine) : State :=
  if hh : h < 32 then s.updQlp (fun q => { q with lines := q.lines.set h x }) else s

/-- The first group of a head, in order of arrival, whose last line has fired, or been found not to
(R265). -/
def State.rowDue (s : State) (h : Nat) : Option Nat :=
  let ls := s.qlines h
  (ls.map (fun l => s.groupOf l.line)).find? (fun g =>
    ls.any (fun x => x.void.isSome &&
      (decide (s.groupLast g ≤ x.line) || (x.ends && s.groupOf x.line == g))))

/-- Mask of the nozzles that fired above level 0 on a line. -/
def firedMask (levels : List Nat) : Nat :=
  (levels.mapIdx (fun i v => if v = 0 then 0 else 2 ^ i)).foldl (· ||| ·) 0

/-- Write a head's partial row. -/
def State.rowWrite (s : State) (h g : Nat) : State :=
  let ls := (s.qlines h).filter (fun l => s.groupOf l.line == g)
  let vals := (List.range (s.slotPixels h)).map
    (fun i => s.partialOf h (s.slotFrom h + i) (ls.map QLine.levels))
  let bytes := vals.flatMap (leBytes 2)
  let fr := s.rowFor g
  let s1 := fr.1.setQlines h ((s.qlines h).filter (fun l => s.groupOf l.line != g))
  let s2 := s1.writeMem 1 (s1.slotAddr g h) (bytes ++ List.replicate (4096 - bytes.length) 0)
  let lit := (ls.filter (fun l => l.void == some false)).foldl (fun m l => m ||| firedMask l.levels) 0
  let bad := ls.filter (fun l => l.void != some false)
  s2.setRow g
    { fr.2 with
      heads := fr.2.heads ++ [h]
      lines := fr.2.lines ++ ls.map (fun l => (h, l.line, l.levels.length))
      voids := fr.2.voids ++ bad.map (fun l => (h, l.levels.length))
      fired := fr.2.fired ++ [(h, lit)] }

/-- Trellis delivers a line to the loop, whose clocks run (R75, R263). -/
def State.qlpLine (s : State) (h line : Nat) (levels : List Nat) : State :=
  if s.qlpOn && s.camRuns && s.qlpHeads.contains h then
    s.setQlines h (s.qlines h ++ [{ line := line, levels := levels, void := none, ends := false }])
  else s

/-- A line's hit, and whether its train reaches the pad whole. -/
def State.qlpHit (s : State) (h line : Nat) (void : Bool) : State :=
  s.setQlines h ((s.qlines h).map (fun l =>
    if l.line == line then { l with void := some void } else l))

/-- A line turns out void (R263): by its report, or a cut in its train; where its group has been written
already, in the row. -/
def State.qlpVoid (s : State) (h line : Nat) : State :=
  if (s.qlines h).any (fun l => l.line == line) then
    s.setQlines h ((s.qlines h).map (fun l => if l.line == line then { l with void := some true } else l))
  else
    match s.rowAt (s.groupOf line) with
    | some r =>
      match r.lines.find? (fun e => e.1 == h && e.2.1 == line) with
      | some e =>
        if r.voids.contains (h, e.2.2) then s
        else s.setRow (s.groupOf line) { r with voids := r.voids ++ [(h, e.2.2)] }
      | none => s
    | none => s

/-- No edge of a line's train reaches the pad, as is found after its hit: its report is not awaited, SKIP
goes out, and it is void (R227, R263). -/
def State.trainHeld (s : State) (h line : Nat) : State :=
  ((s.updOnk h (fun x => { x with reports := x.reports.filter (· != line) })).skipLine h line).qlpVoid h
    line

/-- A cut while a train runs makes its line void; before the train's first rise, the line does not
fire. -/
def State.qlpCut (s : State) (h : Nat) : State :=
  if s.trainRuns h && !s.isCut h then
    match (s.firOf h).train with
    | some (_, t) =>
      if (s.firOf h).gen.all (fun p => decide (4 * s.now ≤ p.1)) then s.trainHeld h t.line
      else s.qlpVoid h t.line
    | none => s
  else s

/-- `ENABLE` of a FIR page goes to 0: the pad drives "no fire", and no train that waits is issued
(R210). -/
def State.firOff (s : State) (h : Nat) : State :=
  let s1 := s.qlpCut h
  let s2 := (s1.firOf h).deferred.foldl (fun t x => t.trainHeld h x.line) s1
  let s3 := (s2.padStops h).updFir h (fun x => { x with deferred := [], gen := [], train := none })
  s3.wr (pgFIR h) UNIT_CTRL_ENABLE 0

/-- STOP: the lines that have not been hit never fire, and no line follows in their group (R120, R208). -/
def State.qlpStop (s : State) (h : Nat) : State :=
  let ls := (s.qlines h).map (fun l => if l.void.isNone then { l with void := some true } else l)
  s.setQlines h (ls.mapIdx (fun i l => if i + 1 = ls.length then { l with ends := true } else l))

/-! ### Meeting the camera (R267, R268) -/

/-- The compare value of a line in the reference frame. -/
def State.refCmp (s : State) (h n : Nat) : BitVec 64 :=
  s.cmpOf h n - fixOf (geoAt (s.geos h) n).row

/-- `a` lies at or before `b`, both 48.16. -/
def cmpLe (a b : BitVec 64) : Bool := decide (0 ≤ (b - a).toInt)

/-- The last line from `n` on at or before `t`: forth while the next one is, or back until one is. -/
def State.lastLine (s : State) (h : Nat) (t : BitVec 64) : Nat → Nat → Option Nat
  | 0, n => if cmpLe (s.refCmp h n) t then some n else none
  | fuel + 1, n =>
    if cmpLe (s.refCmp h n) t then
      if cmpLe (s.refCmp h (n + 1)) t then s.lastLine h t fuel (n + 1) else some n
    else if n = 0 then none
    else s.lastLine h t fuel (n - 1)

/-- The group that a camera line meets (R267). -/
def State.meets (s : State) (p : Pos) : Option Nat :=
  let h := s.ac pgSDL SDL_CFG_REF_HEAD
  let delay := BitVec.ofNat 48 (s.ac2 pgQLP QLP_DELAY_LO_PU QLP_DELAY_HI_PU)
  let t := fixOf (p - delay)
  let n := (s.hscOf h).hit.line
  let far := ((s.refCmp h n - t).toInt.natAbs) / (256 * 65536) + 2
  if (s.hscOf h).geo.isEmpty then none else (s.lastLine h t far n).map s.groupOf

/-- Where pixel `x` falls on camera `k`, in 16.16 camera pixels. -/
def State.camPixel (s : State) (k x : Nat) : Int :=
  s.acS pgQLP (QLP_CAM_OFS_OFS k) + (x : Int) * s.ac pgQLP (QLP_CAM_SCALE_SCALE k)

/-- Two camera pixels around a place are valid. -/
def pairValid (q : Int) (valid : List Bool) : Bool :=
  if q < 0 then false
  else
    let j := (q.fdiv 65536).toNat
    (valid[j]?).getD false && (valid[j + 1]?).getD false

/-- Pixels of a camera's line as its page is set. -/
def State.camPixels (s : State) (k : Nat) : Nat :=
  let n := min (max (s.ac (pgCAM k) CAM_LINE_LINE_SAMPLES) 2) 8192
  if s.ac (pgCAM k) CAM_CFG_FORMAT = 1 then n / 3 else n

/-- The valid pixels of a line that has not been delivered yet: its words with a parity error will be replaced
(R256, R258). -/
def State.queuedValid (s : State) (k : Nat) (l : CamLine) : List Bool :=
  let rgb := s.ac (pgCAM k) CAM_CFG_FORMAT == 1
  let ok := fun (i : Nat) => decide (i < l.valid) && !l.bad.contains i
  (List.range (s.camPixels k)).map (fun q =>
    if rgb then ok (3 * q) && ok (3 * q + 1) && ok (3 * q + 2) else ok q)

/-- Which pixels of a camera's line at a position are valid (R256): of the line that waits for its row, of
one that has met it, or of the one not delivered yet; a camera that has no line there is taken by its
geometry (log 63). -/
def State.validAt (s : State) (k : Nat) (pos : Pos) : List Bool :=
  match ((s.qlp.cams.toList[k]?).getD []).find? (fun l => l.pos == pos) with
  | some l => l.valid
  | none =>
    match ((s.qlp.seen.toList[k]?).getD []).lookup pos with
    | some v => v
    | none =>
      match (s.camOf k).queue.find? (fun l => l.pos == pos) with
      | some l => s.queuedValid k l
      | none => List.replicate (s.camPixels k) true

/-- A lower-numbered camera measures the pixel (R268). -/
def State.lowerSees (s : State) (k x : Nat) (pos : Pos) : Bool :=
  (List.range k).any (fun j => s.camOn j && pairValid (s.camPixel j x) (s.validAt j pos))

/-- The measured density at a place (R268). -/
def measured (q : Int) (d : List Nat) : Int :=
  let j := (q.fdiv 65536).toNat
  let f := q - j * 65536
  let at' := fun (i : Nat) => (((d[i]?).getD 0 : Nat) : Int)
  (at' j * (65536 - f) + at' (j + 1) * f + 32768).fdiv 65536

/-- The row's slots, as they are read from the ring through RT-camera: each head's bytes, and whether any
word was poisoned. -/
def State.ringRead (s : State) (g : Nat) : State × List (Nat × List Byte) × Bool :=
  s.qlpHeads.foldl
    (fun (acc : State × List (Nat × List Byte) × Bool) h =>
      let r := acc.1.readMem 1 (acc.1.slotAddr g h) 4096
      (r.1, acc.2.1 ++ [(h, r.2.1)], acc.2.2 || r.2.2.any id)) (s, [], false)

/-- The expected density of pixel `x` from the row's slots (R264). -/
def State.expected (s : State) (slots : List (Nat × List Byte)) (x : Nat) : Int :=
  let e := min 4095 ((slots.map (fun c =>
    if s.inSlot c.1 x then ofLe ((c.2.drop (2 * (x - s.slotFrom c.1))).take 2) else 0)).sum)
  let j := e / 4
  s.ac pgQLP (if j % 2 = 0 then QLP_DLUT_E0 (j / 2) else QLP_DLUT_E1 (j / 2))

/-- How many expected pixels may fall on a camera's line: as far as its pixels reach, and past the heads'
own. -/
def State.pixelEnd (s : State) (k : Nat) (l : QCamLine) : Nat :=
  let heads := (s.qlpHeads.map (fun h => s.slotFrom h + s.slotPixels h)).foldl max 0
  let scale := s.ac pgQLP (QLP_CAM_SCALE_SCALE k)
  if scale = 0 then heads + 1
  else ((65536 * (l.valid.length : Int) - s.acS pgQLP (QLP_CAM_OFS_OFS k)).toNat + scale - 1) / scale

/-- The residuals of a camera line by pixel; none where a pixel is not compared (R268). -/
def State.residuals (s : State) (k : Nat) (slots : List (Nat × List Byte)) (r : QRow) (l : QCamLine) :
    List (Option Int) :=
  (List.range (s.pixelEnd k l)).map (fun x =>
    let q := s.camPixel k x
    if pairValid q l.valid && !s.lowerSees k x l.pos && !r.voids.any (fun v => s.touches v.1 v.2 x) then
      some (measured q l.dens - s.expected slots x)
    else none)

/-- The residual at a nozzle's bar column (R270). -/
def State.nozzleRes (s : State) (rs : List (Option Int)) (col : Nat) : Option Int :=
  let c := s.qlpCross
  let v : Int := 2 * (col : Int) - c + 1
  let x0 := v.fdiv (2 * c)
  let f := v - 2 * c * x0
  if x0 < 0 then none
  else
    match (rs[x0.toNat]?).getD none, (rs[x0.toNat + 1]?).getD none with
    | some a, some b => some ((a * (2 * c - f) + b * f + c).fdiv (2 * c))
    | _, _ => none

/-- Add a residual to a nozzle's accumulator, which belongs to the camera of its first count. -/
def addAcc (accs : List QAcc) (nozzle k : Nat) (v : Int) : List QAcc :=
  match accs.find? (fun a => a.nozzle == nozzle) with
  | none => accs ++ [{ nozzle := nozzle, cam := k, sum := v, n := 1 }]
  | some _ => accs.map (fun a =>
      if a.nozzle == nozzle && a.cam == k then { a with sum := a.sum + v, n := a.n + 1 } else a)

/-- The nozzles of a row that fired, by global number and bar column. -/
def State.firedNozzles (s : State) (r : QRow) : List (Nat × Nat) :=
  r.fired.flatMap (fun e =>
    ((List.range 5120).filter (fun i => e.2 / 2 ^ i % 2 = 1)).map
      (fun i => (5120 * e.1 + i, s.headX e.1 + i)))

/-- Lists added place by place. -/
def addLists {α : Type} (add : α → α → α) : List α → List α → List α
  | [], b => b
  | a, [] => a
  | x :: a, y :: b => add x y :: addLists add a b

/-- ALIGN gathers a line of its camera whose row is complete (R269). -/
def State.alignLine (s : State) (k : Nat) (l : QCamLine) (slots : List (Nat × List Byte)) : State :=
  match s.qlp.align with
  | none => s
  | some a =>
    if a.cam ≠ k ∨ 512 ≤ a.lines then s
    else
      let now := (List.range (s.pixelEnd k l)).map (s.expected slots)
      let a1 : Align :=
        { a with lines := a.lines + 1, dens := addLists (· + ·) a.dens l.dens,
                 exp := addLists (· + ·) a.exp now }
      s.updQlp (fun q => { q with align := some a1 })

/-- A camera line meets its row (R267, R268, R270). -/
def State.qlpCompare (s : State) (k : Nat) (l : QCamLine) (poisoned : Bool) : State :=
  let seenNow (t : State) : State :=
    if hk : k < 6 then t.updQlp (fun q => { q with seen := q.seen.set k ((l.pos, l.valid) :: q.seen.get ⟨k, hk⟩) })
    else t
  let nothing (t : State) : State := seenNow (t.incSat pgQLP QLP_UNCOMPARED_N)
  let usable := decide (l.flags % 16 = 0) && decide (l.flags / 32 = 0)
  match s.meets l.pos with
  | none => nothing s
  | some g =>
    match s.rowAt g with
    | none => nothing s
    | some r =>
      if !s.rowComplete g then nothing s
      else
        let read := s.ringRead g
        let s1 := read.1.alignLine k l read.2.1
        let rs := s1.residuals k read.2.1 r l
        if !usable || poisoned || read.2.2 || rs.all Option.isNone then nothing s1
        else
          let s2 := (seenNow s1).setRow g { r with compared := true }
          let accs := (s.firedNozzles r).foldl
            (fun a e =>
              match s.nozzleRes rs e.2 with
              | some v => addAcc a e.1 k v
              | none => a) s2.qlp.accs
          ((s2.updQlp (fun q => { q with accs := accs })).add2 pgQLP QLP_CMP_LO_N QLP_CMP_HI_N 1).wr
            pgQLP QLP_STATUS_WARMING 0

/-- The loop or the archive compressor has work to finish before CAM drops (R83): an ALIGN, a job, a row that
is due, a camera line that waits for its row. -/
def State.qlpBusy (s : State) : Bool :=
  s.qlp.align.isSome || s.qlp.arc.isSome ||
    (s.qlpOn && ((List.range 32).any (fun h => (s.rowDue h).isSome) || s.qlp.cams.toList.any (fun l => !l.isEmpty)))

/-! ### Judgement and proposals (R271, R272) -/

def State.showQueues (s : State) : State :=
  (s.wr pgQLP QLP_PROP_COUNT_HOST s.qlp.host.length).wr pgQLP QLP_PROP_COUNT_AUTO s.qlp.auto.length

/-- A proposal enters the host queue, or is lost. -/
def State.toHost (s : State) (p : Proposal) : State × Bool :=
  if s.qlp.host.length < 64 then
    ((s.updQlp (fun q => { q with host := q.host ++ [p] })).showQueues, true)
  else (s.incSat pgQLP QLP_PROP_COUNT_LOST, false)

def State.qlpUsed (s : State) : Nat := s.qlp.used.sum

/-- A proposal takes its queue (R272). -/
def State.propose (s : State) (p : Proposal) : State :=
  let auto := s.bit pgQLP QLP_CFG_MODE
  if auto && decide (s.qlp.auto.length < 16) &&
      decide (s.qlpUsed + s.qlp.auto.length < s.rd pgQLP QLP_AUTO_PER_HOUR) then
    (s.updQlp (fun q => { q with auto := q.auto ++ [p] })).showQueues
  else
    let h := s.toHost p
    if h.2 then
      let s1 := h.1.raise pgQLP 0
      if auto then s1.raise pgQLP 1 else s1
    else h.1

/-- A nozzle's proposal stays in a queue. -/
def State.queuedNozzle (s : State) (n : Nat) : Bool :=
  s.qlp.auto.any (fun p => p.nozzle == n) || s.qlp.host.any (fun p => p.nozzle == n)

def QAcc.mean (a : QAcc) : Int := if a.n = 0 then 0 else a.sum.fdiv a.n

/-- The bar column of a global nozzle number. -/
def State.barCol (s : State) (n : Nat) : Nat := s.headX (n / 5120) + n % 5120

/-- Judge one nozzle among those judged in the frame (R271). -/
def State.judgeNozzle (s : State) (k : Nat) (all : List QAcc) (a : QAcc) : State :=
  let c := s.barCol a.nozzle
  let lower := all.any (fun b =>
    b.nozzle != a.nozzle && decide (s.barCol b.nozzle ≤ c + s.qlpCross) &&
      decide (c ≤ s.barCol b.nozzle + s.qlpCross) &&
      (decide (b.mean < a.mean) || (b.mean == a.mean && decide (b.nozzle < a.nozzle))))
  let weak : Int := s.rd pgQLP QLP_JUDGE_WEAK
  let miss : Int := s.rd pgQLP QLP_JUDGE_MISS
  let put (t : State) (n : Nat) : State :=
    t.updQlp (fun q => { q with confirm := Tbl.set 0 a.nozzle n q.confirm })
  let kind := if lower then 0 else if a.mean ≤ -miss then 2 else if a.mean ≤ -weak then 1 else 0
  if kind = 0 then put s 0
  else
    let n := Tbl.get 0 a.nozzle s.qlp.confirm + 1
    if max 1 (s.rd pgQLP QLP_CONFIRM_M) ≤ n then
      (put s 0).propose { nozzle := a.nozzle, kind := kind, mean := a.mean, cam := k }
    else put s n

/-- Accumulators in the order of their nozzles. -/
def insAcc (a : QAcc) : List QAcc → List QAcc
  | [] => [a]
  | b :: t => if a.nozzle < b.nozzle then a :: b :: t else b :: insAcc a t

/-- The end of a frame of camera `k`: every nozzle whose accumulator is the camera's is judged, unless
the frame was aborted, and the accumulators are emptied (R271). -/
def State.qlpJudge (s : State) (k : Nat) (aborted : Bool) : State :=
  let mine := s.qlp.accs.filter (fun a => a.cam == k)
  let s1 := s.updQlp (fun q => { q with accs := q.accs.filter (fun a => a.cam != k) })
  if aborted || !s.qlpOn then s1
  else
    let judged := (mine.filter (fun a =>
      decide (s.rd pgQLP QLP_CONFIRM_MIN_N ≤ a.n) && !s.queuedNozzle a.nozzle)).foldr insAcc []
    judged.foldl (fun t a => t.judgeNozzle k judged a) s1

/-- A SET_OUT that takes a nozzle out for the Groundskeeper in automatic mode counts (R272). -/
def State.qlpCountOut (s : State) (r : Req) (v : Bool) : State :=
  if r == .gkp && v && s.has pgQLP && s.bit pgQLP QLP_CFG_MODE then
    let used := match s.qlp.used with
      | [] => [1]
      | n :: t => (n + 1) :: t
    let s1 := s.updQlp (fun q => { q with used := used })
    (s1.wr pgQLP QLP_AUTO_STAT_USED (min s1.qlpUsed 65535)).incSat pgQLP QLP_AUTO_STAT_APPLIED
  else s

/-- `MODE` goes from 1 to 0: the automatic queue moves to the end of the host queue (R274). -/
def State.qlpToApproval (s : State) : State :=
  let moved := s.qlp.auto
  let s1 := (s.updQlp (fun q => { q with auto := [] })).showQueues
  let out := moved.foldl
    (fun (x : State × Bool) p =>
      let y := x.1.toHost p
      (y.1, x.2 || y.2)) (s1, false)
  if out.2 then out.1.raise pgQLP 0 else out.1

/-- The words of a queue's entry (R280). -/
def Proposal.lo (p : Proposal) : Word := BitVec.ofNat 32 (p.nozzle + p.kind * 2 ^ 20 + 2 ^ 31)
def Proposal.hi (p : Proposal) : Word := BitVec.ofNat 32 (unsint 16 (satInt 16 p.mean) + p.cam * 2 ^ 16)

/-- A delivered camera line joins those that wait for their row. -/
def State.qlpCamLine (s : State) (k : Nat) (l : QCamLine) : State :=
  if hk : k < 6 then
    if s.qlpOn then
      s.updQlp (fun q => { q with cams := q.cams.set k (q.cams.get ⟨k, hk⟩ ++ [l]) })
    else s
  else s

/-- A commit on the page has taken effect: a new generation (R275). -/
def State.qlpFresh (s : State) : State :=
  (s.updQlp (fun q => { q with gen := q.gen + 1, accs := [], confirm := [] })).wr pgQLP
    QLP_STATUS_WARMING 1

/-- `ENABLE` goes to 1 (R265). -/
def State.qlpEnable (s : State) : State :=
  let lg := min (max (s.rd pgQLP QLP_RING_LOG2) 10) 15
  let s1 := s.updQlp (fun q =>
    { q with
      heads := s.rd pgQLP QLP_HEADS_HEADS
      ring := s.rd pgQLP QLP_RING_BASE
      rows2 := lg
      gen := q.gen + 1
      lines := Vector.replicate 32 []
      rows := []
      cams := Vector.replicate 6 []
      seen := Vector.replicate 6 []
      accs := [] })
  ((s1.wr pgQLP UNIT_CTRL_ENABLE 1).setState pgQLP 1).wr pgQLP QLP_STATUS_WARMING 1

/-- `ENABLE` goes to 0: the page reads OFF and nothing more is rendered or compared. -/
def State.qlpDisable (s : State) : State :=
  let s1 := s.updQlp (fun q =>
    { q with lines := Vector.replicate 32 [], cams := Vector.replicate 6 [], accs := [] })
  (s1.wr pgQLP UNIT_CTRL_ENABLE 0).setState pgQLP 0

/-! ### Alignment (R269) -/

/-- The profiles' pairs of measured and expected density for an offset and a scale, where the camera pixel
lies between `lo` and `hi`, all in 16.16. -/
def alignPairs (a : Align) (lo hi ofs scale : Int) : List (Int × Int) :=
  (a.exp.mapIdx (fun x e => (ofs + (x : Int) * scale, e))).filterMap (fun c =>
    if lo ≤ c.1 ∧ c.1 < hi ∧ 0 ≤ c.1 ∧ (c.1.fdiv 65536).toNat + 1 < a.dens.length then
      some (measured c.1 a.dens, c.2)
    else none)

/-- The square of the normalised correlation of pairs with its sign, as a numerator over a denominator. -/
def strength (ps : List (Int × Int)) : Int × Int :=
  let n : Int := ps.length
  let sx := (ps.map Prod.fst).sum
  let sy := (ps.map Prod.snd).sum
  let cov := n * (ps.map (fun p => p.1 * p.2)).sum - sx * sy
  let vx := n * (ps.map (fun p => p.1 * p.1)).sum - sx * sx
  let vy := n * (ps.map (fun p => p.2 * p.2)).sum - sy * sy
  if vx * vy = 0 then (0, 1) else (cov * cov.natAbs, vx * vy)

def stronger (a b : Int × Int) : Bool := decide (b.1 * a.2 < a.1 * b.2)

/-- The offset of the best correlation among some at one scale; the first of equals. -/
def alignBest (a : Align) (lo hi scale first : Int) (ofs : List Int) : Int :=
  (ofs.foldl
    (fun (best : Int × (Int × Int)) o =>
      let v := strength (alignPairs a lo hi o scale)
      if stronger v best.2 then (o, v) else best)
    (first, strength (alignPairs a lo hi first scale))).1

/-- A number held within `reach` of another. -/
def near (v base reach : Int) : Int := max (base - reach) (min (base + reach) v)

/-- What the search finds: the best offset at the shadow's scale, or the offset and scale on which the
fits of the span's halves meet, whichever correlates better (R269; log 61). -/
def State.alignFind (s : State) (a : Align) : Int × Int × (Int × Int) :=
  let ofs := s.rdS pgQLP (QLP_CAM_OFS_OFS a.cam)
  let scale : Int := s.rd pgQLP (QLP_CAM_SCALE_SCALE a.cam)
  let pix := s.rd pgQLP QLP_SEARCH_PIX
  let reach : Int := 65536 * pix
  let steps := (List.range (128 * pix + 1)).map (fun i => ofs - reach + 1024 * (i : Int))
  let span : Int := 65536 * a.dens.length
  let l := alignBest a 0 (span / 2) scale ofs steps
  let r := alignBest a (span / 2) span scale ofs steps
  let den := span / 2 - (r - l)
  let fit := if den ≤ 0 then scale else (2 * (span / 2 * scale) + den).fdiv (2 * den)
  let scale' := near fit scale ((scale * 2).fdiv 100)
  let meet := if scale = 0 then l else span / 4 - ((span / 4 - l) * scale').fdiv scale
  let ofs' := near (ofs + ((meet - ofs + 512).fdiv 1024) * 1024) ofs reach
  let o := alignBest a 0 span scale ofs steps
  let whole := strength (alignPairs a 0 span o scale)
  let halves := strength (alignPairs a 0 span ofs' scale')
  if stronger halves whole then (ofs', scale', halves) else (o, scale, whole)

/-- The correlation reaches 0.5. -/
def peakOk (v : Int × Int) : Bool := decide (0 < v.1) && decide (v.2 ≤ 4 * v.1)

/-- A peak goes to the shadow and is committed at the reference channel's next print page; the result
follows with the commit. -/
def State.alignFit (s : State) (k : Nat) (ofs scale : Int) : State :=
  let s1 := s.wr pgQLP (QLP_CAM_OFS_OFS k) (unsint 32 ofs)
  (s1.wr pgQLP (QLP_CAM_SCALE_SCALE k) (unsint 32 scale)).armCommit .host pgQLP 3 true

end Sys2Proof.Machine
end

