-- ==== Sys2Proof/Machine/ArcOps.lean ====
section
/-! DEFINITION. The archive compressor: greyscale tiles, the output, verification by a kiosk, and how a
job ends (R276–R279). -/

namespace Sys2Proof.Machine

def State.updArc (s : State) (g : Arc → Arc) : State :=
  s.updQlp (fun q => { q with arc := q.arc.map g })

/-! ### Greyscale tiles (R181, R276) -/

/-- Bytes that must remain for one more line: 46 bits a sample in the worst case. -/
def lineRoom (width : Nat) : Nat := (46 * width + 7) / 8

/-- How many of the lines a tile takes, with the encoder after them. -/
def takeLines (c : Coding) (width : Nat) : Nat → List Nat → List (List Nat) → Enc8 → Nat → Enc8 × Nat
  | 0, _, _, e, n => (e, n)
  | _, _, [], e, n => (e, n)
  | fuel + 1, prev, l :: t, e, n =>
    let e1 := encodeLines c width prev [l] e
    let used := 32 + (e1.bits.length + 7) / 8 + 2
    if 65536 < used + lineRoom width then (e1, n + 1)
    else takeLines c width fuel l t e1 (n + 1)

/-- A greyscale tile of the first of `lines`, and how many it took. -/
def greyTile (t width first : Nat) (lines : List (List Nat)) : List Byte × Nat :=
  let c := greyCoding 12 t
  let out := takeLines c width 64 [] lines { bits := [], cost := 0, ctx := freshCtx c, rk := 0 } 0
  let body := packBits out.1.bits
  let head := leBytes 2 0xB1A0 ++ [1, 1, 0, 0, 0xFF, BitVec.ofNat 8 out.2] ++ leBytes 6 first ++
    leBytes 2 width ++ leBytes 4 (34 + body.length) ++ leBytes 4 out.1.cost ++
    leBytes 4 (12 + t * 2 ^ 16)
  (head ++ leBytes 4 (crc32c head).toNat ++ body ++ [0xBA, 0x0E], out.2)

/-! ### The job (R276–R279) -/

/-- The job fails, once ARCHIVE_DONE reports it. -/
def State.arcBad (s : State) (reason : Nat) : State :=
  s.updArc (fun a => { a with failed := reason, waiting := false })

/-- Write output bytes; a write that would pass the space fails the job. -/
def State.arcPut (s : State) (bs : List Byte) : State :=
  match s.qlp.arc with
  | none => s
  | some a =>
    if a.failed ≠ 0 then s
    else if a.space < a.out + bs.length then s.arcBad 1
    else
      (s.updArc (fun x => { x with out := x.out + bs.length, crc := bs.foldl crcByte x.crc })).emit
        (.hostWrite (a.dst + BitVec.ofNat 64 a.out) bs)

/-- The bytes of the store at an offset, read through bulk-copy, and whether any word was poisoned. -/
def State.storeBytes (s : State) (a : Arc) (ofs n : Nat) : State × List Byte × Bool :=
  let r := s.readMem 4 (a.base + ofs) n
  (r.1, r.2.1, r.2.2.any id)

/-- A header of a stored frame at an offset names the camera and the frame that is expected; an aborted
frame may have no line (R260, R276). -/
def headerOk (a : Arc) (h : List Byte) (ofs : Nat) (expect : Option Nat) : Bool :=
  let num := ofLe (h.take 8)
  let src := ((h[14]?).getD 0).toNat
  let lines := ofLe ((h.drop 16).take 2)
  let values := ofLe ((h.drop 18).take 2)
  let stride := ofLe ((h.drop 24).take 4)
  decide (ofs + 64 ≤ a.size) && decide (src % 8 = a.cam) && decide (src / 16 % 4 ≠ 0) &&
    decide (0 < values) && decide (stride = (16 + 2 * values + 63) / 64 * 64) &&
    decide (ofs + 64 + lines * stride ≤ a.size) &&
    (match expect with
     | none => true
     | some n => num == n)

/-- Bytes 0–15 of the line records of a frame, and whether any word was poisoned. -/
def State.arcRecs (s : State) (a : Arc) (ofs stride : Nat) : Nat → State × List Byte × Bool
  | 0 => (s, [], false)
  | n + 1 =>
    let r := s.arcRecs a ofs stride n
    let x := r.1.storeBytes a (ofs + 64 + n * stride) 16
    (x.1, r.2.1 ++ x.2.1, r.2.2 || x.2.2)

/-- Begin the frame whose header `h` stands at `ofs`: its header and the first 16 bytes of its records go
out (R277). -/
def State.arcFrame (s : State) (ofs : Nat) (h : List Byte) : State :=
  match s.qlp.arc with
  | none => s
  | some a =>
    let lines := ofLe ((h.drop 16).take 2)
    let values := ofLe ((h.drop 18).take 2)
    let stride := ofLe ((h.drop 24).take 4)
    let s1 := s.updArc (fun x =>
      { x with hdrAt := ofs, frame := ofLe (h.take 8), hdr := h, lines := lines, values := values,
               stride := stride, next := List.replicate x.planes 0 })
    let r := s1.arcRecs a ofs stride lines
    if r.2.2 then r.1.arcBad 5 else (r.1.arcPut h).arcPut r.2.1

/-- Look for a frame's header at one place: a poisoned word fails the job (R279). -/
def State.arcLook (s : State) (a : Arc) (ofs : Nat) (expect : Option Nat) (miss : State → State) : State :=
  let r := s.storeBytes a ofs 64
  if a.size < ofs + 64 then miss s
  else if r.2.2 then r.1.arcBad 5
  else if headerOk a r.2.1 ofs expect then r.1.arcFrame ofs r.2.1
  else miss r.1

/-- Look for the next frame's header: directly after the last frame, or at the store base (R276). -/
def State.arcSeek (s : State) : State :=
  match s.qlp.arc with
  | none => s
  | some a =>
    s.arcLook a (a.hdrAt + 64 + a.lines * a.stride) (some (a.frame + 1))
      (fun t => t.arcLook a 0 (some (a.frame + 1)) (fun u => u.arcBad 3))

/-- The plane whose tile comes next: the least line, then the least plane. -/
def nextPlane (lines : Nat) (next : List Nat) : Option Nat :=
  let low := next.foldl min lines
  if low = lines then none else next.findIdx? (fun n => decide (n = low))

/-- The values of a plane's lines from `from'` on, `n` of them, and whether any word was poisoned. -/
def State.arcLines (s : State) (a : Arc) (p from' : Nat) : Nat → State × List (List Nat) × Bool
  | 0 => (s, [], false)
  | n + 1 =>
    let r := s.arcLines a p from' n
    let x := r.1.storeBytes a (a.hdrAt + 64 + (from' + n) * a.stride + 16) (2 * a.values)
    let line := ((List.range a.values).filter (fun j => j % a.planes = p)).map
      (fun j => ofLe ((x.2.1.drop (2 * j)).take 2) % 4096)
    (x.1, r.2.1 ++ [line], r.2.2 || x.2.2)

/-- The CRC-32C of samples, 16 bits each (R278; log 65). -/
def sampleCrc (lines : List (List Nat)) : Word := crc32c (lines.flatMap (fun l => l.flatMap (leBytes 2)))

/-- The next tile of a plane is encoded, goes out, and waits for its verification (R276–R278). -/
def State.arcEncode (s : State) (a : Arc) (p : Nat) : State :=
  let n := (a.next[p]?).getD 0
  let r := s.arcLines a p n (min 64 (a.lines - n))
  if r.2.2 then r.1.arcBad 5
  else
    let width := (r.2.1.head?.getD []).length
    let tile := greyTile a.t width n r.2.1
    let s1 := r.1.arcPut (tile.1 ++ List.replicate ((4 - tile.1.length % 4) % 4) 0)
    s1.updArc (fun x =>
      { x with next := x.next.set p (n + tile.2), waiting := x.failed == 0, tile := tile.1,
               sum := sampleCrc (r.2.1.take tile.2) })

/-- Encode the next tile and hand it over for verification; with none left the frame is done, and the
next one begins or every tile of the job has been verified (R276–R278). -/
def State.arcTile : Nat → State → State
  | 0, s => s
  | fuel + 1, s =>
    match s.qlp.arc with
    | none => s
    | some a =>
      if a.failed ≠ 0 ∨ a.ready then s
      else
        match nextPlane a.lines a.next with
        | some p =>
          let h := s.storeBytes a a.hdrAt 64
          if h.2.2 then h.1.arcBad 5
          else if h.2.1 != a.hdr then h.1.arcBad 3
          else h.1.arcEncode a p
        | none =>
          let s1 := s.updArc (fun x => { x with done := x.done + 1 })
          let s2 := s1.wr pgQLP ARC_STAT_FRAMES (a.done + 1)
          if a.done + 1 = a.count then s2.updArc (fun x => { x with ready := true })
          else State.arcTile fuel s2.arcSeek

/-- ARCHIVE is accepted: the registers are read, the job header's place is zeroed, the first frame
begins (R276, R279). -/
def State.arcStart (s : State) : State :=
  let c := s.camOf (s.rd pgQLP ARC_SRC_CAM)
  let a : Arc :=
    { cam := s.rd pgQLP ARC_SRC_CAM, planes := if s.bit pgQLP ARC_SRC_THREE then 3 else 1,
      t := max 2 (s.rd pgQLP ARC_SRC_T),
      dst := BitVec.ofNat 64 (s.rd2 pgQLP ARC_DST_LO_ADDR ARC_DST_HI_ADDR),
      space := s.rd pgQLP ARC_SPACE_BYTES, count := max 1 (s.rd pgQLP ARC_COUNT_N),
      base := c.storeBase, size := c.storeSize, hdrAt := 0, frame := 0, hdr := [], lines := 0, values := 0,
      stride := 0, next := [], done := 0, out := 64, crc := 0xFFFFFFFF, waiting := false,
      tile := [], sum := 0, ready := false, failed := 0 }
  let s1 := (s.updQlp (fun q => { q with arc := some a })).wr pgQLP ARC_STAT_BUSY 1
  let s2 := (s1.wr pgQLP ARC_STAT_FRAMES 0).emit (.hostWrite a.dst (List.replicate 64 0))
  let ofs := 64 * s.rd pgQLP ARC_OFS_OFS
  State.arcTile (a.count + 2) (s2.arcLook a ofs none (fun t => t.arcBad 3))

/-- The kiosk that verifies a tile lets go of it. -/
def State.dropVerif (s : State) : State :=
  (List.range s.part.kiosks).foldl
    (fun t k => if t.holding k == .verif then t.kioskFree k else t) s

/-- A job fails whole (R279). -/
def State.arcFail (s : State) (reason : Nat) : State :=
  let s1 := (s.updQlp (fun q => { q with arc := none })).dropVerif
  let s2 := (s1.wr pgQLP ARC_STAT_BUSY 0).wr pgQLP ARC_STAT_FAIL 1
  ((s2.wr pgQLP ARC_STAT_REASON reason).wr pgQLP ARC_BYTES_N 0).raise pgQLP 3

/-- A job ends well: the header goes out last (R277, R279). -/
def State.arcCommit (s : State) (a : Arc) : State :=
  let crc := a.crc ^^^ 0xFFFFFFFF
  let head := leBytes 2 0xA7C4 ++ [1, BitVec.ofNat 8 a.planes] ++ leBytes 4 a.done ++
    leBytes 8 a.out ++ leBytes 4 crc.toNat ++ List.replicate 44 0
  let s1 := (s.emit (.hostWrite a.dst head)).updQlp (fun q => { q with arc := none })
  ((s1.wr pgQLP ARC_STAT_BUSY 0).wr pgQLP ARC_STAT_DONE 1).wr pgQLP ARC_BYTES_N a.out

/-! ### Verification (R181, R182, R278) -/

/-- The header checks of R182 for a greyscale tile of `len` bytes. -/
def greyHdrOk (byteAt : Nat → Byte) (len : Nat) : Bool :=
  let h := readHdr byteAt
  let crcOk := crc32c ((List.range 28).map byteAt) == BitVec.ofNat 32 (leAt byteAt 28 4)
  let depth := h.params % 32
  decide (34 ≤ len) && crcOk && h.length == len && decide (len ≤ 65536) && leAt byteAt 0 2 == 0xB1A0 &&
    leAt byteAt 2 1 == 1 && leAt byteAt 3 1 == 1 && h.stream == 0 && h.head == 0 && h.key == 0xFF &&
    decide (0 < h.lines) && decide (h.lines ≤ 64) && decide (0 < h.width) && decide (h.width ≤ 8192) &&
    decide (8 ≤ depth) && decide (depth ≤ 16) && h.params / 32 % 2048 == 0 && decide (2 ≤ h.params / 65536)

/-- The samples of a greyscale tile, all its lines in order; none where it breaks a rule of its bitstream
(R167–R178, R181). -/
def decodeGrey (byteAt : Nat → Byte) (len : Nat) : Option (List Nat) :=
  let h := readHdr byteAt
  let c := greyCoding (h.params % 32) (h.params / 65536)
  match decodeDots c (tileBit byteAt) (8 * (len - 2)) h.width (h.width * h.lines)
      { Dec.start c with bitPos := 256 } [] 0 with
  | .error _ => none
  | .ok (out, d, _) => if tileEndOk (tileBit byteAt) byteAt len d.bitPos then some out else none

/-- The kiosk has decoded the verification tile from its buffer to the destination of the request, the
compressor's check: whether it is sound and its samples are the source's (R182, R278). -/
def State.verifTile (s : State) (k : Nat) (a : Arc) : State × Bool :=
  let len := a.tile.length
  let byteAt := fun i => s.byte (kioskBuf k + i)
  let spoilt := (s.follyWord (kioskBuf k) len).isSome
  let sound := !spoilt && !s.poisonedIn (kioskBuf k) len && greyHdrOk byteAt len &&
    (match decodeGrey byteAt len with
     | some out => sampleCrc [out] == a.sum
     | none => false)
  (if spoilt then s.inject pgBST else s, sound)

/-- A kiosk that no print tile is offered to takes the waiting verification tile (R278). -/
def State.takeVerif (s : State) (k : Nat) : State :=
  match s.qlp.arc with
  | none => s
  | some a =>
    if a.waiting && a.failed == 0 &&
        (List.range s.part.kiosks).all (fun j => s.holding j != .verif) then
      ((s.setHolding k .verif).setState (pgKSK k) 2).store (kioskBuf k)
        (a.tile ++ List.replicate (7 - (a.tile.length + 7) % 8) 0) false
    else s

/-- A verification tile leaves its kiosk at a block boundary once a print tile is offered to it, or the
kiosk is kept out (R278, R148). -/
def State.verifBoundary (s : State) (k : Nat) : State :=
  if s.keptOut k || (s.choose k).isSome then s.kioskFree k else s

end Sys2Proof.Machine
end

