-- ==== Sys2Proof/Machine/DramOps.lean ====
section
/-! DEFINITION. Shared operations of the memory controller and the copy engine: panic, what a port
serves, full trainings, the places that the host window and the copy engine may write (R283–R303). -/

namespace Sys2Proof.Machine

/-! ### Panic (R288) -/

/-- A port is in panic now: a running head's ribbon is low and a kiosk waits for its tile, a camera
queue is more than half full; bulk ports never are. -/
def State.portPanic (s : State) (p : Nat) : Bool :=
  if p = 0 then
    (List.range s.part.heads).any (fun h => (s.hscOf h).running && s.forward &&
      decide (s.readyLines h < s.rd pgDRC DRC_PANIC_RIB_LINES)) &&
    !s.ing.waits.isEmpty
  else p == 1 && s.camPanic

def State.anyPanic (s : State) : Bool := s.portPanic 0 || s.portPanic 1

/-- Note whether a port is in panic: an entry is counted, leaving makes `PANIC_LONG` possible again. -/
def State.notePanic (s : State) (p : Fin 5) : State :=
  let was := s.bit pgDRC (DRC_PORT_STAT_PANIC p.val)
  let is := s.portPanic p.val
  let s1 := s.wrBit pgDRC (DRC_PORT_STAT_PANIC p.val) is
  let s2 := if is && !was then s1.incSat pgDRC (DRC_PORT_STAT_PANICS p.val) else s1
  if is then s2
  else { s2 with drc := { s2.drc with told := s2.drc.told.set p.val false } }

/-! ### Arbitration (R287, R291) -/

/-- 64-byte units of a request. -/
def DramReq.units (q : DramReq) : Nat := unitsOf q.addr q.len

/-- What a bulk port's turn adds to its deficit, 0 where nothing waits at it. -/
def State.grown (s : State) (i : Fin 3) (n : Nat) : Nat :=
  if (s.waitingAt (2 + i.val)).isEmpty then 0
  else n + max 1 (s.rd pgDRC (DRC_PORT_CFG_WEIGHT (2 + i.val)))

/-- Deficit round robin among the bulk ports (R291): the port whose turn it is serves its next request if
its deficit covers it, else the turn goes on and the next port's deficit grows by its weight. -/
def State.drrPick (s : State) : Nat → Fin 3 → Vector Nat 3 → Option (DramReq × Fin 3 × Vector Nat 3)
  | 0, _, _ => none
  | fuel + 1, i, deficit =>
    let next := i + 1
    let d := deficit.get i
    match s.waitingAt (2 + i.val) with
    | q :: _ =>
      if q.units ≤ d then some (q, i, deficit.set i.val (d - q.units))
      else s.drrPick fuel next (deficit.set next.val (s.grown next (deficit.get next)))
    | [] =>
      s.drrPick fuel next ((deficit.set i.val 0).set next.val (s.grown next (deficit.get next)))

/-- The bulk ports have had less than `MIN_PCT` % of the transfers of the last 10 µs (R291). -/
def State.bulkShort (s : State) : Bool :=
  let past := s.drc.grants.filter (fun g => decide (s.now < g.time + 10000))
  let all := (past.map (fun g => g.units)).sum
  let bulk := ((past.filter (fun g => g.bulk)).map (fun g => g.units)).sum
  decide (bulk * 100 < min 50 (s.rd pgDRC DRC_BULK_MIN_PCT) * all)

/-- The first request that waits at port 0 or port 1. -/
def State.rtPick (s : State) : Option DramReq := s.drc.queue.find? (fun q => decide (q.port < 2))

/-- The first request that waits at a port in panic, RT-ribbon before RT-camera. -/
def State.urgent (s : State) : Option DramReq :=
  ([0, 1].filter s.portPanic).findSome? (fun p => (s.waitingAt p).head?)

/-- The request to serve now: of the ports in panic, RT-ribbon first; else of the real-time ports, in
order of arrival; else of the bulk ports, which come first while they are short (R291; log 104). -/
def State.pick (s : State) : Option (DramReq × Fin 3 × Vector Nat 3) :=
  let keep (q : DramReq) : DramReq × Fin 3 × Vector Nat 3 := (q, s.drc.turn, s.drc.deficit)
  let bulk := s.drrPick 800 s.drc.turn s.drc.deficit
  match s.urgent with
  | some q => some (keep q)
  | none =>
    if !s.anyPanic && bulk.isSome && s.bulkShort then bulk
    else
      match s.rtPick with
      | some q => some (keep q)
      | none => bulk

/-- Serve the request that comes first. -/
def State.serveNext (s : State) : State :=
  match s.pick with
  | none => s
  | some (q, turn, deficit) =>
    let drc : Drc := { s.drc with queue := s.drc.queue.erase q, turn := turn, deficit := deficit }
    ({ s with drc := drc } : State).serveReq q

/-- The channels have served a request in this tick (log 104). -/
def State.dramTaken (s : State) : Bool :=
  match s.drc.grants with
  | [] => false
  | g :: _ => g.time == s.now

/-- A request joins its port, where MEM can serve it; the channels serve one request of DRAM in a tick. -/
def State.dramAsk (s : State) (q : DramReq) : State :=
  if s.memGone then s.serveReq q
  else
    let s0 := s.memWake
    let s1 : State := { s0 with drc := { s0.drc with queue := s0.drc.queue ++ [q] } }
    if s.dramTaken then s1 else s1.serveNext

/-- A host write that arrived has not reached its memory: the fabric holds it for a bank that is SYNCING, or
it waits at its port (R285, R290). -/
def State.storesHeld (s : State) : Bool :=
  let isStore : Held → Bool := fun x =>
    match x with
    | .store .. => true
    | _ => false
  s.trl.toList.any (fun t => t.held.any isStore) || s.cam.toList.any (fun c => c.held.any isStore) ||
    (s.waitingAt 3).any (fun q => q.write.isSome)

/-- The fence reads that waited complete (R290). -/
def State.fencesDone (s : State) : State :=
  if s.storesHeld then s
  else
    let s1 : State := { s with drc := { s.drc with fences := [] } }
    s.drc.fences.foldl (fun t r => t.emit (.readData r (t.word pgDRC 0x0AC))) s1

/-! ### Refresh (R291, R299) -/

/-- The channel's DRAM is clocked and its channel serves requests. -/
def State.chanUp (s : State) (c : Fin 2) : Bool := s.chanLive c.val && s.pwr.doms.get 2 == .up

/-- An all-bank refresh, or self-refresh, closes the rows (R291, R299). -/
def State.closeRows (s : State) (c : Fin 2) : State := s.updChan c (fun x => { x with rows := [] })

/-- A refresh is issued. -/
def State.refresh (s : State) (c : Fin 2) : State :=
  let p := pgDRAM c.val
  (s.closeRows c).wr p DRC_REF_STAT_OWED (s.rd p DRC_REF_STAT_OWED - 1)

/-- Classes 1 to 3 of R291: with 4 owed a refresh comes first, else it waits while a port in panic has a
request. -/
def State.refreshStep (s : State) (c : Fin 2) : State :=
  let p := pgDRAM c.val
  let owed := s.rd p DRC_REF_STAT_OWED
  if !s.chanUp c || owed == 0 then s
  else if 4 ≤ owed then
    if s.anyPanic then (s.refresh c).incSat p DRC_REF_STAT_MAX_HITS else s.refresh c
  else if s.urgent.isSome then s
  else s.refresh c

/-- Every owed refresh is issued before self-refresh (R299). -/
def State.refreshOwed (s : State) (c : Fin 2) : State :=
  if s.rd (pgDRAM c.val) DRC_REF_STAT_OWED = 0 then s
  else (s.closeRows c).wr (pgDRAM c.val) DRC_REF_STAT_OWED 0

/-- In an idle tick a channel issues a refresh that it owes, and the channels serve one request that
waits. -/
def State.tickDram (s : State) : State :=
  let s1 := (s.refreshStep 0).refreshStep 1
  (if s1.dramTaken then s1 else s1.serveNext).fencesDone

/-! ### Training (R296–R298) -/

/-- A full training: its count, temperature and time, record TRAINED, and the calibration record
(R298, R409). -/
def State.fullTraining (s : State) (c : Fin 2) (temp : BitVec 16) : State :=
  let p := pgDRAM c.val
  let s1 := ((s.incSat p DRC_CAL_STAT_COUNT).wr p DRC_CAL_STAT_TEMP temp.toNat).wr p
    DRC_CH_TEMP_TEMP temp.toNat
  let s2 := (s1.wr p DRC_CAL_TIME_LO_NS (s.word (pgTB 0) 0x040).toNat).wr p DRC_CAL_TIME_HI_WRAPS
    (s.tb.get 0).wraps.toNat
  (s2.calDone (3 + c.val)).record 0x3003 p (c.val + 2 ^ 16 * temp.toNat)

/-- A forced sweep starts, in place of the sweep that runs (R297). -/
def State.forceSweep (s : State) (c : Fin 2) : State :=
  let p := pgDRAM c.val
  ((s.setState p 3).wr p DRC_SLICE_STAT_POS 0).updChan c (fun x => { x with sliceAt := s.now })

/-- The end of a sweep: settings are applied, or `TRAIN_FAIL`; a forced one is a full training. -/
def State.sweepEnd (s : State) (c : Fin 2) (eyes : Bool) (temp : BitVec 16) : State :=
  let p := pgDRAM c.val
  let forced := s.rd p UNIT_STATUS_STATE == 3
  let s1 := if s.follyOn p 3 then s.inject p else s
  let good := eyes && !s.follyOn p 3
  let s2 := if good then s1 else s1.raise p 2
  if forced then (s2.setState p 2).fullTraining c temp else s2

/-! ### Places in the device address map (R283, R285) -/

/-- The SRAM regions of R283: first address and length. -/
def sramRegions : List (Nat × Nat) :=
  [(0x1000000000, 0x2800000), (0x1002800000, 0x600000), (0x1002E00000, 0x500000),
   (0x1003300000, 0x200000), (0x1003500000, 0x180000), (0x1003680000, 0x400000),
   (0x1003A80000, 0xC0000), (0x1003B40000, 0x40000), (0x1003B80000, 0x480000)]

/-- What a place means to a write of the host window or the copy engine. -/
inductive Place where
  /-- DRAM that is fitted, or the General region -/
  | plain
  /-- Onlek's staging area -/
  | staging
  /-- a head's shadow bank -/
  | trl (h : Nat)
  /-- a camera's shadow bank -/
  | cam (k : Nat)
  /-- it may be read, not written -/
  | readOnly
  | invalid
  deriving DecidableEq, Repr

/-- A range lies in another. -/
def within (a n base size : Nat) : Bool := decide (base ≤ a) && decide (a + n ≤ base + size)

/-- What a range of the device address map is. -/
def State.placeOf (s : State) (a n : Nat) : Place :=
  if a < sramBase then (if a + n ≤ s.fitted then .plain else .invalid)
  else if !sramRegions.any (fun r => within a n r.1 r.2) then .invalid
  else if within a n 0x1003B80000 0x480000 then .plain
  else if within a n onkStageBase onkStageSize then .staging
  else
    match (List.range s.part.heads).find?
        (fun h => within a n (trlBank h !(s.trlOf h).bank) trlBankBytes) with
    | some h => .trl h
    | none =>
      match (List.range s.part.cams).find?
          (fun k => within a n (camBank k !(s.camOf k).bank) (4 * camEntries)) with
      | some k => .cam k
      | none => .readOnly

/-- The bytes of a write with the reserved bits of the entries they fall in at 0. -/
def maskBytes (mask : Nat → Word) (ofs : Nat) (bs : List Byte) : List Byte :=
  bs.mapIdx (fun i b =>
    let o := ofs + i
    b &&& BitVec.ofNat 8 ((mask (o / 4)).toNat / 256 ^ (o % 4)))

/-- The bytes as a head's table takes them. -/
def State.trlBytes (s : State) (h a : Nat) (bs : List Byte) : List Byte :=
  maskBytes (fun w => trlMask (w % 4)) (a - trlBank h !(s.trlOf h).bank) bs

def State.camBytes (s : State) (k a : Nat) (bs : List Byte) : List Byte :=
  maskBytes camMask (a - camBank k !(s.camOf k).bank) bs

/-- The pages whose shadow bank a place is. -/
def Place.page : Place → Option Nat
  | .trl h => some (pgTRL h)
  | .cam k => some (pgCAM k)
  | _ => none

/-- The bank that a place lies in is SYNCING. -/
def State.syncing (s : State) : Place → Bool
  | .trl h => s.trlState h == bkSYNCING
  | .cam k => s.camBankState k == bkSYNCING
  | _ => false

/-- A write that lands in its place, with the poison tag of each byte. -/
def State.land (s : State) (port : Nat) (pl : Place) (a : Nat) (bs : List Byte) (tags : List Bool) :
    State :=
  match pl with
  | .plain => if a < sramBase then s.portWrite port a bs tags else s.storeTagged a bs tags
  | .staging => s.storeTagged a bs tags
  | .trl h => (s.storeTagged a (s.trlBytes h a bs) tags).setState (pgTRL h) bkDIRTY
  | .cam k => (s.storeTagged a (s.camBytes k a bs) tags).setCamBank k bkDIRTY
  | _ => s

/-! ### The host window (R284, R285) -/

/-- A write through the window: onto a shadow bank it is one through the bank's table window, onto the
staging area it is dropped during a transaction (R285). -/
def State.windowWrite (s : State) (r : Req) (a : Nat) (bs : List Byte) (bad : Bool) : State :=
  let pl := s.placeOf a bs.length
  match pl with
  | .invalid => s.reqErr a
  | .readOnly => s.reqErr a
  | .staging =>
    if s.rd pgONKroot UNIT_STATUS_STATE ≠ 0 then s.dropWrite r pgONKroot 0
    else s.land 3 pl a bs (List.replicate bs.length bad)
  | .trl h => s.trlStore r h (a - trlBank h (!(s.trlOf h).bank)) (s.trlBytes h a bs) bad
  | .cam k => s.camStore r k (a - camBank k (!(s.camOf k).bank)) (s.camBytes k a bs) bad
  | .plain => s.land 3 pl a bs (List.replicate bs.length bad)

/-- A read through the window: zeros where it is invalid, and the poison tag in the EP bit (R293). -/
def State.windowRead (s : State) (r : Req) (a n : Nat) : State :=
  if s.placeOf a n = .invalid then (s.reqErr a).emit (.windowData r (List.replicate n 0) false)
  else
    let (s1, bs, tags) := s.readMem 3 a n
    s1.emit (.windowData r bs (tags.any id))

/-! ### The copy engine (R301–R303) -/

/-- The span of an operand (R301). -/
def spanOf (width height stride : Nat) : Nat := (height - 1) * stride + width

/-- Two spans share a byte. -/
def Copy.meets (c : Copy) : Bool :=
  let a := spanOf c.width c.height c.srcStride
  let b := spanOf c.width c.height c.dstStride
  c.fill.isNone && decide (c.src < c.dst + b) && decide (c.dst < c.src + a)

/-- The operands as the registers give them (R306). -/
def State.copyRegs (s : State) : Copy :=
  { src := s.rd2 pgCPY CPY_SRC_LO_ADDR CPY_SRC_HI_ADDR, dst := s.rd2 pgCPY CPY_DST_LO_ADDR CPY_DST_HI_ADDR,
    width := s.rd pgCPY CPY_SIZE_WIDTH, height := s.rd pgCPY CPY_SIZE_HEIGHT,
    srcStride := s.rd pgCPY CPY_SRC_STRIDE_BYTES, dstStride := s.rd pgCPY CPY_DST_STRIDE_BYTES,
    fill := if s.bit pgCPY CPY_CTRL_FILL then some (s.word pgCPY 0x060) else none, whens := [] }

/-- Where the destination lies. -/
def State.copyPlace (s : State) (c : Copy) : Place :=
  s.placeOf c.dst (spanOf c.width c.height c.dstStride)

/-- The BAD_ARG causes of COPY (R301). -/
def State.copyBad (s : State) (c : Copy) : Bool :=
  let reads := c.fill.isNone
  let low := fun (stride : Nat) => decide (1 < c.height) && decide (stride < c.width)
  c.width == 0 || c.height == 0 || low c.dstStride || (reads && low c.srcStride) ||
    (reads && s.placeOf c.src (spanOf c.width c.height c.srcStride) == .invalid) ||
    s.copyPlace c == .invalid || s.copyPlace c == .readOnly

/-- One row: its bytes, and its poison (R303); whether some poison was copied, in this row or before. -/
def State.copyRow (c : Copy) (acc : State × Bool) (y : Nat) : State × Bool :=
  let s := acc.1
  let d := c.dst + y * c.dstStride
  let pl := s.copyPlace c
  match c.fill with
  | some w =>
    (s.land 4 pl d ((List.range c.width).map (fun x => BitVec.ofNat 8 (w.toNat / 256 ^ (x % 4))))
      (List.replicate c.width false), acc.2)
  | none =>
    let r := s.readMem 4 (c.src + y * c.srcStride) c.width
    (r.1.land 4 pl d r.2.1 r.2.2, acc.2 || r.2.2.any id)

/-- Errors that a copy finds in the SRAM words of its source. -/
def State.copyErrs (s : State) (c : Copy) (errs : List SramErr) : State :=
  if c.fill.isSome then s else s.sramErrs c.src (spanOf c.width c.height c.srcStride) errs

/-- The order of the rows (R302); none where the copy completes without writing. -/
def Copy.rows (c : Copy) : List Nat :=
  if c.meets && c.dst == c.src then []
  else if c.meets && decide (c.src < c.dst) then (List.range c.height).reverse
  else List.range c.height

/-- The copy ends after some of its rows, and the writes of `WHEN` that waited for it are judged
(R192, R303). -/
def State.copyEnd (s : State) (c : Copy) (rows : List Nat) (cancelled : Bool) : State :=
  let s0 : State := { s with drc := { s.drc with copy := none } }
  let r := rows.foldl (State.copyRow c) (s0, false)
  let s1 := if r.2 then r.1.wr pgCPY CPY_STAT_POISON 1 else r.1
  let s2 := (s1.wr pgCPY CPY_STAT_ROWS rows.length).setState pgCPY 1
  let s3 :=
    if cancelled then (s2.wr pgCPY CPY_STAT_CANCELLED 1).raise pgCPY 1
    else if r.2 then s2.raise pgCPY 1
    else (s2.wr pgCPY CPY_STAT_DONE 1).raise pgCPY 0
  c.whens.foldl (fun t w => t.writeWhen w.1 w.2.1 w.2.2) s3

/-- A write of `WHEN` to a page whose shadow bank a copy writes is taken when that copy ends (R192). -/
def State.copyHolds (s : State) (page : Nat) : Bool :=
  match s.drc.copy with
  | some c => (s.copyPlace c).page == some page
  | none => false

end Sys2Proof.Machine
end

