-- ==== Sys2Proof/Machine/SnapOps.lean ====
section
/-! DEFINITION. Reads of live results through a requester's snapshot slot (R55). -/

namespace Sys2Proof.Machine

/-- A read that reaches its page answers what `f` gives; any other read answers 0 (R42, R82). -/
def State.readAccess (s : State) (r : Req) (page : Nat) (f : State → State) : State :=
  if s.open r page then f ((s.active r).touch page) else (s.active r).emit (.readData r 0)

/-- A read of a `_LO` word answers its value; the slot then holds the remaining words. -/
def State.readLo (s : State) (r : Req) (page : Nat) (lo : Word) (rest : List (Nat × Word)) : State :=
  (s.setSlot r page rest).emit (.readData r lo)

/-- A read of a `_HI` word answers from the slot and takes the word out of it, or answers the live
value and sets `SNAP_STALE`. -/
def State.readHi (s : State) (r : Req) (page off : Nat) (live : Word) : State :=
  match (s.snapSlot r page).lookup off with
  | some w =>
    (s.setSlot r page ((s.snapSlot r page).filter (fun e => e.1 != off))).emit (.readData r w)
  | none => (s.setStale r page true).emit (.readData r live)

end Sys2Proof.Machine
end

