-- ==== Sys2Proof/Machine/Memory.lean ====
section
/-! DEFINITION. Commands and events of the memory controller, the host window and the copy engine
(R281–R306, R432). -/

namespace Sys2Proof.Machine

/-! ### Requests -/

/-- R284, R286, R287, R291, R293, R294, R299: a request of DRAM is arbitrated and served at its port. -/
def execDramRequest (port : Fin 5) (addr : BitVec 40) (len : BitVec 13) (write : Option (List Byte))
    (poison : Bool) (errs : List BeatErr) (s : State) : Out := run (fun s =>
  s.onlyIf (decide (addr.toNat + len.toNat ≤ sramBase)) (fun t =>
    t.dramAsk { port := port.val, addr := addr.toNat, len := len.toNat, write := write, poison := poison,
                errs := errs })) s

/-- R291: a refresh becomes owed, and is issued at once but where a port in panic has a request and fewer
than 4 are owed. -/
def execRefreshDue (c : Fin 2) (hot : Bool) (s : State) : Out := run (fun s =>
  let p := pgDRAM c.val
  s.onlyIf (s.chanUp c) (fun t =>
    ((t.wrBit p DRC_REF_STAT_HOT hot).wr p DRC_REF_STAT_OWED (t.rd p DRC_REF_STAT_OWED + 1)).refreshStep c)) s

/-- The scrubber's next burst as a device address (R286, R295). -/
def scrubAddr (c : Fin 2) (i : Nat) : Nat := i / 2 * 256 + c.val * 128 + i % 2 * 64

/-- R295. -/
def execScrubRead (c : Fin 2) (errs : List BeatErr) (s : State) : Out := run (fun s =>
  let p := pgDRAM c.val
  s.onlyIf (s.chanUp c && s.levelOf .mem == 2 && s.bit p DRC_SCRUB_EN) (fun t =>
    let i := (t.chan c).scrub
    let t1 := (t.readErrs (scrubAddr c i) 64 errs true).1.add2 p DRC_BYTES_LO_N DRC_BYTES_HI_N 64
    if t.fitted ≤ scrubAddr c (i + 1) then
      (t1.updChan c (fun x => { x with scrub := 0 })).inc p DRC_SCRUB_PASS_N
    else t1.updChan c (fun x => { x with scrub := i + 1 }))) s

/-- The pause between slices in ns: 20 µs in a forced sweep, else `PERIOD_MS` (R296, R297). -/
def State.slicePeriod (s : State) (c : Fin 2) : Nat :=
  1000000 * max 1 (s.rd (pgDRAM c.val) DRC_SLICE_PERIOD_MS)

/-- R296–R298: a slice runs; in panic it waits, and is skipped once it has waited `PERIOD_MS`. -/
def execTrainingSlice (c : Fin 2) (eyes : Bool) (temp : BitVec 16) (s : State) : Out := run (fun s =>
  let p := pgDRAM c.val
  s.onlyIf (s.chanUp c && s.levelOf .mem == 2) (fun t =>
    let forced := t.rd p UNIT_STATUS_STATE == 3
    let due := (t.chan c).sliceAt + (if forced then 20000 else t.slicePeriod c)
    let skip := t.anyPanic
    let pos := t.rd p DRC_SLICE_STAT_POS
    let t1 := t.wr p DRC_CH_TEMP_TEMP temp.toNat
    if skip && decide (t.now < due + t.slicePeriod c) then t1
    else
      let t2 := t1.updChan c (fun x => { x with sliceAt := t.now })
      let t3 := if skip then t2.incSat p DRC_SLICE_STAT_SKIPPED else t2
      if pos < 639 then t3.wr p DRC_SLICE_STAT_POS (pos + 1)
      else (t3.wr p DRC_SLICE_STAT_POS 0).sweepEnd c eyes temp)) s

/-- R297. -/
def execForcedSweepTrigger (c : Fin 2) (s : State) : Out := run (fun s =>
  s.onlyIf (s.chanUp c) (fun t => t.forceSweep c)) s

/-- R288: once per panic. -/
def execPanicLong (p : Fin 5) (s : State) : Out := run (fun s =>
  let s1 := s.notePanic p
  s1.onlyIf (s1.portPanic p.val && !s1.drc.told.get p) (fun t =>
    ({ t with drc := { t.drc with told := t.drc.told.set p.val true } }).raise pgDRC 0)) s

/-! ### The host window -/

/-- R284, R285, R432. -/
def execHostWindowAccess (r : Req) (off : BitVec 28) (len : BitVec 13) (write : Option (List Byte))
    (poison : Bool) (errs : List SramErr) (s : State) : Out := run (fun s =>
  let a := s.rd pgDRC DRC_HOST_WIN_BASE * 2 ^ 28 + off.toNat
  s.onlyIf (s.served r) (fun t =>
    match write with
    | some bs => t.windowWrite r a (bs.take len.toNat) poison
    | none => (t.sramErrs a len.toNat errs).windowRead r a len.toNat)) s

/-- R290: a host write that the fabric holds has not reached its memory yet, and the read waits for it;
every other does so within its own command. -/
def execHostFenceRead (r : Req) (s : State) : Out := run (fun s =>
  s.readAccess r pgDRC (fun t =>
    if t.storesHeld then { t with drc := { t.drc with fences := t.drc.fences ++ [r] } }
    else t.emit (.readData r (t.word pgDRC 0x0AC)))) s

/-! ### The copy engine -/

/-- R301, R302, R306. -/
def execCopy (r : Req) (arg : BitVec 16) (s : State) : Out := run (fun s =>
  command r pgCPY 0x0001 arg true false
    (fun t =>
      let c := t.copyRegs
      let held := match (t.copyPlace c).page with
        | some p => (t.commitOf p).isSome
        | none => false
      [(t.drc.copy.isSome, rcBUSY), (t.copyBad c, rcBAD_ARG), (held, rcCOMMIT_HELD),
       (c.meets && c.srcStride != c.dstStride, rcOVERLAP_STRIDE)])
    (fun t =>
      ({ t with drc := { t.drc with copy := some t.copyRegs } }).setState pgCPY 2) s) s

/-- R303: the copy finishes, unless it waits for a bank that is SYNCING (R301), or SYS is not clocked. -/
def execCopyDone (errs : List SramErr) (s : State) : Out := run (fun s =>
  match s.drc.copy with
  | none => s
  | some c => s.onlyIf (s.runs .sys && !s.syncing (s.copyPlace c)) (fun t =>
      (t.copyErrs c errs).copyEnd c c.rows false)) s

/-- R303. -/
def execCopyCancel (r : Req) (arg : BitVec 16) (errs : List SramErr) (s : State) : Out := run (fun s =>
  command r pgCPY 0x0002 arg true false
    (fun t => [(t.drc.copy.isNone, rcWRONG_STATE)])
    (fun t =>
      match t.drc.copy with
      | none => t
      | some c =>
        let n := if t.syncing (t.copyPlace c) then 0 else Config.copyRows t.free % (c.rows.length + 1)
        (t.draw.copyErrs c errs).copyEnd c (c.rows.take n) true) s) s

/-! ### Channels -/

/-- R297, R305. -/
def execRetrain (r : Req) (c : Fin 2) (arg : BitVec 16) (s : State) : Out := run (fun s =>
  command r (pgDRAM c.val) 0x0001 arg true false
    (fun t => [(!t.chanLive c.val, rcWRONG_STATE)]) (fun t => t.forceSweep c) s) s

/-- R305. -/
def execClearErrs (r : Req) (c : Fin 2) (arg : BitVec 16) (s : State) : Out := run (fun s =>
  command r (pgDRAM c.val) 0x0002 arg true false (fun _ => [])
    (fun t => (t.wr (pgDRAM c.val) DRC_CE_N 0).wr (pgDRAM c.val) DRC_UE_N 0) s) s

/-- A channel goes into service: its geometry is read and it trains at idle (R304, R305). -/
def State.chanOn (s : State) (c : Fin 2) : State :=
  let p := pgDRAM c.val
  let g := (s.word pgDRC 0x040).toNat
  let s1 := s.updChan c (fun x => { x with geom := g })
  ((s1.wr p UNIT_CTRL_ENABLE 1).setState p 1).wr pgDRC DRC_SIZE_MIB (2 * geomMib g)

/-- Something uses DRAM, so that a channel may not leave service (R305). -/
def State.dramInUse (s : State) : Bool :=
  (List.range 4).any s.stmRunning || s.bit pgSDL UNIT_CTRL_ENABLE ||
    (List.range s.part.cams).any (fun k => s.bit (pgCAM k) UNIT_CTRL_ENABLE)

/-- A write of `ENABLE` of a channel's page (R305). -/
def State.chanSwitch (s : State) (r : Req) (c : Fin 2) (v : Bool) : State :=
  let p := pgDRAM c.val
  if v then (if s.bit p UNIT_CTRL_ENABLE then s else s.chanOn c)
  else if s.dramInUse then s.dropWrite r p 0x00C
  else ((s.wr p UNIT_CTRL_ENABLE 0).setState p 0).closeRows c

/-- R304, R305. -/
def execChannelEnable (r : Req) (c : Fin 2) (v : Bool) (s : State) : Out := run (fun s =>
  s.access r (pgDRAM c.val) 0x00C (fun t => t.chanSwitch r c v)) s

/-- R305. -/
def execChannelTrainDone (c : Fin 2) (ok : Bool) (temp : BitVec 16) (s : State) : Out := run (fun s =>
  let p := pgDRAM c.val
  s.onlyIf (s.rd p UNIT_STATUS_STATE == 1) (fun t =>
    let t1 := t.wr p DRC_CH_TEMP_TEMP temp.toNat
    if ok && geomOk (t.chan c).geom then (t1.setState p 2).updChan c (fun x => { x with sliceAt := t.now })
    else (t1.setState p 4).raise p 2)) s

end Sys2Proof.Machine
end

