-- ==== Sys2Proof/Machine/BistOps.lean ====
section
/-! DEFINITION. The slice map of the BIST controller and its rotation, and the spares of the SRAM
(R374–R378). -/

namespace Sys2Proof.Machine

def State.setBist (s : State) (g : Bist → Bist) : State := { s with bist := g s.bist }

/-- The port whose datapath a slice tests. -/
def slicePort (i : Nat) : Nat := if i < 4208 then 0 else 1

/-- The slice tests the ACTIVE port. -/
def State.sliceActive (s : State) (i : Nat) : Bool :=
  decide (4192 ≤ i) && s.activePort == some (slicePort i)

/-- The controller skips the slice (R374). -/
def State.sliceSkipped (s : State) (i : Nat) : Bool :=
  if i < 96 then !s.bit pgBST BST_CFG_KIOSKS || decide (s.part.kiosks ≤ i)
  else if i < 4192 then !s.bit pgBST BST_CFG_SRAM
  else !s.bit pgBST BST_CFG_PORT || s.sliceActive i

/-- The first slice from index `i` on that is not skipped. -/
def State.sliceFrom (s : State) (i : Nat) : Option Nat :=
  ((List.range (4224 - i)).map (· + i)).find? (fun j => !s.sliceSkipped j)

/-- A rotation completes. -/
def State.rotated (s : State) : State :=
  let s1 := (s.wr pgBST BST_ROT_LAST_MS ((s.now - s.bist.rotFrom) / 1000000)).incSat pgBST BST_ROT_COUNT_N
  ((s1.wr pgBST BST_STAT_LATE 0).wr pgBST BST_POS_NEXT ((s1.sliceFrom 0).getD 0)).setBist
    (fun b => { b with rotFrom := s.now })

/-- `NEXT` moves past slice `i`. -/
def State.slicePast (s : State) (i : Nat) : State :=
  match s.sliceFrom (i + 1) with
  | some j => s.wr pgBST BST_POS_NEXT j
  | none => s.rotated

/-- The running slice is over: `NEXT` moves past it, unless it is the one that SLICE_NOW named. -/
def State.sliceOver (s0 : State) (i : Nat) : State :=
  let s := s0.setBist (fun b => { b with slice := none })
  if s.bist.forced = some i then s.setBist (fun b => { b with forced := none }) else s.slicePast i

/-- A switch-over needs the port: its running slice stops, and does not count as failed (R378). -/
def State.stopPortSlice (s : State) (p : Nat) : State :=
  match s.bist.slice with
  | none => s
  | some i => if 4192 ≤ i ∧ slicePort i = p then s.sliceOver i else s

/-! ### Spares (R376) -/

/-- The spares of a bank of one kind: 4 columns or 8 rows. -/
def spareList (bank : Nat) (column : Bool) : List Repair :=
  (List.range (if column then 4 else 8)).map (fun i => { bank := bank, column := column, index := i })

/-- How many repairs the factory has fused. -/
def factoryRepairs : Nat :=
  (((List.range 64).flatMap (fun b => spareList b false ++ spareList b true)).filter
    (fun x => Config.spareFused x.bank x.column x.index)).length

/-- The first spare of a bank that is left, of the kind `column` before the other. -/
def State.spare (s : State) (bank : Nat) (column : Bool) : Option Repair :=
  (spareList bank column ++ spareList bank !column).find?
    (fun x => !Config.spareFused x.bank x.column x.index && !s.bist.fused.contains x &&
      !s.bist.repairs.contains x)

end Sys2Proof.Machine
end

