-- ==== Sys2Proof/Machine/Crypto.lean ====
section
/-! DEFINITION. The cryptography that the spec names by its standards: AES-256 with GCM and key wrap, SHA-384
with HKDF, ECDSA and ECDH on P-384 (R132, R393, R394, R410, R411; log 33). -/

namespace Sys2Proof.Machine

/-! ### AES-256 (FIPS 197) -/

/-- Times x in GF(2⁸). -/
def aesX (a : Byte) : Byte := (a <<< 1) ^^^ (if a.getLsbD 7 then 0x1B else 0)

/-- A product in GF(2⁸). -/
def aesMul (a b : Byte) : Byte :=
  ((List.range 8).foldl
    (fun (t : Byte × Byte) i => (if b.getLsbD i then t.1 ^^^ t.2 else t.1, aesX t.2)) (0, a)).1

/-- The inverse, as the 254th power. -/
def aesInv (a : Byte) : Byte :=
  let sq := fun (x : Byte) => aesMul x x
  let a2 := sq a
  let a4 := sq a2
  let a8 := sq a4
  let a16 := sq a8
  let a32 := sq a16
  let a64 := sq a32
  [a4, a8, a16, a32, a64, sq a64].foldl aesMul a2

def aesSub (a : Byte) : Byte :=
  let x := aesInv a
  [1, 2, 3, 4].foldl (fun t i => t ^^^ x.rotateLeft i) (x ^^^ 0x63)

/-- The byte whose substitute is `b`. -/
def aesUnsub (b : Byte) : Byte :=
  aesInv (b.rotateLeft 1 ^^^ b.rotateLeft 3 ^^^ b.rotateLeft 6 ^^^ 0x05)

def xorBytes (a b : List Byte) : List Byte := List.zipWith (· ^^^ ·) a b

/-- The key schedule: 60 words of 4 bytes, newest first while it grows. -/
def aesExpand : Nat → List (List Byte) → List (List Byte)
  | 0, ws => ws.reverse
  | n + 1, ws =>
    let i := ws.length
    let last := ws.head?.getD []
    let t :=
      if i % 8 = 0 then
        xorBytes ((last.drop 1 ++ last.take 1).map aesSub)
          [(List.range (i / 8 - 1)).foldl (fun x _ => aesX x) 1, 0, 0, 0]
      else if i % 8 = 4 then last.map aesSub
      else last
    aesExpand n (xorBytes t ((ws[7]?).getD []) :: ws)

/-- The 15 round keys of a key of 32 bytes. -/
def aesKeys (key : List Byte) : List (List Byte) :=
  let ws := aesExpand 52 ((List.range 8).map (fun i => (key.drop (4 * i)).take 4)).reverse
  (List.range 15).map (fun r => ((ws.drop (4 * r)).take 4).flatten)

/-- Byte `i` of a block, 0 beyond its end. -/
def blockAt (b : List Byte) (i : Nat) : Byte := (b[i]?).getD 0

/-- Rows shift left by their number, or right. -/
def aesShift (back : Bool) (b : List Byte) : List Byte :=
  (List.range 16).map (fun i =>
    let r := i % 4
    let c := i / 4
    blockAt b (r + 4 * ((if back then c + 4 - r else c + r) % 4)))

/-- Columns are multiplied by a circulant matrix whose first row is given. -/
def aesMix (row : List Byte) (b : List Byte) : List Byte :=
  (List.range 16).map (fun i =>
    let c := i / 4 * 4
    (List.range 4).foldl
      (fun t j => t ^^^ aesMul (blockAt row ((j + 4 - i % 4) % 4)) (blockAt b (c + j))) 0)

/-- Encrypt one block. -/
def aesBlock (keys : List (List Byte)) (b : List Byte) : List Byte :=
  let rk := fun r => (keys[r]?).getD []
  let mid := (List.range 13).foldl
    (fun t r => xorBytes (aesMix [2, 3, 1, 1] (aesShift false (t.map aesSub))) (rk (r + 1)))
    (xorBytes b (rk 0))
  xorBytes (aesShift false (mid.map aesSub)) (rk 14)

/-- Decrypt one block. -/
def aesUnblock (keys : List (List Byte)) (b : List Byte) : List Byte :=
  let rk := fun r => (keys[r]?).getD []
  let mid := (List.range 13).foldl
    (fun t r => aesMix [14, 11, 13, 9] (xorBytes ((aesShift true t).map aesUnsub) (rk (13 - r))))
    (xorBytes b (rk 14))
  xorBytes ((aesShift true mid).map aesUnsub) (rk 0)

/-! ### GCM (NIST SP 800-38D) -/

/-- `n` bytes of a number, highest first. -/
def beBytes (n v : Nat) : List Byte := (List.range n).map (fun i => BitVec.ofNat 8 (v / 256 ^ (n - 1 - i)))

/-- A number from its bytes, highest first. -/
def beNat (bs : List Byte) : Nat := bs.foldl (fun n b => 256 * n + b.toNat) 0

/-- A product in GF(2¹²⁸), bit 0 of the field leftmost. -/
def ghashMul (x y : BitVec 128) : BitVec 128 :=
  ((List.range 128).foldl
    (fun (t : BitVec 128 × BitVec 128) i =>
      (if x.getMsbD i then t.1 ^^^ t.2 else t.1,
       (t.2 >>> 1) ^^^ (if t.2.getLsbD 0 then BitVec.ofNat 128 (0xE1 * 2 ^ 120) else 0))) (0, y)).1

/-- Bytes in blocks of 16, the last padded with zeros. -/
def blocks16 (bs : List Byte) : List (List Byte) :=
  (List.range ((bs.length + 15) / 16)).map (fun i =>
    ((bs.drop (16 * i)).take 16 ++ List.replicate 16 0).take 16)

def ghash (h : BitVec 128) (bs : List (List Byte)) : BitVec 128 :=
  bs.foldl (fun y b => ghashMul (y ^^^ BitVec.ofNat 128 (beNat b)) h) 0

/-- The key stream applied to data, from counter block 2 on. -/
def gcmCtr (keys : List (List Byte)) (iv data : List Byte) : List Byte :=
  ((List.range ((data.length + 15) / 16)).flatMap (fun i =>
    xorBytes (aesBlock keys (iv ++ beBytes 4 (i + 2))) ((data.drop (16 * i)).take 16)))

/-- Open a message with a 96-bit IV; none where the tag fails (R132). -/
def gcmOpen (key iv aad data tag : List Byte) : Option (List Byte) :=
  let keys := aesKeys key
  let h := BitVec.ofNat 128 (beNat (aesBlock keys (List.replicate 16 0)))
  let sum := ghash h (blocks16 aad ++ blocks16 data ++
    [beBytes 8 (8 * aad.length) ++ beBytes 8 (8 * data.length)])
  let want := xorBytes (beBytes 16 sum.toNat) (aesBlock keys (iv ++ [0, 0, 0, 1]))
  if want == tag then some (gcmCtr keys iv data) else none

/-! ### Key wrap (NIST SP 800-38F) -/

/-- One step of the unwrapping: the register A and the blocks R, from step `t` down. -/
def kwStep (keys : List (List Byte)) (n : Nat) (a : List Byte × List (List Byte)) (t : Nat) :
    List Byte × List (List Byte) :=
  let i := (t - 1) % n
  let b := aesUnblock keys (xorBytes a.1 (beBytes 8 t) ++ (a.2[i]?).getD [])
  (b.take 8, a.2.set i (b.drop 8))

/-- Unwrap; none where the integrity check fails. -/
def kwOpen (key data : List Byte) : Option (List Byte) :=
  let keys := aesKeys key
  let n := data.length / 8 - 1
  let rs := (List.range n).map (fun i => (data.drop (8 * i + 8)).take 8)
  let out := ((List.range (6 * n)).reverse).foldl (fun a t => kwStep keys n a (t + 1)) (data.take 8, rs)
  if out.1 == List.replicate 8 0xA6 then some out.2.flatten else none

/-! ### SHA-384, HMAC and HKDF (FIPS 180-4, RFC 5869) -/

abbrev W64 := BitVec 64

/-- Round constants, part 1. -/
def shaK1 : List W64 :=
  [0x428A2F98D728AE22, 0x7137449123EF65CD, 0xB5C0FBCFEC4D3B2F,
   0xE9B5DBA58189DBBC, 0x3956C25BF348B538, 0x59F111F1B605D019,
   0x923F82A4AF194F9B, 0xAB1C5ED5DA6D8118, 0xD807AA98A3030242,
   0x12835B0145706FBE, 0x243185BE4EE4B28C, 0x550C7DC3D5FFB4E2,
   0x72BE5D74F27B896F, 0x80DEB1FE3B1696B1, 0x9BDC06A725C71235,
   0xC19BF174CF692694]

/-- Round constants, part 2. -/
def shaK2 : List W64 :=
  [0xE49B69C19EF14AD2, 0xEFBE4786384F25E3, 0x0FC19DC68B8CD5B5,
   0x240CA1CC77AC9C65, 0x2DE92C6F592B0275, 0x4A7484AA6EA6E483,
   0x5CB0A9DCBD41FBD4, 0x76F988DA831153B5, 0x983E5152EE66DFAB,
   0xA831C66D2DB43210, 0xB00327C898FB213F, 0xBF597FC7BEEF0EE4,
   0xC6E00BF33DA88FC2, 0xD5A79147930AA725, 0x06CA6351E003826F,
   0x142929670A0E6E70]

/-- Round constants, part 3. -/
def shaK3 : List W64 :=
  [0x27B70A8546D22FFC, 0x2E1B21385C26C926, 0x4D2C6DFC5AC42AED,
   0x53380D139D95B3DF, 0x650A73548BAF63DE, 0x766A0ABB3C77B2A8,
   0x81C2C92E47EDAEE6, 0x92722C851482353B, 0xA2BFE8A14CF10364,
   0xA81A664BBC423001, 0xC24B8B70D0F89791, 0xC76C51A30654BE30,
   0xD192E819D6EF5218, 0xD69906245565A910, 0xF40E35855771202A,
   0x106AA07032BBD1B8]

/-- Round constants, part 4. -/
def shaK4 : List W64 :=
  [0x19A4C116B8D2D0C8, 0x1E376C085141AB53, 0x2748774CDF8EEB99,
   0x34B0BCB5E19B48A8, 0x391C0CB3C5C95A63, 0x4ED8AA4AE3418ACB,
   0x5B9CCA4F7763E373, 0x682E6FF3D6B2B8A3, 0x748F82EE5DEFB2FC,
   0x78A5636F43172F60, 0x84C87814A1F0AB72, 0x8CC702081A6439EC,
   0x90BEFFFA23631E28, 0xA4506CEBDE82BDE9, 0xBEF9A3F7B2C67915,
   0xC67178F2E372532B]

/-- Round constants, part 5. -/
def shaK5 : List W64 :=
  [0xCA273ECEEA26619C, 0xD186B8C721C0C207, 0xEADA7DD6CDE0EB1E,
   0xF57D4F7FEE6ED178, 0x06F067AA72176FBA, 0x0A637DC5A2C898A6,
   0x113F9804BEF90DAE, 0x1B710B35131C471B, 0x28DB77F523047D84,
   0x32CAAB7B40C72493, 0x3C9EBE0A15C9BEBC, 0x431D67C49C100D4C,
   0x4CC5D4BECB3E42B6, 0x597F299CFC657E2A, 0x5FCB6FAB3AD6FAEC,
   0x6C44198C4A475817]

def shaK : List W64 := shaK1 ++ shaK2 ++ shaK3 ++ shaK4 ++ shaK5

def shaStart : List W64 :=
  [0xCBBB9D5DC1059ED8, 0x629A292A367CD507, 0x9159015A3070DD17,
   0x152FECD8F70E5939, 0x67332667FFC00B31, 0x8EB44A8768581511,
   0xDB0C2E0D64F98FA7, 0x47B5481DBEFA4FA4]

/-- The message schedule, newest first. -/
def shaExtend : Nat → List W64 → List W64
  | 0, ws => ws.reverse
  | n + 1, ws =>
    let w : Nat → W64 := fun i => (ws[i]?).getD 0
    let s0 := (w 14).rotateRight 1 ^^^ (w 14).rotateRight 8 ^^^ (w 14 >>> 7)
    let s1 := (w 1).rotateRight 19 ^^^ (w 1).rotateRight 61 ^^^ (w 1 >>> 6)
    shaExtend n ((w 15 + s0 + w 6 + s1) :: ws)

/-- One round, with its constant and its word of the schedule. -/
def shaRound (v : List W64) (kw : W64 × W64) : List W64 :=
  match v with
  | [a, b, c, d, e, f, g, h] =>
    let t1 := h + (e.rotateRight 14 ^^^ e.rotateRight 18 ^^^ e.rotateRight 41) +
      ((e &&& f) ^^^ (~~~e &&& g)) + kw.1 + kw.2
    let t2 := (a.rotateRight 28 ^^^ a.rotateRight 34 ^^^ a.rotateRight 39) +
      ((a &&& b) ^^^ (a &&& c) ^^^ (b &&& c))
    [t1 + t2, a, b, c, d + t1, e, f, g]
  | _ => v

def shaBlock (h : List W64) (b : List Byte) : List W64 :=
  let m := (List.range 16).map (fun i => BitVec.ofNat 64 (beNat ((b.drop (8 * i)).take 8)))
  List.zipWith (· + ·) h ((shaK.zip (shaExtend 64 m.reverse)).foldl shaRound h)

/-- A message with its padding. -/
def shaPad (bs : List Byte) : List Byte :=
  bs ++ [0x80] ++ List.replicate ((239 - bs.length % 128) % 128) 0 ++ beBytes 16 (8 * bs.length)

def sha384 (bs : List Byte) : List Byte :=
  let p := shaPad bs
  let h := (List.range (p.length / 128)).foldl (fun t i => shaBlock t ((p.drop (128 * i)).take 128)) shaStart
  (h.take 6).flatMap (fun w => beBytes 8 w.toNat)

/-- HMAC with a key of at most 128 bytes. -/
def hmac384 (key msg : List Byte) : List Byte :=
  let k := key ++ List.replicate (128 - key.length) 0
  sha384 (k.map (· ^^^ 0x5C) ++ sha384 (k.map (· ^^^ 0x36) ++ msg))

/-- The first block of HKDF's output. -/
def hkdf384 (salt ikm info : List Byte) : List Byte := hmac384 (hmac384 salt ikm) (info ++ [1])

/-! ### P-384 (FIPS 186-5, NIST SP 800-186) -/

def p384 : Nat := 2 ^ 384 - 2 ^ 128 - 2 ^ 96 + 2 ^ 32 - 1

def p384B : Nat :=
  0xB3312FA7E23EE7E4988E056BE3F82D19181D9C6EFE8141120314088F5013875AC656398D8A2ED19D2A85C8EDD3EC2AEF

/-- The order of the base point. -/
def p384N : Nat :=
  0xFFFFFFFFFFFFFFFFFFFFFFFFFFFFFFFFFFFFFFFFFFFFFFFFC7634D81F4372DDF581A0DB248B0A77AECEC196ACCC52973

/-- A point of the curve; none is the point at infinity. -/
abbrev Point := Option (Nat × Nat)

def p384G : Point :=
  some (0xAA87CA22BE8B05378EB1C71EF320AD746E1D3B628BA79B9859F741E082542A385502F25DBF55296C3A545E3872760AB7,
        0x3617DE4A96262C6F5D9E98BF9292DC29F8F41DBD289A147CE9DA3113B5F0B8C00A60B1CE1D7E819D7A431D7C90EA0E5F)

/-- `b` to a power of `n` bits, modulo `m`. -/
def powMod (b e m : Nat) : Nat → Nat
  | 0 => 1 % m
  | n + 1 =>
    let r := powMod (b * b % m) (e / 2) m n
    if e % 2 = 1 then b * r % m else r

/-- The inverse modulo a prime of 384 bits. -/
def invMod (a m : Nat) : Nat := powMod (a % m) (m - 2) m 384

def onCurve (x y : Nat) : Bool :=
  decide (x < p384) && decide (y < p384) && (y * y + 3 * x) % p384 == (x * x * x + p384B) % p384

/-- The third point of a line of slope `l`, mirrored. -/
def chord (l x1 y1 x2 : Nat) : Point :=
  let x := (l * l + 2 * p384 - x1 - x2) % p384
  some (x, (l * (x1 + p384 - x) + p384 - y1) % p384)

def Point.add (a b : Point) : Point :=
  match a, b with
  | none, q => q
  | q, none => q
  | some (x1, y1), some (x2, y2) =>
    if x1 = x2 then
      if (y1 + y2) % p384 = 0 then none
      else chord ((3 * x1 * x1 + p384 - 3) * invMod (2 * y1) p384 % p384) x1 y1 x2
    else chord ((y2 + p384 - y1) * invMod (x2 + p384 - x1) p384 % p384) x1 y1 x2

/-- A multiple of `n` bits. -/
def Point.mul (a : Point) (e : Nat) : Nat → Point
  | 0 => none
  | n + 1 =>
    let r := Point.mul (a.add a) (e / 2) n
    if e % 2 = 1 then a.add r else r

/-- An uncompressed point of 97 bytes, where it lies on the curve. -/
def readPoint (bs : List Byte) : Point :=
  let x := beNat ((bs.drop 1).take 48)
  let y := beNat ((bs.drop 49).take 48)
  if bs.head? == some 0x04 && onCurve x y then some (x, y) else none

/-- ECDSA: a signature of *r* and *s*, 48 bytes each, verifies on a digest under a public key. -/
def ecdsaOk (pub digest sig : List Byte) : Bool :=
  let r := beNat (sig.take 48)
  let s := beNat ((sig.drop 48).take 48)
  let inside := fun (v : Nat) => decide (0 < v) && decide (v < p384N)
  if !inside r || !inside s || (readPoint pub).isNone then false
  else
    let w := invMod s p384N
    let u1 := beNat digest * w % p384N
    let u2 := r * w % p384N
    match (p384G.mul u1 384).add ((readPoint pub).mul u2 384) with
    | none => false
    | some (x, _) => x % p384N == r

/-- The public key of a private number, as an uncompressed point of 97 bytes. -/
def pubBytes (d : Nat) : List Byte :=
  match p384G.mul d 384 with
  | none => List.replicate 97 0
  | some (x, y) => [0x04] ++ beBytes 48 x ++ beBytes 48 y

/-- The x-coordinate of a private number times a point, 48 bytes (ECDH). -/
def ecdhX (d : Nat) (a : Point) : List Byte :=
  match a.mul d 384 with
  | none => List.replicate 48 0
  | some (x, _) => beBytes 48 x

end Sys2Proof.Machine
end

