-- ==== Sys2Proof/Machine/NetFrames.lean ====
section
/-! DEFINITION. What the ports read in a frame's bytes: tags, addresses, the traffic that R309 tells
apart, and PTP messages with their correction (R308, R309, R317, R324, R325). -/

namespace Sys2Proof.Machine

/-! ### Fields of a frame, in network byte order -/

/-- The number in `n` bytes of a frame from `a` on. -/
def beAt (bs : List Byte) (a n : Nat) : Nat := beNat ((bs.drop a).take n)

/-- A frame with bytes from `a` on replaced. -/
def putAt (bs : List Byte) (a : Nat) (new : List Byte) : List Byte :=
  bs.take a ++ new ++ bs.drop (a + new.length)

/-- The type of an IEEE 802.1Q tag. -/
def isTag (t : Nat) : Bool := t == 0x8100 || t == 0x88A8

def frameTags (bs : List Byte) : Nat :=
  if !isTag (beAt bs 12 2) then 0 else if isTag (beAt bs 16 2) then 2 else 1

/-- Where a frame's content begins, behind its EtherType. -/
def bodyAt (bs : List Byte) : Nat := 14 + 4 * min 1 (frameTags bs)

def etherType (bs : List Byte) : Nat := beAt bs (bodyAt bs - 2) 2

def isV4 (bs : List Byte) : Bool := etherType bs == 0x0800 && beAt bs (bodyAt bs) 1 / 16 == 4

def isV6 (bs : List Byte) : Bool := etherType bs == 0x86DD && beAt bs (bodyAt bs) 1 / 16 == 6

/-- The protocol above IP and where its header begins, in a packet that is no later fragment. -/
def upperAt (bs : List Byte) : Option (Nat × Nat) :=
  let o := bodyAt bs
  if isV4 bs then
    if beAt bs (o + 6) 2 % 8192 = 0 then some (beAt bs (o + 9) 1, o + 4 * (beAt bs o 1 % 16)) else none
  else if isV6 bs then some (beAt bs (o + 6) 1, o + 40)
  else none

/-- Where a UDP header begins. -/
def udpAt (bs : List Byte) : Option Nat := ((upperAt bs).filter (fun u => u.1 == 17)).map Prod.snd

/-! ### Addresses (R309, R317) -/

/-- The device's MAC address; its first byte on the wire is bits [47:40] (log 88). -/
def State.netMac (s : State) : Nat := s.ac2 pgNETroot NET_MAC_LO_ADDR NET_MAC_HI_ADDR

def State.vniMac (s : State) : Nat := s.ac2 pgNETroot VNI_MAC_LO_ADDR VNI_MAC_HI_ADDR

def State.netV4 (s : State) : Nat := s.ac pgNETroot NET_IPV4_ADDR

def State.netV6 (s : State) : Nat :=
  ([0, 1, 2, 3].map (fun j => s.ac pgNETroot (NET_IPV6_ADDR j) * 2 ^ (32 * j))).sum

/-- Broadcast or multicast. -/
def toGroup (bs : List Byte) : Bool := beAt bs 0 1 % 2 == 1

/-- Addressed to the device's MAC; an address of zeros is absent. -/
def State.toDevice (s : State) (bs : List Byte) : Bool :=
  s.netMac != 0 && decide (6 ≤ bs.length) && beAt bs 0 6 == s.netMac

/-- Addressed to the virtual interface: its MAC, broadcast or multicast. -/
def State.toVni (s : State) (bs : List Byte) : Bool :=
  toGroup bs || (s.vniMac != 0 && decide (6 ≤ bs.length) && beAt bs 0 6 == s.vniMac)

/-- Sent to the device's IP address. -/
def State.toAddress (s : State) (bs : List Byte) : Bool :=
  let o := bodyAt bs
  (isV4 bs && s.netV4 != 0 && beAt bs (o + 16) 4 == s.netV4) ||
    (isV6 bs && s.netV6 != 0 && beAt bs (o + 24) 16 == s.netV6)

/-- PAUSE or priority flow control: MAC control frames (R308). -/
def isPause (bs : List Byte) : Bool := etherType bs == 0x8808

/-- An ARP request for the device's IPv4 address. -/
def State.isArp (s : State) (bs : List Byte) : Bool :=
  let o := bodyAt bs
  etherType bs == 0x0806 && beAt bs (o + 6) 2 == 1 && s.netV4 != 0 && beAt bs (o + 24) 4 == s.netV4

/-- A neighbour solicitation for the device's IPv6 address. -/
def State.isSolicit (s : State) (bs : List Byte) : Bool :=
  let o := bodyAt bs
  isV6 bs && beAt bs (o + 6) 1 == 58 && beAt bs (o + 7) 1 == 255 && beAt bs (o + 40) 1 == 135 &&
    s.netV6 != 0 && beAt bs (o + 48) 16 == s.netV6

/-- An ICMP or ICMPv6 echo request to one of the device's addresses. -/
def State.isEcho (s : State) (bs : List Byte) : Bool :=
  s.toAddress bs &&
    match upperAt bs with
    | some (1, a) => isV4 bs && beAt bs a 1 == 8
    | some (58, a) => isV6 bs && beAt bs a 1 == 128
    | _ => false

/-- A datagram of the tile transport: to the UDP port of a stream at one of the device's addresses. -/
def State.isTile (s : State) (bs : List Byte) : Bool :=
  s.toAddress bs &&
    match udpAt bs with
    | some u => ([0, 1, 2, 3] : List (Fin 4)).any (fun i =>
        s.rd (pgSTM i.val) STM_UDP_PORT == beAt bs (u + 2) 2)
    | none => false

/-- A wake frame: to the device's MAC or to broadcast, and its payload holds 6 bytes of 0xFF and 16
repetitions of the device's MAC (R327). -/
def State.isWake (s : State) (bs : List Byte) : Bool :=
  let mac := beBytes 6 s.netMac
  let pattern := List.replicate 6 0xFF ++ (List.replicate 16 mac).flatten
  let payload := bs.drop (bodyAt bs)
  s.netMac != 0 && (s.toDevice bs || bs.take 6 == List.replicate 6 0xFF) &&
    (List.range payload.length).any (fun i => (payload.drop i).take 102 == pattern)

/-- A tile datagram for the device, as its frame holds it: the destination port, the source's address and
port, and the bytes above UDP (R131, R309). -/
def State.tileIn (s : State) (bs : List Byte) : Option (Nat × List Byte × List Byte) :=
  if !s.toDevice bs || !s.isTile bs then none
  else
    let o := bodyAt bs
    let ip := if isV4 bs then (bs.drop (o + 12)).take 4 else (bs.drop (o + 8)).take 16
    (udpAt bs).map (fun u =>
      (beAt bs (u + 2) 2, ip ++ (bs.drop u).take 2, (bs.drop (u + 8)).take (beAt bs (u + 4) 2 - 8)))

/-- What the device answers to a frame on the active port (R309). -/
def State.answerTo (s : State) (bs : List Byte) : Option Answer :=
  let mine := s.toDevice bs
  if (mine || toGroup bs) && s.isArp bs then some .arp
  else if (mine || toGroup bs) && s.isSolicit bs then some .neighbour
  else if mine && s.isEcho bs then some .echo
  else none

/-! ### PTP messages (R324, R325) -/

/-- Where a PTP version 2 event message begins in a frame: over UDP port 319, or in its own
EtherType. -/
def ptpAt (bs : List Byte) : Option Nat :=
  let place :=
    if etherType bs = 0x88F7 then some (bodyAt bs)
    else ((udpAt bs).filter (fun u => beAt bs (u + 2) 2 == 319)).map (· + 8)
  place.filter (fun a =>
    decide (a + 34 ≤ bs.length) && decide (beAt bs a 1 % 16 ≤ 3) && beAt bs (a + 1) 1 % 16 == 2)

/-- The message's domain number, and its correctionField. -/
def ptpDomain (bs : List Byte) (a : Nat) : Nat := beAt bs (a + 4) 1

def ptpCorrection (bs : List Byte) (a : Nat) : BitVec 64 := BitVec.ofNat 64 (beAt bs (a + 8) 8)

/-- The sum of two 16-bit words in ones' complement. -/
def onesAdd (a b : Nat) : Nat := (a + b) % 65536 + (a + b) / 65536

/-- A nonzero UDP checksum after words of its datagram have changed. -/
def checksumUpdate (c : Nat) (old new : List Byte) : Nat :=
  let word := fun (l : List Byte) (i : Nat) => beAt l (2 * i) 2
  let x := (List.range (old.length / 2)).foldl
    (fun x i => onesAdd (onesAdd x (65535 - word old i)) (word new i)) (65535 - c)
  if 65535 - x = 0 then 65535 else 65535 - x

/-- A frame with another correctionField, and its UDP checksum updated. -/
def withCorrection (bs : List Byte) (a : Nat) (v : BitVec 64) : List Byte :=
  let new := beBytes 8 v.toNat
  let out := putAt bs (a + 8) new
  match udpAt bs with
  | none => out
  | some u =>
    let c := beAt bs (u + 6) 2
    if c = 0 then out
    else putAt out (u + 6) (beBytes 2 (checksumUpdate c ((bs.drop (a + 8)).take 8) new))

end Sys2Proof.Machine
end

