-- ==== Sys2Proof/Machine/NetOps.lean ====
section
/-! DEFINITION. Ports and paths, the virtual interface, time bases and the PCIe endpoint, as operations
that the commands share (R307–R334). -/

namespace Sys2Proof.Machine

/-! ### Ports and roles (R310–R315) -/

def State.port (s : State) (p : Fin 2) : Port := s.net.ports.get p

def State.updPort (s : State) (p : Fin 2) (g : Port → Port) : State :=
  { s with net := { s.net with ports := s.net.ports.set p.val (g (s.net.ports.get p)) } }

def State.portState (s : State) (p : Nat) : Nat := s.rd (pgNET p) UNIT_STATUS_STATE

/-- The port that holds the active role. -/
def State.activeIs (s : State) (p : Nat) : Bool :=
  !s.bit pgNETroot NET_PATH_STAT_NO_PATH && s.rd pgNETroot NET_PATH_STAT_ACTIVE == p

def otherPort (p : Fin 2) : Fin 2 := if p = 0 then 1 else 0

/-- The port named in `PRIMARY`. -/
def State.primary (s : State) : Fin 2 := if s.rd pgNETroot NET_PATH_CFG_PRIMARY = 0 then 0 else 1

/-- A port takes the active role; a slice that tests it stops (R378). -/
def State.becomeActive (s : State) (p : Fin 2) : State :=
  let s1 := (s.wr pgNETroot NET_PATH_STAT_ACTIVE p.val).wr pgNETroot NET_PATH_STAT_NO_PATH 0
  (((s1.incSat pgNETroot NET_SWITCHES_N).setState (pgNET p.val) 3).raise (pgNET p.val) 2).stopPortSlice p.val

/-- The announcements of a new active port (R312 step 3). -/
def State.announce (s : State) (p : Fin 2) : State :=
  let v4 := s.netV4 != 0
  let v6 := s.netV6 != 0
  (s.ownSent p.val (1 + b2n v4 + b2n v6)).emit (.announce p.val s.ownVlan v4 v6)

/-- Every open hole starts its waiting and its retries afresh (R312 step 5). -/
def State.restartHoles (s : State) : State :=
  [0, 1, 2, 3].foldl
    (fun t i => t.updStm i (fun x =>
      { x with holes := x.holes.map (fun h => { h with opened := s.now, asked := 0 }) })) s

/-- Steps 1 and 3–5 of R312 onto port `p`. -/
def State.takeOver (s : State) (p : Fin 2) : State :=
  let s1 := (s.becomeActive p).announce p
  ([0, 1, 2, 3].foldl (fun t i => t.sendAck i) s1).restartHoles

/-- What a port whose role goes elsewhere reads: OFF, DOWN or STANDBY as its `ENABLE`, link and PCS require
(R312, R332). -/
def State.idleState (s : State) (p : Fin 2) : Nat :=
  if !s.bit (pgNET p.val) UNIT_CTRL_ENABLE then 0
  else if s.bit (pgNET p.val) NET_STATUS_PCS_UP then 2 else 1

/-- The overlap after a return ends: the old port becomes STANDBY, or DOWN where its link has gone
(R314). -/
def State.endOverlap (s : State) : State :=
  if s.bit pgNETroot NET_PATH_STAT_OVERLAP then
    let old := otherPort (if s.rd pgNETroot NET_PATH_STAT_ACTIVE = 0 then 0 else 1)
    let s1 := s.wr pgNETroot NET_PATH_STAT_OVERLAP 0
    if s1.portState old.val = 3 then s1.setState (pgNET old.val) (s1.idleState old) else s1
  else s

/-- Make before break: the other port takes over, the old one accepts tiles for `OVERLAP_US` (R314). -/
def State.returnTo (s : State) (p : Fin 2) : State :=
  let s1 := ((s.endOverlap).takeOver p).wr pgNETroot NET_PATH_STAT_OVERLAP 1
  if s1.rd pgNETroot NET_PATH_CFG_OVERLAP_US = 0 then s1.endOverlap else s1

/-- The virtual interface's frames that stand in the active port's transmit queue, by the `CORR` bit of their
descriptors.  How many of those outstanding have been fetched is a free value (log 102). -/
def State.queuedFrames (s : State) : List Bool :=
  let v := s.net.vni
  if !s.bit pgNETroot VNI_CTRL_EN || v.fenced then []
  else
    let tail := s.rd pgNETroot VNI_TX_TAIL_TAIL % max v.txSize 1
    let out := (tail + v.txSize - s.rd pgNETroot VNI_TX_HEAD_HEAD) % max v.txSize 1
    (Config.txQueued s.free).take (min out 68)

/-- No frame is left to wait for: the role moves, where the target is STANDBY still (R314). -/
def State.moveRole (s : State) : State :=
  match s.net.move with
  | none => s
  | some m =>
    let s1 : State := { s with net := { s.net with move := none } }
    if s1.portState m.target.val ≠ 2 then s1
    else
      let s2 := s1.returnTo m.target
      if m.auto then { s2 with net := { s2.net with returnedAt := some s2.now } } else s2

/-- A return or a SWITCH begins: the frames queued on the old port are sent before the role changes
(R314, R315).  One under way goes on. -/
def State.startMove (s : State) (p : Fin 2) (auto : Bool) : State :=
  if s.net.move.isSome then s
  else
    let n := s.queuedFrames.length
    let s1 : State := { s.draw with net := { s.net with move := some { target := p, left := n, auto := auto } } }
    if n = 0 then s1.moveRole else s1

/-- A queued frame has left, or, with `all`, none is queued any more. -/
def State.frameLeft (s : State) (all : Bool) : State :=
  match s.net.move with
  | none => s
  | some m =>
    if all || decide (m.left ≤ 1) then s.moveRole
    else { s with net := { s.net with move := some { m with left := m.left - 1 } } }

/-- `NET_RETURN.S` as it acts: 0 as 1, above 640 as 640. -/
def State.returnS (s : State) : Nat := min (max (s.rd pgNETroot NET_RETURN_S) 1) 640

/-- The primary loses the active role within 1 s after a return: the wait doubles (R314). -/
def State.doubleWait (s : State) (lost : Fin 2) : State :=
  match s.net.returnedAt with
  | some t =>
    if lost = s.primary ∧ s.now < t + 1000000000 then
      ({ s with net := { s.net with doubled := true, returnedAt := none } }).wr pgNETroot
        NET_PATH_STAT_WAIT_S (min (2 * s.rd pgNETroot NET_PATH_STAT_WAIT_S) 640)
    else s
  | none => s

def causeNum : LossCause → Nat
  | .los => 1 | .pcs => 2 | .keepalive => 3 | .disabled => 4

/-- An index taken modulo a ring's size. -/
def ringIdx (n size : Nat) : Nat := n % max size 1

/-- A transmit descriptor completes (R318). -/
def State.txComplete (s : State) (flags : Nat) (err : Bool) : State :=
  let v := s.net.vni
  let head := s.rd pgNETroot VNI_TX_HEAD_HEAD
  let a := v.txAddr + BitVec.ofNat 64 (16 * head + 10)
  let s1 := s.emit (.hostWrite a [BitVec.ofNat 8 (flags % 2 + 2 + 4 * b2n err)])
  (s1.wr pgNETroot VNI_TX_HEAD_HEAD (ringIdx (head + 1) v.txSize)).signal 0 40

/-- Step 2 of R312: the virtual interface's frames that wait on the old port are discarded, and their
descriptors complete with `ERR`. -/
def State.discardQueued (s : State) (old : Fin 2) : State :=
  let s1 := s.draw.wr (pgNET old.val) NET_TXQ_FILL_BYTES 0
  s.queuedFrames.foldl (fun t corr => (t.txComplete (b2n corr) true).incSat pgNETroot VNI_DROPS_N) s1

/-- The active path is declared lost, and the standby port takes over (R311–R314); the wait doubles only
where the primary loses its role by it. -/
def State.losePath (s0 : State) (cause : LossCause) : State :=
  let s1 := s0.endOverlap
  let s : State := { s1 with net := { s1.net with move := none } }
  let p : Fin 2 := if s.rd pgNETroot NET_PATH_STAT_ACTIVE = 0 then 0 else 1
  let q := otherPort p
  let s2 := ((s.wr (pgNET p.val) NET_PATH_CAUSE (causeNum cause)).incSat (pgNET p.val)
    NET_PATH_LOSSES).raise (pgNET p.val) 1
  if s2.portState q.val = 2 then
    let s3 := (((s2.doubleWait p).setState (pgNET p.val) (s2.idleState p)).discardQueued p).takeOver q
    if cause = .keepalive then s3.wr pgNETroot NET_PATH_STAT_RIP_SILENT 1 else s3
  else s2.wr pgNETroot NET_PATH_STAT_NO_PATH 1

/-- A port that accepts tile datagrams: ACTIVE, or the old one during an overlap. -/
def State.tilePort (s : State) (p : Nat) : Bool := s.portState p == 3 && s.levelOf .net == 2

/-- A valid datagram of a running network stream proves the path (R138, R311, R313). -/
def State.provePath (s : State) (p : Fin 2) (i : Fin 4) : State :=
  let s1 := s.updPort p (fun x => { x with lastRx := some s.now })
  let s2 := { s1 with net := { s1.net with heard := s1.net.heard.set i.val true } }
  if s2.activeIs p.val then s2.wr pgNETroot NET_PATH_STAT_RIP_SILENT 0 else s2

/-- Count a bad packet and raise `RX_ERR` at the first after 1 ms without one (R326). -/
def State.badPacket (s : State) (p : Fin 2) (f : Fld) : State :=
  let quiet := match (s.port p).badAt with
    | none => true
    | some t => decide (t + 1000000 ≤ s.now)
  let s1 := (s.incSat (pgNET p.val) f).updPort p (fun x => { x with badAt := some s.now })
  if quiet then s1.raise (pgNET p.val) 3 else s1

/-- A port whose `ENABLE` goes to 1 (R307, R332). -/
def State.portOn (s : State) (p : Fin 2) : State :=
  let pg := pgNET p.val
  let mode := s.rd pg NET_PORT_CFG_MODE
  let want := if mode = 3 then 1 else 0
  let s1 := (s.wr pg UNIT_CTRL_ENABLE 1).updPort p (fun x => { x with mode := mode, upAt := none })
  let target := s.rd pgCLK (CLK_PLL_CFG_TARGET (12 + p.val))
  ((s1.setState pg (if target = want then 1 else 4)).laneClocks)

/-- Link and PCS of a port that is neither in service nor listening stop (R327, R332). -/
def State.linkFollow (s : State) (p : Fin 2) : State :=
  if s.bit (pgNET p.val) UNIT_CTRL_ENABLE || s.listening p.val then s
  else (s.wrBit (pgNET p.val) NET_STATUS_PCS_UP false).updPort p (fun x => { x with upAt := none })

/-- A port whose `ENABLE` goes to 0: an active one loses its role at once (R311), its queues are empty, and
one that listens keeps its link and PCS (R327). -/
def State.portOff (s : State) (p : Fin 2) : State :=
  let pg := pgNET p.val
  let s1 := s.wr pg UNIT_CTRL_ENABLE 0
  let s2 := if s1.activeIs p.val then s1.losePath .disabled else s1
  let s3 := ((s2.setState pg 0).wr pg NET_RXQ_FILL_BYTES 0).wr pg NET_TXQ_FILL_BYTES 0
  ((s3.linkFollow 0).linkFollow 1).laneClocks

/-! ### Tile datagrams (R131–R138) -/

/-- The stream that listens on a UDP port. -/
def State.streamOfPort (s : State) (udp : Nat) : Option (Fin 4) :=
  ([0, 1, 2, 3] : List (Fin 4)).find? (fun i => s.rd (pgSTM i.val) STM_UDP_PORT == udp)

/-- Count an envelope drop; each run of drops apart by 1 ms raises `ENVELOPE_ERR` once (R131). -/
def State.envelopeDrop (s : State) : State :=
  let fresh := match s.ing.envAt with
    | none => true
    | some t => decide (t + 1000000 ≤ s.now)
  let s1 := (s.incSat pgING ING_ENVELOPE_ERRS_N).updIng (fun x => { x with envAt := some s.now })
  if fresh then s1.raise pgING 2 else s1

/-- The envelope of a datagram is sound (R131). -/
def envelopeOk (i : Nat) (bs : List Byte) : Bool :=
  let at' := fun n => (bs[n]?).getD 0
  let type := leAt at' 3 1
  let len := leAt at' 6 2
  decide (24 ≤ bs.length) && leAt at' 0 2 == 0x5AC3 && leAt at' 2 1 == 1 &&
    (type == 1 || type == 2) && leAt at' 4 1 == i &&
    bs.length == (if type = 1 then 40 + len else 24 + len)

/-- Open an envelope: the key of its slot and the tag (R132); none where it must be dropped. -/
def State.openEnvelope (s : State) (i : Fin 4) (bs : List Byte) : Option (List Byte) :=
  let at' := fun n => (bs[n]?).getD 0
  let slot := leAt at' 5 1
  let len := bs.length - 40
  if 1 < slot then none
  else
    match (s.gth.keys.toList[2 * i.val + slot]?).getD none with
    | none => none
    | some k =>
      let sub := fun (a n : Nat) => (bs.drop a).take n
      gcmOpen k.key (k.salt ++ sub 12 4 ++ sub 8 4) (sub 0 24) (sub 24 len) (sub (24 + len) 16)

/-- A fragment has been authenticated with the key of its slot (R410). -/
def State.keyUsed (s : State) (i : Fin 4) (bs : List Byte) : State :=
  let n := 2 * i.val + ((bs[5]?).getD 0).toNat
  if h : n < 8 then { s with gth := { s.gth with usedAt := s.gth.usedAt.set n (some s.now) } } else s

/-- A fragment whose tag fails, or that names an empty slot, is dropped (R132). -/
def State.authFail (s : State) (i : Fin 4) : State :=
  (s.incSat (pgSTM i.val) STM_AUTH_FAILS_N).raise (pgSTM i.val) 0

/-- A fragment that has been authenticated is accepted, or dropped (R134), and a tile that it
completes is staged (R139). -/
def State.takeFragment (s : State) (i : Fin 4) (src bs payload : List Byte) : State :=
  let p := pgSTM i.val
  let at' := fun n => (bs[n]?).getD 0
  let seq : BitVec 32 := BitVec.ofNat 32 (leAt at' 8 4)
  let tile : BitVec 32 := BitVec.ofNat 32 (leAt at' 16 4)
  let frag := leAt at' 20 2
  let s1 := s.updStm i (fun x =>
    if x.started then { x with peer := src }
    else { x with peer := src, started := true, highest := seq - 1 })
  let x := s1.stmOf i
  let known := !seqAfter seq x.highest && !x.holes.any (fun h => h.has seq)
  if !seqAfter seq x.cum || known || decide (x.free < payload.length) then
    (s1.showCum i).incSat p STM_DROPS_N
  else
    let f : Frag := { seq := seq, tileId := tile, index := frag % 32768, last := decide (32768 ≤ frag),
                      keyId := leAt at' 5 1, payload := payload }
    let s2 := s1.updStm i (fun y =>
      let z := y.openHole s.now seq true
      { z with frags := z.frags ++ [f], epoch := BitVec.ofNat 32 (leAt at' 12 4),
               used := z.used + payload.length, sinceAck := z.sinceAck + 1 })
    let start := seq - BitVec.ofNat 32 f.index
    let s3 :=
      match (s2.stmOf i).gather tile ((s2.stmOf i).frags.length + 1) 0 start with
      | some fs =>
        let s4 := s2.updStm i (fun y => { y with frags := y.frags.filter (fun g => !fs.contains g) })
        let key := if fs.all (fun g => g.keyId == f.keyId) then f.keyId else 256
        (s4.stageTile i (fs.flatMap Frag.payload) key).1
      | none => s2.updStm i Stream.prune
    let s5 := (s3.showCum i).showStaging i
    if 64 ≤ (s5.stmOf i).sinceAck then
      (s5.sendAck i).updStm i (fun y => { y with sinceAck := 0 })
    else s5

/-- A datagram of the tile transport arrives on a port (R131–R139).  One for a stream that does not run, or
that another source feeds, is dropped and counted nowhere, and a keepalive before the stream's first fragment
opens no hole (DESIGN CHOICE, log 98). -/
def State.datagramIn (s : State) (p : Fin 2) (udp : Nat) (src bs : List Byte) : State :=
  if !s.tilePort p.val || !s.printRuns then s
  else if s.follyOn (pgNET p.val) 3 then s.inject (pgNET p.val)
  else
    match s.streamOfPort udp with
    | none => s
    | some i =>
      if !envelopeOk i.val bs then s.envelopeDrop
      else if s.stmState i.val = 3 then s.incSat (pgSTM i.val) STM_DROPS_N
      else if !s.stmRunning i.val || (s.stmOf i).src != 0 then s
      else
        let s1 := s.provePath p i
        let at' := fun n => (bs[n]?).getD 0
        if leAt at' 3 1 = 2 then
          if (s1.stmOf i).started then
            s1.updStm i (fun x => x.openHole s.now (BitVec.ofNat 32 (leAt at' 8 4)) false)
          else s1
        else
          s1.atFolly (pgSTM i.val) 1 (fun t => t.authFail i) (fun t =>
            match t.openEnvelope i bs with
            | none => t.authFail i
            | some payload => (t.keyUsed i bs).takeFragment i src bs payload)

/-! ### The virtual interface (R317–R319, R325) -/

def State.updVni (s : State) (g : Vni → Vni) : State :=
  { s with net := { s.net with vni := g s.net.vni } }

/-- Read the ring registers (R317). -/
def State.vniRead (s : State) : State :=
  s.updVni (fun _ =>
    { txAddr := BitVec.ofNat 64 (s.rd2 pgNETroot VNI_TX_RING_LO_ADDR VNI_TX_RING_HI_ADDR),
      txSize := s.rd pgNETroot VNI_TX_SIZE_N,
      rxAddr := BitVec.ofNat 64 (s.rd2 pgNETroot VNI_RX_RING_LO_ADDR VNI_RX_RING_HI_ADDR),
      rxSize := s.rd pgNETroot VNI_RX_SIZE_N, fenced := false })

/-- The time base a PTP message belongs to (R324). -/
def State.tbOf (s : State) (domain : Nat) : Option (Fin 4) :=
  ([0, 1, 2, 3] : List (Fin 4)).find? (fun i =>
    s.bit (pgTB i.val) UNIT_CTRL_ENABLE && s.rd (pgTB i.val) TB_CFG_DOMAIN == domain)

/-- A timestamp taken `age` ns ago against the message's time base, or TB0 where none matches (R323,
R324). -/
def State.stampOf (s : State) (domain age : Nat) : Word :=
  s.word (pgTB ((s.tbOf domain).getD 0).val) TB_NS_NS.off - BitVec.ofNat 32 age

/-- The receive ring takes a frame: it is not too long, and a descriptor is free (R317). -/
def State.vniRoom (s : State) (bs : List Byte) : Bool :=
  decide (bs.length ≤ 1522) &&
    s.rd pgNETroot VNI_RX_HEAD_HEAD != ringIdx (s.rd pgNETroot VNI_RX_TAIL_TAIL) s.net.vni.rxSize

/-- The receive descriptor that the next frame takes. -/
def State.rxDesc (s : State) : BitVec 64 :=
  s.net.vni.rxAddr + BitVec.ofNat 64 (16 * s.rd pgNETroot VNI_RX_HEAD_HEAD)

/-- Deliver a received frame to the receive ring, or drop it (R317, R319). -/
def State.vniDeliver (s : State) (bs : List Byte) (age rxLat : Nat) : State :=
  let v := s.net.vni
  if !s.bit pgNETroot VNI_CTRL_EN || v.fenced then s
  else if !s.vniRoom bs then s.incSat pgNETroot VNI_DROPS_N
  else
    let mark := match ptpAt bs with
      | none => (1, 0)
      | some a =>
        let d := ptpDomain bs a
        let ts := (s.stampOf d (age + rxLat)).toNat
        match s.tbOf d with
        | some i => (3 + 4 * i.val, ts)
        | none => (3 + 16, ts)
    let tail := leBytes 2 bs.length ++ [BitVec.ofNat 8 mark.1, 0] ++ leBytes 4 mark.2
    let s1 := (s.emit (.vniRx s.rxDesc bs)).emit (.hostWrite (s.rxDesc + 8) tail)
    (s1.wr pgNETroot VNI_RX_HEAD_HEAD
      (ringIdx (s.rd pgNETroot VNI_RX_HEAD_HEAD + 1) v.rxSize)).signal 0 41

/-- A frame found bad after its delivery had begun: its bytes have gone to the host's buffer, and the
descriptor is not completed (R319, R326). -/
def State.vniBroken (s : State) (bs : List Byte) : State :=
  if s.bit pgNETroot VNI_CTRL_EN && !s.net.vni.fenced && s.toVni bs && s.vniRoom bs then
    s.emit (.vniRx s.rxDesc bs)
  else s

/-- The frame with the residence added to its correctionField, or none where it must not go (R325). -/
def State.oneStep (s : State) (frame : List Byte) (tRef age latency : Nat) : Option (List Byte) :=
  match ptpAt frame with
  | none => none
  | some a =>
    let d := ptpDomain frame a
    match s.tbOf d with
    | none => none
    | some _ =>
      let egress := s.stampOf d age + BitVec.ofNat 32 latency
      let res := (egress - BitVec.ofNat 32 tRef).toNat
      let sum : Int := (ptpCorrection frame a).toInt + res * 65536
      if s.rd pgPTP PTP_MAX_RES_NS < res ∨ 2 ^ 63 ≤ sum then none
      else some (withCorrection frame a (BitVec.ofInt 64 sum))

/-- A frame leaves the active port (R318, R326). -/
def State.sendFrame (s : State) (p : Fin 2) (frame : List Byte) (parity : Bool) : State :=
  let padded := frame ++ List.replicate (60 - frame.length) 0
  let s1 := s.emit (.frame p.val padded parity)
  if parity then s1.badPacket p NET_TX_BAD_N
  else s1.ownSent p.val 1

/-- RS-FEC's counts, in the modes that have it (R307, R332). -/
def State.fecCount (s : State) (p : Fin 2) (f : RxFrame) : State :=
  let pg := pgNET p.val
  if (s.port p).mode = 3 then s
  else (s.addSat pg NET_FEC_CORR_N f.fecCorr.toNat).addSat pg NET_FEC_UNCORR_N f.fecUncorr.toNat

/-! ### Error reporting of the endpoint (R328) -/

/-- The function that reads a stream's host ring: its VF where that exists (R157, R329). -/
def State.ringFn (s : State) (i : Fin 4) : Fin 5 := if i.val < s.rd pgPCIE PCIE_VF_NUM_VFS then i.succ else 0

/-- A function records an uncorrectable error: 12 a poisoned TLP received, 14 a completion timeout (PRESUMED,
PCI Express, log 101). -/
def State.noteError (s : State) (fn : Fin 5) (b : Nat) : State :=
  let x := s.pcie.aer.get fn
  { s with pcie := { s.pcie with aer := s.pcie.aer.set fn { x with uncor := x.uncor ||| (1#32 <<< b) } } }

/-! ### Time bases (R320–R322) -/

def State.updTb (s : State) (i : Fin 4) (g : TimeBase → TimeBase) : State :=
  { s with tb := s.tb.set i.val (g (s.tb.get i)) }

/-- What a 4 ns tick adds, in 2⁻³² ns (R320). -/
def State.tbStep (s : State) (i : Nat) : Nat :=
  let r := max (-4294967) (min (s.rdS (pgTB i) TB_RATE_RATE) 4294967)
  (4 * 2 ^ 32 + 4 * r).toNat

/-- A pass of a count through 2³²: the wrap bits, their event, and TB0's wrap count (R322). -/
def State.tbPass (s : State) (i : Fin 4) (forward : Bool) : State :=
  let s1 := if i = 0 then
      s.updTb 0 (fun x => { x with wraps := if forward then x.wraps + 1 else x.wraps - 1 }) else s
  let f := if forward then PTP_WRAP_STAT_WRAP else PTP_WRAP_STAT_UNWRAP
  (s1.wr pgPTP f (s1.rd pgPTP f ||| 2 ^ i.val)).raise pgPTP 0

/-- Set a count of whole ns and 2⁻³² ns. -/
def State.tbPut (s : State) (i : Fin 4) (c : Nat) : State :=
  (s.wr (pgTB i.val) TB_NS_NS (c / 2 ^ 32)).updTb i (fun x => { x with frac := c % 2 ^ 32 })

def State.tbCount (s : State) (i : Fin 4) : Nat :=
  s.rd (pgTB i.val) TB_NS_NS * 2 ^ 32 + (s.tb.get i).frac

/-- The time base counts: enabled, and NET at level 2. -/
def State.tbRuns (s : State) (i : Nat) : Bool :=
  s.bit (pgTB i) UNIT_CTRL_ENABLE && s.levelOf .net == 2

/-- Add `n` 4 ns ticks to a count, fewer than one period. -/
def State.tbAdvance (s : State) (i : Fin 4) (n : Nat) : State :=
  let c := s.tbCount i + n * s.tbStep i.val
  if c < 2 ^ 64 then s.tbPut i c else (s.tbPut i (c - 2 ^ 64)).tbPass i true

/-- One 2 ns Sundial tick: every second one is a tick of the PTP domain. -/
def State.tbTick (s : State) (i : Fin 4) : State :=
  if !s.tbRuns i.val then s
  else
    let half := (s.tb.get i).half
    let s1 := s.updTb i (fun x => { x with half := !half })
    if half then s1.tbAdvance i 1 else s1

end Sys2Proof.Machine
end

