-- ==== Sys2Proof/Machine/Network.lean ====
section
/-! DEFINITION. Commands and events of the network ports, the virtual interface, the time bases and
the PCIe endpoint (R307–R334). -/

namespace Sys2Proof.Machine

def State.netUp (s : State) : Bool := s.levelOf .net == 2

/-- A port whose link and PCS are up: STANDBY, or the old one that kept its role (R312). -/
def State.portUp (s : State) (p : Fin 2) : Bool :=
  s.portState p.val == 2 || (s.portState p.val == 3 && s.bit (pgNET p.val) NET_STATUS_PCS_UP)

/-- A port takes the role that no port has; an old one that kept it loses it. -/
def State.pickPort (s : State) (q : Fin 2) : State :=
  let o := otherPort q
  let t := s.becomeActive q
  if t.portState o.val = 3 then
    t.setState (pgNET o.val) (t.idleState o)
  else t

/-- R310: with no port active, a port whose link and PCS are up becomes ACTIVE. -/
def execPathCheck (s : State) : Out := run (fun s =>
  let up := s.portUp
  let q := s.primary
  s.onlyIf (s.netUp && s.bit pgNETroot NET_PATH_STAT_NO_PATH) (fun t =>
    if up q then t.pickPort q
    else if up (otherPort q) then t.pickPort (otherPort q) else t)) s

/-- R311–R313: the keepalive timer runs only while a running network stream has been heard, and not
while `RIP_SILENT` reads 1. -/
def execPathLoss (cause : LossCause) (s : State) : Out := run (fun s =>
  let heard := ([0, 1, 2, 3] : List (Fin 4)).any (fun i =>
    s.stmRunning i.val && (s.stmOf i).src == 0 && s.net.heard.get i)
  let may := match cause with
    | .keepalive => heard && !s.bit pgNETroot NET_PATH_STAT_RIP_SILENT
    | .disabled => !s.bit (pgNET (s.rd pgNETroot NET_PATH_STAT_ACTIVE)) UNIT_CTRL_ENABLE
    | _ => true
  s.onlyIf (s.netUp && !s.bit pgNETroot NET_PATH_STAT_NO_PATH && may) (fun t => t.losePath cause)) s

/-- R314. -/
def execAutoReturn (s : State) : Out := run (fun s =>
  let q := s.primary
  s.onlyIf (s.netUp && s.bit pgNETroot NET_PATH_CFG_AUTO_RETURN && s.portState q.val == 2 &&
      s.activeIs (otherPort q).val) (fun t => t.startMove q true)) s

def execOverlapEnd (s : State) : Out := run (fun s => s.onlyIf s.netUp State.endOverlap) s

/-- R314: the primary has stayed ACTIVE for 60 s. -/
def execReturnWaitReset (s : State) : Out := run (fun s =>
  s.onlyIf (s.netUp && s.activeIs s.primary.val) (fun t =>
    ({ t with net := { t.net with doubled := false } }).wr pgNETroot NET_PATH_STAT_WAIT_S t.returnS)) s

/-- R315. -/
def execSwitch (r : Req) (arg : BitVec 16) (s : State) : Out := run (fun s =>
  command r pgNETroot 0x0001 arg true false
    (fun t =>
      let p : Fin 2 := if t.rd pgNETroot NET_PATH_STAT_ACTIVE = 0 then 0 else 1
      [(t.bit pgNETroot NET_PATH_STAT_NO_PATH || t.portState (otherPort p).val != 2, rcWRONG_STATE)])
    (fun t =>
      let p : Fin 2 := if t.rd pgNETroot NET_PATH_STAT_ACTIVE = 0 then 0 else 1
      t.startMove (otherPort p) false) s) s

/-- R331. -/
def execVniReset (r : Req) (arg : BitVec 16) (s : State) : Out := run (fun s =>
  command r pgNETroot 0x0002 arg true false
    (fun t => [(!t.bit pgNETroot VNI_CTRL_EN, rcWRONG_STATE)])
    (fun t => ((((t.frameLeft true).vniRead).wr pgNETroot VNI_TX_HEAD_HEAD 0).wr pgNETroot VNI_RX_HEAD_HEAD 0)) s) s

/-- A listening port has received a good frame: a match in Retain or Patrol wakes the device, in Run or Hold
it sets `SEEN`; no other traffic is accepted (R327). -/
def State.listen (s : State) (p : Nat) (bs : List Byte) : State :=
  s.onlyIf (s.listening p && s.levelOf .net != 0 && s.bit (pgNET p) NET_STATUS_PCS_UP && s.isWake bs) (fun t =>
    if t.asleep then (t.wr pgPWR PWR_WAKE_CAUSE_WAKE_FRAME 1).wake else t.wr pgNETroot NET_WAKE_SEEN 1)

/-- A good frame on the active port, or on the old one in an overlap: stamped, given to the virtual interface
and to ingest, answered or dropped (R309, R317, R324). -/
def State.frameIn (s : State) (p : Fin 2) (f : RxFrame) : State :=
  let pg := pgNET p.val
  let bs := f.bytes
  let s1 := if (ptpAt bs).isSome then s.incSat pgPTP PTP_STAMPED_N else s
  let s2 := if s1.toVni bs then s1.vniDeliver bs f.age.toNat (s1.rd pg NET_TS_LAT_RX_NS) else s1
  match s2.tileIn bs with
  | some (udp, src, dg) => s2.datagramIn p udp src dg
  | none =>
    if !s2.activeIs p.val then s2
    else
      match s2.answerTo bs with
      | some k => (s2.ownSent p.val 1).emit (.answer p.val s2.ownVlan k bs)
      | none => if s2.toDevice bs then s2.incSat pg NET_RX_ERRS_OTHER else s2

/-- A frame on a port that is STANDBY or ACTIVE, behind its queue: one found bad before it becomes visible is
rewound, a good one is taken, and those before it have been, so that `NET_RXQ_FILL` falls (R308, R326).  Folly
2 spoils `PARAM` frames in an occasion. -/
def State.queueIn (s : State) (p : Fin 2) (f : RxFrame) : State :=
  let pg := pgNET p.val
  let spoilt := s.follyOn pg 2
  let v := if spoilt then s.injectPart pg else s
  match (if spoilt then some 0 else f.badAt.map BitVec.toNat) with
  | some i =>
    let w := v.badPacket p NET_RX_ERRS_BAD
    if s.portState p.val = 3 ∧ max 256 (w.rd pg NET_CUT_THRU_BYTES) ≤ i then
      (w.wr pg NET_RXQ_FILL_BYTES 0).vniBroken f.bytes
    else w.wr pg NET_RXQ_FILL_BYTES f.fill.toNat
  | none =>
    let u := v.wr pg NET_RXQ_FILL_BYTES 0
    if 2 ≤ frameTags f.bytes then u
    else
      let w := u.add2 pg NET_RX_FRAMES_LO_N NET_RX_FRAMES_HI_N 1
      if s.portState p.val ≠ 3 ∨ isPause f.bytes then w else w.frameIn p f

/-- R308, R309, R317, R319, R323, R324, R326, R327: a frame on a port that is STANDBY, ACTIVE or
listening. -/
def execNetFrameRx (p : Fin 2) (f : RxFrame) (s : State) : Out := run (fun s =>
  let pg := pgNET p.val
  let len := f.bytes.length + 4
  if s.listening p.val then s.onlyIf f.badAt.isNone (fun t => t.listen p.val f.bytes)
  else
    s.onlyIf (s.netUp && (s.portState p.val == 2 || s.portState p.val == 3) && decide (len ≤ 9216)) (fun t0 =>
      let t := t0.fecCount p f
      if 2 ^ 20 < f.fill.toNat + len then
        (t.wr pg NET_RXQ_FILL_BYTES f.fill.toNat).incSat pg NET_RX_OVF_N
      else t.queueIn p f)) s

/-- R318: a write of the doorbell. -/
def execVniTxDoorbell (r : Req) (tail : BitVec 16) (s : State) : Out := run (fun s =>
  s.access r pgNETroot 0x09C (fun t => t.wr pgNETroot VNI_TX_TAIL_TAIL tail.toNat)) s

/-- R318, R325, R326: the next transmit descriptor, with the frame it names; `NET_TXQ_FILL` shows what waits
behind it, and a role that waited for the queue may move (R314). -/
def execVniTxDone (desc frame : List Byte) (parity : Bool) (age : BitVec 16) (fill : BitVec 13)
    (s : State) : Out := run (fun s =>
  let v := s.net.vni
  let head := s.rd pgNETroot VNI_TX_HEAD_HEAD
  let at' := fun n => (desc[n]?).getD 0
  let flags := leAt at' 10 1
  let len := leAt at' 8 2
  s.onlyIf (s.netUp && s.bit pgNETroot VNI_CTRL_EN && !v.fenced &&
      head != ringIdx (s.rd pgNETroot VNI_TX_TAIL_TAIL) v.txSize) (fun t0 => (fun t : State => t.frameLeft false) <|
    match t0.activePort with
    | none => t0.txComplete flags true
    | some a =>
      let p : Fin 2 := if a = 0 then 0 else 1
      let t := t0.wr (pgNET p.val) NET_TXQ_FILL_BYTES fill.toNat
      if len < 14 ∨ 1522 < len then t.txComplete flags true
      else if flags % 2 = 0 then (t.sendFrame p (frame.take len) parity).txComplete flags false
      else
        match t.oneStep (frame.take len) (leAt at' 12 4) age.toNat (t.rd (pgNET a) NET_TS_LAT_TX_NS) with
        | none => ((t.incSat pgPTP PTP_CORR_SKIPS_N).raise pgPTP 1).txComplete flags true
        | some out => ((t.sendFrame p out parity).incSat pgPTP PTP_CORRECTED_N).txComplete flags false)) s

/-- R307, R332: `ENABLE` of a port goes to 1. -/
def execNetPortEnable (r : Req) (p : Fin 2) (s : State) : Out := run (fun s =>
  s.access r (pgNET p.val) 0x00C (fun t =>
    if t.bit (pgNET p.val) UNIT_CTRL_ENABLE then t else t.revote (fun u => u.portOn p))) s

/-- R327, R332: link and PCS come up, of a port in service or of the one that listens. -/
def execPortLinkUp (p : Fin 2) (s : State) : Out := run (fun s =>
  let pg := pgNET p.val
  let inUse := s.netUp && s.bit pg UNIT_CTRL_ENABLE && s.portState p.val != 4
  let hears := s.listening p.val && s.levelOf .net != 0
  s.onlyIf ((inUse || hears) && s.pllLocked (12 + p.val) && !s.follyOn pg 1) (fun t =>
    let t1 := (t.wrBit pg NET_STATUS_PCS_UP true).wrBit pg NET_STATUS_LOS_NOW false
    let t2 := t1.updPort p (fun x => { x with upAt := some t.now })
    if t2.portState p.val = 1 then t2.setState pg 2 else t2)) s

/-- Link or PCS lock of an enabled port is lost, in either role; the active one keeps its role until the
loss is declared (R311, R332). -/
def State.portDark (s : State) (p : Fin 2) (los : Bool) : State :=
  let pg := pgNET p.val
  s.onlyIf ((s.netUp || (s.listening p.val && s.levelOf .net != 0)) && s.bit pg NET_STATUS_PCS_UP) (fun t =>
    let t1 := (t.wrBit pg NET_STATUS_PCS_UP false).wrBit pg NET_STATUS_LOS_NOW los
    let t2 := (t1.updPort p (fun x => { x with upAt := none })).incSat pg NET_LINK_DOWNS
    (if t2.portState p.val = 2 then t2.setState pg 1 else t2).raise pg 0)

/-- R332. -/
def execPortLinkDown (p : Fin 2) (los : Bool) (s : State) : Out := run (fun s => s.portDark p los) s

/-- R327. -/
def execWakeFrameMatch (frame : List Byte) (s : State) : Out :=
  run (fun s => s.listen (s.rd pgNETroot NET_WAKE_PORT) frame) s

/-- R382: a message for events that became pending, on the PF's vector. -/
def execMsixMessage (v : Fin 40) (s : State) : Out := run (fun s =>
  s.onlyIf (s.pcie.due.contains v.val && !s.vecMasked 0 v.val && s.mayMessage 0) (fun t =>
    ({ t with pcie := { t.pcie with due := t.pcie.due.filter (· != v.val) } } : State).message 0 v.val)) s

/-- R322: the count of an enabled time base runs on through 2³² (log 48). -/
def execTbWrap (i : Fin 4) (s : State) : Out := run (fun s =>
  let left := 2 ^ 64 - s.tbCount i
  let step := s.tbStep i.val
  s.onlyIf (s.tbRuns i.val) (fun t => t.tbAdvance i ((left + step - 1) / step))) s

/-- R321, R322: the signed step in one tick. -/
def execTbStep (r : Req) (i : Fin 4) (arg : BitVec 16) (s : State) : Out := run (fun s =>
  let pg := pgTB i.val
  command r pg 0x0001 arg true false (fun _ => [])
    (fun t =>
      let c : Int := (t.rd pg TB_NS_NS : Int) + t.rdS pg TB_STEP_NS
      let t1 := (t.wr pg TB_NS_NS (unsint 32 c)).wr pg TB_STATUS_STALE 0
      if 2 ^ 32 ≤ c then t1.tbPass i true else if c < 0 then t1.tbPass i false else t1) s) s

/-- R321: SET also while disabled; it sets no wrap bit. -/
def execTbSet (r : Req) (i : Fin 4) (arg : BitVec 16) (s : State) : Out := run (fun s =>
  let pg := pgTB i.val
  command r pg 0x0002 arg true true (fun _ => [])
    (fun t => (t.tbPut i (t.rd pg TB_SET_NS * 2 ^ 32)).wr pg TB_STATUS_STALE 0) s) s

/-- R334. -/
def execPcieRecovery (s : State) : Out := run (fun s =>
  s.onlyIf (s.bit pgPCIE PCIE_LINK_UP) (fun t =>
    (t.incSat pgPCIE PCIE_RECOVERIES_N).raise pgPCIE 0)) s

/-- R73, R328, R334: training to 2.5–16 GT/s and ×1, ×2 or ×4, which PERST#, HOST's rails and the reference clock allow, ends with the link up. -/
def execPcieLinkUp (speed width : BitVec 3) (degraded : Bool) (s : State) : Out := run (fun s =>
  let trains := 1 ≤ speed.toNat ∧ speed.toNat ≤ 4 ∧ (width = 1 ∨ width = 2 ∨ width = 4)
  s.onlyIf (s.pcie.training && s.aon.perst && !s.isolated .host && s.aon.refs.get 14 && decide trains) (fun t =>
    let t1 := (t.wr pgPCIE PCIE_LINK_SPEED speed.toNat).wr pgPCIE PCIE_LINK_WIDTH width.toNat
    let t2 := { t1.wr pgPCIE PCIE_LINK_UP 1 with pcie := { t1.pcie with training := false } }
    if degraded then t2.raise pgPCIE 0 else t2)) s

/-- The size of a base address register's region; none where the function has no such register
(R328). -/
def barSize (vf : Bool) (n : Nat) : Option Nat :=
  match vf, n with
  | false, 0 => some (2 ^ 24)
  | false, 2 => some (2 ^ 28)
  | false, 4 => some (2 ^ 16)
  | true, 0 => some (2 ^ 12)
  | true, 2 => some (2 ^ 13)
  | _, _ => none

/-- Vectors of a function (R328). -/
def vectorsOf (fn : Nat) : Nat := if fn = 0 then 48 else 4

def State.updPcie (s : State) (g : Pcie → Pcie) : State := { s with pcie := g s.pcie }

/-- A list with an element, or without it. -/
def listSet {α : Type} [BEq α] (l : List α) (x : α) (on : Bool) : List α :=
  let rest := l.filter (fun e => !(e == x))
  if on then rest ++ [x] else rest

/-- A vector's pending bit is served, where the function may send now. -/
def State.servePending (s : State) (fn v : Nat) : State :=
  if s.pcie.pba.contains (fn, v) && s.mayMessage fn && !s.vecMasked fn v then
    (s.updPcie (fun x => { x with pba := listSet x.pba (fn, v) false })).message fn v
  else s

def Aer.get (x : Aer) (r : AerReg) : Word :=
  match r with
  | .uncor => x.uncor | .uncorMask => x.uncorMask | .uncorSev => x.uncorSev | .cor => x.cor | .corMask => x.corMask

/-- A write of an error-reporting register: a status clears by writing 1 (PRESUMED, log 101). -/
def Aer.put (x : Aer) (r : AerReg) (v : Word) : Aer :=
  match r with
  | .uncor => { x with uncor := x.uncor &&& ~~~v }
  | .uncorMask => { x with uncorMask := v }
  | .uncorSev => { x with uncorSev := v }
  | .cor => { x with cor := x.cor &&& ~~~v }
  | .corMask => { x with corMask := v }

/-- A size as PCI Express encodes it: 128 bytes as 0, 256 as 1, 512 as 2. -/
def sizeCode (n : Nat) : Nat := if n ≤ 128 then 0 else if n ≤ 256 then 1 else 2

/-- What a configuration read returns (R328). -/
def State.cfgData (s : State) (x : CfgReg) : Nat :=
  match x with
  | .totalVfs => 4
  | .numVfs => s.rd pgPCIE PCIE_VF_NUM_VFS
  | .msixEnable fn => b2n (s.pcie.msixOn.contains fn.val)
  | .power fn => if s.pcie.d3hot.contains fn.val then 3 else 0
  | .sizes => sizeCode s.pcie.payload + 8 * sizeCode s.pcie.readReq
  | .bar vf n => ((s.pcie.bars.lookup (vf, n.val)).getD 0).toNat
  | .aer fn r => ((s.pcie.aer.get fn).get r).toNat

/-- The function that a request is sent to. -/
def cfgFn : CfgOp → Nat
  | .msixMask fn _ _ | .msixEntry fn _ _ _ | .msixEnable fn _ | .power fn _ | .aer fn _ _ => fn.val
  | .read (.msixEnable fn) | .read (.power fn) | .read (.aer fn _) => fn.val
  | .read .totalVfs | .read .numVfs | .read .sizes | .read (.bar _ _) | .numVfs _ | .sizes _ _ | .bar _ _ _ => 0

/-- What a configuration request changes (R328); NumVFs above 4, sizes above 512 bytes, and registers and
vectors that the endpoint lacks do not exist (log 101). -/
def State.configure (s : State) (op : CfgOp) : State :=
  match op with
  | .read _ => s
  | .aer fn x v => s.updPcie (fun p => { p with aer := p.aer.set fn ((p.aer.get fn).put x v) })
  | .numVfs n => if n.toNat ≤ 4 then s.wr pgPCIE PCIE_VF_NUM_VFS n.toNat else s
  | .msixMask fn vec masked =>
    if vectorsOf fn.val ≤ vec.toNat then s
    else
      (s.updPcie (fun x => { x with unmasked := listSet x.unmasked (fn.val, vec.toNat) (!masked) })).servePending
        fn.val vec.toNat
  | .msixEntry fn vec addr data =>
    if vectorsOf fn.val ≤ vec.toNat then s
    else s.updPcie (fun x =>
      { x with entries :=
          ((fn.val, vec.toNat), (addr, data)) :: x.entries.filter (fun e => e.1 != (fn.val, vec.toNat)) })
  | .msixEnable fn on =>
    (List.range 48).foldl (fun t v => t.servePending fn.val v)
      (s.updPcie (fun x => { x with msixOn := listSet x.msixOn fn.val on }))
  | .power fn d3hot =>
    (List.range 48).foldl (fun t v => t.servePending fn.val v)
      (s.updPcie (fun x => { x with d3hot := listSet x.d3hot fn.val d3hot }))
  | .sizes payload request =>
    if payload.toNat ≤ 2 ∧ request.toNat ≤ 2 then
      s.updPcie (fun x => { x with payload := 128 * 2 ^ payload.toNat, readReq := 128 * 2 ^ request.toNat })
    else s
  | .bar vf n addr =>
    match barSize vf n.val with
    | none => s
    | some size =>
      let a := BitVec.ofNat 64 (addr.toNat / size * size)
      s.updPcie (fun x => { x with bars := ((vf, n.val), a) :: x.bars.filter (fun e => e.1 != (vf, n.val)) })

/-- R73, R328, R329: Retry Status before GKP_START or FAILED, else a normal completion with its effect and,
of a read, its data; a VF that is not enabled does not exist on the link, and nothing answers for it. -/
def execPcieConfigRequest (op : CfgOp) (s : State) : Out := run (fun s =>
  let data := match op with
    | .read x => s.cfgData x
    | _ => 0
  s.onlyIf (s.bit pgPCIE PCIE_LINK_UP) (fun t =>
    if t.stage < 4 then t.emit (.cfgDone true 0)
    else if t.rd pgPCIE PCIE_VF_NUM_VFS < cfgFn op then t
    else (t.configure op).emit (.cfgDone false data))) s

/-- Count a function-level reset and raise `FLR` (R330, R334). -/
def State.countFlr (s : State) (fn : Nat) : State :=
  let s1 := s.updPcie (fun x =>
    { x with unmasked := x.unmasked.filter (fun e => e.1 != fn), msixOn := listSet x.msixOn fn false,
             entries := x.entries.filter (fun e => e.1.1 != fn), pba := x.pba.filter (fun e => e.1 != fn),
             d3hot := listSet x.d3hot fn false,
             payload := if fn = 0 then 128 else x.payload, readReq := if fn = 0 then 512 else x.readReq,
             bars := if fn = 0 then [] else x.bars })
  ((s1.incSat pgPCIE PCIE_FLR_COUNT).wr pgPCIE PCIE_FLR_LAST fn).raise pgPCIE 1

/-- Fence every stream's ring DMA and the virtual interface's (R66, R330). -/
def State.fenceAll (s : State) : State :=
  ([0, 1, 2, 3] : List (Fin 4)).foldl (fun t i => t.updStm i (fun x => { x with fenced := true }))
    ((s.frameLeft true).updVni (fun v => { v with fenced := true }))

/-- R330: the PF's configuration space and MSI-X table, every ring, the virtual interface. -/
def execPfFlr (s : State) : Out := run (fun s =>
  s.onlyIf (s.bit pgPCIE PCIE_LINK_UP) (fun t =>
    (((t.countFlr 0).wr pgPCIE PCIE_VF_NUM_VFS 0).fenceAll).wr pgNETroot VNI_CTRL_EN 0)) s

/-- R157, R330: the VF exists while NumVFs counts it; a running stream is reset, a reset in progress
is joined, any other stream performs the steps at once and reads as before. -/
def execVfFlr (i : Fin 4) (s : State) : Out := run (fun s =>
  s.onlyIf (s.bit pgPCIE PCIE_LINK_UP && decide (i.val < s.rd pgPCIE PCIE_VF_NUM_VFS)) (fun t =>
    let t1 := t.countFlr (i.val + 1)
    let fenced := t1.updStm i (fun x => { x with fenced := true })
    if t1.stmRunning i.val then t1.resetStream i
    else if t1.stmState i.val = 3 then fenced
    else fenced.resetDone i)) s

end Sys2Proof.Machine
end

