-- ==== Sys2Proof/Machine/FlashOps.lean ====
section
/-! DEFINITION. The flash and its images as operations that the commands share (R392–R399, R408). -/

namespace Sys2Proof.Machine

/-- Bytes of the flash window (R392). -/
def flashSize : Nat := 2 ^ 25

/-- A byte of the flash; an unlisted byte reads 0xFF (log 66). -/
def State.fbyte (s : State) (a : Nat) : Byte := Tbl.get 0xFF a s.flash

def State.fbytes (s : State) (a n : Nat) : List Byte := (List.range n).map (fun i => s.fbyte (a + i))

def State.setFbyte (s : State) (a : Nat) (b : Byte) : State :=
  { s with flash := Tbl.set 0xFF a b s.flash }

def State.setFbytes (s : State) (a : Nat) (bs : List Byte) : State :=
  match bs with
  | [] => s
  | b :: t => (s.setFbyte a b).setFbytes (a + 1) t

/-- A number of the flash, lowest byte first. -/
def State.fnum (s : State) (a n : Nat) : Nat := ofLe (s.fbytes a n)

/-! ### Slots and images (R392–R394) -/

/-- First address of a slot: firmware A and B, configuration A and B. -/
def slotBase (n : Nat) : Nat :=
  if n = 0 then 0 else if n = 1 then 0x800000 else if n = 2 then 0x1000000 else 0x1100000

def slotSize (n : Nat) : Nat := if n < 2 then 0x800000 else 0x100000

/-- A range of the flash meets a slot. -/
def meetsSlot (a n slot : Nat) : Bool :=
  decide (a < slotBase slot + slotSize slot) && decide (slotBase slot < a + n)

/-- `FLOOR`, as fused (R413). -/
def State.floor (s : State) : Nat := s.svnFloor.getD Config.svnFloor.toNat

def allZero (bs : List Byte) : Bool := bs.all (· == 0)

/-- The image in a slot verifies (R394). -/
def State.imageOk (s : State) (slot : Nat) : Bool :=
  let b := slotBase slot
  let fw := decide (slot < 2)
  let len := s.fnum (b + 8) 4
  s.fnum b 4 == 0x48544C46 && s.fbyte (b + 4) == 1 && s.fbyte (b + 5) == (if fw then 1 else 2) &&
  s.fbyte (b + 7) == 0 && allZero (s.fbytes (b + 176) 80) && decide (len + 256 ≤ slotSize slot) &&
  (fw || (s.fbyte (b + 6) == 0 && allZero (s.fbytes (b + 14) 2))) &&
  s.fbytes (b + 32) 48 == sha384 (s.fbytes (b + 256) len) &&
  ecdsaOk Config.bootKey (sha384 (s.fbytes b 80)) (s.fbytes (b + 80) 96) &&
  (!fw || decide (s.floor ≤ (s.fbyte (b + 6)).toNat))

/-- `SCHEMA` of the image in a slot. -/
def State.schemaOf (s : State) (slot : Nat) : Nat := s.fnum (slotBase slot + 12) 2

/-! ### Records of two copies (R396, R408) -/

/-- `SEQ` of a copy of the boot record, if it is valid. -/
def State.bootSeq (s : State) (a : Nat) : Option Nat :=
  if s.fnum a 4 = 0xB0075E1C ∧ s.fnum (a + 12) 4 = (crc32c (s.fbytes a 12)).toNat then
    some (s.fnum (a + 4) 4)
  else none

/-- `SEQ` of a copy of the repair record, if it is valid. -/
def State.repairSeq (s : State) (a : Nat) : Option Nat :=
  let n := s.fnum (a + 8) 4
  if s.fnum a 4 = 0x0DA12E9A ∧ 16 + 8 * n ≤ 0x10000 ∧
      s.fnum (a + 12) 4 = (crc32c (s.fbytes (a + 16) (8 * n))).toNat then
    some (s.fnum (a + 4) 4)
  else none

/-- Of two copies the valid one with the higher `SEQ`. -/
def newer (a b : Nat) (x y : Option Nat) : Option Nat :=
  match x, y with
  | some m, some n => some (if m < n then b else a)
  | some _, none => some a
  | none, some _ => some b
  | none, none => none

/-- The slot that start-up prefers (R396): `FW` at byte 8 of the valid boot record, `CFG` at byte 9; A without
one. -/
def State.bootPrefers (s : State) (byte : Nat) : Nat :=
  match newer 0x1220000 0x1221000 (s.bootSeq 0x1220000) (s.bootSeq 0x1221000) with
  | some a => if s.fbyte (a + byte) = 1 then 1 else 0
  | none => 0

def State.fwPreferred (s : State) : Nat := s.bootPrefers 8

def State.cfgPreferred (s : State) : Nat := s.bootPrefers 9

/-- The firmware that runs reads the configuration of a slot (R394). -/
def State.readsCfg (s : State) (slot : Nat) : Bool :=
  let b := slotBase (s.rd pgTOP TOP_BOOT_FW_SLOT)
  decide (s.fnum (b + 12) 2 ≤ s.schemaOf slot) && decide (s.schemaOf slot ≤ s.fnum (b + 14) 2)

/-- The SRAM repairs of the valid repair record (R377, R408): an entry's `KIND`, bank and spare's index. -/
def State.recordedRepairs (s : State) : List Repair :=
  match newer 0x1200000 0x1210000 (s.repairSeq 0x1200000) (s.repairSeq 0x1210000) with
  | none => []
  | some a =>
    ((List.range (s.fnum (a + 8) 4)).filter
      (fun i => s.fbyte (a + 16 + 8 * i) == 1 || s.fbyte (a + 16 + 8 * i) == 2)).map
      (fun i => { bank := (s.fbyte (a + 19 + 8 * i)).toNat, column := s.fbyte (a + 16 + 8 * i) == 2,
                  index := s.fnum (a + 20 + 8 * i) 4 })

/-! ### Operations (R397–R399) -/

/-- The slot of the running firmware; none before firmware first starts. -/
def State.runningSlot (s : State) : Option Nat :=
  let fail := s.rd pgTOP TOP_BOOT_FAIL
  if decide (s.stage < 4) || (s.stage == 15 && (fail == 1 || fail == 4)) then none
  else some (s.rd pgTOP TOP_BOOT_FW_SLOT)

/-- The active configuration slot, as 2 or 3; none before a configuration is applied. -/
def State.activeSlot (s : State) : Option Nat :=
  let fail := s.rd pgTOP TOP_BOOT_FAIL
  if decide (s.stage < 6) || (s.stage == 15 && fail != 3) then none
  else some (2 + s.rd pgTOP TOP_BOOT_CFG_SLOT)

def State.fshBuf (s : State) : Nat := s.rd2 pgFSH FSH_BUF_LO_ADDR FSH_BUF_HI_ADDR

/-- The buffer lies in DRAM or in the general SRAM region. -/
def State.bufferOk (s : State) : Bool := s.placeOf s.fshBuf (s.rd pgFSH FSH_LEN_LEN) == .plain

/-- `FSH_ADDR` or `FSH_LEN` does not suit a command that works in steps of `unit` bytes (R398). -/
def State.rangeBad (s : State) (unit : Nat) : Bool :=
  let a := s.rd pgFSH FSH_ADDR_ADDR
  let n := s.rd pgFSH FSH_LEN_LEN
  a % unit != 0 || n % unit != 0 || n == 0 || decide (flashSize < a + n)

/-- The range touches the running firmware or the active configuration. -/
def State.rangeHeld (s : State) : Bool :=
  let a := s.rd pgFSH FSH_ADDR_ADDR
  let n := s.rd pgFSH FSH_LEN_LEN
  [s.runningSlot, s.activeSlot].any (fun x => match x with
    | some k => meetsSlot a n k
    | none => false)

def State.setVerified (s : State) (slot : Nat) (v : Bool) : State :=
  let m := s.rd pgFSH FSH_SLOT_STAT_VERIFIED
  let cleared := if m / 2 ^ slot % 2 = 1 then m - 2 ^ slot else m
  s.wr pgFSH FSH_SLOT_STAT_VERIFIED (if v then cleared + 2 ^ slot else cleared)

def State.verified (s : State) (slot : Nat) : Bool :=
  decide (s.rd pgFSH FSH_SLOT_STAT_VERIFIED / 2 ^ slot % 2 = 1)

def State.setFsh (s : State) (g : Fsh → Fsh) : State := { s with fsh := g s.fsh }

/-- A fetch of the flash window is answered with the flash's bytes, none beyond the window (R392). -/
def State.fetch (s : State) (e : Nat × Nat) : State :=
  s.emit (.fetched e.1 (s.fbytes e.1 (min e.2 (flashSize - e.1))))

/-- The fetches held for a step are served, and the kick interval goes on (R399). -/
def State.serveFetches (s : State) : State :=
  if s.fsh.fetches.isEmpty then s
  else
    let wait := s.now - s.fsh.heldAt
    let s1 := s.fsh.fetches.foldl State.fetch s
    { s1 with fsh := { s1.fsh with fetches := [] }, wrd := { s1.wrd with kickAt := s1.wrd.kickAt + wait } }

/-- An operation ends well, or with a reason (R397, R399). -/
def State.flashEnd (s : State) (reason : Option Nat) : State :=
  let s1 := ((s.setFsh (fun f => { f with op := none })).setBusy pgFSH false).setState pgFSH 1
  match reason with
  | none => (s1.wr pgFSH FSH_OP_STAT_DONE 1).raise pgFSH 0
  | some n => ((s1.wr pgFSH FSH_OP_STAT_FAIL 1).wr pgFSH FSH_OP_STAT_REASON n).raise pgFSH 1

/-- The next page of a PROGRAM is read from the buffer; poison ends the operation (R397). -/
def State.takePage (s : State) (o : FlashOp) : State :=
  let r := s.readMem 3 (o.buf + o.done) 256
  if r.2.2.any id then r.1.flashEnd (some 2)
  else
    let o' := { o with page := r.2.1 }
    r.1.setFsh (fun f => { f with op := some o' })

/-- An accepted operation begins; one that writes or erases clears `VERIFIED` of what it touches. -/
def State.flashStart (s : State) (kind : FlashKind) : State :=
  let o : FlashOp := { kind := kind, addr := s.rd pgFSH FSH_ADDR_ADDR, len := s.rd pgFSH FSH_LEN_LEN,
                       buf := s.fshBuf, done := 0, page := [] }
  let s1 := ((s.setFsh (fun f => { f with op := some o })).setBusy pgFSH true).setState pgFSH 2
  let s2 := match kind with
    | .program | .erase =>
      [0, 1, 2, 3].foldl
        (fun t k => if meetsSlot o.addr o.len k then t.setVerified k false else t) s1
    | _ => s1
  if kind = .program then s2.takePage o else s2

/-- The bytes of a step of an operation: a page or a sector. -/
def FlashKind.step : FlashKind → Nat
  | .program => 256
  | .erase => 4096
  | _ => 0

/-- A step that did not end leaves its bytes free (log 81). -/
def State.tear (s : State) (o : FlashOp) : State :=
  (List.range o.kind.step).foldl
    (fun t i => (t.draw).setFbyte (o.addr + o.done + i) (Config.tornByte t.free)) s

/-- What a step that ends leaves in the flash. -/
def FlashOp.result (o : FlashOp) : List Byte :=
  if o.kind = .program then o.page else List.replicate 4096 0xFF

/-- A step has ended: held fetches are served, then the next step begins or the operation ends. -/
def State.stepDone (s : State) (o : FlashOp) : State :=
  let s1 := (s.setFbytes (o.addr + o.done) o.result).serveFetches
  let o' := { o with done := o.done + o.kind.step }
  if o.len ≤ o'.done then s1.flashEnd none
  else if o.kind = .program then s1.takePage o'
  else s1.setFsh (fun f => { f with op := some o' })

end Sys2Proof.Machine
end

