-- ==== Sys2Proof/Machine/WardenOps.lean ====
section
/-! DEFINITION. The warden's restarts of the Groundskeeper (R369–R372, R402–R405). -/

namespace Sys2Proof.Machine

def State.setWrd (s : State) (g : Warden → Warden) : State := { s with wrd := g s.wrd }

/-- A minute in ns. -/
def minute : Nat := 60000000000

/-- The restarts of the preceding 60 s (R371). -/
def State.recent (s : State) : List Nat :=
  s.wrd.restarts.filter (fun t => decide (s.now - t < minute))

/-- The Groundskeeper is reset, and its start waits for the Gatehouse (R371, R402, R404). -/
def State.gkpRestart (s : State) : State :=
  (s.gkpReset).setWrd (fun w => { w with gkp := .restarting, lastKick := none })

/-- Step 2 of R371, with the restart counted. -/
def State.wardenRestart (s : State) : State :=
  let past := s.recent ++ [s.now]
  let s1 := (s.gkpRestart).setWrd (fun w => { w with swap := false, restarts := past })
  ((s1.wr pgWRD WRD_GKP_RECENT past.length).incSat pgWRD WRD_GKP_TOTAL).raise pgWRD 2

/-- Step 3 of R371. -/
def State.wardenHold (s : State) : State :=
  let s1 := (s.gkpReset).setWrd (fun w =>
    { w with gkp := .held, lastKick := none, swap := false })
  (s1.wr pgWRD WRD_FAULT_HELD 1).raise pgWRD 3

/-- A failure during a swap gives the previous slot back; one after SWAP ends the update (R405). -/
def State.swapFails (s : State) : State :=
  if s.fsh.swapping then
    let prev := s.fsh.prev
    let s1 := s.setFsh (fun f => { f with swapping := false, falling := false })
    if s1.rd pgFSH UNIT_STATUS_STATE = 3 ∧ !s1.bit pgFSH FSH_FW_STAT_REQUESTED then
      (((s1.wr pgTOP TOP_BOOT_FW_SLOT prev).wr pgFSH FSH_FW_STAT_RESULT 4).setBusy pgFSH false).setState
        pgFSH 1
    else s1.wr pgTOP TOP_BOOT_FW_SLOT prev
  else s

/-- A failure of the Groundskeeper: 1 no kick, 2 bad kick, 3 swap window expired, 4 lockstep, 5 TCM
(R371, R388). -/
def State.gkpFails (s : State) (cause : Nat) : State :=
  let s1 := (s.wr pgWRD WRD_FAULT_GKP 1).wr pgWRD WRD_GKP_CAUSE cause
  let s2 := if cause ≤ 3 then s1.raise pgWRD 0 else if cause = 4 then s1.raise pgWRD 1 else s1
  let s3 := s2.swapFails
  if s3.recent.length < 3 then s3.wardenRestart else s3.wardenHold

/-- The warden watches the kicks: firmware runs, or a swap is under way; SYS is at level 2 (R80, R369,
R405) and no fetch is held (R399). -/
def State.watching (s : State) : Bool :=
  (s.wrd.gkp == .running || (s.wrd.gkp == .restarting && s.wrd.swap)) && s.levelOf .sys == 2 &&
    !s.pwr.sysLow && s.fsh.fetches.isEmpty

/-- A kick is valid: it moves the watch on. -/
def State.kicked (s : State) (v : Nat) : State :=
  s.setWrd (fun w => { w with lastKick := some v, kickAt := s.now, validAt := some s.now, swap := false })

/-- 0x3C3C: the next valid kick may take 250 ms; the slot that runs now is the previous one (R370,
R405). -/
def State.swapKick (s : State) : State :=
  let s1 := s.setWrd (fun w => { w with swap := true, swapAt := some s.now, kickAt := s.now })
  if s1.fsh.swapping then s1
  else s1.setFsh (fun f => { f with swapping := true, prev := s1.rd pgTOP TOP_BOOT_FW_SLOT })

/-- A second 0x3C3C within 60 s of the first. -/
def State.swapSoon (s : State) : Bool :=
  match s.wrd.swapAt with
  | some t => decide (s.now - t < minute)
  | none => false

/-- The warden judges a kick (R369, R370); folly 1 ignores it. -/
def State.judgeKick (s : State) (v : Nat) : State :=
  if s.follyOn pgWRD 1 then s.inject pgWRD
  else if v = 0x3C3C then (if s.swapSoon then s.gkpFails 2 else s.swapKick)
  else if (v = 0x5A17 ∨ v = 0xA5E8) ∧ (s.wrd.swap ∨ s.wrd.lastKick ≠ some v) then s.kicked v
  else s.gkpFails 2

/-- Firmware starts: its image's `TCM_LEN` bytes of payload stand in TCM, and the cores begin at `ENTRY`
(R393); the watch begins afresh, but a swap's window runs on (R369, R405). -/
def State.gkpStarts (s : State) : State :=
  let b := slotBase (s.rd pgTOP TOP_BOOT_FW_SLOT)
  s.setWrd (fun w =>
    { w with gkp := .running, kickAt := if w.swap then w.kickAt else s.now,
             tcm := s.fbytes (b + 256) (min (s.fnum (b + 24) 4) (s.fnum (b + 8) 4)),
             entry := s.fnum (b + 28) 4 })

end Sys2Proof.Machine
end

