-- ==== Sys2Proof/Machine/Boot.lean ====
section
/-! DEFINITION. Events of the supplies, the resets, the crystal, the host's link and ESTOP_IN#, and the
stages of start-up (R65–R73, R216, R217, R298, R396, R418). -/

namespace Sys2Proof.Machine

/-! ### Resets (R66, R68) -/

/-- First address and length of the Guestbook (R283). -/
def inGuestbook (a : Nat) : Bool := decide (0x1003B40000 ≤ a) && decide (a < 0x1003B80000)

/-- The crystal's state as the CLK page and the warden show it (R65). -/
def State.showXtal (s : State) : State :=
  let s1 := (s.wrBit pgCLK CLK_XTAL_STAT_XTAL_OK s.aon.xtal).wrBit pgCLK CLK_XTAL_STAT_ON_RC s.aon.onRc
  let s2 := s1.wrBit pgWRD WRD_FAULT_XTAL s.aon.onRc
  (List.range 8).foldl (fun t n => t.wrBit pgCLK (CLK_PLL_STAT_REF_OK n) s.aon.xtal) s2

/-- CLOCKS begins; PRINT may reach level 2 with ESTOP_IN# low (R70, R217), and
entries held back are written (R386). -/
def State.goClocks (s : State) : State := (s.printBack s.enterClocks).gbkFlushLate

/-- A register word that a DEVICE-level reset keeps: the warden's fields but its lock (R388), the
Guestbook's counters (R390), `TOP_RESET_CAUSE` (R69) and the count of the repair list (R377). -/
def keptWord (key : Nat) : Bool :=
  let page := key / 4096
  let off := key % 4096
  (page == pgWRD && off != 0x02C) ||
  (page == pgGBK && (off == 0x040 || off == 0x044 || off == 0x04C || off == 0x050)) ||
  (page == pgTOP && off == 0x084) || (page == pgBST && off == 0x054)

/-- A flash step that a reset breaks off leaves its bytes free (log 81). -/
def State.tearOp (s : State) : State :=
  match s.fsh.op with
  | none => s
  | some o => s.tear o

/-- POR (R66): everything but the flash outside, what is fused, and the levels of the balls. -/
def State.por (s0 : State) : State :=
  let s := s0.tearOp
  let t := State.resetOf s.part
  let u : State :=
    { t with now := s.now, flash := s.flash, svnFloor := s.svnFloor, emitted := s.emitted, free := s.free,
             pending := s.pending, pcie := { t.pcie with training := s.aon.perst },
             bist := { t.bist with fused := s.bist.fused },
             aon := { t.aon with perst := s.aon.perst, estop := s.aon.estop,
                                 webBreak := s.aon.webBreak, refs := s.aon.refs,
                                 resetLow := s.aon.resetLow } }
  u.wr pgBST BST_REPAIRS_FUSED (s.rd pgBST BST_REPAIRS_FUSED)

/-- Start-up passes from RAILS to CLOCKS with VBUS and every rail good, once no trigger of a reset stands
(R68, R70). -/
def State.leaveRails (s : State) : State :=
  if s.stage == 0 && s.aon.vbus && s.railsGood && !s.aon.rstPending && !s.aon.resetLow then s.goClocks else s

/-- A DEVICE-level reset takes hold (R66): the always-on island, the warden, the Guestbook with its
counters and the repair list are kept; the history of restarts is cleared (R372). -/
def State.deviceLevel (s0 : State) : State :=
  let s := s0.tearOp
  let t := State.resetOf s.part
  let u : State :=
    { t with now := s.now, flash := s.flash, svnFloor := s.svnFloor, emitted := s.emitted, free := s.free,
             pending := s.pending, regs := s.regs.filter (fun e => keptWord e.1),
             mem := s.mem.filter (fun e => inGuestbook e.1),
             poison := s.poison.filter inGuestbook, gbk := s.gbk,
             aon := { s.aon with rstPending := false, railEn := true, railTimeout := false,
                                 wakePending := false, ddrKept := false },
             bist := { t.bist with repairs := s.bist.repairs, fused := s.bist.fused, lost := s.bist.lost },
             pcie := { t.pcie with training := s.aon.perst },
             wrd := { s.wrd with gkp := .reset, lastKick := none, swap := false, restarts := [],
                                 tcm := [] } }
  let v := (u.wr pgWRD WRD_FAULT_HELD 0).wr pgWRD WRD_GKP_RECENT 0
  ((v.showXtal).setStage 0).leaveRails

/-- A HOST-level reset, with its record: bit 0 PERST#, 1 hot reset, 2 link down (R66, R331). -/
def State.hostReset (s : State) (why : Nat) : State :=
  let s1 := s.resetPage pgPCIE
  let s2 : State :=
    { s1 with host := { results := [], slots := [], stale := [] },
              pcie := Pcie.fresh s1.aon.perst }
  let s3 := ([0, 1, 2, 3] : List (Fin 4)).foldl
    (fun t i => t.updStm i (fun x => { x with fenced := true })) s2
  let s4 := if s3.qlp.arc.isSome then s3.arcFail 6 else s3
  s4.record 0x3001 pgPCIE (2 ^ why)

/-! ### Supplies and resets -/

/-- R66, R78: VBUS rises through its threshold, or falls below it and leaves the part off. -/
def execVbusPor (rise : Bool) (s : State) : Out := run (fun s =>
  let t := s.por
  { t with aon := { t.aon with vbus := rise, railEn := rise } }) s

def railNum : Rail → Fin 8
  | .vddCore => 0 | .vddPll => 1 | .vddaSer => 2 | .vddhSer => 3
  | .vddio12 => 4 | .vddqDram => 5 | .vddio18 => 6 | .vddaAdc => 7

/-- R70, R418. -/
def execRailGood (rail : Rail) (s : State) : Out := run (fun s =>
  let t : State := { s with aon := { s.aon with rails := s.aon.rails.set (railNum rail).val true } }
  t.leaveRails) s

/-- DRAM contents are lost with VDDQ_DRAM, whose keepers held them in self-refresh (R23). -/
def State.dramLost (s : State) : State :=
  { s with mem := s.mem.filter (fun e => decide (sramBase ≤ e.1)),
           poison := s.poison.filter (fun a => decide (sramBase ≤ a)),
           aon := { s.aon with ddrKept := false } }

/-- R23, R66, R418: a rail leaves its good range; while RAIL_EN_MAIN is high that resets the part. -/
def execRailLoss (rail : Rail) (s : State) : Out := run (fun s =>
  s.onlyIf (s.aon.rails.get (railNum rail)) (fun s =>
    let t : State := { s with aon := { s.aon with rails := s.aon.rails.set (railNum rail).val false } }
    if t.aon.railEn then t.trigger TOP_RESET_CAUSE_RAIL_LOSS
    else if rail = .vddqDram then t.dramLost else t)) s

/-- R66, R68: RESET_IN# has been low for 1 µs, or it rises and its trigger is gone. -/
def execResetIn (low : Bool) (s : State) : Out := run (fun s =>
  let t : State := { s with aon := { s.aon with resetLow := low } }
  if low then t.trigger TOP_RESET_CAUSE_RESET_IN else t.leaveRails) s

/-- R68. -/
def execDeviceResetHold (s : State) : Out := run (fun s =>
  s.onlyIf s.aon.rstPending State.deviceLevel) s

/-! ### The crystal -/

/-- R65, R70: the island and the watchdog run from the crystal. -/
def execXtalQualified (s : State) : Out := run (fun s =>
  let t : State := { s with aon := { s.aon with xtal := true, onRc := false, xtalCut := false } }
  let u := t.showXtal
  if u.stage = 1 ∧ (u.pll 0).phase = .off ∧ (u.pll 1).phase = .off then
    (u.startPll 0).startPll 1
  else u) s

/-- R65, R216: trains in progress are cut as ESTOP_IN# cuts them, without a latched cut. -/
def execXtalStop (s : State) : Out := run (fun s =>
  s.onlyIf s.aon.xtal (fun t =>
    let t1 := (List.range t.part.heads).foldl
      (fun u h => (u.qlpCut h).padStops h) t
    let t2 : State := { t1 with aon := { t1.aon with xtal := false, onRc := true, xtalCut := true } }
    ((t2.showXtal).raise pgCLK 4).trigger TOP_RESET_CAUSE_PLL_FAULT)) s

/-! ### The host's link -/

/-- R66: PERST# falls. -/
def execPerstAssert (s : State) : Out := run (fun s =>
  s.onlyIf s.aon.perst (fun t =>
    t.revote (fun u =>
      let v : State := { u with aon := { u.aon with perst := false } }
      v.hostReset 0))) s

/-- R73, R91: PERST# rises; in Retain and Patrol it wakes the part. -/
def execPerstDeassert (s : State) : Out := run (fun s =>
  s.onlyIf (!s.aon.perst) (fun t =>
    let up := fun (u : State) =>
      ({ u with aon := { u.aon with perst := true, pcieWakeLow := false },
                pcie := { u.pcie with training := true } } : State)
    if t.asleep then (t.wr pgPWR PWR_WAKE_CAUSE_PERST 1).wakeBy up else t.revote up)) s

/-- R66. -/
def execPcieHotReset (s : State) : Out := run (fun s =>
  s.onlyIf s.aon.perst (fun t => t.hostReset 1)) s

/-- R66. -/
def execPcieLinkDown (s : State) : Out := run (fun s =>
  s.onlyIf (s.bit pgPCIE PCIE_LINK_UP) (fun t => t.hostReset 2)) s

/-! ### ESTOP_IN# (R217) -/

/-- R217: a domain without power latches nothing, and its rise counts as the edge (log 24). -/
def execEstopFall (s : State) : Out := run (fun s =>
  s.onlyIf s.aon.estop (fun t =>
    let t1 : State := { t with aon := { t.aon with estop := false } }
    if t1.isolated .print then t1
    else ((List.range t1.part.heads).foldl (fun u h => u.qlpCut h) t1).estopEdge)) s

/-- R217. -/
def execEstopRise (s : State) : Out := run (fun s =>
  { s with aon := { s.aon with estop := true } }) s

/-! ### The stages of start-up (R70, R72) -/

/-- Every word of the on-die SRAM but the Guestbook reads 0, with sound codewords. -/
def State.zeroSram (s : State) : State :=
  let mem := s.mem.filter (fun e => decide (e.1 < sramBase) || inGuestbook e.1)
  let poison := s.poison.filter (fun a => decide (a < sramBase) || inGuestbook a)
  { s with mem := mem, poison := poison }

/-- After a POR the Gatehouse takes the list from the repair record, without what is fused already (R377, R408;
log 94). -/
def State.listRepairs (s : State) : State :=
  if s.bist.lost then
    let list := s.recordedRepairs.filter (fun x => !s.bist.fused.contains x && !Config.spareFused x.bank x.column x.index)
    { s with bist := { s.bist with repairs := list, lost := false } }
  else s

/-- The listed repairs are fused (R377). -/
def State.fuseRepairs (s : State) : State :=
  let n := s.bist.repairs.length
  if n = 0 then s
  else
    let s1 : State := { s with bist := { s.bist with repairs := [], fused := s.bist.fused ++ s.bist.repairs } }
    ((s1.wr pgBST BST_REPAIRS_SOFT 0).wr pgBST BST_REPAIRS_FUSED (s1.rd pgBST BST_REPAIRS_FUSED + n)).record
      0x3004 pgBST n

/-- R70, R72, R377, R408. -/
def execSramInitDone (exhausted : Bool) (s : State) : Out := run (fun s =>
  s.onlyIf (s.stage == 2) (fun t =>
    if exhausted then t.failStage 4
    else ((t.listRepairs.fuseRepairs).zeroSram).setStage 3)) s

/-- PLLs that run from GKP_START on: the clusters' and the DRAM channels' (R57, R70). -/
def State.startPlls (s : State) : State :=
  [2, 3, 4, 5, 6, 7].foldl
    (fun t n => if t.pllWanted n && (t.pll n).phase == .off then t.startPll n else t) s

/-- VERIFY_FW at start-up (R396): the preferred slot, then the other. -/
def State.bootVerified (s : State) (slot : Nat) : State :=
  let tried := s.fsh.tried
  let due := if tried.isEmpty then s.fwPreferred else 1 - s.fwPreferred
  if slot ≠ due then s
  else if s.imageOk slot then
    let s0 := s.setFsh (fun f => { f with tried := f.tried ++ [slot] })
    let s1 := ((s0.wr pgTOP TOP_BOOT_FW_SLOT slot).gkpStarts).setStage 4
    let s2 := if tried.isEmpty then s1
      else (s1.wr pgFSH FSH_FW_STAT_FALLBACK 1).wr pgFSH FSH_FW_STAT_REASON 3
    s2.startPlls
  else if tried.isEmpty then s.setFsh (fun f => { f with tried := [slot] })
  else s.failStage 1

/-- The slot that a restart of the Groundskeeper verifies (R371, R402, R404). -/
def State.restartSlot (s : State) : Nat :=
  if s.fsh.falling then s.fsh.prev else s.rd pgTOP TOP_BOOT_FW_SLOT

/-- The Gatehouse has verified the slot of a restart (R371, R402, R404); where the image fails, the
Groundskeeper stays in reset.  An UPDATE that is still REQUESTED goes on (R402). -/
def State.restartVerified (s : State) (slot : Nat) : State :=
  if slot ≠ s.restartSlot ∨ !s.imageOk slot then s
  else
    let s1 := (s.wr pgTOP TOP_BOOT_FW_SLOT slot).gkpStarts
    if s.fsh.falling then
      let s2 := s1.setFsh (fun f =>
        { f with falling := false, swapping := false,
                 tried := if f.tried.contains slot then f.tried else f.tried ++ [slot] })
      let s3 := (s2.wr pgFSH FSH_FW_STAT_RESULT 3).raise pgGKP 1
      if s3.rd pgFSH UNIT_STATUS_STATE = 3 ∧ !s3.bit pgFSH FSH_FW_STAT_REQUESTED then
        (s3.setBusy pgFSH false).setState pgFSH 1
      else s3
    else s1

/-- R70, R371, R394, R396, R402, R404. -/
def execVerifyFwDone (slot : Fin 2) (s : State) : Out := run (fun s =>
  if s.stage = 3 then s.bootVerified slot.val
  else s.onlyIf (s.wrd.gkp == .restarting) (fun t => t.restartVerified slot.val)) s

/-- The configuration that start-up takes (R396): the preferred slot, else the other, as verifies, reads and
applies. -/
def State.bootCfg (s : State) (okA okB : Bool) : Option Nat :=
  [s.cfgPreferred, 1 - s.cfgPreferred].find?
    (fun k => s.imageOk (2 + k) && s.readsCfg (2 + k) && (if k = 0 then okA else okB))

/-- The other firmware slot verifies and has not been tried since start-up began (R396). -/
def State.mayFallBack (s : State) : Bool :=
  let other := 1 - s.rd pgTOP TOP_BOOT_FW_SLOT
  s.imageOk other && !s.fsh.tried.contains other

/-- R70, R72, R395, R396: with no configuration to take, firmware requests FALLBACK while it may. -/
def execConfigDone (okA okB : Bool) (s : State) : Out := run (fun s =>
  s.onlyIf ((s.stage == 4 || s.stage == 5) && s.wrd.gkp == .running) (fun t =>
    match t.bootCfg okA okB with
    | some k =>
      (((t.wr pgTOP TOP_BOOT_CFG_SLOT k).wr pgFSH FSH_CFG_STAT_ACTIVE k).wr pgFSH
        FSH_CFG_STAT_SCHEMA (t.schemaOf (2 + k))).setStage 6
    | none => if t.mayFallBack then t else t.failStage 2)) s

/-- A channel that boot training puts into service, or that fails (R70, R281, R282, R298). -/
def State.bootTrain (s : State) (c : Fin 2) (ok : Bool) (temp : BitVec 16) : State :=
  let p := pgDRAM c.val
  let s1 := s.chanOn c
  if ok && geomOk (s1.chan c).geom then
    ((s1.setState p 2).updChan c (fun x => { x with sliceAt := s.now })).fullTraining c temp
  else (s1.setState p 4).raise p 2

/-- R70, R72, R298, R383. -/
def execDramTrainDone (ok0 ok1 : Bool) (temp0 temp1 : BitVec 16) (s : State) : Out := run (fun s =>
  s.onlyIf (s.stage == 6) (fun t =>
    let t1 := (t.bootTrain 0 ok0 temp0).bootTrain 1 ok1 temp1
    if ok0 && ok1 && geomOk (t1.chan 0).geom then
      let t2 := t1.setStage 7
      (t2.record 0x3000 pgTOP (t2.word pgTOP 0x080).toNat).revote id
    else t1.failStage 3)) s

end Sys2Proof.Machine
end

