-- ==== Sys2Proof/Machine/Cams.lean ====
section
/-! DEFINITION. Commands and events of the camera ports (R244–R261). -/

namespace Sys2Proof.Machine

/-- A delivered line goes to the quality loop (R256). -/
def State.camToLoop (s : State) (k : Nat) (pos : Pos) (o : LineOut) : State :=
  s.qlpCamLine k { pos := pos, flags := o.flags, dens := o.d, valid := o.okPix }

/-- Frame padding: lines that carry no position, delivered at the frame's end (R248). -/
def State.camFramePad (s : State) (k num : Nat) : Nat → State
  | 0 => s
  | n + 1 =>
    match (s.camOf k).frame num with
    | none => s
    | some f =>
      let l : CamLine :=
        { frame := num, pos := 0, flags := 64, valid := 0,
          samples := List.replicate (f.samples s.part k) (f.fld s.part k CAM_LINE_PAD), queued := 0,
          bad := [] }
      let o := s.camDeliver k f l []
      (o.1.camToLoop k 0 o.2).camFramePad k num n

/-- A frame that has ended is closed once its lines are delivered: padded where it is short, and judged
by the quality loop (R248, R249, R271). -/
def State.camFinish (s : State) (k num : Nat) : State :=
  match (s.camOf k).frame num with
  | none => s
  | some f =>
    if (s.camOf k).queue.any (fun l => l.frame == num) then s
    else
      let missing := f.lines s.part k - f.delivered
      let s1 := if missing = 0 then s
        else s.updFrame k num (fun x => ({ x with short := true } : CamFrame).blame 1)
      ((s1.camFramePad k num missing).camClose k num false).qlpJudge k false

/-- No more lines join the current frame (R248, R250). -/
def State.camEndFrame (s : State) (k : Nat) : State :=
  match (s.camOf k).frames.getLast? with
  | none => s
  | some f =>
    if f.ended then s
    else (s.updFrame k f.num (fun x => { x with ended := true })).camFinish k f.num

/-- R246, R248. -/
def execCamLvalRise (k : Fin 6) (s : State) : Out := run (fun s =>
  let idle := (s.camOf k.val).cur.isNone
  s.onlyIf (s.camOn k.val && s.bit (pgCAM k.val) CAM_STATUS_PCLK_OK && idle) (fun s0 =>
    s0.atFolly (pgCAM k.val) 2 (fun t => t) (fun s =>
      let p := pgCAM k.val
      let s1 := s.camExpire k.val
      let drop (t : State) : State :=
        ((t.incSat p CAM_UNTRIG_N).camFault k.val 4).updCam k.val
          (fun c => { c with cur := some .dropped })
      if s1.camOutside k.val then drop s1
      else
        match (s1.camOf k.val).wait with
        | [] => drop s1
        | t :: rest =>
          if 4 * s1.now < t.placed + 4 * s1.ac p CAM_LAT_LAT_MIN then drop s1
          else
            let s2 := s1.updCam k.val (fun c => { c with wait := rest })
            let j := s2.camJoin k.val
            j.1.updCam k.val (fun c =>
              { c with cur := match j.2 with
                  | some n => some (.taken t n)
                  | none => some .dropped })))) s

/-- The samples of a line as folly 1 may cut them and folly 3 spoil them. -/
def State.camArrive (s : State) (k : Nat) (raw : List Nat) (overflow : Bool) (bad : List Nat) : State :=
  let p := pgCAM k
  if s.follyOn p 1 then (s.inject p).camLineEnd k (raw.take (s.follyParam p)) overflow bad
  else if s.follyOn p 3 then (s.inject p).camLineEnd k raw overflow (0 :: bad)
  else s.camLineEnd k raw overflow bad

/-- R244, R245, R258, R259. -/
def execCamLvalFall (k : Fin 6) (rise fall : List (BitVec 24)) (overflow : Bool)
    (parity : List (BitVec 13)) (s : State) : Out := run (fun s =>
  match (s.camOf k.val).cur with
  | none => s
  | some .dropped => s.updCam k.val (fun c => { c with cur := none })
  | some (.taken _ _) => s.camArrive k.val (s.camSamples k.val rise fall) overflow (parity.map BitVec.toNat)) s

/-- R246. -/
def execCamTriggerMissed (k : Fin 6) (s : State) : Out := run (fun s =>
  s.onlyIf (s.camOn k.val) (fun t => t.camExpire k.val)) s

/-- R248, R252. -/
def execFvalRise (k : Fin 6) (s : State) : Out := run (fun s =>
  s.onlyIf (s.camOn k.val && !(s.camOf k.val).fval) (fun t =>
    let t1 := t.updCam k.val (fun c => { c with fval := true })
    if t1.ac (pgCAM k.val) CAM_CFG_FVAL_EN = 1 then t1.camStart k.val else t1)) s

/-- R248. -/
def execFvalFall (k : Fin 6) (s : State) : Out := run (fun s =>
  s.onlyIf (s.camOn k.val && (s.camOf k.val).fval) (fun t =>
    let t1 := t.updCam k.val (fun c => { c with fval := false })
    match (t1.camOf k.val).frames.getLast? with
    | some f => if f.byFval t1.part k.val then t1.camEndFrame k.val else t1
    | none => t1)) s

/-- R248: without FVAL, `FRAME_LINES` delivered lines close the oldest frame. -/
def execFrameLinesReached (k : Fin 6) (s : State) : Out := run (fun s =>
  match (s.camOf k.val).frames.find? (fun f =>
      !f.byFval s.part k.val && decide (f.lines s.part k.val ≤ f.delivered)) with
  | some f => s.camFinish k.val f.num
  | none => s) s

/-- R250. -/
def execPclkLoss (k : Fin 6) (rise fall : List (BitVec 24)) (overflow : Bool)
    (parity : List (BitVec 13)) (s : State) : Out := run (fun s =>
    s.onlyIf (decide (k.val < s.part.cams) && s.bit (pgCAM k.val) CAM_STATUS_PCLK_OK) (fun t =>
      let t1 := t.wr (pgCAM k.val) CAM_STATUS_PCLK_OK 0
      let t2 := match (t1.camOf k.val).cur with
        | some (.taken _ _) => 
          t1.camLineEnd k.val (t1.camSamples k.val rise fall) overflow (parity.map BitVec.toNat)
        | _ => t1.updCam k.val (fun c => { c with cur := none })
      let t3 := t2.updCam k.val (fun c => { c with fval := false })
      match (t3.camOf k.val).frames.getLast? with
      | some f => if f.byFval t3.part k.val then t3.camEndFrame k.val else t3
      | none => t3)) s

/-- R250. -/
def execPclkDetected (k : Fin 6) (s : State) : Out := run (fun s =>
  s.onlyIf (decide (k.val < s.part.cams) && s.levelOf .cam == 2) (fun t =>
    t.wr (pgCAM k.val) CAM_STATUS_PCLK_OK 1)) s

/-- R254–R260: the oldest queued line. -/
def execCamLineDelivered (k : Fin 6) (poisoned : List (BitVec 13)) (ces : Nat) (s : State) : Out :=
  run (fun s =>
  match (s.camOf k.val).queue with
  | [] => s
  | l :: rest =>
    let s1 := s.updCam k.val (fun c => { c with queue := rest })
    match (s1.camOf k.val).frame l.frame with
    | none => s1
    | some f =>
      let folly := s1.follyOn pgBST 2 && (!poisoned.isEmpty || !l.bad.isEmpty) &&
        (s1.follyWord 0x1003500000 0x180000).isSome
      let s0 := if folly then s1.inject pgBST else s1
      let o := s0.camDeliver k.val f l (poisoned.map BitVec.toNat)
      let s2 := (o.1.addSat pgBST (BST_SRAM_CE_N 4) ces).camToLoop k.val l.pos o.2
      if f.ended then s2.camFinish k.val l.frame else s2) s

/-- R260: a frame's header, once its records are in DRAM. -/
def execStoreHeaderWrite (k : Fin 6) (s : State) : Out := run (fun s =>
  match (s.camOf k.val).headers with
  | [] => s
  | (o, bs) :: rest =>
    let s1 := s.updCam k.val (fun c => { c with headers := rest })
    (s1.writeMem 1 ((s1.camOf k.val).storeBase + o) bs).wr (pgCAM k.val) CAM_STORE_LAST_OFS
      (o / 64)) s

/-- `ENABLE` goes to 0 (R251): every open frame is closed as aborted. -/
def State.camDisable (s : State) (k : Nat) : State :=
  let p := pgCAM k
  let s1 := s.updCam k (fun c => { c with wait := [], cur := none, queue := [] })
  let s2 := (s1.camOf k).frames.foldl
    (fun t f => (t.camClose k f.num true).qlpJudge k true) s1
  s2.revote (fun t => (t.wr p UNIT_CTRL_ENABLE 0).setState p 0)

/-- R192, R253: an access to the window; while the bank is SYNCING the fabric holds it. -/
def execCamTblAccess (r : Req) (k : Fin 6) (write : Option Word) (s : State) : Out := run (fun s =>
  let p := pgCAM k.val
  let go (t : State) : State := t.camAccess r k.val write
  match write with
  | some _ => s.access r p 0x0C8 go
  | none => s.readAccess r p go) s

def State.camTblCauses (s : State) (k : Nat) : List (Bool × Nat) :=
  [((s.commitOf (pgCAM k)).isSome, rcCOMMIT_HELD), (s.camBankState k == bkSYNCING, rcWRONG_STATE)]

/-- R261: permitted while disabled, since host software issues it before `ENABLE` (log 64). -/
def execCamLoadDefault (r : Req) (k : Fin 6) (arg : BitVec 16) (s : State) : Out := run (fun s =>
  command r (pgCAM k.val) 0x0001 arg true true (fun t => t.camTblCauses k.val)
    (fun t =>
      let bytes := (List.range camEntries).flatMap camDefault
      (t.store (camBank k.val !(t.camOf k.val).bank) bytes false).setCamBank k.val bkDIRTY) s) s

/-- R261. -/
def execCamRevert (r : Req) (k : Fin 6) (arg : BitVec 16) (s : State) : Out := run (fun s =>
  command r (pgCAM k.val) 0x0002 arg true true (fun t => t.camTblCauses k.val)
    (fun t => t.setCamBank k.val bkSYNCING) s) s

end Sys2Proof.Machine
end

