-- ==== Sys2Proof/Machine/Clocks.lean ====
section
/-! DEFINITION. Commands and events of the clocks: lock, switch-back, hold, loss of lock, reference and
frequency monitors, RELOCK (R57–R65). -/

namespace Sys2Proof.Machine

/-- The cluster whose clock a PLL makes. -/
def clusterOf (n : Nat) : Option Nat := if 2 ≤ n ∧ n < 6 then some (n - 2) else none

/-- A PLL whose failure resets the device (R64). -/
def pllFatal (n : Nat) : Bool := n == 0 || n == 1 || n == 6 || n == 7

/-- While a PLL of an Onlek group or of a port relocks, its lanes report loss of lock and come up again
through their own bring-up (R64). -/
def State.clockGone (s : State) (n : Nat) : State :=
  if 8 ≤ n ∧ n < 12 then
    (List.range 8).foldl
      (fun t i => if (t.onkOf (8 * (n - 8) + i)).up then t.laneLost (8 * (n - 8) + i) 1 else t) s
  else if n = 12 then s.portDark 0 false
  else if n = 13 then s.portDark 1 false
  else s

/-- A relock begins (R62); a cluster's kiosks leave the pool first (R63). -/
def State.relockPll (s : State) (n : Nat) : State :=
  match clusterOf n with
  | some c =>
    let s1 := s.setPll n { s.pll n with phase := .draining }
    (s1.relockOut c true).drainCheck c
  | none => (s.startPll n).clockGone n

/-- The reference of a PLL comes to its ball, or goes (R60). -/
def State.setRef (s : State) (n : Fin 15) (ok : Bool) : State :=
  let t : State := { s with aon := { s.aon with refs := s.aon.refs.set n.val ok } }
  t.showRef n.val

/-- R62: lock is detected, so the reference is present. -/
def execPllLock (n : Fin 15) (s : State) : Out := run (fun s =>
  s.onlyIf ((s.pll n.val).phase == .locking) (fun t =>
    ((t.setPll n.val { t.pll n.val with phase := .locked }).wr pgCLK
      (CLK_PLL_STAT_LOCKED n.val) 1).setRef n true)) s

/-- A RELOCK that waited for the PLL completes. -/
def State.relockDone (s : State) (n : Nat) : State :=
  if (s.pll n).byCmd then
    ((s.setPll n { s.pll n with byCmd := false }).setBusy pgCLK false).raise pgCLK 1
  else s

/-- A rising domain is up once every PLL it waits for runs (R83). -/
def State.domainClocked (s : State) (d : Fin 7) : State :=
  if s.phase d = .locking ∧
      (State.pllsOf d).all (fun n => !s.pllWanted n || (s.pll n).phase == .out) then
    (s.domainUp d).react
  else s

/-- R62, R63, R70: the domains run from the PLL again; CLOCKS ends once PLL_SYS and PLL_SDL do. -/
def execPllSwitchBack (n : Fin 15) (s : State) : Out := run (fun s =>
  s.onlyIf ((s.pll n.val).phase == .locked) (fun t =>
    let t1 := (t.setPll n.val { t.pll n.val with phase := .out }).wr pgCLK
      (CLK_PLL_STAT_BYPASS n.val) 0
    let t2 := match clusterOf n.val with
      | some c => t1.relockOut c false
      | none => t1
    let t3 := (t2.relockDone n.val).domainClocked (pllDom n.val).num
    if t3.stage = 1 ∧ (t3.pll 0).phase = .out ∧ (t3.pll 1).phase = .out then t3.setStage 2 else t3)) s

/-- R62: the PLL stays in bypass. -/
def execBypassHold (n : Fin 15) (s : State) : Out := run (fun s =>
  s.onlyIf ((s.pll n.val).phase == .locking) (fun t =>
    (t.setPll n.val { t.pll n.val with phase := .held }).raise pgCLK 5)) s

/-- What R64 makes of a PLL that runs at a wrong frequency. -/
def State.pllFails (s : State) (n : Nat) : State :=
  if pllFatal n then s.trigger TOP_RESET_CAUSE_PLL_FAULT
  else (s.relockPll n).raise pgCLK 0

/-- What R64 makes of a PLL that lost lock; the event is raised for every PLL (R60, *CLK events*). -/
def State.pllLost (s : State) (n : Nat) : State :=
  if pllFatal n then (s.raise pgCLK 0).trigger TOP_RESET_CAUSE_PLL_FAULT
  else (s.relockPll n).raise pgCLK 0

/-- R59, R64: a stopped or locking PLL has no lock to lose. -/
def execPllUnlock (n : Fin 15) (s : State) : Out := run (fun s =>
  let ph := (s.pll n.val).phase
  s.onlyIf (ph == .locked || ph == .out) (fun t =>
    let t1 := (t.wr pgCLK (CLK_PLL_STAT_LOCKED n.val) 0).incSat pgCLK (CLK_PLL_STAT_UNLOCKS n.val)
    t1.pllLost n.val)) s

/-- R59, R60: a reference disappears, or is back (`lost` false); a stopped PLL shows it and raises nothing. -/
def execRefLoss (n : Fin 15) (lost : Bool) (s : State) : Out := run (fun s =>
  let s1 := s.setRef n (!lost)
  if lost && s.refSensed n.val && (s.pll n.val).phase != .off then s1.raise pgCLK 2 else s1) s

/-- R60, R64: folly 1 makes the measurement of its PLL 1 % high. -/
def execFreqMeasure (n : Fin 15) (khz : Word) (s : State) : Out := run (fun s =>
  s.onlyIf s.aon.xtal (fun t =>
    let hit := t.follyOn pgCLK 1 && t.follyParam pgCLK == n.val
    let t0 := if hit then t.inject pgCLK else t
    let v := if hit then khz.toNat * 101 / 100 else khz.toNat
    let t1 := t0.wr pgCLK (CLK_PLL_FREQ_KHZ n.val) v
    let want := pllKhz n.val (t.pll n.val).target
    let off := 200 * (max v want - min v want)
    if t.bit pgCLK (CLK_PLL_STAT_LOCKED n.val) && (t.pll n.val).phase != .off && decide (want < off) then
      (t1.raise pgCLK 3).pllFails n.val
    else t1)) s

/-- R59, R61, R62: a stopped PLL takes its target and the command completes at once. -/
def execRelock (r : Req) (arg : BitVec 16) (s : State) : Out := run (fun s =>
  let n := arg.toNat
  command r pgCLK 0x0001 arg false false
    (fun t =>
      [(decide (15 ≤ n) || !targetAllowed n (t.rd pgCLK (CLK_PLL_CFG_TARGET n)), rcBAD_ARG),
       (!t.relockPermitted n, rcWRONG_STATE)])
    (fun t =>
      let v := t.rd pgCLK (CLK_PLL_CFG_TARGET n)
      let p := t.pll n
      if p.phase = .off then (t.setPll n { p with target := v, next := v }).raise pgCLK 1
      else ((t.setPll n { p with next := v, byCmd := true }).setBusy pgCLK true).relockPll n) s) s

/-- R66, R69. -/
def execDeviceReset (r : Req) (arg : BitVec 16) (s : State) : Out := run (fun s =>
  command r pgTOP 0x0001 arg false false
    (fun _ => [(arg != 0xD0A5, rcBAD_ARG)])
    (fun t => t.trigger TOP_RESET_CAUSE_CMD) s) s

end Sys2Proof.Machine
end

