-- ==== Sys2Proof/Machine/Firing.lean ====
section
/-! DEFINITION. Commands and events of the firing block and the strobe watchdog (R200–R218). -/

namespace Sys2Proof.Machine

/-- R209: the first train that waits starts 40 ns after the last falling edge of the one before it. -/
def execTrainDeferredStart (h : Fin 32) (s : State) : Out := run (fun s =>
  let f := s.firOf h.val
  match f.deferred with
  | [] => s
  | t :: rest =>
    s.onlyIf (decide (f.lastFall ≤ 4 * (s.now : Int))) (fun u =>
      let base := (f.lastFall + 160).toNat
      let at' := { t with edge := ((base % 4 : Nat) : Int) }
      let v := (u.updFir h.val (fun x => { x with deferred := rest })).startTrain h.val (base / 4) at'
      if v.isCut h.val || v.aon.xtalCut || v.aon.onRc then v.trainHeld h.val t.line else v)) s

/-- A completed sample of a channel as a head takes it: on the channel that `RAIL` names, folly 3 puts its own
value in its place. -/
def State.headSample (s : State) (c h : Nat) : State :=
  let p := pgFIR h
  let old := fun (u : State) =>
    u.updFir h (fun x => { x with sample := x.sample.filter (fun e => e.1 != c) })
  if s.rd p FIR_CFG_RAIL = c ∧ s.follyOn p 3 then
    let mv := s.follyParam p
    (s.inject p).updFir h (fun x => { x with sample := some (c, mv) })
  else old s

/-- R206: an unreadable channel leaves the last sample to age. -/
def execRailSample (c : Fin 4) (mv : Option (BitVec 16)) (s : State) : Out := run (fun s =>
  match mv with
  | none => s
  | some v =>
    s.onlyIf (s.levelOf .print == 2) (fun t =>
      let at' := some t.now
      let t1 : State := { t with railAt := t.railAt.set c.val at' }
      (List.range t1.part.heads).foldl (fun u h => u.headSample c.val h)
        (t1.wr pgFIRroot (FIR_RAIL_MV c.val) v.toNat))) s

/-- The watchdog judges only on the crystal's clock (R216). -/
def State.watchdog (s : State) (h : Nat) : Bool :=
  decide (h < s.part.heads) && s.aon.xtal && !s.aon.xtalCut && !s.aon.onRc

/-- The generator's output is, or within the last 80 ns was, high for the stuck limit (R211). -/
def State.stuckHigh (s : State) (h : Nat) : Bool :=
  let limit := 4 * s.maxHighNs h
  (s.firOf h).gen.any (fun p =>
    decide (p.1 + limit ≤ p.2) && decide (p.1 + limit ≤ 4 * s.now) && decide (4 * s.now ≤ p.2 + 320))

/-- R211, R213. -/
def execStuckStrobeCut (h : Fin 32) (s : State) : Out := run (fun s =>
  s.onlyIf (s.watchdog h.val && s.stuckHigh h.val) (fun t => (t.qlpCut h.val).cutHead h.val 1)) s

/-- The whole µs since the last judgement, at most 1,000 and one where there was none. -/
def State.binsDue (s : State) (h : Nat) : Nat :=
  match (s.firOf h).judgedAt with
  | none => 1
  | some t => min ((s.now - t) / 1000) 1000

/-- The bins of the whole µs since the last judgement join those kept (R212). -/
def State.takeBins (s : State) (h n : Nat) : State :=
  let upto := match (s.firOf h).judgedAt with
    | none => s.now
    | some t => t + (s.now - t) / 1000 * 1000
  let new := (List.range n).map (fun i => s.fireSteps h (upto - 1000 * (i + 1)) (upto - 1000 * i))
  s.updFir h (fun x =>
    { x with bins := (new ++ x.bins).take 1000, judgedAt := some upto,
             fires := x.fires.filter (fun e => decide (4 * s.now < e.2 + 24000)) })

/-- The sum of the last 1,000 µs is judged, with `more` steps on top of it: a cut where it has passed the
limit (R212, R213). -/
def State.judgeDuty (s : State) (h was more : Nat) : State :=
  let sum := (s.firOf h).duty + more
  let s1 := s.wr (pgFIR h) FIR_DUTY_PERMILLE (min (sum / 4000) 1000)
  let limit := 4 * s1.dutyNs h
  if limit < sum ∧ (was ≤ limit ∨ !s1.isCut h) then (s1.qlpCut h).cutHead h 2 else s1

/-- R212, R213: at most once in a µs. -/
def execDutyJudge (h : Fin 32) (s : State) : Out := run (fun s =>
  let p := pgFIR h.val
  let n := s.binsDue h.val
  s.onlyIf (s.watchdog h.val && decide (0 < n)) (fun t =>
    let was := (t.firOf h.val).duty
    let t1 := t.takeBins h.val n
    if t1.follyOn p 2 then (t1.inject p).judgeDuty h.val was (4000 * t1.follyParam p)
    else t1.judgeDuty h.val was 0)) s

/-- Heads that a REARM argument names. -/
def State.rearmHeads (s : State) (arg : Nat) : List Nat :=
  if arg = 0xFF then (List.range s.part.heads).filter s.isCut else [arg]

/-- R214. -/
def execRearm (r : Req) (arg : BitVec 16) (s : State) : Out := run (fun s =>
  command r pgFIRroot 0x0001 arg false false
    (fun t =>
      let hs := t.rearmHeads arg.toNat
      [(decide (t.part.heads ≤ arg.toNat) && arg != 0x00FF, rcBAD_ARG),
       (hs.isEmpty || hs.any (fun h => !t.isCut h), rcWRONG_STATE),
       (!t.aon.estop, rcWRONG_STATE),
       (hs.any (fun h => t.genHigh h || decide (4 * t.dutyNs h ≤ (t.firOf h).duty)), rcWRONG_STATE)])
    (fun t =>
      (t.rearmHeads arg.toNat).foldl
        (fun u h => u.updFir h (fun x => { x with rearm := true })) t) s) s

end Sys2Proof.Machine
end

