-- ==== Sys2Proof/Machine/Onlek.lean ====
section
/-! DEFINITION. Commands and events of the Onlek lanes, the head-table transaction, the alert lines and
the management buses (R220–R242). -/

namespace Sys2Proof.Machine

/-! ### Return traffic -/

/-- R223, R224: the line's frame is sent once more where both margins hold, else the line is not sent. -/
def execOnkNak (h : Fin 32) (tag : Byte) (s : State) : Out := run (fun s =>
  let p := pgONK h.val
  s.onlyIf (s.laneUp h.val) (fun t =>
    let t1 := (t.incSat p ONK_ERRS_CRC).blockErr h.val
    match (t1.onkOf h.val).flight.find?
        (fun f => f.framed && decide (f.line % 256 = tag.toNat)) with
    | none => t1
    | some f =>
      let put := fun (u : State) (g : Flight) =>
        u.updOnk h.val (fun x =>
          { x with flight := x.flight.map (fun e => if e.line == f.line then g else e) })
      if f.ok && !f.retried && t1.retryFits h.val f then
        let fin := t1.frameEnd h.val (f.levels.getD []).length 0
        let t2 := (put t1 { f with retried := true, due := fin }).updOnk h.val
          (fun x => { x with wire := fin })
        (t2.sendLine h.val f.line (f.levels.getD []) f.sync).incSat p ONK_EMPTY_RETRIES
      else put t1 { f with naked := true })) s

/-- The oldest report that is awaited is taken. -/
def State.takeReport (s : State) (h : Nat) : State × Option Nat :=
  match (s.onkOf h).reports with
  | [] => (s, none)
  | l :: rest => (s.updOnk h (fun x => { x with reports := rest }), some l)

/-- R228. -/
def execTrainReport (h : Fin 32) (tag expect : Byte) (empty unsynced : Bool) (s : State) : Out :=
  run (fun s =>
    let p := pgONK h.val
    s.onlyIf (s.laneUp h.val) (fun t =>
      let t1 := (t.wr p ONK_TAG_FIRED tag.toNat).wr p ONK_TAG_EXPECT expect.toNat
      let r := t1.takeReport h.val
      match r.2 with
      | none => r.1
      | some line =>
        if line % 256 ≠ expect.toNat ∨ (unsynced ∧ t1.bit p ONK_STATUS_SYNCED) then
          (r.1.qlpVoid h.val line).tagMismatch h.val
        else if empty then ((r.1.qlpVoid h.val line).incSat p ONK_EMPTY_N).blockErr h.val
        else r.1)) s

/-- R228: a report that is missing is a mismatch. -/
def execTrainReportTimeout (h : Fin 32) (s : State) : Out := run (fun s =>
  let r := s.takeReport h.val
  match r.2 with
  | none => s
  | some line => (r.1.qlpVoid h.val line).tagMismatch h.val) s

/-- R206, R232: folly 5 discards the block; `TEST` and far-end loopback do not. -/
def execTempBlock (h : Fin 32) (temp : BitVec 16) (s : State) : Out := run (fun s =>
  let p := pgONK h.val
  s.onlyIf (s.laneHears h.val && !s.follyOn p 5) (fun t =>
    let t1 := (t.wr (pgFIR h.val) FIR_TEMP_TEMP temp.toNat).wr p ONK_STATUS_RET_LATE 0
    let valid := t1.enabled (pgFIR h.val)
    t1.updFir h.val (fun f =>
      { f with tempAt := some t1.now, tValid := f.tValid || valid }))) s

/-- R232. -/
def execReturnTimeout (h : Fin 32) (s : State) : Out := run (fun s =>
  let p := pgONK h.val
  s.onlyIf (s.printRuns && s.bit p UNIT_CTRL_ENABLE && !s.bit p ONK_STATUS_RET_LATE) (fun t =>
    (t.wr p ONK_STATUS_RET_LATE 1).raise p 4)) s

/-- R232, R238. -/
def execStatusBlock (h : Fin 32) (status : BitVec 16) (s : State) : Out := run (fun s =>
  s.onlyIf (s.laneHears h.val) (fun t =>
    ((t.wr (pgONK h.val) ONK_HEAD_STAT_STATUS status.toNat).updOnk h.val
      (fun x => { x with statAt := some t.now })).statusBack h.val)) s

/-- A STAGE_ACK of a head that the transaction awaits; the last good one passes the point of no return
(R234, R235). -/
def State.stageAck (s : State) (h result : Nat) (t : TableTx) : State :=
  if result ≠ 0 then s.txAbort [(h, if result = 1 then 2 else 3)]
  else
    let t1 := { t with acked := t.acked ++ [h] }
    let s1 : State := { s with tx := some t1 }
    let s2 := s1.stageResult h 1
    if (headsOf t.mask).all (fun g => t1.acked.contains g) then s2.txGo t1 else s2

/-- R234, R235. -/
def execStageAck (h : Fin 32) (table result : Byte) (s : State) : Out := run (fun s =>
  match s.tx with
  | none => s
  | some t =>
    s.onlyIf (s.laneUp h.val && s.rd pgONKroot UNIT_STATUS_STATE == 1 &&
        (headsOf t.mask).contains h.val && decide (t.table = table.toNat) &&
        !t.acked.contains h.val) (fun u =>
      u.atFolly (pgONK h.val) 6 (fun v => v.stageAck h.val 1 t)
        (fun v => v.stageAck h.val result.toNat t))) s

/-- R235. -/
def execStageAckTimeout (h : Fin 32) (s : State) : Out := run (fun s =>
  match s.tx with
  | none => s
  | some t =>
    s.onlyIf (s.rd pgONKroot UNIT_STATUS_STATE == 1 && (headsOf t.mask).contains h.val &&
      !t.acked.contains h.val) (fun u => u.txAbort [(h.val, 4)])) s

/-- R236. -/
def execCommitAck (h : Fin 32) (table result : Byte) (s : State) : Out := run (fun s =>
  s.onlyIf (s.laneUp h.val && (s.onkOf h.val).acking == some table.toNat) (fun t =>
    let t1 := t.updOnk h.val (fun x => { x with acking := none })
    let t2 := if result = 3 then t1.stageFail h.val 6 else t1.txMark ONK_TX_OK_HEADS h.val
    t2.txOwed h.val)) s

/-- R233. -/
def execReadResp (h : Fin 32) (num result : Byte) (data : List Word) (s : State) : Out := run (fun s =>
  match (s.onkOf h.val).read with
  | none => s
  | some (n, _) =>
    s.onlyIf (s.laneUp h.val && n == num) (fun t =>
      if result = 0 then
        let t1 := (data.take 512).foldl
          (fun (x : State × Nat) w => (x.1.setWord (pgONK h.val) (0x800 + 4 * x.2) w, x.2 + 1)) (t, 0)
        t1.1.readEnd h.val ONK_RD_STAT_DONE
      else t.readEnd h.val ONK_RD_STAT_FAIL)) s

/-- R233. -/
def execReadTimeout (h : Fin 32) (s : State) : Out := run (fun s =>
  s.onlyIf (s.onkOf h.val).read.isSome (fun t => t.readEnd h.val ONK_RD_STAT_FAIL)) s

/-! ### The lane (R220, R229, R231) -/

/-- R229, R227. -/
def execLaneUp (h : Fin 32) (s : State) : Out := run (fun s =>
  let p := pgONK h.val
  s.onlyIf (decide (h.val < s.part.heads) && s.bit p UNIT_CTRL_ENABLE && s.levelOf .print == 2 &&
      s.pllLocked (8 + h.val / 8) && !(s.onkOf h.val).up && !s.follyOn p 1) (fun t =>
    ((t.wr p ONK_STATUS_LOS_NOW 0).updOnk h.val
      (fun x => { x with up := true, resync := true, prbs := none })).sendOwed h.val)) s

/-- The receiver loses its signal. -/
def State.laneDark (s : State) (h : Nat) : State :=
  let s1 := s.wr (pgONK h) ONK_STATUS_LOS_NOW 1
  if (s1.onkOf h).up then s1.laneLost h 0 else s1

/-- R21, R229: with PRINT off the receiver is disconnected. -/
def execLaneLos (h : Fin 32) (s : State) : Out := run (fun s =>
  s.onlyIf (s.padsOn .print && s.enabled (pgONK h.val)) (fun t => t.laneDark h.val)) s

/-- R21, R229. -/
def execLaneLol (h : Fin 32) (s : State) : Out := run (fun s =>
  s.onlyIf (s.padsOn .print && (s.onkOf h.val).up) (fun t => t.laneLost h.val 1)) s

/-- `ENABLE` goes to 1 (R229, R241). -/
def State.onkOn (s : State) (h : Nat) : State :=
  let p := pgONK h
  let v := s.rd p ONK_CFG_LEAD
  let s1 := (s.wr p UNIT_CTRL_ENABLE 1).updOnk h
    (fun x => { x with lead := if v = 1 then 1 else 2, up := false, resync := true })
  s1.laneClocks

/-- `ENABLE` goes to 0. -/
def State.onkOff (s : State) (h : Nat) : State :=
  let s1 := (s.laneGone h).failFlights h true
  (s1.wr (pgONK h) UNIT_CTRL_ENABLE 0).laneClocks

/-- R229, R241. -/
def execOnkEnable (r : Req) (h : Fin 32) (s : State) : Out := run (fun s =>
  s.access r (pgONK h.val) 0x00C (fun t =>
    if t.bit (pgONK h.val) UNIT_CTRL_ENABLE then t
    else if !t.ready then t.dropWrite r (pgONK h.val) 0x00C
    else t.onkOn h.val)) s

/-- A block error is counted. -/
def State.badBlocks (s : State) (h n : Nat) : State := (s.addSat (pgONK h) ONK_ERRS_BLOCK n).blockErr h

/-- R220, R231: folly 2 spoils the headers of this block and those after it; 16 lose the lock. -/
def execOnkRxBlock (h : Fin 32) (hdr : BitVec 2) (payload : BitVec 64) (s : State) : Out := run (fun s =>
  let p := pgONK h.val
  s.onlyIf (s.enabled p && (s.onkOf h.val).up) (fun t =>
    let type := payload.toNat % 256
    if t.follyOn p 2 then
      let n := t.follyParam p
      let t1 := (t.inject p).badBlocks h.val n
      if 16 ≤ n then t1.laneLost h.val 1 else t1
    else
    let loop := t.rd p ONK_CFG_LOOP
    if loop = 1 ∨ loop = 2 then t
    else if t.bit p ONK_CFG_TEST then
      let u := if loop = 3 then t.emit (.onkEcho h.val hdr payload) else t
      (if hdr = 1 then u.prbsBlock h.val payload
       else if hdr = 2 then u else u.badBlocks h.val 1)
    else if loop = 3 then t.emit (.onkEcho h.val hdr payload)
    else if hdr = 2 ∧ (type = 0 ∨ (0x40 ≤ type ∧ type ≤ 0x46)) then t
    else t.badBlocks h.val 1)) s

/-! ### Commands of a lane (R241) -/

/-- R233. -/
def execOnkRead (r : Req) (h : Fin 32) (arg : BitVec 16) (s : State) : Out := run (fun s =>
  let p := pgONK h.val
  command r p 0x0001 arg false false
    (fun t => [(!t.laneUp h.val, rcWRONG_STATE),
               (arg == 0 || decide (256 < arg.toNat), rcBAD_ARG)])
    (fun t =>
      let n := (t.onkOf h.val).nextReq
      let t1 := t.sendBlock h.val 0x24
        ([n] ++ leBytes 2 arg.toNat ++ leBytes 4 (t.rd p ONK_RD_ADDR_ADDR)) []
      (t1.updOnk h.val (fun x => { x with read := some (n, arg.toNat), nextReq := n + 1 })).setBusy p
        true) s) s

/-- R228. -/
def execOnkFlush (r : Req) (h : Fin 32) (arg : BitVec 16) (s : State) : Out := run (fun s =>
  command r (pgONK h.val) 0x0002 arg true false
    (fun t => [(!t.laneUp h.val, rcWRONG_STATE)]) (fun t => t.flush h.val) s) s

/-- R231. -/
def execHeadLoop (r : Req) (h : Fin 32) (arg : BitVec 16) (s : State) : Out := run (fun s =>
  command r (pgONK h.val) 0x0003 arg false false
    (fun t => [(!t.laneUp h.val, rcWRONG_STATE), (decide (1 < arg.toNat), rcBAD_ARG)])
    (fun t => t.sendBlock h.val 0x26 [BitVec.ofNat 8 arg.toNat] []) s) s

/-! ### Commands of the root (R234–R242) -/

/-- R234, R242: BUSY unless IDLE. -/
def execStage (r : Req) (arg : BitVec 16) (s : State) : Out := run (fun s =>
  command r pgONKroot 0x0001 arg true false
    (fun t => [(t.rd pgONKroot UNIT_STATUS_STATE != 0, rcBUSY), (t.stageBad, rcBAD_ARG)])
    (fun t =>
      let mask := t.rd pgONKroot ONK_TX_MASK_HEADS
      let table := t.rd pgONKroot ONK_TX_CFG_TABLE
      let tx : TableTx :=
        { mask := mask, table := table, atPage := t.bit pgONKroot ONK_TX_CFG_AT_PAGE,
          told := (headsOf mask).filter t.laneUp, acked := [], owing := [] }
      let t1 := ((t.wr pgONKroot ONK_TX_OK_HEADS 0).wr pgONKroot ONK_TX_FAIL_HEADS 0).wr pgONKroot
        ONK_TX_LATE_HEADS 0
      let t2 := (headsOf mask).foldl
        (fun u h =>
          let u1 := u.stageResult h 0
          if u1.laneUp h then u1.sendTable h table else u1) t1
      ({ t2 with tx := some tx } : State).setState pgONKroot 1) s) s

/-- R235, R242. -/
def execOnkAbort (r : Req) (arg : BitVec 16) (s : State) : Out := run (fun s =>
  command r pgONKroot 0x0002 arg true false
    (fun t => [(t.rd pgONKroot UNIT_STATUS_STATE != 1, rcWRONG_STATE)]) (fun t => t.txAbort []) s) s

/-- R238. -/
def execUnmaskAlert (r : Req) (arg : BitVec 16) (s : State) : Out := run (fun s =>
  command r pgONKroot 0x0003 arg false false
    (fun t =>
      let quiet := if hj : arg.toNat < 8 then
          (match (t.alertOf ⟨arg.toNat, hj⟩).highAt with
           | some a => decide (a + 10000000 ≤ t.now)
           | none => false)
        else false
      [(decide (7 < arg.toNat) || (t.alertHeads arg.toNat).isEmpty, rcBAD_ARG),
       (!quiet, rcWRONG_STATE)])
    (fun t => t.setAlertBit ONK_ALERT_MASKED arg.toNat false) s) s

/-- The bytes a bus writes. -/
def State.mbusBytes (s : State) (m n : Nat) : List Byte :=
  (leBytes 4 (s.rd pgONKroot (ONK_MBUS_DATA0_DATA m)) ++
    leBytes 4 (s.rd pgONKroot (ONK_MBUS_DATA1_DATA m))).take n

/-- R239, R242; a length outside 1 to 8 is a block register out of range (R43). -/
def execMbusXfer (r : Req) (arg : BitVec 16) (sdaLow sdaHigh : Bool) (s : State) : Out := run (fun s =>
  let m := arg.toNat
  command r pgONKroot 0x0004 arg false false
    (fun t =>
      let n := t.rd pgONKroot (ONK_MBUS_XFER_LEN m)
      [(!t.busServes m, rcBAD_ARG), (t.bit pgONKroot (ONK_MBUS_STAT_BUSY m), rcBUSY),
       (t.bit pgONKroot (ONK_MBUS_STAT_DEAD m), rcWRONG_STATE),
       (n == 0 || decide (8 < n), rcBAD_ARG)])
    (fun t =>
      let c := t.sdaCheck m sdaLow sdaHigh
      if c.2 then
        let n := t.rd pgONKroot (ONK_MBUS_XFER_LEN m)
        let rd := t.bit pgONKroot (ONK_MBUS_XFER_RD m)
        let t1 := (c.1.wr pgONKroot (ONK_MBUS_STAT_BUSY m) 1).wr pgONKroot (ONK_MBUS_STAT_NAK m) 0
        t1.emit (.i2c m (t.rd pgONKroot (ONK_MBUS_XFER_DEV m)) rd
          (if rd then [] else t.mbusBytes m n) n)
      else c.1) s) s

/-- R239. -/
def execMbusXferDone (m : Fin 4) (nak : Bool) (data : List Byte) (s : State) : Out := run (fun s =>
  s.onlyIf (s.bit pgONKroot (ONK_MBUS_STAT_BUSY m.val)) (fun t =>
    let t1 := (t.wr pgONKroot (ONK_MBUS_STAT_BUSY m.val) 0).wrBit pgONKroot (ONK_MBUS_STAT_NAK m.val) nak
    if nak || !t1.bit pgONKroot (ONK_MBUS_XFER_RD m.val) then t1
    else
      let n := t1.rd pgONKroot (ONK_MBUS_XFER_LEN m.val)
      let all := data.take n ++ (t1.mbusBytes m.val 8).drop (min n data.length)
      (t1.wr pgONKroot (ONK_MBUS_DATA0_DATA m.val) (ofLe (all.take 4))).wr pgONKroot
        (ONK_MBUS_DATA1_DATA m.val) (ofLe ((all.drop 4).take 4)))) s

/-- R239. -/
def execMbusSclTimeout (m : Fin 4) (sdaLow sdaHigh : Bool) (s : State) : Out := run (fun s =>
  s.onlyIf (s.bit pgONKroot (ONK_MBUS_STAT_BUSY m.val)) (fun t =>
    ((t.wr pgONKroot (ONK_MBUS_STAT_BUSY m.val) 0).sdaCheck m.val sdaLow sdaHigh).1)) s

/-- R239, R242. -/
def execMbusRecover (r : Req) (arg : BitVec 16) (sdaHigh : Bool) (s : State) : Out := run (fun s =>
  let m := arg.toNat
  command r pgONKroot 0x0005 arg false false
    (fun t => [(!t.busServes m, rcBAD_ARG), (t.bit pgONKroot (ONK_MBUS_STAT_BUSY m), rcBUSY)])
    (fun t =>
      let t1 := t.emit (.i2cClocks m)
      if sdaHigh then t1.wr pgONKroot (ONK_MBUS_STAT_DEAD m) 0 else t1) s) s

/-! ### Alert lines (R238) -/

/-- R238: a falling edge; unmasked, STATUS_REQ goes out. -/
def execHdAlertFall (j : Fin 8) (s : State) : Out := run (fun s =>
  s.onlyIf (!(s.alertHeads j.val).isEmpty && s.levelOf .print == 2 && !s.alertBit ONK_ALERT_LOW j.val)
    (fun t =>
      let t1 := (t.setAlertBit ONK_ALERT_LOW j.val true).updAlert j (fun a => { a with highAt := none })
      if t1.alertBit ONK_ALERT_MASKED j.val then t1 else t1.statusReqs j)) s

/-- R238. -/
def execAlertRepeat (j : Fin 8) (s : State) : Out := run (fun s =>
  s.onlyIf (s.alertBit ONK_ALERT_LOW j.val || s.alertBit ONK_ALERT_MASKED j.val)
    (fun t => t.statusReqs j)) s

/-- R238, R240. -/
def execAlertStuck (j : Fin 8) (s : State) : Out := run (fun s =>
  s.onlyIf (s.alertBit ONK_ALERT_LOW j.val && !s.alertBit ONK_ALERT_MASKED j.val) (fun t =>
    (t.setAlertBit ONK_ALERT_MASKED j.val true).raiseD pgMON 4 j.val)) s

end Sys2Proof.Machine
end

