-- ==== Sys2Proof/Machine/Follies.lean ====
section
/-! DEFINITION. Arming and disarming follies, and the ends of their windows and marked times (R379,
R380, R45). -/

namespace Sys2Proof.Machine

/-- A page of a checked block (R367). -/
def checkedKind : Kind → Bool
  | .sdl | .fir | .trl | .cam => true
  | _ => false

/-- The range of `PARAM` of a folly that is defined for a kind (R380, table *Follies of GTH and FSH*). -/
def follyRange (part : Part) (kd : Kind) (num : Nat) : Option (Nat → Bool) :=
  let any : Nat → Bool := fun _ => true
  let zero : Nat → Bool := fun v => v == 0
  let upTo : Nat → Nat → Bool := fun hi v => decide (1 ≤ v) && decide (v ≤ hi)
  match kd, num with
  | .fir, 1 => some (upTo 7)
  | .fir, 2 => some (upTo 1000)
  | .fir, 3 => some any
  | .fir, 4 => some zero
  | .onk, 1 => some (upTo 65535)
  | .onk, 2 => some (upTo 64)
  | .onk, 3 => some zero
  | .onk, 4 => some zero
  | .onk, 5 => some (upTo 65535)
  | .onk, 6 => some zero
  | .hsc, 1 => some zero
  | .hsc, 2 => some zero
  | .trl, 1 => some zero
  | .ksk, 1 => some any
  | .ksk, 2 => some zero
  | .ksk, 3 => some zero
  | .enc, 1 => some (upTo 65535)
  | .enc, 2 => some any
  | .enc, 3 => some zero
  | .stm, 1 => some zero
  | .cam, 1 => some (upTo 8191)
  | .cam, 2 => some zero
  | .cam, 3 => some zero
  | .dram, 1 => some (fun v => decide (v % 64 < 40) && decide (v < 2048))
  | .dram, 2 => some (fun v => decide (v % 64 < 40) && decide (v < 2048))
  | .dram, 3 => some zero
  | .net, 1 => some (upTo 65535)
  | .net, 2 => some (upTo 255)
  | .net, 3 => some zero
  | .clk, 1 => some (fun v => decide (2 ≤ v) && decide (v ≤ 13))
  | .pwr, 1 => some (fun v => decide (v ≤ 7))
  | .mon, 1 => some zero
  | .gkp, 1 => some zero
  | .gkp, 2 => some zero
  | .wrd, 1 => some zero
  | .bst, 1 => some (fun v => decide (v ≤ 4095))
  | .bst, 2 => some (fun v => decide (v ≤ 4095))
  | .bst, 3 => some (fun v => match kindOf part v with
    | some k => checkedKind k
    | none => false)
  | .axis, 1 => some any
  | .axis, 2 => some zero
  | .fnt, 1 => some (upTo 65535)
  | .gth, 1 => some zero
  | .gth, 2 => some zero
  | .fsh, 1 => some zero
  | .fsh, 2 => some zero
  | _, _ => none

/-- Follies whose `PARAM` is a duration (R379). -/
def durationFolly (kd : Kind) (num : Nat) : Bool :=
  (kd == .enc && num == 1) || (kd == .onk && (num == 1 || num == 5)) || (kd == .net && num == 1) ||
    (kd == .fnt && num == 1)

/-- What a folly does as it is armed: a lane or a port loses its signal. -/
def State.follyBegins (s : State) (page : Nat) : State :=
  match s.unit page with
  | some (.onk, h) => if s.follyOn page 1 && s.enabled page then s.laneDark h else s
  | some (.net, p) =>
    if h : p < 2 then (if s.follyOn page 1 then s.portDark ⟨p, h⟩ true else s) else s
  | _ => s

/-- An armed folly's injection ends at once, and it disarms (R379). -/
def State.follyOff (s : State) (page : Nat) : State :=
  let s1 := match s.unit page with
    | some (.fir, h) =>
      if s.follyOn page 1 then
        (s.padStops h).updFir h (fun f => { f with gen := clipAt (4 * s.now) f.gen })
      else s
    | _ => s
  s1.disarm page

/-- The causes of R379, in their order. -/
def State.armCause (s : State) (page : Nat) : Nat :=
  let range := match s.kind page with
    | some kd => follyRange s.part kd (s.rd page UNIT_INJECT_FOLLY)
    | none => none
  let bad := match range with
    | some f => !f (s.rd page UNIT_INJECT_PARAM)
    | none => false
  firstCause
    [(!s.bit pgGTH GTH_PERMIT_INJECT, rcNOT_PERMITTED), (range.isNone, rcUNKNOWN),
     ((s.armedFolly page).isSome, rcBUSY), (bad, rcBAD_ARG)]

/-- Arm the folly of `UNIT_INJECT`; a duration folly's first window begins (R379, R380). -/
def State.armFolly (s : State) (page : Nat) : State :=
  let num := s.rd page UNIT_INJECT_FOLLY
  let lasts := match s.kind page with
    | some kd => durationFolly kd num
    | none => false
  let f : Folly := { num := num, param := s.rd page UNIT_INJECT_PARAM, armed := true,
                     lastInj := if lasts then some s.now else none, window := lasts,
                     parts := 0 }
  ({ s with follies := s.follies ++ [(page, f)] }).follyBegins page

/-- A write of `UNIT_INJECT_ARM` with `DISARM` = 0 as the page takes it (R45, R379). -/
def State.writeArm (s : State) (r : Req) (page key : Nat) : State :=
  if key ≠ 0xF011 then s.dropWrite r page 0x034
  else
    let cause := s.armCause page
    if cause = 0 then (s.setResult r page 0xFFFF (s.stateCode page) 0).armFolly page
    else s.refuse r page 0x034 0xFFFF cause

/-- R379: one window of `PARAM` is one occasion. -/
def execFollyWindowEnd (page : BitVec 12) (s : State) : Out := run (fun s =>
  match s.armedFolly page.toNat with
  | some f => if f.window then s.inject page.toNat else s
  | none => s) s

/-- R380: 10 s after the last injection of a disarmed folly. -/
def execFollyMarkEnd (page : BitVec 12) (s : State) : Out := run (fun s =>
  { s with follies := s.follies.filter (fun e => e.1 != page.toNat || e.2.armed) }) s

end Sys2Proof.Machine
end

