-- ==== Sys2Proof/Machine/Gatehouse.lean ====
section
/-! DEFINITION. Commands and events of the Gatehouse: stream keys, unlock, zeroisation, the injection
permit and the version floor (R410–R415). -/

namespace Sys2Proof.Machine

def State.setGth (s : State) (g : Gth → Gth) : State := { s with gth := g s.gth }

/-! ### Stream keys (R410) -/

/-- `n` words of the GTH page from an offset on, as bytes. -/
def State.gthBytes (s : State) (off n : Nat) : List Byte :=
  (List.range n).flatMap (fun j => leBytes 4 (s.word pgGTH (off + 4 * j)).toNat)

/-- Put a key into a slot, or empty it; when the slot last authenticated a fragment stays known (R410). -/
def State.setKey (s : State) (n : Nat) (k : Option StreamKey) : State :=
  if h : n < 8 then
    let m := s.rd pgGTH GTH_KEY_STAT_LOADED
    let rest := if m / 2 ^ n % 2 = 1 then m - 2 ^ n else m
    let keys := s.gth.keys.set n k
    (s.setGth (fun g => { g with keys := keys })).wr pgGTH GTH_KEY_STAT_LOADED
      (if k.isSome then rest + 2 ^ n else rest)
  else s

/-- The slot authenticated a fragment in the last 100 ms. -/
def State.keyBusy (s : State) (n : Nat) : Bool :=
  match (s.gth.usedAt.toList[n]?).getD none with
  | some t => decide (s.now - t < 100000000)
  | none => false

/-- The blob is rejected whole: 2 integrity, 3 bad point, 4 binding. -/
def State.keyReject (s : State) (result : Nat) : State :=
  (s.wr pgGTH GTH_KEY_STAT_RESULT result).raise pgGTH 0

/-- The device's identity, 16 bytes (R415). -/
def devIdBytes : List Byte := (List.range 4).flatMap (fun j => leBytes 4 (Config.devId j).toNat)

/-- The key-encryption key of an ephemeral point (R410). -/
def wrapKey (point : List Byte) : List Byte :=
  (hkdf384 devIdBytes (ecdhX Config.devPriv (readPoint point))
    ("Troqueter key wrap".toList.map (fun c => BitVec.ofNat 8 c.toNat))).take 32

/-- LOAD_KEY's effect on slot `n`; folly 1 fails the unwrap, and so does a private key that is blocked
(R412). -/
def State.loadKey (s : State) (n : Nat) : State :=
  let blob := (s.gthBytes 0x0C0 38).take 152
  let point := blob.take 97
  if (readPoint point).isNone then s.keyReject 3
  else if s.follyOn pgGTH 1 then (s.inject pgGTH).keyReject 2
  else if s.gth.blocked then s.keyReject 2
  else
    match kwOpen (wrapKey point) (blob.drop 104) with
    | none => s.keyReject 2
    | some key =>
      if key[36]? = some (BitVec.ofNat 8 (n / 2)) ∧ key[37]? = some (BitVec.ofNat 8 (n % 2)) then
        (s.setKey n (some { key := key.take 32, salt := (key.drop 32).take 4 })).wr pgGTH
          GTH_KEY_STAT_RESULT 1
      else s.keyReject 4

/-- R410. -/
def execLoadKey (r : Req) (arg : BitVec 16) (s : State) : Out := run (fun s =>
  command r pgGTH 0x0001 arg false false
    (fun t =>
      [(decide (7 < arg.toNat), rcBAD_ARG),
       (t.keyBusy arg.toNat || t.bit pgGTH GTH_PERMIT_SCAN, rcWRONG_STATE)])
    (fun t => t.loadKey arg.toNat) s) s

/-- R410, R415. -/
def execClearKey (r : Req) (arg : BitVec 16) (s : State) : Out := run (fun s =>
  command r pgGTH 0x0002 arg false false
    (fun _ => [(decide (7 < arg.toNat), rcBAD_ARG)])
    (fun t => t.setKey arg.toNat none) s) s

/-! ### Unlock and zeroisation (R411, R412) -/

/-- R411: a fresh nonce of 48 bytes. -/
def execChallenge (r : Req) (arg : BitVec 16) (s : State) : Out := run (fun s =>
  command r pgGTH 0x0003 arg true false
    (fun t => [(t.gth.locked, rcNO_RESOURCE)])
    (fun t =>
      let t1 := (List.range 12).foldl
        (fun u j => (u.draw).wr pgGTH (GTH_NONCE_NONCE j) (Config.nonce u.free).toNat) t
      t1.setGth (fun g => { g with nonce := true })) s) s

/-- The message whose digest the response signs: nonce, identity, scope. -/
def State.unlockMessage (s : State) (scope : Nat) : List Byte :=
  s.gthBytes 0x170 12 ++ devIdBytes ++ leBytes 4 scope

/-- A failed UNLOCK: the third in a row locks CHALLENGE. -/
def State.unlockFails (s : State) : State :=
  let n := s.gth.failed + 1
  ((s.setGth (fun g => { g with failed := if n = 3 then 0 else n, locked := g.locked || n == 3 })).incSat
    pgGTH GTH_UNLOCK_FAILS_N).raise pgGTH 1

/-- Zeroisation begins: keys, working memory and the private key are gone (R412). -/
def State.zeroize (s : State) : State :=
  let s1 := s.setGth (fun g =>
    { g with keys := Vector.replicate 8 none, blocked := true })
  let s2 := ((List.range 38).foldl (fun t j => t.wr pgGTH (GTH_BLOB_DATA j) 0) s1)
  (s2.wr pgGTH GTH_KEY_STAT_LOADED 0).setState pgGTH 3

/-- A successful UNLOCK (R412). -/
def State.unlocked (s : State) (scope : Nat) : State :=
  let s1 := s.setGth (fun g => { g with failed := 0 })
  if scope = 1 then
    let s2 := s1.wr pgGTH GTH_PERMIT_INJECT 1
    if s2.rd pgGTH UNIT_STATUS_STATE = 1 then s2.setState pgGTH 2 else s2
  else s1.zeroize

/-- A stream runs or SDL is enabled. -/
def State.printing (s : State) : Bool :=
  [0, 1, 2, 3].any (fun i => s.rd (pgSTM i) UNIT_STATUS_STATE == 2) || s.bit pgSDL UNIT_CTRL_ENABLE

/-- R411, R412; folly 2 fails the verification. -/
def execUnlock (r : Req) (arg : BitVec 16) (s : State) : Out := run (fun s =>
  command r pgGTH 0x0004 arg false false
    (fun t =>
      [(arg != 1 && arg != 2, rcBAD_ARG),
       (!t.gth.nonce || (arg == 2 && t.printing), rcWRONG_STATE)])
    (fun t =>
      let good := ecdsaOk Config.unlockKey (sha384 (t.unlockMessage arg.toNat)) (t.gthBytes 0x1A0 24)
      let t1 := t.setGth (fun g => { g with nonce := false })
      t1.atFolly pgGTH 2 State.unlockFails
        (fun u => if good then u.unlocked arg.toNat else u.unlockFails)) s) s

/-- R412: SRAM but the Guestbook, and DRAM, read 0; scan is enabled. -/
def execZeroizeDone (s : State) : Out := run (fun s =>
  s.onlyIf (s.rd pgGTH UNIT_STATUS_STATE == 3) (fun t =>
    let mem := t.mem.filter (fun e => inGuestbook e.1)
    let poison := t.poison.filter inGuestbook
    let t1 := ({ t with mem := mem, poison := poison }).raise pgGTH 2
    ((t1.wr pgGTH GTH_PERMIT_SCAN 1).setState pgGTH 4).raise pgGTH 3)) s

/-- R411. -/
def execNonceExpiry (s : State) : Out := run (fun s =>
  s.setGth (fun g => { g with nonce := false })) s

/-- R411. -/
def execUnlockLockoutEnd (s : State) : Out := run (fun s =>
  s.setGth (fun g => { g with locked := false })) s

/-- R379, R412: every armed folly disarms. -/
def execGthWithdraw (r : Req) (arg : BitVec 16) (s : State) : Out := run (fun s =>
  command r pgGTH 0x0005 arg true false (fun _ => [])
    (fun t =>
      let t1 := t.wr pgGTH GTH_PERMIT_INJECT 0
      let t2 := (t1.follies.map Prod.fst).foldl (fun u p => u.follyOff p) t1
      if t2.rd pgGTH UNIT_STATUS_STATE = 2 then t2.setState pgGTH 1 else t2) s) s

/-- R413. -/
def execRaiseSvn (r : Req) (arg : BitVec 16) (s : State) : Out := run (fun s =>
  command r pgGTH 0x0006 arg false false
    (fun t =>
      let svn := match t.runningSlot with
        | some k => (t.fbyte (slotBase k + 6)).toNat
        | none => 0
      [(decide (arg.toNat ≤ t.floor) || decide (svn < arg.toNat), rcBAD_ARG)])
    (fun t => { t with svnFloor := some arg.toNat }) s) s

end Sys2Proof.Machine
end

