-- ==== Sys2Proof/Machine/Kiosks.lean ====
section
/-! DEFINITION. Commands and events of ingest and the kiosk tree: taking and decoding tiles,
admission, lookahead, ribbons, the pool, the starvation log (R143–R163, R431). -/

namespace Sys2Proof.Machine

/-- R147; with no tile offered, a verification tile that waits (R278). -/
def execKioskTakeTile (k : Fin 96) (s : State) : Out := run (fun s =>
  s.onlyIf (decide (k.val < s.part.kiosks) && s.printRuns && s.kioskState k.val == 1 && !s.keptOut k.val) (fun t =>
    match t.choose k.val with
    | some tile => t.takeTile k.val tile
    | none => t.takeVerif k.val)) s

/-- R148, R153, R155–R157, R167: a block that is not its tile's last. -/
def execKioskBlockEnd (k : Fin 96) (errs : List SramErr) (s : State) : Out := run (fun s =>
  s.onlyIf s.printRuns (fun s =>
    match s.holding k.val with
    | .tile id =>
      match s.tile? id with
      | some t => s.onlyIf (!t.lastBlock) (fun u =>
          (u.atBlock k.val t errs).workBlock k.val t)
      | none => s.kioskFree k.val
    | .verif => s.verifBoundary k.val
    | .nothing => s)) s

/-- R153, R156, R167, R178: the tile's last block and its end; a tile whose present block breaks the
bitstream's rules is stopped. -/
def execTileDecoded (k : Fin 96) (errs : List SramErr) (s : State) : Out := run (fun s =>
  s.onlyIf s.printRuns (fun s =>
    match s.holding k.val with
    | .tile id =>
      match s.tile? id with
      | some t =>
        if t.lastBlock then (s.atBlock k.val t errs).workLast k.val t
        else
          let f := s.atBlock k.val t errs
          if f.tileBad k.val t then f.poisonTile k.val t
          else if (f.nextBlock t).isNone then f.breakTile k.val t
          else s
      | none => s
    | .verif => s
    | .nothing => s)) s

/-- R152: demand against capacity over the window at the present speed. -/
def execAdmissionCheck (s : State) : Out := run (fun s =>
  let v := s.rdS pgSPD SPD_SPEED_V
  let w := s.rd pgING ING_ADMIT_WINDOW_PU
  let pct := s.rd pgING ING_ADMIT_CFG_PCT
  s.onlyIf (s.printRuns && decide (0 < v)) (fun t =>
    let due := t.ing.tiles.filter (fun u =>
      let d := posDiff (t.deadlineOf u) t.pos
      decide (0 ≤ d) && decide (d ≤ w))
    let demand : Int := (due.map (fun u => (u.cost : Int) - u.counted)).sum
    let num := (max demand 0) * v
    let den : Int := t.rd pgING ING_LIVE_CAP_CYCLES * w * 65536
    let mille := if den = 0 then (if num = 0 then 0 else 65535) else min (num * 1000 / den) 65535
    let t1 := t.wr pgING ING_DEMAND_PERMILLE mille.toNat
    let above := decide (den * pct < num * 100)
    let below := decide (num * 100 < den * (pct - 5 : Int))
    if pct ≠ 0 ∧ above ∧ t.ing.admitArmed then
      (t1.updIng (fun x => { x with admitArmed := false })).raise pgING 1
    else if below then t1.updIng (fun x => { x with admitArmed := true }) else t1)) s

/-- The staged lookahead of each running head and running network stream that has staged a tile
(R160). -/
def State.lookaheads (s : State) : List Int :=
  (List.range s.part.heads).flatMap (fun h =>
    if !(s.hscOf h).running then []
    else ([0, 1, 2, 3] : List (Fin 4)).flatMap (fun i =>
      if !s.stmRunning i.val || (s.stmOf i).src != 0 then []
      else
        match (s.stmOf i).expected.lookup h with
        | none => []
        | some n => [posDiff (fireOf (s.cmpOf h (s.lineUp h (n - 1)))) s.pos]))

/-- R160. -/
def execLookaheadCheck (s : State) : Out := run (fun s =>
  let th : Int := s.rd pgING ING_LOOKAHEAD_LOW_PU
  match (if s.printRuns then s.lookaheads else []) with
  | [] => s
  | d :: ds =>
    let low := ds.foldl min d
    if th ≠ 0 ∧ low < th ∧ s.ing.lookArmed then
      (s.updIng (fun x => { x with lookArmed := false })).raise pgING 3
    else if 2 * th < low then s.updIng (fun x => { x with lookArmed := true }) else s) s

/-- A head's entry of the ribbon table as its registers hold it. -/
def State.ribEntry (s : State) (h : Nat) : Nat × Nat × Nat × Nat :=
  (s.rd pgING (ING_RIB_BASE_BASE h), s.rd pgING (ING_RIB_SIZE_LINES h),
   s.rd pgING (ING_RIB_SIZE_WIDTH h), s.rd pgING (ING_RIB_SIZE_LAYERS h))

/-- First byte and length of an entry's ribbon (R143). -/
def ribSpan (e : Nat × Nat × Nat × Nat) : Nat × Nat :=
  (e.1 * 64, e.2.1 * (planesOf e.2.2.2).length * e.2.2.1 * 24)

def State.ribChanged (s : State) (h : Nat) : Bool :=
  let e := s.ribEntry h
  let r := s.ribOf h
  e != (r.base, r.lines, r.width, r.layers)

/-- R143: an entry with layers is out of range, reaches past the region, or overlaps another. -/
def State.ribbonsBad (s : State) : Bool :=
  let hs := (List.range s.part.heads).filter (fun h => (s.ribEntry h).2.2.2 != 0)
  hs.any (fun h =>
    let e := s.ribEntry h
    let (a, n) := ribSpan e
    decide (e.2.1 < 64) || e.2.2.1 == 0 || decide (128 < e.2.2.1) || decide (41943040 < a + n) ||
      hs.any (fun g =>
        let (b, m) := ribSpan (s.ribEntry g)
        g != h && decide (a < b + m) && decide (b < a + n)))

/-- R143. -/
def execApplyRibbons (r : Req) (arg : BitVec 16) (s : State) : Out := run (fun s =>
  command r pgING 0x0001 arg true false
    (fun t =>
      [(t.ribbonsBad, rcBAD_ARG),
       ((List.range t.part.heads).any (fun h => t.ribChanged h && (t.hscOf h).running), rcWRONG_STATE)])
    (fun t =>
      (List.range t.part.heads).foldl
        (fun u h =>
          if u.ribChanged h then
            let e := u.ribEntry h
            u.updRib h (fun x =>
              { x.clear with base := e.1, lines := e.2.1, width := e.2.2.1, layers := e.2.2.2 })
          else u) t) s) s

/-- The kiosks that a page of the tree stands for (R149). -/
def State.kiosksOf (s : State) (page : Nat) : List Nat :=
  match s.unit page with
  | some (.pav, _) => (kiosksBelow (page - 0x080)).filter (fun k => decide (k < s.part.kiosks))
  | some (.ksk, k) => [k]
  | _ => []

/-- WITHDRAW and RETURN act on every kiosk beneath that is not retired; they are refused where all are
(R149, R163).  A page with no kiosk beneath defines neither. -/
def State.poolCommand (s : State) (r : Req) (page code : Nat) (arg : BitVec 16) (out : Bool) : State :=
  command r page code arg true false
    (fun t =>
      let ks := t.kiosksOf page
      [(ks.isEmpty, rcUNKNOWN), (ks.all (fun k => t.bit (pgKSK k) WK_OUT_RETIRED), rcWRONG_STATE)])
    (fun t =>
      let ks := t.kiosksOf page
      t.setOuts (ks.filter (fun k => !t.bit (pgKSK k) WK_OUT_RETIRED)) WK_OUT_HOST out) s

/-- R148, R149, R163. -/
def execKioskWithdraw (r : Req) (page : BitVec 12) (arg : BitVec 16) (s : State) : Out :=
  run (fun s => s.poolCommand r page.toNat 0x0001 arg true) s

/-- R150, R163. -/
def execKioskReturn (r : Req) (page : BitVec 12) (arg : BitVec 16) (s : State) : Out :=
  run (fun s => s.poolCommand r page.toNat 0x0002 arg false) s

/-- The words of a starvation log entry (R160). -/
def Starved.lo (e : Starved) : Word := e.num
def Starved.hi (e : Starved) : Word := BitVec.ofNat 32 (e.head + e.planes * 2 ^ 8 + 2 ^ 31)

/-- A read of the log's `_LO` word takes the oldest entry into the reader's slot (R55, R156). -/
def State.starveTake (s : State) (r : Req) : State :=
  match s.ing.starved with
  | [] => s.readLo r pgING 0 [(0x05C, 0)]
  | e :: rest => (s.updIng (fun x => { x with starved := rest })).readLo r pgING e.lo [(0x05C, e.hi)]

/-- R55, R156: the oldest entry leaves the log for the reader's snapshot. -/
def execStarveLogReadLo (r : Req) (s : State) : Out := run (fun s =>
  s.readAccess r pgING (fun t => t.starveTake r)) s

/-- R431. -/
def execStarveLogReadHi (r : Req) (s : State) : Out := run (fun s =>
  s.readAccess r pgING (fun t =>
    let live := match t.ing.starved with
      | [] => 0
      | e :: _ => e.hi
    t.readHi r pgING 0x05C live)) s

end Sys2Proof.Machine
end

