-- ==== Sys2Proof/Machine/Quality.lean ====
section
/-! DEFINITION. Commands and events of the quality loop and the archive compressor (R263–R280). -/

namespace Sys2Proof.Machine

/-- R265; the loop's clocks run, and nothing leaves an isolated domain (R75, R87). -/
def execQlpRowWrite (h : Fin 32) (s : State) : Out := run (fun s =>
  s.onlyIf (s.qlpOn && s.camRuns) (fun t =>
    match t.rowDue h.val with
    | some g => t.rowWrite h.val g
    | none => t)) s

/-- The SRAM region of Belvedere and the quality loop (R15). -/
def inQlpSram (o : BitVec 26) : Bool := decide (0x3680000 ≤ o.toNat) && decide (o.toNat < 0x3A80000)

/-- R267, R268, R270, R365: the oldest camera line that waits. -/
def execQlpCompare (k : Fin 6) (poisoned : Bool) (ces : List (BitVec 26)) (s : State) : Out := run (fun s =>
  match s.qlp.cams.get k with
  | [] => s
  | l :: rest =>
    s.onlyIf (s.qlpOn && s.camRuns) (fun t =>
      ((t.updQlp (fun q => { q with cams := q.cams.set k.val rest })).qlpCompare k.val l poisoned).sramCes
        (ces.filter inQlpSram))) s

/-- R265. -/
def execQlpEnable (r : Req) (s : State) : Out := run (fun s =>
  s.access r pgQLP 0x00C (fun t =>
    if t.bit pgQLP UNIT_CTRL_ENABLE then t
    else if !t.ready then t.dropWrite r pgQLP 0x00C
    else t.qlpEnable)) s

/-- `QLP_CFG.MODE` is written (R274). -/
def State.qlpSetMode (s : State) (mode : Bool) : State :=
  let was := s.bit pgQLP QLP_CFG_MODE
  let s1 := s.wrBit pgQLP QLP_CFG_MODE mode
  if was && !mode then s1.qlpToApproval else s1

/-- R274. -/
def execQlpModeWrite (r : Req) (mode : Bool) (s : State) : Out := run (fun s =>
  s.access r pgQLP 0x040 (fun t => t.qlpSetMode mode)) s

/-- A read of a queue's `_LO` word takes its oldest entry into the slot (R55, R272). -/
def State.proposalTake (s : State) (r : Req) (auto : Bool) : State :=
  let hi := if auto then 0x07C else 0x074
  match if auto then s.qlp.auto else s.qlp.host with
  | [] => s.readLo r pgQLP 0 [(hi, 0)]
  | p :: rest =>
    let t := s.updQlp (fun q => if auto then { q with auto := rest } else { q with host := rest })
    t.showQueues.readLo r pgQLP p.lo [(hi, p.hi)]

/-- R55, R272: a read of `QLP_PROP_LO`, or of `QLP_AUTOQ_LO`. -/
def execProposalRead (r : Req) (auto : Bool) (s : State) : Out := run (fun s =>
  s.readAccess r pgQLP (fun t => t.proposalTake r auto)) s

/-- R272. -/
def execUsedBinRoll (s : State) : Out := run (fun s =>
  s.onlyIf (s.has pgQLP) (fun t =>
    let t1 := t.updQlp (fun q => { q with used := 0 :: q.used.take 59 })
    t1.wr pgQLP QLP_AUTO_STAT_USED (min t1.qlpUsed 65535))) s

/-- R269, R280. -/
def execAlign (r : Req) (arg : BitVec 16) (s : State) : Out := run (fun s =>
  command r pgQLP 0x0001 arg false false
    (fun t => [(decide (t.part.cams ≤ arg.toNat), rcBAD_ARG),
               ((t.commitOf pgQLP).isSome, rcCOMMIT_HELD)])
    (fun t =>
      let a : Align := { cam := arg.toNat, lines := 0, dens := [], exp := [] }
      (t.updQlp (fun q => { q with align := some a })).setBusy pgQLP true) s) s

/-- R269: 512 lines have been gathered; a peak waits until no commit is pending on the page (log 61). -/
def execAlignDone (s : State) : Out := run (fun s =>
  match s.qlp.align with
  | some a =>
    let f := s.alignFind a
    if a.lines < 512 then s
    else if !peakOk f.2.2 then (s.alignEnd a.cam 2).raise pgQLP 2
    else if (s.commitOf pgQLP).isSome then s
    else s.alignFit a.cam f.1 f.2.1
  | none => s) s

/-- R269. -/
def execAlignTimeout (s : State) : Out := run (fun s =>
  match s.qlp.align with
  | some a => if a.lines < 512 then (s.alignEnd a.cam 3).raise pgQLP 2 else s
  | none => s) s

/-- R280. -/
def execQlpClear (r : Req) (arg : BitVec 16) (s : State) : Out := run (fun s =>
  command r pgQLP 0x0002 arg false false
    (fun _ => [(decide (3 < arg.toNat), rcBAD_ARG)])
    (fun t =>
      let t1 := if arg.getLsbD 0 then t.updQlp (fun q => { q with accs := [], confirm := [] }) else t
      if arg.getLsbD 1 then (t1.updQlp (fun q => { q with auto := [], host := [] })).showQueues
      else t1) s) s

/-- R276, R280. -/
def execArchive (r : Req) (arg : BitVec 16) (s : State) : Out := run (fun s =>
  command r pgQLP 0x0003 arg true true
    (fun t =>
      [(t.bit pgQLP ARC_STAT_BUSY, rcWRONG_STATE),
       (decide (t.part.cams ≤ t.rd pgQLP ARC_SRC_CAM) || decide (t.rd pgQLP ARC_SPACE_BYTES < 64) ||
          decide (t.rd pgQLP ARC_DST_LO_ADDR % 64 ≠ 0), rcBAD_ARG)])
    (fun t => t.arcStart) s) s

/-- R278: the kiosk that verifies is free again; the next tile follows, or the job fails. -/
def execArchiveTileVerified (s : State) : Out := run (fun s =>
  match s.qlp.arc with
  | none => s
  | some a =>
    match (List.range s.part.kiosks).find? (fun k => s.holding k == .verif) with
    | none => s
    | some k =>
      s.onlyIf (a.waiting && s.printRuns) (fun t =>
        let (t0, ok) := t.verifTile k a
        let t1 := t0.dropVerif
        if !ok then t1.arcBad 2
        else
          let t2 := (t1.incSat pgQLP ARC_TILES_N).updArc (fun x => { x with waiting := false })
          State.arcTile (a.count - a.done + 2) t2)) s

/-- R279. -/
def execArchiveDone (s : State) : Out := run (fun s =>
  match s.qlp.arc with
  | none => s
  | some a =>
    if a.failed ≠ 0 then s.arcFail a.failed
    else if a.ready then s.arcCommit a else s) s

/-- R279, R280. -/
def execArcAbort (r : Req) (arg : BitVec 16) (s : State) : Out := run (fun s =>
  command r pgQLP 0x0004 arg true false
    (fun t => [(!t.bit pgQLP ARC_STAT_BUSY, rcWRONG_STATE)])
    (fun t => t.arcFail 4) s) s

end Sys2Proof.Machine
end

