-- ==== Sys2Proof/Machine/Dependability.lean ====
section
/-! DEFINITION. Commands and events of the warden, the checkers, slice BIST and the Guestbook
(R365–R378, R383–R390). -/

namespace Sys2Proof.Machine

/-! ### The warden (R368–R373) -/

/-- R369, R370: a host write is dropped; the watch is suspended while SYS is below level 2 (R80). -/
def execWrdKick (r : Req) (v : BitVec 16) (s : State) : Out := run (fun s =>
  s.access r pgWRD 0x040 (fun t =>
    if r = .host then t.dropWrite r pgWRD 0x040
    else t.onlyIf (t.wrd.gkp == .running && t.levelOf .sys == 2) (fun u => u.judgeKick v.toNat))) s

/-- R369, R371, R405: the interval passes, or the window of a swap. -/
def execHeartbeatMiss (s : State) : Out := run (fun s =>
  s.onlyIf s.watching (fun t => t.gkpFails (if t.wrd.swap then 3 else 1))) s

/-- R368, R371; folly 1 of the GKP page brings it about. -/
def execLockstepDivergence (s : State) : Out := run (fun s =>
  s.onlyIf (s.wrd.gkp == .running) (fun t =>
    t.atFolly pgGKP 1 (fun u => u.gkpFails 4) (fun u => u.gkpFails 4))) s

/-- R371. -/
def execTcmUe (s : State) : Out := run (fun s =>
  s.onlyIf (s.wrd.gkp == .running) (fun t => t.gkpFails 5)) s

/-- R387: the event comes at the first correction after 1 s without one; folly 2 of the GKP page makes
a correction. -/
def execTcmCorrectedError (s : State) : Out := run (fun s =>
  s.onlyIf (s.wrd.gkp == .running) (fun t0 =>
    let t := t0.atFolly pgGKP 2 id id
    let quiet := match t.bist.tcmAt with
      | some x => decide (1000000000 ≤ t.now - x)
      | none => true
    let t1 := ({ t with bist := { t.bist with tcmAt := some t.now } }).incSat pgGKP GKP_TCM_CE_N
    if quiet then t1.raise pgGKP 2 else t1)) s

/-- R372: the history of restarts is cleared, and the Groundskeeper is started as a restart. -/
def execRelease (r : Req) (arg : BitVec 16) (s : State) : Out := run (fun s =>
  command r pgWRD 0x0001 arg true false
    (fun t => [(t.wrd.gkp != .held, rcWRONG_STATE)])
    (fun t => ((t.setWrd (fun w => { w with restarts := [] })).wr pgWRD WRD_FAULT_HELD 0).wardenRestart) s) s

/-- R373. -/
def execAssertFault (r : Req) (arg : BitVec 16) (s : State) : Out := run (fun s =>
  command r pgWRD 0x0002 arg true false (fun _ => [])
    (fun t => t.wr pgWRD WRD_FAULT_SOFTWARE 1) s) s

/-! ### Checked logic and parity (R365, R367) -/

/-- R367: a Trellis line goes as level 0 on every nozzle, a Belvedere line is flagged POISON, any other
output stands; folly 3 of the BST page brings it about. -/
def execCheckerDisagree (page : BitVec 12) (s : State) : Out := run (fun s =>
  s.onlyIf (s.has page.toNat) (fun t =>
    let mine := t.follyOn pgBST 3 && t.follyParam pgBST == page.toNat
    let t1 := if mine then t.inject pgBST else t
    let t2 := ((t1.wr pgBST BST_CHECKER_PAGE page.toNat).incSat pgBST BST_CHECKER_COUNT).wr pgWRD
      WRD_FAULT_CHECKER 1
    let t3 := match t2.unit page.toNat with
      | some (.trl, h) => if (t2.trlOf h).maps.isEmpty then t2
          else t2.updTrl h (fun x => { x with differs := true })
      | some (.cam, k) => if (t2.camOf k).queue.isEmpty then t2
          else t2.updCam k (fun c => { c with differs := true })
      | _ => t2
    t3.raise pgBST 3)) s

/-- R365: a register word's parity is bad. -/
def execParitySweep (page off : BitVec 12) (bad : Bool) (s : State) : Out := run (fun s =>
  s.onlyIf (bad && s.has page.toNat) (fun t => t.regAlert page.toNat off.toNat .host 0 4)) s

/-! ### Slice BIST (R374–R378) -/

/-- The segment of an SRAM slice belongs to a region that a port in panic uses: the ribbons and kiosk
tile buffers, or the camera queues and the quality loop's memory. -/
def State.sliceWaits (s : State) (i : Nat) : Bool :=
  let a := sramBase + 16384 * (i - 96)
  decide (96 ≤ i) && decide (i < 4192) &&
    ((s.portPanic 0 && decide (a < 0x1002E00000)) ||
     (s.portPanic 1 && decide (0x1003500000 ≤ a) && decide (a < 0x1003A80000)))

/-- A read found a correctable error in the slice's segment: the slice moves to the next period (R376). -/
def State.sliceMoved (s : State) (i : Nat) : Bool :=
  decide (96 ≤ i) && decide (i < 4192) && s.bist.moved.contains (i - 96)

/-- The rotation's next slice. -/
def State.sliceNext (s : State) : Option Nat := s.sliceFrom (s.rd pgBST BST_POS_NEXT)

/-- Skipped slices take no period: a rotation whose slices from `NEXT` on are all skipped by now has completed
(R374), unless there is none to run at all. -/
def State.sliceWrap (s : State) : State :=
  if s.sliceNext.isNone && (s.sliceFrom 0).isSome then s.rotated else s

/-- The slice that the next period is to run: the one SLICE_NOW named unless it is skipped by now, else
the rotation's next. -/
def State.sliceDue (s : State) : Option Nat :=
  match s.bist.forced with
  | some i => if s.sliceSkipped i then s.sliceNext else some i
  | none => s.sliceNext

/-- A slice begins; a kiosk is withdrawn for it (R375). -/
def State.sliceBegin (s : State) (i : Nat) : State :=
  let s1 := s.setBist (fun b =>
    { b with slice := some i, waits := 0, forced := if b.forced = some i then some i else none })
  if i < 96 then s1.setOut i WK_OUT_BIST true else s1

/-- R374. -/
def execSliceStart (s : State) : Out := run (fun s =>
  s.onlyIf (s.bit pgBST UNIT_CTRL_ENABLE && s.wrd.gkp == .running && s.bist.slice.isNone) (fun t0 =>
    let t := t0.sliceWrap
    match t.sliceDue with
    | none => t
    | some i =>
      if t.sliceMoved i then
        t.setBist (fun b => { b with moved := b.moved.filter (· != i - 96) })
      else if t.sliceWaits i then
        if t.bist.waits + 1 < 8 then t.setBist (fun b => { b with waits := b.waits + 1 })
        else
          let t1 := (t.incSat pgBST BST_POS_DEFERRED).setBist (fun b => { b with waits := 0 })
          if t1.bist.forced = some i then t1.setBist (fun b => { b with forced := none })
          else t1.slicePast i
      else t.sliceBegin i)) s

/-- A slice fails. -/
def State.sliceFailed (s : State) (i kind : Nat) : State :=
  ((s.wr pgBST BST_FAIL_SLICE i).wr pgBST BST_FAIL_KIND kind).raise pgBST 0

/-- The kiosk returns, or it is retired with both events raised at once (R375). -/
def State.kioskSlice (s : State) (k : Nat) (failed : Bool) : State :=
  let folly := s.follyOn (pgKSK k) 2
  let s1 := if folly then s.inject (pgKSK k) else s
  if failed || folly then
    let marks := s1.follies
    let s2 := ({ s1.sliceFailed k 1 with follies := marks }).raise pgBST 2
    (s2.retireKiosk k true).setOut k WK_OUT_BIST false
  else s1.setOut k WK_OUT_BIST false

/-- A failing cell of a segment takes a spare of its bank, of the kind `column` before the other, or is left
without one (R376). -/
def State.cellFails (s : State) (i : Nat) (column : Bool) : State :=
  match s.spare ((i - 96) / 64) column with
  | some x =>
    let list := s.bist.repairs ++ [x]
    ((s.setBist (fun b => { b with repairs := list })).wr pgBST BST_REPAIRS_SOFT list.length).raise pgBST 1
  | none => (s.wr pgBST BST_FAIL_EXHAUSTED 1).sliceFailed i 2

/-- The segment is sound, repaired, or left with cells that found no spare (R376, R377); folly 1 reports a cell
without using a spare. -/
def State.sramSlice (s : State) (i : Nat) (cells : List Bool) : State :=
  let folly := s.follyOn pgBST 1 && s.follyParam pgBST == i - 96
  let s1 := if folly then (s.inject pgBST).raise pgBST 1 else s
  cells.foldl (fun t c => t.cellFails i c) s1

/-- R375, R376, R378. -/
def execSliceEnd (failed : Bool) (cells : List Bool) (s : State) : Out := run (fun s =>
  match s.bist.slice with
  | none => s
  | some i =>
    let s1 :=
      if i < 96 then s.kioskSlice i failed
      else if i < 4192 then s.sramSlice i cells
      else if failed then s.sliceFailed i 3
      else s
    s1.sliceOver i) s

/-- R374. -/
def execBistLate (s : State) : Out := run (fun s =>
  s.onlyIf (s.bit pgBST UNIT_CTRL_ENABLE && !s.bit pgBST BST_STAT_LATE) (fun t =>
    (t.wr pgBST BST_STAT_LATE 1).record 0x3005 pgBST (t.word pgBST 0x044).toNat)) s

/-- R375: outside the kiosk's own slice; folly 3 of a kiosk's page brings it about. -/
def execKioskParityError (k : Fin 96) (s : State) : Out := run (fun s =>
  s.onlyIf (decide (k.val < s.part.kiosks) && s.printRuns && s.bist.slice != some k.val) (fun t =>
    let t1 := t.atFolly (pgKSK k.val) 3 id id
    (t1.raise pgBST 2).retireKiosk k.val true)) s

/-- R389. -/
def execSliceNow (r : Req) (arg : BitVec 16) (s : State) : Out := run (fun s =>
  command r pgBST 0x0001 arg false false
    (fun t =>
      [(t.bist.slice.isSome, rcBUSY),
       (decide (4223 < arg.toNat) || t.sliceSkipped arg.toNat, rcBAD_ARG)])
    (fun t => t.setBist (fun b => { b with forced := some arg.toNat, waits := 0 })) s) s

/-- R375, R389: a kiosk that decodes leaves at its block's end. -/
def execRetire (r : Req) (arg : BitVec 16) (s : State) : Out := run (fun s =>
  command r pgBST 0x0002 arg false false
    (fun t => [(t.kind arg.toNat != some .ksk, rcBAD_ARG)])
    (fun t => (t.raise pgBST 2).retireKiosk (arg.toNat - pgKSK 0) false) s) s

/-! ### The Guestbook (R383, R390) -/

/-- The number that WRITE is to enter lies in the requester's range (R384). -/
def State.userNumOk (s : State) (r : Req) : Bool :=
  let n := s.rd pgGBK GBK_USER_NUM_EVENT
  match r with
  | .gkp => decide (0x1000 ≤ n) && decide (n < 0x2000)
  | .host => decide (0x2000 ≤ n) && decide (n < 0x3000)

/-- R390. -/
def execGbkWrite (r : Req) (arg : BitVec 16) (s : State) : Out := run (fun s =>
  command r pgGBK 0x0001 arg true false
    (fun t => [(!t.userNumOk r, rcBAD_ARG)])
    (fun t =>
      let detail := (t.word pgGBK 0x084).toNat + 2 ^ 32 * (t.word pgGBK 0x088).toNat
      t.gbkEntry (t.mkEntry (t.rd pgGBK GBK_USER_NUM_EVENT) pgGBK detail false false
        (if r = .gkp then 1 else 2))) s) s

/-- R390. -/
def execGbkReadSeqWrite (r : Req) (v : Word) (s : State) : Out := run (fun s =>
  s.access r pgGBK 0x044 (fun t => (t.setWord pgGBK 0x044 v).gbkCheck)) s

/-- R390. -/
def execGbkWindowSelect (r : Req) (v : Word) (s : State) : Out := run (fun s =>
  s.access r pgGBK 0x054 (fun t => t.setWord pgGBK 0x054 v)) s

end Sys2Proof.Machine
end

