-- ==== Sys2Proof/Machine/Flash.lean ====
section
/-! DEFINITION. Commands and events of the flash, of live update and of the configuration service
(R396–R409, R414). -/

namespace Sys2Proof.Machine

/-! ### Operations (R397–R399) -/

/-- The Groundskeeper issues it while it runs from the flash window (R398). -/
def selfBusy (r : Req) (fromWindow : Bool) : Bool := r == .gkp && fromWindow

/-- R397, R398. -/
def execFshRead (r : Req) (arg : BitVec 16) (s : State) : Out := run (fun s =>
  command r pgFSH 0x0001 arg true false
    (fun t => [(t.rangeBad 1 || !t.bufferOk, rcBAD_ARG)])
    (fun t => t.flashStart .read) s) s

/-- R397, R398. -/
def execFshProgram (r : Req) (arg : BitVec 16) (fromWindow : Bool) (s : State) : Out := run (fun s =>
  command r pgFSH 0x0002 arg true false
    (fun t =>
      [(selfBusy r fromWindow, rcSELF_BUSY), (t.rangeHeld, rcWRONG_STATE),
       (t.rangeBad 256 || !t.bufferOk, rcBAD_ARG)])
    (fun t => t.flashStart .program) s) s

/-- R397, R398: no buffer takes part. -/
def execFshErase (r : Req) (arg : BitVec 16) (fromWindow : Bool) (s : State) : Out := run (fun s =>
  command r pgFSH 0x0003 arg true false
    (fun t =>
      [(selfBusy r fromWindow, rcSELF_BUSY), (t.rangeHeld, rcWRONG_STATE),
       (t.rangeBad 4096, rcBAD_ARG)])
    (fun t => t.flashStart .erase) s) s

/-- R394, R414. -/
def execFshVerify (r : Req) (arg : BitVec 16) (s : State) : Out := run (fun s =>
  command r pgFSH 0x0004 arg false false
    (fun _ => [(decide (3 < arg.toNat), rcBAD_ARG)])
    (fun t => t.flashStart (.verify arg.toNat)) s) s

/-- A page program or sector erase is under way. -/
def State.stepOp (s : State) : Option FlashOp :=
  match s.fsh.op with
  | some o => if o.kind = .program ∨ o.kind = .erase then some o else none
  | none => none

/-- The step times out (R399). -/
def State.stepFails (s : State) (o : FlashOp) : State :=
  ((s.tear o).serveFetches).flashEnd (some 1)

/-- R397, R399; folly 1 times the step out. -/
def execFlashStepDone (s : State) : Out := run (fun s =>
  match s.stepOp with
  | none => s
  | some o => s.atFolly pgFSH 1 (fun t => t.stepFails o) (fun t => t.stepDone o)) s

/-- R399. -/
def execFlashStepTimeout (s : State) : Out := run (fun s =>
  match s.stepOp with
  | none => s
  | some o => s.atFolly pgFSH 1 (fun t => t.stepFails o) (fun t => t.stepFails o)) s

/-- R392, R399: a fetch, or a cache fill, of `n` bytes is held while a step runs, else it is served at once. -/
def execFlashFetch (addr : BitVec 25) (n : BitVec 8) (s : State) : Out := run (fun s =>
  s.onlyIf (s.wrd.gkp == .running) (fun t =>
    if t.stepOp.isNone then t.fetch (addr.toNat, n.toNat)
    else
      t.setFsh (fun f =>
        { f with fetches := f.fetches ++ [(addr.toNat, n.toNat)],
                 heldAt := if f.fetches.isEmpty then t.now else f.heldAt }))) s

/-- R394, R397, R414: READ fills its buffer, VERIFY sets or clears `VERIFIED`; folly 2 inverts a byte of
the payload, so that the digest differs. -/
def execFlashReadDone (s : State) : Out := run (fun s =>
  match s.fsh.op with
  | none => s
  | some o =>
    match o.kind with
    | .read => (s.writeMem 3 o.buf (s.fbytes o.addr o.len)).flashEnd none
    | .verify k =>
      s.atFolly pgFSH 2
        (fun t => (t.setVerified k false).flashEnd (some 3))
        (fun t =>
          if t.imageOk k then (t.setVerified k true).flashEnd none
          else (t.setVerified k false).flashEnd (some 3))
    | _ => s) s

/-! ### Live update (R402–R405) -/

/-- The warden reads WATCHING. -/
def State.wardenWatching (s : State) : Bool := s.stateCode pgWRD == 1

/-- An accepted request is handed to the Groundskeeper (R400): 1 UPDATE, 2 CFG_APPLY, 3 CFG_REVERT. -/
def State.request (s : State) (kind slot state : Nat) : State :=
  (((s.wr pgFSH FSH_SVC_REQ_KIND kind).wr pgFSH FSH_SVC_REQ_SLOT slot).setBusy pgFSH true).setState pgFSH
    state

/-- No request is pending. -/
def State.unrequest (s : State) : State :=
  (s.wr pgFSH FSH_SVC_REQ_KIND 0).wr pgFSH FSH_SVC_REQ_SLOT 0

/-- UPDATE, CFG_APPLY or CFG_REVERT ends. -/
def State.requestEnd (s : State) : State := (s.setBusy pgFSH false).setState pgFSH 1

/-- R402. -/
def execUpdate (r : Req) (arg : BitVec 16) (s : State) : Out := run (fun s =>
  command r pgFSH 0x0005 arg false false
    (fun t =>
      [(decide (1 < arg.toNat), rcBAD_ARG),
       (!t.verified arg.toNat || t.runningSlot == some arg.toNat || !t.wardenWatching, rcWRONG_STATE)])
    (fun t => (t.request 1 arg.toNat 3).wr pgFSH FSH_FW_STAT_REQUESTED 1) s) s

/-- R402: SWAP has not come. -/
def execUpdateTimeout (s : State) : Out := run (fun s =>
  s.onlyIf (s.bit pgFSH FSH_FW_STAT_REQUESTED) (fun t =>
    (((t.wr pgFSH FSH_FW_STAT_REQUESTED 0).unrequest).wr pgFSH FSH_FW_STAT_RESULT 2).requestEnd)) s

/-- A write of `FSH_GKP_ACT`: a host write is dropped (R414). -/
def gkpAct (r : Req) (f : State → State) (s : State) : State :=
  s.access r pgFSH 0x060 (fun t => if r = .host then t.dropWrite r pgFSH 0x060 else f t)

/-- ACT = SWAP (R402): dropped unless the last kick was 0x3C3C; the new slot is verified and started. -/
def State.actSwap (s : State) (r : Req) : State :=
  if !s.wrd.swap then s.dropWrite r pgFSH 0x060
  else if s.bit pgFSH FSH_FW_STAT_REQUESTED then
    let slot := s.rd pgFSH FSH_SVC_REQ_SLOT
    let t := ((s.wr pgFSH FSH_FW_STAT_REQUESTED 0).unrequest).wr pgTOP TOP_BOOT_FW_SLOT slot
    t.gkpRestart
  else s

/-- ACT = TAKEN_OVER (R403). -/
def State.actTakenOver (s : State) : State :=
  if s.rd pgFSH UNIT_STATUS_STATE = 3 ∧ !s.bit pgFSH FSH_FW_STAT_REQUESTED then
    let t := s.setFsh (fun f => { f with swapping := false })
    ((t.wr pgFSH FSH_FW_STAT_RESULT 1).requestEnd).raise pgGKP 3
  else s

/-- ACT = FALLBACK (R396, R404): outside a swap the previous slot is the other one. -/
def State.actFallback (s : State) (code : Nat) : State :=
  let t := (s.wr pgFSH FSH_FW_STAT_FALLBACK 1).wr pgFSH FSH_FW_STAT_REASON code
  let swapped := s.fsh.swapping && s.fsh.prev != s.rd pgTOP TOP_BOOT_FW_SLOT
  let back := if swapped then s.fsh.prev else 1 - s.rd pgTOP TOP_BOOT_FW_SLOT
  (t.setFsh (fun f => { f with falling := true, prev := back })).gkpRestart

/-- ACT = CFG_RESULT (R406, R407): APPLIED and REVERTED make the slot the active one. -/
def State.actCfgResult (s : State) (code : Nat) : State :=
  if s.rd pgFSH UNIT_STATUS_STATE = 4 then
    let slot := s.rd pgFSH FSH_SVC_REQ_SLOT
    let t := ((s.wr pgFSH FSH_CFG_STAT_RESULT code).unrequest).requestEnd
    if code = 1 ∨ code = 5 then
      (((t.wr pgFSH FSH_CFG_STAT_ACTIVE slot).wr pgFSH FSH_CFG_STAT_SCHEMA (t.schemaOf (2 + slot))).wr
        pgTOP TOP_BOOT_CFG_SLOT slot).raise pgFSH 2
    else if code = 4 then t.raise pgFSH 3
    else t
  else s

/-- R402. -/
def execActSwap (r : Req) (s : State) : Out := run (gkpAct r (fun t => t.actSwap r)) s

/-- R403. -/
def execActTakenOver (r : Req) (s : State) : Out := run (gkpAct r State.actTakenOver) s

/-- R396, R404. -/
def execActFallback (r : Req) (code : BitVec 4) (s : State) : Out :=
  run (gkpAct r (fun t => t.actFallback code.toNat)) s

/-! ### The configuration service (R406, R407) -/

/-- R406. -/
def execCfgApply (r : Req) (arg : BitVec 16) (s : State) : Out := run (fun s =>
  command r pgFSH 0x0006 arg false false
    (fun t =>
      [(decide (1 < arg.toNat), rcBAD_ARG),
       (!t.verified (2 + arg.toNat) || t.rd pgFSH FSH_CFG_STAT_ACTIVE == arg.toNat || !t.wardenWatching,
        rcWRONG_STATE)])
    (fun t => t.request 2 arg.toNat 4) s) s

/-- R407. -/
def execCfgRevert (r : Req) (arg : BitVec 16) (s : State) : Out := run (fun s =>
  command r pgFSH 0x0007 arg true false
    (fun t =>
      let other := 1 - t.rd pgFSH FSH_CFG_STAT_ACTIVE
      [(!t.verified (2 + other) || !t.wardenWatching, rcWRONG_STATE)])
    (fun t => t.request 3 (1 - t.rd pgFSH FSH_CFG_STAT_ACTIVE) 4) s) s

/-- R406, R407. -/
def execActCfgResult (r : Req) (code : BitVec 4) (s : State) : Out :=
  run (gkpAct r (fun t => t.actCfgResult code.toNat)) s

end Sys2Proof.Machine
end

