-- ==== Sys2Proof/Machine/Fountain.lean ====
section
/-! DEFINITION. The Fountain: its pressure loop and set-point profile (R354–R357, R360), and the monitor
ADC with its events and windows (R89, R352, R353, R361). -/

namespace Sys2Proof.Machine

def State.updFnt (s : State) (g : Fnt → Fnt) : State := { s with fnt := g s.fnt }

def State.fntOn (s : State) : Bool := s.bit pgFNT UNIT_CTRL_ENABLE && s.levelOf .mech == 2

def State.fntState (s : State) : Nat := s.rd pgFNT UNIT_STATUS_STATE

/-! ### The set-point profile (R355) -/

/-- The least `n` below 2 ^ `k` for which a monotone condition holds. -/
def leastFrom (P : Nat → Bool) : Nat → Nat → Nat
  | 0, b => if P b then b else b + 1
  | k + 1, b => if P (b + 2 ^ k - 1) then leastFrom P k b else leastFrom P k (b + 2 ^ k)

/-- The least `n` with `P n`. -/
def least (P : Nat → Bool) : Nat := leastFrom P 40 0

/-- Whole samples of a duration. -/
def upTo (t : Rat) : Nat := if t ≤ 0 then 0 else least (fun n => decide (t ≤ (n : Rat)))

/-- Durations of the time-optimal rest-to-rest profile over a distance, each rounded up to whole
samples: jerk, constant acceleration, cruise (R355). Limits are per sample. -/
def phases (d v a j : Rat) : Nat × Nat × Nat :=
  let full := decide (a * a ≤ v * j)
  let near : Rat → Nat → Bool := fun x n => decide (x ≤ (n : Rat))
  if full then
    let tj := a / j
    let ta := v / a - tj
    let both := v * (2 * tj + ta)
    if both ≤ d then (upTo tj, upTo ta, upTo ((d - both) / v))
    else if 2 * a * tj * tj ≤ d then
      (upTo tj, least (fun n => decide (tj * tj + 4 * d / a ≤ (2 * (n : Rat) + 3 * tj) * (2 * n + 3 * tj))), 0)
    else (least (fun n => near (d / (2 * j)) (n * n * n)), 0, 0)
  else
    let nj := least (fun n => near (v / j) (n * n))
    -- T² = V ÷ J, so 2 V T ≤ D asks 4 V³ ÷ J ≤ D²
    if 4 * v * v * v / j ≤ d * d then
      -- the cruise lasts D ÷ V − 2 T samples: the least n with (D ÷ V − n)² ≤ 4 V ÷ J
      let q := d / v
      (nj, 0, least (fun n => decide (q ≤ (n : Rat)) || decide ((q - n) * (q - n) ≤ 4 * v / j)))
    else (least (fun n => near (d / (2 * j)) (n * n * n)), 0, 0)

/-- The limits of the page's active fields, per sample, in 0.1 Pa: V, A and J. -/
def State.spLimits (s : State) : Rat × Rat × Rat :=
  ((s.ac pgFNT FNT_SP_LIM_SP_VMAX : Rat) / 1000, (s.ac pgFNT FNT_SP_LIM_SP_AMAX : Rat) / 1000000,
   (s.ac pgFNT FNT_SP_JMAX_J : Rat) / 100000000)

/-- The phases from rest at `p0` to rest at `p1`, scaled to end exactly there (R355). -/
def restToRest (p0 p1 : Rat) (lim : Rat × Rat × Rat) : List SpPhase :=
  let d := p1 - p0
  if d = 0 then []
  else
    let (nj, na, nv) := phases (if d < 0 then -d else d) lim.1 lim.2.1 lim.2.2
    let j := d / ((nj : Rat) * (nj + na) * (2 * nj + na + nv))
    [⟨j, nj⟩, ⟨0, na⟩, ⟨-j, nj⟩, ⟨0, nv⟩, ⟨-j, nj⟩, ⟨0, na⟩, ⟨j, nj⟩].filter (fun x => x.left != 0)

/-- Position, rate and acceleration after `n` samples at a constant jerk. -/
def glide (x : Rat × Rat × Rat) (j : Rat) (n : Nat) : Rat × Rat × Rat :=
  let (p, v, a) := x
  let t : Rat := n
  (p + v * t + a * t * t / 2 + j * t * t * t / 6, v + a * t + j * t * t / 2, a + j * t)

def glideAll (x : Rat × Rat × Rat) : List SpPhase → Rat × Rat × Rat
  | [] => x
  | ph :: t => glideAll (glide x ph.jerk ph.left) t

/-- From any motion to rest (R355): first the acceleration to 0, then the velocity. -/
def toRest (x : Rat × Rat × Rat) (lim : Rat × Rat × Rat) : List SpPhase :=
  let (_, _, a0) := x
  let n0 := upTo ((if a0 < 0 then -a0 else a0) / lim.2.2)
  let ph0 : List SpPhase := if n0 = 0 then [] else [⟨-a0 / n0, n0⟩]
  let (_, v0, _) := glideAll x ph0
  let v := if v0 < 0 then -v0 else v0
  if v = 0 then ph0
  else
    let full := decide (lim.2.1 * lim.2.1 ≤ v * lim.2.2)
    let nj := if full then upTo (lim.2.1 / lim.2.2)
      else least (fun n => decide (v / lim.2.2 ≤ ((n * n : Nat) : Rat)))
    let na := if full then upTo (v / lim.2.1 - lim.2.1 / lim.2.2) else 0
    let j := -v0 / ((nj : Rat) * (nj + na))
    ph0 ++ ([⟨j, nj⟩, ⟨0, na⟩, ⟨-j, nj⟩] : List SpPhase).filter (fun y => y.left != 0)

/-- Plan towards the active target from where the set-point is (R355). -/
def State.spPlan (s : State) : State :=
  let lim := s.spLimits
  let x := (s.fnt.sp, s.fnt.spVel, s.fnt.spAcc)
  let target : Rat := s.acS pgFNT FNT_SP_TARGET_P
  let stop := toRest x lim
  let (p, _, _) := glideAll x stop
  s.updFnt (fun f => { f with prof := stop ++ restToRest p target lim })

/-- The generator one sample on. -/
def Fnt.spStep (f : Fnt) : Fnt :=
  match f.prof with
  | [] => { f with spVel := 0, spAcc := 0 }
  | ph :: rest =>
    let (p, v, a) := glide (f.sp, f.spVel, f.spAcc) ph.jerk 1
    { f with sp := p, spVel := v, spAcc := a,
             prof := if ph.left ≤ 1 then rest else { ph with left := ph.left - 1 } :: rest }

/-- The set-point in whole 0.1 Pa, to the nearest (log 72). -/
def Fnt.spInt (f : Fnt) : Int := (f.sp + 1 / 2).floor

/-! ### The loop (R354, R356) -/

/-- The code that the loop takes: folly 1 makes it 0. -/
def State.fntCode (s : State) : Nat :=
  if s.follyOn pgFNT 1 then 0 else s.rd pgMON (MON_RESULT_CODE s.fnt.chan)

/-- The pressure of a code, in 0.1 Pa (R354). -/
def State.pressure (s : State) (code : Nat) : Int :=
  (((code : Int) - s.ac pgFNT FNT_SCALE_ZERO) * s.acS pgFNT FNT_SCALE_GAIN).fdiv 256

/-- The input is in range (R356). -/
def State.inputOk (s : State) (code : Nat) : Bool :=
  let p := s.pressure code
  decide (code ≠ 0) && decide (code ≠ 4095) && decide (4 * s.acS pgFNT FNT_P_RANGE_P_LOW ≤ p) &&
    decide (p ≤ 4 * s.acS pgFNT FNT_P_RANGE_P_HIGH)

/-- Output, saturation and integral for an error and a change (R354). -/
def State.loop (s : State) (e de : Int) : Nat × Bool × Int :=
  let k := fun (f : Fld) (x : Int) => ((s.ac pgFNT f : Int) * x).fdiv 65536
  let u := (s.ac pgFNT FNT_BIAS_BIAS : Int) + k FNT_KP_KP e + s.fnt.integ + k FNT_KD_KD de
  let hi : Int := s.ac pgFNT FNT_OUT_OUT_MAX
  let lo : Int := s.ac pgFNT FNT_OUT_OUT_MIN
  if hi < u then (hi.toNat, true, s.fnt.integ)
  else if u < lo then (lo.toNat, true, s.fnt.integ)
  else (u.toNat, false, s.fnt.integ + k FNT_KI_KI e)

/-- The registers of the loop follow it. -/
def State.showFnt (s : State) : State :=
  let f := s.fnt
  let s1 := (s.wrS pgFNT FNT_SP_P f.spInt).wrS pgFNT FNT_INTEG_I f.integ
  if s.fntState = 3 then s1 else s1.setState pgFNT (if f.prof.isEmpty then 1 else 2)

/-- The input's run in range, the deviation's run within its band (R356). -/
def State.fntWatch (s : State) (code : Nat) (p : Int) : State :=
  let near := decide ((s.fnt.spInt - p).natAbs ≤ s.rd pgFNT FNT_DEV_DEV_BAND)
  let run := if near then s.fnt.devIn + 1 else 0
  let back := decide (10 * s.rd pgFNT FNT_DEV_DEV_MS ≤ run) && near
  s.updFnt (fun f =>
    { f with inRange := if s.inputOk code then f.inRange + 1 else 0, devIn := run,
             devTold := f.devTold && !back })

/-- One sample of the loop (R354): the set-point moves, then output and integral follow. -/
def State.fntSample (s : State) : State :=
  let code := s.fntCode
  let p := s.pressure code
  let s0 := s.updFnt Fnt.spStep
  let sp := s0.fnt.spInt
  let s1 := (s0.fntWatch code p).wrS pgFNT FNT_P_P p
  if s.fntState = 3 then
    (s1.updFnt (fun f => { f with pLast := p })).showFnt
  else
    let pol := s.ac pgFNT FNT_CFG_POL
    let e := if pol = 0 then sp - p else p - sp
    let de := if pol = 0 then s.fnt.pLast - p else p - s.fnt.pLast
    let (out, sat, integ) := s1.loop e de
    let s2 := s1.updFnt (fun f => { f with integ := integ, pLast := p })
    ((s2.wr pgFNT FNT_OUTPUT_DUTY out).wrBit pgFNT FNT_STATUS_SAT sat).showFnt

/-- The loop starts as at enable (R354, R356): the set-point at the measured pressure. -/
def State.fntStart (s : State) : State :=
  let p := s.pressure s.fntCode
  let s1 := s.updFnt (fun f =>
    { f with integ := 0, pLast := p, sp := p, spVel := 0, spAcc := 0, prof := [], devIn := 0,
             devTold := false })
  let s2 := ((s1.wr pgFNT FNT_STATUS_CAUSE 0).setState pgFNT 1).spPlan
  ((s2.wrS pgFNT FNT_P_P p)).showFnt

/-- `ENABLE` goes to 1: `CHANNEL` and `PWM_KHZ` are read (R360). -/
def State.fntEnable (s : State) : State :=
  let s1 := s.revote (fun t => t.wr pgFNT UNIT_CTRL_ENABLE 1)
  let s2 := s1.updFnt (fun f =>
    { f with chan := s.rd pgFNT FNT_CFG_CHANNEL, khz := min (max (s.rd pgFNT FNT_CFG_PWM_KHZ) 1) 100,
             inRange := 0 })
  s2.fntStart

/-- `ENABLE` goes to 0 (R357). -/
def State.fntDisable (s : State) : State :=
  s.revote (fun t => (t.wr pgFNT UNIT_CTRL_ENABLE 0).setState pgFNT 0)

def execFountainSample (s : State) : Out := run (fun s => s.onlyIf s.fntOn State.fntSample) s

/-- The input has been out of range for `SENS_MS`: FAULT with duty `OUT_SAFE` (R356). -/
def execFountainSensorFault (s : State) : Out := run (fun s =>
  s.onlyIf (s.fntOn && decide (s.fntState ≠ 3) && !s.inputOk s.fntCode) (fun t =>
    let t1 := ((t.setState pgFNT 3).wr pgFNT FNT_STATUS_CAUSE 1).wr pgFNT FNT_OUTPUT_DUTY
      (t.ac pgFNT FNT_BIAS_OUT_SAFE)
    t1.raise pgFNT 1)) s

/-- The output has been saturated for `SAT_MS`: the loop continues (R356). -/
def execFountainSat (s : State) : Out := run (fun s =>
  s.onlyIf (s.fntOn && decide (s.fntState ≠ 3) && s.bit pgFNT FNT_STATUS_SAT) (fun t =>
    (t.wr pgFNT FNT_STATUS_CAUSE 2).raise pgFNT 1)) s

/-- The deviation has stood above `DEV_BAND` for `DEV_MS` (R356). -/
def execFountainDeviation (s : State) : Out := run (fun s =>
  s.onlyIf (s.fntOn && !s.fnt.devTold &&
      decide (s.rd pgFNT FNT_DEV_DEV_BAND < (s.fnt.spInt - s.fnt.pLast).natAbs)) (fun t =>
    (t.updFnt (fun f => { f with devTold := true, devIn := 0 })).raise pgFNT 0)) s

def execFntEnable (r : Req) (s : State) : Out := run (fun s =>
  s.access r pgFNT 0x00C (fun t =>
    if t.bit pgFNT UNIT_CTRL_ENABLE then t
    else if !t.ready then t.dropWrite r pgFNT 0x00C
    else t.fntEnable)) s

/-- RESUME (R356): the input must have been in range for 10 ms. -/
def execFntResume (r : Req) (arg : BitVec 16) (s : State) : Out := run
  (command r pgFNT 0x0001 arg true false
    (fun s => [(decide (s.fnt.inRange < 100), rcWRONG_STATE)])
    State.fntStart) s

/-! ### The monitor ADC (R352, R353) -/

def State.updMon (s : State) (g : Mon → Mon) : State := { s with mon := g s.mon }

/-- A channel that the scan converts: enabled, or the Fountain's (R352). -/
def State.scanned (s : State) (c : Nat) : Bool :=
  s.rd pgMON MON_CH_EN_EN / 2 ^ c % 2 == 1 || (s.bit pgFNT UNIT_CTRL_ENABLE && s.fnt.chan == c)

/-- The next channel in ascending order after the last. -/
def State.nextChannel (s : State) : Option Nat :=
  let order := (List.range 24).map (fun i => (s.mon.last + 1 + i) % 24)
  order.find? s.scanned

/-- An event of the monitor: its condition holds now; it is raised again only after 1 ms without
(R353). -/
def State.monEvent (s : State) (i : Fin 4) : State :=
  let quiet := match s.mon.badAt.get i with
    | none => true
    | some t => decide (t + 1000000 ≤ s.now)
  let s1 := s.updMon (fun m => { m with badAt := m.badAt.set i.val (some s.now) })
  if quiet then s1.raise pgMON i.val else s1

/-- Channels 8 and 9 read °C = (code − 400) ÷ 8 (R352). -/
def State.tooHot (s : State) (code : Nat) : Bool :=
  decide (400 + 8 * s.rd pgMON MON_HOT_HOT_C < code)

/-- What a conversion brings about (R353). -/
def State.monEvents (s : State) (c code : Nat) : State :=
  let s1 := if c = 11 ∧ (code < 2027 ∨ 2067 < code) then s.monEvent 0 else s
  let s2 := if (c = 8 ∨ c = 9) ∧ s.tooHot code then s1.monEvent 1 else s1
  let s3 := if c = 10 ∧ (16 * code < 9000 ∨ 60000 < 16 * code) then s2.monEvent 2 else s2
  let enabled := s.rd pgMON MON_CH_EN_EN / 2 ^ c % 2 = 1
  if enabled ∧ (code = 0 ∨ code = 4095) then (s3.wr pgMON MON_LAST_RANGE_CH c).monEvent 3 else s3

/-- A conversion's result: `CODE`, and the mean with a time constant of 16 conversions (log 73). -/
def State.monPut (s : State) (c code : Nat) : State :=
  let old := ((s.mon.acc.toList[c]?).getD none).getD (16 * code)
  let acc := old + code - old / 16
  let s1 := s.updMon (fun m =>
    if h : c < 24 then { m with acc := m.acc.set c (some acc), convAt := m.convAt.set c (some s.now) }
    else m)
  ((s1.wr pgMON (MON_RESULT_CODE c) code).wr pgMON (MON_RESULT_MEAN c) (acc / 16))

/-- A channel is converted: channels 4–7 read 0 while MECH is down, folly 1 adds 100 codes on channel 11; the
result, the mean and the events follow (R352, R353). -/
def State.convert (s : State) (c code : Nat) : State × Nat :=
  let hit := s.follyOn pgMON 1 && c == 11
  let s0 := if hit then s.inject pgMON else s
  let v0 := if decide (4 ≤ c) && decide (c < 8) && decide (s.levelOf .mech = 0) then 0 else code
  let v := if hit then min 4095 (v0 + 100) else v0
  ((s0.monPut c v).monEvents c v, v)

/-- `CONFIRM` of the page; 0 acts as 1 (R92). -/
def State.confirms (s : State) : Nat := max 1 (s.rd pgPWR PWR_PATROL_CTRL_CONFIRM)

def State.winCount (s : State) (w : Nat) : Nat := (s.pwr.winCount.toList[w]?).getD 0

def State.setWinCount (s : State) (w n : Nat) : State :=
  if h : w < 8 then { s with pwr := { s.pwr with winCount := s.pwr.winCount.set w n } } else s

/-- Window `w` judges a conversion (R88): folly 1 makes it 4,095. Whether this confirms a violation; the
count then starts again at 0, so that `WINDOW` is raised again after `CONFIRM` more (DESIGN CHOICE, log 95). -/
def State.judgeWindow (s : State) (w code : Nat) : State × Bool :=
  let hit := s.follyOn pgPWR 1 && s.follyParam pgPWR == w
  let s0 := if hit then s.inject pgPWR else s
  let c := if hit then 4095 else code
  let bad := decide (c < s.ac pgPWR (PWR_WIN_LIM_LOW w)) || decide (s.ac pgPWR (PWR_WIN_LIM_HIGH w) < c)
  let n := if bad then s.winCount w + 1 else 0
  if bad && decide (s.confirms ≤ n) then (s0.setWinCount w 0, true) else (s0.setWinCount w n, false)

/-- Windows that watch a channel. -/
def State.windowsOn (s : State) (c : Nat) : List Nat :=
  (List.range 8).filter (fun w =>
    s.bit pgPWR (PWR_WIN_CFG_EN w) && s.rd pgPWR (PWR_WIN_CFG_CHANNEL w) == c)

/-- Outside Patrol the windows watch the scan and raise `WINDOW` (R89). -/
def State.windowScan (s : State) (c code : Nat) : State :=
  (s.windowsOn c).foldl
    (fun t w =>
      let (t1, yes) := t.judgeWindow w code
      if yes then t1.raise pgPWR 5 else t1) s

/-- The next channel is converted (R352); in Run and Hold the windows judge it (R89). -/
def execAdcConversion (code : BitVec 12) (s : State) : Out := run (fun s =>
  if decide (s.powerState = 4) then s
  else
    match s.nextChannel with
    | none => s
    | some c =>
      let x := (s.updMon (fun m => { m with last := c })).convert c code.toNat
      if x.1.powerState ≤ 2 then x.1.windowScan c x.2 else x.1) s

end Sys2Proof.Machine
end

