-- ==== Sys2Proof/Machine/MechOps.lean ====
section
/-! DEFINITION. The motion axes' shared operations: the profile generator in steps of 1 µs, ramps,
faults, the retract and what a move's end brings (R335–R351). -/

namespace Sys2Proof.Machine

def axisNone : Axis :=
  { pos := 0, vel := 0, motion := .rest, fault := false, offAtRest := false, held := true, iact := 0,
    fe := 0, stallAt := none, lastDir := 0, ended := 0, off := 0, chopA := Chop.idle, chopB := Chop.idle }

def State.axisOf (s : State) (a : Nat) : Axis := (s.axes.toList[a]?).getD axisNone

def State.updAxis (s : State) (a : Nat) (g : Axis → Axis) : State :=
  if h : a < 4 then { s with axes := s.axes.set a (g (s.axes.get ⟨a, h⟩)) } else s

def State.axisOn (s : State) (a : Nat) : Bool := s.bit (pgAXIS a) UNIT_CTRL_ENABLE

def State.axisState (s : State) (a : Nat) : Nat := s.rd (pgAXIS a) UNIT_STATUS_STATE

def State.homed (s : State) (a : Nat) : Bool := s.bit (pgAXIS a) AXIS_STATUS_HOMED

def State.ganged (s : State) : Bool := s.bit pgMOT MOT_ROOT_CFG_GANG

/-- One µstep in the units of `Axis.pos`, and 1 µstep/s in the units of `Axis.vel`. -/
def posUnit : Int := 1000000000000

def velUnit : Int := 1000000

/-- The issued position as the generator gives it, in 32.16 µsteps (R341; log 103). -/
def Axis.fixed (x : Axis) : Int := (65536 * x.pos).fdiv posUnit

/-- The issued position, in whole µsteps. -/
def Axis.at (x : Axis) : Int := x.fixed.fdiv 65536

def Axis.resting (x : Axis) : Bool := x.motion == .rest

/-- The axis's registers follow its generator. -/
def State.showAxis (s : State) (a : Nat) : State :=
  let p := pgAXIS a
  let x := s.axisOf a
  let s1 := (s.wrS p MOT_POS_POS x.at).wrS p MOT_SPEED_V (x.vel.fdiv velUnit)
  (s1.wrS p MOT_FE_FE (satInt 16 x.fe)).wr p MOT_FE_IACT (x.iact / 1000)

/-! ### Microsteps and current (R339, R340) -/

/-- The targets of coils A and B in 2⁻¹⁶ mA (R339). -/
def State.coilTargets (s : State) (a : Nat) : Int × Int :=
  let x := s.axisOf a
  let i := (x.at % 256).toNat
  let q := (x.at.fdiv 256 % 4).toNat
  let amps : Int := (x.iact / 1000 : Nat)
  let ca : Int := amps * (s.ac (pgAXIS a) (MOT_USTEP_CA i) : Int)
  let cb : Int := amps * (s.ac (pgAXIS a) (MOT_USTEP_CB i) : Int)
  if q = 0 then (ca, cb) else if q = 1 then (-cb, ca) else if q = 2 then (-ca, -cb) else (cb, -ca)

/-- The active current that R340 asks for now, in mA. -/
def State.currentGoal (s : State) (a : Nat) : Nat :=
  let p := pgAXIS a
  let x := s.axisOf a
  if x.held || (x.fault && x.resting) then s.ac p MOT_I_HR_I_HOLD
  else
    min (s.ac p MOT_I_MT_I_MAX)
      (s.ac p MOT_I_HR_I_RUN + s.ac p MOT_LOAD_K_LOAD * x.fe.natAbs / 16)

/-- The active current a µs later: no more than `I_SLEW` mA per ms nearer to its goal. -/
def slewed (now goal slew : Nat) : Nat :=
  if now < goal then min goal (now + slew) else max goal (now - slew)

/-! ### Bridges and the chopper (R336, R337) -/

/-- The axis's bridges are driven: it is enabled, and no bridge fault holds its gates off (R338). -/
def State.axisDriven (s : State) (a : Nat) : Bool :=
  s.axisOn a && !((s.axisOf a).fault && s.rd (pgAXIS a) AXIS_STATUS_CAUSE == 3)

/-- The gates that a phase turns on for a target of a sign: bit 0 the high side of leg 1, 1 its low side, 2
and 3 those of leg 2; positive current flows from leg 1 to leg 2 (R336). -/
def ChopPhase.gates (ph : ChopPhase) (negative : Bool) : Nat :=
  match ph with
  | .drive => if negative then 6 else 9
  | .fast => if negative then 9 else 6
  | .slow => 10

def mateGate (b : Nat) : Nat := if b % 2 = 0 then b + 1 else b - 1

/-- A gate of a coil is on: its phase asks for it, and its leg's other gate has been off for `DEAD_NS`
(R336). -/
def Chop.gateOn (c : Chop) (now dead b : Nat) : Bool :=
  decide (c.phase.gates c.neg / 2 ^ b % 2 = 1) && decide ((c.offAt.toList[mateGate b]?).getD 0 + dead ≤ now)

def Chop.gatesAt (c : Chop) (now dead : Nat) : Nat :=
  ([0, 1, 2, 3].map (fun b => if c.gateOn now dead b then 2 ^ b else 0)).sum

/-- The gates that are on and not in a mask go off now. -/
def Chop.drop (c : Chop) (now dead keep : Nat) : Chop :=
  { c with offAt := Vector.ofFn (fun (b : Fin 4) =>
      if c.gateOn now dead b.val && decide (keep / 2 ^ b.val % 2 = 0) then now else c.offAt.get b) }

/-- The chopper's gates switch, to another phase or for another sign. -/
def Chop.switch (c : Chop) (now dead : Nat) (negative : Bool) (ph : ChopPhase) : Chop :=
  { c.drop now dead (ph.gates negative) with phase := ph, neg := negative, since := now }

/-- Every gate goes off: the bridge is not driven any more. -/
def Chop.release (c : Chop) (now dead : Nat) : Chop := { c.drop now dead 0 with phase := .slow, since := now }

/-- A chopper that begins: only how long its gates have been off is left of what it did before. -/
def Chop.begins (c : Chop) : Chop := { Chop.idle with offAt := c.offAt }

/-- The target has changed its sign: the extremes count towards the new one, and a diagonal gives way to
the other. -/
def Chop.turn (c : Chop) (now dead : Nat) (negative : Bool) : Chop :=
  if c.neg == negative then c
  else
    let m := { c with peak := -c.valley, valley := -c.peak }
    if c.phase = .slow then { m with neg := negative } else m.switch now dead negative c.phase

/-- What a chopper's thresholds are set by: hysteresis, offset limit, and its times in ns (R337). -/
structure ChopCfg where
  hyst : Nat
  ofsMax : Nat
  dead : Nat
  fast : Nat
  blank : Nat
  toffMin : Nat
  deriving DecidableEq, Repr

/-- A time of the chopper acts in steps of 10 ns (R358). -/
def tens (ns : Nat) : Nat := ns / 10 * 10

def State.chopCfg (s : State) (a : Nat) : ChopCfg :=
  let p := pgAXIS a
  { hyst := s.ac p MOT_HYST_HYST, ofsMax := s.ac p MOT_HYST_OFS_MAX,
    dead := max 100 (tens (s.ac p MOT_CHOP_DEAD_NS)), fast := tens (s.ac p MOT_CHOP_FAST_NS), blank := tens (s.ac p MOT_CHOP_BLANK_NS),
    toffMin := tens (s.ac p MOT_CHOP_TOFF_MIN_NS) }

/-- The offset after a cycle (R337). -/
def Chop.adapt (c : Chop) (it : Int) (ofsMax : Nat) : Int :=
  let mean := (c.peak + c.valley).fdiv 2
  let o := c.ofs + (it - mean).fdiv 8
  min (max o (-(ofsMax : Int))) ofsMax

/-- Where a chopper stands at a time: fast decay gives way to slow after `FAST_NS`, between samples (R337). -/
def Chop.upTo (c : Chop) (cfg : ChopCfg) (now : Nat) : Chop :=
  if c.phase = .fast ∧ c.decayAt + cfg.fast ≤ now then c.switch (c.decayAt + cfg.fast) cfg.dead c.neg .slow else c

/-- The sense counts: `BLANK_NS` have passed since the last switch (R337). -/
def Chop.senses (c : Chop) (cfg : ChopCfg) (now : Nat) : Bool := decide (c.since + cfg.blank ≤ now)

/-- One sample of a coil: `it` is its target and `i` the sensed current, both counted towards the target's
sign, in mA (R337; log 103). -/
def Chop.sample (c0 : Chop) (cfg : ChopCfg) (now : Nat) (it i : Int) (negative : Bool) : Chop :=
  let c1 := (c0.upTo cfg now).turn now cfg.dead negative
  if !c1.senses cfg now then c1
  else
    let c := { c1 with peak := max c1.peak i, valley := min c1.valley i }
    let half : Int := (cfg.hyst / 2 : Nat)
    match c.phase with
    | .drive =>
      if it + c.ofs + half ≤ i then
        { c.switch now cfg.dead negative (if cfg.fast = 0 then .slow else .fast) with decayAt := now }
      else c
    | _ =>
      if i ≤ it + c.ofs - half ∧ c.decayAt + cfg.toffMin ≤ now then
        { c.switch now cfg.dead negative .drive with ofs := c.adapt it cfg.ofsMax, peak := i, valley := i }
      else c

/-- The sensed current of a coil in mA, through the shunt of `SHUNT_MOHM`, 0 acting as 1. -/
def State.sensed (s : State) (a : Nat) : Int :=
  (Config.coilSense s.free).fdiv ((max 1 (s.ac (pgAXIS a) MOT_SHUNT_SHUNT_MOHM) : Nat) : Int)

/-- A coil takes a sample towards its target. -/
def State.coilSample (s : State) (a : Nat) (c : Chop) (target : Int) : Chop :=
  let it := target.fdiv 65536
  if it < 0 then c.sample (s.chopCfg a) s.now (-it) (-(s.sensed a)) true
  else c.sample (s.chopCfg a) s.now it (s.sensed a) false

/-- A sensed current exceeds `I_TRIP` (R338). -/
def State.trips (s : State) (a : Nat) (c : Chop) : Bool :=
  (c.upTo (s.chopCfg a) s.now).senses (s.chopCfg a) s.now &&
    decide (s.ac (pgAXIS a) MOT_I_MT_I_TRIP < (s.sensed a).natAbs)

/-- The gates of an axis, coil A's in bits 3 to 0 and coil B's in bits 7 to 4 (R336). -/
def State.axisGates (s : State) (a : Nat) : Nat :=
  if !s.axisDriven a then 0
  else
    let cfg := s.chopCfg a
    let x := s.axisOf a
    (x.chopA.upTo cfg s.now).gatesAt s.now cfg.dead + 16 * (x.chopB.upTo cfg s.now).gatesAt s.now cfg.dead

/-- Every gate of an axis goes off. -/
def State.bridgesOff (s : State) (a : Nat) : State :=
  let cfg := s.chopCfg a
  let off := fun (c : Chop) => (c.upTo cfg s.now).release s.now cfg.dead
  s.updAxis a (fun x => { x with chopA := off x.chopA, chopB := off x.chopB })

/-- No chopper of a driven axis is in its drive phase (R351). -/
def State.noDrive (s : State) : Bool :=
  (List.range s.part.axes).all (fun a =>
    !s.axisDriven a || ((s.axisOf a).chopA.phase != .drive && (s.axisOf a).chopB.phase != .drive))

/-! ### The generator (R341–R345) -/

/-- The profile registers of an axis (R341). -/
def State.profile (s : State) (a : Nat) : Profile :=
  let p := pgAXIS a
  { vStart := s.rd p MOT_V_START_V, v1 := s.rd p MOT_V1_V, vMax := s.rd p MOT_V_MAX_V,
    vStop := s.rd p MOT_V_STOP_V, a1 := s.rd p MOT_ACC_A1, a2 := s.rd p MOT_ACC_A2,
    d1 := s.rd p MOT_DEC_D1, d2 := s.rd p MOT_DEC_D2 }

/-- Speed gained in 1 µs at an acceleration in 256 µsteps/s² units. -/
def gain (a : Nat) : Int := 256 * (a : Int)

/-- The stopping distance of R341 from speed `v` down to `vs`, both in the generator's units. -/
def stopDist (p : Profile) (v vs : Int) : Int :=
  let v1 := velUnit * p.v1
  if v1 < v then
    (v * v - v1 * v1).fdiv (512 * p.d2) + (v1 * v1 - vs * vs).fdiv (512 * p.d1)
  else (v * v - vs * vs).fdiv (512 * p.d1)

/-- A speed one µs down the programmed ramp, no lower than `low`. -/
def rampDown (p : Profile) (v low : Int) : Int :=
  let v1 := velUnit * p.v1
  if v1 < v then max (max v1 low) (v - gain p.d2) else max (min v low) (v - gain p.d1)

/-- A speed one µs up the profile's acceleration. -/
def rampUp (p : Profile) (v : Int) : Int :=
  let v1 := velUnit * p.v1
  if v < v1 then min v1 (v + gain p.a1) else min (velUnit * p.vMax) (v + gain p.a2)

def dirOf (d : Int) : Int := if d < 0 then -1 else if d = 0 then 0 else 1

/-- Where a move to `target` arrives. -/
def Axis.arrive (x : Axis) (target : Int) : Axis := { x with pos := target * posUnit, vel := 0 }

/-- One µs of a move to a target (R341). -/
def Axis.moveStep (x : Axis) (p : Profile) (target : Int) (braking : Bool) : Axis :=
  let left := target * posUnit - x.pos
  let d : Int := left.natAbs
  let v0 : Int := x.vel.natAbs
  let v := if v0 = 0 && !braking then velUnit * p.vStart else v0
  let brake := braking || decide (d ≤ stopDist p v (velUnit * p.vStop))
  let v' := if brake then rampDown p v (velUnit * p.vStop) else rampUp p v
  if left = 0 then { x with vel := 0 }
  else if (v' = 0 ∧ brake) ∨ (0 < v' ∧ d ≤ v') then { x.arrive target with motion := .move p target brake }
  else { x with pos := x.pos + dirOf left * v', vel := dirOf left * v', motion := .move p target brake }

/-- One µs of a ramp to rest (R345). -/
def Axis.rampStep (x : Axis) (p : Profile) : Axis :=
  let v := rampDown p x.vel.natAbs 0
  { x with pos := x.pos + dirOf x.vel * v, vel := dirOf x.vel * v }

/-- The cubic of a segment (R342) after `t` of its `n` µs: position and speed in the generator's
units. -/
def hermite (n t p0 v0 p1 v1 : Int) : Int × Int :=
  let h00 := 2 * t ^ 3 - 3 * t ^ 2 * n + n ^ 3
  let h01 := 3 * t ^ 2 * n - 2 * t ^ 3
  let h10 := t ^ 3 - 2 * t ^ 2 * n + t * n ^ 2
  let h11 := t ^ 3 - t ^ 2 * n
  let pos := ((h00 * p0 + h01 * p1) * posUnit).fdiv (n ^ 3) +
    ((h10 * v0 + h11 * v1) * velUnit).fdiv (n ^ 2)
  let vel := ((6 * t ^ 2 - 6 * t * n) * (p0 - p1) * posUnit).fdiv (n ^ 3) +
    ((3 * t ^ 2 - 4 * t * n + n ^ 2) * v0 * velUnit).fdiv (n ^ 2) +
    ((3 * t ^ 2 - 2 * t * n) * v1 * velUnit).fdiv (n ^ 2)
  (pos, vel)

/-- One µs of a table run (R342). -/
def Axis.tableStep (x : Axis) (p : Profile) (segs : List Seg) (t : Nat) (p0 v0 : Int) : Axis :=
  match segs with
  | [] => { x with vel := 0 }
  | g :: rest =>
    if g.t ≤ t + 1 then
      { x with pos := g.pos * posUnit, vel := velUnit * g.vel, motion := .table p rest 0 g.pos g.vel }
    else
      let (q, v) := hermite g.t ((t + 1 : Nat) : Int) p0 v0 g.pos g.vel
      { x with pos := q, vel := v, motion := .table p segs (t + 1) p0 v0 }

/-- One µs towards a speed `v` at no more than `V_MAX` and `A2` (R343, R344). -/
def Axis.cruise (x : Axis) (p : Profile) (up : Bool) (v : Int) : Axis :=
  let top := min v (velUnit * p.vMax)
  let goal := if up then top else -top
  let next := if x.vel < goal then min goal (x.vel + gain p.a2) else max goal (x.vel - gain p.a2)
  { x with pos := x.pos + next, vel := next }

/-- One µs at `D1` to rest. -/
def Axis.d1Step (x : Axis) (p : Profile) : Axis :=
  let v : Int := max 0 ((x.vel.natAbs : Int) - gain p.d1)
  { x with pos := x.pos + dirOf x.vel * v, vel := dirOf x.vel * v }

/-- One µs of a retract (R348): `RET_A` both ways, down to `RET_V` where it was faster, reversing through 0 where
it must. -/
def Axis.retractStep (x : Axis) (target : Int) (vr a : Nat) : Axis :=
  let left := target * posUnit - x.pos
  let d : Int := left.natAbs
  let v : Int := x.vel.natAbs
  if left = 0 ∧ v = 0 then x
  else if dirOf x.vel * dirOf left < 0 then
    let w := max 0 (v - gain a)
    { x with pos := x.pos + dirOf x.vel * w, vel := dirOf x.vel * w }
  else
    let brake := decide (d ≤ (v * v).fdiv (512 * a))
    let top := velUnit * vr
    let w := if brake then max 0 (v - gain a) else if top < v then max top (v - gain a) else min top (v + gain a)
    if (w = 0 ∧ d ≤ velUnit * vr) ∨ (d ≤ w ∧ w ≤ 2 * gain a) then x.arrive target
    else { x with pos := x.pos + dirOf left * w, vel := dirOf left * w }

/-- One µs of the generator; servo mode moves at its own 50 µs periods (R343). -/
def Axis.step (x : Axis) : Axis :=
  match x.motion with
  | .rest => x
  | .move p target b => x.moveStep p target b
  | .stop p _ => x.rampStep p
  | .table p segs t p0 v0 => x.tableStep p segs t p0 v0
  | .servo _ => x
  | .search m => x.cruise m.prof m.up (velUnit * m.v)
  | .homeStop m =>
    let y := x.d1Step m.prof
    if y.vel = 0 then { y with motion := .homeBack m } else y
  | .homeBack m => x.cruise m.prof (!m.up) ((velUnit * m.v).fdiv 8)
  | .homeEnd m _ => x.d1Step m.prof
  | .retract target v a => x.retractStep target v a

/-! ### Faults, ends and the retract (R345–R350) -/

/-- The axis and, with `GANG`, its partner: axis 0 commands both (R347). -/
def State.gangOf (s : State) (a : Nat) : List Nat := if s.ganged && a == 0 then [0, 1] else [a]

/-- The other axis of a gang. -/
def State.gangMate (s : State) (a : Nat) : Option Nat :=
  if s.ganged then (if a = 0 then some 1 else if a = 1 then some 0 else none) else none

/-- The axis begins to move: its current no longer holds. -/
def State.setMotion (s : State) (a : Nat) (m : Motion) (code : Nat) : State :=
  (s.updAxis a (fun x => { x with motion := m, held := false })).setState (pgAXIS a) code

/-- The profile a motion runs under. -/
def Motion.prof : Motion → Option Profile
  | .rest => none
  | .move p _ _ => some p
  | .stop p _ => some p
  | .table p _ _ _ _ => some p
  | .servo p => some p
  | .search m => some m.prof
  | .homeStop m => some m.prof
  | .homeBack m => some m.prof
  | .homeEnd m _ => some m.prof
  | .retract _ _ _ => none

/-- A motion ends along its ramp with `END` = `code` (R345); a retract goes on, and so does a ramp
that has begun, under the later code where that is a fault. -/
def State.rampAxis (s : State) (a code : Nat) : State :=
  match (s.axisOf a).motion with
  | .stop p c => s.updAxis a (fun x => { x with motion := .stop p (max c code) })
  | m =>
    match m.prof with
    | some p => s.setMotion a (.stop p code) 3
    | none => s

/-- FAULT with its cause (R346): 1 stall, 2 limit, 3 bridge, 4 home. -/
def State.axisFault (s : State) (a cause : Nat) : State :=
  ((s.updAxis a (fun x => { x with fault := true })).wr (pgAXIS a) AXIS_STATUS_CAUSE cause).raise
    (pgAXIS a) 1

/-- FAULT is over. -/
def State.axisClear (s : State) (a : Nat) : State :=
  (s.updAxis a (fun x => { x with fault := false })).wr (pgAXIS a) AXIS_STATUS_CAUSE 0

/-- The axis stands: IDLE, FAULT, or OFF where it was to disable (R346). -/
def State.axisStand (s : State) (a : Nat) : State :=
  let p := pgAXIS a
  let x := s.axisOf a
  let s1 := (s.updAxis a (fun y => { y with motion := .rest, vel := 0, offAtRest := false })).showAxis a
  if x.offAtRest then (s1.bridgesOff a).revote (fun t => (t.wr p UNIT_CTRL_ENABLE 0).setState p 0)
  else s1.setState p (if x.fault then 7 else 1)

/-- A motion has ended: `MOVE_END` with its code, of which the two bits of `END` show the low ones (R347;
log 108). -/
def State.endMove (s : State) (a code : Nat) : State :=
  (((s.axisStand a).updAxis a (fun x => { x with ended := code })).wr (pgAXIS a) AXIS_STATUS_END code).raise (pgAXIS a) 0

/-- WEB_BREAK_IN is high and starts retracts (R348–R350). -/
def State.liftBreak (s : State) : Bool := s.aon.webBreak && s.bit pgMOT MOT_ROOT_CFG_ON_BREAK

/-- A lift axis takes part in a retract: enabled, no bridge fault, `RET_V` nonzero (R348). -/
def State.canRetract (s : State) (a : Nat) : Bool :=
  s.has (pgAXIS a) && s.axisOn a && decide (a < 2) && decide (s.axisState a ≠ 6) &&
    !((s.axisOf a).fault && s.rd (pgAXIS a) AXIS_STATUS_CAUSE == 3) &&
    decide (s.rd (pgAXIS a) MOT_RET_V_V ≠ 0)

/-- One lift axis begins its retract: whatever it did is abandoned. -/
def State.retractAxis (s : State) (a : Nat) : State :=
  let p := pgAXIS a
  let m := Motion.retract (s.rdS p MOT_RET_POS_POS) (s.rd p MOT_RET_V_V) (s.rd p MOT_RET_A_A)
  ((s.axisClear a).setBusy p false).setMotion a m 6

/-- A retract on each axis of the list that takes part; one that moves an axis is counted (R348). -/
def State.retract (s : State) (axes : List Nat) : State :=
  let go := axes.filter s.canRetract
  if go.isEmpty then s
  else (go.foldl State.retractAxis s).incSat pgMOT MOT_RETRACTS_N

/-- A lift axis has been enabled or homed while WEB_BREAK_IN is high: it retracts where it is homed (R350). -/
def State.retractHigh (s : State) (axes : List Nat) : State :=
  if s.liftBreak then s.retract (axes.filter s.homed) else s

/-- `ON_BREAK` has become 1 while WEB_BREAK_IN is high: every homed lift axis that is not RETRACTED retracts
(R350). -/
def State.breakArmed (s : State) : State :=
  s.retractHigh ([0, 1].filter (fun a => !s.bit (pgAXIS a) AXIS_STATUS_RETRACTED))

/-- The rest of a ramp to standstill: how far it goes on (R341, R345). -/
def State.rampRest (s : State) (p : Profile) (v : Int) : State × Int :=
  if v = 0 then (s, 0)
  else if (decide (velUnit * p.v1 < v) && p.d2 == 0) || (decide (p.v1 ≠ 0) && p.d1 == 0) ||
      (decide (v ≤ velUnit * p.v1) && p.d1 == 0) then
    (s.draw, Config.endlessRamp s.free * posUnit)
  else (s, stopDist p v 0)

/-- The same at `D1` alone. -/
def State.d1Rest (s : State) (p : Profile) (v : Int) : State × Int :=
  if v = 0 then (s, 0)
  else if p.d1 = 0 then (s.draw, Config.endlessRamp s.free * posUnit)
  else (s, (v * v).fdiv (512 * p.d1))

/-- Homing is complete: the count shifts so that the latched edge reads `HOME_POS` (R344). -/
def State.homeDone (s : State) (a : Nat) (m : Homing) (latch : Int) : State :=
  let p := pgAXIS a
  let s1 := s.updAxis a (fun x => { x with pos := x.pos - latch + m.home * posUnit })
  let s2 := (s1.axisClear a).wr p AXIS_STATUS_HOMED 1
  (s2.endMove a 1).retractHigh [a]

/-- A motion that can end at rest by itself reaches its end (R341–R345). -/
def State.settle (s : State) (a : Nat) : State :=
  let x := s.axisOf a
  match x.motion with
  | .move p target _ =>
    if p.vMax = 0 ∧ x.pos ≠ target * posUnit then s
    else (s.updAxis a (fun y => y.arrive target)).endMove a 1
  | .table _ segs _ pos _ =>
    let fin := (segs.getLast?.map (fun g => g.pos)).getD pos
    (s.updAxis a (fun y => y.arrive fin)).endMove a 1
  | .stop p code =>
    let (s1, d) := s.rampRest p x.vel.natAbs
    (s1.updAxis a (fun y => { y with pos := y.pos + dirOf x.vel * d })).endMove a code
  | .homeEnd m latch =>
    let (s1, d) := s.d1Rest m.prof x.vel.natAbs
    (s1.updAxis a (fun y => { y with pos := y.pos + dirOf x.vel * d })).homeDone a m latch
  | _ => s

/-- A bridge fault (R338): every gate off at once, the position as it stands. -/
def State.bridgeFault (s : State) (a : Nat) : State :=
  let moving := !(s.axisOf a).resting
  let s1 := ((s.bridgesOff a).axisFault a 3).updAxis a (fun x => { x with vel := 0 })
  let s2 := if moving then s1.endMove a 3 else s1.axisStand a
  match s2.gangMate a with
  | some b => s2.rampAxis b 2
  | none => s2

/-- The way an axis moves or is about to: the sign of its travel. -/
def Axis.heading (x : Axis) : Int :=
  if x.vel ≠ 0 then dirOf x.vel
  else
    match x.motion with
    | .move _ t _ => dirOf (t * posUnit - x.pos)
    | .retract t _ _ => dirOf (t * posUnit - x.pos)
    | .table _ (g :: _) _ _ _ => dirOf (g.pos * posUnit - x.pos)
    | _ => 0

def Motion.homing : Motion → Bool
  | .search _ => true
  | .homeStop _ => true
  | .homeBack _ => true
  | .homeEnd _ _ => true
  | _ => false

/-- The ramp of a retract that a fault ends: at `RET_A` (R345, R348; log 108). -/
def retractProf (v a : Nat) : Profile :=
  { vStart := 0, v1 := 0, vMax := v, vStop := 0, a1 := a, a2 := a, d1 := a, d2 := a }

/-- A fault that ends a move along its ramp, on one axis of a gang or alone (R345–R347); in a retract the
other lift axis goes on with its own (R348). -/
def State.moveFault (s : State) (a cause : Nat) : State :=
  let s1 := s.axisFault a cause
  match (s.axisOf a).motion with
  | .rest => s1.axisStand a
  | .retract _ v acc => s1.setMotion a (.stop (retractProf v acc) 3) 3
  | _ =>
    let s2 := s1.rampAxis a 3
    match s2.gangMate a with
    | some b => s2.rampAxis b 2
    | none => s2

/-- The direction in which a switch lies: HOME that of `HOME_DIR`, LIM the other (R345). -/
def State.switchWay (s : State) (a : Nat) (lim : Bool) : Int :=
  let homeWay : Int := if s.bit (pgAXIS a) MOT_HOME_HOME_DIR then 1 else -1
  if lim then -homeWay else homeWay

/-- An active switch lies in a direction. -/
def State.switchAhead (s : State) (a : Nat) (dir : Int) : Bool :=
  (s.bit (pgAXIS a) MOT_SW_HOME && decide (dir = s.switchWay a false)) ||
    (s.bit (pgAXIS a) MOT_SW_LIM && decide (dir = s.switchWay a true))

/-- Outside HOME, and not in FAULT already, the axis moves towards an active switch: a limit (R345). -/
def State.limitMet (s : State) (a : Nat) : Bool :=
  let x := s.axisOf a
  !x.resting && !x.fault && !x.motion.homing && s.switchAhead a x.heading

/-! ### Time (R337, R340, R341) -/

/-- The current is `I_MAX` and the following error beyond `FE_LIMIT`: a stall's condition (R340). -/
def State.stalling (s : State) (a : Nat) : Bool :=
  let x := s.axisOf a
  let p := pgAXIS a
  decide (x.iact = 1000 * s.ac p MOT_I_MT_I_MAX) && decide (s.ac p MOT_STALL_FE_LIMIT < x.fe.natAbs)

/-- Both coils of a driven axis take a sample, every 100 ns (R336); a current beyond `I_TRIP` is a bridge fault
(R338). -/
def State.chopTick (s : State) (a : Nat) : State :=
  if !s.axisDriven a || decide (s.levelOf .mech ≠ 2) then s
  else
    let t := s.coilTargets a
    let x := s.axisOf a
    let s1 := s.draw
    let s2 := s1.draw
    if s1.trips a x.chopA || s2.trips a x.chopB then s2.bridgeFault a
    else
      s2.updAxis a (fun y =>
        { y with chopA := s1.coilSample a x.chopA t.1, chopB := s2.coilSample a x.chopB t.2 })

/-- What follows one µs of the generator: the direction of travel, and how long a stall's condition has
held. -/
def State.axisAfter (s : State) (a : Nat) : State :=
  let on := s.stalling a && !(s.axisOf a).resting
  s.updAxis a (fun x =>
    { x with stallAt := if on then some (x.stallAt.getD s.now) else none,
             lastDir := if x.vel = 0 then x.lastDir else dirOf x.vel })

/-- One µs of an axis: its current, its following error and its generator; an active switch ahead of it is a
limit (R345).  Follies 1 and 2 add to the following error and trip the bridge. -/
def State.axisTick (s : State) (a : Nat) : State :=
  let p := pgAXIS a
  if !s.axisOn a || decide (s.levelOf .mech ≠ 2) then s
  else if s.follyOn p 2 && !((s.axisOf a).fault && s.rd p AXIS_STATUS_CAUSE == 3) then
    (s.inject p).bridgeFault a
  else
    let x := s.axisOf a
    let fast := decide ((s.ac p MOT_V_EST_V : Int) * velUnit < x.vel.natAbs)
    let s1 := if fast then s.draw else s
    let lag : Int := if fast then Config.rotorLag s.free else 0
    let s2 := s1.atFolly p 1
      (fun t => t.updAxis a (fun y => { y with fe := lag + (s.follyParam p : Int) }))
      (fun t => t.updAxis a (fun y => { y with fe := lag }))
    let goal := s2.currentGoal a
    let slew := s2.ac p MOT_LOAD_I_SLEW
    let s3 := (s2.updAxis a (fun y =>
      { y.step with iact := slewed y.iact (1000 * goal) slew })).axisAfter a
    (if s3.limitMet a then s3.moveFault a 2 else s3).showAxis a

end Sys2Proof.Machine
end

