-- ==== Sys2Proof/Machine/Mechanics.lean ====
section
/-! DEFINITION. The commands and events of the motion axes (R335–R351, R358, R359), and of the clock
that MECH runs from. -/

namespace Sys2Proof.Machine

/-! ### The microstep table of LOAD_DEFAULT (R339) -/

def sines0 : List Nat := [
  0, 402, 804, 1206, 1608, 2010, 2412, 2814, 3216, 3617, 4019, 4420, 4821, 5222, 5623, 6023,
  6424, 6824, 7224, 7623, 8022, 8421, 8820, 9218, 9616, 10014, 10411, 10808, 11204, 11600, 11996, 12391]

def sines1 : List Nat := [
  12785, 13180, 13573, 13966, 14359, 14751, 15143, 15534, 15924, 16314, 16703, 17091, 17479, 17867, 18253, 18639,
  19024, 19409, 19792, 20175, 20557, 20939, 21320, 21699, 22078, 22457, 22834, 23210, 23586, 23961, 24335, 24708]

def sines2 : List Nat := [
  25080, 25451, 25821, 26190, 26558, 26925, 27291, 27656, 28020, 28383, 28745, 29106, 29466, 29824, 30182, 30538,
  30893, 31248, 31600, 31952, 32303, 32652, 33000, 33347, 33692, 34037, 34380, 34721, 35062, 35401, 35738, 36075]

def sines3 : List Nat := [
  36410, 36744, 37076, 37407, 37736, 38064, 38391, 38716, 39040, 39362, 39683, 40002, 40320, 40636, 40951, 41264,
  41576, 41886, 42194, 42501, 42806, 43110, 43412, 43713, 44011, 44308, 44604, 44898, 45190, 45480, 45769, 46056]

def sines4 : List Nat := [
  46341, 46624, 46906, 47186, 47464, 47741, 48015, 48288, 48559, 48828, 49095, 49361, 49624, 49886, 50146, 50404,
  50660, 50914, 51166, 51417, 51665, 51911, 52156, 52398, 52639, 52878, 53114, 53349, 53581, 53812, 54040, 54267]

def sines5 : List Nat := [
  54491, 54714, 54934, 55152, 55368, 55582, 55794, 56004, 56212, 56418, 56621, 56823, 57022, 57219, 57414, 57607,
  57798, 57986, 58172, 58356, 58538, 58718, 58896, 59071, 59244, 59415, 59583, 59750, 59914, 60075, 60235, 60392]

def sines6 : List Nat := [
  60547, 60700, 60851, 60999, 61145, 61288, 61429, 61568, 61705, 61839, 61971, 62101, 62228, 62353, 62476, 62596,
  62714, 62830, 62943, 63054, 63162, 63268, 63372, 63473, 63572, 63668, 63763, 63854, 63944, 64031, 64115, 64197]

def sines7 : List Nat := [
  64277, 64354, 64429, 64501, 64571, 64639, 64704, 64766, 64827, 64884, 64940, 64993, 65043, 65091, 65137, 65180,
  65220, 65259, 65294, 65328, 65358, 65387, 65413, 65436, 65457, 65476, 65492, 65505, 65516, 65525, 65531, 65535]

def sines8 : List Nat := [
  65535]

/-- sin(π*i*/512) as an unsigned 0.16 fraction, rounded, 1 as the largest fraction there is (log 70). -/
def sines : List Nat :=
  sines0 ++ sines1 ++ sines2 ++ sines3 ++ sines4 ++ sines5 ++ sines6 ++ sines7 ++ sines8

/-- The default microstep table: entries `i` from `n` − 1 down. -/
def State.defaultSteps (s : State) (p : Nat) : Nat → State
  | 0 => s
  | n + 1 =>
    let t := s.defaultSteps p n
    (t.wr p (MOT_USTEP_CA n) (sines.getD (256 - n) 0)).wr p (MOT_USTEP_CB n) (sines.getD n 0)

/-! ### Why a motion command is refused (R341, R342, R346, R347, R349) -/

def State.mechUp (s : State) : Bool := s.levelOf .mech == 2

/-- Axis 1 of a gang takes no command of its own but CLEAR_FAULT (R347). -/
def State.gangSlave (s : State) (a : Nat) : Bool := s.ganged && a == 1

/-- MOVE and RUN_TABLE find the wrong state. -/
def State.moveWrong (s : State) (a : Nat) : Bool :=
  s.axisState a != 1 || !s.homed a || s.gangSlave a || (decide (a < 2) && s.liftBreak)

/-- The profile is not one that MOVE accepts (R341). -/
def Profile.bad (p : Profile) : Bool :=
  decide (p.v1 < p.vStart) || decide (p.vMax < p.v1) || decide (p.v1 < p.vStop) ||
    p.a1 == 0 || p.a2 == 0 || p.d1 == 0 || p.d2 == 0

/-- Segments 0 to `n` − 1 as an axis holds them. -/
def State.segs (s : State) (a n : Nat) : List Seg :=
  (List.range n).map (fun k =>
    { t := s.rd (pgAXIS a) (MOT_SEG_T k), pos := s.rdS (pgAXIS a) (MOT_SEG_POS k),
      vel := s.rdS (pgAXIS a) (MOT_SEG_VEL k) })

/-- A segment faster in the mean than `V_MAX`, from position `p0` on. -/
def tooFast (vMax : Nat) : Int → List Seg → Bool
  | _, [] => false
  | p0, g :: t => decide ((vMax * g.t : Nat) < (g.pos - p0).natAbs * 1000000) || tooFast vMax g.pos t

/-- A table that RUN_TABLE does not accept (R342). -/
def State.tableBad (s : State) (a n : Nat) : Bool :=
  let gs := s.segs a n
  n == 0 || decide (64 < n) || gs.any (fun g => g.t == 0) ||
    ((gs.getLast?.map (fun g => g.vel)).getD 0 != 0) ||
    tooFast (s.profile a).vMax (s.axisOf a).at gs

/-- Moves on axis 0 and, ganged, on axis 1 where it is IDLE: relative to its own position (R347). -/
def State.gangMove (s : State) (a : Nat) (code : Nat) (m : Int → Motion) : State :=
  let x0 := (s.axisOf a).at
  ((s.gangOf a).filter (fun b => b == a || s.axisState b == 1)).foldl
    (fun t b =>
      let d := (t.axisOf b).at - x0
      (t.updAxis b (fun x => { x with off := d })).setMotion b (m d) code) s

/-! ### Commands -/

def execMove (r : Req) (a : Fin 4) (arg : BitVec 16) (s : State) : Out := run
  (command r (pgAXIS a.val) 0x0001 arg true false
    (fun s => [(s.moveWrong a.val, rcWRONG_STATE), ((s.profile a.val).bad, rcBAD_ARG)])
    (fun s =>
      let p := s.profile a.val
      let target := s.rdS (pgAXIS a.val) MOT_TARGET_POS
      let s1 := (s.gangOf a.val).foldl (fun t b => t.wr (pgAXIS b) AXIS_STATUS_RETRACTED 0) s
      s1.gangMove a.val 2 (fun d => .move p (target + d) false))) s

/-- R342, R358: refused as MOVE is, and where the table is not one that R342 accepts. -/
def execRunTable (r : Req) (a : Fin 4) (arg : BitVec 16) (s : State) : Out := run
  (command r (pgAXIS a.val) 0x0002 arg false false
    (fun s => [(s.moveWrong a.val, rcWRONG_STATE), ((s.profile a.val).bad || s.tableBad a.val arg.toNat, rcBAD_ARG)])
    (fun s =>
      let p := s.profile a.val
      let gs := s.segs a.val arg.toNat
      let x0 := (s.axisOf a.val).at
      s.gangMove a.val 2 (fun d =>
        .table p (gs.map (fun g => { g with pos := g.pos + d })) 0 (x0 + d) 0))) s

def execAxisStop (r : Req) (a : Fin 4) (arg : BitVec 16) (s : State) : Out := run
  (command r (pgAXIS a.val) 0x0003 arg true false
    (fun s =>
      [(s.gangSlave a.val || !(s.axisState a.val == 2 || s.axisState a.val == 4 ||
          s.axisState a.val == 5), rcWRONG_STATE)])
    (fun s => (s.gangOf a.val).foldl (fun t b => t.rampAxis b 2) s)) s

/-- HOME's search (R344): each axis of a gang under axis 0's profile. -/
def execHome (r : Req) (a : Fin 4) (arg : BitVec 16) (s : State) : Out := run
  (command r (pgAXIS a.val) 0x0004 arg true false
    (fun s =>
      [(s.gangSlave a.val || !(s.axisState a.val == 1 || s.axisState a.val == 7) ||
          (decide (a.val < 2) && s.liftBreak && s.homed a.val), rcWRONG_STATE)])
    (fun s =>
      let p := pgAXIS a.val
      ((s.gangOf a.val).filter (fun b => s.axisState b == 1 || s.axisState b == 7)).foldl
        (fun t b =>
          let m : Homing := { prof := s.profile a.val, up := s.bit p MOT_HOME_HOME_DIR,
                              v := s.rd p MOT_HOME_V_HOME, home := s.rdS p MOT_HOME_POS_POS,
                              range := s.rd p MOT_HOME_RANGE_N, start := (t.axisOf b).at }
          (t.axisClear b).setMotion b (.search m) 5) s)) s

/-- SERVO 1 enters servo mode, SERVO 0 leaves it at rest (R343); in FAULT and RETRACTING every form finds the wrong
state (R346, R348). -/
def execServo (r : Req) (a : Fin 4) (arg : BitVec 16) (s : State) : Out := run
  (command r (pgAXIS a.val) 0x0005 arg false false
    (fun s =>
      [(s.gangSlave a.val || s.axisState a.val == 6 || s.axisState a.val == 7 ||
          (arg == 1 && s.axisState a.val != 1) || (arg == 0 && !(s.axisState a.val == 4 && decide ((s.axisOf a.val).vel = 0))), rcWRONG_STATE),
       (decide (1 < arg.toNat), rcBAD_ARG)])
    (fun s =>
      if arg = 1 then s.gangMove a.val 4 (fun _ => .servo (s.profile a.val))
      else
        ((s.gangOf a.val).filter (fun b => s.axisState b == 4)).foldl (fun t b => t.axisStand b) s)) s

/-- An axis takes SET_POSITION: IDLE, or in FAULT with cause home (R346). -/
def State.placeable (s : State) (a : Nat) : Bool :=
  s.axisState a == 1 || (s.axisState a == 7 && s.rd (pgAXIS a) AXIS_STATUS_CAUSE == 4)

/-- SET_POSITION (R344, R346): ganged, axis 1 moves by as much as axis 0. -/
def execSetPosition (r : Req) (a : Fin 4) (arg : BitVec 16) (s : State) : Out := run
  (command r (pgAXIS a.val) 0x0006 arg true false
    (fun s =>
      [(s.gangSlave a.val || !s.placeable a.val, rcWRONG_STATE)])
    (fun s =>
      let d := s.rdS (pgAXIS a.val) MOT_TARGET_POS * posUnit - (s.axisOf a.val).pos
      ((s.gangOf a.val).filter s.placeable).foldl
        (fun t b =>
          let t1 := (t.axisClear b).updAxis b (fun x => { x with pos := x.pos + d })
          (((t1.wr (pgAXIS b) AXIS_STATUS_HOMED 1).setState (pgAXIS b) 1).showAxis b)) s)) s

/-- A limit stands in the last direction of travel (R346). -/
def State.limitHeld (s : State) (a : Nat) : Bool :=
  s.rd (pgAXIS a) AXIS_STATUS_CAUSE == 2 && s.switchAhead a (s.axisOf a).lastDir

def execClearFault (r : Req) (a : Fin 4) (arg : BitVec 16) (above : Bool) (s : State) : Out := run
  (command r (pgAXIS a.val) 0x0007 arg true false
    (fun s => [(s.axisState a.val != 7 || s.limitHeld a.val || above, rcWRONG_STATE)])
    (fun s =>
      ((s.gangOf a.val).filter (fun b => s.axisState b == 7 && (b == a.val || !s.limitHeld b))).foldl
        (fun t b => (t.axisClear b).setState (pgAXIS b) 1) s)) s

/-- R339, R358: also while the axis is disabled. -/
def execAxisLoadDefault (r : Req) (a : Fin 4) (arg : BitVec 16) (s : State) : Out := run
  (command r (pgAXIS a.val) 0x0008 arg true true
    (fun s =>
      [(s.gangSlave a.val || s.axisState a.val == 6 || s.axisState a.val == 7, rcWRONG_STATE),
       ((s.commitOf (pgAXIS a.val)).isSome, rcCOMMIT_HELD)])
    (fun s =>
      ((s.gangOf a.val).filter (fun b => (s.commitOf (pgAXIS b)).isNone)).foldl
        (fun t b => t.defaultSteps (pgAXIS b) 256) s)) s

/-! ### Ends, switches and faults -/

def execMoveEnd (a : Fin 4) (s : State) : Out := run (fun s => s.onlyIf s.mechUp (fun t => t.settle a.val)) s

/-- How far an axis goes on that slows from `w` by `a` each 50 µs period, for a speed towards its set-point. -/
def servoStop (a w : Int) : Int :=
  if a ≤ 0 ∨ w ≤ a then 0
  else
    let n := (w + a - 1) / a - 1
    50 * (n * w - a * (n * (n + 1) / 2))

/-- The speed towards a set-point `d` away in a period, from the speed `u` towards it: so that it lands there
at rest where `A2` allows it, else the highest from which it can still stop (R343; log 71). -/
def servoSpeed (a top u d : Int) : Int :=
  let want := d.fdiv 50
  let ok := fun (w : Int) => decide (w ≤ top) && decide (50 * w + servoStop a w ≤ d)
  if u - a ≤ want ∧ want ≤ u + a ∧ want ≤ top ∧ want ≤ a then want
  else if ok (min top (u + a)) && decide (u ≤ min top (u + a)) then min top (u + a)
  else if ok u then u
  else u - a

/-- One period of servo mode (R343): to the set-point at no more than `V_MAX` and `A2`; a period in which a limit
held it back counts. -/
def State.servoStep (s : State) (a : Nat) (p : Profile) : State :=
  let x := s.axisOf a
  let sp := if a = 1 ∧ s.ganged then s.rdS (pgAXIS 0) MOT_SERVO_SP_POS + x.off
    else s.rdS (pgAXIS a) MOT_SERVO_SP_POS
  let left := sp * posUnit - x.pos
  let dir := if left < 0 then -1 else 1
  let v := dir * servoSpeed (50 * gain p.a2) (velUnit * p.vMax) (dir * x.vel) left.natAbs
  let lands := decide (dir * v = (left.natAbs : Int).fdiv 50)
  let s1 := s.updAxis a (fun y => { y with pos := if lands then sp * posUnit else y.pos + 50 * v, vel := v })
  (if lands then s1 else s1.incSat (pgAXIS a) MOT_COUNTS_SP_LIMITED).showAxis a

def execServoPeriod (a : Fin 4) (s : State) : Out := run (fun s =>
  match (s.axisOf a.val).motion with
  | .servo p => s.onlyIf s.mechUp (fun t => t.servoStep a.val p)
  | _ => s) s

/-- The qualified home switch becomes active: a search stops at `D1` and turns back (R344). -/
def execHomeSwitchActive (a : Fin 4) (s : State) : Out := run (fun s =>
  s.onlyIf (s.has (pgAXIS a.val) && s.mechUp) (fun t =>
    let t1 := t.wr (pgAXIS a.val) MOT_SW_HOME 1
    match (t.axisOf a.val).motion with
    | .search m => t1.updAxis a.val (fun x => { x with motion := .homeStop m })
    | _ => t1)) s

/-- It releases: on the way back at `V_HOME` ÷ 8 the edge is latched and the axis stops at `D1` (R344). -/
def execHomeSwitchRelease (a : Fin 4) (s : State) : Out := run (fun s =>
  s.onlyIf (s.has (pgAXIS a.val) && s.mechUp) (fun t =>
    let t1 := t.wr (pgAXIS a.val) MOT_SW_HOME 0
    match (t.axisOf a.val).motion with
    | .homeBack m => t1.updAxis a.val (fun x => { x with motion := .homeEnd m x.pos })
    | _ => t1)) s

/-- The search has gone `HOME_RANGE` µsteps without finding the switch: a stop at `D1` with cause home
(R344). -/
def execHomeRangeExceeded (a : Fin 4) (s : State) : Out := run (fun s =>
  match (s.axisOf a.val).motion with
  | .search m =>
    s.onlyIf (s.mechUp && decide (m.range ≤ ((s.axisOf a.val).at - m.start).natAbs)) (fun t =>
      let p : Profile := { m.prof with d2 := m.prof.d1 }
      let t1 := (t.axisFault a.val 4).setMotion a.val (.stop p 3) 3
      match t1.gangMate a.val with
      | some b => t1.rampAxis b 2
      | none => t1)
  | _ => s) s

/-- A switch changes; active in the direction of travel outside HOME it is a limit (R345). -/
def execLimitSwitch (a : Fin 4) (lim active : Bool) (s : State) : Out := run (fun s =>
  s.onlyIf (s.has (pgAXIS a.val) && s.mechUp) (fun t =>
    let p := pgAXIS a.val
    let t1 := t.wrBit p (if lim then MOT_SW_LIM else MOT_SW_HOME) active
    let x := t.axisOf a.val
    if active && !x.motion.homing && decide (x.heading = t.switchWay a.val lim) then t1.moveFault a.val 2
    else t1)) s

/-- The current has equalled `I_MAX` and the following error has exceeded `FE_LIMIT` for `FE_MS` (R340). -/
def State.stalled (s : State) (a : Nat) : Bool :=
  s.stalling a &&
    match (s.axisOf a).stallAt with
    | some t => decide (t + 1000000 * max 1 (s.ac (pgAXIS a) MOT_STALL_FE_MS) ≤ s.now)
    | none => false

/-- A stall (R340, R346, R348): `HOMED` is lost. -/
def execStall (a : Fin 4) (s : State) : Out := run (fun s =>
  s.onlyIf (s.mechUp && s.axisOn a.val && !(s.axisOf a.val).resting && s.stalled a.val) (fun t =>
    let p := pgAXIS a.val
    ((t.incSat p MOT_COUNTS_STALLS).wr p AXIS_STATUS_HOMED 0).moveFault a.val 1)) s

def execBridgeTrip (a : Fin 4) (s : State) : Out := run (fun s =>
  s.onlyIf (s.mechUp && s.axisOn a.val) (fun t => t.bridgeFault a.val)) s

/-- A lift axis reaches `RET_POS` (R349). -/
def execRetractDone (a : Fin 4) (s : State) : Out := run (fun s =>
  match (s.axisOf a.val).motion with
  | .retract target _ _ =>
    s.onlyIf s.mechUp (fun t =>
      let t1 := (t.updAxis a.val (fun x => { x.arrive target with held := true })).wr (pgAXIS a.val)
        AXIS_STATUS_RETRACTED 1
      t1.endMove a.val 4)
  | _ => s) s

/-- At rest for `HOLD_MS`: the active current becomes `I_HOLD` (R340). -/
def execHoldCurrent (a : Fin 4) (s : State) : Out := run (fun s =>
  s.onlyIf (s.mechUp && s.axisOn a.val && (s.axisOf a.val).resting) (fun t =>
    t.updAxis a.val (fun x => { x with held := true }))) s

/-! ### Enable, disable, clock -/

/-- `ENABLE` goes to 1 (R350): FAULT is kept until its own commands clear it. -/
def State.axisEnable (s : State) (a : Nat) : State :=
  let p := pgAXIS a
  let s1 := s.revote (fun t => t.wr p UNIT_CTRL_ENABLE 1)
  let s2 := (s1.updAxis a (fun x => { x with motion := .rest, vel := 0, held := true, stallAt := none,
                                             chopA := x.chopA.begins, chopB := x.chopB.begins })).setState p
    (if (s1.axisOf a).fault then 7 else 1)
  if a < 2 then s2.retractHigh [a] else s2

/-- A write of 0 to `ENABLE` (R346): a moving axis stops and disables at rest. -/
def State.axisDisable (s : State) (a : Nat) : State :=
  if (s.axisOf a).resting then
    (s.bridgesOff a).revote (fun t => (t.wr (pgAXIS a) UNIT_CTRL_ENABLE 0).setState (pgAXIS a) 0)
  else
    let s1 := s.updAxis a (fun x => { x with offAtRest := true })
    let s2 := s1.rampAxis a 2
    match s2.gangMate a with
    | some b => s2.rampAxis b 2
    | none => s2

def execAxisEnable (r : Req) (a : Fin 4) (s : State) : Out := run (fun s =>
  s.access r (pgAXIS a.val) 0x00C (fun t =>
    if t.axisOn a.val then t.updAxis a.val (fun x => { x with offAtRest := false })
    else if !t.ready then t.dropWrite r (pgAXIS a.val) 0x00C
    else t.axisEnable a.val)) s

def execAxisDisable (r : Req) (a : Fin 4) (s : State) : Out := run (fun s =>
  s.access r (pgAXIS a.val) 0x00C (fun t => if t.axisOn a.val then t.axisDisable a.val else t)) s

/-- MECH changes over between PLL_SYS and the crystal, while no chopper drives (R351). -/
def execMechClockChange (s : State) : Out := run (fun s =>
  s.onlyIf (s.mechUp && s.noDrive) (fun t => { t with mechXtal := decide (t.levelOf .sys ≠ 2) })) s

end Sys2Proof.Machine
end

