-- ==== Sys2Proof/Machine/Power.lean ====
section
/-! DEFINITION. Commands and events of the power sequencer: votes, the drop and the rise of domains,
Patrol and the wake comparators (R75–R93). -/

namespace Sys2Proof.Machine

/-! ### Votes (R76, R80, R92) -/

/-- The vote on SYS that a vote word holds. -/
def sysVote (levels : Nat) : Nat := voteOf levels 0

/-- A vote word is written by its own client; a withdrawal of the Groundskeeper's vote on SYS waits
until its cores halt (R80). -/
def State.setVote (s : State) (client : Nat) (level : Nat) : State :=
  s.revote (fun t =>
    let t1 := t.wr pgPWR (PWR_VOTE_LEVEL client) level
    if client = 1 then
      { t1 with pwr := { t1.pwr with gkpSys := max t1.pwr.gkpSys (sysVote level), gkpHalted := false } }
    else t1)

/-- R76, R92: a write from any other requester is dropped. -/
def execVoteWrite (r : Req) (client : Fin 7) (level : BitVec 14) (s : State) : Out := run (fun s =>
  let off := 0x040 + 4 * client.val
  s.access r pgPWR off (fun t =>
    if client.val = reqNum r then t.setVote client.val level.toNat else t.dropWrite r pgPWR off)) s

/-- R80: while both cores are halted, a withdrawal of the Groundskeeper's vote on SYS counts. -/
def execGkpWfiHalt (s : State) : Out := run (fun s =>
  s.onlyIf (s.wrd.gkp == .running) (fun t =>
    t.revote (fun u =>
      { u with pwr := { u.pwr with gkpHalted := true } }))) s

/-! ### Drops and rises (R83–R86) -/

/-- Lanes of a domain that loses its clocks are no longer up. -/
def State.lanesDark (s : State) : State :=
  (List.range s.part.heads).foldl (fun t h => if (t.onkOf h).up then t.laneGone h else t) s

/-- Every kiosk follows what keeps it out of the pool or lets it in (R83). -/
def State.poolFollow (s : State) : State :=
  if !s.pwr.poolMove then s
  else
    let s1 : State := { s with pwr := { s.pwr with poolMove := false } }
    ((List.range s1.part.kiosks).foldl (fun t k => t.kioskMove k) s1).publish

/-- What a domain has left to do before its drop (R83): a copy, a flash operation and the Guestbook's queue;
requests that wait for DRAM, and a real-time port in panic (R86, R299); frames in a port's queue; kiosks that
decode; camera lines, headers, quality rows and an archive or ALIGN under way. -/
def State.domainBusy (s : State) (d : Fin 7) : Bool :=
  match d with
  | 0 => s.drc.copy.isSome || s.fsh.op.isSome || !s.gbk.queue.isEmpty
  | 2 => s.anyPanic || !s.drc.queue.isEmpty
  | 4 => (List.range s.part.kiosks).any (fun k => s.kioskState k == 2)
  | 5 => s.cam.toList.any (fun c => !c.queue.isEmpty || !c.headers.isEmpty) || s.qlpBusy
  | _ => false

/-- Self-refresh entry up to SRE: every owed refresh is issued and the rows close (R299), and the keepers of
R23 hold the DRAM's balls as MEM is isolated. -/
def State.srEnter (s : State) : State :=
  let s1 := [(0 : Fin 2), 1].foldl State.refreshOwed s
  let shut (c : Chan) : Chan := { c with rows := [] }
  { s1 with aon := { s1.aon with ddrKept := true },
            drc := { s1.drc with chans := s1.drc.chans.map shut } }

/-- R83, R86, R299: a domain has quiesced, and its state is saved and isolated; a real-time port in panic
keeps MEM from its entry.  Its switch opens with the ticks that follow (log 93). -/
def execDomainQuiesced (d : Fin 7) (s : State) : Out := run (fun s =>
  s.onlyIf (s.phase d == .quiescing && !s.domainBusy d) (fun t =>
    let u := if d = 4 then t.poolFollow else if d = 2 then t.srEnter else t
    (u.setPhase d .saved).react)) s

/-- The references of a domain's PLLs as its inputs go on or off (R21, R60). -/
def State.senseRefs (s : State) (d : Fin 7) : State :=
  ((State.pllsOf d).filter (fun n => decide (8 ≤ n))).foldl State.showRef s

/-- The switch of a domain opens: its PLLs have stopped. -/
def State.openSwitch (s : State) (d : Fin 7) : State :=
  let s1 := (State.pllsOf d).foldl (fun t n => t.stopPll n) s
  let s2 := if d = 4 then s1.lanesDark else s1
  (s2.setPhase d (.opening false)).senseRefs d

/-- A drop has ended; with the last domain the board rails are switched off (R83). -/
def State.dropEnds (s : State) (d : Fin 7) : State :=
  let s1 := s.setPhase d .down
  if s1.pwr.doms.toList.all (· == .down) then { s1 with aon := { s1.aon with railEn := false } } else s1

/-- The next steps of a drop that is under way. -/
def State.dropStep (s : State) (d : Fin 7) : State :=
  match s.phase d with
  | .saved => s.openSwitch d
  | .opening _ => s.dropEnds d
  | _ => s

/-- The sequencer in one tick: drops go on, and once start-up has ended the levels are followed (R83). -/
def State.tickPower (s : State) : State :=
  let s1 := dropOrder.foldl State.dropStep s
  (if s1.ready then s1.revote id else s1).poolFollow

/-- R83: the supply of a rising domain is good and its PLLs lock; one without a PLL to lock is up. -/
def execDomainSupplyGood (d : Fin 7) (s : State) : Out := run (fun s =>
  s.onlyIf (s.ready && s.phase d == .supplying && s.railsGood) (fun t =>
    let u := (t.setPhase d .locking).senseRefs d
    let ns := (State.pllsOf d).filter t.pllWanted
    if ns.isEmpty then (u.domainUp d).react
    else ns.foldl (fun x n => x.startPll n) u)) s

/-- R85, R18: where RAIL_EN_MAIN has risen to raise a domain, none being on, the rails are switched off
again and every domain stays at 0 until the next wake source, in Retain or Patrol. -/
def execRailTimeout (s : State) : Out := run (fun s =>
  s.onlyIf (s.ready && s.aon.railEn && !s.railsGood && s.rising &&
      s.pwr.doms.toList.all (fun p => p == .down || p == .supplying)) (fun t =>
    let doms := t.pwr.doms.map (fun p => if p = .supplying then DomPhase.down else p)
    let t1 : State := { t with
      pwr := { t.pwr with doms := doms }
      aon := { t.aon with railEn := false, railTimeout := true } }
    let t2 := (t1.wr pgPWR PWR_WAKE_CAUSE_RAIL_TIMEOUT 1).wr pgWRD WRD_FAULT_RAIL 1
    if t2.powerState = 4 then t2.patrolEntry else t2)) s

/-- R86: the drop of MEM is tried again while its effective level is still 0. -/
def execMemDropRetry (s : State) : Out := run (fun s =>
  s.onlyIf s.pwr.memRetry (fun t =>
    ({ t with pwr := { t.pwr with memRetry := false } }).react)) s

/-- R81. -/
def execHoldRegate (d : Fin 7) (s : State) : Out := run (fun s =>
  { s with pwr := { s.pwr with ungated := s.pwr.ungated.set d.val false } }) s

/-! ### Patrol and wake (R88, R90, R91) -/

/-- Windows that are enabled, lowest first; channels 24 to 31 disable one. -/
def State.patrolWindows (s : State) : List Nat :=
  (List.range 8).filter (fun w =>
    s.bit pgPWR (PWR_WIN_CFG_EN w) && decide (s.rd pgPWR (PWR_WIN_CFG_CHANNEL w) < 24))

/-- The channels of the windows are converted, and each window judges its conversion; a confirmed one is the cause of the wake (R88), of several the
lowest (DESIGN CHOICE, log 95). -/
def State.patrol (s : State) : List Nat → List (BitVec 12) → State × Option Nat
  | w :: ws, c :: cs =>
    let x := s.convert (s.rd pgPWR (PWR_WIN_CFG_CHANNEL w)) c.toNat
    let (s1, yes) := x.1.judgeWindow w x.2
    let (s2, rest) := State.patrol s1 ws cs
    (s2, if yes then some w else rest)
  | _, _ => (s, none)

/-- R88, R91: the conversions stand in the order of their windows. -/
def execPatrolCycle (codes : List (BitVec 12)) (s : State) : Out := run (fun s =>
  s.onlyIf (s.powerState == 4) (fun t =>
    let t1 := t.inc pgPWR PWR_PATROL_STAT_CYCLES
    let (t2, hit) := t1.patrol t1.patrolWindows codes
    match hit with
    | none => t2
    | some w => ((t2.wr pgPWR PWR_WAKE_CAUSE_WINDOW 1).wr pgPWR PWR_WAKE_CAUSE_WIN_NUM w).wake)) s

/-- R90, R91: an enabled comparator trips. -/
def execWakeComparatorTrip (c : Fin 4) (s : State) : Out := run (fun s =>
  s.onlyIf (s.bit pgPWR (PWR_COMP_CTRL_EN c.val) && !s.aon.compTripped.get c) (fun t =>
    let t1 : State := { t with aon := { t.aon with compTripped := t.aon.compTripped.set c.val true } }
    let t2 := t1.wr pgPWR PWR_COMP_STAT_TRIPPED (t1.rd pgPWR PWR_COMP_STAT_TRIPPED ||| 2 ^ c.val)
    if !t2.asleep then t2.raise pgPWR 4
    else if t2.bit pgPWR (PWR_COMP_CTRL_WAKE c.val) then
      (t2.wr pgPWR PWR_WAKE_CAUSE_COMP (t2.rd pgPWR PWR_WAKE_CAUSE_COMP ||| 2 ^ c.val)).wake
    else t2)) s

/-- R90; `EN` is not asked, so a comparator switched off while it is tripped reads tripped until its input
returns (DESIGN CHOICE, log 95). -/
def execWakeComparatorReset (c : Fin 4) (s : State) : Out := run (fun s =>
  s.onlyIf (s.aon.compTripped.get c) (fun t =>
    let t1 : State := { t with aon := { t.aon with compTripped := t.aon.compTripped.set c.val false } }
    t1.wr pgPWR PWR_COMP_STAT_TRIPPED (t1.rd pgPWR PWR_COMP_STAT_TRIPPED &&& (15 - 2 ^ c.val)))) s

end Sys2Proof.Machine
end

