-- ==== Sys2Proof/Machine/Trellis.lean ====
section
/-! DEFINITION. Commands and events of Trellis (R183–R199). -/

namespace Sys2Proof.Machine

/-- Folly 1 takes the next ribbon word read as poisoned: the first group of the line's lowest plane. -/
def State.follyGroup (s : State) (h : Nat) : List (Nat × Nat) :=
  if s.follyOn (pgTRL h) 1 && s.maps h then
    match planesOf (s.ribOf h).layers with
    | [] => []
    | l :: _ => [(l, 0)]
  else []

/-- Folly 2 of the BIST page spoils the first group or entry of its segment that the line reads. -/
def State.follySpoils (s : State) (h : Nat) (m : Mapping) : List (Nat × Nat) × List Nat :=
  if s.follyOn pgBST 2 && s.maps h then
    let r := s.ribOf h
    let all := (planesOf r.layers).flatMap (fun l => (List.range r.width).map (fun g => (l, g)))
    match all.find? (fun g => (s.follyWord (r.planeAddr g.1 m.line + 24 * g.2) 24).isSome) with
    | some g => ([g], [])
    | none =>
      match (List.range (nozzlesOf m.geom)).find?
          (fun i => (s.follyWord (trlEntry h m.bank i) 16).isSome) with
      | some i => ([], [i])
      | none => ([], [])
  else ([], [])

/-- R75, R183, R193, R194, R196, R197: while PRINT's clocks run, the oldest line in mapping is handed to
the lane and to the quality loop. -/
def execTrellisHandover (h : Fin 32) (groups : List (Fin 4 × Fin 128)) (entries : List (BitVec 13))
    (ces : List (BitVec 26)) (s : State) : Out := run (fun s =>
  match (s.trlOf h.val).maps with
  | [] => s
  | m :: rest =>
    if !s.printRuns then s else
    let s0 := s.updTrl h.val (fun t => { t with maps := rest })
    let extra := s0.follyGroup h.val
    let spoilt := s0.follySpoils h.val m
    let sf := if extra.isEmpty then s0 else s0.inject (pgTRL h.val)
    let s1 := if spoilt.1.isEmpty && spoilt.2.isEmpty then sf else sf.inject pgBST
    let found := s1.mapPoison h.val m groups entries
    let bad := (found.1, (found.2 ++ spoilt.2).eraseDups)
    let gs := (extra ++ spoilt.1 ++ bad.1).eraseDups
    let s2 := gs.foldl (fun t g => t.trlPoison h.val m.line (64 * g.2) 0 g.1) s1
    -- the poison of an entry recurs until a commit replaces it (R197)
    let fresh := found.2.filter (fun i => !s2.poisonedIn (trlEntry h.val m.bank i) 16)
    let sp := fresh.foldl (fun t i => t.taint (trlEntry h.val m.bank i) 8) s2
    let s3 := bad.2.foldl (fun t i => t.trlPoison h.val m.line i 1 0) sp
    let dark := (s3.trlOf h.val).differs
    let made := s3.mapLevels h.val m gs bad.2
    let levels := if dark then made.map (fun _ => 0) else made
    let s4 := if s.maps h.val then s3.add2 (pgTRL h.val) TRL_LINES_LO_N TRL_LINES_HI_N 1 else s3
    let s5 := s4.updTrl h.val (fun t => { t with differs := false })
    ((s5.sramCes (ces.filter (fun o => decide (o.toNat < 0x3300000) &&
      !(decide (0x2800000 ≤ o.toNat) && decide (o.toNat < 0x2E00000))))).frameLine h.val m.line
        levels).qlpLine h.val m.line levels) s

/-- R192: an access to `TRL_TBL_DATA`[w]; while the bank is SYNCING the fabric holds it. -/
def execTrlTblAccess (r : Req) (h : Fin 32) (w : Fin 4) (write : Option Word) (s : State) : Out :=
  run (fun s =>
    let p := pgTRL h.val
    let go (t : State) : State := t.trlAccess r h.val w.val write
    match write with
    | some _ => s.access r p (0x050 + 4 * w.val) go
    | none => s.readAccess r p go) s

def State.trlTblCauses (s : State) (h : Nat) : List (Bool × Nat) :=
  [((s.commitOf (pgTRL h)).isSome, rcCOMMIT_HELD), (s.trlState h == bkSYNCING, rcWRONG_STATE)]

/-- R198: the shadow bank reads DIRTY at once, its entries stand when the command completes. -/
def execTrlLoadDefault (r : Req) (h : Fin 32) (arg : BitVec 16) (s : State) : Out := run (fun s =>
  command r (pgTRL h.val) 0x0001 arg true true (fun t => t.trlTblCauses h.val)
    (fun t => (t.setBusy (pgTRL h.val) true).setState (pgTRL h.val) bkDIRTY) s) s

/-- R198. -/
def execTrlLoadDefaultDone (h : Fin 32) (s : State) : Out := run (fun s =>
  s.onlyIf (s.bit (pgTRL h.val) UNIT_STATUS_CMD_BUSY && s.trlState h.val != bkSYNCING) (fun t =>
    let bytes := (List.range 5120).flatMap trlDefault
    ((t.store (trlBank h.val !(t.trlOf h.val).bank) bytes false).setState (pgTRL h.val) bkDIRTY).setBusy
      (pgTRL h.val) false)) s

/-- R198. -/
def execTrlRevert (r : Req) (h : Fin 32) (arg : BitVec 16) (s : State) : Out := run (fun s =>
  command r (pgTRL h.val) 0x0002 arg true true (fun t => t.trlTblCauses h.val)
    (fun t => t.setState (pgTRL h.val) bkSYNCING) s) s

/-- R195, R199, R272. -/
def execSetOut (r : Req) (arg : BitVec 16) (s : State) : Out := run (fun s =>
  command r pgTRLroot 0x0001 arg true false
    (fun t =>
      let g := t.rd pgTRLroot TRL_OUT_REQ_NOZZLE
      let hs := t.outHeads g
      [(t.outBad g, rcBAD_ARG),
       (hs.any (fun h => !t.bit (pgTRL h) UNIT_CTRL_ENABLE), rcDISABLED),
       (hs.any (fun h => (t.commitOf (pgTRL h)).isSome), rcCOMMIT_HELD),
       (hs.any (fun h => t.trlState h != bkCLEAN), rcWRONG_STATE)])
    (fun t =>
      let g := t.rd pgTRLroot TRL_OUT_REQ_NOZZLE
      let v := t.bit pgTRLroot TRL_OUT_REQ_VALUE
      (t.setOutPages r g v).qlpCountOut r v) s) s

end Sys2Proof.Machine
end

