-- ==== Sys2Proof/Machine/RegRead.lean ====
section
/-! DEFINITION. What a read of a register word answers: the words that follow from other state, and
the words as stored (R37–R41, R55 and the chapters' block registers). -/

namespace Sys2Proof.Machine

/-- The parent of a unit (R13, R41): a root's parent is TOP. -/
def parentOf (kd : Kind) (u : Nat) : Nat :=
  match kd with
  | .enc | .spd | .trg => pgSDL
  | .stm => pgING
  | .pav =>
    if u = 0 then pgTOP else if u < 5 then pgPAV 0 else pgPAV (1 + (u - 5) / 3)
  | .ksk => pgPAV (5 + u / 8)
  | .trl => pgTRLroot | .fir => pgFIRroot | .onk => pgONKroot | .cam => pgBLV
  | .dram => pgDRC | .net => pgNETroot | .tb => pgPTP | .axis => pgMOT
  | _ => pgTOP

/-- First child and number of present children (R13, R14, R41); 0 and 0 for a unit without any. -/
def childrenOf (part : Part) (kd : Kind) (u : Nat) : Nat × Nat :=
  match kd with
  | .top => (0x001, 10)
  | .sdl => (pgENC 0, 4 + part.belvedere)
  | .ing => (pgSTM 0, 4)
  | .pav =>
    if u = 0 then (pgPAV 1, part.clusters) else if u < 5 then (pgPAV (5 + 3 * (u - 1)), 3)
    else (pgKSK (8 * (u - 5)), 8)
  | .trlRoot => (pgTRL 0, part.heads)
  | .firRoot => (pgFIR 0, part.heads)
  | .onkRoot => (pgONK 0, part.heads)
  | .blvRoot => (pgCAM 0, part.cams)
  | .drcRoot => (pgDRAM 0, 2)
  | .netRoot => (pgNET 0, 2)
  | .ptp => (pgTB 0, 4)
  | .motRoot => (pgAXIS 0, part.axes)
  | _ => (0, 0)

/-- A pavilion's place in the tree (R13); any other unit's number within its run. -/
def placeIn (kd : Kind) (page u : Nat) : Nat := if kd = .pav then page - pgPAV 0 else u

def linkWord (part : Part) (kd : Kind) (u : Nat) : Word :=
  let c := childrenOf part kd u
  BitVec.ofNat 32 (parentOf kd u * 2 ^ 20 + c.1 * 2 ^ 8 + c.2)

/-- Kiosks at or below a page of the tree. -/
def kiosksUnder (kd : Kind) (u : Nat) : List Nat := if kd = .ksk then [u] else kiosksBelow u

/-- The present kiosks beneath a pavilion. -/
def State.beneath (s : State) (u : Nat) : List Nat :=
  (kiosksBelow u).filter (fun j => decide (j < s.part.kiosks))

/-- A pavilion's counters: the sums over its subtree, `WK_OVERRUNS` saturating; a bit of `WK_OUT` is 1
where any kiosk beneath has it (R149, R163). -/
def State.pavWord (s : State) (u off : Nat) : Option Word :=
  let ks := s.beneath u
  let sum (lo hi : Fld) : Nat := (ks.map (fun j => s.rd2 (pgKSK j) lo hi)).sum
  if off = 0x048 then some (BitVec.ofNat 32 (sum WK_CYCLES_LO_N WK_CYCLES_HI_N))
  else if off = 0x04C then some (BitVec.ofNat 32 (sum WK_CYCLES_LO_N WK_CYCLES_HI_N / 2 ^ 32))
  else if off = 0x050 then some (BitVec.ofNat 32 (sum WK_TILES_LO_N WK_TILES_HI_N))
  else if off = 0x054 then some (BitVec.ofNat 32 (sum WK_TILES_LO_N WK_TILES_HI_N / 2 ^ 32))
  else if off = 0x058 then
    some (BitVec.ofNat 32 (min (2 ^ 32 - 1) (ks.map (fun j => s.rd (pgKSK j) WK_OVERRUNS_N)).sum))
  else if off = 0x05C then some (ks.foldl (fun w j => w ||| s.word (pgKSK j) 0x05C) 0)
  else none

/-- `UNIT_CAP`: trigger channels (TRG), and R163's capabilities; 0 where a kind defines none. -/
def capWord (part : Part) (kd : Kind) (u : Nat) : Word :=
  match kd with
  | .trg => BitVec.ofNat 32 part.cams
  | .pav | .ksk =>
    let n := ((kiosksUnder kd u).filter (fun j => decide (j < part.kiosks))).length
    BitVec.ofNat 32 (n + 1000 * 2 ^ 16 + 2 ^ 28 + 2 ^ 29)
  | _ => 0

/-- The directory of top-level runs (R41): first page and length by part. -/
def topDir (part : Part) (i : Nat) : Nat × Nat :=
  let firsts := [0x010, 0x020, 0x040, 0x080, 0x120, 0x160, 0x1A0, 0x1C0, 0x1C8, 0x200, 0x210, 0x218,
                 0x220, 0x240, 0x250]
  (firsts.getD i 0, if i = 1 then part.heads else 1)

/-- Time since an instant in units of `unit` ns, saturating at `top`; `top` where there is none. -/
def ageOf (now : Nat) (at_ : Option Nat) (unit top : Nat) : Nat :=
  match at_ with
  | none => top
  | some t => min top ((now - t) / unit)

/-- The bits of a list, the first lowest. -/
def bitsNum (bs : List Bool) : Nat := bs.foldr (fun b n => b2n b + 2 * n) 0

/-- `TOP_EVT_SUM`: 32 events from `32 * w` on (R382). -/
def State.sumWord (s : State) (w : Nat) : Word :=
  BitVec.ofNat 32 (bitsNum ((List.range 32).map (fun b => s.eventPending (32 * w + b))))

/-- The level of each of the seven domains as a vote word codes it. -/
def levelsNum (f : Nat → Nat) : Nat := ((List.range 7).map (fun d => f d * 4 ^ d)).sum

/-- `PWR_DOMAIN_STAT`: a domain is clamped from step 3 of its drop until it is up again (R83). -/
def State.domainWord (s : State) : Word :=
  let ds := List.range 7
  let up (d : Nat) : Bool := (s.pwr.doms.toList[d]?) == some DomPhase.up
  let clamp (d : Nat) : Bool := !up d && (s.pwr.doms.toList[d]?) != some DomPhase.quiescing
  let has (d : Nat) : Bool := s.part.hasDom d
  BitVec.ofNat 32
    (bitsNum (ds.map (fun d => has d && up d && decide (s.eff d ≠ 0))) +
      2 ^ 8 * bitsNum (ds.map (fun d => has d && clamp d)) + 2 ^ 16 * bitsNum (ds.map has))

/-- Word `i` of the held statistics (R257). -/
def State.statWord (s : State) (k i : Nat) : Word :=
  let sel := s.rd (pgCAM k) CAM_STAT_SEL_SEL
  let c := s.camOf k
  BitVec.ofNat 32
    (if sel < 4 then Tbl.get 0 (256 * sel + i) c.heldHist else Tbl.get 0 i c.heldZones)

/-- Header words that do not stand as stored. -/
def State.headerWord (s : State) (r : Req) (kd : Kind) (u page off : Nat) : Option Word :=
  match off with
  | 0x000 => some (BitVec.ofNat 32 (kd.code * 2 ^ 16 + 0x0100))
  | 0x004 => some (capWord s.part kd u)
  | 0x008 => some (linkWord s.part kd u)
  | 0x00C => if kd.alwaysOn then some 1 else none
  | 0x010 => some (putBits 4 4 (b2n (s.snapStale r page)) (s.statusWord page))
  | 0x014 =>
    if kd = .pav then
      some (BitVec.ofNat 32 (b2n ((s.beneath u).any (fun j => (s.word (pgKSK j) 0x014).getLsbD 0))))
    else none
  | 0x01C => some 0
  | 0x020 => some (s.cmdResult r page)
  | 0x028 => some (putBits 0 0 (b2n (s.commitOf page).isSome) (s.word page 0x028))
  | 0x034 => some 0
  | _ => none

/-- Block words of the system pages that follow from other state. -/
def State.sysWord (s : State) (kd : Kind) (page off : Nat) : Option Word :=
  match kd with
  | .top =>
    if 0x044 ≤ off ∧ off < 0x080 then
      let e := topDir s.part ((off - 0x044) / 4)
      some (BitVec.ofNat 32 (e.1 * 2 ^ 8 + e.2))
    else if 0x100 ≤ off ∧ off < 0x150 then some (s.sumWord ((off - 0x100) / 4))
    else none
  | .pwr =>
    if 0x048 ≤ off ∧ off < 0x05C then
      some (BitVec.ofNat 32 (levelsNum (s.vote ((off - 0x040) / 4))))
    else if off = 0x060 then some (BitVec.ofNat 32 (levelsNum s.eff))
    else if off = 0x064 then some s.domainWord
    else if off = 0x0E0 then some (BitVec.ofNat 32 (bitsNum s.aon.compTripped.toList))
    else none
  | .wrd =>
    if off = 0x040 then some 0
    else if off = 0x048 then some (putBits 1 0 (min 3 s.recent.length) (s.word page off))
    else if off = 0x04C then some (BitVec.ofNat 32 (ageOf s.now s.wrd.validAt 10000 0xFFFF))
    else none
  | .bst =>
    if off = 0x054 then
      some (BitVec.ofNat 32 (s.rd page BST_REPAIRS_SOFT +
        2 ^ 16 * ((s.rd page BST_REPAIRS_FUSED + factoryRepairs) % 2 ^ 16)))
    else if off = 0x058 then
      some (putBits 0 0 (b2n (s.wrd.gkp != .running)) (s.word page off))
    else none
  | .gbk =>
    if 0x060 ≤ off ∧ off < 0x080 then
      some (BitVec.ofNat 32 (s.mem32 (gbkSlot (s.rd page GBK_WIN_SEQ_SEQ) + (off - 0x060))))
    else none
  | .fsh => if off = 0x060 then some 0 else none
  | .gth =>
    if 0x040 ≤ off ∧ off < 0x050 then some (Config.devId ((off - 0x040) / 4))
    else if 0x050 ≤ off ∧ off < 0x0B4 then
      some (BitVec.ofNat 32 (ofLe (((pubBytes Config.devPriv).drop (off - 0x050)).take 4)))
    else if (0x0C0 ≤ off ∧ off < 0x158) ∨ (0x1A0 ≤ off ∧ off < 0x200) then some 0
    else if off = 0x168 then some (BitVec.ofNat 32 s.floor)
    else none
  | .mon =>
    if 0x100 ≤ off ∧ off < 0x160 then
      let valid := match (s.mon.convAt.toList[(off - 0x100) / 4]?).getD none with
        | some t => decide (s.now ≤ t + 12000)
        | none => false
      some (putBits 31 31 (b2n valid) (s.word page off))
    else none
  | _ => none

/-- Block words of the print path that follow from other state.  `TRL_TBL_ADDR` names the shadow bank by the low
32 bits of its device address (DESIGN CHOICE, log 50). -/
def State.printWord (s : State) (kd : Kind) (u page off : Nat) : Option Word :=
  match kd with
  | .sdl => if off = 0x074 then some (BitVec.ofInt 32 s.feedForward) else none
  | .ing =>
    let h := (off - 0x100) / 16
    if off = 0x058 then some (match s.ing.starved with | [] => 0 | e :: _ => e.num)
    else if off = 0x05C then
      some (match s.ing.starved with
        | [] => 0
        | e :: _ => BitVec.ofNat 32 (e.head + e.planes * 2 ^ 8 + 2 ^ 31))
    else if off < 0x100 ∨ 0x300 ≤ off then none
    else if s.part.heads ≤ h then some 0
    else if off % 16 = 12 then some (putBits 9 0 (min 1023 (s.readyLines h)) (s.word page off))
    else none
  | .pav | .ksk =>
    let ks := kiosksUnder kd u
    let here := ks.filter (fun j => decide (j < s.part.kiosks) && s.inPool j)
    if off = 0x040 then some (BitVec.ofNat 32 here.length)
    else if off = 0x044 then some (BitVec.ofNat 32 (s.capacityOf ks))
    else if off = 0x064 then
      some (BitVec.ofNat 32 (s.ing.tiles.filter
        (fun t => t.place == .queued && kd == .pav && s.ownerOf t.head == u)).length)
    else if kd = .pav then s.pavWord u off
    else none
  | .trl => if off = 0x048 then some (BitVec.ofNat 32 (trlBank u !(s.trlOf u).bank)) else none
  | .firRoot =>
    if off = 0x044 then some (putBits 0 0 (b2n !s.aon.estop) (s.word page off))
    else if 0x050 ≤ off ∧ off < 0x060 then
      some (putBits 16 16 (b2n (s.railFresh ((off - 0x050) / 4))) (s.word page off))
    else if 0x080 ≤ off ∧ s.part.heads ≤ (off - 0x080) / 4 then some 0
    else none
  | .fir =>
    if off = 0x080 then
      some (putBits 31 16 (ageOf s.now (s.firOf u).tempAt 1000000 0xFFFF) (s.word page off))
    else none
  | .onk =>
    if off = 0x06C then
      some (putBits 31 16 (ageOf s.now (s.onkOf u).statAt 1000000 0xFFFF) (s.word page off))
    else none
  | .onkRoot => if off = 0x05C then some (BitVec.ofNat 32 onkStageBase) else none
  | _ => none

/-- Block words of capture, memory and network that follow from other state. -/
def State.restWord (s : State) (kd : Kind) (u off : Nat) : Option Word :=
  match kd with
  | .cam =>
    if off = 0x0C0 then some (BitVec.ofNat 32 (camBank u !(s.camOf u).bank))
    else if 0x800 ≤ off ∧ off < 0xC00 then some (s.statWord u ((off - 0x800) / 4))
    else none
  | .blvRoot =>
    if off = 0x040 then
      some (BitVec.ofNat 32 (bitsNum ((List.range s.part.cams).map
        (fun k => s.rd (pgCAM k) UNIT_STATUS_STATE == 2))))
    else if off = 0x044 then
      let last := s.blv.filter (fun e => decide (s.now < e.1 + 1000000))
      some (BitVec.ofNat 32 ((last.map Prod.snd).sum / 1000))
    else none
  | .qlp =>
    if off = 0x070 then some (match s.qlp.host with | [] => 0 | p :: _ => p.lo)
    else if off = 0x074 then some (match s.qlp.host with | [] => 0 | p :: _ => p.hi)
    else if off = 0x078 then some (match s.qlp.auto with | [] => 0 | p :: _ => p.lo)
    else if off = 0x07C then some (match s.qlp.auto with | [] => 0 | p :: _ => p.hi)
    else none
  | .drcRoot =>
    if 0x080 ≤ off ∧ off < 0x094 then
      some (putBits 0 0 (b2n (s.portPanic ((off - 0x080) / 4))) (s.word pgDRC off))
    else none
  | .net =>
    if off = 0x08C then
      let at_ := if h : u < 2 then (s.port ⟨u, h⟩).lastRx else none
      some (BitVec.ofNat 32 (ageOf s.now at_ 1000 0xFFFFFFFF))
    else none
  | _ => none

/-- What a read of a present page's word answers a requester; an offset that holds no register
reads 0 (R5). -/
def State.readWord (s : State) (r : Req) (page off : Nat) : Word :=
  match s.unit page with
  | none => 0
  | some (kd, u0) =>
    let u := placeIn kd page u0
    match s.headerWord r kd u page off with
    | some w => w
    | none =>
      match s.sysWord kd page off with
      | some w => w
      | none =>
        match s.printWord kd u page off with
        | some w => w
        | none => (s.restWord kd u off).getD (s.word page off)

/-- The `_LO` words of live results (R55): `RO` words that the device changes on its own. -/
def liveLo : Kind → List Nat
  | .enc => [0x068, 0x070]
  | .sdl => [0x050, 0x058]
  | .trg => [0x058]
  | .hsc => [0x070, 0x078]
  | .ing => [0x058]
  | .stm => [0x090]
  | .pav | .ksk => [0x048, 0x050]
  | .trl => [0x060]
  | .fir => [0x084]
  | .onk => [0x048]
  | .onkRoot => [0x054]
  | .cam => [0x090, 0x098]
  | .qlp => [0x070, 0x078, 0x080]
  | .drcRoot => [0x0A0]
  | .dram => [0x048, 0x068, 0x078]
  | .net => [0x064, 0x06C]
  | _ => []

/-- Whether the word is the `_LO`, or the `_HI`, word of a live result. -/
def State.isLive (s : State) (page off : Nat) (high : Bool) : Bool :=
  match s.kind page with
  | none => false
  | some kd => (liveLo kd).any (fun o => (if high then o + 4 else o) == off)

/-- A read of a word as the requester sees it: the `_LO` word of a live result fills the slot, its `_HI`
word comes from the slot and empties it, the queues and the windows move on, any other word only answers
(R55, R156, R192, R272). -/
def State.readFirst (s : State) (r : Req) (page off : Nat) : State :=
  let w := s.readWord r page off
  let plain :=
    if s.isLive page off false then
      s.readLo r page w [(off + 4, s.readWord r page (off + 4))]
    else if s.isLive page off true then s.readHi r page off w
    else s.emit (.readData r w)
  match s.unit page with
  | some (.ing, _) => if off = 0x058 then s.starveTake r else plain
  | some (.qlp, _) =>
    if off = 0x070 then s.proposalTake r false
    else if off = 0x078 then s.proposalTake r true else plain
  | some (.trl, h) =>
    if 0x050 ≤ off ∧ off < 0x060 then s.trlAccess r h ((off - 0x050) / 4) none
    else if off = 0x04C ∧ s.trlState h = bkSYNCING then
      s.updTrl h (fun x => { x with held := x.held ++ [.index r] })
    else plain
  | some (.cam, k) =>
    if off = 0x0C8 then s.camAccess r k none
    else if off = 0x0C4 ∧ s.camBankState k = bkSYNCING then
      s.updCam k (fun x => { x with held := x.held ++ [.index r] })
    else plain
  | _ => plain

/-- R55; a read of an offset within a word answers the whole word (R38). -/
def execSnapshotLoRead (r : Req) (page off : BitVec 12) (s : State) : Out := run (fun s =>
  s.readAccess r page.toNat (fun t => t.readFirst r page.toNat (off.toNat / 4 * 4))) s

/-- R55: the word's offset tells which word of a live result it is. -/
def execSnapshotHiRead (r : Req) (page off : BitVec 12) (s : State) : Out := run (fun s =>
  s.readAccess r page.toNat (fun t => t.readFirst r page.toNat (off.toNat / 4 * 4))) s

end Sys2Proof.Machine
end

