-- ==== Sys2Proof/Machine/Streams.lean ====
section
/-! DEFINITION. Commands and events of the job streams: datagrams, acknowledgements, holes, the host
ring, the loop area, START, RESET and DISABLE (R130–R142, R157–R162). -/

namespace Sys2Proof.Machine

/-- R131, R132, R134, R137, R139: a datagram arrives; its `TYPE` says what it is. -/
def execTileFragment (port : Fin 2) (udpPort : BitVec 16) (src datagram : List Byte) (s : State) : Out :=
  run (fun s => s.datagramIn port udpPort.toNat src datagram) s

/-- R137, R138. -/
def execKeepalive (port : Fin 2) (udpPort : BitVec 16) (src datagram : List Byte) (s : State) : Out :=
  run (fun s => s.datagramIn port udpPort.toNat src datagram) s

/-- R136. -/
def execAckInterval (i : Fin 4) (s : State) : Out := run (fun s => s.onlyIf s.printRuns (fun t => t.sendAck i)) s

/-- When a hole's next request is due, in ns. -/
def Hole.due (h : Hole) (wait : Nat) : Nat := h.opened + (h.asked + 1) * wait * 1000

/-- R137: the holes whose wait ends first are asked for again, or abandoned after `RETRIES`.  The request
carries `STM_CUM_SEQ` and the last `EPOCH`, lists every open hole, and counts as sent also where no port is
active (DESIGN CHOICE, log 98). -/
def execGapWaitExpiry (i : Fin 4) (s : State) : Out := run (fun s =>
  let x := s.stmOf i
  let p := pgSTM i.val
  let wait := max (s.rd p STM_ACK_GAP_WAIT) 1
  let retries := s.rd p STM_GAP_RETRIES
  match x.holes.map (fun h => h.due wait) with
  | [] => s
  | d :: ds =>
    let due := ds.foldl min d
    let mine := fun (h : Hole) => h.due wait == due
    let lost := x.holes.filter (fun h => mine h && decide (retries ≤ h.asked))
    let kept := x.holes.filter (fun h => !(mine h && decide (retries ≤ h.asked)))
    s.onlyIf (s.printRuns && s.stmRunning i.val) (fun t =>
      let body := gapPayload kept
      let ask := kept.any mine
      let t1 := t.updStm i (fun y =>
        ({ y with holes := kept.map (fun h => if mine h then { h with asked := h.asked + 1 } else h) }).prune)
      let t2 := if ask then
          (t1.sendDatagram i (udpHeader 4 i.val body.length (t.word p 0x080) x.epoch ++ body)).incSat p
            STM_GAPS_N
        else t1
      let t3 := (t2.showCum i).showStaging i
      if lost.isEmpty then t3
      else (t3.addSat p STM_LOST_N (lost.map Hole.count).sum).raise p 1)) s

/-- R139, R146: its head's schedule runs and its last line is within the ring's reach; a tile whose
last line's send deadline has passed is rejected LATE. -/
def execTileEligible (i : Fin 4) (tile : Nat) (s : State) : Out := run (fun s =>
  match s.tile? tile with
  | none => s
  | some t =>
    let hs := s.hscOf t.head
    let last := s.firstOf t + t.lines - 1
    s.onlyIf (s.printRuns && t.stream == i.val && t.place == .staged && hs.running &&
        decide (last < hs.send.line + (s.ribOf t.head).lines)) (fun u =>
      if last < hs.send.line then u.rejectTile tile 6
      else (u.updTile tile (fun v => { v with place := .waiting })).showQueue)) s

/-- R141: a write of the doorbell. -/
def execRingDoorbell (r : Req) (i : Fin 4) (tail : BitVec 16) (s : State) : Out := run (fun s =>
  s.access r (pgSTM i.val) 0x064 (fun t => t.wr (pgSTM i.val) STM_RING_TAIL_TAIL tail.toNat)) s

/-- Write a descriptor's status word and move on (R141). -/
def State.descriptorDone (s : State) (i : Fin 4) (code : Nat) : State :=
  let x := s.stmOf i
  let p := pgSTM i.val
  let head := s.rd p STM_RING_HEAD_HEAD
  let a := x.ringAddr + BitVec.ofNat 64 (16 * head + 12)
  let s1 := s.emit (.hostWrite a (leBytes 4 (1 + 16 * code)))
  (s1.wr p STM_RING_HEAD_HEAD (ringIdx (head + 1) x.ringSize)).signal (i.val + 1) 1

/-- The descriptor at the ring's head is there to be read. -/
def State.descriptorReady (s : State) (i : Fin 4) : Bool :=
  let x := s.stmOf i
  let p := pgSTM i.val
  s.printRuns && s.stmRunning i.val && x.src == 1 && !x.fenced &&
    s.rd p STM_RING_HEAD_HEAD != ringIdx (s.rd p STM_RING_TAIL_TAIL) x.ringSize

/-- Stage a tile that the host ring brought. -/
def State.ringTile (s : State) (i : Fin 4) (bs : List Byte) (key : Nat) : State :=
  let s1 := s.updStm i (fun x => { x with used := x.used + bs.length })
  let (s2, code) := s1.stageTile i bs key
  s2.descriptorDone i code

/-- R132, R141: the next descriptor and the tile it names, once staging space suffices; an encrypted tile
stands in its envelope of 24 bytes before it and 16 behind. -/
def execDescriptorRead (i : Fin 4) (desc tile : List Byte) (poisoned : Bool) (s : State) : Out :=
  run (fun s =>
    let x := s.stmOf i
    let p := pgSTM i.val
    let len := leAt (fun n => (desc[n]?).getD 0) 8 4
    let at' := fun n => (tile[n]?).getD 0
    let box := tile.take (len + 40)
    s.onlyIf (s.descriptorReady i) (fun t =>
      if 65536 < len then (t.reject i 4 (leAt at' (if x.encrypted then 29 else 5) 1)).descriptorDone i 4
      else if x.free < len then t
      else if poisoned then
        ((t.noteError (t.ringFn i) 12).reject i 8 (leAt at' (if x.encrypted then 29 else 5) 1)).descriptorDone i 8
      else if x.encrypted then
        let drop := fun (u : State) =>
          (u.draw).descriptorDone i (Config.dropCode u.free).toNat
        if !envelopeOk i.val box || leAt at' 3 1 != 1 || leAt at' 20 2 / 32768 != 1 then drop t
        else
          t.atFolly p 1 (fun u => drop (u.authFail i)) (fun u =>
            match u.openEnvelope i box with
            | none => drop (u.authFail i)
            | some payload => (u.keyUsed i box).ringTile i payload (leAt at' 5 1))
      else t.ringTile i (tile.take len) 0xFF)) s

/-- R142: every tile of the pass has become eligible or been rejected. -/
def execLoopPass (i : Fin 4) (s : State) : Out := run (fun s =>
  let x := s.stmOf i
  let p := pgSTM i.val
  s.onlyIf (s.printRuns && s.stmRunning i.val && x.src == 2 && x.loopLines != 0 &&
      !s.ing.tiles.any (fun t => t.stream == i.val && t.place == .staged)) (fun t =>
    let k := t.rd p STM_LOOP_PASS_N + 1
    (t.wr p STM_LOOP_PASS_N k).walkPass i k)) s

/-- A host ring's allowed sizes: a power of two from 16 to 32,768. -/
def ringSizeOk (n : Nat) : Bool := (List.range 12).any (fun j => n == 2 ^ (j + 4))

/-- The staging of a stream as its registers give it, in bytes: base and size. -/
def State.stageRegs (s : State) (i : Nat) : Nat × Nat :=
  (s.rd (pgSTM i) STM_STAGE_BASE_MIB * 2 ^ 20, s.rd (pgSTM i) STM_STAGE_SIZE_MIB * 2 ^ 20)

/-- R161: why START finds its staging or ring wrong. -/
def State.startBad (s : State) (i : Fin 4) : Bool :=
  let (b, n) := s.stageRegs i.val
  let clash := ([0, 1, 2, 3] : List (Fin 4)).any (fun j =>
    j != i && s.stmRunning j.val &&
      decide (b < (s.stmOf j).base + (s.stmOf j).size) && decide ((s.stmOf j).base < b + n))
  decide (s.fitted < b + n) || clash ||
    (s.rd (pgSTM i.val) STM_CFG_SRC == 1 && !ringSizeOk (s.rd (pgSTM i.val) STM_RING_SIZE_N))

/-- The stream as START reads it. -/
def State.stmRead (s : State) (i : Fin 4) : Stream :=
  let p := pgSTM i.val
  let src := s.rd p STM_CFG_SRC
  let (b, n) := s.stageRegs i.val
  { src := if src = 3 then 0 else src, encrypted := s.bit p STM_CFG_ENCRYPTED, base := b, size := n,
    ringAddr := BitVec.ofNat 64 (s.rd2 p STM_RING_LO_ADDR STM_RING_HI_ADDR),
    ringSize := s.rd p STM_RING_SIZE_N, loopAddr := s.rd p STM_LOOP_ADDR_ADDR * 64,
    loopBytes := s.rd p STM_LOOP_BYTES_N, loopLines := s.rd p STM_LOOP_LINES_N, fenced := false,
    started := false, highest := 0, holes := [], frags := [], epoch := 0, peer := [], sinceAck := 0,
    used := 0, wr := 0, expected := [], loop := [], wasReset := false, leftAt := none }

/-- R139–R142, R158, R161: the stream reads its configuration and runs. -/
def execStmStart (r : Req) (i : Fin 4) (arg : BitVec 16) (s : State) : Out := run (fun s =>
  let p := pgSTM i.val
  command r p 0x0001 arg true false
    (fun t => [(t.stmState i.val != 1, rcWRONG_STATE), (t.startBad i, rcBAD_ARG)])
    (fun t =>
      let t1 : State := if (t.stmOf i).wasReset then t.blankRings i else t
      let net := { t1.net with heard := t1.net.heard.set i.val false }
      let t2 : State := { t1 with stm := t1.stm.set i.val (t1.stmRead i), net := net }
      let t3 := (((t2.setState p 2).wr2 p STM_TILES_LO_N STM_TILES_HI_N 0).wr p STM_LOOP_PASS_N 0).showStaging i
      let x : Stream := t3.stmOf i
      let t4 := if x.src = 1 then t3.wr p STM_RING_HEAD_HEAD 0 else t3
      if x.src = 2 then t4.walkPass i 0 else t4) s) s

/-- R157. -/
def execStmReset (r : Req) (i : Fin 4) (arg : BitVec 16) (s : State) : Out := run (fun s =>
  command r (pgSTM i.val) 0x0002 arg true true
    (fun t => [(t.stmState i.val == 0, rcWRONG_STATE)])
    (fun t => t.resetStream i) s) s

/-- R159: the ring registers are read afresh and the fence is lifted. -/
def execRingReset (r : Req) (i : Fin 4) (arg : BitVec 16) (s : State) : Out := run (fun s =>
  let p := pgSTM i.val
  command r p 0x0003 arg true false
    (fun t => [((t.stmOf i).src != 1 || !t.stmRunning i.val, rcWRONG_STATE),
               (!ringSizeOk (t.rd p STM_RING_SIZE_N), rcBAD_ARG)])
    (fun t =>
      let t1 := t.updStm i (fun x =>
        { x with ringAddr := BitVec.ofNat 64 (t.rd2 p STM_RING_LO_ADDR STM_RING_HI_ADDR),
                 ringSize := t.rd p STM_RING_SIZE_N, fenced := false })
      t1.wr p STM_RING_HEAD_HEAD 0) s) s

/-- R157, R162. -/
def execStreamResetDone (i : Fin 4) (s : State) : Out := run (fun s =>
  s.onlyIf (s.stmState i.val == 3) (fun t => t.resetDone i)) s

/-- `ENABLE` = 0 on a stream's page (R162). -/
def State.stmOff (s : State) (i : Fin 4) : State :=
  let p := pgSTM i.val
  let s1 := s.wr p UNIT_CTRL_ENABLE 0
  if s.stmState i.val = 2 then s1.resetStream i
  else if s.stmState i.val = 3 then s1
  else s1.setState p 0

/-- R162. -/
def execStmDisable (r : Req) (i : Fin 4) (s : State) : Out := run (fun s =>
  s.access r (pgSTM i.val) 0x00C (fun t => t.stmOff i)) s

/-- R330: a host read without completion completes as poisoned, and the function that asked reports it
(R328). -/
def execDmaTimeout (c : DmaClient) (s : State) : Out := run (fun s =>
  let fn : Fin 5 := match c with
    | .ring i => s.ringFn i
    | _ => 0
  let count := fun (t : State) => (t.noteError fn 14).incSat pgPCIE PCIE_CPL_TIMEOUTS_N
  let v := s.net.vni
  match c with
  | .ring i => s.onlyIf (s.descriptorReady i) (fun t => ((count t).reject i 8 0).descriptorDone i 8)
  | .vniTx =>
    s.onlyIf (s.bit pgNETroot VNI_CTRL_EN && !v.fenced &&
        s.rd pgNETroot VNI_TX_HEAD_HEAD != ringIdx (s.rd pgNETroot VNI_TX_TAIL_TAIL) v.txSize)
      (fun t => (count t).txComplete 0 true)
  | .vniRx => s.onlyIf (s.bit pgNETroot VNI_CTRL_EN && !v.fenced) count) s

end Sys2Proof.Machine
end

