-- ==== Sys2Proof/Machine/Effect.lean ====
section
/-! DEFINITION. What each unit does when a commit on its page takes effect (R47, R48, R99, R105–R107,
R120, R191, R252, R275, R355). -/

namespace Sys2Proof.Machine

/-- A self-commit of a fit has taken effect (R99, R409). -/
def State.encLearned (s : State) (n : Fin 3) : State :=
  let p := pgENC n.val
  let s1 := s.updEnc n (fun e => { e with cal := .idle })
  (((s1.incSat p ENC_CAL_STAT_COUNT).wr p ENC_CAL_STAT_VALID 1).calDone n.val).setBusy p false

/-- A commit on an encoder's page: `VALID` falls when another commit changes what CALIBRATE learned
(R99). -/
def State.encCommitted (s old : State) (n : Fin 3) (own : Bool) : State :=
  let p := pgENC n.val
  let same := fun (o : Nat) => s.actWord p o == old.actWord p o
  let s1 :=
    if own then s.encLearned n
    else if same 0x04C && same 0x050 && s.ac p ENC_PHASE_PHI == old.ac p ENC_PHASE_PHI then s
    else s.wr p ENC_CAL_STAT_VALID 0
  s1.encAfter p own true

/-- A commit of `SDL_CFG` (R106, R107, R122): a newly named check encoder is aligned, eligible or not as
ALIGN_CHECK last left it; another source is switched to, another reference schedule is copied. -/
def State.sdlCommitted (s old : State) : State :=
  let was := old.ac pgSDL SDL_CFG_CHECK
  let is := s.ac pgSDL SDL_CFG_CHECK
  let s1 := if is ≠ was || !s.sdl.chkSet then s.checkAlign else s
  let src := encNum (s.ac pgSDL SDL_CFG_SOURCE)
  let s2 := if s1.sdlOn && s1.source != src then s1.switchSource src else s1
  if s2.ac pgSDL SDL_CFG_REF_HEAD ≠ old.ac pgSDL SDL_CFG_REF_HEAD then
    s2.refCopy (s2.ac pgSDL SDL_CFG_REF_HEAD) true
  else s2

/-- A commit on a schedule's page changes its geometry from line `n` on (R120). -/
def State.hscCommitted (s old : State) (h n : Nat) : State :=
  let hs := s.hscOf h
  if hs.running then
    let gs := old.geoShadow h n :: hs.geo
    (s.setHsc h { hs with geo := gs, send := hs.send.rebase gs, hit := hs.hit.rebase gs }).showNext h
  else s

/-- The Fountain's set-point is planned anew when its target or limits change, in FAULT as well (R355). -/
def State.fntCommitted (s old : State) : State :=
  let same := fun (o : Nat) => s.actWord pgFNT o == old.actWord pgFNT o
  if s.fntOn && !(same 0x05C && same 0x060 && same 0x064) then
    s.spPlan.showFnt
  else s

/-- A commit on the page takes effect, or is rejected where a pair does not hold (R47, R51). -/
def State.takeEffect (s : State) (page : Nat) : State :=
  match s.commitOf page with
  | none => s
  | some c =>
    let bad := s.badPair page
    if bad ≠ 0 then s.dropCommit page 1 bad
    else
      let t := s.applyShadow page
      match s.unit page with
      | some (.enc, n) => t.encCommitted s (encNum n) c.own
      | some (.sdl, _) => t.sdlCommitted s
      | some (.hsc, h) => t.hscCommitted s h (c.line.getD (s.hscOf h).send.line)
      | some (.trl, h) => t.trlSwap h
      | some (.cam, k) => t.camSwap k
      | some (.qlp, _) => t.qlpFresh.alignAfter page c.own true
      | some (.fnt, _) => t.fntCommitted s
      | _ => t

/-- At the send deadline, or the hit, of line `n`: a head page's commit that applies to it or to a
line before it takes effect (R48). -/
def State.commitAtLine (s : State) (page n : Nat) : State :=
  match s.commitOf page with
  | some c =>
    match c.line with
    | some m => if m ≤ n then s.takeEffect page else s
    | none => s
  | none => s

/-- A commit reaches its moment (R47–R49): at once in mode 1; on a page that serves no head, past the
position or the boundary of its mode; the lines of a head page's own schedule bring the rest.  An index
correction that falls on the same boundary comes first. -/
def execCommitTakesEffect (page : BitVec 12) (s : State) : Out := run (fun s0 =>
  let s := s0.correct
  match s.commitOf page.toNat with
  | none => s
  | some c =>
    let head := (headOfPage s.part page.toNat).isSome
    let cam := match s.unit page.toNat with
      | some (.cam, k) => s.camOn k
      | _ => false
    let due := if head then c.mode == 1 else s.commitDue c && (c.mode == 1 || s.forward)
    let ready := decide (s.pageLevel page.toNat = 2) || decide (c.mode = 1)
    s.onlyIf (due && ready && !cam && decide (s.pageLevel page.toNat ≠ 0)) (fun t =>
      t.refAdvance.takeEffect page.toNat)) s

end Sys2Proof.Machine
end

