-- ==== Sys2Proof/Machine/Sundial.lean ====
section
/-! DEFINITION. Sundial's commands and events: encoders, position and motion, the schedules' starts and
stops (R95–R129). -/

namespace Sys2Proof.Machine

/-! ### Encoder inputs (R96–R104) -/

/-- Counting with `DIR` (R96). -/
def Enc.turn (e : Enc) (d : Int) : Int := if e.dir then -d else d

/-- R96, R101: a qualified edge counts 1,024 pu; an edge of a pair that agrees, or one under folly 1,
is ignored and the count coasts.  The levels are those the board drives, which stay what they are while the input buffers are off (R21, log 16):
no encoder reads them then. -/
def execEncoderEdge (n : Fin 3) (a b agree : Bool) (s : State) : Out := run (fun s =>
  let e := s.encOf n
  let s1 := s.updEnc n (fun x => { x with a := a, b := b })
  s1.onlyIf (s.encLive n && e.mode == 1) (fun s1 =>
    let forced := s.follyOn (pgENC n.val) 1 && (a != e.a)
    if agree || forced then s1.setCoast n true
    else if quadStep e.a e.b a b = 0 then s1.setCoast n false
    else
      ((s1.setCoast n false).encMove n (e.turn (1024 * quadStep e.a e.b a b))).measure n s.now)) s

/-- R96, R98, R101: a sample pair within its radius moves the count by the angle it has turned. -/
def execEncoderSample (n : Fin 3) (sin cos : BitVec 14) (s : State) : Out := run (fun s =>
  s.onlyIf (s.encLive n && (s.encOf n).mode == 2) (fun s =>
    let p := pgENC n.val
    let e := s.encOf n
    let s0 := s.updEnc n (fun x => { x with clk := x.clk + 50 })
    if s.follyOn p 1 || !s.radiusOk n sin cos then
      (s0.setCoast n true).updEnc n (fun x => { x with frac := none })
    else
      let raw := s.sampleFraction n sin cos
      let f := if e.dir then -raw else raw
      let coasting := s.bit p ENC_STATUS_COASTING
      let d : Int := match e.frac with
        | some f0 => (f - f0).toInt
        | none => if coasting then 0 else (f - BitVec.truncate 12 (s.encCount n)).toInt
      let s1 := (s0.draw.setCoast n false).updEnc n (fun x => { x with frac := some f })
      ((s1.encMove n d).measure n (e.clk + 50)).calWatch n)) s

/-- R102: an index in forward travel at the encoder's own mark is latched. Folly 3 suppresses it, folly 2
latches it late. -/
def execIndexEdge (n : Fin 3) (s : State) : Out := run (fun s =>
  let p := pgENC n.val
  let c := s.encCount n
  let e := s.encOf n
  s.onlyIf (s.encLive n && s.bit p ENC_CFG_INDEX_EN && decide (0 ≤ posDiff c e.hwm) &&
      decide (0 ≤ e.speed)) (fun s =>
    if s.follyOn p 3 then s.inject p
    else if s.follyOn p 2 then
      (s.inject p).indexLatch n (c + BitVec.ofNat 48 (s.follyParam p))
    else s.indexLatch n c)) s

/-- R102: the travel since the last index has reached 1.5, 2.5, 3.5 … × `EXPECT`.  Before the first index that
is latched after `ENABLE` there is no last index to measure from, and nothing is raised (DESIGN CHOICE,
log 97). -/
def execIndexMissing (n : Fin 3) (s : State) : Out := run (fun s =>
  let p := pgENC n.val
  let e := s.encOf n
  let last := BitVec.ofNat 48 (s.rd2 p ENC_INDEX_LATCH_LO_POS ENC_INDEX_LATCH_HI_POS)
  let expect : Int := s.ac p ENC_INDEX_EXPECT_PU
  s.onlyIf (s.encLive n && s.bit p ENC_CFG_INDEX_EN && s.bit p ENC_STATUS_INDEXED &&
      decide (expect ≠ 0) && decide ((2 * e.missed + 3 : Nat) * expect ≤ 2 * posDiff e.hwm last))
    (fun s => (s.updEnc n (fun x => { x with missed := x.missed + 1 })).raise p 2)) s

/-- R101: coasting, or an agreeing Z pair, for `WIRE_TIME`. -/
def execWireFault (n : Fin 3) (s : State) : Out := run (fun s =>
  let p := pgENC n.val
  s.onlyIf (s.encLive n && decide (s.encState n ≠ 3)) (fun s =>
    let s1 := (s.wr p ENC_STATUS_FAULT 1).updEnc n (fun x => { x with latched := false })
    let s2 := (s1.raise p 0).encLost n false
    s2.setState p 3)) s

/-- R101: the wires have been qualified for `WIRE_TIME`. -/
def execWireQualified (n : Fin 3) (s : State) : Out := run (fun s =>
  let p := pgENC n.val
  s.onlyIf (s.encLive n && decide (s.encState n = 3)) (fun s =>
    ((s.wr p ENC_STATUS_FAULT 0).setCoast n false).setState p 1)) s

def execCalibrate (r : Req) (n : Fin 3) (arg : BitVec 16) (s : State) : Out := run
  (command r (pgENC n.val) 0x0001 arg true false
    (fun s =>
      [(!(s.encState n == 1 && (s.encOf n).mode == 2), rcWRONG_STATE),
       (!calBand (s.encOf n).speed, rcBAD_ARG)])
    (fun s =>
      let p := pgENC n.val
      let s1 := ((s.setBusy p true).setState p 2).wr p ENC_CAL_STAT_ABANDONED 0
      s1.updEnc n (fun x => { x with cal := .gathering (s.encCount n) }))) s

/-- R99: the fit has gathered its 256 lines, or the speed has left its band. -/
def execCalibrationFitEnd (n : Fin 3) (complete : Bool) (s : State) : Out := run (fun s =>
  match (s.encOf n).cal with
  | .gathering start =>
    s.onlyIf s.printUp (fun s =>
      if !calBand (s.encOf n).speed then s.encAbandon n
      else if !complete || decide (posDiff (s.encCount n) start < 256 * 4096) then s
      else
        let ofs := Config.calOffset s.free
        let gain := Config.calGain s.free
        let phi := Config.calPhase s.free
        let s1 := s.draw.setState (pgENC n.val) 1
        if (s1.commitOf (pgENC n.val)).isSome then
          s1.updEnc n (fun x => { x with cal := .holding ofs gain phi })
        else s1.encSelfCommit n ofs gain phi)
  | _ => s) s

def execClearDrift (r : Req) (n : Fin 3) (arg : BitVec 16) (s : State) : Out := run
  (command r (pgENC n.val) 0x0002 arg true false (fun _ => [])
    (fun s => s.wr (pgENC n.val) ENC_INDEX_DRIFT_SUM 0)) s

/-- `ENABLE` goes to 1: `MODE`, `DIR` and `FILTER` are read (R104). -/
def State.encOn (s : State) (n : Fin 3) : State :=
  let p := pgENC n.val
  let mode := s.rd p ENC_CFG_MODE
  let live := mode == 1 || mode == 2
  let s1 := (s.wr p UNIT_CTRL_ENABLE 1).updEnc n (fun x =>
    { x with mode := mode, dir := s.bit p ENC_CFG_DIR, filter := s.rd p ENC_CFG_FILTER,
             frac := none, hwm := s.encCount n, latched := false, missed := 0, pts := [],
             ext := 0 })
  let s2 := ((s1.wr p ENC_STATUS_INDEXED 0).wr p ENC_STATUS_FAULT 0).setCoast n false
  s2.setState p (b2n live)

/-- `ENABLE` goes to 0 (R128). -/
def State.encOff (s : State) (n : Fin 3) : State :=
  let p := pgENC n.val
  let s1 := (((s.wr p UNIT_CTRL_ENABLE 0).wr p ENC_STATUS_FAULT 0).setCoast n false).encLost n true
  s1.setState p 0

def execEncEnable (r : Req) (n : Fin 3) (s : State) : Out := run (fun s =>
  s.access r (pgENC n.val) 0x00C (fun t =>
    if t.bit (pgENC n.val) UNIT_CTRL_ENABLE then t
    else if !t.ready then t.dropWrite r (pgENC n.val) 0x00C
    else t.encOn n)) s

def execEncDisable (r : Req) (n : Fin 3) (s : State) : Out := run (fun s =>
  s.access r (pgENC n.val) 0x00C (fun t =>
    if t.bit (pgENC n.val) UNIT_CTRL_ENABLE then t.encOff n else t)) s

/-! ### Position and motion (R105–R115) -/

/-- Commits that wait for a boundary of the reference channel wait for one beyond the new mark. -/
def State.remark (s : State) : State := s.marks (fun m => m.map (fun _ => s.hwm))

/-- SDL's `ENABLE` goes to 1 (R105, R115). -/
def State.sdlOnNow (s0 : State) : State :=
  let s := s0.keepReached.revote (fun t => t.wr pgSDL UNIT_CTRL_ENABLE 1)
  let m := encNum (s.ac pgSDL SDL_CFG_SOURCE)
  let live := s.tracking m
  let first := !s.sdl.once
  let p := if first && live then s.encCount m else s.pos
  let s1 := s.updSdl (fun x =>
    { x with once := true, ofs := if first then 0 else s.pos - s.encCount m, noSource := !live,
             reverse := false, still := false, corr := 0 })
  let s2 := (((s1.setPos p).setHwm p).wr pgSDL SDL_STATUS_ACTIVE m.val).remark
  let s3 := if s2.checkEnc.isSome then s2.checkAlign else s2
  let s4 := s3.showSpeed
  if s4.aon.webBreak && s4.bit pgSDL SDL_HALT_ON_BREAK then s4.halt else s4

def execSdlEnable (r : Req) (s : State) : Out := run (fun s =>
  s.access r pgSDL 0x00C (fun t =>
    if t.sdlOn then t
    else if !t.ready then t.dropWrite r pgSDL 0x00C
    else t.sdlOnNow)) s

/-- A write of 0 to SDL's `ENABLE` (R128). -/
def State.sdlOff (s : State) (r : Req) : State :=
  if s.schedulesStopped then s.revote (fun t => t.wr pgSDL UNIT_CTRL_ENABLE 0)
  else s.dropWrite r pgSDL 0x00C

def execSdlDisable (r : Req) (s : State) : Out := run (fun s =>
  s.access r pgSDL 0x00C (fun t => if t.sdlOn then t.sdlOff r else t)) s

/-- R110: the source's count has not moved 4,096 pu for `TIMEOUT`. -/
def execStandstill (s : State) : Out := run (fun s =>
  s.onlyIf (s.printUp && s.sdlOn && !s.sdl.still && !s.sdl.noSource) (fun s =>
    let s1 := s.updSdl (fun x => { x with still := true, stillAt := s.encCount s.source })
    s1.showSpeed.raise (pgENC s.source.val) 4)) s

/-- R110: the count has moved 4,096 pu; speed comes back with the first full window. -/
def execStandstillEnd (s : State) : Out := run (fun s =>
  s.onlyIf (s.printUp && s.sdlOn && s.sdl.still &&
      decide (4096 ≤ (posDiff (s.encCount s.source) s.sdl.stillAt).natAbs)) (fun s =>
    (s.updSdl (fun x => { x with still := false })).updEnc s.source (fun e => { e with pts := [] }))) s

/-- R111: the position has fallen more than `SDL_REV_BAND` below the mark. -/
def execReverseEnter (s : State) : Out := run (fun s =>
  s.onlyIf (s.printUp && s.sdlOn && !s.sdl.reverse &&
      decide ((s.rd pgSDL SDL_REV_BAND_PU : Int) < posDiff s.hwm s.pos)) (fun s =>
    (s.updSdl (fun x => { x with reverse := true })).raise (pgENC s.source.val) 3)) s

/-- R111: the position has reached the mark plus `SDL_HYST`. -/
def execReverseExit (s : State) : Out := run (fun s =>
  s.onlyIf (s.printUp && s.sdlOn && s.sdl.reverse &&
      decide ((s.rd pgSDL SDL_HYST_PU : Int) ≤ posDiff s.pos s.hwm)) (fun s =>
    let s1 := s.updSdl (fun x => { x with reverse := false })
    if ahead s1.pos s1.hwm then s1.setHwm s1.pos else s1)) s

/-- R114, R115, R348: the judgement finds a collapse, once per fall. -/
def execSpeedCollapse (s : State) : Out := run (fun s =>
  s.onlyIf (s.printUp && s.bit pgSPD SPD_COLLAPSE_CFG_EN && s.sdl.falls && !s.sdl.declared) (fun s =>
    let s1 := (s.updSdl (fun x => { x with declared := true })).raise pgSDL 2
    let s2 := if s1.bit pgSDL SDL_HALT_ON_COLLAPSE then s1.halt else s1
    if s2.bit pgMOT MOT_ROOT_CFG_ON_COLLAPSE && s2.has pgMOT then s2.retract [0, 1] else s2)) s

/-- R115, R348: WEB_BREAK_IN is qualified high, or low again (log 67). -/
def execWebBreakQualified (high : Bool) (s : State) : Out := run (fun s =>
  let s0 : State := { s with aon := { s.aon with webBreak := high } }
  if !high || s.aon.webBreak then s0
  else
    let s1 := if s0.bit pgSDL SDL_HALT_ON_BREAK && s0.printUp then s0.halt else s0
    if s1.bit pgMOT MOT_ROOT_CFG_ON_BREAK && s1.has pgMOT then s1.retract [0, 1] else s1) s

/-- R103: the pending correction is taken from the position and the mark in one tick. -/
def execIndexCorrection (s : State) : Out := run State.correct s

/-- R108: the check encoder's alignment moves with the position. -/
def execLoadPosition (r : Req) (arg : BitVec 16) (s : State) : Out := run
  (command r pgSDL 0x0001 arg true false
    (fun s => [(!s.schedulesStopped, rcWRONG_STATE)])
    (fun s =>
      let p := BitVec.ofNat 48 (s.rd2 pgSDL SDL_POS_LOAD_LO_POS SDL_POS_LOAD_HI_POS)
      let d := p - s.pos
      let s1 := (s.keepReached.setPos p).setHwm p
      (s1.updSdl (fun x =>
        { x with ofs := x.ofs + d, corr := 0, reverse := false,
                 chk := x.chk + d.toInt * 2 ^ 24 })).remark)) s

/-- R107, R108. With another `SOURCE` than `ACTIVE` it makes that encoder the active one, without
`SOURCE_SWITCH` and without aligning the check encoder (DESIGN CHOICE, log 97). -/
def execSdlResume (r : Req) (arg : BitVec 16) (s : State) : Out := run
  (command r pgSDL 0x0002 arg true false
    (fun s =>
      [(!(s.sdl.noSource && s.tracking (encNum (s.ac pgSDL SDL_CFG_SOURCE))), rcWRONG_STATE)])
    (fun s =>
      let s1 := s.follow (encNum (s.ac pgSDL SDL_CFG_SOURCE))
      (s1.updSdl (fun x => { x with noSource := false })).showSpeed)) s

def execAlignCheck (r : Req) (arg : BitVec 16) (s : State) : Out := run
  (command r pgSDL 0x0003 arg true false
    (fun s => [(s.checkEnc.isNone, rcBAD_ARG)])
    (fun s => s.checkAlign.checkOk)) s

def execReleaseHalt (r : Req) (arg : BitVec 16) (s : State) : Out := run
  (command r pgSDL 0x0004 arg true true
    (fun s => [(!s.bit pgSDL SDL_STATUS_HALT_LATCHED || s.aon.webBreak, rcWRONG_STATE)])
    (fun s => s.wr pgSDL SDL_STATUS_HALT_LATCHED 0)) s

/-! ### Schedules (R116–R122, R125–R129) -/

/-- The cursor of a schedule's first line (R116). -/
def State.firstCursor (s : State) (h : Nat) : Cursor :=
  let p := pgHSC h
  let n := s.rd p HSC_START_LINE_N
  let g := s.geoActive h n
  let o := fixOf (BitVec.ofNat 48 (s.rd2 p HSC_ORIGIN_LO_POS HSC_ORIGIN_HI_POS))
  let c := o + BitVec.ofNat 64 (n * g.pitch) + fixOf g.row
  { line := n, cmp := c, prev := c - BitVec.ofNat 64 g.pitch, num := 1, place := 0 }

/-- Lines whose send deadline has passed as START finds them (R118). -/
def State.startSkips (s : State) (h : Nat) : Nat :=
  let c := s.firstCursor h
  let g := s.geoActive h c.line
  pitchesTo (c.cmp - BitVec.ofNat 64 (s.lead h * g.pitch)) g.pitch s.pos

/-- The ring keeps the lines of its new window and empties every other (R118). -/
def Ribbon.keep (r : Ribbon) (first : Nat) : Ribbon :=
  let inside := fun (n : Nat) => decide (first ≤ n) && decide (n < first + r.lines)
  let cut := fun (m : Tbl Nat) => m.filter (fun e => inside e.1)
  { r with written := cut r.written, blank := cut r.blank, busy := cut r.busy,
           blankFrom := r.blankFrom.map (fun n => max n first),
           blankTo := r.blankTo.map (fun n => min n (first + r.lines)) }

/-- START on a head's schedule (R116, R118, R121). -/
def State.startHead (s : State) (h : Nat) : State :=
  let p := pgHSC h
  let c0 := s.firstCursor h
  let g := s.geoActive h c0.line
  let n := s.startSkips h
  let c := Cursor.forth [g] n c0
  let s1 := s.setHsc h
    { running := true, geo := [g], tile := c.line, send := c, hit := c,
      lastHit := (s.hscOf h).lastHit }
  let s2 := (s1.updRib h (fun r => r.keep c.line)).wr p HSC_PP_NUM_N 0
  let s3 := s2.showNext h
  let s4 := if n = 0 then s3 else (s3.addSat p HSC_LATE_LINES_N n).raise p 1
  if s4.ac pgSDL SDL_CFG_REF_HEAD = h then s4.refCopy h false else s4

def execHscStart (r : Req) (h : Fin 32) (arg : BitVec 16) (s : State) : Out := run
  (command r (pgHSC h.val) 0x0001 arg true false
    (fun s =>
      [((s.hscOf h.val).running || !s.sdlOn || s.sdl.noSource, rcWRONG_STATE),
       (s.ac (pgHSC h.val) HSC_PITCH_INT_PU < 256 || decide (65536 < s.startSkips h.val), rcBAD_ARG)])
    (fun s => s.startHead h.val)) s

/-- STOP on a head's schedule (R50, R120, R122, R234): every line not yet issued is dropped, also one on
its way through Trellis and the link (log 76). -/
def State.stopHead (s : State) (h : Nat) : State :=
  let s1 := s.updHsc h (fun x => { x with running := false })
  let s2 := ((s1.dropHeadCommits h).txStopped h).qlpStop h
  let s3 := (s2.updOnk h (fun x => { x with flight := [] })).updTrl h (fun x => { x with maps := [] })
  s3.refStop h

def execHscStop (r : Req) (h : Fin 32) (arg : BitVec 16) (s : State) : Out := run
  (command r (pgHSC h.val) 0x0002 arg true false
    (fun s => [(!(s.hscOf h.val).running, rcWRONG_STATE)])
    (fun s => s.stopHead h.val)) s

def State.trgPitch (s : State) : Nat :=
  s.ac pgTRG TRG_PITCH_INT_PU * 65536 + s.ac pgTRG TRG_PITCH_FRAC_FRAC

def State.trgOrigin (s : State) : BitVec 64 :=
  fixOf (BitVec.ofNat 48 (s.rd2 pgTRG TRG_ORIGIN_LO_POS TRG_ORIGIN_HI_POS))

/-- Triggers that do not lie ahead of the position at START (R129). -/
def State.trgSkips (s : State) : Nat := passed s.trgOrigin s.trgPitch s.pos

def execTrgStart (r : Req) (arg : BitVec 16) (s : State) : Out := run
  (command r pgTRG 0x0001 arg true false
    (fun s =>
      [(s.trg.running || !s.sdlOn || s.sdl.noSource, rcWRONG_STATE),
       (s.ac pgTRG TRG_PITCH_INT_PU < 256 || decide (65536 < s.trgSkips), rcBAD_ARG)])
    (fun s =>
      let c := s.trgOrigin + BitVec.ofNat 64 (s.trgSkips * s.trgPitch)
      let due := Vector.replicate 6 [(⟨c, false⟩ : TrigDue)]
      let s1 : State :=
        { s with trg := { s.trg with running := true, cmp := c, halved := false, due := due } }
      s1.wr2 pgTRG TRG_COUNT_LO_N TRG_COUNT_HI_N 0)) s

/-- STOP on TRG drops every trigger that has not fallen (R120, R125). -/
def State.stopTrg (s : State) : State :=
  { s with trg := { s.trg with running := false, due := Vector.replicate 6 [] } }

def execTrgStop (r : Req) (arg : BitVec 16) (s : State) : Out := run
  (command r pgTRG 0x0002 arg true false
    (fun s => [(!s.trg.running, rcWRONG_STATE)]) State.stopTrg) s

/-- A write of 0 to a schedule's `ENABLE` (R128). -/
def State.scheduleOff (s : State) (h : Option Nat) : State :=
  match h with
  | some h =>
    let s1 := if (s.hscOf h).running then s.stopHead h else s
    s1.wr (pgHSC h) UNIT_CTRL_ENABLE 0
  | none =>
    let s1 := if s.trg.running then s.stopTrg else s
    s1.wr pgTRG UNIT_CTRL_ENABLE 0

def execScheduleDisable (r : Req) (h : Option (Fin 32)) (s : State) : Out := run (fun s =>
  let page := match h with
    | some h => pgHSC h.val
    | none => pgTRG
  s.access r page 0x00C (fun t => t.scheduleOff (h.map (fun x => x.val)))) s

end Sys2Proof.Machine
end

