-- ==== Sys2Proof/Machine/RegWrite.lean ====
section
/-! DEFINITION. Writes of register words: the field-by-field judgement of R54, what a write sets off,
locks and commits (R38, R47–R56). -/

namespace Sys2Proof.Machine

/-! ### Fields (R5, R53, R54) -/

/-- A field that a write can never change. -/
def Row.fixed (r : Row) : Bool := r.acc == .ro

/-- A field that is locked, spent or held by a pending commit (R49, R53, R54); the words of
`UNIT_COMMIT_POS` are held too (R49). -/
def State.fieldHeld (s : State) (page off : Nat) (r : Row) : Bool :=
  match r.acc with
  | .rwl => s.locked page
  | .wo1 => s.locked page
  | .rws => (s.commitOf page).isSome
  | .rw => (off == 0x038 || off == 0x03C) && (s.commitOf page).isSome
  | _ => false

/-- A field after a write of `v` (R5): `W1C` bits clear where `v` has a 1. -/
def Row.apply (r : Row) (v w : Word) : Word :=
  match r.acc with
  | .ro => w
  | .w1c => w &&& ~~~(putBits r.hi r.lo (getBits r.hi r.lo v) 0)
  | _ => putBits r.hi r.lo (getBits r.hi r.lo v) w

/-- The word after a write that these fields take. -/
def applyRows (rows : List Row) (v w : Word) : Word := rows.foldl (fun x r => r.apply v x) w

/-- Whether a write would change a field. -/
def Row.changes (r : Row) (v w : Word) : Bool := r.apply v w != w

/-- Whether one of the bits of a mask differs. -/
def differ (mask a b : Word) : Bool := (a ^^^ b) &&& mask != 0

/-! ### Writes that a unit drops while it runs -/

/-- An axis that is neither OFF nor IDLE (R359). -/
def State.axisBusy (s : State) (a : Nat) : Bool := decide (2 ≤ s.axisState a)

/-- A write of `new` over `old` that the unit drops whole: fields read at ENABLE (R104, R241, R261,
R265, R304, R332), a running stream's `STM_CFG` (R161), `GANG` of moving axes (R359), `UNIT_INJECT`
while a folly is armed (R379). -/
def State.frozen (s : State) (kd : Kind) (page off : Nat) (old new : Word) : Bool :=
  let on := s.bit page UNIT_CTRL_ENABLE
  if off = 0x030 then (s.armedFolly page).isSome
  else
    match kd with
    | .enc => on && off == 0x040 && differ 0x000000F7 old new
    | .onk => on && off == 0x040 && differ 0x00000003 old new
    | .net => on && off == 0x040 && differ 0x00000003 old new
    | .cam => on && ((off == 0x040 && differ 0x00000004 old new) ||
        ((off == 0x080 || off == 0x084) && old != new))
    | .qlp => on && (off == 0x044 || off == 0x050) && old != new
    | .drcRoot => off == 0x040 && old != new &&
        (s.bit (pgDRAM 0) UNIT_CTRL_ENABLE || s.bit (pgDRAM 1) UNIT_CTRL_ENABLE)
    | .stm => off == 0x040 && s.rd page UNIT_STATUS_STATE == 2
    | .motRoot => off == 0x040 && differ 1 old new && (s.axisBusy 0 || s.axisBusy 1)
    | _ => false

/-- Words that only the Groundskeeper writes (R369, R381, R414). -/
def gkpOnly (kd : Kind) (off : Nat) : Bool :=
  match kd with
  | .gkp => decide (0x040 ≤ off) && decide (off < 0x090)
  | .wrd => off == 0x040
  | .fsh => off == 0x060
  | _ => false

/-- Words of heads that the part lacks ignore writes (R143, R219). -/
def absentHead (part : Part) (kd : Kind) (off : Nat) : Bool :=
  match kd with
  | .ing => decide (0x100 ≤ off) && decide (part.heads ≤ (off - 0x100) / 16)
  | .firRoot => decide (0x080 ≤ off) && decide (part.heads ≤ (off - 0x080) / 4)
  | _ => false

/-! ### What a write sets off -/

/-- Events whose enable goes to 1 while their bit is set become pending (R382). -/
def State.newlyPending (s : State) (page : Nat) (old : Word) : State :=
  let now := s.word page 0x014 &&& s.word page 0x018 &&& ~~~old
  (List.range 32).foldl
    (fun t b => if now.getLsbD b then t.eventDue page b else t) s

/-- `LOOP` or `TEST` leaves 0: the lane's lines fail; back at 0 the lane is UP again, and the next line goes
with `SYNC` (R227, R231, R236). `TEST` set starts the check afresh.  A head-table transaction takes it for
the lane's leaving UP, a READ that runs goes on to its timeout (DESIGN CHOICE, log 107). -/
def State.onkCfgWritten (s : State) (h : Nat) (old : Word) : State :=
  let test (w : Word) : Bool := w &&& 0x70 != 0
  let new := s.word (pgONK h) 0x040
  let s1 := if new.getLsbD 6 && !old.getLsbD 6 then s.updOnk h (fun x => { x with prbs := none }) else s
  if test new && !test old then
    let s2 := s1.failFlights h true
    if (s2.onkOf h).up then s2.txLaneDown h else s2
  else if test old && !test new then
    (s1.updOnk h (fun x => { x with resync := true })).sendOwed h
  else s1

/-- A word with stored fields has been written; `old` is what it held. -/
def State.written (s : State) (r : Req) (kd : Kind) (u page off : Nat) (old : Word) : State :=
  if off = 0x018 then s.newlyPending page old
  else
    match kd with
    | .onk => if off = 0x040 then s.onkCfgWritten u old else s
    | .gbk => if off = 0x044 then s.gbkCheck else s
    | .qlp =>
      if off = 0x040 ∧ old.getLsbD 0 ∧ !s.bit pgQLP QLP_CFG_MODE then s.qlpToApproval else s
    | .motRoot =>
      if off = 0x040 ∧ !old.getLsbD 1 ∧ s.bit pgMOT MOT_ROOT_CFG_ON_BREAK then s.breakArmed
      else s
    | .netRoot =>
      if off = 0x064 ∧ !s.net.doubled then s.wr pgNETroot NET_PATH_STAT_WAIT_S s.returnS
      else if off = 0x070 then ((s.linkFollow 0).linkFollow 1).laneClocks
      else if off = 0x088 ∧ !old.getLsbD 0 ∧ s.bit pgNETroot VNI_CTRL_EN then s.vniRead
      else if off = 0x088 ∧ old.getLsbD 0 ∧ !s.bit pgNETroot VNI_CTRL_EN then s.frameLeft true
      else s
    | .wrd =>
      if off = 0x040 ∧ s.wrd.gkp = .running ∧ s.levelOf .sys = 2 then
        (s.setWord page off 0).judgeKick (s.rd pgWRD WRD_KICK_VALUE)
      else s
    | .fsh =>
      if off = 0x060 then
        let act := s.rd pgFSH FSH_GKP_ACT_ACT
        let code := s.rd pgFSH FSH_GKP_ACT_CODE
        let t := s.setWord page off 0
        if act = 1 then t.actSwap r else if act = 2 then t.actFallback code
        else if act = 3 then t.actCfgResult code else if act = 4 then t.actTakenOver else t
      else s
    | _ => s

/-- A write of a word with fields, judged field by field (R54). -/
def State.fieldWrite (s : State) (r : Req) (kd : Kind) (u page off : Nat) (v : Word) : State :=
  let rows := (fieldsAt kd off).filter (fun x => !x.fixed)
  let held := rows.filter (s.fieldHeld page off)
  let free := rows.filter (fun x => !s.fieldHeld page off x)
  let old := s.word page off
  let new := applyRows free v old
  if rows.isEmpty || absentHead s.part kd off then s
  else if free.isEmpty || (gkpOnly kd off && r == .host) || s.frozen kd page off old new then
    s.dropWrite r page off
  else
    let s1 := if held.any (fun x => x.changes v old) then s.dropWrite r page off else s
    (s1.setWord page off new).written r kd u page off old

/-! ### Enables (R39, R72) -/

/-- Kinds whose `ENABLE` stays 0 until `STAGE` reads READY (R72). -/
def lateEnable : Kind → Bool
  | .sdl | .enc | .trg | .hsc | .stm | .pav | .trl | .fir | .onk | .cam | .qlp | .axis | .fnt => true
  | _ => false

/-- The n-th of a run of `k` units, where the number is in range. -/
def State.atFin (s : State) (k : Nat) (u : Nat) (f : Fin k → State) : State :=
  if h : u < k then f ⟨u, h⟩ else s

/-- `ENABLE` of a page goes from 0 to 1. -/
def State.enableOn (s : State) (r : Req) (kd : Kind) (u page : Nat) : State :=
  let plain := s.wr page UNIT_CTRL_ENABLE 1
  match kd with
  | .enc => s.atFin 3 u s.encOn
  | .sdl => s.sdlOnNow
  | .stm => if s.rd page UNIT_STATUS_STATE = 0 then plain.setState page 1 else plain
  | .fir => plain.updFir u (fun f => { f with tValid := false })
  | .onk => s.onkOn u
  | .cam => s.camEnable u
  | .qlp => s.qlpEnable
  | .dram => s.atFin 2 u (fun c => s.chanSwitch r c true)
  | .net => s.atFin 2 u (fun p => s.revote (fun t => t.portOn p))
  | .axis => s.axisEnable u
  | .fnt => s.fntEnable
  | .bst => plain.setBist (fun b => { b with rotFrom := s.now })
  | _ => plain

/-- `ENABLE` of a page goes from 1 to 0. -/
def State.enableOff (s : State) (r : Req) (kd : Kind) (u page : Nat) : State :=
  match kd with
  | .enc => s.atFin 3 u s.encOff
  | .sdl => s.sdlOff r
  | .hsc => s.scheduleOff (some u)
  | .trg => s.scheduleOff none
  | .stm => s.atFin 4 u s.stmOff
  | .fir => s.firOff u
  | .onk => s.onkOff u
  | .cam => s.camDisable u
  | .qlp => s.qlpDisable
  | .dram => s.atFin 2 u (fun c => s.chanSwitch r c false)
  | .net => s.atFin 2 u (fun p => s.revote (fun t => t.portOff p))
  | .axis => s.axisDisable u
  | .fnt => s.fntDisable
  | _ => s.wr page UNIT_CTRL_ENABLE 0

/-- A write of `UNIT_CTRL` (R39, R72). -/
def State.enableWrite (s : State) (r : Req) (kd : Kind) (u page : Nat) (v : Bool) : State :=
  let on := s.bit page UNIT_CTRL_ENABLE
  if kd.alwaysOn then s
  else if v && lateEnable kd && !s.ready then s.dropWrite r page 0x00C
  else if v && on then (if kd = .axis then s.updAxis u (fun x => { x with offAtRest := false }) else s)
  else if v then s.enableOn r kd u page
  else if on then s.enableOff r kd u page
  else s

/-! ### Commits, locks and words with a life of their own -/

/-- A write of `WHEN`: held until a copy into the page's shadow bank ends (R192), else as R47 to R50
say. -/
def State.whenWrite (s : State) (r : Req) (page mode : Nat) : State :=
  if mode ≠ 0 ∧ s.copyHolds page then
    match s.drc.copy with
    | some c =>
      let c1 := { c with whens := c.whens ++ [(r, page, mode)] }
      { s with drc := { s.drc with copy := some c1 } }
    | none => s
  else s.writeWhen r page mode

/-- A write of `UNIT_LOCK` (R53): a write of 0 does not spend the field. -/
def State.lockWrite (s : State) (r : Req) (page : Nat) (v : Bool) : State :=
  if s.locked page then s.dropWrite r page 0x02C
  else if v then (s.wr page UNIT_LOCK_LOCK 1).wr page UNIT_LOCK_OWNER (reqNum r)
  else s

/-- A write of `UNIT_CMD` with a code that the page does not define (R43). -/
def State.unknownCommand (s : State) (r : Req) (page : Nat) (v : Word) : State :=
  s.refuse r page 0x01C (getBits 15 0 v) rcUNKNOWN

/-- A write of a vote word (R76, R92). -/
def State.voteWrite (s : State) (r : Req) (client : Nat) (v : Word) : State :=
  if client = reqNum r then s.setVote client (getBits 13 0 v)
  else s.dropWrite r pgPWR (0x040 + 4 * client)

/-- A write to a pavilion's `UNIT_EVENT`, `UNIT_EVENT_EN` or `WK_HORIZON` acts on every present kiosk
beneath it (R149). -/
def State.pavWrite (s : State) (r : Req) (u page off : Nat) (v : Word) : State :=
  (s.beneath u).foldl (fun t k => t.fieldWrite r .ksk k (pgKSK k) off v)
    (if off = 0x014 then s else s.fieldWrite r .pav u page off v)

/-- A write of a present page's word as it reaches the page. -/
def State.wordWrite (s : State) (r : Req) (kd : Kind) (u page off : Nat) (v : Word) : State :=
  let plain := s.fieldWrite r kd u page off v
  match off with
  | 0x00C => s.enableWrite r kd u page (v.getLsbD 0)
  | 0x010 =>
    let t := s.fieldWrite r kd u page off v
    if v.getLsbD 4 then t.setStale r page false else t
  | 0x024 => s.whenWrite r page (getBits 3 0 v)
  | 0x02C => s.lockWrite r page (v.getLsbD 0)
  | 0x034 => if v.getLsbD 16 then s.follyOff page else s.writeArm r page (getBits 15 0 v)
  | _ =>
    match kd with
    | .pwr =>
      if 0x040 ≤ off ∧ off < 0x05C then s.voteWrite r ((off - 0x040) / 4) v
      else if off = 0x070 then s.revote (fun t => t.fieldWrite r kd u page off v)
      else plain
    | .netRoot =>
      if off = 0x070 then (s.revote (fun t => t.fieldWrite r kd u page off v)).laneClocks else plain
    | .trl =>
      if 0x050 ≤ off ∧ off < 0x060 then s.trlAccess r u ((off - 0x050) / 4) (some v) else plain
    | .cam => if off = 0x0C8 then s.camAccess r u (some v) else plain
    | .pav =>
      if off = 0x014 ∨ off = 0x018 ∨ off = 0x060 then
        s.pavWrite r (placeIn kd page u) page off (if off = 0x014 then v &&& 1 else v)
      else plain
    | _ => plain

/-- The fabric holds a write of a TRL or CAM page while its bank is SYNCING: to the window's index, and to any
word behind an access that it holds (R12, R192). -/
def State.behind (s : State) (r : Req) (page off : Nat) (v : Word) (f : State → State) : State :=
  match s.unit page with
  | some (.trl, h) =>
    if (s.trlOf h).held.isEmpty && !(off == 0x04C && s.trlState h == bkSYNCING) then f s
    else s.updTrl h (fun x => { x with held := x.held ++ [.word r off v] })
  | some (.cam, k) =>
    if (s.camOf k).held.isEmpty && !(off == 0x0C4 && s.camBankState k == bkSYNCING) then f s
    else s.updCam k (fun x => { x with held := x.held ++ [.word r off v] })
  | _ => f s

/-- A write of a register word (R38, R54): one without all four byte enables is dropped. -/
def State.regWrite (s : State) (r : Req) (page off : Nat) (be : BitVec 4) (v : Word) : State :=
  s.access r page off (fun t =>
    if be ≠ 0xF then t.dropWrite r page off
    else if off = 0x01C then t.unknownCommand r page v
    else
      match t.unit page with
      | none => t
      | some (kd, u) => t.behind r page off v (fun x => x.wordWrite r kd u page off v))

/-! ### Held accesses go on (R191, R192, R253, R285, R290) -/

/-- An access that the fabric of a TRL page held goes on, or is held once more. -/
def State.trlRelease (s : State) (h : Nat) (x : Held) : State :=
  match x with
  | .window r w write => s.trlAccess r h w write
  | .store r ofs bs bad => s.trlStore r h ofs bs bad
  | .word r off v => s.behind r (pgTRL h) off v (fun t => t.wordWrite r .trl h (pgTRL h) off v)
  | .index r => s.readFirst r (pgTRL h) 0x04C

def State.camRelease (s : State) (k : Nat) (x : Held) : State :=
  match x with
  | .window r _ write => s.camAccess r k write
  | .store r ofs bs bad => s.camStore r k ofs bs bad
  | .word r off v => s.behind r (pgCAM k) off v (fun t => t.wordWrite r .cam k (pgCAM k) off v)
  | .index r => s.readFirst r (pgCAM k) 0x0C4

/-- R191, R253: the copy completes once nothing uses the old bank, and held accesses go on. -/
def execBankSyncDone (page : BitVec 12) (s : State) : Out := run (fun s =>
  match s.unit page.toNat with
  | some (.trl, h) =>
    s.onlyIf (s.trlState h == bkSYNCING && s.trlIdle h) (fun t =>
      let held := (t.trlOf h).held
      (held.foldl (fun u x => u.trlRelease h x)
        ((t.trlCopied h).updTrl h (fun x => { x with held := [] }))).fencesDone)
  | some (.cam, k) =>
    s.onlyIf (s.camBankState k == bkSYNCING && s.camIdle k) (fun t =>
      let held := (t.camOf k).held
      (held.foldl (fun u x => u.camRelease k x)
        ((t.camCopied k).updCam k (fun x => { x with held := [] }))).fencesDone)
  | _ => s) s

/-- A write of `WHEN` behind what the page's fabric holds. -/
def State.whenAccess (s : State) (r : Req) (page mode : Nat) : State :=
  s.behind r page 0x024 (BitVec.ofNat 32 mode) (fun t => t.whenWrite r page mode)

/-! ### Meanings -/

/-- R47. -/
def execCommitCancel (r : Req) (page : BitVec 12) (s : State) : Out := run (fun s =>
  s.access r page.toNat 0x024 (fun t => t.whenAccess r page.toNat 0)) s

/-- R47. -/
def execCommitNow (r : Req) (page : BitVec 12) (s : State) : Out := run (fun s =>
  s.access r page.toNat 0x024 (fun t => t.whenAccess r page.toNat 1)) s

/-- R47, R48. -/
def execCommitNextLine (r : Req) (page : BitVec 12) (s : State) : Out := run (fun s =>
  s.access r page.toNat 0x024 (fun t => t.whenAccess r page.toNat 2)) s

/-- R47, R48. -/
def execCommitNextPage (r : Req) (page : BitVec 12) (s : State) : Out := run (fun s =>
  s.access r page.toNat 0x024 (fun t => t.whenAccess r page.toNat 3)) s

/-- R47, R48. -/
def execCommitAtPosition (r : Req) (page : BitVec 12) (s : State) : Out := run (fun s =>
  s.access r page.toNat 0x024 (fun t => t.whenAccess r page.toNat 4)) s

/-- R50: a mode of 5 to 15. -/
def execCommitBadWhen (r : Req) (page : BitVec 12) (mode : BitVec 4) (s : State) : Out := run (fun s =>
  s.access r page.toNat 0x024 (fun t => t.whenAccess r page.toNat mode.toNat)) s

/-- R53: a write of 1. -/
def execUnitLockWrite (r : Req) (page : BitVec 12) (s : State) : Out := run (fun s =>
  s.access r page.toNat 0x02C (fun t =>
    t.behind r page.toNat 0x02C 1 (fun x => x.lockWrite r page.toNat true))) s

/-- R45, R379. -/
def execFollyArm (r : Req) (page : BitVec 12) (key : BitVec 16) (s : State) : Out := run (fun s =>
  s.access r page.toNat 0x034 (fun t =>
    t.behind r page.toNat 0x034 (BitVec.ofNat 32 key.toNat)
      (fun x => x.writeArm r page.toNat key.toNat))) s

/-- R379: it is always accepted. -/
def execFollyDisarm (r : Req) (page : BitVec 12) (s : State) : Out := run (fun s =>
  s.access r page.toNat 0x034 (fun t =>
    t.behind r page.toNat 0x034 0x10000 (fun x => x.follyOff page.toNat))) s

/-- R244, R260. -/
def execCamEnable (r : Req) (k : Fin 6) (s : State) : Out := run (fun s =>
  let p := pgCAM k.val
  s.access r p 0x00C (fun t => t.behind r p 0x00C 1 (fun x => x.enableWrite r .cam k.val p true))) s

/-- R251. -/
def execCamDisable (r : Req) (k : Fin 6) (s : State) : Out := run (fun s =>
  let p := pgCAM k.val
  s.access r p 0x00C (fun t => t.behind r p 0x00C 0 (fun x => x.enableWrite r .cam k.val p false))) s

end Sys2Proof.Machine
end

