-- ==== Sys2Proof/Machine/CmdWrite.lean ====
section
/-! DEFINITION. A register write, whatever word it falls on (R43, R54): a write of `UNIT_CMD` with a code
that the page defines is the command of that code. -/

namespace Sys2Proof.Machine

/-- What the device finds on its wires as a command begins is no part of the written word: it is free
(log 12). -/
def State.wired (s : State) (f : Bool → Bool → State → Out) : Out :=
  f (Config.wireBit s.free) (Config.wireBit (s.free + 1)) { s with free := s.free + 2 }

/-- The command that a code names on a page of a kind (the chapters' command tables). -/
def commandOf (r : Req) (kd : Kind) (u page code : Nat) (arg : BitVec 16) : Option (State → Out) :=
  match kd, code with
  | .top, 1 => some (execDeviceReset r arg)
  | .clk, 1 => some (execRelock r arg)
  | .wrd, 1 => some (execRelease r arg)
  | .wrd, 2 => some (execAssertFault r arg)
  | .bst, 1 => some (execSliceNow r arg)
  | .bst, 2 => some (execRetire r arg)
  | .gbk, 1 => some (execGbkWrite r arg)
  | .firRoot, 1 => some (execRearm r arg)
  | .fsh, 1 => some (execFshRead r arg)
  | .fsh, 2 => some (State.wired · (fun w _ => execFshProgram r arg w))
  | .fsh, 3 => some (State.wired · (fun w _ => execFshErase r arg w))
  | .fsh, 4 => some (execFshVerify r arg)
  | .fsh, 5 => some (execUpdate r arg)
  | .fsh, 6 => some (execCfgApply r arg)
  | .fsh, 7 => some (execCfgRevert r arg)
  | .fnt, 1 => some (execFntResume r arg)
  | .gth, 1 => some (execLoadKey r arg)
  | .gth, 2 => some (execClearKey r arg)
  | .gth, 3 => some (execChallenge r arg)
  | .gth, 4 => some (execUnlock r arg)
  | .gth, 5 => some (execGthWithdraw r arg)
  | .gth, 6 => some (execRaiseSvn r arg)
  | .ing, 1 => some (execApplyRibbons r arg)
  | .pav, 1 | .ksk, 1 => some (execKioskWithdraw r (BitVec.ofNat 12 page) arg)
  | .pav, 2 | .ksk, 2 => some (execKioskReturn r (BitVec.ofNat 12 page) arg)
  | .axis, 1 => some (execMove r (Fin.ofNat 4 u) arg)
  | .axis, 2 => some (execRunTable r (Fin.ofNat 4 u) arg)
  | .axis, 3 => some (execAxisStop r (Fin.ofNat 4 u) arg)
  | .axis, 4 => some (execHome r (Fin.ofNat 4 u) arg)
  | .axis, 5 => some (execServo r (Fin.ofNat 4 u) arg)
  | .axis, 6 => some (execSetPosition r (Fin.ofNat 4 u) arg)
  | .axis, 7 => some (State.wired · (fun w _ => execClearFault r (Fin.ofNat 4 u) arg w))
  | .axis, 8 => some (execAxisLoadDefault r (Fin.ofNat 4 u) arg)
  | .cpy, 1 => some (execCopy r arg)
  | .cpy, 2 => some (execCopyCancel r arg [])
  | .dram, 1 => some (execRetrain r (Fin.ofNat 2 u) arg)
  | .dram, 2 => some (execClearErrs r (Fin.ofNat 2 u) arg)
  | .netRoot, 1 => some (execSwitch r arg)
  | .netRoot, 2 => some (execVniReset r arg)
  | .tb, 1 => some (execTbStep r (Fin.ofNat 4 u) arg)
  | .tb, 2 => some (execTbSet r (Fin.ofNat 4 u) arg)
  | .onk, 1 => some (execOnkRead r (Fin.ofNat 32 u) arg)
  | .onk, 2 => some (execOnkFlush r (Fin.ofNat 32 u) arg)
  | .onk, 3 => some (execHeadLoop r (Fin.ofNat 32 u) arg)
  | .onkRoot, 1 => some (execStage r arg)
  | .onkRoot, 2 => some (execOnkAbort r arg)
  | .onkRoot, 3 => some (execUnmaskAlert r arg)
  | .onkRoot, 4 => some (State.wired · (fun w w' => execMbusXfer r arg w w'))
  | .onkRoot, 5 => some (State.wired · (fun w _ => execMbusRecover r arg w))
  | .qlp, 1 => some (execAlign r arg)
  | .qlp, 2 => some (execQlpClear r arg)
  | .qlp, 3 => some (execArchive r arg)
  | .qlp, 4 => some (execArcAbort r arg)
  | .stm, 1 => some (execStmStart r (Fin.ofNat 4 u) arg)
  | .stm, 2 => some (execStmReset r (Fin.ofNat 4 u) arg)
  | .stm, 3 => some (execRingReset r (Fin.ofNat 4 u) arg)
  | .enc, 1 => some (execCalibrate r (Fin.ofNat 3 u) arg)
  | .enc, 2 => some (execClearDrift r (Fin.ofNat 3 u) arg)
  | .sdl, 1 => some (execLoadPosition r arg)
  | .sdl, 2 => some (execSdlResume r arg)
  | .sdl, 3 => some (execAlignCheck r arg)
  | .sdl, 4 => some (execReleaseHalt r arg)
  | .hsc, 1 => some (execHscStart r (Fin.ofNat 32 u) arg)
  | .hsc, 2 => some (execHscStop r (Fin.ofNat 32 u) arg)
  | .trg, 1 => some (execTrgStart r arg)
  | .trg, 2 => some (execTrgStop r arg)
  | .trl, 1 => some (execTrlLoadDefault r (Fin.ofNat 32 u) arg)
  | .trl, 2 => some (execTrlRevert r (Fin.ofNat 32 u) arg)
  | .trlRoot, 1 => some (execSetOut r arg)
  | .cam, 1 => some (execCamLoadDefault r (Fin.ofNat 6 u) arg)
  | .cam, 2 => some (execCamRevert r (Fin.ofNat 6 u) arg)
  | _, _ => none

/-- The command that a write spells: of the whole word `UNIT_CMD`, with a code that the page defines. -/
def writtenCommand (part : Part) (r : Req) (page off : Nat) (be : BitVec 4) (v : Word) :
    Option (State → Out) :=
  if off ≠ 0x01C ∨ be ≠ 0xF then none
  else
    match unitOf part page with
    | none => none
    | some (kd, u) => commandOf r kd u page (getBits 15 0 v) (BitVec.ofNat 16 (getBits 31 16 v))

/-- R43, R54: the offset is that of the word the write falls in (R38). -/
def execRegisterWrite (r : Req) (page off : BitVec 12) (be : BitVec 4) (v : Word) (s : State) : Out :=
  let o := off.toNat / 4 * 4
  match writtenCommand s.part r page.toNat o be v with
  | some c => c s
  | none => run (fun t => t.regWrite r page.toNat o be v) s

end Sys2Proof.Machine
end

