-- ==== Sys2Proof/Machine/LineEvents.lean ====
section
/-! DEFINITION. What a running schedule issues: tile deadlines, send deadlines, hits and triggers
(R117, R119, R123, R125, R126, R145, R154, R200). -/

namespace Sys2Proof.Machine

/-- Schedules issue: PRINT stands at level 2 and SDL is in FORWARD (R112). -/
def State.issues (s : State) : Bool := s.printUp && s.forward

/-- The position has reached a place. -/
def State.at' (s : State) (p : Pos) : Bool := decide (0 ≤ posDiff s.pos p)

/-! ### Deadlines -/

/-- R145, R146: a line that is incomplete at its tile deadline is counted in the head's `LATE`. -/
def execTileDeadline (h : Fin 32) (s : State) : Out := run (fun s =>
  let n := (s.hscOf h.val).tile
  s.onlyIf (s.issues && (s.hscOf h.val).running && s.at' (s.tileDeadline h.val n)) (fun t =>
    let t1 := if t.lineComplete h.val n then t else t.incSat pgING (ING_RIB_STAT_LATE h.val)
    t1.updHsc h.val (fun x => { x with tile := n + 1 }))) s

/-- Append to the starvation log of 16 entries, or count the entry lost (R154). -/
def State.logStarved (s : State) (e : Starved) : State :=
  if s.ing.starved.length < 16 then s.updIng (fun x => { x with starved := x.starved ++ [e] })
  else s.incSat pgING ING_STARVE_LOST_N

/-- A line that is not complete is sent as a line of no drops: every plane is marked blank, and
`STARVE` tells page, head and the planes not done (R154). -/
def State.starve (s : State) (h n planes : Nat) (num : BitVec 32) : State :=
  let s1 := (planesOf (s.ribOf h).layers).foldl (fun t l => t.markBlank h l n) s
  (s1.raiseD (pgHSC h) 0 (num.toNat + 2 ^ 32 * h + 2 ^ 40 * planes)).logStarved
    { head := h, planes := planes, num := num }

/-- The planes that a line lacks at its send deadline; folly 1 holds every one of them not done. -/
def State.lacking (s : State) (h n : Nat) : State × Nat :=
  if s.follyOn (pgHSC h) 1 then
    (s.inject (pgHSC h), (planesOf (s.ribOf h).layers).foldl orBit 0)
  else (s, s.lacksNow h n)

/-- The next line's send deadline (R48, R154, R193, R222, R236): commits that select it take effect,
it starves or goes to Trellis, and it is on its way on its lane. -/
def State.sendNext (s : State) (h : Nat) : State :=
  let n := (s.sendCur h).line
  let s1 := [pgHSC h, pgTRL h, pgONK h].foldl (fun t p => t.commitAtLine p n) s
  let c := s1.sendCur h
  let (s2, gone) := s1.lacking h n
  let s3 := if gone = 0 then s2 else s2.starve h n gone c.num
  let m := s3.mapping h n c.num
  let s4 := s3.updTrl h (fun t => { t with maps := t.maps ++ [m] })
  let s5 := ((s4.flightBegin h n).txLate h n).dropLine h n
  s5.updHsc h (fun x => { x with send := c.next (s5.geos h) })

/-- R48, R117, R154. -/
def execSendDeadline (h : Fin 32) (s : State) : Out := run (fun s =>
  let n := (s.hscOf h.val).send.line
  s.onlyIf (s.issues && (s.hscOf h.val).running && s.at' (s.sendDeadlineOf h.val n)) (fun t =>
    t.sendNext h.val)) s

/-! ### Hits -/

/-- The compare value lies at or before the end of this tick's predicted travel (R123). -/
def State.hitFalls (s : State) (c : BitVec 64) : Bool :=
  let travel := BitVec.ofInt 64 ((s.rdS pgSPD SPD_SPEED_V * 2).fdiv 1000)
  decide (0 ≤ (s.predicted + travel - c).toInt)

/-- When a hit that comes now issues: at least `HSC_MIN_PERIOD` after the one before, and with folly 2
that period later (R119). -/
def State.hitTime (s : State) (h : Nat) (extra : Bool) : Nat :=
  let period := max 2500 (s.rd (pgHSC h) HSC_MIN_PERIOD_NS)
  let t := match (s.hscOf h).lastHit with
    | some t0 => max s.now (t0 + period)
    | none => s.now
  if extra then t + period else t

/-- The line counts as sent, unless folly 4 of the firing block treats it as not sent. -/
def State.sentLine (s : State) (h : Nat) (sent : Bool) : State × Bool :=
  if s.follyOn (pgFIR h) 4 && s.enabled (pgFIR h) then (s.inject (pgFIR h), false) else (s, sent)

/-- The hit of a line at the firing block, on its lane and in the quality loop (R200, R227, R228, R263). -/
def State.strike (s : State) (h line : Nat) (edge : Int) : State :=
  let levels := (((s.onkOf h).flight.find? (fun f => f.line == line)).bind Flight.levels).getD []
  let s1 := s.commitAtLine (pgFIR h) line
  let (s2, took) := s1.takeFlight h line
  let (s3, sent) := s2.sentLine h took
  let hit := (s3.rearmAtHit h).reaches h sent
  let s4 := s3.fireLine h line levels sent edge
  let s5 := if hit then s4.updOnk h (fun x => { x with reports := x.reports ++ [line] })
    else s4.skipLine h line
  s5.qlpHit h line !hit

/-- The next line's hit issues. -/
def State.hitNext (s : State) (h : Nat) : State :=
  let p := pgHSC h
  let hs := s.hscOf h
  let c := hs.hit.rebase (s.geos h)
  let slow := s.follyOn p 2
  let s1 := if slow then s.inject p else s
  let at' := s1.hitTime h slow
  let s2 := if s1.now < at' then (s1.incSat p HSC_LATE_LINES_N).raise p 1 else s1
  let edge := (s2.edgePhase c.cmp : Int) + (geoAt hs.geo c.line).trim
  let s3 := ({ s2 with now := at' } : State).strike h c.line edge
  let s4 : State := { s3 with now := s.now }
  let s5 := s4.updHsc h (fun x => { x with hit := c.next (s4.geos h), lastHit := some at' })
  (s5.wr p HSC_PP_NUM_N c.num.toNat).showNext h

/-- R117, R119, R123, R200. -/
def execLineHit (h : Fin 32) (s : State) : Out := run (fun s =>
  let hs := s.hscOf h.val
  s.onlyIf (s.issues && hs.running && decide (hs.hit.line < hs.send.line) &&
      s.hitFalls (hs.hit.rebase (s.geos h.val)).cmp) (fun t => t.hitNext h.val)) s

/-! ### Triggers -/

/-- The level of a trigger ball while a pulse stands or not. -/
def State.trigLevel (s : State) (k : Nat) (on : Bool) : Bool :=
  on != (s.rd pgTRG (TRG_CH_POL k) == 1)

/-- A pulse ends on a channel. -/
def State.pulseEnd (s : State) (k : Fin 6) : State :=
  if (s.trg.pulse.get k).isSome then
    let s1 : State := { s with trg := { s.trg with pulse := s.trg.pulse.set k.val none } }
    s1.emit (.trigger k.val (s.trigLevel k.val false) (4 * s.now))
  else s

/-- Where a trigger falls on a channel: the schedule's compare value plus the channel's offset (R125). -/
def State.trigAt (s : State) (k : Fin 6) (d : TrigDue) : BitVec 64 :=
  d.cmp + BitVec.ofInt 64 (s.acS pgTRG (TRG_CH_OFFSET k.val) * 65536)

/-- Whether twice the pitch is in force from this trigger on (R126). -/
def State.halving (s : State) : Bool :=
  let v := s.rdS pgSPD SPD_SPEED_V
  let limit : Int := s.ac pgTRG TRG_HALVE_SPEED_V
  if limit = 0 then false
  else if limit < v then true
  else if v * 100 < limit * 98 then false
  else s.trg.halved

/-- The trigger after the one at compare value `c`, by the speed now. -/
def State.dueAfter (s : State) (c : BitVec 64) : TrigDue :=
  let on := s.halving
  ⟨c + BitVec.ofNat 64 (if on then 2 * s.trgPitch else s.trgPitch), on⟩

/-- The next trigger of a channel, where its place is reached: a pulse whose edge is placed to 250 ps, and
an entry in the port's pending list (R125, R246).  A channel whose offset puts it ahead of the schedule has its
next trigger to place at once: the schedule's next compare value by the speed now (DESIGN CHOICE, log 96). -/
def State.pulseOn (s : State) (k : Fin 6) : State :=
  match s.trg.due.get k with
  | [] => s
  | d :: rest =>
    let c := s.trigAt k d
    if !s.hitFalls c then s
    else
      let left := if rest.isEmpty then [s.dueAfter d.cmp] else rest
      let s0 : State := { s with trg := { s.trg with due := s.trg.due.set k.val left } }
      if decide (k.val < s.part.cams) && (s.rd pgTRG (TRG_CH_EN k.val) == 1) then
        let s1 := s0.pulseEnd k
        let at_ := 4 * s.now + s.edgePhase c
        let s2 : State := { s1 with trg := { s1.trg with pulse := s1.trg.pulse.set k.val (some at_) } }
        (s2.emit (.trigger k.val (s.trigLevel k.val true) at_)).camTrigger k.val
          { pos := fireOf c, doubled := d.doubled, placed := at_ }
      else s0

/-- The channel's next pulse falls within 8 ns (R125). -/
def State.pulseNear (s : State) (k : Fin 6) : Bool :=
  match s.trg.due.get k with
  | [] => false
  | d :: _ =>
    let travel := BitVec.ofInt 64 ((s.rdS pgSPD SPD_SPEED_V * 8).fdiv 1000)
    s.issues && decide (0 ≤ (s.predicted + travel - s.trigAt k d).toInt)

/-- A pulse that stands has lasted `WIDTH` ns, 0 acting as 8, or the next one is near (R125). -/
def State.pulseOver (s : State) (k : Fin 6) : Bool :=
  match s.trg.pulse.get k with
  | none => false
  | some t =>
    let w := s.rd pgTRG TRG_WIDTH_NS
    decide (t + 4 * (if w = 0 then 8 else w) ≤ 4 * s.now) || s.pulseNear k

/-- A channel's triggers to place when the schedule goes on from `c` to `next`: the trigger at `c` knows
whether the pitch after it is doubled, one placed ahead that the schedule does not take goes, and `next` is
there unless the channel is past it. -/
def trigDues (c : BitVec 64) (next : TrigDue) (l : List TrigDue) : List TrigDue :=
  let behind := fun (d : TrigDue) => decide ((d.cmp - c).toInt ≤ 0)
  let taken := fun (d : TrigDue) => behind d || decide (0 ≤ (d.cmp - next.cmp).toInt)
  let marked := l.map (fun d => if d.cmp = c then { d with doubled := next.doubled } else d)
  let kept := marked.filter taken
  if kept.all behind then kept ++ [next] else kept

/-- The schedule reaches its compare value: it counts, and goes on by its pitch or by twice the pitch; the
channels have a further trigger to place (R125, R126). -/
def State.trigNext (s : State) : State :=
  let c := s.trg.cmp
  let next := s.dueAfter c
  let due := s.trg.due.map (trigDues c next)
  let s1 : State := { s with trg := { s.trg with halved := next.doubled, cmp := next.cmp, due := due } }
  s1.add2 pgTRG TRG_COUNT_LO_N TRG_COUNT_HI_N 1

/-- R125, R126: the schedule's compare value is reached, or a channel's place, which its offset puts
before or after it. -/
def execTriggerHit (s : State) : Out := run (fun s =>
  s.onlyIf (s.issues && s.trg.running) (fun t =>
    let t1 := if t.hitFalls t.trg.cmp then t.trigNext else t
    ([0, 1, 2, 3, 4, 5] : List (Fin 6)).foldl State.pulseOn t1)) s

/-- R125. -/
def execTriggerPulseEnd (k : Fin 6) (s : State) : Out := run (fun s =>
  s.onlyIf (s.pulseOver k) (fun s => s.pulseEnd k)) s

end Sys2Proof.Machine
end

