-- ==== Sys2Proof/Machine/Dispatch.lean ====
section
/-! DEFINITION. The dispatch: one arm per command, one direct call of its meaning. -/

namespace Sys2Proof.Machine

def exec (i : Instr) (s : State) : Host.Outcome State Fault Refusal :=
  match i with
  | .vbusPor rise => Sys2Proof.Machine.execVbusPor rise s
  | .railGood rail => Sys2Proof.Machine.execRailGood rail s
  | .railLoss rail => Sys2Proof.Machine.execRailLoss rail s
  | .resetIn low => Sys2Proof.Machine.execResetIn low s
  | .deviceResetHold => Sys2Proof.Machine.execDeviceResetHold s
  | .xtalQualified => Sys2Proof.Machine.execXtalQualified s
  | .xtalStop => Sys2Proof.Machine.execXtalStop s
  | .perstAssert => Sys2Proof.Machine.execPerstAssert s
  | .perstDeassert => Sys2Proof.Machine.execPerstDeassert s
  | .pcieHotReset => Sys2Proof.Machine.execPcieHotReset s
  | .pcieLinkDown => Sys2Proof.Machine.execPcieLinkDown s
  | .pcieLinkUp speed width degraded => Sys2Proof.Machine.execPcieLinkUp speed width degraded s
  | .pcieConfigRequest op => Sys2Proof.Machine.execPcieConfigRequest op s
  | .estopFall => Sys2Proof.Machine.execEstopFall s
  | .estopRise => Sys2Proof.Machine.execEstopRise s
  | .webBreakQualified high => Sys2Proof.Machine.execWebBreakQualified high s
  | .sramInitDone exhausted => Sys2Proof.Machine.execSramInitDone exhausted s
  | .verifyFwDone slot => Sys2Proof.Machine.execVerifyFwDone slot s
  | .configDone okA okB => Sys2Proof.Machine.execConfigDone okA okB s
  | .dramTrainDone ok0 ok1 temp0 temp1 => Sys2Proof.Machine.execDramTrainDone ok0 ok1 temp0 temp1 s
  | .pllLock n => Sys2Proof.Machine.execPllLock n s
  | .pllSwitchBack n => Sys2Proof.Machine.execPllSwitchBack n s
  | .bypassHold n => Sys2Proof.Machine.execBypassHold n s
  | .pllUnlock n => Sys2Proof.Machine.execPllUnlock n s
  | .refLoss n lost => Sys2Proof.Machine.execRefLoss n lost s
  | .freqMeasure n khz => Sys2Proof.Machine.execFreqMeasure n khz s
  | .relock r arg => Sys2Proof.Machine.execRelock r arg s
  | .deviceReset r arg => Sys2Proof.Machine.execDeviceReset r arg s
  | .registerWrite r page off be v => Sys2Proof.Machine.execRegisterWrite r page off be v s
  | .snapshotLoRead r page off => Sys2Proof.Machine.execSnapshotLoRead r page off s
  | .snapshotHiRead r page off => Sys2Proof.Machine.execSnapshotHiRead r page off s
  | .commitCancel r page => Sys2Proof.Machine.execCommitCancel r page s
  | .commitNow r page => Sys2Proof.Machine.execCommitNow r page s
  | .commitNextLine r page => Sys2Proof.Machine.execCommitNextLine r page s
  | .commitNextPage r page => Sys2Proof.Machine.execCommitNextPage r page s
  | .commitAtPosition r page => Sys2Proof.Machine.execCommitAtPosition r page s
  | .commitBadWhen r page mode => Sys2Proof.Machine.execCommitBadWhen r page mode s
  | .commitTakesEffect page => Sys2Proof.Machine.execCommitTakesEffect page s
  | .unitLockWrite r page => Sys2Proof.Machine.execUnitLockWrite r page s
  | .follyArm r page key => Sys2Proof.Machine.execFollyArm r page key s
  | .follyDisarm r page => Sys2Proof.Machine.execFollyDisarm r page s
  | .follyWindowEnd page => Sys2Proof.Machine.execFollyWindowEnd page s
  | .follyMarkEnd page => Sys2Proof.Machine.execFollyMarkEnd page s
  | .voteWrite r client level => Sys2Proof.Machine.execVoteWrite r client level s
  | .domainQuiesced d => Sys2Proof.Machine.execDomainQuiesced d s
  | .domainSupplyGood d => Sys2Proof.Machine.execDomainSupplyGood d s
  | .railTimeout => Sys2Proof.Machine.execRailTimeout s
  | .memDropRetry => Sys2Proof.Machine.execMemDropRetry s
  | .holdRegate d => Sys2Proof.Machine.execHoldRegate d s
  | .patrolCycle codes => Sys2Proof.Machine.execPatrolCycle codes s
  | .wakeComparatorTrip c => Sys2Proof.Machine.execWakeComparatorTrip c s
  | .wakeComparatorReset c => Sys2Proof.Machine.execWakeComparatorReset c s
  | .adcConversion code => Sys2Proof.Machine.execAdcConversion code s
  | .encoderEdge n a b agree => Sys2Proof.Machine.execEncoderEdge n a b agree s
  | .encoderSample n sin cos => Sys2Proof.Machine.execEncoderSample n sin cos s
  | .indexEdge n => Sys2Proof.Machine.execIndexEdge n s
  | .indexMissing n => Sys2Proof.Machine.execIndexMissing n s
  | .wireFault n => Sys2Proof.Machine.execWireFault n s
  | .wireQualified n => Sys2Proof.Machine.execWireQualified n s
  | .standstill => Sys2Proof.Machine.execStandstill s
  | .standstillEnd => Sys2Proof.Machine.execStandstillEnd s
  | .reverseEnter => Sys2Proof.Machine.execReverseEnter s
  | .reverseExit => Sys2Proof.Machine.execReverseExit s
  | .speedCollapse => Sys2Proof.Machine.execSpeedCollapse s
  | .indexCorrection => Sys2Proof.Machine.execIndexCorrection s
  | .calibrate r n arg => Sys2Proof.Machine.execCalibrate r n arg s
  | .calibrationFitEnd n complete => Sys2Proof.Machine.execCalibrationFitEnd n complete s
  | .clearDrift r n arg => Sys2Proof.Machine.execClearDrift r n arg s
  | .loadPosition r arg => Sys2Proof.Machine.execLoadPosition r arg s
  | .sdlResume r arg => Sys2Proof.Machine.execSdlResume r arg s
  | .alignCheck r arg => Sys2Proof.Machine.execAlignCheck r arg s
  | .releaseHalt r arg => Sys2Proof.Machine.execReleaseHalt r arg s
  | .sdlEnable r => Sys2Proof.Machine.execSdlEnable r s
  | .sdlDisable r => Sys2Proof.Machine.execSdlDisable r s
  | .encEnable r n => Sys2Proof.Machine.execEncEnable r n s
  | .encDisable r n => Sys2Proof.Machine.execEncDisable r n s
  | .hscStart r h arg => Sys2Proof.Machine.execHscStart r h arg s
  | .hscStop r h arg => Sys2Proof.Machine.execHscStop r h arg s
  | .trgStart r arg => Sys2Proof.Machine.execTrgStart r arg s
  | .trgStop r arg => Sys2Proof.Machine.execTrgStop r arg s
  | .scheduleDisable r h => Sys2Proof.Machine.execScheduleDisable r h s
  | .tileDeadline h => Sys2Proof.Machine.execTileDeadline h s
  | .sendDeadline h => Sys2Proof.Machine.execSendDeadline h s
  | .lineHit h => Sys2Proof.Machine.execLineHit h s
  | .triggerHit => Sys2Proof.Machine.execTriggerHit s
  | .triggerPulseEnd k => Sys2Proof.Machine.execTriggerPulseEnd k s
  | .tileFragment port udpPort src datagram => Sys2Proof.Machine.execTileFragment port udpPort src datagram s
  | .keepalive port udpPort src datagram => Sys2Proof.Machine.execKeepalive port udpPort src datagram s
  | .ackInterval u => Sys2Proof.Machine.execAckInterval u s
  | .gapWaitExpiry u => Sys2Proof.Machine.execGapWaitExpiry u s
  | .tileEligible u tile => Sys2Proof.Machine.execTileEligible u tile s
  | .ringDoorbell r u tail => Sys2Proof.Machine.execRingDoorbell r u tail s
  | .descriptorRead u desc tile poisoned => Sys2Proof.Machine.execDescriptorRead u desc tile poisoned s
  | .loopPass u => Sys2Proof.Machine.execLoopPass u s
  | .kioskTakeTile k => Sys2Proof.Machine.execKioskTakeTile k s
  | .kioskBlockEnd k errs => Sys2Proof.Machine.execKioskBlockEnd k errs s
  | .tileDecoded k errs => Sys2Proof.Machine.execTileDecoded k errs s
  | .admissionCheck => Sys2Proof.Machine.execAdmissionCheck s
  | .lookaheadCheck => Sys2Proof.Machine.execLookaheadCheck s
  | .applyRibbons r arg => Sys2Proof.Machine.execApplyRibbons r arg s
  | .stmStart r u arg => Sys2Proof.Machine.execStmStart r u arg s
  | .stmReset r u arg => Sys2Proof.Machine.execStmReset r u arg s
  | .ringReset r u arg => Sys2Proof.Machine.execRingReset r u arg s
  | .streamResetDone u => Sys2Proof.Machine.execStreamResetDone u s
  | .stmDisable r u => Sys2Proof.Machine.execStmDisable r u s
  | .vfFlr u => Sys2Proof.Machine.execVfFlr u s
  | .pfFlr => Sys2Proof.Machine.execPfFlr s
  | .dmaTimeout c => Sys2Proof.Machine.execDmaTimeout c s
  | .kioskWithdraw r page arg => Sys2Proof.Machine.execKioskWithdraw r page arg s
  | .kioskReturn r page arg => Sys2Proof.Machine.execKioskReturn r page arg s
  | .starveLogReadLo r => Sys2Proof.Machine.execStarveLogReadLo r s
  | .starveLogReadHi r => Sys2Proof.Machine.execStarveLogReadHi r s
  | .trellisHandover h groups entries ces => Sys2Proof.Machine.execTrellisHandover h groups entries ces s
  | .bankSyncDone page => Sys2Proof.Machine.execBankSyncDone page s
  | .trlTblAccess r h w write => Sys2Proof.Machine.execTrlTblAccess r h w write s
  | .trlLoadDefault r h arg => Sys2Proof.Machine.execTrlLoadDefault r h arg s
  | .trlLoadDefaultDone h => Sys2Proof.Machine.execTrlLoadDefaultDone h s
  | .trlRevert r h arg => Sys2Proof.Machine.execTrlRevert r h arg s
  | .setOut r arg => Sys2Proof.Machine.execSetOut r arg s
  | .trainDeferredStart h => Sys2Proof.Machine.execTrainDeferredStart h s
  | .railSample c mv => Sys2Proof.Machine.execRailSample c mv s
  | .stuckStrobeCut h => Sys2Proof.Machine.execStuckStrobeCut h s
  | .dutyJudge h => Sys2Proof.Machine.execDutyJudge h s
  | .rearm r arg => Sys2Proof.Machine.execRearm r arg s
  | .onkNak h tag => Sys2Proof.Machine.execOnkNak h tag s
  | .trainReport h tag expect empty unsynced => Sys2Proof.Machine.execTrainReport h tag expect empty unsynced s
  | .trainReportTimeout h => Sys2Proof.Machine.execTrainReportTimeout h s
  | .tempBlock h temp => Sys2Proof.Machine.execTempBlock h temp s
  | .returnTimeout h => Sys2Proof.Machine.execReturnTimeout h s
  | .statusBlock h status => Sys2Proof.Machine.execStatusBlock h status s
  | .stageAck h table result => Sys2Proof.Machine.execStageAck h table result s
  | .stageAckTimeout h => Sys2Proof.Machine.execStageAckTimeout h s
  | .commitAck h table result => Sys2Proof.Machine.execCommitAck h table result s
  | .readResp h num result data => Sys2Proof.Machine.execReadResp h num result data s
  | .readTimeout h => Sys2Proof.Machine.execReadTimeout h s
  | .laneUp h => Sys2Proof.Machine.execLaneUp h s
  | .laneLos h => Sys2Proof.Machine.execLaneLos h s
  | .laneLol h => Sys2Proof.Machine.execLaneLol h s
  | .onkEnable r h => Sys2Proof.Machine.execOnkEnable r h s
  | .onkRead r h arg => Sys2Proof.Machine.execOnkRead r h arg s
  | .onkFlush r h arg => Sys2Proof.Machine.execOnkFlush r h arg s
  | .headLoop r h arg => Sys2Proof.Machine.execHeadLoop r h arg s
  | .stage r arg => Sys2Proof.Machine.execStage r arg s
  | .onkAbort r arg => Sys2Proof.Machine.execOnkAbort r arg s
  | .unmaskAlert r arg => Sys2Proof.Machine.execUnmaskAlert r arg s
  | .mbusXfer r arg sdaLow sdaHigh => Sys2Proof.Machine.execMbusXfer r arg sdaLow sdaHigh s
  | .mbusXferDone m nak data => Sys2Proof.Machine.execMbusXferDone m nak data s
  | .mbusSclTimeout m sdaLow sdaHigh => Sys2Proof.Machine.execMbusSclTimeout m sdaLow sdaHigh s
  | .mbusRecover r arg sdaHigh => Sys2Proof.Machine.execMbusRecover r arg sdaHigh s
  | .hdAlertFall j => Sys2Proof.Machine.execHdAlertFall j s
  | .alertRepeat j => Sys2Proof.Machine.execAlertRepeat j s
  | .alertStuck j => Sys2Proof.Machine.execAlertStuck j s
  | .camLvalRise k => Sys2Proof.Machine.execCamLvalRise k s
  | .camLvalFall k rise fall overflow parity => Sys2Proof.Machine.execCamLvalFall k rise fall overflow parity s
  | .camTriggerMissed k => Sys2Proof.Machine.execCamTriggerMissed k s
  | .fvalRise k => Sys2Proof.Machine.execFvalRise k s
  | .fvalFall k => Sys2Proof.Machine.execFvalFall k s
  | .frameLinesReached k => Sys2Proof.Machine.execFrameLinesReached k s
  | .pclkLoss k rise fall overflow parity => Sys2Proof.Machine.execPclkLoss k rise fall overflow parity s
  | .camLineDelivered k poisoned ces => Sys2Proof.Machine.execCamLineDelivered k poisoned ces s
  | .storeHeaderWrite k => Sys2Proof.Machine.execStoreHeaderWrite k s
  | .camEnable r k => Sys2Proof.Machine.execCamEnable r k s
  | .camDisable r k => Sys2Proof.Machine.execCamDisable r k s
  | .camTblAccess r k write => Sys2Proof.Machine.execCamTblAccess r k write s
  | .camLoadDefault r k arg => Sys2Proof.Machine.execCamLoadDefault r k arg s
  | .camRevert r k arg => Sys2Proof.Machine.execCamRevert r k arg s
  | .qlpRowWrite h => Sys2Proof.Machine.execQlpRowWrite h s
  | .qlpCompare k poisoned ces => Sys2Proof.Machine.execQlpCompare k poisoned ces s
  | .qlpEnable r => Sys2Proof.Machine.execQlpEnable r s
  | .qlpModeWrite r mode => Sys2Proof.Machine.execQlpModeWrite r mode s
  | .proposalRead r auto => Sys2Proof.Machine.execProposalRead r auto s
  | .usedBinRoll => Sys2Proof.Machine.execUsedBinRoll s
  | .align r arg => Sys2Proof.Machine.execAlign r arg s
  | .alignDone => Sys2Proof.Machine.execAlignDone s
  | .alignTimeout => Sys2Proof.Machine.execAlignTimeout s
  | .qlpClear r arg => Sys2Proof.Machine.execQlpClear r arg s
  | .archive r arg => Sys2Proof.Machine.execArchive r arg s
  | .archiveTileVerified => Sys2Proof.Machine.execArchiveTileVerified s
  | .archiveDone => Sys2Proof.Machine.execArchiveDone s
  | .arcAbort r arg => Sys2Proof.Machine.execArcAbort r arg s
  | .dramRequest port addr len write poison errs => Sys2Proof.Machine.execDramRequest port addr len write poison errs s
  | .refreshDue c hot => Sys2Proof.Machine.execRefreshDue c hot s
  | .scrubRead c errs => Sys2Proof.Machine.execScrubRead c errs s
  | .trainingSlice c eyes temp => Sys2Proof.Machine.execTrainingSlice c eyes temp s
  | .forcedSweepTrigger c => Sys2Proof.Machine.execForcedSweepTrigger c s
  | .panicLong p => Sys2Proof.Machine.execPanicLong p s
  | .hostWindowAccess r off len write poison errs => Sys2Proof.Machine.execHostWindowAccess r off len write poison errs s
  | .hostFenceRead r => Sys2Proof.Machine.execHostFenceRead r s
  | .copy r arg => Sys2Proof.Machine.execCopy r arg s
  | .copyDone errs => Sys2Proof.Machine.execCopyDone errs s
  | .copyCancel r arg errs => Sys2Proof.Machine.execCopyCancel r arg errs s
  | .retrain r c arg => Sys2Proof.Machine.execRetrain r c arg s
  | .clearErrs r c arg => Sys2Proof.Machine.execClearErrs r c arg s
  | .channelEnable r c v => Sys2Proof.Machine.execChannelEnable r c v s
  | .channelTrainDone c ok temp => Sys2Proof.Machine.execChannelTrainDone c ok temp s
  | .pathCheck => Sys2Proof.Machine.execPathCheck s
  | .pathLoss cause => Sys2Proof.Machine.execPathLoss cause s
  | .autoReturn => Sys2Proof.Machine.execAutoReturn s
  | .overlapEnd => Sys2Proof.Machine.execOverlapEnd s
  | .returnWaitReset => Sys2Proof.Machine.execReturnWaitReset s
  | .switch r arg => Sys2Proof.Machine.execSwitch r arg s
  | .vniReset r arg => Sys2Proof.Machine.execVniReset r arg s
  | .netFrameRx p f => Sys2Proof.Machine.execNetFrameRx p f s
  | .vniTxDoorbell r tail => Sys2Proof.Machine.execVniTxDoorbell r tail s
  | .vniTxDone desc frame parity age fill => Sys2Proof.Machine.execVniTxDone desc frame parity age fill s
  | .netPortEnable r p => Sys2Proof.Machine.execNetPortEnable r p s
  | .portLinkUp p => Sys2Proof.Machine.execPortLinkUp p s
  | .portLinkDown p los => Sys2Proof.Machine.execPortLinkDown p los s
  | .wakeFrameMatch frame => Sys2Proof.Machine.execWakeFrameMatch frame s
  | .msixMessage v => Sys2Proof.Machine.execMsixMessage v s
  | .tbWrap u => Sys2Proof.Machine.execTbWrap u s
  | .tbStep r u arg => Sys2Proof.Machine.execTbStep r u arg s
  | .tbSet r u arg => Sys2Proof.Machine.execTbSet r u arg s
  | .pcieRecovery => Sys2Proof.Machine.execPcieRecovery s
  | .move r a arg => Sys2Proof.Machine.execMove r a arg s
  | .runTable r a arg => Sys2Proof.Machine.execRunTable r a arg s
  | .axisStop r a arg => Sys2Proof.Machine.execAxisStop r a arg s
  | .home r a arg => Sys2Proof.Machine.execHome r a arg s
  | .servo r a arg => Sys2Proof.Machine.execServo r a arg s
  | .setPosition r a arg => Sys2Proof.Machine.execSetPosition r a arg s
  | .clearFault r a arg above => Sys2Proof.Machine.execClearFault r a arg above s
  | .axisLoadDefault r a arg => Sys2Proof.Machine.execAxisLoadDefault r a arg s
  | .moveEnd a => Sys2Proof.Machine.execMoveEnd a s
  | .servoPeriod a => Sys2Proof.Machine.execServoPeriod a s
  | .homeSwitchActive a => Sys2Proof.Machine.execHomeSwitchActive a s
  | .homeSwitchRelease a => Sys2Proof.Machine.execHomeSwitchRelease a s
  | .homeRangeExceeded a => Sys2Proof.Machine.execHomeRangeExceeded a s
  | .limitSwitch a lim active => Sys2Proof.Machine.execLimitSwitch a lim active s
  | .stall a => Sys2Proof.Machine.execStall a s
  | .bridgeTrip a => Sys2Proof.Machine.execBridgeTrip a s
  | .retractDone a => Sys2Proof.Machine.execRetractDone a s
  | .holdCurrent a => Sys2Proof.Machine.execHoldCurrent a s
  | .axisEnable r a => Sys2Proof.Machine.execAxisEnable r a s
  | .axisDisable r a => Sys2Proof.Machine.execAxisDisable r a s
  | .mechClockChange => Sys2Proof.Machine.execMechClockChange s
  | .fountainSample => Sys2Proof.Machine.execFountainSample s
  | .fountainSensorFault => Sys2Proof.Machine.execFountainSensorFault s
  | .fountainSat => Sys2Proof.Machine.execFountainSat s
  | .fountainDeviation => Sys2Proof.Machine.execFountainDeviation s
  | .fntEnable r => Sys2Proof.Machine.execFntEnable r s
  | .fntResume r arg => Sys2Proof.Machine.execFntResume r arg s
  | .wrdKick r v => Sys2Proof.Machine.execWrdKick r v s
  | .heartbeatMiss => Sys2Proof.Machine.execHeartbeatMiss s
  | .lockstepDivergence => Sys2Proof.Machine.execLockstepDivergence s
  | .tcmUe => Sys2Proof.Machine.execTcmUe s
  | .release r arg => Sys2Proof.Machine.execRelease r arg s
  | .assertFault r arg => Sys2Proof.Machine.execAssertFault r arg s
  | .checkerDisagree page => Sys2Proof.Machine.execCheckerDisagree page s
  | .paritySweep page off bad => Sys2Proof.Machine.execParitySweep page off bad s
  | .sliceStart => Sys2Proof.Machine.execSliceStart s
  | .sliceEnd failed cells => Sys2Proof.Machine.execSliceEnd failed cells s
  | .bistLate => Sys2Proof.Machine.execBistLate s
  | .kioskParityError k => Sys2Proof.Machine.execKioskParityError k s
  | .sliceNow r arg => Sys2Proof.Machine.execSliceNow r arg s
  | .retire r arg => Sys2Proof.Machine.execRetire r arg s
  | .gbkWrite r arg => Sys2Proof.Machine.execGbkWrite r arg s
  | .gbkReadSeqWrite r v => Sys2Proof.Machine.execGbkReadSeqWrite r v s
  | .gbkWindowSelect r v => Sys2Proof.Machine.execGbkWindowSelect r v s
  | .gkpWfiHalt => Sys2Proof.Machine.execGkpWfiHalt s
  | .tcmCorrectedError => Sys2Proof.Machine.execTcmCorrectedError s
  | .fshRead r arg => Sys2Proof.Machine.execFshRead r arg s
  | .fshProgram r arg fromWindow => Sys2Proof.Machine.execFshProgram r arg fromWindow s
  | .fshErase r arg fromWindow => Sys2Proof.Machine.execFshErase r arg fromWindow s
  | .fshVerify r arg => Sys2Proof.Machine.execFshVerify r arg s
  | .flashStepDone => Sys2Proof.Machine.execFlashStepDone s
  | .flashStepTimeout => Sys2Proof.Machine.execFlashStepTimeout s
  | .flashFetch addr n => Sys2Proof.Machine.execFlashFetch addr n s
  | .flashReadDone => Sys2Proof.Machine.execFlashReadDone s
  | .update r arg => Sys2Proof.Machine.execUpdate r arg s
  | .updateTimeout => Sys2Proof.Machine.execUpdateTimeout s
  | .actSwap r => Sys2Proof.Machine.execActSwap r s
  | .actTakenOver r => Sys2Proof.Machine.execActTakenOver r s
  | .actFallback r code => Sys2Proof.Machine.execActFallback r code s
  | .actCfgResult r code => Sys2Proof.Machine.execActCfgResult r code s
  | .cfgApply r arg => Sys2Proof.Machine.execCfgApply r arg s
  | .cfgRevert r arg => Sys2Proof.Machine.execCfgRevert r arg s
  | .loadKey r arg => Sys2Proof.Machine.execLoadKey r arg s
  | .clearKey r arg => Sys2Proof.Machine.execClearKey r arg s
  | .challenge r arg => Sys2Proof.Machine.execChallenge r arg s
  | .unlock r arg => Sys2Proof.Machine.execUnlock r arg s
  | .zeroizeDone => Sys2Proof.Machine.execZeroizeDone s
  | .nonceExpiry => Sys2Proof.Machine.execNonceExpiry s
  | .unlockLockoutEnd => Sys2Proof.Machine.execUnlockLockoutEnd s
  | .gthWithdraw r arg => Sys2Proof.Machine.execGthWithdraw r arg s
  | .raiseSvn r arg => Sys2Proof.Machine.execRaiseSvn r arg s
  | .pclkDetected k => Sys2Proof.Machine.execPclkDetected k s
  | .onkRxBlock h hdr payload => Sys2Proof.Machine.execOnkRxBlock h hdr payload s

end Sys2Proof.Machine
end

