-- ==== Sys2Proof/Machine/Tick.lean ====
section
/-! DEFINITION. What passes with time while no command waits: one 2 ns tick of Sundial's clock.
DESIGN CHOICE, log 1: the table has no row for a tick, so an idle step is one. -/

namespace Sys2Proof.Machine

/-- Time bases count (R320), a coasting encoder goes on and the position is extrapolated (R101, R109). -/
def State.tickCounts (s : State) : State :=
  let s1 := [(0 : Fin 4), 1, 2, 3].foldl State.tbTick s
  [(0 : Fin 3), 1, 2].foldl State.travelTick s1

/-- While PRINT runs, the speed shown enters its mean, and each µs SPD judges a collapse (R114, R127). -/
def State.tickSpeed (s : State) : State :=
  if !s.printUp then s
  else
    let s1 := s.avgSpeed
    if s1.now % 1000 = 0 then s1.judgeSpeed else s1

/-- The Guestbook's writer takes an entry (R383), the memory ports' panics are noted (R288), and
start-up passes from GKP_START to CONFIG (R70). -/
def State.tickSystem (s : State) : State :=
  let s1 := (s.gbkDrain.notePanic 0).notePanic 1
  if s1.stage = 4 then s1.setStage 5 else s1

/-- Axes act once in a µs (R340, R341), their choppers every 100 ns (R336, R337). -/
def State.tickAxes (s : State) : State :=
  let s1 := if s.now % 100 = 0 then (List.range s.part.axes).foldl State.chopTick s else s
  if s1.now % 1000 = 0 then (List.range s1.part.axes).foldl State.axisTick s1 else s1

/-- Lanes send their own blocks (R221, R231). -/
def State.tickLanes (s : State) : State := (List.range s.part.heads).foldl State.laneTick s

/-- One tick of 2 ns. -/
def State.tick (s : State) : State :=
  let s1 : State := { s with now := s.now + 2, emitted := [] }
  s1.tickCounts.tickSpeed.tickSystem.tickDram.tickLanes.tickAxes.tickPower

end Sys2Proof.Machine
end

