-- ==== Sys2Proof/Machine/Pins.lean ====
section
/-! DEFINITION. What the device drives at its balls and towards the Groundskeeper's interrupts, as
functions of the state; none is high-Z (R16, R21). -/

namespace Sys2Proof.Machine

/-- The signal balls of R16, by group and by the unit that they belong to. -/
inductive Balls where
  | onkTx (h : Nat) | onkRx (h : Nat) | strobe (h : Nat) | alert (j : Nat) | headBus (m : Nat) | encoder
  | camData (k : Nat) | camTrig (k : Nat) | netLanes | onkRef (g : Nat) | netRef | pcieLanes | pcieRef
  | pcieSide | ddr | ddrRest | spd | qspi | gates (a : Nat) | coilSense (a : Nat) | switches (a : Nat)
  | pump | monIn | railSense | wakeIn | safety | railEn | resetIn | jtag | uart | testMode
  deriving DecidableEq, Repr

/-- The domain that governs a ball; none for the always-on island.  `ddr` are RESET_n, CS and CK of the
DDR balls, `ddrRest` the others (R23). -/
def Balls.domain : Balls → Option Dom
  | .onkTx _ | .onkRx _ | .strobe _ | .alert _ | .headBus _ | .encoder | .onkRef _ => some .print
  | .camData _ | .camTrig _ => some .cam
  | .netLanes | .netRef => some .net
  | .pcieLanes | .pcieRef => some .host
  | .ddr | .ddrRest | .spd => some .mem
  | .qspi | .jtag | .uart => some .sys
  | .gates _ | .coilSense _ | .switches _ | .pump => some .mech
  | .pcieSide | .monIn | .railSense | .wakeIn | .safety | .railEn | .resetIn | .testMode => none

/-- A part has the unit of a ball; a ball of an absent unit is neither driven nor sensed (R34). -/
def Balls.present (p : Part) : Balls → Bool
  | .onkTx h | .onkRx h | .strobe h => decide (h < p.heads)
  | .alert j => decide (4 * j < p.heads)
  | .headBus m => decide (8 * m < p.heads)
  | .onkRef g => decide (8 * g < p.heads)
  | .camData k | .camTrig k => decide (k < p.cams)
  | .gates a | .coilSense a | .switches a => decide (a < p.axes)
  | _ => true

/-- What the part does at a ball (R21, R23). -/
inductive Pad where
  /-- outputs high-Z, input buffers and terminations off -/
  | off
  /-- outputs driven, inputs sensed -/
  | live
  /-- held by the retention keepers -/
  | kept
  deriving DecidableEq, Repr

/-- A ball now (R16, R21, R23, R34). -/
def State.pad (s : State) (b : Balls) : Pad :=
  if !b.present s.part then .off
  else
    match b.domain with
    | none => if s.aon.vbus then .live else .off
    | some d =>
      if s.padsOn d then .live
      else if b = .ddr && s.aon.vbus && s.aon.ddrKept && s.aon.rails.get 5 then .kept
      else .off

/-- FAULT_OUT# (R21, R28, R373). -/
def State.faultOut (s : State) : Option Bool := if s.aon.vbus then some (!s.faultOutLow) else none

/-- RAIL_EN_MAIN (R18, R21, R83, R85). -/
def State.railEnMain (s : State) : Option Bool := if s.aon.vbus then some s.aon.railEn else none

/-- PCIE_WAKE#, open drain (R91). -/
def State.pcieWake (s : State) : Option Bool :=
  if s.aon.vbus && s.aon.pcieWakeLow then some false else none

/-- CLKREQ#, open drain, low whenever HOST is at level 2 (R328). -/
def State.clkreq (s : State) : Option Bool := if s.levelOf .host = 2 then some false else none

/-- The strobe pair of a present head: `true` is "fire" (R25, R210, R213, R216, R217). -/
def State.strobePad (s : State) (h : Nat) : Option Bool :=
  if s.padsOn .print && decide (h < s.part.heads) then
    some (s.enabled (pgFIR h) && s.genHigh h && !s.isCut h && s.aon.estop && !s.aon.xtalCut &&
      !s.aon.onRc)
  else none

/-- A camera's trigger ball (R125). -/
def State.trigPad (s : State) (k : Fin 6) : Option Bool :=
  if s.padsOn .cam && decide (k.val < s.part.cams) then
    some (s.trigLevel k.val (s.trg.pulse.get k).isSome) else none

/-- An axis drives its bridges: enabled, and no bridge fault (R338, R346). -/
def State.bridgesDriven (s : State) (a : Nat) : Option Bool :=
  if s.padsOn .mech && s.has (pgAXIS a) then some (s.axisDriven a) else none

/-- AX*a*_G[7:0] (R336). -/
def State.gatePads (s : State) (a : Nat) : Option Nat :=
  if s.padsOn .mech && s.has (pgAXIS a) then some (s.axisGates a) else none

/-- PUMP_PWM's duty and its frequency in kHz (R354, R357). -/
def State.pumpPwm (s : State) : Option (Nat × Nat) :=
  if s.fntOn then some (s.rd pgFNT FNT_OUTPUT_DUTY, s.fnt.khz) else none

/-- The Groundskeeper's event interrupt (R382). -/
def State.gkpInterrupt (s : State) : Bool :=
  (List.range 20).any (fun w => s.sumWord w &&& s.word pgGKP (0x040 + 4 * w) != 0)

/-- Its service interrupt, which firmware cannot mask (R400). -/
def State.serviceInterrupt (s : State) : Bool := s.rd pgFSH FSH_SVC_REQ_KIND != 0

end Sys2Proof.Machine
end

