-- ==== Sys2Proof/Safety.lean ====
section
/-! DEFINITION. The terms the claims use: what a good state is (both memories in their one canonical
form, a Guestbook queue no longer than the hardware's), when a command is taken and from which state its
effect begins, and what an effect leaves alone. -/

namespace Sys2Proof.Machine

/-- DRAM and SRAM in canonical form: addresses strictly rising, no entry equal to the 0 that an
unlisted byte reads as. -/
def Memory.wf (m : List Host.Cell) : Bool := Tbl.canonical (fun _ => (0 : Byte)) m

/-- The flash in canonical form: an unlisted byte reads 0xFF. -/
def Flash.wf (m : List Host.Cell) : Bool := Tbl.canonical (fun _ => (0xFF : Byte)) m

/-- A good state: both memories canonical, at most 64 entries waiting for the Guestbook's writer
(R383). -/
structure State.Ok (s : State) : Prop where
  mem : Memory.wf s.mem = true
  flash : Flash.wf s.flash = true
  queue : s.gbk.queue.length ≤ 64

/-! ### Where an effect begins -/

/-- Every command and every report starts a fresh record of what left the part. -/
def State.fresh (s : State) : State := { s with emitted := [] }

/-- A requester's write has reached its page: the page's clocks are ungated (R81), and Groundskeeper cores
that made it are not halted (R80). -/
def State.reached (s : State) (r : Req) (page : Nat) : State := (s.fresh.active r).touch page

/-- A command has been accepted: the requester's result shows its code, the state at judgement and no
refusal (R43, R44). -/
def State.taken (s : State) (r : Req) (page code : Nat) : State :=
  (s.reached r page).setResult r page code ((s.reached r page).stateCode page) 0

/-- A command reaches its page, none executes there, and the unit is enabled (R39, R43, R82). -/
structure State.Takes (s : State) (r : Req) (page : Nat) : Prop where
  reach : s.open r page = true
  idle : s.bit page UNIT_STATUS_CMD_BUSY = false
  live : s.enabled page = true

/-- The same for a command that its unit takes while disabled too. -/
structure State.TakesOff (s : State) (r : Req) (page : Nat) : Prop where
  reach : s.open r page = true
  idle : s.bit page UNIT_STATUS_CMD_BUSY = false

/-- No earlier access to the page waits in its fabric for a copy of its banks (R192, R253, R285). -/
def State.flows (s : State) (page : Nat) : Bool :=
  match s.unit page with
  | some (.trl, h) => (s.trlOf h).held.isEmpty
  | some (.cam, k) => (s.camOf k).held.isEmpty
  | _ => true

/-- A write of this word waits in the fabric of its page: the table window's index while the bank is
copied (R192, R253). -/
def State.indexHeld (s : State) (page off : Nat) : Bool :=
  match s.unit page with
  | some (.trl, h) => off == 0x04C && s.trlState h == bkSYNCING
  | some (.cam, k) => off == 0x0C4 && s.camBankState k == bkSYNCING
  | _ => false

/-! ### What an effect leaves alone -/

/-- No byte of DRAM, SRAM or flash reads otherwise, and no codeword's poison differs. -/
def State.SameMem (s t : State) : Prop :=
  (∀ a, t.byte a = s.byte a) ∧ (∀ a, t.fbyte a = s.fbyte a) ∧ t.poison = s.poison

/-- No register word differs but those that `but` names by page and offset, and no active copy does. -/
def State.SameRegs (s t : State) (but : Nat → Nat → Prop) : Prop :=
  (∀ p o, o < 4096 → ¬ but p o → t.word p o = s.word p o) ∧ ∀ p o, t.actWord p o = s.actWord p o

/-- The words that the raise of an event on a page may change: the page's event bits, and the
Guestbook's when its queue is full (R382, R383). -/
def evWords (page p o : Nat) : Prop :=
  (p = page ∧ o = 0x014) ∨ (p = pgGBK ∧ (o = 0x014 ∨ o = GBK_DROPPED_N.off))

/-- The event bit stands. -/
def State.Raised (s : State) (page bit : Nat) : Prop := (s.word page 0x014).getLsbD bit = true

/-- A write has been dropped (R54), and nothing else has happened: `LOCK_VIOL` stands on the page and
`REG_ALERT` on GKP. -/
structure State.Dropped (s t : State) (r : Req) (page : Nat) : Prop where
  viol : t.bit page UNIT_STATUS_LOCK_VIOL = true
  alert : t.Raised pgGKP 0
  mem : s.SameMem t
  regs : s.SameRegs t (fun p o => (p = page ∧ o = 0x010) ∨ evWords pgGKP p o)
  rest : { t with regs := s.regs, gbk := s.gbk, pcie := s.pcie, follies := s.follies, emitted := [] } =
    s.reached r page

/-- A commit has been rejected whole (R50), and nothing else has happened: none is pending, `ERR` and
`COMMIT_ERR` show it, `REG_ALERT` is raised; active fields and shadow stand. -/
structure State.Rejected (s t : State) (page err : Nat) : Prop where
  none : t.commitOf page = none
  err : t.rd page UNIT_COMMIT_STAT_ERR = err
  flag : t.bit page UNIT_STATUS_COMMIT_ERR = true
  idle : t.rd page UNIT_COMMIT_WHEN = 0
  alert : t.Raised pgGKP 0
  mem : s.SameMem t
  regs : s.SameRegs t (fun p o =>
    (p = page ∧ (o = 0x010 ∨ o = 0x024 ∨ o = 0x028)) ∨ evWords pgGKP p o)
  rest : ∀ q, q ≠ page → t.commitOf q = s.commitOf q

/-- A commit of a unit of this kind has taken effect whole (R47): each shadowed word is active, the commit
is pending no more, `DONE` and `COUNT` show it, and no byte of memory differs; then what the unit makes of its
new values.  A unit without an effect of its own changes nothing else. -/
structure State.Committed (u t : State) (kd : Kind) (i page : Nat) (c : Commit) : Prop where
  active : ∀ o, o < 4096 → hasShadow kd o = true → t.actWord page o = u.word page o
  others : ∀ q o, q ≠ page → o < 4096 → t.actWord q o = u.actWord q o
  done : t.bit page UNIT_COMMIT_STAT_DONE = true
  count : t.rd page UNIT_COMMIT_STAT_COUNT = (u.rd page UNIT_COMMIT_STAT_COUNT + 1) % 256
  mem : u.SameMem t
  /-- a fit that waits behind another commit of its encoder is armed in its place (R99) -/
  ended : kd ≠ .enc → t.commitOf page = none ∧ t.rd page UNIT_COMMIT_WHEN = 0
  plain : kd ∉ ([.enc, .sdl, .hsc, .trl, .cam, .qlp, .fnt] : List Kind) →
    (∀ q o, o < 4096 → ¬ (q = page ∧ (o = 0x024 ∨ o = 0x028)) → t.word q o = u.word q o) ∧
    { t with regs := u.regs, act := u.act, commits := u.commits } = u
  /-- `VALID` falls where a commit other than a fit's own changes what CALIBRATE learned (R99) -/
  enc : kd = .enc → c.own = false → t.actWord page 0x04C ≠ u.actWord page 0x04C →
    t.bit page ENC_CAL_STAT_VALID = false
  /-- a fit's own commit completes it (R99) -/
  fit : kd = .enc → c.own = true → t.bit page ENC_CAL_STAT_VALID = true ∧
    (t.encOf (encNum i)).cal = .idle
  /-- a running Sundial takes its source (R107), a changed reference head brings its own lines (R122) -/
  sdl : kd = .sdl → (u.sdlOn = true → t.source = encNum (t.ac pgSDL SDL_CFG_SOURCE)) ∧
    (t.ac pgSDL SDL_CFG_REF_HEAD ≠ u.ac pgSDL SDL_CFG_REF_HEAD →
      let h := t.ac pgSDL SDL_CFG_REF_HEAD
      t.ref.map RefChan.head = if (u.hscOf h).running then some h else none)
  /-- a running schedule has the new geometry from its line on (R120) -/
  hsc : kd = .hsc → (u.hscOf i).running = true →
    (t.hscOf i).geo = u.geoShadow i (c.line.getD (u.hscOf i).send.line) :: (u.hscOf i).geo ∧
    (t.hscOf i).running = true
  /-- the banks swap and the copy begins, unless the last copy still waits (R191) -/
  trl : kd = .trl → u.trlState i ≠ bkSYNCING →
    (t.trlOf i).bank = !(u.trlOf i).bank ∧ t.trlState i = bkSYNCING
  /-- the same on a camera's page (R253) -/
  cam : kd = .cam → u.camBankState i ≠ bkSYNCING →
    (t.camOf i).bank = !(u.camOf i).bank ∧ t.camBankState i = bkSYNCING
  /-- a new generation begins (R275); ALIGN's own commit ends it with its result (R269) -/
  qlp : kd = .qlp → t.qlp.gen = u.qlp.gen + 1 ∧ t.qlp.accs = [] ∧ t.qlp.confirm = [] ∧
    t.bit pgQLP QLP_STATUS_WARMING = true ∧
    (∀ a, u.qlp.align = some a → c.own = true →
      t.qlp.align = none ∧ t.rd pgQLP QLP_ALIGN_STAT_RESULT = 1 ∧
      t.rd pgQLP QLP_ALIGN_STAT_CAM = a.cam % 8 ∧ t.bit pgQLP UNIT_STATUS_CMD_BUSY = false)
  /-- an enabled Fountain plans anew where its target or limits changed (R355) -/
  fnt : kd = .fnt → u.fntOn = true →
    (∃ o ∈ [0x05C, 0x060, 0x064], t.actWord pgFNT o ≠ u.actWord pgFNT o) →
    let x := (u.fnt.sp, u.fnt.spVel, u.fnt.spAcc)
    let stop := toRest x t.spLimits
    t.fnt.prof = stop ++ restToRest (glideAll x stop).1 (t.acS pgFNT FNT_SP_TARGET_P) t.spLimits

/-- Only the registers of these pages, and the Guestbook's words for a full queue, may differ; no active
copy and no byte of memory does. -/
def State.Within (s t : State) (pages : List Nat) : Prop :=
  s.SameMem t ∧ s.SameRegs t (fun p o => p ∈ pages ∨ evWords pgGBK p o)

/-- Words that a change of the power levels may change: the sequencer's own, the time bases' stale marks,
and the firing pages where ESTOP_IN# is low as PRINT rises (R83, R217, R320). -/
def State.powerWord (s : State) (p o : Nat) : Prop :=
  s.kind p ∈ [some .pwr, some .tb, some .fir, some .firRoot] ∨ evWords pgGBK p o

/-- Words whose write sets nothing else off. -/
def quietWord (kd : Kind) (off : Nat) : Bool :=
  match kd with
  | .onk | .qlp | .motRoot | .wrd => off != 0x040
  | .gbk => off != 0x044
  | .fsh => off != 0x060
  | .netRoot => off != 0x064 && off != 0x070 && off != 0x088
  | .pwr => off != 0x040 && off != 0x044 && off != 0x070
  | .trl => decide (off < 0x050) || decide (0x060 ≤ off)
  | .cam => off != 0x0C8
  | .pav => off != 0x060
  | _ => true

/-! ### Who writes where -/

/-- The requester, the page and the offset of a command that is one write of a register. -/
def writesOf : Instr → Option (Req × Nat × Nat)
  | .relock r _ => some (r, pgCLK, 0x01C)
  | .deviceReset r _ => some (r, pgTOP, 0x01C)
  | .commitCancel r page => some (r, page.toNat, 0x024)
  | .commitNow r page => some (r, page.toNat, 0x024)
  | .commitNextLine r page => some (r, page.toNat, 0x024)
  | .commitNextPage r page => some (r, page.toNat, 0x024)
  | .commitAtPosition r page => some (r, page.toNat, 0x024)
  | .commitBadWhen r page _ => some (r, page.toNat, 0x024)
  | .unitLockWrite r page => some (r, page.toNat, 0x02C)
  | .follyArm r page _ => some (r, page.toNat, 0x034)
  | .follyDisarm r page => some (r, page.toNat, 0x034)
  | .voteWrite r client _ => some (r, pgPWR, 0x040 + 4 * client.val)
  | .calibrate r n _ => some (r, pgENC n.val, 0x01C)
  | .clearDrift r n _ => some (r, pgENC n.val, 0x01C)
  | .loadPosition r _ => some (r, pgSDL, 0x01C)
  | .sdlResume r _ => some (r, pgSDL, 0x01C)
  | .alignCheck r _ => some (r, pgSDL, 0x01C)
  | .releaseHalt r _ => some (r, pgSDL, 0x01C)
  | .sdlEnable r => some (r, pgSDL, 0x00C)
  | .sdlDisable r => some (r, pgSDL, 0x00C)
  | .encEnable r n => some (r, pgENC n.val, 0x00C)
  | .encDisable r n => some (r, pgENC n.val, 0x00C)
  | .hscStart r h _ => some (r, pgHSC h.val, 0x01C)
  | .hscStop r h _ => some (r, pgHSC h.val, 0x01C)
  | .trgStart r _ => some (r, pgTRG, 0x01C)
  | .trgStop r _ => some (r, pgTRG, 0x01C)
  | .scheduleDisable r (some h) => some (r, pgHSC h.val, 0x00C)
  | .scheduleDisable r none => some (r, pgTRG, 0x00C)
  | .ringDoorbell r u _ => some (r, pgSTM u.val, 0x064)
  | .applyRibbons r _ => some (r, pgING, 0x01C)
  | .stmStart r u _ => some (r, pgSTM u.val, 0x01C)
  | .stmReset r u _ => some (r, pgSTM u.val, 0x01C)
  | .ringReset r u _ => some (r, pgSTM u.val, 0x01C)
  | .stmDisable r u => some (r, pgSTM u.val, 0x00C)
  | .kioskWithdraw r page _ => some (r, page.toNat, 0x01C)
  | .kioskReturn r page _ => some (r, page.toNat, 0x01C)
  | .trlLoadDefault r h _ => some (r, pgTRL h.val, 0x01C)
  | .trlRevert r h _ => some (r, pgTRL h.val, 0x01C)
  | .setOut r _ => some (r, pgTRLroot, 0x01C)
  | .rearm r _ => some (r, pgFIRroot, 0x01C)
  | .onkEnable r h => some (r, pgONK h.val, 0x00C)
  | .onkRead r h _ => some (r, pgONK h.val, 0x01C)
  | .onkFlush r h _ => some (r, pgONK h.val, 0x01C)
  | .headLoop r h _ => some (r, pgONK h.val, 0x01C)
  | .stage r _ => some (r, pgONKroot, 0x01C)
  | .onkAbort r _ => some (r, pgONKroot, 0x01C)
  | .unmaskAlert r _ => some (r, pgONKroot, 0x01C)
  | .mbusXfer r _ _ _ => some (r, pgONKroot, 0x01C)
  | .mbusRecover r _ _ => some (r, pgONKroot, 0x01C)
  | .camEnable r k => some (r, pgCAM k.val, 0x00C)
  | .camDisable r k => some (r, pgCAM k.val, 0x00C)
  | .camLoadDefault r k _ => some (r, pgCAM k.val, 0x01C)
  | .camRevert r k _ => some (r, pgCAM k.val, 0x01C)
  | .qlpEnable r => some (r, pgQLP, 0x00C)
  | .qlpModeWrite r _ => some (r, pgQLP, 0x040)
  | .align r _ => some (r, pgQLP, 0x01C)
  | .qlpClear r _ => some (r, pgQLP, 0x01C)
  | .archive r _ => some (r, pgQLP, 0x01C)
  | .arcAbort r _ => some (r, pgQLP, 0x01C)
  | .copy r _ => some (r, pgCPY, 0x01C)
  | .copyCancel r _ _ => some (r, pgCPY, 0x01C)
  | .retrain r c _ => some (r, pgDRAM c.val, 0x01C)
  | .clearErrs r c _ => some (r, pgDRAM c.val, 0x01C)
  | .channelEnable r c _ => some (r, pgDRAM c.val, 0x00C)
  | .switch r _ => some (r, pgNETroot, 0x01C)
  | .vniReset r _ => some (r, pgNETroot, 0x01C)
  | .vniTxDoorbell r _ => some (r, pgNETroot, 0x09C)
  | .netPortEnable r p => some (r, pgNET p.val, 0x00C)
  | .tbStep r u _ => some (r, pgTB u.val, 0x01C)
  | .tbSet r u _ => some (r, pgTB u.val, 0x01C)
  | .move r a _ => some (r, pgAXIS a.val, 0x01C)
  | .runTable r a _ => some (r, pgAXIS a.val, 0x01C)
  | .axisStop r a _ => some (r, pgAXIS a.val, 0x01C)
  | .home r a _ => some (r, pgAXIS a.val, 0x01C)
  | .servo r a _ => some (r, pgAXIS a.val, 0x01C)
  | .setPosition r a _ => some (r, pgAXIS a.val, 0x01C)
  | .clearFault r a _ _ => some (r, pgAXIS a.val, 0x01C)
  | .axisLoadDefault r a _ => some (r, pgAXIS a.val, 0x01C)
  | .axisEnable r a => some (r, pgAXIS a.val, 0x00C)
  | .axisDisable r a => some (r, pgAXIS a.val, 0x00C)
  | .fntEnable r => some (r, pgFNT, 0x00C)
  | .fntResume r _ => some (r, pgFNT, 0x01C)
  | .wrdKick r _ => some (r, pgWRD, 0x040)
  | .release r _ => some (r, pgWRD, 0x01C)
  | .assertFault r _ => some (r, pgWRD, 0x01C)
  | .sliceNow r _ => some (r, pgBST, 0x01C)
  | .retire r _ => some (r, pgBST, 0x01C)
  | .gbkWrite r _ => some (r, pgGBK, 0x01C)
  | .gbkReadSeqWrite r _ => some (r, pgGBK, 0x044)
  | .gbkWindowSelect r _ => some (r, pgGBK, 0x054)
  | .fshRead r _ => some (r, pgFSH, 0x01C)
  | .fshProgram r _ _ => some (r, pgFSH, 0x01C)
  | .fshErase r _ _ => some (r, pgFSH, 0x01C)
  | .fshVerify r _ => some (r, pgFSH, 0x01C)
  | .update r _ => some (r, pgFSH, 0x01C)
  | .cfgApply r _ => some (r, pgFSH, 0x01C)
  | .cfgRevert r _ => some (r, pgFSH, 0x01C)
  | .loadKey r _ => some (r, pgGTH, 0x01C)
  | .clearKey r _ => some (r, pgGTH, 0x01C)
  | .challenge r _ => some (r, pgGTH, 0x01C)
  | .unlock r _ => some (r, pgGTH, 0x01C)
  | .gthWithdraw r _ => some (r, pgGTH, 0x01C)
  | .raiseSvn r _ => some (r, pgGTH, 0x01C)
  | .registerWrite r page off _ _ => some (r, page.toNat, off.toNat / 4 * 4)
  | .trlTblAccess r h w (some _) => some (r, pgTRL h.val, 0x050 + 4 * w.val)
  | .camTblAccess r k (some _) => some (r, pgCAM k.val, 0x0C8)
  | .actSwap r => some (r, pgFSH, 0x060)
  | .actTakenOver r => some (r, pgFSH, 0x060)
  | .actFallback r _ => some (r, pgFSH, 0x060)
  | .actCfgResult r _ => some (r, pgFSH, 0x060)
  | _ => none

/-- The requester and the page of a row that reads a register word. -/
def readsOf : Instr → Option (Req × Nat)
  | .snapshotLoRead r page _ => some (r, page.toNat)
  | .snapshotHiRead r page _ => some (r, page.toNat)
  | .starveLogReadLo r => some (r, pgING)
  | .starveLogReadHi r => some (r, pgING)
  | .trlTblAccess r h _ none => some (r, pgTRL h.val)
  | .camTblAccess r k none => some (r, pgCAM k.val)
  | .proposalRead r _ => some (r, pgQLP)
  | .hostFenceRead r => some (r, pgDRC)
  | _ => none

/-- A command as `UNIT_CMD` takes it (R43): who sends it, to which page, its code and argument, whether
its argument is given as 0, and whether its unit takes it while disabled. -/
structure Cmd where
  r : Req
  page : Nat
  code : Nat
  arg : BitVec 16
  zeroArg : Bool
  whenOff : Bool
  deriving DecidableEq, Repr

/-- The rows of the table that write `UNIT_CMD`. -/
def cmdOf : Instr → Option Cmd
  | .relock r arg => some ⟨r, pgCLK, 0x0001, arg, false, false⟩
  | .deviceReset r arg => some ⟨r, pgTOP, 0x0001, arg, false, false⟩
  | .calibrate r n arg => some ⟨r, pgENC n.val, 0x0001, arg, true, false⟩
  | .clearDrift r n arg => some ⟨r, pgENC n.val, 0x0002, arg, true, false⟩
  | .loadPosition r arg => some ⟨r, pgSDL, 0x0001, arg, true, false⟩
  | .sdlResume r arg => some ⟨r, pgSDL, 0x0002, arg, true, false⟩
  | .alignCheck r arg => some ⟨r, pgSDL, 0x0003, arg, true, false⟩
  | .releaseHalt r arg => some ⟨r, pgSDL, 0x0004, arg, true, true⟩
  | .hscStart r h arg => some ⟨r, pgHSC h.val, 0x0001, arg, true, false⟩
  | .hscStop r h arg => some ⟨r, pgHSC h.val, 0x0002, arg, true, false⟩
  | .trgStart r arg => some ⟨r, pgTRG, 0x0001, arg, true, false⟩
  | .trgStop r arg => some ⟨r, pgTRG, 0x0002, arg, true, false⟩
  | .applyRibbons r arg => some ⟨r, pgING, 0x0001, arg, true, false⟩
  | .stmStart r u arg => some ⟨r, pgSTM u.val, 0x0001, arg, true, false⟩
  | .stmReset r u arg => some ⟨r, pgSTM u.val, 0x0002, arg, true, true⟩
  | .ringReset r u arg => some ⟨r, pgSTM u.val, 0x0003, arg, true, false⟩
  | .kioskWithdraw r page arg => some ⟨r, page.toNat, 0x0001, arg, true, false⟩
  | .kioskReturn r page arg => some ⟨r, page.toNat, 0x0002, arg, true, false⟩
  | .trlLoadDefault r h arg => some ⟨r, pgTRL h.val, 0x0001, arg, true, true⟩
  | .trlRevert r h arg => some ⟨r, pgTRL h.val, 0x0002, arg, true, true⟩
  | .setOut r arg => some ⟨r, pgTRLroot, 0x0001, arg, true, false⟩
  | .rearm r arg => some ⟨r, pgFIRroot, 0x0001, arg, false, false⟩
  | .onkRead r h arg => some ⟨r, pgONK h.val, 0x0001, arg, false, false⟩
  | .onkFlush r h arg => some ⟨r, pgONK h.val, 0x0002, arg, true, false⟩
  | .headLoop r h arg => some ⟨r, pgONK h.val, 0x0003, arg, false, false⟩
  | .stage r arg => some ⟨r, pgONKroot, 0x0001, arg, true, false⟩
  | .onkAbort r arg => some ⟨r, pgONKroot, 0x0002, arg, true, false⟩
  | .unmaskAlert r arg => some ⟨r, pgONKroot, 0x0003, arg, false, false⟩
  | .mbusXfer r arg _ _ => some ⟨r, pgONKroot, 0x0004, arg, false, false⟩
  | .mbusRecover r arg _ => some ⟨r, pgONKroot, 0x0005, arg, false, false⟩
  | .camLoadDefault r k arg => some ⟨r, pgCAM k.val, 0x0001, arg, true, true⟩
  | .camRevert r k arg => some ⟨r, pgCAM k.val, 0x0002, arg, true, true⟩
  | .align r arg => some ⟨r, pgQLP, 0x0001, arg, false, false⟩
  | .qlpClear r arg => some ⟨r, pgQLP, 0x0002, arg, false, false⟩
  | .archive r arg => some ⟨r, pgQLP, 0x0003, arg, true, true⟩
  | .arcAbort r arg => some ⟨r, pgQLP, 0x0004, arg, true, false⟩
  | .copy r arg => some ⟨r, pgCPY, 0x0001, arg, true, false⟩
  | .copyCancel r arg _ => some ⟨r, pgCPY, 0x0002, arg, true, false⟩
  | .retrain r c arg => some ⟨r, pgDRAM c.val, 0x0001, arg, true, false⟩
  | .clearErrs r c arg => some ⟨r, pgDRAM c.val, 0x0002, arg, true, false⟩
  | .switch r arg => some ⟨r, pgNETroot, 0x0001, arg, true, false⟩
  | .vniReset r arg => some ⟨r, pgNETroot, 0x0002, arg, true, false⟩
  | .tbStep r u arg => some ⟨r, pgTB u.val, 0x0001, arg, true, false⟩
  | .tbSet r u arg => some ⟨r, pgTB u.val, 0x0002, arg, true, true⟩
  | .move r a arg => some ⟨r, pgAXIS a.val, 0x0001, arg, true, false⟩
  | .runTable r a arg => some ⟨r, pgAXIS a.val, 0x0002, arg, false, false⟩
  | .axisStop r a arg => some ⟨r, pgAXIS a.val, 0x0003, arg, true, false⟩
  | .home r a arg => some ⟨r, pgAXIS a.val, 0x0004, arg, true, false⟩
  | .servo r a arg => some ⟨r, pgAXIS a.val, 0x0005, arg, false, false⟩
  | .setPosition r a arg => some ⟨r, pgAXIS a.val, 0x0006, arg, true, false⟩
  | .clearFault r a arg _ => some ⟨r, pgAXIS a.val, 0x0007, arg, true, false⟩
  | .axisLoadDefault r a arg => some ⟨r, pgAXIS a.val, 0x0008, arg, true, true⟩
  | .fntResume r arg => some ⟨r, pgFNT, 0x0001, arg, true, false⟩
  | .release r arg => some ⟨r, pgWRD, 0x0001, arg, true, false⟩
  | .assertFault r arg => some ⟨r, pgWRD, 0x0002, arg, true, false⟩
  | .sliceNow r arg => some ⟨r, pgBST, 0x0001, arg, false, false⟩
  | .retire r arg => some ⟨r, pgBST, 0x0002, arg, false, false⟩
  | .gbkWrite r arg => some ⟨r, pgGBK, 0x0001, arg, true, false⟩
  | .fshRead r arg => some ⟨r, pgFSH, 0x0001, arg, true, false⟩
  | .fshProgram r arg _ => some ⟨r, pgFSH, 0x0002, arg, true, false⟩
  | .fshErase r arg _ => some ⟨r, pgFSH, 0x0003, arg, true, false⟩
  | .fshVerify r arg => some ⟨r, pgFSH, 0x0004, arg, false, false⟩
  | .update r arg => some ⟨r, pgFSH, 0x0005, arg, false, false⟩
  | .cfgApply r arg => some ⟨r, pgFSH, 0x0006, arg, false, false⟩
  | .cfgRevert r arg => some ⟨r, pgFSH, 0x0007, arg, true, false⟩
  | .loadKey r arg => some ⟨r, pgGTH, 0x0001, arg, false, false⟩
  | .clearKey r arg => some ⟨r, pgGTH, 0x0002, arg, false, false⟩
  | .challenge r arg => some ⟨r, pgGTH, 0x0003, arg, true, false⟩
  | .unlock r arg => some ⟨r, pgGTH, 0x0004, arg, false, false⟩
  | .gthWithdraw r arg => some ⟨r, pgGTH, 0x0005, arg, true, false⟩
  | .raiseSvn r arg => some ⟨r, pgGTH, 0x0006, arg, false, false⟩
  | _ => none

end Sys2Proof.Machine
end

