-- ==== Sys2Proof/WellFormed.lean ====
section
/-! DEFINITION. Well-formed commands: the checks that a command's operands meet on a part. A report comes
only from a unit that the part has (R2); a requester may write to any page, present or not (R42). -/

namespace Sys2Proof

open Machine

/-- The head is one of the part's (R2). -/
def headOk (p : Part) (h : Nat) : Bool := decide (h < p.heads)

def kioskOk (p : Part) (k : Nat) : Bool := decide (k < p.kiosks)

def camOk (p : Part) (k : Nat) : Bool := decide (k < p.cams)

def axisOk (p : Part) (a : Nat) : Bool := decide (a < p.axes)

/-- The domain is present: CAM is absent without Belvedere (R74). -/
def domainOk (p : Part) (d : Nat) : Bool := !(p.belvedere == 0 && d == 5)

/-- A unit stands at the page (R42, R429). -/
def pageOk (p : Part) (page : Nat) : Bool := (unitOf p page).isSome

/-- The page is one of the kiosk tree's (R163). -/
def inKioskTree (p : Part) (page : Nat) : Bool :=
  match unitOf p page with
  | some (.pav, _) | some (.ksk, _) => true
  | _ => false

/-- A register is an aligned word (R38). -/
def aligned (off : BitVec 12) : Bool := decide (off.toNat % 4 = 0)

/-- An access has a length, and a write brings as many bytes. -/
def lengthOk (len : BitVec 13) (write : Option (List Byte)) : Bool :=
  decide (len ≠ 0) &&
    match write with
    | none => true
    | some bs => decide (bs.length = len.toNat)

/-- The operands of a command are ones that it can have on the part. -/
def Instr.wellFormed (p : Part) (i : Instr) : Bool :=
  match i with
  | .vbusPor _ => true
  | .railGood _ => true
  | .railLoss _ => true
  | .resetIn _ => true
  | .deviceResetHold => true
  | .xtalQualified => true
  | .xtalStop => true
  | .perstAssert => true
  | .perstDeassert => true
  | .pcieHotReset => true
  | .pcieLinkDown => true
  | .pcieLinkUp _ _ _ => true
  | .pcieConfigRequest _ => true
  | .estopFall => true
  | .estopRise => true
  | .webBreakQualified _ => true
  | .sramInitDone _ => true
  | .verifyFwDone _ => true
  | .configDone _ _ => true
  | .dramTrainDone _ _ _ _ => true
  | .pllLock _ => true
  | .pllSwitchBack _ => true
  | .bypassHold _ => true
  | .pllUnlock _ => true
  | .refLoss _ _ => true
  | .freqMeasure _ _ => true
  | .relock _ _ => true
  | .deviceReset _ _ => true
  | .registerWrite _ _ off _ _ => aligned off
  | .snapshotLoRead _ _ off => aligned off
  | .snapshotHiRead _ _ off => aligned off
  | .commitCancel _ _ => true
  | .commitNow _ _ => true
  | .commitNextLine _ _ => true
  | .commitNextPage _ _ => true
  | .commitAtPosition _ _ => true
  | .commitBadWhen _ _ mode => decide (5 ≤ mode.toNat)
  | .commitTakesEffect page => pageOk p page.toNat
  | .unitLockWrite _ _ => true
  | .follyArm _ _ _ => true
  | .follyDisarm _ _ => true
  | .follyWindowEnd page => pageOk p page.toNat
  | .follyMarkEnd page => pageOk p page.toNat
  | .voteWrite _ _ _ => true
  | .domainQuiesced d => domainOk p d.val
  | .domainSupplyGood d => domainOk p d.val
  | .railTimeout => true
  | .memDropRetry => true
  | .holdRegate d => domainOk p d.val
  | .patrolCycle codes => decide (codes.length ≤ 8)
  | .wakeComparatorTrip _ => true
  | .wakeComparatorReset _ => true
  | .adcConversion _ => true
  | .encoderEdge _ _ _ _ => true
  | .encoderSample _ _ _ => true
  | .indexEdge _ => true
  | .indexMissing _ => true
  | .wireFault _ => true
  | .wireQualified _ => true
  | .standstill => true
  | .standstillEnd => true
  | .reverseEnter => true
  | .reverseExit => true
  | .speedCollapse => true
  | .indexCorrection => true
  | .calibrate _ _ _ => true
  | .calibrationFitEnd _ _ => true
  | .clearDrift _ _ _ => true
  | .loadPosition _ _ => true
  | .sdlResume _ _ => true
  | .alignCheck _ _ => true
  | .releaseHalt _ _ => true
  | .sdlEnable _ => true
  | .sdlDisable _ => true
  | .encEnable _ _ => true
  | .encDisable _ _ => true
  | .hscStart _ _ _ => true
  | .hscStop _ _ _ => true
  | .trgStart _ _ => true
  | .trgStop _ _ => true
  | .scheduleDisable _ _ => true
  | .tileDeadline h => headOk p h.val
  | .sendDeadline h => headOk p h.val
  | .lineHit h => headOk p h.val
  | .triggerHit => true
  | .triggerPulseEnd k => camOk p k.val
  | .tileFragment _ _ _ _ => true
  | .keepalive _ _ _ _ => true
  | .ackInterval _ => true
  | .gapWaitExpiry _ => true
  | .tileEligible _ _ => true
  | .ringDoorbell _ _ _ => true
  | .descriptorRead _ _ _ _ => true
  | .loopPass _ => true
  | .kioskTakeTile k => kioskOk p k.val
  | .kioskBlockEnd k _ => kioskOk p k.val
  | .tileDecoded k _ => kioskOk p k.val
  | .admissionCheck => true
  | .lookaheadCheck => true
  | .applyRibbons _ _ => true
  | .stmStart _ _ _ => true
  | .stmReset _ _ _ => true
  | .ringReset _ _ _ => true
  | .streamResetDone _ => true
  | .stmDisable _ _ => true
  | .vfFlr _ => true
  | .pfFlr => true
  | .dmaTimeout _ => true
  | .kioskWithdraw _ page _ => inKioskTree p page.toNat
  | .kioskReturn _ page _ => inKioskTree p page.toNat
  | .starveLogReadLo _ => true
  | .starveLogReadHi _ => true
  | .trellisHandover h _ _ _ => headOk p h.val
  | .bankSyncDone page => pageOk p page.toNat
  | .trlTblAccess _ _ _ _ => true
  | .trlLoadDefault _ _ _ => true
  | .trlLoadDefaultDone h => headOk p h.val
  | .trlRevert _ _ _ => true
  | .setOut _ _ => true
  | .trainDeferredStart h => headOk p h.val
  | .railSample _ _ => true
  | .stuckStrobeCut h => headOk p h.val
  | .dutyJudge h => headOk p h.val
  | .rearm _ _ => true
  | .onkNak h _ => headOk p h.val
  | .trainReport h _ _ _ _ => headOk p h.val
  | .trainReportTimeout h => headOk p h.val
  | .tempBlock h _ => headOk p h.val
  | .returnTimeout h => headOk p h.val
  | .statusBlock h _ => headOk p h.val
  | .stageAck h _ _ => headOk p h.val
  | .stageAckTimeout h => headOk p h.val
  | .commitAck h _ _ => headOk p h.val
  | .readResp h _ _ data => headOk p h.val && decide (data.length ≤ 512)
  | .readTimeout h => headOk p h.val
  | .laneUp h => headOk p h.val
  | .laneLos h => headOk p h.val
  | .laneLol h => headOk p h.val
  | .onkEnable _ _ => true
  | .onkRead _ _ _ => true
  | .onkFlush _ _ _ => true
  | .headLoop _ _ _ => true
  | .stage _ _ => true
  | .onkAbort _ _ => true
  | .unmaskAlert _ _ => true
  | .mbusXfer _ _ _ _ => true
  | .mbusXferDone m _ data => headOk p (8 * m.val) && decide (data.length ≤ 8)
  | .mbusSclTimeout m _ _ => headOk p (8 * m.val)
  | .mbusRecover _ _ _ => true
  | .hdAlertFall j => headOk p (4 * j.val)
  | .alertRepeat j => headOk p (4 * j.val)
  | .alertStuck j => headOk p (4 * j.val)
  | .camLvalRise k => camOk p k.val
  | .camLvalFall k rise fall _ _ =>
    camOk p k.val && decide (rise.length < 16384) && decide (fall.length < 16384)
  | .camTriggerMissed k => camOk p k.val
  | .fvalRise k => camOk p k.val
  | .fvalFall k => camOk p k.val
  | .frameLinesReached k => camOk p k.val
  | .pclkLoss k rise fall _ _ =>
    camOk p k.val && decide (rise.length < 16384) && decide (fall.length < 16384)
  | .camLineDelivered k _ _ => camOk p k.val
  | .storeHeaderWrite k => camOk p k.val
  | .camEnable _ _ => true
  | .camDisable _ _ => true
  | .camTblAccess _ _ _ => true
  | .camLoadDefault _ _ _ => true
  | .camRevert _ _ _ => true
  | .qlpRowWrite h => headOk p h.val
  | .qlpCompare k _ _ => camOk p k.val
  | .qlpEnable _ => true
  | .qlpModeWrite _ _ => true
  | .proposalRead _ _ => true
  | .usedBinRoll => true
  | .align _ _ => true
  | .alignDone => true
  | .alignTimeout => true
  | .qlpClear _ _ => true
  | .archive _ _ => true
  | .archiveTileVerified => true
  | .archiveDone => true
  | .arcAbort _ _ => true
  | .dramRequest _ _ len write _ _ => lengthOk len write
  | .refreshDue _ _ => true
  | .scrubRead _ _ => true
  | .trainingSlice _ _ _ => true
  | .forcedSweepTrigger _ => true
  | .panicLong _ => true
  | .hostWindowAccess _ _ len write _ _ => lengthOk len write
  | .hostFenceRead _ => true
  | .copy _ _ => true
  | .copyDone _ => true
  | .copyCancel _ _ _ => true
  | .retrain _ _ _ => true
  | .clearErrs _ _ _ => true
  | .channelEnable _ _ _ => true
  | .channelTrainDone _ _ _ => true
  | .pathCheck => true
  | .pathLoss _ => true
  | .autoReturn => true
  | .overlapEnd => true
  | .returnWaitReset => true
  | .switch _ _ => true
  | .vniReset _ _ => true
  | .netFrameRx _ _ => true
  | .vniTxDoorbell _ _ => true
  | .vniTxDone _ _ _ _ _ => true
  | .netPortEnable _ _ => true
  | .portLinkUp _ => true
  | .portLinkDown _ _ => true
  | .wakeFrameMatch _ => true
  | .msixMessage _ => true
  | .tbWrap _ => true
  | .tbStep _ _ _ => true
  | .tbSet _ _ _ => true
  | .pcieRecovery => true
  | .move _ _ _ => true
  | .runTable _ _ _ => true
  | .axisStop _ _ _ => true
  | .home _ _ _ => true
  | .servo _ _ _ => true
  | .setPosition _ _ _ => true
  | .clearFault _ _ _ _ => true
  | .axisLoadDefault _ _ _ => true
  | .moveEnd a => axisOk p a.val
  | .servoPeriod a => axisOk p a.val
  | .homeSwitchActive a => axisOk p a.val
  | .homeSwitchRelease a => axisOk p a.val
  | .homeRangeExceeded a => axisOk p a.val
  | .limitSwitch a _ _ => axisOk p a.val
  | .stall a => axisOk p a.val
  | .bridgeTrip a => axisOk p a.val
  | .retractDone a => axisOk p a.val
  | .holdCurrent a => axisOk p a.val
  | .axisEnable _ _ => true
  | .axisDisable _ _ => true
  | .mechClockChange => true
  | .fountainSample => true
  | .fountainSensorFault => true
  | .fountainSat => true
  | .fountainDeviation => true
  | .fntEnable _ => true
  | .fntResume _ _ => true
  | .wrdKick _ _ => true
  | .heartbeatMiss => true
  | .lockstepDivergence => true
  | .tcmUe => true
  | .release _ _ => true
  | .assertFault _ _ => true
  | .checkerDisagree page => pageOk p page.toNat
  | .paritySweep page off _ => pageOk p page.toNat && aligned off
  | .sliceStart => true
  | .sliceEnd _ _ => true
  | .bistLate => true
  | .kioskParityError k => kioskOk p k.val
  | .sliceNow _ _ => true
  | .retire _ _ => true
  | .gbkWrite _ _ => true
  | .gbkReadSeqWrite _ _ => true
  | .gbkWindowSelect _ _ => true
  | .gkpWfiHalt => true
  | .tcmCorrectedError => true
  | .fshRead _ _ => true
  | .fshProgram _ _ _ => true
  | .fshErase _ _ _ => true
  | .fshVerify _ _ => true
  | .flashStepDone => true
  | .flashStepTimeout => true
  | .flashFetch _ n => decide (n ≠ 0)
  | .flashReadDone => true
  | .update _ _ => true
  | .updateTimeout => true
  | .actSwap _ => true
  | .actTakenOver _ => true
  | .actFallback _ _ => true
  | .actCfgResult _ _ => true
  | .cfgApply _ _ => true
  | .cfgRevert _ _ => true
  | .loadKey _ _ => true
  | .clearKey _ _ => true
  | .challenge _ _ => true
  | .unlock _ _ => true
  | .zeroizeDone => true
  | .nonceExpiry => true
  | .unlockLockoutEnd => true
  | .gthWithdraw _ _ => true
  | .raiseSvn _ _ => true
  | .pclkDetected k => camOk p k.val
  | .onkRxBlock h _ _ => headOk p h.val

end Sys2Proof
end

