-- ==== Sys2Proof/Certificates/Slice0/Obligations.lean ====
section
/-! DEFINITION. The statements for the provers, in the order of the spec's chapters. -/

open Sys2Proof Sys2Proof.Machine

/-- For every state whose queue has command c at its front, a step is exec of c on the state with the
queue's rest. -/
def Obligations.StepRunsFront : Prop :=
  ∀ (s : State) (c : Instr) (rest : List Instr), s.pending = c :: rest →
    step s = exec c { s with pending := rest }

/-- No command and no report ends in a fault or a refusal: exec answers a next state in every state,
with every operand; the part and the queue of waiting commands are as before, and a good state
(both memories canonical, at most 64 Guestbook entries waiting, R383) stays good. -/
def Obligations.EveryCommandAnswers : Prop :=
  ∀ (c : Instr) (s : State), ∃ t, exec c s = .next t ∧
    t.part = s.part ∧ t.pending = s.pending ∧ (s.Ok → t.Ok)

/-- From every good state, reachable or not, a step (a command, or the tick on an empty queue, log 1)
that answers a next state answers a good one: DRAM, SRAM and flash in their one canonical form,
and the Guestbook's writer holding at most its 64 entries (R383). -/
def Obligations.StepKeepsGoodState : Prop :=
  ∀ s t : State, s.Ok → step s = .next t → t.Ok

/-- The state after reset has both memories in canonical form and at most 64 entries waiting for the
Guestbook's writer, and no command waits in its queue of commands. -/
def Obligations.ResetIsGood : Prop :=
  State.reset.Ok ∧ State.reset.pending = []

/-- For a page that is absent on the part or that no unit uses: every command of the table that is a
write to that page, a command, a commit, a lock and an arm among them, leaves every register,
event, memory byte and queue as it was; every reading row answers 0 and does nothing else. (An
access by the Groundskeeper, here as everywhere, shows that its cores are not halted:
State.active, R80.) -/
def Obligations.AbsentPage : Prop :=
  ∀ (s : State) (r : Req) (page : Nat), s.has page = false →
    (∀ c off, writesOf c = some (r, page, off) → exec c s = .next (s.fresh.active r)) ∧
    (∀ c, readsOf c = some (r, page) → exec c s = .next ((s.fresh.active r).emit (.readData r 0)))

/-- While a requester is not served (the host before GKP_START, the Groundskeeper while its cores do
not run), every command of the table that is a write of a register leaves the state as it was, and
every reading row answers 0 and does nothing else. While the domain of a present page stands at
level 0, every command of the table that is a write to it is dropped: LOCK_VIOL is set on PWR,
REG_ALERT is raised, and no other register, no memory byte and no other state changes. At SYS
level 2 with room in the writer's queue the entry of that REG_ALERT stands in it, its detail the
page, the offset, the requester, no refuse code and 2 for a dropped write. Every reading row
answers 0 and does nothing else. (A domain that has not risen whole counts as at level 0: the
model's choice, log 106.) -/
def Obligations.UnreachedPages : Prop :=
  (∀ (s : State) (r : Req), s.served r = false →
    (∀ c page off, writesOf c = some (r, page, off) → exec c s = .next s.fresh) ∧
    (∀ c page, readsOf c = some (r, page) → exec c s = .next (s.fresh.emit (.readData r 0)))) ∧
  (∀ (s : State) (r : Req) (page : Nat), s.served r = true → s.has page = true →
    (s.active r).pageLevel page = 0 →
    (∀ c off, writesOf c = some (r, page, off) →
      ∃ t, exec c s = .next t ∧ t.bit pgPWR UNIT_STATUS_LOCK_VIOL = true ∧ t.Raised pgGKP 0 ∧
        ((s.active r).levelOf .sys = 2 → s.gbk.queue.length < 64 →
          ∃ e ∈ t.gbk.queue, e.event = 512 ∧ e.page = BitVec.ofNat 16 pgGKP ∧
            e.detail = BitVec.ofNat 64 (page + off * 2 ^ 12 + reqNum r * 2 ^ 24 + 2 * 2 ^ 40)) ∧
        s.SameMem t ∧
        s.SameRegs t (fun p o => (p = pgPWR ∧ o = 0x010) ∨ evWords pgGKP p o) ∧
        { t with regs := s.regs, gbk := s.gbk, pcie := s.pcie, follies := s.follies } =
          s.fresh.active r) ∧
    (∀ c, readsOf c = some (r, page) → exec c s = .next ((s.fresh.active r).emit (.readData r 0))))

/-- For every command of the table that is written to UNIT_CMD and reaches its page: while a command
executes there it is refused with BUSY; else, on a disabled unit and if not permitted while
disabled, with DISABLED; else, where its argument is given as 0, any other argument with BAD_ARG.
A refusal sets CMD_REFUSED, writes command code, state code at judgement and refuse code to the
requester's own UNIT_CMD_RESULT, and raises REG_ALERT; no other result of either requester, no
other register word, no active copy, no byte of memory and no other state changes. -/
def Obligations.Refusals : Prop :=
  (∀ (s : State) (c : Instr) (k : Cmd), cmdOf c = some k → s.open k.r k.page = true →
    (s.bit k.page UNIT_STATUS_CMD_BUSY = true →
      exec c s = .next ((s.reached k.r k.page).refuse k.r k.page 0x01C k.code rcBUSY)) ∧
    (s.bit k.page UNIT_STATUS_CMD_BUSY = false → k.whenOff = false → s.enabled k.page = false →
      exec c s = .next ((s.reached k.r k.page).refuse k.r k.page 0x01C k.code rcDISABLED)) ∧
    (s.bit k.page UNIT_STATUS_CMD_BUSY = false → k.whenOff = true ∨ s.enabled k.page = true →
      k.zeroArg = true → k.arg ≠ 0 →
      exec c s = .next ((s.reached k.r k.page).refuse k.r k.page 0x01C k.code rcBAD_ARG))) ∧
  (∀ (s : State) (r : Req) (page off code n : Nat),
    let t := s.refuse r page off code n
    t.bit page UNIT_STATUS_CMD_REFUSED = true ∧
    t.cmdResult r page = BitVec.ofNat 32 (code + s.stateCode page * 2 ^ 16 + n * 2 ^ 24) ∧
    (∀ r' q, r' ≠ r ∨ q ≠ page → t.cmdResult r' q = s.cmdResult r' q) ∧
    t.Raised pgGKP 0 ∧ s.SameMem t ∧
    s.SameRegs t (fun p o => (p = page ∧ o = 0x010) ∨ evWords pgGKP p o) ∧
    { t with regs := s.regs, gbk := s.gbk, pcie := s.pcie, follies := s.follies,
             host := s.host, gkpSide := s.gkpSide } = s)

/-- While the page's domain is isolated and its event lines are clamped (PRINT, CAM, MECH), raising an
event does nothing. Else raising an event that the page has sets its bit in UNIT_EVENT. At SYS
level 2 with room in the writer's queue its entry is queued behind those that wait, but before
entries of its own cycle with larger event numbers (insEntry), with the event's number, the page
and UNIT_STATUS as detail; below level 2 the entry waits with the late ones. No other register
word than the page's events and the Guestbook's own, no byte of memory, and nothing but the
Guestbook, the interrupts due and the follies' marks changes; nothing leaves the part but, for a
stream's page, the message of its own function (R328). -/
def Obligations.RaiseEffects : Prop :=
  ∀ (s : State) (page bit n : Nat), evNum s.part page bit = some n →
    let t := s.raise page bit
    (s.clamped page = true → t = s) ∧
    (s.clamped page = false → t.Raised page bit ∧
    (s.levelOf .sys = 2 → s.gbk.queue.length < 64 →
      ∃ e : GbkEntry, t.gbk.queue = insEntry e s.gbk.queue ∧ t.gbk.late = s.gbk.late ∧
        e.event = BitVec.ofNat 16 n ∧ e.page = BitVec.ofNat 16 page ∧
        e.detail = BitVec.ofNat 64 (s.statusWord page).toNat) ∧
    (s.levelOf .sys ≠ 2 → t.gbk.queue = s.gbk.queue ∧ t.gbk.late.length = s.gbk.late.length + 1)) ∧
    ((∀ i, s.unit page ≠ some (.stm, i)) → t.emitted = s.emitted) ∧
    s.SameMem t ∧ s.SameRegs t (evWords page) ∧
    { t with regs := s.regs, gbk := s.gbk, pcie := s.pcie, follies := s.follies,
             emitted := s.emitted } = s

/-- A register write that reaches its page without all four byte enables of its word is dropped:
LOCK_VIOL and REG_ALERT, and no other word, memory byte or state changes. A full write of
UNIT_EVENT that reaches its page (behind nothing that the page's fabric holds) clears exactly the
bits written 1; one to a pavilion clears bit 0 in each present kiosk beneath it. One of
UNIT_EVENT_EN stores the word, one to a pavilion in each present kiosk beneath it too, and may
only add messages due; one of a pavilion's WK_HORIZON stores it in the page and in each of those
kiosks. No other register word, no active copy, no memory byte and no other state changes. (An
offset within a word is rounded down to its word: the model's choice, log 9.) A write of 1 to
UNIT_LOCK on an unlocked page sets LOCK and records the requester in OWNER; on a locked page it is
dropped and the owner stands. No other word, memory byte or state changes. -/
def Obligations.HeaderWrites : Prop :=
  (∀ (s : State) (r : Req) (page off : BitVec 12) (be : BitVec 4) (v : Word),
    s.open r page.toNat = true → be ≠ 0xF →
    ∃ t, exec (.registerWrite r page off be v) s = .next t ∧ s.Dropped t r page.toNat) ∧
  (∀ (s : State) (r : Req) (page off : BitVec 12) (v : Word), s.open r page.toNat = true →
    s.flows page.toNat = true →
    (off.toNat / 4 * 4 = 0x014 → s.kind page.toNat = some .pav →
      ∃ t, exec (.registerWrite r page off 0xF v) s = .next t ∧ s.SameMem t ∧
        (∀ k ∈ s.beneath (page.toNat - 0x080),
          t.word (pgKSK k) 0x014 = s.word (pgKSK k) 0x014 &&& ~~~(v &&& 1)) ∧
        s.SameRegs t (fun p o => o = 0x014 ∧ ∃ k ∈ s.beneath (page.toNat - 0x080), p = pgKSK k) ∧
        { t with regs := s.regs } = s.reached r page.toNat) ∧
    (off.toNat / 4 * 4 = 0x014 → s.kind page.toNat ≠ some .pav →
      ∃ t, exec (.registerWrite r page off 0xF v) s = .next t ∧
        t.word page.toNat 0x014 = s.word page.toNat 0x014 &&& ~~~v ∧ s.SameMem t ∧
        s.SameRegs t (fun p o => p = page.toNat ∧ o = 0x014) ∧
        { t with regs := s.regs } = s.reached r page.toNat) ∧
    (off.toNat / 4 * 4 = 0x018 →
      ∃ t, exec (.registerWrite r page off 0xF v) s = .next t ∧
        t.word page.toNat 0x018 = v ∧ (∀ n ∈ s.pcie.due, n ∈ t.pcie.due) ∧ s.SameMem t ∧
        (s.kind page.toNat = some .pav → ∀ k ∈ s.beneath (page.toNat - 0x080),
          t.word (pgKSK k) 0x018 = v) ∧
        s.SameRegs t (fun p o => o = 0x018 ∧ (p = page.toNat ∨
          s.kind page.toNat = some .pav ∧ ∃ k ∈ s.beneath (page.toNat - 0x080), p = pgKSK k)) ∧
        { t with regs := s.regs, pcie := s.pcie, emitted := [] } = s.reached r page.toNat) ∧
    (off.toNat / 4 * 4 = 0x060 → s.kind page.toNat = some .pav →
      ∃ t, exec (.registerWrite r page off 0xF v) s = .next t ∧ t.word page.toNat 0x060 = v ∧
        (∀ k ∈ s.beneath (page.toNat - 0x080), t.word (pgKSK k) 0x060 = v) ∧ s.SameMem t ∧
        s.SameRegs t (fun p o => o = 0x060 ∧ (p = page.toNat ∨
          ∃ k ∈ s.beneath (page.toNat - 0x080), p = pgKSK k)) ∧
        { t with regs := s.regs } = s.reached r page.toNat)) ∧
  (∀ (s : State) (r : Req) (page : BitVec 12), s.open r page.toNat = true →
    s.flows page.toNat = true →
    (s.locked page.toNat = false →
      ∃ t, exec (.unitLockWrite r page) s = .next t ∧ t.locked page.toNat = true ∧
        t.rd page.toNat UNIT_LOCK_OWNER = reqNum r ∧ s.SameMem t ∧
        s.SameRegs t (fun p o => p = page.toNat ∧ o = 0x02C) ∧
        { t with regs := s.regs } = s.reached r page.toNat) ∧
    (s.locked page.toNat = true →
      ∃ t, exec (.unitLockWrite r page) s = .next t ∧ s.Dropped t r page.toNat ∧
        t.rd page.toNat UNIT_LOCK_OWNER = s.rd page.toNat UNIT_LOCK_OWNER))

/-- A full write of a block word that sets nothing else off: without a writable field it changes
nothing; with every writable field locked, spent or held, or a unit that drops it whole (frozen),
it is dropped; else the free fields take the value and the others keep theirs, LOCK_VIOL and
REG_ALERT show it exactly if a held field would change, and no other word, memory byte or state
changes. A write of a table window's index while its bank is copied waits in the page's fabric and
changes no word, active copy or memory byte. (That a word whose write would change a field held
from ENABLE on is dropped whole is the model's choice, log 11, and so are REG_ALERT at each
dropped write, log 10, and the order in the fabric, log 105.) -/
def Obligations.FieldWrites : Prop :=
  ∀ (s : State) (r : Req) (page off : BitVec 12) (v : Word) (kd : Kind) (u : Nat),
    s.open r page.toNat = true → s.unit page.toNat = some (kd, u) →
    0x040 ≤ off.toNat → off.toNat % 4 = 0 → quietWord kd off.toNat = true →
    absentHead s.part kd off.toNat = false → (gkpOnly kd off.toNat = true → r = .gkp) →
    s.flows page.toNat = true →
    let p := page.toNat
    let o := off.toNat
    let rows := (fieldsAt kd o).filter (fun x => !x.fixed)
    let held := rows.filter (s.fieldHeld p o)
    let free := rows.filter (fun x => !s.fieldHeld p o x)
    let old := s.word p o
    let new := applyRows free v old
    (s.indexHeld p o = true →
      ∃ t, exec (.registerWrite r page off 0xF v) s = .next t ∧ s.SameMem t ∧
        s.SameRegs t (fun _ _ => False)) ∧
    (s.indexHeld p o = false →
    (rows = [] → exec (.registerWrite r page off 0xF v) s = .next (s.reached r p)) ∧
    (rows ≠ [] → free = [] ∨ s.frozen kd p o old new = true →
      ∃ t, exec (.registerWrite r page off 0xF v) s = .next t ∧ s.Dropped t r p) ∧
    (free ≠ [] → s.frozen kd p o old new = false →
      ∃ t, exec (.registerWrite r page off 0xF v) s = .next t ∧ t.word p o = new ∧ s.SameMem t ∧
        ((∃ x ∈ held, x.changes v old = true) →
          t.bit p UNIT_STATUS_LOCK_VIOL = true ∧ t.Raised pgGKP 0 ∧
          s.SameRegs t (fun q x => (q = p ∧ (x = o ∨ x = 0x010)) ∨ evWords pgGKP q x) ∧
          { t with regs := s.regs, gbk := s.gbk, pcie := s.pcie, follies := s.follies } =
            s.reached r p) ∧
        ((∀ x ∈ held, x.changes v old = false) →
          s.SameRegs t (fun q x => q = p ∧ x = o) ∧ { t with regs := s.regs } = s.reached r p)))

/-- A read of the _LO word of a live result (outside the starvation log and the proposal queues, which
move on) answers it and puts the _HI word into the requester's slot of that page in place of what
it held. A read of the _HI word answers from the slot and empties it, or, where the slot does not
hold it, answers the live value and sets the requester's SNAP_STALE. No slot of the other
requester or of another page, no register, no memory byte and no other state changes. -/
def Obligations.SnapshotReads : Prop :=
  ∀ (s : State) (r : Req) (page off : BitVec 12), s.open r page.toNat = true →
    let p := page.toNat
    let o := off.toNat / 4 * 4
    let w := s.readWord r p o
    (s.isLive p o false = true → s.kind p ≠ some .ing → (s.kind p = some .qlp → o = 0x080) →
      ∃ t, exec (.snapshotLoRead r page off) s = .next t ∧ t.emitted = [.readData r w] ∧
        t.snapSlot r p = [(o + 4, s.readWord r p (o + 4))] ∧
        (∀ r' q, r' ≠ r ∨ q ≠ p → t.snapSlot r' q = s.snapSlot r' q) ∧ s.SameMem t ∧
        { t with emitted := [], host := s.host, gkpSide := s.gkpSide } = s.reached r p) ∧
    (s.isLive p o true = true →
      ∃ t, exec (.snapshotHiRead r page off) s = .next t ∧
        (∀ x, (s.snapSlot r p).lookup o = some x → t.emitted = [.readData r x] ∧
          (t.snapSlot r p).lookup o = none ∧ t.snapStale r p = s.snapStale r p) ∧
        ((s.snapSlot r p).lookup o = none → t.emitted = [.readData r w] ∧
          t.snapSlot r p = s.snapSlot r p ∧ t.snapStale r p = true) ∧
        (∀ r' q, r' ≠ r ∨ q ≠ p → t.snapSlot r' q = s.snapSlot r' q ∧
          t.snapStale r' q = s.snapStale r' q) ∧ s.SameMem t ∧
        { t with emitted := [], host := s.host, gkpSide := s.gkpSide } = s.reached r p)

/-- A write to an _LO or _HI word of a live result, by either requester and whatever it carries,
changes no snapshot slot. -/
def Obligations.LiveWriteKeepsSlots : Prop :=
  ∀ (s : State) (r : Req) (page off : BitVec 12) (be : BitVec 4) (v : Word),
    s.isLive page.toNat (off.toNat / 4 * 4) false = true ∨
      s.isLive page.toNat (off.toNat / 4 * 4) true = true →
    ∃ t, exec (.registerWrite r page off be v) s = .next t ∧
      ∀ r' q, t.snapSlot r' q = s.snapSlot r' q

/-- On a page without a pending commit (and no copy into its shadow bank): WHEN = 1 arms a commit for
at once; on a page that serves no head, 2 and 3 arm one from the high-water mark on, and 4 one
from there on at the position in UNIT_COMMIT_POS if that lies ahead; on a head page, 2 to 4 arm
one for the line that R48 selects. The commit is the page's pending one, WHEN shows it, and no
other word, active copy, memory byte or state changes. -/
def Obligations.CommitsArm : Prop :=
  ∀ (s : State) (r : Req) (page : BitVec 12), s.open r page.toNat = true →
    s.copyHolds page.toNat = false → s.flows page.toNat = true → s.commitOf page.toNat = none →
    let p := page.toNat
    let pos := s.commitPos p
    let arms := fun (c : Instr) (x : Commit) =>
      ∃ t, exec c s = .next t ∧ t.commitOf p = some x ∧ t.rd p UNIT_COMMIT_WHEN = x.mode ∧
        (∀ q, q ≠ p → t.commitOf q = s.commitOf q) ∧ s.SameMem t ∧
        s.SameRegs t (fun q o => q = p ∧ o = 0x024) ∧
        { t with regs := s.regs, commits := s.commits } = s.reached r p
    arms (.commitNow r page) ⟨1, none, none, none, false, false, r⟩ ∧
    (headOfPage s.part p = none →
      arms (.commitNextLine r page) ⟨2, none, none, some s.hwm, false, false, r⟩ ∧
      arms (.commitNextPage r page) ⟨3, none, none, some s.hwm, false, false, r⟩ ∧
      (ahead pos s.pos = true →
        arms (.commitAtPosition r page) ⟨4, none, some pos, some s.hwm, false, false, r⟩)) ∧
    (∀ h n, headOfPage s.part p = some h →
      (s.selectLine h 2 pos = .inl n → arms (.commitNextLine r page) ⟨2, some n, none, none, false, false, r⟩) ∧
      (s.selectLine h 3 pos = .inl n → arms (.commitNextPage r page) ⟨3, some n, none, none, false, false, r⟩) ∧
      (s.selectLine h 4 pos = .inl n →
        arms (.commitAtPosition r page) ⟨4, some n, some pos, none, false, false, r⟩))

/-- On a page without a pending commit: WHEN of 5 to 15 is rejected with BAD_WHEN; WHEN = 4 on a page
that serves no head, at a position that is not ahead, with LATE; on a head page, WHEN of 2 to 4
with the code that the selection of its line gives (LATE, NO_SCHEDULE). A rejection leaves active
fields and shadow. While a commit is pending on a page, every write of a nonzero WHEN is dropped
and leaves it in place; a write of 0 cancels it (outside the encoders' pages, where a fit may
follow, and of ALIGN's own commit): none is pending, WHEN reads 0, shadow and active copies stand,
and no other word, memory byte or state changes. -/
def Obligations.CommitsEndUnapplied : Prop :=
  (∀ (s : State) (r : Req) (page : BitVec 12) (mode : BitVec 4), s.open r page.toNat = true →
    s.copyHolds page.toNat = false → s.flows page.toNat = true → s.commitOf page.toNat = none →
    let p := page.toNat
    let pos := s.commitPos p
    let rejects := fun (c : Instr) (err : Nat) => ∃ t, exec c s = .next t ∧ s.Rejected t p err
    (5 ≤ mode.toNat → rejects (.commitBadWhen r page mode) 2) ∧
    (headOfPage s.part p = none → ahead pos s.pos = false →
      rejects (.commitAtPosition r page) 3) ∧
    (∀ h, headOfPage s.part p = some h → (s.hscOf h).running = false →
      rejects (.commitNextLine r page) 4 ∧ rejects (.commitNextPage r page) 4 ∧
      rejects (.commitAtPosition r page) 4) ∧
    (∀ h, headOfPage s.part p = some h → s.selectLine h 4 pos = .inr 3 →
      rejects (.commitAtPosition r page) 3)) ∧
  (∀ (s : State) (r : Req) (page : BitVec 12) (mode : BitVec 4) (c : Commit),
    s.open r page.toNat = true → s.copyHolds page.toNat = false → s.flows page.toNat = true →
    s.commitOf page.toNat = some c →
    let p := page.toNat
    (∀ i ∈ [Instr.commitNow r page, .commitNextLine r page, .commitNextPage r page,
        .commitAtPosition r page],
      ∃ t, exec i s = .next t ∧ s.Dropped t r p ∧ t.commitOf p = some c) ∧
    (mode ≠ 0 → ∃ t, exec (.commitBadWhen r page mode) s = .next t ∧ s.Dropped t r p ∧
      t.commitOf p = some c) ∧
    (encOfPage p = none → (p = pgQLP → c.own = false) →
      ∃ t, exec (.commitCancel r page) s = .next t ∧ t.commitOf p = none ∧
        t.rd p UNIT_COMMIT_WHEN = 0 ∧ (∀ q, q ≠ p → t.commitOf q = s.commitOf q) ∧ s.SameMem t ∧
        s.SameRegs t (fun q o => q = p ∧ o = 0x024) ∧
        { t with regs := s.regs, commits := s.commits } = s.reached r p))

/-- A pending commit has reached its moment in mode 1 at once; in modes 2 to 4 on a page that serves
no head, in forward travel at level 2, where State.commitDue holds (the mark has passed a line or
page boundary, or the position, since the arming, or had done so before the marks moved); in modes
2 to 4 on a head page at the line that it selected. Then, where every pair of the shadow holds,
each shadowed word becomes active in one step, the commit is no longer pending, DONE is set and
COUNT grows by one, and the unit takes its new values up (a fit's result, a source, a reference
head, a geometry from its line on, a swap of table banks, a generation of the quality loop, a plan
of the Fountain: State.Committed says it kind by kind; a unit without such an effect changes
nothing else); where a pair fails, the commit is rejected with PAIR_MISMATCH and that pair's
number. At a line before its own a head page's commit stays. The active copies of other pages and
every memory byte stand. An index correction that falls on the same boundary is taken first
(R103), so that all this is said of the state after it; without one the state is as it was, but
for the reference channel's place. (An enabled camera takes its commits at its frame starts: see
the camera's rows. A swap that finds the last copy still under way: the model's choice, log 51.) -/
def Obligations.CommitEffect : Prop :=
  ∀ (s : State) (page : BitVec 12) (c : Commit) (kd : Kind) (i : Nat),
    s.unit page.toNat = some (kd, i) →
    let p := page.toNat
    let w := s.fresh.correct
    let u := w.refAdvance
    let whole := fun (x t : State) =>
      (x.badPair p = 0 → x.Committed t kd i p c) ∧
      (x.badPair p ≠ 0 → (kd = .enc → c.own = false ∧ (x.encOf (encNum i)).cal = .idle) →
        (kd = .qlp → c.own = false) →
        x.Rejected t p 1 ∧ t.rd p UNIT_COMMIT_STAT_PAIR = x.badPair p)
    (s.corrDue = false → u = s.fresh.refAdvance) ∧
    (w.commitOf p = some c → w.pageLevel p ≠ 0 → (kd = .cam → s.camOn i = false) →
      (c.mode = 1 ∧ c.mark = none ∨ headOfPage s.part p = none ∧ w.pageLevel p = 2 ∧
        w.forward = true ∧ w.commitDue c = true) →
      ∃ t, exec (.commitTakesEffect page) s = .next t ∧ s.SameMem t ∧ whole u t) ∧
    (∀ m n, s.commitOf p = some c → c.line = some m →
      (n < m → s.commitAtLine p n = s) ∧ (m ≤ n → whole s (s.commitAtLine p n)))

/-- An arm with the key, where no cause of R379 holds, arms the folly that UNIT_INJECT names with its
parameter, and counts as an accepted command of code 0xFFFF (R39); with another key the write is
dropped. DISARM leaves no folly armed on the page. A window's end counts one injection of the
armed folly, and its SHOTS, where nonzero, falls by one; the end of a marked time removes the
page's follies that are not armed. No byte of memory changes. -/
def Obligations.FollyArming : Prop :=
  ∀ (s : State) (r : Req) (page : BitVec 12) (key : BitVec 16),
    let p := page.toNat
    (s.open r p = true → s.flows p = true → key = 0xF011 → s.armCause p = 0 →
      ∃ t f, exec (.follyArm r page key) s = .next t ∧ t.armedFolly p = some f ∧
        f.num = s.rd p UNIT_INJECT_FOLLY ∧ f.param = s.rd p UNIT_INJECT_PARAM ∧ s.SameMem t ∧
        (s.kind p ≠ some .net → s.kind p ≠ some .onk →
          s.SameRegs t (fun _ _ => False) ∧
          { t with follies := s.follies } = s.taken r p 0xFFFF)) ∧
    (s.open r p = true → s.flows p = true → key ≠ 0xF011 →
      ∃ t, exec (.follyArm r page key) s = .next t ∧ s.Dropped t r p) ∧
    (s.open r p = true → s.flows p = true →
      ∃ t, exec (.follyDisarm r page) s = .next t ∧ t.armedFolly p = none ∧ s.SameMem t ∧
        s.SameRegs t (fun _ _ => False) ∧
        { t with follies := s.follies, fir := s.fir } = s.reached r p) ∧
    (∀ f, s.armedFolly p = some f → f.window = true →
      ∃ t, exec (.follyWindowEnd page) s = .next t ∧ s.SameMem t ∧
        (s.rd p UNIT_INJECT_SHOTS = 0 → t.armedFolly p = some { f with lastInj := some s.now }) ∧
        (s.rd p UNIT_INJECT_SHOTS ≠ 0 →
          t.rd p UNIT_INJECT_SHOTS = s.rd p UNIT_INJECT_SHOTS - 1 ∧
          (s.rd p UNIT_INJECT_SHOTS = 1 → t.armedFolly p = none)) ∧
        s.SameRegs t (fun q o => q = p ∧ o = 0x030) ∧
        { t with follies := s.follies, regs := s.regs } = s.fresh) ∧
    (∃ t, exec (.follyMarkEnd page) s = .next t ∧ s.SameMem t ∧
      (∀ e, e ∈ t.follies ↔ e ∈ s.follies ∧ (e.1 ≠ p ∨ e.2.armed = true)) ∧
      s.SameRegs t (fun _ _ => False) ∧ { t with follies := s.follies } = s.fresh)

/-- An arm that reaches its page while the Gatehouse forbids injection counts as a refused command
with code 0xFFFF and refuse code NOT_PERMITTED. -/
def Obligations.ArmForbidden : Prop :=
  ∀ (s : State) (r : Req) (page : BitVec 12), s.open r page.toNat = true →
    s.flows page.toNat = true → s.bit pgGTH GTH_PERMIT_INJECT = false →
    ∃ t, exec (.follyArm r page 0xF011) s = .next t ∧
      t = (s.reached r page.toNat).refuse r page.toNat 0x034 0xFFFF rcNOT_PERMITTED ∧
      t.cmdResult r page.toNat =
        BitVec.ofNat 32 (0xFFFF + (s.reached r page.toNat).stateCode page.toNat * 2 ^ 16 + rcNOT_PERMITTED * 2 ^ 24) ∧
      t.bit page.toNat UNIT_STATUS_CMD_REFUSED = true ∧ t.follies.length ≤ s.follies.length

/-- RESET_IN# low, DEVICE_RESET with its key, and a board rail that had been good and leaves its range
while RAIL_EN_MAIN is high leave a DEVICE-level reset pending with the cause in TOP_RESET_CAUSE; a
rail lost with RAIL_EN_MAIN low is only noted, but the memory supply takes the contents of DRAM
with it. RESET_IN# rising lets start-up go on to CLOCKS where it stands at RAILS, the supplies are
good and no reset is pending; of the registers start-up then touches those of TOP, CLK and the
warden alone. No other byte of memory and no other register changes. (That the row brings the
qualified level, which State keeps: the model's reading, logs 18 and 67.) When a pending
DEVICE-level reset takes hold, the Guestbook's region keeps its bytes and all other memory reads
as unwritten memory does (log 6), the flash keeps its bytes where no step runs, FLOOR stays, no
commit and no folly is left, neither requester holds a result or a slot, the warden's restart
history is empty and the Groundskeeper is in reset, and the sequence, read and loss counters of
the Guestbook and TOP_RESET_CAUSE are kept; start-up is at CLOCKS if every rail is good and
RESET_IN# is high, else at RAILS. (That start-up begins anew once hold, trigger and rails allow
it, and that the balls keep the levels the board drives: the model's reading, logs 16 and 18; a
flash step that the reset breaks off leaves free bytes, log 81.) A POR, as VBUS rises or as it
falls and leaves the part off, leaves the flash (where no step runs), the fused FLOOR, the count
of fused repairs and the levels of the balls; every other register word is at its reset value,
memory reads as unwritten memory does (log 6), the Guestbook's queue is empty, no commit, no
listed repair and no folly is left, and start-up is at RAILS. (The levels kept, that VBUS_POR is
one event, and that the repair list is read later, at SRAM_INIT: the model's reading, logs 16 and
94.) -/
def Obligations.DeviceResets : Prop :=
  (∀ (s : State),
    (∃ t, exec (.resetIn true) s = .next t ∧ t.aon.rstPending = true ∧ t.aon.resetLow = true ∧
      t.bit pgTOP TOP_RESET_CAUSE_RESET_IN = true ∧ s.SameMem t ∧
      s.SameRegs t (fun p o => p = pgTOP ∧ o = 0x084) ∧
      { t with regs := s.regs, aon := s.aon } = s.fresh) ∧
    (s.stage ≠ 0 ∨ s.aon.rstPending = true →
      ∃ t, exec (.resetIn false) s = .next t ∧ t.aon.resetLow = false ∧
        { t with aon := s.aon } = s.fresh) ∧
    (s.stage = 0 → s.aon.vbus = true → s.railsGood = true → s.aon.rstPending = false →
      ∃ t, exec (.resetIn false) s = .next t ∧ t.aon.resetLow = false ∧ t.stage = 1 ∧
        s.SameMem t ∧ s.SameRegs t (fun p _ => p = pgTOP ∨ p = pgCLK ∨ p = pgWRD)) ∧
    (∀ r, s.TakesOff r pgTOP →
      ∃ t, exec (.deviceReset r 0xD0A5) s = .next t ∧ t.aon.rstPending = true ∧
        t.bit pgTOP TOP_RESET_CAUSE_CMD = true ∧ s.SameMem t ∧
        s.SameRegs t (fun p o => p = pgTOP ∧ o = 0x084) ∧
        { t with regs := s.regs, aon := s.aon } = s.taken r pgTOP 1) ∧
    (∀ rail, s.aon.rails.get (railNum rail) = false →
      exec (.railLoss rail) s = .next s.fresh) ∧
    (∀ rail, s.aon.rails.get (railNum rail) = true →
      ∃ t, exec (.railLoss rail) s = .next t ∧ t.aon.rails.get (railNum rail) = false ∧
      t.aon.rstPending = (s.aon.rstPending || s.aon.railEn) ∧
      (s.aon.railEn = true → t.bit pgTOP TOP_RESET_CAUSE_RAIL_LOSS = true) ∧
      (s.aon.railEn = true ∨ rail ≠ .vddqDram →
        s.SameMem t ∧ { t with regs := s.regs, aon := s.aon } = s.fresh) ∧
      (s.aon.railEn = false → rail = .vddqDram →
        ∀ a, t.byte a = if sramBase ≤ a then s.byte a else 0) ∧
      s.SameRegs t (fun p o => s.aon.railEn = true ∧ p = pgTOP ∧ o = 0x084))) ∧
  ((∀ (s : State), s.aon.rstPending = true →
    ∃ t, exec .deviceResetHold s = .next t ∧ t.part = s.part ∧ t.aon.rstPending = false ∧
      (∀ a, t.byte a = if inGuestbook a then s.byte a else 0) ∧
      (s.fsh.op = none → ∀ a, t.fbyte a = s.fbyte a) ∧ t.svnFloor = s.svnFloor ∧
      t.commits = [] ∧ t.follies = [] ∧ t.host.results = [] ∧ t.gkpSide.results = [] ∧
      t.host.slots = [] ∧ t.gkpSide.slots = [] ∧ t.wrd.gkp = .reset ∧ t.wrd.restarts = [] ∧
      (∀ o, o = 0x040 ∨ o = 0x044 ∨ o = 0x04C → t.word pgGBK o = s.word pgGBK o) ∧
      t.word pgTOP 0x084 = s.word pgTOP 0x084 ∧
      t.stage = (if s.aon.vbus && s.railsGood && !s.aon.resetLow then 1 else 0)) ∧
  (∀ (s : State) (rise : Bool),
    ∃ t, exec (.vbusPor rise) s = .next t ∧ t.aon.vbus = rise ∧ t.aon.railEn = rise ∧ t.part = s.part ∧
      (∀ a, t.byte a = 0) ∧ t.poison = [] ∧
      (s.fsh.op = none → ∀ a, t.fbyte a = s.fbyte a) ∧ t.svnFloor = s.svnFloor ∧
      t.aon.perst = s.aon.perst ∧ t.aon.estop = s.aon.estop ∧ t.aon.webBreak = s.aon.webBreak ∧
      t.aon.resetLow = s.aon.resetLow ∧ t.aon.refs = s.aon.refs ∧
      t.rd pgBST BST_REPAIRS_FUSED = s.rd pgBST BST_REPAIRS_FUSED ∧ t.bist.repairs = [] ∧
      (∀ p o, o < 4096 → ¬ (p = pgBST ∧ o = BST_REPAIRS_FUSED.off) →
        t.word p o = resetWord s.part p o) ∧
      t.aon.rstPending = false ∧ t.commits = [] ∧ t.follies = [] ∧ t.gbk.queue = [] ∧
      t.gbk.late = [] ∧ t.stage = 0))

/-- PERST# falling, a hot reset and a link down clear the host's results, slots and SNAP_STALE marks,
return the PCIE page to reset and fence every stream's ring; the Groundskeeper's results and slots
stay. With no archive under way, a hot reset and a link down touch no byte of memory, no other
page's registers and no other state than these and the Guestbook. PERST# rising (awake) starts
link training; a trained link of a speed and width that the endpoint has (1 to 4, and 1, 2 or 4
lanes), where HOST is powered and its reference clock present, sets speed, width and LINK_UP and
ends training; a link up that is degraded and a recovery raise event bit 0 of PCIE and a recovery
counts; a configuration request before GKP_START is completed with Retry Status and has no effect;
from then on a request to a VF that is not enabled finds no function and changes nothing, a read
returns its register and changes nothing, a write of an error-reporting register is held (its
values at reset: the model's choice, log 101), a request for up to 4 VFs sets NUM_VFS, more are
ignored (log 101), and a vector that is unmasked with its pending bit set sends its message and
clears the bit. -/
def Obligations.HostLink : Prop :=
  (∀ (s : State),
    let cleared := fun (t : State) =>
      t.host.results = [] ∧ t.host.slots = [] ∧ t.host.stale = [] ∧ t.gkpSide = s.gkpSide ∧
      (∀ o, o < 4096 → t.word pgPCIE o = resetWord s.part pgPCIE o) ∧
      (∀ i : Fin 4, (t.stm.get i).fenced = true)
    let only := fun (t : State) => s.qlp.arc = none → s.SameMem t ∧
      (∀ p o, o < 4096 → p ≠ pgPCIE → p ≠ pgGBK → t.word p o = s.word p o) ∧
      { t with host := s.host, pcie := s.pcie, stm := s.stm, regs := s.regs, act := s.act,
               commits := s.commits, follies := s.follies, gbk := s.gbk } = s.fresh
    (s.aon.perst = true → s.qlp.arc = none →
      ∃ t, exec .perstAssert s = .next t ∧ cleared t ∧ t.aon.perst = false) ∧
    (s.aon.perst = true → s.qlp.arc = none →
      ∃ t, exec .pcieHotReset s = .next t ∧ cleared t ∧ only t) ∧
    (s.bit pgPCIE PCIE_LINK_UP = true → s.qlp.arc = none →
      ∃ t, exec .pcieLinkDown s = .next t ∧ cleared t ∧ only t)) ∧
  (∀ (s : State),
    (s.aon.perst = false → s.asleep = false →
      ∃ t, exec .perstDeassert s = .next t ∧ t.aon.perst = true ∧ t.pcie.training = true ∧
        t.aon.pcieWakeLow = false ∧ s.SameMem t) ∧
    (∀ speed width degraded, s.pcie.training = true → s.aon.perst = true →
      s.isolated .host = false → s.aon.refs.get 14 = true →
      1 ≤ speed.toNat → speed.toNat ≤ 4 → (width = 1 ∨ width = 2 ∨ width = 4) →
      ∃ t, exec (.pcieLinkUp speed width degraded) s = .next t ∧
        t.rd pgPCIE PCIE_LINK_SPEED = speed.toNat ∧ t.rd pgPCIE PCIE_LINK_WIDTH = width.toNat ∧
        t.bit pgPCIE PCIE_LINK_UP = true ∧ t.pcie.training = false ∧
        (degraded = true → t.Raised pgPCIE 0) ∧ s.SameMem t ∧
        s.SameRegs t (fun p o => (p = pgPCIE ∧ o = PCIE_LINK_UP.off) ∨ evWords pgPCIE p o)) ∧
    (s.bit pgPCIE PCIE_LINK_UP = true →
      ∃ t, exec .pcieRecovery s = .next t ∧ t.Raised pgPCIE 0 ∧
        t.rd pgPCIE PCIE_RECOVERIES_N =
          min (s.rd pgPCIE PCIE_RECOVERIES_N + 1) (2 ^ PCIE_RECOVERIES_N.width - 1) ∧ s.SameMem t ∧
        s.SameRegs t (fun p o => (p = pgPCIE ∧ o = PCIE_RECOVERIES_N.off) ∨ evWords pgPCIE p o)) ∧
    (∀ op, s.bit pgPCIE PCIE_LINK_UP = true → s.stage < 4 →
      exec (.pcieConfigRequest op) s = .next (s.fresh.emit (.cfgDone true 0))) ∧
    (∀ op, s.bit pgPCIE PCIE_LINK_UP = true → 4 ≤ s.stage → s.rd pgPCIE PCIE_VF_NUM_VFS < cfgFn op →
      exec (.pcieConfigRequest op) s = .next s.fresh) ∧
    (∀ x, s.bit pgPCIE PCIE_LINK_UP = true → 4 ≤ s.stage →
      cfgFn (.read x) ≤ s.rd pgPCIE PCIE_VF_NUM_VFS →
      exec (.pcieConfigRequest (.read x)) s = .next (s.fresh.emit (.cfgDone false (s.cfgData x)))) ∧
    (∀ fn x v, s.bit pgPCIE PCIE_LINK_UP = true → 4 ≤ s.stage →
      fn.val ≤ s.rd pgPCIE PCIE_VF_NUM_VFS →
      ∃ t, exec (.pcieConfigRequest (.aer fn x v)) s = .next t ∧ t.emitted = [.cfgDone false 0] ∧
        t.pcie.aer.get fn = (s.pcie.aer.get fn).put x v ∧
        (∀ g, g ≠ fn → t.pcie.aer.get g = s.pcie.aer.get g) ∧
        { t with pcie := s.pcie, emitted := [] } = s.fresh) ∧
    (∀ n, s.bit pgPCIE PCIE_LINK_UP = true → 4 ≤ s.stage →
      ∃ t, exec (.pcieConfigRequest (.numVfs n)) s = .next t ∧ t.emitted = [.cfgDone false 0] ∧
        t.rd pgPCIE PCIE_VF_NUM_VFS =
          (if n.toNat ≤ 4 then n.toNat else s.rd pgPCIE PCIE_VF_NUM_VFS) ∧ s.SameMem t ∧
        s.SameRegs t (fun p o => p = pgPCIE ∧ o = PCIE_VF_NUM_VFS.off) ∧
        { t with regs := s.regs, emitted := [] } = s.fresh) ∧
    (∀ (fn : Fin 5) (vec : BitVec 6), s.bit pgPCIE PCIE_LINK_UP = true → 4 ≤ s.stage →
      fn.val ≤ s.rd pgPCIE PCIE_VF_NUM_VFS → vec.toNat < vectorsOf fn.val → s.mayMessage fn.val = true →
      (fn.val, vec.toNat) ∈ s.pcie.pba →
      ∃ t, exec (.pcieConfigRequest (.msixMask fn vec false)) s = .next t ∧
        (fn.val, vec.toNat) ∉ t.pcie.pba ∧ t.vecMasked fn.val vec.toNat = false ∧
        t.emitted = [.msix fn.val vec.toNat (s.pcie.entries.lookup (fn.val, vec.toNat)),
          .cfgDone false 0] ∧
        { t with pcie := s.pcie, emitted := [] } = s.fresh))

/-- While PRINT has power and is not isolated a fall of ESTOP_IN# cuts every present head with the
cause ESTOP, cancels every re-arm and latches, and no strobe pad drives "fire"; while PRINT is
isolated nothing but the ball's level changes (the model's reading, log 24). A rise releases
nothing: no register changes. A read of FIR_ESTOP shows in LEVEL whether the ball is low. -/
def Obligations.Estop : Prop :=
  ∀ (s : State),
    let level := fun (t : State) => (t.readWord .host pgFIRroot FIR_ESTOP_LEVEL.off).getLsbD 0
    (s.aon.estop = true → s.isolated .print = false →
      ∃ t, exec .estopFall s = .next t ∧ t.aon.estop = false ∧ level t = true ∧
        t.bit pgFIRroot FIR_ESTOP_LATCHED = true ∧
        (∀ h, h < s.part.heads → t.isCut h = true ∧ t.rd (pgFIR h) FIR_CUT_STAT_CAUSE = 3 ∧
          (t.firOf h).rearm = false) ∧ (∀ h, t.strobePad h ≠ some true) ∧ s.SameMem t) ∧
    (s.aon.estop = true → s.isolated .print = true →
      ∃ t, exec .estopFall s = .next t ∧ t.aon.estop = false ∧ level t = true ∧
        { t with aon := s.aon } = s.fresh) ∧
    (∃ t, exec .estopRise s = .next t ∧ t.aon.estop = true ∧ level t = false ∧
      (∀ h, t.isCut h = s.isCut h) ∧ { t with aon := s.aon } = s.fresh)

/-- Start-up goes on stage by stage: SRAM_INIT, which leaves no repair listed, zeroes all SRAM but the
Guestbook and goes to VERIFY_FW, or fails as REPAIR_EXHAUSTED; a preferred slot that verifies
starts the Groundskeeper at GKP_START, two that do not fail as NO_VALID_FW; the configuration that
is found, from the preferred slot or else the other, is named and goes to DRAM_TRAIN, none fails
as NO_VALID_CFG where no untried firmware slot is left, else nothing changes until the
Groundskeeper asks for the fall-back; a training that fails on a channel, or a geometry that R281
does not list, fails as DRAM_TRAIN. FAULT_OUT# is driven low at each of these stages. (CONFIG_DONE
taken at GKP_START too: the model's choice, log 89; both channels trained before READY: its
reading, log 20; the repair list read at SRAM_INIT: log 94.) When both channels train at
DRAM_TRAIN, with a geometry that R281 lists, STAGE reads READY. -/
def Obligations.StartUpStages : Prop :=
  (∀ (s : State),
    let failed := fun (t : State) (why : Nat) =>
      t.stage = 15 ∧ t.rd pgTOP TOP_BOOT_FAIL = why ∧ t.faultOutLow = true
    (s.stage = 2 →
      (∃ t, exec (.sramInitDone true) s = .next t ∧ failed t 4 ∧ s.SameMem t) ∧
      (∃ t, exec (.sramInitDone false) s = .next t ∧ t.stage = 3 ∧ t.faultOutLow = true ∧
        t.bist.repairs = [] ∧
        (s.bist.lost = false → t.bist.fused = s.bist.fused ++ s.bist.repairs) ∧
        (∀ a, t.byte a = if sramBase ≤ a ∧ ¬ inGuestbook a = true then 0 else s.byte a))) ∧
    (∀ slot : Fin 2, s.stage = 3 → s.fsh.tried = [] → s.fwPreferred = slot.val →
      (s.imageOk slot.val = true →
        ∃ t, exec (.verifyFwDone slot) s = .next t ∧ t.stage = 4 ∧ t.wrd.gkp = .running ∧
          t.rd pgTOP TOP_BOOT_FW_SLOT = slot.val ∧ t.faultOutLow = true ∧ s.SameMem t) ∧
      (s.imageOk slot.val = false →
        ∃ t, exec (.verifyFwDone slot) s = .next t ∧ t.fsh.tried = [slot.val] ∧
          { t with fsh := s.fsh } = s.fresh)) ∧
    (∀ slot : Fin 2, s.stage = 3 → s.fsh.tried ≠ [] → 1 - s.fwPreferred = slot.val →
      s.imageOk slot.val = false →
        ∃ t, exec (.verifyFwDone slot) s = .next t ∧ failed t 1 ∧ s.SameMem t) ∧
    (∀ okA okB, s.stage = 4 ∨ s.stage = 5 → s.wrd.gkp = .running →
      (∀ k, s.bootCfg okA okB = some k →
        ∃ t, exec (.configDone okA okB) s = .next t ∧ t.stage = 6 ∧
          t.rd pgTOP TOP_BOOT_CFG_SLOT = k ∧ t.rd pgFSH FSH_CFG_STAT_ACTIVE = k ∧
          t.rd pgFSH FSH_CFG_STAT_SCHEMA = s.schemaOf (2 + k) ∧
          t.faultOutLow = true ∧ s.SameMem t) ∧
      (s.bootCfg okA okB = none → s.mayFallBack = false →
        ∃ t, exec (.configDone okA okB) s = .next t ∧ failed t 2 ∧ s.SameMem t) ∧
      (s.bootCfg okA okB = none → s.mayFallBack = true →
        exec (.configDone okA okB) s = .next s.fresh)) ∧
    (∀ ok0 ok1 temp0 temp1, s.stage = 6 →
      (ok0 && ok1 && geomOk (s.word pgDRC 0x040).toNat) = false →
      ∃ t, exec (.dramTrainDone ok0 ok1 temp0 temp1) s = .next t ∧ failed t 3 ∧ s.SameMem t)) ∧
  (∀ (s : State) temp0 temp1, s.stage = 6 → geomOk (s.word pgDRC 0x040).toNat = true →
    ∃ t, exec (.dramTrainDone true true temp0 temp1) s = .next t ∧ t.ready = true ∧
      t.rd (pgDRAM 0) UNIT_STATUS_STATE = 2 ∧ t.rd (pgDRAM 1) UNIT_STATUS_STATE = 2)

/-- A rail becoming good is noted, and the last one at RAILS brings start-up to CLOCKS with every
domain of the part up. A qualified crystal takes the island off the RC oscillator and at CLOCKS
starts PLL_SYS and PLL_SDL. A crystal that stops puts it on the RC oscillator, raises XTAL_FAULT
and leaves a DEVICE-level reset pending with the cause PLL_FAULT, and no strobe pad drives "fire".
A lock shows LOCKED, and REF_OK where the reference is sensed; a switch-back takes its domains off
the bypass clock, and at CLOCKS the second of PLL_SYS and PLL_SDL to do so brings start-up to
SRAM_INIT; a hold on the bypass clock raises event bit 5; a loss of the reference clears REF_OK
and raises bit 2 for a PLL that runs, and its return is shown where it is sensed, for a stopped
PLL too; a loss of lock clears LOCKED, counts and raises bit 0; on PLL_SYS, PLL_SDL and the DRAM
PLLs it leaves a DEVICE-level reset pending; a measured frequency is shown. RELOCK is refused with
BAD_ARG for a PLL beyond 14 or a target that R58 does not allow, and else with WRONG_STATE where
R58 does not permit a relock now. Accepted on a PLL that does not run it stores the target; on a
running one it sets CMD_BUSY and the PLL's next target. (BAD_ARG for every RELOCK of PLL_PCIE, of
which R58 lists no target, and REF_OK of PLLs 0 to 7 as the crystal's: the model's reading, log
25; every domain up from CLOCKS on: its choice, log 106.) -/
def Obligations.Clocking : Prop :=
  (∀ (s : State),
    (∀ rail, s.stage ≠ 0 →
      ∃ t, exec (.railGood rail) s = .next t ∧ t.aon.rails.get (railNum rail) = true ∧
        s.SameMem t ∧ s.SameRegs t (fun _ _ => False) ∧ { t with aon := s.aon } = s.fresh) ∧
    (∀ rail, s.stage = 0 → s.aon.vbus = true → s.aon.rstPending = false →
      s.aon.resetLow = false →
      (∀ r, r ≠ rail → s.aon.rails.get (railNum r) = true) →
      ∃ t, exec (.railGood rail) s = .next t ∧ t.stage = 1 ∧ s.SameMem t ∧
        (∀ d : Fin 7, t.pwr.doms.get d = if s.part.hasDom d.val then .up else .down)) ∧
    (∃ t, exec .xtalQualified s = .next t ∧ t.aon.xtal = true ∧ t.aon.onRc = false ∧
      t.bit pgCLK CLK_XTAL_STAT_XTAL_OK = true ∧ t.bit pgCLK CLK_XTAL_STAT_ON_RC = false ∧
      t.bit pgWRD WRD_FAULT_XTAL = false ∧
      (s.stage = 1 → (s.pll 0).phase = .off → (s.pll 1).phase = .off →
        (t.pll 0).phase = .locking ∧ (t.pll 1).phase = .locking) ∧ s.SameMem t) ∧
    (s.aon.xtal = true →
      ∃ t, exec .xtalStop s = .next t ∧ t.aon.xtal = false ∧ t.aon.onRc = true ∧
        t.aon.rstPending = true ∧ t.bit pgTOP TOP_RESET_CAUSE_PLL_FAULT = true ∧
        t.bit pgWRD WRD_FAULT_XTAL = true ∧ t.Raised pgCLK 4 ∧
        (∀ h, t.strobePad h ≠ some true) ∧ s.SameMem t)) ∧
  ((∀ (s : State) (n : Fin 15),
    ((s.pll n.val).phase = .locking →
      (∃ t, exec (.pllLock n) s = .next t ∧ (t.pll n.val).phase = .locked ∧
        t.bit pgCLK (CLK_PLL_STAT_LOCKED n.val) = true ∧
        t.bit pgCLK (CLK_PLL_STAT_REF_OK n.val) =
          (s.refSensed n.val && (decide (8 ≤ n.val) || s.aon.xtal)) ∧ s.SameMem t ∧
        s.SameRegs t (fun p o => p = pgCLK ∧ o = (CLK_PLL_STAT_LOCKED n.val).off) ∧
        { t with regs := s.regs, plls := s.plls, aon := s.aon } = s.fresh ∧
        t.aon = { s.aon with refs := s.aon.refs.set n.val true }) ∧
      (∃ t, exec (.bypassHold n) s = .next t ∧ (t.pll n.val).phase = .held ∧ t.Raised pgCLK 5 ∧
        s.SameMem t ∧ s.SameRegs t (evWords pgCLK))) ∧
    ((s.pll n.val).phase = .locked → clusterOf n.val = none → (s.pll n.val).byCmd = false →
      s.stage = 7 →
      ∃ t, exec (.pllSwitchBack n) s = .next t ∧ (t.pll n.val).phase = .out ∧
        t.bit pgCLK (CLK_PLL_STAT_BYPASS n.val) = false) ∧
    ((s.pll 0).phase = .locked → (s.pll 1).phase = .out → s.stage = 1 →
      ∃ t, exec (.pllSwitchBack 0) s = .next t ∧ t.stage = 2) ∧
    (∃ t, exec (.refLoss n false) s = .next t ∧ t.aon.refs.get n = true ∧
      t.bit pgCLK (CLK_PLL_STAT_REF_OK n.val) =
        (s.refSensed n.val && (decide (8 ≤ n.val) || s.aon.xtal)) ∧ s.SameMem t ∧
      s.SameRegs t (fun p o => p = pgCLK ∧ o = (CLK_PLL_STAT_REF_OK n.val).off)) ∧
    (∃ t, exec (.refLoss n true) s = .next t ∧ t.bit pgCLK (CLK_PLL_STAT_REF_OK n.val) = false ∧
      (s.refSensed n.val = true → (s.pll n.val).phase ≠ .off → t.Raised pgCLK 2) ∧ s.SameMem t ∧
      s.SameRegs t (fun p o =>
        (p = pgCLK ∧ o = (CLK_PLL_STAT_REF_OK n.val).off) ∨ evWords pgCLK p o)) ∧
    ((s.pll n.val).phase = .locked ∨ (s.pll n.val).phase = .out →
      ∃ t, exec (.pllUnlock n) s = .next t ∧ t.bit pgCLK (CLK_PLL_STAT_LOCKED n.val) = false ∧
        t.rd pgCLK (CLK_PLL_STAT_UNLOCKS n.val) =
          min (s.rd pgCLK (CLK_PLL_STAT_UNLOCKS n.val) + 1) 255 ∧ s.SameMem t ∧
        t.Raised pgCLK 0 ∧
        (pllFatal n.val = true → t.aon.rstPending = true ∧
          t.bit pgTOP TOP_RESET_CAUSE_PLL_FAULT = true)) ∧
    (∀ khz, s.aon.xtal = true → s.follyOn pgCLK 1 = false →
      ∃ t, exec (.freqMeasure n khz) s = .next t ∧
        t.rd pgCLK (CLK_PLL_FREQ_KHZ n.val) = khz.toNat % 2 ^ (CLK_PLL_FREQ_KHZ n.val).width)) ∧
  (∀ (s : State) (r : Req) (arg : BitVec 16), s.Takes r pgCLK →
    let n := arg.toNat
    let v := s.rd pgCLK (CLK_PLL_CFG_TARGET n)
    (15 ≤ n ∨ targetAllowed n v = false →
      exec (.relock r arg) s = .next ((s.reached r pgCLK).refuse r pgCLK 0x01C 1 rcBAD_ARG)) ∧
    (n < 15 → targetAllowed n v = true → s.relockPermitted n = false →
      exec (.relock r arg) s = .next ((s.reached r pgCLK).refuse r pgCLK 0x01C 1 rcWRONG_STATE)) ∧
    (n < 15 → targetAllowed n v = true → s.relockPermitted n = true →
      ∃ t, exec (.relock r arg) s = .next t ∧ (t.pll n).next = v ∧ s.SameMem t ∧
        ((s.pll n).phase = .off → (t.pll n).target = v ∧ (t.pll n).phase = .off ∧
          t.Raised pgCLK 1) ∧
        ((s.pll n).phase ≠ .off → (t.pll n).byCmd = true ∧
          t.bit pgCLK UNIT_STATUS_CMD_BUSY = true))))

/-- A vote that its own client writes is stored and every other client's vote stands; only the words
that follow the power levels may change with it, and no byte of memory does. Any other requester's
write is dropped. When the Groundskeeper's cores halt, its vote on SYS counts as its vote word
gives it. A plain register write to another client's vote word is dropped just so. -/
def Obligations.VoteWrites : Prop :=
  ∀ (s : State),
    (∀ (r : Req) (client : Fin 7) (level : BitVec 14), s.open r pgPWR = true →
      (client.val = reqNum r →
        ∃ t, exec (.voteWrite r client level) s = .next t ∧
          t.rd pgPWR (PWR_VOTE_LEVEL client.val) = level.toNat ∧
          (∀ c : Fin 7, c ≠ client →
            t.rd pgPWR (PWR_VOTE_LEVEL c.val) = s.rd pgPWR (PWR_VOTE_LEVEL c.val)) ∧
          s.SameMem t ∧ s.SameRegs t s.powerWord) ∧
      (client.val ≠ reqNum r →
        (∃ t, exec (.voteWrite r client level) s = .next t ∧ s.Dropped t r pgPWR) ∧
        ∀ (off : BitVec 12) (v : Word), off.toNat = 0x040 + 4 * client.val →
          ∃ t, exec (.registerWrite r (BitVec.ofNat 12 pgPWR) off 0xF v) s = .next t ∧
            s.Dropped t r pgPWR)) ∧
    (s.wrd.gkp = .running →
      ∃ t, exec .gkpWfiHalt s = .next t ∧ t.pwr.gkpHalted = true ∧
        t.vote 1 0 = sysVote (s.rd pgPWR (PWR_VOTE_LEVEL 1)) ∧
        s.SameMem t ∧ s.SameRegs t s.powerWord)

/-- A quiesced domain with nothing left to do, whose effective level is still 0, is saved and
isolated; the sequencer's part of a tick then opens its switch, its PLLs off, and with the next
one it is down. A domain whose supply is good and whose level is not 0 starts each PLL it needs,
or is up where it needs none; rails that do not come good in time, no other domain being on, end
the rise with RAIL_EN_MAIN low, the cause in PWR_WAKE_CAUSE and the fault bit; the retry of MEM's
drop is used up; a domain at level 1 gates its clocks again. No byte of memory changes. (That
isolation, the switch's opening and down follow each other tick by tick, and what a rail that does
not come good leaves: the model's choice, logs 1 and 93.) -/
def Obligations.DomainsDropAndRise : Prop :=
  ∀ (s : State),
    (∀ d : Fin 7, s.phase d = .quiescing → s.eff d.val = 0 → s.domainBusy d = false →
      ∃ t, exec (.domainQuiesced d) s = .next t ∧ t.phase d = .saved ∧ s.SameMem t) ∧
    (∀ d : Fin 7, s.eff d.val = 0 →
      (s.phase d = .saved → s.tickPower.phase d = .opening false ∧
        ∀ n, n < 15 → (pllDom n).num = d → (s.tickPower.pll n).phase = .off) ∧
      (∀ b, s.phase d = .opening b → s.tickPower.phase d = .down)) ∧
    (∀ d : Fin 7, s.ready = true → s.phase d = .supplying → s.railsGood = true →
      ((State.pllsOf d).filter s.pllWanted = [] → s.eff d.val ≠ 0 →
        ∃ t, exec (.domainSupplyGood d) s = .next t ∧ t.phase d = .up ∧ s.SameMem t) ∧
      ((State.pllsOf d).filter s.pllWanted ≠ [] →
        ∃ t, exec (.domainSupplyGood d) s = .next t ∧ t.phase d = .locking ∧
          (∀ n ∈ (State.pllsOf d).filter s.pllWanted, (t.pll n).phase = .locking) ∧ s.SameMem t ∧
          s.SameRegs t (fun p _ => p = pgCLK) ∧
          { t with regs := s.regs, plls := s.plls, pwr := s.pwr } = s.fresh)) ∧
    (s.ready = true → s.aon.railEn = true → s.railsGood = false → s.rising = true →
      (∀ d, s.phase d = .down ∨ s.phase d = .supplying) →
      ∃ t, exec .railTimeout s = .next t ∧ t.aon.railEn = false ∧
        t.bit pgPWR PWR_WAKE_CAUSE_RAIL_TIMEOUT = true ∧ t.bit pgWRD WRD_FAULT_RAIL = true ∧
        (∀ d, t.phase d ≠ .supplying) ∧ s.SameMem t ∧
        s.SameRegs t (fun p o =>
          (p = pgPWR ∧ (o = 0x06C ∨ o = 0x074)) ∨ (p = pgWRD ∧ o = WRD_FAULT_RAIL.off)) ∧
        { t with regs := s.regs, aon := s.aon, pwr := s.pwr } = s.fresh) ∧
    (s.pwr.memRetry = true →
      ∃ t, exec .memDropRetry s = .next t ∧ t.pwr.memRetry = false ∧ s.SameMem t ∧
        s.SameRegs t (evWords pgPWR)) ∧
    (∀ d : Fin 7, ∃ t, exec (.holdRegate d) s = .next t ∧ t.pwr.ungated.get d = false ∧
      s.SameMem t ∧ s.SameRegs t (fun _ _ => False) ∧ { t with pwr := s.pwr } = s.fresh)

/-- In Patrol a cycle converts the windows' channels, with their results on MON, and counts, and where
a window is confirmed its number and the cause are shown, the votes are loaded from PWR_WAKE_VOTE
and a wake is pending or raised; without one no domain moves. A comparator that trips shows in
TRIPPED; awake it raises bit 4 of PWR; in Retain and Patrol one that may wake sets its cause bit,
loads the votes and leaves a wake pending or raised. A comparator that falls back clears its bit
and nothing else. (The lowest of several confirmed windows, and a comparator switched off while
tripped: the model's choice, log 95.) Outside Patrol the next channel's conversion stands in CODE
of that channel (0 on channels 4 to 7 while MECH is down), and 0 and 4,095 of an enabled channel
raise bit 3 of MON with the channel in LAST_RANGE where none was seen within 1 ms; the results of
every other channel and every byte of memory stand. -/
def Obligations.WakeAndMonitor : Prop :=
  (∀ (s : State),
    (∀ codes, s.powerState = 4 →
      let u := s.fresh.inc pgPWR PWR_PATROL_STAT_CYCLES
      ∃ t, exec (.patrolCycle codes) s = .next t ∧ s.SameMem t ∧
        t.rd pgPWR PWR_PATROL_STAT_CYCLES = (s.rd pgPWR PWR_PATROL_STAT_CYCLES + 1) % 2 ^ 32 ∧
        ((u.patrol u.patrolWindows codes).2 = none →
          t.pwr.doms = s.pwr.doms ∧ t.aon = s.aon ∧
          s.SameRegs t (fun p o => (p = pgPWR ∧ (o = 0x074 ∨ o = 0x030)) ∨ p = pgMON)) ∧
        (∀ w, (u.patrol u.patrolWindows codes).2 = some w →
          t.bit pgPWR PWR_WAKE_CAUSE_WINDOW = true ∧ t.rd pgPWR PWR_WAKE_CAUSE_WIN_NUM = w % 8 ∧
          (t.aon.wakePending = true ∨ t.Raised pgPWR 1) ∧
          t.rd pgPWR (PWR_VOTE_LEVEL 0) = s.rd pgPWR PWR_WAKE_VOTE_LEVEL)) ∧
    (∀ c : Fin 4, s.bit pgPWR (PWR_COMP_CTRL_EN c.val) = true → s.aon.compTripped.get c = false →
      ∃ t, exec (.wakeComparatorTrip c) s = .next t ∧ t.aon.compTripped.get c = true ∧
        t.rd pgPWR PWR_COMP_STAT_TRIPPED = s.rd pgPWR PWR_COMP_STAT_TRIPPED ||| 2 ^ c.val ∧
        s.SameMem t ∧ (s.asleep = false → t.Raised pgPWR 4) ∧
        (s.asleep = true → s.bit pgPWR (PWR_COMP_CTRL_WAKE c.val) = true →
          (t.aon.wakePending = true ∨ t.Raised pgPWR 1) ∧
          t.rd pgPWR PWR_WAKE_CAUSE_COMP = s.rd pgPWR PWR_WAKE_CAUSE_COMP ||| 2 ^ c.val ∧
          t.rd pgPWR (PWR_VOTE_LEVEL 0) = s.rd pgPWR PWR_WAKE_VOTE_LEVEL ∧
          t.rd pgPWR (PWR_VOTE_LEVEL 1) = 0x2AAA)) ∧
    (∀ c : Fin 4, s.aon.compTripped.get c = true →
      ∃ t, exec (.wakeComparatorReset c) s = .next t ∧ t.aon.compTripped.get c = false ∧
        t.rd pgPWR PWR_COMP_STAT_TRIPPED =
          s.rd pgPWR PWR_COMP_STAT_TRIPPED &&& (15 - 2 ^ c.val) ∧ s.SameMem t ∧
        s.SameRegs t (fun p o => p = pgPWR ∧ o = 0x0E0) ∧
        { t with regs := s.regs, aon := s.aon } = s.fresh)) ∧
  (∀ (s : State) (code : BitVec 12) (c : Nat), s.powerState ≠ 4 → s.nextChannel = some c →
    (s.follyOn pgMON 1 = false) →
    let v := if 4 ≤ c ∧ c < 8 ∧ s.levelOf .mech = 0 then 0 else code.toNat
    ∃ t, exec (.adcConversion code) s = .next t ∧ t.rd pgMON (MON_RESULT_CODE c) = v ∧
      t.mon.last = c ∧ s.SameMem t ∧
      (∀ i, i < 24 → i ≠ c → t.word pgMON (MON_RESULT_CODE i).off = s.word pgMON (MON_RESULT_CODE i).off) ∧
      (s.rd pgMON MON_CH_EN_EN / 2 ^ c % 2 = 1 → v = 0 ∨ v = 4095 → t.rd pgMON MON_LAST_RANGE_CH = c ∧
        (s.mon.badAt.get 3 = none → t.Raised pgMON 3)))

/-- On a live quadrature input, with folly 1 not armed, an edge of a pair that does not agree moves
the count by 1,024 pu the way it turns, and one that changes neither or both levels moves nothing;
one that agrees only begins coasting. On a live sine/cosine input a sample pair within its radius
moves the count by the angle since the last one; one outside begins coasting and moves nothing;
the angle is that of R98's correction, in whole pu rounded down or up (which: a free choice, log
31). Where the encoder is Sundial's source the position moves by as much, less the whole pu it was
extrapolated since the last measurement, and the high-water mark follows it forward unless in
reverse; else neither moves. No byte of memory changes, and only the encoder's, Sundial's and the
speed's registers do. (The wires' levels are kept from edge to edge while the input is live: the
model's reading, log 59.) With no folly armed, an index edge in forward travel at the encoder's
mark latches the count, sets INDEXED and, from the second on, shows the difference from EXPECT; a
difference beyond TOL of a nonzero EXPECT raises bit 1. An index that stays away for 1.5, 2.5, …
times EXPECT raises bit 2 and is noted. A correction that is pending in FORWARD is taken from
position and mark, both at once, where a print-page boundary of the reference channel has been
passed since (State.corrDue), and at no other time. No byte of memory and no count changes. (No
index missing before the first is latched: the model's choice, log 97; the bound in travel of an
index in forward travel, log 59.) -/
def Obligations.EncoderInputs : Prop :=
  (∀ (s : State) (n : Fin 3), s.encLive n = true → s.follyOn (pgENC n.val) 1 = false →
    let e := s.encOf n
    let moved := fun (t : State) (d : Int) =>
      t.encCount n = s.encCount n + BitVec.ofInt 48 d ∧
      (∀ m, m ≠ n → t.encCount m = s.encCount m) ∧
      (s.sdlOn = true ∧ s.source = n ∧ s.sdl.noSource = false →
        t.pos = s.pos + BitVec.ofInt 48 (d - wholePu e.ext) ∧
        t.hwm = if s.sdl.reverse = false ∧ ahead t.pos s.hwm = true then t.pos else s.hwm) ∧
      (s.sdlOn = false ∨ s.source ≠ n ∨ s.sdl.noSource = true → t.pos = s.pos ∧ t.hwm = s.hwm) ∧
      t.bit (pgENC n.val) ENC_STATUS_COASTING = false ∧
      s.Within t [pgENC n.val, pgSDL, pgSPD] ∧
      { t with regs := s.regs, enc := s.enc, sdl := s.sdl, gbk := s.gbk, pcie := s.pcie,
               follies := s.follies, free := s.free } = s.fresh
    let coasts := fun (t : State) (on : Bool) =>
      t.bit (pgENC n.val) ENC_STATUS_COASTING = on ∧ s.SameMem t ∧
      s.SameRegs t (fun p o => p = pgENC n.val ∧ o = 0x010) ∧
      { t with regs := s.regs, enc := s.enc } = s.fresh
    (∀ a b, e.mode = 1 →
      (∃ t, exec (.encoderEdge n a b true) s = .next t ∧ coasts t true) ∧
      (quadStep e.a e.b a b ≠ 0 →
        ∃ t, exec (.encoderEdge n a b false) s = .next t ∧
          moved t (e.turn (1024 * quadStep e.a e.b a b))) ∧
      (quadStep e.a e.b a b = 0 →
        ∃ t, exec (.encoderEdge n a b false) s = .next t ∧ coasts t false)) ∧
    (∀ sn cs, e.mode = 2 →
      (s.radiusOk n sn cs = false →
        ∃ t, exec (.encoderSample n sn cs) s = .next t ∧ coasts t true ∧ (t.encOf n).frac = none) ∧
      (∀ f0, s.radiusOk n sn cs = true → e.frac = some f0 →
        ∃ t f a, exec (.encoderSample n sn cs) s = .next t ∧ (t.encOf n).frac = some f ∧
          (a = s.sampleAngle n sn cs ∨ a = s.sampleAngle n sn cs + 1) ∧
          f = (if e.dir = true then -BitVec.ofInt 12 a else BitVec.ofInt 12 a) ∧
          moved t (f - f0).toInt))) ∧
  (∀ (s : State) (n : Fin 3),
    let p := pgENC n.val
    let e := s.encOf n
    let c := s.encCount n
    let last := BitVec.ofNat 48 (s.rd2 p ENC_INDEX_LATCH_LO_POS ENC_INDEX_LATCH_HI_POS)
    let expect := s.ac p ENC_INDEX_EXPECT_PU
    (s.encLive n = true → s.bit p ENC_CFG_INDEX_EN = true → 0 ≤ posDiff c e.hwm → 0 ≤ e.speed →
      s.armedFolly p = none →
      ∃ t, exec (.indexEdge n) s = .next t ∧
        BitVec.ofNat 48 (t.rd2 p ENC_INDEX_LATCH_LO_POS ENC_INDEX_LATCH_HI_POS) = c ∧
        t.bit p ENC_STATUS_INDEXED = true ∧ (t.encOf n).latched = true ∧ (t.encOf n).missed = 0 ∧
        t.encCount n = c ∧ t.pos = s.pos ∧ s.Within t [p] ∧
        (e.latched = true →
          t.rd p ENC_INDEX_DIFF_D = unsint 32 (posDiff c last - expect) ∧
          (expect ≠ 0 → s.ac p ENC_INDEX_TOL_PU < (posDiff c last - expect).natAbs → t.Raised p 1))) ∧
    (s.encLive n = true → s.bit p ENC_CFG_INDEX_EN = true → s.bit p ENC_STATUS_INDEXED = true →
      expect ≠ 0 → ((2 * e.missed + 3 : Nat) : Int) * expect ≤ 2 * posDiff e.hwm last →
      ∃ t, exec (.indexMissing n) s = .next t ∧ t.Raised p 2 ∧
        (t.encOf n).missed = e.missed + 1 ∧ s.SameMem t ∧ s.SameRegs t (evWords p) ∧
        { t with regs := s.regs, enc := s.enc, gbk := s.gbk, pcie := s.pcie, follies := s.follies } =
          s.fresh) ∧
    (s.corrDue = false → exec .indexCorrection s = .next s.fresh) ∧
    (s.corrDue = true →
      ∃ t, exec .indexCorrection s = .next t ∧ t.sdl.corr = 0 ∧
        t.pos = s.pos - BitVec.ofInt 48 s.sdl.corr ∧ t.hwm = s.hwm - BitVec.ofInt 48 s.sdl.corr ∧
        (∀ m, t.encCount m = s.encCount m) ∧ s.Within t [pgSDL]))

/-- A wire fault sets FAULT, raises bit 0 and puts the encoder into state 3. Where it is Sundial's
source, with failover on and an eligible check encoder that tracks, the check encoder becomes the
source, bit 0 of SDL is raised and the position goes on unchanged; without a check encoder Sundial
has no source. The end of the fault clears FAULT and COASTING and the encoder tracks again. No
byte of memory and no encoder's count changes. CALIBRATE on a tracking sine/cosine input within
the band of R99 begins a fit with CMD_BUSY; a fit whose speed has left the band is abandoned, one
within it goes on until it has gathered 256 lines and then puts what it learned (free values, log
32) into the shadow and arms its own commit, or holds it while another commit is pending;
CLEAR_DRIFT zeroes the drift sum; ENABLE reads MODE, starts the mark at the count and clears
INDEXED and FAULT, and is dropped before READY; a cleared ENABLE leaves the count and state 0. No
byte of memory changes. (The values that a fit learns are free: log 32.) -/
def Obligations.EncoderStates : Prop :=
  (∀ (s : State) (n : Fin 3), s.encLive n = true →
    (s.encState n ≠ 3 →
      ∃ t, exec (.wireFault n) s = .next t ∧ t.bit (pgENC n.val) ENC_STATUS_FAULT = true ∧
        t.encState n = 3 ∧ t.Raised (pgENC n.val) 0 ∧ t.pos = s.pos ∧
        (∀ m, t.encCount m = s.encCount m) ∧ s.Within t [pgENC n.val, pgSDL, pgSPD] ∧
        (s.sdlOn = true → s.source = n → s.sdl.noSource = false → s.checkEnc = none →
          t.sdl.noSource = true ∧ t.rd pgSPD SPD_SPEED_V = 0) ∧
        (∀ m, s.sdlOn = true → s.source = n → s.sdl.noSource = false → s.checkEnc = some m →
          m ≠ n → s.ac pgSDL SDL_CFG_FAILOVER = 1 → s.tracking m = true → s.sdl.chkOk.get m = true →
          t.source = m ∧ t.sdl.noSource = false ∧ t.Raised pgSDL 0)) ∧
    (s.encState n = 3 →
      ∃ t, exec (.wireQualified n) s = .next t ∧ t.bit (pgENC n.val) ENC_STATUS_FAULT = false ∧
        t.bit (pgENC n.val) ENC_STATUS_COASTING = false ∧ t.encState n = 1 ∧ s.SameMem t ∧
        s.SameRegs t (fun p o => p = pgENC n.val ∧ o = 0x010) ∧ { t with regs := s.regs } = s.fresh)) ∧
  (∀ (s : State) (r : Req) (n : Fin 3),
    let p := pgENC n.val
    (s.Takes r p → s.encState n = 1 → (s.encOf n).mode = 2 → calBand (s.encOf n).speed = true →
      ∃ t, exec (.calibrate r n 0) s = .next t ∧ (t.encOf n).cal = .gathering (s.encCount n) ∧ t.encState n = 2 ∧
        t.bit p UNIT_STATUS_CMD_BUSY = true ∧ s.SameMem t ∧
        s.SameRegs t (fun q o => q = p ∧ (o = 0x010 ∨ o = 0x05C)) ∧
        { t with regs := s.regs, enc := s.enc } = s.taken r p 1) ∧
    (∀ start, (s.encOf n).cal = .gathering start → s.printUp = true →
      (∀ complete, calBand (s.encOf n).speed = false →
        ∃ t, exec (.calibrationFitEnd n complete) s = .next t ∧ (t.encOf n).cal = .idle ∧
          t.bit p ENC_CAL_STAT_ABANDONED = true ∧ t.bit p UNIT_STATUS_CMD_BUSY = false ∧
          s.SameMem t ∧ s.SameRegs t (fun q o => q = p ∧ (o = 0x010 ∨ o = 0x05C)) ∧
          { t with regs := s.regs, enc := s.enc } = s.fresh) ∧
      (∀ complete, calBand (s.encOf n).speed = true →
        complete = false ∨ posDiff (s.encCount n) start < 256 * 4096 →
        exec (.calibrationFitEnd n complete) s = .next s.fresh) ∧
      (calBand (s.encOf n).speed = true → 256 * 4096 ≤ posDiff (s.encCount n) start →
       ((s.commitOf p).isSome = true →
        ∃ t, exec (.calibrationFitEnd n true) s = .next t ∧
          (t.encOf n).cal = .holding (Config.calOffset s.free) (Config.calGain s.free)
            (Config.calPhase s.free) ∧ s.SameMem t ∧
          s.SameRegs t (fun q o => q = p ∧ o = 0x010)) ∧
      (s.commitOf p = none →
        ∃ t c, exec (.calibrationFitEnd n true) s = .next t ∧ (t.encOf n).cal = .armed ∧
          t.word p 0x04C = Config.calOffset s.free ∧ t.word p 0x050 = Config.calGain s.free ∧
          t.commitOf p = some c ∧ c.own = true ∧ s.SameMem t ∧
          s.SameRegs t (fun q o =>
            q = p ∧ (o = 0x010 ∨ o = 0x024 ∨ o = 0x04C ∨ o = 0x050 ∨ o = 0x054))))) ∧
    (s.Takes r p →
      ∃ t, exec (.clearDrift r n 0) s = .next t ∧ t.rd p ENC_INDEX_DRIFT_SUM = 0 ∧ s.SameMem t ∧
        s.SameRegs t (fun q o => q = p ∧ o = 0x07C) ∧ { t with regs := s.regs } = s.taken r p 2) ∧
    (s.open r p = true → s.bit p UNIT_CTRL_ENABLE = false →
      (s.ready = true →
        ∃ t, exec (.encEnable r n) s = .next t ∧ t.bit p UNIT_CTRL_ENABLE = true ∧
          (t.encOf n).mode = s.rd p ENC_CFG_MODE ∧ (t.encOf n).hwm = s.encCount n ∧
          t.encCount n = s.encCount n ∧ t.bit p ENC_STATUS_INDEXED = false ∧
          t.bit p ENC_STATUS_FAULT = false ∧
          t.encState n = (if s.rd p ENC_CFG_MODE = 1 ∨ s.rd p ENC_CFG_MODE = 2 then 1 else 0) ∧
          s.SameMem t ∧ s.SameRegs t (fun q o => q = p ∧ (o = 0x00C ∨ o = 0x010)) ∧
          { t with regs := s.regs, enc := s.enc } = s.reached r p) ∧
      (s.ready = false → ∃ t, exec (.encEnable r n) s = .next t ∧ s.Dropped t r p)) ∧
    (s.open r p = true → s.bit p UNIT_CTRL_ENABLE = true →
      ∃ t, exec (.encDisable r n) s = .next t ∧ t.bit p UNIT_CTRL_ENABLE = false ∧ t.encState n = 0 ∧
        (∀ m, t.encCount m = s.encCount m) ∧ t.pos = s.pos ∧ s.Within t [p, pgSDL, pgSPD]))

/-- Standstill shows speed 0 and raises bit 4 of the source's page, and ends once the count has moved
4,096 pu; reverse begins past SDL_REV_BAND below the mark with bit 3 of the source's page, and
ends at SDL_HYST beyond the mark, which then follows. A speed collapse that the judgement of R114
finds, and that is not declared yet, raises bit 2 of SDL and, as a web break coming up does, halts
Sundial where its halt enable says so. Outside those halts position and mark stand; no byte of
memory changes. -/
def Obligations.Motion : Prop :=
  ∀ (s : State), s.printUp = true →
    let src := s.source
    (s.sdlOn = true → s.sdl.still = false → s.sdl.noSource = false →
      ∃ t, exec .standstill s = .next t ∧ t.sdl.still = true ∧ t.rd pgSPD SPD_SPEED_V = 0 ∧
        t.Raised (pgENC src.val) 4 ∧ t.pos = s.pos ∧ t.hwm = s.hwm ∧ s.SameMem t ∧
        s.SameRegs t (fun p o => (p = pgSPD ∧ o = 0x040) ∨ evWords (pgENC src.val) p o)) ∧
    (s.sdlOn = true → s.sdl.still = true →
      4096 ≤ (posDiff (s.encCount src) s.sdl.stillAt).natAbs →
      ∃ t, exec .standstillEnd s = .next t ∧ t.sdl.still = false ∧ s.SameMem t ∧
        s.SameRegs t (fun _ _ => False) ∧ { t with sdl := s.sdl, enc := s.enc } = s.fresh) ∧
    (s.sdlOn = true → s.sdl.reverse = false → (s.rd pgSDL SDL_REV_BAND_PU : Int) < posDiff s.hwm s.pos →
      ∃ t, exec .reverseEnter s = .next t ∧ t.sdl.reverse = true ∧ t.Raised (pgENC src.val) 3 ∧
        t.forward = false ∧ t.pos = s.pos ∧ t.hwm = s.hwm ∧ s.SameMem t ∧
        s.SameRegs t (evWords (pgENC src.val))) ∧
    (s.sdlOn = true → s.sdl.reverse = true → (s.rd pgSDL SDL_HYST_PU : Int) ≤ posDiff s.pos s.hwm →
      ∃ t, exec .reverseExit s = .next t ∧ t.sdl.reverse = false ∧ t.pos = s.pos ∧
        t.hwm = (if ahead s.pos s.hwm = true then s.pos else s.hwm) ∧ s.SameMem t ∧
        s.SameRegs t (fun p o => p = pgSDL ∧ (o = SDL_HWM_LO_POS.off ∨ o = SDL_HWM_HI_POS.off)) ∧
        { t with regs := s.regs, sdl := s.sdl } = s.fresh) ∧
    (s.sdl.falls = false ∨ s.sdl.declared = true → exec .speedCollapse s = .next s.fresh) ∧
    (s.bit pgSPD SPD_COLLAPSE_CFG_EN = true → s.sdl.falls = true → s.sdl.declared = false →
      ∃ t, exec .speedCollapse s = .next t ∧ t.Raised pgSDL 2 ∧ t.sdl.declared = true ∧ s.SameMem t ∧
        t.pos = s.pos ∧ t.hwm = s.hwm ∧
        (s.bit pgSDL SDL_HALT_ON_COLLAPSE = true → s.sdlOn = true →
          t.bit pgSDL SDL_STATUS_HALT_LATCHED = true)) ∧
    (∀ high, ∃ t, exec (.webBreakQualified high) s = .next t ∧ t.aon.webBreak = high ∧ s.SameMem t ∧
      t.pos = s.pos ∧ t.hwm = s.hwm ∧
      (high = true → s.aon.webBreak = false → s.bit pgSDL SDL_HALT_ON_BREAK = true →
        s.sdlOn = true → t.bit pgSDL SDL_STATUS_HALT_LATCHED = true) ∧
      (high = false → { t with aon := s.aon } = s.fresh))

/-- LOAD_POSITION with every schedule stopped loads position and mark and ends reverse; RESUME without
a source, onto a source that tracks, goes on from it with the position unchanged; ALIGN_CHECK with
a check encoder makes it eligible with difference 0; RELEASE_HALT without a web break clears the
latched halt. SDL's ENABLE is set at READY, with mark and position equal, and cleared with every
schedule stopped; else the write is dropped. No byte of memory changes. (A RESUME onto another
source raises no SOURCE_SWITCH, and the sign of the difference: the model's choice, log 97; the
check encoder aligned at ENABLE: its reading, log 59.) -/
def Obligations.SundialCommands : Prop :=
  ∀ (s : State) (r : Req),
    (s.Takes r pgSDL → s.schedulesStopped = true →
      ∃ t, exec (.loadPosition r 0) s = .next t ∧
        t.pos = BitVec.ofNat 48 (s.rd2 pgSDL SDL_POS_LOAD_LO_POS SDL_POS_LOAD_HI_POS) ∧
        t.hwm = t.pos ∧ t.sdl.reverse = false ∧ t.sdl.corr = 0 ∧ s.SameMem t ∧
        s.SameRegs t (fun p _ => p = pgSDL) ∧
        { t with regs := s.regs, sdl := s.sdl, commits := s.commits } = s.taken r pgSDL 1) ∧
    (s.Takes r pgSDL → s.sdl.noSource = true →
      s.tracking (encNum (s.ac pgSDL SDL_CFG_SOURCE)) = true →
      ∃ t, exec (.sdlResume r 0) s = .next t ∧ t.sdl.noSource = false ∧
        t.source = encNum (s.ac pgSDL SDL_CFG_SOURCE) ∧ t.pos = s.pos ∧ t.hwm = s.hwm ∧
        s.SameMem t ∧ s.SameRegs t (fun p o => (p = pgSDL ∧ o = 0x010) ∨ (p = pgSPD ∧ o = 0x040)) ∧
        { t with regs := s.regs, sdl := s.sdl, enc := s.enc } = s.taken r pgSDL 2) ∧
    (∀ m, s.Takes r pgSDL → s.checkEnc = some m →
      ∃ t, exec (.alignCheck r 0) s = .next t ∧ t.sdl.chkOk.get m = true ∧
        t.rd pgSDL SDL_CHECK_DIFF_PU = 0 ∧ s.SameMem t ∧
        s.SameRegs t (fun p o => p = pgSDL ∧ o = 0x070) ∧
        { t with regs := s.regs, sdl := s.sdl } = s.taken r pgSDL 3) ∧
    (s.TakesOff r pgSDL → s.bit pgSDL SDL_STATUS_HALT_LATCHED = true → s.aon.webBreak = false →
      ∃ t, exec (.releaseHalt r 0) s = .next t ∧ t.bit pgSDL SDL_STATUS_HALT_LATCHED = false ∧
        s.SameMem t ∧ s.SameRegs t (fun p o => p = pgSDL ∧ o = 0x010) ∧
        { t with regs := s.regs } = s.taken r pgSDL 4) ∧
    (s.open r pgSDL = true → s.sdlOn = false →
      (s.ready = true → ∃ t, exec (.sdlEnable r) s = .next t ∧ t.sdlOn = true ∧ t.sdl.once = true ∧
        t.hwm = t.pos ∧ (s.sdl.once = true → t.pos = s.pos) ∧ s.SameMem t) ∧
      (s.ready = false → ∃ t, exec (.sdlEnable r) s = .next t ∧ s.Dropped t r pgSDL)) ∧
    (s.open r pgSDL = true → s.sdlOn = true →
      (s.schedulesStopped = true → ∃ t, exec (.sdlDisable r) s = .next t ∧ t.sdlOn = false ∧
        t.pos = s.pos ∧ t.hwm = s.hwm ∧ s.SameMem t ∧
        s.SameRegs t (fun p o => (p = pgSDL ∧ o = 0x00C) ∨ s.powerWord p o)) ∧
      (s.schedulesStopped = false → ∃ t, exec (.sdlDisable r) s = .next t ∧ s.Dropped t r pgSDL))

/-- START of a stopped schedule, with Sundial on and a source, a pitch of at least 256 pu and at most
65,536 passed lines, runs it from the first line whose send deadline lies ahead, with print page
0; the trigger schedule likewise, with its count at 0. STOP ends it; of the commits of the head's
pages only those of mode 1 stay, and no line stays on its way, through Trellis or the link (log
76). ENABLE = 0 stops it too. No other schedule changes, and no byte of memory. (What becomes of
lines already issued at a STOP: the model's reading, log 76.) -/
def Obligations.ScheduleCommands : Prop :=
  ∀ (s : State) (r : Req),
    (∀ h : Fin 32, s.Takes r (pgHSC h.val) → (s.hscOf h.val).running = false → s.sdlOn = true →
      s.sdl.noSource = false → 256 ≤ s.ac (pgHSC h.val) HSC_PITCH_INT_PU →
      s.startSkips h.val ≤ 65536 →
      let g := s.geoActive h.val (s.firstCursor h.val).line
      let c := Cursor.forth [g] (s.startSkips h.val) (s.firstCursor h.val)
      ∃ t, exec (.hscStart r h 0) s = .next t ∧
        t.hscOf h.val = { running := true, geo := [g], tile := c.line, send := c, hit := c,
                          lastHit := (s.hscOf h.val).lastHit } ∧
        (∀ j, j ≠ h.val → t.hscOf j = s.hscOf j) ∧ t.rd (pgHSC h.val) HSC_PP_NUM_N = 0 ∧
        (s.startSkips h.val ≠ 0 → t.Raised (pgHSC h.val) 1) ∧ s.Within t [pgHSC h.val] ∧
        { t with regs := s.regs, hsc := s.hsc, ing := s.ing, ref := s.ref, gbk := s.gbk,
                 pcie := s.pcie, follies := s.follies } = s.taken r (pgHSC h.val) 1) ∧
    (∀ h : Fin 32, s.Takes r (pgHSC h.val) → (s.hscOf h.val).running = true →
      ∃ t, exec (.hscStop r h 0) s = .next t ∧ (t.hscOf h.val).running = false ∧
        (∀ j, j ≠ h.val → t.hscOf j = s.hscOf j) ∧ (t.onkOf h.val).flight = [] ∧
        (t.trlOf h.val).maps = [] ∧ s.SameMem t ∧
        ∀ p ∈ [pgHSC h.val, pgTRL h.val, pgFIR h.val, pgONK h.val], ∀ c,
          t.commitOf p = some c → c.mode = 1) ∧
    (s.Takes r pgTRG → s.trg.running = false → s.sdlOn = true → s.sdl.noSource = false →
      256 ≤ s.ac pgTRG TRG_PITCH_INT_PU → s.trgSkips ≤ 65536 →
      ∃ t, exec (.trgStart r 0) s = .next t ∧ t.trg.running = true ∧ t.trg.halved = false ∧
        t.trg.cmp = s.trgOrigin + BitVec.ofNat 64 (s.trgSkips * s.trgPitch) ∧
        (∀ k : Fin 6, t.trg.due.get k = [⟨t.trg.cmp, false⟩]) ∧
        t.rd2 pgTRG TRG_COUNT_LO_N TRG_COUNT_HI_N = 0 ∧ s.SameMem t ∧
        s.SameRegs t (fun p o => p = pgTRG ∧ (o = 0x058 ∨ o = 0x05C)) ∧
        { t with regs := s.regs, trg := s.trg } = s.taken r pgTRG 1) ∧
    (s.Takes r pgTRG → s.trg.running = true →
      ∃ t, exec (.trgStop r 0) s = .next t ∧ t.trg.running = false ∧
        (∀ k : Fin 6, t.trg.due.get k = []) ∧ s.SameMem t ∧
        s.SameRegs t (fun _ _ => False) ∧ { t with trg := s.trg } = s.taken r pgTRG 2) ∧
    (∀ h : Fin 32, s.open r (pgHSC h.val) = true →
      ∃ t, exec (.scheduleDisable r (some h)) s = .next t ∧ (t.hscOf h.val).running = false ∧
        t.bit (pgHSC h.val) UNIT_CTRL_ENABLE = false ∧
        (∀ j, j ≠ h.val → t.hscOf j = s.hscOf j) ∧ s.SameMem t) ∧
    (s.open r pgTRG = true →
      ∃ t, exec (.scheduleDisable r none) s = .next t ∧ t.trg.running = false ∧
        t.bit pgTRG UNIT_CTRL_ENABLE = false ∧ s.SameMem t ∧
        s.SameRegs t (fun p o => p = pgTRG ∧ o = 0x00C) ∧
        { t with regs := s.regs, trg := s.trg } = s.reached r pgTRG)

/-- A tile deadline that is reached goes on to the next line, and counts an incomplete line in LATE of
its head. A send deadline goes on to the next line and gives the line to Trellis, last of the
lines in mapping; outside folly 1 and pending commits of the head's pages, a line that lacks
planes raises STARVE and enters the starvation log while it holds fewer than 16, and a complete
one does neither. No byte of memory changes but where a commit of the nozzle table swaps its
banks. (That a line is complete by what its planes were a tick ago: the model's reading, log 77.)
When the running schedule reaches its compare value it counts and goes on by the pitch (twice of
it while halved), and each channel has a further trigger to place, unless its OFFSET has put it
past that one (trigDues). A channel whose next trigger's place, the compare value plus its OFFSET,
is reached takes it, and places the one after it where it has no other: on an enabled channel of a
present port a pulse begins, its edge placed to 250 ps, on any other nothing; a channel whose
place is not reached keeps its list and its pulse. A pulse ends once it has lasted its width or
the next one is near, and at no other time; its end drives the ball to its idle level and changes
nothing else. No byte of memory changes where no port's list is full. (A trigger placed ahead of
the schedule takes the pitch of the speed now: the model's choice, log 96.) -/
def Obligations.ScheduleEvents : Prop :=
  (∀ (s : State) (h : Fin 32), h.val < s.part.heads → s.issues = true →
    (s.hscOf h.val).running = true →
    let hs := s.hscOf h.val
    (s.at' (s.tileDeadline h.val hs.tile) = true →
      ∃ t, exec (.tileDeadline h) s = .next t ∧ t.hscOf h.val = { hs with tile := hs.tile + 1 } ∧
        (∀ j, j ≠ h.val → t.hscOf j = s.hscOf j) ∧
        t.rd pgING (ING_RIB_STAT_LATE h.val) =
          (if s.lineComplete h.val hs.tile = true then s.rd pgING (ING_RIB_STAT_LATE h.val)
           else min (s.rd pgING (ING_RIB_STAT_LATE h.val) + 1)
             (2 ^ (ING_RIB_STAT_LATE h.val).width - 1)) ∧ s.SameMem t ∧
        s.SameRegs t (fun p o => p = pgING ∧ o = (ING_RIB_STAT_LATE h.val).off) ∧
        { t with regs := s.regs, hsc := s.hsc } = s.fresh) ∧
    (s.at' (s.sendDeadlineOf h.val hs.send.line) = true →
      ∃ t m, exec (.sendDeadline h) s = .next t ∧ (t.hscOf h.val).send.line = hs.send.line + 1 ∧
        (t.hscOf h.val).running = true ∧ (∀ j, j ≠ h.val → t.hscOf j = s.hscOf j) ∧
        (t.trlOf h.val).maps = (s.trlOf h.val).maps ++ [m] ∧ m.line = hs.send.line ∧
        (s.commitOf (pgTRL h.val) = none → s.SameMem t) ∧
        (s.follyOn (pgHSC h.val) 1 = false → s.commitOf (pgHSC h.val) = none →
          s.commitOf (pgTRL h.val) = none → s.commitOf (pgONK h.val) = none →
          (s.lacksNow h.val hs.send.line ≠ 0 → t.Raised (pgHSC h.val) 0 ∧
            (s.ing.starved.length < 16 → t.ing.starved.length = s.ing.starved.length + 1)) ∧
          (s.lacksNow h.val hs.send.line = 0 → t.ing.starved = s.ing.starved ∧
            t.word (pgHSC h.val) 0x014 = s.word (pgHSC h.val) 0x014)))) ∧
  (∀ (s : State),
    (s.issues = true → s.trg.running = true →
      let falls := s.hitFalls s.trg.cmp
      let u := if falls = true then s.trigNext else s
      (falls = true → u.trg.halved = s.halving ∧
        u.trg.cmp = s.trg.cmp +
          BitVec.ofNat 64 (if s.halving = true then 2 * s.trgPitch else s.trgPitch) ∧
        ∀ k : Fin 6, u.trg.due.get k =
          trigDues s.trg.cmp ⟨u.trg.cmp, s.halving⟩ (s.trg.due.get k)) ∧
      ∃ t, exec .triggerHit s = .next t ∧ t.trg.running = true ∧ t.trg.cmp = u.trg.cmp ∧
        t.trg.halved = u.trg.halved ∧
        t.rd2 pgTRG TRG_COUNT_LO_N TRG_COUNT_HI_N =
          (s.rd2 pgTRG TRG_COUNT_LO_N TRG_COUNT_HI_N + b2n falls) % 2 ^ 64 ∧
        (∀ (k : Fin 6) d rest, u.trg.due.get k = d :: rest → s.hitFalls (s.trigAt k d) = true →
          t.trg.due.get k = (if rest = [] then [u.dueAfter d.cmp] else rest) ∧
          t.trg.pulse.get k =
            (if k.val < s.part.cams ∧ s.rd pgTRG (TRG_CH_EN k.val) = 1 then
              some (4 * s.now + s.edgePhase (s.trigAt k d)) else s.trg.pulse.get k)) ∧
        (∀ k : Fin 6, (∀ d rest, u.trg.due.get k = d :: rest → s.hitFalls (s.trigAt k d) = false) →
          t.trg.due.get k = u.trg.due.get k ∧ t.trg.pulse.get k = s.trg.pulse.get k) ∧
        ((∀ k : Fin 6, (s.camOf k.val).wait.length < 32) → s.SameMem t)) ∧
    (∀ k : Fin 6, s.pulseOver k = true →
      ∃ t, exec (.triggerPulseEnd k) s = .next t ∧ t.trg.pulse.get k = none ∧
        t.emitted = [.trigger k.val (s.trigLevel k.val false) (4 * s.now)] ∧ s.SameMem t ∧
        s.SameRegs t (fun _ _ => False) ∧
        { t with trg := s.trg, emitted := [] } = s.fresh) ∧
    (∀ k : Fin 6, s.pulseOver k = false → exec (.triggerPulseEnd k) s = .next s.fresh))

/-- A hit issues no earlier than HSC_MIN_PERIOD, and never less than 2,500 ns, after the one before, a
delayed one counting in HSC_LATE_LINES, and goes on to the next line; it shows the print page of
its line. With the firing block enabled, no commit pending on its page, no folly and no re-arm
waiting: a line that was not delivered is shown and counted in FIR_MISS with cause 1 and counted
in ONK_UNDELIV; one that was, whose line edge comes after the predecessor's train, starts a train
there and counts it; one whose predecessor's train still runs is shown with cause 2 and waits. No
byte of memory changes. (When a frame ends that the block on the wire delays: the model's choice,
log 54; whether a line hit while the block is off is a missed one: its choice, log 109.) -/
def Obligations.LineHits : Prop :=
  ∀ (s : State) (h : Fin 32),
    let hs := s.hscOf h.val
    let c := hs.hit.rebase (s.geos h.val)
    let p := pgFIR h.val
    let at' := s.hitTime h.val (s.follyOn (pgHSC h.val) 2)
    let hit : State := { s with now := at' }
    let edge := (s.edgePhase c.cmp : Int) + (geoAt hs.geo c.line).trim
    h.val < s.part.heads → s.issues = true → hs.running = true → hs.hit.line < hs.send.line → s.hitFalls c.cmp = true →
    ∃ t, exec (.lineHit h) s = .next t ∧ t.now = s.now ∧
      (t.hscOf h.val).hit.line = hs.hit.line + 1 ∧ (t.hscOf h.val).send = hs.send ∧
      (t.hscOf h.val).lastHit = some at' ∧ (∀ j, j ≠ h.val → t.hscOf j = s.hscOf j) ∧
      (∀ t0, hs.lastHit = some t0 → t0 + max 2500 (s.rd (pgHSC h.val) HSC_MIN_PERIOD_NS) ≤ at') ∧
      t.rd (pgHSC h.val) HSC_PP_NUM_N = c.num.toNat ∧ s.SameMem t ∧
      (s.now < at' → t.Raised (pgHSC h.val) 1 ∧
        t.rd (pgHSC h.val) HSC_LATE_LINES_N =
          min (s.rd (pgHSC h.val) HSC_LATE_LINES_N + 1) (2 ^ HSC_LATE_LINES_N.width - 1)) ∧
      (s.follies = [] → s.enabled p = true → s.commitOf p = none → (s.firOf h.val).rearm = false →
        ((hit.takeFlight h.val c.line).2 = false →
          t.rd p FIR_MISS_CAUSE = 1 ∧ t.rd p FIR_MISS_TAG = c.line % 256 ∧
          t.rd p FIR_MISS_COUNT =
            min (s.rd p FIR_MISS_COUNT + 1) (2 ^ FIR_MISS_COUNT.width - 1) ∧
          t.rd (pgONK h.val) ONK_UNDELIV_N =
            min (s.rd (pgONK h.val) ONK_UNDELIV_N + 1) (2 ^ ONK_UNDELIV_N.width - 1) ∧
          t.rd2 p FIR_TRAINS_LO_N FIR_TRAINS_HI_N = s.rd2 p FIR_TRAINS_LO_N FIR_TRAINS_HI_N) ∧
        ((hit.takeFlight h.val c.line).2 = true → hit.overlaps h.val edge = false →
          t.rd2 p FIR_TRAINS_LO_N FIR_TRAINS_HI_N =
            (s.rd2 p FIR_TRAINS_LO_N FIR_TRAINS_HI_N + 1) % 2 ^ 64 ∧
          (∃ x, (t.firOf h.val).train = some (at', x) ∧ x.line = c.line ∧ x.edge = edge) ∧
          (t.firOf h.val).missed = false) ∧
        ((hit.takeFlight h.val c.line).2 = true → hit.overlaps h.val edge = true →
          t.rd p FIR_MISS_CAUSE = 2 ∧ t.rd p FIR_MISS_TAG = c.line % 256 ∧
          (t.firOf h.val).deferred.length = (s.firOf h.val).deferred.length + 1))

/-- A train that waits starts 40 ns after the last fall of the one before, at a place kept to 250 ps,
and is counted; under a cut or without the crystal it does not leave the part. A rail sample while
PRINT is at level 2 is shown and dated. A strobe that is high for its limit, and fire time beyond
the duty limit, cut the head with their cause in FIR_CUT and their event, where the watchdog runs;
the fire time of each judged µs is what the pad drove in it, to 250 ps. REARM of cut heads, with
ESTOP_IN# high, the generators low and the duty below its limit, makes each wait for its re-arm
and changes nothing else. No byte of memory changes. (When the duty is judged, and what it is
judged from: the model's reading, log 84.) -/
def Obligations.FiringAndWatchdog : Prop :=
  ∀ (s : State),
    (∀ (h : Fin 32) x rest, (s.firOf h.val).deferred = x :: rest →
      (s.firOf h.val).lastFall ≤ 4 * (s.now : Int) → s.follyOn (pgFIR h.val) 1 = false →
      let base := ((s.firOf h.val).lastFall + 160).toNat
      let y : Train := { x with edge := ((base % 4 : Nat) : Int) }
      let held := s.isCut h.val || s.aon.xtalCut || s.aon.onRc
      ∃ t, exec (.trainDeferredStart h) s = .next t ∧ (t.firOf h.val).deferred = rest ∧
        (t.firOf h.val).train = some (base / 4, y) ∧
        t.rd2 (pgFIR h.val) FIR_TRAINS_LO_N FIR_TRAINS_HI_N =
          (s.rd2 (pgFIR h.val) FIR_TRAINS_LO_N FIR_TRAINS_HI_N + 1) % 2 ^ 64 ∧ s.SameMem t ∧
        (held = false → t.emitted = [.train h.val y] ∧ s.SameRegs t (fun p _ => p = pgFIR h.val) ∧
          { t with regs := s.regs, fir := s.fir, emitted := [] } = s.fresh) ∧
        (held = true → ∀ z, Emission.train h.val z ∉ t.emitted)) ∧
    (∀ (c : Fin 4) (mv : BitVec 16), s.levelOf .print = 2 →
      ∃ t, exec (.railSample c (some mv)) s = .next t ∧
        t.rd pgFIRroot (FIR_RAIL_MV c.val) = mv.toNat % 2 ^ (FIR_RAIL_MV c.val).width ∧
        t.railAt.get c = some s.now ∧ (∀ d, d ≠ c → t.railAt.get d = s.railAt.get d) ∧
        s.SameMem t) ∧
    (∀ h : Fin 32, s.watchdog h.val = true → s.stuckHigh h.val = true → s.isCut h.val = false →
      ∃ t, exec (.stuckStrobeCut h) s = .next t ∧ t.isCut h.val = true ∧
        t.strobePad h.val ≠ some true ∧
        t.rd (pgFIR h.val) FIR_CUT_STAT_CAUSE = 1 ∧ t.Raised (pgFIR h.val) 0 ∧
        s.Within t [pgFIR h.val, pgFIRroot]) ∧
    (∀ h : Fin 32, s.watchdog h.val = true → s.follyOn (pgFIR h.val) 2 = false →
      0 < s.binsDue h.val →
      let sum := ((s.takeBins h.val (s.binsDue h.val)).firOf h.val).duty
      let limit := 4 * s.dutyNs h.val
      ∃ t, exec (.dutyJudge h) s = .next t ∧ (t.firOf h.val).duty = sum ∧
        (∀ t0, (s.firOf h.val).judgedAt = some t0 → s.now < t0 + 2000 →
          (t.firOf h.val).bins =
            (s.fireSteps h.val t0 (t0 + 1000) :: (s.firOf h.val).bins).take 1000 ∧
          (t.firOf h.val).judgedAt = some (t0 + 1000)) ∧
        t.rd (pgFIR h.val) FIR_DUTY_PERMILLE = min (sum / 4000) 1000 ∧
        (s.isCut h.val = false → (t.isCut h.val = true ↔ limit < sum)) ∧
        (s.isCut h.val = false → limit < sum →
          t.rd (pgFIR h.val) FIR_CUT_STAT_CAUSE = 2 ∧ t.Raised (pgFIR h.val) 1) ∧
        s.Within t [pgFIR h.val, pgFIRroot]) ∧
    (∀ (r : Req) (arg : BitVec 16), s.Takes r pgFIRroot → s.aon.estop = true →
      arg.toNat < s.part.heads ∨ arg = 0x00FF → s.rearmHeads arg.toNat ≠ [] →
      (∀ h ∈ s.rearmHeads arg.toNat, s.isCut h = true ∧ s.genHigh h = false ∧
        (s.firOf h).duty < 4 * s.dutyNs h) →
      ∃ t, exec (.rearm r arg) s = .next t ∧
        (∀ h ∈ s.rearmHeads arg.toNat, (t.firOf h).rearm = true ∧ t.isCut h = true) ∧ s.SameMem t ∧
        s.SameRegs t (fun _ _ => False) ∧ { t with fir := s.fir } = s.taken r pgFIRroot 1)

/-- A datagram on the UDP port of a running network stream, at an ACTIVE port with NET at level 2 and
no folly armed there: a broken envelope is counted and touches no stream; a keepalive of a stream
that has started opens the hole up to its sequence number; a fragment that does not open is
counted in AUTH_FAILS with bit 0; one already received, or beyond the staging space, is counted in
DROPS. A first fragment of a tile, not its last, beyond every number received is held and its
bytes counted as used. A fragment that is a whole tile and passes the staging checks becomes the
newest tile, and its bytes stand in the staging ring, where memory in service holds it, from the
place that the ring gives them; no other byte of memory changes, and none in any other case.
(Where a tile stands in the ring: the model's choice, log 45; what a tile that can no longer be
whole gives back, log 44; where a keepalive opens no hole, log 98.) A running network stream that
has received a fragment sends its acknowledgement to its peer while a port is active. Where the
wait of a running stream's oldest holes ends, those within their retries are asked for once more
and GAPS counts, those beyond are abandoned with LOST and bit 1. A staged tile within its ring's
reach joins those that wait for the queue; one whose last line has passed its send deadline is
gone and rejected with code 6 and bit 2. No byte of memory changes. (The header of a request, and
the holes it lists: the model's choice, log 98.) -/
def Obligations.Streams : Prop :=
  (∀ (s : State) (p : Fin 2) (udp : BitVec 16) (src bs : List Byte) (i : Fin 4),
    let at' := fun n => (bs[n]?).getD 0
    let x := s.stmOf i
    let seq := BitVec.ofNat 32 (leAt at' 8 4)
    let tile := BitVec.ofNat 32 (leAt at' 16 4)
    s.tilePort p.val = true → s.armedFolly (pgNET p.val) = none → s.armedFolly (pgSTM i.val) = none →
    s.streamOfPort udp.toNat = some i →
    (envelopeOk i.val bs = false →
      ∃ t, exec (.tileFragment p udp src bs) s = .next t ∧ t.stm = s.stm ∧
        t.rd pgING ING_ENVELOPE_ERRS_N =
          min (s.rd pgING ING_ENVELOPE_ERRS_N + 1) (2 ^ ING_ENVELOPE_ERRS_N.width - 1) ∧
        t.ing.tiles = s.ing.tiles ∧ s.Within t [pgING]) ∧
    (envelopeOk i.val bs = true → s.stmRunning i.val = true → x.src = 0 →
      (leAt at' 3 1 = 2 → x.started = true →
        ∃ t, exec (.keepalive p udp src bs) s = .next t ∧
          t.stmOf i = x.openHole s.now seq false ∧ (∀ j, j ≠ i → t.stmOf j = s.stmOf j) ∧
          t.net.heard.get i = true ∧ (t.port p).lastRx = some s.now ∧ t.ing = s.ing ∧
          s.SameMem t ∧ s.SameRegs t (fun q o => q = pgNETroot ∧ o = NET_PATH_STAT_RIP_SILENT.off)) ∧
      (leAt at' 3 1 = 1 → s.openEnvelope i bs = none →
        ∃ t, exec (.tileFragment p udp src bs) s = .next t ∧ t.stm = s.stm ∧
          t.Raised (pgSTM i.val) 0 ∧ t.ing = s.ing ∧
          t.rd (pgSTM i.val) STM_AUTH_FAILS_N = min (s.rd (pgSTM i.val) STM_AUTH_FAILS_N + 1)
            (2 ^ STM_AUTH_FAILS_N.width - 1) ∧ s.Within t [pgSTM i.val, pgNETroot]) ∧
      (∀ pay, leAt at' 3 1 = 1 → s.openEnvelope i bs = some pay → x.started = true →
        (seqAfter seq x.cum = false ∨ x.free < pay.length →
          ∃ t, exec (.tileFragment p udp src bs) s = .next t ∧ t.stmOf i = { x with peer := src } ∧
            t.ing = s.ing ∧
            t.rd (pgSTM i.val) STM_DROPS_N = min (s.rd (pgSTM i.val) STM_DROPS_N + 1)
              (2 ^ STM_DROPS_N.width - 1) ∧ s.Within t [pgSTM i.val, pgNETroot]) ∧
        (seqAfter seq x.highest = true → seqAfter seq x.cum = true → pay.length ≤ x.free →
          x.frags = [] →
          (leAt at' 20 2 = 0 →
            ∃ t f, exec (.tileFragment p udp src bs) s = .next t ∧ (t.stmOf i).frags = [f] ∧
              f.seq = seq ∧ f.tileId = tile ∧ f.payload = pay ∧ (t.stmOf i).highest = seq ∧
              (t.stmOf i).used = x.used + pay.length ∧ t.ing.tiles = s.ing.tiles ∧
              s.Within t [pgSTM i.val, pgNETroot, pgNET 0, pgNET 1]) ∧
          (leAt at' 20 2 = 32768 → s.place i pay.length < x.size →
            s.stagingCode i (fun n => (pay[n]?).getD 0) pay.length (leAt at' 5 1)
              (readHdr (fun n => (pay[n]?).getD 0)).first false = 0 →
            let ofs := s.place i pay.length
            ∃ t u, exec (.tileFragment p udp src bs) s = .next t ∧ t.ing.tiles = s.ing.tiles ++ [u] ∧
              u.stream = i.val ∧ u.addr = x.base + ofs ∧ u.len = pay.length ∧ u.place = .staged ∧
              (s.memGone = false →
                (∀ j, j < pay.length → s.byteOk (x.base + (ofs + j) % x.size) = true) →
                ∀ j, j < pay.length →
                  t.byte (x.base + (ofs + j) % x.size) = (pay[j]?).getD 0) ∧
              (∀ a, (∀ j, j < pay.length → a ≠ x.base + (ofs + j) % x.size) →
                t.byte a = s.byte a)))))) ∧
  (∀ (s : State) (i : Fin 4),
    let x := s.stmOf i
    let pg := pgSTM i.val
    (∀ port, s.stmRunning i.val = true → x.started = true → x.src = 0 → s.activePort = some port →
      ∃ t bs, exec (.ackInterval i) s = .next t ∧ t.emitted = [.datagram port s.ownVlan x.peer bs] ∧
        s.SameMem t ∧ s.SameRegs t (fun p _ => p = pgNET port) ∧
        { t with regs := s.regs, emitted := [] } = s.fresh) ∧
    (s.stmRunning i.val = true → x.holes ≠ [] →
      let wait := max (s.rd pg STM_ACK_GAP_WAIT) 1
      let due := (x.holes.map (fun h => h.due wait)).tail.foldl min
        ((x.holes.map (fun h => h.due wait)).headD 0)
      let late := fun (h : Hole) => h.due wait == due && decide (s.rd pg STM_GAP_RETRIES ≤ h.asked)
      ∃ t, exec (.gapWaitExpiry i) s = .next t ∧
        (t.stmOf i).holes = (x.holes.filter (fun h => !late h)).map
          (fun h => if h.due wait = due then { h with asked := h.asked + 1 } else h) ∧
        (x.holes.any late = true → t.Raised pg 1 ∧
          t.rd pg STM_LOST_N = min (s.rd pg STM_LOST_N + ((x.holes.filter late).map Hole.count).sum)
            (2 ^ STM_LOST_N.width - 1)) ∧
        (x.holes.any late = false →
          t.rd pg STM_GAPS_N = min (s.rd pg STM_GAPS_N + 1) (2 ^ STM_GAPS_N.width - 1)) ∧
        t.ing = s.ing ∧ s.Within t [pg, pgNET 0, pgNET 1]) ∧
    (∀ (id : Nat) (u : Tile), s.tile? id = some u → u.stream = i.val → u.place = .staged →
      (s.hscOf u.head).running = true →
      ((s.hscOf u.head).send.line ≤ s.firstOf u + u.lines - 1 →
        s.firstOf u + u.lines - 1 < (s.hscOf u.head).send.line + (s.ribOf u.head).lines →
        ∃ t v, exec (.tileEligible i id) s = .next t ∧ t.tile? id = some v ∧
          (v.place = .waiting ∨ v.place = .queued) ∧ s.SameMem t ∧
          s.SameRegs t (fun p o => p = pgING ∧ o = ING_QUEUE_USED_N.off) ∧
          { t with regs := s.regs, ing := s.ing } = s.fresh) ∧
      (s.firstOf u + u.lines - 1 < (s.hscOf u.head).send.line →
        ∃ t, exec (.tileEligible i id) s = .next t ∧ t.tile? id = none ∧
          t.rd pg STM_REJECT_REASON = 6 ∧ t.Raised pg 2 ∧ s.Within t [pg, pgING])))

/-- A doorbell write stores TAIL. A descriptor that is ready with its tile: a length above 65,536
rejects it with code 4, too little staging space leaves everything as it was, a poisoned one
rejects it with code 8, and a readable plain tile is judged; each but the second moves HEAD on by
one and writes the descriptor's status word into host memory at its place in the ring. RING_RESET
of a running ring with an allowed size reads the ring's registers afresh, lifts the fence and
zeroes HEAD. A host read that times out counts and completes its descriptor as poisoned. (The code
of a tile that breaks more than one rule is that of the first of the model's checks, and is free
where the envelope fails: log 43.) -/
def Obligations.HostRing : Prop :=
  ∀ (s : State) (i : Fin 4),
    let x := s.stmOf i
    let pg := pgSTM i.val
    let head := s.rd pg STM_RING_HEAD_HEAD
    let done := fun (t : State) (c : Nat) =>
      t.rd pg STM_RING_HEAD_HEAD = ringIdx (head + 1) x.ringSize % 2 ^ STM_RING_HEAD_HEAD.width ∧
      .hostWrite (x.ringAddr + BitVec.ofNat 64 (16 * head + 12)) (leBytes 4 (1 + 16 * c)) ∈ t.emitted
    let rejected := fun (t : State) (c : Nat) =>
      done t c ∧ t.rd pg STM_REJECT_REASON = c ∧ t.Raised pg 2 ∧ t.ing = s.ing ∧ t.stm = s.stm
    (∀ (r : Req) (tail : BitVec 16), s.open r pg = true →
      ∃ t, exec (.ringDoorbell r i tail) s = .next t ∧
        t.rd pg STM_RING_TAIL_TAIL = tail.toNat % 2 ^ STM_RING_TAIL_TAIL.width ∧ s.SameMem t ∧
        s.SameRegs t (fun p o => p = pg ∧ o = STM_RING_TAIL_TAIL.off) ∧
        { t with regs := s.regs } = s.reached r pg) ∧
    (∀ (desc tile : List Byte) (bad : Bool), s.descriptorReady i = true →
      let len := leAt (fun n => (desc[n]?).getD 0) 8 4
      (65536 < len → ∃ t, exec (.descriptorRead i desc tile bad) s = .next t ∧ rejected t 4 ∧
        s.Within t [pg]) ∧
      (len ≤ 65536 → x.free < len →
        exec (.descriptorRead i desc tile bad) s = .next s.fresh) ∧
      (len ≤ 65536 → len ≤ x.free → bad = true →
        ∃ t, exec (.descriptorRead i desc tile bad) s = .next t ∧ rejected t 8 ∧ s.Within t [pg]) ∧
      (len ≤ 65536 → x.encrypted = false → len ≤ x.free → bad = false → tile.length = len →
        ∃ t c, exec (.descriptorRead i desc tile bad) s = .next t ∧ done t c ∧
          (c = 0 → t.ing.tiles.length = s.ing.tiles.length + 1 ∧
            (t.stmOf i).used = x.used + len) ∧
          (c ≠ 0 → t.ing = s.ing ∧ (t.stmOf i).used = x.used ∧ t.rd pg STM_REJECT_REASON = c % 16 ∧
            t.Raised pg 2 ∧ s.SameMem t))) ∧
    (∀ r : Req, s.Takes r pg → x.src = 1 → s.stmRunning i.val = true →
      ringSizeOk (s.rd pg STM_RING_SIZE_N) = true →
      ∃ t, exec (.ringReset r i 0) s = .next t ∧ (t.stmOf i).fenced = false ∧
        (t.stmOf i).ringSize = s.rd pg STM_RING_SIZE_N ∧
        (t.stmOf i).ringAddr = BitVec.ofNat 64 (s.rd2 pg STM_RING_LO_ADDR STM_RING_HI_ADDR) ∧
        t.rd pg STM_RING_HEAD_HEAD = 0 ∧ s.SameMem t ∧
        s.SameRegs t (fun p o => p = pg ∧ o = STM_RING_HEAD_HEAD.off) ∧
        { t with regs := s.regs, stm := s.stm } = s.taken r pg 3) ∧
    (s.descriptorReady i = true →
      ∃ t, exec (.dmaTimeout (.ring i)) s = .next t ∧ rejected t 8 ∧
        t.rd pgPCIE PCIE_CPL_TIMEOUTS_N =
          min (s.rd pgPCIE PCIE_CPL_TIMEOUTS_N + 1) (2 ^ PCIE_CPL_TIMEOUTS_N.width - 1) ∧
        s.Within t [pg, pgPCIE])

/-- START of an idle stream whose staging and ring are sound reads its configuration, empties its
sequence state and runs with TILES at 0. RESET and a cleared ENABLE of a running stream fence its
ring, drop its fragments, take its tiles that no kiosk holds out of staging and leave it
RESETTING; the end of the reset leaves none of its tiles, unlocks the command and reads IDLE or
DISABLED as ENABLE gives. A pass of a loop area that has been offered whole counts the next one. A
VF's function-level reset counts, fences the stream's ring, resets a running stream, and performs
the reset's steps at once on an idle or disabled one; the PF's fences every ring and ends the VFs
and the virtual interface. No byte of memory changes. (How a running stream's tiles that kiosks
hold end, and the first START: the model's reading, log 77.) -/
def Obligations.StreamRuns : Prop :=
  ∀ (s : State) (i : Fin 4),
    let pg := pgSTM i.val
    let resetting := fun (t : State) =>
      t.stmState i.val = 3 ∧ t.bit pg UNIT_STATUS_CMD_BUSY = true ∧ (t.stmOf i).fenced = true ∧
      (t.stmOf i).frags = [] ∧
      (∀ u ∈ t.ing.tiles, u.stream = i.val →
        ∃ v ∈ s.ing.tiles, v.id = u.id ∧ v.stream = i.val ∧ ∃ k, v.place = .kiosk k)
    let ended := fun (t : State) =>
      (∀ u ∈ t.ing.tiles, u.stream ≠ i.val) ∧ (t.stmOf i).started = false ∧
      (t.stmOf i).holes = [] ∧ (t.stmOf i).used = 0 ∧ (t.stmOf i).wasReset = true ∧
      t.stmState i.val = (if s.bit pg UNIT_CTRL_ENABLE = true then 1 else 0)
    (∀ r : Req, s.Takes r pg → s.stmState i.val = 1 → s.startBad i = false →
      s.rd pg STM_CFG_SRC ≠ 2 →
      ∃ t, exec (.stmStart r i 0) s = .next t ∧ t.stmOf i = s.stmRead i ∧ t.stmState i.val = 2 ∧
        t.rd2 pg STM_TILES_LO_N STM_TILES_HI_N = 0 ∧ (∀ j, j ≠ i → t.stmOf j = s.stmOf j) ∧
        t.ing.tiles = s.ing.tiles ∧ s.SameMem t ∧ s.SameRegs t (fun p _ => p = pg) ∧
        { t with regs := s.regs, stm := s.stm, ing := s.ing, net := s.net } = s.taken r pg 1) ∧
    (∀ r : Req, s.TakesOff r pg → s.stmState i.val ≠ 0 →
      ∃ t, exec (.stmReset r i 0) s = .next t ∧ resetting t ∧ s.Within t [pg, pgING]) ∧
    (s.stmState i.val = 3 →
      ∃ t, exec (.streamResetDone i) s = .next t ∧ ended t ∧
        t.bit pg UNIT_STATUS_CMD_BUSY = false ∧ s.SameMem t) ∧
    (∀ r : Req, s.open r pg = true →
      ∃ t, exec (.stmDisable r i) s = .next t ∧ t.bit pg UNIT_CTRL_ENABLE = false ∧
        s.Within t [pg, pgING] ∧ (s.stmState i.val = 2 → resetting t) ∧
        (s.stmState i.val ≠ 2 → s.stmState i.val ≠ 3 → t.stmState i.val = 0)) ∧
    (s.stmRunning i.val = true → (s.stmOf i).src = 2 → (s.stmOf i).loopLines ≠ 0 →
      (∀ u ∈ s.ing.tiles, u.stream = i.val → u.place ≠ .staged) →
      ∃ t, exec (.loopPass i) s = .next t ∧ s.Within t [pg] ∧
        t.rd pg STM_LOOP_PASS_N = (s.rd pg STM_LOOP_PASS_N + 1) % 2 ^ STM_LOOP_PASS_N.width) ∧
    (s.bit pgPCIE PCIE_LINK_UP = true → i.val < s.rd pgPCIE PCIE_VF_NUM_VFS →
      ∃ t, exec (.vfFlr i) s = .next t ∧ (t.stmOf i).fenced = true ∧
        t.rd pgPCIE PCIE_FLR_LAST = i.val + 1 ∧ t.Raised pgPCIE 1 ∧
        (s.stmRunning i.val = true → resetting t) ∧ s.SameMem t ∧
        (s.stmState i.val = 2 ∨ s.stmState i.val = 3 → s.Within t [pg, pgING, pgPCIE]) ∧
        (s.stmState i.val ≠ 2 → s.stmState i.val ≠ 3 → ended t)) ∧
    (s.bit pgPCIE PCIE_LINK_UP = true →
      ∃ t, exec .pfFlr s = .next t ∧ (∀ j, (t.stmOf j).fenced = true) ∧
        t.net.vni.fenced = true ∧ t.rd pgPCIE PCIE_VF_NUM_VFS = 0 ∧
        t.bit pgNETroot VNI_CTRL_EN = false ∧ t.rd pgPCIE PCIE_FLR_LAST = 0 ∧
        t.Raised pgPCIE 1 ∧ t.ing = s.ing ∧ s.Within t [pgPCIE, pgNETroot])

/-- While PRINT runs, an idle kiosk in the pool takes the tile that R147 gives it, and waits for its
data. At the tile's first block the data come from staging into the kiosk's buffer, and no other
byte of memory changes; what a block reads in error of its buffer is found with it. With no folly
armed, a block of a sound tile that is not its last moves the tile on in the same kiosk where the
stream runs, the tile's last line has not passed and nothing keeps the kiosk out; the last block
of a sound tile counts it, frees it and leaves the kiosk idle; either writes the block's dots into
the ribbon at the place of its line and column, and no other byte of memory, and none where the
line's send deadline has passed. A poisoned tile is rejected with code 8 and POISON_SEEN, one that
breaks the bitstream's rules with code 9 after the cycles of the dots before the break have been
counted, and both are gone with no byte of memory changed. (That a kiosk waits for its data until
its first block, the order of dots in the ribbon, what a failed or broken tile has counted, and
the frequency taken for a kiosk: the model's choice, logs 42, 46, 96 and 77.) -/
def Obligations.KioskDecoding : Prop :=
  ∀ (s : State) (k : Fin 96), k.val < s.part.kiosks → s.printRuns = true →
    let pg := pgKSK k.val
    (∀ u, s.kioskState k.val = 1 → s.keptOut k.val = false → s.choose k.val = some u →
      ∃ t, exec (.kioskTakeTile k) s = .next t ∧ t.holding k.val = .tile u.id ∧
        t.kioskState k.val = 2 ∧ (∀ v ∈ t.ing.tiles, v.id = u.id → v.place = .kiosk k.val) ∧
        t.ing.waits.contains k.val = true ∧
        s.SameMem t ∧ s.SameRegs t (fun p o => p = pg ∧ o = 0x010) ∧
        { t with regs := s.regs, ing := s.ing } = s.fresh) ∧
    (∀ (errs : List SramErr) id u, s.holding k.val = .tile id → s.tile? id = some u → u.id = id →
      u.stream < 4 → s.armedFolly pg = none →
      let src := fun j => if u.ringSize = 0 then u.addr + j
        else u.ringBase + (u.addr - u.ringBase + j) % u.ringSize
      let f0 := s.fresh.fetched k.val u
      let f := f0.sramErrs (kioskBuf k.val) u.len errs
      let n := s.firstOf u + u.dec.line
      let rib := s.ribOf u.head
      let writes := fun (t : State) (b : BlockOut) =>
        let pad := if b.dec.line ≠ u.dec.line then List.replicate (rib.width * 64 - u.width) 0 else []
        let a := rib.planeAddr u.stream n + u.dec.col * 3 / 8
        let bytes := packDots ((b.dots ++ pad).take (rib.width * 64 - u.dec.col))
        (n < (s.hscOf u.head).send.line → ∀ x, t.byte x = f.byte x) ∧
        (∀ x, x < a ∨ a + bytes.length ≤ x → t.byte x = f.byte x) ∧
        ((s.hscOf u.head).send.line ≤ n →
          ∀ j, j < bytes.length → t.byte (a + j) = (bytes[j]?).getD 0)
      (s.ing.waits.contains k.val = false → f0 = s.fresh) ∧ (∀ x, f.byte x = f0.byte x) ∧
      (s.ing.waits.contains k.val = true → u.rewrite = false →
        (∀ x, x < kioskBuf k.val ∨ kioskBuf k.val + (u.len + 7) / 8 * 8 ≤ x → f0.byte x = s.byte x) ∧
        (s.memGone = false → 0 < u.len →
          (u.ringSize = 0 ∨
            (u.ringBase ≤ u.addr ∧ u.addr < u.ringBase + u.ringSize ∧ u.len ≤ u.ringSize)) →
          (∀ j, j < u.len → src j < sramBase) →
          ∀ j, j < u.len → f0.byte (kioskBuf k.val + j) = s.devByte (src j))) ∧
      (∀ b, f.tileBad k.val u = false → f.nextBlock u = some b →
        (u.lastBlock = false → s.stmRunning u.stream = true →
          (s.hscOf u.head).send.line < s.firstOf u + u.lines → s.keptOut k.val = false →
          ∃ t v, exec (.kioskBlockEnd k errs) s = .next t ∧ t.holding k.val = .tile id ∧
            t.tile? id = some v ∧ v.dec = b.dec ∧ v.counted = u.counted + b.cycles ∧ writes t b) ∧
        (u.lastBlock = true → s.keptOut k.val = false →
          tileEndOk (tileBit (f.tileByte u)) (f.tileByte u) u.len b.dec.bitPos = true →
          ∃ t, exec (.tileDecoded k errs) s = .next t ∧ t.holding k.val = .nothing ∧
            t.tile? id = none ∧ t.kioskState k.val = 1 ∧
            t.rd2 pg WK_TILES_LO_N WK_TILES_HI_N = (s.rd2 pg WK_TILES_LO_N WK_TILES_HI_N + 1) %
              2 ^ (WK_TILES_LO_N.width + WK_TILES_HI_N.width) ∧ writes t b)) ∧
      (f.tileBad k.val u = true →
        (u.lastBlock = false → ∃ t, exec (.kioskBlockEnd k errs) s = .next t ∧ t.tile? id = none ∧
          t.bit pg UNIT_STATUS_POISON_SEEN = true ∧ t.rd (pgSTM u.stream) STM_REJECT_REASON = 8 ∧
          t.Raised (pgSTM u.stream) 2 ∧ f.SameMem t) ∧
        (∃ t, exec (.tileDecoded k errs) s = .next t ∧ t.tile? id = none ∧
          t.bit pg UNIT_STATUS_POISON_SEEN = true ∧ t.rd (pgSTM u.stream) STM_REJECT_REASON = 8 ∧
          t.Raised (pgSTM u.stream) 2 ∧ f.SameMem t)) ∧
      (f.tileBad k.val u = false → f.nextBlock u = none →
        ∃ t, exec (.tileDecoded k errs) s = .next t ∧ t.tile? id = none ∧
          t.rd2 pg WK_CYCLES_LO_N WK_CYCLES_HI_N = (s.rd2 pg WK_CYCLES_LO_N WK_CYCLES_HI_N +
            f.spent u) % 2 ^ (WK_CYCLES_LO_N.width + WK_CYCLES_HI_N.width) ∧
          t.rd (pgSTM u.stream) STM_REJECT_REASON = 9 ∧ t.Raised (pgSTM u.stream) 2 ∧ f.SameMem t))

/-- While PRINT runs and the speed is positive the admission check shows the demand, and demand above
the limit raises bit 1 of ING while that is armed; a lookahead below its threshold raises bit 3
while that is armed. APPLY_RIBBONS with a sound table and no running head changed puts every
head's entry into force, emptied where it changed. WITHDRAW takes each kiosk beneath its page that
is not retired out of the pool, at once where it does not decode, and RETURN lets each back that
nothing else keeps out; live capacity follows. A read of the starvation log takes its oldest entry
into the reader's slot, and of the second word out of it. No byte of memory changes. -/
def Obligations.IngestChecks : Prop :=
  ∀ (s : State),
    (s.printRuns = true → 0 < s.rdS pgSPD SPD_SPEED_V →
      let v := s.rdS pgSPD SPD_SPEED_V
      let w := s.rd pgING ING_ADMIT_WINDOW_PU
      let due := s.ing.tiles.filter (fun u =>
        decide (0 ≤ posDiff (s.deadlineOf u) s.pos) && decide (posDiff (s.deadlineOf u) s.pos ≤ w))
      let num := (max (due.map (fun u => (u.cost : Int) - u.counted)).sum 0) * v
      let den : Int := s.rd pgING ING_LIVE_CAP_CYCLES * w * 65536
      ∃ t, exec .admissionCheck s = .next t ∧
        (0 < den → t.rd pgING ING_DEMAND_PERMILLE = (min (num * 1000 / den) 65535).toNat) ∧
        (s.rd pgING ING_ADMIT_CFG_PCT ≠ 0 → den * s.rd pgING ING_ADMIT_CFG_PCT < num * 100 →
          s.ing.admitArmed = true → t.Raised pgING 1 ∧ t.ing.admitArmed = false) ∧
        t.ing.tiles = s.ing.tiles ∧ s.SameMem t ∧
        s.SameRegs t (fun p o => (p = pgING ∧ o = ING_DEMAND_PERMILLE.off) ∨ evWords pgING p o) ∧
        { t with regs := s.regs, ing := s.ing, gbk := s.gbk, pcie := s.pcie, follies := s.follies } =
          s.fresh) ∧
    (∀ d ds, s.printRuns = true → s.lookaheads = d :: ds →
      ∃ t, exec .lookaheadCheck s = .next t ∧ s.SameMem t ∧ s.SameRegs t (evWords pgING) ∧
        (s.rd pgING ING_LOOKAHEAD_LOW_PU ≠ 0 → ds.foldl min d < s.rd pgING ING_LOOKAHEAD_LOW_PU →
          s.ing.lookArmed = true → t.Raised pgING 3 ∧ t.ing.lookArmed = false) ∧
        { t with regs := s.regs, ing := s.ing, gbk := s.gbk, pcie := s.pcie, follies := s.follies } =
          s.fresh) ∧
    (∀ r : Req, s.Takes r pgING → s.ribbonsBad = false →
      (∀ h, h < s.part.heads → s.ribChanged h = true → (s.hscOf h).running = false) →
      ∃ t, exec (.applyRibbons r 0) s = .next t ∧ (∀ h, h < s.part.heads → t.ribChanged h = false) ∧
        (∀ h, h < s.part.heads → s.ribChanged h = true →
          (t.ribOf h).written = [] ∧ (t.ribOf h).blank = [] ∧ (t.ribOf h).busy = []) ∧
        (∀ h, s.ribChanged h = false → t.ribOf h = s.ribOf h) ∧ t.ing.tiles = s.ing.tiles ∧
        s.SameMem t ∧ s.SameRegs t (fun _ _ => False) ∧ { t with ing := s.ing } = s.taken r pgING 1) ∧
    (∀ (r : Req) (page : BitVec 12), s.Takes r page.toNat → s.kiosksOf page.toNat ≠ [] →
      (∃ k ∈ s.kiosksOf page.toNat, s.bit (pgKSK k) WK_OUT_RETIRED = false) →
      (∃ t, exec (.kioskWithdraw r page 0) s = .next t ∧ s.SameMem t ∧
        t.rd pgING ING_LIVE_CAP_CYCLES =
          t.capacityOf (List.range 96) % 2 ^ ING_LIVE_CAP_CYCLES.width ∧
        (∀ k ∈ s.kiosksOf page.toNat, s.bit (pgKSK k) WK_OUT_RETIRED = false →
          t.bit (pgKSK k) WK_OUT_HOST = true ∧ (s.kioskState k ≠ 2 → t.inPool k = false))) ∧
      (∃ t, exec (.kioskReturn r page 0) s = .next t ∧ s.SameMem t ∧
        t.rd pgING ING_LIVE_CAP_CYCLES =
          t.capacityOf (List.range 96) % 2 ^ ING_LIVE_CAP_CYCLES.width ∧
        (∀ k ∈ s.kiosksOf page.toNat, s.bit (pgKSK k) WK_OUT_RETIRED = false →
          t.bit (pgKSK k) WK_OUT_HOST = false ∧
          (t.keptOut k = false → s.kioskState k = 0 → t.kioskState k = 1)))) ∧
    (∀ r : Req, s.open r pgING = true →
      (∃ t, exec (.starveLogReadLo r) s = .next t ∧ t.ing.starved = s.ing.starved.tail ∧
        t.emitted = [.readData r (((s.ing.starved.head?).map Starved.lo).getD 0)] ∧
        t.snapSlot r pgING = [(0x05C, ((s.ing.starved.head?).map Starved.hi).getD 0)] ∧
        s.SameMem t ∧ s.SameRegs t (fun _ _ => False) ∧
        { t with ing := s.ing, host := s.host, gkpSide := s.gkpSide, emitted := [] } =
          s.reached r pgING) ∧
      (∃ t w, exec (.starveLogReadHi r) s = .next t ∧ t.emitted = [.readData r w] ∧
        t.ing = s.ing ∧ (∀ x, (s.snapSlot r pgING).lookup 0x05C = some x → w = x) ∧ s.SameMem t ∧
        s.SameRegs t (fun _ _ => False) ∧
        { t with host := s.host, gkpSide := s.gkpSide, emitted := [] } = s.reached r pgING))

/-- While PRINT runs, the oldest line in mapping is handed over: with no folly and nothing poisoned it
counts while mapping is enabled, and is a line of level 0, not counted, while it is not; its
levels go out on its lane between LINE_START and LINE_END where the lane has been UP since the
send deadline; a poisoned group of its ribbon sets POISON_SEEN and raises bit 0. The end of a bank
copy makes the shadow bank byte by byte what the active bank is, and the page CLEAN. Outside a
copy a read of the table's window answers the entry's word without its reserved bits; a write
stores it into the shadow bank and makes the page DIRTY, and is dropped where ACTIVE is set or a
commit pends; while the banks are copied either is held. LOAD_DEFAULT makes the page DIRTY and
CMD_BUSY, its end, outside a copy, writes R198's entries into the shadow bank and leaves the page
DIRTY; REVERT starts a copy. SET_OUT of a sound nozzle sets its OUT bit (and its partner's) in the
shadow bank and arms a commit on each page concerned. No byte of memory changes but those named.
(Where the banks stand, and the word of a codeword that a write of 4 bytes rewrites: the model's
choice, log 50; a swap before the last copy has ended, log 51; the whole line mapped at its
hand-over, and what OUT_LAST keeps, log 78; the order of held accesses, log 105.) -/
def Obligations.Trellis : Prop :=
  ∀ (s : State) (h : Fin 32), h.val < s.part.heads →
    let pg := pgTRL h.val
    let b := (s.trlOf h.val).bank
    (∀ m rest, (s.trlOf h.val).maps = m :: rest → s.printRuns = true →
      s.follies = [] →
      (s.poison = [] → (s.trlOf h.val).differs = false →
        let levels := s.mapLevels h.val m [] []
        let tag : Byte := BitVec.ofNat 8 m.line
        ∃ t, exec (.trellisHandover h [] [] []) s = .next t ∧ (t.trlOf h.val).maps = rest ∧
          t.rd2 pg TRL_LINES_LO_N TRL_LINES_HI_N =
            (s.rd2 pg TRL_LINES_LO_N TRL_LINES_HI_N + b2n (s.maps h.val)) % 2 ^ 64 ∧
          (s.maps h.val = false → ∀ l ∈ levels, l = 0) ∧
          s.SameMem t ∧ s.SameRegs t (fun p _ => p = pg ∨ p = pgONK h.val) ∧
          (∀ f, (s.onkOf h.val).flight.find? (fun f => f.line == m.line && !f.framed) = some f →
            f.ok = true → s.laneUp h.val = true → (s.onkOf h.val).commit = none →
            t.emitted = [.onk h.val (ctrlBlock 0x10 ([tag, if (s.onkOf h.val).resync then 1 else 0] ++
                leBytes 2 levels.length)) (linePayload levels),
              .onk h.val (ctrlBlock 0x11 ([tag, 0, 0] ++ leBytes 4 (crc32c (linePayload levels)).toNat))
                []])) ∧
      (∀ groups, s.maps h.val = true → (∃ g ∈ groups, (planesOf (s.ribOf h.val).layers).contains g.1.val = true ∧
          g.2.val < (s.ribOf h.val).width) →
        ∃ t, exec (.trellisHandover h groups [] []) s = .next t ∧ (t.trlOf h.val).maps = rest ∧
          t.bit pg UNIT_STATUS_POISON_SEEN = true ∧ t.Raised pg 0 ∧ s.SameMem t)) ∧
    (∀ page : BitVec 12, page.toNat = pg → s.trlState h.val = bkSYNCING →
      (∀ m ∈ (s.trlOf h.val).maps, m.bank = b) → (s.trlOf h.val).held = [] →
      (s.trlOf h.val).again = false →
      ∃ t, exec (.bankSyncDone page) s = .next t ∧ t.trlState h.val = bkCLEAN ∧
        (∀ j, j < trlBankBytes →
          t.byte (trlBank h.val (!b) + j) = s.byte (trlBank h.val b + j)) ∧
        (∀ a, a < trlBank h.val (!b) ∨ trlBank h.val (!b) + trlBankBytes ≤ a →
          t.byte a = s.byte a) ∧ (∀ a, t.fbyte a = s.fbyte a) ∧
        s.SameRegs t (fun p o => p = pg ∧ (o = 0x010 ∨ o = TRL_OUT_ACTIVE_N.off))) ∧
    (∀ (r : Req) (w : Fin 4), s.open r pg = true →
      let i := min (s.rd pg TRL_TBL_INDEX_NOZZLE) 5119
      let active := s.bit pg TRL_TBL_INDEX_ACTIVE
      let a := trlEntry h.val (if active then b else !b) i + 4 * w.val
      let moves := fun (t : State) => t.rd pg TRL_TBL_INDEX_NOZZLE =
        if w = 3 then (if i = 5119 then 0 else i + 1) else s.rd pg TRL_TBL_INDEX_NOZZLE
      (s.trlState h.val ≠ bkSYNCING →
        (∃ t, exec (.trlTblAccess r h w none) s = .next t ∧ moves t ∧
          t.emitted = [.readData r (BitVec.ofNat 32 (s.mem32 a) &&& trlMask w.val)] ∧ s.SameMem t ∧
          s.SameRegs t (fun p o => p = pg ∧ o = TRL_TBL_INDEX_NOZZLE.off) ∧
          { t with regs := s.regs, emitted := [] } = s.reached r pg) ∧
        (∀ v, active = false → s.commitOf pg = none →
          ∃ t, exec (.trlTblAccess r h w (some v)) s = .next t ∧ moves t ∧
            t.mem32 a = (v &&& trlMask w.val).toNat ∧ t.trlState h.val = bkDIRTY ∧
            (∀ x, x < a ∨ a + 4 ≤ x → t.byte x = s.byte x) ∧ (∀ x, t.fbyte x = s.fbyte x) ∧
            s.SameRegs t (fun p o => p = pg ∧ (o = TRL_TBL_INDEX_NOZZLE.off ∨ o = 0x010))) ∧
        (∀ v, active = true ∨ s.commitOf pg ≠ none → w ≠ 3 →
          ∃ t, exec (.trlTblAccess r h w (some v)) s = .next t ∧ s.Dropped t r pg)) ∧
      (∀ v, s.trlState h.val = bkSYNCING →
        ∃ t, exec (.trlTblAccess r h w v) s = .next t ∧
          (t.trlOf h.val).held = (s.trlOf h.val).held ++ [.window r w.val v] ∧ s.SameMem t ∧
          s.SameRegs t (fun _ _ => False) ∧ { t with trl := s.trl } = s.reached r pg)) ∧
    (∀ r : Req, s.TakesOff r pg → s.commitOf pg = none → s.trlState h.val ≠ bkSYNCING →
      (∃ t, exec (.trlLoadDefault r h 0) s = .next t ∧ t.trlState h.val = bkDIRTY ∧
        t.bit pg UNIT_STATUS_CMD_BUSY = true ∧ s.SameMem t ∧
        s.SameRegs t (fun p o => p = pg ∧ o = 0x010) ∧ { t with regs := s.regs } = s.taken r pg 1) ∧
      (∃ t, exec (.trlRevert r h 0) s = .next t ∧ t.trlState h.val = bkSYNCING ∧ s.SameMem t ∧
        s.SameRegs t (fun p o => p = pg ∧ o = 0x010) ∧ { t with regs := s.regs } = s.taken r pg 2)) ∧
    (s.bit pg UNIT_STATUS_CMD_BUSY = true → s.trlState h.val ≠ bkSYNCING →
      ∃ t, exec (.trlLoadDefaultDone h) s = .next t ∧ t.bit pg UNIT_STATUS_CMD_BUSY = false ∧
        t.trlState h.val = bkDIRTY ∧
        (∀ i j, i < 5120 → j < 16 →
          t.byte (trlEntry h.val (!b) i + j) = ((trlDefault i)[j]?).getD 0) ∧
        (∀ a, a < trlBank h.val (!b) ∨ trlBank h.val (!b) + trlBankBytes ≤ a →
          t.byte a = s.byte a) ∧ (∀ a, t.fbyte a = s.fbyte a) ∧
        s.SameRegs t (fun p o => p = pg ∧ o = 0x010)) ∧
    (∀ r : Req, s.Takes r pgTRLroot →
      let g := s.rd pgTRLroot TRL_OUT_REQ_NOZZLE
      let v := s.bit pgTRLroot TRL_OUT_REQ_VALUE
      let e := s.shadowNozzle g
      let w0 := fun (n : Nat) => trlEntry (n / 5120) (!(s.trlOf (n / 5120)).bank) (n % 5120)
      s.outBad g = false →
      (∀ q ∈ s.outHeads g, s.bit (pgTRL q) UNIT_CTRL_ENABLE = true ∧ s.commitOf (pgTRL q) = none ∧
        s.trlState q = bkCLEAN) →
      ∃ t, exec (.setOut r 0) s = .next t ∧ (t.shadowNozzle g).out = v ∧
        (e.partnered = true → (t.shadowNozzle e.partner).partnerOut = v) ∧
        (∀ q ∈ s.outHeads g, (t.commitOf (pgTRL q)).isSome = true ∧ t.trlState q = bkDIRTY) ∧
        t.bit pgTRLroot TRL_OUT_LAST_PAIRED = e.partnered ∧
        (∀ x, (x < w0 g ∨ w0 g + 4 ≤ x) →
          (e.partnered = true → x < w0 e.partner ∨ w0 e.partner + 4 ≤ x) → t.byte x = s.byte x))

/-- On a lane that is UP with no folly armed: a NAK counts, and the framed line it names goes out once
more where the retry and the next line meet the margin of R223, or is not sent; a TRAIN report
shows its tags and takes the oldest report that is awaited, and one that differs counts as a
mismatch, raises bit 3 and flushes the lane; an empty one counts; a report that stays away is a
mismatch; a temperature, which the lane hears unless it is in near-end loopback, is shown on the
firing page and ends RET_LATE; a status word is shown with its time; a return that stays away sets
RET_LATE and raises bit 4. A block that is no legal one counts in ERRS.BLOCK; far-end loopback
sends it back as it came, and a near-end one does not look at it. No byte of memory changes. (When
a frame that goes again still fits, and what delays it: the model's choice, logs 53 and 54; what
the rows of blocks bring, log 79.) -/
def Obligations.LaneTraffic : Prop :=
  ∀ (s : State) (h : Fin 32), h.val < s.part.heads → s.armedFolly (pgONK h.val) = none →
    let pg := pgONK h.val
    let x := s.onkOf h.val
    let mismatch := fun (t : State) =>
      t.Raised pg 3 ∧ t.bit pg ONK_STATUS_SYNCED = false ∧ (t.onkOf h.val).resync = true ∧
      t.rd pg ONK_MISMATCH_N = min (s.rd pg ONK_MISMATCH_N + 1) (2 ^ 32 - 1)
    (∀ tag : Byte, s.laneUp h.val = true →
      let found := x.flight.find? (fun f => f.framed && decide (f.line % 256 = tag.toNat))
      ∃ t, exec (.onkNak h tag) s = .next t ∧ s.Within t [pg] ∧
        t.rd pg ONK_ERRS_CRC = min (s.rd pg ONK_ERRS_CRC + 1) 65535 ∧
        (found = none → (t.onkOf h.val).flight = x.flight ∧ t.emitted = []) ∧
        (∀ f, found = some f →
          if f.ok = true ∧ f.retried = false ∧ s.retryFits h.val f = true then
            t.emitted.length = 2 ∧
            (∀ g ∈ (t.onkOf h.val).flight, g.line = f.line → g.retried = true) ∧
            t.rd pg ONK_EMPTY_RETRIES = min (s.rd pg ONK_EMPTY_RETRIES + 1) 65535
          else
            t.emitted = [] ∧
            ∀ g ∈ (t.onkOf h.val).flight, g.line = f.line → g.naked = true)) ∧
    (∀ (tag expect : Byte) (empty unsynced : Bool), s.laneUp h.val = true →
      ∃ t, exec (.trainReport h tag expect empty unsynced) s = .next t ∧ s.Within t [pg] ∧
        t.rd pg ONK_TAG_FIRED = tag.toNat ∧ t.rd pg ONK_TAG_EXPECT = expect.toNat ∧
        (t.onkOf h.val).reports = x.reports.tail ∧
        (∀ line rest, x.reports = line :: rest →
          (line % 256 ≠ expect.toNat ∨ (unsynced = true ∧ s.bit pg ONK_STATUS_SYNCED = true) →
            mismatch t) ∧
          (line % 256 = expect.toNat → unsynced = false → empty = true →
            t.rd pg ONK_EMPTY_N = min (s.rd pg ONK_EMPTY_N + 1) 65535) ∧
          (line % 256 = expect.toNat → unsynced = false → empty = false →
            s.SameRegs t (fun p o => p = pg ∧ o = 0x058)))) ∧
    (∀ line rest, x.reports = line :: rest →
      ∃ t, exec (.trainReportTimeout h) s = .next t ∧ (t.onkOf h.val).reports = rest ∧ mismatch t ∧
        s.Within t [pg]) ∧
    (∀ temp : BitVec 16, s.laneHears h.val = true →
      ∃ t, exec (.tempBlock h temp) s = .next t ∧
        t.rd (pgFIR h.val) FIR_TEMP_TEMP = temp.toNat % 2 ^ FIR_TEMP_TEMP.width ∧
        t.bit pg ONK_STATUS_RET_LATE = false ∧ (t.firOf h.val).tempAt = some s.now ∧ s.SameMem t ∧
        s.SameRegs t (fun p o => (p = pg ∧ o = 0x010) ∨ (p = pgFIR h.val ∧ o = FIR_TEMP_TEMP.off)) ∧
        { t with regs := s.regs, fir := s.fir } = s.fresh) ∧
    (s.printRuns = true → s.bit pg UNIT_CTRL_ENABLE = true → s.bit pg ONK_STATUS_RET_LATE = false →
      ∃ t, exec (.returnTimeout h) s = .next t ∧ t.bit pg ONK_STATUS_RET_LATE = true ∧
        t.Raised pg 4 ∧ s.SameMem t ∧
        s.SameRegs t (fun p o => (p = pg ∧ o = 0x010) ∨ evWords pg p o)) ∧
    (∀ status : BitVec 16, s.laneHears h.val = true →
      ∃ t, exec (.statusBlock h status) s = .next t ∧
        t.rd pg ONK_HEAD_STAT_STATUS = status.toNat ∧ (t.onkOf h.val).statAt = some s.now ∧
        s.SameMem t ∧ s.SameRegs t (fun p o =>
          (p = pg ∧ o = ONK_HEAD_STAT_STATUS.off) ∨ (p = pgONKroot ∧ o = ONK_ALERT_LOW.off))) ∧
    (∀ (hdr : BitVec 2) (pay : BitVec 64), s.bit pg UNIT_CTRL_ENABLE = true → x.up = true →
      (s.rd pg ONK_CFG_LOOP = 1 ∨ s.rd pg ONK_CFG_LOOP = 2 →
        exec (.onkRxBlock h hdr pay) s = .next s.fresh) ∧
      (s.rd pg ONK_CFG_LOOP = 3 → s.bit pg ONK_CFG_TEST = false →
        exec (.onkRxBlock h hdr pay) s = .next (s.fresh.emit (.onkEcho h.val hdr pay))) ∧
      (s.rd pg ONK_CFG_LOOP = 0 → s.bit pg ONK_CFG_TEST = false → hdr ≠ 2 →
        ∃ t, exec (.onkRxBlock h hdr pay) s = .next t ∧ s.Within t [pg] ∧
          t.rd pg ONK_ERRS_BLOCK = min (s.rd pg ONK_ERRS_BLOCK + 1) 65535) ∧
      (s.rd pg ONK_CFG_LOOP = 0 ∨ s.rd pg ONK_CFG_LOOP = 3 → s.bit pg ONK_CFG_TEST = true → hdr = 1 → x.prbs = none →
        ∃ t, exec (.onkRxBlock h hdr pay) s = .next t ∧
          (t.onkOf h.val).prbs = some (prbsSeed (payloadBits pay)) ∧ s.SameMem t ∧
          s.SameRegs t (fun _ _ => False)))

/-- A lane that is enabled, with its PLL locked, comes up with the next line SYNC, and where neither
LOOP nor TEST is set a COMMIT that waits for it goes out first, and a table that it has not been
told follows; a loss of signal or of lock, while PRINT's balls are live, takes it down with its
event and DOWNS. ENABLE at READY reads LEAD and starts the lane from down, before READY the write
is dropped. READ of 1 to 256 blocks sends its request with CMD_BUSY; its answer stands in RET_DATA
with DONE, an error or a timeout shows FAIL. FLUSH sends its block and makes the next line SYNC;
HEAD_LOOP of 0 or 1 sends its block. No byte of memory changes. (That a lane is UP from the row
that says so: the model's reading, log 79; its idle and test blocks, log 99.) -/
def Obligations.LaneCommands : Prop :=
  ∀ (s : State) (h : Fin 32), h.val < s.part.heads →
    let pg := pgONK h.val
    let x := s.onkOf h.val
    let downs := fun (t : State) =>
      (t.onkOf h.val).up = false ∧
      t.rd pg ONK_LINK_DOWNS = min (s.rd pg ONK_LINK_DOWNS + 1) 65535 ∧ s.SameMem t
    (s.bit pg UNIT_CTRL_ENABLE = true → s.levelOf .print = 2 → x.up = false →
      s.pllLocked (8 + h.val / 8) = true → s.follyOn pg 1 = false →
      ∃ t, exec (.laneUp h) s = .next t ∧ (t.onkOf h.val).up = true ∧ (t.onkOf h.val).resync = true ∧
        t.bit pg ONK_STATUS_LOS_NOW = false ∧ s.SameMem t ∧
        s.SameRegs t (fun p o => p = pg ∧ o = 0x010) ∧
        (s.rd pg ONK_CFG_LOOP = 0 → s.bit pg ONK_CFG_TEST = false →
          (∀ table, x.commit = some (table, none) → (t.onkOf h.val).acking = some table ∧
            .onk h.val (ctrlBlock 0x22 [BitVec.ofNat 8 table]) [] ∈ t.emitted) ∧
          (∀ y, s.tx = some y → s.rd pgONKroot UNIT_STATUS_STATE = 1 →
            (headsOf y.mask).contains h.val = true → y.told.contains h.val = false →
            ∃ z, t.tx = some z ∧ z.told = y.told ++ [h.val])) ∧
        (x.commit = none → s.tx = none → t.emitted = [])) ∧
    (s.padsOn .print = true → s.bit pg UNIT_CTRL_ENABLE = true →
      ∃ t, exec (.laneLos h) s = .next t ∧ t.bit pg ONK_STATUS_LOS_NOW = true ∧
        (x.up = true → downs t ∧ t.Raised pg 0) ∧
        (x.up = false → s.SameMem t ∧ s.SameRegs t (fun p o => p = pg ∧ o = 0x010) ∧
          { t with regs := s.regs } = s.fresh)) ∧
    (s.padsOn .print = false → exec (.laneLos h) s = .next s.fresh) ∧
    (s.padsOn .print = true → x.up = true → ∃ t, exec (.laneLol h) s = .next t ∧ downs t ∧ t.Raised pg 1) ∧
    (∀ r : Req, s.open r pg = true → s.bit pg UNIT_CTRL_ENABLE = false →
      (s.ready = true → ∃ t, exec (.onkEnable r h) s = .next t ∧
        t.bit pg UNIT_CTRL_ENABLE = true ∧ (t.onkOf h.val).up = false ∧
        (t.onkOf h.val).lead = (if s.rd pg ONK_CFG_LEAD = 1 then 1 else 2) ∧ s.SameMem t ∧
        s.SameRegs t (fun p o => (p = pg ∧ o = 0x00C) ∨ p = pgCLK)) ∧
      (s.ready = false → ∃ t, exec (.onkEnable r h) s = .next t ∧ s.Dropped t r pg)) ∧
    (∀ (r : Req) (arg : BitVec 16), s.Takes r pg → s.laneUp h.val = true → arg ≠ 0 →
      arg.toNat ≤ 256 →
      ∃ t, exec (.onkRead r h arg) s = .next t ∧ t.bit pg UNIT_STATUS_CMD_BUSY = true ∧
        (t.onkOf h.val).read = some (x.nextReq, arg.toNat) ∧
        t.emitted = [.onk h.val (ctrlBlock 0x24 ([x.nextReq] ++ leBytes 2 arg.toNat ++
          leBytes 4 (s.rd pg ONK_RD_ADDR_ADDR))) []] ∧ s.SameMem t ∧
        s.SameRegs t (fun p o => p = pg ∧ o = 0x010) ∧
        { t with regs := s.regs, onk := s.onk, emitted := [] } = s.taken r pg 1) ∧
    (∀ (num result : Byte) (len : Nat) (data : List Word), s.laneUp h.val = true →
      x.read = some (num, len) →
      ∃ t, exec (.readResp h num result data) s = .next t ∧ (t.onkOf h.val).read = none ∧
        t.bit pg UNIT_STATUS_CMD_BUSY = false ∧ s.SameMem t ∧
        (result = 0 → t.bit pg ONK_RD_STAT_DONE = true ∧
          ∀ i, i < data.length → i < 512 → t.word pg (0x800 + 4 * i) = (data[i]?).getD 0) ∧
        (result ≠ 0 → t.bit pg ONK_RD_STAT_FAIL = true ∧
          s.SameRegs t (fun p o => p = pg ∧ (o = 0x080 ∨ o = 0x010)))) ∧
    (x.read ≠ none →
      ∃ t, exec (.readTimeout h) s = .next t ∧ (t.onkOf h.val).read = none ∧
        t.bit pg ONK_RD_STAT_FAIL = true ∧ t.bit pg UNIT_STATUS_CMD_BUSY = false ∧ s.SameMem t ∧
        s.SameRegs t (fun p o => p = pg ∧ (o = 0x080 ∨ o = 0x010)) ∧
        { t with regs := s.regs, onk := s.onk } = s.fresh) ∧
    (∀ r : Req, s.Takes r pg → s.laneUp h.val = true →
      (∃ t, exec (.onkFlush r h 0) s = .next t ∧ (t.onkOf h.val).resync = true ∧
        t.bit pg ONK_STATUS_SYNCED = false ∧ t.emitted = [.onk h.val (ctrlBlock 0x13 []) []] ∧
        (∀ f ∈ (t.onkOf h.val).flight, f.framed = true → f.ok = false) ∧ s.SameMem t ∧
        s.SameRegs t (fun p o => p = pg ∧ o = 0x010) ∧
        { t with regs := s.regs, onk := s.onk, emitted := [] } = s.taken r pg 2) ∧
      (∀ arg : BitVec 16, arg.toNat ≤ 1 →
        exec (.headLoop r h arg) s = .next ((s.taken r pg 3).emit
          (.onk h.val (ctrlBlock 0x26 [BitVec.ofNat 8 arg.toNat]) []))))

/-- STAGE of a sound transaction in IDLE opens it, with every mask and result cleared. A good
acknowledgement of a head is noted with result 1, and the last one passes the point of no return;
a bad one, or none in time, aborts the transaction: the head shows its result and its FAIL bit and
raises bit 5, the others show 7, every head of the mask whose lane is enabled gets its ABORT, and
the root is IDLE. A COMMIT's acknowledgement marks its head OK, or failed with 6, and the last
head owed ends the transaction. ABORT before the point of no return ends it with result 7 on every
head, each told so. No byte of memory changes. (The place that ADDR names, and a transaction whose
line does not come: the model's choice, logs 55 and 56.) A falling alert line of present heads
shows LOW and, unmasked, asks the status of each of its heads whose lane is UP; the repeat asks
again; a line low for too long is masked and raises bit 4 of MON; UNMASK_ALERT of a line high for
10 ms unmasks it. XFER on a free, living bus of a present head begins its transfer and shows BUSY,
or finds the bus dead where SDA stays low, with bit 5 of MON; its end clears BUSY, shows NAK and,
for a read, its data; a clock held too long ends the transfer; RECOVER clocks the bus and clears
DEAD where SDA is high. No other line's bits change, and no byte of memory. (The end of a line's
low level, for which the table has no row, is taken at its last answer: the model's reading, log
57.) -/
def Obligations.HeadServices : Prop :=
  (∀ (s : State),
    let state := fun (t : State) => t.rd pgONKroot UNIT_STATUS_STATE
    let told := fun (t : State) (x : TableTx) => ∀ g ∈ headsOf x.mask,
      s.enabled (pgONK g) = true → .onk g (ctrlBlock 0x23 [BitVec.ofNat 8 x.table]) [] ∈ t.emitted
    let aborted := fun (t : State) (x : TableTx) (h code : Nat) =>
      t.tx = none ∧ state t = 0 ∧ t.rd (pgONK h) ONK_STAGE_RESULT = code ∧
      t.rd pgONKroot ONK_TX_FAIL_HEADS / 2 ^ h % 2 = 1 ∧ t.Raised (pgONK h) 5 ∧
      (∀ g ∈ headsOf x.mask, g ≠ h → t.rd (pgONK g) ONK_STAGE_RESULT = 7) ∧ told t x ∧ s.SameMem t
    (∀ r : Req, s.Takes r pgONKroot → state s = 0 → s.stageBad = false →
      ∃ t x, exec (.stage r 0) s = .next t ∧ t.tx = some x ∧ state t = 1 ∧
        x.mask = s.rd pgONKroot ONK_TX_MASK_HEADS ∧ x.table = s.rd pgONKroot ONK_TX_CFG_TABLE ∧
        x.acked = [] ∧
        x.told = (headsOf x.mask).filter s.laneUp ∧ t.rd pgONKroot ONK_TX_OK_HEADS = 0 ∧ t.rd pgONKroot ONK_TX_FAIL_HEADS = 0 ∧
        t.rd pgONKroot ONK_TX_LATE_HEADS = 0 ∧
        (∀ h ∈ headsOf x.mask, t.rd (pgONK h) ONK_STAGE_RESULT = 0) ∧ s.SameMem t) ∧
    (∀ (x : TableTx) (h : Fin 32) (table result : Byte), h.val < s.part.heads → s.tx = some x →
      state s = 1 → (headsOf x.mask).contains h.val = true → x.acked.contains h.val = false →
      (s.laneUp h.val = true → x.table = table.toNat → s.follyOn (pgONK h.val) 6 = false →
        (result = 0 → ((headsOf x.mask).all (fun g => (x.acked ++ [h.val]).contains g) = false →
          ∃ t, exec (.stageAck h table result) s = .next t ∧
            t.tx = some { x with acked := x.acked ++ [h.val] } ∧ state t = 1 ∧
            t.rd (pgONK h.val) ONK_STAGE_RESULT = 1 ∧ s.SameMem t ∧
            s.SameRegs t (fun p o => p = pgONK h.val ∧ o = ONK_STAGE_RESULT.off))) ∧
        (result = 0 → ((headsOf x.mask).all (fun g => (x.acked ++ [h.val]).contains g) = true →
          ∃ t, exec (.stageAck h table result) s = .next t ∧ state t = 2 ∧
            (∃ y, t.tx = some y ∧ y.owing = headsOf x.mask) ∧ s.SameMem t)) ∧
        (result ≠ 0 → ∃ t, exec (.stageAck h table result) s = .next t ∧
          aborted t x h.val (if result = 1 then 2 else 3))) ∧
      (∃ t, exec (.stageAckTimeout h) s = .next t ∧ aborted t x h.val 4)) ∧
    (∀ (h : Fin 32) (table result : Byte), h.val < s.part.heads → s.laneUp h.val = true →
      (s.onkOf h.val).acking = some table.toNat →
      ∃ t, exec (.commitAck h table result) s = .next t ∧ (t.onkOf h.val).acking = none ∧
        s.SameMem t ∧ (result ≠ 3 → t.rd pgONKroot ONK_TX_OK_HEADS / 2 ^ h.val % 2 = 1) ∧
        (result = 3 → t.rd pgONKroot ONK_TX_FAIL_HEADS / 2 ^ h.val % 2 = 1 ∧
          t.rd (pgONK h.val) ONK_STAGE_RESULT = 6 ∧ t.Raised (pgONK h.val) 5) ∧
        (∀ x, s.tx = some x → state s = 2 → x.owing.filter (· != h.val) = [] →
          t.tx = none ∧ state t = 0)) ∧
    (∀ (r : Req) (x : TableTx), s.Takes r pgONKroot → s.tx = some x → state s = 1 →
      ∃ t, exec (.onkAbort r 0) s = .next t ∧ t.tx = none ∧ state t = 0 ∧
        (∀ g ∈ headsOf x.mask, t.rd (pgONK g) ONK_STAGE_RESULT = 7) ∧ told t x ∧ s.SameMem t)) ∧
  (∀ (s : State),
    let asks := fun (j : Fin 8) =>
      ((s.alertHeads j.val).filter s.laneUp).map (fun h => Emission.onk h (ctrlBlock 0x25 []) [])
    let others := fun (t : State) (f : Fld) (j : Nat) =>
      (∀ i, i ≠ j → t.alertBit f i = s.alertBit f i) ∧ s.SameMem t
    (∀ j : Fin 8, s.alertHeads j.val ≠ [] → s.levelOf .print = 2 →
      s.alertBit ONK_ALERT_LOW j.val = false →
      ∃ t, exec (.hdAlertFall j) s = .next t ∧ t.alertBit ONK_ALERT_LOW j.val = true ∧
        others t ONK_ALERT_LOW j.val ∧ (∀ i, t.alertBit ONK_ALERT_MASKED i = s.alertBit ONK_ALERT_MASKED i) ∧
        t.emitted = (if s.alertBit ONK_ALERT_MASKED j.val = true then [] else asks j) ∧
        s.SameRegs t (fun p o => p = pgONKroot ∧ o = 0x060)) ∧
    (∀ j : Fin 8, s.alertBit ONK_ALERT_LOW j.val = true ∨ s.alertBit ONK_ALERT_MASKED j.val = true →
      ∃ t, exec (.alertRepeat j) s = .next t ∧ t.emitted = asks j ∧
        (t.alertOf j).waits = (s.alertHeads j.val).filter s.laneUp ∧ s.SameMem t ∧
        s.SameRegs t (fun _ _ => False) ∧ { t with alerts := s.alerts, emitted := [] } = s.fresh) ∧
    (∀ j : Fin 8, s.alertBit ONK_ALERT_LOW j.val = true → s.alertBit ONK_ALERT_MASKED j.val = false →
      ∃ t, exec (.alertStuck j) s = .next t ∧ t.alertBit ONK_ALERT_MASKED j.val = true ∧
        t.Raised pgMON 4 ∧ others t ONK_ALERT_MASKED j.val ∧
        s.SameRegs t (fun p o => (p = pgONKroot ∧ o = 0x060) ∨ evWords pgMON p o)) ∧
    (∀ (r : Req) (arg : BitVec 16) (j : Fin 8) (a : Nat), s.Takes r pgONKroot → arg.toNat = j.val →
      s.alertHeads j.val ≠ [] → (s.alertOf j).highAt = some a → a + 10000000 ≤ s.now →
      ∃ t, exec (.unmaskAlert r arg) s = .next t ∧ t.alertBit ONK_ALERT_MASKED j.val = false ∧
        others t ONK_ALERT_MASKED j.val ∧ s.SameRegs t (fun p o => p = pgONKroot ∧ o = 0x060) ∧
        { t with regs := s.regs } = s.taken r pgONKroot 3) ∧
    (∀ (r : Req) (arg : BitVec 16) (low high : Bool), s.Takes r pgONKroot →
      let m := arg.toNat
      let n := s.rd pgONKroot (ONK_MBUS_XFER_LEN m)
      let reads := s.bit pgONKroot (ONK_MBUS_XFER_RD m)
      s.busServes m = true → s.bit pgONKroot (ONK_MBUS_STAT_BUSY m) = false →
      (s.bit pgONKroot (ONK_MBUS_STAT_DEAD m) = false → 1 ≤ n → n ≤ 8 →
        ∃ t, exec (.mbusXfer r arg low high) s = .next t ∧ s.SameMem t ∧
          ((low && !high) = false → t.bit pgONKroot (ONK_MBUS_STAT_BUSY m) = true ∧
            t.emitted = (if low then [.i2cClocks m] else []) ++
              [.i2c m (s.rd pgONKroot (ONK_MBUS_XFER_DEV m)) reads
                (if reads then [] else s.mbusBytes m n) n]) ∧
          ((low && !high) = true → t.bit pgONKroot (ONK_MBUS_STAT_DEAD m) = true ∧
            t.bit pgONKroot (ONK_MBUS_STAT_BUSY m) = false ∧ t.Raised pgMON 5)) ∧
      (∃ t, exec (.mbusRecover r arg high) s = .next t ∧ t.emitted = [.i2cClocks m] ∧ s.SameMem t ∧
        t.bit pgONKroot (ONK_MBUS_STAT_DEAD m) =
          (!high && s.bit pgONKroot (ONK_MBUS_STAT_DEAD m)) ∧
        s.SameRegs t (fun p o => p = pgONKroot ∧ o = (ONK_MBUS_STAT_DEAD m).off))) ∧
    (∀ (m : Fin 4), s.bit pgONKroot (ONK_MBUS_STAT_BUSY m.val) = true →
      (∀ (nak : Bool) (data : List Byte),
        ∃ t, exec (.mbusXferDone m nak data) s = .next t ∧ s.SameMem t ∧
          t.bit pgONKroot (ONK_MBUS_STAT_BUSY m.val) = false ∧
          t.bit pgONKroot (ONK_MBUS_STAT_NAK m.val) = nak ∧
          (nak = false → s.bit pgONKroot (ONK_MBUS_XFER_RD m.val) = true → data.length = 8 →
            s.rd pgONKroot (ONK_MBUS_XFER_LEN m.val) = 8 →
            t.rd pgONKroot (ONK_MBUS_DATA0_DATA m.val) = ofLe (data.take 4) ∧
            t.rd pgONKroot (ONK_MBUS_DATA1_DATA m.val) = ofLe (data.drop 4)) ∧
          s.SameRegs t (fun p o => p = pgONKroot ∧ 0x080 + 16 * m.val ≤ o ∧ o < 0x090 + 16 * m.val)) ∧
      (∀ low high : Bool,
        ∃ t, exec (.mbusSclTimeout m low high) s = .next t ∧ s.SameMem t ∧
          t.bit pgONKroot (ONK_MBUS_STAT_BUSY m.val) = false ∧
          t.emitted = (if low then [.i2cClocks m.val] else []) ∧
          (low = true → high = false →
            t.bit pgONKroot (ONK_MBUS_STAT_DEAD m.val) = true ∧ t.Raised pgMON 5))))

/-- A rising LVAL takes the oldest trigger whose latency lies in the window for the next line of the
open frame, and counts an untriggered line where none waits; a falling LVAL queues the line's
samples, two for each edge that the port samples at, with its trigger's position, and a short one
counts and raises bit 0; a trigger older than LAT_MAX is missed: it counts, and puts a pad line
into an open frame. FVAL's rise starts a frame, its fall, or FRAME_LINES delivered lines without
FVAL, closes a whole frame: FRAMES counts, and its statistics are held, or lost under HOLD. The
pixel clock's loss and return show in PCLK_OK. No byte of memory changes. (The two samples of a
word, and a queue that is full: the model's choice, log 100; flagged lines in the statistics, log
82.) -/
def Obligations.CameraLines : Prop :=
  ∀ (s : State) (k : Fin 6), k.val < s.part.cams → s.armedFolly (pgCAM k.val) = none →
    let pg := pgCAM k.val
    let c := s.camOf k.val
    let on := s.bit pg UNIT_CTRL_ENABLE
    let late := s.ac pg CAM_LAT_LAT_MAX
    let closes := fun (u : State) (f : CamFrame) =>
      (u.camOf k.val).frames = [] ∧ u.bit pg CAM_STATUS_IN_FRAME = false ∧
      u.rd2 pg CAM_FRAMES_LO_N CAM_FRAMES_HI_N =
        (s.rd2 pg CAM_FRAMES_LO_N CAM_FRAMES_HI_N + 1) % 2 ^ 64 ∧
      (s.bit pg CAM_STAT_SEL_HOLD = false → u.rd pg CAM_STAT_FRAME_N = f.num % 2 ^ 32) ∧
      (s.bit pg CAM_STAT_SEL_HOLD = true →
        u.rd pg CAM_STAT_LOST_N = min (s.rd pg CAM_STAT_LOST_N + 1) 65535) ∧
      s.Within u [pg, pgQLP]
    (on = true → s.bit pg CAM_STATUS_PCLK_OK = true → c.cur = none →
      (∀ t rest f, c.wait = t :: rest → t.placed + 4 * s.ac pg CAM_LAT_LAT_MIN ≤ 4 * s.now →
        4 * s.now ≤ t.placed + 4 * late → s.camOutside k.val = false → s.camCurrent k.val = some f →
        f.taken < f.lines s.part k.val →
        ∃ u, exec (.camLvalRise k) s = .next u ∧ (u.camOf k.val).wait = rest ∧
          (u.camOf k.val).cur = some (.taken t f.num) ∧ s.SameMem u ∧ s.SameRegs u (fun _ _ => False)) ∧
      (c.wait = [] →
        ∃ u, exec (.camLvalRise k) s = .next u ∧ (u.camOf k.val).cur = some .dropped ∧
          u.rd pg CAM_UNTRIG_N = min (s.rd pg CAM_UNTRIG_N + 1) (2 ^ 32 - 1) ∧ s.SameMem u ∧
          s.SameRegs u (fun p o => p = pg ∧ o = CAM_UNTRIG_N.off))) ∧
    (c.cur = some .dropped → ∀ (rise fall : List (BitVec 24)) (overflow : Bool)
        (parity : List (BitVec 13)),
      ∃ u, exec (.camLvalFall k rise fall overflow parity) s = .next u ∧ (u.camOf k.val).cur = none ∧
        (u.camOf k.val).queue = c.queue ∧ s.SameMem u ∧ s.SameRegs u (fun _ _ => False)) ∧
    (∀ t n f (rise fall : List (BitVec 24)), c.cur = some (.taken t n) → c.frame n = some f →
      let samples := (if c.pclkFall = true then fall else rise).flatMap
        (fun d => [d.toNat % 4096, d.toNat / 4096])
      samples.length ≤ f.samples s.part k.val →
      s.camFill k.val + f.samples s.part k.val ≤ camQueueMax →
      ∃ u l, exec (.camLvalFall k rise fall false []) s = .next u ∧ (u.camOf k.val).cur = none ∧
        (u.camOf k.val).queue = c.queue ++ [l] ∧ l.frame = n ∧ l.pos = t.pos ∧
        l.valid = samples.length ∧
        l.samples = samples ++ List.replicate (f.samples s.part k.val - samples.length) (f.fld s.part k.val CAM_LINE_PAD) ∧
        s.SameMem u ∧
        (samples.length = f.samples s.part k.val →
          s.SameRegs u (fun p o => p = pg ∧ o = CAM_QUEUE_PEAK_KIB.off)) ∧
        (samples.length < f.samples s.part k.val →
          u.rd pg CAM_SHORT_N = min (s.rd pg CAM_SHORT_N + 1) (2 ^ 32 - 1) ∧
          (f.shortLine = false → u.Raised pg 0))) ∧
    (∀ t, on = true → c.wait = [t] → t.placed + 4 * late < 4 * s.now →
      ∃ u, exec (.camTriggerMissed k) s = .next u ∧ (u.camOf k.val).wait = [] ∧
        u.rd pg CAM_MISSED_N = min (s.rd pg CAM_MISSED_N + 1) (2 ^ 32 - 1) ∧
        (s.camOutside k.val = true → (u.camOf k.val).queue = c.queue ∧ s.SameMem u ∧
          s.SameRegs u (fun p o => p = pg ∧ o = CAM_MISSED_N.off)) ∧
        (∀ f, s.camOutside k.val = false → s.camCurrent k.val = some f →
          f.taken < f.lines s.part k.val →
          ∃ l, (u.camOf k.val).queue = c.queue ++ [l] ∧ l.frame = f.num ∧ l.pos = t.pos ∧
            l.valid = 0 ∧ l.flags % 2 = 1 ∧ s.Within u [pg])) ∧
    (on = true → c.fval = false →
      ∃ u, exec (.fvalRise k) s = .next u ∧ (u.camOf k.val).fval = true ∧
        (s.ac pg CAM_CFG_FVAL_EN = 1 → s.commitOf pg = none →
          (∃ f, (u.camOf k.val).frames = c.frames ++ [f] ∧ f.num = c.nextFrame ∧ f.bank = c.bank ∧
            f.taken = 0 ∧ f.delivered = 0) ∧
          (u.camOf k.val).nextFrame = c.nextFrame + 1 ∧ u.bit pg CAM_STATUS_IN_FRAME = true ∧
          s.SameMem u ∧ s.SameRegs u (fun p o => p = pg ∧ o = 0x010)) ∧
        (s.ac pg CAM_CFG_FVAL_EN = 0 → (u.camOf k.val).frames = c.frames ∧ s.SameMem u ∧
          s.SameRegs u (fun _ _ => False))) ∧
    (on = true → c.fval = true →
      ∃ u, exec (.fvalFall k) s = .next u ∧ (u.camOf k.val).fval = false ∧
        (c.frames = [] → s.SameMem u ∧ s.SameRegs u (fun _ _ => False)) ∧
        (∀ f, c.frames = [f] → f.byFval s.part k.val = true → f.ended = false →
          (c.queue.any (fun l => l.frame == f.num) = false → f.lines s.part k.val ≤ f.delivered →
            closes u f) ∧
          (c.queue.any (fun l => l.frame == f.num) = true →
            (u.camOf k.val).frames = [{ f with ended := true }] ∧ s.SameMem u ∧
            s.SameRegs u (fun _ _ => False)))) ∧
    (∀ f, c.frames = [f] → f.byFval s.part k.val = false → f.lines s.part k.val ≤ f.delivered →
      c.queue.any (fun l => l.frame == f.num) = false →
      ∃ u, exec (.frameLinesReached k) s = .next u ∧ closes u f) ∧
    (s.bit pg CAM_STATUS_PCLK_OK = true → c.cur = none → c.frames = [] →
      ∀ (rise fall : List (BitVec 24)) (overflow : Bool) (parity : List (BitVec 13)),
      ∃ u, exec (.pclkLoss k rise fall overflow parity) s = .next u ∧
        u.bit pg CAM_STATUS_PCLK_OK = false ∧ (u.camOf k.val).fval = false ∧ s.SameMem u ∧
        s.SameRegs u (fun p o => p = pg ∧ o = 0x010)) ∧
    (s.levelOf .cam = 2 →
      ∃ u, exec (.pclkDetected k) s = .next u ∧ u.bit pg CAM_STATUS_PCLK_OK = true ∧ s.SameMem u ∧
        s.SameRegs u (fun p o => p = pg ∧ o = 0x010) ∧ { u with regs := s.regs } = s.fresh)

/-- The oldest queued line is delivered: LINES counts, and with the store on its record (position,
flags, valid count and, raw, the samples) stands in DRAM in its place in the frame's records,
where memory serves it, and no other byte changes; a frame's header is written to its place and
STORE_LAST_OFS shows it. ENABLE at READY empties the port and reads its store area, before READY
the write is dropped; a cleared ENABLE closes an open frame as aborted, its header to be written.
Outside a bank copy a read of the table's window answers the entry, a write stores it in the
shadow bank and marks it DIRTY, either moves the index on; while the banks are copied it is held.
LOAD_DEFAULT writes R261's entries into the shadow bank, REVERT starts a copy, and the copy's end
makes the banks equal and the page CLEAN. (Where the banks stand: the model's choice, log 50; a
swap before the last copy has ended, log 51; a frame larger than its area, log 60; held accesses,
log 105.) -/
def Obligations.CameraStore : Prop :=
  ∀ (s : State) (k : Fin 6), k.val < s.part.cams →
    let pg := pgCAM k.val
    let c := s.camOf k.val
    let b := c.bank
    let serves := fun (a n : Nat) => s.memGone = false ∧ ∀ i, i < n → s.byteOk (a + i) = true
    (∀ l rest f, c.queue = l :: rest → c.frames = [f] → f.num = l.frame → f.ended = false →
      c.differs = false → l.bad = [] →
      ∃ u, exec (.camLineDelivered k [] 0) s = .next u ∧ (u.camOf k.val).queue = rest ∧
        u.rd2 pg CAM_LINES_LO_N CAM_LINES_HI_N =
          (s.rd2 pg CAM_LINES_LO_N CAM_LINES_HI_N + 1) % 2 ^ 64 ∧
        (f.storeAt = none → s.Within u [pg]) ∧
        (∀ o, f.storeAt = some o → l.samples.length = f.samples s.part k.val →
          let n := f.stride s.part k.val
          let at' := c.storeBase + o + 64 + f.delivered * n
          serves at' n →
          u.bytes at' 6 = leBytes 6 l.pos.toNat ∧ u.byte (at' + 6) = BitVec.ofNat 8 l.flags ∧
          (f.store s.part k.val ≠ 1 → f.store s.part k.val ≠ 2 →
            u.bytes (at' + 8) 2 = leBytes 2 l.valid ∧
            u.bytes (at' + 16) (2 * f.samples s.part k.val) = l.samples.flatMap (leBytes 2)) ∧
          (∀ a, a < at' ∨ at' + n ≤ a → u.byte a = s.byte a) ∧ ∀ a, u.fbyte a = s.fbyte a)) ∧
    (∀ o bs rest, c.headers = (o, bs) :: rest → serves (c.storeBase + o) bs.length →
      ∃ u, exec (.storeHeaderWrite k) s = .next u ∧ (u.camOf k.val).headers = rest ∧
        u.rd pg CAM_STORE_LAST_OFS = o / 64 % 2 ^ 32 ∧
        (∀ i, i < bs.length → u.byte (c.storeBase + o + i) = (bs[i]?).getD 0) ∧
        (∀ a, a < c.storeBase + o ∨ c.storeBase + o + bs.length ≤ a → u.byte a = s.byte a) ∧
        ∀ a, u.fbyte a = s.fbyte a) ∧
    (∀ r : Req, s.open r pg = true → s.flows pg = true → s.bit pg UNIT_CTRL_ENABLE = false →
      (s.ready = true →
        ∃ u, exec (.camEnable r k) s = .next u ∧ u.bit pg UNIT_CTRL_ENABLE = true ∧
          (u.camOf k.val).frames = [] ∧ (u.camOf k.val).wait = [] ∧ (u.camOf k.val).queue = [] ∧
          (u.camOf k.val).cur = none ∧ (u.camOf k.val).nextFrame = 0 ∧ (u.camOf k.val).pclkFall = s.bit pg CAM_CFG_PCLK_FALL ∧
          (u.camOf k.val).storeBase = s.rd pg CAM_DRAM_BASE_MIB * 2 ^ 20 ∧
          (u.camOf k.val).storeSize = s.rd pg CAM_DRAM_SIZE_MIB * 2 ^ 20 ∧ s.SameMem u ∧
          s.SameRegs u (fun p o =>
            (p = pg ∧ (o = 0x00C ∨ o = 0x010 ∨ o = CAM_QUEUE_PEAK_KIB.off)) ∨ s.powerWord p o)) ∧
      (s.ready = false → ∃ u, exec (.camEnable r k) s = .next u ∧ s.Dropped u r pg)) ∧
    (∀ r : Req, s.open r pg = true → s.flows pg = true → s.bit pg UNIT_CTRL_ENABLE = true →
      ∃ u, exec (.camDisable r k) s = .next u ∧ u.bit pg UNIT_CTRL_ENABLE = false ∧
        (u.camOf k.val).queue = [] ∧ (u.camOf k.val).wait = [] ∧ (u.camOf k.val).cur = none ∧
        s.SameMem u ∧ s.SameRegs u (fun p o => p = pg ∨ s.powerWord p o) ∧
        (c.frames = [] → (u.camOf k.val).headers = c.headers) ∧
        (∀ f, c.frames = [f] → (u.camOf k.val).frames = [] ∧
          u.rd2 pg CAM_FRAMES_LO_N CAM_FRAMES_HI_N =
            (s.rd2 pg CAM_FRAMES_LO_N CAM_FRAMES_HI_N + 1) % 2 ^ 64 ∧
          ∀ o, f.storeAt = some o →
            (u.camOf k.val).headers = c.headers ++ [(o, f.header s.part k.val true)])) ∧
    (∀ r : Req, s.open r pg = true →
      let i := min (s.rd pg CAM_TBL_INDEX_ENTRY) 11263
      let active := s.bit pg CAM_TBL_INDEX_ACTIVE
      let a := camBank k.val (if active then b else !b) + 4 * i
      let moves := fun (u : State) => u.rd pg CAM_TBL_INDEX_ENTRY = if i = 11263 then 0 else i + 1
      (s.camBankState k.val ≠ bkSYNCING →
        (∃ u, exec (.camTblAccess r k none) s = .next u ∧ moves u ∧
          u.emitted = [.readData r (BitVec.ofNat 32 (s.mem32 a) &&& camMask i)] ∧ s.SameMem u ∧
          s.SameRegs u (fun p o => p = pg ∧ o = CAM_TBL_INDEX_ENTRY.off) ∧
          { u with regs := s.regs, emitted := [] } = s.reached r pg) ∧
        (∀ v, active = false → s.commitOf pg = none →
          ∃ u, exec (.camTblAccess r k (some v)) s = .next u ∧ moves u ∧
            u.mem32 a = (v &&& camMask i).toNat ∧ u.camBankState k.val = bkDIRTY ∧
            (∀ x, x < a ∨ a + 4 ≤ x → u.byte x = s.byte x) ∧ (∀ x, u.fbyte x = s.fbyte x) ∧
            s.SameRegs u (fun p o => p = pg ∧ (o = CAM_TBL_INDEX_ENTRY.off ∨ o = 0x010))) ∧
        (∀ v, active = true ∨ s.commitOf pg ≠ none →
          ∃ u, exec (.camTblAccess r k (some v)) s = .next u ∧ moves u ∧
            u.bit pg UNIT_STATUS_LOCK_VIOL = true ∧ u.Raised pgGKP 0 ∧ s.SameMem u)) ∧
      (∀ v, s.camBankState k.val = bkSYNCING →
        ∃ u, exec (.camTblAccess r k v) s = .next u ∧
          (u.camOf k.val).held = c.held ++ [.window r 0 v] ∧ s.SameMem u ∧
          s.SameRegs u (fun _ _ => False) ∧ { u with cam := s.cam } = s.reached r pg)) ∧
    (∀ r : Req, s.TakesOff r pg → s.commitOf pg = none → s.camBankState k.val ≠ bkSYNCING →
      (∃ u, exec (.camLoadDefault r k 0) s = .next u ∧ u.camBankState k.val = bkDIRTY ∧
        (∀ i j, i < 11264 → j < 4 →
          u.byte (camBank k.val (!b) + 4 * i + j) = ((camDefault i)[j]?).getD 0) ∧
        (∀ a, a < camBank k.val (!b) ∨ camBank k.val (!b) + 45056 ≤ a → u.byte a = s.byte a) ∧
        (∀ a, u.fbyte a = s.fbyte a) ∧ s.SameRegs u (fun p o => p = pg ∧ o = 0x010)) ∧
      (∃ u, exec (.camRevert r k 0) s = .next u ∧ u.camBankState k.val = bkSYNCING ∧ s.SameMem u ∧
        s.SameRegs u (fun p o => p = pg ∧ o = 0x010) ∧ { u with regs := s.regs } = s.taken r pg 2)) ∧
    (∀ page : BitVec 12, page.toNat = pg → s.camBankState k.val = bkSYNCING →
      (∀ f ∈ c.frames, f.bank = b) → c.held = [] → c.again = false →
      ∃ u, exec (.bankSyncDone page) s = .next u ∧ u.camBankState k.val = bkCLEAN ∧
        (∀ j, j < 45056 → u.byte (camBank k.val (!b) + j) = s.byte (camBank k.val b + j)) ∧
        (∀ a, a < camBank k.val (!b) ∨ camBank k.val (!b) + 45056 ≤ a → u.byte a = s.byte a) ∧
        (∀ a, u.fbyte a = s.fbyte a) ∧ s.SameRegs u (fun p o => p = pg ∧ o = 0x010))

/-- While CAM's clocks run, a head's row that is due is written: its partial values stand in the
head's slot of the ring and no other byte changes, and each of its lines that is void is noted in
the row with the nozzles that it has. A camera line that meets no complete row counts as
uncompared; one that meets one is gathered by an ALIGN of its camera, and, where it is usable and
unpoisoned and has pixels to compare, counts in QLP_CMP, marks its row and ends WARMING; either
way its valid pixels are kept for the higher-numbered cameras. ENABLE at READY empties the loop
under a new generation. ALIGN begins with CMD_BUSY; after 512 lines it arms the commit of the
offset and scale that the search finds (its order of search is the model's choice, log 61), or
fails with result 2, a timeout with 3, raising bit 2; that commit's effect, at the print-page
boundary that it waits for, gives result 1. (Where a slot begins, what a lower camera that has no
line there measures, and a row that is not complete: the model's choice, logs 62, 63 and 83.) -/
def Obligations.QualityRows : Prop :=
  ∀ (s : State), s.has pgQLP = true →
    (∀ (h : Fin 32) (g : Nat), s.qlpOn = true → s.camRuns = true → s.rowDue h.val = some g → s.memGone = false →
      let a := s.slotAddr g h.val
      let mine := (s.qlines h.val).filter (fun l => s.groupOf l.line == g)
      (∀ i, i < 4096 → s.byteOk (a + i) = true) →
      ∃ t, exec (.qlpRowWrite h) s = .next t ∧
        t.qlines h.val = (s.qlines h.val).filter (fun l => s.groupOf l.line != g) ∧
        (∃ r, t.rowAt g = some r ∧ h.val ∈ r.heads ∧
          ∀ l ∈ mine, l.void ≠ some false → (h.val, l.levels.length) ∈ r.voids) ∧
        (∀ i, i < s.slotPixels h.val → t.bytes (a + 2 * i) 2 =
          leBytes 2 (s.partialOf h.val (s.slotFrom h.val + i) (mine.map QLine.levels))) ∧
        (∀ x, x < a ∨ a + 4096 ≤ x → t.byte x = s.byte x) ∧ ∀ x, t.fbyte x = s.fbyte x) ∧
    (∀ (k : Fin 6) l rest, s.qlpOn = true → s.camRuns = true → s.qlp.cams.get k = l :: rest →
      ∀ (poisoned : Bool) (ces : List (BitVec 26)),
      let s1 := s.fresh.updQlp (fun q => { q with cams := q.cams.set k.val rest })
      ∃ t, exec (.qlpCompare k poisoned ces) s = .next t ∧ t.qlp.cams.get k = rest ∧
        t.qlp.seen.get k = (l.pos, l.valid) :: s.qlp.seen.get k ∧
        s.Within t [pgQLP, pgPWR, pgDRC, pgDRAM 0, pgDRAM 1, pgBST] ∧
        (s.meets l.pos = none → s.Within t [pgQLP, pgBST] ∧
          t.rd pgQLP QLP_UNCOMPARED_N = min (s.rd pgQLP QLP_UNCOMPARED_N + 1) (2 ^ 32 - 1)) ∧
        (∀ g r, s.meets l.pos = some g → s.rowAt g = some r → s.rowComplete g = true →
          let read := s1.ringRead g
          let u := read.1.alignLine k.val l read.2.1
          (∀ a, s.qlp.align = some a → a.cam = k.val → a.lines < 512 →
            ∃ b, t.qlp.align = some b ∧ b.cam = a.cam ∧ b.lines = a.lines + 1) ∧
          (l.flags % 16 = 0 → l.flags / 32 = 0 → poisoned = false → read.2.2 = false →
            (u.residuals k.val read.2.1 r l).all Option.isNone = false →
            t.rd2 pgQLP QLP_CMP_LO_N QLP_CMP_HI_N =
              (s.rd2 pgQLP QLP_CMP_LO_N QLP_CMP_HI_N + 1) % 2 ^ 64 ∧
            t.bit pgQLP QLP_STATUS_WARMING = false ∧
            t.rowAt g = some { r with compared := true }))) ∧
    (∀ r : Req, s.open r pgQLP = true → s.bit pgQLP UNIT_CTRL_ENABLE = false →
      (s.ready = true → ∃ t, exec (.qlpEnable r) s = .next t ∧ t.qlpOn = true ∧
        t.bit pgQLP QLP_STATUS_WARMING = true ∧ t.qlp.heads = s.rd pgQLP QLP_HEADS_HEADS ∧
        t.qlp.ring = s.rd pgQLP QLP_RING_BASE ∧ t.qlp.rows = [] ∧ t.qlp.gen = s.qlp.gen + 1 ∧
        t.ringRows = 2 ^ min (max (s.rd pgQLP QLP_RING_LOG2) 10) 15 ∧ s.SameMem t ∧
        s.SameRegs t (fun p o => p = pgQLP ∧ (o = 0x00C ∨ o = 0x010)) ∧
        { t with regs := s.regs, qlp := s.qlp } = s.reached r pgQLP) ∧
      (s.ready = false → ∃ t, exec (.qlpEnable r) s = .next t ∧ s.Dropped t r pgQLP)) ∧
    (∀ (r : Req) (arg : BitVec 16), s.Takes r pgQLP → arg.toNat < s.part.cams →
      s.commitOf pgQLP = none →
      ∃ t, exec (.align r arg) s = .next t ∧ t.qlp.align = some ⟨arg.toNat, 0, [], []⟩ ∧
        t.bit pgQLP UNIT_STATUS_CMD_BUSY = true ∧ s.SameMem t ∧
        s.SameRegs t (fun p o => p = pgQLP ∧ o = 0x010) ∧
        { t with regs := s.regs, qlp := s.qlp } = s.taken r pgQLP 1) ∧
    (∀ a, s.qlp.align = some a → a.cam < 6 →
      let f := s.alignFind a
      let ended := fun (t : State) (result : Nat) =>
        t.qlp.align = none ∧ t.bit pgQLP UNIT_STATUS_CMD_BUSY = false ∧
        t.rd pgQLP QLP_ALIGN_STAT_CAM = a.cam ∧ t.rd pgQLP QLP_ALIGN_STAT_RESULT = result
      (512 ≤ a.lines → peakOk f.2.2 = true → s.commitOf pgQLP = none →
        ∃ t c, exec .alignDone s = .next t ∧ t.qlp = s.qlp ∧ t.commitOf pgQLP = some c ∧ c.mode = 3 ∧
          c.own = true ∧ t.rd pgQLP (QLP_CAM_OFS_OFS a.cam) = unsint 32 f.1 ∧
          t.rd pgQLP (QLP_CAM_SCALE_SCALE a.cam) = unsint 32 f.2.1 ∧ s.Within t [pgQLP]) ∧
      (512 ≤ a.lines → peakOk f.2.2 = false →
        ∃ t, exec .alignDone s = .next t ∧ ended t 2 ∧ t.Raised pgQLP 2 ∧ t.commits = s.commits ∧
          s.Within t [pgQLP]) ∧
      (∀ (page : BitVec 12) (c : Commit), page.toNat = pgQLP → s.qlpOn = true →
        c.mode = 3 → c.own = true →
        let w := s.fresh.correct
        let u := w.refAdvance
        w.commitOf pgQLP = some c → w.pageLevel pgQLP = 2 → w.forward = true →
        w.commitDue c = true → u.badPair pgQLP = 0 →
        ∃ t, exec (.commitTakesEffect page) s = .next t ∧ ended t 1 ∧
          t.rd pgQLP QLP_ALIGN_STAT_COUNT = min (u.rd pgQLP QLP_ALIGN_STAT_COUNT + 1) 65535) ∧
      (a.lines < 512 →
        ∃ t, exec .alignTimeout s = .next t ∧ ended t 3 ∧
          t.Raised pgQLP 2 ∧ s.SameMem t ∧
          s.SameRegs t (fun p o => (p = pgQLP ∧ (o = 0x010 ∨ o = 0x068)) ∨ evWords pgQLP p o)))

/-- A write of MODE sets it, and back to approval moves the automatic queue behind the host queue; a
read of a queue takes its oldest proposal, or answers 0 on an empty one, and the rest is in the
requester's slot; the minute's end rolls the USED bins; CLEAR empties accumulators or queues.
ARCHIVE with a free compressor begins a job with BUSY, its header's place zeroed; a tile whose
buffer a kiosk decodes to the samples it was made from counts, one that does not ends in failure
reason 2, and the kiosk is free; the job's end writes the header, DONE and BYTES, or FAIL with its
reason and bit 3; ARC_ABORT fails it with reason 4. No byte of the part's memory changes. (The
form of a sample in the sums, and poison met by the archive: the model's reading, logs 65 and 83.) -/
def Obligations.Proposals : Prop :=
  ∀ (s : State), s.has pgQLP = true →
    let fails := fun (t : State) (reason : Nat) =>
      t.qlp.arc = none ∧ t.bit pgQLP ARC_STAT_BUSY = false ∧ t.bit pgQLP ARC_STAT_FAIL = true ∧
      t.rd pgQLP ARC_STAT_REASON = reason % 16 ∧ t.rd pgQLP ARC_BYTES_N = 0 ∧ t.Raised pgQLP 3 ∧
      s.SameMem t ∧ (∀ k, k < s.part.kiosks → t.holding k ≠ .verif)
    (∀ (r : Req) (mode : Bool), s.open r pgQLP = true →
      ∃ t, exec (.qlpModeWrite r mode) s = .next t ∧ t.bit pgQLP QLP_CFG_MODE = mode ∧
        s.Within t [pgQLP] ∧
        (mode = true ∨ s.bit pgQLP QLP_CFG_MODE = false → t.qlp = s.qlp) ∧
        (mode = false → s.bit pgQLP QLP_CFG_MODE = true → t.qlp.auto = [] ∧
          (s.qlp.host.length + s.qlp.auto.length ≤ 64 → t.qlp.host = s.qlp.host ++ s.qlp.auto) ∧
          (s.qlp.auto ≠ [] → s.qlp.host.length < 64 → t.Raised pgQLP 0))) ∧
    (∀ (r : Req) (auto : Bool), s.open r pgQLP = true →
      let q := if auto then s.qlp.auto else s.qlp.host
      let hi := if auto then 0x07C else 0x074
      ∃ t, exec (.proposalRead r auto) s = .next t ∧
        (if auto then t.qlp.auto else t.qlp.host) = q.tail ∧
        (if auto then t.qlp.host else t.qlp.auto) = (if auto then s.qlp.host else s.qlp.auto) ∧
        t.emitted = [.readData r ((q.head?.map Proposal.lo).getD 0)] ∧
        t.snapSlot r pgQLP = [(hi, (q.head?.map Proposal.hi).getD 0)] ∧ s.SameMem t ∧
        s.SameRegs t (fun p o => p = pgQLP ∧ o = 0x06C)) ∧
    (∃ t, exec .usedBinRoll s = .next t ∧ t.qlp.used = 0 :: s.qlp.used.take 59 ∧
      t.rd pgQLP QLP_AUTO_STAT_USED = min (s.qlp.used.take 59).sum 65535 ∧ s.SameMem t ∧
      s.SameRegs t (fun p o => p = pgQLP ∧ o = 0x060) ∧
      { t with regs := s.regs, qlp := s.qlp } = s.fresh) ∧
    (∀ (r : Req) (arg : BitVec 16), s.Takes r pgQLP → arg.toNat ≤ 3 →
      ∃ t, exec (.qlpClear r arg) s = .next t ∧ s.SameMem t ∧
        s.SameRegs t (fun p o => p = pgQLP ∧ o = 0x06C) ∧
        (t.qlp.accs, t.qlp.confirm) =
          (if arg.getLsbD 0 then ([], []) else (s.qlp.accs, s.qlp.confirm)) ∧
        (t.qlp.auto, t.qlp.host) = (if arg.getLsbD 1 then ([], []) else (s.qlp.auto, s.qlp.host)) ∧
        { t with regs := s.regs, qlp := s.qlp } = s.taken r pgQLP 2) ∧
    (∀ r : Req, s.TakesOff r pgQLP → s.bit pgQLP ARC_STAT_BUSY = false →
      s.rd pgQLP ARC_SRC_CAM < s.part.cams → 64 ≤ s.rd pgQLP ARC_SPACE_BYTES →
      s.rd pgQLP ARC_DST_LO_ADDR % 64 = 0 →
      ∃ t a, exec (.archive r 0) s = .next t ∧ t.qlp.arc = some a ∧
        t.bit pgQLP ARC_STAT_BUSY = true ∧ a.cam = s.rd pgQLP ARC_SRC_CAM ∧
        a.space = s.rd pgQLP ARC_SPACE_BYTES ∧ a.count = max 1 (s.rd pgQLP ARC_COUNT_N) ∧
        t.emitted.head? = some (.hostWrite (BitVec.ofNat 64
          (s.rd2 pgQLP ARC_DST_LO_ADDR ARC_DST_HI_ADDR)) (List.replicate 64 0)) ∧
        s.Within t [pgQLP, pgPWR, pgDRC, pgDRAM 0, pgDRAM 1, pgBST]) ∧
    (∀ a, s.qlp.arc = some a →
      (∀ k, a.waiting = true → s.printRuns = true →
        (List.range s.part.kiosks).find? (fun k => s.holding k == .verif) = some k →
        ∃ t, exec .archiveTileVerified s = .next t ∧ s.SameMem t ∧
          (∀ j, j < s.part.kiosks → t.holding j ≠ .verif) ∧
          ((s.verifTile k a).2 = true →
            t.rd pgQLP ARC_TILES_N = min (s.rd pgQLP ARC_TILES_N + 1) (2 ^ 32 - 1)) ∧
          ((s.verifTile k a).2 = false → t.qlp.arc = some { a with failed := 2, waiting := false })) ∧
      (a.failed ≠ 0 → ∃ t, exec .archiveDone s = .next t ∧ fails t a.failed) ∧
      (a.failed = 0 → a.ready = true →
        ∃ t bs, exec .archiveDone s = .next t ∧ t.qlp.arc = none ∧
          t.bit pgQLP ARC_STAT_BUSY = false ∧ t.bit pgQLP ARC_STAT_DONE = true ∧
          t.rd pgQLP ARC_BYTES_N = a.out % 2 ^ 32 ∧ t.emitted = [.hostWrite a.dst bs] ∧
          bs.length = 64 ∧ bs.take 2 = [0xC4, 0xA7] ∧ s.SameMem t ∧
          s.SameRegs t (fun p o => p = pgQLP ∧ (o = 0x218 ∨ o = 0x21C)))) ∧
    (∀ r : Req, s.Takes r pgQLP → s.bit pgQLP ARC_STAT_BUSY = true →
      ∃ t, exec (.arcAbort r 0) s = .next t ∧ fails t 4)

/-- A request that finds the channels taken in this tick waits; one that finds them free and nothing
waiting is served at once. A write through a port stores its bytes where memory serves them,
poisons every codeword it touches when it is poisoned and clears what it covers whole when it is
clean; a read answers the bytes, untagged where nothing is poisoned; powered-down DRAM stores
nothing and answers tagged zeros, with LOCK_VIOL on PWR. The host window writes DRAM and the
General region, the staging area outside a transaction and shadow banks outside a commit and a
copy, with their reserved bits at 0 and DIRTY; a write elsewhere is counted, recorded and raises
bit 1 of the DRC root and writes nothing; a read answers the bytes, or zeros where invalid. A
fence's read answers its word, once no earlier host write is held or waits at its port. No byte
changes but those stored. (One request of both channels in a tick: the model's choice, log 104;
which codewords a write clears, and accesses held for a bank, its reading, logs 41 and 85; where
banks and staging area stand, its choice, logs 50 and 55.) -/
def Obligations.MemoryRequests : Prop :=
  ∀ (s : State),
    let serves := fun (a n : Nat) => s.memGone = false ∧ ∀ i, i < n → s.byteOk (a + i) = true
    let counters := fun (p : Nat) => p = pgDRAM 0 ∨ p = pgDRAM 1 ∨ p = pgPWR
    let stored := fun (t : State) (a : Nat) (bs : List Byte) =>
      (∀ i, i < bs.length → t.byte (a + i) = (bs[i]?).getD 0) ∧
      (∀ x, x < a ∨ a + bs.length ≤ x → t.byte x = s.byte x) ∧ ∀ x, t.fbyte x = s.fbyte x
    (∀ (port : Fin 5) (addr : BitVec 40) (len : BitVec 13) (bytes : List Byte) (poison : Bool),
      addr.toNat + len.toNat ≤ sramBase →
      let a := addr.toNat
      let bs := bytes.take len.toNat
      (s.dramTaken = true → s.memGone = false → ∀ write, ∃ t q, exec (.dramRequest port addr len write poison []) s = .next t ∧
        t.drc.queue = s.drc.queue ++ [q] ∧ q = ⟨port.val, a, len.toNat, write, poison, []⟩ ∧
        { t with drc := s.drc } = s.fresh.memWake) ∧
      (s.dramTaken = false → s.drc.queue = [] → (serves a bs.length →
        ∃ t, exec (.dramRequest port addr len (some bytes) poison []) s = .next t ∧ stored t a bs ∧
          s.SameRegs t (fun p _ => counters p ∨ p = pgGBK) ∧
          (poison = true → ∀ x, a ≤ x → x < a + bs.length → cwOf x ∈ t.poison) ∧
          (poison = false → a % 4 = 0 → bs.length % 4 = 0 →
            ∀ x, a ≤ x → x < a + bs.length → cwOf x ∉ t.poison)) ∧
      (serves a len.toNat → s.poison = [] → s.follies = [] →
        ∃ t, exec (.dramRequest port addr len none poison []) s = .next t ∧ s.SameMem t ∧
          t.emitted.getLast? =
            some (.dramData port.val (s.bytes a len.toNat) (List.replicate len.toNat false)) ∧
          s.SameRegs t (fun p _ => counters p ∨ p = pgGBK)) ∧
      (s.memGone = true →
        (∃ t, exec (.dramRequest port addr len none poison []) s = .next t ∧ s.SameMem t ∧
          t.emitted = [.dramData port.val (List.replicate len.toNat 0) (List.replicate len.toNat true)] ∧
          t.bit pgPWR UNIT_STATUS_LOCK_VIOL = true ∧
          s.SameRegs t (fun p o => p = pgPWR ∧ o = 0x010)) ∧
        (a < sramBase →
          ∃ t, exec (.dramRequest port addr len (some bytes) poison []) s = .next t ∧ s.SameMem t ∧
            t.bit pgPWR UNIT_STATUS_LOCK_VIOL = true ∧
            s.SameRegs t (fun p o => p = pgPWR ∧ o = 0x010))))) ∧
    (∀ (r : Req) (off : BitVec 28) (len : BitVec 13) (poison : Bool), s.served r = true →
      s.waitingAt 3 = [] →
      let a := s.rd pgDRC DRC_HOST_WIN_BASE * 2 ^ 28 + off.toNat
      let n := len.toNat
      let refused := fun (t : State) =>
        t.rd pgDRC DRC_REQ_ERR_N = min (s.rd pgDRC DRC_REQ_ERR_N + 1) (2 ^ 32 - 1) ∧
        t.Raised pgDRC 1 ∧ s.SameMem t ∧
        s.SameRegs t (fun p o => (p = pgDRC ∧ 0x0A0 ≤ o ∧ o ≤ 0x0A8) ∨ evWords pgDRC p o)
      (∀ bytes : List Byte, bytes.length = n →
        let pl := s.placeOf a n
        (pl = .plain → serves a n →
          ∃ t, exec (.hostWindowAccess r off len (some bytes) poison []) s = .next t ∧ stored t a bytes ∧
            s.SameRegs t (fun p _ => counters p ∨ p = pgGBK)) ∧
        (pl = .staging → s.rd pgONKroot UNIT_STATUS_STATE = 0 →
          ∃ t, exec (.hostWindowAccess r off len (some bytes) poison []) s = .next t ∧ stored t a bytes ∧
            s.SameRegs t (fun _ _ => False)) ∧
        (pl = .staging → s.rd pgONKroot UNIT_STATUS_STATE ≠ 0 →
          ∃ t, exec (.hostWindowAccess r off len (some bytes) poison []) s = .next t ∧
            t.bit pgONKroot UNIT_STATUS_LOCK_VIOL = true ∧ t.Raised pgGKP 0 ∧ s.SameMem t) ∧
        (∀ h, pl = .trl h → s.commitOf (pgTRL h) = none → s.trlState h ≠ bkSYNCING →
          ∃ t, exec (.hostWindowAccess r off len (some bytes) poison []) s = .next t ∧
            stored t a (s.trlBytes h a bytes) ∧ t.trlState h = bkDIRTY ∧
            s.SameRegs t (fun p o => p = pgTRL h ∧ o = 0x010)) ∧
        (∀ k, pl = .cam k → s.commitOf (pgCAM k) = none → s.camBankState k ≠ bkSYNCING →
          ∃ t, exec (.hostWindowAccess r off len (some bytes) poison []) s = .next t ∧
            stored t a (s.camBytes k a bytes) ∧ t.camBankState k = bkDIRTY ∧
            s.SameRegs t (fun p o => p = pgCAM k ∧ o = 0x010)) ∧
        (pl = .readOnly ∨ pl = .invalid →
          ∃ t, exec (.hostWindowAccess r off len (some bytes) poison []) s = .next t ∧ refused t)) ∧
      (s.placeOf a n = .invalid →
        ∃ t, exec (.hostWindowAccess r off len none poison []) s = .next t ∧ refused t ∧
          t.emitted = [.windowData r (List.replicate n 0) false]) ∧
      (s.placeOf a n ≠ .invalid → s.poison = [] → s.follies = [] → serves a n →
        ∃ t, exec (.hostWindowAccess r off len none poison []) s = .next t ∧ s.SameMem t ∧
          t.emitted.getLast? = some (.windowData r (s.bytes a n) false) ∧
          s.SameRegs t (fun p _ => counters p ∨ p = pgGBK) ∧
          (sramBase ≤ a → s.SameRegs t (fun _ _ => False)))) ∧
    (∀ r : Req, s.open r pgDRC = true →
      (s.storesHeld = false →
        ∃ t, exec (.hostFenceRead r) s = .next t ∧ t.emitted = [.readData r (s.word pgDRC 0x0AC)] ∧
          { t with emitted := [] } = s.reached r pgDRC) ∧
      (s.storesHeld = true →
        ∃ t, exec (.hostFenceRead r) s = .next t ∧ t.emitted = [] ∧
          t.drc.fences = s.drc.fences ++ [r] ∧ { t with drc := s.drc } = s.reached r pgDRC))

/-- A refresh falls due: it is issued at once, or owed while a port in panic has a request that waits,
and issued all the same at the fourth owed, which counts under panic. The scrubber reads its next
burst, counts its bytes and, past the end, a pass; an uncorrectable codeword counts and raises bit
1. A training slice without panic moves on and shows the temperature; the sweep's end without eyes
raises bit 2; a forced sweep that ends well is a full training. RETRAIN and the trigger start a
forced sweep; CLEAR_ERRS clears both counters; ENABLE of a channel reads the geometry and trains
it, its end leaves RUN, or, after a failure or with a geometry that R281 does not name, FAILED
with bit 2; a channel in use is not switched off. A port's long panic is reported once. No byte of
memory changes. (When a port is in panic: the model's reading, log 42; both channels trained in
one row, its reading, log 20.) While SYS is clocked, COPY of sound operands reads them and shows
state 2 and CMD_BUSY; its end on unpoisoned memory that serves every byte leaves at the
destination, row by row, what the source held when it began, overlapping operands of one stride
too, or the fill pattern, with ROWS, DONE and bit 0, and changes no byte outside the destination's
rows; a cancelled copy has written some of its rows (how many is free, log 80), with CANCELLED and
bit 1. (What errors its source's SRAM shows are the row's: the model's choice, log 38; the order
of requests at a port, log 104.) -/
def Obligations.DramAndCopies : Prop :=
  (∀ (s : State) (c : Fin 2),
    let pg := pgDRAM c.val
    let state := fun (t : State) => t.rd pg UNIT_STATUS_STATE
    let quiet := s.poison = [] ∧ s.follies = []
    (∀ hot : Bool, s.chanUp c = true →
      let owed := (s.rd pg DRC_REF_STAT_OWED + 1) % 2 ^ DRC_REF_STAT_OWED.width
      let waits := s.urgent.isSome = true ∧ owed < 4
      ∃ t, exec (.refreshDue c hot) s = .next t ∧ t.bit pg DRC_REF_STAT_HOT = hot ∧ s.SameMem t ∧
        s.SameRegs t (fun p o => p = pg ∧ o = 0x074) ∧
        { t with regs := s.regs, drc := s.drc } = s.fresh ∧ (owed ≠ 0 → ¬ waits → (t.chan c).rows = []) ∧
        t.rd pg DRC_REF_STAT_OWED =
          (if waits then owed else owed - 1) ∧
        t.rd pg DRC_REF_STAT_MAX_HITS = (if s.anyPanic = true ∧ 4 ≤ owed then
          min (s.rd pg DRC_REF_STAT_MAX_HITS + 1) 255 else s.rd pg DRC_REF_STAT_MAX_HITS)) ∧
    (s.chanUp c = true → s.levelOf .mem = 2 → s.bit pg DRC_SCRUB_EN = true → quiet →
      let i := (s.chan c).scrub
      let reads := fun (t : State) =>
        t.rd2 pg DRC_BYTES_LO_N DRC_BYTES_HI_N =
          (s.rd2 pg DRC_BYTES_LO_N DRC_BYTES_HI_N + 64) % 2 ^ 64 ∧
        (s.fitted ≤ scrubAddr c (i + 1) → (t.chan c).scrub = 0 ∧
          t.rd pg DRC_SCRUB_PASS_N = (s.rd pg DRC_SCRUB_PASS_N + 1) % 2 ^ 32) ∧
        (scrubAddr c (i + 1) < s.fitted → (t.chan c).scrub = i + 1 ∧
          t.rd pg DRC_SCRUB_PASS_N = s.rd pg DRC_SCRUB_PASS_N) ∧ s.Within t [pg]
      (∃ t, exec (.scrubRead c []) s = .next t ∧ reads t ∧ t.rd pg DRC_UE_N = s.rd pg DRC_UE_N) ∧
      (∀ e : BeatErr, scrubAddr c i ≤ e.addr.toNat → e.addr.toNat < scrubAddr c i + 64 →
        s.byteOk e.addr.toNat = true → e.bit = none →
        ∃ t, exec (.scrubRead c [e]) s = .next t ∧ reads t ∧ t.Raised pg 1 ∧
          t.rd pg DRC_UE_N = min (s.rd pg DRC_UE_N + 1) (2 ^ 32 - 1))) ∧
    (∀ (eyes : Bool) (temp : BitVec 16), s.chanUp c = true → s.levelOf .mem = 2 →
      s.anyPanic = false → s.armedFolly pg = none →
      ∃ t, exec (.trainingSlice c eyes temp) s = .next t ∧ t.rd pg DRC_CH_TEMP_TEMP = temp.toNat ∧
        (t.chan c).sliceAt = s.now ∧ s.SameMem t ∧
        (s.rd pg DRC_SLICE_STAT_POS < 639 →
          t.rd pg DRC_SLICE_STAT_POS = s.rd pg DRC_SLICE_STAT_POS + 1 ∧
          s.SameRegs t (fun p o => p = pg ∧ (o = 0x040 ∨ o = 0x054))) ∧
        (639 ≤ s.rd pg DRC_SLICE_STAT_POS → t.rd pg DRC_SLICE_STAT_POS = 0 ∧
          (eyes = false → t.Raised pg 2) ∧
          (state s = 3 → state t = 2 ∧
            t.rd pg DRC_CAL_STAT_COUNT = min (s.rd pg DRC_CAL_STAT_COUNT + 1) 65535 ∧
            t.rd pg DRC_CAL_STAT_TEMP = temp.toNat) ∧
          (state s ≠ 3 → state t = state s))) ∧
    (s.chanUp c = true →
      ∃ t, exec (.forcedSweepTrigger c) s = .next t ∧ state t = 3 ∧ t.rd pg DRC_SLICE_STAT_POS = 0 ∧
        (t.chan c).sliceAt = s.now ∧ s.SameMem t ∧
        s.SameRegs t (fun p o => p = pg ∧ (o = 0x010 ∨ o = 0x054)) ∧
        { t with regs := s.regs, drc := s.drc } = s.fresh) ∧
    (∀ p : Fin 5,
      ∃ t, exec (.panicLong p) s = .next t ∧
        t.bit pgDRC (DRC_PORT_STAT_PANIC p.val) = s.portPanic p.val ∧
        t.drc.told.get p = s.portPanic p.val ∧ s.SameMem t ∧
        (s.portPanic p.val = true → s.drc.told.get p = false → t.Raised pgDRC 0) ∧
        s.SameRegs t (fun q o => (q = pgDRC ∧ o = 0x080 + 4 * p.val) ∨ evWords pgDRC q o)) ∧
    (∀ r : Req, s.Takes r pg →
      (s.chanLive c.val = true →
        ∃ t, exec (.retrain r c 0) s = .next t ∧ state t = 3 ∧ t.rd pg DRC_SLICE_STAT_POS = 0 ∧
          s.SameMem t ∧ s.SameRegs t (fun p o => p = pg ∧ (o = 0x010 ∨ o = 0x054)) ∧
          { t with regs := s.regs, drc := s.drc } = s.taken r pg 1) ∧
      ∃ t, exec (.clearErrs r c 0) s = .next t ∧ t.rd pg DRC_CE_N = 0 ∧ t.rd pg DRC_UE_N = 0 ∧
        s.SameMem t ∧ s.SameRegs t (fun p o => p = pg ∧ (o = 0x060 ∨ o = 0x064)) ∧
        { t with regs := s.regs } = s.taken r pg 2) ∧
    (∀ r : Req, s.open r pg = true →
      (s.bit pg UNIT_CTRL_ENABLE = false →
        ∃ t, exec (.channelEnable r c true) s = .next t ∧ t.bit pg UNIT_CTRL_ENABLE = true ∧
          state t = 1 ∧ (t.chan c).geom = (s.word pgDRC 0x040).toNat ∧
          t.rd pgDRC DRC_SIZE_MIB = 2 * geomMib (s.word pgDRC 0x040).toNat ∧ s.SameMem t ∧
          s.SameRegs t (fun p o => (p = pg ∧ (o = 0x00C ∨ o = 0x010)) ∨ (p = pgDRC ∧ o = 0x044)) ∧
          { t with regs := s.regs, drc := s.drc } = s.reached r pg) ∧
      (s.dramInUse = false →
        ∃ t, exec (.channelEnable r c false) s = .next t ∧ t.bit pg UNIT_CTRL_ENABLE = false ∧
          state t = 0 ∧ s.SameMem t ∧ s.SameRegs t (fun p o => p = pg ∧ (o = 0x00C ∨ o = 0x010)) ∧
          { t with regs := s.regs, drc := s.drc } = s.reached r pg) ∧
      (s.dramInUse = true →
        ∃ t, exec (.channelEnable r c false) s = .next t ∧ s.Dropped t r pg)) ∧
    (∀ (ok : Bool) (temp : BitVec 16), state s = 1 →
      let good := ok && geomOk (s.chan c).geom
      ∃ t, exec (.channelTrainDone c ok temp) s = .next t ∧ t.rd pg DRC_CH_TEMP_TEMP = temp.toNat ∧
        state t = (if good then 2 else 4) ∧ (good = false → t.Raised pg 2) ∧ s.SameMem t ∧
        s.SameRegs t (fun p o => (p = pg ∧ (o = 0x010 ∨ o = 0x040)) ∨ evWords pg p o))) ∧
  (∀ (s : State),
    (∀ r : Req, s.Takes r pgCPY → s.drc.copy = none →
      let c := s.copyRegs
      s.copyBad c = false → (∀ p, (s.copyPlace c).page = some p → s.commitOf p = none) →
      (c.meets = true → c.srcStride = c.dstStride) →
      ∃ t, exec (.copy r 0) s = .next t ∧ t.drc.copy = some c ∧ t.rd pgCPY UNIT_STATUS_STATE = 2 ∧
        s.SameMem t ∧ s.SameRegs t (fun p o => p = pgCPY ∧ o = 0x010) ∧
        { t with regs := s.regs, drc := s.drc } = s.taken r pgCPY 1) ∧
    (∀ c, s.drc.copy = some c → s.copyPlace c = .plain → c.whens = [] → s.copyBad c = false →
      s.runs .sys = true → s.memGone = false → s.poison = [] → s.follies = [] → s.waitingAt 4 = [] → c.height < 65536 →
      (c.meets = true → c.srcStride = c.dstStride) →
      (∀ i, i < spanOf c.width c.height c.dstStride → s.byteOk (c.dst + i) = true) →
      (c.fill = none → ∀ i, i < spanOf c.width c.height c.srcStride → s.byteOk (c.src + i) = true) →
      ∃ t, exec (.copyDone []) s = .next t ∧ t.drc.copy = none ∧ t.rd pgCPY UNIT_STATUS_STATE = 1 ∧
        t.rd pgCPY CPY_STAT_ROWS = c.rows.length ∧ t.bit pgCPY CPY_STAT_DONE = true ∧
        t.Raised pgCPY 0 ∧
        (∀ y x, y < c.height → x < c.width →
          t.byte (c.dst + y * c.dstStride + x) =
            match c.fill with
            | none => s.byte (c.src + y * c.srcStride + x)
            | some w => BitVec.ofNat 8 (w.toNat / 256 ^ (x % 4))) ∧
        (∀ a, (∀ y, y < c.height → a < c.dst + y * c.dstStride ∨ c.dst + y * c.dstStride + c.width ≤ a) →
          t.byte a = s.byte a) ∧ ∀ a, t.fbyte a = s.fbyte a) ∧
    (∀ (r : Req) c, s.Takes r pgCPY → s.drc.copy = some c → c.whens = [] →
      ∃ t, exec (.copyCancel r 0 []) s = .next t ∧ t.drc.copy = none ∧
        t.rd pgCPY UNIT_STATUS_STATE = 1 ∧ t.bit pgCPY CPY_STAT_CANCELLED = true ∧
        t.Raised pgCPY 1 ∧ t.rd pgCPY CPY_STAT_ROWS ≤ c.rows.length ∧ ∀ a, t.fbyte a = s.fbyte a))

/-- With no active port one that is STANDBY, or an old one that kept its role with PCS up, takes the
role, the primary first; a loss of the active path shows its cause, counts and raises bit 1, and
the other port takes over where it is STANDBY, else there is no path; AUTO_RETURN and SWITCH hand
the role over, with frames still queued on the old port once they have left, and leave the old
port ACTIVE for the overlap, whose end makes it STANDBY, or DOWN without its link; 60 s on the
primary restore the wait. ENABLE, link-up and link-down of a port show in its state, PCS_UP and
LOS_NOW, a loss counts and raises bit 0, in either role, and the active port keeps its role until
its loss is declared. A frame that the listening port, its link up, matches as a wake frame wakes
a sleeping device and else sets SEEN, and no other does anything; a pending message of an unmasked
vector goes out with its entry's address and data. No byte of memory changes. (That a port that
becomes ACTIVE is counted each time, and an old one's state: the model's reading, log 40; how many
frames are queued: free, log 102; MSI-X at reset: presumed, log 47.) -/
def Obligations.NetworkPaths : Prop :=
  ∀ (s : State),
    let active := s.rd pgNETroot NET_PATH_STAT_ACTIVE
    let takes := fun (t : State) (q : Fin 2) =>
      t.activeIs q.val = true ∧ t.portState q.val = 3 ∧ t.Raised (pgNET q.val) 2 ∧
      t.rd pgNETroot NET_SWITCHES_N = min (s.rd pgNETroot NET_SWITCHES_N + 1) (2 ^ 32 - 1) ∧
      s.Within t [pgNETroot, pgNET 0, pgNET 1, pgBST]
    let up := fun (p : Fin 2) => s.portState p.val = 2 ∨
      (s.portState p.val = 3 ∧ s.bit (pgNET p.val) NET_STATUS_PCS_UP = true)
    let picked := fun (t : State) (q : Fin 2) =>
      takes t q ∧ (s.portState (otherPort q).val = 3 →
        t.portState (otherPort q).val = s.idleState (otherPort q))
    let returns := fun (t : State) (q : Fin 2) =>
      takes t q ∧ t.bit pgNETroot NET_PATH_STAT_OVERLAP =
        decide (s.rd pgNETroot NET_PATH_CFG_OVERLAP_US ≠ 0) ∧
      (s.portState (otherPort q).val = 3 → t.portState (otherPort q).val =
        if s.rd pgNETroot NET_PATH_CFG_OVERLAP_US = 0 then s.idleState (otherPort q) else 3)
    let waits := fun (t : State) (q : Fin 2) (auto : Bool) =>
      t.net.move = some ⟨q, s.queuedFrames.length, auto⟩ ∧ s.SameMem t ∧ s.SameRegs t (fun _ _ => False)
    (s.levelOf .net = 2 →
      (s.bit pgNETroot NET_PATH_STAT_NO_PATH = true →
        ∃ t, exec .pathCheck s = .next t ∧
          (up s.primary → picked t s.primary) ∧
          (¬ up s.primary → up (otherPort s.primary) → picked t (otherPort s.primary)) ∧
          (¬ up 0 → ¬ up 1 → t = s.fresh)) ∧
      (∀ (cause : LossCause) (p : Fin 2), p.val = active → s.bit pgNETroot NET_PATH_STAT_NO_PATH = false →
        s.bit pgNETroot NET_PATH_STAT_OVERLAP = false →
        (cause = .keepalive → s.bit pgNETroot NET_PATH_STAT_RIP_SILENT = false ∧
          ∃ i : Fin 4, s.stmRunning i.val = true ∧ (s.stmOf i).src = 0 ∧ s.net.heard.get i = true) →
        (cause = .disabled → s.bit (pgNET p.val) UNIT_CTRL_ENABLE = false) →
        ∃ t, exec (.pathLoss cause) s = .next t ∧ t.rd (pgNET p.val) NET_PATH_CAUSE = causeNum cause ∧
          t.rd (pgNET p.val) NET_PATH_LOSSES = min (s.rd (pgNET p.val) NET_PATH_LOSSES + 1) 65535 ∧
          t.Raised (pgNET p.val) 1 ∧ s.Within t [pgNETroot, pgNET 0, pgNET 1, pgBST] ∧ t.net.move = none ∧
          (s.portState (otherPort p).val = 2 → takes t (otherPort p) ∧
            t.portState p.val = s.idleState p) ∧
          (s.portState (otherPort p).val ≠ 2 → t.bit pgNETroot NET_PATH_STAT_NO_PATH = true)) ∧
      (s.bit pgNETroot NET_PATH_CFG_AUTO_RETURN = true → s.portState s.primary.val = 2 →
        s.activeIs (otherPort s.primary).val = true →
        s.net.move = none →
        (s.queuedFrames = [] →
          ∃ t, exec .autoReturn s = .next t ∧ returns t s.primary ∧ t.net.returnedAt = some s.now) ∧
        (s.queuedFrames ≠ [] →
          ∃ t, exec .autoReturn s = .next t ∧ waits t s.primary true ∧
            { t with net := s.net, free := s.free } = s.fresh)) ∧
      (∀ p : Fin 2, p.val = active → s.bit pgNETroot NET_PATH_STAT_OVERLAP = true →
        ∃ t, exec .overlapEnd s = .next t ∧ t.bit pgNETroot NET_PATH_STAT_OVERLAP = false ∧
          t.portState (otherPort p).val = (if s.portState (otherPort p).val = 3 then s.idleState (otherPort p)
            else s.portState (otherPort p).val) ∧ s.SameMem t ∧
          s.SameRegs t (fun q o => (q = pgNETroot ∧ o = 0x068) ∨ (q = pgNET (otherPort p).val ∧ o = 0x010)) ∧
          { t with regs := s.regs } = s.fresh) ∧
      (s.activeIs s.primary.val = true →
        ∃ t, exec .returnWaitReset s = .next t ∧ t.rd pgNETroot NET_PATH_STAT_WAIT_S =
            min (max (s.rd pgNETroot NET_RETURN_S) 1) 640 ∧ t.net.doubled = false ∧ s.SameMem t ∧
          s.SameRegs t (fun q o => q = pgNETroot ∧ o = 0x068) ∧
          { t with regs := s.regs, net := s.net } = s.fresh)) ∧
    (∀ (r : Req) (p : Fin 2), s.Takes r pgNETroot → p.val = active →
      s.bit pgNETroot NET_PATH_STAT_NO_PATH = false → s.portState (otherPort p).val = 2 →
      s.net.move = none →
      (s.queuedFrames = [] → ∃ t, exec (.switch r 0) s = .next t ∧ returns t (otherPort p)) ∧
      (s.queuedFrames ≠ [] → ∃ t, exec (.switch r 0) s = .next t ∧ waits t (otherPort p) false ∧
        { t with net := s.net, free := s.free } = s.taken r pgNETroot 1)) ∧
    (∀ (p : Fin 2),
      let pg := pgNET p.val
      (∀ r : Req, s.open r pg = true → s.bit pg UNIT_CTRL_ENABLE = false →
        ∃ t, exec (.netPortEnable r p) s = .next t ∧ t.bit pg UNIT_CTRL_ENABLE = true ∧
          (t.port p).mode = s.rd pg NET_PORT_CFG_MODE ∧ s.SameMem t ∧
          t.portState p.val = (if s.rd pgCLK (CLK_PLL_CFG_TARGET (12 + p.val)) =
            (if s.rd pg NET_PORT_CFG_MODE = 3 then 1 else 0) then 1 else 4) ∧
          s.SameRegs t (fun q o => (q = pg ∧ (o = 0x00C ∨ o = 0x010)) ∨ q = pgCLK ∨ s.powerWord q o)) ∧
      (s.levelOf .net = 2 → s.bit pg UNIT_CTRL_ENABLE = true → s.portState p.val ≠ 4 →
        s.pllLocked (12 + p.val) = true → s.follyOn pg 1 = false →
        ∃ t, exec (.portLinkUp p) s = .next t ∧ t.bit pg NET_STATUS_PCS_UP = true ∧
          t.bit pg NET_STATUS_LOS_NOW = false ∧ (t.port p).upAt = some s.now ∧
          t.portState p.val = (if s.portState p.val = 1 then 2 else s.portState p.val) ∧ s.SameMem t ∧
          s.SameRegs t (fun q o => q = pg ∧ o = 0x010) ∧
          { t with regs := s.regs, net := s.net } = s.fresh) ∧
      (∀ los : Bool, s.levelOf .net = 2 → s.bit pg NET_STATUS_PCS_UP = true →
        ∃ t, exec (.portLinkDown p los) s = .next t ∧ t.bit pg NET_STATUS_PCS_UP = false ∧
          t.bit pg NET_STATUS_LOS_NOW = los ∧
          t.portState p.val = (if s.portState p.val = 2 then 1 else s.portState p.val) ∧ t.Raised pg 0 ∧
          t.rd pg NET_LINK_DOWNS = min (s.rd pg NET_LINK_DOWNS + 1) 65535 ∧ s.SameMem t ∧
          s.SameRegs t (fun q o => (q = pg ∧ (o = 0x010 ∨ o = 0x090)) ∨ evWords pg q o))) ∧
    (∀ frame : List Byte, s.isWake frame = false →
      exec (.wakeFrameMatch frame) s = .next s.fresh) ∧
    (∀ frame : List Byte, s.listening (s.rd pgNETroot NET_WAKE_PORT) = true → s.levelOf .net ≠ 0 →
      s.bit (pgNET (s.rd pgNETroot NET_WAKE_PORT)) NET_STATUS_PCS_UP = true → s.isWake frame = true →
      (s.asleep = true →
        ∃ t, exec (.wakeFrameMatch frame) s = .next t ∧
          (t.aon.wakePending = true ∨ t.Raised pgPWR 1) ∧
          t.bit pgPWR PWR_WAKE_CAUSE_WAKE_FRAME = true ∧
          t.rd pgPWR (PWR_VOTE_LEVEL 0) = s.rd pgPWR PWR_WAKE_VOTE_LEVEL ∧ s.SameMem t) ∧
      (s.asleep = false →
        ∃ t, exec (.wakeFrameMatch frame) s = .next t ∧ t.bit pgNETroot NET_WAKE_SEEN = true ∧ s.SameMem t ∧
          s.SameRegs t (fun q o => q = pgNETroot ∧ o = 0x070) ∧ { t with regs := s.regs } = s.fresh)) ∧
    (∀ v : Fin 40, s.pcie.due.contains v.val = true → s.vecMasked 0 v.val = false →
      s.mayMessage 0 = true →
      ∃ t, exec (.msixMessage v) s = .next t ∧
        t.emitted = [.msix 0 v.val (s.pcie.entries.lookup (0, v.val))] ∧
        t.pcie.due = s.pcie.due.filter (· != v.val) ∧
        { t with pcie := s.pcie, emitted := [] } = s.fresh)

/-- A frame on a port that is up counts as good, bad or lost to a full queue; one with two tags is
dropped; one for the virtual interface reaches the next receive descriptor with its completion and
moves the head; one that asks the device is answered; a PTP event message is stamped. The doorbell
sets the tail; the next transmit descriptor's frame leaves the active port, padded to 60 bytes,
with a correction where the descriptor asks and one is possible, else it is skipped, counted and
raises bit 1; its completion moves the head. VNI_RESET reads the rings afresh; a completion
timeout counts. STEP adds its signed step, SET sets the count and clears STALE, and a pass through
2^32 sets its wrap bit, raises bit 0 and moves TB0's wrap count, where SET sets no bit; the last
frame that a change of role waited for brings it about. No byte of memory changes. (Where a stamp
is taken, what a frame brings with it of the queue and the codewords, and the port that a
transmitted frame leaves on: the model's choice, logs 39, 49 and 92; frames with more than one
tag, log 102.) -/
def Obligations.NetworkFrames : Prop :=
  ∀ (s : State),
    let v := s.net.vni
    let txHead := s.rd pgNETroot VNI_TX_HEAD_HEAD
    let rxHead := s.rd pgNETroot VNI_RX_HEAD_HEAD
    let nextOf := fun (n size : Nat) => (n + 1) % max size 1 % 65536
    let vniOn := s.bit pgNETroot VNI_CTRL_EN = true ∧ v.fenced = false
    let txWaits := txHead ≠ s.rd pgNETroot VNI_TX_TAIL_TAIL % max v.txSize 1
    let passes := fun (t : State) (i : Fin 4) (forward : Bool) =>
      t.Raised pgPTP 0 ∧
      t.rd pgPTP (if forward then PTP_WRAP_STAT_WRAP else PTP_WRAP_STAT_UNWRAP) / 2 ^ i.val % 2 = 1 ∧
      (t.tb.get 0).wraps = (if i = 0 then (if forward then (s.tb.get 0).wraps + 1
        else (s.tb.get 0).wraps - 1) else (s.tb.get 0).wraps)
    (∀ (p : Fin 2) (f : RxFrame), s.levelOf .net = 2 →
      s.portState p.val = 2 ∨ s.portState p.val = 3 → f.bytes.length + 4 ≤ 9216 →
      s.armedFolly (pgNET p.val) = none → s.listening p.val = false →
      let pg := pgNET p.val
      let bs := f.bytes
      let fits := f.fill.toNat + (bs.length + 4) ≤ 2 ^ 20
      let quiet := fun (q o : Nat) => q = pg ∧ (o = 0x05C ∨ o = 0x080 ∨ o = 0x084)
      (¬ fits →
        ∃ t, exec (.netFrameRx p f) s = .next t ∧ t.emitted = [] ∧
          t.rd pg NET_RX_OVF_N = min (s.rd pg NET_RX_OVF_N + 1) (2 ^ 32 - 1) ∧
          t.rd pg NET_RXQ_FILL_BYTES = f.fill.toNat % 2 ^ NET_RXQ_FILL_BYTES.width ∧ s.SameMem t ∧
          s.SameRegs t (fun q o => quiet q o ∨ (q = pg ∧ o = 0x078))) ∧
      (fits → f.badAt.isSome = true →
        ∃ t, exec (.netFrameRx p f) s = .next t ∧
          t.rd pg NET_RX_ERRS_BAD = min (s.rd pg NET_RX_ERRS_BAD + 1) 65535 ∧ s.SameMem t ∧
          ((s.port p).badAt = none → t.Raised pg 3) ∧
          s.SameRegs t (fun q o => quiet q o ∨ (q = pg ∧ o = 0x074) ∨ evWords pg q o)) ∧
      (fits → f.badAt = none → 2 ≤ frameTags bs →
        ∃ t, exec (.netFrameRx p f) s = .next t ∧ t.emitted = [] ∧ s.SameMem t ∧ s.SameRegs t quiet) ∧
      (fits → f.badAt = none → frameTags bs < 2 →
        ∃ t, exec (.netFrameRx p f) s = .next t ∧ s.Within t [pg, pgPTP, pgNETroot] ∧
          t.rd pg NET_RXQ_FILL_BYTES = 0 ∧
          t.rd2 pg NET_RX_FRAMES_LO_N NET_RX_FRAMES_HI_N =
            (s.rd2 pg NET_RX_FRAMES_LO_N NET_RX_FRAMES_HI_N + 1) % 2 ^ 64 ∧
          (s.portState p.val = 2 ∨ isPause bs = true → t.emitted = [] ∧
            s.SameRegs t (fun q o => quiet q o ∨ (q = pg ∧ (o = 0x064 ∨ o = 0x068)))) ∧
          (s.portState p.val = 3 → isPause bs = false →
            ((ptpAt bs).isSome = true →
              t.rd pgPTP PTP_STAMPED_N = min (s.rd pgPTP PTP_STAMPED_N + 1) (2 ^ 32 - 1)) ∧
            (s.toVni bs = true → ptpAt bs = none → vniOn → bs.length ≤ 1522 →
              rxHead ≠ s.rd pgNETroot VNI_RX_TAIL_TAIL % max v.rxSize 1 →
              let desc := v.rxAddr + BitVec.ofNat 64 (16 * rxHead)
              t.rd pgNETroot VNI_RX_HEAD_HEAD = nextOf rxHead v.rxSize ∧
              t.emitted.take 2 = [.vniRx desc bs,
                .hostWrite (desc + 8) (leBytes 2 bs.length ++ [1, 0] ++ leBytes 4 0)]) ∧
            (s.toVni bs = false → s.activeIs p.val = true → ∀ k, s.answerTo bs = some k →
              t.emitted = [.answer p.val s.ownVlan k bs])))) ∧
    (∀ (r : Req) (tail : BitVec 16), s.open r pgNETroot = true →
      ∃ t, exec (.vniTxDoorbell r tail) s = .next t ∧ t.rd pgNETroot VNI_TX_TAIL_TAIL = tail.toNat ∧
        s.SameMem t ∧ s.SameRegs t (fun q o => q = pgNETroot ∧ o = 0x09C) ∧
        { t with regs := s.regs } = s.reached r pgNETroot) ∧
    (∀ (desc frame : List Byte) (age : BitVec 16) (fill : BitVec 13) (p : Fin 2),
      s.levelOf .net = 2 → vniOn → txWaits → s.activeIs p.val = true →
      let byteAt := fun n => (desc[n]?).getD 0
      let flags := leAt byteAt 10 1
      let len := leAt byteAt 8 2
      let sent := fun (out : List Byte) =>
        Emission.frame p.val (out ++ List.replicate (60 - out.length) 0) false
      let corrected := s.oneStep (frame.take len) (leAt byteAt 12 4) age.toNat
        (s.rd (pgNET p.val) NET_TS_LAT_TX_NS)
      14 ≤ len → len ≤ 1522 →
      ∃ t, exec (.vniTxDone desc frame false age fill) s = .next t ∧
        t.rd pgNETroot VNI_TX_HEAD_HEAD = nextOf txHead v.txSize ∧
        t.rd (pgNET p.val) NET_TXQ_FILL_BYTES = fill.toNat ∧
        (s.net.move = none → s.Within t [pgNET p.val, pgPTP, pgNETroot]) ∧
        (∀ m, s.net.move = some m →
          (2 ≤ m.left → t.net.move = some { m with left := m.left - 1 } ∧ t.activeIs p.val = true) ∧
          (m.left ≤ 1 → s.portState m.target.val = 2 →
            t.net.move = none ∧ t.activeIs m.target.val = true)) ∧
        (flags % 2 = 0 → t.emitted.head? = some (sent (frame.take len))) ∧
        (flags % 2 = 1 → ∀ out, corrected = some out →
          t.emitted.head? = some (sent out) ∧
          t.rd pgPTP PTP_CORRECTED_N = min (s.rd pgPTP PTP_CORRECTED_N + 1) (2 ^ 32 - 1)) ∧
        (flags % 2 = 1 → corrected = none →
          t.rd pgPTP PTP_CORR_SKIPS_N = min (s.rd pgPTP PTP_CORR_SKIPS_N + 1) (2 ^ 32 - 1) ∧
          t.Raised pgPTP 1)) ∧
    (∀ r : Req, s.Takes r pgNETroot → s.bit pgNETroot VNI_CTRL_EN = true →
      ∃ t, exec (.vniReset r 0) s = .next t ∧ t.rd pgNETroot VNI_TX_HEAD_HEAD = 0 ∧
        t.rd pgNETroot VNI_RX_HEAD_HEAD = 0 ∧ t.net.vni.fenced = false ∧
        t.net.vni.txSize = s.rd pgNETroot VNI_TX_SIZE_N ∧
        t.net.vni.rxSize = s.rd pgNETroot VNI_RX_SIZE_N ∧ s.SameMem t ∧
        s.SameRegs t (fun q o => q = pgNETroot ∧ (o = 0x0A0 ∨ o = 0x0B4)) ∧
        { t with regs := s.regs, net := s.net } = s.taken r pgNETroot 2) ∧
    (vniOn →
      (txWaits → ∃ t, exec (.dmaTimeout .vniTx) s = .next t ∧
        t.rd pgNETroot VNI_TX_HEAD_HEAD = nextOf txHead v.txSize ∧
        t.rd pgPCIE PCIE_CPL_TIMEOUTS_N = min (s.rd pgPCIE PCIE_CPL_TIMEOUTS_N + 1) (2 ^ 32 - 1) ∧
        t.emitted.head? = some (.hostWrite (v.txAddr + BitVec.ofNat 64 (16 * txHead + 10)) [6]) ∧
        s.SameMem t) ∧
      ∃ t, exec (.dmaTimeout .vniRx) s = .next t ∧ s.SameMem t ∧
        t.rd pgPCIE PCIE_CPL_TIMEOUTS_N = min (s.rd pgPCIE PCIE_CPL_TIMEOUTS_N + 1) (2 ^ 32 - 1) ∧
        s.SameRegs t (fun q o => q = pgPCIE ∧ o = 0x050) ∧ t.pcie = (s.noteError 0 14).pcie ∧
        { t with regs := s.regs, pcie := s.pcie } = s.fresh) ∧
    (∀ i : Fin 4,
      let pg := pgTB i.val
      (s.tbRuns i.val = true → (s.tb.get i).frac < 2 ^ 32 →
        ∃ t, exec (.tbWrap i) s = .next t ∧ passes t i true ∧ t.tbCount i < s.tbStep i.val ∧
          s.SameMem t ∧
          s.SameRegs t (fun q o => (q = pg ∧ o = 0x040) ∨ (q = pgPTP ∧ o = 0x040) ∨ evWords pgPTP q o)) ∧
      (∀ r : Req, s.Takes r pg →
        let c : Int := s.rd pg TB_NS_NS + s.rdS pg TB_STEP_NS
        ∃ t, exec (.tbStep r i 0) s = .next t ∧ (t.rd pg TB_NS_NS : Int) = c % 2 ^ 32 ∧
          t.bit pg TB_STATUS_STALE = false ∧ (t.tb.get i).frac = (s.tb.get i).frac ∧
          (2 ^ 32 ≤ c → passes t i true) ∧ (c < 0 → passes t i false) ∧
          (0 ≤ c → c < 2 ^ 32 → s.SameRegs t (fun q o => q = pg ∧ (o = 0x010 ∨ o = 0x040)) ∧
            { t with regs := s.regs } = s.taken r pg 1) ∧ s.Within t [pg, pgPTP]) ∧
      (∀ r : Req, s.TakesOff r pg →
        ∃ t, exec (.tbSet r i 0) s = .next t ∧ t.rd pg TB_NS_NS = s.rd pg TB_SET_NS ∧
          (t.tb.get i).frac = 0 ∧ t.bit pg TB_STATUS_STALE = false ∧
          (∀ j, (t.tb.get j).wraps = (s.tb.get j).wraps) ∧ s.SameMem t ∧
          s.SameRegs t (fun q o => q = pg ∧ (o = 0x010 ∨ o = 0x040)) ∧
          { t with regs := s.regs, tb := s.tb } = s.taken r pg 2))

/-- MOVE and RUN_TABLE of a homed, idle axis with a sound profile or table start the motion on the
axis and, ganged, on its idle mate relative to its own position; STOP puts every profile-driven
motion of the gang on its ramp; HOME begins a search and clears the fault; SERVO enters and leaves
servo mode; SET_POSITION sets the position, HOMED and IDLE; CLEAR_FAULT leaves FAULT for IDLE
where no cause persists; LOAD_DEFAULT writes R339's table into the shadow, of a disabled axis too.
ENABLE at READY stands the axis IDLE, or in FAULT where it was; a cleared ENABLE disables a
resting axis and stops a moving one first. No byte of memory changes. (Where a ramp begins whose
acceleration is 0: the model's choice, log 69; the largest fraction for 1: its reading, log 70;
the axes of a gang each from its own position, log 75; before READY, log 91.) -/
def Obligations.AxisCommands : Prop :=
  ∀ (s : State) (r : Req) (a : Fin 4), a.val < s.part.axes →
    let pg := pgAXIS a.val
    let x := s.axisOf a.val
    let gang := s.gangOf a.val
    let free := s.gangSlave a.val = false
    let target := s.rdS pg MOT_TARGET_POS
    let onGang := fun (t : State) (o : Nat) =>
      s.SameMem t ∧ s.SameRegs t (fun p q => (∃ b ∈ gang, p = pgAXIS b) ∧ q = o)
    (s.Takes r pg →
      (s.moveWrong a.val = false → (s.profile a.val).bad = false →
        ∃ t, exec (.move r a 0) s = .next t ∧ onGang t 0x010 ∧
          (∀ b ∈ gang, b = a.val ∨ s.axisState b = 1 →
            (t.axisOf b).motion = .move (s.profile a.val)
              (target + ((s.axisOf b).at - x.at)) false ∧ t.axisState b = 2 ∧
            t.bit (pgAXIS b) AXIS_STATUS_RETRACTED = false) ∧
          { t with regs := s.regs, axes := s.axes } = s.taken r pg 1) ∧
      (∀ arg : BitVec 16, s.moveWrong a.val = false → (s.profile a.val).bad = false → s.tableBad a.val arg.toNat = false →
        ∃ t, exec (.runTable r a arg) s = .next t ∧ onGang t 0x010 ∧ t.axisState a.val = 2 ∧
          (t.axisOf a.val).motion = .table (s.profile a.val) (s.segs a.val arg.toNat) 0 x.at 0 ∧
          { t with regs := s.regs, axes := s.axes } = s.taken r pg 2) ∧
      (free → s.axisState a.val = 2 ∨ s.axisState a.val = 4 ∨ s.axisState a.val = 5 →
        ∃ t, exec (.axisStop r a 0) s = .next t ∧ onGang t 0x010 ∧
          (∀ b ∈ gang, ∀ p, (s.axisOf b).motion.prof = some p →
            ∃ c, 2 ≤ c ∧ (t.axisOf b).motion = .stop p c) ∧
          { t with regs := s.regs, axes := s.axes } = s.taken r pg 3) ∧
      (free → s.axisState a.val = 1 ∨ s.axisState a.val = 7 →
        (a.val < 2 → s.liftBreak = true → s.homed a.val = false) →
        ∃ t m, exec (.home r a 0) s = .next t ∧ onGang t 0x010 ∧ t.axisState a.val = 5 ∧
          (t.axisOf a.val).motion = .search m ∧ (t.axisOf a.val).fault = false ∧
          t.rd pg AXIS_STATUS_CAUSE = 0 ∧ m.prof = s.profile a.val ∧
          m.up = s.bit pg MOT_HOME_HOME_DIR ∧ m.v = s.rd pg MOT_HOME_V_HOME ∧
          m.home = s.rdS pg MOT_HOME_POS_POS ∧ m.range = s.rd pg MOT_HOME_RANGE_N ∧
          { t with regs := s.regs, axes := s.axes } = s.taken r pg 4) ∧
      (free → s.axisState a.val = 1 →
        ∃ t, exec (.servo r a 1) s = .next t ∧ onGang t 0x010 ∧ t.axisState a.val = 4 ∧
          (t.axisOf a.val).motion = .servo (s.profile a.val)) ∧
      (free → s.axisState a.val = 4 → x.vel = 0 → x.offAtRest = false →
        ∃ t, exec (.servo r a 0) s = .next t ∧ (t.axisOf a.val).motion = .rest ∧
          (t.axisOf a.val).vel = 0 ∧ (t.axisOf a.val).pos = x.pos ∧
          t.axisState a.val = (if x.fault then 7 else 1) ∧ s.SameMem t) ∧
      (free → s.axisState a.val = 1 ∨ (s.axisState a.val = 7 ∧ s.rd pg AXIS_STATUS_CAUSE = 4) →
        ∃ t, exec (.setPosition r a 0) s = .next t ∧ (t.axisOf a.val).pos = target * posUnit ∧
          (∀ b ∈ gang, s.placeable b = true →
            (t.axisOf b).pos = (s.axisOf b).pos + (target * posUnit - x.pos) ∧ t.homed b = true) ∧
          (∀ b ∈ gang, s.placeable b = false → t.axisOf b = s.axisOf b ∧ t.homed b = s.homed b) ∧
          t.rd pg MOT_POS_POS = s.rd pg MOT_TARGET_POS ∧ t.homed a.val = true ∧
          t.axisState a.val = 1 ∧ t.rd pg AXIS_STATUS_CAUSE = 0 ∧ s.SameMem t ∧
          { t with regs := s.regs, axes := s.axes } = s.taken r pg 6) ∧
      (s.axisState a.val = 7 → s.limitHeld a.val = false →
        ∃ t, exec (.clearFault r a 0 false) s = .next t ∧ onGang t 0x010 ∧ t.axisState a.val = 1 ∧
          t.rd pg AXIS_STATUS_CAUSE = 0 ∧ (t.axisOf a.val).fault = false ∧
          { t with regs := s.regs, axes := s.axes } = s.taken r pg 7)) ∧
    (s.TakesOff r pg →
      (free → s.axisState a.val ≠ 6 → s.axisState a.val ≠ 7 → s.commitOf pg = none →
        ∃ t, exec (.axisLoadDefault r a 0) s = .next t ∧ s.SameMem t ∧
          (∀ i, i < 256 → t.rd pg (MOT_USTEP_CB i) = sines.getD i 0 ∧
            t.rd pg (MOT_USTEP_CA i) = sines.getD (256 - i) 0) ∧
          s.SameRegs t (fun p o => (∃ b ∈ gang, p = pgAXIS b) ∧ 0x800 ≤ o ∧ o < 0xC00) ∧
          { t with regs := s.regs } = s.taken r pg 8)) ∧
    (s.open r pg = true →
      (s.axisOn a.val = false → s.ready = true → s.liftBreak = false →
        ∃ t, exec (.axisEnable r a) s = .next t ∧ t.axisOn a.val = true ∧
          t.axisState a.val = (if x.fault then 7 else 1) ∧ (t.axisOf a.val).motion = .rest ∧
          (t.axisOf a.val).pos = x.pos ∧ s.SameMem t ∧
          s.SameRegs t (fun p o => (p = pg ∧ (o = 0x00C ∨ o = 0x010)) ∨ s.powerWord p o)) ∧
      (s.axisOn a.val = false → s.ready = false →
        ∃ t, exec (.axisEnable r a) s = .next t ∧ s.Dropped t r pg) ∧
      (s.axisOn a.val = true → x.resting = true →
        ∃ t, exec (.axisDisable r a) s = .next t ∧ t.axisOn a.val = false ∧ t.axisState a.val = 0 ∧
          (t.axisOf a.val).pos = x.pos ∧ s.SameMem t ∧
          s.SameRegs t (fun p o => (p = pg ∧ (o = 0x00C ∨ o = 0x010)) ∨ s.powerWord p o)) ∧
      (∀ p, s.axisOn a.val = true → x.motion.prof = some p →
        ∃ t c, exec (.axisDisable r a) s = .next t ∧ t.axisOn a.val = true ∧
          (t.axisOf a.val).offAtRest = true ∧ (t.axisOf a.val).motion = .stop p c ∧ 2 ≤ c ∧
          s.SameMem t))

/-- With MECH up: a move or a table run ends at its target, a ramp with its code, END showing its two
low bits, MOVE_END raised and the axis IDLE, or in FAULT where it was; a servo period goes on at
the speed that the distance, V_MAX, A2 and the way to stop allow, to the set-point where it lands,
and else counts; the home switch shows in SW_HOME and turns a search round, its release latches
the edge; a search beyond its range, a limit in the direction of travel, a stall and a bridge trip
set FAULT with causes 4, 2, 1 and 3 and raise bit 1, the first three along the ramp (a retract's
at RET_A), the last at once with the bridges off; a stall asks that I_MAX and a following error
beyond FE_LIMIT have stood for FE_MS; a retract ends at RET_POS with RETRACTED. The gates of a leg
are never both on, and a gate is on only where its mate has been off for DEAD_NS. Hold, and the
clock change while no chopper drives, set their state and nothing else. No byte of memory changes.
(The rotor above V_EST, and the chopper's sense: free, logs 68 and 103; the form of a servo
period: the model's choice, log 71; the codes of ramps, log 74, of a retract's end and of its
faults, log 108; what a gang's mate does, log 75.) -/
def Obligations.AxisMotion : Prop :=
  ∀ (s : State) (a : Fin 4), a.val < s.part.axes → s.levelOf .mech = 2 →
    let pg := pgAXIS a.val
    let x := s.axisOf a.val
    let stands := fun (t : State) =>
      (t.axisOf a.val).motion = .rest ∧ (t.axisOf a.val).vel = 0 ∧
      (x.offAtRest = false → t.axisState a.val = if x.fault then 7 else 1) ∧
      (x.offAtRest = true → t.axisOn a.val = false ∧ t.axisState a.val = 0)
    let ends := fun (t : State) (code : Nat) =>
      stands t ∧ t.rd pg AXIS_STATUS_END = code % 4 ∧ (t.axisOf a.val).ended = code ∧ t.Raised pg 0 ∧ s.SameMem t
    let faults := fun (t : State) (cause : Nat) =>
      (t.axisOf a.val).fault = true ∧ t.rd pg AXIS_STATUS_CAUSE = cause ∧ t.Raised pg 1 ∧ s.SameMem t
    (∀ p target b, x.motion = .move p target b → (p.vMax = 0 → x.pos = target * posUnit) →
      ∃ t, exec (.moveEnd a) s = .next t ∧ ends t 1 ∧ (t.axisOf a.val).pos = target * posUnit) ∧
    (∀ p segs n pos v, x.motion = .table p segs n pos v →
      ∃ t, exec (.moveEnd a) s = .next t ∧ ends t 1 ∧
        (t.axisOf a.val).pos = (segs.getLast?.map (fun g => g.pos)).getD pos * posUnit) ∧
    (∀ p code, x.motion = .stop p code →
      ∃ t, exec (.moveEnd a) s = .next t ∧ ends t code ∧ (x.vel = 0 → (t.axisOf a.val).pos = x.pos)) ∧
    (∀ m latch, x.motion = .homeEnd m latch → x.vel = 0 → x.offAtRest = false → s.liftBreak = false →
      ∃ t, exec (.moveEnd a) s = .next t ∧ t.homed a.val = true ∧ t.axisState a.val = 1 ∧
        (t.axisOf a.val).pos = x.pos - latch + m.home * posUnit ∧ t.rd pg AXIS_STATUS_END = 1 ∧
        t.Raised pg 0 ∧ s.SameMem t) ∧
    (∀ p, x.motion = .servo p → (s.ganged = true → a ≠ 1) →
      let goal := s.rdS pg MOT_SERVO_SP_POS * posUnit
      let way : Int := if goal < x.pos then -1 else 1
      let left : Int := (goal - x.pos).natAbs
      let v := way * servoSpeed (50 * gain p.a2) (velUnit * p.vMax) (way * x.vel) left
      let lands := way * v = left.fdiv 50
      ∃ t, exec (.servoPeriod a) s = .next t ∧ s.SameMem t ∧
        (t.axisOf a.val).pos = (if lands then goal else x.pos + 50 * v) ∧ (t.axisOf a.val).vel = v ∧
        t.rd pg MOT_COUNTS_SP_LIMITED = (if lands then s.rd pg MOT_COUNTS_SP_LIMITED
          else min (s.rd pg MOT_COUNTS_SP_LIMITED + 1) 65535) ∧
        s.SameRegs t (fun q o => q = pg ∧ (o = 0x098 ∨ o = 0x09C ∨ o = 0x0A0 ∨ o = 0x0A8))) ∧
    (∃ t, exec (.homeSwitchActive a) s = .next t ∧ t.bit pg MOT_SW_HOME = true ∧ s.SameMem t ∧
      s.SameRegs t (fun q o => q = pg ∧ o = 0x0A4) ∧
      (∀ m, x.motion = .search m → (t.axisOf a.val).motion = .homeStop m) ∧
      { t with regs := s.regs, axes := s.axes } = s.fresh) ∧
    (∃ t, exec (.homeSwitchRelease a) s = .next t ∧ t.bit pg MOT_SW_HOME = false ∧ s.SameMem t ∧
      s.SameRegs t (fun q o => q = pg ∧ o = 0x0A4) ∧
      (∀ m, x.motion = .homeBack m → (t.axisOf a.val).motion = .homeEnd m x.pos) ∧
      { t with regs := s.regs, axes := s.axes } = s.fresh) ∧
    (∀ m, x.motion = .search m → m.range ≤ (x.at - m.start).natAbs →
      ∃ t, exec (.homeRangeExceeded a) s = .next t ∧ faults t 4 ∧ t.axisState a.val = 3 ∧
        (t.axisOf a.val).motion = .stop { m.prof with d2 := m.prof.d1 } 3) ∧
    (∀ lim active : Bool,
      let homeWay : Int := if s.bit pg MOT_HOME_HOME_DIR then 1 else -1
      let f := if lim then MOT_SW_LIM else MOT_SW_HOME
      ∃ t, exec (.limitSwitch a lim active) s = .next t ∧ t.bit pg f = active ∧
        (active = false ∨ x.motion.homing = true ∨ x.heading ≠ (if lim then -homeWay else homeWay) →
          s.SameMem t ∧ s.SameRegs t (fun q o => q = pg ∧ o = 0x0A4) ∧
          { t with regs := s.regs } = s.fresh) ∧
        (active = true → x.motion.homing = false → x.heading = (if lim then -homeWay else homeWay) →
          faults t 2 ∧ (∀ p target b, x.motion = .move p target b → (t.axisOf a.val).motion = .stop p 3) ∧
          ∀ p v acc, x.motion = .retract p v acc → (t.axisOf a.val).motion = .stop (retractProf v acc) 3)) ∧
    (s.axisOn a.val = true →
      (x.resting = false → s.stalled a.val = true →
        ∃ t, exec (.stall a) s = .next t ∧ faults t 1 ∧ t.homed a.val = false ∧
          t.rd pg MOT_COUNTS_STALLS = min (s.rd pg MOT_COUNTS_STALLS + 1) 65535 ∧
          (∀ p target b, x.motion = .move p target b → (t.axisOf a.val).motion = .stop p 3) ∧
          (∀ p v acc, x.motion = .retract p v acc → (t.axisOf a.val).motion = .stop (retractProf v acc) 3)) ∧
      (∃ t, exec (.bridgeTrip a) s = .next t ∧ faults t 3 ∧ (t.axisOf a.val).vel = 0 ∧
        t.bridgesDriven a.val ≠ some true ∧ (t.axisOf a.val).motion = .rest ∧ (t.axisOf a.val).pos = x.pos ∧
        (x.resting = false → t.rd pg AXIS_STATUS_END = 3 ∧ t.Raised pg 0)) ∧
      (x.resting = true →
        ∃ t, exec (.holdCurrent a) s = .next t ∧ (t.axisOf a.val).held = true ∧
          { t with axes := s.axes } = s.fresh)) ∧
    (∀ target v acc, x.motion = .retract target v acc →
      ∃ t, exec (.retractDone a) s = .next t ∧ ends t 4 ∧
        t.bit pg AXIS_STATUS_RETRACTED = true ∧ (t.axisOf a.val).pos = target * posUnit ∧
        (t.axisOf a.val).held = true) ∧
    (let mate := fun (b : Nat) => if b % 2 = 0 then b + 1 else b - 1
      let dead := max 100 (s.ac pg MOT_CHOP_DEAD_NS / 10 * 10)
      let chop := fun (b : Nat) => (if b < 4 then x.chopA else x.chopB).upTo (s.chopCfg a.val) s.now
      ∀ b, b < 8 → s.axisGates a.val / 2 ^ b % 2 = 1 → s.axisOn a.val = true ∧
        s.axisGates a.val / 2 ^ mate b % 2 = 0 ∧
        ((chop b).offAt.toList[mate b % 4]?).getD 0 + dead ≤ s.now) ∧
    (s.noDrive = true → exec .mechClockChange s = .next { s.fresh with mechXtal := decide (s.levelOf .sys ≠ 2) })

/-- A sample of the running loop moves the set-point one step, shows the pressure of its code and
writes the duty, SAT and the integral that R354 gives for its error and change; in FAULT the duty
and the integral stand. An input out of range sets FAULT with cause 1 and duty OUT_SAFE and raises
bit 1, a long saturation shows cause 2 and raises bit 1, a long deviation raises bit 0 once.
ENABLE at READY reads the channel and starts with the set-point at the measured pressure and an
empty integral, and RESUME does the same once the input has been in range for 10 ms; before READY
the write is dropped. No byte of memory changes. (The profile's rounding to whole 0.1 Pa: the
model's reading, log 72; the blocks whose ENABLE waits for READY, log 91.) -/
def Obligations.Fountain : Prop :=
  ∀ (s : State), s.armedFolly pgFNT = none →
    let code := s.rd pgMON (MON_RESULT_CODE s.fnt.chan)
    let p := s.pressure code
    let starts := fun (t : State) (c : Nat) =>
      t.fnt.chan = c ∧ t.fnt.sp = (s.pressure (s.rd pgMON (MON_RESULT_CODE c)) : Rat) ∧
      t.fnt.integ = 0 ∧ t.fnt.pLast = s.pressure (s.rd pgMON (MON_RESULT_CODE c)) ∧
      t.fnt.spVel = 0 ∧ t.fnt.spAcc = 0 ∧ t.rd pgFNT FNT_STATUS_CAUSE = 0 ∧
      (t.fntState = 1 ∨ t.fntState = 2) ∧ s.SameMem t
    (s.fntOn = true →
      (∃ t, exec .fountainSample s = .next t ∧ t.fnt.sp = s.fnt.spStep.sp ∧ t.fnt.pLast = p ∧
        t.rd pgFNT FNT_P_P = unsint 32 p ∧ s.SameMem t ∧
        s.SameRegs t (fun q o => q = pgFNT ∧ (o = 0x010 ∨ (0x074 ≤ o ∧ o ≤ 0x080))) ∧
        (s.fntState ≠ 3 →
          let sp := s.fnt.spStep.spInt
          let pol := s.ac pgFNT FNT_CFG_POL
          let out := s.loop (if pol = 0 then sp - p else p - sp)
            (if pol = 0 then s.fnt.pLast - p else p - s.fnt.pLast)
          t.rd pgFNT FNT_OUTPUT_DUTY = out.1 % 2 ^ 16 ∧ t.bit pgFNT FNT_STATUS_SAT = out.2.1 ∧
          t.fnt.integ = out.2.2) ∧
        (s.fntState = 3 → t.rd pgFNT FNT_OUTPUT_DUTY = s.rd pgFNT FNT_OUTPUT_DUTY ∧
          t.fnt.integ = s.fnt.integ ∧ t.fntState = 3)) ∧
      (s.fntState ≠ 3 → s.inputOk code = false →
        ∃ t, exec .fountainSensorFault s = .next t ∧ t.fntState = 3 ∧
          t.rd pgFNT FNT_STATUS_CAUSE = 1 ∧ t.rd pgFNT FNT_OUTPUT_DUTY = s.ac pgFNT FNT_BIAS_OUT_SAFE ∧
          t.Raised pgFNT 1 ∧ s.SameMem t ∧
          s.SameRegs t (fun q o => (q = pgFNT ∧ (o = 0x010 ∨ o = 0x07C)) ∨ evWords pgFNT q o)) ∧
      (s.fntState ≠ 3 → s.bit pgFNT FNT_STATUS_SAT = true →
        ∃ t, exec .fountainSat s = .next t ∧ t.rd pgFNT FNT_STATUS_CAUSE = 2 ∧ t.Raised pgFNT 1 ∧
          s.SameMem t ∧ s.SameRegs t (fun q o => (q = pgFNT ∧ o = 0x010) ∨ evWords pgFNT q o)) ∧
      (s.fnt.devTold = false →
        s.rd pgFNT FNT_DEV_DEV_BAND < (s.fnt.spInt - s.fnt.pLast).natAbs →
        ∃ t, exec .fountainDeviation s = .next t ∧ t.fnt.devTold = true ∧ t.Raised pgFNT 0 ∧
          s.SameMem t ∧ s.SameRegs t (evWords pgFNT))) ∧
    (∀ r : Req, s.open r pgFNT = true → s.bit pgFNT UNIT_CTRL_ENABLE = false →
      (s.ready = true → ∃ t, exec (.fntEnable r) s = .next t ∧ t.bit pgFNT UNIT_CTRL_ENABLE = true ∧
        starts t (s.rd pgFNT FNT_CFG_CHANNEL) ∧
        t.fnt.khz = min (max (s.rd pgFNT FNT_CFG_PWM_KHZ) 1) 100 ∧
        s.SameRegs t (fun q o => q = pgFNT ∨ s.powerWord q o)) ∧
      (s.ready = false → ∃ t, exec (.fntEnable r) s = .next t ∧ s.Dropped t r pgFNT)) ∧
    (∀ r : Req, s.Takes r pgFNT → 100 ≤ s.fnt.inRange →
      ∃ t, exec (.fntResume r 0) s = .next t ∧ starts t s.fnt.chan ∧
        s.SameRegs t (fun q o => q = pgFNT ∧ (o = 0x010 ∨ (0x074 ≤ o ∧ o ≤ 0x080))) ∧
        { t with regs := s.regs, fnt := s.fnt } = s.taken r pgFNT 1)

/-- A missed kick, a swap's window that passes, a bad or repeated kick, a second 0x3C3C within 60 s, a
lockstep divergence and an uncorrectable TCM error each set GKP in WRD_FAULT with their cause 1,
3, 2, 2, 4 and 5 and raise HEARTBEAT_MISS or LOCKSTEP. With fewer than three restarts in the last
60 s the Groundskeeper is restarted, counted, with GKP_RESTART; else it is held, with HELD and
GKP_HELD. The GKP page reads its reset values, the Groundskeeper's own copies are gone, a swap
gives the previous slot back, and no byte of memory changes. RELEASE of a held Groundskeeper
clears the history and restarts it; ASSERT_FAULT sets SOFTWARE. (A restart that waits for the
Gatehouse, and what a hold leaves: the model's reading, log 26; the slot that a swap gives back,
log 27; that the row reports the interval: its choice, log 29.) With SYS at level 2, a kick of
0x5A17 or 0xA5E8 that is not the one before, or is the first of a swap, moves the watch on; 0x3C3C
not within 60 s of another opens the swap window and marks the running slot as the previous one;
the warden's folly 1 ignores a kick; a kick while SYS is below level 2 changes nothing; a write by
the host is dropped. No register word changes but where the folly counts its shots or the write is
dropped, and no byte of memory. (REG_ALERT for the host's dropped write: the model's reading, log
10; what a kick counts for while no watch runs, its choice, log 29; the slot marked as the
previous one, log 27.) -/
def Obligations.Warden : Prop :=
  (∀ (s : State),
    let failed := fun (t : State) (cause : Nat) =>
      t.bit pgWRD WRD_FAULT_GKP = true ∧ t.rd pgWRD WRD_GKP_CAUSE = cause ∧
      (cause ≤ 3 → t.Raised pgWRD 0) ∧ (cause = 4 → t.Raised pgWRD 1) ∧
      (s.recent.length < 3 → t.wrd.gkp = .restarting ∧ t.wrd.restarts = s.recent ++ [s.now] ∧
        t.rd pgWRD WRD_GKP_RECENT = s.recent.length + 1 ∧
        t.rd pgWRD WRD_GKP_TOTAL = min (s.rd pgWRD WRD_GKP_TOTAL + 1) 65535 ∧ t.Raised pgWRD 2) ∧
      (3 ≤ s.recent.length → t.wrd.gkp = .held ∧ t.bit pgWRD WRD_FAULT_HELD = true ∧ t.Raised pgWRD 3) ∧
      t.wrd.lastKick = none ∧ t.wrd.validAt = s.wrd.validAt ∧ t.wrd.swap = false ∧ t.gkpSide = { results := [], slots := [], stale := [] } ∧
      t.fsh.swapping = false ∧
      (s.fsh.swapping = true → t.rd pgTOP TOP_BOOT_FW_SLOT = s.fsh.prev % 2) ∧
      s.SameMem t ∧ (∀ o, o < 4096 → t.word pgGKP o = resetWord s.part pgGKP o) ∧
      ∀ p o, o < 4096 → p ≠ pgGKP →
        t.actWord p o = s.actWord p o ∧
        (p ≠ pgWRD → (s.fsh.swapping = true → p ≠ pgTOP ∧ p ≠ pgFSH) → ¬ evWords pgGBK p o →
          t.word p o = s.word p o)
    (s.watching = true →
      ∃ t, exec .heartbeatMiss s = .next t ∧ failed t (if s.wrd.swap then 3 else 1)) ∧
    (s.wrd.gkp = .running →
      (∃ t, exec .lockstepDivergence s = .next t ∧ failed t 4) ∧
      (∃ t, exec .tcmUe s = .next t ∧ failed t 5)) ∧
    (∀ v : BitVec 16, s.open .gkp pgWRD = true → s.levelOf .sys = 2 → s.armedFolly pgWRD = none →
      (v = 0x3C3C ∧ s.swapSoon = true) ∨
        (v ≠ 0x3C3C ∧ ¬ ((v = 0x5A17 ∨ v = 0xA5E8) ∧ (s.wrd.swap = true ∨ s.wrd.lastKick ≠ some v.toNat))) →
      ∃ t, exec (.wrdKick .gkp v) s = .next t ∧ failed t 2) ∧
    ∀ r : Req, s.Takes r pgWRD →
      (s.wrd.gkp = .held →
        ∃ t, exec (.release r 0) s = .next t ∧ t.wrd.gkp = .restarting ∧ t.wrd.restarts = [s.now] ∧
          t.bit pgWRD WRD_FAULT_HELD = false ∧ t.rd pgWRD WRD_GKP_RECENT = 1 ∧ t.Raised pgWRD 2 ∧
          s.SameMem t ∧
          ∀ p o, o < 4096 → p ≠ pgGKP → p ≠ pgWRD → ¬ evWords pgGBK p o → t.word p o = s.word p o) ∧
      (s.wrd.gkp ≠ .held →
        ∃ t, exec (.release r 0) s = .next t ∧ t.wrd = s.wrd ∧
          t.bit pgWRD UNIT_STATUS_CMD_REFUSED = true ∧ s.SameMem t) ∧
      ∃ t, exec (.assertFault r 0) s = .next t ∧ t.bit pgWRD WRD_FAULT_SOFTWARE = true ∧
        s.SameRegs t (fun p o => p = pgWRD ∧ o = 0x044) ∧
        { t with regs := s.regs } = s.taken r pgWRD 2) ∧
  (∀ (s : State) (v : BitVec 16),
    (s.open .gkp pgWRD = true → s.levelOf .sys = 2 →
      (s.armedFolly pgWRD = none → v = 0x5A17 ∨ v = 0xA5E8 →
        s.wrd.swap = true ∨ s.wrd.lastKick ≠ some v.toNat →
        ∃ t, exec (.wrdKick .gkp v) s = .next t ∧ t.wrd.lastKick = some v.toNat ∧
          t.wrd.kickAt = s.now ∧ t.wrd.validAt = some s.now ∧ t.wrd.swap = false ∧
          t.wrd.gkp = s.wrd.gkp ∧ t.wrd.restarts = s.wrd.restarts ∧
          { t with wrd := s.wrd } = s.reached .gkp pgWRD) ∧
      (s.armedFolly pgWRD = none → v = 0x3C3C → s.swapSoon = false →
        ∃ t, exec (.wrdKick .gkp v) s = .next t ∧ t.wrd.swap = true ∧ t.wrd.swapAt = some s.now ∧
          t.wrd.kickAt = s.now ∧ t.wrd.lastKick = s.wrd.lastKick ∧ t.wrd.validAt = s.wrd.validAt ∧
          t.wrd.gkp = s.wrd.gkp ∧ t.wrd.restarts = s.wrd.restarts ∧ t.fsh.swapping = true ∧
          t.fsh.prev =
            (if s.fsh.swapping then s.fsh.prev else s.rd pgTOP TOP_BOOT_FW_SLOT) ∧
          { t with wrd := s.wrd, fsh := s.fsh } = s.reached .gkp pgWRD) ∧
      (s.follyOn pgWRD 1 = true →
        ∃ t, exec (.wrdKick .gkp v) s = .next t ∧ t.wrd = s.wrd ∧ s.SameMem t ∧
          s.SameRegs t (fun p o => p = pgWRD ∧ o = UNIT_INJECT_SHOTS.off))) ∧
    (s.open .gkp pgWRD = true → s.levelOf .sys ≠ 2 →
      exec (.wrdKick .gkp v) s = .next (s.reached .gkp pgWRD)) ∧
    (s.open .host pgWRD = true →
      ∃ t, exec (.wrdKick .host v) s = .next t ∧ s.Dropped t .host pgWRD))

/-- A corrected TCM error counts, and raises TCM_CE after 1 s without one. A disagreement of the two
copies records the page, counts, sets CHECKER and raises it; the oldest Trellis line in work or
camera line is marked. A word of bad parity raises REG_ALERT. WRITE enters the user's number,
detail and source with the GBK page's own index; a write of GBK_READ_SEQ sets the mark and raises
UNREAD_HIGH when the difference reaches the threshold, again only after it fell below half; the
window's number is stored. No byte of memory changes. (Which line the row's disagreement marks:
the model's reading, log 37.) -/
def Obligations.Diagnosis : Prop :=
  ∀ (s : State),
    (s.wrd.gkp = .running → s.armedFolly pgGKP = none →
      let quiet := ∀ x, s.bist.tcmAt = some x → 1000000000 ≤ s.now - x
      ∃ t, exec .tcmCorrectedError s = .next t ∧
        t.rd pgGKP GKP_TCM_CE_N = min (s.rd pgGKP GKP_TCM_CE_N + 1) (2 ^ 32 - 1) ∧
        t.bist.tcmAt = some s.now ∧ (quiet → t.Raised pgGKP 2) ∧ s.SameMem t ∧
        s.SameRegs t (fun p o => (p = pgGKP ∧ o = 0x090) ∨ (quiet ∧ evWords pgGKP p o))) ∧
    (∀ page : BitVec 12, s.has page.toNat = true → s.armedFolly pgBST = none →
      ∃ t, exec (.checkerDisagree page) s = .next t ∧
        t.rd pgBST BST_CHECKER_PAGE = page.toNat ∧
        t.rd pgBST BST_CHECKER_COUNT = min (s.rd pgBST BST_CHECKER_COUNT + 1) 65535 ∧
        t.bit pgWRD WRD_FAULT_CHECKER = true ∧ t.Raised pgBST 3 ∧
        (∀ h, h < 32 → s.unit page.toNat = some (.trl, h) → (s.trlOf h).maps ≠ [] →
          (t.trlOf h).differs = true) ∧
        (∀ k, k < 6 → s.unit page.toNat = some (.cam, k) → (s.camOf k).queue ≠ [] →
          (t.camOf k).differs = true) ∧
        s.SameMem t ∧ s.SameRegs t (fun p o =>
          (p = pgBST ∧ o = 0x05C) ∨ (p = pgWRD ∧ o = 0x044) ∨ evWords pgBST p o)) ∧
    (∀ page off : BitVec 12, s.has page.toNat = true →
      (∃ t, exec (.paritySweep page off true) s = .next t ∧ t.Raised pgGKP 0 ∧ s.SameMem t ∧
        s.SameRegs t (evWords pgGKP)) ∧
      exec (.paritySweep page off false) s = .next s.fresh) ∧
    ∀ r : Req,
      (s.Takes r pgGBK → s.userNumOk r = true → s.gbk.queue.length < 64 →
        ∃ (t : State) (e : GbkEntry), exec (.gbkWrite r 0) s = .next t ∧ t.gbk.queue = insEntry e s.gbk.queue ∧
          e.event.toNat = s.rd pgGBK GBK_USER_NUM_EVENT ∧ e.page.toNat = pgGBK ∧
          e.detail = s.word pgGBK 0x088 ++ s.word pgGBK 0x084 ∧
          e.source = (match r with | .gkp => 1 | .host => 2) ∧
          e.time = s.word (pgTB 0) 0x040 ∧ { t with gbk := s.gbk } = s.taken r pgGBK 1) ∧
      (s.Takes r pgGBK → s.userNumOk r = false →
        ∃ t, exec (.gbkWrite r 0) s = .next t ∧ t.bit pgGBK UNIT_STATUS_CMD_REFUSED = true ∧
          s.SameMem t) ∧
      (s.open r pgGBK = true →
        (∀ v : Word,
          let diff := (s.word pgGBK 0x040 - v).toNat
          let th := max (s.rd pgGBK GBK_CFG_THRESH) 1
          ∃ t, exec (.gbkReadSeqWrite r v) s = .next t ∧ t.word pgGBK 0x044 = v ∧
            (s.gbk.high = false → th ≤ diff → t.Raised pgGBK 0 ∧ t.gbk.high = true) ∧
            (s.gbk.high = true → t.gbk.high = decide (th ≤ 2 * diff)) ∧ s.SameMem t ∧
            s.SameRegs t (fun p o => (p = pgGBK ∧ o = 0x044) ∨
              (s.gbk.high = false ∧ th ≤ diff ∧ evWords pgGBK p o))) ∧
        ∀ v : Word, ∃ t, exec (.gbkWindowSelect r v) s = .next t ∧ t.word pgGBK 0x054 = v ∧
          s.SameRegs t (fun p o => p = pgGBK ∧ o = 0x054) ∧
          { t with regs := s.regs } = s.reached r pgGBK)

/-- With BIST enabled and the Groundskeeper running, a rotation of which every slice from NEXT on has
come to be skipped completes; the slice due begins, withdrawing a kiosk; where a read found a
correctable error in its segment the slice moves to the next period, one in a region that a port
in panic uses waits, and is skipped and counted at the eighth time. At a slice's end a failed
kiosk is retired with SLICE_FAIL and RETIRED, a sound one returns; each failing cell of a segment
takes a spare of its bank that is left, listed with REPAIRED, or sets EXHAUSTED with SLICE_FAIL; a
failed port slice reports it. NEXT moves to the next slice that is not skipped; past the last the
rotation is counted, timed and LATE falls. A late rotation sets LATE and writes its record. A
kiosk's parity error outside its own slice and RETIRE retire it with RETIRED; SLICE_NOW names the
next slice. No byte of memory changes. (The regions of a port: the model's reading, log 35; a
slice that SLICE_NOW named, log 36; the factory's spares are free, log 34.) -/
def Obligations.SliceBist : Prop :=
  ∀ (s : State),
    let calm := s.follies = []
    let onlyBst := fun (t : State) => s.SameMem t ∧ s.SameRegs t (fun p o => p = pgBST ∨ evWords pgBST p o)
    let wraps := s.sliceNext = none ∧ s.sliceFrom 0 ≠ none
    let u := s.sliceWrap
    (wraps → u.rd pgBST BST_POS_NEXT = (s.sliceFrom 0).getD 0 ∧ u.bist.rotFrom = s.now ∧
      u.rd pgBST BST_ROT_COUNT_N = min (s.rd pgBST BST_ROT_COUNT_N + 1) (2 ^ 32 - 1) ∧
      u.bit pgBST BST_STAT_LATE = false ∧ onlyBst u) ∧
    (¬ wraps → u = s) ∧
    (∀ i, s.bit pgBST UNIT_CTRL_ENABLE = true → s.wrd.gkp = .running → s.bist.slice = none →
      u.sliceDue = some i →
      (s.sliceMoved i = true →
        ∃ t, exec .sliceStart s = .next t ∧ t.bist.moved = s.bist.moved.filter (· != i - 96) ∧
          t.bist.slice = none ∧ { t with bist := u.bist } = u.fresh) ∧
      (s.sliceMoved i = false → s.sliceWaits i = false →
        ∃ t, exec .sliceStart s = .next t ∧ t.bist.slice = some i ∧ t.bist.waits = 0 ∧ s.SameMem t ∧
          (i < 96 → t.bit (pgKSK i) WK_OUT_BIST = true) ∧
          (96 ≤ i → { t with bist := u.bist } = u.fresh)) ∧
      (s.sliceMoved i = false → s.sliceWaits i = true → s.bist.waits + 1 < 8 →
        ∃ t, exec .sliceStart s = .next t ∧ t.bist.waits = s.bist.waits + 1 ∧ t.bist.slice = none ∧
          { t with bist := u.bist } = u.fresh) ∧
      (s.sliceMoved i = false → s.sliceWaits i = true → 8 ≤ s.bist.waits + 1 →
        ∃ t, exec .sliceStart s = .next t ∧ t.bist.waits = 0 ∧ t.bist.slice = none ∧ onlyBst t ∧
          t.rd pgBST BST_POS_DEFERRED = min (s.rd pgBST BST_POS_DEFERRED + 1) 65535)) ∧
    (s.bit pgBST UNIT_CTRL_ENABLE = false ∨ s.wrd.gkp ≠ .running →
      exec .sliceStart s = .next s.fresh) ∧
    (∀ (i : Nat) (failed : Bool) (cells : List Bool), s.bist.slice = some i → i < 4224 → calm →
      ∃ t, exec (.sliceEnd failed cells) s = .next t ∧ t.bist.slice = none ∧ s.SameMem t ∧
        (s.bist.forced = some i → t.bist.forced = none ∧
          t.rd pgBST BST_POS_NEXT = s.rd pgBST BST_POS_NEXT) ∧
        (s.bist.forced ≠ some i → t.bist.forced = s.bist.forced ∧
          (∀ j, s.sliceFrom (i + 1) = some j → t.rd pgBST BST_POS_NEXT = j ∧
            t.rd pgBST BST_ROT_COUNT_N = s.rd pgBST BST_ROT_COUNT_N) ∧
          (s.sliceFrom (i + 1) = none → t.bist.rotFrom = s.now ∧
            t.rd pgBST BST_ROT_COUNT_N = min (s.rd pgBST BST_ROT_COUNT_N + 1) (2 ^ 32 - 1) ∧
            t.rd pgBST BST_ROT_LAST_MS = (s.now - s.bist.rotFrom) / 1000000 % 2 ^ 32 ∧
            t.rd pgBST BST_POS_NEXT = (s.sliceFrom 0).getD 0 ∧ t.bit pgBST BST_STAT_LATE = false)) ∧
        (i < 96 →
          t.bit (pgKSK i) WK_OUT_BIST = false ∧
          (failed = false → t.bit (pgKSK i) WK_OUT_RETIRED = s.bit (pgKSK i) WK_OUT_RETIRED) ∧
          (failed = true → t.bit (pgKSK i) WK_OUT_RETIRED = true ∧ t.rd pgBST BST_FAIL_SLICE = i ∧
            t.rd pgBST BST_FAIL_KIND = 1 ∧ t.Raised pgBST 0 ∧ t.Raised pgBST 2)) ∧
        (96 ≤ i → onlyBst t) ∧
        (96 ≤ i → i < 4192 → ∃ xs : List Repair, t.bist.repairs = s.bist.repairs ++ xs ∧ xs.Nodup ∧
          (∀ x ∈ xs, x ∈ spareList ((i - 96) / 64) false ++ spareList ((i - 96) / 64) true ∧
            Config.spareFused x.bank x.column x.index = false ∧ x ∉ s.bist.fused ∧ x ∉ s.bist.repairs) ∧
          (∀ c, cells = [c] → xs = (s.spare ((i - 96) / 64) c).toList) ∧
          (xs ≠ [] → t.Raised pgBST 1 ∧
            t.rd pgBST BST_REPAIRS_SOFT = (s.bist.repairs.length + xs.length) % 2 ^ 16) ∧
          xs.length ≤ cells.length ∧
          (xs.length < cells.length → t.bit pgBST BST_FAIL_EXHAUSTED = true ∧ t.rd pgBST BST_FAIL_SLICE = i ∧
            t.rd pgBST BST_FAIL_KIND = 2 ∧ t.Raised pgBST 0 ∧ ∀ c, t.spare ((i - 96) / 64) c = none) ∧
          (xs.length = cells.length → t.rd pgBST BST_FAIL_SLICE = s.rd pgBST BST_FAIL_SLICE)) ∧
        (4192 ≤ i → failed = true →
          t.rd pgBST BST_FAIL_SLICE = i ∧ t.rd pgBST BST_FAIL_KIND = 3 ∧ t.Raised pgBST 0) ∧
        (96 ≤ i → (if i < 4192 then cells = [] else failed = false) →
          t.rd pgBST BST_FAIL_SLICE = s.rd pgBST BST_FAIL_SLICE ∧
          t.bist.repairs = s.bist.repairs ∧ t.word pgBST 0x014 = s.word pgBST 0x014)) ∧
    (s.bit pgBST UNIT_CTRL_ENABLE = true → s.bit pgBST BST_STAT_LATE = false →
      ∃ t, exec .bistLate s = .next t ∧ t.bit pgBST BST_STAT_LATE = true ∧ onlyBst t ∧
        (s.gbk.queue.length < 64 →
          ∃ e, t.gbk.queue = insEntry e s.gbk.queue ∧ e.event = 0x3005 ∧ e.page.toNat = pgBST)) ∧
    (∀ k : Fin 96, k.val < s.part.kiosks → s.printRuns = true → s.bist.slice ≠ some k.val → calm →
      ∃ t, exec (.kioskParityError k) s = .next t ∧ t.bit (pgKSK k.val) WK_OUT_RETIRED = true ∧
        t.kioskState k.val = 3 ∧ t.Raised pgBST 2 ∧ s.SameMem t) ∧
    (∀ k : Fin 96, s.bist.slice = some k.val → exec (.kioskParityError k) s = .next s.fresh) ∧
    (∀ (r : Req) (arg : BitVec 16), s.Takes r pgBST →
      (s.bist.slice = none → arg.toNat ≤ 4223 → s.sliceSkipped arg.toNat = false →
        ∃ t, exec (.sliceNow r arg) s = .next t ∧ t.bist.forced = some arg.toNat ∧ t.bist.waits = 0 ∧
          { t with bist := s.bist } = s.taken r pgBST 1) ∧
      (s.kind arg.toNat = some .ksk →
        ∃ t, exec (.retire r arg) s = .next t ∧ t.bit arg.toNat WK_OUT_RETIRED = true ∧
          t.Raised pgBST 2 ∧ s.SameMem t ∧
          (s.kioskState (arg.toNat - pgKSK 0) ≠ 2 → t.rd arg.toNat UNIT_STATUS_STATE = 3)))

/-- READ, PROGRAM and ERASE of a range that suits them begin an operation with the operands they read,
CMD_BUSY and state 2; PROGRAM and ERASE clear VERIFIED of every slot they touch, PROGRAM takes its
first page, or ends at once where it is poisoned; VERIFY begins on its slot. From the flash window
PROGRAM and ERASE are refused, and so they are on the running firmware and the active
configuration. No byte of memory or flash changes. A page program or sector erase that ends leaves
its page, or 0xFF, in its bytes and no other byte different; the fetches held are answered with
the flash's bytes, the kick interval goes on, and the next step begins or the operation ends with
DONE and OP_DONE; poison in the next page ends it with reason 2. One that times out, or meets
folly 1, ends with reason 1 and no byte outside it different (those inside are free, log 81). A
fetch of the running Groundskeeper is held while a step runs and else answered at once, none
beyond the window (so during READ and VERIFY too: the model's reading, log 86). READ ends with its
buffer filled; VERIFY with VERIFIED as the image verifies, and reason 3 where it does not. -/
def Obligations.FlashOperations : Prop :=
  (∀ (s : State) (r : Req), s.Takes r pgFSH →
    let a := s.rd pgFSH FSH_ADDR_ADDR
    let n := s.rd pgFSH FSH_LEN_LEN
    let shows := fun (t : State) => t.bit pgFSH UNIT_STATUS_CMD_BUSY = true ∧
      t.rd pgFSH UNIT_STATUS_STATE = 2 ∧ s.SameMem t
    let begun := fun (t : State) (k : FlashKind) (page : List Byte) => shows t ∧
      t.fsh.op = some { kind := k, addr := a, len := n, buf := s.fshBuf, done := 0, page := page }
    let touched := fun (t : State) => ∀ k, k < 4 → t.verified k = (s.verified k && !meetsSlot a n k)
    let turnedDown := fun (t : State) =>
      t.fsh = s.fsh ∧ t.bit pgFSH UNIT_STATUS_CMD_REFUSED = true ∧ s.SameMem t
    let readPages := [pgPWR, pgDRC, pgDRAM 0, pgDRAM 1, pgBST]
    (s.rangeBad 1 = false → s.bufferOk = true →
      ∃ t, exec (.fshRead r 0) s = .next t ∧ begun t .read [] ∧
        s.SameRegs t (fun p o => p = pgFSH ∧ o = 0x010) ∧
        { t with regs := s.regs, fsh := s.fsh } = s.taken r pgFSH 1) ∧
    (∀ fromWindow : Bool,
      (selfBusy r fromWindow = false → s.rangeHeld = false → s.rangeBad 256 = false →
        s.bufferOk = true →
        let first := s.readMem 3 s.fshBuf 256
        (first.2.2.any id = false →
          ∃ t, exec (.fshProgram r 0 fromWindow) s = .next t ∧ begun t .program first.2.1 ∧
            touched t ∧ s.SameRegs t (fun p o => (p = pgFSH ∧ (o = 0x010 ∨ o = 0x054)) ∨
              p ∈ readPages ∨ evWords pgGBK p o)) ∧
        (first.2.2.any id = true →
          ∃ t, exec (.fshProgram r 0 fromWindow) s = .next t ∧ t.fsh.op = none ∧ touched t ∧
            t.bit pgFSH UNIT_STATUS_CMD_BUSY = false ∧ t.rd pgFSH UNIT_STATUS_STATE = 1 ∧
            t.bit pgFSH FSH_OP_STAT_FAIL = true ∧ t.rd pgFSH FSH_OP_STAT_REASON = 2 ∧
            t.Raised pgFSH 1 ∧ s.Within t (pgFSH :: readPages))) ∧
      (selfBusy r fromWindow = false → s.rangeHeld = false → s.rangeBad 4096 = false →
        ∃ t, exec (.fshErase r 0 fromWindow) s = .next t ∧ begun t .erase [] ∧ touched t ∧
          s.SameRegs t (fun p o => p = pgFSH ∧ (o = 0x010 ∨ o = 0x054)) ∧
          { t with regs := s.regs, fsh := s.fsh } = s.taken r pgFSH 3) ∧
      (selfBusy r fromWindow = true ∨ s.rangeHeld = true →
        (∃ t, exec (.fshProgram r 0 fromWindow) s = .next t ∧ turnedDown t) ∧
        ∃ t, exec (.fshErase r 0 fromWindow) s = .next t ∧ turnedDown t)) ∧
    (∀ arg : BitVec 16, arg.toNat ≤ 3 →
      ∃ t, exec (.fshVerify r arg) s = .next t ∧ begun t (.verify arg.toNat) [] ∧
        s.SameRegs t (fun p o => p = pgFSH ∧ o = 0x010) ∧
        { t with regs := s.regs, fsh := s.fsh } = s.taken r pgFSH 4)) ∧
  (∀ (s : State),
    let idle := fun (t : State) => t.fsh.op = none ∧ t.bit pgFSH UNIT_STATUS_CMD_BUSY = false ∧
      t.rd pgFSH UNIT_STATUS_STATE = 1
    let well := fun (t : State) => idle t ∧ t.bit pgFSH FSH_OP_STAT_DONE = true ∧ t.Raised pgFSH 0
    let ill := fun (t : State) (reason : Nat) => idle t ∧ t.bit pgFSH FSH_OP_STAT_FAIL = true ∧
      t.rd pgFSH FSH_OP_STAT_REASON = reason ∧ t.Raised pgFSH 1
    let onlyFsh := fun (t : State) => s.SameRegs t (fun p o => p = pgFSH ∨ evWords pgFSH p o)
    let readPages := [pgFSH, pgPWR, pgDRC, pgDRAM 0, pgDRAM 1, pgBST]
    (∀ o, s.fsh.op = some o → o.kind = .program ∨ o.kind = .erase →
      let base := o.addr + o.done
      let next := o.done + o.kind.step
      let served := fun (t : State) =>
        s.SameRegs t (fun p o => p ∈ readPages ∨ evWords pgGBK p o) ∧
        (o.kind = .erase → onlyFsh t) ∧ (∀ x, t.byte x = s.byte x) ∧ t.poison = s.poison ∧
        (∀ x, x < base ∨ base + o.kind.step ≤ x → t.fbyte x = s.fbyte x) ∧ t.fsh.fetches = [] ∧
        (∀ e ∈ s.fsh.fetches, .fetched e.1 (t.fbytes e.1 (min e.2 (2 ^ 25 - e.1))) ∈ t.emitted) ∧
        t.wrd = { s.wrd with kickAt :=
          if s.fsh.fetches = [] then s.wrd.kickAt else s.wrd.kickAt + (s.now - s.fsh.heldAt) }
      (s.armedFolly pgFSH = none → (o.kind = .program → o.page.length = 256) →
        ∃ t, exec .flashStepDone s = .next t ∧ served t ∧
          (∀ i, i < o.kind.step → t.fbyte (base + i) =
            if o.kind = .program then (o.page[i]?).getD 0 else 0xFF) ∧
          (o.len ≤ next → well t) ∧
          (next < o.len → o.kind = .erase → t.fsh.op = some { o with done := next }) ∧
          (next < o.len → o.kind = .program →
            let r := s.readMem 3 (o.buf + next) 256
            (r.2.2.any id = false →
              t.fsh.op = some { o with done := next, page := r.2.1 }) ∧
            (r.2.2.any id = true → ill t 2))) ∧
      (s.follyOn pgFSH 1 = true → ∃ t, exec .flashStepDone s = .next t ∧ served t ∧ ill t 1) ∧
      ∃ t, exec .flashStepTimeout s = .next t ∧ served t ∧ ill t 1) ∧
    (∀ (addr : BitVec 25) (n : BitVec 8),
      (s.wrd.gkp = .running → s.stepOp ≠ none →
        ∃ t, exec (.flashFetch addr n) s = .next t ∧
          t.fsh.fetches = s.fsh.fetches ++ [(addr.toNat, n.toNat)] ∧
          (s.fsh.fetches = [] → t.fsh.heldAt = s.now) ∧
          (s.fsh.fetches ≠ [] → t.fsh.heldAt = s.fsh.heldAt) ∧ t.fsh.op = s.fsh.op ∧
          { t with fsh := s.fsh } = s.fresh) ∧
      (s.wrd.gkp = .running → s.stepOp = none →
        ∃ t bytes, exec (.flashFetch addr n) s = .next t ∧ t.emitted = [.fetched addr.toNat bytes] ∧
          bytes.length = min n.toNat (2 ^ 25 - addr.toNat) ∧
          (∀ i, i < bytes.length → (bytes[i]?).getD 0 = s.fbyte (addr.toNat + i)) ∧
          { t with emitted := [] } = s.fresh) ∧
      (s.wrd.gkp ≠ .running → exec (.flashFetch addr n) s = .next s.fresh)) ∧
    (∀ o, s.fsh.op = some o →
      (o.kind = .read → s.memGone = false → (∀ i, i < o.len → s.byteOk (o.buf + i) = true) →
        ∃ t, exec .flashReadDone s = .next t ∧ well t ∧
          (∀ i, i < o.len → t.byte (o.buf + i) = s.fbyte (o.addr + i)) ∧
          (∀ x, x < o.buf ∨ o.buf + o.len ≤ x → t.byte x = s.byte x) ∧
          ∀ x, t.fbyte x = s.fbyte x) ∧
      (∀ k, o.kind = .verify k → k < 4 →
        let only := fun (t : State) (v : Bool) => onlyFsh t ∧ s.SameMem t ∧
          ∀ j, j < 4 → t.verified j = if j = k then v else s.verified j
        (s.armedFolly pgFSH = none →
          ∃ t, exec .flashReadDone s = .next t ∧ only t (s.imageOk k) ∧
            (s.imageOk k = true → well t) ∧ (s.imageOk k = false → ill t 3)) ∧
        (s.follyOn pgFSH 2 = true →
          ∃ t, exec .flashReadDone s = .next t ∧ only t false ∧ ill t 3))))

/-- UPDATE, CFG_APPLY and CFG_REVERT of a verified slot that is not in use, with the warden WATCHING,
hand their request to the Groundskeeper with CMD_BUSY and their state; otherwise they are refused.
Without SWAP an update ends with TIMEOUT and nothing else changed. SWAP after the 0x3C3C kick
names the new slot and restarts the Groundskeeper, uncounted; without that kick it is dropped.
TAKEN_OVER ends the swap with DONE and SWAP_DONE; FALLBACK records its reason and restarts the
previous slot; CFG_RESULT ends a request and, when applied or reverted, names the active slot and
schema with CFG_APPLIED, or raises CFG_REVERTED. The slot's image verified after a FALLBACK, the
firmware runs with RESULT = 3 and bit 1 of GKP, an ended update is IDLE and one still REQUESTED
keeps CMD_BUSY. A write of FSH_GKP_ACT by the host is dropped. No byte of memory or flash changes.
(SWAP without a request, FALLBACK outside a swap, and the slot that fails: the model's reading,
log 27.) -/
def Obligations.LiveUpdate : Prop :=
  ∀ (s : State),
    let asked := fun (t : State) (kind slot state : Nat) =>
      t.rd pgFSH FSH_SVC_REQ_KIND = kind ∧ t.rd pgFSH FSH_SVC_REQ_SLOT = slot ∧
      t.serviceInterrupt = true ∧
      t.bit pgFSH UNIT_STATUS_CMD_BUSY = true ∧ t.rd pgFSH UNIT_STATUS_STATE = state ∧
      s.SameRegs t (fun p o => p = pgFSH ∧ (o = 0x010 ∨ o = 0x058 ∨ o = 0x068))
    let ended := fun (t : State) =>
      t.bit pgFSH UNIT_STATUS_CMD_BUSY = false ∧ t.rd pgFSH UNIT_STATUS_STATE = 1 ∧ s.SameMem t
    let turnedDown := fun (t : State) =>
      t.fsh = s.fsh ∧ t.bit pgFSH UNIT_STATUS_CMD_REFUSED = true ∧
      t.rd pgFSH FSH_SVC_REQ_KIND = s.rd pgFSH FSH_SVC_REQ_KIND ∧ s.SameMem t
    let slotNow := s.rd pgTOP TOP_BOOT_FW_SLOT
    let slot := s.rd pgFSH FSH_SVC_REQ_SLOT
    (∀ r : Req, s.Takes r pgFSH →
      (∀ arg : BitVec 16, arg.toNat ≤ 1 →
        (s.verified arg.toNat = true → s.runningSlot ≠ some arg.toNat → s.wardenWatching = true →
          ∃ t, exec (.update r arg) s = .next t ∧ asked t 1 arg.toNat 3 ∧
            t.bit pgFSH FSH_FW_STAT_REQUESTED = true ∧
            { t with regs := s.regs } = s.taken r pgFSH 5) ∧
        (s.verified arg.toNat = false ∨ s.runningSlot = some arg.toNat ∨ s.wardenWatching = false →
          ∃ t, exec (.update r arg) s = .next t ∧ turnedDown t) ∧
        (s.verified (2 + arg.toNat) = true → s.rd pgFSH FSH_CFG_STAT_ACTIVE ≠ arg.toNat →
          s.wardenWatching = true →
          ∃ t, exec (.cfgApply r arg) s = .next t ∧ asked t 2 arg.toNat 4 ∧
            { t with regs := s.regs } = s.taken r pgFSH 6) ∧
        (s.verified (2 + arg.toNat) = false ∨ s.rd pgFSH FSH_CFG_STAT_ACTIVE = arg.toNat ∨
          s.wardenWatching = false →
          ∃ t, exec (.cfgApply r arg) s = .next t ∧ turnedDown t)) ∧
      (let other := 1 - s.rd pgFSH FSH_CFG_STAT_ACTIVE
       (s.verified (2 + other) = true → s.wardenWatching = true →
          ∃ t, exec (.cfgRevert r 0) s = .next t ∧ asked t 3 other 4 ∧
            { t with regs := s.regs } = s.taken r pgFSH 7) ∧
       (s.verified (2 + other) = false ∨ s.wardenWatching = false →
          ∃ t, exec (.cfgRevert r 0) s = .next t ∧ turnedDown t))) ∧
    (s.bit pgFSH FSH_FW_STAT_REQUESTED = true →
      ∃ t, exec .updateTimeout s = .next t ∧ ended t ∧ t.bit pgFSH FSH_FW_STAT_REQUESTED = false ∧
        t.rd pgFSH FSH_SVC_REQ_KIND = 0 ∧ t.rd pgFSH FSH_FW_STAT_RESULT = 2 ∧
        s.SameRegs t (fun p o => p = pgFSH ∧ (o = 0x010 ∨ o = 0x058 ∨ o = 0x068)) ∧
        { t with regs := s.regs } = s.fresh) ∧
    (s.bit pgFSH FSH_FW_STAT_REQUESTED = false → exec .updateTimeout s = .next s.fresh) ∧
    (s.open .gkp pgFSH = true →
      (s.wrd.swap = false → ∃ t, exec (.actSwap .gkp) s = .next t ∧ s.Dropped t .gkp pgFSH) ∧
      (s.wrd.swap = true → s.bit pgFSH FSH_FW_STAT_REQUESTED = false →
        exec (.actSwap .gkp) s = .next (s.reached .gkp pgFSH)) ∧
      (s.wrd.swap = true → s.bit pgFSH FSH_FW_STAT_REQUESTED = true →
        ∃ t, exec (.actSwap .gkp) s = .next t ∧ t.rd pgTOP TOP_BOOT_FW_SLOT = slot ∧
          t.wrd.gkp = .restarting ∧ t.wrd.restarts = s.wrd.restarts ∧ t.wrd.swap = true ∧
          t.bit pgFSH FSH_FW_STAT_REQUESTED = false ∧ t.rd pgFSH FSH_SVC_REQ_KIND = 0 ∧
          t.gkpSide = { results := [], slots := [], stale := [] } ∧ s.SameMem t ∧
          (∀ o, o < 4096 → t.word pgGKP o = resetWord s.part pgGKP o) ∧
          ∀ p o, o < 4096 → p ≠ pgGKP →
            ¬ (p = pgFSH ∧ (o = 0x058 ∨ o = 0x068)) → ¬ (p = pgTOP ∧ o = 0x080) →
            t.word p o = s.word p o ∧ t.actWord p o = s.actWord p o) ∧
      (s.rd pgFSH UNIT_STATUS_STATE = 3 → s.bit pgFSH FSH_FW_STAT_REQUESTED = false →
        ∃ t, exec (.actTakenOver .gkp) s = .next t ∧ ended t ∧ t.fsh.swapping = false ∧
          t.rd pgFSH FSH_FW_STAT_RESULT = 1 ∧ t.Raised pgGKP 3 ∧
          s.SameRegs t (fun p o => (p = pgFSH ∧ (o = 0x010 ∨ o = 0x058)) ∨ evWords pgGKP p o)) ∧
      (s.rd pgFSH UNIT_STATUS_STATE ≠ 3 ∨ s.bit pgFSH FSH_FW_STAT_REQUESTED = true →
        exec (.actTakenOver .gkp) s = .next (s.reached .gkp pgFSH)) ∧
      (∀ code : BitVec 4,
        (∃ t, exec (.actFallback .gkp code) s = .next t ∧ t.bit pgFSH FSH_FW_STAT_FALLBACK = true ∧
          t.rd pgFSH FSH_FW_STAT_REASON = code.toNat ∧ t.wrd.gkp = .restarting ∧
          t.wrd.restarts = s.wrd.restarts ∧ t.fsh.falling = true ∧ t.restartSlot =
            (if s.fsh.swapping = true ∧ s.fsh.prev ≠ slotNow then s.fsh.prev else 1 - slotNow) ∧
          s.SameMem t ∧ (∀ o, o < 4096 → t.word pgGKP o = resetWord s.part pgGKP o) ∧
          ∀ p o, o < 4096 → p ≠ pgGKP → ¬ (p = pgFSH ∧ o = 0x058) →
            t.word p o = s.word p o ∧ t.actWord p o = s.actWord p o) ∧
        (s.rd pgFSH UNIT_STATUS_STATE = 4 →
          ∃ t, exec (.actCfgResult .gkp code) s = .next t ∧ ended t ∧
            t.rd pgFSH FSH_CFG_STAT_RESULT = code.toNat % 8 ∧ t.rd pgFSH FSH_SVC_REQ_KIND = 0 ∧
            (code = 1 ∨ code = 5 → t.rd pgFSH FSH_CFG_STAT_ACTIVE = slot ∧
              t.rd pgFSH FSH_CFG_STAT_SCHEMA = s.schemaOf (2 + slot) ∧
              t.rd pgTOP TOP_BOOT_CFG_SLOT = slot ∧ t.Raised pgFSH 2) ∧
            (code = 4 → t.Raised pgFSH 3) ∧
            (code ≠ 1 → code ≠ 5 → t.rd pgFSH FSH_CFG_STAT_ACTIVE = s.rd pgFSH FSH_CFG_STAT_ACTIVE ∧
              t.rd pgTOP TOP_BOOT_CFG_SLOT = s.rd pgTOP TOP_BOOT_CFG_SLOT) ∧
            s.SameRegs t (fun p o => (p = pgTOP ∧ o = 0x080) ∨
              (p = pgFSH ∧ (o = 0x010 ∨ o = 0x05C ∨ o = 0x068)) ∨ evWords pgFSH p o)) ∧
        (s.rd pgFSH UNIT_STATUS_STATE ≠ 4 →
          exec (.actCfgResult .gkp code) s = .next (s.reached .gkp pgFSH)))) ∧
    (∀ k : Fin 2, s.stage ≠ 3 → s.wrd.gkp = .restarting → s.fsh.falling = true → k.val = s.restartSlot →
      s.imageOk k.val = true →
      ∃ t, exec (.verifyFwDone k) s = .next t ∧ t.wrd.gkp = .running ∧ t.fsh.falling = false ∧
        t.fsh.swapping = false ∧ t.rd pgTOP TOP_BOOT_FW_SLOT = k.val ∧
        t.rd pgFSH FSH_FW_STAT_RESULT = 3 ∧ t.Raised pgGKP 1 ∧ s.SameMem t ∧
        (s.bit pgFSH FSH_FW_STAT_REQUESTED = true →
          t.bit pgFSH UNIT_STATUS_CMD_BUSY = s.bit pgFSH UNIT_STATUS_CMD_BUSY ∧
          t.rd pgFSH UNIT_STATUS_STATE = s.rd pgFSH UNIT_STATUS_STATE) ∧
        (s.bit pgFSH FSH_FW_STAT_REQUESTED = false → s.rd pgFSH UNIT_STATUS_STATE = 3 → ended t)) ∧
    (s.open .host pgFSH = true → ∀ code : BitVec 4,
      (∃ t, exec (.actSwap .host) s = .next t ∧ s.Dropped t .host pgFSH) ∧
      (∃ t, exec (.actTakenOver .host) s = .next t ∧ s.Dropped t .host pgFSH) ∧
      (∃ t, exec (.actFallback .host code) s = .next t ∧ s.Dropped t .host pgFSH) ∧
      ∃ t, exec (.actCfgResult .host code) s = .next t ∧ s.Dropped t .host pgFSH)

/-- LOAD_KEY unwraps the blob into the slot its argument names: a blob whose point is off the curve,
that fails the unwrap, that meets a blocked private key or whose binding differs is rejected with
result 3, 2, 2 or 4 and KEY_REJECT, and every slot stands; else the slot holds the key and salt
and LOADED shows it with result 1. A slot in use, or with scan enabled, is refused. CLEAR_KEY
empties its slot. No other slot and no byte of memory changes. (NIST's and IETF's algorithms,
which the spec names: its reading, log 33; LOAD_KEY with the private key blocked, log 87.) -/
def Obligations.StreamKeys : Prop :=
  ∀ (s : State) (r : Req) (n : Fin 8), s.Takes r pgGTH →
    let arg := BitVec.ofNat 16 n.val
    let loaded := fun (t : State) (k : Nat) => (t.rd pgGTH GTH_KEY_STAT_LOADED).testBit k
    let others := fun (t : State) => ∀ k : Fin 8, k ≠ n →
      t.gth.keys.get k = s.gth.keys.get k ∧ loaded t k.val = loaded s k.val
    (s.keyBusy n.val = false → s.bit pgGTH GTH_PERMIT_SCAN = false → s.armedFolly pgGTH = none →
      let blob := (s.gthBytes 0x0C0 38).take 152
      let point := blob.take 97
      let opened := kwOpen (wrapKey point) (blob.drop 104)
      let result :=
        if (readPoint point).isNone = true then 3
        else if s.gth.blocked = true then 2
        else match opened with
          | none => 2
          | some v => if v[36]? = some (BitVec.ofNat 8 (n.val / 2)) ∧ v[37]? = some (BitVec.ofNat 8 (n.val % 2))
              then 1 else 4
      ∃ t, exec (.loadKey r arg) s = .next t ∧ t.rd pgGTH GTH_KEY_STAT_RESULT = result ∧ others t ∧
        (result ≠ 1 → t.gth = s.gth ∧ t.Raised pgGTH 0 ∧ loaded t n.val = loaded s n.val) ∧
        (result = 1 → loaded t n.val = true ∧ t.word pgGTH 0x014 = s.word pgGTH 0x014 ∧
          ∀ v, opened = some v → t.gth.keys.get n =
            some { key := v.take 32, salt := (v.drop 32).take 4 }) ∧
        s.SameMem t ∧ s.SameRegs t (fun p o => (p = pgGTH ∧ o = 0x160) ∨
          (result ≠ 1 ∧ evWords pgGTH p o))) ∧
    (s.keyBusy n.val = true ∨ s.bit pgGTH GTH_PERMIT_SCAN = true →
      ∃ t, exec (.loadKey r arg) s = .next t ∧ t.gth = s.gth ∧
        t.bit pgGTH UNIT_STATUS_CMD_REFUSED = true ∧ s.SameMem t) ∧
    ∃ t, exec (.clearKey r arg) s = .next t ∧ t.gth.keys.get n = none ∧ loaded t n.val = false ∧
      t.gth.usedAt = s.gth.usedAt ∧
      others t ∧ s.SameRegs t (fun p o => p = pgGTH ∧ o = 0x160) ∧
      { t with regs := s.regs, gth := s.gth } = s.taken r pgGTH 2

/-- CHALLENGE, unless locked, places a fresh nonce (its value is free, log 34) and makes it valid;
UNLOCK without a valid nonce, or of scan while a stream runs or SDL is enabled, is refused. A
response that verifies sets INJECT (scope 1), or empties every key, blocks the private key and
begins zeroisation (scope 2); one that does not counts, raises UNLOCK_FAIL, and the third in a row
locks CHALLENGE; either way the nonce is spent. At the end of zeroisation SRAM but the Guestbook,
and DRAM, read 0, SCAN is set and ZEROIZED and SCAN_ENABLED are raised. WITHDRAW clears INJECT and
disarms every folly. RAISE_SVN above the floor and not above the running firmware's version raises
the floor, and no firmware image below it verifies then; else it is refused. A nonce's end and a
lock-out's end change nothing else. (The running firmware's version as the running slot's: the
model's reading, log 30; the algorithms, log 33; fused values are free, log 34.) -/
def Obligations.Unlocking : Prop :=
  ∀ (s : State),
    let onlyGth := fun (t : State) => s.SameMem t ∧ s.SameRegs t (fun p o => p = pgGTH ∨ evWords pgGTH p o)
    let turnedDown := fun (t : State) => t.gth = s.gth ∧ t.svnFloor = s.svnFloor ∧
      t.bit pgGTH UNIT_STATUS_CMD_REFUSED = true ∧ s.SameMem t
    (∀ r : Req, s.Takes r pgGTH →
      (s.gth.locked = false →
        ∃ t, exec (.challenge r 0) s = .next t ∧ t.gth = { s.gth with nonce := true } ∧
          s.SameRegs t (fun p o => p = pgGTH ∧ 0x170 ≤ o ∧ o < 0x1A0) ∧
          { t with regs := s.regs, gth := s.gth, free := s.free } = s.taken r pgGTH 3) ∧
      (s.gth.locked = true → ∃ t, exec (.challenge r 0) s = .next t ∧ turnedDown t) ∧
      (∀ arg : BitVec 16, arg = 1 ∨ arg = 2 →
        let wrong := s.gth.nonce = false ∨ (arg = 2 ∧ s.printing = true)
        let good := ecdsaOk Config.unlockKey (sha384 (s.unlockMessage arg.toNat)) (s.gthBytes 0x1A0 24)
        (wrong → ∃ t, exec (.unlock r arg) s = .next t ∧ turnedDown t) ∧
        (¬ wrong → s.armedFolly pgGTH = none →
          ∃ t, exec (.unlock r arg) s = .next t ∧ t.gth.nonce = false ∧ onlyGth t ∧
            (good = true → t.gth.failed = 0 ∧ t.gth.locked = s.gth.locked ∧
              (arg = 1 → t.bit pgGTH GTH_PERMIT_INJECT = true ∧ t.gth.keys = s.gth.keys ∧
                t.rd pgGTH UNIT_STATUS_STATE =
                  if s.rd pgGTH UNIT_STATUS_STATE = 1 then 2 else s.rd pgGTH UNIT_STATUS_STATE) ∧
              (arg = 2 → t.gth.keys = Vector.replicate 8 none ∧ t.gth.blocked = true ∧
                t.rd pgGTH GTH_KEY_STAT_LOADED = 0 ∧ t.rd pgGTH UNIT_STATUS_STATE = 3 ∧
                ∀ j, j < 38 → t.rd pgGTH (GTH_BLOB_DATA j) = 0)) ∧
            (good = false → t.gth.keys = s.gth.keys ∧ t.Raised pgGTH 1 ∧
              t.gth.failed = (if s.gth.failed = 2 then 0 else s.gth.failed + 1) ∧
              (s.gth.failed = 2 → t.gth.locked = true) ∧
              t.rd pgGTH GTH_UNLOCK_FAILS_N = min (s.rd pgGTH GTH_UNLOCK_FAILS_N + 1) 65535 ∧
              t.rd pgGTH GTH_PERMIT_INJECT = s.rd pgGTH GTH_PERMIT_INJECT ∧
              t.rd pgGTH UNIT_STATUS_STATE = s.rd pgGTH UNIT_STATUS_STATE)) ∧
        (¬ wrong → s.follyOn pgGTH 2 = true →
          ∃ t, exec (.unlock r arg) s = .next t ∧ t.gth.nonce = false ∧ t.Raised pgGTH 1 ∧
            t.gth.keys = s.gth.keys ∧ onlyGth t)) ∧
      (∃ t, exec (.gthWithdraw r 0) s = .next t ∧ t.bit pgGTH GTH_PERMIT_INJECT = false ∧
        (∀ e ∈ t.follies, e.2.armed = false) ∧ s.SameMem t ∧
        t.rd pgGTH UNIT_STATUS_STATE =
          (if s.rd pgGTH UNIT_STATUS_STATE = 2 then 1 else s.rd pgGTH UNIT_STATUS_STATE) ∧
        s.SameRegs t (fun p o => p = pgGTH ∧ (o = 0x010 ∨ o = 0x164))) ∧
      (∀ arg : BitVec 16,
        let svn := match s.runningSlot with
          | some k => (s.fbyte (slotBase k + 6)).toNat
          | none => 0
        (s.floor < arg.toNat → arg.toNat ≤ svn →
          ∃ t, exec (.raiseSvn r arg) s = .next t ∧ t.floor = arg.toNat ∧
            { t with svnFloor := s.svnFloor } = s.taken r pgGTH 6 ∧
            ∀ k, k < 2 → (t.fbyte (slotBase k + 6)).toNat < arg.toNat → t.imageOk k = false) ∧
        (arg.toNat ≤ s.floor ∨ svn < arg.toNat →
          ∃ t, exec (.raiseSvn r arg) s = .next t ∧ turnedDown t))) ∧
    (s.rd pgGTH UNIT_STATUS_STATE = 3 →
      ∃ t, exec .zeroizeDone s = .next t ∧ (∀ a, t.byte a = if inGuestbook a then s.byte a else 0) ∧
        t.poison = s.poison.filter inGuestbook ∧ (∀ a, t.fbyte a = s.fbyte a) ∧
        t.bit pgGTH GTH_PERMIT_SCAN = true ∧ t.rd pgGTH UNIT_STATUS_STATE = 4 ∧ t.Raised pgGTH 2 ∧
        t.Raised pgGTH 3 ∧ s.SameRegs t (fun p o => p = pgGTH ∨ evWords pgGTH p o)) ∧
    (s.rd pgGTH UNIT_STATUS_STATE ≠ 3 → exec .zeroizeDone s = .next s.fresh) ∧
    exec .nonceExpiry s = .next { s.fresh with gth := { s.gth with nonce := false } } ∧
    exec .unlockLockoutEnd s = .next { s.fresh with gth := { s.gth with locked := false } }
end

