-- ==== Sys2Proof/Laws/Crypto.lean ====
section
/-! SUPPORT. What AES-256-GCM's operations give: the key stream applied twice gives the data back, and a
message opens under the tag that its sum makes. -/

namespace Sys2Proof.Machine

/-- Bytes combined twice with the same key are as before. -/
theorem xorBytes_twice (k d : List Byte) (h : d.length ≤ k.length) : xorBytes k (xorBytes k d) = d := by
  induction k generalizing d with
  | nil => simp_all [xorBytes]
  | cons a k ih =>
    cases d with
    | nil => rfl
    | cons b d =>
      have := ih d (by simpa using h)
      simp only [xorBytes, List.zipWith_cons_cons] at this ⊢
      rw [this, ← BitVec.xor_assoc, BitVec.xor_self, BitVec.zero_xor]

@[simp] theorem xorBytes_length (k d : List Byte) : (xorBytes k d).length = min k.length d.length := by
  simp [xorBytes]

/-- Key blocks of 16 bytes from the `m`th on, applied block by block and once more, give the data back. -/
theorem gcmCtr_from (k : Nat → List Byte) (hk : ∀ i, (k i).length = 16) (n m : Nat) (d : List Byte)
    (hn : d.length ≤ 16 * n) :
    (List.range n).flatMap (fun i => xorBytes (k (m + i)) ((((List.range n).flatMap
      (fun i => xorBytes (k (m + i)) ((d.drop (16 * i)).take 16))).drop (16 * i)).take 16)) = d := by
  induction n generalizing m d with
  | zero => simp_all
  | succ n ih =>
    have hd : ∀ e : List Byte, (List.range (n + 1)).flatMap (fun i => xorBytes (k (m + i)) ((e.drop (16 * i)).take 16)) =
        xorBytes (k m) (e.take 16) ++ (List.range n).flatMap
          (fun i => xorBytes (k (m + 1 + i)) (((e.drop 16).drop (16 * i)).take 16)) := by
      intro e
      simp only [List.range_succ_eq_map, List.flatMap_cons, List.flatMap_map, List.drop_drop]
      simp [Nat.mul_add, Nat.add_comm, Nat.add_left_comm]
    rw [hd, hd]
    have hl : (xorBytes (k m) (d.take 16)).length = min 16 d.length := by simp [hk]
    by_cases h16 : 16 ≤ d.length
    · have h1 : (xorBytes (k m) (d.take 16)).length = 16 := by omega
      rw [List.take_left' h1, List.drop_left' h1, ih (m + 1) (d.drop 16) (by simp; omega),
        xorBytes_twice _ _ (by simp [hk])]
      simp
    · have h2 : d.drop 16 = [] := by simp; omega
      have h3 : (List.range n).flatMap (fun i => xorBytes (k (m + 1 + i)) (((d.drop 16).drop (16 * i)).take 16)) = [] := by
        simp [h2, xorBytes]
      have h4 : (xorBytes (k m) (d.take 16)).drop 16 = [] := by simp [hk]
      rw [h3, List.append_nil, List.take_of_length_le (by omega), h4, xorBytes_twice _ _ (by simp [hk])]
      rw [List.take_of_length_le (by omega)]; simp [xorBytes]

/-- The key stream keeps the length. -/
theorem gcmCtr_length (keys : List (List Byte)) (iv d : List Byte)
    (hk : ∀ i, (aesBlock keys (iv ++ beBytes 4 (i + 2))).length = 16) :
    (gcmCtr keys iv d).length = d.length := by
  have h : ∀ n, ((List.range n).flatMap (fun i =>
      xorBytes (aesBlock keys (iv ++ beBytes 4 (i + 2))) ((d.drop (16 * i)).take 16))).length = min (16 * n) d.length := by
    intro n
    induction n with
    | zero => simp
    | succ n ih => simp only [List.range_succ, List.flatMap_append, List.length_append, ih]; simp [hk]; omega
  rw [gcmCtr, h]; omega

/-- The key stream applied twice gives the data back. -/
theorem gcmCtr_twice (keys : List (List Byte)) (iv d : List Byte)
    (hk : ∀ i, (aesBlock keys (iv ++ beBytes 4 (i + 2))).length = 16) :
    gcmCtr keys iv (gcmCtr keys iv d) = d := by
  have hl := gcmCtr_length keys iv d hk
  have := gcmCtr_from (fun i => aesBlock keys (iv ++ beBytes 4 (i + 2))) hk ((d.length + 15) / 16) 0 d (by omega)
  simp only [Nat.zero_add] at this
  simp only [gcmCtr] at hl ⊢
  rw [hl]
  exact this

/-- A message opens under the tag of its own sum (R132). -/
theorem gcmOpen_sealed (key iv aad data : List Byte) :
    gcmOpen key iv aad data
      (xorBytes (beBytes 16 (ghash (BitVec.ofNat 128 (beNat (aesBlock (aesKeys key) (List.replicate 16 0))))
        (blocks16 aad ++ blocks16 data ++
          [beBytes 8 (8 * aad.length) ++ beBytes 8 (8 * data.length)])).toNat)
        (aesBlock (aesKeys key) (iv ++ [0, 0, 0, 1]))) = some (gcmCtr (aesKeys key) iv data) := by
  simp [gcmOpen]

end Sys2Proof.Machine
end

