-- ==== Sys2Proof/Laws/Tbl.lean ====
section
/-! SUPPORT. The sparse table: a read after a write, and the canonical form that every write keeps. -/

namespace Sys2Proof.Tbl

variable {α : Type}

theorem get_del_self (d : α) (k : Nat) (t : Tbl α) : get d k (del k t) = d := by
  induction t with
  | nil => rfl
  | cons e t ih =>
    obtain ⟨k', v⟩ := e
    by_cases h : k' = k
    · simp [del, h, ih]
    · simp [del, get, h, ih]

theorem get_del_ne (d : α) {k j : Nat} (h : j ≠ k) (t : Tbl α) : get d j (del k t) = get d j t := by
  induction t with
  | nil => rfl
  | cons e t ih =>
    obtain ⟨k', v⟩ := e
    by_cases h1 : k' = k
    · have : k' ≠ j := fun h2 => h (by omega)
      simp [del, get, h1, ih]
      intro h3; omega
    · simp [del, get, h1, ih]

theorem get_ins_self (d : α) (k : Nat) (v : α) (t : Tbl α) (h : ∀ e ∈ t, e.1 ≠ k) :
    get d k (ins k v t) = v := by
  induction t with
  | nil => simp [ins, get]
  | cons e t ih =>
    obtain ⟨k', v'⟩ := e
    have hk : k' ≠ k := h (k', v') (by simp)
    have ht : ∀ e ∈ t, e.1 ≠ k := fun e he => h e (by simp [he])
    by_cases h1 : k < k'
    · simp [ins, get, h1]
    · simp [ins, get, h1, hk, ih ht]

theorem get_ins_ne (d : α) {k j : Nat} (h : j ≠ k) (v : α) (t : Tbl α) :
    get d j (ins k v t) = get d j t := by
  induction t with
  | nil => simp [ins, get, h.symm]
  | cons e t ih =>
    obtain ⟨k', v'⟩ := e
    by_cases h1 : k < k'
    · simp [ins, get, h1, h.symm]
    · simp [ins, get, h1, ih]

theorem del_keys (k : Nat) (t : Tbl α) : ∀ e ∈ del k t, e.1 ≠ k := by
  induction t with
  | nil => simp [del]
  | cons e t ih =>
    obtain ⟨k', v⟩ := e
    by_cases h : k' = k
    · simpa [del, h] using ih
    · intro e he
      simp only [del, h, if_false, List.mem_cons] at he
      rcases he with rfl | he
      · exact h
      · exact ih e he

variable [DecidableEq α]

/-- A read after a write to the same key gives the value written. -/
@[simp] theorem get_set_self (d : α) (k : Nat) (v : α) (t : Tbl α) : get d k (set d k v t) = v := by
  by_cases h : v = d
  · simp [set, h, get_del_self]
  · simp only [set, h, if_false]
    exact get_ins_self d k v _ (del_keys k t)

/-- A write leaves every other key alone. -/
theorem get_set_ne (d d' : α) {k j : Nat} (h : j ≠ k) (v : α) (t : Tbl α) :
    get d j (set d' k v t) = get d j t := by
  by_cases h1 : v = d'
  · simp [set, h1, get_del_ne d h]
  · simp only [set, h1, if_false]
    rw [get_ins_ne d h, get_del_ne d h]

omit [DecidableEq α] in
theorem rising_mono {lo lo' : Nat} (h : lo' ≤ lo) (t : Tbl α) (ht : rising lo t = true) :
    rising lo' t = true := by
  cases t with
  | nil => rfl
  | cons e t =>
    obtain ⟨k, v⟩ := e
    simp only [rising, Bool.and_eq_true, decide_eq_true_eq] at ht ⊢
    exact ⟨by omega, ht.2⟩

omit [DecidableEq α] in
theorem rising_del (k : Nat) (t : Tbl α) : ∀ lo, rising lo t = true → rising lo (del k t) = true := by
  induction t with
  | nil => intro lo _; rfl
  | cons e t ih =>
    obtain ⟨k', v⟩ := e
    intro lo h
    simp only [rising, Bool.and_eq_true, decide_eq_true_eq] at h
    by_cases h1 : k' = k
    · simp only [del, h1, if_true]
      exact rising_mono (by omega) _ (ih _ h.2)
    · simp only [del, h1, if_false, rising, Bool.and_eq_true, decide_eq_true_eq]
      exact ⟨h.1, ih _ h.2⟩

omit [DecidableEq α] in
theorem rising_ins (k : Nat) (v : α) (t : Tbl α) :
    ∀ lo, lo ≤ k → rising lo t = true → (∀ e ∈ t, e.1 ≠ k) → rising lo (ins k v t) = true := by
  induction t with
  | nil => intro lo h _ _; simp [ins, rising, h]
  | cons e t ih =>
    obtain ⟨k', v'⟩ := e
    intro lo hlo h hk
    simp only [rising, Bool.and_eq_true, decide_eq_true_eq] at h
    by_cases h1 : k < k'
    · simp only [ins, h1, if_true, rising, Bool.and_eq_true, decide_eq_true_eq]
      exact ⟨hlo, by omega, h.2⟩
    · have hne : k' ≠ k := hk (k', v') (by simp)
      simp only [ins, h1, if_false, rising, Bool.and_eq_true, decide_eq_true_eq]
      exact ⟨h.1, ih _ (by omega) h.2 (fun e he => hk e (by simp [he]))⟩

omit [DecidableEq α] in
theorem mem_del {k : Nat} {t : Tbl α} {e : Nat × α} (h : e ∈ del k t) : e ∈ t := by
  induction t with
  | nil => simp [del] at h
  | cons x t ih =>
    obtain ⟨k', v⟩ := x
    by_cases h1 : k' = k
    · simp only [del, h1, if_true] at h
      exact List.mem_cons_of_mem _ (ih h)
    · simp only [del, h1, if_false, List.mem_cons] at h
      rcases h with rfl | h
      · simp
      · exact List.mem_cons_of_mem _ (ih h)

omit [DecidableEq α] in
theorem mem_ins {k : Nat} {v : α} {t : Tbl α} {e : Nat × α} (h : e ∈ ins k v t) :
    e = (k, v) ∨ e ∈ t := by
  induction t with
  | nil => simpa [ins] using h
  | cons x t ih =>
    obtain ⟨k', v'⟩ := x
    by_cases h1 : k < k'
    · simpa [ins, h1] using h
    · simp only [ins, h1, if_false, List.mem_cons] at h
      rcases h with rfl | h
      · simp
      · rcases ih h with h | h
        · exact .inl h
        · exact .inr (List.mem_cons_of_mem _ h)

/-- A write keeps the canonical form. -/
theorem canonical_set (d : Nat → α) (k : Nat) (v : α) (t : Tbl α) (h : canonical d t = true) :
    canonical d (set (d k) k v t) = true := by
  simp only [canonical, Bool.and_eq_true, List.all_eq_true, decide_eq_true_eq] at h ⊢
  obtain ⟨hr, hv⟩ := h
  by_cases h1 : v = d k
  · simp only [set, h1, if_true]
    exact ⟨rising_del k t 0 hr, fun e he => hv e (mem_del he)⟩
  · simp only [set, h1, if_false]
    refine ⟨rising_ins k v _ 0 (Nat.zero_le _) (rising_del k t 0 hr) (del_keys k t), ?_⟩
    intro e he
    rcases mem_ins he with rfl | he
    · exact h1
    · exact hv e (mem_del he)

/-- Leaving entries out keeps the canonical form. -/
theorem canonical_filter (d : Nat → α) (p : Nat × α → Bool) (t : Tbl α) (h : canonical d t = true) :
    canonical d (t.filter p) = true := by
  have rise : ∀ (t : Tbl α) (lo : Nat), rising lo t = true → rising lo (t.filter p) = true := by
    intro t
    induction t with
    | nil => intro lo _; rfl
    | cons e t ih =>
      intro lo hlo
      obtain ⟨k, v⟩ := e
      simp only [rising, Bool.and_eq_true, decide_eq_true_eq] at hlo
      by_cases h1 : p (k, v) = true
      · simp only [List.filter_cons, h1, if_true, rising, Bool.and_eq_true, decide_eq_true_eq]
        exact ⟨hlo.1, ih _ hlo.2⟩
      · simp only [List.filter_cons, h1]
        exact rising_mono (by omega) _ (ih _ hlo.2)
  simp only [canonical, Bool.and_eq_true, List.all_eq_true, decide_eq_true_eq] at h ⊢
  exact ⟨rise t 0 h.1, fun e he => h.2 e (List.mem_of_mem_filter he)⟩

omit [DecidableEq α] in
theorem rising_iff (t : Tbl α) : ∀ lo, rising lo t = true ↔
    (∀ e ∈ t, lo ≤ e.1) ∧ t.Pairwise (fun x y => x.1 < y.1) := by
  induction t with
  | nil => intro lo; simp [rising]
  | cons e t ih =>
    obtain ⟨k, v⟩ := e
    intro lo
    simp only [rising, Bool.and_eq_true, decide_eq_true_eq, ih, List.pairwise_cons, List.forall_mem_cons]
    constructor
    · rintro ⟨h1, h2, h3⟩
      exact ⟨⟨h1, fun e he => by have := h2 e he; omega⟩, h2, h3⟩
    · rintro ⟨⟨h1, -⟩, h2, h3⟩
      exact ⟨h1, h2, h3⟩

/-- A stretch of `n` keys from `src` put in place of the stretch from `dst` keeps the canonical form,
where every unlisted key reads alike. -/
theorem canonical_moved {d : α} {t : Tbl α} (h : canonical (fun _ => d) t = true) (src dst n : Nat) :
    canonical (fun _ => d)
      (t.filter (fun e => decide (e.1 < dst)) ++
        (t.filter (fun e => decide (src ≤ e.1) && decide (e.1 < src + n))).map
          (fun e => (e.1 - src + dst, e.2)) ++
        t.filter (fun e => decide (dst + n ≤ e.1))) = true := by
  simp only [canonical, Bool.and_eq_true, List.all_eq_true, decide_eq_true_eq, rising_iff] at h ⊢
  obtain ⟨⟨-, hp⟩, hv⟩ := h
  refine ⟨⟨fun _ _ => Nat.zero_le _, ?_⟩, ?_⟩
  · rw [List.pairwise_append, List.pairwise_append]
    refine ⟨⟨hp.filter _, ?_, ?_⟩, hp.filter _, ?_⟩
    · rw [List.pairwise_map]
      refine (hp.filter _).imp_of_mem ?_
      intro a b ha hb hab
      simp only [List.mem_filter, Bool.and_eq_true, decide_eq_true_eq] at ha hb
      simp only
      omega
    · intro a ha b hb
      simp only [List.mem_filter, List.mem_map, Bool.and_eq_true, decide_eq_true_eq] at ha hb
      obtain ⟨e, he, rfl⟩ := hb
      simp only
      omega
    · intro a ha b hb
      simp only [List.mem_append, List.mem_filter, List.mem_map, Bool.and_eq_true,
        decide_eq_true_eq] at ha hb
      rcases ha with ha | ⟨e, he, rfl⟩
      · omega
      · simp only
        omega
  · intro e he
    simp only [List.mem_append, List.mem_filter, List.mem_map, Bool.and_eq_true,
      decide_eq_true_eq] at he
    rcases he with (he | ⟨x, hx, rfl⟩) | he
    · exact hv e he.1
    · exact hv x hx.1
    · exact hv e he.1

end Sys2Proof.Tbl
end

