-- ==== Sys2Proof/Laws/Regs.lean ====
section
/-! SUPPORT. Registers: a field read after a write of the same field, of another field of the word, and
of another word. -/

namespace Sys2Proof.Machine

/-! ### Bits of a word -/

/-- The number that stands in the place of field bits, with the rest of the word. -/
theorem putBits_split (hi lo v : Nat) (w : Word) (h1 : lo ≤ hi) (h2 : hi < 32) :
    (putBits hi lo v w).toNat =
      2 ^ lo * (2 ^ (hi - lo + 1) * (w.toNat / 2 ^ lo / 2 ^ (hi - lo + 1)) +
        v % 2 ^ (hi - lo + 1)) + w.toNat % 2 ^ lo := by
  have hP : 0 < 2 ^ lo := by positivity
  have hN : 0 < 2 ^ (hi - lo + 1) := by positivity
  have hPN : 2 ^ lo * 2 ^ (hi - lo + 1) * 2 ^ (31 - hi) = 2 ^ 32 := by
    rw [← pow_add, ← pow_add]; congr 1; omega
  have hw : w.toNat < 2 ^ 32 := w.isLt
  unfold putBits getBits
  generalize 2 ^ lo = P at *
  generalize 2 ^ (hi - lo + 1) = N at *
  generalize 2 ^ (31 - hi) = M at *
  generalize w.toNat = A at *
  have hx : A = P * (A / P) + A % P := (Nat.div_add_mod A P).symm
  have hy : A / P = N * (A / P / N) + A / P % N := (Nat.div_add_mod (A / P) N).symm
  have hr : A % P < P := Nat.mod_lt _ hP
  have hv : v % N < N := Nat.mod_lt _ hN
  generalize hX : A / P = X at *
  generalize hY : X / N = Y at *
  generalize hB : X % N = B at *
  generalize A % P = R at *
  generalize v % N = V at *
  have hsub : A - B * P = P * (N * Y) + R := by
    rw [hx, hy]; rw [Nat.mul_add, Nat.mul_comm P B]; omega
  have hYM : Y < M := by
    by_contra hcon
    have hcon : M ≤ Y := by omega
    have : P * N * M ≤ P * N * Y := Nat.mul_le_mul_left _ hcon
    have h3 : P * N * Y ≤ A := by
      rw [hx, hy, Nat.mul_add, ← Nat.mul_assoc]; omega
    omega
  have hval : P * (N * Y) + R + V * P = P * (N * Y + V) + R := by ring
  have hlt : P * (N * Y + V) + R < 2 ^ 32 := by
    have h3 : N * Y + V + 1 ≤ N * (Y + 1) := by rw [Nat.mul_add]; omega
    have h4 : P * (N * Y + V + 1) ≤ P * (N * (Y + 1)) := Nat.mul_le_mul_left _ h3
    have h5 : P * (N * (Y + 1)) ≤ P * N * M := by
      rw [← Nat.mul_assoc]; exact Nat.mul_le_mul_left _ hYM
    rw [Nat.mul_add] at h4; omega
  rw [BitVec.toNat_ofNat, hsub, hval, Nat.mod_eq_of_lt hlt]

/-- A field read after it is written, cut to its width. -/
theorem getBits_putBits (hi lo v : Nat) (w : Word) (h1 : lo ≤ hi) (h2 : hi < 32) :
    getBits hi lo (putBits hi lo v w) = v % 2 ^ (hi - lo + 1) := by
  have hP : 0 < 2 ^ lo := by positivity
  have hr : w.toNat % 2 ^ lo < 2 ^ lo := Nat.mod_lt _ hP
  unfold getBits
  rw [putBits_split hi lo v w h1 h2, Nat.mul_add_div hP, Nat.div_eq_of_lt hr, Nat.add_zero,
    Nat.mul_add_mod, Nat.mod_mod]

/-- A field below the one written keeps its value. -/
theorem getBits_putBits_below (hi lo v : Nat) (w : Word) (h1 : lo ≤ hi) (h2 : hi < 32)
    (ghi glo : Nat) (h3 : ghi < lo) (h4 : glo ≤ ghi) :
    getBits ghi glo (putBits hi lo v w) = getBits ghi glo w := by
  have hcut : ∀ n : Nat, n / 2 ^ glo % 2 ^ (ghi - glo + 1) =
      n % 2 ^ lo / 2 ^ glo % 2 ^ (ghi - glo + 1) := by
    intro n
    have hd : 2 ^ glo * 2 ^ (ghi - glo + 1) * 2 ^ (lo - (ghi + 1)) = 2 ^ lo := by
      rw [← pow_add, ← pow_add]; congr 1; omega
    rw [← hd, Nat.mul_assoc, Nat.mod_mul_right_div_self, Nat.mod_mul_right_mod]
  unfold getBits
  rw [hcut, hcut w.toNat, putBits_split hi lo v w h1 h2, Nat.mul_add_mod, Nat.mod_mod]

/-- A field above the one written keeps its value. -/
theorem getBits_putBits_above (hi lo v : Nat) (w : Word) (h1 : lo ≤ hi) (h2 : hi < 32)
    (ghi glo : Nat) (h3 : hi < glo) :
    getBits ghi glo (putBits hi lo v w) = getBits ghi glo w := by
  have hP : 0 < 2 ^ lo := by positivity
  have hN : 0 < 2 ^ (hi - lo + 1) := by positivity
  have hr : w.toNat % 2 ^ lo < 2 ^ lo := Nat.mod_lt _ hP
  have hv : v % 2 ^ (hi - lo + 1) < 2 ^ (hi - lo + 1) := Nat.mod_lt _ hN
  have hd : 2 ^ glo = 2 ^ lo * (2 ^ (hi - lo + 1) * 2 ^ (glo - (hi + 1))) := by
    rw [← pow_add, ← pow_add]; congr 1; omega
  unfold getBits
  rw [hd, ← Nat.div_div_eq_div_mul, ← Nat.div_div_eq_div_mul, ← Nat.div_div_eq_div_mul,
    ← Nat.div_div_eq_div_mul, putBits_split hi lo v w h1 h2, Nat.mul_add_div hP,
    Nat.div_eq_of_lt hr, Nat.add_zero, Nat.mul_add_div hN, Nat.div_eq_of_lt hv, Nat.add_zero]

/-! ### Fields -/

/-- A field stands within its word, and its word within the page. -/
abbrev Fld.Sound (f : Fld) : Prop := f.lo ≤ f.hi ∧ f.hi < 32 ∧ f.off < 4096

/-- Two fields of one word share no bit. -/
abbrev Fld.Apart (f g : Fld) : Prop := g.hi < f.lo ∨ f.hi < g.lo

theorem Fld.get_put (f : Fld) (hf : f.Sound) (v : Nat) (w : Word) :
    f.get (f.put v w) = v % 2 ^ f.width := getBits_putBits _ _ _ _ hf.1 hf.2.1

theorem Fld.get_put_apart (f g : Fld) (hf : f.Sound) (hg : g.Sound) (h : f.Apart g) (v : Nat)
    (w : Word) : g.get (f.put v w) = g.get w := by
  rcases h with h | h
  · exact getBits_putBits_below _ _ _ _ hf.1 hf.2.1 _ _ h hg.1
  · exact getBits_putBits_above _ _ _ _ hf.1 hf.2.1 _ _ h

/-! ### Words of the register table -/

theorem regKey_ne {p o p' o' : Nat} (ho : o < 4096) (ho' : o' < 4096) (h : p ≠ p' ∨ o ≠ o') :
    regKey p o ≠ regKey p' o' := by
  unfold regKey; omega

@[simp] theorem State.word_setWord (s : State) (p o : Nat) (w : Word) :
    (s.setWord p o w).word p o = w := by
  simp [State.word, State.setWord]

theorem State.word_setWord_ne (s : State) {p o p' o' : Nat} (ho : o < 4096) (ho' : o' < 4096)
    (h : p' ≠ p ∨ o' ≠ o) (w : Word) : (s.setWord p o w).word p' o' = s.word p' o' := by
  simp only [State.word, State.setWord]
  exact Tbl.get_set_ne _ _ (regKey_ne ho' ho h) w s.regs

@[simp] theorem State.actWord_setActWord (s : State) (p o : Nat) (w : Word) :
    (s.setActWord p o w).actWord p o = w := by
  simp [State.actWord, State.setActWord]

@[simp] theorem State.actWord_setWord (s : State) (p o p' o' : Nat) (w : Word) :
    (s.setWord p o w).actWord p' o' = s.actWord p' o' := rfl

@[simp] theorem State.word_setActWord (s : State) (p o p' o' : Nat) (w : Word) :
    (s.setActWord p o w).word p' o' = s.word p' o' := rfl

/-- A field reads as it was written, cut to its width. -/
theorem State.rd_wr (s : State) (p : Nat) (f : Fld) (hf : f.Sound) (v : Nat) :
    (s.wr p f v).rd p f = v % 2 ^ f.width := by
  unfold State.rd State.wr
  rw [State.word_setWord, Fld.get_put f hf]

/-- Another field of the same word keeps its value. -/
theorem State.rd_wr_apart (s : State) (p : Nat) (f g : Fld) (hf : f.Sound) (hg : g.Sound)
    (ho : g.off = f.off) (h : f.Apart g) (v : Nat) : (s.wr p f v).rd p g = s.rd p g := by
  unfold State.rd State.wr
  rw [ho, State.word_setWord, Fld.get_put_apart f g hf hg h]

/-- A field of another word keeps its value. -/
theorem State.rd_wr_ne (s : State) (p p' : Nat) (f g : Fld) (hf : f.Sound) (hg : g.Sound)
    (h : p' ≠ p ∨ g.off ≠ f.off) (v : Nat) : (s.wr p f v).rd p' g = s.rd p' g := by
  unfold State.rd State.wr
  rw [State.word_setWord_ne s hf.2.2 hg.2.2 h]

/-- Another word keeps its value. -/
theorem State.word_wr_ne (s : State) (p p' o : Nat) (f : Fld) (hf : f.Sound) (ho : o < 4096)
    (h : p' ≠ p ∨ o ≠ f.off) (v : Nat) : (s.wr p f v).word p' o = s.word p' o := by
  unfold State.wr
  exact State.word_setWord_ne s hf.2.2 ho h _

@[simp] theorem State.ac_wr (s : State) (p p' : Nat) (f g : Fld) (v : Nat) :
    (s.wr p f v).ac p' g = s.ac p' g := rfl

end Sys2Proof.Machine
end

