-- ==== Sys2Proof/Laws/State.lean ====
section
/-! SUPPORT. For every named update of the state and every field that it leaves alone: the field reads
as before.  Each is true by unfolding one record update; all are simp lemmas, so that no later proof
unfolds one. -/

namespace Sys2Proof.Machine

variable (s : State)

@[simp] theorem State.setWord_part (p o : Nat) (w : Word) : (s.setWord p o w).part = s.part := rfl
@[simp] theorem State.setWord_now (p o : Nat) (w : Word) : (s.setWord p o w).now = s.now := rfl
@[simp] theorem State.setWord_act (p o : Nat) (w : Word) : (s.setWord p o w).act = s.act := rfl
@[simp] theorem State.setWord_aon (p o : Nat) (w : Word) : (s.setWord p o w).aon = s.aon := rfl
@[simp] theorem State.setWord_host (p o : Nat) (w : Word) : (s.setWord p o w).host = s.host := rfl
@[simp] theorem State.setWord_gkpSide (p o : Nat) (w : Word) : (s.setWord p o w).gkpSide = s.gkpSide := rfl
@[simp] theorem State.setWord_commits (p o : Nat) (w : Word) : (s.setWord p o w).commits = s.commits := rfl
@[simp] theorem State.setWord_follies (p o : Nat) (w : Word) : (s.setWord p o w).follies = s.follies := rfl
@[simp] theorem State.setWord_plls (p o : Nat) (w : Word) : (s.setWord p o w).plls = s.plls := rfl
@[simp] theorem State.setWord_pwr (p o : Nat) (w : Word) : (s.setWord p o w).pwr = s.pwr := rfl
@[simp] theorem State.setWord_wrd (p o : Nat) (w : Word) : (s.setWord p o w).wrd = s.wrd := rfl
@[simp] theorem State.setWord_bist (p o : Nat) (w : Word) : (s.setWord p o w).bist = s.bist := rfl
@[simp] theorem State.setWord_gbk (p o : Nat) (w : Word) : (s.setWord p o w).gbk = s.gbk := rfl
@[simp] theorem State.setWord_enc (p o : Nat) (w : Word) : (s.setWord p o w).enc = s.enc := rfl
@[simp] theorem State.setWord_sdl (p o : Nat) (w : Word) : (s.setWord p o w).sdl = s.sdl := rfl
@[simp] theorem State.setWord_hsc (p o : Nat) (w : Word) : (s.setWord p o w).hsc = s.hsc := rfl
@[simp] theorem State.setWord_trg (p o : Nat) (w : Word) : (s.setWord p o w).trg = s.trg := rfl
@[simp] theorem State.setWord_ref (p o : Nat) (w : Word) : (s.setWord p o w).ref = s.ref := rfl
@[simp] theorem State.setWord_stm (p o : Nat) (w : Word) : (s.setWord p o w).stm = s.stm := rfl
@[simp] theorem State.setWord_ing (p o : Nat) (w : Word) : (s.setWord p o w).ing = s.ing := rfl
@[simp] theorem State.setWord_trl (p o : Nat) (w : Word) : (s.setWord p o w).trl = s.trl := rfl
@[simp] theorem State.setWord_fir (p o : Nat) (w : Word) : (s.setWord p o w).fir = s.fir := rfl
@[simp] theorem State.setWord_railAt (p o : Nat) (w : Word) : (s.setWord p o w).railAt = s.railAt := rfl
@[simp] theorem State.setWord_onk (p o : Nat) (w : Word) : (s.setWord p o w).onk = s.onk := rfl
@[simp] theorem State.setWord_tx (p o : Nat) (w : Word) : (s.setWord p o w).tx = s.tx := rfl
@[simp] theorem State.setWord_alerts (p o : Nat) (w : Word) : (s.setWord p o w).alerts = s.alerts := rfl
@[simp] theorem State.setWord_cam (p o : Nat) (w : Word) : (s.setWord p o w).cam = s.cam := rfl
@[simp] theorem State.setWord_blv (p o : Nat) (w : Word) : (s.setWord p o w).blv = s.blv := rfl
@[simp] theorem State.setWord_qlp (p o : Nat) (w : Word) : (s.setWord p o w).qlp = s.qlp := rfl
@[simp] theorem State.setWord_mem (p o : Nat) (w : Word) : (s.setWord p o w).mem = s.mem := rfl
@[simp] theorem State.setWord_poison (p o : Nat) (w : Word) : (s.setWord p o w).poison = s.poison := rfl
@[simp] theorem State.setWord_drc (p o : Nat) (w : Word) : (s.setWord p o w).drc = s.drc := rfl
@[simp] theorem State.setWord_net (p o : Nat) (w : Word) : (s.setWord p o w).net = s.net := rfl
@[simp] theorem State.setWord_tb (p o : Nat) (w : Word) : (s.setWord p o w).tb = s.tb := rfl
@[simp] theorem State.setWord_pcie (p o : Nat) (w : Word) : (s.setWord p o w).pcie = s.pcie := rfl
@[simp] theorem State.setWord_axes (p o : Nat) (w : Word) : (s.setWord p o w).axes = s.axes := rfl
@[simp] theorem State.setWord_fnt (p o : Nat) (w : Word) : (s.setWord p o w).fnt = s.fnt := rfl
@[simp] theorem State.setWord_mon (p o : Nat) (w : Word) : (s.setWord p o w).mon = s.mon := rfl
@[simp] theorem State.setWord_mechXtal (p o : Nat) (w : Word) :
    (s.setWord p o w).mechXtal = s.mechXtal := rfl
@[simp] theorem State.setWord_gth (p o : Nat) (w : Word) : (s.setWord p o w).gth = s.gth := rfl
@[simp] theorem State.setWord_fsh (p o : Nat) (w : Word) : (s.setWord p o w).fsh = s.fsh := rfl
@[simp] theorem State.setWord_flash (p o : Nat) (w : Word) : (s.setWord p o w).flash = s.flash := rfl
@[simp] theorem State.setWord_svnFloor (p o : Nat) (w : Word) :
    (s.setWord p o w).svnFloor = s.svnFloor := rfl
@[simp] theorem State.setWord_emitted (p o : Nat) (w : Word) : (s.setWord p o w).emitted = s.emitted := rfl
@[simp] theorem State.setWord_free (p o : Nat) (w : Word) : (s.setWord p o w).free = s.free := rfl
@[simp] theorem State.setWord_pending (p o : Nat) (w : Word) : (s.setWord p o w).pending = s.pending := rfl

@[simp] theorem State.setActWord_part (p o : Nat) (w : Word) : (s.setActWord p o w).part = s.part := rfl
@[simp] theorem State.setActWord_now (p o : Nat) (w : Word) : (s.setActWord p o w).now = s.now := rfl
@[simp] theorem State.setActWord_regs (p o : Nat) (w : Word) : (s.setActWord p o w).regs = s.regs := rfl
@[simp] theorem State.setActWord_aon (p o : Nat) (w : Word) : (s.setActWord p o w).aon = s.aon := rfl
@[simp] theorem State.setActWord_host (p o : Nat) (w : Word) : (s.setActWord p o w).host = s.host := rfl
@[simp] theorem State.setActWord_gkpSide (p o : Nat) (w : Word) :
    (s.setActWord p o w).gkpSide = s.gkpSide := rfl
@[simp] theorem State.setActWord_commits (p o : Nat) (w : Word) :
    (s.setActWord p o w).commits = s.commits := rfl
@[simp] theorem State.setActWord_follies (p o : Nat) (w : Word) :
    (s.setActWord p o w).follies = s.follies := rfl
@[simp] theorem State.setActWord_plls (p o : Nat) (w : Word) : (s.setActWord p o w).plls = s.plls := rfl
@[simp] theorem State.setActWord_pwr (p o : Nat) (w : Word) : (s.setActWord p o w).pwr = s.pwr := rfl
@[simp] theorem State.setActWord_wrd (p o : Nat) (w : Word) : (s.setActWord p o w).wrd = s.wrd := rfl
@[simp] theorem State.setActWord_bist (p o : Nat) (w : Word) : (s.setActWord p o w).bist = s.bist := rfl
@[simp] theorem State.setActWord_gbk (p o : Nat) (w : Word) : (s.setActWord p o w).gbk = s.gbk := rfl
@[simp] theorem State.setActWord_enc (p o : Nat) (w : Word) : (s.setActWord p o w).enc = s.enc := rfl
@[simp] theorem State.setActWord_sdl (p o : Nat) (w : Word) : (s.setActWord p o w).sdl = s.sdl := rfl
@[simp] theorem State.setActWord_hsc (p o : Nat) (w : Word) : (s.setActWord p o w).hsc = s.hsc := rfl
@[simp] theorem State.setActWord_trg (p o : Nat) (w : Word) : (s.setActWord p o w).trg = s.trg := rfl
@[simp] theorem State.setActWord_ref (p o : Nat) (w : Word) : (s.setActWord p o w).ref = s.ref := rfl
@[simp] theorem State.setActWord_stm (p o : Nat) (w : Word) : (s.setActWord p o w).stm = s.stm := rfl
@[simp] theorem State.setActWord_ing (p o : Nat) (w : Word) : (s.setActWord p o w).ing = s.ing := rfl
@[simp] theorem State.setActWord_trl (p o : Nat) (w : Word) : (s.setActWord p o w).trl = s.trl := rfl
@[simp] theorem State.setActWord_fir (p o : Nat) (w : Word) : (s.setActWord p o w).fir = s.fir := rfl
@[simp] theorem State.setActWord_railAt (p o : Nat) (w : Word) :
    (s.setActWord p o w).railAt = s.railAt := rfl
@[simp] theorem State.setActWord_onk (p o : Nat) (w : Word) : (s.setActWord p o w).onk = s.onk := rfl
@[simp] theorem State.setActWord_tx (p o : Nat) (w : Word) : (s.setActWord p o w).tx = s.tx := rfl
@[simp] theorem State.setActWord_alerts (p o : Nat) (w : Word) :
    (s.setActWord p o w).alerts = s.alerts := rfl
@[simp] theorem State.setActWord_cam (p o : Nat) (w : Word) : (s.setActWord p o w).cam = s.cam := rfl
@[simp] theorem State.setActWord_blv (p o : Nat) (w : Word) : (s.setActWord p o w).blv = s.blv := rfl
@[simp] theorem State.setActWord_qlp (p o : Nat) (w : Word) : (s.setActWord p o w).qlp = s.qlp := rfl
@[simp] theorem State.setActWord_mem (p o : Nat) (w : Word) : (s.setActWord p o w).mem = s.mem := rfl
@[simp] theorem State.setActWord_poison (p o : Nat) (w : Word) :
    (s.setActWord p o w).poison = s.poison := rfl
@[simp] theorem State.setActWord_drc (p o : Nat) (w : Word) : (s.setActWord p o w).drc = s.drc := rfl
@[simp] theorem State.setActWord_net (p o : Nat) (w : Word) : (s.setActWord p o w).net = s.net := rfl
@[simp] theorem State.setActWord_tb (p o : Nat) (w : Word) : (s.setActWord p o w).tb = s.tb := rfl
@[simp] theorem State.setActWord_pcie (p o : Nat) (w : Word) : (s.setActWord p o w).pcie = s.pcie := rfl
@[simp] theorem State.setActWord_axes (p o : Nat) (w : Word) : (s.setActWord p o w).axes = s.axes := rfl
@[simp] theorem State.setActWord_fnt (p o : Nat) (w : Word) : (s.setActWord p o w).fnt = s.fnt := rfl
@[simp] theorem State.setActWord_mon (p o : Nat) (w : Word) : (s.setActWord p o w).mon = s.mon := rfl
@[simp] theorem State.setActWord_mechXtal (p o : Nat) (w : Word) :
    (s.setActWord p o w).mechXtal = s.mechXtal := rfl
@[simp] theorem State.setActWord_gth (p o : Nat) (w : Word) : (s.setActWord p o w).gth = s.gth := rfl
@[simp] theorem State.setActWord_fsh (p o : Nat) (w : Word) : (s.setActWord p o w).fsh = s.fsh := rfl
@[simp] theorem State.setActWord_flash (p o : Nat) (w : Word) : (s.setActWord p o w).flash = s.flash := rfl
@[simp] theorem State.setActWord_svnFloor (p o : Nat) (w : Word) :
    (s.setActWord p o w).svnFloor = s.svnFloor := rfl
@[simp] theorem State.setActWord_emitted (p o : Nat) (w : Word) :
    (s.setActWord p o w).emitted = s.emitted := rfl
@[simp] theorem State.setActWord_free (p o : Nat) (w : Word) : (s.setActWord p o w).free = s.free := rfl
@[simp] theorem State.setActWord_pending (p o : Nat) (w : Word) :
    (s.setActWord p o w).pending = s.pending := rfl

@[simp] theorem State.wr_part (p : Nat) (f : Fld) (v : Nat) : (s.wr p f v).part = s.part := rfl
@[simp] theorem State.wr_now (p : Nat) (f : Fld) (v : Nat) : (s.wr p f v).now = s.now := rfl
@[simp] theorem State.wr_act (p : Nat) (f : Fld) (v : Nat) : (s.wr p f v).act = s.act := rfl
@[simp] theorem State.wr_aon (p : Nat) (f : Fld) (v : Nat) : (s.wr p f v).aon = s.aon := rfl
@[simp] theorem State.wr_host (p : Nat) (f : Fld) (v : Nat) : (s.wr p f v).host = s.host := rfl
@[simp] theorem State.wr_gkpSide (p : Nat) (f : Fld) (v : Nat) : (s.wr p f v).gkpSide = s.gkpSide := rfl
@[simp] theorem State.wr_commits (p : Nat) (f : Fld) (v : Nat) : (s.wr p f v).commits = s.commits := rfl
@[simp] theorem State.wr_follies (p : Nat) (f : Fld) (v : Nat) : (s.wr p f v).follies = s.follies := rfl
@[simp] theorem State.wr_plls (p : Nat) (f : Fld) (v : Nat) : (s.wr p f v).plls = s.plls := rfl
@[simp] theorem State.wr_pwr (p : Nat) (f : Fld) (v : Nat) : (s.wr p f v).pwr = s.pwr := rfl
@[simp] theorem State.wr_wrd (p : Nat) (f : Fld) (v : Nat) : (s.wr p f v).wrd = s.wrd := rfl
@[simp] theorem State.wr_bist (p : Nat) (f : Fld) (v : Nat) : (s.wr p f v).bist = s.bist := rfl
@[simp] theorem State.wr_gbk (p : Nat) (f : Fld) (v : Nat) : (s.wr p f v).gbk = s.gbk := rfl
@[simp] theorem State.wr_enc (p : Nat) (f : Fld) (v : Nat) : (s.wr p f v).enc = s.enc := rfl
@[simp] theorem State.wr_sdl (p : Nat) (f : Fld) (v : Nat) : (s.wr p f v).sdl = s.sdl := rfl
@[simp] theorem State.wr_hsc (p : Nat) (f : Fld) (v : Nat) : (s.wr p f v).hsc = s.hsc := rfl
@[simp] theorem State.wr_trg (p : Nat) (f : Fld) (v : Nat) : (s.wr p f v).trg = s.trg := rfl
@[simp] theorem State.wr_ref (p : Nat) (f : Fld) (v : Nat) : (s.wr p f v).ref = s.ref := rfl
@[simp] theorem State.wr_stm (p : Nat) (f : Fld) (v : Nat) : (s.wr p f v).stm = s.stm := rfl
@[simp] theorem State.wr_ing (p : Nat) (f : Fld) (v : Nat) : (s.wr p f v).ing = s.ing := rfl
@[simp] theorem State.wr_trl (p : Nat) (f : Fld) (v : Nat) : (s.wr p f v).trl = s.trl := rfl
@[simp] theorem State.wr_fir (p : Nat) (f : Fld) (v : Nat) : (s.wr p f v).fir = s.fir := rfl
@[simp] theorem State.wr_railAt (p : Nat) (f : Fld) (v : Nat) : (s.wr p f v).railAt = s.railAt := rfl
@[simp] theorem State.wr_onk (p : Nat) (f : Fld) (v : Nat) : (s.wr p f v).onk = s.onk := rfl
@[simp] theorem State.wr_tx (p : Nat) (f : Fld) (v : Nat) : (s.wr p f v).tx = s.tx := rfl
@[simp] theorem State.wr_alerts (p : Nat) (f : Fld) (v : Nat) : (s.wr p f v).alerts = s.alerts := rfl
@[simp] theorem State.wr_cam (p : Nat) (f : Fld) (v : Nat) : (s.wr p f v).cam = s.cam := rfl
@[simp] theorem State.wr_blv (p : Nat) (f : Fld) (v : Nat) : (s.wr p f v).blv = s.blv := rfl
@[simp] theorem State.wr_qlp (p : Nat) (f : Fld) (v : Nat) : (s.wr p f v).qlp = s.qlp := rfl
@[simp] theorem State.wr_mem (p : Nat) (f : Fld) (v : Nat) : (s.wr p f v).mem = s.mem := rfl
@[simp] theorem State.wr_poison (p : Nat) (f : Fld) (v : Nat) : (s.wr p f v).poison = s.poison := rfl
@[simp] theorem State.wr_drc (p : Nat) (f : Fld) (v : Nat) : (s.wr p f v).drc = s.drc := rfl
@[simp] theorem State.wr_net (p : Nat) (f : Fld) (v : Nat) : (s.wr p f v).net = s.net := rfl
@[simp] theorem State.wr_tb (p : Nat) (f : Fld) (v : Nat) : (s.wr p f v).tb = s.tb := rfl
@[simp] theorem State.wr_pcie (p : Nat) (f : Fld) (v : Nat) : (s.wr p f v).pcie = s.pcie := rfl
@[simp] theorem State.wr_axes (p : Nat) (f : Fld) (v : Nat) : (s.wr p f v).axes = s.axes := rfl
@[simp] theorem State.wr_fnt (p : Nat) (f : Fld) (v : Nat) : (s.wr p f v).fnt = s.fnt := rfl
@[simp] theorem State.wr_mon (p : Nat) (f : Fld) (v : Nat) : (s.wr p f v).mon = s.mon := rfl
@[simp] theorem State.wr_mechXtal (p : Nat) (f : Fld) (v : Nat) : (s.wr p f v).mechXtal = s.mechXtal := rfl
@[simp] theorem State.wr_gth (p : Nat) (f : Fld) (v : Nat) : (s.wr p f v).gth = s.gth := rfl
@[simp] theorem State.wr_fsh (p : Nat) (f : Fld) (v : Nat) : (s.wr p f v).fsh = s.fsh := rfl
@[simp] theorem State.wr_flash (p : Nat) (f : Fld) (v : Nat) : (s.wr p f v).flash = s.flash := rfl
@[simp] theorem State.wr_svnFloor (p : Nat) (f : Fld) (v : Nat) : (s.wr p f v).svnFloor = s.svnFloor := rfl
@[simp] theorem State.wr_emitted (p : Nat) (f : Fld) (v : Nat) : (s.wr p f v).emitted = s.emitted := rfl
@[simp] theorem State.wr_free (p : Nat) (f : Fld) (v : Nat) : (s.wr p f v).free = s.free := rfl
@[simp] theorem State.wr_pending (p : Nat) (f : Fld) (v : Nat) : (s.wr p f v).pending = s.pending := rfl

@[simp] theorem State.wrAc_part (p : Nat) (f : Fld) (v : Nat) : (s.wrAc p f v).part = s.part := rfl
@[simp] theorem State.wrAc_now (p : Nat) (f : Fld) (v : Nat) : (s.wrAc p f v).now = s.now := rfl
@[simp] theorem State.wrAc_regs (p : Nat) (f : Fld) (v : Nat) : (s.wrAc p f v).regs = s.regs := rfl
@[simp] theorem State.wrAc_aon (p : Nat) (f : Fld) (v : Nat) : (s.wrAc p f v).aon = s.aon := rfl
@[simp] theorem State.wrAc_host (p : Nat) (f : Fld) (v : Nat) : (s.wrAc p f v).host = s.host := rfl
@[simp] theorem State.wrAc_gkpSide (p : Nat) (f : Fld) (v : Nat) : (s.wrAc p f v).gkpSide = s.gkpSide := rfl
@[simp] theorem State.wrAc_commits (p : Nat) (f : Fld) (v : Nat) : (s.wrAc p f v).commits = s.commits := rfl
@[simp] theorem State.wrAc_follies (p : Nat) (f : Fld) (v : Nat) : (s.wrAc p f v).follies = s.follies := rfl
@[simp] theorem State.wrAc_plls (p : Nat) (f : Fld) (v : Nat) : (s.wrAc p f v).plls = s.plls := rfl
@[simp] theorem State.wrAc_pwr (p : Nat) (f : Fld) (v : Nat) : (s.wrAc p f v).pwr = s.pwr := rfl
@[simp] theorem State.wrAc_wrd (p : Nat) (f : Fld) (v : Nat) : (s.wrAc p f v).wrd = s.wrd := rfl
@[simp] theorem State.wrAc_bist (p : Nat) (f : Fld) (v : Nat) : (s.wrAc p f v).bist = s.bist := rfl
@[simp] theorem State.wrAc_gbk (p : Nat) (f : Fld) (v : Nat) : (s.wrAc p f v).gbk = s.gbk := rfl
@[simp] theorem State.wrAc_enc (p : Nat) (f : Fld) (v : Nat) : (s.wrAc p f v).enc = s.enc := rfl
@[simp] theorem State.wrAc_sdl (p : Nat) (f : Fld) (v : Nat) : (s.wrAc p f v).sdl = s.sdl := rfl
@[simp] theorem State.wrAc_hsc (p : Nat) (f : Fld) (v : Nat) : (s.wrAc p f v).hsc = s.hsc := rfl
@[simp] theorem State.wrAc_trg (p : Nat) (f : Fld) (v : Nat) : (s.wrAc p f v).trg = s.trg := rfl
@[simp] theorem State.wrAc_ref (p : Nat) (f : Fld) (v : Nat) : (s.wrAc p f v).ref = s.ref := rfl
@[simp] theorem State.wrAc_stm (p : Nat) (f : Fld) (v : Nat) : (s.wrAc p f v).stm = s.stm := rfl
@[simp] theorem State.wrAc_ing (p : Nat) (f : Fld) (v : Nat) : (s.wrAc p f v).ing = s.ing := rfl
@[simp] theorem State.wrAc_trl (p : Nat) (f : Fld) (v : Nat) : (s.wrAc p f v).trl = s.trl := rfl
@[simp] theorem State.wrAc_fir (p : Nat) (f : Fld) (v : Nat) : (s.wrAc p f v).fir = s.fir := rfl
@[simp] theorem State.wrAc_railAt (p : Nat) (f : Fld) (v : Nat) : (s.wrAc p f v).railAt = s.railAt := rfl
@[simp] theorem State.wrAc_onk (p : Nat) (f : Fld) (v : Nat) : (s.wrAc p f v).onk = s.onk := rfl
@[simp] theorem State.wrAc_tx (p : Nat) (f : Fld) (v : Nat) : (s.wrAc p f v).tx = s.tx := rfl
@[simp] theorem State.wrAc_alerts (p : Nat) (f : Fld) (v : Nat) : (s.wrAc p f v).alerts = s.alerts := rfl
@[simp] theorem State.wrAc_cam (p : Nat) (f : Fld) (v : Nat) : (s.wrAc p f v).cam = s.cam := rfl
@[simp] theorem State.wrAc_blv (p : Nat) (f : Fld) (v : Nat) : (s.wrAc p f v).blv = s.blv := rfl
@[simp] theorem State.wrAc_qlp (p : Nat) (f : Fld) (v : Nat) : (s.wrAc p f v).qlp = s.qlp := rfl
@[simp] theorem State.wrAc_mem (p : Nat) (f : Fld) (v : Nat) : (s.wrAc p f v).mem = s.mem := rfl
@[simp] theorem State.wrAc_poison (p : Nat) (f : Fld) (v : Nat) : (s.wrAc p f v).poison = s.poison := rfl
@[simp] theorem State.wrAc_drc (p : Nat) (f : Fld) (v : Nat) : (s.wrAc p f v).drc = s.drc := rfl
@[simp] theorem State.wrAc_net (p : Nat) (f : Fld) (v : Nat) : (s.wrAc p f v).net = s.net := rfl
@[simp] theorem State.wrAc_tb (p : Nat) (f : Fld) (v : Nat) : (s.wrAc p f v).tb = s.tb := rfl
@[simp] theorem State.wrAc_pcie (p : Nat) (f : Fld) (v : Nat) : (s.wrAc p f v).pcie = s.pcie := rfl
@[simp] theorem State.wrAc_axes (p : Nat) (f : Fld) (v : Nat) : (s.wrAc p f v).axes = s.axes := rfl
@[simp] theorem State.wrAc_fnt (p : Nat) (f : Fld) (v : Nat) : (s.wrAc p f v).fnt = s.fnt := rfl
@[simp] theorem State.wrAc_mon (p : Nat) (f : Fld) (v : Nat) : (s.wrAc p f v).mon = s.mon := rfl
@[simp] theorem State.wrAc_mechXtal (p : Nat) (f : Fld) (v : Nat) :
    (s.wrAc p f v).mechXtal = s.mechXtal := rfl
@[simp] theorem State.wrAc_gth (p : Nat) (f : Fld) (v : Nat) : (s.wrAc p f v).gth = s.gth := rfl
@[simp] theorem State.wrAc_fsh (p : Nat) (f : Fld) (v : Nat) : (s.wrAc p f v).fsh = s.fsh := rfl
@[simp] theorem State.wrAc_flash (p : Nat) (f : Fld) (v : Nat) : (s.wrAc p f v).flash = s.flash := rfl
@[simp] theorem State.wrAc_svnFloor (p : Nat) (f : Fld) (v : Nat) :
    (s.wrAc p f v).svnFloor = s.svnFloor := rfl
@[simp] theorem State.wrAc_emitted (p : Nat) (f : Fld) (v : Nat) : (s.wrAc p f v).emitted = s.emitted := rfl
@[simp] theorem State.wrAc_free (p : Nat) (f : Fld) (v : Nat) : (s.wrAc p f v).free = s.free := rfl
@[simp] theorem State.wrAc_pending (p : Nat) (f : Fld) (v : Nat) : (s.wrAc p f v).pending = s.pending := rfl

@[simp] theorem State.emit_part (e : Emission) : (s.emit e).part = s.part := rfl
@[simp] theorem State.emit_now (e : Emission) : (s.emit e).now = s.now := rfl
@[simp] theorem State.emit_regs (e : Emission) : (s.emit e).regs = s.regs := rfl
@[simp] theorem State.emit_act (e : Emission) : (s.emit e).act = s.act := rfl
@[simp] theorem State.emit_aon (e : Emission) : (s.emit e).aon = s.aon := rfl
@[simp] theorem State.emit_host (e : Emission) : (s.emit e).host = s.host := rfl
@[simp] theorem State.emit_gkpSide (e : Emission) : (s.emit e).gkpSide = s.gkpSide := rfl
@[simp] theorem State.emit_commits (e : Emission) : (s.emit e).commits = s.commits := rfl
@[simp] theorem State.emit_follies (e : Emission) : (s.emit e).follies = s.follies := rfl
@[simp] theorem State.emit_plls (e : Emission) : (s.emit e).plls = s.plls := rfl
@[simp] theorem State.emit_pwr (e : Emission) : (s.emit e).pwr = s.pwr := rfl
@[simp] theorem State.emit_wrd (e : Emission) : (s.emit e).wrd = s.wrd := rfl
@[simp] theorem State.emit_bist (e : Emission) : (s.emit e).bist = s.bist := rfl
@[simp] theorem State.emit_gbk (e : Emission) : (s.emit e).gbk = s.gbk := rfl
@[simp] theorem State.emit_enc (e : Emission) : (s.emit e).enc = s.enc := rfl
@[simp] theorem State.emit_sdl (e : Emission) : (s.emit e).sdl = s.sdl := rfl
@[simp] theorem State.emit_hsc (e : Emission) : (s.emit e).hsc = s.hsc := rfl
@[simp] theorem State.emit_trg (e : Emission) : (s.emit e).trg = s.trg := rfl
@[simp] theorem State.emit_ref (e : Emission) : (s.emit e).ref = s.ref := rfl
@[simp] theorem State.emit_stm (e : Emission) : (s.emit e).stm = s.stm := rfl
@[simp] theorem State.emit_ing (e : Emission) : (s.emit e).ing = s.ing := rfl
@[simp] theorem State.emit_trl (e : Emission) : (s.emit e).trl = s.trl := rfl
@[simp] theorem State.emit_fir (e : Emission) : (s.emit e).fir = s.fir := rfl
@[simp] theorem State.emit_railAt (e : Emission) : (s.emit e).railAt = s.railAt := rfl
@[simp] theorem State.emit_onk (e : Emission) : (s.emit e).onk = s.onk := rfl
@[simp] theorem State.emit_tx (e : Emission) : (s.emit e).tx = s.tx := rfl
@[simp] theorem State.emit_alerts (e : Emission) : (s.emit e).alerts = s.alerts := rfl
@[simp] theorem State.emit_cam (e : Emission) : (s.emit e).cam = s.cam := rfl
@[simp] theorem State.emit_blv (e : Emission) : (s.emit e).blv = s.blv := rfl
@[simp] theorem State.emit_qlp (e : Emission) : (s.emit e).qlp = s.qlp := rfl
@[simp] theorem State.emit_mem (e : Emission) : (s.emit e).mem = s.mem := rfl
@[simp] theorem State.emit_poison (e : Emission) : (s.emit e).poison = s.poison := rfl
@[simp] theorem State.emit_drc (e : Emission) : (s.emit e).drc = s.drc := rfl
@[simp] theorem State.emit_net (e : Emission) : (s.emit e).net = s.net := rfl
@[simp] theorem State.emit_tb (e : Emission) : (s.emit e).tb = s.tb := rfl
@[simp] theorem State.emit_pcie (e : Emission) : (s.emit e).pcie = s.pcie := rfl
@[simp] theorem State.emit_axes (e : Emission) : (s.emit e).axes = s.axes := rfl
@[simp] theorem State.emit_fnt (e : Emission) : (s.emit e).fnt = s.fnt := rfl
@[simp] theorem State.emit_mon (e : Emission) : (s.emit e).mon = s.mon := rfl
@[simp] theorem State.emit_mechXtal (e : Emission) : (s.emit e).mechXtal = s.mechXtal := rfl
@[simp] theorem State.emit_gth (e : Emission) : (s.emit e).gth = s.gth := rfl
@[simp] theorem State.emit_fsh (e : Emission) : (s.emit e).fsh = s.fsh := rfl
@[simp] theorem State.emit_flash (e : Emission) : (s.emit e).flash = s.flash := rfl
@[simp] theorem State.emit_svnFloor (e : Emission) : (s.emit e).svnFloor = s.svnFloor := rfl
@[simp] theorem State.emit_free (e : Emission) : (s.emit e).free = s.free := rfl
@[simp] theorem State.emit_pending (e : Emission) : (s.emit e).pending = s.pending := rfl

@[simp] theorem State.draw_part : (s.draw).part = s.part := rfl
@[simp] theorem State.draw_now : (s.draw).now = s.now := rfl
@[simp] theorem State.draw_regs : (s.draw).regs = s.regs := rfl
@[simp] theorem State.draw_act : (s.draw).act = s.act := rfl
@[simp] theorem State.draw_aon : (s.draw).aon = s.aon := rfl
@[simp] theorem State.draw_host : (s.draw).host = s.host := rfl
@[simp] theorem State.draw_gkpSide : (s.draw).gkpSide = s.gkpSide := rfl
@[simp] theorem State.draw_commits : (s.draw).commits = s.commits := rfl
@[simp] theorem State.draw_follies : (s.draw).follies = s.follies := rfl
@[simp] theorem State.draw_plls : (s.draw).plls = s.plls := rfl
@[simp] theorem State.draw_pwr : (s.draw).pwr = s.pwr := rfl
@[simp] theorem State.draw_wrd : (s.draw).wrd = s.wrd := rfl
@[simp] theorem State.draw_bist : (s.draw).bist = s.bist := rfl
@[simp] theorem State.draw_gbk : (s.draw).gbk = s.gbk := rfl
@[simp] theorem State.draw_enc : (s.draw).enc = s.enc := rfl
@[simp] theorem State.draw_sdl : (s.draw).sdl = s.sdl := rfl
@[simp] theorem State.draw_hsc : (s.draw).hsc = s.hsc := rfl
@[simp] theorem State.draw_trg : (s.draw).trg = s.trg := rfl
@[simp] theorem State.draw_ref : (s.draw).ref = s.ref := rfl
@[simp] theorem State.draw_stm : (s.draw).stm = s.stm := rfl
@[simp] theorem State.draw_ing : (s.draw).ing = s.ing := rfl
@[simp] theorem State.draw_trl : (s.draw).trl = s.trl := rfl
@[simp] theorem State.draw_fir : (s.draw).fir = s.fir := rfl
@[simp] theorem State.draw_railAt : (s.draw).railAt = s.railAt := rfl
@[simp] theorem State.draw_onk : (s.draw).onk = s.onk := rfl
@[simp] theorem State.draw_tx : (s.draw).tx = s.tx := rfl
@[simp] theorem State.draw_alerts : (s.draw).alerts = s.alerts := rfl
@[simp] theorem State.draw_cam : (s.draw).cam = s.cam := rfl
@[simp] theorem State.draw_blv : (s.draw).blv = s.blv := rfl
@[simp] theorem State.draw_qlp : (s.draw).qlp = s.qlp := rfl
@[simp] theorem State.draw_mem : (s.draw).mem = s.mem := rfl
@[simp] theorem State.draw_poison : (s.draw).poison = s.poison := rfl
@[simp] theorem State.draw_drc : (s.draw).drc = s.drc := rfl
@[simp] theorem State.draw_net : (s.draw).net = s.net := rfl
@[simp] theorem State.draw_tb : (s.draw).tb = s.tb := rfl
@[simp] theorem State.draw_pcie : (s.draw).pcie = s.pcie := rfl
@[simp] theorem State.draw_axes : (s.draw).axes = s.axes := rfl
@[simp] theorem State.draw_fnt : (s.draw).fnt = s.fnt := rfl
@[simp] theorem State.draw_mon : (s.draw).mon = s.mon := rfl
@[simp] theorem State.draw_mechXtal : (s.draw).mechXtal = s.mechXtal := rfl
@[simp] theorem State.draw_gth : (s.draw).gth = s.gth := rfl
@[simp] theorem State.draw_fsh : (s.draw).fsh = s.fsh := rfl
@[simp] theorem State.draw_flash : (s.draw).flash = s.flash := rfl
@[simp] theorem State.draw_svnFloor : (s.draw).svnFloor = s.svnFloor := rfl
@[simp] theorem State.draw_emitted : (s.draw).emitted = s.emitted := rfl
@[simp] theorem State.draw_pending : (s.draw).pending = s.pending := rfl

@[simp] theorem State.setByte_part (a : Nat) (b : Byte) : (s.setByte a b).part = s.part := rfl
@[simp] theorem State.setByte_now (a : Nat) (b : Byte) : (s.setByte a b).now = s.now := rfl
@[simp] theorem State.setByte_regs (a : Nat) (b : Byte) : (s.setByte a b).regs = s.regs := rfl
@[simp] theorem State.setByte_act (a : Nat) (b : Byte) : (s.setByte a b).act = s.act := rfl
@[simp] theorem State.setByte_aon (a : Nat) (b : Byte) : (s.setByte a b).aon = s.aon := rfl
@[simp] theorem State.setByte_host (a : Nat) (b : Byte) : (s.setByte a b).host = s.host := rfl
@[simp] theorem State.setByte_gkpSide (a : Nat) (b : Byte) : (s.setByte a b).gkpSide = s.gkpSide := rfl
@[simp] theorem State.setByte_commits (a : Nat) (b : Byte) : (s.setByte a b).commits = s.commits := rfl
@[simp] theorem State.setByte_follies (a : Nat) (b : Byte) : (s.setByte a b).follies = s.follies := rfl
@[simp] theorem State.setByte_plls (a : Nat) (b : Byte) : (s.setByte a b).plls = s.plls := rfl
@[simp] theorem State.setByte_pwr (a : Nat) (b : Byte) : (s.setByte a b).pwr = s.pwr := rfl
@[simp] theorem State.setByte_wrd (a : Nat) (b : Byte) : (s.setByte a b).wrd = s.wrd := rfl
@[simp] theorem State.setByte_bist (a : Nat) (b : Byte) : (s.setByte a b).bist = s.bist := rfl
@[simp] theorem State.setByte_gbk (a : Nat) (b : Byte) : (s.setByte a b).gbk = s.gbk := rfl
@[simp] theorem State.setByte_enc (a : Nat) (b : Byte) : (s.setByte a b).enc = s.enc := rfl
@[simp] theorem State.setByte_sdl (a : Nat) (b : Byte) : (s.setByte a b).sdl = s.sdl := rfl
@[simp] theorem State.setByte_hsc (a : Nat) (b : Byte) : (s.setByte a b).hsc = s.hsc := rfl
@[simp] theorem State.setByte_trg (a : Nat) (b : Byte) : (s.setByte a b).trg = s.trg := rfl
@[simp] theorem State.setByte_ref (a : Nat) (b : Byte) : (s.setByte a b).ref = s.ref := rfl
@[simp] theorem State.setByte_stm (a : Nat) (b : Byte) : (s.setByte a b).stm = s.stm := rfl
@[simp] theorem State.setByte_ing (a : Nat) (b : Byte) : (s.setByte a b).ing = s.ing := rfl
@[simp] theorem State.setByte_trl (a : Nat) (b : Byte) : (s.setByte a b).trl = s.trl := rfl
@[simp] theorem State.setByte_fir (a : Nat) (b : Byte) : (s.setByte a b).fir = s.fir := rfl
@[simp] theorem State.setByte_railAt (a : Nat) (b : Byte) : (s.setByte a b).railAt = s.railAt := rfl
@[simp] theorem State.setByte_onk (a : Nat) (b : Byte) : (s.setByte a b).onk = s.onk := rfl
@[simp] theorem State.setByte_tx (a : Nat) (b : Byte) : (s.setByte a b).tx = s.tx := rfl
@[simp] theorem State.setByte_alerts (a : Nat) (b : Byte) : (s.setByte a b).alerts = s.alerts := rfl
@[simp] theorem State.setByte_cam (a : Nat) (b : Byte) : (s.setByte a b).cam = s.cam := rfl
@[simp] theorem State.setByte_blv (a : Nat) (b : Byte) : (s.setByte a b).blv = s.blv := rfl
@[simp] theorem State.setByte_qlp (a : Nat) (b : Byte) : (s.setByte a b).qlp = s.qlp := rfl
@[simp] theorem State.setByte_poison (a : Nat) (b : Byte) : (s.setByte a b).poison = s.poison := rfl
@[simp] theorem State.setByte_drc (a : Nat) (b : Byte) : (s.setByte a b).drc = s.drc := rfl
@[simp] theorem State.setByte_net (a : Nat) (b : Byte) : (s.setByte a b).net = s.net := rfl
@[simp] theorem State.setByte_tb (a : Nat) (b : Byte) : (s.setByte a b).tb = s.tb := rfl
@[simp] theorem State.setByte_pcie (a : Nat) (b : Byte) : (s.setByte a b).pcie = s.pcie := rfl
@[simp] theorem State.setByte_axes (a : Nat) (b : Byte) : (s.setByte a b).axes = s.axes := rfl
@[simp] theorem State.setByte_fnt (a : Nat) (b : Byte) : (s.setByte a b).fnt = s.fnt := rfl
@[simp] theorem State.setByte_mon (a : Nat) (b : Byte) : (s.setByte a b).mon = s.mon := rfl
@[simp] theorem State.setByte_mechXtal (a : Nat) (b : Byte) : (s.setByte a b).mechXtal = s.mechXtal := rfl
@[simp] theorem State.setByte_gth (a : Nat) (b : Byte) : (s.setByte a b).gth = s.gth := rfl
@[simp] theorem State.setByte_fsh (a : Nat) (b : Byte) : (s.setByte a b).fsh = s.fsh := rfl
@[simp] theorem State.setByte_flash (a : Nat) (b : Byte) : (s.setByte a b).flash = s.flash := rfl
@[simp] theorem State.setByte_svnFloor (a : Nat) (b : Byte) : (s.setByte a b).svnFloor = s.svnFloor := rfl
@[simp] theorem State.setByte_emitted (a : Nat) (b : Byte) : (s.setByte a b).emitted = s.emitted := rfl
@[simp] theorem State.setByte_free (a : Nat) (b : Byte) : (s.setByte a b).free = s.free := rfl
@[simp] theorem State.setByte_pending (a : Nat) (b : Byte) : (s.setByte a b).pending = s.pending := rfl

@[simp] theorem State.setFbyte_part (a : Nat) (b : Byte) : (s.setFbyte a b).part = s.part := rfl
@[simp] theorem State.setFbyte_now (a : Nat) (b : Byte) : (s.setFbyte a b).now = s.now := rfl
@[simp] theorem State.setFbyte_regs (a : Nat) (b : Byte) : (s.setFbyte a b).regs = s.regs := rfl
@[simp] theorem State.setFbyte_act (a : Nat) (b : Byte) : (s.setFbyte a b).act = s.act := rfl
@[simp] theorem State.setFbyte_aon (a : Nat) (b : Byte) : (s.setFbyte a b).aon = s.aon := rfl
@[simp] theorem State.setFbyte_host (a : Nat) (b : Byte) : (s.setFbyte a b).host = s.host := rfl
@[simp] theorem State.setFbyte_gkpSide (a : Nat) (b : Byte) : (s.setFbyte a b).gkpSide = s.gkpSide := rfl
@[simp] theorem State.setFbyte_commits (a : Nat) (b : Byte) : (s.setFbyte a b).commits = s.commits := rfl
@[simp] theorem State.setFbyte_follies (a : Nat) (b : Byte) : (s.setFbyte a b).follies = s.follies := rfl
@[simp] theorem State.setFbyte_plls (a : Nat) (b : Byte) : (s.setFbyte a b).plls = s.plls := rfl
@[simp] theorem State.setFbyte_pwr (a : Nat) (b : Byte) : (s.setFbyte a b).pwr = s.pwr := rfl
@[simp] theorem State.setFbyte_wrd (a : Nat) (b : Byte) : (s.setFbyte a b).wrd = s.wrd := rfl
@[simp] theorem State.setFbyte_bist (a : Nat) (b : Byte) : (s.setFbyte a b).bist = s.bist := rfl
@[simp] theorem State.setFbyte_gbk (a : Nat) (b : Byte) : (s.setFbyte a b).gbk = s.gbk := rfl
@[simp] theorem State.setFbyte_enc (a : Nat) (b : Byte) : (s.setFbyte a b).enc = s.enc := rfl
@[simp] theorem State.setFbyte_sdl (a : Nat) (b : Byte) : (s.setFbyte a b).sdl = s.sdl := rfl
@[simp] theorem State.setFbyte_hsc (a : Nat) (b : Byte) : (s.setFbyte a b).hsc = s.hsc := rfl
@[simp] theorem State.setFbyte_trg (a : Nat) (b : Byte) : (s.setFbyte a b).trg = s.trg := rfl
@[simp] theorem State.setFbyte_ref (a : Nat) (b : Byte) : (s.setFbyte a b).ref = s.ref := rfl
@[simp] theorem State.setFbyte_stm (a : Nat) (b : Byte) : (s.setFbyte a b).stm = s.stm := rfl
@[simp] theorem State.setFbyte_ing (a : Nat) (b : Byte) : (s.setFbyte a b).ing = s.ing := rfl
@[simp] theorem State.setFbyte_trl (a : Nat) (b : Byte) : (s.setFbyte a b).trl = s.trl := rfl
@[simp] theorem State.setFbyte_fir (a : Nat) (b : Byte) : (s.setFbyte a b).fir = s.fir := rfl
@[simp] theorem State.setFbyte_railAt (a : Nat) (b : Byte) : (s.setFbyte a b).railAt = s.railAt := rfl
@[simp] theorem State.setFbyte_onk (a : Nat) (b : Byte) : (s.setFbyte a b).onk = s.onk := rfl
@[simp] theorem State.setFbyte_tx (a : Nat) (b : Byte) : (s.setFbyte a b).tx = s.tx := rfl
@[simp] theorem State.setFbyte_alerts (a : Nat) (b : Byte) : (s.setFbyte a b).alerts = s.alerts := rfl
@[simp] theorem State.setFbyte_cam (a : Nat) (b : Byte) : (s.setFbyte a b).cam = s.cam := rfl
@[simp] theorem State.setFbyte_blv (a : Nat) (b : Byte) : (s.setFbyte a b).blv = s.blv := rfl
@[simp] theorem State.setFbyte_qlp (a : Nat) (b : Byte) : (s.setFbyte a b).qlp = s.qlp := rfl
@[simp] theorem State.setFbyte_mem (a : Nat) (b : Byte) : (s.setFbyte a b).mem = s.mem := rfl
@[simp] theorem State.setFbyte_poison (a : Nat) (b : Byte) : (s.setFbyte a b).poison = s.poison := rfl
@[simp] theorem State.setFbyte_drc (a : Nat) (b : Byte) : (s.setFbyte a b).drc = s.drc := rfl
@[simp] theorem State.setFbyte_net (a : Nat) (b : Byte) : (s.setFbyte a b).net = s.net := rfl
@[simp] theorem State.setFbyte_tb (a : Nat) (b : Byte) : (s.setFbyte a b).tb = s.tb := rfl
@[simp] theorem State.setFbyte_pcie (a : Nat) (b : Byte) : (s.setFbyte a b).pcie = s.pcie := rfl
@[simp] theorem State.setFbyte_axes (a : Nat) (b : Byte) : (s.setFbyte a b).axes = s.axes := rfl
@[simp] theorem State.setFbyte_fnt (a : Nat) (b : Byte) : (s.setFbyte a b).fnt = s.fnt := rfl
@[simp] theorem State.setFbyte_mon (a : Nat) (b : Byte) : (s.setFbyte a b).mon = s.mon := rfl
@[simp] theorem State.setFbyte_mechXtal (a : Nat) (b : Byte) : (s.setFbyte a b).mechXtal = s.mechXtal := rfl
@[simp] theorem State.setFbyte_gth (a : Nat) (b : Byte) : (s.setFbyte a b).gth = s.gth := rfl
@[simp] theorem State.setFbyte_fsh (a : Nat) (b : Byte) : (s.setFbyte a b).fsh = s.fsh := rfl
@[simp] theorem State.setFbyte_svnFloor (a : Nat) (b : Byte) : (s.setFbyte a b).svnFloor = s.svnFloor := rfl
@[simp] theorem State.setFbyte_emitted (a : Nat) (b : Byte) : (s.setFbyte a b).emitted = s.emitted := rfl
@[simp] theorem State.setFbyte_free (a : Nat) (b : Byte) : (s.setFbyte a b).free = s.free := rfl
@[simp] theorem State.setFbyte_pending (a : Nat) (b : Byte) : (s.setFbyte a b).pending = s.pending := rfl

@[simp] theorem State.setSide_part (r : Req) (x : ReqSide) :
    (s.setSide r x).part = s.part := by cases r <;> rfl
@[simp] theorem State.setSide_now (r : Req) (x : ReqSide) :
    (s.setSide r x).now = s.now := by cases r <;> rfl
@[simp] theorem State.setSide_regs (r : Req) (x : ReqSide) :
    (s.setSide r x).regs = s.regs := by cases r <;> rfl
@[simp] theorem State.setSide_act (r : Req) (x : ReqSide) :
    (s.setSide r x).act = s.act := by cases r <;> rfl
@[simp] theorem State.setSide_aon (r : Req) (x : ReqSide) :
    (s.setSide r x).aon = s.aon := by cases r <;> rfl
@[simp] theorem State.setSide_commits (r : Req) (x : ReqSide) :
    (s.setSide r x).commits = s.commits := by cases r <;> rfl
@[simp] theorem State.setSide_follies (r : Req) (x : ReqSide) :
    (s.setSide r x).follies = s.follies := by cases r <;> rfl
@[simp] theorem State.setSide_plls (r : Req) (x : ReqSide) :
    (s.setSide r x).plls = s.plls := by cases r <;> rfl
@[simp] theorem State.setSide_pwr (r : Req) (x : ReqSide) :
    (s.setSide r x).pwr = s.pwr := by cases r <;> rfl
@[simp] theorem State.setSide_wrd (r : Req) (x : ReqSide) :
    (s.setSide r x).wrd = s.wrd := by cases r <;> rfl
@[simp] theorem State.setSide_bist (r : Req) (x : ReqSide) :
    (s.setSide r x).bist = s.bist := by cases r <;> rfl
@[simp] theorem State.setSide_gbk (r : Req) (x : ReqSide) :
    (s.setSide r x).gbk = s.gbk := by cases r <;> rfl
@[simp] theorem State.setSide_enc (r : Req) (x : ReqSide) :
    (s.setSide r x).enc = s.enc := by cases r <;> rfl
@[simp] theorem State.setSide_sdl (r : Req) (x : ReqSide) :
    (s.setSide r x).sdl = s.sdl := by cases r <;> rfl
@[simp] theorem State.setSide_hsc (r : Req) (x : ReqSide) :
    (s.setSide r x).hsc = s.hsc := by cases r <;> rfl
@[simp] theorem State.setSide_trg (r : Req) (x : ReqSide) :
    (s.setSide r x).trg = s.trg := by cases r <;> rfl
@[simp] theorem State.setSide_ref (r : Req) (x : ReqSide) :
    (s.setSide r x).ref = s.ref := by cases r <;> rfl
@[simp] theorem State.setSide_stm (r : Req) (x : ReqSide) :
    (s.setSide r x).stm = s.stm := by cases r <;> rfl
@[simp] theorem State.setSide_ing (r : Req) (x : ReqSide) :
    (s.setSide r x).ing = s.ing := by cases r <;> rfl
@[simp] theorem State.setSide_trl (r : Req) (x : ReqSide) :
    (s.setSide r x).trl = s.trl := by cases r <;> rfl
@[simp] theorem State.setSide_fir (r : Req) (x : ReqSide) :
    (s.setSide r x).fir = s.fir := by cases r <;> rfl
@[simp] theorem State.setSide_railAt (r : Req) (x : ReqSide) :
    (s.setSide r x).railAt = s.railAt := by cases r <;> rfl
@[simp] theorem State.setSide_onk (r : Req) (x : ReqSide) :
    (s.setSide r x).onk = s.onk := by cases r <;> rfl
@[simp] theorem State.setSide_tx (r : Req) (x : ReqSide) : (s.setSide r x).tx = s.tx := by cases r <;> rfl
@[simp] theorem State.setSide_alerts (r : Req) (x : ReqSide) :
    (s.setSide r x).alerts = s.alerts := by cases r <;> rfl
@[simp] theorem State.setSide_cam (r : Req) (x : ReqSide) :
    (s.setSide r x).cam = s.cam := by cases r <;> rfl
@[simp] theorem State.setSide_blv (r : Req) (x : ReqSide) :
    (s.setSide r x).blv = s.blv := by cases r <;> rfl
@[simp] theorem State.setSide_qlp (r : Req) (x : ReqSide) :
    (s.setSide r x).qlp = s.qlp := by cases r <;> rfl
@[simp] theorem State.setSide_mem (r : Req) (x : ReqSide) :
    (s.setSide r x).mem = s.mem := by cases r <;> rfl
@[simp] theorem State.setSide_poison (r : Req) (x : ReqSide) :
    (s.setSide r x).poison = s.poison := by cases r <;> rfl
@[simp] theorem State.setSide_drc (r : Req) (x : ReqSide) :
    (s.setSide r x).drc = s.drc := by cases r <;> rfl
@[simp] theorem State.setSide_net (r : Req) (x : ReqSide) :
    (s.setSide r x).net = s.net := by cases r <;> rfl
@[simp] theorem State.setSide_tb (r : Req) (x : ReqSide) : (s.setSide r x).tb = s.tb := by cases r <;> rfl
@[simp] theorem State.setSide_pcie (r : Req) (x : ReqSide) :
    (s.setSide r x).pcie = s.pcie := by cases r <;> rfl
@[simp] theorem State.setSide_axes (r : Req) (x : ReqSide) :
    (s.setSide r x).axes = s.axes := by cases r <;> rfl
@[simp] theorem State.setSide_fnt (r : Req) (x : ReqSide) :
    (s.setSide r x).fnt = s.fnt := by cases r <;> rfl
@[simp] theorem State.setSide_mon (r : Req) (x : ReqSide) :
    (s.setSide r x).mon = s.mon := by cases r <;> rfl
@[simp] theorem State.setSide_mechXtal (r : Req) (x : ReqSide) :
    (s.setSide r x).mechXtal = s.mechXtal := by cases r <;> rfl
@[simp] theorem State.setSide_gth (r : Req) (x : ReqSide) :
    (s.setSide r x).gth = s.gth := by cases r <;> rfl
@[simp] theorem State.setSide_fsh (r : Req) (x : ReqSide) :
    (s.setSide r x).fsh = s.fsh := by cases r <;> rfl
@[simp] theorem State.setSide_flash (r : Req) (x : ReqSide) :
    (s.setSide r x).flash = s.flash := by cases r <;> rfl
@[simp] theorem State.setSide_svnFloor (r : Req) (x : ReqSide) :
    (s.setSide r x).svnFloor = s.svnFloor := by cases r <;> rfl
@[simp] theorem State.setSide_emitted (r : Req) (x : ReqSide) :
    (s.setSide r x).emitted = s.emitted := by cases r <;> rfl
@[simp] theorem State.setSide_free (r : Req) (x : ReqSide) :
    (s.setSide r x).free = s.free := by cases r <;> rfl
@[simp] theorem State.setSide_pending (r : Req) (x : ReqSide) :
    (s.setSide r x).pending = s.pending := by cases r <;> rfl

@[simp] theorem State.setResult_part (r : Req) (p c st n : Nat) :
    (s.setResult r p c st n).part = s.part := by unfold State.setResult; exact s.setSide_part _ _
@[simp] theorem State.setResult_now (r : Req) (p c st n : Nat) :
    (s.setResult r p c st n).now = s.now := by unfold State.setResult; exact s.setSide_now _ _
@[simp] theorem State.setResult_regs (r : Req) (p c st n : Nat) :
    (s.setResult r p c st n).regs = s.regs := by unfold State.setResult; exact s.setSide_regs _ _
@[simp] theorem State.setResult_act (r : Req) (p c st n : Nat) :
    (s.setResult r p c st n).act = s.act := by unfold State.setResult; exact s.setSide_act _ _
@[simp] theorem State.setResult_aon (r : Req) (p c st n : Nat) :
    (s.setResult r p c st n).aon = s.aon := by unfold State.setResult; exact s.setSide_aon _ _
@[simp] theorem State.setResult_commits (r : Req) (p c st n : Nat) :
    (s.setResult r p c st n).commits = s.commits := by unfold State.setResult; exact s.setSide_commits _ _
@[simp] theorem State.setResult_follies (r : Req) (p c st n : Nat) :
    (s.setResult r p c st n).follies = s.follies := by unfold State.setResult; exact s.setSide_follies _ _
@[simp] theorem State.setResult_plls (r : Req) (p c st n : Nat) :
    (s.setResult r p c st n).plls = s.plls := by unfold State.setResult; exact s.setSide_plls _ _
@[simp] theorem State.setResult_pwr (r : Req) (p c st n : Nat) :
    (s.setResult r p c st n).pwr = s.pwr := by unfold State.setResult; exact s.setSide_pwr _ _
@[simp] theorem State.setResult_wrd (r : Req) (p c st n : Nat) :
    (s.setResult r p c st n).wrd = s.wrd := by unfold State.setResult; exact s.setSide_wrd _ _
@[simp] theorem State.setResult_bist (r : Req) (p c st n : Nat) :
    (s.setResult r p c st n).bist = s.bist := by unfold State.setResult; exact s.setSide_bist _ _
@[simp] theorem State.setResult_gbk (r : Req) (p c st n : Nat) :
    (s.setResult r p c st n).gbk = s.gbk := by unfold State.setResult; exact s.setSide_gbk _ _
@[simp] theorem State.setResult_enc (r : Req) (p c st n : Nat) :
    (s.setResult r p c st n).enc = s.enc := by unfold State.setResult; exact s.setSide_enc _ _
@[simp] theorem State.setResult_sdl (r : Req) (p c st n : Nat) :
    (s.setResult r p c st n).sdl = s.sdl := by unfold State.setResult; exact s.setSide_sdl _ _
@[simp] theorem State.setResult_hsc (r : Req) (p c st n : Nat) :
    (s.setResult r p c st n).hsc = s.hsc := by unfold State.setResult; exact s.setSide_hsc _ _
@[simp] theorem State.setResult_trg (r : Req) (p c st n : Nat) :
    (s.setResult r p c st n).trg = s.trg := by unfold State.setResult; exact s.setSide_trg _ _
@[simp] theorem State.setResult_ref (r : Req) (p c st n : Nat) :
    (s.setResult r p c st n).ref = s.ref := by unfold State.setResult; exact s.setSide_ref _ _
@[simp] theorem State.setResult_stm (r : Req) (p c st n : Nat) :
    (s.setResult r p c st n).stm = s.stm := by unfold State.setResult; exact s.setSide_stm _ _
@[simp] theorem State.setResult_ing (r : Req) (p c st n : Nat) :
    (s.setResult r p c st n).ing = s.ing := by unfold State.setResult; exact s.setSide_ing _ _
@[simp] theorem State.setResult_trl (r : Req) (p c st n : Nat) :
    (s.setResult r p c st n).trl = s.trl := by unfold State.setResult; exact s.setSide_trl _ _
@[simp] theorem State.setResult_fir (r : Req) (p c st n : Nat) :
    (s.setResult r p c st n).fir = s.fir := by unfold State.setResult; exact s.setSide_fir _ _
@[simp] theorem State.setResult_railAt (r : Req) (p c st n : Nat) :
    (s.setResult r p c st n).railAt = s.railAt := by unfold State.setResult; exact s.setSide_railAt _ _
@[simp] theorem State.setResult_onk (r : Req) (p c st n : Nat) :
    (s.setResult r p c st n).onk = s.onk := by unfold State.setResult; exact s.setSide_onk _ _
@[simp] theorem State.setResult_tx (r : Req) (p c st n : Nat) :
    (s.setResult r p c st n).tx = s.tx := by unfold State.setResult; exact s.setSide_tx _ _
@[simp] theorem State.setResult_alerts (r : Req) (p c st n : Nat) :
    (s.setResult r p c st n).alerts = s.alerts := by unfold State.setResult; exact s.setSide_alerts _ _
@[simp] theorem State.setResult_cam (r : Req) (p c st n : Nat) :
    (s.setResult r p c st n).cam = s.cam := by unfold State.setResult; exact s.setSide_cam _ _
@[simp] theorem State.setResult_blv (r : Req) (p c st n : Nat) :
    (s.setResult r p c st n).blv = s.blv := by unfold State.setResult; exact s.setSide_blv _ _
@[simp] theorem State.setResult_qlp (r : Req) (p c st n : Nat) :
    (s.setResult r p c st n).qlp = s.qlp := by unfold State.setResult; exact s.setSide_qlp _ _
@[simp] theorem State.setResult_mem (r : Req) (p c st n : Nat) :
    (s.setResult r p c st n).mem = s.mem := by unfold State.setResult; exact s.setSide_mem _ _
@[simp] theorem State.setResult_poison (r : Req) (p c st n : Nat) :
    (s.setResult r p c st n).poison = s.poison := by unfold State.setResult; exact s.setSide_poison _ _
@[simp] theorem State.setResult_drc (r : Req) (p c st n : Nat) :
    (s.setResult r p c st n).drc = s.drc := by unfold State.setResult; exact s.setSide_drc _ _
@[simp] theorem State.setResult_net (r : Req) (p c st n : Nat) :
    (s.setResult r p c st n).net = s.net := by unfold State.setResult; exact s.setSide_net _ _
@[simp] theorem State.setResult_tb (r : Req) (p c st n : Nat) :
    (s.setResult r p c st n).tb = s.tb := by unfold State.setResult; exact s.setSide_tb _ _
@[simp] theorem State.setResult_pcie (r : Req) (p c st n : Nat) :
    (s.setResult r p c st n).pcie = s.pcie := by unfold State.setResult; exact s.setSide_pcie _ _
@[simp] theorem State.setResult_axes (r : Req) (p c st n : Nat) :
    (s.setResult r p c st n).axes = s.axes := by unfold State.setResult; exact s.setSide_axes _ _
@[simp] theorem State.setResult_fnt (r : Req) (p c st n : Nat) :
    (s.setResult r p c st n).fnt = s.fnt := by unfold State.setResult; exact s.setSide_fnt _ _
@[simp] theorem State.setResult_mon (r : Req) (p c st n : Nat) :
    (s.setResult r p c st n).mon = s.mon := by unfold State.setResult; exact s.setSide_mon _ _
@[simp] theorem State.setResult_mechXtal (r : Req) (p c st n : Nat) :
    (s.setResult r p c st n).mechXtal = s.mechXtal := by unfold State.setResult; exact s.setSide_mechXtal _ _
@[simp] theorem State.setResult_gth (r : Req) (p c st n : Nat) :
    (s.setResult r p c st n).gth = s.gth := by unfold State.setResult; exact s.setSide_gth _ _
@[simp] theorem State.setResult_fsh (r : Req) (p c st n : Nat) :
    (s.setResult r p c st n).fsh = s.fsh := by unfold State.setResult; exact s.setSide_fsh _ _
@[simp] theorem State.setResult_flash (r : Req) (p c st n : Nat) :
    (s.setResult r p c st n).flash = s.flash := by unfold State.setResult; exact s.setSide_flash _ _
@[simp] theorem State.setResult_svnFloor (r : Req) (p c st n : Nat) :
    (s.setResult r p c st n).svnFloor = s.svnFloor := by unfold State.setResult; exact s.setSide_svnFloor _ _
@[simp] theorem State.setResult_emitted (r : Req) (p c st n : Nat) :
    (s.setResult r p c st n).emitted = s.emitted := by unfold State.setResult; exact s.setSide_emitted _ _
@[simp] theorem State.setResult_free (r : Req) (p c st n : Nat) :
    (s.setResult r p c st n).free = s.free := by unfold State.setResult; exact s.setSide_free _ _
@[simp] theorem State.setResult_pending (r : Req) (p c st n : Nat) :
    (s.setResult r p c st n).pending = s.pending := by unfold State.setResult; exact s.setSide_pending _ _

@[simp] theorem State.setSlot_part (r : Req) (p : Nat) (x : List (Nat × Word)) :
    (s.setSlot r p x).part = s.part := by unfold State.setSlot; exact s.setSide_part _ _
@[simp] theorem State.setSlot_now (r : Req) (p : Nat) (x : List (Nat × Word)) :
    (s.setSlot r p x).now = s.now := by unfold State.setSlot; exact s.setSide_now _ _
@[simp] theorem State.setSlot_regs (r : Req) (p : Nat) (x : List (Nat × Word)) :
    (s.setSlot r p x).regs = s.regs := by unfold State.setSlot; exact s.setSide_regs _ _
@[simp] theorem State.setSlot_act (r : Req) (p : Nat) (x : List (Nat × Word)) :
    (s.setSlot r p x).act = s.act := by unfold State.setSlot; exact s.setSide_act _ _
@[simp] theorem State.setSlot_aon (r : Req) (p : Nat) (x : List (Nat × Word)) :
    (s.setSlot r p x).aon = s.aon := by unfold State.setSlot; exact s.setSide_aon _ _
@[simp] theorem State.setSlot_commits (r : Req) (p : Nat) (x : List (Nat × Word)) :
    (s.setSlot r p x).commits = s.commits := by unfold State.setSlot; exact s.setSide_commits _ _
@[simp] theorem State.setSlot_follies (r : Req) (p : Nat) (x : List (Nat × Word)) :
    (s.setSlot r p x).follies = s.follies := by unfold State.setSlot; exact s.setSide_follies _ _
@[simp] theorem State.setSlot_plls (r : Req) (p : Nat) (x : List (Nat × Word)) :
    (s.setSlot r p x).plls = s.plls := by unfold State.setSlot; exact s.setSide_plls _ _
@[simp] theorem State.setSlot_pwr (r : Req) (p : Nat) (x : List (Nat × Word)) :
    (s.setSlot r p x).pwr = s.pwr := by unfold State.setSlot; exact s.setSide_pwr _ _
@[simp] theorem State.setSlot_wrd (r : Req) (p : Nat) (x : List (Nat × Word)) :
    (s.setSlot r p x).wrd = s.wrd := by unfold State.setSlot; exact s.setSide_wrd _ _
@[simp] theorem State.setSlot_bist (r : Req) (p : Nat) (x : List (Nat × Word)) :
    (s.setSlot r p x).bist = s.bist := by unfold State.setSlot; exact s.setSide_bist _ _
@[simp] theorem State.setSlot_gbk (r : Req) (p : Nat) (x : List (Nat × Word)) :
    (s.setSlot r p x).gbk = s.gbk := by unfold State.setSlot; exact s.setSide_gbk _ _
@[simp] theorem State.setSlot_enc (r : Req) (p : Nat) (x : List (Nat × Word)) :
    (s.setSlot r p x).enc = s.enc := by unfold State.setSlot; exact s.setSide_enc _ _
@[simp] theorem State.setSlot_sdl (r : Req) (p : Nat) (x : List (Nat × Word)) :
    (s.setSlot r p x).sdl = s.sdl := by unfold State.setSlot; exact s.setSide_sdl _ _
@[simp] theorem State.setSlot_hsc (r : Req) (p : Nat) (x : List (Nat × Word)) :
    (s.setSlot r p x).hsc = s.hsc := by unfold State.setSlot; exact s.setSide_hsc _ _
@[simp] theorem State.setSlot_trg (r : Req) (p : Nat) (x : List (Nat × Word)) :
    (s.setSlot r p x).trg = s.trg := by unfold State.setSlot; exact s.setSide_trg _ _
@[simp] theorem State.setSlot_ref (r : Req) (p : Nat) (x : List (Nat × Word)) :
    (s.setSlot r p x).ref = s.ref := by unfold State.setSlot; exact s.setSide_ref _ _
@[simp] theorem State.setSlot_stm (r : Req) (p : Nat) (x : List (Nat × Word)) :
    (s.setSlot r p x).stm = s.stm := by unfold State.setSlot; exact s.setSide_stm _ _
@[simp] theorem State.setSlot_ing (r : Req) (p : Nat) (x : List (Nat × Word)) :
    (s.setSlot r p x).ing = s.ing := by unfold State.setSlot; exact s.setSide_ing _ _
@[simp] theorem State.setSlot_trl (r : Req) (p : Nat) (x : List (Nat × Word)) :
    (s.setSlot r p x).trl = s.trl := by unfold State.setSlot; exact s.setSide_trl _ _
@[simp] theorem State.setSlot_fir (r : Req) (p : Nat) (x : List (Nat × Word)) :
    (s.setSlot r p x).fir = s.fir := by unfold State.setSlot; exact s.setSide_fir _ _
@[simp] theorem State.setSlot_railAt (r : Req) (p : Nat) (x : List (Nat × Word)) :
    (s.setSlot r p x).railAt = s.railAt := by unfold State.setSlot; exact s.setSide_railAt _ _
@[simp] theorem State.setSlot_onk (r : Req) (p : Nat) (x : List (Nat × Word)) :
    (s.setSlot r p x).onk = s.onk := by unfold State.setSlot; exact s.setSide_onk _ _
@[simp] theorem State.setSlot_tx (r : Req) (p : Nat) (x : List (Nat × Word)) :
    (s.setSlot r p x).tx = s.tx := by unfold State.setSlot; exact s.setSide_tx _ _
@[simp] theorem State.setSlot_alerts (r : Req) (p : Nat) (x : List (Nat × Word)) :
    (s.setSlot r p x).alerts = s.alerts := by unfold State.setSlot; exact s.setSide_alerts _ _
@[simp] theorem State.setSlot_cam (r : Req) (p : Nat) (x : List (Nat × Word)) :
    (s.setSlot r p x).cam = s.cam := by unfold State.setSlot; exact s.setSide_cam _ _
@[simp] theorem State.setSlot_blv (r : Req) (p : Nat) (x : List (Nat × Word)) :
    (s.setSlot r p x).blv = s.blv := by unfold State.setSlot; exact s.setSide_blv _ _
@[simp] theorem State.setSlot_qlp (r : Req) (p : Nat) (x : List (Nat × Word)) :
    (s.setSlot r p x).qlp = s.qlp := by unfold State.setSlot; exact s.setSide_qlp _ _
@[simp] theorem State.setSlot_mem (r : Req) (p : Nat) (x : List (Nat × Word)) :
    (s.setSlot r p x).mem = s.mem := by unfold State.setSlot; exact s.setSide_mem _ _
@[simp] theorem State.setSlot_poison (r : Req) (p : Nat) (x : List (Nat × Word)) :
    (s.setSlot r p x).poison = s.poison := by unfold State.setSlot; exact s.setSide_poison _ _
@[simp] theorem State.setSlot_drc (r : Req) (p : Nat) (x : List (Nat × Word)) :
    (s.setSlot r p x).drc = s.drc := by unfold State.setSlot; exact s.setSide_drc _ _
@[simp] theorem State.setSlot_net (r : Req) (p : Nat) (x : List (Nat × Word)) :
    (s.setSlot r p x).net = s.net := by unfold State.setSlot; exact s.setSide_net _ _
@[simp] theorem State.setSlot_tb (r : Req) (p : Nat) (x : List (Nat × Word)) :
    (s.setSlot r p x).tb = s.tb := by unfold State.setSlot; exact s.setSide_tb _ _
@[simp] theorem State.setSlot_pcie (r : Req) (p : Nat) (x : List (Nat × Word)) :
    (s.setSlot r p x).pcie = s.pcie := by unfold State.setSlot; exact s.setSide_pcie _ _
@[simp] theorem State.setSlot_axes (r : Req) (p : Nat) (x : List (Nat × Word)) :
    (s.setSlot r p x).axes = s.axes := by unfold State.setSlot; exact s.setSide_axes _ _
@[simp] theorem State.setSlot_fnt (r : Req) (p : Nat) (x : List (Nat × Word)) :
    (s.setSlot r p x).fnt = s.fnt := by unfold State.setSlot; exact s.setSide_fnt _ _
@[simp] theorem State.setSlot_mon (r : Req) (p : Nat) (x : List (Nat × Word)) :
    (s.setSlot r p x).mon = s.mon := by unfold State.setSlot; exact s.setSide_mon _ _
@[simp] theorem State.setSlot_mechXtal (r : Req) (p : Nat) (x : List (Nat × Word)) :
    (s.setSlot r p x).mechXtal = s.mechXtal := by unfold State.setSlot; exact s.setSide_mechXtal _ _
@[simp] theorem State.setSlot_gth (r : Req) (p : Nat) (x : List (Nat × Word)) :
    (s.setSlot r p x).gth = s.gth := by unfold State.setSlot; exact s.setSide_gth _ _
@[simp] theorem State.setSlot_fsh (r : Req) (p : Nat) (x : List (Nat × Word)) :
    (s.setSlot r p x).fsh = s.fsh := by unfold State.setSlot; exact s.setSide_fsh _ _
@[simp] theorem State.setSlot_flash (r : Req) (p : Nat) (x : List (Nat × Word)) :
    (s.setSlot r p x).flash = s.flash := by unfold State.setSlot; exact s.setSide_flash _ _
@[simp] theorem State.setSlot_svnFloor (r : Req) (p : Nat) (x : List (Nat × Word)) :
    (s.setSlot r p x).svnFloor = s.svnFloor := by unfold State.setSlot; exact s.setSide_svnFloor _ _
@[simp] theorem State.setSlot_emitted (r : Req) (p : Nat) (x : List (Nat × Word)) :
    (s.setSlot r p x).emitted = s.emitted := by unfold State.setSlot; exact s.setSide_emitted _ _
@[simp] theorem State.setSlot_free (r : Req) (p : Nat) (x : List (Nat × Word)) :
    (s.setSlot r p x).free = s.free := by unfold State.setSlot; exact s.setSide_free _ _
@[simp] theorem State.setSlot_pending (r : Req) (p : Nat) (x : List (Nat × Word)) :
    (s.setSlot r p x).pending = s.pending := by unfold State.setSlot; exact s.setSide_pending _ _

@[simp] theorem State.setStale_part (r : Req) (p : Nat) (b : Bool) :
    (s.setStale r p b).part = s.part := by unfold State.setStale; exact s.setSide_part _ _
@[simp] theorem State.setStale_now (r : Req) (p : Nat) (b : Bool) :
    (s.setStale r p b).now = s.now := by unfold State.setStale; exact s.setSide_now _ _
@[simp] theorem State.setStale_regs (r : Req) (p : Nat) (b : Bool) :
    (s.setStale r p b).regs = s.regs := by unfold State.setStale; exact s.setSide_regs _ _
@[simp] theorem State.setStale_act (r : Req) (p : Nat) (b : Bool) :
    (s.setStale r p b).act = s.act := by unfold State.setStale; exact s.setSide_act _ _
@[simp] theorem State.setStale_aon (r : Req) (p : Nat) (b : Bool) :
    (s.setStale r p b).aon = s.aon := by unfold State.setStale; exact s.setSide_aon _ _
@[simp] theorem State.setStale_commits (r : Req) (p : Nat) (b : Bool) :
    (s.setStale r p b).commits = s.commits := by unfold State.setStale; exact s.setSide_commits _ _
@[simp] theorem State.setStale_follies (r : Req) (p : Nat) (b : Bool) :
    (s.setStale r p b).follies = s.follies := by unfold State.setStale; exact s.setSide_follies _ _
@[simp] theorem State.setStale_plls (r : Req) (p : Nat) (b : Bool) :
    (s.setStale r p b).plls = s.plls := by unfold State.setStale; exact s.setSide_plls _ _
@[simp] theorem State.setStale_pwr (r : Req) (p : Nat) (b : Bool) :
    (s.setStale r p b).pwr = s.pwr := by unfold State.setStale; exact s.setSide_pwr _ _
@[simp] theorem State.setStale_wrd (r : Req) (p : Nat) (b : Bool) :
    (s.setStale r p b).wrd = s.wrd := by unfold State.setStale; exact s.setSide_wrd _ _
@[simp] theorem State.setStale_bist (r : Req) (p : Nat) (b : Bool) :
    (s.setStale r p b).bist = s.bist := by unfold State.setStale; exact s.setSide_bist _ _
@[simp] theorem State.setStale_gbk (r : Req) (p : Nat) (b : Bool) :
    (s.setStale r p b).gbk = s.gbk := by unfold State.setStale; exact s.setSide_gbk _ _
@[simp] theorem State.setStale_enc (r : Req) (p : Nat) (b : Bool) :
    (s.setStale r p b).enc = s.enc := by unfold State.setStale; exact s.setSide_enc _ _
@[simp] theorem State.setStale_sdl (r : Req) (p : Nat) (b : Bool) :
    (s.setStale r p b).sdl = s.sdl := by unfold State.setStale; exact s.setSide_sdl _ _
@[simp] theorem State.setStale_hsc (r : Req) (p : Nat) (b : Bool) :
    (s.setStale r p b).hsc = s.hsc := by unfold State.setStale; exact s.setSide_hsc _ _
@[simp] theorem State.setStale_trg (r : Req) (p : Nat) (b : Bool) :
    (s.setStale r p b).trg = s.trg := by unfold State.setStale; exact s.setSide_trg _ _
@[simp] theorem State.setStale_ref (r : Req) (p : Nat) (b : Bool) :
    (s.setStale r p b).ref = s.ref := by unfold State.setStale; exact s.setSide_ref _ _
@[simp] theorem State.setStale_stm (r : Req) (p : Nat) (b : Bool) :
    (s.setStale r p b).stm = s.stm := by unfold State.setStale; exact s.setSide_stm _ _
@[simp] theorem State.setStale_ing (r : Req) (p : Nat) (b : Bool) :
    (s.setStale r p b).ing = s.ing := by unfold State.setStale; exact s.setSide_ing _ _
@[simp] theorem State.setStale_trl (r : Req) (p : Nat) (b : Bool) :
    (s.setStale r p b).trl = s.trl := by unfold State.setStale; exact s.setSide_trl _ _
@[simp] theorem State.setStale_fir (r : Req) (p : Nat) (b : Bool) :
    (s.setStale r p b).fir = s.fir := by unfold State.setStale; exact s.setSide_fir _ _
@[simp] theorem State.setStale_railAt (r : Req) (p : Nat) (b : Bool) :
    (s.setStale r p b).railAt = s.railAt := by unfold State.setStale; exact s.setSide_railAt _ _
@[simp] theorem State.setStale_onk (r : Req) (p : Nat) (b : Bool) :
    (s.setStale r p b).onk = s.onk := by unfold State.setStale; exact s.setSide_onk _ _
@[simp] theorem State.setStale_tx (r : Req) (p : Nat) (b : Bool) :
    (s.setStale r p b).tx = s.tx := by unfold State.setStale; exact s.setSide_tx _ _
@[simp] theorem State.setStale_alerts (r : Req) (p : Nat) (b : Bool) :
    (s.setStale r p b).alerts = s.alerts := by unfold State.setStale; exact s.setSide_alerts _ _
@[simp] theorem State.setStale_cam (r : Req) (p : Nat) (b : Bool) :
    (s.setStale r p b).cam = s.cam := by unfold State.setStale; exact s.setSide_cam _ _
@[simp] theorem State.setStale_blv (r : Req) (p : Nat) (b : Bool) :
    (s.setStale r p b).blv = s.blv := by unfold State.setStale; exact s.setSide_blv _ _
@[simp] theorem State.setStale_qlp (r : Req) (p : Nat) (b : Bool) :
    (s.setStale r p b).qlp = s.qlp := by unfold State.setStale; exact s.setSide_qlp _ _
@[simp] theorem State.setStale_mem (r : Req) (p : Nat) (b : Bool) :
    (s.setStale r p b).mem = s.mem := by unfold State.setStale; exact s.setSide_mem _ _
@[simp] theorem State.setStale_poison (r : Req) (p : Nat) (b : Bool) :
    (s.setStale r p b).poison = s.poison := by unfold State.setStale; exact s.setSide_poison _ _
@[simp] theorem State.setStale_drc (r : Req) (p : Nat) (b : Bool) :
    (s.setStale r p b).drc = s.drc := by unfold State.setStale; exact s.setSide_drc _ _
@[simp] theorem State.setStale_net (r : Req) (p : Nat) (b : Bool) :
    (s.setStale r p b).net = s.net := by unfold State.setStale; exact s.setSide_net _ _
@[simp] theorem State.setStale_tb (r : Req) (p : Nat) (b : Bool) :
    (s.setStale r p b).tb = s.tb := by unfold State.setStale; exact s.setSide_tb _ _
@[simp] theorem State.setStale_pcie (r : Req) (p : Nat) (b : Bool) :
    (s.setStale r p b).pcie = s.pcie := by unfold State.setStale; exact s.setSide_pcie _ _
@[simp] theorem State.setStale_axes (r : Req) (p : Nat) (b : Bool) :
    (s.setStale r p b).axes = s.axes := by unfold State.setStale; exact s.setSide_axes _ _
@[simp] theorem State.setStale_fnt (r : Req) (p : Nat) (b : Bool) :
    (s.setStale r p b).fnt = s.fnt := by unfold State.setStale; exact s.setSide_fnt _ _
@[simp] theorem State.setStale_mon (r : Req) (p : Nat) (b : Bool) :
    (s.setStale r p b).mon = s.mon := by unfold State.setStale; exact s.setSide_mon _ _
@[simp] theorem State.setStale_mechXtal (r : Req) (p : Nat) (b : Bool) :
    (s.setStale r p b).mechXtal = s.mechXtal := by unfold State.setStale; exact s.setSide_mechXtal _ _
@[simp] theorem State.setStale_gth (r : Req) (p : Nat) (b : Bool) :
    (s.setStale r p b).gth = s.gth := by unfold State.setStale; exact s.setSide_gth _ _
@[simp] theorem State.setStale_fsh (r : Req) (p : Nat) (b : Bool) :
    (s.setStale r p b).fsh = s.fsh := by unfold State.setStale; exact s.setSide_fsh _ _
@[simp] theorem State.setStale_flash (r : Req) (p : Nat) (b : Bool) :
    (s.setStale r p b).flash = s.flash := by unfold State.setStale; exact s.setSide_flash _ _
@[simp] theorem State.setStale_svnFloor (r : Req) (p : Nat) (b : Bool) :
    (s.setStale r p b).svnFloor = s.svnFloor := by unfold State.setStale; exact s.setSide_svnFloor _ _
@[simp] theorem State.setStale_emitted (r : Req) (p : Nat) (b : Bool) :
    (s.setStale r p b).emitted = s.emitted := by unfold State.setStale; exact s.setSide_emitted _ _
@[simp] theorem State.setStale_free (r : Req) (p : Nat) (b : Bool) :
    (s.setStale r p b).free = s.free := by unfold State.setStale; exact s.setSide_free _ _
@[simp] theorem State.setStale_pending (r : Req) (p : Nat) (b : Bool) :
    (s.setStale r p b).pending = s.pending := by unfold State.setStale; exact s.setSide_pending _ _

@[simp] theorem State.active_part (r : Req) :
    (s.active r).part = s.part := by unfold State.active; split <;> rfl
@[simp] theorem State.active_now (r : Req) :
    (s.active r).now = s.now := by unfold State.active; split <;> rfl
@[simp] theorem State.active_regs (r : Req) :
    (s.active r).regs = s.regs := by unfold State.active; split <;> rfl
@[simp] theorem State.active_act (r : Req) :
    (s.active r).act = s.act := by unfold State.active; split <;> rfl
@[simp] theorem State.active_aon (r : Req) :
    (s.active r).aon = s.aon := by unfold State.active; split <;> rfl
@[simp] theorem State.active_host (r : Req) :
    (s.active r).host = s.host := by unfold State.active; split <;> rfl
@[simp] theorem State.active_gkpSide (r : Req) :
    (s.active r).gkpSide = s.gkpSide := by unfold State.active; split <;> rfl
@[simp] theorem State.active_commits (r : Req) :
    (s.active r).commits = s.commits := by unfold State.active; split <;> rfl
@[simp] theorem State.active_follies (r : Req) :
    (s.active r).follies = s.follies := by unfold State.active; split <;> rfl
@[simp] theorem State.active_plls (r : Req) :
    (s.active r).plls = s.plls := by unfold State.active; split <;> rfl
@[simp] theorem State.active_wrd (r : Req) :
    (s.active r).wrd = s.wrd := by unfold State.active; split <;> rfl
@[simp] theorem State.active_bist (r : Req) :
    (s.active r).bist = s.bist := by unfold State.active; split <;> rfl
@[simp] theorem State.active_gbk (r : Req) :
    (s.active r).gbk = s.gbk := by unfold State.active; split <;> rfl
@[simp] theorem State.active_enc (r : Req) :
    (s.active r).enc = s.enc := by unfold State.active; split <;> rfl
@[simp] theorem State.active_sdl (r : Req) :
    (s.active r).sdl = s.sdl := by unfold State.active; split <;> rfl
@[simp] theorem State.active_hsc (r : Req) :
    (s.active r).hsc = s.hsc := by unfold State.active; split <;> rfl
@[simp] theorem State.active_trg (r : Req) :
    (s.active r).trg = s.trg := by unfold State.active; split <;> rfl
@[simp] theorem State.active_ref (r : Req) :
    (s.active r).ref = s.ref := by unfold State.active; split <;> rfl
@[simp] theorem State.active_stm (r : Req) :
    (s.active r).stm = s.stm := by unfold State.active; split <;> rfl
@[simp] theorem State.active_ing (r : Req) :
    (s.active r).ing = s.ing := by unfold State.active; split <;> rfl
@[simp] theorem State.active_trl (r : Req) :
    (s.active r).trl = s.trl := by unfold State.active; split <;> rfl
@[simp] theorem State.active_fir (r : Req) :
    (s.active r).fir = s.fir := by unfold State.active; split <;> rfl
@[simp] theorem State.active_railAt (r : Req) :
    (s.active r).railAt = s.railAt := by unfold State.active; split <;> rfl
@[simp] theorem State.active_onk (r : Req) :
    (s.active r).onk = s.onk := by unfold State.active; split <;> rfl
@[simp] theorem State.active_tx (r : Req) : (s.active r).tx = s.tx := by unfold State.active; split <;> rfl
@[simp] theorem State.active_alerts (r : Req) :
    (s.active r).alerts = s.alerts := by unfold State.active; split <;> rfl
@[simp] theorem State.active_cam (r : Req) :
    (s.active r).cam = s.cam := by unfold State.active; split <;> rfl
@[simp] theorem State.active_blv (r : Req) :
    (s.active r).blv = s.blv := by unfold State.active; split <;> rfl
@[simp] theorem State.active_qlp (r : Req) :
    (s.active r).qlp = s.qlp := by unfold State.active; split <;> rfl
@[simp] theorem State.active_mem (r : Req) :
    (s.active r).mem = s.mem := by unfold State.active; split <;> rfl
@[simp] theorem State.active_poison (r : Req) :
    (s.active r).poison = s.poison := by unfold State.active; split <;> rfl
@[simp] theorem State.active_drc (r : Req) :
    (s.active r).drc = s.drc := by unfold State.active; split <;> rfl
@[simp] theorem State.active_net (r : Req) :
    (s.active r).net = s.net := by unfold State.active; split <;> rfl
@[simp] theorem State.active_tb (r : Req) : (s.active r).tb = s.tb := by unfold State.active; split <;> rfl
@[simp] theorem State.active_pcie (r : Req) :
    (s.active r).pcie = s.pcie := by unfold State.active; split <;> rfl
@[simp] theorem State.active_axes (r : Req) :
    (s.active r).axes = s.axes := by unfold State.active; split <;> rfl
@[simp] theorem State.active_fnt (r : Req) :
    (s.active r).fnt = s.fnt := by unfold State.active; split <;> rfl
@[simp] theorem State.active_mon (r : Req) :
    (s.active r).mon = s.mon := by unfold State.active; split <;> rfl
@[simp] theorem State.active_mechXtal (r : Req) :
    (s.active r).mechXtal = s.mechXtal := by unfold State.active; split <;> rfl
@[simp] theorem State.active_gth (r : Req) :
    (s.active r).gth = s.gth := by unfold State.active; split <;> rfl
@[simp] theorem State.active_fsh (r : Req) :
    (s.active r).fsh = s.fsh := by unfold State.active; split <;> rfl
@[simp] theorem State.active_flash (r : Req) :
    (s.active r).flash = s.flash := by unfold State.active; split <;> rfl
@[simp] theorem State.active_svnFloor (r : Req) :
    (s.active r).svnFloor = s.svnFloor := by unfold State.active; split <;> rfl
@[simp] theorem State.active_emitted (r : Req) :
    (s.active r).emitted = s.emitted := by unfold State.active; split <;> rfl
@[simp] theorem State.active_free (r : Req) :
    (s.active r).free = s.free := by unfold State.active; split <;> rfl
@[simp] theorem State.active_pending (r : Req) :
    (s.active r).pending = s.pending := by unfold State.active; split <;> rfl

@[simp] theorem State.touch_part (p : Nat) :
    (s.touch p).part = s.part := by unfold State.touch; split <;> [rfl; (split <;> rfl)]
@[simp] theorem State.touch_now (p : Nat) :
    (s.touch p).now = s.now := by unfold State.touch; split <;> [rfl; (split <;> rfl)]
@[simp] theorem State.touch_regs (p : Nat) :
    (s.touch p).regs = s.regs := by unfold State.touch; split <;> [rfl; (split <;> rfl)]
@[simp] theorem State.touch_act (p : Nat) :
    (s.touch p).act = s.act := by unfold State.touch; split <;> [rfl; (split <;> rfl)]
@[simp] theorem State.touch_aon (p : Nat) :
    (s.touch p).aon = s.aon := by unfold State.touch; split <;> [rfl; (split <;> rfl)]
@[simp] theorem State.touch_host (p : Nat) :
    (s.touch p).host = s.host := by unfold State.touch; split <;> [rfl; (split <;> rfl)]
@[simp] theorem State.touch_gkpSide (p : Nat) :
    (s.touch p).gkpSide = s.gkpSide := by unfold State.touch; split <;> [rfl; (split <;> rfl)]
@[simp] theorem State.touch_commits (p : Nat) :
    (s.touch p).commits = s.commits := by unfold State.touch; split <;> [rfl; (split <;> rfl)]
@[simp] theorem State.touch_follies (p : Nat) :
    (s.touch p).follies = s.follies := by unfold State.touch; split <;> [rfl; (split <;> rfl)]
@[simp] theorem State.touch_plls (p : Nat) :
    (s.touch p).plls = s.plls := by unfold State.touch; split <;> [rfl; (split <;> rfl)]
@[simp] theorem State.touch_wrd (p : Nat) :
    (s.touch p).wrd = s.wrd := by unfold State.touch; split <;> [rfl; (split <;> rfl)]
@[simp] theorem State.touch_bist (p : Nat) :
    (s.touch p).bist = s.bist := by unfold State.touch; split <;> [rfl; (split <;> rfl)]
@[simp] theorem State.touch_gbk (p : Nat) :
    (s.touch p).gbk = s.gbk := by unfold State.touch; split <;> [rfl; (split <;> rfl)]
@[simp] theorem State.touch_enc (p : Nat) :
    (s.touch p).enc = s.enc := by unfold State.touch; split <;> [rfl; (split <;> rfl)]
@[simp] theorem State.touch_sdl (p : Nat) :
    (s.touch p).sdl = s.sdl := by unfold State.touch; split <;> [rfl; (split <;> rfl)]
@[simp] theorem State.touch_hsc (p : Nat) :
    (s.touch p).hsc = s.hsc := by unfold State.touch; split <;> [rfl; (split <;> rfl)]
@[simp] theorem State.touch_trg (p : Nat) :
    (s.touch p).trg = s.trg := by unfold State.touch; split <;> [rfl; (split <;> rfl)]
@[simp] theorem State.touch_ref (p : Nat) :
    (s.touch p).ref = s.ref := by unfold State.touch; split <;> [rfl; (split <;> rfl)]
@[simp] theorem State.touch_stm (p : Nat) :
    (s.touch p).stm = s.stm := by unfold State.touch; split <;> [rfl; (split <;> rfl)]
@[simp] theorem State.touch_ing (p : Nat) :
    (s.touch p).ing = s.ing := by unfold State.touch; split <;> [rfl; (split <;> rfl)]
@[simp] theorem State.touch_trl (p : Nat) :
    (s.touch p).trl = s.trl := by unfold State.touch; split <;> [rfl; (split <;> rfl)]
@[simp] theorem State.touch_fir (p : Nat) :
    (s.touch p).fir = s.fir := by unfold State.touch; split <;> [rfl; (split <;> rfl)]
@[simp] theorem State.touch_railAt (p : Nat) :
    (s.touch p).railAt = s.railAt := by unfold State.touch; split <;> [rfl; (split <;> rfl)]
@[simp] theorem State.touch_onk (p : Nat) :
    (s.touch p).onk = s.onk := by unfold State.touch; split <;> [rfl; (split <;> rfl)]
@[simp] theorem State.touch_tx (p : Nat) :
    (s.touch p).tx = s.tx := by unfold State.touch; split <;> [rfl; (split <;> rfl)]
@[simp] theorem State.touch_alerts (p : Nat) :
    (s.touch p).alerts = s.alerts := by unfold State.touch; split <;> [rfl; (split <;> rfl)]
@[simp] theorem State.touch_cam (p : Nat) :
    (s.touch p).cam = s.cam := by unfold State.touch; split <;> [rfl; (split <;> rfl)]
@[simp] theorem State.touch_blv (p : Nat) :
    (s.touch p).blv = s.blv := by unfold State.touch; split <;> [rfl; (split <;> rfl)]
@[simp] theorem State.touch_qlp (p : Nat) :
    (s.touch p).qlp = s.qlp := by unfold State.touch; split <;> [rfl; (split <;> rfl)]
@[simp] theorem State.touch_mem (p : Nat) :
    (s.touch p).mem = s.mem := by unfold State.touch; split <;> [rfl; (split <;> rfl)]
@[simp] theorem State.touch_poison (p : Nat) :
    (s.touch p).poison = s.poison := by unfold State.touch; split <;> [rfl; (split <;> rfl)]
@[simp] theorem State.touch_drc (p : Nat) :
    (s.touch p).drc = s.drc := by unfold State.touch; split <;> [rfl; (split <;> rfl)]
@[simp] theorem State.touch_net (p : Nat) :
    (s.touch p).net = s.net := by unfold State.touch; split <;> [rfl; (split <;> rfl)]
@[simp] theorem State.touch_tb (p : Nat) :
    (s.touch p).tb = s.tb := by unfold State.touch; split <;> [rfl; (split <;> rfl)]
@[simp] theorem State.touch_pcie (p : Nat) :
    (s.touch p).pcie = s.pcie := by unfold State.touch; split <;> [rfl; (split <;> rfl)]
@[simp] theorem State.touch_axes (p : Nat) :
    (s.touch p).axes = s.axes := by unfold State.touch; split <;> [rfl; (split <;> rfl)]
@[simp] theorem State.touch_fnt (p : Nat) :
    (s.touch p).fnt = s.fnt := by unfold State.touch; split <;> [rfl; (split <;> rfl)]
@[simp] theorem State.touch_mon (p : Nat) :
    (s.touch p).mon = s.mon := by unfold State.touch; split <;> [rfl; (split <;> rfl)]
@[simp] theorem State.touch_mechXtal (p : Nat) :
    (s.touch p).mechXtal = s.mechXtal := by unfold State.touch; split <;> [rfl; (split <;> rfl)]
@[simp] theorem State.touch_gth (p : Nat) :
    (s.touch p).gth = s.gth := by unfold State.touch; split <;> [rfl; (split <;> rfl)]
@[simp] theorem State.touch_fsh (p : Nat) :
    (s.touch p).fsh = s.fsh := by unfold State.touch; split <;> [rfl; (split <;> rfl)]
@[simp] theorem State.touch_flash (p : Nat) :
    (s.touch p).flash = s.flash := by unfold State.touch; split <;> [rfl; (split <;> rfl)]
@[simp] theorem State.touch_svnFloor (p : Nat) :
    (s.touch p).svnFloor = s.svnFloor := by unfold State.touch; split <;> [rfl; (split <;> rfl)]
@[simp] theorem State.touch_emitted (p : Nat) :
    (s.touch p).emitted = s.emitted := by unfold State.touch; split <;> [rfl; (split <;> rfl)]
@[simp] theorem State.touch_free (p : Nat) :
    (s.touch p).free = s.free := by unfold State.touch; split <;> [rfl; (split <;> rfl)]
@[simp] theorem State.touch_pending (p : Nat) :
    (s.touch p).pending = s.pending := by unfold State.touch; split <;> [rfl; (split <;> rfl)]

@[simp] theorem State.updEnc_part (n : Fin 3) (g : Enc → Enc) : (s.updEnc n g).part = s.part := rfl
@[simp] theorem State.updEnc_now (n : Fin 3) (g : Enc → Enc) : (s.updEnc n g).now = s.now := rfl
@[simp] theorem State.updEnc_regs (n : Fin 3) (g : Enc → Enc) : (s.updEnc n g).regs = s.regs := rfl
@[simp] theorem State.updEnc_act (n : Fin 3) (g : Enc → Enc) : (s.updEnc n g).act = s.act := rfl
@[simp] theorem State.updEnc_aon (n : Fin 3) (g : Enc → Enc) : (s.updEnc n g).aon = s.aon := rfl
@[simp] theorem State.updEnc_host (n : Fin 3) (g : Enc → Enc) : (s.updEnc n g).host = s.host := rfl
@[simp] theorem State.updEnc_gkpSide (n : Fin 3) (g : Enc → Enc) : (s.updEnc n g).gkpSide = s.gkpSide := rfl
@[simp] theorem State.updEnc_commits (n : Fin 3) (g : Enc → Enc) : (s.updEnc n g).commits = s.commits := rfl
@[simp] theorem State.updEnc_follies (n : Fin 3) (g : Enc → Enc) : (s.updEnc n g).follies = s.follies := rfl
@[simp] theorem State.updEnc_plls (n : Fin 3) (g : Enc → Enc) : (s.updEnc n g).plls = s.plls := rfl
@[simp] theorem State.updEnc_pwr (n : Fin 3) (g : Enc → Enc) : (s.updEnc n g).pwr = s.pwr := rfl
@[simp] theorem State.updEnc_wrd (n : Fin 3) (g : Enc → Enc) : (s.updEnc n g).wrd = s.wrd := rfl
@[simp] theorem State.updEnc_bist (n : Fin 3) (g : Enc → Enc) : (s.updEnc n g).bist = s.bist := rfl
@[simp] theorem State.updEnc_gbk (n : Fin 3) (g : Enc → Enc) : (s.updEnc n g).gbk = s.gbk := rfl
@[simp] theorem State.updEnc_sdl (n : Fin 3) (g : Enc → Enc) : (s.updEnc n g).sdl = s.sdl := rfl
@[simp] theorem State.updEnc_hsc (n : Fin 3) (g : Enc → Enc) : (s.updEnc n g).hsc = s.hsc := rfl
@[simp] theorem State.updEnc_trg (n : Fin 3) (g : Enc → Enc) : (s.updEnc n g).trg = s.trg := rfl
@[simp] theorem State.updEnc_ref (n : Fin 3) (g : Enc → Enc) : (s.updEnc n g).ref = s.ref := rfl
@[simp] theorem State.updEnc_stm (n : Fin 3) (g : Enc → Enc) : (s.updEnc n g).stm = s.stm := rfl
@[simp] theorem State.updEnc_ing (n : Fin 3) (g : Enc → Enc) : (s.updEnc n g).ing = s.ing := rfl
@[simp] theorem State.updEnc_trl (n : Fin 3) (g : Enc → Enc) : (s.updEnc n g).trl = s.trl := rfl
@[simp] theorem State.updEnc_fir (n : Fin 3) (g : Enc → Enc) : (s.updEnc n g).fir = s.fir := rfl
@[simp] theorem State.updEnc_railAt (n : Fin 3) (g : Enc → Enc) : (s.updEnc n g).railAt = s.railAt := rfl
@[simp] theorem State.updEnc_onk (n : Fin 3) (g : Enc → Enc) : (s.updEnc n g).onk = s.onk := rfl
@[simp] theorem State.updEnc_tx (n : Fin 3) (g : Enc → Enc) : (s.updEnc n g).tx = s.tx := rfl
@[simp] theorem State.updEnc_alerts (n : Fin 3) (g : Enc → Enc) : (s.updEnc n g).alerts = s.alerts := rfl
@[simp] theorem State.updEnc_cam (n : Fin 3) (g : Enc → Enc) : (s.updEnc n g).cam = s.cam := rfl
@[simp] theorem State.updEnc_blv (n : Fin 3) (g : Enc → Enc) : (s.updEnc n g).blv = s.blv := rfl
@[simp] theorem State.updEnc_qlp (n : Fin 3) (g : Enc → Enc) : (s.updEnc n g).qlp = s.qlp := rfl
@[simp] theorem State.updEnc_mem (n : Fin 3) (g : Enc → Enc) : (s.updEnc n g).mem = s.mem := rfl
@[simp] theorem State.updEnc_poison (n : Fin 3) (g : Enc → Enc) : (s.updEnc n g).poison = s.poison := rfl
@[simp] theorem State.updEnc_drc (n : Fin 3) (g : Enc → Enc) : (s.updEnc n g).drc = s.drc := rfl
@[simp] theorem State.updEnc_net (n : Fin 3) (g : Enc → Enc) : (s.updEnc n g).net = s.net := rfl
@[simp] theorem State.updEnc_tb (n : Fin 3) (g : Enc → Enc) : (s.updEnc n g).tb = s.tb := rfl
@[simp] theorem State.updEnc_pcie (n : Fin 3) (g : Enc → Enc) : (s.updEnc n g).pcie = s.pcie := rfl
@[simp] theorem State.updEnc_axes (n : Fin 3) (g : Enc → Enc) : (s.updEnc n g).axes = s.axes := rfl
@[simp] theorem State.updEnc_fnt (n : Fin 3) (g : Enc → Enc) : (s.updEnc n g).fnt = s.fnt := rfl
@[simp] theorem State.updEnc_mon (n : Fin 3) (g : Enc → Enc) : (s.updEnc n g).mon = s.mon := rfl
@[simp] theorem State.updEnc_mechXtal (n : Fin 3) (g : Enc → Enc) :
    (s.updEnc n g).mechXtal = s.mechXtal := rfl
@[simp] theorem State.updEnc_gth (n : Fin 3) (g : Enc → Enc) : (s.updEnc n g).gth = s.gth := rfl
@[simp] theorem State.updEnc_fsh (n : Fin 3) (g : Enc → Enc) : (s.updEnc n g).fsh = s.fsh := rfl
@[simp] theorem State.updEnc_flash (n : Fin 3) (g : Enc → Enc) : (s.updEnc n g).flash = s.flash := rfl
@[simp] theorem State.updEnc_svnFloor (n : Fin 3) (g : Enc → Enc) :
    (s.updEnc n g).svnFloor = s.svnFloor := rfl
@[simp] theorem State.updEnc_emitted (n : Fin 3) (g : Enc → Enc) : (s.updEnc n g).emitted = s.emitted := rfl
@[simp] theorem State.updEnc_free (n : Fin 3) (g : Enc → Enc) : (s.updEnc n g).free = s.free := rfl
@[simp] theorem State.updEnc_pending (n : Fin 3) (g : Enc → Enc) : (s.updEnc n g).pending = s.pending := rfl

@[simp] theorem State.updSdl_part (g : Sdl → Sdl) : (s.updSdl g).part = s.part := rfl
@[simp] theorem State.updSdl_now (g : Sdl → Sdl) : (s.updSdl g).now = s.now := rfl
@[simp] theorem State.updSdl_regs (g : Sdl → Sdl) : (s.updSdl g).regs = s.regs := rfl
@[simp] theorem State.updSdl_act (g : Sdl → Sdl) : (s.updSdl g).act = s.act := rfl
@[simp] theorem State.updSdl_aon (g : Sdl → Sdl) : (s.updSdl g).aon = s.aon := rfl
@[simp] theorem State.updSdl_host (g : Sdl → Sdl) : (s.updSdl g).host = s.host := rfl
@[simp] theorem State.updSdl_gkpSide (g : Sdl → Sdl) : (s.updSdl g).gkpSide = s.gkpSide := rfl
@[simp] theorem State.updSdl_commits (g : Sdl → Sdl) : (s.updSdl g).commits = s.commits := rfl
@[simp] theorem State.updSdl_follies (g : Sdl → Sdl) : (s.updSdl g).follies = s.follies := rfl
@[simp] theorem State.updSdl_plls (g : Sdl → Sdl) : (s.updSdl g).plls = s.plls := rfl
@[simp] theorem State.updSdl_pwr (g : Sdl → Sdl) : (s.updSdl g).pwr = s.pwr := rfl
@[simp] theorem State.updSdl_wrd (g : Sdl → Sdl) : (s.updSdl g).wrd = s.wrd := rfl
@[simp] theorem State.updSdl_bist (g : Sdl → Sdl) : (s.updSdl g).bist = s.bist := rfl
@[simp] theorem State.updSdl_gbk (g : Sdl → Sdl) : (s.updSdl g).gbk = s.gbk := rfl
@[simp] theorem State.updSdl_enc (g : Sdl → Sdl) : (s.updSdl g).enc = s.enc := rfl
@[simp] theorem State.updSdl_hsc (g : Sdl → Sdl) : (s.updSdl g).hsc = s.hsc := rfl
@[simp] theorem State.updSdl_trg (g : Sdl → Sdl) : (s.updSdl g).trg = s.trg := rfl
@[simp] theorem State.updSdl_ref (g : Sdl → Sdl) : (s.updSdl g).ref = s.ref := rfl
@[simp] theorem State.updSdl_stm (g : Sdl → Sdl) : (s.updSdl g).stm = s.stm := rfl
@[simp] theorem State.updSdl_ing (g : Sdl → Sdl) : (s.updSdl g).ing = s.ing := rfl
@[simp] theorem State.updSdl_trl (g : Sdl → Sdl) : (s.updSdl g).trl = s.trl := rfl
@[simp] theorem State.updSdl_fir (g : Sdl → Sdl) : (s.updSdl g).fir = s.fir := rfl
@[simp] theorem State.updSdl_railAt (g : Sdl → Sdl) : (s.updSdl g).railAt = s.railAt := rfl
@[simp] theorem State.updSdl_onk (g : Sdl → Sdl) : (s.updSdl g).onk = s.onk := rfl
@[simp] theorem State.updSdl_tx (g : Sdl → Sdl) : (s.updSdl g).tx = s.tx := rfl
@[simp] theorem State.updSdl_alerts (g : Sdl → Sdl) : (s.updSdl g).alerts = s.alerts := rfl
@[simp] theorem State.updSdl_cam (g : Sdl → Sdl) : (s.updSdl g).cam = s.cam := rfl
@[simp] theorem State.updSdl_blv (g : Sdl → Sdl) : (s.updSdl g).blv = s.blv := rfl
@[simp] theorem State.updSdl_qlp (g : Sdl → Sdl) : (s.updSdl g).qlp = s.qlp := rfl
@[simp] theorem State.updSdl_mem (g : Sdl → Sdl) : (s.updSdl g).mem = s.mem := rfl
@[simp] theorem State.updSdl_poison (g : Sdl → Sdl) : (s.updSdl g).poison = s.poison := rfl
@[simp] theorem State.updSdl_drc (g : Sdl → Sdl) : (s.updSdl g).drc = s.drc := rfl
@[simp] theorem State.updSdl_net (g : Sdl → Sdl) : (s.updSdl g).net = s.net := rfl
@[simp] theorem State.updSdl_tb (g : Sdl → Sdl) : (s.updSdl g).tb = s.tb := rfl
@[simp] theorem State.updSdl_pcie (g : Sdl → Sdl) : (s.updSdl g).pcie = s.pcie := rfl
@[simp] theorem State.updSdl_axes (g : Sdl → Sdl) : (s.updSdl g).axes = s.axes := rfl
@[simp] theorem State.updSdl_fnt (g : Sdl → Sdl) : (s.updSdl g).fnt = s.fnt := rfl
@[simp] theorem State.updSdl_mon (g : Sdl → Sdl) : (s.updSdl g).mon = s.mon := rfl
@[simp] theorem State.updSdl_mechXtal (g : Sdl → Sdl) : (s.updSdl g).mechXtal = s.mechXtal := rfl
@[simp] theorem State.updSdl_gth (g : Sdl → Sdl) : (s.updSdl g).gth = s.gth := rfl
@[simp] theorem State.updSdl_fsh (g : Sdl → Sdl) : (s.updSdl g).fsh = s.fsh := rfl
@[simp] theorem State.updSdl_flash (g : Sdl → Sdl) : (s.updSdl g).flash = s.flash := rfl
@[simp] theorem State.updSdl_svnFloor (g : Sdl → Sdl) : (s.updSdl g).svnFloor = s.svnFloor := rfl
@[simp] theorem State.updSdl_emitted (g : Sdl → Sdl) : (s.updSdl g).emitted = s.emitted := rfl
@[simp] theorem State.updSdl_free (g : Sdl → Sdl) : (s.updSdl g).free = s.free := rfl
@[simp] theorem State.updSdl_pending (g : Sdl → Sdl) : (s.updSdl g).pending = s.pending := rfl

@[simp] theorem State.updHsc_part (h : Nat) (g : Hsc → Hsc) :
    (s.updHsc h g).part = s.part := by unfold State.updHsc State.setHsc; split <;> rfl
@[simp] theorem State.updHsc_now (h : Nat) (g : Hsc → Hsc) :
    (s.updHsc h g).now = s.now := by unfold State.updHsc State.setHsc; split <;> rfl
@[simp] theorem State.updHsc_regs (h : Nat) (g : Hsc → Hsc) :
    (s.updHsc h g).regs = s.regs := by unfold State.updHsc State.setHsc; split <;> rfl
@[simp] theorem State.updHsc_act (h : Nat) (g : Hsc → Hsc) :
    (s.updHsc h g).act = s.act := by unfold State.updHsc State.setHsc; split <;> rfl
@[simp] theorem State.updHsc_aon (h : Nat) (g : Hsc → Hsc) :
    (s.updHsc h g).aon = s.aon := by unfold State.updHsc State.setHsc; split <;> rfl
@[simp] theorem State.updHsc_host (h : Nat) (g : Hsc → Hsc) :
    (s.updHsc h g).host = s.host := by unfold State.updHsc State.setHsc; split <;> rfl
@[simp] theorem State.updHsc_gkpSide (h : Nat) (g : Hsc → Hsc) :
    (s.updHsc h g).gkpSide = s.gkpSide := by unfold State.updHsc State.setHsc; split <;> rfl
@[simp] theorem State.updHsc_commits (h : Nat) (g : Hsc → Hsc) :
    (s.updHsc h g).commits = s.commits := by unfold State.updHsc State.setHsc; split <;> rfl
@[simp] theorem State.updHsc_follies (h : Nat) (g : Hsc → Hsc) :
    (s.updHsc h g).follies = s.follies := by unfold State.updHsc State.setHsc; split <;> rfl
@[simp] theorem State.updHsc_plls (h : Nat) (g : Hsc → Hsc) :
    (s.updHsc h g).plls = s.plls := by unfold State.updHsc State.setHsc; split <;> rfl
@[simp] theorem State.updHsc_pwr (h : Nat) (g : Hsc → Hsc) :
    (s.updHsc h g).pwr = s.pwr := by unfold State.updHsc State.setHsc; split <;> rfl
@[simp] theorem State.updHsc_wrd (h : Nat) (g : Hsc → Hsc) :
    (s.updHsc h g).wrd = s.wrd := by unfold State.updHsc State.setHsc; split <;> rfl
@[simp] theorem State.updHsc_bist (h : Nat) (g : Hsc → Hsc) :
    (s.updHsc h g).bist = s.bist := by unfold State.updHsc State.setHsc; split <;> rfl
@[simp] theorem State.updHsc_gbk (h : Nat) (g : Hsc → Hsc) :
    (s.updHsc h g).gbk = s.gbk := by unfold State.updHsc State.setHsc; split <;> rfl
@[simp] theorem State.updHsc_enc (h : Nat) (g : Hsc → Hsc) :
    (s.updHsc h g).enc = s.enc := by unfold State.updHsc State.setHsc; split <;> rfl
@[simp] theorem State.updHsc_sdl (h : Nat) (g : Hsc → Hsc) :
    (s.updHsc h g).sdl = s.sdl := by unfold State.updHsc State.setHsc; split <;> rfl
@[simp] theorem State.updHsc_trg (h : Nat) (g : Hsc → Hsc) :
    (s.updHsc h g).trg = s.trg := by unfold State.updHsc State.setHsc; split <;> rfl
@[simp] theorem State.updHsc_ref (h : Nat) (g : Hsc → Hsc) :
    (s.updHsc h g).ref = s.ref := by unfold State.updHsc State.setHsc; split <;> rfl
@[simp] theorem State.updHsc_stm (h : Nat) (g : Hsc → Hsc) :
    (s.updHsc h g).stm = s.stm := by unfold State.updHsc State.setHsc; split <;> rfl
@[simp] theorem State.updHsc_ing (h : Nat) (g : Hsc → Hsc) :
    (s.updHsc h g).ing = s.ing := by unfold State.updHsc State.setHsc; split <;> rfl
@[simp] theorem State.updHsc_trl (h : Nat) (g : Hsc → Hsc) :
    (s.updHsc h g).trl = s.trl := by unfold State.updHsc State.setHsc; split <;> rfl
@[simp] theorem State.updHsc_fir (h : Nat) (g : Hsc → Hsc) :
    (s.updHsc h g).fir = s.fir := by unfold State.updHsc State.setHsc; split <;> rfl
@[simp] theorem State.updHsc_railAt (h : Nat) (g : Hsc → Hsc) :
    (s.updHsc h g).railAt = s.railAt := by unfold State.updHsc State.setHsc; split <;> rfl
@[simp] theorem State.updHsc_onk (h : Nat) (g : Hsc → Hsc) :
    (s.updHsc h g).onk = s.onk := by unfold State.updHsc State.setHsc; split <;> rfl
@[simp] theorem State.updHsc_tx (h : Nat) (g : Hsc → Hsc) :
    (s.updHsc h g).tx = s.tx := by unfold State.updHsc State.setHsc; split <;> rfl
@[simp] theorem State.updHsc_alerts (h : Nat) (g : Hsc → Hsc) :
    (s.updHsc h g).alerts = s.alerts := by unfold State.updHsc State.setHsc; split <;> rfl
@[simp] theorem State.updHsc_cam (h : Nat) (g : Hsc → Hsc) :
    (s.updHsc h g).cam = s.cam := by unfold State.updHsc State.setHsc; split <;> rfl
@[simp] theorem State.updHsc_blv (h : Nat) (g : Hsc → Hsc) :
    (s.updHsc h g).blv = s.blv := by unfold State.updHsc State.setHsc; split <;> rfl
@[simp] theorem State.updHsc_qlp (h : Nat) (g : Hsc → Hsc) :
    (s.updHsc h g).qlp = s.qlp := by unfold State.updHsc State.setHsc; split <;> rfl
@[simp] theorem State.updHsc_mem (h : Nat) (g : Hsc → Hsc) :
    (s.updHsc h g).mem = s.mem := by unfold State.updHsc State.setHsc; split <;> rfl
@[simp] theorem State.updHsc_poison (h : Nat) (g : Hsc → Hsc) :
    (s.updHsc h g).poison = s.poison := by unfold State.updHsc State.setHsc; split <;> rfl
@[simp] theorem State.updHsc_drc (h : Nat) (g : Hsc → Hsc) :
    (s.updHsc h g).drc = s.drc := by unfold State.updHsc State.setHsc; split <;> rfl
@[simp] theorem State.updHsc_net (h : Nat) (g : Hsc → Hsc) :
    (s.updHsc h g).net = s.net := by unfold State.updHsc State.setHsc; split <;> rfl
@[simp] theorem State.updHsc_tb (h : Nat) (g : Hsc → Hsc) :
    (s.updHsc h g).tb = s.tb := by unfold State.updHsc State.setHsc; split <;> rfl
@[simp] theorem State.updHsc_pcie (h : Nat) (g : Hsc → Hsc) :
    (s.updHsc h g).pcie = s.pcie := by unfold State.updHsc State.setHsc; split <;> rfl
@[simp] theorem State.updHsc_axes (h : Nat) (g : Hsc → Hsc) :
    (s.updHsc h g).axes = s.axes := by unfold State.updHsc State.setHsc; split <;> rfl
@[simp] theorem State.updHsc_fnt (h : Nat) (g : Hsc → Hsc) :
    (s.updHsc h g).fnt = s.fnt := by unfold State.updHsc State.setHsc; split <;> rfl
@[simp] theorem State.updHsc_mon (h : Nat) (g : Hsc → Hsc) :
    (s.updHsc h g).mon = s.mon := by unfold State.updHsc State.setHsc; split <;> rfl
@[simp] theorem State.updHsc_mechXtal (h : Nat) (g : Hsc → Hsc) :
    (s.updHsc h g).mechXtal = s.mechXtal := by unfold State.updHsc State.setHsc; split <;> rfl
@[simp] theorem State.updHsc_gth (h : Nat) (g : Hsc → Hsc) :
    (s.updHsc h g).gth = s.gth := by unfold State.updHsc State.setHsc; split <;> rfl
@[simp] theorem State.updHsc_fsh (h : Nat) (g : Hsc → Hsc) :
    (s.updHsc h g).fsh = s.fsh := by unfold State.updHsc State.setHsc; split <;> rfl
@[simp] theorem State.updHsc_flash (h : Nat) (g : Hsc → Hsc) :
    (s.updHsc h g).flash = s.flash := by unfold State.updHsc State.setHsc; split <;> rfl
@[simp] theorem State.updHsc_svnFloor (h : Nat) (g : Hsc → Hsc) :
    (s.updHsc h g).svnFloor = s.svnFloor := by unfold State.updHsc State.setHsc; split <;> rfl
@[simp] theorem State.updHsc_emitted (h : Nat) (g : Hsc → Hsc) :
    (s.updHsc h g).emitted = s.emitted := by unfold State.updHsc State.setHsc; split <;> rfl
@[simp] theorem State.updHsc_free (h : Nat) (g : Hsc → Hsc) :
    (s.updHsc h g).free = s.free := by unfold State.updHsc State.setHsc; split <;> rfl
@[simp] theorem State.updHsc_pending (h : Nat) (g : Hsc → Hsc) :
    (s.updHsc h g).pending = s.pending := by unfold State.updHsc State.setHsc; split <;> rfl

@[simp] theorem State.updTrl_part (h : Nat) (g : Trl → Trl) :
    (s.updTrl h g).part = s.part := by unfold State.updTrl; split <;> rfl
@[simp] theorem State.updTrl_now (h : Nat) (g : Trl → Trl) :
    (s.updTrl h g).now = s.now := by unfold State.updTrl; split <;> rfl
@[simp] theorem State.updTrl_regs (h : Nat) (g : Trl → Trl) :
    (s.updTrl h g).regs = s.regs := by unfold State.updTrl; split <;> rfl
@[simp] theorem State.updTrl_act (h : Nat) (g : Trl → Trl) :
    (s.updTrl h g).act = s.act := by unfold State.updTrl; split <;> rfl
@[simp] theorem State.updTrl_aon (h : Nat) (g : Trl → Trl) :
    (s.updTrl h g).aon = s.aon := by unfold State.updTrl; split <;> rfl
@[simp] theorem State.updTrl_host (h : Nat) (g : Trl → Trl) :
    (s.updTrl h g).host = s.host := by unfold State.updTrl; split <;> rfl
@[simp] theorem State.updTrl_gkpSide (h : Nat) (g : Trl → Trl) :
    (s.updTrl h g).gkpSide = s.gkpSide := by unfold State.updTrl; split <;> rfl
@[simp] theorem State.updTrl_commits (h : Nat) (g : Trl → Trl) :
    (s.updTrl h g).commits = s.commits := by unfold State.updTrl; split <;> rfl
@[simp] theorem State.updTrl_follies (h : Nat) (g : Trl → Trl) :
    (s.updTrl h g).follies = s.follies := by unfold State.updTrl; split <;> rfl
@[simp] theorem State.updTrl_plls (h : Nat) (g : Trl → Trl) :
    (s.updTrl h g).plls = s.plls := by unfold State.updTrl; split <;> rfl
@[simp] theorem State.updTrl_pwr (h : Nat) (g : Trl → Trl) :
    (s.updTrl h g).pwr = s.pwr := by unfold State.updTrl; split <;> rfl
@[simp] theorem State.updTrl_wrd (h : Nat) (g : Trl → Trl) :
    (s.updTrl h g).wrd = s.wrd := by unfold State.updTrl; split <;> rfl
@[simp] theorem State.updTrl_bist (h : Nat) (g : Trl → Trl) :
    (s.updTrl h g).bist = s.bist := by unfold State.updTrl; split <;> rfl
@[simp] theorem State.updTrl_gbk (h : Nat) (g : Trl → Trl) :
    (s.updTrl h g).gbk = s.gbk := by unfold State.updTrl; split <;> rfl
@[simp] theorem State.updTrl_enc (h : Nat) (g : Trl → Trl) :
    (s.updTrl h g).enc = s.enc := by unfold State.updTrl; split <;> rfl
@[simp] theorem State.updTrl_sdl (h : Nat) (g : Trl → Trl) :
    (s.updTrl h g).sdl = s.sdl := by unfold State.updTrl; split <;> rfl
@[simp] theorem State.updTrl_hsc (h : Nat) (g : Trl → Trl) :
    (s.updTrl h g).hsc = s.hsc := by unfold State.updTrl; split <;> rfl
@[simp] theorem State.updTrl_trg (h : Nat) (g : Trl → Trl) :
    (s.updTrl h g).trg = s.trg := by unfold State.updTrl; split <;> rfl
@[simp] theorem State.updTrl_ref (h : Nat) (g : Trl → Trl) :
    (s.updTrl h g).ref = s.ref := by unfold State.updTrl; split <;> rfl
@[simp] theorem State.updTrl_stm (h : Nat) (g : Trl → Trl) :
    (s.updTrl h g).stm = s.stm := by unfold State.updTrl; split <;> rfl
@[simp] theorem State.updTrl_ing (h : Nat) (g : Trl → Trl) :
    (s.updTrl h g).ing = s.ing := by unfold State.updTrl; split <;> rfl
@[simp] theorem State.updTrl_fir (h : Nat) (g : Trl → Trl) :
    (s.updTrl h g).fir = s.fir := by unfold State.updTrl; split <;> rfl
@[simp] theorem State.updTrl_railAt (h : Nat) (g : Trl → Trl) :
    (s.updTrl h g).railAt = s.railAt := by unfold State.updTrl; split <;> rfl
@[simp] theorem State.updTrl_onk (h : Nat) (g : Trl → Trl) :
    (s.updTrl h g).onk = s.onk := by unfold State.updTrl; split <;> rfl
@[simp] theorem State.updTrl_tx (h : Nat) (g : Trl → Trl) :
    (s.updTrl h g).tx = s.tx := by unfold State.updTrl; split <;> rfl
@[simp] theorem State.updTrl_alerts (h : Nat) (g : Trl → Trl) :
    (s.updTrl h g).alerts = s.alerts := by unfold State.updTrl; split <;> rfl
@[simp] theorem State.updTrl_cam (h : Nat) (g : Trl → Trl) :
    (s.updTrl h g).cam = s.cam := by unfold State.updTrl; split <;> rfl
@[simp] theorem State.updTrl_blv (h : Nat) (g : Trl → Trl) :
    (s.updTrl h g).blv = s.blv := by unfold State.updTrl; split <;> rfl
@[simp] theorem State.updTrl_qlp (h : Nat) (g : Trl → Trl) :
    (s.updTrl h g).qlp = s.qlp := by unfold State.updTrl; split <;> rfl
@[simp] theorem State.updTrl_mem (h : Nat) (g : Trl → Trl) :
    (s.updTrl h g).mem = s.mem := by unfold State.updTrl; split <;> rfl
@[simp] theorem State.updTrl_poison (h : Nat) (g : Trl → Trl) :
    (s.updTrl h g).poison = s.poison := by unfold State.updTrl; split <;> rfl
@[simp] theorem State.updTrl_drc (h : Nat) (g : Trl → Trl) :
    (s.updTrl h g).drc = s.drc := by unfold State.updTrl; split <;> rfl
@[simp] theorem State.updTrl_net (h : Nat) (g : Trl → Trl) :
    (s.updTrl h g).net = s.net := by unfold State.updTrl; split <;> rfl
@[simp] theorem State.updTrl_tb (h : Nat) (g : Trl → Trl) :
    (s.updTrl h g).tb = s.tb := by unfold State.updTrl; split <;> rfl
@[simp] theorem State.updTrl_pcie (h : Nat) (g : Trl → Trl) :
    (s.updTrl h g).pcie = s.pcie := by unfold State.updTrl; split <;> rfl
@[simp] theorem State.updTrl_axes (h : Nat) (g : Trl → Trl) :
    (s.updTrl h g).axes = s.axes := by unfold State.updTrl; split <;> rfl
@[simp] theorem State.updTrl_fnt (h : Nat) (g : Trl → Trl) :
    (s.updTrl h g).fnt = s.fnt := by unfold State.updTrl; split <;> rfl
@[simp] theorem State.updTrl_mon (h : Nat) (g : Trl → Trl) :
    (s.updTrl h g).mon = s.mon := by unfold State.updTrl; split <;> rfl
@[simp] theorem State.updTrl_mechXtal (h : Nat) (g : Trl → Trl) :
    (s.updTrl h g).mechXtal = s.mechXtal := by unfold State.updTrl; split <;> rfl
@[simp] theorem State.updTrl_gth (h : Nat) (g : Trl → Trl) :
    (s.updTrl h g).gth = s.gth := by unfold State.updTrl; split <;> rfl
@[simp] theorem State.updTrl_fsh (h : Nat) (g : Trl → Trl) :
    (s.updTrl h g).fsh = s.fsh := by unfold State.updTrl; split <;> rfl
@[simp] theorem State.updTrl_flash (h : Nat) (g : Trl → Trl) :
    (s.updTrl h g).flash = s.flash := by unfold State.updTrl; split <;> rfl
@[simp] theorem State.updTrl_svnFloor (h : Nat) (g : Trl → Trl) :
    (s.updTrl h g).svnFloor = s.svnFloor := by unfold State.updTrl; split <;> rfl
@[simp] theorem State.updTrl_emitted (h : Nat) (g : Trl → Trl) :
    (s.updTrl h g).emitted = s.emitted := by unfold State.updTrl; split <;> rfl
@[simp] theorem State.updTrl_free (h : Nat) (g : Trl → Trl) :
    (s.updTrl h g).free = s.free := by unfold State.updTrl; split <;> rfl
@[simp] theorem State.updTrl_pending (h : Nat) (g : Trl → Trl) :
    (s.updTrl h g).pending = s.pending := by unfold State.updTrl; split <;> rfl

@[simp] theorem State.updFir_part (h : Nat) (g : Fir → Fir) :
    (s.updFir h g).part = s.part := by unfold State.updFir; split <;> rfl
@[simp] theorem State.updFir_now (h : Nat) (g : Fir → Fir) :
    (s.updFir h g).now = s.now := by unfold State.updFir; split <;> rfl
@[simp] theorem State.updFir_regs (h : Nat) (g : Fir → Fir) :
    (s.updFir h g).regs = s.regs := by unfold State.updFir; split <;> rfl
@[simp] theorem State.updFir_act (h : Nat) (g : Fir → Fir) :
    (s.updFir h g).act = s.act := by unfold State.updFir; split <;> rfl
@[simp] theorem State.updFir_aon (h : Nat) (g : Fir → Fir) :
    (s.updFir h g).aon = s.aon := by unfold State.updFir; split <;> rfl
@[simp] theorem State.updFir_host (h : Nat) (g : Fir → Fir) :
    (s.updFir h g).host = s.host := by unfold State.updFir; split <;> rfl
@[simp] theorem State.updFir_gkpSide (h : Nat) (g : Fir → Fir) :
    (s.updFir h g).gkpSide = s.gkpSide := by unfold State.updFir; split <;> rfl
@[simp] theorem State.updFir_commits (h : Nat) (g : Fir → Fir) :
    (s.updFir h g).commits = s.commits := by unfold State.updFir; split <;> rfl
@[simp] theorem State.updFir_follies (h : Nat) (g : Fir → Fir) :
    (s.updFir h g).follies = s.follies := by unfold State.updFir; split <;> rfl
@[simp] theorem State.updFir_plls (h : Nat) (g : Fir → Fir) :
    (s.updFir h g).plls = s.plls := by unfold State.updFir; split <;> rfl
@[simp] theorem State.updFir_pwr (h : Nat) (g : Fir → Fir) :
    (s.updFir h g).pwr = s.pwr := by unfold State.updFir; split <;> rfl
@[simp] theorem State.updFir_wrd (h : Nat) (g : Fir → Fir) :
    (s.updFir h g).wrd = s.wrd := by unfold State.updFir; split <;> rfl
@[simp] theorem State.updFir_bist (h : Nat) (g : Fir → Fir) :
    (s.updFir h g).bist = s.bist := by unfold State.updFir; split <;> rfl
@[simp] theorem State.updFir_gbk (h : Nat) (g : Fir → Fir) :
    (s.updFir h g).gbk = s.gbk := by unfold State.updFir; split <;> rfl
@[simp] theorem State.updFir_enc (h : Nat) (g : Fir → Fir) :
    (s.updFir h g).enc = s.enc := by unfold State.updFir; split <;> rfl
@[simp] theorem State.updFir_sdl (h : Nat) (g : Fir → Fir) :
    (s.updFir h g).sdl = s.sdl := by unfold State.updFir; split <;> rfl
@[simp] theorem State.updFir_hsc (h : Nat) (g : Fir → Fir) :
    (s.updFir h g).hsc = s.hsc := by unfold State.updFir; split <;> rfl
@[simp] theorem State.updFir_trg (h : Nat) (g : Fir → Fir) :
    (s.updFir h g).trg = s.trg := by unfold State.updFir; split <;> rfl
@[simp] theorem State.updFir_ref (h : Nat) (g : Fir → Fir) :
    (s.updFir h g).ref = s.ref := by unfold State.updFir; split <;> rfl
@[simp] theorem State.updFir_stm (h : Nat) (g : Fir → Fir) :
    (s.updFir h g).stm = s.stm := by unfold State.updFir; split <;> rfl
@[simp] theorem State.updFir_ing (h : Nat) (g : Fir → Fir) :
    (s.updFir h g).ing = s.ing := by unfold State.updFir; split <;> rfl
@[simp] theorem State.updFir_trl (h : Nat) (g : Fir → Fir) :
    (s.updFir h g).trl = s.trl := by unfold State.updFir; split <;> rfl
@[simp] theorem State.updFir_railAt (h : Nat) (g : Fir → Fir) :
    (s.updFir h g).railAt = s.railAt := by unfold State.updFir; split <;> rfl
@[simp] theorem State.updFir_onk (h : Nat) (g : Fir → Fir) :
    (s.updFir h g).onk = s.onk := by unfold State.updFir; split <;> rfl
@[simp] theorem State.updFir_tx (h : Nat) (g : Fir → Fir) :
    (s.updFir h g).tx = s.tx := by unfold State.updFir; split <;> rfl
@[simp] theorem State.updFir_alerts (h : Nat) (g : Fir → Fir) :
    (s.updFir h g).alerts = s.alerts := by unfold State.updFir; split <;> rfl
@[simp] theorem State.updFir_cam (h : Nat) (g : Fir → Fir) :
    (s.updFir h g).cam = s.cam := by unfold State.updFir; split <;> rfl
@[simp] theorem State.updFir_blv (h : Nat) (g : Fir → Fir) :
    (s.updFir h g).blv = s.blv := by unfold State.updFir; split <;> rfl
@[simp] theorem State.updFir_qlp (h : Nat) (g : Fir → Fir) :
    (s.updFir h g).qlp = s.qlp := by unfold State.updFir; split <;> rfl
@[simp] theorem State.updFir_mem (h : Nat) (g : Fir → Fir) :
    (s.updFir h g).mem = s.mem := by unfold State.updFir; split <;> rfl
@[simp] theorem State.updFir_poison (h : Nat) (g : Fir → Fir) :
    (s.updFir h g).poison = s.poison := by unfold State.updFir; split <;> rfl
@[simp] theorem State.updFir_drc (h : Nat) (g : Fir → Fir) :
    (s.updFir h g).drc = s.drc := by unfold State.updFir; split <;> rfl
@[simp] theorem State.updFir_net (h : Nat) (g : Fir → Fir) :
    (s.updFir h g).net = s.net := by unfold State.updFir; split <;> rfl
@[simp] theorem State.updFir_tb (h : Nat) (g : Fir → Fir) :
    (s.updFir h g).tb = s.tb := by unfold State.updFir; split <;> rfl
@[simp] theorem State.updFir_pcie (h : Nat) (g : Fir → Fir) :
    (s.updFir h g).pcie = s.pcie := by unfold State.updFir; split <;> rfl
@[simp] theorem State.updFir_axes (h : Nat) (g : Fir → Fir) :
    (s.updFir h g).axes = s.axes := by unfold State.updFir; split <;> rfl
@[simp] theorem State.updFir_fnt (h : Nat) (g : Fir → Fir) :
    (s.updFir h g).fnt = s.fnt := by unfold State.updFir; split <;> rfl
@[simp] theorem State.updFir_mon (h : Nat) (g : Fir → Fir) :
    (s.updFir h g).mon = s.mon := by unfold State.updFir; split <;> rfl
@[simp] theorem State.updFir_mechXtal (h : Nat) (g : Fir → Fir) :
    (s.updFir h g).mechXtal = s.mechXtal := by unfold State.updFir; split <;> rfl
@[simp] theorem State.updFir_gth (h : Nat) (g : Fir → Fir) :
    (s.updFir h g).gth = s.gth := by unfold State.updFir; split <;> rfl
@[simp] theorem State.updFir_fsh (h : Nat) (g : Fir → Fir) :
    (s.updFir h g).fsh = s.fsh := by unfold State.updFir; split <;> rfl
@[simp] theorem State.updFir_flash (h : Nat) (g : Fir → Fir) :
    (s.updFir h g).flash = s.flash := by unfold State.updFir; split <;> rfl
@[simp] theorem State.updFir_svnFloor (h : Nat) (g : Fir → Fir) :
    (s.updFir h g).svnFloor = s.svnFloor := by unfold State.updFir; split <;> rfl
@[simp] theorem State.updFir_emitted (h : Nat) (g : Fir → Fir) :
    (s.updFir h g).emitted = s.emitted := by unfold State.updFir; split <;> rfl
@[simp] theorem State.updFir_free (h : Nat) (g : Fir → Fir) :
    (s.updFir h g).free = s.free := by unfold State.updFir; split <;> rfl
@[simp] theorem State.updFir_pending (h : Nat) (g : Fir → Fir) :
    (s.updFir h g).pending = s.pending := by unfold State.updFir; split <;> rfl

@[simp] theorem State.updOnk_part (h : Nat) (g : Onk → Onk) :
    (s.updOnk h g).part = s.part := by unfold State.updOnk; split <;> rfl
@[simp] theorem State.updOnk_now (h : Nat) (g : Onk → Onk) :
    (s.updOnk h g).now = s.now := by unfold State.updOnk; split <;> rfl
@[simp] theorem State.updOnk_regs (h : Nat) (g : Onk → Onk) :
    (s.updOnk h g).regs = s.regs := by unfold State.updOnk; split <;> rfl
@[simp] theorem State.updOnk_act (h : Nat) (g : Onk → Onk) :
    (s.updOnk h g).act = s.act := by unfold State.updOnk; split <;> rfl
@[simp] theorem State.updOnk_aon (h : Nat) (g : Onk → Onk) :
    (s.updOnk h g).aon = s.aon := by unfold State.updOnk; split <;> rfl
@[simp] theorem State.updOnk_host (h : Nat) (g : Onk → Onk) :
    (s.updOnk h g).host = s.host := by unfold State.updOnk; split <;> rfl
@[simp] theorem State.updOnk_gkpSide (h : Nat) (g : Onk → Onk) :
    (s.updOnk h g).gkpSide = s.gkpSide := by unfold State.updOnk; split <;> rfl
@[simp] theorem State.updOnk_commits (h : Nat) (g : Onk → Onk) :
    (s.updOnk h g).commits = s.commits := by unfold State.updOnk; split <;> rfl
@[simp] theorem State.updOnk_follies (h : Nat) (g : Onk → Onk) :
    (s.updOnk h g).follies = s.follies := by unfold State.updOnk; split <;> rfl
@[simp] theorem State.updOnk_plls (h : Nat) (g : Onk → Onk) :
    (s.updOnk h g).plls = s.plls := by unfold State.updOnk; split <;> rfl
@[simp] theorem State.updOnk_pwr (h : Nat) (g : Onk → Onk) :
    (s.updOnk h g).pwr = s.pwr := by unfold State.updOnk; split <;> rfl
@[simp] theorem State.updOnk_wrd (h : Nat) (g : Onk → Onk) :
    (s.updOnk h g).wrd = s.wrd := by unfold State.updOnk; split <;> rfl
@[simp] theorem State.updOnk_bist (h : Nat) (g : Onk → Onk) :
    (s.updOnk h g).bist = s.bist := by unfold State.updOnk; split <;> rfl
@[simp] theorem State.updOnk_gbk (h : Nat) (g : Onk → Onk) :
    (s.updOnk h g).gbk = s.gbk := by unfold State.updOnk; split <;> rfl
@[simp] theorem State.updOnk_enc (h : Nat) (g : Onk → Onk) :
    (s.updOnk h g).enc = s.enc := by unfold State.updOnk; split <;> rfl
@[simp] theorem State.updOnk_sdl (h : Nat) (g : Onk → Onk) :
    (s.updOnk h g).sdl = s.sdl := by unfold State.updOnk; split <;> rfl
@[simp] theorem State.updOnk_hsc (h : Nat) (g : Onk → Onk) :
    (s.updOnk h g).hsc = s.hsc := by unfold State.updOnk; split <;> rfl
@[simp] theorem State.updOnk_trg (h : Nat) (g : Onk → Onk) :
    (s.updOnk h g).trg = s.trg := by unfold State.updOnk; split <;> rfl
@[simp] theorem State.updOnk_ref (h : Nat) (g : Onk → Onk) :
    (s.updOnk h g).ref = s.ref := by unfold State.updOnk; split <;> rfl
@[simp] theorem State.updOnk_stm (h : Nat) (g : Onk → Onk) :
    (s.updOnk h g).stm = s.stm := by unfold State.updOnk; split <;> rfl
@[simp] theorem State.updOnk_ing (h : Nat) (g : Onk → Onk) :
    (s.updOnk h g).ing = s.ing := by unfold State.updOnk; split <;> rfl
@[simp] theorem State.updOnk_trl (h : Nat) (g : Onk → Onk) :
    (s.updOnk h g).trl = s.trl := by unfold State.updOnk; split <;> rfl
@[simp] theorem State.updOnk_fir (h : Nat) (g : Onk → Onk) :
    (s.updOnk h g).fir = s.fir := by unfold State.updOnk; split <;> rfl
@[simp] theorem State.updOnk_railAt (h : Nat) (g : Onk → Onk) :
    (s.updOnk h g).railAt = s.railAt := by unfold State.updOnk; split <;> rfl
@[simp] theorem State.updOnk_tx (h : Nat) (g : Onk → Onk) :
    (s.updOnk h g).tx = s.tx := by unfold State.updOnk; split <;> rfl
@[simp] theorem State.updOnk_alerts (h : Nat) (g : Onk → Onk) :
    (s.updOnk h g).alerts = s.alerts := by unfold State.updOnk; split <;> rfl
@[simp] theorem State.updOnk_cam (h : Nat) (g : Onk → Onk) :
    (s.updOnk h g).cam = s.cam := by unfold State.updOnk; split <;> rfl
@[simp] theorem State.updOnk_blv (h : Nat) (g : Onk → Onk) :
    (s.updOnk h g).blv = s.blv := by unfold State.updOnk; split <;> rfl
@[simp] theorem State.updOnk_qlp (h : Nat) (g : Onk → Onk) :
    (s.updOnk h g).qlp = s.qlp := by unfold State.updOnk; split <;> rfl
@[simp] theorem State.updOnk_mem (h : Nat) (g : Onk → Onk) :
    (s.updOnk h g).mem = s.mem := by unfold State.updOnk; split <;> rfl
@[simp] theorem State.updOnk_poison (h : Nat) (g : Onk → Onk) :
    (s.updOnk h g).poison = s.poison := by unfold State.updOnk; split <;> rfl
@[simp] theorem State.updOnk_drc (h : Nat) (g : Onk → Onk) :
    (s.updOnk h g).drc = s.drc := by unfold State.updOnk; split <;> rfl
@[simp] theorem State.updOnk_net (h : Nat) (g : Onk → Onk) :
    (s.updOnk h g).net = s.net := by unfold State.updOnk; split <;> rfl
@[simp] theorem State.updOnk_tb (h : Nat) (g : Onk → Onk) :
    (s.updOnk h g).tb = s.tb := by unfold State.updOnk; split <;> rfl
@[simp] theorem State.updOnk_pcie (h : Nat) (g : Onk → Onk) :
    (s.updOnk h g).pcie = s.pcie := by unfold State.updOnk; split <;> rfl
@[simp] theorem State.updOnk_axes (h : Nat) (g : Onk → Onk) :
    (s.updOnk h g).axes = s.axes := by unfold State.updOnk; split <;> rfl
@[simp] theorem State.updOnk_fnt (h : Nat) (g : Onk → Onk) :
    (s.updOnk h g).fnt = s.fnt := by unfold State.updOnk; split <;> rfl
@[simp] theorem State.updOnk_mon (h : Nat) (g : Onk → Onk) :
    (s.updOnk h g).mon = s.mon := by unfold State.updOnk; split <;> rfl
@[simp] theorem State.updOnk_mechXtal (h : Nat) (g : Onk → Onk) :
    (s.updOnk h g).mechXtal = s.mechXtal := by unfold State.updOnk; split <;> rfl
@[simp] theorem State.updOnk_gth (h : Nat) (g : Onk → Onk) :
    (s.updOnk h g).gth = s.gth := by unfold State.updOnk; split <;> rfl
@[simp] theorem State.updOnk_fsh (h : Nat) (g : Onk → Onk) :
    (s.updOnk h g).fsh = s.fsh := by unfold State.updOnk; split <;> rfl
@[simp] theorem State.updOnk_flash (h : Nat) (g : Onk → Onk) :
    (s.updOnk h g).flash = s.flash := by unfold State.updOnk; split <;> rfl
@[simp] theorem State.updOnk_svnFloor (h : Nat) (g : Onk → Onk) :
    (s.updOnk h g).svnFloor = s.svnFloor := by unfold State.updOnk; split <;> rfl
@[simp] theorem State.updOnk_emitted (h : Nat) (g : Onk → Onk) :
    (s.updOnk h g).emitted = s.emitted := by unfold State.updOnk; split <;> rfl
@[simp] theorem State.updOnk_free (h : Nat) (g : Onk → Onk) :
    (s.updOnk h g).free = s.free := by unfold State.updOnk; split <;> rfl
@[simp] theorem State.updOnk_pending (h : Nat) (g : Onk → Onk) :
    (s.updOnk h g).pending = s.pending := by unfold State.updOnk; split <;> rfl

@[simp] theorem State.updCam_part (k : Nat) (g : Cam → Cam) :
    (s.updCam k g).part = s.part := by unfold State.updCam; split <;> rfl
@[simp] theorem State.updCam_now (k : Nat) (g : Cam → Cam) :
    (s.updCam k g).now = s.now := by unfold State.updCam; split <;> rfl
@[simp] theorem State.updCam_regs (k : Nat) (g : Cam → Cam) :
    (s.updCam k g).regs = s.regs := by unfold State.updCam; split <;> rfl
@[simp] theorem State.updCam_act (k : Nat) (g : Cam → Cam) :
    (s.updCam k g).act = s.act := by unfold State.updCam; split <;> rfl
@[simp] theorem State.updCam_aon (k : Nat) (g : Cam → Cam) :
    (s.updCam k g).aon = s.aon := by unfold State.updCam; split <;> rfl
@[simp] theorem State.updCam_host (k : Nat) (g : Cam → Cam) :
    (s.updCam k g).host = s.host := by unfold State.updCam; split <;> rfl
@[simp] theorem State.updCam_gkpSide (k : Nat) (g : Cam → Cam) :
    (s.updCam k g).gkpSide = s.gkpSide := by unfold State.updCam; split <;> rfl
@[simp] theorem State.updCam_commits (k : Nat) (g : Cam → Cam) :
    (s.updCam k g).commits = s.commits := by unfold State.updCam; split <;> rfl
@[simp] theorem State.updCam_follies (k : Nat) (g : Cam → Cam) :
    (s.updCam k g).follies = s.follies := by unfold State.updCam; split <;> rfl
@[simp] theorem State.updCam_plls (k : Nat) (g : Cam → Cam) :
    (s.updCam k g).plls = s.plls := by unfold State.updCam; split <;> rfl
@[simp] theorem State.updCam_pwr (k : Nat) (g : Cam → Cam) :
    (s.updCam k g).pwr = s.pwr := by unfold State.updCam; split <;> rfl
@[simp] theorem State.updCam_wrd (k : Nat) (g : Cam → Cam) :
    (s.updCam k g).wrd = s.wrd := by unfold State.updCam; split <;> rfl
@[simp] theorem State.updCam_bist (k : Nat) (g : Cam → Cam) :
    (s.updCam k g).bist = s.bist := by unfold State.updCam; split <;> rfl
@[simp] theorem State.updCam_gbk (k : Nat) (g : Cam → Cam) :
    (s.updCam k g).gbk = s.gbk := by unfold State.updCam; split <;> rfl
@[simp] theorem State.updCam_enc (k : Nat) (g : Cam → Cam) :
    (s.updCam k g).enc = s.enc := by unfold State.updCam; split <;> rfl
@[simp] theorem State.updCam_sdl (k : Nat) (g : Cam → Cam) :
    (s.updCam k g).sdl = s.sdl := by unfold State.updCam; split <;> rfl
@[simp] theorem State.updCam_hsc (k : Nat) (g : Cam → Cam) :
    (s.updCam k g).hsc = s.hsc := by unfold State.updCam; split <;> rfl
@[simp] theorem State.updCam_trg (k : Nat) (g : Cam → Cam) :
    (s.updCam k g).trg = s.trg := by unfold State.updCam; split <;> rfl
@[simp] theorem State.updCam_ref (k : Nat) (g : Cam → Cam) :
    (s.updCam k g).ref = s.ref := by unfold State.updCam; split <;> rfl
@[simp] theorem State.updCam_stm (k : Nat) (g : Cam → Cam) :
    (s.updCam k g).stm = s.stm := by unfold State.updCam; split <;> rfl
@[simp] theorem State.updCam_ing (k : Nat) (g : Cam → Cam) :
    (s.updCam k g).ing = s.ing := by unfold State.updCam; split <;> rfl
@[simp] theorem State.updCam_trl (k : Nat) (g : Cam → Cam) :
    (s.updCam k g).trl = s.trl := by unfold State.updCam; split <;> rfl
@[simp] theorem State.updCam_fir (k : Nat) (g : Cam → Cam) :
    (s.updCam k g).fir = s.fir := by unfold State.updCam; split <;> rfl
@[simp] theorem State.updCam_railAt (k : Nat) (g : Cam → Cam) :
    (s.updCam k g).railAt = s.railAt := by unfold State.updCam; split <;> rfl
@[simp] theorem State.updCam_onk (k : Nat) (g : Cam → Cam) :
    (s.updCam k g).onk = s.onk := by unfold State.updCam; split <;> rfl
@[simp] theorem State.updCam_tx (k : Nat) (g : Cam → Cam) :
    (s.updCam k g).tx = s.tx := by unfold State.updCam; split <;> rfl
@[simp] theorem State.updCam_alerts (k : Nat) (g : Cam → Cam) :
    (s.updCam k g).alerts = s.alerts := by unfold State.updCam; split <;> rfl
@[simp] theorem State.updCam_blv (k : Nat) (g : Cam → Cam) :
    (s.updCam k g).blv = s.blv := by unfold State.updCam; split <;> rfl
@[simp] theorem State.updCam_qlp (k : Nat) (g : Cam → Cam) :
    (s.updCam k g).qlp = s.qlp := by unfold State.updCam; split <;> rfl
@[simp] theorem State.updCam_mem (k : Nat) (g : Cam → Cam) :
    (s.updCam k g).mem = s.mem := by unfold State.updCam; split <;> rfl
@[simp] theorem State.updCam_poison (k : Nat) (g : Cam → Cam) :
    (s.updCam k g).poison = s.poison := by unfold State.updCam; split <;> rfl
@[simp] theorem State.updCam_drc (k : Nat) (g : Cam → Cam) :
    (s.updCam k g).drc = s.drc := by unfold State.updCam; split <;> rfl
@[simp] theorem State.updCam_net (k : Nat) (g : Cam → Cam) :
    (s.updCam k g).net = s.net := by unfold State.updCam; split <;> rfl
@[simp] theorem State.updCam_tb (k : Nat) (g : Cam → Cam) :
    (s.updCam k g).tb = s.tb := by unfold State.updCam; split <;> rfl
@[simp] theorem State.updCam_pcie (k : Nat) (g : Cam → Cam) :
    (s.updCam k g).pcie = s.pcie := by unfold State.updCam; split <;> rfl
@[simp] theorem State.updCam_axes (k : Nat) (g : Cam → Cam) :
    (s.updCam k g).axes = s.axes := by unfold State.updCam; split <;> rfl
@[simp] theorem State.updCam_fnt (k : Nat) (g : Cam → Cam) :
    (s.updCam k g).fnt = s.fnt := by unfold State.updCam; split <;> rfl
@[simp] theorem State.updCam_mon (k : Nat) (g : Cam → Cam) :
    (s.updCam k g).mon = s.mon := by unfold State.updCam; split <;> rfl
@[simp] theorem State.updCam_mechXtal (k : Nat) (g : Cam → Cam) :
    (s.updCam k g).mechXtal = s.mechXtal := by unfold State.updCam; split <;> rfl
@[simp] theorem State.updCam_gth (k : Nat) (g : Cam → Cam) :
    (s.updCam k g).gth = s.gth := by unfold State.updCam; split <;> rfl
@[simp] theorem State.updCam_fsh (k : Nat) (g : Cam → Cam) :
    (s.updCam k g).fsh = s.fsh := by unfold State.updCam; split <;> rfl
@[simp] theorem State.updCam_flash (k : Nat) (g : Cam → Cam) :
    (s.updCam k g).flash = s.flash := by unfold State.updCam; split <;> rfl
@[simp] theorem State.updCam_svnFloor (k : Nat) (g : Cam → Cam) :
    (s.updCam k g).svnFloor = s.svnFloor := by unfold State.updCam; split <;> rfl
@[simp] theorem State.updCam_emitted (k : Nat) (g : Cam → Cam) :
    (s.updCam k g).emitted = s.emitted := by unfold State.updCam; split <;> rfl
@[simp] theorem State.updCam_free (k : Nat) (g : Cam → Cam) :
    (s.updCam k g).free = s.free := by unfold State.updCam; split <;> rfl
@[simp] theorem State.updCam_pending (k : Nat) (g : Cam → Cam) :
    (s.updCam k g).pending = s.pending := by unfold State.updCam; split <;> rfl

@[simp] theorem State.updAxis_part (a : Nat) (g : Axis → Axis) :
    (s.updAxis a g).part = s.part := by unfold State.updAxis; split <;> rfl
@[simp] theorem State.updAxis_now (a : Nat) (g : Axis → Axis) :
    (s.updAxis a g).now = s.now := by unfold State.updAxis; split <;> rfl
@[simp] theorem State.updAxis_regs (a : Nat) (g : Axis → Axis) :
    (s.updAxis a g).regs = s.regs := by unfold State.updAxis; split <;> rfl
@[simp] theorem State.updAxis_act (a : Nat) (g : Axis → Axis) :
    (s.updAxis a g).act = s.act := by unfold State.updAxis; split <;> rfl
@[simp] theorem State.updAxis_aon (a : Nat) (g : Axis → Axis) :
    (s.updAxis a g).aon = s.aon := by unfold State.updAxis; split <;> rfl
@[simp] theorem State.updAxis_host (a : Nat) (g : Axis → Axis) :
    (s.updAxis a g).host = s.host := by unfold State.updAxis; split <;> rfl
@[simp] theorem State.updAxis_gkpSide (a : Nat) (g : Axis → Axis) :
    (s.updAxis a g).gkpSide = s.gkpSide := by unfold State.updAxis; split <;> rfl
@[simp] theorem State.updAxis_commits (a : Nat) (g : Axis → Axis) :
    (s.updAxis a g).commits = s.commits := by unfold State.updAxis; split <;> rfl
@[simp] theorem State.updAxis_follies (a : Nat) (g : Axis → Axis) :
    (s.updAxis a g).follies = s.follies := by unfold State.updAxis; split <;> rfl
@[simp] theorem State.updAxis_plls (a : Nat) (g : Axis → Axis) :
    (s.updAxis a g).plls = s.plls := by unfold State.updAxis; split <;> rfl
@[simp] theorem State.updAxis_pwr (a : Nat) (g : Axis → Axis) :
    (s.updAxis a g).pwr = s.pwr := by unfold State.updAxis; split <;> rfl
@[simp] theorem State.updAxis_wrd (a : Nat) (g : Axis → Axis) :
    (s.updAxis a g).wrd = s.wrd := by unfold State.updAxis; split <;> rfl
@[simp] theorem State.updAxis_bist (a : Nat) (g : Axis → Axis) :
    (s.updAxis a g).bist = s.bist := by unfold State.updAxis; split <;> rfl
@[simp] theorem State.updAxis_gbk (a : Nat) (g : Axis → Axis) :
    (s.updAxis a g).gbk = s.gbk := by unfold State.updAxis; split <;> rfl
@[simp] theorem State.updAxis_enc (a : Nat) (g : Axis → Axis) :
    (s.updAxis a g).enc = s.enc := by unfold State.updAxis; split <;> rfl
@[simp] theorem State.updAxis_sdl (a : Nat) (g : Axis → Axis) :
    (s.updAxis a g).sdl = s.sdl := by unfold State.updAxis; split <;> rfl
@[simp] theorem State.updAxis_hsc (a : Nat) (g : Axis → Axis) :
    (s.updAxis a g).hsc = s.hsc := by unfold State.updAxis; split <;> rfl
@[simp] theorem State.updAxis_trg (a : Nat) (g : Axis → Axis) :
    (s.updAxis a g).trg = s.trg := by unfold State.updAxis; split <;> rfl
@[simp] theorem State.updAxis_ref (a : Nat) (g : Axis → Axis) :
    (s.updAxis a g).ref = s.ref := by unfold State.updAxis; split <;> rfl
@[simp] theorem State.updAxis_stm (a : Nat) (g : Axis → Axis) :
    (s.updAxis a g).stm = s.stm := by unfold State.updAxis; split <;> rfl
@[simp] theorem State.updAxis_ing (a : Nat) (g : Axis → Axis) :
    (s.updAxis a g).ing = s.ing := by unfold State.updAxis; split <;> rfl
@[simp] theorem State.updAxis_trl (a : Nat) (g : Axis → Axis) :
    (s.updAxis a g).trl = s.trl := by unfold State.updAxis; split <;> rfl
@[simp] theorem State.updAxis_fir (a : Nat) (g : Axis → Axis) :
    (s.updAxis a g).fir = s.fir := by unfold State.updAxis; split <;> rfl
@[simp] theorem State.updAxis_railAt (a : Nat) (g : Axis → Axis) :
    (s.updAxis a g).railAt = s.railAt := by unfold State.updAxis; split <;> rfl
@[simp] theorem State.updAxis_onk (a : Nat) (g : Axis → Axis) :
    (s.updAxis a g).onk = s.onk := by unfold State.updAxis; split <;> rfl
@[simp] theorem State.updAxis_tx (a : Nat) (g : Axis → Axis) :
    (s.updAxis a g).tx = s.tx := by unfold State.updAxis; split <;> rfl
@[simp] theorem State.updAxis_alerts (a : Nat) (g : Axis → Axis) :
    (s.updAxis a g).alerts = s.alerts := by unfold State.updAxis; split <;> rfl
@[simp] theorem State.updAxis_cam (a : Nat) (g : Axis → Axis) :
    (s.updAxis a g).cam = s.cam := by unfold State.updAxis; split <;> rfl
@[simp] theorem State.updAxis_blv (a : Nat) (g : Axis → Axis) :
    (s.updAxis a g).blv = s.blv := by unfold State.updAxis; split <;> rfl
@[simp] theorem State.updAxis_qlp (a : Nat) (g : Axis → Axis) :
    (s.updAxis a g).qlp = s.qlp := by unfold State.updAxis; split <;> rfl
@[simp] theorem State.updAxis_mem (a : Nat) (g : Axis → Axis) :
    (s.updAxis a g).mem = s.mem := by unfold State.updAxis; split <;> rfl
@[simp] theorem State.updAxis_poison (a : Nat) (g : Axis → Axis) :
    (s.updAxis a g).poison = s.poison := by unfold State.updAxis; split <;> rfl
@[simp] theorem State.updAxis_drc (a : Nat) (g : Axis → Axis) :
    (s.updAxis a g).drc = s.drc := by unfold State.updAxis; split <;> rfl
@[simp] theorem State.updAxis_net (a : Nat) (g : Axis → Axis) :
    (s.updAxis a g).net = s.net := by unfold State.updAxis; split <;> rfl
@[simp] theorem State.updAxis_tb (a : Nat) (g : Axis → Axis) :
    (s.updAxis a g).tb = s.tb := by unfold State.updAxis; split <;> rfl
@[simp] theorem State.updAxis_pcie (a : Nat) (g : Axis → Axis) :
    (s.updAxis a g).pcie = s.pcie := by unfold State.updAxis; split <;> rfl
@[simp] theorem State.updAxis_fnt (a : Nat) (g : Axis → Axis) :
    (s.updAxis a g).fnt = s.fnt := by unfold State.updAxis; split <;> rfl
@[simp] theorem State.updAxis_mon (a : Nat) (g : Axis → Axis) :
    (s.updAxis a g).mon = s.mon := by unfold State.updAxis; split <;> rfl
@[simp] theorem State.updAxis_mechXtal (a : Nat) (g : Axis → Axis) :
    (s.updAxis a g).mechXtal = s.mechXtal := by unfold State.updAxis; split <;> rfl
@[simp] theorem State.updAxis_gth (a : Nat) (g : Axis → Axis) :
    (s.updAxis a g).gth = s.gth := by unfold State.updAxis; split <;> rfl
@[simp] theorem State.updAxis_fsh (a : Nat) (g : Axis → Axis) :
    (s.updAxis a g).fsh = s.fsh := by unfold State.updAxis; split <;> rfl
@[simp] theorem State.updAxis_flash (a : Nat) (g : Axis → Axis) :
    (s.updAxis a g).flash = s.flash := by unfold State.updAxis; split <;> rfl
@[simp] theorem State.updAxis_svnFloor (a : Nat) (g : Axis → Axis) :
    (s.updAxis a g).svnFloor = s.svnFloor := by unfold State.updAxis; split <;> rfl
@[simp] theorem State.updAxis_emitted (a : Nat) (g : Axis → Axis) :
    (s.updAxis a g).emitted = s.emitted := by unfold State.updAxis; split <;> rfl
@[simp] theorem State.updAxis_free (a : Nat) (g : Axis → Axis) :
    (s.updAxis a g).free = s.free := by unfold State.updAxis; split <;> rfl
@[simp] theorem State.updAxis_pending (a : Nat) (g : Axis → Axis) :
    (s.updAxis a g).pending = s.pending := by unfold State.updAxis; split <;> rfl

@[simp] theorem State.setPll_part (n : Nat) (p : Pll) :
    (s.setPll n p).part = s.part := by unfold State.setPll; split <;> rfl
@[simp] theorem State.setPll_now (n : Nat) (p : Pll) :
    (s.setPll n p).now = s.now := by unfold State.setPll; split <;> rfl
@[simp] theorem State.setPll_regs (n : Nat) (p : Pll) :
    (s.setPll n p).regs = s.regs := by unfold State.setPll; split <;> rfl
@[simp] theorem State.setPll_act (n : Nat) (p : Pll) :
    (s.setPll n p).act = s.act := by unfold State.setPll; split <;> rfl
@[simp] theorem State.setPll_aon (n : Nat) (p : Pll) :
    (s.setPll n p).aon = s.aon := by unfold State.setPll; split <;> rfl
@[simp] theorem State.setPll_host (n : Nat) (p : Pll) :
    (s.setPll n p).host = s.host := by unfold State.setPll; split <;> rfl
@[simp] theorem State.setPll_gkpSide (n : Nat) (p : Pll) :
    (s.setPll n p).gkpSide = s.gkpSide := by unfold State.setPll; split <;> rfl
@[simp] theorem State.setPll_commits (n : Nat) (p : Pll) :
    (s.setPll n p).commits = s.commits := by unfold State.setPll; split <;> rfl
@[simp] theorem State.setPll_follies (n : Nat) (p : Pll) :
    (s.setPll n p).follies = s.follies := by unfold State.setPll; split <;> rfl
@[simp] theorem State.setPll_pwr (n : Nat) (p : Pll) :
    (s.setPll n p).pwr = s.pwr := by unfold State.setPll; split <;> rfl
@[simp] theorem State.setPll_wrd (n : Nat) (p : Pll) :
    (s.setPll n p).wrd = s.wrd := by unfold State.setPll; split <;> rfl
@[simp] theorem State.setPll_bist (n : Nat) (p : Pll) :
    (s.setPll n p).bist = s.bist := by unfold State.setPll; split <;> rfl
@[simp] theorem State.setPll_gbk (n : Nat) (p : Pll) :
    (s.setPll n p).gbk = s.gbk := by unfold State.setPll; split <;> rfl
@[simp] theorem State.setPll_enc (n : Nat) (p : Pll) :
    (s.setPll n p).enc = s.enc := by unfold State.setPll; split <;> rfl
@[simp] theorem State.setPll_sdl (n : Nat) (p : Pll) :
    (s.setPll n p).sdl = s.sdl := by unfold State.setPll; split <;> rfl
@[simp] theorem State.setPll_hsc (n : Nat) (p : Pll) :
    (s.setPll n p).hsc = s.hsc := by unfold State.setPll; split <;> rfl
@[simp] theorem State.setPll_trg (n : Nat) (p : Pll) :
    (s.setPll n p).trg = s.trg := by unfold State.setPll; split <;> rfl
@[simp] theorem State.setPll_ref (n : Nat) (p : Pll) :
    (s.setPll n p).ref = s.ref := by unfold State.setPll; split <;> rfl
@[simp] theorem State.setPll_stm (n : Nat) (p : Pll) :
    (s.setPll n p).stm = s.stm := by unfold State.setPll; split <;> rfl
@[simp] theorem State.setPll_ing (n : Nat) (p : Pll) :
    (s.setPll n p).ing = s.ing := by unfold State.setPll; split <;> rfl
@[simp] theorem State.setPll_trl (n : Nat) (p : Pll) :
    (s.setPll n p).trl = s.trl := by unfold State.setPll; split <;> rfl
@[simp] theorem State.setPll_fir (n : Nat) (p : Pll) :
    (s.setPll n p).fir = s.fir := by unfold State.setPll; split <;> rfl
@[simp] theorem State.setPll_railAt (n : Nat) (p : Pll) :
    (s.setPll n p).railAt = s.railAt := by unfold State.setPll; split <;> rfl
@[simp] theorem State.setPll_onk (n : Nat) (p : Pll) :
    (s.setPll n p).onk = s.onk := by unfold State.setPll; split <;> rfl
@[simp] theorem State.setPll_tx (n : Nat) (p : Pll) :
    (s.setPll n p).tx = s.tx := by unfold State.setPll; split <;> rfl
@[simp] theorem State.setPll_alerts (n : Nat) (p : Pll) :
    (s.setPll n p).alerts = s.alerts := by unfold State.setPll; split <;> rfl
@[simp] theorem State.setPll_cam (n : Nat) (p : Pll) :
    (s.setPll n p).cam = s.cam := by unfold State.setPll; split <;> rfl
@[simp] theorem State.setPll_blv (n : Nat) (p : Pll) :
    (s.setPll n p).blv = s.blv := by unfold State.setPll; split <;> rfl
@[simp] theorem State.setPll_qlp (n : Nat) (p : Pll) :
    (s.setPll n p).qlp = s.qlp := by unfold State.setPll; split <;> rfl
@[simp] theorem State.setPll_mem (n : Nat) (p : Pll) :
    (s.setPll n p).mem = s.mem := by unfold State.setPll; split <;> rfl
@[simp] theorem State.setPll_poison (n : Nat) (p : Pll) :
    (s.setPll n p).poison = s.poison := by unfold State.setPll; split <;> rfl
@[simp] theorem State.setPll_drc (n : Nat) (p : Pll) :
    (s.setPll n p).drc = s.drc := by unfold State.setPll; split <;> rfl
@[simp] theorem State.setPll_net (n : Nat) (p : Pll) :
    (s.setPll n p).net = s.net := by unfold State.setPll; split <;> rfl
@[simp] theorem State.setPll_tb (n : Nat) (p : Pll) :
    (s.setPll n p).tb = s.tb := by unfold State.setPll; split <;> rfl
@[simp] theorem State.setPll_pcie (n : Nat) (p : Pll) :
    (s.setPll n p).pcie = s.pcie := by unfold State.setPll; split <;> rfl
@[simp] theorem State.setPll_axes (n : Nat) (p : Pll) :
    (s.setPll n p).axes = s.axes := by unfold State.setPll; split <;> rfl
@[simp] theorem State.setPll_fnt (n : Nat) (p : Pll) :
    (s.setPll n p).fnt = s.fnt := by unfold State.setPll; split <;> rfl
@[simp] theorem State.setPll_mon (n : Nat) (p : Pll) :
    (s.setPll n p).mon = s.mon := by unfold State.setPll; split <;> rfl
@[simp] theorem State.setPll_mechXtal (n : Nat) (p : Pll) :
    (s.setPll n p).mechXtal = s.mechXtal := by unfold State.setPll; split <;> rfl
@[simp] theorem State.setPll_gth (n : Nat) (p : Pll) :
    (s.setPll n p).gth = s.gth := by unfold State.setPll; split <;> rfl
@[simp] theorem State.setPll_fsh (n : Nat) (p : Pll) :
    (s.setPll n p).fsh = s.fsh := by unfold State.setPll; split <;> rfl
@[simp] theorem State.setPll_flash (n : Nat) (p : Pll) :
    (s.setPll n p).flash = s.flash := by unfold State.setPll; split <;> rfl
@[simp] theorem State.setPll_svnFloor (n : Nat) (p : Pll) :
    (s.setPll n p).svnFloor = s.svnFloor := by unfold State.setPll; split <;> rfl
@[simp] theorem State.setPll_emitted (n : Nat) (p : Pll) :
    (s.setPll n p).emitted = s.emitted := by unfold State.setPll; split <;> rfl
@[simp] theorem State.setPll_free (n : Nat) (p : Pll) :
    (s.setPll n p).free = s.free := by unfold State.setPll; split <;> rfl
@[simp] theorem State.setPll_pending (n : Nat) (p : Pll) :
    (s.setPll n p).pending = s.pending := by unfold State.setPll; split <;> rfl

@[simp] theorem State.updAlert_part (j : Fin 8) (g : Alert → Alert) : (s.updAlert j g).part = s.part := rfl
@[simp] theorem State.updAlert_now (j : Fin 8) (g : Alert → Alert) : (s.updAlert j g).now = s.now := rfl
@[simp] theorem State.updAlert_regs (j : Fin 8) (g : Alert → Alert) : (s.updAlert j g).regs = s.regs := rfl
@[simp] theorem State.updAlert_act (j : Fin 8) (g : Alert → Alert) : (s.updAlert j g).act = s.act := rfl
@[simp] theorem State.updAlert_aon (j : Fin 8) (g : Alert → Alert) : (s.updAlert j g).aon = s.aon := rfl
@[simp] theorem State.updAlert_host (j : Fin 8) (g : Alert → Alert) : (s.updAlert j g).host = s.host := rfl
@[simp] theorem State.updAlert_gkpSide (j : Fin 8) (g : Alert → Alert) :
    (s.updAlert j g).gkpSide = s.gkpSide := rfl
@[simp] theorem State.updAlert_commits (j : Fin 8) (g : Alert → Alert) :
    (s.updAlert j g).commits = s.commits := rfl
@[simp] theorem State.updAlert_follies (j : Fin 8) (g : Alert → Alert) :
    (s.updAlert j g).follies = s.follies := rfl
@[simp] theorem State.updAlert_plls (j : Fin 8) (g : Alert → Alert) : (s.updAlert j g).plls = s.plls := rfl
@[simp] theorem State.updAlert_pwr (j : Fin 8) (g : Alert → Alert) : (s.updAlert j g).pwr = s.pwr := rfl
@[simp] theorem State.updAlert_wrd (j : Fin 8) (g : Alert → Alert) : (s.updAlert j g).wrd = s.wrd := rfl
@[simp] theorem State.updAlert_bist (j : Fin 8) (g : Alert → Alert) : (s.updAlert j g).bist = s.bist := rfl
@[simp] theorem State.updAlert_gbk (j : Fin 8) (g : Alert → Alert) : (s.updAlert j g).gbk = s.gbk := rfl
@[simp] theorem State.updAlert_enc (j : Fin 8) (g : Alert → Alert) : (s.updAlert j g).enc = s.enc := rfl
@[simp] theorem State.updAlert_sdl (j : Fin 8) (g : Alert → Alert) : (s.updAlert j g).sdl = s.sdl := rfl
@[simp] theorem State.updAlert_hsc (j : Fin 8) (g : Alert → Alert) : (s.updAlert j g).hsc = s.hsc := rfl
@[simp] theorem State.updAlert_trg (j : Fin 8) (g : Alert → Alert) : (s.updAlert j g).trg = s.trg := rfl
@[simp] theorem State.updAlert_ref (j : Fin 8) (g : Alert → Alert) : (s.updAlert j g).ref = s.ref := rfl
@[simp] theorem State.updAlert_stm (j : Fin 8) (g : Alert → Alert) : (s.updAlert j g).stm = s.stm := rfl
@[simp] theorem State.updAlert_ing (j : Fin 8) (g : Alert → Alert) : (s.updAlert j g).ing = s.ing := rfl
@[simp] theorem State.updAlert_trl (j : Fin 8) (g : Alert → Alert) : (s.updAlert j g).trl = s.trl := rfl
@[simp] theorem State.updAlert_fir (j : Fin 8) (g : Alert → Alert) : (s.updAlert j g).fir = s.fir := rfl
@[simp] theorem State.updAlert_railAt (j : Fin 8) (g : Alert → Alert) :
    (s.updAlert j g).railAt = s.railAt := rfl
@[simp] theorem State.updAlert_onk (j : Fin 8) (g : Alert → Alert) : (s.updAlert j g).onk = s.onk := rfl
@[simp] theorem State.updAlert_tx (j : Fin 8) (g : Alert → Alert) : (s.updAlert j g).tx = s.tx := rfl
@[simp] theorem State.updAlert_cam (j : Fin 8) (g : Alert → Alert) : (s.updAlert j g).cam = s.cam := rfl
@[simp] theorem State.updAlert_blv (j : Fin 8) (g : Alert → Alert) : (s.updAlert j g).blv = s.blv := rfl
@[simp] theorem State.updAlert_qlp (j : Fin 8) (g : Alert → Alert) : (s.updAlert j g).qlp = s.qlp := rfl
@[simp] theorem State.updAlert_mem (j : Fin 8) (g : Alert → Alert) : (s.updAlert j g).mem = s.mem := rfl
@[simp] theorem State.updAlert_poison (j : Fin 8) (g : Alert → Alert) :
    (s.updAlert j g).poison = s.poison := rfl
@[simp] theorem State.updAlert_drc (j : Fin 8) (g : Alert → Alert) : (s.updAlert j g).drc = s.drc := rfl
@[simp] theorem State.updAlert_net (j : Fin 8) (g : Alert → Alert) : (s.updAlert j g).net = s.net := rfl
@[simp] theorem State.updAlert_tb (j : Fin 8) (g : Alert → Alert) : (s.updAlert j g).tb = s.tb := rfl
@[simp] theorem State.updAlert_pcie (j : Fin 8) (g : Alert → Alert) : (s.updAlert j g).pcie = s.pcie := rfl
@[simp] theorem State.updAlert_axes (j : Fin 8) (g : Alert → Alert) : (s.updAlert j g).axes = s.axes := rfl
@[simp] theorem State.updAlert_fnt (j : Fin 8) (g : Alert → Alert) : (s.updAlert j g).fnt = s.fnt := rfl
@[simp] theorem State.updAlert_mon (j : Fin 8) (g : Alert → Alert) : (s.updAlert j g).mon = s.mon := rfl
@[simp] theorem State.updAlert_mechXtal (j : Fin 8) (g : Alert → Alert) :
    (s.updAlert j g).mechXtal = s.mechXtal := rfl
@[simp] theorem State.updAlert_gth (j : Fin 8) (g : Alert → Alert) : (s.updAlert j g).gth = s.gth := rfl
@[simp] theorem State.updAlert_fsh (j : Fin 8) (g : Alert → Alert) : (s.updAlert j g).fsh = s.fsh := rfl
@[simp] theorem State.updAlert_flash (j : Fin 8) (g : Alert → Alert) :
    (s.updAlert j g).flash = s.flash := rfl
@[simp] theorem State.updAlert_svnFloor (j : Fin 8) (g : Alert → Alert) :
    (s.updAlert j g).svnFloor = s.svnFloor := rfl
@[simp] theorem State.updAlert_emitted (j : Fin 8) (g : Alert → Alert) :
    (s.updAlert j g).emitted = s.emitted := rfl
@[simp] theorem State.updAlert_free (j : Fin 8) (g : Alert → Alert) : (s.updAlert j g).free = s.free := rfl
@[simp] theorem State.updAlert_pending (j : Fin 8) (g : Alert → Alert) :
    (s.updAlert j g).pending = s.pending := rfl

@[simp] theorem State.updStm_part (i : Fin 4) (g : Stream → Stream) : (s.updStm i g).part = s.part := rfl
@[simp] theorem State.updStm_now (i : Fin 4) (g : Stream → Stream) : (s.updStm i g).now = s.now := rfl
@[simp] theorem State.updStm_regs (i : Fin 4) (g : Stream → Stream) : (s.updStm i g).regs = s.regs := rfl
@[simp] theorem State.updStm_act (i : Fin 4) (g : Stream → Stream) : (s.updStm i g).act = s.act := rfl
@[simp] theorem State.updStm_aon (i : Fin 4) (g : Stream → Stream) : (s.updStm i g).aon = s.aon := rfl
@[simp] theorem State.updStm_host (i : Fin 4) (g : Stream → Stream) : (s.updStm i g).host = s.host := rfl
@[simp] theorem State.updStm_gkpSide (i : Fin 4) (g : Stream → Stream) :
    (s.updStm i g).gkpSide = s.gkpSide := rfl
@[simp] theorem State.updStm_commits (i : Fin 4) (g : Stream → Stream) :
    (s.updStm i g).commits = s.commits := rfl
@[simp] theorem State.updStm_follies (i : Fin 4) (g : Stream → Stream) :
    (s.updStm i g).follies = s.follies := rfl
@[simp] theorem State.updStm_plls (i : Fin 4) (g : Stream → Stream) : (s.updStm i g).plls = s.plls := rfl
@[simp] theorem State.updStm_pwr (i : Fin 4) (g : Stream → Stream) : (s.updStm i g).pwr = s.pwr := rfl
@[simp] theorem State.updStm_wrd (i : Fin 4) (g : Stream → Stream) : (s.updStm i g).wrd = s.wrd := rfl
@[simp] theorem State.updStm_bist (i : Fin 4) (g : Stream → Stream) : (s.updStm i g).bist = s.bist := rfl
@[simp] theorem State.updStm_gbk (i : Fin 4) (g : Stream → Stream) : (s.updStm i g).gbk = s.gbk := rfl
@[simp] theorem State.updStm_enc (i : Fin 4) (g : Stream → Stream) : (s.updStm i g).enc = s.enc := rfl
@[simp] theorem State.updStm_sdl (i : Fin 4) (g : Stream → Stream) : (s.updStm i g).sdl = s.sdl := rfl
@[simp] theorem State.updStm_hsc (i : Fin 4) (g : Stream → Stream) : (s.updStm i g).hsc = s.hsc := rfl
@[simp] theorem State.updStm_trg (i : Fin 4) (g : Stream → Stream) : (s.updStm i g).trg = s.trg := rfl
@[simp] theorem State.updStm_ref (i : Fin 4) (g : Stream → Stream) : (s.updStm i g).ref = s.ref := rfl
@[simp] theorem State.updStm_ing (i : Fin 4) (g : Stream → Stream) : (s.updStm i g).ing = s.ing := rfl
@[simp] theorem State.updStm_trl (i : Fin 4) (g : Stream → Stream) : (s.updStm i g).trl = s.trl := rfl
@[simp] theorem State.updStm_fir (i : Fin 4) (g : Stream → Stream) : (s.updStm i g).fir = s.fir := rfl
@[simp] theorem State.updStm_railAt (i : Fin 4) (g : Stream → Stream) :
    (s.updStm i g).railAt = s.railAt := rfl
@[simp] theorem State.updStm_onk (i : Fin 4) (g : Stream → Stream) : (s.updStm i g).onk = s.onk := rfl
@[simp] theorem State.updStm_tx (i : Fin 4) (g : Stream → Stream) : (s.updStm i g).tx = s.tx := rfl
@[simp] theorem State.updStm_alerts (i : Fin 4) (g : Stream → Stream) :
    (s.updStm i g).alerts = s.alerts := rfl
@[simp] theorem State.updStm_cam (i : Fin 4) (g : Stream → Stream) : (s.updStm i g).cam = s.cam := rfl
@[simp] theorem State.updStm_blv (i : Fin 4) (g : Stream → Stream) : (s.updStm i g).blv = s.blv := rfl
@[simp] theorem State.updStm_qlp (i : Fin 4) (g : Stream → Stream) : (s.updStm i g).qlp = s.qlp := rfl
@[simp] theorem State.updStm_mem (i : Fin 4) (g : Stream → Stream) : (s.updStm i g).mem = s.mem := rfl
@[simp] theorem State.updStm_poison (i : Fin 4) (g : Stream → Stream) :
    (s.updStm i g).poison = s.poison := rfl
@[simp] theorem State.updStm_drc (i : Fin 4) (g : Stream → Stream) : (s.updStm i g).drc = s.drc := rfl
@[simp] theorem State.updStm_net (i : Fin 4) (g : Stream → Stream) : (s.updStm i g).net = s.net := rfl
@[simp] theorem State.updStm_tb (i : Fin 4) (g : Stream → Stream) : (s.updStm i g).tb = s.tb := rfl
@[simp] theorem State.updStm_pcie (i : Fin 4) (g : Stream → Stream) : (s.updStm i g).pcie = s.pcie := rfl
@[simp] theorem State.updStm_axes (i : Fin 4) (g : Stream → Stream) : (s.updStm i g).axes = s.axes := rfl
@[simp] theorem State.updStm_fnt (i : Fin 4) (g : Stream → Stream) : (s.updStm i g).fnt = s.fnt := rfl
@[simp] theorem State.updStm_mon (i : Fin 4) (g : Stream → Stream) : (s.updStm i g).mon = s.mon := rfl
@[simp] theorem State.updStm_mechXtal (i : Fin 4) (g : Stream → Stream) :
    (s.updStm i g).mechXtal = s.mechXtal := rfl
@[simp] theorem State.updStm_gth (i : Fin 4) (g : Stream → Stream) : (s.updStm i g).gth = s.gth := rfl
@[simp] theorem State.updStm_fsh (i : Fin 4) (g : Stream → Stream) : (s.updStm i g).fsh = s.fsh := rfl
@[simp] theorem State.updStm_flash (i : Fin 4) (g : Stream → Stream) : (s.updStm i g).flash = s.flash := rfl
@[simp] theorem State.updStm_svnFloor (i : Fin 4) (g : Stream → Stream) :
    (s.updStm i g).svnFloor = s.svnFloor := rfl
@[simp] theorem State.updStm_emitted (i : Fin 4) (g : Stream → Stream) :
    (s.updStm i g).emitted = s.emitted := rfl
@[simp] theorem State.updStm_free (i : Fin 4) (g : Stream → Stream) : (s.updStm i g).free = s.free := rfl
@[simp] theorem State.updStm_pending (i : Fin 4) (g : Stream → Stream) :
    (s.updStm i g).pending = s.pending := rfl

@[simp] theorem State.updIng_part (g : Ingest → Ingest) : (s.updIng g).part = s.part := rfl
@[simp] theorem State.updIng_now (g : Ingest → Ingest) : (s.updIng g).now = s.now := rfl
@[simp] theorem State.updIng_regs (g : Ingest → Ingest) : (s.updIng g).regs = s.regs := rfl
@[simp] theorem State.updIng_act (g : Ingest → Ingest) : (s.updIng g).act = s.act := rfl
@[simp] theorem State.updIng_aon (g : Ingest → Ingest) : (s.updIng g).aon = s.aon := rfl
@[simp] theorem State.updIng_host (g : Ingest → Ingest) : (s.updIng g).host = s.host := rfl
@[simp] theorem State.updIng_gkpSide (g : Ingest → Ingest) : (s.updIng g).gkpSide = s.gkpSide := rfl
@[simp] theorem State.updIng_commits (g : Ingest → Ingest) : (s.updIng g).commits = s.commits := rfl
@[simp] theorem State.updIng_follies (g : Ingest → Ingest) : (s.updIng g).follies = s.follies := rfl
@[simp] theorem State.updIng_plls (g : Ingest → Ingest) : (s.updIng g).plls = s.plls := rfl
@[simp] theorem State.updIng_pwr (g : Ingest → Ingest) : (s.updIng g).pwr = s.pwr := rfl
@[simp] theorem State.updIng_wrd (g : Ingest → Ingest) : (s.updIng g).wrd = s.wrd := rfl
@[simp] theorem State.updIng_bist (g : Ingest → Ingest) : (s.updIng g).bist = s.bist := rfl
@[simp] theorem State.updIng_gbk (g : Ingest → Ingest) : (s.updIng g).gbk = s.gbk := rfl
@[simp] theorem State.updIng_enc (g : Ingest → Ingest) : (s.updIng g).enc = s.enc := rfl
@[simp] theorem State.updIng_sdl (g : Ingest → Ingest) : (s.updIng g).sdl = s.sdl := rfl
@[simp] theorem State.updIng_hsc (g : Ingest → Ingest) : (s.updIng g).hsc = s.hsc := rfl
@[simp] theorem State.updIng_trg (g : Ingest → Ingest) : (s.updIng g).trg = s.trg := rfl
@[simp] theorem State.updIng_ref (g : Ingest → Ingest) : (s.updIng g).ref = s.ref := rfl
@[simp] theorem State.updIng_stm (g : Ingest → Ingest) : (s.updIng g).stm = s.stm := rfl
@[simp] theorem State.updIng_trl (g : Ingest → Ingest) : (s.updIng g).trl = s.trl := rfl
@[simp] theorem State.updIng_fir (g : Ingest → Ingest) : (s.updIng g).fir = s.fir := rfl
@[simp] theorem State.updIng_railAt (g : Ingest → Ingest) : (s.updIng g).railAt = s.railAt := rfl
@[simp] theorem State.updIng_onk (g : Ingest → Ingest) : (s.updIng g).onk = s.onk := rfl
@[simp] theorem State.updIng_tx (g : Ingest → Ingest) : (s.updIng g).tx = s.tx := rfl
@[simp] theorem State.updIng_alerts (g : Ingest → Ingest) : (s.updIng g).alerts = s.alerts := rfl
@[simp] theorem State.updIng_cam (g : Ingest → Ingest) : (s.updIng g).cam = s.cam := rfl
@[simp] theorem State.updIng_blv (g : Ingest → Ingest) : (s.updIng g).blv = s.blv := rfl
@[simp] theorem State.updIng_qlp (g : Ingest → Ingest) : (s.updIng g).qlp = s.qlp := rfl
@[simp] theorem State.updIng_mem (g : Ingest → Ingest) : (s.updIng g).mem = s.mem := rfl
@[simp] theorem State.updIng_poison (g : Ingest → Ingest) : (s.updIng g).poison = s.poison := rfl
@[simp] theorem State.updIng_drc (g : Ingest → Ingest) : (s.updIng g).drc = s.drc := rfl
@[simp] theorem State.updIng_net (g : Ingest → Ingest) : (s.updIng g).net = s.net := rfl
@[simp] theorem State.updIng_tb (g : Ingest → Ingest) : (s.updIng g).tb = s.tb := rfl
@[simp] theorem State.updIng_pcie (g : Ingest → Ingest) : (s.updIng g).pcie = s.pcie := rfl
@[simp] theorem State.updIng_axes (g : Ingest → Ingest) : (s.updIng g).axes = s.axes := rfl
@[simp] theorem State.updIng_fnt (g : Ingest → Ingest) : (s.updIng g).fnt = s.fnt := rfl
@[simp] theorem State.updIng_mon (g : Ingest → Ingest) : (s.updIng g).mon = s.mon := rfl
@[simp] theorem State.updIng_mechXtal (g : Ingest → Ingest) : (s.updIng g).mechXtal = s.mechXtal := rfl
@[simp] theorem State.updIng_gth (g : Ingest → Ingest) : (s.updIng g).gth = s.gth := rfl
@[simp] theorem State.updIng_fsh (g : Ingest → Ingest) : (s.updIng g).fsh = s.fsh := rfl
@[simp] theorem State.updIng_flash (g : Ingest → Ingest) : (s.updIng g).flash = s.flash := rfl
@[simp] theorem State.updIng_svnFloor (g : Ingest → Ingest) : (s.updIng g).svnFloor = s.svnFloor := rfl
@[simp] theorem State.updIng_emitted (g : Ingest → Ingest) : (s.updIng g).emitted = s.emitted := rfl
@[simp] theorem State.updIng_free (g : Ingest → Ingest) : (s.updIng g).free = s.free := rfl
@[simp] theorem State.updIng_pending (g : Ingest → Ingest) : (s.updIng g).pending = s.pending := rfl

@[simp] theorem State.updQlp_part (g : Qlp → Qlp) : (s.updQlp g).part = s.part := rfl
@[simp] theorem State.updQlp_now (g : Qlp → Qlp) : (s.updQlp g).now = s.now := rfl
@[simp] theorem State.updQlp_regs (g : Qlp → Qlp) : (s.updQlp g).regs = s.regs := rfl
@[simp] theorem State.updQlp_act (g : Qlp → Qlp) : (s.updQlp g).act = s.act := rfl
@[simp] theorem State.updQlp_aon (g : Qlp → Qlp) : (s.updQlp g).aon = s.aon := rfl
@[simp] theorem State.updQlp_host (g : Qlp → Qlp) : (s.updQlp g).host = s.host := rfl
@[simp] theorem State.updQlp_gkpSide (g : Qlp → Qlp) : (s.updQlp g).gkpSide = s.gkpSide := rfl
@[simp] theorem State.updQlp_commits (g : Qlp → Qlp) : (s.updQlp g).commits = s.commits := rfl
@[simp] theorem State.updQlp_follies (g : Qlp → Qlp) : (s.updQlp g).follies = s.follies := rfl
@[simp] theorem State.updQlp_plls (g : Qlp → Qlp) : (s.updQlp g).plls = s.plls := rfl
@[simp] theorem State.updQlp_pwr (g : Qlp → Qlp) : (s.updQlp g).pwr = s.pwr := rfl
@[simp] theorem State.updQlp_wrd (g : Qlp → Qlp) : (s.updQlp g).wrd = s.wrd := rfl
@[simp] theorem State.updQlp_bist (g : Qlp → Qlp) : (s.updQlp g).bist = s.bist := rfl
@[simp] theorem State.updQlp_gbk (g : Qlp → Qlp) : (s.updQlp g).gbk = s.gbk := rfl
@[simp] theorem State.updQlp_enc (g : Qlp → Qlp) : (s.updQlp g).enc = s.enc := rfl
@[simp] theorem State.updQlp_sdl (g : Qlp → Qlp) : (s.updQlp g).sdl = s.sdl := rfl
@[simp] theorem State.updQlp_hsc (g : Qlp → Qlp) : (s.updQlp g).hsc = s.hsc := rfl
@[simp] theorem State.updQlp_trg (g : Qlp → Qlp) : (s.updQlp g).trg = s.trg := rfl
@[simp] theorem State.updQlp_ref (g : Qlp → Qlp) : (s.updQlp g).ref = s.ref := rfl
@[simp] theorem State.updQlp_stm (g : Qlp → Qlp) : (s.updQlp g).stm = s.stm := rfl
@[simp] theorem State.updQlp_ing (g : Qlp → Qlp) : (s.updQlp g).ing = s.ing := rfl
@[simp] theorem State.updQlp_trl (g : Qlp → Qlp) : (s.updQlp g).trl = s.trl := rfl
@[simp] theorem State.updQlp_fir (g : Qlp → Qlp) : (s.updQlp g).fir = s.fir := rfl
@[simp] theorem State.updQlp_railAt (g : Qlp → Qlp) : (s.updQlp g).railAt = s.railAt := rfl
@[simp] theorem State.updQlp_onk (g : Qlp → Qlp) : (s.updQlp g).onk = s.onk := rfl
@[simp] theorem State.updQlp_tx (g : Qlp → Qlp) : (s.updQlp g).tx = s.tx := rfl
@[simp] theorem State.updQlp_alerts (g : Qlp → Qlp) : (s.updQlp g).alerts = s.alerts := rfl
@[simp] theorem State.updQlp_cam (g : Qlp → Qlp) : (s.updQlp g).cam = s.cam := rfl
@[simp] theorem State.updQlp_blv (g : Qlp → Qlp) : (s.updQlp g).blv = s.blv := rfl
@[simp] theorem State.updQlp_mem (g : Qlp → Qlp) : (s.updQlp g).mem = s.mem := rfl
@[simp] theorem State.updQlp_poison (g : Qlp → Qlp) : (s.updQlp g).poison = s.poison := rfl
@[simp] theorem State.updQlp_drc (g : Qlp → Qlp) : (s.updQlp g).drc = s.drc := rfl
@[simp] theorem State.updQlp_net (g : Qlp → Qlp) : (s.updQlp g).net = s.net := rfl
@[simp] theorem State.updQlp_tb (g : Qlp → Qlp) : (s.updQlp g).tb = s.tb := rfl
@[simp] theorem State.updQlp_pcie (g : Qlp → Qlp) : (s.updQlp g).pcie = s.pcie := rfl
@[simp] theorem State.updQlp_axes (g : Qlp → Qlp) : (s.updQlp g).axes = s.axes := rfl
@[simp] theorem State.updQlp_fnt (g : Qlp → Qlp) : (s.updQlp g).fnt = s.fnt := rfl
@[simp] theorem State.updQlp_mon (g : Qlp → Qlp) : (s.updQlp g).mon = s.mon := rfl
@[simp] theorem State.updQlp_mechXtal (g : Qlp → Qlp) : (s.updQlp g).mechXtal = s.mechXtal := rfl
@[simp] theorem State.updQlp_gth (g : Qlp → Qlp) : (s.updQlp g).gth = s.gth := rfl
@[simp] theorem State.updQlp_fsh (g : Qlp → Qlp) : (s.updQlp g).fsh = s.fsh := rfl
@[simp] theorem State.updQlp_flash (g : Qlp → Qlp) : (s.updQlp g).flash = s.flash := rfl
@[simp] theorem State.updQlp_svnFloor (g : Qlp → Qlp) : (s.updQlp g).svnFloor = s.svnFloor := rfl
@[simp] theorem State.updQlp_emitted (g : Qlp → Qlp) : (s.updQlp g).emitted = s.emitted := rfl
@[simp] theorem State.updQlp_free (g : Qlp → Qlp) : (s.updQlp g).free = s.free := rfl
@[simp] theorem State.updQlp_pending (g : Qlp → Qlp) : (s.updQlp g).pending = s.pending := rfl

@[simp] theorem State.updPort_part (p : Fin 2) (g : Port → Port) : (s.updPort p g).part = s.part := rfl
@[simp] theorem State.updPort_now (p : Fin 2) (g : Port → Port) : (s.updPort p g).now = s.now := rfl
@[simp] theorem State.updPort_regs (p : Fin 2) (g : Port → Port) : (s.updPort p g).regs = s.regs := rfl
@[simp] theorem State.updPort_act (p : Fin 2) (g : Port → Port) : (s.updPort p g).act = s.act := rfl
@[simp] theorem State.updPort_aon (p : Fin 2) (g : Port → Port) : (s.updPort p g).aon = s.aon := rfl
@[simp] theorem State.updPort_host (p : Fin 2) (g : Port → Port) : (s.updPort p g).host = s.host := rfl
@[simp] theorem State.updPort_gkpSide (p : Fin 2) (g : Port → Port) :
    (s.updPort p g).gkpSide = s.gkpSide := rfl
@[simp] theorem State.updPort_commits (p : Fin 2) (g : Port → Port) :
    (s.updPort p g).commits = s.commits := rfl
@[simp] theorem State.updPort_follies (p : Fin 2) (g : Port → Port) :
    (s.updPort p g).follies = s.follies := rfl
@[simp] theorem State.updPort_plls (p : Fin 2) (g : Port → Port) : (s.updPort p g).plls = s.plls := rfl
@[simp] theorem State.updPort_pwr (p : Fin 2) (g : Port → Port) : (s.updPort p g).pwr = s.pwr := rfl
@[simp] theorem State.updPort_wrd (p : Fin 2) (g : Port → Port) : (s.updPort p g).wrd = s.wrd := rfl
@[simp] theorem State.updPort_bist (p : Fin 2) (g : Port → Port) : (s.updPort p g).bist = s.bist := rfl
@[simp] theorem State.updPort_gbk (p : Fin 2) (g : Port → Port) : (s.updPort p g).gbk = s.gbk := rfl
@[simp] theorem State.updPort_enc (p : Fin 2) (g : Port → Port) : (s.updPort p g).enc = s.enc := rfl
@[simp] theorem State.updPort_sdl (p : Fin 2) (g : Port → Port) : (s.updPort p g).sdl = s.sdl := rfl
@[simp] theorem State.updPort_hsc (p : Fin 2) (g : Port → Port) : (s.updPort p g).hsc = s.hsc := rfl
@[simp] theorem State.updPort_trg (p : Fin 2) (g : Port → Port) : (s.updPort p g).trg = s.trg := rfl
@[simp] theorem State.updPort_ref (p : Fin 2) (g : Port → Port) : (s.updPort p g).ref = s.ref := rfl
@[simp] theorem State.updPort_stm (p : Fin 2) (g : Port → Port) : (s.updPort p g).stm = s.stm := rfl
@[simp] theorem State.updPort_ing (p : Fin 2) (g : Port → Port) : (s.updPort p g).ing = s.ing := rfl
@[simp] theorem State.updPort_trl (p : Fin 2) (g : Port → Port) : (s.updPort p g).trl = s.trl := rfl
@[simp] theorem State.updPort_fir (p : Fin 2) (g : Port → Port) : (s.updPort p g).fir = s.fir := rfl
@[simp] theorem State.updPort_railAt (p : Fin 2) (g : Port → Port) :
    (s.updPort p g).railAt = s.railAt := rfl
@[simp] theorem State.updPort_onk (p : Fin 2) (g : Port → Port) : (s.updPort p g).onk = s.onk := rfl
@[simp] theorem State.updPort_tx (p : Fin 2) (g : Port → Port) : (s.updPort p g).tx = s.tx := rfl
@[simp] theorem State.updPort_alerts (p : Fin 2) (g : Port → Port) :
    (s.updPort p g).alerts = s.alerts := rfl
@[simp] theorem State.updPort_cam (p : Fin 2) (g : Port → Port) : (s.updPort p g).cam = s.cam := rfl
@[simp] theorem State.updPort_blv (p : Fin 2) (g : Port → Port) : (s.updPort p g).blv = s.blv := rfl
@[simp] theorem State.updPort_qlp (p : Fin 2) (g : Port → Port) : (s.updPort p g).qlp = s.qlp := rfl
@[simp] theorem State.updPort_mem (p : Fin 2) (g : Port → Port) : (s.updPort p g).mem = s.mem := rfl
@[simp] theorem State.updPort_poison (p : Fin 2) (g : Port → Port) :
    (s.updPort p g).poison = s.poison := rfl
@[simp] theorem State.updPort_drc (p : Fin 2) (g : Port → Port) : (s.updPort p g).drc = s.drc := rfl
@[simp] theorem State.updPort_tb (p : Fin 2) (g : Port → Port) : (s.updPort p g).tb = s.tb := rfl
@[simp] theorem State.updPort_pcie (p : Fin 2) (g : Port → Port) : (s.updPort p g).pcie = s.pcie := rfl
@[simp] theorem State.updPort_axes (p : Fin 2) (g : Port → Port) : (s.updPort p g).axes = s.axes := rfl
@[simp] theorem State.updPort_fnt (p : Fin 2) (g : Port → Port) : (s.updPort p g).fnt = s.fnt := rfl
@[simp] theorem State.updPort_mon (p : Fin 2) (g : Port → Port) : (s.updPort p g).mon = s.mon := rfl
@[simp] theorem State.updPort_mechXtal (p : Fin 2) (g : Port → Port) :
    (s.updPort p g).mechXtal = s.mechXtal := rfl
@[simp] theorem State.updPort_gth (p : Fin 2) (g : Port → Port) : (s.updPort p g).gth = s.gth := rfl
@[simp] theorem State.updPort_fsh (p : Fin 2) (g : Port → Port) : (s.updPort p g).fsh = s.fsh := rfl
@[simp] theorem State.updPort_flash (p : Fin 2) (g : Port → Port) : (s.updPort p g).flash = s.flash := rfl
@[simp] theorem State.updPort_svnFloor (p : Fin 2) (g : Port → Port) :
    (s.updPort p g).svnFloor = s.svnFloor := rfl
@[simp] theorem State.updPort_emitted (p : Fin 2) (g : Port → Port) :
    (s.updPort p g).emitted = s.emitted := rfl
@[simp] theorem State.updPort_free (p : Fin 2) (g : Port → Port) : (s.updPort p g).free = s.free := rfl
@[simp] theorem State.updPort_pending (p : Fin 2) (g : Port → Port) :
    (s.updPort p g).pending = s.pending := rfl

@[simp] theorem State.updVni_part (g : Vni → Vni) : (s.updVni g).part = s.part := rfl
@[simp] theorem State.updVni_now (g : Vni → Vni) : (s.updVni g).now = s.now := rfl
@[simp] theorem State.updVni_regs (g : Vni → Vni) : (s.updVni g).regs = s.regs := rfl
@[simp] theorem State.updVni_act (g : Vni → Vni) : (s.updVni g).act = s.act := rfl
@[simp] theorem State.updVni_aon (g : Vni → Vni) : (s.updVni g).aon = s.aon := rfl
@[simp] theorem State.updVni_host (g : Vni → Vni) : (s.updVni g).host = s.host := rfl
@[simp] theorem State.updVni_gkpSide (g : Vni → Vni) : (s.updVni g).gkpSide = s.gkpSide := rfl
@[simp] theorem State.updVni_commits (g : Vni → Vni) : (s.updVni g).commits = s.commits := rfl
@[simp] theorem State.updVni_follies (g : Vni → Vni) : (s.updVni g).follies = s.follies := rfl
@[simp] theorem State.updVni_plls (g : Vni → Vni) : (s.updVni g).plls = s.plls := rfl
@[simp] theorem State.updVni_pwr (g : Vni → Vni) : (s.updVni g).pwr = s.pwr := rfl
@[simp] theorem State.updVni_wrd (g : Vni → Vni) : (s.updVni g).wrd = s.wrd := rfl
@[simp] theorem State.updVni_bist (g : Vni → Vni) : (s.updVni g).bist = s.bist := rfl
@[simp] theorem State.updVni_gbk (g : Vni → Vni) : (s.updVni g).gbk = s.gbk := rfl
@[simp] theorem State.updVni_enc (g : Vni → Vni) : (s.updVni g).enc = s.enc := rfl
@[simp] theorem State.updVni_sdl (g : Vni → Vni) : (s.updVni g).sdl = s.sdl := rfl
@[simp] theorem State.updVni_hsc (g : Vni → Vni) : (s.updVni g).hsc = s.hsc := rfl
@[simp] theorem State.updVni_trg (g : Vni → Vni) : (s.updVni g).trg = s.trg := rfl
@[simp] theorem State.updVni_ref (g : Vni → Vni) : (s.updVni g).ref = s.ref := rfl
@[simp] theorem State.updVni_stm (g : Vni → Vni) : (s.updVni g).stm = s.stm := rfl
@[simp] theorem State.updVni_ing (g : Vni → Vni) : (s.updVni g).ing = s.ing := rfl
@[simp] theorem State.updVni_trl (g : Vni → Vni) : (s.updVni g).trl = s.trl := rfl
@[simp] theorem State.updVni_fir (g : Vni → Vni) : (s.updVni g).fir = s.fir := rfl
@[simp] theorem State.updVni_railAt (g : Vni → Vni) : (s.updVni g).railAt = s.railAt := rfl
@[simp] theorem State.updVni_onk (g : Vni → Vni) : (s.updVni g).onk = s.onk := rfl
@[simp] theorem State.updVni_tx (g : Vni → Vni) : (s.updVni g).tx = s.tx := rfl
@[simp] theorem State.updVni_alerts (g : Vni → Vni) : (s.updVni g).alerts = s.alerts := rfl
@[simp] theorem State.updVni_cam (g : Vni → Vni) : (s.updVni g).cam = s.cam := rfl
@[simp] theorem State.updVni_blv (g : Vni → Vni) : (s.updVni g).blv = s.blv := rfl
@[simp] theorem State.updVni_qlp (g : Vni → Vni) : (s.updVni g).qlp = s.qlp := rfl
@[simp] theorem State.updVni_mem (g : Vni → Vni) : (s.updVni g).mem = s.mem := rfl
@[simp] theorem State.updVni_poison (g : Vni → Vni) : (s.updVni g).poison = s.poison := rfl
@[simp] theorem State.updVni_drc (g : Vni → Vni) : (s.updVni g).drc = s.drc := rfl
@[simp] theorem State.updVni_tb (g : Vni → Vni) : (s.updVni g).tb = s.tb := rfl
@[simp] theorem State.updVni_pcie (g : Vni → Vni) : (s.updVni g).pcie = s.pcie := rfl
@[simp] theorem State.updVni_axes (g : Vni → Vni) : (s.updVni g).axes = s.axes := rfl
@[simp] theorem State.updVni_fnt (g : Vni → Vni) : (s.updVni g).fnt = s.fnt := rfl
@[simp] theorem State.updVni_mon (g : Vni → Vni) : (s.updVni g).mon = s.mon := rfl
@[simp] theorem State.updVni_mechXtal (g : Vni → Vni) : (s.updVni g).mechXtal = s.mechXtal := rfl
@[simp] theorem State.updVni_gth (g : Vni → Vni) : (s.updVni g).gth = s.gth := rfl
@[simp] theorem State.updVni_fsh (g : Vni → Vni) : (s.updVni g).fsh = s.fsh := rfl
@[simp] theorem State.updVni_flash (g : Vni → Vni) : (s.updVni g).flash = s.flash := rfl
@[simp] theorem State.updVni_svnFloor (g : Vni → Vni) : (s.updVni g).svnFloor = s.svnFloor := rfl
@[simp] theorem State.updVni_emitted (g : Vni → Vni) : (s.updVni g).emitted = s.emitted := rfl
@[simp] theorem State.updVni_free (g : Vni → Vni) : (s.updVni g).free = s.free := rfl
@[simp] theorem State.updVni_pending (g : Vni → Vni) : (s.updVni g).pending = s.pending := rfl

@[simp] theorem State.updPcie_part (g : Pcie → Pcie) : (s.updPcie g).part = s.part := rfl
@[simp] theorem State.updPcie_now (g : Pcie → Pcie) : (s.updPcie g).now = s.now := rfl
@[simp] theorem State.updPcie_regs (g : Pcie → Pcie) : (s.updPcie g).regs = s.regs := rfl
@[simp] theorem State.updPcie_act (g : Pcie → Pcie) : (s.updPcie g).act = s.act := rfl
@[simp] theorem State.updPcie_aon (g : Pcie → Pcie) : (s.updPcie g).aon = s.aon := rfl
@[simp] theorem State.updPcie_host (g : Pcie → Pcie) : (s.updPcie g).host = s.host := rfl
@[simp] theorem State.updPcie_gkpSide (g : Pcie → Pcie) : (s.updPcie g).gkpSide = s.gkpSide := rfl
@[simp] theorem State.updPcie_commits (g : Pcie → Pcie) : (s.updPcie g).commits = s.commits := rfl
@[simp] theorem State.updPcie_follies (g : Pcie → Pcie) : (s.updPcie g).follies = s.follies := rfl
@[simp] theorem State.updPcie_plls (g : Pcie → Pcie) : (s.updPcie g).plls = s.plls := rfl
@[simp] theorem State.updPcie_pwr (g : Pcie → Pcie) : (s.updPcie g).pwr = s.pwr := rfl
@[simp] theorem State.updPcie_wrd (g : Pcie → Pcie) : (s.updPcie g).wrd = s.wrd := rfl
@[simp] theorem State.updPcie_bist (g : Pcie → Pcie) : (s.updPcie g).bist = s.bist := rfl
@[simp] theorem State.updPcie_gbk (g : Pcie → Pcie) : (s.updPcie g).gbk = s.gbk := rfl
@[simp] theorem State.updPcie_enc (g : Pcie → Pcie) : (s.updPcie g).enc = s.enc := rfl
@[simp] theorem State.updPcie_sdl (g : Pcie → Pcie) : (s.updPcie g).sdl = s.sdl := rfl
@[simp] theorem State.updPcie_hsc (g : Pcie → Pcie) : (s.updPcie g).hsc = s.hsc := rfl
@[simp] theorem State.updPcie_trg (g : Pcie → Pcie) : (s.updPcie g).trg = s.trg := rfl
@[simp] theorem State.updPcie_ref (g : Pcie → Pcie) : (s.updPcie g).ref = s.ref := rfl
@[simp] theorem State.updPcie_stm (g : Pcie → Pcie) : (s.updPcie g).stm = s.stm := rfl
@[simp] theorem State.updPcie_ing (g : Pcie → Pcie) : (s.updPcie g).ing = s.ing := rfl
@[simp] theorem State.updPcie_trl (g : Pcie → Pcie) : (s.updPcie g).trl = s.trl := rfl
@[simp] theorem State.updPcie_fir (g : Pcie → Pcie) : (s.updPcie g).fir = s.fir := rfl
@[simp] theorem State.updPcie_railAt (g : Pcie → Pcie) : (s.updPcie g).railAt = s.railAt := rfl
@[simp] theorem State.updPcie_onk (g : Pcie → Pcie) : (s.updPcie g).onk = s.onk := rfl
@[simp] theorem State.updPcie_tx (g : Pcie → Pcie) : (s.updPcie g).tx = s.tx := rfl
@[simp] theorem State.updPcie_alerts (g : Pcie → Pcie) : (s.updPcie g).alerts = s.alerts := rfl
@[simp] theorem State.updPcie_cam (g : Pcie → Pcie) : (s.updPcie g).cam = s.cam := rfl
@[simp] theorem State.updPcie_blv (g : Pcie → Pcie) : (s.updPcie g).blv = s.blv := rfl
@[simp] theorem State.updPcie_qlp (g : Pcie → Pcie) : (s.updPcie g).qlp = s.qlp := rfl
@[simp] theorem State.updPcie_mem (g : Pcie → Pcie) : (s.updPcie g).mem = s.mem := rfl
@[simp] theorem State.updPcie_poison (g : Pcie → Pcie) : (s.updPcie g).poison = s.poison := rfl
@[simp] theorem State.updPcie_drc (g : Pcie → Pcie) : (s.updPcie g).drc = s.drc := rfl
@[simp] theorem State.updPcie_net (g : Pcie → Pcie) : (s.updPcie g).net = s.net := rfl
@[simp] theorem State.updPcie_tb (g : Pcie → Pcie) : (s.updPcie g).tb = s.tb := rfl
@[simp] theorem State.updPcie_axes (g : Pcie → Pcie) : (s.updPcie g).axes = s.axes := rfl
@[simp] theorem State.updPcie_fnt (g : Pcie → Pcie) : (s.updPcie g).fnt = s.fnt := rfl
@[simp] theorem State.updPcie_mon (g : Pcie → Pcie) : (s.updPcie g).mon = s.mon := rfl
@[simp] theorem State.updPcie_mechXtal (g : Pcie → Pcie) : (s.updPcie g).mechXtal = s.mechXtal := rfl
@[simp] theorem State.updPcie_gth (g : Pcie → Pcie) : (s.updPcie g).gth = s.gth := rfl
@[simp] theorem State.updPcie_fsh (g : Pcie → Pcie) : (s.updPcie g).fsh = s.fsh := rfl
@[simp] theorem State.updPcie_flash (g : Pcie → Pcie) : (s.updPcie g).flash = s.flash := rfl
@[simp] theorem State.updPcie_svnFloor (g : Pcie → Pcie) : (s.updPcie g).svnFloor = s.svnFloor := rfl
@[simp] theorem State.updPcie_emitted (g : Pcie → Pcie) : (s.updPcie g).emitted = s.emitted := rfl
@[simp] theorem State.updPcie_free (g : Pcie → Pcie) : (s.updPcie g).free = s.free := rfl
@[simp] theorem State.updPcie_pending (g : Pcie → Pcie) : (s.updPcie g).pending = s.pending := rfl

@[simp] theorem State.updTb_part (i : Fin 4) (g : TimeBase → TimeBase) : (s.updTb i g).part = s.part := rfl
@[simp] theorem State.updTb_now (i : Fin 4) (g : TimeBase → TimeBase) : (s.updTb i g).now = s.now := rfl
@[simp] theorem State.updTb_regs (i : Fin 4) (g : TimeBase → TimeBase) : (s.updTb i g).regs = s.regs := rfl
@[simp] theorem State.updTb_act (i : Fin 4) (g : TimeBase → TimeBase) : (s.updTb i g).act = s.act := rfl
@[simp] theorem State.updTb_aon (i : Fin 4) (g : TimeBase → TimeBase) : (s.updTb i g).aon = s.aon := rfl
@[simp] theorem State.updTb_host (i : Fin 4) (g : TimeBase → TimeBase) : (s.updTb i g).host = s.host := rfl
@[simp] theorem State.updTb_gkpSide (i : Fin 4) (g : TimeBase → TimeBase) :
    (s.updTb i g).gkpSide = s.gkpSide := rfl
@[simp] theorem State.updTb_commits (i : Fin 4) (g : TimeBase → TimeBase) :
    (s.updTb i g).commits = s.commits := rfl
@[simp] theorem State.updTb_follies (i : Fin 4) (g : TimeBase → TimeBase) :
    (s.updTb i g).follies = s.follies := rfl
@[simp] theorem State.updTb_plls (i : Fin 4) (g : TimeBase → TimeBase) : (s.updTb i g).plls = s.plls := rfl
@[simp] theorem State.updTb_pwr (i : Fin 4) (g : TimeBase → TimeBase) : (s.updTb i g).pwr = s.pwr := rfl
@[simp] theorem State.updTb_wrd (i : Fin 4) (g : TimeBase → TimeBase) : (s.updTb i g).wrd = s.wrd := rfl
@[simp] theorem State.updTb_bist (i : Fin 4) (g : TimeBase → TimeBase) : (s.updTb i g).bist = s.bist := rfl
@[simp] theorem State.updTb_gbk (i : Fin 4) (g : TimeBase → TimeBase) : (s.updTb i g).gbk = s.gbk := rfl
@[simp] theorem State.updTb_enc (i : Fin 4) (g : TimeBase → TimeBase) : (s.updTb i g).enc = s.enc := rfl
@[simp] theorem State.updTb_sdl (i : Fin 4) (g : TimeBase → TimeBase) : (s.updTb i g).sdl = s.sdl := rfl
@[simp] theorem State.updTb_hsc (i : Fin 4) (g : TimeBase → TimeBase) : (s.updTb i g).hsc = s.hsc := rfl
@[simp] theorem State.updTb_trg (i : Fin 4) (g : TimeBase → TimeBase) : (s.updTb i g).trg = s.trg := rfl
@[simp] theorem State.updTb_ref (i : Fin 4) (g : TimeBase → TimeBase) : (s.updTb i g).ref = s.ref := rfl
@[simp] theorem State.updTb_stm (i : Fin 4) (g : TimeBase → TimeBase) : (s.updTb i g).stm = s.stm := rfl
@[simp] theorem State.updTb_ing (i : Fin 4) (g : TimeBase → TimeBase) : (s.updTb i g).ing = s.ing := rfl
@[simp] theorem State.updTb_trl (i : Fin 4) (g : TimeBase → TimeBase) : (s.updTb i g).trl = s.trl := rfl
@[simp] theorem State.updTb_fir (i : Fin 4) (g : TimeBase → TimeBase) : (s.updTb i g).fir = s.fir := rfl
@[simp] theorem State.updTb_railAt (i : Fin 4) (g : TimeBase → TimeBase) :
    (s.updTb i g).railAt = s.railAt := rfl
@[simp] theorem State.updTb_onk (i : Fin 4) (g : TimeBase → TimeBase) : (s.updTb i g).onk = s.onk := rfl
@[simp] theorem State.updTb_tx (i : Fin 4) (g : TimeBase → TimeBase) : (s.updTb i g).tx = s.tx := rfl
@[simp] theorem State.updTb_alerts (i : Fin 4) (g : TimeBase → TimeBase) :
    (s.updTb i g).alerts = s.alerts := rfl
@[simp] theorem State.updTb_cam (i : Fin 4) (g : TimeBase → TimeBase) : (s.updTb i g).cam = s.cam := rfl
@[simp] theorem State.updTb_blv (i : Fin 4) (g : TimeBase → TimeBase) : (s.updTb i g).blv = s.blv := rfl
@[simp] theorem State.updTb_qlp (i : Fin 4) (g : TimeBase → TimeBase) : (s.updTb i g).qlp = s.qlp := rfl
@[simp] theorem State.updTb_mem (i : Fin 4) (g : TimeBase → TimeBase) : (s.updTb i g).mem = s.mem := rfl
@[simp] theorem State.updTb_poison (i : Fin 4) (g : TimeBase → TimeBase) :
    (s.updTb i g).poison = s.poison := rfl
@[simp] theorem State.updTb_drc (i : Fin 4) (g : TimeBase → TimeBase) : (s.updTb i g).drc = s.drc := rfl
@[simp] theorem State.updTb_net (i : Fin 4) (g : TimeBase → TimeBase) : (s.updTb i g).net = s.net := rfl
@[simp] theorem State.updTb_pcie (i : Fin 4) (g : TimeBase → TimeBase) : (s.updTb i g).pcie = s.pcie := rfl
@[simp] theorem State.updTb_axes (i : Fin 4) (g : TimeBase → TimeBase) : (s.updTb i g).axes = s.axes := rfl
@[simp] theorem State.updTb_fnt (i : Fin 4) (g : TimeBase → TimeBase) : (s.updTb i g).fnt = s.fnt := rfl
@[simp] theorem State.updTb_mon (i : Fin 4) (g : TimeBase → TimeBase) : (s.updTb i g).mon = s.mon := rfl
@[simp] theorem State.updTb_mechXtal (i : Fin 4) (g : TimeBase → TimeBase) :
    (s.updTb i g).mechXtal = s.mechXtal := rfl
@[simp] theorem State.updTb_gth (i : Fin 4) (g : TimeBase → TimeBase) : (s.updTb i g).gth = s.gth := rfl
@[simp] theorem State.updTb_fsh (i : Fin 4) (g : TimeBase → TimeBase) : (s.updTb i g).fsh = s.fsh := rfl
@[simp] theorem State.updTb_flash (i : Fin 4) (g : TimeBase → TimeBase) :
    (s.updTb i g).flash = s.flash := rfl
@[simp] theorem State.updTb_svnFloor (i : Fin 4) (g : TimeBase → TimeBase) :
    (s.updTb i g).svnFloor = s.svnFloor := rfl
@[simp] theorem State.updTb_emitted (i : Fin 4) (g : TimeBase → TimeBase) :
    (s.updTb i g).emitted = s.emitted := rfl
@[simp] theorem State.updTb_free (i : Fin 4) (g : TimeBase → TimeBase) : (s.updTb i g).free = s.free := rfl
@[simp] theorem State.updTb_pending (i : Fin 4) (g : TimeBase → TimeBase) :
    (s.updTb i g).pending = s.pending := rfl

@[simp] theorem State.updChan_part (c : Fin 2) (g : Chan → Chan) : (s.updChan c g).part = s.part := rfl
@[simp] theorem State.updChan_now (c : Fin 2) (g : Chan → Chan) : (s.updChan c g).now = s.now := rfl
@[simp] theorem State.updChan_regs (c : Fin 2) (g : Chan → Chan) : (s.updChan c g).regs = s.regs := rfl
@[simp] theorem State.updChan_act (c : Fin 2) (g : Chan → Chan) : (s.updChan c g).act = s.act := rfl
@[simp] theorem State.updChan_aon (c : Fin 2) (g : Chan → Chan) : (s.updChan c g).aon = s.aon := rfl
@[simp] theorem State.updChan_host (c : Fin 2) (g : Chan → Chan) : (s.updChan c g).host = s.host := rfl
@[simp] theorem State.updChan_gkpSide (c : Fin 2) (g : Chan → Chan) :
    (s.updChan c g).gkpSide = s.gkpSide := rfl
@[simp] theorem State.updChan_commits (c : Fin 2) (g : Chan → Chan) :
    (s.updChan c g).commits = s.commits := rfl
@[simp] theorem State.updChan_follies (c : Fin 2) (g : Chan → Chan) :
    (s.updChan c g).follies = s.follies := rfl
@[simp] theorem State.updChan_plls (c : Fin 2) (g : Chan → Chan) : (s.updChan c g).plls = s.plls := rfl
@[simp] theorem State.updChan_pwr (c : Fin 2) (g : Chan → Chan) : (s.updChan c g).pwr = s.pwr := rfl
@[simp] theorem State.updChan_wrd (c : Fin 2) (g : Chan → Chan) : (s.updChan c g).wrd = s.wrd := rfl
@[simp] theorem State.updChan_bist (c : Fin 2) (g : Chan → Chan) : (s.updChan c g).bist = s.bist := rfl
@[simp] theorem State.updChan_gbk (c : Fin 2) (g : Chan → Chan) : (s.updChan c g).gbk = s.gbk := rfl
@[simp] theorem State.updChan_enc (c : Fin 2) (g : Chan → Chan) : (s.updChan c g).enc = s.enc := rfl
@[simp] theorem State.updChan_sdl (c : Fin 2) (g : Chan → Chan) : (s.updChan c g).sdl = s.sdl := rfl
@[simp] theorem State.updChan_hsc (c : Fin 2) (g : Chan → Chan) : (s.updChan c g).hsc = s.hsc := rfl
@[simp] theorem State.updChan_trg (c : Fin 2) (g : Chan → Chan) : (s.updChan c g).trg = s.trg := rfl
@[simp] theorem State.updChan_ref (c : Fin 2) (g : Chan → Chan) : (s.updChan c g).ref = s.ref := rfl
@[simp] theorem State.updChan_stm (c : Fin 2) (g : Chan → Chan) : (s.updChan c g).stm = s.stm := rfl
@[simp] theorem State.updChan_ing (c : Fin 2) (g : Chan → Chan) : (s.updChan c g).ing = s.ing := rfl
@[simp] theorem State.updChan_trl (c : Fin 2) (g : Chan → Chan) : (s.updChan c g).trl = s.trl := rfl
@[simp] theorem State.updChan_fir (c : Fin 2) (g : Chan → Chan) : (s.updChan c g).fir = s.fir := rfl
@[simp] theorem State.updChan_railAt (c : Fin 2) (g : Chan → Chan) :
    (s.updChan c g).railAt = s.railAt := rfl
@[simp] theorem State.updChan_onk (c : Fin 2) (g : Chan → Chan) : (s.updChan c g).onk = s.onk := rfl
@[simp] theorem State.updChan_tx (c : Fin 2) (g : Chan → Chan) : (s.updChan c g).tx = s.tx := rfl
@[simp] theorem State.updChan_alerts (c : Fin 2) (g : Chan → Chan) :
    (s.updChan c g).alerts = s.alerts := rfl
@[simp] theorem State.updChan_cam (c : Fin 2) (g : Chan → Chan) : (s.updChan c g).cam = s.cam := rfl
@[simp] theorem State.updChan_blv (c : Fin 2) (g : Chan → Chan) : (s.updChan c g).blv = s.blv := rfl
@[simp] theorem State.updChan_qlp (c : Fin 2) (g : Chan → Chan) : (s.updChan c g).qlp = s.qlp := rfl
@[simp] theorem State.updChan_mem (c : Fin 2) (g : Chan → Chan) : (s.updChan c g).mem = s.mem := rfl
@[simp] theorem State.updChan_poison (c : Fin 2) (g : Chan → Chan) :
    (s.updChan c g).poison = s.poison := rfl
@[simp] theorem State.updChan_net (c : Fin 2) (g : Chan → Chan) : (s.updChan c g).net = s.net := rfl
@[simp] theorem State.updChan_tb (c : Fin 2) (g : Chan → Chan) : (s.updChan c g).tb = s.tb := rfl
@[simp] theorem State.updChan_pcie (c : Fin 2) (g : Chan → Chan) : (s.updChan c g).pcie = s.pcie := rfl
@[simp] theorem State.updChan_axes (c : Fin 2) (g : Chan → Chan) : (s.updChan c g).axes = s.axes := rfl
@[simp] theorem State.updChan_fnt (c : Fin 2) (g : Chan → Chan) : (s.updChan c g).fnt = s.fnt := rfl
@[simp] theorem State.updChan_mon (c : Fin 2) (g : Chan → Chan) : (s.updChan c g).mon = s.mon := rfl
@[simp] theorem State.updChan_mechXtal (c : Fin 2) (g : Chan → Chan) :
    (s.updChan c g).mechXtal = s.mechXtal := rfl
@[simp] theorem State.updChan_gth (c : Fin 2) (g : Chan → Chan) : (s.updChan c g).gth = s.gth := rfl
@[simp] theorem State.updChan_fsh (c : Fin 2) (g : Chan → Chan) : (s.updChan c g).fsh = s.fsh := rfl
@[simp] theorem State.updChan_flash (c : Fin 2) (g : Chan → Chan) : (s.updChan c g).flash = s.flash := rfl
@[simp] theorem State.updChan_svnFloor (c : Fin 2) (g : Chan → Chan) :
    (s.updChan c g).svnFloor = s.svnFloor := rfl
@[simp] theorem State.updChan_emitted (c : Fin 2) (g : Chan → Chan) :
    (s.updChan c g).emitted = s.emitted := rfl
@[simp] theorem State.updChan_free (c : Fin 2) (g : Chan → Chan) : (s.updChan c g).free = s.free := rfl
@[simp] theorem State.updChan_pending (c : Fin 2) (g : Chan → Chan) :
    (s.updChan c g).pending = s.pending := rfl

@[simp] theorem State.updFnt_part (g : Fnt → Fnt) : (s.updFnt g).part = s.part := rfl
@[simp] theorem State.updFnt_now (g : Fnt → Fnt) : (s.updFnt g).now = s.now := rfl
@[simp] theorem State.updFnt_regs (g : Fnt → Fnt) : (s.updFnt g).regs = s.regs := rfl
@[simp] theorem State.updFnt_act (g : Fnt → Fnt) : (s.updFnt g).act = s.act := rfl
@[simp] theorem State.updFnt_aon (g : Fnt → Fnt) : (s.updFnt g).aon = s.aon := rfl
@[simp] theorem State.updFnt_host (g : Fnt → Fnt) : (s.updFnt g).host = s.host := rfl
@[simp] theorem State.updFnt_gkpSide (g : Fnt → Fnt) : (s.updFnt g).gkpSide = s.gkpSide := rfl
@[simp] theorem State.updFnt_commits (g : Fnt → Fnt) : (s.updFnt g).commits = s.commits := rfl
@[simp] theorem State.updFnt_follies (g : Fnt → Fnt) : (s.updFnt g).follies = s.follies := rfl
@[simp] theorem State.updFnt_plls (g : Fnt → Fnt) : (s.updFnt g).plls = s.plls := rfl
@[simp] theorem State.updFnt_pwr (g : Fnt → Fnt) : (s.updFnt g).pwr = s.pwr := rfl
@[simp] theorem State.updFnt_wrd (g : Fnt → Fnt) : (s.updFnt g).wrd = s.wrd := rfl
@[simp] theorem State.updFnt_bist (g : Fnt → Fnt) : (s.updFnt g).bist = s.bist := rfl
@[simp] theorem State.updFnt_gbk (g : Fnt → Fnt) : (s.updFnt g).gbk = s.gbk := rfl
@[simp] theorem State.updFnt_enc (g : Fnt → Fnt) : (s.updFnt g).enc = s.enc := rfl
@[simp] theorem State.updFnt_sdl (g : Fnt → Fnt) : (s.updFnt g).sdl = s.sdl := rfl
@[simp] theorem State.updFnt_hsc (g : Fnt → Fnt) : (s.updFnt g).hsc = s.hsc := rfl
@[simp] theorem State.updFnt_trg (g : Fnt → Fnt) : (s.updFnt g).trg = s.trg := rfl
@[simp] theorem State.updFnt_ref (g : Fnt → Fnt) : (s.updFnt g).ref = s.ref := rfl
@[simp] theorem State.updFnt_stm (g : Fnt → Fnt) : (s.updFnt g).stm = s.stm := rfl
@[simp] theorem State.updFnt_ing (g : Fnt → Fnt) : (s.updFnt g).ing = s.ing := rfl
@[simp] theorem State.updFnt_trl (g : Fnt → Fnt) : (s.updFnt g).trl = s.trl := rfl
@[simp] theorem State.updFnt_fir (g : Fnt → Fnt) : (s.updFnt g).fir = s.fir := rfl
@[simp] theorem State.updFnt_railAt (g : Fnt → Fnt) : (s.updFnt g).railAt = s.railAt := rfl
@[simp] theorem State.updFnt_onk (g : Fnt → Fnt) : (s.updFnt g).onk = s.onk := rfl
@[simp] theorem State.updFnt_tx (g : Fnt → Fnt) : (s.updFnt g).tx = s.tx := rfl
@[simp] theorem State.updFnt_alerts (g : Fnt → Fnt) : (s.updFnt g).alerts = s.alerts := rfl
@[simp] theorem State.updFnt_cam (g : Fnt → Fnt) : (s.updFnt g).cam = s.cam := rfl
@[simp] theorem State.updFnt_blv (g : Fnt → Fnt) : (s.updFnt g).blv = s.blv := rfl
@[simp] theorem State.updFnt_qlp (g : Fnt → Fnt) : (s.updFnt g).qlp = s.qlp := rfl
@[simp] theorem State.updFnt_mem (g : Fnt → Fnt) : (s.updFnt g).mem = s.mem := rfl
@[simp] theorem State.updFnt_poison (g : Fnt → Fnt) : (s.updFnt g).poison = s.poison := rfl
@[simp] theorem State.updFnt_drc (g : Fnt → Fnt) : (s.updFnt g).drc = s.drc := rfl
@[simp] theorem State.updFnt_net (g : Fnt → Fnt) : (s.updFnt g).net = s.net := rfl
@[simp] theorem State.updFnt_tb (g : Fnt → Fnt) : (s.updFnt g).tb = s.tb := rfl
@[simp] theorem State.updFnt_pcie (g : Fnt → Fnt) : (s.updFnt g).pcie = s.pcie := rfl
@[simp] theorem State.updFnt_axes (g : Fnt → Fnt) : (s.updFnt g).axes = s.axes := rfl
@[simp] theorem State.updFnt_mon (g : Fnt → Fnt) : (s.updFnt g).mon = s.mon := rfl
@[simp] theorem State.updFnt_mechXtal (g : Fnt → Fnt) : (s.updFnt g).mechXtal = s.mechXtal := rfl
@[simp] theorem State.updFnt_gth (g : Fnt → Fnt) : (s.updFnt g).gth = s.gth := rfl
@[simp] theorem State.updFnt_fsh (g : Fnt → Fnt) : (s.updFnt g).fsh = s.fsh := rfl
@[simp] theorem State.updFnt_flash (g : Fnt → Fnt) : (s.updFnt g).flash = s.flash := rfl
@[simp] theorem State.updFnt_svnFloor (g : Fnt → Fnt) : (s.updFnt g).svnFloor = s.svnFloor := rfl
@[simp] theorem State.updFnt_emitted (g : Fnt → Fnt) : (s.updFnt g).emitted = s.emitted := rfl
@[simp] theorem State.updFnt_free (g : Fnt → Fnt) : (s.updFnt g).free = s.free := rfl
@[simp] theorem State.updFnt_pending (g : Fnt → Fnt) : (s.updFnt g).pending = s.pending := rfl

@[simp] theorem State.updMon_part (g : Mon → Mon) : (s.updMon g).part = s.part := rfl
@[simp] theorem State.updMon_now (g : Mon → Mon) : (s.updMon g).now = s.now := rfl
@[simp] theorem State.updMon_regs (g : Mon → Mon) : (s.updMon g).regs = s.regs := rfl
@[simp] theorem State.updMon_act (g : Mon → Mon) : (s.updMon g).act = s.act := rfl
@[simp] theorem State.updMon_aon (g : Mon → Mon) : (s.updMon g).aon = s.aon := rfl
@[simp] theorem State.updMon_host (g : Mon → Mon) : (s.updMon g).host = s.host := rfl
@[simp] theorem State.updMon_gkpSide (g : Mon → Mon) : (s.updMon g).gkpSide = s.gkpSide := rfl
@[simp] theorem State.updMon_commits (g : Mon → Mon) : (s.updMon g).commits = s.commits := rfl
@[simp] theorem State.updMon_follies (g : Mon → Mon) : (s.updMon g).follies = s.follies := rfl
@[simp] theorem State.updMon_plls (g : Mon → Mon) : (s.updMon g).plls = s.plls := rfl
@[simp] theorem State.updMon_pwr (g : Mon → Mon) : (s.updMon g).pwr = s.pwr := rfl
@[simp] theorem State.updMon_wrd (g : Mon → Mon) : (s.updMon g).wrd = s.wrd := rfl
@[simp] theorem State.updMon_bist (g : Mon → Mon) : (s.updMon g).bist = s.bist := rfl
@[simp] theorem State.updMon_gbk (g : Mon → Mon) : (s.updMon g).gbk = s.gbk := rfl
@[simp] theorem State.updMon_enc (g : Mon → Mon) : (s.updMon g).enc = s.enc := rfl
@[simp] theorem State.updMon_sdl (g : Mon → Mon) : (s.updMon g).sdl = s.sdl := rfl
@[simp] theorem State.updMon_hsc (g : Mon → Mon) : (s.updMon g).hsc = s.hsc := rfl
@[simp] theorem State.updMon_trg (g : Mon → Mon) : (s.updMon g).trg = s.trg := rfl
@[simp] theorem State.updMon_ref (g : Mon → Mon) : (s.updMon g).ref = s.ref := rfl
@[simp] theorem State.updMon_stm (g : Mon → Mon) : (s.updMon g).stm = s.stm := rfl
@[simp] theorem State.updMon_ing (g : Mon → Mon) : (s.updMon g).ing = s.ing := rfl
@[simp] theorem State.updMon_trl (g : Mon → Mon) : (s.updMon g).trl = s.trl := rfl
@[simp] theorem State.updMon_fir (g : Mon → Mon) : (s.updMon g).fir = s.fir := rfl
@[simp] theorem State.updMon_railAt (g : Mon → Mon) : (s.updMon g).railAt = s.railAt := rfl
@[simp] theorem State.updMon_onk (g : Mon → Mon) : (s.updMon g).onk = s.onk := rfl
@[simp] theorem State.updMon_tx (g : Mon → Mon) : (s.updMon g).tx = s.tx := rfl
@[simp] theorem State.updMon_alerts (g : Mon → Mon) : (s.updMon g).alerts = s.alerts := rfl
@[simp] theorem State.updMon_cam (g : Mon → Mon) : (s.updMon g).cam = s.cam := rfl
@[simp] theorem State.updMon_blv (g : Mon → Mon) : (s.updMon g).blv = s.blv := rfl
@[simp] theorem State.updMon_qlp (g : Mon → Mon) : (s.updMon g).qlp = s.qlp := rfl
@[simp] theorem State.updMon_mem (g : Mon → Mon) : (s.updMon g).mem = s.mem := rfl
@[simp] theorem State.updMon_poison (g : Mon → Mon) : (s.updMon g).poison = s.poison := rfl
@[simp] theorem State.updMon_drc (g : Mon → Mon) : (s.updMon g).drc = s.drc := rfl
@[simp] theorem State.updMon_net (g : Mon → Mon) : (s.updMon g).net = s.net := rfl
@[simp] theorem State.updMon_tb (g : Mon → Mon) : (s.updMon g).tb = s.tb := rfl
@[simp] theorem State.updMon_pcie (g : Mon → Mon) : (s.updMon g).pcie = s.pcie := rfl
@[simp] theorem State.updMon_axes (g : Mon → Mon) : (s.updMon g).axes = s.axes := rfl
@[simp] theorem State.updMon_fnt (g : Mon → Mon) : (s.updMon g).fnt = s.fnt := rfl
@[simp] theorem State.updMon_mechXtal (g : Mon → Mon) : (s.updMon g).mechXtal = s.mechXtal := rfl
@[simp] theorem State.updMon_gth (g : Mon → Mon) : (s.updMon g).gth = s.gth := rfl
@[simp] theorem State.updMon_fsh (g : Mon → Mon) : (s.updMon g).fsh = s.fsh := rfl
@[simp] theorem State.updMon_flash (g : Mon → Mon) : (s.updMon g).flash = s.flash := rfl
@[simp] theorem State.updMon_svnFloor (g : Mon → Mon) : (s.updMon g).svnFloor = s.svnFloor := rfl
@[simp] theorem State.updMon_emitted (g : Mon → Mon) : (s.updMon g).emitted = s.emitted := rfl
@[simp] theorem State.updMon_free (g : Mon → Mon) : (s.updMon g).free = s.free := rfl
@[simp] theorem State.updMon_pending (g : Mon → Mon) : (s.updMon g).pending = s.pending := rfl

@[simp] theorem State.setBist_part (g : Bist → Bist) : (s.setBist g).part = s.part := rfl
@[simp] theorem State.setBist_now (g : Bist → Bist) : (s.setBist g).now = s.now := rfl
@[simp] theorem State.setBist_regs (g : Bist → Bist) : (s.setBist g).regs = s.regs := rfl
@[simp] theorem State.setBist_act (g : Bist → Bist) : (s.setBist g).act = s.act := rfl
@[simp] theorem State.setBist_aon (g : Bist → Bist) : (s.setBist g).aon = s.aon := rfl
@[simp] theorem State.setBist_host (g : Bist → Bist) : (s.setBist g).host = s.host := rfl
@[simp] theorem State.setBist_gkpSide (g : Bist → Bist) : (s.setBist g).gkpSide = s.gkpSide := rfl
@[simp] theorem State.setBist_commits (g : Bist → Bist) : (s.setBist g).commits = s.commits := rfl
@[simp] theorem State.setBist_follies (g : Bist → Bist) : (s.setBist g).follies = s.follies := rfl
@[simp] theorem State.setBist_plls (g : Bist → Bist) : (s.setBist g).plls = s.plls := rfl
@[simp] theorem State.setBist_pwr (g : Bist → Bist) : (s.setBist g).pwr = s.pwr := rfl
@[simp] theorem State.setBist_wrd (g : Bist → Bist) : (s.setBist g).wrd = s.wrd := rfl
@[simp] theorem State.setBist_gbk (g : Bist → Bist) : (s.setBist g).gbk = s.gbk := rfl
@[simp] theorem State.setBist_enc (g : Bist → Bist) : (s.setBist g).enc = s.enc := rfl
@[simp] theorem State.setBist_sdl (g : Bist → Bist) : (s.setBist g).sdl = s.sdl := rfl
@[simp] theorem State.setBist_hsc (g : Bist → Bist) : (s.setBist g).hsc = s.hsc := rfl
@[simp] theorem State.setBist_trg (g : Bist → Bist) : (s.setBist g).trg = s.trg := rfl
@[simp] theorem State.setBist_ref (g : Bist → Bist) : (s.setBist g).ref = s.ref := rfl
@[simp] theorem State.setBist_stm (g : Bist → Bist) : (s.setBist g).stm = s.stm := rfl
@[simp] theorem State.setBist_ing (g : Bist → Bist) : (s.setBist g).ing = s.ing := rfl
@[simp] theorem State.setBist_trl (g : Bist → Bist) : (s.setBist g).trl = s.trl := rfl
@[simp] theorem State.setBist_fir (g : Bist → Bist) : (s.setBist g).fir = s.fir := rfl
@[simp] theorem State.setBist_railAt (g : Bist → Bist) : (s.setBist g).railAt = s.railAt := rfl
@[simp] theorem State.setBist_onk (g : Bist → Bist) : (s.setBist g).onk = s.onk := rfl
@[simp] theorem State.setBist_tx (g : Bist → Bist) : (s.setBist g).tx = s.tx := rfl
@[simp] theorem State.setBist_alerts (g : Bist → Bist) : (s.setBist g).alerts = s.alerts := rfl
@[simp] theorem State.setBist_cam (g : Bist → Bist) : (s.setBist g).cam = s.cam := rfl
@[simp] theorem State.setBist_blv (g : Bist → Bist) : (s.setBist g).blv = s.blv := rfl
@[simp] theorem State.setBist_qlp (g : Bist → Bist) : (s.setBist g).qlp = s.qlp := rfl
@[simp] theorem State.setBist_mem (g : Bist → Bist) : (s.setBist g).mem = s.mem := rfl
@[simp] theorem State.setBist_poison (g : Bist → Bist) : (s.setBist g).poison = s.poison := rfl
@[simp] theorem State.setBist_drc (g : Bist → Bist) : (s.setBist g).drc = s.drc := rfl
@[simp] theorem State.setBist_net (g : Bist → Bist) : (s.setBist g).net = s.net := rfl
@[simp] theorem State.setBist_tb (g : Bist → Bist) : (s.setBist g).tb = s.tb := rfl
@[simp] theorem State.setBist_pcie (g : Bist → Bist) : (s.setBist g).pcie = s.pcie := rfl
@[simp] theorem State.setBist_axes (g : Bist → Bist) : (s.setBist g).axes = s.axes := rfl
@[simp] theorem State.setBist_fnt (g : Bist → Bist) : (s.setBist g).fnt = s.fnt := rfl
@[simp] theorem State.setBist_mon (g : Bist → Bist) : (s.setBist g).mon = s.mon := rfl
@[simp] theorem State.setBist_mechXtal (g : Bist → Bist) : (s.setBist g).mechXtal = s.mechXtal := rfl
@[simp] theorem State.setBist_gth (g : Bist → Bist) : (s.setBist g).gth = s.gth := rfl
@[simp] theorem State.setBist_fsh (g : Bist → Bist) : (s.setBist g).fsh = s.fsh := rfl
@[simp] theorem State.setBist_flash (g : Bist → Bist) : (s.setBist g).flash = s.flash := rfl
@[simp] theorem State.setBist_svnFloor (g : Bist → Bist) : (s.setBist g).svnFloor = s.svnFloor := rfl
@[simp] theorem State.setBist_emitted (g : Bist → Bist) : (s.setBist g).emitted = s.emitted := rfl
@[simp] theorem State.setBist_free (g : Bist → Bist) : (s.setBist g).free = s.free := rfl
@[simp] theorem State.setBist_pending (g : Bist → Bist) : (s.setBist g).pending = s.pending := rfl

@[simp] theorem State.setWrd_part (g : Warden → Warden) : (s.setWrd g).part = s.part := rfl
@[simp] theorem State.setWrd_now (g : Warden → Warden) : (s.setWrd g).now = s.now := rfl
@[simp] theorem State.setWrd_regs (g : Warden → Warden) : (s.setWrd g).regs = s.regs := rfl
@[simp] theorem State.setWrd_act (g : Warden → Warden) : (s.setWrd g).act = s.act := rfl
@[simp] theorem State.setWrd_aon (g : Warden → Warden) : (s.setWrd g).aon = s.aon := rfl
@[simp] theorem State.setWrd_host (g : Warden → Warden) : (s.setWrd g).host = s.host := rfl
@[simp] theorem State.setWrd_gkpSide (g : Warden → Warden) : (s.setWrd g).gkpSide = s.gkpSide := rfl
@[simp] theorem State.setWrd_commits (g : Warden → Warden) : (s.setWrd g).commits = s.commits := rfl
@[simp] theorem State.setWrd_follies (g : Warden → Warden) : (s.setWrd g).follies = s.follies := rfl
@[simp] theorem State.setWrd_plls (g : Warden → Warden) : (s.setWrd g).plls = s.plls := rfl
@[simp] theorem State.setWrd_pwr (g : Warden → Warden) : (s.setWrd g).pwr = s.pwr := rfl
@[simp] theorem State.setWrd_bist (g : Warden → Warden) : (s.setWrd g).bist = s.bist := rfl
@[simp] theorem State.setWrd_gbk (g : Warden → Warden) : (s.setWrd g).gbk = s.gbk := rfl
@[simp] theorem State.setWrd_enc (g : Warden → Warden) : (s.setWrd g).enc = s.enc := rfl
@[simp] theorem State.setWrd_sdl (g : Warden → Warden) : (s.setWrd g).sdl = s.sdl := rfl
@[simp] theorem State.setWrd_hsc (g : Warden → Warden) : (s.setWrd g).hsc = s.hsc := rfl
@[simp] theorem State.setWrd_trg (g : Warden → Warden) : (s.setWrd g).trg = s.trg := rfl
@[simp] theorem State.setWrd_ref (g : Warden → Warden) : (s.setWrd g).ref = s.ref := rfl
@[simp] theorem State.setWrd_stm (g : Warden → Warden) : (s.setWrd g).stm = s.stm := rfl
@[simp] theorem State.setWrd_ing (g : Warden → Warden) : (s.setWrd g).ing = s.ing := rfl
@[simp] theorem State.setWrd_trl (g : Warden → Warden) : (s.setWrd g).trl = s.trl := rfl
@[simp] theorem State.setWrd_fir (g : Warden → Warden) : (s.setWrd g).fir = s.fir := rfl
@[simp] theorem State.setWrd_railAt (g : Warden → Warden) : (s.setWrd g).railAt = s.railAt := rfl
@[simp] theorem State.setWrd_onk (g : Warden → Warden) : (s.setWrd g).onk = s.onk := rfl
@[simp] theorem State.setWrd_tx (g : Warden → Warden) : (s.setWrd g).tx = s.tx := rfl
@[simp] theorem State.setWrd_alerts (g : Warden → Warden) : (s.setWrd g).alerts = s.alerts := rfl
@[simp] theorem State.setWrd_cam (g : Warden → Warden) : (s.setWrd g).cam = s.cam := rfl
@[simp] theorem State.setWrd_blv (g : Warden → Warden) : (s.setWrd g).blv = s.blv := rfl
@[simp] theorem State.setWrd_qlp (g : Warden → Warden) : (s.setWrd g).qlp = s.qlp := rfl
@[simp] theorem State.setWrd_mem (g : Warden → Warden) : (s.setWrd g).mem = s.mem := rfl
@[simp] theorem State.setWrd_poison (g : Warden → Warden) : (s.setWrd g).poison = s.poison := rfl
@[simp] theorem State.setWrd_drc (g : Warden → Warden) : (s.setWrd g).drc = s.drc := rfl
@[simp] theorem State.setWrd_net (g : Warden → Warden) : (s.setWrd g).net = s.net := rfl
@[simp] theorem State.setWrd_tb (g : Warden → Warden) : (s.setWrd g).tb = s.tb := rfl
@[simp] theorem State.setWrd_pcie (g : Warden → Warden) : (s.setWrd g).pcie = s.pcie := rfl
@[simp] theorem State.setWrd_axes (g : Warden → Warden) : (s.setWrd g).axes = s.axes := rfl
@[simp] theorem State.setWrd_fnt (g : Warden → Warden) : (s.setWrd g).fnt = s.fnt := rfl
@[simp] theorem State.setWrd_mon (g : Warden → Warden) : (s.setWrd g).mon = s.mon := rfl
@[simp] theorem State.setWrd_mechXtal (g : Warden → Warden) : (s.setWrd g).mechXtal = s.mechXtal := rfl
@[simp] theorem State.setWrd_gth (g : Warden → Warden) : (s.setWrd g).gth = s.gth := rfl
@[simp] theorem State.setWrd_fsh (g : Warden → Warden) : (s.setWrd g).fsh = s.fsh := rfl
@[simp] theorem State.setWrd_flash (g : Warden → Warden) : (s.setWrd g).flash = s.flash := rfl
@[simp] theorem State.setWrd_svnFloor (g : Warden → Warden) : (s.setWrd g).svnFloor = s.svnFloor := rfl
@[simp] theorem State.setWrd_emitted (g : Warden → Warden) : (s.setWrd g).emitted = s.emitted := rfl
@[simp] theorem State.setWrd_free (g : Warden → Warden) : (s.setWrd g).free = s.free := rfl
@[simp] theorem State.setWrd_pending (g : Warden → Warden) : (s.setWrd g).pending = s.pending := rfl

@[simp] theorem State.setFsh_part (g : Fsh → Fsh) : (s.setFsh g).part = s.part := rfl
@[simp] theorem State.setFsh_now (g : Fsh → Fsh) : (s.setFsh g).now = s.now := rfl
@[simp] theorem State.setFsh_regs (g : Fsh → Fsh) : (s.setFsh g).regs = s.regs := rfl
@[simp] theorem State.setFsh_act (g : Fsh → Fsh) : (s.setFsh g).act = s.act := rfl
@[simp] theorem State.setFsh_aon (g : Fsh → Fsh) : (s.setFsh g).aon = s.aon := rfl
@[simp] theorem State.setFsh_host (g : Fsh → Fsh) : (s.setFsh g).host = s.host := rfl
@[simp] theorem State.setFsh_gkpSide (g : Fsh → Fsh) : (s.setFsh g).gkpSide = s.gkpSide := rfl
@[simp] theorem State.setFsh_commits (g : Fsh → Fsh) : (s.setFsh g).commits = s.commits := rfl
@[simp] theorem State.setFsh_follies (g : Fsh → Fsh) : (s.setFsh g).follies = s.follies := rfl
@[simp] theorem State.setFsh_plls (g : Fsh → Fsh) : (s.setFsh g).plls = s.plls := rfl
@[simp] theorem State.setFsh_pwr (g : Fsh → Fsh) : (s.setFsh g).pwr = s.pwr := rfl
@[simp] theorem State.setFsh_wrd (g : Fsh → Fsh) : (s.setFsh g).wrd = s.wrd := rfl
@[simp] theorem State.setFsh_bist (g : Fsh → Fsh) : (s.setFsh g).bist = s.bist := rfl
@[simp] theorem State.setFsh_gbk (g : Fsh → Fsh) : (s.setFsh g).gbk = s.gbk := rfl
@[simp] theorem State.setFsh_enc (g : Fsh → Fsh) : (s.setFsh g).enc = s.enc := rfl
@[simp] theorem State.setFsh_sdl (g : Fsh → Fsh) : (s.setFsh g).sdl = s.sdl := rfl
@[simp] theorem State.setFsh_hsc (g : Fsh → Fsh) : (s.setFsh g).hsc = s.hsc := rfl
@[simp] theorem State.setFsh_trg (g : Fsh → Fsh) : (s.setFsh g).trg = s.trg := rfl
@[simp] theorem State.setFsh_ref (g : Fsh → Fsh) : (s.setFsh g).ref = s.ref := rfl
@[simp] theorem State.setFsh_stm (g : Fsh → Fsh) : (s.setFsh g).stm = s.stm := rfl
@[simp] theorem State.setFsh_ing (g : Fsh → Fsh) : (s.setFsh g).ing = s.ing := rfl
@[simp] theorem State.setFsh_trl (g : Fsh → Fsh) : (s.setFsh g).trl = s.trl := rfl
@[simp] theorem State.setFsh_fir (g : Fsh → Fsh) : (s.setFsh g).fir = s.fir := rfl
@[simp] theorem State.setFsh_railAt (g : Fsh → Fsh) : (s.setFsh g).railAt = s.railAt := rfl
@[simp] theorem State.setFsh_onk (g : Fsh → Fsh) : (s.setFsh g).onk = s.onk := rfl
@[simp] theorem State.setFsh_tx (g : Fsh → Fsh) : (s.setFsh g).tx = s.tx := rfl
@[simp] theorem State.setFsh_alerts (g : Fsh → Fsh) : (s.setFsh g).alerts = s.alerts := rfl
@[simp] theorem State.setFsh_cam (g : Fsh → Fsh) : (s.setFsh g).cam = s.cam := rfl
@[simp] theorem State.setFsh_blv (g : Fsh → Fsh) : (s.setFsh g).blv = s.blv := rfl
@[simp] theorem State.setFsh_qlp (g : Fsh → Fsh) : (s.setFsh g).qlp = s.qlp := rfl
@[simp] theorem State.setFsh_mem (g : Fsh → Fsh) : (s.setFsh g).mem = s.mem := rfl
@[simp] theorem State.setFsh_poison (g : Fsh → Fsh) : (s.setFsh g).poison = s.poison := rfl
@[simp] theorem State.setFsh_drc (g : Fsh → Fsh) : (s.setFsh g).drc = s.drc := rfl
@[simp] theorem State.setFsh_net (g : Fsh → Fsh) : (s.setFsh g).net = s.net := rfl
@[simp] theorem State.setFsh_tb (g : Fsh → Fsh) : (s.setFsh g).tb = s.tb := rfl
@[simp] theorem State.setFsh_pcie (g : Fsh → Fsh) : (s.setFsh g).pcie = s.pcie := rfl
@[simp] theorem State.setFsh_axes (g : Fsh → Fsh) : (s.setFsh g).axes = s.axes := rfl
@[simp] theorem State.setFsh_fnt (g : Fsh → Fsh) : (s.setFsh g).fnt = s.fnt := rfl
@[simp] theorem State.setFsh_mon (g : Fsh → Fsh) : (s.setFsh g).mon = s.mon := rfl
@[simp] theorem State.setFsh_mechXtal (g : Fsh → Fsh) : (s.setFsh g).mechXtal = s.mechXtal := rfl
@[simp] theorem State.setFsh_gth (g : Fsh → Fsh) : (s.setFsh g).gth = s.gth := rfl
@[simp] theorem State.setFsh_flash (g : Fsh → Fsh) : (s.setFsh g).flash = s.flash := rfl
@[simp] theorem State.setFsh_svnFloor (g : Fsh → Fsh) : (s.setFsh g).svnFloor = s.svnFloor := rfl
@[simp] theorem State.setFsh_emitted (g : Fsh → Fsh) : (s.setFsh g).emitted = s.emitted := rfl
@[simp] theorem State.setFsh_free (g : Fsh → Fsh) : (s.setFsh g).free = s.free := rfl
@[simp] theorem State.setFsh_pending (g : Fsh → Fsh) : (s.setFsh g).pending = s.pending := rfl

@[simp] theorem State.setGth_part (g : Gth → Gth) : (s.setGth g).part = s.part := rfl
@[simp] theorem State.setGth_now (g : Gth → Gth) : (s.setGth g).now = s.now := rfl
@[simp] theorem State.setGth_regs (g : Gth → Gth) : (s.setGth g).regs = s.regs := rfl
@[simp] theorem State.setGth_act (g : Gth → Gth) : (s.setGth g).act = s.act := rfl
@[simp] theorem State.setGth_aon (g : Gth → Gth) : (s.setGth g).aon = s.aon := rfl
@[simp] theorem State.setGth_host (g : Gth → Gth) : (s.setGth g).host = s.host := rfl
@[simp] theorem State.setGth_gkpSide (g : Gth → Gth) : (s.setGth g).gkpSide = s.gkpSide := rfl
@[simp] theorem State.setGth_commits (g : Gth → Gth) : (s.setGth g).commits = s.commits := rfl
@[simp] theorem State.setGth_follies (g : Gth → Gth) : (s.setGth g).follies = s.follies := rfl
@[simp] theorem State.setGth_plls (g : Gth → Gth) : (s.setGth g).plls = s.plls := rfl
@[simp] theorem State.setGth_pwr (g : Gth → Gth) : (s.setGth g).pwr = s.pwr := rfl
@[simp] theorem State.setGth_wrd (g : Gth → Gth) : (s.setGth g).wrd = s.wrd := rfl
@[simp] theorem State.setGth_bist (g : Gth → Gth) : (s.setGth g).bist = s.bist := rfl
@[simp] theorem State.setGth_gbk (g : Gth → Gth) : (s.setGth g).gbk = s.gbk := rfl
@[simp] theorem State.setGth_enc (g : Gth → Gth) : (s.setGth g).enc = s.enc := rfl
@[simp] theorem State.setGth_sdl (g : Gth → Gth) : (s.setGth g).sdl = s.sdl := rfl
@[simp] theorem State.setGth_hsc (g : Gth → Gth) : (s.setGth g).hsc = s.hsc := rfl
@[simp] theorem State.setGth_trg (g : Gth → Gth) : (s.setGth g).trg = s.trg := rfl
@[simp] theorem State.setGth_ref (g : Gth → Gth) : (s.setGth g).ref = s.ref := rfl
@[simp] theorem State.setGth_stm (g : Gth → Gth) : (s.setGth g).stm = s.stm := rfl
@[simp] theorem State.setGth_ing (g : Gth → Gth) : (s.setGth g).ing = s.ing := rfl
@[simp] theorem State.setGth_trl (g : Gth → Gth) : (s.setGth g).trl = s.trl := rfl
@[simp] theorem State.setGth_fir (g : Gth → Gth) : (s.setGth g).fir = s.fir := rfl
@[simp] theorem State.setGth_railAt (g : Gth → Gth) : (s.setGth g).railAt = s.railAt := rfl
@[simp] theorem State.setGth_onk (g : Gth → Gth) : (s.setGth g).onk = s.onk := rfl
@[simp] theorem State.setGth_tx (g : Gth → Gth) : (s.setGth g).tx = s.tx := rfl
@[simp] theorem State.setGth_alerts (g : Gth → Gth) : (s.setGth g).alerts = s.alerts := rfl
@[simp] theorem State.setGth_cam (g : Gth → Gth) : (s.setGth g).cam = s.cam := rfl
@[simp] theorem State.setGth_blv (g : Gth → Gth) : (s.setGth g).blv = s.blv := rfl
@[simp] theorem State.setGth_qlp (g : Gth → Gth) : (s.setGth g).qlp = s.qlp := rfl
@[simp] theorem State.setGth_mem (g : Gth → Gth) : (s.setGth g).mem = s.mem := rfl
@[simp] theorem State.setGth_poison (g : Gth → Gth) : (s.setGth g).poison = s.poison := rfl
@[simp] theorem State.setGth_drc (g : Gth → Gth) : (s.setGth g).drc = s.drc := rfl
@[simp] theorem State.setGth_net (g : Gth → Gth) : (s.setGth g).net = s.net := rfl
@[simp] theorem State.setGth_tb (g : Gth → Gth) : (s.setGth g).tb = s.tb := rfl
@[simp] theorem State.setGth_pcie (g : Gth → Gth) : (s.setGth g).pcie = s.pcie := rfl
@[simp] theorem State.setGth_axes (g : Gth → Gth) : (s.setGth g).axes = s.axes := rfl
@[simp] theorem State.setGth_fnt (g : Gth → Gth) : (s.setGth g).fnt = s.fnt := rfl
@[simp] theorem State.setGth_mon (g : Gth → Gth) : (s.setGth g).mon = s.mon := rfl
@[simp] theorem State.setGth_mechXtal (g : Gth → Gth) : (s.setGth g).mechXtal = s.mechXtal := rfl
@[simp] theorem State.setGth_fsh (g : Gth → Gth) : (s.setGth g).fsh = s.fsh := rfl
@[simp] theorem State.setGth_flash (g : Gth → Gth) : (s.setGth g).flash = s.flash := rfl
@[simp] theorem State.setGth_svnFloor (g : Gth → Gth) : (s.setGth g).svnFloor = s.svnFloor := rfl
@[simp] theorem State.setGth_emitted (g : Gth → Gth) : (s.setGth g).emitted = s.emitted := rfl
@[simp] theorem State.setGth_free (g : Gth → Gth) : (s.setGth g).free = s.free := rfl
@[simp] theorem State.setGth_pending (g : Gth → Gth) : (s.setGth g).pending = s.pending := rfl

@[simp] theorem State.updFolly_part (p : Nat) (g : Folly → Folly) : (s.updFolly p g).part = s.part := rfl
@[simp] theorem State.updFolly_now (p : Nat) (g : Folly → Folly) : (s.updFolly p g).now = s.now := rfl
@[simp] theorem State.updFolly_regs (p : Nat) (g : Folly → Folly) : (s.updFolly p g).regs = s.regs := rfl
@[simp] theorem State.updFolly_act (p : Nat) (g : Folly → Folly) : (s.updFolly p g).act = s.act := rfl
@[simp] theorem State.updFolly_aon (p : Nat) (g : Folly → Folly) : (s.updFolly p g).aon = s.aon := rfl
@[simp] theorem State.updFolly_host (p : Nat) (g : Folly → Folly) : (s.updFolly p g).host = s.host := rfl
@[simp] theorem State.updFolly_gkpSide (p : Nat) (g : Folly → Folly) :
    (s.updFolly p g).gkpSide = s.gkpSide := rfl
@[simp] theorem State.updFolly_commits (p : Nat) (g : Folly → Folly) :
    (s.updFolly p g).commits = s.commits := rfl
@[simp] theorem State.updFolly_plls (p : Nat) (g : Folly → Folly) : (s.updFolly p g).plls = s.plls := rfl
@[simp] theorem State.updFolly_pwr (p : Nat) (g : Folly → Folly) : (s.updFolly p g).pwr = s.pwr := rfl
@[simp] theorem State.updFolly_wrd (p : Nat) (g : Folly → Folly) : (s.updFolly p g).wrd = s.wrd := rfl
@[simp] theorem State.updFolly_bist (p : Nat) (g : Folly → Folly) : (s.updFolly p g).bist = s.bist := rfl
@[simp] theorem State.updFolly_gbk (p : Nat) (g : Folly → Folly) : (s.updFolly p g).gbk = s.gbk := rfl
@[simp] theorem State.updFolly_enc (p : Nat) (g : Folly → Folly) : (s.updFolly p g).enc = s.enc := rfl
@[simp] theorem State.updFolly_sdl (p : Nat) (g : Folly → Folly) : (s.updFolly p g).sdl = s.sdl := rfl
@[simp] theorem State.updFolly_hsc (p : Nat) (g : Folly → Folly) : (s.updFolly p g).hsc = s.hsc := rfl
@[simp] theorem State.updFolly_trg (p : Nat) (g : Folly → Folly) : (s.updFolly p g).trg = s.trg := rfl
@[simp] theorem State.updFolly_ref (p : Nat) (g : Folly → Folly) : (s.updFolly p g).ref = s.ref := rfl
@[simp] theorem State.updFolly_stm (p : Nat) (g : Folly → Folly) : (s.updFolly p g).stm = s.stm := rfl
@[simp] theorem State.updFolly_ing (p : Nat) (g : Folly → Folly) : (s.updFolly p g).ing = s.ing := rfl
@[simp] theorem State.updFolly_trl (p : Nat) (g : Folly → Folly) : (s.updFolly p g).trl = s.trl := rfl
@[simp] theorem State.updFolly_fir (p : Nat) (g : Folly → Folly) : (s.updFolly p g).fir = s.fir := rfl
@[simp] theorem State.updFolly_railAt (p : Nat) (g : Folly → Folly) :
    (s.updFolly p g).railAt = s.railAt := rfl
@[simp] theorem State.updFolly_onk (p : Nat) (g : Folly → Folly) : (s.updFolly p g).onk = s.onk := rfl
@[simp] theorem State.updFolly_tx (p : Nat) (g : Folly → Folly) : (s.updFolly p g).tx = s.tx := rfl
@[simp] theorem State.updFolly_alerts (p : Nat) (g : Folly → Folly) :
    (s.updFolly p g).alerts = s.alerts := rfl
@[simp] theorem State.updFolly_cam (p : Nat) (g : Folly → Folly) : (s.updFolly p g).cam = s.cam := rfl
@[simp] theorem State.updFolly_blv (p : Nat) (g : Folly → Folly) : (s.updFolly p g).blv = s.blv := rfl
@[simp] theorem State.updFolly_qlp (p : Nat) (g : Folly → Folly) : (s.updFolly p g).qlp = s.qlp := rfl
@[simp] theorem State.updFolly_mem (p : Nat) (g : Folly → Folly) : (s.updFolly p g).mem = s.mem := rfl
@[simp] theorem State.updFolly_poison (p : Nat) (g : Folly → Folly) :
    (s.updFolly p g).poison = s.poison := rfl
@[simp] theorem State.updFolly_drc (p : Nat) (g : Folly → Folly) : (s.updFolly p g).drc = s.drc := rfl
@[simp] theorem State.updFolly_net (p : Nat) (g : Folly → Folly) : (s.updFolly p g).net = s.net := rfl
@[simp] theorem State.updFolly_tb (p : Nat) (g : Folly → Folly) : (s.updFolly p g).tb = s.tb := rfl
@[simp] theorem State.updFolly_pcie (p : Nat) (g : Folly → Folly) : (s.updFolly p g).pcie = s.pcie := rfl
@[simp] theorem State.updFolly_axes (p : Nat) (g : Folly → Folly) : (s.updFolly p g).axes = s.axes := rfl
@[simp] theorem State.updFolly_fnt (p : Nat) (g : Folly → Folly) : (s.updFolly p g).fnt = s.fnt := rfl
@[simp] theorem State.updFolly_mon (p : Nat) (g : Folly → Folly) : (s.updFolly p g).mon = s.mon := rfl
@[simp] theorem State.updFolly_mechXtal (p : Nat) (g : Folly → Folly) :
    (s.updFolly p g).mechXtal = s.mechXtal := rfl
@[simp] theorem State.updFolly_gth (p : Nat) (g : Folly → Folly) : (s.updFolly p g).gth = s.gth := rfl
@[simp] theorem State.updFolly_fsh (p : Nat) (g : Folly → Folly) : (s.updFolly p g).fsh = s.fsh := rfl
@[simp] theorem State.updFolly_flash (p : Nat) (g : Folly → Folly) : (s.updFolly p g).flash = s.flash := rfl
@[simp] theorem State.updFolly_svnFloor (p : Nat) (g : Folly → Folly) :
    (s.updFolly p g).svnFloor = s.svnFloor := rfl
@[simp] theorem State.updFolly_emitted (p : Nat) (g : Folly → Folly) :
    (s.updFolly p g).emitted = s.emitted := rfl
@[simp] theorem State.updFolly_free (p : Nat) (g : Folly → Folly) : (s.updFolly p g).free = s.free := rfl
@[simp] theorem State.updFolly_pending (p : Nat) (g : Folly → Folly) :
    (s.updFolly p g).pending = s.pending := rfl

/-! Every write of a field is a `wr`. -/

@[simp] theorem State.wrBit_eq (p : Nat) (f : Fld) (b : Bool) : s.wrBit p f b = s.wr p f (b2n b) := by
  unfold State.wrBit; rfl
@[simp] theorem State.wrS_eq (p : Nat) (f : Fld) (v : Int) : s.wrS p f v = s.wr p f (unsint f.width v) := by
  unfold State.wrS; rfl
@[simp] theorem State.wr2_eq (p : Nat) (l h : Fld) (v : Nat) :
    s.wr2 p l h v = (s.wr p l v).wr p h (v / 2 ^ l.width) := by unfold State.wr2; rfl
@[simp] theorem State.inc_eq (p : Nat) (f : Fld) : s.inc p f = s.wr p f (s.rd p f + 1) := by
  unfold State.inc; rfl
@[simp] theorem State.addSat_eq (p : Nat) (f : Fld) (n : Nat) :
    s.addSat p f n = s.wr p f (min (s.rd p f + n) (2 ^ f.width - 1)) := by unfold State.addSat; rfl
@[simp] theorem State.incSat_eq (p : Nat) (f : Fld) : s.incSat p f = s.addSat p f 1 := by
  unfold State.incSat; rfl
@[simp] theorem State.add2_eq (p : Nat) (l h : Fld) (n : Nat) :
    s.add2 p l h n = s.wr2 p l h (s.rd2 p l h + n) := by unfold State.add2; rfl
@[simp] theorem State.setBusy_eq (p : Nat) (b : Bool) :
    s.setBusy p b = s.wr p UNIT_STATUS_CMD_BUSY (b2n b) := by unfold State.setBusy State.wrBit; rfl
@[simp] theorem State.setState_eq (p c : Nat) : s.setState p c = s.wr p UNIT_STATUS_STATE c := by
  unfold State.setState; rfl

end Sys2Proof.Machine
end

