-- ==== Sys2Proof/Laws/Events.lean ====
section
/-! SUPPORT. What raising an event, dropping a write and refusing a command leave alone: every field but
the registers, the Guestbook, the interrupts due and the follies' marks. -/

namespace Sys2Proof.Machine

variable (s : State)

@[simp] theorem State.setEventBit_part (p b : Nat) : (s.setEventBit p b).part = s.part := by
  unfold State.setEventBit State.eventDue State.signal State.message; dsimp only; repeat' split
  all_goals simp
@[simp] theorem State.setEventBit_now (p b : Nat) : (s.setEventBit p b).now = s.now := by
  unfold State.setEventBit State.eventDue State.signal State.message; dsimp only; repeat' split
  all_goals simp
@[simp] theorem State.setEventBit_act (p b : Nat) : (s.setEventBit p b).act = s.act := by
  unfold State.setEventBit State.eventDue State.signal State.message; dsimp only; repeat' split
  all_goals simp
@[simp] theorem State.setEventBit_aon (p b : Nat) : (s.setEventBit p b).aon = s.aon := by
  unfold State.setEventBit State.eventDue State.signal State.message; dsimp only; repeat' split
  all_goals simp
@[simp] theorem State.setEventBit_host (p b : Nat) : (s.setEventBit p b).host = s.host := by
  unfold State.setEventBit State.eventDue State.signal State.message; dsimp only; repeat' split
  all_goals simp
@[simp] theorem State.setEventBit_gkpSide (p b : Nat) : (s.setEventBit p b).gkpSide = s.gkpSide := by
  unfold State.setEventBit State.eventDue State.signal State.message; dsimp only; repeat' split
  all_goals simp
@[simp] theorem State.setEventBit_commits (p b : Nat) : (s.setEventBit p b).commits = s.commits := by
  unfold State.setEventBit State.eventDue State.signal State.message; dsimp only; repeat' split
  all_goals simp
@[simp] theorem State.setEventBit_follies (p b : Nat) : (s.setEventBit p b).follies = s.follies := by
  unfold State.setEventBit State.eventDue State.signal State.message; dsimp only; repeat' split
  all_goals simp
@[simp] theorem State.setEventBit_plls (p b : Nat) : (s.setEventBit p b).plls = s.plls := by
  unfold State.setEventBit State.eventDue State.signal State.message; dsimp only; repeat' split
  all_goals simp
@[simp] theorem State.setEventBit_pwr (p b : Nat) : (s.setEventBit p b).pwr = s.pwr := by
  unfold State.setEventBit State.eventDue State.signal State.message; dsimp only; repeat' split
  all_goals simp
@[simp] theorem State.setEventBit_wrd (p b : Nat) : (s.setEventBit p b).wrd = s.wrd := by
  unfold State.setEventBit State.eventDue State.signal State.message; dsimp only; repeat' split
  all_goals simp
@[simp] theorem State.setEventBit_bist (p b : Nat) : (s.setEventBit p b).bist = s.bist := by
  unfold State.setEventBit State.eventDue State.signal State.message; dsimp only; repeat' split
  all_goals simp
@[simp] theorem State.setEventBit_gbk (p b : Nat) : (s.setEventBit p b).gbk = s.gbk := by
  unfold State.setEventBit State.eventDue State.signal State.message; dsimp only; repeat' split
  all_goals simp
@[simp] theorem State.setEventBit_enc (p b : Nat) : (s.setEventBit p b).enc = s.enc := by
  unfold State.setEventBit State.eventDue State.signal State.message; dsimp only; repeat' split
  all_goals simp
@[simp] theorem State.setEventBit_sdl (p b : Nat) : (s.setEventBit p b).sdl = s.sdl := by
  unfold State.setEventBit State.eventDue State.signal State.message; dsimp only; repeat' split
  all_goals simp
@[simp] theorem State.setEventBit_hsc (p b : Nat) : (s.setEventBit p b).hsc = s.hsc := by
  unfold State.setEventBit State.eventDue State.signal State.message; dsimp only; repeat' split
  all_goals simp
@[simp] theorem State.setEventBit_trg (p b : Nat) : (s.setEventBit p b).trg = s.trg := by
  unfold State.setEventBit State.eventDue State.signal State.message; dsimp only; repeat' split
  all_goals simp
@[simp] theorem State.setEventBit_ref (p b : Nat) : (s.setEventBit p b).ref = s.ref := by
  unfold State.setEventBit State.eventDue State.signal State.message; dsimp only; repeat' split
  all_goals simp
@[simp] theorem State.setEventBit_stm (p b : Nat) : (s.setEventBit p b).stm = s.stm := by
  unfold State.setEventBit State.eventDue State.signal State.message; dsimp only; repeat' split
  all_goals simp
@[simp] theorem State.setEventBit_ing (p b : Nat) : (s.setEventBit p b).ing = s.ing := by
  unfold State.setEventBit State.eventDue State.signal State.message; dsimp only; repeat' split
  all_goals simp
@[simp] theorem State.setEventBit_trl (p b : Nat) : (s.setEventBit p b).trl = s.trl := by
  unfold State.setEventBit State.eventDue State.signal State.message; dsimp only; repeat' split
  all_goals simp
@[simp] theorem State.setEventBit_fir (p b : Nat) : (s.setEventBit p b).fir = s.fir := by
  unfold State.setEventBit State.eventDue State.signal State.message; dsimp only; repeat' split
  all_goals simp
@[simp] theorem State.setEventBit_railAt (p b : Nat) : (s.setEventBit p b).railAt = s.railAt := by
  unfold State.setEventBit State.eventDue State.signal State.message; dsimp only; repeat' split
  all_goals simp
@[simp] theorem State.setEventBit_onk (p b : Nat) : (s.setEventBit p b).onk = s.onk := by
  unfold State.setEventBit State.eventDue State.signal State.message; dsimp only; repeat' split
  all_goals simp
@[simp] theorem State.setEventBit_tx (p b : Nat) : (s.setEventBit p b).tx = s.tx := by
  unfold State.setEventBit State.eventDue State.signal State.message; dsimp only; repeat' split
  all_goals simp
@[simp] theorem State.setEventBit_alerts (p b : Nat) : (s.setEventBit p b).alerts = s.alerts := by
  unfold State.setEventBit State.eventDue State.signal State.message; dsimp only; repeat' split
  all_goals simp
@[simp] theorem State.setEventBit_cam (p b : Nat) : (s.setEventBit p b).cam = s.cam := by
  unfold State.setEventBit State.eventDue State.signal State.message; dsimp only; repeat' split
  all_goals simp
@[simp] theorem State.setEventBit_blv (p b : Nat) : (s.setEventBit p b).blv = s.blv := by
  unfold State.setEventBit State.eventDue State.signal State.message; dsimp only; repeat' split
  all_goals simp
@[simp] theorem State.setEventBit_qlp (p b : Nat) : (s.setEventBit p b).qlp = s.qlp := by
  unfold State.setEventBit State.eventDue State.signal State.message; dsimp only; repeat' split
  all_goals simp
@[simp] theorem State.setEventBit_mem (p b : Nat) : (s.setEventBit p b).mem = s.mem := by
  unfold State.setEventBit State.eventDue State.signal State.message; dsimp only; repeat' split
  all_goals simp
@[simp] theorem State.setEventBit_poison (p b : Nat) : (s.setEventBit p b).poison = s.poison := by
  unfold State.setEventBit State.eventDue State.signal State.message; dsimp only; repeat' split
  all_goals simp
@[simp] theorem State.setEventBit_drc (p b : Nat) : (s.setEventBit p b).drc = s.drc := by
  unfold State.setEventBit State.eventDue State.signal State.message; dsimp only; repeat' split
  all_goals simp
@[simp] theorem State.setEventBit_net (p b : Nat) : (s.setEventBit p b).net = s.net := by
  unfold State.setEventBit State.eventDue State.signal State.message; dsimp only; repeat' split
  all_goals simp
@[simp] theorem State.setEventBit_tb (p b : Nat) : (s.setEventBit p b).tb = s.tb := by
  unfold State.setEventBit State.eventDue State.signal State.message; dsimp only; repeat' split
  all_goals simp
@[simp] theorem State.setEventBit_axes (p b : Nat) : (s.setEventBit p b).axes = s.axes := by
  unfold State.setEventBit State.eventDue State.signal State.message; dsimp only; repeat' split
  all_goals simp
@[simp] theorem State.setEventBit_fnt (p b : Nat) : (s.setEventBit p b).fnt = s.fnt := by
  unfold State.setEventBit State.eventDue State.signal State.message; dsimp only; repeat' split
  all_goals simp
@[simp] theorem State.setEventBit_mon (p b : Nat) : (s.setEventBit p b).mon = s.mon := by
  unfold State.setEventBit State.eventDue State.signal State.message; dsimp only; repeat' split
  all_goals simp
@[simp] theorem State.setEventBit_mechXtal (p b : Nat) : (s.setEventBit p b).mechXtal = s.mechXtal := by
  unfold State.setEventBit State.eventDue State.signal State.message; dsimp only; repeat' split
  all_goals simp
@[simp] theorem State.setEventBit_gth (p b : Nat) : (s.setEventBit p b).gth = s.gth := by
  unfold State.setEventBit State.eventDue State.signal State.message; dsimp only; repeat' split
  all_goals simp
@[simp] theorem State.setEventBit_fsh (p b : Nat) : (s.setEventBit p b).fsh = s.fsh := by
  unfold State.setEventBit State.eventDue State.signal State.message; dsimp only; repeat' split
  all_goals simp
@[simp] theorem State.setEventBit_flash (p b : Nat) : (s.setEventBit p b).flash = s.flash := by
  unfold State.setEventBit State.eventDue State.signal State.message; dsimp only; repeat' split
  all_goals simp
@[simp] theorem State.setEventBit_svnFloor (p b : Nat) : (s.setEventBit p b).svnFloor = s.svnFloor := by
  unfold State.setEventBit State.eventDue State.signal State.message; dsimp only; repeat' split
  all_goals simp
@[simp] theorem State.setEventBit_free (p b : Nat) : (s.setEventBit p b).free = s.free := by
  unfold State.setEventBit State.eventDue State.signal State.message; dsimp only; repeat' split
  all_goals simp
@[simp] theorem State.setEventBit_pending (p b : Nat) : (s.setEventBit p b).pending = s.pending := by
  unfold State.setEventBit State.eventDue State.signal State.message; dsimp only; repeat' split
  all_goals simp

@[simp] theorem State.gbkEntry_part (e : GbkEntry) : (s.gbkEntry e).part = s.part := by
  unfold State.gbkEntry State.gbkPush; split
  · rename_i h; split at h <;> cases h; rfl
  · simp
@[simp] theorem State.gbkEntry_now (e : GbkEntry) : (s.gbkEntry e).now = s.now := by
  unfold State.gbkEntry State.gbkPush; split
  · rename_i h; split at h <;> cases h; rfl
  · simp
@[simp] theorem State.gbkEntry_act (e : GbkEntry) : (s.gbkEntry e).act = s.act := by
  unfold State.gbkEntry State.gbkPush; split
  · rename_i h; split at h <;> cases h; rfl
  · simp
@[simp] theorem State.gbkEntry_aon (e : GbkEntry) : (s.gbkEntry e).aon = s.aon := by
  unfold State.gbkEntry State.gbkPush; split
  · rename_i h; split at h <;> cases h; rfl
  · simp
@[simp] theorem State.gbkEntry_host (e : GbkEntry) : (s.gbkEntry e).host = s.host := by
  unfold State.gbkEntry State.gbkPush; split
  · rename_i h; split at h <;> cases h; rfl
  · simp
@[simp] theorem State.gbkEntry_gkpSide (e : GbkEntry) : (s.gbkEntry e).gkpSide = s.gkpSide := by
  unfold State.gbkEntry State.gbkPush; split
  · rename_i h; split at h <;> cases h; rfl
  · simp
@[simp] theorem State.gbkEntry_commits (e : GbkEntry) : (s.gbkEntry e).commits = s.commits := by
  unfold State.gbkEntry State.gbkPush; split
  · rename_i h; split at h <;> cases h; rfl
  · simp
@[simp] theorem State.gbkEntry_follies (e : GbkEntry) : (s.gbkEntry e).follies = s.follies := by
  unfold State.gbkEntry State.gbkPush; split
  · rename_i h; split at h <;> cases h; rfl
  · simp
@[simp] theorem State.gbkEntry_plls (e : GbkEntry) : (s.gbkEntry e).plls = s.plls := by
  unfold State.gbkEntry State.gbkPush; split
  · rename_i h; split at h <;> cases h; rfl
  · simp
@[simp] theorem State.gbkEntry_pwr (e : GbkEntry) : (s.gbkEntry e).pwr = s.pwr := by
  unfold State.gbkEntry State.gbkPush; split
  · rename_i h; split at h <;> cases h; rfl
  · simp
@[simp] theorem State.gbkEntry_wrd (e : GbkEntry) : (s.gbkEntry e).wrd = s.wrd := by
  unfold State.gbkEntry State.gbkPush; split
  · rename_i h; split at h <;> cases h; rfl
  · simp
@[simp] theorem State.gbkEntry_bist (e : GbkEntry) : (s.gbkEntry e).bist = s.bist := by
  unfold State.gbkEntry State.gbkPush; split
  · rename_i h; split at h <;> cases h; rfl
  · simp
@[simp] theorem State.gbkEntry_enc (e : GbkEntry) : (s.gbkEntry e).enc = s.enc := by
  unfold State.gbkEntry State.gbkPush; split
  · rename_i h; split at h <;> cases h; rfl
  · simp
@[simp] theorem State.gbkEntry_sdl (e : GbkEntry) : (s.gbkEntry e).sdl = s.sdl := by
  unfold State.gbkEntry State.gbkPush; split
  · rename_i h; split at h <;> cases h; rfl
  · simp
@[simp] theorem State.gbkEntry_hsc (e : GbkEntry) : (s.gbkEntry e).hsc = s.hsc := by
  unfold State.gbkEntry State.gbkPush; split
  · rename_i h; split at h <;> cases h; rfl
  · simp
@[simp] theorem State.gbkEntry_trg (e : GbkEntry) : (s.gbkEntry e).trg = s.trg := by
  unfold State.gbkEntry State.gbkPush; split
  · rename_i h; split at h <;> cases h; rfl
  · simp
@[simp] theorem State.gbkEntry_ref (e : GbkEntry) : (s.gbkEntry e).ref = s.ref := by
  unfold State.gbkEntry State.gbkPush; split
  · rename_i h; split at h <;> cases h; rfl
  · simp
@[simp] theorem State.gbkEntry_stm (e : GbkEntry) : (s.gbkEntry e).stm = s.stm := by
  unfold State.gbkEntry State.gbkPush; split
  · rename_i h; split at h <;> cases h; rfl
  · simp
@[simp] theorem State.gbkEntry_ing (e : GbkEntry) : (s.gbkEntry e).ing = s.ing := by
  unfold State.gbkEntry State.gbkPush; split
  · rename_i h; split at h <;> cases h; rfl
  · simp
@[simp] theorem State.gbkEntry_trl (e : GbkEntry) : (s.gbkEntry e).trl = s.trl := by
  unfold State.gbkEntry State.gbkPush; split
  · rename_i h; split at h <;> cases h; rfl
  · simp
@[simp] theorem State.gbkEntry_fir (e : GbkEntry) : (s.gbkEntry e).fir = s.fir := by
  unfold State.gbkEntry State.gbkPush; split
  · rename_i h; split at h <;> cases h; rfl
  · simp
@[simp] theorem State.gbkEntry_railAt (e : GbkEntry) : (s.gbkEntry e).railAt = s.railAt := by
  unfold State.gbkEntry State.gbkPush; split
  · rename_i h; split at h <;> cases h; rfl
  · simp
@[simp] theorem State.gbkEntry_onk (e : GbkEntry) : (s.gbkEntry e).onk = s.onk := by
  unfold State.gbkEntry State.gbkPush; split
  · rename_i h; split at h <;> cases h; rfl
  · simp
@[simp] theorem State.gbkEntry_tx (e : GbkEntry) : (s.gbkEntry e).tx = s.tx := by
  unfold State.gbkEntry State.gbkPush; split
  · rename_i h; split at h <;> cases h; rfl
  · simp
@[simp] theorem State.gbkEntry_alerts (e : GbkEntry) : (s.gbkEntry e).alerts = s.alerts := by
  unfold State.gbkEntry State.gbkPush; split
  · rename_i h; split at h <;> cases h; rfl
  · simp
@[simp] theorem State.gbkEntry_cam (e : GbkEntry) : (s.gbkEntry e).cam = s.cam := by
  unfold State.gbkEntry State.gbkPush; split
  · rename_i h; split at h <;> cases h; rfl
  · simp
@[simp] theorem State.gbkEntry_blv (e : GbkEntry) : (s.gbkEntry e).blv = s.blv := by
  unfold State.gbkEntry State.gbkPush; split
  · rename_i h; split at h <;> cases h; rfl
  · simp
@[simp] theorem State.gbkEntry_qlp (e : GbkEntry) : (s.gbkEntry e).qlp = s.qlp := by
  unfold State.gbkEntry State.gbkPush; split
  · rename_i h; split at h <;> cases h; rfl
  · simp
@[simp] theorem State.gbkEntry_mem (e : GbkEntry) : (s.gbkEntry e).mem = s.mem := by
  unfold State.gbkEntry State.gbkPush; split
  · rename_i h; split at h <;> cases h; rfl
  · simp
@[simp] theorem State.gbkEntry_poison (e : GbkEntry) : (s.gbkEntry e).poison = s.poison := by
  unfold State.gbkEntry State.gbkPush; split
  · rename_i h; split at h <;> cases h; rfl
  · simp
@[simp] theorem State.gbkEntry_drc (e : GbkEntry) : (s.gbkEntry e).drc = s.drc := by
  unfold State.gbkEntry State.gbkPush; split
  · rename_i h; split at h <;> cases h; rfl
  · simp
@[simp] theorem State.gbkEntry_net (e : GbkEntry) : (s.gbkEntry e).net = s.net := by
  unfold State.gbkEntry State.gbkPush; split
  · rename_i h; split at h <;> cases h; rfl
  · simp
@[simp] theorem State.gbkEntry_tb (e : GbkEntry) : (s.gbkEntry e).tb = s.tb := by
  unfold State.gbkEntry State.gbkPush; split
  · rename_i h; split at h <;> cases h; rfl
  · simp
@[simp] theorem State.gbkEntry_axes (e : GbkEntry) : (s.gbkEntry e).axes = s.axes := by
  unfold State.gbkEntry State.gbkPush; split
  · rename_i h; split at h <;> cases h; rfl
  · simp
@[simp] theorem State.gbkEntry_fnt (e : GbkEntry) : (s.gbkEntry e).fnt = s.fnt := by
  unfold State.gbkEntry State.gbkPush; split
  · rename_i h; split at h <;> cases h; rfl
  · simp
@[simp] theorem State.gbkEntry_mon (e : GbkEntry) : (s.gbkEntry e).mon = s.mon := by
  unfold State.gbkEntry State.gbkPush; split
  · rename_i h; split at h <;> cases h; rfl
  · simp
@[simp] theorem State.gbkEntry_mechXtal (e : GbkEntry) : (s.gbkEntry e).mechXtal = s.mechXtal := by
  unfold State.gbkEntry State.gbkPush; split
  · rename_i h; split at h <;> cases h; rfl
  · simp
@[simp] theorem State.gbkEntry_gth (e : GbkEntry) : (s.gbkEntry e).gth = s.gth := by
  unfold State.gbkEntry State.gbkPush; split
  · rename_i h; split at h <;> cases h; rfl
  · simp
@[simp] theorem State.gbkEntry_fsh (e : GbkEntry) : (s.gbkEntry e).fsh = s.fsh := by
  unfold State.gbkEntry State.gbkPush; split
  · rename_i h; split at h <;> cases h; rfl
  · simp
@[simp] theorem State.gbkEntry_flash (e : GbkEntry) : (s.gbkEntry e).flash = s.flash := by
  unfold State.gbkEntry State.gbkPush; split
  · rename_i h; split at h <;> cases h; rfl
  · simp
@[simp] theorem State.gbkEntry_svnFloor (e : GbkEntry) : (s.gbkEntry e).svnFloor = s.svnFloor := by
  unfold State.gbkEntry State.gbkPush; split
  · rename_i h; split at h <;> cases h; rfl
  · simp
@[simp] theorem State.gbkEntry_free (e : GbkEntry) : (s.gbkEntry e).free = s.free := by
  unfold State.gbkEntry State.gbkPush; split
  · rename_i h; split at h <;> cases h; rfl
  · simp
@[simp] theorem State.gbkEntry_pending (e : GbkEntry) : (s.gbkEntry e).pending = s.pending := by
  unfold State.gbkEntry State.gbkPush; split
  · rename_i h; split at h <;> cases h; rfl
  · simp

@[simp] theorem State.endMarks_part (p b : Nat) : (s.endMarks p b).part = s.part := rfl
@[simp] theorem State.endMarks_now (p b : Nat) : (s.endMarks p b).now = s.now := rfl
@[simp] theorem State.endMarks_regs (p b : Nat) : (s.endMarks p b).regs = s.regs := rfl
@[simp] theorem State.endMarks_act (p b : Nat) : (s.endMarks p b).act = s.act := rfl
@[simp] theorem State.endMarks_aon (p b : Nat) : (s.endMarks p b).aon = s.aon := rfl
@[simp] theorem State.endMarks_host (p b : Nat) : (s.endMarks p b).host = s.host := rfl
@[simp] theorem State.endMarks_gkpSide (p b : Nat) : (s.endMarks p b).gkpSide = s.gkpSide := rfl
@[simp] theorem State.endMarks_commits (p b : Nat) : (s.endMarks p b).commits = s.commits := rfl
@[simp] theorem State.endMarks_plls (p b : Nat) : (s.endMarks p b).plls = s.plls := rfl
@[simp] theorem State.endMarks_pwr (p b : Nat) : (s.endMarks p b).pwr = s.pwr := rfl
@[simp] theorem State.endMarks_wrd (p b : Nat) : (s.endMarks p b).wrd = s.wrd := rfl
@[simp] theorem State.endMarks_bist (p b : Nat) : (s.endMarks p b).bist = s.bist := rfl
@[simp] theorem State.endMarks_gbk (p b : Nat) : (s.endMarks p b).gbk = s.gbk := rfl
@[simp] theorem State.endMarks_enc (p b : Nat) : (s.endMarks p b).enc = s.enc := rfl
@[simp] theorem State.endMarks_sdl (p b : Nat) : (s.endMarks p b).sdl = s.sdl := rfl
@[simp] theorem State.endMarks_hsc (p b : Nat) : (s.endMarks p b).hsc = s.hsc := rfl
@[simp] theorem State.endMarks_trg (p b : Nat) : (s.endMarks p b).trg = s.trg := rfl
@[simp] theorem State.endMarks_ref (p b : Nat) : (s.endMarks p b).ref = s.ref := rfl
@[simp] theorem State.endMarks_stm (p b : Nat) : (s.endMarks p b).stm = s.stm := rfl
@[simp] theorem State.endMarks_ing (p b : Nat) : (s.endMarks p b).ing = s.ing := rfl
@[simp] theorem State.endMarks_trl (p b : Nat) : (s.endMarks p b).trl = s.trl := rfl
@[simp] theorem State.endMarks_fir (p b : Nat) : (s.endMarks p b).fir = s.fir := rfl
@[simp] theorem State.endMarks_railAt (p b : Nat) : (s.endMarks p b).railAt = s.railAt := rfl
@[simp] theorem State.endMarks_onk (p b : Nat) : (s.endMarks p b).onk = s.onk := rfl
@[simp] theorem State.endMarks_tx (p b : Nat) : (s.endMarks p b).tx = s.tx := rfl
@[simp] theorem State.endMarks_alerts (p b : Nat) : (s.endMarks p b).alerts = s.alerts := rfl
@[simp] theorem State.endMarks_cam (p b : Nat) : (s.endMarks p b).cam = s.cam := rfl
@[simp] theorem State.endMarks_blv (p b : Nat) : (s.endMarks p b).blv = s.blv := rfl
@[simp] theorem State.endMarks_qlp (p b : Nat) : (s.endMarks p b).qlp = s.qlp := rfl
@[simp] theorem State.endMarks_mem (p b : Nat) : (s.endMarks p b).mem = s.mem := rfl
@[simp] theorem State.endMarks_poison (p b : Nat) : (s.endMarks p b).poison = s.poison := rfl
@[simp] theorem State.endMarks_drc (p b : Nat) : (s.endMarks p b).drc = s.drc := rfl
@[simp] theorem State.endMarks_net (p b : Nat) : (s.endMarks p b).net = s.net := rfl
@[simp] theorem State.endMarks_tb (p b : Nat) : (s.endMarks p b).tb = s.tb := rfl
@[simp] theorem State.endMarks_pcie (p b : Nat) : (s.endMarks p b).pcie = s.pcie := rfl
@[simp] theorem State.endMarks_axes (p b : Nat) : (s.endMarks p b).axes = s.axes := rfl
@[simp] theorem State.endMarks_fnt (p b : Nat) : (s.endMarks p b).fnt = s.fnt := rfl
@[simp] theorem State.endMarks_mon (p b : Nat) : (s.endMarks p b).mon = s.mon := rfl
@[simp] theorem State.endMarks_mechXtal (p b : Nat) : (s.endMarks p b).mechXtal = s.mechXtal := rfl
@[simp] theorem State.endMarks_gth (p b : Nat) : (s.endMarks p b).gth = s.gth := rfl
@[simp] theorem State.endMarks_fsh (p b : Nat) : (s.endMarks p b).fsh = s.fsh := rfl
@[simp] theorem State.endMarks_flash (p b : Nat) : (s.endMarks p b).flash = s.flash := rfl
@[simp] theorem State.endMarks_svnFloor (p b : Nat) : (s.endMarks p b).svnFloor = s.svnFloor := rfl
@[simp] theorem State.endMarks_emitted (p b : Nat) : (s.endMarks p b).emitted = s.emitted := rfl
@[simp] theorem State.endMarks_free (p b : Nat) : (s.endMarks p b).free = s.free := rfl
@[simp] theorem State.endMarks_pending (p b : Nat) : (s.endMarks p b).pending = s.pending := rfl

@[simp] theorem State.raiseD_part (p b d : Nat) : (s.raiseD p b d).part = s.part := by
  unfold State.raiseD; split
  · rfl
  · dsimp only; repeat' split
    all_goals simp
@[simp] theorem State.raiseD_now (p b d : Nat) : (s.raiseD p b d).now = s.now := by
  unfold State.raiseD; split
  · rfl
  · dsimp only; repeat' split
    all_goals simp
@[simp] theorem State.raiseD_act (p b d : Nat) : (s.raiseD p b d).act = s.act := by
  unfold State.raiseD; split
  · rfl
  · dsimp only; repeat' split
    all_goals simp
@[simp] theorem State.raiseD_aon (p b d : Nat) : (s.raiseD p b d).aon = s.aon := by
  unfold State.raiseD; split
  · rfl
  · dsimp only; repeat' split
    all_goals simp
@[simp] theorem State.raiseD_host (p b d : Nat) : (s.raiseD p b d).host = s.host := by
  unfold State.raiseD; split
  · rfl
  · dsimp only; repeat' split
    all_goals simp
@[simp] theorem State.raiseD_gkpSide (p b d : Nat) : (s.raiseD p b d).gkpSide = s.gkpSide := by
  unfold State.raiseD; split
  · rfl
  · dsimp only; repeat' split
    all_goals simp
@[simp] theorem State.raiseD_commits (p b d : Nat) : (s.raiseD p b d).commits = s.commits := by
  unfold State.raiseD; split
  · rfl
  · dsimp only; repeat' split
    all_goals simp
@[simp] theorem State.raiseD_plls (p b d : Nat) : (s.raiseD p b d).plls = s.plls := by
  unfold State.raiseD; split
  · rfl
  · dsimp only; repeat' split
    all_goals simp
@[simp] theorem State.raiseD_pwr (p b d : Nat) : (s.raiseD p b d).pwr = s.pwr := by
  unfold State.raiseD; split
  · rfl
  · dsimp only; repeat' split
    all_goals simp
@[simp] theorem State.raiseD_wrd (p b d : Nat) : (s.raiseD p b d).wrd = s.wrd := by
  unfold State.raiseD; split
  · rfl
  · dsimp only; repeat' split
    all_goals simp
@[simp] theorem State.raiseD_bist (p b d : Nat) : (s.raiseD p b d).bist = s.bist := by
  unfold State.raiseD; split
  · rfl
  · dsimp only; repeat' split
    all_goals simp
@[simp] theorem State.raiseD_enc (p b d : Nat) : (s.raiseD p b d).enc = s.enc := by
  unfold State.raiseD; split
  · rfl
  · dsimp only; repeat' split
    all_goals simp
@[simp] theorem State.raiseD_sdl (p b d : Nat) : (s.raiseD p b d).sdl = s.sdl := by
  unfold State.raiseD; split
  · rfl
  · dsimp only; repeat' split
    all_goals simp
@[simp] theorem State.raiseD_hsc (p b d : Nat) : (s.raiseD p b d).hsc = s.hsc := by
  unfold State.raiseD; split
  · rfl
  · dsimp only; repeat' split
    all_goals simp
@[simp] theorem State.raiseD_trg (p b d : Nat) : (s.raiseD p b d).trg = s.trg := by
  unfold State.raiseD; split
  · rfl
  · dsimp only; repeat' split
    all_goals simp
@[simp] theorem State.raiseD_ref (p b d : Nat) : (s.raiseD p b d).ref = s.ref := by
  unfold State.raiseD; split
  · rfl
  · dsimp only; repeat' split
    all_goals simp
@[simp] theorem State.raiseD_stm (p b d : Nat) : (s.raiseD p b d).stm = s.stm := by
  unfold State.raiseD; split
  · rfl
  · dsimp only; repeat' split
    all_goals simp
@[simp] theorem State.raiseD_ing (p b d : Nat) : (s.raiseD p b d).ing = s.ing := by
  unfold State.raiseD; split
  · rfl
  · dsimp only; repeat' split
    all_goals simp
@[simp] theorem State.raiseD_trl (p b d : Nat) : (s.raiseD p b d).trl = s.trl := by
  unfold State.raiseD; split
  · rfl
  · dsimp only; repeat' split
    all_goals simp
@[simp] theorem State.raiseD_fir (p b d : Nat) : (s.raiseD p b d).fir = s.fir := by
  unfold State.raiseD; split
  · rfl
  · dsimp only; repeat' split
    all_goals simp
@[simp] theorem State.raiseD_railAt (p b d : Nat) : (s.raiseD p b d).railAt = s.railAt := by
  unfold State.raiseD; split
  · rfl
  · dsimp only; repeat' split
    all_goals simp
@[simp] theorem State.raiseD_onk (p b d : Nat) : (s.raiseD p b d).onk = s.onk := by
  unfold State.raiseD; split
  · rfl
  · dsimp only; repeat' split
    all_goals simp
@[simp] theorem State.raiseD_tx (p b d : Nat) : (s.raiseD p b d).tx = s.tx := by
  unfold State.raiseD; split
  · rfl
  · dsimp only; repeat' split
    all_goals simp
@[simp] theorem State.raiseD_alerts (p b d : Nat) : (s.raiseD p b d).alerts = s.alerts := by
  unfold State.raiseD; split
  · rfl
  · dsimp only; repeat' split
    all_goals simp
@[simp] theorem State.raiseD_cam (p b d : Nat) : (s.raiseD p b d).cam = s.cam := by
  unfold State.raiseD; split
  · rfl
  · dsimp only; repeat' split
    all_goals simp
@[simp] theorem State.raiseD_blv (p b d : Nat) : (s.raiseD p b d).blv = s.blv := by
  unfold State.raiseD; split
  · rfl
  · dsimp only; repeat' split
    all_goals simp
@[simp] theorem State.raiseD_qlp (p b d : Nat) : (s.raiseD p b d).qlp = s.qlp := by
  unfold State.raiseD; split
  · rfl
  · dsimp only; repeat' split
    all_goals simp
@[simp] theorem State.raiseD_mem (p b d : Nat) : (s.raiseD p b d).mem = s.mem := by
  unfold State.raiseD; split
  · rfl
  · dsimp only; repeat' split
    all_goals simp
@[simp] theorem State.raiseD_poison (p b d : Nat) : (s.raiseD p b d).poison = s.poison := by
  unfold State.raiseD; split
  · rfl
  · dsimp only; repeat' split
    all_goals simp
@[simp] theorem State.raiseD_drc (p b d : Nat) : (s.raiseD p b d).drc = s.drc := by
  unfold State.raiseD; split
  · rfl
  · dsimp only; repeat' split
    all_goals simp
@[simp] theorem State.raiseD_net (p b d : Nat) : (s.raiseD p b d).net = s.net := by
  unfold State.raiseD; split
  · rfl
  · dsimp only; repeat' split
    all_goals simp
@[simp] theorem State.raiseD_tb (p b d : Nat) : (s.raiseD p b d).tb = s.tb := by
  unfold State.raiseD; split
  · rfl
  · dsimp only; repeat' split
    all_goals simp
@[simp] theorem State.raiseD_axes (p b d : Nat) : (s.raiseD p b d).axes = s.axes := by
  unfold State.raiseD; split
  · rfl
  · dsimp only; repeat' split
    all_goals simp
@[simp] theorem State.raiseD_fnt (p b d : Nat) : (s.raiseD p b d).fnt = s.fnt := by
  unfold State.raiseD; split
  · rfl
  · dsimp only; repeat' split
    all_goals simp
@[simp] theorem State.raiseD_mon (p b d : Nat) : (s.raiseD p b d).mon = s.mon := by
  unfold State.raiseD; split
  · rfl
  · dsimp only; repeat' split
    all_goals simp
@[simp] theorem State.raiseD_mechXtal (p b d : Nat) : (s.raiseD p b d).mechXtal = s.mechXtal := by
  unfold State.raiseD; split
  · rfl
  · dsimp only; repeat' split
    all_goals simp
@[simp] theorem State.raiseD_gth (p b d : Nat) : (s.raiseD p b d).gth = s.gth := by
  unfold State.raiseD; split
  · rfl
  · dsimp only; repeat' split
    all_goals simp
@[simp] theorem State.raiseD_fsh (p b d : Nat) : (s.raiseD p b d).fsh = s.fsh := by
  unfold State.raiseD; split
  · rfl
  · dsimp only; repeat' split
    all_goals simp
@[simp] theorem State.raiseD_flash (p b d : Nat) : (s.raiseD p b d).flash = s.flash := by
  unfold State.raiseD; split
  · rfl
  · dsimp only; repeat' split
    all_goals simp
@[simp] theorem State.raiseD_svnFloor (p b d : Nat) : (s.raiseD p b d).svnFloor = s.svnFloor := by
  unfold State.raiseD; split
  · rfl
  · dsimp only; repeat' split
    all_goals simp
@[simp] theorem State.raiseD_free (p b d : Nat) : (s.raiseD p b d).free = s.free := by
  unfold State.raiseD; split
  · rfl
  · dsimp only; repeat' split
    all_goals simp
@[simp] theorem State.raiseD_pending (p b d : Nat) : (s.raiseD p b d).pending = s.pending := by
  unfold State.raiseD; split
  · rfl
  · dsimp only; repeat' split
    all_goals simp

@[simp] theorem State.raise_part (p b : Nat) : (s.raise p b).part = s.part := by unfold State.raise; simp
@[simp] theorem State.raise_now (p b : Nat) : (s.raise p b).now = s.now := by unfold State.raise; simp
@[simp] theorem State.raise_act (p b : Nat) : (s.raise p b).act = s.act := by unfold State.raise; simp
@[simp] theorem State.raise_aon (p b : Nat) : (s.raise p b).aon = s.aon := by unfold State.raise; simp
@[simp] theorem State.raise_host (p b : Nat) : (s.raise p b).host = s.host := by unfold State.raise; simp
@[simp] theorem State.raise_gkpSide (p b : Nat) :
    (s.raise p b).gkpSide = s.gkpSide := by unfold State.raise; simp
@[simp] theorem State.raise_commits (p b : Nat) :
    (s.raise p b).commits = s.commits := by unfold State.raise; simp
@[simp] theorem State.raise_plls (p b : Nat) : (s.raise p b).plls = s.plls := by unfold State.raise; simp
@[simp] theorem State.raise_pwr (p b : Nat) : (s.raise p b).pwr = s.pwr := by unfold State.raise; simp
@[simp] theorem State.raise_wrd (p b : Nat) : (s.raise p b).wrd = s.wrd := by unfold State.raise; simp
@[simp] theorem State.raise_bist (p b : Nat) : (s.raise p b).bist = s.bist := by unfold State.raise; simp
@[simp] theorem State.raise_enc (p b : Nat) : (s.raise p b).enc = s.enc := by unfold State.raise; simp
@[simp] theorem State.raise_sdl (p b : Nat) : (s.raise p b).sdl = s.sdl := by unfold State.raise; simp
@[simp] theorem State.raise_hsc (p b : Nat) : (s.raise p b).hsc = s.hsc := by unfold State.raise; simp
@[simp] theorem State.raise_trg (p b : Nat) : (s.raise p b).trg = s.trg := by unfold State.raise; simp
@[simp] theorem State.raise_ref (p b : Nat) : (s.raise p b).ref = s.ref := by unfold State.raise; simp
@[simp] theorem State.raise_stm (p b : Nat) : (s.raise p b).stm = s.stm := by unfold State.raise; simp
@[simp] theorem State.raise_ing (p b : Nat) : (s.raise p b).ing = s.ing := by unfold State.raise; simp
@[simp] theorem State.raise_trl (p b : Nat) : (s.raise p b).trl = s.trl := by unfold State.raise; simp
@[simp] theorem State.raise_fir (p b : Nat) : (s.raise p b).fir = s.fir := by unfold State.raise; simp
@[simp] theorem State.raise_railAt (p b : Nat) :
    (s.raise p b).railAt = s.railAt := by unfold State.raise; simp
@[simp] theorem State.raise_onk (p b : Nat) : (s.raise p b).onk = s.onk := by unfold State.raise; simp
@[simp] theorem State.raise_tx (p b : Nat) : (s.raise p b).tx = s.tx := by unfold State.raise; simp
@[simp] theorem State.raise_alerts (p b : Nat) :
    (s.raise p b).alerts = s.alerts := by unfold State.raise; simp
@[simp] theorem State.raise_cam (p b : Nat) : (s.raise p b).cam = s.cam := by unfold State.raise; simp
@[simp] theorem State.raise_blv (p b : Nat) : (s.raise p b).blv = s.blv := by unfold State.raise; simp
@[simp] theorem State.raise_qlp (p b : Nat) : (s.raise p b).qlp = s.qlp := by unfold State.raise; simp
@[simp] theorem State.raise_mem (p b : Nat) : (s.raise p b).mem = s.mem := by unfold State.raise; simp
@[simp] theorem State.raise_poison (p b : Nat) :
    (s.raise p b).poison = s.poison := by unfold State.raise; simp
@[simp] theorem State.raise_drc (p b : Nat) : (s.raise p b).drc = s.drc := by unfold State.raise; simp
@[simp] theorem State.raise_net (p b : Nat) : (s.raise p b).net = s.net := by unfold State.raise; simp
@[simp] theorem State.raise_tb (p b : Nat) : (s.raise p b).tb = s.tb := by unfold State.raise; simp
@[simp] theorem State.raise_axes (p b : Nat) : (s.raise p b).axes = s.axes := by unfold State.raise; simp
@[simp] theorem State.raise_fnt (p b : Nat) : (s.raise p b).fnt = s.fnt := by unfold State.raise; simp
@[simp] theorem State.raise_mon (p b : Nat) : (s.raise p b).mon = s.mon := by unfold State.raise; simp
@[simp] theorem State.raise_mechXtal (p b : Nat) :
    (s.raise p b).mechXtal = s.mechXtal := by unfold State.raise; simp
@[simp] theorem State.raise_gth (p b : Nat) : (s.raise p b).gth = s.gth := by unfold State.raise; simp
@[simp] theorem State.raise_fsh (p b : Nat) : (s.raise p b).fsh = s.fsh := by unfold State.raise; simp
@[simp] theorem State.raise_flash (p b : Nat) : (s.raise p b).flash = s.flash := by unfold State.raise; simp
@[simp] theorem State.raise_svnFloor (p b : Nat) :
    (s.raise p b).svnFloor = s.svnFloor := by unfold State.raise; simp
@[simp] theorem State.raise_free (p b : Nat) : (s.raise p b).free = s.free := by unfold State.raise; simp
@[simp] theorem State.raise_pending (p b : Nat) :
    (s.raise p b).pending = s.pending := by unfold State.raise; simp

@[simp] theorem State.record_part (e p d : Nat) :
    (s.record e p d).part = s.part := by unfold State.record; simp
@[simp] theorem State.record_now (e p d : Nat) :
    (s.record e p d).now = s.now := by unfold State.record; simp
@[simp] theorem State.record_act (e p d : Nat) :
    (s.record e p d).act = s.act := by unfold State.record; simp
@[simp] theorem State.record_aon (e p d : Nat) :
    (s.record e p d).aon = s.aon := by unfold State.record; simp
@[simp] theorem State.record_host (e p d : Nat) :
    (s.record e p d).host = s.host := by unfold State.record; simp
@[simp] theorem State.record_gkpSide (e p d : Nat) :
    (s.record e p d).gkpSide = s.gkpSide := by unfold State.record; simp
@[simp] theorem State.record_commits (e p d : Nat) :
    (s.record e p d).commits = s.commits := by unfold State.record; simp
@[simp] theorem State.record_follies (e p d : Nat) :
    (s.record e p d).follies = s.follies := by unfold State.record; simp
@[simp] theorem State.record_plls (e p d : Nat) :
    (s.record e p d).plls = s.plls := by unfold State.record; simp
@[simp] theorem State.record_pwr (e p d : Nat) :
    (s.record e p d).pwr = s.pwr := by unfold State.record; simp
@[simp] theorem State.record_wrd (e p d : Nat) :
    (s.record e p d).wrd = s.wrd := by unfold State.record; simp
@[simp] theorem State.record_bist (e p d : Nat) :
    (s.record e p d).bist = s.bist := by unfold State.record; simp
@[simp] theorem State.record_enc (e p d : Nat) :
    (s.record e p d).enc = s.enc := by unfold State.record; simp
@[simp] theorem State.record_sdl (e p d : Nat) :
    (s.record e p d).sdl = s.sdl := by unfold State.record; simp
@[simp] theorem State.record_hsc (e p d : Nat) :
    (s.record e p d).hsc = s.hsc := by unfold State.record; simp
@[simp] theorem State.record_trg (e p d : Nat) :
    (s.record e p d).trg = s.trg := by unfold State.record; simp
@[simp] theorem State.record_ref (e p d : Nat) :
    (s.record e p d).ref = s.ref := by unfold State.record; simp
@[simp] theorem State.record_stm (e p d : Nat) :
    (s.record e p d).stm = s.stm := by unfold State.record; simp
@[simp] theorem State.record_ing (e p d : Nat) :
    (s.record e p d).ing = s.ing := by unfold State.record; simp
@[simp] theorem State.record_trl (e p d : Nat) :
    (s.record e p d).trl = s.trl := by unfold State.record; simp
@[simp] theorem State.record_fir (e p d : Nat) :
    (s.record e p d).fir = s.fir := by unfold State.record; simp
@[simp] theorem State.record_railAt (e p d : Nat) :
    (s.record e p d).railAt = s.railAt := by unfold State.record; simp
@[simp] theorem State.record_onk (e p d : Nat) :
    (s.record e p d).onk = s.onk := by unfold State.record; simp
@[simp] theorem State.record_tx (e p d : Nat) : (s.record e p d).tx = s.tx := by unfold State.record; simp
@[simp] theorem State.record_alerts (e p d : Nat) :
    (s.record e p d).alerts = s.alerts := by unfold State.record; simp
@[simp] theorem State.record_cam (e p d : Nat) :
    (s.record e p d).cam = s.cam := by unfold State.record; simp
@[simp] theorem State.record_blv (e p d : Nat) :
    (s.record e p d).blv = s.blv := by unfold State.record; simp
@[simp] theorem State.record_qlp (e p d : Nat) :
    (s.record e p d).qlp = s.qlp := by unfold State.record; simp
@[simp] theorem State.record_mem (e p d : Nat) :
    (s.record e p d).mem = s.mem := by unfold State.record; simp
@[simp] theorem State.record_poison (e p d : Nat) :
    (s.record e p d).poison = s.poison := by unfold State.record; simp
@[simp] theorem State.record_drc (e p d : Nat) :
    (s.record e p d).drc = s.drc := by unfold State.record; simp
@[simp] theorem State.record_net (e p d : Nat) :
    (s.record e p d).net = s.net := by unfold State.record; simp
@[simp] theorem State.record_tb (e p d : Nat) : (s.record e p d).tb = s.tb := by unfold State.record; simp
@[simp] theorem State.record_axes (e p d : Nat) :
    (s.record e p d).axes = s.axes := by unfold State.record; simp
@[simp] theorem State.record_fnt (e p d : Nat) :
    (s.record e p d).fnt = s.fnt := by unfold State.record; simp
@[simp] theorem State.record_mon (e p d : Nat) :
    (s.record e p d).mon = s.mon := by unfold State.record; simp
@[simp] theorem State.record_mechXtal (e p d : Nat) :
    (s.record e p d).mechXtal = s.mechXtal := by unfold State.record; simp
@[simp] theorem State.record_gth (e p d : Nat) :
    (s.record e p d).gth = s.gth := by unfold State.record; simp
@[simp] theorem State.record_fsh (e p d : Nat) :
    (s.record e p d).fsh = s.fsh := by unfold State.record; simp
@[simp] theorem State.record_flash (e p d : Nat) :
    (s.record e p d).flash = s.flash := by unfold State.record; simp
@[simp] theorem State.record_svnFloor (e p d : Nat) :
    (s.record e p d).svnFloor = s.svnFloor := by unfold State.record; simp
@[simp] theorem State.record_free (e p d : Nat) :
    (s.record e p d).free = s.free := by unfold State.record; simp
@[simp] theorem State.record_pending (e p d : Nat) :
    (s.record e p d).pending = s.pending := by unfold State.record; simp

@[simp] theorem State.regAlert_part (p o : Nat) (r : Req) (c w : Nat) :
    (s.regAlert p o r c w).part = s.part := by unfold State.regAlert; simp
@[simp] theorem State.regAlert_now (p o : Nat) (r : Req) (c w : Nat) :
    (s.regAlert p o r c w).now = s.now := by unfold State.regAlert; simp
@[simp] theorem State.regAlert_act (p o : Nat) (r : Req) (c w : Nat) :
    (s.regAlert p o r c w).act = s.act := by unfold State.regAlert; simp
@[simp] theorem State.regAlert_aon (p o : Nat) (r : Req) (c w : Nat) :
    (s.regAlert p o r c w).aon = s.aon := by unfold State.regAlert; simp
@[simp] theorem State.regAlert_host (p o : Nat) (r : Req) (c w : Nat) :
    (s.regAlert p o r c w).host = s.host := by unfold State.regAlert; simp
@[simp] theorem State.regAlert_gkpSide (p o : Nat) (r : Req) (c w : Nat) :
    (s.regAlert p o r c w).gkpSide = s.gkpSide := by unfold State.regAlert; simp
@[simp] theorem State.regAlert_commits (p o : Nat) (r : Req) (c w : Nat) :
    (s.regAlert p o r c w).commits = s.commits := by unfold State.regAlert; simp
@[simp] theorem State.regAlert_plls (p o : Nat) (r : Req) (c w : Nat) :
    (s.regAlert p o r c w).plls = s.plls := by unfold State.regAlert; simp
@[simp] theorem State.regAlert_pwr (p o : Nat) (r : Req) (c w : Nat) :
    (s.regAlert p o r c w).pwr = s.pwr := by unfold State.regAlert; simp
@[simp] theorem State.regAlert_wrd (p o : Nat) (r : Req) (c w : Nat) :
    (s.regAlert p o r c w).wrd = s.wrd := by unfold State.regAlert; simp
@[simp] theorem State.regAlert_bist (p o : Nat) (r : Req) (c w : Nat) :
    (s.regAlert p o r c w).bist = s.bist := by unfold State.regAlert; simp
@[simp] theorem State.regAlert_enc (p o : Nat) (r : Req) (c w : Nat) :
    (s.regAlert p o r c w).enc = s.enc := by unfold State.regAlert; simp
@[simp] theorem State.regAlert_sdl (p o : Nat) (r : Req) (c w : Nat) :
    (s.regAlert p o r c w).sdl = s.sdl := by unfold State.regAlert; simp
@[simp] theorem State.regAlert_hsc (p o : Nat) (r : Req) (c w : Nat) :
    (s.regAlert p o r c w).hsc = s.hsc := by unfold State.regAlert; simp
@[simp] theorem State.regAlert_trg (p o : Nat) (r : Req) (c w : Nat) :
    (s.regAlert p o r c w).trg = s.trg := by unfold State.regAlert; simp
@[simp] theorem State.regAlert_ref (p o : Nat) (r : Req) (c w : Nat) :
    (s.regAlert p o r c w).ref = s.ref := by unfold State.regAlert; simp
@[simp] theorem State.regAlert_stm (p o : Nat) (r : Req) (c w : Nat) :
    (s.regAlert p o r c w).stm = s.stm := by unfold State.regAlert; simp
@[simp] theorem State.regAlert_ing (p o : Nat) (r : Req) (c w : Nat) :
    (s.regAlert p o r c w).ing = s.ing := by unfold State.regAlert; simp
@[simp] theorem State.regAlert_trl (p o : Nat) (r : Req) (c w : Nat) :
    (s.regAlert p o r c w).trl = s.trl := by unfold State.regAlert; simp
@[simp] theorem State.regAlert_fir (p o : Nat) (r : Req) (c w : Nat) :
    (s.regAlert p o r c w).fir = s.fir := by unfold State.regAlert; simp
@[simp] theorem State.regAlert_railAt (p o : Nat) (r : Req) (c w : Nat) :
    (s.regAlert p o r c w).railAt = s.railAt := by unfold State.regAlert; simp
@[simp] theorem State.regAlert_onk (p o : Nat) (r : Req) (c w : Nat) :
    (s.regAlert p o r c w).onk = s.onk := by unfold State.regAlert; simp
@[simp] theorem State.regAlert_tx (p o : Nat) (r : Req) (c w : Nat) :
    (s.regAlert p o r c w).tx = s.tx := by unfold State.regAlert; simp
@[simp] theorem State.regAlert_alerts (p o : Nat) (r : Req) (c w : Nat) :
    (s.regAlert p o r c w).alerts = s.alerts := by unfold State.regAlert; simp
@[simp] theorem State.regAlert_cam (p o : Nat) (r : Req) (c w : Nat) :
    (s.regAlert p o r c w).cam = s.cam := by unfold State.regAlert; simp
@[simp] theorem State.regAlert_blv (p o : Nat) (r : Req) (c w : Nat) :
    (s.regAlert p o r c w).blv = s.blv := by unfold State.regAlert; simp
@[simp] theorem State.regAlert_qlp (p o : Nat) (r : Req) (c w : Nat) :
    (s.regAlert p o r c w).qlp = s.qlp := by unfold State.regAlert; simp
@[simp] theorem State.regAlert_mem (p o : Nat) (r : Req) (c w : Nat) :
    (s.regAlert p o r c w).mem = s.mem := by unfold State.regAlert; simp
@[simp] theorem State.regAlert_poison (p o : Nat) (r : Req) (c w : Nat) :
    (s.regAlert p o r c w).poison = s.poison := by unfold State.regAlert; simp
@[simp] theorem State.regAlert_drc (p o : Nat) (r : Req) (c w : Nat) :
    (s.regAlert p o r c w).drc = s.drc := by unfold State.regAlert; simp
@[simp] theorem State.regAlert_net (p o : Nat) (r : Req) (c w : Nat) :
    (s.regAlert p o r c w).net = s.net := by unfold State.regAlert; simp
@[simp] theorem State.regAlert_tb (p o : Nat) (r : Req) (c w : Nat) :
    (s.regAlert p o r c w).tb = s.tb := by unfold State.regAlert; simp
@[simp] theorem State.regAlert_axes (p o : Nat) (r : Req) (c w : Nat) :
    (s.regAlert p o r c w).axes = s.axes := by unfold State.regAlert; simp
@[simp] theorem State.regAlert_fnt (p o : Nat) (r : Req) (c w : Nat) :
    (s.regAlert p o r c w).fnt = s.fnt := by unfold State.regAlert; simp
@[simp] theorem State.regAlert_mon (p o : Nat) (r : Req) (c w : Nat) :
    (s.regAlert p o r c w).mon = s.mon := by unfold State.regAlert; simp
@[simp] theorem State.regAlert_mechXtal (p o : Nat) (r : Req) (c w : Nat) :
    (s.regAlert p o r c w).mechXtal = s.mechXtal := by unfold State.regAlert; simp
@[simp] theorem State.regAlert_gth (p o : Nat) (r : Req) (c w : Nat) :
    (s.regAlert p o r c w).gth = s.gth := by unfold State.regAlert; simp
@[simp] theorem State.regAlert_fsh (p o : Nat) (r : Req) (c w : Nat) :
    (s.regAlert p o r c w).fsh = s.fsh := by unfold State.regAlert; simp
@[simp] theorem State.regAlert_flash (p o : Nat) (r : Req) (c w : Nat) :
    (s.regAlert p o r c w).flash = s.flash := by unfold State.regAlert; simp
@[simp] theorem State.regAlert_svnFloor (p o : Nat) (r : Req) (c w : Nat) :
    (s.regAlert p o r c w).svnFloor = s.svnFloor := by unfold State.regAlert; simp
@[simp] theorem State.regAlert_free (p o : Nat) (r : Req) (c w : Nat) :
    (s.regAlert p o r c w).free = s.free := by unfold State.regAlert; simp
@[simp] theorem State.regAlert_pending (p o : Nat) (r : Req) (c w : Nat) :
    (s.regAlert p o r c w).pending = s.pending := by unfold State.regAlert; simp

@[simp] theorem State.dropWrite_part (r : Req) (p o : Nat) :
    (s.dropWrite r p o).part = s.part := by unfold State.dropWrite; simp
@[simp] theorem State.dropWrite_now (r : Req) (p o : Nat) :
    (s.dropWrite r p o).now = s.now := by unfold State.dropWrite; simp
@[simp] theorem State.dropWrite_act (r : Req) (p o : Nat) :
    (s.dropWrite r p o).act = s.act := by unfold State.dropWrite; simp
@[simp] theorem State.dropWrite_aon (r : Req) (p o : Nat) :
    (s.dropWrite r p o).aon = s.aon := by unfold State.dropWrite; simp
@[simp] theorem State.dropWrite_host (r : Req) (p o : Nat) :
    (s.dropWrite r p o).host = s.host := by unfold State.dropWrite; simp
@[simp] theorem State.dropWrite_gkpSide (r : Req) (p o : Nat) :
    (s.dropWrite r p o).gkpSide = s.gkpSide := by unfold State.dropWrite; simp
@[simp] theorem State.dropWrite_commits (r : Req) (p o : Nat) :
    (s.dropWrite r p o).commits = s.commits := by unfold State.dropWrite; simp
@[simp] theorem State.dropWrite_plls (r : Req) (p o : Nat) :
    (s.dropWrite r p o).plls = s.plls := by unfold State.dropWrite; simp
@[simp] theorem State.dropWrite_pwr (r : Req) (p o : Nat) :
    (s.dropWrite r p o).pwr = s.pwr := by unfold State.dropWrite; simp
@[simp] theorem State.dropWrite_wrd (r : Req) (p o : Nat) :
    (s.dropWrite r p o).wrd = s.wrd := by unfold State.dropWrite; simp
@[simp] theorem State.dropWrite_bist (r : Req) (p o : Nat) :
    (s.dropWrite r p o).bist = s.bist := by unfold State.dropWrite; simp
@[simp] theorem State.dropWrite_enc (r : Req) (p o : Nat) :
    (s.dropWrite r p o).enc = s.enc := by unfold State.dropWrite; simp
@[simp] theorem State.dropWrite_sdl (r : Req) (p o : Nat) :
    (s.dropWrite r p o).sdl = s.sdl := by unfold State.dropWrite; simp
@[simp] theorem State.dropWrite_hsc (r : Req) (p o : Nat) :
    (s.dropWrite r p o).hsc = s.hsc := by unfold State.dropWrite; simp
@[simp] theorem State.dropWrite_trg (r : Req) (p o : Nat) :
    (s.dropWrite r p o).trg = s.trg := by unfold State.dropWrite; simp
@[simp] theorem State.dropWrite_ref (r : Req) (p o : Nat) :
    (s.dropWrite r p o).ref = s.ref := by unfold State.dropWrite; simp
@[simp] theorem State.dropWrite_stm (r : Req) (p o : Nat) :
    (s.dropWrite r p o).stm = s.stm := by unfold State.dropWrite; simp
@[simp] theorem State.dropWrite_ing (r : Req) (p o : Nat) :
    (s.dropWrite r p o).ing = s.ing := by unfold State.dropWrite; simp
@[simp] theorem State.dropWrite_trl (r : Req) (p o : Nat) :
    (s.dropWrite r p o).trl = s.trl := by unfold State.dropWrite; simp
@[simp] theorem State.dropWrite_fir (r : Req) (p o : Nat) :
    (s.dropWrite r p o).fir = s.fir := by unfold State.dropWrite; simp
@[simp] theorem State.dropWrite_railAt (r : Req) (p o : Nat) :
    (s.dropWrite r p o).railAt = s.railAt := by unfold State.dropWrite; simp
@[simp] theorem State.dropWrite_onk (r : Req) (p o : Nat) :
    (s.dropWrite r p o).onk = s.onk := by unfold State.dropWrite; simp
@[simp] theorem State.dropWrite_tx (r : Req) (p o : Nat) :
    (s.dropWrite r p o).tx = s.tx := by unfold State.dropWrite; simp
@[simp] theorem State.dropWrite_alerts (r : Req) (p o : Nat) :
    (s.dropWrite r p o).alerts = s.alerts := by unfold State.dropWrite; simp
@[simp] theorem State.dropWrite_cam (r : Req) (p o : Nat) :
    (s.dropWrite r p o).cam = s.cam := by unfold State.dropWrite; simp
@[simp] theorem State.dropWrite_blv (r : Req) (p o : Nat) :
    (s.dropWrite r p o).blv = s.blv := by unfold State.dropWrite; simp
@[simp] theorem State.dropWrite_qlp (r : Req) (p o : Nat) :
    (s.dropWrite r p o).qlp = s.qlp := by unfold State.dropWrite; simp
@[simp] theorem State.dropWrite_mem (r : Req) (p o : Nat) :
    (s.dropWrite r p o).mem = s.mem := by unfold State.dropWrite; simp
@[simp] theorem State.dropWrite_poison (r : Req) (p o : Nat) :
    (s.dropWrite r p o).poison = s.poison := by unfold State.dropWrite; simp
@[simp] theorem State.dropWrite_drc (r : Req) (p o : Nat) :
    (s.dropWrite r p o).drc = s.drc := by unfold State.dropWrite; simp
@[simp] theorem State.dropWrite_net (r : Req) (p o : Nat) :
    (s.dropWrite r p o).net = s.net := by unfold State.dropWrite; simp
@[simp] theorem State.dropWrite_tb (r : Req) (p o : Nat) :
    (s.dropWrite r p o).tb = s.tb := by unfold State.dropWrite; simp
@[simp] theorem State.dropWrite_axes (r : Req) (p o : Nat) :
    (s.dropWrite r p o).axes = s.axes := by unfold State.dropWrite; simp
@[simp] theorem State.dropWrite_fnt (r : Req) (p o : Nat) :
    (s.dropWrite r p o).fnt = s.fnt := by unfold State.dropWrite; simp
@[simp] theorem State.dropWrite_mon (r : Req) (p o : Nat) :
    (s.dropWrite r p o).mon = s.mon := by unfold State.dropWrite; simp
@[simp] theorem State.dropWrite_mechXtal (r : Req) (p o : Nat) :
    (s.dropWrite r p o).mechXtal = s.mechXtal := by unfold State.dropWrite; simp
@[simp] theorem State.dropWrite_gth (r : Req) (p o : Nat) :
    (s.dropWrite r p o).gth = s.gth := by unfold State.dropWrite; simp
@[simp] theorem State.dropWrite_fsh (r : Req) (p o : Nat) :
    (s.dropWrite r p o).fsh = s.fsh := by unfold State.dropWrite; simp
@[simp] theorem State.dropWrite_flash (r : Req) (p o : Nat) :
    (s.dropWrite r p o).flash = s.flash := by unfold State.dropWrite; simp
@[simp] theorem State.dropWrite_svnFloor (r : Req) (p o : Nat) :
    (s.dropWrite r p o).svnFloor = s.svnFloor := by unfold State.dropWrite; simp
@[simp] theorem State.dropWrite_free (r : Req) (p o : Nat) :
    (s.dropWrite r p o).free = s.free := by unfold State.dropWrite; simp
@[simp] theorem State.dropWrite_pending (r : Req) (p o : Nat) :
    (s.dropWrite r p o).pending = s.pending := by unfold State.dropWrite; simp

@[simp] theorem State.denyDown_part (r : Req) (p o : Nat) :
    (s.denyDown r p o).part = s.part := by unfold State.denyDown; simp
@[simp] theorem State.denyDown_now (r : Req) (p o : Nat) :
    (s.denyDown r p o).now = s.now := by unfold State.denyDown; simp
@[simp] theorem State.denyDown_act (r : Req) (p o : Nat) :
    (s.denyDown r p o).act = s.act := by unfold State.denyDown; simp
@[simp] theorem State.denyDown_aon (r : Req) (p o : Nat) :
    (s.denyDown r p o).aon = s.aon := by unfold State.denyDown; simp
@[simp] theorem State.denyDown_host (r : Req) (p o : Nat) :
    (s.denyDown r p o).host = s.host := by unfold State.denyDown; simp
@[simp] theorem State.denyDown_gkpSide (r : Req) (p o : Nat) :
    (s.denyDown r p o).gkpSide = s.gkpSide := by unfold State.denyDown; simp
@[simp] theorem State.denyDown_commits (r : Req) (p o : Nat) :
    (s.denyDown r p o).commits = s.commits := by unfold State.denyDown; simp
@[simp] theorem State.denyDown_plls (r : Req) (p o : Nat) :
    (s.denyDown r p o).plls = s.plls := by unfold State.denyDown; simp
@[simp] theorem State.denyDown_pwr (r : Req) (p o : Nat) :
    (s.denyDown r p o).pwr = s.pwr := by unfold State.denyDown; simp
@[simp] theorem State.denyDown_wrd (r : Req) (p o : Nat) :
    (s.denyDown r p o).wrd = s.wrd := by unfold State.denyDown; simp
@[simp] theorem State.denyDown_bist (r : Req) (p o : Nat) :
    (s.denyDown r p o).bist = s.bist := by unfold State.denyDown; simp
@[simp] theorem State.denyDown_enc (r : Req) (p o : Nat) :
    (s.denyDown r p o).enc = s.enc := by unfold State.denyDown; simp
@[simp] theorem State.denyDown_sdl (r : Req) (p o : Nat) :
    (s.denyDown r p o).sdl = s.sdl := by unfold State.denyDown; simp
@[simp] theorem State.denyDown_hsc (r : Req) (p o : Nat) :
    (s.denyDown r p o).hsc = s.hsc := by unfold State.denyDown; simp
@[simp] theorem State.denyDown_trg (r : Req) (p o : Nat) :
    (s.denyDown r p o).trg = s.trg := by unfold State.denyDown; simp
@[simp] theorem State.denyDown_ref (r : Req) (p o : Nat) :
    (s.denyDown r p o).ref = s.ref := by unfold State.denyDown; simp
@[simp] theorem State.denyDown_stm (r : Req) (p o : Nat) :
    (s.denyDown r p o).stm = s.stm := by unfold State.denyDown; simp
@[simp] theorem State.denyDown_ing (r : Req) (p o : Nat) :
    (s.denyDown r p o).ing = s.ing := by unfold State.denyDown; simp
@[simp] theorem State.denyDown_trl (r : Req) (p o : Nat) :
    (s.denyDown r p o).trl = s.trl := by unfold State.denyDown; simp
@[simp] theorem State.denyDown_fir (r : Req) (p o : Nat) :
    (s.denyDown r p o).fir = s.fir := by unfold State.denyDown; simp
@[simp] theorem State.denyDown_railAt (r : Req) (p o : Nat) :
    (s.denyDown r p o).railAt = s.railAt := by unfold State.denyDown; simp
@[simp] theorem State.denyDown_onk (r : Req) (p o : Nat) :
    (s.denyDown r p o).onk = s.onk := by unfold State.denyDown; simp
@[simp] theorem State.denyDown_tx (r : Req) (p o : Nat) :
    (s.denyDown r p o).tx = s.tx := by unfold State.denyDown; simp
@[simp] theorem State.denyDown_alerts (r : Req) (p o : Nat) :
    (s.denyDown r p o).alerts = s.alerts := by unfold State.denyDown; simp
@[simp] theorem State.denyDown_cam (r : Req) (p o : Nat) :
    (s.denyDown r p o).cam = s.cam := by unfold State.denyDown; simp
@[simp] theorem State.denyDown_blv (r : Req) (p o : Nat) :
    (s.denyDown r p o).blv = s.blv := by unfold State.denyDown; simp
@[simp] theorem State.denyDown_qlp (r : Req) (p o : Nat) :
    (s.denyDown r p o).qlp = s.qlp := by unfold State.denyDown; simp
@[simp] theorem State.denyDown_mem (r : Req) (p o : Nat) :
    (s.denyDown r p o).mem = s.mem := by unfold State.denyDown; simp
@[simp] theorem State.denyDown_poison (r : Req) (p o : Nat) :
    (s.denyDown r p o).poison = s.poison := by unfold State.denyDown; simp
@[simp] theorem State.denyDown_drc (r : Req) (p o : Nat) :
    (s.denyDown r p o).drc = s.drc := by unfold State.denyDown; simp
@[simp] theorem State.denyDown_net (r : Req) (p o : Nat) :
    (s.denyDown r p o).net = s.net := by unfold State.denyDown; simp
@[simp] theorem State.denyDown_tb (r : Req) (p o : Nat) :
    (s.denyDown r p o).tb = s.tb := by unfold State.denyDown; simp
@[simp] theorem State.denyDown_axes (r : Req) (p o : Nat) :
    (s.denyDown r p o).axes = s.axes := by unfold State.denyDown; simp
@[simp] theorem State.denyDown_fnt (r : Req) (p o : Nat) :
    (s.denyDown r p o).fnt = s.fnt := by unfold State.denyDown; simp
@[simp] theorem State.denyDown_mon (r : Req) (p o : Nat) :
    (s.denyDown r p o).mon = s.mon := by unfold State.denyDown; simp
@[simp] theorem State.denyDown_mechXtal (r : Req) (p o : Nat) :
    (s.denyDown r p o).mechXtal = s.mechXtal := by unfold State.denyDown; simp
@[simp] theorem State.denyDown_gth (r : Req) (p o : Nat) :
    (s.denyDown r p o).gth = s.gth := by unfold State.denyDown; simp
@[simp] theorem State.denyDown_fsh (r : Req) (p o : Nat) :
    (s.denyDown r p o).fsh = s.fsh := by unfold State.denyDown; simp
@[simp] theorem State.denyDown_flash (r : Req) (p o : Nat) :
    (s.denyDown r p o).flash = s.flash := by unfold State.denyDown; simp
@[simp] theorem State.denyDown_svnFloor (r : Req) (p o : Nat) :
    (s.denyDown r p o).svnFloor = s.svnFloor := by unfold State.denyDown; simp
@[simp] theorem State.denyDown_free (r : Req) (p o : Nat) :
    (s.denyDown r p o).free = s.free := by unfold State.denyDown; simp
@[simp] theorem State.denyDown_pending (r : Req) (p o : Nat) :
    (s.denyDown r p o).pending = s.pending := by unfold State.denyDown; simp

@[simp] theorem State.refuse_part (r : Req) (p o c n : Nat) :
    (s.refuse r p o c n).part = s.part := by unfold State.refuse; simp
@[simp] theorem State.refuse_now (r : Req) (p o c n : Nat) :
    (s.refuse r p o c n).now = s.now := by unfold State.refuse; simp
@[simp] theorem State.refuse_act (r : Req) (p o c n : Nat) :
    (s.refuse r p o c n).act = s.act := by unfold State.refuse; simp
@[simp] theorem State.refuse_aon (r : Req) (p o c n : Nat) :
    (s.refuse r p o c n).aon = s.aon := by unfold State.refuse; simp
@[simp] theorem State.refuse_commits (r : Req) (p o c n : Nat) :
    (s.refuse r p o c n).commits = s.commits := by unfold State.refuse; simp
@[simp] theorem State.refuse_plls (r : Req) (p o c n : Nat) :
    (s.refuse r p o c n).plls = s.plls := by unfold State.refuse; simp
@[simp] theorem State.refuse_pwr (r : Req) (p o c n : Nat) :
    (s.refuse r p o c n).pwr = s.pwr := by unfold State.refuse; simp
@[simp] theorem State.refuse_wrd (r : Req) (p o c n : Nat) :
    (s.refuse r p o c n).wrd = s.wrd := by unfold State.refuse; simp
@[simp] theorem State.refuse_bist (r : Req) (p o c n : Nat) :
    (s.refuse r p o c n).bist = s.bist := by unfold State.refuse; simp
@[simp] theorem State.refuse_enc (r : Req) (p o c n : Nat) :
    (s.refuse r p o c n).enc = s.enc := by unfold State.refuse; simp
@[simp] theorem State.refuse_sdl (r : Req) (p o c n : Nat) :
    (s.refuse r p o c n).sdl = s.sdl := by unfold State.refuse; simp
@[simp] theorem State.refuse_hsc (r : Req) (p o c n : Nat) :
    (s.refuse r p o c n).hsc = s.hsc := by unfold State.refuse; simp
@[simp] theorem State.refuse_trg (r : Req) (p o c n : Nat) :
    (s.refuse r p o c n).trg = s.trg := by unfold State.refuse; simp
@[simp] theorem State.refuse_ref (r : Req) (p o c n : Nat) :
    (s.refuse r p o c n).ref = s.ref := by unfold State.refuse; simp
@[simp] theorem State.refuse_stm (r : Req) (p o c n : Nat) :
    (s.refuse r p o c n).stm = s.stm := by unfold State.refuse; simp
@[simp] theorem State.refuse_ing (r : Req) (p o c n : Nat) :
    (s.refuse r p o c n).ing = s.ing := by unfold State.refuse; simp
@[simp] theorem State.refuse_trl (r : Req) (p o c n : Nat) :
    (s.refuse r p o c n).trl = s.trl := by unfold State.refuse; simp
@[simp] theorem State.refuse_fir (r : Req) (p o c n : Nat) :
    (s.refuse r p o c n).fir = s.fir := by unfold State.refuse; simp
@[simp] theorem State.refuse_railAt (r : Req) (p o c n : Nat) :
    (s.refuse r p o c n).railAt = s.railAt := by unfold State.refuse; simp
@[simp] theorem State.refuse_onk (r : Req) (p o c n : Nat) :
    (s.refuse r p o c n).onk = s.onk := by unfold State.refuse; simp
@[simp] theorem State.refuse_tx (r : Req) (p o c n : Nat) :
    (s.refuse r p o c n).tx = s.tx := by unfold State.refuse; simp
@[simp] theorem State.refuse_alerts (r : Req) (p o c n : Nat) :
    (s.refuse r p o c n).alerts = s.alerts := by unfold State.refuse; simp
@[simp] theorem State.refuse_cam (r : Req) (p o c n : Nat) :
    (s.refuse r p o c n).cam = s.cam := by unfold State.refuse; simp
@[simp] theorem State.refuse_blv (r : Req) (p o c n : Nat) :
    (s.refuse r p o c n).blv = s.blv := by unfold State.refuse; simp
@[simp] theorem State.refuse_qlp (r : Req) (p o c n : Nat) :
    (s.refuse r p o c n).qlp = s.qlp := by unfold State.refuse; simp
@[simp] theorem State.refuse_mem (r : Req) (p o c n : Nat) :
    (s.refuse r p o c n).mem = s.mem := by unfold State.refuse; simp
@[simp] theorem State.refuse_poison (r : Req) (p o c n : Nat) :
    (s.refuse r p o c n).poison = s.poison := by unfold State.refuse; simp
@[simp] theorem State.refuse_drc (r : Req) (p o c n : Nat) :
    (s.refuse r p o c n).drc = s.drc := by unfold State.refuse; simp
@[simp] theorem State.refuse_net (r : Req) (p o c n : Nat) :
    (s.refuse r p o c n).net = s.net := by unfold State.refuse; simp
@[simp] theorem State.refuse_tb (r : Req) (p o c n : Nat) :
    (s.refuse r p o c n).tb = s.tb := by unfold State.refuse; simp
@[simp] theorem State.refuse_axes (r : Req) (p o c n : Nat) :
    (s.refuse r p o c n).axes = s.axes := by unfold State.refuse; simp
@[simp] theorem State.refuse_fnt (r : Req) (p o c n : Nat) :
    (s.refuse r p o c n).fnt = s.fnt := by unfold State.refuse; simp
@[simp] theorem State.refuse_mon (r : Req) (p o c n : Nat) :
    (s.refuse r p o c n).mon = s.mon := by unfold State.refuse; simp
@[simp] theorem State.refuse_mechXtal (r : Req) (p o c n : Nat) :
    (s.refuse r p o c n).mechXtal = s.mechXtal := by unfold State.refuse; simp
@[simp] theorem State.refuse_gth (r : Req) (p o c n : Nat) :
    (s.refuse r p o c n).gth = s.gth := by unfold State.refuse; simp
@[simp] theorem State.refuse_fsh (r : Req) (p o c n : Nat) :
    (s.refuse r p o c n).fsh = s.fsh := by unfold State.refuse; simp
@[simp] theorem State.refuse_flash (r : Req) (p o c n : Nat) :
    (s.refuse r p o c n).flash = s.flash := by unfold State.refuse; simp
@[simp] theorem State.refuse_svnFloor (r : Req) (p o c n : Nat) :
    (s.refuse r p o c n).svnFloor = s.svnFloor := by unfold State.refuse; simp
@[simp] theorem State.refuse_free (r : Req) (p o c n : Nat) :
    (s.refuse r p o c n).free = s.free := by unfold State.refuse; simp
@[simp] theorem State.refuse_pending (r : Req) (p o c n : Nat) :
    (s.refuse r p o c n).pending = s.pending := by unfold State.refuse; simp

end Sys2Proof.Machine
end

