-- ==== Sys2Proof/Laws/Good.lean ====
section
/-! SUPPORT. What every operation keeps: which part this is, the queue of waiting commands, and, where
the caller has it, that the state is a good one.  The operations' lemmas stand in the files Keep*.lean. -/

namespace Sys2Proof.Machine

/-- The part is `p`, the queue is `q`, and the state is good where `b` holds. -/
def State.Good (b : Prop) (p : Part) (q : List Instr) (s : State) : Prop :=
  s.part = p ∧ s.pending = q ∧ (b → s.Ok)

variable {b : Prop} {p : Part} {q : List Instr} {s t : State}

/-- A state that differs in none of the fields it speaks of. -/
theorem State.Good.same (t s : State) (h : s.Good b p q) (e1 : t.part = s.part)
    (e2 : t.pending = s.pending) (e3 : t.mem = s.mem) (e4 : t.flash = s.flash)
    (e5 : t.gbk.queue = s.gbk.queue) : t.Good b p q := by
  obtain ⟨h1, h2, h3⟩ := h
  exact ⟨e1.trans h1, e2.trans h2,
    fun hb => ⟨e3 ▸ (h3 hb).mem, e4 ▸ (h3 hb).flash, e5 ▸ (h3 hb).queue⟩⟩

theorem good_foldl {α : Type} (f : State → α → State) (l : List α) (h : s.Good b p q)
    (hf : ∀ t x, t.Good b p q → (f t x).Good b p q) : (l.foldl f s).Good b p q := by
  induction l generalizing s with
  | nil => exact h
  | cons x l ih => exact ih (hf s x h)

theorem good_foldr {α : Type} (f : α → State → State) (l : List α) (h : s.Good b p q)
    (hf : ∀ t x, t.Good b p q → (f x t).Good b p q) : (l.foldr f s).Good b p q := by
  induction l with
  | nil => exact h
  | cons x l ih => exact hf _ x ih

theorem good_foldl_fst {α β : Type} (f : State × α → β → State × α) (l : List β) {x : State × α}
    (h : x.1.Good b p q) (hf : ∀ x y, x.1.Good b p q → (f x y).1.Good b p q) :
    (l.foldl f x).1.Good b p q := by
  induction l generalizing x with
  | nil => exact h
  | cons y l ih => exact ih (hf x y h)

theorem good_ite (c : Prop) [Decidable c] {u v : State} (hu : u.Good b p q) (hv : v.Good b p q) :
    (if c then u else v).Good b p q := by
  split
  · exact hu
  · exact hv

theorem good_run (f : State → State) (hf : ∀ u, u.Good b p q → (f u).Good b p q)
    (h : s.Good b p q) (t : State) (e : run f s = .next t) : t.Good b p q := by
  unfold run at e
  cases e
  exact hf _ (State.Good.same _ _ h rfl rfl rfl rfl rfl)

theorem good_setByte (a : Nat) (v : Byte) (h : s.Good b p q) : (s.setByte a v).Good b p q :=
  ⟨h.1, h.2.1, fun hb => ⟨Tbl.canonical_set (fun _ => (0 : Byte)) a v _ (h.2.2 hb).mem,
    (h.2.2 hb).flash, (h.2.2 hb).queue⟩⟩

theorem good_setBytes (bs : List Byte) : ∀ (s : State) (a : Nat), s.Good b p q →
    (s.setBytes a bs).Good b p q := by
  induction bs with
  | nil => intro s a h; exact h
  | cons x bs ih => intro s a h; exact ih _ _ (good_setByte a x h)

theorem good_setFbyte (a : Nat) (v : Byte) (h : s.Good b p q) : (s.setFbyte a v).Good b p q :=
  ⟨h.1, h.2.1, fun hb => ⟨(h.2.2 hb).mem,
    Tbl.canonical_set (fun _ => (0xFF : Byte)) a v _ (h.2.2 hb).flash, (h.2.2 hb).queue⟩⟩

theorem good_setFbytes (bs : List Byte) : ∀ (s : State) (a : Nat), s.Good b p q →
    (s.setFbytes a bs).Good b p q := by
  induction bs with
  | nil => intro s a h; exact h
  | cons x bs ih => intro s a h; exact ih _ _ (good_setFbyte a x h)

@[simp] theorem insEntry_length (e : GbkEntry) (l : List GbkEntry) :
    (insEntry e l).length = l.length + 1 := by
  induction l with
  | nil => rfl
  | cons y t ih => unfold insEntry; split <;> simp [ih]

/-- The writer's queue never holds more than 64 entries (R383). -/
theorem good_gbkPush (e : GbkEntry) (h : s.Good b p q) (hp : s.gbkPush e = some t) :
    t.Good b p q := by
  unfold State.gbkPush at hp
  split at hp
  · rename_i hlt
    cases hp
    exact ⟨h.1, h.2.1, fun hb => ⟨(h.2.2 hb).mem, (h.2.2 hb).flash, by simp; omega⟩⟩
  · cases hp

/-- A record update of fields that it does not speak of. -/
theorem good_mk (s : State)
    (x_now : Nat) (x_regs : Tbl Word) (x_act : Tbl Word) (x_aon : Aon) (x_host : ReqSide)
    (x_gkpSide : ReqSide) (x_commits : List (Nat × Commit)) (x_follies : List (Nat × Folly))
    (x_plls : Vector Pll 15) (x_pwr : Pwr) (x_wrd : Warden) (x_bist : Bist) (x_enc : Vector Enc
    3) (x_sdl : Sdl) (x_hsc : Vector Hsc 32) (x_trg : Trg) (x_ref : Option RefChan) (x_stm :
    Vector Stream 4) (x_ing : Ingest) (x_trl : Vector Trl 32) (x_fir : Vector Fir 32) (x_railAt
    : Vector (Option Nat) 4) (x_onk : Vector Onk 32) (x_tx : Option TableTx) (x_alerts : Vector
    Alert 8) (x_cam : Vector Cam 6) (x_blv : List (Nat × Nat)) (x_qlp : Qlp) (x_poison : List
    Nat) (x_drc : Drc) (x_net : Net) (x_tb : Vector TimeBase 4) (x_pcie : Pcie) (x_axes : Vector
    Axis 4) (x_fnt : Fnt) (x_mon : Mon) (x_mechXtal : Bool) (x_gth : Gth) (x_fsh : Fsh)
    (x_svnFloor : Option Nat) (x_emitted : List Emission) (x_free : Nat) :
    (State.mk s.part x_now x_regs x_act x_aon x_host x_gkpSide x_commits x_follies x_plls x_pwr
      x_wrd x_bist s.gbk x_enc x_sdl x_hsc x_trg x_ref x_stm x_ing x_trl x_fir x_railAt x_onk
      x_tx x_alerts x_cam x_blv x_qlp s.mem x_poison x_drc x_net x_tb x_pcie x_axes x_fnt x_mon
      x_mechXtal x_gth x_fsh s.flash x_svnFloor x_emitted x_free s.pending).Good b p q ↔ s.Good b p q :=
  ⟨fun h => State.Good.same _ _ h rfl rfl rfl rfl rfl, fun h => State.Good.same _ _ h rfl rfl rfl rfl rfl⟩

/-- A record update of the Guestbook's own fields, its queue kept. -/
theorem good_mk_gbk (s : State) (g : Gbk) (hg : g.queue = s.gbk.queue)
    (x_now : Nat) (x_regs : Tbl Word) (x_act : Tbl Word) (x_aon : Aon) (x_host : ReqSide)
    (x_gkpSide : ReqSide) (x_commits : List (Nat × Commit)) (x_follies : List (Nat × Folly))
    (x_plls : Vector Pll 15) (x_pwr : Pwr) (x_wrd : Warden) (x_bist : Bist) (x_enc : Vector Enc
    3) (x_sdl : Sdl) (x_hsc : Vector Hsc 32) (x_trg : Trg) (x_ref : Option RefChan) (x_stm :
    Vector Stream 4) (x_ing : Ingest) (x_trl : Vector Trl 32) (x_fir : Vector Fir 32) (x_railAt
    : Vector (Option Nat) 4) (x_onk : Vector Onk 32) (x_tx : Option TableTx) (x_alerts : Vector
    Alert 8) (x_cam : Vector Cam 6) (x_blv : List (Nat × Nat)) (x_qlp : Qlp) (x_poison : List
    Nat) (x_drc : Drc) (x_net : Net) (x_tb : Vector TimeBase 4) (x_pcie : Pcie) (x_axes : Vector
    Axis 4) (x_fnt : Fnt) (x_mon : Mon) (x_mechXtal : Bool) (x_gth : Gth) (x_fsh : Fsh)
    (x_svnFloor : Option Nat) (x_emitted : List Emission) (x_free : Nat) :
    (State.mk s.part x_now x_regs x_act x_aon x_host x_gkpSide x_commits x_follies x_plls x_pwr
      x_wrd x_bist g x_enc x_sdl x_hsc x_trg x_ref x_stm x_ing x_trl x_fir x_railAt x_onk x_tx
      x_alerts x_cam x_blv x_qlp s.mem x_poison x_drc x_net x_tb x_pcie x_axes x_fnt x_mon
      x_mechXtal x_gth x_fsh s.flash x_svnFloor x_emitted x_free s.pending).Good b p q ↔ s.Good b p q :=
  ⟨fun h => State.Good.same _ _ h rfl rfl rfl rfl hg.symm, fun h => State.Good.same _ _ h rfl rfl rfl rfl hg⟩

end Sys2Proof.Machine
end

