-- ==== Sys2Proof/Laws/Keep1.lean ====
section
/-! SUPPORT. Part 1 of 8: every operation and every meaning keeps the part, the queue and
the canonical forms (`State.Good`), one lemma per definition, in the order of the definitions. -/

namespace Sys2Proof.Machine

theorem good_endMarks {bb : Prop} {pp : Part} {qq : List Instr} (s : State) (page : ℕ) (bit : ℕ) (h_s : s.Good bb pp qq) :
    (State.endMarks s page bit).Good bb pp qq := by
  unfold State.endMarks
  try dsimp only
  repeat' (first
    | with_reducible assumption
    | with_reducible refine good_foldl _ _ ?_ ?_
    | with_reducible refine good_foldr _ _ ?_ ?_
    | simp only [good_mk])

theorem good_setWord {bb : Prop} {pp : Part} {qq : List Instr} (s : State) (page : ℕ) (off : ℕ) (w : Word) (h_s : s.Good bb pp qq) :
    (State.setWord s page off w).Good bb pp qq := by
  unfold State.setWord
  try dsimp only
  repeat' (first
    | with_reducible assumption
    | with_reducible refine good_foldl _ _ ?_ ?_
    | with_reducible refine good_foldr _ _ ?_ ?_
    | simp only [good_mk])

theorem good_emit {bb : Prop} {pp : Part} {qq : List Instr} (s : State) (e : Emission) (h_s : s.Good bb pp qq) :
    (State.emit s e).Good bb pp qq := by
  unfold State.emit
  try dsimp only
  repeat' (first
    | with_reducible assumption
    | with_reducible refine good_foldl _ _ ?_ ?_
    | with_reducible refine good_foldr _ _ ?_ ?_
    | simp only [good_mk])

theorem good_message {bb : Prop} {pp : Part} {qq : List Instr} (s : State) (fn : ℕ) (v : ℕ) (h_s : s.Good bb pp qq) :
    (State.message s fn v).Good bb pp qq := by
  unfold State.message
  try dsimp only
  repeat' (first
    | with_reducible assumption
    | with_reducible apply good_emit)

theorem good_signal {bb : Prop} {pp : Part} {qq : List Instr} (s : State) (fn : ℕ) (v : ℕ) (h_s : s.Good bb pp qq) :
    (State.signal s fn v).Good bb pp qq := by
  unfold State.signal
  try dsimp only
  repeat' (first
    | with_reducible assumption
    | with_reducible apply good_message
    | with_reducible refine good_foldl _ _ ?_ ?_
    | with_reducible refine good_foldr _ _ ?_ ?_
    | simp only [good_mk]
    | simp only [good_mk_gbk]
    | split)

theorem good_eventDue {bb : Prop} {pp : Part} {qq : List Instr} (s : State) (page : ℕ) (bit : ℕ) (h_s : s.Good bb pp qq) :
    (State.eventDue s page bit).Good bb pp qq := by
  unfold State.eventDue
  try dsimp only
  repeat' (first
    | with_reducible assumption
    | with_reducible apply good_signal
    | with_reducible refine good_foldl _ _ ?_ ?_
    | with_reducible refine good_foldr _ _ ?_ ?_
    | simp only [good_mk]
    | simp only [good_mk_gbk]
    | split)

theorem good_setEventBit {bb : Prop} {pp : Part} {qq : List Instr} (s : State) (page : ℕ) (bit : ℕ) (h_s : s.Good bb pp qq) :
    (State.setEventBit s page bit).Good bb pp qq := by
  unfold State.setEventBit
  try dsimp only
  repeat' (first
    | with_reducible assumption
    | with_reducible apply good_setWord
    | with_reducible apply good_eventDue
    | with_reducible refine good_foldl _ _ ?_ ?_
    | with_reducible refine good_foldr _ _ ?_ ?_
    | simp only [good_mk]
    | simp only [good_mk_gbk]
    | split)

theorem good_wr {bb : Prop} {pp : Part} {qq : List Instr} (s : State) (page : ℕ) (f : Fld) (v : ℕ) (h_s : s.Good bb pp qq) :
    (State.wr s page f v).Good bb pp qq := by
  unfold State.wr
  try dsimp only
  repeat' (first
    | with_reducible assumption
    | with_reducible apply good_setWord)

theorem good_addSat {bb : Prop} {pp : Part} {qq : List Instr} (s : State) (page : ℕ) (f : Fld) (n : ℕ) (h_s : s.Good bb pp qq) :
    (State.addSat s page f n).Good bb pp qq := by
  unfold State.addSat
  try dsimp only
  repeat' (first
    | with_reducible assumption
    | with_reducible apply good_wr)

theorem good_incSat {bb : Prop} {pp : Part} {qq : List Instr} (s : State) (page : ℕ) (f : Fld) (h_s : s.Good bb pp qq) :
    (State.incSat s page f).Good bb pp qq := by
  unfold State.incSat
  try dsimp only
  repeat' (first
    | with_reducible assumption
    | with_reducible apply good_addSat)

theorem good_gbkEntry {bb : Prop} {pp : Part} {qq : List Instr} (s : State) (e : GbkEntry) (h_s : s.Good bb pp qq) :
    (State.gbkEntry s e).Good bb pp qq := by
  unfold State.gbkEntry
  split
  · rename_i s' hp
    exact good_gbkPush e h_s hp
  · exact good_incSat _ _ _ (good_setEventBit _ _ _ (good_incSat _ _ _ h_s))

theorem good_raiseD {bb : Prop} {pp : Part} {qq : List Instr} (s : State) (page : ℕ) (bit : ℕ) (detail : ℕ) (h_s : s.Good bb pp qq) :
    (State.raiseD s page bit detail).Good bb pp qq := by
  unfold State.raiseD
  try dsimp only
  repeat' (first
    | with_reducible assumption
    | with_reducible apply good_endMarks
    | with_reducible apply good_setEventBit
    | with_reducible apply good_gbkEntry
    | with_reducible refine good_foldl _ _ ?_ ?_
    | with_reducible refine good_foldr _ _ ?_ ?_
    | simp only [good_mk]
    | simp only [good_mk_gbk]
    | split)

theorem good_raise {bb : Prop} {pp : Part} {qq : List Instr} (s : State) (page : ℕ) (bit : ℕ) (h_s : s.Good bb pp qq) :
    (State.raise s page bit).Good bb pp qq := by
  unfold State.raise
  try dsimp only
  repeat' (first
    | with_reducible assumption
    | with_reducible apply good_raiseD)

theorem good_wr2 {bb : Prop} {pp : Part} {qq : List Instr} (s : State) (page : ℕ) (lo : Fld) (hi : Fld) (v : ℕ) (h_s : s.Good bb pp qq) :
    (State.wr2 s page lo hi v).Good bb pp qq := by
  unfold State.wr2
  try dsimp only
  repeat' (first
    | with_reducible assumption
    | with_reducible apply good_wr)

theorem good_add2 {bb : Prop} {pp : Part} {qq : List Instr} (s : State) (page : ℕ) (lo : Fld) (hi : Fld) (n : ℕ) (h_s : s.Good bb pp qq) :
    (State.add2 s page lo hi n).Good bb pp qq := by
  unfold State.add2
  try dsimp only
  repeat' (first
    | with_reducible assumption
    | with_reducible apply good_wr2)

theorem good_ownSent {bb : Prop} {pp : Part} {qq : List Instr} (s : State) (p : ℕ) (n : ℕ) (h_s : s.Good bb pp qq) :
    (State.ownSent s p n).Good bb pp qq := by
  unfold State.ownSent
  try dsimp only
  repeat' (first
    | with_reducible assumption
    | with_reducible apply good_add2)

theorem good_sendDatagram {bb : Prop} {pp : Part} {qq : List Instr} (s : State) (i : Fin 4) (bs : List Byte) (h_s : s.Good bb pp qq) :
    (State.sendDatagram s i bs).Good bb pp qq := by
  unfold State.sendDatagram
  try dsimp only
  repeat' (first
    | with_reducible assumption
    | with_reducible apply good_emit
    | with_reducible apply good_ownSent
    | with_reducible refine good_foldl _ _ ?_ ?_
    | with_reducible refine good_foldr _ _ ?_ ?_
    | simp only [good_mk]
    | simp only [good_mk_gbk]
    | split)

theorem good_sendAck {bb : Prop} {pp : Part} {qq : List Instr} (s : State) (i : Fin 4) (h_s : s.Good bb pp qq) :
    (State.sendAck s i).Good bb pp qq := by
  unfold State.sendAck
  try dsimp only
  repeat' (first
    | with_reducible assumption
    | with_reducible apply good_sendDatagram
    | with_reducible refine good_foldl _ _ ?_ ?_
    | with_reducible refine good_foldr _ _ ?_ ?_
    | simp only [good_mk]
    | simp only [good_mk_gbk]
    | split)

theorem good_publish {bb : Prop} {pp : Part} {qq : List Instr} (s : State) (h_s : s.Good bb pp qq) :
    (State.publish s).Good bb pp qq := by
  unfold State.publish
  try dsimp only
  repeat' (first
    | with_reducible assumption
    | with_reducible apply good_raise
    | with_reducible apply good_wr
    | with_reducible apply good_sendAck
    | with_reducible refine good_foldl _ _ ?_ ?_
    | with_reducible refine good_foldr _ _ ?_ ?_
    | simp only [good_mk]
    | simp only [good_mk_gbk]
    | split)

theorem good_updIng {bb : Prop} {pp : Part} {qq : List Instr} (s : State) (g : Ingest → Ingest) (h_s : s.Good bb pp qq) :
    (State.updIng s g).Good bb pp qq := by
  unfold State.updIng
  try dsimp only
  repeat' (first
    | with_reducible assumption
    | with_reducible refine good_foldl _ _ ?_ ?_
    | with_reducible refine good_foldr _ _ ?_ ?_
    | simp only [good_mk])

theorem good_updTile {bb : Prop} {pp : Part} {qq : List Instr} (s : State) (id : ℕ) (g : Tile → Tile) (h_s : s.Good bb pp qq) :
    (State.updTile s id g).Good bb pp qq := by
  unfold State.updTile
  try dsimp only
  repeat' (first
    | with_reducible assumption
    | with_reducible apply good_updIng)

theorem good_setState {bb : Prop} {pp : Part} {qq : List Instr} (s : State) (page : ℕ) (code : ℕ) (h_s : s.Good bb pp qq) :
    (State.setState s page code).Good bb pp qq := by
  unfold State.setState
  try dsimp only
  repeat' (first
    | with_reducible assumption
    | with_reducible apply good_wr)

theorem good_setHolding {bb : Prop} {pp : Part} {qq : List Instr} (s : State) (k : ℕ) (x : Holding) (h_s : s.Good bb pp qq) :
    (State.setHolding s k x).Good bb pp qq := by
  unfold State.setHolding
  try dsimp only
  repeat' (first
    | with_reducible assumption
    | with_reducible apply good_updIng
    | with_reducible refine good_foldl _ _ ?_ ?_
    | with_reducible refine good_foldr _ _ ?_ ?_
    | simp only [good_mk]
    | simp only [good_mk_gbk]
    | split)

theorem good_setPll {bb : Prop} {pp : Part} {qq : List Instr} (s : State) (n : ℕ) (p : Pll) (h_s : s.Good bb pp qq) :
    (State.setPll s n p).Good bb pp qq := by
  unfold State.setPll
  try dsimp only
  repeat' (first
    | with_reducible assumption
    | with_reducible refine good_foldl _ _ ?_ ?_
    | with_reducible refine good_foldr _ _ ?_ ?_
    | simp only [good_mk]
    | simp only [good_mk_gbk]
    | split)

theorem good_startPll {bb : Prop} {pp : Part} {qq : List Instr} (s : State) (n : ℕ) (h_s : s.Good bb pp qq) :
    (State.startPll s n).Good bb pp qq := by
  unfold State.startPll
  try dsimp only
  repeat' (first
    | with_reducible assumption
    | with_reducible apply good_wr
    | with_reducible apply good_setPll)

theorem good_drainCheck {bb : Prop} {pp : Part} {qq : List Instr} (s : State) (c : ℕ) (h_s : s.Good bb pp qq) :
    (State.drainCheck s c).Good bb pp qq := by
  unfold State.drainCheck
  try dsimp only
  repeat' (first
    | with_reducible assumption
    | with_reducible apply good_startPll
    | with_reducible refine good_foldl _ _ ?_ ?_
    | with_reducible refine good_foldr _ _ ?_ ?_
    | simp only [good_mk]
    | simp only [good_mk_gbk]
    | split)

theorem good_kioskAway {bb : Prop} {pp : Part} {qq : List Instr} (s : State) (k : ℕ) (h_s : s.Good bb pp qq) :
    (State.kioskAway s k).Good bb pp qq := by
  unfold State.kioskAway
  try dsimp only
  repeat' (first
    | with_reducible assumption
    | with_reducible apply good_updTile
    | with_reducible apply good_setState
    | with_reducible apply good_setHolding
    | with_reducible apply good_drainCheck
    | with_reducible refine good_foldl _ _ ?_ ?_
    | with_reducible refine good_foldr _ _ ?_ ?_
    | simp only [good_mk]
    | simp only [good_mk_gbk]
    | split)

theorem good_kioskMove {bb : Prop} {pp : Part} {qq : List Instr} (s : State) (k : ℕ) (h_s : s.Good bb pp qq) :
    (State.kioskMove s k).Good bb pp qq := by
  unfold State.kioskMove
  try dsimp only
  repeat' (first
    | with_reducible assumption
    | with_reducible apply good_kioskAway
    | with_reducible apply good_setState
    | with_reducible refine good_foldl _ _ ?_ ?_
    | with_reducible refine good_foldr _ _ ?_ ?_
    | simp only [good_mk]
    | simp only [good_mk_gbk]
    | split)

theorem good_kioskSettle {bb : Prop} {pp : Part} {qq : List Instr} (s : State) (k : ℕ) (h_s : s.Good bb pp qq) :
    (State.kioskSettle s k).Good bb pp qq := by
  unfold State.kioskSettle
  try dsimp only
  repeat' (first
    | with_reducible assumption
    | with_reducible apply good_publish
    | with_reducible apply good_kioskMove)

theorem good_kioskFree {bb : Prop} {pp : Part} {qq : List Instr} (s : State) (k : ℕ) (h_s : s.Good bb pp qq) :
    (State.kioskFree s k).Good bb pp qq := by
  unfold State.kioskFree
  try dsimp only
  repeat' (first
    | with_reducible assumption
    | with_reducible apply good_kioskSettle
    | with_reducible apply good_setState
    | with_reducible apply good_setHolding)

theorem good_updStm {bb : Prop} {pp : Part} {qq : List Instr} (s : State) (i : Fin 4) (g : Stream → Stream) (h_s : s.Good bb pp qq) :
    (State.updStm s i g).Good bb pp qq := by
  unfold State.updStm
  try dsimp only
  repeat' (first
    | with_reducible assumption
    | with_reducible refine good_foldl _ _ ?_ ?_
    | with_reducible refine good_foldr _ _ ?_ ?_
    | simp only [good_mk])

theorem good_fillQueue {bb : Prop} {pp : Part} {qq : List Instr} (n : Nat) : ∀ s : State, s.Good bb pp qq →
    (State.fillQueue n s).Good bb pp qq := by
  induction n with
  | zero => intro s h; exact h
  | succ n ih =>
    intro s h
    unfold State.fillQueue
    split
    · split
      · exact ih _ (good_updTile _ _ _ h)
      · exact h
    · exact h

theorem good_showQueue {bb : Prop} {pp : Part} {qq : List Instr} (s : State) (h_s : s.Good bb pp qq) :
    (State.showQueue s).Good bb pp qq := by
  unfold State.showQueue
  try dsimp only
  repeat' (first
    | with_reducible assumption
    | with_reducible apply good_fillQueue
    | with_reducible apply good_wr)

theorem good_showStaging {bb : Prop} {pp : Part} {qq : List Instr} (s : State) (i : Fin 4) (h_s : s.Good bb pp qq) :
    (State.showStaging s i).Good bb pp qq := by
  unfold State.showStaging
  try dsimp only
  repeat' (first
    | with_reducible assumption
    | with_reducible apply good_wr)

theorem good_freeTile {bb : Prop} {pp : Part} {qq : List Instr} (s : State) (id : ℕ) (h_s : s.Good bb pp qq) :
    (State.freeTile s id).Good bb pp qq := by
  unfold State.freeTile
  try dsimp only
  repeat' (first
    | with_reducible assumption
    | with_reducible apply good_updIng
    | with_reducible apply good_updStm
    | with_reducible apply good_showQueue
    | with_reducible apply good_showStaging
    | with_reducible refine good_foldl _ _ ?_ ?_
    | with_reducible refine good_foldr _ _ ?_ ?_
    | simp only [good_mk]
    | simp only [good_mk_gbk]
    | split)

theorem good_abandonTile {bb : Prop} {pp : Part} {qq : List Instr} (s : State) (k : ℕ) (t : Tile) (h_s : s.Good bb pp qq) :
    (State.abandonTile s k t).Good bb pp qq := by
  unfold State.abandonTile
  try dsimp only
  repeat' (first
    | with_reducible assumption
    | with_reducible apply good_kioskFree
    | with_reducible apply good_freeTile)

theorem good_setPhase {bb : Prop} {pp : Part} {qq : List Instr} (s : State) (d : Fin 7) (p : DomPhase) (h_s : s.Good bb pp qq) :
    (State.setPhase s d p).Good bb pp qq := by
  unfold State.setPhase
  try dsimp only
  repeat' (first
    | with_reducible assumption
    | with_reducible refine good_foldl _ _ ?_ ?_
    | with_reducible refine good_foldr _ _ ?_ ?_
    | simp only [good_mk])

theorem good_backUp {bb : Prop} {pp : Part} {qq : List Instr} (s : State) (d : Fin 7) (h_s : s.Good bb pp qq) :
    (State.backUp s d).Good bb pp qq := by
  unfold State.backUp
  try dsimp only
  repeat' (first
    | with_reducible assumption
    | with_reducible apply good_setPhase
    | with_reducible refine good_foldl _ _ ?_ ?_
    | with_reducible refine good_foldr _ _ ?_ ?_
    | simp only [good_mk]
    | simp only [good_mk_gbk]
    | split)

theorem good_abortDrop {bb : Prop} {pp : Part} {qq : List Instr} (s : State) (d : Fin 7) (h_s : s.Good bb pp qq) :
    (State.abortDrop s d).Good bb pp qq := by
  unfold State.abortDrop
  try dsimp only
  repeat' (first
    | with_reducible assumption
    | with_reducible apply good_raise
    | with_reducible apply good_backUp
    | with_reducible apply good_setPhase
    | with_reducible refine good_foldl _ _ ?_ ?_
    | with_reducible refine good_foldr _ _ ?_ ?_
    | simp only [good_mk]
    | simp only [good_mk_gbk]
    | split)

theorem good_active {bb : Prop} {pp : Part} {qq : List Instr} (s : State) (r : Req) (h_s : s.Good bb pp qq) :
    (State.active s r).Good bb pp qq := by
  unfold State.active
  try dsimp only
  repeat' (first
    | with_reducible assumption
    | with_reducible refine good_foldl _ _ ?_ ?_
    | with_reducible refine good_foldr _ _ ?_ ?_
    | simp only [good_mk]
    | simp only [good_mk_gbk]
    | split)

theorem good_regAlert {bb : Prop} {pp : Part} {qq : List Instr} (s : State) (page : ℕ) (off : ℕ) (r : Req) (code : ℕ) (what : ℕ) (h_s : s.Good bb pp qq) :
    (State.regAlert s page off r code what).Good bb pp qq := by
  unfold State.regAlert
  try dsimp only
  repeat' (first
    | with_reducible assumption
    | with_reducible apply good_raiseD)

theorem good_denyDown {bb : Prop} {pp : Part} {qq : List Instr} (s : State) (r : Req) (page : ℕ) (off : ℕ) (h_s : s.Good bb pp qq) :
    (State.denyDown s r page off).Good bb pp qq := by
  unfold State.denyDown
  try dsimp only
  repeat' (first
    | with_reducible assumption
    | with_reducible apply good_regAlert
    | with_reducible apply good_wr)

theorem good_touch {bb : Prop} {pp : Part} {qq : List Instr} (s : State) (page : ℕ) (h_s : s.Good bb pp qq) :
    (State.touch s page).Good bb pp qq := by
  unfold State.touch
  try dsimp only
  repeat' (first
    | with_reducible assumption
    | with_reducible refine good_foldl _ _ ?_ ?_
    | with_reducible refine good_foldr _ _ ?_ ?_
    | simp only [good_mk]
    | simp only [good_mk_gbk]
    | split)

theorem good_access {bb : Prop} {pp : Part} {qq : List Instr} (s : State) (r : Req) (page : ℕ) (off : ℕ) (f : State → State) (h_s : s.Good bb pp qq) (h_f : ∀ t : State, t.Good bb pp qq → (f t).Good bb pp qq) :
    (State.access s r page off f).Good bb pp qq := by
  unfold State.access
  try dsimp only
  repeat' (first
    | with_reducible assumption
    | with_reducible apply h_f
    | with_reducible apply good_active
    | with_reducible apply good_denyDown
    | with_reducible apply good_touch
    | with_reducible refine good_foldl _ _ ?_ ?_
    | with_reducible refine good_foldr _ _ ?_ ?_
    | simp only [good_mk]
    | simp only [good_mk_gbk]
    | split)

theorem good_wrBit {bb : Prop} {pp : Part} {qq : List Instr} (s : State) (page : ℕ) (f : Fld) (b : Bool) (h_s : s.Good bb pp qq) :
    (State.wrBit s page f b).Good bb pp qq := by
  unfold State.wrBit
  try dsimp only
  repeat' (first
    | with_reducible assumption
    | with_reducible apply good_wr)

theorem good_setBusy {bb : Prop} {pp : Part} {qq : List Instr} (s : State) (page : ℕ) (b : Bool) (h_s : s.Good bb pp qq) :
    (State.setBusy s page b).Good bb pp qq := by
  unfold State.setBusy
  try dsimp only
  repeat' (first
    | with_reducible assumption
    | with_reducible apply good_wrBit)

theorem good_requestEnd {bb : Prop} {pp : Part} {qq : List Instr} (s : State) (h_s : s.Good bb pp qq) :
    (State.requestEnd s).Good bb pp qq := by
  unfold State.requestEnd
  try dsimp only
  repeat' (first
    | with_reducible assumption
    | with_reducible apply good_setState
    | with_reducible apply good_setBusy)

theorem good_unrequest {bb : Prop} {pp : Part} {qq : List Instr} (s : State) (h_s : s.Good bb pp qq) :
    (State.unrequest s).Good bb pp qq := by
  unfold State.unrequest
  try dsimp only
  repeat' (first
    | with_reducible assumption
    | with_reducible apply good_wr)

theorem good_actCfgResult {bb : Prop} {pp : Part} {qq : List Instr} (s : State) (code : ℕ) (h_s : s.Good bb pp qq) :
    (State.actCfgResult s code).Good bb pp qq := by
  unfold State.actCfgResult
  try dsimp only
  repeat' (first
    | with_reducible assumption
    | with_reducible apply good_requestEnd
    | with_reducible apply good_unrequest
    | with_reducible apply good_wr
    | with_reducible apply good_raise
    | with_reducible refine good_foldl _ _ ?_ ?_
    | with_reducible refine good_foldr _ _ ?_ ?_
    | simp only [good_mk]
    | simp only [good_mk_gbk]
    | split)

theorem good_setWrd {bb : Prop} {pp : Part} {qq : List Instr} (s : State) (g : Warden → Warden) (h_s : s.Good bb pp qq) :
    (State.setWrd s g).Good bb pp qq := by
  unfold State.setWrd
  try dsimp only
  repeat' (first
    | with_reducible assumption
    | with_reducible refine good_foldl _ _ ?_ ?_
    | with_reducible refine good_foldr _ _ ?_ ?_
    | simp only [good_mk])

theorem good_resetPage {bb : Prop} {pp : Part} {qq : List Instr} (s : State) (page : ℕ) (h_s : s.Good bb pp qq) :
    (State.resetPage s page).Good bb pp qq := by
  unfold State.resetPage
  try dsimp only
  repeat' (first
    | with_reducible assumption
    | with_reducible refine good_foldl _ _ ?_ ?_
    | with_reducible refine good_foldr _ _ ?_ ?_
    | simp only [good_mk])

theorem good_gkpReset {bb : Prop} {pp : Part} {qq : List Instr} (s : State) (h_s : s.Good bb pp qq) :
    (State.gkpReset s).Good bb pp qq := by
  unfold State.gkpReset
  try dsimp only
  repeat' (first
    | with_reducible assumption
    | with_reducible apply good_resetPage
    | with_reducible refine good_foldl _ _ ?_ ?_
    | with_reducible refine good_foldr _ _ ?_ ?_
    | simp only [good_mk])

theorem good_gkpRestart {bb : Prop} {pp : Part} {qq : List Instr} (s : State) (h_s : s.Good bb pp qq) :
    (State.gkpRestart s).Good bb pp qq := by
  unfold State.gkpRestart
  try dsimp only
  repeat' (first
    | with_reducible assumption
    | with_reducible apply good_setWrd
    | with_reducible apply good_gkpReset)

theorem good_setFsh {bb : Prop} {pp : Part} {qq : List Instr} (s : State) (g : Fsh → Fsh) (h_s : s.Good bb pp qq) :
    (State.setFsh s g).Good bb pp qq := by
  unfold State.setFsh
  try dsimp only
  repeat' (first
    | with_reducible assumption
    | with_reducible refine good_foldl _ _ ?_ ?_
    | with_reducible refine good_foldr _ _ ?_ ?_
    | simp only [good_mk])

theorem good_actFallback {bb : Prop} {pp : Part} {qq : List Instr} (s : State) (code : ℕ) (h_s : s.Good bb pp qq) :
    (State.actFallback s code).Good bb pp qq := by
  unfold State.actFallback
  try dsimp only
  repeat' (first
    | with_reducible assumption
    | with_reducible apply good_wr
    | with_reducible apply good_gkpRestart
    | with_reducible apply good_setFsh)

theorem good_dropWrite {bb : Prop} {pp : Part} {qq : List Instr} (s : State) (r : Req) (page : ℕ) (off : ℕ) (h_s : s.Good bb pp qq) :
    (State.dropWrite s r page off).Good bb pp qq := by
  unfold State.dropWrite
  try dsimp only
  repeat' (first
    | with_reducible assumption
    | with_reducible apply good_regAlert
    | with_reducible apply good_wr)

theorem good_actSwap {bb : Prop} {pp : Part} {qq : List Instr} (s : State) (r : Req) (h_s : s.Good bb pp qq) :
    (State.actSwap s r).Good bb pp qq := by
  unfold State.actSwap
  try dsimp only
  repeat' (first
    | with_reducible assumption
    | with_reducible apply good_dropWrite
    | with_reducible apply good_wr
    | with_reducible apply good_unrequest
    | with_reducible apply good_gkpRestart
    | with_reducible refine good_foldl _ _ ?_ ?_
    | with_reducible refine good_foldr _ _ ?_ ?_
    | simp only [good_mk]
    | simp only [good_mk_gbk]
    | split)

theorem good_actTakenOver {bb : Prop} {pp : Part} {qq : List Instr} (s : State) (h_s : s.Good bb pp qq) :
    (State.actTakenOver s).Good bb pp qq := by
  unfold State.actTakenOver
  try dsimp only
  repeat' (first
    | with_reducible assumption
    | with_reducible apply good_setFsh
    | with_reducible apply good_raise
    | with_reducible apply good_requestEnd
    | with_reducible apply good_wr
    | with_reducible refine good_foldl _ _ ?_ ?_
    | with_reducible refine good_foldr _ _ ?_ ?_
    | simp only [good_mk]
    | simp only [good_mk_gbk]
    | split)

theorem good_addTile {bb : Prop} {pp : Part} {qq : List Instr} (s : State) (i : Fin 4) (byteAt : ℕ → Byte) (addr : ℕ) (ringBase : ℕ) (ringSize : ℕ) (len : ℕ) (first : ℕ) (loopOfs : Option (ℕ × ℕ)) (h_s : s.Good bb pp qq) :
    (State.addTile s i byteAt addr ringBase ringSize len first loopOfs).Good bb pp qq := by
  unfold State.addTile
  try dsimp only
  repeat' (first
    | with_reducible assumption
    | with_reducible apply good_updIng
    | with_reducible apply good_updStm
    | with_reducible apply good_add2)

theorem good_calDone {bb : Prop} {pp : Part} {qq : List Instr} (s : State) (i : ℕ) (h_s : s.Good bb pp qq) :
    (State.calDone s i).Good bb pp qq := by
  unfold State.calDone
  try dsimp only
  repeat' (first
    | with_reducible assumption
    | with_reducible apply good_wr
    | with_reducible apply good_incSat)

theorem good_alignEnd {bb : Prop} {pp : Part} {qq : List Instr} (s : State) (k : ℕ) (result : ℕ) (h_s : s.Good bb pp qq) :
    (State.alignEnd s k result).Good bb pp qq := by
  unfold State.alignEnd
  try dsimp only
  repeat' (first
    | with_reducible assumption
    | with_reducible apply good_setBusy
    | with_reducible apply good_wr
    | with_reducible refine good_foldl _ _ ?_ ?_
    | with_reducible refine good_foldr _ _ ?_ ?_
    | simp only [good_mk])

theorem good_alignAfter {bb : Prop} {pp : Part} {qq : List Instr} (s : State) (page : ℕ) (own : Bool) (tookEffect : Bool) (h_s : s.Good bb pp qq) :
    (State.alignAfter s page own tookEffect).Good bb pp qq := by
  unfold State.alignAfter
  try dsimp only
  repeat' (first
    | with_reducible assumption
    | with_reducible apply good_calDone
    | with_reducible apply good_incSat
    | with_reducible apply good_alignEnd
    | with_reducible apply good_raise
    | with_reducible refine good_foldl _ _ ?_ ?_
    | with_reducible refine good_foldr _ _ ?_ ?_
    | simp only [good_mk]
    | simp only [good_mk_gbk]
    | split)

theorem good_armAs {bb : Prop} {pp : Part} {qq : List Instr} (s : State) (page : ℕ) (c : Commit) (h_s : s.Good bb pp qq) :
    (State.armAs s page c).Good bb pp qq := by
  unfold State.armAs
  try dsimp only
  repeat' (first
    | with_reducible assumption
    | with_reducible apply good_wr
    | with_reducible refine good_foldl _ _ ?_ ?_
    | with_reducible refine good_foldr _ _ ?_ ?_
    | simp only [good_mk])

theorem good_clearCommit {bb : Prop} {pp : Part} {qq : List Instr} (s : State) (page : ℕ) (h_s : s.Good bb pp qq) :
    (State.clearCommit s page).Good bb pp qq := by
  unfold State.clearCommit
  try dsimp only
  repeat' (first
    | with_reducible assumption
    | with_reducible apply good_wr
    | with_reducible refine good_foldl _ _ ?_ ?_
    | with_reducible refine good_foldr _ _ ?_ ?_
    | simp only [good_mk])

theorem good_rejectCommit {bb : Prop} {pp : Part} {qq : List Instr} (s : State) (r : Req) (page : ℕ) (err : ℕ) (pair : ℕ) (h_s : s.Good bb pp qq) :
    (State.rejectCommit s r page err pair).Good bb pp qq := by
  unfold State.rejectCommit
  try dsimp only
  repeat' (first
    | with_reducible assumption
    | with_reducible apply good_wr
    | with_reducible apply good_clearCommit
    | with_reducible apply good_regAlert
    | with_reducible refine good_foldl _ _ ?_ ?_
    | with_reducible refine good_foldr _ _ ?_ ?_
    | simp only [good_mk]
    | simp only [good_mk_gbk]
    | split)

theorem good_armCommit {bb : Prop} {pp : Part} {qq : List Instr} (s : State) (r : Req) (page : ℕ) (mode : ℕ) (own : Bool) (h_s : s.Good bb pp qq) :
    (State.armCommit s r page mode own).Good bb pp qq := by
  unfold State.armCommit
  try dsimp only
  repeat' (first
    | with_reducible assumption
    | with_reducible apply good_armAs
    | with_reducible apply good_rejectCommit
    | with_reducible refine good_foldl _ _ ?_ ?_
    | with_reducible refine good_foldr _ _ ?_ ?_
    | simp only [good_mk]
    | simp only [good_mk_gbk]
    | split)

theorem good_alignFit {bb : Prop} {pp : Part} {qq : List Instr} (s : State) (k : ℕ) (ofs : ℤ) (scale : ℤ) (h_s : s.Good bb pp qq) :
    (State.alignFit s k ofs scale).Good bb pp qq := by
  unfold State.alignFit
  try dsimp only
  repeat' (first
    | with_reducible assumption
    | with_reducible apply good_wr
    | with_reducible apply good_armCommit)

theorem good_updQlp {bb : Prop} {pp : Part} {qq : List Instr} (s : State) (g : Qlp → Qlp) (h_s : s.Good bb pp qq) :
    (State.updQlp s g).Good bb pp qq := by
  unfold State.updQlp
  try dsimp only
  repeat' (first
    | with_reducible assumption
    | with_reducible refine good_foldl _ _ ?_ ?_
    | with_reducible refine good_foldr _ _ ?_ ?_
    | simp only [good_mk])

theorem good_alignLine {bb : Prop} {pp : Part} {qq : List Instr} (s : State) (k : ℕ) (l : QCamLine) (slots : List (ℕ × List Byte)) (h_s : s.Good bb pp qq) :
    (State.alignLine s k l slots).Good bb pp qq := by
  unfold State.alignLine
  try dsimp only
  repeat' (first
    | with_reducible assumption
    | with_reducible apply good_updQlp
    | with_reducible refine good_foldl _ _ ?_ ?_
    | with_reducible refine good_foldr _ _ ?_ ?_
    | simp only [good_mk]
    | simp only [good_mk_gbk]
    | split)

theorem good_announce {bb : Prop} {pp : Part} {qq : List Instr} (s : State) (p : Fin 2) (h_s : s.Good bb pp qq) :
    (State.announce s p).Good bb pp qq := by
  unfold State.announce
  try dsimp only
  repeat' (first
    | with_reducible assumption
    | with_reducible apply good_emit
    | with_reducible apply good_ownSent)

theorem good_inc {bb : Prop} {pp : Part} {qq : List Instr} (s : State) (page : ℕ) (f : Fld) (h_s : s.Good bb pp qq) :
    (State.inc s page f).Good bb pp qq := by
  unfold State.inc
  try dsimp only
  repeat' (first
    | with_reducible assumption
    | with_reducible apply good_wr)

theorem good_copyShadow {bb : Prop} {pp : Part} {qq : List Instr} (s : State) (page : ℕ) (h_s : s.Good bb pp qq) :
    (State.copyShadow s page).Good bb pp qq := by
  unfold State.copyShadow
  try dsimp only
  repeat' (first
    | with_reducible assumption
    | with_reducible refine good_foldl _ _ ?_ ?_
    | with_reducible refine good_foldr _ _ ?_ ?_
    | simp only [good_mk]
    | simp only [good_mk_gbk]
    | split)

theorem good_applyShadow {bb : Prop} {pp : Part} {qq : List Instr} (s : State) (page : ℕ) (h_s : s.Good bb pp qq) :
    (State.applyShadow s page).Good bb pp qq := by
  unfold State.applyShadow
  try dsimp only
  repeat' (first
    | with_reducible assumption
    | with_reducible apply good_inc
    | with_reducible apply good_wr
    | with_reducible apply good_clearCommit
    | with_reducible apply good_copyShadow)

theorem good_updArc {bb : Prop} {pp : Part} {qq : List Instr} (s : State) (g : Arc → Arc) (h_s : s.Good bb pp qq) :
    (State.updArc s g).Good bb pp qq := by
  unfold State.updArc
  try dsimp only
  repeat' (first
    | with_reducible assumption
    | with_reducible apply good_updQlp)

theorem good_arcBad {bb : Prop} {pp : Part} {qq : List Instr} (s : State) (reason : ℕ) (h_s : s.Good bb pp qq) :
    (State.arcBad s reason).Good bb pp qq := by
  unfold State.arcBad
  try dsimp only
  repeat' (first
    | with_reducible assumption
    | with_reducible apply good_updArc)

theorem good_arcCommit {bb : Prop} {pp : Part} {qq : List Instr} (s : State) (a : Arc) (h_s : s.Good bb pp qq) :
    (State.arcCommit s a).Good bb pp qq := by
  unfold State.arcCommit
  try dsimp only
  repeat' (first
    | with_reducible assumption
    | with_reducible apply good_updQlp
    | with_reducible apply good_emit
    | with_reducible apply good_wr)

theorem good_memWake {bb : Prop} {pp : Part} {qq : List Instr} (s : State) (h_s : s.Good bb pp qq) :
    (State.memWake s).Good bb pp qq := by
  unfold State.memWake
  try dsimp only
  repeat' (first
    | with_reducible assumption
    | with_reducible apply good_raise
    | with_reducible apply good_incSat
    | with_reducible refine good_foldl _ _ ?_ ?_
    | with_reducible refine good_foldr _ _ ?_ ?_
    | simp only [good_mk]
    | simp only [good_mk_gbk]
    | split)

theorem good_updChan {bb : Prop} {pp : Part} {qq : List Instr} (s : State) (c : Fin 2) (g : Chan → Chan) (h_s : s.Good bb pp qq) :
    (State.updChan s c g).Good bb pp qq := by
  unfold State.updChan
  try dsimp only
  repeat' (first
    | with_reducible assumption
    | with_reducible refine good_foldl _ _ ?_ ?_
    | with_reducible refine good_foldr _ _ ?_ ?_
    | simp only [good_mk])

theorem good_burst {bb : Prop} {pp : Part} {qq : List Instr} (s : State) (port : ℕ) (write : Bool) (x : ℕ × ℕ) (h_s : s.Good bb pp qq) :
    (State.burst s port write x).Good bb pp qq := by
  unfold State.burst
  try dsimp only
  repeat' (first
    | with_reducible assumption
    | with_reducible apply good_emit
    | with_reducible apply good_add2
    | with_reducible apply good_updChan
    | with_reducible refine good_foldl _ _ ?_ ?_
    | with_reducible refine good_foldr _ _ ?_ ?_
    | simp only [good_mk]
    | simp only [good_mk_gbk]
    | split)

theorem good_bursts {bb : Prop} {pp : Part} {qq : List Instr} (s : State) (port : ℕ) (a : ℕ) (n : ℕ) (write : Bool) (h_s : s.Good bb pp qq) :
    (State.bursts s port a n write).Good bb pp qq := by
  unfold State.bursts
  try dsimp only
  repeat' (first
    | with_reducible assumption
    | with_reducible apply good_burst
    | with_reducible refine good_foldl _ _ ?_ ?_
    | with_reducible refine good_foldr _ _ ?_ ?_
    | simp only [good_mk]
    | simp only [good_mk_gbk]
    | split
    | intro _)

theorem good_granted {bb : Prop} {pp : Part} {qq : List Instr} (s : State) (port : ℕ) (units : ℕ) (h_s : s.Good bb pp qq) :
    (State.granted s port units).Good bb pp qq := by
  unfold State.granted
  try dsimp only
  repeat' (first
    | with_reducible assumption
    | with_reducible refine good_foldl _ _ ?_ ?_
    | with_reducible refine good_foldr _ _ ?_ ?_
    | simp only [good_mk])

theorem good_errRecord {bb : Prop} {pp : Part} {qq : List Instr} (s : State) (a : ℕ) (sub : ℕ) (beat : ℕ) (bit : ℕ) (ue : Bool) (scrub : Bool) (h_s : s.Good bb pp qq) :
    (State.errRecord s a sub beat bit ue scrub).Good bb pp qq := by
  unfold State.errRecord
  try dsimp only
  repeat' (first
    | with_reducible assumption
    | with_reducible apply good_wr2
    | with_reducible apply good_wr
    | with_reducible apply good_wrBit)

theorem good_dramCe {bb : Prop} {pp : Part} {qq : List Instr} (s : State) (a : ℕ) (sub : ℕ) (beat : ℕ) (bit : ℕ) (scrub : Bool) (h_s : s.Good bb pp qq) :
    (State.dramCe s a sub beat bit scrub).Good bb pp qq := by
  unfold State.dramCe
  try dsimp only
  repeat' (first
    | with_reducible assumption
    | with_reducible apply good_errRecord
    | with_reducible apply good_incSat
    | with_reducible apply good_updChan
    | with_reducible apply good_raise
    | with_reducible refine good_foldl _ _ ?_ ?_
    | with_reducible refine good_foldr _ _ ?_ ?_
    | split)

theorem good_dramUe {bb : Prop} {pp : Part} {qq : List Instr} (s : State) (a : ℕ) (sub : ℕ) (beat : ℕ) (scrub : Bool) (h_s : s.Good bb pp qq) :
    (State.dramUe s a sub beat scrub).Good bb pp qq := by
  unfold State.dramUe
  try dsimp only
  repeat' (first
    | with_reducible assumption
    | with_reducible apply good_raise
    | with_reducible apply good_errRecord
    | with_reducible apply good_incSat)

theorem good_beatErr {bb : Prop} {pp : Part} {qq : List Instr} (s : State) (e : BeatErr) (scrub : Bool) (h_s : s.Good bb pp qq) :
    (State.beatErr s e scrub).Good bb pp qq := by
  unfold State.beatErr
  try dsimp only
  repeat' (first
    | with_reducible assumption
    | with_reducible apply good_dramCe
    | with_reducible apply good_dramUe
    | with_reducible refine good_foldl _ _ ?_ ?_
    | with_reducible refine good_foldr _ _ ?_ ?_
    | simp only [good_mk]
    | simp only [good_mk_gbk]
    | split)

theorem good_disarm {bb : Prop} {pp : Part} {qq : List Instr} (s : State) (page : ℕ) (h_s : s.Good bb pp qq) :
    (State.disarm s page).Good bb pp qq := by
  unfold State.disarm
  try dsimp only
  repeat' (first
    | with_reducible assumption
    | with_reducible refine good_foldl _ _ ?_ ?_
    | with_reducible refine good_foldr _ _ ?_ ?_
    | simp only [good_mk])

theorem good_updFolly {bb : Prop} {pp : Part} {qq : List Instr} (s : State) (page : ℕ) (g : Folly → Folly) (h_s : s.Good bb pp qq) :
    (State.updFolly s page g).Good bb pp qq := by
  unfold State.updFolly
  try dsimp only
  repeat' (first
    | with_reducible assumption
    | with_reducible refine good_foldl _ _ ?_ ?_
    | with_reducible refine good_foldr _ _ ?_ ?_
    | simp only [good_mk])

theorem good_inject {bb : Prop} {pp : Part} {qq : List Instr} (s : State) (page : ℕ) (h_s : s.Good bb pp qq) :
    (State.inject s page).Good bb pp qq := by
  unfold State.inject
  try dsimp only
  repeat' (first
    | with_reducible assumption
    | with_reducible apply good_updFolly
    | with_reducible apply good_wr
    | with_reducible apply good_disarm
    | with_reducible refine good_foldl _ _ ?_ ?_
    | with_reducible refine good_foldr _ _ ?_ ?_
    | simp only [good_mk]
    | simp only [good_mk_gbk]
    | split)

theorem good_follyRead {bb : Prop} {pp : Part} {qq : List Instr} (s : State) (c : Fin 2) (a : ℕ) (n : ℕ) (scrub : Bool) (h_s : s.Good bb pp qq) :
    (State.follyRead s c a n scrub).1.Good bb pp qq := by
  unfold State.follyRead
  try dsimp only
  repeat' (first
    | with_reducible assumption
    | with_reducible apply good_inject
    | with_reducible apply good_dramCe
    | with_reducible apply good_dramUe
    | with_reducible refine good_foldl _ _ ?_ ?_
    | with_reducible refine good_foldr _ _ ?_ ?_
    | simp only [good_mk]
    | simp only [good_mk_gbk]
    | split)

theorem good_follyRead_eq {bb : Prop} {pp : Part} {qq : List Instr} {s : State} {c : Fin 2} {a : ℕ} {n : ℕ} {scrub : Bool} {tOut : State} {zOut : _}
    (h_s : s.Good bb pp qq) (e : State.follyRead s c a n scrub = (tOut, zOut)) : tOut.Good bb pp qq := by
  have := good_follyRead s c a n scrub h_s; rw [e] at this; exact this

theorem good_storedErrs {bb : Prop} {pp : Part} {qq : List Instr} (s : State) (a : ℕ) (n : ℕ) (scrub : Bool) (h_s : s.Good bb pp qq) :
    (State.storedErrs s a n scrub).Good bb pp qq := by
  unfold State.storedErrs
  try dsimp only
  repeat' (first
    | with_reducible assumption
    | with_reducible apply good_dramUe
    | with_reducible refine good_foldl _ _ ?_ ?_
    | with_reducible refine good_foldr _ _ ?_ ?_
    | simp only [good_mk]
    | simp only [good_mk_gbk]
    | split
    | intro _)

theorem good_readErrs {bb : Prop} {pp : Part} {qq : List Instr} (s : State) (a : ℕ) (n : ℕ) (errs : List BeatErr) (scrub : Bool) (h_s : s.Good bb pp qq) :
    (State.readErrs s a n errs scrub).1.Good bb pp qq := by
  unfold State.readErrs
  try dsimp only
  repeat' (first
    | with_reducible assumption
    | with_reducible apply good_beatErr
    | with_reducible apply good_storedErrs
    | with_reducible apply good_follyRead
    | with_reducible exact good_follyRead_eq (by assumption) (by assumption)
    | with_reducible refine good_foldl _ _ ?_ ?_
    | with_reducible refine good_foldr _ _ ?_ ?_
    | simp only [good_mk]
    | simp only [good_mk_gbk]
    | split
    | intro _)

theorem good_readErrs_eq {bb : Prop} {pp : Part} {qq : List Instr} {s : State} {a : ℕ} {n : ℕ} {errs : List BeatErr} {scrub : Bool} {tOut : State} {zOut : _}
    (h_s : s.Good bb pp qq) (e : State.readErrs s a n errs scrub = (tOut, zOut)) : tOut.Good bb pp qq := by
  have := good_readErrs s a n errs scrub h_s; rw [e] at this; exact this

theorem good_reqErr {bb : Prop} {pp : Part} {qq : List Instr} (s : State) (a : ℕ) (h_s : s.Good bb pp qq) :
    (State.reqErr s a).Good bb pp qq := by
  unfold State.reqErr
  try dsimp only
  repeat' (first
    | with_reducible assumption
    | with_reducible apply good_raise
    | with_reducible apply good_wr2
    | with_reducible apply good_incSat)

theorem good_dramRead {bb : Prop} {pp : Part} {qq : List Instr} (s : State) (port : ℕ) (a : ℕ) (n : ℕ) (errs : List BeatErr) (h_s : s.Good bb pp qq) :
    (State.dramRead s port a n errs).1.Good bb pp qq := by
  unfold State.dramRead
  try dsimp only
  repeat' (first
    | with_reducible assumption
    | with_reducible apply good_wr
    | with_reducible apply good_readErrs
    | with_reducible apply good_granted
    | with_reducible apply good_bursts
    | with_reducible apply good_reqErr
    | with_reducible exact good_readErrs_eq (by assumption) (by assumption)
    | with_reducible refine good_foldl _ _ ?_ ?_
    | with_reducible refine good_foldr _ _ ?_ ?_
    | split)

theorem good_dramRead_eq {bb : Prop} {pp : Part} {qq : List Instr} {s : State} {port : ℕ} {a : ℕ} {n : ℕ} {errs : List BeatErr} {tOut : State} {zOut : _}
    (h_s : s.Good bb pp qq) (e : State.dramRead s port a n errs = (tOut, zOut)) : tOut.Good bb pp qq := by
  have := good_dramRead s port a n errs h_s; rw [e] at this; exact this

theorem good_store {bb : Prop} {pp : Part} {qq : List Instr} (s : State) (a : ℕ) (bs : List Byte) (bad : Bool) (h_s : s.Good bb pp qq) :
    (State.store s a bs bad).Good bb pp qq := by
  unfold State.store
  try dsimp only
  repeat' (first
    | with_reducible assumption
    | with_reducible apply good_setBytes
    | with_reducible refine good_foldl _ _ ?_ ?_
    | with_reducible refine good_foldr _ _ ?_ ?_
    | simp only [good_mk])

theorem good_taint {bb : Prop} {pp : Part} {qq : List Instr} (s : State) (a : ℕ) (n : ℕ) (h_s : s.Good bb pp qq) :
    (State.taint s a n).Good bb pp qq := by
  unfold State.taint
  try dsimp only
  repeat' (first
    | with_reducible assumption
    | with_reducible refine good_foldl _ _ ?_ ?_
    | with_reducible refine good_foldr _ _ ?_ ?_
    | simp only [good_mk])

theorem good_storeTagged {bb : Prop} {pp : Part} {qq : List Instr} (s : State) (a : ℕ) (bs : List Byte) (tags : List Bool) (h_s : s.Good bb pp qq) :
    (State.storeTagged s a bs tags).Good bb pp qq := by
  unfold State.storeTagged
  try dsimp only
  repeat' (first
    | with_reducible assumption
    | with_reducible apply good_taint
    | with_reducible apply good_store
    | with_reducible refine good_foldl _ _ ?_ ?_
    | with_reducible refine good_foldr _ _ ?_ ?_
    | simp only [good_mk]
    | simp only [good_mk_gbk]
    | split
    | intro _)

theorem good_dramWrite {bb : Prop} {pp : Part} {qq : List Instr} (s : State) (port : ℕ) (a : ℕ) (bs : List Byte) (tags : List Bool) (h_s : s.Good bb pp qq) :
    (State.dramWrite s port a bs tags).Good bb pp qq := by
  unfold State.dramWrite
  try dsimp only
  repeat' (first
    | with_reducible assumption
    | with_reducible apply good_wr
    | with_reducible apply good_storeTagged
    | with_reducible apply good_reqErr
    | with_reducible apply good_granted
    | with_reducible apply good_bursts
    | with_reducible refine good_foldl _ _ ?_ ?_
    | with_reducible refine good_foldr _ _ ?_ ?_
    | simp only [good_mk]
    | simp only [good_mk_gbk]
    | split
    | intro _)

theorem good_serveReq {bb : Prop} {pp : Part} {qq : List Instr} (s : State) (q : DramReq) (h_s : s.Good bb pp qq) :
    (State.serveReq s q).Good bb pp qq := by
  unfold State.serveReq
  try dsimp only
  repeat' (first
    | with_reducible assumption
    | with_reducible apply good_dramWrite
    | with_reducible apply good_dramRead
    | with_reducible apply good_emit
    | with_reducible exact good_dramRead_eq (by assumption) (by assumption)
    | with_reducible refine good_foldl _ _ ?_ ?_
    | with_reducible refine good_foldr _ _ ?_ ?_
    | simp only [good_mk]
    | simp only [good_mk_gbk]
    | split)

theorem good_serveAll {bb : Prop} {pp : Part} {qq : List Instr} (s : State) (port : ℕ) (h_s : s.Good bb pp qq) :
    (State.serveAll s port).Good bb pp qq := by
  unfold State.serveAll
  try dsimp only
  repeat' (first
    | with_reducible assumption
    | with_reducible apply good_serveReq
    | with_reducible refine good_foldl _ _ ?_ ?_
    | with_reducible refine good_foldr _ _ ?_ ?_
    | simp only [good_mk])

theorem good_arrive {bb : Prop} {pp : Part} {qq : List Instr} (s : State) (port : ℕ) (h_s : s.Good bb pp qq) :
    (State.arrive s port).Good bb pp qq := by
  unfold State.arrive
  try dsimp only
  repeat' (first
    | with_reducible assumption
    | with_reducible apply good_serveAll
    | with_reducible apply good_memWake
    | with_reducible refine good_foldl _ _ ?_ ?_
    | with_reducible refine good_foldr _ _ ?_ ?_
    | simp only [good_mk]
    | simp only [good_mk_gbk]
    | split)

theorem good_portRead {bb : Prop} {pp : Part} {qq : List Instr} (s : State) (port : ℕ) (a : ℕ) (n : ℕ) (errs : List BeatErr) (h_s : s.Good bb pp qq) :
    (State.portRead s port a n errs).1.Good bb pp qq := by
  unfold State.portRead
  try dsimp only
  repeat' (first
    | with_reducible assumption
    | with_reducible apply good_dramRead
    | with_reducible apply good_arrive)

theorem good_portRead_eq {bb : Prop} {pp : Part} {qq : List Instr} {s : State} {port : ℕ} {a : ℕ} {n : ℕ} {errs : List BeatErr} {tOut : State} {zOut : _}
    (h_s : s.Good bb pp qq) (e : State.portRead s port a n errs = (tOut, zOut)) : tOut.Good bb pp qq := by
  have := good_portRead s port a n errs h_s; rw [e] at this; exact this

theorem good_sramRead {bb : Prop} {pp : Part} {qq : List Instr} (s : State) (a : ℕ) (n : ℕ) (h_s : s.Good bb pp qq) :
    (State.sramRead s a n).1.Good bb pp qq := by
  unfold State.sramRead
  try dsimp only
  repeat' (first
    | with_reducible assumption
    | with_reducible apply good_inject
    | with_reducible refine good_foldl _ _ ?_ ?_
    | with_reducible refine good_foldr _ _ ?_ ?_
    | simp only [good_mk]
    | simp only [good_mk_gbk]
    | split)

theorem good_sramRead_eq {bb : Prop} {pp : Part} {qq : List Instr} {s : State} {a : ℕ} {n : ℕ} {tOut : State} {zOut : _}
    (h_s : s.Good bb pp qq) (e : State.sramRead s a n = (tOut, zOut)) : tOut.Good bb pp qq := by
  have := good_sramRead s a n h_s; rw [e] at this; exact this

theorem good_readMem {bb : Prop} {pp : Part} {qq : List Instr} (s : State) (port : ℕ) (a : ℕ) (n : ℕ) (h_s : s.Good bb pp qq) :
    (State.readMem s port a n).1.Good bb pp qq := by
  unfold State.readMem
  try dsimp only
  repeat' (first
    | with_reducible assumption
    | with_reducible apply good_portRead
    | with_reducible apply good_sramRead
    | with_reducible exact good_portRead_eq (by assumption) (by assumption)
    | with_reducible exact good_sramRead_eq (by assumption) (by assumption)
    | with_reducible refine good_foldl _ _ ?_ ?_
    | with_reducible refine good_foldr _ _ ?_ ?_
    | simp only [good_mk]
    | simp only [good_mk_gbk]
    | split)

theorem good_readMem_eq {bb : Prop} {pp : Part} {qq : List Instr} {s : State} {port : ℕ} {a : ℕ} {n : ℕ} {tOut : State} {zOut : _}
    (h_s : s.Good bb pp qq) (e : State.readMem s port a n = (tOut, zOut)) : tOut.Good bb pp qq := by
  have := good_readMem s port a n h_s; rw [e] at this; exact this

theorem good_storeBytes {bb : Prop} {pp : Part} {qq : List Instr} (s : State) (a : Arc) (ofs : ℕ) (n : ℕ) (h_s : s.Good bb pp qq) :
    (State.storeBytes s a ofs n).1.Good bb pp qq := by
  unfold State.storeBytes
  try dsimp only
  repeat' (first
    | with_reducible assumption
    | with_reducible apply good_readMem)

theorem good_storeBytes_eq {bb : Prop} {pp : Part} {qq : List Instr} {s : State} {a : Arc} {ofs : ℕ} {n : ℕ} {tOut : State} {zOut : _}
    (h_s : s.Good bb pp qq) (e : State.storeBytes s a ofs n = (tOut, zOut)) : tOut.Good bb pp qq := by
  have := good_storeBytes s a ofs n h_s; rw [e] at this; exact this

theorem good_arcLines {bb : Prop} {pp : Part} {qq : List Instr} (s : State) (a : Arc) (p from' : ℕ) (n : ℕ) (h_s : s.Good bb pp qq) :
    (State.arcLines s a p from' n).1.Good bb pp qq := by
  induction n with
  | zero => exact h_s
  | succ n ih => unfold State.arcLines; exact good_storeBytes _ _ _ _ ih

theorem good_arcLines_eq {bb : Prop} {pp : Part} {qq : List Instr} {s : State} {a : Arc} {p from' : ℕ} {n : ℕ} {tOut : State} {zOut : _}
    (h_s : s.Good bb pp qq) (e : State.arcLines s a p from' n = (tOut, zOut)) : tOut.Good bb pp qq := by
  have := good_arcLines s a p from' n h_s; rw [e] at this; exact this

theorem good_arcPut {bb : Prop} {pp : Part} {qq : List Instr} (s : State) (bs : List Byte) (h_s : s.Good bb pp qq) :
    (State.arcPut s bs).Good bb pp qq := by
  unfold State.arcPut
  try dsimp only
  repeat' (first
    | with_reducible assumption
    | with_reducible apply good_arcBad
    | with_reducible apply good_emit
    | with_reducible apply good_updArc
    | with_reducible refine good_foldl _ _ ?_ ?_
    | with_reducible refine good_foldr _ _ ?_ ?_
    | simp only [good_mk]
    | simp only [good_mk_gbk]
    | split)

theorem good_arcEncode {bb : Prop} {pp : Part} {qq : List Instr} (s : State) (a : Arc) (p : ℕ) (h_s : s.Good bb pp qq) :
    (State.arcEncode s a p).Good bb pp qq := by
  unfold State.arcEncode
  try dsimp only
  repeat' (first
    | with_reducible assumption
    | with_reducible apply good_arcLines
    | with_reducible apply good_arcBad
    | with_reducible apply good_arcPut
    | with_reducible apply good_updArc
    | with_reducible exact good_arcLines_eq (by assumption) (by assumption)
    | with_reducible refine good_foldl _ _ ?_ ?_
    | with_reducible refine good_foldr _ _ ?_ ?_
    | simp only [good_mk]
    | simp only [good_mk_gbk]
    | split)

theorem good_dropVerif {bb : Prop} {pp : Part} {qq : List Instr} (s : State) (h_s : s.Good bb pp qq) :
    (State.dropVerif s).Good bb pp qq := by
  unfold State.dropVerif
  try dsimp only
  repeat' (first
    | with_reducible assumption
    | with_reducible apply good_kioskFree
    | with_reducible refine good_foldl _ _ ?_ ?_
    | with_reducible refine good_foldr _ _ ?_ ?_
    | simp only [good_mk]
    | simp only [good_mk_gbk]
    | split
    | intro _)

theorem good_arcFail {bb : Prop} {pp : Part} {qq : List Instr} (s : State) (reason : ℕ) (h_s : s.Good bb pp qq) :
    (State.arcFail s reason).Good bb pp qq := by
  unfold State.arcFail
  try dsimp only
  repeat' (first
    | with_reducible assumption
    | with_reducible apply good_dropVerif
    | with_reducible apply good_updQlp
    | with_reducible apply good_wr
    | with_reducible apply good_raise)

theorem good_arcRecs {bb : Prop} {pp : Part} {qq : List Instr} (s : State) (a : Arc) (ofs stride : ℕ) (n : ℕ) (h_s : s.Good bb pp qq) :
    (State.arcRecs s a ofs stride n).1.Good bb pp qq := by
  induction n with
  | zero => exact h_s
  | succ n ih => unfold State.arcRecs; exact good_storeBytes _ _ _ _ ih

theorem good_arcRecs_eq {bb : Prop} {pp : Part} {qq : List Instr} {s : State} {a : Arc} {ofs stride : ℕ} {n : ℕ} {tOut : State} {zOut : _}
    (h_s : s.Good bb pp qq) (e : State.arcRecs s a ofs stride n = (tOut, zOut)) : tOut.Good bb pp qq := by
  have := good_arcRecs s a ofs stride n h_s; rw [e] at this; exact this

theorem good_arcFrame {bb : Prop} {pp : Part} {qq : List Instr} (s : State) (ofs : ℕ) (h : List Byte) (h_s : s.Good bb pp qq) :
    (State.arcFrame s ofs h).Good bb pp qq := by
  unfold State.arcFrame
  try dsimp only
  repeat' (first
    | with_reducible assumption
    | with_reducible apply good_updArc
    | with_reducible apply good_arcRecs
    | with_reducible apply good_arcBad
    | with_reducible apply good_arcPut
    | with_reducible exact good_arcRecs_eq (by assumption) (by assumption)
    | with_reducible refine good_foldl _ _ ?_ ?_
    | with_reducible refine good_foldr _ _ ?_ ?_
    | simp only [good_mk]
    | simp only [good_mk_gbk]
    | split)

theorem good_arcLook {bb : Prop} {pp : Part} {qq : List Instr} (s : State) (a : Arc) (ofs : ℕ) (expect : Option ℕ) (miss : State → State) (h_s : s.Good bb pp qq) (h_miss : ∀ t : State, t.Good bb pp qq → (miss t).Good bb pp qq) :
    (State.arcLook s a ofs expect miss).Good bb pp qq := by
  unfold State.arcLook
  try dsimp only
  repeat' (first
    | with_reducible assumption
    | with_reducible apply h_miss
    | with_reducible apply good_storeBytes
    | with_reducible apply good_arcBad
    | with_reducible apply good_arcFrame
    | with_reducible exact good_storeBytes_eq (by assumption) (by assumption)
    | with_reducible refine good_foldl _ _ ?_ ?_
    | with_reducible refine good_foldr _ _ ?_ ?_
    | simp only [good_mk]
    | simp only [good_mk_gbk]
    | split)

theorem good_arcSeek {bb : Prop} {pp : Part} {qq : List Instr} (s : State) (h_s : s.Good bb pp qq) :
    (State.arcSeek s).Good bb pp qq := by
  unfold State.arcSeek
  try dsimp only
  repeat' (first
    | with_reducible assumption
    | with_reducible apply good_arcLook
    | with_reducible apply good_arcBad
    | with_reducible refine good_foldl _ _ ?_ ?_
    | with_reducible refine good_foldr _ _ ?_ ?_
    | simp only [good_mk]
    | simp only [good_mk_gbk]
    | split
    | intro _)

theorem good_arcTile {bb : Prop} {pp : Part} {qq : List Instr} (n : Nat) : ∀ s : State, s.Good bb pp qq →
    (State.arcTile n s).Good bb pp qq := by
  induction n with
  | zero => intro s h; exact h
  | succ n ih =>
    intro s h
    unfold State.arcTile
    split
    · exact h
    · rename_i a _
      split
      · exact h
      · split
        · have h1 := good_storeBytes s a a.hdrAt 64 h
          dsimp only
          exact good_ite _ (good_arcBad _ _ h1) (good_ite _ (good_arcBad _ _ h1) (good_arcEncode _ _ _ h1))
        · dsimp only
          split
          · exact good_updArc _ _ (good_wr _ _ _ _ (good_updArc _ _ h))
          · exact ih _ (good_arcSeek _ (good_wr _ _ _ _ (good_updArc _ _ h)))

theorem good_arcStart {bb : Prop} {pp : Part} {qq : List Instr} (s : State) (h_s : s.Good bb pp qq) :
    (State.arcStart s).Good bb pp qq := by
  unfold State.arcStart
  try dsimp only
  repeat' (first
    | with_reducible assumption
    | with_reducible apply good_wr
    | with_reducible apply good_updQlp
    | with_reducible apply good_emit
    | with_reducible apply good_arcTile
    | with_reducible apply good_arcLook
    | with_reducible apply good_arcBad
    | with_reducible refine good_foldl _ _ ?_ ?_
    | with_reducible refine good_foldr _ _ ?_ ?_
    | simp only [good_mk]
    | simp only [good_mk_gbk]
    | split
    | intro _)

theorem good_updOnk {bb : Prop} {pp : Part} {qq : List Instr} (s : State) (h : ℕ) (g : Onk → Onk) (h_s : s.Good bb pp qq) :
    (State.updOnk s h g).Good bb pp qq := by
  unfold State.updOnk
  try dsimp only
  repeat' (first
    | with_reducible assumption
    | with_reducible refine good_foldl _ _ ?_ ?_
    | with_reducible refine good_foldr _ _ ?_ ?_
    | simp only [good_mk]
    | simp only [good_mk_gbk]
    | split)

theorem good_failUnframed {bb : Prop} {pp : Part} {qq : List Instr} (s : State) (h : ℕ) (h_s : s.Good bb pp qq) :
    (State.failUnframed s h).Good bb pp qq := by
  unfold State.failUnframed
  try dsimp only
  repeat' (first
    | with_reducible assumption
    | with_reducible apply good_updOnk)

theorem good_readEnd {bb : Prop} {pp : Part} {qq : List Instr} (s : State) (h : ℕ) (f : Fld) (h_s : s.Good bb pp qq) :
    (State.readEnd s h f).Good bb pp qq := by
  unfold State.readEnd
  try dsimp only
  repeat' (first
    | with_reducible assumption
    | with_reducible apply good_setBusy
    | with_reducible apply good_wr
    | with_reducible apply good_updOnk)

theorem good_sendBlock {bb : Prop} {pp : Part} {qq : List Instr} (s : State) (h : ℕ) (type : ℕ) (rest : List Byte) (data : List Byte) (h_s : s.Good bb pp qq) :
    (State.sendBlock s h type rest data).Good bb pp qq := by
  unfold State.sendBlock
  try dsimp only
  repeat' (first
    | with_reducible assumption
    | with_reducible apply good_emit)

theorem good_txMark {bb : Prop} {pp : Part} {qq : List Instr} (s : State) (f : Fld) (h : ℕ) (h_s : s.Good bb pp qq) :
    (State.txMark s f h).Good bb pp qq := by
  unfold State.txMark
  try dsimp only
  repeat' (first
    | with_reducible assumption
    | with_reducible apply good_wr)

theorem good_stageResult {bb : Prop} {pp : Part} {qq : List Instr} (s : State) (h : ℕ) (code : ℕ) (h_s : s.Good bb pp qq) :
    (State.stageResult s h code).Good bb pp qq := by
  unfold State.stageResult
  try dsimp only
  repeat' (first
    | with_reducible assumption
    | with_reducible apply good_wr)

theorem good_stageFail {bb : Prop} {pp : Part} {qq : List Instr} (s : State) (h : ℕ) (code : ℕ) (h_s : s.Good bb pp qq) :
    (State.stageFail s h code).Good bb pp qq := by
  unfold State.stageFail
  try dsimp only
  repeat' (first
    | with_reducible assumption
    | with_reducible apply good_raise
    | with_reducible apply good_txMark
    | with_reducible apply good_stageResult)

end Sys2Proof.Machine
end

