-- ==== Sys2Proof/Laws/Keep2.lean ====
section
/-! SUPPORT. Part 2 of 8: every operation and every meaning keeps the part, the queue and
the canonical forms (`State.Good`), one lemma per definition, in the order of the definitions. -/

namespace Sys2Proof.Machine

theorem good_txEnd {bb : Prop} {pp : Part} {qq : List Instr} (s : State) (h_s : s.Good bb pp qq) :
    (State.txEnd s).Good bb pp qq := by
  unfold State.txEnd
  try dsimp only
  repeat' (first
    | with_reducible assumption
    | with_reducible apply good_setState
    | with_reducible refine good_foldl _ _ ?_ ?_
    | with_reducible refine good_foldr _ _ ?_ ?_
    | simp only [good_mk])

theorem good_txAbort {bb : Prop} {pp : Part} {qq : List Instr} (s : State) (failing : List (ℕ × ℕ)) (h_s : s.Good bb pp qq) :
    (State.txAbort s failing).Good bb pp qq := by
  unfold State.txAbort
  try dsimp only
  repeat' (first
    | with_reducible assumption
    | with_reducible apply good_sendBlock
    | with_reducible apply good_stageFail
    | with_reducible apply good_stageResult
    | with_reducible apply good_txEnd
    | with_reducible refine good_foldl _ _ ?_ ?_
    | with_reducible refine good_foldr _ _ ?_ ?_
    | simp only [good_mk]
    | simp only [good_mk_gbk]
    | split
    | intro _)

theorem good_txLaneDown {bb : Prop} {pp : Part} {qq : List Instr} (s : State) (h : ℕ) (h_s : s.Good bb pp qq) :
    (State.txLaneDown s h).Good bb pp qq := by
  unfold State.txLaneDown
  try dsimp only
  repeat' (first
    | with_reducible assumption
    | with_reducible apply good_txAbort
    | with_reducible refine good_foldl _ _ ?_ ?_
    | with_reducible refine good_foldr _ _ ?_ ?_
    | simp only [good_mk]
    | simp only [good_mk_gbk]
    | split)

theorem good_laneGone {bb : Prop} {pp : Part} {qq : List Instr} (s : State) (h : ℕ) (h_s : s.Good bb pp qq) :
    (State.laneGone s h).Good bb pp qq := by
  unfold State.laneGone
  try dsimp only
  repeat' (first
    | with_reducible assumption
    | with_reducible apply good_failUnframed
    | with_reducible apply good_updOnk
    | with_reducible apply good_readEnd
    | with_reducible apply good_txLaneDown
    | with_reducible refine good_foldl _ _ ?_ ?_
    | with_reducible refine good_foldr _ _ ?_ ?_
    | simp only [good_mk]
    | simp only [good_mk_gbk]
    | split)

theorem good_laneLost {bb : Prop} {pp : Part} {qq : List Instr} (s : State) (h : ℕ) (bit : ℕ) (h_s : s.Good bb pp qq) :
    (State.laneLost s h bit).Good bb pp qq := by
  unfold State.laneLost
  try dsimp only
  repeat' (first
    | with_reducible assumption
    | with_reducible apply good_laneGone
    | with_reducible apply good_raise
    | with_reducible apply good_incSat)

theorem good_laneDark {bb : Prop} {pp : Part} {qq : List Instr} (s : State) (h : ℕ) (h_s : s.Good bb pp qq) :
    (State.laneDark s h).Good bb pp qq := by
  unfold State.laneDark
  try dsimp only
  repeat' (first
    | with_reducible assumption
    | with_reducible apply good_wr
    | with_reducible apply good_laneLost
    | with_reducible refine good_foldl _ _ ?_ ?_
    | with_reducible refine good_foldr _ _ ?_ ?_
    | simp only [good_mk]
    | simp only [good_mk_gbk]
    | split)

theorem good_onlyIf {bb : Prop} {pp : Part} {qq : List Instr} (s : State) (c : Bool) (f : State → State) (h_s : s.Good bb pp qq) (h_f : ∀ t : State, t.Good bb pp qq → (f t).Good bb pp qq) :
    (State.onlyIf s c f).Good bb pp qq := by
  unfold State.onlyIf
  try dsimp only
  repeat' (first
    | with_reducible assumption
    | with_reducible apply h_f
    | with_reducible refine good_foldl _ _ ?_ ?_
    | with_reducible refine good_foldr _ _ ?_ ?_
    | simp only [good_mk]
    | simp only [good_mk_gbk]
    | split)

theorem good_updPort {bb : Prop} {pp : Part} {qq : List Instr} (s : State) (p : Fin 2) (g : Port → Port) (h_s : s.Good bb pp qq) :
    (State.updPort s p g).Good bb pp qq := by
  unfold State.updPort
  try dsimp only
  repeat' (first
    | with_reducible assumption
    | with_reducible refine good_foldl _ _ ?_ ?_
    | with_reducible refine good_foldr _ _ ?_ ?_
    | simp only [good_mk])

theorem good_portDark {bb : Prop} {pp : Part} {qq : List Instr} (s : State) (p : Fin 2) (los : Bool) (h_s : s.Good bb pp qq) :
    (State.portDark s p los).Good bb pp qq := by
  unfold State.portDark
  try dsimp only
  repeat' (first
    | with_reducible assumption
    | with_reducible apply good_onlyIf
    | with_reducible apply good_wrBit
    | with_reducible apply good_incSat
    | with_reducible apply good_updPort
    | with_reducible apply good_raise
    | with_reducible apply good_setState
    | with_reducible refine good_foldl _ _ ?_ ?_
    | with_reducible refine good_foldr _ _ ?_ ?_
    | simp only [good_mk]
    | simp only [good_mk_gbk]
    | split
    | intro _)

theorem good_follyBegins {bb : Prop} {pp : Part} {qq : List Instr} (s : State) (page : ℕ) (h_s : s.Good bb pp qq) :
    (State.follyBegins s page).Good bb pp qq := by
  unfold State.follyBegins
  try dsimp only
  repeat' (first
    | with_reducible assumption
    | with_reducible apply good_laneDark
    | with_reducible apply good_portDark
    | with_reducible refine good_foldl _ _ ?_ ?_
    | with_reducible refine good_foldr _ _ ?_ ?_
    | simp only [good_mk]
    | simp only [good_mk_gbk]
    | split)

theorem good_armFolly {bb : Prop} {pp : Part} {qq : List Instr} (s : State) (page : ℕ) (h_s : s.Good bb pp qq) :
    (State.armFolly s page).Good bb pp qq := by
  unfold State.armFolly
  try dsimp only
  repeat' (first
    | with_reducible assumption
    | with_reducible apply good_follyBegins
    | with_reducible refine good_foldl _ _ ?_ ?_
    | with_reducible refine good_foldr _ _ ?_ ?_
    | simp only [good_mk])

theorem good_atFolly {bb : Prop} {pp : Part} {qq : List Instr} (s : State) (page : ℕ) (num : ℕ) (hit : State → State) (miss : State → State) (h_s : s.Good bb pp qq) (h_hit : ∀ t : State, t.Good bb pp qq → (hit t).Good bb pp qq) (h_miss : ∀ t : State, t.Good bb pp qq → (miss t).Good bb pp qq) :
    (State.atFolly s page num hit miss).Good bb pp qq := by
  unfold State.atFolly
  try dsimp only
  repeat' (first
    | with_reducible assumption
    | with_reducible apply h_hit
    | with_reducible apply h_miss
    | with_reducible apply good_inject
    | with_reducible refine good_foldl _ _ ?_ ?_
    | with_reducible refine good_foldr _ _ ?_ ?_
    | simp only [good_mk]
    | simp only [good_mk_gbk]
    | split)

theorem good_sramCes {bb : Prop} {pp : Part} {qq : List Instr} (s : State) (offs : List (BitVec 26)) (h_s : s.Good bb pp qq) :
    (State.sramCes s offs).Good bb pp qq := by
  unfold State.sramCes
  try dsimp only
  repeat' (first
    | with_reducible assumption
    | with_reducible apply good_incSat
    | with_reducible refine good_foldl _ _ ?_ ?_
    | with_reducible refine good_foldr _ _ ?_ ?_
    | simp only [good_mk]
    | simp only [good_mk_gbk]
    | split
    | intro _)

theorem good_sramErrs {bb : Prop} {pp : Part} {qq : List Instr} (s : State) (a : ℕ) (n : ℕ) (errs : List SramErr) (h_s : s.Good bb pp qq) :
    (State.sramErrs s a n errs).Good bb pp qq := by
  unfold State.sramErrs
  try dsimp only
  repeat' (first
    | with_reducible assumption
    | with_reducible apply good_sramCes
    | with_reducible apply good_taint
    | with_reducible refine good_foldl _ _ ?_ ?_
    | with_reducible refine good_foldr _ _ ?_ ?_
    | simp only [good_mk]
    | simp only [good_mk_gbk]
    | split
    | intro _)

theorem good_fetchTile {bb : Prop} {pp : Part} {qq : List Instr} (s : State) (k : ℕ) (t : Tile) (h_s : s.Good bb pp qq) :
    (State.fetchTile s k t).Good bb pp qq := by
  unfold State.fetchTile
  try dsimp only
  repeat' (first
    | with_reducible assumption
    | with_reducible apply good_readMem
    | with_reducible apply good_storeTagged
    | with_reducible exact good_readMem_eq (by assumption) (by assumption)
    | with_reducible refine good_foldl _ _ ?_ ?_
    | with_reducible refine good_foldr _ _ ?_ ?_
    | simp only [good_mk]
    | simp only [good_mk_gbk]
    | split)

theorem good_updRib {bb : Prop} {pp : Part} {qq : List Instr} (s : State) (h : ℕ) (g : Ribbon → Ribbon) (h_s : s.Good bb pp qq) :
    (State.updRib s h g).Good bb pp qq := by
  unfold State.updRib
  try dsimp only
  repeat' (first
    | with_reducible assumption
    | with_reducible apply good_updIng
    | with_reducible refine good_foldl _ _ ?_ ?_
    | with_reducible refine good_foldr _ _ ?_ ?_
    | simp only [good_mk]
    | simp only [good_mk_gbk]
    | split)

theorem good_beginPlane {bb : Prop} {pp : Part} {qq : List Instr} (s : State) (h : ℕ) (l : ℕ) (n : ℕ) (h_s : s.Good bb pp qq) :
    (State.beginPlane s h l n).Good bb pp qq := by
  unfold State.beginPlane
  try dsimp only
  repeat' (first
    | with_reducible assumption
    | with_reducible apply good_updRib
    | with_reducible refine good_foldl _ _ ?_ ?_
    | with_reducible refine good_foldr _ _ ?_ ?_
    | simp only [good_mk]
    | simp only [good_mk_gbk]
    | split)

theorem good_endPlane {bb : Prop} {pp : Part} {qq : List Instr} (s : State) (h : ℕ) (l : ℕ) (n : ℕ) (h_s : s.Good bb pp qq) :
    (State.endPlane s h l n).Good bb pp qq := by
  unfold State.endPlane
  try dsimp only
  repeat' (first
    | with_reducible assumption
    | with_reducible apply good_updRib)

theorem good_lineDone {bb : Prop} {pp : Part} {qq : List Instr} (s : State) (t : Tile) (ended : Bool) (more : Bool) (h_s : s.Good bb pp qq) :
    (State.lineDone s t ended more).Good bb pp qq := by
  unfold State.lineDone
  try dsimp only
  repeat' (first
    | with_reducible assumption
    | with_reducible apply good_endPlane
    | with_reducible apply good_beginPlane
    | with_reducible refine good_foldl _ _ ?_ ?_
    | with_reducible refine good_foldr _ _ ?_ ?_
    | simp only [good_mk]
    | simp only [good_mk_gbk]
    | split)

theorem good_putDots {bb : Prop} {pp : Part} {qq : List Instr} (s : State) (h : ℕ) (l : ℕ) (n : ℕ) (col : ℕ) (ds : List ℕ) (h_s : s.Good bb pp qq) :
    (State.putDots s h l n col ds).Good bb pp qq := by
  unfold State.putDots
  try dsimp only
  repeat' (first
    | with_reducible assumption
    | with_reducible apply good_store)

theorem good_writeBlock {bb : Prop} {pp : Part} {qq : List Instr} (s : State) (t : Tile) (b : BlockOut) (h_s : s.Good bb pp qq) :
    (State.writeBlock s t b).Good bb pp qq := by
  unfold State.writeBlock
  try dsimp only
  repeat' (first
    | with_reducible assumption
    | with_reducible apply good_putDots
    | with_reducible refine good_foldl _ _ ?_ ?_
    | with_reducible refine good_foldr _ _ ?_ ?_
    | simp only [good_mk]
    | simp only [good_mk_gbk]
    | split)

theorem good_replay {bb : Prop} {pp : Part} {qq : List Instr} (t : Tile) (n : Nat) : ∀ (s : State) (u : Tile), s.Good bb pp qq →
    (State.replay s t n u).Good bb pp qq := by
  induction n with
  | zero => intro s u h; exact h
  | succ n ih =>
    intro s u h
    unfold State.replay
    split
    · exact h
    · split
      · exact h
      · exact ih _ _ (good_lineDone _ _ _ _ (good_writeBlock _ _ _ h))

theorem good_fetched {bb : Prop} {pp : Part} {qq : List Instr} (s : State) (k : ℕ) (t : Tile) (h_s : s.Good bb pp qq) :
    (State.fetched s k t).Good bb pp qq := by
  unfold State.fetched
  try dsimp only
  repeat' (first
    | with_reducible assumption
    | with_reducible apply good_updIng
    | with_reducible apply good_fetchTile
    | with_reducible apply good_replay
    | with_reducible apply good_updTile
    | with_reducible refine good_foldl _ _ ?_ ?_
    | with_reducible refine good_foldr _ _ ?_ ?_
    | simp only [good_mk]
    | simp only [good_mk_gbk]
    | split)

theorem good_countCycles {bb : Prop} {pp : Part} {qq : List Instr} (s : State) (k : ℕ) (id : ℕ) (cyc : ℕ) (h_s : s.Good bb pp qq) :
    (State.countCycles s k id cyc).Good bb pp qq := by
  unfold State.countCycles
  try dsimp only
  repeat' (first
    | with_reducible assumption
    | with_reducible apply good_updTile
    | with_reducible apply good_add2
    | with_reducible apply good_raise
    | with_reducible apply good_incSat
    | with_reducible refine good_foldl _ _ ?_ ?_
    | with_reducible refine good_foldr _ _ ?_ ?_
    | simp only [good_mk]
    | simp only [good_mk_gbk]
    | split)

theorem good_atBlock {bb : Prop} {pp : Part} {qq : List Instr} (s : State) (k : ℕ) (t : Tile) (errs : List SramErr)
    (h_s : s.Good bb pp qq) : (State.atBlock s k t errs).Good bb pp qq := by
  unfold State.atBlock
  exact good_atFolly _ _ _ _ _ (good_sramErrs _ _ _ _ (good_fetched _ _ _ h_s))
    (fun _ h => good_countCycles _ _ _ _ h) (fun _ h => h)

theorem good_kioskLeave {bb : Prop} {pp : Part} {qq : List Instr} (s : State) (k : ℕ) (h_s : s.Good bb pp qq) :
    (State.kioskLeave s k).Good bb pp qq := by
  unfold State.kioskLeave
  try dsimp only
  repeat' (first
    | with_reducible assumption
    | with_reducible apply good_publish
    | with_reducible apply good_kioskAway)

theorem good_atBoundary {bb : Prop} {pp : Part} {qq : List Instr} (s : State) (k : ℕ) (id : ℕ) (h_s : s.Good bb pp qq) :
    (State.atBoundary s k id).Good bb pp qq := by
  unfold State.atBoundary
  try dsimp only
  repeat' (first
    | with_reducible assumption
    | with_reducible apply good_kioskFree
    | with_reducible apply good_abandonTile
    | with_reducible apply good_kioskLeave
    | with_reducible refine good_foldl _ _ ?_ ?_
    | with_reducible refine good_foldr _ _ ?_ ?_
    | simp only [good_mk]
    | simp only [good_mk_gbk]
    | split)

theorem good_atFin {bb : Prop} {pp : Part} {qq : List Instr} (s : State) (k u : Nat) (f : Fin k → State) (h_s : s.Good bb pp qq)
    (h_f : ∀ i, (f i).Good bb pp qq) : (State.atFin s k u f).Good bb pp qq := by
  unfold State.atFin
  split
  · exact h_f _
  · exact h_s

theorem good_authFail {bb : Prop} {pp : Part} {qq : List Instr} (s : State) (i : Fin 4) (h_s : s.Good bb pp qq) :
    (State.authFail s i).Good bb pp qq := by
  unfold State.authFail
  try dsimp only
  repeat' (first
    | with_reducible assumption
    | with_reducible apply good_raise
    | with_reducible apply good_incSat)

theorem good_updSdl {bb : Prop} {pp : Part} {qq : List Instr} (s : State) (g : Sdl → Sdl) (h_s : s.Good bb pp qq) :
    (State.updSdl s g).Good bb pp qq := by
  unfold State.updSdl
  try dsimp only
  repeat' (first
    | with_reducible assumption
    | with_reducible refine good_foldl _ _ ?_ ?_
    | with_reducible refine good_foldr _ _ ?_ ?_
    | simp only [good_mk])

theorem good_wrS {bb : Prop} {pp : Part} {qq : List Instr} (s : State) (page : ℕ) (f : Fld) (v : ℤ) (h_s : s.Good bb pp qq) :
    (State.wrS s page f v).Good bb pp qq := by
  unfold State.wrS
  try dsimp only
  repeat' (first
    | with_reducible assumption
    | with_reducible apply good_wr)

theorem good_avgSpeed {bb : Prop} {pp : Part} {qq : List Instr} (s : State) (h_s : s.Good bb pp qq) :
    (State.avgSpeed s).Good bb pp qq := by
  unfold State.avgSpeed
  try dsimp only
  repeat' (first
    | with_reducible assumption
    | with_reducible apply good_updSdl
    | with_reducible apply good_wrS
    | with_reducible refine good_foldl _ _ ?_ ?_
    | with_reducible refine good_foldr _ _ ?_ ?_
    | simp only [good_mk]
    | simp only [good_mk_gbk]
    | split)

theorem good_updAxis {bb : Prop} {pp : Part} {qq : List Instr} (s : State) (a : ℕ) (g : Axis → Axis) (h_s : s.Good bb pp qq) :
    (State.updAxis s a g).Good bb pp qq := by
  unfold State.updAxis
  try dsimp only
  repeat' (first
    | with_reducible assumption
    | with_reducible refine good_foldl _ _ ?_ ?_
    | with_reducible refine good_foldr _ _ ?_ ?_
    | simp only [good_mk]
    | simp only [good_mk_gbk]
    | split)

theorem good_axisAfter {bb : Prop} {pp : Part} {qq : List Instr} (s : State) (a : ℕ) (h_s : s.Good bb pp qq) :
    (State.axisAfter s a).Good bb pp qq := by
  unfold State.axisAfter
  try dsimp only
  repeat' (first
    | with_reducible assumption
    | with_reducible apply good_updAxis)

theorem good_axisClear {bb : Prop} {pp : Part} {qq : List Instr} (s : State) (a : ℕ) (h_s : s.Good bb pp qq) :
    (State.axisClear s a).Good bb pp qq := by
  unfold State.axisClear
  try dsimp only
  repeat' (first
    | with_reducible assumption
    | with_reducible apply good_wr
    | with_reducible apply good_updAxis)

theorem good_updFir {bb : Prop} {pp : Part} {qq : List Instr} (s : State) (h : ℕ) (g : Fir → Fir) (h_s : s.Good bb pp qq) :
    (State.updFir s h g).Good bb pp qq := by
  unfold State.updFir
  try dsimp only
  repeat' (first
    | with_reducible assumption
    | with_reducible refine good_foldl _ _ ?_ ?_
    | with_reducible refine good_foldr _ _ ?_ ?_
    | simp only [good_mk]
    | simp only [good_mk_gbk]
    | split)

theorem good_padStops {bb : Prop} {pp : Part} {qq : List Instr} (s : State) (h : ℕ) (h_s : s.Good bb pp qq) :
    (State.padStops s h).Good bb pp qq := by
  unfold State.padStops
  try dsimp only
  repeat' (first
    | with_reducible assumption
    | with_reducible apply good_updFir)

theorem good_cutHead {bb : Prop} {pp : Part} {qq : List Instr} (s : State) (h : ℕ) (cause : ℕ) (h_s : s.Good bb pp qq) :
    (State.cutHead s h cause).Good bb pp qq := by
  unfold State.cutHead
  try dsimp only
  repeat' (first
    | with_reducible assumption
    | with_reducible apply good_padStops
    | with_reducible apply good_wr
    | with_reducible apply good_raise
    | with_reducible apply good_incSat
    | with_reducible refine good_foldl _ _ ?_ ?_
    | with_reducible refine good_foldr _ _ ?_ ?_
    | simp only [good_mk]
    | simp only [good_mk_gbk]
    | split)

theorem good_record {bb : Prop} {pp : Part} {qq : List Instr} (s : State) (event : ℕ) (page : ℕ) (detail : ℕ) (h_s : s.Good bb pp qq) :
    (State.record s event page detail).Good bb pp qq := by
  unfold State.record
  try dsimp only
  repeat' (first
    | with_reducible assumption
    | with_reducible apply good_gbkEntry)

theorem good_estopEdge {bb : Prop} {pp : Part} {qq : List Instr} (s : State) (h_s : s.Good bb pp qq) :
    (State.estopEdge s).Good bb pp qq := by
  unfold State.estopEdge
  try dsimp only
  repeat' (first
    | with_reducible assumption
    | with_reducible apply good_cutHead
    | with_reducible apply good_updFir
    | with_reducible apply good_incSat
    | with_reducible apply good_wr
    | with_reducible apply good_record
    | with_reducible refine good_foldl _ _ ?_ ?_
    | with_reducible refine good_foldr _ _ ?_ ?_
    | simp only [good_mk]
    | simp only [good_mk_gbk]
    | split
    | intro _)

theorem good_printBack {bb : Prop} {pp : Part} {qq : List Instr} (before : State) (s : State) (h_before : before.Good bb pp qq) (h_s : s.Good bb pp qq) :
    (State.printBack before s).Good bb pp qq := by
  unfold State.printBack
  try dsimp only
  repeat' (first
    | with_reducible assumption
    | with_reducible apply good_estopEdge
    | with_reducible refine good_foldl _ _ ?_ ?_
    | with_reducible refine good_foldr _ _ ?_ ?_
    | simp only [good_mk]
    | simp only [good_mk_gbk]
    | split)

theorem good_netBack {bb : Prop} {pp : Part} {qq : List Instr} (before : State) (s : State) (h_before : before.Good bb pp qq) (h_s : s.Good bb pp qq) :
    (State.netBack before s).Good bb pp qq := by
  unfold State.netBack
  try dsimp only
  repeat' (first
    | with_reducible assumption
    | with_reducible apply good_wr
    | with_reducible refine good_foldl _ _ ?_ ?_
    | with_reducible refine good_foldr _ _ ?_ ?_
    | simp only [good_mk]
    | simp only [good_mk_gbk]
    | split
    | intro _)

theorem good_beginDrop {bb : Prop} {pp : Part} {qq : List Instr} (s : State) (d : Fin 7) (h_s : s.Good bb pp qq) :
    (State.beginDrop s d).Good bb pp qq := by
  unfold State.beginDrop
  try dsimp only
  repeat' (first
    | with_reducible assumption
    | with_reducible apply good_setPhase
    | with_reducible refine good_foldl _ _ ?_ ?_
    | with_reducible refine good_foldr _ _ ?_ ?_
    | simp only [good_mk]
    | simp only [good_mk_gbk]
    | split)

theorem good_react {bb : Prop} {pp : Part} {qq : List Instr} (s0 : State) (h_s0 : s0.Good bb pp qq) :
    (State.react s0).Good bb pp qq := by
  unfold State.react
  try dsimp only
  repeat' (first
    | with_reducible assumption
    | with_reducible apply good_abortDrop
    | with_reducible apply good_setPhase
    | with_reducible apply good_beginDrop
    | with_reducible refine good_foldl _ _ ?_ ?_
    | with_reducible refine good_foldr _ _ ?_ ?_
    | simp only [good_mk]
    | simp only [good_mk_gbk]
    | split)

theorem good_gbkFlushLate {bb : Prop} {pp : Part} {qq : List Instr} (s : State) (h_s : s.Good bb pp qq) :
    (State.gbkFlushLate s).Good bb pp qq := by
  unfold State.gbkFlushLate
  try dsimp only
  repeat' (first
    | with_reducible assumption
    | with_reducible apply good_gbkEntry
    | with_reducible refine good_foldl _ _ ?_ ?_
    | with_reducible refine good_foldr _ _ ?_ ?_
    | simp only [good_mk]
    | simp only [good_mk_gbk]
    | split
    | intro _)

theorem good_sysBack {bb : Prop} {pp : Part} {qq : List Instr} (s : State) (h_s : s.Good bb pp qq) :
    (State.sysBack s).Good bb pp qq := by
  unfold State.sysBack
  try dsimp only
  repeat' (first
    | with_reducible assumption
    | with_reducible apply good_gbkFlushLate
    | with_reducible apply good_raise
    | with_reducible apply good_raiseD
    | with_reducible refine good_foldl _ _ ?_ ?_
    | with_reducible refine good_foldr _ _ ?_ ?_
    | simp only [good_mk]
    | simp only [good_mk_gbk]
    | split)

theorem good_sysFollow {bb : Prop} {pp : Part} {qq : List Instr} (s : State) (h_s : s.Good bb pp qq) :
    (State.sysFollow s).Good bb pp qq := by
  unfold State.sysFollow
  try dsimp only
  repeat' (first
    | with_reducible assumption
    | with_reducible apply good_sysBack
    | with_reducible refine good_foldl _ _ ?_ ?_
    | with_reducible refine good_foldr _ _ ?_ ?_
    | simp only [good_mk]
    | simp only [good_mk_gbk]
    | split)

theorem good_patrolEntry {bb : Prop} {pp : Part} {qq : List Instr} (s : State) (h_s : s.Good bb pp qq) :
    (State.patrolEntry s).Good bb pp qq := by
  unfold State.patrolEntry
  try dsimp only
  repeat' (first
    | with_reducible assumption
    | with_reducible apply good_wr
    | with_reducible refine good_foldl _ _ ?_ ?_
    | with_reducible refine good_foldr _ _ ?_ ?_
    | simp only [good_mk])

theorem good_revote {bb : Prop} {pp : Part} {qq : List Instr} (s : State) (f : State → State) (h_s : s.Good bb pp qq) (h_f : ∀ t : State, t.Good bb pp qq → (f t).Good bb pp qq) :
    (State.revote s f).Good bb pp qq := by
  unfold State.revote
  try dsimp only
  repeat' (first
    | with_reducible assumption
    | with_reducible apply h_f
    | with_reducible apply good_printBack
    | with_reducible apply good_netBack
    | with_reducible apply good_react
    | with_reducible apply good_raise
    | with_reducible apply good_sysFollow
    | with_reducible apply good_patrolEntry
    | with_reducible refine good_foldl _ _ ?_ ?_
    | with_reducible refine good_foldr _ _ ?_ ?_
    | simp only [good_mk]
    | simp only [good_mk_gbk]
    | split)

theorem good_bridgesOff {bb : Prop} {pp : Part} {qq : List Instr} (s : State) (a : ℕ) (h_s : s.Good bb pp qq) :
    (State.bridgesOff s a).Good bb pp qq := by
  unfold State.bridgesOff
  try dsimp only
  repeat' (first
    | with_reducible assumption
    | with_reducible apply good_updAxis)

theorem good_setMotion {bb : Prop} {pp : Part} {qq : List Instr} (s : State) (a : ℕ) (m : Motion) (code : ℕ) (h_s : s.Good bb pp qq) :
    (State.setMotion s a m code).Good bb pp qq := by
  unfold State.setMotion
  try dsimp only
  repeat' (first
    | with_reducible assumption
    | with_reducible apply good_setState
    | with_reducible apply good_updAxis)

theorem good_rampAxis {bb : Prop} {pp : Part} {qq : List Instr} (s : State) (a : ℕ) (code : ℕ) (h_s : s.Good bb pp qq) :
    (State.rampAxis s a code).Good bb pp qq := by
  unfold State.rampAxis
  try dsimp only
  repeat' (first
    | with_reducible assumption
    | with_reducible apply good_updAxis
    | with_reducible apply good_setMotion
    | with_reducible refine good_foldl _ _ ?_ ?_
    | with_reducible refine good_foldr _ _ ?_ ?_
    | simp only [good_mk]
    | simp only [good_mk_gbk]
    | split)

theorem good_axisDisable {bb : Prop} {pp : Part} {qq : List Instr} (s : State) (a : ℕ) (h_s : s.Good bb pp qq) :
    (State.axisDisable s a).Good bb pp qq := by
  unfold State.axisDisable
  try dsimp only
  repeat' (first
    | with_reducible assumption
    | with_reducible apply good_revote
    | with_reducible apply good_bridgesOff
    | with_reducible apply good_setState
    | with_reducible apply good_wr
    | with_reducible apply good_updAxis
    | with_reducible apply good_rampAxis
    | with_reducible refine good_foldl _ _ ?_ ?_
    | with_reducible refine good_foldr _ _ ?_ ?_
    | simp only [good_mk]
    | simp only [good_mk_gbk]
    | split
    | intro _)

theorem good_retractAxis {bb : Prop} {pp : Part} {qq : List Instr} (s : State) (a : ℕ) (h_s : s.Good bb pp qq) :
    (State.retractAxis s a).Good bb pp qq := by
  unfold State.retractAxis
  try dsimp only
  repeat' (first
    | with_reducible assumption
    | with_reducible apply good_setMotion
    | with_reducible apply good_setBusy
    | with_reducible apply good_axisClear)

theorem good_retract {bb : Prop} {pp : Part} {qq : List Instr} (s : State) (axes : List ℕ) (h_s : s.Good bb pp qq) :
    (State.retract s axes).Good bb pp qq := by
  unfold State.retract
  try dsimp only
  repeat' (first
    | with_reducible assumption
    | with_reducible apply good_incSat
    | with_reducible apply good_retractAxis
    | with_reducible refine good_foldl _ _ ?_ ?_
    | with_reducible refine good_foldr _ _ ?_ ?_
    | simp only [good_mk]
    | simp only [good_mk_gbk]
    | split)

theorem good_retractHigh {bb : Prop} {pp : Part} {qq : List Instr} (s : State) (axes : List ℕ) (h_s : s.Good bb pp qq) :
    (State.retractHigh s axes).Good bb pp qq := by
  unfold State.retractHigh
  try dsimp only
  repeat' (first
    | with_reducible assumption
    | with_reducible apply good_retract
    | with_reducible refine good_foldl _ _ ?_ ?_
    | with_reducible refine good_foldr _ _ ?_ ?_
    | simp only [good_mk]
    | simp only [good_mk_gbk]
    | split)

theorem good_axisEnable {bb : Prop} {pp : Part} {qq : List Instr} (s : State) (a : ℕ) (h_s : s.Good bb pp qq) :
    (State.axisEnable s a).Good bb pp qq := by
  unfold State.axisEnable
  try dsimp only
  repeat' (first
    | with_reducible assumption
    | with_reducible apply good_revote
    | with_reducible apply good_wr
    | with_reducible apply good_setState
    | with_reducible apply good_updAxis
    | with_reducible apply good_retractHigh
    | with_reducible refine good_foldl _ _ ?_ ?_
    | with_reducible refine good_foldr _ _ ?_ ?_
    | simp only [good_mk]
    | simp only [good_mk_gbk]
    | split
    | intro _)

theorem good_axisFault {bb : Prop} {pp : Part} {qq : List Instr} (s : State) (a : ℕ) (cause : ℕ) (h_s : s.Good bb pp qq) :
    (State.axisFault s a cause).Good bb pp qq := by
  unfold State.axisFault
  try dsimp only
  repeat' (first
    | with_reducible assumption
    | with_reducible apply good_raise
    | with_reducible apply good_wr
    | with_reducible apply good_updAxis)

theorem good_showAxis {bb : Prop} {pp : Part} {qq : List Instr} (s : State) (a : ℕ) (h_s : s.Good bb pp qq) :
    (State.showAxis s a).Good bb pp qq := by
  unfold State.showAxis
  try dsimp only
  repeat' (first
    | with_reducible assumption
    | with_reducible apply good_wrS
    | with_reducible apply good_wr)

theorem good_axisStand {bb : Prop} {pp : Part} {qq : List Instr} (s : State) (a : ℕ) (h_s : s.Good bb pp qq) :
    (State.axisStand s a).Good bb pp qq := by
  unfold State.axisStand
  try dsimp only
  repeat' (first
    | with_reducible assumption
    | with_reducible apply good_showAxis
    | with_reducible apply good_updAxis
    | with_reducible apply good_revote
    | with_reducible apply good_bridgesOff
    | with_reducible apply good_setState
    | with_reducible apply good_wr
    | with_reducible refine good_foldl _ _ ?_ ?_
    | with_reducible refine good_foldr _ _ ?_ ?_
    | simp only [good_mk]
    | simp only [good_mk_gbk]
    | split
    | intro _)

theorem good_endMove {bb : Prop} {pp : Part} {qq : List Instr} (s : State) (a : ℕ) (code : ℕ) (h_s : s.Good bb pp qq) :
    (State.endMove s a code).Good bb pp qq := by
  unfold State.endMove
  try dsimp only
  repeat' (first
    | with_reducible assumption
    | with_reducible apply good_raise
    | with_reducible apply good_wr
    | with_reducible apply good_updAxis
    | with_reducible apply good_axisStand)

theorem good_bridgeFault {bb : Prop} {pp : Part} {qq : List Instr} (s : State) (a : ℕ) (h_s : s.Good bb pp qq) :
    (State.bridgeFault s a).Good bb pp qq := by
  unfold State.bridgeFault
  try dsimp only
  repeat' (first
    | with_reducible assumption
    | with_reducible apply good_updAxis
    | with_reducible apply good_axisFault
    | with_reducible apply good_bridgesOff
    | with_reducible apply good_endMove
    | with_reducible apply good_axisStand
    | with_reducible apply good_rampAxis
    | with_reducible refine good_foldl _ _ ?_ ?_
    | with_reducible refine good_foldr _ _ ?_ ?_
    | simp only [good_mk]
    | simp only [good_mk_gbk]
    | split)

theorem good_draw {bb : Prop} {pp : Part} {qq : List Instr} (s : State) (h_s : s.Good bb pp qq) :
    (State.draw s).Good bb pp qq := by
  unfold State.draw
  try dsimp only
  repeat' (first
    | with_reducible assumption
    | with_reducible refine good_foldl _ _ ?_ ?_
    | with_reducible refine good_foldr _ _ ?_ ?_
    | simp only [good_mk])

theorem good_moveFault {bb : Prop} {pp : Part} {qq : List Instr} (s : State) (a : ℕ) (cause : ℕ) (h_s : s.Good bb pp qq) :
    (State.moveFault s a cause).Good bb pp qq := by
  unfold State.moveFault
  try dsimp only
  repeat' (first
    | with_reducible assumption
    | with_reducible apply good_axisFault
    | with_reducible apply good_axisStand
    | with_reducible apply good_setMotion
    | with_reducible apply good_rampAxis
    | with_reducible refine good_foldl _ _ ?_ ?_
    | with_reducible refine good_foldr _ _ ?_ ?_
    | simp only [good_mk]
    | simp only [good_mk_gbk]
    | split)

theorem good_axisTick {bb : Prop} {pp : Part} {qq : List Instr} (s : State) (a : ℕ) (h_s : s.Good bb pp qq) :
    (State.axisTick s a).Good bb pp qq := by
  unfold State.axisTick
  try dsimp only
  repeat' (first
    | with_reducible assumption
    | with_reducible apply good_bridgeFault
    | with_reducible apply good_inject
    | with_reducible apply good_draw
    | with_reducible apply good_atFolly
    | with_reducible apply good_updAxis
    | with_reducible apply good_axisAfter
    | with_reducible apply good_showAxis
    | with_reducible apply good_moveFault
    | with_reducible refine good_foldl _ _ ?_ ?_
    | with_reducible refine good_foldr _ _ ?_ ?_
    | simp only [good_mk]
    | simp only [good_mk_gbk]
    | split
    | intro _)

theorem good_blockErr {bb : Prop} {pp : Part} {qq : List Instr} (s : State) (h : ℕ) (h_s : s.Good bb pp qq) :
    (State.blockErr s h).Good bb pp qq := by
  unfold State.blockErr
  try dsimp only
  repeat' (first
    | with_reducible assumption
    | with_reducible apply good_updOnk
    | with_reducible apply good_raise
    | with_reducible refine good_foldl _ _ ?_ ?_
    | with_reducible refine good_foldr _ _ ?_ ?_
    | split)

theorem good_badBlocks {bb : Prop} {pp : Part} {qq : List Instr} (s : State) (h : ℕ) (n : ℕ) (h_s : s.Good bb pp qq) :
    (State.badBlocks s h n).Good bb pp qq := by
  unfold State.badBlocks
  try dsimp only
  repeat' (first
    | with_reducible assumption
    | with_reducible apply good_blockErr
    | with_reducible apply good_addSat)

theorem good_badPacket {bb : Prop} {pp : Part} {qq : List Instr} (s : State) (p : Fin 2) (f : Fld) (h_s : s.Good bb pp qq) :
    (State.badPacket s p f).Good bb pp qq := by
  unfold State.badPacket
  try dsimp only
  repeat' (first
    | with_reducible assumption
    | with_reducible apply good_updPort
    | with_reducible apply good_incSat
    | with_reducible apply good_raise
    | with_reducible refine good_foldl _ _ ?_ ?_
    | with_reducible refine good_foldr _ _ ?_ ?_
    | split)

theorem good_setBist {bb : Prop} {pp : Part} {qq : List Instr} (s : State) (g : Bist → Bist) (h_s : s.Good bb pp qq) :
    (State.setBist s g).Good bb pp qq := by
  unfold State.setBist
  try dsimp only
  repeat' (first
    | with_reducible assumption
    | with_reducible refine good_foldl _ _ ?_ ?_
    | with_reducible refine good_foldr _ _ ?_ ?_
    | simp only [good_mk])

theorem good_rotated {bb : Prop} {pp : Part} {qq : List Instr} (s : State) (h_s : s.Good bb pp qq) :
    (State.rotated s).Good bb pp qq := by
  unfold State.rotated
  try dsimp only
  repeat' (first
    | with_reducible assumption
    | with_reducible apply good_incSat
    | with_reducible apply good_wr
    | with_reducible apply good_setBist)

theorem good_slicePast {bb : Prop} {pp : Part} {qq : List Instr} (s : State) (i : ℕ) (h_s : s.Good bb pp qq) :
    (State.slicePast s i).Good bb pp qq := by
  unfold State.slicePast
  try dsimp only
  repeat' (first
    | with_reducible assumption
    | with_reducible apply good_wr
    | with_reducible apply good_rotated
    | with_reducible refine good_foldl _ _ ?_ ?_
    | with_reducible refine good_foldr _ _ ?_ ?_
    | simp only [good_mk]
    | simp only [good_mk_gbk]
    | split)

theorem good_sliceOver {bb : Prop} {pp : Part} {qq : List Instr} (s0 : State) (i : ℕ) (h_s0 : s0.Good bb pp qq) :
    (State.sliceOver s0 i).Good bb pp qq := by
  unfold State.sliceOver
  try dsimp only
  repeat' (first
    | with_reducible assumption
    | with_reducible apply good_setBist
    | with_reducible apply good_slicePast
    | with_reducible refine good_foldl _ _ ?_ ?_
    | with_reducible refine good_foldr _ _ ?_ ?_
    | simp only [good_mk]
    | simp only [good_mk_gbk]
    | split)

theorem good_stopPortSlice {bb : Prop} {pp : Part} {qq : List Instr} (s : State) (p : ℕ) (h_s : s.Good bb pp qq) :
    (State.stopPortSlice s p).Good bb pp qq := by
  unfold State.stopPortSlice
  try dsimp only
  repeat' (first
    | with_reducible assumption
    | with_reducible apply good_sliceOver
    | with_reducible refine good_foldl _ _ ?_ ?_
    | with_reducible refine good_foldr _ _ ?_ ?_
    | simp only [good_mk]
    | simp only [good_mk_gbk]
    | split)

theorem good_becomeActive {bb : Prop} {pp : Part} {qq : List Instr} (s : State) (p : Fin 2) (h_s : s.Good bb pp qq) :
    (State.becomeActive s p).Good bb pp qq := by
  unfold State.becomeActive
  try dsimp only
  repeat' (first
    | with_reducible assumption
    | with_reducible apply good_wr
    | with_reducible apply good_stopPortSlice
    | with_reducible apply good_raise
    | with_reducible apply good_setState
    | with_reducible apply good_incSat)

theorem good_updTrl {bb : Prop} {pp : Part} {qq : List Instr} (s : State) (h : ℕ) (g : Trl → Trl) (h_s : s.Good bb pp qq) :
    (State.updTrl s h g).Good bb pp qq := by
  unfold State.updTrl
  try dsimp only
  repeat' (first
    | with_reducible assumption
    | with_reducible refine good_foldl _ _ ?_ ?_
    | with_reducible refine good_foldr _ _ ?_ ?_
    | simp only [good_mk]
    | simp only [good_mk_gbk]
    | split)

theorem good_updCam {bb : Prop} {pp : Part} {qq : List Instr} (s : State) (k : ℕ) (g : Cam → Cam) (h_s : s.Good bb pp qq) :
    (State.updCam s k g).Good bb pp qq := by
  unfold State.updCam
  try dsimp only
  repeat' (first
    | with_reducible assumption
    | with_reducible refine good_foldl _ _ ?_ ?_
    | with_reducible refine good_foldr _ _ ?_ ?_
    | simp only [good_mk]
    | simp only [good_mk_gbk]
    | split)

theorem good_behind {bb : Prop} {pp : Part} {qq : List Instr} (s : State) (r : Req) (page : ℕ) (off : ℕ) (v : Word) (f : State → State) (h_s : s.Good bb pp qq) (h_f : ∀ t : State, t.Good bb pp qq → (f t).Good bb pp qq) :
    (State.behind s r page off v f).Good bb pp qq := by
  unfold State.behind
  try dsimp only
  repeat' (first
    | with_reducible assumption
    | with_reducible apply h_f
    | with_reducible apply good_updTrl
    | with_reducible apply good_updCam
    | with_reducible refine good_foldl _ _ ?_ ?_
    | with_reducible refine good_foldr _ _ ?_ ?_
    | simp only [good_mk]
    | simp only [good_mk_gbk]
    | split)

theorem good_blankRings {bb : Prop} {pp : Part} {qq : List Instr} (s : State) (l : Fin 4) (h_s : s.Good bb pp qq) :
    (State.blankRings s l).Good bb pp qq := by
  unfold State.blankRings
  try dsimp only
  repeat' (first
    | with_reducible assumption
    | with_reducible apply good_updRib
    | with_reducible refine good_foldl _ _ ?_ ?_
    | with_reducible refine good_foldr _ _ ?_ ?_
    | simp only [good_mk]
    | simp only [good_mk_gbk]
    | split
    | intro _)

theorem good_chanOn {bb : Prop} {pp : Part} {qq : List Instr} (s : State) (c : Fin 2) (h_s : s.Good bb pp qq) :
    (State.chanOn s c).Good bb pp qq := by
  unfold State.chanOn
  try dsimp only
  repeat' (first
    | with_reducible assumption
    | with_reducible apply good_updChan
    | with_reducible apply good_wr
    | with_reducible apply good_setState)

theorem good_fullTraining {bb : Prop} {pp : Part} {qq : List Instr} (s : State) (c : Fin 2) (temp : BitVec 16) (h_s : s.Good bb pp qq) :
    (State.fullTraining s c temp).Good bb pp qq := by
  unfold State.fullTraining
  try dsimp only
  repeat' (first
    | with_reducible assumption
    | with_reducible apply good_wr
    | with_reducible apply good_incSat
    | with_reducible apply good_record
    | with_reducible apply good_calDone)

theorem good_bootTrain {bb : Prop} {pp : Part} {qq : List Instr} (s : State) (c : Fin 2) (ok : Bool) (temp : BitVec 16) (h_s : s.Good bb pp qq) :
    (State.bootTrain s c ok temp).Good bb pp qq := by
  unfold State.bootTrain
  try dsimp only
  repeat' (first
    | with_reducible assumption
    | with_reducible apply good_chanOn
    | with_reducible apply good_fullTraining
    | with_reducible apply good_updChan
    | with_reducible apply good_setState
    | with_reducible apply good_raise
    | with_reducible refine good_foldl _ _ ?_ ?_
    | with_reducible refine good_foldr _ _ ?_ ?_
    | simp only [good_mk]
    | simp only [good_mk_gbk]
    | split)

theorem good_setStage {bb : Prop} {pp : Part} {qq : List Instr} (s : State) (n : ℕ) (h_s : s.Good bb pp qq) :
    (State.setStage s n).Good bb pp qq := by
  unfold State.setStage
  try dsimp only
  repeat' (first
    | with_reducible assumption
    | with_reducible apply good_wrBit
    | with_reducible apply good_wr)

theorem good_gkpStarts {bb : Prop} {pp : Part} {qq : List Instr} (s : State) (h_s : s.Good bb pp qq) :
    (State.gkpStarts s).Good bb pp qq := by
  unfold State.gkpStarts
  try dsimp only
  repeat' (first
    | with_reducible assumption
    | with_reducible apply good_setWrd)

theorem good_startPlls {bb : Prop} {pp : Part} {qq : List Instr} (s : State) (h_s : s.Good bb pp qq) :
    (State.startPlls s).Good bb pp qq := by
  unfold State.startPlls
  try dsimp only
  repeat' (first
    | with_reducible assumption
    | with_reducible apply good_startPll
    | with_reducible refine good_foldl _ _ ?_ ?_
    | with_reducible refine good_foldr _ _ ?_ ?_
    | simp only [good_mk]
    | simp only [good_mk_gbk]
    | split
    | intro _)

theorem good_failStage {bb : Prop} {pp : Part} {qq : List Instr} (s : State) (reason : ℕ) (h_s : s.Good bb pp qq) :
    (State.failStage s reason).Good bb pp qq := by
  unfold State.failStage
  try dsimp only
  repeat' (first
    | with_reducible assumption
    | with_reducible apply good_wr
    | with_reducible apply good_setStage)

theorem good_bootVerified {bb : Prop} {pp : Part} {qq : List Instr} (s : State) (slot : ℕ) (h_s : s.Good bb pp qq) :
    (State.bootVerified s slot).Good bb pp qq := by
  unfold State.bootVerified
  try dsimp only
  repeat' (first
    | with_reducible assumption
    | with_reducible apply good_setFsh
    | with_reducible apply good_setStage
    | with_reducible apply good_gkpStarts
    | with_reducible apply good_wr
    | with_reducible apply good_startPlls
    | with_reducible apply good_failStage
    | with_reducible refine good_foldl _ _ ?_ ?_
    | with_reducible refine good_foldr _ _ ?_ ?_
    | simp only [good_mk]
    | simp only [good_mk_gbk]
    | split)

theorem good_breakArmed {bb : Prop} {pp : Part} {qq : List Instr} (s : State) (h_s : s.Good bb pp qq) :
    (State.breakArmed s).Good bb pp qq := by
  unfold State.breakArmed
  try dsimp only
  repeat' (first
    | with_reducible assumption
    | with_reducible apply good_retractHigh)

theorem good_markBlank {bb : Prop} {pp : Part} {qq : List Instr} (s : State) (h : ℕ) (l : ℕ) (n : ℕ) (h_s : s.Good bb pp qq) :
    (State.markBlank s h l n).Good bb pp qq := by
  unfold State.markBlank
  try dsimp only
  repeat' (first
    | with_reducible assumption
    | with_reducible apply good_updRib
    | with_reducible refine good_foldl _ _ ?_ ?_
    | with_reducible refine good_foldr _ _ ?_ ?_
    | simp only [good_mk]
    | simp only [good_mk_gbk]
    | split)

theorem good_reject {bb : Prop} {pp : Part} {qq : List Instr} (s : State) (i : Fin 4) (code : ℕ) (head : ℕ) (h_s : s.Good bb pp qq) :
    (State.reject s i code head).Good bb pp qq := by
  unfold State.reject
  try dsimp only
  repeat' (first
    | with_reducible assumption
    | with_reducible apply good_raise
    | with_reducible apply good_incSat
    | with_reducible apply good_wr)

theorem good_loopOut {bb : Prop} {pp : Part} {qq : List Instr} (s : State) (i : Fin 4) (t : Tile) (code : ℕ) (h_s : s.Good bb pp qq) :
    (State.loopOut s i t code).Good bb pp qq := by
  unfold State.loopOut
  try dsimp only
  repeat' (first
    | with_reducible assumption
    | with_reducible apply good_updStm
    | with_reducible apply good_showQueue
    | with_reducible apply good_updIng
    | with_reducible refine good_foldl _ _ ?_ ?_
    | with_reducible refine good_foldr _ _ ?_ ?_
    | simp only [good_mk]
    | simp only [good_mk_gbk]
    | split)

theorem good_rejectTile {bb : Prop} {pp : Part} {qq : List Instr} (s : State) (id : ℕ) (code : ℕ) (h_s : s.Good bb pp qq) :
    (State.rejectTile s id code).Good bb pp qq := by
  unfold State.rejectTile
  try dsimp only
  repeat' (first
    | with_reducible assumption
    | with_reducible apply good_reject
    | with_reducible apply good_loopOut
    | with_reducible apply good_freeTile
    | with_reducible refine good_foldl _ _ ?_ ?_
    | with_reducible refine good_foldr _ _ ?_ ?_
    | simp only [good_mk]
    | simp only [good_mk_gbk]
    | split)

theorem good_stopTile {bb : Prop} {pp : Part} {qq : List Instr} (s : State) (k : ℕ) (t : Tile) (code : ℕ) (h_s : s.Good bb pp qq) :
    (State.stopTile s k t code).Good bb pp qq := by
  unfold State.stopTile
  try dsimp only
  repeat' (first
    | with_reducible assumption
    | with_reducible apply good_markBlank
    | with_reducible apply good_kioskFree
    | with_reducible apply good_rejectTile
    | with_reducible refine good_foldl _ _ ?_ ?_
    | with_reducible refine good_foldr _ _ ?_ ?_
    | simp only [good_mk]
    | simp only [good_mk_gbk]
    | split
    | intro _)

theorem good_breakTile {bb : Prop} {pp : Part} {qq : List Instr} (s : State) (k : ℕ) (t : Tile) (h_s : s.Good bb pp qq) :
    (State.breakTile s k t).Good bb pp qq := by
  unfold State.breakTile
  try dsimp only
  repeat' (first
    | with_reducible assumption
    | with_reducible apply good_stopTile
    | with_reducible apply good_countCycles)

theorem good_busDead {bb : Prop} {pp : Part} {qq : List Instr} (s : State) (m : ℕ) (h_s : s.Good bb pp qq) :
    (State.busDead s m).Good bb pp qq := by
  unfold State.busDead
  try dsimp only
  repeat' (first
    | with_reducible assumption
    | with_reducible apply good_raiseD
    | with_reducible apply good_wr)

theorem good_encAbandon {bb : Prop} {pp : Part} {qq : List Instr} (s : State) (n : Fin 3) (h_s : s.Good bb pp qq) :
    (State.encAbandon s n).Good bb pp qq := by
  unfold State.encAbandon
  try dsimp only
  repeat' (first
    | with_reducible assumption
    | with_reducible apply good_setBusy
    | with_reducible apply good_wr
    | with_reducible apply good_setState
    | with_reducible refine good_foldl _ _ ?_ ?_
    | with_reducible refine good_foldr _ _ ?_ ?_
    | simp only [good_mk]
    | simp only [good_mk_gbk]
    | split)

theorem good_calWatch {bb : Prop} {pp : Part} {qq : List Instr} (s : State) (n : Fin 3) (h_s : s.Good bb pp qq) :
    (State.calWatch s n).Good bb pp qq := by
  unfold State.calWatch
  try dsimp only
  repeat' (first
    | with_reducible assumption
    | with_reducible apply good_encAbandon
    | with_reducible refine good_foldl _ _ ?_ ?_
    | with_reducible refine good_foldr _ _ ?_ ?_
    | simp only [good_mk]
    | simp only [good_mk_gbk]
    | split)

theorem good_setCamBank {bb : Prop} {pp : Part} {qq : List Instr} (s : State) (k : ℕ) (code : ℕ) (h_s : s.Good bb pp qq) :
    (State.setCamBank s k code).Good bb pp qq := by
  unfold State.setCamBank
  try dsimp only
  repeat' (first
    | with_reducible assumption
    | with_reducible apply good_wr)

theorem good_camWindow {bb : Prop} {pp : Part} {qq : List Instr} (s : State) (r : Req) (k : ℕ) (write : Option Word) (h_s : s.Good bb pp qq) :
    (State.camWindow s r k write).Good bb pp qq := by
  unfold State.camWindow
  try dsimp only
  repeat' (first
    | with_reducible assumption
    | with_reducible apply good_emit
    | with_reducible apply good_dropWrite
    | with_reducible apply good_store
    | with_reducible apply good_setCamBank
    | with_reducible apply good_wr
    | with_reducible refine good_foldl _ _ ?_ ?_
    | with_reducible refine good_foldr _ _ ?_ ?_
    | simp only [good_mk]
    | simp only [good_mk_gbk]
    | split)

theorem good_camAccess {bb : Prop} {pp : Part} {qq : List Instr} (s : State) (r : Req) (k : ℕ) (write : Option Word) (h_s : s.Good bb pp qq) :
    (State.camAccess s r k write).Good bb pp qq := by
  unfold State.camAccess
  try dsimp only
  repeat' (first
    | with_reducible assumption
    | with_reducible apply good_updCam
    | with_reducible apply good_camWindow
    | with_reducible refine good_foldl _ _ ?_ ?_
    | with_reducible refine good_foldr _ _ ?_ ?_
    | simp only [good_mk]
    | simp only [good_mk_gbk]
    | split)

theorem good_camPush {bb : Prop} {pp : Part} {qq : List Instr} (s : State) (k : ℕ) (l : CamLine) (h_s : s.Good bb pp qq) :
    (State.camPush s k l).Good bb pp qq := by
  unfold State.camPush
  try dsimp only
  repeat' (first
    | with_reducible assumption
    | with_reducible apply good_updCam
    | with_reducible apply good_wr)

theorem good_camPad {bb : Prop} {pp : Part} {qq : List Instr} (s : State) (k : ℕ) (frame : ℕ) (t : CamTrig) (more : ℕ) (h_s : s.Good bb pp qq) :
    (State.camPad s k frame t more).Good bb pp qq := by
  unfold State.camPad
  try dsimp only
  repeat' (first
    | with_reducible assumption
    | with_reducible apply good_camPush
    | with_reducible refine good_foldl _ _ ?_ ?_
    | with_reducible refine good_foldr _ _ ?_ ?_
    | simp only [good_mk]
    | simp only [good_mk_gbk]
    | split)

theorem good_updFrame {bb : Prop} {pp : Part} {qq : List Instr} (s : State) (k : ℕ) (num : ℕ) (g : CamFrame → CamFrame) (h_s : s.Good bb pp qq) :
    (State.updFrame s k num g).Good bb pp qq := by
  unfold State.updFrame
  try dsimp only
  repeat' (first
    | with_reducible assumption
    | with_reducible apply good_updCam)

theorem good_camLineEnd {bb : Prop} {pp : Part} {qq : List Instr} (s : State) (k : ℕ) (raw : List ℕ) (overflow : Bool) (bad : List ℕ) (h_s : s.Good bb pp qq) :
    (State.camLineEnd s k raw overflow bad).Good bb pp qq := by
  unfold State.camLineEnd
  try dsimp only
  repeat' (first
    | with_reducible assumption
    | with_reducible apply good_updCam
    | with_reducible apply good_camPad
    | with_reducible apply good_updFrame
    | with_reducible apply good_incSat
    | with_reducible apply good_raise
    | with_reducible apply good_camPush
    | with_reducible refine good_foldl _ _ ?_ ?_
    | with_reducible refine good_foldr _ _ ?_ ?_
    | simp only [good_mk]
    | simp only [good_mk_gbk]
    | split)

theorem good_camArrive {bb : Prop} {pp : Part} {qq : List Instr} (s : State) (k : ℕ) (raw : List ℕ) (overflow : Bool) (bad : List ℕ) (h_s : s.Good bb pp qq) :
    (State.camArrive s k raw overflow bad).Good bb pp qq := by
  unfold State.camArrive
  try dsimp only
  repeat' (first
    | with_reducible assumption
    | with_reducible apply good_camLineEnd
    | with_reducible apply good_inject
    | with_reducible refine good_foldl _ _ ?_ ?_
    | with_reducible refine good_foldr _ _ ?_ ?_
    | simp only [good_mk]
    | simp only [good_mk_gbk]
    | split)

theorem good_camClose {bb : Prop} {pp : Part} {qq : List Instr} (s : State) (k : ℕ) (num : ℕ) (aborted : Bool) (h_s : s.Good bb pp qq) :
    (State.camClose s k num aborted).Good bb pp qq := by
  unfold State.camClose
  try dsimp only
  repeat' (first
    | with_reducible assumption
    | with_reducible apply good_incSat
    | with_reducible apply good_wr
    | with_reducible apply good_updCam
    | with_reducible apply good_add2
    | with_reducible apply good_raise
    | with_reducible refine good_foldl _ _ ?_ ?_
    | with_reducible refine good_foldr _ _ ?_ ?_
    | simp only [good_mk]
    | simp only [good_mk_gbk]
    | split)

theorem good_setHwm {bb : Prop} {pp : Part} {qq : List Instr} (s : State) (p : Pos) (h_s : s.Good bb pp qq) :
    (State.setHwm s p).Good bb pp qq := by
  unfold State.setHwm
  try dsimp only
  repeat' (first
    | with_reducible assumption
    | with_reducible apply good_wr2)

theorem good_setPos {bb : Prop} {pp : Part} {qq : List Instr} (s : State) (p : Pos) (h_s : s.Good bb pp qq) :
    (State.setPos s p).Good bb pp qq := by
  unfold State.setPos
  try dsimp only
  repeat' (first
    | with_reducible assumption
    | with_reducible apply good_wr2)

theorem good_marks {bb : Prop} {pp : Part} {qq : List Instr} (s : State) (g : Option Pos → Option Pos) (h_s : s.Good bb pp qq) :
    (State.marks s g).Good bb pp qq := by
  unfold State.marks
  try dsimp only
  repeat' (first
    | with_reducible assumption
    | with_reducible refine good_foldl _ _ ?_ ?_
    | with_reducible refine good_foldr _ _ ?_ ?_
    | simp only [good_mk])

theorem good_shiftPassed {bb : Prop} {pp : Part} {qq : List Instr} (s : State) (d : Pos) (h_s : s.Good bb pp qq) :
    (State.shiftPassed s d).Good bb pp qq := by
  unfold State.shiftPassed
  try dsimp only
  repeat' (first
    | with_reducible assumption
    | with_reducible apply good_marks
    | with_reducible refine good_foldl _ _ ?_ ?_
    | with_reducible refine good_foldr _ _ ?_ ?_
    | simp only [good_mk])

theorem good_keepDue {bb : Prop} {pp : Part} {qq : List Instr} (s : State) (f : Commit → Bool) (h_s : s.Good bb pp qq) :
    (State.keepDue s f).Good bb pp qq := by
  unfold State.keepDue
  try dsimp only
  repeat' (first
    | with_reducible assumption
    | with_reducible refine good_foldl _ _ ?_ ?_
    | with_reducible refine good_foldr _ _ ?_ ?_
    | simp only [good_mk])

theorem good_keepBefore {bb : Prop} {pp : Part} {qq : List Instr} (s : State) (h_s : s.Good bb pp qq) :
    (State.keepBefore s).Good bb pp qq := by
  unfold State.keepBefore
  try dsimp only
  repeat' (first
    | with_reducible assumption
    | with_reducible apply good_keepDue)

theorem good_refAdvance {bb : Prop} {pp : Part} {qq : List Instr} (s : State) (h_s : s.Good bb pp qq) :
    (State.refAdvance s).Good bb pp qq := by
  unfold State.refAdvance
  try dsimp only
  repeat' (first
    | with_reducible assumption
    | with_reducible refine good_foldl _ _ ?_ ?_
    | with_reducible refine good_foldr _ _ ?_ ?_
    | simp only [good_mk])

theorem good_checkBad {bb : Prop} {pp : Part} {qq : List Instr} (s : State) (n : Fin 3) (h_s : s.Good bb pp qq) :
    (State.checkBad s n).Good bb pp qq := by
  unfold State.checkBad
  try dsimp only
  repeat' (first
    | with_reducible assumption
    | with_reducible apply good_updSdl)

theorem good_checkShow {bb : Prop} {pp : Part} {qq : List Instr} (s : State) (h_s : s.Good bb pp qq) :
    (State.checkShow s).Good bb pp qq := by
  unfold State.checkShow
  try dsimp only
  repeat' (first
    | with_reducible assumption
    | with_reducible apply good_updSdl
    | with_reducible apply good_wrS
    | with_reducible apply good_checkBad
    | with_reducible apply good_raise
    | with_reducible refine good_foldl _ _ ?_ ?_
    | with_reducible refine good_foldr _ _ ?_ ?_
    | simp only [good_mk]
    | simp only [good_mk_gbk]
    | split)

theorem good_correct {bb : Prop} {pp : Part} {qq : List Instr} (s : State) (h_s : s.Good bb pp qq) :
    (State.correct s).Good bb pp qq := by
  unfold State.correct
  try dsimp only
  repeat' (first
    | with_reducible assumption
    | with_reducible apply good_setHwm
    | with_reducible apply good_setPos
    | with_reducible apply good_shiftPassed
    | with_reducible apply good_keepBefore
    | with_reducible apply good_refAdvance
    | with_reducible apply good_checkShow
    | with_reducible apply good_updSdl
    | with_reducible refine good_foldl _ _ ?_ ?_
    | with_reducible refine good_foldr _ _ ?_ ?_
    | simp only [good_mk]
    | simp only [good_mk_gbk]
    | split)

theorem good_encSelfCommit {bb : Prop} {pp : Part} {qq : List Instr} (s : State) (n : Fin 3) (ofs : Word) (gain : Word) (phi : BitVec 16) (h_s : s.Good bb pp qq) :
    (State.encSelfCommit s n ofs gain phi).Good bb pp qq := by
  unfold State.encSelfCommit
  try dsimp only
  repeat' (first
    | with_reducible assumption
    | with_reducible apply good_wr
    | with_reducible apply good_setWord
    | with_reducible apply good_armCommit
    | with_reducible refine good_foldl _ _ ?_ ?_
    | with_reducible refine good_foldr _ _ ?_ ?_
    | simp only [good_mk])

theorem good_encAfter {bb : Prop} {pp : Part} {qq : List Instr} (s : State) (page : ℕ) (own : Bool) (tookEffect : Bool) (h_s : s.Good bb pp qq) :
    (State.encAfter s page own tookEffect).Good bb pp qq := by
  unfold State.encAfter
  try dsimp only
  repeat' (first
    | with_reducible assumption
    | with_reducible apply good_encAbandon
    | with_reducible apply good_encSelfCommit
    | with_reducible refine good_foldl _ _ ?_ ?_
    | with_reducible refine good_foldr _ _ ?_ ?_
    | simp only [good_mk]
    | simp only [good_mk_gbk]
    | split)

theorem good_selfAfter {bb : Prop} {pp : Part} {qq : List Instr} (s : State) (page : ℕ) (own : Bool) (h_s : s.Good bb pp qq) :
    (State.selfAfter s page own).Good bb pp qq := by
  unfold State.selfAfter
  try dsimp only
  repeat' (first
    | with_reducible assumption
    | with_reducible apply good_alignAfter
    | with_reducible apply good_encAfter)

theorem good_dropCommit {bb : Prop} {pp : Part} {qq : List Instr} (s : State) (page : ℕ) (err : ℕ) (pair : ℕ) (h_s : s.Good bb pp qq) :
    (State.dropCommit s page err pair).Good bb pp qq := by
  unfold State.dropCommit
  try dsimp only
  repeat' (first
    | with_reducible assumption
    | with_reducible apply good_selfAfter
    | with_reducible apply good_rejectCommit
    | with_reducible refine good_foldl _ _ ?_ ?_
    | with_reducible refine good_foldr _ _ ?_ ?_
    | simp only [good_mk]
    | simp only [good_mk_gbk]
    | split)

theorem good_copyMem {bb : Prop} {pp : Part} {qq : List Instr} (s : State) (src dst n : Nat) (h_s : s.Good bb pp qq) :
    (State.copyMem s src dst n).Good bb pp qq :=
  ⟨h_s.1, h_s.2.1, fun hb => ⟨Tbl.canonical_moved (h_s.2.2 hb).mem src dst n, (h_s.2.2 hb).flash,
    (h_s.2.2 hb).queue⟩⟩

theorem good_camSync {bb : Prop} {pp : Part} {qq : List Instr} (s : State) (k : ℕ) (h_s : s.Good bb pp qq) :
    (State.camSync s k).Good bb pp qq := by
  unfold State.camSync
  try dsimp only
  repeat' (first
    | with_reducible assumption
    | with_reducible apply good_setCamBank
    | with_reducible apply good_copyMem)

theorem good_camSwap {bb : Prop} {pp : Part} {qq : List Instr} (s : State) (k : ℕ) (h_s : s.Good bb pp qq) :
    (State.camSwap s k).Good bb pp qq := by
  unfold State.camSwap
  try dsimp only
  repeat' (first
    | with_reducible assumption
    | with_reducible apply good_setCamBank
    | with_reducible apply good_updCam
    | with_reducible apply good_camSync
    | with_reducible refine good_foldl _ _ ?_ ?_
    | with_reducible refine good_foldr _ _ ?_ ?_
    | simp only [good_mk]
    | simp only [good_mk_gbk]
    | split)

theorem good_camCommit {bb : Prop} {pp : Part} {qq : List Instr} (s0 : State) (k : ℕ) (h_s0 : s0.Good bb pp qq) :
    (State.camCommit s0 k).Good bb pp qq := by
  unfold State.camCommit
  try dsimp only
  repeat' (first
    | with_reducible assumption
    | with_reducible apply good_correct
    | with_reducible apply good_dropCommit
    | with_reducible apply good_camSwap
    | with_reducible apply good_applyShadow
    | with_reducible refine good_foldl _ _ ?_ ?_
    | with_reducible refine good_foldr _ _ ?_ ?_
    | simp only [good_mk]
    | simp only [good_mk_gbk]
    | split)

theorem good_camCopied {bb : Prop} {pp : Part} {qq : List Instr} (s : State) (k : ℕ) (h_s : s.Good bb pp qq) :
    (State.camCopied s k).Good bb pp qq := by
  unfold State.camCopied
  try dsimp only
  repeat' (first
    | with_reducible assumption
    | with_reducible apply good_camSync
    | with_reducible apply good_camSwap
    | with_reducible apply good_updCam
    | with_reducible refine good_foldl _ _ ?_ ?_
    | with_reducible refine good_foldr _ _ ?_ ?_
    | simp only [good_mk]
    | simp only [good_mk_gbk]
    | split)

theorem good_portWrite {bb : Prop} {pp : Part} {qq : List Instr} (s : State) (port : ℕ) (a : ℕ) (bs : List Byte) (tags : List Bool) (h_s : s.Good bb pp qq) :
    (State.portWrite s port a bs tags).Good bb pp qq := by
  unfold State.portWrite
  try dsimp only
  repeat' (first
    | with_reducible assumption
    | with_reducible apply good_dramWrite
    | with_reducible apply good_arrive)

end Sys2Proof.Machine
end

