-- ==== Sys2Proof/Laws/Keep3.lean ====
section
/-! SUPPORT. Part 3 of 8: every operation and every meaning keeps the part, the queue and
the canonical forms (`State.Good`), one lemma per definition, in the order of the definitions. -/

namespace Sys2Proof.Machine

theorem good_writeMem {bb : Prop} {pp : Part} {qq : List Instr} (s : State) (port : ℕ) (a : ℕ) (bs : List Byte) (h_s : s.Good bb pp qq) :
    (State.writeMem s port a bs).Good bb pp qq := by
  unfold State.writeMem
  try dsimp only
  repeat' (first
    | with_reducible assumption
    | with_reducible apply good_portWrite
    | with_reducible apply good_store
    | with_reducible refine good_foldl _ _ ?_ ?_
    | with_reducible refine good_foldr _ _ ?_ ?_
    | simp only [good_mk]
    | simp only [good_mk_gbk]
    | split)

theorem good_camDeliver {bb : Prop} {pp : Part} {qq : List Instr} (s : State) (k : ℕ) (f : CamFrame) (l : CamLine) (bad : List ℕ) (h_s : s.Good bb pp qq) :
    (State.camDeliver s k f l bad).1.Good bb pp qq := by
  unfold State.camDeliver
  try dsimp only
  repeat' (first
    | with_reducible assumption
    | with_reducible apply good_wr
    | with_reducible apply good_writeMem
    | with_reducible apply good_updFrame
    | with_reducible apply good_updCam
    | with_reducible apply good_add2
    | with_reducible refine good_foldl _ _ ?_ ?_
    | with_reducible refine good_foldr _ _ ?_ ?_
    | simp only [good_mk]
    | simp only [good_mk_gbk]
    | split)

theorem good_camDeliver_eq {bb : Prop} {pp : Part} {qq : List Instr} {s : State} {k : ℕ} {f : CamFrame} {l : CamLine} {bad : List ℕ} {tOut : State} {zOut : _}
    (h_s : s.Good bb pp qq) (e : State.camDeliver s k f l bad = (tOut, zOut)) : tOut.Good bb pp qq := by
  have := good_camDeliver s k f l bad h_s; rw [e] at this; exact this

theorem good_showQueues {bb : Prop} {pp : Part} {qq : List Instr} (s : State) (h_s : s.Good bb pp qq) :
    (State.showQueues s).Good bb pp qq := by
  unfold State.showQueues
  try dsimp only
  repeat' (first
    | with_reducible assumption
    | with_reducible apply good_wr)

theorem good_toHost {bb : Prop} {pp : Part} {qq : List Instr} (s : State) (p : Proposal) (h_s : s.Good bb pp qq) :
    (State.toHost s p).1.Good bb pp qq := by
  unfold State.toHost
  try dsimp only
  repeat' (first
    | with_reducible assumption
    | with_reducible apply good_showQueues
    | with_reducible apply good_updQlp
    | with_reducible apply good_incSat
    | with_reducible refine good_foldl _ _ ?_ ?_
    | with_reducible refine good_foldr _ _ ?_ ?_
    | simp only [good_mk]
    | simp only [good_mk_gbk]
    | split)

theorem good_toHost_eq {bb : Prop} {pp : Part} {qq : List Instr} {s : State} {p : Proposal} {tOut : State} {zOut : _}
    (h_s : s.Good bb pp qq) (e : State.toHost s p = (tOut, zOut)) : tOut.Good bb pp qq := by
  have := good_toHost s p h_s; rw [e] at this; exact this

theorem good_propose {bb : Prop} {pp : Part} {qq : List Instr} (s : State) (p : Proposal) (h_s : s.Good bb pp qq) :
    (State.propose s p).Good bb pp qq := by
  unfold State.propose
  try dsimp only
  repeat' (first
    | with_reducible assumption
    | with_reducible apply good_showQueues
    | with_reducible apply good_updQlp
    | with_reducible apply good_toHost
    | with_reducible apply good_raise
    | with_reducible exact good_toHost_eq (by assumption) (by assumption)
    | with_reducible refine good_foldl _ _ ?_ ?_
    | with_reducible refine good_foldr _ _ ?_ ?_
    | simp only [good_mk]
    | simp only [good_mk_gbk]
    | split)

theorem good_judgeNozzle {bb : Prop} {pp : Part} {qq : List Instr} (s : State) (k : ℕ) (all : List QAcc) (a : QAcc) (h_s : s.Good bb pp qq) :
    (State.judgeNozzle s k all a).Good bb pp qq := by
  unfold State.judgeNozzle
  try dsimp only
  repeat' (first
    | with_reducible assumption
    | with_reducible apply good_updQlp
    | with_reducible apply good_propose
    | with_reducible refine good_foldl _ _ ?_ ?_
    | with_reducible refine good_foldr _ _ ?_ ?_
    | split)

theorem good_qlpJudge {bb : Prop} {pp : Part} {qq : List Instr} (s : State) (k : ℕ) (aborted : Bool) (h_s : s.Good bb pp qq) :
    (State.qlpJudge s k aborted).Good bb pp qq := by
  unfold State.qlpJudge
  try dsimp only
  repeat' (first
    | with_reducible assumption
    | with_reducible apply good_updQlp
    | with_reducible apply good_judgeNozzle
    | with_reducible refine good_foldl _ _ ?_ ?_
    | with_reducible refine good_foldr _ _ ?_ ?_
    | simp only [good_mk]
    | simp only [good_mk_gbk]
    | split
    | intro _)

theorem good_camDisable {bb : Prop} {pp : Part} {qq : List Instr} (s : State) (k : ℕ) (h_s : s.Good bb pp qq) :
    (State.camDisable s k).Good bb pp qq := by
  unfold State.camDisable
  try dsimp only
  repeat' (first
    | with_reducible assumption
    | with_reducible apply good_updCam
    | with_reducible apply good_qlpJudge
    | with_reducible apply good_camClose
    | with_reducible apply good_revote
    | with_reducible apply good_setState
    | with_reducible apply good_wr
    | with_reducible refine good_foldl _ _ ?_ ?_
    | with_reducible refine good_foldr _ _ ?_ ?_
    | simp only [good_mk]
    | simp only [good_mk_gbk]
    | split
    | intro _)

theorem good_camEnable {bb : Prop} {pp : Part} {qq : List Instr} (s : State) (k : ℕ) (h_s : s.Good bb pp qq) :
    (State.camEnable s k).Good bb pp qq := by
  unfold State.camEnable
  try dsimp only
  repeat' (first
    | with_reducible assumption
    | with_reducible apply good_revote
    | with_reducible apply good_wr
    | with_reducible apply good_setState
    | with_reducible apply good_updCam
    | with_reducible refine good_foldl _ _ ?_ ?_
    | with_reducible refine good_foldr _ _ ?_ ?_
    | simp only [good_mk]
    | simp only [good_mk_gbk]
    | split
    | intro _)

theorem good_qlpCamLine {bb : Prop} {pp : Part} {qq : List Instr} (s : State) (k : ℕ) (l : QCamLine) (h_s : s.Good bb pp qq) :
    (State.qlpCamLine s k l).Good bb pp qq := by
  unfold State.qlpCamLine
  try dsimp only
  repeat' (first
    | with_reducible assumption
    | with_reducible apply good_updQlp
    | with_reducible refine good_foldl _ _ ?_ ?_
    | with_reducible refine good_foldr _ _ ?_ ?_
    | simp only [good_mk]
    | simp only [good_mk_gbk]
    | split)

theorem good_camToLoop {bb : Prop} {pp : Part} {qq : List Instr} (s : State) (k : ℕ) (pos : Pos) (o : LineOut) (h_s : s.Good bb pp qq) :
    (State.camToLoop s k pos o).Good bb pp qq := by
  unfold State.camToLoop
  try dsimp only
  repeat' (first
    | with_reducible assumption
    | with_reducible apply good_qlpCamLine)

theorem good_camFramePad {bb : Prop} {pp : Part} {qq : List Instr} (k num n : Nat) : ∀ s : State, s.Good bb pp qq →
    (State.camFramePad s k num n).Good bb pp qq := by
  induction n with
  | zero => intro s h; exact h
  | succ n ih =>
    intro s h
    unfold State.camFramePad
    split
    · exact h
    · exact ih _ (good_camToLoop _ _ _ _ (good_camDeliver _ _ _ _ _ h))

theorem good_camFinish {bb : Prop} {pp : Part} {qq : List Instr} (s : State) (k : ℕ) (num : ℕ) (h_s : s.Good bb pp qq) :
    (State.camFinish s k num).Good bb pp qq := by
  unfold State.camFinish
  try dsimp only
  repeat' (first
    | with_reducible assumption
    | with_reducible apply good_updFrame
    | with_reducible apply good_qlpJudge
    | with_reducible apply good_camClose
    | with_reducible apply good_camFramePad
    | with_reducible refine good_foldl _ _ ?_ ?_
    | with_reducible refine good_foldr _ _ ?_ ?_
    | simp only [good_mk]
    | simp only [good_mk_gbk]
    | split)

theorem good_camEndFrame {bb : Prop} {pp : Part} {qq : List Instr} (s : State) (k : ℕ) (h_s : s.Good bb pp qq) :
    (State.camEndFrame s k).Good bb pp qq := by
  unfold State.camEndFrame
  try dsimp only
  repeat' (first
    | with_reducible assumption
    | with_reducible apply good_camFinish
    | with_reducible apply good_updFrame
    | with_reducible refine good_foldl _ _ ?_ ?_
    | with_reducible refine good_foldr _ _ ?_ ?_
    | simp only [good_mk]
    | simp only [good_mk_gbk]
    | split)

theorem good_camFault {bb : Prop} {pp : Part} {qq : List Instr} (s : State) (k : ℕ) (cause : ℕ) (h_s : s.Good bb pp qq) :
    (State.camFault s k cause).Good bb pp qq := by
  unfold State.camFault
  try dsimp only
  repeat' (first
    | with_reducible assumption
    | with_reducible apply good_updFrame
    | with_reducible refine good_foldl _ _ ?_ ?_
    | with_reducible refine good_foldr _ _ ?_ ?_
    | simp only [good_mk]
    | simp only [good_mk_gbk]
    | split)

theorem good_camStart {bb : Prop} {pp : Part} {qq : List Instr} (s0 : State) (k : ℕ) (h_s0 : s0.Good bb pp qq) :
    (State.camStart s0 k).Good bb pp qq := by
  unfold State.camStart
  try dsimp only
  repeat' (first
    | with_reducible assumption
    | with_reducible apply good_camCommit
    | with_reducible apply good_updCam
    | with_reducible apply good_wr
    | with_reducible apply good_setState)

theorem good_camJoin {bb : Prop} {pp : Part} {qq : List Instr} (s : State) (k : ℕ) (h_s : s.Good bb pp qq) :
    (State.camJoin s k).1.Good bb pp qq := by
  unfold State.camJoin
  try dsimp only
  repeat' (first
    | with_reducible assumption
    | with_reducible apply good_camStart
    | with_reducible apply good_updFrame
    | with_reducible refine good_foldl _ _ ?_ ?_
    | with_reducible refine good_foldr _ _ ?_ ?_
    | split)

theorem good_camJoin_eq {bb : Prop} {pp : Part} {qq : List Instr} {s : State} {k : ℕ} {tOut : State} {zOut : _}
    (h_s : s.Good bb pp qq) (e : State.camJoin s k = (tOut, zOut)) : tOut.Good bb pp qq := by
  have := good_camJoin s k h_s; rw [e] at this; exact this

theorem good_camMiss {bb : Prop} {pp : Part} {qq : List Instr} (s : State) (k : ℕ) (t : CamTrig) (h_s : s.Good bb pp qq) :
    (State.camMiss s k t).Good bb pp qq := by
  unfold State.camMiss
  try dsimp only
  repeat' (first
    | with_reducible assumption
    | with_reducible apply good_incSat
    | with_reducible apply good_camFault
    | with_reducible apply good_camJoin
    | with_reducible apply good_camPad
    | with_reducible apply good_updFrame
    | with_reducible exact good_camJoin_eq (by assumption) (by assumption)
    | with_reducible refine good_foldl _ _ ?_ ?_
    | with_reducible refine good_foldr _ _ ?_ ?_
    | simp only [good_mk]
    | simp only [good_mk_gbk]
    | split)

theorem good_camExpire {bb : Prop} {pp : Part} {qq : List Instr} (s : State) (k : ℕ) (h_s : s.Good bb pp qq) :
    (State.camExpire s k).Good bb pp qq := by
  unfold State.camExpire
  try dsimp only
  repeat' (first
    | with_reducible assumption
    | with_reducible apply good_updCam
    | with_reducible apply good_camMiss
    | with_reducible refine good_foldl _ _ ?_ ?_
    | with_reducible refine good_foldr _ _ ?_ ?_
    | simp only [good_mk]
    | simp only [good_mk_gbk]
    | split
    | intro _)

theorem good_camStore {bb : Prop} {pp : Part} {qq : List Instr} (s : State) (r : Req) (k : ℕ) (ofs : ℕ) (bs : List Byte) (bad : Bool) (h_s : s.Good bb pp qq) :
    (State.camStore s r k ofs bs bad).Good bb pp qq := by
  unfold State.camStore
  try dsimp only
  repeat' (first
    | with_reducible assumption
    | with_reducible apply good_dropWrite
    | with_reducible apply good_updCam
    | with_reducible apply good_setCamBank
    | with_reducible apply good_store
    | with_reducible refine good_foldl _ _ ?_ ?_
    | with_reducible refine good_foldr _ _ ?_ ?_
    | simp only [good_mk]
    | simp only [good_mk_gbk]
    | split)

theorem good_newlyPending {bb : Prop} {pp : Part} {qq : List Instr} (s : State) (page : ℕ) (old : Word) (h_s : s.Good bb pp qq) :
    (State.newlyPending s page old).Good bb pp qq := by
  unfold State.newlyPending
  try dsimp only
  repeat' (first
    | with_reducible assumption
    | with_reducible apply good_eventDue
    | with_reducible refine good_foldl _ _ ?_ ?_
    | with_reducible refine good_foldr _ _ ?_ ?_
    | simp only [good_mk]
    | simp only [good_mk_gbk]
    | split
    | intro _)

theorem good_failFlights {bb : Prop} {pp : Part} {qq : List Instr} (s : State) (h : ℕ) (all : Bool) (h_s : s.Good bb pp qq) :
    (State.failFlights s h all).Good bb pp qq := by
  unfold State.failFlights
  try dsimp only
  repeat' (first
    | with_reducible assumption
    | with_reducible apply good_updOnk)

theorem good_sendCommit {bb : Prop} {pp : Part} {qq : List Instr} (s : State) (h : ℕ) (table : ℕ) (h_s : s.Good bb pp qq) :
    (State.sendCommit s h table).Good bb pp qq := by
  unfold State.sendCommit
  try dsimp only
  repeat' (first
    | with_reducible assumption
    | with_reducible apply good_updOnk
    | with_reducible apply good_sendBlock)

theorem good_sendTable {bb : Prop} {pp : Part} {qq : List Instr} (s : State) (h : ℕ) (table : ℕ) (h_s : s.Good bb pp qq) :
    (State.sendTable s h table).Good bb pp qq := by
  unfold State.sendTable
  try dsimp only
  repeat' (first
    | with_reducible assumption
    | with_reducible apply good_sendBlock
    | with_reducible refine good_foldl _ _ ?_ ?_
    | with_reducible refine good_foldr _ _ ?_ ?_
    | simp only [good_mk]
    | simp only [good_mk_gbk]
    | split
    | intro _)

theorem good_sendOwed {bb : Prop} {pp : Part} {qq : List Instr} (s : State) (h : ℕ) (h_s : s.Good bb pp qq) :
    (State.sendOwed s h).Good bb pp qq := by
  unfold State.sendOwed
  try dsimp only
  repeat' (first
    | with_reducible assumption
    | with_reducible apply good_sendCommit
    | with_reducible apply good_sendTable
    | with_reducible refine good_foldl _ _ ?_ ?_
    | with_reducible refine good_foldr _ _ ?_ ?_
    | simp only [good_mk]
    | simp only [good_mk_gbk]
    | split)

theorem good_onkCfgWritten {bb : Prop} {pp : Part} {qq : List Instr} (s : State) (h : ℕ) (old : Word) (h_s : s.Good bb pp qq) :
    (State.onkCfgWritten s h old).Good bb pp qq := by
  unfold State.onkCfgWritten
  try dsimp only
  repeat' (first
    | with_reducible assumption
    | with_reducible apply good_updOnk
    | with_reducible apply good_failFlights
    | with_reducible apply good_txLaneDown
    | with_reducible apply good_sendOwed
    | with_reducible refine good_foldl _ _ ?_ ?_
    | with_reducible refine good_foldr _ _ ?_ ?_
    | simp only [good_mk]
    | simp only [good_mk_gbk]
    | split)

theorem good_gbkCheck {bb : Prop} {pp : Part} {qq : List Instr} (s : State) (h_s : s.Good bb pp qq) :
    (State.gbkCheck s).Good bb pp qq := by
  unfold State.gbkCheck
  try dsimp only
  repeat' (first
    | with_reducible assumption
    | with_reducible apply good_raise
    | with_reducible refine good_foldl _ _ ?_ ?_
    | with_reducible refine good_foldr _ _ ?_ ?_
    | simp only [good_mk]
    | simp only [good_mk_gbk]
    | split)

theorem good_qlpToApproval {bb : Prop} {pp : Part} {qq : List Instr} (s : State) (h_s : s.Good bb pp qq) :
    (State.qlpToApproval s).Good bb pp qq := by
  unfold State.qlpToApproval
  dsimp only
  have h := good_foldl_fst (fun (x : State × Bool) (p : Proposal) =>
    ((x.1.toHost p).1, x.2 || (x.1.toHost p).2)) s.qlp.auto
    (x := ((s.updQlp (fun q => { q with auto := [] })).showQueues, false))
    (good_showQueues _ (good_updQlp _ _ h_s)) (fun x p hx => good_toHost x.1 p hx)
  split
  · exact good_raise _ _ _ h
  · exact h

theorem good_stopPll {bb : Prop} {pp : Part} {qq : List Instr} (s : State) (n : ℕ) (h_s : s.Good bb pp qq) :
    (State.stopPll s n).Good bb pp qq := by
  unfold State.stopPll
  try dsimp only
  repeat' (first
    | with_reducible assumption
    | with_reducible apply good_wr
    | with_reducible apply good_setPll)

theorem good_laneClocks {bb : Prop} {pp : Part} {qq : List Instr} (s : State) (h_s : s.Good bb pp qq) :
    (State.laneClocks s).Good bb pp qq := by
  unfold State.laneClocks
  try dsimp only
  repeat' (first
    | with_reducible assumption
    | with_reducible apply good_startPll
    | with_reducible apply good_stopPll
    | with_reducible refine good_foldl _ _ ?_ ?_
    | with_reducible refine good_foldr _ _ ?_ ?_
    | simp only [good_mk]
    | simp only [good_mk_gbk]
    | split
    | intro _)

theorem good_linkFollow {bb : Prop} {pp : Part} {qq : List Instr} (s : State) (p : Fin 2) (h_s : s.Good bb pp qq) :
    (State.linkFollow s p).Good bb pp qq := by
  unfold State.linkFollow
  try dsimp only
  repeat' (first
    | with_reducible assumption
    | with_reducible apply good_updPort
    | with_reducible apply good_wrBit
    | with_reducible refine good_foldl _ _ ?_ ?_
    | with_reducible refine good_foldr _ _ ?_ ?_
    | simp only [good_mk]
    | simp only [good_mk_gbk]
    | split)

theorem good_updVni {bb : Prop} {pp : Part} {qq : List Instr} (s : State) (g : Vni → Vni) (h_s : s.Good bb pp qq) :
    (State.updVni s g).Good bb pp qq := by
  unfold State.updVni
  try dsimp only
  repeat' (first
    | with_reducible assumption
    | with_reducible refine good_foldl _ _ ?_ ?_
    | with_reducible refine good_foldr _ _ ?_ ?_
    | simp only [good_mk])

theorem good_vniRead {bb : Prop} {pp : Part} {qq : List Instr} (s : State) (h_s : s.Good bb pp qq) :
    (State.vniRead s).Good bb pp qq := by
  unfold State.vniRead
  try dsimp only
  repeat' (first
    | with_reducible assumption
    | with_reducible apply good_updVni)

theorem good_restartHoles {bb : Prop} {pp : Part} {qq : List Instr} (s : State) (h_s : s.Good bb pp qq) :
    (State.restartHoles s).Good bb pp qq := by
  unfold State.restartHoles
  try dsimp only
  repeat' (first
    | with_reducible assumption
    | with_reducible apply good_updStm
    | with_reducible refine good_foldl _ _ ?_ ?_
    | with_reducible refine good_foldr _ _ ?_ ?_
    | simp only [good_mk]
    | simp only [good_mk_gbk]
    | split
    | intro _)

theorem good_takeOver {bb : Prop} {pp : Part} {qq : List Instr} (s : State) (p : Fin 2) (h_s : s.Good bb pp qq) :
    (State.takeOver s p).Good bb pp qq := by
  unfold State.takeOver
  try dsimp only
  repeat' (first
    | with_reducible assumption
    | with_reducible apply good_announce
    | with_reducible apply good_becomeActive
    | with_reducible apply good_restartHoles
    | with_reducible apply good_sendAck
    | with_reducible refine good_foldl _ _ ?_ ?_)

theorem good_endOverlap {bb : Prop} {pp : Part} {qq : List Instr} (s : State) (h_s : s.Good bb pp qq) :
    (State.endOverlap s).Good bb pp qq := by
  unfold State.endOverlap
  try dsimp only
  repeat' (first
    | with_reducible assumption
    | with_reducible apply good_wr
    | with_reducible apply good_setState
    | with_reducible refine good_foldl _ _ ?_ ?_
    | with_reducible refine good_foldr _ _ ?_ ?_
    | simp only [good_mk]
    | simp only [good_mk_gbk]
    | split)

theorem good_returnTo {bb : Prop} {pp : Part} {qq : List Instr} (s : State) (p : Fin 2) (h_s : s.Good bb pp qq) :
    (State.returnTo s p).Good bb pp qq := by
  unfold State.returnTo
  try dsimp only
  repeat' (first
    | with_reducible assumption
    | with_reducible apply good_wr
    | with_reducible apply good_takeOver
    | with_reducible apply good_endOverlap
    | with_reducible refine good_foldl _ _ ?_ ?_
    | with_reducible refine good_foldr _ _ ?_ ?_
    | simp only [good_mk]
    | simp only [good_mk_gbk]
    | split)

theorem good_moveRole {bb : Prop} {pp : Part} {qq : List Instr} (s : State) (h_s : s.Good bb pp qq) :
    (State.moveRole s).Good bb pp qq := by
  unfold State.moveRole
  try dsimp only
  repeat' (first
    | with_reducible assumption
    | with_reducible apply good_returnTo
    | with_reducible refine good_foldl _ _ ?_ ?_
    | with_reducible refine good_foldr _ _ ?_ ?_
    | simp only [good_mk]
    | simp only [good_mk_gbk]
    | split)

theorem good_frameLeft {bb : Prop} {pp : Part} {qq : List Instr} (s : State) (all : Bool) (h_s : s.Good bb pp qq) :
    (State.frameLeft s all).Good bb pp qq := by
  unfold State.frameLeft
  try dsimp only
  repeat' (first
    | with_reducible assumption
    | with_reducible apply good_moveRole
    | with_reducible refine good_foldl _ _ ?_ ?_
    | with_reducible refine good_foldr _ _ ?_ ?_
    | simp only [good_mk]
    | simp only [good_mk_gbk]
    | split)

theorem good_swapFails {bb : Prop} {pp : Part} {qq : List Instr} (s : State) (h_s : s.Good bb pp qq) :
    (State.swapFails s).Good bb pp qq := by
  unfold State.swapFails
  try dsimp only
  repeat' (first
    | with_reducible assumption
    | with_reducible apply good_setFsh
    | with_reducible apply good_setState
    | with_reducible apply good_setBusy
    | with_reducible apply good_wr
    | with_reducible refine good_foldl _ _ ?_ ?_
    | with_reducible refine good_foldr _ _ ?_ ?_
    | simp only [good_mk]
    | simp only [good_mk_gbk]
    | split)

theorem good_wardenRestart {bb : Prop} {pp : Part} {qq : List Instr} (s : State) (h_s : s.Good bb pp qq) :
    (State.wardenRestart s).Good bb pp qq := by
  unfold State.wardenRestart
  try dsimp only
  repeat' (first
    | with_reducible assumption
    | with_reducible apply good_setWrd
    | with_reducible apply good_gkpRestart
    | with_reducible apply good_raise
    | with_reducible apply good_incSat
    | with_reducible apply good_wr)

theorem good_wardenHold {bb : Prop} {pp : Part} {qq : List Instr} (s : State) (h_s : s.Good bb pp qq) :
    (State.wardenHold s).Good bb pp qq := by
  unfold State.wardenHold
  try dsimp only
  repeat' (first
    | with_reducible assumption
    | with_reducible apply good_setWrd
    | with_reducible apply good_gkpReset
    | with_reducible apply good_raise
    | with_reducible apply good_wr)

theorem good_gkpFails {bb : Prop} {pp : Part} {qq : List Instr} (s : State) (cause : ℕ) (h_s : s.Good bb pp qq) :
    (State.gkpFails s cause).Good bb pp qq := by
  unfold State.gkpFails
  try dsimp only
  repeat' (first
    | with_reducible assumption
    | with_reducible apply good_wr
    | with_reducible apply good_raise
    | with_reducible apply good_swapFails
    | with_reducible apply good_wardenRestart
    | with_reducible apply good_wardenHold
    | with_reducible refine good_foldl _ _ ?_ ?_
    | with_reducible refine good_foldr _ _ ?_ ?_
    | simp only [good_mk]
    | simp only [good_mk_gbk]
    | split)

theorem good_swapKick {bb : Prop} {pp : Part} {qq : List Instr} (s : State) (h_s : s.Good bb pp qq) :
    (State.swapKick s).Good bb pp qq := by
  unfold State.swapKick
  try dsimp only
  repeat' (first
    | with_reducible assumption
    | with_reducible apply good_setWrd
    | with_reducible apply good_setFsh
    | with_reducible refine good_foldl _ _ ?_ ?_
    | with_reducible refine good_foldr _ _ ?_ ?_
    | simp only [good_mk]
    | simp only [good_mk_gbk]
    | split)

theorem good_kicked {bb : Prop} {pp : Part} {qq : List Instr} (s : State) (v : ℕ) (h_s : s.Good bb pp qq) :
    (State.kicked s v).Good bb pp qq := by
  unfold State.kicked
  try dsimp only
  repeat' (first
    | with_reducible assumption
    | with_reducible apply good_setWrd)

theorem good_judgeKick {bb : Prop} {pp : Part} {qq : List Instr} (s : State) (v : ℕ) (h_s : s.Good bb pp qq) :
    (State.judgeKick s v).Good bb pp qq := by
  unfold State.judgeKick
  try dsimp only
  repeat' (first
    | with_reducible assumption
    | with_reducible apply good_inject
    | with_reducible apply good_gkpFails
    | with_reducible apply good_swapKick
    | with_reducible apply good_kicked
    | with_reducible refine good_foldl _ _ ?_ ?_
    | with_reducible refine good_foldr _ _ ?_ ?_
    | simp only [good_mk]
    | simp only [good_mk_gbk]
    | split)

theorem good_written {bb : Prop} {pp : Part} {qq : List Instr} (s : State) (r : Req) (kd : Kind) (u : ℕ) (page : ℕ) (off : ℕ) (old : Word) (h_s : s.Good bb pp qq) :
    (State.written s r kd u page off old).Good bb pp qq := by
  unfold State.written
  try dsimp only
  repeat' (first
    | with_reducible assumption
    | with_reducible apply good_newlyPending
    | with_reducible apply good_onkCfgWritten
    | with_reducible apply good_gbkCheck
    | with_reducible apply good_qlpToApproval
    | with_reducible apply good_breakArmed
    | with_reducible apply good_wr
    | with_reducible apply good_laneClocks
    | with_reducible apply good_linkFollow
    | with_reducible apply good_vniRead
    | with_reducible apply good_frameLeft
    | with_reducible apply good_judgeKick
    | with_reducible apply good_setWord
    | with_reducible apply good_actSwap
    | with_reducible apply good_actFallback
    | with_reducible apply good_actCfgResult
    | with_reducible apply good_actTakenOver
    | with_reducible refine good_foldl _ _ ?_ ?_
    | with_reducible refine good_foldr _ _ ?_ ?_
    | simp only [good_mk]
    | simp only [good_mk_gbk]
    | split)

theorem good_fieldWrite {bb : Prop} {pp : Part} {qq : List Instr} (s : State) (r : Req) (kd : Kind) (u : ℕ) (page : ℕ) (off : ℕ) (v : Word) (h_s : s.Good bb pp qq) :
    (State.fieldWrite s r kd u page off v).Good bb pp qq := by
  unfold State.fieldWrite
  try dsimp only
  repeat' (first
    | with_reducible assumption
    | with_reducible apply good_dropWrite
    | with_reducible apply good_written
    | with_reducible apply good_setWord
    | with_reducible refine good_foldl _ _ ?_ ?_
    | with_reducible refine good_foldr _ _ ?_ ?_
    | simp only [good_mk]
    | simp only [good_mk_gbk]
    | split)

theorem good_updEnc {bb : Prop} {pp : Part} {qq : List Instr} (s : State) (n : Fin 3) (g : Enc → Enc) (h_s : s.Good bb pp qq) :
    (State.updEnc s n g).Good bb pp qq := by
  unfold State.updEnc
  try dsimp only
  repeat' (first
    | with_reducible assumption
    | with_reducible refine good_foldl _ _ ?_ ?_
    | with_reducible refine good_foldr _ _ ?_ ?_
    | simp only [good_mk])

theorem good_setCoast {bb : Prop} {pp : Part} {qq : List Instr} (s : State) (n : Fin 3) (on : Bool) (h_s : s.Good bb pp qq) :
    (State.setCoast s n on).Good bb pp qq := by
  unfold State.setCoast
  try dsimp only
  repeat' (first
    | with_reducible assumption
    | with_reducible apply good_wrBit)

theorem good_encOn {bb : Prop} {pp : Part} {qq : List Instr} (s : State) (n : Fin 3) (h_s : s.Good bb pp qq) :
    (State.encOn s n).Good bb pp qq := by
  unfold State.encOn
  try dsimp only
  repeat' (first
    | with_reducible assumption
    | with_reducible apply good_updEnc
    | with_reducible apply good_wr
    | with_reducible apply good_setCoast
    | with_reducible apply good_setState)

theorem good_keepReached {bb : Prop} {pp : Part} {qq : List Instr} (s : State) (h_s : s.Good bb pp qq) :
    (State.keepReached s).Good bb pp qq := by
  unfold State.keepReached
  try dsimp only
  repeat' (first
    | with_reducible assumption
    | with_reducible apply good_keepDue)

theorem good_remark {bb : Prop} {pp : Part} {qq : List Instr} (s : State) (h_s : s.Good bb pp qq) :
    (State.remark s).Good bb pp qq := by
  unfold State.remark
  try dsimp only
  repeat' (first
    | with_reducible assumption
    | with_reducible apply good_marks)

theorem good_checkAlign {bb : Prop} {pp : Part} {qq : List Instr} (s : State) (h_s : s.Good bb pp qq) :
    (State.checkAlign s).Good bb pp qq := by
  unfold State.checkAlign
  try dsimp only
  repeat' (first
    | with_reducible assumption
    | with_reducible apply good_updSdl
    | with_reducible apply good_wrS
    | with_reducible refine good_foldl _ _ ?_ ?_
    | with_reducible refine good_foldr _ _ ?_ ?_
    | simp only [good_mk]
    | simp only [good_mk_gbk]
    | split)

theorem good_showSpeed {bb : Prop} {pp : Part} {qq : List Instr} (s : State) (h_s : s.Good bb pp qq) :
    (State.showSpeed s).Good bb pp qq := by
  unfold State.showSpeed
  try dsimp only
  repeat' (first
    | with_reducible assumption
    | with_reducible apply good_wrS
    | with_reducible apply good_updSdl
    | with_reducible refine good_foldl _ _ ?_ ?_
    | with_reducible refine good_foldr _ _ ?_ ?_
    | simp only [good_mk]
    | simp only [good_mk_gbk]
    | split)

theorem good_halt {bb : Prop} {pp : Part} {qq : List Instr} (s : State) (h_s : s.Good bb pp qq) :
    (State.halt s).Good bb pp qq := by
  unfold State.halt
  try dsimp only
  repeat' (first
    | with_reducible assumption
    | with_reducible apply good_wr
    | with_reducible refine good_foldl _ _ ?_ ?_
    | with_reducible refine good_foldr _ _ ?_ ?_
    | simp only [good_mk]
    | simp only [good_mk_gbk]
    | split)

theorem good_sdlOnNow {bb : Prop} {pp : Part} {qq : List Instr} (s0 : State) (h_s0 : s0.Good bb pp qq) :
    (State.sdlOnNow s0).Good bb pp qq := by
  unfold State.sdlOnNow
  try dsimp only
  repeat' (first
    | with_reducible assumption
    | with_reducible apply good_revote
    | with_reducible apply good_keepReached
    | with_reducible apply good_wr
    | with_reducible apply good_updSdl
    | with_reducible apply good_remark
    | with_reducible apply good_setHwm
    | with_reducible apply good_setPos
    | with_reducible apply good_checkAlign
    | with_reducible apply good_showSpeed
    | with_reducible apply good_halt
    | with_reducible refine good_foldl _ _ ?_ ?_
    | with_reducible refine good_foldr _ _ ?_ ?_
    | simp only [good_mk]
    | simp only [good_mk_gbk]
    | split
    | intro _)

theorem good_onkOn {bb : Prop} {pp : Part} {qq : List Instr} (s : State) (h : ℕ) (h_s : s.Good bb pp qq) :
    (State.onkOn s h).Good bb pp qq := by
  unfold State.onkOn
  try dsimp only
  repeat' (first
    | with_reducible assumption
    | with_reducible apply good_updOnk
    | with_reducible apply good_wr
    | with_reducible apply good_laneClocks)

theorem good_qlpEnable {bb : Prop} {pp : Part} {qq : List Instr} (s : State) (h_s : s.Good bb pp qq) :
    (State.qlpEnable s).Good bb pp qq := by
  unfold State.qlpEnable
  try dsimp only
  repeat' (first
    | with_reducible assumption
    | with_reducible apply good_updQlp
    | with_reducible apply good_wr
    | with_reducible apply good_setState)

theorem good_closeRows {bb : Prop} {pp : Part} {qq : List Instr} (s : State) (c : Fin 2) (h_s : s.Good bb pp qq) :
    (State.closeRows s c).Good bb pp qq := by
  unfold State.closeRows
  try dsimp only
  repeat' (first
    | with_reducible assumption
    | with_reducible apply good_updChan)

theorem good_chanSwitch {bb : Prop} {pp : Part} {qq : List Instr} (s : State) (r : Req) (c : Fin 2) (v : Bool) (h_s : s.Good bb pp qq) :
    (State.chanSwitch s r c v).Good bb pp qq := by
  unfold State.chanSwitch
  try dsimp only
  repeat' (first
    | with_reducible assumption
    | with_reducible apply good_chanOn
    | with_reducible apply good_dropWrite
    | with_reducible apply good_closeRows
    | with_reducible apply good_setState
    | with_reducible apply good_wr
    | with_reducible refine good_foldl _ _ ?_ ?_
    | with_reducible refine good_foldr _ _ ?_ ?_
    | simp only [good_mk]
    | simp only [good_mk_gbk]
    | split)

theorem good_portOn {bb : Prop} {pp : Part} {qq : List Instr} (s : State) (p : Fin 2) (h_s : s.Good bb pp qq) :
    (State.portOn s p).Good bb pp qq := by
  unfold State.portOn
  try dsimp only
  repeat' (first
    | with_reducible assumption
    | with_reducible apply good_updPort
    | with_reducible apply good_wr
    | with_reducible apply good_laneClocks
    | with_reducible apply good_setState)

theorem good_updFnt {bb : Prop} {pp : Part} {qq : List Instr} (s : State) (g : Fnt → Fnt) (h_s : s.Good bb pp qq) :
    (State.updFnt s g).Good bb pp qq := by
  unfold State.updFnt
  try dsimp only
  repeat' (first
    | with_reducible assumption
    | with_reducible refine good_foldl _ _ ?_ ?_
    | with_reducible refine good_foldr _ _ ?_ ?_
    | simp only [good_mk])

theorem good_spPlan {bb : Prop} {pp : Part} {qq : List Instr} (s : State) (h_s : s.Good bb pp qq) :
    (State.spPlan s).Good bb pp qq := by
  unfold State.spPlan
  try dsimp only
  repeat' (first
    | with_reducible assumption
    | with_reducible apply good_updFnt)

theorem good_showFnt {bb : Prop} {pp : Part} {qq : List Instr} (s : State) (h_s : s.Good bb pp qq) :
    (State.showFnt s).Good bb pp qq := by
  unfold State.showFnt
  try dsimp only
  repeat' (first
    | with_reducible assumption
    | with_reducible apply good_wrS
    | with_reducible apply good_setState
    | with_reducible refine good_foldl _ _ ?_ ?_
    | with_reducible refine good_foldr _ _ ?_ ?_
    | simp only [good_mk]
    | simp only [good_mk_gbk]
    | split)

theorem good_fntStart {bb : Prop} {pp : Part} {qq : List Instr} (s : State) (h_s : s.Good bb pp qq) :
    (State.fntStart s).Good bb pp qq := by
  unfold State.fntStart
  try dsimp only
  repeat' (first
    | with_reducible assumption
    | with_reducible apply good_updFnt
    | with_reducible apply good_spPlan
    | with_reducible apply good_setState
    | with_reducible apply good_wr
    | with_reducible apply good_showFnt
    | with_reducible apply good_wrS)

theorem good_fntEnable {bb : Prop} {pp : Part} {qq : List Instr} (s : State) (h_s : s.Good bb pp qq) :
    (State.fntEnable s).Good bb pp qq := by
  unfold State.fntEnable
  try dsimp only
  repeat' (first
    | with_reducible assumption
    | with_reducible apply good_revote
    | with_reducible apply good_wr
    | with_reducible apply good_updFnt
    | with_reducible apply good_fntStart
    | with_reducible refine good_foldl _ _ ?_ ?_
    | with_reducible refine good_foldr _ _ ?_ ?_
    | simp only [good_mk]
    | simp only [good_mk_gbk]
    | split
    | intro _)

theorem good_enableOn {bb : Prop} {pp : Part} {qq : List Instr} (s : State) (r : Req) (kd : Kind) (u : ℕ) (page : ℕ) (h_s : s.Good bb pp qq) :
    (State.enableOn s r kd u page).Good bb pp qq := by
  unfold State.enableOn
  try dsimp only
  repeat' (first
    | with_reducible assumption
    | with_reducible apply good_wr
    | with_reducible apply good_atFin
    | with_reducible apply good_encOn
    | with_reducible apply good_sdlOnNow
    | with_reducible apply good_setState
    | with_reducible apply good_updFir
    | with_reducible apply good_onkOn
    | with_reducible apply good_camEnable
    | with_reducible apply good_qlpEnable
    | with_reducible apply good_chanSwitch
    | with_reducible apply good_revote
    | with_reducible apply good_portOn
    | with_reducible apply good_axisEnable
    | with_reducible apply good_fntEnable
    | with_reducible apply good_setBist
    | with_reducible refine good_foldl _ _ ?_ ?_
    | with_reducible refine good_foldr _ _ ?_ ?_
    | simp only [good_mk]
    | simp only [good_mk_gbk]
    | split
    | intro _)

theorem good_loseSource {bb : Prop} {pp : Part} {qq : List Instr} (s : State) (h_s : s.Good bb pp qq) :
    (State.loseSource s).Good bb pp qq := by
  unfold State.loseSource
  try dsimp only
  repeat' (first
    | with_reducible assumption
    | with_reducible apply good_showSpeed
    | with_reducible apply good_updSdl)

theorem good_follow {bb : Prop} {pp : Part} {qq : List Instr} (s : State) (m : Fin 3) (h_s : s.Good bb pp qq) :
    (State.follow s m).Good bb pp qq := by
  unfold State.follow
  try dsimp only
  repeat' (first
    | with_reducible assumption
    | with_reducible apply good_updEnc
    | with_reducible apply good_wr
    | with_reducible apply good_updSdl
    | with_reducible refine good_foldl _ _ ?_ ?_
    | with_reducible refine good_foldr _ _ ?_ ?_
    | simp only [good_mk]
    | simp only [good_mk_gbk]
    | split)

theorem good_switchSource {bb : Prop} {pp : Part} {qq : List Instr} (s : State) (m : Fin 3) (h_s : s.Good bb pp qq) :
    (State.switchSource s m).Good bb pp qq := by
  unfold State.switchSource
  try dsimp only
  repeat' (first
    | with_reducible assumption
    | with_reducible apply good_updEnc
    | with_reducible apply good_follow
    | with_reducible apply good_raise
    | with_reducible apply good_checkAlign
    | with_reducible apply good_showSpeed
    | with_reducible apply good_loseSource
    | with_reducible refine good_foldl _ _ ?_ ?_
    | with_reducible refine good_foldr _ _ ?_ ?_
    | simp only [good_mk]
    | simp only [good_mk_gbk]
    | split)

theorem good_sourceFails {bb : Prop} {pp : Part} {qq : List Instr} (s : State) (h_s : s.Good bb pp qq) :
    (State.sourceFails s).Good bb pp qq := by
  unfold State.sourceFails
  try dsimp only
  repeat' (first
    | with_reducible assumption
    | with_reducible apply good_loseSource
    | with_reducible apply good_switchSource
    | with_reducible refine good_foldl _ _ ?_ ?_
    | with_reducible refine good_foldr _ _ ?_ ?_
    | simp only [good_mk]
    | simp only [good_mk_gbk]
    | split)

theorem good_encLost {bb : Prop} {pp : Part} {qq : List Instr} (s : State) (n : Fin 3) (off : Bool) (h_s : s.Good bb pp qq) :
    (State.encLost s n off).Good bb pp qq := by
  unfold State.encLost
  try dsimp only
  repeat' (first
    | with_reducible assumption
    | with_reducible apply good_encAbandon
    | with_reducible apply good_checkBad
    | with_reducible apply good_sourceFails
    | with_reducible refine good_foldl _ _ ?_ ?_
    | with_reducible refine good_foldr _ _ ?_ ?_
    | simp only [good_mk]
    | simp only [good_mk_gbk]
    | split)

theorem good_encOff {bb : Prop} {pp : Part} {qq : List Instr} (s : State) (n : Fin 3) (h_s : s.Good bb pp qq) :
    (State.encOff s n).Good bb pp qq := by
  unfold State.encOff
  try dsimp only
  repeat' (first
    | with_reducible assumption
    | with_reducible apply good_encLost
    | with_reducible apply good_setCoast
    | with_reducible apply good_wr
    | with_reducible apply good_setState)

theorem good_sdlOff {bb : Prop} {pp : Part} {qq : List Instr} (s : State) (r : Req) (h_s : s.Good bb pp qq) :
    (State.sdlOff s r).Good bb pp qq := by
  unfold State.sdlOff
  try dsimp only
  repeat' (first
    | with_reducible assumption
    | with_reducible apply good_revote
    | with_reducible apply good_wr
    | with_reducible apply good_dropWrite
    | with_reducible refine good_foldl _ _ ?_ ?_
    | with_reducible refine good_foldr _ _ ?_ ?_
    | simp only [good_mk]
    | simp only [good_mk_gbk]
    | split
    | intro _)

theorem good_setHsc {bb : Prop} {pp : Part} {qq : List Instr} (s : State) (h : ℕ) (x : Hsc) (h_s : s.Good bb pp qq) :
    (State.setHsc s h x).Good bb pp qq := by
  unfold State.setHsc
  try dsimp only
  repeat' (first
    | with_reducible assumption
    | with_reducible refine good_foldl _ _ ?_ ?_
    | with_reducible refine good_foldr _ _ ?_ ?_
    | simp only [good_mk]
    | simp only [good_mk_gbk]
    | split)

theorem good_updHsc {bb : Prop} {pp : Part} {qq : List Instr} (s : State) (h : ℕ) (g : Hsc → Hsc) (h_s : s.Good bb pp qq) :
    (State.updHsc s h g).Good bb pp qq := by
  unfold State.updHsc
  try dsimp only
  repeat' (first
    | with_reducible assumption
    | with_reducible apply good_setHsc)

theorem good_setQlines {bb : Prop} {pp : Part} {qq : List Instr} (s : State) (h : ℕ) (x : List QLine) (h_s : s.Good bb pp qq) :
    (State.setQlines s h x).Good bb pp qq := by
  unfold State.setQlines
  try dsimp only
  repeat' (first
    | with_reducible assumption
    | with_reducible apply good_updQlp
    | with_reducible refine good_foldl _ _ ?_ ?_
    | with_reducible refine good_foldr _ _ ?_ ?_
    | simp only [good_mk]
    | simp only [good_mk_gbk]
    | split)

theorem good_qlpStop {bb : Prop} {pp : Part} {qq : List Instr} (s : State) (h : ℕ) (h_s : s.Good bb pp qq) :
    (State.qlpStop s h).Good bb pp qq := by
  unfold State.qlpStop
  try dsimp only
  repeat' (first
    | with_reducible assumption
    | with_reducible apply good_setQlines)

theorem good_txOwed {bb : Prop} {pp : Part} {qq : List Instr} (s : State) (h : ℕ) (h_s : s.Good bb pp qq) :
    (State.txOwed s h).Good bb pp qq := by
  unfold State.txOwed
  try dsimp only
  repeat' (first
    | with_reducible assumption
    | with_reducible apply good_txEnd
    | with_reducible refine good_foldl _ _ ?_ ?_
    | with_reducible refine good_foldr _ _ ?_ ?_
    | simp only [good_mk]
    | simp only [good_mk_gbk]
    | split)

theorem good_txStopped {bb : Prop} {pp : Part} {qq : List Instr} (s : State) (h : ℕ) (h_s : s.Good bb pp qq) :
    (State.txStopped s h).Good bb pp qq := by
  unfold State.txStopped
  try dsimp only
  repeat' (first
    | with_reducible assumption
    | with_reducible apply good_sendCommit
    | with_reducible apply good_txOwed
    | with_reducible apply good_txMark
    | with_reducible apply good_updOnk
    | with_reducible refine good_foldl _ _ ?_ ?_
    | with_reducible refine good_foldr _ _ ?_ ?_
    | simp only [good_mk]
    | simp only [good_mk_gbk]
    | split)

theorem good_dropHeadCommits {bb : Prop} {pp : Part} {qq : List Instr} (s : State) (h : ℕ) (h_s : s.Good bb pp qq) :
    (State.dropHeadCommits s h).Good bb pp qq := by
  unfold State.dropHeadCommits
  try dsimp only
  repeat' (first
    | with_reducible assumption
    | with_reducible apply good_dropCommit
    | with_reducible refine good_foldl _ _ ?_ ?_
    | with_reducible refine good_foldr _ _ ?_ ?_
    | simp only [good_mk]
    | simp only [good_mk_gbk]
    | split
    | intro _)

theorem good_refStop {bb : Prop} {pp : Part} {qq : List Instr} (s0 : State) (h : ℕ) (h_s0 : s0.Good bb pp qq) :
    (State.refStop s0 h).Good bb pp qq := by
  unfold State.refStop
  try dsimp only
  repeat' (first
    | with_reducible assumption
    | with_reducible apply good_keepReached
    | with_reducible refine good_foldl _ _ ?_ ?_
    | with_reducible refine good_foldr _ _ ?_ ?_
    | simp only [good_mk]
    | simp only [good_mk_gbk]
    | split)

theorem good_stopHead {bb : Prop} {pp : Part} {qq : List Instr} (s : State) (h : ℕ) (h_s : s.Good bb pp qq) :
    (State.stopHead s h).Good bb pp qq := by
  unfold State.stopHead
  try dsimp only
  repeat' (first
    | with_reducible assumption
    | with_reducible apply good_updHsc
    | with_reducible apply good_qlpStop
    | with_reducible apply good_txStopped
    | with_reducible apply good_dropHeadCommits
    | with_reducible apply good_updTrl
    | with_reducible apply good_updOnk
    | with_reducible apply good_refStop)

theorem good_stopTrg {bb : Prop} {pp : Part} {qq : List Instr} (s : State) (h_s : s.Good bb pp qq) :
    (State.stopTrg s).Good bb pp qq := by
  unfold State.stopTrg
  try dsimp only
  repeat' (first
    | with_reducible assumption
    | with_reducible refine good_foldl _ _ ?_ ?_
    | with_reducible refine good_foldr _ _ ?_ ?_
    | simp only [good_mk])

theorem good_scheduleOff {bb : Prop} {pp : Part} {qq : List Instr} (s : State) (h : Option ℕ) (h_s : s.Good bb pp qq) :
    (State.scheduleOff s h).Good bb pp qq := by
  unfold State.scheduleOff
  try dsimp only
  repeat' (first
    | with_reducible assumption
    | with_reducible apply good_stopHead
    | with_reducible apply good_wr
    | with_reducible apply good_stopTrg
    | with_reducible refine good_foldl _ _ ?_ ?_
    | with_reducible refine good_foldr _ _ ?_ ?_
    | simp only [good_mk]
    | simp only [good_mk_gbk]
    | split)

theorem good_resetStream {bb : Prop} {pp : Part} {qq : List Instr} (s : State) (i : Fin 4) (h_s : s.Good bb pp qq) :
    (State.resetStream s i).Good bb pp qq := by
  unfold State.resetStream
  try dsimp only
  repeat' (first
    | with_reducible assumption
    | with_reducible apply good_addSat
    | with_reducible apply good_setBusy
    | with_reducible apply good_setState
    | with_reducible apply good_updStm
    | with_reducible apply good_showQueue
    | with_reducible apply good_updIng)

theorem good_stmOff {bb : Prop} {pp : Part} {qq : List Instr} (s : State) (i : Fin 4) (h_s : s.Good bb pp qq) :
    (State.stmOff s i).Good bb pp qq := by
  unfold State.stmOff
  try dsimp only
  repeat' (first
    | with_reducible assumption
    | with_reducible apply good_wr
    | with_reducible apply good_resetStream
    | with_reducible apply good_setState
    | with_reducible refine good_foldl _ _ ?_ ?_
    | with_reducible refine good_foldr _ _ ?_ ?_
    | simp only [good_mk]
    | simp only [good_mk_gbk]
    | split)

theorem good_setRow {bb : Prop} {pp : Part} {qq : List Instr} (s : State) (g : ℕ) (r : QRow) (h_s : s.Good bb pp qq) :
    (State.setRow s g r).Good bb pp qq := by
  unfold State.setRow
  try dsimp only
  repeat' (first
    | with_reducible assumption
    | with_reducible apply good_updQlp)

theorem good_qlpVoid {bb : Prop} {pp : Part} {qq : List Instr} (s : State) (h : ℕ) (line : ℕ) (h_s : s.Good bb pp qq) :
    (State.qlpVoid s h line).Good bb pp qq := by
  unfold State.qlpVoid
  try dsimp only
  repeat' (first
    | with_reducible assumption
    | with_reducible apply good_setQlines
    | with_reducible apply good_setRow
    | with_reducible refine good_foldl _ _ ?_ ?_
    | with_reducible refine good_foldr _ _ ?_ ?_
    | simp only [good_mk]
    | simp only [good_mk_gbk]
    | split)

theorem good_skipLine {bb : Prop} {pp : Part} {qq : List Instr} (s : State) (h : ℕ) (line : ℕ) (h_s : s.Good bb pp qq) :
    (State.skipLine s h line).Good bb pp qq := by
  unfold State.skipLine
  try dsimp only
  repeat' (first
    | with_reducible assumption
    | with_reducible apply good_sendBlock
    | with_reducible refine good_foldl _ _ ?_ ?_
    | with_reducible refine good_foldr _ _ ?_ ?_
    | simp only [good_mk]
    | simp only [good_mk_gbk]
    | split)

theorem good_trainHeld {bb : Prop} {pp : Part} {qq : List Instr} (s : State) (h : ℕ) (line : ℕ) (h_s : s.Good bb pp qq) :
    (State.trainHeld s h line).Good bb pp qq := by
  unfold State.trainHeld
  try dsimp only
  repeat' (first
    | with_reducible assumption
    | with_reducible apply good_qlpVoid
    | with_reducible apply good_skipLine
    | with_reducible apply good_updOnk)

theorem good_qlpCut {bb : Prop} {pp : Part} {qq : List Instr} (s : State) (h : ℕ) (h_s : s.Good bb pp qq) :
    (State.qlpCut s h).Good bb pp qq := by
  unfold State.qlpCut
  try dsimp only
  repeat' (first
    | with_reducible assumption
    | with_reducible apply good_trainHeld
    | with_reducible apply good_qlpVoid
    | with_reducible refine good_foldl _ _ ?_ ?_
    | with_reducible refine good_foldr _ _ ?_ ?_
    | simp only [good_mk]
    | simp only [good_mk_gbk]
    | split)

theorem good_firOff {bb : Prop} {pp : Part} {qq : List Instr} (s : State) (h : ℕ) (h_s : s.Good bb pp qq) :
    (State.firOff s h).Good bb pp qq := by
  unfold State.firOff
  try dsimp only
  repeat' (first
    | with_reducible assumption
    | with_reducible apply good_qlpCut
    | with_reducible apply good_trainHeld
    | with_reducible apply good_updFir
    | with_reducible apply good_padStops
    | with_reducible apply good_wr
    | with_reducible refine good_foldl _ _ ?_ ?_
    | with_reducible refine good_foldr _ _ ?_ ?_
    | simp only [good_mk]
    | simp only [good_mk_gbk]
    | split
    | intro _)

theorem good_onkOff {bb : Prop} {pp : Part} {qq : List Instr} (s : State) (h : ℕ) (h_s : s.Good bb pp qq) :
    (State.onkOff s h).Good bb pp qq := by
  unfold State.onkOff
  try dsimp only
  repeat' (first
    | with_reducible assumption
    | with_reducible apply good_failFlights
    | with_reducible apply good_laneGone
    | with_reducible apply good_laneClocks
    | with_reducible apply good_wr)

theorem good_qlpDisable {bb : Prop} {pp : Part} {qq : List Instr} (s : State) (h_s : s.Good bb pp qq) :
    (State.qlpDisable s).Good bb pp qq := by
  unfold State.qlpDisable
  try dsimp only
  repeat' (first
    | with_reducible assumption
    | with_reducible apply good_updQlp
    | with_reducible apply good_setState
    | with_reducible apply good_wr)

theorem good_txComplete {bb : Prop} {pp : Part} {qq : List Instr} (s : State) (flags : ℕ) (err : Bool) (h_s : s.Good bb pp qq) :
    (State.txComplete s flags err).Good bb pp qq := by
  unfold State.txComplete
  try dsimp only
  repeat' (first
    | with_reducible assumption
    | with_reducible apply good_emit
    | with_reducible apply good_signal
    | with_reducible apply good_wr)

theorem good_discardQueued {bb : Prop} {pp : Part} {qq : List Instr} (s : State) (old : Fin 2) (h_s : s.Good bb pp qq) :
    (State.discardQueued s old).Good bb pp qq := by
  unfold State.discardQueued
  try dsimp only
  repeat' (first
    | with_reducible assumption
    | with_reducible apply good_wr
    | with_reducible apply good_draw
    | with_reducible apply good_incSat
    | with_reducible apply good_txComplete
    | with_reducible refine good_foldl _ _ ?_ ?_
    | with_reducible refine good_foldr _ _ ?_ ?_
    | simp only [good_mk]
    | simp only [good_mk_gbk]
    | split
    | intro _)

theorem good_doubleWait {bb : Prop} {pp : Part} {qq : List Instr} (s : State) (lost : Fin 2) (h_s : s.Good bb pp qq) :
    (State.doubleWait s lost).Good bb pp qq := by
  unfold State.doubleWait
  try dsimp only
  repeat' (first
    | with_reducible assumption
    | with_reducible apply good_wr
    | with_reducible refine good_foldl _ _ ?_ ?_
    | with_reducible refine good_foldr _ _ ?_ ?_
    | simp only [good_mk]
    | simp only [good_mk_gbk]
    | split)

theorem good_losePath {bb : Prop} {pp : Part} {qq : List Instr} (s0 : State) (cause : LossCause) (h_s0 : s0.Good bb pp qq) :
    (State.losePath s0 cause).Good bb pp qq := by
  unfold State.losePath
  try dsimp only
  repeat' (first
    | with_reducible assumption
    | with_reducible apply good_endOverlap
    | with_reducible apply good_raise
    | with_reducible apply good_incSat
    | with_reducible apply good_wr
    | with_reducible apply good_takeOver
    | with_reducible apply good_discardQueued
    | with_reducible apply good_setState
    | with_reducible apply good_doubleWait
    | with_reducible refine good_foldl _ _ ?_ ?_
    | with_reducible refine good_foldr _ _ ?_ ?_
    | simp only [good_mk]
    | simp only [good_mk_gbk]
    | split)

theorem good_portOff {bb : Prop} {pp : Part} {qq : List Instr} (s : State) (p : Fin 2) (h_s : s.Good bb pp qq) :
    (State.portOff s p).Good bb pp qq := by
  unfold State.portOff
  try dsimp only
  repeat' (first
    | with_reducible assumption
    | with_reducible apply good_wr
    | with_reducible apply good_losePath
    | with_reducible apply good_setState
    | with_reducible apply good_laneClocks
    | with_reducible apply good_linkFollow
    | with_reducible refine good_foldl _ _ ?_ ?_
    | with_reducible refine good_foldr _ _ ?_ ?_
    | simp only [good_mk]
    | simp only [good_mk_gbk]
    | split)

theorem good_fntDisable {bb : Prop} {pp : Part} {qq : List Instr} (s : State) (h_s : s.Good bb pp qq) :
    (State.fntDisable s).Good bb pp qq := by
  unfold State.fntDisable
  try dsimp only
  repeat' (first
    | with_reducible assumption
    | with_reducible apply good_revote
    | with_reducible apply good_setState
    | with_reducible apply good_wr
    | with_reducible refine good_foldl _ _ ?_ ?_
    | with_reducible refine good_foldr _ _ ?_ ?_
    | simp only [good_mk]
    | simp only [good_mk_gbk]
    | split
    | intro _)

theorem good_enableOff {bb : Prop} {pp : Part} {qq : List Instr} (s : State) (r : Req) (kd : Kind) (u : ℕ) (page : ℕ) (h_s : s.Good bb pp qq) :
    (State.enableOff s r kd u page).Good bb pp qq := by
  unfold State.enableOff
  try dsimp only
  repeat' (first
    | with_reducible assumption
    | with_reducible apply good_atFin
    | with_reducible apply good_encOff
    | with_reducible apply good_sdlOff
    | with_reducible apply good_scheduleOff
    | with_reducible apply good_stmOff
    | with_reducible apply good_firOff
    | with_reducible apply good_onkOff
    | with_reducible apply good_camDisable
    | with_reducible apply good_qlpDisable
    | with_reducible apply good_chanSwitch
    | with_reducible apply good_revote
    | with_reducible apply good_portOff
    | with_reducible apply good_axisDisable
    | with_reducible apply good_fntDisable
    | with_reducible apply good_wr
    | with_reducible refine good_foldl _ _ ?_ ?_
    | with_reducible refine good_foldr _ _ ?_ ?_
    | simp only [good_mk]
    | simp only [good_mk_gbk]
    | split
    | intro _)

theorem good_enableWrite {bb : Prop} {pp : Part} {qq : List Instr} (s : State) (r : Req) (kd : Kind) (u : ℕ) (page : ℕ) (v : Bool) (h_s : s.Good bb pp qq) :
    (State.enableWrite s r kd u page v).Good bb pp qq := by
  unfold State.enableWrite
  try dsimp only
  repeat' (first
    | with_reducible assumption
    | with_reducible apply good_dropWrite
    | with_reducible apply good_updAxis
    | with_reducible apply good_enableOn
    | with_reducible apply good_enableOff
    | with_reducible refine good_foldl _ _ ?_ ?_
    | with_reducible refine good_foldr _ _ ?_ ?_
    | simp only [good_mk]
    | simp only [good_mk_gbk]
    | split)

theorem good_setSide {bb : Prop} {pp : Part} {qq : List Instr} (s : State) (r : Req) (x : ReqSide) (h_s : s.Good bb pp qq) :
    (State.setSide s r x).Good bb pp qq := by
  unfold State.setSide
  try dsimp only
  repeat' (first
    | with_reducible assumption
    | with_reducible refine good_foldl _ _ ?_ ?_
    | with_reducible refine good_foldr _ _ ?_ ?_
    | simp only [good_mk]
    | simp only [good_mk_gbk]
    | split)

theorem good_setStale {bb : Prop} {pp : Part} {qq : List Instr} (s : State) (r : Req) (page : ℕ) (b : Bool) (h_s : s.Good bb pp qq) :
    (State.setStale s r page b).Good bb pp qq := by
  unfold State.setStale
  try dsimp only
  repeat' (first
    | with_reducible assumption
    | with_reducible apply good_setSide)

theorem good_cancelCommit {bb : Prop} {pp : Part} {qq : List Instr} (s : State) (page : ℕ) (h_s : s.Good bb pp qq) :
    (State.cancelCommit s page).Good bb pp qq := by
  unfold State.cancelCommit
  try dsimp only
  repeat' (first
    | with_reducible assumption
    | with_reducible apply good_selfAfter
    | with_reducible apply good_clearCommit
    | with_reducible refine good_foldl _ _ ?_ ?_
    | with_reducible refine good_foldr _ _ ?_ ?_
    | simp only [good_mk]
    | simp only [good_mk_gbk]
    | split)

theorem good_writeWhen {bb : Prop} {pp : Part} {qq : List Instr} (s : State) (r : Req) (page : ℕ) (mode : ℕ) (h_s : s.Good bb pp qq) :
    (State.writeWhen s r page mode).Good bb pp qq := by
  unfold State.writeWhen
  try dsimp only
  repeat' (first
    | with_reducible assumption
    | with_reducible apply good_cancelCommit
    | with_reducible apply good_dropWrite
    | with_reducible apply good_rejectCommit
    | with_reducible apply good_armCommit
    | with_reducible refine good_foldl _ _ ?_ ?_
    | with_reducible refine good_foldr _ _ ?_ ?_
    | simp only [good_mk]
    | simp only [good_mk_gbk]
    | split)

theorem good_whenWrite {bb : Prop} {pp : Part} {qq : List Instr} (s : State) (r : Req) (page : ℕ) (mode : ℕ) (h_s : s.Good bb pp qq) :
    (State.whenWrite s r page mode).Good bb pp qq := by
  unfold State.whenWrite
  try dsimp only
  repeat' (first
    | with_reducible assumption
    | with_reducible apply good_writeWhen
    | with_reducible refine good_foldl _ _ ?_ ?_
    | with_reducible refine good_foldr _ _ ?_ ?_
    | simp only [good_mk]
    | simp only [good_mk_gbk]
    | split)

theorem good_lockWrite {bb : Prop} {pp : Part} {qq : List Instr} (s : State) (r : Req) (page : ℕ) (v : Bool) (h_s : s.Good bb pp qq) :
    (State.lockWrite s r page v).Good bb pp qq := by
  unfold State.lockWrite
  try dsimp only
  repeat' (first
    | with_reducible assumption
    | with_reducible apply good_dropWrite
    | with_reducible apply good_wr
    | with_reducible refine good_foldl _ _ ?_ ?_
    | with_reducible refine good_foldr _ _ ?_ ?_
    | simp only [good_mk]
    | simp only [good_mk_gbk]
    | split)

theorem good_follyOff {bb : Prop} {pp : Part} {qq : List Instr} (s : State) (page : ℕ) (h_s : s.Good bb pp qq) :
    (State.follyOff s page).Good bb pp qq := by
  unfold State.follyOff
  try dsimp only
  repeat' (first
    | with_reducible assumption
    | with_reducible apply good_updFir
    | with_reducible apply good_padStops
    | with_reducible apply good_disarm
    | with_reducible refine good_foldl _ _ ?_ ?_
    | with_reducible refine good_foldr _ _ ?_ ?_
    | simp only [good_mk]
    | simp only [good_mk_gbk]
    | split)

theorem good_setResult {bb : Prop} {pp : Part} {qq : List Instr} (s : State) (r : Req) (page : ℕ) (code : ℕ) (state : ℕ) (refuse : ℕ) (h_s : s.Good bb pp qq) :
    (State.setResult s r page code state refuse).Good bb pp qq := by
  unfold State.setResult
  try dsimp only
  repeat' (first
    | with_reducible assumption
    | with_reducible apply good_setSide)

theorem good_refuse {bb : Prop} {pp : Part} {qq : List Instr} (s : State) (r : Req) (page : ℕ) (off : ℕ) (code : ℕ) (refuse : ℕ) (h_s : s.Good bb pp qq) :
    (State.refuse s r page off code refuse).Good bb pp qq := by
  unfold State.refuse
  try dsimp only
  repeat' (first
    | with_reducible assumption
    | with_reducible apply good_regAlert
    | with_reducible apply good_wr
    | with_reducible apply good_setResult)

theorem good_writeArm {bb : Prop} {pp : Part} {qq : List Instr} (s : State) (r : Req) (page : ℕ) (key : ℕ) (h_s : s.Good bb pp qq) :
    (State.writeArm s r page key).Good bb pp qq := by
  unfold State.writeArm
  try dsimp only
  repeat' (first
    | with_reducible assumption
    | with_reducible apply good_dropWrite
    | with_reducible apply good_armFolly
    | with_reducible apply good_setResult
    | with_reducible apply good_refuse
    | with_reducible refine good_foldl _ _ ?_ ?_
    | with_reducible refine good_foldr _ _ ?_ ?_
    | simp only [good_mk]
    | simp only [good_mk_gbk]
    | split)

theorem good_setVote {bb : Prop} {pp : Part} {qq : List Instr} (s : State) (client : ℕ) (level : ℕ) (h_s : s.Good bb pp qq) :
    (State.setVote s client level).Good bb pp qq := by
  unfold State.setVote
  try dsimp only
  repeat' (first
    | with_reducible assumption
    | with_reducible apply good_revote
    | with_reducible apply good_wr
    | with_reducible refine good_foldl _ _ ?_ ?_
    | with_reducible refine good_foldr _ _ ?_ ?_
    | simp only [good_mk]
    | simp only [good_mk_gbk]
    | split
    | intro _)

theorem good_voteWrite {bb : Prop} {pp : Part} {qq : List Instr} (s : State) (r : Req) (client : ℕ) (v : Word) (h_s : s.Good bb pp qq) :
    (State.voteWrite s r client v).Good bb pp qq := by
  unfold State.voteWrite
  try dsimp only
  repeat' (first
    | with_reducible assumption
    | with_reducible apply good_setVote
    | with_reducible apply good_dropWrite
    | with_reducible refine good_foldl _ _ ?_ ?_
    | with_reducible refine good_foldr _ _ ?_ ?_
    | simp only [good_mk]
    | simp only [good_mk_gbk]
    | split)

theorem good_trlWindow {bb : Prop} {pp : Part} {qq : List Instr} (s : State) (r : Req) (h : ℕ) (w : ℕ) (write : Option Word) (h_s : s.Good bb pp qq) :
    (State.trlWindow s r h w write).Good bb pp qq := by
  unfold State.trlWindow
  try dsimp only
  repeat' (first
    | with_reducible assumption
    | with_reducible apply good_emit
    | with_reducible apply good_dropWrite
    | with_reducible apply good_store
    | with_reducible apply good_setState
    | with_reducible apply good_wr
    | with_reducible refine good_foldl _ _ ?_ ?_
    | with_reducible refine good_foldr _ _ ?_ ?_
    | simp only [good_mk]
    | simp only [good_mk_gbk]
    | split)

end Sys2Proof.Machine
end

