-- ==== Sys2Proof/Laws/Keep4.lean ====
section
/-! SUPPORT. Part 4 of 8: every operation and every meaning keeps the part, the queue and
the canonical forms (`State.Good`), one lemma per definition, in the order of the definitions. -/

namespace Sys2Proof.Machine

theorem good_trlAccess {bb : Prop} {pp : Part} {qq : List Instr} (s : State) (r : Req) (h : ℕ) (w : ℕ) (write : Option Word) (h_s : s.Good bb pp qq) :
    (State.trlAccess s r h w write).Good bb pp qq := by
  unfold State.trlAccess
  try dsimp only
  repeat' (first
    | with_reducible assumption
    | with_reducible apply good_updTrl
    | with_reducible apply good_trlWindow
    | with_reducible refine good_foldl _ _ ?_ ?_
    | with_reducible refine good_foldr _ _ ?_ ?_
    | simp only [good_mk]
    | simp only [good_mk_gbk]
    | split)

theorem good_pavWrite {bb : Prop} {pp : Part} {qq : List Instr} (s : State) (r : Req) (u : ℕ) (page : ℕ) (off : ℕ) (v : Word) (h_s : s.Good bb pp qq) :
    (State.pavWrite s r u page off v).Good bb pp qq := by
  unfold State.pavWrite
  try dsimp only
  repeat' (first
    | with_reducible assumption
    | with_reducible apply good_fieldWrite
    | with_reducible refine good_foldl _ _ ?_ ?_
    | with_reducible refine good_foldr _ _ ?_ ?_
    | simp only [good_mk]
    | simp only [good_mk_gbk]
    | split
    | intro _)

theorem good_wordWrite {bb : Prop} {pp : Part} {qq : List Instr} (s : State) (r : Req) (kd : Kind) (u : ℕ) (page : ℕ) (off : ℕ) (v : Word) (h_s : s.Good bb pp qq) :
    (State.wordWrite s r kd u page off v).Good bb pp qq := by
  unfold State.wordWrite
  try dsimp only
  repeat' (first
    | with_reducible assumption
    | with_reducible apply good_fieldWrite
    | with_reducible apply good_enableWrite
    | with_reducible apply good_setStale
    | with_reducible apply good_whenWrite
    | with_reducible apply good_lockWrite
    | with_reducible apply good_follyOff
    | with_reducible apply good_writeArm
    | with_reducible apply good_voteWrite
    | with_reducible apply good_revote
    | with_reducible apply good_laneClocks
    | with_reducible apply good_trlAccess
    | with_reducible apply good_camAccess
    | with_reducible apply good_pavWrite
    | with_reducible refine good_foldl _ _ ?_ ?_
    | with_reducible refine good_foldr _ _ ?_ ?_
    | simp only [good_mk]
    | simp only [good_mk_gbk]
    | split
    | intro _)

theorem good_setSlot {bb : Prop} {pp : Part} {qq : List Instr} (s : State) (r : Req) (page : ℕ) (x : List (ℕ × Word)) (h_s : s.Good bb pp qq) :
    (State.setSlot s r page x).Good bb pp qq := by
  unfold State.setSlot
  try dsimp only
  repeat' (first
    | with_reducible assumption
    | with_reducible apply good_setSide)

theorem good_readLo {bb : Prop} {pp : Part} {qq : List Instr} (s : State) (r : Req) (page : ℕ) (lo : Word) (rest : List (ℕ × Word)) (h_s : s.Good bb pp qq) :
    (State.readLo s r page lo rest).Good bb pp qq := by
  unfold State.readLo
  try dsimp only
  repeat' (first
    | with_reducible assumption
    | with_reducible apply good_emit
    | with_reducible apply good_setSlot)

theorem good_readHi {bb : Prop} {pp : Part} {qq : List Instr} (s : State) (r : Req) (page : ℕ) (off : ℕ) (live : Word) (h_s : s.Good bb pp qq) :
    (State.readHi s r page off live).Good bb pp qq := by
  unfold State.readHi
  try dsimp only
  repeat' (first
    | with_reducible assumption
    | with_reducible apply good_emit
    | with_reducible apply good_setSlot
    | with_reducible apply good_setStale
    | with_reducible refine good_foldl _ _ ?_ ?_
    | with_reducible refine good_foldr _ _ ?_ ?_
    | simp only [good_mk]
    | simp only [good_mk_gbk]
    | split)

theorem good_starveTake {bb : Prop} {pp : Part} {qq : List Instr} (s : State) (r : Req) (h_s : s.Good bb pp qq) :
    (State.starveTake s r).Good bb pp qq := by
  unfold State.starveTake
  try dsimp only
  repeat' (first
    | with_reducible assumption
    | with_reducible apply good_readLo
    | with_reducible apply good_updIng
    | with_reducible refine good_foldl _ _ ?_ ?_
    | with_reducible refine good_foldr _ _ ?_ ?_
    | simp only [good_mk]
    | simp only [good_mk_gbk]
    | split)

theorem good_proposalTake {bb : Prop} {pp : Part} {qq : List Instr} (s : State) (r : Req) (auto : Bool) (h_s : s.Good bb pp qq) :
    (State.proposalTake s r auto).Good bb pp qq := by
  unfold State.proposalTake
  try dsimp only
  repeat' (first
    | with_reducible assumption
    | with_reducible apply good_readLo
    | with_reducible apply good_updQlp
    | with_reducible apply good_showQueues
    | with_reducible refine good_foldl _ _ ?_ ?_
    | with_reducible refine good_foldr _ _ ?_ ?_
    | simp only [good_mk]
    | simp only [good_mk_gbk]
    | split)

theorem good_readFirst {bb : Prop} {pp : Part} {qq : List Instr} (s : State) (r : Req) (page : ℕ) (off : ℕ) (h_s : s.Good bb pp qq) :
    (State.readFirst s r page off).Good bb pp qq := by
  unfold State.readFirst
  try dsimp only
  repeat' (first
    | with_reducible assumption
    | with_reducible apply good_readLo
    | with_reducible apply good_readHi
    | with_reducible apply good_emit
    | with_reducible apply good_starveTake
    | with_reducible apply good_proposalTake
    | with_reducible apply good_trlAccess
    | with_reducible apply good_updTrl
    | with_reducible apply good_camAccess
    | with_reducible apply good_updCam
    | with_reducible refine good_foldl _ _ ?_ ?_
    | with_reducible refine good_foldr _ _ ?_ ?_
    | simp only [good_mk]
    | simp only [good_mk_gbk]
    | split)

theorem good_camRelease {bb : Prop} {pp : Part} {qq : List Instr} (s : State) (k : ℕ) (x : Held) (h_s : s.Good bb pp qq) :
    (State.camRelease s k x).Good bb pp qq := by
  unfold State.camRelease
  try dsimp only
  repeat' (first
    | with_reducible assumption
    | with_reducible apply good_camAccess
    | with_reducible apply good_camStore
    | with_reducible apply good_behind
    | with_reducible apply good_wordWrite
    | with_reducible apply good_readFirst
    | with_reducible refine good_foldl _ _ ?_ ?_
    | with_reducible refine good_foldr _ _ ?_ ?_
    | simp only [good_mk]
    | simp only [good_mk_gbk]
    | split
    | intro _)

theorem good_camTrigger {bb : Prop} {pp : Part} {qq : List Instr} (s : State) (k : ℕ) (t : CamTrig) (h_s : s.Good bb pp qq) :
    (State.camTrigger s k t).Good bb pp qq := by
  unfold State.camTrigger
  try dsimp only
  repeat' (first
    | with_reducible assumption
    | with_reducible apply good_updCam
    | with_reducible apply good_camMiss
    | with_reducible refine good_foldl _ _ ?_ ?_
    | with_reducible refine good_foldr _ _ ?_ ?_
    | simp only [good_mk]
    | simp only [good_mk_gbk]
    | split)

theorem good_sliceFailed {bb : Prop} {pp : Part} {qq : List Instr} (s : State) (i : ℕ) (kind : ℕ) (h_s : s.Good bb pp qq) :
    (State.sliceFailed s i kind).Good bb pp qq := by
  unfold State.sliceFailed
  try dsimp only
  repeat' (first
    | with_reducible assumption
    | with_reducible apply good_raise
    | with_reducible apply good_wr)

theorem good_cellFails {bb : Prop} {pp : Part} {qq : List Instr} (s : State) (i : ℕ) (column : Bool) (h_s : s.Good bb pp qq) :
    (State.cellFails s i column).Good bb pp qq := by
  unfold State.cellFails
  try dsimp only
  repeat' (first
    | with_reducible assumption
    | with_reducible apply good_raise
    | with_reducible apply good_wr
    | with_reducible apply good_setBist
    | with_reducible apply good_sliceFailed
    | with_reducible refine good_foldl _ _ ?_ ?_
    | with_reducible refine good_foldr _ _ ?_ ?_
    | simp only [good_mk]
    | simp only [good_mk_gbk]
    | split)

theorem good_checkOk {bb : Prop} {pp : Part} {qq : List Instr} (s : State) (h_s : s.Good bb pp qq) :
    (State.checkOk s).Good bb pp qq := by
  unfold State.checkOk
  try dsimp only
  repeat' (first
    | with_reducible assumption
    | with_reducible apply good_updSdl
    | with_reducible refine good_foldl _ _ ?_ ?_
    | with_reducible refine good_foldr _ _ ?_ ?_
    | simp only [good_mk]
    | simp only [good_mk_gbk]
    | split)

theorem good_chopTick {bb : Prop} {pp : Part} {qq : List Instr} (s : State) (a : ℕ) (h_s : s.Good bb pp qq) :
    (State.chopTick s a).Good bb pp qq := by
  unfold State.chopTick
  try dsimp only
  repeat' (first
    | with_reducible assumption
    | with_reducible apply good_draw
    | with_reducible apply good_bridgeFault
    | with_reducible apply good_updAxis
    | with_reducible refine good_foldl _ _ ?_ ?_
    | with_reducible refine good_foldr _ _ ?_ ?_
    | simp only [good_mk]
    | simp only [good_mk_gbk]
    | split)

theorem good_clockGone {bb : Prop} {pp : Part} {qq : List Instr} (s : State) (n : ℕ) (h_s : s.Good bb pp qq) :
    (State.clockGone s n).Good bb pp qq := by
  unfold State.clockGone
  try dsimp only
  repeat' (first
    | with_reducible assumption
    | with_reducible apply good_laneLost
    | with_reducible apply good_portDark
    | with_reducible refine good_foldl _ _ ?_ ?_
    | with_reducible refine good_foldr _ _ ?_ ?_
    | simp only [good_mk]
    | simp only [good_mk_gbk]
    | split
    | intro _)

theorem good_encLearned {bb : Prop} {pp : Part} {qq : List Instr} (s : State) (n : Fin 3) (h_s : s.Good bb pp qq) :
    (State.encLearned s n).Good bb pp qq := by
  unfold State.encLearned
  try dsimp only
  repeat' (first
    | with_reducible assumption
    | with_reducible apply good_updEnc
    | with_reducible apply good_setBusy
    | with_reducible apply good_calDone
    | with_reducible apply good_wr
    | with_reducible apply good_incSat)

theorem good_encCommitted {bb : Prop} {pp : Part} {qq : List Instr} (s : State) (old : State) (n : Fin 3) (own : Bool) (h_s : s.Good bb pp qq) (h_old : old.Good bb pp qq) :
    (State.encCommitted s old n own).Good bb pp qq := by
  unfold State.encCommitted
  try dsimp only
  repeat' (first
    | with_reducible assumption
    | with_reducible apply good_encLearned
    | with_reducible apply good_wr
    | with_reducible apply good_encAfter
    | with_reducible refine good_foldl _ _ ?_ ?_
    | with_reducible refine good_foldr _ _ ?_ ?_
    | simp only [good_mk]
    | simp only [good_mk_gbk]
    | split)

theorem good_refCopy {bb : Prop} {pp : Part} {qq : List Instr} (s0 : State) (h : ℕ) (back : Bool) (h_s0 : s0.Good bb pp qq) :
    (State.refCopy s0 h back).Good bb pp qq := by
  unfold State.refCopy
  try dsimp only
  repeat' (first
    | with_reducible assumption
    | with_reducible apply good_keepReached
    | with_reducible refine good_foldl _ _ ?_ ?_
    | with_reducible refine good_foldr _ _ ?_ ?_
    | simp only [good_mk]
    | simp only [good_mk_gbk]
    | split)

theorem good_sdlCommitted {bb : Prop} {pp : Part} {qq : List Instr} (s : State) (old : State) (h_s : s.Good bb pp qq) (h_old : old.Good bb pp qq) :
    (State.sdlCommitted s old).Good bb pp qq := by
  unfold State.sdlCommitted
  try dsimp only
  repeat' (first
    | with_reducible assumption
    | with_reducible apply good_checkAlign
    | with_reducible apply good_switchSource
    | with_reducible apply good_refCopy
    | with_reducible refine good_foldl _ _ ?_ ?_
    | with_reducible refine good_foldr _ _ ?_ ?_
    | simp only [good_mk]
    | simp only [good_mk_gbk]
    | split)

theorem good_showNext {bb : Prop} {pp : Part} {qq : List Instr} (s : State) (h : ℕ) (h_s : s.Good bb pp qq) :
    (State.showNext s h).Good bb pp qq := by
  unfold State.showNext
  try dsimp only
  repeat' (first
    | with_reducible assumption
    | with_reducible apply good_wr
    | with_reducible apply good_wr2)

theorem good_hscCommitted {bb : Prop} {pp : Part} {qq : List Instr} (s : State) (old : State) (h : ℕ) (n : ℕ) (h_s : s.Good bb pp qq) (h_old : old.Good bb pp qq) :
    (State.hscCommitted s old h n).Good bb pp qq := by
  unfold State.hscCommitted
  try dsimp only
  repeat' (first
    | with_reducible assumption
    | with_reducible apply good_showNext
    | with_reducible apply good_setHsc
    | with_reducible refine good_foldl _ _ ?_ ?_
    | with_reducible refine good_foldr _ _ ?_ ?_
    | simp only [good_mk]
    | simp only [good_mk_gbk]
    | split)

theorem good_trlSync {bb : Prop} {pp : Part} {qq : List Instr} (s : State) (h : ℕ) (h_s : s.Good bb pp qq) :
    (State.trlSync s h).Good bb pp qq := by
  unfold State.trlSync
  try dsimp only
  repeat' (first
    | with_reducible assumption
    | with_reducible apply good_setState
    | with_reducible apply good_copyMem
    | with_reducible apply good_wr)

theorem good_trlSwap {bb : Prop} {pp : Part} {qq : List Instr} (s : State) (h : ℕ) (h_s : s.Good bb pp qq) :
    (State.trlSwap s h).Good bb pp qq := by
  unfold State.trlSwap
  try dsimp only
  repeat' (first
    | with_reducible assumption
    | with_reducible apply good_setState
    | with_reducible apply good_updTrl
    | with_reducible apply good_trlSync
    | with_reducible refine good_foldl _ _ ?_ ?_
    | with_reducible refine good_foldr _ _ ?_ ?_
    | simp only [good_mk]
    | simp only [good_mk_gbk]
    | split)

theorem good_qlpFresh {bb : Prop} {pp : Part} {qq : List Instr} (s : State) (h_s : s.Good bb pp qq) :
    (State.qlpFresh s).Good bb pp qq := by
  unfold State.qlpFresh
  try dsimp only
  repeat' (first
    | with_reducible assumption
    | with_reducible apply good_wr
    | with_reducible apply good_updQlp)

theorem good_fntCommitted {bb : Prop} {pp : Part} {qq : List Instr} (s : State) (old : State) (h_s : s.Good bb pp qq) (h_old : old.Good bb pp qq) :
    (State.fntCommitted s old).Good bb pp qq := by
  unfold State.fntCommitted
  try dsimp only
  repeat' (first
    | with_reducible assumption
    | with_reducible apply good_showFnt
    | with_reducible apply good_spPlan
    | with_reducible refine good_foldl _ _ ?_ ?_
    | with_reducible refine good_foldr _ _ ?_ ?_
    | simp only [good_mk]
    | simp only [good_mk_gbk]
    | split)

theorem good_takeEffect {bb : Prop} {pp : Part} {qq : List Instr} (s : State) (page : ℕ) (h_s : s.Good bb pp qq) :
    (State.takeEffect s page).Good bb pp qq := by
  unfold State.takeEffect
  try dsimp only
  repeat' (first
    | with_reducible assumption
    | with_reducible apply good_dropCommit
    | with_reducible apply good_applyShadow
    | with_reducible apply good_encCommitted
    | with_reducible apply good_sdlCommitted
    | with_reducible apply good_hscCommitted
    | with_reducible apply good_trlSwap
    | with_reducible apply good_camSwap
    | with_reducible apply good_alignAfter
    | with_reducible apply good_qlpFresh
    | with_reducible apply good_fntCommitted
    | with_reducible refine good_foldl _ _ ?_ ?_
    | with_reducible refine good_foldr _ _ ?_ ?_
    | simp only [good_mk]
    | simp only [good_mk_gbk]
    | split)

theorem good_commitAtLine {bb : Prop} {pp : Part} {qq : List Instr} (s : State) (page : ℕ) (n : ℕ) (h_s : s.Good bb pp qq) :
    (State.commitAtLine s page n).Good bb pp qq := by
  unfold State.commitAtLine
  try dsimp only
  repeat' (first
    | with_reducible assumption
    | with_reducible apply good_takeEffect
    | with_reducible refine good_foldl _ _ ?_ ?_
    | with_reducible refine good_foldr _ _ ?_ ?_
    | simp only [good_mk]
    | simp only [good_mk_gbk]
    | split)

theorem good_commitBefore {bb : Prop} {pp : Part} {qq : List Instr} (s : State) (h : ℕ) (line : ℕ) (h_s : s.Good bb pp qq) :
    (State.commitBefore s h line).Good bb pp qq := by
  unfold State.commitBefore
  try dsimp only
  repeat' (first
    | with_reducible assumption
    | with_reducible apply good_sendCommit
    | with_reducible refine good_foldl _ _ ?_ ?_
    | with_reducible refine good_foldr _ _ ?_ ?_
    | simp only [good_mk]
    | simp only [good_mk_gbk]
    | split)

theorem good_updPcie {bb : Prop} {pp : Part} {qq : List Instr} (s : State) (g : Pcie → Pcie) (h_s : s.Good bb pp qq) :
    (State.updPcie s g).Good bb pp qq := by
  unfold State.updPcie
  try dsimp only
  repeat' (first
    | with_reducible assumption
    | with_reducible refine good_foldl _ _ ?_ ?_
    | with_reducible refine good_foldr _ _ ?_ ?_
    | simp only [good_mk])

theorem good_servePending {bb : Prop} {pp : Part} {qq : List Instr} (s : State) (fn : ℕ) (v : ℕ) (h_s : s.Good bb pp qq) :
    (State.servePending s fn v).Good bb pp qq := by
  unfold State.servePending
  try dsimp only
  repeat' (first
    | with_reducible assumption
    | with_reducible apply good_message
    | with_reducible apply good_updPcie
    | with_reducible refine good_foldl _ _ ?_ ?_
    | with_reducible refine good_foldr _ _ ?_ ?_
    | simp only [good_mk]
    | simp only [good_mk_gbk]
    | split)

theorem good_configure {bb : Prop} {pp : Part} {qq : List Instr} (s : State) (op : CfgOp) (h_s : s.Good bb pp qq) :
    (State.configure s op).Good bb pp qq := by
  unfold State.configure
  try dsimp only
  repeat' (first
    | with_reducible assumption
    | with_reducible apply good_updPcie
    | with_reducible apply good_wr
    | with_reducible apply good_servePending
    | with_reducible refine good_foldl _ _ ?_ ?_
    | with_reducible refine good_foldr _ _ ?_ ?_
    | simp only [good_mk]
    | simp only [good_mk_gbk]
    | split
    | intro _)

theorem good_updMon {bb : Prop} {pp : Part} {qq : List Instr} (s : State) (g : Mon → Mon) (h_s : s.Good bb pp qq) :
    (State.updMon s g).Good bb pp qq := by
  unfold State.updMon
  try dsimp only
  repeat' (first
    | with_reducible assumption
    | with_reducible refine good_foldl _ _ ?_ ?_
    | with_reducible refine good_foldr _ _ ?_ ?_
    | simp only [good_mk])

theorem good_monEvent {bb : Prop} {pp : Part} {qq : List Instr} (s : State) (i : Fin 4) (h_s : s.Good bb pp qq) :
    (State.monEvent s i).Good bb pp qq := by
  unfold State.monEvent
  try dsimp only
  repeat' (first
    | with_reducible assumption
    | with_reducible apply good_updMon
    | with_reducible apply good_raise
    | with_reducible refine good_foldl _ _ ?_ ?_
    | with_reducible refine good_foldr _ _ ?_ ?_
    | split)

theorem good_monEvents {bb : Prop} {pp : Part} {qq : List Instr} (s : State) (c : ℕ) (code : ℕ) (h_s : s.Good bb pp qq) :
    (State.monEvents s c code).Good bb pp qq := by
  unfold State.monEvents
  try dsimp only
  repeat' (first
    | with_reducible assumption
    | with_reducible apply good_monEvent
    | with_reducible apply good_wr
    | with_reducible refine good_foldl _ _ ?_ ?_
    | with_reducible refine good_foldr _ _ ?_ ?_
    | simp only [good_mk]
    | simp only [good_mk_gbk]
    | split)

theorem good_monPut {bb : Prop} {pp : Part} {qq : List Instr} (s : State) (c : ℕ) (code : ℕ) (h_s : s.Good bb pp qq) :
    (State.monPut s c code).Good bb pp qq := by
  unfold State.monPut
  try dsimp only
  repeat' (first
    | with_reducible assumption
    | with_reducible apply good_updMon
    | with_reducible apply good_wr)

theorem good_convert {bb : Prop} {pp : Part} {qq : List Instr} (s : State) (c : ℕ) (code : ℕ) (h_s : s.Good bb pp qq) :
    (State.convert s c code).1.Good bb pp qq := by
  unfold State.convert
  try dsimp only
  repeat' (first
    | with_reducible assumption
    | with_reducible apply good_inject
    | with_reducible apply good_monEvents
    | with_reducible apply good_monPut
    | with_reducible refine good_foldl _ _ ?_ ?_
    | with_reducible refine good_foldr _ _ ?_ ?_
    | simp only [good_mk]
    | simp only [good_mk_gbk]
    | split)

theorem good_convert_eq {bb : Prop} {pp : Part} {qq : List Instr} {s : State} {c : ℕ} {code : ℕ} {tOut : State} {zOut : _}
    (h_s : s.Good bb pp qq) (e : State.convert s c code = (tOut, zOut)) : tOut.Good bb pp qq := by
  have := good_convert s c code h_s; rw [e] at this; exact this

theorem good_land {bb : Prop} {pp : Part} {qq : List Instr} (s : State) (port : ℕ) (pl : Place) (a : ℕ) (bs : List Byte) (tags : List Bool) (h_s : s.Good bb pp qq) :
    (State.land s port pl a bs tags).Good bb pp qq := by
  unfold State.land
  try dsimp only
  repeat' (first
    | with_reducible assumption
    | with_reducible apply good_portWrite
    | with_reducible apply good_storeTagged
    | with_reducible apply good_setState
    | with_reducible apply good_setCamBank
    | with_reducible refine good_foldl _ _ ?_ ?_
    | with_reducible refine good_foldr _ _ ?_ ?_
    | simp only [good_mk]
    | simp only [good_mk_gbk]
    | split)

theorem good_copyRow {bb : Prop} {pp : Part} {qq : List Instr} (c : Copy) (acc : State × Bool) (y : ℕ)
    (h_s : acc.1.Good bb pp qq) : (State.copyRow c acc y).1.Good bb pp qq := by
  unfold State.copyRow
  dsimp only
  split
  · exact good_land _ _ _ _ _ _ h_s
  · exact good_land _ _ _ _ _ _ (good_readMem _ _ _ _ h_s)

theorem good_copyRows {bb : Prop} {pp : Part} {qq : List Instr} (c : Copy) (rows : List ℕ) : ∀ (acc : State × Bool), acc.1.Good bb pp qq →
    (rows.foldl (State.copyRow c) acc).1.Good bb pp qq := by
  induction rows with
  | nil => exact fun _ h => h
  | cons y ys ih => exact fun acc h => ih _ (good_copyRow c acc y h)

theorem good_copyEnd {bb : Prop} {pp : Part} {qq : List Instr} (s : State) (c : Copy) (rows : List ℕ) (cancelled : Bool)
    (h_s : s.Good bb pp qq) : (State.copyEnd s c rows cancelled).Good bb pp qq := by
  unfold State.copyEnd
  dsimp only
  refine good_foldl _ _ ?_ ?_
  · have h1 : (rows.foldl (State.copyRow c) (({ s with drc := { s.drc with copy := none } } : State), false)).1.Good bb pp qq :=
      good_copyRows c rows _ (by simpa only [good_mk] using h_s)
    generalize rows.foldl (State.copyRow c) _ = r at h1 ⊢
    have h2 : (if r.2 = true then r.1.wr pgCPY CPY_STAT_POISON 1 else r.1).Good bb pp qq := by
      split
      · exact good_wr _ _ _ _ h1
      · exact h1
    generalize (if r.2 = true then r.1.wr pgCPY CPY_STAT_POISON 1 else r.1) = s1 at h2 ⊢
    have h3 := good_setState _ pgCPY 1 (good_wr _ pgCPY CPY_STAT_ROWS rows.length h2)
    split
    · exact good_raise _ _ _ (good_wr _ _ _ _ h3)
    · split
      · exact good_raise _ _ _ h3
      · exact good_raise _ _ _ (good_wr _ _ _ _ h3)
  · exact fun t w h => good_writeWhen _ _ _ _ h

theorem good_copyErrs {bb : Prop} {pp : Part} {qq : List Instr} (s : State) (c : Copy) (errs : List SramErr) (h_s : s.Good bb pp qq) :
    (State.copyErrs s c errs).Good bb pp qq := by
  unfold State.copyErrs
  try dsimp only
  repeat' (first
    | with_reducible assumption
    | with_reducible apply good_sramErrs
    | with_reducible refine good_foldl _ _ ?_ ?_
    | with_reducible refine good_foldr _ _ ?_ ?_
    | simp only [good_mk]
    | simp only [good_mk_gbk]
    | split)

theorem good_countFlr {bb : Prop} {pp : Part} {qq : List Instr} (s : State) (fn : ℕ) (h_s : s.Good bb pp qq) :
    (State.countFlr s fn).Good bb pp qq := by
  unfold State.countFlr
  try dsimp only
  repeat' (first
    | with_reducible assumption
    | with_reducible apply good_updPcie
    | with_reducible apply good_raise
    | with_reducible apply good_wr
    | with_reducible apply good_incSat)

theorem good_d1Rest {bb : Prop} {pp : Part} {qq : List Instr} (s : State) (p : Profile) (v : ℤ) (h_s : s.Good bb pp qq) :
    (State.d1Rest s p v).1.Good bb pp qq := by
  unfold State.d1Rest
  try dsimp only
  repeat' (first
    | with_reducible assumption
    | with_reducible apply good_draw
    | with_reducible refine good_foldl _ _ ?_ ?_
    | with_reducible refine good_foldr _ _ ?_ ?_
    | simp only [good_mk]
    | simp only [good_mk_gbk]
    | split)

theorem good_d1Rest_eq {bb : Prop} {pp : Part} {qq : List Instr} {s : State} {p : Profile} {v : ℤ} {tOut : State} {zOut : _}
    (h_s : s.Good bb pp qq) (e : State.d1Rest s p v = (tOut, zOut)) : tOut.Good bb pp qq := by
  have := good_d1Rest s p v h_s; rw [e] at this; exact this

theorem good_envelopeDrop {bb : Prop} {pp : Part} {qq : List Instr} (s : State) (h_s : s.Good bb pp qq) :
    (State.envelopeDrop s).Good bb pp qq := by
  unfold State.envelopeDrop
  try dsimp only
  repeat' (first
    | with_reducible assumption
    | with_reducible apply good_updIng
    | with_reducible apply good_incSat
    | with_reducible apply good_raise
    | with_reducible refine good_foldl _ _ ?_ ?_
    | with_reducible refine good_foldr _ _ ?_ ?_
    | split)

theorem good_provePath {bb : Prop} {pp : Part} {qq : List Instr} (s : State) (p : Fin 2) (i : Fin 4) (h_s : s.Good bb pp qq) :
    (State.provePath s p i).Good bb pp qq := by
  unfold State.provePath
  try dsimp only
  repeat' (first
    | with_reducible assumption
    | with_reducible apply good_updPort
    | with_reducible apply good_wr
    | with_reducible refine good_foldl _ _ ?_ ?_
    | with_reducible refine good_foldr _ _ ?_ ?_
    | simp only [good_mk]
    | simp only [good_mk_gbk]
    | split)

theorem good_showCum {bb : Prop} {pp : Part} {qq : List Instr} (s : State) (i : Fin 4) (h_s : s.Good bb pp qq) :
    (State.showCum s i).Good bb pp qq := by
  unfold State.showCum
  try dsimp only
  repeat' (first
    | with_reducible assumption
    | with_reducible apply good_wr
    | with_reducible refine good_foldl _ _ ?_ ?_
    | with_reducible refine good_foldr _ _ ?_ ?_
    | simp only [good_mk]
    | simp only [good_mk_gbk]
    | split)

theorem good_stageTile {bb : Prop} {pp : Part} {qq : List Instr} (s : State) (i : Fin 4) (bs : List Byte) (key : ℕ) (h_s : s.Good bb pp qq) :
    (State.stageTile s i bs key).1.Good bb pp qq := by
  unfold State.stageTile
  try dsimp only
  repeat' (first
    | with_reducible assumption
    | with_reducible apply good_updStm
    | with_reducible apply good_showStaging
    | with_reducible apply good_reject
    | with_reducible apply good_writeMem
    | with_reducible apply good_addTile
    | with_reducible refine good_foldl _ _ ?_ ?_
    | with_reducible refine good_foldr _ _ ?_ ?_
    | simp only [good_mk]
    | simp only [good_mk_gbk]
    | split)

theorem good_stageTile_eq {bb : Prop} {pp : Part} {qq : List Instr} {s : State} {i : Fin 4} {bs : List Byte} {key : ℕ} {tOut : State} {zOut : _}
    (h_s : s.Good bb pp qq) (e : State.stageTile s i bs key = (tOut, zOut)) : tOut.Good bb pp qq := by
  have := good_stageTile s i bs key h_s; rw [e] at this; exact this

theorem good_takeFragment {bb : Prop} {pp : Part} {qq : List Instr} (s : State) (i : Fin 4) (src : List Byte) (bs : List Byte) (payload : List Byte) (h_s : s.Good bb pp qq) :
    (State.takeFragment s i src bs payload).Good bb pp qq := by
  unfold State.takeFragment
  try dsimp only
  repeat' (first
    | with_reducible assumption
    | with_reducible apply good_updStm
    | with_reducible apply good_incSat
    | with_reducible apply good_showCum
    | with_reducible apply good_stageTile
    | with_reducible apply good_showStaging
    | with_reducible apply good_sendAck
    | with_reducible exact good_stageTile_eq (by assumption) (by assumption)
    | with_reducible refine good_foldl _ _ ?_ ?_
    | with_reducible refine good_foldr _ _ ?_ ?_
    | simp only [good_mk]
    | simp only [good_mk_gbk]
    | split)

theorem good_keyUsed {bb : Prop} {pp : Part} {qq : List Instr} (s : State) (i : Fin 4) (bs : List Byte) (h_s : s.Good bb pp qq) :
    (State.keyUsed s i bs).Good bb pp qq := by
  unfold State.keyUsed
  try dsimp only
  repeat' (first
    | with_reducible assumption
    | with_reducible refine good_foldl _ _ ?_ ?_
    | with_reducible refine good_foldr _ _ ?_ ?_
    | simp only [good_mk]
    | simp only [good_mk_gbk]
    | split)

theorem good_datagramIn {bb : Prop} {pp : Part} {qq : List Instr} (s : State) (p : Fin 2) (udp : ℕ) (src : List Byte) (bs : List Byte) (h_s : s.Good bb pp qq) :
    (State.datagramIn s p udp src bs).Good bb pp qq := by
  unfold State.datagramIn
  try dsimp only
  repeat' (first
    | with_reducible assumption
    | with_reducible apply good_inject
    | with_reducible apply good_envelopeDrop
    | with_reducible apply good_incSat
    | with_reducible apply good_provePath
    | with_reducible apply good_updStm
    | with_reducible apply good_atFolly
    | with_reducible apply good_authFail
    | with_reducible apply good_takeFragment
    | with_reducible apply good_keyUsed
    | with_reducible refine good_foldl _ _ ?_ ?_
    | with_reducible refine good_foldr _ _ ?_ ?_
    | simp only [good_mk]
    | simp only [good_mk_gbk]
    | split
    | intro _)

theorem good_defaultSteps {bb : Prop} {pp : Part} {qq : List Instr} (s : State) (x n : Nat) (h_s : s.Good bb pp qq) :
    (State.defaultSteps s x n).Good bb pp qq := by
  induction n with
  | zero => exact h_s
  | succ n ih => exact good_wr _ _ _ _ (good_wr _ _ _ _ ih)

theorem good_descriptorDone {bb : Prop} {pp : Part} {qq : List Instr} (s : State) (i : Fin 4) (code : ℕ) (h_s : s.Good bb pp qq) :
    (State.descriptorDone s i code).Good bb pp qq := by
  unfold State.descriptorDone
  try dsimp only
  repeat' (first
    | with_reducible assumption
    | with_reducible apply good_emit
    | with_reducible apply good_signal
    | with_reducible apply good_wr)

theorem good_tear {bb : Prop} {pp : Part} {qq : List Instr} (s : State) (o : FlashOp) (h_s : s.Good bb pp qq) :
    (State.tear s o).Good bb pp qq := by
  unfold State.tear
  try dsimp only
  repeat' (first
    | with_reducible assumption
    | with_reducible apply good_setFbyte
    | with_reducible apply good_draw
    | with_reducible refine good_foldl _ _ ?_ ?_
    | with_reducible refine good_foldr _ _ ?_ ?_
    | simp only [good_mk]
    | simp only [good_mk_gbk]
    | split
    | intro _)

theorem good_tearOp {bb : Prop} {pp : Part} {qq : List Instr} (s : State) (h_s : s.Good bb pp qq) :
    (State.tearOp s).Good bb pp qq := by
  unfold State.tearOp
  try dsimp only
  repeat' (first
    | with_reducible assumption
    | with_reducible apply good_tear
    | with_reducible refine good_foldl _ _ ?_ ?_
    | with_reducible refine good_foldr _ _ ?_ ?_
    | simp only [good_mk]
    | simp only [good_mk_gbk]
    | split)

theorem good_showRef {bb : Prop} {pp : Part} {qq : List Instr} (s : State) (n : ℕ) (h_s : s.Good bb pp qq) :
    (State.showRef s n).Good bb pp qq := by
  unfold State.showRef
  try dsimp only
  repeat' (first
    | with_reducible assumption
    | with_reducible apply good_wrBit)

theorem good_enterClocks {bb : Prop} {pp : Part} {qq : List Instr} (s : State) (h_s : s.Good bb pp qq) :
    (State.enterClocks s).Good bb pp qq := by
  unfold State.enterClocks
  try dsimp only
  repeat' (first
    | with_reducible assumption
    | with_reducible apply good_setStage
    | with_reducible apply good_startPll
    | with_reducible apply good_showRef
    | with_reducible refine good_foldl _ _ ?_ ?_
    | with_reducible refine good_foldr _ _ ?_ ?_
    | simp only [good_mk]
    | simp only [good_mk_gbk]
    | split)

theorem good_goClocks {bb : Prop} {pp : Part} {qq : List Instr} (s : State) (h_s : s.Good bb pp qq) :
    (State.goClocks s).Good bb pp qq := by
  unfold State.goClocks
  try dsimp only
  repeat' (first
    | with_reducible assumption
    | with_reducible apply good_gbkFlushLate
    | with_reducible apply good_printBack
    | with_reducible apply good_enterClocks)

theorem good_leaveRails {bb : Prop} {pp : Part} {qq : List Instr} (s : State) (h_s : s.Good bb pp qq) :
    (State.leaveRails s).Good bb pp qq := by
  unfold State.leaveRails
  try dsimp only
  repeat' (first
    | with_reducible assumption
    | with_reducible apply good_goClocks
    | with_reducible refine good_foldl _ _ ?_ ?_
    | with_reducible refine good_foldr _ _ ?_ ?_
    | simp only [good_mk]
    | simp only [good_mk_gbk]
    | split)

theorem good_showXtal {bb : Prop} {pp : Part} {qq : List Instr} (s : State) (h_s : s.Good bb pp qq) :
    (State.showXtal s).Good bb pp qq := by
  unfold State.showXtal
  try dsimp only
  repeat' (first
    | with_reducible assumption
    | with_reducible apply good_wrBit
    | with_reducible refine good_foldl _ _ ?_ ?_
    | with_reducible refine good_foldr _ _ ?_ ?_
    | simp only [good_mk]
    | simp only [good_mk_gbk]
    | split
    | intro _)

theorem good_deviceLevel {bb : Prop} {pp : Part} {qq : List Instr} (s0 : State) (h_s : s0.Good bb pp qq) :
    (State.deviceLevel s0).Good bb pp qq := by
  have h : s0.tearOp.Good bb pp qq := good_tearOp s0 h_s
  unfold State.deviceLevel
  dsimp only
  refine good_leaveRails _ (good_setStage _ _ (good_showXtal _ (good_wr _ _ _ _ (good_wr _ _ _ _ ?_))))
  exact ⟨h.1, h.2.1, fun hb => ⟨Tbl.canonical_filter _ _ _ (h.2.2 hb).mem, (h.2.2 hb).flash,
    (h.2.2 hb).queue⟩⟩

theorem good_distrust {bb : Prop} {pp : Part} {qq : List Instr} (s : State) (k : ℕ) (h_s : s.Good bb pp qq) :
    (State.distrust s k).Good bb pp qq := by
  unfold State.distrust
  try dsimp only
  repeat' (first
    | with_reducible assumption
    | with_reducible apply good_updTile
    | with_reducible refine good_foldl _ _ ?_ ?_
    | with_reducible refine good_foldr _ _ ?_ ?_
    | simp only [good_mk]
    | simp only [good_mk_gbk]
    | split)

theorem good_domainUp {bb : Prop} {pp : Part} {qq : List Instr} (s : State) (d : Fin 7) (h_s : s.Good bb pp qq) :
    (State.domainUp s d).Good bb pp qq := by
  unfold State.domainUp
  try dsimp only
  repeat' (first
    | with_reducible assumption
    | with_reducible apply good_backUp
    | with_reducible apply good_sysFollow
    | with_reducible apply good_printBack
    | with_reducible apply good_netBack)

theorem good_domainClocked {bb : Prop} {pp : Part} {qq : List Instr} (s : State) (d : Fin 7) (h_s : s.Good bb pp qq) :
    (State.domainClocked s d).Good bb pp qq := by
  unfold State.domainClocked
  try dsimp only
  repeat' (first
    | with_reducible assumption
    | with_reducible apply good_react
    | with_reducible apply good_domainUp
    | with_reducible refine good_foldl _ _ ?_ ?_
    | with_reducible refine good_foldr _ _ ?_ ?_
    | simp only [good_mk]
    | simp only [good_mk_gbk]
    | split)

theorem good_serveNext {bb : Prop} {pp : Part} {qq : List Instr} (s : State) (h_s : s.Good bb pp qq) :
    (State.serveNext s).Good bb pp qq := by
  unfold State.serveNext
  try dsimp only
  repeat' (first
    | with_reducible assumption
    | with_reducible apply good_serveReq
    | with_reducible refine good_foldl _ _ ?_ ?_
    | with_reducible refine good_foldr _ _ ?_ ?_
    | simp only [good_mk]
    | simp only [good_mk_gbk]
    | split)

theorem good_dramAsk {bb : Prop} {pp : Part} {qq : List Instr} (s : State) (q : DramReq) (h_s : s.Good bb pp qq) :
    (State.dramAsk s q).Good bb pp qq := by
  unfold State.dramAsk
  try dsimp only
  repeat' (first
    | with_reducible assumption
    | with_reducible apply good_serveReq
    | with_reducible apply good_memWake
    | with_reducible apply good_serveNext
    | with_reducible refine good_foldl _ _ ?_ ?_
    | with_reducible refine good_foldr _ _ ?_ ?_
    | simp only [good_mk]
    | simp only [good_mk_gbk]
    | split)

theorem good_dramLost {bb : Prop} {pp : Part} {qq : List Instr} (s : State) (h_s : s.Good bb pp qq) :
    (State.dramLost s).Good bb pp qq :=
  ⟨h_s.1, h_s.2.1, fun hb => ⟨Tbl.canonical_filter _ _ _ (h_s.2.2 hb).mem, (h_s.2.2 hb).flash,
    (h_s.2.2 hb).queue⟩⟩

theorem good_dropEnds {bb : Prop} {pp : Part} {qq : List Instr} (s : State) (d : Fin 7) (h_s : s.Good bb pp qq) :
    (State.dropEnds s d).Good bb pp qq := by
  unfold State.dropEnds
  try dsimp only
  repeat' (first
    | with_reducible assumption
    | with_reducible apply good_setPhase
    | with_reducible refine good_foldl _ _ ?_ ?_
    | with_reducible refine good_foldr _ _ ?_ ?_
    | simp only [good_mk]
    | simp only [good_mk_gbk]
    | split)

theorem good_dropLine {bb : Prop} {pp : Part} {qq : List Instr} (s : State) (h : ℕ) (n : ℕ) (h_s : s.Good bb pp qq) :
    (State.dropLine s h n).Good bb pp qq := by
  unfold State.dropLine
  try dsimp only
  repeat' (first
    | with_reducible assumption
    | with_reducible apply good_updRib)

theorem good_lanesDark {bb : Prop} {pp : Part} {qq : List Instr} (s : State) (h_s : s.Good bb pp qq) :
    (State.lanesDark s).Good bb pp qq := by
  unfold State.lanesDark
  try dsimp only
  repeat' (first
    | with_reducible assumption
    | with_reducible apply good_laneGone
    | with_reducible refine good_foldl _ _ ?_ ?_
    | with_reducible refine good_foldr _ _ ?_ ?_
    | simp only [good_mk]
    | simp only [good_mk_gbk]
    | split
    | intro _)

theorem good_senseRefs {bb : Prop} {pp : Part} {qq : List Instr} (s : State) (d : Fin 7) (h_s : s.Good bb pp qq) :
    (State.senseRefs s d).Good bb pp qq := by
  unfold State.senseRefs
  try dsimp only
  repeat' (first
    | with_reducible assumption
    | with_reducible apply good_showRef
    | with_reducible refine good_foldl _ _ ?_ ?_)

theorem good_openSwitch {bb : Prop} {pp : Part} {qq : List Instr} (s : State) (d : Fin 7) (h_s : s.Good bb pp qq) :
    (State.openSwitch s d).Good bb pp qq := by
  unfold State.openSwitch
  try dsimp only
  repeat' (first
    | with_reducible assumption
    | with_reducible apply good_stopPll
    | with_reducible apply good_lanesDark
    | with_reducible apply good_senseRefs
    | with_reducible apply good_setPhase
    | with_reducible refine good_foldl _ _ ?_ ?_
    | with_reducible refine good_foldr _ _ ?_ ?_
    | simp only [good_mk]
    | simp only [good_mk_gbk]
    | split)

theorem good_dropStep {bb : Prop} {pp : Part} {qq : List Instr} (s : State) (d : Fin 7) (h_s : s.Good bb pp qq) :
    (State.dropStep s d).Good bb pp qq := by
  unfold State.dropStep
  try dsimp only
  repeat' (first
    | with_reducible assumption
    | with_reducible apply good_openSwitch
    | with_reducible apply good_dropEnds
    | with_reducible refine good_foldl _ _ ?_ ?_
    | with_reducible refine good_foldr _ _ ?_ ?_
    | simp only [good_mk]
    | simp only [good_mk_gbk]
    | split)

theorem good_posMove {bb : Prop} {pp : Part} {qq : List Instr} (s : State) (d : ℤ) (h_s : s.Good bb pp qq) :
    (State.posMove s d).Good bb pp qq := by
  unfold State.posMove
  try dsimp only
  repeat' (first
    | with_reducible assumption
    | with_reducible apply good_setPos
    | with_reducible apply good_setHwm
    | with_reducible refine good_foldl _ _ ?_ ?_
    | with_reducible refine good_foldr _ _ ?_ ?_
    | simp only [good_mk]
    | simp only [good_mk_gbk]
    | split)

theorem good_encMove {bb : Prop} {pp : Part} {qq : List Instr} (s : State) (n : Fin 3) (d : ℤ) (h_s : s.Good bb pp qq) :
    (State.encMove s n d).Good bb pp qq := by
  unfold State.encMove
  try dsimp only
  repeat' (first
    | with_reducible assumption
    | with_reducible apply good_wr2
    | with_reducible apply good_updEnc
    | with_reducible apply good_posMove
    | with_reducible apply good_updSdl
    | with_reducible apply good_checkShow
    | with_reducible refine good_foldl _ _ ?_ ?_
    | with_reducible refine good_foldr _ _ ?_ ?_
    | simp only [good_mk]
    | simp only [good_mk_gbk]
    | split)

theorem good_fecCount {bb : Prop} {pp : Part} {qq : List Instr} (s : State) (p : Fin 2) (f : RxFrame) (h_s : s.Good bb pp qq) :
    (State.fecCount s p f).Good bb pp qq := by
  unfold State.fecCount
  try dsimp only
  repeat' (first
    | with_reducible assumption
    | with_reducible apply good_addSat
    | with_reducible refine good_foldl _ _ ?_ ?_
    | with_reducible refine good_foldr _ _ ?_ ?_
    | simp only [good_mk]
    | simp only [good_mk_gbk]
    | split)

theorem good_fenceAll {bb : Prop} {pp : Part} {qq : List Instr} (s : State) (h_s : s.Good bb pp qq) :
    (State.fenceAll s).Good bb pp qq := by
  unfold State.fenceAll
  try dsimp only
  repeat' (first
    | with_reducible assumption
    | with_reducible apply good_updStm
    | with_reducible apply good_updVni
    | with_reducible apply good_frameLeft
    | with_reducible refine good_foldl _ _ ?_ ?_
    | with_reducible refine good_foldr _ _ ?_ ?_
    | simp only [good_mk]
    | simp only [good_mk_gbk]
    | split
    | intro _)

theorem good_fencesDone {bb : Prop} {pp : Part} {qq : List Instr} (s : State) (h_s : s.Good bb pp qq) :
    (State.fencesDone s).Good bb pp qq := by
  unfold State.fencesDone
  try dsimp only
  repeat' (first
    | with_reducible assumption
    | with_reducible apply good_emit
    | with_reducible refine good_foldl _ _ ?_ ?_
    | with_reducible refine good_foldr _ _ ?_ ?_
    | simp only [good_mk]
    | simp only [good_mk_gbk]
    | split
    | intro _)

theorem good_fetch {bb : Prop} {pp : Part} {qq : List Instr} (s : State) (e : ℕ × ℕ) (h_s : s.Good bb pp qq) :
    (State.fetch s e).Good bb pp qq := by
  unfold State.fetch
  try dsimp only
  repeat' (first
    | with_reducible assumption
    | with_reducible apply good_emit)

theorem good_releaseHead {bb : Prop} {pp : Part} {qq : List Instr} (s : State) (h : ℕ) (h_s : s.Good bb pp qq) :
    (State.releaseHead s h).Good bb pp qq := by
  unfold State.releaseHead
  try dsimp only
  repeat' (first
    | with_reducible assumption
    | with_reducible apply good_wr
    | with_reducible apply good_updFir
    | with_reducible refine good_foldl _ _ ?_ ?_
    | with_reducible refine good_foldr _ _ ?_ ?_
    | simp only [good_mk]
    | simp only [good_mk_gbk]
    | split)

theorem good_rearmAtHit {bb : Prop} {pp : Part} {qq : List Instr} (s : State) (h : ℕ) (h_s : s.Good bb pp qq) :
    (State.rearmAtHit s h).Good bb pp qq := by
  unfold State.rearmAtHit
  try dsimp only
  repeat' (first
    | with_reducible assumption
    | with_reducible apply good_releaseHead
    | with_reducible refine good_foldl _ _ ?_ ?_
    | with_reducible refine good_foldr _ _ ?_ ?_
    | simp only [good_mk]
    | simp only [good_mk_gbk]
    | split)

theorem good_latchFactor {bb : Prop} {pp : Part} {qq : List Instr} (s : State) (h : ℕ) (e : ℕ × Bool) (h_s : s.Good bb pp qq) :
    (State.latchFactor s h e).Good bb pp qq := by
  unfold State.latchFactor
  try dsimp only
  repeat' (first
    | with_reducible assumption
    | with_reducible apply good_updFir
    | with_reducible apply good_wrBit
    | with_reducible apply good_wr
    | with_reducible apply good_incSat
    | with_reducible apply good_raise
    | with_reducible refine good_foldl _ _ ?_ ?_
    | with_reducible refine good_foldr _ _ ?_ ?_
    | simp only [good_mk]
    | simp only [good_mk_gbk]
    | split)

theorem good_missLine {bb : Prop} {pp : Part} {qq : List Instr} (s : State) (h : ℕ) (tag : Byte) (cause : ℕ) (h_s : s.Good bb pp qq) :
    (State.missLine s h tag cause).Good bb pp qq := by
  unfold State.missLine
  try dsimp only
  repeat' (first
    | with_reducible assumption
    | with_reducible apply good_incSat
    | with_reducible apply good_wr
    | with_reducible apply good_updFir
    | with_reducible apply good_raise
    | with_reducible refine good_foldl _ _ ?_ ?_
    | with_reducible refine good_foldr _ _ ?_ ?_
    | simp only [good_mk]
    | simp only [good_mk_gbk]
    | split)

theorem good_genSpans {bb : Prop} {pp : Part} {qq : List Instr} (s : State) (h : ℕ) (t0 : ℕ) (t : Train) (h_s : s.Good bb pp qq) :
    (State.genSpans s h t0 t).1.Good bb pp qq := by
  unfold State.genSpans
  try dsimp only
  repeat' (first
    | with_reducible assumption
    | with_reducible apply good_inject
    | with_reducible refine good_foldl _ _ ?_ ?_
    | with_reducible refine good_foldr _ _ ?_ ?_
    | simp only [good_mk]
    | simp only [good_mk_gbk]
    | split)

theorem good_genSpans_eq {bb : Prop} {pp : Part} {qq : List Instr} {s : State} {h : ℕ} {t0 : ℕ} {t : Train} {tOut : State} {zOut : _}
    (h_s : s.Good bb pp qq) (e : State.genSpans s h t0 t = (tOut, zOut)) : tOut.Good bb pp qq := by
  have := good_genSpans s h t0 t h_s; rw [e] at this; exact this

theorem good_startTrain {bb : Prop} {pp : Part} {qq : List Instr} (s : State) (h : ℕ) (t0 : ℕ) (t : Train) (h_s : s.Good bb pp qq) :
    (State.startTrain s h t0 t).Good bb pp qq := by
  unfold State.startTrain
  try dsimp only
  repeat' (first
    | with_reducible assumption
    | with_reducible apply good_genSpans
    | with_reducible apply good_add2
    | with_reducible apply good_updFir
    | with_reducible apply good_incSat
    | with_reducible apply good_emit
    | with_reducible exact good_genSpans_eq (by assumption) (by assumption)
    | with_reducible refine good_foldl _ _ ?_ ?_
    | with_reducible refine good_foldr _ _ ?_ ?_
    | simp only [good_mk]
    | simp only [good_mk_gbk]
    | split)

theorem good_fireLine {bb : Prop} {pp : Part} {qq : List Instr} (s0 : State) (h : ℕ) (line : ℕ) (levels : List ℕ) (sent : Bool) (edge : ℤ) (h_s0 : s0.Good bb pp qq) :
    (State.fireLine s0 h line levels sent edge).Good bb pp qq := by
  unfold State.fireLine
  try dsimp only
  repeat' (first
    | with_reducible assumption
    | with_reducible apply good_rearmAtHit
    | with_reducible apply good_latchFactor
    | with_reducible apply good_missLine
    | with_reducible apply good_updFir
    | with_reducible apply good_startTrain
    | with_reducible refine good_foldl _ _ ?_ ?_
    | with_reducible refine good_foldr _ _ ?_ ?_
    | simp only [good_mk]
    | simp only [good_mk_gbk]
    | split)

theorem good_flashEnd {bb : Prop} {pp : Part} {qq : List Instr} (s : State) (reason : Option ℕ) (h_s : s.Good bb pp qq) :
    (State.flashEnd s reason).Good bb pp qq := by
  unfold State.flashEnd
  try dsimp only
  repeat' (first
    | with_reducible assumption
    | with_reducible apply good_setState
    | with_reducible apply good_setBusy
    | with_reducible apply good_setFsh
    | with_reducible apply good_raise
    | with_reducible apply good_wr
    | with_reducible refine good_foldl _ _ ?_ ?_
    | with_reducible refine good_foldr _ _ ?_ ?_
    | simp only [good_mk]
    | simp only [good_mk_gbk]
    | split)

theorem good_setVerified {bb : Prop} {pp : Part} {qq : List Instr} (s : State) (slot : ℕ) (v : Bool) (h_s : s.Good bb pp qq) :
    (State.setVerified s slot v).Good bb pp qq := by
  unfold State.setVerified
  try dsimp only
  repeat' (first
    | with_reducible assumption
    | with_reducible apply good_wr)

theorem good_takePage {bb : Prop} {pp : Part} {qq : List Instr} (s : State) (o : FlashOp) (h_s : s.Good bb pp qq) :
    (State.takePage s o).Good bb pp qq := by
  unfold State.takePage
  try dsimp only
  repeat' (first
    | with_reducible assumption
    | with_reducible apply good_readMem
    | with_reducible apply good_flashEnd
    | with_reducible apply good_setFsh
    | with_reducible exact good_readMem_eq (by assumption) (by assumption)
    | with_reducible refine good_foldl _ _ ?_ ?_
    | with_reducible refine good_foldr _ _ ?_ ?_
    | simp only [good_mk]
    | simp only [good_mk_gbk]
    | split)

theorem good_flashStart {bb : Prop} {pp : Part} {qq : List Instr} (s : State) (kind : FlashKind) (h_s : s.Good bb pp qq) :
    (State.flashStart s kind).Good bb pp qq := by
  unfold State.flashStart
  try dsimp only
  repeat' (first
    | with_reducible assumption
    | with_reducible apply good_setState
    | with_reducible apply good_setBusy
    | with_reducible apply good_setFsh
    | with_reducible apply good_setVerified
    | with_reducible apply good_takePage
    | with_reducible refine good_foldl _ _ ?_ ?_
    | with_reducible refine good_foldr _ _ ?_ ?_
    | simp only [good_mk]
    | simp only [good_mk_gbk]
    | split
    | intro _)

theorem good_flightBegin {bb : Prop} {pp : Part} {qq : List Instr} (s : State) (h : ℕ) (line : ℕ) (h_s : s.Good bb pp qq) :
    (State.flightBegin s h line).Good bb pp qq := by
  unfold State.flightBegin
  try dsimp only
  repeat' (first
    | with_reducible assumption
    | with_reducible apply good_updOnk)

theorem good_flush {bb : Prop} {pp : Part} {qq : List Instr} (s : State) (h : ℕ) (h_s : s.Good bb pp qq) :
    (State.flush s h).Good bb pp qq := by
  unfold State.flush
  try dsimp only
  repeat' (first
    | with_reducible assumption
    | with_reducible apply good_wr
    | with_reducible apply good_updOnk
    | with_reducible apply good_failFlights
    | with_reducible apply good_sendBlock
    | with_reducible refine good_foldl _ _ ?_ ?_
    | with_reducible refine good_foldr _ _ ?_ ?_
    | simp only [good_mk]
    | simp only [good_mk_gbk]
    | split)

theorem good_fntWatch {bb : Prop} {pp : Part} {qq : List Instr} (s : State) (code : ℕ) (p : ℤ) (h_s : s.Good bb pp qq) :
    (State.fntWatch s code p).Good bb pp qq := by
  unfold State.fntWatch
  try dsimp only
  repeat' (first
    | with_reducible assumption
    | with_reducible apply good_updFnt)

theorem good_fntSample {bb : Prop} {pp : Part} {qq : List Instr} (s : State) (h_s : s.Good bb pp qq) :
    (State.fntSample s).Good bb pp qq := by
  unfold State.fntSample
  try dsimp only
  repeat' (first
    | with_reducible assumption
    | with_reducible apply good_updFnt
    | with_reducible apply good_wrS
    | with_reducible apply good_fntWatch
    | with_reducible apply good_showFnt
    | with_reducible apply good_wrBit
    | with_reducible apply good_wr
    | with_reducible refine good_foldl _ _ ?_ ?_
    | with_reducible refine good_foldr _ _ ?_ ?_
    | simp only [good_mk]
    | simp only [good_mk_gbk]
    | split)

theorem good_forceSweep {bb : Prop} {pp : Part} {qq : List Instr} (s : State) (c : Fin 2) (h_s : s.Good bb pp qq) :
    (State.forceSweep s c).Good bb pp qq := by
  unfold State.forceSweep
  try dsimp only
  repeat' (first
    | with_reducible assumption
    | with_reducible apply good_updChan
    | with_reducible apply good_wr
    | with_reducible apply good_setState)

theorem good_vniDeliver {bb : Prop} {pp : Part} {qq : List Instr} (s : State) (bs : List Byte) (age : ℕ) (rxLat : ℕ) (h_s : s.Good bb pp qq) :
    (State.vniDeliver s bs age rxLat).Good bb pp qq := by
  unfold State.vniDeliver
  try dsimp only
  repeat' (first
    | with_reducible assumption
    | with_reducible apply good_incSat
    | with_reducible apply good_emit
    | with_reducible apply good_signal
    | with_reducible apply good_wr
    | with_reducible refine good_foldl _ _ ?_ ?_
    | with_reducible refine good_foldr _ _ ?_ ?_
    | simp only [good_mk]
    | simp only [good_mk_gbk]
    | split)

theorem good_frameIn {bb : Prop} {pp : Part} {qq : List Instr} (s : State) (p : Fin 2) (f : RxFrame) (h_s : s.Good bb pp qq) :
    (State.frameIn s p f).Good bb pp qq := by
  unfold State.frameIn
  try dsimp only
  repeat' (first
    | with_reducible assumption
    | with_reducible apply good_incSat
    | with_reducible apply good_vniDeliver
    | with_reducible apply good_datagramIn
    | with_reducible apply good_emit
    | with_reducible apply good_ownSent
    | with_reducible refine good_foldl _ _ ?_ ?_
    | with_reducible refine good_foldr _ _ ?_ ?_
    | simp only [good_mk]
    | simp only [good_mk_gbk]
    | split)

theorem good_sendLine {bb : Prop} {pp : Part} {qq : List Instr} (s : State) (h : ℕ) (line : ℕ) (levels : List ℕ) (sync : Bool) (h_s : s.Good bb pp qq) :
    (State.sendLine s h line levels sync).Good bb pp qq := by
  unfold State.sendLine
  try dsimp only
  repeat' (first
    | with_reducible assumption
    | with_reducible apply good_inject
    | with_reducible apply good_sendBlock
    | with_reducible refine good_foldl _ _ ?_ ?_
    | with_reducible refine good_foldr _ _ ?_ ?_
    | simp only [good_mk]
    | simp only [good_mk_gbk]
    | split)

theorem good_frameLine {bb : Prop} {pp : Part} {qq : List Instr} (s : State) (h : ℕ) (line : ℕ) (levels : List ℕ) (h_s : s.Good bb pp qq) :
    (State.frameLine s h line levels).Good bb pp qq := by
  unfold State.frameLine
  try dsimp only
  repeat' (first
    | with_reducible assumption
    | with_reducible apply good_updOnk
    | with_reducible apply good_draw
    | with_reducible apply good_sendLine
    | with_reducible apply good_commitBefore
    | with_reducible apply good_wr
    | with_reducible apply good_add2
    | with_reducible refine good_foldl _ _ ?_ ?_
    | with_reducible refine good_foldr _ _ ?_ ?_
    | simp only [good_mk]
    | simp only [good_mk_gbk]
    | split)

theorem good_fresh {bb : Prop} {pp : Part} {qq : List Instr} (s : State) (h_s : s.Good bb pp qq) :
    (State.fresh s).Good bb pp qq := by
  unfold State.fresh
  try dsimp only
  repeat' (first
    | with_reducible assumption
    | with_reducible refine good_foldl _ _ ?_ ?_
    | with_reducible refine good_foldr _ _ ?_ ?_
    | simp only [good_mk])

theorem good_fuseRepairs {bb : Prop} {pp : Part} {qq : List Instr} (s : State) (h_s : s.Good bb pp qq) :
    (State.fuseRepairs s).Good bb pp qq := by
  unfold State.fuseRepairs
  try dsimp only
  repeat' (first
    | with_reducible assumption
    | with_reducible apply good_record
    | with_reducible apply good_wr
    | with_reducible refine good_foldl _ _ ?_ ?_
    | with_reducible refine good_foldr _ _ ?_ ?_
    | simp only [good_mk]
    | simp only [good_mk_gbk]
    | split)

theorem good_gangMove {bb : Prop} {pp : Part} {qq : List Instr} (s : State) (a : ℕ) (code : ℕ) (m : ℤ → Motion) (h_s : s.Good bb pp qq) :
    (State.gangMove s a code m).Good bb pp qq := by
  unfold State.gangMove
  try dsimp only
  repeat' (first
    | with_reducible assumption
    | with_reducible apply good_setMotion
    | with_reducible apply good_updAxis
    | with_reducible refine good_foldl _ _ ?_ ?_
    | with_reducible refine good_foldr _ _ ?_ ?_
    | simp only [good_mk]
    | simp only [good_mk_gbk]
    | split
    | intro _)

theorem good_gbkDrain {bb : Prop} {pp : Part} {qq : List Instr} (s : State) (h_s : s.Good bb pp qq) :
    (State.gbkDrain s).Good bb pp qq := by
  unfold State.gbkDrain
  split
  · exact h_s
  · rename_i e rest hq
    have h1 : State.Good bb pp qq { s with gbk := { s.gbk with queue := rest } } :=
      ⟨h_s.1, h_s.2.1, fun hb => ⟨(h_s.2.2 hb).mem, (h_s.2.2 hb).flash, by
        have := (h_s.2.2 hb).queue
        rw [hq, List.length_cons] at this
        exact Nat.le_of_succ_le this⟩⟩
    dsimp only
    refine good_gbkCheck _ (good_inc _ _ _ (good_setBytes _ _ _ ?_))
    split
    · exact good_incSat _ _ _ h1
    · exact h1

theorem good_headSample {bb : Prop} {pp : Part} {qq : List Instr} (s : State) (c : ℕ) (h : ℕ) (h_s : s.Good bb pp qq) :
    (State.headSample s c h).Good bb pp qq := by
  unfold State.headSample
  try dsimp only
  repeat' (first
    | with_reducible assumption
    | with_reducible apply good_updFir
    | with_reducible apply good_inject
    | with_reducible refine good_foldl _ _ ?_ ?_
    | with_reducible refine good_foldr _ _ ?_ ?_
    | simp only [good_mk]
    | simp only [good_mk_gbk]
    | split)

theorem good_takeFlight {bb : Prop} {pp : Part} {qq : List Instr} (s : State) (h : ℕ) (line : ℕ) (h_s : s.Good bb pp qq) :
    (State.takeFlight s h line).1.Good bb pp qq := by
  unfold State.takeFlight
  try dsimp only
  repeat' (first
    | with_reducible assumption
    | with_reducible apply good_updOnk
    | with_reducible apply good_incSat
    | with_reducible refine good_foldl _ _ ?_ ?_
    | with_reducible refine good_foldr _ _ ?_ ?_
    | simp only [good_mk]
    | simp only [good_mk_gbk]
    | split)

theorem good_takeFlight_eq {bb : Prop} {pp : Part} {qq : List Instr} {s : State} {h : ℕ} {line : ℕ} {tOut : State} {zOut : _}
    (h_s : s.Good bb pp qq) (e : State.takeFlight s h line = (tOut, zOut)) : tOut.Good bb pp qq := by
  have := good_takeFlight s h line h_s; rw [e] at this; exact this

theorem good_sentLine {bb : Prop} {pp : Part} {qq : List Instr} (s : State) (h : ℕ) (sent : Bool) (h_s : s.Good bb pp qq) :
    (State.sentLine s h sent).1.Good bb pp qq := by
  unfold State.sentLine
  try dsimp only
  repeat' (first
    | with_reducible assumption
    | with_reducible apply good_inject
    | with_reducible refine good_foldl _ _ ?_ ?_
    | with_reducible refine good_foldr _ _ ?_ ?_
    | simp only [good_mk]
    | simp only [good_mk_gbk]
    | split)

theorem good_sentLine_eq {bb : Prop} {pp : Part} {qq : List Instr} {s : State} {h : ℕ} {sent : Bool} {tOut : State} {zOut : _}
    (h_s : s.Good bb pp qq) (e : State.sentLine s h sent = (tOut, zOut)) : tOut.Good bb pp qq := by
  have := good_sentLine s h sent h_s; rw [e] at this; exact this

theorem good_qlpHit {bb : Prop} {pp : Part} {qq : List Instr} (s : State) (h : ℕ) (line : ℕ) (void : Bool) (h_s : s.Good bb pp qq) :
    (State.qlpHit s h line void).Good bb pp qq := by
  unfold State.qlpHit
  try dsimp only
  repeat' (first
    | with_reducible assumption
    | with_reducible apply good_setQlines)

theorem good_strike {bb : Prop} {pp : Part} {qq : List Instr} (s : State) (h : ℕ) (line : ℕ) (edge : ℤ) (h_s : s.Good bb pp qq) :
    (State.strike s h line edge).Good bb pp qq := by
  unfold State.strike
  try dsimp only
  repeat' (first
    | with_reducible assumption
    | with_reducible apply good_commitAtLine
    | with_reducible apply good_takeFlight
    | with_reducible apply good_sentLine
    | with_reducible apply good_rearmAtHit
    | with_reducible apply good_fireLine
    | with_reducible apply good_updOnk
    | with_reducible apply good_skipLine
    | with_reducible apply good_qlpHit
    | with_reducible exact good_takeFlight_eq (by assumption) (by assumption)
    | with_reducible exact good_sentLine_eq (by assumption) (by assumption)
    | with_reducible refine good_foldl _ _ ?_ ?_
    | with_reducible refine good_foldr _ _ ?_ ?_
    | simp only [good_mk]
    | simp only [good_mk_gbk]
    | split)

theorem good_hitNext {bb : Prop} {pp : Part} {qq : List Instr} (s : State) (h : ℕ) (h_s : s.Good bb pp qq) :
    (State.hitNext s h).Good bb pp qq := by
  unfold State.hitNext
  try dsimp only
  repeat' (first
    | with_reducible assumption
    | with_reducible apply good_inject
    | with_reducible apply good_raise
    | with_reducible apply good_incSat
    | with_reducible apply good_strike
    | with_reducible apply good_updHsc
    | with_reducible apply good_showNext
    | with_reducible apply good_wr
    | with_reducible refine good_foldl _ _ ?_ ?_
    | with_reducible refine good_foldr _ _ ?_ ?_
    | simp only [good_mk]
    | simp only [good_mk_gbk]
    | split)

theorem good_homeDone {bb : Prop} {pp : Part} {qq : List Instr} (s : State) (a : ℕ) (m : Homing) (latch : ℤ) (h_s : s.Good bb pp qq) :
    (State.homeDone s a m latch).Good bb pp qq := by
  unfold State.homeDone
  try dsimp only
  repeat' (first
    | with_reducible assumption
    | with_reducible apply good_updAxis
    | with_reducible apply good_wr
    | with_reducible apply good_axisClear
    | with_reducible apply good_retractHigh
    | with_reducible apply good_endMove)

theorem good_hostReset {bb : Prop} {pp : Part} {qq : List Instr} (s : State) (why : ℕ) (h_s : s.Good bb pp qq) :
    (State.hostReset s why).Good bb pp qq := by
  unfold State.hostReset
  try dsimp only
  repeat' (first
    | with_reducible assumption
    | with_reducible apply good_resetPage
    | with_reducible apply good_updStm
    | with_reducible apply good_arcFail
    | with_reducible apply good_record
    | with_reducible refine good_foldl _ _ ?_ ?_
    | with_reducible refine good_foldr _ _ ?_ ?_
    | simp only [good_mk]
    | simp only [good_mk_gbk]
    | split
    | intro _)

theorem good_indexLatch {bb : Prop} {pp : Part} {qq : List Instr} (s : State) (n : Fin 3) (c : Pos) (h_s : s.Good bb pp qq) :
    (State.indexLatch s n c).Good bb pp qq := by
  unfold State.indexLatch
  try dsimp only
  repeat' (first
    | with_reducible assumption
    | with_reducible apply good_updEnc
    | with_reducible apply good_wr
    | with_reducible apply good_wr2
    | with_reducible apply good_wrS
    | with_reducible apply good_updSdl
    | with_reducible apply good_raise
    | with_reducible refine good_foldl _ _ ?_ ?_
    | with_reducible refine good_foldr _ _ ?_ ?_
    | simp only [good_mk]
    | simp only [good_mk_gbk]
    | split)

theorem good_injectPart {bb : Prop} {pp : Part} {qq : List Instr} (s : State) (page : ℕ) (h_s : s.Good bb pp qq) :
    (State.injectPart s page).Good bb pp qq := by
  unfold State.injectPart
  try dsimp only
  repeat' (first
    | with_reducible assumption
    | with_reducible apply good_updFolly
    | with_reducible apply good_inject
    | with_reducible refine good_foldl _ _ ?_ ?_
    | with_reducible refine good_foldr _ _ ?_ ?_
    | simp only [good_mk]
    | simp only [good_mk_gbk]
    | split)

theorem good_judge {bb : Prop} {pp : Part} {qq : List Instr} (s : State) (r : Req) (page : ℕ) (code : ℕ) (arg : BitVec 16) (zeroArg : Bool) (whenOff : Bool) (causes : List (Bool × ℕ)) (effect : State → State) (h_s : s.Good bb pp qq) (h_effect : ∀ t : State, t.Good bb pp qq → (effect t).Good bb pp qq) :
    (State.judge s r page code arg zeroArg whenOff causes effect).Good bb pp qq := by
  unfold State.judge
  try dsimp only
  repeat' (first
    | with_reducible assumption
    | with_reducible apply h_effect
    | with_reducible apply good_setResult
    | with_reducible apply good_refuse
    | with_reducible refine good_foldl _ _ ?_ ?_
    | with_reducible refine good_foldr _ _ ?_ ?_
    | simp only [good_mk]
    | simp only [good_mk_gbk]
    | split)

end Sys2Proof.Machine
end

