-- ==== Sys2Proof/Laws/Keep5.lean ====
section
/-! SUPPORT. Part 5 of 8: every operation and every meaning keeps the part, the queue and
the canonical forms (`State.Good`), one lemma per definition, in the order of the definitions. -/

namespace Sys2Proof.Machine

theorem good_judgeDuty {bb : Prop} {pp : Part} {qq : List Instr} (s : State) (h : ℕ) (was : ℕ) (more : ℕ) (h_s : s.Good bb pp qq) :
    (State.judgeDuty s h was more).Good bb pp qq := by
  unfold State.judgeDuty
  try dsimp only
  repeat' (first
    | with_reducible assumption
    | with_reducible apply good_wr
    | with_reducible apply good_cutHead
    | with_reducible apply good_qlpCut
    | with_reducible refine good_foldl _ _ ?_ ?_
    | with_reducible refine good_foldr _ _ ?_ ?_
    | simp only [good_mk]
    | simp only [good_mk_gbk]
    | split)

theorem good_judgeSpeed {bb : Prop} {pp : Part} {qq : List Instr} (s : State) (h_s : s.Good bb pp qq) :
    (State.judgeSpeed s).Good bb pp qq := by
  unfold State.judgeSpeed
  try dsimp only
  repeat' (first
    | with_reducible assumption
    | with_reducible apply good_updSdl
    | with_reducible refine good_foldl _ _ ?_ ?_
    | with_reducible refine good_foldr _ _ ?_ ?_
    | simp only [good_mk]
    | simp only [good_mk_gbk]
    | split)

theorem good_setWinCount {bb : Prop} {pp : Part} {qq : List Instr} (s : State) (w : ℕ) (n : ℕ) (h_s : s.Good bb pp qq) :
    (State.setWinCount s w n).Good bb pp qq := by
  unfold State.setWinCount
  try dsimp only
  repeat' (first
    | with_reducible assumption
    | with_reducible refine good_foldl _ _ ?_ ?_
    | with_reducible refine good_foldr _ _ ?_ ?_
    | simp only [good_mk]
    | simp only [good_mk_gbk]
    | split)

theorem good_judgeWindow {bb : Prop} {pp : Part} {qq : List Instr} (s : State) (w : ℕ) (code : ℕ) (h_s : s.Good bb pp qq) :
    (State.judgeWindow s w code).1.Good bb pp qq := by
  unfold State.judgeWindow
  try dsimp only
  repeat' (first
    | with_reducible assumption
    | with_reducible apply good_inject
    | with_reducible apply good_setWinCount
    | with_reducible refine good_foldl _ _ ?_ ?_
    | with_reducible refine good_foldr _ _ ?_ ?_
    | simp only [good_mk]
    | simp only [good_mk_gbk]
    | split)

theorem good_judgeWindow_eq {bb : Prop} {pp : Part} {qq : List Instr} {s : State} {w : ℕ} {code : ℕ} {tOut : State} {zOut : _}
    (h_s : s.Good bb pp qq) (e : State.judgeWindow s w code = (tOut, zOut)) : tOut.Good bb pp qq := by
  have := good_judgeWindow s w code h_s; rw [e] at this; exact this

theorem good_keyReject {bb : Prop} {pp : Part} {qq : List Instr} (s : State) (result : ℕ) (h_s : s.Good bb pp qq) :
    (State.keyReject s result).Good bb pp qq := by
  unfold State.keyReject
  try dsimp only
  repeat' (first
    | with_reducible assumption
    | with_reducible apply good_raise
    | with_reducible apply good_wr)

theorem good_setOuts {bb : Prop} {pp : Part} {qq : List Instr} (s : State) (ks : List ℕ) (f : Fld) (b : Bool) (h_s : s.Good bb pp qq) :
    (State.setOuts s ks f b).Good bb pp qq := by
  unfold State.setOuts
  try dsimp only
  repeat' (first
    | with_reducible assumption
    | with_reducible apply good_publish
    | with_reducible apply good_kioskMove
    | with_reducible apply good_wrBit
    | with_reducible refine good_foldl _ _ ?_ ?_
    | with_reducible refine good_foldr _ _ ?_ ?_
    | simp only [good_mk]
    | simp only [good_mk_gbk]
    | split
    | intro _)

theorem good_setOut {bb : Prop} {pp : Part} {qq : List Instr} (s : State) (k : ℕ) (f : Fld) (b : Bool) (h_s : s.Good bb pp qq) :
    (State.setOut s k f b).Good bb pp qq := by
  unfold State.setOut
  try dsimp only
  repeat' (first
    | with_reducible assumption
    | with_reducible apply good_setOuts)

theorem good_retireKiosk {bb : Prop} {pp : Part} {qq : List Instr} (s : State) (k : ℕ) (failed : Bool) (h_s : s.Good bb pp qq) :
    (State.retireKiosk s k failed).Good bb pp qq := by
  unfold State.retireKiosk
  try dsimp only
  repeat' (first
    | with_reducible assumption
    | with_reducible apply good_wrBit
    | with_reducible apply good_kioskLeave
    | with_reducible apply good_distrust
    | with_reducible refine good_foldl _ _ ?_ ?_
    | with_reducible refine good_foldr _ _ ?_ ?_
    | simp only [good_mk]
    | simp only [good_mk_gbk]
    | split)

theorem good_kioskSlice {bb : Prop} {pp : Part} {qq : List Instr} (s : State) (k : ℕ) (failed : Bool) (h_s : s.Good bb pp qq) :
    (State.kioskSlice s k failed).Good bb pp qq := by
  unfold State.kioskSlice
  try dsimp only
  repeat' (first
    | with_reducible assumption
    | with_reducible apply good_inject
    | with_reducible apply good_raise
    | with_reducible apply good_sliceFailed
    | with_reducible apply good_setOut
    | with_reducible apply good_retireKiosk
    | with_reducible refine good_foldl _ _ ?_ ?_
    | with_reducible refine good_foldr _ _ ?_ ?_
    | simp only [good_mk]
    | simp only [good_mk_gbk]
    | split)

theorem good_lacking {bb : Prop} {pp : Part} {qq : List Instr} (s : State) (h : ℕ) (n : ℕ) (h_s : s.Good bb pp qq) :
    (State.lacking s h n).1.Good bb pp qq := by
  unfold State.lacking
  try dsimp only
  repeat' (first
    | with_reducible assumption
    | with_reducible apply good_inject
    | with_reducible refine good_foldl _ _ ?_ ?_
    | with_reducible refine good_foldr _ _ ?_ ?_
    | simp only [good_mk]
    | simp only [good_mk_gbk]
    | split)

theorem good_lacking_eq {bb : Prop} {pp : Part} {qq : List Instr} {s : State} {h : ℕ} {n : ℕ} {tOut : State} {zOut : _}
    (h_s : s.Good bb pp qq) (e : State.lacking s h n = (tOut, zOut)) : tOut.Good bb pp qq := by
  have := good_lacking s h n h_s; rw [e] at this; exact this

theorem good_prbsBlock {bb : Prop} {pp : Part} {qq : List Instr} (s : State) (h : ℕ) (payload : BitVec 64) (h_s : s.Good bb pp qq) :
    (State.prbsBlock s h payload).Good bb pp qq := by
  unfold State.prbsBlock
  try dsimp only
  repeat' (first
    | with_reducible assumption
    | with_reducible apply good_updOnk
    | with_reducible apply good_addSat
    | with_reducible refine good_foldl _ _ ?_ ?_
    | with_reducible refine good_foldr _ _ ?_ ?_
    | simp only [good_mk]
    | simp only [good_mk_gbk]
    | split)

theorem good_testBlock {bb : Prop} {pp : Part} {qq : List Instr} (s : State) (h : ℕ) (h_s : s.Good bb pp qq) :
    (State.testBlock s h).Good bb pp qq := by
  unfold State.testBlock
  try dsimp only
  repeat' (first
    | with_reducible assumption
    | with_reducible apply good_emit
    | with_reducible apply good_updOnk
    | with_reducible apply good_prbsBlock
    | with_reducible refine good_foldl _ _ ?_ ?_
    | with_reducible refine good_foldr _ _ ?_ ?_
    | simp only [good_mk]
    | simp only [good_mk_gbk]
    | split)

theorem good_laneTick {bb : Prop} {pp : Part} {qq : List Instr} (s : State) (h : ℕ) (h_s : s.Good bb pp qq) :
    (State.laneTick s h).Good bb pp qq := by
  unfold State.laneTick
  try dsimp only
  repeat' (first
    | with_reducible assumption
    | with_reducible apply good_updOnk
    | with_reducible apply good_testBlock
    | with_reducible apply good_sendBlock
    | with_reducible refine good_foldl _ _ ?_ ?_
    | with_reducible refine good_foldr _ _ ?_ ?_
    | simp only [good_mk]
    | simp only [good_mk_gbk]
    | split)

theorem good_listRepairs {bb : Prop} {pp : Part} {qq : List Instr} (s : State) (h_s : s.Good bb pp qq) :
    (State.listRepairs s).Good bb pp qq := by
  unfold State.listRepairs
  try dsimp only
  repeat' (first
    | with_reducible assumption
    | with_reducible refine good_foldl _ _ ?_ ?_
    | with_reducible refine good_foldr _ _ ?_ ?_
    | simp only [good_mk]
    | simp only [good_mk_gbk]
    | split)

theorem good_wakeBy {bb : Prop} {pp : Part} {qq : List Instr} (s : State) (f : State → State) (h_s : s.Good bb pp qq) (h_f : ∀ t : State, t.Good bb pp qq → (f t).Good bb pp qq) :
    (State.wakeBy s f).Good bb pp qq := by
  unfold State.wakeBy
  try dsimp only
  repeat' (first
    | with_reducible assumption
    | with_reducible apply h_f
    | with_reducible apply good_revote
    | with_reducible apply good_wr
    | with_reducible refine good_foldl _ _ ?_ ?_
    | with_reducible refine good_foldr _ _ ?_ ?_
    | simp only [good_mk]
    | simp only [good_mk_gbk]
    | split
    | intro _)

theorem good_wake {bb : Prop} {pp : Part} {qq : List Instr} (s : State) (h_s : s.Good bb pp qq) : (State.wake s).Good bb pp qq :=
  good_wakeBy _ id h_s (fun _ h => h)

theorem good_listen {bb : Prop} {pp : Part} {qq : List Instr} (s : State) (p : ℕ) (bs : List Byte) (h_s : s.Good bb pp qq) :
    (State.listen s p bs).Good bb pp qq := by
  unfold State.listen
  try dsimp only
  repeat' (first
    | with_reducible assumption
    | with_reducible apply good_onlyIf
    | with_reducible apply good_wake
    | with_reducible apply good_wr
    | with_reducible refine good_foldl _ _ ?_ ?_
    | with_reducible refine good_foldr _ _ ?_ ?_
    | simp only [good_mk]
    | simp only [good_mk_gbk]
    | split
    | intro _)

theorem good_setGth {bb : Prop} {pp : Part} {qq : List Instr} (s : State) (g : Gth → Gth) (h_s : s.Good bb pp qq) :
    (State.setGth s g).Good bb pp qq := by
  unfold State.setGth
  try dsimp only
  repeat' (first
    | with_reducible assumption
    | with_reducible refine good_foldl _ _ ?_ ?_
    | with_reducible refine good_foldr _ _ ?_ ?_
    | simp only [good_mk])

theorem good_setKey {bb : Prop} {pp : Part} {qq : List Instr} (s : State) (n : ℕ) (k : Option StreamKey) (h_s : s.Good bb pp qq) :
    (State.setKey s n k).Good bb pp qq := by
  unfold State.setKey
  try dsimp only
  repeat' (first
    | with_reducible assumption
    | with_reducible apply good_wr
    | with_reducible apply good_setGth
    | with_reducible refine good_foldl _ _ ?_ ?_
    | with_reducible refine good_foldr _ _ ?_ ?_
    | simp only [good_mk]
    | simp only [good_mk_gbk]
    | split)

theorem good_loadKey {bb : Prop} {pp : Part} {qq : List Instr} (s : State) (n : ℕ) (h_s : s.Good bb pp qq) :
    (State.loadKey s n).Good bb pp qq := by
  unfold State.loadKey
  try dsimp only
  repeat' (first
    | with_reducible assumption
    | with_reducible apply good_keyReject
    | with_reducible apply good_inject
    | with_reducible apply good_wr
    | with_reducible apply good_setKey
    | with_reducible refine good_foldl _ _ ?_ ?_
    | with_reducible refine good_foldr _ _ ?_ ?_
    | simp only [good_mk]
    | simp only [good_mk_gbk]
    | split)

theorem good_logStarved {bb : Prop} {pp : Part} {qq : List Instr} (s : State) (e : Starved) (h_s : s.Good bb pp qq) :
    (State.logStarved s e).Good bb pp qq := by
  unfold State.logStarved
  try dsimp only
  repeat' (first
    | with_reducible assumption
    | with_reducible apply good_updIng
    | with_reducible apply good_incSat
    | with_reducible refine good_foldl _ _ ?_ ?_
    | with_reducible refine good_foldr _ _ ?_ ?_
    | simp only [good_mk]
    | simp only [good_mk_gbk]
    | split)

theorem good_loopHead {bb : Prop} {pp : Part} {qq : List Instr} (s : State) (i : Fin 4) (ofs : ℕ) (h_s : s.Good bb pp qq) :
    (State.loopHead s i ofs).1.Good bb pp qq := by
  unfold State.loopHead
  try dsimp only
  repeat' (first
    | with_reducible assumption
    | with_reducible apply good_readMem)

theorem good_loopHead_eq {bb : Prop} {pp : Part} {qq : List Instr} {s : State} {i : Fin 4} {ofs : ℕ} {tOut : State} {zOut : _}
    (h_s : s.Good bb pp qq) (e : State.loopHead s i ofs = (tOut, zOut)) : tOut.Good bb pp qq := by
  have := good_loopHead s i ofs h_s; rw [e] at this; exact this

theorem good_offerLoop {bb : Prop} {pp : Part} {qq : List Instr} (s : State) (i : Fin 4) (k : ℕ) (ofs : ℕ) (len : ℕ) (byteAt : ℕ → Byte) (bad : Bool) (h_s : s.Good bb pp qq) :
    (State.offerLoop s i k ofs len byteAt bad).1.Good bb pp qq := by
  unfold State.offerLoop
  try dsimp only
  repeat' (first
    | with_reducible assumption
    | with_reducible apply good_reject
    | with_reducible apply good_addTile
    | with_reducible refine good_foldl _ _ ?_ ?_
    | with_reducible refine good_foldr _ _ ?_ ?_
    | simp only [good_mk]
    | simp only [good_mk_gbk]
    | split)

theorem good_offerLoop_eq {bb : Prop} {pp : Part} {qq : List Instr} {s : State} {i : Fin 4} {k : ℕ} {ofs : ℕ} {len : ℕ} {byteAt : ℕ → Byte} {bad : Bool} {tOut : State} {zOut : _}
    (h_s : s.Good bb pp qq) (e : State.offerLoop s i k ofs len byteAt bad = (tOut, zOut)) : tOut.Good bb pp qq := by
  have := good_offerLoop s i k ofs len byteAt bad h_s; rw [e] at this; exact this

theorem good_loopWalk {bb : Prop} {pp : Part} {qq : List Instr} (i : Fin 4) (n : ℕ) : ∀ (ofs : ℕ) (s : State), s.Good bb pp qq →
    (State.loopWalk i n ofs s).Good bb pp qq := by
  induction n with
  | zero => exact fun _ _ h => h
  | succ n ih =>
    intro ofs s h
    unfold State.loopWalk
    dsimp only
    split
    · exact h
    · split
      · exact good_reject _ _ _ _ (good_loopHead _ _ _ h)
      · exact ih _ _ (good_updStm _ _ _ (good_offerLoop _ _ _ _ _ _ _ (good_loopHead _ _ _ h)))

theorem good_measure {bb : Prop} {pp : Part} {qq : List Instr} (s : State) (n : Fin 3) (t : ℕ) (h_s : s.Good bb pp qq) :
    (State.measure s n t).Good bb pp qq := by
  unfold State.measure
  try dsimp only
  repeat' (first
    | with_reducible assumption
    | with_reducible apply good_updEnc
    | with_reducible apply good_showSpeed
    | with_reducible refine good_foldl _ _ ?_ ?_
    | with_reducible refine good_foldr _ _ ?_ ?_
    | simp only [good_mk]
    | simp only [good_mk_gbk]
    | split)

theorem good_noteError {bb : Prop} {pp : Part} {qq : List Instr} (s : State) (fn : Fin 5) (b : ℕ) (h_s : s.Good bb pp qq) :
    (State.noteError s fn b).Good bb pp qq := by
  unfold State.noteError
  try dsimp only
  repeat' (first
    | with_reducible assumption
    | with_reducible refine good_foldl _ _ ?_ ?_
    | with_reducible refine good_foldr _ _ ?_ ?_
    | simp only [good_mk])

theorem good_notePanic {bb : Prop} {pp : Part} {qq : List Instr} (s : State) (p : Fin 5) (h_s : s.Good bb pp qq) :
    (State.notePanic s p).Good bb pp qq := by
  unfold State.notePanic
  try dsimp only
  repeat' (first
    | with_reducible assumption
    | with_reducible apply good_wrBit
    | with_reducible apply good_incSat
    | with_reducible refine good_foldl _ _ ?_ ?_
    | with_reducible refine good_foldr _ _ ?_ ?_
    | simp only [good_mk]
    | simp only [good_mk_gbk]
    | split)

theorem good_patrol {bb : Prop} {pp : Part} {qq : List Instr} (ws : List Nat) : ∀ (cs : List (BitVec 12)) (s : State),
    s.Good bb pp qq → (State.patrol s ws cs).1.Good bb pp qq := by
  induction ws with
  | nil => intro cs s h; unfold State.patrol; exact h
  | cons w ws ih =>
    intro cs s h
    cases cs with
    | nil => exact h
    | cons c cs => exact ih cs _ (good_judgeWindow _ _ _ (good_convert _ _ _ h))

theorem good_patrol_eq {bb : Prop} {pp : Part} {qq : List Instr} {s : State} {ws : List Nat} {cs : List (BitVec 12)} {t : State} {z : _}
    (h_s : s.Good bb pp qq) (e : State.patrol s ws cs = (t, z)) : t.Good bb pp qq := by
  have := good_patrol ws cs s h_s; rw [e] at this; exact this

theorem good_pickPort {bb : Prop} {pp : Part} {qq : List Instr} (s : State) (q : Fin 2) (h_s : s.Good bb pp qq) :
    (State.pickPort s q).Good bb pp qq := by
  unfold State.pickPort
  try dsimp only
  repeat' (first
    | with_reducible assumption
    | with_reducible apply good_becomeActive
    | with_reducible apply good_setState
    | with_reducible refine good_foldl _ _ ?_ ?_
    | with_reducible refine good_foldr _ _ ?_ ?_
    | simp only [good_mk]
    | simp only [good_mk_gbk]
    | split)

theorem good_trigger {bb : Prop} {pp : Part} {qq : List Instr} (s : State) (cause : Fld) (h_s : s.Good bb pp qq) :
    (State.trigger s cause).Good bb pp qq := by
  unfold State.trigger
  try dsimp only
  repeat' (first
    | with_reducible assumption
    | with_reducible apply good_wr
    | with_reducible refine good_foldl _ _ ?_ ?_
    | with_reducible refine good_foldr _ _ ?_ ?_
    | simp only [good_mk])

theorem good_relockOut {bb : Prop} {pp : Part} {qq : List Instr} (s : State) (c : ℕ) (out : Bool) (h_s : s.Good bb pp qq) :
    (State.relockOut s c out).Good bb pp qq := by
  unfold State.relockOut
  try dsimp only
  repeat' (first
    | with_reducible assumption
    | with_reducible apply good_setOuts)

theorem good_relockPll {bb : Prop} {pp : Part} {qq : List Instr} (s : State) (n : ℕ) (h_s : s.Good bb pp qq) :
    (State.relockPll s n).Good bb pp qq := by
  unfold State.relockPll
  try dsimp only
  repeat' (first
    | with_reducible assumption
    | with_reducible apply good_setPll
    | with_reducible apply good_drainCheck
    | with_reducible apply good_relockOut
    | with_reducible apply good_clockGone
    | with_reducible apply good_startPll
    | with_reducible refine good_foldl _ _ ?_ ?_
    | with_reducible refine good_foldr _ _ ?_ ?_
    | simp only [good_mk]
    | simp only [good_mk_gbk]
    | split)

theorem good_pllFails {bb : Prop} {pp : Part} {qq : List Instr} (s : State) (n : ℕ) (h_s : s.Good bb pp qq) :
    (State.pllFails s n).Good bb pp qq := by
  unfold State.pllFails
  try dsimp only
  repeat' (first
    | with_reducible assumption
    | with_reducible apply good_trigger
    | with_reducible apply good_raise
    | with_reducible apply good_relockPll
    | with_reducible refine good_foldl _ _ ?_ ?_
    | with_reducible refine good_foldr _ _ ?_ ?_
    | simp only [good_mk]
    | simp only [good_mk_gbk]
    | split)

theorem good_pllLost {bb : Prop} {pp : Part} {qq : List Instr} (s : State) (n : ℕ) (h_s : s.Good bb pp qq) :
    (State.pllLost s n).Good bb pp qq := by
  unfold State.pllLost
  try dsimp only
  repeat' (first
    | with_reducible assumption
    | with_reducible apply good_trigger
    | with_reducible apply good_raise
    | with_reducible apply good_relockPll
    | with_reducible refine good_foldl _ _ ?_ ?_
    | with_reducible refine good_foldr _ _ ?_ ?_
    | simp only [good_mk]
    | simp only [good_mk_gbk]
    | split)

theorem good_poisonTile {bb : Prop} {pp : Part} {qq : List Instr} (s : State) (k : ℕ) (t : Tile) (h_s : s.Good bb pp qq) :
    (State.poisonTile s k t).Good bb pp qq := by
  unfold State.poisonTile
  try dsimp only
  repeat' (first
    | with_reducible assumption
    | with_reducible apply good_inject
    | with_reducible apply good_stopTile
    | with_reducible apply good_wr
    | with_reducible refine good_foldl _ _ ?_ ?_
    | with_reducible refine good_foldr _ _ ?_ ?_
    | simp only [good_mk]
    | simp only [good_mk_gbk]
    | split)

theorem good_command {bb : Prop} {pp : Part} {qq : List Instr} (r : Req) (page : ℕ) (code : ℕ) (arg : BitVec 16) (zeroArg : Bool) (whenOff : Bool) (causes : State → List (Bool × ℕ)) (effect : State → State) (y8 : State) (h_effect : ∀ t : State, t.Good bb pp qq → (effect t).Good bb pp qq) (h_y8 : y8.Good bb pp qq) :
    (command r page code arg zeroArg whenOff causes effect y8).Good bb pp qq := by
  unfold command
  try dsimp only
  repeat' (first
    | with_reducible assumption
    | with_reducible apply h_effect
    | with_reducible apply good_access
    | with_reducible apply good_judge
    | with_reducible refine good_foldl _ _ ?_ ?_
    | with_reducible refine good_foldr _ _ ?_ ?_
    | simp only [good_mk]
    | simp only [good_mk_gbk]
    | split
    | intro _)

theorem good_poolCommand {bb : Prop} {pp : Part} {qq : List Instr} (s : State) (r : Req) (page : ℕ) (code : ℕ) (arg : BitVec 16) (out : Bool) (h_s : s.Good bb pp qq) :
    (State.poolCommand s r page code arg out).Good bb pp qq := by
  unfold State.poolCommand
  try dsimp only
  repeat' (first
    | with_reducible assumption
    | with_reducible apply good_command
    | with_reducible apply good_setOuts
    | with_reducible refine good_foldl _ _ ?_ ?_
    | with_reducible refine good_foldr _ _ ?_ ?_
    | simp only [good_mk]
    | simp only [good_mk_gbk]
    | split
    | intro _)

theorem good_poolFollow {bb : Prop} {pp : Part} {qq : List Instr} (s : State) (h_s : s.Good bb pp qq) :
    (State.poolFollow s).Good bb pp qq := by
  unfold State.poolFollow
  try dsimp only
  repeat' (first
    | with_reducible assumption
    | with_reducible apply good_publish
    | with_reducible apply good_kioskMove
    | with_reducible refine good_foldl _ _ ?_ ?_
    | with_reducible refine good_foldr _ _ ?_ ?_
    | simp only [good_mk]
    | simp only [good_mk_gbk]
    | split)

theorem good_por {bb : Prop} {pp : Part} {qq : List Instr} (s0 : State) (h_s : s0.Good bb pp qq) : (State.por s0).Good bb pp qq := by
  have h : s0.tearOp.Good bb pp qq := good_tearOp s0 h_s
  unfold State.por
  dsimp only
  refine good_wr _ _ _ _ ?_
  exact ⟨h.1, h.2.1, fun hb => ⟨rfl, (h.2.2 hb).flash, Nat.zero_le _⟩⟩

theorem good_pulseEnd {bb : Prop} {pp : Part} {qq : List Instr} (s : State) (k : Fin 6) (h_s : s.Good bb pp qq) :
    (State.pulseEnd s k).Good bb pp qq := by
  unfold State.pulseEnd
  try dsimp only
  repeat' (first
    | with_reducible assumption
    | with_reducible apply good_emit
    | with_reducible refine good_foldl _ _ ?_ ?_
    | with_reducible refine good_foldr _ _ ?_ ?_
    | simp only [good_mk]
    | simp only [good_mk_gbk]
    | split)

theorem good_pulseOn {bb : Prop} {pp : Part} {qq : List Instr} (s : State) (k : Fin 6) (h_s : s.Good bb pp qq) :
    (State.pulseOn s k).Good bb pp qq := by
  unfold State.pulseOn
  try dsimp only
  repeat' (first
    | with_reducible assumption
    | with_reducible apply good_pulseEnd
    | with_reducible apply good_camTrigger
    | with_reducible apply good_emit
    | with_reducible refine good_foldl _ _ ?_ ?_
    | with_reducible refine good_foldr _ _ ?_ ?_
    | simp only [good_mk]
    | simp only [good_mk_gbk]
    | split)

theorem good_ringRead {bb : Prop} {pp : Part} {qq : List Instr} (s : State) (g : ℕ) (h_s : s.Good bb pp qq) :
    (State.ringRead s g).1.Good bb pp qq := by
  have pair : ∀ {α : Type} {a : State} (b : α), a.Good bb pp qq → (a, b).1.Good bb pp qq := fun _ h => h
  have key : ∀ (n : Nat) (l : List Nat) (x : State × List (Nat × List Byte) × Bool), x.1.Good bb pp qq →
      (l.foldl (fun (acc : State × List (Nat × List Byte) × Bool) h =>
        let r := acc.1.readMem 1 (acc.1.slotAddr g h) n
        (r.1, acc.2.1 ++ [(h, r.2.1)], acc.2.2 || r.2.2.any id)) x).1.Good bb pp qq := by
    intro n l x hx
    refine good_foldl_fst _ _ hx ?_
    intro y z hy
    exact pair _ (good_readMem _ _ _ _ hy)
  unfold State.ringRead
  exact key 4096 s.qlpHeads (s, [], false) h_s

theorem good_ringRead_eq {bb : Prop} {pp : Part} {qq : List Instr} {s : State} {g : ℕ} {tOut : State} {zOut : _}
    (h_s : s.Good bb pp qq) (e : State.ringRead s g = (tOut, zOut)) : tOut.Good bb pp qq := by
  have := good_ringRead s g h_s; rw [e] at this; exact this

theorem good_qlpCompare {bb : Prop} {pp : Part} {qq : List Instr} (s : State) (k : ℕ) (l : QCamLine) (poisoned : Bool) (h_s : s.Good bb pp qq) :
    (State.qlpCompare s k l poisoned).Good bb pp qq := by
  unfold State.qlpCompare
  try dsimp only
  repeat' (first
    | with_reducible assumption
    | with_reducible apply good_updQlp
    | with_reducible apply good_incSat
    | with_reducible apply good_ringRead
    | with_reducible apply good_alignLine
    | with_reducible apply good_setRow
    | with_reducible apply good_wr
    | with_reducible apply good_add2
    | with_reducible exact good_ringRead_eq (by assumption) (by assumption)
    | with_reducible refine good_foldl _ _ ?_ ?_
    | with_reducible refine good_foldr _ _ ?_ ?_
    | simp only [good_mk]
    | simp only [good_mk_gbk]
    | split)

theorem good_qlpCountOut {bb : Prop} {pp : Part} {qq : List Instr} (s : State) (r : Req) (v : Bool) (h_s : s.Good bb pp qq) :
    (State.qlpCountOut s r v).Good bb pp qq := by
  unfold State.qlpCountOut
  try dsimp only
  repeat' (first
    | with_reducible assumption
    | with_reducible apply good_updQlp
    | with_reducible apply good_incSat
    | with_reducible apply good_wr
    | with_reducible refine good_foldl _ _ ?_ ?_
    | with_reducible refine good_foldr _ _ ?_ ?_
    | simp only [good_mk]
    | simp only [good_mk_gbk]
    | split)

theorem good_qlpLine {bb : Prop} {pp : Part} {qq : List Instr} (s : State) (h : ℕ) (line : ℕ) (levels : List ℕ) (h_s : s.Good bb pp qq) :
    (State.qlpLine s h line levels).Good bb pp qq := by
  unfold State.qlpLine
  try dsimp only
  repeat' (first
    | with_reducible assumption
    | with_reducible apply good_setQlines
    | with_reducible refine good_foldl _ _ ?_ ?_
    | with_reducible refine good_foldr _ _ ?_ ?_
    | simp only [good_mk]
    | simp only [good_mk_gbk]
    | split)

theorem good_qlpSetMode {bb : Prop} {pp : Part} {qq : List Instr} (s : State) (mode : Bool) (h_s : s.Good bb pp qq) :
    (State.qlpSetMode s mode).Good bb pp qq := by
  unfold State.qlpSetMode
  try dsimp only
  repeat' (first
    | with_reducible assumption
    | with_reducible apply good_wrBit
    | with_reducible apply good_qlpToApproval
    | with_reducible refine good_foldl _ _ ?_ ?_
    | with_reducible refine good_foldr _ _ ?_ ?_
    | simp only [good_mk]
    | simp only [good_mk_gbk]
    | split)

theorem good_vniBroken {bb : Prop} {pp : Part} {qq : List Instr} (s : State) (bs : List Byte) (h_s : s.Good bb pp qq) :
    (State.vniBroken s bs).Good bb pp qq := by
  unfold State.vniBroken
  try dsimp only
  repeat' (first
    | with_reducible assumption
    | with_reducible apply good_emit
    | with_reducible refine good_foldl _ _ ?_ ?_
    | with_reducible refine good_foldr _ _ ?_ ?_
    | simp only [good_mk]
    | simp only [good_mk_gbk]
    | split)

theorem good_queueIn {bb : Prop} {pp : Part} {qq : List Instr} (s : State) (p : Fin 2) (f : RxFrame) (h_s : s.Good bb pp qq) :
    (State.queueIn s p f).Good bb pp qq := by
  unfold State.queueIn
  try dsimp only
  repeat' (first
    | with_reducible assumption
    | with_reducible apply good_injectPart
    | with_reducible apply good_badPacket
    | with_reducible apply good_vniBroken
    | with_reducible apply good_wr
    | with_reducible apply good_add2
    | with_reducible apply good_frameIn
    | with_reducible refine good_foldl _ _ ?_ ?_
    | with_reducible refine good_foldr _ _ ?_ ?_
    | simp only [good_mk]
    | simp only [good_mk_gbk]
    | split)

theorem good_rampRest {bb : Prop} {pp : Part} {qq : List Instr} (s : State) (p : Profile) (v : ℤ) (h_s : s.Good bb pp qq) :
    (State.rampRest s p v).1.Good bb pp qq := by
  unfold State.rampRest
  try dsimp only
  repeat' (first
    | with_reducible assumption
    | with_reducible apply good_draw
    | with_reducible refine good_foldl _ _ ?_ ?_
    | with_reducible refine good_foldr _ _ ?_ ?_
    | simp only [good_mk]
    | simp only [good_mk_gbk]
    | split)

theorem good_rampRest_eq {bb : Prop} {pp : Part} {qq : List Instr} {s : State} {p : Profile} {v : ℤ} {tOut : State} {zOut : _}
    (h_s : s.Good bb pp qq) (e : State.rampRest s p v = (tOut, zOut)) : tOut.Good bb pp qq := by
  have := good_rampRest s p v h_s; rw [e] at this; exact this

theorem good_reached {bb : Prop} {pp : Part} {qq : List Instr} (s : State) (r : Req) (page : ℕ) (h_s : s.Good bb pp qq) :
    (State.reached s r page).Good bb pp qq := by
  unfold State.reached
  try dsimp only
  repeat' (first
    | with_reducible assumption
    | with_reducible apply good_touch
    | with_reducible apply good_active
    | with_reducible apply good_fresh)

theorem good_readAccess {bb : Prop} {pp : Part} {qq : List Instr} (s : State) (r : Req) (page : ℕ) (f : State → State) (h_s : s.Good bb pp qq) (h_f : ∀ t : State, t.Good bb pp qq → (f t).Good bb pp qq) :
    (State.readAccess s r page f).Good bb pp qq := by
  unfold State.readAccess
  try dsimp only
  repeat' (first
    | with_reducible assumption
    | with_reducible apply h_f
    | with_reducible apply good_touch
    | with_reducible apply good_active
    | with_reducible apply good_emit
    | with_reducible refine good_foldl _ _ ?_ ?_
    | with_reducible refine good_foldr _ _ ?_ ?_
    | simp only [good_mk]
    | simp only [good_mk_gbk]
    | split)

theorem good_refresh {bb : Prop} {pp : Part} {qq : List Instr} (s : State) (c : Fin 2) (h_s : s.Good bb pp qq) :
    (State.refresh s c).Good bb pp qq := by
  unfold State.refresh
  try dsimp only
  repeat' (first
    | with_reducible assumption
    | with_reducible apply good_wr
    | with_reducible apply good_closeRows)

theorem good_refreshOwed {bb : Prop} {pp : Part} {qq : List Instr} (s : State) (c : Fin 2) (h_s : s.Good bb pp qq) :
    (State.refreshOwed s c).Good bb pp qq := by
  unfold State.refreshOwed
  try dsimp only
  repeat' (first
    | with_reducible assumption
    | with_reducible apply good_wr
    | with_reducible apply good_closeRows
    | with_reducible refine good_foldl _ _ ?_ ?_
    | with_reducible refine good_foldr _ _ ?_ ?_
    | simp only [good_mk]
    | simp only [good_mk_gbk]
    | split)

theorem good_refreshStep {bb : Prop} {pp : Part} {qq : List Instr} (s : State) (c : Fin 2) (h_s : s.Good bb pp qq) :
    (State.refreshStep s c).Good bb pp qq := by
  unfold State.refreshStep
  try dsimp only
  repeat' (first
    | with_reducible assumption
    | with_reducible apply good_incSat
    | with_reducible apply good_refresh
    | with_reducible refine good_foldl _ _ ?_ ?_
    | with_reducible refine good_foldr _ _ ?_ ?_
    | simp only [good_mk]
    | simp only [good_mk_gbk]
    | split)

theorem good_unknownCommand {bb : Prop} {pp : Part} {qq : List Instr} (s : State) (r : Req) (page : ℕ) (v : Word) (h_s : s.Good bb pp qq) :
    (State.unknownCommand s r page v).Good bb pp qq := by
  unfold State.unknownCommand
  try dsimp only
  repeat' (first
    | with_reducible assumption
    | with_reducible apply good_refuse)

theorem good_regWrite {bb : Prop} {pp : Part} {qq : List Instr} (s : State) (r : Req) (page : ℕ) (off : ℕ) (be : BitVec 4) (v : Word) (h_s : s.Good bb pp qq) :
    (State.regWrite s r page off be v).Good bb pp qq := by
  unfold State.regWrite
  try dsimp only
  repeat' (first
    | with_reducible assumption
    | with_reducible apply good_access
    | with_reducible apply good_dropWrite
    | with_reducible apply good_unknownCommand
    | with_reducible apply good_behind
    | with_reducible apply good_wordWrite
    | with_reducible refine good_foldl _ _ ?_ ?_
    | with_reducible refine good_foldr _ _ ?_ ?_
    | simp only [good_mk]
    | simp only [good_mk_gbk]
    | split
    | intro _)

theorem good_relockDone {bb : Prop} {pp : Part} {qq : List Instr} (s : State) (n : ℕ) (h_s : s.Good bb pp qq) :
    (State.relockDone s n).Good bb pp qq := by
  unfold State.relockDone
  try dsimp only
  repeat' (first
    | with_reducible assumption
    | with_reducible apply good_raise
    | with_reducible apply good_setBusy
    | with_reducible apply good_setPll
    | with_reducible refine good_foldl _ _ ?_ ?_
    | with_reducible refine good_foldr _ _ ?_ ?_
    | simp only [good_mk]
    | simp only [good_mk_gbk]
    | split)

theorem good_request {bb : Prop} {pp : Part} {qq : List Instr} (s : State) (kind : ℕ) (slot : ℕ) (state : ℕ) (h_s : s.Good bb pp qq) :
    (State.request s kind slot state).Good bb pp qq := by
  unfold State.request
  try dsimp only
  repeat' (first
    | with_reducible assumption
    | with_reducible apply good_setState
    | with_reducible apply good_setBusy
    | with_reducible apply good_wr)

theorem good_resetDone {bb : Prop} {pp : Part} {qq : List Instr} (s : State) (i : Fin 4) (h_s : s.Good bb pp qq) :
    (State.resetDone s i).Good bb pp qq := by
  unfold State.resetDone
  try dsimp only
  repeat' (first
    | with_reducible assumption
    | with_reducible apply good_abandonTile
    | with_reducible apply good_freeTile
    | with_reducible apply good_blankRings
    | with_reducible apply good_updStm
    | with_reducible apply good_showStaging
    | with_reducible apply good_wr
    | with_reducible apply good_setState
    | with_reducible apply good_setBusy
    | with_reducible refine good_foldl _ _ ?_ ?_
    | with_reducible refine good_foldr _ _ ?_ ?_
    | simp only [good_mk]
    | simp only [good_mk_gbk]
    | split
    | intro _)

theorem good_restartVerified {bb : Prop} {pp : Part} {qq : List Instr} (s : State) (slot : ℕ) (h_s : s.Good bb pp qq) :
    (State.restartVerified s slot).Good bb pp qq := by
  unfold State.restartVerified
  try dsimp only
  repeat' (first
    | with_reducible assumption
    | with_reducible apply good_gkpStarts
    | with_reducible apply good_wr
    | with_reducible apply good_setFsh
    | with_reducible apply good_raise
    | with_reducible apply good_setState
    | with_reducible apply good_setBusy
    | with_reducible refine good_foldl _ _ ?_ ?_
    | with_reducible refine good_foldr _ _ ?_ ?_
    | simp only [good_mk]
    | simp only [good_mk_gbk]
    | split)

theorem good_ringTile {bb : Prop} {pp : Part} {qq : List Instr} (s : State) (i : Fin 4) (bs : List Byte) (key : ℕ) (h_s : s.Good bb pp qq) :
    (State.ringTile s i bs key).Good bb pp qq := by
  unfold State.ringTile
  try dsimp only
  repeat' (first
    | with_reducible assumption
    | with_reducible apply good_updStm
    | with_reducible apply good_stageTile
    | with_reducible apply good_descriptorDone)

theorem good_rowFor {bb : Prop} {pp : Part} {qq : List Instr} (s : State) (g : ℕ) (h_s : s.Good bb pp qq) :
    (State.rowFor s g).1.Good bb pp qq := by
  unfold State.rowFor
  try dsimp only
  repeat' (first
    | with_reducible assumption
    | with_reducible apply good_incSat
    | with_reducible refine good_foldl _ _ ?_ ?_
    | with_reducible refine good_foldr _ _ ?_ ?_
    | simp only [good_mk]
    | simp only [good_mk_gbk]
    | split)

theorem good_rowFor_eq {bb : Prop} {pp : Part} {qq : List Instr} {s : State} {g : ℕ} {tOut : State} {zOut : _}
    (h_s : s.Good bb pp qq) (e : State.rowFor s g = (tOut, zOut)) : tOut.Good bb pp qq := by
  have := good_rowFor s g h_s; rw [e] at this; exact this

theorem good_rowWrite {bb : Prop} {pp : Part} {qq : List Instr} (s : State) (h : ℕ) (g : ℕ) (h_s : s.Good bb pp qq) :
    (State.rowWrite s h g).Good bb pp qq := by
  unfold State.rowWrite
  try dsimp only
  repeat' (first
    | with_reducible assumption
    | with_reducible apply good_rowFor
    | with_reducible apply good_setQlines
    | with_reducible apply good_writeMem
    | with_reducible apply good_setRow)

theorem good_sdaCheck {bb : Prop} {pp : Part} {qq : List Instr} (s : State) (m : ℕ) (sdaLow : Bool) (sdaHigh : Bool) (h_s : s.Good bb pp qq) :
    (State.sdaCheck s m sdaLow sdaHigh).1.Good bb pp qq := by
  unfold State.sdaCheck
  try dsimp only
  repeat' (first
    | with_reducible assumption
    | with_reducible apply good_emit
    | with_reducible apply good_busDead
    | with_reducible refine good_foldl _ _ ?_ ?_
    | with_reducible refine good_foldr _ _ ?_ ?_
    | simp only [good_mk]
    | simp only [good_mk_gbk]
    | split)

theorem good_sdaCheck_eq {bb : Prop} {pp : Part} {qq : List Instr} {s : State} {m : ℕ} {sdaLow : Bool} {sdaHigh : Bool} {tOut : State} {zOut : _}
    (h_s : s.Good bb pp qq) (e : State.sdaCheck s m sdaLow sdaHigh = (tOut, zOut)) : tOut.Good bb pp qq := by
  have := good_sdaCheck s m sdaLow sdaHigh h_s; rw [e] at this; exact this

theorem good_sendFrame {bb : Prop} {pp : Part} {qq : List Instr} (s : State) (p : Fin 2) (frame : List Byte) (parity : Bool) (h_s : s.Good bb pp qq) :
    (State.sendFrame s p frame parity).Good bb pp qq := by
  unfold State.sendFrame
  try dsimp only
  repeat' (first
    | with_reducible assumption
    | with_reducible apply good_emit
    | with_reducible apply good_badPacket
    | with_reducible apply good_ownSent
    | with_reducible refine good_foldl _ _ ?_ ?_
    | with_reducible refine good_foldr _ _ ?_ ?_
    | simp only [good_mk]
    | simp only [good_mk_gbk]
    | split)

theorem good_starve {bb : Prop} {pp : Part} {qq : List Instr} (s : State) (h : ℕ) (n : ℕ) (planes : ℕ) (num : BitVec 32) (h_s : s.Good bb pp qq) :
    (State.starve s h n planes num).Good bb pp qq := by
  unfold State.starve
  try dsimp only
  repeat' (first
    | with_reducible assumption
    | with_reducible apply good_markBlank
    | with_reducible apply good_logStarved
    | with_reducible apply good_raiseD
    | with_reducible refine good_foldl _ _ ?_ ?_
    | with_reducible refine good_foldr _ _ ?_ ?_
    | simp only [good_mk]
    | simp only [good_mk_gbk]
    | split
    | intro _)

theorem good_txLate {bb : Prop} {pp : Part} {qq : List Instr} (s : State) (h : ℕ) (line : ℕ) (h_s : s.Good bb pp qq) :
    (State.txLate s h line).Good bb pp qq := by
  unfold State.txLate
  try dsimp only
  repeat' (first
    | with_reducible assumption
    | with_reducible apply good_txOwed
    | with_reducible apply good_txMark
    | with_reducible apply good_updOnk
    | with_reducible refine good_foldl _ _ ?_ ?_
    | with_reducible refine good_foldr _ _ ?_ ?_
    | simp only [good_mk]
    | simp only [good_mk_gbk]
    | split)

theorem good_sendNext {bb : Prop} {pp : Part} {qq : List Instr} (s : State) (h : ℕ) (h_s : s.Good bb pp qq) :
    (State.sendNext s h).Good bb pp qq := by
  unfold State.sendNext
  try dsimp only
  repeat' (first
    | with_reducible assumption
    | with_reducible apply good_commitAtLine
    | with_reducible apply good_lacking
    | with_reducible apply good_starve
    | with_reducible apply good_updTrl
    | with_reducible apply good_dropLine
    | with_reducible apply good_txLate
    | with_reducible apply good_flightBegin
    | with_reducible apply good_updHsc
    | with_reducible exact good_lacking_eq (by assumption) (by assumption)
    | with_reducible refine good_foldl _ _ ?_ ?_
    | with_reducible refine good_foldr _ _ ?_ ?_
    | simp only [good_mk]
    | simp only [good_mk_gbk]
    | split
    | intro _)

theorem good_serveFetches {bb : Prop} {pp : Part} {qq : List Instr} (s : State) (h_s : s.Good bb pp qq) :
    (State.serveFetches s).Good bb pp qq := by
  unfold State.serveFetches
  try dsimp only
  repeat' (first
    | with_reducible assumption
    | with_reducible apply good_fetch
    | with_reducible refine good_foldl _ _ ?_ ?_
    | with_reducible refine good_foldr _ _ ?_ ?_
    | simp only [good_mk]
    | simp only [good_mk_gbk]
    | split)

theorem good_servoStep {bb : Prop} {pp : Part} {qq : List Instr} (s : State) (a : ℕ) (p : Profile) (h_s : s.Good bb pp qq) :
    (State.servoStep s a p).Good bb pp qq := by
  unfold State.servoStep
  try dsimp only
  repeat' (first
    | with_reducible assumption
    | with_reducible apply good_updAxis
    | with_reducible apply good_showAxis
    | with_reducible apply good_incSat
    | with_reducible refine good_foldl _ _ ?_ ?_
    | with_reducible refine good_foldr _ _ ?_ ?_
    | simp only [good_mk]
    | simp only [good_mk_gbk]
    | split)

theorem good_setActWord {bb : Prop} {pp : Part} {qq : List Instr} (s : State) (page : ℕ) (off : ℕ) (w : Word) (h_s : s.Good bb pp qq) :
    (State.setActWord s page off w).Good bb pp qq := by
  unfold State.setActWord
  try dsimp only
  repeat' (first
    | with_reducible assumption
    | with_reducible refine good_foldl _ _ ?_ ?_
    | with_reducible refine good_foldr _ _ ?_ ?_
    | simp only [good_mk])

theorem good_setAlertBit {bb : Prop} {pp : Part} {qq : List Instr} (s : State) (f : Fld) (j : ℕ) (b : Bool) (h_s : s.Good bb pp qq) :
    (State.setAlertBit s f j b).Good bb pp qq := by
  unfold State.setAlertBit
  try dsimp only
  repeat' (first
    | with_reducible assumption
    | with_reducible apply good_wr)

theorem good_setMem32 {bb : Prop} {pp : Part} {qq : List Instr} (s : State) (a : ℕ) (v : ℕ) (h_s : s.Good bb pp qq) :
    (State.setMem32 s a v).Good bb pp qq := by
  unfold State.setMem32
  try dsimp only
  repeat' (first
    | with_reducible assumption
    | with_reducible apply good_setBytes)

theorem good_setShadowBit {bb : Prop} {pp : Part} {qq : List Instr} (s : State) (h : ℕ) (i : ℕ) (bit : ℕ) (v : Bool) (h_s : s.Good bb pp qq) :
    (State.setShadowBit s h i bit v).Good bb pp qq := by
  unfold State.setShadowBit
  try dsimp only
  repeat' (first
    | with_reducible assumption
    | with_reducible apply good_setState
    | with_reducible apply good_store)

theorem good_setOutPages {bb : Prop} {pp : Part} {qq : List Instr} (s : State) (r : Req) (g : ℕ) (v : Bool) (h_s : s.Good bb pp qq) :
    (State.setOutPages s r g v).Good bb pp qq := by
  unfold State.setOutPages
  try dsimp only
  repeat' (first
    | with_reducible assumption
    | with_reducible apply good_setShadowBit
    | with_reducible apply good_armCommit
    | with_reducible apply good_wrBit
    | with_reducible apply good_wr
    | with_reducible refine good_foldl _ _ ?_ ?_
    | with_reducible refine good_foldr _ _ ?_ ?_
    | simp only [good_mk]
    | simp only [good_mk_gbk]
    | split
    | intro _)

theorem good_setRef {bb : Prop} {pp : Part} {qq : List Instr} (s : State) (n : Fin 15) (ok : Bool) (h_s : s.Good bb pp qq) :
    (State.setRef s n ok).Good bb pp qq := by
  unfold State.setRef
  try dsimp only
  repeat' (first
    | with_reducible assumption
    | with_reducible apply good_showRef
    | with_reducible refine good_foldl _ _ ?_ ?_
    | with_reducible refine good_foldr _ _ ?_ ?_
    | simp only [good_mk])

theorem good_settle {bb : Prop} {pp : Part} {qq : List Instr} (s : State) (a : ℕ) (h_s : s.Good bb pp qq) :
    (State.settle s a).Good bb pp qq := by
  unfold State.settle
  try dsimp only
  repeat' (first
    | with_reducible assumption
    | with_reducible apply good_endMove
    | with_reducible apply good_updAxis
    | with_reducible apply good_rampRest
    | with_reducible apply good_d1Rest
    | with_reducible apply good_homeDone
    | with_reducible exact good_rampRest_eq (by assumption) (by assumption)
    | with_reducible exact good_d1Rest_eq (by assumption) (by assumption)
    | with_reducible refine good_foldl _ _ ?_ ?_
    | with_reducible refine good_foldr _ _ ?_ ?_
    | simp only [good_mk]
    | simp only [good_mk_gbk]
    | split)

theorem good_sliceBegin {bb : Prop} {pp : Part} {qq : List Instr} (s : State) (i : ℕ) (h_s : s.Good bb pp qq) :
    (State.sliceBegin s i).Good bb pp qq := by
  unfold State.sliceBegin
  try dsimp only
  repeat' (first
    | with_reducible assumption
    | with_reducible apply good_setBist
    | with_reducible apply good_setOut
    | with_reducible refine good_foldl _ _ ?_ ?_
    | with_reducible refine good_foldr _ _ ?_ ?_
    | simp only [good_mk]
    | simp only [good_mk_gbk]
    | split)

theorem good_sliceWrap {bb : Prop} {pp : Part} {qq : List Instr} (s : State) (h_s : s.Good bb pp qq) :
    (State.sliceWrap s).Good bb pp qq := by
  unfold State.sliceWrap
  try dsimp only
  repeat' (first
    | with_reducible assumption
    | with_reducible apply good_rotated
    | with_reducible refine good_foldl _ _ ?_ ?_
    | with_reducible refine good_foldr _ _ ?_ ?_
    | simp only [good_mk]
    | simp only [good_mk_gbk]
    | split)

theorem good_srEnter {bb : Prop} {pp : Part} {qq : List Instr} (s : State) (h_s : s.Good bb pp qq) :
    (State.srEnter s).Good bb pp qq := by
  unfold State.srEnter
  try dsimp only
  repeat' (first
    | with_reducible assumption
    | with_reducible apply good_refreshOwed
    | with_reducible refine good_foldl _ _ ?_ ?_
    | with_reducible refine good_foldr _ _ ?_ ?_
    | simp only [good_mk])

theorem good_sramSlice {bb : Prop} {pp : Part} {qq : List Instr} (s : State) (i : ℕ) (cells : List Bool) (h_s : s.Good bb pp qq) :
    (State.sramSlice s i cells).Good bb pp qq := by
  unfold State.sramSlice
  try dsimp only
  repeat' (first
    | with_reducible assumption
    | with_reducible apply good_raise
    | with_reducible apply good_inject
    | with_reducible apply good_cellFails
    | with_reducible refine good_foldl _ _ ?_ ?_
    | with_reducible refine good_foldr _ _ ?_ ?_
    | simp only [good_mk]
    | simp only [good_mk_gbk]
    | split
    | intro _)

theorem good_txGo {bb : Prop} {pp : Part} {qq : List Instr} (s : State) (t : TableTx) (h_s : s.Good bb pp qq) :
    (State.txGo s t).Good bb pp qq := by
  unfold State.txGo
  try dsimp only
  repeat' (first
    | with_reducible assumption
    | with_reducible apply good_setState
    | with_reducible apply good_wr2
    | with_reducible apply good_updOnk
    | with_reducible apply good_sendCommit
    | with_reducible refine good_foldl _ _ ?_ ?_
    | with_reducible refine good_foldr _ _ ?_ ?_
    | simp only [good_mk]
    | simp only [good_mk_gbk]
    | split
    | intro _)

theorem good_stageAck {bb : Prop} {pp : Part} {qq : List Instr} (s : State) (h : ℕ) (result : ℕ) (t : TableTx) (h_s : s.Good bb pp qq) :
    (State.stageAck s h result t).Good bb pp qq := by
  unfold State.stageAck
  try dsimp only
  repeat' (first
    | with_reducible assumption
    | with_reducible apply good_txAbort
    | with_reducible apply good_stageResult
    | with_reducible apply good_txGo
    | with_reducible refine good_foldl _ _ ?_ ?_
    | with_reducible refine good_foldr _ _ ?_ ?_
    | simp only [good_mk]
    | simp only [good_mk_gbk]
    | split)

theorem good_startHead {bb : Prop} {pp : Part} {qq : List Instr} (s : State) (h : ℕ) (h_s : s.Good bb pp qq) :
    (State.startHead s h).Good bb pp qq := by
  unfold State.startHead
  try dsimp only
  repeat' (first
    | with_reducible assumption
    | with_reducible apply good_setHsc
    | with_reducible apply good_wr
    | with_reducible apply good_updRib
    | with_reducible apply good_showNext
    | with_reducible apply good_raise
    | with_reducible apply good_addSat
    | with_reducible apply good_refCopy
    | with_reducible refine good_foldl _ _ ?_ ?_
    | with_reducible refine good_foldr _ _ ?_ ?_
    | simp only [good_mk]
    | simp only [good_mk_gbk]
    | split)

theorem good_startMove {bb : Prop} {pp : Part} {qq : List Instr} (s : State) (p : Fin 2) (auto : Bool) (h_s : s.Good bb pp qq) :
    (State.startMove s p auto).Good bb pp qq := by
  unfold State.startMove
  try dsimp only
  repeat' (first
    | with_reducible assumption
    | with_reducible apply good_draw
    | with_reducible apply good_moveRole
    | with_reducible refine good_foldl _ _ ?_ ?_
    | with_reducible refine good_foldr _ _ ?_ ?_
    | simp only [good_mk]
    | simp only [good_mk_gbk]
    | split)

theorem good_updAlert {bb : Prop} {pp : Part} {qq : List Instr} (s : State) (j : Fin 8) (g : Alert → Alert) (h_s : s.Good bb pp qq) :
    (State.updAlert s j g).Good bb pp qq := by
  unfold State.updAlert
  try dsimp only
  repeat' (first
    | with_reducible assumption
    | with_reducible refine good_foldl _ _ ?_ ?_
    | with_reducible refine good_foldr _ _ ?_ ?_
    | simp only [good_mk])

theorem good_statusBack {bb : Prop} {pp : Part} {qq : List Instr} (s : State) (h : ℕ) (h_s : s.Good bb pp qq) :
    (State.statusBack s h).Good bb pp qq := by
  unfold State.statusBack
  try dsimp only
  repeat' (first
    | with_reducible assumption
    | with_reducible apply good_updAlert
    | with_reducible apply good_setAlertBit
    | with_reducible refine good_foldl _ _ ?_ ?_
    | with_reducible refine good_foldr _ _ ?_ ?_
    | simp only [good_mk]
    | simp only [good_mk_gbk]
    | split)

theorem good_statusReqs {bb : Prop} {pp : Part} {qq : List Instr} (s : State) (j : Fin 8) (h_s : s.Good bb pp qq) :
    (State.statusReqs s j).Good bb pp qq := by
  unfold State.statusReqs
  try dsimp only
  repeat' (first
    | with_reducible assumption
    | with_reducible apply good_updAlert
    | with_reducible apply good_sendBlock
    | with_reducible refine good_foldl _ _ ?_ ?_
    | with_reducible refine good_foldr _ _ ?_ ?_
    | simp only [good_mk]
    | simp only [good_mk_gbk]
    | split
    | intro _)

theorem good_stepDone {bb : Prop} {pp : Part} {qq : List Instr} (s : State) (o : FlashOp) (h_s : s.Good bb pp qq) :
    (State.stepDone s o).Good bb pp qq := by
  unfold State.stepDone
  try dsimp only
  repeat' (first
    | with_reducible assumption
    | with_reducible apply good_serveFetches
    | with_reducible apply good_setFbytes
    | with_reducible apply good_flashEnd
    | with_reducible apply good_takePage
    | with_reducible apply good_setFsh
    | with_reducible refine good_foldl _ _ ?_ ?_
    | with_reducible refine good_foldr _ _ ?_ ?_
    | simp only [good_mk]
    | simp only [good_mk_gbk]
    | split)

theorem good_stepFails {bb : Prop} {pp : Part} {qq : List Instr} (s : State) (o : FlashOp) (h_s : s.Good bb pp qq) :
    (State.stepFails s o).Good bb pp qq := by
  unfold State.stepFails
  try dsimp only
  repeat' (first
    | with_reducible assumption
    | with_reducible apply good_flashEnd
    | with_reducible apply good_serveFetches
    | with_reducible apply good_tear)

theorem good_sweepEnd {bb : Prop} {pp : Part} {qq : List Instr} (s : State) (c : Fin 2) (eyes : Bool) (temp : BitVec 16) (h_s : s.Good bb pp qq) :
    (State.sweepEnd s c eyes temp).Good bb pp qq := by
  unfold State.sweepEnd
  try dsimp only
  repeat' (first
    | with_reducible assumption
    | with_reducible apply good_inject
    | with_reducible apply good_raise
    | with_reducible apply good_fullTraining
    | with_reducible apply good_setState
    | with_reducible refine good_foldl _ _ ?_ ?_
    | with_reducible refine good_foldr _ _ ?_ ?_
    | simp only [good_mk]
    | simp only [good_mk_gbk]
    | split)

theorem good_tagMismatch {bb : Prop} {pp : Part} {qq : List Instr} (s : State) (h : ℕ) (h_s : s.Good bb pp qq) :
    (State.tagMismatch s h).Good bb pp qq := by
  unfold State.tagMismatch
  try dsimp only
  repeat' (first
    | with_reducible assumption
    | with_reducible apply good_flush
    | with_reducible apply good_incSat
    | with_reducible apply good_raise)

theorem good_takeBins {bb : Prop} {pp : Part} {qq : List Instr} (s : State) (h : ℕ) (n : ℕ) (h_s : s.Good bb pp qq) :
    (State.takeBins s h n).Good bb pp qq := by
  unfold State.takeBins
  try dsimp only
  repeat' (first
    | with_reducible assumption
    | with_reducible apply good_updFir)

theorem good_takeReport {bb : Prop} {pp : Part} {qq : List Instr} (s : State) (h : ℕ) (h_s : s.Good bb pp qq) :
    (State.takeReport s h).1.Good bb pp qq := by
  unfold State.takeReport
  try dsimp only
  repeat' (first
    | with_reducible assumption
    | with_reducible apply good_updOnk
    | with_reducible refine good_foldl _ _ ?_ ?_
    | with_reducible refine good_foldr _ _ ?_ ?_
    | simp only [good_mk]
    | simp only [good_mk_gbk]
    | split)

theorem good_takeReport_eq {bb : Prop} {pp : Part} {qq : List Instr} {s : State} {h : ℕ} {tOut : State} {zOut : _}
    (h_s : s.Good bb pp qq) (e : State.takeReport s h = (tOut, zOut)) : tOut.Good bb pp qq := by
  have := good_takeReport s h h_s; rw [e] at this; exact this

theorem good_takeTile {bb : Prop} {pp : Part} {qq : List Instr} (s : State) (k : ℕ) (t : Tile) (h_s : s.Good bb pp qq) :
    (State.takeTile s k t).Good bb pp qq := by
  unfold State.takeTile
  try dsimp only
  repeat' (first
    | with_reducible assumption
    | with_reducible apply good_updTile
    | with_reducible apply good_setState
    | with_reducible apply good_setHolding
    | with_reducible apply good_updIng
    | with_reducible apply good_beginPlane)

theorem good_takeVerif {bb : Prop} {pp : Part} {qq : List Instr} (s : State) (k : ℕ) (h_s : s.Good bb pp qq) :
    (State.takeVerif s k).Good bb pp qq := by
  unfold State.takeVerif
  try dsimp only
  repeat' (first
    | with_reducible assumption
    | with_reducible apply good_store
    | with_reducible apply good_setState
    | with_reducible apply good_setHolding
    | with_reducible refine good_foldl _ _ ?_ ?_
    | with_reducible refine good_foldr _ _ ?_ ?_
    | simp only [good_mk]
    | simp only [good_mk_gbk]
    | split)

theorem good_taken {bb : Prop} {pp : Part} {qq : List Instr} (s : State) (r : Req) (page : ℕ) (code : ℕ) (h_s : s.Good bb pp qq) :
    (State.taken s r page code).Good bb pp qq := by
  unfold State.taken
  try dsimp only
  repeat' (first
    | with_reducible assumption
    | with_reducible apply good_setResult
    | with_reducible apply good_reached)

theorem good_updTb {bb : Prop} {pp : Part} {qq : List Instr} (s : State) (i : Fin 4) (g : TimeBase → TimeBase) (h_s : s.Good bb pp qq) :
    (State.updTb s i g).Good bb pp qq := by
  unfold State.updTb
  try dsimp only
  repeat' (first
    | with_reducible assumption
    | with_reducible refine good_foldl _ _ ?_ ?_
    | with_reducible refine good_foldr _ _ ?_ ?_
    | simp only [good_mk])

theorem good_tbPut {bb : Prop} {pp : Part} {qq : List Instr} (s : State) (i : Fin 4) (c : ℕ) (h_s : s.Good bb pp qq) :
    (State.tbPut s i c).Good bb pp qq := by
  unfold State.tbPut
  try dsimp only
  repeat' (first
    | with_reducible assumption
    | with_reducible apply good_updTb
    | with_reducible apply good_wr)

theorem good_tbPass {bb : Prop} {pp : Part} {qq : List Instr} (s : State) (i : Fin 4) (forward : Bool) (h_s : s.Good bb pp qq) :
    (State.tbPass s i forward).Good bb pp qq := by
  unfold State.tbPass
  try dsimp only
  repeat' (first
    | with_reducible assumption
    | with_reducible apply good_updTb
    | with_reducible apply good_raise
    | with_reducible apply good_wr
    | with_reducible refine good_foldl _ _ ?_ ?_
    | with_reducible refine good_foldr _ _ ?_ ?_
    | simp only [good_mk]
    | simp only [good_mk_gbk]
    | split)

theorem good_tbAdvance {bb : Prop} {pp : Part} {qq : List Instr} (s : State) (i : Fin 4) (n : ℕ) (h_s : s.Good bb pp qq) :
    (State.tbAdvance s i n).Good bb pp qq := by
  unfold State.tbAdvance
  try dsimp only
  repeat' (first
    | with_reducible assumption
    | with_reducible apply good_tbPut
    | with_reducible apply good_tbPass
    | with_reducible refine good_foldl _ _ ?_ ?_
    | with_reducible refine good_foldr _ _ ?_ ?_
    | simp only [good_mk]
    | simp only [good_mk_gbk]
    | split)

theorem good_tbTick {bb : Prop} {pp : Part} {qq : List Instr} (s : State) (i : Fin 4) (h_s : s.Good bb pp qq) :
    (State.tbTick s i).Good bb pp qq := by
  unfold State.tbTick
  try dsimp only
  repeat' (first
    | with_reducible assumption
    | with_reducible apply good_updTb
    | with_reducible apply good_tbAdvance
    | with_reducible refine good_foldl _ _ ?_ ?_
    | with_reducible refine good_foldr _ _ ?_ ?_
    | simp only [good_mk]
    | simp only [good_mk_gbk]
    | split)

theorem good_tickAxes {bb : Prop} {pp : Part} {qq : List Instr} (s : State) (h_s : s.Good bb pp qq) :
    (State.tickAxes s).Good bb pp qq := by
  unfold State.tickAxes
  try dsimp only
  repeat' (first
    | with_reducible assumption
    | with_reducible apply good_chopTick
    | with_reducible apply good_axisTick
    | with_reducible refine good_foldl _ _ ?_ ?_
    | with_reducible refine good_foldr _ _ ?_ ?_
    | simp only [good_mk]
    | simp only [good_mk_gbk]
    | split)

theorem good_travelTick {bb : Prop} {pp : Part} {qq : List Instr} (s : State) (n : Fin 3) (h_s : s.Good bb pp qq) :
    (State.travelTick s n).Good bb pp qq := by
  unfold State.travelTick
  try dsimp only
  repeat' (first
    | with_reducible assumption
    | with_reducible apply good_updEnc
    | with_reducible apply good_encMove
    | with_reducible apply good_posMove
    | with_reducible refine good_foldl _ _ ?_ ?_
    | with_reducible refine good_foldr _ _ ?_ ?_
    | simp only [good_mk]
    | simp only [good_mk_gbk]
    | split)

theorem good_tickCounts {bb : Prop} {pp : Part} {qq : List Instr} (s : State) (h_s : s.Good bb pp qq) :
    (State.tickCounts s).Good bb pp qq := by
  unfold State.tickCounts
  try dsimp only
  repeat' (first
    | with_reducible assumption
    | with_reducible apply good_tbTick
    | with_reducible apply good_travelTick
    | with_reducible refine good_foldl _ _ ?_ ?_)

theorem good_tickDram {bb : Prop} {pp : Part} {qq : List Instr} (s : State) (h_s : s.Good bb pp qq) :
    (State.tickDram s).Good bb pp qq := by
  unfold State.tickDram
  try dsimp only
  repeat' (first
    | with_reducible assumption
    | with_reducible apply good_refreshStep
    | with_reducible apply good_fencesDone
    | with_reducible apply good_serveNext
    | with_reducible refine good_foldl _ _ ?_ ?_
    | with_reducible refine good_foldr _ _ ?_ ?_
    | simp only [good_mk]
    | simp only [good_mk_gbk]
    | split)

theorem good_tickLanes {bb : Prop} {pp : Part} {qq : List Instr} (s : State) (h_s : s.Good bb pp qq) :
    (State.tickLanes s).Good bb pp qq := by
  unfold State.tickLanes
  try dsimp only
  repeat' (first
    | with_reducible assumption
    | with_reducible apply good_laneTick
    | with_reducible refine good_foldl _ _ ?_ ?_)

theorem good_tickPower {bb : Prop} {pp : Part} {qq : List Instr} (s : State) (h_s : s.Good bb pp qq) :
    (State.tickPower s).Good bb pp qq := by
  have h1 : (dropOrder.foldl State.dropStep s).Good bb pp qq :=
    good_foldl _ _ h_s (fun t d h => good_dropStep t d h)
  exact good_poolFollow _ (good_ite _ (good_revote _ id h1 (fun _ h => h)) h1)

theorem good_tickSpeed {bb : Prop} {pp : Part} {qq : List Instr} (s : State) (h_s : s.Good bb pp qq) :
    (State.tickSpeed s).Good bb pp qq := by
  unfold State.tickSpeed
  try dsimp only
  repeat' (first
    | with_reducible assumption
    | with_reducible apply good_avgSpeed
    | with_reducible apply good_judgeSpeed
    | with_reducible refine good_foldl _ _ ?_ ?_
    | with_reducible refine good_foldr _ _ ?_ ?_
    | simp only [good_mk]
    | simp only [good_mk_gbk]
    | split)

theorem good_tickSystem {bb : Prop} {pp : Part} {qq : List Instr} (s : State) (h_s : s.Good bb pp qq) :
    (State.tickSystem s).Good bb pp qq := by
  unfold State.tickSystem
  try dsimp only
  repeat' (first
    | with_reducible assumption
    | with_reducible apply good_notePanic
    | with_reducible apply good_gbkDrain
    | with_reducible apply good_setStage
    | with_reducible refine good_foldl _ _ ?_ ?_
    | with_reducible refine good_foldr _ _ ?_ ?_
    | simp only [good_mk]
    | simp only [good_mk_gbk]
    | split)

theorem good_trigNext {bb : Prop} {pp : Part} {qq : List Instr} (s : State) (h_s : s.Good bb pp qq) :
    (State.trigNext s).Good bb pp qq := by
  unfold State.trigNext
  try dsimp only
  repeat' (first
    | with_reducible assumption
    | with_reducible apply good_add2
    | with_reducible refine good_foldl _ _ ?_ ?_
    | with_reducible refine good_foldr _ _ ?_ ?_
    | simp only [good_mk])

theorem good_trlCopied {bb : Prop} {pp : Part} {qq : List Instr} (s : State) (h : ℕ) (h_s : s.Good bb pp qq) :
    (State.trlCopied s h).Good bb pp qq := by
  unfold State.trlCopied
  try dsimp only
  repeat' (first
    | with_reducible assumption
    | with_reducible apply good_trlSync
    | with_reducible apply good_trlSwap
    | with_reducible apply good_updTrl
    | with_reducible refine good_foldl _ _ ?_ ?_
    | with_reducible refine good_foldr _ _ ?_ ?_
    | simp only [good_mk]
    | simp only [good_mk_gbk]
    | split)

theorem good_trlPoison {bb : Prop} {pp : Part} {qq : List Instr} (s : State) (h : ℕ) (line : ℕ) (place : ℕ) (kind : ℕ) (plane : ℕ) (h_s : s.Good bb pp qq) :
    (State.trlPoison s h line place kind plane).Good bb pp qq := by
  unfold State.trlPoison
  try dsimp only
  repeat' (first
    | with_reducible assumption
    | with_reducible apply good_wr
    | with_reducible apply good_incSat
    | with_reducible apply good_raiseD)

theorem good_trlStore {bb : Prop} {pp : Part} {qq : List Instr} (s : State) (r : Req) (h : ℕ) (ofs : ℕ) (bs : List Byte) (bad : Bool) (h_s : s.Good bb pp qq) :
    (State.trlStore s r h ofs bs bad).Good bb pp qq := by
  unfold State.trlStore
  try dsimp only
  repeat' (first
    | with_reducible assumption
    | with_reducible apply good_dropWrite
    | with_reducible apply good_updTrl
    | with_reducible apply good_setState
    | with_reducible apply good_store
    | with_reducible refine good_foldl _ _ ?_ ?_
    | with_reducible refine good_foldr _ _ ?_ ?_
    | simp only [good_mk]
    | simp only [good_mk_gbk]
    | split)

theorem good_trlRelease {bb : Prop} {pp : Part} {qq : List Instr} (s : State) (h : ℕ) (x : Held) (h_s : s.Good bb pp qq) :
    (State.trlRelease s h x).Good bb pp qq := by
  unfold State.trlRelease
  try dsimp only
  repeat' (first
    | with_reducible assumption
    | with_reducible apply good_trlAccess
    | with_reducible apply good_trlStore
    | with_reducible apply good_behind
    | with_reducible apply good_wordWrite
    | with_reducible apply good_readFirst
    | with_reducible refine good_foldl _ _ ?_ ?_
    | with_reducible refine good_foldr _ _ ?_ ?_
    | simp only [good_mk]
    | simp only [good_mk_gbk]
    | split
    | intro _)

end Sys2Proof.Machine
end

