-- ==== Sys2Proof/Laws/Keep6.lean ====
section
/-! SUPPORT. Part 6 of 8: every operation and every meaning keeps the part, the queue and
the canonical forms (`State.Good`), one lemma per definition, in the order of the definitions. -/

namespace Sys2Proof.Machine

theorem good_unlockFails {bb : Prop} {pp : Part} {qq : List Instr} (s : State) (h_s : s.Good bb pp qq) :
    (State.unlockFails s).Good bb pp qq := by
  unfold State.unlockFails
  try dsimp only
  repeat' (first
    | with_reducible assumption
    | with_reducible apply good_raise
    | with_reducible apply good_incSat
    | with_reducible apply good_setGth)

theorem good_zeroize {bb : Prop} {pp : Part} {qq : List Instr} (s : State) (h_s : s.Good bb pp qq) :
    (State.zeroize s).Good bb pp qq := by
  unfold State.zeroize
  try dsimp only
  repeat' (first
    | with_reducible assumption
    | with_reducible apply good_setGth
    | with_reducible apply good_wr
    | with_reducible apply good_setState
    | with_reducible refine good_foldl _ _ ?_ ?_
    | with_reducible refine good_foldr _ _ ?_ ?_
    | simp only [good_mk]
    | simp only [good_mk_gbk]
    | split
    | intro _)

theorem good_unlocked {bb : Prop} {pp : Part} {qq : List Instr} (s : State) (scope : ℕ) (h_s : s.Good bb pp qq) :
    (State.unlocked s scope).Good bb pp qq := by
  unfold State.unlocked
  try dsimp only
  repeat' (first
    | with_reducible assumption
    | with_reducible apply good_setGth
    | with_reducible apply good_wr
    | with_reducible apply good_setState
    | with_reducible apply good_zeroize
    | with_reducible refine good_foldl _ _ ?_ ?_
    | with_reducible refine good_foldr _ _ ?_ ?_
    | simp only [good_mk]
    | simp only [good_mk_gbk]
    | split)

theorem good_verifBoundary {bb : Prop} {pp : Part} {qq : List Instr} (s : State) (k : ℕ) (h_s : s.Good bb pp qq) :
    (State.verifBoundary s k).Good bb pp qq := by
  unfold State.verifBoundary
  try dsimp only
  repeat' (first
    | with_reducible assumption
    | with_reducible apply good_kioskFree
    | with_reducible refine good_foldl _ _ ?_ ?_
    | with_reducible refine good_foldr _ _ ?_ ?_
    | simp only [good_mk]
    | simp only [good_mk_gbk]
    | split)

theorem good_verifTile {bb : Prop} {pp : Part} {qq : List Instr} (s : State) (k : ℕ) (a : Arc) (h_s : s.Good bb pp qq) :
    (State.verifTile s k a).1.Good bb pp qq := by
  unfold State.verifTile
  try dsimp only
  repeat' (first
    | with_reducible assumption
    | with_reducible apply good_inject
    | with_reducible refine good_foldl _ _ ?_ ?_
    | with_reducible refine good_foldr _ _ ?_ ?_
    | simp only [good_mk]
    | simp only [good_mk_gbk]
    | split)

theorem good_verifTile_eq {bb : Prop} {pp : Part} {qq : List Instr} {s : State} {k : ℕ} {a : Arc} {tOut : State} {zOut : _}
    (h_s : s.Good bb pp qq) (e : State.verifTile s k a = (tOut, zOut)) : tOut.Good bb pp qq := by
  have := good_verifTile s k a h_s; rw [e] at this; exact this

theorem good_walkPass {bb : Prop} {pp : Part} {qq : List Instr} (s : State) (i : Fin 4) (k : ℕ) (h_s : s.Good bb pp qq) :
    (State.walkPass s i k).Good bb pp qq := by
  unfold State.walkPass
  try dsimp only
  repeat' (first
    | with_reducible assumption
    | with_reducible apply good_loopWalk
    | with_reducible apply good_updStm
    | with_reducible apply good_loopHead
    | with_reducible apply good_offerLoop
    | with_reducible exact good_loopHead_eq (by assumption) (by assumption)
    | with_reducible exact good_offerLoop_eq (by assumption) (by assumption)
    | with_reducible refine good_foldl _ _ ?_ ?_
    | with_reducible refine good_foldr _ _ ?_ ?_
    | simp only [good_mk]
    | simp only [good_mk_gbk]
    | split
    | intro _)

theorem good_whenAccess {bb : Prop} {pp : Part} {qq : List Instr} (s : State) (r : Req) (page : ℕ) (mode : ℕ) (h_s : s.Good bb pp qq) :
    (State.whenAccess s r page mode).Good bb pp qq := by
  unfold State.whenAccess
  try dsimp only
  repeat' (first
    | with_reducible assumption
    | with_reducible apply good_behind
    | with_reducible apply good_whenWrite
    | with_reducible refine good_foldl _ _ ?_ ?_
    | with_reducible refine good_foldr _ _ ?_ ?_
    | simp only [good_mk]
    | simp only [good_mk_gbk]
    | split
    | intro _)

theorem good_windowRead {bb : Prop} {pp : Part} {qq : List Instr} (s : State) (r : Req) (a : ℕ) (n : ℕ) (h_s : s.Good bb pp qq) :
    (State.windowRead s r a n).Good bb pp qq := by
  unfold State.windowRead
  try dsimp only
  repeat' (first
    | with_reducible assumption
    | with_reducible apply good_emit
    | with_reducible apply good_reqErr
    | with_reducible apply good_readMem
    | with_reducible exact good_readMem_eq (by assumption) (by assumption)
    | with_reducible refine good_foldl _ _ ?_ ?_
    | with_reducible refine good_foldr _ _ ?_ ?_
    | simp only [good_mk]
    | simp only [good_mk_gbk]
    | split)

theorem good_windowScan {bb : Prop} {pp : Part} {qq : List Instr} (s : State) (c : ℕ) (code : ℕ) (h_s : s.Good bb pp qq) :
    (State.windowScan s c code).Good bb pp qq := by
  unfold State.windowScan
  try dsimp only
  repeat' (first
    | with_reducible assumption
    | with_reducible apply good_judgeWindow
    | with_reducible apply good_raise
    | with_reducible exact good_judgeWindow_eq (by assumption) (by assumption)
    | with_reducible refine good_foldl _ _ ?_ ?_
    | with_reducible refine good_foldr _ _ ?_ ?_
    | simp only [good_mk]
    | simp only [good_mk_gbk]
    | split
    | intro _)

theorem good_windowWrite {bb : Prop} {pp : Part} {qq : List Instr} (s : State) (r : Req) (a : ℕ) (bs : List Byte) (bad : Bool) (h_s : s.Good bb pp qq) :
    (State.windowWrite s r a bs bad).Good bb pp qq := by
  unfold State.windowWrite
  try dsimp only
  repeat' (first
    | with_reducible assumption
    | with_reducible apply good_reqErr
    | with_reducible apply good_dropWrite
    | with_reducible apply good_land
    | with_reducible apply good_trlStore
    | with_reducible apply good_camStore
    | with_reducible refine good_foldl _ _ ?_ ?_
    | with_reducible refine good_foldr _ _ ?_ ?_
    | simp only [good_mk]
    | simp only [good_mk_gbk]
    | split)

theorem good_workBlock {bb : Prop} {pp : Part} {qq : List Instr} (s : State) (k : ℕ) (t : Tile) (h_s : s.Good bb pp qq) :
    (State.workBlock s k t).Good bb pp qq := by
  unfold State.workBlock
  try dsimp only
  repeat' (first
    | with_reducible assumption
    | with_reducible apply good_poisonTile
    | with_reducible apply good_breakTile
    | with_reducible apply good_writeBlock
    | with_reducible apply good_updTile
    | with_reducible apply good_countCycles
    | with_reducible apply good_atBoundary
    | with_reducible apply good_lineDone
    | with_reducible refine good_foldl _ _ ?_ ?_
    | with_reducible refine good_foldr _ _ ?_ ?_
    | simp only [good_mk]
    | simp only [good_mk_gbk]
    | split)

theorem good_workLast {bb : Prop} {pp : Part} {qq : List Instr} (s : State) (k : ℕ) (t : Tile) (h_s : s.Good bb pp qq) :
    (State.workLast s k t).Good bb pp qq := by
  unfold State.workLast
  try dsimp only
  repeat' (first
    | with_reducible assumption
    | with_reducible apply good_poisonTile
    | with_reducible apply good_breakTile
    | with_reducible apply good_countCycles
    | with_reducible apply good_writeBlock
    | with_reducible apply good_lineDone
    | with_reducible apply good_add2
    | with_reducible apply good_kioskFree
    | with_reducible apply good_freeTile
    | with_reducible apply good_stopTile
    | with_reducible refine good_foldl _ _ ?_ ?_
    | with_reducible refine good_foldr _ _ ?_ ?_
    | simp only [good_mk]
    | simp only [good_mk_gbk]
    | split)

theorem good_wrAc {bb : Prop} {pp : Part} {qq : List Instr} (s : State) (page : ℕ) (f : Fld) (v : ℕ) (h_s : s.Good bb pp qq) :
    (State.wrAc s page f v).Good bb pp qq := by
  unfold State.wrAc
  try dsimp only
  repeat' (first
    | with_reducible assumption
    | with_reducible apply good_setActWord)

theorem good_zeroSram {bb : Prop} {pp : Part} {qq : List Instr} (s : State) (h_s : s.Good bb pp qq) :
    (State.zeroSram s).Good bb pp qq :=
  ⟨h_s.1, h_s.2.1, fun hb => ⟨Tbl.canonical_filter _ _ _ (h_s.2.2 hb).mem, (h_s.2.2 hb).flash,
    (h_s.2.2 hb).queue⟩⟩

theorem good_execAckInterval {bb : Prop} {pp : Part} {qq : List Instr} (i : Fin 4) (s : State) (h_s : s.Good bb pp qq) :
    ∀ tOut : State, execAckInterval i s = .next tOut → tOut.Good bb pp qq := by
  unfold execAckInterval
  try dsimp only
  refine good_run _ ?_ h_s
  repeat' (first
    | with_reducible assumption
    | with_reducible apply good_onlyIf
    | with_reducible apply good_sendAck
    | with_reducible refine good_foldl _ _ ?_ ?_
    | with_reducible refine good_foldr _ _ ?_ ?_
    | simp only [good_mk]
    | simp only [good_mk_gbk]
    | split
    | intro _)

theorem good_gkpAct {bb : Prop} {pp : Part} {qq : List Instr} (r : Req) (f : State → State) (s : State) (h_f : ∀ t : State, t.Good bb pp qq → (f t).Good bb pp qq) (h_s : s.Good bb pp qq) :
    (gkpAct r f s).Good bb pp qq := by
  unfold gkpAct
  try dsimp only
  repeat' (first
    | with_reducible assumption
    | with_reducible apply h_f
    | with_reducible apply good_access
    | with_reducible apply good_dropWrite
    | with_reducible refine good_foldl _ _ ?_ ?_
    | with_reducible refine good_foldr _ _ ?_ ?_
    | simp only [good_mk]
    | simp only [good_mk_gbk]
    | split
    | intro _)

theorem good_execActCfgResult {bb : Prop} {pp : Part} {qq : List Instr} (r : Req) (code : BitVec 4) (s : State) (h_s : s.Good bb pp qq) :
    ∀ tOut : State, execActCfgResult r code s = .next tOut → tOut.Good bb pp qq := by
  unfold execActCfgResult
  try dsimp only
  refine good_run _ ?_ h_s
  repeat' (first
    | with_reducible assumption
    | with_reducible apply good_gkpAct
    | with_reducible apply good_actCfgResult
    | with_reducible refine good_foldl _ _ ?_ ?_
    | with_reducible refine good_foldr _ _ ?_ ?_
    | simp only [good_mk]
    | simp only [good_mk_gbk]
    | split
    | intro _)

theorem good_execActFallback {bb : Prop} {pp : Part} {qq : List Instr} (r : Req) (code : BitVec 4) (s : State) (h_s : s.Good bb pp qq) :
    ∀ tOut : State, execActFallback r code s = .next tOut → tOut.Good bb pp qq := by
  unfold execActFallback
  try dsimp only
  refine good_run _ ?_ h_s
  repeat' (first
    | with_reducible assumption
    | with_reducible apply good_gkpAct
    | with_reducible apply good_actFallback
    | with_reducible refine good_foldl _ _ ?_ ?_
    | with_reducible refine good_foldr _ _ ?_ ?_
    | simp only [good_mk]
    | simp only [good_mk_gbk]
    | split
    | intro _)

theorem good_execActSwap {bb : Prop} {pp : Part} {qq : List Instr} (r : Req) (s : State) (h_s : s.Good bb pp qq) :
    ∀ tOut : State, execActSwap r s = .next tOut → tOut.Good bb pp qq := by
  unfold execActSwap
  try dsimp only
  refine good_run _ ?_ h_s
  repeat' (first
    | with_reducible assumption
    | with_reducible apply good_gkpAct
    | with_reducible apply good_actSwap
    | with_reducible refine good_foldl _ _ ?_ ?_
    | with_reducible refine good_foldr _ _ ?_ ?_
    | simp only [good_mk]
    | simp only [good_mk_gbk]
    | split
    | intro _)

theorem good_execActTakenOver {bb : Prop} {pp : Part} {qq : List Instr} (r : Req) (s : State) (h_s : s.Good bb pp qq) :
    ∀ tOut : State, execActTakenOver r s = .next tOut → tOut.Good bb pp qq := by
  unfold execActTakenOver
  try dsimp only
  refine good_run _ ?_ h_s
  repeat' (first
    | with_reducible assumption
    | with_reducible apply good_gkpAct
    | with_reducible apply good_actTakenOver
    | with_reducible refine good_foldl _ _ ?_ ?_
    | with_reducible refine good_foldr _ _ ?_ ?_
    | simp only [good_mk]
    | simp only [good_mk_gbk]
    | split
    | intro _)

theorem good_execAdcConversion {bb : Prop} {pp : Part} {qq : List Instr} (code : BitVec 12) (s : State) (h_s : s.Good bb pp qq) :
    ∀ tOut : State, execAdcConversion code s = .next tOut → tOut.Good bb pp qq := by
  unfold execAdcConversion
  try dsimp only
  refine good_run _ ?_ h_s
  repeat' (first
    | with_reducible assumption
    | with_reducible apply good_convert
    | with_reducible apply good_updMon
    | with_reducible apply good_windowScan
    | with_reducible exact good_convert_eq (by assumption) (by assumption)
    | with_reducible refine good_foldl _ _ ?_ ?_
    | with_reducible refine good_foldr _ _ ?_ ?_
    | simp only [good_mk]
    | simp only [good_mk_gbk]
    | split
    | intro _)

theorem good_execAdmissionCheck {bb : Prop} {pp : Part} {qq : List Instr} (s : State) (h_s : s.Good bb pp qq) :
    ∀ tOut : State, execAdmissionCheck s = .next tOut → tOut.Good bb pp qq := by
  unfold execAdmissionCheck
  try dsimp only
  refine good_run _ ?_ h_s
  repeat' (first
    | with_reducible assumption
    | with_reducible apply good_onlyIf
    | with_reducible apply good_wr
    | with_reducible apply good_raise
    | with_reducible apply good_updIng
    | with_reducible refine good_foldl _ _ ?_ ?_
    | with_reducible refine good_foldr _ _ ?_ ?_
    | simp only [good_mk]
    | simp only [good_mk_gbk]
    | split
    | intro _)

theorem good_execAlertRepeat {bb : Prop} {pp : Part} {qq : List Instr} (j : Fin 8) (s : State) (h_s : s.Good bb pp qq) :
    ∀ tOut : State, execAlertRepeat j s = .next tOut → tOut.Good bb pp qq := by
  unfold execAlertRepeat
  try dsimp only
  refine good_run _ ?_ h_s
  repeat' (first
    | with_reducible assumption
    | with_reducible apply good_onlyIf
    | with_reducible apply good_statusReqs
    | with_reducible refine good_foldl _ _ ?_ ?_
    | with_reducible refine good_foldr _ _ ?_ ?_
    | simp only [good_mk]
    | simp only [good_mk_gbk]
    | split
    | intro _)

theorem good_execAlertStuck {bb : Prop} {pp : Part} {qq : List Instr} (j : Fin 8) (s : State) (h_s : s.Good bb pp qq) :
    ∀ tOut : State, execAlertStuck j s = .next tOut → tOut.Good bb pp qq := by
  unfold execAlertStuck
  try dsimp only
  refine good_run _ ?_ h_s
  repeat' (first
    | with_reducible assumption
    | with_reducible apply good_onlyIf
    | with_reducible apply good_raiseD
    | with_reducible apply good_setAlertBit
    | with_reducible refine good_foldl _ _ ?_ ?_
    | with_reducible refine good_foldr _ _ ?_ ?_
    | simp only [good_mk]
    | simp only [good_mk_gbk]
    | split
    | intro _)

theorem good_execAlign {bb : Prop} {pp : Part} {qq : List Instr} (r : Req) (arg : BitVec 16) (s : State) (h_s : s.Good bb pp qq) :
    ∀ tOut : State, execAlign r arg s = .next tOut → tOut.Good bb pp qq := by
  unfold execAlign
  try dsimp only
  refine good_run _ ?_ h_s
  repeat' (first
    | with_reducible assumption
    | with_reducible apply good_command
    | with_reducible apply good_setBusy
    | with_reducible apply good_updQlp
    | with_reducible refine good_foldl _ _ ?_ ?_
    | with_reducible refine good_foldr _ _ ?_ ?_
    | simp only [good_mk]
    | simp only [good_mk_gbk]
    | split
    | intro _)

theorem good_execAlignCheck {bb : Prop} {pp : Part} {qq : List Instr} (r : Req) (arg : BitVec 16) (s : State) (h_s : s.Good bb pp qq) :
    ∀ tOut : State, execAlignCheck r arg s = .next tOut → tOut.Good bb pp qq := by
  unfold execAlignCheck
  try dsimp only
  refine good_run _ ?_ h_s
  repeat' (first
    | with_reducible assumption
    | with_reducible apply good_command
    | with_reducible apply good_checkOk
    | with_reducible apply good_checkAlign
    | with_reducible refine good_foldl _ _ ?_ ?_
    | with_reducible refine good_foldr _ _ ?_ ?_
    | simp only [good_mk]
    | simp only [good_mk_gbk]
    | split
    | intro _)

theorem good_execAlignDone {bb : Prop} {pp : Part} {qq : List Instr} (s : State) (h_s : s.Good bb pp qq) :
    ∀ tOut : State, execAlignDone s = .next tOut → tOut.Good bb pp qq := by
  unfold execAlignDone
  try dsimp only
  refine good_run _ ?_ h_s
  repeat' (first
    | with_reducible assumption
    | with_reducible apply good_raise
    | with_reducible apply good_alignEnd
    | with_reducible apply good_alignFit
    | with_reducible refine good_foldl _ _ ?_ ?_
    | with_reducible refine good_foldr _ _ ?_ ?_
    | simp only [good_mk]
    | simp only [good_mk_gbk]
    | split
    | intro _)

theorem good_execAlignTimeout {bb : Prop} {pp : Part} {qq : List Instr} (s : State) (h_s : s.Good bb pp qq) :
    ∀ tOut : State, execAlignTimeout s = .next tOut → tOut.Good bb pp qq := by
  unfold execAlignTimeout
  try dsimp only
  refine good_run _ ?_ h_s
  repeat' (first
    | with_reducible assumption
    | with_reducible apply good_raise
    | with_reducible apply good_alignEnd
    | with_reducible refine good_foldl _ _ ?_ ?_
    | with_reducible refine good_foldr _ _ ?_ ?_
    | simp only [good_mk]
    | simp only [good_mk_gbk]
    | split
    | intro _)

theorem good_execApplyRibbons {bb : Prop} {pp : Part} {qq : List Instr} (r : Req) (arg : BitVec 16) (s : State) (h_s : s.Good bb pp qq) :
    ∀ tOut : State, execApplyRibbons r arg s = .next tOut → tOut.Good bb pp qq := by
  unfold execApplyRibbons
  try dsimp only
  refine good_run _ ?_ h_s
  repeat' (first
    | with_reducible assumption
    | with_reducible apply good_command
    | with_reducible apply good_updRib
    | with_reducible refine good_foldl _ _ ?_ ?_
    | with_reducible refine good_foldr _ _ ?_ ?_
    | simp only [good_mk]
    | simp only [good_mk_gbk]
    | split
    | intro _)

theorem good_execArcAbort {bb : Prop} {pp : Part} {qq : List Instr} (r : Req) (arg : BitVec 16) (s : State) (h_s : s.Good bb pp qq) :
    ∀ tOut : State, execArcAbort r arg s = .next tOut → tOut.Good bb pp qq := by
  unfold execArcAbort
  try dsimp only
  refine good_run _ ?_ h_s
  repeat' (first
    | with_reducible assumption
    | with_reducible apply good_command
    | with_reducible apply good_arcFail
    | with_reducible refine good_foldl _ _ ?_ ?_
    | with_reducible refine good_foldr _ _ ?_ ?_
    | simp only [good_mk]
    | simp only [good_mk_gbk]
    | split
    | intro _)

theorem good_execArchive {bb : Prop} {pp : Part} {qq : List Instr} (r : Req) (arg : BitVec 16) (s : State) (h_s : s.Good bb pp qq) :
    ∀ tOut : State, execArchive r arg s = .next tOut → tOut.Good bb pp qq := by
  unfold execArchive
  try dsimp only
  refine good_run _ ?_ h_s
  repeat' (first
    | with_reducible assumption
    | with_reducible apply good_command
    | with_reducible apply good_arcStart
    | with_reducible refine good_foldl _ _ ?_ ?_
    | with_reducible refine good_foldr _ _ ?_ ?_
    | simp only [good_mk]
    | simp only [good_mk_gbk]
    | split
    | intro _)

theorem good_execArchiveDone {bb : Prop} {pp : Part} {qq : List Instr} (s : State) (h_s : s.Good bb pp qq) :
    ∀ tOut : State, execArchiveDone s = .next tOut → tOut.Good bb pp qq := by
  unfold execArchiveDone
  try dsimp only
  refine good_run _ ?_ h_s
  repeat' (first
    | with_reducible assumption
    | with_reducible apply good_arcFail
    | with_reducible apply good_arcCommit
    | with_reducible refine good_foldl _ _ ?_ ?_
    | with_reducible refine good_foldr _ _ ?_ ?_
    | simp only [good_mk]
    | simp only [good_mk_gbk]
    | split
    | intro _)

theorem good_execArchiveTileVerified {bb : Prop} {pp : Part} {qq : List Instr} (s : State) (h_s : s.Good bb pp qq) :
    ∀ tOut : State, execArchiveTileVerified s = .next tOut → tOut.Good bb pp qq := by
  unfold execArchiveTileVerified
  try dsimp only
  refine good_run _ ?_ h_s
  repeat' (first
    | with_reducible assumption
    | with_reducible apply good_onlyIf
    | with_reducible apply good_verifTile
    | with_reducible apply good_dropVerif
    | with_reducible apply good_arcBad
    | with_reducible apply good_updArc
    | with_reducible apply good_incSat
    | with_reducible apply good_arcTile
    | with_reducible exact good_verifTile_eq (by assumption) (by assumption)
    | with_reducible refine good_foldl _ _ ?_ ?_
    | with_reducible refine good_foldr _ _ ?_ ?_
    | simp only [good_mk]
    | simp only [good_mk_gbk]
    | split
    | intro _)

theorem good_execAssertFault {bb : Prop} {pp : Part} {qq : List Instr} (r : Req) (arg : BitVec 16) (s : State) (h_s : s.Good bb pp qq) :
    ∀ tOut : State, execAssertFault r arg s = .next tOut → tOut.Good bb pp qq := by
  unfold execAssertFault
  try dsimp only
  refine good_run _ ?_ h_s
  repeat' (first
    | with_reducible assumption
    | with_reducible apply good_command
    | with_reducible apply good_wr
    | with_reducible refine good_foldl _ _ ?_ ?_
    | with_reducible refine good_foldr _ _ ?_ ?_
    | simp only [good_mk]
    | simp only [good_mk_gbk]
    | split
    | intro _)

theorem good_execAutoReturn {bb : Prop} {pp : Part} {qq : List Instr} (s : State) (h_s : s.Good bb pp qq) :
    ∀ tOut : State, execAutoReturn s = .next tOut → tOut.Good bb pp qq := by
  unfold execAutoReturn
  try dsimp only
  refine good_run _ ?_ h_s
  repeat' (first
    | with_reducible assumption
    | with_reducible apply good_onlyIf
    | with_reducible apply good_startMove
    | with_reducible refine good_foldl _ _ ?_ ?_
    | with_reducible refine good_foldr _ _ ?_ ?_
    | simp only [good_mk]
    | simp only [good_mk_gbk]
    | split
    | intro _)

theorem good_execAxisDisable {bb : Prop} {pp : Part} {qq : List Instr} (r : Req) (a : Fin 4) (s : State) (h_s : s.Good bb pp qq) :
    ∀ tOut : State, execAxisDisable r a s = .next tOut → tOut.Good bb pp qq := by
  unfold execAxisDisable
  try dsimp only
  refine good_run _ ?_ h_s
  repeat' (first
    | with_reducible assumption
    | with_reducible apply good_access
    | with_reducible apply good_axisDisable
    | with_reducible refine good_foldl _ _ ?_ ?_
    | with_reducible refine good_foldr _ _ ?_ ?_
    | simp only [good_mk]
    | simp only [good_mk_gbk]
    | split
    | intro _)

theorem good_execAxisEnable {bb : Prop} {pp : Part} {qq : List Instr} (r : Req) (a : Fin 4) (s : State) (h_s : s.Good bb pp qq) :
    ∀ tOut : State, execAxisEnable r a s = .next tOut → tOut.Good bb pp qq := by
  unfold execAxisEnable
  try dsimp only
  refine good_run _ ?_ h_s
  repeat' (first
    | with_reducible assumption
    | with_reducible apply good_access
    | with_reducible apply good_updAxis
    | with_reducible apply good_dropWrite
    | with_reducible apply good_axisEnable
    | with_reducible refine good_foldl _ _ ?_ ?_
    | with_reducible refine good_foldr _ _ ?_ ?_
    | simp only [good_mk]
    | simp only [good_mk_gbk]
    | split
    | intro _)

theorem good_execAxisLoadDefault {bb : Prop} {pp : Part} {qq : List Instr} (r : Req) (a : Fin 4) (arg : BitVec 16) (s : State) (h_s : s.Good bb pp qq) :
    ∀ tOut : State, execAxisLoadDefault r a arg s = .next tOut → tOut.Good bb pp qq := by
  unfold execAxisLoadDefault
  try dsimp only
  refine good_run _ ?_ h_s
  repeat' (first
    | with_reducible assumption
    | with_reducible apply good_command
    | with_reducible apply good_defaultSteps
    | with_reducible refine good_foldl _ _ ?_ ?_
    | with_reducible refine good_foldr _ _ ?_ ?_
    | simp only [good_mk]
    | simp only [good_mk_gbk]
    | split
    | intro _)

theorem good_execAxisStop {bb : Prop} {pp : Part} {qq : List Instr} (r : Req) (a : Fin 4) (arg : BitVec 16) (s : State) (h_s : s.Good bb pp qq) :
    ∀ tOut : State, execAxisStop r a arg s = .next tOut → tOut.Good bb pp qq := by
  unfold execAxisStop
  try dsimp only
  refine good_run _ ?_ h_s
  repeat' (first
    | with_reducible assumption
    | with_reducible apply good_command
    | with_reducible apply good_rampAxis
    | with_reducible refine good_foldl _ _ ?_ ?_
    | with_reducible refine good_foldr _ _ ?_ ?_
    | simp only [good_mk]
    | simp only [good_mk_gbk]
    | split
    | intro _)

theorem good_execBankSyncDone {bb : Prop} {pp : Part} {qq : List Instr} (page : BitVec 12) (s : State) (h_s : s.Good bb pp qq) :
    ∀ tOut : State, execBankSyncDone page s = .next tOut → tOut.Good bb pp qq := by
  unfold execBankSyncDone
  try dsimp only
  refine good_run _ ?_ h_s
  repeat' (first
    | with_reducible assumption
    | with_reducible apply good_onlyIf
    | with_reducible apply good_fencesDone
    | with_reducible apply good_trlRelease
    | with_reducible apply good_updTrl
    | with_reducible apply good_trlCopied
    | with_reducible apply good_camRelease
    | with_reducible apply good_updCam
    | with_reducible apply good_camCopied
    | with_reducible refine good_foldl _ _ ?_ ?_
    | with_reducible refine good_foldr _ _ ?_ ?_
    | simp only [good_mk]
    | simp only [good_mk_gbk]
    | split
    | intro _)

theorem good_execBistLate {bb : Prop} {pp : Part} {qq : List Instr} (s : State) (h_s : s.Good bb pp qq) :
    ∀ tOut : State, execBistLate s = .next tOut → tOut.Good bb pp qq := by
  unfold execBistLate
  try dsimp only
  refine good_run _ ?_ h_s
  repeat' (first
    | with_reducible assumption
    | with_reducible apply good_onlyIf
    | with_reducible apply good_record
    | with_reducible apply good_wr
    | with_reducible refine good_foldl _ _ ?_ ?_
    | with_reducible refine good_foldr _ _ ?_ ?_
    | simp only [good_mk]
    | simp only [good_mk_gbk]
    | split
    | intro _)

theorem good_execBridgeTrip {bb : Prop} {pp : Part} {qq : List Instr} (a : Fin 4) (s : State) (h_s : s.Good bb pp qq) :
    ∀ tOut : State, execBridgeTrip a s = .next tOut → tOut.Good bb pp qq := by
  unfold execBridgeTrip
  try dsimp only
  refine good_run _ ?_ h_s
  repeat' (first
    | with_reducible assumption
    | with_reducible apply good_onlyIf
    | with_reducible apply good_bridgeFault
    | with_reducible refine good_foldl _ _ ?_ ?_
    | with_reducible refine good_foldr _ _ ?_ ?_
    | simp only [good_mk]
    | simp only [good_mk_gbk]
    | split
    | intro _)

theorem good_execBypassHold {bb : Prop} {pp : Part} {qq : List Instr} (n : Fin 15) (s : State) (h_s : s.Good bb pp qq) :
    ∀ tOut : State, execBypassHold n s = .next tOut → tOut.Good bb pp qq := by
  unfold execBypassHold
  try dsimp only
  refine good_run _ ?_ h_s
  repeat' (first
    | with_reducible assumption
    | with_reducible apply good_onlyIf
    | with_reducible apply good_raise
    | with_reducible apply good_setPll
    | with_reducible refine good_foldl _ _ ?_ ?_
    | with_reducible refine good_foldr _ _ ?_ ?_
    | simp only [good_mk]
    | simp only [good_mk_gbk]
    | split
    | intro _)

theorem good_execCalibrate {bb : Prop} {pp : Part} {qq : List Instr} (r : Req) (n : Fin 3) (arg : BitVec 16) (s : State) (h_s : s.Good bb pp qq) :
    ∀ tOut : State, execCalibrate r n arg s = .next tOut → tOut.Good bb pp qq := by
  unfold execCalibrate
  try dsimp only
  refine good_run _ ?_ h_s
  repeat' (first
    | with_reducible assumption
    | with_reducible apply good_command
    | with_reducible apply good_wr
    | with_reducible apply good_setState
    | with_reducible apply good_setBusy
    | with_reducible apply good_updEnc
    | with_reducible refine good_foldl _ _ ?_ ?_
    | with_reducible refine good_foldr _ _ ?_ ?_
    | simp only [good_mk]
    | simp only [good_mk_gbk]
    | split
    | intro _)

theorem good_execCalibrationFitEnd {bb : Prop} {pp : Part} {qq : List Instr} (n : Fin 3) (complete : Bool) (s : State) (h_s : s.Good bb pp qq) :
    ∀ tOut : State, execCalibrationFitEnd n complete s = .next tOut → tOut.Good bb pp qq := by
  unfold execCalibrationFitEnd
  try dsimp only
  refine good_run _ ?_ h_s
  repeat' (first
    | with_reducible assumption
    | with_reducible apply good_onlyIf
    | with_reducible apply good_encAbandon
    | with_reducible apply good_setState
    | with_reducible apply good_draw
    | with_reducible apply good_updEnc
    | with_reducible apply good_encSelfCommit
    | with_reducible refine good_foldl _ _ ?_ ?_
    | with_reducible refine good_foldr _ _ ?_ ?_
    | simp only [good_mk]
    | simp only [good_mk_gbk]
    | split
    | intro _)

theorem good_execCamDisable {bb : Prop} {pp : Part} {qq : List Instr} (r : Req) (k : Fin 6) (s : State) (h_s : s.Good bb pp qq) :
    ∀ tOut : State, execCamDisable r k s = .next tOut → tOut.Good bb pp qq := by
  unfold execCamDisable
  try dsimp only
  refine good_run _ ?_ h_s
  repeat' (first
    | with_reducible assumption
    | with_reducible apply good_access
    | with_reducible apply good_behind
    | with_reducible apply good_enableWrite
    | with_reducible refine good_foldl _ _ ?_ ?_
    | with_reducible refine good_foldr _ _ ?_ ?_
    | simp only [good_mk]
    | simp only [good_mk_gbk]
    | split
    | intro _)

theorem good_execCamEnable {bb : Prop} {pp : Part} {qq : List Instr} (r : Req) (k : Fin 6) (s : State) (h_s : s.Good bb pp qq) :
    ∀ tOut : State, execCamEnable r k s = .next tOut → tOut.Good bb pp qq := by
  unfold execCamEnable
  try dsimp only
  refine good_run _ ?_ h_s
  repeat' (first
    | with_reducible assumption
    | with_reducible apply good_access
    | with_reducible apply good_behind
    | with_reducible apply good_enableWrite
    | with_reducible refine good_foldl _ _ ?_ ?_
    | with_reducible refine good_foldr _ _ ?_ ?_
    | simp only [good_mk]
    | simp only [good_mk_gbk]
    | split
    | intro _)

theorem good_execCamLineDelivered {bb : Prop} {pp : Part} {qq : List Instr} (k : Fin 6) (poisoned : List (BitVec 13)) (ces : ℕ) (s : State) (h_s : s.Good bb pp qq) :
    ∀ tOut : State, execCamLineDelivered k poisoned ces s = .next tOut → tOut.Good bb pp qq := by
  unfold execCamLineDelivered
  try dsimp only
  refine good_run _ ?_ h_s
  repeat' (first
    | with_reducible assumption
    | with_reducible apply good_updCam
    | with_reducible apply good_inject
    | with_reducible apply good_camDeliver
    | with_reducible apply good_camToLoop
    | with_reducible apply good_addSat
    | with_reducible apply good_camFinish
    | with_reducible exact good_camDeliver_eq (by assumption) (by assumption)
    | with_reducible refine good_foldl _ _ ?_ ?_
    | with_reducible refine good_foldr _ _ ?_ ?_
    | simp only [good_mk]
    | simp only [good_mk_gbk]
    | split
    | intro _)

theorem good_execCamLoadDefault {bb : Prop} {pp : Part} {qq : List Instr} (r : Req) (k : Fin 6) (arg : BitVec 16) (s : State) (h_s : s.Good bb pp qq) :
    ∀ tOut : State, execCamLoadDefault r k arg s = .next tOut → tOut.Good bb pp qq := by
  unfold execCamLoadDefault
  try dsimp only
  refine good_run _ ?_ h_s
  repeat' (first
    | with_reducible assumption
    | with_reducible apply good_command
    | with_reducible apply good_setCamBank
    | with_reducible apply good_store
    | with_reducible refine good_foldl _ _ ?_ ?_
    | with_reducible refine good_foldr _ _ ?_ ?_
    | simp only [good_mk]
    | simp only [good_mk_gbk]
    | split
    | intro _)

theorem good_execCamLvalFall {bb : Prop} {pp : Part} {qq : List Instr} (k : Fin 6) (rise : List (BitVec 24)) (fall : List (BitVec 24)) (overflow : Bool) (parity : List (BitVec 13)) (s : State) (h_s : s.Good bb pp qq) :
    ∀ tOut : State, execCamLvalFall k rise fall overflow parity s = .next tOut → tOut.Good bb pp qq := by
  unfold execCamLvalFall
  try dsimp only
  refine good_run _ ?_ h_s
  repeat' (first
    | with_reducible assumption
    | with_reducible apply good_updCam
    | with_reducible apply good_camArrive
    | with_reducible refine good_foldl _ _ ?_ ?_
    | with_reducible refine good_foldr _ _ ?_ ?_
    | simp only [good_mk]
    | simp only [good_mk_gbk]
    | split
    | intro _)

theorem good_execCamLvalRise {bb : Prop} {pp : Part} {qq : List Instr} (k : Fin 6) (s : State) (h_s : s.Good bb pp qq) :
    ∀ tOut : State, execCamLvalRise k s = .next tOut → tOut.Good bb pp qq := by
  unfold execCamLvalRise
  try dsimp only
  refine good_run _ ?_ h_s
  repeat' (first
    | with_reducible assumption
    | with_reducible apply good_onlyIf
    | with_reducible apply good_atFolly
    | with_reducible apply good_camExpire
    | with_reducible apply good_updCam
    | with_reducible apply good_camFault
    | with_reducible apply good_incSat
    | with_reducible apply good_camJoin
    | with_reducible exact good_camJoin_eq (by assumption) (by assumption)
    | with_reducible refine good_foldl _ _ ?_ ?_
    | with_reducible refine good_foldr _ _ ?_ ?_
    | simp only [good_mk]
    | simp only [good_mk_gbk]
    | split
    | intro _)

theorem good_execCamRevert {bb : Prop} {pp : Part} {qq : List Instr} (r : Req) (k : Fin 6) (arg : BitVec 16) (s : State) (h_s : s.Good bb pp qq) :
    ∀ tOut : State, execCamRevert r k arg s = .next tOut → tOut.Good bb pp qq := by
  unfold execCamRevert
  try dsimp only
  refine good_run _ ?_ h_s
  repeat' (first
    | with_reducible assumption
    | with_reducible apply good_command
    | with_reducible apply good_setCamBank
    | with_reducible refine good_foldl _ _ ?_ ?_
    | with_reducible refine good_foldr _ _ ?_ ?_
    | simp only [good_mk]
    | simp only [good_mk_gbk]
    | split
    | intro _)

theorem good_execCamTblAccess {bb : Prop} {pp : Part} {qq : List Instr} (r : Req) (k : Fin 6) (write : Option Word) (s : State) (h_s : s.Good bb pp qq) :
    ∀ tOut : State, execCamTblAccess r k write s = .next tOut → tOut.Good bb pp qq := by
  unfold execCamTblAccess
  try dsimp only
  refine good_run _ ?_ h_s
  repeat' (first
    | with_reducible assumption
    | with_reducible apply good_camAccess
    | with_reducible apply good_access
    | with_reducible apply good_readAccess
    | with_reducible refine good_foldl _ _ ?_ ?_
    | with_reducible refine good_foldr _ _ ?_ ?_
    | simp only [good_mk]
    | simp only [good_mk_gbk]
    | split
    | intro _)

theorem good_execCamTriggerMissed {bb : Prop} {pp : Part} {qq : List Instr} (k : Fin 6) (s : State) (h_s : s.Good bb pp qq) :
    ∀ tOut : State, execCamTriggerMissed k s = .next tOut → tOut.Good bb pp qq := by
  unfold execCamTriggerMissed
  try dsimp only
  refine good_run _ ?_ h_s
  repeat' (first
    | with_reducible assumption
    | with_reducible apply good_onlyIf
    | with_reducible apply good_camExpire
    | with_reducible refine good_foldl _ _ ?_ ?_
    | with_reducible refine good_foldr _ _ ?_ ?_
    | simp only [good_mk]
    | simp only [good_mk_gbk]
    | split
    | intro _)

theorem good_execCfgApply {bb : Prop} {pp : Part} {qq : List Instr} (r : Req) (arg : BitVec 16) (s : State) (h_s : s.Good bb pp qq) :
    ∀ tOut : State, execCfgApply r arg s = .next tOut → tOut.Good bb pp qq := by
  unfold execCfgApply
  try dsimp only
  refine good_run _ ?_ h_s
  repeat' (first
    | with_reducible assumption
    | with_reducible apply good_command
    | with_reducible apply good_request
    | with_reducible refine good_foldl _ _ ?_ ?_
    | with_reducible refine good_foldr _ _ ?_ ?_
    | simp only [good_mk]
    | simp only [good_mk_gbk]
    | split
    | intro _)

theorem good_execCfgRevert {bb : Prop} {pp : Part} {qq : List Instr} (r : Req) (arg : BitVec 16) (s : State) (h_s : s.Good bb pp qq) :
    ∀ tOut : State, execCfgRevert r arg s = .next tOut → tOut.Good bb pp qq := by
  unfold execCfgRevert
  try dsimp only
  refine good_run _ ?_ h_s
  repeat' (first
    | with_reducible assumption
    | with_reducible apply good_command
    | with_reducible apply good_request
    | with_reducible refine good_foldl _ _ ?_ ?_
    | with_reducible refine good_foldr _ _ ?_ ?_
    | simp only [good_mk]
    | simp only [good_mk_gbk]
    | split
    | intro _)

theorem good_execChallenge {bb : Prop} {pp : Part} {qq : List Instr} (r : Req) (arg : BitVec 16) (s : State) (h_s : s.Good bb pp qq) :
    ∀ tOut : State, execChallenge r arg s = .next tOut → tOut.Good bb pp qq := by
  unfold execChallenge
  try dsimp only
  refine good_run _ ?_ h_s
  repeat' (first
    | with_reducible assumption
    | with_reducible apply good_command
    | with_reducible apply good_wr
    | with_reducible apply good_draw
    | with_reducible apply good_setGth
    | with_reducible refine good_foldl _ _ ?_ ?_
    | with_reducible refine good_foldr _ _ ?_ ?_
    | simp only [good_mk]
    | simp only [good_mk_gbk]
    | split
    | intro _)

theorem good_execChannelEnable {bb : Prop} {pp : Part} {qq : List Instr} (r : Req) (c : Fin 2) (v : Bool) (s : State) (h_s : s.Good bb pp qq) :
    ∀ tOut : State, execChannelEnable r c v s = .next tOut → tOut.Good bb pp qq := by
  unfold execChannelEnable
  try dsimp only
  refine good_run _ ?_ h_s
  repeat' (first
    | with_reducible assumption
    | with_reducible apply good_access
    | with_reducible apply good_chanSwitch
    | with_reducible refine good_foldl _ _ ?_ ?_
    | with_reducible refine good_foldr _ _ ?_ ?_
    | simp only [good_mk]
    | simp only [good_mk_gbk]
    | split
    | intro _)

theorem good_execChannelTrainDone {bb : Prop} {pp : Part} {qq : List Instr} (c : Fin 2) (ok : Bool) (temp : BitVec 16) (s : State) (h_s : s.Good bb pp qq) :
    ∀ tOut : State, execChannelTrainDone c ok temp s = .next tOut → tOut.Good bb pp qq := by
  unfold execChannelTrainDone
  try dsimp only
  refine good_run _ ?_ h_s
  repeat' (first
    | with_reducible assumption
    | with_reducible apply good_onlyIf
    | with_reducible apply good_wr
    | with_reducible apply good_updChan
    | with_reducible apply good_setState
    | with_reducible apply good_raise
    | with_reducible refine good_foldl _ _ ?_ ?_
    | with_reducible refine good_foldr _ _ ?_ ?_
    | simp only [good_mk]
    | simp only [good_mk_gbk]
    | split
    | intro _)

theorem good_execCheckerDisagree {bb : Prop} {pp : Part} {qq : List Instr} (page : BitVec 12) (s : State) (h_s : s.Good bb pp qq) :
    ∀ tOut : State, execCheckerDisagree page s = .next tOut → tOut.Good bb pp qq := by
  unfold execCheckerDisagree
  try dsimp only
  refine good_run _ ?_ h_s
  repeat' (first
    | with_reducible assumption
    | with_reducible apply good_onlyIf
    | with_reducible apply good_inject
    | with_reducible apply good_wr
    | with_reducible apply good_incSat
    | with_reducible apply good_updTrl
    | with_reducible apply good_updCam
    | with_reducible apply good_raise
    | with_reducible refine good_foldl _ _ ?_ ?_
    | with_reducible refine good_foldr _ _ ?_ ?_
    | simp only [good_mk]
    | simp only [good_mk_gbk]
    | split
    | intro _)

theorem good_execClearDrift {bb : Prop} {pp : Part} {qq : List Instr} (r : Req) (n : Fin 3) (arg : BitVec 16) (s : State) (h_s : s.Good bb pp qq) :
    ∀ tOut : State, execClearDrift r n arg s = .next tOut → tOut.Good bb pp qq := by
  unfold execClearDrift
  try dsimp only
  refine good_run _ ?_ h_s
  repeat' (first
    | with_reducible assumption
    | with_reducible apply good_command
    | with_reducible apply good_wr
    | with_reducible refine good_foldl _ _ ?_ ?_
    | with_reducible refine good_foldr _ _ ?_ ?_
    | simp only [good_mk]
    | simp only [good_mk_gbk]
    | split
    | intro _)

theorem good_execClearErrs {bb : Prop} {pp : Part} {qq : List Instr} (r : Req) (c : Fin 2) (arg : BitVec 16) (s : State) (h_s : s.Good bb pp qq) :
    ∀ tOut : State, execClearErrs r c arg s = .next tOut → tOut.Good bb pp qq := by
  unfold execClearErrs
  try dsimp only
  refine good_run _ ?_ h_s
  repeat' (first
    | with_reducible assumption
    | with_reducible apply good_command
    | with_reducible apply good_wr
    | with_reducible refine good_foldl _ _ ?_ ?_
    | with_reducible refine good_foldr _ _ ?_ ?_
    | simp only [good_mk]
    | simp only [good_mk_gbk]
    | split
    | intro _)

theorem good_execClearFault {bb : Prop} {pp : Part} {qq : List Instr} (r : Req) (a : Fin 4) (arg : BitVec 16) (above : Bool) (s : State) (h_s : s.Good bb pp qq) :
    ∀ tOut : State, execClearFault r a arg above s = .next tOut → tOut.Good bb pp qq := by
  unfold execClearFault
  try dsimp only
  refine good_run _ ?_ h_s
  repeat' (first
    | with_reducible assumption
    | with_reducible apply good_command
    | with_reducible apply good_setState
    | with_reducible apply good_axisClear
    | with_reducible refine good_foldl _ _ ?_ ?_
    | with_reducible refine good_foldr _ _ ?_ ?_
    | simp only [good_mk]
    | simp only [good_mk_gbk]
    | split
    | intro _)

theorem good_execClearKey {bb : Prop} {pp : Part} {qq : List Instr} (r : Req) (arg : BitVec 16) (s : State) (h_s : s.Good bb pp qq) :
    ∀ tOut : State, execClearKey r arg s = .next tOut → tOut.Good bb pp qq := by
  unfold execClearKey
  try dsimp only
  refine good_run _ ?_ h_s
  repeat' (first
    | with_reducible assumption
    | with_reducible apply good_command
    | with_reducible apply good_setKey
    | with_reducible refine good_foldl _ _ ?_ ?_
    | with_reducible refine good_foldr _ _ ?_ ?_
    | simp only [good_mk]
    | simp only [good_mk_gbk]
    | split
    | intro _)

theorem good_execCommitAck {bb : Prop} {pp : Part} {qq : List Instr} (h : Fin 32) (table : Byte) (result : Byte) (s : State) (h_s : s.Good bb pp qq) :
    ∀ tOut : State, execCommitAck h table result s = .next tOut → tOut.Good bb pp qq := by
  unfold execCommitAck
  try dsimp only
  refine good_run _ ?_ h_s
  repeat' (first
    | with_reducible assumption
    | with_reducible apply good_onlyIf
    | with_reducible apply good_updOnk
    | with_reducible apply good_stageFail
    | with_reducible apply good_txMark
    | with_reducible apply good_txOwed
    | with_reducible refine good_foldl _ _ ?_ ?_
    | with_reducible refine good_foldr _ _ ?_ ?_
    | simp only [good_mk]
    | simp only [good_mk_gbk]
    | split
    | intro _)

theorem good_execCommitAtPosition {bb : Prop} {pp : Part} {qq : List Instr} (r : Req) (page : BitVec 12) (s : State) (h_s : s.Good bb pp qq) :
    ∀ tOut : State, execCommitAtPosition r page s = .next tOut → tOut.Good bb pp qq := by
  unfold execCommitAtPosition
  try dsimp only
  refine good_run _ ?_ h_s
  repeat' (first
    | with_reducible assumption
    | with_reducible apply good_access
    | with_reducible apply good_whenAccess
    | with_reducible refine good_foldl _ _ ?_ ?_
    | with_reducible refine good_foldr _ _ ?_ ?_
    | simp only [good_mk]
    | simp only [good_mk_gbk]
    | split
    | intro _)

theorem good_execCommitBadWhen {bb : Prop} {pp : Part} {qq : List Instr} (r : Req) (page : BitVec 12) (mode : BitVec 4) (s : State) (h_s : s.Good bb pp qq) :
    ∀ tOut : State, execCommitBadWhen r page mode s = .next tOut → tOut.Good bb pp qq := by
  unfold execCommitBadWhen
  try dsimp only
  refine good_run _ ?_ h_s
  repeat' (first
    | with_reducible assumption
    | with_reducible apply good_access
    | with_reducible apply good_whenAccess
    | with_reducible refine good_foldl _ _ ?_ ?_
    | with_reducible refine good_foldr _ _ ?_ ?_
    | simp only [good_mk]
    | simp only [good_mk_gbk]
    | split
    | intro _)

theorem good_execCommitCancel {bb : Prop} {pp : Part} {qq : List Instr} (r : Req) (page : BitVec 12) (s : State) (h_s : s.Good bb pp qq) :
    ∀ tOut : State, execCommitCancel r page s = .next tOut → tOut.Good bb pp qq := by
  unfold execCommitCancel
  try dsimp only
  refine good_run _ ?_ h_s
  repeat' (first
    | with_reducible assumption
    | with_reducible apply good_access
    | with_reducible apply good_whenAccess
    | with_reducible refine good_foldl _ _ ?_ ?_
    | with_reducible refine good_foldr _ _ ?_ ?_
    | simp only [good_mk]
    | simp only [good_mk_gbk]
    | split
    | intro _)

theorem good_execCommitNextLine {bb : Prop} {pp : Part} {qq : List Instr} (r : Req) (page : BitVec 12) (s : State) (h_s : s.Good bb pp qq) :
    ∀ tOut : State, execCommitNextLine r page s = .next tOut → tOut.Good bb pp qq := by
  unfold execCommitNextLine
  try dsimp only
  refine good_run _ ?_ h_s
  repeat' (first
    | with_reducible assumption
    | with_reducible apply good_access
    | with_reducible apply good_whenAccess
    | with_reducible refine good_foldl _ _ ?_ ?_
    | with_reducible refine good_foldr _ _ ?_ ?_
    | simp only [good_mk]
    | simp only [good_mk_gbk]
    | split
    | intro _)

theorem good_execCommitNextPage {bb : Prop} {pp : Part} {qq : List Instr} (r : Req) (page : BitVec 12) (s : State) (h_s : s.Good bb pp qq) :
    ∀ tOut : State, execCommitNextPage r page s = .next tOut → tOut.Good bb pp qq := by
  unfold execCommitNextPage
  try dsimp only
  refine good_run _ ?_ h_s
  repeat' (first
    | with_reducible assumption
    | with_reducible apply good_access
    | with_reducible apply good_whenAccess
    | with_reducible refine good_foldl _ _ ?_ ?_
    | with_reducible refine good_foldr _ _ ?_ ?_
    | simp only [good_mk]
    | simp only [good_mk_gbk]
    | split
    | intro _)

theorem good_execCommitNow {bb : Prop} {pp : Part} {qq : List Instr} (r : Req) (page : BitVec 12) (s : State) (h_s : s.Good bb pp qq) :
    ∀ tOut : State, execCommitNow r page s = .next tOut → tOut.Good bb pp qq := by
  unfold execCommitNow
  try dsimp only
  refine good_run _ ?_ h_s
  repeat' (first
    | with_reducible assumption
    | with_reducible apply good_access
    | with_reducible apply good_whenAccess
    | with_reducible refine good_foldl _ _ ?_ ?_
    | with_reducible refine good_foldr _ _ ?_ ?_
    | simp only [good_mk]
    | simp only [good_mk_gbk]
    | split
    | intro _)

theorem good_execCommitTakesEffect {bb : Prop} {pp : Part} {qq : List Instr} (page : BitVec 12) (s : State) (h_s : s.Good bb pp qq) :
    ∀ tOut : State, execCommitTakesEffect page s = .next tOut → tOut.Good bb pp qq := by
  unfold execCommitTakesEffect
  try dsimp only
  refine good_run _ ?_ h_s
  repeat' (first
    | with_reducible assumption
    | with_reducible apply good_correct
    | with_reducible apply good_onlyIf
    | with_reducible apply good_takeEffect
    | with_reducible apply good_refAdvance
    | with_reducible refine good_foldl _ _ ?_ ?_
    | with_reducible refine good_foldr _ _ ?_ ?_
    | simp only [good_mk]
    | simp only [good_mk_gbk]
    | split
    | intro _)

theorem good_execConfigDone {bb : Prop} {pp : Part} {qq : List Instr} (okA : Bool) (okB : Bool) (s : State) (h_s : s.Good bb pp qq) :
    ∀ tOut : State, execConfigDone okA okB s = .next tOut → tOut.Good bb pp qq := by
  unfold execConfigDone
  try dsimp only
  refine good_run _ ?_ h_s
  repeat' (first
    | with_reducible assumption
    | with_reducible apply good_onlyIf
    | with_reducible apply good_setStage
    | with_reducible apply good_wr
    | with_reducible apply good_failStage
    | with_reducible refine good_foldl _ _ ?_ ?_
    | with_reducible refine good_foldr _ _ ?_ ?_
    | simp only [good_mk]
    | simp only [good_mk_gbk]
    | split
    | intro _)

theorem good_execCopy {bb : Prop} {pp : Part} {qq : List Instr} (r : Req) (arg : BitVec 16) (s : State) (h_s : s.Good bb pp qq) :
    ∀ tOut : State, execCopy r arg s = .next tOut → tOut.Good bb pp qq := by
  unfold execCopy
  try dsimp only
  refine good_run _ ?_ h_s
  repeat' (first
    | with_reducible assumption
    | with_reducible apply good_command
    | with_reducible apply good_setState
    | with_reducible refine good_foldl _ _ ?_ ?_
    | with_reducible refine good_foldr _ _ ?_ ?_
    | simp only [good_mk]
    | simp only [good_mk_gbk]
    | split
    | intro _)

theorem good_execCopyCancel {bb : Prop} {pp : Part} {qq : List Instr} (r : Req) (arg : BitVec 16) (errs : List SramErr) (s : State) (h_s : s.Good bb pp qq) :
    ∀ tOut : State, execCopyCancel r arg errs s = .next tOut → tOut.Good bb pp qq := by
  unfold execCopyCancel
  try dsimp only
  refine good_run _ ?_ h_s
  repeat' (first
    | with_reducible assumption
    | with_reducible apply good_command
    | with_reducible apply good_copyEnd
    | with_reducible apply good_copyErrs
    | with_reducible apply good_draw
    | with_reducible refine good_foldl _ _ ?_ ?_
    | with_reducible refine good_foldr _ _ ?_ ?_
    | simp only [good_mk]
    | simp only [good_mk_gbk]
    | split
    | intro _)

theorem good_execCopyDone {bb : Prop} {pp : Part} {qq : List Instr} (errs : List SramErr) (s : State) (h_s : s.Good bb pp qq) :
    ∀ tOut : State, execCopyDone errs s = .next tOut → tOut.Good bb pp qq := by
  unfold execCopyDone
  try dsimp only
  refine good_run _ ?_ h_s
  repeat' (first
    | with_reducible assumption
    | with_reducible apply good_onlyIf
    | with_reducible apply good_copyEnd
    | with_reducible apply good_copyErrs
    | with_reducible refine good_foldl _ _ ?_ ?_
    | with_reducible refine good_foldr _ _ ?_ ?_
    | simp only [good_mk]
    | simp only [good_mk_gbk]
    | split
    | intro _)

theorem good_execDescriptorRead {bb : Prop} {pp : Part} {qq : List Instr} (i : Fin 4) (desc : List Byte) (tile : List Byte) (poisoned : Bool) (s : State) (h_s : s.Good bb pp qq) :
    ∀ tOut : State, execDescriptorRead i desc tile poisoned s = .next tOut → tOut.Good bb pp qq := by
  unfold execDescriptorRead
  try dsimp only
  refine good_run _ ?_ h_s
  repeat' (first
    | with_reducible assumption
    | with_reducible apply good_onlyIf
    | with_reducible apply good_descriptorDone
    | with_reducible apply good_reject
    | with_reducible apply good_noteError
    | with_reducible apply good_draw
    | with_reducible apply good_atFolly
    | with_reducible apply good_authFail
    | with_reducible apply good_ringTile
    | with_reducible apply good_keyUsed
    | with_reducible refine good_foldl _ _ ?_ ?_
    | with_reducible refine good_foldr _ _ ?_ ?_
    | simp only [good_mk]
    | simp only [good_mk_gbk]
    | split
    | intro _)

theorem good_execDeviceReset {bb : Prop} {pp : Part} {qq : List Instr} (r : Req) (arg : BitVec 16) (s : State) (h_s : s.Good bb pp qq) :
    ∀ tOut : State, execDeviceReset r arg s = .next tOut → tOut.Good bb pp qq := by
  unfold execDeviceReset
  try dsimp only
  refine good_run _ ?_ h_s
  repeat' (first
    | with_reducible assumption
    | with_reducible apply good_command
    | with_reducible apply good_trigger
    | with_reducible refine good_foldl _ _ ?_ ?_
    | with_reducible refine good_foldr _ _ ?_ ?_
    | simp only [good_mk]
    | simp only [good_mk_gbk]
    | split
    | intro _)

theorem good_execDeviceResetHold {bb : Prop} {pp : Part} {qq : List Instr} (s : State) (h_s : s.Good bb pp qq) :
    ∀ tOut : State, execDeviceResetHold s = .next tOut → tOut.Good bb pp qq := by
  unfold execDeviceResetHold
  try dsimp only
  refine good_run _ ?_ h_s
  repeat' (first
    | with_reducible assumption
    | with_reducible apply good_onlyIf
    | with_reducible apply good_deviceLevel
    | with_reducible refine good_foldl _ _ ?_ ?_
    | with_reducible refine good_foldr _ _ ?_ ?_
    | simp only [good_mk]
    | simp only [good_mk_gbk]
    | split
    | intro _)

theorem good_execDmaTimeout {bb : Prop} {pp : Part} {qq : List Instr} (c : DmaClient) (s : State) (h_s : s.Good bb pp qq) :
    ∀ tOut : State, execDmaTimeout c s = .next tOut → tOut.Good bb pp qq := by
  unfold execDmaTimeout
  try dsimp only
  refine good_run _ ?_ h_s
  repeat' (first
    | with_reducible assumption
    | with_reducible apply good_incSat
    | with_reducible apply good_noteError
    | with_reducible apply good_onlyIf
    | with_reducible apply good_descriptorDone
    | with_reducible apply good_reject
    | with_reducible apply good_txComplete
    | with_reducible refine good_foldl _ _ ?_ ?_
    | with_reducible refine good_foldr _ _ ?_ ?_
    | split
    | intro _)

theorem good_execDomainQuiesced {bb : Prop} {pp : Part} {qq : List Instr} (d : Fin 7) (s : State) (h_s : s.Good bb pp qq) :
    ∀ tOut : State, execDomainQuiesced d s = .next tOut → tOut.Good bb pp qq := by
  unfold execDomainQuiesced
  try dsimp only
  refine good_run _ ?_ h_s
  repeat' (first
    | with_reducible assumption
    | with_reducible apply good_onlyIf
    | with_reducible apply good_poolFollow
    | with_reducible apply good_srEnter
    | with_reducible apply good_react
    | with_reducible apply good_setPhase
    | with_reducible refine good_foldl _ _ ?_ ?_
    | with_reducible refine good_foldr _ _ ?_ ?_
    | simp only [good_mk]
    | simp only [good_mk_gbk]
    | split
    | intro _)

theorem good_execDomainSupplyGood {bb : Prop} {pp : Part} {qq : List Instr} (d : Fin 7) (s : State) (h_s : s.Good bb pp qq) :
    ∀ tOut : State, execDomainSupplyGood d s = .next tOut → tOut.Good bb pp qq := by
  unfold execDomainSupplyGood
  try dsimp only
  refine good_run _ ?_ h_s
  repeat' (first
    | with_reducible assumption
    | with_reducible apply good_onlyIf
    | with_reducible apply good_senseRefs
    | with_reducible apply good_setPhase
    | with_reducible apply good_react
    | with_reducible apply good_domainUp
    | with_reducible apply good_startPll
    | with_reducible refine good_foldl _ _ ?_ ?_
    | with_reducible refine good_foldr _ _ ?_ ?_
    | simp only [good_mk]
    | simp only [good_mk_gbk]
    | split
    | intro _)

theorem good_execDramRequest {bb : Prop} {pp : Part} {qq : List Instr} (port : Fin 5) (addr : BitVec 40) (len : BitVec 13) (write : Option (List Byte)) (poison : Bool) (errs : List BeatErr) (s : State) (h_s : s.Good bb pp qq) :
    ∀ tOut : State, execDramRequest port addr len write poison errs s = .next tOut → tOut.Good bb pp qq := by
  unfold execDramRequest
  try dsimp only
  refine good_run _ ?_ h_s
  repeat' (first
    | with_reducible assumption
    | with_reducible apply good_onlyIf
    | with_reducible apply good_dramAsk
    | with_reducible refine good_foldl _ _ ?_ ?_
    | with_reducible refine good_foldr _ _ ?_ ?_
    | simp only [good_mk]
    | simp only [good_mk_gbk]
    | split
    | intro _)

theorem good_execDramTrainDone {bb : Prop} {pp : Part} {qq : List Instr} (ok0 ok1 : Bool) (temp0 temp1 : BitVec 16) (s : State)
    (h_s : s.Good bb pp qq) :
    ∀ t : State, execDramTrainDone ok0 ok1 temp0 temp1 s = .next t → t.Good bb pp qq := by
  unfold execDramTrainDone
  refine good_run _ ?_ h_s
  intro u hu
  refine good_onlyIf _ _ _ hu ?_
  intro t ht
  have h1 := good_bootTrain _ 1 ok1 temp1 (good_bootTrain t 0 ok0 temp0 ht)
  refine good_ite _ ?_ (good_failStage _ _ h1)
  exact good_revote _ id (good_record _ _ _ _ (good_setStage _ _ h1)) (fun _ h => h)

theorem good_execDutyJudge {bb : Prop} {pp : Part} {qq : List Instr} (h : Fin 32) (s : State) (h_s : s.Good bb pp qq) :
    ∀ tOut : State, execDutyJudge h s = .next tOut → tOut.Good bb pp qq := by
  unfold execDutyJudge
  try dsimp only
  refine good_run _ ?_ h_s
  repeat' (first
    | with_reducible assumption
    | with_reducible apply good_onlyIf
    | with_reducible apply good_takeBins
    | with_reducible apply good_judgeDuty
    | with_reducible apply good_inject
    | with_reducible refine good_foldl _ _ ?_ ?_
    | with_reducible refine good_foldr _ _ ?_ ?_
    | simp only [good_mk]
    | simp only [good_mk_gbk]
    | split
    | intro _)

theorem good_execEncDisable {bb : Prop} {pp : Part} {qq : List Instr} (r : Req) (n : Fin 3) (s : State) (h_s : s.Good bb pp qq) :
    ∀ tOut : State, execEncDisable r n s = .next tOut → tOut.Good bb pp qq := by
  unfold execEncDisable
  try dsimp only
  refine good_run _ ?_ h_s
  repeat' (first
    | with_reducible assumption
    | with_reducible apply good_access
    | with_reducible apply good_encOff
    | with_reducible refine good_foldl _ _ ?_ ?_
    | with_reducible refine good_foldr _ _ ?_ ?_
    | simp only [good_mk]
    | simp only [good_mk_gbk]
    | split
    | intro _)

theorem good_execEncEnable {bb : Prop} {pp : Part} {qq : List Instr} (r : Req) (n : Fin 3) (s : State) (h_s : s.Good bb pp qq) :
    ∀ tOut : State, execEncEnable r n s = .next tOut → tOut.Good bb pp qq := by
  unfold execEncEnable
  try dsimp only
  refine good_run _ ?_ h_s
  repeat' (first
    | with_reducible assumption
    | with_reducible apply good_access
    | with_reducible apply good_dropWrite
    | with_reducible apply good_encOn
    | with_reducible refine good_foldl _ _ ?_ ?_
    | with_reducible refine good_foldr _ _ ?_ ?_
    | simp only [good_mk]
    | simp only [good_mk_gbk]
    | split
    | intro _)

theorem good_execEncoderEdge {bb : Prop} {pp : Part} {qq : List Instr} (n : Fin 3) (a : Bool) (b : Bool) (agree : Bool) (s : State) (h_s : s.Good bb pp qq) :
    ∀ tOut : State, execEncoderEdge n a b agree s = .next tOut → tOut.Good bb pp qq := by
  unfold execEncoderEdge
  try dsimp only
  refine good_run _ ?_ h_s
  repeat' (first
    | with_reducible assumption
    | with_reducible apply good_updEnc
    | with_reducible apply good_onlyIf
    | with_reducible apply good_setCoast
    | with_reducible apply good_measure
    | with_reducible apply good_encMove
    | with_reducible refine good_foldl _ _ ?_ ?_
    | with_reducible refine good_foldr _ _ ?_ ?_
    | simp only [good_mk]
    | simp only [good_mk_gbk]
    | split
    | intro _)

theorem good_execEncoderSample {bb : Prop} {pp : Part} {qq : List Instr} (n : Fin 3) (sin : BitVec 14) (cos : BitVec 14) (s : State) (h_s : s.Good bb pp qq) :
    ∀ tOut : State, execEncoderSample n sin cos s = .next tOut → tOut.Good bb pp qq := by
  unfold execEncoderSample
  try dsimp only
  refine good_run _ ?_ h_s
  repeat' (first
    | with_reducible assumption
    | with_reducible apply good_onlyIf
    | with_reducible apply good_updEnc
    | with_reducible apply good_setCoast
    | with_reducible apply good_draw
    | with_reducible apply good_calWatch
    | with_reducible apply good_measure
    | with_reducible apply good_encMove
    | with_reducible refine good_foldl _ _ ?_ ?_
    | with_reducible refine good_foldr _ _ ?_ ?_
    | simp only [good_mk]
    | simp only [good_mk_gbk]
    | split
    | intro _)

theorem good_execEstopFall {bb : Prop} {pp : Part} {qq : List Instr} (s : State) (h_s : s.Good bb pp qq) :
    ∀ tOut : State, execEstopFall s = .next tOut → tOut.Good bb pp qq := by
  unfold execEstopFall
  try dsimp only
  refine good_run _ ?_ h_s
  repeat' (first
    | with_reducible assumption
    | with_reducible apply good_onlyIf
    | with_reducible apply good_estopEdge
    | with_reducible apply good_qlpCut
    | with_reducible refine good_foldl _ _ ?_ ?_
    | with_reducible refine good_foldr _ _ ?_ ?_
    | simp only [good_mk]
    | simp only [good_mk_gbk]
    | split
    | intro _)

theorem good_execEstopRise {bb : Prop} {pp : Part} {qq : List Instr} (s : State) (h_s : s.Good bb pp qq) :
    ∀ tOut : State, execEstopRise s = .next tOut → tOut.Good bb pp qq := by
  unfold execEstopRise
  try dsimp only
  refine good_run _ ?_ h_s
  repeat' (first
    | with_reducible assumption
    | with_reducible refine good_foldl _ _ ?_ ?_
    | with_reducible refine good_foldr _ _ ?_ ?_
    | simp only [good_mk]
    | simp only [good_mk_gbk]
    | split
    | intro _)

theorem good_execFlashFetch {bb : Prop} {pp : Part} {qq : List Instr} (addr : BitVec 25) (n : BitVec 8) (s : State) (h_s : s.Good bb pp qq) :
    ∀ tOut : State, execFlashFetch addr n s = .next tOut → tOut.Good bb pp qq := by
  unfold execFlashFetch
  try dsimp only
  refine good_run _ ?_ h_s
  repeat' (first
    | with_reducible assumption
    | with_reducible apply good_onlyIf
    | with_reducible apply good_fetch
    | with_reducible apply good_setFsh
    | with_reducible refine good_foldl _ _ ?_ ?_
    | with_reducible refine good_foldr _ _ ?_ ?_
    | simp only [good_mk]
    | simp only [good_mk_gbk]
    | split
    | intro _)

theorem good_execFlashReadDone {bb : Prop} {pp : Part} {qq : List Instr} (s : State) (h_s : s.Good bb pp qq) :
    ∀ tOut : State, execFlashReadDone s = .next tOut → tOut.Good bb pp qq := by
  unfold execFlashReadDone
  try dsimp only
  refine good_run _ ?_ h_s
  repeat' (first
    | with_reducible assumption
    | with_reducible apply good_flashEnd
    | with_reducible apply good_writeMem
    | with_reducible apply good_atFolly
    | with_reducible apply good_setVerified
    | with_reducible refine good_foldl _ _ ?_ ?_
    | with_reducible refine good_foldr _ _ ?_ ?_
    | simp only [good_mk]
    | simp only [good_mk_gbk]
    | split
    | intro _)

theorem good_execFlashStepDone {bb : Prop} {pp : Part} {qq : List Instr} (s : State) (h_s : s.Good bb pp qq) :
    ∀ tOut : State, execFlashStepDone s = .next tOut → tOut.Good bb pp qq := by
  unfold execFlashStepDone
  try dsimp only
  refine good_run _ ?_ h_s
  repeat' (first
    | with_reducible assumption
    | with_reducible apply good_atFolly
    | with_reducible apply good_stepFails
    | with_reducible apply good_stepDone
    | with_reducible refine good_foldl _ _ ?_ ?_
    | with_reducible refine good_foldr _ _ ?_ ?_
    | simp only [good_mk]
    | simp only [good_mk_gbk]
    | split
    | intro _)

theorem good_execFlashStepTimeout {bb : Prop} {pp : Part} {qq : List Instr} (s : State) (h_s : s.Good bb pp qq) :
    ∀ tOut : State, execFlashStepTimeout s = .next tOut → tOut.Good bb pp qq := by
  unfold execFlashStepTimeout
  try dsimp only
  refine good_run _ ?_ h_s
  repeat' (first
    | with_reducible assumption
    | with_reducible apply good_atFolly
    | with_reducible apply good_stepFails
    | with_reducible refine good_foldl _ _ ?_ ?_
    | with_reducible refine good_foldr _ _ ?_ ?_
    | simp only [good_mk]
    | simp only [good_mk_gbk]
    | split
    | intro _)

theorem good_execFntEnable {bb : Prop} {pp : Part} {qq : List Instr} (r : Req) (s : State) (h_s : s.Good bb pp qq) :
    ∀ tOut : State, execFntEnable r s = .next tOut → tOut.Good bb pp qq := by
  unfold execFntEnable
  try dsimp only
  refine good_run _ ?_ h_s
  repeat' (first
    | with_reducible assumption
    | with_reducible apply good_access
    | with_reducible apply good_dropWrite
    | with_reducible apply good_fntEnable
    | with_reducible refine good_foldl _ _ ?_ ?_
    | with_reducible refine good_foldr _ _ ?_ ?_
    | simp only [good_mk]
    | simp only [good_mk_gbk]
    | split
    | intro _)

theorem good_execFntResume {bb : Prop} {pp : Part} {qq : List Instr} (r : Req) (arg : BitVec 16) (s : State) (h_s : s.Good bb pp qq) :
    ∀ tOut : State, execFntResume r arg s = .next tOut → tOut.Good bb pp qq := by
  unfold execFntResume
  try dsimp only
  refine good_run _ ?_ h_s
  repeat' (first
    | with_reducible assumption
    | with_reducible apply good_command
    | with_reducible apply good_fntStart
    | with_reducible refine good_foldl _ _ ?_ ?_
    | with_reducible refine good_foldr _ _ ?_ ?_
    | simp only [good_mk]
    | simp only [good_mk_gbk]
    | split
    | intro _)

theorem good_execFollyArm {bb : Prop} {pp : Part} {qq : List Instr} (r : Req) (page : BitVec 12) (key : BitVec 16) (s : State) (h_s : s.Good bb pp qq) :
    ∀ tOut : State, execFollyArm r page key s = .next tOut → tOut.Good bb pp qq := by
  unfold execFollyArm
  try dsimp only
  refine good_run _ ?_ h_s
  repeat' (first
    | with_reducible assumption
    | with_reducible apply good_access
    | with_reducible apply good_behind
    | with_reducible apply good_writeArm
    | with_reducible refine good_foldl _ _ ?_ ?_
    | with_reducible refine good_foldr _ _ ?_ ?_
    | simp only [good_mk]
    | simp only [good_mk_gbk]
    | split
    | intro _)

theorem good_execFollyDisarm {bb : Prop} {pp : Part} {qq : List Instr} (r : Req) (page : BitVec 12) (s : State) (h_s : s.Good bb pp qq) :
    ∀ tOut : State, execFollyDisarm r page s = .next tOut → tOut.Good bb pp qq := by
  unfold execFollyDisarm
  try dsimp only
  refine good_run _ ?_ h_s
  repeat' (first
    | with_reducible assumption
    | with_reducible apply good_access
    | with_reducible apply good_behind
    | with_reducible apply good_follyOff
    | with_reducible refine good_foldl _ _ ?_ ?_
    | with_reducible refine good_foldr _ _ ?_ ?_
    | simp only [good_mk]
    | simp only [good_mk_gbk]
    | split
    | intro _)

theorem good_execFollyMarkEnd {bb : Prop} {pp : Part} {qq : List Instr} (page : BitVec 12) (s : State) (h_s : s.Good bb pp qq) :
    ∀ tOut : State, execFollyMarkEnd page s = .next tOut → tOut.Good bb pp qq := by
  unfold execFollyMarkEnd
  try dsimp only
  refine good_run _ ?_ h_s
  repeat' (first
    | with_reducible assumption
    | with_reducible refine good_foldl _ _ ?_ ?_
    | with_reducible refine good_foldr _ _ ?_ ?_
    | simp only [good_mk]
    | simp only [good_mk_gbk]
    | split
    | intro _)

theorem good_execFollyWindowEnd {bb : Prop} {pp : Part} {qq : List Instr} (page : BitVec 12) (s : State) (h_s : s.Good bb pp qq) :
    ∀ tOut : State, execFollyWindowEnd page s = .next tOut → tOut.Good bb pp qq := by
  unfold execFollyWindowEnd
  try dsimp only
  refine good_run _ ?_ h_s
  repeat' (first
    | with_reducible assumption
    | with_reducible apply good_inject
    | with_reducible refine good_foldl _ _ ?_ ?_
    | with_reducible refine good_foldr _ _ ?_ ?_
    | simp only [good_mk]
    | simp only [good_mk_gbk]
    | split
    | intro _)

theorem good_execForcedSweepTrigger {bb : Prop} {pp : Part} {qq : List Instr} (c : Fin 2) (s : State) (h_s : s.Good bb pp qq) :
    ∀ tOut : State, execForcedSweepTrigger c s = .next tOut → tOut.Good bb pp qq := by
  unfold execForcedSweepTrigger
  try dsimp only
  refine good_run _ ?_ h_s
  repeat' (first
    | with_reducible assumption
    | with_reducible apply good_onlyIf
    | with_reducible apply good_forceSweep
    | with_reducible refine good_foldl _ _ ?_ ?_
    | with_reducible refine good_foldr _ _ ?_ ?_
    | simp only [good_mk]
    | simp only [good_mk_gbk]
    | split
    | intro _)

theorem good_execFountainDeviation {bb : Prop} {pp : Part} {qq : List Instr} (s : State) (h_s : s.Good bb pp qq) :
    ∀ tOut : State, execFountainDeviation s = .next tOut → tOut.Good bb pp qq := by
  unfold execFountainDeviation
  try dsimp only
  refine good_run _ ?_ h_s
  repeat' (first
    | with_reducible assumption
    | with_reducible apply good_onlyIf
    | with_reducible apply good_raise
    | with_reducible apply good_updFnt
    | with_reducible refine good_foldl _ _ ?_ ?_
    | with_reducible refine good_foldr _ _ ?_ ?_
    | simp only [good_mk]
    | simp only [good_mk_gbk]
    | split
    | intro _)

theorem good_execFountainSample {bb : Prop} {pp : Part} {qq : List Instr} (s : State) (h_s : s.Good bb pp qq) :
    ∀ tOut : State, execFountainSample s = .next tOut → tOut.Good bb pp qq := by
  unfold execFountainSample
  try dsimp only
  refine good_run _ ?_ h_s
  repeat' (first
    | with_reducible assumption
    | with_reducible apply good_onlyIf
    | with_reducible apply good_fntSample
    | with_reducible refine good_foldl _ _ ?_ ?_
    | with_reducible refine good_foldr _ _ ?_ ?_
    | simp only [good_mk]
    | simp only [good_mk_gbk]
    | split
    | intro _)

end Sys2Proof.Machine
end

