-- ==== Sys2Proof/Laws/Keep7.lean ====
section
/-! SUPPORT. Part 7 of 8: every operation and every meaning keeps the part, the queue and
the canonical forms (`State.Good`), one lemma per definition, in the order of the definitions. -/

namespace Sys2Proof.Machine

theorem good_execFountainSat {bb : Prop} {pp : Part} {qq : List Instr} (s : State) (h_s : s.Good bb pp qq) :
    ∀ tOut : State, execFountainSat s = .next tOut → tOut.Good bb pp qq := by
  unfold execFountainSat
  try dsimp only
  refine good_run _ ?_ h_s
  repeat' (first
    | with_reducible assumption
    | with_reducible apply good_onlyIf
    | with_reducible apply good_raise
    | with_reducible apply good_wr
    | with_reducible refine good_foldl _ _ ?_ ?_
    | with_reducible refine good_foldr _ _ ?_ ?_
    | simp only [good_mk]
    | simp only [good_mk_gbk]
    | split
    | intro _)

theorem good_execFountainSensorFault {bb : Prop} {pp : Part} {qq : List Instr} (s : State) (h_s : s.Good bb pp qq) :
    ∀ tOut : State, execFountainSensorFault s = .next tOut → tOut.Good bb pp qq := by
  unfold execFountainSensorFault
  try dsimp only
  refine good_run _ ?_ h_s
  repeat' (first
    | with_reducible assumption
    | with_reducible apply good_onlyIf
    | with_reducible apply good_wr
    | with_reducible apply good_setState
    | with_reducible apply good_raise
    | with_reducible refine good_foldl _ _ ?_ ?_
    | with_reducible refine good_foldr _ _ ?_ ?_
    | simp only [good_mk]
    | simp only [good_mk_gbk]
    | split
    | intro _)

theorem good_execFrameLinesReached {bb : Prop} {pp : Part} {qq : List Instr} (k : Fin 6) (s : State) (h_s : s.Good bb pp qq) :
    ∀ tOut : State, execFrameLinesReached k s = .next tOut → tOut.Good bb pp qq := by
  unfold execFrameLinesReached
  try dsimp only
  refine good_run _ ?_ h_s
  repeat' (first
    | with_reducible assumption
    | with_reducible apply good_camFinish
    | with_reducible refine good_foldl _ _ ?_ ?_
    | with_reducible refine good_foldr _ _ ?_ ?_
    | simp only [good_mk]
    | simp only [good_mk_gbk]
    | split
    | intro _)

theorem good_execFreqMeasure {bb : Prop} {pp : Part} {qq : List Instr} (n : Fin 15) (khz : Word) (s : State) (h_s : s.Good bb pp qq) :
    ∀ tOut : State, execFreqMeasure n khz s = .next tOut → tOut.Good bb pp qq := by
  unfold execFreqMeasure
  try dsimp only
  refine good_run _ ?_ h_s
  repeat' (first
    | with_reducible assumption
    | with_reducible apply good_onlyIf
    | with_reducible apply good_inject
    | with_reducible apply good_wr
    | with_reducible apply good_pllFails
    | with_reducible apply good_raise
    | with_reducible refine good_foldl _ _ ?_ ?_
    | with_reducible refine good_foldr _ _ ?_ ?_
    | simp only [good_mk]
    | simp only [good_mk_gbk]
    | split
    | intro _)

theorem good_execFshErase {bb : Prop} {pp : Part} {qq : List Instr} (r : Req) (arg : BitVec 16) (fromWindow : Bool) (s : State) (h_s : s.Good bb pp qq) :
    ∀ tOut : State, execFshErase r arg fromWindow s = .next tOut → tOut.Good bb pp qq := by
  unfold execFshErase
  try dsimp only
  refine good_run _ ?_ h_s
  repeat' (first
    | with_reducible assumption
    | with_reducible apply good_command
    | with_reducible apply good_flashStart
    | with_reducible refine good_foldl _ _ ?_ ?_
    | with_reducible refine good_foldr _ _ ?_ ?_
    | simp only [good_mk]
    | simp only [good_mk_gbk]
    | split
    | intro _)

theorem good_execFshProgram {bb : Prop} {pp : Part} {qq : List Instr} (r : Req) (arg : BitVec 16) (fromWindow : Bool) (s : State) (h_s : s.Good bb pp qq) :
    ∀ tOut : State, execFshProgram r arg fromWindow s = .next tOut → tOut.Good bb pp qq := by
  unfold execFshProgram
  try dsimp only
  refine good_run _ ?_ h_s
  repeat' (first
    | with_reducible assumption
    | with_reducible apply good_command
    | with_reducible apply good_flashStart
    | with_reducible refine good_foldl _ _ ?_ ?_
    | with_reducible refine good_foldr _ _ ?_ ?_
    | simp only [good_mk]
    | simp only [good_mk_gbk]
    | split
    | intro _)

theorem good_execFshRead {bb : Prop} {pp : Part} {qq : List Instr} (r : Req) (arg : BitVec 16) (s : State) (h_s : s.Good bb pp qq) :
    ∀ tOut : State, execFshRead r arg s = .next tOut → tOut.Good bb pp qq := by
  unfold execFshRead
  try dsimp only
  refine good_run _ ?_ h_s
  repeat' (first
    | with_reducible assumption
    | with_reducible apply good_command
    | with_reducible apply good_flashStart
    | with_reducible refine good_foldl _ _ ?_ ?_
    | with_reducible refine good_foldr _ _ ?_ ?_
    | simp only [good_mk]
    | simp only [good_mk_gbk]
    | split
    | intro _)

theorem good_execFshVerify {bb : Prop} {pp : Part} {qq : List Instr} (r : Req) (arg : BitVec 16) (s : State) (h_s : s.Good bb pp qq) :
    ∀ tOut : State, execFshVerify r arg s = .next tOut → tOut.Good bb pp qq := by
  unfold execFshVerify
  try dsimp only
  refine good_run _ ?_ h_s
  repeat' (first
    | with_reducible assumption
    | with_reducible apply good_command
    | with_reducible apply good_flashStart
    | with_reducible refine good_foldl _ _ ?_ ?_
    | with_reducible refine good_foldr _ _ ?_ ?_
    | simp only [good_mk]
    | simp only [good_mk_gbk]
    | split
    | intro _)

theorem good_execFvalFall {bb : Prop} {pp : Part} {qq : List Instr} (k : Fin 6) (s : State) (h_s : s.Good bb pp qq) :
    ∀ tOut : State, execFvalFall k s = .next tOut → tOut.Good bb pp qq := by
  unfold execFvalFall
  try dsimp only
  refine good_run _ ?_ h_s
  repeat' (first
    | with_reducible assumption
    | with_reducible apply good_onlyIf
    | with_reducible apply good_updCam
    | with_reducible apply good_camEndFrame
    | with_reducible refine good_foldl _ _ ?_ ?_
    | with_reducible refine good_foldr _ _ ?_ ?_
    | simp only [good_mk]
    | simp only [good_mk_gbk]
    | split
    | intro _)

theorem good_execFvalRise {bb : Prop} {pp : Part} {qq : List Instr} (k : Fin 6) (s : State) (h_s : s.Good bb pp qq) :
    ∀ tOut : State, execFvalRise k s = .next tOut → tOut.Good bb pp qq := by
  unfold execFvalRise
  try dsimp only
  refine good_run _ ?_ h_s
  repeat' (first
    | with_reducible assumption
    | with_reducible apply good_onlyIf
    | with_reducible apply good_updCam
    | with_reducible apply good_camStart
    | with_reducible refine good_foldl _ _ ?_ ?_
    | with_reducible refine good_foldr _ _ ?_ ?_
    | simp only [good_mk]
    | simp only [good_mk_gbk]
    | split
    | intro _)

theorem good_execGapWaitExpiry {bb : Prop} {pp : Part} {qq : List Instr} (i : Fin 4) (s : State) (h_s : s.Good bb pp qq) :
    ∀ tOut : State, execGapWaitExpiry i s = .next tOut → tOut.Good bb pp qq := by
  unfold execGapWaitExpiry
  try dsimp only
  refine good_run _ ?_ h_s
  repeat' (first
    | with_reducible assumption
    | with_reducible apply good_onlyIf
    | with_reducible apply good_updStm
    | with_reducible apply good_incSat
    | with_reducible apply good_sendDatagram
    | with_reducible apply good_showStaging
    | with_reducible apply good_showCum
    | with_reducible apply good_raise
    | with_reducible apply good_addSat
    | with_reducible refine good_foldl _ _ ?_ ?_
    | with_reducible refine good_foldr _ _ ?_ ?_
    | simp only [good_mk]
    | simp only [good_mk_gbk]
    | split
    | intro _)

theorem good_execGbkReadSeqWrite {bb : Prop} {pp : Part} {qq : List Instr} (r : Req) (v : Word) (s : State) (h_s : s.Good bb pp qq) :
    ∀ tOut : State, execGbkReadSeqWrite r v s = .next tOut → tOut.Good bb pp qq := by
  unfold execGbkReadSeqWrite
  try dsimp only
  refine good_run _ ?_ h_s
  repeat' (first
    | with_reducible assumption
    | with_reducible apply good_access
    | with_reducible apply good_gbkCheck
    | with_reducible apply good_setWord
    | with_reducible refine good_foldl _ _ ?_ ?_
    | with_reducible refine good_foldr _ _ ?_ ?_
    | simp only [good_mk]
    | simp only [good_mk_gbk]
    | split
    | intro _)

theorem good_execGbkWindowSelect {bb : Prop} {pp : Part} {qq : List Instr} (r : Req) (v : Word) (s : State) (h_s : s.Good bb pp qq) :
    ∀ tOut : State, execGbkWindowSelect r v s = .next tOut → tOut.Good bb pp qq := by
  unfold execGbkWindowSelect
  try dsimp only
  refine good_run _ ?_ h_s
  repeat' (first
    | with_reducible assumption
    | with_reducible apply good_access
    | with_reducible apply good_setWord
    | with_reducible refine good_foldl _ _ ?_ ?_
    | with_reducible refine good_foldr _ _ ?_ ?_
    | simp only [good_mk]
    | simp only [good_mk_gbk]
    | split
    | intro _)

theorem good_execGbkWrite {bb : Prop} {pp : Part} {qq : List Instr} (r : Req) (arg : BitVec 16) (s : State) (h_s : s.Good bb pp qq) :
    ∀ tOut : State, execGbkWrite r arg s = .next tOut → tOut.Good bb pp qq := by
  unfold execGbkWrite
  try dsimp only
  refine good_run _ ?_ h_s
  repeat' (first
    | with_reducible assumption
    | with_reducible apply good_command
    | with_reducible apply good_gbkEntry
    | with_reducible refine good_foldl _ _ ?_ ?_
    | with_reducible refine good_foldr _ _ ?_ ?_
    | simp only [good_mk]
    | simp only [good_mk_gbk]
    | split
    | intro _)

theorem good_execGkpWfiHalt {bb : Prop} {pp : Part} {qq : List Instr} (s : State) (h_s : s.Good bb pp qq) :
    ∀ tOut : State, execGkpWfiHalt s = .next tOut → tOut.Good bb pp qq := by
  unfold execGkpWfiHalt
  try dsimp only
  refine good_run _ ?_ h_s
  repeat' (first
    | with_reducible assumption
    | with_reducible apply good_onlyIf
    | with_reducible apply good_revote
    | with_reducible refine good_foldl _ _ ?_ ?_
    | with_reducible refine good_foldr _ _ ?_ ?_
    | simp only [good_mk]
    | simp only [good_mk_gbk]
    | split
    | intro _)

theorem good_execGthWithdraw {bb : Prop} {pp : Part} {qq : List Instr} (r : Req) (arg : BitVec 16) (s : State) (h_s : s.Good bb pp qq) :
    ∀ tOut : State, execGthWithdraw r arg s = .next tOut → tOut.Good bb pp qq := by
  unfold execGthWithdraw
  try dsimp only
  refine good_run _ ?_ h_s
  repeat' (first
    | with_reducible assumption
    | with_reducible apply good_command
    | with_reducible apply good_wr
    | with_reducible apply good_follyOff
    | with_reducible apply good_setState
    | with_reducible refine good_foldl _ _ ?_ ?_
    | with_reducible refine good_foldr _ _ ?_ ?_
    | simp only [good_mk]
    | simp only [good_mk_gbk]
    | split
    | intro _)

theorem good_execHdAlertFall {bb : Prop} {pp : Part} {qq : List Instr} (j : Fin 8) (s : State) (h_s : s.Good bb pp qq) :
    ∀ tOut : State, execHdAlertFall j s = .next tOut → tOut.Good bb pp qq := by
  unfold execHdAlertFall
  try dsimp only
  refine good_run _ ?_ h_s
  repeat' (first
    | with_reducible assumption
    | with_reducible apply good_onlyIf
    | with_reducible apply good_updAlert
    | with_reducible apply good_setAlertBit
    | with_reducible apply good_statusReqs
    | with_reducible refine good_foldl _ _ ?_ ?_
    | with_reducible refine good_foldr _ _ ?_ ?_
    | simp only [good_mk]
    | simp only [good_mk_gbk]
    | split
    | intro _)

theorem good_execHeadLoop {bb : Prop} {pp : Part} {qq : List Instr} (r : Req) (h : Fin 32) (arg : BitVec 16) (s : State) (h_s : s.Good bb pp qq) :
    ∀ tOut : State, execHeadLoop r h arg s = .next tOut → tOut.Good bb pp qq := by
  unfold execHeadLoop
  try dsimp only
  refine good_run _ ?_ h_s
  repeat' (first
    | with_reducible assumption
    | with_reducible apply good_command
    | with_reducible apply good_sendBlock
    | with_reducible refine good_foldl _ _ ?_ ?_
    | with_reducible refine good_foldr _ _ ?_ ?_
    | simp only [good_mk]
    | simp only [good_mk_gbk]
    | split
    | intro _)

theorem good_execHeartbeatMiss {bb : Prop} {pp : Part} {qq : List Instr} (s : State) (h_s : s.Good bb pp qq) :
    ∀ tOut : State, execHeartbeatMiss s = .next tOut → tOut.Good bb pp qq := by
  unfold execHeartbeatMiss
  try dsimp only
  refine good_run _ ?_ h_s
  repeat' (first
    | with_reducible assumption
    | with_reducible apply good_onlyIf
    | with_reducible apply good_gkpFails
    | with_reducible refine good_foldl _ _ ?_ ?_
    | with_reducible refine good_foldr _ _ ?_ ?_
    | simp only [good_mk]
    | simp only [good_mk_gbk]
    | split
    | intro _)

theorem good_execHoldCurrent {bb : Prop} {pp : Part} {qq : List Instr} (a : Fin 4) (s : State) (h_s : s.Good bb pp qq) :
    ∀ tOut : State, execHoldCurrent a s = .next tOut → tOut.Good bb pp qq := by
  unfold execHoldCurrent
  try dsimp only
  refine good_run _ ?_ h_s
  repeat' (first
    | with_reducible assumption
    | with_reducible apply good_onlyIf
    | with_reducible apply good_updAxis
    | with_reducible refine good_foldl _ _ ?_ ?_
    | with_reducible refine good_foldr _ _ ?_ ?_
    | simp only [good_mk]
    | simp only [good_mk_gbk]
    | split
    | intro _)

theorem good_execHoldRegate {bb : Prop} {pp : Part} {qq : List Instr} (d : Fin 7) (s : State) (h_s : s.Good bb pp qq) :
    ∀ tOut : State, execHoldRegate d s = .next tOut → tOut.Good bb pp qq := by
  unfold execHoldRegate
  try dsimp only
  refine good_run _ ?_ h_s
  repeat' (first
    | with_reducible assumption
    | with_reducible refine good_foldl _ _ ?_ ?_
    | with_reducible refine good_foldr _ _ ?_ ?_
    | simp only [good_mk]
    | simp only [good_mk_gbk]
    | split
    | intro _)

theorem good_execHome {bb : Prop} {pp : Part} {qq : List Instr} (r : Req) (a : Fin 4) (arg : BitVec 16) (s : State) (h_s : s.Good bb pp qq) :
    ∀ tOut : State, execHome r a arg s = .next tOut → tOut.Good bb pp qq := by
  unfold execHome
  try dsimp only
  refine good_run _ ?_ h_s
  repeat' (first
    | with_reducible assumption
    | with_reducible apply good_command
    | with_reducible apply good_setMotion
    | with_reducible apply good_axisClear
    | with_reducible refine good_foldl _ _ ?_ ?_
    | with_reducible refine good_foldr _ _ ?_ ?_
    | simp only [good_mk]
    | simp only [good_mk_gbk]
    | split
    | intro _)

theorem good_execHomeRangeExceeded {bb : Prop} {pp : Part} {qq : List Instr} (a : Fin 4) (s : State) (h_s : s.Good bb pp qq) :
    ∀ tOut : State, execHomeRangeExceeded a s = .next tOut → tOut.Good bb pp qq := by
  unfold execHomeRangeExceeded
  try dsimp only
  refine good_run _ ?_ h_s
  repeat' (first
    | with_reducible assumption
    | with_reducible apply good_onlyIf
    | with_reducible apply good_setMotion
    | with_reducible apply good_axisFault
    | with_reducible apply good_rampAxis
    | with_reducible refine good_foldl _ _ ?_ ?_
    | with_reducible refine good_foldr _ _ ?_ ?_
    | simp only [good_mk]
    | simp only [good_mk_gbk]
    | split
    | intro _)

theorem good_execHomeSwitchActive {bb : Prop} {pp : Part} {qq : List Instr} (a : Fin 4) (s : State) (h_s : s.Good bb pp qq) :
    ∀ tOut : State, execHomeSwitchActive a s = .next tOut → tOut.Good bb pp qq := by
  unfold execHomeSwitchActive
  try dsimp only
  refine good_run _ ?_ h_s
  repeat' (first
    | with_reducible assumption
    | with_reducible apply good_onlyIf
    | with_reducible apply good_wr
    | with_reducible apply good_updAxis
    | with_reducible refine good_foldl _ _ ?_ ?_
    | with_reducible refine good_foldr _ _ ?_ ?_
    | simp only [good_mk]
    | simp only [good_mk_gbk]
    | split
    | intro _)

theorem good_execHomeSwitchRelease {bb : Prop} {pp : Part} {qq : List Instr} (a : Fin 4) (s : State) (h_s : s.Good bb pp qq) :
    ∀ tOut : State, execHomeSwitchRelease a s = .next tOut → tOut.Good bb pp qq := by
  unfold execHomeSwitchRelease
  try dsimp only
  refine good_run _ ?_ h_s
  repeat' (first
    | with_reducible assumption
    | with_reducible apply good_onlyIf
    | with_reducible apply good_wr
    | with_reducible apply good_updAxis
    | with_reducible refine good_foldl _ _ ?_ ?_
    | with_reducible refine good_foldr _ _ ?_ ?_
    | simp only [good_mk]
    | simp only [good_mk_gbk]
    | split
    | intro _)

theorem good_execHostFenceRead {bb : Prop} {pp : Part} {qq : List Instr} (r : Req) (s : State) (h_s : s.Good bb pp qq) :
    ∀ tOut : State, execHostFenceRead r s = .next tOut → tOut.Good bb pp qq := by
  unfold execHostFenceRead
  try dsimp only
  refine good_run _ ?_ h_s
  repeat' (first
    | with_reducible assumption
    | with_reducible apply good_readAccess
    | with_reducible apply good_emit
    | with_reducible refine good_foldl _ _ ?_ ?_
    | with_reducible refine good_foldr _ _ ?_ ?_
    | simp only [good_mk]
    | simp only [good_mk_gbk]
    | split
    | intro _)

theorem good_execHostWindowAccess {bb : Prop} {pp : Part} {qq : List Instr} (r : Req) (off : BitVec 28) (len : BitVec 13) (write : Option (List Byte)) (poison : Bool) (errs : List SramErr) (s : State) (h_s : s.Good bb pp qq) :
    ∀ tOut : State, execHostWindowAccess r off len write poison errs s = .next tOut → tOut.Good bb pp qq := by
  unfold execHostWindowAccess
  try dsimp only
  refine good_run _ ?_ h_s
  repeat' (first
    | with_reducible assumption
    | with_reducible apply good_onlyIf
    | with_reducible apply good_windowWrite
    | with_reducible apply good_windowRead
    | with_reducible apply good_sramErrs
    | with_reducible refine good_foldl _ _ ?_ ?_
    | with_reducible refine good_foldr _ _ ?_ ?_
    | simp only [good_mk]
    | simp only [good_mk_gbk]
    | split
    | intro _)

theorem good_execHscStart {bb : Prop} {pp : Part} {qq : List Instr} (r : Req) (h : Fin 32) (arg : BitVec 16) (s : State) (h_s : s.Good bb pp qq) :
    ∀ tOut : State, execHscStart r h arg s = .next tOut → tOut.Good bb pp qq := by
  unfold execHscStart
  try dsimp only
  refine good_run _ ?_ h_s
  repeat' (first
    | with_reducible assumption
    | with_reducible apply good_command
    | with_reducible apply good_startHead
    | with_reducible refine good_foldl _ _ ?_ ?_
    | with_reducible refine good_foldr _ _ ?_ ?_
    | simp only [good_mk]
    | simp only [good_mk_gbk]
    | split
    | intro _)

theorem good_execHscStop {bb : Prop} {pp : Part} {qq : List Instr} (r : Req) (h : Fin 32) (arg : BitVec 16) (s : State) (h_s : s.Good bb pp qq) :
    ∀ tOut : State, execHscStop r h arg s = .next tOut → tOut.Good bb pp qq := by
  unfold execHscStop
  try dsimp only
  refine good_run _ ?_ h_s
  repeat' (first
    | with_reducible assumption
    | with_reducible apply good_command
    | with_reducible apply good_stopHead
    | with_reducible refine good_foldl _ _ ?_ ?_
    | with_reducible refine good_foldr _ _ ?_ ?_
    | simp only [good_mk]
    | simp only [good_mk_gbk]
    | split
    | intro _)

theorem good_execIndexCorrection {bb : Prop} {pp : Part} {qq : List Instr} (s : State) (h_s : s.Good bb pp qq) :
    ∀ tOut : State, execIndexCorrection s = .next tOut → tOut.Good bb pp qq := by
  unfold execIndexCorrection
  try dsimp only
  refine good_run _ ?_ h_s
  repeat' (first
    | with_reducible assumption
    | with_reducible apply good_correct)

theorem good_execIndexEdge {bb : Prop} {pp : Part} {qq : List Instr} (n : Fin 3) (s : State) (h_s : s.Good bb pp qq) :
    ∀ tOut : State, execIndexEdge n s = .next tOut → tOut.Good bb pp qq := by
  unfold execIndexEdge
  try dsimp only
  refine good_run _ ?_ h_s
  repeat' (first
    | with_reducible assumption
    | with_reducible apply good_onlyIf
    | with_reducible apply good_inject
    | with_reducible apply good_indexLatch
    | with_reducible refine good_foldl _ _ ?_ ?_
    | with_reducible refine good_foldr _ _ ?_ ?_
    | simp only [good_mk]
    | simp only [good_mk_gbk]
    | split
    | intro _)

theorem good_execIndexMissing {bb : Prop} {pp : Part} {qq : List Instr} (n : Fin 3) (s : State) (h_s : s.Good bb pp qq) :
    ∀ tOut : State, execIndexMissing n s = .next tOut → tOut.Good bb pp qq := by
  unfold execIndexMissing
  try dsimp only
  refine good_run _ ?_ h_s
  repeat' (first
    | with_reducible assumption
    | with_reducible apply good_onlyIf
    | with_reducible apply good_raise
    | with_reducible apply good_updEnc
    | with_reducible refine good_foldl _ _ ?_ ?_
    | with_reducible refine good_foldr _ _ ?_ ?_
    | simp only [good_mk]
    | simp only [good_mk_gbk]
    | split
    | intro _)

theorem good_execKeepalive {bb : Prop} {pp : Part} {qq : List Instr} (port : Fin 2) (udpPort : BitVec 16) (src : List Byte) (datagram : List Byte) (s : State) (h_s : s.Good bb pp qq) :
    ∀ tOut : State, execKeepalive port udpPort src datagram s = .next tOut → tOut.Good bb pp qq := by
  unfold execKeepalive
  try dsimp only
  refine good_run _ ?_ h_s
  repeat' (first
    | with_reducible assumption
    | with_reducible apply good_datagramIn
    | with_reducible refine good_foldl _ _ ?_ ?_
    | with_reducible refine good_foldr _ _ ?_ ?_
    | simp only [good_mk]
    | simp only [good_mk_gbk]
    | split
    | intro _)

theorem good_execKioskBlockEnd {bb : Prop} {pp : Part} {qq : List Instr} (k : Fin 96) (errs : List SramErr) (s : State) (h_s : s.Good bb pp qq) :
    ∀ tOut : State, execKioskBlockEnd k errs s = .next tOut → tOut.Good bb pp qq := by
  unfold execKioskBlockEnd
  try dsimp only
  refine good_run _ ?_ h_s
  repeat' (first
    | with_reducible assumption
    | with_reducible apply good_onlyIf
    | with_reducible apply good_workBlock
    | with_reducible apply good_atBlock
    | with_reducible apply good_kioskFree
    | with_reducible apply good_verifBoundary
    | with_reducible refine good_foldl _ _ ?_ ?_
    | with_reducible refine good_foldr _ _ ?_ ?_
    | simp only [good_mk]
    | simp only [good_mk_gbk]
    | split
    | intro _)

theorem good_execKioskParityError {bb : Prop} {pp : Part} {qq : List Instr} (k : Fin 96) (s : State) (h_s : s.Good bb pp qq) :
    ∀ t : State, execKioskParityError k s = .next t → t.Good bb pp qq := by
  unfold execKioskParityError
  refine good_run _ ?_ h_s
  intro u hu
  refine good_onlyIf _ _ _ hu ?_
  intro t ht
  exact good_retireKiosk _ _ _ (good_raise _ _ _ (good_atFolly _ _ _ _ _ ht (fun _ h => h) (fun _ h => h)))

theorem good_execKioskReturn {bb : Prop} {pp : Part} {qq : List Instr} (r : Req) (page : BitVec 12) (arg : BitVec 16) (s : State) (h_s : s.Good bb pp qq) :
    ∀ tOut : State, execKioskReturn r page arg s = .next tOut → tOut.Good bb pp qq := by
  unfold execKioskReturn
  try dsimp only
  refine good_run _ ?_ h_s
  repeat' (first
    | with_reducible assumption
    | with_reducible apply good_poolCommand
    | with_reducible refine good_foldl _ _ ?_ ?_
    | with_reducible refine good_foldr _ _ ?_ ?_
    | simp only [good_mk]
    | simp only [good_mk_gbk]
    | split
    | intro _)

theorem good_execKioskTakeTile {bb : Prop} {pp : Part} {qq : List Instr} (k : Fin 96) (s : State) (h_s : s.Good bb pp qq) :
    ∀ tOut : State, execKioskTakeTile k s = .next tOut → tOut.Good bb pp qq := by
  unfold execKioskTakeTile
  try dsimp only
  refine good_run _ ?_ h_s
  repeat' (first
    | with_reducible assumption
    | with_reducible apply good_onlyIf
    | with_reducible apply good_takeTile
    | with_reducible apply good_takeVerif
    | with_reducible refine good_foldl _ _ ?_ ?_
    | with_reducible refine good_foldr _ _ ?_ ?_
    | simp only [good_mk]
    | simp only [good_mk_gbk]
    | split
    | intro _)

theorem good_execKioskWithdraw {bb : Prop} {pp : Part} {qq : List Instr} (r : Req) (page : BitVec 12) (arg : BitVec 16) (s : State) (h_s : s.Good bb pp qq) :
    ∀ tOut : State, execKioskWithdraw r page arg s = .next tOut → tOut.Good bb pp qq := by
  unfold execKioskWithdraw
  try dsimp only
  refine good_run _ ?_ h_s
  repeat' (first
    | with_reducible assumption
    | with_reducible apply good_poolCommand
    | with_reducible refine good_foldl _ _ ?_ ?_
    | with_reducible refine good_foldr _ _ ?_ ?_
    | simp only [good_mk]
    | simp only [good_mk_gbk]
    | split
    | intro _)

theorem good_execLaneLol {bb : Prop} {pp : Part} {qq : List Instr} (h : Fin 32) (s : State) (h_s : s.Good bb pp qq) :
    ∀ tOut : State, execLaneLol h s = .next tOut → tOut.Good bb pp qq := by
  unfold execLaneLol
  try dsimp only
  refine good_run _ ?_ h_s
  repeat' (first
    | with_reducible assumption
    | with_reducible apply good_onlyIf
    | with_reducible apply good_laneLost
    | with_reducible refine good_foldl _ _ ?_ ?_
    | with_reducible refine good_foldr _ _ ?_ ?_
    | simp only [good_mk]
    | simp only [good_mk_gbk]
    | split
    | intro _)

theorem good_execLaneLos {bb : Prop} {pp : Part} {qq : List Instr} (h : Fin 32) (s : State) (h_s : s.Good bb pp qq) :
    ∀ tOut : State, execLaneLos h s = .next tOut → tOut.Good bb pp qq := by
  unfold execLaneLos
  try dsimp only
  refine good_run _ ?_ h_s
  repeat' (first
    | with_reducible assumption
    | with_reducible apply good_onlyIf
    | with_reducible apply good_laneDark
    | with_reducible refine good_foldl _ _ ?_ ?_
    | with_reducible refine good_foldr _ _ ?_ ?_
    | simp only [good_mk]
    | simp only [good_mk_gbk]
    | split
    | intro _)

theorem good_execLaneUp {bb : Prop} {pp : Part} {qq : List Instr} (h : Fin 32) (s : State) (h_s : s.Good bb pp qq) :
    ∀ tOut : State, execLaneUp h s = .next tOut → tOut.Good bb pp qq := by
  unfold execLaneUp
  try dsimp only
  refine good_run _ ?_ h_s
  repeat' (first
    | with_reducible assumption
    | with_reducible apply good_onlyIf
    | with_reducible apply good_sendOwed
    | with_reducible apply good_updOnk
    | with_reducible apply good_wr
    | with_reducible refine good_foldl _ _ ?_ ?_
    | with_reducible refine good_foldr _ _ ?_ ?_
    | simp only [good_mk]
    | simp only [good_mk_gbk]
    | split
    | intro _)

theorem good_execLimitSwitch {bb : Prop} {pp : Part} {qq : List Instr} (a : Fin 4) (lim : Bool) (active : Bool) (s : State) (h_s : s.Good bb pp qq) :
    ∀ tOut : State, execLimitSwitch a lim active s = .next tOut → tOut.Good bb pp qq := by
  unfold execLimitSwitch
  try dsimp only
  refine good_run _ ?_ h_s
  repeat' (first
    | with_reducible assumption
    | with_reducible apply good_onlyIf
    | with_reducible apply good_wrBit
    | with_reducible apply good_moveFault
    | with_reducible refine good_foldl _ _ ?_ ?_
    | with_reducible refine good_foldr _ _ ?_ ?_
    | simp only [good_mk]
    | simp only [good_mk_gbk]
    | split
    | intro _)

theorem good_execLineHit {bb : Prop} {pp : Part} {qq : List Instr} (h : Fin 32) (s : State) (h_s : s.Good bb pp qq) :
    ∀ tOut : State, execLineHit h s = .next tOut → tOut.Good bb pp qq := by
  unfold execLineHit
  try dsimp only
  refine good_run _ ?_ h_s
  repeat' (first
    | with_reducible assumption
    | with_reducible apply good_onlyIf
    | with_reducible apply good_hitNext
    | with_reducible refine good_foldl _ _ ?_ ?_
    | with_reducible refine good_foldr _ _ ?_ ?_
    | simp only [good_mk]
    | simp only [good_mk_gbk]
    | split
    | intro _)

theorem good_execLoadKey {bb : Prop} {pp : Part} {qq : List Instr} (r : Req) (arg : BitVec 16) (s : State) (h_s : s.Good bb pp qq) :
    ∀ tOut : State, execLoadKey r arg s = .next tOut → tOut.Good bb pp qq := by
  unfold execLoadKey
  try dsimp only
  refine good_run _ ?_ h_s
  repeat' (first
    | with_reducible assumption
    | with_reducible apply good_command
    | with_reducible apply good_loadKey
    | with_reducible refine good_foldl _ _ ?_ ?_
    | with_reducible refine good_foldr _ _ ?_ ?_
    | simp only [good_mk]
    | simp only [good_mk_gbk]
    | split
    | intro _)

theorem good_execLoadPosition {bb : Prop} {pp : Part} {qq : List Instr} (r : Req) (arg : BitVec 16) (s : State) (h_s : s.Good bb pp qq) :
    ∀ tOut : State, execLoadPosition r arg s = .next tOut → tOut.Good bb pp qq := by
  unfold execLoadPosition
  try dsimp only
  refine good_run _ ?_ h_s
  repeat' (first
    | with_reducible assumption
    | with_reducible apply good_command
    | with_reducible apply good_setHwm
    | with_reducible apply good_setPos
    | with_reducible apply good_keepReached
    | with_reducible apply good_remark
    | with_reducible apply good_updSdl
    | with_reducible refine good_foldl _ _ ?_ ?_
    | with_reducible refine good_foldr _ _ ?_ ?_
    | simp only [good_mk]
    | simp only [good_mk_gbk]
    | split
    | intro _)

theorem good_execLockstepDivergence {bb : Prop} {pp : Part} {qq : List Instr} (s : State) (h_s : s.Good bb pp qq) :
    ∀ tOut : State, execLockstepDivergence s = .next tOut → tOut.Good bb pp qq := by
  unfold execLockstepDivergence
  try dsimp only
  refine good_run _ ?_ h_s
  repeat' (first
    | with_reducible assumption
    | with_reducible apply good_onlyIf
    | with_reducible apply good_atFolly
    | with_reducible apply good_gkpFails
    | with_reducible refine good_foldl _ _ ?_ ?_
    | with_reducible refine good_foldr _ _ ?_ ?_
    | simp only [good_mk]
    | simp only [good_mk_gbk]
    | split
    | intro _)

theorem good_execLookaheadCheck {bb : Prop} {pp : Part} {qq : List Instr} (s : State) (h_s : s.Good bb pp qq) :
    ∀ tOut : State, execLookaheadCheck s = .next tOut → tOut.Good bb pp qq := by
  unfold execLookaheadCheck
  try dsimp only
  refine good_run _ ?_ h_s
  repeat' (first
    | with_reducible assumption
    | with_reducible apply good_raise
    | with_reducible apply good_updIng
    | with_reducible refine good_foldl _ _ ?_ ?_
    | with_reducible refine good_foldr _ _ ?_ ?_
    | simp only [good_mk]
    | simp only [good_mk_gbk]
    | split
    | intro _)

theorem good_execLoopPass {bb : Prop} {pp : Part} {qq : List Instr} (i : Fin 4) (s : State) (h_s : s.Good bb pp qq) :
    ∀ tOut : State, execLoopPass i s = .next tOut → tOut.Good bb pp qq := by
  unfold execLoopPass
  try dsimp only
  refine good_run _ ?_ h_s
  repeat' (first
    | with_reducible assumption
    | with_reducible apply good_onlyIf
    | with_reducible apply good_walkPass
    | with_reducible apply good_wr
    | with_reducible refine good_foldl _ _ ?_ ?_
    | with_reducible refine good_foldr _ _ ?_ ?_
    | simp only [good_mk]
    | simp only [good_mk_gbk]
    | split
    | intro _)

theorem good_execMbusRecover {bb : Prop} {pp : Part} {qq : List Instr} (r : Req) (arg : BitVec 16) (sdaHigh : Bool) (s : State) (h_s : s.Good bb pp qq) :
    ∀ tOut : State, execMbusRecover r arg sdaHigh s = .next tOut → tOut.Good bb pp qq := by
  unfold execMbusRecover
  try dsimp only
  refine good_run _ ?_ h_s
  repeat' (first
    | with_reducible assumption
    | with_reducible apply good_command
    | with_reducible apply good_emit
    | with_reducible apply good_wr
    | with_reducible refine good_foldl _ _ ?_ ?_
    | with_reducible refine good_foldr _ _ ?_ ?_
    | simp only [good_mk]
    | simp only [good_mk_gbk]
    | split
    | intro _)

theorem good_execMbusSclTimeout {bb : Prop} {pp : Part} {qq : List Instr} (m : Fin 4) (sdaLow : Bool) (sdaHigh : Bool) (s : State) (h_s : s.Good bb pp qq) :
    ∀ tOut : State, execMbusSclTimeout m sdaLow sdaHigh s = .next tOut → tOut.Good bb pp qq := by
  unfold execMbusSclTimeout
  try dsimp only
  refine good_run _ ?_ h_s
  repeat' (first
    | with_reducible assumption
    | with_reducible apply good_onlyIf
    | with_reducible apply good_sdaCheck
    | with_reducible apply good_wr
    | with_reducible exact good_sdaCheck_eq (by assumption) (by assumption)
    | with_reducible refine good_foldl _ _ ?_ ?_
    | with_reducible refine good_foldr _ _ ?_ ?_
    | simp only [good_mk]
    | simp only [good_mk_gbk]
    | split
    | intro _)

theorem good_execMbusXfer {bb : Prop} {pp : Part} {qq : List Instr} (r : Req) (arg : BitVec 16) (sdaLow : Bool) (sdaHigh : Bool) (s : State) (h_s : s.Good bb pp qq) :
    ∀ tOut : State, execMbusXfer r arg sdaLow sdaHigh s = .next tOut → tOut.Good bb pp qq := by
  unfold execMbusXfer
  try dsimp only
  refine good_run _ ?_ h_s
  repeat' (first
    | with_reducible assumption
    | with_reducible apply good_command
    | with_reducible apply good_sdaCheck
    | with_reducible apply good_wr
    | with_reducible apply good_emit
    | with_reducible exact good_sdaCheck_eq (by assumption) (by assumption)
    | with_reducible refine good_foldl _ _ ?_ ?_
    | with_reducible refine good_foldr _ _ ?_ ?_
    | simp only [good_mk]
    | simp only [good_mk_gbk]
    | split
    | intro _)

theorem good_execMbusXferDone {bb : Prop} {pp : Part} {qq : List Instr} (m : Fin 4) (nak : Bool) (data : List Byte) (s : State) (h_s : s.Good bb pp qq) :
    ∀ tOut : State, execMbusXferDone m nak data s = .next tOut → tOut.Good bb pp qq := by
  unfold execMbusXferDone
  try dsimp only
  refine good_run _ ?_ h_s
  repeat' (first
    | with_reducible assumption
    | with_reducible apply good_onlyIf
    | with_reducible apply good_wrBit
    | with_reducible apply good_wr
    | with_reducible refine good_foldl _ _ ?_ ?_
    | with_reducible refine good_foldr _ _ ?_ ?_
    | simp only [good_mk]
    | simp only [good_mk_gbk]
    | split
    | intro _)

theorem good_execMechClockChange {bb : Prop} {pp : Part} {qq : List Instr} (s : State) (h_s : s.Good bb pp qq) :
    ∀ tOut : State, execMechClockChange s = .next tOut → tOut.Good bb pp qq := by
  unfold execMechClockChange
  try dsimp only
  refine good_run _ ?_ h_s
  repeat' (first
    | with_reducible assumption
    | with_reducible apply good_onlyIf
    | with_reducible refine good_foldl _ _ ?_ ?_
    | with_reducible refine good_foldr _ _ ?_ ?_
    | simp only [good_mk]
    | simp only [good_mk_gbk]
    | split
    | intro _)

theorem good_execMemDropRetry {bb : Prop} {pp : Part} {qq : List Instr} (s : State) (h_s : s.Good bb pp qq) :
    ∀ tOut : State, execMemDropRetry s = .next tOut → tOut.Good bb pp qq := by
  unfold execMemDropRetry
  try dsimp only
  refine good_run _ ?_ h_s
  repeat' (first
    | with_reducible assumption
    | with_reducible apply good_onlyIf
    | with_reducible apply good_react
    | with_reducible refine good_foldl _ _ ?_ ?_
    | with_reducible refine good_foldr _ _ ?_ ?_
    | simp only [good_mk]
    | simp only [good_mk_gbk]
    | split
    | intro _)

theorem good_execMove {bb : Prop} {pp : Part} {qq : List Instr} (r : Req) (a : Fin 4) (arg : BitVec 16) (s : State) (h_s : s.Good bb pp qq) :
    ∀ tOut : State, execMove r a arg s = .next tOut → tOut.Good bb pp qq := by
  unfold execMove
  try dsimp only
  refine good_run _ ?_ h_s
  repeat' (first
    | with_reducible assumption
    | with_reducible apply good_command
    | with_reducible apply good_wr
    | with_reducible apply good_gangMove
    | with_reducible refine good_foldl _ _ ?_ ?_
    | with_reducible refine good_foldr _ _ ?_ ?_
    | simp only [good_mk]
    | simp only [good_mk_gbk]
    | split
    | intro _)

theorem good_execMoveEnd {bb : Prop} {pp : Part} {qq : List Instr} (a : Fin 4) (s : State) (h_s : s.Good bb pp qq) :
    ∀ tOut : State, execMoveEnd a s = .next tOut → tOut.Good bb pp qq := by
  unfold execMoveEnd
  try dsimp only
  refine good_run _ ?_ h_s
  repeat' (first
    | with_reducible assumption
    | with_reducible apply good_onlyIf
    | with_reducible apply good_settle
    | with_reducible refine good_foldl _ _ ?_ ?_
    | with_reducible refine good_foldr _ _ ?_ ?_
    | simp only [good_mk]
    | simp only [good_mk_gbk]
    | split
    | intro _)

theorem good_execMsixMessage {bb : Prop} {pp : Part} {qq : List Instr} (v : Fin 40) (s : State) (h_s : s.Good bb pp qq) :
    ∀ tOut : State, execMsixMessage v s = .next tOut → tOut.Good bb pp qq := by
  unfold execMsixMessage
  try dsimp only
  refine good_run _ ?_ h_s
  repeat' (first
    | with_reducible assumption
    | with_reducible apply good_onlyIf
    | with_reducible apply good_message
    | with_reducible refine good_foldl _ _ ?_ ?_
    | with_reducible refine good_foldr _ _ ?_ ?_
    | simp only [good_mk]
    | simp only [good_mk_gbk]
    | split
    | intro _)

theorem good_execNetFrameRx {bb : Prop} {pp : Part} {qq : List Instr} (p : Fin 2) (f : RxFrame) (s : State) (h_s : s.Good bb pp qq) :
    ∀ tOut : State, execNetFrameRx p f s = .next tOut → tOut.Good bb pp qq := by
  unfold execNetFrameRx
  try dsimp only
  refine good_run _ ?_ h_s
  repeat' (first
    | with_reducible assumption
    | with_reducible apply good_onlyIf
    | with_reducible apply good_listen
    | with_reducible apply good_fecCount
    | with_reducible apply good_incSat
    | with_reducible apply good_wr
    | with_reducible apply good_queueIn
    | with_reducible refine good_foldl _ _ ?_ ?_
    | with_reducible refine good_foldr _ _ ?_ ?_
    | simp only [good_mk]
    | simp only [good_mk_gbk]
    | split
    | intro _)

theorem good_execNetPortEnable {bb : Prop} {pp : Part} {qq : List Instr} (r : Req) (p : Fin 2) (s : State) (h_s : s.Good bb pp qq) :
    ∀ tOut : State, execNetPortEnable r p s = .next tOut → tOut.Good bb pp qq := by
  unfold execNetPortEnable
  try dsimp only
  refine good_run _ ?_ h_s
  repeat' (first
    | with_reducible assumption
    | with_reducible apply good_access
    | with_reducible apply good_revote
    | with_reducible apply good_portOn
    | with_reducible refine good_foldl _ _ ?_ ?_
    | with_reducible refine good_foldr _ _ ?_ ?_
    | simp only [good_mk]
    | simp only [good_mk_gbk]
    | split
    | intro _)

theorem good_execNonceExpiry {bb : Prop} {pp : Part} {qq : List Instr} (s : State) (h_s : s.Good bb pp qq) :
    ∀ tOut : State, execNonceExpiry s = .next tOut → tOut.Good bb pp qq := by
  unfold execNonceExpiry
  try dsimp only
  refine good_run _ ?_ h_s
  repeat' (first
    | with_reducible assumption
    | with_reducible apply good_setGth
    | with_reducible refine good_foldl _ _ ?_ ?_
    | with_reducible refine good_foldr _ _ ?_ ?_
    | simp only [good_mk]
    | simp only [good_mk_gbk]
    | split
    | intro _)

theorem good_execOnkAbort {bb : Prop} {pp : Part} {qq : List Instr} (r : Req) (arg : BitVec 16) (s : State) (h_s : s.Good bb pp qq) :
    ∀ tOut : State, execOnkAbort r arg s = .next tOut → tOut.Good bb pp qq := by
  unfold execOnkAbort
  try dsimp only
  refine good_run _ ?_ h_s
  repeat' (first
    | with_reducible assumption
    | with_reducible apply good_command
    | with_reducible apply good_txAbort
    | with_reducible refine good_foldl _ _ ?_ ?_
    | with_reducible refine good_foldr _ _ ?_ ?_
    | simp only [good_mk]
    | simp only [good_mk_gbk]
    | split
    | intro _)

theorem good_execOnkEnable {bb : Prop} {pp : Part} {qq : List Instr} (r : Req) (h : Fin 32) (s : State) (h_s : s.Good bb pp qq) :
    ∀ tOut : State, execOnkEnable r h s = .next tOut → tOut.Good bb pp qq := by
  unfold execOnkEnable
  try dsimp only
  refine good_run _ ?_ h_s
  repeat' (first
    | with_reducible assumption
    | with_reducible apply good_access
    | with_reducible apply good_dropWrite
    | with_reducible apply good_onkOn
    | with_reducible refine good_foldl _ _ ?_ ?_
    | with_reducible refine good_foldr _ _ ?_ ?_
    | simp only [good_mk]
    | simp only [good_mk_gbk]
    | split
    | intro _)

theorem good_execOnkFlush {bb : Prop} {pp : Part} {qq : List Instr} (r : Req) (h : Fin 32) (arg : BitVec 16) (s : State) (h_s : s.Good bb pp qq) :
    ∀ tOut : State, execOnkFlush r h arg s = .next tOut → tOut.Good bb pp qq := by
  unfold execOnkFlush
  try dsimp only
  refine good_run _ ?_ h_s
  repeat' (first
    | with_reducible assumption
    | with_reducible apply good_command
    | with_reducible apply good_flush
    | with_reducible refine good_foldl _ _ ?_ ?_
    | with_reducible refine good_foldr _ _ ?_ ?_
    | simp only [good_mk]
    | simp only [good_mk_gbk]
    | split
    | intro _)

theorem good_execOnkNak {bb : Prop} {pp : Part} {qq : List Instr} (h : Fin 32) (tag : Byte) (s : State) (h_s : s.Good bb pp qq) :
    ∀ tOut : State, execOnkNak h tag s = .next tOut → tOut.Good bb pp qq := by
  unfold execOnkNak
  try dsimp only
  refine good_run _ ?_ h_s
  repeat' (first
    | with_reducible assumption
    | with_reducible apply good_onlyIf
    | with_reducible apply good_blockErr
    | with_reducible apply good_incSat
    | with_reducible apply good_updOnk
    | with_reducible apply good_sendLine
    | with_reducible refine good_foldl _ _ ?_ ?_
    | with_reducible refine good_foldr _ _ ?_ ?_
    | simp only [good_mk]
    | simp only [good_mk_gbk]
    | split
    | intro _)

theorem good_execOnkRead {bb : Prop} {pp : Part} {qq : List Instr} (r : Req) (h : Fin 32) (arg : BitVec 16) (s : State) (h_s : s.Good bb pp qq) :
    ∀ tOut : State, execOnkRead r h arg s = .next tOut → tOut.Good bb pp qq := by
  unfold execOnkRead
  try dsimp only
  refine good_run _ ?_ h_s
  repeat' (first
    | with_reducible assumption
    | with_reducible apply good_command
    | with_reducible apply good_sendBlock
    | with_reducible apply good_setBusy
    | with_reducible apply good_updOnk
    | with_reducible refine good_foldl _ _ ?_ ?_
    | with_reducible refine good_foldr _ _ ?_ ?_
    | simp only [good_mk]
    | simp only [good_mk_gbk]
    | split
    | intro _)

theorem good_execOnkRxBlock {bb : Prop} {pp : Part} {qq : List Instr} (h : Fin 32) (hdr : BitVec 2) (payload : BitVec 64) (s : State) (h_s : s.Good bb pp qq) :
    ∀ tOut : State, execOnkRxBlock h hdr payload s = .next tOut → tOut.Good bb pp qq := by
  unfold execOnkRxBlock
  try dsimp only
  refine good_run _ ?_ h_s
  repeat' (first
    | with_reducible assumption
    | with_reducible apply good_onlyIf
    | with_reducible apply good_badBlocks
    | with_reducible apply good_inject
    | with_reducible apply good_laneLost
    | with_reducible apply good_emit
    | with_reducible apply good_prbsBlock
    | with_reducible refine good_foldl _ _ ?_ ?_
    | with_reducible refine good_foldr _ _ ?_ ?_
    | simp only [good_mk]
    | simp only [good_mk_gbk]
    | split
    | intro _)

theorem good_execOverlapEnd {bb : Prop} {pp : Part} {qq : List Instr} (s : State) (h_s : s.Good bb pp qq) :
    ∀ tOut : State, execOverlapEnd s = .next tOut → tOut.Good bb pp qq := by
  unfold execOverlapEnd
  try dsimp only
  refine good_run _ ?_ h_s
  repeat' (first
    | with_reducible assumption
    | with_reducible apply good_onlyIf
    | with_reducible apply good_endOverlap
    | with_reducible refine good_foldl _ _ ?_ ?_
    | with_reducible refine good_foldr _ _ ?_ ?_
    | simp only [good_mk]
    | simp only [good_mk_gbk]
    | split
    | intro _)

theorem good_execPanicLong {bb : Prop} {pp : Part} {qq : List Instr} (p : Fin 5) (s : State) (h_s : s.Good bb pp qq) :
    ∀ tOut : State, execPanicLong p s = .next tOut → tOut.Good bb pp qq := by
  unfold execPanicLong
  try dsimp only
  refine good_run _ ?_ h_s
  repeat' (first
    | with_reducible assumption
    | with_reducible apply good_notePanic
    | with_reducible apply good_onlyIf
    | with_reducible apply good_raise
    | with_reducible refine good_foldl _ _ ?_ ?_
    | with_reducible refine good_foldr _ _ ?_ ?_
    | simp only [good_mk]
    | simp only [good_mk_gbk]
    | split
    | intro _)

theorem good_execParitySweep {bb : Prop} {pp : Part} {qq : List Instr} (page : BitVec 12) (off : BitVec 12) (bad : Bool) (s : State) (h_s : s.Good bb pp qq) :
    ∀ tOut : State, execParitySweep page off bad s = .next tOut → tOut.Good bb pp qq := by
  unfold execParitySweep
  try dsimp only
  refine good_run _ ?_ h_s
  repeat' (first
    | with_reducible assumption
    | with_reducible apply good_onlyIf
    | with_reducible apply good_regAlert
    | with_reducible refine good_foldl _ _ ?_ ?_
    | with_reducible refine good_foldr _ _ ?_ ?_
    | simp only [good_mk]
    | simp only [good_mk_gbk]
    | split
    | intro _)

theorem good_execPathCheck {bb : Prop} {pp : Part} {qq : List Instr} (s : State) (h_s : s.Good bb pp qq) :
    ∀ tOut : State, execPathCheck s = .next tOut → tOut.Good bb pp qq := by
  unfold execPathCheck
  try dsimp only
  refine good_run _ ?_ h_s
  repeat' (first
    | with_reducible assumption
    | with_reducible apply good_onlyIf
    | with_reducible apply good_pickPort
    | with_reducible refine good_foldl _ _ ?_ ?_
    | with_reducible refine good_foldr _ _ ?_ ?_
    | simp only [good_mk]
    | simp only [good_mk_gbk]
    | split
    | intro _)

theorem good_execPathLoss {bb : Prop} {pp : Part} {qq : List Instr} (cause : LossCause) (s : State) (h_s : s.Good bb pp qq) :
    ∀ tOut : State, execPathLoss cause s = .next tOut → tOut.Good bb pp qq := by
  unfold execPathLoss
  try dsimp only
  refine good_run _ ?_ h_s
  repeat' (first
    | with_reducible assumption
    | with_reducible apply good_onlyIf
    | with_reducible apply good_losePath
    | with_reducible refine good_foldl _ _ ?_ ?_
    | with_reducible refine good_foldr _ _ ?_ ?_
    | simp only [good_mk]
    | simp only [good_mk_gbk]
    | split
    | intro _)

theorem good_execPatrolCycle {bb : Prop} {pp : Part} {qq : List Instr} (codes : List (BitVec 12)) (s : State) (h_s : s.Good bb pp qq) :
    ∀ tOut : State, execPatrolCycle codes s = .next tOut → tOut.Good bb pp qq := by
  unfold execPatrolCycle
  try dsimp only
  refine good_run _ ?_ h_s
  repeat' (first
    | with_reducible assumption
    | with_reducible apply good_onlyIf
    | with_reducible apply good_inc
    | with_reducible apply good_patrol
    | with_reducible apply good_wake
    | with_reducible apply good_wr
    | with_reducible exact good_patrol_eq (by assumption) (by assumption)
    | with_reducible refine good_foldl _ _ ?_ ?_
    | with_reducible refine good_foldr _ _ ?_ ?_
    | simp only [good_mk]
    | simp only [good_mk_gbk]
    | split
    | intro _)

theorem good_execPcieConfigRequest {bb : Prop} {pp : Part} {qq : List Instr} (op : CfgOp) (s : State) (h_s : s.Good bb pp qq) :
    ∀ tOut : State, execPcieConfigRequest op s = .next tOut → tOut.Good bb pp qq := by
  unfold execPcieConfigRequest
  try dsimp only
  refine good_run _ ?_ h_s
  repeat' (first
    | with_reducible assumption
    | with_reducible apply good_onlyIf
    | with_reducible apply good_emit
    | with_reducible apply good_configure
    | with_reducible refine good_foldl _ _ ?_ ?_
    | with_reducible refine good_foldr _ _ ?_ ?_
    | simp only [good_mk]
    | simp only [good_mk_gbk]
    | split
    | intro _)

theorem good_execPcieHotReset {bb : Prop} {pp : Part} {qq : List Instr} (s : State) (h_s : s.Good bb pp qq) :
    ∀ tOut : State, execPcieHotReset s = .next tOut → tOut.Good bb pp qq := by
  unfold execPcieHotReset
  try dsimp only
  refine good_run _ ?_ h_s
  repeat' (first
    | with_reducible assumption
    | with_reducible apply good_onlyIf
    | with_reducible apply good_hostReset
    | with_reducible refine good_foldl _ _ ?_ ?_
    | with_reducible refine good_foldr _ _ ?_ ?_
    | simp only [good_mk]
    | simp only [good_mk_gbk]
    | split
    | intro _)

theorem good_execPcieLinkDown {bb : Prop} {pp : Part} {qq : List Instr} (s : State) (h_s : s.Good bb pp qq) :
    ∀ tOut : State, execPcieLinkDown s = .next tOut → tOut.Good bb pp qq := by
  unfold execPcieLinkDown
  try dsimp only
  refine good_run _ ?_ h_s
  repeat' (first
    | with_reducible assumption
    | with_reducible apply good_onlyIf
    | with_reducible apply good_hostReset
    | with_reducible refine good_foldl _ _ ?_ ?_
    | with_reducible refine good_foldr _ _ ?_ ?_
    | simp only [good_mk]
    | simp only [good_mk_gbk]
    | split
    | intro _)

theorem good_execPcieLinkUp {bb : Prop} {pp : Part} {qq : List Instr} (speed : BitVec 3) (width : BitVec 3) (degraded : Bool) (s : State) (h_s : s.Good bb pp qq) :
    ∀ tOut : State, execPcieLinkUp speed width degraded s = .next tOut → tOut.Good bb pp qq := by
  unfold execPcieLinkUp
  try dsimp only
  refine good_run _ ?_ h_s
  repeat' (first
    | with_reducible assumption
    | with_reducible apply good_onlyIf
    | with_reducible apply good_wr
    | with_reducible apply good_raise
    | with_reducible refine good_foldl _ _ ?_ ?_
    | with_reducible refine good_foldr _ _ ?_ ?_
    | simp only [good_mk]
    | simp only [good_mk_gbk]
    | split
    | intro _)

theorem good_execPcieRecovery {bb : Prop} {pp : Part} {qq : List Instr} (s : State) (h_s : s.Good bb pp qq) :
    ∀ tOut : State, execPcieRecovery s = .next tOut → tOut.Good bb pp qq := by
  unfold execPcieRecovery
  try dsimp only
  refine good_run _ ?_ h_s
  repeat' (first
    | with_reducible assumption
    | with_reducible apply good_onlyIf
    | with_reducible apply good_raise
    | with_reducible apply good_incSat
    | with_reducible refine good_foldl _ _ ?_ ?_
    | with_reducible refine good_foldr _ _ ?_ ?_
    | simp only [good_mk]
    | simp only [good_mk_gbk]
    | split
    | intro _)

theorem good_execPclkDetected {bb : Prop} {pp : Part} {qq : List Instr} (k : Fin 6) (s : State) (h_s : s.Good bb pp qq) :
    ∀ tOut : State, execPclkDetected k s = .next tOut → tOut.Good bb pp qq := by
  unfold execPclkDetected
  try dsimp only
  refine good_run _ ?_ h_s
  repeat' (first
    | with_reducible assumption
    | with_reducible apply good_onlyIf
    | with_reducible apply good_wr
    | with_reducible refine good_foldl _ _ ?_ ?_
    | with_reducible refine good_foldr _ _ ?_ ?_
    | simp only [good_mk]
    | simp only [good_mk_gbk]
    | split
    | intro _)

theorem good_execPclkLoss {bb : Prop} {pp : Part} {qq : List Instr} (k : Fin 6) (rise : List (BitVec 24)) (fall : List (BitVec 24)) (overflow : Bool) (parity : List (BitVec 13)) (s : State) (h_s : s.Good bb pp qq) :
    ∀ tOut : State, execPclkLoss k rise fall overflow parity s = .next tOut → tOut.Good bb pp qq := by
  unfold execPclkLoss
  try dsimp only
  refine good_run _ ?_ h_s
  repeat' (first
    | with_reducible assumption
    | with_reducible apply good_onlyIf
    | with_reducible apply good_wr
    | with_reducible apply good_camLineEnd
    | with_reducible apply good_updCam
    | with_reducible apply good_camEndFrame
    | with_reducible refine good_foldl _ _ ?_ ?_
    | with_reducible refine good_foldr _ _ ?_ ?_
    | simp only [good_mk]
    | simp only [good_mk_gbk]
    | split
    | intro _)

theorem good_execPerstAssert {bb : Prop} {pp : Part} {qq : List Instr} (s : State) (h_s : s.Good bb pp qq) :
    ∀ tOut : State, execPerstAssert s = .next tOut → tOut.Good bb pp qq := by
  unfold execPerstAssert
  try dsimp only
  refine good_run _ ?_ h_s
  repeat' (first
    | with_reducible assumption
    | with_reducible apply good_onlyIf
    | with_reducible apply good_revote
    | with_reducible apply good_hostReset
    | with_reducible refine good_foldl _ _ ?_ ?_
    | with_reducible refine good_foldr _ _ ?_ ?_
    | simp only [good_mk]
    | simp only [good_mk_gbk]
    | split
    | intro _)

theorem good_execPerstDeassert {bb : Prop} {pp : Part} {qq : List Instr} (s : State) (h_s : s.Good bb pp qq) :
    ∀ tOut : State, execPerstDeassert s = .next tOut → tOut.Good bb pp qq := by
  unfold execPerstDeassert
  try dsimp only
  refine good_run _ ?_ h_s
  repeat' (first
    | with_reducible assumption
    | with_reducible apply good_onlyIf
    | with_reducible apply good_wakeBy
    | with_reducible apply good_wr
    | with_reducible apply good_revote
    | with_reducible refine good_foldl _ _ ?_ ?_
    | with_reducible refine good_foldr _ _ ?_ ?_
    | simp only [good_mk]
    | simp only [good_mk_gbk]
    | split
    | intro _)

theorem good_execPfFlr {bb : Prop} {pp : Part} {qq : List Instr} (s : State) (h_s : s.Good bb pp qq) :
    ∀ tOut : State, execPfFlr s = .next tOut → tOut.Good bb pp qq := by
  unfold execPfFlr
  try dsimp only
  refine good_run _ ?_ h_s
  repeat' (first
    | with_reducible assumption
    | with_reducible apply good_onlyIf
    | with_reducible apply good_wr
    | with_reducible apply good_fenceAll
    | with_reducible apply good_countFlr
    | with_reducible refine good_foldl _ _ ?_ ?_
    | with_reducible refine good_foldr _ _ ?_ ?_
    | simp only [good_mk]
    | simp only [good_mk_gbk]
    | split
    | intro _)

theorem good_execPllLock {bb : Prop} {pp : Part} {qq : List Instr} (n : Fin 15) (s : State) (h_s : s.Good bb pp qq) :
    ∀ tOut : State, execPllLock n s = .next tOut → tOut.Good bb pp qq := by
  unfold execPllLock
  try dsimp only
  refine good_run _ ?_ h_s
  repeat' (first
    | with_reducible assumption
    | with_reducible apply good_onlyIf
    | with_reducible apply good_setRef
    | with_reducible apply good_wr
    | with_reducible apply good_setPll
    | with_reducible refine good_foldl _ _ ?_ ?_
    | with_reducible refine good_foldr _ _ ?_ ?_
    | simp only [good_mk]
    | simp only [good_mk_gbk]
    | split
    | intro _)

theorem good_execPllSwitchBack {bb : Prop} {pp : Part} {qq : List Instr} (n : Fin 15) (s : State) (h_s : s.Good bb pp qq) :
    ∀ tOut : State, execPllSwitchBack n s = .next tOut → tOut.Good bb pp qq := by
  unfold execPllSwitchBack
  try dsimp only
  refine good_run _ ?_ h_s
  repeat' (first
    | with_reducible assumption
    | with_reducible apply good_onlyIf
    | with_reducible apply good_wr
    | with_reducible apply good_setPll
    | with_reducible apply good_relockOut
    | with_reducible apply good_domainClocked
    | with_reducible apply good_relockDone
    | with_reducible apply good_setStage
    | with_reducible refine good_foldl _ _ ?_ ?_
    | with_reducible refine good_foldr _ _ ?_ ?_
    | simp only [good_mk]
    | simp only [good_mk_gbk]
    | split
    | intro _)

theorem good_execPllUnlock {bb : Prop} {pp : Part} {qq : List Instr} (n : Fin 15) (s : State) (h_s : s.Good bb pp qq) :
    ∀ tOut : State, execPllUnlock n s = .next tOut → tOut.Good bb pp qq := by
  unfold execPllUnlock
  try dsimp only
  refine good_run _ ?_ h_s
  repeat' (first
    | with_reducible assumption
    | with_reducible apply good_onlyIf
    | with_reducible apply good_incSat
    | with_reducible apply good_wr
    | with_reducible apply good_pllLost
    | with_reducible refine good_foldl _ _ ?_ ?_
    | with_reducible refine good_foldr _ _ ?_ ?_
    | simp only [good_mk]
    | simp only [good_mk_gbk]
    | split
    | intro _)

theorem good_execPortLinkDown {bb : Prop} {pp : Part} {qq : List Instr} (p : Fin 2) (los : Bool) (s : State) (h_s : s.Good bb pp qq) :
    ∀ tOut : State, execPortLinkDown p los s = .next tOut → tOut.Good bb pp qq := by
  unfold execPortLinkDown
  try dsimp only
  refine good_run _ ?_ h_s
  repeat' (first
    | with_reducible assumption
    | with_reducible apply good_portDark
    | with_reducible refine good_foldl _ _ ?_ ?_
    | with_reducible refine good_foldr _ _ ?_ ?_
    | simp only [good_mk]
    | simp only [good_mk_gbk]
    | split
    | intro _)

theorem good_execPortLinkUp {bb : Prop} {pp : Part} {qq : List Instr} (p : Fin 2) (s : State) (h_s : s.Good bb pp qq) :
    ∀ tOut : State, execPortLinkUp p s = .next tOut → tOut.Good bb pp qq := by
  unfold execPortLinkUp
  try dsimp only
  refine good_run _ ?_ h_s
  repeat' (first
    | with_reducible assumption
    | with_reducible apply good_onlyIf
    | with_reducible apply good_wrBit
    | with_reducible apply good_updPort
    | with_reducible apply good_setState
    | with_reducible refine good_foldl _ _ ?_ ?_
    | with_reducible refine good_foldr _ _ ?_ ?_
    | simp only [good_mk]
    | simp only [good_mk_gbk]
    | split
    | intro _)

theorem good_execProposalRead {bb : Prop} {pp : Part} {qq : List Instr} (r : Req) (auto : Bool) (s : State) (h_s : s.Good bb pp qq) :
    ∀ tOut : State, execProposalRead r auto s = .next tOut → tOut.Good bb pp qq := by
  unfold execProposalRead
  try dsimp only
  refine good_run _ ?_ h_s
  repeat' (first
    | with_reducible assumption
    | with_reducible apply good_readAccess
    | with_reducible apply good_proposalTake
    | with_reducible refine good_foldl _ _ ?_ ?_
    | with_reducible refine good_foldr _ _ ?_ ?_
    | simp only [good_mk]
    | simp only [good_mk_gbk]
    | split
    | intro _)

theorem good_execQlpClear {bb : Prop} {pp : Part} {qq : List Instr} (r : Req) (arg : BitVec 16) (s : State) (h_s : s.Good bb pp qq) :
    ∀ tOut : State, execQlpClear r arg s = .next tOut → tOut.Good bb pp qq := by
  unfold execQlpClear
  try dsimp only
  refine good_run _ ?_ h_s
  repeat' (first
    | with_reducible assumption
    | with_reducible apply good_command
    | with_reducible apply good_updQlp
    | with_reducible apply good_showQueues
    | with_reducible refine good_foldl _ _ ?_ ?_
    | with_reducible refine good_foldr _ _ ?_ ?_
    | simp only [good_mk]
    | simp only [good_mk_gbk]
    | split
    | intro _)

theorem good_execQlpCompare {bb : Prop} {pp : Part} {qq : List Instr} (k : Fin 6) (poisoned : Bool) (ces : List (BitVec 26)) (s : State) (h_s : s.Good bb pp qq) :
    ∀ tOut : State, execQlpCompare k poisoned ces s = .next tOut → tOut.Good bb pp qq := by
  unfold execQlpCompare
  try dsimp only
  refine good_run _ ?_ h_s
  repeat' (first
    | with_reducible assumption
    | with_reducible apply good_onlyIf
    | with_reducible apply good_sramCes
    | with_reducible apply good_qlpCompare
    | with_reducible apply good_updQlp
    | with_reducible refine good_foldl _ _ ?_ ?_
    | with_reducible refine good_foldr _ _ ?_ ?_
    | simp only [good_mk]
    | simp only [good_mk_gbk]
    | split
    | intro _)

theorem good_execQlpEnable {bb : Prop} {pp : Part} {qq : List Instr} (r : Req) (s : State) (h_s : s.Good bb pp qq) :
    ∀ tOut : State, execQlpEnable r s = .next tOut → tOut.Good bb pp qq := by
  unfold execQlpEnable
  try dsimp only
  refine good_run _ ?_ h_s
  repeat' (first
    | with_reducible assumption
    | with_reducible apply good_access
    | with_reducible apply good_dropWrite
    | with_reducible apply good_qlpEnable
    | with_reducible refine good_foldl _ _ ?_ ?_
    | with_reducible refine good_foldr _ _ ?_ ?_
    | simp only [good_mk]
    | simp only [good_mk_gbk]
    | split
    | intro _)

theorem good_execQlpModeWrite {bb : Prop} {pp : Part} {qq : List Instr} (r : Req) (mode : Bool) (s : State) (h_s : s.Good bb pp qq) :
    ∀ tOut : State, execQlpModeWrite r mode s = .next tOut → tOut.Good bb pp qq := by
  unfold execQlpModeWrite
  try dsimp only
  refine good_run _ ?_ h_s
  repeat' (first
    | with_reducible assumption
    | with_reducible apply good_access
    | with_reducible apply good_qlpSetMode
    | with_reducible refine good_foldl _ _ ?_ ?_
    | with_reducible refine good_foldr _ _ ?_ ?_
    | simp only [good_mk]
    | simp only [good_mk_gbk]
    | split
    | intro _)

theorem good_execQlpRowWrite {bb : Prop} {pp : Part} {qq : List Instr} (h : Fin 32) (s : State) (h_s : s.Good bb pp qq) :
    ∀ tOut : State, execQlpRowWrite h s = .next tOut → tOut.Good bb pp qq := by
  unfold execQlpRowWrite
  try dsimp only
  refine good_run _ ?_ h_s
  repeat' (first
    | with_reducible assumption
    | with_reducible apply good_onlyIf
    | with_reducible apply good_rowWrite
    | with_reducible refine good_foldl _ _ ?_ ?_
    | with_reducible refine good_foldr _ _ ?_ ?_
    | simp only [good_mk]
    | simp only [good_mk_gbk]
    | split
    | intro _)

theorem good_execRailGood {bb : Prop} {pp : Part} {qq : List Instr} (rail : Rail) (s : State) (h_s : s.Good bb pp qq) :
    ∀ tOut : State, execRailGood rail s = .next tOut → tOut.Good bb pp qq := by
  unfold execRailGood
  try dsimp only
  refine good_run _ ?_ h_s
  repeat' (first
    | with_reducible assumption
    | with_reducible apply good_leaveRails
    | with_reducible refine good_foldl _ _ ?_ ?_
    | with_reducible refine good_foldr _ _ ?_ ?_
    | simp only [good_mk]
    | simp only [good_mk_gbk]
    | split
    | intro _)

theorem good_execRailLoss {bb : Prop} {pp : Part} {qq : List Instr} (rail : Rail) (s : State) (h_s : s.Good bb pp qq) :
    ∀ tOut : State, execRailLoss rail s = .next tOut → tOut.Good bb pp qq := by
  unfold execRailLoss
  try dsimp only
  refine good_run _ ?_ h_s
  repeat' (first
    | with_reducible assumption
    | with_reducible apply good_onlyIf
    | with_reducible apply good_trigger
    | with_reducible apply good_dramLost
    | with_reducible refine good_foldl _ _ ?_ ?_
    | with_reducible refine good_foldr _ _ ?_ ?_
    | simp only [good_mk]
    | simp only [good_mk_gbk]
    | split
    | intro _)

theorem good_execRailSample {bb : Prop} {pp : Part} {qq : List Instr} (c : Fin 4) (mv : Option (BitVec 16)) (s : State) (h_s : s.Good bb pp qq) :
    ∀ tOut : State, execRailSample c mv s = .next tOut → tOut.Good bb pp qq := by
  unfold execRailSample
  try dsimp only
  refine good_run _ ?_ h_s
  repeat' (first
    | with_reducible assumption
    | with_reducible apply good_onlyIf
    | with_reducible apply good_headSample
    | with_reducible apply good_wr
    | with_reducible refine good_foldl _ _ ?_ ?_
    | with_reducible refine good_foldr _ _ ?_ ?_
    | simp only [good_mk]
    | simp only [good_mk_gbk]
    | split
    | intro _)

theorem good_execRailTimeout {bb : Prop} {pp : Part} {qq : List Instr} (s : State) (h_s : s.Good bb pp qq) :
    ∀ tOut : State, execRailTimeout s = .next tOut → tOut.Good bb pp qq := by
  unfold execRailTimeout
  try dsimp only
  refine good_run _ ?_ h_s
  repeat' (first
    | with_reducible assumption
    | with_reducible apply good_onlyIf
    | with_reducible apply good_wr
    | with_reducible apply good_patrolEntry
    | with_reducible refine good_foldl _ _ ?_ ?_
    | with_reducible refine good_foldr _ _ ?_ ?_
    | simp only [good_mk]
    | simp only [good_mk_gbk]
    | split
    | intro _)

theorem good_execRaiseSvn {bb : Prop} {pp : Part} {qq : List Instr} (r : Req) (arg : BitVec 16) (s : State) (h_s : s.Good bb pp qq) :
    ∀ tOut : State, execRaiseSvn r arg s = .next tOut → tOut.Good bb pp qq := by
  unfold execRaiseSvn
  try dsimp only
  refine good_run _ ?_ h_s
  repeat' (first
    | with_reducible assumption
    | with_reducible apply good_command
    | with_reducible refine good_foldl _ _ ?_ ?_
    | with_reducible refine good_foldr _ _ ?_ ?_
    | simp only [good_mk]
    | simp only [good_mk_gbk]
    | split
    | intro _)

theorem good_execReadResp {bb : Prop} {pp : Part} {qq : List Instr} (h : Fin 32) (num : Byte) (result : Byte) (data : List Word) (s : State) (h_s : s.Good bb pp qq) :
    ∀ tOut : State, execReadResp h num result data s = .next tOut → tOut.Good bb pp qq := by
  unfold execReadResp
  try dsimp only
  refine good_run _ ?_ h_s
  repeat' (first
    | with_reducible assumption
    | (refine good_readEnd _ _ _ (good_foldl_fst _ _ ?_ ?_))
    | with_reducible apply good_setWord
    | with_reducible apply good_onlyIf
    | with_reducible apply good_setWord
    | with_reducible apply good_readEnd
    | with_reducible refine good_foldl _ _ ?_ ?_
    | with_reducible refine good_foldr _ _ ?_ ?_
    | split
    | intro _)

theorem good_execReadTimeout {bb : Prop} {pp : Part} {qq : List Instr} (h : Fin 32) (s : State) (h_s : s.Good bb pp qq) :
    ∀ tOut : State, execReadTimeout h s = .next tOut → tOut.Good bb pp qq := by
  unfold execReadTimeout
  try dsimp only
  refine good_run _ ?_ h_s
  repeat' (first
    | with_reducible assumption
    | with_reducible apply good_onlyIf
    | with_reducible apply good_readEnd
    | with_reducible refine good_foldl _ _ ?_ ?_
    | with_reducible refine good_foldr _ _ ?_ ?_
    | simp only [good_mk]
    | simp only [good_mk_gbk]
    | split
    | intro _)

theorem good_execRearm {bb : Prop} {pp : Part} {qq : List Instr} (r : Req) (arg : BitVec 16) (s : State) (h_s : s.Good bb pp qq) :
    ∀ tOut : State, execRearm r arg s = .next tOut → tOut.Good bb pp qq := by
  unfold execRearm
  try dsimp only
  refine good_run _ ?_ h_s
  repeat' (first
    | with_reducible assumption
    | with_reducible apply good_command
    | with_reducible apply good_updFir
    | with_reducible refine good_foldl _ _ ?_ ?_
    | with_reducible refine good_foldr _ _ ?_ ?_
    | simp only [good_mk]
    | simp only [good_mk_gbk]
    | split
    | intro _)

theorem good_execRefLoss {bb : Prop} {pp : Part} {qq : List Instr} (n : Fin 15) (lost : Bool) (s : State) (h_s : s.Good bb pp qq) :
    ∀ tOut : State, execRefLoss n lost s = .next tOut → tOut.Good bb pp qq := by
  unfold execRefLoss
  try dsimp only
  refine good_run _ ?_ h_s
  repeat' (first
    | with_reducible assumption
    | with_reducible apply good_setRef
    | with_reducible apply good_raise
    | with_reducible refine good_foldl _ _ ?_ ?_
    | with_reducible refine good_foldr _ _ ?_ ?_
    | simp only [good_mk]
    | simp only [good_mk_gbk]
    | split
    | intro _)

theorem good_execRefreshDue {bb : Prop} {pp : Part} {qq : List Instr} (c : Fin 2) (hot : Bool) (s : State) (h_s : s.Good bb pp qq) :
    ∀ tOut : State, execRefreshDue c hot s = .next tOut → tOut.Good bb pp qq := by
  unfold execRefreshDue
  try dsimp only
  refine good_run _ ?_ h_s
  repeat' (first
    | with_reducible assumption
    | with_reducible apply good_onlyIf
    | with_reducible apply good_refreshStep
    | with_reducible apply good_wr
    | with_reducible apply good_wrBit
    | with_reducible refine good_foldl _ _ ?_ ?_
    | with_reducible refine good_foldr _ _ ?_ ?_
    | simp only [good_mk]
    | simp only [good_mk_gbk]
    | split
    | intro _)

theorem good_execRelease {bb : Prop} {pp : Part} {qq : List Instr} (r : Req) (arg : BitVec 16) (s : State) (h_s : s.Good bb pp qq) :
    ∀ tOut : State, execRelease r arg s = .next tOut → tOut.Good bb pp qq := by
  unfold execRelease
  try dsimp only
  refine good_run _ ?_ h_s
  repeat' (first
    | with_reducible assumption
    | with_reducible apply good_command
    | with_reducible apply good_wardenRestart
    | with_reducible apply good_wr
    | with_reducible apply good_setWrd
    | with_reducible refine good_foldl _ _ ?_ ?_
    | with_reducible refine good_foldr _ _ ?_ ?_
    | simp only [good_mk]
    | simp only [good_mk_gbk]
    | split
    | intro _)

theorem good_execReleaseHalt {bb : Prop} {pp : Part} {qq : List Instr} (r : Req) (arg : BitVec 16) (s : State) (h_s : s.Good bb pp qq) :
    ∀ tOut : State, execReleaseHalt r arg s = .next tOut → tOut.Good bb pp qq := by
  unfold execReleaseHalt
  try dsimp only
  refine good_run _ ?_ h_s
  repeat' (first
    | with_reducible assumption
    | with_reducible apply good_command
    | with_reducible apply good_wr
    | with_reducible refine good_foldl _ _ ?_ ?_
    | with_reducible refine good_foldr _ _ ?_ ?_
    | simp only [good_mk]
    | simp only [good_mk_gbk]
    | split
    | intro _)

end Sys2Proof.Machine
end

