-- ==== Sys2Proof/Laws/Keep8.lean ====
section
/-! SUPPORT. Part 8 of 8: every operation and every meaning keeps the part, the queue and
the canonical forms (`State.Good`), one lemma per definition, in the order of the definitions. -/

namespace Sys2Proof.Machine

theorem good_execRelock {bb : Prop} {pp : Part} {qq : List Instr} (r : Req) (arg : BitVec 16) (s : State) (h_s : s.Good bb pp qq) :
    ∀ tOut : State, execRelock r arg s = .next tOut → tOut.Good bb pp qq := by
  unfold execRelock
  try dsimp only
  refine good_run _ ?_ h_s
  repeat' (first
    | with_reducible assumption
    | with_reducible apply good_command
    | with_reducible apply good_raise
    | with_reducible apply good_setPll
    | with_reducible apply good_relockPll
    | with_reducible apply good_setBusy
    | with_reducible refine good_foldl _ _ ?_ ?_
    | with_reducible refine good_foldr _ _ ?_ ?_
    | simp only [good_mk]
    | simp only [good_mk_gbk]
    | split
    | intro _)

theorem good_execResetIn {bb : Prop} {pp : Part} {qq : List Instr} (low : Bool) (s : State) (h_s : s.Good bb pp qq) :
    ∀ tOut : State, execResetIn low s = .next tOut → tOut.Good bb pp qq := by
  unfold execResetIn
  try dsimp only
  refine good_run _ ?_ h_s
  repeat' (first
    | with_reducible assumption
    | with_reducible apply good_trigger
    | with_reducible apply good_leaveRails
    | with_reducible refine good_foldl _ _ ?_ ?_
    | with_reducible refine good_foldr _ _ ?_ ?_
    | simp only [good_mk]
    | simp only [good_mk_gbk]
    | split
    | intro _)

theorem good_execRetire {bb : Prop} {pp : Part} {qq : List Instr} (r : Req) (arg : BitVec 16) (s : State) (h_s : s.Good bb pp qq) :
    ∀ tOut : State, execRetire r arg s = .next tOut → tOut.Good bb pp qq := by
  unfold execRetire
  try dsimp only
  refine good_run _ ?_ h_s
  repeat' (first
    | with_reducible assumption
    | with_reducible apply good_command
    | with_reducible apply good_retireKiosk
    | with_reducible apply good_raise
    | with_reducible refine good_foldl _ _ ?_ ?_
    | with_reducible refine good_foldr _ _ ?_ ?_
    | simp only [good_mk]
    | simp only [good_mk_gbk]
    | split
    | intro _)

theorem good_execRetractDone {bb : Prop} {pp : Part} {qq : List Instr} (a : Fin 4) (s : State) (h_s : s.Good bb pp qq) :
    ∀ tOut : State, execRetractDone a s = .next tOut → tOut.Good bb pp qq := by
  unfold execRetractDone
  try dsimp only
  refine good_run _ ?_ h_s
  repeat' (first
    | with_reducible assumption
    | with_reducible apply good_onlyIf
    | with_reducible apply good_wr
    | with_reducible apply good_updAxis
    | with_reducible apply good_endMove
    | with_reducible refine good_foldl _ _ ?_ ?_
    | with_reducible refine good_foldr _ _ ?_ ?_
    | simp only [good_mk]
    | simp only [good_mk_gbk]
    | split
    | intro _)

theorem good_execRetrain {bb : Prop} {pp : Part} {qq : List Instr} (r : Req) (c : Fin 2) (arg : BitVec 16) (s : State) (h_s : s.Good bb pp qq) :
    ∀ tOut : State, execRetrain r c arg s = .next tOut → tOut.Good bb pp qq := by
  unfold execRetrain
  try dsimp only
  refine good_run _ ?_ h_s
  repeat' (first
    | with_reducible assumption
    | with_reducible apply good_command
    | with_reducible apply good_forceSweep
    | with_reducible refine good_foldl _ _ ?_ ?_
    | with_reducible refine good_foldr _ _ ?_ ?_
    | simp only [good_mk]
    | simp only [good_mk_gbk]
    | split
    | intro _)

theorem good_execReturnTimeout {bb : Prop} {pp : Part} {qq : List Instr} (h : Fin 32) (s : State) (h_s : s.Good bb pp qq) :
    ∀ tOut : State, execReturnTimeout h s = .next tOut → tOut.Good bb pp qq := by
  unfold execReturnTimeout
  try dsimp only
  refine good_run _ ?_ h_s
  repeat' (first
    | with_reducible assumption
    | with_reducible apply good_onlyIf
    | with_reducible apply good_raise
    | with_reducible apply good_wr
    | with_reducible refine good_foldl _ _ ?_ ?_
    | with_reducible refine good_foldr _ _ ?_ ?_
    | simp only [good_mk]
    | simp only [good_mk_gbk]
    | split
    | intro _)

theorem good_execReturnWaitReset {bb : Prop} {pp : Part} {qq : List Instr} (s : State) (h_s : s.Good bb pp qq) :
    ∀ tOut : State, execReturnWaitReset s = .next tOut → tOut.Good bb pp qq := by
  unfold execReturnWaitReset
  try dsimp only
  refine good_run _ ?_ h_s
  repeat' (first
    | with_reducible assumption
    | with_reducible apply good_onlyIf
    | with_reducible apply good_wr
    | with_reducible refine good_foldl _ _ ?_ ?_
    | with_reducible refine good_foldr _ _ ?_ ?_
    | simp only [good_mk]
    | simp only [good_mk_gbk]
    | split
    | intro _)

theorem good_execReverseEnter {bb : Prop} {pp : Part} {qq : List Instr} (s : State) (h_s : s.Good bb pp qq) :
    ∀ tOut : State, execReverseEnter s = .next tOut → tOut.Good bb pp qq := by
  unfold execReverseEnter
  try dsimp only
  refine good_run _ ?_ h_s
  repeat' (first
    | with_reducible assumption
    | with_reducible apply good_onlyIf
    | with_reducible apply good_raise
    | with_reducible apply good_updSdl
    | with_reducible refine good_foldl _ _ ?_ ?_
    | with_reducible refine good_foldr _ _ ?_ ?_
    | simp only [good_mk]
    | simp only [good_mk_gbk]
    | split
    | intro _)

theorem good_execReverseExit {bb : Prop} {pp : Part} {qq : List Instr} (s : State) (h_s : s.Good bb pp qq) :
    ∀ tOut : State, execReverseExit s = .next tOut → tOut.Good bb pp qq := by
  unfold execReverseExit
  try dsimp only
  refine good_run _ ?_ h_s
  repeat' (first
    | with_reducible assumption
    | with_reducible apply good_onlyIf
    | with_reducible apply good_updSdl
    | with_reducible apply good_setHwm
    | with_reducible refine good_foldl _ _ ?_ ?_
    | with_reducible refine good_foldr _ _ ?_ ?_
    | simp only [good_mk]
    | simp only [good_mk_gbk]
    | split
    | intro _)

theorem good_execRingDoorbell {bb : Prop} {pp : Part} {qq : List Instr} (r : Req) (i : Fin 4) (tail : BitVec 16) (s : State) (h_s : s.Good bb pp qq) :
    ∀ tOut : State, execRingDoorbell r i tail s = .next tOut → tOut.Good bb pp qq := by
  unfold execRingDoorbell
  try dsimp only
  refine good_run _ ?_ h_s
  repeat' (first
    | with_reducible assumption
    | with_reducible apply good_access
    | with_reducible apply good_wr
    | with_reducible refine good_foldl _ _ ?_ ?_
    | with_reducible refine good_foldr _ _ ?_ ?_
    | simp only [good_mk]
    | simp only [good_mk_gbk]
    | split
    | intro _)

theorem good_execRingReset {bb : Prop} {pp : Part} {qq : List Instr} (r : Req) (i : Fin 4) (arg : BitVec 16) (s : State) (h_s : s.Good bb pp qq) :
    ∀ tOut : State, execRingReset r i arg s = .next tOut → tOut.Good bb pp qq := by
  unfold execRingReset
  try dsimp only
  refine good_run _ ?_ h_s
  repeat' (first
    | with_reducible assumption
    | with_reducible apply good_command
    | with_reducible apply good_updStm
    | with_reducible apply good_wr
    | with_reducible refine good_foldl _ _ ?_ ?_
    | with_reducible refine good_foldr _ _ ?_ ?_
    | simp only [good_mk]
    | simp only [good_mk_gbk]
    | split
    | intro _)

theorem good_execRunTable {bb : Prop} {pp : Part} {qq : List Instr} (r : Req) (a : Fin 4) (arg : BitVec 16) (s : State) (h_s : s.Good bb pp qq) :
    ∀ tOut : State, execRunTable r a arg s = .next tOut → tOut.Good bb pp qq := by
  unfold execRunTable
  try dsimp only
  refine good_run _ ?_ h_s
  repeat' (first
    | with_reducible assumption
    | with_reducible apply good_command
    | with_reducible apply good_gangMove
    | with_reducible refine good_foldl _ _ ?_ ?_
    | with_reducible refine good_foldr _ _ ?_ ?_
    | simp only [good_mk]
    | simp only [good_mk_gbk]
    | split
    | intro _)

theorem good_execScheduleDisable {bb : Prop} {pp : Part} {qq : List Instr} (r : Req) (h : Option (Fin 32)) (s : State) (h_s : s.Good bb pp qq) :
    ∀ tOut : State, execScheduleDisable r h s = .next tOut → tOut.Good bb pp qq := by
  unfold execScheduleDisable
  try dsimp only
  refine good_run _ ?_ h_s
  repeat' (first
    | with_reducible assumption
    | with_reducible apply good_access
    | with_reducible apply good_scheduleOff
    | with_reducible refine good_foldl _ _ ?_ ?_
    | with_reducible refine good_foldr _ _ ?_ ?_
    | simp only [good_mk]
    | simp only [good_mk_gbk]
    | split
    | intro _)

theorem good_execScrubRead {bb : Prop} {pp : Part} {qq : List Instr} (c : Fin 2) (errs : List BeatErr) (s : State) (h_s : s.Good bb pp qq) :
    ∀ tOut : State, execScrubRead c errs s = .next tOut → tOut.Good bb pp qq := by
  unfold execScrubRead
  try dsimp only
  refine good_run _ ?_ h_s
  repeat' (first
    | with_reducible assumption
    | with_reducible apply good_onlyIf
    | with_reducible apply good_add2
    | with_reducible apply good_readErrs
    | with_reducible apply good_inc
    | with_reducible apply good_updChan
    | with_reducible exact good_readErrs_eq (by assumption) (by assumption)
    | with_reducible refine good_foldl _ _ ?_ ?_
    | with_reducible refine good_foldr _ _ ?_ ?_
    | simp only [good_mk]
    | simp only [good_mk_gbk]
    | split
    | intro _)

theorem good_execSdlDisable {bb : Prop} {pp : Part} {qq : List Instr} (r : Req) (s : State) (h_s : s.Good bb pp qq) :
    ∀ tOut : State, execSdlDisable r s = .next tOut → tOut.Good bb pp qq := by
  unfold execSdlDisable
  try dsimp only
  refine good_run _ ?_ h_s
  repeat' (first
    | with_reducible assumption
    | with_reducible apply good_access
    | with_reducible apply good_sdlOff
    | with_reducible refine good_foldl _ _ ?_ ?_
    | with_reducible refine good_foldr _ _ ?_ ?_
    | simp only [good_mk]
    | simp only [good_mk_gbk]
    | split
    | intro _)

theorem good_execSdlEnable {bb : Prop} {pp : Part} {qq : List Instr} (r : Req) (s : State) (h_s : s.Good bb pp qq) :
    ∀ tOut : State, execSdlEnable r s = .next tOut → tOut.Good bb pp qq := by
  unfold execSdlEnable
  try dsimp only
  refine good_run _ ?_ h_s
  repeat' (first
    | with_reducible assumption
    | with_reducible apply good_access
    | with_reducible apply good_dropWrite
    | with_reducible apply good_sdlOnNow
    | with_reducible refine good_foldl _ _ ?_ ?_
    | with_reducible refine good_foldr _ _ ?_ ?_
    | simp only [good_mk]
    | simp only [good_mk_gbk]
    | split
    | intro _)

theorem good_execSdlResume {bb : Prop} {pp : Part} {qq : List Instr} (r : Req) (arg : BitVec 16) (s : State) (h_s : s.Good bb pp qq) :
    ∀ tOut : State, execSdlResume r arg s = .next tOut → tOut.Good bb pp qq := by
  unfold execSdlResume
  try dsimp only
  refine good_run _ ?_ h_s
  repeat' (first
    | with_reducible assumption
    | with_reducible apply good_command
    | with_reducible apply good_follow
    | with_reducible apply good_showSpeed
    | with_reducible apply good_updSdl
    | with_reducible refine good_foldl _ _ ?_ ?_
    | with_reducible refine good_foldr _ _ ?_ ?_
    | simp only [good_mk]
    | simp only [good_mk_gbk]
    | split
    | intro _)

theorem good_execSendDeadline {bb : Prop} {pp : Part} {qq : List Instr} (h : Fin 32) (s : State) (h_s : s.Good bb pp qq) :
    ∀ tOut : State, execSendDeadline h s = .next tOut → tOut.Good bb pp qq := by
  unfold execSendDeadline
  try dsimp only
  refine good_run _ ?_ h_s
  repeat' (first
    | with_reducible assumption
    | with_reducible apply good_onlyIf
    | with_reducible apply good_sendNext
    | with_reducible refine good_foldl _ _ ?_ ?_
    | with_reducible refine good_foldr _ _ ?_ ?_
    | simp only [good_mk]
    | simp only [good_mk_gbk]
    | split
    | intro _)

theorem good_execServo {bb : Prop} {pp : Part} {qq : List Instr} (r : Req) (a : Fin 4) (arg : BitVec 16) (s : State) (h_s : s.Good bb pp qq) :
    ∀ tOut : State, execServo r a arg s = .next tOut → tOut.Good bb pp qq := by
  unfold execServo
  try dsimp only
  refine good_run _ ?_ h_s
  repeat' (first
    | with_reducible assumption
    | with_reducible apply good_command
    | with_reducible apply good_gangMove
    | with_reducible apply good_axisStand
    | with_reducible refine good_foldl _ _ ?_ ?_
    | with_reducible refine good_foldr _ _ ?_ ?_
    | simp only [good_mk]
    | simp only [good_mk_gbk]
    | split
    | intro _)

theorem good_execServoPeriod {bb : Prop} {pp : Part} {qq : List Instr} (a : Fin 4) (s : State) (h_s : s.Good bb pp qq) :
    ∀ tOut : State, execServoPeriod a s = .next tOut → tOut.Good bb pp qq := by
  unfold execServoPeriod
  try dsimp only
  refine good_run _ ?_ h_s
  repeat' (first
    | with_reducible assumption
    | with_reducible apply good_onlyIf
    | with_reducible apply good_servoStep
    | with_reducible refine good_foldl _ _ ?_ ?_
    | with_reducible refine good_foldr _ _ ?_ ?_
    | simp only [good_mk]
    | simp only [good_mk_gbk]
    | split
    | intro _)

theorem good_execSetOut {bb : Prop} {pp : Part} {qq : List Instr} (r : Req) (arg : BitVec 16) (s : State) (h_s : s.Good bb pp qq) :
    ∀ tOut : State, execSetOut r arg s = .next tOut → tOut.Good bb pp qq := by
  unfold execSetOut
  try dsimp only
  refine good_run _ ?_ h_s
  repeat' (first
    | with_reducible assumption
    | with_reducible apply good_command
    | with_reducible apply good_qlpCountOut
    | with_reducible apply good_setOutPages
    | with_reducible refine good_foldl _ _ ?_ ?_
    | with_reducible refine good_foldr _ _ ?_ ?_
    | simp only [good_mk]
    | simp only [good_mk_gbk]
    | split
    | intro _)

theorem good_execSetPosition {bb : Prop} {pp : Part} {qq : List Instr} (r : Req) (a : Fin 4) (arg : BitVec 16) (s : State) (h_s : s.Good bb pp qq) :
    ∀ tOut : State, execSetPosition r a arg s = .next tOut → tOut.Good bb pp qq := by
  unfold execSetPosition
  try dsimp only
  refine good_run _ ?_ h_s
  repeat' (first
    | with_reducible assumption
    | with_reducible apply good_command
    | with_reducible apply good_updAxis
    | with_reducible apply good_axisClear
    | with_reducible apply good_showAxis
    | with_reducible apply good_setState
    | with_reducible apply good_wr
    | with_reducible refine good_foldl _ _ ?_ ?_
    | with_reducible refine good_foldr _ _ ?_ ?_
    | simp only [good_mk]
    | simp only [good_mk_gbk]
    | split
    | intro _)

theorem good_execSliceEnd {bb : Prop} {pp : Part} {qq : List Instr} (failed : Bool) (cells : List Bool) (s : State) (h_s : s.Good bb pp qq) :
    ∀ tOut : State, execSliceEnd failed cells s = .next tOut → tOut.Good bb pp qq := by
  unfold execSliceEnd
  try dsimp only
  refine good_run _ ?_ h_s
  repeat' (first
    | with_reducible assumption
    | with_reducible apply good_kioskSlice
    | with_reducible apply good_sramSlice
    | with_reducible apply good_sliceFailed
    | with_reducible apply good_sliceOver
    | with_reducible refine good_foldl _ _ ?_ ?_
    | with_reducible refine good_foldr _ _ ?_ ?_
    | simp only [good_mk]
    | simp only [good_mk_gbk]
    | split
    | intro _)

theorem good_execSliceNow {bb : Prop} {pp : Part} {qq : List Instr} (r : Req) (arg : BitVec 16) (s : State) (h_s : s.Good bb pp qq) :
    ∀ tOut : State, execSliceNow r arg s = .next tOut → tOut.Good bb pp qq := by
  unfold execSliceNow
  try dsimp only
  refine good_run _ ?_ h_s
  repeat' (first
    | with_reducible assumption
    | with_reducible apply good_command
    | with_reducible apply good_setBist
    | with_reducible refine good_foldl _ _ ?_ ?_
    | with_reducible refine good_foldr _ _ ?_ ?_
    | simp only [good_mk]
    | simp only [good_mk_gbk]
    | split
    | intro _)

theorem good_execSliceStart {bb : Prop} {pp : Part} {qq : List Instr} (s : State) (h_s : s.Good bb pp qq) :
    ∀ tOut : State, execSliceStart s = .next tOut → tOut.Good bb pp qq := by
  unfold execSliceStart
  try dsimp only
  refine good_run _ ?_ h_s
  repeat' (first
    | with_reducible assumption
    | with_reducible apply good_onlyIf
    | with_reducible apply good_sliceWrap
    | with_reducible apply good_setBist
    | with_reducible apply good_incSat
    | with_reducible apply good_slicePast
    | with_reducible apply good_sliceBegin
    | with_reducible refine good_foldl _ _ ?_ ?_
    | with_reducible refine good_foldr _ _ ?_ ?_
    | simp only [good_mk]
    | simp only [good_mk_gbk]
    | split
    | intro _)

theorem good_execSnapshotHiRead {bb : Prop} {pp : Part} {qq : List Instr} (r : Req) (page : BitVec 12) (off : BitVec 12) (s : State) (h_s : s.Good bb pp qq) :
    ∀ tOut : State, execSnapshotHiRead r page off s = .next tOut → tOut.Good bb pp qq := by
  unfold execSnapshotHiRead
  try dsimp only
  refine good_run _ ?_ h_s
  repeat' (first
    | with_reducible assumption
    | with_reducible apply good_readAccess
    | with_reducible apply good_readFirst
    | with_reducible refine good_foldl _ _ ?_ ?_
    | with_reducible refine good_foldr _ _ ?_ ?_
    | simp only [good_mk]
    | simp only [good_mk_gbk]
    | split
    | intro _)

theorem good_execSnapshotLoRead {bb : Prop} {pp : Part} {qq : List Instr} (r : Req) (page : BitVec 12) (off : BitVec 12) (s : State) (h_s : s.Good bb pp qq) :
    ∀ tOut : State, execSnapshotLoRead r page off s = .next tOut → tOut.Good bb pp qq := by
  unfold execSnapshotLoRead
  try dsimp only
  refine good_run _ ?_ h_s
  repeat' (first
    | with_reducible assumption
    | with_reducible apply good_readAccess
    | with_reducible apply good_readFirst
    | with_reducible refine good_foldl _ _ ?_ ?_
    | with_reducible refine good_foldr _ _ ?_ ?_
    | simp only [good_mk]
    | simp only [good_mk_gbk]
    | split
    | intro _)

theorem good_execSpeedCollapse {bb : Prop} {pp : Part} {qq : List Instr} (s : State) (h_s : s.Good bb pp qq) :
    ∀ tOut : State, execSpeedCollapse s = .next tOut → tOut.Good bb pp qq := by
  unfold execSpeedCollapse
  try dsimp only
  refine good_run _ ?_ h_s
  repeat' (first
    | with_reducible assumption
    | with_reducible apply good_onlyIf
    | with_reducible apply good_raise
    | with_reducible apply good_updSdl
    | with_reducible apply good_halt
    | with_reducible apply good_retract
    | with_reducible refine good_foldl _ _ ?_ ?_
    | with_reducible refine good_foldr _ _ ?_ ?_
    | simp only [good_mk]
    | simp only [good_mk_gbk]
    | split
    | intro _)

theorem good_execSramInitDone {bb : Prop} {pp : Part} {qq : List Instr} (exhausted : Bool) (s : State) (h_s : s.Good bb pp qq) :
    ∀ tOut : State, execSramInitDone exhausted s = .next tOut → tOut.Good bb pp qq := by
  unfold execSramInitDone
  try dsimp only
  refine good_run _ ?_ h_s
  repeat' (first
    | with_reducible assumption
    | with_reducible apply good_onlyIf
    | with_reducible apply good_failStage
    | with_reducible apply good_setStage
    | with_reducible apply good_zeroSram
    | with_reducible apply good_fuseRepairs
    | with_reducible apply good_listRepairs
    | with_reducible refine good_foldl _ _ ?_ ?_
    | with_reducible refine good_foldr _ _ ?_ ?_
    | simp only [good_mk]
    | simp only [good_mk_gbk]
    | split
    | intro _)

theorem good_execStage {bb : Prop} {pp : Part} {qq : List Instr} (r : Req) (arg : BitVec 16) (s : State) (h_s : s.Good bb pp qq) :
    ∀ tOut : State, execStage r arg s = .next tOut → tOut.Good bb pp qq := by
  unfold execStage
  try dsimp only
  refine good_run _ ?_ h_s
  repeat' (first
    | with_reducible assumption
    | with_reducible apply good_command
    | with_reducible apply good_wr
    | with_reducible apply good_stageResult
    | with_reducible apply good_sendTable
    | with_reducible apply good_setState
    | with_reducible refine good_foldl _ _ ?_ ?_
    | with_reducible refine good_foldr _ _ ?_ ?_
    | simp only [good_mk]
    | simp only [good_mk_gbk]
    | split
    | intro _)

theorem good_execStageAck {bb : Prop} {pp : Part} {qq : List Instr} (h : Fin 32) (table : Byte) (result : Byte) (s : State) (h_s : s.Good bb pp qq) :
    ∀ tOut : State, execStageAck h table result s = .next tOut → tOut.Good bb pp qq := by
  unfold execStageAck
  try dsimp only
  refine good_run _ ?_ h_s
  repeat' (first
    | with_reducible assumption
    | with_reducible apply good_onlyIf
    | with_reducible apply good_atFolly
    | with_reducible apply good_stageAck
    | with_reducible refine good_foldl _ _ ?_ ?_
    | with_reducible refine good_foldr _ _ ?_ ?_
    | simp only [good_mk]
    | simp only [good_mk_gbk]
    | split
    | intro _)

theorem good_execStageAckTimeout {bb : Prop} {pp : Part} {qq : List Instr} (h : Fin 32) (s : State) (h_s : s.Good bb pp qq) :
    ∀ tOut : State, execStageAckTimeout h s = .next tOut → tOut.Good bb pp qq := by
  unfold execStageAckTimeout
  try dsimp only
  refine good_run _ ?_ h_s
  repeat' (first
    | with_reducible assumption
    | with_reducible apply good_onlyIf
    | with_reducible apply good_txAbort
    | with_reducible refine good_foldl _ _ ?_ ?_
    | with_reducible refine good_foldr _ _ ?_ ?_
    | simp only [good_mk]
    | simp only [good_mk_gbk]
    | split
    | intro _)

theorem good_execStall {bb : Prop} {pp : Part} {qq : List Instr} (a : Fin 4) (s : State) (h_s : s.Good bb pp qq) :
    ∀ tOut : State, execStall a s = .next tOut → tOut.Good bb pp qq := by
  unfold execStall
  try dsimp only
  refine good_run _ ?_ h_s
  repeat' (first
    | with_reducible assumption
    | with_reducible apply good_onlyIf
    | with_reducible apply good_moveFault
    | with_reducible apply good_wr
    | with_reducible apply good_incSat
    | with_reducible refine good_foldl _ _ ?_ ?_
    | with_reducible refine good_foldr _ _ ?_ ?_
    | simp only [good_mk]
    | simp only [good_mk_gbk]
    | split
    | intro _)

theorem good_execStandstill {bb : Prop} {pp : Part} {qq : List Instr} (s : State) (h_s : s.Good bb pp qq) :
    ∀ tOut : State, execStandstill s = .next tOut → tOut.Good bb pp qq := by
  unfold execStandstill
  try dsimp only
  refine good_run _ ?_ h_s
  repeat' (first
    | with_reducible assumption
    | with_reducible apply good_onlyIf
    | with_reducible apply good_updSdl
    | with_reducible apply good_raise
    | with_reducible apply good_showSpeed
    | with_reducible refine good_foldl _ _ ?_ ?_
    | with_reducible refine good_foldr _ _ ?_ ?_
    | simp only [good_mk]
    | simp only [good_mk_gbk]
    | split
    | intro _)

theorem good_execStandstillEnd {bb : Prop} {pp : Part} {qq : List Instr} (s : State) (h_s : s.Good bb pp qq) :
    ∀ tOut : State, execStandstillEnd s = .next tOut → tOut.Good bb pp qq := by
  unfold execStandstillEnd
  try dsimp only
  refine good_run _ ?_ h_s
  repeat' (first
    | with_reducible assumption
    | with_reducible apply good_onlyIf
    | with_reducible apply good_updEnc
    | with_reducible apply good_updSdl
    | with_reducible refine good_foldl _ _ ?_ ?_
    | with_reducible refine good_foldr _ _ ?_ ?_
    | simp only [good_mk]
    | simp only [good_mk_gbk]
    | split
    | intro _)

theorem good_execStarveLogReadHi {bb : Prop} {pp : Part} {qq : List Instr} (r : Req) (s : State) (h_s : s.Good bb pp qq) :
    ∀ tOut : State, execStarveLogReadHi r s = .next tOut → tOut.Good bb pp qq := by
  unfold execStarveLogReadHi
  try dsimp only
  refine good_run _ ?_ h_s
  repeat' (first
    | with_reducible assumption
    | with_reducible apply good_readAccess
    | with_reducible apply good_readHi
    | with_reducible refine good_foldl _ _ ?_ ?_
    | with_reducible refine good_foldr _ _ ?_ ?_
    | simp only [good_mk]
    | simp only [good_mk_gbk]
    | split
    | intro _)

theorem good_execStarveLogReadLo {bb : Prop} {pp : Part} {qq : List Instr} (r : Req) (s : State) (h_s : s.Good bb pp qq) :
    ∀ tOut : State, execStarveLogReadLo r s = .next tOut → tOut.Good bb pp qq := by
  unfold execStarveLogReadLo
  try dsimp only
  refine good_run _ ?_ h_s
  repeat' (first
    | with_reducible assumption
    | with_reducible apply good_readAccess
    | with_reducible apply good_starveTake
    | with_reducible refine good_foldl _ _ ?_ ?_
    | with_reducible refine good_foldr _ _ ?_ ?_
    | simp only [good_mk]
    | simp only [good_mk_gbk]
    | split
    | intro _)

theorem good_execStatusBlock {bb : Prop} {pp : Part} {qq : List Instr} (h : Fin 32) (status : BitVec 16) (s : State) (h_s : s.Good bb pp qq) :
    ∀ tOut : State, execStatusBlock h status s = .next tOut → tOut.Good bb pp qq := by
  unfold execStatusBlock
  try dsimp only
  refine good_run _ ?_ h_s
  repeat' (first
    | with_reducible assumption
    | with_reducible apply good_onlyIf
    | with_reducible apply good_statusBack
    | with_reducible apply good_updOnk
    | with_reducible apply good_wr
    | with_reducible refine good_foldl _ _ ?_ ?_
    | with_reducible refine good_foldr _ _ ?_ ?_
    | simp only [good_mk]
    | simp only [good_mk_gbk]
    | split
    | intro _)

theorem good_execStmDisable {bb : Prop} {pp : Part} {qq : List Instr} (r : Req) (i : Fin 4) (s : State) (h_s : s.Good bb pp qq) :
    ∀ tOut : State, execStmDisable r i s = .next tOut → tOut.Good bb pp qq := by
  unfold execStmDisable
  try dsimp only
  refine good_run _ ?_ h_s
  repeat' (first
    | with_reducible assumption
    | with_reducible apply good_access
    | with_reducible apply good_stmOff
    | with_reducible refine good_foldl _ _ ?_ ?_
    | with_reducible refine good_foldr _ _ ?_ ?_
    | simp only [good_mk]
    | simp only [good_mk_gbk]
    | split
    | intro _)

theorem good_execStmReset {bb : Prop} {pp : Part} {qq : List Instr} (r : Req) (i : Fin 4) (arg : BitVec 16) (s : State) (h_s : s.Good bb pp qq) :
    ∀ tOut : State, execStmReset r i arg s = .next tOut → tOut.Good bb pp qq := by
  unfold execStmReset
  try dsimp only
  refine good_run _ ?_ h_s
  repeat' (first
    | with_reducible assumption
    | with_reducible apply good_command
    | with_reducible apply good_resetStream
    | with_reducible refine good_foldl _ _ ?_ ?_
    | with_reducible refine good_foldr _ _ ?_ ?_
    | simp only [good_mk]
    | simp only [good_mk_gbk]
    | split
    | intro _)

theorem good_execStmStart {bb : Prop} {pp : Part} {qq : List Instr} (r : Req) (i : Fin 4) (arg : BitVec 16) (s : State) (h_s : s.Good bb pp qq) :
    ∀ tOut : State, execStmStart r i arg s = .next tOut → tOut.Good bb pp qq := by
  unfold execStmStart
  try dsimp only
  refine good_run _ ?_ h_s
  repeat' (first
    | with_reducible assumption
    | with_reducible apply good_command
    | with_reducible apply good_blankRings
    | with_reducible apply good_showStaging
    | with_reducible apply good_wr
    | with_reducible apply good_wr2
    | with_reducible apply good_setState
    | with_reducible apply good_walkPass
    | with_reducible refine good_foldl _ _ ?_ ?_
    | with_reducible refine good_foldr _ _ ?_ ?_
    | simp only [good_mk]
    | simp only [good_mk_gbk]
    | split
    | intro _)

theorem good_execStoreHeaderWrite {bb : Prop} {pp : Part} {qq : List Instr} (k : Fin 6) (s : State) (h_s : s.Good bb pp qq) :
    ∀ tOut : State, execStoreHeaderWrite k s = .next tOut → tOut.Good bb pp qq := by
  unfold execStoreHeaderWrite
  try dsimp only
  refine good_run _ ?_ h_s
  repeat' (first
    | with_reducible assumption
    | with_reducible apply good_updCam
    | with_reducible apply good_wr
    | with_reducible apply good_writeMem
    | with_reducible refine good_foldl _ _ ?_ ?_
    | with_reducible refine good_foldr _ _ ?_ ?_
    | simp only [good_mk]
    | simp only [good_mk_gbk]
    | split
    | intro _)

theorem good_execStreamResetDone {bb : Prop} {pp : Part} {qq : List Instr} (i : Fin 4) (s : State) (h_s : s.Good bb pp qq) :
    ∀ tOut : State, execStreamResetDone i s = .next tOut → tOut.Good bb pp qq := by
  unfold execStreamResetDone
  try dsimp only
  refine good_run _ ?_ h_s
  repeat' (first
    | with_reducible assumption
    | with_reducible apply good_onlyIf
    | with_reducible apply good_resetDone
    | with_reducible refine good_foldl _ _ ?_ ?_
    | with_reducible refine good_foldr _ _ ?_ ?_
    | simp only [good_mk]
    | simp only [good_mk_gbk]
    | split
    | intro _)

theorem good_execStuckStrobeCut {bb : Prop} {pp : Part} {qq : List Instr} (h : Fin 32) (s : State) (h_s : s.Good bb pp qq) :
    ∀ tOut : State, execStuckStrobeCut h s = .next tOut → tOut.Good bb pp qq := by
  unfold execStuckStrobeCut
  try dsimp only
  refine good_run _ ?_ h_s
  repeat' (first
    | with_reducible assumption
    | with_reducible apply good_onlyIf
    | with_reducible apply good_cutHead
    | with_reducible apply good_qlpCut
    | with_reducible refine good_foldl _ _ ?_ ?_
    | with_reducible refine good_foldr _ _ ?_ ?_
    | simp only [good_mk]
    | simp only [good_mk_gbk]
    | split
    | intro _)

theorem good_execSwitch {bb : Prop} {pp : Part} {qq : List Instr} (r : Req) (arg : BitVec 16) (s : State) (h_s : s.Good bb pp qq) :
    ∀ tOut : State, execSwitch r arg s = .next tOut → tOut.Good bb pp qq := by
  unfold execSwitch
  try dsimp only
  refine good_run _ ?_ h_s
  repeat' (first
    | with_reducible assumption
    | with_reducible apply good_command
    | with_reducible apply good_startMove
    | with_reducible refine good_foldl _ _ ?_ ?_
    | with_reducible refine good_foldr _ _ ?_ ?_
    | simp only [good_mk]
    | simp only [good_mk_gbk]
    | split
    | intro _)

theorem good_execTbSet {bb : Prop} {pp : Part} {qq : List Instr} (r : Req) (i : Fin 4) (arg : BitVec 16) (s : State) (h_s : s.Good bb pp qq) :
    ∀ tOut : State, execTbSet r i arg s = .next tOut → tOut.Good bb pp qq := by
  unfold execTbSet
  try dsimp only
  refine good_run _ ?_ h_s
  repeat' (first
    | with_reducible assumption
    | with_reducible apply good_command
    | with_reducible apply good_wr
    | with_reducible apply good_tbPut
    | with_reducible refine good_foldl _ _ ?_ ?_
    | with_reducible refine good_foldr _ _ ?_ ?_
    | simp only [good_mk]
    | simp only [good_mk_gbk]
    | split
    | intro _)

theorem good_execTbStep {bb : Prop} {pp : Part} {qq : List Instr} (r : Req) (i : Fin 4) (arg : BitVec 16) (s : State) (h_s : s.Good bb pp qq) :
    ∀ tOut : State, execTbStep r i arg s = .next tOut → tOut.Good bb pp qq := by
  unfold execTbStep
  try dsimp only
  refine good_run _ ?_ h_s
  repeat' (first
    | with_reducible assumption
    | with_reducible apply good_command
    | with_reducible apply good_wr
    | with_reducible apply good_tbPass
    | with_reducible refine good_foldl _ _ ?_ ?_
    | with_reducible refine good_foldr _ _ ?_ ?_
    | simp only [good_mk]
    | simp only [good_mk_gbk]
    | split
    | intro _)

theorem good_execTbWrap {bb : Prop} {pp : Part} {qq : List Instr} (i : Fin 4) (s : State) (h_s : s.Good bb pp qq) :
    ∀ tOut : State, execTbWrap i s = .next tOut → tOut.Good bb pp qq := by
  unfold execTbWrap
  try dsimp only
  refine good_run _ ?_ h_s
  repeat' (first
    | with_reducible assumption
    | with_reducible apply good_onlyIf
    | with_reducible apply good_tbAdvance
    | with_reducible refine good_foldl _ _ ?_ ?_
    | with_reducible refine good_foldr _ _ ?_ ?_
    | simp only [good_mk]
    | simp only [good_mk_gbk]
    | split
    | intro _)

theorem good_execTcmCorrectedError {bb : Prop} {pp : Part} {qq : List Instr} (s : State) (h_s : s.Good bb pp qq) :
    ∀ tOut : State, execTcmCorrectedError s = .next tOut → tOut.Good bb pp qq := by
  unfold execTcmCorrectedError
  try dsimp only
  refine good_run _ ?_ h_s
  repeat' (first
    | with_reducible assumption
    | exact fun _ h => h
    | with_reducible apply good_onlyIf
    | with_reducible apply good_atFolly
    | with_reducible apply good_incSat
    | with_reducible apply good_raise
    | with_reducible refine good_foldl _ _ ?_ ?_
    | with_reducible refine good_foldr _ _ ?_ ?_
    | simp only [good_mk]
    | simp only [good_mk_gbk]
    | split
    | intro _)

theorem good_execTcmUe {bb : Prop} {pp : Part} {qq : List Instr} (s : State) (h_s : s.Good bb pp qq) :
    ∀ tOut : State, execTcmUe s = .next tOut → tOut.Good bb pp qq := by
  unfold execTcmUe
  try dsimp only
  refine good_run _ ?_ h_s
  repeat' (first
    | with_reducible assumption
    | with_reducible apply good_onlyIf
    | with_reducible apply good_gkpFails
    | with_reducible refine good_foldl _ _ ?_ ?_
    | with_reducible refine good_foldr _ _ ?_ ?_
    | simp only [good_mk]
    | simp only [good_mk_gbk]
    | split
    | intro _)

theorem good_execTempBlock {bb : Prop} {pp : Part} {qq : List Instr} (h : Fin 32) (temp : BitVec 16) (s : State) (h_s : s.Good bb pp qq) :
    ∀ tOut : State, execTempBlock h temp s = .next tOut → tOut.Good bb pp qq := by
  unfold execTempBlock
  try dsimp only
  refine good_run _ ?_ h_s
  repeat' (first
    | with_reducible assumption
    | with_reducible apply good_onlyIf
    | with_reducible apply good_wr
    | with_reducible apply good_updFir
    | with_reducible refine good_foldl _ _ ?_ ?_
    | with_reducible refine good_foldr _ _ ?_ ?_
    | simp only [good_mk]
    | simp only [good_mk_gbk]
    | split
    | intro _)

theorem good_execTileDeadline {bb : Prop} {pp : Part} {qq : List Instr} (h : Fin 32) (s : State) (h_s : s.Good bb pp qq) :
    ∀ tOut : State, execTileDeadline h s = .next tOut → tOut.Good bb pp qq := by
  unfold execTileDeadline
  try dsimp only
  refine good_run _ ?_ h_s
  repeat' (first
    | with_reducible assumption
    | with_reducible apply good_onlyIf
    | with_reducible apply good_incSat
    | with_reducible apply good_updHsc
    | with_reducible refine good_foldl _ _ ?_ ?_
    | with_reducible refine good_foldr _ _ ?_ ?_
    | simp only [good_mk]
    | simp only [good_mk_gbk]
    | split
    | intro _)

theorem good_execTileDecoded {bb : Prop} {pp : Part} {qq : List Instr} (k : Fin 96) (errs : List SramErr) (s : State) (h_s : s.Good bb pp qq) :
    ∀ tOut : State, execTileDecoded k errs s = .next tOut → tOut.Good bb pp qq := by
  unfold execTileDecoded
  try dsimp only
  refine good_run _ ?_ h_s
  repeat' (first
    | with_reducible assumption
    | with_reducible apply good_onlyIf
    | with_reducible apply good_workLast
    | with_reducible apply good_atBlock
    | with_reducible apply good_poisonTile
    | with_reducible apply good_breakTile
    | with_reducible refine good_foldl _ _ ?_ ?_
    | with_reducible refine good_foldr _ _ ?_ ?_
    | simp only [good_mk]
    | simp only [good_mk_gbk]
    | split
    | intro _)

theorem good_execTileEligible {bb : Prop} {pp : Part} {qq : List Instr} (i : Fin 4) (tile : ℕ) (s : State) (h_s : s.Good bb pp qq) :
    ∀ tOut : State, execTileEligible i tile s = .next tOut → tOut.Good bb pp qq := by
  unfold execTileEligible
  try dsimp only
  refine good_run _ ?_ h_s
  repeat' (first
    | with_reducible assumption
    | with_reducible apply good_onlyIf
    | with_reducible apply good_rejectTile
    | with_reducible apply good_showQueue
    | with_reducible apply good_updTile
    | with_reducible refine good_foldl _ _ ?_ ?_
    | with_reducible refine good_foldr _ _ ?_ ?_
    | simp only [good_mk]
    | simp only [good_mk_gbk]
    | split
    | intro _)

theorem good_execTileFragment {bb : Prop} {pp : Part} {qq : List Instr} (port : Fin 2) (udpPort : BitVec 16) (src : List Byte) (datagram : List Byte) (s : State) (h_s : s.Good bb pp qq) :
    ∀ tOut : State, execTileFragment port udpPort src datagram s = .next tOut → tOut.Good bb pp qq := by
  unfold execTileFragment
  try dsimp only
  refine good_run _ ?_ h_s
  repeat' (first
    | with_reducible assumption
    | with_reducible apply good_datagramIn
    | with_reducible refine good_foldl _ _ ?_ ?_
    | with_reducible refine good_foldr _ _ ?_ ?_
    | simp only [good_mk]
    | simp only [good_mk_gbk]
    | split
    | intro _)

theorem good_execTrainDeferredStart {bb : Prop} {pp : Part} {qq : List Instr} (h : Fin 32) (s : State) (h_s : s.Good bb pp qq) :
    ∀ tOut : State, execTrainDeferredStart h s = .next tOut → tOut.Good bb pp qq := by
  unfold execTrainDeferredStart
  try dsimp only
  refine good_run _ ?_ h_s
  repeat' (first
    | with_reducible assumption
    | with_reducible apply good_onlyIf
    | with_reducible apply good_startTrain
    | with_reducible apply good_updFir
    | with_reducible apply good_trainHeld
    | with_reducible refine good_foldl _ _ ?_ ?_
    | with_reducible refine good_foldr _ _ ?_ ?_
    | simp only [good_mk]
    | simp only [good_mk_gbk]
    | split
    | intro _)

theorem good_execTrainReport {bb : Prop} {pp : Part} {qq : List Instr} (h : Fin 32) (tag : Byte) (expect : Byte) (empty : Bool) (unsynced : Bool) (s : State) (h_s : s.Good bb pp qq) :
    ∀ tOut : State, execTrainReport h tag expect empty unsynced s = .next tOut → tOut.Good bb pp qq := by
  unfold execTrainReport
  try dsimp only
  refine good_run _ ?_ h_s
  repeat' (first
    | with_reducible assumption
    | with_reducible apply good_onlyIf
    | with_reducible apply good_wr
    | with_reducible apply good_takeReport
    | with_reducible apply good_tagMismatch
    | with_reducible apply good_qlpVoid
    | with_reducible apply good_blockErr
    | with_reducible apply good_incSat
    | with_reducible exact good_takeReport_eq (by assumption) (by assumption)
    | with_reducible refine good_foldl _ _ ?_ ?_
    | with_reducible refine good_foldr _ _ ?_ ?_
    | simp only [good_mk]
    | simp only [good_mk_gbk]
    | split
    | intro _)

theorem good_execTrainReportTimeout {bb : Prop} {pp : Part} {qq : List Instr} (h : Fin 32) (s : State) (h_s : s.Good bb pp qq) :
    ∀ tOut : State, execTrainReportTimeout h s = .next tOut → tOut.Good bb pp qq := by
  unfold execTrainReportTimeout
  try dsimp only
  refine good_run _ ?_ h_s
  repeat' (first
    | with_reducible assumption
    | with_reducible apply good_takeReport
    | with_reducible apply good_tagMismatch
    | with_reducible apply good_qlpVoid
    | with_reducible exact good_takeReport_eq (by assumption) (by assumption)
    | with_reducible refine good_foldl _ _ ?_ ?_
    | with_reducible refine good_foldr _ _ ?_ ?_
    | simp only [good_mk]
    | simp only [good_mk_gbk]
    | split
    | intro _)

theorem good_execTrainingSlice {bb : Prop} {pp : Part} {qq : List Instr} (c : Fin 2) (eyes : Bool) (temp : BitVec 16) (s : State) (h_s : s.Good bb pp qq) :
    ∀ tOut : State, execTrainingSlice c eyes temp s = .next tOut → tOut.Good bb pp qq := by
  unfold execTrainingSlice
  try dsimp only
  refine good_run _ ?_ h_s
  repeat' (first
    | with_reducible assumption
    | with_reducible apply good_onlyIf
    | with_reducible apply good_wr
    | with_reducible apply good_updChan
    | with_reducible apply good_incSat
    | with_reducible apply good_sweepEnd
    | with_reducible refine good_foldl _ _ ?_ ?_
    | with_reducible refine good_foldr _ _ ?_ ?_
    | simp only [good_mk]
    | simp only [good_mk_gbk]
    | split
    | intro _)

theorem good_execTrellisHandover {bb : Prop} {pp : Part} {qq : List Instr} (h : Fin 32) (groups : List (Fin 4 × Fin 128)) (entries : List (BitVec 13)) (ces : List (BitVec 26)) (s : State) (h_s : s.Good bb pp qq) :
    ∀ tOut : State, execTrellisHandover h groups entries ces s = .next tOut → tOut.Good bb pp qq := by
  unfold execTrellisHandover
  try dsimp only
  refine good_run _ ?_ h_s
  repeat' (first
    | with_reducible assumption
    | with_reducible apply good_updTrl
    | with_reducible apply good_inject
    | with_reducible apply good_trlPoison
    | with_reducible apply good_taint
    | with_reducible apply good_add2
    | with_reducible apply good_qlpLine
    | with_reducible apply good_frameLine
    | with_reducible apply good_sramCes
    | with_reducible refine good_foldl _ _ ?_ ?_
    | with_reducible refine good_foldr _ _ ?_ ?_
    | simp only [good_mk]
    | simp only [good_mk_gbk]
    | split
    | intro _)

theorem good_execTrgStart {bb : Prop} {pp : Part} {qq : List Instr} (r : Req) (arg : BitVec 16) (s : State) (h_s : s.Good bb pp qq) :
    ∀ tOut : State, execTrgStart r arg s = .next tOut → tOut.Good bb pp qq := by
  unfold execTrgStart
  try dsimp only
  refine good_run _ ?_ h_s
  repeat' (first
    | with_reducible assumption
    | with_reducible apply good_command
    | with_reducible apply good_wr2
    | with_reducible refine good_foldl _ _ ?_ ?_
    | with_reducible refine good_foldr _ _ ?_ ?_
    | simp only [good_mk]
    | simp only [good_mk_gbk]
    | split
    | intro _)

theorem good_execTrgStop {bb : Prop} {pp : Part} {qq : List Instr} (r : Req) (arg : BitVec 16) (s : State) (h_s : s.Good bb pp qq) :
    ∀ tOut : State, execTrgStop r arg s = .next tOut → tOut.Good bb pp qq := by
  unfold execTrgStop
  try dsimp only
  refine good_run _ ?_ h_s
  repeat' (first
    | with_reducible assumption
    | with_reducible apply good_command
    | with_reducible apply good_stopTrg
    | with_reducible refine good_foldl _ _ ?_ ?_
    | with_reducible refine good_foldr _ _ ?_ ?_
    | simp only [good_mk]
    | simp only [good_mk_gbk]
    | split
    | intro _)

theorem good_execTriggerHit {bb : Prop} {pp : Part} {qq : List Instr} (s : State) (h_s : s.Good bb pp qq) :
    ∀ tOut : State, execTriggerHit s = .next tOut → tOut.Good bb pp qq := by
  unfold execTriggerHit
  try dsimp only
  refine good_run _ ?_ h_s
  repeat' (first
    | with_reducible assumption
    | with_reducible apply good_onlyIf
    | with_reducible apply good_trigNext
    | with_reducible apply good_pulseOn
    | with_reducible refine good_foldl _ _ ?_ ?_
    | with_reducible refine good_foldr _ _ ?_ ?_
    | simp only [good_mk]
    | simp only [good_mk_gbk]
    | split
    | intro _)

theorem good_execTriggerPulseEnd {bb : Prop} {pp : Part} {qq : List Instr} (k : Fin 6) (s : State) (h_s : s.Good bb pp qq) :
    ∀ tOut : State, execTriggerPulseEnd k s = .next tOut → tOut.Good bb pp qq := by
  unfold execTriggerPulseEnd
  try dsimp only
  refine good_run _ ?_ h_s
  repeat' (first
    | with_reducible assumption
    | with_reducible apply good_onlyIf
    | with_reducible apply good_pulseEnd
    | with_reducible refine good_foldl _ _ ?_ ?_
    | with_reducible refine good_foldr _ _ ?_ ?_
    | simp only [good_mk]
    | simp only [good_mk_gbk]
    | split
    | intro _)

theorem good_execTrlLoadDefault {bb : Prop} {pp : Part} {qq : List Instr} (r : Req) (h : Fin 32) (arg : BitVec 16) (s : State) (h_s : s.Good bb pp qq) :
    ∀ tOut : State, execTrlLoadDefault r h arg s = .next tOut → tOut.Good bb pp qq := by
  unfold execTrlLoadDefault
  try dsimp only
  refine good_run _ ?_ h_s
  repeat' (first
    | with_reducible assumption
    | with_reducible apply good_command
    | with_reducible apply good_setState
    | with_reducible apply good_setBusy
    | with_reducible refine good_foldl _ _ ?_ ?_
    | with_reducible refine good_foldr _ _ ?_ ?_
    | simp only [good_mk]
    | simp only [good_mk_gbk]
    | split
    | intro _)

theorem good_execTrlLoadDefaultDone {bb : Prop} {pp : Part} {qq : List Instr} (h : Fin 32) (s : State) (h_s : s.Good bb pp qq) :
    ∀ tOut : State, execTrlLoadDefaultDone h s = .next tOut → tOut.Good bb pp qq := by
  unfold execTrlLoadDefaultDone
  try dsimp only
  refine good_run _ ?_ h_s
  repeat' (first
    | with_reducible assumption
    | with_reducible apply good_onlyIf
    | with_reducible apply good_setBusy
    | with_reducible apply good_setState
    | with_reducible apply good_store
    | with_reducible refine good_foldl _ _ ?_ ?_
    | with_reducible refine good_foldr _ _ ?_ ?_
    | simp only [good_mk]
    | simp only [good_mk_gbk]
    | split
    | intro _)

theorem good_execTrlRevert {bb : Prop} {pp : Part} {qq : List Instr} (r : Req) (h : Fin 32) (arg : BitVec 16) (s : State) (h_s : s.Good bb pp qq) :
    ∀ tOut : State, execTrlRevert r h arg s = .next tOut → tOut.Good bb pp qq := by
  unfold execTrlRevert
  try dsimp only
  refine good_run _ ?_ h_s
  repeat' (first
    | with_reducible assumption
    | with_reducible apply good_command
    | with_reducible apply good_setState
    | with_reducible refine good_foldl _ _ ?_ ?_
    | with_reducible refine good_foldr _ _ ?_ ?_
    | simp only [good_mk]
    | simp only [good_mk_gbk]
    | split
    | intro _)

theorem good_execTrlTblAccess {bb : Prop} {pp : Part} {qq : List Instr} (r : Req) (h : Fin 32) (w : Fin 4) (write : Option Word) (s : State) (h_s : s.Good bb pp qq) :
    ∀ tOut : State, execTrlTblAccess r h w write s = .next tOut → tOut.Good bb pp qq := by
  unfold execTrlTblAccess
  try dsimp only
  refine good_run _ ?_ h_s
  repeat' (first
    | with_reducible assumption
    | with_reducible apply good_trlAccess
    | with_reducible apply good_access
    | with_reducible apply good_readAccess
    | with_reducible refine good_foldl _ _ ?_ ?_
    | with_reducible refine good_foldr _ _ ?_ ?_
    | simp only [good_mk]
    | simp only [good_mk_gbk]
    | split
    | intro _)

theorem good_execUnitLockWrite {bb : Prop} {pp : Part} {qq : List Instr} (r : Req) (page : BitVec 12) (s : State) (h_s : s.Good bb pp qq) :
    ∀ tOut : State, execUnitLockWrite r page s = .next tOut → tOut.Good bb pp qq := by
  unfold execUnitLockWrite
  try dsimp only
  refine good_run _ ?_ h_s
  repeat' (first
    | with_reducible assumption
    | with_reducible apply good_access
    | with_reducible apply good_behind
    | with_reducible apply good_lockWrite
    | with_reducible refine good_foldl _ _ ?_ ?_
    | with_reducible refine good_foldr _ _ ?_ ?_
    | simp only [good_mk]
    | simp only [good_mk_gbk]
    | split
    | intro _)

theorem good_execUnlock {bb : Prop} {pp : Part} {qq : List Instr} (r : Req) (arg : BitVec 16) (s : State) (h_s : s.Good bb pp qq) :
    ∀ tOut : State, execUnlock r arg s = .next tOut → tOut.Good bb pp qq := by
  unfold execUnlock
  try dsimp only
  refine good_run _ ?_ h_s
  repeat' (first
    | with_reducible assumption
    | with_reducible apply good_command
    | with_reducible apply good_setGth
    | with_reducible apply good_atFolly
    | with_reducible apply good_unlockFails
    | with_reducible apply good_unlocked
    | with_reducible refine good_foldl _ _ ?_ ?_
    | with_reducible refine good_foldr _ _ ?_ ?_
    | simp only [good_mk]
    | simp only [good_mk_gbk]
    | split
    | intro _)

theorem good_execUnlockLockoutEnd {bb : Prop} {pp : Part} {qq : List Instr} (s : State) (h_s : s.Good bb pp qq) :
    ∀ tOut : State, execUnlockLockoutEnd s = .next tOut → tOut.Good bb pp qq := by
  unfold execUnlockLockoutEnd
  try dsimp only
  refine good_run _ ?_ h_s
  repeat' (first
    | with_reducible assumption
    | with_reducible apply good_setGth
    | with_reducible refine good_foldl _ _ ?_ ?_
    | with_reducible refine good_foldr _ _ ?_ ?_
    | simp only [good_mk]
    | simp only [good_mk_gbk]
    | split
    | intro _)

theorem good_execUnmaskAlert {bb : Prop} {pp : Part} {qq : List Instr} (r : Req) (arg : BitVec 16) (s : State) (h_s : s.Good bb pp qq) :
    ∀ tOut : State, execUnmaskAlert r arg s = .next tOut → tOut.Good bb pp qq := by
  unfold execUnmaskAlert
  try dsimp only
  refine good_run _ ?_ h_s
  repeat' (first
    | with_reducible assumption
    | with_reducible apply good_command
    | with_reducible apply good_setAlertBit
    | with_reducible refine good_foldl _ _ ?_ ?_
    | with_reducible refine good_foldr _ _ ?_ ?_
    | simp only [good_mk]
    | simp only [good_mk_gbk]
    | split
    | intro _)

theorem good_execUpdate {bb : Prop} {pp : Part} {qq : List Instr} (r : Req) (arg : BitVec 16) (s : State) (h_s : s.Good bb pp qq) :
    ∀ tOut : State, execUpdate r arg s = .next tOut → tOut.Good bb pp qq := by
  unfold execUpdate
  try dsimp only
  refine good_run _ ?_ h_s
  repeat' (first
    | with_reducible assumption
    | with_reducible apply good_command
    | with_reducible apply good_wr
    | with_reducible apply good_request
    | with_reducible refine good_foldl _ _ ?_ ?_
    | with_reducible refine good_foldr _ _ ?_ ?_
    | simp only [good_mk]
    | simp only [good_mk_gbk]
    | split
    | intro _)

theorem good_execUpdateTimeout {bb : Prop} {pp : Part} {qq : List Instr} (s : State) (h_s : s.Good bb pp qq) :
    ∀ tOut : State, execUpdateTimeout s = .next tOut → tOut.Good bb pp qq := by
  unfold execUpdateTimeout
  try dsimp only
  refine good_run _ ?_ h_s
  repeat' (first
    | with_reducible assumption
    | with_reducible apply good_onlyIf
    | with_reducible apply good_requestEnd
    | with_reducible apply good_wr
    | with_reducible apply good_unrequest
    | with_reducible refine good_foldl _ _ ?_ ?_
    | with_reducible refine good_foldr _ _ ?_ ?_
    | simp only [good_mk]
    | simp only [good_mk_gbk]
    | split
    | intro _)

theorem good_execUsedBinRoll {bb : Prop} {pp : Part} {qq : List Instr} (s : State) (h_s : s.Good bb pp qq) :
    ∀ tOut : State, execUsedBinRoll s = .next tOut → tOut.Good bb pp qq := by
  unfold execUsedBinRoll
  try dsimp only
  refine good_run _ ?_ h_s
  repeat' (first
    | with_reducible assumption
    | with_reducible apply good_onlyIf
    | with_reducible apply good_updQlp
    | with_reducible apply good_wr
    | with_reducible refine good_foldl _ _ ?_ ?_
    | with_reducible refine good_foldr _ _ ?_ ?_
    | simp only [good_mk]
    | simp only [good_mk_gbk]
    | split
    | intro _)

theorem good_execVbusPor {bb : Prop} {pp : Part} {qq : List Instr} (rise : Bool) (s : State) (h_s : s.Good bb pp qq) :
    ∀ tOut : State, execVbusPor rise s = .next tOut → tOut.Good bb pp qq := by
  unfold execVbusPor
  try dsimp only
  refine good_run _ ?_ h_s
  repeat' (first
    | with_reducible assumption
    | with_reducible apply good_por
    | with_reducible refine good_foldl _ _ ?_ ?_
    | with_reducible refine good_foldr _ _ ?_ ?_
    | simp only [good_mk])

theorem good_execVerifyFwDone {bb : Prop} {pp : Part} {qq : List Instr} (slot : Fin 2) (s : State) (h_s : s.Good bb pp qq) :
    ∀ tOut : State, execVerifyFwDone slot s = .next tOut → tOut.Good bb pp qq := by
  unfold execVerifyFwDone
  try dsimp only
  refine good_run _ ?_ h_s
  repeat' (first
    | with_reducible assumption
    | with_reducible apply good_bootVerified
    | with_reducible apply good_onlyIf
    | with_reducible apply good_restartVerified
    | with_reducible refine good_foldl _ _ ?_ ?_
    | with_reducible refine good_foldr _ _ ?_ ?_
    | simp only [good_mk]
    | simp only [good_mk_gbk]
    | split
    | intro _)

theorem good_execVfFlr {bb : Prop} {pp : Part} {qq : List Instr} (i : Fin 4) (s : State) (h_s : s.Good bb pp qq) :
    ∀ tOut : State, execVfFlr i s = .next tOut → tOut.Good bb pp qq := by
  unfold execVfFlr
  try dsimp only
  refine good_run _ ?_ h_s
  repeat' (first
    | with_reducible assumption
    | with_reducible apply good_onlyIf
    | with_reducible apply good_countFlr
    | with_reducible apply good_updStm
    | with_reducible apply good_resetStream
    | with_reducible apply good_resetDone
    | with_reducible refine good_foldl _ _ ?_ ?_
    | with_reducible refine good_foldr _ _ ?_ ?_
    | simp only [good_mk]
    | simp only [good_mk_gbk]
    | split
    | intro _)

theorem good_execVniReset {bb : Prop} {pp : Part} {qq : List Instr} (r : Req) (arg : BitVec 16) (s : State) (h_s : s.Good bb pp qq) :
    ∀ tOut : State, execVniReset r arg s = .next tOut → tOut.Good bb pp qq := by
  unfold execVniReset
  try dsimp only
  refine good_run _ ?_ h_s
  repeat' (first
    | with_reducible assumption
    | with_reducible apply good_command
    | with_reducible apply good_wr
    | with_reducible apply good_vniRead
    | with_reducible apply good_frameLeft
    | with_reducible refine good_foldl _ _ ?_ ?_
    | with_reducible refine good_foldr _ _ ?_ ?_
    | simp only [good_mk]
    | simp only [good_mk_gbk]
    | split
    | intro _)

theorem good_execVniTxDone {bb : Prop} {pp : Part} {qq : List Instr} (desc : List Byte) (frame : List Byte) (parity : Bool) (age : BitVec 16) (fill : BitVec 13) (s : State) (h_s : s.Good bb pp qq) :
    ∀ tOut : State, execVniTxDone desc frame parity age fill s = .next tOut → tOut.Good bb pp qq := by
  unfold execVniTxDone
  try dsimp only
  refine good_run _ ?_ h_s
  repeat' (first
    | with_reducible assumption
    | with_reducible apply good_onlyIf
    | with_reducible apply good_frameLeft
    | with_reducible apply good_txComplete
    | with_reducible apply good_wr
    | with_reducible apply good_sendFrame
    | with_reducible apply good_raise
    | with_reducible apply good_incSat
    | with_reducible refine good_foldl _ _ ?_ ?_
    | with_reducible refine good_foldr _ _ ?_ ?_
    | simp only [good_mk]
    | simp only [good_mk_gbk]
    | split
    | intro _)

theorem good_execVniTxDoorbell {bb : Prop} {pp : Part} {qq : List Instr} (r : Req) (tail : BitVec 16) (s : State) (h_s : s.Good bb pp qq) :
    ∀ tOut : State, execVniTxDoorbell r tail s = .next tOut → tOut.Good bb pp qq := by
  unfold execVniTxDoorbell
  try dsimp only
  refine good_run _ ?_ h_s
  repeat' (first
    | with_reducible assumption
    | with_reducible apply good_access
    | with_reducible apply good_wr
    | with_reducible refine good_foldl _ _ ?_ ?_
    | with_reducible refine good_foldr _ _ ?_ ?_
    | simp only [good_mk]
    | simp only [good_mk_gbk]
    | split
    | intro _)

theorem good_execVoteWrite {bb : Prop} {pp : Part} {qq : List Instr} (r : Req) (client : Fin 7) (level : BitVec 14) (s : State) (h_s : s.Good bb pp qq) :
    ∀ tOut : State, execVoteWrite r client level s = .next tOut → tOut.Good bb pp qq := by
  unfold execVoteWrite
  try dsimp only
  refine good_run _ ?_ h_s
  repeat' (first
    | with_reducible assumption
    | with_reducible apply good_access
    | with_reducible apply good_setVote
    | with_reducible apply good_dropWrite
    | with_reducible refine good_foldl _ _ ?_ ?_
    | with_reducible refine good_foldr _ _ ?_ ?_
    | simp only [good_mk]
    | simp only [good_mk_gbk]
    | split
    | intro _)

theorem good_execWakeComparatorReset {bb : Prop} {pp : Part} {qq : List Instr} (c : Fin 4) (s : State) (h_s : s.Good bb pp qq) :
    ∀ tOut : State, execWakeComparatorReset c s = .next tOut → tOut.Good bb pp qq := by
  unfold execWakeComparatorReset
  try dsimp only
  refine good_run _ ?_ h_s
  repeat' (first
    | with_reducible assumption
    | with_reducible apply good_onlyIf
    | with_reducible apply good_wr
    | with_reducible refine good_foldl _ _ ?_ ?_
    | with_reducible refine good_foldr _ _ ?_ ?_
    | simp only [good_mk]
    | simp only [good_mk_gbk]
    | split
    | intro _)

theorem good_execWakeComparatorTrip {bb : Prop} {pp : Part} {qq : List Instr} (c : Fin 4) (s : State) (h_s : s.Good bb pp qq) :
    ∀ tOut : State, execWakeComparatorTrip c s = .next tOut → tOut.Good bb pp qq := by
  unfold execWakeComparatorTrip
  try dsimp only
  refine good_run _ ?_ h_s
  repeat' (first
    | with_reducible assumption
    | with_reducible apply good_onlyIf
    | with_reducible apply good_wr
    | with_reducible apply good_raise
    | with_reducible apply good_wake
    | with_reducible refine good_foldl _ _ ?_ ?_
    | with_reducible refine good_foldr _ _ ?_ ?_
    | simp only [good_mk]
    | simp only [good_mk_gbk]
    | split
    | intro _)

theorem good_execWakeFrameMatch {bb : Prop} {pp : Part} {qq : List Instr} (frame : List Byte) (s : State) (h_s : s.Good bb pp qq) :
    ∀ tOut : State, execWakeFrameMatch frame s = .next tOut → tOut.Good bb pp qq := by
  unfold execWakeFrameMatch
  try dsimp only
  refine good_run _ ?_ h_s
  repeat' (first
    | with_reducible assumption
    | with_reducible apply good_listen
    | with_reducible refine good_foldl _ _ ?_ ?_
    | with_reducible refine good_foldr _ _ ?_ ?_
    | simp only [good_mk]
    | simp only [good_mk_gbk]
    | split
    | intro _)

theorem good_execWebBreakQualified {bb : Prop} {pp : Part} {qq : List Instr} (high : Bool) (s : State) (h_s : s.Good bb pp qq) :
    ∀ tOut : State, execWebBreakQualified high s = .next tOut → tOut.Good bb pp qq := by
  unfold execWebBreakQualified
  try dsimp only
  refine good_run _ ?_ h_s
  repeat' (first
    | with_reducible assumption
    | with_reducible apply good_halt
    | with_reducible apply good_retract
    | with_reducible refine good_foldl _ _ ?_ ?_
    | with_reducible refine good_foldr _ _ ?_ ?_
    | simp only [good_mk]
    | simp only [good_mk_gbk]
    | split
    | intro _)

theorem good_execWireFault {bb : Prop} {pp : Part} {qq : List Instr} (n : Fin 3) (s : State) (h_s : s.Good bb pp qq) :
    ∀ tOut : State, execWireFault n s = .next tOut → tOut.Good bb pp qq := by
  unfold execWireFault
  try dsimp only
  refine good_run _ ?_ h_s
  repeat' (first
    | with_reducible assumption
    | with_reducible apply good_onlyIf
    | with_reducible apply good_updEnc
    | with_reducible apply good_wr
    | with_reducible apply good_encLost
    | with_reducible apply good_raise
    | with_reducible apply good_setState
    | with_reducible refine good_foldl _ _ ?_ ?_
    | with_reducible refine good_foldr _ _ ?_ ?_
    | simp only [good_mk]
    | simp only [good_mk_gbk]
    | split
    | intro _)

theorem good_execWireQualified {bb : Prop} {pp : Part} {qq : List Instr} (n : Fin 3) (s : State) (h_s : s.Good bb pp qq) :
    ∀ tOut : State, execWireQualified n s = .next tOut → tOut.Good bb pp qq := by
  unfold execWireQualified
  try dsimp only
  refine good_run _ ?_ h_s
  repeat' (first
    | with_reducible assumption
    | with_reducible apply good_onlyIf
    | with_reducible apply good_setState
    | with_reducible apply good_setCoast
    | with_reducible apply good_wr
    | with_reducible refine good_foldl _ _ ?_ ?_
    | with_reducible refine good_foldr _ _ ?_ ?_
    | simp only [good_mk]
    | simp only [good_mk_gbk]
    | split
    | intro _)

theorem good_execWrdKick {bb : Prop} {pp : Part} {qq : List Instr} (r : Req) (v : BitVec 16) (s : State) (h_s : s.Good bb pp qq) :
    ∀ tOut : State, execWrdKick r v s = .next tOut → tOut.Good bb pp qq := by
  unfold execWrdKick
  try dsimp only
  refine good_run _ ?_ h_s
  repeat' (first
    | with_reducible assumption
    | with_reducible apply good_access
    | with_reducible apply good_dropWrite
    | with_reducible apply good_onlyIf
    | with_reducible apply good_judgeKick
    | with_reducible refine good_foldl _ _ ?_ ?_
    | with_reducible refine good_foldr _ _ ?_ ?_
    | simp only [good_mk]
    | simp only [good_mk_gbk]
    | split
    | intro _)

theorem good_execXtalQualified {bb : Prop} {pp : Part} {qq : List Instr} (s : State) (h_s : s.Good bb pp qq) :
    ∀ tOut : State, execXtalQualified s = .next tOut → tOut.Good bb pp qq := by
  unfold execXtalQualified
  try dsimp only
  refine good_run _ ?_ h_s
  repeat' (first
    | with_reducible assumption
    | with_reducible apply good_showXtal
    | with_reducible apply good_startPll
    | with_reducible refine good_foldl _ _ ?_ ?_
    | with_reducible refine good_foldr _ _ ?_ ?_
    | simp only [good_mk]
    | simp only [good_mk_gbk]
    | split
    | intro _)

theorem good_execXtalStop {bb : Prop} {pp : Part} {qq : List Instr} (s : State) (h_s : s.Good bb pp qq) :
    ∀ tOut : State, execXtalStop s = .next tOut → tOut.Good bb pp qq := by
  unfold execXtalStop
  try dsimp only
  refine good_run _ ?_ h_s
  repeat' (first
    | with_reducible assumption
    | with_reducible apply good_onlyIf
    | with_reducible apply good_padStops
    | with_reducible apply good_qlpCut
    | with_reducible apply good_trigger
    | with_reducible apply good_raise
    | with_reducible apply good_showXtal
    | with_reducible refine good_foldl _ _ ?_ ?_
    | with_reducible refine good_foldr _ _ ?_ ?_
    | simp only [good_mk]
    | simp only [good_mk_gbk]
    | split
    | intro _)

theorem good_execZeroizeDone {bb : Prop} {pp : Part} {qq : List Instr} (s : State) (h_s : s.Good bb pp qq) :
    ∀ t : State, execZeroizeDone s = .next t → t.Good bb pp qq := by
  unfold execZeroizeDone
  refine good_run _ ?_ h_s
  intro u hu
  refine good_onlyIf _ _ _ hu ?_
  intro t ht
  refine good_raise _ _ _ (good_setState _ _ _ (good_wr _ _ _ _ (good_raise _ _ _ ?_)))
  exact ⟨ht.1, ht.2.1, fun hb => ⟨Tbl.canonical_filter _ _ _ (ht.2.2 hb).mem, (ht.2.2 hb).flash,
    (ht.2.2 hb).queue⟩⟩

theorem good_writeCommit {bb : Prop} {pp : Part} {qq : List Instr} (r : Req) (page : ℕ) (mode : ℕ) (s : State) (h_s : s.Good bb pp qq) :
    (writeCommit r page mode s).Good bb pp qq := by
  unfold writeCommit
  try dsimp only
  repeat' (first
    | with_reducible assumption
    | with_reducible apply good_access
    | with_reducible apply good_writeWhen
    | with_reducible refine good_foldl _ _ ?_ ?_
    | with_reducible refine good_foldr _ _ ?_ ?_
    | simp only [good_mk]
    | simp only [good_mk_gbk]
    | split
    | intro _)

theorem good_commandOf {bb : Prop} {pp : Part} {qq : List Instr} (r : Req) (kd : Kind) (u page code : Nat) (arg : BitVec 16)
    (c : State → Out) (hc : commandOf r kd u page code arg = some c) (s : State) (h_s : s.Good bb pp qq) :
    ∀ t : State, c s = .next t → t.Good bb pp qq := by
  have h_w : State.Good bb pp qq { s with free := s.free + 2 } := State.Good.same _ _ h_s rfl rfl rfl rfl rfl
  unfold commandOf at hc
  split at hc <;> cases hc
  all_goals try unfold State.wired
  all_goals try dsimp only
  all_goals first
    | (with_reducible apply good_execAlign; assumption)
    | (with_reducible apply good_execAlignCheck; assumption)
    | (with_reducible apply good_execApplyRibbons; assumption)
    | (with_reducible apply good_execArcAbort; assumption)
    | (with_reducible apply good_execArchive; assumption)
    | (with_reducible apply good_execAssertFault; assumption)
    | (with_reducible apply good_execAxisLoadDefault; assumption)
    | (with_reducible apply good_execAxisStop; assumption)
    | (with_reducible apply good_execCalibrate; assumption)
    | (with_reducible apply good_execCamLoadDefault; assumption)
    | (with_reducible apply good_execCamRevert; assumption)
    | (with_reducible apply good_execCfgApply; assumption)
    | (with_reducible apply good_execCfgRevert; assumption)
    | (with_reducible apply good_execChallenge; assumption)
    | (with_reducible apply good_execClearDrift; assumption)
    | (with_reducible apply good_execClearErrs; assumption)
    | (with_reducible apply good_execClearKey; assumption)
    | (with_reducible apply good_execCopy; assumption)
    | (with_reducible apply good_execCopyCancel; assumption)
    | (with_reducible apply good_execDeviceReset; assumption)
    | (with_reducible apply good_execFntResume; assumption)
    | (with_reducible apply good_execFshRead; assumption)
    | (with_reducible apply good_execFshVerify; assumption)
    | (with_reducible apply good_execGbkWrite; assumption)
    | (with_reducible apply good_execGthWithdraw; assumption)
    | (with_reducible apply good_execHeadLoop; assumption)
    | (with_reducible apply good_execHome; assumption)
    | (with_reducible apply good_execHscStart; assumption)
    | (with_reducible apply good_execHscStop; assumption)
    | (with_reducible apply good_execKioskReturn; assumption)
    | (with_reducible apply good_execKioskWithdraw; assumption)
    | (with_reducible apply good_execLoadKey; assumption)
    | (with_reducible apply good_execLoadPosition; assumption)
    | (with_reducible apply good_execMove; assumption)
    | (with_reducible apply good_execOnkAbort; assumption)
    | (with_reducible apply good_execOnkFlush; assumption)
    | (with_reducible apply good_execOnkRead; assumption)
    | (with_reducible apply good_execQlpClear; assumption)
    | (with_reducible apply good_execRaiseSvn; assumption)
    | (with_reducible apply good_execRearm; assumption)
    | (with_reducible apply good_execRelease; assumption)
    | (with_reducible apply good_execReleaseHalt; assumption)
    | (with_reducible apply good_execRelock; assumption)
    | (with_reducible apply good_execRetire; assumption)
    | (with_reducible apply good_execRetrain; assumption)
    | (with_reducible apply good_execRingReset; assumption)
    | (with_reducible apply good_execRunTable; assumption)
    | (with_reducible apply good_execSdlResume; assumption)
    | (with_reducible apply good_execServo; assumption)
    | (with_reducible apply good_execSetOut; assumption)
    | (with_reducible apply good_execSetPosition; assumption)
    | (with_reducible apply good_execSliceNow; assumption)
    | (with_reducible apply good_execStage; assumption)
    | (with_reducible apply good_execStmReset; assumption)
    | (with_reducible apply good_execStmStart; assumption)
    | (with_reducible apply good_execSwitch; assumption)
    | (with_reducible apply good_execTbSet; assumption)
    | (with_reducible apply good_execTbStep; assumption)
    | (with_reducible apply good_execTrgStart; assumption)
    | (with_reducible apply good_execTrgStop; assumption)
    | (with_reducible apply good_execTrlLoadDefault; assumption)
    | (with_reducible apply good_execTrlRevert; assumption)
    | (with_reducible apply good_execUnlock; assumption)
    | (with_reducible apply good_execUnmaskAlert; assumption)
    | (with_reducible apply good_execUpdate; assumption)
    | (with_reducible apply good_execVniReset; assumption)
    | (with_reducible apply good_execClearFault; assumption)
    | (with_reducible apply good_execFshErase; assumption)
    | (with_reducible apply good_execFshProgram; assumption)
    | (with_reducible apply good_execMbusRecover; assumption)
    | (with_reducible apply good_execMbusXfer; assumption)

theorem good_execRegisterWrite {bb : Prop} {pp : Part} {qq : List Instr} (r : Req) (page off : BitVec 12) (be : BitVec 4) (v : Word) (s : State)
    (h_s : s.Good bb pp qq) :
    ∀ t : State, execRegisterWrite r page off be v s = .next t → t.Good bb pp qq := by
  unfold execRegisterWrite
  dsimp only
  split
  · rename_i c hc
    unfold writtenCommand at hc
    split at hc
    · cases hc
    · split at hc
      · cases hc
      · exact good_commandOf _ _ _ _ _ _ _ hc s h_s
  · exact good_run _ (fun u hu => good_regWrite _ _ _ _ _ _ hu) h_s

end Sys2Proof.Machine
end

