-- ==== Sys2Proof/Laws/Ops.lean ====
section
/-! SUPPORT. One lemma for each shared operation that says what it can do: reaching a page, judging a
command, dropping a write, raising an event. -/

namespace Sys2Proof.Machine

variable (s : State)

/-! ### Reads of registers past an update of other state -/

theorem State.word_of_regs (s t : State) (hp : t.part = s.part) (hr : t.regs = s.regs) (p o : Nat) :
    t.word p o = s.word p o := by unfold State.word; rw [hp, hr]

theorem State.rd_of_regs (s t : State) (hp : t.part = s.part) (hr : t.regs = s.regs) (p : Nat)
    (f : Fld) : t.rd p f = s.rd p f := by
  unfold State.rd; rw [State.word_of_regs s t hp hr]

theorem State.ac_of_act (s t : State) (hp : t.part = s.part) (hr : t.act = s.act) (p : Nat)
    (f : Fld) : t.ac p f = s.ac p f := by unfold State.ac State.actWord; rw [hp, hr]

theorem State.actWord_of_act (s t : State) (hp : t.part = s.part) (hr : t.act = s.act) (p o : Nat) :
    t.actWord p o = s.actWord p o := by unfold State.actWord; rw [hp, hr]

/-- A field after a write of a field: its own value, else what it was. -/
theorem State.bit_wr (p : Nat) (f : Fld) (hf : f.Sound) (v : Nat) :
    (s.wr p f v).bit p f = decide (v % 2 ^ f.width ≠ 0) := by
  unfold State.bit; rw [State.rd_wr s p f hf]

/-! ### Reaching a page -/

theorem State.fresh_open (r : Req) (page : Nat) : s.fresh.open r page = s.open r page := by
  unfold State.open State.active
  by_cases h : r = .gkp ∧ s.served r = true
  · have h' : r = .gkp ∧ s.fresh.served r = true := h
    simp only [if_pos h, if_pos h']; rfl
  · have h' : ¬ (r = .gkp ∧ s.fresh.served r = true) := h
    simp only [if_neg h, if_neg h']; rfl

theorem State.access_open (r : Req) (page off : Nat) (f : State → State)
    (h : s.open r page = true) : s.access r page off f = f ((s.active r).touch page) := by
  simp only [State.open, Bool.and_eq_true, decide_eq_true_eq] at h
  simp [State.access, h]

/-- A requester that does not reach the window changes nothing (R73). -/
theorem State.access_unserved (r : Req) (page off : Nat) (f : State → State)
    (h : s.served r = false) : s.access r page off f = s := by
  simp [State.access, h]

/-- A write to an absent page changes nothing on it (R42). -/
theorem State.access_absent (r : Req) (page off : Nat) (f : State → State)
    (h1 : s.served r = true) (h : s.has page = false) : s.access r page off f = s.active r := by
  simp [State.access, h1, h]

/-- A write to a page without power is dropped (R82). -/
theorem State.access_down (r : Req) (page off : Nat) (f : State → State)
    (h1 : s.served r = true) (h2 : s.has page = true)
    (h3 : (s.active r).pageLevel page = 0) :
    s.access r page off f = (s.active r).denyDown r page off := by
  simp [State.access, h1, h2, h3]

theorem State.onlyIf_true (c : Bool) (f : State → State) (h : c = true) : s.onlyIf c f = f s := by
  simp [State.onlyIf, h]

theorem State.onlyIf_false (c : Bool) (f : State → State) (h : c = false) : s.onlyIf c f = s := by
  simp [State.onlyIf, h]

/-- Ungating clocks changes nothing that a register or a condition reads. -/
theorem State.touch_eq (page : Nat) : ∃ u, s.touch page = { s with pwr := { s.pwr with ungated := u } } := by
  unfold State.touch
  split
  · exact ⟨s.pwr.ungated, rfl⟩
  · split
    · exact ⟨_, rfl⟩
    · exact ⟨s.pwr.ungated, rfl⟩

@[simp] theorem State.touch_word (q p o : Nat) : (s.touch q).word p o = s.word p o :=
  State.word_of_regs s _ (by simp) (by simp) p o

@[simp] theorem State.touch_rd (q p : Nat) (f : Fld) : (s.touch q).rd p f = s.rd p f :=
  State.rd_of_regs s _ (by simp) (by simp) p f

@[simp] theorem State.touch_bit (q p : Nat) (f : Fld) : (s.touch q).bit p f = s.bit p f := by
  unfold State.bit; rw [State.touch_rd]

@[simp] theorem State.active_word (r : Req) (p o : Nat) : (s.active r).word p o = s.word p o :=
  State.word_of_regs s _ (by simp) (by simp) p o

@[simp] theorem State.active_rd (r : Req) (p : Nat) (f : Fld) : (s.active r).rd p f = s.rd p f :=
  State.rd_of_regs s _ (by simp) (by simp) p f

@[simp] theorem State.active_bit (r : Req) (p : Nat) (f : Fld) : (s.active r).bit p f = s.bit p f := by
  unfold State.bit; rw [State.active_rd]

@[simp] theorem State.active_enabled (r : Req) (p : Nat) : (s.active r).enabled p = s.enabled p := by
  unfold State.enabled State.kind; simp

@[simp] theorem State.touch_enabled (q p : Nat) : (s.touch q).enabled p = s.enabled p := by
  unfold State.enabled State.kind; simp

@[simp] theorem State.touch_stateCode (q p : Nat) : (s.touch q).stateCode p = s.stateCode p := by
  obtain ⟨u, h⟩ := s.touch_eq q
  rw [h]; rfl

/-! ### Judging a command -/

theorem firstCause_eq_zero (cs : List (Bool × Nat)) (h : ∀ c ∈ cs, c.1 = false) :
    firstCause cs = 0 := by
  induction cs with
  | nil => rfl
  | cons c cs ih =>
    have hc : c.1 = false := h c (by simp)
    simp [firstCause, hc, ih (fun x hx => h x (by simp [hx]))]

/-- A command that no cause holds against is accepted and has its effect (R43). -/
theorem State.judge_accepts (r : Req) (page code : Nat) (arg : BitVec 16) (zeroArg whenOff : Bool)
    (causes : List (Bool × Nat)) (effect : State → State)
    (hb : s.bit page UNIT_STATUS_CMD_BUSY = false) (ho : whenOff = true ∨ s.enabled page = true)
    (ha : zeroArg = true → arg = 0) (hc : ∀ c ∈ causes, c.1 = false) :
    s.judge r page code arg zeroArg whenOff causes effect =
      effect (s.setResult r page code (s.stateCode page) 0) := by
  have h1 : (!whenOff && !s.enabled page) = false := by rcases ho with h | h <;> simp [h]
  have h2 : (zeroArg && arg != 0) = false := by cases zeroArg <;> simp_all
  have h0 := firstCause_eq_zero ((s.bit page UNIT_STATUS_CMD_BUSY, rcBUSY) ::
    (!whenOff && !s.enabled page, rcDISABLED) :: (zeroArg && arg != 0, rcBAD_ARG) :: causes) (by
      intro c hcm
      simp only [List.mem_cons] at hcm
      rcases hcm with rfl | rfl | rfl | hcm
      · exact hb
      · exact h1
      · exact h2
      · exact hc c hcm)
  simp only [State.judge, h0, ite_true]

/-- The same from the state the command finds. -/
theorem command_accepts (r : Req) (page code : Nat) (arg : BitVec 16) (zeroArg whenOff : Bool)
    (causes : State → List (Bool × Nat)) (effect : State → State) (h : s.open r page = true)
    (hb : s.bit page UNIT_STATUS_CMD_BUSY = false) (ho : whenOff = true ∨ s.enabled page = true)
    (ha : zeroArg = true → arg = 0) (hc : ∀ c ∈ causes (s.reached r page), c.1 = false) :
    command r page code arg zeroArg whenOff causes effect s.fresh = effect (s.taken r page code) := by
  unfold command
  rw [State.access_open _ r page _ _ (by rw [State.fresh_open]; exact h)]
  have hb' : ((s.fresh.active r).touch page).bit page UNIT_STATUS_CMD_BUSY = false := by
    rw [State.touch_bit, State.active_bit]; exact hb
  have ho' : whenOff = true ∨ ((s.fresh.active r).touch page).enabled page = true := by
    rw [State.touch_enabled, State.active_enabled]; exact ho
  exact State.judge_accepts _ r page code arg zeroArg whenOff _ _ hb' ho' ha hc

/-! ### Raising an event -/

/-- A due message changes no register. -/
@[simp] theorem State.eventDue_regs (p b : Nat) : (s.eventDue p b).regs = s.regs := by
  unfold State.eventDue State.signal State.message; dsimp only
  repeat' split
  all_goals rfl

theorem State.setEventBit_regs (p b : Nat) :
    (s.setEventBit p b).regs = (s.setWord p 0x014 (s.word p 0x014 ||| BitVec.ofNat 32 (2 ^ b))).regs := by
  unfold State.setEventBit; dsimp only
  split
  · rfl
  · simp

/-- The event bit is set, and the page's other bits stand. -/
theorem State.setEventBit_self (p b : Nat) :
    (s.setEventBit p b).word p 0x014 = s.word p 0x014 ||| BitVec.ofNat 32 (2 ^ b) := by
  rw [State.word_of_regs (s.setWord p 0x014 (s.word p 0x014 ||| BitVec.ofNat 32 (2 ^ b))) _ (by simp)
    (s.setEventBit_regs p b)]
  simp

theorem State.setEventBit_word (p b q o : Nat) (ho : o < 4096) (h : q ≠ p ∨ o ≠ 0x014) :
    (s.setEventBit p b).word q o = s.word q o := by
  rw [State.word_of_regs (s.setWord p 0x014 (s.word p 0x014 ||| BitVec.ofNat 32 (2 ^ b))) _ (by simp)
    (s.setEventBit_regs p b)]
  exact State.word_setWord_ne s (by decide) ho h _

/-- Nothing but the Guestbook's own words changes when an entry is queued (R383). -/
theorem State.gbkEntry_word (e : GbkEntry) (q o : Nat) (ho : o < 4096)
    (h : q ≠ pgGBK ∨ (o ≠ 0x014 ∧ o ≠ GBK_DROPPED_N.off)) : (s.gbkEntry e).word q o = s.word q o := by
  unfold State.gbkEntry State.gbkPush
  split
  · rename_i h; split at h <;> cases h; rfl
  · have hd : GBK_DROPPED_N.Sound := by decide
    have h1 : q ≠ pgGBK ∨ o ≠ GBK_DROPPED_N.off := h.imp_right And.right
    simp only [State.incSat_eq, State.addSat_eq]
    rw [State.word_wr_ne _ _ _ _ _ hd ho h1, State.setEventBit_word _ _ _ _ _ ho (h.imp_right And.left),
      State.word_wr_ne _ _ _ _ _ hd ho h1]

/-- A bit once set stays when an entry is queued. -/
theorem State.gbkEntry_raised (e : GbkEntry) (q b : Nat) (h : s.Raised q b) :
    (s.gbkEntry e).Raised q b := by
  by_cases hq : q = pgGBK
  · subst hq
    unfold State.Raised at *
    unfold State.gbkEntry State.gbkPush
    split
    · rename_i h'; split at h' <;> cases h'; exact h
    · have hd : GBK_DROPPED_N.Sound := by decide
      simp only [State.incSat_eq, State.addSat_eq]
      rw [State.word_wr_ne _ _ _ _ _ hd (by decide) (Or.inr (by decide)), State.setEventBit_self,
        State.word_wr_ne _ _ _ _ _ hd (by decide) (Or.inr (by decide))]
      simp [h]
  · unfold State.Raised at *
    rw [State.gbkEntry_word s e q 0x014 (by decide) (Or.inl hq)]
    exact h

theorem State.raiseD_word (p b d q o : Nat) (ho : o < 4096) (h : ¬ evWords p q o) :
    (s.raiseD p b d).word q o = s.word q o := by
  have h1 : q ≠ p ∨ o ≠ 0x014 := by
    by_contra hc
    exact h (Or.inl (by simpa [not_or] using hc))
  have h2 : q ≠ pgGBK ∨ (o ≠ 0x014 ∧ o ≠ GBK_DROPPED_N.off) := by
    by_contra hc
    apply h
    right
    by_cases hq : q = pgGBK
    · refine ⟨hq, ?_⟩
      by_contra hn
      exact hc (Or.inr ⟨fun e => hn (Or.inl e), fun e => hn (Or.inr e)⟩)
    · exact absurd (Or.inl hq) hc
  unfold State.raiseD
  split
  · rfl
  · have e : ((s.setEventBit p b).endMarks p b).word q o = s.word q o := by
      exact (State.word_of_regs (s.setEventBit p b) ((s.setEventBit p b).endMarks p b) (by simp) rfl q o).trans
        (State.setEventBit_word _ _ _ _ _ ho h1)
    dsimp only
    split
    · rfl
    · split
      · rw [State.gbkEntry_word _ _ _ _ ho h2, e]
      · exact e

/-- An event that the page has, and whose line no clamp holds, is set by its raise (R87, R382). -/
theorem State.raiseD_raised (p b d n : Nat) (hn : evNum s.part p b = some n) (hb : b < 32)
    (hc : s.clamped p = false) : (s.raiseD p b d).Raised p b := by
  have e : ((s.setEventBit p b).endMarks p b).Raised p b := by
    unfold State.Raised
    rw [(State.word_of_regs (s.setEventBit p b) ((s.setEventBit p b).endMarks p b) (by simp) rfl p 0x014),
      State.setEventBit_self]
    rw [BitVec.getLsbD_or, BitVec.getLsbD_ofNat, Nat.testBit_two_pow_self]
    simp [hb]
  unfold State.raiseD
  rw [hn]
  dsimp only
  rw [hc]
  simp only [Bool.false_eq_true, if_false]
  split
  · exact State.gbkEntry_raised _ _ _ _ e
  · exact e

theorem State.raise_word (p b q o : Nat) (ho : o < 4096) (h : ¬ evWords p q o) :
    (s.raise p b).word q o = s.word q o := State.raiseD_word s p b _ q o ho h

theorem State.raise_raised (p b n : Nat) (hn : evNum s.part p b = some n) (hb : b < 32)
    (hc : s.clamped p = false) : (s.raise p b).Raised p b := State.raiseD_raised s p b _ n hn hb hc

/-- GKP's event lines are never clamped: SYS has no event clamp. -/
theorem State.clamped_gkp : s.clamped pgGKP = false := by
  have h : s.kind pgGKP = some .gkp := by
    unfold State.kind; cases s.part <;> decide
  unfold State.clamped
  rw [h]
  rfl

/-- A field that no raise touches. -/
theorem State.raiseD_rd (p b d q : Nat) (f : Fld) (ho : f.off < 4096) (h : ¬ evWords p q f.off) :
    (s.raiseD p b d).rd q f = s.rd q f := by
  unfold State.rd; rw [State.raiseD_word s p b d q f.off ho h]

theorem State.raise_rd (p b q : Nat) (f : Fld) (ho : f.off < 4096) (h : ¬ evWords p q f.off) :
    (s.raise p b).rd q f = s.rd q f := State.raiseD_rd s p b _ q f ho h

/-! ### Results and refusals -/

theorem State.side_setSide (r r' : Req) (x : ReqSide) :
    (s.setSide r x).side r' = if r' = r then x else s.side r' := by
  cases r <;> cases r' <;> rfl

theorem State.cmdResult_wr (p v : Nat) (f : Fld) (r : Req) (q : Nat) :
    (s.wr p f v).cmdResult r q = s.cmdResult r q := by
  cases r <;> simp [State.cmdResult, State.side]

theorem State.cmdResult_regAlert (p o c w : Nat) (r r' : Req) (q : Nat) :
    (s.regAlert p o r c w).cmdResult r' q = s.cmdResult r' q := by
  cases r' <;> simp [State.cmdResult, State.side]

/-- A requester's result on a page is what was last recorded there (R44). -/
theorem State.cmdResult_setResult (r : Req) (page code st n : Nat) :
    (s.setResult r page code st n).cmdResult r page =
      BitVec.ofNat 32 (code + st * 2 ^ 16 + n * 2 ^ 24) := by
  cases r <;> simp [State.cmdResult, State.side, State.setResult, State.setSide]

/-- Each requester has its own on every page (R44). -/
theorem State.cmdResult_setResult_ne (r r' : Req) (page q code st n : Nat) (h : r' ≠ r ∨ q ≠ page) :
    (s.setResult r page code st n).cmdResult r' q = s.cmdResult r' q := by
  unfold State.cmdResult State.setResult
  rw [State.side_setSide]
  split
  · rename_i e; subst e
    exact Tbl.get_set_ne _ _ (by simpa using h) _ _
  · rfl

theorem State.setResult_word (r : Req) (page code st n p o : Nat) :
    (s.setResult r page code st n).word p o = s.word p o :=
  State.word_of_regs s _ (by simp) (by simp) p o

theorem State.setResult_rd (r : Req) (page code st n p : Nat) (f : Fld) :
    (s.setResult r page code st n).rd p f = s.rd p f :=
  State.rd_of_regs s _ (by simp) (by simp) p f

/-- A word that no raise touches. -/
theorem not_evWords (page p o : Nat) (h1 : o ≠ 0x014) (h2 : o ≠ 0x050) : ¬ evWords page p o := by
  have e : GBK_DROPPED_N.off = 0x050 := by decide
  unfold evWords; rw [e]; tauto

theorem evNum_gkp (part : Part) : evNum part pgGKP 0 = some 512 := by cases part <;> decide

theorem State.regAlert_word (p o c w q x : Nat) (r : Req) (hx : x < 4096) (h : ¬ evWords pgGKP q x) :
    (s.regAlert p o r c w).word q x = s.word q x := State.raiseD_word s _ _ _ _ _ hx h

theorem State.regAlert_rd (p o c w q : Nat) (f : Fld) (r : Req) (hx : f.off < 4096)
    (h : ¬ evWords pgGKP q f.off) : (s.regAlert p o r c w).rd q f = s.rd q f :=
  State.raiseD_rd s _ _ _ _ _ hx h

theorem State.regAlert_raised (p o c w : Nat) (r : Req) : (s.regAlert p o r c w).Raised pgGKP 0 :=
  State.raiseD_raised s _ _ _ 512 (evNum_gkp _) (by decide) s.clamped_gkp

theorem State.refuse_eq (r : Req) (page off code n : Nat) : s.refuse r page off code n =
    ((s.setResult r page code (s.stateCode page) n).wr page UNIT_STATUS_CMD_REFUSED 1).regAlert
      page off r n 1 := by unfold State.refuse; rfl

/-! ### Reads of memory -/

/-- A read of a range through a port is clean where no codeword is stored poisoned and no beat is
uncorrectable (R293). -/
theorem State.portRead_clean (port a n : Nat) (hg : (s.arrive port).memGone = false)
    (he : ((s.arrive port).readErrs a n [] false).2 = []) : (s.portRead port a n []).2.2.any id = false := by
  simp [State.portRead, State.dramRead, hg, he, tagged]

end Sys2Proof.Machine
end

