-- ==== Sys2Proof/Tests/Slice0.lean ====
section
/-! SUPPORT. Tests of the model: the well-formedness checks refuse an ill-formed command each; small
states meet the hypotheses of each statement of Certificates/Slice0/Obligations.lean, clause by clause
and at the edges of their ranges; single steps give what the spec's tables and examples say. -/

namespace Sys2Proof.Tests

set_option Elab.async false

open Machine

/-! ### States -/

/-- A part at READY: every rail, the crystal and every domain up, the Groundskeeper running. -/
def live : State :=
  let s := State.reset
  let s1 : State := { s with
    aon := { s.aon with vbus := true, rails := Vector.replicate 8 true, xtal := true, perst := true, estop := true,
                        refs := Vector.replicate 15 true },
    pwr := { s.pwr with doms := Vector.replicate 7 .up }, wrd := { s.wrd with gkp := .running } }
  (s1.wr pgTOP TOP_BOOT_STAGE 7).setWord pgPWR 0x040 0x2AAA

/-- The unit of a page is enabled. -/
def on (page : Nat) (s : State) : State := s.wr page UNIT_CTRL_ENABLE 1

/-- The unit's machine shows a state. -/
def shows (page code : Nat) (s : State) : State := s.wr page UNIT_STATUS_STATE code

/-- A folly is armed on a page. -/
def foolish (page num : Nat) (s : State) : State :=
  { s with follies := [(page, ⟨num, 0, true, none, true, 0⟩)] }

/-- A commit waits on a page. -/
def waits (page : Nat) (c : Commit) (s : State) : State := { s with commits := [(page, c)] }

theorem takes {s : State} {r : Req} {p : Nat} (h : s.open r p = true)
    (i : s.bit p UNIT_STATUS_CMD_BUSY = false) (e : s.enabled p = true) : s.Takes r p := ⟨h, i, e⟩

theorem takesOff {s : State} {r : Req} {p : Nat} (h : s.open r p = true)
    (i : s.bit p UNIT_STATUS_CMD_BUSY = false) : s.TakesOff r p := ⟨h, i⟩

/-- Both requesters vote alike for the seven domains. -/
def votes (v : Word) (s : State) : State := (s.setWord pgPWR 0x040 v).setWord pgPWR 0x044 v

/-- The fields of a word that a write can reach. -/
def writable (kd : Kind) (off : Nat) : List Row := (fieldsAt kd off).filter (fun x => !x.fixed)

/-- Sundial runs on ENC0, at 3 m/s, at position 1,024, with a check encoder named. -/
def sun : State :=
  let s := on pgSDL (on (pgENC 0) (on (pgENC 1) live))
  let s1 := (((shows (pgENC 0) 1 (shows (pgENC 1) 1 s)).wrAc pgSDL SDL_CFG_CHECK 1).wr pgSPD SPD_SPEED_V
    61440).setPos 1024
  { (s1.setHwm 1024) with enc := Vector.replicate 3 { s.enc.get 0 with mode := 1, speed := 61440 } }

def geo : Geo := { frm := 0, pitch := 256 * 65536, row := 0, pp := 1024, trim := 0 }

/-- A schedule stands at line 4, whose position is reached. -/
def atFour : Cursor := { line := 4, cmp := 0x4000000, prev := 0x3000000, num := 2, place := 4 }

/-- The schedule of a head runs. -/
def lines (h : Nat) (s : State) : State :=
  s.setHsc h { running := true, geo := [geo], tile := 4, 
               send := { line := 5, cmp := 0x5000000, prev := 0x4000000, num := 2, place := 5 },
               hit := atFour, lastHit := none }

/-- The schedules of heads 0 and 31 run, and so does the trigger's. -/
def sched : State :=
  { lines 31 (lines 0 (on pgTRG (on (pgHSC 31) sun))) with
    trg := { live.trg with running := true, cmp := 0x4000000, due := Vector.replicate 6 [⟨0x4000000, false⟩],
                            pulse := Vector.replicate 6 (some 0) } }

/-! ### Ill-formed commands: one for each check -/

theorem test_headOk : (Instr.tileDeadline 24).wellFormed .tq8624 = false := by decide

theorem test_kioskOk : (Instr.kioskTakeTile 48).wellFormed .tq8616 = false := by decide

theorem test_camOk : (Instr.fvalRise 4).wellFormed .tq8624 = false := by decide

theorem test_axisOk : (Instr.moveEnd 3).wellFormed .tq8616 = false := by decide

theorem test_domainOk : (Instr.domainQuiesced 5).wellFormed .tq8616 = false := by decide

theorem test_pageOk : (Instr.commitTakesEffect 0x2FF).wellFormed .tq8632 = false := by decide

theorem test_aligned : (Instr.registerWrite .host 0 0x00E 15 1).wellFormed .tq8632 = false := by decide

theorem test_lengthOk : (Instr.dramRequest 0 0 2 (some [1]) false []).wellFormed .tq8632 = false := by
  decide

theorem test_noLength : (Instr.hostWindowAccess .host 0 0 none false []).wellFormed .tq8632 = false := by
  decide

theorem test_badMode : (Instr.commitBadWhen .host 0 4).wellFormed .tq8632 = false := by decide

theorem test_patrolCodes : (Instr.patrolCycle (List.replicate 9 0)).wellFormed .tq8632 = false := by decide

theorem test_readData : (Instr.readResp 0 0 0 (List.replicate 513 0)).wellFormed .tq8632 = false := by
  decide +kernel

theorem test_busData : (Instr.mbusXferDone 0 false (List.replicate 9 0)).wellFormed .tq8632 = false := by
  decide

theorem test_samples :
    (Instr.camLvalFall 0 (List.replicate 16384 0) [] false []).wellFormed .tq8632 = false := by
  decide +kernel

/-! ### The manual's worked examples -/

/-- The bitstream of the example tile of the Baunino chapter: 36 bits. -/
def exampleBits (p : Nat) : Bool := tileBit (fun i => ([0xF3, 0x07, 0x8D, 0x84, 0xC0] : List Byte).getD i 0) p

/-- Its first line's dots, at the cost of its rows: a cycle each and two for the escape. -/
theorem test_tile_line0 :
    (decodeDots dotCoding exampleBits 36 8 8 (Dec.start dotCoding) [] 0).toOption.map (fun r => (r.1, r.2.1.bitPos)) =
      some ([0, 0, 0, 0, 5, 5, 5, 0], 20) := by decide +kernel

/-- Both lines: the dots, the cost of 11, and `rk` and context 62 after the tile. -/
theorem test_tile :
    (decodeDots dotCoding exampleBits 36 8 16 (Dec.start dotCoding) [] 0).toOption.map
        (fun r => (r.1, [r.2.1.bitPos, r.2.2, r.2.1.rk, (r.2.1.ctx.getD 62 (0, 0)).1, (r.2.1.ctx.getD 62 (0, 0)).2])) =
      some ([0, 0, 0, 0, 5, 5, 5, 0, 0, 0, 0, 0, 5, 5, 6, 0], [36, 11, 3, 11, 4]) := by decide +kernel

/-- A nozzle of the Trellis example: out or not, no partner, `COMP_L` = `COMP_R` = 4, `MAX` 7. -/
def exampleNozzle (out : Bool) (own : Nat) : Cell :=
  some ({ w0 := if out then 0x07442000 else 0x07440000, lut := 0, w2 := 0, mask := 0 }, own)

def exampleFires (a b c : Nat) : List Nat :=
  fireLevels none [exampleNozzle false a, exampleNozzle true b, exampleNozzle false c]

/-- The table of compensation around nozzle 2,000 of H2. -/
theorem test_compensation :
    exampleFires 3 5 2 = [6, 0, 5] ∧ exampleFires 6 5 0 = [7, 0, 3] ∧ exampleFires 0 1 0 = [1, 0, 1] ∧
    exampleFires 4 0 4 = [4, 0, 4] := by decide +kernel

/-- The correction of H1 at 29.4 V and 43.0 °C: the voltage term, and the widths under the factor. -/
theorem test_correction :
    railTerm (some 29400) 30000 0 = (17058, false) ∧ scaled 800 16648 = 813 ∧ scaled 640 16648 = 650 := by
  decide +kernel

/-! ### Witnesses: states that meet the hypotheses of the statements, clause by clause -/

/-! ### Hypotheses of the statements, met -/

theorem met_StepRunsFront : ({ State.reset with pending := [.resetIn true] } : State).pending = [.resetIn true] := rfl

theorem met_StepKeepsGoodState :
    let s : State := { State.reset with mem := [(5, 1)], flash := [(7, 0)] }
    s.Ok ∧ ∃ t, step s = .next t := ⟨⟨by decide, by decide, by decide⟩, ⟨_, rfl⟩⟩

theorem met_AbsentPage : live.has 0xFFF = false ∧
    writesOf (.unitLockWrite .host 0xFFF) = some (.host, 0xFFF, 0x02C) ∧
    readsOf (.snapshotLoRead .gkp 0xFFF 0x040) = some (.gkp, 0xFFF) := by decide +kernel

theorem met_UnreachedPages :
    let s := votes 0 live
    State.reset.served .host = false ∧ State.reset.served .gkp = false ∧
    s.served .host = true ∧ s.has (pgAXIS 3) = true ∧ s.pageLevel (pgAXIS 3) = 0 ∧
    writesOf (.move .host 3 0) = some (.host, pgAXIS 3, 0x01C) := by decide +kernel

theorem met_Refusals :
    let s := live.wr pgFSH UNIT_STATUS_CMD_BUSY 1
    (s.open .host pgFSH = true ∧ s.bit pgFSH UNIT_STATUS_CMD_BUSY = true) ∧
    (live.open .gkp (pgAXIS 3) = true ∧ live.bit (pgAXIS 3) UNIT_STATUS_CMD_BUSY = false ∧
      live.enabled (pgAXIS 3) = false) ∧
    (live.open .host pgFSH = true ∧ live.enabled pgFSH = true) ∧
    cmdOf (.fshRead .host 1) = some ⟨.host, pgFSH, 1, 1, true, false⟩ ∧
    cmdOf (.move .gkp 3 0) = some ⟨.gkp, pgAXIS 3, 1, 0, true, false⟩ := by decide +kernel

theorem met_RaiseEffects :
    evNum live.part (pgFIR 31) 3 = some 127 ∧ evNum live.part pgFNT 1 = some 639 ∧
    live.levelOf .sys = 2 ∧ live.gbk.queue.length < 64 ∧ State.reset.levelOf .sys ≠ 2 := by decide +kernel

theorem met_HeaderWrites :
    let s := live.wr (pgONK 31) UNIT_LOCK_LOCK 1
    live.open .host (pgONK 31) = true ∧ (0x7 : BitVec 4) ≠ 0xF ∧ (0x017 : BitVec 12).toNat / 4 * 4 = 0x014 ∧
    (0x018 : BitVec 12).toNat / 4 * 4 = 0x018 ∧ live.locked (pgONK 31) = false ∧
    s.open .gkp (pgONK 31) = true ∧ s.locked (pgONK 31) = true ∧
    live.open .host 0x080 = true ∧ live.kind 0x080 = some .pav ∧ (live.beneath 0).length = 96 := by decide +kernel

theorem met_FieldWrites :
    let c : Commit := ⟨1, none, none, none, false, false, .host⟩
    let e := waits (pgENC 2) c live
    let f := waits pgFNT c live
    let s := shows (pgSTM 3) 2 live
    let b := shows (pgTRL 31) bkSYNCING live
    (live.open .host pgFSH = true ∧ live.unit pgFSH = some (.fsh, 0) ∧ quietWord .fsh 0xFFC = true ∧
      absentHead live.part .fsh 0xFFC = false ∧ gkpOnly .fsh 0xFFC = false ∧ writable .fsh 0xFFC = []) ∧
    (e.open .host (pgENC 2) = true ∧ e.unit (pgENC 2) = some (.enc, 2) ∧ quietWord .enc 0x04C = true ∧
      writable .enc 0x04C ≠ [] ∧
      (writable .enc 0x04C).filter (fun x => !e.fieldHeld (pgENC 2) 0x04C x) = []) ∧
    (b.open .host (pgTRL 31) = true ∧ b.indexHeld (pgTRL 31) 0x04C = true ∧ b.indexHeld (pgTRL 31) 0x048 = false) ∧
    (writable .stm 0x040 ≠ [] ∧ s.frozen .stm (pgSTM 3) 0x040 0 1 = true) ∧
    ((writable .fsh 0x040).filter (fun x => !live.fieldHeld pgFSH 0x040 x) ≠ [] ∧
      (writable .fsh 0x040).filter (live.fieldHeld pgFSH 0x040) = [] ∧
      live.frozen .fsh pgFSH 0x040 0 0x1FFFFFF = false) ∧
    f.open .gkp pgFNT = true ∧ f.unit pgFNT = some (.fnt, 0) ∧ quietWord .fnt 0x040 = true ∧
    (writable .fnt 0x040).filter (fun x => !f.fieldHeld pgFNT 0x040 x) ≠ [] ∧
    f.frozen .fnt pgFNT 0x040 (f.word pgFNT 0x040) 0 = false ∧
    ((writable .fnt 0x040).filter (f.fieldHeld pgFNT 0x040)).any (fun x => x.changes 0x100 0) = true ∧
    ((writable .fnt 0x040).filter (f.fieldHeld pgFNT 0x040)).all (fun x => !x.changes 0x00F 0) = true := by
  decide +kernel

theorem met_SnapshotReads :
    let s := live.setSlot .host (pgNET 1) [(0x070, 7)]
    live.open .gkp pgSDL = true ∧ live.isLive pgSDL 0x058 false = true ∧ live.kind pgSDL ≠ some .ing ∧
    live.isLive pgQLP 0x080 false = true ∧ live.isLive (pgNET 1) 0x070 true = true ∧
    (s.snapSlot .host (pgNET 1)).lookup 0x070 = some 7 ∧
    (live.snapSlot .host (pgNET 1)).lookup 0x070 = none ∧ live.open .host (pgNET 1) = true := by decide +kernel

theorem met_LiveWriteKeepsSlots : live.isLive (pgHSC 31) 0x078 false = true ∧
    live.isLive (pgHSC 31) 0x07C true = true := by decide +kernel

theorem met_CommitsArm :
    let ahead' := sched.wr pgSDL UNIT_COMMIT_POS_LO_POS 0x401
    let late := sched.wr (pgFIR 31) UNIT_COMMIT_POS_LO_POS 0x700
    (sched.open .host pgSDL = true ∧ sched.copyHolds pgSDL = false ∧ sched.commitOf pgSDL = none ∧
      headOfPage sched.part pgSDL = none ∧ ahead (ahead'.commitPos pgSDL) ahead'.pos = true) ∧
    sched.open .gkp (pgFIR 31) = true ∧ headOfPage sched.part (pgFIR 31) = some 31 ∧
    sched.selectLine 31 2 0 = .inl 7 ∧ sched.selectLine 31 3 0 = .inl 1024 ∧
    late.selectLine 31 4 (late.commitPos (pgFIR 31)) = .inl 7 := by decide +kernel

theorem met_CommitsEndUnapplied :
    let s := waits pgSDL ⟨2, none, none, some 1024, false, false, .host⟩ live
    live.open .host pgSDL = true ∧ live.copyHolds pgSDL = false ∧ live.commitOf pgSDL = none ∧
    ahead (sun.commitPos pgSDL) sun.pos = false ∧
    headOfPage live.part (pgONK 0) = some 0 ∧ (live.hscOf 0).running = false ∧
    sched.selectLine 31 4 (sched.commitPos (pgHSC 31)) = .inr 3 ∧
    s.open .gkp pgSDL = true ∧ s.copyHolds pgSDL = false ∧ (s.commitOf pgSDL).isSome = true ∧
    encOfPage pgSDL = none := by decide +kernel

theorem met_CommitEffect :
    let c : Commit := ⟨1, none, none, none, false, false, .gkp⟩
    let after' : State := { sched with sdl := { sched.sdl with corr := 0 },
                                       ref := some ⟨31, (sched.hscOf 31).send, some 1, some 1⟩ }
    let at' := fun (m : Nat) (p : Option Pos) => waits pgSDL ⟨m, none, p, some 0, false, false, .host⟩ after'
    let was := waits pgSDL ⟨3, none, none, some 1024, true, false, .host⟩ sun
    let head := waits (pgTRL 31) ⟨2, some 5, none, none, false, false, .gkp⟩ sched
    let jump := (waits pgSDL c sched).wr pgSDL SDL_CFG_REF_HEAD 31
    let bad := (waits pgSDL c sun).wr pgSDL SDL_CFG_CHECK 0
    let late := (waits (pgHSC 31) c sched).wr (pgHSC 31) HSC_PITCH_INT_PU 512
    let learnt := (waits (pgENC 2) c (live.wr (pgENC 2) ENC_CAL_STAT_VALID 1)).setWord (pgENC 2) 0x04C 5
    let fit : State := { waits (pgENC 2) ⟨1, none, none, none, false, true, .host⟩ live with
      enc := live.enc.set 2 { live.enc.get 2 with cal := .armed } }
    let aligned := (waits pgQLP ⟨1, none, none, none, false, true, .host⟩ (on pgQLP live)).updQlp
      (fun q => { q with align := some { cam := 5, lines := 512, dens := [], exp := [] } })
    let fnt := (waits pgFNT c (on pgFNT live)).wr pgFNT FNT_SP_TARGET_P 100
    let plain := waits (pgFIR 31) c live
    let cam := waits (pgCAM 5) c live
    let step := (waits (pgHSC 31) ⟨2, some 5, none, none, false, false, .gkp⟩ sched).wr (pgHSC 31) HSC_PITCH_INT_PU
    let wide := step 512
    let narrow := step 0
    let swap := waits (pgTRL 31) c live
    (plain.unit (pgFIR 31) = some (.fir, 31) ∧ plain.pageLevel (pgFIR 31) ≠ 0 ∧ plain.badPair (pgFIR 31) = 0) ∧
    (sun.corrDue = false ∧ after'.corrDue = false ∧ headOfPage live.part pgSDL = none ∧ after'.pageLevel pgSDL = 2 ∧
      after'.forward = true ∧ (at' 2 none).commitDue ⟨2, none, none, some 0, false, false, .host⟩ = true ∧
      (at' 3 none).commitDue ⟨3, none, none, some 0, false, false, .host⟩ = true ∧
      (at' 4 (some 0x400)).commitDue ⟨4, none, some 0x400, some 0, false, false, .host⟩ = true ∧
      (at' 4 (some 0x401)).commitDue ⟨4, none, some 0x401, some 0, false, false, .host⟩ = false ∧
      was.commitDue ⟨3, none, none, some 1024, true, false, .host⟩ = true) ∧
    (head.commitOf (pgTRL 31) = some ⟨2, some 5, none, none, false, false, .gkp⟩ ∧ head.badPair (pgTRL 31) = 0 ∧
      wide.badPair (pgHSC 31) = 0 ∧ narrow.badPair (pgHSC 31) = 1) ∧
    (jump.commitOf pgSDL = some c ∧ jump.badPair pgSDL = 0 ∧ jump.rd pgSDL SDL_CFG_REF_HEAD ≠ jump.ac pgSDL SDL_CFG_REF_HEAD) ∧
    (bad.commitOf pgSDL = some c ∧ bad.badPair pgSDL = 1) ∧
    ((late.hscOf 31).running = true ∧ late.badPair (pgHSC 31) = 0) ∧
    (learnt.badPair (pgENC 2) = 0 ∧ fit.badPair (pgENC 2) = 0 ∧ (fit.encOf 2).cal = .armed ∧
      swap.trlState 31 ≠ bkSYNCING ∧ swap.badPair (pgTRL 31) = 0 ∧ live.camOn 5 = false ∧ live.camBankState 5 ≠ bkSYNCING ∧
      cam.badPair (pgCAM 5) = 0 ∧ aligned.badPair pgQLP = 0 ∧ fnt.fntOn = true ∧ fnt.badPair pgFNT = 0) := by
  decide +kernel

theorem met_FollyArming :
    let s := (live.wr pgGTH GTH_PERMIT_INJECT 1).wr (pgFIR 31) UNIT_INJECT_FOLLY 4
    let f := foolish (pgFIR 31) 4 live
    s.open .host (pgFIR 31) = true ∧ (on (pgFIR 31) s).armCause (pgFIR 31) = 0 ∧
    s.kind (pgFIR 31) ≠ some .net ∧ s.kind (pgFIR 31) ≠ some .onk ∧ (0xF010 : BitVec 16) ≠ 0xF011 ∧
    f.armedFolly (pgFIR 31) = some ⟨4, 0, true, none, true, 0⟩ ∧ f.rd (pgFIR 31) UNIT_INJECT_SHOTS = 0 ∧
    (f.wr (pgFIR 31) UNIT_INJECT_SHOTS 1).rd (pgFIR 31) UNIT_INJECT_SHOTS = 1 := by decide +kernel

theorem met_ArmForbidden : live.open .gkp pgGBK = true ∧ live.bit pgGTH GTH_PERMIT_INJECT = false := by
  decide +kernel

theorem met_DeviceResets :
    let cold : State := { State.reset with aon := { live.aon with resetLow := true } }
    live.TakesOff .host pgTOP ∧ live.aon.railEn = true ∧
    ({ live with aon := { live.aon with rstPending := true } } : State).aon.rstPending = true ∧
    live.stage ≠ 0 ∧ (cold.stage = 0 ∧ cold.aon.vbus = true ∧ cold.railsGood = true ∧
      cold.aon.rstPending = false) ∧
    (({ live with aon := { live.aon with railEn := false } } : State).aon.railEn = false ∧
      live.aon.rails.get (railNum .vddqDram) = true ∧ State.reset.aon.rails.get (railNum .vddqDram) = false) :=
  ⟨takesOff (by decide +kernel) (by decide +kernel), by decide +kernel⟩

theorem met_HostLink :
    let up := live.wr pgPCIE PCIE_LINK_UP 1
    let msg := fun (fn v : Nat) => (({ up with pcie := { up.pcie with msixOn := [fn], pba := [(fn, v)] } } : State).wr
      pgPCIE PCIE_VF_NUM_VFS 4)
    (47 < vectorsOf 0 ∧ (msg 0 47).mayMessage 0 = true ∧ (0, 47) ∈ (msg 0 47).pcie.pba ∧
      3 < vectorsOf 4 ∧ (msg 4 3).mayMessage 4 = true ∧ (4, 3) ∈ (msg 4 3).pcie.pba) ∧
    live.isolated .host = false ∧ live.aon.refs.get 14 = true ∧ live.aon.perst = true ∧ live.qlp.arc = none ∧
    up.bit pgPCIE PCIE_LINK_UP = true ∧
    ({ live with aon := { live.aon with perst := false } } : State).asleep = false ∧
    ({ live with pcie := { live.pcie with training := true } } : State).aon.perst = true ∧
    (up.wr pgTOP TOP_BOOT_STAGE 3).stage < 4 ∧ 4 ≤ (up.wr pgTOP TOP_BOOT_STAGE 4).stage ∧
    (State.rd up pgPCIE PCIE_VF_NUM_VFS < cfgFn (.power 4 true) ∧ cfgFn (.read .totalVfs) ≤ up.rd pgPCIE PCIE_VF_NUM_VFS ∧
      (0 : Fin 5).val ≤ up.rd pgPCIE PCIE_VF_NUM_VFS) ∧
    (1 ≤ (4 : BitVec 3).toNat ∧ (4 : BitVec 3).toNat ≤ 4) := by decide +kernel

theorem met_Estop : live.aon.estop = true ∧ live.isolated .print = false ∧
    State.reset.isolated .print = true ∧ ({ State.reset with aon := live.aon } : State).aon.estop = true := by
  decide +kernel

/-- Which image verifies rests on the fused boot key, which is free (log 34): the clauses on a sound image hold of
whichever verifies. -/
theorem met_StartUpStages :
    let at' := fun n => State.reset.wr pgTOP TOP_BOOT_STAGE n
    let later : State := { at' 3 with fsh := { live.fsh with tried := [0] } }
    let run := live.wr pgTOP TOP_BOOT_STAGE 5
    let left : State := { run with fsh := { live.fsh with tried := [1] } }
    (at' 2).stage = 2 ∧ (at' 3).stage = 3 ∧ (at' 3).fsh.tried = [] ∧ (at' 3).fwPreferred = 0 ∧
    (at' 3).imageOk 0 = false ∧ later.fsh.tried ≠ [] ∧ 1 - later.fwPreferred = 1 ∧
    later.imageOk 1 = false ∧ (run.bootCfg true true = none ∧ run.mayFallBack = false ∧ left.mayFallBack = false) ∧
    (live.wr pgTOP TOP_BOOT_STAGE 4).stage = 4 ∧ live.wrd.gkp = .running ∧
    (live.wr pgTOP TOP_BOOT_STAGE 5).stage = 5 ∧ (at' 6).stage = 6 ∧ geomOk ((at' 6).word pgDRC 0x040).toNat = true ∧
    geomOk (((at' 6).setWord pgDRC 0x040 5).word pgDRC 0x040).toNat = false := by decide +kernel

/-- A PLL stands in a phase. -/
def pllIn (n : Nat) (ph : PllPhase) (s : State) : State := s.setPll n { s.pll n with phase := ph }

/-- A domain stands in a phase. -/
def domIn (d : Fin 7) (ph : DomPhase) (s : State) : State :=
  { s with pwr := { s.pwr with doms := s.pwr.doms.set d.val ph } }

theorem met_Clocking :
    let s0 := State.reset
    let near : State := { s0 with aon := { s0.aon with vbus := true, rails := #v[true, true, true, true, true, false, true, true] } }
    let start := s0.wr pgTOP TOP_BOOT_STAGE 1
    let pre := (pllIn 0 .locked (pllIn 1 .out start))
    let kilo := live.wr pgCLK (CLK_PLL_CFG_TARGET 2) 250
    live.stage ≠ 0 ∧ (near.stage = 0 ∧ near.aon.vbus = true ∧ near.aon.rstPending = false ∧ near.aon.resetLow = false ∧
      ∀ r ∈ [Rail.vddCore, .vddPll, .vddaSer, .vddhSer, .vddio12, .vddio18, .vddaAdc],
        near.aon.rails.get (railNum r) = true) ∧
    (live.refSensed 14 = true ∧ ((pllIn 14 .out live).pll 14).phase ≠ .off ∧
      live.aon.xtal = true ∧ State.reset.refSensed 14 = false) ∧
    (start.stage = 1 ∧ (start.pll 0).phase = .off ∧ (start.pll 1).phase = .off) ∧ live.aon.xtal = true ∧
    ((pllIn 14 .locking live).pll 14).phase = .locking ∧
    (((pllIn 14 .locked live).pll 14).phase = .locked ∧ clusterOf 14 = none ∧
      ((pllIn 14 .locked live).pll 14).byCmd = false ∧ live.stage = 7) ∧
    ((pre.pll 0).phase = .locked ∧ (pre.pll 1).phase = .out ∧ pre.stage = 1) ∧
    (((pllIn 0 .out live).pll 0).phase = .out ∧ pllFatal 0 = true ∧ pllFatal 14 = false) ∧
    live.follyOn pgCLK 1 = false ∧ targetAllowed 14 0 = false ∧ targetAllowed 2 249 = false ∧
    (targetAllowed 0 1000 = true ∧ live.relockPermitted 0 = false) ∧
    (kilo.open .host pgCLK = true ∧ targetAllowed 2 (kilo.rd pgCLK (CLK_PLL_CFG_TARGET 2)) = true ∧
      kilo.relockPermitted 2 = true ∧ (kilo.pll 2).phase = .off ∧
      ((pllIn 2 .out kilo).pll 2).phase ≠ .off) := by decide +kernel

theorem met_VoteWrites : live.open .host pgPWR = true ∧ live.open .gkp pgPWR = true ∧
    reqNum .gkp = 1 ∧ (6 : Fin 7).val ≠ reqNum .gkp ∧ live.wrd.gkp = .running := by decide +kernel

theorem met_DomainsDropAndRise :
    let drop := domIn 6 .quiescing (votes 0 live)
    let rise := domIn 6 .supplying live
    let sys := domIn 0 .supplying live
    let slow : State := { rise with aon := { rise.aon with rails := Vector.replicate 8 false },
                                    pwr := { rise.pwr with doms := (Vector.replicate 7 .down).set 6 .supplying } }
    let down := fun (p : DomPhase) => domIn 6 p (votes 0 live)
    (drop.phase 6 = .quiescing ∧ drop.eff 6 = 0 ∧ drop.domainBusy 6 = false) ∧
    ((down .saved).phase 6 = .saved ∧ (down .saved).eff 6 = 0 ∧ (down (.opening true)).phase 6 = .opening true) ∧
    (rise.ready = true ∧ rise.phase 6 = .supplying ∧ rise.railsGood = true ∧
      (State.pllsOf 6).filter rise.pllWanted = [] ∧ rise.eff 6 ≠ 0) ∧
    (sys.phase 0 = .supplying ∧ (State.pllsOf 0).filter sys.pllWanted ≠ []) ∧
    (slow.ready = true ∧ slow.aon.railEn = true ∧ slow.railsGood = false ∧ slow.rising = true ∧
      (∀ d, slow.phase d = .down ∨ slow.phase d = .supplying)) ∧
    ({ live with pwr := { live.pwr with memRetry := true } } : State).pwr.memRetry = true := by decide +kernel

theorem met_WakeAndMonitor :
    let rest : State := { votes 0 live with aon := { live.aon with perst := false }, pwr := { live.pwr with gkpSys := 0 } }
    let patrol := rest.wr pgPWR PWR_PATROL_CTRL_ENABLE 1
    let comp := (rest.wr pgPWR (PWR_COMP_CTRL_EN 3) 1).wr pgPWR (PWR_COMP_CTRL_WAKE 3) 1
    let trip : State := { live with aon := { live.aon with compTripped := Vector.replicate 4 true } }
    patrol.powerState = 4 ∧ ((patrol.inc pgPWR PWR_PATROL_STAT_CYCLES).patrol
      (patrol.inc pgPWR PWR_PATROL_STAT_CYCLES).patrolWindows []).2 = none ∧
    (comp.bit pgPWR (PWR_COMP_CTRL_EN 3) = true ∧ comp.aon.compTripped.get 3 = false ∧
      comp.asleep = true ∧ comp.bit pgPWR (PWR_COMP_CTRL_WAKE 3) = true) ∧ live.asleep = false ∧
    trip.aon.compTripped.get 3 = true ∧ live.powerState ≠ 4 ∧ live.nextChannel.isSome = true ∧
    live.follyOn pgMON 1 = false := by decide +kernel

theorem met_EncoderInputs :
    let x : State := { sun with enc := Vector.replicate 3 { sun.enc.get 0 with mode := 2, frac := some 0, latched := true } }
    let ind := ((x.wrAc (pgENC 0) ENC_CFG_INDEX_EN 1).wrAc (pgENC 0) ENC_INDEX_EXPECT_PU 256).wr (pgENC 0)
      ENC_STATUS_INDEXED 1
    let ind' := (ind.wr (pgENC 0) ENC_CFG_INDEX_EN 1)
    let far : State := { ind' with enc := Vector.replicate 3 { x.enc.get 0 with hwm := 384 } }
    let fix : State := { sched with
      sdl := { sched.sdl with corr := 5, corrMark := 0 }, ref := some ⟨31, (sched.hscOf 31).send, some 1, some 1⟩ }
    (sun.encLive 0 = true ∧ sun.follyOn (pgENC 0) 1 = false ∧ (sun.encOf 0).mode = 1 ∧ sun.sdlOn = true ∧
      sun.source = 0 ∧ sun.sdl.noSource = false ∧ sun.sdl.reverse = false) ∧
    (sun.encLive 1 = true ∧ sun.source ≠ 1) ∧
    ((x.encOf 0).mode = 2 ∧ x.radiusOk 0 0 0 = false ∧ x.radiusOk 0 2730 0 = true ∧ x.radiusOk 0 2729 0 = false ∧
      x.radiusOk 0 0 8000 = true ∧
      (x.encOf 0).frac = some 0) ∧
    (ind'.encLive 0 = true ∧ ind'.bit (pgENC 0) ENC_CFG_INDEX_EN = true ∧
      0 ≤ posDiff (ind'.encCount 0) (ind'.encOf 0).hwm ∧ 0 ≤ (ind'.encOf 0).speed ∧
      ind'.armedFolly (pgENC 0) = none ∧ (ind'.encOf 0).latched = true) ∧
    (far.bit (pgENC 0) ENC_STATUS_INDEXED = true ∧ far.ac (pgENC 0) ENC_INDEX_EXPECT_PU = 256 ∧
      (3 : Int) * 256 ≤ 2 * posDiff (far.encOf 0).hwm 0) ∧
    (fix.corrDue = true ∧ sun.corrDue = false) := by decide +kernel

theorem met_EncoderStates :
    let lone := sun.wrAc pgSDL SDL_CFG_CHECK 3
    let ovr := (sun.wrAc pgSDL SDL_CFG_FAILOVER 1)
    let bad := shows (pgENC 0) 3 sun
    let fits : State := { sun with enc := Vector.replicate 3 { sun.enc.get 0 with mode := 2, speed := 268436, cal := .gathering 0 } }
    let busy := waits (pgENC 0) ⟨3, none, none, some 0, false, false, .host⟩ fits
    let whole : State := { fits with enc := Vector.replicate 3 { fits.enc.get 0 with cal := .gathering (fits.encCount 0 - 0x100000) } }
    let slow : State := { fits with enc := Vector.replicate 3 { fits.enc.get 0 with speed := 1 } }
    (sun.encLive 0 = true ∧ sun.encState 0 ≠ 3 ∧ sun.source = 0 ∧ sun.sdl.noSource = false ∧
      lone.checkEnc = none ∧ ovr.checkEnc = some 1 ∧ ovr.ac pgSDL SDL_CFG_FAILOVER = 1 ∧
      ovr.tracking 1 = true ∧ ovr.sdl.chkOk.get 1 = true) ∧
    (bad.encLive 0 = true ∧ bad.encState 0 = 3) ∧
    (fits.Takes .host (pgENC 0) ∧ fits.encState 0 = 1 ∧ (fits.encOf 0).mode = 2 ∧
      calBand (fits.encOf 0).speed = true) ∧
    ((fits.encOf 0).cal = .gathering 0 ∧ fits.printUp = true ∧ (busy.commitOf (pgENC 0)).isSome = true ∧
      fits.commitOf (pgENC 0) = none ∧ calBand (slow.encOf 0).speed = false ∧
      calBand (fits.encOf 0).speed = true ∧ posDiff (fits.encCount 0) 0 < 256 * 4096 ∧
      (whole.encOf 0).cal = .gathering (fits.encCount 0 - 0x100000) ∧
      256 * 4096 ≤ posDiff (whole.encCount 0) (fits.encCount 0 - 0x100000)) ∧
    (live.open .gkp (pgENC 2) = true ∧ live.bit (pgENC 2) UNIT_CTRL_ENABLE = false ∧ live.ready = true ∧
      (live.wr pgTOP TOP_BOOT_STAGE 6).ready = false ∧ (on (pgENC 2) live).bit (pgENC 2) UNIT_CTRL_ENABLE = true) :=
  ⟨by decide +kernel, by decide +kernel,
    ⟨takes (by decide +kernel) (by decide +kernel) (by decide +kernel), by decide +kernel⟩,
    by decide +kernel, by decide +kernel⟩

theorem met_Motion :
    let still : State := { sun with sdl := { sun.sdl with still := true, stillAt := 4096 } }
    let back := sun.setHwm 0x10000
    let rev : State := { sun with sdl := { sun.sdl with reverse := true } }
    let gone := rev.setPos 0x10000
    let col := ((sun.wr pgSPD SPD_COLLAPSE_CFG_EN 1).wr pgSDL SDL_HALT_ON_COLLAPSE 1).wr pgSDL SDL_HALT_ON_BREAK 1
    let whole : State := { col with aon := { col.aon with webBreak := false } }
    sun.printUp = true ∧ (sun.sdlOn = true ∧ sun.sdl.still = false ∧ sun.sdl.noSource = false) ∧
    (still.sdl.still = true ∧ 4096 ≤ (posDiff (still.encCount still.source) still.sdl.stillAt).natAbs) ∧
    (back.sdl.reverse = false ∧ (back.rd pgSDL SDL_REV_BAND_PU : Int) < posDiff back.hwm back.pos) ∧
    (gone.sdl.reverse = true ∧ (gone.rd pgSDL SDL_HYST_PU : Int) ≤ posDiff gone.pos gone.hwm) ∧
    (col.sdl.falls = false ∧ ({ col with sdl := { col.sdl with falls := true } } : State).sdl.declared = false ∧
      col.bit pgSPD SPD_COLLAPSE_CFG_EN = true ∧ col.bit pgSDL SDL_HALT_ON_COLLAPSE = true) ∧
    (whole.aon.webBreak = false ∧ whole.bit pgSDL SDL_HALT_ON_BREAK = true) := by decide +kernel

theorem met_SundialCommands :
    let lost : State := { sun with sdl := { sun.sdl with noSource := true } }
    let halted : State := { sun.wr pgSDL SDL_STATUS_HALT_LATCHED 1 with aon := { sun.aon with webBreak := false } }
    sun.Takes .host pgSDL ∧ sun.schedulesStopped = true ∧
    (lost.sdl.noSource = true ∧ lost.tracking (encNum (lost.ac pgSDL SDL_CFG_SOURCE)) = true) ∧
    sun.checkEnc ≠ none ∧
    (halted.TakesOff .gkp pgSDL ∧ halted.bit pgSDL SDL_STATUS_HALT_LATCHED = true ∧
      halted.aon.webBreak = false) ∧
    (live.open .host pgSDL = true ∧ live.sdlOn = false ∧ live.ready = true ∧
      (live.wr pgTOP TOP_BOOT_STAGE 6).ready = false) ∧
    sun.sdlOn = true ∧ sched.schedulesStopped = false :=
  ⟨takes (by decide +kernel) (by decide +kernel) (by decide +kernel), by decide +kernel,
    by decide +kernel, by decide +kernel, ⟨takesOff (by decide +kernel) (by decide +kernel), by decide +kernel⟩,
    by decide +kernel, by decide +kernel⟩

theorem met_ScheduleCommands :
    let s := on pgTRG (on (pgHSC 31) sun)
    let s1 := (s.wrAc (pgHSC 31) HSC_PITCH_INT_PU 256).wrAc pgTRG TRG_PITCH_INT_PU 256
    (s1.Takes .host (pgHSC 31) ∧ (s1.hscOf 31).running = false ∧ s1.sdlOn = true ∧
      s1.sdl.noSource = false ∧ 256 ≤ s1.ac (pgHSC 31) HSC_PITCH_INT_PU ∧ s1.startSkips 31 ≤ 65536) ∧
    (sched.Takes .gkp (pgHSC 31) ∧ (sched.hscOf 31).running = true) ∧
    (s1.Takes .gkp pgTRG ∧ s1.trg.running = false ∧ 256 ≤ s1.ac pgTRG TRG_PITCH_INT_PU ∧
      s1.trgSkips ≤ 65536) ∧ sched.Takes .host pgTRG ∧ sched.trg.running = true ∧
    sched.open .host (pgHSC 0) = true ∧ sched.open .host pgTRG = true :=
  ⟨⟨takes (by decide +kernel) (by decide +kernel) (by decide +kernel), by decide +kernel⟩,
    ⟨takes (by decide +kernel) (by decide +kernel) (by decide +kernel), by decide +kernel⟩,
    ⟨takes (by decide +kernel) (by decide +kernel) (by decide +kernel), by decide +kernel⟩,
    takes (by decide +kernel) (by decide +kernel) (by decide +kernel), by decide +kernel⟩

theorem met_ScheduleEvents :
    sched.issues = true ∧ (sched.hscOf 31).running = true ∧
    sched.at' (sched.tileDeadline 31 (sched.hscOf 31).tile) = true ∧
    sched.at' (sched.sendDeadlineOf 31 (sched.hscOf 31).send.line) = true ∧
    sched.commitOf (pgTRL 31) = none ∧ sched.follyOn (pgHSC 31) 1 = false ∧
    sched.lacksNow 31 5 = 0 ∧ (shows (pgSTM 0) 2 sched).lacksNow 31 5 ≠ 0 ∧ sched.ing.starved.length < 16 ∧
    sched.trg.running = true ∧
    sched.hitFalls sched.trg.cmp = true ∧
    sched.trigNext.trg.due.get 5 = [⟨0x4000000, false⟩, ⟨sched.trigNext.trg.cmp, false⟩] ∧
    sched.hitFalls (sched.trigAt 5 ⟨0x4000000, false⟩) = true ∧
    sched.hitFalls (sched.trigAt 5 ⟨sched.trigNext.trg.cmp + 0x4000000, false⟩) = false ∧
    (∀ k : Fin 6, (sched.camOf k.val).wait.length < 32) ∧
    ({ sched with trg := { sched.trg with due := sched.trg.due.set 5 [] } } : State).pulseOver 5 = false ∧
    ({ sched with now := 100000 } : State).pulseOver 5 = true := by decide +kernel

theorem met_LineHits :
    let cold := on (pgFIR 31) sched
    let fl : Flight := { line := 4, levels := none, framed := true, sync := false, ok := true, naked := false,
                         retried := false, due := 0 }
    let sent : State :=
      { on (pgONK 31) (cold.updOnk 31 (fun x => { x with flight := [fl] })) with now := 200 }
    let train : Train := { line := 3, tag := 3, edge := 0, pulses := [(0, 100)] }
    let long := sent.updFir 31 (fun x => { x with train := some (200, train) })
    let edge := (sent.edgePhase ((sent.hscOf 31).hit.rebase (sent.geos 31)).cmp : Int) +
      (geoAt (sent.hscOf 31).geo ((sent.hscOf 31).hit.rebase (sent.geos 31)).line).trim
    let late : State := sched.updHsc 31 (fun x => { x with lastHit := some 0 })
    (cold.issues = true ∧ (cold.hscOf 31).running = true ∧
      (cold.hscOf 31).hit.line < (cold.hscOf 31).send.line ∧ cold.follies = [] ∧
      cold.hitFalls ((cold.hscOf 31).hit.rebase (cold.geos 31)).cmp = true) ∧
    (cold.enabled (pgFIR 31) = true ∧ cold.commitOf (pgFIR 31) = none ∧ (cold.firOf 31).rearm = false ∧
      (cold.takeFlight 31 4).2 = false) ∧
    ((({ sent with now := sent.hitTime 31 false } : State).takeFlight 31 4).2 = true ∧
      ({ sent with now := sent.hitTime 31 false } : State).overlaps 31 edge = false) ∧
    ((({ long with now := long.hitTime 31 false } : State).takeFlight 31 4).2 = true ∧
      ({ long with now := long.hitTime 31 false } : State).overlaps 31 edge = true) ∧
    late.now < late.hitTime 31 false := by decide +kernel

theorem met_FiringAndWatchdog :
    let x : Train := { line := 4, tag := 4, edge := 0, pulses := [] }
    let s : State := { sun.updFir 31 (fun y => { y with deferred := [x], gen := [(0, 400000)] }) with now := 50000 }
    let w := on (pgFIR 31) s
    let cut := w.wr (pgFIR 31) FIR_CUT_STAT_CUT 1
    let judged := w.updFir 31 (fun y => { y with judgedAt := some 49000, fires := [(196000, 200000)],
                                                 bins := List.replicate 999 4000 })
    ((s.firOf 31).deferred = [x] ∧ (s.firOf 31).lastFall ≤ 4 * (s.now : Int) ∧ s.follyOn (pgFIR 31) 1 = false ∧
      s.isCut 31 = false ∧ s.aon.xtalCut = false ∧ s.aon.onRc = false) ∧
    sun.levelOf .print = 2 ∧
    (w.watchdog 31 = true ∧ w.stuckHigh 31 = true ∧ w.isCut 31 = false ∧
      w.follyOn (pgFIR 31) 2 = false ∧ 0 < w.binsDue 31 ∧
      judged.binsDue 31 = 1 ∧ 4 * w.dutyNs 31 < ((judged.takeBins 31 1).firOf 31).duty) ∧
    (cut.Takes .host pgFIRroot ∧ cut.aon.estop = true ∧ (31 : BitVec 16).toNat < cut.part.heads ∧
      cut.rearmHeads 31 = [31] ∧ cut.isCut 31 = true ∧
      (let free := cut.updFir 31 (fun y => { y with gen := [] })
       free.genHigh 31 = false ∧ (free.firOf 31).duty < 4 * free.dutyNs 31)) :=
  ⟨by decide +kernel, by decide +kernel, by decide +kernel,
    ⟨takes (by decide +kernel) (by decide +kernel) (by decide +kernel), by decide +kernel⟩⟩

/-- A dot tile of head 31 from line 5 on, of stream 0. -/
def tileBytes (lines width : Nat) (body : List Byte) (key : Byte := 0xFF) : List Byte :=
  let h := leBytes 2 0xB1A0 ++ [1, 0, 0, 31, key, BitVec.ofNat 8 lines] ++ leBytes 6 5 ++
    leBytes 2 width ++ leBytes 4 (34 + body.length) ++ leBytes 4 99 ++ leBytes 4 0
  h ++ leBytes 4 (crc32c h).toNat ++ body ++ [0xBA, 0x0E]

def tileAt (lines width len : Nat) (place : TilePlace) : Tile :=
  { id := 1, stream := 0, addr := 4096, ringBase := 0, ringSize := 0, len := len, head := 31, first := 5,
    lines := lines, width := width, cost := 99, loopOfs := none, place := place,
    dec := { Dec.start dotCoding with bitPos := 256 }, counted := 0, overran := false, rewrite := false }

/-- Stream 0 runs from the network; one fragment has come. -/
def net0 : State :=
  let s := (shows (pgNET 0) 3 (shows (pgSTM 0) 2 (on (pgSTM 0) sched))).wr pgNETroot NET_PATH_STAT_NO_PATH 0
  s.updStm 0 (fun x => { x with started := true, size := 131072, highest := 7 })

/-- A datagram of stream 0. -/
def datagram (type seq frag : Nat) (pay : List Byte) : List Byte :=
  udpHeader type 0 pay.length (BitVec.ofNat 32 seq) 0 |>.take 16 |> (· ++ leBytes 4 3 ++ leBytes 2 frag ++ [0, 0] ++
    pay ++ (if type = 1 then List.replicate 16 0 else []))

/-- A key of zeros. -/
def key0 : StreamKey := { key := List.replicate 32 0, salt := List.replicate 4 0 }

/-- A header and a payload sealed under the key of zeros. -/
def sealed (hdr pay : List Byte) : List Byte :=
  let iv := key0.salt ++ (hdr.drop 12).take 4 ++ (hdr.drop 8).take 4
  let data := gcmCtr (aesKeys key0.key) iv pay
  hdr ++ (data ++
    xorBytes (beBytes 16 (ghash (BitVec.ofNat 128 (beNat (aesBlock (aesKeys key0.key) (List.replicate 16 0))))
        (blocks16 hdr ++ blocks16 data ++ [beBytes 8 (8 * hdr.length) ++ beBytes 8 (8 * data.length)])).toNat)
      (aesBlock (aesKeys key0.key) (iv ++ [0, 0, 0, 1])))

theorem aesBlock_key0 (b : List Byte) : (aesBlock (aesKeys key0.key) b).length = 16 := by
  have h : (((aesKeys key0.key)[14]?).getD []).length = 16 := by decide +kernel
  simp only [aesBlock, xorBytes_length, h, List.length_map, aesShift, List.length_range, Nat.min_self]

theorem sealed_opens (s : State) (h : s.gth.keys.toList[0]? = some (some key0)) (hdr pay : List Byte)
    (hl : hdr.length = 24) (h5 : leAt (fun n => ((sealed hdr pay)[n]?).getD 0) 5 1 = 0) :
    s.openEnvelope 0 (sealed hdr pay) = some pay := by
  have hd : ∀ iv, (gcmCtr (aesKeys key0.key) iv pay).length = pay.length := fun iv =>
    gcmCtr_length _ _ _ (fun i => aesBlock_key0 _)
  have hn : (sealed hdr pay).length - 40 = pay.length := by
    simp [sealed, hd, hl, aesBlock_key0, beBytes]
    omega
  have h0 : 2 * (0 : Fin 4).val + 0 = 0 := rfl
  simp only [State.openEnvelope, h5, hn, h0, h]
  have cut : ∀ (x : List Byte) (a : Nat), a + 4 ≤ 24 → ((hdr ++ x).drop a).take 4 = (hdr.drop a).take 4 := by
    intro x a ha
    rw [List.drop_append_of_le_length (by omega), List.take_append_of_le_length (by simp; omega)]
  have tail : ∀ (x : List Byte) (a : Nat), (hdr ++ x).drop (24 + a) = x.drop a := fun x a => by
    rw [← hl]; simp [List.drop_append]
  have tail' : ∀ x : List Byte, (hdr ++ x).drop 24 = x := fun x => tail x 0
  have mac : ∀ (v : Nat) (b : List Byte), (xorBytes (beBytes 16 v) (aesBlock (aesKeys key0.key) b)).take 16 =
      xorBytes (beBytes 16 v) (aesBlock (aesKeys key0.key) b) := fun v b =>
    List.take_of_length_le (by simp [aesBlock_key0])
  have all : ∀ x : List Byte, ((hdr ++ x).drop 0).take 24 = hdr := fun x => by
    rw [List.drop_zero, List.take_left' hl]
  simp only [sealed, cut _ 12 (by omega), cut _ 8 (by omega), tail, tail', all, List.take_left' (hd _),
    List.drop_left' (hd _), mac]
  exact (gcmOpen_sealed _ _ _ _).trans (by rw [gcmCtr_twice _ _ _ (fun i => aesBlock_key0 _)])

/-- The fragments open under the key of zeros, by `sealed_opens`. -/
theorem met_Streams :
    let port := net0.rd (pgSTM 0) STM_UDP_PORT
    let late := { (net0.stmOf 0) with holes := [⟨3, 2, 0, 255⟩], highest := (9 : BitVec 32) }
    let hole := net0.updStm 0 (fun x => { x with holes := [⟨3, 2, 0, 0⟩] })
    let lost := net0.updStm 0 (fun _ => late)
    let good := tileBytes 1 1 [0] 0
    let at' := fun (n : Nat) => (good[n]?).getD 0
    let keyed : State := { net0 with gth := { net0.gth with keys := net0.gth.keys.set 0 (some key0) } }
    let whole := sealed ((datagram 1 8 32768 good).take 24) good
    let part := sealed ((datagram 1 8 0 good).take 24) good
    let old := sealed ((datagram 1 2 0 good).take 24) good
    let open' := fun (bs : List Byte) => envelopeOk 0 bs = true ∧ keyed.openEnvelope 0 bs = some good
    let has : State := { net0 with ing := { net0.ing with tiles := [tileAt 1 1 35 .staged] } }
    let past := has.updHsc 31 (fun x => { x with send := { x.send with line := 6 } })
    (net0.tilePort 0 = true ∧ net0.armedFolly (pgNET 0) = none ∧ net0.armedFolly (pgSTM 0) = none ∧
      net0.streamOfPort port = some 0) ∧
    envelopeOk 0 [] = false ∧ envelopeOk 0 (datagram 2 9 0 []) = true ∧
    (net0.stmRunning 0 = true ∧ (net0.stmOf 0).src = 0 ∧ (net0.stmOf 0).started = true) ∧
    leAt (fun n => ((datagram 2 9 0 [])[n]?).getD 0) 3 1 = 2 ∧
    (envelopeOk 0 (datagram 1 8 32768 good) = true ∧ net0.openEnvelope 0 (datagram 1 8 32768 good) = none) ∧
    (open' whole ∧ open' part ∧ open' old) ∧
    (seqAfter (BitVec.ofNat 32 (leAt (fun n => (old[n]?).getD 0) 8 4)) (keyed.stmOf 0).cum = false ∧
      BitVec.ofNat 32 (leAt (fun n => (whole[n]?).getD 0) 8 4) = 8 ∧
      BitVec.ofNat 32 (leAt (fun n => (part[n]?).getD 0) 8 4) = 8 ∧
      seqAfter 8 (keyed.stmOf 0).highest = true ∧ seqAfter 8 (keyed.stmOf 0).cum = true ∧
      good.length ≤ (keyed.stmOf 0).free ∧ (keyed.stmOf 0).frags = [] ∧ keyed.place 0 35 < (keyed.stmOf 0).size ∧
      keyed.stagingCode 0 at' 35 (leAt (fun n => (whole[n]?).getD 0) 5 1) 5 false = 0 ∧
      leAt (fun n => (whole[n]?).getD 0) 3 1 = 1 ∧ leAt (fun n => (part[n]?).getD 0) 3 1 = 1 ∧
      leAt (fun n => (whole[n]?).getD 0) 20 2 = 32768 ∧ leAt (fun n => (part[n]?).getD 0) 20 2 = 0) ∧
    net0.activePort = some 0 ∧
    ((hole.stmOf 0).holes ≠ [] ∧ hole.rd (pgSTM 0) STM_GAP_RETRIES ≠ 0 ∧
      lost.rd (pgSTM 0) STM_GAP_RETRIES ≤ 255) ∧
    (has.tile? 1 = some (tileAt 1 1 35 .staged) ∧ (has.hscOf 31).running = true ∧
      (has.hscOf 31).send.line ≤ 5 ∧ 5 < (has.hscOf 31).send.line + (has.ribOf 31).lines ∧
      5 < (past.hscOf 31).send.line) := by
  refine ⟨by decide +kernel, by decide +kernel, by decide +kernel, by decide +kernel, by decide +kernel,
    by decide +kernel, ⟨⟨by decide +kernel, ?_⟩, ⟨by decide +kernel, ?_⟩, by decide +kernel, ?_⟩, by decide +kernel,
    by decide +kernel, by decide +kernel, by decide +kernel⟩
  all_goals exact sealed_opens _ (by decide +kernel) _ _ (by decide +kernel) (by decide +kernel)

/-- Stream 3 takes its tiles from a host ring of 16. -/
def ring3 : State :=
  let s := ((on (pgSTM 3) live).wr (pgSTM 3) STM_RING_SIZE_N 16).wr (pgSTM 3) STM_RING_TAIL_TAIL 1
  (shows (pgSTM 3) 2 s).updStm 3 (fun x => { x with src := 1, ringSize := 16, size := 65536 })

theorem met_HostRing :
    let desc := fun (n : Nat) => leBytes 8 0 ++ leBytes 4 n ++ leBytes 4 0
    ring3.open .host (pgSTM 3) = true ∧ ring3.descriptorReady 3 = true ∧
    leAt (fun n => ((desc 65537)[n]?).getD 0) 8 4 = 65537 ∧ leAt (fun n => ((desc 65536)[n]?).getD 0) 8 4 = 65536 ∧
    ((ring3.updStm 3 (fun x => { x with encrypted := true })).stmOf 3).encrypted = true ∧
    (ring3.stmOf 3).encrypted = false ∧ (ring3.stmOf 3).free = 65536 ∧
    (ring3.updStm 3 (fun x => { x with size := 65535 }) |>.stmOf 3).free < 65536 ∧
    ring3.Takes .gkp (pgSTM 3) ∧ (ring3.stmOf 3).src = 1 ∧ ring3.stmRunning 3 = true ∧
    ringSizeOk (ring3.rd (pgSTM 3) STM_RING_SIZE_N) = true ∧ ringSizeOk 32768 = true :=
  ⟨by decide +kernel, by decide +kernel, by decide +kernel, by decide +kernel, by decide +kernel,
    by decide +kernel, by decide +kernel, by decide +kernel, takes (by decide +kernel) (by decide +kernel) (by decide +kernel),
    by decide +kernel, by decide +kernel, by decide +kernel, by decide +kernel⟩

theorem met_StreamRuns :
    let idle := shows (pgSTM 3) 1 (on (pgSTM 3) live)
    let small := idle.wr (pgSTM 3) STM_STAGE_SIZE_MIB 0
    let ovr := shows (pgSTM 3) 3 idle
    let loop := ring3.updStm 3 (fun x => { x with src := 2, loopLines := 1 })
    let vf := (live.wr pgPCIE PCIE_LINK_UP 1).wr pgPCIE PCIE_VF_NUM_VFS 4
    (small.Takes .host (pgSTM 3) ∧ small.stmState 3 = 1 ∧ small.startBad 3 = false ∧
      small.rd (pgSTM 3) STM_CFG_SRC ≠ 2) ∧ small.stmState 3 ≠ 0 ∧ ovr.stmState 3 = 3 ∧
    ring3.stmState 3 = 2 ∧
    (loop.stmRunning 3 = true ∧ (loop.stmOf 3).src = 2 ∧ (loop.stmOf 3).loopLines ≠ 0 ∧ loop.ing.tiles = []) ∧
    vf.bit pgPCIE PCIE_LINK_UP = true ∧ 3 < vf.rd pgPCIE PCIE_VF_NUM_VFS :=
  ⟨⟨takes (by decide +kernel) (by decide +kernel) (by decide +kernel), by decide +kernel⟩,
    by decide +kernel⟩

/-- Kiosk 95 holds a tile of stream 0. -/
def busy95 (lines width : Nat) (body : List Byte) : State :=
  let s := (net0.setBytes (kioskBuf 95) (tileBytes lines width body)).setHolding 95 (.tile 1)
  shows (pgKSK 95) 2 { s with ing := { s.ing with tiles := [tileAt lines width (34 + body.length) (.kiosk 95)] } }

theorem met_KioskDecoding :
    let wait : State := shows (pgKSK 95) 1
      { net0 with ing := { net0.ing with tiles := [tileAt 1 1 35 .queued] } }
    let one := busy95 1 1 [0]
    let two := busy95 2 1 [0x80]
    let u1 := tileAt 1 1 35 (.kiosk 95)
    let u2 := tileAt 2 1 35 (.kiosk 95)
    let bad : State := { one with poison := [cwOf (kioskBuf 95)] }
    let short := busy95 1 1 []
    let waits : State := { one with ing := { one.ing with waits := [95] } }
    (95 < wait.part.kiosks ∧ wait.printRuns = true ∧ wait.kioskState 95 = 1 ∧ wait.keptOut 95 = false ∧
      wait.choose 95 = some (tileAt 1 1 35 .queued)) ∧
    (one.holding 95 = .tile 1 ∧ one.tile? 1 = some u1 ∧ one.armedFolly (pgKSK 95) = none ∧
      one.ing.waits.contains 95 = false ∧ waits.ing.waits.contains 95 = true ∧ u1.rewrite = false ∧
      waits.memGone = false ∧ 0 < u1.len ∧ u1.ringSize = 0 ∧ (∀ j, j < u1.len → u1.addr + j < sramBase) ∧
      one.tileBad 95 u1 = false ∧ u1.lastBlock = true ∧ one.keptOut 95 = false ∧
      ((one.nextBlock u1).map (fun b =>
        tileEndOk (tileBit (one.tileByte u1)) (one.tileByte u1) u1.len b.dec.bitPos)) = some true) ∧
    (two.tileBad 95 u2 = false ∧ (two.nextBlock u2).isSome = true ∧ u2.lastBlock = false ∧
      two.stmRunning 0 = true ∧ (two.hscOf 31).send.line < two.firstOf u2 + 2) ∧
    bad.tileBad 95 u1 = true ∧ short.nextBlock (tileAt 1 1 34 (.kiosk 95)) = none := by decide +kernel

theorem met_IngestChecks :
    let s := ((sched.wr pgING ING_LIVE_CAP_CYCLES 1).wr pgING ING_ADMIT_WINDOW_PU 1024).wr pgING ING_ADMIT_CFG_PCT 1
    let full : State := { s with ing := { s.ing with tiles := [{ tileAt 1 1 35 .queued with first := 24, cost := 1000000 }] } }
    let u : Tile := { tileAt 1 1 35 .queued with first := 24, cost := 1000000 }
    let low := (net0.wr pgING ING_LOOKAHEAD_LOW_PU 0x1000).updStm 0 (fun x => { x with expected := [(31, 6)] })
    let odd := live.wr pgING (ING_RIB_SIZE_WIDTH 31) 8
    (full.printRuns = true ∧ 0 < full.rdS pgSPD SPD_SPEED_V ∧ 0 ≤ posDiff (full.deadlineOf u) full.pos ∧
      posDiff (full.deadlineOf u) full.pos ≤ 1024 ∧ full.ing.admitArmed = true ∧
      (1024 * 65536 : Int) * 1 < 1000000 * full.rdS pgSPD SPD_SPEED_V * 100) ∧
    (low.printRuns = true ∧ low.lookaheads.length = 1 ∧ low.lookaheads.all (· < 0x1000) = true ∧ low.ing.lookArmed = true) ∧
    (odd.Takes .host pgING ∧ odd.ribbonsBad = false ∧ odd.ribChanged 31 = true ∧
      (odd.hscOf 31).running = false ∧ odd.ribChanged 30 = false) ∧
    (live.Takes .gkp (pgKSK 95) ∧ live.kiosksOf (pgKSK 95) = [95] ∧
      live.bit (pgKSK 95) WK_OUT_RETIRED = false) ∧ live.open .host pgING = true :=
  ⟨by decide +kernel, by decide +kernel,
    ⟨takes (by decide +kernel) (by decide +kernel) (by decide +kernel), by decide +kernel⟩,
    ⟨takes (by decide +kernel) (by decide +kernel) (by decide +kernel), by decide +kernel⟩,
    by decide +kernel⟩

/-- A line in mapping from the active bank. -/
def mapping (bank : Bool) : Mapping :=
  { line := 4, num := 0, planes := [], bank := bank, merge := 0, geom := 0 }

/-- The lane of a head is UP. -/
def lane (h : Nat) (s : State) : State := on (pgONK h) (s.updOnk h (fun x => { x with up := true }))

theorem met_Trellis :
    let s := sched.updTrl 31 (fun x => { x with maps := [mapping false] })
    let fl : Flight := { line := 4, levels := none, framed := false, sync := false, ok := true, naked := false,
                         retried := false, due := 0 }
    let t := lane 31 (s.updOnk 31 (fun x => { x with flight := [fl] }))
    let sync := shows (pgTRL 31) bkSYNCING live
    let act := live.wr (pgTRL 31) TRL_TBL_INDEX_ACTIVE 1
    let wait := waits (pgTRL 31) ⟨1, none, none, none, false, false, .host⟩ live
    let last := live.wr pgTRLroot TRL_OUT_REQ_NOZZLE 163839
    let clean := on (pgTRL 31) last
    ((s.trlOf 31).maps = [mapping false] ∧ s.printRuns = true ∧ (s.trlOf 31).again = false ∧ s.follies = [] ∧
      s.poison = [] ∧ (s.trlOf 31).differs = false) ∧
    ((t.onkOf 31).flight = [fl] ∧ t.laneUp 31 = true ∧ (t.onkOf 31).commit = none) ∧
    ((planesOf (s.ribOf 31).layers).contains 0 = true ∧ 79 < (s.ribOf 31).width) ∧
    (sync.trlState 31 = bkSYNCING ∧ (sync.trlOf 31).maps = [] ∧ (sync.trlOf 31).held = []) ∧
    (live.open .gkp (pgTRL 31) = true ∧ live.trlState 31 ≠ bkSYNCING ∧
      live.bit (pgTRL 31) TRL_TBL_INDEX_ACTIVE = false ∧ live.commitOf (pgTRL 31) = none) ∧
    act.bit (pgTRL 31) TRL_TBL_INDEX_ACTIVE = true ∧ wait.commitOf (pgTRL 31) ≠ none ∧
    sync.open .host (pgTRL 31) = true ∧ live.TakesOff .host (pgTRL 31) ∧
    (live.wr (pgTRL 31) UNIT_STATUS_CMD_BUSY 1).bit (pgTRL 31) UNIT_STATUS_CMD_BUSY = true ∧
    (clean.Takes .host pgTRLroot ∧ clean.outBad 163839 = false ∧ clean.outHeads 163839 = [31] ∧
      clean.rd pgTRLroot TRL_OUT_REQ_NOZZLE = 163839 ∧
      clean.bit (pgTRL 31) UNIT_CTRL_ENABLE = true ∧ clean.commitOf (pgTRL 31) = none ∧
      clean.trlState 31 = bkCLEAN) :=
  ⟨by decide +kernel, by decide +kernel, by decide +kernel, by decide +kernel, by decide +kernel,
    by decide +kernel, by decide +kernel, by decide +kernel, takesOff (by decide +kernel) (by decide +kernel),
    by decide +kernel, ⟨takes (by decide +kernel) (by decide +kernel) (by decide +kernel), by decide +kernel⟩⟩

theorem met_LaneTraffic :
    let fl : Flight := { line := 260, levels := none, framed := true, sync := false, ok := true, naked := false,
                         retried := false, due := 0 }
    let s := lane 31 live
    let f := s.updOnk 31 (fun x => { x with flight := [fl], reports := [260] })
    let syn := f.wr (pgONK 31) ONK_STATUS_SYNCED 1
    let far := s.wr (pgONK 31) ONK_CFG_LOOP 3
    let test := s.wr (pgONK 31) ONK_CFG_TEST 1
    let near := fun (n : Nat) => (s.wr (pgONK 31) ONK_CFG_LOOP n).rd (pgONK 31) ONK_CFG_LOOP
    s.armedFolly (pgONK 31) = none ∧ s.laneUp 31 = true ∧ f.laneUp 31 = true ∧
    ((f.onkOf 31).flight.find? (fun f => f.framed && decide (f.line % 256 = 4)) = some fl ∧
      (s.onkOf 31).flight.find? (fun f => f.framed && decide (f.line % 256 = 4)) = none) ∧
    (f.onkOf 31).reports = [260] ∧ 260 % 256 ≠ (5 : Byte).toNat ∧ 260 % 256 = (4 : Byte).toNat ∧
    syn.bit (pgONK 31) ONK_STATUS_SYNCED = true ∧
    (s.bit (pgONK 31) UNIT_CTRL_ENABLE = true ∧ s.bit (pgONK 31) ONK_STATUS_RET_LATE = false) ∧
    (near 1 = 1 ∧ near 2 = 2 ∧ s.printRuns = true) ∧
    ((far.onkOf 31).up = true ∧ far.rd (pgONK 31) ONK_CFG_LOOP = 3 ∧ far.bit (pgONK 31) ONK_CFG_TEST = false) ∧
    (s.rd (pgONK 31) ONK_CFG_LOOP = 0 ∧ s.bit (pgONK 31) ONK_CFG_TEST = false ∧ (3 : BitVec 2) ≠ 2) ∧
    (test.bit (pgONK 31) ONK_CFG_TEST = true ∧ (test.onkOf 31).prbs = none) := by decide +kernel

theorem met_LaneCommands :
    let dn : State := pllIn 11 .out (on (pgONK 31) live)
    let tx : TableTx := { mask := 0x80000000, table := 1, atPage := false, told := [], acked := [], owing := [] }
    let staged : State := shows pgONKroot 1 { dn with tx := some tx }
    let due := dn.updOnk 31 (fun x => { x with commit := some (2, none) })
    let s := lane 31 live
    let rd := s.updOnk 31 (fun x => { x with read := some (0, 256) })
    (dn.bit (pgONK 31) UNIT_CTRL_ENABLE = true ∧ dn.levelOf .print = 2 ∧ (dn.onkOf 31).up = false ∧
      dn.pllLocked 11 = true ∧ dn.rd (pgONK 31) ONK_CFG_LOOP = 0 ∧ dn.bit (pgONK 31) ONK_CFG_TEST = false ∧
      dn.tx = none ∧ (staged.tx = some tx ∧ staged.rd pgONKroot UNIT_STATUS_STATE = 1 ∧
        (headsOf tx.mask).contains 31 = true ∧ tx.told.contains 31 = false) ∧
      dn.follyOn (pgONK 31) 1 = false ∧ (dn.onkOf 31).commit = none ∧
      (due.onkOf 31).commit = some (2, none)) ∧ (s.onkOf 31).up = true ∧
    (live.open .host (pgONK 31) = true ∧ live.bit (pgONK 31) UNIT_CTRL_ENABLE = false ∧ live.ready = true ∧
      (live.wr pgTOP TOP_BOOT_STAGE 15).ready = false) ∧
    (s.Takes .gkp (pgONK 31) ∧ s.laneUp 31 = true ∧ (256 : BitVec 16) ≠ 0 ∧ (256 : BitVec 16).toNat ≤ 256) ∧
    (rd.laneUp 31 = true ∧ (rd.onkOf 31).read = some (0, 256)) ∧ (1 : BitVec 16).toNat ≤ 1 :=
  ⟨by decide +kernel, by decide +kernel, by decide +kernel,
    ⟨takes (by decide +kernel) (by decide +kernel) (by decide +kernel), by decide +kernel⟩,
    by decide +kernel⟩

theorem met_HeadServices :
    let two := ((lane 31 (lane 0 live)).wr pgONKroot ONK_TX_MASK_HEADS 0x80000001)
    let tx : TableTx := { mask := 0x80000001, table := 1, atPage := false, told := [0, 31], acked := [], owing := [] }
    let sized := (two.wr (pgONK 0) ONK_TBL_LEN_LEN 1).wr (pgONK 31) ONK_TBL_LEN_LEN 1
    let open' : State := shows pgONKroot 1 { two with tx := some tx }
    let near : State := { open' with tx := some { tx with acked := [0] } }
    let ack : State := shows pgONKroot 2 { (two.updOnk 31 (fun x => { x with acking := some 1 })) with
      tx := some { tx with acked := [0, 31], owing := [31] } }
    let low := live.wr pgONKroot ONK_ALERT_LOW 0x80
    let mask := live.wr pgONKroot ONK_ALERT_MASKED 0x80
    let quiet : State := { mask with now := 10000000 }
    let bus := live.wr pgONKroot (ONK_MBUS_XFER_LEN 3) 8
    let busy := (bus.wr pgONKroot (ONK_MBUS_STAT_BUSY 3) 1).wr pgONKroot (ONK_MBUS_XFER_RD 3) 1
    (sized.Takes .host pgONKroot ∧ sized.rd pgONKroot UNIT_STATUS_STATE = 0 ∧ sized.stageBad = false) ∧
    (open'.tx = some tx ∧ open'.rd pgONKroot UNIT_STATUS_STATE = 1 ∧
      (headsOf tx.mask).contains 31 = true ∧ open'.laneUp 31 = true ∧ open'.follyOn (pgONK 31) 6 = false ∧
      (headsOf tx.mask).all (fun g => ([31] : List Nat).contains g) = false ∧
      near.tx = some { tx with acked := [0] } ∧
      (headsOf tx.mask).all (fun g => ([0, 31] : List Nat).contains g) = true) ∧
    (ack.laneUp 31 = true ∧ (ack.onkOf 31).acking = some 1 ∧ ack.rd pgONKroot UNIT_STATUS_STATE = 2 ∧
      ([31] : List Nat).filter (· != 31) = []) ∧ open'.Takes .gkp pgONKroot ∧
    (live.alertHeads 7 ≠ [] ∧ live.levelOf .print = 2 ∧ live.alertBit ONK_ALERT_LOW 7 = false ∧
      live.alertBit ONK_ALERT_MASKED 7 = false ∧ mask.alertBit ONK_ALERT_MASKED 7 = true ∧
      low.alertBit ONK_ALERT_LOW 7 = true ∧ low.alertBit ONK_ALERT_MASKED 7 = false) ∧
    (quiet.Takes .host pgONKroot ∧ (quiet.alertOf 7).highAt = some 0 ∧ 0 + 10000000 ≤ quiet.now) ∧
    (bus.busServes 3 = true ∧ bus.bit pgONKroot (ONK_MBUS_STAT_BUSY 3) = false ∧
      bus.bit pgONKroot (ONK_MBUS_STAT_DEAD 3) = false ∧ bus.rd pgONKroot (ONK_MBUS_XFER_LEN 3) = 8) ∧
    (busy.bit pgONKroot (ONK_MBUS_STAT_BUSY 3) = true ∧ busy.bit pgONKroot (ONK_MBUS_XFER_RD 3) = true ∧
      busy.rd pgONKroot (ONK_MBUS_XFER_LEN 3) = 8) :=
  ⟨⟨takes (by decide +kernel) (by decide +kernel) (by decide +kernel), by decide +kernel⟩,
    by decide +kernel, by decide +kernel, takes (by decide +kernel) (by decide +kernel) (by decide +kernel),
    by decide +kernel, ⟨takes (by decide +kernel) (by decide +kernel) (by decide +kernel), by decide +kernel⟩,
    by decide +kernel⟩

/-- DRAM of 1 GiB, both channels at RUN. -/
def dram (s : State) : State := shows (pgDRAM 0) 2 (shows (pgDRAM 1) 2 (s.wr pgDRC DRC_SIZE_MIB 1024))

/-- A frame of lines of 2 samples and 1 line; FVAL decides its end where `fval` says so. -/
def small (fval : Bool) : CamFrame :=
  { num := 3,
    words := (((live.wrAc (pgCAM 5) CAM_LINE_LINE_SAMPLES 2).wrAc (pgCAM 5) CAM_FRAME_FRAME_LINES 1).wrAc (pgCAM 5)
      CAM_CFG_FVAL_EN (if fval then 1 else 0)).act,
    bank := false, taken := 0, delivered := 0, first := none, short := false, long := false,
    flagged := false, fault := 0, shortLine := false, longLine := false, hist := [], sums := [], counts := [],
    storeAt := some 0, ended := false }

/-- Camera 5, enabled, its clock present. -/
def port (g : Cam → Cam) : State :=
  ((on (pgCAM 5) (dram live)).wr (pgCAM 5) CAM_STATUS_PCLK_OK 1).updCam 5 g

/-- A trigger placed at a time in ns. -/
def trig (t : Nat) : CamTrig := { pos := 77, doubled := false, placed := 4 * t }

def shot : CamLine :=
  { frame := 3, pos := 77, flags := 0, valid := 2, samples := [1, 2], queued := 2, bad := [] }

theorem met_CameraLines :
    let a := port (fun c => { c with wait := [trig 0], frames := [small false] })
    let inTime : State := { a with now := 50000 }
    let tooLate : State := { a with now := 50001 }
    let e := port (fun c => c)
    let stray := port (fun c => { c with cur := some .dropped })
    let taken := port (fun c => { c with cur := some (.taken (trig 0) 3), frames := [small true] })
    let out : State := { (port (fun c => { c with wait := [trig 0] })).wrAc (pgCAM 5) CAM_CFG_FVAL_EN 1 with
      now := 50001 }
    let high := port (fun c => { c with fval := true, frames := [{ small true with delivered := 1 }] })
    let queued := port (fun c => { c with fval := true, frames := [small true], queue := [shot] })
    let full := port (fun c => { c with frames := [{ small false with delivered := 1 }] })
    ((5 < e.part.cams ∧ e.armedFolly (pgCAM 5) = none) ∧ (e.bit (pgCAM 5) CAM_STAT_SEL_HOLD = false ∧
      (e.wr (pgCAM 5) CAM_STAT_SEL_HOLD 1).bit (pgCAM 5) CAM_STAT_SEL_HOLD = true)) ∧
    ((a.bit (pgCAM 5) UNIT_CTRL_ENABLE = true ∧ a.bit (pgCAM 5) CAM_STATUS_PCLK_OK = true ∧
      (a.camOf 5).cur = none ∧ (a.camOf 5).wait = [trig 0]) ∧
      0 + 4 * inTime.ac (pgCAM 5) CAM_LAT_LAT_MIN ≤ 4 * inTime.now ∧
      4 * inTime.now ≤ 0 + 4 * inTime.ac (pgCAM 5) CAM_LAT_LAT_MAX ∧ inTime.camOutside 5 = false ∧
      inTime.camCurrent 5 = some (small false) ∧ (small false).taken < (small false).lines inTime.part 5) ∧
    (e.camOf 5).wait = [] ∧ (stray.camOf 5).cur = some .dropped ∧
    ((taken.camOf 5).cur = some (.taken (trig 0) 3) ∧ (taken.camOf 5).frame 3 = some (small true) ∧
      (small true).samples taken.part 5 = 2 ∧ ([] : List Nat).length < 2 ∧ taken.camFill 5 + 2 ≤ camQueueMax) ∧
    (0 + 4 * tooLate.ac (pgCAM 5) CAM_LAT_LAT_MAX < 4 * tooLate.now ∧ tooLate.camOutside 5 = false ∧
      tooLate.camCurrent 5 = some (small false) ∧ out.camOutside 5 = true ∧ (out.camOf 5).wait = [trig 0] ∧
      0 + 4 * out.ac (pgCAM 5) CAM_LAT_LAT_MAX < 4 * out.now) ∧
    ((e.camOf 5).fval = false ∧ e.ac (pgCAM 5) CAM_CFG_FVAL_EN = 0 ∧ out.ac (pgCAM 5) CAM_CFG_FVAL_EN = 1 ∧
      out.commitOf (pgCAM 5) = none ∧ (out.camOf 5).fval = false) ∧
    ((high.camOf 5).fval = true ∧ (small true).byFval high.part 5 = true ∧
      (small true).lines high.part 5 ≤ 1 ∧
      (high.camOf 5).queue.any (fun l => l.frame == 3) = false ∧
      (queued.camOf 5).queue.any (fun l => l.frame == 3) = true ∧ (queued.camOf 5).fval = true) ∧
    ((full.camOf 5).frames = [{ small false with delivered := 1 }] ∧ (small false).byFval full.part 5 = false ∧
      (small false).lines full.part 5 ≤ 1 ∧ (full.camOf 5).queue.any (fun l => l.frame == 3) = false) ∧
    ((e.camOf 5).cur = none ∧ (e.camOf 5).frames = []) ∧ e.levelOf .cam = 2 := by decide +kernel

theorem met_CameraStore :
    let q := port (fun c => { c with frames := [small false], queue := [shot], headers := [(64, [1, 2])] })
    let off := dram live
    let act := off.wr (pgCAM 5) CAM_TBL_INDEX_ACTIVE 1
    let sync := off.wr (pgCAM 5) CAM_STATUS_BANK bkSYNCING
    let wait := waits (pgCAM 5) ⟨1, none, none, none, false, false, .host⟩ off
    ((q.camOf 5).queue = [shot] ∧ (q.camOf 5).frames = [small false] ∧ (small false).num = shot.frame ∧
      (small false).ended = false ∧ (q.camOf 5).differs = false ∧ shot.bad = [] ∧ off.flows (pgCAM 5) = true ∧
      (small false).storeAt = some 0 ∧
      shot.samples.length = (small false).samples q.part 5 ∧ q.memGone = false ∧
      (∀ i, i < (small false).stride q.part 5 → q.byteOk ((q.camOf 5).storeBase + 0 + 64 + i) = true) ∧
      (small false).store q.part 5 ≠ 1 ∧ (small false).store q.part 5 ≠ 2 ∧
      (∀ i, i < 2 → q.byteOk ((q.camOf 5).storeBase + 64 + i) = true)) ∧
    ((small true).storeAt ≠ none ∧ { small true with storeAt := none }.storeAt = none) ∧
    (off.open .host (pgCAM 5) = true ∧ off.bit (pgCAM 5) UNIT_CTRL_ENABLE = false ∧ off.ready = true ∧
      (off.wr pgTOP TOP_BOOT_STAGE 6).ready = false) ∧
    (q.open .gkp (pgCAM 5) = true ∧ q.bit (pgCAM 5) UNIT_CTRL_ENABLE = true) ∧
    (off.camBankState 5 ≠ bkSYNCING ∧ off.bit (pgCAM 5) CAM_TBL_INDEX_ACTIVE = false ∧
      off.commitOf (pgCAM 5) = none ∧ act.bit (pgCAM 5) CAM_TBL_INDEX_ACTIVE = true ∧
      wait.commitOf (pgCAM 5) ≠ none ∧ wait.camBankState 5 ≠ bkSYNCING ∧
      (off.wr (pgCAM 5) CAM_TBL_INDEX_ENTRY 11263).rd (pgCAM 5) CAM_TBL_INDEX_ENTRY = 11263) ∧
    (sync.camBankState 5 = bkSYNCING ∧ (sync.camOf 5).frames = [] ∧ (sync.camOf 5).held = [] ∧
      (sync.camOf 5).again = false) ∧
    off.TakesOff .host (pgCAM 5) :=
  ⟨by decide +kernel, by decide +kernel, by decide +kernel, by decide +kernel, by decide +kernel,
    by decide +kernel, takesOff (by decide +kernel) (by decide +kernel)⟩

/-- The loop runs with head 31, one line of it known not to be void. -/
def loop (g : Qlp → Qlp) : State :=
  ((on pgQLP (dram sched)).setQlines 31 [{ line := 0, levels := [3], void := some false, ends := true }]).updQlp
    (fun q => g { q with heads := 0x80000000 })

/-- A line of camera 5 at row 2, and the row with no void head. -/
def camRow : QCamLine := { pos := 2048, flags := 0, dens := [100, 100], valid := [true, true] }

def row2 : QRow := { group := 2, gen := 0, heads := [0], lines := [], voids := [], fired := [], compared := false }

/-- Row 2 is complete for head 0; ALIGN gathers from camera 5. -/
def compares : State :=
  loop (fun q => { q with heads := 1, cams := q.cams.set 5 [camRow], rows := [(2, row2)],
                          align := some { cam := 5, lines := 511, dens := [], exp := [] } })

/-- The ring is read with the line taken off its camera's list. -/
def reads : State := compares.fresh.updQlp (fun q => { q with cams := q.cams.set 5 [] })

theorem reads_clean : (reads.ringRead 2).2.2 = false := by
  have hq : reads.qlpHeads = [0] := by decide +kernel
  have ha : reads.slotAddr 2 0 < sramBase := by decide +kernel
  simpa [State.ringRead, hq, State.readMem, ha] using
    reads.portRead_clean 1 (reads.slotAddr 2 0) 4096 (by decide +kernel) (by decide +kernel)

theorem met_QualityRows :
    let s := loop id
    let m := compares
    let read := reads.ringRead 2
    let al := fun n => loop (fun q => { q with align := some { cam := 5, lines := n, dens := [], exp := [] } })
    let c : Commit := ⟨3, none, none, some 0, false, true, .host⟩
    let own : State := { waits pgQLP c (al 512) with ref := some ⟨31, (sched.hscOf 31).send, some 1, some 1⟩ }
    (live.has pgQLP = true ∧ s.qlpOn = true ∧ s.camRuns = true ∧ s.memGone = false) ∧ s.rowDue 31 = some 0 ∧
    ((m.qlpOn = true ∧ m.camRuns = true ∧ m.qlp.cams.get 5 = [camRow] ∧ m.meets 0xFFFFFFFFF000 = none ∧
      m.meets camRow.pos = some 2 ∧ m.rowAt 2 = some row2 ∧ m.rowComplete 2 = true ∧
      m.qlp.align = some { cam := 5, lines := 511, dens := [], exp := [] }) ∧ read.2.2 = false ∧
      ((read.1.alignLine 5 camRow read.2.1).residuals 5 read.2.1 row2 camRow).all Option.isNone = false) ∧
    (live.open .host pgQLP = true ∧ live.bit pgQLP UNIT_CTRL_ENABLE = false ∧ live.ready = true ∧
      (live.wr pgTOP TOP_BOOT_STAGE 6).ready = false) ∧
    (s.Takes .host pgQLP ∧ (5 : BitVec 16).toNat < s.part.cams ∧ s.commitOf pgQLP = none) ∧
    ((al 512).qlp.align = some ⟨5, 512, [], []⟩ ∧ (al 512).commitOf pgQLP = none ∧
      own.fresh.correct.commitOf pgQLP = some c ∧ own.fresh.correct.pageLevel pgQLP = 2 ∧
      own.fresh.correct.forward = true ∧ own.fresh.correct.commitDue c = true ∧
      own.fresh.correct.refAdvance.badPair pgQLP = 0 ∧
      (al 511).qlp.align = some ⟨5, 511, [], []⟩) :=
  ⟨by decide +kernel, by decide +kernel, ⟨by decide +kernel, reads_clean, by decide +kernel⟩, by decide +kernel,
    ⟨takes (by decide +kernel) (by decide +kernel) (by decide +kernel), by decide +kernel⟩, by decide +kernel⟩

/-- An archive job of camera 5. -/
def job : Arc :=
  { cam := 5, planes := 1, t := 0, dst := 0, space := 64, count := 1, base := 0, size := 4096, hdrAt := 0,
    frame := 0, hdr := [], lines := 1, values := 2, stride := 64, next := [0], done := 1, out := 64, crc := 0,
    waiting := false, tile := [], sum := 0, ready := true, failed := 0 }

theorem met_Proposals :
    let one : Proposal := { nozzle := 163839, kind := 2, mean := -5, cam := 5 }
    let m := live.updQlp (fun q => { q with auto := [one], host := [one] })
    let auto := m.wr pgQLP QLP_CFG_MODE 1
    let sound := live.wr pgQLP ARC_SPACE_BYTES 64
    let busy := fun (a : Arc) => (live.wr pgQLP ARC_STAT_BUSY 1).updQlp (fun q => { q with arc := some a })
    let verif := (busy { job with waiting := true }).setHolding 95 .verif
    (live.has pgQLP = true ∧ m.open .host pgQLP = true ∧ m.bit pgQLP QLP_CFG_MODE = false ∧
      auto.bit pgQLP QLP_CFG_MODE = true ∧ auto.qlp.auto ≠ [] ∧ auto.qlp.host.length < 64 ∧
      auto.qlp.host.length + auto.qlp.auto.length ≤ 64) ∧
    ((on pgQLP live).Takes .host pgQLP ∧ (3 : BitVec 16).toNat ≤ 3) ∧
    (sound.TakesOff .host pgQLP ∧ sound.bit pgQLP ARC_STAT_BUSY = false ∧
      sound.rd pgQLP ARC_SRC_CAM < sound.part.cams ∧ 64 ≤ sound.rd pgQLP ARC_SPACE_BYTES ∧
      sound.rd pgQLP ARC_DST_LO_ADDR % 64 = 0) ∧
    (verif.qlp.arc = some { job with waiting := true } ∧
      verif.printRuns = true ∧
      (List.range verif.part.kiosks).find? (fun k => verif.holding k == .verif) = some 95 ∧
      (verif.verifTile 95 { job with waiting := true }).2 = false ∧
      (busy { job with failed := 2 }).qlp.arc = some { job with failed := 2 } ∧
      (busy job).qlp.arc = some job ∧ job.failed = 0 ∧ job.ready = true) ∧
    ((on pgQLP (busy job)).Takes .gkp pgQLP ∧ (busy job).bit pgQLP ARC_STAT_BUSY = true) :=
  ⟨by decide +kernel,
    ⟨takes (by decide +kernel) (by decide +kernel) (by decide +kernel), by decide +kernel⟩,
    ⟨takesOff (by decide +kernel) (by decide +kernel), by decide +kernel⟩, by decide +kernel,
    ⟨takes (by decide +kernel) (by decide +kernel) (by decide +kernel), by decide +kernel⟩⟩

/-- The host window shows the SRAM. -/
def window (s : State) : State := (dram s).wr pgDRC DRC_HOST_WIN_BASE 256

/-- The device address that an offset of the window names. -/
def seen (s : State) (off : Nat) : Nat := s.rd pgDRC DRC_HOST_WIN_BASE * 2 ^ 28 + off

theorem met_MemoryRequests :
    let d := dram live
    let w := window live
    let off : State := { d with pwr := { d.pwr with doms := d.pwr.doms.set 2 .down } }
    let staging := onkStageBase - sramBase
    let shadow := trlBank 31 true - sramBase
    let table := camBank 5 true - sramBase
    ((0x3FFFFF80 : BitVec 40).toNat + 128 ≤ sramBase ∧ d.memGone = false ∧
      (∀ i, i < 128 → d.byteOk (0x3FFFFF80 + i) = true) ∧ 0x3FFFFF80 % 4 = 0 ∧ d.poison = [] ∧
      d.follies = []) ∧
    (off.memGone = true ∧ 0x3FFFFF80 < sramBase) ∧ w.served .host = true ∧
    (w.placeOf (seen w 0x3B80000) 64 = .plain ∧ (∀ i, i < 64 → w.byteOk (seen w 0x3B80000 + i) = true) ∧
      d.placeOf (seen d 0) 64 = .plain ∧ (∀ i, i < 64 → d.byteOk (seen d 0 + i) = true)) ∧
    (w.placeOf (seen w staging) 4 = .staging ∧ w.rd pgONKroot UNIT_STATUS_STATE = 0 ∧
      (shows pgONKroot 1 w).placeOf (seen (shows pgONKroot 1 w) staging) 4 = .staging ∧
      (shows pgONKroot 1 w).rd pgONKroot UNIT_STATUS_STATE ≠ 0) ∧
    (w.placeOf (seen w shadow) 4 = .trl 31 ∧ w.commitOf (pgTRL 31) = none ∧ w.trlState 31 ≠ bkSYNCING) ∧
    (w.placeOf (seen w table) 4 = .cam 5 ∧ w.commitOf (pgCAM 5) = none ∧ w.camBankState 5 ≠ bkSYNCING) ∧
    (w.placeOf (seen w (trlBank 31 false - sramBase)) 4 = .readOnly ∧
      w.placeOf (seen w 0xFFFFFFF) 1 = .invalid ∧ d.placeOf (2 ^ 30) 1 = .invalid ∧
      d.placeOf (2 ^ 30 - 1) 1 = .plain) ∧ sramBase ≤ seen w 0 ∧ w.open .host pgDRC = true ∧
    (d.dramTaken = false ∧ d.drc.queue = [] ∧
      ({ d with drc := { d.drc with grants := [⟨d.now, false, 1⟩] } } : State).dramTaken = true) ∧
    w.storesHeld = false ∧
    (w.updTrl 31 (fun x => { x with held := [.store .host 0 [] false] })).storesHeld = true := by
  decide +kernel

theorem met_DramAndCopies :
    let d := dram live
    let up := d.wr (pgDRAM 1) DRC_SCRUB_EN 1
    let last := d.wr (pgDRAM 1) DRC_SLICE_STAT_POS 639
    let sweep := shows (pgDRAM 1) 3 last
    let atEnd := up.updChan 1 (fun x => { x with scrub := 2 ^ 23 - 1 })
    let poor := shows (pgSTM 0) 2 (shows (pgKSK 95) 2 ((dram sched).wr pgDRC DRC_PANIC_RIB_LINES 1))
    let starved : State := { poor with ing := { poor.ing with waits := [95] } }
    let off := shows (pgDRAM 1) 0 d
    let used := on (pgCAM 0) d
    let c : Copy := { src := 0, dst := 64, width := 64, height := 2, srcStride := 64, dstStride := 64,
                      fill := none, whens := [] }
    let f : Copy := { c with height := 65535, width := 1, dstStride := 1, fill := some 7 }
    let idle := ((((on pgCPY d).wr pgCPY CPY_SIZE_WIDTH 64).wr pgCPY CPY_SIZE_HEIGHT 2).wr pgCPY
      CPY_SRC_STRIDE_BYTES 64).wr pgCPY CPY_DST_STRIDE_BYTES 64
    let runs : State := { on pgCPY d with drc := { d.drc with copy := some c } }
    (up.chanUp 1 = true ∧ up.levelOf .mem = 2 ∧ up.bit (pgDRAM 1) DRC_SCRUB_EN = true ∧ up.poison = [] ∧
      up.follies = [] ∧ scrubAddr 1 ((up.chan 1).scrub + 1) < up.fitted ∧
      scrubAddr 1 0 ≤ 128 ∧ 128 < scrubAddr 1 0 + 64 ∧ up.byteOk 128 = true ∧
      (atEnd.chan 1).scrub = 2 ^ 23 - 1 ∧ atEnd.fitted ≤ scrubAddr 1 (2 ^ 23 - 1 + 1)) ∧
    (starved.portPanic 0 = true ∧ starved.drc.told.get 0 = false) ∧
    (up.anyPanic = false ∧ up.armedFolly (pgDRAM 1) = none ∧
      d.rd (pgDRAM 1) DRC_SLICE_STAT_POS < 639 ∧ 639 ≤ last.rd (pgDRAM 1) DRC_SLICE_STAT_POS ∧
      sweep.rd (pgDRAM 1) UNIT_STATUS_STATE = 3 ∧ sweep.chanUp 1 = true) ∧
    (on (pgDRAM 1) d).Takes .host (pgDRAM 1) ∧ d.chanLive 1 = true ∧
    (off.open .host (pgDRAM 1) = true ∧ off.bit (pgDRAM 1) UNIT_CTRL_ENABLE = false ∧
      off.dramInUse = false ∧ used.dramInUse = true ∧ (shows (pgDRAM 1) 1 d).rd (pgDRAM 1)
        UNIT_STATUS_STATE = 1) ∧
    (idle.Takes .gkp pgCPY ∧ idle.drc.copy = none ∧ idle.copyBad idle.copyRegs = false ∧
      (idle.copyPlace idle.copyRegs).page = none ∧ idle.copyRegs.meets = true ∧
      idle.copyRegs.srcStride = idle.copyRegs.dstStride) ∧
    (runs.drc.copy = some c ∧ runs.copyPlace c = .plain ∧ runs.copyBad c = false ∧ runs.memGone = false ∧
      runs.poison = [] ∧ runs.follies = [] ∧ c.height < 65536 ∧ c.meets = true ∧
      (∀ i, i < spanOf c.width c.height c.dstStride → runs.byteOk (c.dst + i) = true) ∧
      (∀ i, i < spanOf c.width c.height c.srcStride → runs.byteOk (c.src + i) = true)) ∧
    (runs.copyPlace f = .plain ∧ runs.copyBad f = false ∧ f.height < 65536) ∧ runs.Takes .host pgCPY :=
  ⟨by decide +kernel, by decide +kernel, by decide +kernel, takes (by decide +kernel) (by decide +kernel) (by decide +kernel),
    by decide +kernel, by decide +kernel,
    ⟨takes (by decide +kernel) (by decide +kernel) (by decide +kernel), by decide +kernel⟩, by decide +kernel,
    by decide +kernel, takes (by decide +kernel) (by decide +kernel) (by decide +kernel)⟩

/-- Both ports enabled; the states shown, the active one and whether there is none. -/
def ports (a b active noPath : Nat) : State :=
  ((shows (pgNET 0) a (shows (pgNET 1) b (on (pgNET 0) (on (pgNET 1) live)))).wr pgNETroot
    NET_PATH_STAT_ACTIVE active).wr pgNETroot NET_PATH_STAT_NO_PATH noPath

/-- Which frames stand in a port's queue is free (log 102): the clauses on a queue that is not empty hold of
whatever it holds. -/
theorem met_NetworkPaths :
    let none' := ports 2 1 0 1
    let other := ports 1 2 0 1
    let nothing := ports 1 1 0 1
    let lead := ports 3 2 0 0
    let silent : State := shows (pgSTM 3) 2 { lead with net := { lead.net with heard := lead.net.heard.set 3 true } }
    let one := (ports 2 3 1 0).wr pgNETroot NET_PATH_CFG_AUTO_RETURN 1
    let laps := one.wr pgNETroot NET_PATH_STAT_OVERLAP 1
    let down := live
    let clocks := pllIn 12 .out (ports 1 4 0 0)
    let pcs := lead.wr (pgNET 0) NET_STATUS_PCS_UP 1
    let hears := (live.wr pgNETroot NET_WAKE_EN 1)
    let sleeps := votes 0x40 { hears with aon := { hears.aon with perst := false }, pwr := { hears.pwr with gkpSys := 0 } }
    let named := fun (x : State) => ((x.wrAc pgNETroot NET_MAC_HI_ADDR 0x0200).wrAc pgNETroot NET_MAC_LO_ADDR 1).wr
      (pgNET (x.rd pgNETroot NET_WAKE_PORT)) NET_STATUS_PCS_UP 1
    let magic : List Byte := List.replicate 12 0xFF ++ [8, 0] ++ List.replicate 6 0xFF ++
      (List.replicate 16 ([2, 0, 0, 0, 0, 1] : List Byte)).flatten
    let msg : State := { (live.wr pgPCIE PCIE_LINK_UP 1) with
      pcie := { live.pcie with due := [39], unmasked := [(0, 39)], msixOn := [0] } }
    (none'.levelOf .net = 2 ∧ none'.bit pgNETroot NET_PATH_STAT_NO_PATH = true ∧
      none'.portState none'.primary.val = 2 ∧ other.portState other.primary.val ≠ 2 ∧
      other.portState (otherPort other.primary).val = 2 ∧ nothing.portState 0 ≠ 2 ∧
      nothing.portState 1 ≠ 2) ∧
    (lead.rd pgNETroot NET_PATH_STAT_ACTIVE = 0 ∧ lead.bit pgNETroot NET_PATH_STAT_NO_PATH = false ∧
      lead.bit pgNETroot NET_PATH_STAT_OVERLAP = false ∧ lead.portState 1 = 2 ∧
      (ports 3 1 0 0).portState 1 ≠ 2 ∧
      (silent.bit pgNETroot NET_PATH_STAT_RIP_SILENT = false ∧ silent.stmRunning 3 = true ∧
        (silent.stmOf 3).src = 0 ∧ silent.net.heard.get 3 = true) ∧
      (lead.wr (pgNET 0) UNIT_CTRL_ENABLE 0).bit (pgNET 0) UNIT_CTRL_ENABLE = false) ∧
    (one.bit pgNETroot NET_PATH_CFG_AUTO_RETURN = true ∧ one.portState one.primary.val = 2 ∧
      one.activeIs (otherPort one.primary).val = true ∧ one.levelOf .net = 2) ∧
    (laps.rd pgNETroot NET_PATH_STAT_ACTIVE = 1 ∧ laps.bit pgNETroot NET_PATH_STAT_OVERLAP = true ∧
      lead.activeIs lead.primary.val = true) ∧ (on pgNETroot lead).Takes .host pgNETroot ∧
    (down.open .gkp (pgNET 1) = true ∧ down.bit (pgNET 1) UNIT_CTRL_ENABLE = false) ∧
    (clocks.bit (pgNET 0) UNIT_CTRL_ENABLE = true ∧ clocks.portState 0 ≠ 4 ∧
      clocks.follyOn (pgNET 0) 1 = false ∧ clocks.pllLocked 12 = true ∧ pcs.bit (pgNET 0) NET_STATUS_PCS_UP = true) ∧
    (hears.listening (hears.rd pgNETroot NET_WAKE_PORT) = true ∧ hears.levelOf .net ≠ 0 ∧
      hears.asleep = false ∧ sleeps.listening (sleeps.rd pgNETroot NET_WAKE_PORT) = true ∧
      sleeps.levelOf .net ≠ 0 ∧ sleeps.asleep = true ∧ (named hears).isWake magic = true ∧
      (named sleeps).isWake magic = true ∧ (named hears).isWake [] = false ∧
      (named hears).bit (pgNET (hears.rd pgNETroot NET_WAKE_PORT)) NET_STATUS_PCS_UP = true) ∧
    (msg.pcie.due.contains 39 = true ∧ msg.vecMasked 0 39 = false ∧ msg.mayMessage 0 = true) :=
  ⟨by decide +kernel, by decide +kernel, by decide +kernel, by decide +kernel,
    takes (by decide +kernel) (by decide +kernel) (by decide +kernel), by decide +kernel, by decide +kernel,
    by decide +kernel, by decide +kernel⟩

/-- The virtual interface is on, with rings of 2 entries; both ports up, port 0 active. -/
def vni : State :=
  let s := on pgNETroot ((ports 3 2 0 0).wr pgNETroot VNI_CTRL_EN 1)
  { s with net := { s.net with vni := { txAddr := 0, txSize := 2, rxAddr := 64, rxSize := 2, fenced := false } } }

def plain : RxFrame :=
  { bytes := List.replicate 14 0xFF, badAt := none, fill := 0, age := 0, fecCorr := 0, fecUncorr := 0 }

/-- A PTP event message of a domain in its own EtherType. -/
def ptpFrame (domain : Byte) : List Byte :=
  List.replicate 12 0xFF ++ [0x88, 0xF7, 0, 2, 0, 34, domain] ++ List.replicate 29 0

/-- An ARP request for 10.0.0.1, to the device's own MAC address. -/
def arp : List Byte :=
  [2, 0, 0, 0, 0, 1] ++ List.replicate 6 0 ++ [0x08, 0x06, 0, 1, 8, 0, 6, 4, 0, 1] ++ List.replicate 16 0 ++
    [10, 0, 0, 1]

/-- A transmit descriptor: 14 bytes, with or without the correction flag, T_REF 0. -/
def desc (flags : Byte) : List Byte := List.replicate 8 0 ++ [14, 0, flags, 0, 0, 0, 0, 0]

theorem met_NetworkFrames :
    let s := vni
    let tx := vni.wr pgNETroot VNI_TX_TAIL_TAIL 1
    let rx := vni.wr pgNETroot VNI_RX_TAIL_TAIL 1
    let tb := on (pgTB 3) tx
    let last := (on (pgTB 0) tb).wr (pgTB 0) TB_NS_NS 0xFFFFFFFF
    let up := last.wr (pgTB 0) TB_STEP_NS 1
    let back := ((on (pgTB 0) tb).wr (pgTB 0) TB_NS_NS 0).wrS (pgTB 0) TB_STEP_NS (-1)
    let dom : Byte := BitVec.ofNat 8 (tb.rd (pgTB 3) TB_CFG_DOMAIN)
    let full : RxFrame := { plain with fill := 0xFFFFF }
    let torn : RxFrame := { plain with badAt := some 13 }
    let tags := List.replicate 12 (0xFF : Byte) ++ [0x81, 0, 0, 1, 0x81, 0, 0, 2, 8, 0]
    let host := ((s.wrAc pgNETroot NET_MAC_HI_ADDR 0x0200).wrAc pgNETroot NET_MAC_LO_ADDR 1).wrAc pgNETroot NET_IPV4_ADDR
      0x0A000001
    (s.levelOf .net = 2 ∧ s.portState 0 = 3 ∧ s.portState 1 = 2 ∧ plain.bytes.length + 4 ≤ 9216 ∧
      s.armedFolly (pgNET 0) = none ∧ ¬ full.fill.toNat + (full.bytes.length + 4) ≤ 2 ^ 20 ∧
      torn.badAt.isSome = true ∧ plain.fill.toNat + (plain.bytes.length + 4) ≤ 2 ^ 20 ∧ plain.badAt = none ∧
      frameTags tags = 2 ∧ frameTags plain.bytes = 0) ∧
    (isPause plain.bytes = false ∧ s.toVni plain.bytes = true ∧ ptpAt plain.bytes = none ∧
      (ptpAt (ptpFrame dom)).isSome = true ∧
      rx.bit pgNETroot VNI_CTRL_EN = true ∧ rx.net.vni.fenced = false ∧ plain.bytes.length ≤ 1522 ∧
      rx.rd pgNETroot VNI_RX_HEAD_HEAD ≠ rx.rd pgNETroot VNI_RX_TAIL_TAIL % max rx.net.vni.rxSize 1) ∧
    (host.toVni arp = false ∧ isPause arp = false ∧ host.activeIs 0 = true ∧ host.answerTo arp = some .arp) ∧
    s.open .gkp pgNETroot = true ∧
    (tx.bit pgNETroot VNI_CTRL_EN = true ∧ tx.net.vni.fenced = false ∧
      tx.rd pgNETroot VNI_TX_HEAD_HEAD ≠ tx.rd pgNETroot VNI_TX_TAIL_TAIL % max tx.net.vni.txSize 1 ∧
      tx.activeIs 0 = true ∧ leAt (fun n => ((desc 0)[n]?).getD 0) 8 2 = 14 ∧
      leAt (fun n => ((desc 0)[n]?).getD 0) 10 1 % 2 = 0 ∧
      leAt (fun n => ((desc 1)[n]?).getD 0) 10 1 % 2 = 1 ∧
      (tb.oneStep (ptpFrame dom) 0 0 0).isSome = true ∧ tb.oneStep plain.bytes 0 0 0 = none) ∧
    s.Takes .host pgNETroot ∧
    (tb.tbRuns 3 = true ∧ (tb.tb.get 3).frac < 2 ^ 32) ∧
    (up.Takes .host (pgTB 0) ∧
      (2 : Int) ^ 32 ≤ (up.rd (pgTB 0) TB_NS_NS : Int) + up.rdS (pgTB 0) TB_STEP_NS ∧
      (last.rd (pgTB 0) TB_NS_NS : Int) + last.rdS (pgTB 0) TB_STEP_NS < 2 ^ 32 ∧
      (back.rd (pgTB 0) TB_NS_NS : Int) + back.rdS (pgTB 0) TB_STEP_NS < 0) ∧
    up.TakesOff .host (pgTB 0) :=
  ⟨by decide +kernel, by decide +kernel, by decide +kernel, by decide +kernel, by decide +kernel,
    takes (by decide +kernel) (by decide +kernel) (by decide +kernel), by decide +kernel,
    ⟨takes (by decide +kernel) (by decide +kernel) (by decide +kernel), by decide +kernel⟩,
    takesOff (by decide +kernel) (by decide +kernel)⟩

/-- Axis 3, enabled, homed, in a state, with a sound profile. -/
def axis (code : Nat) (g : Axis → Axis) : State :=
  let p := pgAXIS 3
  ((((((((shows p code (on p { live with aon := { live.aon with webBreak := false } })).wr p
    AXIS_STATUS_HOMED 1).wr p MOT_V1_V 100).wr p MOT_V_MAX_V 100).wr p MOT_ACC_A1 1).wr p MOT_ACC_A2 1).wr p MOT_DEC_D1 1).wr p
    MOT_DEC_D2 1).updAxis 3 g

def even : Profile := { vStart := 0, v1 := 100, vMax := 100, vStop := 0, a1 := 1, a2 := 1, d1 := 1, d2 := 1 }

theorem met_AxisCommands :
    let idle := axis 1 id
    let table := idle.wr (pgAXIS 3) (MOT_SEG_T 0) 1000
    let moves := axis 2 (fun x => { x with motion := .move even 10 false })
    let bad := axis 7 (fun x => { x with fault := true })
    let lost := bad.wr (pgAXIS 3) AXIS_STATUS_CAUSE 4
    let servo := axis 4 (fun x => { x with motion := .servo even })
    let off : State := { live with aon := { live.aon with webBreak := false } }
    let gang := live.wr pgMOT MOT_ROOT_CFG_GANG 1
    let pair := shows (pgAXIS 1) 7 (shows (pgAXIS 0) 1 (on (pgAXIS 1) (on (pgAXIS 0) gang)))
    3 < idle.part.axes ∧ idle.Takes .host (pgAXIS 3) ∧
    (idle.moveWrong 3 = false ∧ (idle.profile 3).bad = false ∧ table.moveWrong 3 = false ∧
      table.tableBad 3 (1 : BitVec 16).toNat = false ∧ gang.gangSlave 1 = true ∧ gang.gangSlave 0 = false) ∧
    (moves.gangSlave 3 = false ∧ moves.axisState 3 = 2 ∧ (moves.axisOf 3).motion.prof = some even) ∧
    (idle.axisState 3 = 1 ∧ ¬ 3 < 2 ∧ bad.axisState 3 = 7 ∧ bad.limitHeld 3 = false ∧
      lost.axisState 3 = 7 ∧ lost.rd (pgAXIS 3) AXIS_STATUS_CAUSE = 4) ∧
    (pair.gangOf 0 = [0, 1] ∧ pair.placeable 0 = true ∧ pair.placeable 1 = false) ∧
    (servo.axisState 3 = 4 ∧ (servo.axisOf 3).vel = 0 ∧ (servo.axisOf 3).offAtRest = false) ∧
    (idle.axisState 3 ≠ 6 ∧ idle.axisState 3 ≠ 7 ∧ idle.commitOf (pgAXIS 3) = none) ∧
    (off.open .gkp (pgAXIS 3) = true ∧ off.axisOn 3 = false ∧ off.ready = true ∧ off.liftBreak = false ∧
      (off.wr pgTOP TOP_BOOT_STAGE 6).ready = false) ∧
    (idle.axisOn 3 = true ∧ (idle.axisOf 3).resting = true ∧ moves.axisOn 3 = true) :=
  ⟨by decide +kernel, takes (by decide +kernel) (by decide +kernel) (by decide +kernel), by decide +kernel,
    by decide +kernel, by decide +kernel, by decide +kernel, by decide +kernel, by decide +kernel,
    by decide +kernel, by decide +kernel⟩

def seek : Homing := { prof := even, up := true, v := 10, home := 5, range := 1000, start := 0 }

theorem met_AxisMotion :
    let s := fun m => axis 2 (fun x => { x with motion := m })
    let home := s (.homeEnd seek 7)
    let down := s (.move even (-10) false)
    let up := s (.move even 10 false)
    let lost := (s (.search seek)).updAxis 3 (fun x => { x with pos := 1000 * posUnit })
    let held : State := { (up.updAxis 3 (fun x => { x with
      iact := 1000 * up.rd (pgAXIS 3) MOT_I_MT_I_MAX, fe := 2 ^ 20, stallAt := some 0 })) with now := 2 ^ 40 }
    let drives := axis 1 (fun x => { x with chopB := { x.chopB with phase := .drive } })
    (3 < live.part.axes ∧ live.levelOf .mech = 2) ∧
    ((s (.table even [] 0 0 0)).axisOf 3).motion = .table even [] 0 0 0 ∧
    ((s (.stop even 3)).axisOf 3).motion = .stop even 3 ∧
    ((home.axisOf 3).motion = .homeEnd seek 7 ∧ (home.axisOf 3).vel = 0 ∧
      (home.axisOf 3).offAtRest = false ∧ home.liftBreak = false) ∧
    (((s (.servo even)).axisOf 3).motion = .servo even ∧ (3 : Fin 4) ≠ 1) ∧
    ((s (.search seek)).axisOf 3).motion = .search seek ∧
    ((s (.homeBack seek)).axisOf 3).motion = .homeBack seek ∧
    ((up.axisOf 3).motion.homing = false ∧ (up.axisOf 3).heading = 1 ∧ (down.axisOf 3).heading = -1 ∧
      up.bit (pgAXIS 3) MOT_HOME_HOME_DIR = false) ∧
    (up.axisOn 3 = true ∧ (up.axisOf 3).resting = false ∧ ((axis 1 id).axisOf 3).resting = true) ∧
    ((s (.retract 10 5 1)).axisOf 3).motion = .retract 10 5 1 ∧
    ((lost.axisOf 3).motion = .search seek ∧ seek.range ≤ ((lost.axisOf 3).at - seek.start).natAbs) ∧
    (even.vMax ≠ 0 ∧ held.stalled 3 = true ∧ (held.axisOf 3).resting = false) ∧
    (live.noDrive = true ∧ drives.noDrive = false) := by decide +kernel

theorem met_Fountain :
    let s := on pgFNT live
    let bad := shows pgFNT 3 s
    let sat := s.wr pgFNT FNT_STATUS_SAT 1
    let far : State := { s with fnt := { s.fnt with sp := 100000 } }
    let calm : State := { s with fnt := { s.fnt with inRange := 100 } }
    (s.armedFolly pgFNT = none ∧ s.fntOn = true ∧ s.fntState ≠ 3 ∧ bad.fntState = 3 ∧ bad.fntOn = true) ∧
    s.inputOk (s.rd pgMON (MON_RESULT_CODE s.fnt.chan)) = false ∧
    sat.bit pgFNT FNT_STATUS_SAT = true ∧
    (far.fnt.devTold = false ∧ far.rd pgFNT FNT_DEV_DEV_BAND < (far.fnt.spInt - far.fnt.pLast).natAbs) ∧
    (live.open .host pgFNT = true ∧ live.bit pgFNT UNIT_CTRL_ENABLE = false ∧ live.ready = true ∧
      (live.wr pgTOP TOP_BOOT_STAGE 6).ready = false) ∧
    (calm.Takes .gkp pgFNT ∧ 100 ≤ calm.fnt.inRange) :=
  ⟨by decide +kernel, by decide +kernel, by decide +kernel, by decide +kernel, by decide +kernel,
    ⟨takes (by decide +kernel) (by decide +kernel) (by decide +kernel), by decide +kernel⟩⟩

theorem met_Warden :
    let s := live
    let late : State := { live with now := 60000000000 }
    let old : State := { late with wrd := { late.wrd with restarts := [0, 1, 2], lastKick := some 0x5A17 } }
    let three : State := { old with wrd := { old.wrd with restarts := [1, 2, 3] } }
    let swapped : State := { late with wrd := { late.wrd with swapAt := some 1, swap := true } }
    let past : State := { late with wrd := { late.wrd with swapAt := some 0 } }
    let held : State := { on pgWRD three with wrd := { three.wrd with gkp := .held } }
    let mocked := foolish pgWRD 1 live
    let slow := votes 0 { live with aon := { live.aon with perst := false }, pwr := { live.pwr with gkpSys := 1 } }
    (s.watching = true ∧ s.wrd.gkp = .running ∧ three.recent.length = 3 ∧ old.recent.length = 2) ∧
    (s.open .gkp pgWRD = true ∧ s.levelOf .sys = 2 ∧ s.armedFolly pgWRD = none ∧ swapped.swapSoon = true ∧
      old.wrd.swap = false ∧ old.wrd.lastKick = some (0x5A17 : BitVec 16).toNat ∧
      old.wrd.lastKick ≠ some (0xA5E8 : BitVec 16).toNat ∧ past.swapSoon = false) ∧
    (held.Takes .host pgWRD ∧ held.wrd.gkp = .held) ∧ (on pgWRD live).Takes .host pgWRD ∧
    (mocked.follyOn pgWRD 1 = true ∧ mocked.open .gkp pgWRD = true) ∧
    (slow.open .gkp pgWRD = true ∧ slow.levelOf .sys ≠ 2) ∧ s.open .host pgWRD = true :=
  ⟨by decide +kernel, by decide +kernel,
    ⟨takes (by decide +kernel) (by decide +kernel) (by decide +kernel), by decide +kernel⟩,
    takes (by decide +kernel) (by decide +kernel) (by decide +kernel), by decide +kernel, by decide +kernel,
    by decide +kernel⟩

theorem met_Diagnosis :
    let s := on pgGBK live
    let again : State := { live with now := 1000000000, bist := { live.bist with tcmAt := some 0 } }
    let soon : State := { again with now := 999999999 }
    let maps := sched.updTrl 31 (fun x => { x with maps := [mapping false] })
    let user := s.wr pgGBK GBK_USER_NUM_EVENT 0x2FFF
    let far := (s.setWord pgGBK 0x040 5)
    let high : State := { far with gbk := { far.gbk with high := true } }
    (live.wrd.gkp = .running ∧ live.armedFolly pgGKP = none ∧ live.bist.tcmAt = none ∧
      again.bist.tcmAt = some 0 ∧ 1000000000 ≤ again.now - 0 ∧ ¬ 1000000000 ≤ soon.now - 0) ∧
    (live.has (pgTRL 31) = true ∧ live.armedFolly pgBST = none ∧ maps.unit (pgTRL 31) = some (.trl, 31) ∧
      (maps.trlOf 31).maps ≠ [] ∧ live.unit (pgCAM 5) = some (.cam, 5) ∧
      ((port (fun c => { c with queue := [shot] })).camOf 5).queue ≠ []) ∧
    (user.Takes .host pgGBK ∧ user.userNumOk .host = true ∧ user.gbk.queue.length < 64 ∧
      user.userNumOk .gkp = false ∧ user.Takes .gkp pgGBK) ∧
    (far.open .host pgGBK = true ∧ far.gbk.high = false ∧ high.gbk.high = true ∧
      max ((far.wr pgGBK GBK_CFG_THRESH 5).rd pgGBK GBK_CFG_THRESH) 1 ≤
        (far.word pgGBK 0x040 - 0).toNat) :=
  ⟨by decide +kernel, by decide +kernel,
    ⟨takes (by decide +kernel) (by decide +kernel) (by decide +kernel), by decide +kernel, by decide +kernel,
      by decide +kernel, takes (by decide +kernel) (by decide +kernel) (by decide +kernel)⟩,
    by decide +kernel⟩

theorem met_SliceBist :
    let s := on pgBST live
    let names := fun (i waits : Nat) (x : State) =>
      ({ x with bist := { x.bist with forced := some i, waits := waits } } : State)
    let runs := fun (i : Nat) => ({ s with bist := { s.bist with slice := some i, forced := some i } } : State)
    let poor := on pgBST (shows (pgSTM 0) 2 (shows (pgKSK 95) 2 ((dram sched).wr pgDRC DRC_PANIC_RIB_LINES 1)))
    let starved : State := { poor with ing := { poor.ing with waits := [95] } }
    let active := ports 1 3 1 0
    let moved : State := names 97 0 ({ s with bist := { s.bist with moved := [1] } } : State)
    let past := (on pgBST active).wr pgBST BST_POS_NEXT 4208
    (moved.sliceMoved 97 = true ∧ s.sliceMoved 96 = false ∧ s.printRuns = true ∧
      s.bit pgBST UNIT_CTRL_ENABLE = true ∧ s.wrd.gkp = .running ∧ s.bist.slice = none ∧
      (names 95 0 s).sliceDue = some 95 ∧ (names 95 0 s).sliceWaits 95 = false ∧
      (names 96 6 starved).sliceDue = some 96 ∧ (names 96 6 starved).sliceWaits 96 = true ∧
      (names 96 6 starved).bist.waits + 1 < 8 ∧ 8 ≤ (names 96 7 starved).bist.waits + 1) ∧
    live.bit pgBST UNIT_CTRL_ENABLE = false ∧
    ((runs 0).bist.slice = some 0 ∧ (runs 4223).bist.slice = some 4223 ∧ (runs 0).bist.forced = some 0 ∧
      { (runs 0) with bist := { s.bist with slice := some 0 } }.bist.forced ≠ some 0 ∧ s.follies = [] ∧
      (runs 4208).sliceActive 4208 = false ∧ active.sliceActive 4223 = true ∧ active.sliceActive 4192 = false) ∧
    (past.sliceNext = none ∧ past.sliceFrom 0 ≠ none ∧ s.sliceNext ≠ none ∧ (runs 95).bist.slice = some 95) ∧
    s.sliceFrom (4223 + 1) = none ∧ (s.sliceFrom 1).isSome = true ∧ s.bit pgBST BST_STAT_LATE = false ∧
    s.gbk.queue.length < 64 ∧ 95 < s.part.kiosks ∧
    (s.Takes .gkp pgBST ∧ (95 : BitVec 16).toNat ≤ 4223 ∧ s.sliceSkipped 95 = false) ∧
    (s.kind (pgKSK 95) = some .ksk ∧ s.kioskState (pgKSK 95 - pgKSK 0) ≠ 2) :=
  ⟨by decide +kernel, by decide +kernel, by decide +kernel, by decide +kernel, by decide +kernel,
    by decide +kernel, by decide +kernel, by decide +kernel, by decide +kernel,
    ⟨takes (by decide +kernel) (by decide +kernel) (by decide +kernel), by decide +kernel⟩, by decide +kernel⟩

/-- The flash controller is on, a range of firmware slot 1 is named, the buffer lies in DRAM. -/
def flash (a n : Nat) : State := ((on pgFSH (dram live)).wr pgFSH FSH_ADDR_ADDR a).wr pgFSH FSH_LEN_LEN n

/-- An operation runs. -/
def runs (o : FlashOp) : State :=
  let s := flash 0x800000 256
  { s with fsh := { s.fsh with op := some o } }

def opOf (k : FlashKind) (len : Nat) : FlashOp :=
  { kind := k, addr := 0x800000, len := len, buf := 4096, done := 0, page := List.replicate 256 0 }

theorem met_FlashOperations :
    let s := flash 0x800000 256
    let sector := flash 0x801000 4096
    let held := flash 0x7FFF00 256
    let bad : State := { s with poison := [128] }
    let torn := fun (n : Nat) => ({ runs (opOf .program 512) with follies := [(pgFSH, ⟨n, 0, true, none, true, 0⟩)] }
      : State)
    let next : State := { runs (opOf .program 512) with poison := [4096 + 256] }
    let waits : State := { runs (opOf .erase 8192) with fsh := { (runs (opOf .erase 8192)).fsh with fetches := [(7, 4)] } }
    let rd := runs (opOf .read 256)
    let vf := runs (opOf (.verify 3) 1)
    s.Takes .host pgFSH ∧ (s.rangeBad 1 = false ∧ s.bufferOk = true) ∧
    (selfBusy .gkp true = true ∧ selfBusy .host true = false ∧ s.rangeHeld = false ∧ s.rangeBad 256 = false ∧
      (s.readMem 3 s.fshBuf 256).2.2.any id = false ∧ (bad.readMem 3 bad.fshBuf 256).2.2.any id = true ∧
      sector.rangeHeld = false ∧ sector.rangeBad 4096 = false ∧ held.rangeHeld = true) ∧
    ((runs (opOf .program 512)).fsh.op = some (opOf .program 512) ∧ (opOf .program 512).page.length = 256 ∧
      (runs (opOf .program 512)).armedFolly pgFSH = none ∧ 0 + FlashKind.program.step < 512 ∧
      ((runs (opOf .program 512)).readMem 3 (4096 + 256) 256).2.2.any id = false ∧
      (next.readMem 3 (4096 + 256) 256).2.2.any id = true ∧ 0 + FlashKind.erase.step < 8192 ∧
      256 ≤ 0 + FlashKind.program.step ∧ (torn 1).follyOn pgFSH 1 = true) ∧
    (waits.wrd.gkp = .running ∧ waits.stepOp ≠ none ∧ waits.fsh.fetches ≠ [] ∧
      (runs (opOf .erase 8192)).fsh.fetches = [] ∧ rd.stepOp = none ∧ rd.wrd.gkp = .running) ∧
    (rd.fsh.op = some (opOf .read 256) ∧ rd.memGone = false ∧
      ∀ i, i < 256 → rd.byteOk (4096 + i) = true) ∧
    (vf.fsh.op = some (opOf (.verify 3) 1) ∧ vf.armedFolly pgFSH = none ∧ vf.imageOk 3 = false ∧
      ({ vf with follies := (torn 2).follies } : State).follyOn pgFSH 2 = true) :=
  ⟨takes (by decide +kernel) (by decide +kernel) (by decide +kernel), by decide +kernel, by decide +kernel,
    by decide +kernel, by decide +kernel, by decide +kernel, by decide +kernel⟩

/-- Which image verifies rests on the fused boot key, which is free (log 34). -/
theorem met_LiveUpdate :
    let s := (on pgFSH live).wr pgFSH FSH_SLOT_STAT_VERIFIED 15
    let w : State := { s with wrd := { s.wrd with validAt := some 0, lastKick := some 0xA5E8 } }
    let asked := s.wr pgFSH FSH_FW_STAT_REQUESTED 1
    let swaps : State := { asked with wrd := { asked.wrd with swap := true } }
    let early : State := { s with wrd := { s.wrd with swap := true } }
    (w.Takes .host pgFSH ∧ w.verified 1 = true ∧ w.runningSlot = some 0 ∧ w.wardenWatching = true ∧
      live.verified 1 = false ∧ w.verified 3 = true ∧ w.rd pgFSH FSH_CFG_STAT_ACTIVE ≠ 1) ∧
    (({ live with wrd := { live.wrd with gkp := .held } } : State).wardenWatching = false) ∧
    (asked.bit pgFSH FSH_FW_STAT_REQUESTED = true ∧ s.bit pgFSH FSH_FW_STAT_REQUESTED = false) ∧
    ({ asked with wrd := { asked.wrd with gkp := .restarting } } : State).wrd.gkp = .restarting ∧
    (s.open .gkp pgFSH = true ∧ s.wrd.swap = false ∧ early.wrd.swap = true ∧
      early.bit pgFSH FSH_FW_STAT_REQUESTED = false ∧ swaps.wrd.swap = true ∧
      swaps.bit pgFSH FSH_FW_STAT_REQUESTED = true) ∧
    ((shows pgFSH 3 s).rd pgFSH UNIT_STATUS_STATE = 3 ∧ (shows pgFSH 4 s).rd pgFSH UNIT_STATUS_STATE = 4 ∧
      s.rd pgFSH UNIT_STATUS_STATE ≠ 3 ∧ s.rd pgFSH UNIT_STATUS_STATE ≠ 4) ∧ s.open .host pgFSH = true :=
  ⟨⟨takes (by decide +kernel) (by decide +kernel) (by decide +kernel), by decide +kernel⟩, by decide +kernel,
    by decide +kernel, by decide +kernel, by decide +kernel, by decide +kernel, by decide +kernel⟩

/-- The blob of reset holds no point; a blob of the base point reaches the blocked private key.  What a blob
opens to rests on the device's private key, which is free (log 34): the clauses on it hold of whichever blob
opens so. -/
theorem met_StreamKeys :
    let s := on pgGTH live
    let used : State := { s with gth := { s.gth with usedAt := s.gth.usedAt.set 7 (some 0) } }
    let later : State := { used with now := 100000000 }
    let scan := s.wr pgGTH GTH_PERMIT_SCAN 1
    let based := (List.range 24).foldl (fun (t : State) j =>
      t.wr pgGTH (GTH_BLOB_DATA j) (leAt (fun n => ((pubBytes 1)[n]?).getD 0) (4 * j) 4)) s
    let whole := based.wr pgGTH (GTH_BLOB_DATA 24) (((pubBytes 1)[96]?).getD 0).toNat
    let blocked : State := { whole with gth := { whole.gth with blocked := true } }
    s.Takes .host pgGTH ∧
    (s.keyBusy 7 = false ∧ later.keyBusy 7 = false ∧ s.bit pgGTH GTH_PERMIT_SCAN = false ∧
      s.armedFolly pgGTH = none) ∧
    ((readPoint ((s.gthBytes 0x0C0 38).take 97)).isNone = true ∧
      (readPoint ((whole.gthBytes 0x0C0 38).take 97)).isNone = false ∧ whole.gth.blocked = false ∧
      (readPoint ((blocked.gthBytes 0x0C0 38).take 97)).isNone = false ∧ blocked.gth.blocked = true) ∧
    used.keyBusy 7 = true ∧ scan.bit pgGTH GTH_PERMIT_SCAN = true :=
  ⟨takes (by decide +kernel) (by decide +kernel) (by decide +kernel), by decide +kernel, by decide +kernel,
    by decide +kernel⟩

/-- A response of zeros does not verify; which do rests on the unlock authority's key, which is free
(log 34). -/
theorem met_Unlocking :
    let s := on pgGTH live
    let some' := fun (failed : Nat) => ({ s with gth := { s.gth with nonce := true, failed := failed } } : State)
    let locked : State := { s with gth := { s.gth with locked := true } }
    let prints := on pgSDL (some' 0)
    let floor : State := { s with svnFloor := some 254 }
    let zero := shows pgGTH 3 s
    s.Takes .gkp pgGTH ∧ s.gth.locked = false ∧ locked.gth.locked = true ∧ s.gth.nonce = false ∧
    ((some' 2).gth.nonce = true ∧ (some' 2).printing = false ∧ (some' 2).gth.failed = 2 ∧
      (some' 0).armedFolly pgGTH = none ∧ prints.gth.nonce = true ∧ prints.printing = true ∧
      (foolish pgGTH 2 (some' 0)).follyOn pgGTH 2 = true) ∧
    (∀ key digest, ecdsaOk key digest (s.gthBytes 0x1A0 24) = false) ∧
    (floor.floor < (255 : BitVec 16).toNat ∧ floor.runningSlot = some 0 ∧
      (255 : BitVec 16).toNat ≤ (floor.fbyte (slotBase 0 + 6)).toNat ∧
      (floor.fbyte (slotBase 0 + 6)).toNat < (256 : BitVec 16).toNat ∧
      (254 : BitVec 16).toNat ≤ floor.floor) ∧
    (zero.rd pgGTH UNIT_STATUS_STATE = 3 ∧ s.rd pgGTH UNIT_STATUS_STATE ≠ 3) :=
  ⟨takes (by decide +kernel) (by decide +kernel) (by decide +kernel), by decide +kernel, by decide +kernel,
    by decide +kernel, by decide +kernel,
    fun _ _ => by
      have h : beNat (((on pgGTH live).gthBytes 0x1A0 24).take 48) = 0 := by decide +kernel
      simp only [ecdsaOk, h, Nat.lt_irrefl, decide_false, Bool.false_and, Bool.not_false, Bool.true_or, if_true],
    by decide +kernel, by decide +kernel⟩

/-- FIPS 180-4's example "abc", and the entry of the S-box that FIPS 197 spells out. -/
theorem test_sha384 : beNat (sha384 [0x61, 0x62, 0x63]) =
    0xcb00753f45a35e8bb5a03d699ac65007272c32ab0eded1631a8b605a43ff5bed8086072ba1e7cc2358baeca134c825a7 := by
  decide +kernel

theorem test_aes_sub : aesSub 0x53 = 0xED := by decide +kernel

end Sys2Proof.Tests
end

section
/-! PROOFS. What the shared register operations leave alone, in the terms of the statements: memory,
registers, and the rest of the state. -/

namespace Sys2Proof.Machine

/-! ### Memory and registers -/

theorem State.SameMem.of_eq {s t : State} (hm : t.mem = s.mem) (hf : t.flash = s.flash)
    (hp : t.poison = s.poison) : s.SameMem t :=
  ⟨fun a => by unfold State.byte; rw [hm], fun a => by unfold State.fbyte; rw [hf], hp⟩

theorem State.SameMem.trans {s t u : State} (h : s.SameMem t) (h' : t.SameMem u) : s.SameMem u :=
  ⟨fun a => (h'.1 a).trans (h.1 a), fun a => (h'.2.1 a).trans (h.2.1 a), h'.2.2.trans h.2.2⟩

theorem State.SameRegs.of_eq {s t : State} (but : Nat → Nat → Prop) (hp : t.part = s.part)
    (hr : t.regs = s.regs) (ha : t.act = s.act) : s.SameRegs t but :=
  ⟨fun p o _ _ => State.word_of_regs s t hp hr p o, fun p o => State.actWord_of_act s t hp ha p o⟩

theorem State.SameRegs.trans {s t u : State} {but but' : Nat → Nat → Prop} (h : s.SameRegs t but)
    (h' : t.SameRegs u but') : s.SameRegs u (fun p o => but p o ∨ but' p o) :=
  ⟨fun p o ho hn => (h'.1 p o ho (hn ∘ Or.inr)).trans (h.1 p o ho (hn ∘ Or.inl)),
    fun p o => (h'.2 p o).trans (h.2 p o)⟩

theorem State.SameRegs.mono {s t : State} {but but' : Nat → Nat → Prop} (h : s.SameRegs t but)
    (hb : ∀ p o, but p o → but' p o) : s.SameRegs t but' :=
  ⟨fun p o ho hn => h.1 p o ho (hn ∘ hb p o), h.2⟩

variable (s : State)

theorem State.setWord_sameRegs (p o : Nat) (w : Word) (ho : o < 4096) :
    s.SameRegs (s.setWord p o w) (fun q x => q = p ∧ x = o) :=
  ⟨fun _ _ hx hn => State.word_setWord_ne s ho hx (not_and_or.mp hn) w, fun _ _ => rfl⟩

theorem State.wr_sameRegs (p : Nat) (f : Fld) (hf : f.Sound) (v : Nat) :
    s.SameRegs (s.wr p f v) (fun q x => q = p ∧ x = f.off) := s.setWord_sameRegs p f.off _ hf.2.2

theorem State.regAlert_sameRegs (p o c w : Nat) (r : Req) :
    s.SameRegs (s.regAlert p o r c w) (evWords pgGKP) :=
  ⟨fun q x hx hn => s.regAlert_word p o c w q x r hx hn,
    fun q x => State.actWord_of_act s _ (by simp) (by simp) q x⟩

/-! ### The Groundskeeper's alert (R46) -/

/-- An event of a page that is no stream's sends no message of its own (R328). -/
theorem State.setEventBit_emitted (p b : Nat) (h : ∀ i, unitOf s.part p ≠ some (.stm, i)) :
    (s.setEventBit p b).emitted = s.emitted := by
  unfold State.setEventBit State.eventDue
  dsimp only
  split
  · rfl
  · split
    · rename_i i hi
      exact absurd hi (h i)
    · split <;> rfl

theorem unitOf_gbk (part : Part) : unitOf part pgGBK = some (.gbk, 0) := by cases part <;> rfl

theorem unitOf_gkp (part : Part) : unitOf part pgGKP = some (.gkp, 0) := by cases part <;> rfl

theorem State.gbkEntry_emitted (e : GbkEntry) : (s.gbkEntry e).emitted = s.emitted := by
  unfold State.gbkEntry State.gbkPush
  split
  · rename_i h; split at h <;> cases h; rfl
  · simp only [State.incSat_eq, State.addSat_eq, State.wr_emitted]
    rw [State.setEventBit_emitted _ _ _ (by intro i; simp [unitOf_gbk])]
    rfl

theorem State.raiseD_emitted (p b d : Nat) (h : ∀ i, unitOf s.part p ≠ some (.stm, i)) :
    (s.raiseD p b d).emitted = s.emitted := by
  unfold State.raiseD
  split
  · rfl
  · dsimp only
    split
    · rfl
    · split
      · rw [State.gbkEntry_emitted]
        exact s.setEventBit_emitted p b h
      · exact s.setEventBit_emitted p b h

@[simp] theorem State.regAlert_emitted (p o c w : Nat) (r : Req) :
    (s.regAlert p o r c w).emitted = s.emitted :=
  s.raiseD_emitted _ _ _ (by intro i; simp [unitOf_gkp])

end Sys2Proof.Machine
end

section
namespace Sys2Proof.Machine

variable (s : State)

/-! ### Reaching a page -/

theorem State.access_fresh_open (r : Req) (page off : Nat) (f : State → State) (h : s.open r page = true) :
    s.fresh.access r page off f = f (s.reached r page) := by
  rw [State.access_open _ r page off f (by rw [State.fresh_open]; exact h)]; rfl

/-- Reaching a page clears the record of what left the part and touches the power sequencer alone. -/
theorem State.reached_eq (r : Req) (page : Nat) :
    ∃ x, s.reached r page = { s with emitted := [], pwr := x } := by
  unfold State.reached
  obtain ⟨u, hu⟩ := (s.fresh.active r).touch_eq page
  rw [hu]
  unfold State.active
  split <;> exact ⟨_, rfl⟩

@[simp] theorem State.reached_word (r : Req) (page p o : Nat) : (s.reached r page).word p o = s.word p o := by
  obtain ⟨x, h⟩ := s.reached_eq r page; rw [h]; rfl

@[simp] theorem State.reached_rd (r : Req) (page p : Nat) (f : Fld) :
    (s.reached r page).rd p f = s.rd p f := by
  unfold State.rd; rw [State.reached_word]

@[simp] theorem State.reached_bit (r : Req) (page p : Nat) (f : Fld) :
    (s.reached r page).bit p f = s.bit p f := by
  unfold State.bit; rw [State.reached_rd]

@[simp] theorem State.reached_part (r : Req) (page : Nat) : (s.reached r page).part = s.part := by
  obtain ⟨x, h⟩ := s.reached_eq r page; rw [h]

@[simp] theorem State.reached_emitted (r : Req) (page : Nat) : (s.reached r page).emitted = [] := by
  obtain ⟨x, h⟩ := s.reached_eq r page; rw [h]

@[simp] theorem State.reached_commitOf (r : Req) (page p : Nat) :
    (s.reached r page).commitOf p = s.commitOf p := by
  obtain ⟨x, h⟩ := s.reached_eq r page; rw [h]; rfl

@[simp] theorem State.reached_unit (r : Req) (page p : Nat) : (s.reached r page).unit p = s.unit p := by
  unfold State.unit; rw [State.reached_part]

@[simp] theorem State.reached_kind (r : Req) (page p : Nat) : (s.reached r page).kind p = s.kind p := by
  unfold State.kind; rw [State.reached_part]

theorem State.reached_sameMem (r : Req) (page : Nat) : s.SameMem (s.reached r page) := by
  obtain ⟨x, h⟩ := s.reached_eq r page; rw [h]; exact .of_eq rfl rfl rfl

theorem State.reached_sameRegs (r : Req) (page : Nat) (but : Nat → Nat → Prop) :
    s.SameRegs (s.reached r page) but := by
  obtain ⟨x, h⟩ := s.reached_eq r page; rw [h]; exact .of_eq but rfl rfl rfl

/-- A page that a requester reaches has a unit. -/
theorem State.unit_of_open (r : Req) (page : Nat) (h : s.open r page = true) :
    ∃ kd u, s.unit page = some (kd, u) := by
  simp only [State.open, State.has, Bool.and_eq_true] at h
  obtain ⟨x, hx⟩ := Option.isSome_iff_exists.mp h.1.2
  exact ⟨x.1, x.2, hx⟩

/-! ### Refused commands (R43, R46) and dropped writes (R54) -/

theorem State.bit_regAlert (p o c w q : Nat) (f : Fld) (r : Req) (hx : f.off < 4096)
    (h : ¬ evWords pgGKP q f.off) : (s.regAlert p o r c w).bit q f = s.bit q f := by
  unfold State.bit; rw [State.regAlert_rd _ _ _ _ _ _ _ _ hx h]

/-- A mark that is set with an alert stands after it. -/
theorem State.mark_regAlert (p q o c w : Nat) (f : Fld) (r : Req) (hf : f.Sound)
    (h : ¬ evWords pgGKP q f.off) : ((s.wr q f 1).regAlert p o r c w).bit q f = true := by
  have hw : (1 : Nat) % 2 ^ f.width ≠ 0 := by
    have : 2 ≤ 2 ^ f.width := by
      unfold Fld.width; rw [pow_succ]; have : 0 < 2 ^ (f.hi - f.lo) := by positivity
      omega
    rw [Nat.mod_eq_of_lt this]; decide
  rw [State.bit_regAlert _ _ _ _ _ _ _ _ hf.2.2 h, State.bit_wr _ _ _ hf]
  simpa using hw

/-- A write that is dropped on the page that it reached: the whole effect (R54). -/
theorem State.dropWrite_dropped (r : Req) (page off : Nat) :
    s.Dropped ((s.reached r page).dropWrite r page off) r page where
  viol := State.mark_regAlert _ _ _ _ _ _ _ _ (by decide) (not_evWords _ _ _ (by decide) (by decide))
  alert := State.regAlert_raised _ _ _ _ _ _
  mem := (s.reached_sameMem r page).trans
    (.of_eq (by simp [State.dropWrite]) (by simp [State.dropWrite]) (by simp [State.dropWrite]))
  regs := ((s.reached_sameRegs r page (fun _ _ => False)).trans
    (((s.reached r page).wr_sameRegs page UNIT_STATUS_LOCK_VIOL (by decide) 1).trans
      (State.regAlert_sameRegs _ page off 0 2 r))).mono (by
        rintro p o (h | h)
        · exact h.elim
        · exact h)
  rest := by
    obtain ⟨x, h⟩ := s.reached_eq r page
    rw [h]
    simp [State.dropWrite]

theorem State.refuse_refused (r : Req) (page off code n : Nat) :
    (s.refuse r page off code n).bit page UNIT_STATUS_CMD_REFUSED = true := by
  rw [State.refuse_eq]
  exact State.mark_regAlert _ _ _ _ _ _ _ _ (by decide) (not_evWords _ _ _ (by decide) (by decide))

theorem State.refuse_cmdResult (r : Req) (page off code n : Nat) :
    (s.refuse r page off code n).cmdResult r page =
      BitVec.ofNat 32 (code + s.stateCode page * 2 ^ 16 + n * 2 ^ 24) := by
  rw [State.refuse_eq, State.cmdResult_regAlert, State.cmdResult_wr, State.cmdResult_setResult]

theorem State.refuse_cmdResult_ne (r r' : Req) (page q off code n : Nat) (h : r' ≠ r ∨ q ≠ page) :
    (s.refuse r page off code n).cmdResult r' q = s.cmdResult r' q := by
  rw [State.refuse_eq, State.cmdResult_regAlert, State.cmdResult_wr,
    State.cmdResult_setResult_ne _ _ _ _ _ _ _ _ h]

theorem State.refuse_raised (r : Req) (page off code n : Nat) :
    (s.refuse r page off code n).Raised pgGKP 0 := by
  rw [State.refuse_eq]; exact State.regAlert_raised _ _ _ _ _ _

theorem State.refuse_sameMem (r : Req) (page off code n : Nat) :
    s.SameMem (s.refuse r page off code n) := by
  rw [State.refuse_eq]; exact .of_eq (by simp) (by simp) (by simp)

theorem State.refuse_sameRegs (r : Req) (page off code n : Nat) :
    s.SameRegs (s.refuse r page off code n)
      (fun p o => (p = page ∧ o = 0x010) ∨ evWords pgGKP p o) := by
  rw [State.refuse_eq]
  have hr : s.SameRegs (s.setResult r page code (s.stateCode page) n) (fun _ _ => False) :=
    .of_eq _ (by simp) (by simp) (by simp)
  refine (hr.trans ((State.wr_sameRegs _ page UNIT_STATUS_CMD_REFUSED (by decide) 1).trans
    (State.regAlert_sameRegs _ page off n 1 r))).mono ?_
  rintro p o (h | h)
  · exact h.elim
  · exact h

theorem State.refuse_rest (r : Req) (page off code n : Nat) :
    { s.refuse r page off code n with
        regs := s.regs, gbk := s.gbk, pcie := s.pcie, follies := s.follies,
        host := s.host, gkpSide := s.gkpSide } = s := by
  rw [State.refuse_eq]; simp

end Sys2Proof.Machine
end

section
namespace Sys2Proof.Machine

variable (s : State)

/-! ### Rows of the table as accesses -/

/-- Every row that writes `UNIT_CMD` is a command as R43 has it, with what R44 and the chapters say of its
argument and of a disabled unit. -/
theorem exec_cmdOf (c : Instr) (k : Cmd) (h : cmdOf c = some k) :
    ∃ causes effect, exec c s =
      .next (command k.r k.page k.code k.arg k.zeroArg k.whenOff causes effect s.fresh) := by
  cases c
  all_goals
    simp only [cmdOf, reduceCtorEq, Option.some.injEq] at h
  all_goals
    subst h
    exact ⟨_, _, rfl⟩

/-- Every row that writes a register is an access to its page, but for a write of `UNIT_CMD` through
REGISTER_WRITE, which is the command that it spells (R43; log 12). -/
theorem exec_writesOf (c : Instr) (r : Req) (page off : Nat) (h : writesOf c = some (r, page, off))
    (hw : ∀ r p o be v, c ≠ .registerWrite r p o be v) :
    ∃ f, exec c s = .next (s.fresh.access r page off f) := by
  cases c
  case registerWrite r p o be v => exact absurd rfl (hw r p o be v)
  case scheduleDisable r h' =>
    cases h' <;>
    · simp only [writesOf, Option.some.injEq, Prod.mk.injEq] at h
      obtain ⟨rfl, rfl, rfl⟩ := h
      exact ⟨_, rfl⟩
  case trlTblAccess r h' w write =>
    cases write
    · cases h
    · simp only [writesOf, Option.some.injEq, Prod.mk.injEq] at h
      obtain ⟨rfl, rfl, rfl⟩ := h
      exact ⟨_, rfl⟩
  case camTblAccess r k write =>
    cases write
    · cases h
    · simp only [writesOf, Option.some.injEq, Prod.mk.injEq] at h
      obtain ⟨rfl, rfl, rfl⟩ := h
      exact ⟨_, rfl⟩
  case kioskWithdraw r p arg =>
    simp only [writesOf, Option.some.injEq, Prod.mk.injEq] at h
    obtain ⟨rfl, rfl, rfl⟩ := h
    obtain ⟨causes, effect, he⟩ := exec_cmdOf s (.kioskWithdraw r p arg) _ rfl
    exact ⟨_, he⟩
  case kioskReturn r p arg =>
    simp only [writesOf, Option.some.injEq, Prod.mk.injEq] at h
    obtain ⟨rfl, rfl, rfl⟩ := h
    obtain ⟨causes, effect, he⟩ := exec_cmdOf s (.kioskReturn r p arg) _ rfl
    exact ⟨_, he⟩
  all_goals
    simp only [writesOf, reduceCtorEq, Option.some.injEq, Prod.mk.injEq] at h
  all_goals
    obtain ⟨rfl, rfl, rfl⟩ := h
    exact ⟨_, rfl⟩

/-- Every row that reads a register is a read access to its page. -/
theorem exec_readsOf (c : Instr) (r : Req) (page : Nat) (h : readsOf c = some (r, page)) :
    ∃ f, exec c s = .next (s.fresh.readAccess r page f) := by
  cases c
  case trlTblAccess r h' w write =>
    cases write
    · simp only [readsOf, Option.some.injEq, Prod.mk.injEq] at h
      obtain ⟨rfl, rfl⟩ := h
      exact ⟨_, rfl⟩
    · cases h
  case camTblAccess r k write =>
    cases write
    · simp only [readsOf, Option.some.injEq, Prod.mk.injEq] at h
      obtain ⟨rfl, rfl⟩ := h
      exact ⟨_, rfl⟩
    · cases h
  all_goals
    simp only [readsOf, reduceCtorEq, Option.some.injEq, Prod.mk.injEq] at h
  all_goals
    obtain ⟨rfl, rfl⟩ := h
    exact ⟨_, rfl⟩

/-- A write through REGISTER_WRITE that spells no command is an access to its page. -/
theorem exec_registerWrite (r : Req) (page off : BitVec 12) (be : BitVec 4) (v : Word)
    (h : writtenCommand s.part r page.toNat (off.toNat / 4 * 4) be v = none) :
    exec (.registerWrite r page off be v) s =
      .next (s.fresh.regWrite r page.toNat (off.toNat / 4 * 4) be v) := by
  simp only [exec, execRegisterWrite, h]; rfl

theorem writtenCommand_off (part : Part) (r : Req) (page off : Nat) (be : BitVec 4) (v : Word)
    (h : off ≠ 0x01C) : writtenCommand part r page off be v = none := by
  simp [writtenCommand, h]

theorem writtenCommand_be (part : Part) (r : Req) (page off : Nat) (be : BitVec 4) (v : Word)
    (h : be ≠ 0xF) : writtenCommand part r page off be v = none := by
  unfold writtenCommand
  rw [if_pos (Or.inr h)]

theorem writtenCommand_absent (part : Part) (r : Req) (page off : Nat) (be : BitVec 4) (v : Word)
    (h : unitOf part page = none) : writtenCommand part r page off be v = none := by
  simp [writtenCommand, h]

/-! ### Absent pages (R42) -/

theorem State.active_unserved (r : Req) (h : s.served r = false) : s.active r = s := by
  simp [State.active, h]

theorem State.access_of_absent (r : Req) (page off : Nat) (f : State → State)
    (h : s.has page = false) : s.access r page off f = s.active r := by
  cases hs : s.served r
  · rw [State.access_unserved _ _ _ _ _ hs, State.active_unserved _ _ hs]
  · exact State.access_absent s r page off f hs h

/-- Settles O5: every writing row is an access to its page, every reading row a read access, and neither
does anything on a page that has no unit. -/
theorem absentPage : Obligations.AbsentPage := by
  intro s r page hp
  have hf : s.fresh.has page = false := hp
  refine ⟨fun c off hc => ?_, fun c hc => ?_⟩
  · by_cases hw : ∃ r p o be v, c = .registerWrite r p o be v
    · obtain ⟨r', p, o, be, v, rfl⟩ := hw
      simp only [writesOf, Option.some.injEq, Prod.mk.injEq] at hc
      obtain ⟨rfl, rfl, rfl⟩ := hc
      have hu : unitOf s.part p.toNat = none := by simpa [State.has] using hp
      rw [exec_registerWrite s _ _ _ _ _ (writtenCommand_absent _ _ _ _ _ _ hu)]
      exact congrArg _ (State.access_of_absent _ _ _ _ _ hf)
    · obtain ⟨f, h⟩ := exec_writesOf s c r page off hc
        (fun r p o be v e => hw ⟨r, p, o, be, v, e⟩)
      rw [h, State.access_of_absent _ _ _ _ _ hf]
  · obtain ⟨f, h⟩ := exec_readsOf s c r page hc
    have ho : s.fresh.open r page = false := by simp [State.open, hf]
    rw [h, State.readAccess, ho]
    rfl

/-! ### Refusals (R43) -/

theorem State.judge_refuses (r : Req) (page code : Nat) (arg : BitVec 16) (zeroArg whenOff : Bool)
    (causes : List (Bool × Nat)) (effect : State → State) (n : Nat) (hn : n ≠ 0)
    (h : firstCause ((s.bit page UNIT_STATUS_CMD_BUSY, rcBUSY) ::
      (!whenOff && !s.enabled page, rcDISABLED) :: (zeroArg && arg != 0, rcBAD_ARG) :: causes) = n) :
    s.judge r page code arg zeroArg whenOff causes effect = s.refuse r page 0x01C code n := by
  simp only [State.judge, h, if_neg hn]

@[simp] theorem State.reached_enabled (r : Req) (page p : Nat) :
    (s.reached r page).enabled p = s.enabled p := by
  unfold State.enabled; rw [State.reached_kind]; simp

/-- Settles O7: a row that writes `UNIT_CMD` is a command, and a command's first cause is BUSY, then
DISABLED, then BAD_ARG for an argument given as 0; what a refusal does is said of `State.refuse`. -/
theorem refusals : Obligations.Refusals := by
  refine ⟨fun s c k hk ho => ?_, fun s r page off code n => ?_⟩
  · obtain ⟨causes, effect, he⟩ := exec_cmdOf s c k hk
    have hj : exec c s = .next ((s.reached k.r k.page).judge k.r k.page k.code k.arg k.zeroArg k.whenOff
        (causes (s.reached k.r k.page)) effect) := by
      rw [he, command, State.access_fresh_open _ _ _ _ _ ho]
    refine ⟨fun hb => ?_, fun hb hw hen => ?_, fun hb hw hz ha => ?_⟩
    · rw [hj, State.judge_refuses _ _ _ _ _ _ _ _ _ rcBUSY (by decide)]
      simp [firstCause, hb]
    · rw [hj, State.judge_refuses _ _ _ _ _ _ _ _ _ rcDISABLED (by decide)]
      simp [firstCause, hb, hw, hen]
    · rw [hj, State.judge_refuses _ _ _ _ _ _ _ _ _ rcBAD_ARG (by decide)]
      have hd : (!k.whenOff && !s.enabled k.page) = false := by rcases hw with hw | hw <;> simp [hw]
      have ha' : (k.zeroArg && k.arg != 0) = true := by simp only [hz, Bool.true_and, bne_iff_ne]; exact ha
      simp only [firstCause, State.reached_bit, State.reached_enabled, hb, hd, ha', if_true,
        Bool.false_eq_true, if_false]
  · exact ⟨s.refuse_refused r page off code n, s.refuse_cmdResult r page off code n,
      fun r' q h => s.refuse_cmdResult_ne r r' page q off code n h, s.refuse_raised r page off code n,
      s.refuse_sameMem r page off code n, s.refuse_sameRegs r page off code n,
      s.refuse_rest r page off code n⟩

end Sys2Proof.Machine
end

section
namespace Sys2Proof.Machine

variable (s : State)

/-! ### Behind the fabric (R192, R253) -/

@[simp] theorem State.reached_flows (r : Req) (page p : Nat) : (s.reached r page).flows p = s.flows p := by
  obtain ⟨x, h⟩ := s.reached_eq r page; rw [h]; rfl

@[simp] theorem State.reached_indexHeld (r : Req) (page p off : Nat) :
    (s.reached r page).indexHeld p off = s.indexHeld p off := by
  obtain ⟨x, h⟩ := s.reached_eq r page; rw [h]; rfl

/-- A write behind nothing that the fabric holds, of a word that it does not hold either, goes through. -/
theorem State.behind_flows (r : Req) (page off : Nat) (v : Word) (f : State → State)
    (h : s.flows page = true) (hi : s.indexHeld page off = false) :
    s.behind r page off v f = f s := by
  unfold State.flows at h
  unfold State.indexHeld at hi
  unfold State.behind
  split
  · rename_i hu
    rw [hu] at h hi
    simp_all
  · rename_i hu
    rw [hu] at h hi
    simp_all
  · rfl

/-- The window's index is the only word that the fabric holds of itself. -/
theorem State.indexHeld_off (page off : Nat) (h1 : off ≠ 0x04C) (h2 : off ≠ 0x0C4) :
    s.indexHeld page off = false := by
  unfold State.indexHeld
  split <;> simp [h1, h2]

/-! ### Arms that the Gatehouse forbids (R45) -/

theorem State.writeArm_forbidden (r : Req) (page : Nat) (h : s.bit pgGTH GTH_PERMIT_INJECT = false) :
    s.writeArm r page 0xF011 = s.refuse r page 0x034 0xFFFF rcNOT_PERMITTED := by
  have hc : s.armCause page = rcNOT_PERMITTED := by
    unfold State.armCause
    simp only [firstCause, h, Bool.not_false, if_true]
  unfold State.writeArm
  rw [hc]
  rfl

theorem State.endMarks_follies_length (p b : Nat) :
    (s.endMarks p b).follies.length ≤ s.follies.length := by
  unfold State.endMarks
  exact List.length_filter_le _ _

theorem State.raiseD_follies_length (p b d : Nat) : (s.raiseD p b d).follies.length ≤ s.follies.length := by
  have h : ((s.setEventBit p b).endMarks p b).follies.length ≤ s.follies.length :=
    ((s.setEventBit p b).endMarks_follies_length p b).trans (by simp)
  unfold State.raiseD
  split
  · exact le_rfl
  · dsimp only
    split
    · exact le_rfl
    · split
      · simpa using h
      · exact h

theorem State.refuse_follies_length (r : Req) (page off code n : Nat) :
    (s.refuse r page off code n).follies.length ≤ s.follies.length := by
  rw [State.refuse_eq]
  exact (State.raiseD_follies_length _ _ _ _).trans (by simp)

/-- Settles O17: the first cause that an arm meets is the Gatehouse's. -/
theorem armForbidden : Obligations.ArmForbidden := by
  intro s r page ho hf hp
  refine ⟨(s.reached r page.toNat).refuse r page.toNat 0x034 0xFFFF rcNOT_PERMITTED, ?_, rfl,
    State.refuse_cmdResult _ _ _ _ _ _, State.refuse_refused _ _ _ _ _ _, ?_⟩
  · have e : exec (.follyArm r page 0xF011) s = .next (s.fresh.access r page.toNat 0x034 (fun t =>
        t.behind r page.toNat 0x034 (BitVec.ofNat 32 0xF011)
          (fun x => x.writeArm r page.toNat 0xF011))) := rfl
    rw [e, State.access_fresh_open _ _ _ _ _ ho, State.behind_flows _ _ _ _ _ _ (by simpa using hf)
      (State.indexHeld_off _ _ _ (by decide) (by decide)),
      State.writeArm_forbidden _ _ _ (by simpa using hp)]
  · obtain ⟨x, h⟩ := s.reached_eq r page.toNat
    exact (State.refuse_follies_length _ _ _ _ _ _).trans (by rw [h])

/-! ### Writes of a live result's words (R56) -/

/-- What each requester holds of its own is as it was. -/
def State.SameSides (s t : State) : Prop := t.host = s.host ∧ t.gkpSide = s.gkpSide

theorem State.SameSides.snapSlot {s t : State} (h : s.SameSides t) (r : Req) (p : Nat) :
    t.snapSlot r p = s.snapSlot r p := by
  cases r
  · simp only [State.snapSlot, State.side, h.1]
  · simp only [State.snapSlot, State.side, h.2]

/-- An access leaves both requesters' sides where its effect on the page does. -/
theorem State.access_sameSides (r : Req) (page off : Nat) (f : State → State)
    (h : ∀ t : State, t.part = s.part → t.SameSides (f t)) : s.SameSides (s.access r page off f) := by
  unfold State.access
  split
  · exact ⟨rfl, rfl⟩
  · split
    · exact ⟨by simp, by simp⟩
    · split
      · exact ⟨by simp, by simp⟩
      · obtain ⟨h1, h2⟩ := h ((s.active r).touch page) (by simp)
        exact ⟨h1.trans (by simp), h2.trans (by simp)⟩

theorem State.behind_sameSides (r : Req) (page off : Nat) (v : Word) (f : State → State)
    (h : s.SameSides (f s)) : s.SameSides (s.behind r page off v f) := by
  unfold State.behind
  split
  · split
    · exact h
    · exact ⟨by simp, by simp⟩
  · split
    · exact h
    · exact ⟨by simp, by simp⟩
  · exact h

end Sys2Proof.Machine
end

section
namespace Sys2Proof.Machine

variable (s : State)

/-- Words of a block whose write is judged field by field and sets nothing off on its way (R54). -/
def plainWord (kd : Kind) (off : Nat) : Bool :=
  decide (0x040 ≤ off) &&
    match kd with
    | .pwr => decide (0x05C ≤ off) && off != 0x070
    | .netRoot => off != 0x070
    | .trl => decide (off < 0x050) || decide (0x060 ≤ off)
    | .cam => off != 0x0C8
    | .pav => off != 0x060
    | _ => true

theorem State.wordWrite_plain (r : Req) (kd : Kind) (u page off : Nat) (v : Word)
    (h : plainWord kd off = true) :
    s.wordWrite r kd u page off v = s.fieldWrite r kd u page off v := by
  simp only [plainWord, Bool.and_eq_true, decide_eq_true_eq] at h
  obtain ⟨h0, hk⟩ := h
  unfold State.wordWrite
  dsimp only
  split
  · omega
  · omega
  · omega
  · omega
  · omega
  · split
    · simp only [Bool.and_eq_true, decide_eq_true_eq, bne_iff_ne] at hk
      rw [if_neg (by omega), if_neg hk.2]
    · rw [if_neg (by simpa using hk)]
    · simp only [Bool.or_eq_true, decide_eq_true_eq] at hk
      rw [if_neg (by omega)]
    · rw [if_neg (by simpa using hk)]
    · have : off ≠ 0x060 := by simpa using hk
      rw [if_neg (by omega)]
    · rfl

/-- A word without a field that a write can change takes no write. -/
theorem State.fieldWrite_fixed (r : Req) (kd : Kind) (u page off : Nat) (v : Word)
    (h : (fieldsAt kd off).filter (fun x => !x.fixed) = []) : s.fieldWrite r kd u page off v = s := by
  unfold State.fieldWrite
  simp [h]

/-- The words of a live result stand beyond the header and outside every window, and have no field that a
write can change. -/
theorem liveLo_plain (kd : Kind) : ∀ o ∈ liveLo kd, ∀ x ∈ [o, o + 4],
    plainWord kd x = true ∧ (fieldsAt kd x).filter (fun r => !r.fixed) = [] := by
  cases kd <;> decide

theorem State.isLive_iff (page off : Nat) (high : Bool) : s.isLive page off high = true ↔
    ∃ kd, s.kind page = some kd ∧ ∃ o ∈ liveLo kd, off = if high then o + 4 else o := by
  unfold State.isLive
  cases s.kind page with
  | none => simp
  | some kd =>
    simp only [List.any_eq_true, beq_iff_eq, Option.some.injEq, exists_eq_left']
    exact exists_congr fun o => and_congr_right fun _ => eq_comm

/-- Both words of a live result, whichever it is. -/
theorem State.live_plain (page off : Nat) (kd : Kind) (hk : s.kind page = some kd)
    (h : s.isLive page off false = true ∨ s.isLive page off true = true) :
    plainWord kd off = true ∧ (fieldsAt kd off).filter (fun r => !r.fixed) = [] := by
  simp only [State.isLive_iff, hk, Option.some.injEq] at h
  rcases h with ⟨kd', rfl, o, ho, he⟩ | ⟨kd', rfl, o, ho, he⟩
  · exact liveLo_plain _ o ho _ (by simp [he])
  · exact liveLo_plain _ o ho _ (by simp [he])

theorem plainWord_block (kd : Kind) (off : Nat) (h : plainWord kd off = true) : 0x040 ≤ off := by
  simp only [plainWord, Bool.and_eq_true, decide_eq_true_eq] at h
  exact h.1

theorem State.kind_of_unit {page : Nat} {kd : Kind} {u : Nat} (h : s.unit page = some (kd, u)) :
    s.kind page = some kd := by
  unfold State.kind kindOf; unfold State.unit at h; rw [h]; rfl

/-- Settles O12: a write of such a word is dropped for its byte enables, waits in the page's fabric, or
finds no field that it can change; none of this is a requester's own. -/
theorem liveWriteKeepsSlots : Obligations.LiveWriteKeepsSlots := by
  intro s r page off be v hl
  have ⟨kd, hk⟩ : ∃ kd, s.kind page.toNat = some kd := by
    rcases hl with h | h <;> exact ((s.isLive_iff _ _ _).mp h).imp fun _ => And.left
  obtain ⟨hp, hx⟩ := s.live_plain _ _ kd hk hl
  have h0 := plainWord_block _ _ hp
  rw [exec_registerWrite s _ _ _ _ _ (writtenCommand_off _ _ _ _ _ _ (by omega))]
  refine ⟨_, rfl, fun r' q => State.SameSides.snapSlot (s := s) ?_ r' q⟩
  refine State.access_sameSides s.fresh r _ _ _ (fun t ht => ?_)
  have htk : t.kind page.toNat = some kd := by unfold State.kind at *; rw [ht]; exact hk
  split
  · exact ⟨by simp, by simp⟩
  · rw [if_neg (by omega)]
    split
    · exact ⟨rfl, rfl⟩
    · rename_i kd' u hu
      obtain rfl : kd' = kd := Option.some.inj ((t.kind_of_unit hu).symm.trans htk)
      refine t.behind_sameSides r _ _ v _ ?_
      rw [State.wordWrite_plain _ _ _ _ _ _ _ hp, State.fieldWrite_fixed _ _ _ _ _ _ _ hx]
      exact ⟨rfl, rfl⟩

end Sys2Proof.Machine
end

section
/-! PROOFS. Reads of live results (R55). -/

namespace Sys2Proof.Machine

/-- Words whose read moves no queue and no window on (R55, R156, R192, R272). -/
def plainRead (kd : Kind) (off : Nat) : Bool :=
  match kd with
  | .ing => off != 0x058
  | .qlp => off != 0x070 && off != 0x078
  | .trl => decide (off < 0x04C) || decide (0x060 ≤ off)
  | .cam => off != 0x0C8 && off != 0x0C4
  | _ => true

theorem liveLo_read (kd : Kind) : ∀ o ∈ liveLo kd,
    (kd ≠ .ing → (kd = .qlp → o = 0x080) → plainRead kd o = true) ∧ plainRead kd (o + 4) = true ∧
      o + 4 ∉ liveLo kd := by
  cases kd <;> decide

variable (s : State)

theorem State.readFirst_plain (r : Req) (page off : Nat) (kd : Kind) (u : Nat)
    (hu : s.unit page = some (kd, u)) (h : plainRead kd off = true) :
    s.readFirst r page off =
      if s.isLive page off false then
        s.readLo r page (s.readWord r page off) [(off + 4, s.readWord r page (off + 4))]
      else if s.isLive page off true then s.readHi r page off (s.readWord r page off)
      else s.emit (.readData r (s.readWord r page off)) := by
  unfold State.readFirst
  rw [hu]
  dsimp only
  split
  · rename_i e
    cases e
    rw [if_neg (by simpa [plainRead] using h)]
  · rename_i e
    cases e
    simp only [plainRead, Bool.and_eq_true, bne_iff_ne] at h
    rw [if_neg h.1, if_neg h.2]
  · rename_i e
    cases e
    simp only [plainRead, Bool.or_eq_true, decide_eq_true_eq] at h
    rw [if_neg (by omega), if_neg (by omega)]
  · rename_i e
    cases e
    simp only [plainRead, Bool.and_eq_true, bne_iff_ne] at h
    rw [if_neg h.1, if_neg (by omega)]
  · rfl

/-- What a live result's words answer does not depend on how its page was reached. -/
theorem State.readWord_reached (r : Req) (page : Nat) (kd : Kind) (u : Nat)
    (hu : s.unit page = some (kd, u)) : ∀ o ∈ liveLo kd, ∀ x ∈ [o, o + 4],
    (s.reached r page).readWord r page x = s.readWord r page x := by
  obtain ⟨pw, h⟩ := s.reached_eq r page
  have hu' : (s.reached r page).unit page = some (kd, u) := by rw [State.reached_unit, hu]
  rw [h] at hu' ⊢
  simp only [State.readWord, hu, hu']
  cases kd
  all_goals simp only [liveLo, List.forall_mem_cons, List.not_mem_nil, false_imp_iff, implies_true, and_true]
  all_goals and_intros
  all_goals rfl

/-! ### A requester's slots and marks -/

theorem State.snapSlot_setSlot (r : Req) (p : Nat) (x : List (Nat × Word)) :
    (s.setSlot r p x).snapSlot r p = x := by
  unfold State.snapSlot State.setSlot
  rw [State.side_setSide, if_pos rfl]
  exact Tbl.get_set_self _ _ _ _

theorem State.snapSlot_setSlot_ne (r r' : Req) (p q : Nat) (x : List (Nat × Word)) (h : r' ≠ r ∨ q ≠ p) :
    (s.setSlot r p x).snapSlot r' q = s.snapSlot r' q := by
  unfold State.snapSlot State.setSlot
  rw [State.side_setSide]
  split
  · rename_i e; subst e
    exact Tbl.get_set_ne _ _ (by simpa using h) _ _
  · rfl

theorem State.snapStale_setSlot (r r' : Req) (p q : Nat) (x : List (Nat × Word)) :
    (s.setSlot r p x).snapStale r' q = s.snapStale r' q := by
  unfold State.snapStale State.setSlot
  rw [State.side_setSide]
  split
  · rename_i e; subst e; rfl
  · rfl

theorem State.snapStale_setStale (r : Req) (p : Nat) (b : Bool) : (s.setStale r p b).snapStale r p = b := by
  unfold State.snapStale State.setStale
  rw [State.side_setSide, if_pos rfl]
  exact Tbl.get_set_self _ _ _ _

theorem State.snapStale_setStale_ne (r r' : Req) (p q : Nat) (b : Bool) (h : r' ≠ r ∨ q ≠ p) :
    (s.setStale r p b).snapStale r' q = s.snapStale r' q := by
  unfold State.snapStale State.setStale
  rw [State.side_setSide]
  split
  · rename_i e; subst e
    exact Tbl.get_set_ne _ _ (by simpa using h) _ _
  · rfl

theorem State.snapSlot_setStale (r r' : Req) (p q : Nat) (b : Bool) :
    (s.setStale r p b).snapSlot r' q = s.snapSlot r' q := by
  unfold State.snapSlot State.setStale
  rw [State.side_setSide]
  split
  · rename_i e; subst e; rfl
  · rfl

/-- What is sent changes neither slots nor marks. -/
theorem State.snapSlot_emit (o : Emission) (r : Req) (p : Nat) : (s.emit o).snapSlot r p = s.snapSlot r p := by
  cases r <;> rfl

theorem State.snapStale_emit (o : Emission) (r : Req) (p : Nat) :
    (s.emit o).snapStale r p = s.snapStale r p := by
  cases r <;> rfl

@[simp] theorem State.reached_host (r : Req) (p : Nat) : (s.reached r p).host = s.host := by
  obtain ⟨x, h⟩ := s.reached_eq r p; rw [h]

@[simp] theorem State.reached_gkpSide (r : Req) (p : Nat) : (s.reached r p).gkpSide = s.gkpSide := by
  obtain ⟨x, h⟩ := s.reached_eq r p; rw [h]

@[simp] theorem State.reached_snapSlot (r r' : Req) (p q : Nat) :
    (s.reached r p).snapSlot r' q = s.snapSlot r' q := by
  cases r' <;> simp [State.snapSlot, State.side]

@[simp] theorem State.reached_snapStale (r r' : Req) (p q : Nat) :
    (s.reached r p).snapStale r' q = s.snapStale r' q := by
  cases r' <;> simp [State.snapStale, State.side]

@[simp] theorem State.reached_isLive (r : Req) (p q off : Nat) (high : Bool) :
    (s.reached r p).isLive q off high = s.isLive q off high := by
  unfold State.isLive; rw [State.reached_kind]

/-! ### The answers -/

/-- The read of a `_LO` word, in full. -/
theorem State.readLo_effect (r : Req) (page : Nat) (w : Word) (x : List (Nat × Word)) :
    let t := (s.reached r page).readLo r page w x
    t.emitted = [.readData r w] ∧ t.snapSlot r page = x ∧
      (∀ r' q, r' ≠ r ∨ q ≠ page → t.snapSlot r' q = s.snapSlot r' q) ∧ s.SameMem t ∧
      { t with emitted := [], host := s.host, gkpSide := s.gkpSide } = s.reached r page := by
  refine ⟨?_, ?_, fun r' q h => ?_, ?_, ?_⟩
  · simp [State.readLo, State.emit]
  · rw [State.readLo, State.snapSlot_emit, State.snapSlot_setSlot]
  · rw [State.readLo, State.snapSlot_emit, State.snapSlot_setSlot_ne _ _ _ _ _ _ h, State.reached_snapSlot]
  · refine (s.reached_sameMem r page).trans (.of_eq ?_ ?_ ?_) <;> simp [State.readLo, State.emit]
  · obtain ⟨y, h⟩ := s.reached_eq r page
    rw [h]
    cases r <;> rfl

/-- The read of a `_HI` word, in full: from the slot, which loses it, or else of the live value. -/
theorem State.readHi_effect (r : Req) (page off : Nat) (w : Word) :
    let t := (s.reached r page).readHi r page off w
    (∀ x, (s.snapSlot r page).lookup off = some x → t.emitted = [.readData r x] ∧
      (t.snapSlot r page).lookup off = none ∧ t.snapStale r page = s.snapStale r page) ∧
    ((s.snapSlot r page).lookup off = none → t.emitted = [.readData r w] ∧
      t.snapSlot r page = s.snapSlot r page ∧ t.snapStale r page = true) ∧
    (∀ r' q, r' ≠ r ∨ q ≠ page → t.snapSlot r' q = s.snapSlot r' q ∧
      t.snapStale r' q = s.snapStale r' q) ∧ s.SameMem t ∧
    { t with emitted := [], host := s.host, gkpSide := s.gkpSide } = s.reached r page := by
  have hm : s.SameMem ((s.reached r page).readHi r page off w) := by
    refine (s.reached_sameMem r page).trans (.of_eq ?_ ?_ ?_) <;>
    · unfold State.readHi
      split <;> simp [State.emit]
  have hr : { (s.reached r page).readHi r page off w with
      emitted := [], host := s.host, gkpSide := s.gkpSide } = s.reached r page := by
    unfold State.readHi
    obtain ⟨y, h⟩ := s.reached_eq r page
    rw [h]
    split <;> cases r <;> rfl
  cases hl : (s.snapSlot r page).lookup off with
  | some x =>
    have e : (s.reached r page).readHi r page off w = ((s.reached r page).setSlot r page
        ((s.snapSlot r page).filter (fun e => e.1 != off))).emit (.readData r x) := by
      simp only [State.readHi, State.reached_snapSlot, hl]
    refine ⟨fun x' hx => ?_, fun h => (nomatch h), fun r' q h => ?_, hm, hr⟩
    · obtain rfl := Option.some.inj hx
      refine ⟨by rw [e]; simp [State.emit], ?_, ?_⟩
      · rw [e, State.snapSlot_emit, State.snapSlot_setSlot]
        rw [List.lookup_eq_none_iff]
        intro a ha
        rw [bne_comm]
        exact (List.mem_filter.mp ha).2
      · rw [e, State.snapStale_emit, State.snapStale_setSlot, State.reached_snapStale]
    · rw [e]
      exact ⟨by rw [State.snapSlot_emit, State.snapSlot_setSlot_ne _ _ _ _ _ _ h, State.reached_snapSlot],
        by rw [State.snapStale_emit, State.snapStale_setSlot, State.reached_snapStale]⟩
  | none =>
    have e : (s.reached r page).readHi r page off w =
        ((s.reached r page).setStale r page true).emit (.readData r w) := by
      simp only [State.readHi, State.reached_snapSlot, hl]
    refine ⟨fun x' hx => (nomatch hx), fun _ => ⟨?_, ?_, ?_⟩, fun r' q h => ⟨?_, ?_⟩, hm, hr⟩
    · rw [e]; simp [State.emit]
    · rw [e, State.snapSlot_emit, State.snapSlot_setStale, State.reached_snapSlot]
    · rw [e, State.snapStale_emit, State.snapStale_setStale]
    · rw [e, State.snapSlot_emit, State.snapSlot_setStale, State.reached_snapSlot]
    · rw [e, State.snapStale_emit, State.snapStale_setStale_ne _ _ _ _ _ _ h, State.reached_snapStale]

/-- A `_LO` word that is no `_HI` word answers through the slot. -/
theorem State.readFirst_lo (r : Req) (page off : Nat) (kd : Kind) (u : Nat)
    (hu : s.unit page = some (kd, u)) (hl : s.isLive page off false = true)
    (h : plainRead kd off = true) :
    (s.reached r page).readFirst r page off =
      (s.reached r page).readLo r page (s.readWord r page off)
        [(off + 4, s.readWord r page (off + 4))] := by
  obtain ⟨kd', hk', o, ho, he⟩ := (s.isLive_iff _ _ _).mp hl
  obtain rfl : kd' = kd := Option.some.inj (hk'.symm.trans (s.kind_of_unit hu))
  obtain rfl : off = o := he
  have hw := s.readWord_reached r page kd' u hu off ho
  rw [State.readFirst_plain _ r page _ kd' u (by rw [State.reached_unit, hu]) h, State.reached_isLive, hl,
    if_pos rfl]
  rw [hw off (by simp), hw (off + 4) (by simp)]

theorem State.readFirst_hi (r : Req) (page off : Nat) (kd : Kind) (u : Nat)
    (hu : s.unit page = some (kd, u)) (hl : s.isLive page off true = true) :
    (s.reached r page).readFirst r page off =
      (s.reached r page).readHi r page off (s.readWord r page off) := by
  obtain ⟨kd', hk', o, ho, he⟩ := (s.isLive_iff _ _ _).mp hl
  obtain rfl : kd' = kd := Option.some.inj (hk'.symm.trans (s.kind_of_unit hu))
  obtain rfl : off = o + 4 := he
  obtain ⟨-, hp, hn⟩ := liveLo_read kd' o ho
  have hf : s.isLive page (o + 4) false = false := by
    rw [← Bool.not_eq_true, State.isLive_iff]
    rintro ⟨kd, hk, x, hx, e⟩
    obtain rfl : kd = kd' := Option.some.inj (hk.symm.trans hk')
    exact hn (by simpa [e] using hx)
  rw [State.readFirst_plain _ r page _ kd' u (by rw [State.reached_unit, hu]) hp, State.reached_isLive,
    State.reached_isLive, hf, hl, s.readWord_reached r page kd' u hu o ho (o + 4) (by simp)]
  rfl

/-- Settles O11: both rows are one read, which a live result's word answers through the requester's slot. -/
theorem snapshotReads : Obligations.SnapshotReads := by
  intro s r page off ho
  obtain ⟨kd, u, hu⟩ := s.unit_of_open r _ ho
  have hk := s.kind_of_unit hu
  have he : ∀ f : State → State, s.fresh.readAccess r page.toNat f = f (s.reached r page.toNat) := by
    intro f
    rw [State.readAccess, State.fresh_open, ho]; rfl
  refine ⟨fun hl hi hq => ?_, fun hl => ?_⟩
  · obtain ⟨kd', hk', o, hmem, heq⟩ := (s.isLive_iff _ _ _).mp hl
    obtain rfl : kd' = kd := Option.some.inj (hk'.symm.trans hk)
    have hp : plainRead kd' (off.toNat / 4 * 4) = true := by
      rw [heq]
      exact (liveLo_read kd' o hmem).1 (by rintro rfl; exact hi hk)
        (by rintro rfl; rw [← hq hk]; exact heq.symm)
    refine ⟨_, ?_, s.readLo_effect r page.toNat _ _⟩
    rw [← s.readFirst_lo r _ _ kd' u hu hl hp]
    exact congrArg _ (he _)
  · refine ⟨_, ?_, s.readHi_effect r page.toNat _ _⟩
    rw [← s.readFirst_hi r _ _ kd u hu hl]
    exact congrArg _ (he _)

end Sys2Proof.Machine
end

section
/-! PROOFS. Writes of the header (R38, R39, R53, R54, R149). -/

namespace Sys2Proof.Machine

/-! ### Fields of a whole word -/

theorem getBits_word (v : Word) : getBits 31 0 v = v.toNat := by
  have := v.isLt
  unfold getBits
  omega

theorem putBits_word (v w : Word) : putBits 31 0 v.toNat w = v := by
  apply BitVec.eq_of_toNat_eq
  rw [putBits_split 31 0 _ _ (by decide) (by decide)]
  have := v.isLt
  have := w.isLt
  omega

/-- What the words that fill their register store: `UNIT_EVENT` clears what is written 1. -/
def storeAt (off : Nat) (v w : Word) : Word := if off = 0x014 then w &&& ~~~v else v

theorem storeAt_idem (off : Nat) (v w : Word) : storeAt off v (storeAt off v w) = storeAt off v w := by
  unfold storeAt
  split
  · rw [BitVec.and_assoc, BitVec.and_self]
  · rfl

/-- The words of one field that fills them, whose write meets nothing that holds it. -/
def wholeWord (kd : Kind) (off : Nat) : Prop :=
  off = 0x014 ∨ off = 0x018 ∨ (off = 0x060 ∧ (kd = .pav ∨ kd = .ksk))

theorem wholeWord_rows (kd : Kind) (off : Nat) (h : wholeWord kd off) :
    ∃ x : Row, (fieldsAt kd off).filter (fun x => !x.fixed) = [x] ∧ x.hi = 31 ∧ x.lo = 0 ∧
      x.acc = if off = 0x014 then .w1c else .rw := by
  rcases h with rfl | rfl | ⟨rfl, rfl | rfl⟩
  · refine ⟨⟨"UNIT_EVENT", "BITS", 0x014, 0, 1, 31, 0, .w1c, (k 0)⟩, ?_, rfl, rfl, rfl⟩
    cases kd <;> rfl
  · refine ⟨⟨"UNIT_EVENT_EN", "BITS", 0x018, 0, 1, 31, 0, .rw, (k 0)⟩, ?_, rfl, rfl, rfl⟩
    cases kd <;> rfl
  · exact ⟨⟨"WK_HORIZON", "PU", 0x060, 0, 1, 31, 0, .rw, (k 1048576)⟩, rfl, rfl, rfl, rfl⟩
  · exact ⟨⟨"WK_HORIZON", "PU", 0x060, 0, 1, 31, 0, .rw, (k 1048576)⟩, rfl, rfl, rfl, rfl⟩

theorem wholeWord_apply (off : Nat) (x : Row) (v w : Word) (hi : x.hi = 31) (lo : x.lo = 0)
    (acc : x.acc = if off = 0x014 then .w1c else .rw) : x.apply v w = storeAt off v w := by
  unfold Row.apply storeAt
  rw [hi, lo, acc, getBits_word, putBits_word, putBits_word]
  by_cases h : off = 0x014
  · simp only [h, if_true]
  · simp only [h, if_false]

variable (s : State)

theorem State.wholeWord_free (kd : Kind) (page off : Nat) (old new : Word) (h : wholeWord kd off) :
    absentHead s.part kd off = false ∧ gkpOnly kd off = false ∧ s.frozen kd page off old new = false := by
  rcases h with rfl | rfl | ⟨rfl, rfl | rfl⟩
  · cases kd <;> exact ⟨rfl, rfl, by simp [State.frozen]⟩
  · cases kd <;> exact ⟨rfl, rfl, by simp [State.frozen]⟩
  · exact ⟨rfl, rfl, rfl⟩
  · exact ⟨rfl, rfl, rfl⟩

theorem State.written_wholeWord (r : Req) (kd : Kind) (u page off : Nat) (old : Word)
    (h : wholeWord kd off) : s.written r kd u page off old =
      if off = 0x018 then s.newlyPending page old else s := by
  rcases h with rfl | rfl | ⟨rfl, rfl | rfl⟩
  · cases kd <;> rfl
  · rfl
  · rfl
  · rfl

/-- A write of such a word: it is stored, and its events become pending. -/
theorem State.fieldWrite_wholeWord (r : Req) (kd : Kind) (u page off : Nat) (v : Word)
    (h : wholeWord kd off) : s.fieldWrite r kd u page off v =
      let t := s.setWord page off (storeAt off v (s.word page off))
      if off = 0x018 then t.newlyPending page (s.word page off) else t := by
  obtain ⟨x, hx, hi, lo, acc⟩ := wholeWord_rows kd off h
  have hh : s.fieldHeld page off x = false := by
    unfold State.fieldHeld
    rw [acc]
    rcases h with rfl | rfl | ⟨rfl, -⟩ <;> simp
  obtain ⟨ha, hg, hf⟩ := s.wholeWord_free kd page off (s.word page off)
    (storeAt off v (s.word page off)) h
  have ho : off < 4096 := by rcases h with rfl | rfl | ⟨rfl, -⟩ <;> decide
  rw [← State.written_wholeWord _ r kd u page off _ h]
  unfold State.fieldWrite
  simp [hx, hh, ha, hg, hf, applyRows, wholeWord_apply off x v _ hi lo acc]

/-! ### Messages that become due (R382) -/

/-- Messages have become due, or gone out, and nothing else has happened. -/
structure State.Pends (s t : State) : Prop where
  rest : { t with pcie := s.pcie, emitted := s.emitted } = s
  due : ∀ n ∈ s.pcie.due, n ∈ t.pcie.due

theorem State.Pends.refl : s.Pends s := ⟨rfl, fun _ h => h⟩

theorem State.Pends.trans {s t u : State} (h : s.Pends t) (h' : t.Pends u) : s.Pends u := by
  refine ⟨?_, fun n hn => h'.due n (h.due n hn)⟩
  rw [← h.rest]
  conv_rhs => rw [← h'.rest]

theorem State.signal_pends (fn v : Nat) : s.Pends (s.signal fn v) := by
  unfold State.signal
  split
  · exact .refl s
  · split
    · split
      · exact .refl s
      · exact ⟨rfl, fun _ h => h⟩
    · exact ⟨rfl, fun _ h => h⟩

theorem State.eventDue_pends (page b : Nat) : s.Pends (s.eventDue page b) := by
  have hs : ∀ t : State, s.Pends t → s.Pends
      (match unitOf s.part page with
        | some (.stm, i) => t.signal (i + 1) 0
        | _ => t) := fun t ht => by
    split
    · exact ht.trans (t.signal_pends _ _)
    · exact ht
  unfold State.eventDue
  refine hs _ ?_
  split
  · exact .refl s
  · refine ⟨rfl, fun n hn => ?_⟩
    dsimp only
    split
    · exact hn
    · exact List.mem_append_left _ hn

theorem State.newlyPending_pends (page : Nat) (old : Word) : s.Pends (s.newlyPending page old) := by
  have hf : ∀ (l : List Nat) (f : Nat → Bool) (t : State), s.Pends t →
      s.Pends (l.foldl (fun t b => if f b then t.eventDue page b else t) t) := by
    intro l f
    induction l with
    | nil => exact fun t h => h
    | cons b l ih =>
      intro t h
      refine ih _ ?_
      dsimp only
      split
      · exact h.trans (t.eventDue_pends page b)
      · exact h
  exact hf _ _ _ (.refl s)

/-! ### Words stored on some pages -/

/-- The word at `off` has been stored on these pages, and nothing else has happened but that enabled
events became pending. -/
structure State.Stores (s t : State) (pages : List Nat) (off : Nat) (v : Word) : Prop where
  word : ∀ p ∈ pages, t.word p off = storeAt off v (s.word p off)
  stands : ∀ p, p ∉ pages → t.word p off = s.word p off
  regs : s.SameRegs t (fun p o => o = off ∧ p ∈ pages)
  mem : s.SameMem t
  rest : { t with regs := s.regs, pcie := s.pcie, emitted := s.emitted } = s
  due : ∀ n ∈ s.pcie.due, n ∈ t.pcie.due
  still : off ≠ 0x018 → t.pcie = s.pcie ∧ t.emitted = s.emitted

theorem State.Stores.refl (off : Nat) (v : Word) : s.Stores s [] off v where
  word := by simp
  stands _ _ := rfl
  regs := .of_eq _ rfl rfl rfl
  mem := .of_eq rfl rfl rfl
  rest := rfl
  due _ h := h
  still _ := ⟨rfl, rfl⟩

theorem State.Stores.trans {s t u : State} {ps qs : List Nat} {off : Nat} {v : Word}
    (h : s.Stores t ps off v) (h' : t.Stores u qs off v) : s.Stores u (ps ++ qs) off v where
  word p hp := by
    by_cases hq : p ∈ qs
    · rw [h'.word p hq]
      by_cases hp' : p ∈ ps
      · rw [h.word p hp', storeAt_idem]
      · rw [h.stands p hp']
    · rw [h'.stands p hq]
      exact h.word p ((List.mem_append.mp hp).resolve_right hq)
  stands p hp := by
    rw [List.mem_append, not_or] at hp
    rw [h'.stands p hp.2, h.stands p hp.1]
  regs := (h.regs.trans h'.regs).mono (by
    rintro p o (⟨rfl, hp⟩ | ⟨rfl, hp⟩)
    · exact ⟨rfl, List.mem_append_left _ hp⟩
    · exact ⟨rfl, List.mem_append_right _ hp⟩)
  mem := h.mem.trans h'.mem
  rest := by
    rw [← h.rest]
    conv_rhs => rw [← h'.rest]
  due n hn := h'.due n (h.due n hn)
  still ho := ⟨(h'.still ho).1.trans (h.still ho).1, (h'.still ho).2.trans (h.still ho).2⟩

theorem State.fieldWrite_stores (r : Req) (kd : Kind) (u page off : Nat) (v : Word)
    (h : wholeWord kd off) : s.Stores (s.fieldWrite r kd u page off v) [page] off v := by
  have ho : off < 4096 := by rcases h with rfl | rfl | ⟨rfl, -⟩ <;> decide
  rw [State.fieldWrite_wholeWord _ _ _ _ _ _ _ h]
  set w := storeAt off v (s.word page off) with hw
  have hp : (s.setWord page off w).Pends (if off = 0x018 then
      (s.setWord page off w).newlyPending page (s.word page off) else s.setWord page off w) := by
    split
    · exact State.newlyPending_pends _ _ _
    · exact .refl _
  have hs : off ≠ 0x018 → (if off = 0x018 then
      (s.setWord page off w).newlyPending page (s.word page off) else s.setWord page off w) =
        s.setWord page off w := fun h => if_neg h
  dsimp only
  generalize (if off = 0x018 then
    (s.setWord page off w).newlyPending page (s.word page off) else s.setWord page off w) = t at hp hs
  have hpart : t.part = s.part := (congrArg State.part hp.rest :)
  have hregs : t.regs = (s.setWord page off w).regs := (congrArg State.regs hp.rest :)
  have hword := State.word_of_regs (s.setWord page off w) t hpart hregs
  exact {
    word := fun p hpg => by
      obtain rfl := List.mem_singleton.mp hpg
      rw [hword, State.word_setWord]
    stands := fun p hpg => by
      rw [hword, State.word_setWord_ne s ho ho (Or.inl (by simpa using hpg))]
    regs := ((s.setWord_sameRegs page off w ho).trans
      (.of_eq (fun _ _ => False) hpart hregs (congrArg State.act hp.rest :))).mono (by
        rintro p o (⟨rfl, rfl⟩ | h)
        · exact ⟨rfl, List.mem_singleton_self _⟩
        · exact h.elim)
    mem := .of_eq (congrArg State.mem hp.rest :) (congrArg State.flash hp.rest :)
      (congrArg State.poison hp.rest :)
    rest := (congrArg (fun x : State => { x with regs := s.regs }) hp.rest :)
    due := hp.due
    still := fun h => by rw [hs h]; exact ⟨rfl, rfl⟩ }

/-- A pavilion's write goes to every present kiosk beneath it (R149). -/
theorem State.pavWrite_stores (r : Req) (u page off : Nat) (v : Word)
    (h : off = 0x014 ∨ off = 0x018 ∨ off = 0x060) :
    s.Stores (s.pavWrite r u page off v)
      ((if off = 0x014 then [] else [page]) ++ (s.beneath u).map pgKSK) off v := by
  have hk : ∀ kd : Kind, kd = .pav ∨ kd = .ksk → wholeWord kd off := fun kd hk =>
    h.imp_right (Or.imp_right fun h => ⟨h, hk⟩)
  have hf : ∀ (ks : List Nat) (t : State) (ps : List Nat), s.Stores t ps off v →
      s.Stores (ks.foldl (fun t k => t.fieldWrite r .ksk k (pgKSK k) off v) t)
        (ps ++ ks.map pgKSK) off v := by
    intro ks
    induction ks with
    | nil => intro t ps ht; simpa using ht
    | cons j ks ih =>
      intro t ps ht
      have := ih _ _ (ht.trans (t.fieldWrite_stores r .ksk j (pgKSK j) off v (hk _ (.inr rfl))))
      simpa using this
  refine hf _ _ _ ?_
  split
  · exact .refl s off v
  · exact s.fieldWrite_stores r .pav u page off v (hk _ (.inl rfl))

/-! ### The rows -/

@[simp] theorem State.reached_regs (r : Req) (p : Nat) : (s.reached r p).regs = s.regs := by
  obtain ⟨x, h⟩ := s.reached_eq r p; rw [h]

@[simp] theorem State.reached_pcie (r : Req) (p : Nat) : (s.reached r p).pcie = s.pcie := by
  obtain ⟨x, h⟩ := s.reached_eq r p; rw [h]

@[simp] theorem State.reached_beneath (r : Req) (p u : Nat) : (s.reached r p).beneath u = s.beneath u := by
  unfold State.beneath; rw [State.reached_part]

theorem State.wordWrite_wholeWord (r : Req) (kd : Kind) (u page off : Nat) (v : Word)
    (h : off = 0x014 ∨ off = 0x018) (hk : kd ≠ .pav) :
    s.wordWrite r kd u page off v = s.fieldWrite r kd u page off v := by
  rcases h with rfl | rfl
  · cases kd
    case pav => exact absurd rfl hk
    all_goals rfl
  · cases kd
    case pav => exact absurd rfl hk
    all_goals rfl

theorem State.wordWrite_pav (r : Req) (u page off : Nat) (v : Word)
    (h : off = 0x014 ∨ off = 0x018 ∨ off = 0x060) : s.wordWrite r .pav u page off v =
      s.pavWrite r (page - 0x080) page off (if off = 0x014 then v &&& 1 else v) := by
  rcases h with rfl | rfl | rfl <;> rfl

/-- A full write of a word that is not the command's reaches its page's word. -/
theorem State.regWrite_reaches (r : Req) (page off : BitVec 12) (v : Word) (kd : Kind) (u : Nat)
    (ho : s.open r page.toNat = true) (hf : s.flows page.toNat = true)
    (hu : s.unit page.toNat = some (kd, u)) (h1 : off.toNat / 4 * 4 ≠ 0x01C)
    (h2 : s.indexHeld page.toNat (off.toNat / 4 * 4) = false) :
    exec (.registerWrite r page off 0xF v) s =
      .next ((s.reached r page.toNat).wordWrite r kd u page.toNat (off.toNat / 4 * 4) v) := by
  rw [exec_registerWrite _ _ _ _ _ _ (writtenCommand_off _ _ _ _ _ _ h1), State.regWrite,
    State.access_fresh_open _ _ _ _ _ ho, if_neg (by decide), if_neg h1, State.reached_unit, hu]
  dsimp only
  rw [State.behind_flows _ _ _ _ _ _ (by simpa using hf) (by simpa using h2)]

/-- What a stored word leaves of the page that was reached. -/
theorem State.Stores.of_reached {s t : State} {r : Req} {page off : Nat} {ps : List Nat} {v : Word}
    (h : (s.reached r page).Stores t ps off v) :
    (∀ p ∈ ps, t.word p off = storeAt off v (s.word p off)) ∧ s.SameMem t ∧
      s.SameRegs t (fun p o => o = off ∧ p ∈ ps) ∧ (∀ n ∈ s.pcie.due, n ∈ t.pcie.due) ∧
      { t with regs := s.regs, pcie := s.pcie, emitted := [] } = s.reached r page := by
  refine ⟨fun p hp => ?_, (s.reached_sameMem r page).trans h.mem,
    ((s.reached_sameRegs r page (fun _ _ => False)).trans h.regs).mono (by
      rintro p o (h | h)
      · exact h.elim
      · exact h), fun n hn => h.due n (by simpa using hn), by simpa using h.rest⟩
  rw [h.word p hp, State.reached_word]

/-- Words other than `UNIT_EVENT_EN` send nothing. -/
theorem State.Stores.rest_reached {s t : State} {r : Req} {page off : Nat} {ps : List Nat} {v : Word}
    (h : (s.reached r page).Stores t ps off v) (ho : off ≠ 0x018) :
    { t with regs := s.regs } = s.reached r page := by
  obtain ⟨hp, he⟩ := h.still ho
  have hr := h.rest
  rw [← hp, ← he, State.reached_regs] at hr
  exact hr

/-- What a full write of one of these words stores where. -/
theorem State.exec_wholeWord (r : Req) (page off : BitVec 12) (v : Word) (o : Nat)
    (he : off.toNat / 4 * 4 = o) (ho : s.open r page.toNat = true) (hf : s.flows page.toNat = true)
    (h : wholeWord .ksk o) :
    (s.kind page.toNat = some .pav → ∃ t, exec (.registerWrite r page off 0xF v) s = .next t ∧
      (s.reached r page.toNat).Stores t ((if o = 0x014 then [] else [page.toNat]) ++
        (s.beneath (page.toNat - 0x080)).map pgKSK) o (if o = 0x014 then v &&& 1 else v)) ∧
    (s.kind page.toNat ≠ some .pav → o ≠ 0x060 →
      ∃ t, exec (.registerWrite r page off 0xF v) s = .next t ∧
        (s.reached r page.toNat).Stores t [page.toNat] o v) := by
  subst he
  set o := off.toNat / 4 * 4
  obtain ⟨kd, u, hu⟩ := s.unit_of_open r _ ho
  have hk := s.kind_of_unit hu
  have h' : o = 0x014 ∨ o = 0x018 ∨ o = 0x060 := h.imp_right (Or.imp_right And.left)
  have hx := s.regWrite_reaches r page off v kd u ho hf hu (by omega)
    (State.indexHeld_off _ _ _ (by omega) (by omega))
  refine ⟨fun hp => ⟨_, hx, ?_⟩, fun hp h6 => ⟨_, hx, ?_⟩⟩
  · obtain rfl : kd = .pav := Option.some.inj (hk.symm.trans hp)
    rw [State.wordWrite_pav _ _ _ _ _ _ h', ← s.reached_beneath r page.toNat]
    exact State.pavWrite_stores _ _ _ _ _ _ h'
  · have h6' : o = 0x014 ∨ o = 0x018 := by omega
    rw [State.wordWrite_wholeWord _ _ _ _ _ _ _ h6' (by rintro rfl; exact hp hk)]
    exact State.fieldWrite_stores _ _ _ _ _ _ _ (h6'.imp_right Or.inl)

/-! ### The lock (R53) -/

theorem State.lockWrite_free (r : Req) (page : Nat) (h : s.locked page = false) :
    s.lockWrite r page true = (s.wr page UNIT_LOCK_LOCK 1).wr page UNIT_LOCK_OWNER (reqNum r) := by
  simp [State.lockWrite, h]

theorem State.lockWrite_locked (r : Req) (page : Nat) (v : Bool) (h : s.locked page = true) :
    s.lockWrite r page v = s.dropWrite r page 0x02C := by
  simp [State.lockWrite, h]

theorem State.exec_unitLockWrite (r : Req) (page : BitVec 12) (ho : s.open r page.toNat = true)
    (hf : s.flows page.toNat = true) :
    exec (.unitLockWrite r page) s = .next ((s.reached r page.toNat).lockWrite r page.toNat true) := by
  have e : exec (.unitLockWrite r page) s = .next (s.fresh.access r page.toNat 0x02C (fun t =>
      t.behind r page.toNat 0x02C 1 (fun x => x.lockWrite r page.toNat true))) := rfl
  rw [e, State.access_fresh_open _ _ _ _ _ ho, State.behind_flows _ _ _ _ _ _ (by simpa using hf)
    (State.indexHeld_off _ _ _ (by decide) (by decide))]

theorem State.dropWrite_rd (r : Req) (page off q : Nat) (f : Fld) (hf : f.Sound) (h0 : f.off ≠ 0x010)
    (he : f.off ≠ 0x014) (he' : f.off ≠ 0x050) : (s.dropWrite r page off).rd q f = s.rd q f := by
  rw [State.dropWrite, State.regAlert_rd _ _ _ _ _ _ _ _ hf.2.2 (not_evWords _ _ _ he he'),
    State.rd_wr_ne _ _ _ _ _ (by decide) hf (Or.inr h0)]

theorem State.lock_wr_owner (page n : Nat) :
    ((s.wr page UNIT_LOCK_LOCK 1).wr page UNIT_LOCK_OWNER n).locked page = true := by
  unfold State.locked State.bit
  rw [State.rd_wr_apart _ _ UNIT_LOCK_OWNER UNIT_LOCK_LOCK (by decide) (by decide) rfl (by decide),
    State.rd_wr _ _ _ (by decide)]
  rfl

/-- Settles O9: a write without its byte enables is dropped before anything else is looked at; the words of
one whole field are stored on the page or on the kiosks beneath it; the lock is spent once. -/
theorem headerWrites : Obligations.HeaderWrites := by
  refine ⟨fun s r page off be v ho hb => ?_, fun s r page off v ho hf => ⟨?_, ?_, ?_, ?_⟩,
    fun s r page ho hf => ⟨fun hl => ?_, fun hl => ?_⟩⟩
  · refine ⟨_, exec_registerWrite s r page off be v (writtenCommand_be _ _ _ _ _ _ hb), ?_⟩
    rw [State.regWrite, State.access_fresh_open _ _ _ _ _ ho, if_pos hb]
    exact s.dropWrite_dropped r _ _
  · intro he hp
    obtain ⟨t, hx, hs⟩ := (s.exec_wholeWord r page off v _ he ho hf (.inl rfl)).1 hp
    obtain ⟨hw, hm, hr, -, -⟩ := hs.of_reached
    exact ⟨t, hx, hm, fun k hk => hw _ (by simpa using ⟨k, hk, rfl⟩),
      hr.mono (by simp [eq_comm]), hs.rest_reached (by decide)⟩
  · intro he hp
    obtain ⟨t, hx, hs⟩ := (s.exec_wholeWord r page off v _ he ho hf (.inl rfl)).2 hp (by decide)
    obtain ⟨hw, hm, hr, -, -⟩ := hs.of_reached
    exact ⟨t, hx, hw _ (by simp), hm, hr.mono (by simp), hs.rest_reached (by decide)⟩
  · intro he
    by_cases hp : s.kind page.toNat = some .pav
    · obtain ⟨t, hx, hs⟩ := (s.exec_wholeWord r page off v _ he ho hf (.inr (.inl rfl))).1 hp
      obtain ⟨hw, hm, hr, hd, hrest⟩ := hs.of_reached
      exact ⟨t, hx, hw _ (by simp), hd, hm, fun _ k hk => hw _ (by simpa using .inr ⟨k, hk, rfl⟩),
        hr.mono (by simp [eq_comm, hp]), hrest⟩
    · obtain ⟨t, hx, hs⟩ := (s.exec_wholeWord r page off v _ he ho hf (.inr (.inl rfl))).2 hp (by decide)
      obtain ⟨hw, hm, hr, hd, hrest⟩ := hs.of_reached
      exact ⟨t, hx, hw _ (by simp), hd, hm, fun h => absurd h hp, hr.mono (by simp +contextual), hrest⟩
  · intro he hp
    obtain ⟨t, hx, hs⟩ := (s.exec_wholeWord r page off v _ he ho hf (.inr (.inr ⟨rfl, .inr rfl⟩))).1 hp
    obtain ⟨hw, hm, hr, -, -⟩ := hs.of_reached
    exact ⟨t, hx, hw _ (by simp), fun k hk => hw _ (by simpa using .inr ⟨k, hk, rfl⟩), hm,
      hr.mono (by simp [eq_comm]), hs.rest_reached (by decide)⟩
  · refine ⟨_, s.exec_unitLockWrite r page ho hf, ?_⟩
    rw [State.lockWrite_free _ _ _ (by simpa [State.locked] using hl)]
    refine ⟨State.lock_wr_owner _ _ _, ?_, ?_, ?_, ?_⟩
    · rw [State.rd_wr _ _ _ (by decide)]
      cases r <;> rfl
    · exact (s.reached_sameMem r page.toNat).trans (.of_eq (by simp) (by simp) (by simp))
    · refine ((s.reached_sameRegs r page.toNat (fun _ _ => False)).trans
        ((State.wr_sameRegs _ _ UNIT_LOCK_LOCK (by decide) _).trans
          (State.wr_sameRegs _ _ UNIT_LOCK_OWNER (by decide) _))).mono ?_
      rintro p o (h | h | h)
      · exact h.elim
      · exact h
      · exact h
    · obtain ⟨x, h⟩ := s.reached_eq r page.toNat
      rw [h]; rfl
  · refine ⟨_, s.exec_unitLockWrite r page ho hf, ?_⟩
    rw [State.lockWrite_locked _ _ _ _ (by simpa [State.locked] using hl)]
    exact ⟨s.dropWrite_dropped r _ _, by
      rw [State.dropWrite_rd _ _ _ _ _ _ (by decide) (by decide) (by decide) (by decide), State.reached_rd]⟩

end Sys2Proof.Machine
end

section
/-! PROOFS. Commits: armed, rejected, dropped, cancelled (R47 to R50). -/

namespace Sys2Proof.Machine

variable (s : State)

/-! ### What a reached page shows of its commit -/

@[simp] theorem State.reached_copyHolds (r : Req) (page p : Nat) :
    (s.reached r page).copyHolds p = s.copyHolds p := by
  obtain ⟨x, h⟩ := s.reached_eq r page; rw [h]; rfl

@[simp] theorem State.reached_commitPos (r : Req) (page p : Nat) :
    (s.reached r page).commitPos p = s.commitPos p := by
  unfold State.commitPos State.rd2; simp

@[simp] theorem State.reached_pos (r : Req) (page : Nat) : (s.reached r page).pos = s.pos := by
  obtain ⟨x, h⟩ := s.reached_eq r page; rw [h]; rfl

@[simp] theorem State.reached_hwm (r : Req) (page : Nat) : (s.reached r page).hwm = s.hwm := by
  obtain ⟨x, h⟩ := s.reached_eq r page; rw [h]; rfl

@[simp] theorem State.reached_selectLine (r : Req) (page h mode : Nat) (p : Pos) :
    (s.reached r page).selectLine h mode p = s.selectLine h mode p := by
  obtain ⟨x, e⟩ := s.reached_eq r page; rw [e]; rfl

@[simp] theorem State.reached_commits (r : Req) (page : Nat) : (s.reached r page).commits = s.commits := by
  obtain ⟨x, h⟩ := s.reached_eq r page; rw [h]

/-- A write of `WHEN` that nothing holds. -/
theorem State.whenAccess_reached (r : Req) (page mode : Nat) (ho : s.open r page = true)
    (hc : s.copyHolds page = false) (hf : s.flows page = true) :
    s.fresh.access r page 0x024 (fun t => t.whenAccess r page mode) =
      (s.reached r page).writeWhen r page mode := by
  rw [State.access_fresh_open _ _ _ _ _ ho, State.whenAccess, State.behind_flows _ _ _ _ _ _ (by simpa using hf)
    (State.indexHeld_off _ _ _ (by decide) (by decide)), State.whenWrite, if_neg (by simp [hc])]

/-! ### Arming -/

/-- A commit has been armed, and nothing else has happened. -/
theorem State.armAs_arms (r : Req) (p : Nat) (c : Commit) (hm : c.mode < 16) :
    let t := (s.reached r p).armAs p c
    t.commitOf p = some c ∧ t.rd p UNIT_COMMIT_WHEN = c.mode ∧
      (∀ q, q ≠ p → t.commitOf q = s.commitOf q) ∧ s.SameMem t ∧
      s.SameRegs t (fun q o => q = p ∧ o = 0x024) ∧
      { t with regs := s.regs, commits := s.commits } = s.reached r p := by
  refine ⟨?_, ?_, fun q hq => ?_, ?_, ?_, ?_⟩
  · simp [State.armAs, State.commitOf]
  · rw [State.armAs, State.rd_wr _ _ _ (by decide)]
    exact Nat.mod_eq_of_lt hm
  · have : (q == p) = false := by simpa using hq
    simp [State.armAs, State.commitOf, List.lookup_cons, this]
  · exact (s.reached_sameMem r p).trans
      (.of_eq (by simp [State.armAs]) (by simp [State.armAs]) (by simp [State.armAs]))
  · refine ((s.reached_sameRegs r p (fun _ _ => False)).trans ((State.SameRegs.of_eq (fun _ _ => False)
      rfl rfl rfl).trans (State.wr_sameRegs { s.reached r p with commits := (p, c) :: (s.reached r p).commits }
        p UNIT_COMMIT_WHEN (by decide) c.mode))).mono ?_
    rintro q o (h | h | h)
    · exact h.elim
    · exact h.elim
    · exact h
  · obtain ⟨x, h⟩ := s.reached_eq r p
    rw [h]; rfl

theorem State.writeWhen_arm (r : Req) (p mode : Nat) (h : s.commitOf p = none) (h0 : mode ≠ 0)
    (h5 : mode < 5) : s.writeWhen r p mode = s.armCommit r p mode false := by
  simp [State.writeWhen, h, h0, Nat.not_le.mpr h5]

theorem State.armCommit_now (r : Req) (p : Nat) (own : Bool) :
    s.armCommit r p 1 own = s.armAs p ⟨1, none, none, none, false, own, r⟩ := by
  unfold State.armCommit
  split <;> rfl

theorem State.armCommit_free (r : Req) (p mode : Nat) (own : Bool) (h : headOfPage s.part p = none)
    (h1 : mode ≠ 1) (h4 : mode ≠ 4) :
    s.armCommit r p mode own = s.armAs p ⟨mode, none, none, some s.hwm, false, own, r⟩ := by
  simp [State.armCommit, h, h1, h4]

theorem State.armCommit_at (r : Req) (p : Nat) (own : Bool) (h : headOfPage s.part p = none) :
    s.armCommit r p 4 own = if ahead (s.commitPos p) s.pos then
      s.armAs p ⟨4, none, some (s.commitPos p), some s.hwm, false, own, r⟩
    else s.rejectCommit r p 3 0 := by
  simp [State.armCommit, h]

theorem State.armCommit_line (r : Req) (p mode h n : Nat) (own : Bool) (hh : headOfPage s.part p = some h)
    (h1 : mode ≠ 1) (hn : s.selectLine h mode (s.commitPos p) = .inl n) :
    s.armCommit r p mode own = s.armAs p
      ⟨mode, some n, if mode = 4 then some (s.commitPos p) else none, none, false, own, r⟩ := by
  simp [State.armCommit, hh, h1, hn]

theorem State.armCommit_noLine (r : Req) (p mode h e : Nat) (own : Bool)
    (hh : headOfPage s.part p = some h) (h1 : mode ≠ 1)
    (hn : s.selectLine h mode (s.commitPos p) = .inr e) :
    s.armCommit r p mode own = s.rejectCommit r p e 0 := by
  simp [State.armCommit, hh, h1, hn]

/-- Settles O13: each row is a write of `WHEN`, which arms the commit that R47 and R48 give. -/
theorem commitsArm : Obligations.CommitsArm := by
  intro s r page ho hc hf hn p pos arms
  have hw : ∀ mode, mode ≠ 0 → mode < 5 →
      s.fresh.access r p 0x024 (fun t => t.whenAccess r p mode) =
        (s.reached r p).armCommit r p mode false := fun mode h0 h5 => by
    rw [State.whenAccess_reached _ _ _ _ ho hc hf, State.writeWhen_arm _ _ _ _ (by simpa using hn) h0 h5]
  have ha : ∀ (i : Instr) (mode : Nat) (c : Commit), c.mode = mode → mode ≠ 0 → mode < 5 →
      exec i s = .next (s.fresh.access r p 0x024 (fun t => t.whenAccess r p mode)) →
      (s.reached r p).armCommit r p mode false = (s.reached r p).armAs p c → arms i c := by
    intro i mode c hm h0 h5 hi he
    exact ⟨_, by rw [hi, hw mode h0 h5, he], s.armAs_arms r p c (by omega)⟩
  refine ⟨ha _ 1 _ rfl (by decide) (by decide) rfl (State.armCommit_now _ _ _ _), fun hh => ⟨?_, ?_, ?_⟩,
    fun h n hh => ⟨?_, ?_, ?_⟩⟩
  · refine ha _ 2 _ rfl (by decide) (by decide) rfl ?_
    rw [State.armCommit_free _ _ _ _ _ (by simpa using hh) (by decide) (by decide), State.reached_hwm]
  · refine ha _ 3 _ rfl (by decide) (by decide) rfl ?_
    rw [State.armCommit_free _ _ _ _ _ (by simpa using hh) (by decide) (by decide), State.reached_hwm]
  · intro hp
    refine ha _ 4 _ rfl (by decide) (by decide) rfl ?_
    rw [State.armCommit_at _ _ _ _ (by simpa using hh), if_pos (by simpa using hp), State.reached_hwm,
      State.reached_commitPos]
  · intro hl
    refine ha _ 2 _ rfl (by decide) (by decide) rfl ?_
    rw [State.armCommit_line _ _ _ _ h n _ (by simpa using hh) (by decide) (by simpa using hl)]
    rfl
  · intro hl
    refine ha _ 3 _ rfl (by decide) (by decide) rfl ?_
    rw [State.armCommit_line _ _ _ _ h n _ (by simpa using hh) (by decide) (by simpa using hl)]
    rfl
  · intro hl
    refine ha _ 4 _ rfl (by decide) (by decide) rfl ?_
    rw [State.armCommit_line _ _ _ _ h n _ (by simpa using hh) (by decide) (by simpa using hl),
      State.reached_commitPos]
    rfl

/-! ### Rejections, drops and the cancel -/

theorem State.clearCommit_commitOf (page : Nat) : (s.clearCommit page).commitOf page = none := by
  simp [State.clearCommit, State.commitOf, List.lookup_eq_none_iff, bne_comm]

theorem lookup_filter_ne {α : Type} (l : List (Nat × α)) {p q : Nat} (h : q ≠ p) :
    (l.filter (fun e => e.1 != p)).lookup q = l.lookup q := by
  induction l with
  | nil => rfl
  | cons e l ih =>
    obtain ⟨a, b⟩ := e
    by_cases ha : a = p
    · subst ha
      have : (q == a) = false := by simpa using h
      simp [List.lookup_cons, this, ih]
    · simp [ha, List.lookup_cons, ih]

theorem State.clearCommit_commitOf_ne (page q : Nat) (h : q ≠ page) :
    (s.clearCommit page).commitOf q = s.commitOf q := lookup_filter_ne s.commits h

theorem State.clearCommit_sameRegs (page : Nat) :
    s.SameRegs (s.clearCommit page) (fun p o => p = page ∧ o = 0x024) :=
  ((State.SameRegs.of_eq (fun _ _ => False) rfl rfl rfl).trans
    (State.wr_sameRegs { s with commits := s.commits.filter (fun e => e.1 != page) } page
      UNIT_COMMIT_WHEN (by decide) 0)).mono (by
    rintro p o (h | h)
    · exact h.elim
    · exact h)

theorem State.clearCommit_when (page : Nat) : (s.clearCommit page).rd page UNIT_COMMIT_WHEN = 0 :=
  State.rd_wr _ _ _ (by decide) _

theorem State.commitOf_wr (p v q : Nat) (f : Fld) : (s.wr p f v).commitOf q = s.commitOf q := rfl

theorem State.commitOf_regAlert (p o c w q : Nat) (r : Req) :
    (s.regAlert p o r c w).commitOf q = s.commitOf q := by
  simp [State.commitOf]

/-- A rejection without a pair: its whole effect (R50). -/
theorem State.rejectCommit_eq (r : Req) (page err pair : Nat) (h : err ≠ 1) :
    s.rejectCommit r page err pair = (((s.clearCommit page).wr page UNIT_COMMIT_STAT_ERR err).wr page
      UNIT_STATUS_COMMIT_ERR 1).regAlert page 0x024 r err 3 := by
  simp [State.rejectCommit, h]

theorem State.rejectCommit_rejected (r : Req) (page err pair : Nat) (h : err ≠ 1) (hl : err < 256) :
    s.Rejected ((s.reached r page).rejectCommit r page err pair) page err := by
  rw [State.rejectCommit_eq _ _ _ _ _ h]
  exact {
    none := by
      rw [State.commitOf_regAlert, State.commitOf_wr, State.commitOf_wr, State.clearCommit_commitOf]
    err := by
      rw [State.regAlert_rd _ _ _ _ _ _ _ _ (by decide) (not_evWords _ _ _ (by decide) (by decide)),
        State.rd_wr_ne _ _ _ _ _ (by decide) (by decide) (Or.inr (by decide)),
        State.rd_wr _ _ _ (by decide)]
      exact Nat.mod_eq_of_lt hl
    flag := State.mark_regAlert _ _ _ _ _ _ _ _ (by decide) (not_evWords _ _ _ (by decide) (by decide))
    idle := by
      rw [State.regAlert_rd _ _ _ _ _ _ _ _ (by decide) (not_evWords _ _ _ (by decide) (by decide)),
        State.rd_wr_ne _ _ _ _ _ (by decide) (by decide) (Or.inr (by decide)),
        State.rd_wr_ne _ _ _ _ _ (by decide) (by decide) (Or.inr (by decide)), State.clearCommit_when]
    alert := State.regAlert_raised _ _ _ _ _ _
    mem := (s.reached_sameMem r page).trans
      (.of_eq (by simp [State.clearCommit]) (by simp [State.clearCommit]) (by simp [State.clearCommit]))
    regs := ((s.reached_sameRegs r page (fun _ _ => False)).trans
      ((State.clearCommit_sameRegs _ page).trans
        ((State.wr_sameRegs _ page UNIT_COMMIT_STAT_ERR (by decide) err).trans
          ((State.wr_sameRegs _ page UNIT_STATUS_COMMIT_ERR (by decide) 1).trans
            (State.regAlert_sameRegs _ page 0x024 err 3 r))))).mono (by
        rintro p o (h | ⟨rfl, rfl⟩ | ⟨rfl, rfl⟩ | ⟨rfl, rfl⟩ | h)
        · exact h.elim
        · exact .inl ⟨rfl, .inr (.inl rfl)⟩
        · exact .inl ⟨rfl, .inr (.inr rfl)⟩
        · exact .inl ⟨rfl, .inl rfl⟩
        · exact .inr h)
    rest := fun q hq => by
      rw [State.commitOf_regAlert, State.commitOf_wr, State.commitOf_wr,
        State.clearCommit_commitOf_ne _ _ _ hq, State.reached_commitOf] }

theorem State.writeWhen_bad (r : Req) (p mode : Nat) (h : s.commitOf p = none) (h5 : 5 ≤ mode) :
    s.writeWhen r p mode = s.rejectCommit r p 2 0 := by
  have : mode ≠ 0 := by omega
  simp [State.writeWhen, h, h5, this]

theorem State.writeWhen_held (r : Req) (p mode : Nat) (c : Commit) (h : s.commitOf p = some c)
    (h0 : mode ≠ 0) : s.writeWhen r p mode = s.dropWrite r p 0x024 := by
  simp [State.writeWhen, h, h0]

/-- A cancel that no unit's own procedure waits for. -/
theorem State.writeWhen_cancel (r : Req) (p : Nat) (c : Commit) (h : s.commitOf p = some c)
    (he : encOfPage p = none) (ha : p = pgQLP → c.own = false) :
    s.writeWhen r p 0 = s.clearCommit p := by
  have hq : p ≠ pgQLP ∨ (!c.own) = true := by
    by_cases hp : p = pgQLP
    · exact .inr (by simp [ha hp])
    · exact .inl hp
  have hA : ∀ t : State, t.alignAfter p c.own false = t := fun t => by
    unfold State.alignAfter
    split
    · rfl
    · rw [if_pos hq]
  simp only [State.writeWhen, if_true, State.cancelCommit, h, State.selfAfter, State.encAfter, he, hA]

theorem State.dropWrite_commitOf (r : Req) (page off q : Nat) :
    (s.dropWrite r page off).commitOf q = s.commitOf q := by
  simp [State.dropWrite, State.commitOf]

theorem State.selectLine_stopped (h mode : Nat) (p : Pos) (hr : (s.hscOf h).running = false) :
    s.selectLine h mode p = .inr 4 := by
  simp [State.selectLine, hr]

/-- Settles O14: each row is a write of `WHEN`, and `State.writeWhen` tells the pending commit's drop and
cancel from the rejections. -/
theorem commitsEndUnapplied : Obligations.CommitsEndUnapplied := by
  refine ⟨fun s r page mode ho hc hf hn => ?_, fun s r page mode c ho hc hf hn => ?_⟩
  · intro p pos rejects
    have hw : ∀ (i : Instr) (m err : Nat), err ≠ 1 → err < 256 →
        exec i s = .next (s.fresh.access r p 0x024 (fun t => t.whenAccess r p m)) →
        (s.reached r p).writeWhen r p m = (s.reached r p).rejectCommit r p err 0 → rejects i err := by
      intro i m err h1 hl hi he
      exact ⟨_, by rw [hi, State.whenAccess_reached _ _ _ _ ho hc hf, he],
        s.rejectCommit_rejected r p err 0 h1 hl⟩
    have hn' : (s.reached r p).commitOf p = none := by simpa using hn
    have hl : ∀ h m e, headOfPage s.part p = some h → m ≠ 0 → m ≠ 1 → m < 5 →
        s.selectLine h m pos = .inr e →
        (s.reached r p).writeWhen r p m = (s.reached r p).rejectCommit r p e 0 := by
      intro h m e hh h0 h1 h5 hs
      rw [State.writeWhen_arm _ _ _ _ hn' h0 h5,
        State.armCommit_noLine _ _ _ _ h e _ (by simpa using hh) h1 (by simpa using hs)]
    refine ⟨fun h5 => ?_, fun hh hp => ?_, fun h hh hr => ⟨?_, ?_, ?_⟩, fun h hh hs => ?_⟩
    · exact hw _ mode.toNat 2 (by decide) (by decide) rfl (State.writeWhen_bad _ _ _ _ hn' h5)
    · refine hw _ 4 3 (by decide) (by decide) rfl ?_
      rw [State.writeWhen_arm _ _ _ _ hn' (by decide) (by decide),
        State.armCommit_at _ _ _ _ (by simpa using hh), if_neg (by simpa using hp)]
    · exact hw _ 2 4 (by decide) (by decide) rfl
        (hl h 2 4 hh (by decide) (by decide) (by decide) (s.selectLine_stopped _ _ _ hr))
    · exact hw _ 3 4 (by decide) (by decide) rfl
        (hl h 3 4 hh (by decide) (by decide) (by decide) (s.selectLine_stopped _ _ _ hr))
    · exact hw _ 4 4 (by decide) (by decide) rfl
        (hl h 4 4 hh (by decide) (by decide) (by decide) (s.selectLine_stopped _ _ _ hr))
    · exact hw _ 4 3 (by decide) (by decide) rfl (hl h 4 3 hh (by decide) (by decide) (by decide) hs)
  · intro p
    have hn' : (s.reached r p).commitOf p = some c := by simpa using hn
    have hd : ∀ (i : Instr) (m : Nat), m ≠ 0 →
        exec i s = .next (s.fresh.access r p 0x024 (fun t => t.whenAccess r p m)) →
        ∃ t, exec i s = .next t ∧ s.Dropped t r p ∧ t.commitOf p = some c := by
      intro i m h0 hi
      refine ⟨_, by rw [hi, State.whenAccess_reached _ _ _ _ ho hc hf, State.writeWhen_held _ _ _ _ c hn' h0],
        s.dropWrite_dropped r p 0x024, ?_⟩
      rw [State.dropWrite_commitOf, hn']
    refine ⟨?_, fun h0 => hd _ mode.toNat (fun h => h0 (BitVec.eq_of_toNat_eq h)) rfl, fun he ha => ?_⟩
    · simp only [List.forall_mem_cons]
      exact ⟨hd _ 1 (by decide) rfl, hd _ 2 (by decide) rfl, hd _ 3 (by decide) rfl, hd _ 4 (by decide) rfl,
        by simp⟩
    · refine ⟨(s.reached r p).clearCommit p, ?_, State.clearCommit_commitOf _ _, State.clearCommit_when _ _,
        fun q hq => ?_, ?_, ?_, ?_⟩
      · have hi : exec (.commitCancel r page) s =
          .next (s.fresh.access r p 0x024 (fun t => t.whenAccess r p 0)) := rfl
        rw [hi, State.whenAccess_reached _ _ _ _ ho hc hf, State.writeWhen_cancel _ _ _ c hn' he ha]
      · rw [State.clearCommit_commitOf_ne _ _ _ hq, State.reached_commitOf]
      · exact (s.reached_sameMem r p).trans (.of_eq rfl rfl rfl)
      · exact ((s.reached_sameRegs r p (fun _ _ => False)).trans (State.clearCommit_sameRegs _ p)).mono (by
          rintro q o (h | h)
          · exact h.elim
          · exact h)
      · obtain ⟨x, h⟩ := s.reached_eq r p
        rw [h]; rfl

end Sys2Proof.Machine
end

section
/-! PROOFS. Writes of block words (R54), where one statement fails. -/

namespace Sys2Proof.Machine

/-- A part with every domain up, and the Groundskeeper running. -/
def powered : State :=
  { State.reset with
    pwr := { State.reset.pwr with doms := Vector.replicate 7 .up }
    wrd := { State.reset.wrd with gkp := .running } }

/-- The Groundskeeper reaches PWR, behind nothing that is held, and no write has been dropped there. -/
theorem powered_reaches : powered.open .gkp pgPWR = true ∧ powered.unit pgPWR = some (.pwr, 0) ∧
    powered.flows pgPWR = true ∧ powered.bit pgPWR UNIT_STATUS_LOCK_VIOL = false := by decide +kernel

/-- A vote word that is not the writer's own is dropped as R76 has it, whatever its row's access. -/
theorem State.wordWrite_vote (s : State) (r : Req) (u page : Nat) (v : Word) :
    s.wordWrite r .pwr u page 0x048 v = s.dropWrite r pgPWR 0x048 := by
  cases r <;> rfl

theorem powered_voteWrite : exec (.registerWrite .gkp 5 0x048 0xF 0) powered =
    .next ((powered.reached .gkp pgPWR).dropWrite .gkp pgPWR 0x048) := by
  obtain ⟨ho, hu, hf, -⟩ := powered_reaches
  rw [powered.regWrite_reaches .gkp 5 0x048 0 .pwr 0 ho hf hu (by decide)
    (powered.indexHeld_off _ _ (by decide) (by decide))]
  exact congrArg _ (State.wordWrite_vote _ _ _ _ _)

/-- Refutes O10: the vote word of a hardware client has no writable field, and yet the Groundskeeper's write
of it sets LOCK_VIOL on PWR and REG_ALERT: PWR takes it as a write of another client's vote. -/
theorem not_fieldWrites : ¬ Obligations.FieldWrites := by
  intro h
  obtain ⟨ho, hu, hf, hb⟩ := powered_reaches
  obtain ⟨-, hw⟩ := h powered .gkp 5 0x048 0 .pwr 0 ho hu (by decide) (by decide) rfl rfl (by decide) hf
  obtain ⟨hn, -⟩ := hw (powered.indexHeld_off _ _ (by decide) (by decide))
  have he : (powered.reached .gkp pgPWR).dropWrite .gkp pgPWR 0x048 = powered.reached .gkp pgPWR :=
    Host.Outcome.next.inj (powered_voteWrite.symm.trans (hn (by decide)))
  have hv := (powered.dropWrite_dropped .gkp pgPWR 0x048).viol
  rw [he, State.reached_bit] at hv
  exact absurd (hb.symm.trans hv) (by decide)

end Sys2Proof.Machine
end

section
/-! PROOFS. A commit's effect (R47, R191), where the statement fails. -/

namespace Sys2Proof.Machine

/-- A commit of the next line, selected for line 0. -/
def lineCommit : Commit := ⟨2, some 0, none, none, false, false, .host⟩

/-- Head 0's banks wait for their copy, a commit is pending on its page, and the two banks differ in their
first byte. -/
def twoSwaps : State :=
  ((State.reset.setState (pgTRL 0) bkSYNCING).armAs (pgTRL 0) lineCommit).setByte (trlBank 0 false) 1

/-- The second swap makes the first one's copy at once: the active bank's byte comes into the other bank. -/
theorem twoSwaps_copied : twoSwaps.unit (pgTRL 0) = some (.trl, 0) ∧
    twoSwaps.commitOf (pgTRL 0) = some lineCommit ∧ twoSwaps.badPair (pgTRL 0) = 0 ∧
    twoSwaps.byte (trlBank 0 true) = 0 ∧
    (twoSwaps.commitAtLine (pgTRL 0) 0).byte (trlBank 0 true) = 1 := by decide +kernel

/-- Refutes O15: a commit on a Trellis page that finds the last swap's copy still to be made, with no line
mapped from the old bank, makes that copy with its effect, so that bytes of memory change. -/
theorem not_commitEffect : ¬ Obligations.CommitEffect := by
  intro h
  obtain ⟨hu, hc, hp, hbefore, hafter⟩ := twoSwaps_copied
  obtain ⟨-, -, hl⟩ := h twoSwaps 0x100 lineCommit .trl 0 hu
  obtain ⟨hw, -⟩ := (hl 0 0 hc rfl).2 le_rfl
  obtain ⟨hm, -⟩ := (hw hp).mem
  exact absurd (hafter.symm.trans ((hm (trlBank 0 true)).trans hbefore)) (by decide)

end Sys2Proof.Machine
end

section
/-! PROOFS. The archive's failure (R279, R87), where the statement fails. -/

namespace Sys2Proof.Machine

/-- An archive job that has met an error of its tile (reason 1). -/
def failedJob : Arc :=
  { cam := 0, planes := 1, t := 0, dst := 0, space := 64, count := 1, base := 0, size := 0, hdrAt := 0,
    frame := 0, hdr := [], lines := 0, values := 0, stride := 0, next := [], done := 0, out := 64,
    crc := 0, waiting := false, tile := [], sum := 0, ready := false, failed := 1 }

/-- The job stands while the domain of the quality loop has no power. -/
def jobIsolated : State := State.reset.updQlp (fun q => { q with arc := some failedJob })

theorem exec_archiveDone_failed (s : State) (a : Arc) (h : s.qlp.arc = some a) (hf : a.failed ≠ 0) :
    exec .archiveDone s = .next (s.fresh.arcFail a.failed) := by
  simp only [exec, execArchiveDone, run, h, if_pos hf]
  rfl

/-- The domain's event lines are clamped, so that the job's end raises nothing (R87). -/
theorem jobIsolated_silent : jobIsolated.has pgQLP = true ∧ jobIsolated.qlp.arc = some failedJob ∧
    ((jobIsolated.fresh.arcFail 1).word pgQLP 0x014).getLsbD 3 = false := by decide +kernel

/-- Refutes O46: a job that fails in an isolated domain ends without its event, since the event lines of an
isolated domain are clamped. -/
theorem not_proposals : ¬ Obligations.Proposals := by
  intro h
  obtain ⟨hq, ha, hsilent⟩ := jobIsolated_silent
  obtain ⟨-, -, -, -, -, hjob, -⟩ := h jobIsolated hq
  obtain ⟨-, hfails, -⟩ := hjob failedJob ha
  obtain ⟨t, ht, -, -, -, -, -, hr, -⟩ := hfails (by decide)
  obtain rfl : jobIsolated.fresh.arcFail 1 = t := Host.Outcome.next.inj
    ((exec_archiveDone_failed jobIsolated failedJob ha (by decide)).symm.trans ht)
  exact absurd (hsilent.symm.trans hr) (by decide)

end Sys2Proof.Machine
end

section
/-! PROOFS. Requests to the Groundskeeper (R80, R400, R402), where the statement fails. -/

namespace Sys2Proof.Machine

/-- UPDATE of a slot that holds no fault of R402 as the page was reached. -/
theorem State.exec_update_accepts (s : State) (r : Req) (arg : BitVec 16) (h : s.Takes r pgFSH)
    (ha : arg.toNat ≤ 1) (hv : (s.reached r pgFSH).verified arg.toNat = true)
    (hs : (s.reached r pgFSH).runningSlot ≠ some arg.toNat)
    (hw : (s.reached r pgFSH).wardenWatching = true) :
    exec (.update r arg) s =
      .next (((s.taken r pgFSH 5).request 1 arg.toNat 3).wr pgFSH FSH_FW_STAT_REQUESTED 1) := by
  have he : exec (.update r arg) s = .next (command r pgFSH 0x0005 arg false false
      (fun t => [(decide (1 < arg.toNat), rcBAD_ARG),
        (!t.verified arg.toNat || t.runningSlot == some arg.toNat || !t.wardenWatching, rcWRONG_STATE)])
      (fun t => (t.request 1 arg.toNat 3).wr pgFSH FSH_FW_STAT_REQUESTED 1) s.fresh) := rfl
  rw [he, command_accepts _ _ _ _ _ _ _ _ _ h.reach h.idle (.inr h.live) (by simp)]
  simp [hv, hs, hw, ha]

/-- A part whose Groundskeeper is halted and alone has a vote on SYS (which its cores' halt suspends), with a
verified image in slot 0 and no slot running. -/
def halted : State :=
  { ((State.reset.setWord pgPWR 0x040 0).setWord pgPWR 0x044 0).setWord pgFSH 0x054 1 with
    pwr := { State.reset.pwr with doms := Vector.replicate 7 .up, gkpSys := 2, gkpHalted := true }
    wrd := { State.reset.wrd with gkp := .running } }

/-- The Groundskeeper's own access counts its vote again, so that the warden watches and takes the request. -/
theorem halted_accepted :
    (halted.open .gkp pgFSH = true ∧ halted.bit pgFSH UNIT_STATUS_CMD_BUSY = false ∧
      halted.enabled pgFSH = true) ∧ halted.wardenWatching = false ∧
    (halted.reached .gkp pgFSH).wardenWatching = true ∧ (halted.reached .gkp pgFSH).verified 0 = true ∧
    (halted.reached .gkp pgFSH).runningSlot = none ∧
    (((halted.taken .gkp pgFSH 5).request 1 0 3).wr pgFSH FSH_FW_STAT_REQUESTED 1).bit pgFSH
      UNIT_STATUS_CMD_REFUSED = false := by decide +kernel

/-- Refutes O58: the state before the command is not the one it is judged in. A halted Groundskeeper's own
UPDATE raises SYS to level 2 as it is made, so that it is accepted where the warden did not watch before. -/
theorem not_liveUpdate : ¬ Obligations.LiveUpdate := by
  intro h
  obtain ⟨⟨ho, hb, he⟩, hw, hw', hv, hs, haccepted⟩ := halted_accepted
  have htakes : halted.Takes .gkp pgFSH := ⟨ho, hb, he⟩
  obtain ⟨hupd, -⟩ := (h halted).1 .gkp htakes
  obtain ⟨-, hdown, -⟩ := hupd 0 (by decide)
  obtain ⟨t, ht, -, hr, -⟩ := hdown (.inr (.inr hw))
  have hx := halted.exec_update_accepts .gkp 0 htakes (by decide) hv (by rw [hs]; decide) hw'
  obtain rfl := Host.Outcome.next.inj (hx.symm.trans ht)
  exact absurd (haccepted.symm.trans hr) (by decide)

end Sys2Proof.Machine
end


section
/-! PROOFS. The state after reset (R66, R383). -/

namespace Sys2Proof.Machine

/-- Settles O4: nothing is listed in either memory, and both queues are empty. -/
theorem resetIsGood : Obligations.ResetIsGood :=
  ⟨⟨rfl, rfl, Nat.zero_le 64⟩, rfl⟩

end Sys2Proof.Machine
end

section
/-! PROOFS. Pages that are not reached (R73, R82), where the statement fails. -/

namespace Sys2Proof.Machine

/-- PROGRAM written as a word of `UNIT_CMD` draws what the device finds on its wires, whether or not its
writer is served. -/
theorem exec_writtenProgram_unserved (s : State) (hu : unitOf s.part pgFSH = some (.fsh, 0))
    (hs : s.served .host = false) :
    exec (.registerWrite .host 8 0x01C 0xF 2) s = .next { s.fresh with free := s.free + 2 } := by
  have hc : writtenCommand s.part .host pgFSH 0x01C 0xF 2 =
      some (State.wired · (fun w _ => execFshProgram .host 0 w)) := by
    simp only [writtenCommand, hu]; rfl
  have he : exec (.registerWrite .host 8 0x01C 0xF 2) s =
      match writtenCommand s.part .host pgFSH 0x01C 0xF 2 with
      | some c => c s
      | none => run (fun t => t.regWrite .host pgFSH 0x01C 0xF 2) s := rfl
  rw [he, hc]
  exact congrArg Host.Outcome.next
    (State.access_unserved { s.fresh with free := s.free + 2 } .host pgFSH 0x01C _ hs)

/-- Refutes O6: right after reset the host is not served, and yet its write of a word that spells PROGRAM
does not leave the state as it was: the free values that stand for the wires are drawn first (logs 3, 12). -/
theorem not_unreachedPages : ¬ Obligations.UnreachedPages := by
  rintro ⟨hunserved, -⟩
  have hs : State.reset.served .host = false := by decide +kernel
  obtain ⟨hwrite, -⟩ := hunserved State.reset .host hs
  have hsame := hwrite (.registerWrite .host 8 0x01C 0xF 2) pgFSH 0x01C rfl
  have hdrawn := Host.Outcome.next.inj ((exec_writtenProgram_unserved State.reset rfl hs).symm.trans hsame)
  exact absurd (congrArg State.free hdrawn) (by decide)

end Sys2Proof.Machine
end

section
/-! PROOFS. Start-up by RESET_IN# (R70, R217), where the statement fails. -/

namespace Sys2Proof.Machine

/-- A part whose RESET_IN# is low as its last rail becomes good; the votes stand at their reset values, and
ESTOP_IN# is low. -/
def railsUp : State :=
  { State.reset with aon := { State.reset.aon with rails := Vector.replicate 8 true, resetLow := true } }

theorem exec_resetIn_rise (s : State) :
    exec (.resetIn false) s =
      .next ({ s.fresh with aon := { s.fresh.aon with resetLow := false } } : State).leaveRails := rfl

/-- As PRINT rises to level 2 with ESTOP_IN# low, every head is cut. -/
theorem railsUp_cuts : (railsUp.stage = 0 ∧ railsUp.aon.vbus = true ∧ railsUp.railsGood = true ∧
      railsUp.aon.rstPending = false) ∧ railsUp.word (pgFIR 0) 0x094 = 0 ∧
    ({ railsUp.fresh with aon := { railsUp.fresh.aon with resetLow := false } } : State).leaveRails.word
      (pgFIR 0) 0x094 = 0x107 := by decide +kernel

/-- Refutes O18: start-up touches more registers than those of TOP, CLK and the warden.  PRINT's vote is 2 at
reset, and where ESTOP_IN# is low the rise of PRINT counts as its falling edge and cuts every head (R217). -/
theorem not_deviceResets : ¬ Obligations.DeviceResets := by
  rintro ⟨hresets, -⟩
  obtain ⟨⟨hstage, hvbus, hrails, hpending⟩, hbefore, hafter⟩ := railsUp_cuts
  obtain ⟨-, -, hrise, -⟩ := hresets railsUp
  obtain ⟨t, ht, -, -, -, hregs, -⟩ := hrise hstage hvbus hrails hpending
  obtain rfl := Host.Outcome.next.inj ((exec_resetIn_rise railsUp).symm.trans ht)
  have hsame := hregs (pgFIR 0) 0x094 (by decide) (by decide)
  exact absurd (hafter.symm.trans (hsame.trans hbefore)) (by decide)

end Sys2Proof.Machine
end

section
/-! PROOFS. Kicks of the warden (R80, R369), where the statement fails. -/

namespace Sys2Proof.Machine

/-- A kick by the Groundskeeper, as it reaches the warden. -/
theorem exec_wrdKick_gkp (s : State) (v : BitVec 16) (ho : s.open .gkp pgWRD = true) :
    exec (.wrdKick .gkp v) s = .next ((s.reached .gkp pgWRD).onlyIf
      ((s.reached .gkp pgWRD).wrd.gkp == .running && (s.reached .gkp pgWRD).levelOf .sys == 2)
      (fun u => u.judgeKick v.toNat)) := by
  have he : exec (.wrdKick .gkp v) s = .next (s.fresh.access .gkp pgWRD 0x040 (fun t =>
      t.onlyIf (t.wrd.gkp == .running && t.levelOf .sys == 2) (fun u => u.judgeKick v.toNat))) := rfl
  rw [he, State.access_fresh_open _ _ _ _ _ ho]

/-- The halted Groundskeeper's own kick counts its vote on SYS again, and is judged at level 2. -/
theorem halted_kicked : halted.open .gkp pgWRD = true ∧ halted.levelOf .sys ≠ 2 ∧
    ((halted.reached .gkp pgWRD).wrd.gkp == .running && (halted.reached .gkp pgWRD).levelOf .sys == 2) =
      true ∧
    (halted.reached .gkp pgWRD).wrd.lastKick = none ∧
    ((halted.reached .gkp pgWRD).judgeKick 0x5A17).wrd.lastKick = some 0x5A17 := by decide +kernel

/-- Refutes O54: a kick that finds SYS below level 2 changes something where it is the kick itself that
brings SYS back.  The Groundskeeper's access ends the halt that had suspended its vote (R80), and the kick is
then judged with SYS at level 2. -/
theorem not_warden : ¬ Obligations.Warden := by
  rintro ⟨-, hkick⟩
  obtain ⟨ho, hlow, hwatched, hbefore, hafter⟩ := halted_kicked
  obtain ⟨-, hsleeps, -⟩ := hkick halted 0x5A17
  have hx := (exec_wrdKick_gkp halted 0x5A17 ho).symm.trans (hsleeps ho hlow)
  rw [State.onlyIf_true _ _ _ hwatched] at hx
  have hsame := congrArg (fun t : State => t.wrd.lastKick) (Host.Outcome.next.inj hx)
  exact absurd (hafter.symm.trans (hsame.trans hbefore)) (by decide)

end Sys2Proof.Machine
end

section
/-! SUPPORT. Frames of the operations that raise events or start and stop units: which registers they may
change, and that memory, the active copies, the PLLs and the power sequencer stand. -/

namespace Sys2Proof.Machine

/-- The part, the time, the island, the sequencer, the PLLs, the active copies and the memories stand. -/
structure State.SameCore (s t : State) : Prop where
  part : t.part = s.part
  now : t.now = s.now
  aon : t.aon = s.aon
  pwr : t.pwr = s.pwr
  plls : t.plls = s.plls
  act : t.act = s.act
  mem : t.mem = s.mem
  flash : t.flash = s.flash
  poison : t.poison = s.poison

/-- The core stands, and no register word differs but those that `but` names. -/
structure State.Keeps (s t : State) (but : Nat → Nat → Prop) : Prop where
  core : s.SameCore t
  word : ∀ p o, o < 4096 → ¬ but p o → t.word p o = s.word p o

/-- Events have been raised and registers that `but` names have been written: but for these, for the firing
blocks and for what goes out, nothing differs, and an event that stood stands. -/
structure State.Raises (s t : State) (but : Nat → Nat → Prop) : Prop where
  rest : { t with regs := s.regs, fir := s.fir, gbk := s.gbk, pcie := s.pcie, follies := s.follies,
                  emitted := s.emitted } = s
  word : ∀ p o, o < 4096 → ¬ but p o → t.word p o = s.word p o
  training : t.pcie.training = s.pcie.training
  raised : ∀ p b, s.Raised p b → t.Raised p b

variable {s t u : State} {but but' : Nat → Nat → Prop}

/-! ### The core -/

theorem State.SameCore.trans (h : s.SameCore t) (h' : t.SameCore u) : s.SameCore u where
  part := h'.part.trans h.part
  now := h'.now.trans h.now
  aon := h'.aon.trans h.aon
  pwr := h'.pwr.trans h.pwr
  plls := h'.plls.trans h.plls
  act := h'.act.trans h.act
  mem := h'.mem.trans h.mem
  flash := h'.flash.trans h.flash
  poison := h'.poison.trans h.poison

theorem State.Keeps.of_regs (but : Nat → Nat → Prop) (h : s.SameCore t) (hr : t.regs = s.regs) :
    s.Keeps t but :=
  ⟨h, fun p o _ _ => State.word_of_regs s t h.part hr p o⟩

theorem State.Keeps.refl (s : State) (but : Nat → Nat → Prop) : s.Keeps s but :=
  .of_regs but ⟨rfl, rfl, rfl, rfl, rfl, rfl, rfl, rfl, rfl⟩ rfl

theorem State.Keeps.trans (h : s.Keeps t but) (h' : t.Keeps u but) : s.Keeps u but :=
  ⟨h.core.trans h'.core, fun p o ho hn => (h'.word p o ho hn).trans (h.word p o ho hn)⟩

theorem State.Keeps.mono (h : s.Keeps t but) (hb : ∀ p o, but p o → but' p o) : s.Keeps t but' :=
  ⟨h.core, fun p o ho hn => h.word p o ho (hn ∘ hb p o)⟩

theorem State.Keeps.foldl {α : Type} (f : State → α → State) (l : List α)
    (h : ∀ t : State, ∀ x ∈ l, t.Keeps (f t x) but) : ∀ s : State, s.Keeps (l.foldl f s) but := by
  induction l with
  | nil => exact fun s => .refl s but
  | cons x l ih =>
    exact fun s => (h s x (by simp)).trans (ih (fun t y hy => h t y (by simp [hy])) (f s x))

theorem State.Keeps.rd (h : s.Keeps t but) (p : Nat) (f : Fld) (ho : f.off < 4096)
    (hn : ¬ but p f.off) : t.rd p f = s.rd p f := by
  unfold State.rd; rw [h.word p f.off ho hn]

theorem State.Keeps.bit (h : s.Keeps t but) (p : Nat) (f : Fld) (ho : f.off < 4096)
    (hn : ¬ but p f.off) : t.bit p f = s.bit p f := by
  unfold State.bit; rw [h.rd p f ho hn]

theorem State.Keeps.sameMem (h : s.Keeps t but) : s.SameMem t :=
  .of_eq h.core.mem h.core.flash h.core.poison

theorem State.Keeps.sameRegs (h : s.Keeps t but) : s.SameRegs t but :=
  ⟨h.word, fun p o => State.actWord_of_act s t h.core.part h.core.act p o⟩

theorem State.Keeps.pll (h : s.Keeps t but) (n : Nat) : t.pll n = s.pll n := by
  unfold State.pll; rw [h.core.plls]

/-! ### Raised events -/

theorem State.Raises.core (h : s.Raises t but) : s.SameCore t where
  part := (congrArg State.part h.rest :)
  now := (congrArg State.now h.rest :)
  aon := (congrArg State.aon h.rest :)
  pwr := (congrArg State.pwr h.rest :)
  plls := (congrArg State.plls h.rest :)
  act := (congrArg State.act h.rest :)
  mem := (congrArg State.mem h.rest :)
  flash := (congrArg State.flash h.rest :)
  poison := (congrArg State.poison h.rest :)

theorem State.Raises.keeps (h : s.Raises t but) : s.Keeps t but := ⟨h.core, h.word⟩

theorem State.Raises.refl (s : State) (but : Nat → Nat → Prop) : s.Raises s but :=
  ⟨rfl, fun _ _ _ _ => rfl, rfl, fun _ _ h => h⟩

theorem State.Raises.trans (h : s.Raises t but) (h' : t.Raises u but) : s.Raises u but where
  rest := by
    rw [← h.rest]
    conv_rhs => rw [← h'.rest]
  word p o ho hn := (h'.word p o ho hn).trans (h.word p o ho hn)
  training := h'.training.trans h.training
  raised p b hr := h'.raised p b (h.raised p b hr)

theorem State.Raises.mono (h : s.Raises t but) (hb : ∀ p o, but p o → but' p o) : s.Raises t but' :=
  ⟨h.rest, fun p o ho hn => h.word p o ho (hn ∘ hb p o), h.training, h.raised⟩

theorem State.Raises.foldl {α : Type} (f : State → α → State) (l : List α)
    (h : ∀ t : State, ∀ x ∈ l, t.Raises (f t x) but) : ∀ s : State, s.Raises (l.foldl f s) but := by
  induction l with
  | nil => exact fun s => .refl s but
  | cons x l ih =>
    exact fun s => (h s x (by simp)).trans (ih (fun t y hy => h t y (by simp [hy])) (f s x))

/-! ### Writes and emissions -/

theorem State.raised_of_word (h : t.word = s.word) (p b : Nat) (hr : s.Raised p b) : t.Raised p b := by
  unfold State.Raised at *; rw [h]; exact hr

theorem State.wr_raised (s : State) (p v q b : Nat) (f : Fld) (hf : f.Sound) (h : f.off ≠ 0x014)
    (hr : s.Raised q b) : (s.wr p f v).Raised q b := by
  unfold State.Raised at *
  rw [State.word_wr_ne s p q _ f hf (by decide) (.inr h.symm)]
  exact hr

variable (s)

theorem State.wr_raises (p v : Nat) (f : Fld) (hf : f.Sound) (h14 : f.off ≠ 0x014) (h : but p f.off) :
    s.Raises (s.wr p f v) but where
  rest := rfl
  word q o ho hn := State.word_wr_ne s p q o f hf ho
    (not_and_or.mp fun e => hn (by rw [e.1, e.2]; exact h)) v
  training := rfl
  raised q b := s.wr_raised p v q b f hf h14

theorem State.wr_keeps (p v : Nat) (f : Fld) (hf : f.Sound) (h : but p f.off) :
    s.Keeps (s.wr p f v) but :=
  ⟨⟨rfl, rfl, rfl, rfl, rfl, rfl, rfl, rfl, rfl⟩, fun q o ho hn => State.word_wr_ne s p q o f hf ho
    (not_and_or.mp fun e => hn (by rw [e.1, e.2]; exact h)) v⟩

theorem State.emit_raises (e : Emission) : s.Raises (s.emit e) but :=
  ⟨rfl, fun _ _ _ _ => rfl, rfl, fun _ _ h => h⟩

theorem State.updFir_raises (h : Nat) (g : Fir → Fir) : s.Raises (s.updFir h g) but := by
  unfold State.updFir
  split
  · exact ⟨rfl, fun _ _ _ _ => rfl, rfl, fun _ _ h => h⟩
  · exact .refl s but

/-! ### Events and the Guestbook's entries -/

theorem State.signal_training (fn v : Nat) : (s.signal fn v).pcie.training = s.pcie.training := by
  unfold State.signal
  split
  · rfl
  · split
    · split <;> rfl
    · rfl

theorem State.eventDue_training (p b : Nat) : (s.eventDue p b).pcie.training = s.pcie.training := by
  have h : ∀ t : State, t.pcie.training = s.pcie.training →
      (match unitOf s.part p with
        | some (.stm, i) => t.signal (i + 1) 0
        | _ => t).pcie.training = s.pcie.training := fun t ht => by
    split
    · exact (t.signal_training _ _).trans ht
    · exact ht
  unfold State.eventDue
  refine h _ ?_
  split <;> rfl

theorem State.setEventBit_training (p b : Nat) : (s.setEventBit p b).pcie.training = s.pcie.training := by
  unfold State.setEventBit
  dsimp only
  split
  · rfl
  · exact State.eventDue_training _ p b

/-- A bit that is set stays set when another one is. -/
theorem State.setEventBit_raised (p b q c : Nat) (h : s.Raised q c) : (s.setEventBit p b).Raised q c := by
  unfold State.Raised at *
  by_cases hq : q = p
  · subst hq
    rw [State.setEventBit_self, BitVec.getLsbD_or, h]
    rfl
  · rw [State.setEventBit_word s p b q 0x014 (by decide) (.inl hq)]
    exact h

theorem State.gbkEntry_raises (e : GbkEntry) (hg : ∀ p o, evWords pgGBK p o → but p o) :
    s.Raises (s.gbkEntry e) but where
  rest := by simp
  word p o ho hn := s.gbkEntry_word e p o ho (by
    by_contra hc
    rw [not_or, not_not, not_and_or, not_not, not_not] at hc
    exact hn (hg p o (.inr hc)))
  training := by
    unfold State.gbkEntry State.gbkPush
    split
    · rename_i h; split at h <;> cases h; rfl
    · simp only [State.incSat_eq, State.addSat_eq, State.wr_pcie, State.setEventBit_training]
  raised p b h := s.gbkEntry_raised e p b h

theorem State.record_raises (event page detail : Nat) (hg : ∀ p o, evWords pgGBK p o → but p o) :
    s.Raises (s.record event page detail) but := s.gbkEntry_raises _ hg

theorem State.raiseD_raises (page b detail : Nat) (hp : but page 0x014)
    (hg : ∀ p o, evWords pgGBK p o → but p o) : s.Raises (s.raiseD page b detail) but := by
  have hbit : s.Raises ((s.setEventBit page b).endMarks page b) but :=
    { rest := by simp
      word := fun p o ho hn => (State.word_of_regs (s.setEventBit page b) _ (by simp) rfl p o).trans
        (s.setEventBit_word page b p o ho (not_and_or.mp fun e => hn (by rw [e.1, e.2]; exact hp)))
      training := s.setEventBit_training page b
      raised := fun p c h => by
        have := s.setEventBit_raised page b p c h
        unfold State.Raised at *
        rw [State.word_of_regs (s.setEventBit page b) ((s.setEventBit page b).endMarks page b) (by simp) rfl]
        exact this }
  unfold State.raiseD
  split
  · exact .refl s but
  · dsimp only
    split
    · exact .refl s but
    · split
      · exact hbit.trans (State.gbkEntry_raises _ _ hg)
      · exact hbit.trans ⟨rfl, fun _ _ _ _ => rfl, rfl, fun _ _ h => h⟩

theorem State.raise_raises (page b : Nat) (hp : but page 0x014)
    (hg : ∀ p o, evWords pgGBK p o → but p o) : s.Raises (s.raise page b) but :=
  s.raiseD_raises page b _ hp hg

/-- Held entries are written, and nothing but the Guestbook's words changes. -/
theorem State.gbkFlushLate_raises (hg : ∀ p o, evWords pgGBK p o → but p o) :
    s.Raises s.gbkFlushLate but := by
  have h0 : s.Raises { s with gbk := { s.gbk with late := [] } } but :=
    ⟨rfl, fun _ _ _ _ => rfl, rfl, fun _ _ h => h⟩
  exact h0.trans (.foldl _ _ (fun t x _ => t.gbkEntry_raises _ hg) _)

end Sys2Proof.Machine
end

section
/-! SUPPORT. What the power sequencer does as votes and levels change (R76-R91): which registers may change,
and what stands. -/

namespace Sys2Proof.Machine

variable {s t u : State}

/-! ### Pages -/

theorem kindOf_fir (part : Part) : ∀ h, h < part.heads → kindOf part (pgFIR h) = some .fir := by
  cases part <;> decide

theorem kindOf_firRoot (part : Part) : kindOf part pgFIRroot = some .firRoot := by cases part <;> rfl

theorem kindOf_tb (part : Part) : ∀ i ∈ [0, 1, 2, 3], kindOf part (pgTB i) = some .tb := by
  cases part <;> decide

theorem evNum_pwr (part : Part) : evNum part pgPWR 1 = some 527 := by cases part <;> rfl

/-- Only PRINT, CAM and MECH have event clamps (R87). -/
theorem State.clamped_of_kind (s : State) (page : Nat) (kd : Kind) (hk : s.kind page = some kd)
    (hd : (kd.domain == .print || kd.domain == .cam || kd.domain == .mech) = false) :
    s.clamped page = false := by
  unfold State.clamped
  rw [hk]
  dsimp only
  rw [hd, Bool.false_and]

theorem State.clamped_pwr (s : State) : s.clamped pgPWR = false :=
  s.clamped_of_kind pgPWR .pwr (by unfold State.kind; cases s.part <;> rfl) rfl

/-! ### What a reaction changes -/

/-- The words that a reaction to a change of the votes may change: the sequencer's events and Patrol's count,
the time bases' stale marks, the firing pages, and the Guestbook's words for a full queue. -/
def reactWord (part : Part) (p o : Nat) : Prop :=
  (p = pgPWR ∧ (o = 0x014 ∨ o = 0x074)) ∨ kindOf part p ∈ [some .tb, some .fir, some .firRoot] ∨
    evWords pgGBK p o

/-- A wake waits for SYS, or its event has been raised (R91). -/
def State.Woken (s : State) : Prop := s.aon.wakePending = true ∨ s.Raised pgPWR 1

/-- The sequencer has reacted: power, the watch's start, firing blocks and events apart, nothing differs, and
a wake is not lost. -/
structure State.Reacts (s t : State) : Prop where
  rest : { t with regs := s.regs, pwr := s.pwr, aon := s.aon, wrd := s.wrd, fir := s.fir, gbk := s.gbk,
                  pcie := s.pcie, follies := s.follies, emitted := s.emitted } = s
  perst : t.aon.perst = s.aon.perst
  wakeLow : t.aon.pcieWakeLow = s.aon.pcieWakeLow
  training : t.pcie.training = s.pcie.training
  word : ∀ p o, o < 4096 → ¬ reactWord s.part p o → t.word p o = s.word p o
  woken : s.Woken → t.Woken

theorem State.Reacts.part (h : s.Reacts t) : t.part = s.part := (congrArg State.part h.rest :)

theorem State.Reacts.refl (s : State) : s.Reacts s := ⟨rfl, rfl, rfl, rfl, fun _ _ _ _ => rfl, id⟩

theorem State.Reacts.trans (h : s.Reacts t) (h' : t.Reacts u) : s.Reacts u where
  rest := by
    rw [← h.rest]
    conv_rhs => rw [← h'.rest]
  perst := h'.perst.trans h.perst
  wakeLow := h'.wakeLow.trans h.wakeLow
  training := h'.training.trans h.training
  word p o ho hn := (h'.word p o ho (by rw [h.part]; exact hn)).trans (h.word p o ho hn)
  woken := h'.woken ∘ h.woken

theorem State.Reacts.foldl {α : Type} (f : State → α → State) (h : ∀ (t : State) x, t.Reacts (f t x)) (l : List α) :
    ∀ s : State, s.Reacts (l.foldl f s) := by
  induction l with
  | nil => exact .refl
  | cons x l ih => exact fun s => (h s x).trans (ih (f s x))

theorem State.Reacts.sameMem (h : s.Reacts t) : s.SameMem t :=
  .of_eq (congrArg State.mem h.rest :) (congrArg State.flash h.rest :) (congrArg State.poison h.rest :)

theorem State.Reacts.plls (h : s.Reacts t) : t.plls = s.plls := (congrArg State.plls h.rest :)

theorem State.Reacts.act (h : s.Reacts t) : t.act = s.act := (congrArg State.act h.rest :)

theorem State.Reacts.rd (h : s.Reacts t) (p : Nat) (f : Fld) (ho : f.off < 4096)
    (hn : ¬ reactWord s.part p f.off) : t.rd p f = s.rd p f := by
  unfold State.rd; rw [h.word p f.off ho hn]

theorem State.Reacts.bit (h : s.Reacts t) (p : Nat) (f : Fld) (ho : f.off < 4096)
    (hn : ¬ reactWord s.part p f.off) : t.bit p f = s.bit p f := by
  unfold State.bit; rw [h.rd p f ho hn]

/-- Events that are raised, with the words they are told of. -/
theorem State.Raises.reacts (h : s.Raises t (reactWord s.part)) : s.Reacts t where
  rest := (congrArg (fun x : State => { x with pwr := s.pwr, aon := s.aon, wrd := s.wrd }) h.rest :)
  perst := by rw [h.core.aon]
  wakeLow := by rw [h.core.aon]
  training := h.training
  word := h.word
  woken := Or.imp (fun e => by rw [h.core.aon]; exact e) (h.raised pgPWR 1)

/-- The sequencer's own state, and the island's, where neither PERST# nor a wake that waits differs. -/
theorem State.Reacts.power (s : State) (x : Pwr) (y : Aon) (w : Warden) (hp : y.perst = s.aon.perst)
    (hl : y.pcieWakeLow = s.aon.pcieWakeLow) (hw : s.aon.wakePending = true → y.wakePending = true) :
    s.Reacts { s with pwr := x, aon := y, wrd := w } :=
  ⟨rfl, hp, hl, rfl, fun _ _ _ _ => rfl, Or.imp hw id⟩

variable (s)

/-! ### Events of the sequencer -/

theorem reactWord_gbk (part : Part) (p o : Nat) (h : evWords pgGBK p o) : reactWord part p o :=
  .inr (.inr h)

theorem State.raiseD_pwr_reacts (b d : Nat) : s.Reacts (s.raiseD pgPWR b d) :=
  (s.raiseD_raises pgPWR b d (.inl ⟨rfl, .inl rfl⟩) (reactWord_gbk s.part)).reacts

theorem State.gbkFlushLate_reacts : s.Reacts s.gbkFlushLate :=
  (s.gbkFlushLate_raises (reactWord_gbk s.part)).reacts

theorem State.raise_pwr_reacts (b : Nat) : s.Reacts (s.raise pgPWR b) := s.raiseD_pwr_reacts b _

/-! ### PRINT and NET at level 2 (R217, R320) -/

theorem State.cutHead_raises {but : Nat → Nat → Prop} (h cause : Nat)
    (hf : ∀ o, but (pgFIR h) o) (hr : ∀ o, but pgFIRroot o) (hg : ∀ p o, evWords pgGBK p o → but p o) :
    s.Raises (s.cutHead h cause) but := by
  have hp : s.Raises (s.padStops h) but := s.updFir_raises h _
  have hm : s.Raises (((s.padStops h).wr (pgFIR h) FIR_CUT_STAT_CUT 1).wr pgFIRroot FIR_CUT_MASK_HEADS
      ((s.padStops h).rd pgFIRroot FIR_CUT_MASK_HEADS ||| 2 ^ h)) but :=
    hp.trans ((State.wr_raises _ _ _ _ (by decide) (by decide) (hf _)).trans
      (State.wr_raises _ _ _ _ (by decide) (by decide) (hr _)))
  have hd : ∀ u : State, s.Raises u but → s.Raises ((u.incSat (pgFIR h) FIR_CUT_STAT_COUNT).raise (pgFIR h)
      (if cause = 2 then 1 else 0)) but := fun u hu => by
    rw [State.incSat_eq, State.addSat_eq]
    exact hu.trans ((State.wr_raises _ _ _ _ (by decide) (by decide) (hf _)).trans
      (State.raise_raises _ _ _ (hf _) hg))
  unfold State.cutHead
  refine hd _ ?_
  split
  · exact hm
  · exact hm.trans (State.wr_raises _ _ _ _ (by decide) (by decide) (hf _))

theorem State.estopEdge_raises : s.Raises s.estopEdge (reactWord s.part) := by
  have hg := reactWord_gbk s.part
  have hr : ∀ o, reactWord s.part pgFIRroot o := fun o => .inr (.inl (by simp [kindOf_firRoot]))
  have hcut : s.Raises ((List.range s.part.heads).foldl
      (fun t h => (t.updFir h (fun f => { f with rearm := false })).cutHead h 3) s) (reactWord s.part) := by
    refine .foldl _ _ (fun t h hh => ?_) s
    have hk := kindOf_fir s.part h (List.mem_range.mp hh)
    exact (t.updFir_raises h _).trans (State.cutHead_raises _ h 3
      (fun o => .inr (.inl (by simp [hk]))) hr hg)
  have hlatch : ∀ u : State, s.Raises u (reactWord s.part) →
      s.Raises ((u.wr pgFIRroot FIR_ESTOP_LATCHED 1).incSat pgFIRroot FIR_ESTOP_COUNT)
        (reactWord s.part) := fun u hu => by
    rw [State.incSat_eq, State.addSat_eq]
    exact (hu.trans (State.wr_raises _ _ _ _ (by decide) (by decide) (hr _))).trans
      (State.wr_raises _ _ _ _ (by decide) (by decide) (hr _))
  unfold State.estopEdge
  dsimp only
  split
  · exact (hlatch _ hcut).trans (State.record_raises _ _ _ _ hg)
  · exact hlatch _ hcut

theorem State.printBack_raises (before : State) : s.Raises (before.printBack s) (reactWord s.part) := by
  unfold State.printBack
  split
  · exact s.estopEdge_raises
  · exact .refl s _

theorem State.netBack_raises (before : State) : s.Raises (before.netBack s) (reactWord s.part) := by
  unfold State.netBack
  split
  · refine .foldl _ _ (fun t i hi => ?_) s
    have hk := kindOf_tb s.part i hi
    split
    · exact t.wr_raises _ _ _ (by decide) (by decide) (.inr (.inl (by simp [hk])))
    · exact .refl t _
  · exact .refl s _

/-! ### Drops and rises (R83, R84) -/

theorem State.setPhase_reacts (d : Fin 7) (p : DomPhase) : s.Reacts (s.setPhase d p) :=
  .power s _ s.aon s.wrd rfl rfl id

theorem State.backUp_reacts (d : Fin 7) : s.Reacts (s.backUp d) := by
  unfold State.backUp
  dsimp only
  split
  · exact .power s _ s.aon s.wrd rfl rfl id
  · split
    · exact .power s _ { s.aon with ddrKept := false } s.wrd rfl rfl id
    · exact s.setPhase_reacts d .up

theorem State.abortDrop_reacts (d : Fin 7) : s.Reacts (s.abortDrop d) := by
  unfold State.abortDrop
  split
  · exact .refl s
  · split
    · exact (s.backUp_reacts d).trans (State.raise_pwr_reacts _ 2)
    · exact (s.backUp_reacts d).trans (State.raise_pwr_reacts _ 2)
    · exact (s.setPhase_reacts d _).trans (State.raise_pwr_reacts _ 2)
    · exact .refl s

theorem State.beginDrop_reacts (d : Fin 7) : s.Reacts (s.beginDrop d) := by
  unfold State.beginDrop
  dsimp only
  split
  · exact .power s _ s.aon s.wrd rfl rfl id
  · exact s.setPhase_reacts d _

theorem State.react_reacts : s.Reacts s.react := by
  have habort : s.Reacts (dropOrder.foldl State.abortDrop s) :=
    .foldl _ (fun t d => t.abortDrop_reacts d) _ s
  unfold State.react
  generalize dropOrder.foldl State.abortDrop s = t at habort
  dsimp only
  split
  · exact habort
  · split
    · exact habort.trans (.power t _ { t.aon with railEn := true } t.wrd rfl rfl id)
    · split
      · split
        · exact habort
        · exact habort.trans (t.beginDrop_reacts _)
      · exact habort

/-! ### SYS at level 2 (R80, R386, R91) -/

/-- The wake that waited raises its event. -/
theorem State.wakeTold_reacts (d : Nat) : s.Reacts
    (({ s with aon := { s.aon with wakePending := false } } : State).raiseD pgPWR 1 d) where
  rest := by
    have h := State.raiseD_pwr_reacts { s with aon := { s.aon with wakePending := false } } 1 d
    exact (congrArg (fun x : State => { x with aon := s.aon }) h.rest :)
  perst := (State.raiseD_pwr_reacts _ 1 d).perst
  wakeLow := (State.raiseD_pwr_reacts _ 1 d).wakeLow
  training := (State.raiseD_pwr_reacts _ 1 d).training
  word := (State.raiseD_pwr_reacts { s with aon := { s.aon with wakePending := false } } 1 d).word
  woken _ := .inr (State.raiseD_raised _ pgPWR 1 d 527 (evNum_pwr _) (by decide) (State.clamped_pwr _))

theorem State.sysBack_reacts : s.Reacts s.sysBack := by
  have hraise : s.Reacts ((({ s with wrd := { s.wrd with kickAt := s.now } } : State).gbkFlushLate).raise
      pgPWR 0) :=
    ((State.Reacts.power s s.pwr s.aon { s.wrd with kickAt := s.now } rfl rfl id).trans
      (State.gbkFlushLate_reacts _)).trans (State.raise_pwr_reacts _ 0)
  have hrail : ∀ t : State, s.Reacts t → s.Reacts (if t.aon.railTimeout then
      ({ t with aon := { t.aon with railTimeout := false } } : State).raise pgPWR 3 else t) := fun t ht => by
    split
    · exact (ht.trans (.power t t.pwr { t.aon with railTimeout := false } t.wrd rfl rfl id)).trans
        (State.raise_pwr_reacts _ 3)
    · exact ht
  unfold State.sysBack
  refine hrail _ ?_
  split
  · exact hraise.trans (State.wakeTold_reacts _ _)
  · exact hraise

theorem State.sysFollow_reacts : s.Reacts s.sysFollow := by
  unfold State.sysFollow
  split
  · exact (State.Reacts.power s { s.pwr with sysLow := false } s.aon s.wrd rfl rfl id).trans
      (State.sysBack_reacts _)
  · exact .power s _ s.aon s.wrd rfl rfl id

theorem State.domainUp_reacts (d : Fin 7) : s.Reacts (s.domainUp d) :=
  (((s.backUp_reacts d).trans (State.netBack_raises _ s).reacts).trans
    (State.printBack_raises _ s).reacts).trans (State.sysFollow_reacts _)

/-! ### Votes (R76, R78) -/

theorem State.patrolEntry_reacts : s.Reacts s.patrolEntry :=
  (State.Reacts.power s { s.pwr with winCount := Vector.replicate 8 0 } s.aon s.wrd rfl rfl id).trans
    (State.wr_raises _ pgPWR 0 PWR_PATROL_STAT_CYCLES (by decide) (by decide) (.inl ⟨rfl, .inr rfl⟩)).reacts

/-- After what changed a vote, the sequencer reacts, and does nothing else. -/
theorem State.revote_reacts (f : State → State) : (f s).Reacts (s.revote f) := by
  have hlevels : (f s).Reacts (s.printBack (s.netBack (if (f s).ready then (f s).react else f s))) := by
    have hreact : (f s).Reacts (if (f s).ready then (f s).react else f s) := by
      split
      · exact (f s).react_reacts
      · exact .refl _
    exact (hreact.trans (State.netBack_raises _ s).reacts).trans (State.printBack_raises _ s).reacts
  have htell : ∀ (c : Prop) [Decidable c] (t : State), (f s).Reacts t →
      (f s).Reacts (if c then t.raise pgPWR 0 else t) := fun c _ t ht => by
    split
    · exact ht.trans (t.raise_pwr_reacts 0)
    · exact ht
  have hfollow : ∀ t : State, (f s).Reacts t → (f s).Reacts (if t.ready then t.sysFollow else t) :=
    fun t ht => by
      split
      · exact ht.trans t.sysFollow_reacts
      · exact ht
  have hpatrol : ∀ (c : Prop) [Decidable c] (t : State), (f s).Reacts t →
      (f s).Reacts (if c then t.patrolEntry else t) := fun c _ t ht => by
    split
    · exact ht.trans t.patrolEntry_reacts
    · exact ht
  exact hpatrol _ _ (hfollow _ (htell _ _ hlevels))

end Sys2Proof.Machine
end

section
/-! SUPPORT. A HOST-level reset (R66, R159). -/

namespace Sys2Proof

/-- A filter by keys takes an entry out, or leaves it. -/
theorem Tbl.get_filter {α : Type} (d : α) (k : Nat) (q : Nat → Bool) (t : Tbl α) :
    get d k (List.filter (fun e => q e.1) t) = if q k then get d k t else d := by
  induction t with
  | nil => simp [get]
  | cons e t ih =>
    obtain ⟨k', v⟩ := e
    by_cases hq : q k' = true
    · by_cases hk : k' = k
      · subst hk; simp [get, hq]
      · simp [get, hq, hk, ih]
    · by_cases hk : k' = k
      · subst hk; simp [hq, ih]
      · simp [get, hq, hk, ih]

end Sys2Proof

namespace Sys2Proof.Machine

variable {s t : State}

theorem evWords_gbk (page p o : Nat) (h : evWords pgGBK p o) : evWords page p o := by
  rcases h with ⟨rfl, rfl⟩ | h
  · exact .inr ⟨rfl, .inl rfl⟩
  · exact .inr h

/-- A page back at reset: its words read their reset values. -/
theorem State.resetPage_word (s : State) (page o : Nat) (ho : o < 4096) :
    (s.resetPage page).word page o = resetWord s.part page o := by
  have hp : onPage page (regKey page o) = true := by
    unfold onPage regKey; exact decide_eq_true (by omega)
  refine (Tbl.get_filter _ _ (fun k => !onPage page k) _).trans ?_
  simp [hp]; rfl

/-- Every other page's words stand. -/
theorem State.resetPage_word_ne (s : State) (page p o : Nat) (ho : o < 4096) (h : p ≠ page) :
    (s.resetPage page).word p o = s.word p o := by
  have hp : onPage page (regKey p o) = false := by
    unfold onPage regKey; exact decide_eq_false (by omega)
  refine (Tbl.get_filter _ _ (fun k => !onPage page k) _).trans ?_
  simp [hp]; rfl

theorem State.updStm_get (s : State) (i j : Fin 4) (g : Stream → Stream) :
    (s.updStm i g).stm.get j = if j = i then g (s.stm.get j) else s.stm.get j := by
  refine (Vector.getElem_set (xs := s.stm) i.isLt j.isLt).trans ?_
  by_cases h : j = i
  · subst h; simp
  · have hn : i.val ≠ j.val := fun e => h (Fin.ext e.symm)
    rw [if_neg hn, if_neg h]; rfl

/-- What a HOST-level reset clears, before its record: the host's own, the PCIE page, every stream's ring. -/
def State.hostGone (s : State) : State :=
  ([0, 1, 2, 3] : List (Fin 4)).foldl (fun t i => t.updStm i (fun x => { x with fenced := true }))
    { s.resetPage pgPCIE with host := { results := [], slots := [], stale := [] },
                              pcie := Pcie.fresh s.aon.perst }

theorem State.hostReset_eq (s : State) (why : Nat) (h : s.qlp.arc = none) :
    s.hostReset why = s.hostGone.record 0x3001 pgPCIE (2 ^ why) := by
  have harc : s.hostGone.qlp.arc.isSome = false := by
    have : s.hostGone.qlp = s.qlp := rfl
    rw [this, h]; rfl
  have he : s.hostReset why = (if s.hostGone.qlp.arc.isSome then s.hostGone.arcFail 6 else s.hostGone).record
      0x3001 pgPCIE (2 ^ why) := rfl
  rw [he, harc]
  rfl

/-- The host's own results and slots are gone, PCIE reads as at reset, and every ring is fenced. -/
def State.HostCleared (s t : State) : Prop :=
  t.host.results = [] ∧ t.host.slots = [] ∧ t.host.stale = [] ∧ t.gkpSide = s.gkpSide ∧
    (∀ o, o < 4096 → t.word pgPCIE o = resetWord s.part pgPCIE o) ∧
    (∀ i : Fin 4, (t.stm.get i).fenced = true)

theorem State.hostGone_cleared (s : State) : s.HostCleared s.hostGone := by
  refine ⟨rfl, rfl, rfl, rfl, fun o ho => ?_, fun i => ?_⟩
  · exact (State.word_of_regs (s.resetPage pgPCIE) s.hostGone rfl rfl pgPCIE o).trans
      (s.resetPage_word pgPCIE o ho)
  · unfold State.hostGone
    simp only [List.foldl_cons, List.foldl_nil, State.updStm_get]
    fin_cases i <;> rfl

/-- What only raises events leaves of a HOST-level reset what it cleared. -/
theorem State.HostCleared.of_rest {u : State} (h : s.HostCleared t) (hh : u.host = t.host)
    (hg : u.gkpSide = t.gkpSide) (hs : u.stm = t.stm) (hw : ∀ o, o < 4096 → u.word pgPCIE o = t.word pgPCIE o) :
    s.HostCleared u := by
  obtain ⟨hr, hsl, hst, hgk, hpg, hf⟩ := h
  exact ⟨by rw [hh, hr], by rw [hh, hsl], by rw [hh, hst], hg.trans hgk,
    fun o ho => (hw o ho).trans (hpg o ho), fun i => by rw [hs]; exact hf i⟩

theorem State.hostReset_raises (s : State) (why : Nat) (h : s.qlp.arc = none) :
    s.hostGone.Raises (s.hostReset why) (evWords pgGBK) := by
  rw [s.hostReset_eq why h]
  exact State.record_raises _ _ _ _ fun _ _ h => h

theorem not_evWords_pcie (o : Nat) : ¬ evWords pgGBK pgPCIE o := by
  unfold evWords; simp [pgGBK, pgPCIE]

theorem State.hostReset_cleared (s : State) (why : Nat) (h : s.qlp.arc = none) :
    s.HostCleared (s.hostReset why) := by
  have hr := s.hostReset_raises why h
  exact s.hostGone_cleared.of_rest (congrArg State.host hr.rest :) (congrArg State.gkpSide hr.rest :)
    (congrArg State.stm hr.rest :) (fun o ho => hr.word pgPCIE o ho (not_evWords_pcie o))

/-- A HOST-level reset touches no memory, no other page but the Guestbook's, and nothing else. -/
theorem State.hostReset_only (s : State) (why : Nat) (h : s.qlp.arc = none) :
    s.SameMem (s.hostReset why) ∧
      (∀ p o, o < 4096 → p ≠ pgPCIE → p ≠ pgGBK → (s.hostReset why).word p o = s.word p o) ∧
      { s.hostReset why with
          host := s.host, pcie := s.pcie, stm := s.stm, regs := s.regs, act := s.act,
          commits := s.commits, follies := s.follies, gbk := s.gbk } = s := by
  have hr := s.hostReset_raises why h
  have hgone : s.SameMem s.hostGone := .of_eq rfl rfl rfl
  refine ⟨hgone.trans hr.keeps.sameMem, fun p o ho hp hg => ?_, ?_⟩
  · rw [hr.word p o ho fun he => hg (he.elim And.left And.left)]
    exact (State.word_of_regs (s.resetPage pgPCIE) s.hostGone rfl rfl p o).trans
      (s.resetPage_word_ne pgPCIE p o ho hp)
  · have hfir : (s.hostReset why).fir = s.fir := by rw [s.hostReset_eq why h, State.record_fir]; rfl
    have hem : (s.hostReset why).emitted = s.emitted := by
      rw [s.hostReset_eq why h]; exact State.gbkEntry_emitted _ _
    have hu : { s.hostReset why with
        host := s.host, pcie := s.pcie, stm := s.stm, regs := s.regs, act := s.act,
        commits := s.commits, follies := s.follies, gbk := s.gbk } =
      { s.hostReset why with
        host := s.host, pcie := s.pcie, stm := s.stm, regs := s.regs, act := s.act,
        commits := s.commits, follies := s.follies, gbk := s.gbk, fir := s.fir, emitted := s.emitted } := by
      rw [← hfir, ← hem]
    exact hu.trans (congrArg (fun x : State => { x with
      host := s.host, pcie := s.pcie, stm := s.stm, regs := s.regs, act := s.act,
      commits := s.commits, follies := s.follies, gbk := s.gbk }) hr.rest :)

end Sys2Proof.Machine
end

section
/-! PROOFS. The host's link (R66, R73, R328, R329, R334). -/

namespace Sys2Proof.Machine

variable (s : State)

/-! ### Resets by the link -/

theorem kindOf_pcie (part : Part) : kindOf part pgPCIE = some .pcie := by cases part <;> rfl

theorem not_reactWord_pcie (part : Part) (o : Nat) : ¬ reactWord part pgPCIE o := by
  rintro (h | h | h)
  · exact absurd h.1 (by decide)
  · simp [kindOf_pcie] at h
  · exact not_evWords_pcie o h

theorem State.exec_perstAssert (hp : s.aon.perst = true) : exec .perstAssert s = .next (s.fresh.revote
    (fun u => ({ u with aon := { u.aon with perst := false } } : State).hostReset 0)) :=
  congrArg Host.Outcome.next (State.onlyIf_true s.fresh s.aon.perst _ hp)

/-- PERST# falls: the reset, and the reaction to the vote that goes with it. -/
theorem State.perstAssert_cleared (hp : s.aon.perst = true) (ha : s.qlp.arc = none) :
    ∃ t, exec .perstAssert s = .next t ∧ s.HostCleared t ∧ t.aon.perst = false := by
  let v : State := { s.fresh with aon := { s.fresh.aon with perst := false } }
  have hr := s.fresh.revote_reacts (fun u => ({ u with aon := { u.aon with perst := false } } : State).hostReset 0)
  have hc : s.HostCleared (v.hostReset 0) := v.hostReset_cleared 0 ha
  have hv := v.hostReset_raises 0 ha
  refine ⟨_, s.exec_perstAssert hp, hc.of_rest (congrArg State.host hr.rest :)
    (congrArg State.gkpSide hr.rest :) (congrArg State.stm hr.rest :)
    (fun o ho => hr.word pgPCIE o ho (not_reactWord_pcie _ o)), ?_⟩
  rw [hr.perst]
  exact congrArg Aon.perst hv.core.aon

/-! ### The link comes up (R73, R334) -/

/-- PERST# rises in Run or Hold: the part trains. -/
theorem State.perstDeassert_trains (hp : s.aon.perst = false) (ha : s.asleep = false) :
    ∃ t, exec .perstDeassert s = .next t ∧ t.aon.perst = true ∧ t.pcie.training = true ∧
      t.aon.pcieWakeLow = false ∧ s.SameMem t := by
  let up := fun (u : State) =>
    ({ u with aon := { u.aon with perst := true, pcieWakeLow := false },
              pcie := { u.pcie with training := true } } : State)
  have hr := s.fresh.revote_reacts up
  have he : exec .perstDeassert s = .next (s.fresh.revote up) := by
    have h1 : exec .perstDeassert s = .next (s.fresh.onlyIf (!s.aon.perst) (fun t =>
      if t.asleep then (t.wr pgPWR PWR_WAKE_CAUSE_PERST 1).wakeBy up else t.revote up)) := rfl
    have h2 : s.fresh.asleep = false := ha
    rw [h1, State.onlyIf_true _ _ _ (by rw [hp]; rfl), h2]
    rfl
  exact ⟨_, he, hr.perst, hr.training, hr.wakeLow, hr.sameMem⟩

/-- The link is up at a speed and a width, and training has ended. -/
def State.linked (speed width : BitVec 3) : State :=
  { ((s.wr pgPCIE PCIE_LINK_SPEED speed.toNat).wr pgPCIE PCIE_LINK_WIDTH width.toNat).wr pgPCIE
      PCIE_LINK_UP 1 with pcie := { s.pcie with training := false } }

theorem State.linked_rd (speed width : BitVec 3) (p : Nat) (f : Fld) : (s.linked speed width).rd p f =
    (((s.wr pgPCIE PCIE_LINK_SPEED speed.toNat).wr pgPCIE PCIE_LINK_WIDTH width.toNat).wr pgPCIE
      PCIE_LINK_UP 1).rd p f := rfl

theorem State.linked_keeps (speed width : BitVec 3) :
    s.Keeps (s.linked speed width) (fun p o => p = pgPCIE ∧ o = PCIE_LINK_UP.off) := by
  have h := ((s.wr_keeps (but := fun p o => p = pgPCIE ∧ o = PCIE_LINK_UP.off) pgPCIE speed.toNat
    PCIE_LINK_SPEED (by decide) ⟨rfl, rfl⟩).trans
      (State.wr_keeps _ pgPCIE width.toNat PCIE_LINK_WIDTH (by decide) ⟨rfl, rfl⟩)).trans
      (State.wr_keeps _ pgPCIE 1 PCIE_LINK_UP (by decide) ⟨rfl, rfl⟩)
  exact h.trans (.of_regs _ ⟨rfl, rfl, rfl, rfl, rfl, rfl, rfl, rfl, rfl⟩ rfl)

theorem State.linked_speed (speed width : BitVec 3) :
    (s.linked speed width).rd pgPCIE PCIE_LINK_SPEED = speed.toNat := by
  rw [State.linked_rd,
    State.rd_wr_apart _ pgPCIE PCIE_LINK_UP PCIE_LINK_SPEED (by decide) (by decide) rfl (by decide),
    State.rd_wr_apart _ pgPCIE PCIE_LINK_WIDTH PCIE_LINK_SPEED (by decide) (by decide) rfl (by decide),
    State.rd_wr _ _ _ (by decide)]
  exact Nat.mod_eq_of_lt speed.isLt

theorem State.linked_width (speed width : BitVec 3) :
    (s.linked speed width).rd pgPCIE PCIE_LINK_WIDTH = width.toNat := by
  rw [State.linked_rd,
    State.rd_wr_apart _ pgPCIE PCIE_LINK_UP PCIE_LINK_WIDTH (by decide) (by decide) rfl (by decide),
    State.rd_wr _ _ _ (by decide)]
  exact Nat.mod_eq_of_lt width.isLt

theorem State.linked_up (speed width : BitVec 3) : (s.linked speed width).bit pgPCIE PCIE_LINK_UP = true := by
  unfold State.bit
  rw [State.linked_rd, State.rd_wr _ _ _ (by decide)]
  rfl

theorem State.raise_pcie_raised (h : evNum s.part pgPCIE 0 = some 628) : (s.raise pgPCIE 0).Raised pgPCIE 0 :=
  s.raise_raised pgPCIE 0 628 h (by decide) (s.clamped_of_kind pgPCIE .pcie (kindOf_pcie s.part) rfl)

theorem evNum_pcie (part : Part) : evNum part pgPCIE 0 = some 628 := by cases part <;> rfl

theorem State.raise_pcie_raises (s : State) : s.Raises (s.raise pgPCIE 0) (evWords pgPCIE) :=
  s.raise_raises pgPCIE 0 (.inl ⟨rfl, rfl⟩) (evWords_gbk pgPCIE)

theorem State.exec_pcieLinkUp (speed width : BitVec 3) (degraded : Bool) (ht : s.pcie.training = true)
    (hp : s.aon.perst = true) (hi : s.isolated .host = false) (hr : s.aon.refs.get 14 = true)
    (h1 : 1 ≤ speed.toNat) (h4 : speed.toNat ≤ 4) (hw : width = 1 ∨ width = 2 ∨ width = 4) :
    exec (.pcieLinkUp speed width degraded) s = .next
      (if degraded then (s.fresh.linked speed width).raise pgPCIE 0 else s.fresh.linked speed width) := by
  have hc : (s.pcie.training && s.aon.perst && !s.isolated .host && s.aon.refs.get 14 &&
      decide (1 ≤ speed.toNat ∧ speed.toNat ≤ 4 ∧ (width = 1 ∨ width = 2 ∨ width = 4))) = true := by
    simp only [ht, hp, hi, hr, Bool.not_false, Bool.and_self, Bool.true_and, decide_eq_true_eq]
    exact ⟨h1, h4, hw⟩
  exact congrArg Host.Outcome.next (State.onlyIf_true s.fresh _ _ hc)

theorem State.pcieLinkUp_links (speed width : BitVec 3) (degraded : Bool) (t : State)
    (ht : t = if degraded then (s.fresh.linked speed width).raise pgPCIE 0 else s.fresh.linked speed width) :
    t.rd pgPCIE PCIE_LINK_SPEED = speed.toNat ∧ t.rd pgPCIE PCIE_LINK_WIDTH = width.toNat ∧
      t.bit pgPCIE PCIE_LINK_UP = true ∧ t.pcie.training = false ∧
      (degraded = true → t.Raised pgPCIE 0) ∧ s.SameMem t ∧
      s.SameRegs t (fun p o => (p = pgPCIE ∧ o = PCIE_LINK_UP.off) ∨ evWords pgPCIE p o) := by
  have hl : s.fresh.Keeps (s.fresh.linked speed width) _ := s.fresh.linked_keeps speed width
  have hu : (s.fresh.linked speed width).Raises t (evWords pgPCIE) := by
    rw [ht]
    split
    · exact State.raise_pcie_raises _
    · exact .refl _ _
  have hn : ∀ f : Fld, f.off = 0x040 → ¬ evWords pgPCIE pgPCIE f.off := fun f hf =>
    not_evWords _ _ _ (by rw [hf]; decide) (by rw [hf]; decide)
  refine ⟨?_, ?_, ?_, hu.training, fun hd => ?_, hl.sameMem.trans hu.keeps.sameMem, ?_⟩
  · rw [hu.keeps.rd _ _ (by decide) (hn _ rfl), State.linked_speed]
  · rw [hu.keeps.rd _ _ (by decide) (hn _ rfl), State.linked_width]
  · rw [hu.keeps.bit _ _ (by decide) (hn _ rfl), State.linked_up]
  · rw [ht, hd]
    exact State.raise_pcie_raised _ (evNum_pcie _)
  · exact hl.sameRegs.trans hu.keeps.sameRegs

/-- A recovery counts and raises its event. -/
theorem State.pcieRecovery_counts (hb : s.bit pgPCIE PCIE_LINK_UP = true) :
    ∃ t, exec .pcieRecovery s = .next t ∧ t.Raised pgPCIE 0 ∧
      t.rd pgPCIE PCIE_RECOVERIES_N =
        min (s.rd pgPCIE PCIE_RECOVERIES_N + 1) (2 ^ PCIE_RECOVERIES_N.width - 1) ∧ s.SameMem t ∧
      s.SameRegs t (fun p o => (p = pgPCIE ∧ o = PCIE_RECOVERIES_N.off) ∨ evWords pgPCIE p o) := by
  set v := s.fresh.wr pgPCIE PCIE_RECOVERIES_N
    (min (s.rd pgPCIE PCIE_RECOVERIES_N + 1) (2 ^ PCIE_RECOVERIES_N.width - 1)) with hv
  have hk : s.fresh.Keeps v (fun p o => p = pgPCIE ∧ o = PCIE_RECOVERIES_N.off) :=
    s.fresh.wr_keeps _ _ _ (by decide) ⟨rfl, rfl⟩
  have hr := v.raise_pcie_raises
  refine ⟨v.raise pgPCIE 0, congrArg Host.Outcome.next (State.onlyIf_true s.fresh _ _ hb),
    v.raise_pcie_raised (evNum_pcie _), ?_, hk.sameMem.trans hr.keeps.sameMem,
    hk.sameRegs.trans hr.keeps.sameRegs⟩
  rw [hr.keeps.rd _ _ (by decide) (not_evWords _ _ _ (by decide) (by decide)), hv, State.rd_wr _ _ _ (by decide)]
  exact Nat.mod_eq_of_lt (lt_of_le_of_lt (min_le_right _ _) (by decide))

/-! ### Configuration requests (R328, R329) -/

/-- What a request finds once the device answers: its function, and its effect. -/
theorem State.exec_config (op : CfgOp) (hb : s.bit pgPCIE PCIE_LINK_UP = true) (h4 : 4 ≤ s.stage)
    (hf : cfgFn op ≤ s.rd pgPCIE PCIE_VF_NUM_VFS) :
    exec (.pcieConfigRequest op) s = .next ((s.fresh.configure op).emit (.cfgDone false
      (match op with | .read x => s.cfgData x | _ => 0))) := by
  have he : exec (.pcieConfigRequest op) s = .next (s.fresh.onlyIf (s.bit pgPCIE PCIE_LINK_UP) (fun t =>
      if t.stage < 4 then t.emit (.cfgDone true 0)
      else if t.rd pgPCIE PCIE_VF_NUM_VFS < cfgFn op then t
      else (t.configure op).emit (.cfgDone false (match op with | .read x => s.cfgData x | _ => 0)))) := by
    cases op <;> rfl
  have hs : ¬ s.fresh.stage < 4 := not_lt.mpr h4
  have hn : ¬ s.fresh.rd pgPCIE PCIE_VF_NUM_VFS < cfgFn op := not_lt.mpr hf
  rw [he, State.onlyIf_true _ _ _ hb, if_neg hs, if_neg hn]

/-- Before GKP_START every request is completed with Retry Status. -/
theorem State.exec_config_early (op : CfgOp) (hb : s.bit pgPCIE PCIE_LINK_UP = true) (h4 : s.stage < 4) :
    exec (.pcieConfigRequest op) s = .next (s.fresh.emit (.cfgDone true 0)) := by
  have hs : s.fresh.stage < 4 := h4
  refine congrArg Host.Outcome.next ((State.onlyIf_true s.fresh _ _ hb).trans ?_)
  rw [if_pos hs]

/-- No function answers for a VF that is not enabled. -/
theorem State.exec_config_absent (op : CfgOp) (hb : s.bit pgPCIE PCIE_LINK_UP = true) (h4 : 4 ≤ s.stage)
    (hf : s.rd pgPCIE PCIE_VF_NUM_VFS < cfgFn op) : exec (.pcieConfigRequest op) s = .next s.fresh := by
  have hs : ¬ s.fresh.stage < 4 := not_lt.mpr h4
  have hn : s.fresh.rd pgPCIE PCIE_VF_NUM_VFS < cfgFn op := hf
  refine congrArg Host.Outcome.next ((State.onlyIf_true s.fresh _ _ hb).trans ?_)
  rw [if_neg hs, if_pos hn]

theorem not_mem_listSet {α : Type} [BEq α] [LawfulBEq α] (l : List α) (x : α) : x ∉ listSet l x false := by
  simp [listSet]

/-- A vector that is unmasked with its pending bit set sends its message, and the bit clears. -/
theorem State.configure_unmask (fn : Fin 5) (vec : BitVec 6) (hv : vec.toNat < vectorsOf fn.val)
    (hm : s.mayMessage fn.val = true) (hp : (fn.val, vec.toNat) ∈ s.pcie.pba) :
    ∃ x, s.configure (.msixMask fn vec false) = { s with
        pcie := { s.pcie with unmasked := listSet s.pcie.unmasked (fn.val, vec.toNat) true
                              pba := listSet s.pcie.pba (fn.val, vec.toNat) false }
        emitted := s.emitted ++ [.msix fn.val vec.toNat x] } ∧
      x = s.pcie.entries.lookup (fn.val, vec.toNat) := by
  refine ⟨_, ?_, rfl⟩
  have hserve : ((s.updPcie (fun x => { x with
        unmasked := listSet x.unmasked (fn.val, vec.toNat) true })).pcie.pba.contains (fn.val, vec.toNat) &&
      (s.updPcie (fun x => { x with
        unmasked := listSet x.unmasked (fn.val, vec.toNat) true })).mayMessage fn.val &&
      !(s.updPcie (fun x => { x with
        unmasked := listSet x.unmasked (fn.val, vec.toNat) true })).vecMasked fn.val vec.toNat) = true := by
    have hmay : (s.updPcie (fun x => { x with
        unmasked := listSet x.unmasked (fn.val, vec.toNat) true })).mayMessage fn.val = true := hm
    rw [hmay]
    simp [State.updPcie, State.vecMasked, listSet]
    simpa using hp
  have hc : s.configure (.msixMask fn vec false) = (s.updPcie (fun x => { x with
      unmasked := listSet x.unmasked (fn.val, vec.toNat) true })).servePending fn.val vec.toNat := by
    simp only [State.configure, not_le.mpr hv, if_false]
    rfl
  rw [hc, State.servePending, if_pos hserve]
  rfl

/-- A write of an error-reporting register is held (R329, log 101). -/
theorem State.configure_aer (fn : Fin 5) (x : AerReg) (v : Word) :
    ((s.configure (.aer fn x v)).pcie.aer.get fn = (s.pcie.aer.get fn).put x v) ∧
      (∀ g, g ≠ fn → (s.configure (.aer fn x v)).pcie.aer.get g = s.pcie.aer.get g) ∧
      { s.configure (.aer fn x v) with pcie := s.pcie } = s := by
  have hset : ∀ g : Fin 5, (s.configure (.aer fn x v)).pcie.aer.get g =
      if fn.val = g.val then (s.pcie.aer.get fn).put x v else s.pcie.aer.get g := fun g =>
    Vector.getElem_set (xs := s.pcie.aer) fn.isLt g.isLt
  exact ⟨(hset fn).trans (if_pos rfl), fun g hg => (hset g).trans (if_neg fun e => hg (Fin.ext e.symm)), rfl⟩

/-- Up to four VFs are set, more are ignored (log 101). -/
theorem State.configure_numVfs (n : BitVec 3) :
    (s.configure (.numVfs n)).rd pgPCIE PCIE_VF_NUM_VFS =
        (if n.toNat ≤ 4 then n.toNat else s.rd pgPCIE PCIE_VF_NUM_VFS) ∧
      s.Keeps (s.configure (.numVfs n)) (fun p o => p = pgPCIE ∧ o = PCIE_VF_NUM_VFS.off) ∧
      { s.configure (.numVfs n) with regs := s.regs } = s := by
  by_cases h : n.toNat ≤ 4
  · have hc : s.configure (.numVfs n) = s.wr pgPCIE PCIE_VF_NUM_VFS n.toNat := if_pos h
    rw [hc, if_pos h]
    exact ⟨(s.rd_wr pgPCIE PCIE_VF_NUM_VFS (by decide) n.toNat).trans (Nat.mod_eq_of_lt n.isLt),
      s.wr_keeps _ _ _ (by decide) ⟨rfl, rfl⟩, rfl⟩
  · have hc : s.configure (.numVfs n) = s := if_neg h
    rw [hc, if_neg h]
    exact ⟨rfl, .refl _ _, rfl⟩

theorem State.read_answers (x : CfgReg) (hb : s.bit pgPCIE PCIE_LINK_UP = true) (h4 : 4 ≤ s.stage)
    (hf : cfgFn (.read x) ≤ s.rd pgPCIE PCIE_VF_NUM_VFS) :
    exec (.pcieConfigRequest (.read x)) s = .next (s.fresh.emit (.cfgDone false (s.cfgData x))) :=
  s.exec_config (.read x) hb h4 hf

theorem State.aer_held (fn : Fin 5) (x : AerReg) (v : Word) (hb : s.bit pgPCIE PCIE_LINK_UP = true)
    (h4 : 4 ≤ s.stage) (hf : fn.val ≤ s.rd pgPCIE PCIE_VF_NUM_VFS) :
    ∃ t, exec (.pcieConfigRequest (.aer fn x v)) s = .next t ∧ t.emitted = [.cfgDone false 0] ∧
      t.pcie.aer.get fn = (s.pcie.aer.get fn).put x v ∧
      (∀ g, g ≠ fn → t.pcie.aer.get g = s.pcie.aer.get g) ∧
      { t with pcie := s.pcie, emitted := [] } = s.fresh := by
  obtain ⟨hself, hother, hrest⟩ := s.fresh.configure_aer fn x v
  have hem : (s.fresh.configure (.aer fn x v)).emitted = [] := (congrArg State.emitted hrest :)
  refine ⟨_, s.exec_config (.aer fn x v) hb h4 hf, ?_, hself, hother, ?_⟩
  · exact congrArg (· ++ [Emission.cfgDone false 0]) hem
  · exact (congrArg (fun x : State => { x with emitted := [] }) hrest :)

theorem State.numVfs_set (n : BitVec 3) (hb : s.bit pgPCIE PCIE_LINK_UP = true) (h4 : 4 ≤ s.stage) :
    ∃ t, exec (.pcieConfigRequest (.numVfs n)) s = .next t ∧ t.emitted = [.cfgDone false 0] ∧
      t.rd pgPCIE PCIE_VF_NUM_VFS = (if n.toNat ≤ 4 then n.toNat else s.rd pgPCIE PCIE_VF_NUM_VFS) ∧
      s.SameMem t ∧ s.SameRegs t (fun p o => p = pgPCIE ∧ o = PCIE_VF_NUM_VFS.off) ∧
      { t with regs := s.regs, emitted := [] } = s.fresh := by
  obtain ⟨hrd, hk, hrest⟩ := s.fresh.configure_numVfs n
  have hem : (s.fresh.configure (.numVfs n)).emitted = [] := (congrArg State.emitted hrest :)
  refine ⟨_, s.exec_config (.numVfs n) hb h4 (Nat.zero_le _), ?_, hrd, hk.sameMem, hk.sameRegs, ?_⟩
  · exact congrArg (· ++ [Emission.cfgDone false 0]) hem
  · exact (congrArg (fun x : State => { x with emitted := [] }) hrest :)

theorem State.msix_sent (fn : Fin 5) (vec : BitVec 6) (hb : s.bit pgPCIE PCIE_LINK_UP = true)
    (h4 : 4 ≤ s.stage) (hf : fn.val ≤ s.rd pgPCIE PCIE_VF_NUM_VFS) (hv : vec.toNat < vectorsOf fn.val)
    (hm : s.mayMessage fn.val = true) (hp : (fn.val, vec.toNat) ∈ s.pcie.pba) :
    ∃ t, exec (.pcieConfigRequest (.msixMask fn vec false)) s = .next t ∧
      (fn.val, vec.toNat) ∉ t.pcie.pba ∧ t.vecMasked fn.val vec.toNat = false ∧
      t.emitted = [.msix fn.val vec.toNat (s.pcie.entries.lookup (fn.val, vec.toNat)), .cfgDone false 0] ∧
      { t with pcie := s.pcie, emitted := [] } = s.fresh := by
  obtain ⟨x, hc, hx⟩ := s.fresh.configure_unmask fn vec hv hm hp
  refine ⟨_, s.exec_config (.msixMask fn vec false) hb h4 hf, ?_⟩
  rw [hc, hx]
  refine ⟨not_mem_listSet _ _, ?_, rfl, rfl⟩
  simp [State.emit, State.vecMasked, listSet]

theorem State.hotReset_clears (hp : s.aon.perst = true) :
    exec .pcieHotReset s = .next (s.fresh.hostReset 1) :=
  congrArg Host.Outcome.next (State.onlyIf_true s.fresh _ _ hp)

theorem State.linkDown_clears (hb : s.bit pgPCIE PCIE_LINK_UP = true) :
    exec .pcieLinkDown s = .next (s.fresh.hostReset 2) :=
  congrArg Host.Outcome.next (State.onlyIf_true s.fresh _ _ hb)

theorem State.linkUp_links (speed width : BitVec 3) (degraded : Bool) (ht : s.pcie.training = true)
    (hp : s.aon.perst = true) (hi : s.isolated .host = false) (hr : s.aon.refs.get 14 = true)
    (h1 : 1 ≤ speed.toNat) (h4 : speed.toNat ≤ 4) (hw : width = 1 ∨ width = 2 ∨ width = 4) :
    ∃ t, exec (.pcieLinkUp speed width degraded) s = .next t ∧
      t.rd pgPCIE PCIE_LINK_SPEED = speed.toNat ∧ t.rd pgPCIE PCIE_LINK_WIDTH = width.toNat ∧
      t.bit pgPCIE PCIE_LINK_UP = true ∧ t.pcie.training = false ∧
      (degraded = true → t.Raised pgPCIE 0) ∧ s.SameMem t ∧
      s.SameRegs t (fun p o => (p = pgPCIE ∧ o = PCIE_LINK_UP.off) ∨ evWords pgPCIE p o) :=
  ⟨_, s.exec_pcieLinkUp speed width degraded ht hp hi hr h1 h4 hw, s.pcieLinkUp_links speed width degraded _ rfl⟩

/-- Settles O19: the three resets of the host's side clear alike; the link's other events are rules of their
own. -/
theorem hostLink : Obligations.HostLink :=
  ⟨fun s => ⟨s.perstAssert_cleared,
      fun hp ha => ⟨_, s.hotReset_clears hp, s.fresh.hostReset_cleared 1 ha, fun _ => s.fresh.hostReset_only 1 ha⟩,
      fun hb ha => ⟨_, s.linkDown_clears hb, s.fresh.hostReset_cleared 2 ha, fun _ => s.fresh.hostReset_only 2 ha⟩⟩,
    fun s => ⟨s.perstDeassert_trains, s.linkUp_links, s.pcieRecovery_counts, s.exec_config_early,
      s.exec_config_absent, s.read_answers, s.aer_held, s.numVfs_set, s.msix_sent⟩⟩

end Sys2Proof.Machine
end

section
/-! SUPPORT. The stages of start-up (R69-R72), and a channel's training at start-up (R281, R298). -/

namespace Sys2Proof.Machine

variable {s t u : State}

/-! ### A stage is shown, FAULT_OUT# follows (R72, R373) -/

theorem State.faultOutLow_of_boot (h : s.rd pgWRD WRD_FAULT_BOOT = 1) : s.faultOutLow = true := by
  refine decide_eq_true fun h0 => ?_
  have hw : s.word pgWRD WRD_FAULT_BOOT.off = 0 := h0
  unfold State.rd at h
  rw [hw] at h
  exact absurd h (by decide)

/-- FAULT_OUT# follows the word that the warden shows. -/
theorem State.faultOutLow_of_word (h : t.word pgWRD 0x044 = s.word pgWRD 0x044) :
    t.faultOutLow = s.faultOutLow := by
  unfold State.faultOutLow; rw [h]

theorem State.stage_of_word (h : t.word pgTOP 0x080 = s.word pgTOP 0x080) : t.stage = s.stage :=
  congrArg TOP_BOOT_STAGE.get h

variable (s)

theorem State.setStage_eq (n : Nat) :
    s.setStage n = (s.wr pgTOP TOP_BOOT_STAGE n).wr pgWRD WRD_FAULT_BOOT (b2n (n != 7)) :=
  State.wrBit_eq _ _ _ _

theorem State.setStage_word (n p o : Nat) (ho : o < 4096) (ht : p ≠ pgTOP ∨ o ≠ 0x080)
    (hw : p ≠ pgWRD ∨ o ≠ 0x044) : (s.setStage n).word p o = s.word p o := by
  rw [s.setStage_eq n, State.word_wr_ne _ _ _ _ _ (by decide) ho hw,
    State.word_wr_ne _ _ _ _ _ (by decide) ho ht]

theorem State.wr_sameMem (p v : Nat) (f : Fld) : s.SameMem (s.wr p f v) := .of_eq rfl rfl rfl

theorem State.setStage_sameMem (n : Nat) : s.SameMem (s.setStage n) := by
  rw [s.setStage_eq n]; exact (s.wr_sameMem _ _ _).trans (State.wr_sameMem _ _ _ _)

theorem State.setStage_stage (n : Nat) (hn : n < 16) : (s.setStage n).stage = n := by
  unfold State.stage
  rw [s.setStage_eq n, State.rd_wr_ne _ _ _ _ _ (by decide) (by decide) (.inl (by decide)),
    State.rd_wr _ _ _ (by decide)]
  exact Nat.mod_eq_of_lt hn

/-- The other fields of TOP_BOOT stand. -/
theorem State.setStage_rd (n : Nat) (f : Fld) (hf : f.Sound) (ho : f.off = 0x080) (h4 : 3 < f.lo) :
    (s.setStage n).rd pgTOP f = s.rd pgTOP f := by
  rw [s.setStage_eq n, State.rd_wr_ne _ _ _ _ _ (by decide) hf (.inl (by decide)),
    State.rd_wr_apart _ _ _ _ (by decide) hf ho (.inr h4)]

theorem State.setStage_faultOut (n : Nat) (hn : n ≠ 7) : (s.setStage n).faultOutLow = true := by
  have hb : b2n (n != 7) = 1 := by rw [bne_iff_ne.mpr hn]; rfl
  refine State.faultOutLow_of_boot ?_
  rw [s.setStage_eq n, hb]
  exact State.rd_wr _ _ _ (by decide) 1

/-- Start-up has failed with a reason, and FAULT_OUT# shows it (R72). -/
def State.FailedFor (t : State) (why : Nat) : Prop :=
  t.stage = 15 ∧ t.rd pgTOP TOP_BOOT_FAIL = why ∧ t.faultOutLow = true

theorem State.failStage_failed (why : Nat) (hw : why < 256) : (s.failStage why).FailedFor why := by
  refine ⟨?_, ?_, ?_⟩
  · exact (State.rd_wr_apart _ pgTOP TOP_BOOT_FAIL TOP_BOOT_STAGE (by decide) (by decide) rfl (by decide)
      why).trans (s.setStage_stage 15 (by decide))
  · exact (State.rd_wr _ _ _ (by decide) why).trans (Nat.mod_eq_of_lt hw)
  · exact (State.faultOutLow_of_word (State.word_wr_ne _ _ _ _ TOP_BOOT_FAIL (by decide) (by decide)
      (.inl (by decide)) why)).trans (s.setStage_faultOut 15 (by decide))

theorem State.failStage_sameMem (why : Nat) : s.SameMem (s.failStage why) :=
  (s.setStage_sameMem 15).trans (State.wr_sameMem _ pgTOP why TOP_BOOT_FAIL)

/-! ### PLLs that start (R62, R70) -/

/-- Only PLLs, and registers of CLK, differ. -/
structure State.Clocks (s t : State) : Prop where
  rest : { t with regs := s.regs, plls := s.plls } = s
  word : ∀ p o, o < 4096 → p ≠ pgCLK → t.word p o = s.word p o

variable {s}

theorem State.Clocks.refl (s : State) : s.Clocks s := ⟨rfl, fun _ _ _ _ => rfl⟩

theorem State.Clocks.trans (h : s.Clocks t) (h' : t.Clocks u) : s.Clocks u where
  rest := by
    rw [← h.rest]
    conv_rhs => rw [← h'.rest]
  word p o ho hp := (h'.word p o ho hp).trans (h.word p o ho hp)

theorem State.Clocks.sameMem (h : s.Clocks t) : s.SameMem t :=
  .of_eq (congrArg State.mem h.rest :) (congrArg State.flash h.rest :) (congrArg State.poison h.rest :)

theorem State.Clocks.foldl {α : Type} (f : State → α → State) (l : List α)
    (h : ∀ t : State, ∀ x ∈ l, t.Clocks (f t x)) : ∀ s : State, s.Clocks (l.foldl f s) := by
  induction l with
  | nil => exact .refl
  | cons x l ih =>
    exact fun s => (h s x (by simp)).trans (ih (fun t y hy => h t y (by simp [hy])) (f s x))

variable (s)

theorem State.wr_clocks (f : Fld) (hf : f.Sound) (v : Nat) : s.Clocks (s.wr pgCLK f v) :=
  ⟨rfl, fun p o ho hp => State.word_wr_ne s pgCLK p o f hf ho (.inl hp) v⟩

theorem State.setPll_clocks (n : Nat) (x : Pll) : s.Clocks (s.setPll n x) := by
  unfold State.setPll
  split
  · exact ⟨rfl, fun _ _ _ _ => rfl⟩
  · exact .refl s

theorem pllLocked_sound (n : Nat) (hn : n < 15) : (CLK_PLL_STAT_LOCKED n).Sound := by
  simp only [Fld.Sound, CLK_PLL_STAT_LOCKED]; omega

theorem pllBypass_sound (n : Nat) (hn : n < 15) : (CLK_PLL_STAT_BYPASS n).Sound := by
  simp only [Fld.Sound, CLK_PLL_STAT_BYPASS]; omega

theorem State.startPll_clocks (n : Nat) (hn : n < 15) : s.Clocks (s.startPll n) :=
  ((s.setPll_clocks n _).trans (State.wr_clocks _ _ (pllLocked_sound n hn) 0)).trans
    (State.wr_clocks _ _ (pllBypass_sound n hn) 1)

theorem State.startPlls_clocks : s.Clocks s.startPlls := by
  refine .foldl _ _ (fun t n hn => ?_) s
  have hn15 : n < 15 := by
    simp only [List.mem_cons, List.not_mem_nil, or_false] at hn; omega
  split
  · exact t.startPll_clocks n hn15
  · exact .refl t

/-! ### SRAM_INIT (R70, R377) -/

theorem State.zeroSram_byte (a : Nat) :
    s.zeroSram.byte a = if sramBase ≤ a ∧ ¬ inGuestbook a = true then 0 else s.byte a := by
  have h := Tbl.get_filter (0 : Byte) a (fun a => decide (a < sramBase) || inGuestbook a) s.mem
  have hiff : (decide (a < sramBase) || inGuestbook a) = true ↔ ¬ (sramBase ≤ a ∧ ¬ inGuestbook a = true) := by
    rw [Bool.or_eq_true, decide_eq_true_eq, not_and_or, not_le, not_not]
  exact h.trans ((if_congr hiff rfl rfl).trans (ite_not _ _ _))

theorem State.listRepairs_of_kept (h : s.bist.lost = false) : s.listRepairs = s := by
  unfold State.listRepairs; rw [h]; rfl

theorem State.listRepairs_mem : s.listRepairs.mem = s.mem := by
  unfold State.listRepairs; split <;> rfl

theorem State.Raises.bist {s t : State} {but : Nat → Nat → Prop} (h : s.Raises t but) : t.bist = s.bist :=
  (congrArg State.bist h.rest :)

/-- The repairs that are listed are fused, and none is left. -/
theorem State.fuseRepairs_bist : s.fuseRepairs.bist.repairs = [] ∧
    s.fuseRepairs.bist.fused = s.bist.fused ++ s.bist.repairs ∧ s.fuseRepairs.mem = s.mem := by
  by_cases h : s.bist.repairs = []
  · have he : s.fuseRepairs = s := by unfold State.fuseRepairs; rw [h]; rfl
    rw [he, h]
    exact ⟨rfl, (List.append_nil _).symm, rfl⟩
  · let v : State := { s with bist := { s.bist with repairs := [], fused := s.bist.fused ++ s.bist.repairs } }
    let w : State := (v.wr pgBST BST_REPAIRS_SOFT 0).wr pgBST BST_REPAIRS_FUSED
      (v.rd pgBST BST_REPAIRS_FUSED + s.bist.repairs.length)
    have he : s.fuseRepairs = w.record 0x3004 pgBST s.bist.repairs.length :=
      if_neg (mt List.length_eq_zero_iff.mp h)
    have hr : w.Raises s.fuseRepairs (evWords pgGBK) := by
      rw [he]; exact w.record_raises _ _ _ fun _ _ h => h
    have hbist : w.bist = v.bist := (State.wr_bist _ _ _ _).trans (State.wr_bist _ _ _ _)
    have hmem : w.mem = v.mem := (State.wr_mem _ _ _ _).trans (State.wr_mem _ _ _ _)
    have hb : s.fuseRepairs.bist = v.bist := hr.bist.trans hbist
    rw [hb]
    exact ⟨rfl, rfl, hr.core.mem.trans hmem⟩

/-! ### DRAM_TRAIN (R70, R281, R298) -/

/-- The words that the training of a channel may change. -/
def trainWord (c : Fin 2) (p o : Nat) : Prop :=
  p = pgDRAM c.val ∨ (p = pgDRC ∧ o = 0x044) ∨ p = pgFSH ∨ evWords pgGBK p o

theorem State.wr_trains (c : Fin 2) (v : Nat) (f : Fld) (hf : f.Sound) :
    s.Keeps (s.wr (pgDRAM c.val) f v) (trainWord c) := s.wr_keeps _ _ _ hf (.inl rfl)

theorem State.updChan_keeps {but : Nat → Nat → Prop} (c : Fin 2) (g : Chan → Chan) :
    s.Keeps (s.updChan c g) but :=
  .of_regs but ⟨rfl, rfl, rfl, rfl, rfl, rfl, rfl, rfl, rfl⟩ rfl

theorem State.chanOn_keeps (c : Fin 2) : s.Keeps (s.chanOn c) (trainWord c) := by
  unfold State.chanOn
  dsimp only
  rw [State.setState_eq]
  exact (((s.updChan_keeps c _).trans (State.wr_trains _ c _ _ (by decide))).trans
    (State.wr_trains _ c _ _ (by decide))).trans
    (State.wr_keeps _ _ _ _ (by decide) (.inr (.inl ⟨rfl, rfl⟩)))

theorem calRecord_sound (i : Nat) (hi : i < 8) :
    (FSH_CAL_COUNT i).Sound ∧ (FSH_CAL_NS_NS i).Sound ∧ (FSH_CAL_WRAPS_WRAPS i).Sound := by
  simp only [Fld.Sound, FSH_CAL_COUNT, FSH_CAL_NS_NS, FSH_CAL_WRAPS_WRAPS]; omega

theorem State.fullTraining_keeps (c : Fin 2) (temp : BitVec 16) :
    s.Keeps (s.fullTraining c temp) (trainWord c) := by
  obtain ⟨hcount, hns, hwraps⟩ := calRecord_sound (3 + c.val) (by omega)
  have hfsh : ∀ o, trainWord c pgFSH o := fun o => .inr (.inr (.inl rfl))
  unfold State.fullTraining State.calDone
  simp only [State.incSat_eq, State.addSat_eq]
  exact ((((((((s.wr_trains c _ _ (by decide)).trans (State.wr_trains _ c _ _ (by decide))).trans
    (State.wr_trains _ c _ _ (by decide))).trans (State.wr_trains _ c _ _ (by decide))).trans
    (State.wr_trains _ c _ _ (by decide))).trans (State.wr_keeps _ _ _ _ hcount (hfsh _))).trans
    (State.wr_keeps _ _ _ _ hns (hfsh _))).trans (State.wr_keeps _ _ _ _ hwraps (hfsh _))).trans
    (State.record_raises _ _ _ _ fun _ _ h => .inr (.inr (.inr h))).keeps

theorem State.bootTrain_keeps (c : Fin 2) (ok : Bool) (temp : BitVec 16) :
    s.Keeps (s.bootTrain c ok temp) (trainWord c) := by
  unfold State.bootTrain
  dsimp only
  rw [State.setState_eq, State.setState_eq]
  split
  · exact (((s.chanOn_keeps c).trans (State.wr_trains _ c _ _ (by decide))).trans
      (State.updChan_keeps _ c _)).trans (State.fullTraining_keeps _ c temp)
  · exact ((s.chanOn_keeps c).trans (State.wr_trains _ c _ _ (by decide))).trans
      (State.raise_raises _ _ 2 (.inl rfl) fun _ _ h => .inr (.inr (.inr h))).keeps

/-- What a channel's training makes of the channels' geometries. -/
theorem State.chanOn_geom (c d : Fin 2) : ((s.chanOn c).chan d).geom =
    if d = c then (s.word pgDRC 0x040).toNat else (s.chan d).geom := by
  have hset : (s.chanOn c).chan d = if c.val = d.val then { s.chan c with geom := (s.word pgDRC 0x040).toNat }
      else s.chan d := Vector.getElem_set (xs := s.drc.chans) c.isLt d.isLt
  rw [hset]
  by_cases h : d = c
  · subst h; simp
  · rw [if_neg fun e => h (Fin.ext e.symm), if_neg h]

theorem State.updChan_sliceAt_geom (c d : Fin 2) (x : Nat) :
    ((s.updChan c (fun y => { y with sliceAt := x })).chan d).geom = (s.chan d).geom := by
  have hset : (s.updChan c (fun y => { y with sliceAt := x })).chan d =
      if c.val = d.val then { s.chan c with sliceAt := x } else s.chan d :=
    Vector.getElem_set (xs := s.drc.chans) c.isLt d.isLt
  rw [hset]
  split
  · rename_i h; rw [Fin.ext h]
  · rfl

theorem State.fullTraining_drc (c : Fin 2) (temp : BitVec 16) : (s.fullTraining c temp).drc = s.drc := by
  unfold State.fullTraining State.calDone
  simp

theorem State.chan_of_drc (h : t.drc = s.drc) (d : Fin 2) : t.chan d = s.chan d := by
  unfold State.chan; rw [h]

/-- The training of a channel that can be put into service (R281, R298). -/
theorem State.bootTrain_ok (c : Fin 2) (temp : BitVec 16)
    (hg : geomOk (s.word pgDRC 0x040).toNat = true) :
    s.bootTrain c true temp = (((s.chanOn c).wr (pgDRAM c.val) UNIT_STATUS_STATE 2).updChan c
      (fun x => { x with sliceAt := s.now })).fullTraining c temp := by
  have hgeom : geomOk ((s.chanOn c).chan c).geom = true := by rw [State.chanOn_geom, if_pos rfl]; exact hg
  unfold State.bootTrain
  dsimp only
  rw [hgeom, State.setState_eq]
  rfl

/-- One that fails, or whose geometry R281 does not list. -/
theorem State.bootTrain_bad (c : Fin 2) (ok : Bool) (temp : BitVec 16)
    (hg : (ok && geomOk (s.word pgDRC 0x040).toNat) = false) :
    s.bootTrain c ok temp = ((s.chanOn c).wr (pgDRAM c.val) UNIT_STATUS_STATE 4).raise (pgDRAM c.val) 2 := by
  have hgeom : (ok && geomOk ((s.chanOn c).chan c).geom) = false := by
    rw [State.chanOn_geom, if_pos rfl]; exact hg
  unfold State.bootTrain
  dsimp only
  rw [hgeom, State.setState_eq]
  rfl

theorem State.bootTrain_geom (c d : Fin 2) (ok : Bool) (temp : BitVec 16) :
    ((s.bootTrain c ok temp).chan d).geom =
      if d = c then (s.word pgDRC 0x040).toNat else (s.chan d).geom := by
  rw [← s.chanOn_geom c d]
  cases h : ok && geomOk (s.word pgDRC 0x040).toNat with
  | true =>
    obtain ⟨rfl, hg⟩ := Bool.and_eq_true_iff.mp h
    rw [s.bootTrain_ok c temp hg, State.chan_of_drc _ (State.fullTraining_drc _ c temp),
      State.updChan_sliceAt_geom, State.chan_of_drc _ (State.wr_drc _ _ _ _)]
  | false =>
    rw [s.bootTrain_bad c ok temp h, State.chan_of_drc _ (State.raise_drc _ _ _),
      State.chan_of_drc _ (State.wr_drc _ _ _ _)]

/-- A training's record is written over words other than the channel's state. -/
theorem State.fullTraining_state (c : Fin 2) (temp : BitVec 16) :
    (s.fullTraining c temp).rd (pgDRAM c.val) UNIT_STATUS_STATE = s.rd (pgDRAM c.val) UNIT_STATUS_STATE := by
  obtain ⟨hcount, hns, hwraps⟩ := calRecord_sound (3 + c.val) (by omega)
  have hfsh : pgDRAM c.val ≠ pgFSH := by unfold pgDRAM pgFSH; omega
  have hrec : ∀ u : State, (u.record 0x3003 (pgDRAM c.val) (c.val + 2 ^ 16 * temp.toNat)).rd (pgDRAM c.val)
      UNIT_STATUS_STATE = u.rd (pgDRAM c.val) UNIT_STATUS_STATE := fun u =>
    (u.record_raises _ _ _ fun _ _ h => h).keeps.rd _ _ (by decide)
      (not_evWords _ _ _ (by decide) (by decide))
  unfold State.fullTraining State.calDone
  dsimp only
  rw [hrec]
  simp only [State.incSat_eq, State.addSat_eq]
  rw [State.rd_wr_ne _ _ _ _ _ hwraps (by decide) (.inl hfsh), State.rd_wr_ne _ _ _ _ _ hns (by decide) (.inl hfsh),
    State.rd_wr_ne _ _ _ _ _ hcount (by decide) (.inl hfsh),
    State.rd_wr_ne _ _ _ _ _ (by decide) (by decide) (.inr (by decide)),
    State.rd_wr_ne _ _ _ _ _ (by decide) (by decide) (.inr (by decide)),
    State.rd_wr_ne _ _ _ _ _ (by decide) (by decide) (.inr (by decide)),
    State.rd_wr_ne _ _ _ _ _ (by decide) (by decide) (.inr (by decide)),
    State.rd_wr_ne _ _ _ _ _ (by decide) (by decide) (.inr (by decide))]

/-- A channel that trains is in service. -/
theorem State.bootTrain_inService (c : Fin 2) (temp : BitVec 16)
    (hg : geomOk (s.word pgDRC 0x040).toNat = true) :
    (s.bootTrain c true temp).rd (pgDRAM c.val) UNIT_STATUS_STATE = 2 := by
  rw [s.bootTrain_ok c temp hg, State.fullTraining_state]
  have hk := ((s.chanOn c).wr (pgDRAM c.val) UNIT_STATUS_STATE 2).updChan_keeps (but := fun _ _ => False) c
    (fun x => { x with sliceAt := s.now })
  rw [hk.rd _ _ (by decide) not_false, State.rd_wr _ _ _ (by decide)]
  decide

end Sys2Proof.Machine
end

section
/-! PROOFS. The stages of start-up (R70-R72, R281, R282, R396). -/

namespace Sys2Proof.Machine

variable (s : State)

/-! ### SRAM_INIT -/

theorem State.exec_sramInit (exhausted : Bool) (h : s.stage = 2) : exec (.sramInitDone exhausted) s =
    .next (if exhausted then s.fresh.failStage 4 else ((s.fresh.listRepairs.fuseRepairs).zeroSram).setStage 3) :=
  congrArg Host.Outcome.next (State.onlyIf_true s.fresh _ _ (beq_iff_eq.mpr h))

theorem State.setStage_byte (n a : Nat) : (s.setStage n).byte a = s.byte a := by
  rw [s.setStage_eq n]; rfl

theorem State.setStage_bist (n : Nat) : (s.setStage n).bist = s.bist := by
  rw [s.setStage_eq n]; rfl

/-- SRAM_INIT: the listed repairs are fused, and all SRAM but the Guestbook reads 0. -/
theorem State.sramInit_ok (h : s.stage = 2) :
    ∃ t, exec (.sramInitDone false) s = .next t ∧ t.stage = 3 ∧ t.faultOutLow = true ∧
      t.bist.repairs = [] ∧ (s.bist.lost = false → t.bist.fused = s.bist.fused ++ s.bist.repairs) ∧
      (∀ a, t.byte a = if sramBase ≤ a ∧ ¬ inGuestbook a = true then 0 else s.byte a) := by
  obtain ⟨hr, hf, hm⟩ := s.fresh.listRepairs.fuseRepairs_bist
  refine ⟨_, s.exec_sramInit false h, State.setStage_stage _ 3 (by decide),
    State.setStage_faultOut _ 3 (by decide), (congrArg Bist.repairs (State.setStage_bist _ 3)).trans hr,
    fun hl => ?_, fun a => ?_⟩
  · refine (congrArg Bist.fused (State.setStage_bist _ 3)).trans (hf.trans ?_)
    rw [State.listRepairs_of_kept s.fresh hl]
    rfl
  · refine (State.setStage_byte _ 3 a).trans ((State.zeroSram_byte _ a).trans ?_)
    have hb : s.fresh.listRepairs.fuseRepairs.byte a = s.byte a :=
      congrArg (Tbl.get 0 a) (hm.trans s.fresh.listRepairs_mem)
    rw [hb]

/-! ### VERIFY_FW -/

theorem State.exec_verify (slot : Fin 2) (h : s.stage = 3) :
    exec (.verifyFwDone slot) s = .next (s.fresh.bootVerified slot.val) :=
  congrArg Host.Outcome.next (if_pos h)

/-- The preferred slot verifies: its firmware starts at GKP_START. -/
theorem State.bootVerified_first (slot : Fin 2) (ht : s.fsh.tried = []) (hp : s.fwPreferred = slot.val)
    (hi : s.imageOk slot.val = true) :
    s.bootVerified slot.val = (((((s.setFsh (fun f => { f with tried := f.tried ++ [slot.val] })).wr pgTOP
      TOP_BOOT_FW_SLOT slot.val).gkpStarts).setStage 4).startPlls) := by
  unfold State.bootVerified
  simp only [ht, List.isEmpty_nil, if_true, hp, ne_eq, not_true_eq_false, if_false, hi]

theorem State.gkpStarts_shows : s.gkpStarts.wrd.gkp = .running ∧ s.SameMem s.gkpStarts ∧
    s.gkpStarts.part = s.part ∧ s.gkpStarts.regs = s.regs := ⟨rfl, .of_eq rfl rfl rfl, rfl, rfl⟩

/-- The slot that verifies is named, and its firmware starts. -/
theorem State.slotStarts (slot : Fin 2) (u : State) :
    (u.wr pgTOP TOP_BOOT_FW_SLOT slot.val).gkpStarts.wrd.gkp = .running ∧
      (u.wr pgTOP TOP_BOOT_FW_SLOT slot.val).gkpStarts.rd pgTOP TOP_BOOT_FW_SLOT = slot.val ∧
      u.SameMem (u.wr pgTOP TOP_BOOT_FW_SLOT slot.val).gkpStarts := by
  have hslot := (u.rd_wr pgTOP TOP_BOOT_FW_SLOT (by decide) slot.val).trans (Nat.mod_eq_of_lt slot.isLt)
  have hmem : u.SameMem (u.wr pgTOP TOP_BOOT_FW_SLOT slot.val) := u.wr_sameMem _ _ _
  generalize u.wr pgTOP TOP_BOOT_FW_SLOT slot.val = w at hslot hmem
  obtain ⟨hrun, hm, hpart, hregs⟩ := w.gkpStarts_shows
  exact ⟨hrun, (State.rd_of_regs w _ hpart hregs _ _).trans hslot, hmem.trans hm⟩

theorem State.Clocks.wrd {s t : State} (h : s.Clocks t) : t.wrd = s.wrd := (congrArg State.wrd h.rest :)

theorem State.setStage_wrd (n : Nat) : (s.setStage n).wrd = s.wrd := by rw [s.setStage_eq n]; rfl

theorem State.verify_first (slot : Fin 2) (h3 : s.stage = 3) (ht : s.fsh.tried = [])
    (hp : s.fwPreferred = slot.val) (hi : s.imageOk slot.val = true) :
    ∃ t, exec (.verifyFwDone slot) s = .next t ∧ t.stage = 4 ∧ t.wrd.gkp = .running ∧
      t.rd pgTOP TOP_BOOT_FW_SLOT = slot.val ∧ t.faultOutLow = true ∧ s.SameMem t := by
  have he := (s.exec_verify slot h3).trans (congrArg _ (s.fresh.bootVerified_first slot ht hp hi))
  have hu : s.SameMem (s.fresh.setFsh (fun f => { f with tried := f.tried ++ [slot.val] })) := .of_eq rfl rfl rfl
  obtain ⟨hrun, hslot, hmem⟩ :=
    (s.fresh.setFsh (fun f => { f with tried := f.tried ++ [slot.val] })).slotStarts slot
  have hv := hu.trans hmem
  generalize State.gkpStarts _ = v at he hrun hslot hv
  have hc := (v.setStage 4).startPlls_clocks
  refine ⟨_, he, ?_, ?_, ?_, ?_, (hv.trans (v.setStage_sameMem 4)).trans hc.sameMem⟩
  · rw [State.stage_of_word (hc.word pgTOP 0x080 (by decide) (by decide)), v.setStage_stage 4 (by decide)]
  · rw [hc.wrd, v.setStage_wrd 4, hrun]
  · have hr : (v.setStage 4).startPlls.rd pgTOP TOP_BOOT_FW_SLOT = (v.setStage 4).rd pgTOP TOP_BOOT_FW_SLOT :=
      congrArg TOP_BOOT_FW_SLOT.get (hc.word pgTOP 0x080 (by decide) (by decide))
    rw [hr, v.setStage_rd 4 _ (by decide) rfl (by decide), hslot]
  · rw [State.faultOutLow_of_word (hc.word pgWRD 0x044 (by decide) (by decide)),
      v.setStage_faultOut 4 (by decide)]

/-- The preferred slot does not verify: the other is still to be tried. -/
theorem State.verify_next (slot : Fin 2) (h3 : s.stage = 3) (ht : s.fsh.tried = [])
    (hp : s.fwPreferred = slot.val) (hi : s.imageOk slot.val = false) :
    ∃ t, exec (.verifyFwDone slot) s = .next t ∧ t.fsh.tried = [slot.val] ∧
      { t with fsh := s.fsh } = s.fresh := by
  have he : s.fresh.bootVerified slot.val = s.fresh.setFsh (fun f => { f with tried := [slot.val] }) := by
    have ht' : s.fresh.fsh.tried = [] := ht
    have hp' : s.fresh.fwPreferred = slot.val := hp
    have hi' : s.fresh.imageOk slot.val = false := hi
    unfold State.bootVerified
    simp only [ht', List.isEmpty_nil, if_true, hp', ne_eq, not_true_eq_false, if_false, hi',
      Bool.false_eq_true]
  exact ⟨_, (s.exec_verify slot h3).trans (congrArg _ he), rfl, rfl⟩

/-- Neither slot verifies: NO_VALID_FW. -/
theorem State.verify_none (slot : Fin 2) (h3 : s.stage = 3) (ht : s.fsh.tried ≠ [])
    (hp : 1 - s.fwPreferred = slot.val) (hi : s.imageOk slot.val = false) :
    ∃ t, exec (.verifyFwDone slot) s = .next t ∧ t.FailedFor 1 ∧ s.SameMem t := by
  have he : s.fresh.bootVerified slot.val = s.fresh.failStage 1 := by
    have ht' : s.fresh.fsh.tried.isEmpty = false := List.isEmpty_eq_false_iff.mpr ht
    have hp' : 1 - s.fresh.fwPreferred = slot.val := hp
    have hi' : s.fresh.imageOk slot.val = false := hi
    unfold State.bootVerified
    simp only [ht', hp', ne_eq, not_true_eq_false, if_false, hi', Bool.false_eq_true]
  exact ⟨_, (s.exec_verify slot h3).trans (congrArg _ he), State.failStage_failed _ 1 (by decide),
    s.fresh.failStage_sameMem 1⟩

/-! ### CONFIG -/

/-- What the Groundskeeper's report of a configuration does (R396). -/
def State.configTaken (s : State) (k : Nat) : State :=
  (((s.wr pgTOP TOP_BOOT_CFG_SLOT k).wr pgFSH FSH_CFG_STAT_ACTIVE k).wr pgFSH
    FSH_CFG_STAT_SCHEMA (s.schemaOf (2 + k))).setStage 6

theorem State.exec_config_found (okA okB : Bool) (h : s.stage = 4 ∨ s.stage = 5) (hg : s.wrd.gkp = .running) :
    exec (.configDone okA okB) s = .next (match s.fresh.bootCfg okA okB with
      | some k => s.fresh.configTaken k
      | none => if s.fresh.mayFallBack then s.fresh else s.fresh.failStage 2) := by
  have hc : ((s.stage == 4 || s.stage == 5) && s.wrd.gkp == .running) = true := by
    rw [hg]; rcases h with h | h <;> rw [h] <;> rfl
  exact congrArg Host.Outcome.next (State.onlyIf_true s.fresh _ _ hc)

theorem State.bootPrefers_le (n : Nat) : s.bootPrefers n ≤ 1 := by
  unfold State.bootPrefers
  split
  · split <;> decide
  · decide

theorem State.bootCfg_le (okA okB : Bool) (k : Nat) (h : s.bootCfg okA okB = some k) : k ≤ 1 := by
  have hm := List.mem_of_find?_eq_some h
  simp only [List.mem_cons, List.not_mem_nil, or_false] at hm
  have hle : s.cfgPreferred ≤ 1 := s.bootPrefers_le 9
  omega

theorem ofLe_lt (bs : List Byte) : ofLe bs < 256 ^ bs.length := by
  induction bs with
  | nil => decide
  | cons b bs ih =>
    have hb := b.isLt
    have he : ofLe (b :: bs) = b.toNat + 256 * ofLe bs := rfl
    rw [he, List.length_cons, pow_succ]
    omega

theorem State.schemaOf_lt (slot : Nat) : s.schemaOf slot < 65536 := by
  have h := ofLe_lt (s.fbytes (slotBase slot + 12) 2)
  have hl : (s.fbytes (slotBase slot + 12) 2).length = 2 := by simp [State.fbytes]
  rw [hl] at h
  exact h

theorem State.configTaken_shows (k : Nat) (hk : k ≤ 1) :
    (s.configTaken k).stage = 6 ∧ (s.configTaken k).rd pgTOP TOP_BOOT_CFG_SLOT = k ∧
      (s.configTaken k).rd pgFSH FSH_CFG_STAT_ACTIVE = k ∧
      (s.configTaken k).rd pgFSH FSH_CFG_STAT_SCHEMA = s.schemaOf (2 + k) ∧
      (s.configTaken k).faultOutLow = true ∧ s.SameMem (s.configTaken k) := by
  let v := ((s.wr pgTOP TOP_BOOT_CFG_SLOT k).wr pgFSH FSH_CFG_STAT_ACTIVE k).wr pgFSH
    FSH_CFG_STAT_SCHEMA (s.schemaOf (2 + k))
  have hfsh : ∀ f : Fld, f.off = 0x05C → (s.configTaken k).rd pgFSH f = v.rd pgFSH f := fun f hf =>
    congrArg f.get (v.setStage_word 6 pgFSH f.off (by rw [hf]; decide) (.inl (by decide)) (.inl (by decide)))
  have hbit : k < 2 := Nat.lt_succ_of_le hk
  refine ⟨v.setStage_stage 6 (by decide), ?_, ?_, ?_, v.setStage_faultOut 6 (by decide), ?_⟩
  · refine (v.setStage_rd 6 TOP_BOOT_CFG_SLOT (by decide) rfl (by decide)).trans ?_
    rw [State.rd_wr_ne _ _ _ _ _ (by decide) (by decide) (.inl (by decide)),
      State.rd_wr_ne _ _ _ _ _ (by decide) (by decide) (.inl (by decide)), State.rd_wr _ _ _ (by decide)]
    exact Nat.mod_eq_of_lt hbit
  · rw [hfsh _ rfl, State.rd_wr_apart _ pgFSH FSH_CFG_STAT_SCHEMA FSH_CFG_STAT_ACTIVE (by decide) (by decide)
      rfl (by decide), State.rd_wr _ _ _ (by decide)]
    exact Nat.mod_eq_of_lt hbit
  · rw [hfsh _ rfl, State.rd_wr _ _ _ (by decide)]
    exact Nat.mod_eq_of_lt (s.schemaOf_lt _)
  · have hv : s.SameMem v := ((s.wr_sameMem _ _ _).trans (State.wr_sameMem _ _ _ _)).trans (State.wr_sameMem _ _ _ _)
    exact hv.trans (v.setStage_sameMem 6)

theorem State.config_found (okA okB : Bool) (h : s.stage = 4 ∨ s.stage = 5) (hg : s.wrd.gkp = .running)
    (k : Nat) (hk : s.bootCfg okA okB = some k) :
    ∃ t, exec (.configDone okA okB) s = .next t ∧ t.stage = 6 ∧ t.rd pgTOP TOP_BOOT_CFG_SLOT = k ∧
      t.rd pgFSH FSH_CFG_STAT_ACTIVE = k ∧ t.rd pgFSH FSH_CFG_STAT_SCHEMA = s.schemaOf (2 + k) ∧
      t.faultOutLow = true ∧ s.SameMem t := by
  have hk' : s.fresh.bootCfg okA okB = some k := hk
  have he := s.exec_config_found okA okB h hg
  rw [hk'] at he
  exact ⟨_, he, s.fresh.configTaken_shows k (s.bootCfg_le okA okB k hk)⟩

theorem State.config_none (okA okB : Bool) (h : s.stage = 4 ∨ s.stage = 5) (hg : s.wrd.gkp = .running)
    (hk : s.bootCfg okA okB = none) (hm : s.mayFallBack = false) :
    ∃ t, exec (.configDone okA okB) s = .next t ∧ t.FailedFor 2 ∧ s.SameMem t := by
  have hk' : s.fresh.bootCfg okA okB = none := hk
  have hm' : s.fresh.mayFallBack = false := hm
  have he := s.exec_config_found okA okB h hg
  rw [hk', hm'] at he
  exact ⟨_, he, State.failStage_failed _ 2 (by decide), s.fresh.failStage_sameMem 2⟩

theorem State.config_waits (okA okB : Bool) (h : s.stage = 4 ∨ s.stage = 5) (hg : s.wrd.gkp = .running)
    (hk : s.bootCfg okA okB = none) (hm : s.mayFallBack = true) :
    exec (.configDone okA okB) s = .next s.fresh := by
  have hk' : s.fresh.bootCfg okA okB = none := hk
  have hm' : s.fresh.mayFallBack = true := hm
  have he := s.exec_config_found okA okB h hg
  rw [hk', hm'] at he
  exact he

/-! ### DRAM_TRAIN -/

/-- Both channels have trained, or failed to. -/
def State.trained (s : State) (ok0 ok1 : Bool) (temp0 temp1 : BitVec 16) : State :=
  (s.bootTrain 0 ok0 temp0).bootTrain 1 ok1 temp1

theorem State.trained_geom (ok0 ok1 : Bool) (temp0 temp1 : BitVec 16) :
    ((s.trained ok0 ok1 temp0 temp1).chan 0).geom = (s.word pgDRC 0x040).toNat := by
  unfold State.trained
  rw [State.bootTrain_geom, if_neg (by decide), State.bootTrain_geom, if_pos rfl]

theorem State.trained_sameMem (ok0 ok1 : Bool) (temp0 temp1 : BitVec 16) :
    s.SameMem (s.trained ok0 ok1 temp0 temp1) :=
  (s.bootTrain_keeps 0 ok0 temp0).sameMem.trans (State.bootTrain_keeps _ 1 ok1 temp1).sameMem

/-- Both channels' states after a training of both. -/
theorem State.trained_inService (temp0 temp1 : BitVec 16) (hg : geomOk (s.word pgDRC 0x040).toNat = true) :
    (s.trained true true temp0 temp1).rd (pgDRAM 0) UNIT_STATUS_STATE = 2 ∧
      (s.trained true true temp0 temp1).rd (pgDRAM 1) UNIT_STATUS_STATE = 2 := by
  have h0 := s.bootTrain_keeps 0 true temp0
  have h1 := (s.bootTrain 0 true temp0).bootTrain_keeps 1 true temp1
  have hword : (s.bootTrain 0 true temp0).word pgDRC 0x040 = s.word pgDRC 0x040 :=
    h0.word pgDRC 0x040 (by decide) (by unfold trainWord evWords; decide)
  refine ⟨?_, State.bootTrain_inService _ 1 temp1 (by rw [hword]; exact hg)⟩
  exact (h1.rd (pgDRAM 0) UNIT_STATUS_STATE (by decide) (by unfold trainWord evWords; decide)).trans
    (s.bootTrain_inService 0 temp0 hg)

theorem State.exec_dramTrain (ok0 ok1 : Bool) (temp0 temp1 : BitVec 16) (h : s.stage = 6) (r : Bool)
    (hr : (ok0 && ok1 && geomOk (s.word pgDRC 0x040).toNat) = r) :
    exec (.dramTrainDone ok0 ok1 temp0 temp1) s = .next
      (let v := s.fresh.trained ok0 ok1 temp0 temp1
       if r then (((v.setStage 7).record 0x3000 pgTOP ((v.setStage 7).word pgTOP 0x080).toNat).revote id)
       else v.failStage 3) := by
  have hg := s.fresh.trained_geom ok0 ok1 temp0 temp1
  have hr' : (ok0 && ok1 && geomOk ((s.fresh.trained ok0 ok1 temp0 temp1).chan 0).geom) = r := by
    rw [hg]; exact hr
  rw [← hr']
  exact congrArg Host.Outcome.next (State.onlyIf_true s.fresh _ _ (beq_iff_eq.mpr h))

theorem State.dramTrain_fails (ok0 ok1 : Bool) (temp0 temp1 : BitVec 16) (h : s.stage = 6)
    (hr : (ok0 && ok1 && geomOk (s.word pgDRC 0x040).toNat) = false) :
    ∃ t, exec (.dramTrainDone ok0 ok1 temp0 temp1) s = .next t ∧ t.FailedFor 3 ∧ s.SameMem t :=
  ⟨_, s.exec_dramTrain ok0 ok1 temp0 temp1 h false hr, State.failStage_failed _ 3 (by decide),
    (s.fresh.trained_sameMem ok0 ok1 temp0 temp1).trans (State.failStage_sameMem _ 3)⟩

/-- A reaction to the votes touches the pages of the sequencer, the time bases, the heads and the Guestbook
alone. -/
theorem not_reactWord (part : Part) (p o : Nat) (hp : p ≠ pgPWR) (hg : p ≠ pgGBK)
    (hk : kindOf part p ∉ [some .tb, some .fir, some .firRoot]) : ¬ reactWord part p o := by
  rintro (h | h | h)
  · exact hp h.1
  · exact hk h
  · exact hg (h.elim And.left And.left)

theorem kindOf_boot (part : Part) : kindOf part pgTOP = some .top ∧ kindOf part (pgDRAM 0) = some .dram ∧
    kindOf part (pgDRAM 1) = some .dram := by cases part <;> decide

/-- What the entry of a READY part and the reaction to its votes leave. -/
theorem State.readyTold_keeps (v : State) (d p o : Nat) (ho : o < 4096) (hp : p ≠ pgPWR) (hg : p ≠ pgGBK)
    (hk : kindOf v.part p ∉ [some .tb, some .fir, some .firRoot]) :
    ((v.record 0x3000 pgTOP d).revote id).word p o = v.word p o := by
  have hr := v.record_raises (but := evWords pgGBK) 0x3000 pgTOP d fun _ _ h => h
  have hv := (v.record 0x3000 pgTOP d).revote_reacts id
  have hpart : (v.record 0x3000 pgTOP d).part = v.part := hr.core.part
  refine (hv.word p o ho (not_reactWord _ p o hp hg ?_)).trans
    (hr.word p o ho fun h => hg (h.elim And.left And.left))
  rw [id_eq, hpart]
  exact hk

/-- Both channels train: the part is READY. -/
theorem State.dramTrain_ready (temp0 temp1 : BitVec 16) (h : s.stage = 6)
    (hg : geomOk (s.word pgDRC 0x040).toNat = true) :
    ∃ t, exec (.dramTrainDone true true temp0 temp1) s = .next t ∧ t.ready = true ∧
      t.rd (pgDRAM 0) UNIT_STATUS_STATE = 2 ∧ t.rd (pgDRAM 1) UNIT_STATUS_STATE = 2 := by
  obtain ⟨hd0, hd1⟩ := s.fresh.trained_inService temp0 temp1 hg
  have he := s.exec_dramTrain true true temp0 temp1 h true hg
  rw [if_pos rfl] at he
  generalize s.fresh.trained true true temp0 temp1 = u at hd0 hd1 he
  obtain ⟨htop, hdram0, hdram1⟩ := kindOf_boot (u.setStage 7).part
  have hkeep := (u.setStage 7).readyTold_keeps ((u.setStage 7).word pgTOP 0x080).toNat
  have hstage : ∀ p, p ≠ pgTOP → p ≠ pgWRD → (u.setStage 7).rd p UNIT_STATUS_STATE = u.rd p UNIT_STATUS_STATE :=
    fun p ht hw => congrArg UNIT_STATUS_STATE.get (u.setStage_word 7 p _ (by decide) (.inl ht) (.inl hw))
  refine ⟨_, he, decide_eq_true ?_, ?_, ?_⟩
  · exact (State.stage_of_word (hkeep pgTOP 0x080 (by decide) (by decide) (by decide)
      (by rw [htop]; decide))).trans (u.setStage_stage 7 (by decide))
  · exact (congrArg UNIT_STATUS_STATE.get (hkeep (pgDRAM 0) _ (by decide) (by decide) (by decide)
      (by rw [hdram0]; decide))).trans ((hstage _ (by decide) (by decide)).trans hd0)
  · exact (congrArg UNIT_STATUS_STATE.get (hkeep (pgDRAM 1) _ (by decide) (by decide) (by decide)
      (by rw [hdram1]; decide))).trans ((hstage _ (by decide) (by decide)).trans hd1)

/-- Settles O21: each stage's outcomes, by what the stage finds. -/
theorem startUpStages : Obligations.StartUpStages :=
  ⟨fun s => ⟨fun h => ⟨⟨_, s.exec_sramInit true h, State.failStage_failed _ 4 (by decide),
        s.fresh.failStage_sameMem 4⟩, s.sramInit_ok h⟩,
      fun slot h3 ht hp => ⟨s.verify_first slot h3 ht hp, s.verify_next slot h3 ht hp⟩, s.verify_none,
      fun okA okB h hg => ⟨s.config_found okA okB h hg, s.config_none okA okB h hg, s.config_waits okA okB h hg⟩,
      s.dramTrain_fails⟩,
    fun s => s.dramTrain_ready⟩

end Sys2Proof.Machine
end

section
/-! SUPPORT. PLLs, and what a relock leaves (R58-R64). -/

namespace Sys2Proof.Machine

variable {s t u : State}

/-! ### PLLs -/

theorem State.pll_of_plls (h : t.plls = s.plls) (n : Nat) : t.pll n = s.pll n := by
  unfold State.pll; rw [h]

theorem State.setPll_pll (s : State) (n m : Nat) (hn : n < 15) (x : Pll) :
    (s.setPll n x).pll m = if m = n then x else s.pll m := by
  unfold State.setPll State.pll
  rw [dif_pos hn]
  by_cases h : m = n
  · subst h; simp [hn]
  · have hne : n ≠ m := fun e => h e.symm
    simp [h, hne]

/-- Another PLL's record leaves `P` of a PLL as it was, and its own does where `x` agrees with the old. -/
theorem State.setPll_field {α : Type} (s : State) (P : Pll → α) (n m : Nat) (hn : n < 15) (x : Pll)
    (hx : P x = P (s.pll n)) : P ((s.setPll n x).pll m) = P (s.pll m) := by
  rw [State.setPll_pll s n m hn]
  split
  · next h => rw [hx, h]
  · rfl

theorem State.startPll_pll (s : State) (n m : Nat) (hn : n < 15) : (s.startPll n).pll m =
    if m = n then { s.pll n with phase := .locking, target := (s.pll n).next } else s.pll m :=
  (State.pll_of_plls (s := s.setPll n _) (t := s.startPll n) rfl m).trans (s.setPll_pll n m hn _)

/-! ### CLK's fields -/

theorem pllStat_sound (n : Nat) (hn : n < 15) : (CLK_PLL_STAT_LOCKED n).Sound ∧
    (CLK_PLL_STAT_BYPASS n).Sound ∧ (CLK_PLL_STAT_REF_OK n).Sound ∧ (CLK_PLL_STAT_UNLOCKS n).Sound ∧
    (CLK_PLL_FREQ_KHZ n).Sound := by
  simp only [Fld.Sound, CLK_PLL_STAT_LOCKED, CLK_PLL_STAT_BYPASS, CLK_PLL_STAT_REF_OK, CLK_PLL_STAT_UNLOCKS,
    CLK_PLL_FREQ_KHZ]
  omega

theorem pllStat_off (n : Nat) : (CLK_PLL_STAT_LOCKED n).off = 0x104 + 16 * n ∧
    (CLK_PLL_STAT_BYPASS n).off = 0x104 + 16 * n ∧ (CLK_PLL_STAT_REF_OK n).off = 0x104 + 16 * n ∧
    (CLK_PLL_STAT_UNLOCKS n).off = 0x104 + 16 * n ∧ (CLK_PLL_FREQ_KHZ n).off = 0x108 + 16 * n :=
  ⟨rfl, rfl, rfl, rfl, rfl⟩

theorem evNum_clk (part : Part) (b : Nat) (hb : b < 6) : evNum part pgCLK b = some (532 + b) := by
  cases part <;> interval_cases b <;> rfl

theorem State.clamped_clk (s : State) : s.clamped pgCLK = false :=
  s.clamped_of_kind pgCLK .clk (by unfold State.kind; cases s.part <;> rfl) rfl

theorem State.raise_clk_raised (s : State) (b : Nat) (hb : b < 6) : (s.raise pgCLK b).Raised pgCLK b :=
  s.raise_raised pgCLK b (532 + b) (evNum_clk _ b hb) (by omega) s.clamped_clk

theorem State.raise_clk_raises (s : State) (b : Nat) : s.Raises (s.raise pgCLK b) (evWords pgCLK) :=
  s.raise_raises pgCLK b (.inl ⟨rfl, rfl⟩) (evWords_gbk pgCLK)

/-! ### What a relock leaves -/

/-- Every page but CLK. -/
def offClk (p _o : Nat) : Prop := p ≠ pgCLK

theorem offClk_gbk (p o : Nat) (h : evWords pgGBK p o) : offClk p o := by
  have hp : p = pgGBK := h.elim And.left And.left
  rw [hp]; exact (by decide : pgGBK ≠ pgCLK)

/-- A relock has begun, here or there: memory, every PLL's next target and the words of CLK outside the PLLs'
states stand, no count of lost locks differs, and no PLL shows a lock that showed none. -/
structure State.Relocks (s t : State) : Prop where
  part : t.part = s.part
  mem : s.SameMem t
  next : ∀ n, (t.pll n).next = (s.pll n).next
  byCmd : ∀ n, (t.pll n).byCmd = (s.pll n).byCmd
  word : ∀ o, o < 4096 → (∀ n, n < 15 → o ≠ 0x104 + 16 * n) → t.word pgCLK o = s.word pgCLK o
  unlocks : ∀ n, n < 15 → t.rd pgCLK (CLK_PLL_STAT_UNLOCKS n) = s.rd pgCLK (CLK_PLL_STAT_UNLOCKS n)
  unlocked : ∀ n, n < 15 → s.rd pgCLK (CLK_PLL_STAT_LOCKED n) = 0 → t.rd pgCLK (CLK_PLL_STAT_LOCKED n) = 0

theorem State.Relocks.refl (s : State) : s.Relocks s :=
  ⟨rfl, .of_eq rfl rfl rfl, fun _ => rfl, fun _ => rfl, fun _ _ _ => rfl, fun _ _ => rfl, fun _ _ => id⟩

theorem State.Relocks.trans (h : s.Relocks t) (h' : t.Relocks u) : s.Relocks u where
  part := h'.part.trans h.part
  mem := h.mem.trans h'.mem
  next n := (h'.next n).trans (h.next n)
  byCmd n := (h'.byCmd n).trans (h.byCmd n)
  word o ho hn := (h'.word o ho hn).trans (h.word o ho hn)
  unlocks n hn := (h'.unlocks n hn).trans (h.unlocks n hn)
  unlocked n hn := h'.unlocked n hn ∘ h.unlocked n hn

theorem State.Relocks.foldl {α : Type} (f : State → α → State) (l : List α)
    (h : ∀ t : State, ∀ x ∈ l, t.Relocks (f t x)) : ∀ s : State, s.Relocks (l.foldl f s) := by
  induction l with
  | nil => exact .refl
  | cons x l ih =>
    exact fun s => (h s x (by simp)).trans (ih (fun t y hy => h t y (by simp [hy])) (f s x))

/-- What keeps the PLLs and CLK is no relock. -/
theorem State.Keeps.relocks (h : s.Keeps t offClk) : s.Relocks t where
  part := h.core.part
  mem := h.sameMem
  next n := by rw [h.pll n]
  byCmd n := by rw [h.pll n]
  word o ho _ := h.word pgCLK o ho (fun hn => hn rfl)
  unlocks n hn := h.rd pgCLK _ (pllStat_sound n hn).2.2.2.1.2.2 (fun hn => hn rfl)
  unlocked n hn h0 := by rw [h.rd pgCLK _ (pllStat_sound n hn).1.2.2 (fun hn => hn rfl)]; exact h0

variable (s)

theorem State.setPll_relocks (n : Nat) (hn : n < 15) (x : Pll) (hnext : x.next = (s.pll n).next)
    (hby : x.byCmd = (s.pll n).byCmd) : s.Relocks (s.setPll n x) := by
  have hr : ∀ p o, (s.setPll n x).word p o = s.word p o := fun p o => by
    unfold State.setPll; rw [dif_pos hn]; rfl
  exact
    { part := by unfold State.setPll; rw [dif_pos hn]
      mem := by unfold State.setPll; rw [dif_pos hn]; exact .of_eq rfl rfl rfl
      next := fun m => s.setPll_field Pll.next n m hn x hnext
      byCmd := fun m => s.setPll_field Pll.byCmd n m hn x hby
      word := fun o _ _ => hr pgCLK o
      unlocks := fun m _ => congrArg (CLK_PLL_STAT_UNLOCKS m).get (hr pgCLK _)
      unlocked := fun m _ h => (congrArg (CLK_PLL_STAT_LOCKED m).get (hr pgCLK _)).trans h }

/-- A PLL's state word, but for its count. -/
theorem State.wr_pllStat_relocks (n v : Nat) (hn : n < 15) (f : Fld) (hf : f.Sound)
    (ho : f.off = 0x104 + 16 * n) (h8 : f.hi < 8) (h0 : 0 < f.lo ∨ (f = CLK_PLL_STAT_LOCKED n ∧ v = 0)) :
    s.Relocks (s.wr pgCLK f v) where
  part := rfl
  mem := .of_eq rfl rfl rfl
  next _ := rfl
  byCmd _ := rfl
  word o hlt hne := State.word_wr_ne _ _ _ _ _ hf hlt (.inr (by rw [ho]; exact hne n hn)) v
  unlocks m hm := by
    by_cases h : m = n
    · subst h
      exact State.rd_wr_apart _ _ _ _ hf (pllStat_sound m hm).2.2.2.1 ho.symm (.inr h8) v
    · exact State.rd_wr_ne _ _ _ _ _ hf (pllStat_sound m hm).2.2.2.1
        (.inr (by rw [ho, (pllStat_off m).2.2.2.1]; omega)) v
  unlocked m hm hz := by
    by_cases h : m = n
    · subst h
      rcases h0 with h0 | ⟨rfl, rfl⟩
      · exact (State.rd_wr_apart _ _ _ _ hf (pllStat_sound m hm).1 ho.symm (.inl h0) v).trans hz
      · exact State.rd_wr _ _ _ hf 0
    · exact (State.rd_wr_ne _ _ _ _ _ hf (pllStat_sound m hm).1
        (.inr (by rw [ho, (pllStat_off m).1]; omega)) v).trans hz

theorem State.startPll_relocks (n : Nat) (hn : n < 15) : s.Relocks (s.startPll n) := by
  obtain ⟨hl, hb, -⟩ := pllStat_sound n hn
  exact ((s.setPll_relocks n hn { s.pll n with phase := .locking, target := (s.pll n).next } rfl rfl).trans
    (State.wr_pllStat_relocks _ n 0 hn _ hl rfl (by decide : (0 : Nat) < 8) (.inr ⟨rfl, rfl⟩))).trans
    (State.wr_pllStat_relocks _ n 1 hn _ hb rfl (by decide : (1 : Nat) < 8) (.inl Nat.one_pos))

/-! ### Kiosks leave or rejoin the pool (R63, R148, R150) -/

theorem State.wr_offClk (p v : Nat) (f : Fld) (hf : f.Sound) (hp : p ≠ pgCLK) :
    s.Keeps (s.wr p f v) offClk := s.wr_keeps p v f hf hp

theorem State.raise_offClk (p b : Nat) (hp : p ≠ pgCLK) : s.Keeps (s.raise p b) offClk :=
  (s.raise_raises p b hp offClk_gbk).keeps

theorem State.wrBit_offClk (p : Nat) (f : Fld) (b : Bool) (hf : f.Sound) (hp : p ≠ pgCLK) :
    s.Keeps (s.wrBit p f b) offClk := s.wr_offClk p (b2n b) f hf hp

theorem State.incSat_offClk (p : Nat) (f : Fld) (hf : f.Sound) (hp : p ≠ pgCLK) :
    s.Keeps (s.incSat p f) offClk := by
  rw [State.incSat_eq, State.addSat_eq]; exact s.wr_offClk p _ f hf hp

theorem State.setState_offClk (p code : Nat) (hp : p ≠ pgCLK) : s.Keeps (s.setState p code) offClk :=
  s.wr_offClk p code _ (by decide) hp

theorem State.updIng_offClk (g : Ingest → Ingest) : s.Keeps (s.updIng g) offClk :=
  .of_regs _ ⟨rfl, rfl, rfl, rfl, rfl, rfl, rfl, rfl, rfl⟩ rfl

theorem State.setHolding_offClk (k : Nat) (x : Holding) : s.Keeps (s.setHolding k x) offClk := by
  unfold State.setHolding
  split
  · exact s.updIng_offClk _
  · exact .refl s _

theorem State.emit_offClk (e : Emission) : s.Keeps (s.emit e) offClk := (s.emit_raises e).keeps

theorem pgNET_ne (p : Nat) : pgNET p ≠ pgCLK := by unfold pgNET pgCLK; omega

theorem pgKSK_ne (k : Nat) : pgKSK k ≠ pgCLK := by unfold pgKSK pgCLK; omega

theorem pgONK_ne (h : Nat) : pgONK h ≠ pgCLK := by unfold pgONK pgCLK; omega

theorem State.ownSent_offClk (p n : Nat) : s.Keeps (s.ownSent p n) offClk := by
  unfold State.ownSent
  rw [State.add2_eq, State.wr2_eq]
  exact (s.wr_offClk _ _ _ (by decide) (pgNET_ne p)).trans
    (State.wr_offClk _ _ _ _ (by decide) (pgNET_ne p))

theorem State.sendDatagram_offClk (i : Fin 4) (bs : List Byte) : s.Keeps (s.sendDatagram i bs) offClk := by
  unfold State.sendDatagram
  split
  · exact (s.ownSent_offClk _ 1).trans (State.emit_offClk _ _)
  · exact .refl s _

theorem State.sendAck_offClk (i : Fin 4) : s.Keeps (s.sendAck i) offClk := by
  unfold State.sendAck
  dsimp only
  split
  · exact s.sendDatagram_offClk i _
  · exact .refl s _

theorem State.publish_offClk : s.Keeps s.publish offClk := by
  unfold State.publish
  dsimp only
  split
  · exact .refl s _
  · exact ((s.wr_offClk _ _ _ (by decide) (by decide)).trans (State.raise_offClk _ _ 0 (by decide))).trans
      (.foldl _ _ (fun t i _ => t.sendAck_offClk i) _)

theorem State.drainCheck_relocks (c : Nat) (hc : c < 4) : s.Relocks (s.drainCheck c) := by
  unfold State.drainCheck
  split
  · exact s.startPll_relocks _ (by omega)
  · exact .refl s

theorem State.kioskAway_relocks (k : Nat) (hk : k < 96) : s.Relocks (s.kioskAway k) := by
  have hplace : ∀ u : State, s.Keeps u offClk → s.Relocks
      (((u.setHolding k .nothing).setState (pgKSK k)
        (if s.bit (pgKSK k) WK_OUT_RETIRED then 3 else 0)).drainCheck (k / 24)) := fun u hu =>
 ((hu.trans (u.setHolding_offClk k .nothing)).trans
      (State.setState_offClk _ _ _ (pgKSK_ne k))).relocks.trans (State.drainCheck_relocks _ _ (by omega))
  unfold State.kioskAway
  refine hplace _ ?_
  split
  · exact s.updIng_offClk _
  · exact .refl s _

theorem State.kioskMove_relocks (k : Nat) (hk : k < 96) : s.Relocks (s.kioskMove k) := by
  unfold State.kioskMove
  split
  · split
    · exact s.kioskAway_relocks k hk
    · exact .refl s
  · split
    · rw [State.setState_eq]
      exact (s.wr_offClk _ _ _ (by decide) (pgKSK_ne k)).relocks
    · exact .refl s

theorem State.setOuts_relocks (ks : List Nat) (hks : ∀ k ∈ ks, k < 96) (f : Fld) (hf : f.Sound) (b : Bool) :
    s.Relocks (s.setOuts ks f b) := by
  have hmove : s.Relocks (ks.foldl (fun t k => (t.wrBit (pgKSK k) f b).kioskMove k) s) :=
    .foldl _ _ (fun t k hk => by
      rw [State.wrBit_eq]
      exact (t.wr_offClk _ _ _ hf (pgKSK_ne k)).relocks.trans (State.kioskMove_relocks _ k (hks k hk))) s
  exact hmove.trans (State.publish_offClk _).relocks

theorem kiosksBelow_lt (c k : Nat) (hc : c < 4) (h : k ∈ kiosksBelow (1 + c)) : k < 96 := by
  have he : kiosksBelow (1 + c) = (List.range 24).map (fun i => 24 * c + i) := by
    unfold kiosksBelow
    rw [if_neg (by omega), if_pos (by omega), Nat.add_sub_cancel_left]
  rw [he] at h
  obtain ⟨i, hi, rfl⟩ := List.mem_map.mp h
  have := List.mem_range.mp hi
  omega

theorem State.relockOut_relocks (c : Nat) (hc : c < 4) (b : Bool) : s.Relocks (s.relockOut c b) :=
  s.setOuts_relocks _ (fun _ hk => kiosksBelow_lt c _ hc (List.mem_filter.mp hk).1) _ (by decide) b

/-! ### Lanes and ports whose clock is gone (R64, R229) -/

theorem State.updOnk_offClk (h : Nat) (g : Onk → Onk) : s.Keeps (s.updOnk h g) offClk := by
  unfold State.updOnk
  split
  · exact .of_regs _ ⟨rfl, rfl, rfl, rfl, rfl, rfl, rfl, rfl, rfl⟩ rfl
  · exact .refl s _

theorem State.stageFail_offClk (h code : Nat) : s.Keeps (s.stageFail h code) offClk :=
  ((s.wr_offClk _ _ _ (by decide) (pgONK_ne h)).trans (State.wr_offClk _ _ _ _ (by decide) (by decide))).trans
    (State.raise_offClk _ _ 5 (pgONK_ne h))

theorem State.txEnd_offClk : s.Keeps s.txEnd offClk :=
  (State.Keeps.of_regs _ ⟨rfl, rfl, rfl, rfl, rfl, rfl, rfl, rfl, rfl⟩ rfl : s.Keeps { s with tx := none } _).trans
    (State.setState_offClk _ pgONKroot 0 (by decide))

theorem State.txAbort_offClk (failing : List (Nat × Nat)) : s.Keeps (s.txAbort failing) offClk := by
  unfold State.txAbort
  split
  · exact .refl s _
  · dsimp only
    refine (State.Keeps.foldl _ _ (fun u h _ => ?_) s).trans (State.txEnd_offClk _)
    have hsent : ∀ c : Prop, ∀ [Decidable c] (e : Emission), u.Keeps (if c then u.emit e else u) offClk :=
      fun c _ e => by
        split
        · exact u.emit_offClk e
        · exact .refl u _
    split
    · exact (hsent _ _).trans (State.stageFail_offClk _ h _)
    · exact (hsent _ _).trans (State.wr_offClk _ _ _ _ (by decide) (pgONK_ne h))

theorem State.laneGone_offClk (h : Nat) : s.Keeps (s.laneGone h) offClk := by
  have hread : ∀ u : State, u.Keeps (if (s.onkOf h).read.isSome then u.readEnd h ONK_RD_STAT_FAIL else u)
      offClk := fun u => by
    split
    · unfold State.readEnd
      rw [State.setBusy_eq]
      exact ((u.updOnk_offClk h _).trans (State.wr_offClk _ _ _ _ (by decide) (pgONK_ne h))).trans
        (State.wr_offClk _ _ _ _ (by decide) (pgONK_ne h))
    · exact .refl u _
  have hdown : ∀ u : State, u.Keeps (u.txLaneDown h) offClk := fun u => by
    unfold State.txLaneDown
    split
    · exact .refl u _
    · split
      · exact u.txAbort_offClk _
      · exact .refl u _
  exact (((s.updOnk_offClk h _).trans (State.updOnk_offClk _ h _)).trans (hread _)).trans (hdown _)

theorem State.laneLost_offClk (h b : Nat) : s.Keeps (s.laneLost h b) offClk := by
  unfold State.laneLost
  rw [State.incSat_eq, State.addSat_eq]
  exact ((s.wr_offClk _ _ _ (by decide) (pgONK_ne h)).trans (State.raise_offClk _ _ b (pgONK_ne h))).trans
    (State.laneGone_offClk _ h)

theorem State.updPort_offClk (p : Fin 2) (g : Port → Port) : s.Keeps (s.updPort p g) offClk :=
  .of_regs _ ⟨rfl, rfl, rfl, rfl, rfl, rfl, rfl, rfl, rfl⟩ rfl

theorem State.portDark_offClk (p : Fin 2) (los : Bool) : s.Keeps (s.portDark p los) offClk := by
  have hp := pgNET_ne p.val
  unfold State.portDark State.onlyIf
  dsimp only
  split
  · refine .trans ?_ (State.raise_offClk _ _ 0 hp)
    have hdark := (((s.wrBit_offClk (pgNET p.val) NET_STATUS_PCS_UP false (by decide) hp).trans
      (State.wrBit_offClk _ (pgNET p.val) NET_STATUS_LOS_NOW los (by decide) hp)).trans
      (State.updPort_offClk _ p (fun x => { x with upAt := none }))).trans
      (State.incSat_offClk _ (pgNET p.val) NET_LINK_DOWNS (by decide) hp)
    split
    · exact hdark.trans (State.setState_offClk _ _ _ hp)
    · exact hdark
  · exact .refl s _

theorem State.clockGone_offClk (n : Nat) : s.Keeps (s.clockGone n) offClk := by
  unfold State.clockGone
  split
  · refine .foldl _ _ (fun t i _ => ?_) s
    split
    · exact t.laneLost_offClk _ 1
    · exact .refl t _
  · split
    · exact s.portDark_offClk 0 false
    · split
      · exact s.portDark_offClk 1 false
      · exact .refl s _

theorem State.relockPll_relocks (n : Nat) (hn : n < 15) : s.Relocks (s.relockPll n) := by
  unfold State.relockPll
  split
  · next c hc =>
    have hc4 : c < 4 := by
      unfold clusterOf at hc
      split at hc
      · cases hc; omega
      · cases hc
    exact ((s.setPll_relocks n hn { s.pll n with phase := .draining } rfl rfl).trans (State.relockOut_relocks _ c hc4 true)).trans
      (State.drainCheck_relocks _ c hc4)
  · exact (s.startPll_relocks n hn).trans (State.clockGone_offClk _ n).relocks

end Sys2Proof.Machine
end

section
/-! SUPPORT. The crystal, references, and the events of the PLLs (R60-R65). -/

namespace Sys2Proof.Machine

variable {s t u : State}

/-- A bit reads as it was written. -/
theorem State.bit_wrBit (s : State) (p : Nat) (f : Fld) (hf : f.Sound) (b : Bool) :
    (s.wrBit p f b).bit p f = b := by
  have h1 : 1 < 2 ^ f.width := Nat.one_lt_two_pow (by unfold Fld.width; omega)
  rw [State.wrBit_eq, State.bit_wr _ _ _ hf]
  cases b
  · exact decide_eq_false (by simp [b2n])
  · exact decide_eq_true (by rw [b2n, if_pos rfl, Nat.mod_eq_of_lt h1]; decide)

theorem State.bit_of_word (p : Nat) (f : Fld) (h : t.word p f.off = s.word p f.off) :
    t.bit p f = s.bit p f := by
  unfold State.bit State.rd; rw [h]

/-- Another bit of a word that is written stands. -/
theorem State.bit_wr_apart (s : State) (p : Nat) (f g : Fld) (hf : f.Sound) (hg : g.Sound)
    (ho : g.off = f.off) (h : f.Apart g) (v : Nat) : (s.wr p f v).bit p g = s.bit p g := by
  unfold State.bit; rw [State.rd_wr_apart s p f g hf hg ho h]

theorem State.bit_wr_ne (s : State) (p p' : Nat) (f g : Fld) (hf : f.Sound) (hg : g.Sound)
    (h : p' ≠ p ∨ g.off ≠ f.off) (v : Nat) : (s.wr p f v).bit p' g = s.bit p' g := by
  unfold State.bit; rw [State.rd_wr_ne s p p' f g hf hg h]

theorem State.Clocks.but_regs (h : s.Clocks t) (hp : t.plls = s.plls) (r : Tbl Word) :
    { t with regs := r } = { s with regs := r } := by
  have hplls : { t with regs := r } = { t with regs := r, plls := s.plls } := by rw [← hp]
  exact hplls.trans (congrArg (fun x : State => { x with regs := r }) h.rest :)

theorem State.Clocks.part (h : s.Clocks t) : t.part = s.part := (congrArg State.part h.rest :)

theorem State.Clocks.aon (h : s.Clocks t) : t.aon = s.aon := (congrArg State.aon h.rest :)

theorem State.Clocks.pwr (h : s.Clocks t) : t.pwr = s.pwr := (congrArg State.pwr h.rest :)

theorem State.Clocks.stage (h : s.Clocks t) : t.stage = s.stage :=
  State.stage_of_word (h.word pgTOP 0x080 (by decide) (by decide))

variable (s)

/-! ### References (R60) -/

theorem State.showRef_clocks (n : Nat) (hn : n < 15) : s.Clocks (s.showRef n) := by
  unfold State.showRef
  rw [State.wrBit_eq]
  exact s.wr_clocks _ (pllStat_sound n hn).2.2.1 _

theorem State.showRef_bit (n : Nat) (hn : n < 15) : (s.showRef n).bit pgCLK (CLK_PLL_STAT_REF_OK n) =
    (s.refSensed n && (s.aon.refs.toList[n]?).getD true && (decide (8 ≤ n) || s.aon.xtal)) :=
  s.bit_wrBit _ _ (pllStat_sound n hn).2.2.1 _

theorem State.showRef_word (n p o : Nat) (hn : n < 15) (ho : o < 4096)
    (h : ¬ (p = pgCLK ∧ o = (CLK_PLL_STAT_REF_OK n).off)) : (s.showRef n).word p o = s.word p o := by
  unfold State.showRef
  rw [State.wrBit_eq]
  exact State.word_wr_ne _ _ _ _ _ (pllStat_sound n hn).2.2.1 ho (not_and_or.mp h) _

/-- A reference comes or goes, and `REF_OK` follows it. -/
theorem State.setRef_bit (n : Fin 15) (ok : Bool) : (s.setRef n ok).bit pgCLK (CLK_PLL_STAT_REF_OK n.val) =
    (s.refSensed n.val && ok && (decide (8 ≤ n.val) || s.aon.xtal)) := by
  let v : State := { s with aon := { s.aon with refs := s.aon.refs.set n.val ok } }
  have hset : (v.aon.refs.toList[n.val]?).getD true = ok := by simp [v]
  refine (v.showRef_bit n.val n.isLt).trans ?_
  rw [hset]
  rfl

theorem State.setRef_word (n : Fin 15) (ok : Bool) (p o : Nat) (ho : o < 4096)
    (h : ¬ (p = pgCLK ∧ o = (CLK_PLL_STAT_REF_OK n.val).off)) : (s.setRef n ok).word p o = s.word p o :=
  State.showRef_word _ n.val p o n.isLt ho h

/-- A write of a field is a write of a register. -/
theorem State.wr_rest (p v : Nat) (f : Fld) (r : Tbl Word) : { s.wr p f v with regs := r } = { s with regs := r } :=
  rfl

/-- But for that bit, only the island's own record of the reference differs. -/
theorem State.setRef_rest (n : Fin 15) (ok : Bool) :
    { s.setRef n ok with regs := s.regs, aon := s.aon } = s ∧
      (s.setRef n ok).aon = { s.aon with refs := s.aon.refs.set n.val ok } ∧
      (s.setRef n ok).plls = s.plls ∧ s.SameMem (s.setRef n ok) := by
  have he : ∀ v : State, v.showRef n.val = v.wr pgCLK (CLK_PLL_STAT_REF_OK n.val)
      (b2n (v.refSensed n.val && (v.aon.refs.toList[n.val]?).getD true &&
        (decide (8 ≤ n.val) || v.aon.xtal))) := fun v => v.wrBit_eq _ _ _
  unfold State.setRef
  rw [he]
  exact ⟨rfl, rfl, rfl, .of_eq rfl rfl rfl⟩

/-! ### The crystal (R65) -/

theorem State.refBits_plls (b : Bool) (l : List Nat) :
    (l.foldl (fun t n => t.wrBit pgCLK (CLK_PLL_STAT_REF_OK n) b) s).plls = s.plls := by
  induction l generalizing s with
  | nil => rfl
  | cons n l ih => exact (ih _).trans rfl

/-- What the pages show of the crystal, and what they do not touch. -/
theorem State.showXtal_shows : s.showXtal.bit pgCLK CLK_XTAL_STAT_XTAL_OK = s.aon.xtal ∧
    s.showXtal.bit pgCLK CLK_XTAL_STAT_ON_RC = s.aon.onRc ∧
    s.showXtal.bit pgWRD WRD_FAULT_XTAL = s.aon.onRc ∧ s.showXtal.stage = s.stage ∧
    { s.showXtal with regs := s.regs } = s := by
  let v := ((s.wrBit pgCLK CLK_XTAL_STAT_XTAL_OK s.aon.xtal).wrBit pgCLK CLK_XTAL_STAT_ON_RC s.aon.onRc).wrBit
    pgWRD WRD_FAULT_XTAL s.aon.onRc
  have hsound : ∀ n ∈ List.range 8, n < 15 := fun n hn => by have := List.mem_range.mp hn; omega
  have hc : v.Clocks s.showXtal := .foldl _ _ (fun t n hn => by
    rw [State.wrBit_eq]; exact t.wr_clocks _ (pllStat_sound n (hsound n hn)).2.2.1 _) v
  have hr : v.Relocks s.showXtal := .foldl _ _ (fun t n hn => by
    rw [State.wrBit_eq]
    exact t.wr_pllStat_relocks n _ (hsound n hn) _ (pllStat_sound n (hsound n hn)).2.2.1 rfl
      (by decide : (2 : Nat) < 8) (.inl Nat.two_pos)) v
  have hx : s.showXtal.word pgCLK 0x040 = v.word pgCLK 0x040 := hr.word 0x040 (by decide) fun n _ => by omega
  have hplls : s.showXtal.plls = v.plls := v.refBits_plls s.aon.xtal (List.range 8)
  refine ⟨?_, ?_, ?_, ?_, ?_⟩
  · rw [State.bit_of_word pgCLK CLK_XTAL_STAT_XTAL_OK hx]
    refine (State.bit_of_word pgCLK CLK_XTAL_STAT_XTAL_OK (State.word_wr_ne _ _ _ _ WRD_FAULT_XTAL (by decide)
      (by decide) (.inl (by decide)) _)).trans ?_
    exact (State.bit_wr_apart _ pgCLK CLK_XTAL_STAT_ON_RC CLK_XTAL_STAT_XTAL_OK (by decide) (by decide) rfl
      (by decide) _).trans (s.bit_wrBit _ _ (by decide) _)
  · rw [State.bit_of_word pgCLK CLK_XTAL_STAT_ON_RC hx]
    exact (State.bit_of_word pgCLK CLK_XTAL_STAT_ON_RC (State.word_wr_ne _ _ _ _ WRD_FAULT_XTAL (by decide)
      (by decide) (.inl (by decide)) _)).trans (State.bit_wrBit _ _ _ (by decide) _)
  · rw [State.bit_of_word pgWRD WRD_FAULT_XTAL (hc.word pgWRD _ (by decide) (by decide))]
    exact State.bit_wrBit _ _ _ (by decide) _
  · rw [hc.stage]
    refine State.stage_of_word ?_
    exact (State.word_wr_ne _ _ _ _ WRD_FAULT_XTAL (by decide) (by decide) (.inl (by decide)) _).trans
      ((State.word_wr_ne _ _ _ _ CLK_XTAL_STAT_ON_RC (by decide) (by decide) (.inl (by decide)) _).trans
      (State.word_wr_ne _ _ _ _ CLK_XTAL_STAT_XTAL_OK (by decide) (by decide) (.inl (by decide)) _))
  · exact (hc.but_regs hplls s.regs).trans ((State.wr_rest _ pgWRD _ WRD_FAULT_XTAL s.regs).trans
      ((State.wr_rest _ pgCLK _ CLK_XTAL_STAT_ON_RC s.regs).trans (s.wr_rest pgCLK _ CLK_XTAL_STAT_XTAL_OK s.regs)))

/-- The crystal's bits are all that differs. -/
theorem State.showXtal_kept : s.showXtal.plls = s.plls ∧ s.showXtal.aon = s.aon ∧ s.SameMem s.showXtal := by
  obtain ⟨-, -, -, -, hrest⟩ := s.showXtal_shows
  generalize s.showXtal = t at hrest
  exact ⟨(congrArg State.plls hrest :), (congrArg State.aon hrest :),
    .of_eq (congrArg State.mem hrest :) (congrArg State.flash hrest :) (congrArg State.poison hrest :)⟩

/-- A trigger leaves a reset pending with its cause (R68, R69). -/
theorem State.trigger_pends (cause : Fld) (hf : cause.Sound) (h0 : cause.lo = cause.hi) :
    (s.trigger cause).aon = { s.aon with rstPending := true } ∧ (s.trigger cause).bit pgTOP cause = true ∧
      s.SameMem (s.trigger cause) := by
  refine ⟨rfl, ?_, .of_eq rfl rfl rfl⟩
  refine (State.bit_wr _ pgTOP cause hf 1).trans (decide_eq_true ?_)
  have hw : cause.width = 1 := by unfold Fld.width; omega
  rw [hw]; decide

/-! ### A crystal that stops (R65, R209, R256) -/

theorem State.qlpVoid_sameMem (h line : Nat) : s.SameMem (s.qlpVoid h line) := by
  unfold State.qlpVoid State.setQlines
  split
  · split <;> exact .of_eq rfl rfl rfl
  · split
    · split
      · split <;> exact .of_eq rfl rfl rfl
      · exact .of_eq rfl rfl rfl
    · exact .of_eq rfl rfl rfl

theorem State.qlpCut_sameMem (h : Nat) : s.SameMem (s.qlpCut h) := by
  have hheld : ∀ line, s.SameMem (s.trainHeld h line) := fun line => by
    have hskip : ∀ u : State, u.SameMem (u.skipLine h line) := fun u => by
      unfold State.skipLine; split <;> exact .of_eq rfl rfl rfl
    exact (((s.updOnk_offClk h _).sameMem).trans (hskip _)).trans (State.qlpVoid_sameMem _ h line)
  unfold State.qlpCut
  split
  · split
    · split
      · exact hheld _
      · exact s.qlpVoid_sameMem h _
    · exact .of_eq rfl rfl rfl
  · exact .of_eq rfl rfl rfl

theorem State.padStops_sameMem (h : Nat) : s.SameMem (s.padStops h) :=
  (s.updFir_raises (but := fun _ _ => False) h _).keeps.sameMem

theorem State.SameMem.foldl {α : Type} (f : State → α → State) (l : List α)
    (h : ∀ (t : State) x, t.SameMem (f t x)) : ∀ s : State, s.SameMem (l.foldl f s) := by
  induction l with
  | nil => exact fun _ => .of_eq rfl rfl rfl
  | cons x l ih => exact fun s => (h s x).trans (ih (f s x))

end Sys2Proof.Machine
end

section
/-! PROOFS. Rails, the crystal, PLLs and RELOCK (R58-R65, R70). -/

namespace Sys2Proof.Machine

variable (s : State)

/-! ### Rails (R70) -/

/-- The state with a rail noted good. -/
def State.railNoted (s : State) (rail : Rail) : State :=
  { s with aon := { s.aon with rails := s.aon.rails.set (railNum rail).val true } }

theorem State.exec_railGood (rail : Rail) :
    exec (.railGood rail) s = .next ((s.fresh.railNoted rail).leaveRails) := rfl

theorem State.railNoted_get (rail : Rail) : (s.railNoted rail).aon.rails.get (railNum rail) = true :=
  (Vector.getElem_set (xs := s.aon.rails) (railNum rail).isLt (railNum rail).isLt).trans (if_pos rfl)

theorem State.railGood_noted (rail : Rail) (h : s.stage ≠ 0) :
    ∃ t, exec (.railGood rail) s = .next t ∧ t.aon.rails.get (railNum rail) = true ∧
      s.SameMem t ∧ s.SameRegs t (fun _ _ => False) ∧ { t with aon := s.aon } = s.fresh := by
  have he : (s.fresh.railNoted rail).leaveRails = s.fresh.railNoted rail := by
    have h0 : ((s.fresh.railNoted rail).stage == 0) = false := beq_false_of_ne h
    unfold State.leaveRails
    rw [h0]
    rfl
  refine ⟨s.fresh.railNoted rail, ?_, s.fresh.railNoted_get rail, .of_eq rfl rfl rfl, .of_eq _ rfl rfl rfl, rfl⟩
  rw [s.exec_railGood rail, he]

/-- The rails in the order of their numbers. -/
def railOf : Fin 8 → Rail :=
  ![.vddCore, .vddPll, .vddaSer, .vddhSer, .vddio12, .vddqDram, .vddio18, .vddaAdc]

theorem railNum_railOf (i : Fin 8) : railNum (railOf i) = i := by fin_cases i <;> rfl

theorem railOf_railNum (r : Rail) : railOf (railNum r) = r := by cases r <;> rfl

/-- With the last rail every rail is good. -/
theorem State.railNoted_good (rail : Rail)
    (h : ∀ r, r ≠ rail → s.aon.rails.get (railNum r) = true) : (s.railNoted rail).railsGood = true := by
  refine List.all_eq_true.mpr fun b hb => ?_
  obtain ⟨i, hi, rfl⟩ := List.mem_iff_getElem.mp hb
  have hi8 : i < 8 := by simpa using hi
  let r := railOf ⟨i, hi8⟩
  have hget : (s.railNoted rail).aon.rails.toList[i] = (s.railNoted rail).aon.rails.get (railNum r) := by
    rw [railNum_railOf ⟨i, hi8⟩]; simp [Vector.get]
  rw [hget]
  by_cases hrr : r = rail
  · rw [hrr]; exact s.railNoted_get rail
  · have hne : (railNum rail).val ≠ (railNum r).val := fun e => hrr (by
      rw [← railOf_railNum r, ← railOf_railNum rail, Fin.ext e])
    exact (Vector.getElem_set (xs := s.aon.rails) (railNum rail).isLt (railNum r).isLt).trans
      ((if_neg hne).trans (h r hrr))

theorem State.enterClocks_shows : s.enterClocks.stage = 1 ∧ s.SameMem s.enterClocks ∧
    s.enterClocks.part = s.part ∧
    ∀ d : Fin 7, s.enterClocks.pwr.doms.get d = if s.part.hasDom d.val then .up else .down := by
  let v : State := ({ s with pwr := { s.pwr with doms := Vector.ofFn (fun d =>
    if s.part.hasDom d.val then .up else .down) } })
  have href : (v.setStage 1).Clocks (([8, 9, 10, 11, 12, 13, 14].foldl State.showRef (v.setStage 1)).startPll 14) :=
    .trans (.foldl _ _ (fun t n hn => t.showRef_clocks n (by
      simp only [List.mem_cons, List.not_mem_nil, or_false] at hn; omega)) _) (State.startPll_clocks _ 14 (by decide))
  have hc : (v.setStage 1).Clocks s.enterClocks := by
    unfold State.enterClocks
    dsimp only
    split
    · exact (href.trans (State.startPll_clocks _ 0 (by decide))).trans (State.startPll_clocks _ 1 (by decide))
    · exact href
  have hv : (v.setStage 1).part = s.part ∧ (v.setStage 1).pwr = v.pwr := by
    rw [v.setStage_eq 1]; exact ⟨rfl, rfl⟩
  have hmem : s.SameMem v := .of_eq rfl rfl rfl
  refine ⟨hc.stage.trans (v.setStage_stage 1 (by decide)), (hmem.trans (v.setStage_sameMem 1)).trans hc.sameMem,
    hc.part.trans hv.1, fun d => ?_⟩
  rw [hc.pwr, hv.2]
  simp [v, Vector.get]; rfl

/-- CLOCKS begins with every domain of the part up. -/
theorem State.goClocks_shows : s.goClocks.stage = 1 ∧ s.SameMem s.goClocks ∧
    ∀ d : Fin 7, s.goClocks.pwr.doms.get d = if s.part.hasDom d.val then .up else .down := by
  obtain ⟨hst, hmem, hpart, hdoms⟩ := s.enterClocks_shows
  have hp := (s.enterClocks.printBack_raises s).keeps
  have hg : (s.printBack s.enterClocks).Keeps s.goClocks (reactWord s.enterClocks.part) :=
    (State.gbkFlushLate_raises _ fun _ _ h => .inr (.inr h)).keeps
  have hk := hp.trans hg
  have htop : ¬ reactWord s.enterClocks.part pgTOP 0x080 :=
    not_reactWord _ _ _ (by decide) (by decide) (by rw [(kindOf_boot _).1]; decide)
  refine ⟨(State.stage_of_word (hk.word pgTOP 0x080 (by decide) htop)).trans hst, hmem.trans hk.sameMem,
    fun d => ?_⟩
  rw [hk.core.pwr]
  exact hdoms d

theorem State.railGood_last (rail : Rail) (h0 : s.stage = 0) (hv : s.aon.vbus = true)
    (hp : s.aon.rstPending = false) (hl : s.aon.resetLow = false)
    (hr : ∀ r, r ≠ rail → s.aon.rails.get (railNum r) = true) :
    ∃ t, exec (.railGood rail) s = .next t ∧ t.stage = 1 ∧ s.SameMem t ∧
      (∀ d : Fin 7, t.pwr.doms.get d = if s.part.hasDom d.val then .up else .down) := by
  let v := s.fresh.railNoted rail
  have hc : (v.stage == 0 && v.aon.vbus && v.railsGood && !v.aon.rstPending && !v.aon.resetLow) = true := by
    have h0' : v.stage = 0 := h0
    have hv' : v.aon.vbus = true := hv
    have hp' : v.aon.rstPending = false := hp
    have hl' : v.aon.resetLow = false := hl
    have hg : v.railsGood = true := s.fresh.railNoted_good rail hr
    rw [h0', hv', hp', hl', hg]; rfl
  have he : v.leaveRails = v.goClocks := if_pos hc
  obtain ⟨hst, hmem, hdoms⟩ := v.goClocks_shows
  have hsame : s.SameMem v := .of_eq rfl rfl rfl
  exact ⟨v.goClocks, (s.exec_railGood rail).trans (congrArg _ he), hst, hsame.trans hmem, hdoms⟩

/-! ### The crystal (R65) -/

theorem State.xtalQualified_shows :
    ∃ t, exec .xtalQualified s = .next t ∧ t.aon.xtal = true ∧ t.aon.onRc = false ∧
      t.bit pgCLK CLK_XTAL_STAT_XTAL_OK = true ∧ t.bit pgCLK CLK_XTAL_STAT_ON_RC = false ∧
      t.bit pgWRD WRD_FAULT_XTAL = false ∧
      (s.stage = 1 → (s.pll 0).phase = .off → (s.pll 1).phase = .off →
        (t.pll 0).phase = .locking ∧ (t.pll 1).phase = .locking) ∧ s.SameMem t := by
  let v : State := { s.fresh with aon := { s.aon with xtal := true, onRc := false, xtalCut := false } }
  obtain ⟨hok, hrc, hwrd, hst, -⟩ := v.showXtal_shows
  obtain ⟨hplls, haon, hsame⟩ := v.showXtal_kept
  let x := v.showXtal
  have hpll : ∀ n, x.pll n = s.pll n := fun n => State.pll_of_plls (s := v) hplls n
  have hst' : x.stage = s.stage := hst
  let w := if x.stage = 1 ∧ (x.pll 0).phase = .off ∧ (x.pll 1).phase = .off then (x.startPll 0).startPll 1 else x
  have hstart : x.Clocks ((x.startPll 0).startPll 1) ∧ x.Relocks ((x.startPll 0).startPll 1) :=
    ⟨(x.startPll_clocks 0 (by decide)).trans (State.startPll_clocks _ 1 (by decide)),
      (x.startPll_relocks 0 (by decide)).trans (State.startPll_relocks _ 1 (by decide))⟩
  have hw : x.Clocks w ∧ x.Relocks w := by
    by_cases h : x.stage = 1 ∧ (x.pll 0).phase = .off ∧ (x.pll 1).phase = .off
    · rw [show w = _ from if_pos h]; exact hstart
    · rw [show w = _ from if_neg h]; exact ⟨.refl x, .refl x⟩
  have hx : w.word pgCLK 0x040 = x.word pgCLK 0x040 := hw.2.word 0x040 (by decide) fun n _ => by omega
  refine ⟨w, rfl, ?_, ?_, ?_, ?_, ?_, fun h1 hp0 hp1 => ?_, ?_⟩
  · rw [hw.1.aon, haon]
  · rw [hw.1.aon, haon]
  · rw [State.bit_of_word pgCLK CLK_XTAL_STAT_XTAL_OK hx, hok]
  · rw [State.bit_of_word pgCLK CLK_XTAL_STAT_ON_RC hx, hrc]
  · rw [State.bit_of_word pgWRD WRD_FAULT_XTAL (hw.1.word pgWRD _ (by decide) (by decide)), hwrd]
  · have hc : x.stage = 1 ∧ (x.pll 0).phase = .off ∧ (x.pll 1).phase = .off := by
      rw [hpll, hpll, hst']; exact ⟨h1, hp0, hp1⟩
    rw [show w = _ from if_pos hc, State.startPll_pll _ 1 0 (by decide), State.startPll_pll _ 1 1 (by decide),
      if_neg (by decide), if_pos rfl, State.startPll_pll _ 0 0 (by decide), if_pos rfl]
    exact ⟨rfl, rfl⟩
  · exact (State.SameMem.of_eq rfl rfl rfl : s.SameMem v).trans (hsame.trans hw.1.sameMem)

/-- The crystal has stopped: every train ends, and the island runs on its RC oscillator. -/
def State.xtalGone (s : State) : State :=
  let v := (List.range s.part.heads).foldl (fun u h => (u.qlpCut h).padStops h) s
  { v with aon := { v.aon with xtal := false, onRc := true, xtalCut := true } }

theorem State.xtalGone_sameMem : s.SameMem s.xtalGone := by
  have h : s.SameMem ((List.range s.part.heads).foldl (fun u h => (u.qlpCut h).padStops h) s) :=
    .foldl _ _ (fun t h => (t.qlpCut_sameMem h).trans (State.padStops_sameMem _ h)) s
  exact h.trans (.of_eq rfl rfl rfl)

theorem State.exec_xtalStop (h : s.aon.xtal = true) : exec .xtalStop s =
    .next (((s.fresh.xtalGone.showXtal).raise pgCLK 4).trigger TOP_RESET_CAUSE_PLL_FAULT) :=
  congrArg Host.Outcome.next (State.onlyIf_true s.fresh _ _ h)

/-- No strobe pad drives "fire" on the RC oscillator. -/
theorem State.strobePad_onRc (h : Nat) (hrc : s.aon.onRc = true) : s.strobePad h ≠ some true := by
  unfold State.strobePad
  split
  · rw [hrc]; simp
  · exact nofun

theorem State.xtalGone_aon : s.xtalGone.aon.xtal = false ∧ s.xtalGone.aon.onRc = true := ⟨rfl, rfl⟩

theorem State.xtalStop_shows (hx : s.aon.xtal = true) :
    ∃ t, exec .xtalStop s = .next t ∧ t.aon.xtal = false ∧ t.aon.onRc = true ∧
      t.aon.rstPending = true ∧ t.bit pgTOP TOP_RESET_CAUSE_PLL_FAULT = true ∧
      t.bit pgWRD WRD_FAULT_XTAL = true ∧ t.Raised pgCLK 4 ∧
      (∀ h, t.strobePad h ≠ some true) ∧ s.SameMem t := by
  obtain ⟨hxtal, hrc⟩ := s.fresh.xtalGone_aon
  obtain ⟨-, -, hwrd, -, -⟩ := s.fresh.xtalGone.showXtal_shows
  obtain ⟨-, haon, hsame⟩ := s.fresh.xtalGone.showXtal_kept
  have hw : s.SameMem s.fresh.xtalGone := s.fresh.xtalGone_sameMem
  have he := s.exec_xtalStop hx
  rw [hrc] at hwrd
  generalize s.fresh.xtalGone.showXtal = w at he hwrd haon hsame
  rw [← haon] at hxtal hrc
  have hmem := hw.trans hsame
  have hr : w.Raises (w.raise pgCLK 4) (evWords pgCLK) := w.raise_clk_raises 4
  have hraised := w.raise_clk_raised 4 (by decide)
  have hfault := (hr.keeps.bit pgWRD WRD_FAULT_XTAL (by decide) (not_evWords _ _ _ (by decide) (by decide))).trans hwrd
  rw [← hr.core.aon] at hxtal hrc
  generalize w.raise pgCLK 4 = u at he hr hraised hfault hxtal hrc
  obtain ⟨htaon, hcause, htmem⟩ := u.trigger_pends TOP_RESET_CAUSE_PLL_FAULT (by decide) rfl
  have htrc : (u.trigger TOP_RESET_CAUSE_PLL_FAULT).aon.onRc = true := (congrArg Aon.onRc htaon).trans hrc
  refine ⟨_, he, (congrArg Aon.xtal htaon).trans hxtal, htrc, congrArg Aon.rstPending htaon, hcause, ?_, ?_,
    fun h => State.strobePad_onRc _ h htrc, (hmem.trans hr.keeps.sameMem).trans htmem⟩
  · exact (State.bit_wr_ne _ pgTOP pgWRD TOP_RESET_CAUSE_PLL_FAULT WRD_FAULT_XTAL (by decide) (by decide)
      (.inl (by decide)) 1).trans hfault
  · exact State.wr_raised _ pgTOP 1 pgCLK 4 TOP_RESET_CAUSE_PLL_FAULT (by decide) (by decide) hraised

end Sys2Proof.Machine
end

section
/-! PROOFS. Events of the PLLs (R60-R64, R70). -/

namespace Sys2Proof.Machine

variable (s : State)

/-! ### Lock and hold (R62) -/

theorem State.setPll_rest (n : Nat) (hn : n < 15) (x : Pll) :
    { s.setPll n x with plls := s.plls } = s ∧ (s.setPll n x).regs = s.regs ∧
      (s.setPll n x).part = s.part := by
  unfold State.setPll; rw [dif_pos hn]; exact ⟨rfl, rfl, rfl⟩

theorem State.setPll_word (n : Nat) (hn : n < 15) (x : Pll) (p o : Nat) :
    (s.setPll n x).word p o = s.word p o :=
  State.word_of_regs s _ (s.setPll_rest n hn x).2.2 (s.setPll_rest n hn x).2.1 p o

theorem State.setPll_keepsMem (n : Nat) (x : Pll) : s.SameMem (s.setPll n x) := (s.setPll_clocks n x).sameMem

/-- A lock is shown (R62). -/
def State.lockShown (s : State) (n : Nat) : State :=
  (s.setPll n { s.pll n with phase := .locked }).wr pgCLK (CLK_PLL_STAT_LOCKED n) 1

theorem State.exec_pllLock (n : Fin 15) (h : (s.pll n.val).phase = .locking) :
    exec (.pllLock n) s = .next ((s.fresh.lockShown n.val).setRef n true) :=
  congrArg Host.Outcome.next (State.onlyIf_true s.fresh _ _ (beq_iff_eq.mpr h))

theorem State.lockShown_shows (n : Nat) (hn : n < 15) :
    (s.lockShown n).bit pgCLK (CLK_PLL_STAT_LOCKED n) = true ∧ ((s.lockShown n).pll n).phase = .locked ∧
      { s.lockShown n with regs := s.regs, plls := s.plls } = s ∧
      (∀ p o, o < 4096 → ¬ (p = pgCLK ∧ o = (CLK_PLL_STAT_LOCKED n).off) →
        (s.lockShown n).word p o = s.word p o) := by
  let v := s.setPll n { s.pll n with phase := .locked }
  refine ⟨v.bit_wrBit pgCLK _ (pllStat_sound n hn).1 true, ?_, ?_, fun p o ho h => ?_⟩
  · have hp : (s.lockShown n).pll n = v.pll n := State.pll_of_plls (s := v) (t := s.lockShown n) rfl n
    rw [hp, s.setPll_pll n n hn, if_pos rfl]
  · exact (congrArg (fun x : State => { x with regs := s.regs }) (s.setPll_rest n hn _).1 :)
  · exact (State.word_wr_ne v pgCLK p o _ (pllStat_sound n hn).1 ho (not_and_or.mp h) 1).trans
      (s.setPll_word n hn _ p o)

theorem State.lockShown_parts (n : Nat) (hn : n < 15) : (s.lockShown n).aon = s.aon ∧
    (s.lockShown n).part = s.part ∧ (s.lockShown n).pwr = s.pwr ∧ (s.lockShown n).act = s.act ∧
    s.SameMem (s.lockShown n) := by
  obtain ⟨-, -, hrest, -⟩ := s.lockShown_shows n hn
  generalize s.lockShown n = t at hrest
  exact ⟨(congrArg State.aon hrest :), (congrArg State.part hrest :), (congrArg State.pwr hrest :),
    (congrArg State.act hrest :),
    .of_eq (congrArg State.mem hrest :) (congrArg State.flash hrest :) (congrArg State.poison hrest :)⟩

theorem State.refSensed_of (t : State) (n : Nat) (hp : t.part = s.part) (hw : t.pwr = s.pwr) :
    t.refSensed n = s.refSensed n := by
  unfold State.refSensed; rw [hp, hw]

/-- Changes of registers, PLLs and the island's record add up. -/
theorem State.rest_setRef (t : State) (n : Fin 15) (ok : Bool)
    (h : { t with regs := s.regs, plls := s.plls } = s) :
    { t.setRef n ok with regs := s.regs, plls := s.plls, aon := s.aon } = s := by
  obtain ⟨hr, -⟩ := t.setRef_rest n ok
  have hl := congrArg (fun x : State => { x with regs := s.regs, plls := s.plls, aon := s.aon }) hr
  exact hl.trans (congrArg (fun x : State => { x with aon := s.aon }) h :)

theorem State.pllLock_shows (n : Fin 15) (h : (s.pll n.val).phase = .locking) :
    ∃ t, exec (.pllLock n) s = .next t ∧ (t.pll n.val).phase = .locked ∧
      t.bit pgCLK (CLK_PLL_STAT_LOCKED n.val) = true ∧
      t.bit pgCLK (CLK_PLL_STAT_REF_OK n.val) =
        (s.refSensed n.val && (decide (8 ≤ n.val) || s.aon.xtal)) ∧ s.SameMem t ∧
      s.SameRegs t (fun p o => p = pgCLK ∧ o = (CLK_PLL_STAT_LOCKED n.val).off) ∧
      { t with regs := s.regs, plls := s.plls, aon := s.aon } = s.fresh ∧
      t.aon = { s.aon with refs := s.aon.refs.set n.val true } := by
  let v := s.fresh.lockShown n.val
  obtain ⟨hbit, hph, hrest, hword⟩ := s.fresh.lockShown_shows n.val n.isLt
  obtain ⟨haon, hpart, hpwr, hact, hmem⟩ := s.fresh.lockShown_parts n.val n.isLt
  obtain ⟨hr, hra, hplls, hrm⟩ := v.setRef_rest n true
  have hsound := pllStat_sound n.val n.isLt
  refine ⟨_, s.exec_pllLock n h, ?_, ?_, ?_, hmem.trans hrm, ⟨fun p o ho hn => ?_, fun p o => ?_⟩, ?_, ?_⟩
  · exact (congrArg Pll.phase (State.pll_of_plls (s := v) hplls n.val)).trans hph
  · refine Eq.trans ?_ hbit
    have he : (v.setRef n true).bit pgCLK (CLK_PLL_STAT_LOCKED n.val) = v.bit pgCLK (CLK_PLL_STAT_LOCKED n.val) := by
      have hx : ∀ w : State, (w.showRef n.val).bit pgCLK (CLK_PLL_STAT_LOCKED n.val) =
          w.bit pgCLK (CLK_PLL_STAT_LOCKED n.val) := fun w => by
        unfold State.showRef
        rw [State.wrBit_eq]
        exact w.bit_wr_apart pgCLK _ _ hsound.2.2.1 hsound.1 rfl (.inl (by decide : (0 : Nat) < 2)) _
      exact hx _
    exact he
  · rw [v.setRef_bit n true, Bool.and_true, State.refSensed_of s.fresh v _ hpart hpwr]
    have hx : v.aon.xtal = s.aon.xtal := congrArg Aon.xtal haon
    rw [hx]
    rfl
  · exact (v.setRef_word n true p o ho hn).trans (hword p o ho hn)
  · have ha : (v.setRef n true).act = s.act := (congrArg State.act hr : _ = v.act).trans hact
    have hp : (v.setRef n true).part = s.part := (congrArg State.part hr : _ = v.part).trans hpart
    exact State.actWord_of_act s _ hp ha p o
  · exact s.fresh.rest_setRef v n true hrest
  · rw [hra]
    have hx : v.aon = s.aon := haon
    rw [hx]

theorem State.exec_bypassHold (n : Fin 15) (h : (s.pll n.val).phase = .locking) :
    exec (.bypassHold n) s =
      .next ((s.fresh.setPll n.val { s.pll n.val with phase := .held }).raise pgCLK 5) :=
  congrArg Host.Outcome.next (State.onlyIf_true s.fresh _ _ (beq_iff_eq.mpr h))

theorem State.bypassHold_shows (n : Fin 15) (h : (s.pll n.val).phase = .locking) :
    ∃ t, exec (.bypassHold n) s = .next t ∧ (t.pll n.val).phase = .held ∧ t.Raised pgCLK 5 ∧
      s.SameMem t ∧ s.SameRegs t (evWords pgCLK) := by
  let v := s.fresh.setPll n.val { s.pll n.val with phase := .held }
  have hr := v.raise_clk_raises 5
  refine ⟨_, s.exec_bypassHold n h, ?_, v.raise_clk_raised 5 (by decide), ?_, ?_⟩
  · rw [hr.keeps.pll, s.fresh.setPll_pll n.val n.val n.isLt, if_pos rfl]
  · have hv : s.SameMem v := s.fresh.setPll_keepsMem n.val _
    exact hv.trans hr.keeps.sameMem
  · obtain ⟨-, hregs, hpart⟩ := s.fresh.setPll_rest n.val n.isLt { s.pll n.val with phase := .held }
    have hv : s.SameRegs v (evWords pgCLK) := .of_eq _ hpart hregs (s.fresh.setPll_act n.val _)
    exact (hv.trans hr.keeps.sameRegs).mono fun _ _ h => h.elim id id

/-! ### A reference that goes, and comes back (R60) -/

theorem State.setRef_sameRegs (n : Fin 15) (ok : Bool) : s.SameRegs (s.setRef n ok)
    (fun p o => p = pgCLK ∧ o = (CLK_PLL_STAT_REF_OK n.val).off) := by
  obtain ⟨hr, -⟩ := s.setRef_rest n ok
  refine ⟨fun p o ho h => s.setRef_word n ok p o ho h, fun p o => ?_⟩
  generalize s.setRef n ok = t at hr
  exact State.actWord_of_act s t (congrArg State.part hr :) (congrArg State.act hr :) p o

theorem State.refLoss_back (n : Fin 15) : ∃ t, exec (.refLoss n false) s = .next t ∧
    t.aon.refs.get n = true ∧ t.bit pgCLK (CLK_PLL_STAT_REF_OK n.val) =
      (s.refSensed n.val && (decide (8 ≤ n.val) || s.aon.xtal)) ∧ s.SameMem t ∧
    s.SameRegs t (fun p o => p = pgCLK ∧ o = (CLK_PLL_STAT_REF_OK n.val).off) := by
  obtain ⟨-, haon, -, hmem⟩ := s.fresh.setRef_rest n true
  refine ⟨s.fresh.setRef n true, rfl, ?_, ?_, hmem, s.fresh.setRef_sameRegs n true⟩
  · rw [haon]
    exact (Vector.getElem_set (xs := s.aon.refs) n.isLt n.isLt).trans (if_pos rfl)
  · rw [s.fresh.setRef_bit n true, Bool.and_true]
    rfl

theorem State.exec_refLoss (n : Fin 15) : exec (.refLoss n true) s =
    .next (if s.refSensed n.val && (s.pll n.val).phase != .off then (s.fresh.setRef n false).raise pgCLK 2
      else s.fresh.setRef n false) := rfl

theorem State.refLoss_lost (n : Fin 15) : ∃ t, exec (.refLoss n true) s = .next t ∧
    t.bit pgCLK (CLK_PLL_STAT_REF_OK n.val) = false ∧
    (s.refSensed n.val = true → (s.pll n.val).phase ≠ .off → t.Raised pgCLK 2) ∧ s.SameMem t ∧
    s.SameRegs t (fun p o =>
      (p = pgCLK ∧ o = (CLK_PLL_STAT_REF_OK n.val).off) ∨ evWords pgCLK p o) := by
  obtain ⟨-, -, -, hmem⟩ := s.fresh.setRef_rest n false
  have hregs := s.fresh.setRef_sameRegs n false
  have hbit : (s.fresh.setRef n false).bit pgCLK (CLK_PLL_STAT_REF_OK n.val) = false := by
    rw [s.fresh.setRef_bit n false, Bool.and_false, Bool.false_and]
  have hoff : ¬ evWords pgCLK pgCLK (CLK_PLL_STAT_REF_OK n.val).off := by
    rw [(pllStat_off n.val).2.2.1]
    exact not_evWords _ _ _ (by omega) (by omega)
  have hr := (s.fresh.setRef n false).raise_clk_raises 2
  refine ⟨_, s.exec_refLoss n, ?_⟩
  split
  · refine ⟨?_, fun _ _ => State.raise_clk_raised _ 2 (by decide), hmem.trans hr.keeps.sameMem, ?_⟩
    · rw [hr.keeps.bit _ _ (pllStat_sound n.val n.isLt).2.2.1.2.2 hoff, hbit]
    · exact hregs.trans hr.keeps.sameRegs
  · next h =>
    refine ⟨hbit, fun hs hp => absurd ?_ h, hmem, hregs.mono fun _ _ h => .inl h⟩
    rw [hs, Bool.true_and]
    exact bne_iff_ne.mpr hp

/-! ### A switch-back (R62, R70, R83) -/

/-- A PLL's domains run from it again. -/
def State.switchedBack (s : State) (n : Nat) : State :=
  (s.setPll n { s.pll n with phase := .out }).wr pgCLK (CLK_PLL_STAT_BYPASS n) 0

theorem State.switchedBack_pll (n m : Nat) (hn : n < 15) : (s.switchedBack n).pll m =
    if m = n then { s.pll n with phase := .out } else s.pll m :=
  (State.pll_of_plls (s := s.setPll n _) (t := s.switchedBack n) rfl m).trans (s.setPll_pll n m hn _)

theorem State.switchedBack_bypass (n : Nat) (hn : n < 15) :
    (s.switchedBack n).bit pgCLK (CLK_PLL_STAT_BYPASS n) = false :=
  State.bit_wrBit _ pgCLK _ (pllStat_sound n hn).2.1 false

theorem State.switchedBack_clocks (n : Nat) (hn : n < 15) : s.Clocks (s.switchedBack n) :=
  (s.setPll_clocks n _).trans (State.wr_clocks _ _ (pllStat_sound n hn).2.1 0)

theorem State.domainClocked_reacts (d : Fin 7) : s.Reacts (s.domainClocked d) := by
  unfold State.domainClocked
  split
  · exact (s.domainUp_reacts d).trans (State.react_reacts _)
  · exact .refl s

/-- CLOCKS ends once PLL_SYS and PLL_SDL run. -/
def State.clocksEnd (s : State) : State :=
  if s.stage = 1 ∧ (s.pll 0).phase = .out ∧ (s.pll 1).phase = .out then s.setStage 2 else s

theorem State.exec_switchBack (n : Fin 15) (h : (s.pll n.val).phase = .locked) (hc : clusterOf n.val = none) :
    exec (.pllSwitchBack n) s = .next ((((s.fresh.switchedBack n.val).relockDone n.val).domainClocked
      (pllDom n.val).num).clocksEnd) := by
  have he : exec (.pllSwitchBack n) s = .next (((match clusterOf n.val with
      | some c => (s.fresh.switchedBack n.val).relockOut c false
      | none => s.fresh.switchedBack n.val).relockDone n.val).domainClocked (pllDom n.val).num).clocksEnd :=
    congrArg Host.Outcome.next (State.onlyIf_true s.fresh _ _ (beq_iff_eq.mpr h))
  rw [he, hc]

theorem not_reactWord_clk (part : Part) (o : Nat) : ¬ reactWord part pgCLK o :=
  not_reactWord _ _ _ (by decide) (by decide) (by cases part <;> decide)

theorem not_reactWord_top (part : Part) (o : Nat) : ¬ reactWord part pgTOP o :=
  not_reactWord _ _ _ (by decide) (by decide) (by rw [(kindOf_boot _).1]; decide)

theorem State.switchBack_shows (n : Fin 15) (h : (s.pll n.val).phase = .locked)
    (hc : clusterOf n.val = none) (hb : (s.pll n.val).byCmd = false) (h7 : s.stage = 7) :
    ∃ t, exec (.pllSwitchBack n) s = .next t ∧ (t.pll n.val).phase = .out ∧
      t.bit pgCLK (CLK_PLL_STAT_BYPASS n.val) = false := by
  let v := s.fresh.switchedBack n.val
  have hpll : v.pll n.val = { s.pll n.val with phase := .out } :=
    (s.fresh.switchedBack_pll n.val n.val n.isLt).trans (if_pos rfl)
  have hdone : v.relockDone n.val = v := if_neg (by rw [hpll, hb]; decide)
  have hr := v.domainClocked_reacts (pllDom n.val).num
  have hstage : (v.domainClocked (pllDom n.val).num).stage = 7 :=
    (State.stage_of_word (hr.word pgTOP 0x080 (by decide) (not_reactWord_top _ _))).trans
      ((s.fresh.switchedBack_clocks n.val n.isLt).stage.trans h7)
  have hend : (v.domainClocked (pllDom n.val).num).clocksEnd = v.domainClocked (pllDom n.val).num :=
    if_neg (by rw [hstage]; exact fun h => absurd h.1 (by decide))
  have he := s.exec_switchBack n h hc
  rw [hdone, hend] at he
  refine ⟨_, he, ?_, ?_⟩
  · rw [State.pll_of_plls hr.plls, hpll]
  · rw [hr.bit pgCLK _ (pllStat_sound n.val n.isLt).2.1.2.2 (not_reactWord_clk _ _)]
    exact s.fresh.switchedBack_bypass n.val n.isLt

/-- The completion of a RELOCK leaves stage and phases. -/
theorem State.relockDone_keeps (n : Nat) (hn : n < 15) : (s.relockDone n).stage = s.stage ∧
    ∀ m, ((s.relockDone n).pll m).phase = (s.pll m).phase := by
  unfold State.relockDone
  split
  · let v := s.setPll n { s.pll n with byCmd := false }
    have hv : ∀ m, (v.pll m).phase = (s.pll m).phase := fun m => s.setPll_field Pll.phase n m hn _ rfl
    have hvs : v.stage = s.stage := State.stage_of_word (s.setPll_word n hn _ _ _)
    have hr := (v.setBusy pgCLK false).raise_clk_raises 1
    have hbusy : (v.setBusy pgCLK false).stage = v.stage := by
      rw [State.setBusy_eq]
      exact State.stage_of_word (State.word_wr_ne _ _ _ _ _ (by decide) (by decide) (.inl (by decide)) _)
    refine ⟨?_, fun m => ?_⟩
    · rw [State.stage_of_word (hr.word pgTOP 0x080 (by decide) (not_evWords _ _ _ (by decide) (by decide))),
        hbusy, hvs]
    · rw [hr.keeps.pll]
      exact hv m
  · exact ⟨rfl, fun _ => rfl⟩

/-- The second of PLL_SYS and PLL_SDL ends CLOCKS. -/
theorem State.switchBack_ends (h0 : (s.pll 0).phase = .locked) (h1 : (s.pll 1).phase = .out)
    (hs : s.stage = 1) : ∃ t, exec (.pllSwitchBack 0) s = .next t ∧ t.stage = 2 := by
  let v := s.fresh.switchedBack 0
  let w := v.relockDone 0
  let x := w.domainClocked (pllDom 0).num
  obtain ⟨hst, hph⟩ := v.relockDone_keeps 0 (by decide)
  have hr : w.Reacts x := w.domainClocked_reacts _
  have hpll : ∀ m, v.pll m = if m = 0 then { s.pll 0 with phase := .out } else s.pll m :=
    fun m => s.fresh.switchedBack_pll 0 m (by decide)
  have hx : ∀ m, (x.pll m).phase = (v.pll m).phase := fun m => by
    rw [State.pll_of_plls hr.plls]; exact hph m
  have hstage : x.stage = 1 := by
    rw [State.stage_of_word (hr.word pgTOP 0x080 (by decide) (not_reactWord_top _ _)), hst,
      (s.fresh.switchedBack_clocks 0 (by decide)).stage]
    exact hs
  have hend : x.clocksEnd = x.setStage 2 := if_pos ⟨hstage, by rw [hx, hpll]; rfl, by rw [hx, hpll]; exact h1⟩
  refine ⟨x.setStage 2, ?_, x.setStage_stage 2 (by decide)⟩
  exact (s.exec_switchBack 0 h0 rfl).trans (congrArg _ hend)

/-! ### A loss of lock, and a measured frequency (R64) -/

theorem evWords_pllStat (n : Nat) : ¬ evWords pgCLK pgCLK (0x104 + 16 * n) ∧
    ¬ evWords pgCLK pgCLK (0x108 + 16 * n) :=
  ⟨not_evWords _ _ _ (by omega) (by omega), not_evWords _ _ _ (by omega) (by omega)⟩

/-- Lock is lost: `LOCKED` clears, and the loss counts. -/
def State.lockLost (s : State) (n : Nat) : State :=
  (s.wr pgCLK (CLK_PLL_STAT_LOCKED n) 0).incSat pgCLK (CLK_PLL_STAT_UNLOCKS n)

theorem State.lockLost_shows (n : Nat) (hn : n < 15) :
    (s.lockLost n).rd pgCLK (CLK_PLL_STAT_LOCKED n) = 0 ∧
      (s.lockLost n).rd pgCLK (CLK_PLL_STAT_UNLOCKS n) =
        min (s.rd pgCLK (CLK_PLL_STAT_UNLOCKS n) + 1) 255 ∧ s.SameMem (s.lockLost n) := by
  have hs := pllStat_sound n hn
  have hsat : (CLK_PLL_STAT_UNLOCKS n).width = 8 := rfl
  unfold State.lockLost
  rw [State.incSat_eq, State.addSat_eq]
  refine ⟨?_, ?_, .of_eq rfl rfl rfl⟩
  · rw [State.rd_wr_apart _ _ _ _ hs.2.2.2.1 hs.1 rfl (.inl (by decide : (0 : Nat) < 8)), State.rd_wr _ _ _ hs.1]
    exact Nat.zero_mod _
  · rw [State.rd_wr _ _ _ hs.2.2.2.1,
      State.rd_wr_apart _ _ _ _ hs.1 hs.2.2.2.1 rfl (.inr (by decide : (0 : Nat) < 8)), hsat]
    exact Nat.mod_eq_of_lt (by omega)

theorem State.exec_pllUnlock (n : Fin 15) (h : (s.pll n.val).phase = .locked ∨ (s.pll n.val).phase = .out) :
    exec (.pllUnlock n) s = .next ((s.fresh.lockLost n.val).pllLost n.val) := by
  have hc : ((s.pll n.val).phase == .locked || (s.pll n.val).phase == .out) = true := by
    rcases h with h | h <;> rw [h] <;> rfl
  exact congrArg Host.Outcome.next (State.onlyIf_true s.fresh _ _ hc)

/-- What a PLL that lost lock brings about keeps its fields, and raises the event. -/
theorem State.pllLost_shows (n : Nat) (hn : n < 15) (h0 : s.rd pgCLK (CLK_PLL_STAT_LOCKED n) = 0) :
    (s.pllLost n).rd pgCLK (CLK_PLL_STAT_LOCKED n) = 0 ∧
      (s.pllLost n).rd pgCLK (CLK_PLL_STAT_UNLOCKS n) = s.rd pgCLK (CLK_PLL_STAT_UNLOCKS n) ∧
      s.SameMem (s.pllLost n) ∧ (s.pllLost n).Raised pgCLK 0 ∧
      (pllFatal n = true → (s.pllLost n).aon.rstPending = true ∧
        (s.pllLost n).bit pgTOP TOP_RESET_CAUSE_PLL_FAULT = true) := by
  have hs := pllStat_sound n hn
  by_cases hf : pllFatal n = true
  · have he : s.pllLost n = (s.raise pgCLK 0).trigger TOP_RESET_CAUSE_PLL_FAULT := if_pos hf
    have hr := s.raise_clk_raises 0
    obtain ⟨haon, hcause, hmem⟩ := (s.raise pgCLK 0).trigger_pends TOP_RESET_CAUSE_PLL_FAULT (by decide) rfl
    have hrd : ∀ f : Fld, f.Sound → f.off = 0x104 + 16 * n →
        ((s.raise pgCLK 0).trigger TOP_RESET_CAUSE_PLL_FAULT).rd pgCLK f = s.rd pgCLK f := fun f hfs ho =>
      (State.rd_wr_ne _ pgTOP pgCLK TOP_RESET_CAUSE_PLL_FAULT f (by decide) hfs (.inl (by decide)) 1).trans
        (hr.keeps.rd _ _ hfs.2.2 (by rw [ho]; exact (evWords_pllStat n).1))
    rw [he]
    exact ⟨(hrd _ hs.1 rfl).trans h0, hrd _ hs.2.2.2.1 rfl, hr.keeps.sameMem.trans hmem,
      State.wr_raised _ pgTOP 1 pgCLK 0 TOP_RESET_CAUSE_PLL_FAULT (by decide) (by decide)
        (s.raise_clk_raised 0 (by decide)),
      fun _ => ⟨congrArg Aon.rstPending haon, hcause⟩⟩
  · have he : s.pllLost n = (s.relockPll n).raise pgCLK 0 := if_neg hf
    have hk := s.relockPll_relocks n hn
    have hr := (s.relockPll n).raise_clk_raises 0
    rw [he]
    refine ⟨?_, ?_, hk.mem.trans hr.keeps.sameMem, State.raise_clk_raised _ 0 (by decide), fun h => absurd h hf⟩
    · rw [hr.keeps.rd _ _ hs.1.2.2 (evWords_pllStat n).1, hk.unlocked n hn h0]
    · rw [hr.keeps.rd _ _ hs.2.2.2.1.2.2 (evWords_pllStat n).1, hk.unlocks n hn]

theorem State.pllUnlock_shows (n : Fin 15)
    (h : (s.pll n.val).phase = .locked ∨ (s.pll n.val).phase = .out) :
    ∃ t, exec (.pllUnlock n) s = .next t ∧ t.bit pgCLK (CLK_PLL_STAT_LOCKED n.val) = false ∧
      t.rd pgCLK (CLK_PLL_STAT_UNLOCKS n.val) = min (s.rd pgCLK (CLK_PLL_STAT_UNLOCKS n.val) + 1) 255 ∧
      s.SameMem t ∧ t.Raised pgCLK 0 ∧
      (pllFatal n.val = true → t.aon.rstPending = true ∧ t.bit pgTOP TOP_RESET_CAUSE_PLL_FAULT = true) := by
  obtain ⟨hl, hu, hm⟩ := s.fresh.lockLost_shows n.val n.isLt
  obtain ⟨hl', hu', hm', hr, hf⟩ := (s.fresh.lockLost n.val).pllLost_shows n.val n.isLt hl
  exact ⟨_, s.exec_pllUnlock n h, decide_eq_false (fun hne => hne hl'), hu'.trans hu, hm.trans hm', hr, hf⟩

/-- A frequency as it is measured. -/
def State.measured (s : State) (n : Nat) (khz : Word) : State := s.wr pgCLK (CLK_PLL_FREQ_KHZ n) khz.toNat

/-- A measurement, with the value that the folly 1 makes of it where it hits (R64, R380). -/
def State.freqJudged (s : State) (n : Nat) (khz : Word) (hit : Bool) : State :=
  let v := if hit then khz.toNat * 101 / 100 else khz.toNat
  let t := (if hit then s.inject pgCLK else s).wr pgCLK (CLK_PLL_FREQ_KHZ n) v
  let want := pllKhz n (s.pll n).target
  if s.bit pgCLK (CLK_PLL_STAT_LOCKED n) && (s.pll n).phase != .off &&
      decide (want < 200 * (max v want - min v want)) then (t.raise pgCLK 3).pllFails n
  else t

theorem State.freqJudged_clean (n : Nat) (khz : Word) : s.freqJudged n khz false = s.measured n khz ∨
    s.freqJudged n khz false = ((s.measured n khz).raise pgCLK 3).pllFails n := by
  unfold State.freqJudged
  simp only [Bool.false_eq_true, if_false]
  split
  · exact .inr rfl
  · exact .inl rfl

theorem State.exec_freqMeasure (n : Fin 15) (khz : Word) (hx : s.aon.xtal = true)
    (hf : s.follyOn pgCLK 1 = false) :
    exec (.freqMeasure n khz) s = .next (s.fresh.freqJudged n.val khz false) := by
  have he : exec (.freqMeasure n khz) s = .next (s.fresh.freqJudged n.val khz
      (s.fresh.follyOn pgCLK 1 && s.fresh.follyParam pgCLK == n.val)) :=
    congrArg Host.Outcome.next (State.onlyIf_true s.fresh _ _ hx)
  have hf' : s.fresh.follyOn pgCLK 1 = false := hf
  rw [he, hf', Bool.false_and]

theorem State.freqMeasure_shows (n : Fin 15) (khz : Word) (hx : s.aon.xtal = true)
    (hf : s.follyOn pgCLK 1 = false) : ∃ t, exec (.freqMeasure n khz) s = .next t ∧
      t.rd pgCLK (CLK_PLL_FREQ_KHZ n.val) = khz.toNat % 2 ^ (CLK_PLL_FREQ_KHZ n.val).width := by
  let v := s.fresh.measured n.val khz
  have hs := (pllStat_sound n.val n.isLt).2.2.2.2
  have hv : v.rd pgCLK (CLK_PLL_FREQ_KHZ n.val) = khz.toNat % 2 ^ (CLK_PLL_FREQ_KHZ n.val).width :=
    State.rd_wr _ _ _ hs _
  have hraise : ∀ (w : State) (b : Nat), (w.raise pgCLK b).rd pgCLK (CLK_PLL_FREQ_KHZ n.val) =
      w.rd pgCLK (CLK_PLL_FREQ_KHZ n.val) := fun w b =>
    (w.raise_clk_raises b).keeps.rd _ _ hs.2.2 (evWords_pllStat n.val).2
  refine ⟨_, s.exec_freqMeasure n khz hx hf, ?_⟩
  rcases s.fresh.freqJudged_clean n.val khz with he | he
  · rw [he]; exact hv
  · rw [he]
    unfold State.pllFails
    split
    · exact (State.rd_wr_ne _ pgTOP pgCLK TOP_RESET_CAUSE_PLL_FAULT _ (by decide) hs (.inl (by decide)) 1).trans
        ((hraise v 3).trans hv)
    · rw [hraise]
      have hk := ((v.raise pgCLK 3).relockPll_relocks n.val n.isLt).word (CLK_PLL_FREQ_KHZ n.val).off hs.2.2
        fun m _ => by rw [(pllStat_off n.val).2.2.2.2]; omega
      exact (congrArg (CLK_PLL_FREQ_KHZ n.val).get hk).trans ((hraise v 3).trans hv)

end Sys2Proof.Machine
end

section
/-! PROOFS. RELOCK, and the statement on clocking (R58, R61). -/

namespace Sys2Proof.Machine

variable (s : State)

/-! ### RELOCK (R58, R61) -/

theorem State.reached_relockPermitted (r : Req) (page n : Nat) :
    (s.reached r page).relockPermitted n = s.relockPermitted n := by
  unfold State.relockPermitted
  simp only [State.reached_bit]

theorem State.taken_plls (r : Req) (page code : Nat) : (s.taken r page code).plls = s.plls := by
  obtain ⟨x, h⟩ := s.reached_eq r page
  unfold State.taken
  rw [State.setResult_plls, h]

theorem State.taken_sameMem (r : Req) (page code : Nat) : s.SameMem (s.taken r page code) :=
  (s.reached_sameMem r page).trans (.of_eq (by simp [State.taken]) (by simp [State.taken]) (by simp [State.taken]))

theorem State.taken_rd (r : Req) (page code p : Nat) (f : Fld) : (s.taken r page code).rd p f = s.rd p f := by
  unfold State.taken
  rw [State.setResult_rd, State.reached_rd]

/-- The causes that refuse RELOCK, and what it does. -/
def relockCauses (n : Nat) (t : State) : List (Bool × Nat) :=
  [(decide (15 ≤ n) || !targetAllowed n (t.rd pgCLK (CLK_PLL_CFG_TARGET n)), rcBAD_ARG),
   (!t.relockPermitted n, rcWRONG_STATE)]

def State.relockEffect (t : State) (n : Nat) : State :=
  let v := t.rd pgCLK (CLK_PLL_CFG_TARGET n)
  if (t.pll n).phase = .off then (t.setPll n { t.pll n with target := v, next := v }).raise pgCLK 1
  else ((t.setPll n { t.pll n with next := v, byCmd := true }).setBusy pgCLK true).relockPll n

theorem State.exec_relock (r : Req) (arg : BitVec 16) : exec (.relock r arg) s =
    .next (command r pgCLK 0x0001 arg false false (relockCauses arg.toNat) (·.relockEffect arg.toNat) s.fresh) := rfl

/-- RELOCK of a page that takes commands, where its own causes give a code. -/
theorem State.relock_refused (r : Req) (arg : BitVec 16) (n : Nat) (h : s.Takes r pgCLK) (hn : n ≠ 0)
    (hc : firstCause (relockCauses arg.toNat (s.reached r pgCLK)) = n) :
    exec (.relock r arg) s = .next ((s.reached r pgCLK).refuse r pgCLK 0x01C 1 n) := by
  rw [s.exec_relock r arg, command, State.access_fresh_open _ _ _ _ _ h.reach,
    State.judge_refuses _ _ _ _ _ _ _ _ _ n hn]
  rw [← hc]
  simp [firstCause, h.idle, h.live]

theorem State.relock_badArg (r : Req) (arg : BitVec 16) (h : s.Takes r pgCLK)
    (hb : 15 ≤ arg.toNat ∨ targetAllowed arg.toNat (s.rd pgCLK (CLK_PLL_CFG_TARGET arg.toNat)) = false) :
    exec (.relock r arg) s = .next ((s.reached r pgCLK).refuse r pgCLK 0x01C 1 rcBAD_ARG) := by
  refine s.relock_refused r arg _ h (by decide) (if_pos ?_)
  rw [State.reached_rd]
  rcases hb with hb | hb <;> simp [hb]

theorem State.relock_wrongState (r : Req) (arg : BitVec 16) (h : s.Takes r pgCLK) (hn : arg.toNat < 15)
    (ht : targetAllowed arg.toNat (s.rd pgCLK (CLK_PLL_CFG_TARGET arg.toNat)) = true)
    (hp : s.relockPermitted arg.toNat = false) :
    exec (.relock r arg) s = .next ((s.reached r pgCLK).refuse r pgCLK 0x01C 1 rcWRONG_STATE) := by
  refine s.relock_refused r arg _ h (by decide) ((if_neg ?_).trans (if_pos ?_))
  · rw [State.reached_rd, ht]; simpa using hn
  · rw [State.reached_relockPermitted, hp]; rfl

theorem State.relock_accepted (r : Req) (arg : BitVec 16) (h : s.Takes r pgCLK) (hn : arg.toNat < 15)
    (ht : targetAllowed arg.toNat (s.rd pgCLK (CLK_PLL_CFG_TARGET arg.toNat)) = true)
    (hp : s.relockPermitted arg.toNat = true) :
    exec (.relock r arg) s = .next ((s.taken r pgCLK 1).relockEffect arg.toNat) := by
  rw [s.exec_relock r arg, command_accepts _ _ _ _ _ _ _ _ _ h.reach h.idle (.inr h.live) (by simp)]
  intro c hc
  simp only [relockCauses, List.mem_cons, List.not_mem_nil, or_false] at hc
  rcases hc with rfl | rfl
  · rw [State.reached_rd, ht]; simpa using hn
  · rw [State.reached_relockPermitted, hp]; rfl

/-- A PLL that does not run takes its target. -/
theorem State.relockEffect_off (n : Nat) (hn : n < 15) (h : (s.pll n).phase = .off) :
    let v := s.rd pgCLK (CLK_PLL_CFG_TARGET n)
    ((s.relockEffect n).pll n).next = v ∧ ((s.relockEffect n).pll n).target = v ∧
      ((s.relockEffect n).pll n).phase = .off ∧ (s.relockEffect n).Raised pgCLK 1 ∧
      s.SameMem (s.relockEffect n) := by
  intro v
  let w := s.setPll n { s.pll n with target := v, next := v }
  have he : s.relockEffect n = w.raise pgCLK 1 := if_pos h
  have hr := w.raise_clk_raises 1
  have hpll : (w.raise pgCLK 1).pll n = { s.pll n with target := v, next := v } := by
    rw [hr.keeps.pll, s.setPll_pll n n hn, if_pos rfl]
  rw [he, hpll]
  exact ⟨rfl, rfl, h, w.raise_clk_raised 1 (by decide), (s.setPll_keepsMem n _).trans hr.keeps.sameMem⟩

/-- A PLL that runs takes its next target, and the command stays busy. -/
theorem State.relockEffect_on (n : Nat) (hn : n < 15) (h : (s.pll n).phase ≠ .off) :
    ((s.relockEffect n).pll n).next = s.rd pgCLK (CLK_PLL_CFG_TARGET n) ∧
      ((s.relockEffect n).pll n).byCmd = true ∧
      (s.relockEffect n).bit pgCLK UNIT_STATUS_CMD_BUSY = true ∧ s.SameMem (s.relockEffect n) := by
  let w := s.setPll n { s.pll n with next := s.rd pgCLK (CLK_PLL_CFG_TARGET n), byCmd := true }
  let u := w.setBusy pgCLK true
  have he : s.relockEffect n = u.relockPll n := if_neg h
  have hk := u.relockPll_relocks n hn
  have hpll : u.pll n = { s.pll n with next := s.rd pgCLK (CLK_PLL_CFG_TARGET n), byCmd := true } :=
    (State.pll_of_plls (s := w) (t := u) rfl n).trans ((s.setPll_pll n n hn _).trans (if_pos rfl))
  have hbusy : u.bit pgCLK UNIT_STATUS_CMD_BUSY = true := w.bit_wrBit _ _ (by decide) true
  have hmem : s.SameMem u := (s.setPll_keepsMem n _).trans (.of_eq rfl rfl rfl)
  rw [he]
  refine ⟨?_, ?_, ?_, hmem.trans hk.mem⟩
  · rw [hk.next n, hpll]
  · rw [hk.byCmd n, hpll]
  · rw [State.bit_of_word pgCLK UNIT_STATUS_CMD_BUSY (hk.word _ (by decide) fun m _ => by
      simp only [UNIT_STATUS_CMD_BUSY]; omega), hbusy]

theorem State.relock_shows (r : Req) (arg : BitVec 16) (h : s.Takes r pgCLK) (hn : arg.toNat < 15)
    (ht : targetAllowed arg.toNat (s.rd pgCLK (CLK_PLL_CFG_TARGET arg.toNat)) = true)
    (hp : s.relockPermitted arg.toNat = true) :
    ∃ t, exec (.relock r arg) s = .next t ∧
      (t.pll arg.toNat).next = s.rd pgCLK (CLK_PLL_CFG_TARGET arg.toNat) ∧ s.SameMem t ∧
      ((s.pll arg.toNat).phase = .off →
        (t.pll arg.toNat).target = s.rd pgCLK (CLK_PLL_CFG_TARGET arg.toNat) ∧
          (t.pll arg.toNat).phase = .off ∧ t.Raised pgCLK 1) ∧
      ((s.pll arg.toNat).phase ≠ .off → (t.pll arg.toNat).byCmd = true ∧
        t.bit pgCLK UNIT_STATUS_CMD_BUSY = true) := by
  let v := s.taken r pgCLK 1
  have hm := s.taken_sameMem r pgCLK 1
  have hv : v.rd pgCLK (CLK_PLL_CFG_TARGET arg.toNat) = s.rd pgCLK (CLK_PLL_CFG_TARGET arg.toNat) :=
    s.taken_rd r pgCLK 1 pgCLK _
  have hpll : v.pll arg.toNat = s.pll arg.toNat := State.pll_of_plls (s.taken_plls r pgCLK 1) _
  refine ⟨_, s.relock_accepted r arg h hn ht hp, ?_⟩
  rw [← hv, ← hpll]
  by_cases h0 : (v.pll arg.toNat).phase = .off
  · obtain ⟨hnext, htarget, hphase, hraised, hmem⟩ := v.relockEffect_off arg.toNat hn h0
    exact ⟨hnext, hm.trans hmem, fun _ => ⟨htarget, hphase, hraised⟩, fun hne => absurd h0 hne⟩
  · obtain ⟨hnext, hby, hbusy, hmem⟩ := v.relockEffect_on arg.toNat hn h0
    exact ⟨hnext, hm.trans hmem, fun he => absurd he h0, fun _ => ⟨hby, hbusy⟩⟩

/-- Settles O22: rails, crystal and PLLs event by event, then RELOCK by what it is refused for. -/
theorem clocking : Obligations.Clocking :=
  ⟨fun s => ⟨s.railGood_noted, s.railGood_last, s.xtalQualified_shows, s.xtalStop_shows⟩,
    fun s n => ⟨fun h => ⟨s.pllLock_shows n h, s.bypassHold_shows n h⟩, s.switchBack_shows n,
      s.switchBack_ends, s.refLoss_back n, s.refLoss_lost n, s.pllUnlock_shows n, s.freqMeasure_shows n⟩,
    fun s r arg h => ⟨s.relock_badArg r arg h, s.relock_wrongState r arg h, s.relock_shows r arg h⟩⟩

end Sys2Proof.Machine
end

section
/-! SUPPORT. Roles of the two ports: what a change of the active port shows and leaves (R310-R315). -/

namespace Sys2Proof.Machine

variable {s t u : State}

/-! ### The ports' pages -/

theorem pgNET_other (p : Fin 2) : pgNET (otherPort p).val ≠ pgNET p.val := by
  fin_cases p <;> decide

theorem pgNET_ne_root (p : Nat) : pgNET p ≠ pgNETroot := by unfold pgNET pgNETroot; omega

theorem pgNET_ne_bst (p : Nat) : pgNET p ≠ pgBST := by unfold pgNET pgBST; omega

theorem pgNET_ne_gbk (p : Nat) : pgNET p ≠ pgGBK := by unfold pgNET pgGBK; omega

theorem not_evWords_net (p o : Nat) : ¬ evWords pgGBK (pgNET p) o := fun h =>
  pgNET_ne_gbk p (h.elim And.left And.left)

theorem not_evWords_root (o : Nat) : ¬ evWords pgGBK pgNETroot o := fun h =>
  absurd (h.elim And.left And.left) (by decide)

theorem evNum_net (part : Part) (p : Fin 2) (b : Nat) (hb : b < 4) :
    evNum part (pgNET p.val) b = some (618 + 4 * p.val + b) := by
  have h : unitOf part (pgNET p.val) = some (.net, p.val) := by cases part <;> fin_cases p <;> rfl
  unfold evNum
  rw [h]
  exact if_pos hb

theorem State.raise_net_raised (s : State) (p : Fin 2) (b : Nat) (hb : b < 4) :
    (s.raise (pgNET p.val) b).Raised (pgNET p.val) b := by
  refine s.raise_raised _ b _ (evNum_net _ p b hb) (by omega) (s.clamped_of_kind _ .net ?_ rfl)
  unfold State.kind
  cases s.part <;> fin_cases p <;> rfl

theorem State.raised_of_wordAt (p b : Nat) (h : t.word p 0x014 = s.word p 0x014) (hr : s.Raised p b) :
    t.Raised p b := by
  unfold State.Raised at *; rw [h]; exact hr

theorem State.portState_of_word (p : Nat) (h : t.word (pgNET p) 0x010 = s.word (pgNET p) 0x010) :
    t.portState p = s.portState p := congrArg UNIT_STATUS_STATE.get h

theorem State.idleState_of_words (p : Fin 2) (hc : t.word (pgNET p.val) 0x00C = s.word (pgNET p.val) 0x00C)
    (hs : t.bit (pgNET p.val) NET_STATUS_PCS_UP = s.bit (pgNET p.val) NET_STATUS_PCS_UP) :
    t.idleState p = s.idleState p := by
  have hen : t.bit (pgNET p.val) UNIT_CTRL_ENABLE = s.bit (pgNET p.val) UNIT_CTRL_ENABLE :=
    State.bit_of_word _ UNIT_CTRL_ENABLE hc
  unfold State.idleState
  rw [hen, hs]

theorem State.idleState_le (s : State) (p : Fin 2) : s.idleState p < 256 := by
  unfold State.idleState
  split
  · decide
  · split <;> decide

variable (s)

theorem State.setState_portState (p : Fin 2) (code : Nat) (h : code < 256) :
    (s.setState (pgNET p.val) code).portState p.val = code :=
  (State.rd_wr s _ UNIT_STATUS_STATE (by decide) code).trans (Nat.mod_eq_of_lt h)

theorem State.setState_pcsUp (p q : Fin 2) (code : Nat) :
    (s.setState (pgNET p.val) code).bit (pgNET q.val) NET_STATUS_PCS_UP =
      s.bit (pgNET q.val) NET_STATUS_PCS_UP := by
  by_cases h : q = p
  · subst h
    exact s.bit_wr_apart _ UNIT_STATUS_STATE NET_STATUS_PCS_UP (by decide) (by decide) rfl (by decide) code
  · refine s.bit_wr_ne _ _ UNIT_STATUS_STATE NET_STATUS_PCS_UP (by decide) (by decide) (.inl fun e => h ?_) code
    exact Fin.ext (Nat.add_left_cancel e)

/-! ### Frames of the device's own, and holes (R312) -/

/-- The counters of frames sent. -/
def sentWord (p o : Nat) : Prop := (p = pgNET 0 ∨ p = pgNET 1) ∧ (o = 0x06C ∨ o = 0x070)

theorem State.rd_active_lt : s.rd pgNETroot NET_PATH_STAT_ACTIVE < 2 := by
  unfold State.rd Fld.get getBits
  exact Nat.mod_lt _ (by decide)

theorem State.ownSent_keeps (p n : Nat) (hp : p < 2) : s.Keeps (s.ownSent p n) sentWord := by
  have hpg : pgNET p = pgNET 0 ∨ pgNET p = pgNET 1 := by interval_cases p <;> simp
  unfold State.ownSent
  rw [State.add2_eq, State.wr2_eq]
  exact (s.wr_keeps _ _ NET_TX_FRAMES_LO_N (by decide) ⟨hpg, .inl rfl⟩).trans
    (State.wr_keeps _ _ _ NET_TX_FRAMES_HI_N (by decide) ⟨hpg, .inr rfl⟩)

theorem State.sendAck_keeps (i : Fin 4) : s.Keeps (s.sendAck i) sentWord := by
  unfold State.sendAck State.sendDatagram
  dsimp only
  split
  · split
    · next p hp =>
      have hlt : p < 2 := by
        unfold State.activePort at hp
        split at hp
        · cases hp
        · cases hp; exact s.rd_active_lt
      exact (s.ownSent_keeps p 1 hlt).trans (State.emit_raises _ _).keeps
    · exact .refl s _
  · exact .refl s _

theorem State.updStm_keeps {but : Nat → Nat → Prop} (i : Fin 4) (g : Stream → Stream) :
    s.Keeps (s.updStm i g) but :=
  .of_regs _ ⟨rfl, rfl, rfl, rfl, rfl, rfl, rfl, rfl, rfl⟩ rfl

theorem State.announced_keeps (p : Fin 2) :
    s.Keeps (([0, 1, 2, 3] : List (Fin 4)).foldl (fun t i => t.sendAck i) (s.announce p)).restartHoles sentWord :=
  (((s.ownSent_keeps p.val _ p.isLt).trans (State.emit_raises _ _).keeps).trans
    (.foldl _ _ (fun t i _ => t.sendAck_keeps i) _)).trans (.foldl _ _ (fun t i _ => t.updStm_keeps i _) _)

/-! ### The BIST controller makes way (R378) -/

def bstWord (p _o : Nat) : Prop := p = pgBST

theorem State.setBist_keeps (g : Bist → Bist) : s.Keeps (s.setBist g) bstWord :=
  .of_regs _ ⟨rfl, rfl, rfl, rfl, rfl, rfl, rfl, rfl, rfl⟩ rfl

theorem State.wr_bst (v : Nat) (f : Fld) (hf : f.Sound) : s.Keeps (s.wr pgBST f v) bstWord :=
  s.wr_keeps pgBST v f hf rfl

theorem State.rotated_keeps : s.Keeps s.rotated bstWord := by
  unfold State.rotated
  simp only [State.incSat_eq, State.addSat_eq]
  exact ((((s.wr_bst _ BST_ROT_LAST_MS (by decide)).trans (State.wr_bst _ _ BST_ROT_COUNT_N (by decide))).trans
    (State.wr_bst _ _ BST_STAT_LATE (by decide))).trans (State.wr_bst _ _ BST_POS_NEXT (by decide))).trans
    (State.setBist_keeps _ _)

theorem State.stopPortSlice_keeps (p : Nat) : s.Keeps (s.stopPortSlice p) bstWord := by
  have hpast : ∀ (u : State) i, u.Keeps (u.slicePast i) bstWord := fun u i => by
    unfold State.slicePast
    split
    · exact u.wr_bst _ _ (by decide)
    · exact u.rotated_keeps
  unfold State.stopPortSlice
  split
  · exact .refl s _
  · split
    · unfold State.sliceOver
      dsimp only
      split
      · exact (s.setBist_keeps _).trans (State.setBist_keeps _ _)
      · exact (s.setBist_keeps _).trans (hpast _ _)
    · exact .refl s _

/-! ### A port takes the role (R310, R312) -/

/-- The words that a port's taking the role may change. -/
def roleWord (p : Fin 2) (q o : Nat) : Prop :=
  (q = pgNETroot ∧ (o = 0x068 ∨ o = 0x06C)) ∨ (q = pgNET p.val ∧ (o = 0x010 ∨ o = 0x014)) ∨
    sentWord q o ∨ bstWord q o ∨ evWords pgGBK q o

/-- What a new active port shows, with no word changed but those that `but` names. -/
structure State.HasRole (s t : State) (p : Fin 2) (but : Nat → Nat → Prop) : Prop where
  keeps : s.Keeps t but
  active : t.activeIs p.val = true
  shown : t.portState p.val = 3
  raised : t.Raised (pgNET p.val) 2
  counted : t.rd pgNETroot NET_SWITCHES_N = min (s.rd pgNETroot NET_SWITCHES_N + 1) (2 ^ 32 - 1)

variable {s}

theorem State.activeIs_of_word (p : Nat) (h : t.word pgNETroot 0x068 = s.word pgNETroot 0x068) :
    t.activeIs p = s.activeIs p := by
  have hn : t.bit pgNETroot NET_PATH_STAT_NO_PATH = s.bit pgNETroot NET_PATH_STAT_NO_PATH :=
    State.bit_of_word _ NET_PATH_STAT_NO_PATH h
  have ha : t.rd pgNETroot NET_PATH_STAT_ACTIVE = s.rd pgNETroot NET_PATH_STAT_ACTIVE :=
    congrArg NET_PATH_STAT_ACTIVE.get h
  unfold State.activeIs
  rw [hn, ha]

/-- What keeps the role's words keeps the role. -/
theorem State.HasRole.keep {but but' : Nat → Nat → Prop} {p : Fin 2} (h : s.HasRole t p but)
    (hk : t.Keeps u but') (hb : ∀ q o, but' q o → but q o) (hr : ∀ o, ¬ but' pgNETroot o)
    (hn : ∀ o, o = 0x010 ∨ o = 0x014 → ¬ but' (pgNET p.val) o) : s.HasRole u p but where
  keeps := h.keeps.trans (hk.mono hb)
  active := (State.activeIs_of_word _ (hk.word _ _ (by decide) (hr _))).trans h.active
  shown := (State.portState_of_word _ (hk.word _ _ (by decide) (hn _ (.inl rfl)))).trans h.shown
  raised := State.raised_of_wordAt _ _ (hk.word _ _ (by decide) (hn _ (.inr rfl))) h.raised
  counted := (hk.rd pgNETroot NET_SWITCHES_N (by decide) (hr _)).trans h.counted

theorem State.HasRole.mono {but but' : Nat → Nat → Prop} {p : Fin 2} (h : s.HasRole t p but)
    (hb : ∀ q o, but q o → but' q o) : s.HasRole t p but' :=
  ⟨h.keeps.mono hb, h.active, h.shown, h.raised, h.counted⟩

variable (s)

/-- The role's words as they are written. -/
def State.roleShown (s : State) (p : Fin 2) : State :=
  (((s.wr pgNETroot NET_PATH_STAT_ACTIVE p.val).wr pgNETroot NET_PATH_STAT_NO_PATH 0).incSat pgNETroot
    NET_SWITCHES_N).setState (pgNET p.val) 3

theorem State.roleShown_fields (p : Fin 2) : (s.roleShown p).activeIs p.val = true ∧
    (s.roleShown p).portState p.val = 3 ∧
    (s.roleShown p).rd pgNETroot NET_SWITCHES_N = min (s.rd pgNETroot NET_SWITCHES_N + 1) (2 ^ 32 - 1) ∧
    s.Keeps (s.roleShown p) (roleWord p) := by
  have hroot := pgNET_ne_root p.val
  have hsat : NET_SWITCHES_N.width = 32 := rfl
  have he : s.roleShown p = (((s.wr pgNETroot NET_PATH_STAT_ACTIVE p.val).wr pgNETroot NET_PATH_STAT_NO_PATH 0).wr
      pgNETroot NET_SWITCHES_N (min (s.rd pgNETroot NET_SWITCHES_N + 1) (2 ^ 32 - 1))).wr (pgNET p.val)
        UNIT_STATUS_STATE 3 := by
    unfold State.roleShown
    rw [State.incSat_eq, State.addSat_eq, State.setState_eq, hsat,
      State.rd_wr_ne _ _ _ NET_PATH_STAT_NO_PATH NET_SWITCHES_N (by decide) (by decide) (.inr (by decide)),
      State.rd_wr_ne _ _ _ NET_PATH_STAT_ACTIVE NET_SWITCHES_N (by decide) (by decide) (.inr (by decide))]
  rw [he]
  refine ⟨?_, ?_, ?_, ?_⟩
  · have hw := fun f : Fld => fun hf : f.Sound => fun ho : f.off ≠ NET_SWITCHES_N.off =>
      (State.rd_wr_ne (((s.wr pgNETroot NET_PATH_STAT_ACTIVE p.val).wr pgNETroot NET_PATH_STAT_NO_PATH 0).wr
        pgNETroot NET_SWITCHES_N (min (s.rd pgNETroot NET_SWITCHES_N + 1) (2 ^ 32 - 1))) (pgNET p.val) pgNETroot
        UNIT_STATUS_STATE f (by decide) hf (.inl hroot.symm) 3).trans
      (State.rd_wr_ne _ pgNETroot pgNETroot NET_SWITCHES_N f (by decide) hf (.inr ho) _)
    have hno : _ = 0 := (hw NET_PATH_STAT_NO_PATH (by decide) (by decide)).trans (State.rd_wr _ _ _ (by decide) 0)
    have hact : _ = p.val := (hw NET_PATH_STAT_ACTIVE (by decide) (by decide)).trans
      ((State.rd_wr_apart _ pgNETroot NET_PATH_STAT_NO_PATH NET_PATH_STAT_ACTIVE (by decide) (by decide) rfl
        (by decide) 0).trans ((State.rd_wr _ _ _ (by decide) _).trans (Nat.mod_eq_of_lt p.isLt)))
    unfold State.activeIs State.bit
    rw [hno, hact]
    simp
  · exact State.setState_portState _ p 3 (by decide)
  · rw [State.rd_wr_ne _ _ _ _ _ (by decide) (by decide) (.inl hroot.symm), State.rd_wr _ _ _ (by decide)]
    exact Nat.mod_eq_of_lt (lt_of_le_of_lt (min_le_right _ _) (by decide))
  · exact (((s.wr_keeps _ _ _ (by decide) (.inl ⟨rfl, .inl rfl⟩)).trans
      (State.wr_keeps _ _ _ _ (by decide) (.inl ⟨rfl, .inl rfl⟩))).trans
      (State.wr_keeps _ _ _ _ (by decide) (.inl ⟨rfl, .inr rfl⟩))).trans
      (State.wr_keeps _ _ _ _ (by decide) (.inr (.inl ⟨rfl, .inl rfl⟩)))

theorem State.becomeActive_hasRole (p : Fin 2) : s.HasRole (s.becomeActive p) p (roleWord p) := by
  obtain ⟨hact, hst, hcnt, hk⟩ := s.roleShown_fields p
  let v := s.roleShown p
  have hr : v.Raises (v.raise (pgNET p.val) 2) (evWords (pgNET p.val)) :=
    v.raise_raises _ 2 (.inl ⟨rfl, rfl⟩) (evWords_gbk _)
  have hn : ∀ q o, o ≠ 0x014 → o ≠ 0x050 → ¬ evWords (pgNET p.val) q o := fun q o => not_evWords _ q o
  have hraised : s.HasRole (v.raise (pgNET p.val) 2) p (roleWord p) :=
    { keeps := hk.trans (hr.keeps.mono fun q o h =>
        h.elim (fun h => .inr (.inl ⟨h.1, .inr h.2⟩)) fun h => .inr (.inr (.inr (.inr (.inr h)))))
      active := (State.activeIs_of_word _ (hr.word _ _ (by decide) (hn _ _ (by decide) (by decide)))).trans hact
      shown := (State.portState_of_word _ (hr.word _ _ (by decide) (hn _ _ (by decide) (by decide)))).trans hst
      raised := v.raise_net_raised p 2 (by decide)
      counted := (hr.keeps.rd _ _ (by decide) (hn _ _ (by decide) (by decide))).trans hcnt }
  exact hraised.keep (State.stopPortSlice_keeps _ p.val) (fun _ _ h => .inr (.inr (.inr (.inl h))))
    (fun _ h => absurd h (by decide : pgNETroot ≠ pgBST)) fun _ _ h => pgNET_ne_bst _ h

theorem State.takeOver_hasRole (p : Fin 2) : s.HasRole (s.takeOver p) p (roleWord p) :=
  (s.becomeActive_hasRole p).keep (State.announced_keeps _ p) (fun _ _ h => .inr (.inr (.inl h)))
    (fun _ h => h.1.elim (fun e => pgNET_ne_root _ e.symm) fun e => pgNET_ne_root _ e.symm)
    fun o ho h => by rcases ho with rfl | rfl <;> exact absurd h.2 (by decide)

end Sys2Proof.Machine
end

section
/-! SUPPORT. The overlap after a return, and moves of the role (R312-R315). -/

namespace Sys2Proof.Machine

variable {s t u : State}

/-! ### The overlap ends (R314) -/

theorem otherPort_other (p : Fin 2) : otherPort (otherPort p) = p := by fin_cases p <;> rfl

theorem otherPort_ne (p : Fin 2) : otherPort p ≠ p := by fin_cases p <;> decide

theorem pgNET_inj {p q : Fin 2} (h : pgNET p.val = pgNET q.val) : p = q :=
  Fin.ext (Nat.add_left_cancel h)

/-- The words that the end of an overlap with an old port may change. -/
def overlapWord (old : Fin 2) (q o : Nat) : Prop :=
  (q = pgNETroot ∧ o = 0x068) ∨ (q = pgNET old.val ∧ o = 0x010)

/-- The pages that a change of roles may touch. -/
def netWord (q o : Nat) : Prop := q ∈ [pgNETroot, pgNET 0, pgNET 1, pgBST] ∨ evWords pgGBK q o

theorem roleWord_net (p : Fin 2) (q o : Nat) (h : roleWord p q o) : netWord q o := by
  have hp : pgNET p.val = pgNET 0 ∨ pgNET p.val = pgNET 1 := by fin_cases p <;> simp
  rcases h with h | h | h | h | h
  · exact .inl (by simp [h.1])
  · exact .inl (by rcases hp with e | e <;> simp [h.1, e])
  · exact .inl (by rcases h.1 with e | e <;> simp [e])
  · exact .inl (by rw [show q = pgBST from h]; simp)
  · exact .inr h

theorem overlapWord_net (p : Fin 2) (q o : Nat) (h : overlapWord p q o) : netWord q o := by
  have hp : pgNET p.val = pgNET 0 ∨ pgNET p.val = pgNET 1 := by fin_cases p <;> simp
  rcases h with h | h
  · exact .inl (by simp [h.1])
  · exact .inl (by rcases hp with e | e <;> simp [h.1, e])

variable (s)

theorem active_port (p : Fin 2) (hp : p.val = s.rd pgNETroot NET_PATH_STAT_ACTIVE) :
    (if s.rd pgNETroot NET_PATH_STAT_ACTIVE = 0 then (0 : Fin 2) else 1) = p := by
  rw [← hp]; fin_cases p <;> rfl

/-- What the end of an overlap leaves and shows. -/
structure State.OverlapEnded (s t : State) (p : Fin 2) : Prop where
  keeps : s.Keeps t (overlapWord (otherPort p))
  rest : { t with regs := s.regs } = s
  ended : t.bit pgNETroot NET_PATH_STAT_OVERLAP = false
  field : ∀ f : Fld, f.Sound → f.off = 0x068 → NET_PATH_STAT_OVERLAP.Apart f →
    t.rd pgNETroot f = s.rd pgNETroot f
  pcs : ∀ q : Fin 2, t.bit (pgNET q.val) NET_STATUS_PCS_UP = s.bit (pgNET q.val) NET_STATUS_PCS_UP
  old : t.portState (otherPort p).val =
    if s.portState (otherPort p).val = 3 then s.idleState (otherPort p) else s.portState (otherPort p).val

theorem State.endOverlap_ended (p : Fin 2) (hp : p.val = s.rd pgNETroot NET_PATH_STAT_ACTIVE)
    (h : s.bit pgNETroot NET_PATH_STAT_OVERLAP = true) : s.OverlapEnded s.endOverlap p := by
  let v := s.wr pgNETroot NET_PATH_STAT_OVERLAP 0
  have hroot := pgNET_ne_root (otherPort p).val
  have hv : ∀ q o, o < 4096 → q ≠ pgNETroot → v.word q o = s.word q o := fun q o ho hq =>
    State.word_wr_ne _ _ _ _ NET_PATH_STAT_OVERLAP (by decide) ho (.inl hq) 0
  have hst : ∀ q, v.portState q = s.portState q := fun q =>
    State.portState_of_word q (hv _ _ (by decide) (pgNET_ne_root q))
  have hidle : v.idleState (otherPort p) = s.idleState (otherPort p) :=
    State.idleState_of_words _ (hv _ _ (by decide) hroot)
      (State.bit_of_word _ NET_STATUS_PCS_UP (hv _ _ (by decide) hroot))
  have he : s.endOverlap = if v.portState (otherPort p).val = 3 then
      v.setState (pgNET (otherPort p).val) (v.idleState (otherPort p)) else v := by
    unfold State.endOverlap
    rw [if_pos h, active_port s p hp]
  rw [he, hst, hidle]
  have hk : s.Keeps v (overlapWord (otherPort p)) := s.wr_keeps _ _ _ (by decide) (.inl ⟨rfl, rfl⟩)
  have hov : v.bit pgNETroot NET_PATH_STAT_OVERLAP = false := s.bit_wrBit _ _ (by decide) false
  have hfld : ∀ f : Fld, f.Sound → f.off = 0x068 → NET_PATH_STAT_OVERLAP.Apart f →
      v.rd pgNETroot f = s.rd pgNETroot f := fun f hf ho ha =>
    s.rd_wr_apart _ NET_PATH_STAT_OVERLAP f (by decide) hf ho ha 0
  have hpcs : ∀ q : Fin 2, v.bit (pgNET q.val) NET_STATUS_PCS_UP = s.bit (pgNET q.val) NET_STATUS_PCS_UP :=
    fun q => State.bit_of_word _ NET_STATUS_PCS_UP (hv _ _ (by decide) (pgNET_ne_root _))
  split
  · next h3 =>
    let w := v.setState (pgNET (otherPort p).val) (s.idleState (otherPort p))
    have hw : w.word pgNETroot 0x068 = v.word pgNETroot 0x068 :=
      State.word_wr_ne _ _ _ _ UNIT_STATUS_STATE (by decide) (by decide) (.inl hroot.symm) _
    exact
      { keeps := hk.trans (State.wr_keeps _ _ _ _ (by decide) (.inr ⟨rfl, rfl⟩))
        rest := (v.wr_rest (pgNET (otherPort p).val) _ UNIT_STATUS_STATE s.regs).trans
          (s.wr_rest pgNETroot 0 NET_PATH_STAT_OVERLAP s.regs)
        ended := (State.bit_of_word _ NET_PATH_STAT_OVERLAP hw).trans hov
        field := fun f hf ho ha => by
          have : w.rd pgNETroot f = v.rd pgNETroot f := by unfold State.rd; rw [ho, hw]
          exact this.trans (hfld f hf ho ha)
        pcs := fun q => (State.setState_pcsUp v _ q _).trans (hpcs q)
        old := (State.setState_portState v _ _ (s.idleState_le _)).trans (if_pos h3).symm }
  · next h3 =>
    exact { keeps := hk, rest := rfl, ended := hov, field := hfld, pcs := hpcs
            old := (hst _).trans (if_neg h3).symm }

theorem State.endOverlap_none (h : s.bit pgNETroot NET_PATH_STAT_OVERLAP = false) : s.endOverlap = s :=
  if_neg (by rw [h]; decide)

/-- Whether an overlap ran or not, what its end leaves. -/
theorem State.endOverlap_keeps (p : Fin 2) (hp : p.val = s.rd pgNETroot NET_PATH_STAT_ACTIVE) :
    s.Keeps s.endOverlap (overlapWord (otherPort p)) ∧ { s.endOverlap with regs := s.regs } = s ∧
      (∀ q : Fin 2, s.endOverlap.bit (pgNET q.val) NET_STATUS_PCS_UP = s.bit (pgNET q.val) NET_STATUS_PCS_UP) := by
  cases h : s.bit pgNETroot NET_PATH_STAT_OVERLAP with
  | true =>
    have he := s.endOverlap_ended p hp h
    exact ⟨he.keeps, he.rest, he.pcs⟩
  | false =>
    rw [s.endOverlap_none h]
    exact ⟨.refl s _, rfl, fun _ => rfl⟩

variable {s}

/-! ### A return (R314, R315) -/

/-- What a return shows: the role, the overlap, and the old port's state. -/
structure State.Returned (s t : State) (q : Fin 2) : Prop where
  role : s.HasRole t q netWord
  overlap : t.bit pgNETroot NET_PATH_STAT_OVERLAP = decide (s.rd pgNETroot NET_PATH_CFG_OVERLAP_US ≠ 0)
  old : s.portState (otherPort q).val = 3 → t.portState (otherPort q).val =
    if s.rd pgNETroot NET_PATH_CFG_OVERLAP_US = 0 then s.idleState (otherPort q) else 3

/-- The fields of NET_PATH_STAT that say which port is active. -/
theorem State.activeIs_of_fields (p : Nat)
    (h : ∀ f : Fld, f.Sound → f.off = 0x068 → NET_PATH_STAT_OVERLAP.Apart f →
      t.rd pgNETroot f = s.rd pgNETroot f) : t.activeIs p = s.activeIs p := by
  unfold State.activeIs State.bit
  rw [h NET_PATH_STAT_NO_PATH (by decide) rfl (by decide), h NET_PATH_STAT_ACTIVE (by decide) rfl (by decide)]

theorem State.rd_of_activeIs (p : Nat) (h : s.activeIs p = true) : p = s.rd pgNETroot NET_PATH_STAT_ACTIVE := by
  unfold State.activeIs at h
  exact (beq_iff_eq.mp (Bool.and_eq_true_iff.mp h).2).symm

/-! #### Words that stand -/

theorem not_overlapWord_net (old q : Fin 2) (o : Nat) (h : q ≠ old) : ¬ overlapWord old (pgNET q.val) o := by
  rintro (e | e)
  · exact pgNET_ne_root _ e.1
  · exact h (pgNET_inj e.1)

theorem not_overlapWord_event (old q : Fin 2) : ¬ overlapWord old (pgNET q.val) 0x014 := by
  rintro (e | e)
  · exact pgNET_ne_root _ e.1
  · exact absurd e.2 (by decide)

theorem not_overlapWord_root (old : Fin 2) (o : Nat) (h : o ≠ 0x068) : ¬ overlapWord old pgNETroot o := by
  rintro (e | e)
  · exact h e.2
  · exact pgNET_ne_root _ e.1.symm

theorem not_roleWord_root (p : Fin 2) (o : Nat) (h : o ≠ 0x068) (h' : o ≠ 0x06C) :
    ¬ roleWord p pgNETroot o := by
  rintro (e | e | e | e | e)
  · exact e.2.elim h h'
  · exact pgNET_ne_root _ e.1.symm
  · exact e.1.elim (fun e => pgNET_ne_root _ e.symm) fun e => pgNET_ne_root _ e.symm
  · exact absurd e (by decide : pgNETroot ≠ pgBST)
  · exact not_evWords_root _ e

theorem not_roleWord_net (p q : Fin 2) (o : Nat) (h : q ≠ p) (h1 : o ≠ 0x06C) (h2 : o ≠ 0x070) :
    ¬ roleWord p (pgNET q.val) o := by
  rintro (e | e | e | e | e)
  · exact pgNET_ne_root _ e.1
  · exact h (pgNET_inj e.1)
  · exact e.2.elim h1 h2
  · exact pgNET_ne_bst _ e
  · exact not_evWords_net _ _ e

/-! #### The role stands -/

/-- The role as it shows after what may change the old port's words alone. -/
theorem State.HasRole.restat {q old : Fin 2} (h : s.HasRole t q netWord) (hq : q ≠ old)
    (hk : t.Keeps u (overlapWord old)) (ha : u.activeIs q.val = t.activeIs q.val) :
    s.HasRole u q netWord where
  keeps := h.keeps.trans (hk.mono (overlapWord_net old))
  active := ha.trans h.active
  shown := (State.portState_of_word _ (hk.word _ _ (by decide) (not_overlapWord_net old q _ hq))).trans h.shown
  raised := State.raised_of_wordAt _ _ (hk.word _ _ (by decide) (not_overlapWord_net old q _ hq)) h.raised
  counted := (hk.rd _ _ (by decide) (not_overlapWord_root old _ (by decide))).trans h.counted

/-- The role, as seen from before what leaves the count of switches. -/
theorem State.HasRole.after {q : Fin 2} {but but' : Nat → Nat → Prop} (h : t.HasRole u q but)
    (hk : s.Keeps t but') (hb : ∀ p o, but' p o → but p o) (hn : ¬ but' pgNETroot NET_SWITCHES_N.off) :
    s.HasRole u q but :=
  ⟨(hk.mono hb).trans h.keeps, h.active, h.shown, h.raised, by
    rw [h.counted, hk.rd pgNETroot NET_SWITCHES_N (by decide) hn]⟩

variable (s)

/-- What stands as a port takes over behind the end of an earlier overlap: the other port's words and the
overlap's length. -/
theorem State.takeOver_afterOverlap (q : Fin 2)
    (ha : (otherPort q).val = s.rd pgNETroot NET_PATH_STAT_ACTIVE) :
    let t := s.endOverlap.takeOver q
    s.HasRole t q netWord ∧ t.portState (otherPort q).val = s.portState (otherPort q).val ∧
      t.idleState (otherPort q) = s.idleState (otherPort q) ∧
      t.rd pgNETroot NET_PATH_CFG_OVERLAP_US = s.rd pgNETroot NET_PATH_CFG_OVERLAP_US := by
  intro t
  obtain ⟨hk0, -, -⟩ := s.endOverlap_keeps (otherPort q) ha
  rw [otherPort_other] at hk0
  have hrole : s.endOverlap.HasRole t q (roleWord q) := s.endOverlap.takeOver_hasRole q
  have hold : ∀ o, o < 4096 → o ≠ 0x06C → o ≠ 0x070 →
      t.word (pgNET (otherPort q).val) o = s.word (pgNET (otherPort q).val) o := fun o hlt h1 h2 =>
    (hrole.keeps.word _ o hlt (not_roleWord_net q _ o (otherPort_ne q) h1 h2)).trans
      (hk0.word _ o hlt (not_overlapWord_net q _ o (otherPort_ne q)))
  refine ⟨?_, ?_, ?_, ?_⟩
  · exact (hrole.mono (roleWord_net q)).after hk0 (overlapWord_net q) (not_overlapWord_root q _ (by decide))
  · exact State.portState_of_word _ (hold _ (by decide) (by decide) (by decide))
  · exact State.idleState_of_words _ (hold _ (by decide) (by decide) (by decide))
      (State.bit_of_word _ NET_STATUS_PCS_UP (hold _ (by decide) (by decide) (by decide)))
  · rw [hrole.keeps.rd _ _ (by decide) (not_roleWord_root q _ (by decide) (by decide)),
      hk0.rd _ _ (by decide) (not_overlapWord_root q _ (by decide))]

/-- Make before break: `q` takes over from the other port, which stays ACTIVE for the overlap. -/
theorem State.returnTo_returned (q : Fin 2) (ha : (otherPort q).val = s.rd pgNETroot NET_PATH_STAT_ACTIVE) :
    s.Returned (s.returnTo q) q := by
  obtain ⟨hrole, hst, hidle, hus⟩ := s.takeOver_afterOverlap q ha
  let v := s.endOverlap.takeOver q
  let w := v.wr pgNETroot NET_PATH_STAT_OVERLAP 1
  have hkw : v.Keeps w (overlapWord (otherPort q)) := v.wr_keeps _ _ _ (by decide) (.inl ⟨rfl, rfl⟩)
  have hroleW : s.HasRole w q netWord := hrole.restat (otherPort_ne q).symm hkw
    (State.activeIs_of_fields _ fun f hf ho hap =>
      v.rd_wr_apart _ NET_PATH_STAT_OVERLAP f (by decide) hf ho hap 1)
  have hov : w.bit pgNETroot NET_PATH_STAT_OVERLAP = true := v.bit_wrBit _ _ (by decide) true
  have hwv : ∀ p o, o < 4096 → p ≠ pgNETroot → w.word p o = v.word p o := fun p o ho hp =>
    State.word_wr_ne _ _ _ _ NET_PATH_STAT_OVERLAP (by decide) ho (.inl hp) 1
  have hstW : w.portState (otherPort q).val = s.portState (otherPort q).val :=
    (State.portState_of_word _ (hwv _ _ (by decide) (pgNET_ne_root _))).trans hst
  have hidleW : w.idleState (otherPort q) = s.idleState (otherPort q) :=
    (State.idleState_of_words _ (hwv _ _ (by decide) (pgNET_ne_root _))
      (State.bit_of_word _ NET_STATUS_PCS_UP (hwv _ _ (by decide) (pgNET_ne_root _)))).trans hidle
  have husW : w.rd pgNETroot NET_PATH_CFG_OVERLAP_US = s.rd pgNETroot NET_PATH_CFG_OVERLAP_US :=
    (hkw.rd _ _ (by decide) (not_overlapWord_root _ _ (by decide))).trans hus
  have he : s.returnTo q = if w.rd pgNETroot NET_PATH_CFG_OVERLAP_US = 0 then w.endOverlap else w := rfl
  rw [he, husW]
  split
  · next h0 =>
    have hend := w.endOverlap_ended q (State.rd_of_activeIs _ hroleW.active) hov
    exact
      { role := hroleW.restat (otherPort_ne q).symm hend.keeps (State.activeIs_of_fields _ hend.field)
        overlap := by rw [hend.ended, h0]; rfl
        old := fun h3 => by rw [hend.old, if_pos h0, hstW, if_pos h3, hidleW] }
  · next h0 =>
    exact
      { role := hroleW
        overlap := by rw [hov]; exact (decide_eq_true h0).symm
        old := fun h3 => by rw [if_neg h0, hstW, h3] }

/-! ### Moves of the role -/

def State.setNet (s : State) (x : Net) : State := { s with net := x }

theorem State.setNet_core (x : Net) : s.SameCore (s.setNet x) := ⟨rfl, rfl, rfl, rfl, rfl, rfl, rfl, rfl, rfl⟩

theorem State.setNet_regs (x : Net) : (s.setNet x).regs = s.regs := rfl

theorem State.draw_core : s.SameCore s.draw := ⟨rfl, rfl, rfl, rfl, rfl, rfl, rfl, rfl, rfl⟩

/-- A move of the role is under way. -/
def State.moving (s : State) (q : Fin 2) (auto : Bool) : State :=
  s.draw.setNet { s.net with move := some ⟨q, s.queuedFrames.length, auto⟩ }

def State.noMove (s : State) : State := s.setNet { s.net with move := none }

/-- The role moves, and an automatic return notes its time. -/
def State.moveNow (s : State) (q : Fin 2) (auto : Bool) : State :=
  let t := s.returnTo q
  if auto then { t with net := { t.net with returnedAt := some t.now } } else t

theorem State.moveRole_eq (m : RoleMove) (hm : s.net.move = some m) (h2 : s.portState m.target.val = 2) :
    s.moveRole = s.noMove.moveNow m.target m.auto := by
  have h2' : ¬ s.noMove.portState m.target.val ≠ 2 := not_not.mpr h2
  unfold State.moveRole
  rw [hm]
  exact if_neg h2'

/-- Frames wait: the role waits for them (R314). -/
theorem State.startMove_waits (q : Fin 2) (auto : Bool) (hm : s.net.move = none) (hq : s.queuedFrames ≠ []) :
    s.startMove q auto = s.moving q auto := by
  unfold State.startMove
  rw [hm]
  exact if_neg (mt List.length_eq_zero_iff.mp hq)

/-- No frame waits on the old port: the role moves at once. -/
theorem State.startMove_now (q : Fin 2) (auto : Bool) (hm : s.net.move = none) (hq : s.queuedFrames = [])
    (h2 : s.portState q.val = 2) : s.startMove q auto = (s.moving q auto).noMove.moveNow q auto := by
  have h1 : s.startMove q auto = (s.moving q auto).moveRole := by
    unfold State.startMove
    rw [hm]
    exact if_pos (List.length_eq_zero_iff.mpr hq)
  exact h1.trans ((s.moving q auto).moveRole_eq ⟨q, s.queuedFrames.length, auto⟩ rfl h2)

/-- A change of roles that the drawn free value and the record of moves are no part of. -/
theorem State.Returned.of_regs {v t : State} {q : Fin 2} (h : v.Returned t q) (hc : s.SameCore v)
    (hr : v.regs = s.regs) : s.Returned t q := by
  have hk : s.Keeps v netWord := .of_regs _ hc hr
  have hw : ∀ p o, v.word p o = s.word p o := fun p o => State.word_of_regs s v hc.part hr p o
  refine ⟨⟨hk.trans h.role.keeps, h.role.active, h.role.shown, h.role.raised, ?_⟩, ?_, fun h3 => ?_⟩
  · rw [h.role.counted, State.rd_of_regs s v hc.part hr]
  · rw [h.overlap, State.rd_of_regs s v hc.part hr]
  · have hst : v.portState (otherPort q).val = s.portState (otherPort q).val :=
      State.portState_of_word _ (hw _ _)
    rw [h.old (hst.trans h3), State.rd_of_regs s v hc.part hr,
      State.idleState_of_words _ (hw _ _) (State.bit_of_word _ NET_STATUS_PCS_UP (hw _ _))]

end Sys2Proof.Machine
end

section
/-! PROOFS. The active port: taking it, losing it, returning it (R310-R315). -/

namespace Sys2Proof.Machine

variable {s t u v : State}

/-! ### What the statement says of a port that takes the role -/

/-- A port has taken the role from `s` to `t`. -/
def State.TakesRole (s t : State) (q : Fin 2) : Prop :=
  t.activeIs q.val = true ∧ t.portState q.val = 3 ∧ t.Raised (pgNET q.val) 2 ∧
    t.rd pgNETroot NET_SWITCHES_N = min (s.rd pgNETroot NET_SWITCHES_N + 1) (2 ^ 32 - 1) ∧
    s.Within t [pgNETroot, pgNET 0, pgNET 1, pgBST]

/-- The role has returned, with the overlap that is set. -/
def State.ReturnsRole (s t : State) (q : Fin 2) : Prop :=
  s.TakesRole t q ∧ t.bit pgNETroot NET_PATH_STAT_OVERLAP =
    decide (s.rd pgNETroot NET_PATH_CFG_OVERLAP_US ≠ 0) ∧
  (s.portState (otherPort q).val = 3 → t.portState (otherPort q).val =
    if s.rd pgNETroot NET_PATH_CFG_OVERLAP_US = 0 then s.idleState (otherPort q) else 3)

theorem State.Keeps.within (h : s.Keeps t netWord) : s.Within t [pgNETroot, pgNET 0, pgNET 1, pgBST] :=
  ⟨h.sameMem, h.sameRegs⟩

theorem State.HasRole.takesRole {q : Fin 2} (h : s.HasRole t q netWord) : s.TakesRole t q :=
  ⟨h.active, h.shown, h.raised, h.counted, h.keeps.within⟩

theorem State.Returned.returnsRole {q : Fin 2} (h : s.Returned t q) : s.ReturnsRole t q :=
  ⟨h.role.takesRole, h.overlap, h.old⟩

/-- A role seen from a state with the same memory and registers. -/
theorem State.TakesRole.before {q : Fin 2} (h : v.TakesRole t q) (hm : s.SameMem v)
    (hr : s.SameRegs v (fun _ _ => False)) : s.TakesRole t q := by
  obtain ⟨hact, hst, hra, hcnt, hmem, hregs⟩ := h
  have hw : v.rd pgNETroot NET_SWITCHES_N = s.rd pgNETroot NET_SWITCHES_N :=
    congrArg NET_SWITCHES_N.get (hr.1 pgNETroot _ (by decide) not_false)
  exact ⟨hact, hst, hra, by rw [hcnt, hw], hm.trans hmem,
    (hr.trans hregs).mono fun _ _ h => h.elim False.elim id⟩

theorem State.ReturnsRole.before {q : Fin 2} (h : v.ReturnsRole t q) (hm : s.SameMem v)
    (hr : s.SameRegs v (fun _ _ => False)) : s.ReturnsRole t q := by
  obtain ⟨htakes, hov, hold⟩ := h
  have hw : ∀ p o, o < 4096 → v.word p o = s.word p o := fun p o ho => hr.1 p o ho not_false
  have hus : v.rd pgNETroot NET_PATH_CFG_OVERLAP_US = s.rd pgNETroot NET_PATH_CFG_OVERLAP_US :=
    congrArg NET_PATH_CFG_OVERLAP_US.get (hw _ _ (by decide))
  have hst := State.portState_of_word (t := v) (s := s) (otherPort q).val (hw _ _ (by decide))
  have hidle := State.idleState_of_words (t := v) (s := s) (otherPort q) (hw _ _ (by decide))
    (State.bit_of_word _ NET_STATUS_PCS_UP (hw _ _ (by decide)))
  refine ⟨htakes.before hm hr, by rw [hov, hus], fun h3 => ?_⟩
  rw [hold (hst.trans h3), hus, hidle]

/-- A return whose time is noted. -/
theorem State.Returned.after {q : Fin 2} (h : s.Returned t q) (hc : t.SameCore u) (hr : u.regs = t.regs) :
    s.Returned u q := by
  have hk : t.Keeps u (fun _ _ => False) := .of_regs _ hc hr
  have hw : ∀ p o, u.word p o = t.word p o := fun p o => State.word_of_regs t u hc.part hr p o
  exact ⟨h.role.keep hk (fun _ _ h => h.elim) (fun _ => not_false) (fun _ _ => not_false),
    (State.bit_of_word _ NET_PATH_STAT_OVERLAP (hw _ _)).trans h.overlap,
    fun h3 => (State.portState_of_word _ (hw _ _)).trans (h.old h3)⟩

variable (s)

/-! ### With no active port (R310) -/

theorem State.pickPort_picked (q : Fin 2) : s.TakesRole (s.pickPort q) q ∧
    (s.portState (otherPort q).val = 3 → (s.pickPort q).portState (otherPort q).val = s.idleState (otherPort q)) := by
  have hrole := s.becomeActive_hasRole q
  have hold : ∀ o, o < 4096 → o ≠ 0x06C → o ≠ 0x070 →
      (s.becomeActive q).word (pgNET (otherPort q).val) o = s.word (pgNET (otherPort q).val) o :=
    fun o hlt h1 h2 => hrole.keeps.word _ o hlt (not_roleWord_net q _ o (otherPort_ne q) h1 h2)
  have hst : (s.becomeActive q).portState (otherPort q).val = s.portState (otherPort q).val :=
    State.portState_of_word _ (hold _ (by decide) (by decide) (by decide))
  have hidle : (s.becomeActive q).idleState (otherPort q) = s.idleState (otherPort q) :=
    State.idleState_of_words _ (hold _ (by decide) (by decide) (by decide))
      (State.bit_of_word _ NET_STATUS_PCS_UP (hold _ (by decide) (by decide) (by decide)))
  have hn := hrole.mono (roleWord_net q)
  unfold State.pickPort
  dsimp only
  rw [hst, hidle]
  split
  · let w := (s.becomeActive q).setState (pgNET (otherPort q).val) (s.idleState (otherPort q))
    have hk : (s.becomeActive q).Keeps w (overlapWord (otherPort q)) :=
      State.wr_keeps _ _ _ _ (by decide) (.inr ⟨rfl, rfl⟩)
    have hw : w.word pgNETroot 0x068 = (s.becomeActive q).word pgNETroot 0x068 :=
      State.word_wr_ne _ _ _ _ UNIT_STATUS_STATE (by decide) (by decide) (.inl (pgNET_ne_root _).symm) _
    exact ⟨(hn.restat (otherPort_ne q).symm hk (State.activeIs_of_word _ hw)).takesRole,
      fun _ => State.setState_portState _ _ _ (s.idleState_le _)⟩
  · next h => exact ⟨hn.takesRole, fun h3 => absurd h3 h⟩

/-- A port that may take the role. -/
def State.MayTake (s : State) (p : Fin 2) : Prop :=
  s.portState p.val = 2 ∨ (s.portState p.val = 3 ∧ s.bit (pgNET p.val) NET_STATUS_PCS_UP = true)

theorem State.portUp_iff (p : Fin 2) : s.portUp p = true ↔ s.MayTake p := by
  unfold State.portUp State.MayTake
  simp

theorem State.exec_pathCheck (hn : s.levelOf .net = 2) (hp : s.bit pgNETroot NET_PATH_STAT_NO_PATH = true) :
    exec .pathCheck s = .next (if s.portUp s.primary then s.fresh.pickPort s.primary
      else if s.portUp (otherPort s.primary) then s.fresh.pickPort (otherPort s.primary) else s.fresh) := by
  have hc : (s.netUp && s.bit pgNETroot NET_PATH_STAT_NO_PATH) = true := by
    rw [hp, State.netUp, hn]; rfl
  exact congrArg Host.Outcome.next (State.onlyIf_true s.fresh _ _ hc)

theorem State.pathCheck_picks (hn : s.levelOf .net = 2) (hp : s.bit pgNETroot NET_PATH_STAT_NO_PATH = true) :
    ∃ t, exec .pathCheck s = .next t ∧
      (s.MayTake s.primary → s.TakesRole t s.primary ∧ (s.portState (otherPort s.primary).val = 3 →
        t.portState (otherPort s.primary).val = s.idleState (otherPort s.primary))) ∧
      (¬ s.MayTake s.primary → s.MayTake (otherPort s.primary) → s.TakesRole t (otherPort s.primary) ∧
        (s.portState (otherPort (otherPort s.primary)).val = 3 →
          t.portState (otherPort (otherPort s.primary)).val = s.idleState (otherPort (otherPort s.primary)))) ∧
      (¬ s.MayTake 0 → ¬ s.MayTake 1 → t = s.fresh) := by
  have he := s.exec_pathCheck hn hp
  by_cases h1 : s.MayTake s.primary
  · rw [if_pos ((s.portUp_iff _).mpr h1)] at he
    refine ⟨_, he, fun _ => s.fresh.pickPort_picked s.primary, fun h => absurd h1 h, fun h0 h1' => ?_⟩
    exfalso
    revert h1
    generalize s.primary = p
    intro h1
    fin_cases p
    · exact h0 h1
    · exact h1' h1
  · rw [if_neg (mt (s.portUp_iff _).mp h1)] at he
    by_cases h2 : s.MayTake (otherPort s.primary)
    · rw [if_pos ((s.portUp_iff _).mpr h2)] at he
      refine ⟨_, he, fun h => absurd h h1, fun _ _ => s.fresh.pickPort_picked (otherPort s.primary),
        fun h0 h1' => ?_⟩
      exfalso
      revert h2
      generalize otherPort s.primary = p
      intro h2
      fin_cases p
      · exact h0 h2
      · exact h1' h2
    · rw [if_neg (mt (s.portUp_iff _).mp h2)] at he
      exact ⟨_, he, fun h => absurd h h1, fun _ h => absurd h h2, fun _ _ => rfl⟩

/-! ### A loss of the active path (R311-R313) -/

/-- The loss as the lost port shows it. -/
def State.lossNoted (s : State) (p : Fin 2) (cause : LossCause) : State :=
  ((s.wr (pgNET p.val) NET_PATH_CAUSE (causeNum cause)).incSat (pgNET p.val) NET_PATH_LOSSES).raise (pgNET p.val) 1

/-- The words that a loss changes before another port takes over. -/
def lossWord (p : Fin 2) (q o : Nat) : Prop :=
  (q = pgNET p.val ∧ (o = 0x088 ∨ o = 0x014 ∨ o = 0x010 ∨ o = 0x060)) ∨
    (q = pgNETroot ∧ (o = 0x068 ∨ o = 0x0A0 ∨ o = 0x0B8)) ∨ evWords pgGBK q o

theorem lossWord_net (p : Fin 2) (q o : Nat) (h : lossWord p q o) : netWord q o := by
  have hp : pgNET p.val = pgNET 0 ∨ pgNET p.val = pgNET 1 := by fin_cases p <;> simp
  rcases h with h | h | h
  · exact .inl (by rcases hp with e | e <;> simp [h.1, e])
  · exact .inl (by simp [h.1])
  · exact .inr h

theorem not_lossWord_other (p q : Fin 2) (o : Nat) (h : q ≠ p) : ¬ lossWord p (pgNET q.val) o := by
  rintro (e | e | e)
  · exact h (pgNET_inj e.1)
  · exact pgNET_ne_root _ e.1
  · exact not_evWords_net _ _ e

theorem not_lossWord_root (p : Fin 2) (o : Nat) (h : o ≠ 0x068) (h1 : o ≠ 0x0A0) (h2 : o ≠ 0x0B8) :
    ¬ lossWord p pgNETroot o := by
  rintro (e | e | e)
  · exact pgNET_ne_root _ e.1.symm
  · exact e.2.elim h fun e => e.elim h1 h2
  · exact not_evWords_root _ e

theorem causeNum_lt (cause : LossCause) : causeNum cause < 8 := by cases cause <;> decide

/-- What the lost port shows. -/
structure State.LossShown (s t : State) (p : Fin 2) (cause : LossCause) : Prop where
  cause : t.rd (pgNET p.val) NET_PATH_CAUSE = causeNum cause
  losses : t.rd (pgNET p.val) NET_PATH_LOSSES = min (s.rd (pgNET p.val) NET_PATH_LOSSES + 1) 65535
  raised : t.Raised (pgNET p.val) 1

theorem State.LossShown.of_words {s t u : State} {p : Fin 2} {cause : LossCause} (h : s.LossShown t p cause)
    (hl : u.word (pgNET p.val) 0x088 = t.word (pgNET p.val) 0x088)
    (he : u.word (pgNET p.val) 0x014 = t.word (pgNET p.val) 0x014) : s.LossShown u p cause :=
  ⟨(congrArg NET_PATH_CAUSE.get hl).trans h.cause, (congrArg NET_PATH_LOSSES.get hl).trans h.losses,
    State.raised_of_wordAt _ _ he h.raised⟩

theorem State.lossNoted_shown (p : Fin 2) (cause : LossCause) :
    s.LossShown (s.lossNoted p cause) p cause ∧ s.Keeps (s.lossNoted p cause) (lossWord p) ∧
      (s.lossNoted p cause).word (pgNET p.val) 0x010 = s.word (pgNET p.val) 0x010 ∧
      (s.lossNoted p cause).net = s.net := by
  let v := (s.wr (pgNET p.val) NET_PATH_CAUSE (causeNum cause)).wr (pgNET p.val) NET_PATH_LOSSES
    (min (s.rd (pgNET p.val) NET_PATH_LOSSES + 1) 65535)
  have he : s.lossNoted p cause = v.raise (pgNET p.val) 1 := by
    unfold State.lossNoted
    rw [State.incSat_eq, State.addSat_eq, State.rd_wr_apart _ _ NET_PATH_CAUSE NET_PATH_LOSSES (by decide)
      (by decide) rfl (by decide)]
    rfl
  have hr : v.Raises (v.raise (pgNET p.val) 1) (evWords (pgNET p.val)) :=
    v.raise_raises _ 1 (.inl ⟨rfl, rfl⟩) (evWords_gbk _)
  have hn : ∀ o, o ≠ 0x014 → o ≠ 0x050 → ¬ evWords (pgNET p.val) (pgNET p.val) o := fun o => not_evWords _ _ o
  have hk : s.Keeps v (lossWord p) := (s.wr_keeps _ _ _ (by decide) (.inl ⟨rfl, .inl rfl⟩)).trans
    (State.wr_keeps _ _ _ _ (by decide) (.inl ⟨rfl, .inl rfl⟩))
  rw [he]
  refine ⟨⟨?_, ?_, v.raise_net_raised p 1 (by decide)⟩, hk.trans (hr.keeps.mono ?_), ?_, ?_⟩
  · rw [hr.keeps.rd _ _ (by decide) (hn _ (by decide) (by decide)), State.rd_wr_apart _ _ NET_PATH_LOSSES
      NET_PATH_CAUSE (by decide) (by decide) rfl (by decide), State.rd_wr _ _ _ (by decide)]
    exact Nat.mod_eq_of_lt (causeNum_lt cause)
  · rw [hr.keeps.rd _ _ (by decide) (hn _ (by decide) (by decide)), State.rd_wr _ _ _ (by decide)]
    exact Nat.mod_eq_of_lt (lt_of_le_of_lt (min_le_right _ _) (by decide))
  · exact fun q o h => h.elim (fun h => .inl ⟨h.1, .inr (.inl h.2)⟩) fun h => .inr (.inr (.inr h))
  · rw [hr.word _ _ (by decide) (hn _ (by decide) (by decide))]
    exact (State.word_wr_ne _ _ _ _ NET_PATH_LOSSES (by decide) (by decide) (.inr (by decide)) _).trans
      (State.word_wr_ne _ _ _ _ NET_PATH_CAUSE (by decide) (by decide) (.inr (by decide)) _)
  · exact State.raise_net _ _ _

/-! #### What goes on before another port takes over -/

theorem State.doubleWait_keeps (p : Fin 2) : s.Keeps (s.doubleWait p) (lossWord p) ∧
    (s.doubleWait p).net.move = s.net.move := by
  unfold State.doubleWait
  split
  · split
    · have hnet : s.Keeps { s with net := { s.net with doubled := true, returnedAt := none } } (lossWord p) :=
        .of_regs _ ⟨rfl, rfl, rfl, rfl, rfl, rfl, rfl, rfl, rfl⟩ rfl
      exact ⟨hnet.trans (State.wr_keeps _ _ _ _ (by decide) (.inr (.inl ⟨rfl, .inl rfl⟩))), rfl⟩
    · exact ⟨.refl s _, rfl⟩
  · exact ⟨.refl s _, rfl⟩

theorem State.signal_keeps {but : Nat → Nat → Prop} (fn n : Nat) : s.Keeps (s.signal fn n) but ∧
    (s.signal fn n).net = s.net := by
  unfold State.signal
  split
  · exact ⟨.refl s _, rfl⟩
  · split
    · split
      · exact ⟨.refl s _, rfl⟩
      · exact ⟨.of_regs _ ⟨rfl, rfl, rfl, rfl, rfl, rfl, rfl, rfl, rfl⟩ rfl, rfl⟩
    · exact ⟨.of_regs _ ⟨rfl, rfl, rfl, rfl, rfl, rfl, rfl, rfl, rfl⟩ rfl, rfl⟩

/-- Frames and their completions touch words of the virtual interface alone. -/
def vniWord (q o : Nat) : Prop := q = pgNETroot ∧ (o = 0x0A0 ∨ o = 0x0B8)

theorem State.txComplete_keeps (flags : Nat) (err : Bool) : s.Keeps (s.txComplete flags err) vniWord ∧
    (s.txComplete flags err).net = s.net := by
  have hs := fun w : State => w.signal_keeps (but := vniWord) 0 40
  unfold State.txComplete
  dsimp only
  exact ⟨((s.emit_raises _).keeps.trans (State.wr_keeps _ _ _ _ (by decide) ⟨rfl, .inl rfl⟩)).trans (hs _).1,
    (hs _).2.trans rfl⟩

theorem State.discards_keep (l : List Bool) : ∀ s : State,
    s.Keeps (l.foldl (fun t corr => (t.txComplete (b2n corr) true).incSat pgNETroot VNI_DROPS_N) s) vniWord ∧
      (l.foldl (fun t corr => (t.txComplete (b2n corr) true).incSat pgNETroot VNI_DROPS_N) s).net = s.net := by
  induction l with
  | nil => exact fun s => ⟨.refl s _, rfl⟩
  | cons x l ih =>
    intro s
    obtain ⟨hk, hn⟩ := s.txComplete_keeps (b2n x) true
    obtain ⟨hk', hn'⟩ := ih ((s.txComplete (b2n x) true).incSat pgNETroot VNI_DROPS_N)
    have hd : (s.txComplete (b2n x) true).Keeps ((s.txComplete (b2n x) true).incSat pgNETroot VNI_DROPS_N) vniWord ∧
        ((s.txComplete (b2n x) true).incSat pgNETroot VNI_DROPS_N).net = (s.txComplete (b2n x) true).net := by
      rw [State.incSat_eq, State.addSat_eq]
      exact ⟨State.wr_keeps _ _ _ _ (by decide) ⟨rfl, .inr rfl⟩, rfl⟩
    exact ⟨(hk.trans hd.1).trans hk', hn'.trans (hd.2.trans hn)⟩

theorem State.discardQueued_keeps (p : Fin 2) : s.Keeps (s.discardQueued p) (lossWord p) ∧
    (s.discardQueued p).net = s.net ∧
    (s.discardQueued p).word (pgNET p.val) 0x010 = s.word (pgNET p.val) 0x010 := by
  let v := s.draw.wr (pgNET p.val) NET_TXQ_FILL_BYTES 0
  obtain ⟨hk, hn⟩ := State.discards_keep s.queuedFrames v
  have hv : s.Keeps v (lossWord p) :=
    (State.Keeps.of_regs _ ⟨rfl, rfl, rfl, rfl, rfl, rfl, rfl, rfl, rfl⟩ rfl : s.Keeps s.draw _).trans
      (State.wr_keeps _ _ _ _ (by decide) (.inl ⟨rfl, .inr (.inr (.inr rfl))⟩))
  refine ⟨hv.trans (hk.mono fun q o h => .inr (.inl ⟨h.1, .inr h.2⟩)), hn, ?_⟩
  refine (hk.word _ _ (by decide) fun h => pgNET_ne_root _ h.1).trans ?_
  exact State.word_wr_ne s.draw _ _ _ NET_TXQ_FILL_BYTES (by decide) (by decide) (.inr (by decide)) 0

/-! #### The record of moves stands as a port takes over -/

theorem State.ownSent_net (p n : Nat) : (s.ownSent p n).net = s.net := by
  unfold State.ownSent
  rw [State.add2_eq, State.wr2_eq, State.wr_net, State.wr_net]

theorem State.sendAck_net (i : Fin 4) : (s.sendAck i).net = s.net := by
  unfold State.sendAck State.sendDatagram
  dsimp only
  split
  · split
    · rw [State.emit_net, State.ownSent_net]
    · rfl
  · rfl

theorem State.rotated_net : s.rotated.net = s.net := by
  unfold State.rotated
  simp only [State.incSat_eq, State.addSat_eq]
  rw [State.setBist_net, State.wr_net, State.wr_net, State.wr_net, State.wr_net]

theorem State.slicePast_net (i : Nat) : (s.slicePast i).net = s.net := by
  unfold State.slicePast
  split
  · rw [State.wr_net]
  · rw [State.rotated_net]

theorem State.stopPortSlice_net (p : Nat) : (s.stopPortSlice p).net = s.net := by
  unfold State.stopPortSlice
  split
  · rfl
  · split
    · unfold State.sliceOver
      dsimp only
      split
      · rw [State.setBist_net, State.setBist_net]
      · rw [State.slicePast_net, State.setBist_net]
    · rfl

theorem State.becomeActive_net (p : Fin 2) : (s.becomeActive p).net = s.net := by
  unfold State.becomeActive
  dsimp only
  rw [State.stopPortSlice_net, State.raise_net, State.setState_eq, State.incSat_eq, State.addSat_eq,
    State.wr_net, State.wr_net, State.wr_net, State.wr_net]

theorem State.foldl_net {α : Type} (f : State → α → State) (l : List α) (h : ∀ t x, (f t x).net = t.net) :
    ∀ s : State, (l.foldl f s).net = s.net := by
  induction l with
  | nil => exact fun _ => rfl
  | cons x l ih => exact fun s => (ih _).trans (h s x)

theorem State.takeOver_net (p : Fin 2) : (s.takeOver p).net = s.net := by
  have hann : ((s.becomeActive p).announce p).net = s.net := by
    unfold State.announce
    rw [State.emit_net, State.ownSent_net, State.becomeActive_net]
  exact (State.foldl_net _ _ (fun t i => t.updStm_net i _) _).trans
    ((State.foldl_net _ _ (fun t i => t.sendAck_net i) _).trans hann)

end Sys2Proof.Machine
end

section
/-! PROOFS. A loss of the active path, a return of the role, and what goes with them (R311-R315). -/

namespace Sys2Proof.Machine

variable (s : State)

/-! ### The other port takes over (R312, R313) -/

/-- Everything that goes on at a loss before the other port takes over. -/
def State.lossReady (s : State) (p : Fin 2) (cause : LossCause) : State :=
  let t := s.lossNoted p cause
  (((t.doubleWait p).setState (pgNET p.val) (t.idleState p)).discardQueued p)

theorem State.lossReady_shown (p : Fin 2) (cause : LossCause) :
    s.LossShown (s.lossReady p cause) p cause ∧ s.Keeps (s.lossReady p cause) (lossWord p) ∧
      (s.lossReady p cause).portState p.val = s.idleState p ∧
      (s.lossReady p cause).net.move = s.net.move := by
  obtain ⟨hshown, hk, hst, hnet⟩ := s.lossNoted_shown p cause
  let t := s.lossNoted p cause
  obtain ⟨hkw, hmove⟩ := t.doubleWait_keeps p
  let w := (t.doubleWait p).setState (pgNET p.val) (t.idleState p)
  have hkw' : t.Keeps w (lossWord p) := hkw.trans
    (State.wr_keeps _ _ _ _ (by decide) (.inl ⟨rfl, .inr (.inr (.inl rfl))⟩))
  obtain ⟨hkd, hnetd, hstd⟩ := w.discardQueued_keeps p
  have hidle : t.idleState p = s.idleState p :=
    State.idleState_of_words _ (hk.word _ _ (by decide) fun h => by
      rcases h with h | h | h
      · exact absurd h.2 (by decide)
      · exact pgNET_ne_root _ h.1
      · exact not_evWords_net _ _ h) (State.bit_of_word _ NET_STATUS_PCS_UP hst)
  have hroot : ∀ o, ¬ (pgNET p.val = pgNETroot ∧ o) := fun _ h => pgNET_ne_root _ h.1
  have hdw : ∀ o, o < 4096 → (t.doubleWait p).word (pgNET p.val) o = t.word (pgNET p.val) o := fun o ho => by
    unfold State.doubleWait
    split
    · split
      · exact (State.word_wr_ne _ _ _ _ NET_PATH_STAT_WAIT_S (by decide) ho (.inl (pgNET_ne_root _)) _).trans
          (State.word_of_regs t _ rfl rfl _ _)
      · rfl
    · rfl
  have hws : ∀ o, o < 4096 → o ≠ 0x010 → w.word (pgNET p.val) o = t.word (pgNET p.val) o := fun o ho h =>
    (State.word_wr_ne _ _ _ _ UNIT_STATUS_STATE (by decide) ho (.inr h) _).trans (hdw o ho)
  have hds : ∀ o, o < 4096 → o ≠ 0x060 → o ≠ 0x010 →
      (w.discardQueued p).word (pgNET p.val) o = w.word (pgNET p.val) o := fun o ho h h1 => by
    obtain ⟨hkv, -⟩ := State.discards_keep w.queuedFrames (w.draw.wr (pgNET p.val) NET_TXQ_FILL_BYTES 0)
    exact (hkv.word _ o ho (hroot _)).trans
      (State.word_wr_ne w.draw _ _ _ NET_TXQ_FILL_BYTES (by decide) ho (.inr h) 0)
  refine ⟨hshown.of_words ?_ ?_, (hk.trans hkw').trans hkd, ?_, ?_⟩
  · exact (hds _ (by decide) (by decide) (by decide)).trans (hws _ (by decide) (by decide))
  · exact (hds _ (by decide) (by decide) (by decide)).trans (hws _ (by decide) (by decide))
  · exact (State.portState_of_word _ hstd).trans ((State.setState_portState _ p _ (t.idleState_le p)).trans hidle)
  · rw [show (s.lossReady p cause).net = w.net from hnetd]
    have hw : w.net.move = (t.doubleWait p).net.move := rfl
    rw [hw, hmove, hnet]

/-- The other port has taken over. -/
def State.lossTaken (s : State) (p : Fin 2) (cause : LossCause) : State :=
  let t := (s.lossReady p cause).takeOver (otherPort p)
  if cause = .keepalive then t.wr pgNETroot NET_PATH_STAT_RIP_SILENT 1 else t

/-- What a loss that another port takes over shows: the lost port's counters and state, and the role. -/
structure State.LossTaken (s t : State) (p : Fin 2) (cause : LossCause) : Prop where
  shown : s.LossShown t p cause
  role : s.HasRole t (otherPort p) netWord
  idle : t.portState p.val = s.idleState p
  move : t.net.move = s.net.move

/-- `RIP_SILENT` takes none of it back. -/
theorem State.LossTaken.ripSilent {s t : State} {p : Fin 2} {cause : LossCause} (h : s.LossTaken t p cause) :
    s.LossTaken (t.wr pgNETroot NET_PATH_STAT_RIP_SILENT 1) p cause := by
  obtain ⟨hs, hr, hp, hm⟩ := h
  have hw : ∀ o, o < 4096 → (t.wr pgNETroot NET_PATH_STAT_RIP_SILENT 1).word (pgNET p.val) o =
      t.word (pgNET p.val) o := fun o ho =>
    State.word_wr_ne _ _ _ _ NET_PATH_STAT_RIP_SILENT (by decide) ho (.inl (pgNET_ne_root _)) 1
  have hkw : t.Keeps (t.wr pgNETroot NET_PATH_STAT_RIP_SILENT 1) (overlapWord p) :=
    t.wr_keeps _ _ _ (by decide) (.inl ⟨rfl, rfl⟩)
  have hact : (t.wr pgNETroot NET_PATH_STAT_RIP_SILENT 1).activeIs (otherPort p).val =
      t.activeIs (otherPort p).val := by
    unfold State.activeIs State.bit
    rw [State.rd_wr_apart t _ NET_PATH_STAT_RIP_SILENT NET_PATH_STAT_NO_PATH (by decide) (by decide) rfl
        (by decide),
      State.rd_wr_apart t _ NET_PATH_STAT_RIP_SILENT NET_PATH_STAT_ACTIVE (by decide) (by decide) rfl
        (by decide)]
  exact ⟨hs.of_words (hw _ (by decide)) (hw _ (by decide)), hr.restat (otherPort_ne p) hkw hact,
    (State.portState_of_word _ (hw _ (by decide))).trans hp, hm⟩

theorem State.lossReady_taken (p : Fin 2) (cause : LossCause) :
    s.LossTaken ((s.lossReady p cause).takeOver (otherPort p)) p cause := by
  obtain ⟨hshown, hk, hst, hmove⟩ := s.lossReady_shown p cause
  generalize s.lossReady p cause = v at hshown hk hst hmove
  have hrole := v.takeOver_hasRole (otherPort p)
  have hnet := v.takeOver_net (otherPort p)
  generalize v.takeOver (otherPort p) = t at hrole hnet
  have hold : ∀ o, o < 4096 → o ≠ 0x06C → o ≠ 0x070 → t.word (pgNET p.val) o = v.word (pgNET p.val) o :=
    fun o hlt h1 h2 => hrole.keeps.word _ o hlt (not_roleWord_net _ p o (otherPort_ne p).symm h1 h2)
  exact
    { shown := hshown.of_words (hold _ (by decide) (by decide) (by decide))
        (hold _ (by decide) (by decide) (by decide))
      role := (hrole.mono (roleWord_net _)).after hk (lossWord_net p)
        (not_lossWord_root p _ (by decide) (by decide) (by decide))
      idle := (State.portState_of_word _ (hold _ (by decide) (by decide) (by decide))).trans hst
      move := (congrArg Net.move hnet).trans hmove }

theorem State.lossTaken_shown (p : Fin 2) (cause : LossCause) : s.LossTaken (s.lossTaken p cause) p cause := by
  unfold State.lossTaken
  dsimp only
  split
  · exact (s.lossReady_taken p cause).ripSilent
  · exact s.lossReady_taken p cause

/-- The loss of the active path, outside an overlap. -/
theorem State.losePath_eq (p : Fin 2) (cause : LossCause) (hp : p.val = s.rd pgNETroot NET_PATH_STAT_ACTIVE)
    (ho : s.bit pgNETroot NET_PATH_STAT_OVERLAP = false) :
    s.losePath cause = if s.portState (otherPort p).val = 2 then s.noMove.lossTaken p cause
      else (s.noMove.lossNoted p cause).wr pgNETroot NET_PATH_STAT_NO_PATH 1 := by
  have hst : (s.noMove.lossNoted p cause).portState (otherPort p).val = s.portState (otherPort p).val :=
    State.portState_of_word _ ((s.noMove.lossNoted_shown p cause).2.1.word _ _ (by decide)
      (not_lossWord_other p _ _ (otherPort_ne p)))
  have he : s.losePath cause = (let q : Fin 2 := if s.endOverlap.noMove.rd pgNETroot NET_PATH_STAT_ACTIVE = 0 then 0 else 1
      if (s.endOverlap.noMove.lossNoted q cause).portState (otherPort q).val = 2 then
        s.endOverlap.noMove.lossTaken q cause
      else (s.endOverlap.noMove.lossNoted q cause).wr pgNETroot NET_PATH_STAT_NO_PATH 1) := rfl
  rw [he, s.endOverlap_none ho, active_port s.noMove p hp]
  dsimp only
  rw [hst]

/-- Whether a cause of loss can come about (R311, R313). -/
def State.lossMay (s : State) : LossCause → Bool
  | .keepalive => ([0, 1, 2, 3] : List (Fin 4)).any (fun i =>
      s.stmRunning i.val && (s.stmOf i).src == 0 && s.net.heard.get i) &&
        !s.bit pgNETroot NET_PATH_STAT_RIP_SILENT
  | .disabled => !s.bit (pgNET (s.rd pgNETroot NET_PATH_STAT_ACTIVE)) UNIT_CTRL_ENABLE
  | _ => true

theorem State.lossMay_true (cause : LossCause) (p : Fin 2) (hp : p.val = s.rd pgNETroot NET_PATH_STAT_ACTIVE)
    (hk : cause = .keepalive → s.bit pgNETroot NET_PATH_STAT_RIP_SILENT = false ∧
      ∃ i : Fin 4, s.stmRunning i.val = true ∧ (s.stmOf i).src = 0 ∧ s.net.heard.get i = true)
    (hd : cause = .disabled → s.bit (pgNET p.val) UNIT_CTRL_ENABLE = false) : s.lossMay cause = true := by
  cases cause with
  | los => rfl
  | pcs => rfl
  | keepalive =>
    obtain ⟨hrip, i, hi⟩ := hk rfl
    have hany : ([0, 1, 2, 3] : List (Fin 4)).any (fun i =>
        s.stmRunning i.val && (s.stmOf i).src == 0 && s.net.heard.get i) = true :=
      List.any_eq_true.mpr ⟨i, by fin_cases i <;> decide, by simp [hi]⟩
    exact Bool.and_eq_true_iff.mpr ⟨hany, by rw [hrip]; rfl⟩
  | disabled =>
    unfold State.lossMay
    rw [← hp, hd rfl]
    rfl

theorem State.exec_pathLoss (cause : LossCause) (p : Fin 2) (hn : s.levelOf .net = 2)
    (hp : p.val = s.rd pgNETroot NET_PATH_STAT_ACTIVE) (h0 : s.bit pgNETroot NET_PATH_STAT_NO_PATH = false)
    (hk : cause = .keepalive → s.bit pgNETroot NET_PATH_STAT_RIP_SILENT = false ∧
      ∃ i : Fin 4, s.stmRunning i.val = true ∧ (s.stmOf i).src = 0 ∧ s.net.heard.get i = true)
    (hd : cause = .disabled → s.bit (pgNET p.val) UNIT_CTRL_ENABLE = false) :
    exec (.pathLoss cause) s = .next (s.fresh.losePath cause) := by
  have hc : (s.netUp && !s.bit pgNETroot NET_PATH_STAT_NO_PATH && s.lossMay cause) = true := by
    rw [h0, s.lossMay_true cause p hp hk hd, State.netUp, hn]; rfl
  have he : exec (.pathLoss cause) s = .next (s.fresh.onlyIf
      (s.netUp && !s.bit pgNETroot NET_PATH_STAT_NO_PATH && s.lossMay cause) (fun t => t.losePath cause)) := by
    cases cause <;> rfl
  rw [he, State.onlyIf_true _ _ _ hc]

theorem State.noMove_keeps {but : Nat → Nat → Prop} : s.Keeps s.noMove but :=
  .of_regs _ (s.setNet_core _) rfl

theorem State.pathLoss_shows (cause : LossCause) (p : Fin 2) (hn : s.levelOf .net = 2)
    (hp : p.val = s.rd pgNETroot NET_PATH_STAT_ACTIVE) (h0 : s.bit pgNETroot NET_PATH_STAT_NO_PATH = false)
    (ho : s.bit pgNETroot NET_PATH_STAT_OVERLAP = false)
    (hk : cause = .keepalive → s.bit pgNETroot NET_PATH_STAT_RIP_SILENT = false ∧
      ∃ i : Fin 4, s.stmRunning i.val = true ∧ (s.stmOf i).src = 0 ∧ s.net.heard.get i = true)
    (hd : cause = .disabled → s.bit (pgNET p.val) UNIT_CTRL_ENABLE = false) :
    ∃ t, exec (.pathLoss cause) s = .next t ∧ t.rd (pgNET p.val) NET_PATH_CAUSE = causeNum cause ∧
      t.rd (pgNET p.val) NET_PATH_LOSSES = min (s.rd (pgNET p.val) NET_PATH_LOSSES + 1) 65535 ∧
      t.Raised (pgNET p.val) 1 ∧ s.Within t [pgNETroot, pgNET 0, pgNET 1, pgBST] ∧ t.net.move = none ∧
      (s.portState (otherPort p).val = 2 → s.TakesRole t (otherPort p) ∧ t.portState p.val = s.idleState p) ∧
      (s.portState (otherPort p).val ≠ 2 → t.bit pgNETroot NET_PATH_STAT_NO_PATH = true) := by
  let v := s.fresh.noMove
  have hv : s.Keeps v netWord := .of_regs _ ⟨rfl, rfl, rfl, rfl, rfl, rfl, rfl, rfl, rfl⟩ rfl
  have he := s.exec_pathLoss cause p hn hp h0 hk hd
  rw [s.fresh.losePath_eq p cause hp ho] at he
  by_cases h2 : s.portState (otherPort p).val = 2
  · obtain ⟨hs, hr, hst, hm⟩ := v.lossTaken_shown p cause
    rw [if_pos (show s.fresh.portState (otherPort p).val = 2 from h2)] at he
    have hrs : s.HasRole (v.lossTaken p cause) (otherPort p) netWord := ⟨hv.trans hr.keeps, hr.active, hr.shown,
      hr.raised, hr.counted⟩
    exact ⟨_, he, hs.cause, hs.losses, hs.raised, hrs.keeps.within, hm, fun _ => ⟨hrs.takesRole, hst⟩,
      fun h => absurd h2 h⟩
  · obtain ⟨hs, hkl, -, hnet⟩ := v.lossNoted_shown p cause
    rw [if_neg (show ¬ s.fresh.portState (otherPort p).val = 2 from h2)] at he
    let w := v.lossNoted p cause
    let t := w.wr pgNETroot NET_PATH_STAT_NO_PATH 1
    have hw : ∀ o, o < 4096 → t.word (pgNET p.val) o = w.word (pgNET p.val) o := fun o ho =>
      State.word_wr_ne _ _ _ _ NET_PATH_STAT_NO_PATH (by decide) ho (.inl (pgNET_ne_root _)) 1
    have ht : s.LossShown t p cause := by
      obtain ⟨hc, hl, hr⟩ := hs.of_words (hw _ (by decide)) (hw _ (by decide))
      exact ⟨hc, hl, hr⟩
    have hkt : s.Keeps t netWord := (hv.trans (hkl.mono (lossWord_net p))).trans
      (w.wr_keeps _ _ _ (by decide) (.inl (by simp)))
    exact ⟨t, he, ht.cause, ht.losses, ht.raised, hkt.within, congrArg Net.move hnet, fun h => absurd h h2,
      fun _ => w.bit_wrBit _ _ (by decide) true⟩

end Sys2Proof.Machine
end

section
/-! PROOFS. Returns, SWITCH, the ports' own state, wake frames and messages (R307, R314, R315, R327, R332,
R382). -/

namespace Sys2Proof.Machine

variable (s : State)

/-! ### Returns and SWITCH (R314, R315) -/

theorem State.moving_noMove_core (q : Fin 2) (auto : Bool) : s.SameCore (s.moving q auto).noMove :=
  (s.draw_core.trans (s.draw.setNet_core _)).trans (State.setNet_core _ _)

theorem State.moving_noMove_regs (q : Fin 2) (auto : Bool) : (s.moving q auto).noMove.regs = s.regs :=
  (State.setNet_regs _ _).trans (s.draw.setNet_regs _)

/-- The role moves at once. -/
theorem State.moveNow_returned (q : Fin 2) (auto : Bool)
    (ha : (otherPort q).val = s.rd pgNETroot NET_PATH_STAT_ACTIVE) :
    s.Returned ((s.moving q auto).noMove.moveNow q auto) q ∧
      (auto = true → ((s.moving q auto).noMove.moveNow q auto).net.returnedAt = some s.now) := by
  have hc := s.moving_noMove_core q auto
  have hregs := s.moving_noMove_regs q auto
  generalize (s.moving q auto).noMove = v at hc hregs
  have hs : s.Returned (v.returnTo q) q := .of_regs s
    (v.returnTo_returned q (ha.trans (State.rd_of_regs s v hc.part hregs _ _).symm)) hc hregs
  have hnow : (v.returnTo q).now = s.now := hs.role.keeps.core.now
  unfold State.moveNow
  dsimp only
  generalize v.returnTo q = t at hs hnow
  split
  · exact ⟨hs.after (t.setNet_core _) (t.setNet_regs _), fun _ => congrArg some hnow⟩
  · next h => exact ⟨hs, fun h' => absurd h' h⟩

/-- The move waits for the queued frames. -/
theorem State.moving_waits (q : Fin 2) (auto : Bool) :
    (s.moving q auto).net.move = some ⟨q, s.queuedFrames.length, auto⟩ ∧ s.SameMem (s.moving q auto) ∧
      s.SameRegs (s.moving q auto) (fun _ _ => False) ∧
      { s.moving q auto with net := s.net, free := s.free } = s :=
  ⟨rfl, .of_eq rfl rfl rfl, .of_eq _ rfl rfl rfl, rfl⟩

theorem State.exec_autoReturn (hn : s.levelOf .net = 2) (ha : s.bit pgNETroot NET_PATH_CFG_AUTO_RETURN = true)
    (h2 : s.portState s.primary.val = 2) (hact : s.activeIs (otherPort s.primary).val = true) :
    exec .autoReturn s = .next (s.fresh.startMove s.primary true) := by
  have hc : (s.netUp && s.bit pgNETroot NET_PATH_CFG_AUTO_RETURN && s.portState s.primary.val == 2 &&
      s.activeIs (otherPort s.primary).val) = true := by
    rw [State.netUp, hn, ha, h2, hact]; rfl
  exact congrArg Host.Outcome.next (State.onlyIf_true s.fresh _ _ hc)

theorem State.autoReturn_shows (hn : s.levelOf .net = 2) (ha : s.bit pgNETroot NET_PATH_CFG_AUTO_RETURN = true)
    (h2 : s.portState s.primary.val = 2) (hact : s.activeIs (otherPort s.primary).val = true)
    (hm : s.net.move = none) :
    (s.queuedFrames = [] → ∃ t, exec .autoReturn s = .next t ∧ s.ReturnsRole t s.primary ∧
      t.net.returnedAt = some s.now) ∧
    (s.queuedFrames ≠ [] → ∃ t, exec .autoReturn s = .next t ∧
      (t.net.move = some ⟨s.primary, s.queuedFrames.length, true⟩ ∧ s.SameMem t ∧
        s.SameRegs t (fun _ _ => False)) ∧ { t with net := s.net, free := s.free } = s.fresh) := by
  have he := s.exec_autoReturn hn ha h2 hact
  refine ⟨fun hq => ?_, fun hq => ?_⟩
  · obtain ⟨hr, ht⟩ := s.fresh.moveNow_returned s.primary true (s.rd_of_activeIs _ hact)
    rw [s.fresh.startMove_now s.primary true hm hq h2] at he
    exact ⟨_, he, hr.returnsRole, ht rfl⟩
  · obtain ⟨hmove, hmem, hregs, hrest⟩ := s.fresh.moving_waits s.primary true
    rw [s.fresh.startMove_waits s.primary true hm hq] at he
    exact ⟨_, he, ⟨hmove, hmem, hregs⟩, hrest⟩

/-! #### SWITCH -/

theorem State.taken_word (r : Req) (page code p o : Nat) : (s.taken r page code).word p o = s.word p o := by
  unfold State.taken
  rw [State.setResult_word, State.reached_word]

theorem State.taken_sameRegs (r : Req) (page code : Nat) : s.SameRegs (s.taken r page code) (fun _ _ => False) := by
  have h := (s.reached_sameRegs r page (fun _ _ => False)).trans (State.SameRegs.of_eq (fun _ _ => False)
    (State.setResult_part (s.reached r page) r page code ((s.reached r page).stateCode page) 0) (by simp) (by simp))
  exact h.mono fun _ _ h => h.elim id id

theorem State.taken_net_free (r : Req) (page code : Nat) :
    (s.taken r page code).net = s.net ∧ (s.taken r page code).free = s.free := by
  obtain ⟨x, h⟩ := s.reached_eq r page
  unfold State.taken
  rw [State.setResult_net, State.setResult_free, h]
  exact ⟨rfl, rfl⟩

theorem State.queuedFrames_of {t : State} (hw : ∀ p o, t.word p o = s.word p o) (hn : t.net = s.net)
    (hf : t.free = s.free) : t.queuedFrames = s.queuedFrames := by
  have hr : ∀ p f, t.rd p f = s.rd p f := fun p f => congrArg f.get (hw p f.off)
  have hb : ∀ p f, t.bit p f = s.bit p f := fun p f => State.bit_of_word p f (hw p f.off)
  unfold State.queuedFrames
  rw [hn, hf, hb, hr, hr]

/-- What refuses SWITCH. -/
def switchCauses (t : State) : List (Bool × Nat) :=
  let p : Fin 2 := if t.rd pgNETroot NET_PATH_STAT_ACTIVE = 0 then 0 else 1
  [(t.bit pgNETroot NET_PATH_STAT_NO_PATH || t.portState (otherPort p).val != 2, rcWRONG_STATE)]

theorem State.exec_switch (r : Req) (arg : BitVec 16) : exec (.switch r arg) s =
    .next (command r pgNETroot 0x0001 arg true false switchCauses (fun t =>
      t.startMove (otherPort (if t.rd pgNETroot NET_PATH_STAT_ACTIVE = 0 then 0 else 1)) false) s.fresh) := rfl

theorem State.switch_accepted (r : Req) (p : Fin 2) (h : s.Takes r pgNETroot)
    (hp : p.val = s.rd pgNETroot NET_PATH_STAT_ACTIVE) (h0 : s.bit pgNETroot NET_PATH_STAT_NO_PATH = false)
    (h2 : s.portState (otherPort p).val = 2) :
    exec (.switch r 0) s = .next ((s.taken r pgNETroot 1).startMove (otherPort p) false) := by
  have hact : ∀ t : State, t.rd pgNETroot NET_PATH_STAT_ACTIVE = s.rd pgNETroot NET_PATH_STAT_ACTIVE →
      (if t.rd pgNETroot NET_PATH_STAT_ACTIVE = 0 then (0 : Fin 2) else 1) = p := fun t ht =>
    active_port t p (hp.trans ht.symm)
  have hst : (s.reached r pgNETroot).portState (otherPort p).val = 2 := (State.reached_rd _ _ _ _ _).trans h2
  rw [s.exec_switch r 0, command_accepts _ _ _ _ _ _ _ _ _ h.reach h.idle (.inr h.live) (fun _ => rfl)]
  · rw [hact _ (s.taken_rd r pgNETroot 1 _ _)]
  · intro c hc
    unfold switchCauses at hc
    rw [hact _ (State.reached_rd _ _ _ _ _)] at hc
    dsimp only at hc
    rw [State.reached_bit, h0, hst] at hc
    simp only [List.mem_cons, List.not_mem_nil, or_false] at hc
    rw [hc]
    rfl

theorem State.switch_shows (r : Req) (p : Fin 2) (h : s.Takes r pgNETroot)
    (hp : p.val = s.rd pgNETroot NET_PATH_STAT_ACTIVE) (h0 : s.bit pgNETroot NET_PATH_STAT_NO_PATH = false)
    (h2 : s.portState (otherPort p).val = 2) (hm : s.net.move = none) :
    (s.queuedFrames = [] → ∃ t, exec (.switch r 0) s = .next t ∧ s.ReturnsRole t (otherPort p)) ∧
    (s.queuedFrames ≠ [] → ∃ t, exec (.switch r 0) s = .next t ∧
      (t.net.move = some ⟨otherPort p, s.queuedFrames.length, false⟩ ∧ s.SameMem t ∧
        s.SameRegs t (fun _ _ => False)) ∧
      { t with net := s.net, free := s.free } = s.taken r pgNETroot 1) := by
  have he := s.switch_accepted r p h hp h0 h2
  obtain ⟨hnet, hfree⟩ := s.taken_net_free r pgNETroot 1
  have hmem := s.taken_sameMem r pgNETroot 1
  have hregs := s.taken_sameRegs r pgNETroot 1
  have hw := s.taken_word r pgNETroot 1
  generalize s.taken r pgNETroot 1 = v at he hnet hfree hmem hregs hw
  have hq := s.queuedFrames_of hw hnet hfree
  have hvm : v.net.move = none := by rw [hnet, hm]
  have hv2 : v.portState (otherPort p).val = 2 := (State.portState_of_word _ (hw _ _)).trans h2
  have hact : (otherPort (otherPort p)).val = v.rd pgNETroot NET_PATH_STAT_ACTIVE := by
    rw [otherPort_other, hp]; exact (congrArg NET_PATH_STAT_ACTIVE.get (hw _ _)).symm
  refine ⟨fun hq0 => ?_, fun hq0 => ?_⟩
  · obtain ⟨hr, -⟩ := v.moveNow_returned (otherPort p) false hact
    rw [v.startMove_now _ false hvm (hq.trans hq0) hv2] at he
    exact ⟨_, he, hr.returnsRole.before hmem hregs⟩
  · obtain ⟨hmove, hmem', hregs', hrest⟩ := v.moving_waits (otherPort p) false
    rw [v.startMove_waits _ false hvm (by rw [hq]; exact hq0)] at he
    rw [hq] at hmove
    refine ⟨_, he, ⟨hmove, hmem.trans hmem', (hregs.trans hregs').mono fun _ _ h => h.elim id id⟩, ?_⟩
    rw [← hnet, ← hfree]
    exact hrest

/-! ### The overlap's end, and the wait (R314) -/

theorem State.overlapEnd_shows (p : Fin 2) (hn : s.levelOf .net = 2)
    (hp : p.val = s.rd pgNETroot NET_PATH_STAT_ACTIVE) (ho : s.bit pgNETroot NET_PATH_STAT_OVERLAP = true) :
    ∃ t, exec .overlapEnd s = .next t ∧ t.bit pgNETroot NET_PATH_STAT_OVERLAP = false ∧
      t.portState (otherPort p).val = (if s.portState (otherPort p).val = 3 then s.idleState (otherPort p)
        else s.portState (otherPort p).val) ∧ s.SameMem t ∧
      s.SameRegs t (fun q o => (q = pgNETroot ∧ o = 0x068) ∨ (q = pgNET (otherPort p).val ∧ o = 0x010)) ∧
      { t with regs := s.regs } = s.fresh := by
  have hup : s.netUp = true := by rw [State.netUp, hn]; rfl
  have he : exec .overlapEnd s = .next s.fresh.endOverlap :=
    congrArg Host.Outcome.next (State.onlyIf_true s.fresh _ _ hup)
  have hend := s.fresh.endOverlap_ended p hp ho
  exact ⟨_, he, hend.ended, hend.old, hend.keeps.sameMem, hend.keeps.sameRegs, hend.rest⟩

theorem State.returnWait_shows (hn : s.levelOf .net = 2) (ha : s.activeIs s.primary.val = true) :
    ∃ t, exec .returnWaitReset s = .next t ∧ t.rd pgNETroot NET_PATH_STAT_WAIT_S =
        min (max (s.rd pgNETroot NET_RETURN_S) 1) 640 ∧ t.net.doubled = false ∧ s.SameMem t ∧
      s.SameRegs t (fun q o => q = pgNETroot ∧ o = 0x068) ∧
      { t with regs := s.regs, net := s.net } = s.fresh := by
  let v : State := s.fresh.setNet { s.net with doubled := false }
  have hc : (s.netUp && s.activeIs s.primary.val) = true := by rw [ha, State.netUp, hn]; rfl
  have he : exec .returnWaitReset s = .next (v.wr pgNETroot NET_PATH_STAT_WAIT_S s.returnS) :=
    congrArg Host.Outcome.next (State.onlyIf_true s.fresh _ _ hc)
  have hv : s.SameRegs v (fun _ _ => False) := .of_eq _ rfl rfl rfl
  have hk : v.Keeps (v.wr pgNETroot NET_PATH_STAT_WAIT_S s.returnS) (fun q o => q = pgNETroot ∧ o = 0x068) :=
    v.wr_keeps _ _ _ (by decide) ⟨rfl, rfl⟩
  have hm : s.SameMem v := .of_eq rfl rfl rfl
  have hr := congrArg (fun x : State => x.setNet s.net) (v.wr_rest pgNETroot s.returnS NET_PATH_STAT_WAIT_S s.regs)
  refine ⟨_, he, ?_, rfl, hm.trans hk.sameMem, (hv.trans hk.sameRegs).mono fun _ _ h => h.elim False.elim id, hr⟩
  exact (v.rd_wr _ NET_PATH_STAT_WAIT_S (by decide) _).trans
    (Nat.mod_eq_of_lt (lt_of_le_of_lt (min_le_right _ _) (by decide)))

end Sys2Proof.Machine
end

section
/-! SUPPORT. Link and PCS of a port (R311, R332). -/

namespace Sys2Proof.Machine

variable {s t u : State}

variable (s)

/-! ### Link and PCS of a port (R332) -/


theorem State.port_updPort (p : Fin 2) (g : Port → Port) : (s.updPort p g).port p = g (s.port p) :=
  (Vector.getElem_set (xs := s.net.ports) p.isLt p.isLt).trans (if_pos rfl)

theorem State.setState_los (p : Fin 2) (code : Nat) :
    (s.setState (pgNET p.val) code).bit (pgNET p.val) NET_STATUS_LOS_NOW =
      s.bit (pgNET p.val) NET_STATUS_LOS_NOW :=
  s.bit_wr_apart _ UNIT_STATUS_STATE NET_STATUS_LOS_NOW (by decide) (by decide) rfl (by decide) code

theorem State.setState_port (page code : Nat) (p : Fin 2) : (s.setState page code).port p = s.port p := rfl

/-- Link and PCS as a port shows them. -/
def State.linkShown (s : State) (p : Fin 2) (up los : Bool) (since : Option Nat) : State :=
  ((s.wrBit (pgNET p.val) NET_STATUS_PCS_UP up).wrBit (pgNET p.val) NET_STATUS_LOS_NOW los).updPort p
    (fun x => { x with upAt := since })

/-- The words of a port's status. -/
def statusOf (p : Fin 2) (q o : Nat) : Prop := q = pgNET p.val ∧ o = 0x010

theorem State.updPort_rest (p : Fin 2) (g : Port → Port) : s.SameCore (s.updPort p g) ∧
    (s.updPort p g).regs = s.regs :=
  ⟨⟨rfl, rfl, rfl, rfl, rfl, rfl, rfl, rfl, rfl⟩, rfl⟩

theorem State.updPort_apart (p : Fin 2) (g : Port → Port) (r : Tbl Word) (n : Net) :
    { s.updPort p g with regs := r, net := n } = { s with regs := r, net := n } := rfl

theorem State.wr_apart (p v : Nat) (f : Fld) (r : Tbl Word) (n : Net) :
    { s.wr p f v with regs := r, net := n } = { s with regs := r, net := n } := rfl

theorem State.linkShown_bits (p : Fin 2) (up los : Bool) (since : Option Nat) :
    (s.linkShown p up los since).bit (pgNET p.val) NET_STATUS_PCS_UP = up ∧
      (s.linkShown p up los since).bit (pgNET p.val) NET_STATUS_LOS_NOW = los ∧
      (s.linkShown p up los since).portState p.val = s.portState p.val := by
  let v := (s.wrBit (pgNET p.val) NET_STATUS_PCS_UP up)
  let w := v.wrBit (pgNET p.val) NET_STATUS_LOS_NOW los
  obtain ⟨hc, hr⟩ := w.updPort_rest p (fun x => { x with upAt := since })
  have hw := fun q o => State.word_of_regs w (s.linkShown p up los since) hc.part hr q o
  refine ⟨?_, ?_, ?_⟩
  · refine (State.bit_of_word _ NET_STATUS_PCS_UP (hw _ _)).trans ?_
    exact (v.bit_wr_apart _ NET_STATUS_LOS_NOW NET_STATUS_PCS_UP (by decide) (by decide) rfl (by decide) _).trans
      (s.bit_wrBit _ _ (by decide) up)
  · exact (State.bit_of_word _ NET_STATUS_LOS_NOW (hw _ _)).trans (v.bit_wrBit _ _ (by decide) los)
  · refine (State.portState_of_word _ (hw _ _)).trans ?_
    exact (v.rd_wr_apart _ NET_STATUS_LOS_NOW UNIT_STATUS_STATE (by decide) (by decide) rfl (by decide) _).trans
      (s.rd_wr_apart _ NET_STATUS_PCS_UP UNIT_STATUS_STATE (by decide) (by decide) rfl (by decide) _)

theorem State.linkShown_keeps (p : Fin 2) (up los : Bool) (since : Option Nat) :
    s.Keeps (s.linkShown p up los since) (statusOf p) ∧
      { s.linkShown p up los since with regs := s.regs, net := s.net } = s ∧
      ((s.linkShown p up los since).port p).upAt = since := by
  let v := (s.wrBit (pgNET p.val) NET_STATUS_PCS_UP up)
  let w := v.wrBit (pgNET p.val) NET_STATUS_LOS_NOW los
  obtain ⟨hc, hr⟩ := w.updPort_rest p (fun x => { x with upAt := since })
  have hkv : s.Keeps v (statusOf p) := s.wr_keeps _ _ NET_STATUS_PCS_UP (by decide) ⟨rfl, rfl⟩
  have hkw : v.Keeps w (statusOf p) := v.wr_keeps _ _ NET_STATUS_LOS_NOW (by decide) ⟨rfl, rfl⟩
  refine ⟨(hkv.trans hkw).trans (.of_regs _ hc hr), ?_,
    congrArg Port.upAt (w.port_updPort p (fun x => { x with upAt := since }))⟩
  exact (w.updPort_apart p _ s.regs s.net).trans ((v.wr_apart _ _ NET_STATUS_LOS_NOW s.regs s.net).trans
    (s.wr_apart _ _ NET_STATUS_PCS_UP s.regs s.net))

theorem State.exec_portLinkUp (p : Fin 2) (hn : s.levelOf .net = 2)
    (he : s.bit (pgNET p.val) UNIT_CTRL_ENABLE = true) (h4 : s.portState p.val ≠ 4)
    (hl : s.pllLocked (12 + p.val) = true) (hf : s.follyOn (pgNET p.val) 1 = false) :
    exec (.portLinkUp p) s = .next (let t := s.fresh.linkShown p true false (some s.now)
      if t.portState p.val = 1 then t.setState (pgNET p.val) 2 else t) := by
  have hst : (s.portState p.val != 4) = true := bne_iff_ne.mpr h4
  have hc : ((s.netUp && s.bit (pgNET p.val) UNIT_CTRL_ENABLE && s.portState p.val != 4 ||
      s.listening p.val && s.levelOf .net != 0) && s.pllLocked (12 + p.val) && !s.follyOn (pgNET p.val) 1) =
      true := by
    rw [State.netUp, hn, he, hst, hl, hf]; rfl
  exact congrArg Host.Outcome.next (State.onlyIf_true s.fresh _ _ hc)

theorem State.portLinkUp_shows (p : Fin 2) (hn : s.levelOf .net = 2)
    (he : s.bit (pgNET p.val) UNIT_CTRL_ENABLE = true) (h4 : s.portState p.val ≠ 4)
    (hl : s.pllLocked (12 + p.val) = true) (hf : s.follyOn (pgNET p.val) 1 = false) :
    ∃ t, exec (.portLinkUp p) s = .next t ∧ t.bit (pgNET p.val) NET_STATUS_PCS_UP = true ∧
      t.bit (pgNET p.val) NET_STATUS_LOS_NOW = false ∧ (t.port p).upAt = some s.now ∧
      t.portState p.val = (if s.portState p.val = 1 then 2 else s.portState p.val) ∧ s.SameMem t ∧
      s.SameRegs t (fun q o => q = pgNET p.val ∧ o = 0x010) ∧
      { t with regs := s.regs, net := s.net } = s.fresh := by
  obtain ⟨hpcs, hlos, hst⟩ := s.fresh.linkShown_bits p true false (some s.now)
  obtain ⟨hk, hrest, hup⟩ := s.fresh.linkShown_keeps p true false (some s.now)
  have hex := s.exec_portLinkUp p hn he h4 hl hf
  refine ⟨_, hex, ?_⟩
  generalize s.fresh.linkShown p true false (some s.now) = v at hpcs hlos hst hk hrest hup
  dsimp only
  rw [hst]
  have hs : s.fresh.portState p.val = s.portState p.val := rfl
  rw [hs]
  split
  · have hk' : v.Keeps (v.setState (pgNET p.val) 2) (statusOf p) :=
      v.wr_keeps _ _ UNIT_STATUS_STATE (by decide) ⟨rfl, rfl⟩
    exact ⟨(v.setState_pcsUp p p 2).trans hpcs, (v.setState_los p 2).trans hlos,
      (congrArg Port.upAt (v.setState_port _ 2 p)).trans hup,
      v.setState_portState p 2 (by decide), (hk.trans hk').sameMem, (hk.trans hk').sameRegs,
      (v.wr_apart _ _ UNIT_STATUS_STATE s.regs s.net).trans hrest⟩
  · exact ⟨hpcs, hlos, hup, hst, hk.sameMem, hk.sameRegs, hrest⟩

/-! #### Link-down -/

/-- A port that was STANDBY is so no longer. -/
def State.standDown (s : State) (p : Fin 2) : State :=
  if s.portState p.val = 2 then s.setState (pgNET p.val) 1 else s

/-- A lost link, counted, before its event is raised. -/
def State.linkLost (s : State) (p : Fin 2) (los : Bool) : State :=
  ((s.linkShown p false los none).incSat (pgNET p.val) NET_LINK_DOWNS).standDown p

theorem State.portDark_lost (p : Fin 2) (los : Bool)
    (h : ((s.netUp || (s.listening p.val && s.levelOf .net != 0)) && s.bit (pgNET p.val) NET_STATUS_PCS_UP) = true) :
    s.portDark p los = (s.linkLost p los).raise (pgNET p.val) 0 := by
  unfold State.portDark
  rw [State.onlyIf_true _ _ _ h]
  rfl

theorem State.exec_portLinkDown (p : Fin 2) (los : Bool) (hn : s.levelOf .net = 2)
    (hp : s.bit (pgNET p.val) NET_STATUS_PCS_UP = true) :
    exec (.portLinkDown p los) s = .next ((s.fresh.linkLost p los).raise (pgNET p.val) 0) := by
  have hc : ((s.netUp || (s.listening p.val && s.levelOf .net != 0)) &&
      s.bit (pgNET p.val) NET_STATUS_PCS_UP) = true := by
    rw [State.netUp, hn, hp]; rfl
  exact congrArg Host.Outcome.next (s.fresh.portDark_lost p los hc)

/-- The words of a lost link. -/
def downWord (p : Fin 2) (q o : Nat) : Prop := q = pgNET p.val ∧ (o = 0x010 ∨ o = 0x090)

theorem State.linkLost_shows (p : Fin 2) (los : Bool) :
    (s.linkLost p los).bit (pgNET p.val) NET_STATUS_PCS_UP = false ∧
      (s.linkLost p los).bit (pgNET p.val) NET_STATUS_LOS_NOW = los ∧
      (s.linkLost p los).portState p.val = (if s.portState p.val = 2 then 1 else s.portState p.val) ∧
      (s.linkLost p los).rd (pgNET p.val) NET_LINK_DOWNS =
        min (s.rd (pgNET p.val) NET_LINK_DOWNS + 1) 65535 ∧ s.Keeps (s.linkLost p los) (downWord p) := by
  obtain ⟨hpcs, hlos, hst⟩ := s.linkShown_bits p false los none
  obtain ⟨hk, -, -⟩ := s.linkShown_keeps p false los none
  have hdown : (s.linkShown p false los none).rd (pgNET p.val) NET_LINK_DOWNS = s.rd (pgNET p.val) NET_LINK_DOWNS :=
    hk.rd _ _ (by decide) fun h => absurd h.2 (by decide)
  unfold State.linkLost
  rw [State.incSat_eq, State.addSat_eq, hdown]
  generalize s.linkShown p false los none = v at hpcs hlos hst hk
  have hmax : 2 ^ NET_LINK_DOWNS.width - 1 = 65535 := by decide
  rw [hmax]
  let w := v.wr (pgNET p.val) NET_LINK_DOWNS (min (s.rd (pgNET p.val) NET_LINK_DOWNS + 1) 65535)
  have hw : w.word (pgNET p.val) 0x010 = v.word (pgNET p.val) 0x010 :=
    State.word_wr_ne _ _ _ _ NET_LINK_DOWNS (by decide) (by decide) (.inr (by decide)) _
  have hcount : w.rd (pgNET p.val) NET_LINK_DOWNS = min (s.rd (pgNET p.val) NET_LINK_DOWNS + 1) 65535 :=
    (v.rd_wr _ _ (by decide) _).trans (Nat.mod_eq_of_lt (lt_of_le_of_lt (min_le_right _ _) (by decide)))
  have hkw : s.Keeps w (downWord p) := (hk.mono fun q o h => ⟨h.1, .inl h.2⟩).trans
    (v.wr_keeps _ _ NET_LINK_DOWNS (by decide) ⟨rfl, .inr rfl⟩)
  have hpcsW : w.bit (pgNET p.val) NET_STATUS_PCS_UP = false := (State.bit_of_word _ NET_STATUS_PCS_UP hw).trans hpcs
  have hlosW : w.bit (pgNET p.val) NET_STATUS_LOS_NOW = los := (State.bit_of_word _ NET_STATUS_LOS_NOW hw).trans hlos
  have hstW : w.portState p.val = s.portState p.val := (State.portState_of_word _ hw).trans hst
  have hstand : w.standDown p = if s.portState p.val = 2 then w.setState (pgNET p.val) 1 else w := by
    unfold State.standDown; rw [hstW]
  rw [show v.wr (pgNET p.val) NET_LINK_DOWNS (min (s.rd (pgNET p.val) NET_LINK_DOWNS + 1) 65535) = w from rfl,
    hstand]
  split
  · refine ⟨(w.setState_pcsUp p p 1).trans hpcsW, (w.setState_los p 1).trans hlosW,
      w.setState_portState p 1 (by decide), ?_, hkw.trans (w.wr_keeps _ _ UNIT_STATUS_STATE (by decide) ⟨rfl, .inl rfl⟩)⟩
    exact (w.rd_wr_ne _ _ UNIT_STATUS_STATE NET_LINK_DOWNS (by decide) (by decide) (.inr (by decide)) 1).trans hcount
  · exact ⟨hpcsW, hlosW, hstW, hcount, hkw⟩

theorem State.portLinkDown_shows (p : Fin 2) (los : Bool) (hn : s.levelOf .net = 2)
    (hp : s.bit (pgNET p.val) NET_STATUS_PCS_UP = true) :
    ∃ t, exec (.portLinkDown p los) s = .next t ∧ t.bit (pgNET p.val) NET_STATUS_PCS_UP = false ∧
      t.bit (pgNET p.val) NET_STATUS_LOS_NOW = los ∧
      t.portState p.val = (if s.portState p.val = 2 then 1 else s.portState p.val) ∧ t.Raised (pgNET p.val) 0 ∧
      t.rd (pgNET p.val) NET_LINK_DOWNS = min (s.rd (pgNET p.val) NET_LINK_DOWNS + 1) 65535 ∧ s.SameMem t ∧
      s.SameRegs t (fun q o => (q = pgNET p.val ∧ (o = 0x010 ∨ o = 0x090)) ∨ evWords (pgNET p.val) q o) := by
  obtain ⟨hpcs, hlos, hst, hcount, hk⟩ := s.fresh.linkLost_shows p los
  have hex := s.exec_portLinkDown p los hn hp
  generalize s.fresh.linkLost p los = v at hpcs hlos hst hcount hk hex
  have hr : v.Raises (v.raise (pgNET p.val) 0) (evWords (pgNET p.val)) :=
    v.raise_raises _ 0 (.inl ⟨rfl, rfl⟩) (evWords_gbk _)
  have hn : ∀ o, o ≠ 0x014 → o ≠ 0x050 → ¬ evWords (pgNET p.val) (pgNET p.val) o := fun o => not_evWords _ _ o
  have hw := hr.word (pgNET p.val) 0x010 (by decide) (hn _ (by decide) (by decide))
  exact ⟨_, hex, (State.bit_of_word _ NET_STATUS_PCS_UP hw).trans hpcs,
    (State.bit_of_word _ NET_STATUS_LOS_NOW hw).trans hlos, (State.portState_of_word _ hw).trans hst,
    v.raise_net_raised p 0 (by decide), (hr.keeps.rd _ _ (by decide) (hn _ (by decide) (by decide))).trans hcount,
    hk.sameMem.trans hr.keeps.sameMem, hk.sameRegs.trans hr.keeps.sameRegs⟩


end Sys2Proof.Machine
end

section
/-! SUPPORT. ENABLE of a port (R59, R307). -/

namespace Sys2Proof.Machine

variable {s t u : State}

variable (s)

/-! ### ENABLE of a port (R59, R307) -/

theorem State.Reacts.net (h : s.Reacts t) : t.net = s.net := (congrArg State.net h.rest :)

theorem State.Clocks.net (h : s.Clocks t) : t.net = s.net := (congrArg State.net h.rest :)

theorem State.Clocks.act (h : s.Clocks t) : t.act = s.act := (congrArg State.act h.rest :)

theorem State.stopPll_clocks (n : Nat) (hn : n < 15) : s.Clocks (s.stopPll n) :=
  ((s.setPll_clocks n _).trans (State.wr_clocks _ _ (pllLocked_sound n hn) 0)).trans
    (State.wr_clocks _ _ (pllBypass_sound n hn) 1)

theorem State.laneClocks_clocks : s.Clocks s.laneClocks := by
  refine .foldl _ _ (fun t n hn => ?_) s
  have hn15 : n < 15 := by
    simp only [List.mem_cons, List.not_mem_nil, or_false] at hn; omega
  dsimp only
  split
  · exact t.startPll_clocks n hn15
  · split
    · exact t.stopPll_clocks n hn15
    · exact .refl t

/-- A port as ENABLE finds it: in its mode, its link not up yet. -/
def Port.enabled (mode : Nat) (x : Port) : Port := { x with mode := mode, upAt := none }

/-- What ENABLE makes of a port before its clocks follow. -/
def State.portEnabled (s : State) (p : Fin 2) : State :=
  let mode := s.rd (pgNET p.val) NET_PORT_CFG_MODE
  ((s.wr (pgNET p.val) UNIT_CTRL_ENABLE 1).updPort p (Port.enabled mode)).setState
    (pgNET p.val) (if s.rd pgCLK (CLK_PLL_CFG_TARGET (12 + p.val)) = (if mode = 3 then 1 else 0) then 1 else 4)

theorem State.portOn_eq (p : Fin 2) : s.portOn p = (s.portEnabled p).laneClocks := rfl

theorem State.portEnabled_shows (p : Fin 2) :
    (s.portEnabled p).bit (pgNET p.val) UNIT_CTRL_ENABLE = true ∧
      ((s.portEnabled p).port p).mode = s.rd (pgNET p.val) NET_PORT_CFG_MODE ∧
      (s.portEnabled p).portState p.val = (if s.rd pgCLK (CLK_PLL_CFG_TARGET (12 + p.val)) =
        (if s.rd (pgNET p.val) NET_PORT_CFG_MODE = 3 then 1 else 0) then 1 else 4) ∧
      s.Keeps (s.portEnabled p) (fun q o => q = pgNET p.val ∧ (o = 0x00C ∨ o = 0x010)) := by
  have henable : (s.wr (pgNET p.val) UNIT_CTRL_ENABLE 1).bit (pgNET p.val) UNIT_CTRL_ENABLE = true :=
    s.bit_wrBit (pgNET p.val) UNIT_CTRL_ENABLE (by decide) true
  have hkv : s.Keeps (s.wr (pgNET p.val) UNIT_CTRL_ENABLE 1) (fun q o => q = pgNET p.val ∧ (o = 0x00C ∨ o = 0x010)) :=
    s.wr_keeps _ _ UNIT_CTRL_ENABLE (by decide) ⟨rfl, .inl rfl⟩
  have hcode : ∀ q : Prop, [Decidable q] → (if q then 1 else 4 : Nat) < 2 ^ UNIT_STATUS_STATE.width := fun q _ => by
    split <;> decide
  unfold State.portEnabled
  dsimp only
  generalize s.wr (pgNET p.val) UNIT_CTRL_ENABLE 1 = v at henable hkv
  have hmode := congrArg Port.mode (v.port_updPort p (Port.enabled (s.rd (pgNET p.val) NET_PORT_CFG_MODE)))
  obtain ⟨hc, hr⟩ := v.updPort_rest p (Port.enabled (s.rd (pgNET p.val) NET_PORT_CFG_MODE))
  generalize v.updPort p (Port.enabled (s.rd (pgNET p.val) NET_PORT_CFG_MODE)) = w at hmode hc hr
  have hbit := (State.bit_of_word (pgNET p.val) UNIT_CTRL_ENABLE (State.word_of_regs v w hc.part hr _ _)).trans henable
  refine ⟨?_, (congrArg Port.mode (w.setState_port _ _ p)).trans hmode, w.setState_portState p _ (hcode _), ?_⟩
  · exact (w.bit_wr_ne _ _ UNIT_STATUS_STATE UNIT_CTRL_ENABLE (by decide) (by decide) (.inr (by decide)) _).trans hbit
  · exact (hkv.trans (.of_regs _ hc hr)).trans (w.wr_keeps _ _ UNIT_STATUS_STATE (by decide) ⟨rfl, .inr rfl⟩)

theorem not_reactWord_net (part : Part) (p : Fin 2) (o : Nat) : ¬ reactWord part (pgNET p.val) o := by
  refine not_reactWord _ _ _ ?_ (pgNET_ne_gbk _) ?_
  · unfold pgNET pgPWR; omega
  · cases part <;> fin_cases p <;> decide

theorem reactWord_powerWord (q o : Nat) (h : reactWord s.part q o) : s.powerWord q o := by
  have hpwr : kindOf s.part pgPWR = some .pwr := by cases s.part <;> rfl
  rcases h with h | h | h
  · refine .inl ?_
    have hk : s.kind q = some .pwr := by rw [h.1]; exact hpwr
    rw [hk]; decide
  · refine .inl ?_
    have hk : s.kind q = kindOf s.part q := rfl
    rw [hk]
    exact List.mem_cons_of_mem _ h
  · exact .inr h

theorem State.exec_netPortEnable (r : Req) (p : Fin 2) (ho : s.open r (pgNET p.val) = true)
    (he : s.bit (pgNET p.val) UNIT_CTRL_ENABLE = false) : exec (.netPortEnable r p) s =
    .next ((s.reached r (pgNET p.val)).revote (fun u => u.portOn p)) := by
  have hex : exec (.netPortEnable r p) s = .next (s.fresh.access r (pgNET p.val) 0x00C (fun t =>
      if t.bit (pgNET p.val) UNIT_CTRL_ENABLE then t else t.revote (fun u => u.portOn p))) := rfl
  rw [hex, State.access_fresh_open _ _ _ _ _ ho, State.reached_bit, he]
  rfl

theorem State.netPortEnable_shows (p : Fin 2) (r : Req) (ho : s.open r (pgNET p.val) = true)
    (he : s.bit (pgNET p.val) UNIT_CTRL_ENABLE = false) :
    ∃ t, exec (.netPortEnable r p) s = .next t ∧ t.bit (pgNET p.val) UNIT_CTRL_ENABLE = true ∧
      (t.port p).mode = s.rd (pgNET p.val) NET_PORT_CFG_MODE ∧ s.SameMem t ∧
      t.portState p.val = (if s.rd pgCLK (CLK_PLL_CFG_TARGET (12 + p.val)) =
        (if s.rd (pgNET p.val) NET_PORT_CFG_MODE = 3 then 1 else 0) then 1 else 4) ∧
      s.SameRegs t (fun q o => (q = pgNET p.val ∧ (o = 0x00C ∨ o = 0x010)) ∨ q = pgCLK ∨ s.powerWord q o) := by
  have hex := s.exec_netPortEnable r p ho he
  have hword := s.reached_word r (pgNET p.val)
  have hmem := s.reached_sameMem r (pgNET p.val)
  have hregs := s.reached_sameRegs r (pgNET p.val) (fun _ _ => False)
  have hpart := s.reached_part r (pgNET p.val)
  generalize s.reached r (pgNET p.val) = v at hex hword hmem hregs hpart
  have hrd : ∀ q f, v.rd q f = s.rd q f := fun q f => congrArg f.get (hword q f.off)
  obtain ⟨hbit, hmode, hst, hk⟩ := v.portEnabled_shows p
  have hc := (v.portEnabled p).laneClocks_clocks
  have hr := v.revote_reacts (fun u => u.portOn p)
  have hpo : (v.portOn p) = (v.portEnabled p).laneClocks := v.portOn_eq p
  generalize v.revote (fun u => u.portOn p) = t at hr hex
  rw [hpo] at hr
  have hpartc : (v.portEnabled p).laneClocks.part = s.part := hc.part.trans (hk.core.part.trans hpart)
  generalize (v.portEnabled p).laneClocks = w at hc hr hpartc
  have hnet : t.net = (v.portEnabled p).net :=
    hr.net.trans hc.net
  have hpg : ∀ o, o < 4096 → t.word (pgNET p.val) o = (v.portEnabled p).word (pgNET p.val) o := fun o ho =>
    (hr.word _ o ho (not_reactWord_net _ p o)).trans (hc.word _ o ho (pgNET_ne p.val))
  have hport : t.port p = (v.portEnabled p).port p := by unfold State.port; rw [hnet]
  rw [hrd] at hmode
  rw [hrd, hrd] at hst
  refine ⟨t, hex, (State.bit_of_word _ UNIT_CTRL_ENABLE (hpg _ (by decide))).trans hbit, ?_, ?_,
    (State.portState_of_word _ (hpg _ (by decide))).trans hst, ⟨fun q o ho hn => ?_, fun q o => ?_⟩⟩
  · rw [hport, hmode]
  · exact ((hmem.trans hk.sameMem).trans hc.sameMem).trans hr.sameMem
  · rw [not_or, not_or] at hn
    obtain ⟨h1, h2, h3⟩ := hn
    have hreact : ¬ reactWord w.part q o := fun h => h3 (reactWord_powerWord s q o (by rw [← hpartc]; exact h))
    exact (hr.word q o ho hreact).trans ((hc.word q o ho h2).trans ((hk.word q o ho h1).trans (hword q o)))
  · have hact : t.act = (v.portEnabled p).act := hr.act.trans hc.act
    have hpt : t.part = (v.portEnabled p).part := hr.part.trans hc.part
    exact (State.actWord_of_act _ t hpt hact q o).trans ((hk.sameRegs.2 q o).trans (hregs.2 q o))


end Sys2Proof.Machine
end

section
/-! SUPPORT. Wake frames (R327) and pending messages (R382). -/

namespace Sys2Proof.Machine

variable {s t u : State}

variable (s)

/-! ### Wake frames (R327) -/

theorem State.wakeFrame_ignored (frame : List Byte) (h : s.isWake frame = false) :
    exec (.wakeFrameMatch frame) s = .next s.fresh := by
  have hc : (s.listening (s.rd pgNETroot NET_WAKE_PORT) && s.levelOf .net != 0 &&
      s.bit (pgNET (s.rd pgNETroot NET_WAKE_PORT)) NET_STATUS_PCS_UP && s.isWake frame) = false := by
    rw [h, Bool.and_false]
  exact congrArg Host.Outcome.next (State.onlyIf_false s.fresh _ _ hc)

theorem State.exec_wakeFrame (frame : List Byte) (hl : s.listening (s.rd pgNETroot NET_WAKE_PORT) = true)
    (hn : s.levelOf .net ≠ 0) (hp : s.bit (pgNET (s.rd pgNETroot NET_WAKE_PORT)) NET_STATUS_PCS_UP = true)
    (hw : s.isWake frame = true) : exec (.wakeFrameMatch frame) s = .next (if s.asleep then
      (s.fresh.wr pgPWR PWR_WAKE_CAUSE_WAKE_FRAME 1).wake else s.fresh.wr pgNETroot NET_WAKE_SEEN 1) := by
  have hc : (s.listening (s.rd pgNETroot NET_WAKE_PORT) && s.levelOf .net != 0 &&
      s.bit (pgNET (s.rd pgNETroot NET_WAKE_PORT)) NET_STATUS_PCS_UP && s.isWake frame) = true := by
    rw [hl, hp, hw, bne_iff_ne.mpr hn]; rfl
  exact congrArg Host.Outcome.next (State.onlyIf_true s.fresh _ _ hc)

/-- The vote levels of a wake (R91). -/
def State.wakeLevels (s : State) : State :=
  (s.wr pgPWR (PWR_VOTE_LEVEL 0) (s.rd pgPWR PWR_WAKE_VOTE_LEVEL)).wr pgPWR (PWR_VOTE_LEVEL 1) 0x2AAA

/-- A wake that is under way. -/
def State.wakePends (t : State) : State :=
  { t with aon := { t.aon with wakePending := true, railEn := t.aon.railEn || t.aon.railTimeout,
                               pcieWakeLow := t.aon.pcieWakeLow || !t.aon.perst }
           pwr := { t.pwr with gkpSys := 2 } }

theorem State.wakePends_sameMem : s.SameMem s.wakePends := .of_eq rfl rfl rfl

theorem State.wakePends_part : s.wakePends.part = s.part := rfl

theorem State.wakePends_regs : s.wakePends.regs = s.regs := rfl

theorem State.wakePends_pending : s.wakePends.aon.wakePending = true := rfl

theorem State.wake_eq : s.wake = s.revote (fun t => t.wakeLevels.wakePends) := by
  unfold State.wake State.wakeBy State.wakePends State.wakeLevels
  dsimp only [id]

theorem State.wake_reacts : s.wakeLevels.wakePends.Reacts s.wake := by
  rw [s.wake_eq]
  exact s.revote_reacts (fun t => t.wakeLevels.wakePends)

theorem State.wakeLevels_shows : s.wakeLevels.rd pgPWR (PWR_VOTE_LEVEL 0) = s.rd pgPWR PWR_WAKE_VOTE_LEVEL ∧
    s.wakeLevels.word pgPWR 0x06C = s.word pgPWR 0x06C ∧ s.SameMem s.wakeLevels := by
  unfold State.wakeLevels
  have hlt : s.rd pgPWR PWR_WAKE_VOTE_LEVEL < 2 ^ 14 := Nat.mod_lt _ (by decide)
  let v := s.wr pgPWR (PWR_VOTE_LEVEL 0) (s.rd pgPWR PWR_WAKE_VOTE_LEVEL)
  refine ⟨?_, ?_, (s.wr_sameMem _ _ _).trans (v.wr_sameMem _ _ _)⟩
  · rw [v.rd_wr_ne _ _ (PWR_VOTE_LEVEL 1) (PWR_VOTE_LEVEL 0) (by decide) (by decide) (.inr (by decide)),
      s.rd_wr _ _ (by decide)]
    exact Nat.mod_eq_of_lt hlt
  · rw [State.word_wr_ne v _ _ _ (PWR_VOTE_LEVEL 1) (by decide) (by decide) (.inr (by decide)),
      State.word_wr_ne s _ _ _ (PWR_VOTE_LEVEL 0) (by decide) (by decide) (.inr (by decide))]

theorem State.wakeVotes_shows : s.wakeLevels.wakePends.rd pgPWR (PWR_VOTE_LEVEL 0) = s.rd pgPWR PWR_WAKE_VOTE_LEVEL ∧
    s.wakeLevels.wakePends.word pgPWR 0x06C = s.word pgPWR 0x06C ∧ s.SameMem s.wakeLevels.wakePends := by
  obtain ⟨hrd, hword, hmem⟩ := s.wakeLevels_shows
  generalize s.wakeLevels = v at hrd hword hmem
  have hw := fun q o => State.word_of_regs v v.wakePends v.wakePends_part v.wakePends_regs q o
  exact ⟨(congrArg (PWR_VOTE_LEVEL 0).get (hw _ _)).trans hrd, (hw _ _).trans hword,
    hmem.trans v.wakePends_sameMem⟩

theorem not_reactWord_pwr (part : Part) (o : Nat) (h1 : o ≠ 0x014) (h2 : o ≠ 0x074) :
    ¬ reactWord part pgPWR o := by
  rintro (h | h | h)
  · exact h.2.elim h1 h2
  · revert h; cases part <;> decide
  · exact absurd (h.elim And.left And.left) (by decide)

theorem State.wakeFrame_wakes (frame : List Byte) (hl : s.listening (s.rd pgNETroot NET_WAKE_PORT) = true)
    (hn : s.levelOf .net ≠ 0) (hp : s.bit (pgNET (s.rd pgNETroot NET_WAKE_PORT)) NET_STATUS_PCS_UP = true)
    (hw : s.isWake frame = true) :
    (s.asleep = true → ∃ t, exec (.wakeFrameMatch frame) s = .next t ∧
      (t.aon.wakePending = true ∨ t.Raised pgPWR 1) ∧ t.bit pgPWR PWR_WAKE_CAUSE_WAKE_FRAME = true ∧
      t.rd pgPWR (PWR_VOTE_LEVEL 0) = s.rd pgPWR PWR_WAKE_VOTE_LEVEL ∧ s.SameMem t) ∧
    (s.asleep = false → ∃ t, exec (.wakeFrameMatch frame) s = .next t ∧
      t.bit pgNETroot NET_WAKE_SEEN = true ∧ s.SameMem t ∧
      s.SameRegs t (fun q o => q = pgNETroot ∧ o = 0x070) ∧ { t with regs := s.regs } = s.fresh) := by
  have hex := s.exec_wakeFrame frame hl hn hp hw
  refine ⟨fun ha => ?_, fun ha => ?_⟩
  · rw [ha] at hex
    let v := s.fresh.wr pgPWR PWR_WAKE_CAUSE_WAKE_FRAME 1
    have hcause : v.bit pgPWR PWR_WAKE_CAUSE_WAKE_FRAME = true := s.fresh.bit_wrBit _ _ (by decide) true
    have hvote : v.rd pgPWR PWR_WAKE_VOTE_LEVEL = s.rd pgPWR PWR_WAKE_VOTE_LEVEL :=
      s.fresh.rd_wr_ne _ _ PWR_WAKE_CAUSE_WAKE_FRAME _ (by decide) (by decide) (.inr (by decide)) 1
    have hmem : s.SameMem v := s.fresh.wr_sameMem _ _ _
    have hex' : exec (.wakeFrameMatch frame) s = .next v.wake := hex
    clear_value v
    have hr := v.wake_reacts
    obtain ⟨hlevel, hword, hm⟩ := v.wakeVotes_shows
    refine ⟨_, hex', hr.woken (.inl v.wakeLevels.wakePends_pending), ?_, ?_, (hmem.trans hm).trans hr.sameMem⟩
    · rw [hr.bit pgPWR _ (by decide) (not_reactWord_pwr _ _ (by decide) (by decide)),
        State.bit_of_word pgPWR PWR_WAKE_CAUSE_WAKE_FRAME hword, hcause]
    · rw [hr.rd pgPWR _ (by decide) (not_reactWord_pwr _ _ (by decide) (by decide)), hlevel, hvote]
  · rw [ha] at hex
    have hk : s.fresh.Keeps (s.fresh.wr pgNETroot NET_WAKE_SEEN 1) (fun q o => q = pgNETroot ∧ o = 0x070) :=
      s.fresh.wr_keeps _ _ _ (by decide) ⟨rfl, rfl⟩
    exact ⟨_, hex, s.fresh.bit_wrBit _ _ (by decide) true, hk.sameMem, hk.sameRegs,
      s.fresh.wr_rest _ _ NET_WAKE_SEEN s.regs⟩

/-! ### Messages (R382) -/

theorem State.msix_due (v : Fin 40) (hd : s.pcie.due.contains v.val = true) (hm : s.vecMasked 0 v.val = false)
    (hs : s.mayMessage 0 = true) : ∃ t, exec (.msixMessage v) s = .next t ∧
      t.emitted = [.msix 0 v.val (s.pcie.entries.lookup (0, v.val))] ∧
      t.pcie.due = s.pcie.due.filter (· != v.val) ∧ { t with pcie := s.pcie, emitted := [] } = s.fresh := by
  have hc : (s.pcie.due.contains v.val && !s.vecMasked 0 v.val && s.mayMessage 0) = true := by
    rw [hd, hm, hs]; rfl
  exact ⟨_, congrArg Host.Outcome.next (State.onlyIf_true s.fresh _ _ hc), rfl, rfl, rfl⟩


end Sys2Proof.Machine
end

section
/-! PROOFS. The network's paths (R307-R332). -/

namespace Sys2Proof.Machine

/-- Settles O49: the checks of the path end in the rules of a role that is taken, returned or waited for; what a
port, a wake frame and a message show is each a rule of its own. -/
theorem networkPaths : Obligations.NetworkPaths := fun s =>
  ⟨fun hn => ⟨s.pathCheck_picks hn, fun cause p hp h0 ho hk hd => s.pathLoss_shows cause p hn hp h0 ho hk hd,
      s.autoReturn_shows hn, fun p => s.overlapEnd_shows p hn, s.returnWait_shows hn⟩,
    s.switch_shows,
    fun p => ⟨fun r => s.netPortEnable_shows p r, s.portLinkUp_shows p, s.portLinkDown_shows p⟩,
    s.wakeFrame_ignored, s.wakeFrame_wakes, s.msix_due⟩

end Sys2Proof.Machine
end

section
/-! SUPPORT. What decides the levels of the domains (R76, R77), and what leaves it alone. -/

namespace Sys2Proof.Machine

variable {s t u : State}

/-! ### What the levels are read from -/

/-- The pages whose units vote by their `ENABLE`. -/
def votePages : List Nat :=
  [pgSDL, pgCAM 0, pgCAM 1, pgCAM 2, pgCAM 3, pgCAM 4, pgCAM 5, pgNET 0, pgNET 1, pgAXIS 0, pgAXIS 1,
   pgAXIS 2, pgAXIS 3, pgFNT]

/-- The words that the votes are read from. -/
def voteWord (p o : Nat) : Prop :=
  (p ∈ votePages ∧ o = 0x00C) ∨ (p = pgPWR ∧ (o = 0x040 ∨ o = 0x044)) ∨ (p = pgNETroot ∧ o = 0x070)

/-- Every other word. -/
def unitWord (p o : Nat) : Prop := ¬ voteWord p o

/-- The Groundskeeper's vote on SYS as it counts (R80), and the retry of MEM's drop (R86). -/
def Pwr.held (x : Pwr) : Nat × Bool × Bool := (x.gkpSys, x.gkpHalted, x.memRetry)

theorem Pwr.gkpHalted_of_held {x y : Pwr} (h : x.held = y.held) : x.gkpHalted = y.gkpHalted :=
  congrArg (fun z : Nat × Bool × Bool => z.2.1) h

theorem Pwr.memRetry_of_held {x y : Pwr} (h : x.held = y.held) : x.memRetry = y.memRetry :=
  congrArg (fun z : Nat × Bool × Bool => z.2.2) h

/-- What decides the levels stands. -/
structure State.Asks (s t : State) : Prop where
  part : t.part = s.part
  perst : t.aon.perst = s.aon.perst
  held : t.pwr.held = s.pwr.held
  word : ∀ p o, voteWord p o → t.word p o = s.word p o

theorem unitWord_of (p o : Nat) (h : o ≠ 0x00C) (hp : p ≠ pgPWR) (hr : p ≠ pgNETroot ∨ o ≠ 0x070) :
    unitWord p o := by
  rintro (hv | hv | hv)
  · exact h hv.2
  · exact hp hv.1
  · exact hr.elim (fun h => h hv.1) (fun h => h hv.2)

theorem voteWord_lt (p o : Nat) (h : voteWord p o) : o < 4096 := by
  unfold voteWord at h; omega

theorem unitWord_gbk (p o : Nat) (h : evWords pgGBK p o) : unitWord p o := by
  have hp : p = pgGBK := h.elim And.left And.left
  have ho : o ≠ 0x00C := by
    have e : GBK_DROPPED_N.off = 0x050 := rfl
    rcases h with h | h
    · omega
    · rw [e] at h; omega
  exact unitWord_of p o ho (by rw [hp]; decide) (.inl (by rw [hp]; decide))

theorem voteWord_not_react (part : Part) (p o : Nat) (h : voteWord p o) : ¬ reactWord part p o := by
  have hpages : ∀ p ∈ votePages ++ [pgPWR, pgNETroot],
      kindOf part p ∉ [some Kind.tb, some .fir, some .firRoot] ∧ p ≠ pgGBK := by
    cases part <;> decide
  have hp : p ∈ votePages ++ [pgPWR, pgNETroot] := by
    rcases h with h | h | h <;> simp [h.1]
  obtain ⟨hkind, hgbk⟩ := hpages p hp
  rintro (hr | hr | hr)
  · rcases h with h | h | h
    · exact absurd (hr.1 ▸ h.1) (by decide)
    · omega
    · exact absurd (h.1.symm.trans hr.1) (by decide)
  · exact hkind hr
  · exact hgbk (hr.elim And.left And.left)

theorem State.Asks.refl (s : State) : s.Asks s := ⟨rfl, rfl, rfl, fun _ _ _ => rfl⟩

theorem State.Asks.trans (h : s.Asks t) (h' : t.Asks u) : s.Asks u where
  part := h'.part.trans h.part
  perst := h'.perst.trans h.perst
  held := h'.held.trans h.held
  word p o hv := (h'.word p o hv).trans (h.word p o hv)

theorem State.Reacts.asks (h : s.Reacts t) (hh : t.pwr.held = s.pwr.held) : s.Asks t where
  part := h.part
  perst := h.perst
  held := hh
  word p o hv := h.word p o (voteWord_lt p o hv) (voteWord_not_react s.part p o hv)

/-! ### The levels -/

theorem State.Asks.rd (h : s.Asks t) (p : Nat) (f : Fld) (hv : voteWord p f.off) : t.rd p f = s.rd p f :=
  congrArg f.get (h.word p f.off hv)

theorem State.Asks.bit (h : s.Asks t) (p : Nat) (f : Fld) (hv : voteWord p f.off) : t.bit p f = s.bit p f :=
  State.bit_of_word p f (h.word p f.off hv)

theorem State.Asks.enabled (h : s.Asks t) (p : Nat) (hp : p ∈ votePages) :
    t.bit p UNIT_CTRL_ENABLE = s.bit p UNIT_CTRL_ENABLE := h.bit p UNIT_CTRL_ENABLE (.inl ⟨hp, rfl⟩)

theorem State.Asks.anyEnabled (h : s.Asks t) (n : Nat) (pg : Nat → Nat) (hp : ∀ i < n, pg i ∈ votePages) :
    (List.range n).any (fun i => t.bit (pg i) UNIT_CTRL_ENABLE) =
      (List.range n).any (fun i => s.bit (pg i) UNIT_CTRL_ENABLE) := by
  rw [Bool.eq_iff_iff, List.any_eq_true, List.any_eq_true]
  refine exists_congr fun i => and_congr_right fun hi => ?_
  rw [h.enabled _ (hp i (List.mem_range.mp hi))]

theorem axes_vote (part : Part) : ∀ a < part.axes, pgAXIS a ∈ votePages := by cases part <;> decide

theorem cams_vote (part : Part) : ∀ k < part.cams, pgCAM k ∈ votePages := by cases part <;> decide

theorem State.Asks.vote (h : s.Asks t) (client d : Nat) : t.vote client d = s.vote client d := by
  have h0 := h.rd pgPWR (PWR_VOTE_LEVEL 0) (.inr (.inl ⟨rfl, .inl rfl⟩))
  have h1 := h.rd pgPWR (PWR_VOTE_LEVEL 1) (.inr (.inl ⟨rfl, .inr rfl⟩))
  have hwake := h.bit pgNETroot NET_WAKE_EN (.inr (.inr ⟨rfl, rfl⟩))
  have hsys : t.pwr.gkpSys = s.pwr.gkpSys := congrArg Prod.fst h.held
  have hhalt : t.pwr.gkpHalted = s.pwr.gkpHalted := Pwr.gkpHalted_of_held h.held
  have haxes := h.anyEnabled s.part.axes pgAXIS (axes_vote s.part)
  have hcams := h.anyEnabled s.part.cams pgCAM (cams_vote s.part)
  unfold State.vote
  rw [h.part, h0, h1, hwake, hsys, hhalt, haxes, hcams, h.enabled pgFNT (by decide),
    h.enabled (pgNET 0) (by decide), h.enabled (pgNET 1) (by decide), h.enabled pgSDL (by decide)]

theorem State.Asks.eff (h : s.Asks t) (d : Nat) : t.eff d = s.eff d := by
  have hreq : ∀ d, t.requested d = s.requested d := fun d => by
    unfold State.requested; rw [h.part]; simp only [h.vote]
  unfold State.eff
  simp only [hreq, h.perst]

end Sys2Proof.Machine
end

section
/-! SUPPORT. The phases of the domains as the sequencer reacts (R83, R84): it leaves a domain whose phase follows
its level. -/

namespace Sys2Proof.Machine

variable {s t u : State}

/-- A domain is up where its level asks for it, and is not where it does not. -/
def State.Follows (s : State) (d : Fin 7) : Prop := s.phase d = .up ↔ s.eff d.val ≠ 0

/-- Neither a domain's phase nor what the sequencer holds of the votes differs. -/
structure State.Steady (s t : State) : Prop where
  doms : t.pwr.doms = s.pwr.doms
  held : t.pwr.held = s.pwr.held

theorem State.Steady.of_pwr (h : t.pwr = s.pwr) : s.Steady t := ⟨by rw [h], by rw [h]⟩

theorem State.Steady.trans (h : s.Steady t) (h' : t.Steady u) : s.Steady u :=
  ⟨h'.doms.trans h.doms, h'.held.trans h.held⟩

theorem State.phase_of_doms (h : t.pwr.doms = s.pwr.doms) (d : Fin 7) : t.phase d = s.phase d := by
  unfold State.phase; rw [h]

theorem State.Follows.of_asks {d : Fin 7} (h : s.Follows d) (ha : s.Asks t) (hp : t.phase d = s.phase d) :
    t.Follows d := by
  unfold State.Follows at *; rw [hp, ha.eff]; exact h

variable (s)

theorem State.setPhase_phase (d e : Fin 7) (p : DomPhase) :
    (s.setPhase d p).phase e = if e = d then p else s.phase e := by
  refine (Vector.getElem_set (xs := s.pwr.doms) d.isLt e.isLt).trans ?_
  by_cases h : e = d
  · rw [h, if_pos rfl, if_pos rfl]
  · rw [if_neg fun he => h (Fin.ext he.symm), if_neg h]; rfl

theorem State.setPhase_self (d : Fin 7) (p : DomPhase) : (s.setPhase d p).phase d = p :=
  (s.setPhase_phase d d p).trans (if_pos rfl)

theorem State.setPhase_held (d : Fin 7) (p : DomPhase) : (s.setPhase d p).pwr.held = s.pwr.held := rfl

theorem State.setPhase_asks (d : Fin 7) (p : DomPhase) : s.Asks (s.setPhase d p) :=
  (s.setPhase_reacts d p).asks rfl

/-! ### Drops that are given up (R84) -/

theorem State.backUp_phase (d e : Fin 7) : (s.backUp d).phase e = if e = d then .up else s.phase e := by
  have h : (s.backUp d).pwr.doms = (s.setPhase d .up).pwr.doms := by
    unfold State.backUp
    dsimp only
    split
    · rfl
    · split <;> rfl
  rw [State.phase_of_doms h, s.setPhase_phase]

theorem State.backUp_held (d : Fin 7) : (s.backUp d).pwr.held = s.pwr.held := by
  unfold State.backUp
  dsimp only
  split
  · rfl
  · split <;> rfl

theorem State.abortDrop_held (d : Fin 7) : (s.abortDrop d).pwr.held = s.pwr.held := by
  unfold State.abortDrop
  split
  · rfl
  · split
    · rw [State.raise_pwr, s.backUp_held]
    · rw [State.raise_pwr, s.backUp_held]
    · rw [State.raise_pwr, s.setPhase_held]
    · rfl

theorem State.abortDrop_asks (d : Fin 7) : s.Asks (s.abortDrop d) :=
  (s.abortDrop_reacts d).asks (s.abortDrop_held d)

/-- A drop is given up by its own domain, and only where its level has risen. -/
theorem State.abortDrop_phase (d e : Fin 7) (h : s.Follows e) : (s.abortDrop d).phase e = s.phase e := by
  have hraise : ∀ v : State, (v.raise pgPWR 2).phase e = v.phase e := fun v =>
    State.phase_of_doms (by rw [State.raise_pwr]) e
  unfold State.abortDrop
  split
  · rfl
  · next heff =>
    by_cases he : e = d
    · subst he
      rw [h.mpr heff]
      exact h.mpr heff
    · split
      · rw [hraise, s.backUp_phase, if_neg he]
      · rw [hraise, s.backUp_phase, if_neg he]
      · rw [hraise, s.setPhase_phase, if_neg he]
      · rfl

/-- The domains whose drop is given up, before the sequencer looks for the next to move. -/
def State.aborted (s : State) (l : List (Fin 7)) : State := l.foldl State.abortDrop s

theorem State.aborted_asks (l : List (Fin 7)) : s.Asks (s.aborted l) := by
  induction l generalizing s with
  | nil => exact .refl s
  | cons d l ih => exact (s.abortDrop_asks d).trans (ih (s.abortDrop d))

theorem State.aborted_phase (l : List (Fin 7)) (e : Fin 7) (h : s.Follows e) :
    (s.aborted l).phase e = s.phase e := by
  induction l generalizing s with
  | nil => rfl
  | cons d l ih =>
    have hd := s.abortDrop_phase d e h
    exact (ih (s.abortDrop d) (h.of_asks (s.abortDrop_asks d) hd)).trans hd

/-! ### The next domain that moves (R83) -/

/-- After the drops that are given up, at most one domain begins to rise or to drop. -/
theorem State.react_cases : s.react = s.aborted dropOrder ∨
    (∃ e, (s.aborted dropOrder).phase e = .down ∧ (s.aborted dropOrder).eff e.val ≠ 0 ∧
      s.react = { (s.aborted dropOrder).setPhase e .supplying with
                  aon := { (s.aborted dropOrder).aon with railEn := true } }) ∨
    ∃ e, (s.aborted dropOrder).phase e = .up ∧ (s.aborted dropOrder).eff e.val = 0 ∧
      s.react = (s.aborted dropOrder).beginDrop e := by
  unfold State.react State.aborted
  generalize dropOrder.foldl State.abortDrop s = t
  dsimp only
  split
  · exact .inl rfl
  · split
    · next e he =>
      have hfound := List.find?_some he
      rw [Bool.and_eq_true, beq_iff_eq, decide_eq_true_eq] at hfound
      exact .inr (.inl ⟨e, hfound.1, hfound.2, rfl⟩)
    · split
      · next e he =>
        have hfound := List.find?_some he
        rw [Bool.and_eq_true, beq_iff_eq, decide_eq_true_eq] at hfound
        split
        · exact .inl rfl
        · exact .inr (.inr ⟨e, hfound.1, hfound.2, rfl⟩)
      · exact .inl rfl

theorem State.beginDrop_doms (d : Fin 7) : (s.beginDrop d).pwr.doms = (s.setPhase d .quiescing).pwr.doms := by
  unfold State.beginDrop
  dsimp only
  split <;> rfl

theorem State.beginDrop_held (d : Fin 7) : (s.beginDrop d).pwr.held = s.pwr.held := by
  unfold State.beginDrop
  dsimp only
  split <;> rfl

theorem State.react_held : s.react.pwr.held = s.pwr.held := by
  have ht := (s.aborted_asks dropOrder).held
  have hc := s.react_cases
  generalize s.aborted dropOrder = t at ht hc
  rcases hc with h | ⟨e, -, -, h⟩ | ⟨e, -, -, h⟩
  · rw [h, ht]
  · rw [h]; exact ht
  · rw [h, State.beginDrop_held, ht]

/-- The sequencer leaves a domain whose phase follows its level. -/
theorem State.react_phase (d : Fin 7) (hf : s.Follows d) : s.react.phase d = s.phase d := by
  have hp := s.aborted_phase dropOrder d hf
  have hft : (s.aborted dropOrder).Follows d := hf.of_asks (s.aborted_asks dropOrder) hp
  have hc := s.react_cases
  generalize s.aborted dropOrder = t at hp hft hc
  rcases hc with h | ⟨e, hdown, heff, h⟩ | ⟨e, hup, heff, h⟩
  · rw [h, hp]
  · have hne : d ≠ e := fun he => by
      subst he
      exact absurd ((hft.mpr heff).symm.trans hdown) (by decide)
    rw [h]
    refine (t.setPhase_phase e d .supplying).trans ?_
    rw [if_neg hne, hp]
  · have hne : d ≠ e := fun he => by
      subst he
      exact hft.mp hup heff
    rw [h, State.phase_of_doms (State.beginDrop_doms _ e), State.setPhase_phase, if_neg hne, hp]

/-! ### What goes with a reaction -/

theorem State.gbkFlushLate_pwr : s.gbkFlushLate.pwr = s.pwr :=
  (s.gbkFlushLate_raises (but := evWords pgGBK) fun _ _ h => h).core.pwr

theorem State.sysBack_pwr : s.sysBack.pwr = s.pwr := by
  have hraise : (({ s with wrd := { s.wrd with kickAt := s.now } } : State).gbkFlushLate.raise pgPWR 0).pwr =
      s.pwr := (State.raise_pwr _ pgPWR 0).trans (State.gbkFlushLate_pwr _)
  have hrail : ∀ t : State, t.pwr = s.pwr → (if t.aon.railTimeout then
      ({ t with aon := { t.aon with railTimeout := false } } : State).raise pgPWR 3 else t).pwr = s.pwr :=
    fun t ht => by
      split
      · rw [State.raise_pwr]; exact ht
      · exact ht
  unfold State.sysBack
  refine hrail _ ?_
  split
  · rw [State.raiseD_pwr]; exact hraise
  · exact hraise

theorem State.sysFollow_steady : s.Steady s.sysFollow := by
  unfold State.sysFollow
  split
  · exact (⟨rfl, rfl⟩ : s.Steady { s with pwr := { s.pwr with sysLow := false } }).trans
      (.of_pwr (State.sysBack_pwr _))
  · exact ⟨rfl, rfl⟩

theorem State.netBack_steady (before : State) : s.Steady (before.netBack s) :=
  .of_pwr (s.netBack_raises before).core.pwr

theorem State.printBack_steady (before : State) : s.Steady (before.printBack s) :=
  .of_pwr (s.printBack_raises before).core.pwr

theorem State.domainUp_steady (d : Fin 7) : (s.backUp d).Steady (s.domainUp d) :=
  ((State.netBack_steady _ s).trans (State.printBack_steady _ s)).trans (State.sysFollow_steady _)

theorem State.domainUp_phase (d : Fin 7) : (s.domainUp d).phase d = .up := by
  rw [State.phase_of_doms (s.domainUp_steady d).doms, s.backUp_phase, if_pos rfl]

theorem State.domainUp_asks (d : Fin 7) : s.Asks (s.domainUp d) :=
  (s.domainUp_reacts d).asks ((s.domainUp_steady d).held.trans (s.backUp_held d))

/-- After what changed a vote, the sequencer reacts once start-up has ended; what else goes with it moves no
domain. -/
theorem State.revote_steady (f : State → State) :
    (if (f s).ready then (f s).react else f s).Steady (s.revote f) := by
  generalize hv : (if (f s).ready then (f s).react else f s) = v
  have hlevels : v.Steady (s.printBack (s.netBack v)) := (v.netBack_steady s).trans (State.printBack_steady _ s)
  have htell : ∀ (c : Prop) [Decidable c] (t : State), v.Steady t →
      v.Steady (if c then t.raise pgPWR 0 else t) := fun c _ t ht => by
    split
    · exact ht.trans (.of_pwr (t.raise_pwr pgPWR 0))
    · exact ht
  have hfollow : ∀ t : State, v.Steady t → v.Steady (if t.ready then t.sysFollow else t) := fun t ht => by
    split
    · exact ht.trans t.sysFollow_steady
    · exact ht
  have hpatrol : ∀ (c : Prop) [Decidable c] (t : State), v.Steady t →
      v.Steady (if c then t.patrolEntry else t) := fun c _ t ht => by
    split
    · exact ht.trans ⟨rfl, rfl⟩
    · exact ht
  subst hv
  exact hpatrol _ _ (hfollow _ (htell _ _ hlevels))

theorem State.revote_held (f : State → State) : (s.revote f).pwr.held = (f s).pwr.held := by
  rw [(s.revote_steady f).held]
  split
  · exact (f s).react_held
  · rfl

theorem State.revote_phase (f : State → State) (d : Fin 7) (h : (f s).Follows d) :
    (s.revote f).phase d = (f s).phase d := by
  rw [State.phase_of_doms (s.revote_steady f).doms]
  split
  · exact (f s).react_phase d h
  · rfl

end Sys2Proof.Machine
end

section
/-! PROOFS. Votes and their writers (R76, R80, R92). -/

namespace Sys2Proof.Machine

variable {s t u : State}

theorem unit_pwr (part : Part) : unitOf part pgPWR = some (.pwr, 0) := by cases part <;> rfl

theorem kindOf_pwr (part : Part) : kindOf part pgPWR = some .pwr := by cases part <;> rfl

theorem State.powerWord_pwr (s : State) (o : Nat) : s.powerWord pgPWR o :=
  .inl (by rw [show s.kind pgPWR = some .pwr from kindOf_pwr s.part]; decide)

theorem voteLevel_sound (c : Nat) (hc : c < 7) : (PWR_VOTE_LEVEL c).Sound := by
  simp only [Fld.Sound, PWR_VOTE_LEVEL]; omega

/-- No vote is among the words that a reaction changes. -/
theorem State.Reacts.voteLevel (h : s.Reacts t) (c : Nat) (hc : c < 7) :
    t.rd pgPWR (PWR_VOTE_LEVEL c) = s.rd pgPWR (PWR_VOTE_LEVEL c) :=
  h.rd pgPWR _ (voteLevel_sound c hc).2.2
    (not_reactWord_pwr _ _ (by simp only [PWR_VOTE_LEVEL]; omega) (by simp only [PWR_VOTE_LEVEL]; omega))

theorem State.Reacts.powerRegs (h : s.Reacts t) : s.SameRegs t s.powerWord :=
  ⟨fun p o ho hn => h.word p o ho fun hr => hn (reactWord_powerWord s p o hr),
    fun p o => State.actWord_of_act s t h.part h.act p o⟩

variable (s)

/-! ### A vote by its own client -/

/-- The state with a vote stored, before the sequencer reacts. -/
def State.voteStored (s : State) (client level : Nat) : State :=
  let t := s.wr pgPWR (PWR_VOTE_LEVEL client) level
  if client = 1 then
    { t with pwr := { t.pwr with gkpSys := max t.pwr.gkpSys (sysVote level), gkpHalted := false } }
  else t

theorem State.setVote_eq (client level : Nat) :
    s.setVote client level = s.revote (fun t => t.voteStored client level) := rfl

/-- Storing a vote writes one register, and else touches the sequencer alone. -/
theorem State.voteStored_eq (client level : Nat) : ∃ x, s.voteStored client level =
    { s.wr pgPWR (PWR_VOTE_LEVEL client) level with pwr := x } := by
  unfold State.voteStored
  dsimp only
  split
  · exact ⟨_, rfl⟩
  · exact ⟨s.pwr, rfl⟩

theorem State.voteStored_shows (c : Nat) (hc : c < 7) (level : BitVec 14) :
    (s.voteStored c level.toNat).rd pgPWR (PWR_VOTE_LEVEL c) = level.toNat ∧
      (∀ d < 7, d ≠ c → (s.voteStored c level.toNat).rd pgPWR (PWR_VOTE_LEVEL d) =
        s.rd pgPWR (PWR_VOTE_LEVEL d)) ∧
      s.SameMem (s.voteStored c level.toNat) ∧ s.SameRegs (s.voteStored c level.toNat) s.powerWord := by
  obtain ⟨x, h⟩ := s.voteStored_eq c level.toNat
  have hs := voteLevel_sound c hc
  rw [h]
  refine ⟨?_, fun d hd hne => ?_, .of_eq rfl rfl rfl, (s.wr_sameRegs pgPWR _ hs _).mono ?_⟩
  · exact (s.rd_wr pgPWR _ hs _).trans (Nat.mod_eq_of_lt level.isLt)
  · exact s.rd_wr_ne pgPWR pgPWR _ _ hs (voteLevel_sound d hd)
      (.inr (by simp only [PWR_VOTE_LEVEL]; omega)) _
  · rintro p o ⟨rfl, -⟩
    exact s.powerWord_pwr o

theorem State.powerWord_of_part (h : t.part = s.part) : t.powerWord = s.powerWord := by
  unfold State.powerWord State.kind; rw [h]

theorem State.setVote_shows (c : Fin 7) (level : BitVec 14) :
    (s.setVote c.val level.toNat).rd pgPWR (PWR_VOTE_LEVEL c.val) = level.toNat ∧
      (∀ d : Fin 7, d ≠ c → (s.setVote c.val level.toNat).rd pgPWR (PWR_VOTE_LEVEL d.val) =
        s.rd pgPWR (PWR_VOTE_LEVEL d.val)) ∧
      s.SameMem (s.setVote c.val level.toNat) ∧ s.SameRegs (s.setVote c.val level.toNat) s.powerWord := by
  obtain ⟨hown, hothers, hmem, hregs⟩ := s.voteStored_shows c.val c.isLt level
  have hpart : (s.voteStored c.val level.toNat).part = s.part := by
    obtain ⟨x, h⟩ := s.voteStored_eq c.val level.toNat
    rw [h]; rfl
  have hr := s.revote_reacts (fun t => t.voteStored c.val level.toNat)
  rw [s.setVote_eq]
  generalize s.revote (fun t => t.voteStored c.val level.toNat) = t at hr
  refine ⟨(hr.voteLevel _ c.isLt).trans hown, fun d hd => ?_, hmem.trans hr.sameMem, ?_⟩
  · exact (hr.voteLevel _ d.isLt).trans (hothers d.val d.isLt fun e => hd (Fin.ext e))
  · have hp := hr.powerRegs
    rw [s.powerWord_of_part hpart] at hp
    exact (hregs.trans hp).mono fun _ _ h => h.elim id id

theorem State.exec_voteWrite (r : Req) (client : Fin 7) (level : BitVec 14) (ho : s.open r pgPWR = true) :
    exec (.voteWrite r client level) s = .next (if client.val = reqNum r then
      (s.reached r pgPWR).setVote client.val level.toNat
      else (s.reached r pgPWR).dropWrite r pgPWR (0x040 + 4 * client.val)) := by
  have he : exec (.voteWrite r client level) s = .next (s.fresh.access r pgPWR (0x040 + 4 * client.val)
      (fun t => if client.val = reqNum r then t.setVote client.val level.toNat
        else t.dropWrite r pgPWR (0x040 + 4 * client.val))) := rfl
  rw [he, State.access_fresh_open _ _ _ _ _ ho]

theorem State.voteWrite_own (r : Req) (client : Fin 7) (level : BitVec 14) (ho : s.open r pgPWR = true)
    (hc : client.val = reqNum r) : ∃ t, exec (.voteWrite r client level) s = .next t ∧
      t.rd pgPWR (PWR_VOTE_LEVEL client.val) = level.toNat ∧
      (∀ c : Fin 7, c ≠ client → t.rd pgPWR (PWR_VOTE_LEVEL c.val) = s.rd pgPWR (PWR_VOTE_LEVEL c.val)) ∧
      s.SameMem t ∧ s.SameRegs t s.powerWord := by
  have he := s.exec_voteWrite r client level ho
  rw [if_pos hc] at he
  obtain ⟨hown, hothers, hmem, hregs⟩ := (s.reached r pgPWR).setVote_shows client level
  rw [s.powerWord_of_part (s.reached_part r pgPWR)] at hregs
  refine ⟨_, he, hown, fun c hne => ?_, (s.reached_sameMem r pgPWR).trans hmem,
    ((s.reached_sameRegs r pgPWR s.powerWord).trans hregs).mono fun _ _ h => h.elim id id⟩
  rw [hothers c hne, State.reached_rd]

/-! ### A vote by another requester -/

/-- A write of a vote's word is a write of that vote. -/
theorem State.wordWrite_voteWord (r : Req) (u c : Nat) (hc : c < 7) (v : Word) :
    s.wordWrite r .pwr u pgPWR (0x040 + 4 * c) v = s.voteWrite r c v := by
  interval_cases c <;> rfl

theorem State.flows_pwr : s.flows pgPWR = true := by
  unfold State.flows State.unit; rw [unit_pwr]

theorem State.indexHeld_pwr (off : Nat) : s.indexHeld pgPWR off = false := by
  unfold State.indexHeld State.unit; rw [unit_pwr]

theorem State.regWrite_vote (r : Req) (c : Fin 7) (off : BitVec 12) (v : Word) (ho : s.open r pgPWR = true)
    (hoff : off.toNat = 0x040 + 4 * c.val) : exec (.registerWrite r (BitVec.ofNat 12 pgPWR) off 0xF v) s =
    .next ((s.reached r pgPWR).voteWrite r c.val v) := by
  have hword : off.toNat / 4 * 4 = 0x040 + 4 * c.val := by omega
  refine (s.regWrite_reaches r (BitVec.ofNat 12 pgPWR) off v .pwr 0 ho s.flows_pwr (unit_pwr s.part) (by omega)
    (s.indexHeld_pwr _)).trans ?_
  rw [hword]
  exact congrArg _ (State.wordWrite_voteWord _ r 0 c.val c.isLt v)

theorem State.voteWrite_other (r : Req) (client : Fin 7) (level : BitVec 14) (ho : s.open r pgPWR = true)
    (hc : client.val ≠ reqNum r) :
    (∃ t, exec (.voteWrite r client level) s = .next t ∧ s.Dropped t r pgPWR) ∧
    ∀ (off : BitVec 12) (v : Word), off.toNat = 0x040 + 4 * client.val →
      ∃ t, exec (.registerWrite r (BitVec.ofNat 12 pgPWR) off 0xF v) s = .next t ∧ s.Dropped t r pgPWR := by
  have hdrop := s.dropWrite_dropped r pgPWR (0x040 + 4 * client.val)
  refine ⟨⟨_, s.exec_voteWrite r client level ho, by rw [if_neg hc]; exact hdrop⟩, fun off v hoff => ?_⟩
  refine ⟨_, s.regWrite_vote r client off v ho hoff, ?_⟩
  rw [State.voteWrite, if_neg hc]
  exact hdrop

/-! ### The Groundskeeper's cores halt (R80) -/

/-- Both cores of the Groundskeeper are halted. -/
def State.halts (s : State) : State := { s with pwr := { s.pwr with gkpHalted := true } }

theorem State.exec_gkpWfiHalt (h : s.wrd.gkp = .running) :
    exec .gkpWfiHalt s = .next (s.fresh.revote State.halts) :=
  congrArg Host.Outcome.next (State.onlyIf_true s.fresh _ _ (beq_iff_eq.mpr h))

/-- With the cores halted, the Groundskeeper's vote on SYS is that of its word alone. -/
theorem State.vote_halted (h : s.pwr.gkpHalted = true) :
    s.vote 1 0 = sysVote (s.rd pgPWR (PWR_VOTE_LEVEL 1)) := by
  simp only [State.vote, h, Bool.not_true, Bool.false_eq_true, and_false, if_false, sysVote]

theorem State.gkpWfiHalt_shows (h : s.wrd.gkp = .running) :
    ∃ t, exec .gkpWfiHalt s = .next t ∧ t.pwr.gkpHalted = true ∧
      t.vote 1 0 = sysVote (s.rd pgPWR (PWR_VOTE_LEVEL 1)) ∧ s.SameMem t ∧ s.SameRegs t s.powerWord := by
  have he := s.exec_gkpWfiHalt h
  have hr : s.fresh.halts.Reacts (s.fresh.revote State.halts) := s.fresh.revote_reacts State.halts
  have hhalt : (s.fresh.revote State.halts).pwr.gkpHalted = true :=
    Pwr.gkpHalted_of_held (s.fresh.revote_held State.halts)
  generalize s.fresh.revote State.halts = t at he hr hhalt
  refine ⟨t, he, hhalt, ?_, (.of_eq rfl rfl rfl : s.SameMem s.fresh.halts).trans hr.sameMem, hr.powerRegs⟩
  rw [t.vote_halted hhalt, hr.voteLevel 1 (by decide)]
  rfl

/-- Settles O23: a vote is stored and the sequencer reacts, which touches no vote; every other requester's write
is dropped, by the row and by a plain register write; a halt of the cores suspends their standing vote. -/
theorem voteWrites : Obligations.VoteWrites := fun s =>
  ⟨fun r client level ho => ⟨s.voteWrite_own r client level ho, s.voteWrite_other r client level ho⟩,
    s.gkpWfiHalt_shows⟩

end Sys2Proof.Machine
end

section
/-! SUPPORT. What the units do as their domain drops or rises (R83, R299): the sequencer and what decides the
levels stand, and no stopped PLL starts. -/

namespace Sys2Proof.Machine

variable {s t u : State}

/-- Units have followed their domain: memory, the sequencer, the island and what the votes are read from stand,
and a stopped PLL stays so. -/
structure State.UnitsFollow (s t : State) : Prop where
  part : t.part = s.part
  pwr : t.pwr = s.pwr
  aon : t.aon = s.aon
  mem : s.SameMem t
  word : ∀ p o, voteWord p o → t.word p o = s.word p o
  off : ∀ n, (s.pll n).phase = .off → (t.pll n).phase = .off

theorem State.UnitsFollow.refl (s : State) : s.UnitsFollow s :=
  ⟨rfl, rfl, rfl, .of_eq rfl rfl rfl, fun _ _ _ => rfl, fun _ h => h⟩

theorem State.UnitsFollow.trans (h : s.UnitsFollow t) (h' : t.UnitsFollow u) : s.UnitsFollow u where
  part := h'.part.trans h.part
  pwr := h'.pwr.trans h.pwr
  aon := h'.aon.trans h.aon
  mem := h.mem.trans h'.mem
  word p o hv := (h'.word p o hv).trans (h.word p o hv)
  off n := h'.off n ∘ h.off n

theorem State.UnitsFollow.foldl {α : Type} (f : State → α → State) (l : List α)
    (h : ∀ t : State, ∀ x ∈ l, t.UnitsFollow (f t x)) : ∀ s : State, s.UnitsFollow (l.foldl f s) := by
  induction l with
  | nil => exact .refl
  | cons x l ih =>
    exact fun s => (h s x (by simp)).trans (ih (fun t y hy => h t y (by simp [hy])) (f s x))

theorem State.UnitsFollow.asks (h : s.UnitsFollow t) : s.Asks t :=
  ⟨h.part, by rw [h.aon], by rw [h.pwr], h.word⟩

theorem State.UnitsFollow.phase (h : s.UnitsFollow t) (d : Fin 7) : t.phase d = s.phase d :=
  State.phase_of_doms (by rw [h.pwr]) d

theorem State.Keeps.unitsFollow (h : s.Keeps t unitWord) : s.UnitsFollow t where
  part := h.core.part
  pwr := h.core.pwr
  aon := h.core.aon
  mem := h.sameMem
  word p o hv := h.word p o (voteWord_lt p o hv) (not_not.mpr hv)
  off n hn := by rw [h.pll n]; exact hn

theorem State.Clocks.unitsFollow (h : s.Clocks t) (hoff : ∀ n, (s.pll n).phase = .off → (t.pll n).phase = .off) :
    s.UnitsFollow t where
  part := h.part
  pwr := h.pwr
  aon := h.aon
  mem := h.sameMem
  word p o hv := h.word p o (voteWord_lt p o hv) fun hp => by
    subst hp
    rcases hv with hv | hv | hv <;> exact absurd hv.1 (by decide)
  off := hoff

variable (s)

/-- A unit's register outside PWR that is neither an ENABLE nor in the place of NET's WAKE_EN. -/
theorem State.wr_unit (p v : Nat) (f : Fld) (hf : f.Sound) (h : f.off ≠ 0x00C ∧ f.off ≠ 0x070)
    (hp : p ≠ pgPWR) : s.Keeps (s.wr p f v) unitWord :=
  s.wr_keeps p v f hf (unitWord_of p f.off h.1 hp (.inr h.2))

theorem State.raise_unit (p b : Nat) (hp : p ≠ pgPWR) : s.Keeps (s.raise p b) unitWord :=
  (s.raise_raises p b (unitWord_of p _ (by decide) hp (.inr (by decide))) unitWord_gbk).keeps

/-! ### PLLs -/

theorem State.mem_pllsOf (d : Fin 7) (n : Nat) : n ∈ State.pllsOf d ↔ n < 15 ∧ (pllDom n).num = d := by
  unfold State.pllsOf
  rw [List.mem_filter, List.mem_range, beq_iff_eq]

theorem State.stopPll_pll (n m : Nat) (hn : n < 15) : (s.stopPll n).pll m =
    if m = n then { s.pll n with phase := .off } else s.pll m :=
  (State.pll_of_plls (s := s.setPll n _) (t := s.stopPll n) rfl m).trans (s.setPll_pll n m hn _)

theorem State.stopPll_follow (n : Nat) (hn : n < 15) : s.UnitsFollow (s.stopPll n) :=
  (s.stopPll_clocks n hn).unitsFollow fun m hm => by
    rw [s.stopPll_pll n m hn]
    split
    · rfl
    · exact hm

theorem State.stopPlls_follow (l : List Nat) (hl : ∀ n ∈ l, n < 15) : s.UnitsFollow (l.foldl State.stopPll s) :=
  .foldl _ _ (fun t n hn => t.stopPll_follow n (hl n hn)) s

theorem State.stopPlls_off (l : List Nat) (hl : ∀ n ∈ l, n < 15) (n : Nat) (hn : n ∈ l) :
    ((l.foldl State.stopPll s).pll n).phase = .off := by
  induction l generalizing s with
  | nil => cases hn
  | cons m l ih =>
    have hl' : ∀ n ∈ l, n < 15 := fun n h => hl n (List.mem_cons_of_mem m h)
    rcases List.mem_cons.mp hn with rfl | hn
    · refine ((s.stopPll n).stopPlls_follow l hl').off n ?_
      rw [s.stopPll_pll n n (hl n List.mem_cons_self), if_pos rfl]
    · exact ih (s.stopPll m) hl' hn

theorem State.senseRefs_clocks (d : Fin 7) : s.Clocks (s.senseRefs d) :=
  .foldl _ _ (fun t n hn =>
    t.showRef_clocks n ((State.mem_pllsOf d n).mp (List.mem_filter.mp hn).1).1) s

theorem State.showRefs_plls (l : List Nat) : (l.foldl State.showRef s).plls = s.plls := by
  induction l generalizing s with
  | nil => rfl
  | cons n l ih => exact (ih _).trans (by unfold State.showRef; rw [State.wrBit_eq]; rfl)

theorem State.senseRefs_plls (d : Fin 7) : (s.senseRefs d).plls = s.plls := s.showRefs_plls _

theorem State.senseRefs_follow (d : Fin 7) : s.UnitsFollow (s.senseRefs d) :=
  (s.senseRefs_clocks d).unitsFollow fun n hn => by
    rw [State.pll_of_plls (s.senseRefs_plls d)]; exact hn

/-- The start of a PLL that is not stopped leaves the stopped ones. -/
theorem State.startPll_off (n m : Nat) (hn : n < 15) (hp : (s.pll n).phase ≠ .off)
    (hm : (s.pll m).phase = .off) : ((s.startPll n).pll m).phase = .off := by
  rw [s.startPll_pll n m hn, if_neg fun he : m = n => hp (he ▸ hm)]
  exact hm

/-! ### Lanes go dark (R229) -/

theorem pgONK_ne_pwr (h : Nat) : pgONK h ≠ pgPWR := by unfold pgONK pgPWR; omega

theorem State.updOnk_unit (h : Nat) (g : Onk → Onk) : s.Keeps (s.updOnk h g) unitWord := by
  unfold State.updOnk
  split
  · exact .of_regs _ ⟨rfl, rfl, rfl, rfl, rfl, rfl, rfl, rfl, rfl⟩ rfl
  · exact .refl s _

theorem State.stageFail_unit (h code : Nat) : s.Keeps (s.stageFail h code) unitWord :=
  ((s.wr_unit _ _ ONK_STAGE_RESULT (by decide) (by decide) (pgONK_ne_pwr h)).trans
    (State.wr_unit _ pgONKroot _ ONK_TX_FAIL_HEADS (by decide) (by decide) (by decide))).trans
    (State.raise_unit _ _ 5 (pgONK_ne_pwr h))

theorem State.txEnd_unit : s.Keeps s.txEnd unitWord :=
  (State.Keeps.of_regs _ ⟨rfl, rfl, rfl, rfl, rfl, rfl, rfl, rfl, rfl⟩ rfl :
    s.Keeps { s with tx := none } unitWord).trans
    (State.wr_unit _ pgONKroot 0 UNIT_STATUS_STATE (by decide) (by decide) (by decide))

/-- One head's share of an abort of the head-table transaction (R235). -/
theorem State.txFail_unit (h : Nat) (send : Prop) [Decidable send] (e : Emission) (fails : Option Nat) :
    s.Keeps (match fails with
      | some code => (if send then s.emit e else s).stageFail h code
      | none => (if send then s.emit e else s).stageResult h 7) unitWord := by
  have hsent : s.Keeps (if send then s.emit e else s) unitWord := by
    split
    · exact (s.emit_raises e).keeps
    · exact .refl s _
  split
  · exact hsent.trans (State.stageFail_unit _ h _)
  · exact hsent.trans (State.wr_unit _ _ _ ONK_STAGE_RESULT (by decide) (by decide) (pgONK_ne_pwr h))

theorem State.txLaneDown_unit (h : Nat) : s.Keeps (s.txLaneDown h) unitWord := by
  unfold State.txLaneDown
  split
  · exact .refl s _
  · split
    · unfold State.txAbort
      split
      · exact .refl s _
      · exact (State.Keeps.foldl _ _ (fun u g _ => u.txFail_unit g _ _ _) s).trans (State.txEnd_unit _)
    · exact .refl s _

theorem State.readEnd_unit (h : Nat) : s.Keeps (s.readEnd h ONK_RD_STAT_FAIL) unitWord := by
  unfold State.readEnd
  rw [State.setBusy_eq]
  exact ((s.updOnk_unit h _).trans
    (State.wr_unit _ _ 1 ONK_RD_STAT_FAIL (by decide) (by decide) (pgONK_ne_pwr h))).trans
    (State.wr_unit _ _ _ UNIT_STATUS_CMD_BUSY (by decide) (by decide) (pgONK_ne_pwr h))

theorem State.failUnframed_unit (h : Nat) : s.Keeps (s.failUnframed h) unitWord := s.updOnk_unit h _

theorem State.laneGone_unit (h : Nat) : s.Keeps (s.laneGone h) unitWord := by
  have hdown := (s.updOnk_unit h (fun x => { x with up := false })).trans (State.failUnframed_unit _ h)
  unfold State.laneGone
  refine .trans ?_ (State.txLaneDown_unit _ h)
  split
  · exact hdown.trans (State.readEnd_unit _ h)
  · exact hdown

theorem State.lanesDark_follow : s.UnitsFollow s.lanesDark :=
  .foldl _ _ (fun t h _ => by
    split
    · exact (t.laneGone_unit h).unitsFollow
    · exact .refl t) s

/-! ### Kiosks leave or rejoin the pool (R83, R148, R150) -/

theorem pgKSK_ne_pwr (k : Nat) : pgKSK k ≠ pgPWR := by unfold pgKSK pgPWR; omega

theorem sentWord_unit (p o : Nat) (h : sentWord p o) : unitWord p o := by
  obtain ⟨hp, ho⟩ := h
  refine unitWord_of p o (by omega) ?_ (.inl ?_) <;> rcases hp with rfl | rfl <;> decide

theorem State.publish_unit : s.Keeps s.publish unitWord := by
  unfold State.publish
  dsimp only
  split
  · exact .refl s _
  · exact ((s.wr_unit pgING _ ING_LIVE_CAP_CYCLES (by decide) (by decide) (by decide)).trans
      (State.raise_unit _ pgING 0 (by decide))).trans
      (.foldl _ _ (fun t i _ => (t.sendAck_keeps i).mono sentWord_unit) _)

theorem State.updIng_unit (g : Ingest → Ingest) : s.Keeps (s.updIng g) unitWord :=
  .of_regs _ ⟨rfl, rfl, rfl, rfl, rfl, rfl, rfl, rfl, rfl⟩ rfl

/-- A relock that waits for its cluster starts a PLL, and not a stopped one. -/
theorem State.drainCheck_follow (c : Nat) (hc : c < 4) : s.UnitsFollow (s.drainCheck c) := by
  unfold State.drainCheck
  split
  · next h =>
    have hn : 2 + c < 15 := by omega
    exact (((s.setPll_clocks _ _).trans (State.wr_clocks _ _ (pllLocked_sound _ hn) 0)).trans
      (State.wr_clocks _ _ (pllBypass_sound _ hn) 1)).unitsFollow fun m hm =>
        s.startPll_off (2 + c) m hn (by rw [h.1]; decide) hm
  · exact .refl s

theorem State.setHolding_unit (k : Nat) (x : Holding) : s.Keeps (s.setHolding k x) unitWord := by
  unfold State.setHolding
  split
  · exact s.updIng_unit _
  · exact .refl s _

theorem State.kioskAway_follow (k : Nat) (hk : k < 96) : s.UnitsFollow (s.kioskAway k) := by
  have hout : ∀ u : State, s.Keeps u unitWord → s.UnitsFollow
      (((u.setHolding k .nothing).setState (pgKSK k)
        (if s.bit (pgKSK k) WK_OUT_RETIRED then 3 else 0)).drainCheck (k / 24)) := fun u hu =>
    ((hu.trans (u.setHolding_unit k .nothing)).trans
      (State.wr_unit _ _ _ UNIT_STATUS_STATE (by decide) (by decide) (pgKSK_ne_pwr k))).unitsFollow.trans
      (State.drainCheck_follow _ _ (by omega))
  unfold State.kioskAway
  refine hout _ ?_
  split
  · exact s.updIng_unit _
  · exact .refl s _

theorem State.kioskMove_follow (k : Nat) (hk : k < 96) : s.UnitsFollow (s.kioskMove k) := by
  unfold State.kioskMove
  split
  · split
    · exact s.kioskAway_follow k hk
    · exact .refl s
  · split
    · exact (s.wr_unit _ 1 UNIT_STATUS_STATE (by decide) (by decide) (pgKSK_ne_pwr k)).unitsFollow
    · exact .refl s

theorem kiosks_le (part : Part) : part.kiosks ≤ 96 := by cases part <;> decide

/-- Whether the kiosks have yet to follow a change. -/
def State.poolTold (s : State) (b : Bool) : State := { s with pwr := { s.pwr with poolMove := b } }

/-- The kiosks follow a change of what keeps them out. -/
theorem State.poolFollow_follow : ∃ b, (s.poolTold b).UnitsFollow s.poolFollow := by
  unfold State.poolFollow
  split
  · exact ⟨s.pwr.poolMove, .refl s⟩
  · exact ⟨false, (State.UnitsFollow.foldl _ _ (fun t k hk => t.kioskMove_follow k
      ((List.mem_range.mp hk).trans_le (kiosks_le _))) _).trans (State.publish_unit _).unitsFollow⟩

/-! ### MEM enters self-refresh (R299) -/

theorem pgDRAM_ne_pwr (c : Fin 2) : pgDRAM c.val ≠ pgPWR := by unfold pgDRAM pgPWR; omega

theorem State.refreshOwed_unit (c : Fin 2) : s.Keeps (s.refreshOwed c) unitWord := by
  unfold State.refreshOwed
  split
  · exact .refl s _
  · exact (State.Keeps.of_regs _ ⟨rfl, rfl, rfl, rfl, rfl, rfl, rfl, rfl, rfl⟩ rfl :
      s.Keeps (s.closeRows c) unitWord).trans
      (State.wr_unit _ _ 0 DRC_REF_STAT_OWED (by decide) (by decide) (pgDRAM_ne_pwr c))

end Sys2Proof.Machine
end

section
/-! PROOFS. The drop of a domain (R83, R84, R86). -/

namespace Sys2Proof.Machine

variable (s : State)

/-! ### Quiesced, saved and isolated -/

/-- What a domain that has quiesced does before its state is saved. -/
def State.lastActs (s : State) (d : Fin 7) : State :=
  if d = 4 then s.poolFollow else if d = 2 then s.srEnter else s

theorem State.exec_domainQuiesced (d : Fin 7) (hq : s.phase d = .quiescing) (hb : s.domainBusy d = false) :
    exec (.domainQuiesced d) s = .next ((s.fresh.lastActs d).setPhase d .saved).react := by
  have hc : (s.phase d == .quiescing && !s.domainBusy d) = true := by rw [hq, hb]; rfl
  exact congrArg Host.Outcome.next (State.onlyIf_true s.fresh _ _ hc)

theorem State.poolFollow_shows : s.Asks s.poolFollow ∧ s.SameMem s.poolFollow := by
  obtain ⟨b, h⟩ := s.poolFollow_follow
  have hasks : s.Asks (s.poolTold b) := ⟨rfl, rfl, rfl, fun _ _ _ => rfl⟩
  have hmem : s.SameMem (s.poolTold b) := .of_eq rfl rfl rfl
  exact ⟨hasks.trans h.asks, hmem.trans h.mem⟩

theorem State.srEnter_shows : s.Asks s.srEnter ∧ s.SameMem s.srEnter := by
  have h : s.Keeps ([(0 : Fin 2), 1].foldl State.refreshOwed s) unitWord :=
    .foldl _ _ (fun t c _ => t.refreshOwed_unit c) s
  unfold State.srEnter
  generalize ([(0 : Fin 2), 1].foldl State.refreshOwed s) = v at h
  exact ⟨h.unitsFollow.asks.trans ⟨rfl, rfl, rfl, fun _ _ _ => rfl⟩, h.sameMem.trans (.of_eq rfl rfl rfl)⟩

theorem State.lastActs_shows (d : Fin 7) : s.Asks (s.lastActs d) ∧ s.SameMem (s.lastActs d) := by
  unfold State.lastActs
  split
  · exact s.poolFollow_shows
  · split
    · exact s.srEnter_shows
    · exact ⟨.refl s, .of_eq rfl rfl rfl⟩

theorem State.domainQuiesced_shows (d : Fin 7) (hq : s.phase d = .quiescing) (he : s.eff d.val = 0)
    (hb : s.domainBusy d = false) :
    ∃ t, exec (.domainQuiesced d) s = .next t ∧ t.phase d = .saved ∧ s.SameMem t := by
  obtain ⟨hasks, hmem⟩ := s.fresh.lastActs_shows d
  have hex := s.exec_domainQuiesced d hq hb
  generalize s.fresh.lastActs d = v at hasks hmem hex
  have heff : (v.setPhase d .saved).eff d.val = 0 := ((hasks.trans (v.setPhase_asks d .saved)).eff d.val).trans he
  have hsaved := v.setPhase_self d .saved
  have hset : v.SameMem (v.setPhase d .saved) := .of_eq rfl rfl rfl
  generalize v.setPhase d .saved = w at heff hsaved hset hex
  have hfollows : w.Follows d := iff_of_false (by rw [hsaved]; decide) (not_not.mpr heff)
  exact ⟨_, hex, (w.react_phase d hfollows).trans hsaved, (hmem.trans hset).trans w.react_reacts.sameMem⟩

/-! ### One step of a drop -/

/-- The switch of a domain opens: its PLLs stop, its lanes go dark, and its references are no longer sensed. -/
theorem State.openSwitch_shows (d : Fin 7) : ∃ v, s.UnitsFollow v ∧
    (∀ n ∈ State.pllsOf d, (v.pll n).phase = .off) ∧
    (v.setPhase d (.opening false)).UnitsFollow (s.openSwitch d) := by
  have hlt : ∀ n ∈ State.pllsOf d, n < 15 := fun n hn => ((State.mem_pllsOf d n).mp hn).1
  have hstop := s.stopPlls_follow (State.pllsOf d) hlt
  have hoff := s.stopPlls_off (State.pllsOf d) hlt
  unfold State.openSwitch
  generalize (State.pllsOf d).foldl State.stopPll s = w at hstop hoff
  refine ⟨if d = 4 then w.lanesDark else w, ?_, fun n hn => ?_, State.senseRefs_follow _ d⟩
  · split
    · exact hstop.trans w.lanesDark_follow
    · exact hstop
  · split
    · exact w.lanesDark_follow.off n (hoff n hn)
    · exact hoff n hn

theorem State.openSwitch_asks (d : Fin 7) : s.Asks (s.openSwitch d) := by
  obtain ⟨v, hv, -, ho⟩ := s.openSwitch_shows d
  exact (hv.asks.trans (v.setPhase_asks d _)).trans ho.asks

theorem State.openSwitch_phase (d e : Fin 7) :
    (s.openSwitch d).phase e = if e = d then .opening false else s.phase e := by
  obtain ⟨v, hv, -, ho⟩ := s.openSwitch_shows d
  rw [ho.phase, v.setPhase_phase, hv.phase]

theorem State.openSwitch_off (d : Fin 7) (n : Nat) (h : (s.pll n).phase = .off ∨ n ∈ State.pllsOf d) :
    ((s.openSwitch d).pll n).phase = .off := by
  obtain ⟨v, hv, hoff, ho⟩ := s.openSwitch_shows d
  exact ho.off n (h.elim (hv.off n) (hoff n))

/-- A drop's end is noted, and with the last domain the board rails go off. -/
theorem State.dropEnds_eq (d : Fin 7) : ∃ b, s.dropEnds d =
    { s.setPhase d .down with aon := { s.aon with railEn := b } } := by
  unfold State.dropEnds
  dsimp only
  split
  · exact ⟨false, rfl⟩
  · exact ⟨s.aon.railEn, rfl⟩

theorem State.dropEnds_asks (d : Fin 7) : s.Asks (s.dropEnds d) := by
  obtain ⟨b, h⟩ := s.dropEnds_eq d
  rw [h]
  exact ⟨rfl, rfl, rfl, fun _ _ _ => rfl⟩

theorem State.dropEnds_phase (d e : Fin 7) : (s.dropEnds d).phase e = if e = d then .down else s.phase e := by
  obtain ⟨b, h⟩ := s.dropEnds_eq d
  rw [h]
  exact s.setPhase_phase d e .down

theorem State.dropEnds_plls (d : Fin 7) : (s.dropEnds d).plls = s.plls := by
  obtain ⟨b, h⟩ := s.dropEnds_eq d
  rw [h]
  rfl

theorem State.dropStep_asks (d : Fin 7) : s.Asks (s.dropStep d) := by
  unfold State.dropStep
  split
  · exact s.openSwitch_asks d
  · exact s.dropEnds_asks d
  · exact .refl s

theorem State.dropStep_other (d e : Fin 7) (h : e ≠ d) : (s.dropStep d).phase e = s.phase e := by
  unfold State.dropStep
  split
  · rw [s.openSwitch_phase, if_neg h]
  · rw [s.dropEnds_phase, if_neg h]
  · rfl

theorem State.dropStep_off (d : Fin 7) (n : Nat) (h : (s.pll n).phase = .off) :
    ((s.dropStep d).pll n).phase = .off := by
  unfold State.dropStep
  split
  · exact s.openSwitch_off d n (.inl h)
  · rw [State.pll_of_plls (s.dropEnds_plls d)]; exact h
  · exact h

/-! ### A tick of the sequencer -/

/-- The drops that are under way each make their next step. -/
def State.dropSteps (s : State) (l : List (Fin 7)) : State := l.foldl State.dropStep s

theorem State.dropSteps_asks (l : List (Fin 7)) : s.Asks (s.dropSteps l) := by
  induction l generalizing s with
  | nil => exact .refl s
  | cons d l ih => exact (s.dropStep_asks d).trans (ih (s.dropStep d))

theorem State.dropSteps_other (l : List (Fin 7)) (e : Fin 7) (h : e ∉ l) : (s.dropSteps l).phase e = s.phase e := by
  induction l generalizing s with
  | nil => rfl
  | cons d l ih =>
    obtain ⟨hd, hl⟩ := not_or.mp (List.mem_cons.not.mp h)
    exact (ih (s.dropStep d) hl).trans (s.dropStep_other d e hd)

theorem State.dropSteps_off (l : List (Fin 7)) (n : Nat) (h : (s.pll n).phase = .off) :
    ((s.dropSteps l).pll n).phase = .off := by
  induction l generalizing s with
  | nil => exact h
  | cons d l ih => exact ih (s.dropStep d) (s.dropStep_off d n h)

/-- In a tick each domain makes one step. -/
theorem State.dropSteps_own (l : List (Fin 7)) (d : Fin 7) (hl : l.Nodup) (hd : d ∈ l) :
    ∃ v : State, v.phase d = s.phase d ∧ (s.dropSteps l).phase d = (v.dropStep d).phase d ∧
      ∀ n, ((v.dropStep d).pll n).phase = .off → ((s.dropSteps l).pll n).phase = .off := by
  induction l generalizing s with
  | nil => cases hd
  | cons e l ih =>
    obtain ⟨hel, hl⟩ := List.nodup_cons.mp hl
    by_cases he : d = e
    · subst he
      exact ⟨s, rfl, (s.dropStep d).dropSteps_other l d hel, (s.dropStep d).dropSteps_off l⟩
    · obtain ⟨v, hv, hphase, hoff⟩ := ih (s.dropStep e) hl ((List.mem_cons.mp hd).resolve_left he)
      exact ⟨v, hv.trans (s.dropStep_other e d he), hphase, hoff⟩

theorem State.tickPower_eq : s.tickPower = (if (s.dropSteps dropOrder).ready then
    (s.dropSteps dropOrder).revote id else s.dropSteps dropOrder).poolFollow := rfl

/-- What a tick does after the drops' steps moves no domain whose phase follows its level, and starts no PLL. -/
theorem State.tickPower_rest (d : Fin 7) (h : (s.dropSteps dropOrder).Follows d) :
    s.tickPower.phase d = (s.dropSteps dropOrder).phase d ∧
      ∀ n, ((s.dropSteps dropOrder).pll n).phase = .off → (s.tickPower.pll n).phase = .off := by
  rw [s.tickPower_eq]
  generalize s.dropSteps dropOrder = w at h
  have hvote : (if w.ready then w.revote id else w).phase d = w.phase d ∧
      (if w.ready then w.revote id else w).plls = w.plls := by
    split
    · exact ⟨w.revote_phase id d h, (w.revote_reacts id).plls⟩
    · exact ⟨rfl, rfl⟩
  generalize (if w.ready then w.revote id else w) = v at hvote
  obtain ⟨hphase, hplls⟩ := hvote
  obtain ⟨b, hf⟩ := v.poolFollow_follow
  refine ⟨(hf.phase d).trans hphase, fun n hn => hf.off n ?_⟩
  rw [← State.pll_of_plls hplls n] at hn
  exact hn

theorem mem_dropOrder (d : Fin 7) : d ∈ dropOrder := by revert d; decide

theorem dropOrder_nodup : dropOrder.Nodup := by decide

theorem State.tickPower_drops (d : Fin 7) (he : s.eff d.val = 0) :
    (s.phase d = .saved → s.tickPower.phase d = .opening false ∧
      ∀ n, n < 15 → (pllDom n).num = d → (s.tickPower.pll n).phase = .off) ∧
    (∀ b, s.phase d = .opening b → s.tickPower.phase d = .down) := by
  obtain ⟨v, hv, hphase, hoff⟩ := s.dropSteps_own dropOrder d dropOrder_nodup (mem_dropOrder d)
  have heff : (s.dropSteps dropOrder).eff d.val = 0 := ((s.dropSteps_asks dropOrder).eff d.val).trans he
  have hrest := s.tickPower_rest d
  generalize s.dropSteps dropOrder = w at hphase hoff heff hrest
  have hlow : w.phase d ≠ .up → w.Follows d := fun hne => iff_of_false hne (not_not.mpr heff)
  refine ⟨fun hs => ?_, fun b hs => ?_⟩
  · have hstep : v.dropStep d = v.openSwitch d := by unfold State.dropStep; rw [hv, hs]
    rw [hstep, v.openSwitch_phase, if_pos rfl] at hphase
    obtain ⟨hp, hplls⟩ := hrest (hlow (by rw [hphase]; decide))
    refine ⟨hp.trans hphase, fun n hn hd => hplls n (hoff n ?_)⟩
    rw [hstep]
    exact v.openSwitch_off d n (.inr ((State.mem_pllsOf d n).mpr ⟨hn, hd⟩))
  · have hstep : v.dropStep d = v.dropEnds d := by unfold State.dropStep; rw [hv, hs]
    rw [hstep, v.dropEnds_phase, if_pos rfl] at hphase
    exact (hrest (hlow (by rw [hphase]; decide))).1.trans hphase

end Sys2Proof.Machine
end

section
/-! PROOFS. The rise of a domain, rails that do not come good, and the retry of MEM's drop (R81, R83, R85, R86). -/

namespace Sys2Proof.Machine

variable (s : State)

/-! ### A rise (R83) -/

theorem State.startPlls_kept (l : List Nat) (hl : ∀ n ∈ l, n < 15) (n : Nat) (h : (s.pll n).phase = .locking) :
    ((l.foldl State.startPll s).pll n).phase = .locking := by
  induction l generalizing s with
  | nil => exact h
  | cons m l ih =>
    refine ih (s.startPll m) (fun k hk => hl k (List.mem_cons_of_mem m hk)) ?_
    rw [s.startPll_pll m n (hl m List.mem_cons_self)]
    split
    · rfl
    · exact h

/-- Of several PLLs that start, each one locks. -/
theorem State.startPlls_locking (l : List Nat) (hl : ∀ n ∈ l, n < 15) (n : Nat) (hn : n ∈ l) :
    ((l.foldl State.startPll s).pll n).phase = .locking := by
  induction l generalizing s with
  | nil => cases hn
  | cons m l ih =>
    have hl' : ∀ k ∈ l, k < 15 := fun k hk => hl k (List.mem_cons_of_mem m hk)
    rcases List.mem_cons.mp hn with rfl | hn
    · refine State.startPlls_kept _ l hl' n ?_
      rw [s.startPll_pll n n (hl n List.mem_cons_self), if_pos rfl]
    · exact ih (s.startPll m) hl' hn

/-- A domain with its supply good, before its PLLs start. -/
def State.supplied (s : State) (d : Fin 7) : State := (s.setPhase d .locking).senseRefs d

theorem State.exec_domainSupplyGood (d : Fin 7) (hr : s.ready = true) (hp : s.phase d = .supplying)
    (hg : s.railsGood = true) : exec (.domainSupplyGood d) s =
    .next (if ((State.pllsOf d).filter s.pllWanted).isEmpty then ((s.fresh.supplied d).domainUp d).react
      else ((State.pllsOf d).filter s.pllWanted).foldl State.startPll (s.fresh.supplied d)) := by
  have hc : (s.ready && s.phase d == .supplying && s.railsGood) = true := by rw [hr, hp, hg]; rfl
  exact congrArg Host.Outcome.next (State.onlyIf_true s.fresh _ _ hc)

theorem State.domainSupplyGood_up (d : Fin 7) (hr : s.ready = true) (hp : s.phase d = .supplying)
    (hg : s.railsGood = true) (hn : (State.pllsOf d).filter s.pllWanted = []) (he : s.eff d.val ≠ 0) :
    ∃ t, exec (.domainSupplyGood d) s = .next t ∧ t.phase d = .up ∧ s.SameMem t := by
  have hex := s.exec_domainSupplyGood d hr hp hg
  rw [hn, if_pos List.isEmpty_nil] at hex
  have hasks : s.fresh.Asks (s.fresh.supplied d) :=
    (s.fresh.setPhase_asks d .locking).trans (State.senseRefs_follow _ d).asks
  have hmem : s.fresh.SameMem (s.fresh.supplied d) :=
    (s.fresh.setPhase_reacts d .locking).sameMem.trans (State.senseRefs_follow _ d).mem
  generalize s.fresh.supplied d = v at hex hasks hmem
  have hup := v.domainUp_phase d
  have heff : (v.domainUp d).eff d.val ≠ 0 := by
    rw [(v.domainUp_asks d).eff, hasks.eff]; exact he
  have hupmem := hmem.trans (v.domainUp_reacts d).sameMem
  generalize v.domainUp d = w at hex hup heff hupmem
  exact ⟨_, hex, (w.react_phase d (iff_of_true hup heff)).trans hup, hupmem.trans w.react_reacts.sameMem⟩

theorem State.domainSupplyGood_locks (d : Fin 7) (hr : s.ready = true) (hp : s.phase d = .supplying)
    (hg : s.railsGood = true) (hn : (State.pllsOf d).filter s.pllWanted ≠ []) :
    ∃ t, exec (.domainSupplyGood d) s = .next t ∧ t.phase d = .locking ∧
      (∀ n ∈ (State.pllsOf d).filter s.pllWanted, (t.pll n).phase = .locking) ∧ s.SameMem t ∧
      s.SameRegs t (fun p _ => p = pgCLK) ∧
      { t with regs := s.regs, plls := s.plls, pwr := s.pwr } = s.fresh := by
  have hex := s.exec_domainSupplyGood d hr hp hg
  rw [if_neg (by rw [List.isEmpty_iff]; exact hn)] at hex
  have hlt : ∀ n ∈ (State.pllsOf d).filter s.pllWanted, n < 15 := fun n h =>
    ((State.mem_pllsOf d n).mp (List.mem_filter.mp h).1).1
  have hlocking := (s.fresh.supplied d).startPlls_locking _ hlt
  have hclocks : (s.fresh.setPhase d .locking).Clocks
      (((State.pllsOf d).filter s.pllWanted).foldl State.startPll (s.fresh.supplied d)) :=
    (State.senseRefs_clocks _ d).trans (.foldl _ _ (fun t n h => t.startPll_clocks n (hlt n h)) _)
  generalize ((State.pllsOf d).filter s.pllWanted).foldl State.startPll (s.fresh.supplied d) = t
    at hex hlocking hclocks
  refine ⟨t, hex, ?_, hlocking, (s.fresh.setPhase_reacts d .locking).sameMem.trans hclocks.sameMem,
    ⟨fun p o ho h => hclocks.word p o ho h, fun p o => ?_⟩, ?_⟩
  · rw [State.phase_of_doms (congrArg Pwr.doms hclocks.pwr)]
    exact s.fresh.setPhase_self d .locking
  · exact State.actWord_of_act s t hclocks.part hclocks.act p o
  · exact (congrArg (fun x : State => { x with regs := s.regs, plls := s.plls, pwr := s.pwr }) hclocks.rest :)

/-! ### Rails that do not come good (R85) -/

/-- No domain waits for its supply any more. -/
def DomPhase.unsupplied (p : DomPhase) : DomPhase := if p = .supplying then .down else p

/-- The rails are switched off again, and every domain stays down; the cause and the fault are shown. -/
def State.railsFail (s : State) : State :=
  let t : State := { s with pwr := { s.pwr with doms := s.pwr.doms.map DomPhase.unsupplied }
                            aon := { s.aon with railEn := false, railTimeout := true } }
  (t.wr pgPWR PWR_WAKE_CAUSE_RAIL_TIMEOUT 1).wr pgWRD WRD_FAULT_RAIL 1

theorem State.exec_railTimeout (hr : s.ready = true) (hen : s.aon.railEn = true) (hg : s.railsGood = false)
    (hrise : s.rising = true) (hd : ∀ d, s.phase d = .down ∨ s.phase d = .supplying) :
    exec .railTimeout s = .next (if s.fresh.railsFail.powerState = 4 then s.fresh.railsFail.patrolEntry
      else s.fresh.railsFail) := by
  have hall : s.pwr.doms.toList.all (fun p => p == .down || p == .supplying) = true := by
    refine List.all_eq_true.mpr fun p hp => ?_
    obtain ⟨i, hi, rfl⟩ := List.getElem_of_mem hp
    have h := hd ⟨i, by simpa using hi⟩
    rw [Bool.or_eq_true, beq_iff_eq, beq_iff_eq]
    exact h
  have hc : (s.ready && s.aon.railEn && !s.railsGood && s.rising &&
      s.pwr.doms.toList.all (fun p => p == .down || p == .supplying)) = true := by
    rw [hr, hen, hg, hrise, hall]; rfl
  exact congrArg Host.Outcome.next (State.onlyIf_true s.fresh _ _ hc)

theorem DomPhase.unsupplied_ne (p : DomPhase) : p.unsupplied ≠ .supplying := by
  unfold DomPhase.unsupplied
  split
  · decide
  · assumption

/-- What gives a rise up touches two words, the sequencer and the island. -/
theorem State.railsFail_shows : s.railsFail.aon.railEn = false ∧
    s.railsFail.bit pgPWR PWR_WAKE_CAUSE_RAIL_TIMEOUT = true ∧ s.railsFail.bit pgWRD WRD_FAULT_RAIL = true ∧
    (∀ d, s.railsFail.phase d ≠ .supplying) ∧ s.SameMem s.railsFail ∧ s.railsFail.act = s.act ∧
    (∀ p o, o < 4096 → ¬ ((p = pgPWR ∧ o = 0x06C) ∨ (p = pgWRD ∧ o = WRD_FAULT_RAIL.off)) →
      s.railsFail.word p o = s.word p o) ∧
    { s.railsFail with regs := s.regs, aon := s.aon, pwr := s.pwr } = s := by
  let v : State := { s with pwr := { s.pwr with doms := s.pwr.doms.map DomPhase.unsupplied }
                            aon := { s.aon with railEn := false, railTimeout := true } }
  let w := v.wr pgPWR PWR_WAKE_CAUSE_RAIL_TIMEOUT 1
  have hcause : w.bit pgPWR PWR_WAKE_CAUSE_RAIL_TIMEOUT = true := v.bit_wrBit _ _ (by decide) true
  have hmem : s.SameMem v := .of_eq rfl rfl rfl
  refine ⟨rfl, ?_, w.bit_wrBit _ _ (by decide) true, fun d h => ?_,
    hmem.trans ((v.wr_sameMem _ _ _).trans (w.wr_sameMem _ _ _)),
    (w.wr_act pgWRD WRD_FAULT_RAIL 1).trans (v.wr_act pgPWR PWR_WAKE_CAUSE_RAIL_TIMEOUT 1),
    fun p o ho hn => ?_, by simp [State.railsFail]⟩
  · exact (w.bit_wr_ne _ _ WRD_FAULT_RAIL _ (by decide) (by decide) (.inl (by decide)) 1).trans hcause
  · have hmap : s.railsFail.phase d = (s.phase d).unsupplied := Vector.getElem_map (xs := s.pwr.doms) _ d.isLt
    exact (s.phase d).unsupplied_ne (hmap.symm.trans h)
  · obtain ⟨hp, hw⟩ := not_or.mp hn
    exact (w.word_wr_ne _ _ _ WRD_FAULT_RAIL (by decide) ho (not_and_or.mp hw) 1).trans
      (v.word_wr_ne _ _ _ PWR_WAKE_CAUSE_RAIL_TIMEOUT (by decide) ho (not_and_or.mp hp) 1)

theorem State.patrolEntry_word (p o : Nat) (ho : o < 4096) (h : ¬ (p = pgPWR ∧ o = 0x074)) :
    s.patrolEntry.word p o = s.word p o :=
  State.word_wr_ne _ pgPWR p o PWR_PATROL_STAT_CYCLES (by decide) ho (not_and_or.mp h) 0

theorem State.railTimeout_shows (hr : s.ready = true) (hen : s.aon.railEn = true) (hg : s.railsGood = false)
    (hrise : s.rising = true) (hd : ∀ d, s.phase d = .down ∨ s.phase d = .supplying) :
    ∃ t, exec .railTimeout s = .next t ∧ t.aon.railEn = false ∧
      t.bit pgPWR PWR_WAKE_CAUSE_RAIL_TIMEOUT = true ∧ t.bit pgWRD WRD_FAULT_RAIL = true ∧
      (∀ d, t.phase d ≠ .supplying) ∧ s.SameMem t ∧
      s.SameRegs t (fun p o =>
        (p = pgPWR ∧ (o = 0x06C ∨ o = 0x074)) ∨ (p = pgWRD ∧ o = WRD_FAULT_RAIL.off)) ∧
      { t with regs := s.regs, aon := s.aon, pwr := s.pwr } = s.fresh := by
  obtain ⟨hoff, hcause, hfault, hdown, hmem, hact, hword, hrest⟩ := s.fresh.railsFail_shows
  have hex := s.exec_railTimeout hr hen hg hrise hd
  have hfew : ∀ p o, o < 4096 →
      ¬ ((p = pgPWR ∧ (o = 0x06C ∨ o = 0x074)) ∨ (p = pgWRD ∧ o = WRD_FAULT_RAIL.off)) →
      s.fresh.railsFail.word p o = s.word p o := fun p o ho hn =>
    hword p o ho fun h => hn (h.imp (And.imp_right .inl) id)
  generalize s.fresh.railsFail = v at *
  have hpart : v.part = s.part := (congrArg State.part hrest :)
  have hactive : ∀ p o, v.actWord p o = s.actWord p o := s.actWord_of_act v hpart hact
  refine ⟨_, hex, ?_⟩
  split
  · refine ⟨hoff, ?_, ?_, hdown, hmem.trans (.of_eq rfl rfl rfl), ⟨fun p o ho hn => ?_, hactive⟩, hrest⟩
    · exact (State.bit_of_word _ _ (v.patrolEntry_word _ _ (by decide) (by decide))).trans hcause
    · exact (State.bit_of_word _ _ (v.patrolEntry_word _ _ (by decide) (by decide))).trans hfault
    · exact (v.patrolEntry_word p o ho fun h => hn (.inl ⟨h.1, .inr h.2⟩)).trans (hfew p o ho hn)
  · exact ⟨hoff, hcause, hfault, hdown, hmem, ⟨hfew, hactive⟩, hrest⟩

/-! ### The retry of MEM's drop (R86), and clocks that are gated again (R81) -/

/-- A drop that is given up raises its event, and no other register differs. -/
theorem State.abortDrop_sameRegs (d : Fin 7) : s.SameRegs (s.abortDrop d) (evWords pgPWR) := by
  have hraise : ∀ v : State, s.part = v.part → v.regs = s.regs → v.act = s.act →
      s.SameRegs (v.raise pgPWR 2) (evWords pgPWR) := fun v hp hr ha =>
    ((State.SameRegs.of_eq (evWords pgPWR) hp.symm hr ha : s.SameRegs v _).trans
      (v.raise_raises pgPWR 2 (.inl ⟨rfl, rfl⟩) (evWords_gbk pgPWR)).keeps.sameRegs).mono
      fun _ _ h => h.elim id id
  have hback : (s.backUp d).regs = s.regs := by
    unfold State.backUp
    dsimp only
    split
    · rfl
    · split <;> rfl
  unfold State.abortDrop
  split
  · exact .of_eq _ rfl rfl rfl
  · split
    · exact hraise _ (s.backUp_reacts d).part.symm hback (s.backUp_reacts d).act
    · exact hraise _ (s.backUp_reacts d).part.symm hback (s.backUp_reacts d).act
    · exact hraise _ rfl rfl rfl
    · exact .of_eq _ rfl rfl rfl

theorem State.aborted_sameRegs (l : List (Fin 7)) : s.SameRegs (s.aborted l) (evWords pgPWR) := by
  induction l generalizing s with
  | nil => exact .of_eq _ rfl rfl rfl
  | cons d l ih =>
    exact ((s.abortDrop_sameRegs d).trans (ih (s.abortDrop d))).mono fun _ _ h => h.elim id id

theorem State.beginDrop_sameRegs (d : Fin 7) (but : Nat → Nat → Prop) : s.SameRegs (s.beginDrop d) but := by
  unfold State.beginDrop
  dsimp only
  split <;> exact .of_eq _ rfl rfl rfl

/-- A reaction writes no register but for the event of drops that are given up. -/
theorem State.react_sameRegs : s.SameRegs s.react (evWords pgPWR) := by
  have ht := s.aborted_sameRegs dropOrder
  have hc := s.react_cases
  generalize s.aborted dropOrder = t at ht hc
  rcases hc with h | ⟨e, -, -, h⟩ | ⟨e, -, -, h⟩
  · rw [h]; exact ht
  · rw [h]; exact ht
  · rw [h]; exact (ht.trans (t.beginDrop_sameRegs e (evWords pgPWR))).mono fun _ _ h => h.elim id id

/-- MEM's drop waits for no retry. -/
def State.retried (s : State) : State := { s with pwr := { s.pwr with memRetry := false } }

theorem State.exec_memDropRetry (h : s.pwr.memRetry = true) :
    exec .memDropRetry s = .next s.fresh.retried.react :=
  congrArg Host.Outcome.next (State.onlyIf_true s.fresh s.pwr.memRetry (fun t => t.retried.react) h)

theorem State.memDropRetry_shows (h : s.pwr.memRetry = true) :
    ∃ t, exec .memDropRetry s = .next t ∧ t.pwr.memRetry = false ∧ s.SameMem t ∧
      s.SameRegs t (evWords pgPWR) := by
  have hex := s.exec_memDropRetry h
  have hretry : s.fresh.retried.pwr.memRetry = false := rfl
  have hmem : s.SameMem s.fresh.retried := .of_eq rfl rfl rfl
  have hregs : s.SameRegs s.fresh.retried (evWords pgPWR) := .of_eq _ rfl rfl rfl
  generalize s.fresh.retried = v at hex hretry hmem hregs
  have hheld : v.react.pwr.memRetry = v.pwr.memRetry := Pwr.memRetry_of_held v.react_held
  exact ⟨_, hex, hheld.trans hretry, hmem.trans v.react_reacts.sameMem,
    (hregs.trans v.react_sameRegs).mono fun _ _ h => h.elim id id⟩

theorem State.holdRegate_shows (d : Fin 7) : ∃ t, exec (.holdRegate d) s = .next t ∧
    t.pwr.ungated.get d = false ∧ s.SameMem t ∧ s.SameRegs t (fun _ _ => False) ∧
    { t with pwr := s.pwr } = s.fresh :=
  ⟨_, rfl, Vector.getElem_set_self (xs := s.pwr.ungated) d.isLt, .of_eq rfl rfl rfl, .of_eq _ rfl rfl rfl, rfl⟩

/-- Settles O24: each event of a drop and a rise is a rule of its own; that the sequencer's reaction afterwards
leaves the domain alone rests on its phase following its level. -/
theorem domainsDropAndRise : Obligations.DomainsDropAndRise := fun s =>
  ⟨s.domainQuiesced_shows, s.tickPower_drops,
    fun d hr hp hg => ⟨s.domainSupplyGood_up d hr hp hg, s.domainSupplyGood_locks d hr hp hg⟩,
    s.railTimeout_shows, s.memDropRetry_shows, s.holdRegate_shows⟩

end Sys2Proof.Machine
end

section
/-! PROOFS. Patrol (R85, R88), where the statement fails. -/

namespace Sys2Proof.Machine

/-- One cycle of Patrol as it comes about. -/
theorem exec_patrolCycle (s : State) (codes : List (BitVec 12)) (h : s.powerState = 4) :
    exec (.patrolCycle codes) s =
      let u := s.fresh.inc pgPWR PWR_PATROL_STAT_CYCLES
      let x := u.patrol u.patrolWindows codes
      .next (match x.2 with
        | none => x.1
        | some w => ((x.1.wr pgPWR PWR_WAKE_CAUSE_WINDOW 1).wr pgPWR PWR_WAKE_CAUSE_WIN_NUM w).wake) :=
  congrArg Host.Outcome.next (State.onlyIf_true s.fresh _ _ (beq_iff_eq.mpr h))

/-- A part in Patrol because its rails did not come (R85), although its domains stand powered; its window 0
watches the supply on channel 11, and the Guestbook's queue is full. -/
def patrolAwake : State :=
  let s := (State.reset.wr pgPWR PWR_PATROL_CTRL_ENABLE 1).setWord pgPWR 0x080 0x8000000B
  { s with
    aon := { s.aon with railEn := false, railTimeout := true }
    pwr := { s.pwr with doms := Vector.replicate 7 .up }
    gbk := { s.gbk with queue := List.replicate 64 (s.mkEntry 0 0 0 false false 0) } }

/-- The supply's conversion is out of its range, no window is violated, and the monitor's entry is counted as
dropped. -/
theorem patrolAwake_drops :
    let u := patrolAwake.fresh.inc pgPWR PWR_PATROL_STAT_CYCLES
    patrolAwake.powerState = 4 ∧ (u.patrol u.patrolWindows [1]).2 = none ∧
    patrolAwake.word pgGBK 0x050 = 0 ∧ (u.patrol u.patrolWindows [1]).1.word pgGBK 0x050 = 2 := by
  decide +kernel

/-- Refutes O25: a cycle of Patrol without a confirmed window may touch more than the words of PWR and MON.
Patrol is also where the rails did not come (R85), whatever the levels of the domains; a state with SYS at
level 2 then writes the entry of a monitor's event at once, and with the Guestbook's queue full counts it in
`GBK_DROPPED` (R383).  The statement does not exclude that state. -/
theorem not_wakeAndMonitor : ¬ Obligations.WakeAndMonitor := by
  rintro ⟨hs, -⟩
  obtain ⟨hpatrol, hnone, hbefore, hafter⟩ := patrolAwake_drops
  obtain ⟨hcycle, -, -⟩ := hs patrolAwake
  obtain ⟨t, ht, -, -, hquiet, -⟩ := hcycle [1] hpatrol
  obtain ⟨-, -, hregs⟩ := hquiet hnone
  have hx := exec_patrolCycle patrolAwake [1] hpatrol
  dsimp only at hx
  rw [hnone] at hx
  obtain rfl := Host.Outcome.next.inj (hx.symm.trans ht)
  have hsame := hregs.1 pgGBK 0x050 (by decide) (by decide)
  exact absurd (hafter.symm.trans (hsame.trans hbefore)) (by decide)

end Sys2Proof.Machine
end

section
/-! SUPPORT. Sundial's registers (R95–R115): values of two words, the position, the mark and the encoders' counts,
and the frame of an operation that writes registers of an encoder or of Sundial and raises their events. -/

namespace Sys2Proof.Machine

variable {s t u : State} {but but' : Nat → Nat → Prop}

/-! ### Values of two words -/

theorem State.rd2_wr2 (s : State) (p : Nat) (lo hi : Fld) (hl : lo.Sound) (hh : hi.Sound)
    (h : lo.off ≠ hi.off) (v : Nat) :
    (s.wr2 p lo hi v).rd2 p lo hi = v % (2 ^ lo.width * 2 ^ hi.width) := by
  unfold State.rd2 State.wr2
  rw [State.rd_wr_ne _ p p hi lo hh hl (.inr h), State.rd_wr _ _ _ hl, State.rd_wr _ _ _ hh, Nat.mod_mul]

theorem State.rd2_wr_ne (s : State) (p q : Nat) (f lo hi : Fld) (hf : f.Sound) (hl : lo.Sound) (hh : hi.Sound)
    (h : q ≠ p ∨ lo.off ≠ f.off ∧ hi.off ≠ f.off) (v : Nat) : (s.wr p f v).rd2 q lo hi = s.rd2 q lo hi := by
  unfold State.rd2
  rw [State.rd_wr_ne s p q f lo hf hl (h.imp_right And.left),
    State.rd_wr_ne s p q f hi hf hh (h.imp_right And.right)]

theorem State.rd2_of_words (p : Nat) (lo hi : Fld) (hl : t.word p lo.off = s.word p lo.off)
    (hh : t.word p hi.off = s.word p hi.off) : t.rd2 p lo hi = s.rd2 p lo hi := by
  unfold State.rd2 State.rd; rw [hl, hh]

/-- A position of 48 bits in two words of 32 and 16. -/
theorem ofNat_pos_mod (p : Pos) : BitVec.ofNat 48 (p.toNat % (2 ^ 32 * 2 ^ 16)) = p := by
  apply BitVec.eq_of_toNat_eq
  rw [BitVec.toNat_ofNat]
  have := p.isLt
  omega

/-! ### The position, the mark and the counts -/

@[simp] theorem State.pos_setPos (s : State) (p : Pos) : (s.setPos p).pos = p := by
  unfold State.pos State.setPos
  rw [State.rd2_wr2 _ _ _ _ (by decide) (by decide) (by decide)]
  exact ofNat_pos_mod p

@[simp] theorem State.hwm_setHwm (s : State) (p : Pos) : (s.setHwm p).hwm = p := by
  unfold State.hwm State.setHwm
  rw [State.rd2_wr2 _ _ _ _ (by decide) (by decide) (by decide)]
  exact ofNat_pos_mod p

theorem State.pos_of_words (hl : t.word pgSDL 0x050 = s.word pgSDL 0x050)
    (hh : t.word pgSDL 0x054 = s.word pgSDL 0x054) : t.pos = s.pos := by
  unfold State.pos; rw [State.rd2_of_words pgSDL _ _ hl hh]

theorem State.hwm_of_words (hl : t.word pgSDL 0x058 = s.word pgSDL 0x058)
    (hh : t.word pgSDL 0x05C = s.word pgSDL 0x05C) : t.hwm = s.hwm := by
  unfold State.hwm; rw [State.rd2_of_words pgSDL _ _ hl hh]

theorem State.encCount_of_words (n : Fin 3) (hl : t.word (pgENC n.val) 0x068 = s.word (pgENC n.val) 0x068)
    (hh : t.word (pgENC n.val) 0x06C = s.word (pgENC n.val) 0x06C) : t.encCount n = s.encCount n := by
  unfold State.encCount; rw [State.rd2_of_words _ _ _ hl hh]

theorem State.source_of_regs (hp : t.part = s.part) (hr : t.regs = s.regs) : t.source = s.source := by
  unfold State.source; rw [State.rd_of_regs s t hp hr]

@[simp] theorem State.pos_updSdl (s : State) (g : Sdl → Sdl) : (s.updSdl g).pos = s.pos := rfl
@[simp] theorem State.hwm_updSdl (s : State) (g : Sdl → Sdl) : (s.updSdl g).hwm = s.hwm := rfl
@[simp] theorem State.pos_remark (s : State) : s.remark.pos = s.pos := rfl
@[simp] theorem State.hwm_remark (s : State) : s.remark.hwm = s.hwm := rfl
theorem State.remark_sameMem (s : State) : s.SameMem s.remark := .of_eq rfl rfl rfl
@[simp] theorem State.sdl_remark (s : State) : s.remark.sdl = s.sdl := rfl
@[simp] theorem State.word_remark (s : State) (p o : Nat) : s.remark.word p o = s.word p o := rfl
@[simp] theorem State.word_keepReached (s : State) (p o : Nat) : s.keepReached.word p o = s.word p o := rfl
@[simp] theorem State.word_updSdl (s : State) (g : Sdl → Sdl) (p o : Nat) :
    (s.updSdl g).word p o = s.word p o := rfl
@[simp] theorem State.word_updEnc (s : State) (n : Fin 3) (g : Enc → Enc) (p o : Nat) :
    (s.updEnc n g).word p o = s.word p o := rfl

@[simp] theorem State.bit_updEnc (s : State) (n : Fin 3) (g : Enc → Enc) (p : Nat) (f : Fld) :
    (s.updEnc n g).bit p f = s.bit p f := rfl
@[simp] theorem State.encCount_updEnc (s : State) (n m : Fin 3) (g : Enc → Enc) :
    (s.updEnc n g).encCount m = s.encCount m := rfl
@[simp] theorem State.encState_updEnc (s : State) (n m : Fin 3) (g : Enc → Enc) :
    (s.updEnc n g).encState m = s.encState m := rfl

theorem State.Keeps.pos (h : s.Keeps t but) (hl : ¬ but pgSDL 0x050) (hh : ¬ but pgSDL 0x054) : t.pos = s.pos :=
  State.pos_of_words (h.word _ _ (by decide) hl) (h.word _ _ (by decide) hh)

theorem State.Keeps.hwm (h : s.Keeps t but) (hl : ¬ but pgSDL 0x058) (hh : ¬ but pgSDL 0x05C) : t.hwm = s.hwm :=
  State.hwm_of_words (h.word _ _ (by decide) hl) (h.word _ _ (by decide) hh)

theorem State.Keeps.encCount (h : s.Keeps t but) (n : Fin 3) (hl : ¬ but (pgENC n.val) 0x068)
    (hh : ¬ but (pgENC n.val) 0x06C) : t.encCount n = s.encCount n :=
  State.encCount_of_words n (h.word _ _ (by decide) hl) (h.word _ _ (by decide) hh)

theorem State.Keeps.source (h : s.Keeps t but) (hn : ¬ but pgSDL 0x010) : t.source = s.source := by
  unfold State.source; rw [h.rd pgSDL SDL_STATUS_ACTIVE (by decide) hn]

theorem State.Keeps.sdlOn (h : s.Keeps t but) (hn : ¬ but pgSDL 0x00C) : t.sdlOn = s.sdlOn :=
  h.bit pgSDL UNIT_CTRL_ENABLE (by decide) hn

theorem State.Keeps.encState (h : s.Keeps t but) (n : Fin 3) (hn : ¬ but (pgENC n.val) 0x010) :
    t.encState n = s.encState n := h.rd (pgENC n.val) UNIT_STATUS_STATE (by decide) hn

theorem State.Keeps.checkEnc (h : s.Keeps t but) : t.checkEnc = s.checkEnc := by
  unfold State.checkEnc; rw [State.ac_of_act s t h.core.part h.core.act]

theorem State.pos_wr_status (s : State) (f : Fld) (v : Nat) (hf : f.Sound) (h : f.off = 0x010) :
    (s.wr pgSDL f v).pos = s.pos :=
  State.pos_of_words (State.word_wr_ne s pgSDL pgSDL _ f hf (by decide) (.inr (by rw [h]; decide)) v)
    (State.word_wr_ne s pgSDL pgSDL _ f hf (by decide) (.inr (by rw [h]; decide)) v)

theorem State.hwm_wr_status (s : State) (f : Fld) (v : Nat) (hf : f.Sound) (h : f.off = 0x010) :
    (s.wr pgSDL f v).hwm = s.hwm :=
  State.hwm_of_words (State.word_wr_ne s pgSDL pgSDL _ f hf (by decide) (.inr (by rw [h]; decide)) v)
    (State.word_wr_ne s pgSDL pgSDL _ f hf (by decide) (.inr (by rw [h]; decide)) v)

theorem State.sdl_updSdl (s : State) (g : Sdl → Sdl) : (s.updSdl g).sdl = g s.sdl := rfl

@[simp] theorem State.sdl_setPos (s : State) (p : Pos) : (s.setPos p).sdl = s.sdl := by
  unfold State.setPos; rw [State.wr2_eq, State.wr_sdl, State.wr_sdl]

@[simp] theorem State.sdl_setHwm (s : State) (p : Pos) : (s.setHwm p).sdl = s.sdl := by
  unfold State.setHwm; rw [State.wr2_eq, State.wr_sdl, State.wr_sdl]

/-! ### The encoders -/

@[simp] theorem State.encOf_updEnc (s : State) (n m : Fin 3) (g : Enc → Enc) :
    (s.updEnc n g).encOf m = if m = n then g (s.encOf n) else s.encOf m := by
  refine (Vector.getElem_set (xs := s.enc) n.isLt m.isLt).trans ?_
  by_cases h : m = n
  · rw [h, if_pos rfl, if_pos rfl]; rfl
  · rw [if_neg fun he => h (Fin.ext he.symm), if_neg h]; rfl

theorem encNum_val (m : Fin 3) : encNum m.val = m := by fin_cases m <;> rfl

@[simp] theorem State.source_wr_active (s : State) (m : Fin 3) :
    (s.wr pgSDL SDL_STATUS_ACTIVE m.val).source = m := by
  unfold State.source
  rw [State.rd_wr _ _ _ (by decide), Nat.mod_eq_of_lt (by have := m.isLt; simp [Fld.width, SDL_STATUS_ACTIVE]; omega),
    encNum_val]

/-- A write of a field changes the registers alone, whatever the field. -/
theorem State.wr_shape (s : State) (p : Nat) (f : Fld) (v : Nat) : ∃ x, s.wr p f v = { s with regs := x } :=
  ⟨_, rfl⟩

/-- A write of a field keeps the frame of registers, and that of registers and encoders. -/
theorem State.wr_frame {s u : State} (p : Nat) (f : Fld) (v : Nat) (h : { u with regs := s.regs } = s) :
    { u.wr p f v with regs := s.regs } = s := h

theorem State.wr_frame_enc {s u : State} (p : Nat) (f : Fld) (v : Nat)
    (h : { u with regs := s.regs, enc := s.enc } = s) : { u.wr p f v with regs := s.regs, enc := s.enc } = s := h

theorem State.updEnc_frame {s u : State} (n : Fin 3) (g : Enc → Enc)
    (h : { u with regs := s.regs, enc := s.enc } = s) : { u.updEnc n g with regs := s.regs, enc := s.enc } = s := h

theorem State.wr2_shape (s : State) (p : Nat) (lo hi : Fld) (v : Nat) : ∃ x, s.wr2 p lo hi v = { s with regs := x } :=
  ⟨_, rfl⟩

theorem State.setPos_shape (s : State) (p : Pos) : ∃ x, s.setPos p = { s with regs := x } := s.wr2_shape _ _ _ _

theorem State.setHwm_shape (s : State) (p : Pos) : ∃ x, s.setHwm p = { s with regs := x } := s.wr2_shape _ _ _ _

/-! ### The frame -/

/-- Registers that `but` names have been written, and events raised, by encoders and Sundial: but for these, for the
encoders' and Sundial's own state and for the free values drawn, nothing differs, and an event that stood stands. -/
structure State.Tracks (s t : State) (but : Nat → Nat → Prop) : Prop where
  rest : { t with regs := s.regs, enc := s.enc, sdl := s.sdl, gbk := s.gbk, pcie := s.pcie,
                  follies := s.follies, free := s.free } = s
  word : ∀ p o, o < 4096 → ¬ but p o → t.word p o = s.word p o
  raised : ∀ p b, s.Raised p b → t.Raised p b

theorem State.Tracks.keeps (h : s.Tracks t but) : s.Keeps t but where
  core :=
    { part := (congrArg State.part h.rest :)
      now := (congrArg State.now h.rest :)
      aon := (congrArg State.aon h.rest :)
      pwr := (congrArg State.pwr h.rest :)
      plls := (congrArg State.plls h.rest :)
      act := (congrArg State.act h.rest :)
      mem := (congrArg State.mem h.rest :)
      flash := (congrArg State.flash h.rest :)
      poison := (congrArg State.poison h.rest :) }
  word := h.word

theorem State.Tracks.refl (s : State) (but : Nat → Nat → Prop) : s.Tracks s but :=
  ⟨rfl, fun _ _ _ _ => rfl, fun _ _ h => h⟩

theorem State.Tracks.trans (h : s.Tracks t but) (h' : t.Tracks u but) : s.Tracks u but where
  rest := by
    rw [← h.rest]
    conv_rhs => rw [← h'.rest]
  word p o ho hn := (h'.word p o ho hn).trans (h.word p o ho hn)
  raised p b hr := h'.raised p b (h.raised p b hr)

theorem State.Tracks.mono (h : s.Tracks t but) (hb : ∀ p o, but p o → but' p o) : s.Tracks t but' :=
  ⟨h.rest, fun p o ho hn => h.word p o ho (hn ∘ hb p o), h.raised⟩

variable (s)

theorem State.wr_tracks (p : Nat) (f : Fld) (v : Nat) (hf : f.Sound) (h14 : f.off ≠ 0x014) (h : but p f.off) :
    s.Tracks (s.wr p f v) but :=
  ⟨rfl, (s.wr_keeps p v f hf h).word, fun q b => s.wr_raised p v q b f hf h14⟩

theorem State.wr2_tracks (p : Nat) (lo hi : Fld) (v : Nat) (hl : lo.Sound) (hh : hi.Sound) (hl14 : lo.off ≠ 0x014)
    (hh14 : hi.off ≠ 0x014) (hbl : but p lo.off) (hbh : but p hi.off) : s.Tracks (s.wr2 p lo hi v) but :=
  (s.wr_tracks p lo v hl hl14 hbl).trans (State.wr_tracks _ p hi _ hh hh14 hbh)

theorem State.wrS_tracks (p : Nat) (f : Fld) (v : Int) (hf : f.Sound) (h14 : f.off ≠ 0x014) (h : but p f.off) :
    s.Tracks (s.wrS p f v) but := s.wr_tracks p f _ hf h14 h

theorem State.wrBit_tracks (p : Nat) (f : Fld) (b : Bool) (hf : f.Sound) (h14 : f.off ≠ 0x014) (h : but p f.off) :
    s.Tracks (s.wrBit p f b) but := s.wr_tracks p f _ hf h14 h

theorem State.updEnc_tracks (n : Fin 3) (g : Enc → Enc) : s.Tracks (s.updEnc n g) but :=
  ⟨rfl, fun _ _ _ _ => rfl, fun _ _ h => h⟩

theorem State.updSdl_tracks (g : Sdl → Sdl) : s.Tracks (s.updSdl g) but :=
  ⟨rfl, fun _ _ _ _ => rfl, fun _ _ h => h⟩

theorem State.draw_tracks : s.Tracks s.draw but := ⟨rfl, fun _ _ _ _ => rfl, fun _ _ h => h⟩

theorem unitOf_enc (part : Part) (n : Fin 3) : unitOf part (pgENC n.val) = some (.enc, n.val) := by
  cases part <;> fin_cases n <;> rfl

theorem unitOf_sdl (part : Part) : unitOf part pgSDL = some (.sdl, 0) := by cases part <;> rfl

theorem evNum_enc (part : Part) (n : Fin 3) (b : Nat) (hb : b < 5) :
    evNum part (pgENC n.val) b = some (554 + 5 * n.val + b) := by
  unfold evNum; rw [unitOf_enc]; exact if_pos hb

theorem evNum_sdl (part : Part) (b : Nat) (hb : b < 3) : evNum part pgSDL b = some (569 + b) := by
  unfold evNum; rw [unitOf_sdl]; exact if_pos hb

theorem State.raise_tracks (page b : Nat) (hp : ∀ i, unitOf s.part page ≠ some (.stm, i))
    (hb : ∀ p o, evWords page p o → but p o) : s.Tracks (s.raise page b) but := by
  have h := s.raise_raises (but := but) page b (hb _ _ (.inl ⟨rfl, rfl⟩)) (fun p o he => hb p o (.inr (he.elim
    (fun e => ⟨e.1, .inl e.2⟩) id)))
  have hf : (s.raise page b).fir = s.fir := by simp
  have he : (s.raise page b).emitted = s.emitted := s.raiseD_emitted page b _ hp
  refine ⟨?_, h.word, h.raised⟩
  have hr := h.rest
  rw [← hf, ← he] at hr
  exact (congrArg (fun x : State => { x with enc := s.enc, sdl := s.sdl, free := s.free }) hr :)

theorem State.raise_enc_tracks (n : Fin 3) (b : Nat) (hb : ∀ p o, evWords (pgENC n.val) p o → but p o) :
    s.Tracks (s.raise (pgENC n.val) b) but :=
  s.raise_tracks _ b (fun i h => by rw [unitOf_enc] at h; cases h) hb

theorem State.raise_sdl_tracks (b : Nat) (hb : ∀ p o, evWords pgSDL p o → but p o) :
    s.Tracks (s.raise pgSDL b) but :=
  s.raise_tracks _ b (fun i h => by rw [unitOf_sdl] at h; cases h) hb

/-- PRINT at level 2 is not isolated. -/
theorem State.not_isolated_of_printUp (h : s.printUp = true) : s.isolated .print = false := by
  have h2 : s.level Dom.print.num = 2 := beq_iff_eq.mp h
  have hup : s.pwr.doms.get Dom.print.num = .up := by
    unfold State.level at h2
    split at h2
    · assumption
    · cases h2
  unfold State.isolated
  rw [hup]
  rfl

theorem State.Keeps.isolated {s : State} (h : s.Keeps t but) (d : Dom) : t.isolated d = s.isolated d := by
  unfold State.isolated; rw [h.core.pwr]

theorem State.not_clamped_of_print (page : Nat) (h : s.isolated .print = false) (kd : Kind)
    (hk : s.kind page = some kd) (hd : kd.domain = .print) : s.clamped page = false := by
  unfold State.clamped
  rw [hk]
  simp [hd, h]

theorem State.raise_enc_raised (n : Fin 3) (b : Nat) (hb : b < 5) (h : s.isolated .print = false) :
    (s.raise (pgENC n.val) b).Raised (pgENC n.val) b :=
  s.raise_raised _ b _ (evNum_enc s.part n b hb) (by omega)
    (s.not_clamped_of_print _ h .enc (by unfold State.kind kindOf; rw [unitOf_enc]; rfl) rfl)

theorem State.raise_sdl_raised (b : Nat) (hb : b < 3) (h : s.isolated .print = false) :
    (s.raise pgSDL b).Raised pgSDL b :=
  s.raise_raised _ b _ (evNum_sdl s.part b hb) (by omega)
    (s.not_clamped_of_print _ h .sdl (by unfold State.kind kindOf; rw [unitOf_sdl]; rfl) rfl)

/-! ### Shared operations -/

theorem State.setPos_tracks (p : Pos) (hl : but pgSDL 0x050) (hh : but pgSDL 0x054) : s.Tracks (s.setPos p) but :=
  s.wr2_tracks _ _ _ _ (by decide) (by decide) (by decide) (by decide) hl hh

theorem State.setHwm_tracks (p : Pos) (hl : but pgSDL 0x058) (hh : but pgSDL 0x05C) : s.Tracks (s.setHwm p) but :=
  s.wr2_tracks _ _ _ _ (by decide) (by decide) (by decide) (by decide) hl hh

theorem State.setCoast_tracks (n : Fin 3) (on : Bool) (h : but (pgENC n.val) 0x010) :
    s.Tracks (s.setCoast n on) but := s.wrBit_tracks _ _ _ (by decide) (by decide) h

theorem State.showSpeed_tracks (h : but pgSPD 0x040) : s.Tracks s.showSpeed but := by
  unfold State.showSpeed
  dsimp only
  split
  · exact (s.wrS_tracks _ _ _ (by decide) (by decide) h).trans (State.updSdl_tracks _ _)
  · exact s.wrS_tracks _ _ _ (by decide) (by decide) h

/-- Only registers and Sundial's own state differ once the speed is shown. -/
theorem State.showSpeed_shape : ∃ x y, s.showSpeed = { s with regs := x, sdl := y } := by
  obtain ⟨x, h⟩ := s.wr_shape pgSPD SPD_SPEED_V
    (unsint SPD_SPEED_V.width (satInt 32 (if s.sdl.still || s.sdl.noSource then 0 else (s.encOf s.source).speed)))
  unfold State.showSpeed State.wrS
  dsimp only
  rw [h]
  split
  · exact ⟨x, _, rfl⟩
  · exact ⟨x, s.sdl, rfl⟩

/-- Of Sundial's own state, only the last speed in FORWARD differs once the speed is shown. -/
theorem State.showSpeed_sdl : { s.showSpeed.sdl with fwdSpeed := s.sdl.fwdSpeed } = s.sdl := by
  unfold State.showSpeed
  dsimp only
  split <;> rfl

theorem State.showSpeed_once : s.showSpeed.sdl.once = s.sdl.once := (congrArg Sdl.once s.showSpeed_sdl :)

theorem State.showSpeed_noSource : s.showSpeed.sdl.noSource = s.sdl.noSource :=
  (congrArg Sdl.noSource s.showSpeed_sdl :)

theorem State.showSpeed_still : s.showSpeed.sdl.still = s.sdl.still := (congrArg Sdl.still s.showSpeed_sdl :)

theorem State.showSpeed_rd : s.showSpeed.rd pgSPD SPD_SPEED_V = unsint 32 (satInt 32
    (if s.sdl.still || s.sdl.noSource then 0 else (s.encOf s.source).speed)) := by
  have h : ∀ v, (s.wrS pgSPD SPD_SPEED_V v).rd pgSPD SPD_SPEED_V = unsint 32 v := fun v => by
    have hlt : unsint 32 v < 2 ^ 32 := by unfold unsint; omega
    rw [State.wrS_eq, State.rd_wr _ _ _ (by decide)]
    exact Nat.mod_eq_of_lt hlt
  unfold State.showSpeed
  dsimp only
  split
  · exact h _
  · exact h _

/-- At standstill and without a source the speed shown is 0. -/
theorem State.showSpeed_zero (h : s.sdl.still = true ∨ s.sdl.noSource = true) :
    s.showSpeed.rd pgSPD SPD_SPEED_V = 0 := by
  rw [State.showSpeed_rd, if_pos (by simpa using h)]
  decide

theorem State.showSpeed_source : s.showSpeed.source = s.source :=
  (s.showSpeed_tracks (but := fun p o => p = pgSPD ∧ o = 0x040) ⟨rfl, rfl⟩).keeps.source (by decide)

theorem State.checkAlign_tracks (h : but pgSDL 0x070) : s.Tracks s.checkAlign but := by
  unfold State.checkAlign
  dsimp only
  split
  · exact s.updSdl_tracks _
  · exact (s.updSdl_tracks (but := but) _).trans
      (State.wrS_tracks _ pgSDL SDL_CHECK_DIFF_PU 0 (by decide) (by decide) h)

theorem State.halt_tracks (h : but pgSDL 0x010) : s.Tracks s.halt but := by
  unfold State.halt
  split
  · exact s.wr_tracks _ _ _ (by decide) (by decide) h
  · exact .refl s but

theorem State.halt_sdl : s.halt.sdl = s.sdl := by
  unfold State.halt
  split
  · exact State.wr_sdl _ _ _ _
  · rfl

@[simp] theorem State.pos_setHwm (p : Pos) : (s.setHwm p).pos = s.pos :=
  (s.setHwm_tracks (but := fun p o => p = pgSDL ∧ (o = 0x058 ∨ o = 0x05C)) p (by decide) (by decide)).keeps.pos
    (by decide) (by decide)

@[simp] theorem State.hwm_setPos (p : Pos) : (s.setPos p).hwm = s.hwm :=
  (s.setPos_tracks (but := fun p o => p = pgSDL ∧ (o = 0x050 ∨ o = 0x054)) p (by decide) (by decide)).keeps.hwm
    (by decide) (by decide)

end Sys2Proof.Machine
end

section
/-! PROOFS. Standstill, reverse, collapse and halts (R110, R111, R114, R115). -/

namespace Sys2Proof.Machine

variable (s : State)

/-! ### The emergency retract leaves Sundial alone (R348) -/

/-- The registers of the two lift axes and of the motion root. -/
def liftWord (p _ : Nat) : Prop := p = pgAXIS 0 ∨ p = pgAXIS 1 ∨ p = pgMOT

theorem not_liftWord_sdl (o : Nat) : ¬ liftWord pgSDL o := by unfold liftWord; decide

theorem State.updAxis_keeps (a : Nat) (g : Axis → Axis) : s.Keeps (s.updAxis a g) liftWord := by
  unfold State.updAxis
  split
  · exact .of_regs _ ⟨rfl, rfl, rfl, rfl, rfl, rfl, rfl, rfl, rfl⟩ rfl
  · exact .refl s _

theorem State.wr_axis_keeps (a v : Nat) (f : Fld) (hf : f.Sound) (ha : a < 2) :
    s.Keeps (s.wr (pgAXIS a) f v) liftWord :=
  s.wr_keeps _ v f hf (by unfold liftWord pgAXIS; omega)

theorem State.axisClear_keeps (a : Nat) (ha : a < 2) : s.Keeps (s.axisClear a) liftWord :=
  (s.updAxis_keeps a _).trans (State.wr_axis_keeps _ a _ _ (by decide) ha)

theorem State.axisClear_sdl (a : Nat) : (s.axisClear a).sdl = s.sdl := by
  unfold State.axisClear
  rw [State.wr_sdl, State.updAxis_sdl]

theorem State.setMotion_keeps (a : Nat) (m : Motion) (code : Nat) (ha : a < 2) :
    s.Keeps (s.setMotion a m code) liftWord := by
  unfold State.setMotion
  rw [State.setState_eq]
  exact (s.updAxis_keeps a _).trans (State.wr_axis_keeps _ a _ _ (by decide) ha)

theorem State.setMotion_sdl (a : Nat) (m : Motion) (code : Nat) : (s.setMotion a m code).sdl = s.sdl := by
  unfold State.setMotion
  rw [State.setState_eq, State.wr_sdl, State.updAxis_sdl]

theorem State.retractAxis_keeps (a : Nat) (ha : a < 2) : s.Keeps (s.retractAxis a) liftWord := by
  unfold State.retractAxis
  dsimp only
  rw [State.setBusy_eq]
  exact ((s.axisClear_keeps a ha).trans (State.wr_axis_keeps _ a _ _ (by decide) ha)).trans
    (State.setMotion_keeps _ a _ 6 ha)

theorem State.retractAxis_sdl (a : Nat) : (s.retractAxis a).sdl = s.sdl := by
  unfold State.retractAxis
  dsimp only
  rw [State.setMotion_sdl, State.setBusy_eq, State.wr_sdl, State.axisClear_sdl]

theorem State.foldl_retractAxis_sdl (l : List Nat) : (l.foldl State.retractAxis s).sdl = s.sdl := by
  induction l generalizing s with
  | nil => rfl
  | cons a l ih => exact (ih _).trans (s.retractAxis_sdl a)

theorem State.retract_keeps (axes : List Nat) : s.Keeps (s.retract axes) liftWord := by
  have hgo : s.Keeps ((axes.filter s.canRetract).foldl State.retractAxis s) liftWord := by
    refine .foldl _ _ (fun t a ha => t.retractAxis_keeps a ?_) s
    have hc := (List.mem_filter.mp ha).2
    simp only [State.canRetract, Bool.and_eq_true, decide_eq_true_eq] at hc
    exact hc.1.1.1.2
  unfold State.retract
  dsimp only
  split
  · exact .refl s _
  · rw [State.incSat_eq, State.addSat_eq]
    exact hgo.trans (State.wr_keeps _ _ _ _ (by decide) (.inr (.inr rfl)))

theorem State.retract_sdl (axes : List Nat) : (s.retract axes).sdl = s.sdl := by
  unfold State.retract
  dsimp only
  split
  · rfl
  · rw [State.incSat_eq, State.addSat_eq, State.wr_sdl, State.foldl_retractAxis_sdl]

/-! ### Standstill (R110) -/

theorem State.exec_standstill (hp : s.printUp = true) (hon : s.sdlOn = true) (hs : s.sdl.still = false)
    (hn : s.sdl.noSource = false) : exec .standstill s =
      .next (((s.fresh.updSdl (fun x => { x with still := true, stillAt := s.encCount s.source })).showSpeed).raise
        (pgENC s.source.val) 4) := by
  have he : exec .standstill s = .next (s.fresh.onlyIf (s.printUp && s.sdlOn && !s.sdl.still && !s.sdl.noSource)
      (fun s => (s.updSdl (fun x => { x with still := true, stillAt := s.encCount s.source })).showSpeed.raise
        (pgENC s.source.val) 4)) := rfl
  rw [he, hp, hon, hs, hn]
  rfl

theorem not_evWords_sdl (n : Fin 3) (o : Nat) : ¬ evWords (pgENC n.val) pgSDL o := by
  have hn := n.isLt
  unfold evWords pgENC pgSDL pgGBK
  omega

theorem State.standstill_shows (hp : s.printUp = true) (hon : s.sdlOn = true) (hs : s.sdl.still = false)
    (hn : s.sdl.noSource = false) :
    ∃ t, exec .standstill s = .next t ∧ t.sdl.still = true ∧ t.rd pgSPD SPD_SPEED_V = 0 ∧
      t.Raised (pgENC s.source.val) 4 ∧ t.pos = s.pos ∧ t.hwm = s.hwm ∧ s.SameMem t ∧
      s.SameRegs t (fun p o => (p = pgSPD ∧ o = 0x040) ∨ evWords (pgENC s.source.val) p o) := by
  have he := s.exec_standstill hp hon hs hn
  let but := fun p o => (p = pgSPD ∧ o = 0x040) ∨ evWords (pgENC s.source.val) p o
  have hbut : ∀ o, ¬ but pgSDL o := fun o h => h.elim (fun e => absurd e.1 (by decide)) (not_evWords_sdl _ o)
  have hstill : s.fresh.Tracks (s.fresh.updSdl (fun x => { x with still := true, stillAt := s.encCount s.source }))
      but := State.updSdl_tracks _ _
  have hsdl : (s.fresh.updSdl (fun x => { x with still := true, stillAt := s.encCount s.source })).sdl.still =
    true := rfl
  generalize s.fresh.updSdl (fun x => { x with still := true, stillAt := s.encCount s.source }) = u at he hstill hsdl
  have hshow : s.fresh.Tracks u.showSpeed but := hstill.trans (u.showSpeed_tracks (.inl ⟨rfl, rfl⟩))
  have hk : s.fresh.Keeps _ but := (hshow.trans (State.raise_enc_tracks _ s.source 4 fun _ _ => .inr)).keeps
  refine ⟨_, he, ?_, ?_, ?_, hk.pos (hbut _) (hbut _), hk.hwm (hbut _) (hbut _), hk.sameMem, hk.sameRegs⟩
  · rw [State.raise_sdl, State.showSpeed_still, hsdl]
  · rw [State.raise_rd _ _ _ _ _ (by decide) (not_evWords _ _ _ (by decide) (by decide))]
    exact u.showSpeed_zero (.inl hsdl)
  · exact State.raise_enc_raised _ _ 4 (by decide)
      ((hshow.keeps.isolated _).trans (s.fresh.not_isolated_of_printUp hp))

theorem State.exec_standstillEnd (hp : s.printUp = true) (hon : s.sdlOn = true) (hs : s.sdl.still = true)
    (hm : 4096 ≤ (posDiff (s.encCount s.source) s.sdl.stillAt).natAbs) : exec .standstillEnd s =
      .next ((s.fresh.updSdl (fun x => { x with still := false })).updEnc s.source (fun e => { e with pts := [] })) := by
  have he : exec .standstillEnd s = .next (s.fresh.onlyIf (s.printUp && s.sdlOn && s.sdl.still &&
      decide (4096 ≤ (posDiff (s.encCount s.source) s.sdl.stillAt).natAbs))
      (fun s => (s.updSdl (fun x => { x with still := false })).updEnc s.source (fun e => { e with pts := [] }))) := rfl
  rw [he, hp, hon, hs, decide_eq_true hm]
  rfl

/-! ### Reverse (R111) -/

theorem State.exec_reverseEnter (hp : s.printUp = true) (hon : s.sdlOn = true) (hr : s.sdl.reverse = false)
    (hb : (s.rd pgSDL SDL_REV_BAND_PU : Int) < posDiff s.hwm s.pos) : exec .reverseEnter s =
      .next ((s.fresh.updSdl (fun x => { x with reverse := true })).raise (pgENC s.source.val) 3) := by
  have he : exec .reverseEnter s = .next (s.fresh.onlyIf (s.printUp && s.sdlOn && !s.sdl.reverse &&
      decide ((s.rd pgSDL SDL_REV_BAND_PU : Int) < posDiff s.hwm s.pos))
      (fun s => (s.updSdl (fun x => { x with reverse := true })).raise (pgENC s.source.val) 3)) := rfl
  rw [he, hp, hon, hr, decide_eq_true hb]
  rfl

/-- In reverse Sundial is not in FORWARD (R112). -/
theorem State.forward_of_reverse (h : s.sdl.reverse = true) : s.forward = false := by
  unfold State.forward State.sdlState
  rw [h]
  split
  · decide
  · split
    · decide
    · split
      · decide
      · split <;> decide

theorem State.reverseEnter_shows (hp : s.printUp = true) (hon : s.sdlOn = true) (hr : s.sdl.reverse = false)
    (hb : (s.rd pgSDL SDL_REV_BAND_PU : Int) < posDiff s.hwm s.pos) :
    ∃ t, exec .reverseEnter s = .next t ∧ t.sdl.reverse = true ∧ t.Raised (pgENC s.source.val) 3 ∧
      t.forward = false ∧ t.pos = s.pos ∧ t.hwm = s.hwm ∧ s.SameMem t ∧
      s.SameRegs t (evWords (pgENC s.source.val)) := by
  have he := s.exec_reverseEnter hp hon hr hb
  have hu : s.fresh.Tracks (s.fresh.updSdl (fun x => { x with reverse := true })) (evWords (pgENC s.source.val)) :=
    State.updSdl_tracks _ _
  have hsdl : (s.fresh.updSdl (fun x => { x with reverse := true })).sdl.reverse = true := rfl
  generalize s.fresh.updSdl (fun x => { x with reverse := true }) = u at he hu hsdl
  have hk : s.fresh.Keeps _ (evWords (pgENC s.source.val)) :=
    (hu.trans (State.raise_enc_tracks _ s.source 3 fun _ _ => id)).keeps
  have hrev : (u.raise (pgENC s.source.val) 3).sdl.reverse = true := by rw [State.raise_sdl, hsdl]
  exact ⟨_, he, hrev, State.raise_enc_raised _ _ 3 (by decide) ((hu.keeps.isolated _).trans
    (s.fresh.not_isolated_of_printUp hp)), State.forward_of_reverse _ hrev,
    hk.pos (not_evWords_sdl _ _) (not_evWords_sdl _ _), hk.hwm (not_evWords_sdl _ _) (not_evWords_sdl _ _),
    hk.sameMem, hk.sameRegs⟩

theorem State.exec_reverseExit (hp : s.printUp = true) (hon : s.sdlOn = true) (hr : s.sdl.reverse = true)
    (hb : (s.rd pgSDL SDL_HYST_PU : Int) ≤ posDiff s.pos s.hwm) : exec .reverseExit s =
      .next (if ahead s.pos s.hwm then (s.fresh.updSdl (fun x => { x with reverse := false })).setHwm s.pos
        else s.fresh.updSdl (fun x => { x with reverse := false })) := by
  have he : exec .reverseExit s = .next (s.fresh.onlyIf (s.printUp && s.sdlOn && s.sdl.reverse &&
      decide ((s.rd pgSDL SDL_HYST_PU : Int) ≤ posDiff s.pos s.hwm))
      (fun s => if ahead s.pos s.hwm then (s.updSdl (fun x => { x with reverse := false })).setHwm s.pos
        else s.updSdl (fun x => { x with reverse := false }))) := rfl
  rw [he, hp, hon, hr, decide_eq_true hb]
  rfl

theorem State.reverseExit_shows (hp : s.printUp = true) (hon : s.sdlOn = true) (hr : s.sdl.reverse = true)
    (hb : (s.rd pgSDL SDL_HYST_PU : Int) ≤ posDiff s.pos s.hwm) :
    ∃ t, exec .reverseExit s = .next t ∧ t.sdl.reverse = false ∧ t.pos = s.pos ∧
      t.hwm = (if ahead s.pos s.hwm = true then s.pos else s.hwm) ∧ s.SameMem t ∧
      s.SameRegs t (fun p o => p = pgSDL ∧ (o = SDL_HWM_LO_POS.off ∨ o = SDL_HWM_HI_POS.off)) ∧
      { t with regs := s.regs, sdl := s.sdl } = s.fresh := by
  have he := s.exec_reverseExit hp hon hr hb
  by_cases ha : ahead s.pos s.hwm = true
  · rw [if_pos ha] at he ⊢
    obtain ⟨_, hx⟩ := (s.fresh.updSdl (fun x => { x with reverse := false })).setHwm_shape s.pos
    have hk : s.fresh.Keeps _ (fun p o => p = pgSDL ∧ (o = SDL_HWM_LO_POS.off ∨ o = SDL_HWM_HI_POS.off)) :=
      ((s.fresh.updSdl_tracks (fun x => { x with reverse := false })).trans
        (State.setHwm_tracks _ s.pos ⟨rfl, .inl rfl⟩ ⟨rfl, .inr rfl⟩)).keeps
    exact ⟨_, he, by rw [hx]; rfl, hk.pos (by decide) (by decide), State.hwm_setHwm _ _, hk.sameMem, hk.sameRegs,
      by rw [hx]; rfl⟩
  · rw [if_neg ha] at he ⊢
    exact ⟨_, he, rfl, rfl, rfl, .of_eq rfl rfl rfl, .of_eq _ rfl rfl rfl, rfl⟩

/-! ### Collapse and web break (R114, R115, R348) -/

/-- Sundial may halt and the lift axes retract: nothing of the position differs. -/
def haltWord (p o : Nat) : Prop := (p = pgSDL ∧ o = 0x010) ∨ evWords pgSDL p o ∨ liftWord p o

/-- The halt of a cause, where its enable says so. -/
def State.haltIf (s : State) (b : Bool) : State := if b then s.halt else s

/-- The retract of a cause, where its enable says so. -/
def State.retractIf (s : State) (b : Bool) : State := if b then s.retract [0, 1] else s

theorem State.haltIf_keeps (b : Bool) : s.Keeps (s.haltIf b) haltWord := by
  unfold State.haltIf
  split
  · exact (s.halt_tracks (.inl ⟨rfl, rfl⟩)).keeps
  · exact .refl s _

theorem State.haltIf_sdl (b : Bool) : (s.haltIf b).sdl = s.sdl := by
  unfold State.haltIf
  split
  · exact s.halt_sdl
  · rfl

theorem State.haltIf_latched (hon : s.sdlOn = true) : (s.haltIf true).bit pgSDL SDL_STATUS_HALT_LATCHED = true := by
  rw [State.haltIf, if_pos rfl, State.halt, if_pos hon]
  exact s.bit_wr pgSDL SDL_STATUS_HALT_LATCHED (by decide) 1

theorem State.haltIf_raised (b : Bool) (p c : Nat) (h : s.Raised p c) : (s.haltIf b).Raised p c := by
  unfold State.haltIf
  split
  · exact (s.halt_tracks (but := fun _ _ => True) trivial).raised p c h
  · exact h

theorem State.retractIf_keeps (b : Bool) : s.Keeps (s.retractIf b) liftWord := by
  unfold State.retractIf
  split
  · exact s.retract_keeps _
  · exact .refl s _

theorem State.retractIf_sdl (b : Bool) : (s.retractIf b).sdl = s.sdl := by
  unfold State.retractIf
  split
  · exact s.retract_sdl _
  · rfl

theorem not_haltWord_pos (o : Nat) (h1 : o ≠ 0x010) (h2 : o ≠ 0x014) : ¬ haltWord pgSDL o := by
  rintro (h | h | h)
  · exact h1 h.2
  · exact h.elim (fun e => h2 e.2) (fun e => absurd e.1 (by decide))
  · exact not_liftWord_sdl o h

/-- What a halt and a retract leave alone, and what they show of Sundial. -/
theorem State.stops_keeps (b c : Bool) : s.Keeps ((s.haltIf b).retractIf c) haltWord :=
  (s.haltIf_keeps b).trans ((State.retractIf_keeps _ c).mono fun _ _ h => .inr (.inr h))

theorem State.stops_sdl (b c : Bool) : ((s.haltIf b).retractIf c).sdl = s.sdl := by
  rw [State.retractIf_sdl, State.haltIf_sdl]

theorem State.stops_latched (c : Bool) (hon : s.sdlOn = true) :
    ((s.haltIf true).retractIf c).bit pgSDL SDL_STATUS_HALT_LATCHED = true := by
  rw [(State.retractIf_keeps _ c).bit pgSDL _ (by decide) (not_liftWord_sdl _)]
  exact s.haltIf_latched hon

theorem State.stops_raised (b c : Bool) (i : Nat) (h : s.Raised pgSDL i) :
    ((s.haltIf b).retractIf c).Raised pgSDL i := by
  have hw := (State.retractIf_keeps (s.haltIf b) c).word pgSDL 0x014 (by decide) (not_liftWord_sdl _)
  have hr := s.haltIf_raised b pgSDL i h
  unfold State.Raised at *
  rw [hw]; exact hr

/-- A collapse is declared and its event raised. -/
def State.collapsed (s : State) : State := (s.updSdl (fun x => { x with declared := true })).raise pgSDL 2

theorem State.exec_speedCollapse : exec .speedCollapse s =
    .next (s.fresh.onlyIf (s.printUp && s.bit pgSPD SPD_COLLAPSE_CFG_EN && s.sdl.falls && !s.sdl.declared) (fun s =>
      (s.collapsed.haltIf (s.collapsed.bit pgSDL SDL_HALT_ON_COLLAPSE)).retractIf
        ((s.collapsed.haltIf (s.collapsed.bit pgSDL SDL_HALT_ON_COLLAPSE)).bit pgMOT MOT_ROOT_CFG_ON_COLLAPSE &&
          (s.collapsed.haltIf (s.collapsed.bit pgSDL SDL_HALT_ON_COLLAPSE)).has pgMOT))) := rfl

theorem State.collapsed_tracks : s.Tracks s.collapsed (evWords pgSDL) :=
  (s.updSdl_tracks _).trans (State.raise_sdl_tracks _ 2 fun _ _ => id)

theorem State.speedCollapse_idle (h : s.sdl.falls = false ∨ s.sdl.declared = true) :
    exec .speedCollapse s = .next s.fresh := by
  rw [State.exec_speedCollapse]
  refine congrArg Host.Outcome.next (State.onlyIf_false _ _ _ ?_)
  rcases h with h | h <;> rw [h]
  · rw [Bool.and_false, Bool.false_and]
  · rw [Bool.not_true, Bool.and_false]

theorem State.speedCollapse_shows (hp : s.printUp = true) (hen : s.bit pgSPD SPD_COLLAPSE_CFG_EN = true)
    (hf : s.sdl.falls = true) (hd : s.sdl.declared = false) :
    ∃ t, exec .speedCollapse s = .next t ∧ t.Raised pgSDL 2 ∧ t.sdl.declared = true ∧ s.SameMem t ∧
      t.pos = s.pos ∧ t.hwm = s.hwm ∧
      (s.bit pgSDL SDL_HALT_ON_COLLAPSE = true → s.sdlOn = true → t.bit pgSDL SDL_STATUS_HALT_LATCHED = true) := by
  have he := s.exec_speedCollapse
  rw [hp, hen, hf, hd] at he
  have hu := s.fresh.collapsed_tracks
  have hraised : s.fresh.collapsed.Raised pgSDL 2 := State.raise_sdl_raised _ 2 (by decide)
    (s.fresh.not_isolated_of_printUp hp)
  have hdecl : s.fresh.collapsed.sdl.declared = true := by
    unfold State.collapsed; rw [State.raise_sdl]; rfl
  have hhalt : s.fresh.collapsed.bit pgSDL SDL_HALT_ON_COLLAPSE = s.bit pgSDL SDL_HALT_ON_COLLAPSE :=
    hu.keeps.bit _ _ (by decide) (not_evWords _ _ _ (by decide) (by decide))
  have hon : s.fresh.collapsed.sdlOn = s.sdlOn := hu.keeps.sdlOn (not_evWords _ _ _ (by decide) (by decide))
  have hu' : s.fresh.Keeps s.fresh.collapsed haltWord := hu.keeps.mono fun _ _ h => .inr (.inl h)
  change _ = Host.Outcome.next ((s.fresh.collapsed.haltIf _).retractIf _) at he
  generalize s.fresh.collapsed = u at *
  have hk := hu'.trans (u.stops_keeps (u.bit pgSDL SDL_HALT_ON_COLLAPSE)
    ((u.haltIf (u.bit pgSDL SDL_HALT_ON_COLLAPSE)).bit pgMOT MOT_ROOT_CFG_ON_COLLAPSE &&
      (u.haltIf (u.bit pgSDL SDL_HALT_ON_COLLAPSE)).has pgMOT))
  refine ⟨_, he, u.stops_raised _ _ 2 hraised, ?_, hk.sameMem,
    hk.pos (not_haltWord_pos _ (by decide) (by decide)) (not_haltWord_pos _ (by decide) (by decide)),
    hk.hwm (not_haltWord_pos _ (by decide) (by decide)) (not_haltWord_pos _ (by decide) (by decide)),
    fun hb ho => ?_⟩
  · rw [State.stops_sdl, hdecl]
  · rw [hhalt, hb]
    exact u.stops_latched _ (hon.trans ho)

theorem State.exec_webBreak (high : Bool) : exec (.webBreakQualified high) s =
    .next (let s0 : State := { s.fresh with aon := { s.aon with webBreak := high } }
      if !high || s.aon.webBreak then s0
      else
        let s1 := s0.haltIf (s0.bit pgSDL SDL_HALT_ON_BREAK && s0.printUp)
        s1.retractIf (s1.bit pgMOT MOT_ROOT_CFG_ON_BREAK && s1.has pgMOT)) := rfl

theorem State.webBreak_shows (hp : s.printUp = true) (high : Bool) :
    ∃ t, exec (.webBreakQualified high) s = .next t ∧ t.aon.webBreak = high ∧ s.SameMem t ∧
      t.pos = s.pos ∧ t.hwm = s.hwm ∧
      (high = true → s.aon.webBreak = false → s.bit pgSDL SDL_HALT_ON_BREAK = true →
        s.sdlOn = true → t.bit pgSDL SDL_STATUS_HALT_LATCHED = true) ∧
      (high = false → { t with aon := s.aon } = s.fresh) := by
  have he := s.exec_webBreak high
  have hrest : { ({ s.fresh with aon := { s.aon with webBreak := high } } : State) with aon := s.aon } = s.fresh := rfl
  have hweb : ({ s.fresh with aon := { s.aon with webBreak := high } } : State).aon.webBreak = high := rfl
  have hmem : s.SameMem { s.fresh with aon := { s.aon with webBreak := high } } := .of_eq rfl rfl rfl
  have hpos : ({ s.fresh with aon := { s.aon with webBreak := high } } : State).pos = s.pos := rfl
  have hhwm : ({ s.fresh with aon := { s.aon with webBreak := high } } : State).hwm = s.hwm := rfl
  have hbit : ({ s.fresh with aon := { s.aon with webBreak := high } } : State).bit pgSDL SDL_HALT_ON_BREAK =
    s.bit pgSDL SDL_HALT_ON_BREAK := rfl
  have hup : ({ s.fresh with aon := { s.aon with webBreak := high } } : State).printUp = true := hp
  have hon : ({ s.fresh with aon := { s.aon with webBreak := high } } : State).sdlOn = s.sdlOn := rfl
  generalize ({ s.fresh with aon := { s.aon with webBreak := high } } : State) = u at *
  by_cases hb : (!high || s.aon.webBreak) = true
  · rw [if_pos hb] at he
    refine ⟨u, he, hweb, hmem, hpos, hhwm, fun h1 h2 => ?_, fun _ => hrest⟩
    rw [h1, h2] at hb
    exact absurd hb (by decide)
  · rw [if_neg hb] at he
    have hk := u.stops_keeps (u.bit pgSDL SDL_HALT_ON_BREAK && u.printUp)
      ((u.haltIf (u.bit pgSDL SDL_HALT_ON_BREAK && u.printUp)).bit pgMOT MOT_ROOT_CFG_ON_BREAK &&
        (u.haltIf (u.bit pgSDL SDL_HALT_ON_BREAK && u.printUp)).has pgMOT)
    refine ⟨_, he, (congrArg Aon.webBreak hk.core.aon).trans hweb, hmem.trans hk.sameMem,
      (hk.pos (not_haltWord_pos _ (by decide) (by decide)) (not_haltWord_pos _ (by decide) (by decide))).trans hpos,
      (hk.hwm (not_haltWord_pos _ (by decide) (by decide)) (not_haltWord_pos _ (by decide) (by decide))).trans hhwm,
      fun _ _ hh ho => ?_, fun h => absurd (by rw [h]; rfl) hb⟩
    rw [hbit, hh, hup]
    exact u.stops_latched _ (hon.trans ho)

/-- Settles O28: each event writes the few registers that show it past the frame of its raise; halts and retracts
touch no word of the position. -/
theorem motion : Obligations.Motion := fun s hp =>
  ⟨s.standstill_shows hp,
    fun hon hs hm => ⟨_, s.exec_standstillEnd hp hon hs hm, rfl, .of_eq rfl rfl rfl, .of_eq _ rfl rfl rfl, rfl⟩,
    s.reverseEnter_shows hp, s.reverseExit_shows hp, s.speedCollapse_idle, s.speedCollapse_shows hp,
    s.webBreak_shows hp⟩

end Sys2Proof.Machine
end

section
/-! PROOFS. The commands of Sundial (R105–R108, R115, R128). -/

namespace Sys2Proof.Machine

variable (s : State)

/-- An accepted command has shown its result to its requester and kept the part awake: nothing else differs. -/
theorem State.taken_eq (r : Req) (page code : Nat) :
    ∃ x y z, s.taken r page code = { s with emitted := [], pwr := x, host := y, gkpSide := z } := by
  obtain ⟨x, h⟩ := s.reached_eq r page
  unfold State.taken
  rw [h]
  cases r
  · exact ⟨x, _, _, rfl⟩
  · exact ⟨x, _, _, rfl⟩

/-! ### LOAD_POSITION (R108) -/

/-- What LOAD_POSITION makes of the state it is accepted in. -/
def State.loaded (s : State) : State :=
  let p := BitVec.ofNat 48 (s.rd2 pgSDL SDL_POS_LOAD_LO_POS SDL_POS_LOAD_HI_POS)
  let d := p - s.pos
  (((s.keepReached.setPos p).setHwm p).updSdl (fun x =>
    { x with ofs := x.ofs + d, corr := 0, reverse := false, chk := x.chk + d.toInt * 2 ^ 24 })).remark

theorem State.exec_loadPosition_accepts (r : Req) (h : s.Takes r pgSDL) (hs : s.schedulesStopped = true) :
    exec (.loadPosition r 0) s = .next (s.taken r pgSDL 1).loaded := by
  have he : exec (.loadPosition r 0) s = .next (command r pgSDL 0x0001 0 true false
      (fun s => [(!s.schedulesStopped, rcWRONG_STATE)]) State.loaded s.fresh) := rfl
  obtain ⟨x, hx⟩ := s.reached_eq r pgSDL
  have hs' : (s.reached r pgSDL).schedulesStopped = true := by rw [hx]; exact hs
  rw [he, command_accepts _ _ _ _ _ _ _ _ _ h.reach h.idle (.inr h.live) (fun _ => rfl) (by simp [hs'])]

theorem State.loaded_pos :
    s.loaded.pos = BitVec.ofNat 48 (s.rd2 pgSDL SDL_POS_LOAD_LO_POS SDL_POS_LOAD_HI_POS) := by
  unfold State.loaded
  rw [State.pos_remark, State.pos_updSdl, State.pos_setHwm, State.pos_setPos]

theorem State.loaded_hwm : s.loaded.hwm = s.loaded.pos := by
  rw [State.loaded_pos]
  unfold State.loaded
  rw [State.hwm_remark, State.hwm_updSdl, State.hwm_setHwm]

theorem State.loaded_word (p o : Nat) (ho : o < 4096) (h : p ≠ pgSDL) : s.loaded.word p o = s.word p o := by
  unfold State.loaded
  rw [State.word_remark, State.word_updSdl,
    ((State.setPos_tracks _ _ rfl rfl).trans (State.setHwm_tracks _ _ rfl rfl) :
      s.keepReached.Tracks _ (fun p _ => p = pgSDL)).word p o ho h, State.word_keepReached]

theorem State.loaded_reverse : s.loaded.sdl.reverse = false := by
  unfold State.loaded
  rw [State.sdl_remark]
  rfl

theorem State.loaded_corr : s.loaded.sdl.corr = 0 := by
  unfold State.loaded
  rw [State.sdl_remark]
  rfl

/-- Only registers, Sundial's own state and the commits' marks differ once a position is loaded. -/
theorem State.loaded_shape : ∃ x y z, s.loaded = { s with regs := x, sdl := y, commits := z } := by
  let p := BitVec.ofNat 48 (s.rd2 pgSDL SDL_POS_LOAD_LO_POS SDL_POS_LOAD_HI_POS)
  obtain ⟨_, h1⟩ := s.keepReached.setPos_shape p
  obtain ⟨x, h2⟩ := (s.keepReached.setPos p).setHwm_shape p
  unfold State.loaded
  dsimp only
  rw [h2, h1]
  exact ⟨x, _, _, rfl⟩

/-! ### RESUME (R107) -/

/-- What RESUME makes of the state it is accepted in. -/
def State.resumed (s : State) : State :=
  ((s.follow (encNum (s.ac pgSDL SDL_CFG_SOURCE))).updSdl (fun x => { x with noSource := false })).showSpeed

theorem State.exec_sdlResume_accepts (r : Req) (h : s.Takes r pgSDL) (hs : s.sdl.noSource = true)
    (ht : s.tracking (encNum (s.ac pgSDL SDL_CFG_SOURCE)) = true) :
    exec (.sdlResume r 0) s = .next (s.taken r pgSDL 2).resumed := by
  have he : exec (.sdlResume r 0) s = .next (command r pgSDL 0x0002 0 true false
      (fun s => [(!(s.sdl.noSource && s.tracking (encNum (s.ac pgSDL SDL_CFG_SOURCE))), rcWRONG_STATE)])
      State.resumed s.fresh) := rfl
  obtain ⟨x, hx⟩ := s.reached_eq r pgSDL
  have hn : (s.reached r pgSDL).sdl.noSource = true := by rw [hx]; exact hs
  have hk : (s.reached r pgSDL).tracking (encNum ((s.reached r pgSDL).ac pgSDL SDL_CFG_SOURCE)) = true := by
    rw [hx]; exact ht
  rw [he, command_accepts _ _ _ _ _ _ _ _ _ h.reach h.idle (.inr h.live) (fun _ => rfl) (by simp [hn, hk])]

/-- What is shown of a source and of its speed. -/
def sourceWord (p o : Nat) : Prop := (p = pgSDL ∧ o = 0x010) ∨ (p = pgSPD ∧ o = 0x040)

theorem State.follow_tracks (m : Fin 3) : s.Tracks (s.follow m) sourceWord := by
  have h : s.Tracks (((s.updEnc m (fun e => { e with ext := 0 })).updSdl
      (fun x => { x with ofs := s.pos - s.encCount m })).wr pgSDL SDL_STATUS_ACTIVE m.val) sourceWord :=
    ((s.updEnc_tracks _ _).trans (State.updSdl_tracks _ _)).trans
      (State.wr_tracks _ _ _ _ (by decide) (by decide) (.inl ⟨rfl, rfl⟩))
  unfold State.follow
  dsimp only
  split
  · exact h.trans (State.updSdl_tracks _ _)
  · exact h

theorem State.follow_source (m : Fin 3) : (s.follow m).source = m := by
  let u := ((s.updEnc m (fun e => { e with ext := 0 })).updSdl
    (fun x => { x with ofs := s.pos - s.encCount m })).wr pgSDL SDL_STATUS_ACTIVE m.val
  have h : (s.follow m).source = u.source := by
    unfold State.follow
    dsimp only
    split
    · exact State.source_of_regs rfl rfl
    · rfl
  exact h.trans (State.source_wr_active _ m)

theorem State.resumed_tracks : s.Tracks s.resumed sourceWord := by
  unfold State.resumed
  exact ((s.follow_tracks _).trans (State.updSdl_tracks _ _)).trans (State.showSpeed_tracks _ (.inr ⟨rfl, rfl⟩))

theorem State.resumed_noSource : s.resumed.sdl.noSource = false := by
  unfold State.resumed
  rw [State.showSpeed_noSource]
  rfl

theorem State.resumed_source : s.resumed.source = encNum (s.ac pgSDL SDL_CFG_SOURCE) := by
  unfold State.resumed
  rw [State.showSpeed_source]
  exact (State.source_of_regs rfl rfl).trans (s.follow_source _)

theorem State.follow_shape (m : Fin 3) : ∃ x y z, s.follow m = { s with regs := x, sdl := y, enc := z } := by
  obtain ⟨x, h⟩ := ((s.updEnc m (fun e => { e with ext := 0 })).updSdl
    (fun x => { x with ofs := s.pos - s.encCount m })).wr_shape pgSDL SDL_STATUS_ACTIVE m.val
  unfold State.follow
  dsimp only
  rw [h]
  split
  · exact ⟨x, _, _, rfl⟩
  · exact ⟨x, _, _, rfl⟩

theorem State.resumed_rest : { s.resumed with regs := s.regs, sdl := s.sdl, enc := s.enc } = s := by
  obtain ⟨_, _, hs⟩ := State.showSpeed_shape ((s.follow (encNum (s.ac pgSDL SDL_CFG_SOURCE))).updSdl
    (fun x => { x with noSource := false }))
  obtain ⟨_, _, _, hf⟩ := s.follow_shape (encNum (s.ac pgSDL SDL_CFG_SOURCE))
  unfold State.resumed
  rw [hs, hf]
  rfl

/-! ### ALIGN_CHECK (R106) -/

theorem State.exec_alignCheck_accepts (r : Req) (m : Fin 3) (h : s.Takes r pgSDL) (hm : s.checkEnc = some m) :
    exec (.alignCheck r 0) s = .next (s.taken r pgSDL 3).checkAlign.checkOk := by
  have he : exec (.alignCheck r 0) s = .next (command r pgSDL 0x0003 0 true false
      (fun s => [(s.checkEnc.isNone, rcBAD_ARG)]) (fun s => s.checkAlign.checkOk) s.fresh) := rfl
  obtain ⟨x, hx⟩ := s.reached_eq r pgSDL
  have hm' : (s.reached r pgSDL).checkEnc = some m := by rw [hx]; exact hm
  rw [he, command_accepts _ _ _ _ _ _ _ _ _ h.reach h.idle (.inr h.live) (fun _ => rfl) (by simp [hm'])]

/-- The check encoder, aligned and eligible again. -/
theorem State.alignedCheck_eq (m : Fin 3) (h : s.checkEnc = some m) : s.checkAlign.checkOk =
    (s.wr pgSDL SDL_CHECK_DIFF_PU 0).updSdl (fun x =>
      { x with chk := (s.pos.toNat : Int) * 2 ^ 24, chkSet := true, chkOver := false,
               chkOk := x.chkOk.set m.val true }) := by
  have ha : s.checkAlign = (s.wr pgSDL SDL_CHECK_DIFF_PU 0).updSdl (fun x =>
      { x with chk := (s.pos.toNat : Int) * 2 ^ 24, chkSet := true, chkOver := false }) := by
    unfold State.checkAlign; rw [h]; rfl
  have hm : s.checkAlign.checkEnc = some m := by rw [ha]; exact h
  unfold State.checkOk
  rw [hm, ha]
  rfl

/-! ### ENABLE (R105, R128) -/

theorem State.exec_sdlEnable_off (r : Req) (h : s.open r pgSDL = true) (hoff : s.sdlOn = false) :
    exec (.sdlEnable r) s = .next (if s.ready = true then (s.reached r pgSDL).sdlOnNow
      else (s.reached r pgSDL).dropWrite r pgSDL 0x00C) := by
  obtain ⟨x, hx⟩ := s.reached_eq r pgSDL
  have hon : (s.reached r pgSDL).sdlOn = false := by rw [hx]; exact hoff
  have hr : (s.reached r pgSDL).ready = s.ready := by rw [hx]; rfl
  have he : exec (.sdlEnable r) s = .next (s.fresh.access r pgSDL 0x00C (fun t =>
      if t.sdlOn then t else if !t.ready then t.dropWrite r pgSDL 0x00C else t.sdlOnNow)) := rfl
  rw [he, s.access_fresh_open r pgSDL _ _ h, hon, hr]
  cases s.ready <;> rfl

theorem State.exec_sdlDisable_on (r : Req) (h : s.open r pgSDL = true) (hon : s.sdlOn = true) :
    exec (.sdlDisable r) s = .next (if s.schedulesStopped = true then
      (s.reached r pgSDL).revote (fun t => t.wr pgSDL UNIT_CTRL_ENABLE 0)
      else (s.reached r pgSDL).dropWrite r pgSDL 0x00C) := by
  obtain ⟨x, hx⟩ := s.reached_eq r pgSDL
  have hon' : (s.reached r pgSDL).sdlOn = true := by rw [hx]; exact hon
  have hs : (s.reached r pgSDL).schedulesStopped = s.schedulesStopped := by rw [hx]; rfl
  have he : exec (.sdlDisable r) s = .next (s.fresh.access r pgSDL 0x00C (fun t =>
      if t.sdlOn then t.sdlOff r else t)) := rfl
  rw [he, s.access_fresh_open r pgSDL _ _ h, if_pos hon', State.sdlOff, hs]

/-! ### RELEASE_HALT (R115) -/

theorem State.exec_releaseHalt_accepts (r : Req) (h : s.TakesOff r pgSDL)
    (hl : s.bit pgSDL SDL_STATUS_HALT_LATCHED = true) (hw : s.aon.webBreak = false) :
    exec (.releaseHalt r 0) s = .next ((s.taken r pgSDL 4).wr pgSDL SDL_STATUS_HALT_LATCHED 0) := by
  have he : exec (.releaseHalt r 0) s = .next (command r pgSDL 0x0004 0 true true
      (fun s => [(!s.bit pgSDL SDL_STATUS_HALT_LATCHED || s.aon.webBreak, rcWRONG_STATE)])
      (fun s => s.wr pgSDL SDL_STATUS_HALT_LATCHED 0) s.fresh) := rfl
  obtain ⟨x, hx⟩ := s.reached_eq r pgSDL
  have hw' : (s.reached r pgSDL).aon.webBreak = false := by rw [hx]; exact hw
  rw [he, command_accepts _ _ _ _ _ _ _ _ _ h.reach h.idle (.inl rfl) (fun _ => rfl) (by simp [hl, hw'])]

/-! ### Sundial starts (R105, R115) -/

/-- Sundial takes its source and its position as its domain's vote is cast. -/
def State.sourced (s : State) : State :=
  let m := encNum (s.ac pgSDL SDL_CFG_SOURCE)
  let live := s.tracking m
  let first := !s.sdl.once
  let p := if first && live then s.encCount m else s.pos
  let s1 := s.updSdl (fun x =>
    { x with once := true, ofs := if first then 0 else s.pos - s.encCount m, noSource := !live,
             reverse := false, still := false, corr := 0 })
  (((s1.setPos p).setHwm p).wr pgSDL SDL_STATUS_ACTIVE m.val).remark

/-- The check encoder is aligned and the speed shown; Sundial halts where the web is broken. -/
def State.settled (s : State) : State :=
  let s3 := if s.checkEnc.isSome then s.checkAlign else s
  let s4 := s3.showSpeed
  if s4.aon.webBreak && s4.bit pgSDL SDL_HALT_ON_BREAK then s4.halt else s4

theorem State.sdlOnNow_eq :
    s.sdlOnNow = (s.keepReached.revote (fun t => t.wr pgSDL UNIT_CTRL_ENABLE 1)).sourced.settled := rfl

theorem not_reactWord_sdl (part : Part) (o : Nat) : ¬ reactWord part pgSDL o :=
  not_reactWord part pgSDL o (by decide) (by decide) (by unfold kindOf; rw [unitOf_sdl]; decide)

/-- What Sundial's first steps show: the halt, the check difference and the speed. -/
def settleWord (p o : Nat) : Prop := (p = pgSDL ∧ (o = 0x010 ∨ o = 0x070)) ∨ (p = pgSPD ∧ o = 0x040)

theorem State.settled_tracks : s.Tracks s.settled settleWord := by
  have ha : s.Tracks (if s.checkEnc.isSome then s.checkAlign else s) settleWord := by
    split
    · exact s.checkAlign_tracks (.inl ⟨rfl, .inr rfl⟩)
    · exact .refl s _
  unfold State.settled
  generalize (if s.checkEnc.isSome then s.checkAlign else s) = u at ha
  have hs : s.Tracks u.showSpeed settleWord := ha.trans (u.showSpeed_tracks (.inr ⟨rfl, rfl⟩))
  dsimp only
  split
  · exact hs.trans (State.halt_tracks _ (.inl ⟨rfl, .inl rfl⟩))
  · exact hs

theorem State.settled_once : s.settled.sdl.once = s.sdl.once := by
  have ha : (if s.checkEnc.isSome then s.checkAlign else s).sdl.once = s.sdl.once := by
    split
    · unfold State.checkAlign; dsimp only; split
      · rfl
      · rw [State.wrS_eq, State.wr_sdl]; rfl
    · rfl
  unfold State.settled
  generalize (if s.checkEnc.isSome then s.checkAlign else s) = u at ha
  dsimp only
  split
  · rw [State.halt_sdl, State.showSpeed_once, ha]
  · rw [State.showSpeed_once, ha]

theorem State.sourced_word (p o : Nat) (ho : o < 4096)
    (h : ¬ (p = pgSDL ∧ (o = 0x010 ∨ o = 0x050 ∨ o = 0x054 ∨ o = 0x058 ∨ o = 0x05C))) :
    s.sourced.word p o = s.word p o := by
  unfold State.sourced
  rw [State.word_remark, (((State.setPos_tracks _ _ (by decide) (by decide)).trans
    (State.setHwm_tracks _ _ (by decide) (by decide))).trans
    (State.wr_tracks _ _ _ _ (by decide) (by decide) (by decide)) : State.Tracks _ _ (fun p o =>
      p = pgSDL ∧ (o = 0x010 ∨ o = 0x050 ∨ o = 0x054 ∨ o = 0x058 ∨ o = 0x05C))).word p o ho h, State.word_updSdl]

theorem State.sourced_pos : s.sourced.pos =
    if !s.sdl.once && s.tracking (encNum (s.ac pgSDL SDL_CFG_SOURCE)) then
      s.encCount (encNum (s.ac pgSDL SDL_CFG_SOURCE)) else s.pos := by
  unfold State.sourced
  dsimp only
  rw [State.pos_remark, State.pos_wr_status _ _ _ (by decide) rfl, State.pos_setHwm, State.pos_setPos]

theorem State.sourced_hwm : s.sourced.hwm = s.sourced.pos := by
  rw [State.sourced_pos]
  unfold State.sourced
  dsimp only
  rw [State.hwm_remark, State.hwm_wr_status _ _ _ (by decide) rfl, State.hwm_setHwm]

theorem State.sourced_once : s.sourced.sdl.once = true := by
  unfold State.sourced
  dsimp only
  rw [State.sdl_remark, State.wr_sdl, State.sdl_setHwm, State.sdl_setPos]
  rfl

theorem State.sourced_sameMem : s.SameMem s.sourced := by
  unfold State.sourced
  dsimp only
  exact ((((State.updSdl_tracks (but := fun _ _ => True) s _).trans (State.setPos_tracks _ _ trivial trivial)).trans
    (State.setHwm_tracks _ _ trivial trivial)).trans
      (State.wr_tracks _ _ _ _ (by decide) (by decide) trivial)).keeps.sameMem.trans (State.remark_sameMem _)

theorem State.sdlOnNow_shows : s.sdlOnNow.sdlOn = true ∧ s.sdlOnNow.sdl.once = true ∧
    s.sdlOnNow.hwm = s.sdlOnNow.pos ∧ (s.sdl.once = true → s.sdlOnNow.pos = s.pos) ∧ s.SameMem s.sdlOnNow := by
  have hr := s.keepReached.revote_reacts (fun t => t.wr pgSDL UNIT_CTRL_ENABLE 1)
  rw [s.sdlOnNow_eq]
  generalize s.keepReached.revote (fun t => t.wr pgSDL UNIT_CTRL_ENABLE 1) = v at hr
  have hw : ∀ o, o < 4096 → v.word pgSDL o = (s.keepReached.wr pgSDL UNIT_CTRL_ENABLE 1).word pgSDL o :=
    fun o ho => hr.word pgSDL o ho (not_reactWord_sdl _ o)
  have hsettled := v.sourced.settled_tracks.keeps
  have hpos : v.sourced.settled.pos = v.sourced.pos := hsettled.pos (by unfold settleWord; decide)
    (by unfold settleWord; decide)
  refine ⟨?_, ?_, ?_, fun ho => ?_, ?_⟩
  · rw [hsettled.sdlOn (by unfold settleWord; decide)]
    unfold State.sdlOn State.bit State.rd
    rw [v.sourced_word _ _ (by decide) (by decide), hw _ (by decide)]
    exact State.bit_wr _ pgSDL UNIT_CTRL_ENABLE (by decide) 1
  · rw [State.settled_once, State.sourced_once]
  · rw [hpos, hsettled.hwm (by unfold settleWord; decide) (by unfold settleWord; decide), State.sourced_hwm]
  · have hv : v.sdl.once = true := (congrArg (fun x : State => x.sdl.once) hr.rest :).trans ho
    rw [hpos, State.sourced_pos, hv]
    refine (State.pos_of_words (hw _ (by decide)) (hw _ (by decide))).trans ?_
    exact State.pos_of_words (State.word_wr_ne _ _ _ _ _ (by decide) (by decide) (.inr (by decide)) _)
      (State.word_wr_ne _ _ _ _ _ (by decide) (by decide) (.inr (by decide)) _)
  · have hk : s.SameMem (s.keepReached.wr pgSDL UNIT_CTRL_ENABLE 1) := .of_eq rfl rfl rfl
    exact ((hk.trans hr.sameMem).trans v.sourced_sameMem).trans hsettled.sameMem

/-! ### Sundial stops (R128) -/

theorem State.sdlStops_shows : (s.revote (fun t => t.wr pgSDL UNIT_CTRL_ENABLE 0)).sdlOn = false ∧
    (s.revote (fun t => t.wr pgSDL UNIT_CTRL_ENABLE 0)).pos = s.pos ∧
    (s.revote (fun t => t.wr pgSDL UNIT_CTRL_ENABLE 0)).hwm = s.hwm ∧
    s.SameMem (s.revote (fun t => t.wr pgSDL UNIT_CTRL_ENABLE 0)) ∧
    s.SameRegs (s.revote (fun t => t.wr pgSDL UNIT_CTRL_ENABLE 0))
      (fun p o => (p = pgSDL ∧ o = 0x00C) ∨ s.powerWord p o) := by
  have hr := s.revote_reacts (fun t => t.wr pgSDL UNIT_CTRL_ENABLE 0)
  generalize s.revote (fun t => t.wr pgSDL UNIT_CTRL_ENABLE 0) = v at hr
  have hw : ∀ o, o < 4096 → v.word pgSDL o = (s.wr pgSDL UNIT_CTRL_ENABLE 0).word pgSDL o :=
    fun o ho => hr.word pgSDL o ho (not_reactWord_sdl _ o)
  have hs : ∀ o, o < 4096 → o ≠ 0x00C → v.word pgSDL o = s.word pgSDL o := fun o ho hn =>
    (hw o ho).trans (State.word_wr_ne _ _ _ _ _ (by decide) ho (.inr hn) _)
  refine ⟨?_, State.pos_of_words (hs _ (by decide) (by decide)) (hs _ (by decide) (by decide)),
    State.hwm_of_words (hs _ (by decide) (by decide)) (hs _ (by decide) (by decide)), ?_, ?_⟩
  · unfold State.sdlOn State.bit State.rd
    rw [hw _ (by decide)]
    exact State.bit_wr _ pgSDL UNIT_CTRL_ENABLE (by decide) 0
  · exact (s.wr_sameMem pgSDL 0 UNIT_CTRL_ENABLE).trans hr.sameMem
  · have hp : (s.wr pgSDL UNIT_CTRL_ENABLE 0).powerWord = s.powerWord := State.powerWord_of_part _ (State.wr_part _ _ _ _)
    exact (s.wr_sameRegs pgSDL UNIT_CTRL_ENABLE (by decide) 0).trans (hp ▸ hr.powerRegs)

/-! ### The statement -/

theorem State.loadPosition_shows (r : Req) (h : s.Takes r pgSDL) (hs : s.schedulesStopped = true) :
    ∃ t, exec (.loadPosition r 0) s = .next t ∧
      t.pos = BitVec.ofNat 48 (s.rd2 pgSDL SDL_POS_LOAD_LO_POS SDL_POS_LOAD_HI_POS) ∧
      t.hwm = t.pos ∧ t.sdl.reverse = false ∧ t.sdl.corr = 0 ∧ s.SameMem t ∧
      s.SameRegs t (fun p _ => p = pgSDL) ∧
      { t with regs := s.regs, sdl := s.sdl, commits := s.commits } = s.taken r pgSDL 1 := by
  have he := s.exec_loadPosition_accepts r h hs
  have hw := s.taken_word r pgSDL 1
  have hm := s.taken_sameMem r pgSDL 1
  obtain ⟨x, y, z, hv⟩ := s.taken_eq r pgSDL 1
  generalize s.taken r pgSDL 1 = v at he hw hm hv
  obtain ⟨_, _, _, hl⟩ := v.loaded_shape
  refine ⟨_, he, ?_, v.loaded_hwm, v.loaded_reverse, v.loaded_corr, ?_, ⟨fun p o ho hn => ?_, fun p o => ?_⟩, ?_⟩
  · rw [v.loaded_pos, State.rd2_of_words pgSDL _ _ (hw _ _) (hw _ _)]
  · exact hm.trans (by rw [hl]; exact .of_eq rfl rfl rfl)
  · rw [v.loaded_word p o ho hn, hw]
  · rw [hl, hv]; rfl
  · rw [hl, hv]

theorem State.sdlResume_shows (r : Req) (h : s.Takes r pgSDL) (hn : s.sdl.noSource = true)
    (ht : s.tracking (encNum (s.ac pgSDL SDL_CFG_SOURCE)) = true) :
    ∃ t, exec (.sdlResume r 0) s = .next t ∧ t.sdl.noSource = false ∧
      t.source = encNum (s.ac pgSDL SDL_CFG_SOURCE) ∧ t.pos = s.pos ∧ t.hwm = s.hwm ∧
      s.SameMem t ∧ s.SameRegs t (fun p o => (p = pgSDL ∧ o = 0x010) ∨ (p = pgSPD ∧ o = 0x040)) ∧
      { t with regs := s.regs, sdl := s.sdl, enc := s.enc } = s.taken r pgSDL 2 := by
  have he := s.exec_sdlResume_accepts r h hn ht
  have hw := s.taken_word r pgSDL 2
  have hm := s.taken_sameMem r pgSDL 2
  have hr := s.taken_sameRegs r pgSDL 2
  obtain ⟨x, y, z, hv⟩ := s.taken_eq r pgSDL 2
  generalize s.taken r pgSDL 2 = v at he hw hm hr hv
  have hac : v.ac pgSDL SDL_CFG_SOURCE = s.ac pgSDL SDL_CFG_SOURCE := by rw [hv]; rfl
  have hk := v.resumed_tracks.keeps
  refine ⟨_, he, v.resumed_noSource, ?_, ?_, ?_, hm.trans hk.sameMem, ?_, ?_⟩
  · rw [v.resumed_source, hac]
  · exact (hk.pos (by unfold sourceWord; decide) (by unfold sourceWord; decide)).trans
      (State.pos_of_words (hw _ _) (hw _ _))
  · exact (hk.hwm (by unfold sourceWord; decide) (by unfold sourceWord; decide)).trans
      (State.hwm_of_words (hw _ _) (hw _ _))
  · exact (hr.trans hk.sameRegs).mono fun _ _ => Or.rec False.elim id
  · have hrest := v.resumed_rest
    rw [show s.regs = v.regs by rw [hv], show s.sdl = v.sdl by rw [hv], show s.enc = v.enc by rw [hv]]
    exact hrest

theorem State.alignCheck_shows (r : Req) (m : Fin 3) (h : s.Takes r pgSDL) (hm : s.checkEnc = some m) :
    ∃ t, exec (.alignCheck r 0) s = .next t ∧ t.sdl.chkOk.get m = true ∧
      t.rd pgSDL SDL_CHECK_DIFF_PU = 0 ∧ s.SameMem t ∧
      s.SameRegs t (fun p o => p = pgSDL ∧ o = 0x070) ∧
      { t with regs := s.regs, sdl := s.sdl } = s.taken r pgSDL 3 := by
  have he := s.exec_alignCheck_accepts r m h hm
  have hs := s.taken_sameMem r pgSDL 3
  have hr := s.taken_sameRegs r pgSDL 3
  obtain ⟨x, y, z, hv⟩ := s.taken_eq r pgSDL 3
  generalize s.taken r pgSDL 3 = v at he hs hr hv
  rw [v.alignedCheck_eq m (by rw [hv]; exact hm)] at he
  have hd : (v.wr pgSDL SDL_CHECK_DIFF_PU 0).rd pgSDL SDL_CHECK_DIFF_PU = 0 :=
    (v.rd_wr _ _ (by decide) _).trans (Nat.zero_mod _)
  have hk := v.wr_sameRegs pgSDL SDL_CHECK_DIFF_PU (by decide) 0
  have hmem := v.wr_sameMem pgSDL 0 SDL_CHECK_DIFF_PU
  obtain ⟨w, hwr⟩ := v.wr_shape pgSDL SDL_CHECK_DIFF_PU 0
  generalize v.wr pgSDL SDL_CHECK_DIFF_PU 0 = u at he hd hk hmem hwr
  refine ⟨_, he, ?_, hd, hs.trans (hmem.trans (.of_eq rfl rfl rfl)),
    ((hr.trans hk).mono fun _ _ => Or.rec False.elim id), ?_⟩
  · exact Vector.getElem_set_self (xs := u.sdl.chkOk) m.isLt
  · rw [hwr, hv]; rfl

theorem State.releaseHalt_shows (r : Req) (h : s.TakesOff r pgSDL)
    (hl : s.bit pgSDL SDL_STATUS_HALT_LATCHED = true) (hb : s.aon.webBreak = false) :
    ∃ t, exec (.releaseHalt r 0) s = .next t ∧ t.bit pgSDL SDL_STATUS_HALT_LATCHED = false ∧
      s.SameMem t ∧ s.SameRegs t (fun p o => p = pgSDL ∧ o = 0x010) ∧
      { t with regs := s.regs } = s.taken r pgSDL 4 := by
  have he := s.exec_releaseHalt_accepts r h hl hb
  have hs := s.taken_sameMem r pgSDL 4
  have hr := s.taken_sameRegs r pgSDL 4
  obtain ⟨x, y, z, hv⟩ := s.taken_eq r pgSDL 4
  generalize s.taken r pgSDL 4 = v at he hs hr hv
  obtain ⟨w, hwr⟩ := v.wr_shape pgSDL SDL_STATUS_HALT_LATCHED 0
  refine ⟨_, he, v.bit_wr pgSDL SDL_STATUS_HALT_LATCHED (by decide) 0,
    hs.trans (v.wr_sameMem pgSDL 0 SDL_STATUS_HALT_LATCHED),
    (hr.trans (v.wr_sameRegs pgSDL SDL_STATUS_HALT_LATCHED (by decide) 0)).mono fun _ _ => Or.rec False.elim id, ?_⟩
  rw [hwr, hv]

theorem State.sdlEnable_shows (r : Req) (h : s.open r pgSDL = true) (hoff : s.sdlOn = false) :
    (s.ready = true → ∃ t, exec (.sdlEnable r) s = .next t ∧ t.sdlOn = true ∧ t.sdl.once = true ∧
      t.hwm = t.pos ∧ (s.sdl.once = true → t.pos = s.pos) ∧ s.SameMem t) ∧
    (s.ready = false → ∃ t, exec (.sdlEnable r) s = .next t ∧ s.Dropped t r pgSDL) := by
  have he := s.exec_sdlEnable_off r h hoff
  refine ⟨fun hr => ⟨_, he.trans (congrArg _ (if_pos hr)), ?_⟩, fun hr => ⟨_, he.trans (congrArg _ (if_neg ?_)),
    s.dropWrite_dropped r pgSDL 0x00C⟩⟩
  · have hm := s.reached_sameMem r pgSDL
    have hp := s.reached_pos r pgSDL
    obtain ⟨x, hx⟩ := s.reached_eq r pgSDL
    have ho : (s.reached r pgSDL).sdl = s.sdl := by rw [hx]
    generalize s.reached r pgSDL = v at hm hp ho
    obtain ⟨hon, honce, hhwm, hpos, hmem⟩ := v.sdlOnNow_shows
    exact ⟨hon, honce, hhwm, fun h1 => (hpos (by rw [ho]; exact h1)).trans hp, hm.trans hmem⟩
  · rw [hr]; exact Bool.false_ne_true

theorem State.sdlDisable_shows (r : Req) (h : s.open r pgSDL = true) (hon : s.sdlOn = true) :
    (s.schedulesStopped = true → ∃ t, exec (.sdlDisable r) s = .next t ∧ t.sdlOn = false ∧
      t.pos = s.pos ∧ t.hwm = s.hwm ∧ s.SameMem t ∧
      s.SameRegs t (fun p o => (p = pgSDL ∧ o = 0x00C) ∨ s.powerWord p o)) ∧
    (s.schedulesStopped = false → ∃ t, exec (.sdlDisable r) s = .next t ∧ s.Dropped t r pgSDL) := by
  have he := s.exec_sdlDisable_on r h hon
  refine ⟨fun hr => ⟨_, he.trans (congrArg _ (if_pos hr)), ?_⟩, fun hr => ⟨_, he.trans (congrArg _ (if_neg ?_)),
    s.dropWrite_dropped r pgSDL 0x00C⟩⟩
  · have hm := s.reached_sameMem r pgSDL
    have hr := s.reached_sameRegs r pgSDL (fun _ _ => False)
    have hp := s.reached_pos r pgSDL
    have hh := s.reached_hwm r pgSDL
    have hw : (s.reached r pgSDL).powerWord = s.powerWord := State.powerWord_of_part s (s.reached_part r pgSDL)
    generalize s.reached r pgSDL = v at hm hr hp hh hw
    obtain ⟨hoff, hpos, hhwm, hmem, hregs⟩ := v.sdlStops_shows
    rw [hw] at hregs
    exact ⟨hoff, hpos.trans hp, hhwm.trans hh, hm.trans hmem, (hr.trans hregs).mono fun _ _ => Or.rec False.elim id⟩
  · rw [hr]; exact Bool.false_ne_true

/-- Settles O29: each accepted command's effect is one or two writes of Sundial's page past the frame of the page
as reached; ENABLE lets the sequencer react first, which touches no register of Sundial. -/
theorem sundialCommands : Obligations.SundialCommands := fun s r =>
  ⟨s.loadPosition_shows r, s.sdlResume_shows r, fun m h hm => s.alignCheck_shows r m h hm, s.releaseHalt_shows r,
    s.sdlEnable_shows r, s.sdlDisable_shows r⟩

end Sys2Proof.Machine
end

section
/-! SUPPORT. An encoder is lost (R99, R101, R107, R128): a fit is abandoned, Sundial's source fails over or is
gone. -/

namespace Sys2Proof.Machine

variable {s t : State} {but : Nat → Nat → Prop}

theorem pgENC_ne_sdl (n : Fin 3) : pgENC n.val ≠ pgSDL := by
  have := n.isLt; unfold pgENC pgSDL; omega

theorem pgENC_ne_spd (n : Fin 3) : pgENC n.val ≠ pgSPD := by
  have := n.isLt; unfold pgENC pgSPD; omega

theorem pgENC_ne_gbk (n : Fin 3) : pgENC n.val ≠ pgGBK := by
  have := n.isLt; unfold pgENC pgGBK; omega

theorem pgENC_inj {m n : Fin 3} (h : m ≠ n) : pgENC m.val ≠ pgENC n.val := by
  intro he; exact h (Fin.ext (by unfold pgENC at he; omega))

/-- Where Sundial's source is lost or another one taken: its status, check difference, speed and events. -/
def sourceLossWord (p o : Nat) : Prop :=
  (p = pgSDL ∧ (o = 0x010 ∨ o = 0x070)) ∨ (p = pgSPD ∧ o = 0x040) ∨ evWords pgSDL p o

theorem not_sourceLossWord_enc (n : Fin 3) (o : Nat) : ¬ sourceLossWord (pgENC n.val) o := by
  have h1 := pgENC_ne_sdl n
  have h2 := pgENC_ne_spd n
  have h3 := pgENC_ne_gbk n
  rintro (h | h | h | h)
  · exact h1 h.1
  · exact h2 h.1
  · exact h1 h.1
  · exact h3 h.1

theorem State.Keeps.tracking (h : s.Keeps t but) (n : Fin 3) (hn : ¬ but (pgENC n.val) 0x010) :
    t.tracking n = s.tracking n := by
  unfold State.tracking; rw [h.encState n hn]

variable (s)

theorem State.loseSource_tracks : s.Tracks s.loseSource sourceLossWord :=
  (s.updSdl_tracks _).trans (State.showSpeed_tracks _ (.inr (.inl ⟨rfl, rfl⟩)))

theorem State.loseSource_noSource : s.loseSource.sdl.noSource = true := by
  unfold State.loseSource; rw [State.showSpeed_noSource]; rfl

theorem State.loseSource_speed : s.loseSource.rd pgSPD SPD_SPEED_V = 0 :=
  State.showSpeed_zero _ (.inr rfl)

/-- Sundial follows encoder `m`, aligns the check encoder and raises the switch. -/
def State.switched (s : State) (m : Fin 3) : State :=
  ((s.follow m).updEnc m (fun e => { e with latched := false })).checkAlign.raise pgSDL 0

theorem State.switchSource_eq (m : Fin 3) : s.switchSource m =
    if (s.switched m).tracking m then (s.switched m).showSpeed else (s.switched m).loseSource := rfl

theorem State.switched_tracks (m : Fin 3) : s.Tracks (s.switched m) sourceLossWord := by
  have hf : s.Tracks (s.follow m) sourceLossWord := (s.follow_tracks m).mono fun _ _ h =>
    h.elim (fun e => .inl ⟨e.1, .inl e.2⟩) (fun e => .inr (.inl e))
  exact ((hf.trans (State.updEnc_tracks _ _ _)).trans (State.checkAlign_tracks _ (.inl ⟨rfl, .inr rfl⟩))).trans
    (State.raise_sdl_tracks _ 0 fun _ _ h => .inr (.inr h))

theorem State.switchSource_tracks (m : Fin 3) : s.Tracks (s.switchSource m) sourceLossWord := by
  rw [State.switchSource_eq]
  split
  · exact (s.switched_tracks m).trans (State.showSpeed_tracks _ (.inr (.inl ⟨rfl, rfl⟩)))
  · exact (s.switched_tracks m).trans (State.loseSource_tracks _)

theorem State.checkAlign_noSource : s.checkAlign.sdl.noSource = s.sdl.noSource := by
  unfold State.checkAlign
  dsimp only
  split
  · rfl
  · rw [State.wrS_eq, State.wr_sdl]; rfl

theorem State.follow_noSource (m : Fin 3) : (s.follow m).sdl.noSource = s.sdl.noSource := by
  unfold State.follow
  dsimp only
  split
  · rw [State.sdl_updSdl, State.wr_sdl, State.sdl_updSdl]; rfl
  · rw [State.wr_sdl, State.sdl_updSdl]; rfl

theorem State.switched_noSource (m : Fin 3) : (s.switched m).sdl.noSource = s.sdl.noSource := by
  unfold State.switched
  rw [State.raise_sdl, State.checkAlign_noSource, State.updEnc_sdl, State.follow_noSource]

theorem State.switched_source (m : Fin 3) : (s.switched m).source = m := by
  let u := (s.follow m).updEnc m (fun e => { e with latched := false })
  have ha : u.Keeps u.checkAlign (fun p o => p = pgSDL ∧ o = 0x070) := (u.checkAlign_tracks ⟨rfl, rfl⟩).keeps
  have hr : u.checkAlign.Keeps (u.checkAlign.raise pgSDL 0) (evWords pgSDL) :=
    (u.checkAlign.raise_sdl_tracks 0 fun _ _ => id).keeps
  calc (s.switched m).source = u.checkAlign.source := hr.source (not_evWords _ _ _ (by decide) (by decide))
    _ = u.source := ha.source (by decide)
    _ = (s.follow m).source := State.source_of_regs rfl rfl
    _ = m := s.follow_source m

theorem State.switched_raised (m : Fin 3) (h : s.isolated .print = false) : (s.switched m).Raised pgSDL 0 := by
  have hk : s.Keeps ((s.follow m).updEnc m (fun e => { e with latched := false })).checkAlign (fun _ _ => True) :=
    ((((s.follow_tracks m).mono fun _ _ _ => trivial).trans (State.updEnc_tracks _ _ _)).trans
      (State.checkAlign_tracks _ trivial)).keeps
  exact State.raise_sdl_raised _ 0 (by decide) ((hk.isolated _).trans h)

/-- A switch to an encoder that tracks (R107). -/
theorem State.switchSource_shows (m : Fin 3) (ht : s.tracking m = true) (h : s.isolated .print = false) :
    (s.switchSource m).source = m ∧ (s.switchSource m).sdl.noSource = s.sdl.noSource ∧
      (s.switchSource m).Raised pgSDL 0 := by
  have hk := (s.switched_tracks m).keeps.tracking m (not_sourceLossWord_enc m _)
  have hs := s.switched_source m
  have hn := s.switched_noSource m
  have hr := s.switched_raised m h
  rw [State.switchSource_eq, if_pos (hk.trans ht)]
  refine ⟨(State.showSpeed_source _).trans hs, (State.showSpeed_noSource _).trans hn, ?_⟩
  exact (State.showSpeed_tracks (but := fun _ _ => True) (s.switched m) trivial).raised _ _ hr

theorem State.sourceFails_tracks : s.Tracks s.sourceFails sourceLossWord := by
  unfold State.sourceFails
  split
  · exact s.loseSource_tracks
  · split
    · exact s.switchSource_tracks _
    · exact s.loseSource_tracks

theorem State.sourceFails_lost (h : s.checkEnc = none) : s.sourceFails = s.loseSource := by
  unfold State.sourceFails; rw [h]

theorem State.sourceFails_over (m : Fin 3) (hc : s.checkEnc = some m) (hf : s.ac pgSDL SDL_CFG_FAILOVER = 1)
    (ht : s.tracking m = true) (ho : s.sdl.chkOk.get m = true) (hm : m ≠ s.source) :
    s.sourceFails = s.switchSource m := by
  unfold State.sourceFails
  rw [hc]
  exact if_pos ⟨hf, ht, ho, hm⟩

/-! ### A fit that is abandoned (R99) -/

/-- The status words of an encoder and of its fit. -/
def fitWord (n : Fin 3) (p o : Nat) : Prop := p = pgENC n.val ∧ (o = 0x010 ∨ o = 0x05C)

theorem State.encAbandon_eq (n : Fin 3) : s.encAbandon n =
    let s2 := ((s.updEnc n (fun e => { e with cal := .idle })).wr (pgENC n.val) ENC_CAL_STAT_ABANDONED 1).wr
      (pgENC n.val) UNIT_STATUS_CMD_BUSY 0
    if s.encState n = 2 then s2.wr (pgENC n.val) UNIT_STATUS_STATE 1 else s2 := rfl

theorem State.encAbandon_tracks (n : Fin 3) : s.Tracks (s.encAbandon n) (fitWord n) := by
  have h2 : s.Tracks (((s.updEnc n (fun e => { e with cal := .idle })).wr (pgENC n.val) ENC_CAL_STAT_ABANDONED 1).wr
      (pgENC n.val) UNIT_STATUS_CMD_BUSY 0) (fitWord n) :=
    ((s.updEnc_tracks _ _).trans (State.wr_tracks _ _ _ _ (by decide) (by decide) ⟨rfl, .inr rfl⟩)).trans
      (State.wr_tracks _ _ _ _ (by decide) (by decide) ⟨rfl, .inl rfl⟩)
  rw [State.encAbandon_eq]
  dsimp only
  split
  · exact h2.trans (State.wr_tracks _ _ _ _ (by decide) (by decide) ⟨rfl, .inl rfl⟩)
  · exact h2

theorem State.encAbandon_rest (n : Fin 3) : { s.encAbandon n with regs := s.regs, enc := s.enc } = s := by
  have h : { s.updEnc n (fun e => { e with cal := .idle }) with regs := s.regs, enc := s.enc } = s := rfl
  have h2 := State.wr_frame_enc (pgENC n.val) UNIT_STATUS_CMD_BUSY 0
    (State.wr_frame_enc (pgENC n.val) ENC_CAL_STAT_ABANDONED 1 h)
  rw [State.encAbandon_eq]
  dsimp only
  split
  · exact State.wr_frame_enc (pgENC n.val) UNIT_STATUS_STATE 1 h2
  · exact h2

theorem State.encAbandon_cal (n : Fin 3) : ((s.encAbandon n).encOf n).cal = .idle := by
  have h : ∀ u : State, u.enc = (s.updEnc n (fun e => { e with cal := .idle })).enc → (u.encOf n).cal = .idle :=
    fun u hu => by
      unfold State.encOf
      rw [hu]
      exact (congrArg Enc.cal (s.encOf_updEnc n n _) :).trans (by rw [if_pos rfl])
  rw [State.encAbandon_eq]
  dsimp only
  split
  · exact h _ (by rw [State.wr_enc, State.wr_enc, State.wr_enc])
  · exact h _ (by rw [State.wr_enc, State.wr_enc])

/-- A status bit apart from CMD_BUSY and the state stands. -/
theorem State.encAbandon_bit (n : Fin 3) (f : Fld) (hf : f.Sound) (ho : f.off = 0x010)
    (hb : UNIT_STATUS_CMD_BUSY.Apart f) (hs : UNIT_STATUS_STATE.Apart f) :
    (s.encAbandon n).bit (pgENC n.val) f = s.bit (pgENC n.val) f := by
  have h2 : (((s.updEnc n (fun e => { e with cal := .idle })).wr (pgENC n.val) ENC_CAL_STAT_ABANDONED 1).wr
      (pgENC n.val) UNIT_STATUS_CMD_BUSY 0).bit (pgENC n.val) f = s.bit (pgENC n.val) f := by
    rw [State.bit_wr_apart _ _ _ f (by decide) hf ho hb,
      State.bit_wr_ne _ _ _ _ f (by decide) hf (.inr (by rw [ho]; decide))]
    rfl
  rw [State.encAbandon_eq]
  dsimp only
  split
  · rw [State.bit_wr_apart _ _ _ f (by decide) hf ho hs, h2]
  · exact h2

theorem State.encAbandon_busy (n : Fin 3) : (s.encAbandon n).bit (pgENC n.val) UNIT_STATUS_CMD_BUSY = false := by
  have h2 : (((s.updEnc n (fun e => { e with cal := .idle })).wr (pgENC n.val) ENC_CAL_STAT_ABANDONED 1).wr
      (pgENC n.val) UNIT_STATUS_CMD_BUSY 0).bit (pgENC n.val) UNIT_STATUS_CMD_BUSY = false := by
    rw [State.bit_wr _ _ _ (by decide)]; rfl
  rw [State.encAbandon_eq]
  dsimp only
  split
  · rw [State.bit_wr_apart _ _ UNIT_STATUS_STATE UNIT_STATUS_CMD_BUSY (by decide) (by decide) rfl (by decide), h2]
  · exact h2

theorem State.encAbandon_abandoned (n : Fin 3) :
    (s.encAbandon n).bit (pgENC n.val) ENC_CAL_STAT_ABANDONED = true := by
  have h2 : (((s.updEnc n (fun e => { e with cal := .idle })).wr (pgENC n.val) ENC_CAL_STAT_ABANDONED 1).wr
      (pgENC n.val) UNIT_STATUS_CMD_BUSY 0).bit (pgENC n.val) ENC_CAL_STAT_ABANDONED = true := by
    rw [State.bit_wr_ne _ _ _ _ _ (by decide) (by decide) (.inr (by decide)), State.bit_wr _ _ _ (by decide)]; rfl
  rw [State.encAbandon_eq]
  dsimp only
  split
  · rw [State.bit_wr_ne _ _ _ _ _ (by decide) (by decide) (.inr (by decide)), h2]
  · exact h2

theorem State.encAbandon_sdl (n : Fin 3) : (s.encAbandon n).sdl = s.sdl :=
  (congrArg State.sdl (s.encAbandon_rest n) :)

/-! ### An encoder that stops supplying counts (R99, R107, R128) -/

/-- A fit that gathers is abandoned. -/
def State.fitEnds (s : State) (n : Fin 3) : State :=
  match (s.encOf n).cal with
  | .gathering _ => s.encAbandon n
  | _ => s

/-- An encoder that is switched off is no longer eligible as the check encoder. -/
def State.ineligible (s : State) (n : Fin 3) (off : Bool) : State :=
  if off && s.checkEnc == some n then s.checkBad n else s

theorem State.encLost_eq (n : Fin 3) (off : Bool) : s.encLost n off =
    if ((s.fitEnds n).ineligible n off).supplies n then ((s.fitEnds n).ineligible n off).sourceFails
    else (s.fitEnds n).ineligible n off := rfl

theorem State.fitEnds_tracks (n : Fin 3) : s.Tracks (s.fitEnds n) (fitWord n) := by
  unfold State.fitEnds
  split
  · exact s.encAbandon_tracks n
  · exact .refl s _

theorem State.fitEnds_sdl (n : Fin 3) : (s.fitEnds n).sdl = s.sdl := by
  unfold State.fitEnds
  split
  · exact s.encAbandon_sdl n
  · rfl

theorem State.fitEnds_fault (n : Fin 3) :
    (s.fitEnds n).bit (pgENC n.val) ENC_STATUS_FAULT = s.bit (pgENC n.val) ENC_STATUS_FAULT := by
  unfold State.fitEnds
  split
  · exact s.encAbandon_bit n _ (by decide) (by decide) (by decide) (by decide)
  · rfl

theorem State.ineligible_tracks (n : Fin 3) (off : Bool) : s.Tracks (s.ineligible n off) but := by
  unfold State.ineligible
  split
  · exact s.updSdl_tracks _
  · exact .refl s _

theorem State.ineligible_false (n : Fin 3) : s.ineligible n false = s := rfl

/-- The words of an encoder that is lost, and of Sundial as its source fails. -/
def encLossWord (n : Fin 3) (p o : Nat) : Prop := fitWord n p o ∨ sourceLossWord p o

theorem State.encLost_tracks (n : Fin 3) (off : Bool) : s.Tracks (s.encLost n off) (encLossWord n) := by
  have h : s.Tracks ((s.fitEnds n).ineligible n off) (encLossWord n) :=
    ((s.fitEnds_tracks n).mono fun _ _ => .inl).trans (State.ineligible_tracks _ n off)
  rw [State.encLost_eq]
  split
  · exact h.trans ((State.sourceFails_tracks _).mono fun _ _ => .inr)
  · exact h

/-- Sundial's own registers are no words of an encoder's fit. -/
theorem not_fitWord_sdl (n : Fin 3) (o : Nat) : ¬ fitWord n pgSDL o := fun h => pgENC_ne_sdl n h.1.symm

theorem State.Keeps.supplies {s t : State} (h : s.Keeps t but) (n : Fin 3)
    (hs : t.sdl.noSource = s.sdl.noSource) (hc : ¬ but pgSDL 0x00C) (hn : ¬ but pgSDL 0x010) :
    t.supplies n = s.supplies n := by
  unfold State.supplies
  rw [h.sdlOn hc, h.source hn, hs]

theorem State.supplies_iff (n : Fin 3) :
    s.supplies n = true ↔ s.sdlOn = true ∧ s.source = n ∧ s.sdl.noSource = false := by
  unfold State.supplies
  simp [and_assoc]

theorem State.fitEnds_supplies (n m : Fin 3) : (s.fitEnds n).supplies m = s.supplies m :=
  (s.fitEnds_tracks n).keeps.supplies m (by rw [State.fitEnds_sdl]) (not_fitWord_sdl n _) (not_fitWord_sdl n _)

/-- A source that is lost with its fault fails over (R107). -/
theorem State.encLost_supplied (n : Fin 3) (h : s.supplies n = true) :
    s.encLost n false = (s.fitEnds n).sourceFails := by
  rw [State.encLost_eq, State.ineligible_false, if_pos ((s.fitEnds_supplies n n).trans h)]

theorem State.encLost_fault (n : Fin 3) (off : Bool) :
    (s.encLost n off).bit (pgENC n.val) ENC_STATUS_FAULT = s.bit (pgENC n.val) ENC_STATUS_FAULT := by
  have hi : ((s.fitEnds n).ineligible n off).bit (pgENC n.val) ENC_STATUS_FAULT =
      s.bit (pgENC n.val) ENC_STATUS_FAULT :=
    (((s.fitEnds n).ineligible_tracks (but := fun _ _ => False) n off).keeps.bit _ _ (by decide) not_false).trans
      (s.fitEnds_fault n)
  rw [State.encLost_eq]
  split
  · exact ((State.sourceFails_tracks _).keeps.bit _ _ (by decide) (not_sourceLossWord_enc n _)).trans hi
  · exact hi

end Sys2Proof.Machine
end

section
/-! PROOFS. Wire faults and the commands of an encoder (R99, R101, R104, R107, R128). -/

namespace Sys2Proof.Machine

variable (s : State)

/-! ### Which words may change -/

/-- The words of an encoder whose input fails: its own, those of Sundial as its source fails, and events. -/
def faultWord (n : Fin 3) (p o : Nat) : Prop := encLossWord n p o ∨ evWords (pgENC n.val) p o

theorem not_faultWord_pos (n : Fin 3) (o : Nat) (h1 : o ≠ 0x010) (h2 : o ≠ 0x014) (h3 : o ≠ 0x070) :
    ¬ faultWord n pgSDL o := by
  rintro ((h | h | h | h) | h)
  · exact not_fitWord_sdl n o h
  · exact h.2.elim h1 h3
  · exact absurd h.1 (by decide)
  · exact h.elim (fun e => h2 e.2) (fun e => absurd e.1 (by decide))
  · exact not_evWords_sdl n o h

theorem not_faultWord_enc (n m : Fin 3) (o : Nat) (h1 : o ≠ 0x010) (h2 : o ≠ 0x014) (h3 : o ≠ 0x050)
    (h4 : o ≠ 0x05C) : ¬ faultWord n (pgENC m.val) o := by
  rintro ((h | h) | h)
  · exact h.2.elim h1 h4
  · exact not_sourceLossWord_enc m o h
  · exact not_evWords _ _ _ h2 h3 h

theorem faultWord_within (n : Fin 3) (p o : Nat) (h : faultWord n p o) :
    p ∈ [pgENC n.val, pgSDL, pgSPD] ∨ evWords pgGBK p o := by
  rcases h with (h | h | h | h | h) | h | h
  · exact .inl (by simp [h.1])
  · exact .inl (by simp [h.1])
  · exact .inl (by simp [h.1])
  · exact .inl (by simp [h.1])
  · exact .inr (.inr h)
  · exact .inl (by simp [h.1])
  · exact .inr (.inr h)

theorem State.Keeps.ofFault {s t : State} {n : Fin 3} (h : s.Keeps t (faultWord n)) :
    t.pos = s.pos ∧ (∀ m, t.encCount m = s.encCount m) ∧ s.Within t [pgENC n.val, pgSDL, pgSPD] :=
  ⟨h.pos (not_faultWord_pos n _ (by decide) (by decide) (by decide))
      (not_faultWord_pos n _ (by decide) (by decide) (by decide)),
    fun m => h.encCount m (not_faultWord_enc n m _ (by decide) (by decide) (by decide) (by decide))
      (not_faultWord_enc n m _ (by decide) (by decide) (by decide) (by decide)),
    h.sameMem, h.sameRegs.mono (faultWord_within n)⟩

/-! ### A wire fault (R101, R107) -/

/-- FAULT is shown and raised, and the next index is latched only. -/
def State.faultShown (s : State) (n : Fin 3) : State :=
  ((s.wr (pgENC n.val) ENC_STATUS_FAULT 1).updEnc n (fun x => { x with latched := false })).raise (pgENC n.val) 0

/-- The words that show a fault. -/
def faultShownWord (n : Fin 3) (p o : Nat) : Prop :=
  (p = pgENC n.val ∧ o = 0x010) ∨ evWords (pgENC n.val) p o

theorem not_faultShownWord_sdl (n : Fin 3) (o : Nat) : ¬ faultShownWord n pgSDL o :=
  fun h => h.elim (fun e => pgENC_ne_sdl n e.1.symm) (not_evWords_sdl n o)

theorem State.exec_wireFault (n : Fin 3) (hl : s.encLive n = true) (h3 : s.encState n ≠ 3) :
    exec (.wireFault n) s = .next (((s.fresh.faultShown n).encLost n false).setState (pgENC n.val) 3) := by
  have he : exec (.wireFault n) s = .next (s.fresh.onlyIf (s.encLive n && decide (s.encState n ≠ 3)) (fun s =>
      ((s.faultShown n).encLost n false).setState (pgENC n.val) 3)) := rfl
  rw [he, hl, decide_eq_true h3]
  rfl

theorem State.faultShown_tracks (n : Fin 3) : s.Tracks (s.faultShown n) (faultShownWord n) :=
  ((s.wr_tracks _ _ _ (by decide) (by decide) (.inl ⟨rfl, rfl⟩)).trans (State.updEnc_tracks _ _ _)).trans
    (State.raise_enc_tracks _ n 0 fun _ _ => .inr)

theorem State.faultShown_bit (n : Fin 3) : (s.faultShown n).bit (pgENC n.val) ENC_STATUS_FAULT = true := by
  have h := (State.raise_enc_tracks ((s.wr (pgENC n.val) ENC_STATUS_FAULT 1).updEnc n
    (fun x => { x with latched := false })) n 0 fun _ _ => id).keeps.bit (pgENC n.val) ENC_STATUS_FAULT (by decide)
      (not_evWords _ _ _ (by decide) (by decide))
  refine h.trans ?_
  rw [State.bit_updEnc, State.bit_wr _ _ _ (by decide)]
  rfl

theorem State.faultShown_sdl (n : Fin 3) : (s.faultShown n).sdl = s.sdl := by
  unfold State.faultShown
  rw [State.raise_sdl, State.updEnc_sdl, State.wr_sdl]

theorem State.faultShown_raised (n : Fin 3) (h : s.isolated .print = false) :
    (s.faultShown n).Raised (pgENC n.val) 0 := by
  have hk : s.Keeps ((s.wr (pgENC n.val) ENC_STATUS_FAULT 1).updEnc n (fun x => { x with latched := false }))
      (fun _ _ => True) :=
    ((s.wr_tracks _ _ _ (by decide) (by decide) trivial).trans (State.updEnc_tracks _ _ _)).keeps
  exact State.raise_enc_raised _ n 0 (by decide) ((hk.isolated _).trans h)

theorem State.printUp_of_live (n : Fin 3) (h : s.encLive n = true) : s.printUp = true := by
  unfold State.encLive at h
  simp only [Bool.and_eq_true] at h
  exact h.1.1

/-- What is seen of Sundial once the encoder has been set to its state, is what its loss left. -/
theorem State.setState_enc_sdl (u : State) (n : Fin 3) (c : Nat) : (u.setState (pgENC n.val) c).sdl = u.sdl := by
  rw [State.setState_eq, State.wr_sdl]

theorem State.setState_enc_tracks (u : State) (n : Fin 3) (c : Nat) :
    u.Tracks (u.setState (pgENC n.val) c) (fun p o => p = pgENC n.val ∧ o = 0x010) := by
  rw [State.setState_eq]
  exact u.wr_tracks _ _ _ (by decide) (by decide) ⟨rfl, rfl⟩

theorem State.setState_encState (u : State) (n : Fin 3) (c : Nat) (h : c < 256) :
    (u.setState (pgENC n.val) c).encState n = c := by
  unfold State.encState
  rw [State.setState_eq, State.rd_wr _ _ _ (by decide)]
  exact Nat.mod_eq_of_lt h

theorem State.setState_enc_bit (u : State) (n : Fin 3) (c : Nat) (f : Fld) (hf : f.Sound) (ho : f.off = 0x010)
    (ha : UNIT_STATUS_STATE.Apart f) : (u.setState (pgENC n.val) c).bit (pgENC n.val) f = u.bit (pgENC n.val) f := by
  rw [State.setState_eq, State.bit_wr_apart _ _ _ f (by decide) hf ho ha]

/-- The fault's loss of an encoder that supplies the position, from the state in which it is shown. -/
theorem State.wireLost (n : Fin 3) (hon : s.sdlOn = true) (hs : s.source = n) (hn : s.sdl.noSource = false) :
    (s.faultShown n).encLost n false = ((s.faultShown n).fitEnds n).sourceFails ∧
      s.Keeps ((s.faultShown n).fitEnds n) (fun p o => faultShownWord n p o ∨ fitWord n p o) ∧
      ((s.faultShown n).fitEnds n).sdl = s.sdl ∧ ((s.faultShown n).fitEnds n).source = n := by
  have hshown := (s.faultShown_tracks n).keeps
  have hfit := ((s.faultShown n).fitEnds_tracks n).keeps
  have hsup : (s.faultShown n).supplies n = true := by
    rw [hshown.supplies n (by rw [State.faultShown_sdl]) (not_faultShownWord_sdl n _) (not_faultShownWord_sdl n _)]
    exact (s.supplies_iff n).mpr ⟨hon, hs, hn⟩
  refine ⟨State.encLost_supplied _ n hsup, (hshown.mono fun _ _ => .inl).trans (hfit.mono fun _ _ => .inr), ?_, ?_⟩
  · rw [State.fitEnds_sdl, State.faultShown_sdl]
  · rw [hfit.source (not_fitWord_sdl n _), hshown.source (not_faultShownWord_sdl n _), hs]

theorem State.wireFault_shows (n : Fin 3) (hl : s.encLive n = true) (h3 : s.encState n ≠ 3) :
    ∃ t, exec (.wireFault n) s = .next t ∧ t.bit (pgENC n.val) ENC_STATUS_FAULT = true ∧
      t.encState n = 3 ∧ t.Raised (pgENC n.val) 0 ∧ t.pos = s.pos ∧
      (∀ m, t.encCount m = s.encCount m) ∧ s.Within t [pgENC n.val, pgSDL, pgSPD] ∧
      (s.sdlOn = true → s.source = n → s.sdl.noSource = false → s.checkEnc = none →
        t.sdl.noSource = true ∧ t.rd pgSPD SPD_SPEED_V = 0) ∧
      (∀ m, s.sdlOn = true → s.source = n → s.sdl.noSource = false → s.checkEnc = some m →
        m ≠ n → s.ac pgSDL SDL_CFG_FAILOVER = 1 → s.tracking m = true → s.sdl.chkOk.get m = true →
        t.source = m ∧ t.sdl.noSource = false ∧ t.Raised pgSDL 0) := by
  have he := s.exec_wireFault n hl h3
  have hup : s.fresh.isolated .print = false := s.fresh.not_isolated_of_printUp (s.printUp_of_live n hl)
  have hshown := s.fresh.faultShown_tracks n
  have hraised := s.fresh.faultShown_raised n hup
  have hbit := s.fresh.faultShown_bit n
  have hlost := (s.fresh.faultShown n).encLost_tracks n false
  have hstate := ((s.fresh.faultShown n).encLost n false).setState_enc_tracks n 3
  have hk : s.fresh.Keeps _ (faultWord n) :=
    (((hshown.mono fun _ _ h => h.elim (fun e => .inl (.inl ⟨e.1, .inl e.2⟩)) .inr).trans
      (hlost.mono fun _ _ => .inl)).trans (hstate.mono fun _ _ e => .inl (.inl ⟨e.1, .inl e.2⟩))).keeps
  obtain ⟨hpos, hcount, hwithin⟩ := hk.ofFault
  refine ⟨_, he, ?_, State.setState_encState _ n 3 (by decide), hstate.raised _ _ (hlost.raised _ _ hraised), hpos,
    hcount, hwithin, fun hon hs hn hc => ?_, fun m hon hs hn hc hm hf ht ho => ?_⟩
  · rw [State.setState_enc_bit _ n 3 _ (by decide) (by decide) (by decide), State.encLost_fault]
    exact hbit
  · obtain ⟨heq, hfit, hsdl, hsrc⟩ := s.fresh.wireLost n hon hs hn
    rw [heq, State.sourceFails_lost _ (hfit.checkEnc.trans hc), State.setState_enc_sdl]
    refine ⟨State.loseSource_noSource _, ?_⟩
    rw [(State.setState_enc_tracks _ n 3).keeps.rd pgSPD SPD_SPEED_V (by decide)
      (fun e => pgENC_ne_spd n e.1.symm)]
    exact State.loseSource_speed _
  · obtain ⟨heq, hfit, hsdl, hsrc⟩ := s.fresh.wireLost n hon hs hn
    have htrack : ((s.fresh.faultShown n).fitEnds n).tracking m = true := (hfit.tracking m (by
      rintro ((h | h) | h)
      · exact pgENC_inj hm h.1
      · exact not_evWords _ _ _ (by decide) (by decide) h
      · exact pgENC_inj hm h.1)).trans ht
    have hover := State.sourceFails_over ((s.fresh.faultShown n).fitEnds n) m (hfit.checkEnc.trans hc)
      ((State.ac_of_act _ _ hfit.core.part hfit.core.act _ _).trans hf) htrack (by rw [hsdl]; exact ho)
      (by rw [hsrc]; exact hm)
    obtain ⟨hsource, hno, hr⟩ := State.switchSource_shows _ m htrack ((hfit.isolated _).trans hup)
    rw [heq, hover] at hstate ⊢
    refine ⟨?_, ?_, hstate.raised _ _ hr⟩
    · rw [hstate.keeps.source (fun e => pgENC_ne_sdl n e.1.symm), hsource]
    · rw [State.setState_enc_sdl, hno, hsdl]
      exact hn

/-! ### The end of a wire fault (R101) -/

/-- The fault and the coasting are over, and the encoder tracks. -/
def State.faultCleared (s : State) (n : Fin 3) : State :=
  ((s.wr (pgENC n.val) ENC_STATUS_FAULT 0).setCoast n false).setState (pgENC n.val) 1

theorem State.exec_wireQualified (n : Fin 3) (hl : s.encLive n = true) (h3 : s.encState n = 3) :
    exec (.wireQualified n) s = .next (s.fresh.faultCleared n) := by
  have he : exec (.wireQualified n) s = .next (s.fresh.onlyIf (s.encLive n && decide (s.encState n = 3)) (fun s =>
      s.faultCleared n)) := rfl
  rw [he, hl, decide_eq_true h3]
  rfl

theorem State.setCoast_bit (n : Fin 3) (on : Bool) : (s.setCoast n on).bit (pgENC n.val) ENC_STATUS_COASTING = on :=
  s.bit_wrBit _ _ (by decide) on

theorem State.setCoast_bit_apart (n : Fin 3) (on : Bool) (f : Fld) (hf : f.Sound) (ho : f.off = 0x010)
    (ha : ENC_STATUS_COASTING.Apart f) : (s.setCoast n on).bit (pgENC n.val) f = s.bit (pgENC n.val) f := by
  unfold State.setCoast
  rw [State.wrBit_eq, State.bit_wr_apart _ _ _ f (by decide) hf ho ha]

theorem State.faultCleared_rest (n : Fin 3) : { s.faultCleared n with regs := s.regs } = s := by
  unfold State.faultCleared State.setCoast
  rw [State.setState_eq, State.wrBit_eq]
  exact State.wr_frame _ _ _ (State.wr_frame _ _ _ (State.wr_frame _ _ _ rfl))

theorem State.wireQualified_shows (n : Fin 3) (hl : s.encLive n = true) (h3 : s.encState n = 3) :
    ∃ t, exec (.wireQualified n) s = .next t ∧ t.bit (pgENC n.val) ENC_STATUS_FAULT = false ∧
      t.bit (pgENC n.val) ENC_STATUS_COASTING = false ∧ t.encState n = 1 ∧ s.SameMem t ∧
      s.SameRegs t (fun p o => p = pgENC n.val ∧ o = 0x010) ∧ { t with regs := s.regs } = s.fresh := by
  have hk : s.fresh.Keeps (s.fresh.faultCleared n) (fun p o => p = pgENC n.val ∧ o = 0x010) :=
    (((s.fresh.wr_tracks _ _ _ (by decide) (by decide) ⟨rfl, rfl⟩).trans (State.setCoast_tracks _ n _ ⟨rfl, rfl⟩)).trans
      (State.setState_enc_tracks _ n 1)).keeps
  refine ⟨_, s.exec_wireQualified n hl h3, ?_, ?_, State.setState_encState _ n 1 (by decide), hk.sameMem, hk.sameRegs,
    s.fresh.faultCleared_rest n⟩
  · rw [State.faultCleared, State.setState_enc_bit _ n 1 _ (by decide) (by decide) (by decide),
      State.setCoast_bit_apart _ n _ _ (by decide) (by decide) (by decide), State.bit_wr _ _ _ (by decide)]
    rfl
  · rw [State.faultCleared, State.setState_enc_bit _ n 1 _ (by decide) (by decide) (by decide)]
    exact State.setCoast_bit _ n false

/-! ### CALIBRATE (R99) -/

/-- A fit begins. -/
def State.fitBegun (s : State) (n : Fin 3) : State :=
  (((s.setBusy (pgENC n.val) true).setState (pgENC n.val) 2).wr (pgENC n.val) ENC_CAL_STAT_ABANDONED 0).updEnc n
    (fun x => { x with cal := .gathering (s.encCount n) })

theorem State.exec_calibrate_accepts (r : Req) (n : Fin 3) (h : s.Takes r (pgENC n.val)) (h1 : s.encState n = 1)
    (h2 : (s.encOf n).mode = 2) (hb : calBand (s.encOf n).speed = true) :
    exec (.calibrate r n 0) s = .next ((s.taken r (pgENC n.val) 1).fitBegun n) := by
  have he : exec (.calibrate r n 0) s = .next (command r (pgENC n.val) 0x0001 0 true false
      (fun s => [(!(s.encState n == 1 && (s.encOf n).mode == 2), rcWRONG_STATE),
        (!calBand (s.encOf n).speed, rcBAD_ARG)]) (fun s => s.fitBegun n) s.fresh) := rfl
  obtain ⟨x, hx⟩ := s.reached_eq r (pgENC n.val)
  have h1' : (s.reached r (pgENC n.val)).encState n = 1 := by rw [hx]; exact h1
  have h2' : (s.reached r (pgENC n.val)).encOf n = s.encOf n := by rw [hx]; rfl
  rw [he, command_accepts _ _ _ _ _ _ _ _ _ h.reach h.idle (.inr h.live) (fun _ => rfl) (by simp [h1', h2', h2, hb])]

theorem State.fitBegun_tracks (n : Fin 3) : s.Tracks (s.fitBegun n) (fitWord n) := by
  unfold State.fitBegun
  rw [State.setBusy_eq]
  exact (((s.wr_tracks _ _ _ (by decide) (by decide) ⟨rfl, .inl rfl⟩).trans
    ((State.setState_enc_tracks _ n 2).mono fun _ _ e => ⟨e.1, .inl e.2⟩)).trans
    (State.wr_tracks _ _ _ _ (by decide) (by decide) ⟨rfl, .inr rfl⟩)).trans (State.updEnc_tracks _ _ _)

theorem State.fitBegun_rest (n : Fin 3) : { s.fitBegun n with regs := s.regs, enc := s.enc } = s := by
  unfold State.fitBegun
  rw [State.setBusy_eq, State.setState_eq]
  exact State.updEnc_frame _ _ (State.wr_frame_enc _ _ _ (State.wr_frame_enc _ _ _ (State.wr_frame_enc _ _ _ rfl)))

theorem State.fitBegun_state (n : Fin 3) : (s.fitBegun n).encState n = 2 := by
  unfold State.fitBegun
  rw [State.encState_updEnc]
  have h := (State.wr_tracks ((s.setBusy (pgENC n.val) true).setState (pgENC n.val) 2) (pgENC n.val)
    ENC_CAL_STAT_ABANDONED 0 (but := fun _ o => o = 0x05C) (by decide) (by decide) rfl).keeps
  exact (h.encState n (by decide)).trans (State.setState_encState _ n 2 (by decide))

theorem State.fitBegun_busy (n : Fin 3) : (s.fitBegun n).bit (pgENC n.val) UNIT_STATUS_CMD_BUSY = true := by
  unfold State.fitBegun
  rw [State.bit_updEnc, State.bit_wr_ne _ _ _ _ _ (by decide) (by decide) (.inr (by decide)),
    State.setState_enc_bit _ n 2 _ (by decide) (by decide) (by decide), State.setBusy_eq,
    State.bit_wr _ _ _ (by decide)]
  rfl

theorem State.calibrate_shows (r : Req) (n : Fin 3) (h : s.Takes r (pgENC n.val)) (h1 : s.encState n = 1)
    (h2 : (s.encOf n).mode = 2) (hb : calBand (s.encOf n).speed = true) :
    ∃ t, exec (.calibrate r n 0) s = .next t ∧ (t.encOf n).cal = .gathering (s.encCount n) ∧ t.encState n = 2 ∧
      t.bit (pgENC n.val) UNIT_STATUS_CMD_BUSY = true ∧ s.SameMem t ∧
      s.SameRegs t (fun q o => q = pgENC n.val ∧ (o = 0x010 ∨ o = 0x05C)) ∧
      { t with regs := s.regs, enc := s.enc } = s.taken r (pgENC n.val) 1 := by
  have he := s.exec_calibrate_accepts r n h h1 h2 hb
  have hw := s.taken_word r (pgENC n.val) 1
  have hm := s.taken_sameMem r (pgENC n.val) 1
  have hr := s.taken_sameRegs r (pgENC n.val) 1
  obtain ⟨x, y, z, hv⟩ := s.taken_eq r (pgENC n.val) 1
  generalize s.taken r (pgENC n.val) 1 = v at he hw hm hr hv
  have hk := (v.fitBegun_tracks n).keeps
  have hcal : ((v.fitBegun n).encOf n).cal = .gathering (v.encCount n) := by
    unfold State.fitBegun; rw [State.encOf_updEnc, if_pos rfl]
  refine ⟨_, he, ?_, v.fitBegun_state n, v.fitBegun_busy n, hm.trans hk.sameMem,
    (hr.trans hk.sameRegs).mono fun _ _ => Or.rec False.elim id, ?_⟩
  · rw [hcal, State.encCount_of_words n (hw _ _) (hw _ _)]
  · have hrest := v.fitBegun_rest n
    rw [show s.regs = v.regs by rw [hv], show s.enc = v.enc by rw [hv]]
    exact hrest

/-! ### The end of a fit (R99) -/

/-- What a fit learns: free values (log 32). -/
def State.learned (s : State) : CalPhase :=
  .holding (Config.calOffset s.free) (Config.calGain s.free) (Config.calPhase s.free)

/-- A fit has gathered its lines: what it learned is held back behind a pending commit, or committed. -/
def State.fitDone (s : State) (n : Fin 3) : State :=
  let s1 := s.draw.setState (pgENC n.val) 1
  if (s1.commitOf (pgENC n.val)).isSome then
    s1.updEnc n (fun x => { x with cal := s.learned })
  else s1.encSelfCommit n (Config.calOffset s.free) (Config.calGain s.free) (Config.calPhase s.free)

theorem State.exec_fitEnd (n : Fin 3) (complete : Bool) (start : Pos) (hc : (s.encOf n).cal = .gathering start)
    (hp : s.printUp = true) : exec (.calibrationFitEnd n complete) s =
      .next (if !calBand (s.encOf n).speed then s.fresh.encAbandon n
        else if !complete || decide (posDiff (s.encCount n) start < 256 * 4096) then s.fresh else s.fresh.fitDone n) := by
  have he : exec (.calibrationFitEnd n complete) s = execCalibrationFitEnd n complete s := rfl
  have hc' : (s.fresh.encOf n).cal = .gathering start := hc
  have hp' : s.fresh.printUp = true := hp
  rw [he]
  unfold execCalibrationFitEnd run
  change Host.Outcome.next (match (s.fresh.encOf n).cal with | .gathering start => _ | _ => _) = _
  rw [hc']
  exact congrArg Host.Outcome.next (if_pos (c := s.fresh.printUp = true) hp')

theorem State.fitAbandon_shows (n : Fin 3) (complete : Bool) (start : Pos) (hc : (s.encOf n).cal = .gathering start)
    (hp : s.printUp = true) (hb : calBand (s.encOf n).speed = false) :
    ∃ t, exec (.calibrationFitEnd n complete) s = .next t ∧ (t.encOf n).cal = .idle ∧
      t.bit (pgENC n.val) ENC_CAL_STAT_ABANDONED = true ∧ t.bit (pgENC n.val) UNIT_STATUS_CMD_BUSY = false ∧
      s.SameMem t ∧ s.SameRegs t (fun q o => q = pgENC n.val ∧ (o = 0x010 ∨ o = 0x05C)) ∧
      { t with regs := s.regs, enc := s.enc } = s.fresh := by
  have he := s.exec_fitEnd n complete start hc hp
  rw [hb] at he
  have hk := (s.fresh.encAbandon_tracks n).keeps
  exact ⟨_, he, s.fresh.encAbandon_cal n, s.fresh.encAbandon_abandoned n, s.fresh.encAbandon_busy n, hk.sameMem,
    hk.sameRegs, s.fresh.encAbandon_rest n⟩

theorem State.fitGoesOn (n : Fin 3) (complete : Bool) (start : Pos) (hc : (s.encOf n).cal = .gathering start)
    (hp : s.printUp = true) (hb : calBand (s.encOf n).speed = true)
    (hl : complete = false ∨ posDiff (s.encCount n) start < 256 * 4096) :
    exec (.calibrationFitEnd n complete) s = .next s.fresh := by
  rw [s.exec_fitEnd n complete start hc hp, hb, Bool.not_true, if_neg Bool.false_ne_true]
  refine congrArg Host.Outcome.next (if_pos ?_)
  rcases hl with h | h
  · rw [h]; rfl
  · rw [decide_eq_true h, Bool.or_true]

theorem State.exec_fitDone (n : Fin 3) (start : Pos) (hc : (s.encOf n).cal = .gathering start)
    (hp : s.printUp = true) (hb : calBand (s.encOf n).speed = true)
    (hl : 256 * 4096 ≤ posDiff (s.encCount n) start) :
    exec (.calibrationFitEnd n true) s = .next (s.fresh.fitDone n) := by
  rw [s.exec_fitEnd n true start hc hp, hb, decide_eq_false (not_lt.mpr hl)]
  rfl

theorem State.drawn_tracks (n : Fin 3) :
    s.Tracks (s.draw.setState (pgENC n.val) 1) (fun p o => p = pgENC n.val ∧ o = 0x010) :=
  s.draw_tracks.trans (State.setState_enc_tracks _ n 1)

theorem State.drawn_commitOf (n : Fin 3) (p : Nat) :
    (s.draw.setState (pgENC n.val) 1).commitOf p = s.commitOf p := by
  unfold State.commitOf
  rw [State.setState_eq, State.wr_commits]
  rfl

theorem State.fitHeld_shows (n : Fin 3) (start : Pos) (hc : (s.encOf n).cal = .gathering start)
    (hp : s.printUp = true) (hb : calBand (s.encOf n).speed = true)
    (hl : 256 * 4096 ≤ posDiff (s.encCount n) start) (hw : (s.commitOf (pgENC n.val)).isSome = true) :
    ∃ t, exec (.calibrationFitEnd n true) s = .next t ∧
      (t.encOf n).cal = .holding (Config.calOffset s.free) (Config.calGain s.free) (Config.calPhase s.free) ∧
      s.SameMem t ∧ s.SameRegs t (fun q o => q = pgENC n.val ∧ o = 0x010) := by
  have he := s.exec_fitDone n start hc hp hb hl
  have hk : s.fresh.Keeps _ (fun q o => q = pgENC n.val ∧ o = 0x010) :=
    ((s.fresh.drawn_tracks n).trans (State.updEnc_tracks _ n (fun x => { x with cal := s.fresh.learned }))).keeps
  have hpending : ((s.fresh.draw.setState (pgENC n.val) 1).commitOf (pgENC n.val)).isSome = true := by
    rw [State.drawn_commitOf]; exact hw
  have hd : s.fresh.fitDone n =
      (s.fresh.draw.setState (pgENC n.val) 1).updEnc n (fun x => { x with cal := s.fresh.learned }) := by
    unfold State.fitDone; exact if_pos hpending
  refine ⟨_, he.trans (congrArg _ hd), ?_, hk.sameMem, hk.sameRegs⟩
  rw [State.encOf_updEnc, if_pos rfl]
  rfl

/-! ### A fit's own commit (R99) -/

/-- What a fit learned is put into the shadow. -/
def State.fitStored (s : State) (n : Fin 3) (ofs gain : Word) (phi : BitVec 16) : State :=
  (((s.setWord (pgENC n.val) 0x04C ofs).setWord (pgENC n.val) 0x050 gain).wr (pgENC n.val) ENC_PHASE_PHI
    phi.toNat).updEnc n (fun e => { e with cal := .armed })

/-- The words of a fit's values. -/
def fitValueWord (n : Fin 3) (p o : Nat) : Prop := p = pgENC n.val ∧ (o = 0x04C ∨ o = 0x050 ∨ o = 0x054)

theorem State.encSelfCommit_arms (n : Fin 3) (ofs gain : Word) (phi : BitVec 16) :
    ∃ c : Commit, c.own = true ∧
      s.encSelfCommit n ofs gain phi = (s.fitStored n ofs gain phi).armAs (pgENC n.val) c := by
  have hhead : headOfPage (s.fitStored n ofs gain phi).part (pgENC n.val) = none := by
    unfold headOfPage
    rw [unitOf_enc]
  have he : s.encSelfCommit n ofs gain phi = (s.fitStored n ofs gain phi).armCommit .host (pgENC n.val)
      (if s.refRunning then 3 else 1) true := rfl
  rw [he]
  cases s.refRunning
  · exact ⟨_, rfl, State.armCommit_now _ .host _ true⟩
  · exact ⟨_, rfl, State.armCommit_free _ .host _ 3 true hhead (by decide) (by decide)⟩

theorem State.setWord_keeps (p o : Nat) (w : Word) (but : Nat → Nat → Prop) (ho : o < 4096) (h : but p o) :
    s.Keeps (s.setWord p o w) but :=
  ⟨⟨rfl, rfl, rfl, rfl, rfl, rfl, rfl, rfl, rfl⟩, fun _ _ ho' hn => State.word_setWord_ne s ho ho'
    (not_and_or.mp fun e => hn (by rw [e.1, e.2]; exact h)) w⟩

theorem State.fitStored_keeps (n : Fin 3) (ofs gain : Word) (phi : BitVec 16) :
    s.Keeps (s.fitStored n ofs gain phi) (fitValueWord n) :=
  (((s.setWord_keeps _ 0x04C ofs _ (by decide) ⟨rfl, .inl rfl⟩).trans
    (State.setWord_keeps _ _ 0x050 gain _ (by decide) ⟨rfl, .inr (.inl rfl)⟩)).trans
    (State.wr_keeps _ _ _ _ (by decide) ⟨rfl, .inr (.inr rfl)⟩)).trans (State.updEnc_tracks _ _ _).keeps

theorem State.fitStored_words (n : Fin 3) (ofs gain : Word) (phi : BitVec 16) :
    (s.fitStored n ofs gain phi).word (pgENC n.val) 0x04C = ofs ∧
      (s.fitStored n ofs gain phi).word (pgENC n.val) 0x050 = gain := by
  unfold State.fitStored
  rw [State.word_updEnc, State.word_updEnc, State.word_wr_ne _ _ _ _ _ (by decide) (by decide) (.inr (by decide)),
    State.word_wr_ne _ _ _ _ _ (by decide) (by decide) (.inr (by decide)),
    State.word_setWord_ne _ (by decide) (by decide) (.inr (by decide)), State.word_setWord, State.word_setWord]
  exact ⟨rfl, rfl⟩

/-- A commit is pending on its page, and its moment's word alone is written. -/
theorem State.armAs_pending (p : Nat) (c : Commit) : (s.armAs p c).commitOf p = some c ∧ (s.armAs p c).enc = s.enc ∧
    s.Keeps (s.armAs p c) (fun q o => q = p ∧ o = 0x024) := by
  have hc : s.Keeps { s with commits := (p, c) :: s.commits } (fun q o => q = p ∧ o = 0x024) :=
    .of_regs _ ⟨rfl, rfl, rfl, rfl, rfl, rfl, rfl, rfl, rfl⟩ rfl
  have hk : ({ s with commits := (p, c) :: s.commits } : State).Keeps (s.armAs p c) (fun q o => q = p ∧ o = 0x024) :=
    State.wr_keeps _ _ _ _ (by decide) ⟨rfl, rfl⟩
  refine ⟨?_, State.wr_enc _ _ _ _, hc.trans hk⟩
  unfold State.commitOf State.armAs
  rw [State.wr_commits]
  simp

theorem State.fitCommit_shows (n : Fin 3) (start : Pos) (hc : (s.encOf n).cal = .gathering start)
    (hp : s.printUp = true) (hb : calBand (s.encOf n).speed = true)
    (hl : 256 * 4096 ≤ posDiff (s.encCount n) start) (hw : s.commitOf (pgENC n.val) = none) :
    ∃ t c, exec (.calibrationFitEnd n true) s = .next t ∧ (t.encOf n).cal = .armed ∧
      t.word (pgENC n.val) 0x04C = Config.calOffset s.free ∧ t.word (pgENC n.val) 0x050 = Config.calGain s.free ∧
      t.commitOf (pgENC n.val) = some c ∧ c.own = true ∧ s.SameMem t ∧
      s.SameRegs t (fun q o =>
        q = pgENC n.val ∧ (o = 0x010 ∨ o = 0x024 ∨ o = 0x04C ∨ o = 0x050 ∨ o = 0x054)) := by
  have he := s.exec_fitDone n start hc hp hb hl
  have hpending : ¬ ((s.fresh.draw.setState (pgENC n.val) 1).commitOf (pgENC n.val)).isSome = true := by
    rw [State.drawn_commitOf]
    rw [show s.fresh.commitOf (pgENC n.val) = none from hw]
    exact Bool.false_ne_true
  have hd : s.fresh.fitDone n = (s.fresh.draw.setState (pgENC n.val) 1).encSelfCommit n (Config.calOffset s.free)
      (Config.calGain s.free) (Config.calPhase s.free) := by
    unfold State.fitDone; exact if_neg hpending
  have hdrawn := (s.fresh.drawn_tracks n).keeps
  generalize s.fresh.draw.setState (pgENC n.val) 1 = u at hd hdrawn
  generalize Config.calOffset s.free = ofs at hd ⊢
  generalize Config.calGain s.free = gain at hd ⊢
  obtain ⟨c, hown, harm⟩ := u.encSelfCommit_arms n ofs gain (Config.calPhase s.free)
  have hstored := u.fitStored_keeps n ofs gain (Config.calPhase s.free)
  obtain ⟨hofs, hgain⟩ := u.fitStored_words n ofs gain (Config.calPhase s.free)
  have hcal : ((u.fitStored n ofs gain (Config.calPhase s.free)).encOf n).cal = .armed := by
    unfold State.fitStored; rw [State.encOf_updEnc, if_pos rfl]
  generalize u.fitStored n ofs gain (Config.calPhase s.free) = v at harm hstored hofs hgain hcal
  obtain ⟨hpend, henc, harmed⟩ := v.armAs_pending (pgENC n.val) c
  have hk : s.fresh.Keeps (v.armAs (pgENC n.val) c) (fun q o =>
      q = pgENC n.val ∧ (o = 0x010 ∨ o = 0x024 ∨ o = 0x04C ∨ o = 0x050 ∨ o = 0x054)) :=
    ((hdrawn.mono fun _ _ e => ⟨e.1, .inl e.2⟩).trans
      (hstored.mono fun _ _ e => ⟨e.1, .inr (.inr e.2)⟩)).trans (harmed.mono fun _ _ e => ⟨e.1, .inr (.inl e.2)⟩)
  refine ⟨_, c, he.trans (congrArg _ (hd.trans harm)), ?_, ?_, ?_, hpend, hown, hk.sameMem, hk.sameRegs⟩
  · unfold State.encOf; rw [henc]; exact hcal
  · rw [harmed.word _ _ (by decide) (fun e => absurd e.2 (by decide)), hofs]
  · rw [harmed.word _ _ (by decide) (fun e => absurd e.2 (by decide)), hgain]

/-! ### CLEAR_DRIFT (R102) -/

theorem State.exec_clearDrift_accepts (r : Req) (n : Fin 3) (h : s.Takes r (pgENC n.val)) :
    exec (.clearDrift r n 0) s =
      .next ((s.taken r (pgENC n.val) 2).wr (pgENC n.val) ENC_INDEX_DRIFT_SUM 0) := by
  have he : exec (.clearDrift r n 0) s = .next (command r (pgENC n.val) 0x0002 0 true false (fun _ => [])
      (fun s => s.wr (pgENC n.val) ENC_INDEX_DRIFT_SUM 0) s.fresh) := rfl
  rw [he, command_accepts _ _ _ _ _ _ _ _ _ h.reach h.idle (.inr h.live) (fun _ => rfl) (by simp)]

theorem State.clearDrift_shows (r : Req) (n : Fin 3) (h : s.Takes r (pgENC n.val)) :
    ∃ t, exec (.clearDrift r n 0) s = .next t ∧ t.rd (pgENC n.val) ENC_INDEX_DRIFT_SUM = 0 ∧ s.SameMem t ∧
      s.SameRegs t (fun q o => q = pgENC n.val ∧ o = 0x07C) ∧
      { t with regs := s.regs } = s.taken r (pgENC n.val) 2 := by
  have he := s.exec_clearDrift_accepts r n h
  have hm := s.taken_sameMem r (pgENC n.val) 2
  have hr := s.taken_sameRegs r (pgENC n.val) 2
  obtain ⟨x, y, z, hv⟩ := s.taken_eq r (pgENC n.val) 2
  generalize s.taken r (pgENC n.val) 2 = v at he hm hr hv
  obtain ⟨w, hwr⟩ := v.wr_shape (pgENC n.val) ENC_INDEX_DRIFT_SUM 0
  refine ⟨_, he, (v.rd_wr _ _ (by decide) _).trans (Nat.zero_mod _), hm.trans (v.wr_sameMem _ _ _),
    (hr.trans (v.wr_sameRegs _ _ (by decide) _)).mono fun _ _ => Or.rec False.elim id, ?_⟩
  rw [hwr, hv]

/-! ### ENABLE (R104, R128) -/

theorem State.exec_encEnable_off (r : Req) (n : Fin 3) (h : s.open r (pgENC n.val) = true)
    (hoff : s.bit (pgENC n.val) UNIT_CTRL_ENABLE = false) :
    exec (.encEnable r n) s = .next (if s.ready = true then (s.reached r (pgENC n.val)).encOn n
      else (s.reached r (pgENC n.val)).dropWrite r (pgENC n.val) 0x00C) := by
  obtain ⟨x, hx⟩ := s.reached_eq r (pgENC n.val)
  have hr : (s.reached r (pgENC n.val)).ready = s.ready := by rw [hx]; rfl
  have he : exec (.encEnable r n) s = .next (s.fresh.access r (pgENC n.val) 0x00C (fun t =>
      if t.bit (pgENC n.val) UNIT_CTRL_ENABLE then t
      else if !t.ready then t.dropWrite r (pgENC n.val) 0x00C else t.encOn n)) := rfl
  rw [he, s.access_fresh_open r (pgENC n.val) _ _ h, State.reached_bit, hoff, hr, if_neg Bool.false_ne_true]
  by_cases hb : s.ready = true
  · rw [if_pos hb, if_neg (by rw [hb]; decide)]
  · rw [if_neg hb, if_pos (by rw [Bool.not_eq_true] at hb; rw [hb]; rfl)]

theorem State.exec_encDisable_on (r : Req) (n : Fin 3) (h : s.open r (pgENC n.val) = true)
    (hon : s.bit (pgENC n.val) UNIT_CTRL_ENABLE = true) :
    exec (.encDisable r n) s = .next ((s.reached r (pgENC n.val)).encOff n) := by
  have he : exec (.encDisable r n) s = .next (s.fresh.access r (pgENC n.val) 0x00C (fun t =>
      if t.bit (pgENC n.val) UNIT_CTRL_ENABLE then t.encOff n else t)) := rfl
  rw [he, s.access_fresh_open r (pgENC n.val) _ _ h, State.reached_bit, if_pos hon]

/-- `MODE` and the filter are read, and the encoder's own mark starts at its count. -/
def State.encStarted (s : State) (n : Fin 3) : State :=
  (s.wr (pgENC n.val) UNIT_CTRL_ENABLE 1).updEnc n (fun x =>
    { x with mode := s.rd (pgENC n.val) ENC_CFG_MODE, dir := s.bit (pgENC n.val) ENC_CFG_DIR,
             filter := s.rd (pgENC n.val) ENC_CFG_FILTER, frac := none, hwm := s.encCount n, latched := false,
             missed := 0, pts := [], ext := 0 })

theorem State.encOn_eq (n : Fin 3) : s.encOn n =
    ((((s.encStarted n).wr (pgENC n.val) ENC_STATUS_INDEXED 0).wr (pgENC n.val) ENC_STATUS_FAULT 0).setCoast n
      false).setState (pgENC n.val)
        (b2n (s.rd (pgENC n.val) ENC_CFG_MODE == 1 || s.rd (pgENC n.val) ENC_CFG_MODE == 2)) := rfl

/-- The words that ENABLE of an encoder writes. -/
def encCtrlWord (n : Fin 3) (p o : Nat) : Prop := p = pgENC n.val ∧ (o = 0x00C ∨ o = 0x010)

theorem State.encOn_tracks (n : Fin 3) : s.Tracks (s.encOn n) (encCtrlWord n) := by
  rw [State.encOn_eq]
  exact (((((s.wr_tracks _ _ _ (by decide) (by decide) ⟨rfl, .inl rfl⟩).trans (State.updEnc_tracks _ _ _)).trans
    (State.wr_tracks _ _ _ _ (by decide) (by decide) ⟨rfl, .inr rfl⟩)).trans
    (State.wr_tracks _ _ _ _ (by decide) (by decide) ⟨rfl, .inr rfl⟩)).trans
    (State.setCoast_tracks _ n _ ⟨rfl, .inr rfl⟩)).trans
    ((State.setState_enc_tracks _ n _).mono fun _ _ e => ⟨e.1, .inr e.2⟩)

theorem State.encOn_rest (n : Fin 3) : { s.encOn n with regs := s.regs, enc := s.enc } = s := by
  rw [State.encOn_eq]
  unfold State.setCoast State.encStarted
  rw [State.setState_eq, State.wrBit_eq]
  exact State.wr_frame_enc _ _ _ (State.wr_frame_enc _ _ _ (State.wr_frame_enc _ _ _ (State.wr_frame_enc _ _ _
    (State.updEnc_frame _ _ (State.wr_frame_enc _ _ _ rfl)))))

theorem State.encOn_encOf (n : Fin 3) : ((s.encOn n).encOf n).mode = s.rd (pgENC n.val) ENC_CFG_MODE ∧
    ((s.encOn n).encOf n).hwm = s.encCount n := by
  have h : (s.encOn n).enc = (s.encStarted n).enc := by
    rw [State.encOn_eq, State.setState_eq, State.wr_enc, State.setCoast, State.wrBit_eq, State.wr_enc, State.wr_enc,
      State.wr_enc]
  have hs : (s.encOn n).encOf n = (s.encStarted n).encOf n := by unfold State.encOf; rw [h]
  rw [hs]
  unfold State.encStarted
  rw [State.encOf_updEnc, if_pos rfl]
  exact ⟨rfl, rfl⟩

theorem State.encOn_enabled (n : Fin 3) : (s.encOn n).bit (pgENC n.val) UNIT_CTRL_ENABLE = true := by
  rw [State.encOn_eq, State.setState_eq, State.bit_wr_ne _ _ _ _ _ (by decide) (by decide) (.inr (by decide)),
    State.setCoast, State.wrBit_eq, State.bit_wr_ne _ _ _ _ _ (by decide) (by decide) (.inr (by decide)),
    State.bit_wr_ne _ _ _ _ _ (by decide) (by decide) (.inr (by decide)),
    State.bit_wr_ne _ _ _ _ _ (by decide) (by decide) (.inr (by decide)), State.encStarted, State.bit_updEnc,
    State.bit_wr _ _ _ (by decide)]
  rfl

theorem State.encOn_indexed (n : Fin 3) : (s.encOn n).bit (pgENC n.val) ENC_STATUS_INDEXED = false := by
  rw [State.encOn_eq, State.setState_enc_bit _ n _ _ (by decide) (by decide) (by decide),
    State.setCoast_bit_apart _ n _ _ (by decide) (by decide) (by decide),
    State.bit_wr_apart _ _ ENC_STATUS_FAULT ENC_STATUS_INDEXED (by decide) (by decide) rfl (by decide), State.bit_wr _ _ _ (by decide)]
  rfl

theorem State.encOn_fault (n : Fin 3) : (s.encOn n).bit (pgENC n.val) ENC_STATUS_FAULT = false := by
  rw [State.encOn_eq, State.setState_enc_bit _ n _ _ (by decide) (by decide) (by decide),
    State.setCoast_bit_apart _ n _ _ (by decide) (by decide) (by decide), State.bit_wr _ _ _ (by decide)]
  rfl

theorem State.encOn_state (n : Fin 3) : (s.encOn n).encState n =
    if s.rd (pgENC n.val) ENC_CFG_MODE = 1 ∨ s.rd (pgENC n.val) ENC_CFG_MODE = 2 then 1 else 0 := by
  have hb : ∀ b, b2n b < 256 := fun b => by cases b <;> decide
  rw [State.encOn_eq, State.setState_encState _ n _ (hb _)]
  unfold b2n
  simp only [Bool.or_eq_true, beq_iff_eq]

theorem State.encEnable_shows (r : Req) (n : Fin 3) (h : s.open r (pgENC n.val) = true)
    (hoff : s.bit (pgENC n.val) UNIT_CTRL_ENABLE = false) :
    (s.ready = true →
      ∃ t, exec (.encEnable r n) s = .next t ∧ t.bit (pgENC n.val) UNIT_CTRL_ENABLE = true ∧
        (t.encOf n).mode = s.rd (pgENC n.val) ENC_CFG_MODE ∧ (t.encOf n).hwm = s.encCount n ∧
        t.encCount n = s.encCount n ∧ t.bit (pgENC n.val) ENC_STATUS_INDEXED = false ∧
        t.bit (pgENC n.val) ENC_STATUS_FAULT = false ∧
        t.encState n = (if s.rd (pgENC n.val) ENC_CFG_MODE = 1 ∨ s.rd (pgENC n.val) ENC_CFG_MODE = 2 then 1 else 0) ∧
        s.SameMem t ∧ s.SameRegs t (fun q o => q = pgENC n.val ∧ (o = 0x00C ∨ o = 0x010)) ∧
        { t with regs := s.regs, enc := s.enc } = s.reached r (pgENC n.val)) ∧
    (s.ready = false → ∃ t, exec (.encEnable r n) s = .next t ∧ s.Dropped t r (pgENC n.val)) := by
  have he := s.exec_encEnable_off r n h hoff
  refine ⟨fun hr => ⟨_, he.trans (congrArg _ (if_pos hr)), ?_⟩, fun hr => ⟨_, he.trans (congrArg _ (if_neg ?_)),
    s.dropWrite_dropped r (pgENC n.val) 0x00C⟩⟩
  · have hm := s.reached_sameMem r (pgENC n.val)
    have hr := s.reached_sameRegs r (pgENC n.val) (fun _ _ => False)
    have hw := s.reached_word r (pgENC n.val)
    have hrd := s.reached_rd r (pgENC n.val)
    obtain ⟨x, hx⟩ := s.reached_eq r (pgENC n.val)
    generalize s.reached r (pgENC n.val) = v at hm hr hw hrd hx
    have hcount : v.encCount n = s.encCount n := State.encCount_of_words n (hw _ _) (hw _ _)
    have hk := (v.encOn_tracks n).keeps
    obtain ⟨hmode, hhwm⟩ := v.encOn_encOf n
    have hnot : ∀ o, o ≠ 0x00C → o ≠ 0x010 → ¬ encCtrlWord n (pgENC n.val) o := fun o h1 h2 e => e.2.elim h1 h2
    refine ⟨v.encOn_enabled n, hmode.trans (hrd _ _), hhwm.trans hcount,
      (hk.encCount n (hnot _ (by decide) (by decide)) (hnot _ (by decide) (by decide))).trans hcount, v.encOn_indexed n,
      v.encOn_fault n,
      ?_, hm.trans hk.sameMem, (hr.trans hk.sameRegs).mono fun _ _ => Or.rec False.elim id, ?_⟩
    · rw [v.encOn_state n, hrd]
    · have hrest := v.encOn_rest n
      rw [show s.regs = v.regs by rw [hx], show s.enc = v.enc by rw [hx]]
      exact hrest
  · rw [hr]; exact Bool.false_ne_true

/-- FAULT, coasting and ENABLE go with an encoder that is switched off. -/
def State.encQuiet (s : State) (n : Fin 3) : State :=
  ((s.wr (pgENC n.val) UNIT_CTRL_ENABLE 0).wr (pgENC n.val) ENC_STATUS_FAULT 0).setCoast n false

theorem State.encOff_eq (n : Fin 3) : s.encOff n = ((s.encQuiet n).encLost n true).setState (pgENC n.val) 0 := rfl

theorem State.encQuiet_tracks (n : Fin 3) : s.Tracks (s.encQuiet n) (encCtrlWord n) :=
  ((s.wr_tracks _ _ _ (by decide) (by decide) ⟨rfl, .inl rfl⟩).trans
    (State.wr_tracks _ _ _ _ (by decide) (by decide) ⟨rfl, .inr rfl⟩)).trans
    (State.setCoast_tracks _ n _ ⟨rfl, .inr rfl⟩)

theorem State.encQuiet_off (n : Fin 3) : (s.encQuiet n).bit (pgENC n.val) UNIT_CTRL_ENABLE = false := by
  unfold State.encQuiet State.setCoast
  rw [State.wrBit_eq, State.bit_wr_ne _ _ _ _ _ (by decide) (by decide) (.inr (by decide)),
    State.bit_wr_ne _ _ _ _ _ (by decide) (by decide) (.inr (by decide)), State.bit_wr _ _ _ (by decide)]
  rfl

theorem State.encDisable_shows (r : Req) (n : Fin 3) (h : s.open r (pgENC n.val) = true)
    (hon : s.bit (pgENC n.val) UNIT_CTRL_ENABLE = true) :
    ∃ t, exec (.encDisable r n) s = .next t ∧ t.bit (pgENC n.val) UNIT_CTRL_ENABLE = false ∧ t.encState n = 0 ∧
      (∀ m, t.encCount m = s.encCount m) ∧ t.pos = s.pos ∧ s.Within t [pgENC n.val, pgSDL, pgSPD] := by
  have he := s.exec_encDisable_on r n h hon
  have hm := s.reached_sameMem r (pgENC n.val)
  have hr := s.reached_sameRegs r (pgENC n.val) (fun _ _ => False)
  have hw := s.reached_word r (pgENC n.val)
  have hpos := s.reached_pos r (pgENC n.val)
  generalize s.reached r (pgENC n.val) = v at he hm hr hw hpos
  rw [State.encOff_eq] at he
  have hlost := (v.encQuiet n).encLost_tracks n true
  have hstate := ((v.encQuiet n).encLost n true).setState_enc_tracks n 0
  have hafter : (v.encQuiet n).Keeps _ (encLossWord n) :=
    (hlost.trans (hstate.mono fun _ _ e => .inl ⟨e.1, .inl e.2⟩)).keeps
  obtain ⟨hp, hcount, hmem, hregs⟩ := State.Keeps.ofFault (n := n) (hafter.mono fun _ _ => .inl)
  have hquiet := (v.encQuiet_tracks n).keeps
  have hnot : ∀ m o, o ≠ 0x00C → o ≠ 0x010 → ¬ encCtrlWord n (pgENC m) o := fun m o h1 h2 e => e.2.elim h1 h2
  have hsdl : ∀ o, ¬ encCtrlWord n pgSDL o := fun o e => pgENC_ne_sdl n e.1.symm
  refine ⟨_, he, ?_, State.setState_encState _ n 0 (by decide), fun m => ?_, ?_,
    hm.trans (hquiet.sameMem.trans hmem), ?_⟩
  · rw [hafter.bit _ UNIT_CTRL_ENABLE (by decide) (fun e => e.elim
      (fun e => e.2.elim (by decide) (by decide)) (not_sourceLossWord_enc n _))]
    exact v.encQuiet_off n
  · rw [hcount m, hquiet.encCount m (hnot _ _ (by decide) (by decide)) (hnot _ _ (by decide) (by decide))]
    exact State.encCount_of_words m (hw _ _) (hw _ _)
  · rw [hp, hquiet.pos (hsdl _) (hsdl _), hpos]
  · refine ((hr.trans hquiet.sameRegs).trans hregs).mono fun p o e => ?_
    rcases e with (e | e) | e
    · exact e.elim
    · exact .inl (by simp [e.1])
    · exact e

/-- Settles O27: a fault, a fit and ENABLE write an encoder's own words; only the loss of Sundial's source reaches
Sundial's, and none of them a count or the position. -/
theorem encoderStates : Obligations.EncoderStates :=
  ⟨fun s n hl => ⟨s.wireFault_shows n hl, s.wireQualified_shows n hl⟩,
    fun s r n => ⟨s.calibrate_shows r n, fun start hc hp =>
      ⟨fun complete => s.fitAbandon_shows n complete start hc hp,
        fun complete => s.fitGoesOn n complete start hc hp,
        fun hb hl => ⟨s.fitHeld_shows n start hc hp hb hl, s.fitCommit_shows n start hc hp hb hl⟩⟩,
      s.clearDrift_shows r n, s.encEnable_shows r n, s.encDisable_shows r n⟩⟩

end Sys2Proof.Machine
end

section
/-! SUPPORT. An encoder's count moves (R96, R101, R105, R106, R109, R111): the position follows its source, the check
difference and the speed are shown. -/

namespace Sys2Proof.Machine

variable {s t u : State} {but : Nat → Nat → Prop}

/-! ### What a move of the count comes to -/

/-- The encoder's count has moved by `d`, and the position with it where the encoder is Sundial's source. -/
structure State.Moved (s t : State) (n : Fin 3) (d : Int) : Prop where
  count : t.encCount n = s.encCount n + BitVec.ofInt 48 d
  others : ∀ m, m ≠ n → t.encCount m = s.encCount m
  follows : s.supplies n = true → t.pos = s.pos + BitVec.ofInt 48 (d - wholePu (s.encOf n).ext) ∧
    t.hwm = if s.sdl.reverse = false ∧ ahead t.pos s.hwm = true then t.pos else s.hwm
  stands : s.supplies n = false → t.pos = s.pos ∧ t.hwm = s.hwm

/-- Neither a count nor the position or the mark differs. -/
structure State.Stands (s t : State) : Prop where
  counts : ∀ m, t.encCount m = s.encCount m
  pos : t.pos = s.pos
  hwm : t.hwm = s.hwm

theorem State.Stands.trans (h : s.Stands t) (h' : t.Stands u) : s.Stands u :=
  ⟨fun m => (h'.counts m).trans (h.counts m), h'.pos.trans h.pos, h'.hwm.trans h.hwm⟩

theorem State.Moved.after {n : Fin 3} {d : Int} (h : s.Moved t n d) (h' : t.Stands u) : s.Moved u n d where
  count := (h'.counts n).trans h.count
  others m hm := (h'.counts m).trans (h.others m hm)
  follows hs := by rw [h'.pos, h'.hwm]; exact h.follows hs
  stands hs := by rw [h'.pos, h'.hwm]; exact h.stands hs

theorem State.Moved.before {n : Fin 3} {d : Int} (h : t.Moved u n d) (h' : s.Stands t)
    (hs : t.supplies n = s.supplies n) (he : (t.encOf n).ext = (s.encOf n).ext)
    (hr : t.sdl.reverse = s.sdl.reverse) : s.Moved u n d where
  count := by rw [h.count, h'.counts]
  others m hm := (h.others m hm).trans (h'.counts m)
  follows hn := by
    have hf := h.follows (hs.trans hn)
    rw [he, hr, h'.pos, h'.hwm] at hf
    exact hf
  stands hn := by
    obtain ⟨hp, hh⟩ := h.stands (hs.trans hn)
    exact ⟨hp.trans h'.pos, hh.trans h'.hwm⟩

/-- No word of a count, of the position or of the mark is one that `but` names. -/
def keepsPlace (but : Nat → Nat → Prop) : Prop :=
  (∀ n : Fin 3, ¬ but (pgENC n.val) 0x068 ∧ ¬ but (pgENC n.val) 0x06C) ∧
    ¬ but pgSDL 0x050 ∧ ¬ but pgSDL 0x054 ∧ ¬ but pgSDL 0x058 ∧ ¬ but pgSDL 0x05C

theorem State.Keeps.stands (h : s.Keeps t but) (hb : keepsPlace but) : s.Stands t := by
  obtain ⟨hc, hp, hp', hh, hh'⟩ := hb
  exact ⟨fun m => h.encCount m (hc m).1 (hc m).2, h.pos hp hp', h.hwm hh hh'⟩

theorem keepsPlace_status (n : Fin 3) : keepsPlace (fun p o => p = pgENC n.val ∧ o = 0x010) :=
  ⟨fun _ => ⟨fun e => absurd e.2 (by decide), fun e => absurd e.2 (by decide)⟩, fun e => absurd e.2 (by decide),
    fun e => absurd e.2 (by decide), fun e => absurd e.2 (by decide), fun e => absurd e.2 (by decide)⟩

theorem keepsPlace_fit (n : Fin 3) : keepsPlace (fitWord n) :=
  ⟨fun _ => ⟨fun e => absurd e.2 (by decide), fun e => absurd e.2 (by decide)⟩, not_fitWord_sdl n _,
    not_fitWord_sdl n _, not_fitWord_sdl n _, not_fitWord_sdl n _⟩

theorem keepsPlace_speed : keepsPlace (fun p o => p = pgSPD ∧ o = 0x040) :=
  ⟨fun n => ⟨fun e => pgENC_ne_spd n e.1, fun e => pgENC_ne_spd n e.1⟩, by decide, by decide, by decide, by decide⟩

/-- The words of the check difference and of Sundial's events. -/
def checkWord (p o : Nat) : Prop := (p = pgSDL ∧ o = 0x070) ∨ evWords pgSDL p o

theorem not_checkWord_enc (n : Fin 3) (o : Nat) : ¬ checkWord (pgENC n.val) o := by
  rintro (h | h | h)
  · exact pgENC_ne_sdl n h.1
  · exact pgENC_ne_sdl n h.1
  · exact pgENC_ne_gbk n h.1

theorem not_checkWord_sdl (o : Nat) (h1 : o ≠ 0x014) (h2 : o ≠ 0x070) : ¬ checkWord pgSDL o := by
  rintro (h | h | h)
  · exact h2 h.2
  · exact h1 h.2
  · exact absurd h.1 (by decide)

theorem keepsPlace_check : keepsPlace checkWord :=
  ⟨fun n => ⟨not_checkWord_enc n _, not_checkWord_enc n _⟩, not_checkWord_sdl _ (by decide) (by decide),
    not_checkWord_sdl _ (by decide) (by decide), not_checkWord_sdl _ (by decide) (by decide),
    not_checkWord_sdl _ (by decide) (by decide)⟩

variable (s)

/-! ### The check difference (R106) -/

/-- Showing the check difference changes nothing, or shows it and keeps it in mind, with its event or without. -/
theorem State.checkShow_cases : s.checkShow = s ∨ ∃ (v : Int) (g : Sdl → Sdl), (∀ x, (g x).corr = x.corr) ∧
    (s.checkShow = (s.wrS pgSDL SDL_CHECK_DIFF_PU v).updSdl g ∨
      s.checkShow = ((s.wrS pgSDL SDL_CHECK_DIFF_PU v).updSdl g).raise pgSDL 1) := by
  unfold State.checkShow
  split
  · exact .inl rfl
  · next n _ =>
    split
    · exact .inl rfl
    · let shown : Sdl → Sdl := fun x =>
        { x with chkOver := decide (s.rd pgSDL SDL_CHECK_LIMIT_PU < s.checkDiff.natAbs) }
      let bad : Sdl → Sdl := fun x =>
        { x with chkOver := decide (s.rd pgSDL SDL_CHECK_LIMIT_PU < s.checkDiff.natAbs),
                 chkOk := x.chkOk.set n.val false }
      dsimp only
      split
      · split
        · exact .inr ⟨_, bad, fun _ => rfl, .inl rfl⟩
        · exact .inr ⟨_, bad, fun _ => rfl, .inr rfl⟩
      · exact .inr ⟨_, shown, fun _ => rfl, .inl rfl⟩

theorem State.checkShow_tracks : s.Tracks s.checkShow checkWord := by
  have hshown : ∀ v g, s.Tracks ((s.wrS pgSDL SDL_CHECK_DIFF_PU v).updSdl g) checkWord := fun v g =>
    (s.wrS_tracks pgSDL SDL_CHECK_DIFF_PU v (by decide) (by decide) (.inl ⟨rfl, rfl⟩)).trans (State.updSdl_tracks _ g)
  rcases s.checkShow_cases with h | ⟨v, g, -, h | h⟩ <;> rw [h]
  · exact .refl s _
  · exact hshown v g
  · exact (hshown v g).trans (State.raise_sdl_tracks _ 1 fun _ _ => .inr)

theorem State.checkShow_enc : s.checkShow.enc = s.enc := by
  rcases s.checkShow_cases with h | ⟨v, g, -, h | h⟩ <;> rw [h]
  · rw [State.updSdl_enc, State.wrS_eq, State.wr_enc]
  · rw [State.raise_enc, State.updSdl_enc, State.wrS_eq, State.wr_enc]

/-- A correction that is pending stands while the check difference is shown. -/
theorem State.checkShow_corr : s.checkShow.sdl.corr = s.sdl.corr := by
  rcases s.checkShow_cases with h | ⟨v, g, hg, h | h⟩ <;> rw [h]
  · rw [State.sdl_updSdl, hg, State.wrS_eq, State.wr_sdl]
  · rw [State.raise_sdl, State.sdl_updSdl, hg, State.wrS_eq, State.wr_sdl]

/-! ### The position follows (R105, R111) -/

/-- The words of the position and the mark. -/
def placeWord (p o : Nat) : Prop := p = pgSDL ∧ (o = 0x050 ∨ o = 0x054 ∨ o = 0x058 ∨ o = 0x05C)

theorem State.posMove_tracks (d : Int) : s.Tracks (s.posMove d) placeWord := by
  have hp := s.setPos_tracks (but := placeWord) (s.pos + BitVec.ofInt 48 d) (by unfold placeWord; decide)
    (by unfold placeWord; decide)
  unfold State.posMove
  dsimp only
  split
  · exact hp.trans (State.setHwm_tracks _ _ (by unfold placeWord; decide) (by unfold placeWord; decide))
  · exact hp

theorem State.posMove_pos (d : Int) : (s.posMove d).pos = s.pos + BitVec.ofInt 48 d := by
  unfold State.posMove
  dsimp only
  split
  · rw [State.pos_setHwm, State.pos_setPos]
  · rw [State.pos_setPos]

theorem State.posMove_hwm (d : Int) : (s.posMove d).hwm =
    if s.sdl.reverse = false ∧ ahead (s.posMove d).pos s.hwm = true then (s.posMove d).pos else s.hwm := by
  rw [s.posMove_pos d]
  unfold State.posMove
  dsimp only
  split
  · next h => rw [if_pos (by simpa using h), State.hwm_setHwm]
  · next h => rw [if_neg (by simpa using h), State.hwm_setPos]

theorem State.posMove_enc (d : Int) : (s.posMove d).enc = s.enc := by
  unfold State.posMove State.setPos State.setHwm
  dsimp only
  split
  · rw [State.wr2_eq, State.wr2_eq, State.wr_enc, State.wr_enc, State.wr_enc, State.wr_enc]
  · rw [State.wr2_eq, State.wr_enc, State.wr_enc]

/-! ### The count (R96, R101) -/

/-- The count and the encoder's own mark, moved by `d`. -/
def State.counted (s : State) (n : Fin 3) (d : Int) : State :=
  (s.wr2 (pgENC n.val) ENC_COUNT_LO_POS ENC_COUNT_HI_POS (s.encCount n + BitVec.ofInt 48 d).toNat).updEnc n (fun e =>
    { e with ext := 0, hwm := if ahead (s.encCount n + BitVec.ofInt 48 d) e.hwm then s.encCount n + BitVec.ofInt 48 d
                              else e.hwm })

/-- The check encoder's aligned count moves with its own. -/
def State.checkMoved (s : State) (n : Fin 3) (d : Int) : State :=
  if s.checkEnc = some n then s.updSdl (fun x => { x with chk := x.chk + d * (s.ac pgSDL SDL_RATIO_R : Int) }) else s

/-- The position moves where the encoder supplies it, less what it was extrapolated. -/
def State.posSupplied (s : State) (n : Fin 3) (d : Int) : State := if s.supplies n then s.posMove d else s

theorem State.encMove_eq (n : Fin 3) (d : Int) : s.encMove n d = if !(s.counted n d).sdlOn then s.counted n d
    else (((s.counted n d).posSupplied n (d - wholePu (s.encOf n).ext)).checkMoved n d).checkShow := rfl

/-- The words of an encoder's count. -/
def countWord (n : Fin 3) (p o : Nat) : Prop := p = pgENC n.val ∧ (o = 0x068 ∨ o = 0x06C)

theorem not_countWord_sdl (n : Fin 3) (o : Nat) : ¬ countWord n pgSDL o := fun e => pgENC_ne_sdl n e.1.symm

theorem State.counted_tracks (n : Fin 3) (d : Int) : s.Tracks (s.counted n d) (countWord n) :=
  (s.wr2_tracks _ _ _ _ (by decide) (by decide) (by decide) (by decide) ⟨rfl, .inl rfl⟩ ⟨rfl, .inr rfl⟩).trans
    (State.updEnc_tracks _ _ _)

theorem State.counted_count (n : Fin 3) (d : Int) :
    (s.counted n d).encCount n = s.encCount n + BitVec.ofInt 48 d := by
  unfold State.counted
  rw [State.encCount_updEnc]
  conv_lhs => unfold State.encCount
  rw [State.rd2_wr2 _ _ _ _ (by decide) (by decide) (by decide)]
  exact ofNat_pos_mod _

theorem State.counted_sdl (n : Fin 3) (d : Int) : (s.counted n d).sdl = s.sdl := by
  unfold State.counted
  rw [State.updEnc_sdl, State.wr2_eq, State.wr_sdl, State.wr_sdl]

theorem State.counted_supplies (n m : Fin 3) (d : Int) : (s.counted n d).supplies m = s.supplies m :=
  (s.counted_tracks n d).keeps.supplies m (by rw [State.counted_sdl]) (not_countWord_sdl n _) (not_countWord_sdl n _)

theorem State.checkMoved_tracks (n : Fin 3) (d : Int) : s.Tracks (s.checkMoved n d) but := by
  unfold State.checkMoved
  split
  · exact s.updSdl_tracks _
  · exact .refl s _

theorem State.posSupplied_tracks (n : Fin 3) (d : Int) : s.Tracks (s.posSupplied n d) placeWord := by
  unfold State.posSupplied
  split
  · exact s.posMove_tracks d
  · exact .refl s _

/-- The words that a move of a count may change. -/
def moveWord (n : Fin 3) (p o : Nat) : Prop := countWord n p o ∨ placeWord p o ∨ checkWord p o

theorem State.encMove_tracks (n : Fin 3) (d : Int) : s.Tracks (s.encMove n d) (moveWord n) := by
  have hc : s.Tracks (s.counted n d) (moveWord n) := (s.counted_tracks n d).mono fun _ _ => .inl
  rw [State.encMove_eq]
  split
  · exact hc
  · exact ((hc.trans ((State.posSupplied_tracks _ n _).mono fun _ _ h => .inr (.inl h))).trans
      (State.checkMoved_tracks _ n d)).trans ((State.checkShow_tracks _).mono fun _ _ => .inr ∘ .inr)

theorem not_placeWord_enc (n : Fin 3) (o : Nat) : ¬ placeWord (pgENC n.val) o := fun e => pgENC_ne_sdl n e.1

theorem keepsPlace_false : keepsPlace (fun _ _ => False) := ⟨fun _ => ⟨id, id⟩, id, id, id, id⟩

theorem State.checked_stands (n : Fin 3) (d : Int) : s.Stands (s.checkMoved n d).checkShow :=
  ((State.checkMoved_tracks (but := fun _ _ => False) s n d).keeps.stands keepsPlace_false).trans
    ((State.checkShow_tracks _).keeps.stands keepsPlace_check)

theorem State.counted_others (n m : Fin 3) (d : Int) (hm : m ≠ n) : (s.counted n d).encCount m = s.encCount m :=
  (s.counted_tracks n d).keeps.encCount m (fun e => pgENC_inj hm e.1) (fun e => pgENC_inj hm e.1)

theorem State.counted_pos (n : Fin 3) (d : Int) : (s.counted n d).pos = s.pos :=
  (s.counted_tracks n d).keeps.pos (not_countWord_sdl n _) (not_countWord_sdl n _)

theorem State.counted_hwm (n : Fin 3) (d : Int) : (s.counted n d).hwm = s.hwm :=
  (s.counted_tracks n d).keeps.hwm (not_countWord_sdl n _) (not_countWord_sdl n _)

/-- A count's move, with the position that follows it. -/
theorem State.encMove_moved (n : Fin 3) (d : Int) : s.Moved (s.encMove n d) n d := by
  have hsup := s.counted_supplies n n d
  rw [State.encMove_eq]
  by_cases hon : (s.counted n d).sdlOn = true
  · rw [if_neg (by rw [hon]; decide)]
    refine State.Moved.after ?_ (State.checked_stands _ n d)
    by_cases hs : s.supplies n = true
    · rw [State.posSupplied, if_pos (hsup.trans hs)]
      have hk := (State.posMove_tracks (s.counted n d) (d - wholePu (s.encOf n).ext)).keeps
      have hcount : ∀ m, ((s.counted n d).posMove (d - wholePu (s.encOf n).ext)).encCount m =
          (s.counted n d).encCount m := fun m => hk.encCount m (not_placeWord_enc m _) (not_placeWord_enc m _)
      refine ⟨(hcount n).trans (s.counted_count n d), fun m hm => (hcount m).trans (s.counted_others n m d hm),
        fun _ => ⟨?_, ?_⟩, fun h => absurd (hs.symm.trans h) (by decide)⟩
      · rw [State.posMove_pos, State.counted_pos]
      · rw [State.posMove_hwm, State.counted_sdl, State.counted_hwm]
    · rw [State.posSupplied, if_neg (by rw [hsup]; exact hs)]
      exact ⟨s.counted_count n d, fun m hm => s.counted_others n m d hm, fun h => absurd h hs,
        fun _ => ⟨s.counted_pos n d, s.counted_hwm n d⟩⟩
  · rw [if_pos (by rw [Bool.not_eq_true] at hon; rw [hon]; rfl)]
    refine ⟨s.counted_count n d, fun m hm => s.counted_others n m d hm, fun h => absurd ?_ hon,
      fun _ => ⟨s.counted_pos n d, s.counted_hwm n d⟩⟩
    exact (((s.counted n d).supplies_iff n).mp (hsup.trans h)).1

/-- The encoder's own state after a move of its count is that after the count. -/
theorem State.encMove_enc (n : Fin 3) (d : Int) : (s.encMove n d).enc = (s.counted n d).enc := by
  have hsup : ∀ u : State, ∀ d', (u.posSupplied n d').enc = u.enc := fun u d' => by
    unfold State.posSupplied
    split
    · exact u.posMove_enc d'
    · rfl
  have hchk : ∀ u : State, (u.checkMoved n d).enc = u.enc := fun u => by
    unfold State.checkMoved
    split <;> rfl
  rw [State.encMove_eq]
  split
  · rfl
  · rw [State.checkShow_enc, hchk, hsup]

theorem State.encMove_frac (n : Fin 3) (d : Int) : ((s.encMove n d).encOf n).frac = (s.encOf n).frac := by
  have h : (s.encMove n d).encOf n = (s.counted n d).encOf n := by unfold State.encOf; rw [s.encMove_enc n d]
  have hw : ∀ p l hi v, (s.wr2 p l hi v).encOf n = s.encOf n := fun p l hi v => by
    unfold State.encOf; rw [State.wr2_eq, State.wr_enc, State.wr_enc]
  rw [h, State.counted, State.encOf_updEnc, if_pos rfl, hw]

/-! ### The speed (R109) -/

theorem State.measure_tracks (n : Fin 3) (t : Nat) :
    s.Tracks (s.measure n t) (fun p o => p = pgSPD ∧ o = 0x040) := by
  unfold State.measure
  dsimp only
  split
  · exact (s.updEnc_tracks n _).trans (State.showSpeed_tracks _ ⟨rfl, rfl⟩)
  · exact s.updEnc_tracks n _

theorem State.showSpeed_enc : s.showSpeed.enc = s.enc := by
  obtain ⟨_, _, h⟩ := s.showSpeed_shape
  rw [h]

theorem State.measure_frac (n : Fin 3) (t : Nat) : ((s.measure n t).encOf n).frac = (s.encOf n).frac := by
  have hf : ∀ g : Enc → Enc, (∀ e, (g e).frac = e.frac) → ((s.updEnc n g).encOf n).frac = (s.encOf n).frac :=
    fun g hg => by rw [State.encOf_updEnc, if_pos rfl, hg]
  have hs : ∀ u : State, u.showSpeed.encOf n = u.encOf n := fun u => by
    unfold State.encOf; rw [u.showSpeed_enc]
  unfold State.measure
  dsimp only
  split
  · rw [hs]
    exact hf _ fun _ => rfl
  · exact hf _ fun _ => rfl

theorem State.calWatch_tracks (n : Fin 3) : s.Tracks (s.calWatch n) (fitWord n) := by
  unfold State.calWatch
  split
  · split
    · exact .refl s _
    · exact s.encAbandon_tracks n
  · exact .refl s _

theorem State.encAbandon_frac (n : Fin 3) : ((s.encAbandon n).encOf n).frac = (s.encOf n).frac := by
  have h : ∀ u : State, u.enc = (s.updEnc n (fun e => { e with cal := .idle })).enc →
      (u.encOf n).frac = (s.encOf n).frac := fun u hu => by
    have he : u.encOf n = (s.updEnc n (fun e => { e with cal := .idle })).encOf n := by unfold State.encOf; rw [hu]
    rw [he, State.encOf_updEnc, if_pos rfl]
  rw [State.encAbandon_eq]
  dsimp only
  split
  · exact h _ (by rw [State.wr_enc, State.wr_enc, State.wr_enc])
  · exact h _ (by rw [State.wr_enc, State.wr_enc])

theorem State.calWatch_frac (n : Fin 3) : ((s.calWatch n).encOf n).frac = (s.encOf n).frac := by
  unfold State.calWatch
  split
  · split
    · rfl
    · exact s.encAbandon_frac n
  · rfl

theorem State.calWatch_coasting (n : Fin 3) :
    (s.calWatch n).bit (pgENC n.val) ENC_STATUS_COASTING = s.bit (pgENC n.val) ENC_STATUS_COASTING := by
  unfold State.calWatch
  split
  · split
    · rfl
    · exact s.encAbandon_bit n _ (by decide) (by decide) (by decide) (by decide)
  · rfl

end Sys2Proof.Machine
end

section
/-! PROOFS. Edges, samples and index marks (R96, R98, R101–R103, R105, R106, R111). -/

namespace Sys2Proof.Machine

variable {s t u : State}

/-! ### A pair that counts -/

/-- The words that an edge or a sample pair may change. -/
def pairWord (n : Fin 3) (p o : Nat) : Prop :=
  moveWord n p o ∨ fitWord n p o ∨ (p = pgSPD ∧ o = 0x040)

theorem pairWord_within (n : Fin 3) (p o : Nat) (h : pairWord n p o) :
    p ∈ [pgENC n.val, pgSDL, pgSPD] ∨ evWords pgGBK p o := by
  rcases h with (h | h | h | h | h) | h | h
  · exact .inl (by simp [h.1])
  · exact .inl (by simp [h.1])
  · exact .inl (by simp [h.1])
  · exact .inl (by simp [h.1])
  · exact .inr (.inr h)
  · exact .inl (by simp [h.1])
  · exact .inl (by simp [h.1])

/-- A pair has been qualified: only the input's own record differs, and the encoder does not coast. -/
structure State.Qualified (s t : State) (n : Fin 3) : Prop where
  tracks : s.Tracks t (fun p o => p = pgENC n.val ∧ o = 0x010)
  sdl : t.sdl = s.sdl
  ext : (t.encOf n).ext = (s.encOf n).ext
  coasting : t.bit (pgENC n.val) ENC_STATUS_COASTING = false

theorem State.Qualified.moved {n : Fin 3} (h : s.Qualified u n) (d : Int) : s.Moved (u.encMove n d) n d :=
  (u.encMove_moved n d).before (h.tracks.keeps.stands (keepsPlace_status n))
    (h.tracks.keeps.supplies n (by rw [h.sdl]) (fun e => pgENC_ne_sdl n e.1.symm) (fun e => pgENC_ne_sdl n e.1.symm))
    h.ext (by rw [h.sdl])

theorem not_moveWord_status (n : Fin 3) : ¬ moveWord n (pgENC n.val) 0x010 := by
  rintro (h | h | h)
  · exact absurd h.2 (by decide)
  · exact not_placeWord_enc n _ h
  · exact not_checkWord_enc n _ h

/-- What the statement says of a pair that counts, from what the operations say of it. -/
theorem State.Moved.shows {n : Fin 3} {d : Int} (h : s.fresh.Moved t n d) (ht : s.fresh.Tracks t (pairWord n))
    (hc : t.bit (pgENC n.val) ENC_STATUS_COASTING = false) :
    t.encCount n = s.encCount n + BitVec.ofInt 48 d ∧
      (∀ m, m ≠ n → t.encCount m = s.encCount m) ∧
      (s.sdlOn = true ∧ s.source = n ∧ s.sdl.noSource = false →
        t.pos = s.pos + BitVec.ofInt 48 (d - wholePu (s.encOf n).ext) ∧
        t.hwm = if s.sdl.reverse = false ∧ ahead t.pos s.hwm = true then t.pos else s.hwm) ∧
      (s.sdlOn = false ∨ s.source ≠ n ∨ s.sdl.noSource = true → t.pos = s.pos ∧ t.hwm = s.hwm) ∧
      t.bit (pgENC n.val) ENC_STATUS_COASTING = false ∧ s.Within t [pgENC n.val, pgSDL, pgSPD] ∧
      { t with regs := s.regs, enc := s.enc, sdl := s.sdl, gbk := s.gbk, pcie := s.pcie,
               follies := s.follies, free := s.free } = s.fresh := by
  have hk := ht.keeps
  refine ⟨h.count, h.others, fun hs => h.follows ((s.fresh.supplies_iff n).mpr hs), fun hs => h.stands ?_, hc,
    ⟨hk.sameMem, hk.sameRegs.mono (pairWord_within n)⟩, ht.rest⟩
  rw [← Bool.not_eq_true, State.supplies_iff]
  rintro ⟨hon, hsrc, hno⟩
  rcases hs with h1 | h1 | h1
  · exact absurd (hon.symm.trans h1) (by decide)
  · exact h1 hsrc
  · exact absurd (hno.symm.trans h1) (by decide)

/-- A count's move and the measurement after it, from a qualified pair. -/
theorem State.Qualified.measured {n : Fin 3} (h : s.Qualified u n) (d : Int) (at_ : Nat) :
    s.Moved ((u.encMove n d).measure n at_) n d ∧ s.Tracks ((u.encMove n d).measure n at_) (pairWord n) ∧
      ((u.encMove n d).measure n at_).bit (pgENC n.val) ENC_STATUS_COASTING = false := by
  have hmove := u.encMove_tracks n d
  have hmeasure := (u.encMove n d).measure_tracks n at_
  refine ⟨(h.moved d).after (hmeasure.keeps.stands keepsPlace_speed), ?_, ?_⟩
  · exact ((h.tracks.mono fun _ _ e => .inr (.inl ⟨e.1, .inl e.2⟩)).trans (hmove.mono fun _ _ => .inl)).trans
      (hmeasure.mono fun _ _ e => .inr (.inr e))
  · rw [hmeasure.keeps.bit _ _ (by decide) (fun e => pgENC_ne_spd n e.1),
      hmove.keeps.bit _ _ (by decide) (not_moveWord_status n), h.coasting]

variable (s)

/-! ### Edges of a quadrature input (R96, R101) -/

/-- The wires' levels as the last edge left them. -/
def State.levelled (s : State) (n : Fin 3) (a b : Bool) : State := s.updEnc n (fun x => { x with a := a, b := b })

theorem State.exec_encoderEdge (n : Fin 3) (a b agree : Bool) (hl : s.encLive n = true)
    (hf : s.follyOn (pgENC n.val) 1 = false) (hm : (s.encOf n).mode = 1) : exec (.encoderEdge n a b agree) s =
      .next (if agree then (s.fresh.levelled n a b).setCoast n true
        else if quadStep (s.encOf n).a (s.encOf n).b a b = 0 then (s.fresh.levelled n a b).setCoast n false
        else (((s.fresh.levelled n a b).setCoast n false).encMove n
          ((s.encOf n).turn (1024 * quadStep (s.encOf n).a (s.encOf n).b a b))).measure n s.now) := by
  have he : exec (.encoderEdge n a b agree) s = .next ((s.fresh.levelled n a b).onlyIf
      (s.encLive n && (s.encOf n).mode == 1) (fun s1 =>
        if agree || (s.follyOn (pgENC n.val) 1 && (a != (s.encOf n).a)) then s1.setCoast n true
        else if quadStep (s.encOf n).a (s.encOf n).b a b = 0 then s1.setCoast n false
        else ((s1.setCoast n false).encMove n
          ((s.encOf n).turn (1024 * quadStep (s.encOf n).a (s.encOf n).b a b))).measure n s.now)) := rfl
  rw [he, hl, hm, hf, Bool.false_and, Bool.or_false]
  rfl

/-- Coasting begins or ends, with a new record of the input. -/
theorem State.coasts_shows (n : Fin 3) (on : Bool) (g : Enc → Enc) :
    ((s.fresh.updEnc n g).setCoast n on).bit (pgENC n.val) ENC_STATUS_COASTING = on ∧
      s.SameMem ((s.fresh.updEnc n g).setCoast n on) ∧
      s.SameRegs ((s.fresh.updEnc n g).setCoast n on) (fun p o => p = pgENC n.val ∧ o = 0x010) ∧
      { (s.fresh.updEnc n g).setCoast n on with regs := s.regs, enc := s.enc } = s.fresh := by
  have hk : s.fresh.Keeps ((s.fresh.updEnc n g).setCoast n on) (fun p o => p = pgENC n.val ∧ o = 0x010) :=
    ((s.fresh.updEnc_tracks n g).trans (State.setCoast_tracks _ n on ⟨rfl, rfl⟩)).keeps
  refine ⟨State.setCoast_bit _ n on, hk.sameMem, hk.sameRegs, ?_⟩
  unfold State.setCoast
  rw [State.wrBit_eq]
  exact State.wr_frame_enc (s := s.fresh) _ _ _ rfl

/-- An edge of a pair that does not agree is qualified. -/
theorem State.levelled_qualified (n : Fin 3) (a b : Bool) :
    s.Qualified ((s.levelled n a b).setCoast n false) n where
  tracks := (s.updEnc_tracks n _).trans (State.setCoast_tracks _ n false ⟨rfl, rfl⟩)
  sdl := by rw [State.setCoast, State.wrBit_eq, State.wr_sdl]; rfl
  ext := by
    have h : ((s.levelled n a b).setCoast n false).encOf n = (s.levelled n a b).encOf n := by
      unfold State.encOf; rw [State.setCoast, State.wrBit_eq, State.wr_enc]
    rw [h, State.levelled, State.encOf_updEnc, if_pos rfl]
  coasting := State.setCoast_bit _ n false

/-! ### Sample pairs of a sine/cosine input (R98, R101) -/

/-- The next sample's time is 50 ns later. -/
def State.sampled (s : State) (n : Fin 3) : State := s.updEnc n (fun x => { x with clk := x.clk + 50 })

/-- The angle of a sample pair that counts, turned by `DIR`. -/
def State.sampleTurn (s : State) (n : Fin 3) (sn cs : BitVec 14) : BitVec 12 :=
  if (s.encOf n).dir then -(s.sampleFraction n sn cs) else s.sampleFraction n sn cs

/-- A sample pair within its radius is qualified. -/
def State.sampleTaken (s : State) (n : Fin 3) (f : BitVec 12) : State :=
  ((s.sampled n).draw.setCoast n false).updEnc n (fun x => { x with frac := some f })

theorem State.exec_sampleOutside (n : Fin 3) (sn cs : BitVec 14) (hl : s.encLive n = true)
    (hm : (s.encOf n).mode = 2) (hr : s.radiusOk n sn cs = false) : exec (.encoderSample n sn cs) s =
      .next (((s.fresh.sampled n).setCoast n true).updEnc n (fun x => { x with frac := none })) := by
  have hr' : (s.fresh.follyOn (pgENC n.val) 1 || !s.fresh.radiusOk n sn cs) = true := by
    rw [show s.fresh.radiusOk n sn cs = false from hr, Bool.not_false, Bool.or_true]
  exact congrArg Host.Outcome.next ((State.onlyIf_true s.fresh _ _
    (Bool.and_eq_true_iff.mpr ⟨hl, beq_iff_eq.mpr hm⟩)).trans (if_pos hr'))

theorem State.exec_sampleInside (n : Fin 3) (sn cs : BitVec 14) (f0 : BitVec 12) (hl : s.encLive n = true)
    (hf : s.follyOn (pgENC n.val) 1 = false) (hm : (s.encOf n).mode = 2) (hr : s.radiusOk n sn cs = true)
    (h0 : (s.encOf n).frac = some f0) : exec (.encoderSample n sn cs) s =
      .next ((((s.fresh.sampleTaken n (s.sampleTurn n sn cs)).encMove n (s.sampleTurn n sn cs - f0).toInt).measure n
        ((s.encOf n).clk + 50)).calWatch n) := by
  have hr' : ¬ (s.fresh.follyOn (pgENC n.val) 1 || !s.fresh.radiusOk n sn cs) = true := by
    rw [show s.fresh.radiusOk n sn cs = true from hr, show s.fresh.follyOn (pgENC n.val) 1 = false from hf]
    decide
  have h0' : (s.fresh.encOf n).frac = some f0 := h0
  refine congrArg Host.Outcome.next ((State.onlyIf_true s.fresh _ _
    (Bool.and_eq_true_iff.mpr ⟨hl, beq_iff_eq.mpr hm⟩)).trans ((if_neg hr').trans ?_))
  dsimp only
  rw [h0']
  rfl

theorem State.sampleTaken_qualified (n : Fin 3) (f : BitVec 12) : s.Qualified (s.sampleTaken n f) n where
  tracks := (((s.updEnc_tracks n _).trans (State.draw_tracks _)).trans
    (State.setCoast_tracks _ n false ⟨rfl, rfl⟩)).trans (State.updEnc_tracks _ _ _)
  sdl := by rw [State.sampleTaken, State.updEnc_sdl, State.setCoast, State.wrBit_eq, State.wr_sdl]; rfl
  ext := by
    have h : ((s.sampled n).draw.setCoast n false).encOf n = (s.sampled n).encOf n := by
      unfold State.encOf; rw [State.setCoast, State.wrBit_eq, State.wr_enc]; rfl
    rw [State.sampleTaken, State.encOf_updEnc, if_pos rfl, h, State.sampled, State.encOf_updEnc, if_pos rfl]
  coasting := by
    rw [State.sampleTaken, State.bit_updEnc]
    exact State.setCoast_bit _ n false

theorem State.sampleTaken_frac (n : Fin 3) (f : BitVec 12) : ((s.sampleTaken n f).encOf n).frac = some f := by
  rw [State.sampleTaken, State.encOf_updEnc, if_pos rfl]

/-- The angle is rounded down or up (log 31). -/
theorem State.sampleTurn_rounds (n : Fin 3) (sn cs : BitVec 14) :
    ∃ a, (a = s.sampleAngle n sn cs ∨ a = s.sampleAngle n sn cs + 1) ∧
      s.sampleTurn n sn cs = if (s.encOf n).dir = true then -BitVec.ofInt 12 a else BitVec.ofInt 12 a := by
  refine ⟨s.sampleAngle n sn cs + max 0 (min 1 (Config.sampleRound s.free)), ?_, rfl⟩
  omega

theorem State.sampleInside_shows (n : Fin 3) (sn cs : BitVec 14) (f0 : BitVec 12) (hl : s.encLive n = true)
    (hf : s.follyOn (pgENC n.val) 1 = false) (hm : (s.encOf n).mode = 2) (hr : s.radiusOk n sn cs = true)
    (h0 : (s.encOf n).frac = some f0) :
    ∃ t, exec (.encoderSample n sn cs) s = .next t ∧ (t.encOf n).frac = some (s.sampleTurn n sn cs) ∧
      s.fresh.Moved t n (s.sampleTurn n sn cs - f0).toInt ∧ s.fresh.Tracks t (pairWord n) ∧
      t.bit (pgENC n.val) ENC_STATUS_COASTING = false := by
  have hq := s.fresh.sampleTaken_qualified n (s.sampleTurn n sn cs)
  obtain ⟨hmoved, htracks, hcoast⟩ := hq.measured (s.sampleTurn n sn cs - f0).toInt ((s.encOf n).clk + 50)
  have hwatch := State.calWatch_tracks (((s.fresh.sampleTaken n (s.sampleTurn n sn cs)).encMove n
    (s.sampleTurn n sn cs - f0).toInt).measure n ((s.encOf n).clk + 50)) n
  refine ⟨_, s.exec_sampleInside n sn cs f0 hl hf hm hr h0, ?_, hmoved.after (hwatch.keeps.stands (keepsPlace_fit n)),
    htracks.trans (hwatch.mono fun _ _ e => .inr (.inl e)), ?_⟩
  · rw [State.calWatch_frac, State.measure_frac, State.encMove_frac, State.sampleTaken_frac]
  · rw [State.calWatch_coasting, hcoast]

theorem State.sampleOutside_shows (n : Fin 3) (sn cs : BitVec 14) (hl : s.encLive n = true)
    (hm : (s.encOf n).mode = 2) (hr : s.radiusOk n sn cs = false) :
    ∃ t, exec (.encoderSample n sn cs) s = .next t ∧
      (t.bit (pgENC n.val) ENC_STATUS_COASTING = true ∧ s.SameMem t ∧
        s.SameRegs t (fun p o => p = pgENC n.val ∧ o = 0x010) ∧
        { t with regs := s.regs, enc := s.enc } = s.fresh) ∧ (t.encOf n).frac = none := by
  have hk : s.fresh.Keeps (((s.fresh.sampled n).setCoast n true).updEnc n (fun x => { x with frac := none }))
      (fun p o => p = pgENC n.val ∧ o = 0x010) :=
    (((s.fresh.updEnc_tracks n _).trans (State.setCoast_tracks _ n true ⟨rfl, rfl⟩)).trans
      (State.updEnc_tracks _ n _)).keeps
  refine ⟨_, s.exec_sampleOutside n sn cs hl hm hr, ⟨?_, hk.sameMem, hk.sameRegs, ?_⟩, ?_⟩
  · rw [State.bit_updEnc]
    exact State.setCoast_bit _ n true
  · unfold State.setCoast
    rw [State.wrBit_eq]
    exact State.updEnc_frame (s := s.fresh) _ _ (State.wr_frame_enc (s := s.fresh) _ _ _ rfl)
  · rw [State.encOf_updEnc, if_pos rfl]

/-! ### Index edges (R102) -/

theorem State.not_follyOn (p num : Nat) (h : s.armedFolly p = none) : s.follyOn p num = false := by
  unfold State.follyOn; rw [h]

theorem State.exec_indexEdge (n : Fin 3) (hl : s.encLive n = true) (hen : s.bit (pgENC n.val) ENC_CFG_INDEX_EN = true)
    (hd : 0 ≤ posDiff (s.encCount n) (s.encOf n).hwm) (hs : 0 ≤ (s.encOf n).speed)
    (hf : s.armedFolly (pgENC n.val) = none) :
    exec (.indexEdge n) s = .next (s.fresh.indexLatch n (s.encCount n)) := by
  have he : exec (.indexEdge n) s = .next (s.fresh.onlyIf (s.encLive n && s.bit (pgENC n.val) ENC_CFG_INDEX_EN &&
      decide (0 ≤ posDiff (s.encCount n) (s.encOf n).hwm) && decide (0 ≤ (s.encOf n).speed)) (fun t =>
        if t.follyOn (pgENC n.val) 3 then t.inject (pgENC n.val)
        else if t.follyOn (pgENC n.val) 2 then (t.inject (pgENC n.val)).indexLatch n
          (s.encCount n + BitVec.ofNat 48 (t.follyParam (pgENC n.val)))
        else t.indexLatch n (s.encCount n))) := rfl
  have hnot : ∀ k, ¬ s.fresh.follyOn (pgENC n.val) k = true := fun k => by
    rw [show s.fresh.follyOn (pgENC n.val) k = false from s.not_follyOn _ k hf]; exact Bool.false_ne_true
  rw [he, hl, hen, decide_eq_true hd, decide_eq_true hs]
  exact congrArg Host.Outcome.next ((if_neg (hnot 3)).trans (if_neg (hnot 2)))

/-- The words of an encoder's index marks. -/
def indexWord (n : Fin 3) (p o : Nat) : Prop :=
  (p = pgENC n.val ∧ (o = 0x010 ∨ o = 0x070 ∨ o = 0x074 ∨ o = 0x078 ∨ o = 0x07C)) ∨ evWords (pgENC n.val) p o

/-- An index mark is latched. -/
def State.latchedAt (s : State) (n : Fin 3) (c : Pos) : State :=
  ((s.wr2 (pgENC n.val) ENC_INDEX_LATCH_LO_POS ENC_INDEX_LATCH_HI_POS c.toNat).wr (pgENC n.val)
    ENC_STATUS_INDEXED 1).updEnc n (fun x => { x with latched := true, missed := 0 })

/-- The difference of an index mark from the expected place. -/
def State.indexDiff (s : State) (n : Fin 3) (c : Pos) : Int :=
  posDiff c (BitVec.ofNat 48 (s.rd2 (pgENC n.val) ENC_INDEX_LATCH_LO_POS ENC_INDEX_LATCH_HI_POS)) -
    (s.ac (pgENC n.val) ENC_INDEX_EXPECT_PU : Int)

/-- A difference within `TOL` enters the drift sum, and the pending correction where the encoder corrects. -/
def State.drifted (s : State) (n : Fin 3) (d : Int) (mark : Pos) : State :=
  let t := s.wrS (pgENC n.val) ENC_INDEX_DRIFT_SUM (satInt 32 (s.rdS (pgENC n.val) ENC_INDEX_DRIFT_SUM + d))
  if t.sdlOn && t.source == n && t.bit (pgENC n.val) ENC_CFG_CORRECT then
    t.updSdl (fun x => { x with corr := x.corr + d, corrMark := if x.corr = 0 then mark else x.corrMark })
  else t

theorem State.indexLatch_eq (n : Fin 3) (c : Pos) : s.indexLatch n c =
    if !(s.encOf n).latched then s.latchedAt n c
    else
      let u := (s.latchedAt n c).wrS (pgENC n.val) ENC_INDEX_DIFF_D (s.indexDiff n c)
      if s.ac (pgENC n.val) ENC_INDEX_EXPECT_PU = 0 then u
      else if (s.indexDiff n c).natAbs ≤ s.ac (pgENC n.val) ENC_INDEX_TOL_PU then
        u.drifted n (s.indexDiff n c) s.hwm
      else u.raise (pgENC n.val) 1 := rfl

/-- The words of an index mark's difference. -/
def diffWord (n : Fin 3) (p o : Nat) : Prop :=
  (p = pgENC n.val ∧ (o = 0x078 ∨ o = 0x07C)) ∨ evWords (pgENC n.val) p o

theorem not_diffWord (n m : Fin 3) (o : Nat) (h1 : o ≠ 0x014) (h2 : o ≠ 0x050) (h3 : o ≠ 0x078) (h4 : o ≠ 0x07C) :
    ¬ diffWord n (pgENC m.val) o := by
  rintro (h | h)
  · exact h.2.elim h3 h4
  · exact not_evWords _ _ _ h1 h2 h

theorem State.latchedAt_tracks (n : Fin 3) (c : Pos) : s.Tracks (s.latchedAt n c) (indexWord n) :=
  ((s.wr2_tracks _ _ _ _ (by decide) (by decide) (by decide) (by decide) (.inl ⟨rfl, .inr (.inl rfl)⟩)
    (.inl ⟨rfl, .inr (.inr (.inl rfl))⟩)).trans
    (State.wr_tracks _ _ _ _ (by decide) (by decide) (.inl ⟨rfl, .inl rfl⟩))).trans (State.updEnc_tracks _ _ _)

theorem State.latchedAt_latch (n : Fin 3) (c : Pos) : BitVec.ofNat 48
    ((s.latchedAt n c).rd2 (pgENC n.val) ENC_INDEX_LATCH_LO_POS ENC_INDEX_LATCH_HI_POS) = c := by
  have h : (s.latchedAt n c).rd2 (pgENC n.val) ENC_INDEX_LATCH_LO_POS ENC_INDEX_LATCH_HI_POS =
      (s.wr2 (pgENC n.val) ENC_INDEX_LATCH_LO_POS ENC_INDEX_LATCH_HI_POS c.toNat).rd2 (pgENC n.val)
        ENC_INDEX_LATCH_LO_POS ENC_INDEX_LATCH_HI_POS :=
    (State.rd2_of_words _ _ _ (State.word_updEnc _ _ _ _ _) (State.word_updEnc _ _ _ _ _)).trans
      (State.rd2_wr_ne _ _ _ ENC_STATUS_INDEXED _ _ (by decide) (by decide) (by decide)
        (.inr ⟨by decide, by decide⟩) 1)
  rw [h, State.rd2_wr2 _ _ _ _ (by decide) (by decide) (by decide)]
  exact ofNat_pos_mod c

theorem State.latchedAt_indexed (n : Fin 3) (c : Pos) :
    (s.latchedAt n c).bit (pgENC n.val) ENC_STATUS_INDEXED = true := by
  rw [State.latchedAt, State.bit_updEnc, State.bit_wr _ _ _ (by decide)]
  rfl

theorem State.latchedAt_enc (n : Fin 3) (c : Pos) :
    ((s.latchedAt n c).encOf n).latched = true ∧ ((s.latchedAt n c).encOf n).missed = 0 := by
  rw [State.latchedAt, State.encOf_updEnc, if_pos rfl]
  exact ⟨rfl, rfl⟩

theorem State.drifted_tracks (n : Fin 3) (d : Int) (mark : Pos) :
    s.Tracks (s.drifted n d mark) (fun p o => p = pgENC n.val ∧ o = 0x07C) := by
  unfold State.drifted
  dsimp only
  split
  · exact (s.wrS_tracks _ _ _ (by decide) (by decide) ⟨rfl, rfl⟩).trans (State.updSdl_tracks _ _)
  · exact s.wrS_tracks _ _ _ (by decide) (by decide) ⟨rfl, rfl⟩

theorem State.drifted_enc (n : Fin 3) (d : Int) (mark : Pos) : (s.drifted n d mark).enc = s.enc := by
  unfold State.drifted
  dsimp only
  split
  · rw [State.updSdl_enc, State.wrS_eq, State.wr_enc]
  · rw [State.wrS_eq, State.wr_enc]

/-- After the latch, only the difference, the drift and the event follow. -/
theorem State.indexLatch_tracks (n : Fin 3) (c : Pos) : (s.latchedAt n c).Tracks (s.indexLatch n c) (diffWord n) := by
  have hd : (s.latchedAt n c).Tracks ((s.latchedAt n c).wrS (pgENC n.val) ENC_INDEX_DIFF_D (s.indexDiff n c))
      (diffWord n) := State.wrS_tracks _ _ _ _ (by decide) (by decide) (.inl ⟨rfl, .inl rfl⟩)
  rw [State.indexLatch_eq]
  split
  · exact .refl _ _
  · dsimp only
    split
    · exact hd
    · split
      · exact hd.trans ((State.drifted_tracks _ n _ _).mono fun _ _ e => .inl ⟨e.1, .inr e.2⟩)
      · exact hd.trans (State.raise_enc_tracks _ n 1 fun _ _ => .inr)

theorem State.indexLatch_enc (n : Fin 3) (c : Pos) : (s.indexLatch n c).enc = (s.latchedAt n c).enc := by
  rw [State.indexLatch_eq]
  split
  · rfl
  · dsimp only
    split
    · rw [State.wrS_eq, State.wr_enc]
    · split
      · rw [State.drifted_enc, State.wrS_eq, State.wr_enc]
      · rw [State.raise_enc, State.wrS_eq, State.wr_enc]

/-- From the second index on, the difference from `EXPECT` is shown. -/
theorem State.indexLatch_diff (n : Fin 3) (c : Pos) (h : (s.encOf n).latched = true) :
    (s.indexLatch n c).rd (pgENC n.val) ENC_INDEX_DIFF_D = unsint 32 (s.indexDiff n c) := by
  have hlt : unsint 32 (s.indexDiff n c) < 2 ^ 32 := by unfold unsint; omega
  have hd : ((s.latchedAt n c).wrS (pgENC n.val) ENC_INDEX_DIFF_D (s.indexDiff n c)).rd (pgENC n.val)
      ENC_INDEX_DIFF_D = unsint 32 (s.indexDiff n c) := by
    rw [State.wrS_eq, State.rd_wr _ _ _ (by decide)]
    exact Nat.mod_eq_of_lt hlt
  rw [State.indexLatch_eq, h, Bool.not_true, if_neg Bool.false_ne_true]
  dsimp only
  split
  · exact hd
  · split
    · rw [(State.drifted_tracks _ n _ _).keeps.rd _ _ (by decide) (fun e => absurd e.2 (by decide)), hd]
    · rw [State.raise_rd _ _ _ _ _ (by decide) (not_evWords _ _ _ (by decide) (by decide)), hd]

/-- A difference beyond `TOL` raises its event. -/
theorem State.indexLatch_raised (n : Fin 3) (c : Pos) (h : (s.encOf n).latched = true)
    (he : s.ac (pgENC n.val) ENC_INDEX_EXPECT_PU ≠ 0)
    (ht : s.ac (pgENC n.val) ENC_INDEX_TOL_PU < (s.indexDiff n c).natAbs) (hp : s.isolated .print = false) :
    (s.indexLatch n c).Raised (pgENC n.val) 1 := by
  rw [State.indexLatch_eq, h, Bool.not_true, if_neg Bool.false_ne_true]
  dsimp only
  rw [if_neg he, if_neg (Nat.not_le.mpr ht)]
  have hk : s.Keeps ((s.latchedAt n c).wrS (pgENC n.val) ENC_INDEX_DIFF_D (s.indexDiff n c)) (fun _ _ => True) :=
    (((s.latchedAt_tracks n c).mono fun _ _ _ => trivial).trans
      (State.wrS_tracks _ _ _ _ (by decide) (by decide) trivial)).keeps
  exact State.raise_enc_raised _ n 1 (by decide) ((hk.isolated _).trans hp)

theorem indexWord_within (n : Fin 3) (p o : Nat) (h : indexWord n p o) :
    p ∈ [pgENC n.val] ∨ evWords pgGBK p o := by
  rcases h with h | h | h
  · exact .inl (by simp [h.1])
  · exact .inl (by simp [h.1])
  · exact .inr (.inr h)

theorem State.indexEdge_shows (n : Fin 3) (hl : s.encLive n = true)
    (hen : s.bit (pgENC n.val) ENC_CFG_INDEX_EN = true) (hd : 0 ≤ posDiff (s.encCount n) (s.encOf n).hwm)
    (hs : 0 ≤ (s.encOf n).speed) (hf : s.armedFolly (pgENC n.val) = none) :
    ∃ t, exec (.indexEdge n) s = .next t ∧
      BitVec.ofNat 48 (t.rd2 (pgENC n.val) ENC_INDEX_LATCH_LO_POS ENC_INDEX_LATCH_HI_POS) = s.encCount n ∧
      t.bit (pgENC n.val) ENC_STATUS_INDEXED = true ∧ (t.encOf n).latched = true ∧ (t.encOf n).missed = 0 ∧
      t.encCount n = s.encCount n ∧ t.pos = s.pos ∧ s.Within t [pgENC n.val] ∧
      ((s.encOf n).latched = true →
        t.rd (pgENC n.val) ENC_INDEX_DIFF_D = unsint 32 (s.indexDiff n (s.encCount n)) ∧
        (s.ac (pgENC n.val) ENC_INDEX_EXPECT_PU ≠ 0 →
          s.ac (pgENC n.val) ENC_INDEX_TOL_PU < (s.indexDiff n (s.encCount n)).natAbs →
          t.Raised (pgENC n.val) 1)) := by
  have he := s.exec_indexEdge n hl hen hd hs hf
  have hafter := s.fresh.indexLatch_tracks n (s.encCount n)
  have hk : s.fresh.Keeps (s.fresh.indexLatch n (s.encCount n)) (indexWord n) :=
    ((s.fresh.latchedAt_tracks n (s.encCount n)).trans (hafter.mono fun _ _ e => e.imp
      (fun e => ⟨e.1, .inr (.inr (.inr e.2))⟩) id)).keeps
  have henc : (s.fresh.indexLatch n (s.encCount n)).encOf n = (s.fresh.latchedAt n (s.encCount n)).encOf n := by
    unfold State.encOf; rw [State.indexLatch_enc]
  obtain ⟨hlatched, hmissed⟩ := s.fresh.latchedAt_enc n (s.encCount n)
  have hsdl : ∀ o, ¬ indexWord n pgSDL o := fun o e => e.elim (fun e => pgENC_ne_sdl n e.1.symm) (not_evWords_sdl n o)
  have hcount : ∀ o, o = 0x068 ∨ o = 0x06C → ¬ indexWord n (pgENC n.val) o := fun o ho e => by
    rcases e with e | e
    · omega
    · exact not_evWords _ _ _ (by omega) (by omega) e
  refine ⟨_, he, ?_, ?_, by rw [henc]; exact hlatched, by rw [henc]; exact hmissed,
    hk.encCount n (hcount _ (.inl rfl)) (hcount _ (.inr rfl)), hk.pos (hsdl _) (hsdl _),
    ⟨hk.sameMem, hk.sameRegs.mono (indexWord_within n)⟩, fun hfirst => ⟨?_, fun hne htol => ?_⟩⟩
  · rw [State.rd2_of_words _ _ _
      (hafter.word _ _ (by decide) (not_diffWord n n _ (by decide) (by decide) (by decide) (by decide)))
      (hafter.word _ _ (by decide) (not_diffWord n n _ (by decide) (by decide) (by decide) (by decide)))]
    exact s.fresh.latchedAt_latch n _
  · rw [hafter.keeps.bit _ _ (by decide) (not_diffWord n n _ (by decide) (by decide) (by decide) (by decide))]
    exact s.fresh.latchedAt_indexed n _
  · exact s.fresh.indexLatch_diff n _ hfirst
  · exact s.fresh.indexLatch_raised n _ hfirst hne htol
      (s.fresh.not_isolated_of_printUp (s.printUp_of_live n hl))

/-! ### An index that stays away (R102) -/

/-- A missing index is noted. -/
def State.missedIndex (s : State) (n : Fin 3) : State := s.updEnc n (fun x => { x with missed := x.missed + 1 })

theorem State.indexMissing_shows (n : Fin 3) (hl : s.encLive n = true)
    (hen : s.bit (pgENC n.val) ENC_CFG_INDEX_EN = true) (hi : s.bit (pgENC n.val) ENC_STATUS_INDEXED = true)
    (hne : s.ac (pgENC n.val) ENC_INDEX_EXPECT_PU ≠ 0)
    (hd : ((2 * (s.encOf n).missed + 3 : Nat) : Int) * (s.ac (pgENC n.val) ENC_INDEX_EXPECT_PU : Nat) ≤
      2 * posDiff (s.encOf n).hwm
        (BitVec.ofNat 48 (s.rd2 (pgENC n.val) ENC_INDEX_LATCH_LO_POS ENC_INDEX_LATCH_HI_POS))) :
    ∃ t, exec (.indexMissing n) s = .next t ∧ t.Raised (pgENC n.val) 2 ∧
      (t.encOf n).missed = (s.encOf n).missed + 1 ∧ s.SameMem t ∧ s.SameRegs t (evWords (pgENC n.val)) ∧
      { t with regs := s.regs, enc := s.enc, gbk := s.gbk, pcie := s.pcie, follies := s.follies } = s.fresh := by
  have he : exec (.indexMissing n) s = .next (s.fresh.onlyIf (s.encLive n && s.bit (pgENC n.val) ENC_CFG_INDEX_EN &&
      s.bit (pgENC n.val) ENC_STATUS_INDEXED && decide (((s.ac (pgENC n.val) ENC_INDEX_EXPECT_PU : Nat) : Int) ≠ 0) &&
      decide (((2 * (s.encOf n).missed + 3 : Nat) : Int) * (s.ac (pgENC n.val) ENC_INDEX_EXPECT_PU : Nat) ≤
        2 * posDiff (s.encOf n).hwm
          (BitVec.ofNat 48 (s.rd2 (pgENC n.val) ENC_INDEX_LATCH_LO_POS ENC_INDEX_LATCH_HI_POS))))
      (fun t => (t.missedIndex n).raise (pgENC n.val) 2)) := rfl
  rw [hl, hen, hi, decide_eq_true (Int.natCast_ne_zero.mpr hne), decide_eq_true hd] at he
  change _ = Host.Outcome.next ((s.fresh.missedIndex n).raise (pgENC n.val) 2) at he
  have htr : s.fresh.Tracks ((s.fresh.missedIndex n).raise (pgENC n.val) 2) (evWords (pgENC n.val)) :=
    (s.fresh.updEnc_tracks n _).trans (State.raise_enc_tracks _ n 2 fun _ _ => id)
  refine ⟨_, he, State.raise_enc_raised _ n 2 (by decide)
    (s.fresh.not_isolated_of_printUp (s.printUp_of_live n hl)), ?_, htr.keeps.sameMem, htr.keeps.sameRegs, ?_⟩
  · have henc : ((s.fresh.missedIndex n).raise (pgENC n.val) 2).encOf n = (s.fresh.missedIndex n).encOf n := by
      unfold State.encOf; rw [State.raise_enc]
    rw [henc, State.missedIndex, State.encOf_updEnc, if_pos rfl]
    rfl
  · have hsdl : s.sdl = ((s.fresh.missedIndex n).raise (pgENC n.val) 2).sdl := by rw [State.raise_sdl]; rfl
    have hfree : s.free = ((s.fresh.missedIndex n).raise (pgENC n.val) 2).free := by rw [State.raise_free]; rfl
    have hrest := htr.rest
    rw [show s.fresh.sdl = _ from hsdl, show s.fresh.free = _ from hfree] at hrest
    exact hrest

/-! ### A correction (R103) -/

/-- The boundaries passed and the commits' marks move with the position. -/
def State.shifted (s : State) : State := s.refAdvance.keepBefore.shiftPassed (BitVec.ofInt 48 s.sdl.corr)

/-- The position and the mark move back by the pending correction. -/
def State.movedBack (s : State) : State :=
  ((s.shifted.setPos (s.pos - BitVec.ofInt 48 s.sdl.corr)).setHwm (s.hwm - BitVec.ofInt 48 s.sdl.corr)).updSdl
    (fun x => { x with ofs := x.ofs - BitVec.ofInt 48 s.sdl.corr, corr := 0 })

theorem State.shifted_keeps (but : Nat → Nat → Prop) : s.Keeps s.shifted but :=
  .of_regs but ⟨rfl, rfl, rfl, rfl, rfl, rfl, rfl, rfl, rfl⟩ rfl

theorem State.movedBack_keeps : s.Keeps s.movedBack placeWord :=
  (s.shifted_keeps placeWord).trans (((State.setPos_tracks _ _ (by unfold placeWord; decide)
    (by unfold placeWord; decide)).trans (State.setHwm_tracks _ _ (by unfold placeWord; decide)
    (by unfold placeWord; decide))).trans (State.updSdl_tracks _ _)).keeps

theorem State.movedBack_place : s.movedBack.pos = s.pos - BitVec.ofInt 48 s.sdl.corr ∧
    s.movedBack.hwm = s.hwm - BitVec.ofInt 48 s.sdl.corr := by
  unfold State.movedBack
  exact ⟨by rw [State.pos_updSdl, State.pos_setHwm, State.pos_setPos],
    by rw [State.hwm_updSdl, State.hwm_setHwm]⟩

theorem State.movedBack_corr : s.movedBack.sdl.corr = 0 := by
  unfold State.movedBack
  rw [State.sdl_updSdl]

theorem placeWord_checkWord_within (p o : Nat) (h : placeWord p o ∨ checkWord p o) :
    p ∈ [pgSDL] ∨ evWords pgGBK p o := by
  rcases h with h | h | h | h
  · exact .inl (by simp [h.1])
  · exact .inl (by simp [h.1])
  · exact .inl (by simp [h.1])
  · exact .inr (.inr h)

theorem State.indexCorrection_shows (h : s.corrDue = true) :
    ∃ t, exec .indexCorrection s = .next t ∧ t.sdl.corr = 0 ∧
      t.pos = s.pos - BitVec.ofInt 48 s.sdl.corr ∧ t.hwm = s.hwm - BitVec.ofInt 48 s.sdl.corr ∧
      (∀ m, t.encCount m = s.encCount m) ∧ s.Within t [pgSDL] := by
  have he : exec .indexCorrection s = .next s.fresh.movedBack.checkShow :=
    congrArg Host.Outcome.next (if_pos (c := s.fresh.corrDue = true) h)
  have hback := s.fresh.movedBack_keeps
  have hshow := s.fresh.movedBack.checkShow_tracks.keeps
  obtain ⟨hcounts, hpos, hhwm⟩ := hshow.stands keepsPlace_check
  obtain ⟨hp, hh⟩ := s.fresh.movedBack_place
  have hk : s.fresh.Keeps _ (fun p o => placeWord p o ∨ checkWord p o) :=
    (hback.mono fun _ _ => .inl).trans (hshow.mono fun _ _ => .inr)
  exact ⟨_, he, by rw [State.checkShow_corr, State.movedBack_corr], hpos.trans hp, hhwm.trans hh,
    fun m => (hcounts m).trans (hback.encCount m (not_placeWord_enc m _) (not_placeWord_enc m _)),
    hk.sameMem, hk.sameRegs.mono placeWord_checkWord_within⟩

/-- Settles O26: a pair that counts moves one encoder's count and, where that encoder supplies it, the position; an
index mark writes its own words; a correction is taken from position and mark with no count. -/
theorem encoderInputs : Obligations.EncoderInputs := by
  refine ⟨fun s n hl hf => ⟨fun a b hm => ⟨?_, fun hq => ?_, fun hq => ?_⟩, fun sn cs hm => ⟨?_, fun f0 hr h0 => ?_⟩⟩,
    fun s n => ⟨s.indexEdge_shows n, s.indexMissing_shows n, fun h => ?_, s.indexCorrection_shows⟩⟩
  · exact ⟨_, s.exec_encoderEdge n a b true hl hf hm, s.coasts_shows n true _⟩
  · have he := s.exec_encoderEdge n a b false hl hf hm
    rw [if_neg Bool.false_ne_true, if_neg hq] at he
    obtain ⟨hmoved, htracks, hcoast⟩ := (s.fresh.levelled_qualified n a b).measured
      ((s.encOf n).turn (1024 * quadStep (s.encOf n).a (s.encOf n).b a b)) s.now
    exact ⟨_, he, hmoved.shows htracks hcoast⟩
  · have he := s.exec_encoderEdge n a b false hl hf hm
    rw [if_neg Bool.false_ne_true, if_pos hq] at he
    exact ⟨_, he, s.coasts_shows n false _⟩
  · exact fun hr => s.sampleOutside_shows n sn cs hl hm hr
  · obtain ⟨t, he, hfrac, hmoved, htracks, hcoast⟩ := s.sampleInside_shows n sn cs f0 hl hf hm hr h0
    obtain ⟨a, ha, hturn⟩ := s.sampleTurn_rounds n sn cs
    exact ⟨t, _, a, he, hfrac, ha, hturn, hmoved.shows htracks hcoast⟩
  · exact congrArg Host.Outcome.next (if_neg (c := s.fresh.corrDue = true) (by
      rw [show s.fresh.corrDue = false from h]; exact Bool.false_ne_true))

end Sys2Proof.Machine
end

section
/-! PROOFS. The schedules' commands (R116, R118), where the statement fails. -/

namespace Sys2Proof.Machine

/-- A commit of mode 1, on its way at once. -/
def immediateCommit : Commit := ⟨1, none, none, none, false, false, .host⟩

/-- Sundial and the stopped schedule of head 0, the reference channel's, are on, and an immediate commit of
another page is still to take effect. -/
def beforeStart : State :=
  { ((powered.wr pgSDL UNIT_CTRL_ENABLE 1).wr (pgHSC 0) UNIT_CTRL_ENABLE 1).wrAc (pgHSC 0) HSC_PITCH_INT_PU
      256 with
    commits := [(pgCAM 0, immediateCommit)] }

theorem beforeStart_takes : beforeStart.Takes .gkp (pgHSC 0) :=
  ⟨by decide +kernel, by decide +kernel, by decide +kernel⟩

theorem beforeStart_ready : (beforeStart.hscOf 0).running = false ∧ beforeStart.sdlOn = true ∧
    beforeStart.sdl.noSource = false ∧ 256 ≤ beforeStart.ac (pgHSC 0) HSC_PITCH_INT_PU ∧
    beforeStart.startSkips 0 ≤ 65536 ∧
    ((beforeStart.reached .gkp (pgHSC 0)).hscOf 0).running = false ∧
    (beforeStart.reached .gkp (pgHSC 0)).sdlOn = true ∧
    (beforeStart.reached .gkp (pgHSC 0)).sdl.noSource = false ∧
    256 ≤ (beforeStart.reached .gkp (pgHSC 0)).ac (pgHSC 0) HSC_PITCH_INT_PU ∧
    (beforeStart.reached .gkp (pgHSC 0)).startSkips 0 ≤ 65536 := by decide +kernel

/-- START of a stopped schedule whose checks the page as reached passes (R116). -/
theorem State.exec_hscStart_accepts (s : State) (r : Req) (h : Fin 32) (ht : s.Takes r (pgHSC h.val))
    (hr : ((s.reached r (pgHSC h.val)).hscOf h.val).running = false)
    (hon : (s.reached r (pgHSC h.val)).sdlOn = true)
    (hsrc : (s.reached r (pgHSC h.val)).sdl.noSource = false)
    (hp : 256 ≤ (s.reached r (pgHSC h.val)).ac (pgHSC h.val) HSC_PITCH_INT_PU)
    (hk : (s.reached r (pgHSC h.val)).startSkips h.val ≤ 65536) :
    exec (.hscStart r h 0) s = .next ((s.taken r (pgHSC h.val) 1).startHead h.val) := by
  refine congrArg Host.Outcome.next (command_accepts _ _ _ _ _ _ _ _ _ ht.reach ht.idle (.inr ht.live)
    (fun _ => rfl) ?_)
  simp [hr, hon, hsrc, hp, hk]

/-- The reference channel's first line is computed from a copy of the schedule, and that computation marks
what is due before it: the immediate commit is noted as reached. -/
theorem beforeStart_marks : (beforeStart.taken .gkp (pgHSC 0) 1).commits = [(pgCAM 0, immediateCommit)] ∧
    ((beforeStart.taken .gkp (pgHSC 0) 1).startHead 0).commits.map (fun e => e.2.reached) = [true] := by
  decide +kernel

/-- Refutes O30: START of the reference channel's schedule marks a commit of another page that is due as
reached, where the statement lets the pending commits stand as they are. -/
theorem not_scheduleCommands : ¬ Obligations.ScheduleCommands := by
  intro h
  obtain ⟨hr, hon, hsrc, hp, hk, hr', hon', hsrc', hp', hk'⟩ := beforeStart_ready
  obtain ⟨hbefore, hafter⟩ := beforeStart_marks
  obtain ⟨hstart, -⟩ := h beforeStart .gkp
  obtain ⟨t, ht, -, -, -, -, -, hframe⟩ := hstart 0 beforeStart_takes hr hon hsrc hp hk
  have hstands : t.commits = [(pgCAM 0, immediateCommit)] := (congrArg State.commits hframe).trans hbefore
  obtain rfl : (beforeStart.taken .gkp (pgHSC 0) 1).startHead 0 = t :=
    Host.Outcome.next.inj
      ((beforeStart.exec_hscStart_accepts .gkp 0 beforeStart_takes hr' hon' hsrc' hp' hk').symm.trans ht)
  rw [hstands] at hafter
  exact absurd hafter (by decide)

end Sys2Proof.Machine
end

section
/-! PROOFS. The trigger schedule's events (R103, R125, R246), where the statement fails. -/

namespace Sys2Proof.Machine

/-- The next line of a schedule lies 256 pu ahead of position 1,024. -/
def lineAhead : Cursor := { line := 5, cmp := 0x5000000, prev := 0x4000000, num := 2, place := 5 }

/-- The schedule of head 0, of 256 pu to a line and 1,024 lines to a page. -/
def scheduleAhead : Hsc :=
  { running := true, geo := [{ frm := 0, pitch := 0x1000000, row := 0, pp := 1024, trim := 0 }], tile := 5,
    send := lineAhead, hit := lineAhead, lastHit := none }

/-- A trigger whose place is position 1,024. -/
def dueTrigger : TrigDue := ⟨0x4000000, false⟩

/-- Sundial stands at position 1,024 with a correction of 256 pu pending since mark 0, and the reference channel
has passed a page boundary at 1.  Every channel has a trigger to place at 1,024, the trigger schedule goes on
later, and camera 0 has 32 triggers waiting and no frame. -/
def crowded : State :=
  let s := (((powered.wr pgSDL UNIT_CTRL_ENABLE 1).wr (pgCAM 0) UNIT_CTRL_ENABLE 1).wr pgTRG (TRG_CH_EN 0) 1).wrAc
    pgTRG TRG_PITCH_INT_PU 256
  let t := (((s.setPos 1024).setHwm 1024).setHsc 0 scheduleAhead).updCam 0
    (fun c => { c with wait := List.replicate 32 { pos := 0, doubled := false, placed := 0 } })
  { t with
    trg := { t.trg with running := true, cmp := 0x8000000, due := Vector.replicate 6 [dueTrigger] }
    sdl := { t.sdl with corr := 256, corrMark := 0 }
    ref := some { head := 0, cur := lineAhead, line := some 1, page := some 1 } }

theorem crowded_issues : crowded.issues = true ∧ crowded.trg.running = true ∧
    crowded.hitFalls crowded.trg.cmp = false ∧ crowded.trg.due.get 1 = [dueTrigger] ∧
    crowded.hitFalls (crowded.trigAt 1 dueTrigger) = true ∧
    (crowded.dueAfter dueTrigger.cmp).cmp = 0x5000000 := by decide +kernel

/-- Channel 0's trigger drops one of the camera's, whose pad line starts a frame; the frame's start takes the
correction, and the position falls back behind channel 1's trigger. -/
theorem crowded_setsBack : (crowded.fresh.pulseOn 0).pos = 768 ∧
    (([0, 1, 2, 3, 4, 5] : List (Fin 6)).foldl State.pulseOn crowded.fresh).trg.due.get 1 = [dueTrigger] := by
  decide +kernel

theorem State.exec_triggerHit_between (s : State) (hi : s.issues = true) (hr : s.trg.running = true)
    (hf : s.hitFalls s.trg.cmp = false) :
    exec .triggerHit s = .next (([0, 1, 2, 3, 4, 5] : List (Fin 6)).foldl State.pulseOn s.fresh) := by
  have he : exec .triggerHit s = .next (s.fresh.onlyIf (s.issues && s.trg.running) (fun t =>
      ([0, 1, 2, 3, 4, 5] : List (Fin 6)).foldl State.pulseOn
        (if t.hitFalls t.trg.cmp then t.trigNext else t))) := rfl
  rw [he, hi, hr]
  simp only [Bool.and_self, State.onlyIf_true]
  rw [if_neg (by rw [show s.fresh.hitFalls s.fresh.trg.cmp = _ from hf]; exact Bool.false_ne_true)]

/-- Refutes O31: a trigger that overflows a camera's pending list starts a frame, which takes a correction that
is due, so that the position no longer reaches the next channel's place. -/
theorem not_scheduleEvents : ¬ Obligations.ScheduleEvents := by
  intro h
  obtain ⟨hi, hr, hf, hd, hk, hn⟩ := crowded_issues
  obtain ⟨-, hs⟩ := h
  obtain ⟨hhit, -⟩ := hs crowded
  obtain ⟨-, t, ht, -, -, -, -, hdue, -⟩ := hhit hi hr
  obtain rfl := Host.Outcome.next.inj ((crowded.exec_triggerHit_between hi hr hf).symm.trans ht)
  rw [hf] at hdue
  obtain ⟨htaken, -⟩ := hdue 1 dueTrigger [] hd hk
  have hlater : [dueTrigger] = [crowded.dueAfter dueTrigger.cmp] := crowded_setsBack.2.symm.trans htaken
  have hcmp := congrArg TrigDue.cmp (List.cons.inj hlater).1
  rw [hn] at hcmp
  exact absurd hcmp (by decide)

end Sys2Proof.Machine
end

section
/-! SUPPORT. The firing block at a hit (R48, R200, R205–R210, R213, R214, R227): which words and which state its
operations change, and what a line that is missed, starts its train or waits leaves behind. -/

namespace Sys2Proof.Machine

variable {s t u : State} {but but' : Nat → Nat → Prop}

/-! ### The frame of a hit -/

/-- A line has been hit: but for the registers that `but` names, active copies, commits, the firing blocks, the lanes,
the quality loop, follies, the Guestbook and what goes out, nothing differs, and an event that stood stands. -/
structure State.Hits (s t : State) (but : Nat → Nat → Prop) : Prop where
  rest : { t with regs := s.regs, act := s.act, commits := s.commits, fir := s.fir, onk := s.onk, qlp := s.qlp,
                  gbk := s.gbk, pcie := s.pcie, follies := s.follies, emitted := s.emitted } = s
  word : ∀ p o, o < 4096 → ¬ but p o → t.word p o = s.word p o
  raised : ∀ p b, s.Raised p b → t.Raised p b

theorem State.Raises.hits (h : s.Raises t but) : s.Hits t but where
  rest := (congrArg (fun x : State => { x with act := s.act, commits := s.commits, onk := s.onk, qlp := s.qlp }) h.rest :)
  word := h.word
  raised := h.raised

theorem State.Hits.refl (s : State) (but : Nat → Nat → Prop) : s.Hits s but :=
  ⟨rfl, fun _ _ _ _ => rfl, fun _ _ h => h⟩

theorem State.Hits.trans (h : s.Hits t but) (h' : t.Hits u but) : s.Hits u but where
  rest := by
    rw [← h.rest]
    conv_rhs => rw [← h'.rest]
  word p o ho hn := (h'.word p o ho hn).trans (h.word p o ho hn)
  raised p b hr := h'.raised p b (h.raised p b hr)

theorem State.Hits.mono (h : s.Hits t but) (hb : ∀ p o, but p o → but' p o) : s.Hits t but' :=
  ⟨h.rest, fun p o ho hn => h.word p o ho (hn ∘ hb p o), h.raised⟩

theorem State.Hits.hsc (h : s.Hits t but) : t.hsc = s.hsc := (congrArg State.hsc h.rest :)

theorem State.Hits.sameMem (h : s.Hits t but) : s.SameMem t :=
  .of_eq (congrArg State.mem h.rest :) (congrArg State.flash h.rest :) (congrArg State.poison h.rest :)

/-! ### Records of the heads -/

theorem getElem?_set_getD {α : Type} (v : Vector α 32) (h : Fin 32) (x d : α) (j : Nat) :
    ((v.set h.val x).toList[j]?).getD d = if j = h.val then x else (v.toList[j]?).getD d := by
  rw [Vector.toList_set, List.getElem?_set]
  by_cases hj : h.val = j
  · rw [if_pos hj, if_pos (by rw [Vector.length_toList]; exact h.isLt), if_pos hj.symm]
    rfl
  · rw [if_neg hj, if_neg (Ne.symm hj)]

theorem get_eq_getD {α : Type} (v : Vector α 32) (h : Fin 32) (d : α) : v.get h = (v.toList[h.val]?).getD d := by
  rw [List.getElem?_eq_getElem (by rw [Vector.length_toList]; exact h.isLt)]
  rfl

theorem State.firOf_updFir (s : State) (h : Fin 32) (g : Fir → Fir) :
    (s.updFir h.val g).firOf h.val = g (s.firOf h.val) := by
  unfold State.updFir State.firOf
  rw [dif_pos h.isLt]
  dsimp only
  rw [getElem?_set_getD, if_pos rfl, get_eq_getD s.fir ⟨h.val, h.isLt⟩ firNone]

theorem State.hscOf_updHsc (s : State) (h : Fin 32) (g : Hsc → Hsc) (j : Nat) :
    (s.updHsc h.val g).hscOf j = if j = h.val then g (s.hscOf h.val) else s.hscOf j := by
  unfold State.updHsc State.setHsc
  rw [dif_pos h.isLt]
  exact getElem?_set_getD s.hsc h _ _ j

theorem State.firOf_of_fir (hf : t.fir = s.fir) (h : Nat) : t.firOf h = s.firOf h := by unfold State.firOf; rw [hf]

theorem State.hscOf_of_hsc (hs : t.hsc = s.hsc) (h : Nat) : t.hscOf h = s.hscOf h := by unfold State.hscOf; rw [hs]

/-! ### Pages -/

theorem unitOf_hsc (part : Part) (h : Fin 32) : h.val < part.heads → unitOf part (pgHSC h.val) = some (.hsc, h.val) := by
  revert h
  cases part <;> decide

theorem unitOf_fir (part : Part) (h : Fin 32) :
    unitOf part (pgFIR h.val) = some (.fir, h.val) ∨ unitOf part (pgFIR h.val) = none := by
  revert h
  cases part <;> decide

theorem encOfPage_fir (h : Fin 32) : encOfPage (pgFIR h.val) = none := by
  revert h
  decide

/-- The pages that a hit may change: the firing page and its root, the lane's, and those of the exceptions. -/
def strikeWord (h : Fin 32) (p _ : Nat) : Prop :=
  p = pgFIR h.val ∨ p = pgFIRroot ∨ p = pgONK h.val ∨ p = pgGKP ∨ p = pgGBK

theorem not_strikeWord_hsc (h k : Fin 32) (o : Nat) : ¬ strikeWord h (pgHSC k.val) o := by
  have := h.isLt
  have := k.isLt
  unfold strikeWord pgHSC pgFIR pgFIRroot pgONK pgGKP pgGBK
  omega

theorem evWords_strike (h : Fin 32) (page p o : Nat) (hp : strikeWord h page 0x014) (he : evWords page p o) :
    strikeWord h p o := by
  rcases he with e | e
  · rw [e.1]; exact hp
  · exact .inr (.inr (.inr (.inr e.1)))

variable (s)

/-! ### Injections -/

theorem State.updFolly_raises (page : Nat) (g : Folly → Folly) : s.Raises (s.updFolly page g) but :=
  ⟨rfl, fun _ _ _ _ => rfl, rfl, fun _ _ h => h⟩

theorem State.disarm_raises (page : Nat) : s.Raises (s.disarm page) but :=
  ⟨rfl, fun _ _ _ _ => rfl, rfl, fun _ _ h => h⟩

theorem State.inject_raises (page : Nat) (h : but page 0x030) : s.Raises (s.inject page) but := by
  have hf := s.updFolly_raises (but := but) page (fun f => { f with lastInj := some s.now })
  unfold State.inject
  dsimp only
  split
  · exact hf
  · have hw := hf.trans (State.wr_raises _ page (s.rd page UNIT_INJECT_SHOTS - 1) UNIT_INJECT_SHOTS (by decide)
      (by decide) h)
    split
    · exact hw.trans (State.disarm_raises _ page)
    · exact hw

theorem State.incSat_raises (page : Nat) (f : Fld) (hf : f.Sound) (h14 : f.off ≠ 0x014) (h : but page f.off) :
    s.Raises (s.incSat page f) but := s.wr_raises page _ f hf h14 h

theorem State.wrBit_raises (page : Nat) (f : Fld) (b : Bool) (hf : f.Sound) (h14 : f.off ≠ 0x014) (h : but page f.off) :
    s.Raises (s.wrBit page f b) but := s.wr_raises page _ f hf h14 h

/-- A counter shows one more, up to its largest value. -/
theorem State.rd_incSat (page : Nat) (f : Fld) (hf : f.Sound) :
    (s.incSat page f).rd page f = min (s.rd page f + 1) (2 ^ f.width - 1) := by
  have hpos : 0 < 2 ^ f.width := Nat.two_pow_pos _
  refine (State.rd_wr s page f hf _).trans (Nat.mod_eq_of_lt ?_)
  omega

/-! ### A commit that a line brings (R48) -/

theorem State.clearCommit_hits (page : Nat) (h : but page 0x024) : s.Hits (s.clearCommit page) but :=
  (⟨rfl, fun _ _ _ _ => rfl, fun _ _ h => h⟩ : s.Hits { s with commits := s.commits.filter (fun e => e.1 != page) }
    but).trans (State.wr_raises _ page 0 UNIT_COMMIT_WHEN (by decide) (by decide) h).hits

theorem State.copyShadow_hits (page : Nat) : s.Hits (s.copyShadow page) but := by
  unfold State.copyShadow
  split
  · exact .refl s but
  · exact ⟨rfl, fun _ _ _ _ => rfl, fun _ _ h => h⟩

theorem State.applyShadow_hits (page : Nat) (h24 : but page 0x024) (h28 : but page 0x028) :
    s.Hits (s.applyShadow page) but :=
  (((s.copyShadow_hits page).trans (State.clearCommit_hits _ page h24)).trans
    (State.wr_raises _ page 1 UNIT_COMMIT_STAT_DONE (by decide) (by decide) h28).hits).trans
    (State.wr_raises _ page _ UNIT_COMMIT_STAT_COUNT (by decide) (by decide) h28).hits

theorem State.rejectCommit_strike (h : Fin 32) (r : Req) (err pair : Nat) :
    s.Hits (s.rejectCommit r (pgFIR h.val) err pair) (strikeWord h) := by
  have herr := (s.clearCommit_hits (but := strikeWord h) (pgFIR h.val) (.inl rfl)).trans
    (State.wr_raises _ (pgFIR h.val) err UNIT_COMMIT_STAT_ERR (by decide) (by decide) (.inl rfl)).hits
  have hend : ∀ v : State, v.Hits ((v.wr (pgFIR h.val) UNIT_STATUS_COMMIT_ERR 1).regAlert (pgFIR h.val) 0x024 r err 3)
      (strikeWord h) := fun v => ((v.wr_raises (pgFIR h.val) 1 UNIT_STATUS_COMMIT_ERR (by decide) (by decide)
      (.inl rfl)).trans (State.raiseD_raises _ pgGKP 0 _ (.inr (.inr (.inr (.inl rfl)))) fun p o e =>
        evWords_strike h pgGBK p o (.inr (.inr (.inr (.inr rfl)))) e)).hits
  unfold State.rejectCommit
  dsimp only
  split
  · exact (herr.trans (State.wr_raises _ (pgFIR h.val) pair UNIT_COMMIT_STAT_PAIR (by decide) (by decide)
      (.inl rfl)).hits).trans (hend _)
  · exact herr.trans (hend _)

theorem State.selfAfter_fir (h : Fin 32) (own : Bool) : s.selfAfter (pgFIR h.val) own = s := by
  have he : s.encAfter (pgFIR h.val) own false = s := by
    unfold State.encAfter; rw [encOfPage_fir]
  have hq : pgFIR h.val ≠ pgQLP := by
    have := h.isLt
    unfold pgFIR pgQLP
    omega
  unfold State.selfAfter
  rw [he]
  unfold State.alignAfter
  split
  · rfl
  · rw [if_pos (.inl hq)]

/-- A commit of a firing page has no effect of its own beside its new values. -/
theorem State.takeEffect_strike (h : Fin 32) : s.Hits (s.takeEffect (pgFIR h.val)) (strikeWord h) := by
  unfold State.takeEffect
  split
  · exact .refl s _
  · next c hc =>
    dsimp only
    split
    · unfold State.dropCommit
      rw [hc]
      dsimp only
      rw [State.selfAfter_fir]
      exact s.rejectCommit_strike h _ _ _
    · have happly := s.applyShadow_hits (but := strikeWord h) (pgFIR h.val) (.inl rfl) (.inl rfl)
      unfold State.unit
      rcases unitOf_fir s.part h with hu | hu <;> rw [hu] <;> exact happly

theorem State.commitAtLine_strike (h : Fin 32) (line : Nat) :
    s.Hits (s.commitAtLine (pgFIR h.val) line) (strikeWord h) := by
  unfold State.commitAtLine
  split
  · split
    · split
      · exact s.takeEffect_strike h
      · exact .refl s _
    · exact .refl s _
  · exact .refl s _

theorem State.commitAtLine_none (page line : Nat) (h : s.commitOf page = none) : s.commitAtLine page line = s := by
  unfold State.commitAtLine; rw [h]

/-! ### The lane gives its line up (R223, R227) -/

theorem State.updOnk_hits (h : Nat) (g : Onk → Onk) : s.Hits (s.updOnk h g) but := by
  unfold State.updOnk
  split
  · exact ⟨rfl, fun _ _ _ _ => rfl, fun _ _ h => h⟩
  · exact .refl s but

/-- The lines up to this one are no longer in flight. -/
def State.landed (s : State) (h line : Nat) : State :=
  s.updOnk h (fun x => { x with flight := (s.onkOf h).flight.filter (fun f => decide (line < f.line)) })

theorem State.takeFlight_eq (h line : Nat) : ∃ b, s.takeFlight h line =
    (if b then s.landed h line else (s.landed h line).incSat (pgONK h) ONK_UNDELIV_N, b) := ⟨_, rfl⟩

theorem State.takeFlight_strike (h : Fin 32) (line : Nat) : s.Hits (s.takeFlight h.val line).1 (strikeWord h) := by
  obtain ⟨b, hb⟩ := s.takeFlight_eq h.val line
  rw [hb]
  dsimp only
  split
  · exact s.updOnk_hits _ _
  · exact (s.updOnk_hits _ _).trans (State.incSat_raises _ _ ONK_UNDELIV_N (by decide) (by decide)
      (.inr (.inr (.inl rfl)))).hits

/-- Whether a line counts as sent rests on its lane, the time and the lane's `ENABLE`. -/
theorem State.takeFlight_congr (h line : Nat) (ho : t.onk = s.onk) (hn : t.now = s.now)
    (he : t.enabled (pgONK h) = s.enabled (pgONK h)) : (t.takeFlight h line).2 = (s.takeFlight h line).2 := by
  unfold State.takeFlight State.onkOf
  rw [ho, hn, he]

/-- A line that was not delivered is counted. -/
theorem State.takeFlight_undelivered (h line : Nat) (hs : (s.takeFlight h line).2 = false) :
    (s.takeFlight h line).1.rd (pgONK h) ONK_UNDELIV_N =
      min (s.rd (pgONK h) ONK_UNDELIV_N + 1) (2 ^ ONK_UNDELIV_N.width - 1) := by
  obtain ⟨b, hb⟩ := s.takeFlight_eq h line
  rw [hb] at hs ⊢
  dsimp only at hs ⊢
  rw [hs, if_neg Bool.false_ne_true, State.rd_incSat _ _ _ (by decide), State.rd_of_regs s (s.landed h line)
    (by rw [State.landed, State.updOnk_part]) (by rw [State.landed, State.updOnk_regs])]

/-- The firing blocks and follies stand as the lane gives its line up. -/
theorem State.takeFlight_stands (h line : Nat) :
    (s.takeFlight h line).1.fir = s.fir ∧ (s.takeFlight h line).1.follies = s.follies := by
  obtain ⟨b, hb⟩ := s.takeFlight_eq h line
  rw [hb]
  dsimp only
  unfold State.landed
  split
  · exact ⟨by rw [State.updOnk_fir], by rw [State.updOnk_follies]⟩
  · exact ⟨by rw [State.incSat_eq, State.addSat_eq, State.wr_fir, State.updOnk_fir],
      by rw [State.incSat_eq, State.addSat_eq, State.wr_follies, State.updOnk_follies]⟩

theorem State.sentLine_strike (h : Fin 32) (b : Bool) : s.Hits (s.sentLine h.val b).1 (strikeWord h) := by
  unfold State.sentLine
  split
  · exact (s.inject_raises _ (.inl rfl)).hits
  · exact .refl s _

theorem State.follyOn_nil (page num : Nat) (h : s.follies = []) : s.follyOn page num = false := by
  unfold State.follyOn State.armedFolly
  rw [h]
  rfl

theorem State.sentLine_plain (h : Nat) (b : Bool) (hf : s.follies = []) : s.sentLine h b = (s, b) := by
  unfold State.sentLine
  rw [s.follyOn_nil _ _ hf]
  rfl

/-! ### The energy factor and a missed line (R205–R209) -/

/-- The words that the factor's latch may change. -/
def factorWord (h : Fin 32) (p o : Nat) : Prop :=
  (p = pgFIR h.val ∧ (o = 0x07C ∨ o = 0x08C)) ∨ evWords (pgFIR h.val) p o

/-- The words that a missed line may change. -/
def missWord (h : Fin 32) (p o : Nat) : Prop := (p = pgFIR h.val ∧ o = 0x090) ∨ evWords (pgFIR h.val) p o

theorem State.raise_fir_raises (h : Fin 32) (b : Nat) (hb : ∀ p o, evWords (pgFIR h.val) p o → but p o) :
    s.Raises (s.raise (pgFIR h.val) b) but :=
  s.raise_raises _ b (hb _ _ (.inl ⟨rfl, rfl⟩)) fun p o e => hb p o (.inr (e.elim (fun e => ⟨e.1, .inl e.2⟩) id))

theorem State.latchFactor_raises (h : Fin 32) (e : Nat × Bool) : s.Raises (s.latchFactor h.val e) (factorWord h) := by
  have hlatch := ((s.wr_raises (but := factorWord h) (pgFIR h.val) e.1 FIR_FACTOR_F (by decide) (by decide)
    (.inl ⟨rfl, .inl rfl⟩)).trans (State.wrBit_raises _ (pgFIR h.val) FIR_FACTOR_CLAMPED e.2 (by decide) (by decide)
    (.inl ⟨rfl, .inl rfl⟩))).trans (State.updFir_raises _ h.val (fun x => { x with clamped := e.2 }))
  unfold State.latchFactor
  dsimp only
  split
  · have hcount := hlatch.trans (State.incSat_raises _ (pgFIR h.val) FIR_CLAMP_LINES_N (by decide) (by decide)
      (.inl ⟨rfl, .inr rfl⟩))
    split
    · exact hcount
    · exact hcount.trans (State.raise_fir_raises _ h 2 fun _ _ => .inr)
  · exact hlatch

/-- The factor's latch shows the clamp only in the head's own record. -/
theorem State.latchFactor_firOf (h : Fin 32) (e : Nat × Bool) :
    (s.latchFactor h.val e).firOf h.val = { s.firOf h.val with clamped := e.2 } := by
  have hlatch : ((((s.wr (pgFIR h.val) FIR_FACTOR_F e.1).wrBit (pgFIR h.val) FIR_FACTOR_CLAMPED e.2).updFir h.val
      (fun x => { x with clamped := e.2 }))).firOf h.val = { s.firOf h.val with clamped := e.2 } := by
    rw [State.firOf_updFir, State.firOf_of_fir (s := s) (by rw [State.wrBit_eq, State.wr_fir, State.wr_fir])]
  unfold State.latchFactor
  dsimp only
  split
  · split
    · exact (State.firOf_of_fir (by rw [State.incSat_eq, State.addSat_eq, State.wr_fir]) _).trans hlatch
    · exact (State.firOf_of_fir (by rw [State.raise_fir, State.incSat_eq, State.addSat_eq, State.wr_fir]) _).trans hlatch
  · exact hlatch

/-- A line is recorded with its tag and its cause, and counted. -/
def State.missNoted (s : State) (h : Nat) (tag : Byte) (cause : Nat) : State :=
  (((s.wr (pgFIR h) FIR_MISS_TAG tag.toNat).wr (pgFIR h) FIR_MISS_CAUSE cause).incSat (pgFIR h) FIR_MISS_COUNT).updFir h
    (fun x => { x with missed := true })

theorem State.missLine_eq (h : Nat) (tag : Byte) (cause : Nat) : s.missLine h tag cause =
    if (s.firOf h).missed then s.missNoted h tag cause else (s.missNoted h tag cause).raise (pgFIR h) 3 := rfl

theorem State.missNoted_raises (h : Fin 32) (tag : Byte) (cause : Nat) :
    s.Raises (s.missNoted h.val tag cause) (missWord h) :=
  (((s.wr_raises (pgFIR h.val) tag.toNat FIR_MISS_TAG (by decide) (by decide) (.inl ⟨rfl, rfl⟩)).trans
    (State.wr_raises _ (pgFIR h.val) cause FIR_MISS_CAUSE (by decide) (by decide) (.inl ⟨rfl, rfl⟩))).trans
    (State.incSat_raises _ (pgFIR h.val) FIR_MISS_COUNT (by decide) (by decide) (.inl ⟨rfl, rfl⟩))).trans
    (State.updFir_raises _ h.val _)

theorem State.missLine_raises (h : Fin 32) (tag : Byte) (cause : Nat) :
    s.Raises (s.missLine h.val tag cause) (missWord h) := by
  rw [State.missLine_eq]
  split
  · exact s.missNoted_raises h tag cause
  · exact (s.missNoted_raises h tag cause).trans (State.raise_fir_raises _ h 3 fun _ _ => .inr)

theorem State.missLine_rd (h : Fin 32) (tag : Byte) (cause : Nat) (f : Fld) (hf : f.off = 0x090) :
    (s.missLine h.val tag cause).rd (pgFIR h.val) f = (s.missNoted h.val tag cause).rd (pgFIR h.val) f := by
  rw [State.missLine_eq]
  split
  · rfl
  · exact State.raise_rd _ _ _ _ _ (by rw [hf]; decide)
      (not_evWords _ _ _ (by rw [hf]; decide) (by rw [hf]; decide))

theorem State.missNoted_rd (h : Nat) (tag : Byte) (cause : Nat) (f : Fld) :
    (s.missNoted h tag cause).rd (pgFIR h) f = (((s.wr (pgFIR h) FIR_MISS_TAG tag.toNat).wr (pgFIR h) FIR_MISS_CAUSE
      cause).incSat (pgFIR h) FIR_MISS_COUNT).rd (pgFIR h) f :=
  State.rd_of_regs _ _ (by rw [State.missNoted, State.updFir_part]) (by rw [State.missNoted, State.updFir_regs]) _ _

theorem State.missLine_cause (h : Fin 32) (tag : Byte) (cause : Nat) (hc : cause < 4) :
    (s.missLine h.val tag cause).rd (pgFIR h.val) FIR_MISS_CAUSE = cause := by
  rw [State.missLine_rd _ _ _ _ _ rfl, State.missNoted_rd, State.incSat_eq, State.addSat_eq,
    State.rd_wr_apart _ _ FIR_MISS_COUNT FIR_MISS_CAUSE (by decide) (by decide) rfl (by decide),
    State.rd_wr _ _ _ (by decide)]
  exact Nat.mod_eq_of_lt hc

theorem State.missLine_tag (h : Fin 32) (tag : Byte) (cause : Nat) :
    (s.missLine h.val tag cause).rd (pgFIR h.val) FIR_MISS_TAG = tag.toNat := by
  rw [State.missLine_rd _ _ _ _ _ rfl, State.missNoted_rd, State.incSat_eq, State.addSat_eq,
    State.rd_wr_apart _ _ FIR_MISS_COUNT FIR_MISS_TAG (by decide) (by decide) rfl (by decide),
    State.rd_wr_apart _ _ FIR_MISS_CAUSE FIR_MISS_TAG (by decide) (by decide) rfl (by decide),
    State.rd_wr _ _ _ (by decide)]
  exact Nat.mod_eq_of_lt tag.isLt

theorem State.missLine_count (h : Fin 32) (tag : Byte) (cause : Nat) :
    (s.missLine h.val tag cause).rd (pgFIR h.val) FIR_MISS_COUNT =
      min (s.rd (pgFIR h.val) FIR_MISS_COUNT + 1) (2 ^ FIR_MISS_COUNT.width - 1) := by
  rw [State.missLine_rd _ _ _ _ _ rfl, State.missNoted_rd, State.rd_incSat _ _ _ (by decide),
    State.rd_wr_apart _ _ FIR_MISS_CAUSE FIR_MISS_COUNT (by decide) (by decide) rfl (by decide),
    State.rd_wr_apart _ _ FIR_MISS_TAG FIR_MISS_COUNT (by decide) (by decide) rfl (by decide)]

theorem State.missLine_firOf (h : Fin 32) (tag : Byte) (cause : Nat) :
    (s.missLine h.val tag cause).firOf h.val = { s.firOf h.val with missed := true } := by
  have hnoted : (s.missNoted h.val tag cause).firOf h.val = { s.firOf h.val with missed := true } := by
    rw [State.missNoted, State.firOf_updFir, State.firOf_of_fir (s := s) (by
      rw [State.incSat_eq, State.addSat_eq, State.wr_fir, State.wr_fir, State.wr_fir])]
  rw [State.missLine_eq]
  split
  · exact hnoted
  · exact (State.firOf_of_fir (by rw [State.raise_fir]) _).trans hnoted

end Sys2Proof.Machine
end

section
/-! SUPPORT. What a hit comes to at the firing block (R200, R205–R210, R213, R214): a line that is missed, starts its
train or waits. -/

namespace Sys2Proof.Machine

variable {s t : State} {but : Nat → Nat → Prop}

variable (s)

theorem State.rd_updFir (h : Nat) (g : Fir → Fir) (p : Nat) (f : Fld) : (s.updFir h g).rd p f = s.rd p f :=
  State.rd_of_regs s _ (by rw [State.updFir_part]) (by rw [State.updFir_regs]) p f

/-- The pages that the firing block may change at a hit: the head's and the root's, and the Guestbook's. -/
def blockWord (h : Fin 32) (p _ : Nat) : Prop := p = pgFIR h.val ∨ p = pgFIRroot ∨ p = pgGBK

theorem blockWord_strike (h : Fin 32) (p o : Nat) (e : blockWord h p o) : strikeWord h p o :=
  e.imp_right fun e => e.imp_right fun e => .inr (.inr e)

theorem not_blockWord_onk (h : Fin 32) (o : Nat) : ¬ blockWord h (pgONK h.val) o := by
  have := h.isLt
  unfold blockWord pgONK pgFIR pgFIRroot pgGBK
  omega

theorem evWords_block (h : Fin 32) (p o : Nat) (e : evWords (pgFIR h.val) p o) : blockWord h p o :=
  e.imp And.left fun e => .inr e.1

/-! ### A train starts (R200, R209, R213) -/

theorem State.disarm_fir (page : Nat) : (s.disarm page).fir = s.fir := rfl

theorem State.inject_fir (page : Nat) : (s.inject page).fir = s.fir := by
  unfold State.inject
  dsimp only
  split
  · rw [State.updFolly_fir]
  · split
    · rw [State.disarm_fir, State.wr_fir, State.updFolly_fir]
    · rw [State.wr_fir, State.updFolly_fir]

theorem State.genSpans_raises (h t0 : Nat) (x : Train) (hb : but (pgFIR h) 0x030) :
    s.Raises (s.genSpans h t0 x).1 but := by
  unfold State.genSpans
  dsimp only
  split
  · split
    · exact s.inject_raises _ hb
    · exact .refl s but
  · exact .refl s but

theorem State.genSpans_fir (h t0 : Nat) (x : Train) : (s.genSpans h t0 x).1.fir = s.fir := by
  unfold State.genSpans
  dsimp only
  split
  · split
    · exact s.inject_fir _
    · rfl
  · rfl

/-- A train is counted, and it is the head's latest. -/
def State.trainSet (s : State) (h t0 : Nat) (x : Train) : State :=
  ((s.add2 (pgFIR h) FIR_TRAINS_LO_N FIR_TRAINS_HI_N 1).genSpans h t0 x).1.updFir h (fun f =>
    { f with
      train := some (t0, x)
      trainEnd := x.endsAt t0
      gen := ((s.add2 (pgFIR h) FIR_TRAINS_LO_N FIR_TRAINS_HI_N 1).genSpans h t0 x).2
      fires := (clipAt (4 * (t0 : Int) + x.edge).toNat f.fires).filter (fun e => decide
        (4 * (s.add2 (pgFIR h) FIR_TRAINS_LO_N FIR_TRAINS_HI_N 1).now < e.2 + 4004000)) })

/-- A started train is held by a cut or the loss of the crystal, or leaves the part. -/
theorem State.startTrain_cases (h t0 : Nat) (x : Train) :
    s.startTrain h t0 x = (s.trainSet h t0 x).incSat (pgFIR h) FIR_CUT_LINES_N ∨
      s.startTrain h t0 x = s.trainSet h t0 x ∨
      ∃ l, s.startTrain h t0 x =
        ((s.trainSet h t0 x).updFir h (fun f => { f with fires := f.fires ++ l })).emit (.train h x) := by
  unfold State.startTrain
  dsimp only
  split
  · exact .inl rfl
  · split
    · exact .inr (.inl rfl)
    · exact .inr (.inr ⟨_, rfl⟩)

/-- The words that a train's start may change beside the count of trains. -/
def startWord (h : Fin 32) (p o : Nat) : Prop := p = pgFIR h.val ∧ (o = 0x030 ∨ o = 0x098)

/-- After its count, a train's start writes only the injection's word and the count of lines that a cut held. -/
theorem State.startTrain_counted (h : Fin 32) (t0 : Nat) (x : Train) :
    (s.add2 (pgFIR h.val) FIR_TRAINS_LO_N FIR_TRAINS_HI_N 1).Raises (s.startTrain h.val t0 x) (startWord h) := by
  have hset : (s.add2 (pgFIR h.val) FIR_TRAINS_LO_N FIR_TRAINS_HI_N 1).Raises (s.trainSet h.val t0 x) (startWord h) :=
    (State.genSpans_raises _ h.val t0 x ⟨rfl, .inl rfl⟩).trans (State.updFir_raises _ h.val _)
  rcases s.startTrain_cases h.val t0 x with e | e | ⟨l, e⟩ <;> rw [e]
  · exact hset.trans (State.incSat_raises _ _ FIR_CUT_LINES_N (by decide) (by decide) ⟨rfl, .inr rfl⟩)
  · exact hset
  · exact (hset.trans (State.updFir_raises _ h.val _)).trans (State.emit_raises _ _)

theorem State.startTrain_block (h : Fin 32) (t0 : Nat) (x : Train) :
    s.Raises (s.startTrain h.val t0 x) (blockWord h) :=
  ((s.wr_raises (pgFIR h.val) _ FIR_TRAINS_LO_N (by decide) (by decide) (.inl rfl)).trans
    (State.wr_raises _ (pgFIR h.val) _ FIR_TRAINS_HI_N (by decide) (by decide) (.inl rfl))).trans
    ((s.startTrain_counted h t0 x).mono fun _ _ e => .inl e.1)

theorem State.startTrain_trains (h : Fin 32) (t0 : Nat) (x : Train) :
    (s.startTrain h.val t0 x).rd2 (pgFIR h.val) FIR_TRAINS_LO_N FIR_TRAINS_HI_N =
      (s.rd2 (pgFIR h.val) FIR_TRAINS_LO_N FIR_TRAINS_HI_N + 1) % 2 ^ 64 := by
  have hk := s.startTrain_counted h t0 x
  have hnot : ∀ o, o ≠ 0x030 → o ≠ 0x098 → ¬ startWord h (pgFIR h.val) o := fun o h1 h2 e => e.2.elim h1 h2
  rw [State.rd2_of_words _ _ _ (hk.word _ _ (by decide) (hnot _ (by decide) (by decide)))
    (hk.word _ _ (by decide) (hnot _ (by decide) (by decide)))]
  exact State.rd2_wr2 _ _ _ _ (by decide) (by decide) (by decide) _

/-- The head's record after a train's start: its latest train, and no other word of a miss. -/
theorem State.startTrain_firOf (h : Fin 32) (t0 : Nat) (x : Train) :
    ((s.startTrain h.val t0 x).firOf h.val).train = some (t0, x) ∧
      ((s.startTrain h.val t0 x).firOf h.val).missed = (s.firOf h.val).missed := by
  have hset : ((s.trainSet h.val t0 x).firOf h.val).train = some (t0, x) ∧
      ((s.trainSet h.val t0 x).firOf h.val).missed = (s.firOf h.val).missed := by
    unfold State.trainSet
    rw [State.firOf_updFir, State.firOf_of_fir (s := s) (by
      rw [State.genSpans_fir, State.add2, State.wr2_eq, State.wr_fir, State.wr_fir])]
    exact ⟨rfl, rfl⟩
  rcases s.startTrain_cases h.val t0 x with e | e | ⟨l, e⟩ <;> rw [e]
  · rw [State.firOf_of_fir (s := s.trainSet h.val t0 x) (by rw [State.incSat_eq, State.addSat_eq, State.wr_fir])]
    exact hset
  · exact hset
  · rw [State.firOf_of_fir (s := (s.trainSet h.val t0 x).updFir h.val _) (by rw [State.emit_fir]), State.firOf_updFir]
    exact hset

/-! ### The firing block at a hit (R200, R205–R210, R214) -/

/-- The head's cut is ended, and the mask of cut heads is `m`. -/
def State.uncut (s : State) (h m : Nat) : State :=
  ((s.updFir h (fun f => { f with rearm := false, fires := f.fires ++ restFrom (4 * s.now) f.gen })).wr (pgFIR h)
    FIR_CUT_STAT_CUT 0).wr pgFIRroot FIR_CUT_MASK_HEADS m

theorem State.releaseHead_cases (h : Nat) : ∃ m, s.releaseHead h = s.uncut h m ∨
    s.releaseHead h = (s.uncut h m).wr pgFIRroot FIR_ESTOP_LATCHED 0 := ⟨_, ite_eq_or_eq _ _ _⟩

theorem State.releaseHead_block (h : Fin 32) : s.Raises (s.releaseHead h.val) (blockWord h) := by
  obtain ⟨m, hm⟩ := s.releaseHead_cases h.val
  have hfree : s.Raises (s.uncut h.val m) (blockWord h) := ((s.updFir_raises h.val _).trans
    (State.wr_raises _ _ 0 FIR_CUT_STAT_CUT (by decide) (by decide) (.inl rfl))).trans
    (State.wr_raises _ _ m FIR_CUT_MASK_HEADS (by decide) (by decide) (.inr (.inl rfl)))
  rcases hm with e | e <;> rw [e]
  · exact hfree
  · exact hfree.trans (State.wr_raises _ _ 0 FIR_ESTOP_LATCHED (by decide) (by decide) (.inr (.inl rfl)))

theorem State.rearmAtHit_block (h : Fin 32) : s.Raises (s.rearmAtHit h.val) (blockWord h) := by
  unfold State.rearmAtHit
  split
  · exact s.releaseHead_block h
  · exact .refl s _

theorem State.rearmAtHit_none (h : Nat) (hr : (s.firOf h).rearm = false) : s.rearmAtHit h = s := by
  unfold State.rearmAtHit
  rw [hr]
  rfl

/-- The line's factor is latched. -/
def State.factored (s : State) (h : Nat) : State := s.latchFactor h (s.energy h)

/-- The train that a line asks for. -/
def State.lineTrain (s : State) (h line : Nat) (levels : List Nat) (edge : Int) : Train :=
  (s.factored h).trainOf h line levels (s.energy h).1 edge

/-- A line waits for the train before it. -/
def State.lineWaits (s : State) (h line : Nat) (x : Train) : State :=
  ((s.factored h).missLine h (BitVec.ofNat 8 line) 2).updFir h (fun f => { f with deferred := f.deferred ++ [x] })

/-- A line's train starts. -/
def State.lineStarts (s : State) (h : Nat) (x : Train) : State :=
  ((s.factored h).updFir h (fun f => { f with missed := false })).startTrain h (s.factored h).now x

theorem State.fireLine_eq (h line : Nat) (levels : List Nat) (sent : Bool) (edge : Int) :
    s.fireLine h line levels sent edge =
      if !(s.rearmAtHit h).enabled (pgFIR h) then s.rearmAtHit h
      else if !sent then ((s.rearmAtHit h).factored h).missLine h (BitVec.ofNat 8 line) 1
      else if ((s.rearmAtHit h).factored h).overlaps h edge then
        (s.rearmAtHit h).lineWaits h line ((s.rearmAtHit h).lineTrain h line levels edge)
      else (s.rearmAtHit h).lineStarts h ((s.rearmAtHit h).lineTrain h line levels edge) := rfl

theorem factorWord_block (h : Fin 32) (p o : Nat) (e : factorWord h p o) : blockWord h p o :=
  e.elim (fun e => .inl e.1) (evWords_block h p o)

theorem missWord_block (h : Fin 32) (p o : Nat) (e : missWord h p o) : blockWord h p o :=
  e.elim (fun e => .inl e.1) (evWords_block h p o)

theorem State.fireLine_raises (h : Fin 32) (line : Nat) (levels : List Nat) (sent : Bool) (edge : Int) :
    s.Raises (s.fireLine h.val line levels sent edge) (blockWord h) := by
  have harm := s.rearmAtHit_block h
  have hfact := harm.trans ((State.latchFactor_raises _ h ((s.rearmAtHit h.val).energy h.val)).mono (factorWord_block h))
  have hmiss : ∀ c, s.Raises (((s.rearmAtHit h.val).factored h.val).missLine h.val (BitVec.ofNat 8 line) c)
      (blockWord h) := fun c => hfact.trans ((State.missLine_raises _ h _ c).mono (missWord_block h))
  rw [State.fireLine_eq]
  split
  · exact harm
  · split
    · exact hmiss 1
    · split
      · exact (hmiss 2).trans (State.updFir_raises _ h.val _)
      · exact (hfact.trans (State.updFir_raises _ h.val _)).trans (State.startTrain_block _ h _ _)

variable {s}

/-- The block is enabled, and no re-arm waits: what a line comes to rests on its delivery and the train before. -/
theorem State.fireLine_enabled (h line : Nat) (levels : List Nat) (sent : Bool) (edge : Int)
    (he : s.enabled (pgFIR h) = true) (hr : (s.firOf h).rearm = false) :
    s.fireLine h line levels sent edge =
      if !sent then (s.factored h).missLine h (BitVec.ofNat 8 line) 1
      else if (s.factored h).overlaps h edge then s.lineWaits h line (s.lineTrain h line levels edge)
      else s.lineStarts h (s.lineTrain h line levels edge) := by
  rw [State.fireLine_eq, s.rearmAtHit_none h hr, he]
  rfl

/-- Whether a hit overlaps rests on the time and on the head's trains. -/
theorem State.overlaps_congr (h : Nat) (edge : Int) (hn : t.now = s.now) (ht : (t.firOf h).train = (s.firOf h).train)
    (hd : (t.firOf h).deferred = (s.firOf h).deferred) : t.overlaps h edge = s.overlaps h edge := by
  unfold State.overlaps Fir.lastFall
  dsimp only
  rw [hn, ht, hd]

variable (s)

theorem State.factored_overlaps (h : Fin 32) (edge : Int) :
    (s.factored h.val).overlaps h.val edge = s.overlaps h.val edge :=
  State.overlaps_congr _ _ (s.latchFactor_raises h _).core.now
    (by rw [State.factored, State.latchFactor_firOf]) (by rw [State.factored, State.latchFactor_firOf])

theorem State.factored_rd (h : Fin 32) (f : Fld) (ho : f.off < 4096) (h1 : f.off ≠ 0x014) (h2 : f.off ≠ 0x050)
    (h3 : f.off ≠ 0x07C) (h4 : f.off ≠ 0x08C) :
    (s.factored h.val).rd (pgFIR h.val) f = s.rd (pgFIR h.val) f :=
  (s.latchFactor_raises h _).keeps.rd _ f ho (by
    rintro (e | e)
    · exact e.2.elim h3 h4
    · exact not_evWords _ _ _ h1 h2 e)

/-- A line that was not delivered: shown and counted with cause 1, and no train. -/
theorem State.fireLine_missed (h : Fin 32) (line : Nat) (levels : List Nat) (edge : Int)
    (he : s.enabled (pgFIR h.val) = true) (hr : (s.firOf h.val).rearm = false) :
    let t := s.fireLine h.val line levels false edge
    t.rd (pgFIR h.val) FIR_MISS_CAUSE = 1 ∧ t.rd (pgFIR h.val) FIR_MISS_TAG = line % 256 ∧
      t.rd (pgFIR h.val) FIR_MISS_COUNT =
        min (s.rd (pgFIR h.val) FIR_MISS_COUNT + 1) (2 ^ FIR_MISS_COUNT.width - 1) ∧
      t.rd2 (pgFIR h.val) FIR_TRAINS_LO_N FIR_TRAINS_HI_N = s.rd2 (pgFIR h.val) FIR_TRAINS_LO_N FIR_TRAINS_HI_N := by
  dsimp only
  rw [State.fireLine_enabled _ _ _ _ _ he hr, if_pos (by decide : (!false) = true)]
  have hmiss := ((s.factored h.val).missLine_raises h (BitVec.ofNat 8 line) 1).keeps
  have hnot : ∀ o, o ≠ 0x014 → o ≠ 0x050 → o ≠ 0x090 → ¬ missWord h (pgFIR h.val) o := fun o h1 h2 h3 e =>
    e.elim (fun e => h3 e.2) (not_evWords _ _ _ h1 h2)
  refine ⟨State.missLine_cause _ _ _ _ (by decide), by rw [State.missLine_tag, BitVec.toNat_ofNat], ?_, ?_⟩
  · rw [State.missLine_count, s.factored_rd h _ (by decide) (by decide) (by decide) (by decide) (by decide)]
  · unfold State.rd2
    rw [hmiss.rd _ _ (by decide) (hnot _ (by decide) (by decide) (by decide)),
      hmiss.rd _ _ (by decide) (hnot _ (by decide) (by decide) (by decide)),
      s.factored_rd h _ (by decide) (by decide) (by decide) (by decide) (by decide),
      s.factored_rd h _ (by decide) (by decide) (by decide) (by decide) (by decide)]

/-- A line that was delivered after the train before: its train starts and is counted. -/
theorem State.fireLine_starts (h : Fin 32) (line : Nat) (levels : List Nat) (edge : Int)
    (he : s.enabled (pgFIR h.val) = true) (hr : (s.firOf h.val).rearm = false)
    (ho : s.overlaps h.val edge = false) :
    let t := s.fireLine h.val line levels true edge
    t.rd2 (pgFIR h.val) FIR_TRAINS_LO_N FIR_TRAINS_HI_N =
        (s.rd2 (pgFIR h.val) FIR_TRAINS_LO_N FIR_TRAINS_HI_N + 1) % 2 ^ 64 ∧
      (∃ x, (t.firOf h.val).train = some (s.now, x) ∧ x.line = line ∧ x.edge = edge) ∧
      (t.firOf h.val).missed = false := by
  have hnow : (s.factored h.val).now = s.now := (s.latchFactor_raises h _).core.now
  dsimp only
  rw [State.fireLine_enabled _ _ _ _ _ he hr, if_neg (by decide), if_neg (by
    rw [s.factored_overlaps h, ho]; decide)]
  unfold State.lineStarts
  obtain ⟨htrain, hmissed⟩ := State.startTrain_firOf ((s.factored h.val).updFir h.val (fun f => { f with missed := false }))
    h (s.factored h.val).now (s.lineTrain h.val line levels edge)
  refine ⟨?_, ⟨s.lineTrain h.val line levels edge, by rw [htrain, hnow], rfl, rfl⟩, ?_⟩
  · rw [State.startTrain_trains]
    unfold State.rd2
    rw [State.rd_updFir, State.rd_updFir,
      s.factored_rd h _ (by decide) (by decide) (by decide) (by decide) (by decide),
      s.factored_rd h _ (by decide) (by decide) (by decide) (by decide) (by decide)]
  · rw [hmissed, State.firOf_updFir]

/-- A line that was delivered while the train before runs: shown with cause 2, and its train waits. -/
theorem State.fireLine_waits (h : Fin 32) (line : Nat) (levels : List Nat) (edge : Int)
    (he : s.enabled (pgFIR h.val) = true) (hr : (s.firOf h.val).rearm = false) (ho : s.overlaps h.val edge = true) :
    let t := s.fireLine h.val line levels true edge
    t.rd (pgFIR h.val) FIR_MISS_CAUSE = 2 ∧ t.rd (pgFIR h.val) FIR_MISS_TAG = line % 256 ∧
      (t.firOf h.val).deferred.length = (s.firOf h.val).deferred.length + 1 := by
  dsimp only
  rw [State.fireLine_enabled _ _ _ _ _ he hr, if_neg (by decide), if_pos (by rw [s.factored_overlaps h, ho])]
  unfold State.lineWaits
  refine ⟨?_, ?_, ?_⟩
  · rw [State.rd_updFir, State.missLine_cause _ _ _ _ (by decide)]
  · rw [State.rd_updFir, State.missLine_tag, BitVec.toNat_ofNat]
  · rw [State.firOf_updFir, State.missLine_firOf, State.factored, State.latchFactor_firOf]
    exact List.length_append

end Sys2Proof.Machine
end

section
/-! PROOFS. A line's hit, and what it comes to at the firing block (R117, R119, R121, R200, R208, R209, R227). -/

namespace Sys2Proof.Machine

variable {s t : State} {but : Nat → Nat → Prop}

variable (s)

/-! ### A hit at the firing block, on its lane and in the quality loop (R200, R227, R263) -/

/-- The firing block takes the line that its lane gives up. -/
def State.blockHit (s : State) (h line : Nat) (levels : List Nat) (edge : Int) : State :=
  ((s.takeFlight h line).1.sentLine h (s.takeFlight h line).2).1.fireLine h line levels
    ((s.takeFlight h line).1.sentLine h (s.takeFlight h line).2).2 edge

/-- The lane awaits the line's report or skips it, and the quality loop learns of it. -/
def State.told (s : State) (h line : Nat) (hit : Bool) : State :=
  (if hit then s.updOnk h (fun x => { x with reports := x.reports ++ [line] }) else s.skipLine h line).qlpHit h line !hit

theorem State.strike_eq (h line : Nat) (edge : Int) : ∃ levels hit, s.strike h line edge =
    ((s.commitAtLine (pgFIR h) line).blockHit h line levels edge).told h line hit := ⟨_, _, rfl⟩

theorem State.setQlines_hits (h : Nat) (x : List QLine) : s.Hits (s.setQlines h x) but := by
  unfold State.setQlines
  split
  · exact ⟨rfl, fun _ _ _ _ => rfl, fun _ _ h => h⟩
  · exact .refl s but

theorem State.setQlines_silent (h : Nat) (x : List QLine) :
    (s.setQlines h x).part = s.part ∧ (s.setQlines h x).regs = s.regs ∧ (s.setQlines h x).fir = s.fir := by
  unfold State.setQlines
  split
  · exact ⟨State.updQlp_part s _, State.updQlp_regs s _, State.updQlp_fir s _⟩
  · exact ⟨rfl, rfl, rfl⟩

theorem State.skipLine_cases (h line : Nat) : (∃ e, s.skipLine h line = s.emit e) ∨ s.skipLine h line = s := by
  unfold State.skipLine
  split
  · exact .inl ⟨_, rfl⟩
  · exact .inr rfl

theorem State.told_hits (h line : Nat) (hit : Bool) : s.Hits (s.told h line hit) but := by
  have htold : s.Hits (if hit then s.updOnk h (fun x => { x with reports := x.reports ++ [line] })
      else s.skipLine h line) but := by
    split
    · exact s.updOnk_hits h _
    · rcases s.skipLine_cases h line with ⟨e, he⟩ | he <;> rw [he]
      · exact (s.emit_raises e).hits
      · exact .refl s but
  exact htold.trans (State.setQlines_hits _ _ _)

/-- What the lane and the quality loop learn writes no register and no firing block. -/
theorem State.told_silent (h line : Nat) (hit : Bool) : (s.told h line hit).part = s.part ∧
    (s.told h line hit).regs = s.regs ∧ (s.told h line hit).fir = s.fir := by
  unfold State.told State.qlpHit
  obtain ⟨hp, hr, hf⟩ := State.setQlines_silent (if hit then s.updOnk h (fun x => { x with reports := x.reports ++ [line] })
      else s.skipLine h line) h
    (((if hit then s.updOnk h (fun x => { x with reports := x.reports ++ [line] }) else s.skipLine h line).qlines h).map
      (fun l => if l.line == line then { l with void := some !hit } else l))
  rw [hp, hr, hf]
  split
  · exact ⟨State.updOnk_part s _ _, State.updOnk_regs s _ _, State.updOnk_fir s _ _⟩
  · rcases s.skipLine_cases h line with ⟨e, he⟩ | he <;> rw [he]
    · exact ⟨State.emit_part s e, State.emit_regs s e, State.emit_fir s e⟩
    · exact ⟨rfl, rfl, rfl⟩

theorem State.strike_hits (h : Fin 32) (line : Nat) (edge : Int) :
    s.Hits (s.strike h.val line edge) (strikeWord h) := by
  obtain ⟨levels, hit, he⟩ := s.strike_eq h.val line edge
  rw [he]
  exact ((((s.commitAtLine_strike h line).trans (State.takeFlight_strike _ h line)).trans
    (State.sentLine_strike _ h _)).trans ((State.fireLine_raises _ h line levels _ edge).mono (blockWord_strike h)).hits).trans
    (State.told_hits _ h.val line hit)

/-- The conditions under which the statement says what a hit comes to. -/
structure State.Fires (s : State) (h : Fin 32) : Prop where
  follies : s.follies = []
  enabled : s.enabled (pgFIR h.val) = true
  commit : s.commitOf (pgFIR h.val) = none
  rearm : (s.firOf h.val).rearm = false

variable {s}

/-- With no commit and no folly, a hit is the firing block's, with what the lane says of the line's delivery. -/
theorem State.Fires.strike_shows {h : Fin 32} (hf : s.Fires h) (line : Nat) (edge : Int) :
    ∃ levels, (∀ p o, (s.strike h.val line edge).word p o =
        ((s.takeFlight h.val line).1.fireLine h.val line levels (s.takeFlight h.val line).2 edge).word p o) ∧
      (s.strike h.val line edge).firOf h.val =
        ((s.takeFlight h.val line).1.fireLine h.val line levels (s.takeFlight h.val line).2 edge).firOf h.val := by
  obtain ⟨levels, hit, he⟩ := s.strike_eq h.val line edge
  have hplain := State.sentLine_plain (s.takeFlight h.val line).1 h.val (s.takeFlight h.val line).2
    ((s.takeFlight_stands h.val line).2.trans hf.follies)
  rw [s.commitAtLine_none _ _ hf.commit, State.blockHit, hplain] at he
  obtain ⟨hp, hr, hfir⟩ := State.told_silent
    ((s.takeFlight h.val line).1.fireLine h.val line levels (s.takeFlight h.val line).2 edge) h.val line hit
  exact ⟨levels, fun p o => by rw [he]; exact State.word_of_regs _ _ hp hr p o,
    by rw [he]; exact State.firOf_of_fir hfir h.val⟩

variable (s)

/-- A state's block as the lane has given the line up: nothing of it differs. -/
theorem State.takeFlight_block (h : Fin 32) (line : Nat) :
    (s.takeFlight h.val line).1.firOf h.val = s.firOf h.val ∧
      (∀ o, o < 4096 → (s.takeFlight h.val line).1.word (pgFIR h.val) o = s.word (pgFIR h.val) o) ∧
      (s.takeFlight h.val line).1.now = s.now ∧
      (s.takeFlight h.val line).1.enabled (pgFIR h.val) = s.enabled (pgFIR h.val) := by
  obtain ⟨b, hb⟩ := s.takeFlight_eq h.val line
  have hne : pgFIR h.val ≠ pgONK h.val := by unfold pgFIR pgONK; omega
  have hland : s.Hits (s.landed h.val line) (fun p _ => p = pgONK h.val) := s.updOnk_hits _ _
  have hk : s.Hits (s.takeFlight h.val line).1 (fun p _ => p = pgONK h.val) := by
    rw [hb]
    dsimp only
    split
    · exact hland
    · exact hland.trans (State.incSat_raises (but := fun p _ => p = pgONK h.val) _ (pgONK h.val) ONK_UNDELIV_N (by decide)
        (by decide) rfl).hits
  have hword : ∀ o, o < 4096 → (s.takeFlight h.val line).1.word (pgFIR h.val) o = s.word (pgFIR h.val) o :=
    fun o ho => hk.word _ o ho hne
  refine ⟨State.firOf_of_fir (s.takeFlight_stands h.val line).1 _, hword, (congrArg State.now hk.rest :), ?_⟩
  have hpart : (s.takeFlight h.val line).1.part = s.part := (congrArg State.part hk.rest :)
  unfold State.enabled State.kind State.bit State.rd
  rw [hpart, hword _ (by decide)]

theorem State.rd2_of_block (h : Fin 32) (hw : ∀ o, o < 4096 → t.word (pgFIR h.val) o = s.word (pgFIR h.val) o) :
    t.rd2 (pgFIR h.val) FIR_TRAINS_LO_N FIR_TRAINS_HI_N = s.rd2 (pgFIR h.val) FIR_TRAINS_LO_N FIR_TRAINS_HI_N :=
  State.rd2_of_words _ _ _ (hw _ (by decide)) (hw _ (by decide))

/-- What the statement says of a hit, from the state that the hit finds. -/
structure State.Comes (s t : State) (h : Fin 32) (line : Nat) (edge : Int) : Prop where
  missed : (s.takeFlight h.val line).2 = false →
    t.rd (pgFIR h.val) FIR_MISS_CAUSE = 1 ∧ t.rd (pgFIR h.val) FIR_MISS_TAG = line % 256 ∧
    t.rd (pgFIR h.val) FIR_MISS_COUNT =
      min (s.rd (pgFIR h.val) FIR_MISS_COUNT + 1) (2 ^ FIR_MISS_COUNT.width - 1) ∧
    t.rd (pgONK h.val) ONK_UNDELIV_N =
      min (s.rd (pgONK h.val) ONK_UNDELIV_N + 1) (2 ^ ONK_UNDELIV_N.width - 1) ∧
    t.rd2 (pgFIR h.val) FIR_TRAINS_LO_N FIR_TRAINS_HI_N = s.rd2 (pgFIR h.val) FIR_TRAINS_LO_N FIR_TRAINS_HI_N
  starts : (s.takeFlight h.val line).2 = true → s.overlaps h.val edge = false →
    t.rd2 (pgFIR h.val) FIR_TRAINS_LO_N FIR_TRAINS_HI_N =
      (s.rd2 (pgFIR h.val) FIR_TRAINS_LO_N FIR_TRAINS_HI_N + 1) % 2 ^ 64 ∧
    (∃ x, (t.firOf h.val).train = some (s.now, x) ∧ x.line = line ∧ x.edge = edge) ∧ (t.firOf h.val).missed = false
  waits : (s.takeFlight h.val line).2 = true → s.overlaps h.val edge = true →
    t.rd (pgFIR h.val) FIR_MISS_CAUSE = 2 ∧ t.rd (pgFIR h.val) FIR_MISS_TAG = line % 256 ∧
    (t.firOf h.val).deferred.length = (s.firOf h.val).deferred.length + 1

variable {s}

theorem State.Fires.comes {h : Fin 32} (hf : s.Fires h) (line : Nat) (edge : Int) :
    s.Comes (s.strike h.val line edge) h line edge := by
  obtain ⟨levels, hw, hfir⟩ := hf.strike_shows line edge
  obtain ⟨hblock, hword, hnow, hen⟩ := s.takeFlight_block h line
  have he := hen.trans hf.enabled
  have hr : ((s.takeFlight h.val line).1.firOf h.val).rearm = false := by rw [hblock]; exact hf.rearm
  have hov : ∀ e, (s.takeFlight h.val line).1.overlaps h.val e = s.overlaps h.val e := fun e =>
    State.overlaps_congr _ _ hnow (by rw [hblock]) (by rw [hblock])
  have hrd : ∀ p f, (s.strike h.val line edge).rd p f =
      ((s.takeFlight h.val line).1.fireLine h.val line levels (s.takeFlight h.val line).2 edge).rd p f := fun p f => by
    unfold State.rd; rw [hw]
  have hrd2 : ∀ lo hi, (s.strike h.val line edge).rd2 (pgFIR h.val) lo hi =
      ((s.takeFlight h.val line).1.fireLine h.val line levels (s.takeFlight h.val line).2 edge).rd2 (pgFIR h.val) lo hi :=
    fun lo hi => State.rd2_of_words _ _ _ (hw _ _) (hw _ _)
  have hfir0 : ∀ f : Fld, f.off < 4096 → (s.takeFlight h.val line).1.rd (pgFIR h.val) f = s.rd (pgFIR h.val) f :=
    fun f ho => by unfold State.rd; rw [hword _ ho]
  have htrains := s.rd2_of_block h hword
  refine ⟨fun hsent => ?_, fun hsent ho => ?_, fun hsent ho => ?_⟩ <;> rw [hsent] at hrd hrd2 hfir
  · obtain ⟨hcause, htag, hcount, hkeep⟩ := State.fireLine_missed _ h line levels edge he hr
    refine ⟨(hrd _ _).trans hcause, (hrd _ _).trans htag, (hrd _ _).trans (hcount.trans (by
      rw [hfir0 _ (by decide)])), ?_, (hrd2 _ _).trans (hkeep.trans htrains)⟩
    rw [hrd, (State.fireLine_raises _ h line levels false edge).keeps.rd _ _ (by decide) (not_blockWord_onk h _),
      s.takeFlight_undelivered h.val line hsent]
  · obtain ⟨hcount, ⟨x, hx, hxl, hxe⟩, hmissed⟩ := State.fireLine_starts _ h line levels edge he hr ((hov _).trans ho)
    rw [hnow] at hx
    exact ⟨(hrd2 _ _).trans (hcount.trans (by rw [htrains])), ⟨x, by rw [hfir, hx], hxl, hxe⟩, by rw [hfir, hmissed]⟩
  · obtain ⟨hcause, htag, hlen⟩ := State.fireLine_waits _ h line levels edge he hr ((hov _).trans ho)
    exact ⟨(hrd _ _).trans hcause, (hrd _ _).trans htag, by rw [hfir, hlen, hblock]⟩

end Sys2Proof.Machine
end

section
/-! PROOFS. The schedule's next hit (R117, R119, R121, R123, R127). -/

namespace Sys2Proof.Machine

variable {s t : State} {but : Nat → Nat → Prop}

/-! ### When the hit issues (R119) -/

theorem State.hitTime_congr (h : Nat) (extra : Bool) (hn : t.now = s.now) (hh : t.hsc = s.hsc)
    (hw : t.word (pgHSC h) 0x064 = s.word (pgHSC h) 0x064) : t.hitTime h extra = s.hitTime h extra := by
  have hrd : t.rd (pgHSC h) HSC_MIN_PERIOD_NS = s.rd (pgHSC h) HSC_MIN_PERIOD_NS :=
    congrArg HSC_MIN_PERIOD_NS.get hw
  unfold State.hitTime
  rw [hn, hrd, State.hscOf_of_hsc hh]

/-- What the predicted position and the edge phase rest on (R123). -/
theorem State.edgePhase_congr (c : BitVec 64) (he : t.enc = s.enc) (hw : ∀ p o, o < 4096 → (p = pgSDL ∨ p = pgSPD) →
    t.word p o = s.word p o) : t.edgePhase c = s.edgePhase c := by
  have hpos : t.pos = s.pos := State.pos_of_words (hw _ _ (by decide) (.inl rfl)) (hw _ _ (by decide) (.inl rfl))
  have hrd : ∀ p f, f.off < 4096 → (p = pgSDL ∨ p = pgSPD) → t.rd p f = s.rd p f := fun p f ho hp =>
    congrArg f.get (hw p f.off ho hp)
  have hspeed : t.rdS pgSPD SPD_SPEED_V = s.rdS pgSPD SPD_SPEED_V :=
    congrArg (sint _) (hrd _ _ (by decide) (.inr rfl))
  have htrim : t.rdS pgSDL SDL_FF_TRIM_PS = s.rdS pgSDL SDL_FF_TRIM_PS :=
    congrArg (sint _) (hrd _ _ (by decide) (.inl rfl))
  have hsource : t.source = s.source := congrArg encNum (hrd _ _ (by decide) (.inl rfl))
  unfold State.edgePhase State.predicted State.feedForward State.encOf
  rw [hpos, hspeed, htrim, hsource, he]

variable (s)

theorem State.hitTime_period (h : Nat) (extra : Bool) (t0 : Nat) (ht : (s.hscOf h).lastHit = some t0) :
    t0 + max 2500 (s.rd (pgHSC h) HSC_MIN_PERIOD_NS) ≤ s.hitTime h extra := by
  unfold State.hitTime
  rw [ht]
  dsimp only
  split
  · exact (le_max_right _ _).trans (Nat.le_add_right _ _)
  · exact le_max_right _ _

/-- When the next hit of a schedule issues. -/
def State.hitAt (s : State) (h : Nat) : Nat := s.hitTime h (s.follyOn (pgHSC h) 2)

/-- Folly 2 injects. -/
def State.slowed (s : State) (h : Nat) : State := if s.follyOn (pgHSC h) 2 then s.inject (pgHSC h) else s

/-- A delayed line counts in `LATE_LINES`, with its event. -/
def State.lateCounted (s : State) (h : Nat) : State := (s.incSat (pgHSC h) HSC_LATE_LINES_N).raise (pgHSC h) 1

/-- The state in which the hit issues, but for the time. -/
def State.delayed (s : State) (h : Nat) : State :=
  if s.now < s.hitAt h then (s.slowed h).lateCounted h else s.slowed h

/-- The words that a hit may change on its schedule's page before it issues. -/
def lateWord (h : Fin 32) (p o : Nat) : Prop :=
  (p = pgHSC h.val ∧ (o = 0x030 ∨ o = 0x088)) ∨ evWords (pgHSC h.val) p o

theorem State.slowed_raises (h : Fin 32) (hb : but (pgHSC h.val) 0x030) : s.Raises (s.slowed h.val) but := by
  unfold State.slowed
  split
  · exact s.inject_raises _ hb
  · exact .refl s but

theorem State.lateCounted_raises (h : Fin 32) : s.Raises (s.lateCounted h.val) (lateWord h) :=
  (s.incSat_raises _ HSC_LATE_LINES_N (by decide) (by decide) (.inl ⟨rfl, .inr rfl⟩)).trans
    (State.raise_raises _ _ 1 (.inr (.inl ⟨rfl, rfl⟩)) fun _ _ e => .inr (.inr (e.elim (fun e => ⟨e.1, .inl e.2⟩) id)))

theorem State.delayed_raises (h : Fin 32) : s.Raises (s.delayed h.val) (lateWord h) := by
  have hslow := s.slowed_raises (but := lateWord h) h (.inl ⟨rfl, .inl rfl⟩)
  unfold State.delayed
  split
  · exact hslow.trans (State.lateCounted_raises _ h)
  · exact hslow

/-- Pages of other units stand as the hit is delayed. -/
theorem State.delayed_word (h : Fin 32) (p o : Nat) (ho : o < 4096) (hp : p ≠ pgHSC h.val) (hg : p ≠ pgGBK) :
    (s.delayed h.val).word p o = s.word p o :=
  (s.delayed_raises h).word p o ho (by
    rintro (e | e | e)
    · exact hp e.1
    · exact hp e.1
    · exact hg e.1)

theorem State.delayed_fir (h : Nat) : (s.delayed h).fir = s.fir := by
  have hslow : (s.slowed h).fir = s.fir := by
    unfold State.slowed
    split
    · exact s.inject_fir _
    · rfl
  unfold State.delayed State.lateCounted
  split
  · rw [State.raise_fir, State.incSat_eq, State.addSat_eq, State.wr_fir, hslow]
  · exact hslow

theorem State.delayed_follies (h : Nat) (hf : s.follies = []) : (s.delayed h).follies = [] := by
  have hslow : s.slowed h = s := by
    unfold State.slowed
    rw [s.follyOn_nil _ _ hf]
    rfl
  unfold State.delayed
  rw [hslow]
  split
  · refine List.eq_nil_of_length_eq_zero (Nat.le_zero.mp ((State.raiseD_follies_length _ _ _ _).trans ?_))
    rw [State.incSat_eq, State.addSat_eq, State.wr_follies, hf]
    exact le_rfl
  · exact hf

/-- A delayed line is counted and raises bit 1. -/
theorem State.delayed_late (h : Fin 32) (hh : h.val < s.part.heads) (hp : s.printUp = true) (hd : s.now < s.hitAt h.val) :
    (s.delayed h.val).Raised (pgHSC h.val) 1 ∧ (s.delayed h.val).rd (pgHSC h.val) HSC_LATE_LINES_N =
      min (s.rd (pgHSC h.val) HSC_LATE_LINES_N + 1) (2 ^ HSC_LATE_LINES_N.width - 1) := by
  have hslow := (s.slowed_raises (but := fun p o => p = pgHSC h.val ∧ o = 0x030) h ⟨rfl, rfl⟩).keeps
  have hunit : unitOf ((s.slowed h.val).incSat (pgHSC h.val) HSC_LATE_LINES_N).part (pgHSC h.val) = some (.hsc, h.val) := by
    rw [State.incSat_eq, State.addSat_eq, State.wr_part, hslow.core.part]
    exact unitOf_hsc s.part h hh
  have hclear : ((s.slowed h.val).incSat (pgHSC h.val) HSC_LATE_LINES_N).isolated .print = false := by
    have hc := (State.incSat_raises (but := fun p _ => p = pgHSC h.val) (s.slowed h.val) (pgHSC h.val) HSC_LATE_LINES_N
      (by decide) (by decide) rfl).keeps
    rw [hc.isolated, hslow.isolated, s.not_isolated_of_printUp hp]
  unfold State.delayed State.lateCounted
  rw [if_pos hd]
  refine ⟨State.raise_raised _ _ 1 _ (by unfold evNum; rw [hunit]; exact if_pos (by decide)) (by decide)
    (State.not_clamped_of_print _ _ hclear .hsc (by unfold State.kind kindOf; rw [hunit]; rfl) rfl), ?_⟩
  rw [State.raise_rd _ _ _ _ _ (by decide) (not_evWords _ _ _ (by decide) (by decide)), State.rd_incSat _ _ _ (by decide),
    hslow.rd _ _ (by decide) (fun e => absurd e.2 (by decide))]

/-! ### The schedule goes on (R117, R121, R127) -/

/-- The words that show a schedule's next line. -/
def nextWord (h : Fin 32) (p o : Nat) : Prop :=
  p = pgHSC h.val ∧ (o = 0x070 ∨ o = 0x074 ∨ o = 0x078 ∨ o = 0x07C ∨ o = 0x080 ∨ o = 0x08C)

theorem State.wr2_raises (p : Nat) (lo hi : Fld) (v : Nat) (hl : lo.Sound) (hh : hi.Sound) (hl14 : lo.off ≠ 0x014)
    (hh14 : hi.off ≠ 0x014) (hbl : but p lo.off) (hbh : but p hi.off) : s.Raises (s.wr2 p lo hi v) but :=
  (s.wr_raises p _ lo hl hl14 hbl).trans (State.wr_raises _ p _ hi hh hh14 hbh)

theorem State.showNext_raises (h : Fin 32) : s.Raises (s.showNext h.val) (nextWord h) := by
  unfold State.showNext
  dsimp only
  exact (((s.wr2_raises (pgHSC h.val) HSC_LINE_LO_N HSC_LINE_HI_N _ (by decide) (by decide) (by decide) (by decide)
    ⟨rfl, .inl rfl⟩ ⟨rfl, .inr (.inl rfl)⟩).trans
    (State.wr2_raises _ (pgHSC h.val) HSC_NEXT_FIRE_LO_POS HSC_NEXT_FIRE_HI_POS _ (by decide) (by decide) (by decide)
      (by decide) ⟨rfl, .inr (.inr (.inl rfl))⟩ ⟨rfl, .inr (.inr (.inr (.inl rfl)))⟩)).trans
    (State.wr_raises _ (pgHSC h.val) _ HSC_PP_STAT_LINE_IN_PP (by decide) (by decide)
      ⟨rfl, .inr (.inr (.inr (.inr (.inl rfl))))⟩)).trans
    (State.wr_raises _ (pgHSC h.val) _ HSC_TAG_TAG (by decide) (by decide)
      ⟨rfl, .inr (.inr (.inr (.inr (.inr rfl))))⟩)

theorem State.showNext_fir (h : Nat) : (s.showNext h).fir = s.fir := by
  unfold State.showNext
  dsimp only
  rw [State.wr_fir, State.wr_fir, State.wr2_eq, State.wr_fir, State.wr_fir, State.wr2_eq, State.wr_fir, State.wr_fir]

/-- The schedule goes on with its next line, and shows the print page of the one hit. -/
def State.goesOn (s : State) (h num : Nat) (g : Hsc → Hsc) : State :=
  ((s.updHsc h g).wr (pgHSC h) HSC_PP_NUM_N num).showNext h

theorem State.goesOn_word (h : Fin 32) (num : Nat) (g : Hsc → Hsc) (p o : Nat) (ho : o < 4096)
    (hn : ¬ (nextWord h p o ∨ p = pgHSC h.val ∧ o = 0x084)) : (s.goesOn h.val num g).word p o = s.word p o := by
  rw [State.goesOn, (State.showNext_raises _ h).word p o ho (fun e => hn (.inl e)),
    State.word_wr_ne _ _ _ _ HSC_PP_NUM_N (by decide) ho (not_and_or.mp fun e => hn (.inr e))]
  exact State.word_of_regs s _ (State.updHsc_part s _ _) (State.updHsc_regs s _ _) p o

theorem State.goesOn_num (h : Fin 32) (num : BitVec 32) (g : Hsc → Hsc) :
    (s.goesOn h.val num.toNat g).rd (pgHSC h.val) HSC_PP_NUM_N = num.toNat := by
  rw [State.goesOn, (State.showNext_raises _ h).keeps.rd _ _ (by decide) (fun e => absurd e.2 (by decide)),
    State.rd_wr _ _ _ (by decide)]
  exact Nat.mod_eq_of_lt num.isLt

theorem State.goesOn_hscOf (h : Fin 32) (num : Nat) (g : Hsc → Hsc) (j : Nat) :
    (s.goesOn h.val num g).hscOf j = if j = h.val then g (s.hscOf h.val) else s.hscOf j := by
  have hshow : (s.goesOn h.val num g).hsc = ((s.updHsc h.val g).wr (pgHSC h.val) HSC_PP_NUM_N num).hsc :=
    (State.showNext_raises _ h).hits.hsc
  rw [State.hscOf_of_hsc hshow, State.hscOf_of_hsc (State.wr_hsc _ _ _ _), State.hscOf_updHsc]

theorem State.goesOn_fir (h num : Nat) (g : Hsc → Hsc) : (s.goesOn h num g).fir = s.fir := by
  rw [State.goesOn, State.showNext_fir, State.wr_fir, State.updHsc_fir]

theorem State.goesOn_now (h : Fin 32) (num : Nat) (g : Hsc → Hsc) : (s.goesOn h.val num g).now = s.now := by
  rw [State.goesOn, (State.showNext_raises _ h).core.now, State.wr_now, State.updHsc_now]

theorem State.goesOn_sameMem (h : Fin 32) (num : Nat) (g : Hsc → Hsc) : s.SameMem (s.goesOn h.val num g) := by
  have hshow := (State.showNext_raises ((s.updHsc h.val g).wr (pgHSC h.val) HSC_PP_NUM_N num) h).core
  refine .of_eq (hshow.mem.trans ?_) (hshow.flash.trans ?_) (hshow.poison.trans ?_)
  · rw [State.wr_mem, State.updHsc_mem]
  · rw [State.wr_flash, State.updHsc_flash]
  · rw [State.wr_poison, State.updHsc_poison]

/-! ### The hit -/

/-- The next line of a schedule, its edge in steps from the start of the tick, and the hit as it finds the head. -/
def State.hitCur (s : State) (h : Nat) : Cursor := (s.hscOf h).hit.rebase (s.geos h)

def State.hitEdge (s : State) (h : Nat) : Int :=
  (s.edgePhase (s.hitCur h).cmp : Int) + (geoAt (s.hscOf h).geo (s.hitCur h).line).trim

/-- The state that the hit finds, at the time it issues. -/
def State.found (s : State) (h : Nat) : State := { s.delayed h with now := s.hitAt h }

/-- The line has been hit, and the time is the tick's again. -/
def State.struck (s : State) (h : Nat) : State :=
  { (s.found h).strike h (s.hitCur h).line (s.hitEdge h) with now := s.now }

theorem pgHSC_ne_sdl (h : Fin 32) : pgHSC h.val ≠ pgSDL := by unfold pgHSC pgSDL; omega

theorem pgHSC_ne_spd (h : Fin 32) : pgHSC h.val ≠ pgSPD := by unfold pgHSC pgSPD; omega

theorem Cursor.rebase_line (gs : List Geo) (c : Cursor) : (c.rebase gs).line = c.line := by
  unfold Cursor.rebase
  dsimp only
  split <;> rfl

theorem State.slowed_hitTime (h : Fin 32) (extra : Bool) :
    (s.slowed h.val).hitTime h.val extra = s.hitTime h.val extra := by
  have hslow := s.slowed_raises (but := fun p o => p = pgHSC h.val ∧ o = 0x030) h ⟨rfl, rfl⟩
  exact State.hitTime_congr _ _ hslow.core.now hslow.hits.hsc
    (hslow.word _ _ (by decide) (fun e => absurd e.2 (by decide)))

theorem State.delayed_edgePhase (h : Fin 32) (c : BitVec 64) : (s.delayed h.val).edgePhase c = s.edgePhase c :=
  State.edgePhase_congr c (congrArg State.enc (s.delayed_raises h).rest :) fun p o ho hp =>
    s.delayed_word h p o ho (hp.elim (fun e => e ▸ (pgHSC_ne_sdl h).symm) fun e => e ▸ (pgHSC_ne_spd h).symm)
      (by rcases hp with rfl | rfl <;> decide)

theorem State.hitNext_eq (h : Fin 32) : ∃ gs, s.hitNext h.val = (s.struck h.val).goesOn h.val (s.hitCur h.val).num.toNat
    (fun x => { x with hit := (s.hitCur h.val).next gs, lastHit := some (s.hitAt h.val) }) := by
  have hnow : (s.slowed h.val).now = s.now := (s.slowed_raises (but := fun _ _ => True) h trivial).core.now
  refine ⟨(s.struck h.val).geos h.val, ?_⟩
  have he : s.hitNext h.val =
      (let at' := (s.slowed h.val).hitTime h.val (s.follyOn (pgHSC h.val) 2)
       let u := if (s.slowed h.val).now < at' then (s.slowed h.val).lateCounted h.val else s.slowed h.val
       let v : State := { ({ u with now := at' } : State).strike h.val (s.hitCur h.val).line
        ((u.edgePhase (s.hitCur h.val).cmp : Int) + (geoAt (s.hscOf h.val).geo (s.hitCur h.val).line).trim) with
          now := s.now }
       v.goesOn h.val (s.hitCur h.val).num.toNat
        (fun x => { x with hit := (s.hitCur h.val).next (v.geos h.val), lastHit := some at' })) := rfl
  rw [he, s.slowed_hitTime h, hnow]
  have hphase := s.delayed_edgePhase h (s.hitCur h.val).cmp
  unfold State.delayed State.hitAt at hphase
  dsimp only
  rw [hphase]
  rfl

/-- What the hit finds beside the time. -/
theorem State.found_raises (h : Fin 32) : ({ s with now := s.hitAt h.val } : State).Raises (s.found h.val) (lateWord h) where
  rest := (congrArg (fun x : State => { x with now := s.hitAt h.val }) (s.delayed_raises h).rest :)
  word := (s.delayed_raises h).word
  training := (s.delayed_raises h).training
  raised := (s.delayed_raises h).raised

/-- What the line's hit leaves of what it found. -/
theorem State.found_strike (h : Fin 32) :
    (s.found h.val).Hits ((s.found h.val).strike h.val (s.hitCur h.val).line (s.hitEdge h.val)) (strikeWord h) :=
  State.strike_hits _ h _ _

theorem State.struck_hsc (h : Fin 32) : (s.struck h.val).hsc = s.hsc :=
  (s.found_strike h).hsc.trans (s.found_raises h).hits.hsc

theorem State.struck_sameMem (h : Fin 32) : s.SameMem (s.struck h.val) := by
  have hfound : s.SameMem (s.found h.val) :=
    (State.SameMem.of_eq rfl rfl rfl : s.SameMem { s with now := s.hitAt h.val }).trans (s.found_raises h).keeps.sameMem
  exact (hfound.trans (s.found_strike h).sameMem).trans (.of_eq rfl rfl rfl)

theorem State.struck_word (h : Nat) (p o : Nat) :
    (s.struck h).word p o = ((s.found h).strike h (s.hitCur h).line (s.hitEdge h)).word p o :=
  State.word_of_regs _ _ rfl rfl p o

/-- The schedule's own words stand while the line is hit. -/
theorem State.struck_hscWord (h : Fin 32) (o : Nat) (ho : o < 4096) :
    (s.struck h.val).word (pgHSC h.val) o = (s.delayed h.val).word (pgHSC h.val) o :=
  (s.struck_word h.val _ o).trans (((s.found_strike h).word _ o ho (not_strikeWord_hsc h h o)).trans
    (State.word_of_regs _ _ rfl rfl _ o))

end Sys2Proof.Machine
end

section
/-! PROOFS. A hit of the schedule's next line, whole (R117, R119, R121, R200, R208, R209, R227). -/

namespace Sys2Proof.Machine

variable {s t u : State}

/-! ### What a hit comes to rests on the firing block and the lane -/

/-- The firing block's and the lane's words and the head's record are the same. -/
structure State.SameBlock (s t : State) (h : Fin 32) : Prop where
  fir : ∀ o, o < 4096 → t.word (pgFIR h.val) o = s.word (pgFIR h.val) o
  onk : ∀ o, o < 4096 → t.word (pgONK h.val) o = s.word (pgONK h.val) o
  firOf : t.firOf h.val = s.firOf h.val

theorem State.SameBlock.rd_fir {h : Fin 32} (hb : s.SameBlock t h) (f : Fld) (ho : f.off < 4096) :
    t.rd (pgFIR h.val) f = s.rd (pgFIR h.val) f := congrArg f.get (hb.fir f.off ho)

theorem State.SameBlock.rd_onk {h : Fin 32} (hb : s.SameBlock t h) (f : Fld) (ho : f.off < 4096) :
    t.rd (pgONK h.val) f = s.rd (pgONK h.val) f := congrArg f.get (hb.onk f.off ho)

theorem State.SameBlock.trains {h : Fin 32} (hb : s.SameBlock t h) :
    t.rd2 (pgFIR h.val) FIR_TRAINS_LO_N FIR_TRAINS_HI_N = s.rd2 (pgFIR h.val) FIR_TRAINS_LO_N FIR_TRAINS_HI_N :=
  State.rd2_of_block s h hb.fir

theorem State.Comes.after {h : Fin 32} {line : Nat} {edge : Int} (hc : s.Comes t h line edge) (hb : t.SameBlock u h) :
    s.Comes u h line edge where
  missed hs := by
    rw [hb.rd_fir _ (by decide), hb.rd_fir _ (by decide), hb.rd_fir _ (by decide), hb.rd_onk _ (by decide), hb.trains]
    exact hc.missed hs
  starts hs ho := by
    rw [hb.trains, hb.firOf]
    exact hc.starts hs ho
  waits hs ho := by
    rw [hb.rd_fir _ (by decide), hb.rd_fir _ (by decide), hb.firOf]
    exact hc.waits hs ho

theorem State.Comes.before {h : Fin 32} {line : Nat} {edge : Int} (hc : t.Comes u h line edge) (hb : s.SameBlock t h)
    (hn : t.now = s.now) (hs : (t.takeFlight h.val line).2 = (s.takeFlight h.val line).2) : s.Comes u h line edge := by
  have hov := State.overlaps_congr h.val edge hn (by rw [hb.firOf]) (by rw [hb.firOf])
  obtain ⟨hmissed, hstarts, hwaits⟩ := hc
  rw [hs] at hmissed hstarts hwaits
  rw [hov] at hstarts hwaits
  rw [hb.rd_fir _ (by decide), hb.rd_onk _ (by decide), hb.trains] at hmissed
  rw [hb.trains, hn] at hstarts
  rw [hb.firOf] at hwaits
  exact ⟨hmissed, hstarts, hwaits⟩

variable (s)

theorem not_lateWord_block (h : Fin 32) (o : Nat) : ¬ lateWord h (pgFIR h.val) o ∧ ¬ lateWord h (pgONK h.val) o := by
  have := h.isLt
  unfold lateWord evWords pgFIR pgONK pgHSC pgGBK
  omega

/-- The hit finds the firing block and the lane as they stand. -/
theorem State.found_sameBlock (h : Fin 32) : ({ s with now := s.hitAt h.val } : State).SameBlock (s.found h.val) h where
  fir o ho := (s.found_raises h).word _ o ho (not_lateWord_block h o).1
  onk o ho := (s.found_raises h).word _ o ho (not_lateWord_block h o).2
  firOf := (State.firOf_of_fir (s.delayed_fir h.val) _ :)

theorem State.found_takeFlight (h : Fin 32) (line : Nat) : ((s.found h.val).takeFlight h.val line).2 =
    (({ s with now := s.hitAt h.val } : State).takeFlight h.val line).2 := by
  have hpart : (s.found h.val).part = s.part := (s.delayed_raises h).core.part
  refine State.takeFlight_congr _ h.val line (congrArg State.onk (s.found_raises h).rest :) rfl ?_
  have hbit := (s.found_raises h).keeps.bit (pgONK h.val) UNIT_CTRL_ENABLE (by decide) (not_lateWord_block h _).2
  unfold State.enabled State.kind
  rw [hpart, hbit]

theorem State.Fires.found {s : State} {h : Fin 32} (hf : s.Fires h) : (s.found h.val).Fires h where
  follies := s.delayed_follies h.val hf.follies
  enabled := by
    have hpart : (s.found h.val).part = s.part := (s.delayed_raises h).core.part
    have hbit := (s.found_raises h).keeps.bit (pgFIR h.val) UNIT_CTRL_ENABLE (by decide) (not_lateWord_block h _).1
    have he := hf.enabled
    unfold State.enabled State.kind at he ⊢
    rw [hpart, hbit]
    exact he
  commit := (congrArg (fun c : List (Nat × Commit) => c.lookup (pgFIR h.val))
    (congrArg State.commits (s.found_raises h).rest :)).trans hf.commit
  rearm := by rw [(s.found_sameBlock h).firOf]; exact hf.rearm

theorem State.goesOn_sameBlock (h : Fin 32) (num : Nat) (g : Hsc → Hsc) : s.SameBlock (s.goesOn h.val num g) h := by
  have hpage : ∀ p o, p ≠ pgHSC h.val → ¬ (nextWord h p o ∨ p = pgHSC h.val ∧ o = 0x084) := fun p o hp e =>
    e.elim (fun e => hp e.1) fun e => hp e.1
  have hfir : pgFIR h.val ≠ pgHSC h.val := by unfold pgFIR pgHSC; omega
  have honk : pgONK h.val ≠ pgHSC h.val := by unfold pgONK pgHSC; omega
  exact ⟨fun o ho => s.goesOn_word h num g _ o ho (hpage _ o hfir), fun o ho => s.goesOn_word h num g _ o ho (hpage _ o honk),
    State.firOf_of_fir (s.goesOn_fir h.val num g) _⟩

/-- What a hit comes to at a firing block without a folly, a commit or a waiting re-arm. -/
theorem State.Fires.goesOn_comes {s : State} {h : Fin 32} (hf : s.Fires h) (num : Nat) (g : Hsc → Hsc) :
    ({ s with now := s.hitAt h.val } : State).Comes ((s.struck h.val).goesOn h.val num g) h (s.hitCur h.val).line
      (s.hitEdge h.val) := by
  have hstruck : ((s.found h.val).strike h.val (s.hitCur h.val).line (s.hitEdge h.val)).SameBlock (s.struck h.val) h :=
    ⟨fun o _ => s.struck_word h.val _ o, fun o _ => s.struck_word h.val _ o, State.firOf_of_fir rfl _⟩
  exact (((hf.found.comes _ _).after hstruck).after (State.goesOn_sameBlock _ h num g)).before (s.found_sameBlock h) rfl
    (s.found_takeFlight h _)

/-- A delayed line is counted with its event, and stands so when the schedule has gone on. -/
theorem State.goesOn_late (h : Fin 32) (hh : h.val < s.part.heads) (hp : s.printUp = true) (hd : s.now < s.hitAt h.val)
    (num : Nat) (g : Hsc → Hsc) :
    ((s.struck h.val).goesOn h.val num g).Raised (pgHSC h.val) 1 ∧
      ((s.struck h.val).goesOn h.val num g).rd (pgHSC h.val) HSC_LATE_LINES_N =
        min (s.rd (pgHSC h.val) HSC_LATE_LINES_N + 1) (2 ^ HSC_LATE_LINES_N.width - 1) := by
  obtain ⟨hraised, hcount⟩ := s.delayed_late h hh hp hd
  have hw : ∀ o, o < 4096 → (o ≠ 0x070 ∧ o ≠ 0x074 ∧ o ≠ 0x078 ∧ o ≠ 0x07C ∧ o ≠ 0x080 ∧ o ≠ 0x08C ∧ o ≠ 0x084) →
      ((s.struck h.val).goesOn h.val num g).word (pgHSC h.val) o = (s.delayed h.val).word (pgHSC h.val) o := fun o ho hne =>
    ((s.struck h.val).goesOn_word h num g _ o ho (by unfold nextWord; omega)).trans (s.struck_hscWord h o ho)
  refine ⟨?_, (congrArg HSC_LATE_LINES_N.get (hw _ (by decide) (by decide))).trans hcount⟩
  unfold State.Raised at *
  rw [hw _ (by decide) (by decide)]
  exact hraised

theorem State.exec_lineHit (h : Fin 32) (hi : s.issues = true) (hr : (s.hscOf h.val).running = true)
    (hl : (s.hscOf h.val).hit.line < (s.hscOf h.val).send.line) (hf : s.hitFalls (s.hitCur h.val).cmp = true) :
    exec (.lineHit h) s = .next (s.fresh.hitNext h.val) := by
  have he : exec (.lineHit h) s = .next (s.fresh.onlyIf (s.issues && (s.hscOf h.val).running &&
      decide ((s.hscOf h.val).hit.line < (s.hscOf h.val).send.line) && s.hitFalls (s.hitCur h.val).cmp)
      (fun t => t.hitNext h.val)) := rfl
  rw [he, hi, hr, decide_eq_true hl, hf]
  rfl

/-- Settles O32: the line's hit writes its schedule's page, the firing block's, the lane's and those of the exceptions;
what it comes to rests on whether the lane delivered the line and on the train before. -/
theorem lineHits : Obligations.LineHits := by
  intro s h hs c p at' hit edge hh hi hr hl hfalls
  have he := s.exec_lineHit h hi hr hl hfalls
  obtain ⟨gs, hgs⟩ := s.fresh.hitNext_eq h
  rw [hgs, show s.fresh.hitCur h.val = s.hitCur h.val from rfl, show s.fresh.hitAt h.val = at' from rfl] at he
  have hp : s.printUp = true := (Bool.and_eq_true_iff.mp hi).1
  have hhsc := State.goesOn_hscOf (s.fresh.struck h.val) h (s.hitCur h.val).num.toNat
    (fun x => { x with hit := (s.hitCur h.val).next gs, lastHit := some at' })
  have hstands : ∀ j, (s.fresh.struck h.val).hscOf j = s.hscOf j := State.hscOf_of_hsc (s.fresh.struck_hsc h)
  refine ⟨_, he, State.goesOn_now _ h _ _, ?_, ?_, ?_, fun j hj => ?_, s.hitTime_period h.val _,
    State.goesOn_num _ h _ _, ?_, fun hd => s.fresh.goesOn_late h hh hp hd _ _, fun hfol hen hco hre => ?_⟩
  · exact congrArg (fun x : Hsc => x.hit.line) ((hhsc h.val).trans (if_pos rfl)) |>.trans
      (congrArg (· + 1) (Cursor.rebase_line _ _))
  · rw [hhsc, if_pos rfl]
    dsimp only
    rw [hstands]
  · exact congrArg Hsc.lastHit ((hhsc h.val).trans (if_pos rfl))
  · exact ((hhsc j).trans (if_neg hj)).trans (hstands j)
  · exact (s.fresh.struck_sameMem h).trans (State.goesOn_sameMem _ h _ _)
  · obtain ⟨hmissed, hstarts, hwaits⟩ := State.Fires.goesOn_comes (s := s.fresh) (h := h) ⟨hfol, hen, hco, hre⟩
      (s.hitCur h.val).num.toNat (fun x => { x with hit := (s.hitCur h.val).next gs, lastHit := some at' })
    exact ⟨hmissed, hstarts, hwaits⟩

end Sys2Proof.Machine
end

section
/-! PROOFS. Datagrams of a stream (R131, R139), where the statement fails. -/

namespace Sys2Proof.Machine

/-- A part whose PRINT domain has no power, while its port 0 is ACTIVE in a NET domain at level 2. -/
def printDown : State :=
  { (powered.wr (pgNET 0) UNIT_CTRL_ENABLE 1).setState (pgNET 0) 3 with
    pwr := { powered.pwr with doms := powered.pwr.doms.set Dom.print.num.val .down } }

/-- A UDP port on which stream 0 of that part listens. -/
def printDownPort : BitVec 16 := BitVec.ofNat 16 (printDown.rd (pgSTM 0) STM_UDP_PORT)

theorem printDown_listens : printDown.tilePort 0 = true ∧ printDown.armedFolly (pgNET 0) = none ∧
    printDown.armedFolly (pgSTM 0) = none ∧ printDown.streamOfPort printDownPort.toNat = some 0 ∧
    printDown.printRuns = false ∧ printDown.rd pgING ING_ENVELOPE_ERRS_N = 0 := by decide +kernel

/-- Ingest stands in PRINT, and a datagram that finds PRINT without power is not looked at. -/
theorem State.exec_tileFragment_printDown (s : State) (p : Fin 2) (udp : BitVec 16) (src bs : List Byte)
    (h : s.printRuns = false) : exec (.tileFragment p udp src bs) s = .next s.fresh := by
  have he : exec (.tileFragment p udp src bs) s = .next (s.fresh.datagramIn p udp.toNat src bs) := rfl
  have hr : s.fresh.printRuns = false := h
  rw [he]
  unfold State.datagramIn
  rw [hr, Bool.not_false, Bool.or_true, if_pos rfl]

/-- Refutes O34: a broken datagram on an ACTIVE port is counted nowhere while PRINT, in which the streams and
their counters stand, has no power. -/
theorem not_streams : ¬ Obligations.Streams := by
  rintro ⟨hdatagram, -⟩
  obtain ⟨hport, hnet, hstm, hi, hprint, hcount⟩ := printDown_listens
  obtain ⟨hbroken, -⟩ := hdatagram printDown 0 printDownPort [] [] 0 hport hnet hstm hi
  obtain ⟨t, ht, -, hcounted, -⟩ := hbroken rfl
  obtain rfl := Host.Outcome.next.inj ((printDown.exec_tileFragment_printDown 0 _ [] [] hprint).symm.trans ht)
  rw [hcount] at hcounted
  exact absurd (hcount.symm.trans hcounted) (by decide)

end Sys2Proof.Machine
end

section
/-! PROOFS. Passes of a loop area (R142), where the statement fails. -/

namespace Sys2Proof.Machine

/-- Stream 0 runs on a loop area at the start of DRAM, in which its first pass found one tile; channel 0 of the
DRAM is in service. -/
def looping : State :=
  (((powered.wr pgDRC DRC_SIZE_MIB 1).setState (pgDRAM 0) 2).setState (pgSTM 0) 2).updStm 0 (fun x =>
    { x with src := 2, loopBytes := 64, loopLines := 1, loop := [{ ofs := 0, len := 34, out := false }] })

theorem looping_ready : looping.stmRunning 0 = true ∧ (looping.stmOf 0).src = 2 ∧
    (looping.stmOf 0).loopLines ≠ 0 ∧ looping.ing.tiles = [] ∧
    (looping.printRuns && looping.stmRunning 0 && (looping.stmOf 0).src == 2 &&
      (looping.stmOf 0).loopLines != 0 &&
      !looping.ing.tiles.any (fun t => t.stream == 0 && t.place == .staged)) = true := by decide +kernel

/-- What a pass does to the state that it finds. -/
def State.nextPass (s : State) (i : Fin 4) : State :=
  (s.wr (pgSTM i.val) STM_LOOP_PASS_N (s.rd (pgSTM i.val) STM_LOOP_PASS_N + 1)).walkPass i
    (s.rd (pgSTM i.val) STM_LOOP_PASS_N + 1)

theorem looping_passes : exec (.loopPass 0) looping = .next (looping.fresh.nextPass 0) := by
  have he : exec (.loopPass 0) looping = .next (looping.fresh.onlyIf
      (looping.printRuns && looping.stmRunning 0 && (looping.stmOf 0).src == 2 &&
        (looping.stmOf 0).loopLines != 0 &&
        !looping.ing.tiles.any (fun t => t.stream == 0 && t.place == .staged))
      (fun t => t.nextPass 0)) := rfl
  rw [he, State.onlyIf_true _ _ _ looping_ready.2.2.2.2]

/-- The second pass reads the tile's header, 32 bytes, through channel 0. -/
theorem looping_reads : looping.rd (pgDRAM 0) DRC_BYTES_LO_N = 0 ∧
    (looping.fresh.nextPass 0).rd (pgDRAM 0) DRC_BYTES_LO_N = 32 := by decide +kernel

/-- Refutes O36: a later pass reads each tile's header from DRAM, and the channel that serves the read counts its
bytes, so that not only the stream's own page differs. -/
theorem not_streamRuns : ¬ Obligations.StreamRuns := by
  intro h
  obtain ⟨hrun, hsrc, hlines, htiles, -⟩ := looping_ready
  obtain ⟨hbefore, hafter⟩ := looping_reads
  obtain ⟨-, -, -, -, hpass, -⟩ := h looping 0
  obtain ⟨t, ht, ⟨-, hregs, -⟩, -⟩ := hpass hrun hsrc hlines (by rw [htiles]; simp)
  obtain rfl := Host.Outcome.next.inj (looping_passes.symm.trans ht)
  have hsame : (looping.fresh.nextPass 0).rd (pgDRAM 0) DRC_BYTES_LO_N = looping.rd (pgDRAM 0) DRC_BYTES_LO_N :=
    congrArg DRC_BYTES_LO_N.get (hregs (pgDRAM 0) DRC_BYTES_LO_N.off (by decide)
      (not_or.mpr ⟨by decide, not_evWords _ _ _ (by decide) (by decide)⟩))
  exact absurd (hafter.symm.trans (hsame.trans hbefore)) (by decide)

end Sys2Proof.Machine
end

section
/-! PROOFS. A kiosk's data (R287), where the statement fails. -/

namespace Sys2Proof.Machine

/-- A tile of 34 bytes at the start of DRAM, which kiosk 0 holds. -/
def tileAtKiosk : Tile :=
  { id := 0, stream := 0, addr := 0, ringBase := 0, ringSize := 0, len := 34, head := 0, first := 0, lines := 1,
    width := 1, cost := 0, loopOfs := none, place := .kiosk 0, dec := tileStart, counted := 0, overran := false,
    rewrite := false }

/-- A write of one byte that waits at RT-ribbon's port. -/
def waitingWrite : DramReq := { port := 0, addr := 64, len := 1, write := some [1], poison := false, errs := [] }

/-- Kiosk 0 waits for the data of its tile, behind a write at the port that it reads through; channel 0 of the DRAM
is in service. -/
def queuedWrite : State :=
  let s := (powered.wr pgDRC DRC_SIZE_MIB 1).setState (pgDRAM 0) 2
  let t := (s.updIng (fun x => { x with tiles := [tileAtKiosk] })).setHolding 0 (.tile 0)
  { t with ing := { t.ing with waits := [0] }, drc := { t.drc with queue := [waitingWrite] } }

theorem queuedWrite_waits : 0 < queuedWrite.part.kiosks ∧ queuedWrite.printRuns = true ∧
    queuedWrite.holding 0 = .tile 0 ∧ queuedWrite.tile? 0 = some tileAtKiosk ∧
    queuedWrite.armedFolly (pgKSK 0) = none ∧ queuedWrite.ing.waits.contains 0 = true := by decide +kernel

theorem queuedWrite_served : queuedWrite.byte 64 = 0 ∧ (queuedWrite.fresh.fetched 0 tileAtKiosk).byte 64 = 1 := by
  decide +kernel

/-- Refutes O37: the kiosk's read arrives behind what waits at its port, so that a write that came before it is
served with it, and a byte of memory outside the kiosk's buffer changes (R287, log 104). -/
theorem not_kioskDecoding : ¬ Obligations.KioskDecoding := by
  intro h
  obtain ⟨hk, hprint, hhold, htile, hfolly, hwaits⟩ := queuedWrite_waits
  obtain ⟨hbefore, hafter⟩ := queuedWrite_served
  obtain ⟨-, hblock⟩ := h queuedWrite 0 hk hprint
  obtain ⟨-, -, hdata, -⟩ := hblock [] 0 tileAtKiosk hhold htile rfl (by decide) hfolly
  obtain ⟨hsame, -⟩ := hdata hwaits rfl
  have hbyte := hsame 64 (.inl (by decide))
  exact absurd (hafter.symm.trans (hbyte.trans hbefore)) (by decide)

end Sys2Proof.Machine
end

section
/-! SUPPORT. Events of Ingest's root page, and the kiosks that a page of the tree stands for. -/

namespace Sys2Proof.Machine

variable (s : State)

theorem unitOf_ing (part : Part) : unitOf part pgING = some (.ing, 0) := by cases part <;> rfl

theorem evNum_ing (part : Part) (b : Nat) (hb : b < 4) : evNum part pgING b = some (584 + b) := by
  unfold evNum; rw [unitOf_ing]; exact if_pos hb

theorem unitOf_ing_not_stm (part : Part) (i : Nat) : unitOf part pgING ≠ some (.stm, i) := by
  rw [unitOf_ing]; intro h; cases h

theorem State.not_isolated_of_runs (d : Dom) (h : s.runs d = true) : s.isolated d = false := by
  unfold State.runs State.levelOf State.level at h
  unfold State.isolated
  rcases Bool.or_eq_true_iff.mp h with h | h
  · split at h
    case isTrue hup => rw [hup]; rfl
    case isFalse => cases h
  · rw [beq_iff_eq.mp h]; rfl

theorem State.clamped_ing (h : s.isolated .print = false) : s.clamped pgING = false :=
  s.not_clamped_of_print _ h .ing
    (by unfold State.kind kindOf; rw [unitOf_ing]; rfl) rfl

/-- Outside the stream pages, an event changes registers, the Guestbook, what PCIe is due and the follies only. -/
theorem State.raise_rest (page b : Nat) (hp : ∀ i, unitOf s.part page ≠ some (.stm, i)) :
    { s.raise page b with regs := s.regs, gbk := s.gbk, pcie := s.pcie, follies := s.follies } = s := by
  have hf : (s.raise page b).fir = s.fir := s.raise_fir page b
  have he : (s.raise page b).emitted = s.emitted := s.raiseD_emitted page b _ hp
  have hr := (s.raise_raises (but := evWords page) page b (.inl ⟨rfl, rfl⟩) (fun _ _ e => .inr (e.elim
    (fun e => ⟨e.1, .inl e.2⟩) id))).rest
  rw [← hf, ← he] at hr
  exact hr

theorem State.raise_ing_rest (b : Nat) :
    { s.raise pgING b with regs := s.regs, gbk := s.gbk, pcie := s.pcie, follies := s.follies } = s :=
  s.raise_rest pgING b (unitOf_ing_not_stm s.part)

theorem State.raise_ing_raised (b : Nat) (hb : b < 4) (h : s.isolated .print = false) :
    (s.raise pgING b).Raised pgING b :=
  s.raise_raised _ b _ (evNum_ing s.part b hb) (by omega) (s.clamped_ing h)

theorem State.raise_ing_raises (b : Nat) : s.Raises (s.raise pgING b) (evWords pgING) :=
  s.raise_raises _ b (.inl ⟨rfl, rfl⟩) (fun _ _ e => .inr (e.elim (fun e => ⟨e.1, .inl e.2⟩) id))

end Sys2Proof.Machine
end

section
/-! PROOFS. The admission check and the lookahead of Ingest (R152, R160). -/

namespace Sys2Proof.Machine

variable (s : State)

/-! ### The admission check (R152) -/

/-- The cycles still to be worked before the window's end, at the present speed. -/
def State.admitDemand (s : State) : Int :=
  max ((s.ing.tiles.filter (fun u => decide (0 ≤ posDiff (s.deadlineOf u) s.pos) &&
    decide (posDiff (s.deadlineOf u) s.pos ≤ s.rd pgING ING_ADMIT_WINDOW_PU))).map
      (fun u => (u.cost : Int) - u.counted)).sum 0 * s.rdS pgSPD SPD_SPEED_V

/-- The cycles that live capacity gives over the window. -/
def State.admitCapacity (s : State) : Int :=
  s.rd pgING ING_LIVE_CAP_CYCLES * s.rd pgING ING_ADMIT_WINDOW_PU * 65536

/-- The demand as it is shown, in thousandths of the capacity. -/
def State.admitShown (s : State) : Int :=
  if s.admitCapacity = 0 then (if s.admitDemand = 0 then 0 else 65535)
  else min (s.admitDemand * 1000 / s.admitCapacity) 65535

/-- The demand has been shown; the warning and its re-arming follow. -/
def State.admitStep (s : State) : State :=
  let t := s.wr pgING ING_DEMAND_PERMILLE s.admitShown.toNat
  let pct := s.rd pgING ING_ADMIT_CFG_PCT
  if pct ≠ 0 ∧ decide (s.admitCapacity * pct < s.admitDemand * 100) ∧ s.ing.admitArmed then
    (t.updIng (fun x => { x with admitArmed := false })).raise pgING 1
  else if decide (s.admitDemand * 100 < s.admitCapacity * (pct - 5 : Int)) then
    t.updIng (fun x => { x with admitArmed := true })
  else t

theorem State.exec_admissionCheck (hp : s.printRuns = true) (hv : 0 < s.rdS pgSPD SPD_SPEED_V) :
    exec .admissionCheck s = .next s.fresh.admitStep := by
  change execAdmissionCheck s = _
  unfold execAdmissionCheck run
  dsimp only
  rw [State.onlyIf_true]
  · rfl
  · exact Bool.and_eq_true_iff.mpr ⟨hp, decide_eq_true hv⟩

/-- The demand shown and Ingest's note of the warning are no part of the event's words. -/
theorem State.admitStep_cases :
    (∃ b, s.admitStep = (s.wr pgING ING_DEMAND_PERMILLE s.admitShown.toNat).updIng
      (fun x => { x with admitArmed := b })) ∨
    s.admitStep = ((s.wr pgING ING_DEMAND_PERMILLE s.admitShown.toNat).updIng
      (fun x => { x with admitArmed := false })).raise pgING 1 := by
  unfold State.admitStep
  dsimp only
  split
  · exact .inr rfl
  · split
    · exact .inl ⟨true, rfl⟩
    · exact .inl ⟨s.ing.admitArmed, rfl⟩

theorem State.admitStep_warns (h0 : s.rd pgING ING_ADMIT_CFG_PCT ≠ 0)
    (h : s.admitCapacity * s.rd pgING ING_ADMIT_CFG_PCT < s.admitDemand * 100) (ha : s.ing.admitArmed = true) :
    s.admitStep = ((s.wr pgING ING_DEMAND_PERMILLE s.admitShown.toNat).updIng
      (fun x => { x with admitArmed := false })).raise pgING 1 := by
  unfold State.admitStep
  exact if_pos ⟨h0, decide_eq_true h, ha⟩

theorem State.admitStep_shows : s.admitStep.rd pgING ING_DEMAND_PERMILLE = s.admitShown.toNat % 2 ^ 16 := by
  have hw : ∀ b, ((s.wr pgING ING_DEMAND_PERMILLE s.admitShown.toNat).updIng
      (fun x => { x with admitArmed := b })).rd pgING ING_DEMAND_PERMILLE = s.admitShown.toNat % 2 ^ 16 :=
    fun b => s.rd_wr _ _ (by decide) _
  rcases s.admitStep_cases with ⟨b, h⟩ | h
  · rw [h]; exact hw b
  · rw [h, State.raise_rd _ _ _ _ _ (by decide) (not_evWords _ _ _ (by decide) (by decide))]; exact hw false

theorem State.admitStep_tiles : s.admitStep.ing.tiles = s.ing.tiles := by
  rcases s.admitStep_cases with ⟨b, h⟩ | h
  · rw [h]; rfl
  · rw [h, State.raise_ing]; rfl

/-- What the admission check writes. -/
def admitWord (p o : Nat) : Prop := (p = pgING ∧ o = ING_DEMAND_PERMILLE.off) ∨ evWords pgING p o

theorem State.admitStep_keeps : s.Keeps s.admitStep admitWord := by
  have hw : ∀ b, s.Keeps ((s.wr pgING ING_DEMAND_PERMILLE s.admitShown.toNat).updIng
      (fun x => { x with admitArmed := b })) admitWord := fun b =>
    (s.wr_keeps _ _ _ (by decide) (.inl ⟨rfl, rfl⟩)).trans
      (.of_regs _ ⟨rfl, rfl, rfl, rfl, rfl, rfl, rfl, rfl, rfl⟩ rfl)
  rcases s.admitStep_cases with ⟨b, h⟩ | h
  · rw [h]; exact hw b
  · rw [h]; exact (hw false).trans ((State.raise_ing_raises _ 1).keeps.mono fun _ _ => .inr)

theorem State.admitStep_rest :
    { s.admitStep with regs := s.regs, ing := s.ing, gbk := s.gbk, pcie := s.pcie, follies := s.follies } = s := by
  rcases s.admitStep_cases with ⟨b, h⟩ | h
  · rw [h]; rfl
  · rw [h]
    exact congrArg (fun t : State => { t with
      regs := s.regs, ing := s.ing, gbk := s.gbk, pcie := s.pcie, follies := s.follies })
      (State.raise_ing_rest _ 1)

theorem State.admitShown_of_capacity (h : 0 < s.admitCapacity) :
    s.admitShown.toNat % 2 ^ 16 = (min (s.admitDemand * 1000 / s.admitCapacity) 65535).toNat := by
  unfold State.admitShown
  rw [if_neg h.ne']
  exact Nat.mod_eq_of_lt (by omega)

theorem State.fresh_admitCapacity : s.fresh.admitCapacity = s.admitCapacity := rfl

theorem State.fresh_admitDemand : s.fresh.admitDemand = s.admitDemand := by
  have h : s.fresh.deadlineOf = s.deadlineOf := rfl
  unfold State.admitDemand
  rw [h]
  rfl

/-- The demand that the check shows where the window has some capacity. -/
theorem State.admitStep_fresh_shows (h : 0 < s.admitCapacity) : s.fresh.admitStep.rd pgING ING_DEMAND_PERMILLE =
    (min (s.admitDemand * 1000 / s.admitCapacity) 65535).toNat := by
  rw [State.admitStep_shows, State.admitShown_of_capacity _ (by rw [State.fresh_admitCapacity]; exact h),
    State.fresh_admitCapacity, State.fresh_admitDemand]

/-- Demand above the limit raises the warning, which is then no longer armed. -/
theorem State.admitStep_fresh_warns (hp : s.printRuns = true) (h0 : s.rd pgING ING_ADMIT_CFG_PCT ≠ 0)
    (h : s.admitCapacity * s.rd pgING ING_ADMIT_CFG_PCT < s.admitDemand * 100) (ha : s.ing.admitArmed = true) :
    s.fresh.admitStep.Raised pgING 1 ∧ s.fresh.admitStep.ing.admitArmed = false := by
  have hr : s.fresh.rd pgING ING_ADMIT_CFG_PCT = s.rd pgING ING_ADMIT_CFG_PCT := rfl
  rw [State.admitStep_warns s.fresh h0 (by rw [State.fresh_admitCapacity, State.fresh_admitDemand, hr]; exact h) ha]
  exact ⟨State.raise_ing_raised _ 1 (by decide) (s.not_isolated_of_runs .print hp), by rw [State.raise_ing]; rfl⟩

/-! ### The lookahead (R160) -/

/-- The warning of a low lookahead, and its re-arming. -/
def State.lookStep (s : State) (low : Int) : State :=
  let th : Int := s.rd pgING ING_LOOKAHEAD_LOW_PU
  if th ≠ 0 ∧ low < th ∧ s.ing.lookArmed then
    (s.updIng (fun x => { x with lookArmed := false })).raise pgING 3
  else if 2 * th < low then s.updIng (fun x => { x with lookArmed := true }) else s

theorem State.exec_lookaheadCheck (d : Int) (ds : List Int) (hp : s.printRuns = true)
    (hl : s.lookaheads = d :: ds) : exec .lookaheadCheck s = .next (s.fresh.lookStep (ds.foldl min d)) := by
  have he : exec .lookaheadCheck s = .next (match (if s.printRuns then s.lookaheads else []) with
      | [] => s.fresh
      | d :: ds => s.fresh.lookStep (ds.foldl min d)) := rfl
  rw [he, if_pos hp, hl]

theorem State.lookStep_cases (low : Int) :
    (∃ b, s.lookStep low = s.updIng (fun x => { x with lookArmed := b })) ∨
    s.lookStep low = (s.updIng (fun x => { x with lookArmed := false })).raise pgING 3 := by
  unfold State.lookStep
  dsimp only
  split
  · exact .inr rfl
  · split
    · exact .inl ⟨true, rfl⟩
    · exact .inl ⟨s.ing.lookArmed, rfl⟩

theorem State.lookStep_keeps (low : Int) : s.Keeps (s.lookStep low) (evWords pgING) := by
  have hw : ∀ b, s.Keeps (s.updIng (fun x => { x with lookArmed := b })) (evWords pgING) := fun b =>
    .of_regs _ ⟨rfl, rfl, rfl, rfl, rfl, rfl, rfl, rfl, rfl⟩ rfl
  rcases s.lookStep_cases low with ⟨b, h⟩ | h
  · rw [h]; exact hw b
  · rw [h]; exact (hw false).trans (State.raise_ing_raises _ 3).keeps

theorem State.lookStep_rest (low : Int) :
    { s.lookStep low with regs := s.regs, ing := s.ing, gbk := s.gbk, pcie := s.pcie, follies := s.follies } =
      s := by
  rcases s.lookStep_cases low with ⟨b, h⟩ | h
  · rw [h]; rfl
  · rw [h]
    exact congrArg (fun t : State => { t with
      regs := s.regs, ing := s.ing, gbk := s.gbk, pcie := s.pcie, follies := s.follies })
      (State.raise_ing_rest _ 3)

theorem State.lookStep_warns (low : Int) (h0 : s.rd pgING ING_LOOKAHEAD_LOW_PU ≠ 0)
    (h : low < s.rd pgING ING_LOOKAHEAD_LOW_PU) (ha : s.ing.lookArmed = true) :
    s.lookStep low = (s.updIng (fun x => { x with lookArmed := false })).raise pgING 3 := by
  unfold State.lookStep
  exact if_pos ⟨Int.natCast_ne_zero.mpr h0, h, ha⟩

/-- A lookahead below its threshold raises the warning, which is then no longer armed. -/
theorem State.lookStep_fresh_warns (low : Int) (hp : s.printRuns = true)
    (h0 : s.rd pgING ING_LOOKAHEAD_LOW_PU ≠ 0) (h : low < s.rd pgING ING_LOOKAHEAD_LOW_PU)
    (ha : s.ing.lookArmed = true) :
    (s.fresh.lookStep low).Raised pgING 3 ∧ (s.fresh.lookStep low).ing.lookArmed = false := by
  rw [State.lookStep_warns s.fresh low h0 h ha]
  exact ⟨State.raise_ing_raised _ 3 (by decide) (s.not_isolated_of_runs .print hp), by rw [State.raise_ing]; rfl⟩

end Sys2Proof.Machine
end

section
/-! PROOFS. APPLY_RIBBONS (R143) and the reads of the starvation log (R55, R156, R431). -/

namespace Sys2Proof.Machine

variable (s : State)

/-! ### APPLY_RIBBONS -/

/-- A head's entry comes into force, emptied, where it has changed. -/
def State.applyEntry (u : State) (h : Nat) : State :=
  if u.ribChanged h then
    let e := u.ribEntry h
    u.updRib h (fun x => { x.clear with base := e.1, lines := e.2.1, width := e.2.2.1, layers := e.2.2.2 })
  else u

/-- Of the state, only the ribbons differ. -/
theorem State.applyEntry_shape (h : Nat) : ∃ x, s.applyEntry h = { s with ing := { s.ing with ribs := x } } := by
  unfold State.applyEntry State.updRib
  split
  · split
    · exact ⟨_, rfl⟩
    · exact ⟨s.ing.ribs, rfl⟩
  · exact ⟨s.ing.ribs, rfl⟩

theorem State.ribOf_updRib (h : Nat) (hh : h < 32) (g : Ribbon → Ribbon) (k : Nat) :
    (s.updRib h g).ribOf k = if k = h then g (s.ribOf h) else s.ribOf k := by
  have hx : s.ribOf h = s.ing.ribs.get ⟨h, hh⟩ := by
    unfold State.ribOf
    rw [List.getElem?_eq_getElem (by simpa using hh)]
    rfl
  rw [hx]
  unfold State.updRib State.ribOf State.updIng
  rw [dif_pos hh]
  dsimp only
  rw [Vector.toList_set, List.getElem?_set]
  by_cases hk : k = h
  · subst hk
    rw [if_pos rfl, if_pos rfl, if_pos (by simpa using hh)]
    rfl
  · rw [if_neg (Ne.symm hk), if_neg hk]

theorem State.ribEntry_applyEntry (h k : Nat) : (s.applyEntry h).ribEntry k = s.ribEntry k := by
  obtain ⟨x, hx⟩ := s.applyEntry_shape h; rw [hx]; rfl

/-- A head's ribbon after an entry has come into force: its own entry's, or as it was. -/
theorem State.ribOf_applyEntry (h : Nat) (hh : h < 32) (k : Nat) :
    (s.applyEntry h).ribOf k = if k = h ∧ s.ribChanged h = true then
      { (s.ribOf h).clear with base := (s.ribEntry h).1, lines := (s.ribEntry h).2.1,
                               width := (s.ribEntry h).2.2.1, layers := (s.ribEntry h).2.2.2 }
    else s.ribOf k := by
  unfold State.applyEntry
  by_cases hc : s.ribChanged h = true
  · rw [if_pos hc, State.ribOf_updRib _ _ hh]
    simp [hc]
  · rw [if_neg hc, if_neg (fun e => hc e.2)]

/-- Entries of some heads come into force: each of theirs agrees with its registers, emptied where it changed, and
no other ribbon differs. -/
theorem State.ribOf_applyEntries (hs : List Nat) (hb : ∀ h ∈ hs, h < 32) (s : State) (k : Nat) :
    (hs.foldl State.applyEntry s).ribOf k = if k ∈ hs ∧ s.ribChanged k = true then
      { (s.ribOf k).clear with base := (s.ribEntry k).1, lines := (s.ribEntry k).2.1,
                               width := (s.ribEntry k).2.2.1, layers := (s.ribEntry k).2.2.2 }
    else s.ribOf k := by
  induction hs generalizing s with
  | nil => simp
  | cons h hs ih =>
    rw [List.foldl_cons, ih (fun k hk => hb k (by simp [hk])), s.ribEntry_applyEntry]
    have hr := s.ribOf_applyEntry h (hb h (by simp)) k
    unfold State.ribChanged at *
    rw [s.ribEntry_applyEntry]
    by_cases hk : k = h
    · subst hk
      by_cases hc : (s.ribEntry k != ((s.ribOf k).base, (s.ribOf k).lines, (s.ribOf k).width, (s.ribOf k).layers)) =
          true
      · rw [hr]; simp [hc]
      · rw [hr]; simp [hc]
    · rw [hr]; simp [hk]

theorem State.applyEntries_shape (hs : List Nat) (s : State) :
    ∃ x, hs.foldl State.applyEntry s = { s with ing := { s.ing with ribs := x } } := by
  induction hs generalizing s with
  | nil => exact ⟨s.ing.ribs, rfl⟩
  | cons h hs ih =>
    obtain ⟨x, hx⟩ := s.applyEntry_shape h
    obtain ⟨y, hy⟩ := ih (s.applyEntry h)
    exact ⟨y, by rw [List.foldl_cons, hy, hx]⟩

/-- The entries of all heads. -/
def State.applyTable (s : State) : State := (List.range s.part.heads).foldl State.applyEntry s

theorem heads_le (part : Part) : part.heads ≤ 32 := by cases part <;> decide

theorem State.ribOf_applyTable (k : Nat) : s.applyTable.ribOf k =
    if k < s.part.heads ∧ s.ribChanged k = true then
      { (s.ribOf k).clear with base := (s.ribEntry k).1, lines := (s.ribEntry k).2.1,
                               width := (s.ribEntry k).2.2.1, layers := (s.ribEntry k).2.2.2 }
    else s.ribOf k := by
  unfold State.applyTable
  rw [State.ribOf_applyEntries _ fun h hh => (List.mem_range.mp hh).trans_le (heads_le s.part)]
  simp only [List.mem_range]

theorem State.ribChanged_applyTable (k : Nat) (hk : k < s.part.heads) : s.applyTable.ribChanged k = false := by
  obtain ⟨x, hx⟩ := State.applyEntries_shape (List.range s.part.heads) s
  have he : s.applyTable.ribEntry k = s.ribEntry k := by
    unfold State.applyTable; rw [hx]; rfl
  unfold State.ribChanged
  rw [he, s.ribOf_applyTable k]
  by_cases hc : s.ribChanged k = true
  · rw [if_pos ⟨hk, hc⟩]; simp
  · rw [if_neg (fun e => hc e.2)]
    exact Bool.not_eq_true _ ▸ hc

theorem State.exec_applyRibbons_accepts (r : Req) (h : s.Takes r pgING) (hbad : s.ribbonsBad = false)
    (hrun : ∀ h, h < s.part.heads → s.ribChanged h = true → (s.hscOf h).running = false) :
    exec (.applyRibbons r 0) s = .next (s.taken r pgING 1).applyTable := by
  have he : exec (.applyRibbons r 0) s = .next (command r pgING 0x0001 0 true false (fun t =>
      [(t.ribbonsBad, rcBAD_ARG),
       ((List.range t.part.heads).any (fun h => t.ribChanged h && (t.hscOf h).running), rcWRONG_STATE)])
      State.applyTable s.fresh) := rfl
  have hany : (List.range s.part.heads).any (fun h => s.ribChanged h && (s.hscOf h).running) = false := by
    rw [List.any_eq_false]
    intro k hk
    cases hc : s.ribChanged k
    · simp
    · simp [hrun k (List.mem_range.mp hk) hc]
  obtain ⟨x, hx⟩ := s.reached_eq r pgING
  have h1 : (s.reached r pgING).ribbonsBad = false := by rw [hx]; exact hbad
  have h2 : (List.range (s.reached r pgING).part.heads).any
      (fun h => (s.reached r pgING).ribChanged h && ((s.reached r pgING).hscOf h).running) = false := by
    rw [hx]; exact hany
  rw [he, command_accepts _ _ _ _ _ _ _ _ _ h.reach h.idle (.inr h.live) (fun _ => rfl)]
  intro c hc
  rcases List.mem_cons.mp hc with rfl | hc
  · exact h1
  · rcases List.mem_singleton.mp hc with rfl
    exact h2

/-! ### The starvation log -/

/-- The oldest entry leaves the log. -/
def State.starveDrop (s : State) : State := s.updIng (fun x => { x with starved := x.starved.tail })

theorem State.starveDrop_empty (h : s.ing.starved = []) : s.starveDrop = s := by
  change { s with ing := { s.ing with starved := s.ing.starved.tail } } = s
  rw [h, List.tail_nil, ← h]

theorem State.starveDrop_snapSlot (r : Req) (p : Nat) : s.starveDrop.snapSlot r p = s.snapSlot r p := by
  cases r <;> rfl

theorem State.readLo_starveDrop (r : Req) (w : Word) (x : List (Nat × Word)) :
    s.starveDrop.readLo r pgING w x = (s.readLo r pgING w x).starveDrop := by cases r <;> rfl

theorem State.starveTake_eq (r : Req) : s.starveTake r =
    (s.readLo r pgING (((s.ing.starved.head?).map Starved.lo).getD 0)
      [(0x05C, ((s.ing.starved.head?).map Starved.hi).getD 0)]).starveDrop := by
  rw [← State.readLo_starveDrop]
  unfold State.starveTake
  cases h : s.ing.starved with
  | nil => rw [s.starveDrop_empty h]; rfl
  | cons e rest => simp [State.starveDrop, State.updIng, h]

theorem State.exec_starveLogReadLo (r : Req) (h : s.open r pgING = true) :
    exec (.starveLogReadLo r) s = .next ((s.reached r pgING).readLo r pgING
      (((s.ing.starved.head?).map Starved.lo).getD 0)
      [(0x05C, ((s.ing.starved.head?).map Starved.hi).getD 0)]).starveDrop := by
  have he : exec (.starveLogReadLo r) s = .next (s.fresh.readAccess r pgING (fun t => t.starveTake r)) := rfl
  have ho : s.fresh.open r pgING = true := by rw [State.fresh_open]; exact h
  have hr : (s.fresh.active r).touch pgING = s.reached r pgING := rfl
  obtain ⟨x, hx⟩ := s.reached_eq r pgING
  have hi : (s.reached r pgING).ing = s.ing := by rw [hx]
  rw [he, State.readAccess, if_pos ho, hr, State.starveTake_eq, hi]

theorem State.exec_starveLogReadHi (r : Req) (h : s.open r pgING = true) :
    ∃ w, exec (.starveLogReadHi r) s = .next ((s.reached r pgING).readHi r pgING 0x05C w) := by
  have he : exec (.starveLogReadHi r) s = .next (s.fresh.readAccess r pgING (fun t =>
      t.readHi r pgING 0x05C (match t.ing.starved with
        | [] => 0
        | e :: _ => e.hi))) := rfl
  have ho : s.fresh.open r pgING = true := by rw [State.fresh_open]; exact h
  rw [he, State.readAccess, if_pos ho]
  exact ⟨_, rfl⟩

/-- An answer to a reader changes no register, no kiosk's ingest and no memory. -/
theorem State.answered_sameRegs {t : State} (r : Req) (page : Nat) (but : Nat → Nat → Prop)
    (h : { t with emitted := [], host := s.host, gkpSide := s.gkpSide } = s.reached r page) :
    s.SameRegs t but := by
  obtain ⟨x, hx⟩ := s.reached_eq r page
  rw [hx] at h
  exact .of_eq but (congrArg State.part h :) (congrArg State.regs h :) (congrArg State.act h :)

theorem State.answered_ing {t : State} (r : Req) (page : Nat)
    (h : { t with emitted := [], host := s.host, gkpSide := s.gkpSide } = s.reached r page) : t.ing = s.ing := by
  obtain ⟨x, hx⟩ := s.reached_eq r page
  rw [hx] at h
  exact (congrArg State.ing h :)

end Sys2Proof.Machine
end

section
/-! SUPPORT. Kiosks leave the pool and rejoin it (R63, R148, R150): what stands, and where each of them
then stands. -/

namespace Sys2Proof.Machine

variable {s t u : State} {but but' : Nat → Nat → Prop}

/-- Kiosks have moved: registers that `but` names, the PLLs, Ingest, events and what goes out apart, nothing differs,
and an event that stood stands. -/
structure State.Pools (s t : State) (but : Nat → Nat → Prop) : Prop where
  rest : { t with regs := s.regs, plls := s.plls, ing := s.ing, gbk := s.gbk, pcie := s.pcie, follies := s.follies,
                  fir := s.fir, emitted := s.emitted } = s
  word : ∀ p o, o < 4096 → ¬ but p o → t.word p o = s.word p o
  raised : ∀ p b, s.Raised p b → t.Raised p b

theorem State.Pools.refl (s : State) (but : Nat → Nat → Prop) : s.Pools s but :=
  ⟨rfl, fun _ _ _ _ => rfl, fun _ _ h => h⟩

theorem State.Pools.trans (h : s.Pools t but) (h' : t.Pools u but) : s.Pools u but where
  rest := by
    rw [← h.rest]
    conv_rhs => rw [← h'.rest]
  word p o ho hn := (h'.word p o ho hn).trans (h.word p o ho hn)
  raised p b hr := h'.raised p b (h.raised p b hr)

theorem State.Pools.mono (h : s.Pools t but) (hb : ∀ p o, but p o → but' p o) : s.Pools t but' :=
  ⟨h.rest, fun p o ho hn => h.word p o ho (hn ∘ hb p o), h.raised⟩

theorem State.Pools.foldl {α : Type} (f : State → α → State) (l : List α)
    (h : ∀ t : State, ∀ x ∈ l, t.Pools (f t x) but) : ∀ s : State, s.Pools (l.foldl f s) but := by
  induction l with
  | nil => exact fun s => .refl s but
  | cons x l ih =>
    exact fun s => (h s x (by simp)).trans (ih (fun t y hy => h t y (by simp [hy])) (f s x))

theorem State.Raises.pools (h : s.Raises t but) : s.Pools t but where
  rest := (congrArg (fun x : State => { x with plls := s.plls, ing := s.ing }) h.rest :)
  word := h.word
  raised := h.raised

theorem State.Pools.part (h : s.Pools t but) : t.part = s.part := (congrArg State.part h.rest :)
theorem State.Pools.now (h : s.Pools t but) : t.now = s.now := (congrArg State.now h.rest :)
theorem State.Pools.aon (h : s.Pools t but) : t.aon = s.aon := (congrArg State.aon h.rest :)
theorem State.Pools.pwr (h : s.Pools t but) : t.pwr = s.pwr := (congrArg State.pwr h.rest :)
theorem State.Pools.bist (h : s.Pools t but) : t.bist = s.bist := (congrArg State.bist h.rest :)
theorem State.Pools.act (h : s.Pools t but) : t.act = s.act := (congrArg State.act h.rest :)

theorem State.Pools.sameMem (h : s.Pools t but) : s.SameMem t :=
  .of_eq (congrArg State.mem h.rest :) (congrArg State.flash h.rest :) (congrArg State.poison h.rest :)

theorem State.Pools.rd (h : s.Pools t but) (p : Nat) (f : Fld) (ho : f.off < 4096)
    (hn : ¬ but p f.off) : t.rd p f = s.rd p f := by
  unfold State.rd; rw [h.word p f.off ho hn]

theorem State.Pools.bit (h : s.Pools t but) (p : Nat) (f : Fld) (ho : f.off < 4096)
    (hn : ¬ but p f.off) : t.bit p f = s.bit p f := by
  unfold State.bit; rw [h.rd p f ho hn]

variable (s)

theorem State.updIng_pools (g : Ingest → Ingest) : s.Pools (s.updIng g) but :=
  ⟨rfl, fun _ _ _ _ => rfl, fun _ _ h => h⟩

theorem State.setHolding_pools (k : Nat) (x : Holding) : s.Pools (s.setHolding k x) but := by
  unfold State.setHolding
  split
  · exact s.updIng_pools _
  · exact .refl s _

theorem State.setPll_pools (n : Nat) (x : Pll) : s.Pools (s.setPll n x) but := by
  unfold State.setPll
  split
  · exact ⟨rfl, fun _ _ _ _ => rfl, fun _ _ h => h⟩
  · exact .refl s _

theorem State.wr_pools (p v : Nat) (f : Fld) (hf : f.Sound) (h14 : f.off ≠ 0x014) (h : but p f.off) :
    s.Pools (s.wr p f v) but := (s.wr_raises p v f hf h14 h).pools

/-! ### Live capacity is told (R136, R150) -/

/-- The words that telling of live capacity may change. -/
def tellWord (p o : Nat) : Prop := (p = pgING ∧ o = 0x040) ∨ evWords pgING p o ∨ sentWord p o

theorem State.activePort_lt (p : Nat) (h : s.activePort = some p) : p < 2 := by
  unfold State.activePort at h
  split at h
  · cases h
  · cases h; exact s.rd_active_lt

theorem State.sendAck_raises (i : Fin 4) : s.Raises (s.sendAck i) sentWord := by
  unfold State.sendAck State.sendDatagram
  dsimp only
  split
  · split
    · next p hp =>
      have hpg : pgNET p = pgNET 0 ∨ pgNET p = pgNET 1 := by
        have := s.activePort_lt p hp
        interval_cases p <;> simp
      rw [State.ownSent, State.add2_eq, State.wr2_eq]
      exact ((s.wr_raises _ _ NET_TX_FRAMES_LO_N (by decide) (by decide) ⟨hpg, .inl rfl⟩).trans
        (State.wr_raises _ _ _ NET_TX_FRAMES_HI_N (by decide) (by decide) ⟨hpg, .inr rfl⟩)).trans
        (State.emit_raises _ _)
    · exact .refl s _
  · exact .refl s _

theorem State.publish_raises : s.Raises s.publish tellWord := by
  unfold State.publish
  dsimp only
  split
  · exact .refl s _
  · exact ((s.wr_raises _ _ ING_LIVE_CAP_CYCLES (by decide) (by decide) (.inl ⟨rfl, rfl⟩)).trans
      ((State.raise_ing_raises _ 0).mono fun _ _ h => .inr (.inl h))).trans
      (.foldl _ _ (fun t i _ => (t.sendAck_raises i).mono fun _ _ h => .inr (.inr h)) _)

theorem tellWord_not_ksk (k o : Nat) (hk : k < 96) : ¬ tellWord (pgKSK k) o := by
  unfold tellWord evWords sentWord pgKSK pgING pgGBK pgNET
  omega

theorem State.capacityOf_congr (h : t.part = s.part) (hp : t.plls = s.plls)
    (hw : ∀ k, k < 96 → t.word (pgKSK k) 0x010 = s.word (pgKSK k) 0x010) :
    t.capacityOf (List.range 96) = s.capacityOf (List.range 96) := by
  have hin : ∀ k ∈ List.range 96, (decide (k < t.part.kiosks) && t.inPool k) =
      (decide (k < s.part.kiosks) && s.inPool k) := fun k hk => by
    unfold State.inPool State.kioskState State.rd
    rw [h, show UNIT_STATUS_STATE.off = 0x010 from rfl, hw k (List.mem_range.mp hk)]
  have hm : t.kioskMhz = s.kioskMhz := funext fun k => by
    unfold State.kioskMhz State.pll
    rw [hp]
  unfold State.capacityOf
  rw [List.filter_congr hin, hm]

/-- Live capacity, once told, is what the pool gives (R150). -/
theorem State.publish_capacity : s.publish.rd pgING ING_LIVE_CAP_CYCLES =
    s.publish.capacityOf (List.range 96) % 2 ^ ING_LIVE_CAP_CYCLES.width := by
  have hr := s.publish_raises
  have hc : s.publish.capacityOf (List.range 96) = s.capacityOf (List.range 96) :=
    State.capacityOf_congr s hr.core.part hr.core.plls
      fun k hk => hr.word _ _ (by decide) (tellWord_not_ksk k _ hk)
  rw [hc]
  unfold State.publish
  dsimp only
  split
  case isTrue hc =>
    rw [hc]
    exact (Nat.mod_eq_of_lt (Nat.mod_lt _ (by decide))).symm
  case isFalse =>
    have hacks : ∀ u : State, u.Raises (([0, 1, 2, 3] : List (Fin 4)).foldl (fun t i => t.sendAck i) u) sentWord :=
      .foldl _ _ (fun t i _ => t.sendAck_raises i)
    rw [(hacks _).keeps.rd pgING _ (by decide) (by unfold sentWord pgING pgNET; omega),
      State.raise_rd _ _ _ _ _ (by decide) (not_evWords _ _ _ (by decide) (by decide)),
      State.rd_wr _ _ _ (by decide)]

/-! ### One kiosk follows what keeps it out -/

/-- The words that a kiosk's leaving or rejoining may change: its status, and CLK's page for the relock that waits. -/
def leaveWord (k p o : Nat) : Prop := (p = pgKSK k ∧ o = 0x010) ∨ p = pgCLK

theorem State.drainCheck_pools (c : Nat) (hc : c < 4) (h : ∀ o, but pgCLK o) : s.Pools (s.drainCheck c) but := by
  unfold State.drainCheck
  split
  · obtain ⟨hl, hb, -⟩ := pllStat_sound (2 + c) (by omega)
    have ho := pllStat_off (2 + c)
    exact ((s.setPll_pools _ _).trans (State.wr_pools _ _ 0 _ hl (by rw [ho.1]; omega) (h _))).trans
      (State.wr_pools _ _ 1 _ hb (by rw [ho.2.1]; omega) (h _))
  · exact .refl s _

/-- A kiosk's departure up to the PLL that may wait for it. -/
theorem State.kioskAway_split (k : Nat) : ∃ u, s.Pools u (leaveWord k) ∧
    s.kioskAway k = u.drainCheck (k / 24) ∧
    u.kioskState k = if s.bit (pgKSK k) WK_OUT_RETIRED then 3 else 0 := by
  have hplace : ∀ v : State, s.Pools v (leaveWord k) → ∃ u, s.Pools u (leaveWord k) ∧
      ((v.setHolding k .nothing).setState (pgKSK k)
        (if s.bit (pgKSK k) WK_OUT_RETIRED then 3 else 0)).drainCheck (k / 24) = u.drainCheck (k / 24) ∧
      u.kioskState k = if s.bit (pgKSK k) WK_OUT_RETIRED then 3 else 0 := fun v hv =>
    ⟨_, (hv.trans (v.setHolding_pools k .nothing)).trans
      (State.wr_pools _ _ _ UNIT_STATUS_STATE (by decide) (by decide) (.inl ⟨rfl, rfl⟩)), rfl, by
        unfold State.kioskState
        rw [State.rd_wr _ _ _ (by decide)]
        split <;> rfl⟩
  unfold State.kioskAway
  refine hplace _ ?_
  split
  · exact s.updIng_pools _
  · exact .refl s _

theorem State.kioskAway_pools (k : Nat) (hk : k < 96) : s.Pools (s.kioskAway k) (leaveWord k) := by
  obtain ⟨u, hu, he, -⟩ := s.kioskAway_split k
  rw [he]
  exact hu.trans (u.drainCheck_pools _ (by omega) fun _ => .inr rfl)

theorem leaveWord_not_out (j k : Nat) : ¬ leaveWord j (pgKSK k) 0x05C := by
  unfold leaveWord
  rintro (h | h)
  · exact absurd h.2 (by decide)
  · exact pgKSK_ne k h

theorem leaveWord_not_other (j k o : Nat) (h : j ≠ k) : ¬ leaveWord j (pgKSK k) o := by
  unfold leaveWord
  rintro (hp | hp)
  · unfold pgKSK at hp; omega
  · exact pgKSK_ne k hp

/-- A kiosk that leaves is OUT, or RETIRED (R148). -/
theorem State.kioskAway_state (k : Nat) (hk : k < 96) : (s.kioskAway k).kioskState k =
    if s.bit (pgKSK k) WK_OUT_RETIRED then 3 else 0 := by
  obtain ⟨u, -, he, hs⟩ := s.kioskAway_split k
  have hd : (u.drainCheck (k / 24)).rd (pgKSK k) UNIT_STATUS_STATE = u.rd (pgKSK k) UNIT_STATUS_STATE :=
    (u.drainCheck_pools (but := fun p _ => p = pgCLK) _ (by omega) fun _ => rfl).rd _ _ (by decide) (pgKSK_ne k)
  rw [he, State.kioskState, hd]
  exact hs

theorem State.kioskMove_pools (k : Nat) (hk : k < 96) : s.Pools (s.kioskMove k) (leaveWord k) := by
  unfold State.kioskMove
  split
  · split
    · exact s.kioskAway_pools k hk
    · exact .refl s _
  · split
    · exact s.wr_pools _ _ UNIT_STATUS_STATE (by decide) (by decide) (.inl ⟨rfl, rfl⟩)
    · exact .refl s _

/-- Where a kiosk stands once it has followed what keeps it out (R148, R163). -/
theorem State.kioskMove_state (k : Nat) (hk : k < 96) : (s.kioskMove k).kioskState k =
    if s.keptOut k = true then
      if s.kioskState k = 1 then (if s.bit (pgKSK k) WK_OUT_RETIRED then 3 else 0) else s.kioskState k
    else if s.kioskState k = 0 then 1 else s.kioskState k := by
  unfold State.kioskMove
  split
  · split
    · exact s.kioskAway_state k hk
    · rfl
  · split
    · exact State.rd_wr s _ UNIT_STATUS_STATE (by decide) 1
    · rfl

/-! ### A reason begins or ends on some kiosks -/

/-- A reason of `WK_OUT` begins or ends on a kiosk, which follows. -/
def State.outMove (s : State) (f : Fld) (b : Bool) (k : Nat) : State := (s.wrBit (pgKSK k) f b).kioskMove k

/-- The words that a reason's begin or end on a kiosk may change. -/
def outWord (k p o : Nat) : Prop := (p = pgKSK k ∧ o = 0x05C) ∨ leaveWord k p o

theorem outWord_not_other (j k o : Nat) (h : j ≠ k) : ¬ outWord j (pgKSK k) o := by
  rintro (hp | hp)
  · unfold pgKSK at hp; omega
  · exact leaveWord_not_other j k o h hp

theorem State.outMove_pools (f : Fld) (hf : f.Sound) (ho : f.off = 0x05C) (b : Bool) (k : Nat) (hk : k < 96) :
    s.Pools (s.outMove f b k) (outWord k) := by
  unfold State.outMove
  rw [State.wrBit_eq]
  exact (s.wr_pools _ _ f hf (by rw [ho]; decide) (.inl ⟨rfl, ho⟩)).trans
    ((State.kioskMove_pools _ k hk).mono fun _ _ => .inr)

/-- Reasons on other kiosks leave a kiosk's page, and what else keeps it out. -/
theorem State.outMoves_other (f : Fld) (hf : f.Sound) (ho : f.off = 0x05C) (b : Bool) (k : Nat) (ks : List Nat)
    (hks : ∀ j ∈ ks, j < 96 ∧ j ≠ k) :
    s.Pools (ks.foldl (fun t j => t.outMove f b j) s) (fun p _ => p ≠ pgKSK k) :=
  .foldl _ _ (fun t j hj => (t.outMove_pools f hf ho b j (hks j hj).1).mono fun p o hw hp => by
    subst hp
    exact outWord_not_other j k o (hks j hj).2 hw) s

/-- What a reason's begin or end on some kiosks does to one of them: what it does to it alone, for which the others
leave a state with the same page of this kiosk. -/
theorem State.setOuts_at (ks : List Nat) (f : Fld) (hf : f.Sound) (ho : f.off = 0x05C) (b : Bool)
    (hlt : ∀ j ∈ ks, j < 96) (hnd : ks.Nodup) (k : Nat) (hk : k ∈ ks) :
    ∃ u, s.Pools u (fun p _ => p ≠ pgKSK k) ∧
      (u.outMove f b k).Pools (s.setOuts ks f b) (fun p _ => p ≠ pgKSK k) := by
  obtain ⟨xs, ys, rfl⟩ := List.append_of_mem hk
  have hx : ∀ j ∈ xs, j < 96 ∧ j ≠ k := fun j hj =>
    ⟨hlt j (by simp [hj]), fun e => (List.nodup_append.mp hnd).2.2 j hj k (by simp) e⟩
  have hy : ∀ j ∈ ys, j < 96 ∧ j ≠ k := fun j hj =>
    ⟨hlt j (by simp [hj]), by rintro rfl; simp [List.nodup_append, hj] at hnd⟩
  have he : s.setOuts (xs ++ k :: ys) f b = (ys.foldl (fun t j => t.outMove f b j)
      ((xs.foldl (fun t j => t.outMove f b j) s).outMove f b k)).publish := by
    rw [State.setOuts]
    change (List.foldl (fun t j => t.outMove f b j) s (xs ++ k :: ys)).publish = _
    rw [List.foldl_append, List.foldl_cons]
  refine ⟨_, s.outMoves_other f hf ho b k xs hx, ?_⟩
  rw [he]
  exact (State.outMoves_other _ f hf ho b k ys hy).trans ((State.publish_raises _).pools.mono fun p o hw hp => by
    subst hp
    exact tellWord_not_ksk k o (hlt k hk) hw)

/-- The words that a reason's begin or end on some kiosks may change. -/
def poolWord (p o : Nat) : Prop := (∃ k, k < 96 ∧ outWord k p o) ∨ tellWord p o

theorem State.setOuts_pools (ks : List Nat) (f : Fld) (hf : f.Sound) (ho : f.off = 0x05C) (b : Bool)
    (hlt : ∀ j ∈ ks, j < 96) : s.Pools (s.setOuts ks f b) poolWord :=
  (State.Pools.foldl _ _ (fun t j hj => (t.outMove_pools f hf ho b j (hlt j hj)).mono
    fun _ _ h => .inl ⟨j, hlt j hj, h⟩) s).trans ((State.publish_raises _).pools.mono fun _ _ => .inr)

/-! ### What keeps a kiosk out -/

theorem State.keptOut_of_host (k : Nat) (h : s.bit (pgKSK k) WK_OUT_HOST = true) : s.keptOut k = true := by
  have hw : s.wkOut k ≠ 0 := by
    have hb := of_decide_eq_true h
    change (s.word (pgKSK k) 0x05C).toNat / 1 % 2 ≠ 0 at hb
    change (s.word (pgKSK k) 0x05C).toNat / 1 % 16 ≠ 0
    omega
  unfold State.keptOut
  rw [bne_iff_ne.mpr hw]
  rfl

theorem State.Pools.keptOut {s : State} {k : Nat} (h : s.Pools t but) (hn : ¬ but (pgKSK k) 0x05C) :
    t.keptOut k = s.keptOut k := by
  unfold State.keptOut State.wkOut
  rw [h.rd (pgKSK k) ⟨0x05C, 3, 0⟩ (by decide) hn, h.pwr]

theorem State.Pools.kioskState {s : State} {k : Nat} (h : s.Pools t but) (hn : ¬ but (pgKSK k) 0x010) :
    t.kioskState k = s.kioskState k := h.rd _ _ (by decide) hn

section SetOuts

variable (ks : List Nat) (f : Fld) (hf : f.Sound) (ho : f.off = 0x05C) (hlt : ∀ j ∈ ks, j < 96) (hnd : ks.Nodup)
  (k : Nat) (hk : k ∈ ks)

include hf ho hlt hnd hk

/-- The reason stands on the kiosk, or no longer does. -/
theorem State.setOuts_bit (b : Bool) : (s.setOuts ks f b).bit (pgKSK k) f = b := by
  obtain ⟨u, -, h⟩ := s.setOuts_at ks f hf ho b hlt hnd k hk
  rw [h.bit _ f (by rw [ho]; decide) (by simp), State.outMove,
    (State.kioskMove_pools _ k (hlt k hk)).bit _ f (by rw [ho]; decide) (by rw [ho]; exact leaveWord_not_out k k),
    State.bit_wrBit _ _ f hf]

/-- Another reason of the kiosk's stands. -/
theorem State.setOuts_apart (b : Bool) (g : Fld) (hg : g.Sound) (hgo : g.off = 0x05C) (ha : f.Apart g) :
    (s.setOuts ks f b).bit (pgKSK k) g = s.bit (pgKSK k) g := by
  obtain ⟨u, hu, h⟩ := s.setOuts_at ks f hf ho b hlt hnd k hk
  rw [h.bit _ g (by rw [hgo]; decide) (by simp), State.outMove,
    (State.kioskMove_pools _ k (hlt k hk)).bit _ g (by rw [hgo]; decide) (by rw [hgo]; exact leaveWord_not_out k k),
    State.wrBit_eq, State.bit_wr_apart _ _ f g hf hg (hgo.trans ho.symm) ha,
    hu.bit _ g (by rw [hgo]; decide) (by simp)]

/-- Where the kiosk stands: as what keeps it out in the end, its state before and its retirement give. -/
theorem State.setOuts_state (b : Bool) : ∃ st, st ≠ 1 ∧ st ≠ 2 ∧ (s.setOuts ks f b).kioskState k =
    if (s.setOuts ks f b).keptOut k = true then (if s.kioskState k = 1 then st else s.kioskState k)
    else if s.kioskState k = 0 then 1 else s.kioskState k := by
  obtain ⟨u, hu, h⟩ := s.setOuts_at ks f hf ho b hlt hnd k hk
  have hmove := State.kioskMove_pools (u.wrBit (pgKSK k) f b) k (hlt k hk)
  have hwr : (u.wrBit (pgKSK k) f b).kioskState k = s.kioskState k := by
    unfold State.kioskState
    rw [State.wrBit_eq, State.rd_wr_ne _ _ _ f _ hf (by decide) (.inr (by rw [ho]; decide))]
    exact hu.kioskState (not_not.mpr rfl)
  have hst := State.kioskMove_state (u.wrBit (pgKSK k) f b) k (hlt k hk)
  rw [hwr] at hst
  refine ⟨if (u.wrBit (pgKSK k) f b).bit (pgKSK k) WK_OUT_RETIRED then 3 else 0, ?_, ?_, ?_⟩
  · split <;> decide
  · split <;> decide
  · rw [h.kioskState (k := k) (not_not.mpr rfl), h.keptOut (not_not.mpr rfl), State.outMove, hmove.keptOut (leaveWord_not_out k k)]
    exact hst

end SetOuts

end Sys2Proof.Machine
end

section
/-! PROOFS. WITHDRAW and RETURN of kiosks (R148, R149, R163), and Ingest's checks together. -/

namespace Sys2Proof.Machine

variable (s : State)

/-! ### The kiosks of a page (R149) -/

theorem unitOf_ksk (part : Part) (page k : Nat) (h : unitOf part page = some (.ksk, k)) :
    page = pgKSK k ∧ k < part.kiosks := by
  have hruns : ∀ r ∈ pageRuns, r.kind = .ksk → r.first = 0x091 ∧ r.count part = part.kiosks := by
    cases part <;> decide
  obtain ⟨r, hr, he⟩ := Option.map_eq_some_iff.mp h
  obtain ⟨hkind, hplace⟩ := Prod.mk.inj he
  obtain ⟨hfirst, hcount⟩ := hruns r (List.mem_of_find?_eq_some hr) hkind
  have hin := List.find?_some hr
  simp only [Bool.and_eq_true, decide_eq_true_eq] at hin
  unfold pgKSK
  omega

theorem kiosksBelow_nodup (j : Nat) : (kiosksBelow j).Nodup := by
  have hmap : ∀ a n : Nat, ((List.range n).map (fun i => a + i)).Nodup := fun a n =>
    (List.nodup_range).map (fun x y h => Nat.add_left_cancel h)
  unfold kiosksBelow
  split
  · exact List.nodup_range
  · split
    · exact hmap _ _
    · exact hmap _ _

theorem State.kiosksOf_nodup (page : Nat) : (s.kiosksOf page).Nodup := by
  unfold State.kiosksOf
  split
  · exact (kiosksBelow_nodup _).filter _
  · exact List.nodup_singleton _
  · exact List.nodup_nil

theorem State.kiosksOf_lt (page k : Nat) (h : k ∈ s.kiosksOf page) : k < 96 := by
  unfold State.kiosksOf at h
  split at h
  · exact (of_decide_eq_true (List.mem_filter.mp h).2).trans_le (kiosks_le s.part)
  · next hu =>
    obtain rfl := List.mem_singleton.mp h
    exact (unitOf_ksk _ _ _ hu).2.trans_le (kiosks_le s.part)
  · cases h

/-! ### The commands (R148, R163) -/

/-- The kiosks beneath a page that are not retired. -/
def State.liveKiosks (s : State) (page : Nat) : List Nat :=
  (s.kiosksOf page).filter (fun k => !s.bit (pgKSK k) WK_OUT_RETIRED)

theorem State.poolCommand_accepts (r : Req) (page : BitVec 12) (code : Nat) (out : Bool)
    (h : s.Takes r page.toNat) (hne : s.kiosksOf page.toNat ≠ [])
    (hlive : ∃ k ∈ s.kiosksOf page.toNat, s.bit (pgKSK k) WK_OUT_RETIRED = false) :
    s.fresh.poolCommand r page.toNat code 0 out = (s.taken r page.toNat code).setOuts
      (s.liveKiosks page.toNat) WK_OUT_HOST out := by
  have hks : ∀ t : State, t.part = s.part → t.kiosksOf page.toNat = s.kiosksOf page.toNat := fun t ht => by
    unfold State.kiosksOf State.unit; rw [ht]
  obtain ⟨x, y, z, hx⟩ := s.taken_eq r page.toNat code
  have ht : ((s.taken r page.toNat code).kiosksOf page.toNat).filter
      (fun k => !(s.taken r page.toNat code).bit (pgKSK k) WK_OUT_RETIRED) = s.liveKiosks page.toNat := by
    rw [hx]; rfl
  unfold State.poolCommand
  rw [command_accepts _ _ _ _ _ _ _ _ _ h.reach h.idle (.inr h.live) (fun _ => rfl)]
  · dsimp only
    rw [ht]
  intro c hc
  dsimp only at hc
  rw [hks _ (s.reached_part r page.toNat)] at hc
  rcases List.mem_cons.mp hc with rfl | hc
  · exact List.isEmpty_eq_false_iff.mpr hne
  · rcases List.mem_singleton.mp hc with rfl
    obtain ⟨k, hk, hr⟩ := hlive
    exact List.all_eq_false.mpr ⟨k, hk, by rw [State.reached_bit, hr]; decide⟩

theorem State.mem_liveKiosks (page k : Nat) (hk : k ∈ s.kiosksOf page)
    (h : s.bit (pgKSK k) WK_OUT_RETIRED = false) : k ∈ s.liveKiosks page :=
  List.mem_filter.mpr ⟨hk, by rw [h]; rfl⟩

theorem State.liveKiosks_nodup (page : Nat) : (s.liveKiosks page).Nodup := (s.kiosksOf_nodup page).filter _

theorem State.liveKiosks_lt (page k : Nat) (h : k ∈ s.liveKiosks page) : k < 96 :=
  s.kiosksOf_lt page k (List.mem_filter.mp h).1

/-- What WITHDRAW and RETURN do in common: memory stands, and live capacity is told. -/
theorem State.poolSet_common (r : Req) (page code : Nat) (out : Bool) :
    let t := (s.taken r page code).setOuts (s.liveKiosks page) WK_OUT_HOST out
    s.SameMem t ∧ t.rd pgING ING_LIVE_CAP_CYCLES =
      t.capacityOf (List.range 96) % 2 ^ ING_LIVE_CAP_CYCLES.width :=
  ⟨(s.taken_sameMem r page code).trans (State.setOuts_pools _ _ _ (by decide) rfl out
    fun k hk => s.liveKiosks_lt page k hk).sameMem, State.publish_capacity _⟩

theorem State.taken_kioskState (r : Req) (page code k : Nat) :
    (s.taken r page code).kioskState k = s.kioskState k := s.taken_rd r page code _ _

/-- Settles O38, operation by operation: what each of them does is said once above. -/
theorem ingestChecks : Obligations.IngestChecks := by
  intro s
  refine ⟨fun hp hv => ?_, fun d ds hp hl => ?_, fun r h hbad hrun => ?_, fun r page h hne hlive => ⟨?_, ?_⟩,
    fun r ho => ⟨?_, ?_⟩⟩
  · have hk := s.fresh.admitStep_keeps
    exact ⟨_, s.exec_admissionCheck hp hv, s.admitStep_fresh_shows, s.admitStep_fresh_warns hp,
      s.fresh.admitStep_tiles, hk.sameMem, hk.sameRegs, s.fresh.admitStep_rest⟩
  · have hk := s.fresh.lookStep_keeps (ds.foldl min d)
    exact ⟨_, s.exec_lookaheadCheck d ds hp hl, hk.sameMem, hk.sameRegs, s.lookStep_fresh_warns _ hp,
      s.fresh.lookStep_rest _⟩
  · obtain ⟨x, y, z, hx⟩ := s.taken_eq r pgING 1
    have hpart : (s.taken r pgING 1).part = s.part := by rw [hx]
    have hchanged : ∀ k, (s.taken r pgING 1).ribChanged k = s.ribChanged k := fun k => by rw [hx]; rfl
    have hrib : ∀ k, (s.taken r pgING 1).ribOf k = s.ribOf k := fun k => by rw [hx]; rfl
    have hof := (s.taken r pgING 1).ribOf_applyTable
    have hsame := (s.taken r pgING 1).ribChanged_applyTable
    obtain ⟨v, hv⟩ := State.applyEntries_shape (List.range (s.taken r pgING 1).part.heads) (s.taken r pgING 1)
    rw [hpart] at hof hsame
    refine ⟨_, s.exec_applyRibbons_accepts r h hbad hrun, hsame, fun k hk hc => ?_, fun k hc => ?_, ?_, ?_, ?_, ?_⟩
    · rw [hof, if_pos ⟨hk, by rw [hchanged]; exact hc⟩]
      exact ⟨rfl, rfl, rfl⟩
    · rw [hof, if_neg (by rw [hchanged, hc]; simp), hrib]
    · unfold State.applyTable; rw [hv, hx]
    · unfold State.applyTable; rw [hv, hx]; exact .of_eq rfl rfl rfl
    · unfold State.applyTable; rw [hv, hx]; exact .of_eq _ rfl rfl rfl
    · unfold State.applyTable; rw [hv, hx]
  · obtain ⟨hmem, hcap⟩ := s.poolSet_common r page.toNat 1 true
    refine ⟨_, congrArg Host.Outcome.next (s.poolCommand_accepts r page 1 true h hne hlive), hmem, hcap,
      fun k hk hr => ?_⟩
    have hin := s.mem_liveKiosks _ k hk hr
    have hbit := (s.taken r page.toNat 1).setOuts_bit _ WK_OUT_HOST (by decide) rfl
      (s.liveKiosks_lt page.toNat) (s.liveKiosks_nodup page.toNat) k hin true
    refine ⟨hbit, fun h2 => ?_⟩
    obtain ⟨st, h1, h2', hst⟩ := (s.taken r page.toNat 1).setOuts_state _ WK_OUT_HOST (by decide) rfl
      (s.liveKiosks_lt page.toNat) (s.liveKiosks_nodup page.toNat) k hin true
    rw [if_pos (State.keptOut_of_host _ k hbit), State.taken_kioskState] at hst
    unfold State.inPool
    rw [hst]
    split
    · simp [h1, h2']
    · next hn => simp [hn, h2]
  · obtain ⟨hmem, hcap⟩ := s.poolSet_common r page.toNat 2 false
    refine ⟨_, congrArg Host.Outcome.next (s.poolCommand_accepts r page 2 false h hne hlive), hmem, hcap,
      fun k hk hr => ?_⟩
    have hin := s.mem_liveKiosks _ k hk hr
    refine ⟨(s.taken r page.toNat 2).setOuts_bit _ WK_OUT_HOST (by decide) rfl (s.liveKiosks_lt page.toNat)
      (s.liveKiosks_nodup page.toNat) k hin false, fun hkept h0 => ?_⟩
    obtain ⟨st, -, -, hst⟩ := (s.taken r page.toNat 2).setOuts_state _ WK_OUT_HOST (by decide) rfl
      (s.liveKiosks_lt page.toNat) (s.liveKiosks_nodup page.toNat) k hin false
    rw [hst, hkept, State.taken_kioskState, h0]
    rfl
  · obtain ⟨hemit, hslot, -, hmem, hrest⟩ := s.readLo_effect r pgING
      (((s.ing.starved.head?).map Starved.lo).getD 0) [(0x05C, ((s.ing.starved.head?).map Starved.hi).getD 0)]
    have hing := s.answered_ing r pgING hrest
    have hregs := s.answered_sameRegs r pgING (fun _ _ => False) hrest
    have hin : { s.reached r pgING with ing := s.ing } = s.reached r pgING := by
      obtain ⟨x, hx⟩ := s.reached_eq r pgING; rw [hx]
    refine ⟨_, s.exec_starveLogReadLo r ho, ?_, hemit, ?_, hmem.trans (.of_eq rfl rfl rfl),
      hregs, ?_⟩
    · rw [State.starveDrop, State.updIng, hing]
    · rw [State.starveDrop_snapSlot]; exact hslot
    · exact (congrArg (fun t : State => { t with ing := s.ing }) hrest).trans hin
  · obtain ⟨w, he⟩ := s.exec_starveLogReadHi r ho
    obtain ⟨hhit, hmiss, -, hmem, hrest⟩ := s.readHi_effect r pgING 0x05C w
    have hans : { (s.reached r pgING).readHi r pgING 0x05C w with
        host := s.host, gkpSide := s.gkpSide, emitted := [] } = s.reached r pgING := hrest
    cases hl : (s.snapSlot r pgING).lookup 0x05C with
    | some x =>
      exact ⟨_, x, he, (hhit x hl).1, s.answered_ing r pgING hrest, fun _ h => Option.some.inj h, hmem,
        s.answered_sameRegs r pgING _ hrest, hans⟩
    | none =>
      exact ⟨_, w, he, (hmiss hl).1, s.answered_ing r pgING hrest, fun _ h => (nomatch h), hmem,
        s.answered_sameRegs r pgING _ hrest, hans⟩

end Sys2Proof.Machine
end

section
/-! SUPPORT. The slices of BIST (R374, R378): what decides which of them are skipped, and the fields of a
completed rotation. -/

namespace Sys2Proof.Machine

variable {s t u : State} {but but' : Nat → Nat → Prop}

/-! ### Which slices are skipped -/

/-- The level of a domain is read from its phase and from the votes. -/
theorem State.Asks.levelOf (h : s.Asks t) (hd : t.pwr.doms = s.pwr.doms) (d : Dom) : t.levelOf d = s.levelOf d := by
  unfold State.levelOf State.level
  rw [hd, h.eff]

theorem State.activePort_congr (hl : t.levelOf .net = s.levelOf .net)
    (hw : t.word pgNETroot 0x068 = s.word pgNETroot 0x068) : t.activePort = s.activePort := by
  have hn : t.bit pgNETroot NET_PATH_STAT_NO_PATH = s.bit pgNETroot NET_PATH_STAT_NO_PATH :=
    State.bit_of_word _ NET_PATH_STAT_NO_PATH hw
  have ha : t.rd pgNETroot NET_PATH_STAT_ACTIVE = s.rd pgNETroot NET_PATH_STAT_ACTIVE :=
    congrArg NET_PATH_STAT_ACTIVE.get hw
  unfold State.activePort
  rw [hl, hn, ha]

theorem State.sliceSkipped_congr (hp : t.part = s.part) (hw : t.word pgBST 0x040 = s.word pgBST 0x040)
    (ha : t.activePort = s.activePort) : t.sliceSkipped = s.sliceSkipped := by
  have hk : t.bit pgBST BST_CFG_KIOSKS = s.bit pgBST BST_CFG_KIOSKS := State.bit_of_word _ BST_CFG_KIOSKS hw
  have hs : t.bit pgBST BST_CFG_SRAM = s.bit pgBST BST_CFG_SRAM := State.bit_of_word _ BST_CFG_SRAM hw
  have hport : t.bit pgBST BST_CFG_PORT = s.bit pgBST BST_CFG_PORT := State.bit_of_word _ BST_CFG_PORT hw
  funext i
  unfold State.sliceSkipped State.sliceActive
  rw [hk, hs, hport, ha, hp]

theorem State.sliceFrom_congr (h : t.sliceSkipped = s.sliceSkipped) : t.sliceFrom = s.sliceFrom := by
  funext i
  unfold State.sliceFrom
  rw [h]

/-- What keeps the core and the words that the skipping is read from keeps the slices that are skipped. -/
theorem State.Keeps.sliceSkipped (h : s.Keeps t but) (hb : ∀ p o, but p o → unitWord p o)
    (hr : ¬ but pgNETroot 0x068) (hc : ¬ but pgBST 0x040) : t.sliceSkipped = s.sliceSkipped := by
  have hasks : s.Asks t := (h.mono hb).unitsFollow.asks
  exact State.sliceSkipped_congr h.core.part (h.word _ _ (by decide) hc)
    (State.activePort_congr (hasks.levelOf (by rw [h.core.pwr]) .net) (h.word _ _ (by decide) hr))

theorem State.Pools.sliceFrom (h : s.Pools t but) (hb : ∀ p o, but p o → unitWord p o)
    (hr : ¬ but pgNETroot 0x068) (hc : ¬ but pgBST 0x040) : t.sliceFrom = s.sliceFrom := by
  have hasks : s.Asks t :=
    ⟨h.part, by rw [h.aon], by rw [h.pwr], fun p o hv => h.word p o (voteWord_lt p o hv) fun hn => hb p o hn hv⟩
  exact State.sliceFrom_congr (State.sliceSkipped_congr h.part (h.word _ _ (by decide) hc)
    (State.activePort_congr (hasks.levelOf (by rw [h.pwr]) .net) (h.word _ _ (by decide) hr)))

theorem State.sliceFrom_lt {i j : Nat} (h : s.sliceFrom i = some j) : j < 4224 := by
  obtain ⟨x, hx, rfl⟩ := List.mem_map.mp (List.mem_of_find?_eq_some h)
  have := List.mem_range.mp hx
  omega

theorem State.sliceFrom_getD_lt (s : State) (i : Nat) : (s.sliceFrom i).getD 0 < 4224 := by
  cases h : s.sliceFrom i with
  | none => decide
  | some j => exact State.sliceFrom_lt h

/-! ### Words of BIST's page -/

/-- The words that the end of a slice writes in BIST's page: `NEXT` and the rotation's. -/
def overWord (p o : Nat) : Prop := p = pgBST ∧ (o = 0x044 ∨ o = 0x048 ∨ o = 0x04C ∨ o = 0x058)

theorem overWord_unit (p o : Nat) (h : overWord p o) : unitWord p o := by
  obtain ⟨rfl, ho⟩ := h
  exact unitWord_of _ _ (by omega) (by decide) (.inl (by decide))

variable (s)

theorem State.setBist_raises (g : Bist → Bist) (h : g s.bist = s.bist) : s.Raises (s.setBist g) but :=
  ⟨by unfold State.setBist; rw [h], fun _ _ _ _ => rfl, rfl, fun _ _ h => h⟩

@[simp] theorem State.setBist_word (g : Bist → Bist) (p o : Nat) : (s.setBist g).word p o = s.word p o := rfl
@[simp] theorem State.setBist_rd (g : Bist → Bist) (p : Nat) (f : Fld) : (s.setBist g).rd p f = s.rd p f := rfl
@[simp] theorem State.setBist_bit (g : Bist → Bist) (p : Nat) (f : Fld) : (s.setBist g).bit p f = s.bit p f := rfl

/-! ### A rotation completes (R374) -/

/-- The rotation's time and count are shown. -/
def State.rotCounted (s : State) : State :=
  (s.wr pgBST BST_ROT_LAST_MS ((s.now - s.bist.rotFrom) / 1000000)).incSat pgBST BST_ROT_COUNT_N

theorem State.rotCounted_keeps : s.Keeps s.rotCounted overWord := by
  unfold State.rotCounted
  rw [State.incSat_eq, State.addSat_eq]
  exact (s.wr_keeps _ _ BST_ROT_LAST_MS (by decide) ⟨rfl, .inr (.inl rfl)⟩).trans
    (State.wr_keeps _ _ _ BST_ROT_COUNT_N (by decide) ⟨rfl, .inr (.inr (.inl rfl))⟩)

variable {s} in
theorem State.Keeps.over_sliceFrom (h : s.Keeps t overWord) : t.sliceFrom = s.sliceFrom :=
  State.sliceFrom_congr (h.sliceSkipped overWord_unit (fun h => absurd h.1 (by decide))
    (by unfold overWord; omega))

theorem State.rotated_eq : s.rotated = ((s.rotCounted.wr pgBST BST_STAT_LATE 0).wr pgBST BST_POS_NEXT
    ((s.sliceFrom 0).getD 0)).setBist (fun b => { b with rotFrom := s.now }) := by
  have h := s.rotCounted_keeps.over_sliceFrom
  unfold State.rotCounted at h ⊢
  unfold State.rotated
  dsimp only
  rw [h]

theorem State.rotCounted_shape : ∃ x, s.rotCounted = { s with regs := x } := by
  have h : ∀ v, ∃ x, (s.wr pgBST BST_ROT_LAST_MS v).incSat pgBST BST_ROT_COUNT_N = { s with regs := x } :=
    fun v => ⟨_, rfl⟩
  exact h _

/-- Only registers and the BIST controller's record of the rotation differ. -/
theorem State.rotated_shape : ∃ x, s.rotated =
    { s with regs := x, bist := { s.bist with rotFrom := s.now } } := by
  obtain ⟨x, hx⟩ := s.rotCounted_shape
  rw [State.rotated_eq, hx]
  generalize (s.sliceFrom 0).getD 0 = n
  exact ⟨_, rfl⟩

theorem State.setBist_over (g : Bist → Bist) : s.Keeps (s.setBist g) overWord :=
  .of_regs _ ⟨rfl, rfl, rfl, rfl, rfl, rfl, rfl, rfl, rfl⟩ rfl

theorem State.rotated_over : s.Keeps s.rotated overWord := by
  rw [State.rotated_eq]
  generalize (s.sliceFrom 0).getD 0 = n
  have hlate := s.rotCounted.wr_keeps (but := overWord) pgBST 0 BST_STAT_LATE (by decide) ⟨rfl, .inr (.inr (.inr rfl))⟩
  have hnext := (s.rotCounted.wr pgBST BST_STAT_LATE 0).wr_keeps (but := overWord) pgBST n BST_POS_NEXT (by decide)
    ⟨rfl, .inl rfl⟩
  exact ((s.rotCounted_keeps.trans hlate).trans hnext).trans (State.setBist_over _ _)

theorem State.rotated_next : s.rotated.rd pgBST BST_POS_NEXT = (s.sliceFrom 0).getD 0 := by
  rw [State.rotated_eq, State.setBist_rd, State.rd_wr _ _ _ (by decide)]
  exact Nat.mod_eq_of_lt ((s.sliceFrom_getD_lt 0).trans (by decide))

theorem State.rotated_late : s.rotated.bit pgBST BST_STAT_LATE = false := by
  rw [State.rotated_eq, State.setBist_bit, State.bit_wr_ne _ _ _ BST_POS_NEXT BST_STAT_LATE (by decide) (by decide)
    (.inr (by decide)), State.bit_wr _ _ _ (by decide)]
  rfl

/-- A field in neither `NEXT`'s word nor `LATE`'s reads as before or as the rotation's end has counted. -/
theorem State.rotated_rd (f : Fld) (hf : f.Sound) (h44 : f.off ≠ 0x044) (h58 : f.off ≠ 0x058) :
    s.rotated.rd pgBST f = s.rotCounted.rd pgBST f := by
  rw [State.rotated_eq, State.setBist_rd, State.rd_wr_ne _ _ _ BST_POS_NEXT f (by decide) hf (.inr h44),
    State.rd_wr_ne _ _ _ BST_STAT_LATE f (by decide) hf (.inr h58)]

theorem State.rotated_count :
    s.rotated.rd pgBST BST_ROT_COUNT_N = min (s.rd pgBST BST_ROT_COUNT_N + 1) (2 ^ 32 - 1) := by
  rw [s.rotated_rd _ (by decide) (by decide) (by decide), State.rotCounted, State.rd_incSat _ _ _ (by decide),
    State.rd_wr_ne _ _ _ BST_ROT_LAST_MS BST_ROT_COUNT_N (by decide) (by decide) (.inr (by decide))]
  rfl

theorem State.rotated_last :
    s.rotated.rd pgBST BST_ROT_LAST_MS = (s.now - s.bist.rotFrom) / 1000000 % 2 ^ 32 := by
  rw [s.rotated_rd _ (by decide) (by decide) (by decide), State.rotCounted, State.incSat_eq, State.addSat_eq,
    State.rd_wr_ne _ _ _ BST_ROT_COUNT_N BST_ROT_LAST_MS (by decide) (by decide) (.inr (by decide)),
    State.rd_wr _ _ _ (by decide)]
  rfl

theorem State.rotated_deferred : s.rotated.rd pgBST BST_POS_DEFERRED = s.rd pgBST BST_POS_DEFERRED := by
  rw [State.rotated_eq, State.setBist_rd,
    State.rd_wr_apart _ _ BST_POS_NEXT BST_POS_DEFERRED (by decide) (by decide) rfl (by decide),
    State.rd_wr_ne _ _ _ BST_STAT_LATE BST_POS_DEFERRED (by decide) (by decide) (.inr (by decide)),
    State.rotCounted, State.incSat_eq, State.addSat_eq,
    State.rd_wr_ne _ _ _ BST_ROT_COUNT_N BST_POS_DEFERRED (by decide) (by decide) (.inr (by decide)),
    State.rd_wr_ne _ _ _ BST_ROT_LAST_MS BST_POS_DEFERRED (by decide) (by decide) (.inr (by decide))]

/-! ### A slice is over (R374) -/

/-- `NEXT` moves past a slice: to the next that is not skipped, or the rotation completes. -/
theorem State.slicePast_next (i j : Nat) (h : s.sliceFrom (i + 1) = some j) :
    s.slicePast i = s.wr pgBST BST_POS_NEXT j := by
  unfold State.slicePast; rw [h]

theorem State.slicePast_rotated (i : Nat) (h : s.sliceFrom (i + 1) = none) : s.slicePast i = s.rotated := by
  unfold State.slicePast; rw [h]

theorem State.slicePast_over (i : Nat) : s.Keeps (s.slicePast i) overWord := by
  unfold State.slicePast
  split
  · exact s.wr_keeps _ _ BST_POS_NEXT (by decide) ⟨rfl, .inl rfl⟩
  · exact s.rotated_over

theorem State.slicePast_shape (i : Nat) : ∃ x y, s.slicePast i =
    { s with regs := x, bist := { s.bist with rotFrom := y } } := by
  unfold State.slicePast
  split
  · exact ⟨_, s.bist.rotFrom, rfl⟩
  · obtain ⟨x, hx⟩ := s.rotated_shape
    exact ⟨x, s.now, hx⟩

theorem State.slicePast_deferred (i : Nat) : (s.slicePast i).rd pgBST BST_POS_DEFERRED = s.rd pgBST BST_POS_DEFERRED := by
  unfold State.slicePast
  split
  · exact s.rd_wr_apart _ BST_POS_NEXT BST_POS_DEFERRED (by decide) (by decide) rfl (by decide) _
  · exact s.rotated_deferred

/-- The running slice no longer runs. -/
def State.sliceIdle (s : State) : State := s.setBist (fun b => { b with slice := none })

theorem State.sliceIdle_sliceFrom : s.sliceIdle.sliceFrom = s.sliceFrom := rfl

theorem State.sliceOver_named (i : Nat) (h : s.bist.forced = some i) :
    s.sliceOver i = s.sliceIdle.setBist (fun b => { b with forced := none }) := by
  unfold State.sliceOver; exact if_pos h

theorem State.sliceOver_due (i : Nat) (h : s.bist.forced ≠ some i) : s.sliceOver i = s.sliceIdle.slicePast i := by
  unfold State.sliceOver; exact if_neg h

theorem State.sliceOver_over (i : Nat) : s.Keeps (s.sliceOver i) overWord := by
  have hidle : s.Keeps s.sliceIdle overWord := s.setBist_over _
  by_cases h : s.bist.forced = some i
  · rw [s.sliceOver_named i h]
    exact hidle.trans (State.setBist_over _ _)
  · rw [s.sliceOver_due i h]
    exact hidle.trans (State.slicePast_over _ i)

/-- No repair is won or lost, and no slice runs. -/
theorem State.sliceOver_bist (i : Nat) : (s.sliceOver i).bist.slice = none ∧
    (s.sliceOver i).bist.repairs = s.bist.repairs ∧ (s.sliceOver i).bist.fused = s.bist.fused := by
  by_cases h : s.bist.forced = some i
  · rw [s.sliceOver_named i h]
    exact ⟨rfl, rfl, rfl⟩
  · obtain ⟨x, y, hxy⟩ := s.sliceIdle.slicePast_shape i
    rw [s.sliceOver_due i h, hxy]
    exact ⟨rfl, rfl, rfl⟩

theorem State.sliceOver_raised (i p b : Nat) (h : s.Raised p b) : (s.sliceOver i).Raised p b := by
  unfold State.Raised at *
  rw [(s.sliceOver_over i).word p 0x014 (by decide) (by unfold overWord; omega)]
  exact h

end Sys2Proof.Machine
end

section
/-! SUPPORT. Kiosks are retired (R148, R375), and the state in which the end of a slice finds the rotation. -/

namespace Sys2Proof.Machine

variable {s t u : State} {but but' : Nat → Nat → Prop}

/-! ### Events of BIST's page -/

theorem unitOf_bst (part : Part) : unitOf part pgBST = some (.bst, 0) := by cases part <;> rfl

theorem evNum_bst (part : Part) (b : Nat) (hb : b < 4) : evNum part pgBST b = some (538 + b) := by
  unfold evNum; rw [unitOf_bst]; exact if_pos hb

theorem State.clamped_bst (s : State) : s.clamped pgBST = false :=
  s.clamped_of_kind pgBST .bst (by unfold State.kind kindOf; rw [unitOf_bst]; rfl) rfl

theorem State.raise_bst_raised (s : State) (b : Nat) (hb : b < 4) : (s.raise pgBST b).Raised pgBST b :=
  s.raise_raised _ b _ (evNum_bst s.part b hb) (by omega) s.clamped_bst

theorem State.raise_bst_raises (s : State) (b : Nat) : s.Raises (s.raise pgBST b) (evWords pgBST) :=
  s.raise_raises _ b (.inl ⟨rfl, rfl⟩) (evWords_gbk pgBST)

theorem State.follyOn_calm (h : s.follies = []) (p n : Nat) : s.follyOn p n = false := by
  unfold State.follyOn State.armedFolly; rw [h]; rfl

/-! ### Retirement -/

theorem leaveWord_pool (k p o : Nat) (hk : k < 96) (h : leaveWord k p o) : poolWord p o := .inl ⟨k, hk, .inr h⟩

variable (s)

theorem State.kioskLeave_pools (k : Nat) (hk : k < 96) : s.Pools (s.kioskLeave k) poolWord :=
  ((s.kioskAway_pools k hk).mono fun p o h => leaveWord_pool k p o hk h).trans
    ((State.publish_raises _).pools.mono fun _ _ => .inr)

theorem State.distrust_pools (k : Nat) : s.Pools (s.distrust k) but := by
  unfold State.distrust
  split
  · exact s.updIng_pools _
  · exact .refl s _

/-- A kiosk's retirement as it begins: it is marked, and after a failure what it wrote is not trusted. -/
theorem State.retireKiosk_marked (k : Nat) (failed : Bool) : ∃ u,
    (s.wrBit (pgKSK k) WK_OUT_RETIRED true).Pools u (fun _ _ => False) ∧
    s.retireKiosk k failed = if failed = true ∨ s.kioskState k ≠ 2 then u.kioskLeave k else u := by
  have hst : (s.wrBit (pgKSK k) WK_OUT_RETIRED true).kioskState k = s.kioskState k := by
    unfold State.kioskState
    rw [State.wrBit_eq, State.rd_wr_ne _ _ _ WK_OUT_RETIRED _ (by decide) (by decide) (.inr (by decide))]
  cases failed
  · refine ⟨_, .refl _ _, ?_⟩
    unfold State.retireKiosk
    dsimp only
    rw [hst]
    simp
  · exact ⟨_, State.distrust_pools _ k, by unfold State.retireKiosk; simp⟩

theorem State.wrRetired_pools (k : Nat) (hk : k < 96) :
    s.Pools (s.wrBit (pgKSK k) WK_OUT_RETIRED true) poolWord := by
  rw [State.wrBit_eq]
  exact s.wr_pools _ _ WK_OUT_RETIRED (by decide) (by decide) (.inl ⟨k, hk, .inl ⟨rfl, rfl⟩⟩)

theorem State.retireKiosk_pools (k : Nat) (hk : k < 96) (failed : Bool) :
    s.Pools (s.retireKiosk k failed) poolWord := by
  obtain ⟨u, hu, he⟩ := s.retireKiosk_marked k failed
  have hpools := (s.wrRetired_pools k hk).trans (hu.mono fun _ _ => False.elim)
  rw [he]
  split
  · exact hpools.trans (u.kioskLeave_pools k hk)
  · exact hpools

/-- A kiosk that leaves keeps its reasons. -/
theorem State.kioskLeave_out (k : Nat) (hk : k < 96) (f : Fld) (ho : f.off = 0x05C) :
    (s.kioskLeave k).bit (pgKSK k) f = s.bit (pgKSK k) f := by
  unfold State.kioskLeave
  rw [(State.publish_raises _).keeps.bit _ f (by rw [ho]; decide) (tellWord_not_ksk k _ hk),
    (s.kioskAway_pools k hk).bit _ f (by rw [ho]; decide) (by rw [ho]; exact leaveWord_not_out k k)]

theorem State.kioskLeave_state (k : Nat) (hk : k < 96) : (s.kioskLeave k).kioskState k =
    if s.bit (pgKSK k) WK_OUT_RETIRED then 3 else 0 := by
  unfold State.kioskLeave
  rw [← s.kioskAway_state k hk]
  exact (State.publish_raises _).pools.kioskState (tellWord_not_ksk k _ hk)

theorem State.retireKiosk_retired (k : Nat) (hk : k < 96) (failed : Bool) :
    (s.retireKiosk k failed).bit (pgKSK k) WK_OUT_RETIRED = true := by
  obtain ⟨u, hu, he⟩ := s.retireKiosk_marked k failed
  have hb : u.bit (pgKSK k) WK_OUT_RETIRED = true := by
    rw [hu.bit _ WK_OUT_RETIRED (by decide) not_false, State.bit_wrBit _ _ _ (by decide)]
  rw [he]
  split
  · rw [u.kioskLeave_out k hk _ rfl, hb]
  · exact hb

/-- A kiosk that does not decode, or has failed, is then RETIRED. -/
theorem State.retireKiosk_state (k : Nat) (hk : k < 96) (failed : Bool)
    (h : failed = true ∨ s.kioskState k ≠ 2) : (s.retireKiosk k failed).kioskState k = 3 := by
  obtain ⟨u, hu, he⟩ := s.retireKiosk_marked k failed
  have hb : u.bit (pgKSK k) WK_OUT_RETIRED = true := by
    rw [hu.bit _ WK_OUT_RETIRED (by decide) not_false, State.bit_wrBit _ _ _ (by decide)]
  rw [he, if_pos h, u.kioskLeave_state k hk, hb]
  rfl

/-! ### The slice has been judged -/

/-- The words that the judgement of a slice may change. -/
def judgeWord (p o : Nat) : Prop :=
  (p = pgBST ∧ (o = 0x050 ∨ o = 0x054)) ∨ evWords pgBST p o ∨ poolWord p o

theorem poolWord_cases (p o : Nat) (h : poolWord p o) : (∃ k, k < 96 ∧ p = pgKSK k ∧ (o = 0x010 ∨ o = 0x05C)) ∨
    p = pgCLK ∨ (p = pgING ∧ (o = 0x040 ∨ o = 0x014)) ∨ (p = pgGBK ∧ (o = 0x014 ∨ o = 0x050)) ∨ sentWord p o := by
  rcases h with ⟨k, hk, ⟨hp, ho⟩ | ⟨hp, ho⟩ | hp⟩ | ⟨hp, ho⟩ | (⟨hp, ho⟩ | ⟨hp, ho⟩) | h
  · exact .inl ⟨k, hk, hp, .inr ho⟩
  · exact .inl ⟨k, hk, hp, .inl ho⟩
  · exact .inr (.inl hp)
  · exact .inr (.inr (.inl ⟨hp, .inl ho⟩))
  · exact .inr (.inr (.inl ⟨hp, .inr ho⟩))
  · exact .inr (.inr (.inr (.inl ⟨hp, ho⟩)))
  · exact .inr (.inr (.inr (.inr h)))

theorem pgCLK_unit (o : Nat) : unitWord pgCLK o := by
  rintro (h | h | h)
  · exact absurd h.1 (by decide)
  · exact absurd h.1 (by decide)
  · exact absurd h.1 (by decide)

theorem poolWord_unit (p o : Nat) (h : poolWord p o) : unitWord p o := by
  rcases poolWord_cases p o h with ⟨k, hk, rfl, ho⟩ | rfl | ⟨rfl, ho⟩ | ⟨rfl, ho⟩ | h
  · exact unitWord_of _ _ (by omega) (pgKSK_ne_pwr k) (.inr (by omega))
  · exact pgCLK_unit o
  · exact unitWord_of _ _ (by omega) (by decide) (.inr (by omega))
  · exact unitWord_of _ _ (by omega) (by decide) (.inr (by omega))
  · exact sentWord_unit p o h

/-- Neither BIST's page nor NET's root is told of the pool. -/
theorem poolWord_not (p o : Nat) (hp : p = pgBST ∨ p = pgNETroot) : ¬ poolWord p o := by
  intro h
  rcases poolWord_cases p o h with ⟨k, hk, h, -⟩ | h | ⟨h, -⟩ | ⟨h, -⟩ | ⟨h, -⟩ <;>
    unfold pgBST pgNETroot at hp <;> simp only [pgKSK, pgCLK, pgING, pgGBK, pgNET] at h <;> omega

theorem judgeWord_unit (p o : Nat) (h : judgeWord p o) : unitWord p o := by
  rcases h with ⟨rfl, ho⟩ | (⟨rfl, ho⟩ | h) | h
  · exact unitWord_of _ _ (by omega) (by decide) (.inr (by omega))
  · exact unitWord_of _ _ (by omega) (by decide) (.inr (by omega))
  · exact unitWord_gbk p o (.inr h)
  · exact poolWord_unit p o h

theorem judgeWord_not (p o : Nat) (hp : p = pgBST ∧ o ≠ 0x014 ∧ o ≠ 0x050 ∧ o ≠ 0x054 ∨ p = pgNETroot) :
    ¬ judgeWord p o := by
  rintro (⟨h, ho⟩ | h | h)
  · rcases hp with ⟨-, hn⟩ | hp
    · omega
    · exact absurd (h.symm.trans hp) (by decide)
  · rcases hp with ⟨hp, hn⟩ | hp
    · rcases h with ⟨-, h⟩ | ⟨h, -⟩
      · exact hn.1 h
      · exact absurd (h.symm.trans hp) (by decide)
    · rcases h with ⟨h, -⟩ | ⟨h, -⟩
      · exact absurd (h.symm.trans hp) (by decide)
      · exact absurd (h.symm.trans hp) (by decide)
  · exact poolWord_not p o (hp.imp And.left id) h

/-- The slice that ran has been judged: the rotation, what decides the slices to come, and memory stand. -/
structure State.Judged (s a : State) : Prop where
  mem : s.SameMem a
  now : a.now = s.now
  forced : a.bist.forced = s.bist.forced
  rotFrom : a.bist.rotFrom = s.bist.rotFrom
  sliceFrom : a.sliceFrom = s.sliceFrom
  word : ∀ p o, overWord p o → a.word p o = s.word p o

variable {s}

theorem overWord_not_judge (p o : Nat) (h : overWord p o) : ¬ judgeWord p o :=
  judgeWord_not p o (.inl ⟨h.1, by unfold overWord at h; omega⟩)

theorem State.Pools.judged (h : s.Pools t judgeWord) : s.Judged t where
  mem := h.sameMem
  now := h.now
  forced := by rw [h.bist]
  rotFrom := by rw [h.bist]
  sliceFrom := h.sliceFrom judgeWord_unit (judgeWord_not _ _ (.inr rfl))
    (judgeWord_not _ _ (.inl ⟨rfl, by decide, by decide, by decide⟩))
  word p o ho := h.word p o (by unfold overWord at ho; omega) (overWord_not_judge p o ho)

/-- What the end of a slice leaves of the rotation (R374, R389): a slice that SLICE_NOW named moves nothing; else
`NEXT` moves on, or the rotation completes. -/
theorem State.Judged.over (h : s.Judged t) (i : Nat) :
    (t.sliceOver i).bist.slice = none ∧ s.SameMem (t.sliceOver i) ∧
    (s.bist.forced = some i → (t.sliceOver i).bist.forced = none ∧
      (t.sliceOver i).rd pgBST BST_POS_NEXT = s.rd pgBST BST_POS_NEXT) ∧
    (s.bist.forced ≠ some i → (t.sliceOver i).bist.forced = s.bist.forced ∧
      (∀ j, s.sliceFrom (i + 1) = some j → (t.sliceOver i).rd pgBST BST_POS_NEXT = j ∧
        (t.sliceOver i).rd pgBST BST_ROT_COUNT_N = s.rd pgBST BST_ROT_COUNT_N) ∧
      (s.sliceFrom (i + 1) = none → (t.sliceOver i).bist.rotFrom = s.now ∧
        (t.sliceOver i).rd pgBST BST_ROT_COUNT_N = min (s.rd pgBST BST_ROT_COUNT_N + 1) (2 ^ 32 - 1) ∧
        (t.sliceOver i).rd pgBST BST_ROT_LAST_MS = (s.now - s.bist.rotFrom) / 1000000 % 2 ^ 32 ∧
        (t.sliceOver i).rd pgBST BST_POS_NEXT = (s.sliceFrom 0).getD 0 ∧
        (t.sliceOver i).bit pgBST BST_STAT_LATE = false)) := by
  have hnext : t.rd pgBST BST_POS_NEXT = s.rd pgBST BST_POS_NEXT :=
    congrArg BST_POS_NEXT.get (h.word _ _ ⟨rfl, .inl rfl⟩)
  have hcount : t.rd pgBST BST_ROT_COUNT_N = s.rd pgBST BST_ROT_COUNT_N :=
    congrArg BST_ROT_COUNT_N.get (h.word _ _ ⟨rfl, .inr (.inr (.inl rfl))⟩)
  refine ⟨(t.sliceOver_bist i).1, h.mem.trans (t.sliceOver_over i).sameMem, fun hf => ?_, fun hf => ⟨?_, fun j hj => ?_,
    fun hj => ?_⟩⟩
  · rw [t.sliceOver_named i (h.forced.trans hf)]
    exact ⟨rfl, hnext⟩
  · obtain ⟨x, y, hxy⟩ := t.sliceIdle.slicePast_shape i
    rw [t.sliceOver_due i (h.forced ▸ hf), hxy]
    exact h.forced
  · rw [t.sliceOver_due i (h.forced ▸ hf), State.slicePast_next _ i j (by rw [State.sliceIdle_sliceFrom, h.sliceFrom, hj])]
    refine ⟨?_, ?_⟩
    · rw [State.rd_wr _ _ _ (by decide)]
      exact Nat.mod_eq_of_lt ((State.sliceFrom_lt hj).trans (by decide))
    · rw [State.rd_wr_ne _ _ _ BST_POS_NEXT BST_ROT_COUNT_N (by decide) (by decide) (.inr (by decide))]
      exact hcount
  · rw [t.sliceOver_due i (h.forced ▸ hf),
      State.slicePast_rotated _ i (by rw [State.sliceIdle_sliceFrom, h.sliceFrom, hj]),
      State.rotated_count, State.rotated_last, State.rotated_next, State.sliceIdle_sliceFrom, h.sliceFrom]
    obtain ⟨x, hx⟩ := t.sliceIdle.rotated_shape
    refine ⟨?_, ?_, ?_, rfl, State.rotated_late _⟩
    · rw [hx]; exact h.now
    · rw [← hcount]; rfl
    · rw [← h.now, ← h.rotFrom]; rfl

end Sys2Proof.Machine
end

section
/-! SUPPORT. Spares of the SRAM's banks (R376): which of them the failing cells of a segment take, and what their
taking writes. -/

namespace Sys2Proof.Machine

variable {s t u : State} {but but' : Nat → Nat → Prop}

/-! ### The spares that failing cells take -/

/-- More repairs are listed. -/
def State.repaired (s : State) (xs : List Repair) : State :=
  s.setBist (fun b => { b with repairs := b.repairs ++ xs })

/-- The spares of a bank that failing cells take, in their order. -/
def State.sparesTaken (s : State) (bank : Nat) : List Bool → List Repair
  | [] => []
  | c :: cs =>
    match s.spare bank c with
    | some x => x :: (s.repaired [x]).sparesTaken bank cs
    | none => s.sparesTaken bank cs

theorem State.spare_congr (h : t.bist = s.bist) (bank : Nat) (c : Bool) : t.spare bank c = s.spare bank c := by
  unfold State.spare; rw [h]

theorem State.sparesTaken_congr (h : t.bist = s.bist) (bank : Nat) (cs : List Bool) :
    t.sparesTaken bank cs = s.sparesTaken bank cs := by
  induction cs generalizing s t with
  | nil => rfl
  | cons c cs ih =>
    have hr : ∀ x, (t.repaired [x]).bist = (s.repaired [x]).bist := fun x => by
      unfold State.repaired State.setBist; rw [h]
    unfold State.sparesTaken
    rw [State.spare_congr h]
    cases s.spare bank c with
    | none => exact ih h
    | some x => exact congrArg (x :: ·) (ih (hr x))

variable (s)

theorem State.repaired_repaired (xs ys : List Repair) :
    (s.repaired xs).repaired ys = s.repaired (xs ++ ys) := by
  unfold State.repaired State.setBist
  simp only [List.append_assoc]

theorem State.repaired_nil : s.repaired [] = s := by
  unfold State.repaired State.setBist
  simp only [List.append_nil]

/-- A spare that is left: of the bank, neither fused by the factory nor since, and in no list of repairs. -/
def State.Left (s : State) (bank : Nat) (x : Repair) : Prop :=
  x ∈ spareList bank false ++ spareList bank true ∧ Config.spareFused x.bank x.column x.index = false ∧
    x ∉ s.bist.fused ∧ x ∉ s.bist.repairs

theorem mem_spareList_either (bank : Nat) (c : Bool) (x : Repair) :
    x ∈ spareList bank c ++ spareList bank !c ↔ x ∈ spareList bank false ++ spareList bank true := by
  cases c
  · rfl
  · simp only [Bool.not_true, List.mem_append, Or.comm]

theorem State.spare_left (bank : Nat) (c : Bool) (x : Repair) (h : s.spare bank c = some x) : s.Left bank x := by
  have hp := List.find?_some h
  simp only [Bool.and_eq_true, Bool.not_eq_true', List.contains_eq_mem, decide_eq_false_iff_not] at hp
  obtain ⟨⟨hfused, hf⟩, hr⟩ := hp
  exact ⟨(mem_spareList_either bank c x).mp (List.mem_of_find?_eq_some h), hfused, hf, hr⟩

/-- Where a cell finds no spare, none of either kind is left. -/
theorem State.spare_none (bank : Nat) (c d : Bool) (h : s.spare bank c = none) : s.spare bank d = none := by
  unfold State.spare at *
  rw [List.find?_eq_none] at *
  exact fun x hx => h x ((mem_spareList_either bank c x).mpr ((mem_spareList_either bank d x).mp hx))

theorem State.sparesTaken_left (bank : Nat) (cs : List Bool) : ∀ x ∈ s.sparesTaken bank cs, s.Left bank x := by
  induction cs generalizing s with
  | nil => exact fun x hx => (nomatch hx)
  | cons c cs ih =>
    intro x hx
    unfold State.sparesTaken at hx
    cases hc : s.spare bank c with
    | none => rw [hc] at hx; exact ih s x hx
    | some y =>
      rw [hc] at hx
      rcases List.mem_cons.mp hx with rfl | hx
      · exact s.spare_left bank c x hc
      · obtain ⟨hin, hfused, hf, hr⟩ := ih (s.repaired [y]) x hx
        exact ⟨hin, hfused, hf, fun hm => hr (List.mem_append_left _ hm)⟩

theorem State.sparesTaken_nodup (bank : Nat) (cs : List Bool) : (s.sparesTaken bank cs).Nodup := by
  induction cs generalizing s with
  | nil => exact List.nodup_nil
  | cons c cs ih =>
    unfold State.sparesTaken
    cases hc : s.spare bank c with
    | none => exact ih s
    | some y =>
      refine List.nodup_cons.mpr ⟨fun hy => ?_, ih _⟩
      obtain ⟨-, -, -, hr⟩ := (s.repaired [y]).sparesTaken_left bank cs y hy
      exact hr (List.mem_append_right _ (List.mem_singleton.mpr rfl))

theorem State.sparesTaken_length (bank : Nat) (cs : List Bool) : (s.sparesTaken bank cs).length ≤ cs.length := by
  induction cs generalizing s with
  | nil => exact le_rfl
  | cons c cs ih =>
    unfold State.sparesTaken
    cases s.spare bank c with
    | none => exact (ih s).trans (Nat.le_succ _)
    | some y => exact Nat.succ_le_succ (ih _)

/-- Once a bank has no spare left, no cell takes one. -/
theorem State.sparesTaken_none (bank : Nat) (c : Bool) (h : s.spare bank c = none) (cs : List Bool) :
    s.sparesTaken bank cs = [] := by
  induction cs with
  | nil => rfl
  | cons d cs ih => unfold State.sparesTaken; rw [s.spare_none bank c d h]; exact ih

/-- Where some cell was left without a spare, none is left. -/
theorem State.spare_exhausted (bank : Nat) (cs : List Bool) (h : (s.sparesTaken bank cs).length < cs.length)
    (d : Bool) : (s.repaired (s.sparesTaken bank cs)).spare bank d = none := by
  induction cs generalizing s with
  | nil => exact absurd h (by simp [State.sparesTaken])
  | cons c cs ih =>
    unfold State.sparesTaken at h ⊢
    cases hc : s.spare bank c with
    | none =>
      rw [hc] at h
      dsimp only
      rw [s.sparesTaken_none bank c hc cs, s.repaired_nil]
      exact s.spare_none bank c d hc
    | some y =>
      rw [hc] at h
      dsimp only at h ⊢
      have := ih (s.repaired [y]) (Nat.lt_of_succ_lt_succ h)
      rw [State.repaired_repaired] at this
      exact this

theorem State.sparesTaken_single (bank : Nat) (c : Bool) : s.sparesTaken bank [c] = (s.spare bank c).toList := by
  unfold State.sparesTaken
  cases s.spare bank c <;> rfl

/-! ### What their taking writes -/

theorem State.Raises.setBist {s t : State} (h : s.Raises t but) (g : Bist → Bist) :
    (s.setBist g).Raises (t.setBist g) but where
  rest := (congrArg (fun x : State => x.setBist g) h.rest :)
  word := h.word
  training := h.training
  raised := h.raised

/-- The words that the end of a segment's test may change. -/
def cellWord (p o : Nat) : Prop := (p = pgBST ∧ (o = 0x050 ∨ o = 0x054)) ∨ evWords pgBST p o

/-- A failing cell takes its spare. -/
theorem State.cellFails_some (i : Nat) (c : Bool) (x : Repair) (h : s.spare ((i - 96) / 64) c = some x) :
    s.cellFails i c = ((s.repaired [x]).wr pgBST BST_REPAIRS_SOFT (s.bist.repairs.length + 1)).raise pgBST 1 := by
  unfold State.cellFails
  rw [h]
  dsimp only
  rw [List.length_append]
  rfl

/-- A failing cell finds no spare. -/
theorem State.cellFails_none (i : Nat) (c : Bool) (h : s.spare ((i - 96) / 64) c = none) :
    s.cellFails i c = (s.wr pgBST BST_FAIL_EXHAUSTED 1).sliceFailed i 2 := by
  unfold State.cellFails; rw [h]

/-- The words that a failure's report may change. -/
def failWord (p o : Nat) : Prop := (p = pgBST ∧ o = 0x050) ∨ evWords pgBST p o

/-- The words that a repair's report may change. -/
def softWord (p o : Nat) : Prop := (p = pgBST ∧ o = 0x054) ∨ evWords pgBST p o

theorem failWord_cell (p o : Nat) (h : failWord p o) : cellWord p o := h.imp (fun h => ⟨h.1, .inl h.2⟩) id

theorem softWord_cell (p o : Nat) (h : softWord p o) : cellWord p o := h.imp (fun h => ⟨h.1, .inr h.2⟩) id

theorem softWord_not_fail : ¬ softWord pgBST 0x050 := by
  rintro (h | h)
  · exact absurd h.2 (by decide)
  · unfold evWords pgBST pgGBK at h; omega

theorem failWord_not_soft : ¬ failWord pgBST 0x054 := by
  rintro (h | h)
  · exact absurd h.2 (by decide)
  · unfold evWords pgBST pgGBK at h; omega

theorem State.sliceFailed_raises (i kind : Nat) : s.Raises (s.sliceFailed i kind) failWord :=
  ((s.wr_raises _ _ BST_FAIL_SLICE (by decide) (by decide) (.inl ⟨rfl, rfl⟩)).trans
    (State.wr_raises _ _ _ BST_FAIL_KIND (by decide) (by decide) (.inl ⟨rfl, rfl⟩))).trans
    ((State.raise_bst_raises _ 0).mono fun _ _ => .inr)

/-- A failed slice is shown with its kind, and its event raised. -/
theorem State.sliceFailed_shows (i kind : Nat) (hi : i < 4224) (hk : kind < 4) :
    (s.sliceFailed i kind).rd pgBST BST_FAIL_SLICE = i ∧ (s.sliceFailed i kind).rd pgBST BST_FAIL_KIND = kind ∧
    (s.sliceFailed i kind).Raised pgBST 0 := by
  unfold State.sliceFailed
  refine ⟨?_, ?_, State.raise_bst_raised _ 0 (by decide)⟩
  · rw [State.raise_rd _ _ _ _ _ (by decide) (by unfold evWords; decide),
      State.rd_wr_apart _ _ BST_FAIL_KIND BST_FAIL_SLICE (by decide) (by decide) rfl (by decide),
      State.rd_wr _ _ _ (by decide)]
    exact Nat.mod_eq_of_lt (hi.trans (by decide))
  · rw [State.raise_rd _ _ _ _ _ (by decide) (by unfold evWords; decide), State.rd_wr _ _ _ (by decide)]
    exact Nat.mod_eq_of_lt hk

theorem State.sliceFailed_exhausted (i kind : Nat) :
    (s.sliceFailed i kind).bit pgBST BST_FAIL_EXHAUSTED = s.bit pgBST BST_FAIL_EXHAUSTED := by
  unfold State.sliceFailed State.bit
  rw [State.raise_rd _ _ _ _ _ (by decide) (by unfold evWords; decide),
    State.rd_wr_apart _ _ BST_FAIL_KIND BST_FAIL_EXHAUSTED (by decide) (by decide) rfl (by decide),
    State.rd_wr_apart _ _ BST_FAIL_SLICE BST_FAIL_EXHAUSTED (by decide) (by decide) rfl (by decide)]

theorem State.spareUsed_raises (n : Nat) : s.Raises ((s.wr pgBST BST_REPAIRS_SOFT n).raise pgBST 1) softWord :=
  (s.wr_raises _ _ BST_REPAIRS_SOFT (by decide) (by decide) (.inl ⟨rfl, rfl⟩)).trans
    ((State.raise_bst_raises _ 1).mono fun _ _ => .inr)

theorem State.spareUsed_soft (n : Nat) :
    ((s.wr pgBST BST_REPAIRS_SOFT n).raise pgBST 1).rd pgBST BST_REPAIRS_SOFT = n % 2 ^ 16 := by
  rw [State.raise_rd _ _ _ _ _ (by decide) (by unfold evWords; decide), State.rd_wr _ _ _ (by decide)]
  rfl

theorem State.unspared_raises (i : Nat) :
    s.Raises ((s.wr pgBST BST_FAIL_EXHAUSTED 1).sliceFailed i 2) failWord :=
  (s.wr_raises _ _ BST_FAIL_EXHAUSTED (by decide) (by decide) (.inl ⟨rfl, rfl⟩)).trans
    (State.sliceFailed_raises _ i 2)

/-- A segment's failing cells: but for the spares they take, only events and the words of failures and repairs. -/
theorem State.cellsFail_raises (i : Nat) (cs : List Bool) :
    (s.repaired (s.sparesTaken ((i - 96) / 64) cs)).Raises (cs.foldl (fun t c => t.cellFails i c) s) cellWord := by
  induction cs generalizing s with
  | nil => rw [State.sparesTaken, s.repaired_nil]; exact .refl s _
  | cons c cs ih =>
    rw [List.foldl_cons]
    cases hc : s.spare ((i - 96) / 64) c with
    | none =>
      have hr := s.unspared_raises i
      have hb : ((s.wr pgBST BST_FAIL_EXHAUSTED 1).sliceFailed i 2).bist = s.bist := hr.bist
      have htail := ih (s.cellFails i c)
      rw [s.cellFails_none i c hc, State.sparesTaken_congr hb] at htail
      rw [State.sparesTaken, hc, s.cellFails_none i c hc]
      exact ((hr.mono failWord_cell).setBist _).trans htail
    | some x =>
      have hr := (s.repaired [x]).spareUsed_raises (s.bist.repairs.length + 1)
      have hb : (((s.repaired [x]).wr pgBST BST_REPAIRS_SOFT (s.bist.repairs.length + 1)).raise pgBST 1).bist =
        (s.repaired [x]).bist := hr.bist
      have htail := ih (s.cellFails i c)
      rw [s.cellFails_some i c x hc, State.sparesTaken_congr hb] at htail
      rw [State.sparesTaken, hc, s.cellFails_some i c x hc]
      dsimp only
      rw [← List.singleton_append, ← State.repaired_repaired]
      exact ((hr.mono softWord_cell).setBist _).trans htail

/-- Where no spare is left, the failing cells write no repair. -/
theorem State.cellsFail_untaken (i : Nat) (cs : List Bool) (h : s.sparesTaken ((i - 96) / 64) cs = []) :
    s.Raises (cs.foldl (fun t c => t.cellFails i c) s) failWord := by
  induction cs generalizing s with
  | nil => exact .refl s _
  | cons c cs ih =>
    unfold State.sparesTaken at h
    cases hc : s.spare ((i - 96) / 64) c with
    | some x => rw [hc] at h; cases h
    | none =>
      rw [hc] at h
      have hr := s.unspared_raises i
      rw [List.foldl_cons, s.cellFails_none i c hc]
      exact hr.trans (ih _ ((State.sparesTaken_congr hr.bist _ cs).trans h))

/-- Spares have been taken: the event stands, and their number is shown. -/
theorem State.cellsFail_soft (i : Nat) (cs : List Bool) (h : s.sparesTaken ((i - 96) / 64) cs ≠ []) :
    (cs.foldl (fun t c => t.cellFails i c) s).Raised pgBST 1 ∧
    (cs.foldl (fun t c => t.cellFails i c) s).rd pgBST BST_REPAIRS_SOFT =
      (s.bist.repairs.length + (s.sparesTaken ((i - 96) / 64) cs).length) % 2 ^ 16 := by
  induction cs generalizing s with
  | nil => exact absurd rfl h
  | cons c cs ih =>
    unfold State.sparesTaken at h ⊢
    rw [List.foldl_cons]
    cases hc : s.spare ((i - 96) / 64) c with
    | none =>
      have hb : ((s.wr pgBST BST_FAIL_EXHAUSTED 1).sliceFailed i 2).bist = s.bist :=
        (s.unspared_raises i).bist
      have htail := ih (s.cellFails i c)
      rw [s.cellFails_none i c hc, State.sparesTaken_congr hb, hb] at htail
      rw [hc] at h
      rw [s.cellFails_none i c hc]
      exact htail h
    | some x =>
      have hb : (((s.repaired [x]).wr pgBST BST_REPAIRS_SOFT (s.bist.repairs.length + 1)).raise pgBST 1).bist =
        (s.repaired [x]).bist := (State.spareUsed_raises _ _).bist
      have hlen : (s.repaired [x]).bist.repairs.length = s.bist.repairs.length + 1 := List.length_append
      rw [s.cellFails_some i c x hc]
      by_cases hrest : (s.repaired [x]).sparesTaken ((i - 96) / 64) cs = []
      · have hr := State.cellsFail_untaken _ i cs ((State.sparesTaken_congr hb _ cs).trans hrest)
        dsimp only
        rw [hrest, hr.keeps.rd _ _ (by decide) failWord_not_soft, State.spareUsed_soft]
        exact ⟨hr.raised _ _ (State.raise_bst_raised _ 1 (by decide)), rfl⟩
      · have htail := ih (s.cellFails i c)
        rw [s.cellFails_some i c x hc, State.sparesTaken_congr hb, hb, hlen] at htail
        obtain ⟨hraised, hsoft⟩ := htail hrest
        refine ⟨hraised, hsoft.trans ?_⟩
        dsimp only
        rw [List.length_cons, Nat.add_assoc, Nat.add_comm 1]

/-! ### Cells that find no spare -/

/-- A cell has found no spare: the failure is shown, and its event stands. -/
structure State.Unspared (s : State) (i : Nat) : Prop where
  exhausted : s.bit pgBST BST_FAIL_EXHAUSTED = true
  slice : s.rd pgBST BST_FAIL_SLICE = i
  kind : s.rd pgBST BST_FAIL_KIND = 2
  raised : s.Raised pgBST 0

theorem State.cellFails_unspared (i : Nat) (hi : i < 4224) (c : Bool) (h : s.spare ((i - 96) / 64) c = none) :
    (s.cellFails i c).Unspared i := by
  obtain ⟨hslice, hkind, hraised⟩ := (s.wr pgBST BST_FAIL_EXHAUSTED 1).sliceFailed_shows i 2 hi (by decide)
  rw [s.cellFails_none i c h]
  exact ⟨by rw [State.sliceFailed_exhausted, State.bit_wr _ _ _ (by decide)]; rfl, hslice, hkind, hraised⟩

variable {s} in
/-- What leaves the failure's word, and events that stand, leaves the failure. -/
theorem State.Unspared.keep {i : Nat} (h : s.Unspared i) (hr : s.Raises t softWord) : t.Unspared i where
  exhausted := (hr.keeps.bit _ _ (by decide) softWord_not_fail).trans h.exhausted
  slice := (hr.keeps.rd _ _ (by decide) softWord_not_fail).trans h.slice
  kind := (hr.keeps.rd _ _ (by decide) softWord_not_fail).trans h.kind
  raised := hr.raised _ _ h.raised

variable {s} in
theorem State.Unspared.cells {i : Nat} (hi : i < 4224) (cs : List Bool) (h : s.Unspared i) :
    (cs.foldl (fun t c => t.cellFails i c) s).Unspared i := by
  induction cs generalizing s with
  | nil => exact h
  | cons c cs ih =>
    refine ih (?_ : (s.cellFails i c).Unspared i)
    cases hc : s.spare ((i - 96) / 64) c with
    | none => exact s.cellFails_unspared i hi c hc
    | some x =>
      rw [s.cellFails_some i c x hc]
      exact State.Unspared.keep (s := s.repaired [x]) ⟨h.exhausted, h.slice, h.kind, h.raised⟩
        (State.spareUsed_raises _ _)

/-- Fewer spares than cells: the failure is shown. -/
theorem State.cellsFail_short (i : Nat) (hi : i < 4224) (cs : List Bool)
    (h : (s.sparesTaken ((i - 96) / 64) cs).length < cs.length) :
    (cs.foldl (fun t c => t.cellFails i c) s).Unspared i := by
  induction cs generalizing s with
  | nil => exact absurd h (Nat.not_lt_zero _)
  | cons c cs ih =>
    unfold State.sparesTaken at h
    rw [List.foldl_cons]
    cases hc : s.spare ((i - 96) / 64) c with
    | none => exact (s.cellFails_unspared i hi c hc).cells hi cs
    | some x =>
      rw [hc] at h
      refine ih _ ?_
      rw [s.cellFails_some i c x hc, State.sparesTaken_congr (State.spareUsed_raises _ _).bist]
      exact Nat.lt_of_succ_lt_succ h

/-- A spare for every cell: no failure is shown. -/
theorem State.cellsFail_spared (i : Nat) (cs : List Bool)
    (h : (s.sparesTaken ((i - 96) / 64) cs).length = cs.length) :
    (cs.foldl (fun t c => t.cellFails i c) s).word pgBST 0x050 = s.word pgBST 0x050 := by
  induction cs generalizing s with
  | nil => rfl
  | cons c cs ih =>
    unfold State.sparesTaken at h
    rw [List.foldl_cons]
    cases hc : s.spare ((i - 96) / 64) c with
    | none =>
      rw [hc] at h
      have := s.sparesTaken_length ((i - 96) / 64) cs
      dsimp only at h
      exact absurd h (by rw [List.length_cons]; omega)
    | some x =>
      rw [hc] at h
      have hr := (s.repaired [x]).spareUsed_raises (s.bist.repairs.length + 1)
      refine (ih _ ?_).trans ?_
      · rw [s.cellFails_some i c x hc, State.sparesTaken_congr hr.bist]
        exact Nat.succ.inj h
      · rw [s.cellFails_some i c x hc]
        exact hr.word _ _ (by decide) softWord_not_fail

end Sys2Proof.Machine
end

section
/-! PROOFS. The end of a slice (R375, R376, R378). -/

namespace Sys2Proof.Machine

variable {t : State} {but : Nat → Nat → Prop} (s : State)

/-! ### A kiosk's slice (R375) -/

/-- A failed kiosk is shown, with both events. -/
def State.kioskFailed (s : State) (k : Nat) : State :=
  ({ s.sliceFailed k 1 with follies := s.follies }).raise pgBST 2

theorem State.kioskSlice_failed (k : Nat) (h : s.follies = []) :
    s.kioskSlice k true = ((s.kioskFailed k).retireKiosk k true).setOut k WK_OUT_BIST false := by
  unfold State.kioskSlice
  rw [State.follyOn_calm h]
  rfl

theorem State.kioskSlice_sound (k : Nat) (h : s.follies = []) :
    s.kioskSlice k false = s.setOut k WK_OUT_BIST false := by
  unfold State.kioskSlice
  rw [State.follyOn_calm h]
  rfl

theorem State.kioskFailed_raises (k : Nat) : s.Raises (s.kioskFailed k) failWord := by
  have hmarks : (s.sliceFailed k 1).Raises { s.sliceFailed k 1 with follies := s.follies } failWord :=
    ⟨rfl, fun _ _ _ _ => rfl, rfl, fun _ _ h => h⟩
  exact ((s.sliceFailed_raises k 1).trans hmarks).trans ((State.raise_bst_raises _ 2).mono fun _ _ => .inr)

theorem State.kioskFailed_shows (k : Nat) (hk : k < 96) : (s.kioskFailed k).rd pgBST BST_FAIL_SLICE = k ∧
    (s.kioskFailed k).rd pgBST BST_FAIL_KIND = 1 ∧ (s.kioskFailed k).Raised pgBST 0 ∧
    (s.kioskFailed k).Raised pgBST 2 := by
  obtain ⟨hslice, hkind, hraised⟩ := s.sliceFailed_shows k 1 (by omega) (by decide)
  unfold State.kioskFailed
  refine ⟨?_, ?_, (State.raise_bst_raises _ 2).raised _ _ hraised, State.raise_bst_raised _ 2 (by decide)⟩
  · rw [State.raise_rd _ _ _ _ _ (by decide) (by unfold evWords; decide)]
    exact hslice
  · rw [State.raise_rd _ _ _ _ _ (by decide) (by unfold evWords; decide)]
    exact hkind

theorem failWord_judge (p o : Nat) (h : failWord p o) : judgeWord p o :=
  h.elim (fun h => .inl ⟨h.1, .inl h.2⟩) (fun h => .inr (.inl h))

theorem poolWord_judge (p o : Nat) (h : poolWord p o) : judgeWord p o := .inr (.inr h)

theorem State.setOut_pools (k : Nat) (hk : k < 96) (f : Fld) (hf : f.Sound) (ho : f.off = 0x05C) (b : Bool) :
    s.Pools (s.setOut k f b) poolWord :=
  s.setOuts_pools [k] f hf ho b fun _ hj => (List.mem_singleton.mp hj).symm ▸ hk

theorem State.setOut_bit (k : Nat) (hk : k < 96) (f : Fld) (hf : f.Sound) (ho : f.off = 0x05C) (b : Bool) :
    (s.setOut k f b).bit (pgKSK k) f = b :=
  s.setOuts_bit [k] f hf ho (fun _ hj => (List.mem_singleton.mp hj).symm ▸ hk) (List.nodup_singleton k) k
    (List.mem_singleton.mpr rfl) b

theorem State.setOut_retired (k : Nat) (hk : k < 96) (b : Bool) :
    (s.setOut k WK_OUT_BIST b).bit (pgKSK k) WK_OUT_RETIRED = s.bit (pgKSK k) WK_OUT_RETIRED :=
  s.setOuts_apart [k] WK_OUT_BIST (by decide) rfl (fun _ hj => (List.mem_singleton.mp hj).symm ▸ hk)
    (List.nodup_singleton k) k (List.mem_singleton.mpr rfl) b WK_OUT_RETIRED (by decide) rfl (by decide)

theorem State.kioskSlice_pools (k : Nat) (hk : k < 96) (failed : Bool) (h : s.follies = []) :
    s.Pools (s.kioskSlice k failed) judgeWord := by
  cases failed
  · rw [s.kioskSlice_sound k h]
    exact (s.setOut_pools k hk _ (by decide) rfl false).mono poolWord_judge
  · rw [s.kioskSlice_failed k h]
    exact ((s.kioskFailed_raises k).pools.mono failWord_judge).trans
      (((State.retireKiosk_pools _ k hk true).trans (State.setOut_pools _ k hk _ (by decide) rfl false)).mono
        poolWord_judge)

/-- The kiosk is no longer withdrawn for its slice. -/
theorem State.kioskSlice_returns (k : Nat) (hk : k < 96) (failed : Bool) (h : s.follies = []) :
    (s.kioskSlice k failed).bit (pgKSK k) WK_OUT_BIST = false := by
  cases failed
  · rw [s.kioskSlice_sound k h]; exact State.setOut_bit _ k hk _ (by decide) rfl false
  · rw [s.kioskSlice_failed k h]; exact State.setOut_bit _ k hk _ (by decide) rfl false

theorem State.kioskSlice_retires (k : Nat) (hk : k < 96) (h : s.follies = []) :
    (s.kioskSlice k true).bit (pgKSK k) WK_OUT_RETIRED = true ∧
    (s.kioskSlice k true).rd pgBST BST_FAIL_SLICE = k ∧ (s.kioskSlice k true).rd pgBST BST_FAIL_KIND = 1 ∧
    (s.kioskSlice k true).Raised pgBST 0 ∧ (s.kioskSlice k true).Raised pgBST 2 := by
  have hpools := ((s.kioskFailed k).retireKiosk_pools k hk true).trans
    (State.setOut_pools _ k hk WK_OUT_BIST (by decide) rfl false)
  obtain ⟨hslice, hkind, h0, h2⟩ := s.kioskFailed_shows k hk
  rw [s.kioskSlice_failed k h]
  refine ⟨?_, ?_, ?_, hpools.raised _ _ h0, hpools.raised _ _ h2⟩
  · rw [State.setOut_retired _ k hk, State.retireKiosk_retired _ k hk]
  · rw [hpools.rd _ _ (by decide) (poolWord_not _ _ (.inl rfl)), hslice]
  · rw [hpools.rd _ _ (by decide) (poolWord_not _ _ (.inl rfl)), hkind]

/-! ### The end of a slice -/

/-- A slice is judged: a kiosk's, a segment's or a port's. -/
def State.sliceJudged (s : State) (i : Nat) (failed : Bool) (cells : List Bool) : State :=
  if i < 96 then s.kioskSlice i failed
  else if i < 4192 then s.sramSlice i cells
  else if failed then s.sliceFailed i 3
  else s

theorem State.exec_sliceEnd (i : Nat) (failed : Bool) (cells : List Bool) (h : s.bist.slice = some i) :
    exec (.sliceEnd failed cells) s = .next ((s.fresh.sliceJudged i failed cells).sliceOver i) := by
  have he : exec (.sliceEnd failed cells) s = .next (match s.bist.slice with
      | none => s.fresh
      | some i => (s.fresh.sliceJudged i failed cells).sliceOver i) := rfl
  rw [he, h]

/-- BIST's page, and the words of its events. -/
def bistOnly (p o : Nat) : Prop := p = pgBST ∨ evWords pgBST p o

theorem cellWord_only (p o : Nat) (h : cellWord p o) : bistOnly p o := h.imp And.left id

theorem overWord_only (p o : Nat) (h : overWord p o) : bistOnly p o := .inl h.1

theorem overWord_not (p o : Nat) (h : p ≠ pgBST ∨ o = 0x014 ∨ o = 0x050 ∨ o = 0x054) : ¬ overWord p o := by
  unfold overWord; omega

theorem State.sliceOver_rd (i : Nat) (f : Fld) (h : f.off = 0x014 ∨ f.off = 0x050 ∨ f.off = 0x054) :
    (s.sliceOver i).rd pgBST f = s.rd pgBST f :=
  (s.sliceOver_over i).rd pgBST f (by omega) (overWord_not _ _ (.inr h))

theorem State.sliceOver_kioskBit (i k : Nat) (f : Fld) (h : f.off < 4096) :
    (s.sliceOver i).bit (pgKSK k) f = s.bit (pgKSK k) f :=
  (s.sliceOver_over i).bit _ f h (overWord_not _ _ (.inl (by unfold pgKSK pgBST; omega)))

/-- A kiosk's slice at its end. -/
theorem State.sliceEnd_kiosk (i : Nat) (failed : Bool) (cells : List Bool) (hi : i < 96) (hf : s.follies = []) :
    let a := s.sliceJudged i failed cells
    let t := a.sliceOver i
    s.Judged a ∧ t.bit (pgKSK i) WK_OUT_BIST = false ∧
      (failed = false → t.bit (pgKSK i) WK_OUT_RETIRED = s.bit (pgKSK i) WK_OUT_RETIRED) ∧
      (failed = true → t.bit (pgKSK i) WK_OUT_RETIRED = true ∧ t.rd pgBST BST_FAIL_SLICE = i ∧
        t.rd pgBST BST_FAIL_KIND = 1 ∧ t.Raised pgBST 0 ∧ t.Raised pgBST 2) := by
  have ha : s.sliceJudged i failed cells = s.kioskSlice i failed := if_pos hi
  dsimp only
  rw [ha]
  refine ⟨(s.kioskSlice_pools i hi failed hf).judged, ?_, ?_, ?_⟩
  · rw [State.sliceOver_kioskBit _ _ _ _ (by decide), s.kioskSlice_returns i hi failed hf]
  · rintro rfl
    rw [State.sliceOver_kioskBit _ _ _ _ (by decide), s.kioskSlice_sound i hf, State.setOut_retired _ i hi]
  · rintro rfl
    obtain ⟨hret, hslice, hkind, h0, h2⟩ := s.kioskSlice_retires i hi hf
    refine ⟨?_, ?_, ?_, State.sliceOver_raised _ i _ _ h0, State.sliceOver_raised _ i _ _ h2⟩
    · rw [State.sliceOver_kioskBit _ _ _ _ (by decide), hret]
    · rw [State.sliceOver_rd _ _ _ (.inr (.inl rfl)), hslice]
    · rw [State.sliceOver_rd _ _ _ (.inr (.inl rfl)), hkind]

theorem cellWord_judge (p o : Nat) (h : cellWord p o) : judgeWord p o := h.imp id .inl

theorem State.sramSlice_calm (i : Nat) (cells : List Bool) (hf : s.follies = []) :
    s.sramSlice i cells = cells.foldl (fun t c => t.cellFails i c) s := by
  unfold State.sramSlice
  rw [State.follyOn_calm hf]
  rfl

/-- A segment's slice at its end. -/
theorem State.sliceEnd_segment (i : Nat) (failed : Bool) (cells : List Bool) (h96 : 96 ≤ i) (hi : i < 4192)
    (hf : s.follies = []) :
    let a := s.sliceJudged i failed cells
    a = cells.foldl (fun t c => t.cellFails i c) s ∧
    (s.repaired (s.sparesTaken ((i - 96) / 64) cells)).Raises a cellWord ∧ s.Judged a := by
  have ha : s.sliceJudged i failed cells = cells.foldl (fun t c => t.cellFails i c) s := by
    unfold State.sliceJudged
    rw [if_neg (by omega), if_pos hi, s.sramSlice_calm i cells hf]
  have hr := s.cellsFail_raises i cells
  have hj := (hr.pools.mono cellWord_judge).judged
  dsimp only
  rw [ha]
  exact ⟨rfl, hr, hj.mem, hj.now, hj.forced, hj.rotFrom, hj.sliceFrom, hj.word⟩

theorem State.sliceEnd_port (i : Nat) (failed : Bool) (cells : List Bool) (hi : 4192 ≤ i) :
    s.sliceJudged i failed cells = if failed then s.sliceFailed i 3 else s := by
  unfold State.sliceJudged
  rw [if_neg (by omega), if_neg (by omega)]

theorem State.sliceEnd_port_raises (i : Nat) (failed : Bool) (cells : List Bool) (hi : 4192 ≤ i) :
    s.Raises (s.sliceJudged i failed cells) cellWord := by
  rw [s.sliceEnd_port i failed cells hi]
  split
  · exact (s.sliceFailed_raises i 3).mono failWord_cell
  · exact .refl s _

/-- Beyond the kiosks' slices, only BIST's page and the words of its events change. -/
theorem State.sliceEnd_only (i : Nat) (failed : Bool) (cells : List Bool) (h96 : 96 ≤ i) (hf : s.follies = []) :
    s.Keeps ((s.sliceJudged i failed cells).sliceOver i) bistOnly := by
  have ha : s.Keeps (s.sliceJudged i failed cells) bistOnly := by
    by_cases hi : i < 4192
    · obtain ⟨-, hr, -⟩ := s.sliceEnd_segment i failed cells h96 hi hf
      exact (State.Keeps.of_regs bistOnly ⟨rfl, rfl, rfl, rfl, rfl, rfl, rfl, rfl, rfl⟩ rfl :
        s.Keeps (s.repaired (s.sparesTaken ((i - 96) / 64) cells)) bistOnly).trans (hr.keeps.mono cellWord_only)
    · exact (s.sliceEnd_port_raises i failed cells (by omega)).keeps.mono cellWord_only
  exact ha.trans ((State.sliceOver_over _ i).mono overWord_only)

theorem State.sliceEnd_judged (i : Nat) (failed : Bool) (cells : List Bool) (hf : s.follies = []) :
    s.Judged (s.sliceJudged i failed cells) := by
  by_cases h96 : i < 96
  · exact (s.sliceEnd_kiosk i failed cells h96 hf).1
  · by_cases hi : i < 4192
    · exact (s.sliceEnd_segment i failed cells (by omega) hi hf).2.2
    · exact ((s.sliceEnd_port_raises i failed cells (by omega)).pools.mono cellWord_judge).judged

end Sys2Proof.Machine
end

section
/-! PROOFS. The start of a slice (R374–R376), and the rotation's other events and commands (R375, R389). -/

namespace Sys2Proof.Machine

variable {t : State} (s : State)

/-! ### The start of a slice -/

theorem State.sliceWrap_wraps (h : s.sliceNext = none ∧ s.sliceFrom 0 ≠ none) : s.sliceWrap = s.rotated := by
  unfold State.sliceWrap
  rw [h.1, if_pos (by rw [Option.isSome_iff_ne_none.mpr h.2]; rfl)]

theorem State.sliceWrap_stays (h : ¬ (s.sliceNext = none ∧ s.sliceFrom 0 ≠ none)) : s.sliceWrap = s := by
  unfold State.sliceWrap
  rw [if_neg]
  intro hc
  obtain ⟨h1, h2⟩ := Bool.and_eq_true_iff.mp hc
  exact h ⟨Option.isNone_iff_eq_none.mp h1, Option.isSome_iff_ne_none.mp h2⟩

theorem State.fresh_sliceFrom : s.fresh.sliceFrom = s.sliceFrom := State.sliceFrom_congr rfl

theorem State.fresh_sliceNext : s.fresh.sliceNext = s.sliceNext := congrFun s.fresh_sliceFrom _

theorem State.fresh_sliceDue : s.fresh.sliceDue = s.sliceDue := by
  have h : s.fresh.sliceSkipped = s.sliceSkipped := rfl
  have hb : s.fresh.bist = s.bist := rfl
  unfold State.sliceDue
  rw [s.fresh_sliceNext, h, hb]

theorem State.fresh_wr (p v : Nat) (f : Fld) : s.fresh.wr p f v = (s.wr p f v).fresh := rfl

theorem State.fresh_setBist (g : Bist → Bist) : s.fresh.setBist g = (s.setBist g).fresh := rfl

theorem State.fresh_rotated : s.fresh.rotated = s.rotated.fresh := by
  have hc : s.fresh.rotCounted = s.rotCounted.fresh := rfl
  have hn : s.fresh.now = s.now := rfl
  rw [State.rotated_eq, State.rotated_eq, hc, hn, s.fresh_sliceFrom, State.fresh_wr, State.fresh_wr,
    State.fresh_setBist]

theorem State.fresh_sliceWrap : s.fresh.sliceWrap = s.sliceWrap.fresh := by
  unfold State.sliceWrap
  rw [s.fresh_sliceNext, s.fresh_sliceFrom, s.fresh_rotated]
  split <;> rfl

/-- Only registers of BIST's page and its record of the rotation differ. -/
theorem State.sliceWrap_shape : ∃ x y, s.sliceWrap = { s with regs := x, bist := { s.bist with rotFrom := y } } := by
  by_cases h : s.sliceNext = none ∧ s.sliceFrom 0 ≠ none
  · obtain ⟨x, hx⟩ := s.rotated_shape
    rw [s.sliceWrap_wraps h, hx]
    exact ⟨x, s.now, rfl⟩
  · rw [s.sliceWrap_stays h]
    exact ⟨s.regs, s.bist.rotFrom, rfl⟩

theorem State.sliceWrap_over : s.Keeps s.sliceWrap overWord := by
  by_cases h : s.sliceNext = none ∧ s.sliceFrom 0 ≠ none
  · rw [s.sliceWrap_wraps h]; exact s.rotated_over
  · rw [s.sliceWrap_stays h]; exact .refl s _

theorem State.sliceWrap_deferred : s.sliceWrap.rd pgBST BST_POS_DEFERRED = s.rd pgBST BST_POS_DEFERRED := by
  by_cases h : s.sliceNext = none ∧ s.sliceFrom 0 ≠ none
  · rw [s.sliceWrap_wraps h]; exact s.rotated_deferred
  · rw [s.sliceWrap_stays h]

theorem State.sliceMoved_congr (h : t.bist.moved = s.bist.moved) : t.sliceMoved = s.sliceMoved := by
  funext i; unfold State.sliceMoved; rw [h]

/-- The lines that are ready for a head are read from the ribbons, the schedules and the streams. -/
theorem State.readyLines_congr (hi : t.ing = s.ing) (hh : t.hsc = s.hsc) (hr : t.stmRan = s.stmRan) :
    t.readyLines = s.readyLines := by
  have hof : t.hscOf = s.hscOf := by funext h; unfold State.hscOf; rw [hh]
  have hrib : t.ribOf = s.ribOf := by funext h; unfold State.ribOf; rw [hi]
  funext h
  unfold State.readyLines State.lineComplete State.notDone State.planeDone
  rw [hof, hrib, hr]

/-- A port's panic is not read from BIST's page. -/
theorem State.portPanic_sliceWrap : s.sliceWrap.portPanic = s.portPanic := by
  obtain ⟨x, y, hxy⟩ := s.sliceWrap_shape
  have hw : ∀ p o, o < 4096 → p ≠ pgBST → s.sliceWrap.word p o = s.word p o := fun p o ho hp =>
    s.sliceWrap_over.word p o ho (overWord_not p o (.inl hp))
  have hing : s.sliceWrap.ing = s.ing := by rw [hxy]
  have hhsc : s.sliceWrap.hsc = s.hsc := by rw [hxy]
  have hpart : s.sliceWrap.part = s.part := by rw [hxy]
  have hsdl : s.sliceWrap.sdl = s.sdl := by rw [hxy]
  have hcam : s.sliceWrap.camPanic = s.camPanic := by rw [hxy]; rfl
  have hran : s.sliceWrap.stmRan = s.stmRan := by
    have hst : ∀ i, s.sliceWrap.stmRunning i = s.stmRunning i := fun i => by
      unfold State.stmRunning State.stmState State.rd
      rw [hw _ _ (by decide) (by unfold pgSTM pgBST; omega)]
    have hnow : s.sliceWrap.now = s.now ∧ s.sliceWrap.stm = s.stm := by rw [hxy]; exact ⟨rfl, rfl⟩
    funext i
    unfold State.stmRan
    rw [hst, hnow.1, hnow.2]
  have hforward : s.sliceWrap.forward = s.forward := by
    unfold State.forward State.sdlState State.bit State.rd
    rw [hw pgSDL UNIT_CTRL_ENABLE.off (by decide) (by decide), hw pgSDL SDL_STATUS_HALT_LATCHED.off (by decide) (by decide),
      hsdl]
  have hlimit : s.sliceWrap.rd pgDRC DRC_PANIC_RIB_LINES = s.rd pgDRC DRC_PANIC_RIB_LINES :=
    congrArg DRC_PANIC_RIB_LINES.get (hw _ _ (by decide) (by decide))
  have hready := State.readyLines_congr s hing hhsc hran
  have hof : s.sliceWrap.hscOf = s.hscOf := by funext h; unfold State.hscOf; rw [hhsc]
  funext p
  unfold State.portPanic
  rw [hpart, hof, hforward, hready, hlimit, hing, hcam]

theorem State.sliceWaits_sliceWrap : s.sliceWrap.sliceWaits = s.sliceWaits := by
  funext i; unfold State.sliceWaits; rw [s.portPanic_sliceWrap]

/-- A slice whose region was in use for the eighth time is counted, and is no longer waited for. -/
def State.sliceSkips (s : State) : State :=
  (s.incSat pgBST BST_POS_DEFERRED).setBist (fun b => { b with waits := 0 })

theorem State.sliceSkips_bist : s.sliceSkips.bist = { s.bist with waits := 0 } := by
  have h : (s.incSat pgBST BST_POS_DEFERRED).bist = s.bist := by rw [State.incSat_eq, State.addSat_eq, State.wr_bist]
  unfold State.sliceSkips State.setBist
  rw [h]

/-- What the period of the slice due brings (R374–R376). -/
def State.bistPeriod (t : State) (i : Nat) : State :=
  if t.sliceMoved i then t.setBist (fun b => { b with moved := b.moved.filter (· != i - 96) })
  else if t.sliceWaits i then
    if t.bist.waits + 1 < 8 then t.setBist (fun b => { b with waits := b.waits + 1 })
    else
      if t.sliceSkips.bist.forced = some i then t.sliceSkips.setBist (fun b => { b with forced := none })
      else t.sliceSkips.slicePast i
  else t.sliceBegin i

theorem State.exec_sliceStart (i : Nat) (hen : s.bit pgBST UNIT_CTRL_ENABLE = true) (hgkp : s.wrd.gkp = .running)
    (hidle : s.bist.slice = none) (hdue : s.sliceWrap.sliceDue = some i) :
    exec .sliceStart s = .next (s.sliceWrap.fresh.bistPeriod i) := by
  have he : exec .sliceStart s = .next (s.fresh.onlyIf
      (s.bit pgBST UNIT_CTRL_ENABLE && s.wrd.gkp == .running && s.bist.slice.isNone)
      (fun t0 => match t0.sliceWrap.sliceDue with
        | none => t0.sliceWrap
        | some i => t0.sliceWrap.bistPeriod i)) := rfl
  rw [he, State.onlyIf_true _ _ _ (by rw [hen, hgkp, hidle]; rfl), s.fresh_sliceWrap, State.fresh_sliceDue, hdue]

theorem State.exec_sliceStart_off (h : s.bit pgBST UNIT_CTRL_ENABLE = false ∨ s.wrd.gkp ≠ .running) :
    exec .sliceStart s = .next s.fresh := by
  have hc : (s.bit pgBST UNIT_CTRL_ENABLE && s.wrd.gkp == .running && s.bist.slice.isNone) = false := by
    rcases h with h | h
    · rw [h]; rfl
    · rw [beq_false_of_ne h, Bool.and_false]; rfl
  have he : exec .sliceStart s = .next (s.fresh.onlyIf
      (s.bit pgBST UNIT_CTRL_ENABLE && s.wrd.gkp == .running && s.bist.slice.isNone)
      (fun t0 => match t0.sliceWrap.sliceDue with
        | none => t0.sliceWrap
        | some i => t0.sliceWrap.bistPeriod i)) := rfl
  rw [he, State.onlyIf_false _ _ _ hc]

theorem State.bistPeriod_moved (i : Nat) (h : s.sliceMoved i = true) :
    s.bistPeriod i = s.setBist (fun b => { b with moved := b.moved.filter (· != i - 96) }) := if_pos h

theorem State.bistPeriod_begins (i : Nat) (h : s.sliceMoved i = false) (hw : s.sliceWaits i = false) :
    s.bistPeriod i = s.sliceBegin i := by
  unfold State.bistPeriod
  rw [h, hw]
  rfl

theorem State.bistPeriod_waits (i : Nat) (h : s.sliceMoved i = false) (hw : s.sliceWaits i = true)
    (h8 : s.bist.waits + 1 < 8) :
    s.bistPeriod i = s.setBist (fun b => { b with waits := b.waits + 1 }) := by
  unfold State.bistPeriod
  rw [h, hw, if_neg Bool.false_ne_true, if_pos rfl, if_pos h8]

theorem State.bistPeriod_skips (i : Nat) (h : s.sliceMoved i = false) (hw : s.sliceWaits i = true)
    (h8 : ¬ s.bist.waits + 1 < 8) : s.bistPeriod i =
      if s.bist.forced = some i then s.sliceSkips.setBist (fun b => { b with forced := none })
      else s.sliceSkips.slicePast i := by
  unfold State.bistPeriod
  rw [h, hw, if_neg Bool.false_ne_true, if_pos rfl, if_neg h8, s.sliceSkips_bist]

theorem State.sliceSkips_keeps : s.Keeps s.sliceSkips overWord := by
  unfold State.sliceSkips
  rw [State.incSat_eq, State.addSat_eq]
  exact (s.wr_keeps _ _ BST_POS_DEFERRED (by decide) ⟨rfl, .inl rfl⟩).trans (State.setBist_over _ _)

/-- The skipped slice is counted, none runs, and only BIST's own words have changed. -/
theorem State.bistPeriod_skipped (i : Nat) (h : s.sliceMoved i = false) (hw : s.sliceWaits i = true)
    (h8 : ¬ s.bist.waits + 1 < 8) : (s.bistPeriod i).bist.waits = 0 ∧
      (s.bistPeriod i).bist.slice = s.bist.slice ∧ s.Keeps (s.bistPeriod i) overWord ∧
      (s.bistPeriod i).rd pgBST BST_POS_DEFERRED = min (s.rd pgBST BST_POS_DEFERRED + 1) 65535 := by
  have hd : s.sliceSkips.rd pgBST BST_POS_DEFERRED = min (s.rd pgBST BST_POS_DEFERRED + 1) 65535 := by
    unfold State.sliceSkips
    rw [State.setBist_rd, State.rd_incSat _ _ _ (by decide)]
    rfl
  rw [s.bistPeriod_skips i h hw h8]
  split
  · have hb : (s.sliceSkips.setBist (fun b => { b with forced := none })).bist =
        { s.bist with waits := 0, forced := none } := by
      unfold State.setBist; rw [s.sliceSkips_bist]
    rw [hb, State.setBist_rd]
    exact ⟨rfl, rfl, s.sliceSkips_keeps.trans (State.setBist_over _ _), hd⟩
  · obtain ⟨x, y, hxy⟩ := s.sliceSkips.slicePast_shape i
    have hb : (s.sliceSkips.slicePast i).bist = { s.bist with waits := 0, rotFrom := y } := by
      rw [hxy, s.sliceSkips_bist]
    rw [hb, State.slicePast_deferred]
    exact ⟨rfl, rfl, s.sliceSkips_keeps.trans (State.slicePast_over _ i), hd⟩

/-- A slice begins: it runs, and waits for nothing; a kiosk is withdrawn for it. -/
theorem State.sliceBegin_runs (i : Nat) : (s.sliceBegin i).bist.slice = some i ∧ (s.sliceBegin i).bist.waits = 0 ∧
    s.SameMem (s.sliceBegin i) ∧ (i < 96 → (s.sliceBegin i).bit (pgKSK i) WK_OUT_BIST = true) ∧
    (96 ≤ i → { s.sliceBegin i with bist := s.bist } = s) := by
  by_cases hi : i < 96
  · have he : s.sliceBegin i = (s.setBist (fun b => { b with
        slice := some i, waits := 0, forced := if b.forced = some i then some i else none })).setOut i
          WK_OUT_BIST true := if_pos hi
    have hp := (s.setBist (fun b => { b with
        slice := some i, waits := 0, forced := if b.forced = some i then some i else none })).setOut_pools i hi
          WK_OUT_BIST (by decide) rfl true
    rw [he, hp.bist]
    exact ⟨rfl, rfl, hp.sameMem, fun _ => State.setOut_bit _ i hi _ (by decide) rfl true, fun h => by omega⟩
  · have he : s.sliceBegin i = s.setBist (fun b => { b with
        slice := some i, waits := 0, forced := if b.forced = some i then some i else none }) := if_neg hi
    rw [he]
    exact ⟨rfl, rfl, .of_eq rfl rfl rfl, fun h => absurd h hi, fun _ => rfl⟩

/-! ### A late rotation (R374) -/

theorem State.exec_bistLate (hen : s.bit pgBST UNIT_CTRL_ENABLE = true) (hl : s.bit pgBST BST_STAT_LATE = false) :
    exec .bistLate s = .next ((s.fresh.wr pgBST BST_STAT_LATE 1).record 0x3005 pgBST
      (s.word pgBST 0x044).toNat) := by
  have he : exec .bistLate s = .next (s.fresh.onlyIf
      (s.bit pgBST UNIT_CTRL_ENABLE && !s.bit pgBST BST_STAT_LATE)
      (fun t => (t.wr pgBST BST_STAT_LATE 1).record 0x3005 pgBST (t.word pgBST 0x044).toNat)) := rfl
  rw [he, State.onlyIf_true _ _ _ (by rw [hen, hl]; rfl)]
  rfl

theorem State.gbkEntry_queue (e : GbkEntry) (h : s.gbk.queue.length < 64) :
    (s.gbkEntry e).gbk.queue = insEntry e s.gbk.queue := by
  unfold State.gbkEntry State.gbkPush
  rw [if_pos h]

/-! ### Commands (R389) -/

theorem State.reached_doms (r : Req) (page : Nat) : (s.reached r page).pwr.doms = s.pwr.doms := by
  have ha : (s.fresh.active r).pwr.doms = s.pwr.doms := by unfold State.active; split <;> rfl
  unfold State.reached
  rw [← ha]
  unfold State.touch
  split
  · rfl
  · split <;> rfl

/-- NET's level is read neither from what gates a page's clocks nor from whether the Groundskeeper sleeps. -/
theorem State.levelOf_net_congr (x : Pwr) (hd : x.doms = s.pwr.doms) :
    ({ s with pwr := x } : State).levelOf .net = s.levelOf .net := by
  have hv : ∀ c, ({ s with pwr := x } : State).vote c 3 = s.vote c 3 := fun c => by
    unfold State.vote
    split <;> rfl
  have hr : ({ s with pwr := x } : State).requested 3 = s.requested 3 := by
    unfold State.requested
    simp only [hv]
  unfold State.levelOf State.level
  dsimp only
  rw [hd]
  split
  · exact hr
  · rfl

theorem State.reached_sliceSkipped (r : Req) (page : Nat) :
    (s.reached r page).sliceSkipped = s.sliceSkipped := by
  have hd := s.reached_doms r page
  obtain ⟨x, hx⟩ := s.reached_eq r page
  rw [hx] at hd ⊢
  exact State.sliceSkipped_congr (s := s.fresh) rfl rfl
    (State.activePort_congr (s.fresh.levelOf_net_congr x hd) rfl)

theorem State.exec_sliceNow (r : Req) (arg : BitVec 16) (h : s.Takes r pgBST) (hidle : s.bist.slice = none)
    (hlt : arg.toNat ≤ 4223) (hskip : s.sliceSkipped arg.toNat = false) :
    exec (.sliceNow r arg) s = .next ((s.taken r pgBST 1).setBist
      (fun b => { b with forced := some arg.toNat, waits := 0 })) := by
  have he : exec (.sliceNow r arg) s = .next (command r pgBST 0x0001 arg false false (fun t =>
      [(t.bist.slice.isSome, rcBUSY), (decide (4223 < arg.toNat) || t.sliceSkipped arg.toNat, rcBAD_ARG)])
      (fun t => t.setBist (fun b => { b with forced := some arg.toNat, waits := 0 })) s.fresh) := rfl
  have hb : (s.reached r pgBST).bist = s.bist := by
    obtain ⟨x, hx⟩ := s.reached_eq r pgBST; rw [hx]
  rw [he, command_accepts _ _ _ _ _ _ _ _ _ h.reach h.idle (.inr h.live) (fun h => absurd h Bool.false_ne_true)]
  intro c hc
  rw [hb, hidle, s.reached_sliceSkipped, hskip] at hc
  rcases List.mem_cons.mp hc with rfl | hc
  · rfl
  · rcases List.mem_singleton.mp hc with rfl
    rw [Bool.or_false]
    exact decide_eq_false (by omega)

theorem State.exec_retire (r : Req) (arg : BitVec 16) (h : s.Takes r pgBST) (hk : s.kind arg.toNat = some .ksk) :
    exec (.retire r arg) s = .next (((s.taken r pgBST 2).raise pgBST 2).retireKiosk (arg.toNat - pgKSK 0) false) := by
  have he : exec (.retire r arg) s = .next (command r pgBST 0x0002 arg false false
      (fun t => [(t.kind arg.toNat != some .ksk, rcBAD_ARG)])
      (fun t => (t.raise pgBST 2).retireKiosk (arg.toNat - pgKSK 0) false) s.fresh) := rfl
  rw [he, command_accepts _ _ _ _ _ _ _ _ _ h.reach h.idle (.inr h.live) (fun h => absurd h Bool.false_ne_true)]
  intro c hc
  rw [State.reached_kind, hk] at hc
  rcases List.mem_singleton.mp hc with rfl
  rfl

theorem State.exec_kioskParityError (k : Fin 96) (hk : k.val < s.part.kiosks) (hp : s.printRuns = true)
    (hs : s.bist.slice ≠ some k.val) (hf : s.follies = []) :
    exec (.kioskParityError k) s = .next ((s.fresh.raise pgBST 2).retireKiosk k.val true) := by
  have he : exec (.kioskParityError k) s = .next (s.fresh.onlyIf
      (decide (k.val < s.part.kiosks) && s.printRuns && s.bist.slice != some k.val)
      (fun t => ((t.atFolly (pgKSK k.val) 3 id id).raise pgBST 2).retireKiosk k.val true)) := rfl
  have hm : s.fresh.atFolly (pgKSK k.val) 3 id id = s.fresh := by
    unfold State.atFolly
    rw [State.follyOn_calm (s := s.fresh) hf]
    rfl
  rw [he, State.onlyIf_true _ _ _ (by rw [decide_eq_true hk, hp, bne_iff_ne.mpr hs]; rfl), hm]

theorem State.exec_kioskParityError_own (k : Fin 96) (hs : s.bist.slice = some k.val) :
    exec (.kioskParityError k) s = .next s.fresh := by
  have he : exec (.kioskParityError k) s = .next (s.fresh.onlyIf
      (decide (k.val < s.part.kiosks) && s.printRuns && s.bist.slice != some k.val)
      (fun t => ((t.atFolly (pgKSK k.val) 3 id id).raise pgBST 2).retireKiosk k.val true)) := rfl
  have hc : (s.bist.slice != some k.val) = false := by rw [hs]; exact bne_self_eq_false _
  rw [he, State.onlyIf_false _ _ _ (by rw [hc, Bool.and_false])]

/-- A kiosk that is retired with its event. -/
theorem State.retired_raised (k : Nat) (hk : k < 96) (failed : Bool) :
    let t := (s.raise pgBST 2).retireKiosk k failed
    t.bit (pgKSK k) WK_OUT_RETIRED = true ∧ t.Raised pgBST 2 ∧ s.SameMem t ∧
      (failed = true ∨ s.kioskState k ≠ 2 → t.kioskState k = 3) := by
  have hr := s.raise_bst_raises 2
  have hp := (s.raise pgBST 2).retireKiosk_pools k hk failed
  have hst : (s.raise pgBST 2).kioskState k = s.kioskState k :=
    hr.pools.kioskState (not_evWords _ _ _ (by decide) (by decide))
  exact ⟨State.retireKiosk_retired _ k hk failed, hp.raised _ _ (s.raise_bst_raised 2 (by decide)),
    hr.keeps.sameMem.trans hp.sameMem, fun h => State.retireKiosk_state _ k hk failed (by rw [hst]; exact h)⟩

end Sys2Proof.Machine
end

section
/-! PROOFS. The rotation of slice BIST (R374–R378, R389) together. -/

namespace Sys2Proof.Machine

variable (s : State)

theorem State.sliceWrap_claims (h : s.sliceNext = none ∧ s.sliceFrom 0 ≠ none) :
    s.sliceWrap.rd pgBST BST_POS_NEXT = (s.sliceFrom 0).getD 0 ∧ s.sliceWrap.bist.rotFrom = s.now ∧
    s.sliceWrap.rd pgBST BST_ROT_COUNT_N = min (s.rd pgBST BST_ROT_COUNT_N + 1) (2 ^ 32 - 1) ∧
    s.sliceWrap.bit pgBST BST_STAT_LATE = false := by
  obtain ⟨x, hx⟩ := s.rotated_shape
  rw [s.sliceWrap_wraps h]
  exact ⟨s.rotated_next, by rw [hx], s.rotated_count, s.rotated_late⟩

theorem State.fresh_setBist_rest (g : Bist → Bist) : { s.fresh.setBist g with bist := s.bist } = s.fresh := rfl

/-- What changes only BIST's page and its events' words. -/
theorem State.Keeps.onlyBst {s t : State} (h : s.Keeps t bistOnly) :
    s.SameMem t ∧ s.SameRegs t (fun p o => p = pgBST ∨ evWords pgBST p o) := ⟨h.sameMem, h.sameRegs⟩

/-- The repairs of a segment's test, all at once (R376, R377). -/
theorem State.sliceEnd_repairs (i : Nat) (failed : Bool) (cells : List Bool) (h96 : 96 ≤ i) (hi : i < 4192)
    (hf : s.follies = []) :
    let t := (s.sliceJudged i failed cells).sliceOver i
    let xs := s.sparesTaken ((i - 96) / 64) cells
    t.bist.repairs = s.bist.repairs ++ xs ∧
    (xs ≠ [] → t.Raised pgBST 1 ∧
      t.rd pgBST BST_REPAIRS_SOFT = (s.bist.repairs.length + xs.length) % 2 ^ 16) ∧
    (xs.length < cells.length → t.bit pgBST BST_FAIL_EXHAUSTED = true ∧ t.rd pgBST BST_FAIL_SLICE = i ∧
      t.rd pgBST BST_FAIL_KIND = 2 ∧ t.Raised pgBST 0 ∧ ∀ c, t.spare ((i - 96) / 64) c = none) ∧
    (xs.length = cells.length → t.rd pgBST BST_FAIL_SLICE = s.rd pgBST BST_FAIL_SLICE) := by
  obtain ⟨ha, hr, -⟩ := s.sliceEnd_segment i failed cells h96 hi hf
  dsimp only
  obtain ⟨-, hrepairs, hfused⟩ := (s.sliceJudged i failed cells).sliceOver_bist i
  have hlist : ((s.sliceJudged i failed cells).sliceOver i).bist.repairs =
      s.bist.repairs ++ s.sparesTaken ((i - 96) / 64) cells := by rw [hrepairs, hr.bist]; rfl
  refine ⟨hlist, fun hne => ?_, fun hlt => ?_, fun heq => ?_⟩
  · obtain ⟨hraised, hsoft⟩ := s.cellsFail_soft i cells hne
    rw [← ha] at hraised hsoft
    exact ⟨State.sliceOver_raised _ i _ _ hraised, by rw [State.sliceOver_rd _ _ _ (.inr (.inr rfl)), hsoft]⟩
  · obtain ⟨hexh, hslice, hkind, hraised⟩ := s.cellsFail_short i (by omega) cells hlt
    rw [← ha] at hexh hslice hkind hraised
    refine ⟨?_, ?_, ?_, State.sliceOver_raised _ i _ _ hraised, fun c => ?_⟩
    · unfold State.bit at hexh ⊢
      rw [State.sliceOver_rd _ _ _ (.inr (.inl rfl)), hexh]
    · rw [State.sliceOver_rd _ _ _ (.inr (.inl rfl)), hslice]
    · rw [State.sliceOver_rd _ _ _ (.inr (.inl rfl)), hkind]
    · have := s.spare_exhausted ((i - 96) / 64) cells hlt c
      unfold State.spare at this ⊢
      rw [hlist, hfused, hr.bist]
      exact this
  · rw [State.sliceOver_rd _ _ _ (.inr (.inl rfl)), ha]
    exact congrArg BST_FAIL_SLICE.get (s.cellsFail_spared i cells heq)

/-- A slice without a fault leaves what failures and repairs show. -/
theorem State.sliceEnd_quiet (i : Nat) (failed : Bool) (cells : List Bool) (h96 : 96 ≤ i) (hf : s.follies = [])
    (h : if i < 4192 then cells = [] else failed = false) : s.sliceJudged i failed cells = s := by
  by_cases hi : i < 4192
  · rw [if_pos hi] at h
    rw [(s.sliceEnd_segment i failed cells h96 hi hf).1, h]
    rfl
  · rw [if_neg hi] at h
    rw [s.sliceEnd_port i failed cells (by omega), h]
    rfl

/-- Settles O56, operation by operation: what each of them does is said once above. -/
theorem sliceBist : Obligations.SliceBist := by
  intro s
  refine ⟨fun h => ?_, s.sliceWrap_stays, fun i hen hgkp hidle hdue => ?_, s.exec_sliceStart_off,
    fun i failed cells hslice hi hcalm => ?_, fun hen hl => ?_, fun k hk hp hs hcalm => ?_,
    fun k hs => s.exec_kioskParityError_own k hs, fun r arg h => ⟨fun hidle hlt hskip => ?_, fun hk => ?_⟩⟩
  · obtain ⟨hnext, hfrom, hcount, hlate⟩ := s.sliceWrap_claims h
    exact ⟨hnext, hfrom, hcount, hlate, (s.sliceWrap_over.mono overWord_only).onlyBst⟩
  · have he := s.exec_sliceStart i hen hgkp hidle hdue
    obtain ⟨x, y, hxy⟩ := s.sliceWrap_shape
    have hbist : s.sliceWrap.fresh.bist = { s.bist with rotFrom := y } := by rw [hxy]; rfl
    have hmoved : s.sliceWrap.fresh.sliceMoved i = s.sliceMoved i :=
      congrFun (State.sliceMoved_congr s (by rw [hbist])) i
    have hwaits : s.sliceWrap.fresh.sliceWaits i = s.sliceWaits i := congrFun s.sliceWaits_sliceWrap i
    have hwaited : s.sliceWrap.fresh.bist.waits = s.bist.waits := by rw [hbist]
    have hran : s.sliceWrap.fresh.bist.slice = none := by rw [hbist]; exact hidle
    have hmem : s.SameMem s.sliceWrap.fresh := s.sliceWrap_over.sameMem
    refine ⟨fun hm => ⟨_, he, ?_⟩, fun hm hw => ⟨_, he, ?_⟩, fun hm hw h8 => ⟨_, he, ?_⟩, fun hm hw h8 => ⟨_, he, ?_⟩⟩
    · rw [State.bistPeriod_moved _ i (hmoved.trans hm)]
      exact ⟨by rw [State.setBist, hbist], hran, s.sliceWrap.fresh_setBist_rest _⟩
    · rw [State.bistPeriod_begins _ i (hmoved.trans hm) (hwaits.trans hw)]
      obtain ⟨hruns, hzero, hsame, hout, hrest⟩ := s.sliceWrap.fresh.sliceBegin_runs i
      exact ⟨hruns, hzero, hmem.trans hsame, hout, hrest⟩
    · rw [State.bistPeriod_waits _ i (hmoved.trans hm) (hwaits.trans hw) (by rw [hwaited]; exact h8)]
      exact ⟨by rw [State.setBist, hbist], hran, s.sliceWrap.fresh_setBist_rest _⟩
    · obtain ⟨hzero, hnone, hkeeps, hcount⟩ := s.sliceWrap.fresh.bistPeriod_skipped i (hmoved.trans hm)
        (hwaits.trans hw) (by rw [hwaited]; omega)
      have hwrap : s.Keeps s.sliceWrap.fresh overWord :=
        s.sliceWrap_over.trans (.of_regs _ ⟨rfl, rfl, rfl, rfl, rfl, rfl, rfl, rfl, rfl⟩ rfl)
      refine ⟨hzero, hnone.trans hran, ((hwrap.trans hkeeps).mono overWord_only).onlyBst, hcount.trans ?_⟩
      rw [← s.sliceWrap_deferred]
      rfl
  · obtain ⟨hidle, hmem, hnamed, hdue⟩ := (s.fresh.sliceEnd_judged i failed cells hcalm).over i
    refine ⟨_, s.exec_sliceEnd i failed cells hslice, hidle, hmem, hnamed, hdue, fun h96 => ?_, fun h96 => ?_,
      fun h96 hi => ?_, fun hi hfail => ?_, fun h96 hquiet => ?_⟩
    · exact (s.fresh.sliceEnd_kiosk i failed cells h96 hcalm).2
    · exact (s.fresh.sliceEnd_only i failed cells h96 hcalm).onlyBst
    · obtain ⟨hlist, hsoft, hshort, hfull⟩ := s.fresh.sliceEnd_repairs i failed cells h96 hi hcalm
      refine ⟨_, hlist, State.sparesTaken_nodup _ _ _, State.sparesTaken_left _ _ _, fun c hc => ?_, hsoft,
        State.sparesTaken_length _ _ _, hshort, hfull⟩
      rw [hc]
      exact State.sparesTaken_single _ _ c
    · have ha : s.fresh.sliceJudged i failed cells = s.fresh.sliceFailed i 3 := by
        rw [State.sliceEnd_port _ i failed cells hi, if_pos hfail]
      obtain ⟨hshown, hkind, hraised⟩ := s.fresh.sliceFailed_shows i 3 (by assumption) (by decide)
      rw [ha]
      refine ⟨?_, ?_, State.sliceOver_raised _ i _ _ hraised⟩
      · rw [State.sliceOver_rd _ _ _ (.inr (.inl rfl)), hshown]
      · rw [State.sliceOver_rd _ _ _ (.inr (.inl rfl)), hkind]
    · have hq := s.fresh.sliceEnd_quiet i failed cells h96 hcalm hquiet
      rw [hq]
      exact ⟨State.sliceOver_rd _ _ _ (.inr (.inl rfl)), (State.sliceOver_bist _ i).2.1,
        (State.sliceOver_over _ i).word _ _ (by decide) (overWord_not _ _ (.inr (.inl rfl)))⟩
  · have hw := s.fresh.wr_raises (but := bistOnly) pgBST 1 BST_STAT_LATE (by decide) (by decide) (.inl rfl)
    have hr := (s.fresh.wr pgBST BST_STAT_LATE 1).record_raises (but := bistOnly) 0x3005 pgBST
      (s.word pgBST 0x044).toNat (fun p o h => .inr (evWords_gbk pgBST p o h))
    have hbit : ((s.fresh.wr pgBST BST_STAT_LATE 1).record 0x3005 pgBST (s.word pgBST 0x044).toNat).bit pgBST
        BST_STAT_LATE = true := by
      rw [(State.record_raises (but := evWords pgGBK) _ _ _ _ fun _ _ h => h).keeps.bit _ _ (by decide)
        (not_evWords _ _ _ (by decide) (by decide)), State.bit_wr _ _ _ (by decide)]
      rfl
    exact ⟨_, s.exec_bistLate hen hl, hbit, (hw.trans hr).keeps.onlyBst,
      fun hq => ⟨_, State.gbkEntry_queue _ _ hq, rfl, rfl⟩⟩
  · have hk96 : k.val < 96 := k.isLt
    obtain ⟨hret, hraised, hmem, hst⟩ := s.fresh.retired_raised k.val hk96 true
    exact ⟨_, s.exec_kioskParityError k hk hp hs hcalm, hret, hst (.inl rfl), hraised, hmem⟩
  · have hb : (s.taken r pgBST 1).bist = s.bist := by
      obtain ⟨x, y, z, hx⟩ := s.taken_eq r pgBST 1; rw [hx]
    have hrest : { (s.taken r pgBST 1).setBist (fun b => { b with forced := some arg.toNat, waits := 0 }) with
        bist := s.bist } = s.taken r pgBST 1 := by rw [← hb]; rfl
    exact ⟨_, s.exec_sliceNow r arg h hidle hlt hskip, rfl, rfl, hrest⟩
  · obtain ⟨u, hu, hkind⟩ := Option.map_eq_some_iff.mp hk
    obtain ⟨hpage, hlt⟩ := unitOf_ksk s.part arg.toNat u.2 (by rw [hu, ← hkind])
    have hk96 : u.2 < 96 := hlt.trans_le (kiosks_le s.part)
    have hplace : arg.toNat - pgKSK 0 = u.2 := by rw [hpage]; unfold pgKSK; omega
    obtain ⟨hret, hraised, hmem, hst⟩ := (s.taken r pgBST 2).retired_raised u.2 hk96 false
    refine ⟨_, s.exec_retire r arg h hk, ?_⟩
    rw [hplace, hpage]
    exact ⟨hret, hraised, (s.taken_sameMem r pgBST 2).trans hmem,
      fun hn => hst (.inr (by rw [State.taken_kioskState]; exact hn))⟩

end Sys2Proof.Machine
end

section
/-! SUPPORT. Descriptors of a host ring and rejected tiles (R139, R141): what they write and what stands. -/

namespace Sys2Proof.Machine

variable {t : State} {but : Nat → Nat → Prop} (s : State)

/-! ### Messages and noted errors -/

theorem State.signal_raises (fn v : Nat) : s.Raises (s.signal fn v) but := by
  unfold State.signal
  split
  · exact .refl s _
  · split
    · split
      · exact .refl s _
      · exact ⟨rfl, fun _ _ _ _ => rfl, rfl, fun _ _ h => h⟩
    · exact s.emit_raises _

/-- What has gone out stays so. -/
theorem State.signal_emitted (fn v : Nat) (e : Emission) (h : e ∈ s.emitted) : e ∈ (s.signal fn v).emitted := by
  unfold State.signal
  split
  · exact h
  · split
    · split
      · exact h
      · exact h
    · exact List.mem_append_left _ h

theorem State.noteError_raises (fn : Fin 5) (b : Nat) : s.Raises (s.noteError fn b) but :=
  ⟨rfl, fun _ _ _ _ => rfl, rfl, fun _ _ h => h⟩

/-! ### Events of a stream's page -/

theorem unitOf_stm (part : Part) (i : Fin 4) : unitOf part (pgSTM i.val) = some (.stm, i.val) := by
  cases part <;> fin_cases i <;> rfl

theorem evNum_stm (part : Part) (i : Fin 4) (b : Nat) (hb : b < 3) :
    evNum part (pgSTM i.val) b = some (572 + 3 * i.val + b) := by
  unfold evNum; rw [unitOf_stm]; exact if_pos hb

theorem State.raise_stm_raised (i : Fin 4) (b : Nat) (hb : b < 3) (h : s.isolated .print = false) :
    (s.raise (pgSTM i.val) b).Raised (pgSTM i.val) b :=
  s.raise_raised _ b _ (evNum_stm s.part i b hb) (by omega)
    (s.not_clamped_of_print _ h .stm (by unfold State.kind kindOf; rw [unitOf_stm]; rfl) rfl)

/-! ### A tile is rejected (R139) -/

/-- The words that a reject writes. -/
def rejectWord (i : Fin 4) (p o : Nat) : Prop := (p = pgSTM i.val ∧ o = 0x0A8) ∨ evWords (pgSTM i.val) p o

/-- The reason and the head are shown, and the count is one more. -/
def State.rejectShown (s : State) (i : Fin 4) (code head : Nat) : State :=
  ((s.wr (pgSTM i.val) STM_REJECT_REASON code).wr (pgSTM i.val) STM_REJECT_HEAD head).incSat (pgSTM i.val)
    STM_REJECT_COUNT

theorem State.rejectShown_raises (i : Fin 4) (code head : Nat) :
    s.Raises (s.rejectShown i code head) (rejectWord i) :=
  ((s.wr_raises _ _ STM_REJECT_REASON (by decide) (by decide) (.inl ⟨rfl, rfl⟩)).trans
    (State.wr_raises _ _ _ STM_REJECT_HEAD (by decide) (by decide) (.inl ⟨rfl, rfl⟩))).trans
    (State.incSat_raises _ _ STM_REJECT_COUNT (by decide) (by decide) (.inl ⟨rfl, rfl⟩))

theorem State.reject_raises (i : Fin 4) (code head : Nat) : s.Raises (s.reject i code head) (rejectWord i) :=
  (s.rejectShown_raises i code head).trans (State.raise_raises _ _ 2 (.inr (.inl ⟨rfl, rfl⟩))
    fun _ _ h => .inr (evWords_gbk _ _ _ h))

theorem State.reject_raised (i : Fin 4) (code head : Nat) (h : s.isolated .print = false) :
    (s.reject i code head).Raised (pgSTM i.val) 2 :=
  State.raise_stm_raised (s.rejectShown i code head) i 2 (by decide)
    ((s.rejectShown_raises i code head).keeps.isolated .print ▸ h)

theorem State.reject_reason (i : Fin 4) (code head : Nat) :
    (s.reject i code head).rd (pgSTM i.val) STM_REJECT_REASON = code % 16 := by
  have h : (s.rejectShown i code head).rd (pgSTM i.val) STM_REJECT_REASON = code % 16 := by
    rw [State.rejectShown, State.incSat_eq, State.addSat_eq,
      State.rd_wr_apart _ _ STM_REJECT_COUNT STM_REJECT_REASON (by decide) (by decide) rfl (by decide),
      State.rd_wr_apart _ _ STM_REJECT_HEAD STM_REJECT_REASON (by decide) (by decide) rfl (by decide),
      State.rd_wr _ _ _ (by decide)]
    rfl
  exact (State.raise_rd _ _ _ _ _ (by decide) (not_evWords _ _ _ (by decide) (by decide))).trans h

/-! ### A descriptor completes (R141) -/

def headWord (i : Fin 4) (p o : Nat) : Prop := p = pgSTM i.val ∧ o = 0x068

theorem State.descriptorDone_raises (i : Fin 4) (code : Nat) :
    s.Raises (s.descriptorDone i code) (headWord i) := by
  unfold State.descriptorDone
  exact ((s.emit_raises _).trans
    (State.wr_raises _ _ _ STM_RING_HEAD_HEAD (by decide) (by decide) ⟨rfl, rfl⟩)).trans (State.signal_raises _ _ _)

theorem State.descriptorDone_head (i : Fin 4) (code : Nat) :
    (s.descriptorDone i code).rd (pgSTM i.val) STM_RING_HEAD_HEAD =
      ringIdx (s.rd (pgSTM i.val) STM_RING_HEAD_HEAD + 1) (s.stmOf i).ringSize % 2 ^ STM_RING_HEAD_HEAD.width := by
  unfold State.descriptorDone
  dsimp only
  rw [(State.signal_raises (but := fun _ _ => False) _ _ _).keeps.rd _ _ (by decide) not_false,
    State.rd_wr _ _ _ (by decide)]

theorem State.descriptorDone_emitted (i : Fin 4) (code : Nat) :
    .hostWrite ((s.stmOf i).ringAddr + BitVec.ofNat 64 (16 * s.rd (pgSTM i.val) STM_RING_HEAD_HEAD + 12))
      (leBytes 4 (1 + 16 * code)) ∈ (s.descriptorDone i code).emitted := by
  unfold State.descriptorDone
  exact State.signal_emitted _ _ _ _ (List.mem_append_right _ (List.mem_singleton.mpr rfl))

variable {s}

theorem State.Raises.ing (h : s.Raises t but) : t.ing = s.ing := (congrArg State.ing h.rest :)
theorem State.Raises.stm (h : s.Raises t but) : t.stm = s.stm := (congrArg State.stm h.rest :)

theorem State.stmOf_of_stm (h : t.stm = s.stm) (i : Fin 4) : t.stmOf i = s.stmOf i := by
  unfold State.stmOf; rw [h]

/-- A descriptor's completion as a state finds it whose ring is that of `s`. -/
theorem State.descriptorDone_of (i : Fin 4) (code : Nat)
    (hh : t.rd (pgSTM i.val) STM_RING_HEAD_HEAD = s.rd (pgSTM i.val) STM_RING_HEAD_HEAD)
    (ha : (t.stmOf i).ringAddr = (s.stmOf i).ringAddr) (hn : (t.stmOf i).ringSize = (s.stmOf i).ringSize) :
    (t.descriptorDone i code).rd (pgSTM i.val) STM_RING_HEAD_HEAD =
      ringIdx (s.rd (pgSTM i.val) STM_RING_HEAD_HEAD + 1) (s.stmOf i).ringSize % 2 ^ STM_RING_HEAD_HEAD.width ∧
    .hostWrite ((s.stmOf i).ringAddr + BitVec.ofNat 64 (16 * s.rd (pgSTM i.val) STM_RING_HEAD_HEAD + 12))
      (leBytes 4 (1 + 16 * code)) ∈ (t.descriptorDone i code).emitted := by
  have hhead := t.descriptorDone_head i code
  have hout := t.descriptorDone_emitted i code
  rw [hh, hn] at hhead
  rw [hh, ha] at hout
  exact ⟨hhead, hout⟩

/-- The words that a descriptor's rejection writes. -/
def turnWord (i : Fin 4) (p o : Nat) : Prop := rejectWord i p o ∨ headWord i p o

theorem headWord_not_reject (i : Fin 4) : ¬ rejectWord i (pgSTM i.val) 0x068 := by
  rintro (h | h)
  · exact absurd h.2 (by decide)
  · exact not_evWords _ _ _ (by decide) (by decide) h

theorem rejectWord_not_head (i : Fin 4) : ¬ headWord i (pgSTM i.val) 0x0A8 := fun h => absurd h.2 (by decide)

variable (s)

theorem State.turnDown_raises (i : Fin 4) (code head : Nat) :
    s.Raises ((s.reject i code head).descriptorDone i code) (turnWord i) :=
  ((s.reject_raises i code head).mono fun _ _ => .inl).trans
    ((State.descriptorDone_raises _ i code).mono fun _ _ => .inr)

/-- A rejected descriptor completes: its status word goes to the host, HEAD moves on, and the reason stands with
its event. -/
theorem State.turnDown_shows (i : Fin 4) (code head : Nat) (h : s.isolated .print = false) :
    let t := (s.reject i code head).descriptorDone i code
    (t.rd (pgSTM i.val) STM_RING_HEAD_HEAD =
      ringIdx (s.rd (pgSTM i.val) STM_RING_HEAD_HEAD + 1) (s.stmOf i).ringSize % 2 ^ STM_RING_HEAD_HEAD.width ∧
    .hostWrite ((s.stmOf i).ringAddr + BitVec.ofNat 64 (16 * s.rd (pgSTM i.val) STM_RING_HEAD_HEAD + 12))
      (leBytes 4 (1 + 16 * code)) ∈ t.emitted) ∧
    t.rd (pgSTM i.val) STM_REJECT_REASON = code % 16 ∧ t.Raised (pgSTM i.val) 2 ∧ t.ing = s.ing ∧
    t.stm = s.stm := by
  have hr := s.reject_raises i code head
  have hd := (s.reject i code head).descriptorDone_raises i code
  have hx := State.stmOf_of_stm hr.stm i
  refine ⟨State.descriptorDone_of i code (hr.keeps.rd _ _ (by decide) (headWord_not_reject i)) (by rw [hx])
    (by rw [hx]), ?_, hd.raised _ _ (s.reject_raised i code head h), hd.ing.trans hr.ing, hd.stm.trans hr.stm⟩
  rw [hd.keeps.rd _ _ (by decide) (rejectWord_not_head i), State.reject_reason]

/-- What the statement of a page's own effect asks for. -/
theorem State.Keeps.withinPages {s t : State} (h : s.Keeps t but) (pages : List Nat)
    (hb : ∀ p o, but p o → p ∈ pages ∨ evWords pgGBK p o) : s.Within t pages :=
  ⟨h.sameMem, (h.mono hb).sameRegs⟩

theorem turnWord_within (i : Fin 4) (p o : Nat) (h : turnWord i p o) : p ∈ [pgSTM i.val] ∨ evWords pgGBK p o := by
  rcases h with (⟨rfl, -⟩ | ⟨rfl, -⟩ | h) | ⟨rfl, -⟩
  · exact .inl (List.mem_singleton.mpr rfl)
  · exact .inl (List.mem_singleton.mpr rfl)
  · exact .inr (.inr h)
  · exact .inl (List.mem_singleton.mpr rfl)

end Sys2Proof.Machine
end

section
/-! SUPPORT. Writes to memory by a unit of the device (R284–R300): Ingest, the streams and the registers outside the
memory's own pages stand. -/

namespace Sys2Proof.Machine

variable {s t u : State}

/-- The pages that an access of memory may change: PWR's for a self-refresh that is left, DRC's and the channels', and
the Guestbook's words for a full queue. -/
def memWord (p o : Nat) : Prop := p ∈ [pgPWR, pgDRC, pgDRAM 0, pgDRAM 1] ∨ evWords pgGBK p o

/-- Memory has been accessed: the part, Ingest and the streams stand, and no register outside the memory's pages
differs. -/
structure State.Serves (s t : State) : Prop where
  part : t.part = s.part
  ing : t.ing = s.ing
  stm : t.stm = s.stm
  word : ∀ p o, o < 4096 → ¬ memWord p o → t.word p o = s.word p o

theorem State.Serves.refl (s : State) : s.Serves s := ⟨rfl, rfl, rfl, fun _ _ _ _ => rfl⟩

theorem State.Serves.trans (h : s.Serves t) (h' : t.Serves u) : s.Serves u where
  part := h'.part.trans h.part
  ing := h'.ing.trans h.ing
  stm := h'.stm.trans h.stm
  word p o ho hn := (h'.word p o ho hn).trans (h.word p o ho hn)

theorem State.Serves.foldl {α : Type} (f : State → α → State) (l : List α)
    (h : ∀ t : State, ∀ x ∈ l, t.Serves (f t x)) : ∀ s : State, s.Serves (l.foldl f s) := by
  induction l with
  | nil => exact .refl
  | cons x l ih =>
    exact fun s => (h s x (by simp)).trans (ih (fun t y hy => h t y (by simp [hy])) (f s x))

theorem State.Serves.ite {c : Prop} [Decidable c] (h : s.Serves t) (h' : s.Serves u) :
    s.Serves (if c then t else u) := by
  split
  · exact h
  · exact h'

/-- What changes neither part, registers, Ingest nor streams. -/
theorem State.Serves.of_fields (hp : t.part = s.part) (hr : t.regs = s.regs) (hi : t.ing = s.ing)
    (hs : t.stm = s.stm) : s.Serves t :=
  ⟨hp, hi, hs, fun p o _ _ => State.word_of_regs s t hp hr p o⟩

theorem State.Raises.serves (h : s.Raises t memWord) : s.Serves t := ⟨h.core.part, h.ing, h.stm, h.word⟩

theorem memWord_gbk (p o : Nat) (h : evWords pgGBK p o) : memWord p o := .inr h

theorem memWord_chan (a o : Nat) : memWord (pgDRAM (chanOf a)) o := by
  have h : chanOf a = 0 ∨ chanOf a = 1 := by unfold chanOf; omega
  rcases h with h | h <;> rw [h] <;> exact .inl (by decide)

theorem memWord_fin (c : Fin 2) (o : Nat) : memWord (pgDRAM c.val) o := by
  fin_cases c <;> exact .inl (by decide)

theorem memWord_drc (o : Nat) : memWord pgDRC o := .inl (by decide)

theorem memWord_pwr (o : Nat) : memWord pgPWR o := .inl (by decide)

variable (s)

/-! ### Steps of an access -/

theorem State.setBytes_serves (a : Nat) (bs : List Byte) : s.Serves (s.setBytes a bs) := by
  induction bs generalizing s a with
  | nil => exact .refl s
  | cons b bs ih =>
    exact (.of_fields rfl rfl rfl rfl : s.Serves (s.setByte a b)).trans (ih (s.setByte a b) (a + 1))

theorem State.store_serves (a : Nat) (bs : List Byte) (bad : Bool) : s.Serves (s.store a bs bad) :=
  (s.setBytes_serves a bs).trans (.of_fields rfl rfl rfl rfl)

theorem State.storeTagged_serves (a : Nat) (bs : List Byte) (tags : List Bool) :
    s.Serves (s.storeTagged a bs tags) := by
  have htaint : ∀ (ws : List Nat) (u : State), u.Serves (ws.foldl (fun t w => t.taint w 1) u) := fun ws =>
    .foldl _ ws (fun _ _ _ => .of_fields rfl rfl rfl rfl)
  exact (s.store_serves a bs false).trans (htaint _ _)

theorem State.updChan_serves (c : Fin 2) (g : Chan → Chan) : s.Serves (s.updChan c g) :=
  .of_fields rfl rfl rfl rfl

theorem State.raise_serves (p b : Nat) (h : ∀ o, memWord p o) : s.Serves (s.raise p b) :=
  (s.raise_raises p b (h _) memWord_gbk).serves

theorem State.wr_serves (p v : Nat) (f : Fld) (hf : f.Sound) (h14 : f.off ≠ 0x014) (h : ∀ o, memWord p o) :
    s.Serves (s.wr p f v) := (s.wr_raises p v f hf h14 (h _)).serves

theorem State.wr2_serves (p v : Nat) (lo hi : Fld) (hl : lo.Sound) (hh : hi.Sound) (hl14 : lo.off ≠ 0x014)
    (hh14 : hi.off ≠ 0x014) (h : ∀ o, memWord p o) : s.Serves (s.wr2 p lo hi v) :=
  (s.wr_serves p _ lo hl hl14 h).trans (State.wr_serves _ p _ hi hh hh14 h)

theorem State.reqErr_serves (a : Nat) : s.Serves (s.reqErr a) :=
  ((s.wr_serves pgDRC _ DRC_REQ_ERR_N (by decide) (by decide) memWord_drc).trans
    (State.wr2_serves _ pgDRC _ DRC_REQ_ERR_LO_ADDR DRC_REQ_ERR_HI_ADDR (by decide) (by decide) (by decide)
      (by decide) memWord_drc)).trans (State.raise_serves _ pgDRC 1 memWord_drc)

theorem State.burst_serves (port : Nat) (write : Bool) (x : Nat × Nat) : s.Serves (s.burst port write x) := by
  have hmoved : ∀ (c : Fin 2) (g : Chan → Chan) (n : Nat) (e : Emission),
      s.Serves (((s.updChan c g).add2 (pgDRAM c.val) DRC_BYTES_LO_N DRC_BYTES_HI_N n).emit e) := fun c g n e => by
    rw [State.add2_eq]
    exact ((s.updChan_serves c g).trans
      (State.wr2_serves _ _ _ DRC_BYTES_LO_N DRC_BYTES_HI_N (by decide) (by decide) (by decide) (by decide)
        (memWord_fin c))).trans (State.emit_raises _ e).serves
  unfold State.burst
  split
  · exact hmoved _ _ _ _
  · exact .refl s

theorem State.bursts_serves (port a n : Nat) (write : Bool) : s.Serves (s.bursts port a n write) :=
  .foldl _ _ (fun t x _ => t.burst_serves port write x) s

theorem State.granted_serves (port units : Nat) : s.Serves (s.granted port units) := .of_fields rfl rfl rfl rfl

theorem State.memWake_serves : s.Serves s.memWake := by
  unfold State.memWake
  split
  · exact .of_fields rfl rfl rfl rfl
  · split
    · have hp : ∀ p : Pwr, s.Serves { s with pwr := p } := fun _ => .of_fields rfl rfl rfl rfl
      exact ((hp _).trans (State.wr_serves _ pgPWR _ PWR_SR_ABORTS_COUNT (by decide) (by decide) memWord_pwr)).trans
        (State.raise_serves _ pgPWR 2 memWord_pwr)
    · split
      · exact .of_fields rfl rfl rfl rfl
      · exact .refl s

/-! ### Errors that a read finds -/

theorem State.errRecord_serves (a sub beat bit : Nat) (ue scrub : Bool) :
    s.Serves (s.errRecord a sub beat bit ue scrub) :=
  (((((s.wr2_serves _ _ DRC_ERR_ADDR_LO_ADDR DRC_ERR_ADDR_HI_ADDR (by decide) (by decide) (by decide) (by decide)
    (memWord_chan a)).trans
    (State.wr_serves _ _ _ DRC_ERR_INFO_UE (by decide) (by decide) (memWord_chan a))).trans
    (State.wr_serves _ _ _ DRC_ERR_INFO_SUB (by decide) (by decide) (memWord_chan a))).trans
    (State.wr_serves _ _ _ DRC_ERR_INFO_BEAT (by decide) (by decide) (memWord_chan a))).trans
    (State.wr_serves _ _ _ DRC_ERR_INFO_BIT (by decide) (by decide) (memWord_chan a))).trans
    (State.wr_serves _ _ _ DRC_ERR_INFO_SCRUB (by decide) (by decide) (memWord_chan a))

theorem State.dramCe_serves (a sub beat bit : Nat) (scrub : Bool) : s.Serves (s.dramCe a sub beat bit scrub) := by
  have hcount : s.Serves (s.incSat (pgDRAM (chanFin a).val) DRC_CE_N) :=
    s.wr_serves _ _ DRC_CE_N (by decide) (by decide) (memWord_fin _)
  have hnoted := fun g => (hcount.trans (State.errRecord_serves _ a sub beat bit false scrub)).trans
    (State.updChan_serves _ (chanFin a) g)
  exact .ite ((hnoted _).trans (State.raise_serves _ _ 0 (memWord_fin _))) (hnoted _)

theorem State.dramUe_serves (a sub beat : Nat) (scrub : Bool) : s.Serves (s.dramUe a sub beat scrub) :=
  ((s.wr_serves _ _ DRC_UE_N (by decide) (by decide) (memWord_chan a)).trans
    (State.errRecord_serves _ _ _ _ _ _ _)).trans (State.raise_serves _ _ 1 (memWord_chan a))

theorem State.beatErr_serves (e : BeatErr) (scrub : Bool) : s.Serves (s.beatErr e scrub) := by
  unfold State.beatErr
  split
  · exact s.dramCe_serves _ _ _ _ scrub
  · exact s.dramUe_serves _ _ _ scrub

theorem State.follyRead_serves (c : Fin 2) (a n : Nat) (scrub : Bool) : s.Serves (s.follyRead c a n scrub).1 := by
  unfold State.follyRead
  split
  · exact .refl s
  · have hi : s.Serves (s.inject (pgDRAM c.val)) := (s.inject_raises _ (memWord_fin c _)).serves
    dsimp only
    split
    · exact hi.trans (State.dramCe_serves _ _ _ _ _ scrub)
    · exact hi.trans (State.dramUe_serves _ _ _ _ scrub)

theorem State.readErrs_serves (a n : Nat) (errs : List BeatErr) (scrub : Bool) :
    s.Serves (s.readErrs a n errs scrub).1 := by
  have hbeats : ∀ l : List BeatErr, s.Serves (l.foldl (fun t e => t.beatErr e scrub) s) := fun l =>
    .foldl _ l (fun t e _ => t.beatErr_serves e scrub) s
  have hstored : ∀ t : State, t.Serves (t.storedErrs a n scrub) := fun t =>
    .foldl _ _ (fun t c _ => t.dramUe_serves _ _ _ scrub) t
  unfold State.readErrs
  exact (((hbeats _).trans (hstored _)).trans (State.follyRead_serves _ 0 a n scrub)).trans
    (State.follyRead_serves _ 1 a n scrub)

/-! ### Requests and writes -/

theorem State.dramRead_serves (port a n : Nat) (errs : List BeatErr) : s.Serves (s.dramRead port a n errs).1 := by
  unfold State.dramRead
  split
  · exact s.wr_serves pgPWR 1 UNIT_STATUS_LOCK_VIOL (by decide) (by decide) memWord_pwr
  · have hread := ((s.readErrs_serves a n errs false).trans (State.bursts_serves _ port a n false)).trans
      (State.granted_serves _ port (unitsOf a n))
    dsimp only
    split
    · exact hread.trans (State.reqErr_serves _ _)
    · exact hread

theorem State.dramWrite_serves (port a : Nat) (bs : List Byte) (tags : List Bool) :
    s.Serves (s.dramWrite port a bs tags) := by
  unfold State.dramWrite
  split
  · exact s.wr_serves pgPWR 1 UNIT_STATUS_LOCK_VIOL (by decide) (by decide) memWord_pwr
  · have hpieces : ∀ ps : List (Nat × List Byte), s.Serves (ps.foldl (fun t x =>
        if t.byteOk x.1 then t.storeTagged x.1 x.2 ((tags.drop (x.1 - a)).take x.2.length) else t) s) := fun ps =>
      .foldl _ ps (fun t x _ => .ite (t.storeTagged_serves _ _ _) (.refl t)) s
    dsimp only
    split
    · exact (((hpieces _).trans (State.reqErr_serves _ _)).trans (State.bursts_serves _ port a _ true)).trans
        (State.granted_serves _ port _)
    · exact ((hpieces _).trans (State.bursts_serves _ port a _ true)).trans (State.granted_serves _ port _)

theorem State.serveReq_serves (q : DramReq) : s.Serves (s.serveReq q) := by
  unfold State.serveReq
  split
  · exact s.dramWrite_serves _ _ _ _
  · exact (s.dramRead_serves q.port q.addr q.len q.errs).trans (.of_fields rfl rfl rfl rfl)

theorem State.arrive_serves (port : Nat) : s.Serves (s.arrive port) := by
  unfold State.arrive
  split
  · exact .refl s
  · have hq : ∀ u : State, u.Serves (u.serveAll port) := fun u =>
      (.of_fields rfl rfl rfl rfl : u.Serves
        { u with drc := { u.drc with queue := u.drc.queue.filter (fun q => q.port != port) } }).trans
        (.foldl _ _ (fun t q _ => t.serveReq_serves q) _)
    exact s.memWake_serves.trans (hq _)

/-- A unit's write changes neither Ingest nor a stream, nor a register outside the memory's pages. -/
theorem State.writeMem_serves (port a : Nat) (bs : List Byte) : s.Serves (s.writeMem port a bs) := by
  unfold State.writeMem
  split
  · exact (s.arrive_serves port).trans (State.dramWrite_serves _ port a bs _)
  · exact s.store_serves a bs false

end Sys2Proof.Machine
end

section
/-! PROOFS. The host ring of a stream (R141, R159, R330). -/

namespace Sys2Proof.Machine

variable {t : State} (s : State)

/-! ### The doorbell and RING_RESET (R141, R159) -/

theorem State.exec_ringDoorbell (r : Req) (i : Fin 4) (tail : BitVec 16) (h : s.open r (pgSTM i.val) = true) :
    exec (.ringDoorbell r i tail) s =
      .next ((s.reached r (pgSTM i.val)).wr (pgSTM i.val) STM_RING_TAIL_TAIL tail.toNat) := by
  have he : exec (.ringDoorbell r i tail) s = .next (s.fresh.access r (pgSTM i.val) 0x064
      (fun t => t.wr (pgSTM i.val) STM_RING_TAIL_TAIL tail.toNat)) := rfl
  rw [he, s.access_fresh_open _ _ _ _ h]

/-- The ring's registers are read afresh, and the fence is lifted. -/
def State.ringAfresh (s : State) (i : Fin 4) (x : Stream) : Stream :=
  { x with ringAddr := BitVec.ofNat 64 (s.rd2 (pgSTM i.val) STM_RING_LO_ADDR STM_RING_HI_ADDR),
           ringSize := s.rd (pgSTM i.val) STM_RING_SIZE_N, fenced := false }

theorem State.exec_ringReset (r : Req) (i : Fin 4) (h : s.Takes r (pgSTM i.val)) (hsrc : (s.stmOf i).src = 1)
    (hrun : s.stmRunning i.val = true) (hsize : ringSizeOk (s.rd (pgSTM i.val) STM_RING_SIZE_N) = true) :
    exec (.ringReset r i 0) s = .next (((s.taken r (pgSTM i.val) 3).updStm i (s.ringAfresh i)).wr (pgSTM i.val)
      STM_RING_HEAD_HEAD 0) := by
  have he : exec (.ringReset r i 0) s = .next (command r (pgSTM i.val) 0x0003 0 true false
      (fun t => [((t.stmOf i).src != 1 || !t.stmRunning i.val, rcWRONG_STATE),
                 (!ringSizeOk (t.rd (pgSTM i.val) STM_RING_SIZE_N), rcBAD_ARG)])
      (fun t => (t.updStm i (t.ringAfresh i)).wr (pgSTM i.val) STM_RING_HEAD_HEAD 0) s.fresh) := rfl
  obtain ⟨x, y, z, hx⟩ := s.taken_eq r (pgSTM i.val) 3
  have hread : (s.taken r (pgSTM i.val) 3).ringAfresh i = s.ringAfresh i := by rw [hx]; rfl
  obtain ⟨w, hw⟩ := s.reached_eq r (pgSTM i.val)
  have hsrc' : ((s.reached r (pgSTM i.val)).stmOf i).src = 1 := by rw [hw]; exact hsrc
  have hrun' : (s.reached r (pgSTM i.val)).stmRunning i.val = true := by rw [hw]; exact hrun
  rw [he, command_accepts _ _ _ _ _ _ _ _ _ h.reach h.idle (.inr h.live) (fun _ => rfl)]
  · rw [hread]
  · rw [hsrc', hrun', State.reached_rd, hsize]
    simp

theorem State.stmOf_updStm (i : Fin 4) (g : Stream → Stream) : (s.updStm i g).stmOf i = g (s.stmOf i) := by
  unfold State.stmOf
  rw [State.updStm_get, if_pos rfl]

theorem State.ringReset_effect (r : Req) (i : Fin 4) :
    let t := ((s.taken r (pgSTM i.val) 3).updStm i (s.ringAfresh i)).wr (pgSTM i.val) STM_RING_HEAD_HEAD 0
    t.stmOf i = s.ringAfresh i (s.stmOf i) ∧ t.rd (pgSTM i.val) STM_RING_HEAD_HEAD = 0 ∧ s.SameMem t ∧
    s.SameRegs t (fun p o => p = pgSTM i.val ∧ o = STM_RING_HEAD_HEAD.off) ∧
    { t with regs := s.regs, stm := s.stm } = s.taken r (pgSTM i.val) 3 := by
  obtain ⟨x, y, z, hx⟩ := s.taken_eq r (pgSTM i.val) 3
  refine ⟨?_, ?_, ?_, ?_, ?_⟩
  · have h : (((s.taken r (pgSTM i.val) 3).updStm i (s.ringAfresh i)).wr (pgSTM i.val) STM_RING_HEAD_HEAD 0).stmOf i =
      ((s.taken r (pgSTM i.val) 3).updStm i (s.ringAfresh i)).stmOf i := rfl
    rw [h, State.stmOf_updStm, hx]
    rfl
  · rw [State.rd_wr _ _ _ (by decide)]
    rfl
  · rw [hx]
    exact .of_eq rfl rfl rfl
  · rw [hx]
    exact State.wr_sameRegs _ _ STM_RING_HEAD_HEAD (by decide) 0
  · rw [hx]
    rfl

/-! ### A descriptor is read (R141) -/

/-- PRINT runs, so its events are not clamped. -/
theorem State.descriptorReady_runs (i : Fin 4) (h : s.descriptorReady i = true) :
    s.isolated .print = false := by
  have hp : s.printRuns = true := by
    unfold State.descriptorReady at h
    simp only [Bool.and_eq_true] at h
    exact h.1.1.1.1
  exact s.not_isolated_of_runs .print hp

/-- The head that a descriptor's tile names. -/
def State.descriptorHead (s : State) (i : Fin 4) (tile : List Byte) : Nat :=
  leAt (fun n => (tile[n]?).getD 0) (if (s.stmOf i).encrypted then 29 else 5) 1

/-- The length that a descriptor gives. -/
def descriptorLen (desc : List Byte) : Nat := leAt (fun n => (desc[n]?).getD 0) 8 4

section Descriptor

variable (i : Fin 4) (desc tile : List Byte) (bad : Bool) (h : s.descriptorReady i = true)
include h

theorem State.exec_descriptorRead_long (hlen : 65536 < descriptorLen desc) :
    exec (.descriptorRead i desc tile bad) s =
      .next ((s.fresh.reject i 4 (s.descriptorHead i tile)).descriptorDone i 4) := by
  refine congrArg Host.Outcome.next ((State.onlyIf_true _ _ _ h).trans ?_)
  exact if_pos hlen

theorem State.exec_descriptorRead_full (hlen : descriptorLen desc ≤ 65536)
    (hfree : (s.stmOf i).free < descriptorLen desc) :
    exec (.descriptorRead i desc tile bad) s = .next s.fresh := by
  refine congrArg Host.Outcome.next ((State.onlyIf_true _ _ _ h).trans ?_)
  exact ((if_neg (Nat.not_lt.mpr hlen)).trans (if_pos hfree))

theorem State.exec_descriptorRead_poisoned (hlen : descriptorLen desc ≤ 65536)
    (hfree : descriptorLen desc ≤ (s.stmOf i).free) :
    exec (.descriptorRead i desc tile true) s =
      .next (((s.fresh.noteError (s.ringFn i) 12).reject i 8 (s.descriptorHead i tile)).descriptorDone i 8) := by
  refine congrArg Host.Outcome.next ((State.onlyIf_true _ _ _ h).trans ?_)
  exact ((if_neg (Nat.not_lt.mpr hlen)).trans ((if_neg (Nat.not_lt.mpr hfree)).trans (if_pos rfl)))

theorem State.exec_descriptorRead_plain (hlen : descriptorLen desc ≤ 65536)
    (hfree : descriptorLen desc ≤ (s.stmOf i).free) (henc : (s.stmOf i).encrypted = false) :
    exec (.descriptorRead i desc tile false) s =
      .next (s.fresh.ringTile i (tile.take (descriptorLen desc)) 0xFF) := by
  have henc' : ¬ (s.fresh.stmOf i).encrypted = true := by rw [show s.fresh.stmOf i = s.stmOf i from rfl, henc]; decide
  refine congrArg Host.Outcome.next ((State.onlyIf_true _ _ _ h).trans ?_)
  exact ((if_neg (Nat.not_lt.mpr hlen)).trans ((if_neg (Nat.not_lt.mpr hfree)).trans
    ((if_neg Bool.false_ne_true).trans (if_neg henc'))))

end Descriptor

theorem State.exec_dmaTimeout_ring (i : Fin 4) (h : s.descriptorReady i = true) :
    exec (.dmaTimeout (.ring i)) s = .next
      ((((s.fresh.noteError (s.ringFn i) 14).incSat pgPCIE PCIE_CPL_TIMEOUTS_N).reject i 8 0).descriptorDone i 8) := by
  have he : exec (.dmaTimeout (.ring i)) s = .next (s.fresh.onlyIf (s.descriptorReady i) (fun t =>
      (((t.noteError (s.ringFn i) 14).incSat pgPCIE PCIE_CPL_TIMEOUTS_N).reject i 8 0).descriptorDone i 8)) := rfl
  rw [he, State.onlyIf_true _ _ _ h]

/-! ### A plain tile is judged (R139, R166) -/

/-- The staging space of a tile's bytes is counted. -/
def State.spaceTaken (s : State) (i : Fin 4) (n : Nat) : State := s.updStm i (fun x => { x with used := x.used + n })

/-- The code that the staging checks give a tile. -/
def State.tileCode (s : State) (i : Fin 4) (bs : List Byte) (key : Nat) : Nat :=
  s.stagingCode i (fun n => (bs[n]?).getD 0) bs.length key (readHdr (fun n => (bs[n]?).getD 0)).first false

/-- The head that a tile's header names. -/
def tileHead (bs : List Byte) : Nat := (readHdr (fun n => (bs[n]?).getD 0)).head

/-- The space of a rejected tile is given back. -/
def State.spaceGiven (s : State) (i : Fin 4) (n : Nat) : State := s.updStm i (fun x => { x with used := x.used - n })

theorem State.ringTile_rejected (i : Fin 4) (bs : List Byte) (key : Nat)
    (h : (s.spaceTaken i bs.length).tileCode i bs key ≠ 0) :
    s.ringTile i bs key =
      ((((s.spaceTaken i bs.length).spaceGiven i bs.length).reject i ((s.spaceTaken i bs.length).tileCode i bs key)
        (tileHead bs)).showStaging i).descriptorDone i ((s.spaceTaken i bs.length).tileCode i bs key) := by
  have hst : (s.spaceTaken i bs.length).stageTile i bs key =
      (((((s.spaceTaken i bs.length).spaceGiven i bs.length).reject i
        ((s.spaceTaken i bs.length).tileCode i bs key) (tileHead bs)).showStaging i),
        (s.spaceTaken i bs.length).tileCode i bs key) := if_pos h
  change (match (s.spaceTaken i bs.length).stageTile i bs key with
    | (s2, code) => s2.descriptorDone i code) = _
  rw [hst]

end Sys2Proof.Machine
end

section
/-! PROOFS. A plain tile of the host ring is judged (R139, R141, R166). -/

namespace Sys2Proof.Machine

variable {t : State} (s : State)

/-! ### The staging registers -/

/-- The words of what is staged. -/
def stagedWord (i : Fin 4) (p o : Nat) : Prop :=
  p = pgSTM i.val ∧ (o = 0x084 ∨ o = 0x088 ∨ o = 0x090 ∨ o = 0x094)

theorem stagedWord_not_head (i : Fin 4) : ¬ stagedWord i (pgSTM i.val) 0x068 := fun h => absurd h.2 (by decide)

theorem stagedWord_not_reason (i : Fin 4) : ¬ stagedWord i (pgSTM i.val) 0x0A8 := fun h => absurd h.2 (by decide)

theorem memWord_not_stm (i : Fin 4) (o : Nat) (ho : ¬ evWords pgGBK (pgSTM i.val) o) : ¬ memWord (pgSTM i.val) o := by
  rintro (h | h)
  · exact absurd h ((by decide : ∀ i : Fin 4, pgSTM i.val ∉ [pgPWR, pgDRC, pgDRAM 0, pgDRAM 1]) i)
  · exact ho h

theorem State.showStaging_raises (i : Fin 4) : s.Raises (s.showStaging i) (stagedWord i) :=
  (s.wr_raises _ _ STM_WINDOW_BYTES (by decide) (by decide) ⟨rfl, .inl rfl⟩).trans
    (State.wr_raises _ _ _ STM_STAGED_KIB (by decide) (by decide) ⟨rfl, .inr (.inl rfl)⟩)

/-! ### The checks reject it -/

/-- A tile that the checks reject leaves Ingest and its stream as they were, and its descriptor completes with the
checks' code. -/
theorem State.ringTile_turnedDown (i : Fin 4) (bs : List Byte) (key : Nat) (hp : s.isolated .print = false)
    (hc : (s.spaceTaken i bs.length).tileCode i bs key ≠ 0) :
    let t := s.ringTile i bs key
    let c := (s.spaceTaken i bs.length).tileCode i bs key
    (t.rd (pgSTM i.val) STM_RING_HEAD_HEAD =
      ringIdx (s.rd (pgSTM i.val) STM_RING_HEAD_HEAD + 1) (s.stmOf i).ringSize % 2 ^ STM_RING_HEAD_HEAD.width ∧
    .hostWrite ((s.stmOf i).ringAddr + BitVec.ofNat 64 (16 * s.rd (pgSTM i.val) STM_RING_HEAD_HEAD + 12))
      (leBytes 4 (1 + 16 * c)) ∈ t.emitted) ∧
    t.ing = s.ing ∧ (t.stmOf i).used = (s.stmOf i).used ∧ t.rd (pgSTM i.val) STM_REJECT_REASON = c % 16 ∧
    t.Raised (pgSTM i.val) 2 ∧ s.SameMem t := by
  dsimp only
  rw [s.ringTile_rejected i bs key hc]
  generalize (s.spaceTaken i bs.length).tileCode i bs key = c
  have hx : ((s.spaceTaken i bs.length).spaceGiven i bs.length).stmOf i = s.stmOf i := by
    rw [State.spaceGiven, State.stmOf_updStm, State.spaceTaken, State.stmOf_updStm]
    simp
  have hp' : ((s.spaceTaken i bs.length).spaceGiven i bs.length).isolated .print = false := hp
  have hh : ((s.spaceTaken i bs.length).spaceGiven i bs.length).rd (pgSTM i.val) STM_RING_HEAD_HEAD =
      s.rd (pgSTM i.val) STM_RING_HEAD_HEAD := rfl
  have hi : ((s.spaceTaken i bs.length).spaceGiven i bs.length).ing = s.ing := rfl
  have hm : s.SameMem ((s.spaceTaken i bs.length).spaceGiven i bs.length) := .of_eq rfl rfl rfl
  generalize (s.spaceTaken i bs.length).spaceGiven i bs.length = u at *
  have hr := u.reject_raises i c (tileHead bs)
  have hs := (u.reject i c (tileHead bs)).showStaging_raises i
  have hd := ((u.reject i c (tileHead bs)).showStaging i).descriptorDone_raises i c
  have hstm := State.stmOf_of_stm (hs.stm.trans hr.stm) i
  refine ⟨State.descriptorDone_of i c ?_ (by rw [hstm, hx]) (by rw [hstm, hx]), ?_, ?_, ?_, ?_, ?_⟩
  · rw [hs.keeps.rd _ _ (by decide) (stagedWord_not_head i), hr.keeps.rd _ _ (by decide) (headWord_not_reject i), hh]
  · rw [hd.ing, hs.ing, hr.ing, hi]
  · rw [State.stmOf_of_stm hd.stm i, hstm, hx]
  · rw [hd.keeps.rd _ _ (by decide) (rejectWord_not_head i),
      hs.keeps.rd _ _ (by decide) (stagedWord_not_reason i), State.reject_reason]
  · exact hd.raised _ _ (hs.raised _ _ (u.reject_raised i c _ hp'))
  · exact ((hm.trans hr.keeps.sameMem).trans hs.keeps.sameMem).trans hd.keeps.sameMem

/-! ### The checks pass it -/

/-- The tile's bytes have been written to the staging ring, and the ring's place has moved on. -/
def State.ringWritten (s : State) (i : Fin 4) (bs : List Byte) : State :=
  let x := s.stmOf i
  let ofs := s.place i bs.length
  let n := min bs.length (x.size - ofs)
  let u := s.writeMem 2 (x.base + ofs) (bs.take n)
  if n < bs.length then u.writeMem 2 x.base (bs.drop n) else u

theorem State.ringWritten_serves (i : Fin 4) (bs : List Byte) : s.Serves (s.ringWritten i bs) :=
  .ite ((s.writeMem_serves _ _ _).trans (State.writeMem_serves _ _ _ _)) (s.writeMem_serves _ _ _)

/-- The place of the staging ring's next tile. -/
def State.placeMoved (s : State) (i : Fin 4) (wr : Nat) : State := s.updStm i (fun y => { y with wr := wr })

theorem State.ringTile_staged (i : Fin 4) (bs : List Byte) (key : Nat)
    (h : (s.spaceTaken i bs.length).tileCode i bs key = 0) :
    ∃ addr base size first wr, s.ringTile i bs key =
      ((((((s.spaceTaken i bs.length).ringWritten i bs).placeMoved i wr).addTile i (fun n => (bs[n]?).getD 0) addr base
        size bs.length first none).showStaging i).descriptorDone i 0) := by
  let u := s.spaceTaken i bs.length
  let x := u.stmOf i
  let ofs := u.place i bs.length
  let first := (readHdr (fun n => (bs[n]?).getD 0)).first
  have hst : u.stageTile i bs key =
      (((((u.ringWritten i bs).placeMoved i ((ofs + bs.length) % x.size)).addTile i (fun n => (bs[n]?).getD 0)
        (x.base + ofs) x.base x.size bs.length first none).showStaging i), 0) := if_neg (not_not_intro h)
  refine ⟨x.base + ofs, x.base, x.size, first, (ofs + bs.length) % x.size, ?_⟩
  change (match u.stageTile i bs key with
    | (s2, code) => s2.descriptorDone i code) = _
  rw [hst]

/-- The tile is staged and its head's expected line moves on, before it is counted. -/
def State.tileNoted (s : State) (i : Fin 4) (u : Tile) (e : List (Nat × Nat)) : State :=
  (s.updIng (fun x => { x with tiles := x.tiles ++ [u], nextTile := x.nextTile + 1 })).updStm i
    (fun x => { x with expected := e })

theorem State.addTile_noted (i : Fin 4) (byteAt : Nat → Byte) (addr base size len first : Nat)
    (loop : Option (Nat × Nat)) :
    ∃ u e, s.addTile i byteAt addr base size len first loop =
      (s.tileNoted i u e).add2 (pgSTM i.val) STM_TILES_LO_N STM_TILES_HI_N 1 := ⟨_, _, rfl⟩

/-- One more tile waits, only the expected lines of its stream have moved on, and it is counted. -/
theorem State.addTile_effect (i : Fin 4) (byteAt : Nat → Byte) (addr base size len first : Nat)
    (loop : Option (Nat × Nat)) :
    let t := s.addTile i byteAt addr base size len first loop
    t.ing.tiles.length = s.ing.tiles.length + 1 ∧ (∃ e, t.stmOf i = { s.stmOf i with expected := e }) ∧
    (∀ p o, o < 4096 → ¬ stagedWord i p o → t.word p o = s.word p o) := by
  obtain ⟨u, e, h⟩ := s.addTile_noted i byteAt addr base size len first loop
  have hr : (s.tileNoted i u e).Raises (s.addTile i byteAt addr base size len first loop) (stagedWord i) := by
    rw [h, State.add2_eq]
    exact State.wr2_raises _ _ STM_TILES_LO_N STM_TILES_HI_N _ (by decide) (by decide) (by decide) (by decide)
      ⟨rfl, .inr (.inr (.inl rfl))⟩ ⟨rfl, .inr (.inr (.inr rfl))⟩
  refine ⟨?_, ⟨e, ?_⟩, fun p o ho hn => hr.word p o ho hn⟩
  · rw [hr.ing]
    exact List.length_append
  · rw [State.stmOf_of_stm hr.stm i, State.tileNoted, State.stmOf_updStm]
    rfl

/-- A tile that passes the checks is staged, and its descriptor completes without a code. -/
theorem State.ringTile_accepted (i : Fin 4) (bs : List Byte) (key : Nat)
    (hc : (s.spaceTaken i bs.length).tileCode i bs key = 0) :
    let t := s.ringTile i bs key
    (t.rd (pgSTM i.val) STM_RING_HEAD_HEAD =
      ringIdx (s.rd (pgSTM i.val) STM_RING_HEAD_HEAD + 1) (s.stmOf i).ringSize % 2 ^ STM_RING_HEAD_HEAD.width ∧
    .hostWrite ((s.stmOf i).ringAddr + BitVec.ofNat 64 (16 * s.rd (pgSTM i.val) STM_RING_HEAD_HEAD + 12))
      (leBytes 4 (1 + 16 * 0)) ∈ t.emitted) ∧
    t.ing.tiles.length = s.ing.tiles.length + 1 ∧ (t.stmOf i).used = (s.stmOf i).used + bs.length := by
  obtain ⟨addr, base, size, first, wr, h⟩ := s.ringTile_staged i bs key hc
  rw [h]
  have hw := (s.spaceTaken i bs.length).ringWritten_serves i bs
  have hwx : ((s.spaceTaken i bs.length).ringWritten i bs).stmOf i =
      { s.stmOf i with used := (s.stmOf i).used + bs.length } := by
    rw [State.stmOf_of_stm hw.stm i, State.spaceTaken, State.stmOf_updStm]
  have hwi : ((s.spaceTaken i bs.length).ringWritten i bs).ing.tiles.length = s.ing.tiles.length := by
    rw [hw.ing]; rfl
  have hwh : ((s.spaceTaken i bs.length).ringWritten i bs).word (pgSTM i.val) 0x068 = s.word (pgSTM i.val) 0x068 :=
    hw.word _ _ (by decide) (memWord_not_stm i _ (not_evWords _ _ _ (by decide) (by decide)))
  generalize (s.spaceTaken i bs.length).ringWritten i bs = v at *
  obtain ⟨hlen, ⟨e, hx⟩, hword⟩ := (v.placeMoved i wr).addTile_effect i (fun n => (bs[n]?).getD 0) addr base size
    bs.length first none
  have hmoved : (v.placeMoved i wr).word (pgSTM i.val) 0x068 = v.word (pgSTM i.val) 0x068 := rfl
  have hhead := ((hword (pgSTM i.val) 0x068 (by decide) (stagedWord_not_head i)).trans hmoved).trans hwh
  generalize (v.placeMoved i wr).addTile i (fun n => (bs[n]?).getD 0) addr base size bs.length first none = u at *
  have hx' : u.stmOf i = { s.stmOf i with used := (s.stmOf i).used + bs.length, wr := wr, expected := e } := by
    rw [hx, State.placeMoved, State.stmOf_updStm, hwx]
  have hs := u.showStaging_raises i
  have hd := (u.showStaging i).descriptorDone_raises i 0
  have hstm := (State.stmOf_of_stm hs.stm i).trans hx'
  refine ⟨State.descriptorDone_of i 0 ?_ (by rw [hstm]) (by rw [hstm]), ?_, ?_⟩
  · rw [hs.keeps.rd _ _ (by decide) (stagedWord_not_head i)]
    unfold State.rd
    rw [show STM_RING_HEAD_HEAD.off = 0x068 from rfl, hhead]
  · rw [hd.ing, hs.ing, hlen]
    exact congrArg (· + 1) hwi
  · rw [State.stmOf_of_stm hd.stm i, hstm]

end Sys2Proof.Machine
end

section
/-! PROOFS. The host ring of a stream, put together (R141, R159, R330). -/

namespace Sys2Proof.Machine

variable {s u : State} {but : Nat → Nat → Prop}

/-! ### Descriptors that are turned down -/

/-- A descriptor that is turned down completes as it stood before what has been noted about it. -/
theorem State.Raises.turnDown_shows (h : s.Raises u but) (i : Fin 4) (code head : Nat)
    (hi : s.isolated .print = false) (hb : ¬ but (pgSTM i.val) 0x068) :
    let t := (u.reject i code head).descriptorDone i code
    (t.rd (pgSTM i.val) STM_RING_HEAD_HEAD =
      ringIdx (s.rd (pgSTM i.val) STM_RING_HEAD_HEAD + 1) (s.stmOf i).ringSize % 2 ^ STM_RING_HEAD_HEAD.width ∧
    .hostWrite ((s.stmOf i).ringAddr + BitVec.ofNat 64 (16 * s.rd (pgSTM i.val) STM_RING_HEAD_HEAD + 12))
      (leBytes 4 (1 + 16 * code)) ∈ t.emitted) ∧
    t.rd (pgSTM i.val) STM_REJECT_REASON = code % 16 ∧ t.Raised (pgSTM i.val) 2 ∧ t.ing = s.ing ∧
    t.stm = s.stm := by
  have hshown := u.turnDown_shows i code head (h.keeps.isolated .print ▸ hi)
  rw [h.keeps.rd _ STM_RING_HEAD_HEAD (by decide) hb, State.stmOf_of_stm h.stm i, h.ing, h.stm] at hshown
  exact hshown

theorem State.Raises.turnDown_within (h : s.Raises u but) (i : Fin 4) (code head : Nat) (pages : List Nat)
    (hb : ∀ p o, but p o → p ∈ pages) (hi : pgSTM i.val ∈ pages) :
    s.Within ((u.reject i code head).descriptorDone i code) pages := by
  have hboth : s.Raises ((u.reject i code head).descriptorDone i code) (fun p o => but p o ∨ turnWord i p o) :=
    (h.mono fun _ _ => .inl).trans ((u.turnDown_raises i code head).mono fun _ _ => .inr)
  refine hboth.keeps.withinPages pages ?_
  rintro p o (hp | hp)
  · exact .inl (hb p o hp)
  · refine (turnWord_within i p o hp).imp_left fun hpg => ?_
    rw [List.mem_singleton.mp hpg]
    exact hi

variable (s)

theorem State.fresh_raises : s.Raises s.fresh but := ⟨rfl, fun _ _ _ _ => rfl, rfl, fun _ _ h => h⟩

/-- A poisoned descriptor has been noted for the host. -/
theorem State.poisonNoted_raises (i : Fin 4) (b : Nat) : s.Raises (s.fresh.noteError (s.ringFn i) b) but :=
  s.fresh_raises.trans (State.noteError_raises _ _ _)

/-- A host read that timed out has been noted and counted. -/
theorem State.timeoutCounted_raises (i : Fin 4) :
    s.Raises ((s.fresh.noteError (s.ringFn i) 14).incSat pgPCIE PCIE_CPL_TIMEOUTS_N)
      (fun p o => p = pgPCIE ∧ o = PCIE_CPL_TIMEOUTS_N.off) :=
  (s.poisonNoted_raises i 14).trans (State.incSat_raises _ _ PCIE_CPL_TIMEOUTS_N (by decide) (by decide) ⟨rfl, rfl⟩)

theorem pgSTM_ne_pcie (i : Fin 4) : pgSTM i.val ≠ pgPCIE :=
  (by decide : ∀ i : Fin 4, pgSTM i.val ≠ pgPCIE) i

theorem turnWord_not_pcie (i : Fin 4) (o : Nat) : ¬ turnWord i pgPCIE o := fun h =>
  (turnWord_within i _ _ h).elim (fun hp => pgSTM_ne_pcie i (List.mem_singleton.mp hp).symm) (not_evWords_pcie o)

/-- A host read that times out is counted (R330). -/
theorem State.ringTimeout_counts (i : Fin 4) :
    ((((s.fresh.noteError (s.ringFn i) 14).incSat pgPCIE PCIE_CPL_TIMEOUTS_N).reject i 8 0).descriptorDone i 8).rd
      pgPCIE PCIE_CPL_TIMEOUTS_N =
      min (s.rd pgPCIE PCIE_CPL_TIMEOUTS_N + 1) (2 ^ PCIE_CPL_TIMEOUTS_N.width - 1) := by
  rw [(State.turnDown_raises _ i 8 0).keeps.rd _ _ (by decide) (turnWord_not_pcie i _),
    State.rd_incSat _ _ _ (by decide)]
  rfl

/-! ### The obligation -/

/-- Settles O35: a descriptor that is turned down shows the same from each of its causes (`turnDown_shows`), and a
plain tile follows the checks' code (`ringTile_turnedDown`, `ringTile_accepted`). -/
theorem hostRing : Obligations.HostRing := by
  unfold Obligations.HostRing
  intro s i
  refine ⟨fun r tail h => ?_, fun desc tile bad h => ⟨fun hlen => ?_, fun hlen hfree => ?_, fun hlen hfree hbad => ?_,
    fun hlen henc hfree hbad htile => ?_⟩, fun r h hsrc hrun hsize => ?_, fun h => ?_⟩
  · obtain ⟨x, hx⟩ := s.reached_eq r (pgSTM i.val)
    refine ⟨_, s.exec_ringDoorbell r i tail h, State.rd_wr _ _ _ (by decide) _, ?_, ?_, ?_⟩
    · rw [hx]; exact .of_eq rfl rfl rfl
    · rw [hx]; exact State.wr_sameRegs _ _ STM_RING_TAIL_TAIL (by decide) _
    · rw [hx]; rfl
  · exact ⟨_, s.exec_descriptorRead_long i desc tile bad h hlen,
      s.fresh_raises.turnDown_shows (but := fun _ _ => False) i 4 _ (s.descriptorReady_runs i h) not_false,
      s.fresh_raises.turnDown_within (but := fun _ _ => False) i 4 _ _ (fun _ _ => False.elim) (by simp)⟩
  · exact s.exec_descriptorRead_full i desc tile bad h hlen hfree
  · subst hbad
    exact ⟨_, s.exec_descriptorRead_poisoned i desc tile h hlen hfree,
      (s.poisonNoted_raises i 12).turnDown_shows (but := fun _ _ => False) i 8 _ (s.descriptorReady_runs i h)
        not_false,
      (s.poisonNoted_raises i 12).turnDown_within (but := fun _ _ => False) i 8 _ _ (fun _ _ => False.elim) (by simp)⟩
  · subst hbad
    have hrun := s.exec_descriptorRead_plain i desc tile h hlen hfree henc
    have htake : tile.take (descriptorLen desc) = tile := by
      rw [show descriptorLen desc = tile.length from htile.symm, List.take_length]
    rw [htake] at hrun
    by_cases hc : (s.fresh.spaceTaken i tile.length).tileCode i tile 0xFF = 0
    · obtain ⟨hdone, hlen', hused⟩ := s.fresh.ringTile_accepted i tile 0xFF hc
      exact ⟨_, 0, hrun, hdone, fun _ => ⟨hlen', hused.trans (congrArg _ htile)⟩, fun h0 => absurd rfl h0⟩
    · obtain ⟨hdone, hing, hused, hreason, hraised, hmem⟩ :=
        s.fresh.ringTile_turnedDown i tile 0xFF (s.descriptorReady_runs i h) hc
      exact ⟨_, _, hrun, hdone, fun h0 => absurd h0 hc, fun _ => ⟨hing, hused, hreason, hraised, hmem⟩⟩
  · obtain ⟨hstm, hhead, hmem, hregs, hrest⟩ := s.ringReset_effect r i
    exact ⟨_, s.exec_ringReset r i h hsrc hrun hsize, by rw [hstm]; rfl, by rw [hstm]; rfl, by rw [hstm]; rfl, hhead,
      hmem, hregs, hrest⟩
  · have hnot : ¬ (pgSTM i.val = pgPCIE ∧ 0x068 = PCIE_CPL_TIMEOUTS_N.off) := fun hp => pgSTM_ne_pcie i hp.1
    exact ⟨_, s.exec_dmaTimeout_ring i h,
      (s.timeoutCounted_raises i).turnDown_shows i 8 0 (s.descriptorReady_runs i h) hnot, s.ringTimeout_counts i,
      (s.timeoutCounted_raises i).turnDown_within i 8 0 _ (fun p _ hp => by simp [hp.1]) (by simp)⟩

end Sys2Proof.Machine
end
